-- ==== Sys2Proof/Word.lean ====
section
/-! DEFINITION. The word types of the D9: what the manual treats as bits. Numbers that are counted, compared or
indexed are `Nat` or `Int`. -/

namespace Sys2Proof

/-- A byte of memory or of a message. -/
abbrev Byte := BitVec 8

/-- A 32-bit word. -/
abbrev Word := BitVec 32

/-- A 64-bit word: the widest register of the register space (R25). A 32-bit register uses the low half. -/
abbrev DWord := BitVec 64

end Sys2Proof
end

