-- ==== Sys2Proof/Syntax.lean ====
section
/-! DEFINITION. The commands of the block: one constructor per row of spec/opcode_table.json, and the data they
carry. -/

namespace Sys2Proof

/-- Who asks for a register access (R27, R44). -/
inductive Requester where
  /-- Management core 0 or 1. -/
  | mgmt (core : Nat)
  /-- The Slaiq protocol. -/
  | slaiq
  /-- The control core of a presented tile. -/
  | tileCore (tile : Nat)
  /-- A RoCEv2 memory window. -/
  | roce
  /-- A Narxo Link request from another device. -/
  | fabric
deriving DecidableEq, Repr

/-- The payload of a beacon (R61). -/
structure Beacon where
  impression : Nat
  gated : Bool
  timeout : Bool
  failover : Bool
  periodNs : Nat
  accDelay : Nat
  master : Nat
  hops : Nat
  gen : Nat
deriving DecidableEq, Repr

/-- What another device, or the fabric, answers an access with (R97, R294): a rejection code (0: none), and, for a
read, the bytes with the mark each carries. -/
structure RemoteAns where
  code : Nat
  data : List Byte
  marks : List Bool
deriving DecidableEq, Repr

/-- A token increment that arrives (R91): one of those on their way from this device's own units, by its place among
them, or one another device sent. -/
inductive IncSource where
  | own (index : Nat)
  | remote (tile counter incr : Nat)
deriving DecidableEq, Repr


/-- A Winnow message (R245): KIND, inbox, SRC_ID, SLOT or COUNT, TAG, payload. -/
structure WinnMsg where
  tile : Nat
  kind : Nat
  inbox : Nat
  src : Nat
  slot : Nat
  tag : Nat
  payload : List Byte
deriving DecidableEq, Repr

/-- What members of a sheaf send one another (R261, R263, R266, R269). Exponents are 16-bit codes, 0x8000 for none. -/
inductive SheafMsg where
  /-- A 512-element block: stage, index within the part it belongs to, S, carrier width in bits, clip count, MISMATCH,
  class plane (empty: all finite), carrier elements, and the mark each carries. -/
  | block (tag gen stage idx s width clip : Nat) (mismatch : Bool) (classes : List Nat) (vals : List Int)
      (marks : List Bool)
  /-- A scale round's exponent (R263). -/
  | scale (tag gen stage e : Nat)
  /-- An epilogue round's record (R269): exponents, shard flags, clip count, non-finite count. -/
  | epi (tag gen stage eRes eCon flags clip nonfin : Nat)
  /-- A converted shard on its way to the root (R269), with the mark each byte carries. -/
  | shard (tag gen k : Nat) (data : List Byte) (marks : List Bool)
  /-- The root's acknowledgement of a shard. -/
  | shardAck (tag gen k : Nat)
deriving DecidableEq, Repr

/-- The unit an access came from, as a refusal's tag names it (R359): physical tile, queue and SEQ of a DMA or Winnow
operation; a fetch or a prefetch by its site and DST; an audit's readback by its site. -/
inductive Origin where
  | none
  | op (phys queue seq : Nat)
  | fetch (site dst : Nat)
  | prefetch (site dst : Nat)
  | audit (site : Nat)
deriving DecidableEq, Repr

/-- The body of a message between devices (R350). -/
inductive FabBody where
  | token (tile counter incr : Nat)
  | ready (impression : Nat)
  | sheaf (m : SheafMsg)
  /-- A VERIFIED note (R294): the owner's digest entry, the step, and where the verified copy lies. -/
  | verified (dig step node addr : Nat)
  | writeAck
  | refusal (code : Nat)
  | assume (target node impression : Nat)
  | readReq (addr len : Nat)
  | readResp (code : Nat) (data : List Byte) (marks : List Bool)
  /-- A write, with the mark each byte carries (R329; empty: none). -/
  | write (addr : Nat) (data : List Byte) (marks : List Bool)
  | winn (m : WinnMsg)
  /-- The answer to a Winnow message: 0 or the refusal's code. -/
  | winnAnswer (m : WinnMsg) (code : Nat)
  /-- A message whose contents do not matter to the device that forwards it. -/
  | opaqueBytes (data : List Byte)
deriving DecidableEq, Repr

/-- A message on a link (R345, R346): destination, source, virtual channel, routing phase of its hop, flits, the unit it
came from, body. -/
structure FabMsg where
  dst : Nat
  src : Nat
  vc : Nat
  phase : Nat
  flits : Nat
  origin : Origin
  body : FabBody
deriving DecidableEq, Repr

/-- A LINK_CTL flit (R348): ACK, NAK_SEQ if NAK, the replay under way has resent its last flit, RETRAIN_REQ,
RETRAIN_GRANT, lane, cumulative credits by pool, and notices of stook members' outer links: member, link, up. -/
structure LinkCtl where
  ack : Nat
  nak : Option Nat
  replayEnded : Bool
  retrainReq : Bool
  retrainGrant : Bool
  lane : Nat
  credits : List Nat
  notices : List (Nat × Nat × Bool)
deriving DecidableEq, Repr

/-- A received Ethernet frame (R387): its bytes' count on the wire, its VLAN tags (ID, PCP), EtherType, what follows, and
the share of the receive buffer that its priority holds with it (R388), the MGD's clock at its arrival in ms. -/
structure EthFrame where
  len : Nat
  tags : List (Nat × Nat)
  etherType : Nat
  body : List Byte
  fill : Nat
  ms : Nat
deriving DecidableEq, Repr

/-- A Slaiq datagram that reached the device (R394): source address as an IPv6 number (IPv4-mapped for IPv4), source
port, the MGD's clock at its arrival in ms, its bytes. -/
structure SlqMsg where
  ip : Nat
  port : Nat
  ms : Nat
  bytes : List Byte
deriving DecidableEq, Repr

/-- A RoCEv2 request as it reaches a queue pair (R392): queue pair index, PSN, whether it carries CE, the MGD's clock in
µs. -/
structure RdmaReq where
  qp : Nat
  psn : Nat
  ce : Bool
  us : Nat
deriving DecidableEq, Repr

/-- What a power control step measures (R444, R452, R454): input voltage (mV) and current (mA), mean input power over
100 µs and the largest 2 µs sample (W), power and temperature of each compute die, temperatures of the sites, of the MGD
and of the coolant (0.1 °C). -/
structure PowerSample where
  mv : Nat
  ma : Nat
  pAvg : Nat
  pMax : Nat
  dieW : List Nat
  tDie : List Int
  tSite : List Int
  tMgd : Int
  tCoolant : Int
deriving DecidableEq, Repr

/-- The commands of spec/opcode_table.json, one constructor per row, with the operands of the stimulus that brings
the row's step about. -/
inductive Instr where
  /-- REGISTER_WRITE (R41). -/
  | registerWrite (req : Requester) (addr size val : Nat)
  /-- RC_REGISTER_READ (R6). -/
  | rcRegisterRead (req : Requester) (addr size : Nat)
  /-- ERR_CODE_READ (R32). -/
  | errCodeRead (req : Requester) (addr : Nat)
  /-- EVT_PEND_CLEAR (R48). -/
  | evtPendClear (req : Requester) (addr val recur : Nat)
  /-- SOFT_RESET (R49). -/
  | softReset (req : Requester) (addr val : Nat)
  /-- SOFT_RESET_DONE (R49). -/
  | softResetDone (loc page : Nat)
  /-- IMPRESSION_EDGE (R52). -/
  | impressionEdge (elapsed : Nat)
  /-- BEACON_ISSUE (R56). -/
  | beaconIssue (elapsed : Nat)
  /-- BEACON_RECEIVE (R63). -/
  | beaconReceive (link : Nat) (b : Beacon)
  /-- READY_FORCE (R57). -/
  | readyForce (req : Requester)
  /-- READY_RECEIVE (R58). -/
  | readyReceive (node impression : Nat)
  /-- GATE_TIMEOUT (R60). -/
  | gateTimeout (elapsed : Nat)
  /-- BEACON_LOSS (R66). -/
  | beaconLoss (elapsed : Nat)
  /-- PRESS_ELECT (R65). -/
  | pressElect (m : SlqMsg)
  /-- SCHED_POST (R71). -/
  | schedPost (req : Requester)
  /-- SCHED_FIRE (R72). -/
  | schedFire (elapsed : Nat)
  /-- SCHED_CANCEL (R72). -/
  | schedCancel (req : Requester) (handle : Nat)
  /-- TOKEN_INC (R70). -/
  | tokenInc (loc tile arg : Nat)
  /-- SCHED_EVENT (R72). -/
  | schedEvent (handle arg : Nat)
  /-- BUBBLE_ENABLE (R74). -/
  | bubbleEnable (req : Requester) (count cycle : Nat)
  /-- BUBBLE_DISABLE (R74). -/
  | bubbleDisable (req : Requester)
  /-- BUBBLE_WINDOW_OPEN (R73). -/
  | bubbleWindowOpen (window elapsed : Nat)
  /-- BUBBLE_WINDOW_CLOSE (R73). -/
  | bubbleWindowClose (window elapsed : Nat)
  /-- Q_TAIL_WRITE (R88). -/
  | qTailWrite (req : Requester) (tile queue val : Nat)
  /-- QUEUE_START (R87). -/
  | queueStart (req : Requester) (tile queue : Nat)
  /-- QUEUE_STOP (R87). -/
  | queueStop (req : Requester) (tile queue : Nat)
  /-- QUEUE_REARM (R89). -/
  | queueRearm (req : Requester) (tile queue : Nat)
  /-- QUEUE_SKIP (R87). -/
  | queueSkip (req : Requester) (tile queue : Nat)
  /-- DESCRIPTOR_NOP (R80). -/
  | descriptorNop (tile queue : Nat)
  /-- DESCRIPTOR_COMPLETE (R85). -/
  | descriptorComplete (tile queue : Nat)
  /-- WAIT_EXPIRED (R86). -/
  | waitExpired (tile queue : Nat)
  /-- TOKEN_INCREMENT (R91). -/
  | tokenIncrement (inc : IncSource)
  /-- TOKEN_WRITE (R90). -/
  | tokenWrite (req : Requester) (tile counter val : Nat)
  /-- TOK_RD (R93). -/
  | tokRd (tile rd rs1 : Nat)
  /-- TOK_ADD (R93). -/
  | tokAdd (tile rd rs1 rs2 : Nat)
  /-- TOK_WAIT (R93). -/
  | tokWait (tile rd rs1 rs2 : Nat)
  /-- SUM_POP (R93). -/
  | sumPop (tile rd rs1 : Nat)
  /-- INST_RD (R93). -/
  | instRd (tile rd : Nat)
  /-- WFE (R93). -/
  | wfe (tile rd : Nat)
  /-- CORE_STALL_RELEASE (R93). -/
  | coreStallRelease (tile : Nat)
  /-- CORE_TRAP (R93). -/
  | coreTrap (tile cause tval : Nat)
  /-- CORE_RUN (R94). -/
  | coreRun (req : Requester) (tile : Nat) (run : Bool) (resetPc : Nat)
  /-- GALY_REGION_WRITE (R96). -/
  | galyRegionWrite (req : Requester) (tile region val : Nat)
  /-- COPY (R97). -/
  | dmaCopy (tile queue : Nat) (ans : List RemoteAns)
  /-- FILL (R97). -/
  | dmaFill (tile queue : Nat) (ans : List RemoteAns)
  /-- SPARE_SUBSTITUTION (R100). -/
  | spareSubstitution (tile : Nat) (readable : Bool)
  /-- SPARE_SUBSTITUTE (R101). -/
  | spareSubstitute (loc tile : Nat)
  /-- MATMUL (R131). -/
  | matmul (tile : Nat)
  /-- COV_FLUSH (R142). -/
  | covFlush (tile : Nat)
  /-- SLOT_CLR (R143). -/
  | slotClr (req : Requester) (tile val : Nat)
  /-- MOV (R149). -/
  | mov (tile : Nat)
  /-- NEG (R149). -/
  | neg (tile : Nat)
  /-- ABS (R149). -/
  | abs (tile : Nat)
  /-- SQRT (R160). -/
  | sqrt (tile : Nat)
  /-- RSQRT (R160). -/
  | rsqrt (tile : Nat)
  /-- RECIP (R160). -/
  | recip (tile : Nat)
  /-- EXP (R160). -/
  | exp (tile : Nat)
  /-- EXP2 (R160). -/
  | exp2 (tile : Nat)
  /-- LOG (R160). -/
  | log (tile : Nat)
  /-- LOG2 (R160). -/
  | log2 (tile : Nat)
  /-- TANH (R160). -/
  | tanh (tile : Nat)
  /-- SIGMOID (R160). -/
  | sigmoid (tile : Nat)
  /-- ADD (R149). -/
  | add (tile : Nat)
  /-- SUB (R149). -/
  | sub (tile : Nat)
  /-- MUL (R149). -/
  | mul (tile : Nat)
  /-- DIV (R159). -/
  | div (tile : Nat)
  /-- MAX (R123). -/
  | vMax (tile : Nat)
  /-- MIN (R123). -/
  | vMin (tile : Nat)
  /-- COPYSIGN (R149). -/
  | copysign (tile : Nat)
  /-- CMP (R158). -/
  | cmp (tile : Nat)
  /-- FMA (R149). -/
  | fma (tile : Nat)
  /-- SEL (R157). -/
  | vSel (tile : Nat)
  /-- CVT (R161). -/
  | cvt (tile : Nat)
  /-- RSUM (R162). -/
  | rsum (tile : Nat)
  /-- RPROD (R162). -/
  | rprod (tile : Nat)
  /-- RMAX (R163). -/
  | rmax (tile : Nat)
  /-- RMIN (R163). -/
  | rmin (tile : Nat)
  /-- AMAX (R163). -/
  | amax (tile : Nat)
  /-- RARGMAX (R163). -/
  | rargmax (tile : Nat)
  /-- RARGMIN (R163). -/
  | rargmin (tile : Nat)
  /-- RCOUNT (R163). -/
  | rcount (tile : Nat)
  /-- RMEAN (R162). -/
  | rmean (tile : Nat)
  /-- SOFTMAX (R165). -/
  | softmax (tile : Nat)
  /-- CURV_CMD_FOLD (R205). -/
  | curvCmdFold (req : Requester) (site group factor : Nat)
  /-- CURV_CMD_RESET (R197). -/
  | curvCmdReset (req : Requester) (site group factor : Nat)
  /-- FOLD_DONE (R193). -/
  | foldDone (site : Nat)
  /-- PRECOND_INSTALL (R201). -/
  | precondInstall (loc group : Nat)
  /-- VIEW_READ (R202). -/
  | viewRead (req : Requester) (addr len : Nat)
  /-- SOLV_CONTEXT_ENABLE (R209). -/
  | solvContextEnable (req : Requester) (engine ctx val : Nat)
  /-- SOLV_CONTEXT_DISABLE (R209). -/
  | solvContextDisable (req : Requester) (engine ctx val : Nat)
  /-- GO (R220). -/
  | goRec (engine : Nat) (req : Option Requester)
  /-- ENTRY (R224). -/
  | entryRec (engine : Nat)
  /-- VECTOR (R224). -/
  | vectorRec (engine : Nat)
  /-- STRUCT (R224). -/
  | structRec (engine : Nat)
  /-- SOLVE_START (R221). -/
  | solveStart (engine elapsed : Nat) (ans : List RemoteAns)
  /-- SOLVER_PREEMPT (R229). -/
  | solverPreempt (engine elapsed : Nat)
  /-- SOLVER_ITERATION (R227). -/
  | solverIteration (engine : Nat)
  /-- SOLVER_DEADLINE (R228). -/
  | solverDeadline (engine ctx elapsed : Nat)
  /-- SOLVER_DELIVERY (R230). -/
  | solverDelivery (engine ctx : Nat)
  /-- ROUTE (R239). -/
  | route (tile : Nat)
  /-- DISPATCH (R244). -/
  | dispatch (tile : Nat) (codes : List Nat)
  /-- RETURN (R249). -/
  | returnRows (tile : Nat) (codes : List Nat)
  /-- COMBINE (R250). -/
  | combine (tile : Nat)
  /-- INBOX_ARM (R246). -/
  | inboxArm (req : Requester) (tile inbox : Nat)
  /-- INBOX_DISARM (R246). -/
  | inboxDisarm (req : Requester) (tile inbox : Nat)
  /-- ROW (R247). -/
  | rowMsg (node tile inbox src slot tag : Nat) (payload : List Byte)
  /-- END (R247). -/
  | endRow (node tile inbox src count tag : Nat)
  /-- RETURN_ROW (R247). -/
  | returnRow (node tile tag : Nat) (payload : List Byte)
  /-- SHEAF_OPEN (R259). -/
  | sheafOpen (req : Option Requester) (site : Nat)
  /-- SHEAF_ABORT (R270). -/
  | sheafAbort (req : Option Requester) (site : Nat)
  /-- SHEAF_BLOCK_RECEIVE (R261). -/
  | sheafBlockReceive (node : Nat) (m : SheafMsg)
  /-- SCALE_ROUND_RECEIVE (R263). -/
  | scaleRoundReceive (node tag gen round e : Nat)
  /-- SHEAF_SOURCE_READ_DONE (R269). -/
  | sheafSourceReadDone (tag : Nat)
  /-- SHEAF_STAGE_DONE (R265). -/
  | sheafStageDone (tag : Nat)
  /-- SHEAF_DELIVERY (R269). -/
  | sheafDelivery (tag : Nat)
  /-- EPILOGUE_ROUND_RECEIVE (R269). -/
  | epilogueRoundReceive (node tag gen round eRes eCon flags clip nonfin : Nat)
  /-- SHEAF_TIMEOUT (R270). -/
  | sheafTimeout (tag elapsed : Nat)
  /-- EPILOGUE_TIMEOUT (R270). -/
  | epilogueTimeout (tag elapsed : Nat)
  /-- LINE_DATA_WRITE (R272). -/
  | lineDataWrite (req : Requester) (site val : Nat)
  /-- UPDATE_RUN (R277). -/
  | updateRun (site : Nat) (req : Option Requester) (group : Nat)
  /-- UPDATE_DONE (R279). -/
  | updateDone (site : Nat)
  /-- UE_LD (R283). -/
  | ueLd (site : Nat)
  /-- UE_ST (R283). -/
  | ueSt (site : Nat)
  /-- UE_MOV (R283). -/
  | ueMov (site : Nat)
  /-- FADD (R283). -/
  | fadd (site : Nat)
  /-- FSUB (R283). -/
  | fsub (site : Nat)
  /-- FMUL (R283). -/
  | fmul (site : Nat)
  /-- FDIV (R283). -/
  | fdiv (site : Nat)
  /-- FFMA (R283). -/
  | ffma (site : Nat)
  /-- FMAX (R283). -/
  | fmax (site : Nat)
  /-- FMIN (R283). -/
  | fmin (site : Nat)
  /-- FSQRT (R283). -/
  | fsqrt (site : Nat)
  /-- FRSQRT (R283). -/
  | frsqrt (site : Nat)
  /-- FABS (R283). -/
  | fabs (site : Nat)
  /-- FNEG (R283). -/
  | fneg (site : Nat)
  /-- FCMP (R283). -/
  | fcmp (site : Nat)
  /-- UE_SEL (R285). -/
  | ueSel (site : Nat)
  /-- WUPD (R286). -/
  | wupd (site : Nat)
  /-- AVG (R287). -/
  | avg (site : Nat)
  /-- LEDGER_STAGED (R289). -/
  | ledgerStaged (site entry : Nat)
  /-- LEDGER_WRITEBACK_DONE (R290). -/
  | ledgerWritebackDone (site entry : Nat)
  /-- FETCH (R294). -/
  | fetch (site : Nat) (req : Option Requester)
  /-- FETCH_DIGEST_POLL (R294). -/
  | fetchDigestPoll (site fetch : Nat) (ans : RemoteAns)
  /-- FETCH_CHUNK_READ_DONE (R294). -/
  | fetchChunkReadDone (site fetch : Nat) (ans : RemoteAns)
  /-- FETCH_TIMEOUT (R294). -/
  | fetchTimeout (site fetch elapsed : Nat)
  /-- FETCH_CANCEL (R294). -/
  | fetchCancel (req : Requester) (site : Nat)
  /-- VERIFIED (R296). -/
  | verified (dig step node addr : Nat)
  /-- UPD_CMD_AUDIT (R297). -/
  | updCmdAudit (req : Requester) (site group : Nat)
  /-- AUDIT_CHUNK (R297). -/
  | auditChunk (site : Nat)
  /-- AUDIT_READBACK_DONE (R297). -/
  | auditReadbackDone (site : Nat) (ans : RemoteAns)
  /-- SNAPSHOT_FREEZE (R298). -/
  | snapshotFreeze (loc group : Nat)
  /-- SNAPSHOT_STREAM_DONE (R299). -/
  | snapshotStreamDone (site : Nat)
  /-- PROG_DATA_WRITE (R300). -/
  | progDataWrite (req : Requester) (site val : Nat)
  /-- MEMORY_READ (R328). -/
  | memoryRead (req : Requester) (addr len : Nat)
  /-- MEMORY_WRITE (R306). -/
  | memoryWrite (req : Requester) (addr : Nat) (data : List Byte) (marks : List Bool)
  /-- WRITE_FIRST_TABLE_WRITE (R306). -/
  | writeFirstTableWrite (req : Requester) (site entry val : Nat)
  /-- ZERO_REGION (R307). -/
  | zeroRegion (m : SlqMsg)
  /-- ZEROING_DONE (R307). -/
  | zeroingDone (site : Nat)
  /-- SET (R310). -/
  | optSet (req : Option Requester) (site : Nat)
  /-- MOVE (R311). -/
  | optMove (req : Option Requester) (site : Nat)
  /-- CLEAR (R310). -/
  | optClear (req : Option Requester) (site : Nat)
  /-- MOVE_DONE (R311). -/
  | moveDone (handle : Nat) (ans : List RemoteAns)
  /-- PREFETCH (R312). -/
  | prefetch (site : Nat)
  /-- PREFETCH_START (R313). -/
  | prefetchStart (site idx elapsed : Nat)
  /-- PREFETCH_DONE (R314). -/
  | prefetchDone (site idx : Nat) (ans : List RemoteAns)
  /-- REMOTE_ACCESS (R315). -/
  | remoteAccess (node : Nat) (body : FabBody)
  /-- LEND_WINDOW_ENABLE (R316). -/
  | lendWindowEnable (req : Requester) (window val : Nat)
  /-- LEND_WINDOW_RECLAIM (R316). -/
  | lendWindowReclaim (req : Requester) (window val : Nat)
  /-- FLASH_WRITE (R318). -/
  | flashWrite (addr : Nat) (data : List Byte)
  /-- FLASH_READ (R317). -/
  | flashRead (addr : Nat) (uncorr : Bool)
  /-- FLASH_RELOCATION (R318). -/
  | flashRelocation (wear slc : Bool) (reads corrected eraseMax eraseMin : Nat)
  /-- FLASH_PROGRAM_FAIL (R318). -/
  | flashProgramFail (slc : Bool) (spare : Nat)
  /-- FLUSH_DONE (R319). -/
  | flushDone (complete : Bool) (us : Nat)
  /-- PATROL_SCRUB (R336). -/
  | patrolScrub (intg sel off : Nat) (last : Bool)
  /-- SCRUB_GO (R337). -/
  | scrubGo (req : Requester) (intg val : Nat)
  /-- SCRUB_DONE (R337). -/
  | scrubDone (intg : Nat)
  /-- FLIP_ARM (R338). -/
  | flipArm (req : Requester) (intg val : Nat)
  /-- PSTS_CLR (R331). -/
  | pstsClr (req : Requester) (intg val : Nat)
  /-- LINK_CTL (R348). -/
  | linkCtl (link : Nat) (ctl : LinkCtl)
  /-- CODEWORD_UNCORRECTABLE (R349). -/
  | codewordUncorrectable (link : Nat)
  /-- MESSAGE_RECEIVE (R358). -/
  | messageReceive (link seq : Nat) (m : FabMsg)
  /-- REFUSAL_RECEIVE (R359). -/
  | refusalReceive (node : Nat) (origin : Origin) (code : Nat)
  /-- LANE_RETRAIN (R361). -/
  | laneRetrain (loc link lane : Nat)
  /-- LANE_RETRAIN_START (R361). -/
  | laneRetrainStart (link : Nat)
  /-- RETRAIN_ABORT (R361). -/
  | retrainAbort (link : Nat)
  /-- LANE_DONE (R361). -/
  | laneDone (link : Nat) (ok : Bool)
  /-- LINK_RETRAIN (R362). -/
  | linkRetrain (req : Requester) (link : Nat)
  /-- LINK_TRAINING_DONE (R362). -/
  | linkTrainingDone (link : Nat) (ok : Bool) (node far role delay loop : Nat)
  /-- LINK_RX_SILENCE (R363). -/
  | linkRxSilence (link : Nat)
  /-- LINK_DISABLE (R363). -/
  | linkDisable (req : Requester) (link : Nat)
  /-- ADMIT (R363). -/
  | admitLink (req : Requester) (link : Nat)
  /-- LINK_AUTO_RETRAIN (R363). -/
  | linkAutoRetrain (link : Nat)
  /-- SPARE_ASSUME (R365). -/
  | spareAssume (m : SlqMsg)
  /-- SPARE_RELEASE (R366). -/
  | spareRelease (m : SlqMsg)
  /-- ASSUME_TAKE_EFFECT (R365). -/
  | assumeTakeEffect
  /-- ASSUME (R365). -/
  | assume (target node impression : Nat)
  /-- PLAN_ENABLE (R375). -/
  | planEnable (req : Requester)
  /-- PLAN_DISABLE (R375). -/
  | planDisable (req : Requester)
  /-- PLAN_PREFETCH_INCREMENT (R376). -/
  | planPrefetchIncrement (elapsed : Nat)
  /-- REIMPOSE (R382). -/
  | reimpose (m : SlqMsg)
  /-- REIMPOSITION_START (R383). -/
  | reimpositionStart (elapsed : Nat)
  /-- REIMPOSITION_CHUNK_DONE (R383). -/
  | reimpositionChunkDone (ans : List RemoteAns)
  /-- REIMPOSITION_COMPLETE (R384). -/
  | reimpositionComplete (elapsed : Nat)
  /-- ETH_FRAME_RECEIVE (R387). -/
  | ethFrameReceive (f : EthFrame)
  /-- ARP_REQUEST (R387). -/
  | arpRequest (target sender : Nat)
  /-- NEIGHBOR_SOLICITATION (R387). -/
  | neighborSolicitation (target sender : Nat)
  /-- ICMP_ECHO_REQUEST (R387). -/
  | icmpEchoRequest (v6 : Bool) (target sender : Nat) (data : List Byte)
  /-- PFC_PAUSE_RECEIVE (R388). -/
  | pfcPauseReceive (named paused : Nat)
  /-- CNP_RECEIVE (R388). -/
  | cnpReceive (qp : Nat)
  /-- CNP_RATE_RECOVERY (R388). -/
  | cnpRateRecovery (qp : Nat)
  /-- PTP_SYNC (R389). -/
  | ptpSync (offset : Int)
  /-- QP_CONTEXT_POST (R390). -/
  | qpContextPost (req : Requester) (val : Nat)
  /-- WINDOW_POST (R391). -/
  | windowPost (req : Requester) (val : Nat)
  /-- CONTEXT_LOAD (R390). -/
  | contextLoad (req : Requester) (val : Nat)
  /-- RDMA_WRITE_REQUEST (R392). -/
  | rdmaWriteRequest (r : RdmaReq) (key va : Nat) (data : List Byte)
  /-- RDMA_READ_REQUEST (R392). -/
  | rdmaReadRequest (r : RdmaReq) (key va len : Nat)
  /-- RDMA_SEND (R392). -/
  | rdmaSend (r : RdmaReq) (data : List Byte)
  /-- RDMA_ACK_RECEIVE (R393). -/
  | rdmaAckReceive (qp psn kind : Nat)
  /-- RDMA_ACK_TIMEOUT (R393). -/
  | rdmaAckTimeout (qp : Nat)
  /-- REG_READ (R395). -/
  | regRead (m : SlqMsg)
  /-- REG_WRITE (R43). -/
  | regWrite (m : SlqMsg)
  /-- MEM_READ (R395). -/
  | memRead (m : SlqMsg)
  /-- MEM_WRITE (R395). -/
  | memWrite (m : SlqMsg)
  /-- EVENT_ACK (R401). -/
  | eventAck (m : SlqMsg)
  /-- EVENT_RESEND (R401). -/
  | eventResend (seq : Nat)
  /-- SLAIQ_TIMEOUT (R397). -/
  | slaiqTimeout (m : SlqMsg) (applied : Nat)
  /-- FW_STAGE (R411). -/
  | fwStage (m : SlqMsg)
  /-- FW_COMMIT (R411). -/
  | fwCommit (m : SlqMsg)
  /-- KEY_ROTATE (R416). -/
  | keyRotate (m : SlqMsg)
  /-- KEY_TRANSFER (R416). -/
  | keyTransfer (m : SlqMsg)
  /-- KEY_REVOKE (R416). -/
  | keyRevoke (m : SlqMsg)
  /-- RESET (R398). -/
  | resetCmd (m : SlqMsg)
  /-- POWER_CAP (R453). -/
  | powerCap (m : SlqMsg)
  /-- DEBUG_UNLOCK (R417). -/
  | debugUnlock (m : SlqMsg)
  /-- TELEMETRY_SAMPLE (R440). -/
  | telemetrySample (sec ns : Nat)
  /-- TEL_ENTRY_WRITE (R441). -/
  | telEntryWrite (req : Requester) (entry val : Nat)
  /-- BOOT_STAGE_1 (R407). -/
  | bootStage1
  /-- BOOT_STAGE_2 (R407). -/
  | bootStage2
  /-- BOOT_STAGE_3 (R424). -/
  | bootStage3 (enetUp : Bool)
  /-- BOOT_STAGE_4 (R407). -/
  | bootStage4 (trained : List Nat) (hard : List Bool)
  /-- BOOT_STAGE_5 (R407). -/
  | bootStage5 (fails : List (Nat × Nat × Nat))
  /-- BOOT_STAGE_6 (R407). -/
  | bootStage6 (fails : List Nat)
  /-- QUOTE (R414). -/
  | quoteOp (req : Requester)
  /-- CERT (R414). -/
  | certOp (req : Requester)
  /-- QUOTE_DONE (R414). -/
  | quoteDone
  /-- ENROL_GO (R416). -/
  | enrolGo (req : Requester)
  /-- JCI_GO (R425). -/
  | jciGo (req : Requester)
  /-- JCI_DONE (R425). -/
  | jciDone
  /-- BKGD_GRANT (R430). -/
  | bkgdGrant (act kind idx ns progress expected : Nat)
  /-- OVERRUN (R431). -/
  | overrun (act ns : Nat)
  /-- ACTIVITY_PERIOD_END (R432). -/
  | activityPeriodEnd (act : Nat) (undone : Bool)
  /-- VF_CAL (R429). -/
  | vfCal (die mv : Nat)
  /-- PROOF_KERNEL (R434). -/
  | proofKernel (kind idx phase : Nat) (ok : Bool)
  /-- PROOF_PASS (R437). -/
  | proofPass (loc index : Nat)
  /-- PROOF_REPROOF (R435). -/
  | proofReproof (kind idx phase : Nat) (ok : Bool)
  /-- PWR_EN_RISE (R446). -/
  | pwrEnRise
  /-- BOOT_START (R446). -/
  | bootStart (modId : Nat) (fab : Bool)
  /-- RESET_ASSERT (R447). -/
  | resetAssert (us : Nat)
  /-- PWR_EN_FALL (R447). -/
  | pwrEnFall
  /-- OVERVOLTAGE (R444). -/
  | overvoltage (mv us : Nat)
  /-- INPUT_TOLERANCE_EXPIRY (R444). -/
  | inputToleranceExpiry (mv us : Nat)
  /-- INPUT_LOST (R447). -/
  | inputLost (mv us : Nat)
  /-- POWER_CONTROL_STEP (R452). -/
  | powerControlStep (p : PowerSample)
  /-- THERMAL_TRIP (R455). -/
  | thermalTrip (sensor : Nat) (t : Int)
  /-- FAB_REFCLK_LOSS (R450). -/
  | fabRefclkLoss
  /-- ETH_REFCLK_LOSS (R450). -/
  | ethRefclkLoss
  /-- REFCLK_RESTORE (R450). -/
  | refclkRestore (fab : Bool)
  /-- I3C_READ (R457). -/
  | i3cRead (reg : Nat)
  /-- LIMITING_CONDITION_DETECTED (R22). -/
  | limitingConditionDetected (kind idx : Nat)
  /-- ENET_LINK_CHANGE (R404). -/
  | enetLinkChange (up : Bool)
  /-- FLASH_PROGRAM_COMPLETE (R318). -/
  | flashProgramComplete (pages : Nat)
  /-- SPARE_RESUME (R100). -/
  | spareResume (tile : Nat)
deriving DecidableEq, Repr

end Sys2Proof
end

