-- ==== Sys2Proof/Decode.lean ====
section
/-! DEFINITION. Commands of table words: the table gives no row any bits. -/

namespace Sys2Proof

/-- The command a table word spells: none, since no row of spec/opcode_table.json has bits. -/
def decodeTableWord (_nbits _w : Nat) : Option Instr := none

end Sys2Proof
end

