-- ==== Sys2Proof/Config.lean ====
section
/-! DEFINITION. What an implementation fixes (constants the manual states) and the free values: what the manual
leaves open. -/

namespace Sys2Proof.Config

/-- The value the manual leaves open at the n-th place where a run meets one (assumption log 1). It has no body:
nothing can be proved of it, so a statement holds for every value. `State.freeCtr` counts the places met. -/
opaque free : Nat → BitVec 64

/-- LEAD, 10 µs, in ns (R55). -/
def leadNs : Nat := 10000

/-- Forwarding latency added to ACC_DELAY per device, in ps (R62). -/
def forwardPs : Nat := 60000

/-- Entries of the schedule table (R68, R71). -/
def schedEntries : Nat := 1024

/-- How far ahead a schedule entry may lie, in impressions (R71). -/
def schedHorizon : Nat := 16777216

/-- Galley memory of one tile, in bytes (R13). -/
def galleyBytes : Nat := 0x200000

/-- HBM capacity of one site, in bytes: 48 GB in whole blocks (R320, CAPACITY's reset value). -/
def hbmBytes : Nat := 0xB2D05E000

end Sys2Proof.Config
end

