-- ==== Sys2Proof/Machine/Bits.lean ====
section
/-! DEFINITION. Bit-field helpers and the one representation of sparse memories: a list of (key, value) pairs in
canonical form. -/

namespace Sys2Proof.Machine

/-- Bits `[hi:lo]` of a number. -/
def bits (v hi lo : Nat) : Nat := v / 2 ^ lo % 2 ^ (hi + 1 - lo)

/-- Bit `i` of a number. -/
def bit (v i : Nat) : Bool := v.testBit i

/-- A `Bool` as a bit. -/
def b2n (b : Bool) : Nat := if b then 1 else 0

/-- `v` with bits `[hi:lo]` replaced by the low bits of `x`. -/
def setBits (v hi lo x : Nat) : Nat :=
  v - bits v hi lo * 2 ^ lo + x % 2 ^ (hi + 1 - lo) * 2 ^ lo

/-- `v` with bit `i` set to `x`. -/
def setBit (v i : Nat) (x : Bool) : Nat := setBits v i i (b2n x)

/-- A two's-complement number of `w` bits read as an integer. -/
def toInt (w v : Nat) : Int :=
  if v % 2 ^ w < 2 ^ (w - 1) then (v % 2 ^ w : Nat) else ((v % 2 ^ w : Nat) : Int) - ((2 ^ w : Nat) : Int)

/-- The low `w` bits of an integer, as two's complement. -/
def ofInt (w : Nat) (i : Int) : Nat := (i % ((2 ^ w : Nat) : Int)).toNat

/-- Saturating increment of a `w`-bit counter. -/
def satAdd (w v n : Nat) : Nat := min (2 ^ w - 1) (v + n)

/-- `a / b` rounded up. -/
def ceilDiv (a b : Nat) : Nat := (a + b - 1) / b

/-- `a` rounded up to a multiple of `b`. -/
def roundUp (a b : Nat) : Nat := ceilDiv a b * b

/-- The little-endian value of a list of bytes. -/
def leNat (l : List Byte) : Nat := l.foldr (fun b acc => b.toNat + 256 * acc) 0

/-- The `n` little-endian bytes of a value. -/
def leBytes : Nat → Nat → List Byte
  | 0, _ => []
  | n + 1, v => BitVec.ofNat 8 v :: leBytes n (v / 256)

/-- The big-endian value of a list of bytes. -/
def beNat (l : List Byte) : Nat := l.foldl (fun acc b => acc * 256 + b.toNat) 0

/-- The `n` big-endian bytes of a value. -/
def beBytes (n v : Nat) : List Byte := (leBytes n v).reverse

/-- Element `i` of a list of `n` changes; a place the list lacks holds `d`. -/
def modAt {α : Type} (n : Nat) (d : α) (l : List α) (i : Nat) (f : α → α) : List α :=
  (List.range n).map fun j => if j = i then f (l.getD j d) else l.getD j d

/-- A sparse map: keys strictly rising, no entry equal to what an unlisted key reads as. -/
abbrev SMap (α : Type) := List (Nat × α)

/-- What a key reads as: its entry, or the default of an unlisted key. -/
def mapGet {α : Type} (d : Nat → α) : SMap α → Nat → α
  | [], k => d k
  | (a, v) :: t, k => if a = k then v else mapGet d t k

/-- The entries a run of values adds: those that differ from what an unlisted key reads as. -/
def mapRun {α : Type} [DecidableEq α] (d : Nat → α) : Nat → List α → SMap α
  | _, [] => []
  | k, v :: t => if v = d k then mapRun d (k + 1) t else (k, v) :: mapRun d (k + 1) t

/-- The one update of a sparse map: keys `k`, `k + 1`, … take the values of a list. -/
def mapPut {α : Type} [DecidableEq α] (d : Nat → α) (m : SMap α) (k : Nat) (vs : List α) : SMap α :=
  m.filter (fun e => e.1 < k) ++ mapRun d k vs ++ m.filter (fun e => k + vs.length ≤ e.1)

/-- One key of a sparse map takes a value. -/
def mapSet {α : Type} [DecidableEq α] (d : Nat → α) (m : SMap α) (k : Nat) (v : α) : SMap α := mapPut d m k [v]

/-- Keys `k` to `k + n - 1` of a sparse map return to what unlisted keys read as. -/
def mapClear {α : Type} (m : SMap α) (k n : Nat) : SMap α :=
  m.filter (fun e => e.1 < k) ++ m.filter (fun e => k + n ≤ e.1)

/-- Keys `k` to `k + n - 1` of a sparse map read as in another. -/
def mapFrom {α : Type} (m src : SMap α) (k n : Nat) : SMap α :=
  m.filter (fun e => e.1 < k) ++ src.filter (fun e => decide (k ≤ e.1) && decide (e.1 < k + n)) ++
    m.filter (fun e => k + n ≤ e.1)

/-- The canonical form of a sparse map: keys strictly rising, no entry equal to its default. -/
def mapWf {α : Type} [DecidableEq α] (d : Nat → α) (m : SMap α) : Bool :=
  decide ((m.map Prod.fst).Pairwise (· < ·)) && m.all (fun e => decide (e.2 ≠ d e.1))

/-- `n` values of a sparse map from key `k`. -/
def mapRead {α : Type} (d : Nat → α) (m : SMap α) (k n : Nat) : List α :=
  (List.range n).map fun i => mapGet d m (k + i)

/-- How many bits of a number below `2^w` are 1. -/
def popcount : Nat → Nat → Nat
  | 0, _ => 0
  | w + 1, v => v % 2 + popcount w (v / 2)

/-- Sum of a list of numbers. -/
def sumN (l : List Nat) : Nat := l.foldl (· + ·) 0

/-- How many of a list satisfy a test. -/
def countB {α : Type} (p : α → Bool) (l : List α) : Nat := (l.filter p).length

/-- `[0, …, n-1]` filtered. -/
def rangeF (n : Nat) (p : Nat → Bool) : List Nat := (List.range n).filter p

end Sys2Proof.Machine
end

