-- ==== Sys2Proof/Machine/Err.lean ====
section
/-! DEFINITION. Rejection codes (R40, R76, R322, R342, R406, R428, R443 and the engine chapters) and the order in
which failing checks are reported (R42). -/

namespace Sys2Proof.Machine

/-- The rejection codes of the device. -/
inductive ErrCode where
  | ok | addrUnmapped | addrAlign | lenRange | lenOverRegion | fieldRange | rsvdSet | formatUnsupported
  | formatMismatch | stateBusy | stateNotReady | authTag | authCounter | permission | retiredUnit | queueFull
  | tagInUse | impressionPast | capacity | accessWidth
  /-- A block's own code, by number. -/
  | block (code : Nat)
deriving DecidableEq, Repr

/-- The code's number (R40). -/
def errNum : ErrCode → Nat
  | .ok => 0x00 | .addrUnmapped => 0x01 | .addrAlign => 0x02 | .lenRange => 0x03 | .lenOverRegion => 0x04
  | .fieldRange => 0x05 | .rsvdSet => 0x06 | .formatUnsupported => 0x07 | .formatMismatch => 0x08
  | .stateBusy => 0x09 | .stateNotReady => 0x0A | .authTag => 0x0B | .authCounter => 0x0C | .permission => 0x0D
  | .retiredUnit => 0x0E | .queueFull => 0x0F | .tagInUse => 0x10 | .impressionPast => 0x11 | .capacity => 0x12
  | .accessWidth => 0x13 | .block c => c

/-- The order of R42. A block's own codes are checked in the order its chapter lists them: PRES lists ELECT_STALE
(0x9F) first, the others list theirs in rising order. -/
def errRank : ErrCode → Nat
  | .addrUnmapped => 1 | .addrAlign => 2 | .accessWidth => 3 | .permission => 4 | .authTag => 5 | .authCounter => 6
  | .retiredUnit => 7 | .stateNotReady => 8 | .stateBusy => 9 | .rsvdSet => 10 | .formatUnsupported => 11
  | .formatMismatch => 12 | .fieldRange => 13 | .lenRange => 14 | .lenOverRegion => 15 | .impressionPast => 16
  | .block c => 17 + (if c = 0x9F then 0 else 1 + c)
  | .tagInUse => 1000 | .queueFull => 1001 | .capacity => 1002 | .ok => 2000

/-- The first failing check in the order of R42, of those that fail; `ok` where none does. -/
def firstErr (l : List ErrCode) : ErrCode :=
  l.foldl (fun best e => if errRank e < errRank best then e else best) .ok

/-- A check: the code, where the case holds. -/
def when (c : Bool) (e : ErrCode) : List ErrCode := if c then [e] else []

/-- ELECT_STALE (R76). -/
def eElectStale : ErrCode := .block 0x9F
/-- SCHED_HORIZON (R76). -/
def eSchedHorizon : ErrCode := .block 0x9C
/-- BUBBLE_OVERLAP (R76). -/
def eBubbleOverlap : ErrCode := .block 0x9D
/-- HANDLE_UNKNOWN (R76). -/
def eHandleUnknown : ErrCode := .block 0x9E
/-- MEM_OBJ (R322). -/
def eMemObj : ErrCode := .block 0x80
/-- MEM_TIER (R322). -/
def eMemTier : ErrCode := .block 0x81
/-- MEM_MOVING (R322). -/
def eMemMoving : ErrCode := .block 0x82
/-- PEER_WINDOW (R322). -/
def ePeerWindow : ErrCode := .block 0x83
/-- PEER_DENIED (R322). -/
def ePeerDenied : ErrCode := .block 0x84
/-- FLASH_WORN (R322). -/
def eFlashWorn : ErrCode := .block 0x85
/-- INTG_POISON (R342). -/
def eIntgPoison : ErrCode := .block 0x88
/-- INTG_TARGET (R342). -/
def eIntgTarget : ErrCode := .block 0x89
/-- SLQ_VERSION (R406). -/
def eSlqVersion : ErrCode := .block 0xA0
/-- SLQ_TYPE (R406). -/
def eSlqType : ErrCode := .block 0xA1
/-- SLQ_LEN (R406). -/
def eSlqLen : ErrCode := .block 0xA2
/-- SLQ_SEQ_STALE (R406). -/
def eSlqSeqStale : ErrCode := .block 0xA3
/-- SLQ_SESSION (R406). -/
def eSlqSession : ErrCode := .block 0xA4
/-- SLQ_TIMEOUT (R406). -/
def eSlqTimeout : ErrCode := .block 0xA5
/-- RDMA_CTX (R406). -/
def eRdmaCtx : ErrCode := .block 0xA6
/-- RDMA_WINDOW (R406). -/
def eRdmaWindow : ErrCode := .block 0xA7
/-- SEC_SIGNATURE (R428). -/
def eSecSignature : ErrCode := .block 0xB0
/-- SEC_ROLLBACK (R428). -/
def eSecRollback : ErrCode := .block 0xB1
/-- SEC_COMPONENT (R428). -/
def eSecComponent : ErrCode := .block 0xB2
/-- SEC_OWNER (R428). -/
def eSecOwner : ErrCode := .block 0xB3
/-- SEC_STATE (R428). -/
def eSecState : ErrCode := .block 0xB4
/-- SEC_IDENTITY (R428). -/
def eSecIdentity : ErrCode := .block 0xB5
/-- CONF_FORMAT (R428). -/
def eConfFormat : ErrCode := .block 0xC0
/-- CONF_SIGNATURE (R428). -/
def eConfSignature : ErrCode := .block 0xC1
/-- CONF_BINDING (R428). -/
def eConfBinding : ErrCode := .block 0xC2
/-- CONF_STALE (R428). -/
def eConfStale : ErrCode := .block 0xC3
/-- HLTH_TEL_ENTRY (R443). -/
def eTelEntry : ErrCode := .block 0xD0
/-- HLTH_PROOF_BUSY (R443). -/
def eProofBusy : ErrCode := .block 0xD1

end Sys2Proof.Machine
end

