-- ==== Sys2Proof/Machine/RegMap.lean ====
section
/-! DEFINITION. The register maps of every page (R28, R36 and the page rules): for each block, which registers it has,
where, how wide, with which fields, access codes, reset values and range checks; and a name for every field. -/

namespace Sys2Proof.Machine

/-- The block types of R36. The MGD's and a compute die's POWR pages have different registers. -/
inductive Blk where
  | mgmt | pres | enet | slqp | colo | conf | hlth | bkgd | flsh | peer | optb | powr | powrDie
  | intg | tile | mtrx | cova | vect | winn | galy | solv | hbmc | updt | shef | link
deriving DecidableEq, Repr

/-- Access codes of R6 (and CMD, R38: read-only to every register write). -/
inductive Acc where
  | ro | rw | wo | w1c | rc | cmd
deriving DecidableEq, Repr

/-- One field of a register: its bits, access code, reset value, and what a write of it must satisfy: a range
(else FIELD_RANGE), an alignment (else ADDR_ALIGN), a multiple (else FIELD_RANGE). -/
structure RegField where
  hi : Nat
  lo : Nat
  acc : Acc
  reset : Nat
  range : Option (Nat × Nat)
  align : Nat
  mult : Nat
deriving DecidableEq, Repr

/-- One register, or `count` of them `stride` bytes apart. -/
structure RegDef where
  off : Nat
  stride : Nat
  count : Nat
  wide : Bool
  fields : List RegField
deriving DecidableEq, Repr

/-- A name for a field: the block, its register's first offset and stride, its bits. -/
structure Fld where
  blk : Blk
  off : Nat
  stride : Nat
  hi : Nat
  lo : Nat
deriving DecidableEq, Repr

/-- The header registers every page begins with (R28 to R34), from 0x010 on; PAGE_ID, PAGE_CAPS, PAGE_CTL and
PAGE_STS are those of `headerDefs`. -/
def headerDefs : List RegDef :=
  [⟨0x000, 0, 1, false, [⟨31, 16, .ro, 0, none, 0, 0⟩, ⟨15, 8, .ro, 0, none, 0, 0⟩, ⟨7, 0, .ro, 0, none, 0, 0⟩]⟩,
   ⟨0x004, 0, 1, false, [⟨31, 31, .ro, 0, none, 0, 0⟩, ⟨30, 30, .ro, 0, none, 0, 0⟩, ⟨23, 0, .ro, 0, none, 0, 0⟩]⟩,
   ⟨0x008, 0, 1, false, [⟨2, 2, .rw, 0, none, 0, 0⟩, ⟨1, 1, .wo, 0, none, 0, 0⟩, ⟨0, 0, .rw, 0, none, 0, 0⟩]⟩,
   ⟨0x00C, 0, 1, false, [⟨3, 3, .ro, 0, none, 0, 0⟩, ⟨2, 2, .ro, 0, none, 0, 0⟩, ⟨1, 1, .ro, 0, none, 0, 0⟩,
     ⟨0, 0, .ro, 0, none, 0, 0⟩]⟩,
   ⟨0x010, 0, 1, false, [⟨20, 20, .rc, 0, none, 0, 0⟩, ⟨19, 8, .rc, 0, none, 0, 0⟩, ⟨7, 0, .rc, 0, none, 0, 0⟩]⟩,
   ⟨0x014, 0, 1, false, [⟨31, 0, .rc, 0, none, 0, 0⟩]⟩,
   ⟨0x018, 0, 1, false, [⟨31, 16, .w1c, 0, none, 0, 0⟩, ⟨3, 0, .w1c, 0, none, 0, 0⟩]⟩,
   ⟨0x01C, 0, 1, false, [⟨31, 16, .rw, 0, none, 0, 0⟩, ⟨3, 0, .rw, 0, none, 0, 0⟩]⟩]

/-- The registers of the mgmt page from offset 0x040 (R38). -/
def mgmtDefs : List RegDef :=
  [⟨0x040, 0, 1, false, [⟨24, 24, .ro, 0, none, 0, 0⟩, ⟨17, 16, .ro, 0, none, 0, 0⟩, ⟨11, 0, .ro, 0, none, 0, 0⟩]⟩,
   ⟨0x044, 0, 1, false, [⟨4, 0, .rw, 0, none, 0, 0⟩]⟩,
   ⟨0x048, 0, 1, false, [⟨31, 31, .ro, 0, none, 0, 0⟩, ⟨11, 0, .ro, 0, none, 0, 0⟩]⟩,
   ⟨0x04C, 0, 1, false, [⟨11, 0, .ro, 0, none, 0, 0⟩]⟩,
   ⟨0x100, 0, 1, true, [⟨47, 0, .rw, 0, none, 0, 0⟩]⟩,
   ⟨0x108, 0, 1, false, [⟨16, 0, .rw, 0, (some (0, 65536)), 0, 0⟩]⟩,
   ⟨0x110, 0, 1, true, [⟨63, 47, .cmd, 0, none, 0, 0⟩, ⟨46, 0, .cmd, 0, none, 0, 0⟩]⟩,
   ⟨0x118, 0, 1, true, [⟨47, 0, .cmd, 0, none, 0, 0⟩]⟩,
   ⟨0x120, 0, 1, true, [⟨47, 0, .cmd, 0, none, 0, 0⟩]⟩,
   ⟨0x128, 0, 1, true, [⟨47, 0, .rw, 0, none, 1048576, 0⟩]⟩,
   ⟨0x130, 0, 1, true, [⟨63, 0, .rw, 0, none, 0, 0⟩]⟩,
   ⟨0x138, 0, 1, false, [⟨1, 0, .ro, 0, none, 0, 0⟩, ⟨2, 2, .ro, 0, none, 0, 0⟩, ⟨3, 3, .ro, 0, none, 0, 0⟩]⟩,
   ⟨0x13C, 0, 1, false, [⟨31, 0, .ro, 0, none, 0, 0⟩]⟩,
   ⟨0x140, 0, 1, false, [⟨31, 0, .rc, 0, none, 0, 0⟩]⟩,
   ⟨0x144, 0, 1, false, [⟨31, 0, .rc, 0, none, 0, 0⟩]⟩]

/-- The registers of the pres page from offset 0x040 (R75). -/
def presDefs : List RegDef :=
  [⟨0x040, 0, 1, true, [⟨63, 16, .ro, 0, none, 0, 0⟩, ⟨15, 0, .ro, 0, none, 0, 0⟩]⟩,
   ⟨0x048, 0, 1, false, [⟨1, 0, .ro, 0, none, 0, 0⟩]⟩,
   ⟨0x04C, 0, 1, false, [⟨31, 0, .ro, 0, none, 0, 0⟩]⟩,
   ⟨0x050, 0, 1, true, [⟨63, 32, .cmd, 0, none, 0, 0⟩, ⟨30, 30, .cmd, 0, none, 0, 0⟩, ⟨29, 16, .cmd, 0, none, 0, 0⟩, ⟨13, 0, .cmd, 0, none, 0, 0⟩]⟩,
   ⟨0x058, 0, 1, true, [⟨47, 0, .cmd, 0, none, 0, 0⟩]⟩,
   ⟨0x060, 0, 1, false, [⟨0, 0, .rw, 0, none, 0, 0⟩]⟩,
   ⟨0x064, 0, 1, false, [⟨31, 0, .rw, 1000000, (some (20000, 100000000)), 0, 0⟩]⟩,
   ⟨0x068, 0, 1, true, [⟨63, 32, .rw, 1000000, (some (20000, 100000000)), 0, 0⟩, ⟨31, 0, .rw, 20000, (some (20000, 100000000)), 0, 0⟩]⟩,
   ⟨0x070, 0, 1, false, [⟨31, 31, .rw, 0, none, 0, 0⟩, ⟨23, 16, .rw, 0, none, 0, 0⟩, ⟨13, 0, .rw, 0, none, 0, 0⟩]⟩,
   ⟨0x074, 0, 1, false, [⟨19, 0, .rw, 0, none, 0, 0⟩]⟩,
   ⟨0x078, 0, 1, false, [⟨19, 0, .ro, 0, none, 0, 0⟩]⟩,
   ⟨0x07C, 0, 1, false, [⟨0, 0, .wo, 0, none, 0, 0⟩]⟩,
   ⟨0x080, 0, 1, false, [⟨31, 0, .ro, 0, none, 0, 0⟩]⟩,
   ⟨0x084, 0, 1, false, [⟨31, 31, .ro, 0, none, 0, 0⟩, ⟨15, 8, .ro, 0, none, 0, 0⟩, ⟨5, 0, .ro, 0, none, 0, 0⟩]⟩,
   ⟨0x088, 4, 2, false, [⟨31, 0, .rw, 0, none, 0, 0⟩]⟩,
   ⟨0x090, 0, 1, false, [⟨27, 0, .rw, 0, none, 0, 0⟩]⟩,
   ⟨0x094, 0, 1, false, [⟨31, 0, .rw, 0, none, 0, 0⟩]⟩,
   ⟨0x098, 0, 1, false, [⟨0, 0, .wo, 0, none, 0, 0⟩]⟩,
   ⟨0x09C, 0, 1, false, [⟨31, 31, .ro, 0, none, 0, 0⟩, ⟨9, 0, .ro, 0, none, 0, 0⟩]⟩,
   ⟨0x0A0, 0, 1, false, [⟨9, 0, .wo, 0, none, 0, 0⟩]⟩,
   ⟨0x0A4, 0, 1, false, [⟨10, 0, .ro, 1024, none, 0, 0⟩]⟩,
   ⟨0x0A8, 0, 1, true, [⟨47, 0, .rw, 0, none, 0, 0⟩]⟩,
   ⟨0x0B0, 0, 1, false, [⟨31, 31, .rw, 0, none, 0, 0⟩, ⟨22, 16, .rw, 0, none, 0, 0⟩, ⟨15, 0, .rw, 1, none, 0, 0⟩]⟩,
   ⟨0x0B4, 0, 1, false, [⟨31, 31, .rc, 0, none, 0, 0⟩, ⟨30, 30, .rc, 0, none, 0, 0⟩, ⟨23, 16, .rc, 0, none, 0, 0⟩, ⟨9, 0, .rc, 0, none, 0, 0⟩]⟩,
   ⟨0x0B8, 0, 1, false, [⟨31, 0, .rc, 0, none, 0, 0⟩]⟩,
   ⟨0x0BC, 0, 1, false, [⟨31, 0, .rc, 0, none, 0, 0⟩]⟩,
   ⟨0x0C0, 0, 1, false, [⟨31, 0, .rc, 0, none, 0, 0⟩]⟩,
   ⟨0x0C4, 0, 1, false, [⟨31, 0, .rc, 0, none, 0, 0⟩]⟩,
   ⟨0x0C8, 0, 1, false, [⟨31, 0, .rc, 0, none, 0, 0⟩]⟩,
   ⟨0x0D0, 0, 1, true, [⟨63, 32, .rc, 0, none, 0, 0⟩, ⟨31, 31, .rc, 0, none, 0, 0⟩, ⟨30, 30, .rc, 0, none, 0, 0⟩, ⟨9, 0, .rc, 0, none, 0, 0⟩]⟩,
   ⟨0x100, 8, 64, true, [⟨47, 32, .rw, 0, none, 0, 0⟩, ⟨31, 16, .rw, 0, none, 0, 0⟩, ⟨15, 0, .rw, 0, none, 0, 0⟩]⟩,
   ⟨0x300, 0, 1, true, [⟨47, 0, .rw, 0, none, 0, 0⟩]⟩,
   ⟨0x308, 0, 1, true, [⟨47, 0, .rw, 0, none, 0, 0⟩]⟩,
   ⟨0x310, 0, 1, false, [⟨31, 31, .rw, 0, none, 0, 0⟩]⟩,
   ⟨0x314, 0, 1, false, [⟨31, 31, .ro, 0, none, 0, 0⟩, ⟨17, 15, .ro, 0, none, 0, 0⟩, ⟨14, 12, .ro, 0, none, 0, 0⟩, ⟨11, 0, .ro, 0, none, 0, 0⟩]⟩,
   ⟨0x318, 0, 1, false, [⟨15, 0, .ro, 0, none, 0, 0⟩]⟩]

/-- The registers of the tile page from offset 0x040 (R98). -/
def tileDefs : List RegDef :=
  [⟨0x040, 0, 1, false, [⟨9, 9, .ro, 0, none, 0, 0⟩, ⟨8, 8, .ro, 0, none, 0, 0⟩, ⟨6, 0, .ro, 0, none, 0, 0⟩]⟩,
   ⟨0x044, 0, 1, false, [⟨31, 16, .rw, 0, none, 0, 0⟩, ⟨2, 2, .ro, 0, none, 0, 0⟩, ⟨1, 1, .ro, 0, none, 0, 0⟩, ⟨0, 0, .rw, 0, none, 0, 0⟩]⟩,
   ⟨0x048, 0, 1, false, [⟨31, 0, .ro, 0, none, 0, 0⟩]⟩,
   ⟨0x04C, 0, 1, false, [⟨31, 0, .ro, 0, none, 0, 0⟩]⟩,
   ⟨0x050, 0, 1, false, [⟨31, 31, .rc, 0, none, 0, 0⟩, ⟨7, 0, .rc, 0, none, 0, 0⟩]⟩,
   ⟨0x054, 0, 1, false, [⟨6, 0, .ro, 0, none, 0, 0⟩]⟩,
   ⟨0x058, 0, 1, false, [⟨31, 0, .rc, 0, none, 0, 0⟩]⟩,
   ⟨0x05C, 0, 1, false, [⟨31, 0, .rc, 0, none, 0, 0⟩]⟩,
   ⟨0x060, 0, 1, false, [⟨31, 31, .rc, 0, none, 0, 0⟩, ⟨8, 8, .rc, 0, none, 0, 0⟩, ⟨6, 0, .rc, 0, none, 0, 0⟩]⟩,
   ⟨0x064, 0, 1, false, [⟨31, 0, .rc, 0, none, 0, 0⟩]⟩,
   ⟨0x080, 32, 7, false, [⟨31, 24, .rw, 0, none, 0, 0⟩, ⟨19, 16, .rw, 1, (some (1, 8)), 0, 0⟩, ⟨13, 0, .rw, 0, none, 0, 0⟩]⟩,
   ⟨0x084, 32, 7, false, [⟨15, 0, .ro, 0, none, 0, 0⟩]⟩,
   ⟨0x088, 32, 7, false, [⟨15, 0, .rw, 0, none, 0, 0⟩]⟩,
   ⟨0x08C, 32, 7, false, [⟨3, 0, .wo, 0, none, 0, 0⟩]⟩,
   ⟨0x090, 32, 7, false, [⟨31, 16, .ro, 0, none, 0, 0⟩, ⟨10, 8, .ro, 0, none, 0, 0⟩, ⟨5, 3, .ro, 0, none, 0, 0⟩, ⟨2, 0, .ro, 0, none, 0, 0⟩]⟩,
   ⟨0x400, 4, 256, false, [⟨19, 0, .rw, 0, none, 0, 0⟩]⟩]

/-- The registers of the mtrx page from offset 0x040 (R146). -/
def mtrxDefs : List RegDef :=
  [⟨0x040, 0, 1, false, [⟨31, 0, .rc, 0, none, 0, 0⟩]⟩,
   ⟨0x044, 0, 1, false, [⟨31, 0, .rc, 0, none, 0, 0⟩]⟩,
   ⟨0x048, 0, 1, false, [⟨31, 0, .rc, 0, none, 0, 0⟩]⟩,
   ⟨0x04C, 0, 1, false, [⟨31, 0, .rc, 0, none, 0, 0⟩]⟩,
   ⟨0x050, 0, 1, false, [⟨31, 0, .rc, 0, none, 0, 0⟩]⟩]

/-- The registers of the cova page from offset 0x040 (R146). -/
def covaDefs : List RegDef :=
  [⟨0x040, 8, 8, false, [⟨31, 31, .ro, 0, none, 0, 0⟩, ⟨30, 30, .ro, 0, none, 0, 0⟩, ⟨29, 29, .ro, 0, none, 0, 0⟩, ⟨5, 3, .ro, 0, none, 0, 0⟩, ⟨2, 0, .ro, 0, none, 0, 0⟩]⟩,
   ⟨0x044, 8, 8, false, [⟨31, 0, .ro, 0, none, 0, 0⟩]⟩,
   ⟨0x080, 0, 1, false, [⟨7, 0, .wo, 0, none, 0, 0⟩]⟩]

/-- The registers of the vect page from offset 0x040 (R169). -/
def vectDefs : List RegDef :=
  [⟨0x040, 0, 1, false, [⟨31, 0, .rc, 0, none, 0, 0⟩]⟩,
   ⟨0x044, 0, 1, false, [⟨31, 0, .rc, 0, none, 0, 0⟩]⟩,
   ⟨0x048, 0, 1, false, [⟨31, 0, .rc, 0, none, 0, 0⟩]⟩,
   ⟨0x04C, 0, 1, false, [⟨31, 0, .rc, 0, none, 0, 0⟩]⟩,
   ⟨0x050, 0, 1, false, [⟨31, 0, .rc, 0, none, 0, 0⟩]⟩,
   ⟨0x054, 0, 1, false, [⟨31, 0, .rc, 0, none, 0, 0⟩]⟩,
   ⟨0x058, 0, 1, false, [⟨31, 0, .rc, 0, none, 0, 0⟩]⟩,
   ⟨0x05C, 0, 1, false, [⟨31, 0, .rc, 0, none, 0, 0⟩]⟩]

/-- The registers of the galy page from offset 0x040 (R99). -/
def galyDefs : List RegDef :=
  [⟨0x040, 4, 8, false, [⟨31, 31, .rw, 0, none, 0, 0⟩, ⟨30, 30, .rw, 0, none, 0, 0⟩, ⟨13, 8, .rw, 0, none, 0, 0⟩, ⟨4, 0, .rw, 0, none, 0, 0⟩]⟩]

/-- The registers of the updt page from offset 0x040 (R300). -/
def updtDefs : List RegDef :=
  [⟨0x040, 0, 1, true, [⟨47, 0, .rw, 0, none, 256, 0⟩]⟩,
   ⟨0x048, 0, 1, false, [⟨31, 31, .rw, 0, none, 0, 0⟩, ⟨10, 0, .rw, 0, (some (0, 1024)), 0, 0⟩]⟩,
   ⟨0x04C, 0, 1, false, [⟨11, 0, .rw, 0, none, 0, 0⟩]⟩,
   ⟨0x050, 0, 1, false, [⟨31, 0, .wo, 0, none, 0, 0⟩]⟩,
   ⟨0x054, 0, 1, false, [⟨31, 31, .rw, 0, none, 0, 0⟩, ⟨12, 0, .rw, 0, none, 0, 0⟩]⟩,
   ⟨0x058, 0, 1, true, [⟨47, 0, .rw, 0, none, 2097152, 0⟩]⟩,
   ⟨0x060, 0, 1, false, [⟨12, 0, .ro, 0, none, 0, 0⟩]⟩,
   ⟨0x064, 0, 1, false, [⟨13, 12, .wo, 0, none, 0, 0⟩, ⟨9, 0, .wo, 0, none, 0, 0⟩]⟩,
   ⟨0x068, 0, 1, false, [⟨31, 31, .rc, 0, none, 0, 0⟩, ⟨25, 18, .rc, 0, none, 0, 0⟩, ⟨17, 8, .rc, 0, none, 0, 0⟩, ⟨7, 0, .rc, 0, none, 0, 0⟩]⟩,
   ⟨0x06C, 0, 1, false, [⟨31, 31, .rc, 0, none, 0, 0⟩, ⟨30, 30, .rc, 0, none, 0, 0⟩, ⟨23, 16, .rc, 0, none, 0, 0⟩, ⟨7, 0, .rc, 0, none, 0, 0⟩]⟩,
   ⟨0x070, 4, 16, false, [⟨31, 0, .rw, 0, none, 0, 0⟩]⟩,
   ⟨0x0B0, 0, 1, false, [⟨0, 0, .wo, 0, none, 0, 0⟩]⟩,
   ⟨0x0B4, 0, 1, false, [⟨31, 31, .rw, 0, none, 0, 0⟩, ⟨9, 0, .rw, 0, none, 0, 0⟩]⟩,
   ⟨0x0B8, 0, 1, true, [⟨63, 0, .rw, 0, none, 0, 0⟩]⟩,
   ⟨0x0C0, 0, 1, false, [⟨23, 0, .rw, 0, none, 0, 0⟩]⟩,
   ⟨0x0C4, 0, 1, false, [⟨1, 0, .ro, 0, none, 0, 0⟩]⟩,
   ⟨0x0C8, 0, 1, true, [⟨63, 0, .ro, 0, none, 0, 0⟩]⟩,
   ⟨0x0D0, 0, 1, true, [⟨63, 0, .rw, 0, none, 0, 0⟩]⟩,
   ⟨0x0D8, 4, 13, false, [⟨31, 0, .rc, 0, none, 0, 0⟩]⟩,
   ⟨0x400, 0, 1, true, [⟨47, 0, .rw, 0, none, 128, 0⟩]⟩,
   ⟨0x408, 0, 1, false, [⟨31, 31, .rw, 0, none, 0, 0⟩, ⟨10, 0, .rw, 0, (some (0, 1024)), 0, 0⟩]⟩,
   ⟨0x40C, 0, 1, false, [⟨13, 12, .wo, 0, none, 0, 0⟩, ⟨10, 10, .wo, 0, none, 0, 0⟩, ⟨9, 0, .wo, 0, none, 0, 0⟩]⟩,
   ⟨0x410, 0, 1, false, [⟨31, 31, .rc, 0, none, 0, 0⟩, ⟨25, 18, .rc, 0, none, 0, 0⟩, ⟨17, 8, .rc, 0, none, 0, 0⟩, ⟨7, 7, .rc, 0, none, 0, 0⟩, ⟨6, 0, .rc, 0, none, 0, 0⟩]⟩,
   ⟨0x414, 0, 1, false, [⟨31, 0, .rc, 0, none, 0, 0⟩]⟩,
   ⟨0x418, 0, 1, false, [⟨31, 0, .rc, 0, none, 0, 0⟩]⟩,
   ⟨0x41C, 0, 1, false, [⟨31, 0, .rc, 0, none, 0, 0⟩]⟩,
   ⟨0x420, 0, 1, false, [⟨31, 0, .rc, 0, none, 0, 0⟩]⟩,
   ⟨0x424, 0, 1, false, [⟨31, 0, .rc, 0, none, 0, 0⟩]⟩,
   ⟨0x428, 0, 1, false, [⟨31, 0, .rc, 0, none, 0, 0⟩]⟩]

/-- The registers of the solv page from offset 0x040 (R232). -/
def solvDefs : List RegDef :=
  [⟨0x040, 0, 1, false, [⟨9, 0, .ro, 819, none, 0, 0⟩]⟩,
   ⟨0x044, 0, 1, false, [⟨31, 31, .ro, 0, none, 0, 0⟩, ⟨4, 0, .ro, 0, none, 0, 0⟩]⟩,
   ⟨0x048, 4, 8, false, [⟨31, 0, .rw, 0, none, 0, 0⟩]⟩,
   ⟨0x068, 0, 1, false, [⟨0, 0, .wo, 0, none, 0, 0⟩]⟩,
   ⟨0x06C, 0, 1, false, [⟨12, 0, .ro, 0, none, 0, 0⟩]⟩,
   ⟨0x070, 0, 1, false, [⟨31, 31, .rc, 0, none, 0, 0⟩, ⟨23, 16, .rc, 0, none, 0, 0⟩, ⟨15, 8, .rc, 0, none, 0, 0⟩, ⟨7, 0, .rc, 0, none, 0, 0⟩]⟩,
   ⟨0x074, 4, 10, false, [⟨31, 0, .rc, 0, none, 0, 0⟩]⟩,
   ⟨0x400, 32, 32, true, [⟨63, 0, .ro, 0, none, 0, 0⟩]⟩,
   ⟨0x408, 32, 32, false, [⟨31, 0, .ro, 0, none, 0, 0⟩]⟩,
   ⟨0x40C, 32, 32, false, [⟨31, 0, .ro, 0, none, 0, 0⟩]⟩,
   ⟨0x410, 32, 32, true, [⟨47, 0, .ro, 0, none, 0, 0⟩]⟩,
   ⟨0x418, 32, 32, false, [⟨2, 0, .ro, 0, none, 0, 0⟩, ⟨3, 3, .ro, 0, none, 0, 0⟩, ⟨4, 4, .ro, 0, none, 0, 0⟩, ⟨12, 8, .ro, 0, none, 0, 0⟩]⟩,
   ⟨0x800, 64, 32, false, [⟨2, 0, .rw, 0, none, 0, 0⟩, ⟨4, 3, .rw, 0, none, 0, 0⟩, ⟨5, 5, .rw, 0, none, 0, 0⟩, ⟨6, 6, .rw, 0, none, 0, 0⟩, ⟨8, 7, .rw, 0, none, 0, 0⟩, ⟨10, 9, .rw, 0, none, 0, 0⟩, ⟨11, 11, .rw, 0, none, 0, 0⟩, ⟨12, 12, .rw, 0, none, 0, 0⟩]⟩,
   ⟨0x804, 64, 32, false, [⟨13, 0, .rw, 0, none, 0, 0⟩]⟩,
   ⟨0x808, 64, 32, false, [⟨12, 0, .rw, 0, none, 0, 0⟩, ⟨21, 16, .rw, 0, none, 0, 0⟩]⟩,
   ⟨0x80C, 64, 32, false, [⟨9, 0, .rw, 0, none, 0, 0⟩, ⟨25, 16, .rw, 0, none, 0, 0⟩]⟩,
   ⟨0x810, 64, 32, false, [⟨7, 0, .rw, 0, none, 0, 0⟩, ⟨15, 8, .rw, 0, none, 0, 0⟩, ⟨23, 16, .rw, 0, none, 0, 0⟩]⟩,
   ⟨0x814, 64, 32, false, [⟨31, 0, .rw, 0, none, 0, 0⟩]⟩,
   ⟨0x818, 64, 32, false, [⟨31, 0, .rw, 0, none, 0, 0⟩]⟩,
   ⟨0x81C, 64, 32, false, [⟨31, 0, .rw, 0, none, 0, 0⟩]⟩,
   ⟨0x820, 64, 32, true, [⟨63, 0, .rw, 0, none, 0, 0⟩]⟩,
   ⟨0x828, 64, 32, true, [⟨63, 0, .rw, 0, none, 0, 0⟩]⟩,
   ⟨0x830, 64, 32, true, [⟨63, 0, .rw, 0, none, 0, 0⟩]⟩,
   ⟨0x838, 64, 32, true, [⟨63, 0, .rw, 0, none, 0, 0⟩]⟩]

/-- The registers of the winn page from offset 0x040 (R253). -/
def winnDefs : List RegDef :=
  [⟨0x040, 4, 8, false, [⟨31, 0, .rc, 0, none, 0, 0⟩]⟩,
   ⟨0x100, 64, 16, false, [⟨20, 0, .rw, 0, none, 64, 0⟩]⟩,
   ⟨0x104, 64, 16, false, [⟨14, 0, .rw, 64, (some (64, 16384)), 0, 64⟩, ⟨19, 16, .rw, 3, none, 0, 0⟩, ⟨24, 24, .rw, 0, none, 0, 0⟩]⟩,
   ⟨0x108, 64, 16, false, [⟨12, 0, .rw, 0, none, 0, 0⟩, ⟨27, 16, .rw, 0, none, 0, 0⟩]⟩,
   ⟨0x10C, 64, 16, false, [⟨20, 0, .rw, 0, none, 8, 0⟩]⟩,
   ⟨0x110, 64, 16, false, [⟨20, 0, .rw, 0, none, 8, 0⟩]⟩,
   ⟨0x114, 64, 16, false, [⟨31, 31, .rw, 0, none, 0, 0⟩, ⟨20, 0, .rw, 0, none, 8, 0⟩]⟩,
   ⟨0x118, 64, 16, false, [⟨31, 31, .rw, 0, none, 0, 0⟩, ⟨20, 0, .rw, 0, none, 8, 0⟩]⟩,
   ⟨0x11C, 64, 16, false, [⟨31, 31, .rw, 0, none, 0, 0⟩, ⟨7, 0, .rw, 0, none, 0, 0⟩]⟩,
   ⟨0x120, 64, 16, false, [⟨1, 0, .wo, 0, none, 0, 0⟩]⟩,
   ⟨0x124, 64, 16, false, [⟨1, 0, .ro, 0, none, 0, 0⟩, ⟨27, 16, .ro, 0, none, 0, 0⟩]⟩,
   ⟨0x128, 64, 16, false, [⟨31, 0, .ro, 0, none, 0, 0⟩]⟩,
   ⟨0x12C, 64, 16, false, [⟨31, 0, .rc, 0, none, 0, 0⟩]⟩]

/-- The registers of the shef page from offset 0x040 (R272). -/
def shefDefs : List RegDef :=
  [⟨0x040, 0, 1, true, [⟨47, 0, .rw, 0, none, 65536, 0⟩]⟩,
   ⟨0x048, 0, 1, true, [⟨47, 0, .rw, 0, none, 1048576, 0⟩]⟩,
   ⟨0x050, 0, 1, false, [⟨12, 0, .rw, 0, (some (0, 4096)), 0, 0⟩]⟩,
   ⟨0x054, 0, 1, false, [⟨12, 0, .ro, 0, none, 0, 0⟩]⟩,
   ⟨0x058, 0, 1, false, [⟨7, 0, .rw, 4, (some (1, 255)), 0, 0⟩]⟩,
   ⟨0x060, 4, 16, false, [⟨31, 0, .rw, 0, none, 0, 0⟩]⟩,
   ⟨0x0A0, 0, 1, false, [⟨0, 0, .wo, 0, none, 0, 0⟩]⟩,
   ⟨0x0A4, 0, 1, false, [⟨31, 31, .rc, 0, none, 0, 0⟩, ⟨30, 30, .rc, 0, none, 0, 0⟩, ⟨25, 24, .rc, 0, none, 0, 0⟩, ⟨23, 16, .rc, 0, none, 0, 0⟩, ⟨15, 0, .rc, 0, none, 0, 0⟩]⟩,
   ⟨0x0A8, 0, 1, false, [⟨9, 0, .rw, 0, none, 0, 0⟩]⟩,
   ⟨0x0AC, 0, 1, false, [⟨31, 31, .rw, 0, none, 0, 0⟩, ⟨30, 30, .ro, 0, none, 0, 0⟩, ⟨15, 0, .rw, 0, none, 0, 0⟩]⟩,
   ⟨0x0B0, 4, 9, false, [⟨31, 0, .rc, 0, none, 0, 0⟩]⟩]

/-- The registers of the hbmc page from offset 0x040 (R320). -/
def hbmcDefs : List RegDef :=
  [⟨0x040, 0, 1, true, [⟨47, 0, .ro, 48000000000, none, 0, 0⟩]⟩,
   ⟨0x048, 0, 1, true, [⟨47, 24, .cmd, 0, none, 0, 0⟩, ⟨23, 0, .cmd, 0, none, 0, 0⟩]⟩,
   ⟨0x050, 0, 1, false, [⟨31, 31, .ro, 0, none, 0, 0⟩, ⟨23, 0, .ro, 0, none, 0, 0⟩]⟩,
   ⟨0x054, 0, 1, false, [⟨8, 0, .ro, 0, none, 0, 0⟩]⟩,
   ⟨0x058, 0, 1, false, [⟨5, 0, .ro, 0, none, 0, 0⟩]⟩,
   ⟨0x05C, 4, 5, false, [⟨31, 0, .rc, 0, none, 0, 0⟩]⟩,
   ⟨0x100, 8, 16, true, [⟨63, 63, .rw, 0, none, 0, 0⟩, ⟨47, 24, .rw, 0, none, 0, 0⟩, ⟨23, 0, .rw, 0, none, 0, 0⟩]⟩]

/-- The registers of the optb page from offset 0x040 (R320). -/
def optbDefs : List RegDef :=
  [⟨0x040, 0, 1, true, [⟨47, 0, .rw, 0, none, 4194304, 0⟩]⟩,
   ⟨0x048, 0, 1, false, [⟨31, 31, .rw, 0, none, 0, 0⟩]⟩,
   ⟨0x04C, 0, 1, false, [⟨16, 0, .ro, 0, none, 0, 0⟩]⟩,
   ⟨0x050, 0, 1, false, [⟨6, 0, .ro, 0, none, 0, 0⟩]⟩,
   ⟨0x060, 4, 16, false, [⟨31, 0, .rw, 0, none, 0, 0⟩]⟩,
   ⟨0x0A0, 0, 1, false, [⟨0, 0, .wo, 0, none, 0, 0⟩]⟩,
   ⟨0x0A4, 0, 1, false, [⟨31, 31, .rc, 0, none, 0, 0⟩, ⟨23, 16, .rc, 0, none, 0, 0⟩, ⟨7, 0, .rc, 0, none, 0, 0⟩]⟩,
   ⟨0x0A8, 4, 3, false, [⟨31, 0, .rc, 0, none, 0, 0⟩]⟩]

/-- The registers of the peer page from offset 0x040 (R320). -/
def peerDefs : List RegDef :=
  [⟨0x040, 0, 1, false, [⟨0, 0, .rw, 0, none, 0, 0⟩]⟩,
   ⟨0x044, 0, 1, false, [⟨31, 0, .rc, 0, none, 0, 0⟩]⟩,
   ⟨0x048, 0, 1, false, [⟨13, 0, .ro, 0, none, 0, 0⟩]⟩,
   ⟨0x100, 16, 16, true, [⟨47, 0, .rw, 0, none, 2097152, 0⟩]⟩,
   ⟨0x108, 16, 16, false, [⟨31, 31, .rw, 0, none, 0, 0⟩, ⟨15, 15, .rw, 0, none, 0, 0⟩, ⟨13, 0, .rw, 0, none, 0, 0⟩]⟩,
   ⟨0x10C, 16, 16, false, [⟨14, 0, .rw, 0, none, 0, 0⟩]⟩]

/-- The registers of the flsh page from offset 0x040 (R320). -/
def flshDefs : List RegDef :=
  [⟨0x040, 0, 1, false, [⟨3, 2, .ro, 0, none, 0, 0⟩, ⟨1, 0, .ro, 0, none, 0, 0⟩]⟩,
   ⟨0x044, 0, 1, false, [⟨23, 0, .rw, 50000, (some (1000, 10000000)), 0, 0⟩]⟩,
   ⟨0x048, 0, 1, false, [⟨23, 0, .rw, 500000, (some (1000, 10000000)), 0, 0⟩]⟩,
   ⟨0x04C, 0, 1, false, [⟨12, 0, .rw, 256, (some (16, 4096)), 0, 0⟩]⟩,
   ⟨0x050, 0, 1, false, [⟨15, 0, .ro, 0, none, 0, 0⟩]⟩,
   ⟨0x054, 0, 1, false, [⟨15, 0, .ro, 0, none, 0, 0⟩]⟩,
   ⟨0x058, 0, 1, false, [⟨15, 0, .ro, 0, none, 0, 0⟩]⟩,
   ⟨0x05C, 0, 1, false, [⟨6, 0, .ro, 0, none, 0, 0⟩]⟩,
   ⟨0x060, 0, 1, false, [⟨31, 31, .ro, 0, none, 0, 0⟩, ⟨30, 30, .ro, 0, none, 0, 0⟩, ⟨15, 0, .ro, 0, none, 0, 0⟩]⟩,
   ⟨0x064, 4, 5, false, [⟨31, 0, .rc, 0, none, 0, 0⟩]⟩]

/-- The registers of the intg page from offset 0x040 (R340). -/
def intgDefs : List RegDef :=
  [⟨0x040, 0, 1, false, [⟨1, 1, .wo, 0, none, 0, 0⟩, ⟨0, 0, .rw, 1, none, 0, 0⟩]⟩,
   ⟨0x044, 0, 1, false, [⟨13, 0, .rw, 60, (some (1, 10080)), 0, 0⟩]⟩,
   ⟨0x048, 0, 1, false, [⟨31, 0, .ro, 0, none, 0, 0⟩]⟩,
   ⟨0x04C, 0, 1, false, [⟨31, 31, .ro, 0, none, 0, 0⟩, ⟨4, 4, .wo, 0, none, 0, 0⟩, ⟨3, 0, .rw, 0, none, 0, 0⟩]⟩,
   ⟨0x050, 0, 1, true, [⟨63, 0, .rw, 0, none, 0, 0⟩]⟩,
   ⟨0x058, 0, 1, false, [⟨7, 0, .rw, 0, none, 0, 0⟩]⟩,
   ⟨0x060, 0, 1, true, [⟨47, 0, .rw, 0, none, 0, 0⟩]⟩,
   ⟨0x068, 0, 1, true, [⟨40, 0, .rw, 0, none, 0, 0⟩]⟩,
   ⟨0x070, 0, 1, true, [⟨63, 0, .rw, 0, none, 0, 0⟩]⟩,
   ⟨0x078, 0, 1, false, [⟨31, 31, .ro, 0, none, 0, 0⟩, ⟨5, 5, .rw, 0, none, 0, 0⟩, ⟨4, 4, .wo, 0, none, 0, 0⟩, ⟨3, 0, .rw, 0, none, 0, 0⟩]⟩,
   ⟨0x080, 0, 1, true, [⟨63, 0, .ro, 0, none, 0, 0⟩]⟩,
   ⟨0x088, 0, 1, true, [⟨63, 0, .ro, 0, none, 0, 0⟩]⟩,
   ⟨0x090, 0, 1, true, [⟨63, 0, .ro, 0, none, 0, 0⟩]⟩,
   ⟨0x098, 4, 4, false, [⟨31, 0, .ro, 0, none, 0, 0⟩]⟩,
   ⟨0x0A8, 4, 5, false, [⟨31, 0, .rc, 0, none, 0, 0⟩]⟩,
   ⟨0x0BC, 0, 1, false, [⟨23, 8, .ro, 0, none, 0, 0⟩, ⟨5, 0, .ro, 0, none, 0, 0⟩]⟩,
   ⟨0x0C0, 0, 1, false, [⟨31, 0, .ro, 0, none, 0, 0⟩]⟩,
   ⟨0x100, 8, 32, true, [⟨63, 0, .ro, 0, none, 0, 0⟩]⟩,
   ⟨0x200, 8, 32, true, [⟨63, 63, .ro, 0, none, 0, 0⟩, ⟨47, 0, .ro, 0, none, 0, 0⟩]⟩]

/-- The registers of the link page from offset 0x040 (R367). -/
def linkDefs : List RegDef :=
  [⟨0x040, 0, 1, false, [⟨31, 31, .ro, 0, none, 0, 0⟩, ⟨13, 0, .ro, 0, none, 0, 0⟩]⟩,
   ⟨0x044, 0, 1, false, [⟨13, 0, .rw, 0, none, 0, 0⟩]⟩,
   ⟨0x048, 0, 1, false, [⟨1, 0, .rw, 0, none, 0, 0⟩, ⟨21, 16, .rw, 1, none, 0, 0⟩, ⟨28, 24, .rw, 1, none, 0, 0⟩]⟩,
   ⟨0x050, 0, 1, true, [⟨63, 63, .cmd, 0, none, 0, 0⟩, ⟨61, 48, .cmd, 0, none, 0, 0⟩, ⟨47, 0, .cmd, 0, none, 0, 0⟩]⟩,
   ⟨0x058, 4, 4, false, [⟨31, 0, .rc, 0, none, 0, 0⟩]⟩,
   ⟨0x100, 0, 1, false, [⟨2, 0, .ro, 0, none, 0, 0⟩, ⟨6, 4, .ro, 0, none, 0, 0⟩, ⟨12, 8, .ro, 0, none, 0, 0⟩, ⟨13, 13, .ro, 0, none, 0, 0⟩, ⟨14, 14, .ro, 0, none, 0, 0⟩, ⟨19, 16, .ro, 0, none, 0, 0⟩]⟩,
   ⟨0x104, 0, 1, false, [⟨31, 31, .ro, 0, none, 0, 0⟩, ⟨21, 16, .ro, 0, none, 0, 0⟩, ⟨13, 0, .ro, 0, none, 0, 0⟩]⟩,
   ⟨0x108, 0, 1, false, [⟨31, 0, .ro, 0, none, 0, 0⟩]⟩,
   ⟨0x10C, 0, 1, false, [⟨31, 0, .ro, 0, none, 0, 0⟩]⟩,
   ⟨0x110, 0, 1, false, [⟨15, 0, .ro, 0, none, 0, 0⟩]⟩,
   ⟨0x114, 0, 1, false, [⟨2, 2, .wo, 0, none, 0, 0⟩, ⟨1, 1, .wo, 0, none, 0, 0⟩, ⟨0, 0, .rw, 0, none, 0, 0⟩]⟩,
   ⟨0x118, 4, 7, false, [⟨31, 0, .rc, 0, none, 0, 0⟩]⟩]

/-- The registers of the enet page from offset 0x040 (R404). -/
def enetDefs : List RegDef :=
  [⟨0x040, 0, 1, true, [⟨47, 0, .ro, 0, none, 0, 0⟩]⟩,
   ⟨0x048, 0, 1, false, [⟨0, 0, .ro, 0, none, 0, 0⟩, ⟨1, 1, .ro, 0, none, 0, 0⟩]⟩,
   ⟨0x04C, 0, 1, false, [⟨31, 0, .rw, 0, none, 0, 0⟩]⟩,
   ⟨0x050, 0, 1, true, [⟨63, 0, .rw, 0, none, 0, 0⟩]⟩,
   ⟨0x058, 0, 1, true, [⟨63, 0, .rw, 0, none, 0, 0⟩]⟩,
   ⟨0x060, 0, 1, false, [⟨12, 12, .rw, 0, none, 0, 0⟩, ⟨11, 0, .rw, 0, none, 0, 0⟩]⟩,
   ⟨0x064, 0, 1, false, [⟨13, 0, .rw, 1500, (some (1280, 9000)), 0, 0⟩]⟩,
   ⟨0x068, 0, 1, false, [⟨14, 12, .rw, 6, none, 0, 0⟩, ⟨10, 8, .rw, 3, none, 0, 0⟩, ⟨7, 0, .rw, 8, none, 0, 0⟩]⟩,
   ⟨0x06C, 0, 1, false, [⟨15, 0, .rw, 50, (some (1, 65535)), 0, 0⟩]⟩,
   ⟨0x070, 0, 1, false, [⟨7, 0, .rw, 0, none, 0, 0⟩]⟩,
   ⟨0x078, 0, 1, true, [⟨63, 0, .ro, 0, none, 0, 0⟩]⟩,
   ⟨0x080, 4, 16, false, [⟨31, 0, .rw, 0, none, 0, 0⟩]⟩,
   ⟨0x0C0, 0, 1, false, [⟨31, 31, .wo, 0, none, 0, 0⟩, ⟨30, 30, .wo, 0, none, 0, 0⟩, ⟨16, 16, .wo, 0, none, 0, 0⟩, ⟨7, 0, .wo, 0, none, 0, 0⟩]⟩,
   ⟨0x0C4, 4, 10, false, [⟨31, 0, .rc, 0, none, 0, 0⟩]⟩]

/-- The registers of the slqp page from offset 0x040 (R405). -/
def slqpDefs : List RegDef :=
  [⟨0x040, 0, 1, false, [⟨4, 0, .ro, 0, none, 0, 0⟩]⟩,
   ⟨0x044, 0, 1, false, [⟨31, 0, .rw, 10000, (some (100, 3600000)), 0, 0⟩]⟩,
   ⟨0x048, 0, 1, false, [⟨31, 0, .rw, 10000, (some (100, 1000000)), 0, 0⟩]⟩,
   ⟨0x050, 8, 2, true, [⟨63, 0, .rw, 0, none, 0, 0⟩]⟩,
   ⟨0x060, 0, 1, false, [⟨31, 31, .rw, 0, none, 0, 0⟩, ⟨15, 0, .rw, 0, none, 0, 0⟩]⟩,
   ⟨0x064, 0, 1, false, [⟨16, 0, .rw, 1000, (some (100, 100000)), 0, 0⟩]⟩,
   ⟨0x068, 0, 1, false, [⟨8, 0, .ro, 0, none, 0, 0⟩]⟩,
   ⟨0x070, 8, 2, true, [⟨63, 0, .rw, 0, none, 0, 0⟩]⟩,
   ⟨0x080, 0, 1, false, [⟨31, 31, .rw, 0, none, 0, 0⟩, ⟨15, 0, .rw, 0, none, 0, 0⟩]⟩,
   ⟨0x084, 4, 8, false, [⟨31, 0, .rc, 0, none, 0, 0⟩]⟩,
   ⟨0x0B0, 8, 4, true, [⟨63, 0, .ro, 0, none, 0, 0⟩]⟩,
   ⟨0x100, 32, 8, true, [⟨63, 0, .rw, 0, none, 0, 0⟩]⟩,
   ⟨0x108, 32, 8, true, [⟨63, 0, .rw, 0, none, 0, 0⟩]⟩,
   ⟨0x110, 32, 8, false, [⟨9, 9, .rw, 0, none, 0, 0⟩, ⟨8, 8, .rw, 0, none, 0, 0⟩, ⟨7, 0, .rw, 0, (some (0, 128)), 0, 0⟩]⟩]

/-- The registers of the colo page from offset 0x040 (R426). -/
def coloDefs : List RegDef :=
  [⟨0x040, 8, 2, true, [⟨63, 0, .ro, 0, none, 0, 0⟩]⟩,
   ⟨0x050, 0, 1, false, [⟨0, 0, .ro, 0, none, 0, 0⟩]⟩,
   ⟨0x054, 0, 1, false, [⟨31, 0, .ro, 0, none, 0, 0⟩]⟩,
   ⟨0x058, 0, 1, false, [⟨3, 0, .ro, 0, none, 0, 0⟩]⟩,
   ⟨0x05C, 0, 1, false, [⟨3, 2, .ro, 0, none, 0, 0⟩, ⟨1, 1, .ro, 0, none, 0, 0⟩, ⟨0, 0, .ro, 0, none, 0, 0⟩]⟩,
   ⟨0x060, 0, 1, false, [⟨31, 31, .ro, 0, none, 0, 0⟩, ⟨9, 9, .wo, 0, none, 0, 0⟩, ⟨8, 8, .wo, 0, none, 0, 0⟩, ⟨1, 0, .wo, 0, none, 0, 0⟩]⟩,
   ⟨0x064, 0, 1, false, [⟨15, 0, .rw, 0, none, 2048, 0⟩]⟩,
   ⟨0x068, 0, 1, false, [⟨15, 0, .ro, 0, none, 0, 0⟩]⟩,
   ⟨0x070, 0, 1, true, [⟨47, 0, .rw, 0, none, 64, 0⟩]⟩,
   ⟨0x078, 0, 1, true, [⟨63, 0, .rw, 0, none, 0, 0⟩]⟩,
   ⟨0x080, 8, 8, true, [⟨63, 0, .rw, 0, none, 0, 0⟩]⟩,
   ⟨0x100, 8, 64, true, [⟨63, 0, .ro, 0, none, 0, 0⟩]⟩,
   ⟨0x300, 4, 5, false, [⟨31, 0, .ro, 0, none, 0, 0⟩]⟩,
   ⟨0x320, 4, 5, false, [⟨31, 0, .ro, 0, none, 0, 0⟩]⟩,
   ⟨0x340, 8, 3, true, [⟨63, 0, .cmd, 0, none, 0, 0⟩]⟩,
   ⟨0x358, 8, 2, true, [⟨63, 0, .cmd, 0, none, 0, 0⟩]⟩,
   ⟨0x368, 0, 1, true, [⟨63, 0, .cmd, 0, none, 0, 0⟩]⟩,
   ⟨0x800, 4, 512, false, [⟨31, 0, .ro, 0, none, 0, 0⟩]⟩]

/-- The registers of the conf page from offset 0x040 (R427). -/
def confDefs : List RegDef :=
  [⟨0x040, 0, 1, false, [⟨31, 31, .ro, 0, none, 0, 0⟩, ⟨23, 16, .ro, 0, none, 0, 0⟩, ⟨15, 0, .ro, 0, none, 0, 0⟩]⟩,
   ⟨0x044, 0, 1, false, [⟨31, 0, .ro, 0, none, 0, 0⟩]⟩,
   ⟨0x048, 0, 1, true, [⟨47, 0, .rw, 0, none, 0, 0⟩]⟩,
   ⟨0x050, 0, 1, false, [⟨16, 0, .rw, 0, none, 0, 0⟩]⟩,
   ⟨0x054, 0, 1, false, [⟨31, 31, .ro, 0, none, 0, 0⟩, ⟨0, 0, .wo, 0, none, 0, 0⟩]⟩,
   ⟨0x058, 0, 1, true, [⟨47, 0, .rw, 0, none, 0, 0⟩]⟩,
   ⟨0x060, 0, 1, false, [⟨12, 0, .rw, 0, (some (0, 4096)), 0, 0⟩]⟩,
   ⟨0x064, 0, 1, false, [⟨31, 31, .ro, 0, none, 0, 0⟩, ⟨23, 16, .ro, 0, none, 0, 0⟩, ⟨15, 0, .ro, 0, none, 0, 0⟩]⟩,
   ⟨0x068, 0, 1, true, [⟨63, 0, .ro, 0, none, 0, 0⟩]⟩,
   ⟨0x070, 0, 1, true, [⟨63, 0, .ro, 0, none, 0, 0⟩]⟩,
   ⟨0x078, 0, 1, true, [⟨63, 0, .rw, 0, none, 0, 0⟩]⟩,
   ⟨0x400, 8, 128, true, [⟨63, 0, .ro, 0, none, 0, 0⟩]⟩]

/-- The registers of the hlth page from offset 0x040 (R439). -/
def hlthDefs : List RegDef :=
  [⟨0x040, 0, 1, false, [⟨13, 8, .ro, 63, none, 0, 0⟩, ⟨1, 0, .ro, 1, none, 0, 0⟩]⟩,
   ⟨0x044, 0, 1, false, [⟨25, 20, .ro, 0, none, 0, 0⟩, ⟨19, 16, .ro, 0, none, 0, 0⟩, ⟨15, 12, .ro, 0, none, 0, 0⟩, ⟨11, 8, .ro, 0, none, 0, 0⟩, ⟨7, 0, .ro, 0, none, 0, 0⟩]⟩,
   ⟨0x048, 0, 1, false, [⟨23, 16, .ro, 0, none, 0, 0⟩, ⟨15, 8, .ro, 0, none, 0, 0⟩, ⟨7, 4, .ro, 8, none, 0, 0⟩, ⟨3, 0, .ro, 8, none, 0, 0⟩]⟩,
   ⟨0x04C, 0, 1, false, [⟨31, 31, .rc, 0, none, 0, 0⟩, ⟨29, 28, .rc, 0, none, 0, 0⟩, ⟨27, 26, .rc, 0, none, 0, 0⟩, ⟨13, 8, .rc, 0, none, 0, 0⟩]⟩,
   ⟨0x050, 0, 1, true, [⟨63, 0, .ro, 0, none, 0, 0⟩]⟩,
   ⟨0x060, 4, 5, false, [⟨31, 0, .ro, 0, none, 0, 0⟩]⟩,
   ⟨0x074, 0, 1, false, [⟨15, 0, .ro, 0, none, 0, 0⟩]⟩,
   ⟨0x078, 0, 1, false, [⟨11, 0, .ro, 0, none, 0, 0⟩]⟩,
   ⟨0x07C, 0, 1, false, [⟨11, 0, .ro, 0, none, 0, 0⟩]⟩,
   ⟨0x080, 0, 1, false, [⟨31, 31, .rc, 0, none, 0, 0⟩, ⟨25, 24, .rc, 0, none, 0, 0⟩, ⟨21, 20, .rc, 0, none, 0, 0⟩, ⟨17, 16, .rc, 0, none, 0, 0⟩, ⟨15, 0, .rc, 0, none, 0, 0⟩]⟩,
   ⟨0x088, 0, 1, true, [⟨63, 0, .rc, 0, none, 0, 0⟩]⟩,
   ⟨0x090, 0, 1, false, [⟨31, 31, .rc, 0, none, 0, 0⟩, ⟨28, 24, .rc, 0, none, 0, 0⟩, ⟨11, 0, .rc, 0, none, 0, 0⟩]⟩,
   ⟨0x098, 0, 1, true, [⟨63, 0, .rc, 0, none, 0, 0⟩]⟩,
   ⟨0x0A0, 0, 1, false, [⟨31, 31, .rc, 0, none, 0, 0⟩, ⟨13, 0, .rc, 0, none, 0, 0⟩]⟩,
   ⟨0x0A8, 4, 10, false, [⟨31, 0, .rc, 0, none, 0, 0⟩]⟩,
   ⟨0x100, 0, 1, false, [⟨15, 0, .rw, 1000, (some (10, 60000)), 0, 0⟩]⟩,
   ⟨0x104, 0, 1, false, [⟨8, 0, .rw, 0, (some (0, 256)), 0, 0⟩]⟩,
   ⟨0x108, 0, 1, false, [⟨31, 0, .rc, 0, none, 0, 0⟩]⟩,
   ⟨0x400, 8, 256, true, [⟨32, 32, .rw, 0, none, 0, 0⟩, ⟨31, 20, .rw, 0, none, 0, 0⟩, ⟨19, 8, .rw, 0, none, 0, 0⟩, ⟨7, 0, .rw, 0, none, 0, 0⟩]⟩]

/-- The registers of the bkgd page from offset 0x040 (R442). -/
def bkgdDefs : List RegDef :=
  [⟨0x040, 0, 1, false, [⟨10, 0, .rw, 10, (some (1, 1440)), 0, 0⟩]⟩,
   ⟨0x044, 0, 1, false, [⟨13, 0, .rw, 60, (some (1, 10080)), 0, 0⟩]⟩,
   ⟨0x048, 0, 1, false, [⟨15, 0, .rw, 100, (some (1, 60000)), 0, 0⟩]⟩,
   ⟨0x04C, 0, 1, false, [⟨13, 0, .rw, 60, (some (1, 10080)), 0, 0⟩]⟩,
   ⟨0x050, 0, 1, false, [⟨15, 8, .ro, 0, none, 0, 0⟩, ⟨7, 0, .ro, 0, none, 0, 0⟩]⟩,
   ⟨0x100, 16, 8, false, [⟨31, 31, .rw, 1, none, 0, 0⟩, ⟨23, 16, .rw, 64, none, 0, 0⟩, ⟨15, 0, .rw, 256, (some (0, 4096)), 0, 0⟩]⟩,
   ⟨0x104, 16, 8, false, [⟨15, 0, .ro, 0, none, 0, 0⟩]⟩,
   ⟨0x108, 16, 8, false, [⟨31, 0, .rc, 0, none, 0, 0⟩]⟩,
   ⟨0x10C, 16, 8, false, [⟨31, 0, .rc, 0, none, 0, 0⟩]⟩]

/-- The registers of the powr page from offset 0x040 (R459). -/
def powrDefs : List RegDef :=
  [⟨0x040, 0, 1, false, [⟨10, 0, .cmd, 1400, none, 0, 0⟩]⟩,
   ⟨0x044, 0, 1, false, [⟨10, 0, .rw, 1500, (some (750, 1500)), 0, 50⟩]⟩,
   ⟨0x048, 0, 1, false, [⟨15, 0, .ro, 0, none, 0, 0⟩]⟩,
   ⟨0x04C, 0, 1, false, [⟨15, 0, .ro, 0, none, 0, 0⟩]⟩,
   ⟨0x050, 0, 1, false, [⟨10, 0, .ro, 0, none, 0, 0⟩]⟩,
   ⟨0x054, 0, 1, false, [⟨4, 0, .ro, 0, none, 0, 0⟩]⟩,
   ⟨0x058, 0, 1, false, [⟨1, 0, .ro, 0, none, 0, 0⟩]⟩,
   ⟨0x05C, 0, 1, false, [⟨3, 0, .ro, 0, none, 0, 0⟩]⟩,
   ⟨0x060, 0, 1, false, [⟨15, 0, .ro, 0, none, 0, 0⟩]⟩,
   ⟨0x064, 0, 1, false, [⟨15, 0, .ro, 0, none, 0, 0⟩]⟩,
   ⟨0x068, 4, 4, false, [⟨31, 0, .rc, 0, none, 0, 0⟩]⟩,
   ⟨0x100, 4, 12, false, [⟨15, 0, .ro, 0, none, 0, 0⟩]⟩]

/-- The registers of the powrDie page from offset 0x040 (R459). -/
def powrDieDefs : List RegDef :=
  [⟨0x040, 0, 1, false, [⟨10, 0, .ro, 1500, none, 0, 0⟩]⟩,
   ⟨0x044, 0, 1, false, [⟨10, 0, .ro, 1500, none, 0, 0⟩]⟩,
   ⟨0x048, 0, 1, false, [⟨9, 0, .ro, 0, none, 0, 0⟩]⟩,
   ⟨0x04C, 0, 1, false, [⟨10, 0, .ro, 0, none, 0, 0⟩]⟩,
   ⟨0x050, 0, 1, false, [⟨15, 0, .ro, 0, none, 0, 0⟩]⟩]

/-- The registers of a block's page from offset 0x040. -/
def blkDefs : Blk → List RegDef
  | .mgmt => mgmtDefs
  | .pres => presDefs
  | .tile => tileDefs
  | .mtrx => mtrxDefs
  | .cova => covaDefs
  | .vect => vectDefs
  | .galy => galyDefs
  | .updt => updtDefs
  | .solv => solvDefs
  | .winn => winnDefs
  | .shef => shefDefs
  | .hbmc => hbmcDefs
  | .optb => optbDefs
  | .peer => peerDefs
  | .flsh => flshDefs
  | .intg => intgDefs
  | .link => linkDefs
  | .enet => enetDefs
  | .slqp => slqpDefs
  | .colo => coloDefs
  | .conf => confDefs
  | .hlth => hlthDefs
  | .bkgd => bkgdDefs
  | .powr => powrDefs
  | .powrDie => powrDieDefs

/-- The number of a block in a register's key. -/
def blkNum : Blk → Nat
  | .mgmt => 0
  | .pres => 1
  | .tile => 2
  | .mtrx => 3
  | .cova => 4
  | .vect => 5
  | .galy => 6
  | .updt => 7
  | .solv => 8
  | .winn => 9
  | .shef => 10
  | .hbmc => 11
  | .optb => 12
  | .peer => 13
  | .flsh => 14
  | .intg => 15
  | .link => 16
  | .enet => 17
  | .slqp => 18
  | .colo => 19
  | .conf => 20
  | .hlth => 21
  | .bkgd => 22
  | .powr => 23
  | .powrDie => 24

/-- The block of a number. -/
def blkOf : Nat → Blk
  | 0 => .mgmt
  | 1 => .pres
  | 2 => .tile
  | 3 => .mtrx
  | 4 => .cova
  | 5 => .vect
  | 6 => .galy
  | 7 => .updt
  | 8 => .solv
  | 9 => .winn
  | 10 => .shef
  | 11 => .hbmc
  | 12 => .optb
  | 13 => .peer
  | 14 => .flsh
  | 15 => .intg
  | 16 => .link
  | 17 => .enet
  | 18 => .slqp
  | 19 => .colo
  | 20 => .conf
  | 21 => .hlth
  | 22 => .bkgd
  | 23 => .powr
  | _ => .powrDie

/-- The register that covers an offset: its definition and its first offset, if any register lies there. -/
def regAt (b : Blk) (off : Nat) : Option (RegDef × Nat) :=
  let defs := if off < 0x40 then headerDefs else blkDefs b
  defs.findSome? fun r =>
    let n := if r.stride = 0 then 0 else (off - r.off) / r.stride
    let base := r.off + n * r.stride
    if r.off ≤ off ∧ n < r.count ∧ base ≤ off ∧ off < base + (if r.wide then 8 else 4) then some (r, base) else none

/-- The MGD's own pages (R30: ENABLE resets to 1 there). -/
def isMgdBlk : Blk → Nat → Bool
  | .mgmt, _ | .pres, _ | .enet, _ | .slqp, _ | .colo, _ | .conf, _ | .hlth, _ | .bkgd, _ | .flsh, _ | .peer, _
  | .optb, _ | .powr, _ => true
  | .intg, i => i == 200
  | _, _ => false

/-- The key of a register: block, page instance, offset. Instances: physical tile number 0–159 for the pages of a
tile; engine, site or device link number for the others; INTG pages: physical tile, 160 + engine, 176 + HBM site,
188 + link site, 200 for the MGD. -/
def regKey (b : Blk) (idx off : Nat) : Nat := (blkNum b * 256 + idx) * 4096 + off

/-- Activities whose SHARE or STEAL_MAX resets to 0 (R442). -/
def bkgdReset (a v : Nat) : Nat :=
  setBits (if 6 ≤ a then setBits v 23 16 0 else v) 15 0 (if 5 ≤ a then 0 else 256)

/-- The reset value of a register, from its key: what an unlisted key of `State.regs` reads as. -/
def regReset (k : Nat) : DWord :=
  let off := k % 4096
  let idx := k / 4096 % 256
  let b := blkOf (k / 4096 / 256)
  if off = 0x008 then (if isMgdBlk b idx then 1 else 0) else
  match regAt b off with
  | none => 0
  | some (r, base) =>
    let v := r.fields.foldl (fun v f => v + f.reset * 2 ^ f.lo) 0
    if b = .bkgd ∧ r.off = 0x100 then BitVec.ofNat 64 (bkgdReset ((base - 0x100) / 16) v)
    else if b = .slqp ∧ base = 0x110 then 0x300
    else BitVec.ofNat 64 v

/-- R38: MGMT_EVT_LOC_MGD (register EVT_LOC). -/
def MGMT_EVT_LOC_MGD : Fld := ⟨.mgmt, 0x040, 0, 24, 24⟩
/-- R38: MGMT_EVT_LOC_CD (register EVT_LOC). -/
def MGMT_EVT_LOC_CD : Fld := ⟨.mgmt, 0x040, 0, 17, 16⟩
/-- R38: MGMT_EVT_LOC_SITE (register EVT_LOC). -/
def MGMT_EVT_LOC_SITE : Fld := ⟨.mgmt, 0x040, 0, 11, 0⟩
/-- R38: MGMT_EVT_SEL (register EVT_NEXT_SEL). -/
def MGMT_EVT_SEL : Fld := ⟨.mgmt, 0x044, 0, 4, 0⟩
/-- R38: MGMT_EVT_NEXT_VALID (register EVT_NEXT). -/
def MGMT_EVT_NEXT_VALID : Fld := ⟨.mgmt, 0x048, 0, 31, 31⟩
/-- R38: MGMT_EVT_NEXT_PAGE (register EVT_NEXT). -/
def MGMT_EVT_NEXT_PAGE : Fld := ⟨.mgmt, 0x048, 0, 11, 0⟩
/-- R38: MGMT_LINK_SITES (register SITE_POP). -/
def MGMT_LINK_SITES : Fld := ⟨.mgmt, 0x04C, 0, 11, 0⟩
/-- R386: MGMT_IMP_BASE (register IMP_BASE). -/
def MGMT_IMP_BASE : Fld := ⟨.mgmt, 0x100, 0, 47, 0⟩
/-- R386: MGMT_IMP_COUNT (register IMP_COUNT). -/
def MGMT_IMP_COUNT : Fld := ⟨.mgmt, 0x108, 0, 16, 0⟩
/-- R386: MGMT_RI_NEW_COUNT (register RI_NEW). -/
def MGMT_RI_NEW_COUNT : Fld := ⟨.mgmt, 0x110, 0, 63, 47⟩
/-- R386: MGMT_RI_NEW_BASE (register RI_NEW). -/
def MGMT_RI_NEW_BASE : Fld := ⟨.mgmt, 0x110, 0, 46, 0⟩
/-- R386: MGMT_RI_START (register RI_START). -/
def MGMT_RI_START : Fld := ⟨.mgmt, 0x118, 0, 47, 0⟩
/-- R386: MGMT_RI_END (register RI_END). -/
def MGMT_RI_END : Fld := ⟨.mgmt, 0x120, 0, 47, 0⟩
/-- R386: MGMT_RI_STAGE (register RI_STAGE). -/
def MGMT_RI_STAGE : Fld := ⟨.mgmt, 0x128, 0, 47, 0⟩
/-- R386: MGMT_RI_DONE (register RI_DONE). -/
def MGMT_RI_DONE : Fld := ⟨.mgmt, 0x130, 0, 63, 0⟩
/-- R386: MGMT_RI_STATE (register RI_STS). -/
def MGMT_RI_STATE : Fld := ⟨.mgmt, 0x138, 0, 1, 0⟩
/-- R386: MGMT_RI_LATE (register RI_STS). -/
def MGMT_RI_LATE : Fld := ⟨.mgmt, 0x138, 0, 2, 2⟩
/-- R386: MGMT_RI_FAILED (register RI_STS). -/
def MGMT_RI_FAILED : Fld := ⟨.mgmt, 0x138, 0, 3, 3⟩
/-- R386: MGMT_RI_LEFT (register RI_LEFT). -/
def MGMT_RI_LEFT : Fld := ⟨.mgmt, 0x13C, 0, 31, 0⟩
/-- R386: MGMT_CNT_RI_CHUNKS (register CNT_RI_CHUNKS). -/
def MGMT_CNT_RI_CHUNKS : Fld := ⟨.mgmt, 0x140, 0, 31, 0⟩
/-- R386: MGMT_CNT_RI_REFETCH (register CNT_RI_REFETCH). -/
def MGMT_CNT_RI_REFETCH : Fld := ⟨.mgmt, 0x144, 0, 31, 0⟩
/-- R75: PRES_IMPRESSION (register CUR_INSTANT). -/
def PRES_IMPRESSION : Fld := ⟨.pres, 0x040, 0, 63, 16⟩
/-- R75: PRES_POINT (register CUR_INSTANT). -/
def PRES_POINT : Fld := ⟨.pres, 0x040, 0, 15, 0⟩
/-- R75: PRES_ROLE (register ROLE). -/
def PRES_ROLE : Fld := ⟨.pres, 0x048, 0, 1, 0⟩
/-- R75: PRES_ELECT_GEN (register ELECT_GEN). -/
def PRES_ELECT_GEN : Fld := ⟨.pres, 0x04C, 0, 31, 0⟩
/-- R75: PRES_ELECT_GENF (register ELECT). -/
def PRES_ELECT_GENF : Fld := ⟨.pres, 0x050, 0, 63, 32⟩
/-- R75: PRES_BACKUP_VALID (register ELECT). -/
def PRES_BACKUP_VALID : Fld := ⟨.pres, 0x050, 0, 30, 30⟩
/-- R75: PRES_BACKUP_NODE (register ELECT). -/
def PRES_BACKUP_NODE : Fld := ⟨.pres, 0x050, 0, 29, 16⟩
/-- R75: PRES_MASTER_NODE (register ELECT). -/
def PRES_MASTER_NODE : Fld := ⟨.pres, 0x050, 0, 13, 0⟩
/-- R75: PRES_ELECT_H (register ELECT_AT). -/
def PRES_ELECT_H : Fld := ⟨.pres, 0x058, 0, 47, 0⟩
/-- R75: PRES_PRESS_MODE (register PRESS_MODE). -/
def PRES_PRESS_MODE : Fld := ⟨.pres, 0x060, 0, 0, 0⟩
/-- R75: PRES_PERIOD (register PERIOD). -/
def PRES_PERIOD : Fld := ⟨.pres, 0x064, 0, 31, 0⟩
/-- R75: PRES_GATE_MAX (register GATE_BOUNDS). -/
def PRES_GATE_MAX : Fld := ⟨.pres, 0x068, 0, 63, 32⟩
/-- R75: PRES_GATE_MIN (register GATE_BOUNDS). -/
def PRES_GATE_MIN : Fld := ⟨.pres, 0x068, 0, 31, 0⟩
/-- R75: PRES_GATE_EN (register GATE_CFG). -/
def PRES_GATE_EN : Fld := ⟨.pres, 0x070, 0, 31, 31⟩
/-- R75: PRES_CHILDREN (register GATE_CFG). -/
def PRES_CHILDREN : Fld := ⟨.pres, 0x070, 0, 23, 16⟩
/-- R75: PRES_PARENT (register GATE_CFG). -/
def PRES_PARENT : Fld := ⟨.pres, 0x070, 0, 13, 0⟩
/-- R75: PRES_READY_THRESH (register READY_THRESH). -/
def PRES_READY_THRESH : Fld := ⟨.pres, 0x074, 0, 19, 0⟩
/-- R75: PRES_READY_CNT (register READY_CNT). -/
def PRES_READY_CNT : Fld := ⟨.pres, 0x078, 0, 19, 0⟩
/-- R75: PRES_READY_FORCE (register READY_FORCE). -/
def PRES_READY_FORCE : Fld := ⟨.pres, 0x07C, 0, 0, 0⟩
/-- R75: PRES_PERIOD_CUR (register PERIOD_CUR). -/
def PRES_PERIOD_CUR : Fld := ⟨.pres, 0x080, 0, 31, 0⟩
/-- R75: PRES_BEACON_LATE (register BEACON_STS). -/
def PRES_BEACON_LATE : Fld := ⟨.pres, 0x084, 0, 31, 31⟩
/-- R75: PRES_BEACON_HOPS (register BEACON_STS). -/
def PRES_BEACON_HOPS : Fld := ⟨.pres, 0x084, 0, 15, 8⟩
/-- R75: PRES_BEACON_LINK (register BEACON_STS). -/
def PRES_BEACON_LINK : Fld := ⟨.pres, 0x084, 0, 5, 0⟩
/-- R75: PRES_SCHED_W (register SCHED_W0). -/
def PRES_SCHED_W : Fld := ⟨.pres, 0x088, 4, 31, 0⟩
/-- R75: PRES_SCHED_W2 (register SCHED_W2). -/
def PRES_SCHED_W2 : Fld := ⟨.pres, 0x090, 0, 27, 0⟩
/-- R75: PRES_SCHED_W3 (register SCHED_W3). -/
def PRES_SCHED_W3 : Fld := ⟨.pres, 0x094, 0, 31, 0⟩
/-- R75: PRES_SCHED_POST (register SCHED_POST). -/
def PRES_SCHED_POST : Fld := ⟨.pres, 0x098, 0, 0, 0⟩
/-- R75: PRES_HANDLE_VALID (register SCHED_HANDLE). -/
def PRES_HANDLE_VALID : Fld := ⟨.pres, 0x09C, 0, 31, 31⟩
/-- R75: PRES_HANDLE (register SCHED_HANDLE). -/
def PRES_HANDLE : Fld := ⟨.pres, 0x09C, 0, 9, 0⟩
/-- R75: PRES_SCHED_CANCEL (register SCHED_CANCEL). -/
def PRES_SCHED_CANCEL : Fld := ⟨.pres, 0x0A0, 0, 9, 0⟩
/-- R75: PRES_SCHED_FREE (register SCHED_FREE). -/
def PRES_SCHED_FREE : Fld := ⟨.pres, 0x0A4, 0, 10, 0⟩
/-- R75: PRES_BUB_ORIGIN (register BUB_ORIGIN). -/
def PRES_BUB_ORIGIN : Fld := ⟨.pres, 0x0A8, 0, 47, 0⟩
/-- R75: PRES_BUB_EN (register BUB_CTL). -/
def PRES_BUB_EN : Fld := ⟨.pres, 0x0B0, 0, 31, 31⟩
/-- R75: PRES_BUB_COUNT (register BUB_CTL). -/
def PRES_BUB_COUNT : Fld := ⟨.pres, 0x0B0, 0, 22, 16⟩
/-- R75: PRES_BUB_CYCLE (register BUB_CTL). -/
def PRES_BUB_CYCLE : Fld := ⟨.pres, 0x0B0, 0, 15, 0⟩
/-- R75: PRES_AFAIL_VALID (register ACTION_FAIL). -/
def PRES_AFAIL_VALID : Fld := ⟨.pres, 0x0B4, 0, 31, 31⟩
/-- R75: PRES_AFAIL_MULTI (register ACTION_FAIL). -/
def PRES_AFAIL_MULTI : Fld := ⟨.pres, 0x0B4, 0, 30, 30⟩
/-- R75: PRES_AFAIL_CODE (register ACTION_FAIL). -/
def PRES_AFAIL_CODE : Fld := ⟨.pres, 0x0B4, 0, 23, 16⟩
/-- R75: PRES_AFAIL_HANDLE (register ACTION_FAIL). -/
def PRES_AFAIL_HANDLE : Fld := ⟨.pres, 0x0B4, 0, 9, 0⟩
/-- R75: PRES_CNT_GATE_TIMEOUT (register CNT_GATE_TIMEOUT). -/
def PRES_CNT_GATE_TIMEOUT : Fld := ⟨.pres, 0x0B8, 0, 31, 0⟩
/-- R75: PRES_CNT_SKIPPED (register CNT_SKIPPED). -/
def PRES_CNT_SKIPPED : Fld := ⟨.pres, 0x0BC, 0, 31, 0⟩
/-- R75: PRES_CNT_STALE_READY (register CNT_STALE_READY). -/
def PRES_CNT_STALE_READY : Fld := ⟨.pres, 0x0C0, 0, 31, 0⟩
/-- R75: PRES_CNT_BEACON_LATE (register CNT_BEACON_LATE). -/
def PRES_CNT_BEACON_LATE : Fld := ⟨.pres, 0x0C4, 0, 31, 0⟩
/-- R75: PRES_CNT_FAILOVER (register CNT_FAILOVER). -/
def PRES_CNT_FAILOVER : Fld := ⟨.pres, 0x0C8, 0, 31, 0⟩
/-- R75: PRES_SEVT_ARG (register SCHED_EVT). -/
def PRES_SEVT_ARG : Fld := ⟨.pres, 0x0D0, 0, 63, 32⟩
/-- R75: PRES_SEVT_VALID (register SCHED_EVT). -/
def PRES_SEVT_VALID : Fld := ⟨.pres, 0x0D0, 0, 31, 31⟩
/-- R75: PRES_SEVT_MULTI (register SCHED_EVT). -/
def PRES_SEVT_MULTI : Fld := ⟨.pres, 0x0D0, 0, 30, 30⟩
/-- R75: PRES_SEVT_HANDLE (register SCHED_EVT). -/
def PRES_SEVT_HANDLE : Fld := ⟨.pres, 0x0D0, 0, 9, 0⟩
/-- R75: PRES_BUB_END (register BUB_WIN). -/
def PRES_BUB_END : Fld := ⟨.pres, 0x100, 8, 47, 32⟩
/-- R75: PRES_BUB_START (register BUB_WIN). -/
def PRES_BUB_START : Fld := ⟨.pres, 0x100, 8, 31, 16⟩
/-- R75: PRES_BUB_OFFSET (register BUB_WIN). -/
def PRES_BUB_OFFSET : Fld := ⟨.pres, 0x100, 8, 15, 0⟩
/-- R385: PRES_PLAN_BASE (register PLAN_BASE). -/
def PRES_PLAN_BASE : Fld := ⟨.pres, 0x300, 0, 47, 0⟩
/-- R385: PRES_PLAN_ORIGIN (register PLAN_ORIGIN). -/
def PRES_PLAN_ORIGIN : Fld := ⟨.pres, 0x308, 0, 47, 0⟩
/-- R385: PRES_PLAN_EN (register PLAN_CTL). -/
def PRES_PLAN_EN : Fld := ⟨.pres, 0x310, 0, 31, 31⟩
/-- R385: PRES_PLAN_VALID (register PLAN_SLOT). -/
def PRES_PLAN_VALID : Fld := ⟨.pres, 0x314, 0, 31, 31⟩
/-- R385: PRES_PLAN_VSTAGE (register PLAN_SLOT). -/
def PRES_PLAN_VSTAGE : Fld := ⟨.pres, 0x314, 0, 17, 15⟩
/-- R385: PRES_PLAN_KIND (register PLAN_SLOT). -/
def PRES_PLAN_KIND : Fld := ⟨.pres, 0x314, 0, 14, 12⟩
/-- R385: PRES_PLAN_SLOTN (register PLAN_SLOT). -/
def PRES_PLAN_SLOTN : Fld := ⟨.pres, 0x314, 0, 11, 0⟩
/-- R385: PRES_PLAN_MICRO (register PLAN_MICRO). -/
def PRES_PLAN_MICRO : Fld := ⟨.pres, 0x318, 0, 15, 0⟩
/-- R98: TILE_SUBSTITUTED (register TILE_INFO). -/
def TILE_SUBSTITUTED : Fld := ⟨.tile, 0x040, 0, 9, 9⟩
/-- R98: TILE_TDIE (register TILE_INFO). -/
def TILE_TDIE : Fld := ⟨.tile, 0x040, 0, 8, 8⟩
/-- R98: TILE_PHYS (register TILE_INFO). -/
def TILE_PHYS : Fld := ⟨.tile, 0x040, 0, 6, 0⟩
/-- R98: TILE_RESET_PC (register CORE_CTL). -/
def TILE_RESET_PC : Fld := ⟨.tile, 0x044, 0, 31, 16⟩
/-- R98: TILE_CORE_FAULT (register CORE_CTL). -/
def TILE_CORE_FAULT : Fld := ⟨.tile, 0x044, 0, 2, 2⟩
/-- R98: TILE_CORE_STALLED (register CORE_CTL). -/
def TILE_CORE_STALLED : Fld := ⟨.tile, 0x044, 0, 1, 1⟩
/-- R98: TILE_CORE_RUN (register CORE_CTL). -/
def TILE_CORE_RUN : Fld := ⟨.tile, 0x044, 0, 0, 0⟩
/-- R98: TILE_CORE_CAUSE (register CORE_CAUSE). -/
def TILE_CORE_CAUSE : Fld := ⟨.tile, 0x048, 0, 31, 0⟩
/-- R98: TILE_CORE_EPC (register CORE_EPC). -/
def TILE_CORE_EPC : Fld := ⟨.tile, 0x04C, 0, 31, 0⟩
/-- R98: TILE_TSAT_VALID (register TOKEN_SAT). -/
def TILE_TSAT_VALID : Fld := ⟨.tile, 0x050, 0, 31, 31⟩
/-- R98: TILE_TSAT_COUNTER (register TOKEN_SAT). -/
def TILE_TSAT_COUNTER : Fld := ⟨.tile, 0x050, 0, 7, 0⟩
/-- R98: TILE_SUM_LEVEL (register SUM_LEVEL). -/
def TILE_SUM_LEVEL : Fld := ⟨.tile, 0x054, 0, 6, 0⟩
/-- R98: TILE_CNT_SUM_STALL (register CNT_SUM_STALL). -/
def TILE_CNT_SUM_STALL : Fld := ⟨.tile, 0x058, 0, 31, 0⟩
/-- R98: TILE_CNT_LATE_GATE (register CNT_LATE_GATE). -/
def TILE_CNT_LATE_GATE : Fld := ⟨.tile, 0x05C, 0, 31, 0⟩
/-- R98: TILE_SUBST_VALID (register SUBST_REC). -/
def TILE_SUBST_VALID : Fld := ⟨.tile, 0x060, 0, 31, 31⟩
/-- R98: TILE_SUBST_LOST (register SUBST_REC). -/
def TILE_SUBST_LOST : Fld := ⟨.tile, 0x060, 0, 8, 8⟩
/-- R98: TILE_OLD_PHYS (register SUBST_REC). -/
def TILE_OLD_PHYS : Fld := ⟨.tile, 0x060, 0, 6, 0⟩
/-- R98: TILE_CNT_CREDIT_WAIT (register CNT_CREDIT_WAIT). -/
def TILE_CNT_CREDIT_WAIT : Fld := ⟨.tile, 0x064, 0, 31, 0⟩
/-- R98: TILE_WAIT_LIMIT (register Q_CFG). -/
def TILE_WAIT_LIMIT : Fld := ⟨.tile, 0x080, 32, 31, 24⟩
/-- R98: TILE_LOG2SIZE (register Q_CFG). -/
def TILE_LOG2SIZE : Fld := ⟨.tile, 0x080, 32, 19, 16⟩
/-- R98: TILE_QBASE (register Q_CFG). -/
def TILE_QBASE : Fld := ⟨.tile, 0x080, 32, 13, 0⟩
/-- R98: TILE_Q_HEAD (register Q_HEAD). -/
def TILE_Q_HEAD : Fld := ⟨.tile, 0x084, 32, 15, 0⟩
/-- R98: TILE_Q_TAIL (register Q_TAIL). -/
def TILE_Q_TAIL : Fld := ⟨.tile, 0x088, 32, 15, 0⟩
/-- R98: TILE_Q_CTL (register Q_CTL). -/
def TILE_Q_CTL : Fld := ⟨.tile, 0x08C, 32, 3, 0⟩
/-- R98: TILE_Q_DONE (register Q_STS). -/
def TILE_Q_DONE : Fld := ⟨.tile, 0x090, 32, 31, 16⟩
/-- R98: TILE_INFLIGHT (register Q_STS). -/
def TILE_INFLIGHT : Fld := ⟨.tile, 0x090, 32, 10, 8⟩
/-- R98: TILE_QREASON (register Q_STS). -/
def TILE_QREASON : Fld := ⟨.tile, 0x090, 32, 5, 3⟩
/-- R98: TILE_QSTATE (register Q_STS). -/
def TILE_QSTATE : Fld := ⟨.tile, 0x090, 32, 2, 0⟩
/-- R98: TILE_TOKEN (register TOKEN). -/
def TILE_TOKEN : Fld := ⟨.tile, 0x400, 4, 19, 0⟩
/-- R146: MTRX_CNT_OPS (register CNT_OPS). -/
def MTRX_CNT_OPS : Fld := ⟨.mtrx, 0x040, 0, 31, 0⟩
/-- R146: MTRX_CNT_COV_HOLD (register CNT_COV_HOLD). -/
def MTRX_CNT_COV_HOLD : Fld := ⟨.mtrx, 0x044, 0, 31, 0⟩
/-- R146: MTRX_CNT_SKIP (register CNT_SKIP). -/
def MTRX_CNT_SKIP : Fld := ⟨.mtrx, 0x048, 0, 31, 0⟩
/-- R146: MTRX_CNT_BAD_META (register CNT_BAD_META). -/
def MTRX_CNT_BAD_META : Fld := ⟨.mtrx, 0x04C, 0, 31, 0⟩
/-- R146: MTRX_CNT_NONFINITE (register CNT_NONFINITE). -/
def MTRX_CNT_NONFINITE : Fld := ⟨.mtrx, 0x050, 0, 31, 0⟩
/-- R146: COVA_SBOUND (register SLOT). -/
def COVA_SBOUND : Fld := ⟨.cova, 0x040, 8, 31, 31⟩
/-- R146: COVA_SFACTOR (register SLOT). -/
def COVA_SFACTOR : Fld := ⟨.cova, 0x040, 8, 30, 30⟩
/-- R146: COVA_SPOISON (register SLOT). -/
def COVA_SPOISON : Fld := ⟨.cova, 0x040, 8, 29, 29⟩
/-- R146: COVA_SJ (register SLOT). -/
def COVA_SJ : Fld := ⟨.cova, 0x040, 8, 5, 3⟩
/-- R146: COVA_SI (register SLOT). -/
def COVA_SI : Fld := ⟨.cova, 0x040, 8, 2, 0⟩
/-- R146: COVA_SAMPLES (register SAMPLES). -/
def COVA_SAMPLES : Fld := ⟨.cova, 0x044, 8, 31, 0⟩
/-- R146: COVA_SLOT_CLR (register SLOT_CLR). -/
def COVA_SLOT_CLR : Fld := ⟨.cova, 0x080, 0, 7, 0⟩
/-- R169: VECT_CNT_OPS (register CNT_OPS). -/
def VECT_CNT_OPS : Fld := ⟨.vect, 0x040, 0, 31, 0⟩
/-- R169: VECT_CNT_NAN (register CNT_NAN). -/
def VECT_CNT_NAN : Fld := ⟨.vect, 0x044, 0, 31, 0⟩
/-- R169: VECT_CNT_INF (register CNT_INF). -/
def VECT_CNT_INF : Fld := ⟨.vect, 0x048, 0, 31, 0⟩
/-- R169: VECT_CNT_SAT (register CNT_SAT). -/
def VECT_CNT_SAT : Fld := ⟨.vect, 0x04C, 0, 31, 0⟩
/-- R169: VECT_CNT_VANISHED (register CNT_VANISHED). -/
def VECT_CNT_VANISHED : Fld := ⟨.vect, 0x050, 0, 31, 0⟩
/-- R169: VECT_CNT_EMPTY (register CNT_EMPTY). -/
def VECT_CNT_EMPTY : Fld := ⟨.vect, 0x054, 0, 31, 0⟩
/-- R169: VECT_CNT_EMPTY_ROW (register CNT_EMPTY_ROW). -/
def VECT_CNT_EMPTY_ROW : Fld := ⟨.vect, 0x058, 0, 31, 0⟩
/-- R169: VECT_CNT_DIV0 (register CNT_DIV0). -/
def VECT_CNT_DIV0 : Fld := ⟨.vect, 0x05C, 0, 31, 0⟩
/-- R99: GALY_RVALID (register REGION). -/
def GALY_RVALID : Fld := ⟨.galy, 0x040, 4, 31, 31⟩
/-- R99: GALY_RMODE (register REGION). -/
def GALY_RMODE : Fld := ⟨.galy, 0x040, 4, 30, 30⟩
/-- R99: GALY_RSIZE (register REGION). -/
def GALY_RSIZE : Fld := ⟨.galy, 0x040, 4, 13, 8⟩
/-- R99: GALY_RBASE (register REGION). -/
def GALY_RBASE : Fld := ⟨.galy, 0x040, 4, 4, 0⟩
/-- R300: UPDT_PG_BASE (register PG_BASE). -/
def UPDT_PG_BASE : Fld := ⟨.updt, 0x040, 0, 47, 0⟩
/-- R300: UPDT_PG_EN (register PG_CTL). -/
def UPDT_PG_EN : Fld := ⟨.updt, 0x048, 0, 31, 31⟩
/-- R300: UPDT_PG_COUNT (register PG_CTL). -/
def UPDT_PG_COUNT : Fld := ⟨.updt, 0x048, 0, 10, 0⟩
/-- R300: UPDT_PROG_ADDR (register PROG_ADDR). -/
def UPDT_PROG_ADDR : Fld := ⟨.updt, 0x04C, 0, 11, 0⟩
/-- R300: UPDT_PROG_DATA (register PROG_DATA). -/
def UPDT_PROG_DATA : Fld := ⟨.updt, 0x050, 0, 31, 0⟩
/-- R300: UPDT_LEDGER_EN (register LEDGER_CTL). -/
def UPDT_LEDGER_EN : Fld := ⟨.updt, 0x054, 0, 31, 31⟩
/-- R300: UPDT_LEDGER_COUNT (register LEDGER_CTL). -/
def UPDT_LEDGER_COUNT : Fld := ⟨.updt, 0x054, 0, 12, 0⟩
/-- R300: UPDT_LEDGER_BASE (register LEDGER_BASE). -/
def UPDT_LEDGER_BASE : Fld := ⟨.updt, 0x058, 0, 47, 0⟩
/-- R300: UPDT_LEDGER_USED (register LEDGER_USED). -/
def UPDT_LEDGER_USED : Fld := ⟨.updt, 0x060, 0, 12, 0⟩
/-- R300: UPDT_UPD_OP (register UPD_CMD). -/
def UPDT_UPD_OP : Fld := ⟨.updt, 0x064, 0, 13, 12⟩
/-- R300: UPDT_UPD_GROUP (register UPD_CMD). -/
def UPDT_UPD_GROUP : Fld := ⟨.updt, 0x064, 0, 9, 0⟩
/-- R300: UPDT_PGF_VALID (register PG_FAULT). -/
def UPDT_PGF_VALID : Fld := ⟨.updt, 0x068, 0, 31, 31⟩
/-- R300: UPDT_PGF_CODE (register PG_FAULT). -/
def UPDT_PGF_CODE : Fld := ⟨.updt, 0x068, 0, 25, 18⟩
/-- R300: UPDT_PGF_GROUP (register PG_FAULT). -/
def UPDT_PGF_GROUP : Fld := ⟨.updt, 0x068, 0, 17, 8⟩
/-- R300: UPDT_PGF_BYTE (register PG_FAULT). -/
def UPDT_PGF_BYTE : Fld := ⟨.updt, 0x068, 0, 7, 0⟩
/-- R300: UPDT_REJ_VALID (register REC_REJ). -/
def UPDT_REJ_VALID : Fld := ⟨.updt, 0x06C, 0, 31, 31⟩
/-- R300: UPDT_REJ_MULTI (register REC_REJ). -/
def UPDT_REJ_MULTI : Fld := ⟨.updt, 0x06C, 0, 30, 30⟩
/-- R300: UPDT_REJ_CODE (register REC_REJ). -/
def UPDT_REJ_CODE : Fld := ⟨.updt, 0x06C, 0, 23, 16⟩
/-- R300: UPDT_REJ_TYPE (register REC_REJ). -/
def UPDT_REJ_TYPE : Fld := ⟨.updt, 0x06C, 0, 7, 0⟩
/-- R300: UPDT_CMD_W (register CMD_W). -/
def UPDT_CMD_W : Fld := ⟨.updt, 0x070, 4, 31, 0⟩
/-- R300: UPDT_CMD_POST (register CMD_POST). -/
def UPDT_CMD_POST : Fld := ⟨.updt, 0x0B0, 0, 0, 0⟩
/-- R300: UPDT_SNAP_ETH (register SNAP_CFG). -/
def UPDT_SNAP_ETH : Fld := ⟨.updt, 0x0B4, 0, 31, 31⟩
/-- R300: UPDT_SNAP_GROUP (register SNAP_CFG). -/
def UPDT_SNAP_GROUP : Fld := ⟨.updt, 0x0B4, 0, 9, 0⟩
/-- R300: UPDT_SNAP_DEST (register SNAP_DEST). -/
def UPDT_SNAP_DEST : Fld := ⟨.updt, 0x0B8, 0, 63, 0⟩
/-- R300: UPDT_SNAP_QPN (register SNAP_QPN). -/
def UPDT_SNAP_QPN : Fld := ⟨.updt, 0x0C0, 0, 23, 0⟩
/-- R300: UPDT_SNAP_STATE (register SNAP_STS). -/
def UPDT_SNAP_STATE : Fld := ⟨.updt, 0x0C4, 0, 1, 0⟩
/-- R300: UPDT_SNAP_STEP (register SNAP_STEP). -/
def UPDT_SNAP_STEP : Fld := ⟨.updt, 0x0C8, 0, 63, 0⟩
/-- R300: UPDT_SNAP_DONE (register SNAP_DONE). -/
def UPDT_SNAP_DONE : Fld := ⟨.updt, 0x0D0, 0, 63, 0⟩
/-- R300: UPDT_UCNT (register CNT). -/
def UPDT_UCNT : Fld := ⟨.updt, 0x0D8, 4, 31, 0⟩
/-- R204: UPDT_CURV_BASE (register CURV_BASE). -/
def UPDT_CURV_BASE : Fld := ⟨.updt, 0x400, 0, 47, 0⟩
/-- R204: UPDT_CURV_EN (register CURV_CTL). -/
def UPDT_CURV_EN : Fld := ⟨.updt, 0x408, 0, 31, 31⟩
/-- R204: UPDT_CURV_COUNT (register CURV_CTL). -/
def UPDT_CURV_COUNT : Fld := ⟨.updt, 0x408, 0, 10, 0⟩
/-- R204: UPDT_CURV_OP (register CURV_CMD). -/
def UPDT_CURV_OP : Fld := ⟨.updt, 0x40C, 0, 13, 12⟩
/-- R204: UPDT_CURV_FACTOR (register CURV_CMD). -/
def UPDT_CURV_FACTOR : Fld := ⟨.updt, 0x40C, 0, 10, 10⟩
/-- R204: UPDT_CURV_GROUP (register CURV_CMD). -/
def UPDT_CURV_GROUP : Fld := ⟨.updt, 0x40C, 0, 9, 0⟩
/-- R204: UPDT_CF_VALID (register CURV_FAULT). -/
def UPDT_CF_VALID : Fld := ⟨.updt, 0x410, 0, 31, 31⟩
/-- R204: UPDT_CF_CODE (register CURV_FAULT). -/
def UPDT_CF_CODE : Fld := ⟨.updt, 0x410, 0, 25, 18⟩
/-- R204: UPDT_CF_GROUP (register CURV_FAULT). -/
def UPDT_CF_GROUP : Fld := ⟨.updt, 0x410, 0, 17, 8⟩
/-- R204: UPDT_CF_FACTOR (register CURV_FAULT). -/
def UPDT_CF_FACTOR : Fld := ⟨.updt, 0x410, 0, 7, 7⟩
/-- R204: UPDT_CF_BYTE (register CURV_FAULT). -/
def UPDT_CF_BYTE : Fld := ⟨.updt, 0x410, 0, 6, 0⟩
/-- R204: UPDT_CNT_FOLDS (register CNT_FOLDS). -/
def UPDT_CNT_FOLDS : Fld := ⟨.updt, 0x414, 0, 31, 0⟩
/-- R204: UPDT_CNT_GRANULES_SENT (register CNT_GRANULES_SENT). -/
def UPDT_CNT_GRANULES_SENT : Fld := ⟨.updt, 0x418, 0, 31, 0⟩
/-- R204: UPDT_CNT_INSTALLS (register CNT_INSTALLS). -/
def UPDT_CNT_INSTALLS : Fld := ⟨.updt, 0x41C, 0, 31, 0⟩
/-- R204: UPDT_CNT_INSTALL_EMPTY (register CNT_INSTALL_EMPTY). -/
def UPDT_CNT_INSTALL_EMPTY : Fld := ⟨.updt, 0x420, 0, 31, 0⟩
/-- R204: UPDT_CNT_DELIVERY_WAIT (register CNT_DELIVERY_WAIT). -/
def UPDT_CNT_DELIVERY_WAIT : Fld := ⟨.updt, 0x424, 0, 31, 0⟩
/-- R204: UPDT_CNT_NONFINITE (register CNT_NONFINITE). -/
def UPDT_CNT_NONFINITE : Fld := ⟨.updt, 0x428, 0, 31, 0⟩
/-- R232: SOLV_FRAMES (register FRAMES). -/
def SOLV_FRAMES : Fld := ⟨.solv, 0x040, 0, 9, 0⟩
/-- R232: SOLV_RUN_VALID (register RUN). -/
def SOLV_RUN_VALID : Fld := ⟨.solv, 0x044, 0, 31, 31⟩
/-- R232: SOLV_RUN_CTX (register RUN). -/
def SOLV_RUN_CTX : Fld := ⟨.solv, 0x044, 0, 4, 0⟩
/-- R232: SOLV_GO_W (register GO_W). -/
def SOLV_GO_W : Fld := ⟨.solv, 0x048, 4, 31, 0⟩
/-- R232: SOLV_GO_POST (register GO_POST). -/
def SOLV_GO_POST : Fld := ⟨.solv, 0x068, 0, 0, 0⟩
/-- R232: SOLV_STREAM_LEVEL (register STREAM_LEVEL). -/
def SOLV_STREAM_LEVEL : Fld := ⟨.solv, 0x06C, 0, 12, 0⟩
/-- R232: SOLV_SREJ_VALID (register STREAM_REJ). -/
def SOLV_SREJ_VALID : Fld := ⟨.solv, 0x070, 0, 31, 31⟩
/-- R232: SOLV_SREJ_CODE (register STREAM_REJ). -/
def SOLV_SREJ_CODE : Fld := ⟨.solv, 0x070, 0, 23, 16⟩
/-- R232: SOLV_SREJ_CTX (register STREAM_REJ). -/
def SOLV_SREJ_CTX : Fld := ⟨.solv, 0x070, 0, 15, 8⟩
/-- R232: SOLV_SREJ_TYPE (register STREAM_REJ). -/
def SOLV_SREJ_TYPE : Fld := ⟨.solv, 0x070, 0, 7, 0⟩
/-- R232: SOLV_SCNT (register CNT). -/
def SOLV_SCNT : Fld := ⟨.solv, 0x074, 4, 31, 0⟩
/-- R232: SOLV_STATUS (register STATUS). -/
def SOLV_STATUS : Fld := ⟨.solv, 0x400, 32, 63, 0⟩
/-- R232: SOLV_RESIDUAL (register RESIDUAL). -/
def SOLV_RESIDUAL : Fld := ⟨.solv, 0x408, 32, 31, 0⟩
/-- R232: SOLV_AGE (register AGE). -/
def SOLV_AGE : Fld := ⟨.solv, 0x40C, 32, 31, 0⟩
/-- R232: SOLV_DELIVERED (register DELIVERED). -/
def SOLV_DELIVERED : Fld := ⟨.solv, 0x410, 32, 47, 0⟩
/-- R232: SOLV_CSTATE (register CTX_STS). -/
def SOLV_CSTATE : Fld := ⟨.solv, 0x418, 32, 2, 0⟩
/-- R232: SOLV_A_VALID (register CTX_STS). -/
def SOLV_A_VALID : Fld := ⟨.solv, 0x418, 32, 3, 3⟩
/-- R232: SOLV_PREV_VALID (register CTX_STS). -/
def SOLV_PREV_VALID : Fld := ⟨.solv, 0x418, 32, 4, 4⟩
/-- R232: SOLV_EXP_RAISE (register CTX_STS). -/
def SOLV_EXP_RAISE : Fld := ⟨.solv, 0x418, 32, 12, 8⟩
/-- R232: SOLV_CMODE (register CTX_CTL). -/
def SOLV_CMODE : Fld := ⟨.solv, 0x800, 64, 2, 0⟩
/-- R232: SOLV_CP (register CTX_CTL). -/
def SOLV_CP : Fld := ⟨.solv, 0x800, 64, 4, 3⟩
/-- R232: SOLV_SRC_KIND (register CTX_CTL). -/
def SOLV_SRC_KIND : Fld := ⟨.solv, 0x800, 64, 5, 5⟩
/-- R232: SOLV_STREAM (register CTX_CTL). -/
def SOLV_STREAM : Fld := ⟨.solv, 0x800, 64, 6, 6⟩
/-- R232: SOLV_GANG (register CTX_CTL). -/
def SOLV_GANG : Fld := ⟨.solv, 0x800, 64, 8, 7⟩
/-- R232: SOLV_PRIO (register CTX_CTL). -/
def SOLV_PRIO : Fld := ⟨.solv, 0x800, 64, 10, 9⟩
/-- R232: SOLV_TRANS (register CTX_CTL). -/
def SOLV_TRANS : Fld := ⟨.solv, 0x800, 64, 11, 11⟩
/-- R232: SOLV_UNIT (register CTX_CTL). -/
def SOLV_UNIT : Fld := ⟨.solv, 0x800, 64, 12, 12⟩
/-- R232: SOLV_CN (register CTX_N). -/
def SOLV_CN : Fld := ⟨.solv, 0x804, 64, 13, 0⟩
/-- R232: SOLV_CCOUNT (register CTX_COUNT). -/
def SOLV_CCOUNT : Fld := ⟨.solv, 0x808, 64, 12, 0⟩
/-- R232: SOLV_ZROW (register CTX_COUNT). -/
def SOLV_ZROW : Fld := ⟨.solv, 0x808, 64, 21, 16⟩
/-- R232: SOLV_CBASE (register CTX_FRAMES). -/
def SOLV_CBASE : Fld := ⟨.solv, 0x80C, 64, 9, 0⟩
/-- R232: SOLV_NFRAMES (register CTX_FRAMES). -/
def SOLV_NFRAMES : Fld := ⟨.solv, 0x80C, 64, 25, 16⟩
/-- R232: SOLV_ITERS (register CTX_ITERS). -/
def SOLV_ITERS : Fld := ⟨.solv, 0x810, 64, 7, 0⟩
/-- R232: SOLV_XA (register CTX_ITERS). -/
def SOLV_XA : Fld := ⟨.solv, 0x810, 64, 15, 8⟩
/-- R232: SOLV_XV (register CTX_ITERS). -/
def SOLV_XV : Fld := ⟨.solv, 0x810, 64, 23, 16⟩
/-- R232: SOLV_TOL (register TOL). -/
def SOLV_TOL : Fld := ⟨.solv, 0x814, 64, 31, 0⟩
/-- R232: SOLV_TAU (register TAU). -/
def SOLV_TAU : Fld := ⟨.solv, 0x818, 64, 31, 0⟩
/-- R232: SOLV_DAMP (register DAMP). -/
def SOLV_DAMP : Fld := ⟨.solv, 0x81C, 64, 31, 0⟩
/-- R232: SOLV_SRC (register SRC). -/
def SOLV_SRC : Fld := ⟨.solv, 0x820, 64, 63, 0⟩
/-- R232: SOLV_OUT (register OUT). -/
def SOLV_OUT : Fld := ⟨.solv, 0x828, 64, 63, 0⟩
/-- R232: SOLV_WORK (register WORK). -/
def SOLV_WORK : Fld := ⟨.solv, 0x830, 64, 63, 0⟩
/-- R232: SOLV_STS (register STS). -/
def SOLV_STS : Fld := ⟨.solv, 0x838, 64, 63, 0⟩
/-- R253: WINN_WCNT (register CNT). -/
def WINN_WCNT : Fld := ⟨.winn, 0x040, 4, 31, 0⟩
/-- R253: WINN_IBASE (register IN_BASE). -/
def WINN_IBASE : Fld := ⟨.winn, 0x100, 64, 20, 0⟩
/-- R253: WINN_ROWB (register IN_ROW). -/
def WINN_ROWB : Fld := ⟨.winn, 0x104, 64, 14, 0⟩
/-- R253: WINN_IFMT (register IN_ROW). -/
def WINN_IFMT : Fld := ⟨.winn, 0x104, 64, 19, 16⟩
/-- R253: WINN_ZERO_FILL (register IN_ROW). -/
def WINN_ZERO_FILL : Fld := ⟨.winn, 0x104, 64, 24, 24⟩
/-- R253: WINN_ICAP (register IN_CAP). -/
def WINN_ICAP : Fld := ⟨.winn, 0x108, 64, 12, 0⟩
/-- R253: WINN_NSRC (register IN_CAP). -/
def WINN_NSRC : Fld := ⟨.winn, 0x108, 64, 27, 16⟩
/-- R253: WINN_TAG_ADDR (register IN_TAG). -/
def WINN_TAG_ADDR : Fld := ⟨.winn, 0x10C, 64, 20, 0⟩
/-- R253: WINN_SRCT_ADDR (register IN_SRCT). -/
def WINN_SRCT_ADDR : Fld := ⟨.winn, 0x110, 64, 20, 0⟩
/-- R253: WINN_MASK_EN (register IN_MASK). -/
def WINN_MASK_EN : Fld := ⟨.winn, 0x114, 64, 31, 31⟩
/-- R253: WINN_MASK_ADDR (register IN_MASK). -/
def WINN_MASK_ADDR : Fld := ⟨.winn, 0x114, 64, 20, 0⟩
/-- R253: WINN_BMP_EN (register IN_BMP). -/
def WINN_BMP_EN : Fld := ⟨.winn, 0x118, 64, 31, 31⟩
/-- R253: WINN_BMP_ADDR (register IN_BMP). -/
def WINN_BMP_ADDR : Fld := ⟨.winn, 0x118, 64, 20, 0⟩
/-- R253: WINN_CLOSE_EN (register IN_CLOSE). -/
def WINN_CLOSE_EN : Fld := ⟨.winn, 0x11C, 64, 31, 31⟩
/-- R253: WINN_CLOSE_CNT (register IN_CLOSE). -/
def WINN_CLOSE_CNT : Fld := ⟨.winn, 0x11C, 64, 7, 0⟩
/-- R253: WINN_ICTL (register IN_CTL). -/
def WINN_ICTL : Fld := ⟨.winn, 0x120, 64, 1, 0⟩
/-- R253: WINN_ISTATE (register IN_STS). -/
def WINN_ISTATE : Fld := ⟨.winn, 0x124, 64, 1, 0⟩
/-- R253: WINN_ENDS (register IN_STS). -/
def WINN_ENDS : Fld := ⟨.winn, 0x124, 64, 27, 16⟩
/-- R253: WINN_IROWS (register IN_ROWS). -/
def WINN_IROWS : Fld := ⟨.winn, 0x128, 64, 31, 0⟩
/-- R253: WINN_CNT_REFUSED (register CNT_REFUSED). -/
def WINN_CNT_REFUSED : Fld := ⟨.winn, 0x12C, 64, 31, 0⟩
/-- R272: SHEF_GROUP_BASE (register GROUP_BASE). -/
def SHEF_GROUP_BASE : Fld := ⟨.shef, 0x040, 0, 47, 0⟩
/-- R272: SHEF_PARK_BASE (register PARK_BASE). -/
def SHEF_PARK_BASE : Fld := ⟨.shef, 0x048, 0, 47, 0⟩
/-- R272: SHEF_PARK_MIB (register PARK_MIB). -/
def SHEF_PARK_MIB : Fld := ⟨.shef, 0x050, 0, 12, 0⟩
/-- R272: SHEF_OPEN_CNT (register OPEN_CNT). -/
def SHEF_OPEN_CNT : Fld := ⟨.shef, 0x054, 0, 12, 0⟩
/-- R272: SHEF_EPI_LIMIT (register EPI_LIMIT). -/
def SHEF_EPI_LIMIT : Fld := ⟨.shef, 0x058, 0, 7, 0⟩
/-- R272: SHEF_OPEN_W (register OPEN_W). -/
def SHEF_OPEN_W : Fld := ⟨.shef, 0x060, 4, 31, 0⟩
/-- R272: SHEF_OPEN_POST (register OPEN_POST). -/
def SHEF_OPEN_POST : Fld := ⟨.shef, 0x0A0, 0, 0, 0⟩
/-- R272: SHEF_SHREJ_VALID (register REC_REJ). -/
def SHEF_SHREJ_VALID : Fld := ⟨.shef, 0x0A4, 0, 31, 31⟩
/-- R272: SHEF_SHREJ_MULTI (register REC_REJ). -/
def SHEF_SHREJ_MULTI : Fld := ⟨.shef, 0x0A4, 0, 30, 30⟩
/-- R272: SHEF_SHREJ_KIND (register REC_REJ). -/
def SHEF_SHREJ_KIND : Fld := ⟨.shef, 0x0A4, 0, 25, 24⟩
/-- R272: SHEF_SHREJ_CODE (register REC_REJ). -/
def SHEF_SHREJ_CODE : Fld := ⟨.shef, 0x0A4, 0, 23, 16⟩
/-- R272: SHEF_SHREJ_TAG (register REC_REJ). -/
def SHEF_SHREJ_TAG : Fld := ⟨.shef, 0x0A4, 0, 15, 0⟩
/-- R272: SHEF_LINE_SEL (register LINE_SEL). -/
def SHEF_LINE_SEL : Fld := ⟨.shef, 0x0A8, 0, 9, 0⟩
/-- R272: SHEF_LINE_VALID (register LINE_DATA). -/
def SHEF_LINE_VALID : Fld := ⟨.shef, 0x0AC, 0, 31, 31⟩
/-- R272: SHEF_LINE_PENDING (register LINE_DATA). -/
def SHEF_LINE_PENDING : Fld := ⟨.shef, 0x0AC, 0, 30, 30⟩
/-- R272: SHEF_LINE_E (register LINE_DATA). -/
def SHEF_LINE_E : Fld := ⟨.shef, 0x0AC, 0, 15, 0⟩
/-- R272: SHEF_SHCNT (register CNT). -/
def SHEF_SHCNT : Fld := ⟨.shef, 0x0B0, 4, 31, 0⟩
/-- R320: HBMC_CAPACITY (register CAPACITY). -/
def HBMC_CAPACITY : Fld := ⟨.hbmc, 0x040, 0, 47, 0⟩
/-- R320: HBMC_ZR_BLOCKS (register ZERO_RANGE). -/
def HBMC_ZR_BLOCKS : Fld := ⟨.hbmc, 0x048, 0, 47, 24⟩
/-- R320: HBMC_ZR_BASE (register ZERO_RANGE). -/
def HBMC_ZR_BASE : Fld := ⟨.hbmc, 0x048, 0, 23, 0⟩
/-- R320: HBMC_ZERO_BUSY (register ZERO_STS). -/
def HBMC_ZERO_BUSY : Fld := ⟨.hbmc, 0x050, 0, 31, 31⟩
/-- R320: HBMC_ZERO_REMAIN (register ZERO_STS). -/
def HBMC_ZERO_REMAIN : Fld := ⟨.hbmc, 0x050, 0, 23, 0⟩
/-- R320: HBMC_PF_LEVEL (register PF_LEVEL). -/
def HBMC_PF_LEVEL : Fld := ⟨.hbmc, 0x054, 0, 8, 0⟩
/-- R320: HBMC_PF_RUNNING (register PF_RUNNING). -/
def HBMC_PF_RUNNING : Fld := ⟨.hbmc, 0x058, 0, 5, 0⟩
/-- R320: HBMC_HCNT (register CNT). -/
def HBMC_HCNT : Fld := ⟨.hbmc, 0x05C, 4, 31, 0⟩
/-- R320: HBMC_WF_VALID (register WF). -/
def HBMC_WF_VALID : Fld := ⟨.hbmc, 0x100, 8, 63, 63⟩
/-- R320: HBMC_WF_BLOCKS (register WF). -/
def HBMC_WF_BLOCKS : Fld := ⟨.hbmc, 0x100, 8, 47, 24⟩
/-- R320: HBMC_WF_BASE (register WF). -/
def HBMC_WF_BASE : Fld := ⟨.hbmc, 0x100, 8, 23, 0⟩
/-- R320: OPTB_OPT_BASE (register BASE). -/
def OPTB_OPT_BASE : Fld := ⟨.optb, 0x040, 0, 47, 0⟩
/-- R320: OPTB_OPT_EN (register CTL). -/
def OPTB_OPT_EN : Fld := ⟨.optb, 0x048, 0, 31, 31⟩
/-- R320: OPTB_OPT_USED (register USED). -/
def OPTB_OPT_USED : Fld := ⟨.optb, 0x04C, 0, 16, 0⟩
/-- R320: OPTB_OPT_MOVING (register MOVING). -/
def OPTB_OPT_MOVING : Fld := ⟨.optb, 0x050, 0, 6, 0⟩
/-- R320: OPTB_OPT_W (register CMD_W). -/
def OPTB_OPT_W : Fld := ⟨.optb, 0x060, 4, 31, 0⟩
/-- R320: OPTB_OPT_POST (register CMD_POST). -/
def OPTB_OPT_POST : Fld := ⟨.optb, 0x0A0, 0, 0, 0⟩
/-- R320: OPTB_OREJ_VALID (register REC_REJ). -/
def OPTB_OREJ_VALID : Fld := ⟨.optb, 0x0A4, 0, 31, 31⟩
/-- R320: OPTB_OREJ_CODE (register REC_REJ). -/
def OPTB_OREJ_CODE : Fld := ⟨.optb, 0x0A4, 0, 23, 16⟩
/-- R320: OPTB_OREJ_TYPE (register REC_REJ). -/
def OPTB_OREJ_TYPE : Fld := ⟨.optb, 0x0A4, 0, 7, 0⟩
/-- R320: OPTB_OCNT (register CNT). -/
def OPTB_OCNT : Fld := ⟨.optb, 0x0A8, 4, 31, 0⟩
/-- R320: PEER_PEER_MODE (register MODE). -/
def PEER_PEER_MODE : Fld := ⟨.peer, 0x040, 0, 0, 0⟩
/-- R320: PEER_CNT_DENIED (register CNT_DENIED). -/
def PEER_CNT_DENIED : Fld := ⟨.peer, 0x044, 0, 31, 0⟩
/-- R320: PEER_DENIED_NODE (register DENIED_NODE). -/
def PEER_DENIED_NODE : Fld := ⟨.peer, 0x048, 0, 13, 0⟩
/-- R320: PEER_LW_BASE (register LW_BASE). -/
def PEER_LW_BASE : Fld := ⟨.peer, 0x100, 16, 47, 0⟩
/-- R320: PEER_LW_EN (register LW_CTL). -/
def PEER_LW_EN : Fld := ⟨.peer, 0x108, 16, 31, 31⟩
/-- R320: PEER_LW_WRITE_OK (register LW_CTL). -/
def PEER_LW_WRITE_OK : Fld := ⟨.peer, 0x108, 16, 15, 15⟩
/-- R320: PEER_LW_BORROWER (register LW_CTL). -/
def PEER_LW_BORROWER : Fld := ⟨.peer, 0x108, 16, 13, 0⟩
/-- R320: PEER_LW_SIZE (register LW_SIZE). -/
def PEER_LW_SIZE : Fld := ⟨.peer, 0x10C, 16, 14, 0⟩
/-- R320: FLSH_SLC_STATE (register REGION_STS). -/
def FLSH_SLC_STATE : Fld := ⟨.flsh, 0x040, 0, 3, 2⟩
/-- R320: FLSH_BULK_STATE (register REGION_STS). -/
def FLSH_BULK_STATE : Fld := ⟨.flsh, 0x040, 0, 1, 0⟩
/-- R320: FLSH_RD_LIMIT_TLC (register RD_LIMIT_TLC). -/
def FLSH_RD_LIMIT_TLC : Fld := ⟨.flsh, 0x044, 0, 23, 0⟩
/-- R320: FLSH_RD_LIMIT_SLC (register RD_LIMIT_SLC). -/
def FLSH_RD_LIMIT_SLC : Fld := ⟨.flsh, 0x048, 0, 23, 0⟩
/-- R320: FLSH_WEAR_SPREAD (register WEAR_SPREAD). -/
def FLSH_WEAR_SPREAD : Fld := ⟨.flsh, 0x04C, 0, 12, 0⟩
/-- R320: FLSH_ERASE_MAX (register ERASE_MAX). -/
def FLSH_ERASE_MAX : Fld := ⟨.flsh, 0x050, 0, 15, 0⟩
/-- R320: FLSH_ERASE_MIN (register ERASE_MIN). -/
def FLSH_ERASE_MIN : Fld := ⟨.flsh, 0x054, 0, 15, 0⟩
/-- R320: FLSH_SPARE_PCT (register SPARE_PCT). -/
def FLSH_SPARE_PCT : Fld := ⟨.flsh, 0x058, 0, 15, 0⟩
/-- R320: FLSH_WBUF_MIB (register WBUF_MIB). -/
def FLSH_WBUF_MIB : Fld := ⟨.flsh, 0x05C, 0, 6, 0⟩
/-- R320: FLSH_PLF_VALID (register PLF). -/
def FLSH_PLF_VALID : Fld := ⟨.flsh, 0x060, 0, 31, 31⟩
/-- R320: FLSH_PLF_COMPLETE (register PLF). -/
def FLSH_PLF_COMPLETE : Fld := ⟨.flsh, 0x060, 0, 30, 30⟩
/-- R320: FLSH_PLF_US (register PLF). -/
def FLSH_PLF_US : Fld := ⟨.flsh, 0x060, 0, 15, 0⟩
/-- R320: FLSH_FCNT (register CNT). -/
def FLSH_FCNT : Fld := ⟨.flsh, 0x064, 4, 31, 0⟩
/-- R340: INTG_PSTS_CLR (register CTL). -/
def INTG_PSTS_CLR : Fld := ⟨.intg, 0x040, 0, 1, 1⟩
/-- R340: INTG_PATROL_EN (register CTL). -/
def INTG_PATROL_EN : Fld := ⟨.intg, 0x040, 0, 0, 0⟩
/-- R340: INTG_PATROL_PERIOD (register PATROL_PERIOD). -/
def INTG_PATROL_PERIOD : Fld := ⟨.intg, 0x044, 0, 13, 0⟩
/-- R340: INTG_PATROL_PASSES (register PATROL_PASSES). -/
def INTG_PATROL_PASSES : Fld := ⟨.intg, 0x048, 0, 31, 0⟩
/-- R340: INTG_FLIP_ARMED (register FLIP_CTL). -/
def INTG_FLIP_ARMED : Fld := ⟨.intg, 0x04C, 0, 31, 31⟩
/-- R340: INTG_FLIP_ARM (register FLIP_CTL). -/
def INTG_FLIP_ARM : Fld := ⟨.intg, 0x04C, 0, 4, 4⟩
/-- R340: INTG_FLIP_TGT (register FLIP_CTL). -/
def INTG_FLIP_TGT : Fld := ⟨.intg, 0x04C, 0, 3, 0⟩
/-- R340: INTG_FLIP_LO (register FLIP_LO). -/
def INTG_FLIP_LO : Fld := ⟨.intg, 0x050, 0, 63, 0⟩
/-- R340: INTG_FLIP_HI (register FLIP_HI). -/
def INTG_FLIP_HI : Fld := ⟨.intg, 0x058, 0, 7, 0⟩
/-- R340: INTG_SCRUB_BASE (register SCRUB_BASE). -/
def INTG_SCRUB_BASE : Fld := ⟨.intg, 0x060, 0, 47, 0⟩
/-- R340: INTG_SCRUB_LEN (register SCRUB_LEN). -/
def INTG_SCRUB_LEN : Fld := ⟨.intg, 0x068, 0, 40, 0⟩
/-- R340: INTG_SCRUB_DONE (register SCRUB_DONE). -/
def INTG_SCRUB_DONE : Fld := ⟨.intg, 0x070, 0, 63, 0⟩
/-- R340: INTG_SCRUB_BUSY (register SCRUB_CTL). -/
def INTG_SCRUB_BUSY : Fld := ⟨.intg, 0x078, 0, 31, 31⟩
/-- R340: INTG_SCRUB_EVT (register SCRUB_CTL). -/
def INTG_SCRUB_EVT : Fld := ⟨.intg, 0x078, 0, 5, 5⟩
/-- R340: INTG_SCRUB_GO (register SCRUB_CTL). -/
def INTG_SCRUB_GO : Fld := ⟨.intg, 0x078, 0, 4, 4⟩
/-- R340: INTG_SCRUB_TGT (register SCRUB_CTL). -/
def INTG_SCRUB_TGT : Fld := ⟨.intg, 0x078, 0, 3, 0⟩
/-- R340: INTG_SUM_WORDS (register SUM_WORDS). -/
def INTG_SUM_WORDS : Fld := ⟨.intg, 0x080, 0, 63, 0⟩
/-- R340: INTG_SUM_FIRST (register SUM_FIRST). -/
def INTG_SUM_FIRST : Fld := ⟨.intg, 0x088, 0, 63, 0⟩
/-- R340: INTG_SUM_LAST (register SUM_LAST). -/
def INTG_SUM_LAST : Fld := ⟨.intg, 0x090, 0, 63, 0⟩
/-- R340: INTG_SUM (register SUM). -/
def INTG_SUM : Fld := ⟨.intg, 0x098, 4, 31, 0⟩
/-- R340: INTG_ICNT (register CNT). -/
def INTG_ICNT : Fld := ⟨.intg, 0x0A8, 4, 31, 0⟩
/-- R340: INTG_PPR_LEFT (register REMAP_STS). -/
def INTG_PPR_LEFT : Fld := ⟨.intg, 0x0BC, 0, 23, 8⟩
/-- R340: INTG_REMAP_USED (register REMAP_STS). -/
def INTG_REMAP_USED : Fld := ⟨.intg, 0x0BC, 0, 5, 0⟩
/-- R340: INTG_LOG_HEAD (register LOG_HEAD). -/
def INTG_LOG_HEAD : Fld := ⟨.intg, 0x0C0, 0, 31, 0⟩
/-- R340: INTG_LOG (register LOG). -/
def INTG_LOG : Fld := ⟨.intg, 0x100, 8, 63, 0⟩
/-- R340: INTG_REMAP_VALID (register REMAP). -/
def INTG_REMAP_VALID : Fld := ⟨.intg, 0x200, 8, 63, 63⟩
/-- R340: INTG_REMAP_ADDR (register REMAP). -/
def INTG_REMAP_ADDR : Fld := ⟨.intg, 0x200, 8, 47, 0⟩
/-- R367: LINK_NODE_SPARE (register NODE). -/
def LINK_NODE_SPARE : Fld := ⟨.link, 0x040, 0, 31, 31⟩
/-- R367: LINK_NODE_ID (register NODE). -/
def LINK_NODE_ID : Fld := ⟨.link, 0x040, 0, 13, 0⟩
/-- R367: LINK_HOME_ID (register HOME). -/
def LINK_HOME_ID : Fld := ⟨.link, 0x044, 0, 13, 0⟩
/-- R367: LINK_TMODE (register TOPO). -/
def LINK_TMODE : Fld := ⟨.link, 0x048, 0, 1, 0⟩
/-- R367: LINK_NS (register TOPO). -/
def LINK_NS : Fld := ⟨.link, 0x048, 0, 21, 16⟩
/-- R367: LINK_NF (register TOPO). -/
def LINK_NF : Fld := ⟨.link, 0x048, 0, 28, 24⟩
/-- R367: LINK_ASSUME_RELEASE (register ASSUME). -/
def LINK_ASSUME_RELEASE : Fld := ⟨.link, 0x050, 0, 63, 63⟩
/-- R367: LINK_ASSUME_TARGET (register ASSUME). -/
def LINK_ASSUME_TARGET : Fld := ⟨.link, 0x050, 0, 61, 48⟩
/-- R367: LINK_ASSUME_H (register ASSUME). -/
def LINK_ASSUME_H : Fld := ⟨.link, 0x050, 0, 47, 0⟩
/-- R367: LINK_LDCNT (register DCNT). -/
def LINK_LDCNT : Fld := ⟨.link, 0x058, 4, 31, 0⟩
/-- R367: LINK_LSTATE (register STS). -/
def LINK_LSTATE : Fld := ⟨.link, 0x100, 0, 2, 0⟩
/-- R367: LINK_LROLE (register STS). -/
def LINK_LROLE : Fld := ⟨.link, 0x100, 0, 6, 4⟩
/-- R367: LINK_LANES (register STS). -/
def LINK_LANES : Fld := ⟨.link, 0x100, 0, 12, 8⟩
/-- R367: LINK_DEGRADED (register STS). -/
def LINK_DEGRADED : Fld := ⟨.link, 0x100, 0, 13, 13⟩
/-- R367: LINK_RETRAINING (register STS). -/
def LINK_RETRAINING : Fld := ⟨.link, 0x100, 0, 14, 14⟩
/-- R367: LINK_LANE (register STS). -/
def LINK_LANE : Fld := ⟨.link, 0x100, 0, 19, 16⟩
/-- R367: LINK_FAR_VALID (register FAR). -/
def LINK_FAR_VALID : Fld := ⟨.link, 0x104, 0, 31, 31⟩
/-- R367: LINK_FAR_LINK (register FAR). -/
def LINK_FAR_LINK : Fld := ⟨.link, 0x104, 0, 21, 16⟩
/-- R367: LINK_FAR_NODE (register FAR). -/
def LINK_FAR_NODE : Fld := ⟨.link, 0x104, 0, 13, 0⟩
/-- R367: LINK_LDELAY (register DELAY). -/
def LINK_LDELAY : Fld := ⟨.link, 0x108, 0, 31, 0⟩
/-- R367: LINK_LLOOP (register LOOP). -/
def LINK_LLOOP : Fld := ⟨.link, 0x10C, 0, 31, 0⟩
/-- R367: LINK_RATE_CAP (register RATE_CAP). -/
def LINK_RATE_CAP : Fld := ⟨.link, 0x110, 0, 15, 0⟩
/-- R367: LINK_LRETRAIN (register CTL). -/
def LINK_LRETRAIN : Fld := ⟨.link, 0x114, 0, 2, 2⟩
/-- R367: LINK_LADMIT (register CTL). -/
def LINK_LADMIT : Fld := ⟨.link, 0x114, 0, 1, 1⟩
/-- R367: LINK_LDISABLE (register CTL). -/
def LINK_LDISABLE : Fld := ⟨.link, 0x114, 0, 0, 0⟩
/-- R367: LINK_LCNT (register CNT). -/
def LINK_LCNT : Fld := ⟨.link, 0x118, 4, 31, 0⟩
/-- R404: ENET_MAC (register MAC). -/
def ENET_MAC : Fld := ⟨.enet, 0x040, 0, 47, 0⟩
/-- R404: ENET_LINK_UP (register STS). -/
def ENET_LINK_UP : Fld := ⟨.enet, 0x048, 0, 0, 0⟩
/-- R404: ENET_PTP_LOCKED (register STS). -/
def ENET_PTP_LOCKED : Fld := ⟨.enet, 0x048, 0, 1, 1⟩
/-- R404: ENET_IP4 (register IP4). -/
def ENET_IP4 : Fld := ⟨.enet, 0x04C, 0, 31, 0⟩
/-- R404: ENET_IP6_HI (register IP6_HI). -/
def ENET_IP6_HI : Fld := ⟨.enet, 0x050, 0, 63, 0⟩
/-- R404: ENET_IP6_LO (register IP6_LO). -/
def ENET_IP6_LO : Fld := ⟨.enet, 0x058, 0, 63, 0⟩
/-- R404: ENET_VLAN_EN (register VLAN). -/
def ENET_VLAN_EN : Fld := ⟨.enet, 0x060, 0, 12, 12⟩
/-- R404: ENET_VLAN_ID (register VLAN). -/
def ENET_VLAN_ID : Fld := ⟨.enet, 0x060, 0, 11, 0⟩
/-- R404: ENET_MTU (register MTU). -/
def ENET_MTU : Fld := ⟨.enet, 0x064, 0, 13, 0⟩
/-- R404: ENET_SLQ_PRIO (register PRIO). -/
def ENET_SLQ_PRIO : Fld := ⟨.enet, 0x068, 0, 14, 12⟩
/-- R404: ENET_ROCE_PRIO (register PRIO). -/
def ENET_ROCE_PRIO : Fld := ⟨.enet, 0x068, 0, 10, 8⟩
/-- R404: ENET_PFC_EN (register PRIO). -/
def ENET_PFC_EN : Fld := ⟨.enet, 0x068, 0, 7, 0⟩
/-- R404: ENET_CNP_MIN_US (register CNP_MIN_US). -/
def ENET_CNP_MIN_US : Fld := ⟨.enet, 0x06C, 0, 15, 0⟩
/-- R404: ENET_PTP_DOMAIN (register PTP_DOMAIN). -/
def ENET_PTP_DOMAIN : Fld := ⟨.enet, 0x070, 0, 7, 0⟩
/-- R404: ENET_PTP_OFFSET (register PTP_OFFSET). -/
def ENET_PTP_OFFSET : Fld := ⟨.enet, 0x078, 0, 63, 0⟩
/-- R404: ENET_CTX_W (register CTX_W). -/
def ENET_CTX_W : Fld := ⟨.enet, 0x080, 4, 31, 0⟩
/-- R404: ENET_CTX_GO (register CTX_CMD). -/
def ENET_CTX_GO : Fld := ⟨.enet, 0x0C0, 0, 31, 31⟩
/-- R404: ENET_CTX_LOAD (register CTX_CMD). -/
def ENET_CTX_LOAD : Fld := ⟨.enet, 0x0C0, 0, 30, 30⟩
/-- R404: ENET_CTX_KIND (register CTX_CMD). -/
def ENET_CTX_KIND : Fld := ⟨.enet, 0x0C0, 0, 16, 16⟩
/-- R404: ENET_CTX_INDEX (register CTX_CMD). -/
def ENET_CTX_INDEX : Fld := ⟨.enet, 0x0C0, 0, 7, 0⟩
/-- R404: ENET_ECNT (register CNT). -/
def ENET_ECNT : Fld := ⟨.enet, 0x0C4, 4, 31, 0⟩
/-- R405: SLQP_SESSIONS (register SESSIONS). -/
def SLQP_SESSIONS : Fld := ⟨.slqp, 0x040, 0, 4, 0⟩
/-- R405: SLQP_SESSION_IDLE (register SESSION_IDLE). -/
def SLQP_SESSION_IDLE : Fld := ⟨.slqp, 0x044, 0, 31, 0⟩
/-- R405: SLQP_EXEC_LIMIT (register EXEC_LIMIT). -/
def SLQP_EXEC_LIMIT : Fld := ⟨.slqp, 0x048, 0, 31, 0⟩
/-- R405: SLQP_EVT_DEST_IP (register EVT_DEST_IP). -/
def SLQP_EVT_DEST_IP : Fld := ⟨.slqp, 0x050, 8, 63, 0⟩
/-- R405: SLQP_SEVT_EN (register EVT_CTL). -/
def SLQP_SEVT_EN : Fld := ⟨.slqp, 0x060, 0, 31, 31⟩
/-- R405: SLQP_EVT_PORT (register EVT_CTL). -/
def SLQP_EVT_PORT : Fld := ⟨.slqp, 0x060, 0, 15, 0⟩
/-- R405: SLQP_EVT_RETRY (register EVT_RETRY). -/
def SLQP_EVT_RETRY : Fld := ⟨.slqp, 0x064, 0, 16, 0⟩
/-- R405: SLQP_EVT_OUTSTANDING (register EVT_OUTSTANDING). -/
def SLQP_EVT_OUTSTANDING : Fld := ⟨.slqp, 0x068, 0, 8, 0⟩
/-- R405: SLQP_TEL_IP (register TEL_IP). -/
def SLQP_TEL_IP : Fld := ⟨.slqp, 0x070, 8, 63, 0⟩
/-- R405: SLQP_TEL_EN (register TEL_CTL). -/
def SLQP_TEL_EN : Fld := ⟨.slqp, 0x080, 0, 31, 31⟩
/-- R405: SLQP_TEL_PORT (register TEL_CTL). -/
def SLQP_TEL_PORT : Fld := ⟨.slqp, 0x080, 0, 15, 0⟩
/-- R405: SLQP_QCNT (register CNT). -/
def SLQP_QCNT : Fld := ⟨.slqp, 0x084, 4, 31, 0⟩
/-- R405: SLQP_LAST_COUNTER (register LAST_COUNTER). -/
def SLQP_LAST_COUNTER : Fld := ⟨.slqp, 0x0B0, 8, 63, 0⟩
/-- R405: SLQP_ALLOW_HI (register ALLOW_HI). -/
def SLQP_ALLOW_HI : Fld := ⟨.slqp, 0x100, 32, 63, 0⟩
/-- R405: SLQP_ALLOW_LO (register ALLOW_LO). -/
def SLQP_ALLOW_LO : Fld := ⟨.slqp, 0x108, 32, 63, 0⟩
/-- R405: SLQP_CMD_OK (register ALLOW_CTL). -/
def SLQP_CMD_OK : Fld := ⟨.slqp, 0x110, 32, 9, 9⟩
/-- R405: SLQP_ALLOW_EN (register ALLOW_CTL). -/
def SLQP_ALLOW_EN : Fld := ⟨.slqp, 0x110, 32, 8, 8⟩
/-- R405: SLQP_PLEN (register ALLOW_CTL). -/
def SLQP_PLEN : Fld := ⟨.slqp, 0x110, 32, 7, 0⟩
/-- R426: COLO_SERIAL (register SERIAL). -/
def COLO_SERIAL : Fld := ⟨.colo, 0x040, 8, 63, 0⟩
/-- R426: COLO_OWNER_STATE (register OWNER). -/
def COLO_OWNER_STATE : Fld := ⟨.colo, 0x050, 0, 0, 0⟩
/-- R426: COLO_OWNER_GEN (register OWNER_GEN). -/
def COLO_OWNER_GEN : Fld := ⟨.colo, 0x054, 0, 31, 0⟩
/-- R426: COLO_KEYS (register KEYS). -/
def COLO_KEYS : Fld := ⟨.colo, 0x058, 0, 3, 0⟩
/-- R426: COLO_DEBUG (register ID_STS). -/
def COLO_DEBUG : Fld := ⟨.colo, 0x05C, 0, 3, 2⟩
/-- R426: COLO_FALLBACK (register ID_STS). -/
def COLO_FALLBACK : Fld := ⟨.colo, 0x05C, 0, 1, 1⟩
/-- R426: COLO_IDENTITY_OK (register ID_STS). -/
def COLO_IDENTITY_OK : Fld := ⟨.colo, 0x05C, 0, 0, 0⟩
/-- R426: COLO_COLO_BUSY (register OP). -/
def COLO_COLO_BUSY : Fld := ⟨.colo, 0x060, 0, 31, 31⟩
/-- R426: COLO_ENROL_GO (register OP). -/
def COLO_ENROL_GO : Fld := ⟨.colo, 0x060, 0, 9, 9⟩
/-- R426: COLO_COLO_GO (register OP). -/
def COLO_COLO_GO : Fld := ⟨.colo, 0x060, 0, 8, 8⟩
/-- R426: COLO_OP_CODE (register OP). -/
def COLO_OP_CODE : Fld := ⟨.colo, 0x060, 0, 1, 0⟩
/-- R426: COLO_CERT_OFS (register CERT_OFS). -/
def COLO_CERT_OFS : Fld := ⟨.colo, 0x064, 0, 15, 0⟩
/-- R426: COLO_CERT_LEN (register CERT_LEN). -/
def COLO_CERT_LEN : Fld := ⟨.colo, 0x068, 0, 15, 0⟩
/-- R426: COLO_ENROL_ADDR (register ENROL_ADDR). -/
def COLO_ENROL_ADDR : Fld := ⟨.colo, 0x070, 0, 47, 0⟩
/-- R426: COLO_QUOTE_DONE (register QUOTE_DONE). -/
def COLO_QUOTE_DONE : Fld := ⟨.colo, 0x078, 0, 63, 0⟩
/-- R426: COLO_NONCE (register NONCE). -/
def COLO_NONCE : Fld := ⟨.colo, 0x080, 8, 63, 0⟩
/-- R426: COLO_MSLOT (register SLOT). -/
def COLO_MSLOT : Fld := ⟨.colo, 0x100, 8, 63, 0⟩
/-- R426: COLO_FLOOR (register FLOOR). -/
def COLO_FLOOR : Fld := ⟨.colo, 0x300, 4, 31, 0⟩
/-- R426: COLO_RUNNING (register RUNNING). -/
def COLO_RUNNING : Fld := ⟨.colo, 0x320, 4, 31, 0⟩
/-- R426: COLO_FW_CMD (register FW_CMD). -/
def COLO_FW_CMD : Fld := ⟨.colo, 0x340, 8, 63, 0⟩
/-- R426: COLO_KEY_CMD (register KEY_CMD). -/
def COLO_KEY_CMD : Fld := ⟨.colo, 0x358, 8, 63, 0⟩
/-- R426: COLO_DEBUG_CMD (register DEBUG_CMD). -/
def COLO_DEBUG_CMD : Fld := ⟨.colo, 0x368, 0, 63, 0⟩
/-- R426: COLO_OUTBUF (register OUTBUF). -/
def COLO_OUTBUF : Fld := ⟨.colo, 0x800, 4, 31, 0⟩
/-- R427: CONF_DCI_VALID (register DCI_STS). -/
def CONF_DCI_VALID : Fld := ⟨.conf, 0x040, 0, 31, 31⟩
/-- R427: CONF_DCI_CODE (register DCI_STS). -/
def CONF_DCI_CODE : Fld := ⟨.conf, 0x040, 0, 23, 16⟩
/-- R427: CONF_DCI_CLAMPS (register DCI_STS). -/
def CONF_DCI_CLAMPS : Fld := ⟨.conf, 0x040, 0, 15, 0⟩
/-- R427: CONF_DCI_SEQ (register DCI_SEQ). -/
def CONF_DCI_SEQ : Fld := ⟨.conf, 0x044, 0, 31, 0⟩
/-- R427: CONF_JCI_ADDR (register JCI_ADDR). -/
def CONF_JCI_ADDR : Fld := ⟨.conf, 0x048, 0, 47, 0⟩
/-- R427: CONF_JCI_LEN (register JCI_LEN). -/
def CONF_JCI_LEN : Fld := ⟨.conf, 0x050, 0, 16, 0⟩
/-- R427: CONF_JCI_BUSY (register JCI_CTL). -/
def CONF_JCI_BUSY : Fld := ⟨.conf, 0x054, 0, 31, 31⟩
/-- R427: CONF_JCI_GO (register JCI_CTL). -/
def CONF_JCI_GO : Fld := ⟨.conf, 0x054, 0, 0, 0⟩
/-- R427: CONF_REPORT_ADDR (register REPORT_ADDR). -/
def CONF_REPORT_ADDR : Fld := ⟨.conf, 0x058, 0, 47, 0⟩
/-- R427: CONF_REPORT_MAX (register REPORT_MAX). -/
def CONF_REPORT_MAX : Fld := ⟨.conf, 0x060, 0, 12, 0⟩
/-- R427: CONF_JCI_VALID (register JCI_STS). -/
def CONF_JCI_VALID : Fld := ⟨.conf, 0x064, 0, 31, 31⟩
/-- R427: CONF_JCI_CODE (register JCI_STS). -/
def CONF_JCI_CODE : Fld := ⟨.conf, 0x064, 0, 23, 16⟩
/-- R427: CONF_JCI_CLAMPS (register JCI_STS). -/
def CONF_JCI_CLAMPS : Fld := ⟨.conf, 0x064, 0, 15, 0⟩
/-- R427: CONF_JCI_SEQ (register JCI_SEQ). -/
def CONF_JCI_SEQ : Fld := ⟨.conf, 0x068, 0, 63, 0⟩
/-- R427: CONF_JOB_SEED (register JOB_SEED). -/
def CONF_JOB_SEED : Fld := ⟨.conf, 0x070, 0, 63, 0⟩
/-- R427: CONF_JCI_DONE (register JCI_DONE). -/
def CONF_JCI_DONE : Fld := ⟨.conf, 0x078, 0, 63, 0⟩
/-- R427: CONF_DCI_REPORT (register DCI_REPORT). -/
def CONF_DCI_REPORT : Fld := ⟨.conf, 0x400, 8, 63, 0⟩
/-- R439: HLTH_COND (register LEVEL). -/
def HLTH_COND : Fld := ⟨.hlth, 0x040, 0, 13, 8⟩
/-- R439: HLTH_LEVEL (register LEVEL). -/
def HLTH_LEVEL : Fld := ⟨.hlth, 0x040, 0, 1, 0⟩
/-- R439: HLTH_C_LINKS (register COUNTS). -/
def HLTH_C_LINKS : Fld := ⟨.hlth, 0x044, 0, 25, 20⟩
/-- R439: HLTH_C_LINK_DIES (register COUNTS). -/
def HLTH_C_LINK_DIES : Fld := ⟨.hlth, 0x044, 0, 19, 16⟩
/-- R439: HLTH_C_UE (register COUNTS). -/
def HLTH_C_UE : Fld := ⟨.hlth, 0x044, 0, 15, 12⟩
/-- R439: HLTH_C_HBM (register COUNTS). -/
def HLTH_C_HBM : Fld := ⟨.hlth, 0x044, 0, 11, 8⟩
/-- R439: HLTH_C_TILES (register COUNTS). -/
def HLTH_C_TILES : Fld := ⟨.hlth, 0x044, 0, 7, 0⟩
/-- R439: HLTH_C_SUSPECT (register MARKS). -/
def HLTH_C_SUSPECT : Fld := ⟨.hlth, 0x048, 0, 23, 16⟩
/-- R439: HLTH_C_QUAR (register MARKS). -/
def HLTH_C_QUAR : Fld := ⟨.hlth, 0x048, 0, 15, 8⟩
/-- R439: HLTH_SPARE_CD1 (register MARKS). -/
def HLTH_SPARE_CD1 : Fld := ⟨.hlth, 0x048, 0, 7, 4⟩
/-- R439: HLTH_SPARE_CD0 (register MARKS). -/
def HLTH_SPARE_CD0 : Fld := ⟨.hlth, 0x048, 0, 3, 0⟩
/-- R439: HLTH_LREC_VALID (register LVL_REC). -/
def HLTH_LREC_VALID : Fld := ⟨.hlth, 0x04C, 0, 31, 31⟩
/-- R439: HLTH_LREC_OLD (register LVL_REC). -/
def HLTH_LREC_OLD : Fld := ⟨.hlth, 0x04C, 0, 29, 28⟩
/-- R439: HLTH_LREC_NEW (register LVL_REC). -/
def HLTH_LREC_NEW : Fld := ⟨.hlth, 0x04C, 0, 27, 26⟩
/-- R439: HLTH_LREC_COND (register LVL_REC). -/
def HLTH_LREC_COND : Fld := ⟨.hlth, 0x04C, 0, 13, 8⟩
/-- R439: HLTH_LVL_AT (register LVL_AT). -/
def HLTH_LVL_AT : Fld := ⟨.hlth, 0x050, 0, 63, 0⟩
/-- R439: HLTH_RET_TILE (register RET_TILE). -/
def HLTH_RET_TILE : Fld := ⟨.hlth, 0x060, 4, 31, 0⟩
/-- R439: HLTH_RET_SOLV (register RET_SOLV). -/
def HLTH_RET_SOLV : Fld := ⟨.hlth, 0x074, 0, 15, 0⟩
/-- R439: HLTH_RET_UE (register RET_UE). -/
def HLTH_RET_UE : Fld := ⟨.hlth, 0x078, 0, 11, 0⟩
/-- R439: HLTH_RET_LINKDIE (register RET_LINKDIE). -/
def HLTH_RET_LINKDIE : Fld := ⟨.hlth, 0x07C, 0, 11, 0⟩
/-- R439: HLTH_PREC_VALID (register PROOF_REC). -/
def HLTH_PREC_VALID : Fld := ⟨.hlth, 0x080, 0, 31, 31⟩
/-- R439: HLTH_PREC_UNIT (register PROOF_REC). -/
def HLTH_PREC_UNIT : Fld := ⟨.hlth, 0x080, 0, 25, 24⟩
/-- R439: HLTH_PREC_PHASE (register PROOF_REC). -/
def HLTH_PREC_PHASE : Fld := ⟨.hlth, 0x080, 0, 21, 20⟩
/-- R439: HLTH_PREC_STAGE (register PROOF_REC). -/
def HLTH_PREC_STAGE : Fld := ⟨.hlth, 0x080, 0, 17, 16⟩
/-- R439: HLTH_PREC_INDEX (register PROOF_REC). -/
def HLTH_PREC_INDEX : Fld := ⟨.hlth, 0x080, 0, 15, 0⟩
/-- R439: HLTH_PROOF_AT (register PROOF_AT). -/
def HLTH_PROOF_AT : Fld := ⟨.hlth, 0x088, 0, 63, 0⟩
/-- R439: HLTH_CREC_VALID (register CONS_REC). -/
def HLTH_CREC_VALID : Fld := ⟨.hlth, 0x090, 0, 31, 31⟩
/-- R439: HLTH_CREC_LOC (register CONS_REC). -/
def HLTH_CREC_LOC : Fld := ⟨.hlth, 0x090, 0, 28, 24⟩
/-- R439: HLTH_CREC_PAGE (register CONS_REC). -/
def HLTH_CREC_PAGE : Fld := ⟨.hlth, 0x090, 0, 11, 0⟩
/-- R439: HLTH_CONS_AT (register CONS_AT). -/
def HLTH_CONS_AT : Fld := ⟨.hlth, 0x098, 0, 63, 0⟩
/-- R439: HLTH_PLOST_VALID (register PEER_LOST). -/
def HLTH_PLOST_VALID : Fld := ⟨.hlth, 0x0A0, 0, 31, 31⟩
/-- R439: HLTH_PLOST_NODE (register PEER_LOST). -/
def HLTH_PLOST_NODE : Fld := ⟨.hlth, 0x0A0, 0, 13, 0⟩
/-- R439: HLTH_HLCNT (register CNT). -/
def HLTH_HLCNT : Fld := ⟨.hlth, 0x0A8, 4, 31, 0⟩
/-- R439: HLTH_TEL_PERIOD (register TEL_PERIOD). -/
def HLTH_TEL_PERIOD : Fld := ⟨.hlth, 0x100, 0, 15, 0⟩
/-- R439: HLTH_TEL_COUNT (register TEL_COUNT). -/
def HLTH_TEL_COUNT : Fld := ⟨.hlth, 0x104, 0, 8, 0⟩
/-- R439: HLTH_TEL_SAMPLES (register TEL_SAMPLES). -/
def HLTH_TEL_SAMPLES : Fld := ⟨.hlth, 0x108, 0, 31, 0⟩
/-- R439: HLTH_TEL_WIDTH (register TEL). -/
def HLTH_TEL_WIDTH : Fld := ⟨.hlth, 0x400, 8, 32, 32⟩
/-- R439: HLTH_TEL_OFFSET (register TEL). -/
def HLTH_TEL_OFFSET : Fld := ⟨.hlth, 0x400, 8, 31, 20⟩
/-- R439: HLTH_TEL_PAGE (register TEL). -/
def HLTH_TEL_PAGE : Fld := ⟨.hlth, 0x400, 8, 19, 8⟩
/-- R439: HLTH_TEL_LOC (register TEL). -/
def HLTH_TEL_LOC : Fld := ⟨.hlth, 0x400, 8, 7, 0⟩
/-- R442: BKGD_PROOF_PERIOD (register PROOF_PERIOD). -/
def BKGD_PROOF_PERIOD : Fld := ⟨.bkgd, 0x040, 0, 10, 0⟩
/-- R442: BKGD_AUDIT_PERIOD (register AUDIT_PERIOD). -/
def BKGD_AUDIT_PERIOD : Fld := ⟨.bkgd, 0x044, 0, 13, 0⟩
/-- R442: BKGD_VF_INTERVAL (register VF_INTERVAL). -/
def BKGD_VF_INTERVAL : Fld := ⟨.bkgd, 0x048, 0, 15, 0⟩
/-- R442: BKGD_LANE_INTERVAL (register LANE_INTERVAL). -/
def BKGD_LANE_INTERVAL : Fld := ⟨.bkgd, 0x04C, 0, 13, 0⟩
/-- R442: BKGD_BK_BEHIND (register STS). -/
def BKGD_BK_BEHIND : Fld := ⟨.bkgd, 0x050, 0, 15, 8⟩
/-- R442: BKGD_BK_STEALING (register STS). -/
def BKGD_BK_STEALING : Fld := ⟨.bkgd, 0x050, 0, 7, 0⟩
/-- R442: BKGD_ACT_EN (register ACT_CTL). -/
def BKGD_ACT_EN : Fld := ⟨.bkgd, 0x100, 16, 31, 31⟩
/-- R442: BKGD_ACT_SHARE (register ACT_CTL). -/
def BKGD_ACT_SHARE : Fld := ⟨.bkgd, 0x100, 16, 23, 16⟩
/-- R442: BKGD_STEAL_MAX (register ACT_CTL). -/
def BKGD_STEAL_MAX : Fld := ⟨.bkgd, 0x100, 16, 15, 0⟩
/-- R442: BKGD_PROGRESS (register PROGRESS). -/
def BKGD_PROGRESS : Fld := ⟨.bkgd, 0x104, 16, 15, 0⟩
/-- R442: BKGD_CNT_GRANTED (register CNT_GRANTED). -/
def BKGD_CNT_GRANTED : Fld := ⟨.bkgd, 0x108, 16, 31, 0⟩
/-- R442: BKGD_CNT_STOLEN (register CNT_STOLEN). -/
def BKGD_CNT_STOLEN : Fld := ⟨.bkgd, 0x10C, 16, 31, 0⟩
/-- R459: POWR_CAP (register CAP). -/
def POWR_CAP : Fld := ⟨.powr, 0x040, 0, 10, 0⟩
/-- R459: POWR_FREQ_MAX (register FREQ_MAX). -/
def POWR_FREQ_MAX : Fld := ⟨.powr, 0x044, 0, 10, 0⟩
/-- R459: POWR_INPUT_MV (register INPUT_MV). -/
def POWR_INPUT_MV : Fld := ⟨.powr, 0x048, 0, 15, 0⟩
/-- R459: POWR_INPUT_MA (register INPUT_MA). -/
def POWR_INPUT_MA : Fld := ⟨.powr, 0x04C, 0, 15, 0⟩
/-- R459: POWR_P_AVG (register P_AVG). -/
def POWR_P_AVG : Fld := ⟨.powr, 0x050, 0, 10, 0⟩
/-- R459: POWR_LIMIT (register LIMIT). -/
def POWR_LIMIT : Fld := ⟨.powr, 0x054, 0, 4, 0⟩
/-- R459: POWR_REFCLK (register REFCLK). -/
def POWR_REFCLK : Fld := ⟨.powr, 0x058, 0, 1, 0⟩
/-- R459: POWR_MOD_ID (register MOD_ID). -/
def POWR_MOD_ID : Fld := ⟨.powr, 0x05C, 0, 3, 0⟩
/-- R459: POWR_T_MAX (register T_MAX). -/
def POWR_T_MAX : Fld := ⟨.powr, 0x060, 0, 15, 0⟩
/-- R459: POWR_T_COOLANT (register T_COOLANT). -/
def POWR_T_COOLANT : Fld := ⟨.powr, 0x064, 0, 15, 0⟩
/-- R459: POWR_PCNT (register CNT). -/
def POWR_PCNT : Fld := ⟨.powr, 0x068, 4, 31, 0⟩
/-- R459: POWR_T_SITE (register T_SITE). -/
def POWR_T_SITE : Fld := ⟨.powr, 0x100, 4, 15, 0⟩
/-- R459: PDIE_ARITH_MHZ (register ARITH_MHZ). -/
def PDIE_ARITH_MHZ : Fld := ⟨.powrDie, 0x040, 0, 10, 0⟩
/-- R459: PDIE_TARGET_MHZ (register TARGET_MHZ). -/
def PDIE_TARGET_MHZ : Fld := ⟨.powrDie, 0x044, 0, 10, 0⟩
/-- R459: PDIE_VDD_MV (register VDD_MV). -/
def PDIE_VDD_MV : Fld := ⟨.powrDie, 0x048, 0, 9, 0⟩
/-- R459: PDIE_DIE_W (register DIE_W). -/
def PDIE_DIE_W : Fld := ⟨.powrDie, 0x04C, 0, 10, 0⟩
/-- R459: PDIE_T_DIE (register T_DIE). -/
def PDIE_T_DIE : Fld := ⟨.powrDie, 0x050, 0, 15, 0⟩

/-- PAGE_CTL.EVT_EN (R30). -/
def hdrEvtEn (b : Blk) : Fld := ⟨b, 0x008, 0, 2, 2⟩
/-- PAGE_CTL.ENABLE (R30). -/
def hdrEnable (b : Blk) : Fld := ⟨b, 0x008, 0, 0, 0⟩
/-- PAGE_STS.POISONED (R31). -/
def hdrPoisoned (b : Blk) : Fld := ⟨b, 0x00C, 0, 3, 3⟩
/-- PAGE_STS.RETIRED as last evaluated (R31). -/
def hdrRetired (b : Blk) : Fld := ⟨b, 0x00C, 0, 2, 2⟩
/-- PAGE_STS.BUSY for a soft reset in progress (R49). -/
def hdrSrst (b : Blk) : Fld := ⟨b, 0x00C, 0, 0, 0⟩
/-- ERR_CODE.MULTI (R32). -/
def hdrErrMulti (b : Blk) : Fld := ⟨b, 0x010, 0, 20, 20⟩
/-- ERR_CODE.OFFSET (R32). -/
def hdrErrOffset (b : Blk) : Fld := ⟨b, 0x010, 0, 19, 8⟩
/-- ERR_CODE.CODE (R32). -/
def hdrErrCode (b : Blk) : Fld := ⟨b, 0x010, 0, 7, 0⟩
/-- ERR_CNT (R33). -/
def hdrErrCnt (b : Blk) : Fld := ⟨b, 0x014, 0, 31, 0⟩
/-- EVT_PEND (R34). -/
def hdrEvtPend (b : Blk) : Fld := ⟨b, 0x018, 0, 31, 0⟩
/-- EVT_MASK (R34). -/
def hdrEvtMask (b : Blk) : Fld := ⟨b, 0x01C, 0, 31, 0⟩

/-- The key of a field's register on page instance `idx`, its n-th repetition. -/
def fldKey (f : Fld) (idx n : Nat) : Nat := regKey f.blk idx (f.off + n * f.stride)

end Sys2Proof.Machine
end

