-- ==== Sys2Proof/Machine/State.lean ====
section
/-! DEFINITION. The state of the device as plain data: the register map, the memories with their check syndromes, and
every queue, table, mode and unit condition the spec gives the block; the primitive updates; and the state after reset. -/

namespace Sys2Proof.Machine

/-- Reasons a step can stop. No command of this block faults. -/
inductive Fault where
  /-- Raised by nobody: every command of the block has an effect or cannot occur (safe). -/
  | unreachable
deriving DecidableEq, Repr

/-- Reasons a command has no meaning. -/
inductive Refusal where
  /-- Raised by an arm of `exec` whose command is not modelled yet (safe). -/
  | notModelled (mnemonic : String)
deriving DecidableEq, Repr

/-- The builds of R1. -/
inductive Build where
  | h8l4 | h10l2 | h6l6
deriving DecidableEq, Repr

/-- What factory provisioning fixed (R413, R410): read by the device, written by nothing. -/
structure Factory where
  serial : Nat
  mac : Nat
  vendorRoot : Nat
  idModulus : Nat
  idPrivate : Nat
  cert : List Byte
  pprLeft : Nat
  /-- Whether the AES-256-GCM wrap of the identity key opens under this device's PUF key (R413). -/
  wrapOk : Bool
deriving DecidableEq, Repr

/-- A unit whose health the service rules follow (R19, R436). -/
inductive UnitId where
  | net (die : Nat) | bridge | stack (site : Nat) | linkDie (site : Nat) | tile (phys : Nat) | ue (site : Nat)
  | solv (engine : Nat)
deriving DecidableEq, Repr

/-- A unit in quarantine or under proof (R435): how far its proofs have gone. -/
structure Quar where
  unit : UnitId
  phase : Nat
deriving DecidableEq, Repr

/-- A substitution that waits for its impression boundary or copies its state (R100). -/
structure Subst where
  tile : Nat
  old : Nat
  /-- Impression edges since the retirement. -/
  edges : Nat
  /-- The spare taken, once the copy runs. -/
  spare : Option Nat
  lost : Bool
deriving DecidableEq, Repr

/-- A register access that waits for its unit (R100 step 3, R435): a write of a value, or a read. -/
structure HeldAcc where
  req : Requester
  addr : Nat
  size : Nat
  val : Option Nat
deriving DecidableEq, Repr

/-- Health and organisation of the units (R12, R19, R435, R436). -/
structure Units where
  /-- Units detected failed. -/
  failed : List UnitId
  /-- Units brought into service by their boot stage or by a later rise. -/
  up : List UnitId
  suspect : List UnitId
  quar : List Quar
  /-- Units with a proof kernel running (R434, R437). -/
  proving : List UnitId
  subst : List Subst
  /-- Which physical tile backs a slot: presented tile t is slot t, spare slot s of CD0 is 144 + s, of CD1 152 + s.
  Unlisted: the assignment after reset. -/
  backing : SMap Nat
  /-- Increments held for a tile under substitution or quarantine (R100 step 3): tile, counter, amount. -/
  heldIncs : List (Nat × Nat × Nat)
  /-- Register accesses held likewise, in order of arrival. -/
  heldAccs : List HeldAcc
  /-- Winnow messages held likewise, with the node each came from (R251). -/
  heldMsgs : List (Nat × WinnMsg)
deriving DecidableEq, Repr

/-- A schedule entry (R69). -/
structure SchedEntry where
  handle : Nat
  imp : Nat
  pt : Nat
  action : Nat
  loc : Nat
  index : Nat
  arg : Nat
deriving DecidableEq, Repr

/-- A local edge set by an accepted or issued beacon (R63). -/
structure EdgePlan where
  imp : Nat
  period : Nat
  gated : Bool
deriving DecidableEq, Repr

/-- A slot of the enabled plan (R374, R379). -/
structure PlanSlot where
  kind : Nat
  vstage : Nat
  pfEn : Bool
  pfStage : Nat
  micro : Nat
  pfPoint : Nat
deriving DecidableEq, Repr

/-- The plan as its enable read it (R373, R375); a tile mask as a number. -/
structure Plan where
  nvs : Nat
  cntBase : Nat
  bubEn : Bool
  masks : List Nat
  slots : List PlanSlot
deriving DecidableEq, Repr

/-- The configuration a master's next beacon follows, as its last issue read it (R55). -/
structure PressCfg where
  gated : Bool
  period : Nat
  gateMin : Nat
  gateMax : Nat
deriving DecidableEq, Repr

/-- The press logic's hidden state (R51 to R74). -/
structure Press where
  imp : Nat
  elapsed : Nat
  pt : Nat
  /-- An edge has occurred since reset. -/
  synced : Bool
  /-- A beacon has been accepted since reset (R66). -/
  heard : Bool
  gated : Bool
  edge : Option EdgePlan
  /-- The highest impression whose beacon was accepted and forwarded (R62). -/
  fwdImp : Option Nat
  /-- The beacon last accepted or issued, for links that train later (R62). -/
  lastBeacon : Option Beacon
  cfg : PressCfg
  /-- The master has issued the beacon of the next impression. -/
  issued : Bool
  /-- Own readiness has come to hold in this impression (R57). -/
  forced : Bool
  children : Nat
  readySent : Bool
  /-- The point is held at 65,535 after a beacon loss (R66). -/
  held : Bool
  /-- An election names this device MASTER from impression H on, not yet taken over (R65). -/
  takeover : Bool
  /-- This MASTER stops after the beacon of H - 1 (R65). -/
  retiring : Bool
  sched : List SchedEntry
  /-- The bubble table is in effect (R74: from the next edge after EN). -/
  bubOn : Bool
  /-- Open windows of the table, by index. -/
  open_ : List Nat
  plan : Option Plan
  /-- The plan's actions are in effect (R375: from the next edge after the enable). -/
  planOn : Bool
  /-- The slot of the current impression with its plan, and whether its prefetch increment is still to come (R376). -/
  slot : Option (Plan × PlanSlot)
  pfDue : Bool
deriving DecidableEq, Repr

/-- A completed operation of a queue that has not reported yet (R85). -/
structure InFlight where
  seq : Nat
  summary : Bool
  tag : Nat
  flags : Nat
  count : Nat
  value0 : Nat
  value1 : Nat
  aux : Nat
  dones : List Nat
  evt : Bool
  /-- Counters that advance at completion: register key, amount. -/
  counts : List (Nat × Nat)
  /-- Block events raised in the engine's page at completion. -/
  events : Nat
  /-- Completes as soon as it is the oldest: a NOP or an operation of length zero (R85). -/
  atOnce : Bool
  /-- Covariance slots it names (R143). -/
  slots : List Nat
  /-- What its output held before: key, bytes with their syndromes. An abandoned operation leaves partial results
  (R147, R170, R254). -/
  undo : List (Nat × List (Byte × Nat))
deriving DecidableEq, Repr

/-- One descriptor queue's hidden state (R79, R86). -/
structure Queue where
  inflight : List InFlight
  waitEdges : Nat
  /-- The descriptor at the head and the watch control block it names, as CHECK read them (R79, R174). -/
  head : List Byte
  ctl : List Byte
deriving DecidableEq, Repr

/-- What a stalled control core waits for (R93). -/
inductive CoreWait where
  | none
  | tok (rd counter thresh : Nat)
  | wfe (rd : Nat)
deriving DecidableEq, Repr

/-- A control core's architectural state (R93). -/
structure CtlCore where
  x : SMap DWord
  pc : DWord
  mtvec : DWord
  mepc : DWord
  mcause : DWord
  mtval : DWord
  mstatus : DWord
  mie : DWord
  mscratch : DWord
  wait : CoreWait
deriving DecidableEq, Repr

/-- One covariance slot's data (R140, R143): FP32 elements by index in the 128 × 128 granule, an unlisted one -0, and
whether a slice has been added. -/
structure CovSlot where
  acc : SMap Nat
  used : Bool
  /-- SAMPLES and POISONED of a slot that a COV_FLUSH with CLEAR_AFTER unbound at CHECK and has not written yet. -/
  held : Option (Nat × Bool)
deriving DecidableEq, Repr

/-- One Winnow inbox's epoch (R246 to R248). -/
structure Inbox where
  /-- Sources whose END has arrived this epoch, in order of arrival. -/
  ends : List Nat
  /-- SEQ of the RETURN in flight on this inbox. -/
  ret : Option Nat
deriving DecidableEq, Repr

/-- One physical tile's hidden state. -/
structure Tile where
  queues : List Queue
  summaries : List (List Byte)
  core : CtlCore
  cov : List CovSlot
  inbox : List Inbox
deriving DecidableEq, Repr

/-- The control core after reset (R93: mtvec is 0). -/
def CtlCore.init : CtlCore := ⟨[], 0, 0, 0, 0, 0, 0, 0, 0, .none⟩

/-- A tile after reset. -/
def Tile.init : Tile :=
  ⟨List.replicate 7 ⟨[], 0, [], []⟩, [], CtlCore.init, List.replicate 8 ⟨[], false, none⟩, List.replicate 16 ⟨[], none⟩⟩

/-- A pipeline job of an Update Engine that waits (R278): an update of a group, with the range a sheaf delivered; a fold
of a group's factor (0 A, 1 G). -/
inductive UeJob where
  | update (group : Nat) (delivered : Option (Nat × Nat))
  | fold (group factor : Nat)
deriving DecidableEq, Repr

/-- What an update in progress does: a program runs, or the update waits (R289, R290). -/
inductive UePhase where
  /-- The program runs on the vector at `elem`. -/
  | vector
  /-- A late chunk waits for its state to be read from flash. -/
  | staging
  /-- A chunk's gradient waits for a free ledger entry. -/
  | ledger
  /-- Every chunk is done. -/
  | finished
deriving DecidableEq, Repr

/-- An update in progress (R279, R280). Lane values are FP32 codes with their marks. -/
structure UeRun where
  group : Nat
  rec_ : List Byte
  prog : List Nat
  step : Nat
  phase : UePhase
  chunk : Nat
  /-- First element of the vector in the pipeline; the program counter; v0 to v31; the weight WUPD wrote. -/
  elem : Nat
  pc : Nat
  regs : List (List (Nat × Bool))
  wn : List (Nat × Bool)
  /-- What the vector writes when it leaves the pipeline: address, bytes of an element, values. -/
  outs : List (Nat × Nat × List (Nat × Bool))
  /-- An average was written for the chunk. -/
  averaged : Bool
  /-- The ledger entry being applied (R289). -/
  entry : Option Nat
  /-- A word of the chunk was written with a mark; the update has consumed a marked word. -/
  chunkMarked : Bool
  consumed : Bool
  nonfin : Nat
  clamps : Nat
  /-- The slots of the preconditioner view installed when the first vector entered (R17). -/
  pvSlots : List Nat
  /-- Which of the record's scalars s0 to s15 carry a mark. -/
  scalarMarks : List Bool
deriving DecidableEq, Repr

/-- A fold in progress (R193, R196). -/
structure FoldRun where
  group : Nat
  factor : Nat
  rec_ : List Byte
  overrun : Bool
deriving DecidableEq, Repr

/-- A verified fetch in progress (R294). -/
structure Fetch where
  rec_ : List Byte
  chunk : Nat
  /-- The chunk's digest, once its entry has reached the expected step; reads of the chunk so far. -/
  digest : Option Nat
  reads : Nat
  deadline : Option Nat
  verified : Nat
  refetches : Nat
  diverged : Nat
  firstBad : Option Nat
  /-- The worst outcome so far, as the record codes it (R295). -/
  worst : Nat
deriving DecidableEq, Repr

/-- A snapshot stream (R298, R299): the group, its record at the freeze, whether its last packet is sent. -/
structure Snap where
  group : Nat
  rec_ : List Byte
  sent : Bool
deriving DecidableEq, Repr

/-- An Update Engine's hidden state. -/
structure Ue where
  jobs : List UeJob
  run : Option UeRun
  fold : Option FoldRun
  fetches : List Fetch
  /-- Factors whose granules are withheld from SENT since an overrun (R196). -/
  overrun : List (Nat × Nat)
  /-- A freeze that waits for the running update of its group (R298). -/
  freeze : Bool
  snap : Option Snap
  /-- A failed chunk whose verifier is being read: group, chunk (R297). -/
  readback : List (Nat × Nat)
  /-- Groups to audit by command, and the next chunk to audit of the rotation: group, chunk. -/
  audits : List (Nat × Nat)
  auditAt : Nat × Nat
deriving DecidableEq, Repr

/-- An Update Engine at rest. -/
def Ue.init : Ue := ⟨[], none, none, [], [], false, none, [], [], (0, 0)⟩

/-- An FX40 matrix: rows of 40-bit integers. A symmetric or upper one holds only j ≥ i of row i. -/
abbrev FxMat := List (List Int)

/-- A GO record (R220). -/
structure SolvGo where
  noDeadline : Bool
  evt : Bool
  full : Bool
  start : Nat
  deadline : Nat
  done : Nat
deriving DecidableEq, Repr

/-- A row of a batch system (R214): columns and values of its stored entries, vectors (none: not loaded since the enable),
1/a_ii, whether the diagonal has changed since the last setup, whether a marked word fed it. -/
structure BatchRow where
  cols : List Nat
  vals : List Int
  b : Option Int
  lo : Option Int
  hi : Option Int
  dinv : Int
  changed : Bool
  marked : Bool
deriving DecidableEq, Repr

/-- What a solve keeps as its best (R227): residual (FP32), iteration, solution; for a batch, row by row with a residual
each, as FX40 values at the exponent of the vectors. -/
structure SolvBest where
  residual : Nat
  iter : Nat
  mat : FxMat
  rowRes : List Int
deriving DecidableEq, Repr

/-- A solve in progress (R211 to R217, R226 to R229). -/
structure Solve where
  warm : Bool
  /-- δ (FP32). -/
  delta : Nat
  /-- k of NEWTON; exponents of A, of the solution, of D or dinv. -/
  k : Int
  expA : Int
  expX : Int
  expD : Int
  x : FxMat
  m : FxMat
  /-- Right-hand sides of TRSM, with their exponent. -/
  rhs : FxMat
  expB : Int
  iters : Nat
  best : Option SolvBest
  boosts : Nat
  firstBoost : Option Nat
  /-- Overflow margin of the largest saturation; 0: none. -/
  margin : Nat
  warmRestart : Bool
  preempted : Bool
  iterLimit : Bool
  poison : Bool
  /-- OUTCOME, once the solve has ended. -/
  outcome : Option Nat
deriving DecidableEq, Repr

/-- The previous solution (R228): solution, exponent, residuals of a batch, status word, RESIDUAL, impression. -/
structure SolvPrev where
  mat : FxMat
  exp : Int
  rowRes : List Int
  status : Nat
  residual : Nat
  imp : Nat
deriving DecidableEq, Repr

/-- A Solver context's hidden state (R208, R220). -/
structure SolvCtx where
  /-- The GO being served, and the one that waits behind it. -/
  go : Option SolvGo
  next : Option SolvGo
  /-- The A copy, its exponent, whether a marked word entered it. -/
  a : FxMat
  expA : Int
  marked : Bool
  prev : Option SolvPrev
  /-- Batch rows by system × 64 + row, and the EXP_RAISE their values stand at. -/
  rows : SMap BatchRow
  raise_ : Nat
  /-- Overflow margin of saturated records since the last solve. -/
  margin : Nat
  solve : Option Solve
deriving DecidableEq, Repr

/-- A context that is off. -/
def SolvCtx.init : SolvCtx := ⟨none, none, [], 0, false, none, [], 0, 0, none⟩

/-- A Solver Engine's hidden state: its contexts, and the context it runs, by lead engine and context (R219, R229). -/
structure Solv where
  ctxs : List SolvCtx
  run : Option (Nat × Nat)
deriving DecidableEq, Repr

/-- A Solver Engine with every context off. -/
def Solv.init : Solv := ⟨List.replicate 32 SolvCtx.init, none⟩

/-- How far an open sheaf is (R263, R265, R269). -/
inductive SheafPhase where
  /-- Conversion waits for the lineage. -/
  | line
  /-- A scale round is under way. -/
  | scale (round : Nat)
  /-- S is fixed; the source is being read. -/
  | read
  | stage (t : Nat)
  /-- The last stage has completed. -/
  | ready
  /-- Under ROOT: the shard is not acknowledged, or the root has not all shards. -/
  | root
  /-- Delivered; an epilogue round is under way. -/
  | epi (round : Nat)
deriving DecidableEq, Repr

/-- A block of a sheaf's part as summed so far (R265 to R268): stage, index, contributions, clip count, sums, classes,
marks. -/
structure SheafAcc where
  stage : Nat
  idx : Nat
  n : Nat
  clip : Nat
  vals : List Int
  cls : List Nat
  marks : List Bool
deriving DecidableEq, Repr

/-- The values an epilogue round exchanges (R269). -/
structure SheafEpi where
  eRes : Nat
  eCon : Nat
  flags : Nat
  clip : Nat
  nonfin : Nat
deriving DecidableEq, Repr

/-- An open sheaf (R256 to R271). Exponents are 16-bit codes, 0x8000 for none. -/
structure Sheaf where
  tag : Nat
  gen : Nat
  rec_ : List Byte
  grp : List Byte
  phase : SheafPhase
  srcDone : Bool
  expo : Option Int
  econ : Nat
  /-- The running largest exponent of the scale rounds. -/
  eMax : Nat
  flags : Nat
  /-- Input to the running stage; after the last, the shard: sums, classes, marks, and clip counts by block. -/
  vals : List Int
  cls : List Nat
  marks : List Bool
  clips : List Nat
  accs : List SheafAcc
  /-- Blocks that arrived before S was fixed. -/
  early : List SheafMsg
  scaleGot : List (Nat × Nat)
  epiGot : List (Nat × SheafEpi)
  epi : SheafEpi
  /-- Counts of the shard: non-finite, NaN, overflowed. -/
  nonfin : Nat
  nan : Nat
  ovf : Nat
  eRes : Nat
  rootGot : List Nat
  delivered : Nat
deriving DecidableEq, Repr

/-- The reduction engines' device-wide hidden state. -/
structure Shef where
  /-- Open sheaves, in the order they were opened. -/
  open_ : List Sheaf
  /-- The last closed GEN of a tag. -/
  closed : List (Nat × Nat)
  /-- VALID and E of the lineages that have had any. -/
  lines : SMap (Bool × Nat)
  /-- Parked messages, with the node each came from. -/
  parked : List (Nat × SheafMsg)
  /-- Arrivals the full park area holds at the link. -/
  held : List (Nat × SheafMsg)
deriving DecidableEq, Repr

/-- A PREFETCH record at a site (R312, R313): waiting, or bound and running: tier, GEN, address. -/
structure Pf where
  rec_ : List Byte
  bound : Option (Nat × Nat × Nat)
  /-- It has been counted as waiting for a move. -/
  waited : Bool
deriving DecidableEq, Repr

/-- The flash controller's hidden state (R317 to R319). -/
structure FlashSt where
  /-- Pages held in the write buffer. -/
  wbuf : Nat
  /-- Writes are refused: the flush of a power loss has begun. -/
  refusing : Bool
  /-- Pages written since the map was last journalled, newest first: address and older contents, with their marks. -/
  undo : List (Nat × List (Byte × Bool))
  /-- Spare share of the bulk and the SLC region, in 1/100 %. -/
  spare : Nat × Nat
deriving DecidableEq, Repr

/-- A chunk that a reimposition moves here (R383): its source and old owner's copy as global addresses, the old owner's
digest entry likewise, its new place, and its new digest entry (none: it comes as a COPY). -/
structure RiTask where
  group : Nat
  chunk : Nat
  src : Nat
  owner : Nat
  dig : Nat
  dst : Nat
  newDig : Option Nat
deriving DecidableEq, Repr

/-- A chunk in a staging buffer: its task, the buffer, its bytes' count, whether it failed, its digest entry. -/
structure RiStaged where
  task : RiTask
  buf : Nat
  len : Nat
  failed : Bool
  entry : List Byte
deriving DecidableEq, Repr

/-- A reimposition's hidden state: chunks not read yet, and chunks staged. -/
structure Ri where
  left : List RiTask
  staged : List RiStaged
deriving DecidableEq, Repr

/-- A token increment on its way (R91). -/
structure Flight where
  src : Nat
  tile : Nat
  counter : Nat
  incr : Nat
deriving DecidableEq, Repr

/-- An event message that awaits its acknowledgement (R401). -/
structure EvtOut where
  seq : Nat
  loc : Nat
  page : Nat
  pend : Nat
  instant : Nat
  resends : Nat
deriving DecidableEq, Repr

/-- A record in a window's FIFO (R223, R258): who wrote it (0 for no DMA operation: 1 + 7 × physical tile + queue, and
the descriptor's SEQ), its bytes, whether a word of it carries a mark. -/
structure WinRec where
  writer : Nat
  seq : Nat
  bytes : List Byte
  marked : Bool
deriving DecidableEq, Repr

/-- A device link's hidden state (R349, R351, R361, R363). -/
structure LinkSt where
  /-- In the routing sets. -/
  joined : Bool
  /-- Trained again after a loss: it rejoins only when software admits it (R363). -/
  needAdmit : Bool
  /-- SEQ of the next flit sent; sent messages not acknowledged, by the SEQ of their first flit. -/
  txSeq : Nat
  store : List (Nat × FabMsg)
  /-- Messages that wait for credits, with the flits of each still to send. -/
  waiting : List (Nat × FabMsg)
  /-- Cumulative credits received, and flits sent, by pool. -/
  granted : SMap Nat
  sent : SMap Nat
  /-- SEQ expected next; a NAK is being sent. -/
  rxSeq : Nat
  naking : Bool
  /-- The SEQ a replay was started for, how often, and whether one is under way (R349). -/
  replay : Option (Nat × Nat)
  replaying : Bool
  /-- A lane retrain asked for here, or by the far end; the far end's grant (R361). -/
  req : Option Nat
  farReq : Option Nat
  grant : Bool
  /-- The lane the next LANE_CAL piece retrains (R429). -/
  turn : Nat
deriving DecidableEq, Repr

/-- A link that has never trained: 64 slots of every pool are granted (R351). -/
def LinkSt.init : LinkSt := ⟨false, false, 0, [], [], [], [], 0, false, none, false, none, none, false, 0⟩

/-- A remap by ASSUME (R365): a stook member reached over the spare link from an impression on. -/
structure Remap where
  member : Nat
  from_ : Nat
deriving DecidableEq, Repr

/-- The fabric's device-wide hidden state. -/
structure Fab where
  /-- Outer links of other stook members that are up, by member and link (R359). -/
  outerUp : List (Nat × Nat)
  remaps : List Remap
  /-- An accepted SPARE_ASSUME that waits for its impression: RELEASE, TARGET, H (R365). -/
  assume : Option (Bool × Nat × Nat)
  /-- The member this spare holds by assumption. -/
  assumed : Option Nat
deriving DecidableEq, Repr

/-- What leaves the device: everything an outside observer is sent, newest first. -/
inductive OutMsg where
  /-- The value of a register read. -/
  | regValue (req : Requester) (addr value : Nat)
  /-- The code a register write or read ended with (0: accepted). -/
  | regCode (req : Requester) (addr code : Nat)
  /-- A Slaiq EVENT (R401, R402). -/
  | event (e : EvtOut)
  /-- A beacon sent on a device link (R61). -/
  | beacon (link : Nat) (b : Beacon)
  /-- A message sent on a device link (R346). -/
  | message (link : Nat) (m : FabMsg)
  /-- A LINK_CTL exchange on a link: RETRAIN_REQ or RETRAIN_GRANT, and the lane (R361). -/
  | retrain (link : Nat) (grant : Bool) (lane : Nat)
  /-- What an access to memory is answered with: code, bytes, marks. -/
  | memData (req : Requester) (addr code : Nat) (data : List Byte) (marks : List Bool)
  /-- What the flash controller answers a page access with: code, bytes, marks. -/
  | flashData (addr code : Nat) (data : List Byte) (marks : List Bool)
  /-- A notice of an own outer link to the stook peers (R359). -/
  | notice (link : Nat) (up : Bool)
  /-- A Slaiq response to a source (R394). -/
  | slaiq (ip port : Nat) (bytes : List Byte)
  /-- A TELEMETRY message (R403). -/
  | telemetry (seq : Nat) (bytes : List Byte)
  /-- An ARP reply, neighbour advertisement or echo reply to an address (R387): kind 0, 1, 2, and the data. -/
  | reply (kind ip : Nat) (data : List Byte)
  /-- A priority's XOFF or XON (R388). -/
  | pfc (prio : Nat) (xoff : Bool)
  /-- A RoCEv2 packet of a queue pair: kind 0 ACK, 1 NAK (its syndrome), 2 RNR NAK, 3 READ response, 4 WRITE, 5 CNP. -/
  | rdma (qp kind psn addr : Nat) (data : List Byte)
  /-- What the I3C target answers a read of a register with (R457). -/
  | i3c (reg value : Nat)
deriving DecidableEq, Repr

/-- Boot progress (R407), and what it and the colophon hold until the next reset. -/
structure Boot where
  /-- Boot stages completed. -/
  stage : Nat
  /-- Boot has begun: both PWR_GOOD and RESET_N are high. -/
  live : Bool
  /-- Boot has stopped with FAULT_N low (R408). -/
  halted : Bool
  /-- A JCI being loaded: its bytes as its checks read them (R425). -/
  jci : Option (List Byte)
  /-- A quote or copy under way: its OP_CODE (R414). -/
  op : Option Nat
deriving DecidableEq, Repr

/-- The sideband, rails and control loops (R444 to R455). -/
structure Power where
  pwrEn : Bool
  pwrGood : Bool
  /-- RESET_N is high. -/
  resetN : Bool
  /-- A trip, or an overvoltage, is latched until PWR_EN falls. -/
  trip : Bool
  overvolt : Bool
  /-- REFCLK_ETH is lost: the device holds itself in reset (R450). -/
  ethLost : Bool
  /-- Steps of 10 µs for which P_AVG has stayed below 97 % of CAP (R452). -/
  calm : Nat
  /-- Limits in MHz of the cap loop, by compute die, and of the return from an emergency. -/
  capPt : List Nat
  emPt : Nat
  /-- Sensors that throttle: compute die d, or 2 + site. -/
  hot : List Nat
deriving DecidableEq, Repr

/-- Power as a reset finds it. -/
def Power.init : Power := ⟨true, true, true, false, false, false, 0, [1500, 1500], 1500, []⟩

/-- What survives a loss of power (R319, R335, R408 to R416), beside the pages of module flash themselves. -/
structure Nv where
  /-- The repair log (R335): INTG page instance and remapped address. -/
  repairs : List (Nat × Nat)
  /-- Slots A and B of each firmware component, 0x01 to 0x05, and whether B is active (R408). -/
  slots : List (List Byte × List Byte)
  active : List Bool
  /-- Rollback floors (R410). -/
  floors : List Nat
  /-- The owner's modulus and OWNER_GEN; bytes 0 to 535 of the enrolment bundle (R416). -/
  owner : Option (Nat × Nat)
  enrol : List Byte
  /-- Command keys (empty: not enrolled), and LAST_COUNTER of each (R400, R416). -/
  keys : List (List Byte)
  counters : List Nat
  /-- INTG page instances of the hard post-package repairs made, one entry each (R335). -/
  hard : List Nat
deriving DecidableEq, Repr

/-- A device that has never been provisioned with firmware or an owner. -/
def Nv.init : Nv := ⟨[], List.replicate 5 ([], []), List.replicate 5 false, List.replicate 5 0, none, [],
  List.replicate 4 [], List.replicate 4 0, []⟩

/-- A queue pair (R388, R390, R393): its context, send rate in 1/65,536 of the port's, when it last sent a CNP, packets
sent and not acknowledged (PSN, remote address, bytes), and retries since the last acknowledgement. -/
structure Qp where
  ctx : List Byte
  rate : Nat
  cnpAt : Option Nat
  unacked : List (Nat × Nat × List Byte)
  retries : Nat
deriving DecidableEq, Repr

/-- A queue pair in RESET. -/
def Qp.init : Qp := ⟨List.replicate 64 0, 65536, none, [], 0⟩

/-- A memory window (R391, R392): its record, and the SENDs it has received. -/
structure MemWin where
  rec_ : List Byte
  sends : Nat
deriving DecidableEq, Repr

/-- A window that is off. -/
def MemWin.init : MemWin := ⟨List.replicate 32 0, 0⟩

/-- The Ethernet port's hidden state. -/
structure Eth where
  qps : SMap Qp
  wins : SMap MemWin
  /-- Priorities the far end has paused, and those this port has sent XOFF for (R388). -/
  paused : Nat
  xoff : Nat
  /-- Consecutive sync intervals below, and above, 1 µs of offset (R389). -/
  ptpGood : Nat
  ptpBad : Nat
deriving DecidableEq, Repr

/-- The Ethernet port after reset. -/
def Eth.init : Eth := ⟨[], [], 0, 0, 0, 0⟩

/-- A Slaiq session (R396): source, the highest SEQ accepted, its last 64 responses by SEQ, newest first, and when its last
request came (ms). -/
structure Session where
  ip : Nat
  port : Nat
  high : Option Nat
  cache : List (Nat × List Byte)
  last : Nat
deriving DecidableEq, Repr

/-- What an unlisted queue pair reads as. -/
def qpDefault (_ : Nat) : Qp := Qp.init

/-- What an unlisted memory window reads as. -/
def winDefault (_ : Nat) : MemWin := MemWin.init

/-- The state of the device. -/
structure State where
  build : Build
  factory : Factory
  /-- Commands that wait, first in first out. -/
  pending : List Instr
  /-- Everything sent out of the device, newest first. -/
  out : List OutMsg
  /-- Places met where the manual leaves a value open (assumption log 1). The model's own field. -/
  freeCtr : Nat
  /-- Registers, by `regKey`; an unlisted key reads as `regReset`. -/
  regs : SMap DWord
  /-- What registers of a page in soft reset held before it (R49); an unlisted key: its reset value. -/
  srstOld : SMap DWord
  /-- Bytes of every memory, by `Host.Cell` key (see Ops); an unlisted byte is 0. -/
  mem : List Host.Cell
  /-- Stored syndromes: of the aligned 64-bit word at a key (HBM, IMEM, DMEM), or of the byte (galley). Unlisted: 0. -/
  syn : SMap Nat
  /-- Written storage: blocks and lines at 2^60 + the key of their first byte, WRITE_FIRST words (HBM) and bytes
  (galley) at their own key. Unlisted: not written. -/
  written : SMap Bool
  /-- Candidate lists of R334, oldest first, by INTG page instance: addresses as the remap entries hold them. -/
  cands : SMap (List Nat)
  /-- Records waiting in windows, oldest first, by window (see Bus); those past a FIFO's depth are a held writer's. -/
  fifos : SMap (List WinRec)
  /-- WRITE_FIRST blocks that await their zeros, as intervals (first block, count), by site (R307). -/
  zeroing : SMap (List (Nat × Nat))
  units : Units
  press : Press
  /-- Physical tiles. Unlisted: after reset. -/
  tiles : SMap Tile
  flights : List Flight
  /-- Update Engines by site. Unlisted: at rest. -/
  ues : SMap Ue
  /-- Solver Engines by number. Unlisted: every context off. -/
  solvs : SMap Solv
  shef : Shef
  /-- Prefetch records by site. Unlisted: none. -/
  pfs : SMap (List Pf)
  /-- Moves in progress: handle, DONE. -/
  moves : List (Nat × Nat)
  flash : FlashSt
  ri : Ri
  /-- Device links. Unlisted: never trained. -/
  links : SMap LinkSt
  fab : Fab
  /-- Event messages not acknowledged, and the device-wide event SEQ (R401). -/
  events : List EvtOut
  evtSeq : Nat
  boot : Boot
  power : Power
  nv : Nv
  eth : Eth
  sessions : List Session
  /-- SEQ of the next TELEMETRY message (R403). -/
  telSeq : Nat
  /-- Points that an activity has used on a unit in the current window or impression (R430, R432): activity, unit code,
  points. -/
  bkUsed : List (Nat × Nat × Nat)
deriving DecidableEq, Repr

/-- What an unlisted byte reads as (R96, R306, R317: unwritten ZERO_VALID storage and unwritten flash read zero). -/
def memDefault (_ : Nat) : Byte := 0

/-- What an unlisted syndrome reads as: clean. -/
def synDefault (_ : Nat) : Nat := 0

/-- What an unlisted written bit reads as: not written. -/
def writtenDefault (_ : Nat) : Bool := false

/-- What an unlisted tile reads as. -/
def tileDefault (_ : Nat) : Tile := Tile.init

/-- What an unlisted link reads as. -/
def linkDefault (_ : Nat) : LinkSt := LinkSt.init

/-- What an unlisted Update Engine reads as. -/
def ueDefault (_ : Nat) : Ue := Ue.init

/-- What an unlisted site's prefetch records read as. -/
def pfDefault (_ : Nat) : List Pf := []

/-- What an unlisted Solver Engine reads as. -/
def solvDefault (_ : Nat) : Solv := Solv.init

/-- What an unlisted candidate list reads as. -/
def candDefault (_ : Nat) : List Nat := []

/-- What an unlisted FIFO holds: nothing. -/
def fifoDefault (_ : Nat) : List WinRec := []

/-- What an unlisted site awaits: nothing. -/
def zeroDefault (_ : Nat) : List (Nat × Nat) := []

/-- The state right after reset, before power (R30, R31, R54 and the register maps). -/
def State.reset : State where
  build := .h8l4
  factory := ⟨0, 0, 0, 0, 0, [], 0, true⟩
  pending := []
  out := []
  freeCtr := 0
  regs := []
  srstOld := []
  mem := []
  syn := []
  written := []
  cands := []
  fifos := []
  zeroing := []
  units := ⟨[], [], [], [], [], [], [], [], [], []⟩
  press := ⟨0, 0, 0, false, false, false, none, none, none, ⟨false, 0, 0, 0⟩, false, false, 0, false, false, false, false,
    [], false, [], none, false, none, false⟩
  tiles := []
  flights := []
  ues := []
  solvs := []
  shef := ⟨[], [], [], [], []⟩
  pfs := []
  moves := []
  flash := ⟨0, false, [], (10000, 10000)⟩
  ri := ⟨[], []⟩
  links := []
  fab := ⟨[], [], none, none⟩
  events := []
  evtSeq := 0
  boot := ⟨0, false, false, none, none⟩
  power := Power.init
  nv := Nv.init
  eth := Eth.init
  sessions := []
  telSeq := 0
  bkUsed := []

/-- Whether a key of `mem` or `syn` is one of module flash, which keeps its contents without power. -/
def isFlashKey (k : Nat) : Bool := decide (2 ^ 52 ≤ k) && decide (k < 2 ^ 53)

/-- The registers of the FLSH page that describe the flash itself: region states, erase counts, spare share, the last
flush. -/
def isFlashReg (k : Nat) : Bool := k / 4096 == blkNum .flsh * 256 && (k % 4096 == 0x40 || (decide (0x50 ≤ k % 4096) && decide (k % 4096 ≤ 0x60)))

/-- The state after a device reset (R447): what survives is the build, what the factory fixed, module flash, the pins, the
commands still to come and what was sent. -/
def State.restarted (s : State) : State :=
  { State.reset with
    build := s.build
    factory := s.factory
    pending := s.pending
    out := s.out
    freeCtr := s.freeCtr
    regs := s.regs.filter fun x => isFlashReg x.1
    mem := s.mem.filter fun x => isFlashKey x.1
    syn := s.syn.filter fun x => isFlashKey x.1
    flash := s.flash
    power := { Power.init with
      pwrEn := s.power.pwrEn
      pwrGood := s.power.pwrGood
      resetN := s.power.resetN
      trip := s.power.trip
      overvolt := s.power.overvolt
      ethLost := s.power.ethLost }
    nv := s.nv }

/-- The primitive updates: everything a command can change is changed through these. -/
inductive Upd where
  | reg (k : Nat) (v : DWord)
  | srstSave (k n : Nat)
  | srstDrop (k n : Nat)
  | mem (k : Nat) (bs : List Byte)
  | syn (k : Nat) (vs : List Nat)
  | written (k : Nat) (vs : List Bool)
  | memClear (k n : Nat)
  | synClear (k n : Nat)
  | writtenClear (k n : Nat)
  | emit (m : OutMsg)
  | nextFree
  | cands (k : Nat) (l : List Nat)
  | fifo (k : Nat) (l : List WinRec)
  | zeroing (k : Nat) (l : List (Nat × Nat))
  | units (u : Units)
  | press (p : Press)
  | tile (phys : Nat) (t : Tile)
  | flights (l : List Flight)
  | ue (site : Nat) (u : Ue)
  | solv (engine : Nat) (v : Solv)
  | shef (v : Shef)
  | pfs (site : Nat) (l : List Pf)
  | moves (l : List (Nat × Nat))
  | flash (f : FlashSt)
  | ri (r : Ri)
  | link (i : Nat) (l : LinkSt)
  | fab (f : Fab)
  | events (l : List EvtOut) (seq : Nat)
  | boot (b : Boot)
  | power (p : Power)
  | nv (v : Nv)
  | repair (l : List (Nat × Nat))
  | eth (e : Eth)
  | sessions (l : List Session)
  | telSeq (n : Nat)
  | bkUsed (l : List (Nat × Nat × Nat))
  /-- A device reset (R447): everything but what survives it goes to its reset value. -/
  | restart

/-- The effect of a primitive update. -/
def Upd.apply : Upd → State → State
  | .reg k v, s => { s with regs := mapSet regReset s.regs k v }
  | .srstSave k n, s => { s with srstOld := mapFrom s.srstOld s.regs k n }
  | .srstDrop k n, s => { s with srstOld := mapClear s.srstOld k n }
  | .mem k bs, s => { s with mem := mapPut memDefault s.mem k bs }
  | .syn k vs, s => { s with syn := mapPut synDefault s.syn k vs }
  | .written k vs, s => { s with written := mapPut writtenDefault s.written k vs }
  | .memClear k n, s => { s with mem := mapClear s.mem k n }
  | .synClear k n, s => { s with syn := mapClear s.syn k n }
  | .writtenClear k n, s => { s with written := mapClear s.written k n }
  | .emit m, s => { s with out := m :: s.out }
  | .nextFree, s => { s with freeCtr := s.freeCtr + 1 }
  | .cands k l, s => { s with cands := mapSet candDefault s.cands k l }
  | .fifo k l, s => { s with fifos := mapSet fifoDefault s.fifos k l }
  | .zeroing k l, s => { s with zeroing := mapSet zeroDefault s.zeroing k l }
  | .units u, s => { s with units := u }
  | .press p, s => { s with press := p }
  | .tile q t, s => { s with tiles := mapSet tileDefault s.tiles q t }
  | .flights l, s => { s with flights := l }
  | .ue n u, s => { s with ues := mapSet ueDefault s.ues n u }
  | .solv e v, s => { s with solvs := mapSet solvDefault s.solvs e v }
  | .shef v, s => { s with shef := v }
  | .pfs n l, s => { s with pfs := mapSet pfDefault s.pfs n l }
  | .moves l, s => { s with moves := l }
  | .flash f, s => { s with flash := f }
  | .ri r, s => { s with ri := r }
  | .link i l, s => { s with links := mapSet linkDefault s.links i l }
  | .fab f, s => { s with fab := f }
  | .events l n, s => { s with events := l, evtSeq := n }
  | .boot b, s => { s with boot := b }
  | .power p, s => { s with power := p }
  | .nv v, s => { s with nv := v }
  | .repair l, s => { s with nv := { s.nv with repairs := l } }
  | .eth e, s => { s with eth := e }
  | .sessions l, s => { s with sessions := l }
  | .telSeq n, s => { s with telSeq := n }
  | .bkUsed l, s => { s with bkUsed := l }
  | .restart, s => s.restarted

/-- What a command does, as a program over the primitive updates: do nothing, update and go on, look at the state and
go on. Every meaning is such a program, so what holds of every primitive update holds of every command. -/
inductive Act where
  | done
  | put (u : Upd) (k : Act)
  | look (k : State → Act)

/-- Running a program. -/
def Act.run : Act → State → State
  | .done, s => s
  | .put u k, s => k.run (u.apply s)
  | .look k, s => (k s).run s

/-- One program after another. -/
def Act.seq : Act → Act → Act
  | .done, b => b
  | .put u k, b => .put u (k.seq b)
  | .look k, b => .look fun s => (k s).seq b

end Sys2Proof.Machine
end

