-- ==== Sys2Proof/Machine/Ops.lean ====
section
/-! DEFINITION. Named operations over registers, pages, events, rejections, instants and the service rules: what every
family of commands is written from. -/

namespace Sys2Proof.Machine

/-! ### Programs -/

/-- One primitive update. -/
def upd (u : Upd) : Act := .put u .done

/-- Look at the state and go on. -/
def look (k : State → Act) : Act := .look k

/-- One program after another, in order. -/
def acts : List Act → Act
  | [] => .done
  | a :: l => a.seq (acts l)

/-- A program for every element of a list, in order. -/
def each {α : Type} (l : List α) (f : α → Act) : Act := acts (l.map f)

/-- A program where a condition holds. -/
def onlyIf (c : Bool) (a : Act) : Act := if c then a else .done

/-- Send something out of the device. -/
def emit (m : OutMsg) : Act := upd (.emit m)

/-- Meet a place where the manual leaves a value open, and go on with that value (assumption log 1). -/
def withFree (k : Nat → Act) : Act := look fun s => .put .nextFree (k (Config.free s.freeCtr).toNat)

/-! ### Registers -/

/-- The stored value of a register. -/
def rdKey (s : State) (k : Nat) : Nat := (mapGet regReset s.regs k).toNat

/-- A field's value on page instance `idx`, repetition `n`. -/
def fv (s : State) (f : Fld) (idx : Nat := 0) (n : Nat := 0) : Nat := bits (rdKey s (fldKey f idx n)) f.hi f.lo

/-- A one-bit field. -/
def fb (s : State) (f : Fld) (idx : Nat := 0) (n : Nat := 0) : Bool := fv s f idx n != 0

/-- A register takes a value. -/
def setKey (k v : Nat) : Act := upd (.reg k (BitVec.ofNat 64 v))

/-- A field takes a value. -/
def setF (f : Fld) (v : Nat) (idx : Nat := 0) (n : Nat := 0) : Act :=
  look fun s => setKey (fldKey f idx n) (setBits (rdKey s (fldKey f idx n)) f.hi f.lo v)

/-- A counter field advances, saturating. -/
def incF (f : Fld) (amt : Nat := 1) (idx : Nat := 0) (n : Nat := 0) : Act :=
  look fun s => setF f (satAdd (f.hi + 1 - f.lo) (fv s f idx n) amt) idx n

/-- A register, by key, advances as a saturating 32-bit counter. -/
def incKey (k amt : Nat) : Act := look fun s => setKey k (satAdd 32 (rdKey s k) amt)

/-! ### Builds, locations and pages -/

/-- The sites that carry link dies (R9, SITE_POP). -/
def linkMask : Build → Nat
  | .h8l4 => 0x861
  | .h10l2 => 0x208
  | .h6l6 => 0x965

/-- Whether a site carries a link die. -/
def isLinkSite (b : Build) (n : Nat) : Bool := n < 12 && bit (linkMask b) n

/-- Whether a site carries an HBM stack. -/
def isHbmSite (b : Build) (n : Nat) : Bool := n < 12 && !bit (linkMask b) n

/-- The link-die ordinal of a site: the letter of its flyover block (R9, R36). -/
def linkOrd (b : Build) (site : Nat) : Nat := (rangeF site (isLinkSite b)).length

/-- The link sites in order. -/
def linkSites (b : Build) : List Nat := rangeF 12 (isLinkSite b)

/-- The HBM sites in order. -/
def hbmSites (b : Build) : List Nat := rangeF 12 (isHbmSite b)

/-- The site of a device link index. -/
def linkSite (b : Build) (i : Nat) : Nat := (linkSites b).getD (i / 6) 12

/-- How many Narxo links the build has. -/
def nLinks (b : Build) : Nat := 6 * (linkSites b).length

/-- The compute die a site attaches to (R9). -/
def dieOfSite (n : Nat) : Nat := n / 6

/-- A register page by block and instance (see `regKey`). -/
structure PageRef where
  blk : Blk
  idx : Nat
deriving DecidableEq, Repr

/-- The physical tile assigned to a slot after reset: presented tile t of a die is that die's physical tile t, spare
slot s its physical tile 72 + s (log entry 5). -/
def slotHome (slot : Nat) : Nat :=
  if slot < 72 then slot else if slot < 144 then slot + 8 else if slot < 152 then 72 + (slot - 144)
  else 152 + (slot - 152)

/-- The physical tile (0–159; CD0 0–79) behind a slot. -/
def physOf (s : State) (slot : Nat) : Nat := mapGet slotHome s.units.backing slot % 160

/-- The slot a physical tile stands behind. -/
def slotOf (s : State) (phys : Nat) : Nat :=
  ((List.range 160).find? fun k => physOf s k == phys).getD 160

/-- The compute die of a presented tile ID. -/
def dieOfTile (t : Nat) : Nat := t / 72

/-- The page of a tile's group with index k (R36). -/
def tilePage (k phys : Nat) : Option PageRef :=
  match k with
  | 0 => some ⟨.tile, phys⟩
  | 1 => some ⟨.mtrx, phys⟩
  | 2 => some ⟨.cova, phys⟩
  | 3 => some ⟨.vect, phys⟩
  | 4 => some ⟨.winn, phys⟩
  | 5 => some ⟨.galy, phys⟩
  | 6 => some ⟨.intg, phys⟩
  | _ => none

/-- The MGD's blocks in page order (R36). -/
def mgdBlks : List Blk := [.mgmt, .pres, .enet, .slqp, .colo, .conf, .hlth, .bkgd, .flsh, .peer, .optb, .powr]

/-- The page at a location and page index, if the build has one (R24, R36). -/
def pageAt (s : State) (loc page : Nat) : Option PageRef :=
  if loc = 0x18 then
    if page = 0xC then some ⟨.intg, 200⟩ else (mgdBlks[page]?).map fun b => ⟨b, 0⟩
  else if loc = 0x10 ∨ loc = 0x11 then
    let die := loc - 0x10
    if page < 0x240 then tilePage (page % 8) (physOf s (die * 72 + page / 8))
    else if page < 0x280 then tilePage (page % 8) (physOf s (144 + die * 8 + (page - 0x240) / 8))
    else if 0x300 ≤ page ∧ page < 0x310 then
      let e := die * 8 + (page - 0x300) / 2
      if page % 2 = 0 then some ⟨.solv, e⟩ else some ⟨.intg, 160 + e⟩
    else if page = 0x3F0 then some ⟨.powrDie, die⟩
    else none
  else if isHbmSite s.build loc then
    match page with
    | 0 => some ⟨.hbmc, loc⟩
    | 1 => some ⟨.updt, loc⟩
    | 2 => some ⟨.intg, 176 + loc⟩
    | _ => none
  else if isLinkSite s.build loc then
    if page = 0 then some ⟨.shef, loc⟩
    else if page = 1 then some ⟨.intg, 188 + loc⟩
    else if 0x10 ≤ page ∧ page < 0x16 then some ⟨.link, 6 * linkOrd s.build loc + (page - 0x10)⟩
    else none
  else none

/-- The location and page index of a tile slot's page k. -/
def slotLoc (slot k : Nat) : Nat × Nat :=
  if slot < 144 then (0x10 + slot / 72, 8 * (slot % 72) + k)
  else (0x10 + (slot - 144) / 8, 0x240 + 8 * ((slot - 144) % 8) + k)

/-- Location and page index of a page (R36). -/
def pageLoc (s : State) (p : PageRef) : Nat × Nat :=
  match p.blk with
  | .tile => slotLoc (slotOf s p.idx) 0
  | .mtrx => slotLoc (slotOf s p.idx) 1
  | .cova => slotLoc (slotOf s p.idx) 2
  | .vect => slotLoc (slotOf s p.idx) 3
  | .winn => slotLoc (slotOf s p.idx) 4
  | .galy => slotLoc (slotOf s p.idx) 5
  | .intg =>
    if p.idx < 160 then slotLoc (slotOf s p.idx) 6
    else if p.idx < 176 then (0x10 + (p.idx - 160) / 8, 0x301 + 2 * ((p.idx - 160) % 8))
    else if p.idx < 188 then (p.idx - 176, 2)
    else if p.idx < 200 then (p.idx - 188, 1)
    else (0x18, 0xC)
  | .solv => (0x10 + p.idx / 8, 0x300 + 2 * (p.idx % 8))
  | .powrDie => (0x10 + p.idx, 0x3F0)
  | .hbmc => (p.idx, 0)
  | .updt => (p.idx, 1)
  | .shef => (p.idx, 0)
  | .link => (linkSite s.build p.idx, 0x10 + p.idx % 6)
  | b => (0x18, (mgdBlks.findIdx? (· == b)).getD 0)

/-- Page indices at a location, ascending (R36). -/
def pagesAt (b : Build) (loc : Nat) : List Nat :=
  if loc = 0x18 then List.range 13
  else if loc = 0x10 ∨ loc = 0x11 then
    rangeF 0x280 (fun p => p % 8 != 7) ++ (List.range 16).map (0x300 + ·) ++ [0x3F0]
  else if isHbmSite b loc then [0, 1, 2]
  else if isLinkSite b loc then [0, 1] ++ (List.range 6).map (0x10 + ·)
  else []

/-- The address of a register (R24). -/
def regAddr (loc page off : Nat) : Nat := 0xFF00_0000_0000 + loc * 2 ^ 24 + page * 2 ^ 12 + off

/-- The address of a register of a page. -/
def pageAddr (s : State) (p : PageRef) (off : Nat) : Nat := regAddr (pageLoc s p).1 (pageLoc s p).2 off

/-- Block type codes (R36). -/
def typeCode : Blk → Nat
  | .mgmt => 0x0001 | .pres => 0x0002 | .enet => 0x0003 | .slqp => 0x0004 | .colo => 0x0005 | .conf => 0x0006
  | .hlth => 0x0007 | .bkgd => 0x0008 | .flsh => 0x0009 | .peer => 0x000A | .optb => 0x000B | .powr => 0x000C
  | .powrDie => 0x000C | .intg => 0x000D | .tile => 0x0010 | .mtrx => 0x0011 | .cova => 0x0012 | .vect => 0x0013
  | .winn => 0x0014 | .galy => 0x0015 | .solv => 0x0018 | .hbmc => 0x0020 | .updt => 0x0021 | .shef => 0x0028
  | .link => 0x0029

/-- INSTANCE of a tile-group page from its slot (R36). -/
def slotInstance (slot : Nat) : Nat := if slot < 144 then slot else 0xF0 + (slot - 144)

/-- INSTANCE of a page (R36). -/
def pageInstance (s : State) (p : PageRef) : Nat :=
  match p.blk with
  | .tile | .mtrx | .cova | .vect | .winn | .galy => slotInstance (slotOf s p.idx)
  | .intg =>
    if p.idx < 160 then slotInstance (slotOf s p.idx)
    else if p.idx < 176 then 0x90 + (p.idx - 160)
    else if p.idx < 188 then 0xC0 + (p.idx - 176)
    else if p.idx < 200 then 0xD0 + (p.idx - 188)
    else 0xE0
  | .powrDie => p.idx + 1
  | .shef => linkOrd s.build p.idx
  | .solv | .hbmc | .updt | .link => p.idx
  | _ => 0

/-- BLOCK_CAPS of a block (R146, R169, R232, R253, R272, R300, R340, R367, R426); 0 where the manual defines none (log
entry 6). -/
def blockCaps (b : Build) (p : PageRef) : Nat :=
  match p.blk with
  | .mtrx => 0x030FFF
  | .cova => 0x000408
  | .vect => 0x0703FF
  | .winn => 0x1F8400
  | .solv => 0xFE0333
  | .shef => 0x001000
  | .updt => 0x002900
  | .link => nLinks b + 0x1000 + (if b = .h6l6 then 0x10000 else 0)
  | .colo => 0x000008
  | .intg =>
    if p.idx < 160 then 32 * 256 + 7
    else if p.idx < 176 then 1
    else if p.idx < 188 then 32 * 256 + 7
    else if p.idx < 200 then 3
    else 7
  | _ => 0

/-- FAMILY_MODEL (R29). -/
def isFamily : Blk → Bool
  | .tile | .mtrx | .vect | .winn | .galy => true
  | _ => false

/-- Whether a page belongs to a tile's group. -/
def isTileGroup (p : PageRef) : Bool :=
  match p.blk with
  | .tile | .mtrx | .cova | .vect | .winn | .galy => true
  | .intg => p.idx < 160
  | _ => false

/-! ### Time -/

/-- An instant as one number: impression, then point (R8). -/
def instant (imp pt : Nat) : Nat := imp * 65536 + pt

/-- PRES.CUR_INSTANT: the local instant; 0 while UNSYNC (R51, R54). -/
def curInstant (s : State) : Nat := instant s.press.imp s.press.pt

/-- PRES.ROLE is UNSYNC (R54). -/
def unsync (s : State) : Bool := fv s PRES_ROLE == 0

/-- An instant is reached (R53, R54). -/
def reached (s : State) (i : Nat) : Bool := !unsync s && decide (i ≤ curInstant s)

/-- The point at `t` ns after the edge under period `T` ns (R52). -/
def pointAt (t T : Nat) : Nat := if T = 0 then 0 else min 65535 (t * 65536 / T)

/-- The local time since the edge moves to `t` ns, if that is later; the point follows (R52, R66). -/
def timeTo (t : Nat) : Act :=
  look fun s =>
    let e := max s.press.elapsed t
    upd (.press { s.press with
      elapsed := e
      pt := if unsync s then 0 else if s.press.held then 65535 else max s.press.pt (pointAt e (fv s PRES_PERIOD_CUR)) })

/-! ### Units and service (R12, R19 to R23) -/

/-- A physical tile is retired (HLTH.RET_TILE). -/
def tileRetired (s : State) (p : Nat) : Bool := bit (fv s HLTH_RET_TILE 0 (p / 32)) (p % 32)

/-- A unit is retired (R436). -/
def unitRetired (s : State) : UnitId → Bool
  | .tile p => tileRetired s p
  | .ue n => bit (fv s HLTH_RET_UE) n
  | .solv e => bit (fv s HLTH_RET_SOLV) e
  | .linkDie n => bit (fv s HLTH_RET_LINKDIE) n
  | _ => false

/-- A unit is not detected failed. -/
def unitOk (s : State) (u : UnitId) : Bool := !s.units.failed.contains u && !unitRetired s u

/-- A unit was brought up by boot or by a later rise and is healthy. -/
def unitUp (s : State) (u : UnitId) : Bool := s.units.up.contains u && unitOk s u

/-- An HBM site is in service (R19). -/
def hbmInService (s : State) (n : Nat) : Bool :=
  isHbmSite s.build n && unitUp s (.stack n) && unitOk s (.net (dieOfSite n))

/-- A substitution of a presented tile ID is pending or copying (R100). -/
def substPending (s : State) (t : Nat) : Bool := s.units.subst.any fun x => x.tile == t

/-- A presented tile ID is backed by a healthy tile, or by a retired one that a spare is about to replace (R100,
R436). -/
def tileHealthy (s : State) (t : Nat) : Bool := unitUp s (.tile (physOf s t)) || substPending s t

/-- Presented tile IDs of a die backed by healthy tiles. -/
def healthyTiles (s : State) (die : Nat) : Nat :=
  ((List.range 72).filter fun t => tileHealthy s (die * 72 + t)).length

/-- HBM sites in service on a die's own side. -/
def ownHbm (s : State) (die : Nat) : List Nat := rangeF 12 fun n => dieOfSite n == die && hbmInService s n

/-- A compute die is in service (R19). The die bridge counts for a die that must reach the other side's stacks, having
none of its own in service (log entry 7). -/
def dieInService (s : State) (die : Nat) : Bool :=
  unitOk s (.net die) && decide (8 ≤ healthyTiles s die) &&
    (unitOk s .bridge || !(ownHbm s die).isEmpty)

/-- A presented tile ID is backed (R12, R19). -/
def tileBacked (s : State) (t : Nat) : Bool := t < 144 && tileHealthy s t && dieInService s (dieOfTile t)

/-- An Update Engine is in service (R19). -/
def ueInService (s : State) (n : Nat) : Bool := unitUp s (.ue n) && hbmInService s n

/-- A link die is in service (R19). -/
def linkDieInService (s : State) (n : Nat) : Bool :=
  isLinkSite s.build n && unitUp s (.linkDie n) && unitOk s (.net (dieOfSite n))

/-- A Solver Engine is in service. -/
def solvInService (s : State) (e : Nat) : Bool := unitUp s (.solv e) && unitOk s (.net (e / 8))

/-- A device link's state (R367). -/
def linkState (s : State) (i : Nat) : Nat := fv s LINK_LSTATE i

/-- Trained links: UP, on a link die in service. -/
def trainedLinks (s : State) : List Nat :=
  rangeF (nLinks s.build) fun i => linkState s i == 2 && linkDieInService s (linkSite s.build i)

/-- The unit behind a page is in service (R31, R23). -/
def pageInService (s : State) (p : PageRef) : Bool :=
  match p.blk with
  | .tile | .mtrx | .cova | .vect | .winn | .galy => unitUp s (.tile p.idx) && unitOk s (.net (p.idx / 80))
  | .intg =>
    if p.idx < 160 then unitUp s (.tile p.idx) && unitOk s (.net (p.idx / 80))
    else if p.idx < 176 then solvInService s (p.idx - 160)
    else if p.idx < 188 then hbmInService s (p.idx - 176)
    else if p.idx < 200 then linkDieInService s (p.idx - 188)
    else true
  | .solv => solvInService s p.idx
  | .powrDie => unitOk s (.net p.idx)
  | .hbmc => hbmInService s p.idx
  | .updt => ueInService s p.idx
  | .shef => linkDieInService s p.idx
  | .link => linkDieInService s (linkSite s.build p.idx)
  | _ => true

/-- PAGE_STS.RETIRED: from service level 1 on, the unit behind the page is not in service (R23, R31, R37). -/
def pageRetired (s : State) (p : PageRef) : Bool := decide (3 ≤ s.boot.stage) && !pageInService s p

/-- The conditions of R21 that hold, as HLTH.COND bits. -/
def limitConds (s : State) : Nat :=
  let dies := rangeF 2 (dieInService s)
  let local_ := dies.any fun d => !(ownHbm s d).isEmpty
  let ue := dies.any fun d => (ownHbm s d).any (ueInService s)
  let lds := (linkSites s.build).filter (linkDieInService s)
  b2n dies.isEmpty + 2 * b2n (!local_) + 4 * b2n (!ue) + 8 * b2n (!bit (fv s POWR_REFCLK) 1) +
    16 * b2n lds.isEmpty + 32 * b2n (trainedLinks s).isEmpty

/-- The level whose requirements hold (R20), for a device whose level-1 requirements hold. -/
def levelOf (conds : Nat) : Nat := if conds % 8 ≠ 0 then 1 else if conds ≠ 0 then 2 else 3

/-! ### Events and rejections (R41 to R48) -/

/-- A page forwards an event (R47). -/
def forwarding (s : State) (p : PageRef) : Bool :=
  fb s (hdrEvtEn p.blk) p.idx &&
    decide (fv s (hdrEvtPend p.blk) p.idx &&& (2 ^ 32 - 1 - fv s (hdrEvtMask p.blk) p.idx) ≠ 0)

/-- The Slaiq EVENT message of a page whose forwarding rose (R47, R401, R402). -/
def sendEvent (p : PageRef) : Act :=
  look fun s =>
    if !fb s SLQP_SEVT_EN then .done
    else if 256 ≤ s.events.length then incF SLQP_QCNT 1 0 5
    else
      let l := pageLoc s p
      let e : EvtOut := ⟨s.evtSeq, l.1, l.2, fv s (hdrEvtPend p.blk) p.idx, curInstant s, 0⟩
      acts [upd (.events (s.events ++ [e]) ((s.evtSeq + 1) % 2 ^ 32)), emit (.event e)]

/-- A program that may change what a page forwards: when forwarding rises, one EVENT is sent (R47). -/
def withForward (p : PageRef) (a : Act) : Act :=
  look fun s => acts [a, look fun t => onlyIf (!forwarding s p && forwarding t p) (sendEvent p)]

/-- Events of a page become pending (R34). -/
def raiseEvt (p : PageRef) (mask : Nat) : Act :=
  onlyIf (mask != 0) <| withForward p <|
    look fun s => setF (hdrEvtPend p.blk) (fv s (hdrEvtPend p.blk) p.idx ||| mask) p.idx

/-- EVT_PEND bits common to every page (R34). -/
def evReject : Nat := 1
/-- EVT_PEND.FAULT. -/
def evFault : Nat := 2
/-- EVT_PEND.RETIRE. -/
def evRetire : Nat := 4
/-- EVT_PEND.POISON. -/
def evPoison : Nat := 8

/-- A rejection is recorded in a page (R32, R33, R41, R44). -/
def recordReject (p : PageRef) (off : Nat) (c : ErrCode) : Act :=
  acts [
    look fun s =>
      if fv s (hdrErrCode p.blk) p.idx = 0 then
        acts [setF (hdrErrCode p.blk) (errNum c) p.idx, setF (hdrErrOffset p.blk) off p.idx]
      else setF (hdrErrMulti p.blk) 1 p.idx,
    incF (hdrErrCnt p.blk) 1 p.idx,
    raiseEvt p evReject]

/-- The MGMT page (R45). -/
def mgmtPage : PageRef := ⟨.mgmt, 0⟩
/-- The PRES page. -/
def presPage : PageRef := ⟨.pres, 0⟩
/-- The HLTH page. -/
def hlthPage : PageRef := ⟨.hlth, 0⟩
/-- The SLQP page. -/
def slqpPage : PageRef := ⟨.slqp, 0⟩

/-- Notices to HLTH (R438). -/
inductive Notice where
  /-- A poisoned word was consumed, by the unit of a page. -/
  | consumed (page : PageRef)
  | unbacked
  | auditLost
  | remapFull
  | flashRo
  | peerLost (node : Nat)
deriving DecidableEq, Repr

/-- A notice advances its counter, raises its event and fills its record (R438). -/
def healthNotice : Notice → Act
  | .consumed p => look fun s =>
    let l := pageLoc s p
    acts [incF HLTH_HLCNT 1 0 4,
      setF HLTH_CREC_VALID 1, setF HLTH_CREC_LOC l.1, setF HLTH_CREC_PAGE l.2, setF HLTH_CONS_AT (curInstant s),
      raiseEvt hlthPage (2 ^ 19)]
  | .unbacked => acts [incF HLTH_HLCNT 1 0 5, raiseEvt hlthPage (2 ^ 24)]
  | .auditLost => acts [incF HLTH_HLCNT 1 0 7, raiseEvt hlthPage (2 ^ 21)]
  | .remapFull => acts [incF HLTH_HLCNT 1 0 8, raiseEvt hlthPage (2 ^ 23)]
  | .flashRo => acts [incF HLTH_HLCNT 1 0 9, raiseEvt hlthPage (2 ^ 22)]
  | .peerLost n => acts [incF HLTH_HLCNT 1 0 6, setF HLTH_PLOST_VALID 1, setF HLTH_PLOST_NODE n,
      raiseEvt hlthPage (2 ^ 20)]

/-- Own node ID (R354). -/
def nodeId (s : State) : Nat := fv s LINK_NODE_ID

/-- Saturating 32-bit counter of a repeated counter register. -/
def cnt (f : Fld) (n : Nat) (idx : Nat := 0) : Act := incF f 1 idx n

/-- The service level (HLTH.LEVEL). -/
def level (s : State) : Nat := fv s HLTH_LEVEL

/-- A page's ENABLE (R30). -/
def enabled (s : State) (p : PageRef) : Bool := fb s (hdrEnable p.blk) p.idx

/-- A soft reset of the page is in progress (R49). -/
def inSrst (s : State) (p : PageRef) : Bool := fb s (hdrSrst p.blk) p.idx

/-- A physical tile's hidden state. -/
def tileSt (s : State) (p : Nat) : Tile := mapGet tileDefault s.tiles p

/-- A physical tile's hidden state changes. -/
def updTile (p : Nat) (f : Tile → Tile) : Act := look fun s => upd (.tile p (f (tileSt s p)))

/-- The press logic's state changes. -/
def updPress (f : Press → Press) : Act := look fun s => upd (.press (f s.press))

/-- The units' state changes. -/
def updUnits (f : Units → Units) : Act := look fun s => upd (.units (f s.units))

end Sys2Proof.Machine
end

