-- ==== Sys2Proof/Machine/Link.lean ====
section
/-! DEFINITION. The fabric below the commands: topology and cabling (R354 to R357), routing (R358, R359, R462), sending
under credits (R349, R351), refusals, and a link going down (R363). -/

namespace Sys2Proof.Machine

/-! ### Topology -/

/-- What TOPO.MODE fixes (R355): members, links per stook hop, field links, system links. -/
structure Topo where
  m : Nat
  pair : Nat
  f : Nat
  y : Nat
deriving DecidableEq, Repr

/-- The topology of a TOPO.MODE. -/
def topoOf : Nat → Topo
  | 1 => ⟨16, 2, 3, 1⟩
  | 2 => ⟨8, 1, 3, 1⟩
  | _ => ⟨16, 1, 6, 2⟩

/-- The topology in force. -/
def topo (s : State) : Topo := topoOf (fv s LINK_TMODE)

/-- Field of a node ID. -/
def nodeField (n : Nat) : Nat := bits n 13 10
/-- Stook slot of a node ID. -/
def nodeSlot (n : Nat) : Nat := bits n 9 4
/-- Member of a node ID. -/
def nodeMember (n : Nat) : Nat := bits n 3 0
/-- A spare's own ID. -/
def isSpareId (n : Nat) : Bool := decide (48 ≤ nodeSlot n)
/-- The stook of a node ID: for a spare, the one it serves (R354, R462). -/
def nodeStook (n : Nat) : Nat := if isSpareId n then (nodeSlot n - 48) * 16 + nodeMember n else nodeSlot n
/-- The node ID of a member. -/
def memberId (f s m : Nat) : Nat := f * 1024 + s * 16 + m
/-- The node ID of a stook's spare. -/
def spareId (f s : Nat) : Nat := f * 1024 + (48 + s / 16) * 16 + s % 16

/-- R354 assigns a node ID under a topology with `ns` stooks a field and `nf` fields. -/
def nodeAssigned (t : Topo) (ns nf n : Nat) : Bool :=
  decide (n < 2 ^ 14) && decide (nodeField n < nf) && decide (nodeStook n < ns) &&
    (isSpareId n || decide (nodeMember n < t.m))

/-- HOME_ID. -/
def homeId (s : State) : Nat := fv s LINK_HOME_ID
/-- Stooks per field. -/
def topoNs (s : State) : Nat := fv s LINK_NS
/-- Fields. -/
def topoNf (s : State) : Nat := fv s LINK_NF

/-- First field link. -/
def fieldBase (t : Topo) : Nat := t.m * t.pair
/-- First system link. -/
def systemBase (t : Topo) : Nat := t.m * t.pair + t.f

/-- Copies of each field pair (R357). -/
def fieldCopies (t : Topo) (ns : Nat) : Nat := if 2 * (ns - 1) ≤ t.m * t.f then 2 else 1

/-- The role of a device link (R355 to R357, R367): 0 UNUSED, 1 STOOK_PEER, 2 STOOK_SPARE, 3 FIELD, 4 SYSTEM. -/
def linkRole (t : Topo) (ns nf home l : Nat) : Nat :=
  if l < fieldBase t then (if isSpareId home || l / t.pair + 1 = t.m then 2 else 1)
  else if isSpareId home then 0
  else if l < systemBase t then
    (if (l - fieldBase t) * t.m + nodeMember home < fieldCopies t ns * (ns - 1) then 3 else 0)
  else if l < systemBase t + t.y then (if 1 < nf then 4 else 0)
  else 0

/-- The field distance of a system link of a member (R357). -/
def systemDist (t : Topo) (nf stook m j : Nat) : Nat := 1 + (t.y * (t.m * stook + m) + j) % (nf - 1)

/-- Stook `k` in ascending order among those other than `s`. -/
def stookOfRank (s k : Nat) : Nat := if k < s then k else k + 1
/-- The rank of stook `t` among those other than `s`. -/
def rankOfStook (s t : Nat) : Nat := if t < s then t else t - 1

/-- The node and link a device link is cabled to (R356, R357). -/
def cabledTo (t : Topo) (ns nf home l : Nat) : Option (Nat × Nat) :=
  let f := nodeField home
  let s := nodeStook home
  let m := nodeMember home
  let i := l / t.pair
  match linkRole t ns nf home l with
  | 1 =>
    let p := if i < m then i else i + 1
    some (memberId f s p, t.pair * (if m < p then m else m - 1) + l % t.pair)
  | 2 =>
    if isSpareId home then some (memberId f s i, t.pair * (t.m - 1) + l % t.pair)
    else some (spareId f s, t.pair * m + l % t.pair)
  | 3 =>
    let q := (l - fieldBase t) * t.m + m
    let o := stookOfRank s (q % (ns - 1))
    let q' := q / (ns - 1) * (ns - 1) + rankOfStook o s
    some (memberId f o (q' % t.m), fieldBase t + q' / t.m)
  | 4 => some (memberId (f ^^^ systemDist t nf s m (l - systemBase t)) s m, l)
  | _ => none

/-! ### Routing -/

/-- A device link's hidden state. -/
def linkSt (s : State) (i : Nat) : LinkSt := mapGet linkDefault s.links i

/-- A device link's hidden state changes. -/
def updLink (i : Nat) (f : LinkSt → LinkSt) : Act := look fun s => upd (.link i (f (linkSt s i)))

/-- The fabric's hidden state changes. -/
def updFab (f : Fab → Fab) : Act := look fun s => upd (.fab (f s.fab))

/-- A link carries routed messages: UP and in the routing sets. -/
def linkLive (s : State) (i : Nat) : Bool := linkState s i == 2 && (linkSt s i).joined

/-- An outer link of a member of this stook is up (R359). -/
def outerLinkUp (s : State) (m l : Nat) : Bool :=
  if m = nodeMember (nodeId s) ∧ !isSpareId (nodeId s) then !isSpareId (homeId s) && linkLive s l
  else s.fab.outerUp.contains (m, l)

/-- System links of this stook to a field that are up: member and link, in order (R358). -/
def systemSet (s : State) (fd : Nat) : List (Nat × Nat) :=
  let t := topo s
  if topoNf s ≤ 1 then [] else
  (List.range t.m).flatMap fun m => (List.range t.y).filterMap fun j =>
    if nodeField (nodeId s) ^^^ systemDist t (topoNf s) (nodeStook (nodeId s)) m j = fd ∧
      outerLinkUp s m (systemBase t + j) then some (m, systemBase t + j) else none

/-- Field links of this stook to another stook that are up (R358). -/
def fieldSet (s : State) (o : Nat) : List (Nat × Nat) :=
  let t := topo s
  let n := topoNs s - 1
  (List.range t.m).flatMap fun m => (List.range t.f).filterMap fun j =>
    let q := j * t.m + m
    if q < fieldCopies t (n + 1) * n ∧ q % n = rankOfStook (nodeStook (nodeId s)) o ∧
      outerLinkUp s m (fieldBase t + j) then some (m, fieldBase t + j) else none

/-- A member's ID is remapped to the spare link now (R365). -/
def remapped (s : State) (m : Nat) : Bool := s.fab.remaps.any fun r => r.member == m && decide (r.from_ ≤ s.press.imp)

/-- The position of a stook hop to a member (R356, R365), `none` for the spare. -/
def stookPos (s : State) : Option Nat → Nat
  | none => (topo s).m - 1
  | some m =>
    if isSpareId (homeId s) then m
    else if remapped s m then (topo s).m - 1
    else if m < nodeMember (homeId s) then m else m - 1

/-- The live link of a stook hop: of a pair, the one the key names, else the other (R358). -/
def stookHop (s : State) (key : Nat) (dest : Option Nat) : Option Nat :=
  let p := (topo s).pair
  let i := stookPos s dest
  ((List.range p).map fun b => p * i + (key + b) % p).find? (linkLive s)

/-- `choose` of R358. -/
def chooseHop (key : Nat) (l : List (Nat × Nat)) : Option (Nat × Nat) := if l.isEmpty then none else l[key % l.length]?

/-- The hop of a message: its link and phase; none where there is no route (R358, R359). -/
def route (s : State) (src dst : Nat) : Option (Nat × Nat) :=
  let me := nodeId s
  let key := src + dst
  let via := fun (set : List (Nat × Nat)) (ph : Nat) =>
    match chooseHop key set with
    | none => none
    | some e =>
      if e.1 = nodeMember me ∧ !isSpareId me then some (e.2, ph + 1)
      else (stookHop s key (some e.1)).map fun l => (l, ph)
  if nodeField me ≠ nodeField dst then via (systemSet s (nodeField dst)) 0
  else if nodeStook me ≠ nodeStook dst then via (fieldSet s (nodeStook dst)) 2
  else if me ≠ dst then
    (stookHop s key (if isSpareId dst then none else some (nodeMember dst))).map fun l => (l, 4)
  else none

/-- A message to a node would find a route. -/
def reachable (s : State) (dst : Nat) : Bool := (route s (nodeId s) dst).isSome

/-! ### Sending -/

/-- The pool of a virtual channel and phase on a link (R351). -/
def poolOf (s : State) (l vc phase : Nat) : Nat :=
  if fv s LINK_LROLE l = 1 ∨ fv s LINK_LROLE l = 2 then 3 * vc + phase / 2 else vc

/-- Flits a pool of a link may still send (R348, R351). -/
def credit (s : State) (l pool : Nat) : Nat :=
  (64 + mapGet (fun _ => 0) (linkSt s l).granted pool + 65536 - mapGet (fun _ => 0) (linkSt s l).sent pool) % 65536

/-- A waiting message of a link may send flits: its pool has credit, and no other message of its channel is partly sent
(R346, R351). -/
def maySend (s : State) (l : Nat) (x : Nat × FabMsg) : Bool :=
  decide (0 < credit s l (poolOf s l x.2.vc x.2.phase)) &&
    (decide (x.1 < x.2.flits) || (linkSt s l).waiting.all fun y => y.2.vc != x.2.vc || y.1 == y.2.flits)

/-- Waiting messages of a link are sent as far as credits allow. -/
def pump (l : Nat) : Nat → Act
  | 0 => .done
  | n + 1 => look fun s =>
    let st := linkSt s l
    match st.waiting.findIdx? (maySend s l) with
    | none => .done
    | some i =>
      let x := st.waiting.getD i (0, ⟨0, 0, 0, 0, 0, .none, .writeAck⟩)
      let p := poolOf s l x.2.vc x.2.phase
      let k := min x.1 (credit s l p)
      acts [updLink l fun st => { st with
          txSeq := (st.txSeq + k) % 65536
          sent := mapSet (fun _ => 0) st.sent p ((mapGet (fun _ => 0) st.sent p + k) % 65536)
          store := if x.1 = x.2.flits then st.store ++ [(st.txSeq, x.2)] else st.store
          waiting := if k = x.1 then st.waiting.eraseIdx i else st.waiting.modify i fun y => (y.1 - k, y.2) },
        onlyIf (k == x.1) (emit (.message l x.2)),
        pump l n]

/-- A message joins a link's waiting messages. -/
def enqueue (l : Nat) (m : FabMsg) : Act :=
  acts [updLink l fun st => { st with waiting := st.waiting ++ [(m.flits, m)] },
    look fun s => pump l (2 * (linkSt s l).waiting.length)]

/-- Events of the device-wide conditions, on every LINK page (log entry 24). -/
def raiseLinks (mask : Nat) : Act := look fun s => each (List.range (nLinks s.build)) fun l => raiseEvt ⟨.link, l⟩ mask

/-- A message finds no route (R359). -/
def noRoute : Act := acts [cnt LINK_LDCNT 0, raiseLinks (2 ^ 21)]

/-- The code of NO_ROUTE. -/
def cNoRoute : Nat := 0x91
/-- The code of LINK_DOWN. -/
def cLinkDown : Nat := 0x90

/-- An operation in flight learns that an access of it was refused: BUS_ERROR and the code (R97, R244, R359). -/
def opRefused (o : Origin) (code : Nat) : Act :=
  match o with
  | .op p q seq => updTile p fun t => { t with queues := modAt 7 ⟨[], 0, [], []⟩ t.queues q fun x => { x with
      inflight := x.inflight.map fun f =>
        if f.seq = seq then { f with flags := f.flags ||| 2, aux := if f.aux = 0 then code else f.aux } else f } }
  | _ => .done

/-- Whether a message is answered with a refusal: a refusal and an acknowledgement are not. -/
def refusable : FabBody → Bool
  | .refusal _ | .writeAck | .winnAnswer _ _ | .readResp _ _ _ => false
  | _ => true

/-- A message is refused: its source unit here, or its source device, learns the code (R359, R363). -/
def refuseMsg (m : FabMsg) (code : Nat) : Act :=
  look fun s =>
    if !refusable m.body then .done
    else if m.src = nodeId s then opRefused m.origin code
    else
      let r : FabMsg := ⟨m.src, nodeId s, 0, 0, 1, m.origin, .refusal code⟩
      match route s (nodeId s) m.src with
      | none => noRoute
      | some h => enqueue h.1 { r with phase := h.2 }

/-- A message takes its next hop: `via` is the phase it was received at, none for this device's own. A stook hop at a
phase not higher than that is refused (R359). -/
def forwardMsg (m : FabMsg) (via : Option Nat) : Act :=
  look fun s =>
    match route s m.src m.dst with
    | none => acts [noRoute, refuseMsg m cNoRoute]
    | some h =>
      if h.2 % 2 == 0 && (match via with | some p => decide (h.2 ≤ p) | none => false) then
        acts [noRoute, refuseMsg m cNoRoute]
      else enqueue h.1 { m with phase := h.2 }

/-- Bytes of a message's class body (R346); log entry 25 for those the manual does not lay out. -/
def bodyBytes : FabBody → Nat
  | .token _ _ _ => 16
  | .ready _ => 8
  | .sheaf (.block _ _ _ _ _ w _ mm cls vals _) => 24 + cls.length / 4 + (if mm then 0 else vals.length * w / 8)
  | .sheaf (.shard _ _ _ data _) => 24 + data.length
  | .sheaf _ => 24
  | .verified _ _ _ _ => 32
  | .writeAck => 8
  | .refusal _ => 8
  | .assume _ _ _ => 16
  | .readReq _ _ => 16
  | .readResp _ data _ => 8 + data.length
  | .write _ data _ => 8 + data.length
  | .winn m => 16 + m.payload.length
  | .winnAnswer _ _ => 24
  | .opaqueBytes data => data.length

/-- The virtual channel of a message's class (R350). -/
def bodyVc : FabBody → Nat
  | .readReq _ _ => 1
  | .readResp _ _ _ => 2
  | .write _ _ _ => 3
  | .sheaf (.block _ _ _ _ _ _ _ _ _ _ _) | .sheaf (.shard _ _ _ _ _) => 4
  | .winn _ => 5
  | _ => 0

/-- A message of this device is sent (R346, R358). -/
def sendMsg (dst : Nat) (o : Origin) (b : FabBody) : Act :=
  look fun s => forwardMsg ⟨dst, nodeId s, bodyVc b, 0, ceilDiv (8 + bodyBytes b) 248, o, b⟩ none

/-- Pieces of at most 16 KiB of a run of bytes from an address: offset and length (log entry 25). -/
def pieces (n : Nat) : List (Nat × Nat) := (List.range (ceilDiv n 16384)).map fun i => (i * 16384, min 16384 (n - i * 16384))

/-- A run of bytes is written to another device. -/
def sendWrite (dst : Nat) (o : Origin) (addr : Nat) (bs : List Byte) : Act :=
  each (pieces bs.length) fun p => sendMsg dst o (.write (addr + p.1) ((bs.drop p.1).take p.2) [])

/-- A run of bytes is written to another device with the marks it carries (R329). -/
def sendWriteMarked (dst : Nat) (o : Origin) (addr : Nat) (bs : List (Byte × Bool)) : Act :=
  each (pieces bs.length) fun p =>
    let x := (bs.drop p.1).take p.2
    sendMsg dst o (.write (addr + p.1) (x.map Prod.fst) (x.map Prod.snd))

/-- A run of bytes is asked of another device. -/
def sendRead (dst : Nat) (o : Origin) (addr n : Nat) : Act :=
  each (pieces n) fun p => sendMsg dst o (.readReq (addr + p.1) p.2)

/-! ### Links rising and falling -/

/-- The page of a device link. -/
def linkPg (l : Nat) : PageRef := ⟨.link, l⟩

/-- A link is an outer one. -/
def outerRole (s : State) (l : Nat) : Bool := decide (3 ≤ fv s LINK_LROLE l)

/-- A link enters the routing sets (R360, R363). -/
def linkJoin (l : Nat) : Act :=
  look fun s => onlyIf (!(linkSt s l).joined) (acts [
    updLink l fun st => { st with joined := true, needAdmit := false },
    cnt LINK_LDCNT 1, onlyIf (outerRole s l) (emit (.notice l true))])

/-- Every link to a link's far end is down (R363). -/
def peerGone (s : State) (l : Nat) : Bool :=
  fb s LINK_FAR_VALID l && (List.range (nLinks s.build)).all fun j =>
    !(fb s LINK_FAR_VALID j && fv s LINK_FAR_NODE j == fv s LINK_FAR_NODE l && linkState s j == 2)

/-- A link that carries traffic goes DOWN (R363). -/
def linkDownCore (l : Nat) : Act :=
  look fun s =>
    let st := linkSt s l
    acts [
      setF LINK_LSTATE 3 l, setF LINK_LANES 0 l, setF LINK_RETRAINING 0 l,
      cnt LINK_LCNT 5 l, raiseEvt (linkPg l) (2 ^ 16),
      updLink l fun x => { LinkSt.init with needAdmit := true, turn := x.turn },
      onlyIf st.joined (acts [cnt LINK_LDCNT 1, onlyIf (outerRole s l) (emit (.notice l false))]),
      each st.store fun x => acts [cnt LINK_LDCNT 2, refuseMsg x.2 cLinkDown],
      look fun t => onlyIf (peerGone t l) (healthNotice (.peerLost (fv t LINK_FAR_NODE l))),
      each (st.waiting.filter fun x => x.1 == x.2.flits) fun x => forwardMsg x.2 none]

end Sys2Proof.Machine
end

