-- ==== Sys2Proof/Machine/Mem.lean ====
section
/-! DEFINITION. The memories: where every local address lies, the check codes and what a read finds (R323 to R329),
correction, marking, remapping and logging (R328, R333, R334, R339), and writes with their initialisation rules, fault
injection and marks (R96, R306, R331, R338). -/

namespace Sys2Proof.Machine

/-- A memory whose bytes the model holds. -/
inductive MemUnit where
  | hbm (site : Nat)
  | galley (phys : Nat)
  | imem (phys : Nat)
  | dmem (phys : Nat)
  /-- Program memory of an Update Engine (R323). -/
  | prog (site : Nat)
deriving DecidableEq, Repr

/-- The key of a memory's first byte in `State.mem`. -/
def muBase : MemUnit → Nat
  | .hbm n => n * 2 ^ 36
  | .galley p => 0xFE00_0000_0000 + p * 0x20_0000
  | .imem p => 0xFE00_4000_0000 + p * 0x2_0000
  | .dmem p => 0xFE00_4001_0000 + p * 0x2_0000
  | .prog n => 2 ^ 53 + n * 0x10000

/-- A memory's bytes. -/
def muSize : MemUnit → Nat
  | .hbm _ => Config.hbmBytes
  | .galley _ => Config.galleyBytes
  | .imem _ | .dmem _ => 0x10000
  | .prog _ => 0x4000

/-- The instance of the INTG page that owns a memory (R323). -/
def muIntg : MemUnit → Nat
  | .hbm n | .prog n => 176 + n
  | .galley p | .imem p | .dmem p => p

/-- A memory's select code on its INTG page (R323). -/
def muSel : MemUnit → Nat
  | .hbm _ => 0
  | .galley _ => 0
  | .imem _ => 1
  | .dmem _ => 2
  | .prog _ => 2

/-- Whether a memory carries one check code per byte (galley memory, R323). -/
def muBytewise : MemUnit → Bool
  | .galley _ => true
  | _ => false

/-- A memory's address as its log and remap entries hold it: local address for HBM, byte offset otherwise (R339). -/
def muLogAddr (u : MemUnit) (off : Nat) : Nat :=
  match u with
  | .hbm n => n * 2 ^ 36 + off
  | _ => off

/-- The memory and byte offset of a local address: HBM (R303), galley memory, IMEM and DMEM of presented tiles
(R94). -/
def locate (s : State) (a : Nat) : Option (MemUnit × Nat) :=
  if a < 12 * 2 ^ 36 then
    let n := a / 2 ^ 36
    let o := a % 2 ^ 36
    if isHbmSite s.build n && decide (o < Config.hbmBytes) then some (.hbm n, o) else none
  else if 0xFE00_0000_0000 ≤ a ∧ a < 0xFE00_0000_0000 + 144 * 0x20_0000 then
    let o := a - 0xFE00_0000_0000
    some (.galley (physOf s (o / 0x20_0000)), o % 0x20_0000)
  else if 0xFE00_4000_0000 ≤ a ∧ a < 0xFE00_4000_0000 + 144 * 0x2_0000 then
    let o := a - 0xFE00_4000_0000
    let p := physOf s (o / 0x2_0000)
    if o % 0x2_0000 < 0x10000 then some (.imem p, o % 0x10000) else some (.dmem p, o % 0x10000)
  else none

/-- Whether the memory behind a local address is in service (R303, R12). -/
def memInService (s : State) : MemUnit → Bool
  | .hbm n | .prog n => hbmInService s n
  | .galley p | .imem p | .dmem p =>
    let k := slotOf s p
    if k < 144 then tileBacked s k else unitUp s (.tile p)

/-! ### Check codes (R324 to R326) -/

/-- The columns of data bits 0 to 63 of the (72,64) code (R324). -/
def cols72 : List Nat :=
  (rangeF 256 fun v => popcount 8 v == 3) ++ [0x1F, 0x3E, 0x7C, 0xF8, 0xF1, 0xE3, 0xC7, 0x8F]

/-- The columns of data bits 0 to 7 of the byte code (R325). -/
def cols8 : List Nat := [0x07, 0x0B, 0x0D, 0x0E, 0x13, 0x15, 0x16, 0x19]

/-- The exclusive-or of the columns of the 1 bits of a value. -/
def checkOf (cols : List Nat) (v : Nat) : Nat :=
  (cols.foldl (fun (acc : Nat × Nat) c => (if acc.2 % 2 = 1 then acc.1 ^^^ c else acc.1, acc.2 / 2)) (0, v)).1

/-- What a syndrome says of a word or byte (R326). -/
inductive Found where
  | clean
  /-- Correctable, with the data bit to invert, if the bit is a data bit. -/
  | corr (bit : Option Nat)
  | poisoned
  | uncorr
deriving DecidableEq, Repr

/-- The poison syndrome of a memory (R326). -/
def poisonSyn (bytewise : Bool) : Nat := if bytewise then 0x1F else 0x7F

/-- Classification of a syndrome (R326). -/
def classify (bytewise : Bool) (syn : Nat) : Found :=
  if syn = 0 then .clean
  else if syn = poisonSyn bytewise then .poisoned
  else
    match (if bytewise then cols8 else cols72).findIdx? (· == syn) with
    | some i => .corr (some i)
    | none => if popcount 8 syn = 1 then .corr none else .uncorr

/-- The stored syndrome at a key. -/
def synAt (s : State) (k : Nat) : Nat := mapGet synDefault s.syn k

/-- A stored byte. -/
def rawByte (s : State) (k : Nat) : Byte := mapGet memDefault s.mem k

/-- The stored 64-bit word at a key. -/
def rawWord (s : State) (k : Nat) : Nat := leNat (mapRead memDefault s.mem k 8)

/-- The word a (72,64) memory delivers: corrected where correctable (R326). -/
def deliverWord (s : State) (k : Nat) : Nat :=
  match classify false (synAt s k) with
  | .corr (some i) => rawWord s k ^^^ 2 ^ i
  | _ => rawWord s k

/-- The byte a memory delivers. -/
def deliverByte (s : State) (u : MemUnit) (off : Nat) : Byte :=
  let k := muBase u + off
  if muBytewise u then
    match classify true (synAt s k) with
    | .corr (some i) => rawByte s k ^^^ BitVec.ofNat 8 (2 ^ i)
    | _ => rawByte s k
  else
    let w := k / 8 * 8
    if synAt s w = 0 then rawByte s k
    else BitVec.ofNat 8 (deliverWord s w / 256 ^ (k - w))

/-- Whether a finding marks its word (R327). -/
def marks : Found → Bool
  | .poisoned | .uncorr => true
  | _ => false

/-- Whether the 64-bit word that holds a byte reads as marked (R327). -/
def markedAt (s : State) (u : MemUnit) (off : Nat) : Bool :=
  if s.syn.isEmpty then false
  else
    let w := (muBase u + off) / 8 * 8
    if muBytewise u then (List.range 8).any fun i => marks (classify true (synAt s (w + i)))
    else marks (classify false (synAt s w))

/-- The bytes a memory delivers from an offset. -/
def readBytes (s : State) (u : MemUnit) (off n : Nat) : List Byte :=
  (List.range n).map fun i => deliverByte s u (off + i)

/-- The little-endian value a memory delivers. -/
def readLE (s : State) (u : MemUnit) (off n : Nat) : Nat := leNat (readBytes s u off n)

/-- Whether each byte of a range lies in a marked word. -/
def readMarks (s : State) (u : MemUnit) (off n : Nat) : List Bool :=
  (List.range n).map fun i => markedAt s u (off + i)

/-- Whether any word of a range reads as marked. -/
def anyMarked (s : State) (u : MemUnit) (off n : Nat) : Bool :=
  !s.syn.isEmpty && (List.range n).any fun i => markedAt s u (off + i)

/-! ### Initialisation modes (R96, R306) -/

/-- Whether a write-first entry of a site covers a block (R306). -/
def hbmWriteFirst (s : State) (site blk : Nat) : Bool :=
  (List.range 16).any fun r =>
    fb s HBMC_WF_VALID site r && decide (fv s HBMC_WF_BASE site r ≤ blk) &&
      decide (blk < fv s HBMC_WF_BASE site r + fv s HBMC_WF_BLOCKS site r)

/-- The valid region of a tile's GALY table that covers a 64 KiB granule: base, size, mode (R96). -/
def galleyRegion (s : State) (phys granule : Nat) : Option (Nat × Nat × Nat) :=
  ((List.range 8).find? fun r =>
    fb s GALY_RVALID phys r && decide (fv s GALY_RBASE phys r ≤ granule) &&
      decide (granule < fv s GALY_RBASE phys r + fv s GALY_RSIZE phys r)).map fun r =>
    (fv s GALY_RBASE phys r, fv s GALY_RSIZE phys r, fv s GALY_RMODE phys r)

/-- A memory of the device: one of 12 sites or of 160 physical tiles. -/
def muReal : MemUnit → Bool
  | .hbm n | .prog n => decide (n < 12)
  | .galley p | .imem p | .dmem p => decide (p < 160)

/-- Whether an offset of a memory lies in WRITE_FIRST storage. -/
def writeFirst (s : State) (u : MemUnit) (off : Nat) : Bool :=
  muReal u && match u with
  | .hbm n => hbmWriteFirst s n (off / 4096)
  | .galley p => match galleyRegion s p (off / 0x10000) with
    | some r => r.2.2 == 1
    | none => false
  | _ => false

/-- Bytes of a block or line: the unit of initialisation of a memory. -/
def initUnit : MemUnit → Nat
  | .hbm _ => 4096
  | _ => 64

/-- The key of the written bit of the block or line that holds an offset. -/
def blockKey (u : MemUnit) (off : Nat) : Nat := 2 ^ 60 + muBase u + off / initUnit u * initUnit u

/-- Whether storage has been written: its block or line, or its own WRITE_FIRST word or byte. -/
def isWritten (s : State) (u : MemUnit) (off : Nat) : Bool :=
  mapGet writtenDefault s.written (blockKey u off) ||
    mapGet writtenDefault s.written (if muBytewise u then muBase u + off else (muBase u + off) / 8 * 8)

/-- Whether a memory has initialisation modes. -/
def hasModes : MemUnit → Bool
  | .hbm _ | .galley _ => true
  | _ => false

/-! ### Error accounting (R328, R333, R334, R339) -/

/-- The INTG page of an instance. -/
def intgPage (i : Nat) : PageRef := ⟨.intg, i⟩

/-- An entry of the error log (R339). -/
def logEntry (intg kind mem addr syn : Nat) : Act :=
  look fun s =>
    let n := fv s INTG_LOG_HEAD intg
    let k := n % 16
    acts [setF INTG_LOG (curInstant s) intg (2 * k),
      setF INTG_LOG (addr % 2 ^ 48 + mem * 2 ^ 48 + kind * 2 ^ 52 + syn * 2 ^ 56) intg (2 * k + 1),
      setF INTG_LOG_HEAD ((n + 1) % 2 ^ 32) intg]

/-- The page whose POISONED bit shows a memory's marks (R331). -/
def poisonPage : MemUnit → Option PageRef
  | .hbm n => some ⟨.hbmc, n⟩
  | .galley p => some ⟨.galy, p⟩
  | _ => none

/-- A mark was written or found in a memory: PAGE_STS.POISONED and EVT_PEND.POISON of its page (R31, R34, R331). -/
def noteMark (u : MemUnit) : Act :=
  match poisonPage u with
  | some p => look fun s =>
    onlyIf (!fb s (hdrPoisoned p.blk) p.idx) (acts [setF (hdrPoisoned p.blk) 1 p.idx, raiseEvt p evPoison])
  | none => .done

/-- Bytes of a remap entry: a 32-byte granule of HBM, a 64-byte galley line (R334). -/
def remapUnit : MemUnit → Nat
  | .hbm _ => 32
  | _ => 64

/-- Whether a memory has remap entries (R334). -/
def hasRemap : MemUnit → Bool
  | .hbm _ | .galley _ => true
  | _ => false

/-- Whether a granule or line is served by a remap entry. -/
def isRemapped (s : State) (intg addr : Nat) : Bool :=
  (List.range 32).any fun r => fb s INTG_REMAP_VALID intg r && fv s INTG_REMAP_ADDR intg r == addr

/-- A granule or line is remapped into a free entry, or REMAP_FULL is logged (R334). -/
def remap (u : MemUnit) (off : Nat) : Act :=
  look fun s =>
    let i := muIntg u
    let a := muLogAddr u (off / remapUnit u * remapUnit u)
    if !hasRemap u || isRemapped s i a then .done
    else
      match (List.range 32).find? fun r => !fb s INTG_REMAP_VALID i r with
      | some r => acts [setF INTG_REMAP_VALID 1 i r, setF INTG_REMAP_ADDR a i r,
          setF INTG_REMAP_USED (fv s INTG_REMAP_USED i + 1) i, upd (.repair (s.nv.repairs ++ [(i, a)])),
          logEntry i 5 (muSel u) a 0, raiseEvt (intgPage i) (2 ^ 20)]
      | none => acts [cnt INTG_ICNT 4 i, logEntry i 6 (muSel u) a 0, raiseEvt (intgPage i) (2 ^ 21),
          healthNotice .remapFull]

/-- How many granules or lines a candidate list holds (R334). -/
def candMax : MemUnit → Nat
  | .hbm _ => 64
  | _ => 16

/-- A correctable error's effect on the candidate list: a second one remaps (R334). -/
def candidate (u : MemUnit) (off : Nat) : Act :=
  look fun s =>
    let i := muIntg u
    let a := muLogAddr u (off / remapUnit u * remapUnit u)
    let l := mapGet candDefault s.cands i
    if !hasRemap u then .done
    else if l.contains a then remap u off
    else upd (.cands i ((if candMax u ≤ l.length then l.drop 1 else l) ++ [a]))

/-- A corrected word's accounting (R333). -/
def noteCE (u : MemUnit) (off syn : Nat) : Act :=
  acts [cnt INTG_ICNT 0 (muIntg u), logEntry (muIntg u) 1 (muSel u) (muLogAddr u off) syn,
    raiseEvt (intgPage (muIntg u)) (2 ^ 16), candidate u off]

/-- An uncorrectable word's accounting (R328). -/
def noteUE (u : MemUnit) (off syn : Nat) : Act :=
  acts [cnt INTG_ICNT 1 (muIntg u), logEntry (muIntg u) 2 (muSel u) (muLogAddr u off) syn,
    raiseEvt (intgPage (muIntg u)) (2 ^ 17), noteMark u, remap u off]

/-- The classes of the eight bytes of a galley word. -/
def galleyWord (s : State) (k : Nat) : List Found := (List.range 8).map fun i => classify true (synAt s (k + i))

/-- What a read finds in the 64-bit word at an offset (R326; for galley memory R327, R328, R333), with the syndrome its
log entry carries. -/
def foundWord (s : State) (u : MemUnit) (off : Nat) : Found × Nat :=
  let k := muBase u + off
  if muBytewise u then
    let cs := galleyWord s k
    match cs.findIdx? (· == .uncorr) with
    | some i => (.uncorr, synAt s (k + i))
    | none =>
      if cs.contains .poisoned then (.poisoned, 0)
      else match cs.findIdx? (fun c => c != .clean) with
        | some i => (.corr none, synAt s (k + i))
        | none => (.clean, 0)
  else (classify false (synAt s k), synAt s k)

/-- A read of the 64-bit word at an offset: correction or marking, write-back, accounting (R328, R333). -/
def touchWord (u : MemUnit) (off : Nat) : Act :=
  look fun s =>
    let k := muBase u + off
    match foundWord s u off with
    | (.clean, _) => .done
    | (.poisoned, _) => acts [onlyIf (muBytewise u) (upd (.syn k (List.replicate 8 0x1F))), noteMark u]
    | (.corr _, syn) =>
      if muBytewise u then
        acts [upd (.mem k (readBytes s u off 8)), upd (.syn k (List.replicate 8 0)), noteCE u off syn]
      else acts [upd (.mem k (leBytes 8 (deliverWord s k))), upd (.syn k [0]), noteCE u off syn]
    | (.uncorr, syn) =>
      acts [upd (.syn k (if muBytewise u then List.replicate 8 0x1F else [0x7F])), noteUE u off syn]

/-- Words of a range: their offsets. HBM is read in whole 32-byte bursts (R304). -/
def wordsOf (u : MemUnit) (off n : Nat) : List Nat :=
  if n = 0 then []
  else
    let g := match u with | .hbm _ => 32 | _ => 8
    let a := off / g * g
    (List.range ((roundUp (off + n) g - a) / 8)).map fun i => a + 8 * i

/-- The contents a read finds in WRITE_FIRST storage that has not been written: free values, data and check (R96,
R306). They stay what they were found to be. -/
def materialise (u : MemUnit) (off : Nat) : Act :=
  look fun s =>
    if !hasModes u || !writeFirst s u off then .done
    else if muBytewise u then
      each ((List.range 8).filter fun i => !isWritten s u (off + i)) fun i =>
        withFree fun v => acts [upd (.mem (muBase u + off + i) [BitVec.ofNat 8 v]),
          upd (.syn (muBase u + off + i) [v / 256 % 32]), upd (.written (muBase u + off + i) [true])]
    else if isWritten s u off then .done
    else withFree fun d => withFree fun c => acts [upd (.mem (muBase u + off) (leBytes 8 d)),
      upd (.syn (muBase u + off) [c % 256]), upd (.written (muBase u + off) [true])]

/-- Whether any storage of a memory can need `materialise`. -/
def anyWriteFirst (s : State) (u : MemUnit) : Bool :=
  muReal u && match u with
  | .hbm n => (List.range 16).any fun r => fb s HBMC_WF_VALID n r
  | .galley p => (List.range 8).any fun r => fb s GALY_RVALID p r && fb s GALY_RMODE p r
  | _ => false

/-- What a read of a range does to the memory: every word is classified, corrected or marked, and written back (R328,
R333). The data a requester then receives are `readBytes` and `readMarks`. -/
def touch (u : MemUnit) (off n : Nat) : Act :=
  look fun s =>
    if s.syn.isEmpty && !anyWriteFirst s u then .done
    else each (wordsOf u off n) fun w => acts [materialise u w, touchWord u w]

/-! ### Writes (R96, R306, R331, R338) -/

/-- The armed fault mask of a memory, if a candidate write would take it (R338). -/
def flipArmed (s : State) (u : MemUnit) : Bool :=
  muReal u && fb s INTG_FLIP_ARMED (muIntg u) && fv s INTG_FLIP_TGT (muIntg u) == muSel u

/-- An armed mask is applied to the lowest-addressed word or byte just written (R338). -/
def applyFlip (u : MemUnit) (off : Nat) : Act :=
  look fun s =>
    let i := muIntg u
    let lo := fv s INTG_FLIP_LO i
    let hi := fv s INTG_FLIP_HI i
    acts [
      if muBytewise u then
        let k := muBase u + off
        acts [upd (.mem k [rawByte s k ^^^ BitVec.ofNat 8 lo]), upd (.syn k [checkOf cols8 (lo % 256) ^^^ hi % 32])]
      else
        let k := (muBase u + off) / 8 * 8
        acts [upd (.mem k (leBytes 8 (rawWord s k ^^^ lo))), upd (.syn k [checkOf cols72 lo ^^^ hi])],
      setF INTG_FLIP_ARMED 0 i,
      logEntry i 7 (muSel u) (muLogAddr u (if muBytewise u then off else off / 8 * 8)) 0,
      raiseEvt (intgPage i) (2 ^ 23)]

/-- Whether a write of `n` bytes at an offset covers the whole word that holds byte `o`. -/
def coversWord (off n o : Nat) : Bool := decide (off ≤ o / 8 * 8) && decide (o / 8 * 8 + 8 ≤ off + n)

/-- The syndromes a write leaves: a whole unmarked word loses its mark, a marked one takes it; in galley memory an
unmarked byte is clean and a mark stands on all eight bytes of its word (R327, R331). -/
def writeSyn (u : MemUnit) (off : Nat) (ms : List Bool) : Act :=
  let n := ms.length
  let base := muBase u
  if muBytewise u then
    acts [upd (.synClear (base + off) n),
      each ((wordsOf u off n).filter fun w => (List.range 8).any fun i =>
          decide (off ≤ w + i) && ms.getD (w + i - off) false) fun w =>
        upd (.syn (base + w) (List.replicate 8 0x1F))]
  else
    each ((wordsOf (.dmem 0) off n)) fun w =>
      let m := (List.range 8).any fun i => decide (off ≤ w + i) && ms.getD (w + i - off) false
      if m then upd (.syn (base + w) [0x7F])
      else if coversWord off n w then upd (.syn (base + w) [0])
      else .done

/-- A requester's write of bytes, each with or without the mark its word carried: initialisation, marks, fault
injection (R96, R306, R331, R338). -/
def memWrite (u : MemUnit) (off : Nat) (bs : List Byte) (ms : List Bool) : Act :=
  if bs.isEmpty then .done
  else look fun s =>
    let n := bs.length
    let base := muBase u
    acts [
      upd (.mem (base + off) bs),
      if s.syn.isEmpty && !ms.contains true then .done else writeSyn u off ms,
      onlyIf (hasModes u) (
        let g := initUnit u
        each ((List.range (ceilDiv (off % g + n) g)).map fun i => off / g * g + i * g) fun b =>
          if writeFirst s u b then
            each ((List.range g).filter fun i => decide (off ≤ b + i) && decide (b + i < off + n) &&
              (muBytewise u || i % 8 == 0)) fun i => upd (.written (base + b + i) [true])
          else upd (.written (blockKey u b) [true])),
      onlyIf (ms.contains true) (noteMark u),
      onlyIf (flipArmed s u && !ms.headD false) (applyFlip u off)]

/-- A write of unmarked bytes. -/
def memPut (u : MemUnit) (off : Nat) (bs : List Byte) : Act :=
  memWrite u off bs (List.replicate bs.length false)

/-- Storage becomes unwritten: ZERO_VALID storage reads zero from then on, with its marks gone; WRITE_FIRST storage
keeps its residue (R96, R306, R331). -/
def unwrite (u : MemUnit) (off n : Nat) : Act :=
  look fun s =>
    let base := muBase u
    let g := initUnit u
    acts [upd (.writtenClear (2 ^ 60 + base + off) n), upd (.writtenClear (base + off) n),
      if anyWriteFirst s u then
        each ((List.range (n / g)).filter fun i => !writeFirst s u (off + i * g)) fun i =>
          acts [upd (.memClear (base + off + i * g) g), upd (.synClear (base + off + i * g) g)]
      else acts [upd (.memClear (base + off) n), upd (.synClear (base + off) n)]]

/-! ### Consumption and export (R330, R332) -/

/-- The INTG page instance at the location of a page (R330). -/
def intgOf (p : PageRef) : Nat :=
  match p.blk with
  | .tile | .mtrx | .cova | .vect | .winn | .galy => p.idx
  | .solv => 160 + p.idx
  | .hbmc | .updt => 176 + p.idx
  | .shef => 188 + p.idx
  | _ => 200

/-- One consumption event of an operation (R330). -/
def consume (p : PageRef) (addr : Nat) : Act :=
  acts [raiseEvt p evPoison, cnt INTG_ICNT 2 (intgOf p), logEntry (intgOf p) 3 0xF addr 0,
    raiseEvt (intgPage (intgOf p)) (2 ^ 18), healthNotice (.consumed p)]

/-- Marked data was refused export at the sending unit's location (R332). -/
def refuseExport (intg addr : Nat) : Act :=
  acts [cnt INTG_ICNT 3 intg, logEntry intg 4 0xF addr 0, raiseEvt (intgPage intg) (2 ^ 19)]

end Sys2Proof.Machine
end

