-- ==== Sys2Proof/Machine/Tok.lean ====
section
/-! DEFINITION. Readiness (R57, R58), token counters (R90, R91), completion targets (R81) and the control core's event
input. -/

namespace Sys2Proof.Machine

/-! ### Readiness -/

/-- Own readiness for the current impression (R57): READY_CNT has reached READY_THRESH in it, or software forced it. -/
def ownReady (s : State) : Bool := s.press.synced && s.press.forced

/-- Own readiness comes to hold when READY_CNT reaches READY_THRESH (R57). -/
def checkOwn : Act :=
  look fun s => onlyIf (decide (fv s PRES_READY_THRESH ≤ fv s PRES_READY_CNT)) (updPress fun p => { p with forced := true })

/-- Readiness of this device and its subtree (R58). -/
def treeReady (s : State) : Bool := ownReady s && decide (fv s PRES_CHILDREN ≤ s.press.children)

/-- PRES.ROLE values (R75). -/
def roleFollower : Nat := 1
/-- BACKUP. -/
def roleBackup : Nat := 2
/-- MASTER. -/
def roleMaster : Nat := 3

/-- READY(N) goes to the parent once, when own readiness and all children's messages hold (R58). -/
def readySend : Act :=
  look fun s =>
    if treeReady s && fb s PRES_GATE_EN && fv s PRES_ROLE != roleMaster && !s.press.readySent then
      acts [updPress fun p => { p with readySent := true }, sendMsg (fv s PRES_PARENT) .none (.ready s.press.imp)]
    else .done

/-! ### Token counters -/

/-- A token counter's value on a physical tile. -/
def tok (s : State) (phys c : Nat) : Nat := fv s TILE_TOKEN phys c

/-- The TILE page of a physical tile. -/
def tilePg (phys : Nat) : PageRef := ⟨.tile, phys⟩

/-- An increment is applied to a counter, saturating, with the TOK_SAT record (R90). -/
def addToken (phys c amt : Nat) : Act :=
  look fun s =>
    let v := tok s phys c + amt
    acts [setF TILE_TOKEN (min v (2 ^ 20 - 1)) phys c,
      onlyIf (decide (2 ^ 20 ≤ v)) (acts [
        onlyIf (!fb s TILE_TSAT_VALID phys) (acts [setF TILE_TSAT_VALID 1 phys, setF TILE_TSAT_COUNTER c phys]),
        raiseEvt (tilePg phys) (2 ^ 18)])]

/-- A deduction from a counter at fire (R83, R90). -/
def subToken (phys c amt : Nat) : Act := look fun s => setF TILE_TOKEN (tok s phys c - amt) phys c

/-- A presented tile's accesses and increments wait: its state is being copied to a spare (R100 step 3), or its
physical tile is in quarantine (R435). -/
def tileHeld (s : State) (t : Nat) : Bool :=
  (s.units.subst.any fun x => x.tile == t && x.spare.isSome) ||
    s.units.quar.any fun q => q.unit == .tile (physOf s t)

/-- An increment reaches a presented tile ID (R91). -/
def deliverInc (t c amt : Nat) : Act :=
  look fun s =>
    if !tileBacked s t then healthNotice .unbacked
    else if tileHeld s t then updUnits fun u => { u with heldIncs := u.heldIncs ++ [(t, c, amt)] }
    else addToken (physOf s t) c amt

/-! ### Completion targets -/

/-- Fields of a completion target (R81). -/
def tgtCounter (t : Nat) : Nat := bits t 7 0
/-- TILE. -/
def tgtTile (t : Nat) : Nat := bits t 15 8
/-- NODE. -/
def tgtNode (t : Nat) : Nat := bits t 29 16
/-- KIND. -/
def tgtKind (t : Nat) : Nat := bits t 31 30
/-- INCR. -/
def tgtIncr (t : Nat) : Nat := bits t 51 32

/-- A KIND 1 target that names this device is a KIND 0 target (R81). -/
def tgtLocal (s : State) (t : Nat) : Bool := tgtKind t == 0 || (tgtKind t == 1 && tgtNode t == nodeId s)

/-- The failing checks of a completion target (R82). -/
def targetErrs (s : State) (t : Nat) : List ErrCode :=
  when (bits t 63 52 != 0) .rsvdSet ++
  when (tgtKind t == 3 || tgtIncr t == 0 || (tgtKind t != 2 && decide (143 < tgtTile t))) .fieldRange ++
  when (tgtLocal s t && decide (tgtTile t < 144) && !tileBacked s (tgtTile t)) .retiredUnit

/-- A completion target is sent: an increment on its way to a local tile, a message to another device, or readiness
counted in the press (R57, R81, R91). -/
def sendTarget (src t : Nat) : Act :=
  look fun s =>
    if tgtKind t = 2 then acts [incF PRES_READY_CNT (tgtIncr t), checkOwn, readySend]
    else if tgtLocal s t then
      upd (.flights (s.flights ++ [⟨src, tgtTile t, tgtCounter t, tgtIncr t⟩]))
    else if tgtKind t = 1 then sendMsg (tgtNode t) .none (.token (tgtTile t) (tgtCounter t) (tgtIncr t))
    else .done

/-- A target register's value: 0 names no target. -/
def sendTarget0 (src t : Nat) : Act := onlyIf (t != 0) (sendTarget src t)

/-- Sources of increments other than tiles (R91 orders each source's increments): a block at a location. -/
def srcOf (p : PageRef) : Nat := 1000 + blkNum p.blk * 256 + p.idx

/-! ### The event input of a control core (R47, R93) -/

/-- The tile event input: some page of the tile forwards an event. -/
def tileEventInput (s : State) (phys : Nat) : Bool :=
  (List.range 7).any fun k => match tilePage k phys with
    | some p => forwarding s p
    | none => false

end Sys2Proof.Machine
end

