-- ==== Sys2Proof/Machine/Desc.lean ====
section
/-! DEFINITION. Descriptors: where a queue's ring lies, the common header's fields and checks (R79 to R84), and what an
engine's operation leaves to be committed. -/

namespace Sys2Proof.Machine

/-- A 128-byte descriptor as it was read. -/
abbrev Desc := List Byte

/-- `n` little-endian bytes of a record from byte `o`. -/
def recLE (d : List Byte) (o n : Nat) : Nat := leNat ((d.drop o).take n)

/-- Word `i` of a descriptor. -/
def dw (d : Desc) (i : Nat) : Nat := recLE d (4 * i) 4

/-- Bits of word `i`. -/
def dbits (d : Desc) (i hi lo : Nat) : Nat := bits (dw d i) hi lo

/-- OPCODE. -/
def hOpcode (d : Desc) : Nat := dbits d 0 7 0
/-- ENGINE. -/
def hEngine (d : Desc) : Nat := dbits d 0 10 8
/-- GATE_EN. -/
def hGateEn (d : Desc) : Bool := bit (dw d 0) 11
/-- GATE_STRICT. -/
def hGateStrict (d : Desc) : Bool := bit (dw d 0) 12
/-- CREDIT_EN. -/
def hCreditEn (d : Desc) : Bool := bit (dw d 0) 13
/-- NWAIT. -/
def hNwait (d : Desc) : Nat := dbits d 0 15 14
/-- NDONE. -/
def hNdone (d : Desc) : Nat := dbits d 0 17 16
/-- SUMMARY. -/
def hSummary (d : Desc) : Bool := bit (dw d 0) 18
/-- EVT. -/
def hEvt (d : Desc) : Bool := bit (dw d 0) 19
/-- WAITn.CNT. -/
def hWaitCnt (d : Desc) (n : Nat) : Nat := dbits d (1 + n) 7 0
/-- WAITn.THRESH. -/
def hWaitThr (d : Desc) (n : Nat) : Nat := dbits d (1 + n) 27 8
/-- WAITn.CONSUME. -/
def hWaitConsume (d : Desc) (n : Nat) : Bool := bit (dw d (1 + n)) 28
/-- CREDIT.CNT. -/
def hCreditCnt (d : Desc) : Nat := dbits d 3 7 0
/-- CREDIT.AMOUNT. -/
def hCreditAmt (d : Desc) : Nat := dbits d 3 27 8
/-- The gate's instant. -/
def hGate (d : Desc) : Nat := instant (dw d 4 + dbits d 5 15 0 * 2 ^ 32) (dbits d 5 31 16)
/-- DONE0 or DONE1. -/
def hDone (d : Desc) (n : Nat) : Nat := recLE d (24 + 8 * n) 8
/-- SUM_TAG. -/
def hSumTag (d : Desc) : Nat := dbits d 10 7 0

/-- The enabled waits. -/
def hWaits (d : Desc) : List Nat := List.range (min 2 (hNwait d))

/-- The ENGINE code of a queue (R78). -/
def queueEngine (q : Nat) : Nat := if q < 3 then q else 3

/-- In-flight places of a queue (R78). -/
def inflightMax (q : Nat) : Nat := if q < 3 then 2 else 4

/-- The page where a queue's rejections are recorded (R78). -/
def queuePage (phys q : Nat) : PageRef :=
  match q with
  | 0 => ⟨.mtrx, phys⟩
  | 1 => ⟨.vect, phys⟩
  | 2 => ⟨.winn, phys⟩
  | _ => ⟨.tile, phys⟩

/-- Counters named by the enabled waits and the credit. -/
def hCounters (d : Desc) : List Nat :=
  (hWaits d).map (hWaitCnt d) ++ (if hCreditEn d then [hCreditCnt d] else [])

/-- Failing checks of the common header (R82, R84); level and ENABLE are checked here too. -/
def headerErrs (s : State) (phys q : Nat) (d : Desc) : List ErrCode :=
  let cs := hCounters d
  when (level s < 2 || !enabled s (queuePage phys q)) .stateNotReady ++
  when (dbits d 0 31 20 != 0 || (hWaits d).any (fun n => dbits d (1 + n) 31 29 != 0) ||
    (hCreditEn d && dbits d 3 31 28 != 0) || dbits d 10 31 8 != 0 || dw d 11 != 0) .rsvdSet ++
  when (hEngine d != queueEngine q || hNwait d == 3 || hNdone d == 3 || (hGateStrict d && !hGateEn d) ||
    (hCreditEn d && hCreditAmt d == 0) || cs.any (fun c => decide (1 < (cs.filter (· == c)).length))) .fieldRange ++
  ((List.range (min 2 (hNdone d))).flatMap fun n => targetErrs s (hDone d n)) ++
  when (hGateEn d && hGateStrict d && reached s (hGate d)) .impressionPast

/-- LOG2SIZE of a queue. -/
def qSize (s : State) (phys q : Nat) : Nat := 2 ^ fv s TILE_LOG2SIZE phys q

/-- The galley offset of the descriptor at the head (R79). -/
def headOff (s : State) (phys q : Nat) : Nat :=
  fv s TILE_QBASE phys q * 128 + (fv s TILE_Q_HEAD phys q % qSize s phys q) * 128

/-- The descriptor in the slot at the head of a queue. -/
def slotDesc (s : State) (phys q : Nat) : Desc := readBytes s (.galley phys) (headOff s phys q) 128

/-- A queue's hidden state. -/
def queueSt (s : State) (phys q : Nat) : Queue := (tileSt s phys).queues.getD q ⟨[], 0, [], []⟩

/-- The descriptor at the head of a queue, as CHECK read it. -/
def headDesc (s : State) (phys q : Nat) : Desc := (queueSt s phys q).head

/-- A queue's hidden state changes. -/
def updQueue (phys q : Nat) (f : Queue → Queue) : Act :=
  updTile phys fun t => { t with queues := modAt 7 ⟨[], 0, [], []⟩ t.queues q f }

/-- Queue states (R87). -/
def qStopped : Nat := 0
/-- EMPTY. -/
def qEmpty : Nat := 1
/-- CHECK. -/
def qCheck : Nat := 2
/-- WAITING. -/
def qWaiting : Nat := 3
/-- HALTED. -/
def qHalted : Nat := 4

/-- All enabled waits are met (R83). -/
def waitsMet (s : State) (phys : Nat) (d : Desc) : Bool :=
  (hWaits d).all fun n => decide (hWaitThr d n ≤ tok s phys (hWaitCnt d n))

/-- The credit is met (R83). -/
def creditMet (s : State) (phys : Nat) (d : Desc) : Bool :=
  !hCreditEn d || decide (hCreditAmt d ≤ tok s phys (hCreditCnt d))

/-- The gate is reached (R83, R84). -/
def gateMet (s : State) (d : Desc) : Bool := !hGateEn d || reached s (hGate d)

/-- A physical tile starts no work: retired, in quarantine, under proof, or without a healthy network (R100, R430,
R435). -/
def tileStopped (s : State) (phys : Nat) : Bool :=
  !unitUp s (.tile phys) || !unitOk s (.net (phys / 80)) || (s.units.quar.any fun q => q.unit == .tile phys) ||
    s.units.proving.contains (.tile phys) || s.units.subst.any fun x => x.spare == some phys

/-- The head of a queue fires (R83). -/
def canFire (s : State) (phys q : Nat) : Bool :=
  let d := headDesc s phys q
  fv s TILE_QSTATE phys q == qWaiting && waitsMet s phys d && creditMet s phys d && gateMet s d &&
    decide ((queueSt s phys q).inflight.length < inflightMax q) && !tileStopped s phys

/-! ### What an operation leaves -/

/-- One contiguous write of an operation's result. -/
structure OpWrite where
  mem : MemUnit
  off : Nat
  bytes : List Byte
  marks : List Bool
deriving DecidableEq, Repr

/-- What an engine's operation does: its writes in order, what its summary says, what it counts and raises at completion,
and the address it names for a consumption event, if it consumed a marked word (R330). -/
structure OpResult where
  writes : List OpWrite
  flags : Nat
  count : Nat
  value0 : Nat
  value1 : Nat
  aux : Nat
  counts : List (Nat × Nat)
  events : Nat
  consumed : Option Nat
deriving DecidableEq, Repr

/-- An operation with no effect beyond its header (R85). -/
def OpResult.none : OpResult := ⟨[], 0, 0, 0, 0, 0, [], 0, Option.none⟩

/-- The writes of an operation are made (R85). -/
def commitWrites (l : List OpWrite) : Act := each l fun w => memWrite w.mem w.off w.bytes w.marks

/-- The report an operation leaves in flight until it completes. -/
def inFlightOf (d : Desc) (seq : Nat) (r : OpResult) (atOnce : Bool) : InFlight :=
  ⟨seq, hSummary d, hSumTag d, r.flags, r.count, r.value0, r.value1, r.aux,
    (List.range (min 2 (hNdone d))).map (hDone d), hEvt d, r.counts, r.events, atOnce, [], []⟩

/-- A summary record (R92). -/
def summaryRecord (q : Nat) (f : InFlight) : List Byte :=
  leBytes 1 f.tag ++ leBytes 1 q ++ leBytes 2 f.flags ++ leBytes 4 (min f.count (2 ^ 32 - 1)) ++
    leBytes 8 f.value0 ++ leBytes 8 f.value1 ++ leBytes 4 f.aux ++ leBytes 2 f.seq ++ leBytes 2 0

end Sys2Proof.Machine
end

