-- ==== Sys2Proof/Machine/Num.lean ====
section
/-! DEFINITION. Number formats (R102 to R124): exact values, the one rounding of an exact value into a format, the
watch class of the result, and the exact arithmetic the engines round. -/

namespace Sys2Proof.Machine

/-- An exact value an engine may round: NaN, an infinity, or `(-1)^neg * n / d * 2^e` (a zero keeps its sign). -/
inductive XR where
  | nan
  | inf (neg : Bool)
  | fin (neg : Bool) (n d : Nat) (e : Int)
deriving DecidableEq, Repr

/-- The exact zero of a sign. -/
def xZero (neg : Bool) : XR := .fin neg 0 1 0

/-- An integer as an exact value. -/
def xInt (i : Int) : XR := .fin (decide (i < 0)) i.natAbs 1 0

/-- Whether an exact value is a zero of either sign. -/
def xIsZero : XR → Bool
  | .fin _ n _ _ => n == 0
  | _ => false

/-- The sign of an exact value; NaN has none. -/
def xNeg : XR → Bool
  | .nan => false
  | .inf s => s
  | .fin s _ _ _ => s

/-- Layout of a floating-point format (R104): exponent bits, mantissa bits, bias. -/
structure FmtLay where
  eb : Nat
  mb : Nat
  bias : Nat
deriving DecidableEq, Repr

/-- The layouts of R104, by format code (R102). -/
def fmtLay : Nat → FmtLay
  | 0 => ⟨8, 23, 127⟩
  | 1 => ⟨5, 10, 15⟩
  | 2 => ⟨8, 7, 127⟩
  | 3 => ⟨4, 3, 7⟩
  | 4 => ⟨5, 2, 15⟩
  | 5 => ⟨3, 2, 3⟩
  | _ => ⟨2, 1, 1⟩

/-- Element bits of a format (R102). FX40 is in its 64-bit container. -/
def fmtBits : Nat → Nat
  | 0 => 32 | 1 => 16 | 2 => 16 | 3 => 8 | 4 => 8 | 5 => 6 | 6 => 4 | 7 => 8 | 8 => 32 | 9 => 64 | 10 => 64 | 11 => 32
  | _ => 8

/-- Floating-point formats: codes 0 to 6. -/
def isFloat (f : Nat) : Bool := f ≤ 6

/-- Formats with infinities (R104). -/
def hasInf (f : Nat) : Bool := f = 0 || f = 1 || f = 2 || f = 4

/-- Formats with NaN codes (R106). -/
def hasNan (f : Nat) : Bool := f ≤ 4

/-- The largest finite code, sign 0 (R105). -/
def maxCode : Nat → Nat
  | 0 => 0x7F7FFFFF | 1 => 0x7BFF | 2 => 0x7F7F | 3 => 0x7E | 4 => 0x7B | 5 => 0x1F | 6 => 0x7 | 7 => 0x7F
  | _ => 0x7FFFFFFF

/-- The canonical NaN (R107). -/
def nanCode : Nat → Nat
  | 0 => 0x7FC00000 | 1 => 0x7E00 | 2 => 0x7FC0 | 3 => 0x7F | 4 => 0x7E | _ => 0

/-- The code of an infinity, sign 0 (R106). -/
def infCode : Nat → Nat
  | 0 => 0x7F800000 | 1 => 0x7C00 | 2 => 0x7F80 | _ => 0x7C

/-- The sign bit's weight in a floating-point code. -/
def signBit (f : Nat) : Nat := 2 ^ (fmtBits f - 1)

/-- The exact value of a code of a floating-point format (R104, R106). -/
def decodeFloat (f code : Nat) : XR :=
  let L := fmtLay f
  let neg := bit code (fmtBits f - 1)
  let mag := code % signBit f
  let E := mag / 2 ^ L.mb
  let M := mag % 2 ^ L.mb
  if hasInf f && E == 2 ^ L.eb - 1 then (if M = 0 then .inf neg else .nan)
  else if f = 3 && mag == 0x7F then .nan
  else if E = 0 then .fin neg M 1 (1 - (L.bias : Int) - L.mb)
  else .fin neg (2 ^ L.mb + M) 1 ((E : Int) - L.bias - L.mb)

/-- The exact value of an element of any format of R119's first row: floating-point or INT8, INT32. -/
def decodeElem (f code : Nat) : XR :=
  if isFloat f then decodeFloat f code else xInt (toInt (fmtBits f) code)

/-- floor(log2 (n/d)) for n, d > 0. -/
def ratLog2 (n d : Nat) : Int :=
  let k : Int := (Nat.log2 n : Int) - Nat.log2 d
  let ok := if 0 ≤ k then decide (d * 2 ^ k.toNat ≤ n) else decide (d ≤ n * 2 ^ (-k).toNat)
  if ok then k else k - 1

/-- `n / d * 2^s` as a quotient: numerator and denominator. -/
def ratShift (n d : Nat) (s : Int) : Nat × Nat :=
  if 0 ≤ s then (n * 2 ^ s.toNat, d) else (n, d * 2 ^ (-s).toNat)

/-- Rounding of a non-negative quotient to an integer (R112, R114). Modes: 0 RNE, 1 RTZ, 2 SR with the random
word u. -/
def roundQuot (num den mode u : Nat) : Nat :=
  let q := num / den
  let r := num % den
  if mode = 0 then (if 2 * r > den || (2 * r == den && q % 2 == 1) then q + 1 else q)
  else if mode = 1 then q
  else if u < r * 2 ^ 32 / den then q + 1 else q

/-- The watch classes of R118. -/
inductive Cls where
  | none | nan | inf | sat | vanished
deriving DecidableEq, Repr

/-- A rounded element: its code and its class. -/
structure Rnd where
  code : Nat
  cls : Cls
deriving DecidableEq, Repr

/-- A finite magnitude `M * 2^q` of a floating-point format as a code, sign 0. `M` has at most `mb + 2` bits. -/
def encMag (f M : Nat) (q : Int) : Nat :=
  let L := fmtLay f
  let qmin : Int := 1 - (L.bias : Int) - L.mb
  if M < 2 ^ L.mb then M
  else if M < 2 ^ (L.mb + 1) then (q - qmin + 1).toNat * 2 ^ L.mb + (M - 2 ^ L.mb)
  else (q - qmin + 2).toNat * 2 ^ L.mb + (M / 2 - 2 ^ L.mb)

/-- Whether `n/d * 2^e` exceeds a finite exact magnitude `m * 2^q`. -/
def ratGt (n d : Nat) (e : Int) (m : Nat) (q : Int) : Bool :=
  let p := ratShift n d (e - q)
  decide (m * p.2 < p.1)

/-- The largest finite magnitude of a floating-point format, as `m * 2^q`. -/
def maxMag (f : Nat) : Nat × Int :=
  match decodeFloat f (maxCode f) with
  | .fin _ n _ e => (n, e)
  | _ => (0, 0)

/-- Whether an exact value lies beyond the largest finite value of a floating-point format. -/
def beyondMax (f : Nat) : XR → Bool
  | .fin _ n d e => ratGt n d e (maxMag f).1 (maxMag f).2
  | _ => false

/-- Rounding of an exact value into a floating-point format (R112 to R117). -/
def roundFloat (f mode u : Nat) (x : XR) : Rnd :=
  let L := fmtLay f
  let sb := fun (neg : Bool) (c : Nat) => if neg then c + signBit f else c
  let beyond := fun (neg : Bool) =>
    if hasInf f && mode != 1 then (⟨sb neg (infCode f), .inf⟩ : Rnd) else ⟨sb neg (maxCode f), .sat⟩
  match x with
  | .nan => if hasNan f then ⟨nanCode f, .nan⟩ else ⟨0, .nan⟩
  | .inf neg => if hasInf f then ⟨sb neg (infCode f), .inf⟩ else ⟨sb neg (maxCode f), .sat⟩
  | .fin neg n d e =>
    if n = 0 then ⟨sb neg 0, .none⟩
    else
      let qmin : Int := 1 - (L.bias : Int) - L.mb
      let big := ratGt n d e (maxMag f).1 (maxMag f).2
      if big && (mode != 0 || !hasInf f) then beyond neg
      else
        let k := ratLog2 n d + e
        if 3 ≤ f && decide (k < qmin) then ⟨sb neg 0, .vanished⟩
        else
          let q := max (k - L.mb) qmin
          let p := ratShift n d (e - q)
          let M := roundQuot p.1 p.2 mode u
          let c := encMag f M q
          if maxCode f < c then beyond neg else ⟨sb neg c, .none⟩

/-- Rounding of an exact value into a two's-complement integer of `w` bits (R112, R117). -/
def roundInt (w mode u : Nat) (x : XR) : Rnd :=
  let hi : Int := ((2 ^ (w - 1) : Nat) : Int) - 1
  let lo : Int := -((2 ^ (w - 1) : Nat) : Int)
  match x with
  | .nan => ⟨0, .nan⟩
  | .inf neg => ⟨ofInt w (if neg then lo else hi), .sat⟩
  | .fin neg n d e =>
    let p := ratShift n d e
    let q : Int := roundQuot p.1 p.2 mode u
    let v := if neg then -q else q
    if hi < v then ⟨ofInt w hi, .sat⟩ else if v < lo then ⟨ofInt w lo, .sat⟩ else ⟨ofInt w v, .none⟩

/-- Rounding into FX40 at exponent X (R109): the 40-bit integer, never -2^39. -/
def roundFx (mode u : Nat) (X : Int) (x : XR) : Int × Cls :=
  let hi : Int := 2 ^ 39 - 1
  match x with
  | .nan => (0, .nan)
  | .inf neg => (if neg then -hi else hi, .sat)
  | .fin neg n d e =>
    let p := ratShift n d (e + 36 - X)
    let q : Int := roundQuot p.1 p.2 mode u
    if hi < q then (if neg then -hi else hi, .sat) else (if neg then -q else q, .none)

/-- The exact value of an FX40 element (R108). -/
def fxVal (m X : Int) : XR := .fin (decide (m < 0)) m.natAbs 1 (X - 36)

/-- Rounding into an element of any of the nine formats of R119. -/
def roundElem (f mode u : Nat) (x : XR) : Rnd :=
  if isFloat f then roundFloat f mode u x else roundInt (fmtBits f) mode u x

/-- Negation of an exact value. -/
def xNegate : XR → XR
  | .nan => .nan
  | .inf s => .inf (!s)
  | .fin s n d e => .fin (!s) n d e

/-- Absolute value of an exact value. -/
def xAbs : XR → XR
  | .nan => .nan
  | .inf _ => .inf false
  | .fin _ n d e => .fin false n d e

/-- Signed numerator. -/
def sgn (neg : Bool) (n : Nat) : Int := if neg then -(n : Int) else n

/-- Exact addition (R122). -/
def xAdd : XR → XR → XR
  | .nan, _ => .nan
  | _, .nan => .nan
  | .inf a, .inf b => if a = b then .inf a else .nan
  | .inf a, _ => .inf a
  | _, .inf b => .inf b
  | .fin s n d e, .fin s' n' d' e' =>
    if n = 0 && n' = 0 then xZero (s && s')
    else if n = 0 then .fin s' n' d' e'
    else if n' = 0 then .fin s n d e
    else
      let m := min e e'
      let a := sgn s (n * d' * 2 ^ (e - m).toNat)
      let b := sgn s' (n' * d * 2 ^ (e' - m).toNat)
      let t := a + b
      if t = 0 then xZero false else .fin (decide (t < 0)) t.natAbs (d * d') m

/-- Exact subtraction. -/
def xSub (a b : XR) : XR := xAdd a (xNegate b)

/-- Exact multiplication (R122). -/
def xMul : XR → XR → XR
  | .nan, _ => .nan
  | _, .nan => .nan
  | .inf a, .inf b => .inf (a ^^ b)
  | .inf a, .fin s n _ _ => if n = 0 then .nan else .inf (a ^^ s)
  | .fin s n _ _, .inf a => if n = 0 then .nan else .inf (a ^^ s)
  | .fin s n d e, .fin s' n' d' e' => .fin (s ^^ s') (n * n') (d * d') (e + e')

/-- Exact division (R122). -/
def xDiv : XR → XR → XR
  | .nan, _ => .nan
  | _, .nan => .nan
  | .inf _, .inf _ => .nan
  | .inf a, .fin s _ _ _ => .inf (a ^^ s)
  | .fin s _ _ _, .inf a => xZero (s ^^ a)
  | .fin s n d e, .fin s' n' d' e' =>
    if n' = 0 then (if n = 0 then .nan else .inf (s ^^ s'))
    else if n = 0 then xZero (s ^^ s')
    else .fin (s ^^ s') (n * d') (d * n') (e - e')

/-- Integer square root, bit by bit: the root's bits below `2^fuel`. -/
def isqrtGo : Nat → Nat → Nat → Nat
  | 0, _, r => r
  | k + 1, n, r =>
    let t := r + 2 ^ k
    isqrtGo k n (if t * t ≤ n then t else r)

/-- floor (sqrt n). -/
def isqrt (n : Nat) : Nat := isqrtGo (Nat.log2 n / 2 + 1) n 0

/-- The square root, exact enough that one rounding of it to at most 40 bits is the rounding of the root: the root
truncated far below the last bit, with a sticky bit. -/
def sqrtRat (n d : Nat) (e : Int) : XR :=
  let e2 := if e % 2 = 0 then e else e - 1
  let n2 := if e % 2 = 0 then n else 2 * n
  let k := 64 + Nat.log2 d
  let q := n2 * 2 ^ (2 * k) / d
  let exact := decide (n2 * 2 ^ (2 * k) % d = 0)
  let r := isqrt q
  let sticky := if exact && r * r == q then 0 else 1
  .fin false (2 * r + sticky) 1 (e2 / 2 - k - 1)

/-- Square root (R122): -0 for -0, NaN below. -/
def xSqrt : XR → XR
  | .nan => .nan
  | .inf s => if s then .nan else .inf false
  | .fin s n d e => if n = 0 then xZero s else if s then .nan else sqrtRat n d e

/-- Reciprocal square root: ±0 gives ±inf (R122: a finite non-zero value over ±0). -/
def xRsqrt : XR → XR
  | .nan => .nan
  | .inf s => if s then .nan else xZero false
  | .fin s n d e => if n = 0 then .inf s else if s then .nan else sqrtRat d n (-e)

/-- Comparison of two exact values that are not NaN: less, equal or greater. -/
def xCmp : XR → XR → Ordering
  | .inf a, .inf b => if a = b then .eq else if a then .lt else .gt
  | .inf a, _ => if a then .lt else .gt
  | _, .inf b => if b then .gt else .lt
  | .fin s n d e, .fin s' n' d' e' =>
    let m := min e e'
    compare (sgn s (n * d' * 2 ^ (e - m).toNat)) (sgn s' (n' * d * 2 ^ (e' - m).toNat))
  | _, _ => .eq

/-- Whether an exact value is NaN. -/
def xIsNan : XR → Bool
  | .nan => true
  | _ => false

/-- Whether an exact value is finite. -/
def xIsFin : XR → Bool
  | .fin .. => true
  | _ => false

/-- a < b, false for NaN (R123). -/
def xLt (a b : XR) : Bool := !xIsNan a && !xIsNan b && xCmp a b == .lt

/-- a ≤ b, false for NaN (R123). -/
def xLe (a b : XR) : Bool := !xIsNan a && !xIsNan b && xCmp a b != .gt

/-- a = b, false for NaN; the zeros are equal (R123). -/
def xEq (a b : XR) : Bool := !xIsNan a && !xIsNan b && xCmp a b == .eq

/-- maximum (R123): NaN-propagating, +0 above -0. -/
def xMax (a b : XR) : XR :=
  if xIsNan a || xIsNan b then .nan
  else match xCmp a b with
    | .lt => b
    | .gt => a
    | .eq => if xNeg a then b else a

/-- minimum (R123): NaN-propagating, -0 below +0. -/
def xMin (a b : XR) : XR :=
  if xIsNan a || xIsNan b then .nan
  else match xCmp a b with
    | .lt => a
    | .gt => b
    | .eq => if xNeg a then a else b

/-- One rounding to FP32 under RNE, as the exact value of the result. -/
def f32 (x : XR) : XR := decodeFloat 0 (roundFloat 0 0 0 x).code

/-- One round of Philox-4x32 (R115). -/
def philoxRound (c : Nat × Nat × Nat × Nat) (k0 k1 : Nat) : Nat × Nat × Nat × Nat :=
  let p0 := 0xD2511F53 * c.1
  let p1 := 0xCD9E8D57 * c.2.2.1
  ((p1 / 2 ^ 32 % 2 ^ 32) ^^^ c.2.1 ^^^ k0, p1 % 2 ^ 32, (p0 / 2 ^ 32 % 2 ^ 32) ^^^ c.2.2.2 ^^^ k1, p0 % 2 ^ 32)

/-- `n` rounds with the key bumped between them (R115). -/
def philoxGo : Nat → (Nat × Nat × Nat × Nat) → Nat → Nat → Nat × Nat × Nat × Nat
  | 0, c, _, _ => c
  | n + 1, c, k0, k1 => philoxGo n (philoxRound c k0 k1) ((k0 + 0x9E3779B9) % 2 ^ 32) ((k1 + 0xBB67AE85) % 2 ^ 32)

/-- The random word u of R115: output word 0 of Philox-4x32-10. -/
def philox (seed index step stream : Nat) : Nat :=
  (philoxGo 10 (index % 2 ^ 32, index / 2 ^ 32 % 2 ^ 32, step % 2 ^ 32, stream) (seed % 2 ^ 32)
    (seed / 2 ^ 32 % 2 ^ 32)).1

/-- The zero code of either sign of an element format (R118). -/
def isZeroCode (f code : Nat) : Bool := if isFloat f then code % signBit f == 0 else code == 0

end Sys2Proof.Machine
end

