-- ==== Sys2Proof/Machine/Port.lean ====
section
/-! DEFINITION. What the matrix and the vector engine share: elements in galley memory (R103), bit arrays, what an
operation reads, and the output port: watch record (R173 to R177), occupancy bitmap (R137). -/

namespace Sys2Proof.Machine

/-- Little-endian bytes of galley memory. -/
def rdG (s : State) (phys off n : Nat) : Nat := readLE s (.galley phys) off n

/-- Whether a galley word that holds one of `n` bytes carries a mark. -/
def mkG (s : State) (phys off n : Nat) : Bool := anyMarked s (.galley phys) off n

/-- The local address of a galley byte of a physical tile, as a consumption names it (R330). -/
def galleyLocal (s : State) (phys off : Nat) : Nat := 0xFE00_0000_0000 + slotOf s phys * 0x20_0000 + off

/-- A read by an operation: galley offset and bytes. -/
abbrev GRead := Nat × Nat

/-- What an operation's reads do to galley memory (R328, R333). -/
def touchAll (phys : Nat) (rs : State → List GRead) : Act :=
  look fun s =>
    if s.syn.isEmpty && !anyWriteFirst s (.galley phys) then .done
    else each (rs s) fun r => touch (.galley phys) r.1 r.2

/-- The local address of the first marked word that an operation consumes (R330). -/
def firstMarked (s : State) (phys : Nat) (rs : List GRead) : Option Nat :=
  if s.syn.isEmpty then none
  else (rs.find? fun r => decide (0 < r.2) && mkG s phys r.1 r.2).map fun r =>
    galleyLocal s phys
      (((wordsOf (.dmem 0) r.1 r.2).find? fun w => markedAt s (.galley phys) w).getD (r.1 / 8 * 8))

/-! ### Elements and bit arrays -/

/-- The first byte of element `i` of a row that starts at `row` (R103): FP4 and FP6 rows are little-endian bit
strings. -/
def elemOff (f : Nat) (row i : Int) : Int := if fmtBits f % 8 = 0 then row + i * (fmtBits f / 8) else row + i * fmtBits f / 8

/-- Bytes element `i` touches. -/
def elemLen (f : Nat) (i : Int) : Nat :=
  if fmtBits f % 8 = 0 then fmtBits f / 8 else ((i * fmtBits f % 8).toNat + fmtBits f + 7) / 8

/-- The code of an element; of an FX40 container, bits [39:0]. -/
def elemCode (s : State) (phys f : Nat) (row i : Int) : Nat :=
  let v := rdG s phys (elemOff f row i).toNat (elemLen f i)
  if fmtBits f % 8 = 0 then (if f = 9 then v % 2 ^ 40 else v)
  else v / 2 ^ (i * fmtBits f % 8).toNat % 2 ^ fmtBits f

/-- The bytes an element is read from. -/
def elemRead (f : Nat) (row i : Int) : GRead := ((elemOff f row i).toNat, elemLen f i)

/-- Whether a galley read finds a marked word. -/
def readMarked (s : State) (phys : Nat) (r : GRead) : Bool := mkG s phys r.1 r.2

/-- Bit `e` of a bit array at a galley offset, and whether its word is marked: a marked one reads as 1 (R329). -/
def bitAt (s : State) (phys base e : Nat) : Bool × Bool :=
  let m := mkG s phys (base + e / 8) 1
  (m || bit (rdG s phys (base + e / 8) 1) (e % 8), m)

/-- The bytes of an element of a whole-byte format as stored: FX40 sign-extended (R103). -/
def elemBytes (f code : Nat) : List Byte :=
  leBytes (fmtBits f / 8) (if f = 9 then ofInt 64 (toInt 40 code) else code)

/-- A row of FP4 or FP6 elements as bytes: each element takes its code or keeps the old bits; each byte carries a mark
where one of its elements does. -/
def packRow (f : Nat) (old : List Byte) (es : List (Option (Nat × Bool))) : List Byte × List Bool :=
  let w := fmtBits f
  let v := (es.foldl (fun (acc : Nat × Nat) e =>
    match e with
    | some c => (setBits acc.1 (acc.2 * w + w - 1) (acc.2 * w) c.1, acc.2 + 1)
    | none => (acc.1, acc.2 + 1)) (leNat old, 0)).1
  (leBytes old.length v, (List.range old.length).map fun b =>
    (List.range es.length).any fun i =>
      decide (i * w < 8 * b + 8) && decide (8 * b < i * w + w) &&
        (match es.getD i none with | some c => c.2 | none => false))

/-- Writes to adjoining bytes are joined. -/
def joinWrites : List OpWrite → List OpWrite
  | [] => []
  | a :: t =>
    match joinWrites t with
    | b :: r =>
      if a.mem = b.mem ∧ a.off + a.bytes.length = b.off then
        ⟨a.mem, a.off, a.bytes ++ b.bytes, a.marks ++ b.marks⟩ :: r
      else a :: b :: r
    | [] => [a]

/-! ### The output port -/

/-- An element the output port watches. -/
structure Watched where
  code : Nat
  cls : Cls
  poison : Bool
deriving DecidableEq, Repr

/-- The exact value of a stored element; `X` is the FX40 exponent. -/
def storedVal (f : Nat) (X : Int) (code : Nat) : XR := if f = 9 then fxVal (toInt 40 code) X else decodeElem f code

/-- How many watched, unpoisoned elements fall into a class. -/
def clsCount (c : Cls) (ws : List Watched) : Nat := countB (fun w => !w.poison && w.cls == c) ws

/-- Zero count (R118). -/
def zeroCount (f : Nat) (ws : List Watched) : Nat := countB (fun w => !w.poison && isZeroCode f w.code) ws

/-- The FP32 code of the largest finite magnitude of a list of values; -inf where there is none (R175). -/
def amaxOf (l : List XR) : Nat :=
  (l.foldl (fun acc x => if xIsFin x then xMax acc (xAbs x) else acc) (.inf true) |> roundFloat 0 0 0).code

/-- The histogram bin of a stored value (R176). -/
def histBin (ofs : Int) : XR → Nat
  | .fin _ n d e => if n = 0 then 0 else (max 1 (min 62 (ratLog2 n d + e + 32 - ofs))).toNat
  | _ => 63

/-- What the port writes of a watch record: bytes 64 to 511 (R173). -/
def watchBytes (f : Nat) (X : Int) (ctl : List Byte) (ws : List Watched) (amaxIn blocks ovf zeroB dom : Nat) :
    List Byte :=
  let ofs := toInt 8 (recLE ctl 2 1)
  let live := ws.filter fun w => !w.poison
  let sat := fun n => leBytes 4 (min n (2 ^ 32 - 1))
  sat ws.length ++ sat (zeroCount f ws) ++ sat (clsCount .sat ws) ++ sat (clsCount .inf ws) ++
    sat (clsCount .nan ws) ++ sat (clsCount .vanished ws) ++ sat (countB (fun w => w.poison) ws) ++
    leBytes 4 (amaxOf (live.map fun w => storedVal f X w.code)) ++ leBytes 4 amaxIn ++
    sat blocks ++ sat ovf ++ sat zeroB ++ sat dom ++ leBytes 12 0 ++
    (List.range 64).flatMap (fun b => sat (countB (fun w => histBin ofs (storedVal f X w.code) == b) live)) ++
    leBytes 128 0

/-- The failing checks of a watch control block (R174): `track` says that the operation may track blocks. -/
def ctlErrs (ctl : List Byte) (isCvt okTrack : Bool) : List ErrCode :=
  let w := recLE ctl 0 4
  let decay := decodeFloat 0 (recLE ctl 4 4)
  when (bits w 3 1 != 0 || bit w 7 || bits w 31 24 != 0 || (ctl.drop 8).any (· != 0)) .rsvdSet ++
  when (bit w 0 && (!isCvt || !okTrack || decide (4 < bits w 6 4) || bit (recLE ctl 4 4) 31 ||
    !(xLe decay (xInt 1)))) .fieldRange

/-- No watched element is amaxIn's: -inf (R175). -/
def noAmaxIn : Nat := 0xFF80_0000

/-- The write of a watch record. -/
def watchWrite (phys addr : Nat) (bs : List Byte) : OpWrite :=
  ⟨.galley phys, addr + 64, bs, List.replicate bs.length false⟩

/-- The occupancy bitmap over `rows` by `cols`: a granule's bit is 1 where some element of it is occupied (R137). -/
def occBits (rows cols : Nat) (occ : Nat → Nat → Bool) : List Bool :=
  (List.range (ceilDiv rows 32)).flatMap fun i => (List.range (ceilDiv cols 32)).map fun j =>
    (List.range 32).any fun r => (List.range 32).any fun c =>
      decide (32 * i + r < rows) && decide (32 * j + c < cols) && occ (32 * i + r) (32 * j + c)

/-- Bits as whole bytes, the first bit lowest. -/
def bitsToBytes (l : List Bool) : List Byte :=
  (List.range (ceilDiv l.length 8)).map fun i =>
    BitVec.ofNat 8 (sumN ((List.range 8).map fun j => b2n (l.getD (8 * i + j) false) * 2 ^ j))

/-- The write of unmarked bytes to galley memory. -/
def plainWrite (phys off : Nat) (bs : List Byte) : OpWrite := ⟨.galley phys, off, bs, List.replicate bs.length false⟩

/-- Whether two spans of bytes meet. -/
def meets (a b : Int × Int) : Bool := decide (a.1 < b.2) && decide (b.1 < a.2)

/-- Whether some span of the first list meets another span, where both lists hold spans with their own names. -/
def anyMeets (xs : List (Nat × Int × Int)) (ys : List (Nat × Int × Int)) : Bool :=
  xs.any fun x => ys.any fun y => x.1 != y.1 && meets x.2 y.2

end Sys2Proof.Machine
end

