-- ==== Sys2Proof/Machine/CurvRec.lean ====
section
/-! DEFINITION. The curvature table: records and their checks (R189, R190), factor areas (R191), block status records
(R192) and the views of installed preconditioners (R202). -/

namespace Sys2Proof.Machine

/-- The HBM unit's offset of a local address. -/
def hbmOff (a : Nat) : Nat := a % 2 ^ 36

/-- Bytes of a site's HBM by local address. -/
def hbmBytesAt (s : State) (a n : Nat) : List Byte := readBytes s (.hbm (a / 2 ^ 36)) (hbmOff a) n

/-- A little-endian value in HBM by local address. -/
def hbmLE (s : State) (a n : Nat) : Nat := leNat (hbmBytesAt s a n)

/-! ### The record (R189) -/

/-- The address of a group's curvature record. -/
def cvAddr (s : State) (site g : Nat) : Nat := fv s UPDT_CURV_BASE site + 128 * g

/-- A group's curvature record. -/
def cvRec (s : State) (site g : Nat) : List Byte := hbmBytesAt s (cvAddr s site g) 128

/-- The first word. -/
def cvW0 (r : List Byte) : Nat := recLE r 0 4
/-- VALID. -/
def cvValid (r : List Byte) : Bool := bit (cvW0 r) 0
/-- PFMT is FP32. -/
def cvFp32 (r : List Byte) : Bool := bit (cvW0 r) 1
/-- Bytes of an element in PFMT. -/
def cvE (r : List Byte) : Nat := if cvFp32 r then 4 else 2
/-- The root code of factor f (0 A, 1 G). -/
def cvRoot (r : List Byte) (f : Nat) : Nat := bits (cvW0 r) (3 + 2 * f) (2 + 2 * f)
/-- The block-size code. -/
def cvBsz (r : List Byte) (f : Nat) : Nat := bits (cvW0 r) (8 + 3 * f) (6 + 3 * f)
/-- NB. -/
def cvNB (r : List Byte) (f : Nat) : Nat := recLE r (4 + 2 * f) 2
/-- SHEAF. -/
def cvSheaf (r : List Byte) (f : Nat) : Nat := recLE r (8 + 2 * f) 2
/-- BETA. -/
def cvBeta (r : List Byte) : Nat := recLE r 16 4
/-- ALPHA. -/
def cvAlpha (r : List Byte) : Nat := recLE r 20 4
/-- CHG_EPS. -/
def cvEps (r : List Byte) : Nat := recLE r 24 4
/-- DAMP_ABS. -/
def cvDampAbs (r : List Byte) (f : Nat) : Nat := recLE r (28 + 8 * f) 4
/-- DAMP_REL. -/
def cvDampRel (r : List Byte) (f : Nat) : Nat := recLE r (32 + 8 * f) 4
/-- AREA. -/
def cvArea (r : List Byte) (f : Nat) : Nat := recLE r (48 + 16 * f) 8
/-- VIEW. -/
def cvView (r : List Byte) (f : Nat) : Nat := recLE r (56 + 16 * f) 8
/-- DONE. -/
def cvDone (r : List Byte) : Nat := recLE r 80 8
/-- GEN. -/
def cvGen (r : List Byte) : Nat := recLE r 96 8
/-- FOLDS. -/
def cvFolds (r : List Byte) (f : Nat) : Nat := recLE r (112 + 4 * f) 4

/-- Granules per side of a block. -/
def cvSide (r : List Byte) (f : Nat) : Nat := 2 ^ cvBsz r f
/-- B. -/
def cvB (r : List Byte) (f : Nat) : Nat := 128 * cvSide r f
/-- T, the granules per block. -/
def cvT (r : List Byte) (f : Nat) : Nat := cvSide r f * (cvSide r f + 1) / 2
/-- GB, the bytes of one block in the layout of R144. -/
def cvGB (r : List Byte) (f : Nat) : Nat := cvT r f * 65536
/-- BB, the bytes of one full block. -/
def cvBB (r : List Byte) (f : Nat) : Nat := cvB r f * cvB r f * cvE r
/-- Bytes of an area (R191). -/
def cvAreaSize (r : List Byte) (f : Nat) : Nat := 3 * cvNB r f * cvGB r f + 2 * cvNB r f * cvBB r f + 640 * cvNB r f
/-- Bytes of a view (R202). -/
def cvViewSize (r : List Byte) (f : Nat) : Nat := 4096 + cvNB r f * cvBB r f

/-- The address of block i in region S (0), SENT (1) or RX (2). -/
def cvBlockAddr (r : List Byte) (f region i : Nat) : Nat :=
  cvArea r f + region * (cvNB r f * cvGB r f) + i * cvGB r f
/-- The address of slot t of block i. -/
def cvSlotAddr (r : List Byte) (f i t : Nat) : Nat := cvArea r f + 3 * cvNB r f * cvGB r f + (2 * i + t) * cvBB r f
/-- The address of block i's status record. -/
def cvStatusAddr (r : List Byte) (f i : Nat) : Nat :=
  cvArea r f + 3 * cvNB r f * cvGB r f + 2 * cvNB r f * cvBB r f + 640 * i

/-- The areas and views of a record, as byte ranges. -/
def cvRanges (r : List Byte) : List (Nat × Nat) :=
  [0, 1].flatMap fun f => [(cvArea r f, cvAreaSize r f), (cvView r f, cvViewSize r f)]

/-- Two byte ranges meet. -/
def rangesMeet (a b : Nat × Nat) : Bool := decide (a.1 < b.1 + b.2) && decide (b.1 < a.1 + a.2)

/-- A byte range lies wholly in a site's HBM. -/
def inSiteHbm (site a n : Nat) : Bool := a / 2 ^ 36 == site && decide (hbmOff a + n ≤ Config.hbmBytes)

/-- An FP32 code from +0 to 1.0. -/
def isUnit32 (c : Nat) : Bool := decide (c ≤ 0x3F80_0000)

/-- An FP32 code that is finite and not below +0. -/
def isNonneg32 (c : Nat) : Bool := decide (c < 0x7F80_0000)

/-- Failing checks of a record: the code, and the record byte. -/
abbrev ByteErrs := List (ErrCode × Nat)

/-- A failing check at a byte. -/
def whenAt (c : Bool) (e : ErrCode) (b : Nat) : ByteErrs := if c then [(e, b)] else []

/-- The first failing check, and its first byte. -/
def firstErrAt (l : ByteErrs) : ErrCode × Nat :=
  l.foldl (fun best e =>
    if errRank e.1 < errRank best.1 || (errRank e.1 == errRank best.1 && decide (e.2 < best.2)) then e else best)
    (.ok, 0)

/-- Bytes `[a, b)` of a record are 0. -/
def zeroBytes (r : List Byte) (a b : Nat) : Bool := ((r.drop a).take (b - a)).all (· == 0)

/-- Reserved bits, as (byte, the bits of it that are reserved): a set one fails at its own byte. -/
def rsvdAt (r : List Byte) (l : List (Nat × Nat)) : ByteErrs :=
  (l.filter fun x => recLE r x.1 1 &&& x.2 != 0).map fun x => (.rsvdSet, x.1)

/-- The bytes `[a, b)` as reserved. -/
def rsvdSpan (a b : Nat) : List (Nat × Nat) := (List.range (b - a)).map fun i => (a + i, 0xFF)

/-- The reserved bits [63:48] of an address at byte a, and [63:52] of a completion target. -/
def rsvdAddr (a : Nat) : List (Nat × Nat) := rsvdSpan (a + 6) (a + 8)
/-- Likewise of a target. -/
def rsvdTarget (a : Nat) : List (Nat × Nat) := [(a + 6, 0xF0), (a + 7, 0xFF)]

/-- Whether every record of a table's site other than g keeps clear of a range. -/
def cvOthersClear (s : State) (site g : Nat) (x : Nat × Nat) : Bool :=
  (List.range (fv s UPDT_CURV_COUNT site)).all fun q =>
    q == g || !cvValid (cvRec s site q) || (cvRanges (cvRec s site q)).all fun y => !rangesMeet x y

/-- The failing checks of a curvature record (R190). -/
def cvErrs (s : State) (site g : Nat) (r : List Byte) : ByteErrs :=
  let rs := cvRanges r
  let at_ := fun k => 48 + 8 * k
  whenAt (!cvValid r) .stateNotReady 0 ++
  rsvdAt r ([(1, 0xF0), (2, 0xFF), (3, 0xFF)] ++ rsvdSpan 12 16 ++ rsvdSpan 44 48 ++ (List.range 4).flatMap (fun k => rsvdAddr (at_ k)) ++
    rsvdTarget 80 ++ rsvdSpan 88 96 ++ rsvdSpan 110 112 ++ rsvdSpan 120 128) ++
  ([0, 1].flatMap fun f => whenAt (cvBsz r f == 7) .fieldRange f ++
    whenAt (cvNB r f == 0 || decide (64 < cvNB r f)) .fieldRange (4 + 2 * f) ++
    whenAt (!isNonneg32 (cvDampAbs r f)) .fieldRange (28 + 8 * f) ++
    whenAt (!isNonneg32 (cvDampRel r f)) .fieldRange (32 + 8 * f)) ++
  whenAt (!isUnit32 (cvBeta r)) .fieldRange 16 ++ whenAt (!isUnit32 (cvAlpha r)) .fieldRange 20 ++
  whenAt (!isNonneg32 (cvEps r)) .fieldRange 24 ++ whenAt (tgtKind (cvDone r) == 3) .fieldRange 80 ++
  ((List.range 4).flatMap fun k =>
    let x := rs.getD k (0, 0)
    whenAt (((List.range 4).any fun q => q != k && rangesMeet x (rs.getD q (0, 0))) || !cvOthersClear s site g x)
      .fieldRange (at_ k) ++
    whenAt (x.1 % 4096 != 0) .addrAlign (at_ k) ++
    whenAt (!inSiteHbm site x.1 x.2) .lenOverRegion (at_ k))

/-! ### Block status records (R192) -/

/-- A block status record. CHG and PEND as bit sets. -/
structure BlockSt where
  flags : Nat
  trace : Nat
  lambda : Nat
  lambdaUsed : Nat
  lastStatus : Nat
  residual : Nat
  age : Nat
  delivered : Nat
  installed : Nat
  chg : Nat
  pend : Nat
deriving DecidableEq, Repr

/-- The installed slot. -/
def BlockSt.slot (b : BlockSt) : Nat := b.flags % 2
/-- A status flag: 1 SHADOW_FULL, 2 DIRTY, 3 SOLVING, 4 POISONED, 5 NONFINITE, 6 OVERRUN. -/
def BlockSt.flag (b : BlockSt) (i : Nat) : Bool := bit b.flags i
/-- A status flag takes a value. -/
def BlockSt.setFlag (b : BlockSt) (i : Nat) (v : Bool) : BlockSt := { b with flags := setBit b.flags i v }

/-- Reading a status record. -/
def parseBlockSt (r : List Byte) : BlockSt :=
  ⟨bits (recLE r 0 4) 6 0, recLE r 4 4, recLE r 8 4, recLE r 12 4, recLE r 20 1, recLE r 24 4, recLE r 28 4, recLE r 32 6,
    recLE r 40 6, recLE r 64 288, recLE r 352 288⟩

/-- Writing a status record. -/
def blockStBytes (b : BlockSt) : List Byte :=
  leBytes 4 b.flags ++ leBytes 4 b.trace ++ leBytes 4 b.lambda ++ leBytes 4 b.lambdaUsed ++
    leBytes 2 (popcount 2304 b.chg) ++ leBytes 2 (popcount 2304 b.pend) ++ leBytes 1 b.lastStatus ++ leBytes 3 0 ++
    leBytes 4 b.residual ++ leBytes 4 b.age ++ leBytes 8 b.delivered ++ leBytes 6 b.installed ++ leBytes 18 0 ++
    leBytes 288 b.chg ++ leBytes 288 b.pend

/-- The status record of block i. -/
def blockStAt (s : State) (r : List Byte) (f i : Nat) : BlockSt := parseBlockSt (hbmBytesAt s (cvStatusAddr r f i) 640)

/-- Bytes in HBM by local address are written. -/
def hbmPut (a : Nat) (bs : List Byte) : Act := memPut (.hbm (a / 2 ^ 36)) (hbmOff a) bs

/-- The status record of block i is written. -/
def putBlockSt (r : List Byte) (f i : Nat) (b : BlockSt) : Act := hbmPut (cvStatusAddr r f i) (blockStBytes b)

/-! ### Views (R202) -/

/-- A view: its site, group, factor and bytes. -/
structure View where
  site : Nat
  group : Nat
  factor : Nat
  rec_ : List Byte
deriving DecidableEq, Repr

/-- The views of a site's table. -/
def viewsOf (s : State) (site : Nat) : List View :=
  if !fb s UPDT_CURV_EN site then []
  else (List.range (fv s UPDT_CURV_COUNT site)).flatMap fun g =>
    let r := cvRec s site g
    if cvValid r then [⟨site, g, 0, r⟩, ⟨site, g, 1, r⟩] else []

/-- A view's byte range. -/
def View.range (v : View) : Nat × Nat := (cvView v.rec_ v.factor, cvViewSize v.rec_ v.factor)

/-- The views that a range of local addresses meets. -/
def viewsMet (s : State) (a n : Nat) : List View := (viewsOf s (a / 2 ^ 36)).filter fun v => rangesMeet v.range (a, n)

/-- A view's synthesised header byte. -/
def viewHeader (v : View) (o : Nat) : Byte :=
  ((leBytes 8 (cvGen v.rec_) ++ (v.rec_.drop 104).take 6 ++ leBytes 2 v.group).getD o 0)

/-- Where a byte of a view is read from: the installed slot, or the synthesised header. -/
def viewByte (s : State) (v : View) (o : Nat) : Sum Byte Nat :=
  if o < 4096 then .inl (viewHeader v o)
  else
    let bb := cvBB v.rec_ v.factor
    let i := (o - 4096) / bb
    .inr (cvSlotAddr v.rec_ v.factor i (blockStAt s v.rec_ v.factor i).slot + (o - 4096) % bb)

end Sys2Proof.Machine
end

