-- ==== Sys2Proof/Machine/Bus.lean ====
section
/-! DEFINITION. The local address map as a requester meets it: memories, record windows (R223, R258, R293, R312), views
(R202), protected ranges (R94, R202, R308), storage that awaits zeros (R307), and reads and writes by local address. -/

namespace Sys2Proof.Machine

/-- What lies at a local address. -/
inductive Place where
  | mem (u : MemUnit) (off : Nat)
  /-- A window, by key: memory window of a site, 16 + Update Engine, 32 sheaf, 64 + Solver Engine. -/
  | win (key : Nat)
  | reg
  | none
deriving DecidableEq, Repr

/-- The window at a local address, and the bytes left in it. -/
def windowAt (s : State) (a : Nat) : Option (Nat × Nat) :=
  let o := a % 2 ^ 32
  let left := 0x10000 - o % 0x10000
  if a / 2 ^ 32 = 0xFA00 ∧ o / 2 ^ 16 < 12 then (if isHbmSite s.build (o / 2 ^ 16) then some (o / 2 ^ 16, left) else none)
  else if a / 2 ^ 32 = 0xFB00 ∧ o / 2 ^ 16 < 12 then
    (if isHbmSite s.build (o / 2 ^ 16) then some (16 + o / 2 ^ 16, left) else none)
  else if a / 2 ^ 32 = 0xFC00 ∧ o < 0x10000 then some (32, left)
  else if a / 2 ^ 32 = 0xFD00 ∧ o / 2 ^ 20 < 16 then some (64 + o / 2 ^ 20, 0x10_0000 - o % 0x10_0000)
  else none

/-- What lies at a local address. -/
def placeOf (s : State) (a : Nat) : Place :=
  if a / 2 ^ 32 = 0xFF00 then .reg
  else match windowAt s a with
    | some w => .win w.1
    | none => match locate s a with
      | some m => .mem m.1 m.2
      | none => .none

/-- Bytes of a window's record. -/
def winRecSize (key : Nat) : Nat := if 64 ≤ key then 32 else 64

/-- Records a window's FIFO holds. -/
def winDepth (key : Nat) : Nat := if 64 ≤ key then 4096 else if key = 32 then 1024 else 256

/-- The records waiting in a window. -/
def fifoOf (s : State) (key : Nat) : List WinRec := mapGet fifoDefault s.fifos key

/-- Records enter a window. -/
def fifoPush (key : Nat) (rs : List WinRec) : Act := look fun s => upd (.fifo key (fifoOf s key ++ rs))

/-- The front record leaves a window. -/
def fifoPop (key : Nat) : Act := look fun s => upd (.fifo key ((fifoOf s key).drop 1))

/-- Whether a window's unit is in service. -/
def winInService (s : State) (key : Nat) : Bool :=
  if 64 ≤ key then solvInService s (key - 64) else if key = 32 then true
  else if 16 ≤ key then ueInService s (key - 16) else hbmInService s key

/-- Bytes from an offset to the end of a memory. -/
def memLeft (u : MemUnit) (off : Nat) : Nat := muSize u - off

/-- The failing checks of a local range (R303, R94, R97): where it begins, where it ends, who is in service. -/
def rangeErrs (s : State) (a n : Nat) : List ErrCode :=
  match placeOf s a with
  | .reg => [.permission]
  | .none => [.addrUnmapped]
  | .win k => when (decide (((windowAt s a).map Prod.snd).getD 0 < n)) .lenOverRegion ++
      when (!winInService s k) .retiredUnit
  | .mem u off => when (decide (memLeft u off < n)) .lenOverRegion ++ when (!memInService s u) .retiredUnit

/-- A local range lies in HBM. -/
def isHbmAddr (s : State) (a : Nat) : Bool :=
  match placeOf s a with
  | .mem (.hbm _) _ => true
  | _ => false

/-- A local range lies in HBM or galley memory. -/
def isDataAddr (s : State) (a : Nat) : Bool :=
  match placeOf s a with
  | .mem (.hbm _) _ => true
  | .mem (.galley _) _ => true
  | _ => false

/-- A range meets the Object Placement Table (R308). -/
def meetsOptTable (s : State) (a n : Nat) : Bool :=
  fb s OPTB_OPT_EN && rangesMeet (a, n) (fv s OPTB_OPT_BASE, 2 ^ 22)

/-- A write to a local memory range is refused with PERMISSION: the Object Placement Table, a view, IMEM of a running
core (R94, R202, R308). -/
def writeRefused (s : State) (a n : Nat) : Bool :=
  match placeOf s a with
  | .mem (.hbm _) _ => meetsOptTable s a n || !(viewsMet s a n).isEmpty
  | .mem (.imem p) _ => fb s TILE_CORE_RUN p
  | _ => false

/-- A block of HBM awaits its zeros (R307). -/
def awaitsZeros (s : State) (a n : Nat) : Bool :=
  match placeOf s a with
  | .mem (.hbm site) off => (mapGet zeroDefault s.zeroing site).any fun x =>
      decide (x.1 * 4096 < off + n) && decide (off < (x.1 + x.2) * 4096)
  | _ => false

/-- A local range belongs to a tile whose accesses are held (R100, R435). -/
def rangeHeld (s : State) (a n : Nat) : Bool :=
  awaitsZeros s a n ||
  match placeOf s a with
  | .mem (.galley p) _ | .mem (.imem p) _ | .mem (.dmem p) _ => tileHeld s (slotOf s p)
  | _ => false

/-- Reading a local range: correction, marking and accounting in the memories it is read from. -/
def touchLocal (a n : Nat) : Act :=
  look fun s =>
    let vs := viewsMet s a n
    match placeOf s a with
    | .mem u off =>
      if vs.isEmpty then touch u off n
      else each (wordsOf (.dmem 0) a n) fun w =>
        match vs.find? fun v => rangesMeet v.range (w, 1) with
        | some v => match viewByte s v (w - v.range.1) with
          | .inr b => touch (.hbm (b / 2 ^ 36)) (hbmOff b) 8
          | .inl _ => .done
        | none => touch (.hbm (w / 2 ^ 36)) (hbmOff w) 8
    | _ => .done

/-- The bytes of a local range and their marks, after `touchLocal`. -/
def readLocal (s : State) (a n : Nat) : List (Byte × Bool) :=
  let vs := viewsMet s a n
  match placeOf s a with
  | .mem u off =>
    if vs.isEmpty then
      (readBytes s u off n).zip (if s.syn.isEmpty then List.replicate n false else readMarks s u off n)
    else (List.range n).map fun i =>
      let b := a + i
      let at_ := fun x => (deliverByte s (.hbm (x / 2 ^ 36)) (hbmOff x), markedAt s (.hbm (x / 2 ^ 36)) (hbmOff x))
      match vs.find? fun v => rangesMeet v.range (b, 1) with
      | some v => match viewByte s v (b - v.range.1) with
        | .inr x => at_ x
        | .inl x => (x, false)
      | none => at_ b
  | _ => List.replicate n (0, false)

/-- A word of a local range carries a mark. -/
def localMarked (s : State) (a n : Nat) : Bool := !s.syn.isEmpty && (readLocal s a n).any Prod.snd

/-- Records, entries and status blocks are read for control, by address and length: correction and accounting, and one
consumption where a word of them is marked (R329, R330). -/
def readRecords (p : PageRef) (l : List (Nat × Nat)) : Act :=
  acts [each l fun x => touchLocal x.1 x.2,
    look fun s => match l.find? fun x => localMarked s x.1 x.2 with
      | some x => consume p x.1
      | none => .done]

/-- Writing a local range of one memory. -/
def writeLocal (a : Nat) (bs : List (Byte × Bool)) : Act :=
  look fun s => match placeOf s a with
    | .mem u off => memWrite u off (bs.map Prod.fst) (bs.map Prod.snd)
    | _ => .done

/-- Writing unmarked bytes to a local range. -/
def putLocal (a : Nat) (bs : List Byte) : Act := writeLocal a (bs.map fun b => (b, false))

/-- A row of bytes as whole records of a window. -/
def asRecords (key writer seq : Nat) (bs : List (Byte × Bool)) : List WinRec :=
  (List.range (bs.length / winRecSize key)).map fun i =>
    let x := (bs.drop (i * winRecSize key)).take (winRecSize key)
    ⟨writer, seq, x.map Prod.fst, x.any Prod.snd⟩

/-- The code a window answers a write with (R223). -/
def windowCode (key a n : Nat) : ErrCode :=
  if a % winRecSize key ≠ 0 ∨ n % winRecSize key ≠ 0 then .addrAlign else .ok

/-- Prefetch records of a memory window that wait to start: they stay in its FIFO (R312). -/
def pfWaiting (s : State) (key : Nat) : Nat :=
  if key < 12 then countB (fun (p : Pf) => p.bound.isNone) (mapGet pfDefault s.pfs key) else 0

/-- A record a DMA operation wrote waits beyond a FIFO's depth: its writer is held (R223). -/
def writerHeld (s : State) (writer seq : Nat) : Bool :=
  s.fifos.any fun f => (f.2.drop (winDepth f.1 - pfWaiting s f.1)).any fun r => r.writer == writer && r.seq == seq

end Sys2Proof.Machine
end

