-- ==== Sys2Proof/Machine/Dma.lean ====
section
/-! DEFINITION. Tile DMA: body and checks (R97), rows, moves with their marks (R329), and what leaves the device
(R332). -/

namespace Sys2Proof.Machine

/-- SRC. -/
def dmSrc (d : Desc) : Nat := recLE d 48 8
/-- DST. -/
def dmDst (d : Desc) : Nat := recLE d 56 8
/-- LEN0. -/
def dmLen (d : Desc) : Nat := recLE d 64 4
/-- CNT1. -/
def dmCnt1 (d : Desc) : Nat := recLE d 68 4
/-- CNT2. -/
def dmCnt2 (d : Desc) : Nat := recLE d 72 4
/-- A stride: k = 0 SRC_STRIDE1, 1 DST_STRIDE1, 2 SRC_STRIDE2, 3 DST_STRIDE2. -/
def dmStride (d : Desc) (k : Nat) : Int := toInt 64 (recLE d (80 + 8 * k) 8)

/-- LEN0, CNT1 or CNT2 is 0. -/
def dmNop (d : Desc) : Bool := dmLen d == 0 || dmCnt1 d == 0 || dmCnt2 d == 0

/-- A value is beyond its range. -/
def dmOver (d : Desc) : Bool :=
  decide (16777216 < dmLen d) || decide (65536 < dmCnt1 d) || decide (65536 < dmCnt2 d) ||
    (List.range 4).any fun k => decide (dmStride d k < -(2 ^ 47)) || decide (2 ^ 47 - 1 < dmStride d k)

/-- Node of a global address. -/
def gaNode (a : Nat) : Nat := bits a 63 50

/-- Local part of a global address. -/
def gaLocal (a : Nat) : Nat := bits a 47 0

/-- A byte range lies in the register space. -/
def inRegSpace (a : Nat) : Bool := gaLocal a / 2 ^ 32 == 0xFF00

/-- Rows in plane-major order: (plane, row). Where a count is beyond its range only the first row is definite. -/
def dmRows (d : Desc) : List (Nat × Nat) :=
  if dmCnt1 d > 65536 ∨ dmCnt2 d > 65536 then [(0, 0)]
  else (List.range (dmCnt2 d)).flatMap fun p => (List.range (dmCnt1 d)).map fun r => (p, r)

/-- The local part of a row's address: side 0 source, 1 destination. -/
def dmRowAddr (d : Desc) (side : Nat) (x : Nat × Nat) : Int :=
  (gaLocal (if side = 0 then dmSrc d else dmDst d) : Int) + x.2 * dmStride d side + x.1 * dmStride d (2 + side)

/-- The failing checks of one row of a side. -/
def dmRowErrs (s : State) (d : Desc) (side : Nat) (x : Nat × Nat) : List ErrCode :=
  let a := dmRowAddr d side x
  let node := gaNode (if side = 0 then dmSrc d else dmDst d)
  if a < 0 ∨ 2 ^ 48 ≤ a then (if node = nodeId s then [.addrUnmapped] else [])
  else
    let a := a.toNat
    if placeOf s a = .reg then [.permission]
    else if node ≠ nodeId s then []
    else rangeErrs s a (dmLen d) ++
      when (isHbmAddr s a && (a % 32 != 0 || dmLen d % 32 != 0)) .addrAlign

/-- The failing checks of a DMA body (R97). -/
def dmaErrs (s : State) (d : Desc) : List ErrCode :=
  let o := hOpcode d
  if o ≠ 1 ∧ o ≠ 2 then [.fieldRange]
  else
    when (recLE d 76 4 != 0 || recLE d 120 8 != 0 || bits (dmDst d) 49 48 != 0 ||
      (o == 1 && bits (dmSrc d) 49 48 != 0)) .rsvdSet ++
    when (dmOver d) .lenRange ++
    (if dmNop d then []
     else (dmRows d).flatMap fun x => dmRowErrs s d 1 x ++ (if o = 1 then dmRowErrs s d 0 x else []))

/-- A row's accesses are held: a tile being copied or in quarantine, a block that awaits its zeros (R100, R307). -/
def dmaHeld (s : State) (d : Desc) : Bool :=
  !dmNop d && (dmRows d).any fun x =>
    (gaNode (dmDst d) == nodeId s && rangeHeld s (dmRowAddr d 1 x).toNat (dmLen d)) ||
    (hOpcode d == 1 && gaNode (dmSrc d) == nodeId s && rangeHeld s (dmRowAddr d 0 x).toNat (dmLen d))

/-- What a transfer has met so far: the first failure's code, a bus error, a mark, and the answers still to come. -/
structure DmaSt where
  aux : Nat
  bus : Bool
  poison : Bool
  ans : List RemoteAns
deriving DecidableEq, Repr

/-- A failure: its code enters AUX where a remote device or a window reported it. -/
def DmaSt.fail (st : DmaSt) (code : Nat) (report : Bool) : DmaSt :=
  { st with bus := true, aux := if st.aux = 0 && report then code else st.aux }

/-- The next answer of a remote device; none listed is an acknowledgement. -/
def DmaSt.next (st : DmaSt) : RemoteAns := st.ans.headD ⟨0, [], []⟩

/-- That answer is taken. -/
def DmaSt.rest (st : DmaSt) : DmaSt := { st with ans := st.ans.drop 1 }

/-- What a read delivers of bytes an earlier row of the same transfer has written: for each byte the old value or the
new one, as a free value chooses (R95). -/
def mixBytes : List (Byte × Bool) → List (Byte × Bool) → (List (Byte × Bool) → Act) → Act
  | o :: os, n :: ns, k =>
    if o = n then mixBytes os ns fun l => k (n :: l)
    else withFree fun v => mixBytes os ns fun l => k ((if v % 2 = 0 then n else o) :: l)
  | _, ns, k => k ns

/-- The bytes of a row to move; none where the source refused. -/
def dmaFetch (s0 : State) (o : Origin) (d : Desc) (x : Nat × Nat) (st : DmaSt) (k : DmaSt → Option (List (Byte × Bool)) → Act) :
    Act :=
  let n := dmLen d
  if hOpcode d = 2 then
    k st (some ((List.range n).map fun i => (d.getD (112 + i % 8) 0, false)))
  else look fun s =>
    let a := (dmRowAddr d 0 x).toNat % 2 ^ 48
    if gaNode (dmSrc d) = nodeId s then
      match placeOf s a with
      | .win _ => k (st.fail (errNum .permission) true) none
      | _ => (touchLocal a n).seq (look fun t =>
          mixBytes (readLocal s0 a n) (readLocal t a n) fun bs =>
            k { st with poison := st.poison || bs.any Prod.snd } (some bs))
    else if !reachable s (gaNode (dmSrc d)) then noRoute.seq (k (st.fail cNoRoute true) none)
    else
      let r := st.next
      (sendRead (gaNode (dmSrc d)) o a n).seq
        (if r.code ≠ 0 then k (st.rest.fail r.code true) none
         else
          let bs := (List.range n).map fun i => (r.data.getD i 0, r.marks.getD i false)
          k { st.rest with poison := st.poison || bs.any Prod.snd } (some bs))

/-- The aligned 32-byte destination blocks of a row, as (first, end) within it. -/
def dmaBlocks (a n : Nat) : List (Nat × Nat) :=
  if n = 0 then []
  else (List.range ((roundUp (a + n) 32 - a / 32 * 32) / 32)).map fun i =>
    let b := a / 32 * 32 + 32 * i
    (b - a, min (b + 32 - a) n)

/-- The runs of a row between its withheld blocks, as (first, end). -/
def dmaRuns (a : Nat) (bs : List (Byte × Bool)) : List (Nat × Nat) :=
  (dmaBlocks a bs.length).foldl (fun (acc : List (Nat × Nat)) b =>
    if ((bs.drop b.1).take (b.2 - b.1)).any Prod.snd then acc
    else match acc.getLast? with
      | some l => if l.2 = b.1 then acc.dropLast ++ [(l.1, b.2)] else acc ++ [b]
      | none => [b]) []

/-- Pieces of a row are written to another device. -/
def dmaSend (o : Origin) (node a : Nat) (bs : List (Byte × Bool)) : List (Nat × Nat) → DmaSt → (DmaSt → Act) → Act
  | [], st, k => k st
  | p :: l, st, k =>
    (sendWrite node o (a + p.1) (((bs.drop p.1).take (p.2 - p.1)).map Prod.fst)).seq
      (dmaSend o node a bs l (if st.next.code = 0 then st.rest else st.rest.fail st.next.code true) k)

/-- A row is written to its destination. -/
def dmaStore (phys q seq : Nat) (d : Desc) (x : Nat × Nat) (bs : List (Byte × Bool)) (st : DmaSt)
    (k : DmaSt → Act) : Act :=
  look fun s =>
    let n := dmLen d
    let a := (dmRowAddr d 1 x).toNat % 2 ^ 48
    if gaNode (dmDst d) = nodeId s then
      match placeOf s a with
      | .win key =>
        if windowCode key a n = .ok then (fifoPush key (asRecords key (1 + 7 * phys + q) seq bs)).seq (k st)
        else k (st.fail (errNum (windowCode key a n)) true)
      | _ => if writeRefused s a n then k (st.fail (errNum .permission) false) else (writeLocal a bs).seq (k st)
    else
      let held := (dmaBlocks a n).filter fun b => ((bs.drop b.1).take (b.2 - b.1)).any Prod.snd
      let src := (dmRowAddr d 0 x).toNat % 2 ^ 48
      acts [each held fun b =>
          refuseExport phys (src + b.1 + (((bs.drop b.1).findIdx? Prod.snd).getD 0)),
        let st := if held.isEmpty then st else st.fail 0 false
        if reachable s (gaNode (dmDst d)) then
          dmaSend (.op phys q seq) (gaNode (dmDst d)) a bs (dmaRuns a bs) st k
        else noRoute.seq (k (st.fail cNoRoute true))]

/-- The rows of a transfer, in order. -/
def dmaRowsRun (s0 : State) (phys q seq : Nat) (d : Desc) : List (Nat × Nat) → DmaSt → (DmaSt → Act) → Act
  | [], st, k => k st
  | x :: l, st, k =>
    dmaFetch s0 (.op phys q seq) d x st fun st r =>
      match r with
      | none => dmaRowsRun s0 phys q seq d l st k
      | some bs => dmaStore phys q seq d x bs st fun st => dmaRowsRun s0 phys q seq d l st k

/-- A transfer is carried out (R97). -/
def dmaRun (phys q seq : Nat) (d : Desc) (ans : List RemoteAns) (k : OpResult → Act) : Act :=
  if dmNop d then k OpResult.none
  else look fun s0 =>
    dmaRowsRun s0 phys q seq d (dmRows d) ⟨0, false, false, ans⟩ fun st =>
      k { OpResult.none with
        flags := b2n st.poison + 2 * b2n st.bus
        count := min (dmLen d * dmCnt1 d * dmCnt2 d) (2 ^ 32 - 1)
        aux := st.aux }

end Sys2Proof.Machine
end

