-- ==== Sys2Proof/Machine/HbmMem.lean ====
section
/-! DEFINITION. Memory accesses by local address (R303 to R307, R328), the write-first table (R306) and region zeroing
(R307). -/

namespace Sys2Proof.Machine

/-- The HBMC page of a site. -/
def hbmcPg (site : Nat) : PageRef := ⟨.hbmc, site⟩

/-! ### Reads and writes -/

/-- Whether a requester reaches a local range: a control core its own tile's memories only (R94). -/
def coreReaches (s : State) (req : Requester) (a : Nat) : Bool :=
  match req with
  | .tileCore t => match placeOf s a with
    | .mem (.galley p) _ | .mem (.imem p) _ | .mem (.dmem p) _ => p == physOf s t
    | _ => false
  | _ => true

/-- A management core. -/
def isMgmt : Requester → Bool
  | .mgmt _ => true
  | _ => false

/-- The failing checks of a read: a window answers none (R223), register space is no memory (R27). -/
def readErrs (s : State) (req : Requester) (a n : Nat) : List ErrCode :=
  rangeErrs s a n ++
  when (!coreReaches s req a || (match placeOf s a with | .win _ => true | _ => false)) .permission

/-- The failing checks of a write: windows (R223), whole HBM bursts (R304), protected ranges. -/
def writeErrs (s : State) (req : Requester) (a n : Nat) : List ErrCode :=
  rangeErrs s a n ++
  when (!coreReaches s req a || writeRefused s a n) .permission ++
  when (isHbmAddr s a && (a % 32 != 0 || n % 32 != 0)) .addrAlign ++
  match placeOf s a with
  | .win k => when (!isMgmt req) .permission ++ when (windowCode k a n != .ok) .addrAlign
  | _ => []

/-- The INTG page of the unit that would send a local range out: the memory's (R332). -/
def exportAt (s : State) (a : Nat) : Nat :=
  match placeOf s a with
  | .mem u _ => muIntg u
  | _ => 200

/-- A read of memory: the words are classified, corrected or marked, and written back; marked data leaves for Slaiq as
INTG_POISON (R332). -/
def memoryRead (req : Requester) (a n : Nat) : Act :=
  look fun s =>
    let e := firstErr (readErrs s req a n)
    if rangeHeld s a n then .done
    else if e ≠ .ok then emit (.memData req a (errNum e) [] [])
    else acts [touchLocal a n, look fun t =>
      let x := readLocal t a n
      match x.findIdx? Prod.snd with
      | some i =>
        if req = .slaiq then acts [refuseExport (exportAt s a) (a + i), emit (.memData req a (errNum eIntgPoison) [] [])]
        else emit (.memData req a 0 (x.map Prod.fst) (x.map Prod.snd))
      | none => emit (.memData req a 0 (x.map Prod.fst) (x.map Prod.snd))]

/-- A write of memory, with the marks its words carry; a window takes whole records. -/
def memoryWrite (req : Requester) (a : Nat) (bs : List (Byte × Bool)) : Act :=
  look fun s =>
    let e := firstErr (writeErrs s req a bs.length)
    if rangeHeld s a bs.length then .done
    else acts [emit (.regCode req a (errNum e)),
      onlyIf (e == .ok) <| match placeOf s a with
        | .win k => fifoPush k (asRecords k 0 0 bs)
        | _ => writeLocal a bs]

/-- Data with their marks; marks not listed are clear. -/
def withMarks (data : List Byte) (ms : List Bool) : List (Byte × Bool) :=
  (List.range data.length).map fun i => (data.getD i 0, ms.getD i false)

/-! ### The write-first table (R306) -/

/-- A run of blocks: first, count. -/
abbrev Blocks := Nat × Nat

/-- The blocks of a run outside another. -/
def runMinus (a b : Blocks) : List Blocks :=
  if !rangesMeet a b then (if a.2 = 0 then [] else [a])
  else [(a.1, b.1 - a.1), (b.1 + b.2, a.1 + a.2 - (b.1 + b.2))].filter fun x => x.2 != 0

/-- The blocks of a run within another. -/
def runMeet (a b : Blocks) : List Blocks :=
  if rangesMeet a b then [(max a.1 b.1, min (a.1 + a.2) (b.1 + b.2) - max a.1 b.1)] else []

/-- Blocks of a stack. -/
def stackBlocks : Nat := Config.hbmBytes / 4096

/-- The run of a valid write-first entry. -/
def wfRun (s : State) (site r : Nat) : Option Blocks :=
  if fb s HBMC_WF_VALID site r then some (fv s HBMC_WF_BASE site r, fv s HBMC_WF_BLOCKS site r) else none

/-- The runs of a site's write-first entries. -/
def wfRuns (s : State) (site : Nat) : List Blocks := (List.range 16).filterMap (wfRun s site)

/-- The run a value of an entry's register gives. -/
def wfOf (v : Nat) : Option Blocks := if bit v 63 then some (bits v 23 0, bits v 47 24) else none

/-- The failing checks of a write of entry r. -/
def wfErrs (s : State) (site r v : Nat) : List ErrCode :=
  match wfOf v with
  | none => []
  | some x => when (x.2 == 0 || decide (stackBlocks < x.1 + x.2) ||
      (List.range 16).any fun q => q != r && ((wfRun s site q).toList.any (rangesMeet x))) .fieldRange

/-- The stored bytes, syndromes and written bits of a run of blocks go. -/
def runClear (site : Nat) (x : Blocks) (contents : Bool) : Act :=
  let k := muBase (.hbm site) + x.1 * 4096
  let n := x.2 * 4096
  acts [upd (.writtenClear (2 ^ 60 + k) n), upd (.writtenClear k n),
    onlyIf contents (acts [upd (.memClear k n), upd (.synClear k n)])]

/-- Entry r takes a value: blocks that change mode become unwritten. Those no longer covered read as zeros; those newly
covered hold a residue. -/
def wfStore (site r v : Nat) : Act :=
  look fun s =>
    let old := (wfRun s site r).toList
    let new := (wfOf v).toList
    let minus := fun (a b : List Blocks) => a.flatMap fun x => match b with | y :: _ => runMinus x y | [] => [x]
    acts [setF HBMC_WF_VALID (bits v 63 63) site r, setF HBMC_WF_BLOCKS (bits v 47 24) site r,
      setF HBMC_WF_BASE (bits v 23 0) site r,
      each (minus old new) fun x => runClear site x true,
      each (minus new old) fun x => runClear site x false]

/-! ### Zeroing (R307) -/

/-- The failing checks of a zeroing command; `v` is what fills ZERO_RANGE. -/
def zeroErrs (s : State) (site v : Nat) : List ErrCode :=
  when (fb s HBMC_ZERO_BUSY site) .stateBusy ++ when (bits v 63 48 != 0) .rsvdSet ++
  when (decide (stackBlocks < bits v 23 0 + bits v 47 24)) .lenOverRegion

/-- Runs of a list outside a run. -/
def runsMinus (l : List Blocks) (b : Blocks) : List Blocks := l.flatMap fun a => runMinus a b

/-- An accepted zeroing command: ZERO_VALID blocks become unwritten, WRITE_FIRST blocks await their zeros in ascending
order. -/
def zeroAct (site v : Nat) : Act :=
  look fun s =>
    let x : Blocks := (bits v 23 0, bits v 47 24)
    let wf := (wfRuns s site).flatMap (runMeet x)
    let sorted := wf.mergeSort fun a b => decide (a.1 ≤ b.1)
    acts [setF HBMC_ZR_BLOCKS x.2 site, setF HBMC_ZR_BASE x.1 site,
      each ((wfRuns s site).foldl runsMinus (if x.2 = 0 then [] else [x])) fun y => runClear site y true,
      onlyIf (!sorted.isEmpty) (acts [
        upd (.zeroing site sorted),
        setF HBMC_ZERO_REMAIN (sumN (sorted.map Prod.snd)) site, setF HBMC_ZERO_BUSY 1 site])]

/-- ZEROING_DONE: the last WRITE_FIRST block is zeroed. -/
def zeroDone (site : Nat) : Act :=
  look fun s => acts [
    each (mapGet zeroDefault s.zeroing site) fun x => acts [runClear site x true,
      each (List.range x.2) fun i => upd (.written (blockKey (.hbm site) ((x.1 + i) * 4096)) [true])],
    upd (.zeroing site []), setF HBMC_ZERO_REMAIN 0 site, setF HBMC_ZERO_BUSY 0 site]

/-! ### Rows -/

/-- MEMORY_READ (R328). -/
def execMemoryRead (req : Requester) (addr len : Nat) (s : State) : Host.Outcome State Fault Refusal :=
  .next ((memoryRead req addr len).run s)
/-- MEMORY_WRITE (R306, R331, R338). -/
def execMemoryWrite (req : Requester) (addr : Nat) (data : List Byte) (marks : List Bool) (s : State) :
    Host.Outcome State Fault Refusal := .next ((memoryWrite req addr (withMarks data marks)).run s)
/-- VIEW_READ (R202): a read that meets a view. -/
def execViewRead (req : Requester) (addr len : Nat) (s : State) : Host.Outcome State Fault Refusal :=
  .next ((onlyIf (!(viewsMet s addr len).isEmpty) (memoryRead req addr len)).run s)
/-- ZEROING_DONE (R307). -/
def execZeroingDone (site : Nat) (s : State) : Host.Outcome State Fault Refusal := .next ((zeroDone site).run s)

end Sys2Proof.Machine
end

