-- ==== Sys2Proof/Machine/Curv.lean ====
section
/-! DEFINITION. Curvature: folds (R193 to R197), deliveries of the Solver Engines into block status and slots (R198 to
R200), installation (R201), and the readers that hold a delivery. -/

namespace Sys2Proof.Machine

/-! ### Update Engines -/

/-- An Update Engine's hidden state. -/
def ueSt (s : State) (site : Nat) : Ue := mapGet ueDefault s.ues site

/-- An Update Engine's hidden state changes. -/
def updUe (site : Nat) (f : Ue → Ue) : Act := look fun s => upd (.ue site (f (ueSt s site)))

/-- The UPDT page of a site. -/
def updtPg (site : Nat) : PageRef := ⟨.updt, site⟩

/-- CURV_FAULT takes the first fault since it was read, and FAULT is raised (R190, R196, R204). -/
def curvFault (site group factor byte : Nat) (c : ErrCode) : Act :=
  acts [
    look fun s => onlyIf (!fb s UPDT_CF_VALID site) (acts [setF UPDT_CF_VALID 1 site, setF UPDT_CF_CODE (errNum c) site,
      setF UPDT_CF_GROUP group site, setF UPDT_CF_FACTOR factor site, setF UPDT_CF_BYTE byte site]),
    raiseEvt (updtPg site) evFault]

/-! ### Granules -/

/-- Granules of a block of `b` granules a side, in ascending position (R144). -/
def granules (b : Nat) : List (Nat × Nat) := (List.range b).flatMap fun i => (List.range (b - i)).map fun k => (i, i + k)

/-- Position of granule (i, j), i ≤ j (R144). -/
def granulePos (b i j : Nat) : Nat := i * b - i * (i - 1) / 2 + (j - i)

/-- FP32 words of HBM from a local address: codes and marks. -/
def hbmWords (s : State) (a n : Nat) : List (Nat × Bool) :=
  (List.range n).map fun k => (hbmLE s (a + 4 * k) 4, markedAt s (.hbm (a / 2 ^ 36)) (hbmOff (a + 4 * k)))

/-- FP32 words with marks are written to HBM. -/
def putWords (a : Nat) (ws : List (Nat × Bool)) : Act :=
  writeLocal a (ws.flatMap fun w => (leBytes 4 w.1).map fun b => (b, w.2))

/-- Rounding to FP32 by RNE. -/
def rne32 (x : XR) : Nat := (roundFloat 0 0 0 x).code

/-- The value of an FP32 code. -/
def v32 (c : Nat) : XR := decodeFloat 0 c

/-! ### TRACE and LAMBDA (R194) -/

/-- The FP32 sum of a block's SENT diagonal. -/
def traceOf (s : State) (r : List Byte) (f i : Nat) : Nat :=
  let b := cvSide r f
  ((List.range b).flatMap fun g => (List.range 128).map fun k =>
      cvBlockAddr r f 1 i + granulePos b g g * 65536 + 4 * (128 * k + k)).foldl
    (fun acc a => rne32 (xAdd (v32 acc) (v32 (hbmLE s a 4)))) 0x8000_0000

/-- The damping of a block from its TRACE and record. -/
def lambdaOf (r : List Byte) (f trace : Nat) : Nat :=
  rne32 (xAdd (v32 (cvDampAbs r f))
    (v32 (rne32 (xMul (v32 (cvDampRel r f)) (v32 (rne32 (xDiv (v32 trace) (xInt (cvB r f)))))))))

/-- TRACE (if granules were copied) and LAMBDA are recomputed; a LAMBDA that differs from the last used makes the block
dirty (R194). -/
def refreshBlock (s : State) (r : List Byte) (f i : Nat) (copied : Bool) (b : BlockSt) : BlockSt :=
  let t := if copied then traceOf s r f i else b.trace
  let l := lambdaOf r f t
  let c := { b with trace := t, lambda := l }
  if l != b.lambdaUsed then c.setFlag 2 true else c

/-! ### Folds (R193, R195, R196) -/

/-- The folded value of an element. -/
def foldElem (r : List Byte) (first : Bool) (rx sv : Nat) : Nat :=
  if first then rx
  else rne32 (xAdd (xMul (v32 (cvBeta r)) (v32 sv)) (v32 (rne32 (xMul (v32 (cvAlpha r)) (v32 rx)))))

/-- A granule's S and SENT differ by more than the threshold (R195). -/
def granuleChanged (thr : XR) (sw sent : List (Nat × Bool)) : Bool :=
  (sw.zip sent).any fun x => xLt thr (xAbs (xSub (v32 x.1.1) (v32 x.2.1)))

/-- The change threshold of a block at the start of a fold (R195). -/
def foldThr (r : List Byte) (f trace : Nat) : XR :=
  v32 (rne32 (xMul (v32 (cvEps r)) (v32 (rne32 (xDiv (v32 trace) (xInt (cvB r f)))))))

/-- One granule of a fold: S is written, the change test decides (R193, R195, R196). The continuation receives the status
and whether the granule was copied. -/
def foldGranule (site : Nat) (r : List Byte) (f i p : Nat) (thr : XR) (withheld : Bool) (b : BlockSt)
    (k : BlockSt → Bool → Bool → Act) : Act :=
  let first := cvFolds r f == 0
  let rx := cvBlockAddr r f 2 i + p * 65536
  let sa := cvBlockAddr r f 0 i + p * 65536
  let se := cvBlockAddr r f 1 i + p * 65536
  acts [touchLocal rx 65536, if first then .done else touchLocal sa 65536, touchLocal se 65536,
    look fun s =>
      let x := hbmWords s rx 16384
      let old := if first then x else hbmWords s sa 16384
      let new := (x.zip old).map fun y => (foldElem r first y.1.1 y.2.1, y.1.2 || (!first && y.2.2))
      let poison := new.any Prod.snd
      let nonfin := new.any fun w => !xIsFin (v32 w.1)
      acts [putWords sa new,
        onlyIf nonfin (incF UPDT_CNT_NONFINITE 1 site),
        let eaten := poison || (hbmWords s se 16384).any Prod.snd
        let b1 := if eaten then b.setFlag 4 true else b
        let b2 := if nonfin then b1.setFlag 5 true else b1
        if nonfin || poison || withheld || !granuleChanged thr new (hbmWords s se 16384) then k b2 false eaten
        else if b2.flag 3 then k { b2 with pend := setBit b2.pend p true } false eaten
        else acts [putWords se new, incF UPDT_CNT_GRANULES_SENT 1 site,
          k ({ b2 with chg := setBit b2.chg p true }.setFlag 2 true) true eaten]]]

/-- The granules of a block, in ascending position. -/
def foldGranules (site : Nat) (r : List Byte) (f i : Nat) (thr : XR) (withheld : Bool) :
    List Nat → BlockSt → Bool → Bool → (BlockSt → Bool → Bool → Act) → Act
  | [], b, copied, poison, k => k b copied poison
  | p :: l, b, copied, poison, k =>
    foldGranule site r f i p thr withheld b fun b' c q =>
      foldGranules site r f i thr withheld l b' (copied || c) (poison || q) k

/-- The blocks of a fold, in ascending order; the continuation learns whether a marked word was consumed. -/
def foldBlocks (site : Nat) (r : List Byte) (f : Nat) (withheld : Bool) : List Nat → Bool → (Bool → Act) → Act
  | [], poison, k => k poison
  | i :: l, poison, k => (touchLocal (cvStatusAddr r f i) 640).seq <| look fun s =>
    let b0 := blockStAt s r f i
    let b1 := if withheld then b0.setFlag 6 true else b0
    let eaten := localMarked s (cvStatusAddr r f i) 640
    let b := if eaten then b1.setFlag 4 true else b1
    foldGranules site r f i (foldThr r f b0.trace) (withheld || b0.flag 6) (List.range (cvT r f)) b false eaten
      fun b' copied q => look fun t =>
        (putBlockSt r f i (refreshBlock t r f i copied b')).seq (foldBlocks site r f withheld l (poison || q) k)

/-- A fold ends: blocks folded, FOLDS advanced, DONE sent (R193). -/
def foldEnd (site : Nat) (x : FoldRun) : Act :=
  look fun s =>
    let a := cvAddr s site x.group
    let r := x.rec_
    foldBlocks site r x.factor x.overrun (List.range (cvNB r x.factor)) false fun poison => acts [
      onlyIf (poison && !localMarked s a 128) (consume (updtPg site) (cvBlockAddr r x.factor 2 0)),
      look fun t => hbmPut (a + 112 + 4 * x.factor) (leBytes 4 (satAdd 32 (hbmLE t (a + 112 + 4 * x.factor) 4) 1)),
      incF UPDT_CNT_FOLDS 1 site,
      sendTarget0 (srcOf (updtPg site)) (cvDone r)]

/-- A fold of a factor is asked for while one of that factor runs (R196). -/
def foldOverrun (site group factor : Nat) : Act :=
  acts [
    updUe site fun u => { u with fold := u.fold.map fun x => { x with overrun := true } },
    curvFault site group factor 0 .stateBusy]

/-- The running fold is of a factor. -/
def folding (s : State) (site group factor : Nat) : Bool :=
  match (ueSt s site).fold with
  | some x => x.group == group && x.factor == factor
  | none => false

/-- CURV_CMD RESET (R197). -/
def curvReset (site group factor : Nat) : Act :=
  (look fun s =>
    let r := cvRec s site group
    readRecords (updtPg site) ((cvAddr s site group, 128) ::
      (List.range (cvNB r factor)).map fun i => (cvStatusAddr r factor i, 640))).seq <|
  look fun s =>
    let r := cvRec s site group
    acts [hbmPut (cvAddr s site group + 112 + 4 * factor) (leBytes 4 0),
      each (List.range (cvNB r factor)) fun i =>
        let b := blockStAt s r factor i
        putBlockSt r factor i { ((b.setFlag 4 false).setFlag 5 false).setFlag 6 false with chg := 0, pend := 0 }]

/-- Some block of a factor is SOLVING. -/
def factorSolving (s : State) (site group factor : Nat) : Bool :=
  let r := cvRec s site group
  (List.range (min 64 (cvNB r factor))).any fun i => (blockStAt s r factor i).flag 3

/-! ### Solves meet the block status (R198, R199) -/

/-- The start of a solve on a dirty block: LAMBDA is taken, CHG is handed over, SOLVING is set (R198). -/
def solveTake (r : List Byte) (f i : Nat) : Act :=
  look fun s =>
    let b := blockStAt s r f i
    putBlockSt r f i (({ b with lambdaUsed := b.lambda, chg := 0 }.setFlag 2 false).setFlag 3 true)

/-- Every PEND granule is copied from S to SENT; CHG takes its bits; TRACE and LAMBDA follow (R199). -/
def pendCopy (site : Nat) (r : List Byte) (f i : Nat) : Act :=
  look fun s =>
    let b := blockStAt s r f i
    let ps := rangeF (cvT r f) fun p => bit b.pend p
    acts [
      each ps fun p => acts [touchLocal (cvBlockAddr r f 0 i + p * 65536) 65536, look fun t =>
        writeLocal (cvBlockAddr r f 1 i + p * 65536) (readLocal t (cvBlockAddr r f 0 i + p * 65536) 65536),
        incF UPDT_CNT_GRANULES_SENT 1 site],
      look fun t =>
        let c := { b with chg := b.chg ||| b.pend, pend := 0 }
        putBlockSt r f i (refreshBlock t r f i (!ps.isEmpty) (if ps.isEmpty then c else c.setFlag 2 true))]

/-- A delivery's status fields (R199): 1 SOLVED, 2 BEST, 3 PRIOR, 4 NONE. -/
def deliveryStatus (site : Nat) (r : List Byte) (f i status residual age imp : Nat) (shadow poison : Bool) : Act :=
  acts [
    readRecords (updtPg site) [(cvStatusAddr r f i, 640)],
    look fun s =>
      let b := blockStAt s r f i
      let c := ({ b with
        lastStatus := status
        residual := residual
        age := age
        delivered := imp }.setFlag 3 false)
      let d := if poison then c.setFlag 4 true else c
      putBlockSt r f i (if shadow then d.setFlag 1 true else d),
    pendCopy site r f i]

/-! ### Installation (R201) -/

/-- Failing checks of an installation (R201). -/
def installErrs (s : State) (site group : Nat) : List ErrCode :=
  if !fb s UPDT_CURV_EN site then [.stateNotReady]
  else if fv s UPDT_CURV_COUNT site ≤ group then [.fieldRange]
  else (cvErrs s site group (cvRec s site group)).map Prod.fst

/-- Blocks of a group with a full shadow slot: factor and block. -/
def fullBlocks (s : State) (r : List Byte) : List (Nat × Nat) :=
  [0, 1].flatMap fun f => (rangeF (cvNB r f) fun i => (blockStAt s r f i).flag 1).map fun i => (f, i)

/-- An installation at impression `h` (R201). -/
def install (site group h : Nat) : Act :=
  (look fun s =>
    let r := cvRec s site group
    readRecords (updtPg site) ((cvAddr s site group, 128) ::
      [0, 1].flatMap fun f => (List.range (cvNB r f)).map fun i => (cvStatusAddr r f i, 640))).seq <|
  look fun s =>
    let r := cvRec s site group
    let a := cvAddr s site group
    let bs := fullBlocks s r
    if bs.isEmpty then incF UPDT_CNT_INSTALL_EMPTY 1 site
    else acts [
      each bs fun x =>
        let b := blockStAt s r x.1 x.2
        putBlockSt r x.1 x.2 (({ b with installed := h }.setFlag 0 (!b.flag 0)).setFlag 1 false),
      hbmPut (a + 96) (leBytes 8 (cvGen r + 1) ++ leBytes 6 h),
      incF UPDT_CNT_INSTALLS 1 site]

end Sys2Proof.Machine
end

