-- ==== Sys2Proof/Machine/Trans.lean ====
section
/-! DEFINITION. Transcendental functions, correctly rounded (R160): each is enclosed in an interval of fixed-point
numbers, at rising precision until both ends round alike. -/

namespace Sys2Proof.Machine

/-- A fixed-point interval at `p` fraction bits. -/
abbrev FxIv := Nat × Nat

/-- `n / d * 2^e` at p fraction bits, rounded down and up. -/
def ivOf (p n d : Nat) (e : Int) : FxIv :=
  let q := ratShift n d (e + p)
  (q.1 / q.2, ceilDiv q.1 q.2)

/-- The exponential series of an interval below 1/2: term and sum, until the term is at its last bit. The tail is at
most the last term. -/
def expSeries : Nat → Nat → Nat → FxIv → FxIv → FxIv → FxIv
  | 0, _, _, _, t, s => (s.1, s.2 + t.2)
  | fuel + 1, p, j, r, t, s =>
    if t.2 ≤ 1 then (s.1, s.2 + t.2)
    else
      let t' := (t.1 * r.1 / 2 ^ p / j, ceilDiv (t.2 * r.2) (2 ^ p * j))
      expSeries fuel p (j + 1) r t' (s.1 + t'.1, s.2 + t'.2)

/-- An interval squared n times. -/
def ivSquares : Nat → Nat → FxIv → FxIv
  | 0, _, v => v
  | n + 1, p, v => ivSquares n p (v.1 * v.1 / 2 ^ p, ceilDiv (v.2 * v.2) (2 ^ p))

/-- e^x for a non-negative interval x below 256. -/
def ivExp (p : Nat) (x : FxIv) : FxIv :=
  let r := (x.1 / 512, ceilDiv x.2 512)
  ivSquares 9 p (expSeries (p + 8) p 1 r (2 ^ p, 2 ^ p) (2 ^ p, 2 ^ p))

/-- The reciprocal of a positive interval. -/
def ivRecip (p : Nat) (x : FxIv) : FxIv := (2 ^ (2 * p) / x.2, ceilDiv (2 ^ (2 * p)) x.1)

/-- The series of atanh z for an interval z at most 1/3: odd powers over odd numbers. -/
def atanhSeries : Nat → Nat → Nat → FxIv → FxIv → FxIv → FxIv
  | 0, _, _, _, t, s => (s.1, s.2 + t.2)
  | fuel + 1, p, j, z2, t, s =>
    if t.2 ≤ 1 then (s.1, s.2 + t.2)
    else
      let t' := (t.1 * z2.1 / 2 ^ p, ceilDiv (t.2 * z2.2) (2 ^ p))
      atanhSeries fuel p (j + 2) z2 t' (s.1 + t'.1 / j, s.2 + ceilDiv t'.2 j)

/-- ln (n/d) for n/d from 1 to 2. -/
def ivLnUnit (p n d : Nat) : FxIv :=
  let z := ivOf p (n - d) (n + d) 0
  let z2 := (z.1 * z.1 / 2 ^ p, ceilDiv (z.2 * z.2) (2 ^ p))
  let s := atanhSeries (p + 8) p 3 z2 z z
  (2 * s.1, 2 * s.2)

/-- The functions of R160 beside the algebraic ones. -/
inductive TransFn where
  | exp | exp2 | log | log2 | tanh | sigmoid
deriving DecidableEq, Repr

/-- `n / d * 2^e` as `m * 2^k` with m from 1 to 2: m's numerator and denominator, and k. -/
def unitSplit (n d : Nat) (e : Int) : Nat × Nat × Int :=
  let k := ratLog2 n d
  let m := ratShift n d (-k)
  (m.1, m.2, k + e)

/-- The enclosure of a function of a non-zero finite argument, sign and magnitude interval, at p fraction bits. The
argument's magnitude is below 256 but for the logarithms. -/
def transIv (fn : TransFn) (p : Nat) (neg : Bool) (n d : Nat) (e : Int) : Bool × FxIv :=
  let x := ivOf p n d e
  match fn with
  | .exp => let E := ivExp p x; (false, if neg then ivRecip p E else E)
  | .exp2 =>
    let l2 := ivLnUnit p 2 1
    let E := ivExp p (x.1 * l2.1 / 2 ^ p, ceilDiv (x.2 * l2.2) (2 ^ p))
    (false, if neg then ivRecip p E else E)
  | .log | .log2 =>
    let u := unitSplit n d e
    let lm := ivLnUnit p u.1 u.2.1
    let l2 := ivLnUnit p 2 1
    let f : FxIv := if fn = .log then lm else (lm.1 * 2 ^ p / l2.2, ceilDiv (lm.2 * 2 ^ p) l2.1)
    let one : FxIv := if fn = .log then l2 else (2 ^ p, 2 ^ p)
    if 0 ≤ u.2.2 then (false, (u.2.2.toNat * one.1 + f.1, u.2.2.toNat * one.2 + f.2))
    else (true, ((-u.2.2).toNat * one.1 - f.2, (-u.2.2).toNat * one.2 - f.1))
  | .tanh =>
    let E := ivExp p (2 * x.1, 2 * x.2)
    (neg, ((E.1 - 2 ^ p) * 2 ^ p / (E.1 + 2 ^ p), ceilDiv ((E.2 - 2 ^ p) * 2 ^ p) (E.2 + 2 ^ p)))
  | .sigmoid =>
    let E := ivExp p x
    if neg then (false, (2 ^ (2 * p) / (E.2 + 2 ^ p), ceilDiv (2 ^ (2 * p)) (E.1 + 2 ^ p)))
    else (false, (E.1 * 2 ^ p / (E.1 + 2 ^ p), ceilDiv (E.2 * 2 ^ p) (E.2 + 2 ^ p)))

/-- The rounding of an enclosed value: precision doubles until both ends round alike. -/
def zivRound : Nat → Nat → (Nat → Bool × FxIv) → Nat → Rnd
  | 0, p, iv, f => let v := iv p; roundFloat f 0 0 (.fin v.1 v.2.1 1 (-p))
  | fuel + 1, p, iv, f =>
    let v := iv p
    let lo := roundFloat f 0 0 (.fin v.1 v.2.1 1 (-p))
    if lo.code = (roundFloat f 0 0 (.fin v.1 v.2.2 1 (-p))).code then lo else zivRound fuel (2 * p) iv f

/-- The magnitude is 256 or more. -/
def bigArg (n d : Nat) (e : Int) : Bool := ratGt n d e 255 0

/-- An exact result: 2^x for an integer x, log2 of a power of two, log 1. -/
def transExact (fn : TransFn) (neg : Bool) (n d : Nat) (e : Int) : Option XR :=
  match fn with
  | .exp2 =>
    let q := ratShift n d e
    if q.1 % q.2 = 0 then
      let k : Int := (q.1 / q.2 : Nat)
      some (.fin false 1 1 (if neg then -k else k))
    else none
  | .log | .log2 =>
    let u := unitSplit n d e
    if u.1 = u.2.1 ∧ (fn = .log2 ∨ u.2.2 = 0) then some (xInt u.2.2) else none
  | _ => none

/-- A transcendental function of an exact argument, rounded once by RNE into format f (R160). -/
def transRound (fn : TransFn) (f : Nat) (x : XR) : Rnd :=
  match x with
  | .nan => roundFloat f 0 0 .nan
  | .inf s => match fn with
    | .exp | .exp2 => roundFloat f 0 0 (if s then xZero false else .inf false)
    | .log | .log2 => roundFloat f 0 0 (if s then .nan else .inf false)
    | .tanh => roundFloat f 0 0 (.fin s 1 1 0)
    | .sigmoid => roundFloat f 0 0 (if s then xZero false else xInt 1)
  | .fin s n d e =>
    if n = 0 then match fn with
      | .exp | .exp2 => roundFloat f 0 0 (xInt 1)
      | .log | .log2 => roundFloat f 0 0 (.inf true)
      | .tanh => roundFloat f 0 0 (xZero s)
      | .sigmoid => roundFloat f 0 0 (.fin false 1 1 (-1))
    else if (fn = .log ∨ fn = .log2) ∧ s then roundFloat f 0 0 .nan
    else if fn ≠ .log ∧ fn ≠ .log2 ∧ bigArg n d e then
      match fn with
      | .tanh => roundFloat f 0 0 (.fin s (2 ^ 300 - 1) 1 (-300))
      | .sigmoid => roundFloat f 0 0 (if s then .fin false 1 1 (-300) else .fin false (2 ^ 300 - 1) 1 (-300))
      | _ => roundFloat f 0 0 (.fin false 1 1 (if s then -300 else 300))
    else
      match transExact fn s n d e with
      | some v => roundFloat f 0 0 v
      | none => zivRound 8 128 (fun p => transIv fn p s n d e) f

end Sys2Proof.Machine
end

