-- ==== Sys2Proof/Machine/Vector.lean ====
section
/-! DEFINITION. The vector engine: descriptor body and checks (R149 to R154, R157, R171), elementwise operations (R158 to
R161), reductions (R162 to R164), soft maximum (R165 to R167), output port and summaries (R168), and block tracking of a
tracked CVT (R178 to R183). -/

namespace Sys2Proof.Machine

/-! ### The body (R150) -/

/-- LEN. -/
def vLen (d : Desc) : Nat := bits (recLE d 48 4) 16 0
/-- ROWS. -/
def vRows (d : Desc) : Nat := bits (recLE d 52 4) 16 0
/-- FMT_X. -/
def vFx (d : Desc) : Nat := bits (recLE d 56 1) 3 0
/-- FMT_Y. -/
def vFy (d : Desc) : Nat := bits (recLE d 56 1) 7 4
/-- FMT_Z. -/
def vFz (d : Desc) : Nat := bits (recLE d 57 1) 3 0
/-- FMT_W. -/
def vFw (d : Desc) : Nat := bits (recLE d 57 1) 7 4
/-- RND. -/
def vRnd (d : Desc) : Nat := bits (recLE d 58 1) 1 0
/-- SCALE_MODE. -/
def vScale (d : Desc) : Nat := bits (recLE d 58 1) 3 2
/-- MASK_MODE. -/
def vMask (d : Desc) : Nat := bits (recLE d 58 1) 5 4
/-- MASK_FILL. -/
def vFill (d : Desc) : Bool := bit (recLE d 58 1) 6
/-- MASK_OUT. -/
def vMaskOut (d : Desc) : Bool := bit (recLE d 58 1) 7
/-- AXIS. -/
def vAxis (d : Desc) : Bool := bit (recLE d 59 1) 0
/-- WATCH_EN. -/
def vWatch (d : Desc) : Bool := bit (recLE d 59 1) 1
/-- OCC_EN. -/
def vOccEn (d : Desc) : Bool := bit (recLE d 59 1) 2
/-- STATS_EN. -/
def vStats (d : Desc) : Bool := bit (recLE d 59 1) 3
/-- PRED. -/
def vPred (d : Desc) : Nat := bits (recLE d 59 1) 7 4
/-- SR_BASE. -/
def vSrBase (d : Desc) : Nat := recLE d 112 8
/-- SR_STEP. -/
def vSrStep (d : Desc) : Nat := recLE d 120 4
/-- FXEXP. -/
def vFxExp (d : Desc) : Int := toInt 8 (recLE d 124 1)

/-- An operand slot: 0 X, 1 Y, 2 Z, 3 W. -/
structure VecOp where
  addr : Nat
  ist : Int
  ost : Int
  fmt : Nat
deriving DecidableEq, Repr

/-- An operand of the body in a format. -/
def vOpnd (d : Desc) (slot fmt : Nat) : VecOp :=
  ⟨galAddr' d (60 + 4 * slot), toInt 16 (recLE d (76 + 2 * slot) 2), toInt 32 (recLE d (84 + 4 * slot) 4), fmt⟩
where
  galAddr' (d : Desc) (o : Nat) : Nat := bits (recLE d o 4) 20 0

/-- A galley address of the body. -/
def vAddr (d : Desc) (o : Nat) : Nat := bits (recLE d o 4) 20 0

/-- No extent: LEN or ROWS is 0 (R153). -/
def vNop (d : Desc) : Bool := vLen d == 0 || vRows d == 0

/-- The operation classes of R149. -/
inductive VClass where
  | unary | trans | binary | cmp | fma | sel | cvt | reduce | softmax | reserved
deriving DecidableEq, Repr

/-- The class of an opcode. -/
def vClass (o : Nat) : VClass :=
  if 1 ≤ o ∧ o ≤ 3 then .unary else if 4 ≤ o ∧ o ≤ 0xC then .trans
  else if 0x10 ≤ o ∧ o ≤ 0x16 then .binary else if o = 0x17 then .cmp
  else if o = 0x20 then .fma else if o = 0x21 then .sel else if o = 0x30 then .cvt
  else if 0x40 ≤ o ∧ o ≤ 0x48 then .reduce else if o = 0x50 then .softmax else .reserved

/-- The operation reads Y. -/
def readsY : VClass → Bool
  | .binary | .cmp | .fma | .sel => true
  | _ => false

/-- FP32, FP16, BF16. -/
def isF (f : Nat) : Bool := f ≤ 2
/-- INT8, INT32. -/
def isI (f : Nat) : Bool := f == 7 || f == 8

/-- The formats of an operation stand in R151's table. -/
def vFmtOk (o : Nat) (d : Desc) : Bool :=
  let x := vFx d
  let z := vFz d
  let w := vFw d
  let a := isF x || isI x
  match vClass o with
  | .unary | .sel => a && z == x
  | .trans => isF x && z == x
  | .binary => (if o = 0x16 then isF x else a) && z == x
  | .cmp => a && (vMaskOut d || isI z)
  | .fma => (isF x && (z == x || z == 0) && (w == x || w == 0)) || (isI x && z == 8 && w == 8)
  | .cvt => ((x ≤ 8 && z ≤ 8) || (x == 0 && z == 9) || (x == 9 && z == 0)) && (vScale d == 0 || w == 0)
  | .softmax => isF x && (z == x || z == 0) && (!vStats d || w == 0)
  | .reduce =>
    if o = 0x48 then isF x && z == 0
    else a && (
      if o = 0x40 || o = 0x41 then z == (if isF x then 0 else 8)
      else if o = 0x45 || o = 0x46 || o = 0x47 then z == 8
      else z == x || (isF x && z == 0) || (x == 7 && z == 8))
  | .reserved => true

/-- The element operands an opcode uses, with their slot; Z last where it is one. -/
def vOperands (o : Nat) (d : Desc) : List (Nat × VecOp) :=
  let c := vClass o
  [(0, vOpnd d 0 (vFx d))] ++ (if readsY c then [(1, vOpnd d 1 (vFy d))] else []) ++
    (if c = .fma then [(3, vOpnd d 3 (vFw d))] else []) ++
    (if c = .softmax && vStats d then [(4, { vOpnd d 3 0 with ist := 1 })] else []) ++
    (if c = .cmp && vMaskOut d then []
      else if c = .reduce then [(2, { vOpnd d 2 (vFz d) with ist := 0, ost := if vAxis d then (vOpnd d 2 0).ost else 0 })]
      else [(2, vOpnd d 2 (vFz d))])

/-- The span of an operand over rows of n elements: lowest byte and one past the highest (R154). -/
def vSpan (p : VecOp) (rows n : Nat) : Int × Int :=
  let r1 : Int := ((rows : Int) - 1) * p.ost
  let w := fmtBits p.fmt
  let c : Int × Int :=
    if w % 8 = 0 then
      let c1 : Int := ((n : Int) - 1) * p.ist * (w / 8 : Nat)
      (min 0 c1, max 0 c1 + (w / 8 : Nat))
    else (0, if p.ist = 0 then 1 else ((if w = 4 then ceilDiv n 2 else 3 * ceilDiv n 4 : Nat) : Int))
  ((p.addr : Int) + min 0 r1 + c.1, (p.addr : Int) + max 0 r1 + c.2)

/-- Scale blocks, or tracked blocks (R161, R178). -/
def vBlocks (d : Desc) : Nat := if vScale d = 1 then 1 else ceilDiv (vRows d) 128 * ceilDiv (vLen d) 128

/-- The scale block of an element. -/
def vBlockOf (d : Desc) (r c : Nat) : Nat := if vScale d = 2 then r / 128 * ceilDiv (vLen d) 128 + c / 128 else 0

/-- A tracked CVT (R178). -/
def vTrack (ctl : List Byte) : Bool := bit (recLE ctl 0 1) 0

/-- The spans of a descriptor by name: 0 X, 1 Y, 2 Z, 3 W, 4 statistics, 5 scales, 6 mask, 7 watch, 8 occupancy. -/
def vSpans (o : Nat) (d : Desc) (ctl : List Byte) : List (Nat × Int × Int) :=
  let rows := vRows d
  let n := vLen d
  let at_ := fun (name off len : Nat) => (name, ((vAddr d off : Nat) : Int), ((vAddr d off + len : Nat) : Int))
  ((vOperands o d).map fun p =>
    (p.1, vSpan p.2 (if vClass o = .reduce && p.1 == 2 && !vAxis d then 1 else rows)
      (if p.1 == 4 then 2 else if vClass o = .reduce && p.1 == 2 then 1 else n))) ++
  (if vClass o = .cmp && vMaskOut d then [at_ 2 68 (ceilDiv (rows * n) 8)] else []) ++
  (if vClass o = .cvt && vScale d != 0 then [at_ 5 72 (4 * vBlocks d)] else []) ++
  (if vMask d = 0 then [] else [at_ 6 100 (ceilDiv (if vMask d = 1 then rows * n else rows) 8)]) ++
  (if vWatch d then [at_ 7 104 (512 + if vTrack ctl then 15 * roundUp (vBlocks d) 16 else 0)] else []) ++
  (if vOccEn d then [at_ 8 108 (bmpLen' rows n)] else [])
where
  bmpLen' (rows cols : Nat) : Nat := ceilDiv (ceilDiv rows 32 * ceilDiv cols 32) 8

/-- Z and an input have the same address, strides and element size: in place (R154). -/
def vInPlace (o : Nat) (d : Desc) (slot : Nat) : Bool :=
  match (vOperands o d).find? (·.1 == slot), (vOperands o d).find? (·.1 == 2) with
  | some p, some z => p.2.addr == z.2.addr && p.2.ist == z.2.ist && p.2.ost == z.2.ost &&
      fmtBits p.2.fmt == fmtBits z.2.fmt
  | _, _ => false

/-- Extents meet other than as R154 and R177 allow. -/
def vOverlap (o : Nat) (d : Desc) (ctl : List Byte) : Bool :=
  let sp := vSpans o d ctl
  let z := sp.filter (·.1 == 2)
  let side := sp.filter fun x => x.1 == 2 || x.1 == 4 || x.1 == 6 || x.1 == 7 || x.1 == 8
  (sp.any fun x => (x.1 == 0 || x.1 == 1 || x.1 == 3) && z.any (fun y => meets x.2 y.2) && !vInPlace o d x.1) ||
    anyMeets z (sp.filter (·.1 == 5)) || anyMeets side side ||
    anyMeets (sp.filter (·.1 == 5)) (sp.filter (·.1 == 7))

/-- An opcode that rounds by RND: CVT, and the floating operations that are not exact (R159). -/
def vUsesRnd (o : Nat) (d : Desc) : Bool :=
  vClass o = .cvt || (isF (vFx d) && (o == 0x10 || o == 0x11 || o == 0x12 || o == 0x13 || vClass o = .fma ||
    vClass o = .trans || vClass o = .reduce || vClass o = .softmax))

/-- The failing checks of a vector descriptor's body (R149, R151, R153, R154, R157, R159, R161, R168, R171, R174). -/
def vectorErrs (d : Desc) (ctl : List Byte) : List ErrCode :=
  let o := hOpcode d
  let c := vClass o
  if c = .reserved then [.fieldRange]
  else
    let ops := vOperands o d
    let narrow := fun f => f == 5 || f == 6
    let used := (ops.map fun p => if p.1 == 4 then 72 else 60 + 4 * p.1) ++
      (if c = .cmp && vMaskOut d then [68] else []) ++ (if c = .cvt && vScale d != 0 then [72] else []) ++
      (if vMask d = 0 then [] else [100]) ++ (if vWatch d then [104] else []) ++ (if vOccEn d then [108] else [])
    when (bits (recLE d 48 4) 31 17 != 0 || bits (recLE d 52 4) 31 17 != 0 || recLE d 125 3 != 0 ||
      used.any fun a => bits (recLE d a 4) 31 21 != 0) .rsvdSet ++
    when (!vFmtOk o d || (readsY c && !(isF (vFy d) || isI (vFy d)))) .formatUnsupported ++
    when (readsY c && vFx d != vFy d) .formatMismatch ++
    when (decide (65536 < vLen d) || decide (65536 < vRows d)) .lenRange ++
    when ((vUsesRnd o d && vRnd d == 3) || vScale d == 3 || vMask d == 3 || (c = .cmp && decide (6 < vPred d)) ||
      (vOccEn d && (c = .reduce || (c = .cmp && vMaskOut d))) ||
      ops.any fun p => narrow p.2.fmt && p.2.ist == 1 && vLen d % (if p.2.fmt = 6 then 2 else 4) != 0) .fieldRange ++
    (if vWatch d then ctlErrs ctl (c = .cvt) (vScale d != 0 && decide (3 ≤ vFz d ∧ vFz d ≤ 6)) else []) ++
    when ((ops.any fun p => let w := fmtBits p.2.fmt / 8
        decide (2 ≤ w) && (p.2.addr % w != 0 || p.2.ost % (w : Int) != 0)) ||
      (vMask d != 0 && vAddr d 100 % 8 != 0) || (vWatch d && vAddr d 104 % 64 != 0) ||
      (vOccEn d && vAddr d 108 % 8 != 0) || (c = .cvt && vScale d != 0 && vAddr d 72 % 4 != 0)) .addrAlign ++
    when (!vNop d && (vSpans o d ctl).any fun x => decide (x.2.1 < 0) || decide (2097152 < x.2.2)) .lenOverRegion ++
    when ((c != .reduce && (vOpnd d 2 0).ist == 0) ||
      ops.any fun p => narrow p.2.fmt && p.2.ist != 0 && p.2.ist != 1) (.block 0x30) ++
    when (vUsesRnd o d && vRnd d != 0 && (c = .trans || c = .reduce || c = .softmax)) (.block 0x31) ++
    when (vScale d != 0 && (c != .cvt || vFx d == 9 || vFz d == 9)) (.block 0x32) ++
    when ((c = .sel && vMask d != 1) || (vMaskOut d && c != .cmp)) (.block 0x33) ++
    when (!vNop d && vOverlap o d ctl) (.block 0x34)

/-! ### Elements -/

/-- The start of an operand's row. -/
def vRow (p : VecOp) (r : Nat) : Int := (p.addr : Int) + r * p.ost

/-- The bytes of element (r, c) of an operand (R152). -/
def vRead (p : VecOp) (r c : Nat) : GRead := elemRead p.fmt (vRow p r) (c * p.ist)

/-- The code of element (r, c) and whether its word is marked. -/
def vElem (s : State) (phys : Nat) (p : VecOp) (r c : Nat) : Nat × Bool :=
  (elemCode s phys p.fmt (vRow p r) (c * p.ist), readMarked s phys (vRead p r c))

/-- The mask bit of element (r, c): its value and its mark; a marked word's bits read as active (R157, R329). -/
def vBit (s : State) (phys : Nat) (d : Desc) (r c : Nat) : Bool × Bool :=
  if vMask d = 0 then (true, false)
  else bitAt s phys (vAddr d 100) (if vMask d = 1 then r * vLen d + c else r)

/-- Element (r, c) is active. SEL reads the mask as its selector: every element is active (R157). -/
def vActive (s : State) (phys : Nat) (d : Desc) (r c : Nat) : Bool :=
  vClass (hOpcode d) = .sel || (vBit s phys d r c).1

/-- The random word of element e (R115, R159). -/
def vRandom (s : State) (d : Desc) (e : Nat) : Nat :=
  if vRnd d = 2 then philox (fv s CONF_JOB_SEED) ((vSrBase d + e) % 2 ^ 64) (vSrStep d) 3 else 0

/-- A comparison predicate (R158). -/
def vPredHolds (p : Nat) (x y : XR) : Bool :=
  match p with
  | 0 => xEq x y
  | 1 => !xEq x y
  | 2 => xLt x y
  | 3 => xLe x y
  | 4 => xLt y x
  | 5 => xLe y x
  | _ => xIsNan x || xIsNan y

/-- The watch class of a stored floating value (R118). -/
def clsOf (f code : Nat) : Cls :=
  if !isFloat f then .none else match decodeFloat f code with
    | .nan => .nan
    | .inf _ => .inf
    | _ => .none

/-- Truncating integer division; 0 for a zero divisor (R124, R159). -/
def intDiv (a b : Int) : Int := if b = 0 then 0 else a.tdiv b

/-- The result of an integer operation: exact, then saturated (R124, R159); and whether it divided by zero. -/
def vIntOp (o f : Nat) (a b w : Int) : Rnd × Bool :=
  let r : Int := match o with
    | 0x02 => -a
    | 0x03 => (a.natAbs : Int)
    | 0x10 => a + b
    | 0x11 => a - b
    | 0x12 => a * b
    | 0x13 => intDiv a b
    | 0x14 => max a b
    | 0x15 => min a b
    | 0x20 => a * b + w
    | _ => a
  let q := roundInt (fmtBits f) 0 0 (xInt r)
  if o = 0x13 && b == 0 then (⟨0, .nan⟩, true) else (q, false)

/-- The result of a floating operation that rounds once (R122, R123, R159, R160). -/
def vFloatOp (o fz mode u : Nat) (x y w : XR) : Rnd :=
  match o with
  | 0x01 => roundFloat fz 0 0 x
  | 0x04 => roundFloat fz 0 0 (xSqrt x)
  | 0x05 => roundFloat fz 0 0 (xRsqrt x)
  | 0x06 => roundFloat fz 0 0 (xDiv (xInt 1) x)
  | 0x07 => transRound .exp fz x
  | 0x08 => transRound .exp2 fz x
  | 0x09 => transRound .log fz x
  | 0x0A => transRound .log2 fz x
  | 0x0B => transRound .tanh fz x
  | 0x0C => transRound .sigmoid fz x
  | 0x10 => roundFloat fz mode u (xAdd x y)
  | 0x11 => roundFloat fz mode u (xSub x y)
  | 0x12 => roundFloat fz mode u (xMul x y)
  | 0x13 => roundFloat fz mode u (xDiv x y)
  | 0x14 => roundFloat fz 0 0 (xMax x y)
  | 0x15 => roundFloat fz 0 0 (xMin x y)
  | 0x20 => roundFloat fz mode u (xAdd (xMul x y) w)
  | _ => roundFloat fz 0 0 x

/-- A sign-bit operation on a floating code (R107). -/
def vSignOp (o f a b : Nat) : Nat :=
  let sb := signBit f
  match o with
  | 0x02 => a ^^^ sb
  | 0x03 => a % sb
  | _ => a % sb + b / sb * sb

/-- The scale of an element and the mark of its word (R161). -/
def vScaleAt (s : State) (phys : Nat) (d : Desc) (b : Nat) : XR × Bool :=
  if vScale d = 0 then (xInt 1, false)
  else (decodeFloat 0 (rdG s phys (vAddr d 72 + 4 * b) 4), mkG s phys (vAddr d 72 + 4 * b) 4)

/-- The exact input of a CVT. -/
def cvtIn (d : Desc) (code : Nat) : XR := if vFx d = 9 then fxVal (toInt 40 code) (vFxExp d) else decodeElem (vFx d) code

/-- A conversion (R109, R113, R116, R117). -/
def cvtElem (d : Desc) (x sc : XR) (u : Nat) : Rnd :=
  if vFz d = 9 then
    let r := roundFx (vRnd d) u (vFxExp d) x
    ⟨ofInt 40 r.1, r.2⟩
  else roundElem (vFz d) (vRnd d) u (xDiv x sc)

/-- One output element of an elementwise operation: code, class, mark; and whether it divided an integer by zero. -/
def vCompute (s : State) (phys : Nat) (d : Desc) (r c : Nat) : Watched × Bool :=
  let o := hOpcode d
  let cl := vClass o
  let x := vElem s phys (vOpnd d 0 (vFx d)) r c
  let y := if readsY cl then vElem s phys (vOpnd d 1 (vFx d)) r c else (0, false)
  let w := if cl = .fma then vElem s phys (vOpnd d 3 (vFw d)) r c else (0, false)
  let m := vBit s phys d r c
  let u := vRandom s d (r * vLen d + c)
  let f := vFx d
  match cl with
  | .cvt =>
    let sc := vScaleAt s phys d (vBlockOf d r c)
    let q := cvtElem d (cvtIn d x.1) sc.1 u
    (⟨q.code, q.cls, x.2 || sc.2 || m.2⟩, false)
  | .sel =>
    let v := if m.1 then x else y
    let code := if isF f then (roundFloat f 0 0 (decodeFloat f v.1)).code else v.1
    (⟨code, clsOf f code, v.2 || m.2⟩, false)
  | .cmp =>
    (⟨b2n (vPredHolds (vPred d) (decodeElem f x.1) (decodeElem f y.1)), .none, x.2 || y.2 || m.2⟩, false)
  | _ =>
    let p := x.2 || y.2 || w.2 || m.2
    if isI f then
      let q := vIntOp o (vFz d) (toInt (fmtBits f) x.1) (toInt (fmtBits f) y.1) (toInt 32 w.1)
      (⟨q.1.code, q.1.cls, p⟩, q.2)
    else if o = 0x02 || o = 0x03 || o = 0x16 then
      let code := vSignOp o f x.1 y.1
      (⟨code, clsOf f code, p⟩, false)
    else
      let q := vFloatOp o (vFz d) (vRnd d) u (decodeFloat f x.1) (decodeFloat f y.1) (decodeFloat (vFw d) w.1)
      (⟨q.code, q.cls, p⟩, false)

/-! ### Writes of Z -/

/-- The writes of elements (r, c) of Z: `none` leaves an element unchanged (R103, R157). -/
def vZRow (s : State) (phys : Nat) (z : VecOp) (r : Nat) (es : List (Option (Nat × Bool))) : List OpWrite :=
  if fmtBits z.fmt % 8 = 0 then
    joinWrites (((List.range es.length).zip es).filterMap fun e => e.2.map fun v =>
      let b := elemBytes z.fmt v.1
      ⟨.galley phys, (elemOff z.fmt (vRow z r) (e.1 * z.ist)).toNat, b, List.replicate b.length v.2⟩)
  else if es.all Option.isNone then []
  else
    let n := es.length * fmtBits z.fmt / 8
    let q := packRow z.fmt (readBytes s (.galley phys) (vRow z r).toNat n) es
    [⟨.galley phys, (vRow z r).toNat, q.1, q.2⟩]

/-- The elements of an elementwise operation, row by row: `none` where a masked one is left unchanged. -/
def vOutRow (s : State) (phys : Nat) (d : Desc) (r : Nat) : List (Option (Watched × Bool)) :=
  (List.range (vLen d)).map fun c =>
    if vActive s phys d r c then some (vCompute s phys d r c)
    else if vFill d then some (⟨0, .none, false⟩, false)
    else none

/-! ### Block tracking (R179 to R182) -/

/-- What a tracked CVT gathers of one block (R179). -/
structure BlockObs where
  n : Nat
  amax : Nat
  van : Nat
  ovf : Bool
  poison : Bool
  nonfin : Bool
  zero : Bool
deriving DecidableEq, Repr

/-- The elements of a block. -/
def blockElems (d : Desc) (b : Nat) : List (Nat × Nat) :=
  let nc := ceilDiv (vLen d) 128
  let rs := if vScale d = 2 then (List.range 128).map (b / nc * 128 + ·) |>.filter (· < vRows d) else List.range (vRows d)
  let cs := if vScale d = 2 then (List.range 128).map (b % nc * 128 + ·) |>.filter (· < vLen d) else List.range (vLen d)
  rs.flatMap fun r => cs.map fun c => (r, c)

/-- The observation of a block. -/
def blockObs (s : State) (phys : Nat) (d : Desc) (b : Nat) : BlockObs :=
  let es := (blockElems d b).filter fun e => vActive s phys d e.1 e.2
  let xs := es.map fun e =>
    (cvtIn d (vElem s phys (vOpnd d 0 (vFx d)) e.1 e.2).1, (vCompute s phys d e.1 e.2).1)
  let sc := (vScaleAt s phys d b).1
  let live := xs.filter fun x => !x.2.poison
  ⟨es.length,
    (live.foldl (fun acc x => if xIsFin x.1 then xMax acc (xAbs x.1) else acc) (xZero false) |> roundFloat 0 0 0).code,
    countB (fun x => x.2.cls == .vanished) live,
    live.any fun x => xIsFin x.1 && (match xDiv x.1 sc with
      | .inf _ => true
      | q => beyondMax (vFz d) q),
    xs.any fun x => x.2.poison,
    xs.any fun x => !xIsFin x.1,
    !xs.isEmpty && xs.all fun x => xIsZero x.1⟩

/-- p2 of R181: the power of two that leaves L bits of head-room between the estimate and the target's maximum. -/
def p2Scale (fz L : Nat) (E : XR) : XR :=
  match E with
  | .fin _ n d e =>
    let t := maxMag fz
    let lg := ratLog2 n (d * t.1) + e - t.2
    let q := ratShift n (d * t.1) (e - t.2 - lg)
    .fin false 1 1 ((if q.1 = q.2 then lg else lg + 1) + L)
  | x => x

/-- A computed scale clamped to [2^-126, 2^127], and whether that changed it. -/
def clampScale (x : XR) : XR × Bool :=
  let lo := XR.fin false 1 1 (-126)
  let hi := XR.fin false 1 1 127
  if xLt x lo then (lo, true) else if xLt hi x then (hi, true) else (x, false)

/-- What a tracked CVT writes for one block: NEXT, EST (where it changes), AMAX, FLAGS, VAN; and marks of NEXT and
EST (R180, R181). -/
structure BlockOut where
  next : Nat
  est : Option Nat
  amax : Nat
  flags : Nat
  van : Nat
  poison : Bool
deriving DecidableEq, Repr

/-- The offset of the tracking section, and p (R178). -/
def trackOff (d : Desc) : Nat := vAddr d 104 + 512
/-- p. -/
def trackP (d : Desc) : Nat := roundUp (vBlocks d) 16

/-- The outcome of a block (R180, R181). -/
def blockOut (s : State) (phys : Nat) (d : Desc) (ctl : List Byte) (b : Nat) : BlockOut :=
  let ob := blockObs s phys d b
  let scOff := vAddr d 72 + 4 * b
  let sCode := rdG s phys scOff 4
  let sc := decodeFloat 0 sCode
  let estOff := trackOff d + 4 * trackP d + 4 * b
  let estX := decodeFloat 0 (rdG s phys estOff 4)
  let thr := recLE ctl 1 1
  let base := b2n ob.ovf + 2 * b2n ob.zero + 4 * b2n (thr != 0 && decide (thr * ob.n < ob.van * 256)) +
    8 * b2n ob.nonfin + 16 * b2n (ob.n == 0) + 32 * b2n ob.poison
  let van := min ob.van 65535
  if ob.poison || ob.n == 0 || ob.zero then ⟨sCode, none, ob.amax, base, van, mkG s phys scOff 4⟩
  else
    let okE := xIsFin estX && xLe (xZero false) estX
    let est := xMax (decodeFloat 0 ob.amax) (f32 (xMul (if okE then estX else xZero false) (decodeFloat 0 (recLE ctl 4 4))))
    let badS := !xIsFin sc || xLe sc (xZero false)
    let L := bits (recLE ctl 0 1) 6 4
    let n0 :=
      if badS then (if xIsZero est then xInt 1 else p2Scale (vFz d) L est)
      else if ob.ovf then xMul (xInt 2) sc
      else if xIsZero est then sc
      else p2Scale (vFz d) L est
    let n1 := clampScale n0
    ⟨(roundFloat 0 0 0 n1.1).code, some (roundFloat 0 0 0 est).code, ob.amax,
      base + 64 * b2n (badS || n1.2) + 128 * b2n (!okE), van, mkG s phys estOff 4⟩

/-- The writes of a tracking section. -/
def trackWrites (phys : Nat) (d : Desc) (bs : List BlockOut) : List OpWrite :=
  let t := trackOff d
  let p := trackP d
  let ib := (List.range bs.length).zip bs
  joinWrites (ib.map fun x => ⟨.galley phys, t + 4 * x.1, leBytes 4 x.2.next, List.replicate 4 x.2.poison⟩) ++
  joinWrites (ib.filterMap fun x => x.2.est.map fun e =>
    ⟨.galley phys, t + 4 * p + 4 * x.1, leBytes 4 e, List.replicate 4 x.2.poison⟩) ++
  joinWrites (ib.map fun x => plainWrite phys (t + 8 * p + 4 * x.1) (leBytes 4 x.2.amax)) ++
  joinWrites (ib.map fun x => plainWrite phys (t + 12 * p + x.1) (leBytes 1 x.2.flags)) ++
  joinWrites (ib.map fun x => plainWrite phys (t + 13 * p + 2 * x.1) (leBytes 2 x.2.van))

/-! ### What an operation reads -/

/-- The mask's words. -/
def vCtrlReads (d : Desc) : List GRead :=
  if vMask d = 0 then []
  else [(vAddr d 100, ceilDiv (if vMask d = 1 then vRows d * vLen d else vRows d) 8)]

/-- The positions of an operation. -/
def vPositions (d : Desc) : List (Nat × Nat) :=
  (List.range (vRows d)).flatMap fun r => (List.range (vLen d)).map fun c => (r, c)

/-- Operand words of active elements, scale words their blocks use, EST of a tracked CVT. Of SEL's two inputs, both are
read; the selected one is consumed (R157). -/
def vDataReads (s : State) (phys : Nat) (d : Desc) (ctl : List Byte) (consumed : Bool) : List GRead :=
  let cl := vClass (hOpcode d)
  ((vPositions d).filter fun e => vActive s phys d e.1 e.2).flatMap (fun e =>
    let x := [vRead (vOpnd d 0 (vFx d)) e.1 e.2]
    let y := if readsY cl then [vRead (vOpnd d 1 (vFx d)) e.1 e.2] else []
    (if cl = .sel && consumed then (if (vBit s phys d e.1 e.2).1 then x else y) else x ++ y) ++
      (if cl = .fma then [vRead (vOpnd d 3 (vFw d)) e.1 e.2] else []) ++
      (if cl = .cvt && vScale d != 0 then [(vAddr d 72 + 4 * vBlockOf d e.1 e.2, 4)] else [])) ++
  (if cl = .cvt && vWatch d && vTrack ctl then [(trackOff d + 4 * trackP d, 4 * vBlocks d)] else [])

/-! ### Results -/

/-- The VECT counters a set of watched elements advances (R169). -/
def vectCounts (phys : Nat) (ws : List Watched) : List (Nat × Nat) :=
  [(fldKey VECT_CNT_OPS phys 0, 1), (fldKey VECT_CNT_NAN phys 0, clsCount .nan ws),
    (fldKey VECT_CNT_INF phys 0, clsCount .inf ws), (fldKey VECT_CNT_SAT phys 0, clsCount .sat ws),
    (fldKey VECT_CNT_VANISHED phys 0, clsCount .vanished ws)]

/-- A 32-bit saturated count. -/
def sat32 (n : Nat) : Nat := min n (2 ^ 32 - 1)

/-- An elementwise operation (R157 to R161, R168, R182, R183). -/
def vElementwise (s : State) (phys : Nat) (d : Desc) (ctl : List Byte) : OpResult :=
  let o := hOpcode d
  let mo := vClass o = .cmp && vMaskOut d
  let rows := (List.range (vRows d)).map (vOutRow s phys d)
  let flat := rows.flatMap id
  let outs := flat.filterMap id
  let ws := if mo then [] else outs.map (·.1)
  let z := vOpnd d 2 (vFz d)
  let active := countB (fun e => vActive s phys d e.1 e.2) (vPositions d)
  let zw : List OpWrite :=
    if mo then
      let bs := (vPositions d).map fun e =>
        if vActive s phys d e.1 e.2 then (let w := (vCompute s phys d e.1 e.2).1; (w.code == 1, w.poison))
        else (false, false)
      [⟨.galley phys, vAddr d 68, bitsToBytes (bs.map (·.1)),
        (List.range (ceilDiv bs.length 8)).map fun i => (List.range 8).any fun j => (bs.getD (8 * i + j) (false, false)).2⟩]
    else ((List.range rows.length).zip rows).flatMap fun r =>
      vZRow s phys z r.1 (r.2.map fun e => e.map fun w => (w.1.code, w.1.poison))
  let occ := occBits (vRows d) (vLen d) fun r c =>
    match (rows.getD r []).getD c none with
    | some w => !isZeroCode (vFz d) w.1.code
    | none => true
  let track := vClass o = .cvt && vWatch d && vTrack ctl
  let blocks := if track then (List.range (vBlocks d)).map (blockOut s phys d ctl) else []
  let cnt := fun i => countB (fun (b : BlockOut) => bit b.flags i) blocks
  let amaxIn := if vClass o = .cvt then
      amaxOf ((vPositions d).filterMap fun e =>
        if vActive s phys d e.1 e.2 && !(vCompute s phys d e.1 e.2).1.poison then
          some (cvtIn d (vElem s phys (vOpnd d 0 (vFx d)) e.1 e.2).1) else none)
    else noAmaxIn
  let div0 := countB (·.2) outs
  let nonfin := clsCount .nan ws + clsCount .inf ws
  let sat := clsCount .sat ws
  let consumed := firstMarked s phys (vCtrlReads d ++ vDataReads s phys d ctl true)
  ⟨zw ++ (if vOccEn d then [plainWrite phys (vAddr d 108) (bitsToBytes occ)] else []) ++
      trackWrites phys d blocks ++
      (if vWatch d then [watchWrite phys (vAddr d 104)
        (watchBytes (vFz d) (vFxExp d) ctl ws amaxIn blocks.length (cnt 0) (cnt 1) (cnt 2))] else []),
    b2n (outs.any (·.1.poison) || consumed.isSome) + 4 * b2n (decide (0 < nonfin)) + 32 * b2n (decide (0 < sat)) +
      64 * b2n (decide (0 < div0)) + 128 * b2n (decide (0 < cnt 0)) + 256 * b2n (decide (0 < cnt 2)),
    active,
    sat32 nonfin + 2 ^ 32 * sat32 (zeroCount (vFz d) ws),
    sat32 sat + 2 ^ 32 * sat32 (clsCount .vanished ws),
    sat32 (vRows d * vLen d - active),
    vectCounts phys ws ++ [(fldKey VECT_CNT_DIV0 phys 0, div0)],
    2 ^ 16 * b2n (decide (0 < nonfin)) + 2 ^ 19 * b2n (decide (0 < div0)),
    consumed⟩

/-! ### Reductions (R162 to R164) -/

/-- The lane tree of R162: elements by index, combined into 256 lanes and eight pairwise levels. -/
def laneTree {α : Type} (op : α → α → α) (start : α) (xs : List (Nat × α)) : α :=
  let lanes := (List.range 256).map fun l => (xs.filter fun x => x.1 % 256 == l).foldl (fun acc x => op acc x.2) start
  let level := fun (v : List α) => (List.range (v.length / 2)).map fun j => op (v.getD (2 * j) start) (v.getD (2 * j + 1) start)
  (level (level (level (level (level (level (level (level lanes)))))))).headD start

/-- The sum or product of a set in FP32 (R162). -/
def treeFloat (mul : Bool) (xs : List (Nat × XR)) : XR :=
  laneTree (fun a b => f32 (if mul then xMul a b else xAdd a b)) (if mul then xInt 1 else xZero true) xs

/-- The sum or product of a set in INT32, and whether a step saturated. -/
def treeInt (mul : Bool) (xs : List (Nat × XR)) : Int × Bool :=
  laneTree (fun (a b : Int × Bool) =>
    let r := roundInt 32 0 0 (xInt (if mul then a.1 * b.1 else a.1 + b.1))
    (toInt 32 r.code, a.2 || b.2 || r.cls != .none)) ((if mul then 1 else 0), false)
    (xs.map fun x => (x.1, ((match x.2 with | .fin g n _ _ => sgn g n | _ => 0), false)))

/-- The extreme of a set, NaN-propagating, zeros ranked (R163). -/
def setExtreme (isMax : Bool) : List XR → Option XR
  | [] => none
  | x :: l => some (l.foldl (fun a b => if isMax then xMax a b else xMin a b) x)

/-- The place of the extreme: the first NaN, else the lowest index equal to it, zeros with their signs (R163). -/
def argIndex (ext : XR) (xs : List (Nat × XR)) : Nat :=
  ((xs.find? fun x => if xIsNan ext then xIsNan x.2
    else xEq x.2 ext && (!xIsZero ext || xNeg x.2 == xNeg ext)).map (·.1)).getD 0xFFFF_FFFF

/-- A reduced set's result: the element written, VALUE0, the index, how many inputs were NaN, empty, a step
saturated, NaN or infinite. -/
structure RedOut where
  elem : Watched
  value : Nat
  index : Nat
  nanIn : Nat
  empty : Bool
  sat : Bool
  nonfin : Bool
deriving DecidableEq, Repr

/-- One reduced set (R162 to R164). -/
def reduceSet (o fx fz : Nat) (xs : List (Nat × XR)) (poison : Bool) : RedOut :=
  let empty := xs.isEmpty
  let nanIn := countB (fun x => xIsNan x.2) xs
  let wide := if isF fx then 0 else 8
  let vals := xs.map (·.2)
  let mk := fun (q : Rnd) => (⟨⟨q.code, q.cls, poison⟩, q.code, 0, nanIn, empty, false, q.cls == .nan || q.cls == .inf⟩ : RedOut)
  let emptyExt := fun (isMax : Bool) (f : Nat) =>
    if isF f then roundFloat f 0 0 (.inf isMax)
    else (⟨if isMax then 2 ^ (fmtBits f - 1) else 2 ^ (fmtBits f - 1) - 1, .none⟩ : Rnd)
  match o with
  | 0x40 | 0x41 =>
    let mul := o == 0x41
    if isF fx then
      if empty then mk (roundFloat 0 0 0 (if mul then xInt 1 else xZero false))
      else mk (roundFloat 0 0 0 (treeFloat mul xs))
    else
      let r := if empty then (if mul then 1 else 0, false) else treeInt mul xs
      { mk ⟨ofInt 32 r.1, if r.2 then .sat else .none⟩ with sat := r.2 }
  | 0x48 =>
    if empty then mk (roundFloat 0 0 0 .nan)
    else mk (roundFloat 0 0 0 (xDiv (treeFloat false xs) (xInt xs.length)))
  | 0x47 => mk ⟨countB (fun v => !xIsZero v) vals % 2 ^ 32, .none⟩
  | 0x42 | 0x43 =>
    match setExtreme (o == 0x42) vals with
    | none => mk (emptyExt (o == 0x42) fz)
    | some v => mk (roundElem fz 0 0 v)
  | 0x44 =>
    match setExtreme true (vals.map xAbs) with
    | none => mk (emptyExt true fz)
    | some v => let q := roundElem fz 0 0 v; { mk q with sat := q.cls == .sat }
  | _ =>
    let isMax := o == 0x45
    match setExtreme isMax vals with
    | none =>
      let q := emptyExt isMax fx
      ⟨⟨0xFFFF_FFFF, .none, poison⟩, (roundElem wide 0 0 (decodeElem fx q.code)).code, 0xFFFF_FFFF, nanIn, true, false, false⟩
    | some v =>
      let i := argIndex v xs
      ⟨⟨i, .none, poison⟩, (roundElem wide 0 0 v).code, i, nanIn, false, false, false⟩

/-- The active elements of a row, by column: index within the set, value, mark. -/
def vSetRow (s : State) (phys : Nat) (d : Desc) (base r : Nat) : List (Nat × XR × Bool) :=
  (List.range (vLen d)).filterMap fun c =>
    if vActive s phys d r c then
      let x := vElem s phys (vOpnd d 0 (vFx d)) r c
      some (base + c, decodeElem (vFx d) x.1, x.2 || (vBit s phys d r c).2)
    else none

/-- A reduction (R162 to R164). -/
def vReduce (s : State) (phys : Nat) (d : Desc) (ctl : List Byte) : OpResult :=
  let o := hOpcode d
  let rows := List.range (vRows d)
  let sets : List (List (Nat × XR × Bool)) :=
    if vAxis d then rows.map (vSetRow s phys d 0)
    else [rows.flatMap fun r => vSetRow s phys d (r * vLen d) r]
  let outs := sets.map fun xs => reduceSet o (vFx d) (vFz d) (xs.map fun x => (x.1, x.2.1)) (xs.any (·.2.2))
  let z := vOpnd d 2 (vFz d)
  let ws := outs.map (·.elem)
  let last := outs.getLast?
  let arg := o == 0x45 || o == 0x46
  let empties := countB (·.empty) outs
  let consumed := firstMarked s phys (vCtrlReads d ++ vDataReads s phys d ctl true)
  let nonfin := outs.any (·.nonfin)
  ⟨joinWrites (((List.range outs.length).zip outs).map fun x =>
        let b := elemBytes (vFz d) x.2.elem.code
        ⟨.galley phys, (if vAxis d then vRow z x.1 else (z.addr : Int)).toNat, b, List.replicate b.length x.2.elem.poison⟩) ++
      (if vWatch d then [watchWrite phys (vAddr d 104) (watchBytes (vFz d) 0 ctl ws noAmaxIn 0 0 0 0)] else []),
    b2n (ws.any (·.poison) || consumed.isSome) + 4 * b2n nonfin + 8 * b2n (decide (0 < empties)) +
      32 * b2n (outs.any (·.sat)),
    sumN (sets.map List.length),
    (last.map (·.value)).getD 0 % 2 ^ 32,
    (if arg then (last.map (·.index)).getD 0 else 0) + 2 ^ 32 * sat32 empties,
    sat32 (sumN (outs.map (·.nanIn))),
    vectCounts phys ws ++ [(fldKey VECT_CNT_EMPTY phys 0, empties)],
    2 ^ 16 * b2n nonfin + 2 ^ 17 * b2n (decide (0 < empties)),
    consumed⟩

/-! ### Soft maximum (R165 to R167) -/

/-- A row of SOFTMAX: the code and class at each position, denominator, maximum, and its case: 0 ordinary, 1 empty,
2 NaN, 3 +inf. -/
structure SmRow where
  outs : List Rnd
  den : Nat
  max : Nat
  case_ : Nat
deriving DecidableEq, Repr

/-- A SOFTMAX row from its active values by column. -/
def smRow (fz n : Nat) (xs : List (Nat × XR)) : SmRow :=
  let zero : Rnd := ⟨0, .none⟩
  let at_ := fun (g : XR → Rnd) => (List.range n).map fun c =>
    match xs.find? (·.1 == c) with
    | some x => g x.2
    | none => zero
  let isPInf := fun (x : XR) => (match x with | .inf s => !s | _ => false : Bool)
  let isNInf := fun (x : XR) => (match x with | .inf s => s | _ => false : Bool)
  if xs.isEmpty then ⟨at_ fun _ => zero, 0, 0xFF80_0000, 1⟩
  else if xs.any (fun x => xIsNan x.2) then ⟨List.replicate n ⟨nanCode fz, .nan⟩, 0x7FC0_0000, 0x7FC0_0000, 2⟩
  else
    let k := countB (fun x => isPInf x.2) xs
    if 0 < k then
      ⟨at_ fun x => if isPInf x then roundFloat fz 0 0 (.fin false 1 k 0) else zero, (roundFloat 0 0 0 (xInt k)).code,
        0x7F80_0000, 3⟩
    else if xs.all (fun x => isNInf x.2) then ⟨at_ fun _ => zero, 0, 0xFF80_0000, 1⟩
    else
      let m := (setExtreme true (xs.map (·.2))).getD .nan
      let ex := fun x => decodeFloat 0 (transRound .exp 0 (xSub x m)).code
      let den := treeFloat false (xs.map fun x => (x.1, ex x.2))
      ⟨at_ fun x => roundFloat fz 0 0 (xDiv (ex x) den), (roundFloat 0 0 0 den).code, (roundFloat 0 0 0 m).code, 0⟩

/-- A SOFTMAX (R165 to R168). -/
def vSoftmax (s : State) (phys : Nat) (d : Desc) (ctl : List Byte) : OpResult :=
  let z := vOpnd d 2 (vFz d)
  let w := vOpnd d 3 0
  let rows := (List.range (vRows d)).map fun r =>
    let xs := vSetRow s phys d 0 r
    (smRow (vFz d) (vLen d) (xs.map fun x => (x.1, x.2.1)), xs.any (·.2.2))
  let ir := (List.range rows.length).zip rows
  let ws := rows.flatMap fun r => r.1.outs.map fun q => (⟨q.code, q.cls, r.2⟩ : Watched)
  let cases := fun k => countB (fun (r : SmRow × Bool) => r.1.case_ == k) rows
  let last := rows.getLast?
  let occ := occBits (vRows d) (vLen d) fun r c =>
    match rows[r]? with
    | some q => !isZeroCode (vFz d) ((q.1.outs.getD c ⟨0, .none⟩).code)
    | none => false
  let consumed := firstMarked s phys (vCtrlReads d ++ vDataReads s phys d ctl true)
  ⟨(ir.flatMap fun r => vZRow s phys z r.1 (r.2.1.outs.map fun q => some (q.code, r.2.2))) ++
      (if vStats d then joinWrites (ir.map fun r =>
        ⟨.galley phys, (vRow w r.1).toNat, leBytes 4 r.2.1.max ++ leBytes 4 r.2.1.den, List.replicate 8 r.2.2⟩) else []) ++
      (if vOccEn d then [plainWrite phys (vAddr d 108) (bitsToBytes occ)] else []) ++
      (if vWatch d then [watchWrite phys (vAddr d 104) (watchBytes (vFz d) 0 ctl ws noAmaxIn 0 0 0 0)] else []),
    b2n (ws.any (·.poison) || consumed.isSome) + 4 * b2n (decide (0 < cases 2)) + 16 * b2n (decide (0 < cases 1)),
    vRows d * vLen d,
    (last.map (·.1.den)).getD 0 + 2 ^ 32 * (last.map (·.1.max)).getD 0,
    cases 1 + 2 ^ 32 * cases 2,
    cases 3,
    vectCounts phys ws ++ [(fldKey VECT_CNT_EMPTY_ROW phys 0, cases 1)],
    2 ^ 16 * b2n (decide (0 < cases 2)) + 2 ^ 18 * b2n (decide (0 < cases 1)),
    consumed⟩

/-- What a vector operation does. -/
def vectorResult (s : State) (phys : Nat) (d : Desc) (ctl : List Byte) : OpResult :=
  if vNop d then { OpResult.none with counts := [(fldKey VECT_CNT_OPS phys 0, 1)] }
  else match vClass (hOpcode d) with
    | .reduce => vReduce s phys d ctl
    | .softmax => vSoftmax s phys d ctl
    | _ => vElementwise s phys d ctl

end Sys2Proof.Machine
end

