-- ==== Sys2Proof/Machine/UpdRec.lean ====
section
/-! DEFINITION. Parameter groups (R275, R276), update programs (R281 to R284), ledger entries (R288), digests (R291), the
imposition table (R380), and the checks of an update (R277). -/

namespace Sys2Proof.Machine

/-! ### Parameter-group records (R275) -/

/-- Address of a group's record. -/
def pgAddr (s : State) (site g : Nat) : Nat := fv s UPDT_PG_BASE site + 256 * g
/-- A group's record. -/
def pgRec (s : State) (site g : Nat) : List Byte := hbmBytesAt s (pgAddr s site g) 256
/-- Word 0. -/
def pgW0 (r : List Byte) : Nat := recLE r 0 4
/-- VALID. -/
def pgValid (r : List Byte) : Bool := bit (pgW0 r) 0
/-- TIER is FLASH. -/
def pgFlash (r : List Byte) : Bool := bit (pgW0 r) 1
/-- GLEAN_EN. -/
def pgGlean (r : List Byte) : Bool := bit (pgW0 r) 2
/-- AVG_EN. -/
def pgAvg (r : List Byte) : Bool := bit (pgW0 r) 3
/-- AVG_GLEAN_EN. -/
def pgAvgGlean (r : List Byte) : Bool := bit (pgW0 r) 4
/-- DIR_EN. -/
def pgDir (r : List Byte) : Bool := bit (pgW0 r) 5
/-- PV_EN. -/
def pgPv (r : List Byte) : Bool := bit (pgW0 r) 6
/-- PV_FACTOR. -/
def pgPvFactor (r : List Byte) : Nat := bits (pgW0 r) 7 7
/-- Format of state slot k: 0 none, 1 FP32, 2 BF16. -/
def pgMFmt (r : List Byte) (k : Nat) : Nat := bits (pgW0 r) (9 + 2 * k) (8 + 2 * k)
/-- Bytes of an element of state slot k. -/
def pgMSize (r : List Byte) (k : Nat) : Nat := if pgMFmt r k = 1 then 4 else if pgMFmt r k = 2 then 2 else 0
/-- PROG_BASE. -/
def pgProgBase (r : List Byte) : Nat := bits (recLE r 4 2) 11 0
/-- PROG_LEN. -/
def pgProgLen (r : List Byte) : Nat := bits (recLE r 6 2) 8 0
/-- DELAY. -/
def pgDelay (r : List Byte) : Nat := bits (recLE r 8 1) 4 0
/-- AVG_EVERY. -/
def pgAvgEvery (r : List Byte) : Nat := recLE r 10 2
/-- GRAD_TAG. -/
def pgGradTag (r : List Byte) : Nat := recLE r 12 2
/-- CGROUP. -/
def pgCGroup (r : List Byte) : Nat := bits (recLE r 14 2) 9 0
/-- NELEM. -/
def pgNelem (r : List Byte) : Nat := recLE r 16 4
/-- PV_OFS. -/
def pgPvOfs (r : List Byte) : Nat := recLE r 20 4
/-- GIDX_BASE. -/
def pgGidx (r : List Byte) : Nat := recLE r 24 8
/-- An address field at a byte. -/
def pgA (r : List Byte) (o : Nat) : Nat := recLE r o 6
/-- STEP. -/
def pgStep (r : List Byte) : Nat := recLE r 224 8
/-- AVG_COUNT. -/
def pgAvgCount (r : List Byte) : Nat := recLE r 232 8
/-- AVG_BANK. -/
def pgBank (r : List Byte) : Nat := bits (recLE r 240 1) 0 0
/-- FROZEN. -/
def pgFrozen (r : List Byte) : Bool := bit (recLE r 240 1) 1
/-- Chunks of the shard (R276). -/
def pgChunks (r : List Byte) : Nat := ceilDiv (pgNelem r) 524288
/-- Elements of chunk c. -/
def chunkElems (r : List Byte) (c : Nat) : Nat := min 524288 (pgNelem r - c * 524288)
/-- An average bank's address. -/
def pgBankAddr (r : List Byte) (bank : Nat) : Nat := pgA r (96 + 8 * bank)
/-- The address of an average bank's glean. -/
def pgBankGlean (r : List Byte) (bank : Nat) : Nat := pgA r (112 + 8 * bank)

/-! ### Digest entries (R291) -/

/-- CRC-64 (ECMA-182) of one byte on top of a value. -/
def crc64Byte (crc : Nat) (b : Byte) : Nat :=
  (List.range 8).foldl (fun c _ => if bit c 63 then (2 * c % 2 ^ 64) ^^^ 0x42F0E1EBA9EA3693 else 2 * c % 2 ^ 64)
    (crc ^^^ (b.toNat * 2 ^ 56))

/-- The digest of a run of bytes (R291). -/
def crc64 (bs : List Byte) : Nat := bs.foldl crc64Byte 0

/-- The address of chunk c's digest entry. -/
def digAddr (r : List Byte) (c : Nat) : Nat := pgA r 128 + 32 * c

/-- A digest entry's bytes (R291). -/
def digBytes (crc step flags node addr : Nat) : List Byte :=
  leBytes 8 crc ++ leBytes 6 step ++ leBytes 2 flags ++ leBytes 2 node ++ leBytes 6 0 ++ leBytes 8 addr

/-- FLAGS of a digest entry: [0] AUDIT_FAIL, [1] RESTORED, [2] POISONED, [3] COW_PENDING. -/
def digFlags (s : State) (r : List Byte) (c : Nat) : Nat := hbmLE s (digAddr r c + 14) 2

/-! ### Update programs (R282 to R284) -/

/-- OP. -/
def uOp (w : Nat) : Nat := bits w 31 26
/-- VD. -/
def uVd (w : Nat) : Nat := bits w 25 21
/-- VA. -/
def uVa (w : Nat) : Nat := bits w 20 16
/-- VB. -/
def uVb (w : Nat) : Nat := bits w 15 11
/-- VC. -/
def uVc (w : Nat) : Nat := bits w 10 6
/-- BS. -/
def uBs (w : Nat) : Bool := bit w 5
/-- CS. -/
def uCs (w : Nat) : Bool := bit w 4
/-- SUB. -/
def uSub (w : Nat) : Nat := bits w 3 0

/-- Which fields an opcode uses: VD, VA, VB with BS, VC with CS, SUB; none for a reserved opcode. -/
def uUses (op : Nat) : Option (Bool × Bool × Bool × Bool × Bool) :=
  if op = 0x01 then some (true, false, false, false, true)
  else if op = 0x02 then some (false, true, false, false, true)
  else if op = 0x03 then some (true, false, true, false, false)
  else if 0x04 ≤ op ∧ op ≤ 0x07 then some (true, true, true, false, false)
  else if op = 0x08 ∨ op = 0x10 then some (true, true, true, true, false)
  else if op = 0x09 ∨ op = 0x0A then some (true, true, true, false, false)
  else if 0x0B ≤ op ∧ op ≤ 0x0E then some (true, true, false, false, false)
  else if op = 0x0F then some (true, true, true, false, true)
  else if op = 0x11 ∨ op = 0x12 then some (false, true, false, false, false)
  else none

/-- What the validity of later instructions depends on: registers written, WUPD and AVG met. -/
structure ProgSt where
  written : List Nat
  wupd : Nat
  avg : Nat
deriving DecidableEq, Repr

/-- An instruction is valid where it stands (R284). -/
def uOk (r : List Byte) (st : ProgSt) (w : Nat) : Bool :=
  match uUses (uOp w) with
  | none => false
  | some (d, a, b, c, sub) =>
    let op := uOp w
    let rd := fun v => st.written.contains v
    (d || uVd w == 0) && (a || uVa w == 0) && (b || (uVb w == 0 && !uBs w)) && (c || (uVc w == 0 && !uCs w)) &&
    (sub || uSub w == 0) &&
    (!a || rd (uVa w)) && (!b || (if uBs w then decide (uVb w < 16) else rd (uVb w))) &&
    (!c || (if uCs w then decide (uVc w < 16) else rd (uVc w))) &&
    (op != 0x01 || (decide (uSub w ≤ 10) && (uSub w != 3 || decide (0 < st.wupd)) && (uSub w != 5 || pgDir r) &&
      (uSub w != 10 || pgPv r) && (!(decide (6 ≤ uSub w) && decide (uSub w ≤ 9)) || pgMFmt r (uSub w - 6) != 0))) &&
    (op != 0x02 || (decide (6 ≤ uSub w) && decide (uSub w ≤ 9) && pgMFmt r (uSub w - 6) != 0)) &&
    (op != 0x0F || decide (uSub w ≤ 6)) &&
    (op != 0x11 || st.wupd == 0) && (op != 0x12 || (st.avg == 0 && pgAvg r))

/-- The first invalid instruction of a program, from index `i` on; its length where WUPD is missing (R284). -/
def progBad (r : List Byte) : List Nat → Nat → ProgSt → Option Nat
  | [], i, st => if st.wupd = 1 then none else some (i - 1)
  | w :: l, i, st =>
    if uOk r st w then
      progBad r l (i + 1) ⟨(if (uUses (uOp w)).any (·.1) then uVd w :: st.written else st.written),
        st.wupd + b2n (uOp w == 0x11), st.avg + b2n (uOp w == 0x12)⟩
    else some i

/-- The words of a group's program. -/
def pgProgram (s : State) (site : Nat) (r : List Byte) : List Nat :=
  (List.range (pgProgLen r)).map fun k => readLE s (.prog site) (4 * (pgProgBase r + k)) 4

/-! ### The imposition table (R380, R384) -/

/-- An entry of an imposition table. -/
structure ImpEntry where
  group : Nat
  first : Nat
  n : Nat
  copy : Bool
  site : Nat
  node : Nat
  addr : Nat
  dig : Nat
  /-- Every field is in range and every reserved bit is 0. -/
  ok : Bool
deriving DecidableEq, Repr

/-- Entry k of a table. -/
def impEntry (s : State) (base k : Nat) : ImpEntry :=
  let r := hbmBytesAt s (base + 32 * k) 32
  let w := fun o n => recLE r o n
  ⟨bits (w 0 2) 9 0, bits (w 2 2) 11 0, bits (w 4 2) 12 0, bit (w 6 1) 0, bits (w 7 1) 3 0, bits (w 8 2) 13 0,
    bits (w 16 8) 47 0, bits (w 24 8) 47 0,
    decide (w 0 2 < 2 ^ 10) && decide (w 2 2 < 2 ^ 12) && decide (w 4 2 < 2 ^ 13) && decide (w 6 1 < 2) &&
      decide (w 7 1 < 2 ^ 4) && decide (w 8 2 < 2 ^ 14) && w 10 6 == 0 && decide (w 16 8 < 2 ^ 48) &&
      decide (w 24 8 < 2 ^ 48) && decide (1 ≤ w 4 2) && decide (w 4 2 ≤ 4096) && decide (w 7 1 < 12) &&
      w 16 8 % 4096 == 0 && w 24 8 % 32 == 0 && (!bit (w 6 1) 0 || w 24 8 == 0)⟩

/-- The entries of a table. -/
def impTable (s : State) (base count : Nat) : List ImpEntry := (List.range count).map (impEntry s base)

/-- What the old and the new table place on this device, while a reimposition moves chunks. -/
def riPlaces (s : State) : List ImpEntry :=
  if fv s MGMT_RI_STATE = 2 then
    (impTable s (fv s MGMT_IMP_BASE) (fv s MGMT_IMP_COUNT) ++ impTable s (fv s MGMT_RI_NEW_BASE) (fv s MGMT_RI_NEW_COUNT)).filter
      fun e => e.node == nodeId s
  else []

/-- A reimposition holds the work of a group: it moves chunks, and a table places the group here (R384). -/
def riHolds (s : State) (g : Nat) : Bool := (riPlaces s).any fun e => e.group == g

/-- A reimposition holds a fetch: its destination is storage that a table places here (R384). -/
def riHoldsRange (s : State) (a n : Nat) : Bool :=
  (riPlaces s).any fun e => rangesMeet (e.addr, e.n * 2 ^ 20) (a, n)

/-! ### The checks of an update (R277) -/

/-- Bytes of the SLC region of module flash (R317). -/
def inSlc (a n : Nat) : Bool := decide (0x1000_0000_0000 ≤ a) && decide (a + n ≤ 0x10E8_D4A5_1000)

/-- Enabled address fields: byte of the field, alignment (1: none stated), bytes of the region, HBM. -/
def pgRegions (r : List Byte) : List (Nat × Nat × Nat × Bool) :=
  let n := pgNelem r
  [(32, 4096, 2 * n, true), (48, 64, 4 * n, true), (128, 64, 32 * pgChunks r, true)] ++
    (if pgGlean r then [(40, 64, n, true)] else []) ++ (if pgDir r then [(56, 64, 4 * n, true)] else []) ++
    ((List.range 4).filter fun k => pgMFmt r k != 0).map (fun k => (64 + 8 * k, 64, pgMSize r k * n, !pgFlash r)) ++
    (if pgAvg r then [(96, 1, 2 * n, true), (104, 1, 2 * n, true)] else []) ++
    (if pgAvg r && pgAvgGlean r then [(112, 1, n, true), (120, 1, n, true)] else [])

/-- The preconditioner view an update reads does not hold it (R277). -/
def pvBad (s : State) (site : Nat) (r : List Byte) : Bool :=
  let c := cvRec s site (pgCGroup r)
  !fb s UPDT_CURV_EN site || decide (fv s UPDT_CURV_COUNT site ≤ pgCGroup r) ||
    (firstErrAt (cvErrs s site (pgCGroup r) c)).1 != .ok ||
    decide (cvNB c (pgPvFactor r) * cvBB c (pgPvFactor r) < (pgPvOfs r + pgNelem r) * cvE c)

/-- The failing checks of an update of a group, with the failing record byte or instruction index (R277). -/
def updateErrs (s : State) (site : Nat) (r : List Byte) (delivered : Option (Nat × Nat)) : ByteErrs :=
  let prog := pgProgram s site r
  whenAt (level s < 2 || !enabled s (updtPg site) || !pgValid r) .stateNotReady 0 ++
  whenAt (!ueInService s site) .retiredUnit 0 ++
  rsvdAt r ([(2, 0xFF), (3, 0xFF), (5, 0xF0), (7, 0xFE), (8, 0xE0), (9, 0xFF), (15, 0xFC)] ++
    (pgRegions r).flatMap (fun x => rsvdAddr x.1) ++ rsvdTarget 136 ++ rsvdSpan 144 160 ++ [(240, 0xFC)] ++ rsvdSpan 241 244 ++
    rsvdSpan 252 256) ++
  whenAt (pgFlash r && pgDir r) .fieldRange 0 ++ whenAt ((List.range 4).any fun k => pgMFmt r k == 3) .fieldRange 1 ++
  whenAt (pgProgLen r == 0 || decide (256 < pgProgLen r)) .fieldRange 6 ++
  whenAt (pgFlash r && (pgDelay r == 0 || decide (16 < pgDelay r))) .fieldRange 8 ++
  whenAt (pgAvg r && pgAvgEvery r == 0) .fieldRange 10 ++
  whenAt (pgNelem r % 64 != 0 || decide (pgNelem r < 64) || decide (2 ^ 31 < pgNelem r)) .fieldRange 16 ++
  whenAt (tgtKind (recLE r 136 8) == 3) .fieldRange 136 ++
  ((pgRegions r).flatMap fun x => whenAt (pgA r x.1 % x.2.1 != 0) .addrAlign x.1 ++
    whenAt (if x.2.2.2 then !inSiteHbm site (pgA r x.1) x.2.2.1 else !inSlc (pgA r x.1) x.2.2.1) .lenOverRegion x.1) ++
  (if 4096 < pgProgBase r + pgProgLen r then [(.block 0x70, 0)]
   else match progBad r prog 0 ⟨[], 0, 0⟩ with
    | some i => [(.block 0x70, i)]
    | none => []) ++
  whenAt (match delivered with | some d => d != (pgA r 48, 4 * pgNelem r) | none => false) (.block 0x71) 48 ++
  whenAt (pgPv r && pvBad s site r) (.block 0x71) 14 ++
  whenAt (pgFlash r && !fb s UPDT_LEDGER_EN site) (.block 0x72) 0

/-- UPD_FAULT takes the first fault since it was read, and FAULT is raised (R277, R300). -/
def updFault (site group byte : Nat) (c : ErrCode) : Act :=
  acts [
    look fun s => onlyIf (!fb s UPDT_PGF_VALID site) (acts [setF UPDT_PGF_VALID 1 site, setF UPDT_PGF_CODE (errNum c) site,
      setF UPDT_PGF_GROUP group site, setF UPDT_PGF_BYTE byte site]),
    raiseEvt (updtPg site) evFault]

/-! ### Ledger entries (R288) -/

/-- The address of an entry's header. -/
def ldHead (s : State) (site e : Nat) : Nat := fv s UPDT_LEDGER_BASE site + 64 * e
/-- The address of an entry's gradient sum. -/
def ldSum (s : State) (site e : Nat) : Nat := fv s UPDT_LEDGER_BASE site + 0x20_0000 + e * 0xA0_0000
/-- The address of an entry's staging of slot k. -/
def ldStage (s : State) (site e k : Nat) : Nat := ldSum s site e + 0x20_0000 + k * 0x20_0000
/-- STATE of an entry: 0 FREE, 1 PENDING, 2 APPLYING, 3 WRITEBACK. -/
def ldState (s : State) (site e : Nat) : Nat := bits (hbmLE s (ldHead s site e) 1) 1 0
/-- STAGED. -/
def ldStaged (s : State) (site e : Nat) : Bool := bit (hbmLE s (ldHead s site e) 1) 2
/-- GROUP of an entry. -/
def ldGroup (s : State) (site e : Nat) : Nat := hbmLE s (ldHead s site e + 2) 2
/-- CHUNK of an entry. -/
def ldChunk (s : State) (site e : Nat) : Nat := hbmLE s (ldHead s site e + 4) 2
/-- FIRST of an entry. -/
def ldFirst (s : State) (site e : Nat) : Nat := hbmLE s (ldHead s site e + 8) 6

/-- The entries of a ledger. -/
def ldEntries (s : State) (site : Nat) : List Nat := List.range (fv s UPDT_LEDGER_COUNT site)

/-- An entry for (g, c) in a state. -/
def ldFind (s : State) (site g c st : Nat) : Option Nat :=
  (ldEntries s site).find? fun e => ldState s site e == st && ldGroup s site e == g && ldChunk s site e == c

/-- LEDGER_USED follows the entries. -/
def ldCount (site : Nat) : Act :=
  look fun s => setF UPDT_LEDGER_USED (countB (fun e => ldState s site e != 0) (ldEntries s site)) site

/-- An entry's STATE and STAGED bits are written. -/
def ldSet (site e st : Nat) (staged : Bool) : Act :=
  look fun s => acts [hbmPut (ldHead s site e) (leBytes 1 (st + 4 * b2n staged)), ldCount site]

/-- The key of a byte of module flash in `State.mem`. -/
def flashKey (a : Nat) : Nat := 2 ^ 52 + a

end Sys2Proof.Machine
end

