-- ==== Sys2Proof/Machine/Flash.lean ====
section
/-! DEFINITION. Module flash (R316 to R319): regions, page writes and reads, the write buffer, wear and refresh, bad
blocks, and the power-loss flush. -/

namespace Sys2Proof.Machine

/-- The FLSH page. -/
def flshPg : PageRef := ⟨.flsh, 0⟩

/-- The region a flash range lies in: 0 bulk, 1 SLC (R317). -/
def flashRegion (a n : Nat) : Option Nat :=
  if a + n ≤ 0x0746_A528_8000 then some 0
  else if 0x1000_0000_0000 ≤ a ∧ a + n ≤ 0x10E8_D4A5_1000 then some 1
  else none

/-- A region's state: 0 RW, 1 READ_ONLY, 2 OFFLINE. -/
def flashState (s : State) (region : Nat) : Nat := if region = 0 then fv s FLSH_BULK_STATE else fv s FLSH_SLC_STATE

/-- Pages the write buffer holds: 64 MiB (R318). -/
def wbufPages : Nat := 16384

/-- The write buffer holds a number of pages. -/
def setWbuf (n : Nat) : Act :=
  look fun s => acts [upd (.flash { s.flash with wbuf := n }), setF FLSH_WBUF_MIB (ceilDiv n 256)]

/-- The code a write of a flash range is refused with (R318, R319). -/
def flashWriteCode (s : State) (a n : Nat) : ErrCode :=
  match flashRegion a n with
  | none => .addrUnmapped
  | some r => if s.flash.refusing ∨ flashState s r ≠ 0 then eFlashWorn else .ok

/-- Flash bytes with their marks. -/
def flashRead (s : State) (a n : Nat) : List (Byte × Bool) :=
  (List.range n).map fun i => (rawByte s (flashKey (a + i)), synAt s (flashKey (a + i) / 8 * 8) != 0)

/-- A page's bytes and marks are stored. -/
def flashStore (a : Nat) (bs : List (Byte × Bool)) : Act :=
  acts [upd (.mem (flashKey a) (bs.map Prod.fst)), upd (.synClear (flashKey a) bs.length),
    each ((List.range (bs.length / 8)).filter fun i => ((bs.drop (8 * i)).take 8).any Prod.snd) fun i =>
      upd (.syn (flashKey (a + 8 * i)) [0x7F])]

/-- A page is written into the buffer: a read finds it from then on (R317, R318). -/
def flashPage (a : Nat) (bs : List (Byte × Bool)) : Act :=
  look fun s => acts [
    upd (.flash { s.flash with undo := (a, flashRead s a bs.length) :: s.flash.undo }),
    flashStore a bs,
    setWbuf (min wbufPages (s.flash.wbuf + 1))]

/-- A range of whole pages is written. -/
def flashPut (a : Nat) (bs : List (Byte × Bool)) : Act :=
  each (List.range (ceilDiv bs.length 4096)) fun i => flashPage (a + 4096 * i) ((bs.drop (4096 * i)).take 4096)

/-- FLASH_WRITE: one page. A full buffer holds the writer. -/
def flashWrite (a : Nat) (data : List Byte) : Act :=
  look fun s =>
    let e := flashWriteCode s a 4096
    if a % 4096 ≠ 0 ∨ data.length ≠ 4096 then .done
    else if e ≠ .ok then emit (.flashData a (errNum e) [] [])
    else if wbufPages ≤ s.flash.wbuf then cnt FLSH_FCNT 4
    else acts [flashPage a (data.map fun b => (b, false)), emit (.flashData a 0 [] [])]

/-- FLASH_READ: one page; an uncorrectable one is marked throughout (R313). -/
def flashReadPage (a : Nat) (uncorr : Bool) : Act :=
  look fun s =>
    let x := flashRead s a 4096
    if a % 4096 ≠ 0 ∨ (flashRegion a 4096).isNone then .done
    else acts [onlyIf uncorr (cnt FLSH_FCNT 3),
      emit (.flashData a 0 (x.map Prod.fst) (x.map fun b => uncorr || b.2))]

/-- FLASH_RELOCATION: a step of static wear levelling, when the erase counts differ by more than WEAR_SPREAD, or a
read-disturb refresh, after RD_LIMIT reads or a correction of more than 75 % of the capacity. Contents stay. -/
def flashRelocate (wear slc : Bool) (reads corrected eraseMax eraseMin : Nat) : Act :=
  look fun s =>
    let lim := if slc then fv s FLSH_RD_LIMIT_SLC else fv s FLSH_RD_LIMIT_TLC
    let go := if wear then decide (fv s FLSH_WEAR_SPREAD + eraseMin < eraseMax)
      else decide (lim ≤ reads) || decide (75 < corrected)
    onlyIf go (acts [cnt FLSH_FCNT (if wear then 1 else 0),
      onlyIf (!slc) (acts [setF FLSH_ERASE_MAX (min 65535 eraseMax), setF FLSH_ERASE_MIN (min 65535 eraseMin)])])

/-- FLASH_PROGRAM_FAIL: the block is retired; `spare` is what its region has left, in 1/100 %. -/
def flashFail (slc : Bool) (spare : Nat) : Act :=
  look fun s =>
    let sp := if slc then (s.flash.spare.1, spare) else (spare, s.flash.spare.2)
    let ro := decide (spare < 200) && flashState s (b2n slc) == 0
    acts [cnt FLSH_FCNT 2, raiseEvt flshPg (2 ^ 17), upd (.flash { s.flash with spare := sp }),
      setF FLSH_SPARE_PCT (min sp.1 sp.2),
      onlyIf ro (acts [if slc then setF FLSH_SLC_STATE 1 else setF FLSH_BULK_STATE 1, raiseEvt flshPg (2 ^ 16),
        healthNotice .flashRo])]

/-- FLASH_PROGRAM_COMPLETE: pages leave the buffer. -/
def flashProgrammed (pages : Nat) : Act := look fun s => setWbuf (s.flash.wbuf - pages)

/-- The flush of R319 begins: new writes are refused. -/
def flushStart : Act := look fun s => upd (.flash { s.flash with refusing := true })

/-- Pages go back to their older contents, newest first. -/
def flashUndo : List (Nat × List (Byte × Bool)) → Act
  | [] => .done
  | x :: l => (flashStore x.1 x.2).seq (flashUndo l)

/-- FLUSH_DONE: PLF_STS tells how the flush went; after an incomplete one, the pages written after the last journalled
map, as many as a free value says, read as their older contents. -/
def flushDone (complete : Bool) (us : Nat) : Act :=
  look fun s => onlyIf s.flash.refusing (acts [
    setF FLSH_PLF_VALID 1, setF FLSH_PLF_COMPLETE (b2n complete), setF FLSH_PLF_US (min 65535 us),
    if complete then .done else withFree fun v => flashUndo (s.flash.undo.take (v % (s.flash.undo.length + 1))),
    look fun t => upd (.flash { t.flash with undo := [], refusing := false }), setWbuf 0])

/-! ### Rows -/

/-- FLASH_WRITE (R318). -/
def execFlashWrite (addr : Nat) (data : List Byte) (s : State) : Host.Outcome State Fault Refusal :=
  .next ((flashWrite addr data).run s)
/-- FLASH_READ (R317). -/
def execFlashRead (addr : Nat) (uncorr : Bool) (s : State) : Host.Outcome State Fault Refusal :=
  .next ((flashReadPage addr uncorr).run s)
/-- FLASH_RELOCATION (R318). -/
def execFlashRelocation (wear slc : Bool) (reads corrected eraseMax eraseMin : Nat) (s : State) :
    Host.Outcome State Fault Refusal := .next ((flashRelocate wear slc reads corrected eraseMax eraseMin).run s)
/-- FLASH_PROGRAM_FAIL (R318). -/
def execFlashProgramFail (slc : Bool) (spare : Nat) (s : State) : Host.Outcome State Fault Refusal :=
  .next ((flashFail slc spare).run s)
/-- FLASH_PROGRAM_COMPLETE (R318). -/
def execFlashProgramComplete (pages : Nat) (s : State) : Host.Outcome State Fault Refusal :=
  .next ((flashProgrammed pages).run s)
/-- FLUSH_DONE (R319). -/
def execFlushDone (complete : Bool) (us : Nat) (s : State) : Host.Outcome State Fault Refusal :=
  .next ((flushDone complete us).run s)

end Sys2Proof.Machine
end

