-- ==== Sys2Proof/Machine/Level.lean ====
section
/-! DEFINITION. Service levels and units leaving service (R19 to R23, R435, R436, R438): what follows whenever a unit's
health, a link or a reference changes. -/

namespace Sys2Proof.Machine

/-- Pages of units that can leave service. -/
def unitPages (b : Build) : List PageRef :=
  (List.range 160).flatMap (fun p => (List.range 7).filterMap fun k => tilePage k p) ++
  (List.range 16).flatMap (fun e => [⟨.solv, e⟩, ⟨.intg, 160 + e⟩]) ++
  (hbmSites b).flatMap (fun n => [⟨.hbmc, n⟩, ⟨.updt, n⟩, ⟨.intg, 176 + n⟩]) ++
  (linkSites b).flatMap (fun n => [⟨.shef, n⟩, ⟨.intg, 188 + n⟩]) ++
  (List.range (nLinks b)).map (fun l => ⟨.link, l⟩) ++ [⟨.powrDie, 0⟩, ⟨.powrDie, 1⟩]

/-- Every UP link goes DOWN (R22, R363). -/
def allLinksDown : Act := look fun s => each (rangeF (nLinks s.build) fun i => linkState s i == 2) linkDownCore

/-- Links of a link die that are UP go DOWN (R436). -/
def siteLinksDown (n : Nat) : Act :=
  look fun s => each (rangeF (nLinks s.build) fun i => linkState s i == 2 && linkSite s.build i == n) linkDownCore

/-- The level follows its requirements (R20 to R22): a change is recorded and raised; on a fall from 3 every link goes
to electrical idle. Without a trained Ethernet port the level-1 requirements do
not hold (R20). Before boot has brought up the management level nothing is reported. -/
def reLevel : Act :=
  look fun s =>
    if s.boot.stage < 3 then .done else
    let c := limitConds s
    let old := level s
    let lvl := if fb s ENET_LINK_UP then levelOf c else 0
    acts [setF HLTH_COND c,
      onlyIf (lvl != old) (acts [
        setF HLTH_LEVEL lvl,
        setF HLTH_LREC_VALID 1, setF HLTH_LREC_OLD old, setF HLTH_LREC_NEW lvl, setF HLTH_LREC_COND c,
        setF HLTH_LVL_AT (curInstant s), raiseEvt hlthPage (2 ^ 16),
        onlyIf (old == 3) (acts [allLinksDown, look fun t => setF HLTH_COND (limitConds t)])])]

/-- A change of units, links or references: pages newly retired raise RETIRE (R34), and the level follows. -/
def withUnits (a : Act) : Act :=
  look fun s => acts [a,
    look fun t => each ((unitPages s.build).filter fun p => pageRetired t p && !pageRetired s p) fun p =>
      raiseEvt p evRetire,
    reLevel]

/-- A link that carries traffic goes DOWN, and the level follows (R20, R363). -/
def linkDown (l : Nat) : Act := look fun s => onlyIf (linkState s l == 2) (acts [linkDownCore l, reLevel])

/-- Spare slots of a die whose physical tile is in service (R12, R436). -/
def spareSlots (s : State) (die : Nat) : List Nat :=
  ((List.range 8).map (144 + 8 * die + ·)).filter fun k => unitUp s (.tile (physOf s k))

/-- Spare slots of a die that no substitution has taken or will take. -/
def sparesLeft (s : State) (die : Nat) : Nat :=
  (spareSlots s die).length - countB (fun x => dieOfTile x.tile == die && x.spare.isNone) s.units.subst

/-- A retired tile's substitution becomes pending while its die has a spare left (R12, R100, R436). A spare lost while
it takes a state makes the substitution wait for another. -/
def substitutePend (p : Nat) : Act :=
  look fun s =>
    let t := slotOf s p
    if t < 144 then
      onlyIf (!substPending s t && decide (0 < sparesLeft s (dieOfTile t)))
        (updUnits fun u => { u with subst := u.subst ++ [⟨t, p, 0, none, false⟩] })
    else updUnits fun u =>
      let l := u.subst.map fun x => if x.spare == some p then { x with spare := none } else x
      { u with subst := l }

/-- The bit of a retired unit in HLTH. -/
def retireBit : UnitId → Act
  | .tile p => look fun s => setF HLTH_RET_TILE (setBit (fv s HLTH_RET_TILE 0 (p / 32)) (p % 32) true) 0 (p / 32)
  | .ue n => look fun s => setF HLTH_RET_UE (setBit (fv s HLTH_RET_UE) n true)
  | .solv e => look fun s => setF HLTH_RET_SOLV (setBit (fv s HLTH_RET_SOLV) e true)
  | .linkDie n => look fun s => setF HLTH_RET_LINKDIE (setBit (fv s HLTH_RET_LINKDIE) n true)
  | _ => .done

/-- A unit is retired (R436). -/
def retireUnit (u : UnitId) : Act :=
  look fun s => onlyIf (!unitRetired s u) (withUnits (acts [
    updUnits fun x => { x with quar := x.quar.filter (·.unit != u), proving := x.proving.filter (· != u) },
    retireBit u,
    incF HLTH_HLCNT 1 0 3, raiseEvt hlthPage (2 ^ 18),
    (match u with
      | .tile p => substitutePend p
      | .linkDie n => siteLinksDown n
      | _ => .done)]))

/-- A unit is detected failed (R19, R22). -/
def failUnit (u : UnitId) : Act :=
  withUnits (acts [
    updUnits fun x => { x with failed := if x.failed.contains u then x.failed else x.failed ++ [u] },
    (match u with | .linkDie n => siteLinksDown n | _ => .done),
    look fun s => match u with
      | .net d => each ((linkSites s.build).filter fun n => dieOfSite n == d) siteLinksDown
      | _ => .done])

/-- A unit rests: in quarantine or under proof, it starts no new work (R430, R435). -/
def unitResting (s : State) (u : UnitId) : Bool := (s.units.quar.any fun q => q.unit == u) || s.units.proving.contains u

end Sys2Proof.Machine
end

