-- ==== Sys2Proof/Machine/CtlCore.lean ====
section
/-! DEFINITION. The control core (R93, R94): its extension instructions, stalls and traps. -/

namespace Sys2Proof.Machine

/-- The core of a physical tile. -/
def coreSt (s : State) (p : Nat) : CtlCore := (tileSt s p).core

/-- The core of a physical tile changes. -/
def updCore (p : Nat) (f : CtlCore → CtlCore) : Act := updTile p fun t => { t with core := f t.core }

/-- A core register; x0 reads zero. -/
def xreg (s : State) (p r : Nat) : Nat :=
  if r % 32 = 0 then 0 else (mapGet (fun _ => (0 : DWord)) (coreSt s p).x (r % 32)).toNat

/-- A core register takes a value; x0 takes none. -/
def setX (p r v : Nat) : Act :=
  onlyIf (r % 32 != 0) (updCore p fun c => { c with x := mapSet (fun _ => 0) c.x (r % 32) (BitVec.ofNat 64 v) })

/-- The core steps past an instruction of the extensions. -/
def coreNext (p : Nat) : Act := updCore p fun c => { c with pc := c.pc + 4 }

/-- The core executes instructions: RUN is 1, no trap has stopped it, it does not stall, its tile works. -/
def coreReady (s : State) (p : Nat) : Bool :=
  fb s TILE_CORE_RUN p && !fb s TILE_CORE_FAULT p && (coreSt s p).wait == .none && unitUp s (.tile p) &&
    !(s.units.subst.any fun x => x.spare == some p)

/-- A trap (R93): with mtvec 0 the core stops; else it enters the handler as the RISC-V privileged architecture has it. -/
def coreTrap (p cause tval : Nat) : Act :=
  look fun s =>
    let c := coreSt s p
    acts [
      updCore p fun c => { c with
        mepc := c.pc
        mcause := BitVec.ofNat 64 cause
        mtval := BitVec.ofNat 64 tval
        wait := .none },
      setF TILE_CORE_STALLED 0 p,
      if c.mtvec = 0 then
        acts [setF TILE_CORE_FAULT 1 p, setF TILE_CORE_CAUSE (cause % 2 ^ 32) p,
          setF TILE_CORE_EPC (c.pc.toNat % 2 ^ 32) p, raiseEvt (tilePg p) (2 ^ 20)]
      else
        let base := c.mtvec.toNat / 4 * 4
        let vectored := bit c.mtvec.toNat 0 && bit cause 63
        let st := c.mstatus.toNat
        updCore p fun c => { c with
          pc := BitVec.ofNat 64 (if vectored then base + 4 * (cause % 2 ^ 63) else base)
          mstatus := BitVec.ofNat 64 (setBits (setBit (setBit st 7 (bit st 3)) 3 false) 12 11 3) }]

/-- An instruction of the extensions runs on a presented tile's core. -/
def coreOp (tile : Nat) (f : Nat → Act) : Act :=
  look fun s => onlyIf (decide (tile < 144) && coreReady s (physOf s tile)) (f (physOf s tile))

/-- TOK.RD. -/
def tokRd (p rd rs1 : Nat) : Act := look fun s => acts [setX p rd (tok s p (xreg s p rs1 % 256)), coreNext p]

/-- TOK.ADD: an increment under R90, and the resulting value. -/
def tokAdd (p rd rs1 rs2 : Nat) : Act :=
  look fun s =>
    let c := xreg s p rs1 % 256
    acts [addToken p c (xreg s p rs2 % 2 ^ 20), look fun t => setX p rd (tok t p c), coreNext p]

/-- The core stalls. -/
def coreStall (p : Nat) (w : CoreWait) : Act := acts [updCore p fun c => { c with wait := w }, setF TILE_CORE_STALLED 1 p]

/-- What a stall waits for holds, with the value its instruction returns (R93). -/
def stallOver (s : State) (p : Nat) : CoreWait → Option (Nat × Nat)
  | .none => none
  | .tok rd c th => if decide (th ≤ tok s p c) || tileEventInput s p then some (rd, tok s p c) else none
  | .wfe rd =>
    if tileEventInput s p || !(tileSt s p).summaries.isEmpty then some (rd, rdKey s (regKey .tile p 0x018)) else none

/-- TOK.WAIT or WFE: the core goes on if what it waits for holds, else it stalls. -/
def coreAwait (p : Nat) (w : CoreWait) : Act :=
  look fun s => match stallOver s p w with
    | some r => acts [setX p r.1 r.2, coreNext p]
    | none => coreStall p w

/-- SUM.POP: the record at the FIFO's front moves to DMEM; rs1 misaligned, or a record with rs1 outside DMEM, is a store
access fault. -/
def sumPop (p rd rs1 : Nat) : Act :=
  look fun s =>
    let a := xreg s p rs1
    if a % 32 ≠ 0 then coreTrap p 7 a
    else match (tileSt s p).summaries with
      | [] => acts [setX p rd 0, coreNext p]
      | r :: rest =>
        if a / 0x10000 ≠ 1 then coreTrap p 7 a
        else acts [memPut (.dmem p) (a % 0x10000) r, updTile p fun t => { t with summaries := rest }, setX p rd 1, coreNext p]

/-- INST.RD. -/
def instRd (p rd : Nat) : Act := look fun s => acts [setX p rd (curInstant s), coreNext p]

/-- A stalled core resumes once its condition holds. -/
def stallRelease (p : Nat) : Act :=
  look fun s => match stallOver s p (coreSt s p).wait with
    | some r => onlyIf (fb s TILE_CORE_RUN p) (acts [
        updCore p fun c => { c with wait := .none }, setF TILE_CORE_STALLED 0 p, setX p r.1 r.2, coreNext p])
    | none => .done

/-- RUN goes to 1: the core starts at RESET_PC (R94). -/
def coreStart (p : Nat) : Act :=
  look fun s => updCore p fun c => { c with pc := BitVec.ofNat 64 (fv s TILE_RESET_PC p), wait := .none }

/-- RUN goes to 0: the core stops, and FAULT clears (R98). -/
def coreStop (p : Nat) : Act :=
  acts [updCore p fun c => { c with wait := .none }, setF TILE_CORE_FAULT 0 p, setF TILE_CORE_STALLED 0 p]

/-- TOK_RD (R93). -/
def execTokRd (tile rd rs1 : Nat) (s : State) : Host.Outcome State Fault Refusal :=
  .next ((coreOp tile fun p => tokRd p rd rs1).run s)

/-- TOK_ADD (R93). -/
def execTokAdd (tile rd rs1 rs2 : Nat) (s : State) : Host.Outcome State Fault Refusal :=
  .next ((coreOp tile fun p => tokAdd p rd rs1 rs2).run s)

/-- TOK_WAIT (R93). -/
def execTokWait (tile rd rs1 rs2 : Nat) (s : State) : Host.Outcome State Fault Refusal :=
  .next ((coreOp tile fun p => look fun s =>
    coreAwait p (.tok rd (xreg s p rs1 % 256) (xreg s p rs2 % 2 ^ 20))).run s)

/-- SUM_POP (R93). -/
def execSumPop (tile rd rs1 : Nat) (s : State) : Host.Outcome State Fault Refusal :=
  .next ((coreOp tile fun p => sumPop p rd rs1).run s)

/-- INST_RD (R93). -/
def execInstRd (tile rd : Nat) (s : State) : Host.Outcome State Fault Refusal :=
  .next ((coreOp tile fun p => instRd p rd).run s)

/-- WFE (R93). -/
def execWfe (tile rd : Nat) (s : State) : Host.Outcome State Fault Refusal :=
  .next ((coreOp tile fun p => coreAwait p (.wfe rd)).run s)

/-- CORE_STALL_RELEASE (R93). -/
def execCoreStallRelease (tile : Nat) (s : State) : Host.Outcome State Fault Refusal :=
  .next ((onlyIf (decide (tile < 144)) (stallRelease (physOf s tile))).run s)

/-- CORE_TRAP (R93): an exception of the instruction at the pc, or an interrupt, with its cause and value. -/
def execCoreTrap (tile cause tval : Nat) (s : State) : Host.Outcome State Fault Refusal :=
  .next ((onlyIf (decide (tile < 144) && fb s TILE_CORE_RUN (physOf s tile) && !fb s TILE_CORE_FAULT (physOf s tile))
    (coreTrap (physOf s tile) cause tval)).run s)

end Sys2Proof.Machine
end

