-- ==== Sys2Proof/Machine/Matrix.lean ====
section
/-! DEFINITION. The matrix engine and the covariance array: MATMUL (R126 to R141), COV_FLUSH (R142), their checks
(R128, R139, R143, R148) and the slots (R143, R145). -/

namespace Sys2Proof.Machine

/-! ### The MATMUL body (R126) -/

/-- M. -/
def mmM (d : Desc) : Nat := recLE d 48 2
/-- N. -/
def mmN (d : Desc) : Nat := recLE d 50 2
/-- K. -/
def mmK (d : Desc) : Nat := recLE d 52 2
/-- FMT_A. -/
def mmFmtA (d : Desc) : Nat := bits (recLE d 54 1) 3 0
/-- FMT_B. -/
def mmFmtB (d : Desc) : Nat := bits (recLE d 54 1) 7 4
/-- Byte 55. -/
def mmB55 (d : Desc) : Nat := recLE d 55 1
/-- SCALE_MODE. -/
def mmScale (d : Desc) : Nat := bits (mmB55 d) 1 0
/-- TRANS_A. -/
def mmTransA (d : Desc) : Bool := bit (mmB55 d) 2
/-- TRANS_B. -/
def mmTransB (d : Desc) : Bool := bit (mmB55 d) 3
/-- ACC. -/
def mmAcc (d : Desc) : Bool := bit (mmB55 d) 4
/-- OCC_EN. -/
def mmOccEn (d : Desc) : Bool := bit (mmB55 d) 5
/-- MASK_DIM. -/
def mmMaskDim (d : Desc) : Nat := bits (mmB55 d) 7 6
/-- A galley address field: bits [20:0] of the word at byte `o`. -/
def galAddr (d : Desc) (o : Nat) : Nat := bits (recLE d o 4) 20 0
/-- Byte 74. -/
def mmB74 (d : Desc) : Nat := recLE d 74 1
/-- SP24. -/
def mmSp (d : Desc) : Nat := bits (mmB74 d) 5 4
/-- BMP_A. -/
def mmBmpA (d : Desc) : Bool := bit (mmB74 d) 6
/-- BMP_B. -/
def mmBmpB (d : Desc) : Bool := bit (mmB74 d) 7
/-- Byte 75. -/
def mmB75 (d : Desc) : Nat := recLE d 75 1
/-- COV_EN. -/
def mmCovEn (d : Desc) : Bool := bit (mmB75 d) 0
/-- COV_SUB. -/
def mmCovSub (d : Desc) : Nat := bits (mmB75 d) 2 1
/-- COV_PHASE. -/
def mmCovPhase (d : Desc) : Nat := bits (mmB75 d) 5 3
/-- MASK_FILL. -/
def mmFill (d : Desc) : Bool := bit (mmB75 d) 6
/-- WATCH_EN. -/
def mmWatch (d : Desc) : Bool := bit (mmB75 d) 7
/-- Tiles of a group. -/
def mmGroup (d : Desc) : Nat := 2 ^ bits (mmB74 d) 1 0 * 2 ^ bits (mmB74 d) 3 2

/-- A covariance entry in use (R139). -/
structure CovEntry where
  factor : Bool
  i : Nat
  j : Nat
  slot : Nat
  clear : Bool
deriving DecidableEq, Repr

/-- COV_SELn. -/
def covSel (d : Desc) (n : Nat) : Nat := recLE d (120 + 2 * n) 2

/-- The valid covariance entries of a MATMUL. -/
def covEntries (d : Desc) : List CovEntry :=
  if !mmCovEn d then []
  else ((List.range 4).filter fun n => bit (covSel d n) 0).map fun n =>
    let v := covSel d n
    ⟨bit v 1, bits v 4 2, bits v 7 5, bits v 10 8, bit v 11⟩

/-- No extent: M, N or K is 0 (R128). -/
def mmNop (d : Desc) : Bool := mmM d == 0 || mmN d == 0 || mmK d == 0

/-! ### Placement of operands (R127) -/

/-- A stored operand: base, stride, element format, stored rows and columns, and the pitches that cut across and along
its rows. -/
structure MatOp where
  base : Nat
  ld : Nat
  fmt : Nat
  rows : Nat
  cols : Nat
  pr : Nat
  pc : Nat
deriving DecidableEq, Repr

/-- A as stored. -/
def mmA (d : Desc) : MatOp :=
  let k := if mmSp d = 1 then mmK d / 2 else mmK d
  let p := recLE d 104 2
  if mmTransA d then ⟨galAddr d 56, recLE d 68 2, mmFmtA d, k, mmM d, 0, p⟩
  else ⟨galAddr d 56, recLE d 68 2, mmFmtA d, mmM d, k, p, 0⟩

/-- B as stored. -/
def mmB (d : Desc) : MatOp :=
  let k := if mmSp d = 2 then mmK d / 2 else mmK d
  let p := recLE d 106 2
  if mmTransB d then ⟨galAddr d 60, recLE d 70 2, mmFmtB d, mmN d, k, p, 0⟩
  else ⟨galAddr d 60, recLE d 70 2, mmFmtB d, k, mmN d, 0, p⟩

/-- Format of C (R132). -/
def mmFmtC (d : Desc) : Nat := if mmFmtA d = 7 then 8 else 0

/-- C. -/
def mmC (d : Desc) : MatOp :=
  ⟨galAddr d 64, recLE d 72 2, mmFmtC d, mmM d, mmN d, recLE d 108 2, recLE d 110 2⟩

/-- The first byte of the row piece that holds stored column c of stored row r, and the element's place in it. -/
def matPlace (o : MatOp) (r c : Nat) : Nat × Nat :=
  let row := if o.pr = 0 then o.base + r * 64 * o.ld
    else o.base + r / 128 * 64 * o.pr + r % 128 * 64 * o.ld
  if o.pc = 0 then (row, c) else (row + c / 128 * 64 * o.pc, c % 128)

/-- The bytes of a stored element. -/
def matRead (o : MatOp) (r c : Nat) : GRead :=
  let p := matPlace o r c
  elemRead o.fmt p.1 p.2

/-- Stored row length in bytes (R127). -/
def matRowLen (o : MatOp) : Nat :=
  if o.pc = 0 then ceilDiv (o.cols * fmtBits o.fmt) 8
  else
    let nb := ceilDiv o.cols 128
    (nb - 1) * 64 * o.pc + ceilDiv ((o.cols - 128 * (nb - 1)) * fmtBits o.fmt) 8

/-- One past the highest byte an operand touches. -/
def matEnd (o : MatOp) : Nat :=
  let cand := fun n => [n - 1, (n - 1) / 128 * 128 - 1]
  (cand o.rows).foldl (fun m r => (cand o.cols).foldl (fun m c =>
    let x := matRead o r c
    max m (x.1 + x.2)) m) 0

/-- The stride and the pitches of an operand pass (R127). -/
def matStrideOk (o : MatOp) : Bool :=
  decide (matRowLen o ≤ o.ld * 64) && (o.pr == 0 || decide (128 * 64 * o.ld ≤ o.pr * 64)) &&
    (o.pc == 0 || decide (roundUp (128 * fmtBits o.fmt / 8) 64 ≤ o.pc * 64))

/-! ### Checks (R128, R139, R148) -/

/-- Bytes of a granule bitmap. -/
def bmpLen (rows cols : Nat) : Nat := ceilDiv (ceilDiv rows 32 * ceilDiv cols 32) 8

/-- Bytes of a scale array. -/
def scaleLen (mode rows cols : Nat) : Nat := if mode = 1 then 4 else 4 * (ceilDiv rows 128 * ceilDiv cols 128)

/-- The named regions of a MATMUL beside A, B and C: offset of the address field, alignment, bytes; those enabled. -/
def mmExtra (d : Desc) : List (Nat × Nat × Nat) :=
  let M := mmM d
  let N := mmN d
  let K := mmK d
  (if mmScale d = 0 then [] else [(76, 4, scaleLen (mmScale d) M K), (80, 4, scaleLen (mmScale d) K N)]) ++
  (if mmBmpA d then [(84, 8, bmpLen M K)] else []) ++
  (if mmBmpB d then [(88, 8, bmpLen K N)] else []) ++
  (if mmOccEn d then [(92, 8, bmpLen M N)] else []) ++
  (if mmMaskDim d = 0 then [] else [(96, 8, ceilDiv (if mmMaskDim d = 1 then M else K) 8)]) ++
  (if mmSp d = 0 then [] else [(100, 64, ceilDiv ((if mmSp d = 1 then M else N) * (K / 4)) 2)]) ++
  (if mmWatch d then [(112, 64, 512)] else [])

/-- The regions of a MATMUL as spans, each under the offset of its address field. -/
def mmRegions (d : Desc) : List (Nat × Int × Int) :=
  [(56, ((mmA d).base : Int), (matEnd (mmA d) : Int)), (60, ((mmB d).base : Int), (matEnd (mmB d) : Int)),
    (64, ((mmC d).base : Int), (matEnd (mmC d) : Int))] ++
  (mmExtra d).map fun e => (e.1, (galAddr d e.1 : Int), ((galAddr d e.1 + e.2.2 : Nat) : Int))

/-- Formats the matrix engine accepts as operands (R120, R128). -/
def mmFmtOk (f : Nat) : Bool := f ≤ 7

/-- Formats that take a scale (R132). -/
def narrowFmt (f : Nat) : Bool := 3 ≤ f && f ≤ 6

/-- A failing check of the matrix engine's own codes. -/
def mtxErr (c : Bool) (code : Nat) : List ErrCode := when c (.block code)

/-- Failing checks of the covariance selection (R139). -/
def covSelErr (d : Desc) : Bool :=
  let es := covEntries d
  mmCovEn d && (decide (2 ^ bits (mmB74 d) 1 0 * 128 < mmM d) || decide (2 ^ bits (mmB74 d) 3 2 * 128 < mmN d) ||
    es.isEmpty || es.any (fun e => decide (e.j < e.i) ||
      decide ((if e.factor then ceilDiv (mmN d) 128 else ceilDiv (mmM d) 128) ≤ e.j) ||
      decide (1 < countB (fun x => x.slot == e.slot) es)) ||
    decide (2 ^ mmCovSub d ≤ mmCovPhase d))

/-- An entry without CLEAR names a slot bound to the other factor (R143). -/
def covBindErr (s : State) (phys : Nat) (es : List CovEntry) : Bool :=
  es.any fun e => !e.clear && fb s COVA_SBOUND phys e.slot && (fb s COVA_SFACTOR phys e.slot != e.factor)

/-- The failing checks of a MATMUL body (R128, R174, R148). -/
def matmulErrs (s : State) (phys : Nat) (d : Desc) (ctl : List Byte) : List ErrCode :=
  let M := mmM d
  let N := mmN d
  let K := mmK d
  let fa := mmFmtA d
  let fB := mmFmtB d
  let live := !mmNop d
  let addrs := [(56, 64, 0), (60, 64, 0), (64, 64, 0)] ++ mmExtra d
  when (addrs.any fun a => bits (recLE d a.1 4) 31 21 != 0) .rsvdSet ++
  when (recLE d 116 4 != 0 || (mmCovEn d && (List.range 4).any fun n => bits (covSel d n) 15 12 != 0)) .rsvdSet ++
  when ((8 < fa && fa < 12) || (8 < fB && fB < 12) || fa == 8 || fB == 8 ||
    (mmCovEn d && (fa == 0 || fa == 1 || fa == 7))) .formatUnsupported ++
  when (fa != fB) .formatMismatch ++
  when (11 < fa || 11 < fB || mmScale d == 3 || mmMaskDim d == 3 || mmSp d == 3) .fieldRange ++
  when (decide (16384 < M) || decide (16384 < N) || decide (16384 < K)) .lenRange ++
  when (live && (mmRegions d).any fun r => decide (2097152 < r.2.2)) .lenOverRegion ++
  when (addrs.any fun a => galAddr d a.1 % a.2.1 != 0) .addrAlign ++
  when ([mmA d, mmB d].any fun o => (o.fmt == 6 && o.cols % 2 != 0) || (o.fmt == 5 && o.cols % 4 != 0)) .fieldRange ++
  (if mmWatch d then ctlErrs ctl false false else []) ++
  mtxErr (M % 32 != 0 || N % 32 != 0 || K % 32 != 0 || (live && decide (8 < mmGroup d))) 0x20 ++
  mtxErr (live && !([mmA d, mmB d, mmC d].all matStrideOk)) 0x21 ++
  mtxErr (mmScale d != 0 && !narrowFmt fa) 0x22 ++
  mtxErr ((mmSp d == 1 && (fa == 0 || mmBmpA d)) || (mmSp d == 2 && (fa == 0 || mmBmpB d))) 0x23 ++
  mtxErr (live && covSelErr d) 0x24 ++
  mtxErr (live && covBindErr s phys (covEntries d)) 0x25 ++
  mtxErr (live && anyMeets ((mmRegions d).filter fun r => r.1 == 64 || r.1 == 92 || r.1 == 112) (mmRegions d)) 0x26

/-! ### Operands (R131 to R136) -/

/-- What stands at a position of an operand: a structural zero, which enters as a +0 product whatever the other operand
holds (R134), or an element with its value; and whether a marked word fed it. -/
structure MatElem where
  val : Option XR
  poison : Bool
deriving DecidableEq, Repr

/-- The token mask of position e of dimension `dim`: active, and marked. -/
def mmMask (s : State) (phys : Nat) (d : Desc) (dim e : Nat) : Bool × Bool :=
  if mmMaskDim d = dim then bitAt s phys (galAddr d 96) e else (true, false)

/-- The bitmap bit of a logical position of A (side 0: row m) or B (side 1: column n). -/
def mmBmp (s : State) (phys : Nat) (d : Desc) (side x k : Nat) : Bool × Bool :=
  if side = 0 then
    if mmBmpA d then bitAt s phys (galAddr d 84) (x / 32 * ceilDiv (mmK d) 32 + k / 32) else (true, false)
  else if mmBmpB d then bitAt s phys (galAddr d 88) (k / 32 * ceilDiv (mmN d) 32 + x / 32) else (true, false)

/-- The 2:4 entry of group q of a line of the structured operand: its byte, and its four bits (R135). -/
def mmMetaOff (d : Desc) (x q : Nat) : Nat := galAddr d 100 + (x * (mmK d / 4) + q) / 2

/-- The entry's bits and its mark. -/
def mmMeta (s : State) (phys : Nat) (d : Desc) (x q : Nat) : Nat × Bool :=
  let v := rdG s phys (mmMetaOff d x q) 1
  (if (x * (mmK d / 4) + q) % 2 = 0 then v % 16 else v / 16, mkG s phys (mmMetaOff d x q) 1)

/-- A 2:4 entry is invalid: its first position is not below its second. -/
def metaBad (e : Nat) : Bool := decide (e / 4 ≤ e % 4)

/-- Where the stored element of a logical position lies: `none` for a position the structure does not keep. -/
def mmStored (s : State) (phys : Nat) (d : Desc) (side x k : Nat) : Option Nat × Bool :=
  if mmSp d = side + 1 then
    let e := mmMeta s phys d x (k / 4)
    if e.2 then (none, true)
    else if metaBad e.1 then (none, false)
    else if k % 4 = e.1 % 4 then (some (2 * (k / 4)), false)
    else if k % 4 = e.1 / 4 then (some (2 * (k / 4) + 1), false)
    else (none, false)
  else (some k, false)

/-- The operand of a side. -/
def mmOp (d : Desc) (side : Nat) : MatOp := if side = 0 then mmA d else mmB d

/-- The stored place of line x, stored depth k of a side. -/
def mmPlace (d : Desc) (side x k : Nat) : Nat × Nat :=
  let trans := if side = 0 then mmTransA d else !mmTransB d
  matPlace (mmOp d side) (if trans then k else x) (if trans then x else k)

/-- What line x (row of A, column of B) holds at depth k. -/
def mmElem (s : State) (phys : Nat) (d : Desc) (side x k : Nat) : MatElem :=
  let mask := mmMask s phys d 2 k
  if !mask.1 then ⟨none, false⟩
  else
    let bm := mmBmp s phys d side x k
    if !bm.1 then ⟨none, false⟩
    else
      let st := mmStored s phys d side x k
      match st.1 with
      | none => ⟨none, mask.2 || bm.2 || st.2⟩
      | some k' =>
        let p := mmPlace d side x k'
        ⟨some (decodeElem (mmOp d side).fmt (elemCode s phys (mmOp d side).fmt p.1 p.2)),
          mask.2 || bm.2 || readMarked s phys (elemRead (mmOp d side).fmt p.1 p.2)⟩

/-- The FP32 product of two scales, and its mark; x and y are the places of the two values (R131, R140). -/
def scaleProd (s : State) (phys : Nat) (d : Desc) (offA ia offB ib : Nat) : XR × Bool :=
  if mmScale d = 0 then (xInt 1, false)
  else
    let a := galAddr d offA + (if mmScale d = 1 then 0 else 4 * ia)
    let b := galAddr d offB + (if mmScale d = 1 then 0 else 4 * ib)
    (f32 (xMul (decodeFloat 0 (rdG s phys a 4)) (decodeFloat 0 (rdG s phys b 4))), mkG s phys a 4 || mkG s phys b 4)

/-- Place of sa of row block i at slice kk, and of sb of slice kk at column block j. -/
def saAt (d : Desc) (i kk : Nat) : Nat := i * ceilDiv (mmK d) 128 + kk
/-- Place of sb. -/
def sbAt (d : Desc) (kk j : Nat) : Nat := kk * ceilDiv (mmN d) 128 + j

/-- The product of two elements: +0 where either is a structural zero (R134). -/
def elemProd (a b : MatElem) : XR :=
  match a.val, b.val with
  | some x, some y => xMul x y
  | _, _ => xZero false

/-- A product uses both words (R329): where either is a structural zero, no data word feeds it. -/
def prodPoison (a b : MatElem) : Bool :=
  match a.val, b.val with
  | some _, some _ => a.poison || b.poison
  | some _, none => b.poison
  | none, some _ => a.poison
  | none, none => a.poison || b.poison

/-- Depth positions of a slice. -/
def sliceKs (d : Desc) (kk : Nat) : List Nat := (List.range 128).map (128 * kk + ·) |>.filter (· < mmK d)

/-- The slice sum of two lines of elements: ascending k, one fused rounding per product (R131). -/
def sliceSum (ps : List XR) : XR := ps.foldl (fun p x => f32 (xAdd x p)) (xZero true)

/-- The INT32 accumulation of R132: value and whether a step saturated. -/
def satAdd32 (p : Int × Bool) (x : Int) : Int × Bool :=
  let r := roundInt 32 0 0 (xInt (p.1 + x))
  (toInt 32 r.code, p.2 || r.cls != .none)

/-- The integer an INT8 or INT32 element holds; 0 for a structural zero. -/
def xToInt : XR → Int
  | .fin s n _ _ => sgn s n
  | _ => 0

/-- One output element as it leaves the engine: code, class, mark (R131, R132, R138). -/
def matOut (s : State) (phys : Nat) (d : Desc) (m n : Nat) : Watched :=
  let c := mmC d
  let cp := matPlace c m n
  let old := elemCode s phys c.fmt cp.1 cp.2
  let oldP := mmAcc d && readMarked s phys (elemRead c.fmt cp.1 cp.2)
  let rowP := (mmMask s phys d 1 m).2
  let slices := List.range (ceilDiv (mmK d) 128)
  let pairs := fun kk => (sliceKs d kk).map fun k => (mmElem s phys d 0 m k, mmElem s phys d 1 n k)
  let poison := oldP || rowP || slices.any fun kk =>
    (scaleProd s phys d 76 (saAt d (m / 128) kk) 80 (sbAt d kk (n / 128))).2 ||
      (pairs kk).any fun p => prodPoison p.1 p.2
  if mmFmtA d = 7 then
    let r := slices.foldl (fun (acc : Int × Bool) kk =>
      let p := (pairs kk).foldl (fun (p : Int × Bool) e => satAdd32 p (xToInt (elemProd e.1 e.2))) (0, false)
      let t := satAdd32 (acc.1, acc.2 || p.2) p.1
      t) ((if mmAcc d then toInt 32 old else 0), false)
    ⟨ofInt 32 r.1, if r.2 then .sat else .none, poison⟩
  else
    let r := slices.foldl (fun acc kk =>
      let p := sliceSum ((pairs kk).map fun e => elemProd e.1 e.2)
      f32 (xAdd (xMul p (scaleProd s phys d 76 (saAt d (m / 128) kk) 80 (sbAt d kk (n / 128))).1) acc))
      (if mmAcc d then decodeFloat 0 old else xZero true)
    let o := roundFloat 0 0 0 r
    ⟨o.code, (match r with | .nan => .nan | .inf _ => .inf | _ => .none), poison⟩

/-! ### Time (R130, R133, R136, R141) -/

/-- Array cycles of one sub-step of one output tile. -/
def subCycles (d : Desc) : Nat :=
  let full := match mmFmtA d with | 0 => 2048 | 1 | 2 => 256 | 3 | 4 | 7 => 128 | _ => 64
  full / (if mmSp d = 0 then 1 else 2) / 4

/-- Some row of an output tile is active. -/
def tileActive (s : State) (phys : Nat) (d : Desc) (ti : Nat) : Bool :=
  (List.range 128).any fun r => decide (ti * 128 + r < mmM d) && (mmMask s phys d 1 (ti * 128 + r)).1

/-- A sub-step of an output tile is skipped: all granules of one operand are zero or wholly masked (R133). -/
def subSkipped (s : State) (phys : Nat) (d : Desc) (ti tj kg : Nat) : Bool :=
  let masked := !(List.range 32).any fun k => (mmMask s phys d 2 (32 * kg + k)).1
  let zero := fun side t (lim : Nat) =>
    !(List.range 4).any fun g => decide (t * 128 + 32 * g < lim) && (mmBmp s phys d side (t * 128 + 32 * g) (32 * kg)).1
  masked || zero 0 ti (mmM d) || zero 1 tj (mmN d)

/-- The output tiles of an operation. -/
def mmTiles (d : Desc) : List (Nat × Nat) :=
  (List.range (ceilDiv (mmM d) 128)).flatMap fun i => (List.range (ceilDiv (mmN d) 128)).map fun j => (i, j)

/-- CNT_SKIP's advance: sub-steps and tiles skipped. -/
def mmSkips (s : State) (phys : Nat) (d : Desc) : Nat :=
  sumN ((mmTiles d).map fun t =>
    if !tileActive s phys d t.1 then 1
    else countB (fun kg => subSkipped s phys d t.1 t.2 kg) (List.range (mmK d / 32)))

/-- Array cycles of a slice of the whole operation (one group, under COV_EN). -/
def sliceCycles (s : State) (phys : Nat) (d : Desc) (kk : Nat) : Nat :=
  sumN ((mmTiles d).map fun t =>
    if !tileActive s phys d t.1 then 0
    else subCycles d * countB (fun u => decide (mmK d ≤ 32 * (4 * kk + u)) || !subSkipped s phys d t.1 t.2 (4 * kk + u))
      (List.range 4))

/-- The kept slices (R141). -/
def keptSlices (d : Desc) : List Nat :=
  rangeF (ceilDiv (mmK d) 128) fun kk => kk % 2 ^ mmCovSub d == mmCovPhase d

/-- Cycles held for the covariance array (R141). -/
def covHold (s : State) (phys : Nat) (d : Desc) : Nat :=
  if !mmCovEn d then 0
  else sumN ((keptSlices d).map fun kk => 512 * (covEntries d).length - sliceCycles s phys d kk)

/-! ### Covariance (R140, R141) -/

/-- Element (r, c) of the granule an entry adds to, after one slice (R140). -/
def covElem (s : State) (phys : Nat) (d : Desc) (e : CovEntry) (kk r c : Nat) (acc : Nat) : Nat :=
  let side := b2n e.factor
  let lim := if e.factor then mmN d else mmM d
  let line := fun (b x k : Nat) =>
    if 128 * b + x < lim then mmElem s phys d side (128 * b + x) k else ⟨none, false⟩
  let p := sliceSum ((sliceKs d kk).map fun k => elemProd (line e.i r k) (line e.j c k))
  let sc := if e.factor then scaleProd s phys d 80 (sbAt d kk e.i) 80 (sbAt d kk e.j)
    else scaleProd s phys d 76 (saAt d e.i kk) 76 (saAt d e.j kk)
  (roundFloat 0 0 0 (xAdd (xMul p sc.1) (decodeFloat 0 acc))).code

/-- Whether a marked word enters a slot through an entry and a slice (R145). -/
def covPoison (s : State) (phys : Nat) (d : Desc) (e : CovEntry) (kk : Nat) : Bool :=
  let side := b2n e.factor
  let lim := if e.factor then mmN d else mmM d
  (if e.factor then scaleProd s phys d 80 (sbAt d kk e.i) 80 (sbAt d kk e.j)
    else scaleProd s phys d 76 (saAt d e.i kk) 76 (saAt d e.j kk)).2 ||
  [e.i, e.j].any fun b => (List.range 128).any fun x => decide (128 * b + x < lim) &&
    (sliceKs d kk).any fun k => (mmElem s phys d side (128 * b + x) k).poison

/-- FP32 -0, an empty accumulator's element (R140). -/
def covDefault (_ : Nat) : Nat := 0x8000_0000

/-- The slot after an entry's kept slices. -/
def covSlotAfter (s : State) (phys : Nat) (d : Desc) (e : CovEntry) (c : CovSlot) : CovSlot :=
  if (keptSlices d).isEmpty then c
  else
    ⟨mapPut covDefault [] 0 ((List.range 16384).map fun n =>
      (keptSlices d).foldl (fun acc kk => covElem s phys d e kk (n / 128) (n % 128) acc) (mapGet covDefault c.acc n)),
    true, none⟩

/-- K positions a kept slice adds to SAMPLES. -/
def covSamples (s : State) (phys : Nat) (d : Desc) : Nat :=
  sumN ((keptSlices d).map fun kk => countB (fun k => (mmMask s phys d 2 k).1) (sliceKs d kk))

/-- A physical tile's covariance slot. -/
def covSlot (s : State) (phys n : Nat) : CovSlot := (tileSt s phys).cov.getD n ⟨[], false, none⟩

/-- A covariance slot changes. -/
def updCov (phys n : Nat) (c : CovSlot) : Act := updTile phys fun t => { t with cov := modAt 8 ⟨[], false, none⟩ t.cov n fun _ => c }

/-- A slot is unbound and emptied (R143, R145). -/
def covEmpty (phys n : Nat) : Act :=
  acts [setF COVA_SBOUND 0 phys n, setF COVA_SFACTOR 0 phys n, setF COVA_SPOISON 0 phys n, setF COVA_SJ 0 phys n,
    setF COVA_SI 0 phys n, setF COVA_SAMPLES 0 phys n, updCov phys n ⟨[], false, none⟩]

/-- A MATMUL passes CHECK: its entries bind their slots (R143). -/
def covBind (phys : Nat) (d : Desc) : Act :=
  if mmNop d then .done
  else each (covEntries d) fun e => look fun s =>
    if e.clear || !fb s COVA_SBOUND phys e.slot then
      acts [covEmpty phys e.slot, setF COVA_SBOUND 1 phys e.slot, setF COVA_SFACTOR (b2n e.factor) phys e.slot,
        setF COVA_SI e.i phys e.slot, setF COVA_SJ e.j phys e.slot]
    else .done

/-- The slots' contributions of an executing MATMUL (R140, R141, R145). -/
def covAccumulate (phys : Nat) (d : Desc) : Act :=
  if mmNop d then .done
  else each (covEntries d) fun e => look fun s =>
    let n := fv s COVA_SAMPLES phys e.slot
    acts [updCov phys e.slot (covSlotAfter s phys d e (covSlot s phys e.slot)),
      onlyIf ((keptSlices d).any (covPoison s phys d e)) (setF COVA_SPOISON 1 phys e.slot),
      setF COVA_SAMPLES (satAdd 32 n (covSamples s phys d)) phys e.slot,
      onlyIf (decide (n < 2 ^ 32 - 1 ∧ 2 ^ 32 - 1 ≤ n + covSamples s phys d)) (raiseEvt ⟨.cova, phys⟩ (2 ^ 17))]

/-! ### What a MATMUL reads -/

/-- Mask, bitmap, metadata and scale words (R133, R135, R136, R131). -/
def matCtrlReads (d : Desc) : List GRead :=
  (mmExtra d).filterMap fun e => if e.1 = 92 || e.1 = 112 then none else some (galAddr d e.1, e.2.2)

/-- Stored data words: those at positions that are active, not zero and kept. -/
def matDataReads (s : State) (phys : Nat) (d : Desc) : List GRead :=
  let side := fun sd lim => (List.range lim).flatMap fun x =>
    if sd = 0 && !(mmMask s phys d 1 x).1 && (covEntries d).all (fun e => e.factor) then []
    else (List.range (mmK d)).filterMap fun k =>
      if !(mmMask s phys d 2 k).1 || !(mmBmp s phys d sd x k).1 then none
      else (mmStored s phys d sd x k).1.map fun k' =>
        let p := mmPlace d sd x k'
        elemRead (mmOp d sd).fmt p.1 p.2
  side 0 (mmM d) ++ side 1 (mmN d) ++
    (if mmAcc d then (List.range (mmM d)).flatMap fun m =>
      if (mmMask s phys d 1 m).1 then (List.range (mmN d)).map fun n => matRead (mmC d) m n else [] else [])

/-- 2:4 groups with invalid metadata that the operation uses (R135). -/
def badMeta (s : State) (phys : Nat) (d : Desc) : Nat :=
  if mmSp d = 0 then 0
  else
    let side := mmSp d - 1
    sumN ((List.range (if side = 0 then mmM d else mmN d)).map fun x =>
      if side = 0 && !(mmMask s phys d 1 x).1 then 0
      else countB (fun q =>
        ((List.range 4).any fun i => (mmMask s phys d 2 (4 * q + i)).1) && !(mmMeta s phys d x q).2 &&
          metaBad (mmMeta s phys d x q).1) (List.range (mmK d / 4)))

/-! ### Results -/

/-- The key of a counter register of a page. -/
def cntKey (f : Fld) (idx : Nat) (n : Nat := 0) : Nat := fldKey f idx n

/-- What a MATMUL does (R131 to R138). -/
def matmulResult (s : State) (phys : Nat) (d : Desc) (ctl : List Byte) : OpResult :=
  if mmNop d then { OpResult.none with counts := [(cntKey MTRX_CNT_OPS phys, 1)] }
  else
    let M := mmM d
    let N := mmN d
    let f := mmFmtC d
    let act := fun m => (mmMask s phys d 1 m).1
    let out : List (Nat × Nat × Watched) := (List.range M).flatMap fun m =>
      if act m then (List.range N).map fun n => (m, n, matOut s phys d m n)
      else if mmFill d then (List.range N).map fun n => (m, n, ⟨0, .none, false⟩)
      else []
    let ws := out.map fun o => o.2.2
    let rows : List OpWrite := (List.range M).flatMap fun m =>
      joinWrites ((out.filter fun o => o.1 == m).map fun o =>
        let p := matRead (mmC d) m o.2.1
        ⟨.galley phys, p.1, elemBytes f o.2.2.code, List.replicate 4 o.2.2.poison⟩)
    let occ := occBits M N fun r c =>
      (!act r && !mmFill d) || out.any fun o => o.1 == r && o.2.1 == c && !isZeroCode f o.2.2.code
    let nonfin := if f = 8 then clsCount .sat ws else clsCount .nan ws + clsCount .inf ws
    let bad := badMeta s phys d
    let hold := covHold s phys d
    let consumed := firstMarked s phys (matCtrlReads d ++ matDataReads s phys d)
    ⟨rows ++ (if mmOccEn d then [plainWrite phys (galAddr d 92) (bitsToBytes occ)] else []) ++
        (if mmWatch d then
          [watchWrite phys (galAddr d 112) (watchBytes f 0 ctl ws noAmaxIn 0 0 0 0)] else []),
      b2n (ws.any (·.poison) || consumed.isSome) + 4 * b2n (decide (0 < hold)) + 8 * b2n (decide (0 < bad)) +
        16 * b2n (decide (0 < nonfin)),
      ws.length,
      min nonfin (2 ^ 32 - 1) + 2 ^ 32 * min (zeroCount f ws) (2 ^ 32 - 1),
      (if mmOccEn d then countB id occ else 0) + 2 ^ 32 * countB (fun m => !act m) (List.range M),
      min hold (2 ^ 32 - 1),
      [(cntKey MTRX_CNT_OPS phys, 1), (cntKey MTRX_CNT_COV_HOLD phys, hold), (cntKey MTRX_CNT_SKIP phys, mmSkips s phys d),
        (cntKey MTRX_CNT_BAD_META phys, bad), (cntKey MTRX_CNT_NONFINITE phys, nonfin)],
      2 ^ 16 * b2n (decide (0 < bad)) + 2 ^ 17 * b2n (decide (0 < nonfin)),
      consumed⟩

/-! ### COV_FLUSH (R142) -/

/-- SLOT_MASK's slots. -/
def cfSlots (d : Desc) : List Nat := rangeF 8 (bit (recLE d 48 1))

/-- WATCH_EN of a COV_FLUSH. -/
def cfWatch (d : Desc) : Bool := bit (recLE d 49 1) 1

/-- The destinations and the watch record of a COV_FLUSH as spans. -/
def cfRegions (d : Desc) : List (Nat × Int × Int) :=
  ((cfSlots d).map fun n => (n, (galAddr d (52 + 4 * n) : Int), ((galAddr d (52 + 4 * n) + 65536 : Nat) : Int))) ++
  (if cfWatch d then [(8, (galAddr d 84 : Int), ((galAddr d 84 + 512 : Nat) : Int))] else [])

/-- The failing checks of a COV_FLUSH body (R142). -/
def covFlushErrs (d : Desc) (ctl : List Byte) : List ErrCode :=
  let addrs := (cfSlots d).map (fun n => 52 + 4 * n) ++ (if cfWatch d then [84] else [])
  let live := !(cfSlots d).isEmpty
  when (bits (recLE d 49 1) 7 2 != 0 || recLE d 50 2 != 0 || (d.drop 88).any (· != 0) ||
    addrs.any fun a => bits (recLE d a 4) 31 21 != 0) .rsvdSet ++
  when (addrs.any fun a => galAddr d a % 64 != 0) .addrAlign ++
  when (live && (cfRegions d).any fun r => decide (2097152 < r.2.2)) .lenOverRegion ++
  (if cfWatch d then ctlErrs ctl false false else []) ++
  mtxErr (live && anyMeets (cfRegions d) (cfRegions d)) 0x26

/-- A slot is bound as an executing COV_FLUSH sees it: the flush itself may have unbound it at CHECK. -/
def flushBound (s : State) (phys n : Nat) : Bool := fb s COVA_SBOUND phys n || (covSlot s phys n).held.isSome

/-- SAMPLES as an executing COV_FLUSH sees it. -/
def flushSamples (s : State) (phys n : Nat) : Nat :=
  match (covSlot s phys n).held with
  | some h => h.1
  | none => fv s COVA_SAMPLES phys n

/-- POISONED as an executing COV_FLUSH sees it. -/
def flushPoison (s : State) (phys n : Nat) : Bool :=
  match (covSlot s phys n).held with
  | some h => h.2
  | none => fb s COVA_SPOISON phys n

/-- CLEAR_AFTER. -/
def cfClear (d : Desc) : Bool := bit (recLE d 49 1) 0

/-- A COV_FLUSH passes CHECK: CLEAR_AFTER unbinds its slots (R143); their contents stay until it has written them. -/
def covFlushBind (phys : Nat) (d : Desc) : Act :=
  if cfClear d then each (cfSlots d) fun n => look fun s =>
    if fb s COVA_SBOUND phys n then
      let c := covSlot s phys n
      acts [covEmpty phys n, updCov phys n ⟨c.acc, c.used, some (fv s COVA_SAMPLES phys n, fb s COVA_SPOISON phys n)⟩]
    else .done
  else .done

/-- A COV_FLUSH has written its slots: CLEAR_AFTER empties them. -/
def covFlushEnd (phys : Nat) (d : Desc) : Act := onlyIf (cfClear d) (each (cfSlots d) (covEmpty phys))

/-- A skipped COV_FLUSH leaves the slots it unbound empty. -/
def covDropHeld (phys : Nat) : Act :=
  each (List.range 8) fun n => look fun s => onlyIf (covSlot s phys n).held.isSome (updCov phys n ⟨[], false, none⟩)

/-- The elements of a slot as a flush writes them: +0 for a slot nothing was added to (R142, R122). -/
def flushCodes (s : State) (phys n : Nat) : List Nat :=
  let c := covSlot s phys n
  if flushBound s phys n && c.used then (List.range 16384).map (mapGet covDefault c.acc) else List.replicate 16384 0

/-- What a COV_FLUSH does (R142, R145). -/
def covFlushResult (s : State) (phys : Nat) (d : Desc) (ctl : List Byte) : OpResult :=
  if (cfSlots d).isEmpty then { OpResult.none with counts := [(cntKey MTRX_CNT_OPS phys, 1)] }
  else
    let outs := (cfSlots d).map fun n => (n, flushCodes s phys n, flushPoison s phys n)
    let ws : List Watched := outs.flatMap fun o => o.2.1.map fun c =>
      ⟨c, (match decodeFloat 0 c with | .nan => .nan | .inf _ => .inf | _ => .none), o.2.2⟩
    let nonfin := clsCount .nan ws + clsCount .inf ws
    ⟨(outs.map fun o => ⟨.galley phys, galAddr d (52 + 4 * o.1), o.2.1.flatMap (leBytes 4),
        List.replicate 65536 o.2.2⟩) ++
      (if cfWatch d then [watchWrite phys (galAddr d 84) (watchBytes 0 0 ctl ws noAmaxIn 0 0 0 0)] else []),
      b2n (ws.any (·.poison)) + 16 * b2n (decide (0 < nonfin)),
      ws.length,
      min nonfin (2 ^ 32 - 1) + 2 ^ 32 * min (zeroCount 0 ws) (2 ^ 32 - 1),
      flushSamples s phys ((cfSlots d).headD 0),
      recLE d 48 1,
      [(cntKey MTRX_CNT_OPS phys, 1), (cntKey MTRX_CNT_NONFINITE phys, nonfin)],
      2 ^ 17 * b2n (decide (0 < nonfin)),
      none⟩

/-- Slots a queue-0 descriptor names (R143). -/
def slotsNamed (d : Desc) : List Nat :=
  if hOpcode d = 1 then (if mmNop d then [] else (covEntries d).map (·.slot))
  else if hOpcode d = 2 then cfSlots d else []

end Sys2Proof.Machine
end

