-- ==== Sys2Proof/Machine/Winnow.lean ====
section
/-! DEFINITION. The Winnow unit: ROUTE (R236 to R242), DISPATCH (R243, R244), the inboxes and their messages (R245 to
R248), RETURN (R249) and COMBINE (R250). -/

namespace Sys2Proof.Machine

/-- The bits of a byte or word of a body above bit `hi` are 0. -/
def clearAbove (d : Desc) (o n hi : Nat) : Bool := recLE d o n / 2 ^ (hi + 1) == 0

/-- Bytes from `o` to the end of a descriptor are 0. -/
def zeroFrom (d : Desc) (o : Nat) : Bool := (d.drop o).all (· == 0)

/-- A galley address with reserved bits 0. -/
def galAddrOk (d : Desc) (o : Nat) : Bool := clearAbove d o 4 20

/-- Galley memory ends before a span does. -/
def pastGalley (x : Int × Int) : Bool := decide (2097152 < x.2)

/-- A span of n bytes from a galley address of a body. -/
def bodySpan (d : Desc) (o n : Nat) : Int × Int := ((vAddr d o : Nat), ((vAddr d o + n : Nat) : Int))

/-- The span of rows of `n` bytes, `step` apart. -/
def rowsSpan (base step rows n : Nat) : Int × Int := ((base : Nat), ((base + (rows - 1) * step + n : Nat) : Int))

/-- A Winnow code (R255). -/
def winErr (c : Bool) (code : Nat) : List ErrCode := when c (.block code)

/-! ### ROUTE (R236 to R242) -/

/-- T of a Winnow body. -/
def wT (d : Desc) : Nat := bits (recLE d 48 4) 16 0
/-- E of a ROUTE. -/
def rtE (d : Desc) : Nat := bits (recLE d 52 2) 10 0
/-- K of a ROUTE. -/
def rtK (d : Desc) : Nat := bits (recLE d 54 1) 4 0
/-- SPILL_N. -/
def rtSpillN (d : Desc) : Nat := bits (recLE d 55 1) 4 0
/-- FMT_S. -/
def rtFmt (d : Desc) : Nat := bits (recLE d 56 1) 3 0
/-- POLICY is SPILL. -/
def rtSpill (d : Desc) : Bool := bit (recLE d 56 1) 4
/-- GATE_MODE. -/
def rtGate (d : Desc) : Nat := bits (recLE d 56 1) 6 5
/-- Enables: 0 TOKMASK, 1 EXMASK, 2 BIAS, 3 OUTMASK, 4 LOAD. -/
def rtEn (d : Desc) (i : Nat) : Bool := bit (recLE d 57 1) i
/-- CAP. -/
def rtCap (d : Desc) : Nat := bits (recLE d 58 2) 12 0
/-- S_OST. -/
def rtOst (d : Desc) : Nat := recLE d 64 4

/-- T, E or K is 0 (R237). -/
def rtNop (d : Desc) : Bool := wT d == 0 || rtE d == 0 || rtK d == 0

/-- Bytes of a score. -/
def rtSize (d : Desc) : Nat := fmtBits (rtFmt d) / 8

/-- Inputs and outputs of a ROUTE as spans. -/
def rtIns (d : Desc) : List (Nat × Int × Int) :=
  [(60, rowsSpan (vAddr d 60) (rtOst d) (wT d) (rtE d * rtSize d))] ++
  (if rtEn d 0 then [(72, bodySpan d 72 (ceilDiv (wT d) 8))] else []) ++
  (if rtEn d 1 then [(76, bodySpan d 76 (ceilDiv (rtE d) 8))] else []) ++
  (if rtEn d 2 then [(80, bodySpan d 80 (4 * rtE d))] else [])

/-- Outputs of a ROUTE. -/
def rtOuts (d : Desc) : List (Nat × Int × Int) :=
  [(68, bodySpan d 68 (8 * (wT d * rtK d)))] ++
  (if rtEn d 3 then [(84, bodySpan d 84 (ceilDiv (wT d) 8))] else []) ++
  (if rtEn d 4 then [(88, bodySpan d 88 (8 * rtE d))] else [])

/-- The failing checks of a ROUTE body (R236, R237). -/
def routeErrs (d : Desc) : List ErrCode :=
  let al := [(68, 8)] ++ (if rtEn d 0 then [(72, 8)] else []) ++ (if rtEn d 1 then [(76, 8)] else []) ++
    (if rtEn d 2 then [(80, 4)] else []) ++ (if rtEn d 3 then [(84, 8)] else []) ++ (if rtEn d 4 then [(88, 4)] else [])
  when (!clearAbove d 48 4 16 || !clearAbove d 52 2 10 || !clearAbove d 54 1 4 || !clearAbove d 55 1 4 ||
    bit (recLE d 56 1) 7 || !clearAbove d 57 1 4 || !clearAbove d 58 2 12 || !zeroFrom d 92 || !galAddrOk d 60 ||
    al.any fun a => !galAddrOk d a.1) .rsvdSet ++
  when (!isF (rtFmt d)) .formatUnsupported ++
  when (rtGate d == 3) .fieldRange ++
  when (decide (65536 < wT d) || decide (1024 < rtE d) || decide (4096 < rtCap d) || decide (16 < rtSpillN d) ||
    decide (16 < rtK d + rtSpillN d)) .lenRange ++
  when (isF (rtFmt d) && (vAddr d 60 % rtSize d != 0 || rtOst d % rtSize d != 0) ||
    al.any fun a => vAddr d a.1 % a.2 != 0) .addrAlign ++
  when (!rtNop d && (rtIns d ++ rtOuts d).any fun x => pastGalley x.2) .lenOverRegion ++
  winErr (!rtNop d && anyMeets (rtOuts d) (rtIns d ++ rtOuts d)) 0x55

/-- Mask bits of a ROUTE: token t, or expert e; value and mark (R329). -/
def rtTok (s : State) (phys : Nat) (d : Desc) (t : Nat) : Bool × Bool :=
  if rtEn d 0 then bitAt s phys (vAddr d 72) t else (true, false)
/-- The expert mask. -/
def rtEx (s : State) (phys : Nat) (d : Desc) (e : Nat) : Bool × Bool :=
  if rtEn d 1 then bitAt s phys (vAddr d 76) e else (true, false)

/-- Unmasked experts. -/
def rtExperts (s : State) (phys : Nat) (d : Desc) : List Nat := rangeF (rtE d) fun e => (rtEx s phys d e).1

/-- The score of (t, e), exactly, and its mark. -/
def rtScore (s : State) (phys : Nat) (d : Desc) (t e : Nat) : XR × Bool :=
  let o := vAddr d 60 + t * rtOst d + e * rtSize d
  (decodeFloat (rtFmt d) (rdG s phys o (rtSize d)), mkG s phys o (rtSize d))

/-- The key of (t, e) (R238). -/
def rtKey (s : State) (phys : Nat) (d : Desc) (t e : Nat) : XR :=
  let x := (rtScore s phys d t e).1
  if rtEn d 2 then f32 (xAdd x (decodeFloat 0 (rdG s phys (vAddr d 80 + 4 * e) 4))) else x

/-- A score word of an unmasked expert of a token is marked. -/
def rtPoisoned (s : State) (phys : Nat) (d : Desc) (t : Nat) : Bool :=
  (rtExperts s phys d).any fun e => (rtScore s phys d t e).2

/-- Insertion by descending key; an equal key goes behind (R238). -/
def rankInsert (key : Nat → XR) (e : Nat) : List Nat → List Nat
  | [] => [e]
  | a :: l => if xLt (key a) (key e) then e :: a :: l else a :: rankInsert key e l

/-- Experts ranked by key, ties by lower index. -/
def rankAll (key : Nat → XR) (es : List Nat) : List Nat := es.foldl (fun acc e => rankInsert key e acc) []

/-- A token as it is ranked: active, a NaN token, its ranked experts. -/
structure RtToken where
  active : Bool
  nan : Bool
  ranked : List Nat
deriving DecidableEq, Repr

/-- Ranking of a token (R238). -/
def rtToken (s : State) (phys : Nat) (d : Desc) (t : Nat) : RtToken :=
  if !(rtTok s phys d t).1 then ⟨false, false, []⟩
  else
    let es := rtExperts s phys d
    if rtPoisoned s phys d t || es.any (fun e => xIsNan (rtKey s phys d t e)) then ⟨true, true, []⟩
    else ⟨true, false, (rankAll (rtKey s phys d t) es).take (rtK d + rtSpillN d)⟩

/-- What became of a choice (R239): state code of R241, expert, slot. -/
structure RtChoice where
  state : Nat
  expert : Nat
  slot : Nat
deriving DecidableEq, Repr

/-- Capacity assignment in progress: counts, used spill candidates (token, expert), outcomes (token, rank). -/
structure RtAssign where
  counts : List Nat
  used : List (Nat × Nat)
  out : List (Nat × Nat × RtChoice)
deriving DecidableEq, Repr

/-- One choice of R239. -/
def rtAssignOne (d : Desc) (toks : List RtToken) (a : RtAssign) (r t : Nat) : RtAssign :=
  let tk := toks.getD t ⟨false, false, []⟩
  if !tk.active || tk.nan then a
  else match tk.ranked[r]? with
    | none => a
    | some e =>
      let cnt := fun x => a.counts.getD x 0
      let take := fun x => a.counts.modify x (· + 1)
      if cnt e < rtCap d then ⟨take e, a.used, (t, r, ⟨1, e, cnt e⟩) :: a.out⟩
      else
        match (if rtSpill d then (tk.ranked.drop (rtK d)).find? fun c => !a.used.contains (t, c) && decide (cnt c < rtCap d)
          else none) with
        | some c => ⟨take c, (t, c) :: a.used, (t, r, ⟨3, c, cnt c⟩) :: a.out⟩
        | none => ⟨a.counts, a.used, (t, r, ⟨2, e, 0xFFFF⟩) :: a.out⟩

/-- Capacity assignment, rank-major (R239). -/
def rtAssign (d : Desc) (toks : List RtToken) : RtAssign :=
  ((List.range (rtK d)).flatMap fun r => (List.range (wT d)).map fun t => (r, t)).foldl
    (fun a x => rtAssignOne d toks a x.1 x.2) ⟨List.replicate (rtE d) 0, [], []⟩

/-- The outcome of entry (t, r) (R241). -/
def rtOutcome (toks : List RtToken) (a : RtAssign) (t r : Nat) : RtChoice :=
  let tk := toks.getD t ⟨false, false, []⟩
  if !tk.active then ⟨5, 0, 0xFFFF⟩
  else if tk.nan then ⟨4, 0, 0xFFFF⟩
  else match a.out.find? fun x => x.1 == t && x.2.1 == r with
    | some x => x.2.2
    | none => ⟨0, 0, 0xFFFF⟩

/-- A choice was accepted, a spill included. -/
def rtAccepted (c : RtChoice) : Bool := c.state == 1 || c.state == 3

/-- The gate of entry (t, r) as an FP32 code (R240). -/
def rtGateOf (s : State) (phys : Nat) (d : Desc) (toks : List RtToken) (a : RtAssign) (t r : Nat) : Nat :=
  let c := rtOutcome toks a t r
  let score := fun e => (rtScore s phys d t e).1
  if !rtAccepted c then 0
  else if rtGate d = 0 then (roundFloat 0 0 0 (score c.expert)).code
  else if rtGate d = 1 then
    let xs := (List.range (rtK d)).filterMap fun q =>
      let x := rtOutcome toks a t q
      if rtAccepted x then some (q, score x.expert) else none
    ((smRow 0 (rtK d) xs).outs.getD r ⟨0, .none⟩).code
  else ((smRow 0 (rtE d) ((rtExperts s phys d).map fun e => (e, score e))).outs.getD c.expert ⟨0, .none⟩).code

/-- What a ROUTE reads. -/
def routeReads (s : State) (phys : Nat) (d : Desc) : List GRead :=
  (rtIns d).filterMap (fun x => if x.1 = 60 then none else some (x.2.1.toNat, (x.2.2 - x.2.1).toNat)) ++
  (List.range (wT d)).flatMap fun t =>
    if (rtTok s phys d t).1 then (rtExperts s phys d).map fun e => (vAddr d 60 + t * rtOst d + e * rtSize d, rtSize d)
    else []

/-- What a ROUTE does (R238 to R242). -/
def routeResult (s : State) (phys : Nat) (d : Desc) : OpResult :=
  if rtNop d then OpResult.none
  else
    let T := wT d
    let K := rtK d
    let toks := (List.range T).map (rtToken s phys d)
    let a := rtAssign d toks
    let common := (rtIns d).any fun x => (x.1 == 76 || x.1 == 80) && mkG s phys x.2.1.toNat (x.2.2 - x.2.1).toNat
    let poisonTok := fun t => (toks.getD t ⟨false, false, []⟩).active &&
      (common || (rtTok s phys d t).2 || rtPoisoned s phys d t)
    let entry := fun t r =>
      let c := rtOutcome toks a t r
      (if c.state = 0 || c.state = 4 || c.state = 5 then 0 else c.expert) + c.state * 2 ^ 13 + c.slot * 2 ^ 16 +
        rtGateOf s phys d toks a t r * 2 ^ 32
    let all := (List.range T).flatMap fun t => (List.range K).map fun r => rtOutcome toks a t r
    let active := countB (·.active) toks
    let nans := countB (·.nan) toks
    let acc := countB rtAccepted all
    let drops := countB (fun c => c.state == 2) all
    let spills := countB (fun c => c.state == 3) all
    let routed := fun t => (List.range K).any fun r => rtAccepted (rtOutcome toks a t r)
    let lone := countB (fun t => (toks.getD t ⟨false, false, []⟩).active && !routed t) (List.range T)
    let demand := fun e => countB (fun x : RtToken => (x.ranked.take K).contains e) toks
    let someTokP := (List.range T).any poisonTok
    let consumed := firstMarked s phys (routeReads s phys d)
    ⟨((List.range T).map fun t =>
        let b := (List.range K).flatMap fun r => leBytes 8 (entry t r)
        ⟨.galley phys, vAddr d 68 + 8 * (t * K), b, List.replicate b.length (poisonTok t)⟩) ++
      (if rtEn d 3 then
        let b := bitsToBytes ((List.range T).map routed)
        [⟨.galley phys, vAddr d 84, b, (List.range b.length).map fun i => (List.range 8).any fun j => poisonTok (8 * i + j)⟩]
        else []) ++
      (if rtEn d 4 then
        let b := (List.range (rtE d)).flatMap (fun e => leBytes 4 (a.counts.getD e 0)) ++
          (List.range (rtE d)).flatMap fun e => leBytes 4 (demand e)
        [⟨.galley phys, vAddr d 88, b, List.replicate b.length (common || (List.range T).any fun t => (rtTok s phys d t).2)⟩]
        else []),
      b2n (someTokP || consumed.isSome) + 4 * b2n (decide (0 < nans)) + 8 * b2n (decide (0 < drops)) +
        16 * b2n (decide (0 < spills)) +
        32 * b2n (toks.any fun x => x.active && !x.nan && x.ranked.isEmpty),
      active,
      acc + 2 ^ 32 * drops,
      nans + 2 ^ 32 * lone,
      spills,
      [(fldKey WINN_WCNT phys 0, active), (fldKey WINN_WCNT phys 1, nans), (fldKey WINN_WCNT phys 2, drops),
        (fldKey WINN_WCNT phys 3, spills)],
      2 ^ 16 * b2n (decide (0 < nans)) + 2 ^ 17 * b2n (decide (0 < drops)),
      consumed⟩

/-! ### Inboxes (R246 to R248) -/

/-- Inbox states (R246). -/
def inIdle : Nat := 0
/-- OPEN. -/
def inOpen : Nat := 1
/-- CLOSED. -/
def inClosed : Nat := 2
/-- RETURNING. -/
def inReturning : Nat := 3

/-- The WINN page of a physical tile. -/
def winnPg (phys : Nat) : PageRef := ⟨.winn, phys⟩

/-- Rows of an inbox. -/
def inRows (s : State) (phys i : Nat) : Nat := fv s WINN_NSRC phys i * fv s WINN_ICAP phys i

/-- Elements of an inbox row. -/
def inElems (s : State) (phys i : Nat) : Nat := fv s WINN_ROWB phys i * 8 / fmtBits (fv s WINN_IFMT phys i)

/-- The regions of an inbox as spans. -/
def inSpans (s : State) (phys i : Nat) : List (Nat × Int × Int) :=
  let n := inRows s phys i
  let at_ := fun (k base len : Nat) => (k, ((base : Nat) : Int), ((base + len : Nat) : Int))
  [at_ 0 (fv s WINN_IBASE phys i) (n * fv s WINN_ROWB phys i), at_ 1 (fv s WINN_TAG_ADDR phys i) (8 * n),
    at_ 2 (fv s WINN_SRCT_ADDR phys i) (8 * fv s WINN_NSRC phys i)] ++
  (if fb s WINN_MASK_EN phys i then [at_ 3 (fv s WINN_MASK_ADDR phys i) (ceilDiv n 8)] else []) ++
  (if fb s WINN_BMP_EN phys i then
    [at_ 4 (fv s WINN_BMP_ADDR phys i) (ceilDiv (ceilDiv n 32 * ceilDiv (inElems s phys i) 32) 8)] else [])

/-- The failing checks of an ARM (R246). An inbox that is not IDLE is busy. -/
def armErrs (s : State) (phys i : Nat) : List ErrCode :=
  let n := inRows s phys i
  let f := fv s WINN_IFMT phys i
  when (fv s WINN_ISTATE phys i != inIdle) .stateBusy ++
  when (decide (7 < f)) .formatUnsupported ++
  winErr (n == 0 || n % 32 != 0 || decide (16384 < n) || decide (4096 < fv s WINN_ICAP phys i) ||
    inElems s phys i % 32 != 0 || (fb s WINN_BMP_EN phys i && !fb s WINN_ZERO_FILL phys i)) 0x52 ++
  when ((inSpans s phys i).any fun x => pastGalley x.2) .lenOverRegion ++
  winErr (anyMeets (inSpans s phys i) (inSpans s phys i)) 0x55

/-- An inbox's hidden state. -/
def inboxSt (s : State) (phys i : Nat) : Inbox := (tileSt s phys).inbox.getD i ⟨[], none⟩

/-- An inbox's hidden state changes. -/
def updInbox (phys i : Nat) (b : Inbox) : Act := updTile phys fun t => { t with inbox := modAt 16 ⟨[], none⟩ t.inbox i fun _ => b }

/-- An epoch starts or is discarded: the inbox enters a state with its counts cleared. -/
def inReset (phys i st : Nat) : Act :=
  acts [updInbox phys i ⟨[], none⟩, setF WINN_ENDS 0 phys i, setF WINN_IROWS 0 phys i, setF WINN_ISTATE st phys i]

/-- An accepted ARM. -/
def armInbox (phys i : Nat) : Act := inReset phys i inOpen

/-- The failing check of a DISARM (R246). -/
def disarmErrs (s : State) (phys i : Nat) : List ErrCode := when (fv s WINN_ISTATE phys i == inReturning) .stateBusy

/-- An accepted DISARM. -/
def disarmInbox (phys i : Nat) : Act := inReset phys i inIdle

/-- The record of sender n. -/
def senderRec (s : State) (phys i n : Nat) : Nat := rdG s phys (fv s WINN_SRCT_ADDR phys i + 8 * n) 8

/-- The row count of sender n. -/
def senderCount (s : State) (phys i n : Nat) : Nat := bits (senderRec s phys i n) 47 32

/-- Row j of sender n is filled (R248). -/
def rowFilled (s : State) (phys i row : Nat) : Bool :=
  let cap := fv s WINN_ICAP phys i
  decide (row % cap < senderCount s phys i (row / cap))

/-- The inbox closes (R248). -/
def inboxClose (phys i : Nat) : Act :=
  look fun s =>
    let n := inRows s phys i
    let rb := fv s WINN_ROWB phys i
    let base := fv s WINN_IBASE phys i
    acts [
      onlyIf (fb s WINN_ZERO_FILL phys i)
        (each ((List.range n).filter fun r => !rowFilled s phys i r) fun r =>
          memPut (.galley phys) (base + r * rb) (List.replicate rb 0)),
      onlyIf (fb s WINN_MASK_EN phys i)
        (memPut (.galley phys) (fv s WINN_MASK_ADDR phys i) (bitsToBytes ((List.range n).map (rowFilled s phys i)))),
      onlyIf (fb s WINN_BMP_EN phys i)
        (memPut (.galley phys) (fv s WINN_BMP_ADDR phys i) (bitsToBytes
          ((List.range (ceilDiv n 32)).flatMap fun g => List.replicate (ceilDiv (inElems s phys i) 32)
            ((List.range 32).any fun r => decide (32 * g + r < n) && rowFilled s phys i (32 * g + r))))),
      onlyIf (fb s WINN_CLOSE_EN phys i) (addToken phys (fv s WINN_CLOSE_CNT phys i) 1),
      raiseEvt (winnPg phys) (2 ^ 19),
      setF WINN_ISTATE inClosed phys i]

/-- The code an arriving message is answered with (R247). -/
def winnCode (s : State) (m : WinnMsg) : ErrCode :=
  let p := physOf s m.tile
  let i := m.inbox
  if 143 < m.tile || !tileBacked s m.tile then .retiredUnit
  else if m.kind = 3 then
    if 2097152 < bits m.tag 44 24 + m.payload.length then .lenOverRegion else .ok
  else if fv s WINN_ISTATE p i != inOpen || inSrst s (winnPg p) || (inboxSt s p i).ends.contains m.src then .block 0x53
  else if fv s WINN_NSRC p i ≤ m.src ||
      (m.kind == 1 && (decide (fv s WINN_ICAP p i ≤ m.slot) || m.payload.length != fv s WINN_ROWB p i)) ||
      (m.kind == 2 && decide (fv s WINN_ICAP p i < m.slot)) then .block 0x54
  else .ok

/-- An arriving message is refused or has its effect (R247, R248). -/
def winnApply (m : WinnMsg) : Act :=
  look fun s =>
    let p := physOf s m.tile
    let i := m.inbox
    match winnCode s m with
    | .ok =>
      if m.kind = 3 then memPut (.galley p) (bits m.tag 44 24) m.payload
      else if m.kind = 1 then
        let row := m.src * fv s WINN_ICAP p i + m.slot
        acts [memPut (.galley p) (fv s WINN_IBASE p i + row * fv s WINN_ROWB p i) m.payload,
          memPut (.galley p) (fv s WINN_TAG_ADDR p i + 8 * row) (leBytes 8 m.tag),
          incF WINN_IROWS 1 p i, cnt WINN_WCNT 6 p]
      else
        let b := inboxSt s p i
        acts [memPut (.galley p) (fv s WINN_SRCT_ADDR p i + 8 * m.src)
            (leBytes 8 (m.tag % 2 ^ 30 + m.slot * 2 ^ 32)),
          updInbox p i ⟨b.ends ++ [m.src], b.ret⟩, setF WINN_ENDS (b.ends.length + 1) p i,
          onlyIf (b.ends.length + 1 == fv s WINN_NSRC p i) (inboxClose p i)]
    | .retiredUnit => .done
    | _ => onlyIf (m.kind != 3) (acts [incF WINN_CNT_REFUSED 1 p i, raiseEvt (winnPg p) (2 ^ 18)])

/-- A message of a KIND that is never sent arrives: its inbox counts it as refused; the code that goes back is free
(R245). -/
def winnStray (src : Nat) (m : WinnMsg) : Act :=
  look fun s =>
    let p := physOf s m.tile
    if 143 < m.tile || !tileBacked s m.tile then sendMsg src .none (.winnAnswer m (errNum .retiredUnit))
    else acts [incF WINN_CNT_REFUSED 1 p m.inbox, raiseEvt (winnPg p) (2 ^ 18),
      withFree fun v => sendMsg src .none (.winnAnswer m (v % 255 + 1))]

/-- A message arrives from another device: applied, or held while the tile's state is copied or its unit is in
quarantine (R251, R435); the code goes back to the sender. -/
def winnArrive (src : Nat) (m : WinnMsg) : Act :=
  look fun s =>
    if tileHeld s m.tile then updUnits fun u => { u with heldMsgs := u.heldMsgs ++ [(src, m)] }
    else if m.kind = 0 ∨ 3 < m.kind then winnStray src m
    else acts [winnApply m, sendMsg src .none (.winnAnswer m (errNum (winnCode s m)))]

/-! ### Sending (R244, R249) -/

/-- What sending has met so far: refusals, the first code, and the codes other devices answer with, in order. -/
structure SendSt where
  refused : Nat
  first : Nat
  codes : List Nat
deriving DecidableEq, Repr

/-- The answer to one message is noted. -/
def SendSt.note (st : SendSt) (code : Nat) : SendSt :=
  if code = 0 then st else ⟨st.refused + 1, if st.first = 0 then code else st.first, st.codes⟩

/-- Messages are sent in order: to own tiles they are applied, to other devices they leave with the answers `codes`
gives; an answer not listed is an acknowledgement. -/
def sendMsgs (o : Origin) : List (Nat × WinnMsg) → SendSt → (SendSt → Act) → Act
  | [], st, k => k st
  | x :: l, st, k => look fun s =>
    if x.1 = nodeId s then (winnApply x.2).seq (sendMsgs o l (st.note (errNum (winnCode s x.2))) k)
    else if !reachable s x.1 then noRoute.seq (sendMsgs o l (st.note cNoRoute) k)
    else (sendMsg x.1 o (.winn x.2)).seq
      (sendMsgs o l ((⟨st.refused, st.first, st.codes.drop 1⟩ : SendSt).note (st.codes.headD 0)) k)

/-- The result of sending. -/
def sendResult (phys : Nat) (st : SendSt) (rows value0 : Nat) (refusedRows : Nat) (poison bus : Bool)
    (consumed : Option Nat) : OpResult :=
  ⟨[], b2n poison + 2 * b2n (bus || decide (0 < st.refused)), rows, value0, refusedRows, st.first,
    [(fldKey WINN_WCNT phys 5, rows), (fldKey WINN_WCNT phys 7, st.refused)],
    2 ^ 20 * b2n (decide (0 < st.refused)), consumed⟩

/-! ### DISPATCH (R243, R244) -/

/-- K of a DISPATCH or COMBINE. -/
def wK (d : Desc) : Nat := bits (recLE d 52 1) 4 0
/-- SRC_ID. -/
def dpSrc (d : Desc) : Nat := bits (recLE d 54 2) 11 0
/-- ROWB. -/
def dpRowb (d : Desc) : Nat := bits (recLE d 68 4) 14 0
/-- E of the map. -/
def dpE (d : Desc) : Nat := bits (recLE d 76 2) 10 0
/-- T or E is 0. -/
def dpNop (d : Desc) : Bool := wT d == 0 || dpE d == 0

/-- Entry e of an expert map. -/
def emapEntry (map : List Byte) (e : Nat) : Nat := recLE map (8 * e) 8

/-- An expert map is invalid (R243). -/
def emapBad (map : List Byte) (n : Nat) : Bool :=
  (List.range n).any fun e =>
    let v := emapEntry map e
    v / 2 ^ 26 != 0 || decide (143 < bits v 21 14) || (List.range e).any fun q => emapEntry map q == v

/-- The failing checks of a DISPATCH body (R243); `map` is the expert map. -/
def dispatchErrs (d : Desc) (map : List Byte) : List ErrCode :=
  let badRow := fun (v : Nat) => decide (v < 64) || decide (16384 < v) || v % 64 != 0
  when (!clearAbove d 48 4 16 || !clearAbove d 52 1 4 || recLE d 53 1 != 0 || !clearAbove d 54 2 11 ||
    !clearAbove d 68 4 14 || !clearAbove d 76 2 10 || recLE d 79 1 != 0 || !zeroFrom d 88 ||
    [56, 60, 72, 80].any fun o => !galAddrOk d o) .rsvdSet ++
  when (decide (65536 < wT d) || decide (16 < wK d) || decide (1024 < dpE d)) .lenRange ++
  when (vAddr d 56 % 8 != 0 || vAddr d 60 % 64 != 0 || recLE d 64 4 % 64 != 0 || vAddr d 72 % 8 != 0 ||
    vAddr d 80 % 64 != 0) .addrAlign ++
  when (!dpNop d && ([bodySpan d 56 (8 * (wT d * wK d)), rowsSpan (vAddr d 60) (recLE d 64 4) (wT d) (dpRowb d),
    bodySpan d 72 (8 * dpE d), bodySpan d 80 (wT d * wK d * recLE d 84 4)].any pastGalley)) .lenOverRegion ++
  winErr (badRow (dpRowb d) || recLE d 84 4 % 64 != 0) 0x50 ++
  winErr (emapBad map (dpE d)) 0x51

/-- The choice table word of (t, r): its value and mark. -/
def choiceAt (s : State) (phys : Nat) (d : Desc) (t r : Nat) : Nat × Bool :=
  let o := vAddr d 56 + 8 * (t * wK d + r)
  (rdG s phys o 8, mkG s phys o 8)

/-- Rows a DISPATCH would send: token, rank, expert, slot; the token's row carries no mark. -/
def dpRows (s : State) (phys : Nat) (d : Desc) : List (Nat × Nat × Nat × Nat) :=
  (List.range (wT d)).flatMap fun t => (List.range (wK d)).filterMap fun r =>
    let c := choiceAt s phys d t r
    let st := bits c.1 15 13
    if !c.2 && (st == 1 || st == 3) && decide (bits c.1 9 0 < dpE d) then some (t, r, bits c.1 9 0, bits c.1 31 16)
    else none

/-- A token's row carries a mark. -/
def dpRowPoison (s : State) (phys : Nat) (d : Desc) (t : Nat) : Bool :=
  mkG s phys (vAddr d 60 + t * recLE d 64 4) (dpRowb d)

/-- What a DISPATCH reads. -/
def dispatchReads (s : State) (phys : Nat) (d : Desc) : List GRead :=
  (vAddr d 56, 8 * (wT d * wK d)) ::
    (dpRows s phys d).map fun x => (vAddr d 60 + x.1 * recLE d 64 4, dpRowb d)

/-- A DISPATCH is carried out: rows, then an END per expert; `map` is the expert map read at CHECK (R244). -/
def dispatchRun (phys seq : Nat) (d : Desc) (map : List Byte) (codes : List Nat) (k : OpResult → Act) : Act :=
  if dpNop d then k OpResult.none
  else look fun s =>
    let me := slotOf s phys
    let node := nodeId s
    let dst := fun e => (bits (emapEntry map e) 13 0, bits (emapEntry map e) 21 14, bits (emapEntry map e) 25 22)
    let all := dpRows s phys d
    let go := all.filter fun x => !dpRowPoison s phys d x.1
    let held := all.filter fun x => dpRowPoison s phys d x.1
    let rows := go.map fun x =>
      let t := dst x.2.2.1
      (t.1, (⟨t.2.1, 1, t.2.2, dpSrc d, x.2.2.2, node + me * 2 ^ 14 +
        (vAddr d 80 + (x.1 * wK d + x.2.1) * recLE d 84 4) * 2 ^ 24,
        readBytes s (.galley phys) (vAddr d 60 + x.1 * recLE d 64 4) (dpRowb d)⟩ : WinnMsg))
    let ends := (List.range (dpE d)).map fun e =>
      let t := dst e
      (t.1, (⟨t.2.1, 2, t.2.2, dpSrc d, countB (fun x => x.2.2.1 == e) go, node + me * 2 ^ 14 + recLE d 78 1 * 2 ^ 22,
        []⟩ : WinnMsg))
    let entryMark := firstMarked s phys [(vAddr d 56, 8 * (wT d * wK d))]
    acts [each (held.filter fun x => (dst x.2.2.1).1 != node) fun x =>
        refuseExport phys (galleyLocal s phys (vAddr d 60 + x.1 * recLE d 64 4)),
      sendMsgs (.op phys 2 seq) rows ⟨0, 0, codes⟩ fun a =>
        sendMsgs (.op phys 2 seq) ends a fun b =>
          k (sendResult phys b rows.length ends.length a.refused entryMark.isSome (!held.isEmpty) entryMark)]

/-! ### RETURN (R249) -/

/-- INBOX. -/
def rnInbox (d : Desc) : Nat := bits (recLE d 48 1) 3 0
/-- YROWB. -/
def rnRowb (d : Desc) : Nat := recLE d 60 4

/-- The failing checks of a RETURN body (R249). -/
def returnErrs (s : State) (phys : Nat) (d : Desc) : List ErrCode :=
  let i := rnInbox d
  when (!clearAbove d 48 1 3 || recLE d 49 3 != 0 || !galAddrOk d 52 || !zeroFrom d 64) .rsvdSet ++
  when (vAddr d 52 % 64 != 0 || recLE d 56 4 % 64 != 0) .addrAlign ++
  when (pastGalley (rowsSpan (vAddr d 52) (recLE d 56 4) (inRows s phys i) (rnRowb d))) .lenOverRegion ++
  winErr (decide (rnRowb d < 64) || decide (16384 < rnRowb d) || rnRowb d % 64 != 0) 0x50 ++
  winErr (fv s WINN_ISTATE phys i != inClosed) 0x53

/-- The galley offset of an inbox row's output. -/
def rnRowOff (d : Desc) (row : Nat) : Nat := vAddr d 52 + row * recLE d 56 4

/-- Filled rows of sender n. -/
def rnRows (s : State) (phys : Nat) (d : Desc) (n : Nat) : List Nat :=
  let cap := fv s WINN_ICAP phys (rnInbox d)
  (List.range (min (senderCount s phys (rnInbox d) n) cap)).map (n * cap + ·)

/-- What a RETURN reads. -/
def returnReads (s : State) (phys : Nat) (d : Desc) : List GRead :=
  let i := rnInbox d
  (fv s WINN_SRCT_ADDR phys i, 8 * fv s WINN_NSRC phys i) ::
    (List.range (fv s WINN_NSRC phys i)).flatMap fun n => (rnRows s phys d n).flatMap fun r =>
      [(fv s WINN_TAG_ADDR phys i + 8 * r, 8), (rnRowOff d r, rnRowb d)]

/-- Senders are answered in order: their rows, then one increment of RET_CNT (R249). -/
def returnSenders (phys seq : Nat) (d : Desc) : List Nat → SendSt → Nat → Bool → (SendSt → Nat → Bool → Act) → Act
  | [], st, sent, bus, k => k st sent bus
  | n :: l, st, sent, bus, k => look fun s =>
    let i := rnInbox d
    let rs := rnRows s phys d n
    let tagOff := fun r => fv s WINN_TAG_ADDR phys i + 8 * r
    let bad := fun r => mkG s phys (tagOff r) 8 || mkG s phys (rnRowOff d r) (rnRowb d)
    let go := rs.filter fun r => !bad r
    let msgs := go.map fun r =>
      let tag := rdG s phys (tagOff r) 8
      (bits tag 13 0, (⟨bits tag 21 14, 3, 0, 0, 0, bits tag 44 24 * 2 ^ 24,
        readBytes s (.galley phys) (rnRowOff d r) (rnRowb d)⟩ : WinnMsg))
    let rec_ := senderRec s phys i n
    acts [each (rs.filter fun r => bad r && bits (rdG s phys (tagOff r) 8) 13 0 != nodeId s) fun r =>
        refuseExport phys (galleyLocal s phys (rnRowOff d r)),
      sendMsgs (.op phys 2 seq) msgs st fun st' =>
        acts [sendTarget (slotOf s phys)
            (bits rec_ 29 22 + bits rec_ 21 14 * 2 ^ 8 + bits rec_ 13 0 * 2 ^ 16 + 2 ^ 30 + 2 ^ 32),
          returnSenders phys seq d l st' (sent + go.length) (bus || rs.any bad) k]]

/-- A RETURN is carried out, in the inbox it found CLOSED (R249). -/
def returnRun (phys seq : Nat) (d : Desc) (codes : List Nat) (k : OpResult → Act) : Act :=
  look fun s =>
    let i := rnInbox d
    if fv s WINN_ISTATE phys i != inClosed then k OpResult.none
    else
      let marked := firstMarked s phys
        [(fv s WINN_SRCT_ADDR phys i, 8 * fv s WINN_NSRC phys i), (fv s WINN_TAG_ADDR phys i, 8 * inRows s phys i)]
      acts [setF WINN_ISTATE inReturning phys i,
        updInbox phys i ⟨(inboxSt s phys i).ends, some seq⟩,
        returnSenders phys seq d (List.range (fv s WINN_NSRC phys i)) ⟨0, 0, codes⟩ 0 false fun st sent bus =>
          k (sendResult phys st sent 0 st.refused marked.isSome bus marked)]

/-- The RETURN of a SEQ completes: its inbox is OPEN for the next epoch, with counts and sender table cleared (R246,
R249). -/
def returnDone (phys seq : Nat) : Act :=
  look fun s => each (rangeF 16 fun i => (inboxSt s phys i).ret == some seq) fun i =>
    acts [memPut (.galley phys) (fv s WINN_SRCT_ADDR phys i) (List.replicate (8 * fv s WINN_NSRC phys i) 0),
      inReset phys i inOpen]

/-! ### COMBINE (R250) -/

/-- FMT_Y. -/
def cbFy (d : Desc) : Nat := bits (recLE d 53 1) 3 0
/-- FMT_Z. -/
def cbFz (d : Desc) : Nat := bits (recLE d 53 1) 7 4
/-- RES_EN. -/
def cbRes (d : Desc) : Bool := bit (recLE d 54 1) 0
/-- LEN. -/
def cbLen (d : Desc) : Nat := bits (recLE d 68 4) 16 0
/-- T, K or LEN is 0. -/
def cbNop (d : Desc) : Bool := wT d == 0 || wK d == 0 || cbLen d == 0
/-- Bytes of an element of Y and of Z. -/
def cbSy (d : Desc) : Nat := fmtBits (cbFy d) / 8
/-- Z's. -/
def cbSz (d : Desc) : Nat := fmtBits (cbFz d) / 8

/-- The failing checks of a COMBINE body (R250). -/
def combineErrs (d : Desc) : List ErrCode :=
  let okF := fun f => f == 0 || f == 2
  when (!clearAbove d 48 4 16 || !clearAbove d 52 1 4 || !clearAbove d 54 1 0 || recLE d 55 1 != 0 ||
    !clearAbove d 68 4 16 || !zeroFrom d 88 || ([56, 60, 80] ++ (if cbRes d then [72] else [])).any fun o => !galAddrOk d o)
    .rsvdSet ++
  when (!okF (cbFy d) || !okF (cbFz d)) .formatUnsupported ++
  when (decide (65536 < wT d) || decide (16 < wK d) || decide (65536 < cbLen d)) .lenRange ++
  when (vAddr d 56 % 8 != 0 || vAddr d 60 % 64 != 0 ||
    (okF (cbFz d) && (vAddr d 80 % cbSz d != 0 || recLE d 84 4 % cbSz d != 0)) ||
    (cbRes d && okF (cbFy d) && (vAddr d 72 % cbSy d != 0 || recLE d 76 4 % cbSy d != 0))) .addrAlign ++
  when (!cbNop d && ([bodySpan d 56 (8 * (wT d * wK d)), rowsSpan (vAddr d 60) (recLE d 64 4) (wT d * wK d) (cbLen d * cbSy d),
    rowsSpan (vAddr d 80) (recLE d 84 4) (wT d) (cbLen d * cbSz d)] ++
    (if cbRes d then [rowsSpan (vAddr d 72) (recLE d 76 4) (wT d) (cbLen d * cbSy d)] else [])).any pastGalley)
    .lenOverRegion ++
  winErr (recLE d 64 4 % 64 != 0 || decide (recLE d 64 4 < cbLen d * cbSy d)) 0x50

/-- Ranks of a token whose choice was accepted, with the gate's code; a marked entry is used as read. -/
def cbRanks (s : State) (phys : Nat) (d : Desc) (t : Nat) : List (Nat × Nat) :=
  (List.range (wK d)).filterMap fun r =>
    let v := (choiceAt s phys d t r).1
    if bits v 15 13 == 1 || bits v 15 13 == 3 then some (r, bits v 63 32) else none

/-- The bytes of element c of return row (t, r), and of the residual row. -/
def cbRetRead (d : Desc) (t r c : Nat) : GRead := (vAddr d 60 + (t * wK d + r) * recLE d 64 4 + c * cbSy d, cbSy d)
/-- The residual element. -/
def cbResRead (d : Desc) (t c : Nat) : GRead := (vAddr d 72 + t * recLE d 76 4 + c * cbSy d, cbSy d)

/-- One output element (R250). -/
def cbElem (s : State) (phys : Nat) (d : Desc) (t c : Nat) : Watched :=
  let rd := fun (g : GRead) => decodeFloat (cbFy d) (rdG s phys g.1 g.2)
  let ranks := cbRanks s phys d t
  let start := if cbRes d then rd (cbResRead d t c) else xZero true
  let acc := ranks.foldl (fun acc r => f32 (xAdd (xMul (decodeFloat 0 r.2) (rd (cbRetRead d t r.1 c))) acc)) start
  let acc := if ranks.isEmpty && !cbRes d then xZero false else acc
  let q := roundFloat (cbFz d) 0 0 acc
  ⟨q.code, q.cls, (cbRes d && readMarked s phys (cbResRead d t c)) ||
    ranks.any (fun r => readMarked s phys (cbRetRead d t r.1 c)) ||
    (List.range (wK d)).any fun r => (choiceAt s phys d t r).2⟩

/-- What a COMBINE reads. -/
def combineReads (s : State) (phys : Nat) (d : Desc) : List GRead :=
  (vAddr d 56, 8 * (wT d * wK d)) ::
  (List.range (wT d)).flatMap fun t => (List.range (cbLen d)).flatMap fun c =>
    (if cbRes d then [cbResRead d t c] else []) ++ (cbRanks s phys d t).map fun r => cbRetRead d t r.1 c

/-- What a COMBINE does (R250). -/
def combineResult (s : State) (phys : Nat) (d : Desc) : OpResult :=
  if cbNop d then OpResult.none
  else
    let rows := (List.range (wT d)).map fun t => (t, (List.range (cbLen d)).map (cbElem s phys d t))
    let ws := rows.flatMap (·.2)
    let lone := countB (fun t => (cbRanks s phys d t).isEmpty) (List.range (wT d))
    let nonfin := clsCount .nan ws + clsCount .inf ws
    let consumed := firstMarked s phys (combineReads s phys d)
    ⟨rows.map (fun r => ⟨.galley phys, vAddr d 80 + r.1 * recLE d 84 4, r.2.flatMap fun w => elemBytes (cbFz d) w.code,
        r.2.flatMap fun w => List.replicate (cbSz d) w.poison⟩),
      b2n (ws.any (·.poison) || consumed.isSome) + 4 * b2n (decide (0 < nonfin)),
      wT d, sat32 nonfin + 2 ^ 32 * lone, 0, 0, [(fldKey WINN_WCNT phys 4, lone)], 0, consumed⟩

/-- The failing checks of a Winnow body; `ctl` is the expert map a DISPATCH names. -/
def winnowErrs (s : State) (phys : Nat) (d : Desc) (ctl : List Byte) : List ErrCode :=
  match hOpcode d with
  | 1 => routeErrs d
  | 2 => dispatchErrs d ctl
  | 3 => returnErrs s phys d
  | 4 => combineErrs d
  | _ => [.fieldRange]

end Sys2Proof.Machine
end

