-- ==== Sys2Proof/Machine/Queue.lean ====
section
/-! DEFINITION. Descriptor queues: the check at the head (R79, R82, R84), firing (R83, R85), completion (R85, R92),
waiting limits (R86), queue control (R87 to R89), token increments (R90, R91). -/

namespace Sys2Proof.Machine

/-! ### The check at the head -/

/-- The TILE-page offset of a queue's Q_TAIL register. -/
def qTailOff (q : Nat) : Nat := 0x088 + 0x20 * q

/-- The watch control block or expert map a descriptor names: galley offset and bytes. The first is tested for marks
(R82). -/
def ctlRegion (q : Nat) (d : Desc) : Option (GRead × Bool) :=
  let r : Option (GRead × Bool) :=
    match q, hOpcode d with
    | 0, 1 => if mmWatch d then some ((galAddr d 112, 64), true) else none
    | 0, 2 => if cfWatch d then some ((galAddr d 84, 64), true) else none
    | 1, o => if vClass o != .reserved && vWatch d then some ((vAddr d 104, 64), true) else none
    | 2, 2 => some ((vAddr d 72, 8 * dpE d), false)
    | _, _ => none
  match r with
  | some x => if x.1.1 + x.1.2 ≤ Config.galleyBytes then some x else none
  | none => none

/-- The failing checks of a descriptor (R82): header, then body. -/
def descErrs (s : State) (phys q : Nat) (d : Desc) (ctl : List Byte) : List ErrCode :=
  headerErrs s phys q d ++
  (if hOpcode d = 0 then []
   else if q = 0 then
     (match hOpcode d with
      | 1 => matmulErrs s phys d ctl
      | 2 => covFlushErrs d ctl
      | _ => [.fieldRange])
   else if q = 1 then vectorErrs d ctl
   else if q = 2 then winnowErrs s phys d ctl
   else dmaErrs s d)

/-- A queue halts (R87). -/
def haltQueue (phys q reason : Nat) : Act :=
  acts [setF TILE_QSTATE qHalted phys q, setF TILE_QREASON reason phys q, raiseEvt (tilePg phys) (2 ^ 17)]

/-- Control words carry a mark: the descriptor is not decoded (R82, R329). -/
def haltPoisoned (phys q addr : Nat) : Act := acts [haltQueue phys q 3, consume (queuePage phys q) addr]

/-- The outcome of the check of an unmarked descriptor. -/
def checkOutcome (phys q : Nat) (d : Desc) (ctl : List Byte) : Act :=
  look fun s =>
    let e := firstErr (descErrs s phys q d ctl)
    if e ≠ .ok then acts [haltQueue phys q 1, recordReject (queuePage phys q) (qTailOff q) e]
    else acts [
      updQueue phys q fun x => { x with head := d, ctl := ctl, waitEdges := 0 },
      onlyIf (hGateEn d && reached s (hGate d)) (incF TILE_CNT_LATE_GATE 1 phys),
      onlyIf (q == 0 && hOpcode d == 1) (covBind phys d),
      onlyIf (q == 0 && hOpcode d == 2) (covFlushBind phys d),
      setF TILE_QSTATE qWaiting phys q]

/-- The descriptor at the head is checked, if there is one (R79, R82, R87). -/
def headCheck (phys q : Nat) : Act :=
  look fun s =>
    if fv s TILE_Q_HEAD phys q = fv s TILE_Q_TAIL phys q then setF TILE_QSTATE qEmpty phys q
    else acts [setF TILE_QSTATE qCheck phys q, touch (.galley phys) (headOff s phys q) 128,
      look fun t =>
        match firstMarked t phys [(headOff t phys q, 128)] with
        | some a => haltPoisoned phys q a
        | none =>
          let d := slotDesc t phys q
          match ctlRegion q d with
          | none => checkOutcome phys q d []
          | some c => acts [touch (.galley phys) c.1.1 c.1.2, look fun u =>
              match (if c.2 then firstMarked u phys [c.1] else none) with
              | some a => haltPoisoned phys q a
              | none => checkOutcome phys q d (readBytes u (.galley phys) c.1.1 c.1.2)]]

/-! ### Completion (R85, R92) -/

/-- The completion of an operation, in the order of R85: summary, targets, then Q_DONE. -/
def completeOne (phys q : Nat) (f : InFlight) (rest : List InFlight) : Act :=
  acts [
    updQueue phys q fun x => { x with inflight := rest },
    onlyIf f.summary (acts [updTile phys fun t => { t with summaries := t.summaries ++ [summaryRecord q f] },
      raiseEvt (tilePg phys) (2 ^ 19)]),
    look fun s => each f.dones (sendTarget (slotOf s phys)),
    onlyIf f.evt (raiseEvt (tilePg phys) (2 ^ 16)),
    onlyIf (decide (q < 3)) (each f.counts fun c => incKey (regKey (queuePage phys q).blk phys (c.1 % 4096)) c.2),
    raiseEvt (queuePage phys q) f.events,
    look fun s => setF TILE_Q_DONE ((fv s TILE_Q_DONE phys q + 1) % 65536) phys q,
    onlyIf (q == 2) (returnDone phys f.seq)]

/-- The summary FIFO has no room for a record (R92). -/
def summaryFull (s : State) (phys : Nat) : Bool := decide (64 ≤ (tileSt s phys).summaries.length)

/-- The oldest operations that complete at once do so (R85); one whose summary finds no room waits. -/
def completeAtOnce (phys q : Nat) : Nat → Act
  | 0 => .done
  | n + 1 => look fun s =>
    match (queueSt s phys q).inflight with
    | f :: rest =>
      if f.atOnce && !(f.summary && summaryFull s phys) then (completeOne phys q f rest).seq (completeAtOnce phys q n)
      else .done
    | [] => .done

/-- The oldest operation of a queue completes, if it may: a full summary FIFO holds it (R92), and a full window FIFO
its writes (R223). -/
def completeOldest (phys q : Nat) : Act :=
  look fun s =>
    match (queueSt s phys q).inflight with
    | [] => .done
    | f :: rest =>
      if writerHeld s (1 + 7 * phys + q) f.seq then .done
      else if f.summary && summaryFull s phys then incF TILE_CNT_SUM_STALL 1 phys
      else acts [completeOne phys q f rest, completeAtOnce phys q 4]

/-! ### Firing (R83) -/

/-- What fire takes from the counters: thresholds of consuming waits, then the credit. -/
def deduct (phys : Nat) (d : Desc) : Act :=
  acts [each ((hWaits d).filter (hWaitConsume d)) fun n => subToken phys (hWaitCnt d n) (hWaitThr d n),
    onlyIf (hCreditEn d) (subToken phys (hCreditCnt d) (hCreditAmt d))]

/-- What the galley lines an operation writes hold. -/
def outputNow (s : State) (l : List OpWrite) : List (Nat × List (Byte × Nat)) :=
  l.filterMap fun w => match w.mem with
    | .galley _ =>
      let k := muBase w.mem + w.off
      some (k, (mapRead memDefault s.mem k w.bytes.length).zip (mapRead synDefault s.syn k w.bytes.length))
    | _ => none

/-- A descriptor's operation is carried out: the queue's SEQ and its continuation on the result. -/
abbrev Engine := (d : Desc) → (ctl : List Byte) → (seq : Nat) → (OpResult → Act) → Act

/-- The head of a queue fires when it may and its opcode is the command's: tokens are taken, Q_HEAD advances, the engine
works, its writes land and its report is in flight; then the next descriptor is at the head (R83, R85, R87). -/
def fire (phys q opcode : Nat) (nop : Desc → Bool) (work : Engine) : Act :=
  look fun s =>
    let d := headDesc s phys q
    let seq := fv s TILE_Q_HEAD phys q
    if canFire s phys q && hOpcode d == opcode then
      acts [deduct phys d, setF TILE_Q_HEAD ((seq + 1) % 65536) phys q,
        work d (queueSt s phys q).ctl seq fun r =>
          look fun u => acts [commitWrites r.writes,
            (match r.consumed with | some a => consume (queuePage phys q) a | none => .done),
            updQueue phys q fun x => { x with
              inflight := x.inflight ++ [{ inFlightOf d seq r (nop d) with
                slots := if q = 0 then slotsNamed d else []
                undo := outputNow u r.writes }]
              head := []
              ctl := [] },
            completeAtOnce phys q 4,
            headCheck phys q]]
    else .done

/-- Without an effect beyond the header. -/
def nopEngine : Engine := fun _ _ _ k => k OpResult.none

/-- The matrix engine's product (R131) with its tandem covariance (R140). -/
def matmulEngine (phys : Nat) : Engine := fun d ctl _ k =>
  acts [touchAll phys fun _ => matCtrlReads d, touchAll phys fun s => matDataReads s phys d,
    look fun s => acts [covAccumulate phys d, k (matmulResult s phys d ctl)]]

/-- A flush of covariance slots (R142). -/
def covFlushEngine (phys : Nat) : Engine := fun d ctl _ k =>
  look fun s => acts [covFlushEnd phys d, k (covFlushResult s phys d ctl)]

/-- A vector operation (R149). -/
def vectorEngine (phys : Nat) : Engine := fun d ctl _ k =>
  acts [touchAll phys fun _ => vCtrlReads d, touchAll phys fun s => vDataReads s phys d ctl false,
    look fun s => k (vectorResult s phys d ctl)]

/-- ROUTE (R238 to R242). -/
def routeEngine (phys : Nat) : Engine := fun d _ _ k =>
  acts [touchAll phys fun s => routeReads s phys d, look fun s => k (routeResult s phys d)]

/-- DISPATCH (R244). -/
def dispatchEngine (phys : Nat) (codes : List Nat) : Engine := fun d map seq k =>
  acts [touchAll phys fun s => dispatchReads s phys d, dispatchRun phys seq d map codes k]

/-- RETURN (R249). -/
def returnEngine (phys : Nat) (codes : List Nat) : Engine := fun d _ seq k =>
  acts [touchAll phys fun s => returnReads s phys d, returnRun phys seq d codes k]

/-- COMBINE (R250). -/
def combineEngine (phys : Nat) : Engine := fun d _ _ k =>
  acts [touchAll phys fun s => combineReads s phys d, look fun s => k (combineResult s phys d)]

/-- A vector operation of a tile with an opcode. -/
def fireVector (tile opcode : Nat) : Act :=
  look fun s => fire (physOf s tile) 1 opcode vNop (vectorEngine (physOf s tile))

/-- A Winnow operation's targets on this device are held while a tile's state is copied or its unit is in quarantine
(R251, R435): the operation waits. -/
def winnowHeld (s : State) : Bool := s.units.subst.any (fun x => x.spare.isSome) || s.units.quar.any fun q =>
  match q.unit with | .tile _ => true | _ => false

/-- DMA moves wait for held storage (R100, R307). -/
def fireDma (tile q opcode : Nat) (ans : List RemoteAns) : Act :=
  look fun s =>
    let phys := physOf s tile
    if q < 3 || 6 < q || dmaHeld s (headDesc s phys q) then .done
    else fire phys q opcode dmNop fun d _ seq k => dmaRun phys q seq d ans k

/-! ### Queue control (R86 to R89) -/

/-- The ring's place fits galley memory. -/
def ringFits (cfg : Nat) : Bool := decide ((bits cfg 13 0 + 2 ^ bits cfg 19 16) * 128 ≤ Config.galleyBytes)

/-- Failing checks of a Q_CFG write (R88, R98). -/
def qCfgErrs (s : State) (phys q val : Nat) : List ErrCode :=
  let l := bits val 19 16
  when (fv s TILE_QSTATE phys q != qStopped) .stateBusy ++
  when (l == 0 || decide (8 < l)) .fieldRange ++
  when (decide (1 ≤ l ∧ l ≤ 8) && !ringFits val) .lenOverRegion

/-- Failing checks of a Q_TAIL write (R88). -/
def qTailErrs (s : State) (phys q val : Nat) : List ErrCode :=
  let h := fv s TILE_Q_HEAD phys q
  let dist := fun t => (t + 65536 - h) % 65536
  when (decide (dist val < dist (fv s TILE_Q_TAIL phys q))) .fieldRange ++
  when (decide (qSize s phys q < dist val)) .queueFull

/-- Q_TAIL advances; a queue that was EMPTY checks its head (R87). -/
def qTailSet (phys q val : Nat) : Act :=
  acts [setF TILE_Q_TAIL val phys q,
    look fun s => onlyIf (fv s TILE_QSTATE phys q == qEmpty) (headCheck phys q)]

/-- Failing checks of a Q_CTL write (R89). -/
def qCtlErrs (val : Nat) : List ErrCode := when (decide (1 < popcount 4 val)) .fieldRange

/-- START (R87). -/
def qStart (phys q : Nat) : Act :=
  look fun s => onlyIf (fv s TILE_QSTATE phys q == qStopped) (headCheck phys q)

/-- STOP (R87). -/
def qStop (phys q : Nat) : Act := acts [setF TILE_QSTATE qStopped phys q, setF TILE_QREASON 0 phys q]

/-- REARM (R87, R89). -/
def qRearm (phys q : Nat) : Act :=
  look fun s => onlyIf (fv s TILE_QSTATE phys q == qHalted) (acts [setF TILE_QREASON 0 phys q, headCheck phys q])

/-- SKIP (R87, R89). -/
def qSkip (phys q : Nat) : Act :=
  look fun s => onlyIf (fv s TILE_QSTATE phys q == qHalted) (acts [
    setF TILE_QREASON 0 phys q,
    setF TILE_Q_HEAD ((fv s TILE_Q_HEAD phys q + 1) % 65536) phys q,
    setF TILE_Q_DONE ((fv s TILE_Q_DONE phys q + 1) % 65536) phys q,
    onlyIf (q == 0) (covDropHeld phys),
    headCheck phys q])

/-- The effect of a Q_CTL write. -/
def qCtl (phys q val : Nat) : Act :=
  if bit val 0 then qStart phys q else if bit val 1 then qStop phys q
  else if bit val 2 then qRearm phys q else if bit val 3 then qSkip phys q else .done

/-- An impression edge is counted for each waiting head with a wait or credit unmet (R86). -/
def countWaitEdges : Act :=
  look fun s => each (s.tiles.map Prod.fst) fun p => each (List.range 7) fun q => look fun t =>
    let d := headDesc t p q
    onlyIf (fv t TILE_QSTATE p q == qWaiting && !(waitsMet t p d && creditMet t p d))
      (updQueue p q fun x => { x with waitEdges := x.waitEdges + 1 })

/-- The head's wait has lasted WAIT_LIMIT counted edges and does not fire (R86). -/
def waitExpire (phys q : Nat) : Act :=
  look fun s =>
    let n := fv s TILE_WAIT_LIMIT phys q
    onlyIf (fv s TILE_QSTATE phys q == qWaiting && n != 0 && decide (n ≤ (queueSt s phys q).waitEdges) &&
      !canFire s phys q) (haltQueue phys q 2)

/-- Increments of one source to one counter are applied in the order they were sent (R91). -/
def flightFirst (l : List Flight) (i : Nat) : Bool :=
  match l[i]? with
  | some f => (l.take i).all fun g => g.src != f.src || g.tile != f.tile || g.counter != f.counter
  | none => false

/-- A token increment arrives (R91). -/
def incArrive (x : IncSource) : Act :=
  match x with
  | .own i => look fun s =>
    match s.flights[i]? with
    | some f => onlyIf (flightFirst s.flights i)
        (acts [upd (.flights (s.flights.eraseIdx i)), deliverInc f.tile f.counter f.incr])
    | none => .done
  | .remote t c n => deliverInc t c n

/-! ### Commands -/

/-- DESCRIPTOR_NOP (R80). -/
def execDescriptorNop (tile queue : Nat) (s : State) : Host.Outcome State Fault Refusal :=
  .next ((onlyIf (decide (queue < 7)) (fire (physOf s tile) queue 0 (fun _ => true) nopEngine)).run s)

/-- DESCRIPTOR_COMPLETE (R85). -/
def execDescriptorComplete (tile queue : Nat) (s : State) : Host.Outcome State Fault Refusal :=
  .next ((completeOldest (physOf s tile) queue).run s)

/-- WAIT_EXPIRED (R86). -/
def execWaitExpired (tile queue : Nat) (s : State) : Host.Outcome State Fault Refusal :=
  .next ((waitExpire (physOf s tile) queue).run s)

/-- TOKEN_INCREMENT (R91). -/
def execTokenIncrement (inc : IncSource) (s : State) : Host.Outcome State Fault Refusal := .next ((incArrive inc).run s)

/-- COPY (R97). -/
def execDmaCopy (tile queue : Nat) (ans : List RemoteAns) (s : State) : Host.Outcome State Fault Refusal :=
  .next ((fireDma tile queue 1 ans).run s)

/-- FILL (R97). -/
def execDmaFill (tile queue : Nat) (ans : List RemoteAns) (s : State) : Host.Outcome State Fault Refusal :=
  .next ((fireDma tile queue 2 ans).run s)

/-- MATMUL (R131). -/
def execMatmul (tile : Nat) (s : State) : Host.Outcome State Fault Refusal :=
  .next ((fire (physOf s tile) 0 1 mmNop (matmulEngine (physOf s tile))).run s)

/-- COV_FLUSH (R142). -/
def execCovFlush (tile : Nat) (s : State) : Host.Outcome State Fault Refusal :=
  .next ((fire (physOf s tile) 0 2 (fun d => (cfSlots d).isEmpty) (covFlushEngine (physOf s tile))).run s)

/-- ROUTE (R236). -/
def execRoute (tile : Nat) (s : State) : Host.Outcome State Fault Refusal :=
  .next ((fire (physOf s tile) 2 1 rtNop (routeEngine (physOf s tile))).run s)

/-- DISPATCH (R244). -/
def execDispatch (tile : Nat) (codes : List Nat) (s : State) : Host.Outcome State Fault Refusal :=
  .next ((onlyIf (!winnowHeld s) (fire (physOf s tile) 2 2 dpNop (dispatchEngine (physOf s tile) codes))).run s)

/-- RETURN (R249). -/
def execReturnRows (tile : Nat) (codes : List Nat) (s : State) : Host.Outcome State Fault Refusal :=
  .next ((onlyIf (!winnowHeld s) (fire (physOf s tile) 2 3 (fun _ => false) (returnEngine (physOf s tile) codes))).run s)

/-- COMBINE (R250). -/
def execCombine (tile : Nat) (s : State) : Host.Outcome State Fault Refusal :=
  .next ((fire (physOf s tile) 2 4 cbNop (combineEngine (physOf s tile))).run s)

/-- ROW arrives from another device (R247). -/
def execRowMsg (node tile inbox src slot tag : Nat) (payload : List Byte) (s : State) : Host.Outcome State Fault Refusal :=
  .next ((winnArrive node ⟨tile, 1, inbox, src, slot, tag, payload⟩).run s)

/-- END arrives from another device (R247, R248). -/
def execEndRow (node tile inbox src count tag : Nat) (s : State) : Host.Outcome State Fault Refusal :=
  .next ((winnArrive node ⟨tile, 2, inbox, src, count, tag, []⟩).run s)

/-- RETURN_ROW arrives from another device (R247). -/
def execReturnRow (node tile tag : Nat) (payload : List Byte) (s : State) : Host.Outcome State Fault Refusal :=
  .next ((winnArrive node ⟨tile, 3, 0, 0, 0, tag, payload⟩).run s)

/-- MOV (R149, opcode 0x01). -/
def execMov (tile : Nat) (s : State) : Host.Outcome State Fault Refusal :=
  .next ((fireVector tile 0x01).run s)

/-- NEG (R149, opcode 0x02). -/
def execNeg (tile : Nat) (s : State) : Host.Outcome State Fault Refusal :=
  .next ((fireVector tile 0x02).run s)

/-- ABS (R149, opcode 0x03). -/
def execAbs (tile : Nat) (s : State) : Host.Outcome State Fault Refusal :=
  .next ((fireVector tile 0x03).run s)

/-- SQRT (R149, opcode 0x04). -/
def execSqrt (tile : Nat) (s : State) : Host.Outcome State Fault Refusal :=
  .next ((fireVector tile 0x04).run s)

/-- RSQRT (R149, opcode 0x05). -/
def execRsqrt (tile : Nat) (s : State) : Host.Outcome State Fault Refusal :=
  .next ((fireVector tile 0x05).run s)

/-- RECIP (R149, opcode 0x06). -/
def execRecip (tile : Nat) (s : State) : Host.Outcome State Fault Refusal :=
  .next ((fireVector tile 0x06).run s)

/-- EXP (R149, opcode 0x07). -/
def execExp (tile : Nat) (s : State) : Host.Outcome State Fault Refusal :=
  .next ((fireVector tile 0x07).run s)

/-- EXP2 (R149, opcode 0x08). -/
def execExp2 (tile : Nat) (s : State) : Host.Outcome State Fault Refusal :=
  .next ((fireVector tile 0x08).run s)

/-- LOG (R149, opcode 0x09). -/
def execLog (tile : Nat) (s : State) : Host.Outcome State Fault Refusal :=
  .next ((fireVector tile 0x09).run s)

/-- LOG2 (R149, opcode 0x0A). -/
def execLog2 (tile : Nat) (s : State) : Host.Outcome State Fault Refusal :=
  .next ((fireVector tile 0x0A).run s)

/-- TANH (R149, opcode 0x0B). -/
def execTanh (tile : Nat) (s : State) : Host.Outcome State Fault Refusal :=
  .next ((fireVector tile 0x0B).run s)

/-- SIGMOID (R149, opcode 0x0C). -/
def execSigmoid (tile : Nat) (s : State) : Host.Outcome State Fault Refusal :=
  .next ((fireVector tile 0x0C).run s)

/-- ADD (R149, opcode 0x10). -/
def execAdd (tile : Nat) (s : State) : Host.Outcome State Fault Refusal :=
  .next ((fireVector tile 0x10).run s)

/-- SUB (R149, opcode 0x11). -/
def execSub (tile : Nat) (s : State) : Host.Outcome State Fault Refusal :=
  .next ((fireVector tile 0x11).run s)

/-- MUL (R149, opcode 0x12). -/
def execMul (tile : Nat) (s : State) : Host.Outcome State Fault Refusal :=
  .next ((fireVector tile 0x12).run s)

/-- DIV (R149, opcode 0x13). -/
def execDiv (tile : Nat) (s : State) : Host.Outcome State Fault Refusal :=
  .next ((fireVector tile 0x13).run s)

/-- MAX (R149, opcode 0x14). -/
def execVMax (tile : Nat) (s : State) : Host.Outcome State Fault Refusal :=
  .next ((fireVector tile 0x14).run s)

/-- MIN (R149, opcode 0x15). -/
def execVMin (tile : Nat) (s : State) : Host.Outcome State Fault Refusal :=
  .next ((fireVector tile 0x15).run s)

/-- COPYSIGN (R149, opcode 0x16). -/
def execCopysign (tile : Nat) (s : State) : Host.Outcome State Fault Refusal :=
  .next ((fireVector tile 0x16).run s)

/-- CMP (R149, opcode 0x17). -/
def execCmp (tile : Nat) (s : State) : Host.Outcome State Fault Refusal :=
  .next ((fireVector tile 0x17).run s)

/-- FMA (R149, opcode 0x20). -/
def execFma (tile : Nat) (s : State) : Host.Outcome State Fault Refusal :=
  .next ((fireVector tile 0x20).run s)

/-- SEL (R149, opcode 0x21). -/
def execVSel (tile : Nat) (s : State) : Host.Outcome State Fault Refusal :=
  .next ((fireVector tile 0x21).run s)

/-- CVT (R149, opcode 0x30). -/
def execCvt (tile : Nat) (s : State) : Host.Outcome State Fault Refusal :=
  .next ((fireVector tile 0x30).run s)

/-- RSUM (R149, opcode 0x40). -/
def execRsum (tile : Nat) (s : State) : Host.Outcome State Fault Refusal :=
  .next ((fireVector tile 0x40).run s)

/-- RPROD (R149, opcode 0x41). -/
def execRprod (tile : Nat) (s : State) : Host.Outcome State Fault Refusal :=
  .next ((fireVector tile 0x41).run s)

/-- RMAX (R149, opcode 0x42). -/
def execRmax (tile : Nat) (s : State) : Host.Outcome State Fault Refusal :=
  .next ((fireVector tile 0x42).run s)

/-- RMIN (R149, opcode 0x43). -/
def execRmin (tile : Nat) (s : State) : Host.Outcome State Fault Refusal :=
  .next ((fireVector tile 0x43).run s)

/-- AMAX (R149, opcode 0x44). -/
def execAmax (tile : Nat) (s : State) : Host.Outcome State Fault Refusal :=
  .next ((fireVector tile 0x44).run s)

/-- RARGMAX (R149, opcode 0x45). -/
def execRargmax (tile : Nat) (s : State) : Host.Outcome State Fault Refusal :=
  .next ((fireVector tile 0x45).run s)

/-- RARGMIN (R149, opcode 0x46). -/
def execRargmin (tile : Nat) (s : State) : Host.Outcome State Fault Refusal :=
  .next ((fireVector tile 0x46).run s)

/-- RCOUNT (R149, opcode 0x47). -/
def execRcount (tile : Nat) (s : State) : Host.Outcome State Fault Refusal :=
  .next ((fireVector tile 0x47).run s)

/-- RMEAN (R149, opcode 0x48). -/
def execRmean (tile : Nat) (s : State) : Host.Outcome State Fault Refusal :=
  .next ((fireVector tile 0x48).run s)

/-- SOFTMAX (R149, opcode 0x50). -/
def execSoftmax (tile : Nat) (s : State) : Host.Outcome State Fault Refusal :=
  .next ((fireVector tile 0x50).run s)

end Sys2Proof.Machine
end

