-- ==== Sys2Proof/Machine/Spare.lean ====
section
/-! DEFINITION. Spare substitution (R100): the copy of a retired tile's state to a spare; the soft-reset state of a tile
and of its galley memory (R99). -/

namespace Sys2Proof.Machine

/-- A register returns to its reset value. -/
def resetKey (k : Nat) : Act := upd (.reg k (regReset k))

/-- Queue registers of the TILE page, token counters, CORE_CTL with CORE_CAUSE and CORE_EPC. -/
def tileCopyOffs : List Nat :=
  [0x044, 0x048, 0x04C] ++
    (List.range 7).flatMap (fun q => (List.range 5).map fun i => 0x080 + 0x20 * q + 4 * i) ++
    (List.range 256).map (0x400 + 4 * ·)

/-- The TILE soft-reset state of a physical tile (R99): queues STOPPED, counters clear, summaries gone, core stopped. -/
def tileFresh (p : Nat) : Act :=
  acts [each tileCopyOffs fun o => resetKey (regKey .tile p o),
    updTile p fun t => { Tile.init with cov := t.cov, inbox := t.inbox }]

/-- Every galley line of a physical tile becomes unwritten, under no region (R96, R99). -/
def galleyFresh (p : Nat) : Act :=
  acts [each (List.range 8) fun r => resetKey (regKey .galy p (0x040 + 4 * r)), unwrite (.galley p) 0 Config.galleyBytes]

/-- Entries of a sparse map within a range. -/
def entriesIn {α : Type} (m : SMap α) (k n : Nat) : SMap α := m.filter fun e => decide (k ≤ e.1) && decide (e.1 < k + n)

/-- A memory's contents, marks and written storage are copied to another of the same kind. -/
def copyMem (a b : MemUnit) : Act :=
  look fun s =>
    let n := muSize a
    let x := muBase a
    let y := muBase b
    acts [upd (.memClear y n), upd (.synClear y n), upd (.writtenClear y n), upd (.writtenClear (2 ^ 60 + y) n),
      each (entriesIn s.mem x n) fun e => upd (.mem (e.1 - x + y) [e.2]),
      each (entriesIn s.syn x n) fun e => upd (.syn (e.1 - x + y) [e.2]),
      each (entriesIn s.written x n) fun e => upd (.written (e.1 - x + y) [e.2]),
      each (entriesIn s.written (2 ^ 60 + x) n) fun e => upd (.written (e.1 - x + y) [e.2])]

/-- Words of a memory whose check finds something are corrected or marked as a read does (R100: bytes that fail their
check arrive with marks). -/
def settleMem (u : MemUnit) : Act :=
  look fun s => each (((entriesIn s.syn (muBase u) (muSize u)).map fun e => (e.1 - muBase u) / 8 * 8).eraseDups) fun w => touchWord u w

/-- The state a substitute receives (R100 step 2). -/
def copyTile (p q : Nat) : Act :=
  acts [
    each [MemUnit.galley p, .imem p, .dmem p] settleMem,
    copyMem (.galley p) (.galley q), copyMem (.imem p) (.imem q), copyMem (.dmem p) (.dmem q),
    look fun s => acts [
      each tileCopyOffs fun o => setKey (regKey .tile q o) (rdKey s (regKey .tile p o)),
      each (List.range 8) fun r => setKey (regKey .galy q (0x040 + 4 * r)) (rdKey s (regKey .galy p (0x040 + 4 * r))),
      each (List.range 256) fun r => setKey (regKey .winn q (0x100 + 4 * r)) (rdKey s (regKey .winn p (0x100 + 4 * r))),
      updTile q fun _ => { tileSt s p with cov := Tile.init.cov }]]

/-- Every covariance slot of a substitute is unbound and empty (R145). -/
def slotsLost (q : Nat) : Act := acts [each (List.range 8) (covEmpty q), raiseEvt ⟨.cova, q⟩ (2 ^ 16)]

/-- The physical tiles behind two slots change places (R37). -/
def swapSlots (a b : Nat) : Act :=
  look fun s =>
    let m := mapSet slotHome s.units.backing a (physOf s b)
    updUnits fun u => { u with backing := mapSet slotHome m b (physOf s a) }

/-- At a boundary after a retirement a spare takes the tile's place: with its state once the issued descriptors have
completed, or without it when they have not by the next edge or the state cannot be read (R100). -/
def substitute (tile : Nat) (readable : Bool) : Act :=
  look fun s =>
    match s.units.subst.find? fun x => x.tile == tile with
    | none => .done
    | some x =>
      let idle := (tileSt s x.old).queues.all fun q => q.inflight.isEmpty
      let lost := !readable || !idle
      match (spareSlots s (dieOfTile tile)).head? with
      | none => .done
      | some slot =>
        if x.spare.isSome || x.edges = 0 || (readable && !idle && x.edges < 2) then .done
        else
          let q := physOf s slot
          acts [
            if lost then acts [tileFresh q, galleyFresh q] else copyTile x.old q,
            slotsLost q,
            swapSlots tile slot,
            updUnits fun u =>
              let l := u.subst.map fun y => if y.tile == tile then { y with spare := some q, lost := lost } else y
              { u with subst := l }]

/-- SPARE_SUBSTITUTION (R100). -/
def execSpareSubstitution (tile : Nat) (readable : Bool) (s : State) : Host.Outcome State Fault Refusal :=
  .next ((substitute tile readable).run s)

end Sys2Proof.Machine
end

