-- ==== Sys2Proof/Machine/Ue.lean ====
section
/-! DEFINITION. The Update Engine's pipeline (R278 to R290): jobs, the chunks and vectors of an update, the update
instructions, weights and averages, late updates from flash, and the end of an update. -/

namespace Sys2Proof.Machine

/-! ### Weights and remainders (R184, R185) -/

/-- ulp(v) of a BF16 code, as a power of two (R184). -/
def ulp16 (c : Nat) : Int := (max 1 (bits c 14 7) : Nat) - 134

/-- The remainder term g × ulp(w) / 256 (R184). -/
def gleanTerm (w g : Nat) : XR :=
  let i := toInt 8 g
  .fin (decide (i < 0)) i.natAbs 1 (ulp16 w - 8)

/-- A weight's new code and glean, and whether the glean was clamped (R184, R185). -/
def gleanUpdate (w g d u : Nat) : Nat × Nat × Bool :=
  let t := v32 (rne32 (xAdd (xAdd (decodeFloat 2 w) (v32 d)) (gleanTerm w g)))
  let n := roundFloat 2 0 0 t
  if xIsZero t || !xIsFin t || !xIsFin (decodeFloat 2 n.code) then (n.code, 0, false)
  else
    let q := match xSub t (decodeFloat 2 n.code) with
      | .fin s a b e => XR.fin s a b (e + 8 - ulp16 n.code)
      | x => x
    let i := toInt 32 (roundInt 32 2 u q).code
    (n.code, ofInt 8 (max (-128) (min 127 i)), decide (127 < i))

/-- A value without glean: rne32(w + Δ), rounded stochastically to BF16 (R185). -/
def srUpdate (w d u : Nat) : Nat := (roundFloat 2 2 u (v32 (rne32 (xAdd (decodeFloat 2 w) (v32 d))))).code

/-! ### Streams (R281) -/

/-- The run's first element of its chunk. -/
def UeRun.chunkBase (r : UeRun) : Nat := r.chunk * 524288

/-- The bank an average is read from: the frozen one for a chunk that awaits copy-on-write (R281, R298). -/
def avgReadBank (s : State) (r : UeRun) : Nat :=
  if bit (digFlags s r.rec_ r.chunk) 3 then 1 - pgBank r.rec_ else pgBank r.rec_

/-- The address of a state slot of the run's vector, and the bytes of its element. -/
def slotPlace (s : State) (site : Nat) (r : UeRun) (k : Nat) : Nat × Nat :=
  let n := pgMSize r.rec_ k
  if pgFlash r.rec_ then (ldStage s site (r.entry.getD 0) k + n * (r.elem - r.chunkBase), n)
  else (pgA r.rec_ (64 + 8 * k) + n * r.elem, n)

/-- Where a stream's 64 elements of the run's vector lie: address and bytes of an element, lane by lane. WG reads the
weights; its gleans are read besides. -/
def streamPlace (s : State) (site : Nat) (r : UeRun) (code lane : Nat) : Nat × Nat :=
  let g := r.rec_
  let i := r.elem + lane
  if code = 0 then
    (if pgFlash g then ldSum s site (r.entry.getD 0) + 4 * (i - r.chunkBase) else pgA g 48 + 4 * i, 4)
  else if code = 4 then (pgBankAddr g (avgReadBank s r) + 2 * i, 2)
  else if code = 5 then (pgA g 56 + 4 * i, 4)
  else if 6 ≤ code ∧ code ≤ 9 then
    let p := slotPlace s site r (code - 6)
    (p.1 + p.2 * lane, p.2)
  else if code = 10 then
    let c := cvRec s site (pgCGroup g)
    let f := pgPvFactor g
    let o := (pgPvOfs g + i) * cvE c
    let b := o / cvBB c f
    (cvSlotAddr c f b (r.pvSlots.getD b 0) + o % cvBB c f, cvE c)
  else (pgA g 32 + 2 * i, 2)

/-- An element in HBM: its code and its mark. -/
def hbmElem (s : State) (p : Nat × Nat) : Nat × Bool :=
  (hbmLE s p.1 p.2, markedAt s (.hbm (p.1 / 2 ^ 36)) (hbmOff p.1))

/-- The glean of a lane's weight. -/
def gleanPlace (r : UeRun) (lane : Nat) : Nat × Nat := (pgA r.rec_ 40 + r.elem + lane, 1)

/-- The glean of a lane's average. -/
def avgGleanPlace (s : State) (r : UeRun) (lane : Nat) : Nat × Nat :=
  (pgBankGlean r.rec_ (avgReadBank s r) + r.elem + lane, 1)

/-- A BF16 element widened to FP32. -/
def widen (size c : Nat) : Nat := if size = 2 then c * 65536 else c

/-- The value of a stream element (R281). -/
def streamElem (s : State) (site : Nat) (r : UeRun) (code lane : Nat) : Nat × Bool :=
  if code = 3 then
    let w := r.wn.getD lane (0, false)
    (widen 2 w.1, w.2)
  else
    let p := streamPlace s site r code lane
    let x := hbmElem s p
    if code = 2 && pgGlean r.rec_ then
      let g := hbmElem s (gleanPlace r lane)
      (rne32 (xAdd (decodeFloat 2 x.1) (gleanTerm x.1 g.1)), x.2 || g.2)
    else (widen p.2 x.1, x.2)

/-- A read of HBM elements by the run: correction and accounting, and the update's one consumption event (R330). -/
def ueTouch (site : Nat) (ps : List (Nat × Nat)) : Act :=
  acts [each ps fun p => touchLocal p.1 p.2,
    look fun s => match (ueSt s site).run with
      | some r => match ps.find? fun p => (hbmElem s p).2 with
        | some p => onlyIf (!r.consumed) (acts [consume (updtPg site) p.1,
            updUe site fun u => { u with run := some { r with consumed := true } }])
        | none => .done
      | none => .done]

/-- What an instruction reads from memory. -/
def ueReads (s : State) (site : Nat) (r : UeRun) (w : Nat) : List (Nat × Nat) :=
  let lanes := List.range 64
  let glean := if pgGlean r.rec_ then lanes.map (gleanPlace r) else []
  if uOp w = 0x01 then
    (if uSub w = 3 then [] else lanes.map (streamPlace s site r (uSub w))) ++ (if uSub w = 2 then glean else [])
  else if uOp w = 0x11 then lanes.map (streamPlace s site r 1) ++ glean
  else if uOp w = 0x12 ∧ r.step % pgAvgEvery r.rec_ = 0 then
    lanes.map (streamPlace s site r 4) ++ (if pgAvgGlean r.rec_ then lanes.map (avgGleanPlace s r) else [])
  else []

/-! ### Instructions (R283 to R287) -/

/-- Register v of a lane. -/
def ueReg (r : UeRun) (v lane : Nat) : Nat × Bool := (r.regs.getD v []).getD lane (0, false)

/-- Scalar k of the record, with its mark. -/
def ueScalar (r : UeRun) (k : Nat) : Nat × Bool := (recLE r.rec_ (160 + 4 * k) 4, r.scalarMarks.getD k false)

/-- What an instruction that writes a register computes in a lane: code and mark (R283, R285). -/
def ueLane (s : State) (site : Nat) (r : UeRun) (w lane : Nat) : Nat × Bool :=
  let a := ueReg r (uVa w) lane
  let b := if uBs w then ueScalar r (uVb w) else ueReg r (uVb w) lane
  let c := if uCs w then ueScalar r (uVc w) else ueReg r (uVc w) lane
  let x := v32 a.1
  let y := v32 b.1
  let z := v32 c.1
  let ab := a.2 || b.2
  match uOp w with
  | 0x01 => streamElem s site r (uSub w) lane
  | 0x03 => b
  | 0x04 => (rne32 (xAdd x y), ab)
  | 0x05 => (rne32 (xSub x y), ab)
  | 0x06 => (rne32 (xMul x y), ab)
  | 0x07 => (rne32 (xDiv x y), ab)
  | 0x08 => (rne32 (xAdd (xMul x y) z), ab || c.2)
  | 0x09 => (rne32 (xMax x y), ab)
  | 0x0A => (rne32 (xMin x y), ab)
  | 0x0B => (rne32 (xSqrt x), a.2)
  | 0x0C => (rne32 (xRsqrt x), a.2)
  | 0x0D => (a.1 % 2 ^ 31, a.2)
  | 0x0E => (a.1 ^^^ 2 ^ 31, a.2)
  | 0x0F => (if vPredHolds (uSub w) x y then 0x3F80_0000 else 0, ab)
  | _ => if xIsZero z then (b.1, b.2 || c.2) else (a.1, a.2 || c.2)

/-- WUPD in a lane: weight, glean, clamp, and whether the results are marked (R286). -/
def wupdLane (s : State) (site : Nat) (r : UeRun) (va lane : Nat) : (Nat × Nat × Bool) × Bool :=
  let d := ueReg r va lane
  let w := hbmElem s (streamPlace s site r 1 lane)
  let idx := (pgGidx r.rec_ + r.elem + lane) % 2 ^ 64
  let seed := fv s CONF_JOB_SEED
  if pgGlean r.rec_ then
    let g := hbmElem s (gleanPlace r lane)
    (gleanUpdate w.1 g.1 d.1 (philox seed idx r.step 1), d.2 || w.2 || g.2)
  else ((srUpdate w.1 d.1 (philox seed idx r.step 0), 0, false), d.2 || w.2)

/-- AVG in a lane on an average step (R287). -/
def avgLane (s : State) (site : Nat) (r : UeRun) (va lane : Nat) : (Nat × Nat × Bool) × Bool :=
  let d := ueReg r va lane
  let w := hbmElem s (streamPlace s site r 4 lane)
  let u := philox (fv s CONF_JOB_SEED) ((pgGidx r.rec_ + r.elem + lane) % 2 ^ 64) (pgAvgCount r.rec_ + 1) 2
  if pgAvgGlean r.rec_ then
    let g := hbmElem s (avgGleanPlace s r lane)
    (gleanUpdate w.1 g.1 d.1 u, d.2 || w.2 || g.2)
  else ((srUpdate w.1 d.1 u, 0, false), d.2 || w.2)

/-- The effect of one instruction on the run's vector (R283). -/
def ueStep (s : State) (site : Nat) (r : UeRun) (w : Nat) : UeRun :=
  let lanes := List.range 64
  let out := fun (a n : Nat) (vs : List (Nat × Bool)) => (a, n, vs)
  match uOp w with
  | 0x02 =>
    let k := uSub w - 6
    let p := slotPlace s site r k
    let f := if p.2 = 2 then 2 else 0
    { r with outs := r.outs ++ [out p.1 p.2 (lanes.map fun i =>
        ((roundFloat f 0 0 (v32 (ueReg r (uVa w) i).1)).code, (ueReg r (uVa w) i).2))] }
  | 0x11 =>
    let xs := lanes.map (wupdLane s site r (uVa w))
    { r with
      wn := xs.map fun x => (x.1.1, x.2)
      outs := r.outs ++ [out (pgA r.rec_ 32 + 2 * r.elem) 2 (xs.map fun x => (x.1.1, x.2))] ++
        (if pgGlean r.rec_ then [out (pgA r.rec_ 40 + r.elem) 1 (xs.map fun x => (x.1.2.1, x.2))] else [])
      chunkMarked := r.chunkMarked || xs.any Prod.snd
      nonfin := r.nonfin + countB (fun x => !xIsFin (decodeFloat 2 x.1.1)) xs
      clamps := r.clamps + countB (fun x => x.1.2.2) xs }
  | 0x12 =>
    if r.step % pgAvgEvery r.rec_ ≠ 0 then r
    else
      let xs := lanes.map (avgLane s site r (uVa w))
      { r with
        outs := r.outs ++ [out (pgBankAddr r.rec_ (pgBank r.rec_) + 2 * r.elem) 2 (xs.map fun x => (x.1.1, x.2))] ++
          (if pgAvgGlean r.rec_ then
            [out (pgBankGlean r.rec_ (pgBank r.rec_) + r.elem) 1 (xs.map fun x => (x.1.2.1, x.2))] else [])
        averaged := true
        chunkMarked := r.chunkMarked || xs.any Prod.snd
        clamps := r.clamps + countB (fun x => x.1.2.2) xs }
  | _ => { r with regs := r.regs.set (uVd w) (lanes.map (ueLane s site r w)) }

/-! ### Chunks and the ledger (R279, R288 to R290) -/

/-- Registers of a vector that enters. -/
def ueRegs0 : List (List (Nat × Bool)) := List.replicate 32 []

/-- The running update changes. -/
def setRun (site : Nat) (r : UeRun) : Act := updUe site fun u => { u with run := some r }

/-- The run takes a chunk's first vector. -/
def ueEnter (site : Nat) (r : UeRun) (entry : Option Nat) : Act :=
  setRun site { r with phase := .vector, elem := r.chunkBase, pc := 0, regs := ueRegs0, wn := [], outs := [],
                       averaged := false, entry := entry, chunkMarked := false }

/-- FP32 gradients of a chunk with their marks. -/
def chunkGrad (s : State) (r : UeRun) : List (Nat × Bool) :=
  hbmWords s (pgA r.rec_ 48 + 4 * r.chunkBase) (chunkElems r.rec_ r.chunk)

/-- A chunk's gradient is read for the ledger, with the update's consumption event. -/
def touchGrad (site : Nat) (r : UeRun) : Act :=
  ueTouch site ((List.range (chunkElems r.rec_ r.chunk)).map fun k => (pgA r.rec_ 48 + 4 * (r.chunkBase + k), 4))

/-- Action 2 of R289 into an entry that is PENDING: the gradient is summed in. -/
def ledgerAdd (site e : Nat) (r : UeRun) : Act :=
  acts [touchGrad site r, look fun s => touchLocal (ldSum s site e) (4 * chunkElems r.rec_ r.chunk),
    look fun s =>
      let g := chunkGrad s r
      let old := hbmWords s (ldSum s site e) g.length
      acts [putWords (ldSum s site e) ((old.zip g).map fun x => (rne32 (xAdd (v32 x.1.1) (v32 x.2.1)), x.1.2 || x.2.2)),
        hbmPut (ldHead s site e + 16) (leBytes 4 (satAdd 32 (hbmLE s (ldHead s site e + 16) 4) 1))]]

/-- Action 2 of R289 into a FREE entry: it is opened for the chunk, its state still to be read from flash. -/
def ledgerOpen (site e : Nat) (r : UeRun) : Act :=
  acts [touchGrad site r, look fun s => acts [
    putWords (ldSum s site e) (chunkGrad s r),
    hbmPut (ldHead s site e) (leBytes 1 1 ++ leBytes 1 0 ++ leBytes 2 r.group ++ leBytes 2 r.chunk ++ leBytes 2 0 ++
      leBytes 6 r.step ++ leBytes 2 0 ++ leBytes 4 1 ++ leBytes 44 0),
    ldCount site]]

/-- The running update, if any, and what it does next. -/
def withRun (site : Nat) (k : State → UeRun → Act) : Act :=
  look fun s => match (ueSt s site).run with
    | some r => k s r
    | none => .done

/-- Action 2 of R289 on the run's chunk; the continuation follows where it found an entry. -/
def ledgerPut (site : Nat) (k : Act) : Act :=
  withRun site fun s r =>
    match ldFind s site r.group r.chunk 1 with
    | some e => acts [ledgerAdd site e r, k]
    | none => match (ldEntries s site).find? fun e => ldState s site e == 0 with
      | some e => acts [ledgerOpen site e r, k]
      | none => acts [setRun site { r with phase := .ledger },
          onlyIf (r.phase != .ledger) (raiseEvt (updtPg site) (2 ^ 17))]

/-- The run's chunk is done; the next one is visited. -/
def ueVisit (site : Nat) : Nat → Act
  | 0 => .done
  | n + 1 => withRun site fun s r =>
    let next := acts [withRun site fun _ t => setRun site { t with chunk := t.chunk + 1, phase := .vector },
      ueVisit site n]
    if pgChunks r.rec_ ≤ r.chunk then setRun site { r with phase := .finished }
    else if !pgFlash r.rec_ then ueEnter site r none
    else match ldFind s site r.group r.chunk 1 with
      | some e =>
        if ldFirst s site e + pgDelay r.rec_ ≤ r.step then
          (if ldStaged s site e then acts [ldSet site e 2 true, ueEnter site r (some e)]
           else setRun site { r with phase := .staging })
        else ledgerPut site next
      | none => ledgerPut site next

/-- Visits of an update, and one more: fuel for `ueVisit`. -/
def ueFuel (r : UeRun) : Nat := pgChunks r.rec_ + 1

/-- A chunk's last weight is written: its digest entry (R279, R291), the copy-on-write bit (R298), and for a late update
the writeback and action 2 (R289). -/
def ueChunkEnd (site : Nat) (r : UeRun) : Act :=
  look fun s =>
    let g := r.rec_
    let a := pgA g 32 + 2 * r.chunkBase
    let cow := bit (digFlags s g r.chunk) 3 && !r.averaged
    acts [
      hbmPut (digAddr g r.chunk) (digBytes (crc64 (hbmBytesAt s a (2 * chunkElems g r.chunk))) r.step
        (4 * b2n r.chunkMarked + 8 * b2n cow) 0x3FFF 0),
      match r.entry with
      | none => acts [setRun site { r with chunk := r.chunk + 1 }, ueVisit site (ueFuel r)]
      | some e => acts [ldSet site e 3 true,
          setRun site { r with entry := none, phase := .staging },
          ledgerPut site (acts [withRun site fun _ t => setRun site { t with chunk := t.chunk + 1, phase := .vector },
            ueVisit site (ueFuel r)])]]

/-- The vector leaves the pipeline: what it writes is written; the next vector enters, or the chunk ends. -/
def ueVectorEnd (site : Nat) (r : UeRun) : Act :=
  acts [
    each r.outs fun o => writeLocal o.1 (o.2.2.flatMap fun v => (leBytes o.2.1 v.1).map fun b => (b, v.2)),
    if r.elem + 64 < r.chunkBase + chunkElems r.rec_ r.chunk then
      setRun site { r with elem := r.elem + 64, pc := 0, regs := ueRegs0, wn := [], outs := [] }
    else ueChunkEnd site { r with outs := [] }]

/-- The next instruction of the running update, if it is one of an opcode, on the vector in the pipeline. -/
def ueOp (site op : Nat) : Act :=
  withRun site fun s r =>
    let w := r.prog.getD r.pc 0
    if r.phase = .vector ∧ uOp w = op ∧ r.pc < r.prog.length then
      acts [ueTouch site (ueReads s site r w),
        withRun site fun t q =>
          let v := ueStep t site q w
          acts [
            onlyIf (decide (q.nonfin < v.nonfin)) (acts [incF UPDT_UCNT (v.nonfin - q.nonfin) site 2,
              raiseEvt (updtPg site) (2 ^ 16)]),
            onlyIf (decide (q.clamps < v.clamps)) (incF UPDT_UCNT (v.clamps - q.clamps) site 1),
            if r.pc + 1 < r.prog.length then setRun site { v with pc := r.pc + 1 } else ueVectorEnd site v]]
    else .done

/-! ### Jobs (R278) -/

/-- The installed slots of the view an update reads (R17, R279). -/
def pvSlotsOf (s : State) (site : Nat) (r : List Byte) : List Nat :=
  if pgPv r then
    let c := cvRec s site (pgCGroup r)
    (List.range (cvNB c (pgPvFactor r))).map fun i => (blockStAt s c (pgPvFactor r) i).slot
  else []

/-- The curvature record and block status that an update which reads a view goes by. -/
def updateControl (s : State) (site g : Nat) : List (Nat × Nat) :=
  let r := pgRec s site g
  if pgPv r && fb s UPDT_CURV_EN site && decide (pgCGroup r < fv s UPDT_CURV_COUNT site) then
    let c := cvRec s site (pgCGroup r)
    (cvAddr s site (pgCGroup r), 128) ::
      (List.range (min 64 (cvNB c (pgPvFactor r)))).map fun i => (cvStatusAddr c (pgPvFactor r) i, 640)
  else []

/-- An update starts, or its fault is recorded (R277). -/
def updateStart (site g : Nat) (d : Option (Nat × Nat)) : Act :=
  acts [look fun s => touchLocal (pgAddr s site g) 256,
    look fun s => each (updateControl s site g) fun x => touchLocal x.1 x.2,
    look fun s => let r := pgRec s site g
                  touch (.prog site) (4 * pgProgBase r) (4 * pgProgLen r),
    look fun s =>
      let r := pgRec s site g
      let e := firstErrAt (updateErrs s site r d)
      let eaten := ((pgAddr s site g, 256) :: updateControl s site g).any (fun x => localMarked s x.1 x.2) ||
        anyMarked s (.prog site) (4 * pgProgBase r) (4 * pgProgLen r)
      acts [onlyIf eaten (consume (updtPg site) (pgAddr s site g)),
       if e.1 ≠ .ok then updFault site g e.2 e.1
       else acts [
        setRun site ⟨g, r, pgProgram s site r, pgStep r + 1, .vector, 0, 0, 0, ueRegs0, [], [], false, none, false, eaten, 0,
          0, pvSlotsOf s site r, (List.range 16).map fun k => localMarked s (pgAddr s site g + 160 + 4 * k) 4⟩,
        withRun site fun _ x => ueVisit site (ueFuel x)]]]

/-- A fold starts, or its fault is recorded (R190, R193). -/
def foldStart (site g f : Nat) : Act :=
  acts [look fun s => readRecords (updtPg site) [(cvAddr s site g, 128)],
    look fun s =>
      let r := cvRec s site g
      let e := firstErrAt (cvErrs s site g r)
      if e.1 ≠ .ok then curvFault site g f e.2 e.1
      else updUe site fun u => { u with fold := some ⟨g, f, r, false⟩ }]

/-- A job's group is held by a reimposition (R384); folds are not. -/
def jobHeld (s : State) : UeJob → Bool
  | .update g _ => riHolds s g
  | .fold _ _ => false

/-- The pipeline is free. -/
def ueIdle (s : State) (site : Nat) : Bool := (ueSt s site).run.isNone && (ueSt s site).fold.isNone

/-- The pipeline takes its next job (R278), passing those that end in a fault. -/
def ueNext (site : Nat) : Nat → Act
  | 0 => .done
  | n + 1 => look fun s =>
    if !ueIdle s site || !ueInService s site || unitResting s (.ue site) then .done
    else match (ueSt s site).jobs.findIdx? fun j => !jobHeld s j with
      | none => .done
      | some i => acts [
          updUe site fun u => { u with jobs := u.jobs.eraseIdx i },
          (match (ueSt s site).jobs[i]? with
          | some (.update g d) => updateStart site g d
          | some (.fold g f) => foldStart site g f
          | none => .done),
          ueNext site n]

/-- The pipeline goes on if it is free. -/
def ueGo (site : Nat) : Act := look fun s => ueNext site ((ueSt s site).jobs.length + 1)

/-- A job arises (R278). -/
def ueEnqueue (site : Nat) (j : UeJob) : Act := acts [updUe site fun u => { u with jobs := u.jobs ++ [j] }, ueGo site]

/-! ### Snapshots (R298) -/

/-- A freeze takes effect (R298). -/
def freezeNow (site : Nat) : Act :=
  look fun s =>
    let g := fv s UPDT_SNAP_GROUP site
    let a := pgAddr s site g
    let r := pgRec s site g
    acts [
      hbmPut (a + 240) (leBytes 1 ((1 - pgBank r) + 2)),
      each (List.range (pgChunks r)) fun c => hbmPut (digAddr r c + 14) (leBytes 2 (digFlags s r c ||| 8)),
      setF UPDT_SNAP_STEP (pgStep r % 2 ^ 48 + pgAvgCount r % 65536 * 2 ^ 48) site,
      setF UPDT_SNAP_STATE 1 site,
      look fun t => updUe site fun u => { u with freeze := false, snap := some ⟨g, pgRec t site g, false⟩ }]

/-- The end of an update (R279, R289): STEP, AVG_COUNT, the summaries, DONE; then a freeze that waited and the next job. -/
def updateEnd (site : Nat) (r : UeRun) : Act :=
  look fun s =>
    let a := pgAddr s site r.group
    let avg := pgAvg r.rec_ && r.step % pgAvgEvery r.rec_ == 0
    acts [
      onlyIf (pgFlash r.rec_) (each (List.range (pgChunks r.rec_)) fun c =>
        hbmPut (digAddr r.rec_ c + 8) (leBytes 6 r.step)),
      hbmPut (a + 224) (leBytes 8 r.step),
      onlyIf avg (hbmPut (a + 232) (leBytes 8 (pgAvgCount r.rec_ + 1))),
      hbmPut (a + 244) (leBytes 4 (min r.nonfin (2 ^ 32 - 1))),
      hbmPut (a + 248) (leBytes 4 (min r.clamps (2 ^ 32 - 1))),
      incF UPDT_UCNT 1 site 0,
      sendTarget0 (srcOf (updtPg site)) (recLE r.rec_ 136 8),
      updUe site fun u => { u with run := none },
      look fun t => onlyIf ((ueSt t site).freeze && fv t UPDT_SNAP_GROUP site == r.group) (freezeNow site),
      ueGo site]

/-- UPDATE_DONE: every chunk of the running update has been processed. -/
def updateDone (site : Nat) : Act := withRun site fun _ r => onlyIf (decide (r.phase = .finished)) (updateEnd site r)

/-! ### Flash state (R289, R290) -/

/-- Bytes of the state of a ledger entry's chunk in flash and in its staging, slot by slot: flash address, staging
address, bytes. -/
def ldSlots (s : State) (site e : Nat) : List (Nat × Nat × Nat) :=
  let g := pgRec s site (ldGroup s site e)
  let c := ldChunk s site e
  ((List.range 4).filter fun k => pgMFmt g k != 0).map fun k =>
    (pgA g (64 + 8 * k) + pgMSize g k * (c * 524288), ldStage s site e k, pgMSize g k * chunkElems g c)

/-- An update that waited goes on. -/
def ueRetry (site : Nat) : Act :=
  withRun site fun s r => match r.phase with
    | .staging =>
      match r.entry, ldFind s site r.group r.chunk 1 with
      | none, some e => onlyIf (ldStaged s site e && decide (ldFirst s site e + pgDelay r.rec_ ≤ r.step))
          (acts [ldSet site e 2 true, ueEnter site r (some e)])
      | _, _ => .done
    | .ledger => ledgerPut site (acts [
        withRun site fun _ t => setRun site { t with chunk := t.chunk + 1, phase := .vector }, ueVisit site (ueFuel r)])
    | _ => .done

/-- LEDGER_STAGED: the flash read of an entry's state completes, unless a writeback of the same chunk has still to
retire (R290). `marks` says which of the words read are marked. -/
def ledgerStaged (site e : Nat) : Act :=
  look fun s =>
    if ldState s site e ≠ 1 || ldStaged s site e || fv s UPDT_LEDGER_COUNT site ≤ e ||
        (ldFind s site (ldGroup s site e) (ldChunk s site e) 3).isSome then .done
    else acts [
      each (ldSlots s site e) fun x => writeLocal x.2.1 ((List.range x.2.2).map fun i =>
        (rawByte s (flashKey (x.1 + i)), marks (classify false (synAt s (flashKey ((x.1 + i) / 8 * 8)))))),
      ldSet site e 1 true,
      ueRetry site]

/-- LEDGER_WRITEBACK_DONE: the flash controller has written an entry's state; the entry is FREE (R290). -/
def ledgerWritten (site e : Nat) : Act :=
  look fun s =>
    if ldState s site e ≠ 3 || fv s UPDT_LEDGER_COUNT site ≤ e then .done
    else acts [
      each (ldSlots s site e) fun x => acts [touchLocal x.2.1 x.2.2, look fun t =>
        onlyIf (flashWriteCode t x.1 x.2.2 == .ok) (flashPut x.1 (readLocal t x.2.1 x.2.2))],
      hbmPut (ldHead s site e) (leBytes 64 0), ldCount site, ueRetry site]

end Sys2Proof.Machine
end

