-- ==== Sys2Proof/Machine/Fetch.lean ====
section
/-! DEFINITION. Update Engine records and transfers: the command window (R293), verified fetches (R294, R295), VERIFIED
notes (R296), owner audits (R297), freezes (R298), and the soft reset (R301). -/

namespace Sys2Proof.Machine

/-! ### Records (R293) -/

/-- NCHUNK of a FETCH record. -/
def feN (r : List Byte) : Nat := bits (recLE r 2 2) 12 0
/-- FIRST. -/
def feFirst (r : List Byte) : Nat := bits (recLE r 4 2) 11 0
/-- STEP. -/
def feStep (r : List Byte) : Nat := recLE r 8 6
/-- SRC. -/
def feSrc (r : List Byte) : Nat := recLE r 16 8
/-- OWNER_W. -/
def feOwnerW (r : List Byte) : Nat := recLE r 24 8
/-- OWNER_DIG. -/
def feOwnerDig (r : List Byte) : Nat := recLE r 32 8
/-- DST. -/
def feDst (r : List Byte) : Nat := recLE r 40 6
/-- DONE. -/
def feDone (r : List Byte) : Nat := recLE r 48 8
/-- STS. -/
def feSts (r : List Byte) : Nat := recLE r 56 6
/-- EVT. -/
def feEvt (r : List Byte) : Bool := bit (recLE r 1 1) 0

/-- The failing checks of a RUN of a group (R293, R300). -/
def runErrs (s : State) (site g : Nat) : List ErrCode :=
  when (!fb s UPDT_PG_EN site || !enabled s (updtPg site) || level s < 2) .stateNotReady ++
  when (decide (fv s UPDT_PG_COUNT site ≤ g)) .fieldRange

/-- The failing checks of a FETCH record (R293). -/
def fetchErrs (s : State) (site : Nat) (r : List Byte) : List ErrCode :=
  let ga := fun o => bits (recLE r o 8) 49 48 != 0
  when (!enabled s (updtPg site) || level s < 2) .stateNotReady ++
  when ([feSrc r, feOwnerW r, feOwnerDig r, feDst r, feSts r].any inRegSpace) .permission ++
  when (feSrc r % 4096 != 0 || feDst r % 4096 != 0) .addrAlign ++
  when (decide (2 ≤ recLE r 1 1) || decide (2 ^ 13 ≤ recLE r 2 2) || decide (2 ^ 12 ≤ recLE r 4 2) || recLE r 14 2 != 0 ||
    ga 16 || ga 24 || ga 32 || recLE r 46 2 != 0 || recLE r 62 2 != 0) .rsvdSet ++
  when (feStep r == 0) .fieldRange ++
  (if feDone r = 0 then [] else targetErrs s (feDone r)) ++
  when (decide (4096 < feN r)) .lenRange ++
  when (feN r != 0 && !inSiteHbm site (feDst r) ((feFirst r + feN r) * 2 ^ 20)) .lenOverRegion ++
  when (decide (16 ≤ (ueSt s site).fetches.length)) .queueFull

/-- The failing checks of a record of the command window (R293). -/
def ueRecErrs (s : State) (site : Nat) (r : List Byte) : List ErrCode :=
  if recLE r 0 1 = 1 then fetchErrs s site r
  else if recLE r 0 1 = 2 then
    when (recLE r 1 1 != 0 || decide (2 ^ 10 ≤ recLE r 2 2) || !zeroBytes r 4 64) .rsvdSet ++ runErrs s site (recLE r 2 2)
  else [.fieldRange]

/-! ### Fetches (R294, R295) -/

/-- The severity of an outcome (R295). -/
def outcomeRank : Nat → Nat
  | 6 => 6 | 3 => 5 | 4 => 4 | 5 => 3 | 2 => 2 | 1 => 1 | _ => 0

/-- The end of a fetch: its record, DONE, and FETCH_DONE (R293, R295). -/
def fetchReport (site : Nat) (f : Fetch) (outcome : Nat) : Act :=
  look fun s => acts [
    onlyIf (feSts f.rec_ != 0) (putLocal (feSts f.rec_) (leBytes 1 outcome ++ leBytes 1 0 ++
      leBytes 2 (f.firstBad.getD 0xFFFF) ++ leBytes 4 f.verified ++ leBytes 4 f.refetches ++ leBytes 4 f.diverged ++
      leBytes 6 s.press.imp ++ leBytes 10 0)),
    sendTarget0 (srcOf (updtPg site)) (feDone f.rec_),
    onlyIf (feEvt f.rec_) (raiseEvt (updtPg site) (2 ^ 22))]

/-- Fetch i changes. -/
def setFetch (site i : Nat) (f : Fetch) : Act := updUe site fun u => { u with fetches := u.fetches.set i f }

/-- The digest entry of a fetch's chunk is read (step 1). -/
def askDigest (site : Nat) (f : Fetch) : Act :=
  look fun s => onlyIf (gaNode (feOwnerDig f.rec_) != nodeId s)
    (sendRead (gaNode (feOwnerDig f.rec_)) (.fetch site (feDst f.rec_)) (gaLocal (feOwnerDig f.rec_) + 32 * f.chunk) 32)

/-- Where the next read of a chunk goes: SRC twice, then the owner (steps 2 and 3). -/
def feFrom (f : Fetch) : Nat := (if f.reads < 2 then feSrc f.rec_ else feOwnerW f.rec_)

/-- A chunk is read (step 2). -/
def askChunk (site : Nat) (f : Fetch) : Act :=
  look fun s => onlyIf (gaNode (feFrom f) != nodeId s)
    (sendRead (gaNode (feFrom f)) (.fetch site (feDst f.rec_)) (gaLocal (feFrom f) + f.chunk * 2 ^ 20) (2 ^ 20))

/-- A reimposition holds a fetch (R384). -/
def fetchHeld (s : State) (r : List Byte) : Bool := riHoldsRange s (feDst r + feFirst r * 2 ^ 20) (feN r * 2 ^ 20)

/-- A chunk ends with an outcome. -/
def Fetch.note (f : Fetch) (o : Nat) : Fetch :=
  { f with
    firstBad := if o = 1 then f.firstBad else some (f.firstBad.getD f.chunk)
    worst := if outcomeRank f.worst < outcomeRank o then o else f.worst
    verified := f.verified + b2n (o == 1 || o == 2)
    diverged := f.diverged + b2n (o == 2) }

/-- A fetch ends: this chunk and every later one with an outcome. -/
def fetchStop (site i : Nat) (f : Fetch) (o : Nat) : Act :=
  acts [updUe site fun u => { u with fetches := u.fetches.eraseIdx i }, fetchReport site (f.note o) (f.note o).worst]

/-- A chunk ends with an outcome; the next one begins, or the fetch ends. -/
def fetchNext (site i : Nat) (f : Fetch) (o : Nat) : Act :=
  let g := f.note o
  acts [onlyIf (o == 1 || o == 2) (incF UPDT_UCNT 1 site 5),
    if f.chunk + 1 < feFirst f.rec_ + feN f.rec_ then
      let h := { g with chunk := f.chunk + 1, digest := none, reads := 0 }
      acts [setFetch site i h, askDigest site h]
    else fetchStop site i f o]

/-- A fetch starts (R293, R294). -/
def fetchStart (site : Nat) (r : List Byte) : Act :=
  look fun s =>
    let rel := recLE r 6 2
    let f : Fetch := ⟨r, feFirst r, none, 0, if rel = 0 then none else some (instant (s.press.imp + rel) 0), 0, 0, 0, none, 1⟩
    if feN r = 0 then fetchReport site f 7
    else acts [updUe site fun u => { u with fetches := u.fetches ++ [f] }, askDigest site f]

/-- An answer to a read: this device's own memory answers for itself; a node with no route answers NO_ROUTE. -/
def answerOf (s : State) (a n : Nat) (ans : RemoteAns) : RemoteAns :=
  if gaNode a = nodeId s then
    match rangeErrs s (gaLocal a) n with
    | [] =>
      let x := readLocal s (gaLocal a) n
      ⟨0, x.map Prod.fst, x.map Prod.snd⟩
    | e :: l => ⟨errNum (firstErr (e :: l)), [], []⟩
  else if !reachable s (gaNode a) then ⟨cNoRoute, [], []⟩ else ans

/-- A read whose answer may come from this device's own memory. -/
def withAnswer (a n : Nat) (ans : RemoteAns) (k : RemoteAns → Act) : Act :=
  acts [look fun s => onlyIf (gaNode a == nodeId s) (touchLocal (gaLocal a) n), look fun s => k (answerOf s a n ans)]

/-- FETCH_DIGEST_POLL: a digest entry has been read (step 1). -/
def fetchDigest (site i : Nat) (ans : RemoteAns) : Act :=
  look fun s => match (ueSt s site).fetches[i]? with
    | none => .done
    | some f =>
      if f.digest.isSome || fetchHeld s f.rec_ then .done
      else withAnswer (feOwnerDig f.rec_ + 32 * f.chunk) 32 ans fun a =>
        let st := recLE a.data 8 6
        if a.code ≠ 0 then fetchStop site i f 3
        else if st < feStep f.rec_ then askDigest site f
        else if feStep f.rec_ < st then fetchNext site i f 5
        else if bit (recLE a.data 14 2) 2 then fetchNext site i f 4
        else
          let g := { f with digest := some (recLE a.data 0 8) }
          acts [setFetch site i g, askChunk site g]

/-- The weight bytes of the chunk of a group of this device that begins at an address; 1 MiB where none does. -/
def ownChunkLen (s : State) (a : Nat) : Nat :=
  let site := a / 2 ^ 36
  ((List.range (fv s UPDT_PG_COUNT site)).findSome? fun g =>
    let r := pgRec s site g
    let o := a - pgA r 32
    if pgValid r ∧ pgA r 32 ≤ a ∧ o % 2 ^ 20 = 0 ∧ o / 2 ^ 20 < pgChunks r then some (2 * chunkElems r (o / 2 ^ 20))
    else none).getD (2 ^ 20)

/-- A VERIFIED note reaches the owner (R296): the digest entry takes the verifier when the note's STEP is the entry's. -/
def verifiedNote (dig step node addr : Nat) : Act :=
  look fun s =>
    let site := dig / 2 ^ 36
    let hit := (List.range (fv s UPDT_PG_COUNT site)).any fun g =>
      let r := pgRec s site g
      fb s UPDT_PG_EN site && pgValid r && decide (pgA r 128 ≤ dig) && decide (dig < pgA r 128 + 32 * pgChunks r) &&
        (dig - pgA r 128) % 32 == 0
    onlyIf (hit && hbmLE s (dig + 8) 6 == step) (hbmPut (dig + 16) (leBytes 2 node ++ leBytes 6 0 ++ leBytes 8 addr))

/-- A verified copy is announced to the owner (R294). -/
def tellOwner (f : Fetch) : Act :=
  look fun s =>
    let dig := gaLocal (feOwnerDig f.rec_) + 32 * f.chunk
    let dst := feDst f.rec_ + f.chunk * 2 ^ 20
    if gaNode (feOwnerW f.rec_) = nodeId s then verifiedNote dig (feStep f.rec_) (nodeId s) dst
    else sendMsg (gaNode (feOwnerW f.rec_)) .none (.verified dig (feStep f.rec_) (nodeId s) dst)

/-- A chunk's bytes are written to DST. -/
def fetchStore (f : Fetch) (a : RemoteAns) (poison : Bool) : Act :=
  look fun s =>
    let dst := feDst f.rec_ + f.chunk * 2 ^ 20
    onlyIf (!writeRefused s dst a.data.length)
      (writeLocal dst ((List.range a.data.length).map fun i => (a.data.getD i 0, poison || a.marks.getD i false)))

/-- FETCH_CHUNK_READ_DONE: a chunk has been read (steps 2 and 3). -/
def fetchChunk (site i : Nat) (ans : RemoteAns) : Act :=
  look fun s => match (ueSt s site).fetches[i]? with
    | none => .done
    | some f => match f.digest with
      | none => .done
      | some d =>
        if fetchHeld s f.rec_ then .done else
        let from_ := feFrom f + f.chunk * 2 ^ 20
        let n := if gaNode from_ = nodeId s then ownChunkLen s (gaLocal from_) else 2 ^ 20
        withAnswer from_ n ans fun a =>
          let ok := a.code == 0 && crc64 a.data == d
          if f.reads = 2 then
            if a.code ≠ 0 then fetchStop site i f 3
            else if ok then acts [fetchStore f a false, tellOwner f, fetchNext site i f 2]
            else acts [fetchStore f a true, fetchNext site i f 3]
          else acts [
            onlyIf (a.code == 0) (fetchStore f a false),
            if ok then acts [onlyIf (feSrc f.rec_ == feOwnerW f.rec_) (tellOwner f), fetchNext site i f 1]
            else if f.reads = 0 then
              let g := { f with reads := 1, refetches := f.refetches + 1 }
              acts [incF UPDT_UCNT 1 site 6, setFetch site i g, askChunk site g]
            else
              let g := { f with reads := 2 }
              acts [incF UPDT_UCNT 1 site 7, raiseEvt (updtPg site) (2 ^ 18), setFetch site i g, askChunk site g]]

/-- FETCH_TIMEOUT: a fetch's deadline is reached (R294). -/
def fetchTimeout (site i : Nat) : Act :=
  look fun s => match (ueSt s site).fetches[i]? with
    | some f => match f.deadline with
      | some d => onlyIf (reached s d) (fetchStop site i f 6)
      | none => .done
    | none => .done

/-- CANCEL: every fetch with no deadline that waits for a digest ends (R294). -/
def fetchCancelAll (site : Nat) : Act :=
  look fun s =>
    let w := fun (f : Fetch) => f.deadline.isNone && f.digest.isNone
    acts [updUe site fun u => { u with fetches := u.fetches.filter fun f => !w f },
      each ((ueSt s site).fetches.filter w) fun f => fetchReport site (f.note 6) (f.note 6).worst]

/-! ### The window (R293) -/

/-- An accepted record acts. -/
def ueRecord (site : Nat) (r : List Byte) : Act :=
  if recLE r 0 1 = 1 then fetchStart site r else ueEnqueue site (.update (recLE r 2 2) none)

/-- A window record is rejected: CMD_REJ keeps the first (R300). -/
def cmdReject (site type : Nat) (c : ErrCode) : Act :=
  look fun s =>
    if fb s UPDT_REJ_VALID site then setF UPDT_REJ_MULTI 1 site
    else acts [setF UPDT_REJ_VALID 1 site, setF UPDT_REJ_CODE (errNum c) site, setF UPDT_REJ_TYPE type site]

/-- The window's front record is taken, those of a reserved type before it rejected: acted on if of TYPE `ty` and accepted,
kept at QUEUE_FULL, else rejected. -/
def ueWindow (site ty : Nat) : Nat → Act
  | 0 => .done
  | n + 1 => look fun s => match fifoOf s (16 + site) with
    | [] => .done
    | r :: _ =>
      let t := recLE r.bytes 0 1
      let e := firstErr (ueRecErrs s site r.bytes)
      let eat := acts [fifoPop (16 + site), onlyIf r.marked (consume (updtPg site) (0xFB00_0000_0000 + site * 65536))]
      if t ≠ 1 ∧ t ≠ 2 then acts [eat, cmdReject site t e, ueWindow site ty n]
      else if t ≠ ty ∨ e = .queueFull ∨ (t = 1 ∧ e = .ok ∧ fetchHeld s r.bytes) then .done
      else if e ≠ .ok then acts [eat, cmdReject site t e]
      else acts [eat, ueRecord site r.bytes]

/-- The window takes records until one acts or none can. -/
def ueTake (site ty : Nat) : Act := look fun s => ueWindow site ty ((fifoOf s (16 + site)).length + 1)

/-! ### Audits (R297) -/

/-- A chunk's weights are lost: marked, POISONED, AUDIT_LOST (R297). -/
def auditLost (site g c : Nat) : Act :=
  look fun s =>
    let r := pgRec s site g
    let a := pgA r 32 + c * 2 ^ 20
    let n := 2 * chunkElems r c
    acts [
      writeLocal a ((hbmBytesAt s a n).map fun b => (b, true)),
      hbmPut (digAddr r c + 14) (leBytes 2 (digFlags s r c ||| 4)),
      incF UPDT_UCNT 1 site 11, raiseEvt (updtPg site) (2 ^ 20), healthNotice .auditLost]

/-- One chunk is audited (R297): on a mismatch its verifier is read, or the chunk is lost. -/
def auditChunk (site g c : Nat) : Act :=
  acts [look fun s => readRecords (updtPg site) [(pgAddr s site g, 256), (digAddr (pgRec s site g) c, 32)],
    look fun s => let r := pgRec s site g
                  touchLocal (pgA r 32 + c * 2 ^ 20) (2 * chunkElems r c),
    look fun s =>
      let r := pgRec s site g
      let d := digAddr r c
      if hbmLE s (d + 8) 6 ≠ pgStep r % 2 ^ 48 then .done
      else acts [
        incF UPDT_UCNT 1 site 8,
        onlyIf (crc64 (hbmBytesAt s (pgA r 32 + c * 2 ^ 20) (2 * chunkElems r c)) != hbmLE s d 8) (acts [
          incF UPDT_UCNT 1 site 9,
          hbmPut (d + 14) (leBytes 2 (digFlags s r c ||| 1)),
          let node := bits (hbmLE s (d + 16) 2) 13 0
          if node = 0x3FFF then auditLost site g c
          else acts [updUe site fun u => { u with readback := u.readback ++ [(g, c)] },
            onlyIf (node != nodeId s) (sendRead node (.audit site) (gaLocal (hbmLE s (d + 24) 8)) (2 * chunkElems r c))]])]]

/-- AUDIT_READBACK_DONE: the verifier's copy has been read (R297). An update that has begun on the chunk abandons it. -/
def auditReadback (site : Nat) (ans : RemoteAns) : Act :=
  look fun s => match (ueSt s site).readback with
    | [] => .done
    | x :: l =>
      let r := pgRec s site x.1
      let d := digAddr r x.2
      let n := 2 * chunkElems r x.2
      acts [updUe site fun u => { u with readback := l },
        onlyIf (bit (digFlags s r x.2) 0) <|
          withAnswer (bits (hbmLE s (d + 16) 2) 13 0 * 2 ^ 50 + gaLocal (hbmLE s (d + 24) 8)) n ans fun a =>
            if a.code = 0 ∧ a.data.length = n ∧ crc64 a.data = hbmLE s d 8 ∧ a.marks.all (!·) then acts [
              putLocal (pgA r 32 + x.2 * 2 ^ 20) a.data,
              hbmPut (d + 14) (leBytes 2 (digFlags s r x.2 ||| 2)),
              incF UPDT_UCNT 1 site 10, raiseEvt (updtPg site) (2 ^ 19)]
            else auditLost site x.1 x.2]

/-- The next chunk of the audits asked for by command, if any. -/
def auditCommanded (site : Nat) (k : Option (Nat × Nat) → Act) : Act :=
  look fun s => match (ueSt s site).audits.filter fun x => !riHolds s x.1 with
    | [] => k none
    | x :: _ =>
      let l := (ueSt s site).audits.erase x
      let rest := if x.2 + 1 < pgChunks (pgRec s site x.1) then (x.1, x.2 + 1) :: l else l
      acts [updUe site fun u => { u with audits := rest }, k (some x)]

/-- The next chunk of the rotation, among the valid groups of the table. -/
def auditRotation (site : Nat) : Act :=
  look fun s =>
    let x := (ueSt s site).auditAt
    let n := fv s UPDT_PG_COUNT site
    if !fb s UPDT_PG_EN site || n == 0 then .done
    else
      let g := x.1 % n
      let r := pgRec s site g
      let next := if pgValid r && decide (x.2 + 1 < pgChunks r) then (g, x.2 + 1) else ((g + 1) % n, 0)
      onlyIf (!riHolds s g) (acts [updUe site fun u => { u with auditAt := next },
        onlyIf (pgValid r && decide (x.2 < pgChunks r)) (auditChunk site g x.2)])

/-- One chunk is audited in a granted window, or at once for a group that a command names (R278, R297): the pipeline is free
and no other job waits. -/
def auditStep (site : Nat) (granted : Bool) : Act :=
  look fun s =>
    if !ueIdle s site || (ueSt s site).jobs.any (fun j => !jobHeld s j) || !ueInService s site then .done
    else auditCommanded site fun x => match x with
      | some p => auditChunk site p.1 p.2
      | none => onlyIf granted (auditRotation site)

/-! ### Freezes and the stream (R298, R299) -/

/-- The failing checks of a freeze (R298). -/
def freezeErrs (s : State) (site g : Nat) : List ErrCode :=
  when (fv s UPDT_SNAP_GROUP site != g || !pgAvg (pgRec s site g)) (.block 0x73) ++
  when (fv s UPDT_SNAP_STATE site != 0 || (ueSt s site).freeze) .stateBusy

/-- A freeze fires: at the end of a running update of its group, else at once (R298). -/
def freeze (site g : Nat) : Act :=
  look fun s =>
    let wait := updUe site fun u => { u with freeze := true }
    if riHolds s g then wait
    else match (ueSt s site).run with
      | some r => if r.group = g then wait else freezeNow site
      | none => freezeNow site

/-- What a snapshot stream sends: the frozen bank's chunks, with their marks, and the trailer (R299), by offset. -/
def snapPieces (s : State) (x : Snap) : List (Nat × List (Byte × Bool)) :=
  let r := x.rec_
  let bank := pgBankAddr r (1 - pgBank r)
  let chunk := fun c => readLocal s (bank + c * 2 ^ 20) (2 * chunkElems r c)
  let cs := List.range (pgChunks r)
  let head := leBytes 2 x.group ++ leBytes 6 0 ++ leBytes 8 (pgStep r) ++ leBytes 8 (pgAvgCount r) ++
    leBytes 4 (pgNelem r) ++ leBytes 2 (pgChunks r) ++ leBytes 34 0 ++
    cs.flatMap fun c => leBytes 8 (crc64 ((chunk c).map Prod.fst))
  cs.map (fun c => (c * 2 ^ 20, chunk c)) ++ [(ceilDiv (2 * pgNelem r) 4096 * 4096, head.map fun b => (b, false))]

/-- The end of a stream (R299): chunks still awaiting copy-on-write are copied, FROZEN clears, and after a stream that was not
broken off (R393) SNAP_DONE is sent. -/
def snapRelease (site : Nat) (x : Snap) (whole : Bool) : Act :=
  look fun s =>
    let r := x.rec_
    let copy := fun (a b n : Nat) => acts [touchLocal a n, look fun t => writeLocal b (readLocal t a n)]
    acts [
      each ((List.range (pgChunks r)).filter fun c => bit (digFlags s r c) 3) fun c => acts [
        copy (pgBankAddr r (1 - pgBank r) + c * 2 ^ 20) (pgBankAddr r (pgBank r) + c * 2 ^ 20) (2 * chunkElems r c),
        onlyIf (pgAvgGlean r)
          (copy (pgBankGlean r (1 - pgBank r) + c * 524288) (pgBankGlean r (pgBank r) + c * 524288) (chunkElems r c)),
        look fun t => hbmPut (digAddr r c + 14) (leBytes 2 (digFlags t r c - 8))],
      hbmPut (pgAddr s site x.group + 240) (leBytes 1 (pgBank r)),
      updUe site fun u => { u with snap := none },
      setF UPDT_SNAP_STATE 0 site,
      onlyIf whole (acts [sendTarget0 (srcOf (updtPg site)) (fv s UPDT_SNAP_DONE site), raiseEvt (updtPg site) (2 ^ 21)])]

/-- A stream is sent, 32-byte bursts that hold a mark withheld (R332), by what carries its bytes. -/
def snapSend (site : Nat) (x : Snap) (send : Nat → List Byte → Act) : Act :=
  look fun s => each (snapPieces s x) fun p => acts [
    each ((dmaBlocks 0 p.2.length).filter fun b => ((p.2.drop b.1).take (b.2 - b.1)).any Prod.snd) fun b => acts [
      refuseExport (176 + site) (pgBankAddr x.rec_ (1 - pgBank x.rec_) + p.1 + b.1),
      updFault site x.group 0 eIntgPoison],
    each (dmaRuns 0 p.2) fun q => send (p.1 + q.1) (((p.2.drop q.1).take (q.2 - q.1)).map Prod.fst)]

/-! ### Soft reset (R301) -/

/-- A soft reset of a UPDT page: jobs, fetches, folds and the stream are abandoned; ledger entries not handed to the flash
controller return to PENDING. -/
def ueReset (site : Nat) : Act :=
  look fun s => acts [
    each ((ldEntries s site).filter fun e => fb s UPDT_LEDGER_EN site && (ldState s site e == 1 || ldState s site e == 2))
      fun e => ldSet site e 1 false,
    updUe site fun _ => Ue.init,
    setF UPDT_SNAP_STATE 0 site]

/-! ### Rows -/

/-- An instruction of an update program, by opcode. -/
def execUeLd (site : Nat) (s : State) : Host.Outcome State Fault Refusal := .next ((ueOp site 0x01).run s)
/-- ST. -/
def execUeSt (site : Nat) (s : State) : Host.Outcome State Fault Refusal := .next ((ueOp site 0x02).run s)
/-- MOV. -/
def execUeMov (site : Nat) (s : State) : Host.Outcome State Fault Refusal := .next ((ueOp site 0x03).run s)
/-- FADD. -/
def execFadd (site : Nat) (s : State) : Host.Outcome State Fault Refusal := .next ((ueOp site 0x04).run s)
/-- FSUB. -/
def execFsub (site : Nat) (s : State) : Host.Outcome State Fault Refusal := .next ((ueOp site 0x05).run s)
/-- FMUL. -/
def execFmul (site : Nat) (s : State) : Host.Outcome State Fault Refusal := .next ((ueOp site 0x06).run s)
/-- FDIV. -/
def execFdiv (site : Nat) (s : State) : Host.Outcome State Fault Refusal := .next ((ueOp site 0x07).run s)
/-- FFMA. -/
def execFfma (site : Nat) (s : State) : Host.Outcome State Fault Refusal := .next ((ueOp site 0x08).run s)
/-- FMAX. -/
def execFmax (site : Nat) (s : State) : Host.Outcome State Fault Refusal := .next ((ueOp site 0x09).run s)
/-- FMIN. -/
def execFmin (site : Nat) (s : State) : Host.Outcome State Fault Refusal := .next ((ueOp site 0x0A).run s)
/-- FSQRT. -/
def execFsqrt (site : Nat) (s : State) : Host.Outcome State Fault Refusal := .next ((ueOp site 0x0B).run s)
/-- FRSQRT. -/
def execFrsqrt (site : Nat) (s : State) : Host.Outcome State Fault Refusal := .next ((ueOp site 0x0C).run s)
/-- FABS. -/
def execFabs (site : Nat) (s : State) : Host.Outcome State Fault Refusal := .next ((ueOp site 0x0D).run s)
/-- FNEG. -/
def execFneg (site : Nat) (s : State) : Host.Outcome State Fault Refusal := .next ((ueOp site 0x0E).run s)
/-- FCMP. -/
def execFcmp (site : Nat) (s : State) : Host.Outcome State Fault Refusal := .next ((ueOp site 0x0F).run s)
/-- SEL. -/
def execUeSel (site : Nat) (s : State) : Host.Outcome State Fault Refusal := .next ((ueOp site 0x10).run s)
/-- WUPD (R286). -/
def execWupd (site : Nat) (s : State) : Host.Outcome State Fault Refusal := .next ((ueOp site 0x11).run s)
/-- AVG (R287). -/
def execAvg (site : Nat) (s : State) : Host.Outcome State Fault Refusal := .next ((ueOp site 0x12).run s)
/-- UPDATE_DONE (R279). -/
def execUpdateDone (site : Nat) (s : State) : Host.Outcome State Fault Refusal := .next ((updateDone site).run s)
/-- LEDGER_STAGED (R289, R290). -/
def execLedgerStaged (site entry : Nat) (s : State) : Host.Outcome State Fault Refusal :=
  .next ((ledgerStaged site entry).run s)
/-- LEDGER_WRITEBACK_DONE (R290). -/
def execLedgerWritebackDone (site entry : Nat) (s : State) : Host.Outcome State Fault Refusal :=
  .next ((ledgerWritten site entry).run s)
/-- FETCH_DIGEST_POLL (R294). -/
def execFetchDigestPoll (site fetch : Nat) (ans : RemoteAns) (s : State) : Host.Outcome State Fault Refusal :=
  .next ((fetchDigest site fetch ans).run s)
/-- FETCH_CHUNK_READ_DONE (R294). -/
def execFetchChunkReadDone (site fetch : Nat) (ans : RemoteAns) (s : State) : Host.Outcome State Fault Refusal :=
  .next ((fetchChunk site fetch ans).run s)
/-- FETCH_TIMEOUT (R294). -/
def execFetchTimeout (site fetch elapsed : Nat) (s : State) : Host.Outcome State Fault Refusal :=
  .next ((acts [timeTo elapsed, fetchTimeout site fetch]).run s)
/-- VERIFIED (R296). -/
def execVerified (dig step node addr : Nat) (s : State) : Host.Outcome State Fault Refusal :=
  .next ((verifiedNote dig step node addr).run s)
/-- AUDIT_READBACK_DONE (R297). -/
def execAuditReadbackDone (site : Nat) (ans : RemoteAns) (s : State) : Host.Outcome State Fault Refusal :=
  .next ((auditReadback site ans).run s)
/-- FOLD_DONE (R193, R196). -/
def execFoldDone (site : Nat) (s : State) : Host.Outcome State Fault Refusal :=
  .next (((look fun s => match (ueSt s site).fold with
    | some x => acts [foldEnd site x, updUe site fun u => { u with fold := none }, ueGo site]
    | none => .done)).run s)

end Sys2Proof.Machine
end

