-- ==== Sys2Proof/Machine/Plan.lean ====
section
/-! DEFINITION. The impression plan (R373 to R379), bubble windows as the press opens them (R73, R378), and reimposition
(R380 to R384). -/

namespace Sys2Proof.Machine

/-! ### The plan as an enable reads it (R373 to R375, R379) -/

/-- The header's TYPE: a D7_BRANCH plan. -/
def plD7 (h : List Byte) : Bool := bits (recLE h 0 1) 1 0 == 1
/-- NVS. -/
def plNvs (h : List Byte) : Nat := bits (recLE h 1 1) 3 0
/-- LEN. -/
def plLen (h : List Byte) : Nat := bits (recLE h 4 2) 12 0

/-- A slot record. -/
def plSlotOf (w : Nat) : PlanSlot := ⟨bits w 2 0, bits w 5 3, bit w 6, bits w 9 7, bits w 31 16, bits w 47 32⟩

/-- Slots of a D7_BRANCH plan: each goes to the branch furthest behind its share, the lowest on a tie (R379). -/
def d7Slots (weights : List Nat) : Nat → List Int → List Nat
  | 0, _ => []
  | n + 1, credits =>
    let c := (credits.zip weights).map fun x => x.1 + (x.2 : Int)
    let most := c.foldl max (c.headD 0)
    let pick := (c.findIdx? (· == most)).getD 0
    pick :: d7Slots weights n (c.modify pick fun x => x - sumN weights)

/-- Bytes of the header and slots of the plan at PLAN_BASE. -/
def planBytes (h : List Byte) : Nat := 256 + if plD7 h then 0 else 8 * plLen h

/-- The words of the slot records. -/
def planWords (s : State) (h : List Byte) : List Nat :=
  if plD7 h then [] else (List.range (plLen h)).map fun n => hbmLE s (fv s PRES_PLAN_BASE + 256 + 8 * n) 8

/-- The header at PLAN_BASE. -/
def planHeader (s : State) : List Byte := hbmBytesAt s (fv s PRES_PLAN_BASE) 256

/-- The plan has a word that carries a mark. -/
def planMarked (s : State) : Bool :=
  let n := if 4096 < plLen (planHeader s) then 256 else planBytes (planHeader s)
  ((readLocal s (fv s PRES_PLAN_BASE) n).any Prod.snd)

/-- The failing checks of an enable (R375). -/
def planErrs (s : State) : List ErrCode :=
  let a := fv s PRES_PLAN_BASE
  let h := planHeader s
  let z := fun a b => zeroBytes h a b
  let nvs := plNvs h
  let lenBad := plLen h == 0 || decide (4096 < plLen h)
  let ws := if lenBad then [] else planWords s h
  when (a % 4096 != 0) .addrAlign ++
  when (!isHbmAddr s a) .addrUnmapped ++
  when (isHbmAddr s a && !hbmInService s (a / 2 ^ 36)) .retiredUnit ++
  when (decide (4 ≤ recLE h 0 1) || decide (16 ≤ recLE h 1 1) || decide (2 ≤ recLE h 3 1) || decide (2 ^ 13 ≤ recLE h 4 2) ||
    !z 6 8 || !z 12 64 || !z 208 256 || ws.any fun w => bits w 15 10 != 0 || bits w 63 48 != 0) .rsvdSet ++
  when (decide (2 ≤ bits (recLE h 0 1) 1 0) || nvs == 0 || decide ((if plD7 h then 4 else 8) < nvs) ||
    decide (230 < recLE h 2 1) ||
    (plD7 h && (List.range 4).any fun b => (recLE h (8 + b) 1 == 0) == decide (b < nvs)) ||
    (ws.any fun w => decide (6 ≤ bits w 2 0) || decide (nvs ≤ bits w 5 3) || decide (nvs ≤ bits w 9 7)) ||
    planMarked s) .fieldRange ++
  when lenBad .lenRange ++
  when (isHbmAddr s a && !inSiteHbm (a / 2 ^ 36) a (if lenBad then 256 else planBytes h)) .lenOverRegion

/-- The plan at PLAN_BASE. -/
def planRead (s : State) : Plan :=
  let h := planHeader s
  let nvs := plNvs h
  { nvs := nvs
    cntBase := recLE h 2 1
    bubEn := bit (recLE h 3 1) 0
    masks := (List.range 8).map fun v => recLE h (64 + 18 * v) 18
    slots := if plD7 h then
        (d7Slots ((List.range nvs).map fun b => recLE h (8 + b) 1) (plLen h) (List.replicate nvs 0)).map fun b =>
          ⟨6, b, false, 0, 0, 0⟩
      else (planWords s h).map plSlotOf }

/-- Reading a plan for an enable: its words are read, and marked ones consumed. -/
def planTouch : Act :=
  look fun s =>
    let a := fv s PRES_PLAN_BASE
    let n := if 4096 < plLen (planHeader s) then 256 else planBytes (planHeader s)
    onlyIf (isHbmAddr s a && inSiteHbm (a / 2 ^ 36) a n) (acts [touchLocal a n,
      look fun t => onlyIf (planMarked t) (consume presPage a)])

/-! ### Plan actions (R376) -/

/-- The tiles of a mask. -/
def maskTiles (m : Nat) : List Nat := rangeF 144 (bit m)

/-- The counter a slot raises, and the mask of its tiles. -/
def slotCounter (p : Plan) (x : PlanSlot) : Option (Nat × Nat) :=
  let m := p.masks.getD x.vstage 0
  let all := (p.masks.take p.nvs).foldl (· ||| ·) 0
  match x.kind with
  | 1 | 6 => some (p.cntBase + 2 * x.vstage, m)
  | 2 => some (p.cntBase + 2 * x.vstage + 1, m)
  | 3 => some (p.cntBase + 16, all)
  | 4 => some (p.cntBase + 17, all)
  | _ => none

/-- A counter is incremented on each tile of a mask. -/
def raisePlan (counter mask : Nat) : Act :=
  look fun s => upd (.flights (s.flights ++ (maskTiles mask).map fun t => ⟨srcOf presPage, t, counter, 1⟩))

/-- The slot of impression N in a plan, with its number (R375). -/
def slotAt (s : State) (p : Plan) (n : Nat) : Option (Nat × PlanSlot) :=
  let o := fv s PRES_PLAN_ORIGIN
  if n < o ∨ p.slots.isEmpty then none
  else
    let i := (n - o) % p.slots.length
    (p.slots[i]?).map fun x => (i, x)

/-- The plan's part of an edge of impression N: PLAN_SLOT, and the slot's increments. -/
def planEdge (n : Nat) : Act :=
  look fun s =>
    let on := fb s PRES_PLAN_EN
    let cur := if on then s.press.plan.bind fun p => (slotAt s p n).map fun x => (p, x) else none
    match cur with
    | some (p, i, x) => acts [
        updPress fun q => { q with planOn := on, slot := some (p, x), pfDue := x.pfEn },
        setF PRES_PLAN_VALID 1, setF PRES_PLAN_VSTAGE x.vstage, setF PRES_PLAN_KIND x.kind, setF PRES_PLAN_SLOTN i,
        setF PRES_PLAN_MICRO x.micro,
        match slotCounter p x with
        | some c => raisePlan c.1 c.2
        | none => .done]
    | none => acts [
        updPress fun q => { q with planOn := on, slot := none, pfDue := false },
        setF PRES_PLAN_VALID 0, setF PRES_PLAN_VSTAGE 0, setF PRES_PLAN_KIND 0, setF PRES_PLAN_SLOTN 0,
        setF PRES_PLAN_MICRO 0]

/-- The prefetch increment of the current slot, if it is still to come. -/
def planPrefetchNow : Act :=
  look fun s => match s.press.slot with
    | some (p, x) => onlyIf s.press.pfDue (acts [
        updPress fun q => { q with pfDue := false },
        raisePlan (p.cntBase + 18 + x.pfStage) (p.masks.getD x.pfStage 0)])
    | none => .done

/-- PLAN_PREFETCH_INCREMENT: the instant (N, PF_POINT) is reached. -/
def planPrefetch (elapsed : Nat) : Act :=
  acts [timeTo elapsed, look fun s => match s.press.slot with
    | some (_, x) => onlyIf (reached s (instant s.press.imp x.pfPoint)) planPrefetchNow
    | none => .done]

/-- A bubble window is open, by the table or by the plan (R378). -/
def windowOpen (s : State) : Bool :=
  !s.press.open_.isEmpty || (match s.press.slot with | some (p, x) => x.kind == 5 && p.bubEn | none => false)

/-! ### Reimposition (R380 to R384) -/

/-- The current table. -/
def oldTable (s : State) : List ImpEntry := impTable s (fv s MGMT_IMP_BASE) (fv s MGMT_IMP_COUNT)
/-- The new table. -/
def newTable (s : State) : List ImpEntry := impTable s (fv s MGMT_RI_NEW_BASE) (fv s MGMT_RI_NEW_COUNT)

/-- An entry names a chunk. -/
def ImpEntry.names (e : ImpEntry) (g c : Nat) : Bool := e.group == g && decide (e.first ≤ c) && decide (c < e.first + e.n)

/-- The chunks of two entries meet. -/
def impMeet (a b : ImpEntry) : Bool := a.group == b.group && rangesMeet (a.first, a.n) (b.first, b.n)

/-- Every pair of a list's elements satisfies a condition. -/
def allPairs {α : Type} (p : α → α → Bool) : List α → Bool
  | [] => true
  | x :: l => l.all (p x) && allPairs p l

/-- A table is valid (R381). -/
def impValid (t : List ImpEntry) : Bool :=
  (t.all fun e => e.ok && decide (e.first + e.n ≤ 4096) && inSiteHbm e.site e.addr 1 &&
    (e.copy || inSiteHbm (e.dig / 2 ^ 36) e.dig 32)) &&
  allPairs (fun a b => !(!a.copy && !b.copy && impMeet a b) &&
    !(a.node == b.node && a.site == b.site && rangesMeet (a.addr, a.n * 2 ^ 20) (b.addr, b.n * 2 ^ 20))) t &&
  t.all fun e => !e.copy || (List.range e.n).all fun i => t.any fun o => !o.copy && o.names e.group (e.first + i)

/-- A table's range in HBM. -/
def tableErrs (s : State) (a n : Nat) : List ErrCode :=
  if n = 0 then [] else when (!isHbmAddr s a) .addrUnmapped ++ (if isHbmAddr s a then rangeErrs s a (32 * n) else [])

/-- The failing checks of REIMPOSE (R382): `v` fills RI_NEW, then RI_START and RI_END. -/
def riErrs (s : State) (v start stop : Nat) : List ErrCode :=
  let base := bits v 46 0
  let n := bits v 63 47
  when (base % 4096 != 0) .addrAlign ++ tableErrs s base (min n 65536) ++
  when (decide (2 ^ 48 ≤ start) || decide (2 ^ 48 ≤ stop)) .rsvdSet ++
  when (decide (stop ≤ start) ||
    (decide (n ≤ 65536) && !(impValid (impTable s base n) && impValid (oldTable s)))) .fieldRange ++
  when (decide (65536 < n)) .lenRange ++
  when (decide (start ≤ s.press.imp)) .impressionPast ++
  when (fv s MGMT_RI_STATE != 0 || fv s MGMT_RI_STAGE == 0) .stateBusy

/-- An accepted REIMPOSE. -/
def riAccept (v start stop : Nat) : Act := acts [
  setF MGMT_RI_NEW_COUNT (bits v 63 47), setF MGMT_RI_NEW_BASE (bits v 46 0), setF MGMT_RI_START start, setF MGMT_RI_END stop,
  setF MGMT_RI_STATE 1, setF MGMT_RI_LATE 0, setF MGMT_RI_FAILED 0]

/-- The address of a chunk in an entry. -/
def ImpEntry.chunkAddr (e : ImpEntry) (c : Nat) : Nat := e.addr + (c - e.first) * 2 ^ 20

/-- A global address. -/
def globalAddr (node a : Nat) : Nat := node * 2 ^ 50 + a

/-- The chunks that the new table places here and the old one does not hold at the same place in the same role. -/
def riTasks (s : State) : List RiTask :=
  let old := oldTable s
  let me := nodeId s
  ((newTable s).filter fun e => e.node == me).flatMap fun e => (List.range e.n).filterMap fun i =>
    let c := e.first + i
    let held := old.any fun o => o.node == me && o.names e.group c && o.copy == e.copy && o.site == e.site &&
      o.chunkAddr c == e.chunkAddr c
    if held then none
    else match old.find? fun o => !o.copy && o.names e.group c with
      | none => some ⟨e.group, c, 0, 0, 0, e.chunkAddr c, none⟩
      | some w =>
        let own := old.find? fun o => o.node == me && o.names e.group c
        let owner := globalAddr w.node (w.chunkAddr c)
        some ⟨e.group, c, (match own with | some o => globalAddr me (o.chunkAddr c) | none => owner), owner,
          globalAddr w.node (w.dig + 32 * (c - w.first)), e.chunkAddr c,
          if e.copy then none else some (e.dig + 32 * i)⟩

/-- RI_LEFT. -/
def riCount : Act := look fun s => setF MGMT_RI_LEFT (s.ri.left.length + s.ri.staged.length)

/-- REIMPOSITION_START: at RI_START the device begins to move its chunks. -/
def riStart (elapsed : Nat) : Act :=
  acts [timeTo elapsed, look fun s =>
    onlyIf (fv s MGMT_RI_STATE == 1 && reached s (instant (fv s MGMT_RI_START) 0)) (acts [
      readRecords mgmtPage [(fv s MGMT_IMP_BASE, 32 * fv s MGMT_IMP_COUNT), (fv s MGMT_RI_NEW_BASE, 32 * fv s MGMT_RI_NEW_COUNT)],
      look fun s => upd (.ri ⟨riTasks s, []⟩), setF MGMT_RI_STATE 2, riCount])]

/-- A staging buffer's address. -/
def riBuf (s : State) (dst k : Nat) : Nat := dst / 2 ^ 36 * 2 ^ 36 + fv s MGMT_RI_STAGE + k * 2 ^ 20

/-- Bytes of a task's chunk. -/
def riLen (s : State) (t : RiTask) : Nat := if gaNode t.src = nodeId s then ownChunkLen s (gaLocal t.src) else 2 ^ 20

/-- A staged chunk may be written: no chunk still to be read lies where it goes. -/
def riClear (s : State) (x : RiStaged) : Bool :=
  s.ri.left.all fun t => !(gaNode t.src == nodeId s && rangesMeet (gaLocal t.src, 2 ^ 20) (x.task.dst, x.len))

/-- Staged chunks go to their new places as soon as they may; those that failed are written with marks. -/
def riWrite : Nat → Act
  | 0 => .done
  | n + 1 => look fun s => match s.ri.staged.find? (riClear s) with
    | none => .done
    | some x => acts [
        touchLocal (riBuf s x.task.dst x.buf) x.len,
        look fun t => writeLocal x.task.dst ((readLocal t (riBuf s x.task.dst x.buf) x.len).map fun b => (b.1, b.2 || x.failed)),
        (match x.task.newDig with | some d => hbmPut d x.entry | none => .done),
        look fun t => upd (.ri { t.ri with staged := t.ri.staged.filter fun y => y.buf != x.buf }),
        incF MGMT_CNT_RI_CHUNKS, onlyIf x.failed (setF MGMT_RI_FAILED 1), riCount, riWrite n]

/-- Reads of a chunk until one agrees with the digest: from the source, again from it, from the old owner. -/
def riRead (t : RiTask) (n d : Nat) : List Nat → List RemoteAns → (RemoteAns → Bool → Act) → Act
  | [], _, k => k ⟨0, List.replicate n 0, []⟩ false
  | a :: l, ans, k => look fun s => acts [
      onlyIf (gaNode a != nodeId s) (sendRead (gaNode a) .none (gaLocal a) n),
      withAnswer a n (ans.headD ⟨0, [], []⟩) fun r =>
        let rest := if gaNode a = nodeId s then ans else ans.drop 1
        if r.code = 0 ∧ crc64 r.data = d then k r true
        else if r.code ≠ 0 then k ⟨0, List.replicate n 0, []⟩ false
        else if l.isEmpty then k r false
        else acts [incF MGMT_CNT_RI_REFETCH, riRead t n d l rest k]]

/-- REIMPOSITION_CHUNK_DONE: the next chunk is read whole into a free staging buffer and checked against its old owner's
digest; staged chunks are written where they may be. The answers are the digest entry's, where another device holds it,
then one for each read from another device. -/
def riChunk (ans : List RemoteAns) : Act :=
  look fun s =>
    if fv s MGMT_RI_STATE ≠ 2 then .done
    else acts [
      match s.ri.left, (List.range 16).find? fun k => s.ri.staged.all fun x => x.buf != k with
      | t :: l, some k =>
        let n := riLen s t
        let stage := fun (bs : List (Byte × Bool)) (entry : List Byte) (ok : Bool) => look fun u => acts [
          writeLocal (riBuf u t.dst k) bs,
          upd (.ri ⟨l, u.ri.staged ++ [⟨t, k, bs.length, !ok, entry⟩]⟩)]
        acts [
          onlyIf (gaNode t.dig != nodeId s) (sendRead (gaNode t.dig) .none (gaLocal t.dig) 32),
          withAnswer t.dig 32 (ans.headD ⟨0, [], []⟩) fun e =>
            let rest := if gaNode t.dig = nodeId s then ans else ans.drop 1
            let entry := (List.range 32).map fun i => e.data.getD i 0
            if e.code ≠ 0 then stage (List.replicate n (0, false)) entry false
            else riRead t n (recLE entry 0 8) [t.src, t.src, t.owner] rest fun r ok => stage (withMarks r.data r.marks) entry ok]
      | _, _ => .done,
      look fun u => riWrite (u.ri.staged.length + 1)]

/-- REIMPOSITION_COMPLETE: at RI_END, or at the end of the transfers if that is later; a device still moving at RI_END is
LATE. -/
def riComplete (elapsed : Nat) : Act :=
  acts [timeTo elapsed, look fun s =>
    if fv s MGMT_RI_STATE ≠ 2 || !reached s (instant (fv s MGMT_RI_END) 0) then .done
    else if !s.ri.left.isEmpty || !s.ri.staged.isEmpty then
      onlyIf (!fb s MGMT_RI_LATE) (acts [setF MGMT_RI_LATE 1, raiseEvt mgmtPage (2 ^ 17)])
    else acts [
      setF MGMT_IMP_BASE (fv s MGMT_RI_NEW_BASE), setF MGMT_IMP_COUNT (fv s MGMT_RI_NEW_COUNT),
      setF MGMT_RI_STATE 0,
      sendTarget0 (srcOf mgmtPage) (rdKey s (fldKey MGMT_RI_DONE 0 0)),
      raiseEvt mgmtPage (2 ^ 16),
      each (hbmSites s.build) fun n => look fun t => acts [
        onlyIf ((ueSt t n).freeze && (ueSt t n).run.isNone) (freezeNow n), ueGo n]]]

/-! ### Rows -/

/-- PLAN_PREFETCH_INCREMENT (R376). -/
def execPlanPrefetchIncrement (elapsed : Nat) (s : State) : Host.Outcome State Fault Refusal := .next ((planPrefetch elapsed).run s)
/-- REIMPOSITION_START (R383). -/
def execReimpositionStart (elapsed : Nat) (s : State) : Host.Outcome State Fault Refusal := .next ((riStart elapsed).run s)
/-- REIMPOSITION_CHUNK_DONE (R383). -/
def execReimpositionChunkDone (ans : List RemoteAns) (s : State) : Host.Outcome State Fault Refusal :=
  .next ((riChunk ans).run s)
/-- REIMPOSITION_COMPLETE (R384). -/
def execReimpositionComplete (elapsed : Nat) (s : State) : Host.Outcome State Fault Refusal :=
  .next ((riComplete elapsed).run s)

end Sys2Proof.Machine
end

