-- ==== Sys2Proof/Machine/Press.lean ====
section
/-! DEFINITION. The press: roles, elections, beacons and readiness (R55 to R67). -/

namespace Sys2Proof.Machine

/-- LEAD in ns (R55). -/
def lead : Nat := 10000

/-- ROLE takes a value; a change raises ROLE_CHANGE (R76). -/
def setRole (r : Nat) : Act :=
  look fun s => onlyIf (fv s PRES_ROLE != r) (acts [setF PRES_ROLE r, raiseEvt presPage (2 ^ 16)])

/-- This device is the node a field of the last executed election names. -/
def namedMaster (s : State) : Bool := fv s PRES_MASTER_NODE == nodeId s
/-- Named as backup. -/
def namedBackup (s : State) : Bool := fb s PRES_BACKUP_VALID && fv s PRES_BACKUP_NODE == nodeId s

/-- The press configuration as a beacon issue reads it (R55). -/
def latchCfg : Act :=
  look fun s => updPress fun p => { p with
    cfg := ⟨fb s PRES_PRESS_MODE, fv s PRES_PERIOD, fv s PRES_GATE_MIN, fv s PRES_GATE_MAX⟩ }

/-- The role of a device that stops being MASTER (R65). -/
def stepDown : Act :=
  look fun s => acts [updPress fun p => { p with retiring := false }, setRole (if namedBackup s then roleBackup else roleFollower)]

/-- A beacon is sent on every trained link but one (R62). -/
def floodBeacon (except_ : Option Nat) (b : Nat → Beacon) : Act :=
  look fun s => each ((trainedLinks s).filter fun l => except_ != some l) fun l => emit (.beacon l (b l))

/-- The impression whose beacon a master issues next (R65 step 3). -/
def nextImp (s : State) : Nat := if s.press.synced then s.press.imp + 1 else fv s PRES_ELECT_H

/-- The master issues the beacon of the next impression, LEAD before its edge (R56, R65). -/
def issueBeacon (timeout failover : Bool) : Act :=
  look fun s =>
    let m := nextImp s
    acts [
      onlyIf (s.press.takeover && m == fv s PRES_ELECT_H) (acts [setF PRES_ELECT_GEN (fv s PRES_ELECT_GENF),
        updPress fun p => { p with takeover := false }]),
      latchCfg,
      look fun t =>
        let c := t.press.cfg
        let period := if c.gated then (if t.press.synced then t.press.elapsed + lead else c.gateMin) else c.period
        let b : Beacon := ⟨m, c.gated, timeout, failover, period, 0, nodeId t, 0, fv t PRES_ELECT_GEN⟩
        acts [updPress fun p => { p with edge := some ⟨m, period, c.gated⟩, issued := true, fwdImp := some m, lastBeacon := some b },
          floodBeacon none fun _ => b],
      onlyIf (s.press.retiring && decide (fv s PRES_ELECT_H ≤ m + 1)) stepDown]

/-- The named master starts (R65 step 3). -/
def startMaster : Act := acts [setRole roleMaster, latchCfg]

/-- The beacon of H - 1 has been received or issued, or is past (R65). -/
def handoverDue (s : State) : Bool :=
  decide (fv s PRES_ELECT_H ≤ s.press.imp + 1) ||
    (match s.press.edge with | some e => decide (fv s PRES_ELECT_H ≤ e.imp + 1) | none => false)

/-- Failing checks of a press-master election of generation `gen` from impression `h` on (R65). -/
def electErrs (s : State) (gen h : Nat) : List ErrCode :=
  when (decide (gen ≤ fv s PRES_ELECT_GEN)) eElectStale ++
  when (s.press.synced && decide (h ≤ s.press.imp)) .impressionPast

/-- An election whose body ELECT and ELECT_AT hold is executed (R65). -/
def electApply : Act :=
  look fun s =>
    let master := fv s PRES_ROLE == roleMaster
    acts [
      if namedMaster s then
        acts [updPress fun p => { p with takeover := true, retiring := false },
          if !s.press.synced && !s.press.heard then acts [startMaster, issueBeacon false false]
          else onlyIf (!master && handoverDue s) startMaster]
      else if master then
        (if handoverDue s then stepDown else updPress fun p => { p with retiring := true, takeover := false })
      else acts [updPress fun p => { p with takeover := false },
        onlyIf (!unsync s) (setRole (if namedBackup s then roleBackup else roleFollower))]]

/-- The local master's node (R64). -/
def localMaster (s : State) : Option Nat := if fv s PRES_ROLE = roleMaster then some (nodeId s) else s.press.lastBeacon.map (·.master)

/-- A beacon is accepted (R64): a higher generation, or the local generation from the local master. -/
def beaconAccepted (s : State) (b : Beacon) : Bool :=
  decide (fv s PRES_ELECT_GEN < b.gen) || (b.gen == fv s PRES_ELECT_GEN && localMaster s == some b.master)

/-- A copy of an impression already begun or already known is discarded (R62). -/
def beaconOld (s : State) (b : Beacon) : Bool :=
  (s.press.synced && decide (b.impression ≤ s.press.imp)) ||
    (match s.press.fwdImp with | some n => decide (b.impression ≤ n) | none => false)

/-- A received beacon (R62 to R64). -/
def beaconReceive (link : Nat) (b : Beacon) : Act :=
  look fun s =>
    if linkState s link != 2 || !beaconAccepted s b || beaconOld s b then .done
    else
      let d := b.accDelay + fv s LINK_LDELAY link
      let late := decide (lead * 1000 ≤ d)
      let hops := min 255 (b.hops + 1)
      acts [
        onlyIf (decide (fv s PRES_ELECT_GEN < b.gen)) (acts [setF PRES_ELECT_GEN b.gen,
          onlyIf (decide (roleBackup ≤ fv s PRES_ROLE) &&
              !(b.gen == fv s PRES_ELECT_GENF && (namedMaster s || namedBackup s))) (setRole roleFollower)]),
        onlyIf (unsync s) (setRole
          (if namedBackup s && b.gen == fv s PRES_ELECT_GENF then roleBackup else roleFollower)),
        setF PRES_BEACON_LATE (b2n late), setF PRES_BEACON_HOPS hops, setF PRES_BEACON_LINK link,
        onlyIf late (acts [incF PRES_CNT_BEACON_LATE, raiseEvt presPage (2 ^ 18)]),
        updPress fun p => { p with
          heard := true, edge := some ⟨b.impression, b.periodNs, b.gated⟩, fwdImp := some b.impression,
          lastBeacon := some { b with accDelay := (d + 60000) % 2 ^ 32, hops := hops } },
        floodBeacon (some link) fun _ => { b with accDelay := (d + 60000) % 2 ^ 32, hops := hops },
        look fun t => onlyIf (t.press.takeover && handoverDue t && fv t PRES_ROLE != roleMaster) startMaster]

/-- The master issues its beacon when its edge is LEAD away: in FREE mode PERIOD after the last edge, in GATED mode once
readiness holds and GATE_MIN allows it (R55, R56). -/
def beaconIssue (elapsed : Nat) : Act :=
  acts [timeTo elapsed, look fun s =>
    let p := s.press
    let due := if p.cfg.gated then treeReady s && decide (p.cfg.gateMin ≤ p.elapsed + lead)
      else decide (p.cfg.period ≤ p.elapsed + lead)
    onlyIf (fv s PRES_ROLE == roleMaster && p.synced && !p.issued && p.edge.isNone && due) (issueBeacon false false)]

/-- The gate deadline passes without readiness (R60). -/
def gateTimeout (elapsed : Nat) : Act :=
  acts [timeTo elapsed, look fun s =>
    let p := s.press
    onlyIf (fv s PRES_ROLE == roleMaster && p.synced && !p.issued && p.edge.isNone && p.cfg.gated &&
        !treeReady s && decide (p.cfg.gateMax ≤ p.elapsed + lead)) (acts [
      issueBeacon true false, incF PRES_CNT_GATE_TIMEOUT, raiseEvt presPage (2 ^ 19)])]

/-- No beacon has arrived by the edge, T and 2 µs: the point holds, and a backup takes over (R66). -/
def beaconLoss (elapsed : Nat) : Act :=
  acts [timeTo elapsed, look fun s =>
    let p := s.press
    let t := if p.gated then fv s PRES_GATE_MAX else fv s PRES_PERIOD_CUR
    let r := fv s PRES_ROLE
    onlyIf ((r == roleFollower || r == roleBackup) && p.heard && p.synced && p.edge.isNone && !p.held &&
        decide (t + 2000 ≤ p.elapsed)) (acts [
      updPress fun p => { p with held := true, pt := 65535 }, raiseEvt presPage (2 ^ 17),
      onlyIf (r == roleBackup) (acts [setRole roleMaster,
        setF PRES_ELECT_GEN ((fv s PRES_ELECT_GEN + 1) % 2 ^ 32), issueBeacon false true, incF PRES_CNT_FAILOVER])])]

/-- A READY message (R58, R59). -/
def readyReceive (impression : Nat) : Act :=
  look fun s =>
    if !s.press.synced || impression != s.press.imp || s.press.issued then incF PRES_CNT_STALE_READY
    else acts [updPress fun p => { p with children := p.children + 1 }, readySend]

/-- READY_FORCE (R57). -/
def readyForce : Act := acts [updPress fun p => { p with forced := true }, readySend]

/-- The press role of a spare that assumes a node ID (R67). -/
def roleOnAssume : Act :=
  acts [updPress fun p => { p with retiring := false, takeover := false }, look fun s => onlyIf (!unsync s) (setRole roleFollower)]

/-- BEACON_ISSUE (R56). -/
def execBeaconIssue (elapsed : Nat) (s : State) : Host.Outcome State Fault Refusal := .next ((beaconIssue elapsed).run s)

/-- BEACON_RECEIVE (R63). -/
def execBeaconReceive (link : Nat) (b : Beacon) (s : State) : Host.Outcome State Fault Refusal :=
  .next ((beaconReceive link b).run s)

/-- READY_RECEIVE (R58). -/
def execReadyReceive (node impression : Nat) (s : State) : Host.Outcome State Fault Refusal :=
  .next ((onlyIf (decide (node < 2 ^ 14)) (readyReceive impression)).run s)

/-- GATE_TIMEOUT (R60). -/
def execGateTimeout (elapsed : Nat) (s : State) : Host.Outcome State Fault Refusal := .next ((gateTimeout elapsed).run s)

/-- BEACON_LOSS (R66). -/
def execBeaconLoss (elapsed : Nat) (s : State) : Host.Outcome State Fault Refusal := .next ((beaconLoss elapsed).run s)

end Sys2Proof.Machine
end

