-- ==== Sys2Proof/Machine/Fabric.lean ====
section
/-! DEFINITION. Device links (R343 to R370): the LINK_CTL exchange and retry (R348, R349), lane retrains (R361), training
(R352, R357, R362), links lost and readmitted (R363), spare substitution (R365, R366), and positions (R354, R355, R368). -/

namespace Sys2Proof.Machine

/-- LINK_STATE (R370). -/
def eLinkState : ErrCode := .block 0x92
/-- TOPO_CFG (R370). -/
def eTopoCfg : ErrCode := .block 0x93
/-- SPARE_STATE (R370). -/
def eSpareState : ErrCode := .block 0x95
/-- RETRAIN_BUSY (R370). -/
def eRetrainBusy : ErrCode := .block 0x96

/-! ### LINK_CTL and retry (R348, R349) -/

/-- SEQ a is at or before SEQ b, modulo 65,536. -/
def seqLe (a b : Nat) : Bool := decide ((b + 65536 - a % 65536) % 65536 < 32768)

/-- The SEQ of a stored message's last flit. -/
def lastSeq (x : Nat × FabMsg) : Nat := (x.1 + x.2.flits - 1) % 65536

/-- An ACK releases the messages it covers; a replay it passes is over. -/
def linkAck (l ack : Nat) : Act :=
  updLink l fun st => { st with
    store := st.store.filter fun x => !seqLe (lastSeq x) ack
    replay := match st.replay with | some r => if seqLe r.1 ack then none else some r | none => none
    replaying := match st.replay with | some r => if seqLe r.1 ack then false else st.replaying | none => false }

/-- A NAK for a SEQ: a replay from it starts, unless one is under way; the eighth start takes the link DOWN. -/
def linkNak (l q : Nat) : Act :=
  look fun s =>
    let st := linkSt s l
    let again := match st.replay with | some r => r.1 == q | none => false
    let n := match st.replay with | some r => (if r.1 = q then r.2 + 1 else 1) | none => 1
    if again && st.replaying then .done
    else if 8 ≤ n then linkDown l
    else acts [cnt LINK_LCNT 2 l,
      updLink l fun st => { st with replay := some (q, n), replaying := true },
      each (st.store.filter fun x => seqLe q (lastSeq x)) fun x => emit (.message l x.2)]

/-- A stook member's notice of one of its outer links (R359). -/
def linkNotice (x : Nat × Nat × Bool) : Act :=
  look fun s =>
    let e := (x.1, x.2.1)
    onlyIf (s.fab.outerUp.contains e != x.2.2) (acts [
      updFab fun f => { f with outerUp := if x.2.2 then f.outerUp ++ [e] else f.outerUp.filter (· != e) },
      cnt LINK_LDCNT 1])

/-- A REDUCE flit is in a link's buffers or its transmit store. -/
def reduceBusy (s : State) (l : Nat) : Bool :=
  (linkSt s l).store.any (fun x => x.2.vc == 4) || (linkSt s l).waiting.any (fun x => x.2.vc == 4)

/-- A link may begin a lane retrain, but for the grant. -/
def laneFree (s : State) (l : Nat) : Bool :=
  linkState s l == 2 && !fb s LINK_RETRAINING l && !reduceBusy s l && windowOpen s

/-- LINK_CTL: ACK, NAK, credits, the lane-retrain exchange, notices of stook members. -/
def linkCtl (l : Nat) (c : LinkCtl) : Act :=
  look fun s =>
    if linkState s l ≠ 2 then .done
    else acts [
      linkAck l c.ack,
      onlyIf c.replayEnded (updLink l fun st => { st with replaying := false }),
      (match c.nak with | some q => linkNak l q | none => .done),
      look fun t => onlyIf (linkState t l == 2) (acts [
        updLink l fun st => { st with
          granted := (c.credits.zipIdx).foldl (fun m x => mapSet (fun _ => 0) m x.2 (x.1 % 65536)) st.granted
          farReq := if c.retrainReq then some c.lane else none
          grant := c.retrainGrant },
        onlyIf (c.retrainReq && laneFree t l) (emit (.retrain l true c.lane)),
        onlyIf (fv t LINK_LROLE l == 1 || fv t LINK_LROLE l == 2) (each c.notices linkNotice),
        look fun u => pump l (2 * (linkSt u l).waiting.length)])]

/-- CODEWORD_UNCORRECTABLE: its flits are discarded, and NAKs go out until the expected SEQ arrives. -/
def linkUncorr (l : Nat) : Act :=
  look fun s => onlyIf (linkState s l == 2) (acts [cnt LINK_LCNT 1 l, updLink l fun st => { st with naking := true }])

/-! ### Lane retrains (R361) -/

/-- The failing checks of a lane-retrain request. -/
def laneErrs (s : State) (l : Nat) : List ErrCode :=
  when (linkState s l != 2) eLinkState ++ when (fb s LINK_RETRAINING l || (linkSt s l).req.isSome) eRetrainBusy

/-- An accepted request asks the far end. -/
def laneRequest (l lane : Nat) : Act :=
  acts [updLink l fun st => { st with req := some lane, grant := false }, emit (.retrain l false lane)]

/-- The lane a retrain would start on: one asked for here and granted, or one the far end asks for. -/
def laneReady (s : State) (l : Nat) : Option Nat :=
  let st := linkSt s l
  if !laneFree s l then none
  else match st.req with
    | some k => if st.grant then some k else none
    | none => st.farReq

/-- LANE_RETRAIN_START: the link moves to 15 lanes. -/
def laneStart (l : Nat) : Act :=
  look fun s => match laneReady s l with
    | some k => acts [
        updLink l fun st => { st with req := none, farReq := none, grant := false },
        setF LINK_RETRAINING 1 l, setF LINK_LANE k l, setF LINK_LANES 15 l, cnt LINK_LCNT 3 l]
    | none => .done

/-- RETRAIN_ABORT: 10 µs after a request its conditions still do not hold; where they do, the retrain starts (R68). -/
def laneAbort (l : Nat) : Act :=
  look fun s =>
    if (linkSt s l).req.isNone then .done
    else if (laneReady s l).isSome then laneStart l
    else acts [updLink l fun st => { st with req := none, grant := false }, cnt LINK_LCNT 4 l, raiseEvt (linkPg l) (2 ^ 19)]

/-- LANE_DONE: the lane returns, or is disabled; a second failed lane takes the link DOWN. -/
def laneDone (l : Nat) (ok : Bool) : Act :=
  look fun s =>
    if !fb s LINK_RETRAINING l then .done
    else acts [setF LINK_RETRAINING 0 l, raiseEvt (linkPg l) (2 ^ 18),
      if ok then setF LINK_LANES (if fb s LINK_DEGRADED l then 15 else 16) l
      else if fb s LINK_DEGRADED l then linkDown l
      else setF LINK_DEGRADED 1 l]

/-! ### Training (R352, R357, R362, R363) -/

/-- A link may train: its die is in service, it is not held DOWN, and nothing but links limits the level to 2. -/
def mayTrain (s : State) (l : Nat) : Bool :=
  linkDieInService s (linkSite s.build l) && !fb s LINK_LDISABLE l && linkState s l != 5 && limitConds s % 32 == 0

/-- A link leaves UP if it is there and trains, if it may (R362). -/
def linkTrain (l : Nat) : Act :=
  acts [linkDown l, look fun s => onlyIf (linkState s l != 5) (setF LINK_LSTATE (if mayTrain s l then 1 else 3) l)]

/-- The far end is as cabled (R357). The spare's link may show the member's ID it has assumed. -/
def cabledOk (s : State) (l node far role : Nat) : Bool :=
  let t := topo s
  match cabledTo t (topoNs s) (topoNf s) (homeId s) l with
  | some x =>
    far == x.2 && role == fv s LINK_LROLE l &&
      (node == x.1 || (role == 2 && nodeField node == nodeField x.1 && nodeStook node == nodeStook x.1 && !isSpareId (homeId s)))
  | none => false

/-- RATE_CAP, GB/s, of a credit loop in ns (R352). -/
def rateCap (loop : Nat) : Nat := if loop = 0 then 416 else min 416 (2 ^ 20 / loop)

/-- LINK_TRAINING_DONE: the link is UP, in FAULT with CABLE_FAULT, or DOWN where it could not train. `loop` in ns, `delay`
in ps, as the timestamp exchange measured them. -/
def trainDone (l : Nat) (ok : Bool) (node far role delay loop : Nat) : Act :=
  look fun s =>
    if linkState s l ≠ 1 then .done
    else if !ok || !mayTrain s l then setF LINK_LSTATE 3 l
    else acts [
      setF LINK_FAR_VALID 1 l, setF LINK_FAR_LINK far l, setF LINK_FAR_NODE node l,
      if !cabledOk s l node far role then acts [setF LINK_LSTATE 4 l, raiseEvt (linkPg l) (2 ^ 20)]
      else acts [
        setF LINK_LSTATE 2 l, setF LINK_LANES 16 l, setF LINK_DEGRADED 0 l,
        setF LINK_LDELAY delay l, setF LINK_LLOOP loop l, setF LINK_RATE_CAP (rateCap loop) l,
        raiseEvt (linkPg l) (2 ^ 17),
        onlyIf (!(linkSt s l).needAdmit) (linkJoin l),
        (match s.press.lastBeacon with | some b => emit (.beacon l b) | none => .done),
        reLevel]]

/-- LINK_RX_SILENCE: no decodable codeword for 1 µs. -/
def linkSilent (l : Nat) : Act := linkDown l

/-- LINK_AUTO_RETRAIN: a DOWN link trains again. -/
def linkAuto (l : Nat) : Act := look fun s => onlyIf (linkState s l == 3 && mayTrain s l) (setF LINK_LSTATE 1 l)

/-- CTL.DISABLE = 1: the link is held DOWN. -/
def linkHold (l : Nat) : Act :=
  acts [linkDown l, look fun s => onlyIf (linkState s l == 1 || linkState s l == 4) (setF LINK_LSTATE 3 l)]

/-- CTL.ADMIT: the link rejoins the routing sets. -/
def linkAdmit (l : Nat) : Act := linkJoin l

/-- The failing checks of a write of CTL (R368). -/
def linkCtlErrs (s : State) (l v : Nat) : List ErrCode :=
  when (bit v 1 && linkState s l != 2) eLinkState ++
  when (decide (1 < b2n (bit v 0) + b2n (bit v 1) + b2n (bit v 2))) .fieldRange

/-- A write of CTL. -/
def linkCtlWrite (l v : Nat) : Act := acts [
  setF LINK_LDISABLE (bits v 0 0) l,
  onlyIf (bit v 0) (linkHold l), onlyIf (bit v 1) (linkAdmit l), onlyIf (bit v 2) (linkTrain l)]

/-- A soft reset of a LINK page: DISABLE and the counters return to their reset values, and the link trains (R368). -/
def linkReset (l : Nat) : Act := acts [
  setF LINK_LDISABLE 0 l, each (List.range 7) fun k => setF LINK_LCNT 0 l k, linkTrain l]

/-! ### Positions (R354, R355, R368) -/

/-- Every link is OFF or UNUSED. -/
def linksIdle (s : State) : Bool := (List.range (nLinks s.build)).all fun l => linkState s l == 0 || linkState s l == 5

/-- The topologies a build has, with their NS and NF maxima (R355). -/
def topoMax (b : Build) (mode : Nat) : Option (Nat × Nat) :=
  match mode, b with
  | 0, .h8l4 | 0, .h6l6 => some (48, 16)
  | 1, .h6l6 => some (48, 16)
  | 2, .h10l2 => some (12, 4)
  | _, _ => none

/-- A power of two. -/
def isPow2 (n : Nat) : Bool := (List.range 6).any fun k => n == 2 ^ k

/-- A TOPO value fits the build. -/
def topoOk (b : Build) (mode ns nf : Nat) : Bool :=
  let t := topoOf mode
  match topoMax b mode with
  | some x => decide (1 ≤ ns) && decide (ns ≤ x.1) && decide (nf ≤ x.2) && isPow2 nf && decide (ns - 1 ≤ t.m * t.f) &&
      decide (nf - 1 ≤ t.m * t.y)
  | none => false

/-- The failing checks of a write of HOME_ID. -/
def homeErrs (s : State) (v : Nat) : List ErrCode :=
  when (!linksIdle s) .stateBusy ++ when (!nodeAssigned (topo s) (topoNs s) (topoNf s) v) eTopoCfg

/-- The failing checks of a write of TOPO. -/
def topoErrs (s : State) (v : Nat) : List ErrCode :=
  when (!linksIdle s) .stateBusy ++ when (!topoOk s.build (bits v 1 0) (bits v 21 16) (bits v 28 24)) eTopoCfg

/-- After a position changes: node ID, spare bit, the roles of the links, links of no role UNUSED. -/
def placeLinks : Act :=
  look fun s => acts [
    setF LINK_NODE_ID (homeId s), setF LINK_NODE_SPARE (b2n (isSpareId (homeId s))),
    each (List.range (nLinks s.build)) fun l =>
      let r := linkRole (topo s) (topoNs s) (topoNf s) (homeId s) l
      acts [setF LINK_LROLE r l, setF LINK_LSTATE (if r = 0 then 5 else 0) l]]

/-! ### Spare substitution (R365, R366) -/

/-- A link to a node is UP. -/
def linkedTo (s : State) (node : Nat) : Bool :=
  (List.range (nLinks s.build)).any fun l => linkState s l == 2 && fb s LINK_FAR_VALID l && fv s LINK_FAR_NODE l == node

/-- The failing checks of SPARE_ASSUME; `v` fills ASSUME. -/
def assumeErrs (s : State) (v : Nat) : List ErrCode :=
  let target := bits v 61 48
  let mine := nodeField target == nodeField (homeId s) && !isSpareId target && nodeSlot target == nodeStook (homeId s) &&
    decide (nodeMember target < (topo s).m)
  when (bit v 62) .rsvdSet ++
  when (decide (bits v 47 0 ≤ s.press.imp)) .impressionPast ++
  when (if bit v 63 then s.fab.assumed != some target
    else !fb s LINK_NODE_SPARE || !mine || linkedTo s target) eSpareState

/-- An accepted SPARE_ASSUME waits for its impression. -/
def assumeAccept (v : Nat) : Act := acts [
  setF LINK_ASSUME_RELEASE (bits v 63 63), setF LINK_ASSUME_TARGET (bits v 61 48), setF LINK_ASSUME_H (bits v 47 0),
  updFab fun f => { f with assume := some (bit v 63, bits v 61 48, bits v 47 0) }]

/-- ASSUME is sent over each stook link. -/
def sendAssume (target h : Nat) : Act :=
  look fun s => each (rangeF (nLinks s.build) fun l => linkState s l == 2 && fv s LINK_LROLE l == 2) fun l =>
    enqueue l ⟨fv s LINK_FAR_NODE l, nodeId s, 0, 4, 1, .none, .assume target (homeId s) h⟩

/-- ASSUME_TAKE_EFFECT: at the edge of H the spare takes TARGET's ID, or its own back. -/
def assumeTake : Act :=
  look fun s => match s.fab.assume with
    | none => .done
    | some (release, target, h) =>
      if unsync s ∨ s.press.imp < h then .done
      else acts [
        updFab fun f => { f with assume := none, assumed := if release then none else some target },
        setF LINK_NODE_ID (if release then homeId s else target),
        setF LINK_NODE_SPARE (b2n release),
        raiseLinks (2 ^ 22),
        sendAssume (if release then homeId s else target) h,
        roleOnAssume]

/-- ASSUME: a member remaps TARGET to its spare link from H on, or restores the direct links where TARGET is the spare. -/
def assumeNote (target node h : Nat) : Act :=
  if target = node then updFab fun f => { f with remaps := [] }
  else updFab fun f => { f with
    remaps := (f.remaps.filter fun r => r.member != nodeMember target) ++ [⟨nodeMember target, h⟩] }

/-! ### Rows -/

/-- LINK_CTL (R348). -/
def execLinkCtl (link : Nat) (ctl : LinkCtl) (s : State) : Host.Outcome State Fault Refusal := .next ((linkCtl link ctl).run s)
/-- CODEWORD_UNCORRECTABLE (R349). -/
def execCodewordUncorrectable (link : Nat) (s : State) : Host.Outcome State Fault Refusal := .next ((linkUncorr link).run s)
/-- LANE_RETRAIN_START (R361). -/
def execLaneRetrainStart (link : Nat) (s : State) : Host.Outcome State Fault Refusal := .next ((laneStart link).run s)
/-- RETRAIN_ABORT (R361). -/
def execRetrainAbort (link : Nat) (s : State) : Host.Outcome State Fault Refusal := .next ((laneAbort link).run s)
/-- LANE_DONE (R361). -/
def execLaneDone (link : Nat) (ok : Bool) (s : State) : Host.Outcome State Fault Refusal := .next ((laneDone link ok).run s)
/-- LINK_TRAINING_DONE (R362). -/
def execLinkTrainingDone (link : Nat) (ok : Bool) (node far role delay loop : Nat) (s : State) :
    Host.Outcome State Fault Refusal := .next ((trainDone link ok node far role delay loop).run s)
/-- LINK_RX_SILENCE (R363). -/
def execLinkRxSilence (link : Nat) (s : State) : Host.Outcome State Fault Refusal := .next ((linkSilent link).run s)
/-- LINK_AUTO_RETRAIN (R363). -/
def execLinkAutoRetrain (link : Nat) (s : State) : Host.Outcome State Fault Refusal := .next ((linkAuto link).run s)
/-- ASSUME_TAKE_EFFECT (R365). -/
def execAssumeTakeEffect (s : State) : Host.Outcome State Fault Refusal := .next (assumeTake.run s)
/-- ASSUME (R365). -/
def execAssume (target node impression : Nat) (s : State) : Host.Outcome State Fault Refusal :=
  .next ((assumeNote target node impression).run s)

end Sys2Proof.Machine
end

