-- ==== Sys2Proof/Machine/Health.lean ====
section
/-! DEFINITION. The background-activity scheduler and the proof pass (R429 to R437). -/

namespace Sys2Proof.Machine

/-- The BKGD page. -/
def bkgdPg : PageRef := ⟨.bkgd, 0⟩

/-! ### Proofs (R434 to R437) -/

/-- The unit PROOF_REC names: 0 a physical tile, 1 the Update Engine of a site, 2 a Solver Engine. -/
def proofUnit (b : Build) (kind idx : Nat) : Option UnitId :=
  match kind with
  | 0 => if idx < 160 then some (.tile idx) else none
  | 1 => if isHbmSite b idx then some (.ue idx) else none
  | 2 => if idx < 16 then some (.solv idx) else none
  | _ => none

/-- A unit is in service for a proof. -/
def proofInService (s : State) : UnitId → Bool
  | .tile p => unitUp s (.tile p)
  | .ue n => ueInService s n
  | .solv e => solvInService s e
  | _ => false

/-- A unit has no issued work: the proof of an engine runs between its jobs (R434), and a re-proof begins when issued work
has completed (R435). -/
def proofIdle (s : State) : UnitId → Bool
  | .tile p => (tileSt s p).queues.all fun q => q.inflight.isEmpty
  | .ue n => (ueSt s n).run.isNone && (ueSt s n).fold.isNone
  | .solv e => (mapGet solvDefault s.solvs e).run.isNone
  | _ => true

/-- A unit is in quarantine. -/
def quarantined (s : State) (u : UnitId) : Bool := s.units.quar.any fun q => q.unit == u

/-- A proof kernel starts on a unit. -/
def proofStart (u : UnitId) : Act :=
  updUnits fun x => { x with proving := if x.proving.contains u then x.proving else x.proving ++ [u] }

/-- HLTH records a failed proof (R435, R438). -/
def proofFailed (kind idx phase stage : Nat) : Act := acts [
  cnt HLTH_HLCNT 1,
  look fun s => acts [setF HLTH_PREC_VALID 1, setF HLTH_PREC_UNIT kind, setF HLTH_PREC_PHASE phase, setF HLTH_PREC_STAGE stage,
    setF HLTH_PREC_INDEX idx, setF HLTH_PROOF_AT (curInstant s)],
  raiseEvt hlthPage (2 ^ 17)]

/-- A proof kernel completes: a failing unit goes into quarantine, a SUSPECT one is retired. -/
def proofKernel (kind idx phase : Nat) (ok : Bool) : Act :=
  look fun s => match proofUnit s.build kind idx with
    | none => .done
    | some u => onlyIf (s.units.proving.contains u && decide (1 ≤ phase) && decide (phase ≤ 3)) (acts [
        updUnits fun x => { x with proving := x.proving.filter (· != u) },
        cnt HLTH_HLCNT 0,
        onlyIf (!ok) (
          if s.units.suspect.contains u then acts [proofFailed kind idx phase 2, retireUnit u]
          else acts [proofFailed kind idx phase 1, updUnits fun x => { x with quar := x.quar ++ [⟨u, phase⟩] },
            cnt HLTH_HLCNT 2])])

/-- The re-proof of a quarantined unit completes: it resumes as SUSPECT, or it is retired. -/
def proofAgain (kind idx phase : Nat) (ok : Bool) : Act :=
  look fun s => match proofUnit s.build kind idx with
    | none => .done
    | some u => onlyIf (quarantined s u && proofIdle s u && decide (1 ≤ phase) && decide (phase ≤ 3)) (acts [
        cnt HLTH_HLCNT 0,
        if ok then updUnits fun x => { x with
          quar := x.quar.filter fun q => q.unit != u
          suspect := if x.suspect.contains u then x.suspect else x.suspect ++ [u] }
        else acts [proofFailed kind idx phase 2, retireUnit u]])

/-- The slot a PROOF_PASS entry names (R70): a tile ID of the die of LOC, or a spare slot of it. -/
def proofSlot (loc index : Nat) : Option Nat :=
  if loc ≠ 0x10 ∧ loc ≠ 0x11 then none
  else
    let die := loc - 0x10
    if index < 144 then (if index / 72 = die then some index else none)
    else if 0xF0 + 8 * die ≤ index ∧ index < 0xF8 + 8 * die then some (144 + (index - 0xF0)) else none

/-- The failing checks of PROOF_PASS at its target (R437). -/
def proofErrs (s : State) (slot : Nat) : List ErrCode :=
  let u := UnitId.tile (physOf s slot)
  when (decide (slot < 144) && !tileBacked s slot) .retiredUnit ++
  when (s.units.proving.contains u || quarantined s u || (decide (slot < 144) && substPending s slot) ||
    (decide (144 ≤ slot) && !unitUp s u)) eProofBusy

/-! ### Windows and shares (R430 to R433) -/

/-- ns as points of the current impression. -/
def pointsOf (s : State) (ns : Nat) : Nat := if fv s PRES_PERIOD_CUR = 0 then 0 else ns * 65536 / fv s PRES_PERIOD_CUR

/-- The open windows: first and last point. -/
def openWindows (s : State) : List (Nat × Nat) :=
  (s.press.open_.map fun w => (fv s PRES_BUB_START 0 w, fv s PRES_BUB_END 0 w)) ++
    match s.press.slot with
    | some (p, x) => if x.kind == 5 && p.bubEn then [(0, 65535)] else []
    | none => []

/-- Points left in the open window that lasts longest, and that window's points. -/
def windowLeft (s : State) : Nat × Nat :=
  (openWindows s).foldl (fun best w => if best.1 < w.2 + 1 - s.press.pt then (w.2 + 1 - s.press.pt, w.2 + 1 - w.1) else best)
    (0, 0)

/-- Points an activity has used on a unit in the window (stolen: in the impression). -/
def bkPoints (s : State) (act unit : Nat) : Nat := sumN ((s.bkUsed.filter fun x => x.1 == act && x.2.1 == unit).map (·.2.2))

/-- The unit of an activity's resource is in service, and the activity is enabled there (R429, R442). -/
def bkUnitOk (s : State) (act kind idx : Nat) : Bool :=
  match act with
  | 0 => decide (idx < 201) && fb s INTG_PATROL_EN idx && pageInService s ⟨.intg, idx⟩
  | 1 => match proofUnit s.build kind idx with
    | some u => proofInService s u && !unitResting s u && (kind == 0 || proofIdle s u)
    | none => false
  | 2 => isHbmSite s.build idx && ueInService s idx && !unitResting s (.ue idx)
  | 3 => true
  | 4 => decide (idx < 2) && dieInService s idx
  | 5 => decide (idx < nLinks s.build) && (laneErrs s idx).isEmpty
  | _ => false

/-- What the granted piece starts here: a proof kernel, or a lane retrain. The pieces of the other activities are commands
of their own. -/
def bkStart (act kind idx : Nat) : Act :=
  match act with
  | 1 => look fun s => match proofUnit s.build kind idx with
    | some u => proofStart u
    | none => .done
  | 5 => look fun s =>
    let lane := (linkSt s idx).turn
    acts [updLink idx fun st => { st with turn := (lane + 1) % 16 }, laneRequest idx lane]
  | _ => .done

/-- STEALING of an activity follows its shortfall (R432): above 1/8 it starts, at 1/16 or less it stops. An activity without a
period, FLASH, steals while its pending work is older than 16 impressions: `expected` counts them. -/
def stealing (act progress expected : Nat) : Act :=
  look fun s =>
    let was := bit (fv s BKGD_BK_STEALING) act
    let now := if 5 ≤ act then false
      else if act = 3 then decide (16 < expected)
      else if 8192 < expected - progress then true
      else if expected - progress ≤ 4096 then false else was
    acts [setF BKGD_BK_STEALING (setBit (fv s BKGD_BK_STEALING) act now), onlyIf (now && !was) (raiseEvt bkgdPg (2 ^ 16))]

/-- BKGD_GRANT: the scheduler weighs an activity's progress and starts a piece of work of `ns` on a unit, inside an open
window or stolen (R430 to R432). -/
def bkGrant (act kind idx ns progress expected : Nat) : Act :=
  look fun s =>
    if 6 ≤ act || !fb s BKGD_ACT_EN 0 act then .done
    else acts [
      onlyIf (act != 3) (setF BKGD_PROGRESS (min 65535 progress) 0 act),
      stealing act (min 65535 progress) expected,
      look fun t =>
        let pts := pointsOf t ns
        let unit := kind * 256 + idx
        let w := windowLeft t
        if !bkUnitOk t act kind idx then .done
        else if windowOpen t && decide (pts ≤ w.1) && decide ((bkPoints t act unit + pts) * 256 ≤ fv t BKGD_ACT_SHARE 0 act * w.2) then
          acts [incF BKGD_CNT_GRANTED pts 0 act, upd (.bkUsed (t.bkUsed ++ [(act, unit, pts)])), bkStart act kind idx]
        else onlyIf (!windowOpen t && bit (fv t BKGD_BK_STEALING) act &&
            decide (bkPoints t (8 + act) unit + pts ≤ fv t BKGD_STEAL_MAX 0 act))
          (acts [incF BKGD_CNT_STOLEN pts 0 act, upd (.bkUsed (t.bkUsed ++ [(8 + act, unit, pts)])), bkStart act kind idx])]

/-- OVERRUN: a piece runs on after its window closed (R431). -/
def bkOverrun (act ns : Nat) : Act :=
  look fun s => onlyIf (decide (act < 6) && !windowOpen s) (acts [
    incF BKGD_CNT_STOLEN (pointsOf s ns) 0 act, raiseEvt bkgdPg (2 ^ 18)])

/-- ACTIVITY_PERIOD_END: a period ends, with work undone or in full (R432). -/
def bkPeriodEnd (act : Nat) (undone : Bool) : Act :=
  look fun s => onlyIf (decide (act < 6) && act != 3 && fb s BKGD_ACT_EN 0 act) (acts [
    onlyIf (!undone || decide (8192 < 65536 - fv s BKGD_PROGRESS 0 act)) (stealing act (if undone then fv s BKGD_PROGRESS 0 act else 65536) 65536),
    setF BKGD_BK_BEHIND (setBit (fv s BKGD_BK_BEHIND) act undone),
    onlyIf undone (raiseEvt bkgdPg (2 ^ 17)),
    setF BKGD_PROGRESS 0 0 act])

/-- VF_CAL: a die's 5 µs of quiescence retunes its voltage and permits a pending frequency raise (R429, R453). -/
def vfCal (die mv : Nat) : Act :=
  look fun s => onlyIf (decide (die < 2) && decide (mv < 1024) && dieInService s die && fb s BKGD_ACT_EN 0 4) (acts [
    setF PDIE_VDD_MV mv die, setF PDIE_ARITH_MHZ (fv s PDIE_TARGET_MHZ die) die])

/-! ### Rows -/

/-- BKGD_GRANT (R430). -/
def execBkgdGrant (act kind idx ns progress expected : Nat) (s : State) : Host.Outcome State Fault Refusal :=
  .next ((bkGrant act kind idx ns progress expected).run s)
/-- OVERRUN (R431). -/
def execOverrun (act ns : Nat) (s : State) : Host.Outcome State Fault Refusal := .next ((bkOverrun act ns).run s)
/-- ACTIVITY_PERIOD_END (R432). -/
def execActivityPeriodEnd (act : Nat) (undone : Bool) (s : State) : Host.Outcome State Fault Refusal :=
  .next ((bkPeriodEnd act undone).run s)
/-- VF_CAL (R429). -/
def execVfCal (die mv : Nat) (s : State) : Host.Outcome State Fault Refusal := .next ((vfCal die mv).run s)
/-- PROOF_KERNEL (R434). -/
def execProofKernel (kind idx phase : Nat) (ok : Bool) (s : State) : Host.Outcome State Fault Refusal :=
  .next ((proofKernel kind idx phase ok).run s)
end Sys2Proof.Machine
end

