-- ==== Sys2Proof/Machine/Power.lean ====
section
/-! DEFINITION. Power, clocks and the module (R444 to R460): what removes and returns power, resets, reference clocks, the
control loops, trips and the I3C target. -/

namespace Sys2Proof.Machine

/-- The device POWR page. -/
def powrPg : PageRef := ⟨.powr, 0⟩

/-- The power state changes. -/
def updPower (f : Power → Power) : Act := look fun s => upd (.power (f s.power))

/-! ### Rails and resets (R444 to R447) -/

/-- Every part of the device stops and the flush of R319 runs; what follows is the state after a reset. -/
def deviceStop : Act := acts [flushStart, upd .restart]

/-- PWR_GOOD falls: the rails go off, and the flush runs from the hold-up capacitors. -/
def powerLost : Act :=
  look fun s => acts [onlyIf s.power.pwrGood flushStart, updPower fun p => { p with pwrGood := false }, upd .restart]

/-- PWR_EN_RISE: the rails come up, and PWR_GOOD rises, unless a trip or an overvoltage is latched. -/
def pwrEnRise : Act :=
  look fun s => onlyIf (!s.power.trip && !s.power.overvolt && !s.power.pwrGood) (updPower fun p => { p with
    pwrEn := true
    pwrGood := true })

/-- PWR_EN_FALL: as power lost; the latches of a trip and of an overvoltage end. -/
def pwrEnFall : Act := acts [updPower fun p => { p with
    pwrEn := false
    trip := false
    overvolt := false }, powerLost]

/-- BOOT_START: PWR_GOOD and RESET_N are high, with no flush running and the Ethernet reference present: boot stage 1 begins,
and MOD_ID is sampled (R446 to R448). -/
def bootStart (modId : Nat) (fab : Bool) : Act :=
  look fun s => onlyIf (s.power.pwrGood && !s.flash.refusing && !s.power.ethLost && !s.boot.live) (acts [
    updPower fun p => { p with resetN := true },
    upd (.boot { s.boot with live := true }),
    setF POWR_MOD_ID (modId % 16), setF POWR_REFCLK (1 + 2 * b2n fab)])

/-- RESET_ASSERT: RESET_N has been low for `us`; a pulse below 100 µs is ignored. -/
def resetAssert (us : Nat) : Act :=
  look fun s => onlyIf (decide (100 ≤ us) && s.power.pwrGood) (acts [updPower fun p => { p with resetN := false }, deviceStop])

/-- OVERVOLTAGE: above 60 V for 2 µs. -/
def overvoltage (mv us : Nat) : Act :=
  look fun s => onlyIf (decide (60000 < mv) && decide (2 ≤ us) && s.power.pwrGood) (acts [
    updPower fun p => { p with overvolt := true }, powerLost])

/-- INPUT_TOLERANCE_EXPIRY: 44 to 48 V or 56 to 60 V for longer than 1 ms. -/
def toleranceExpiry (mv us : Nat) : Act :=
  look fun s => onlyIf (((decide (44000 ≤ mv) && decide (mv < 48000)) || (decide (56000 < mv) && decide (mv ≤ 60000))) &&
    decide (1000 < us) && s.power.pwrGood) powerLost

/-- INPUT_LOST: below 44 V for 2 µs. -/
def inputLost (mv us : Nat) : Act :=
  look fun s => onlyIf (decide (mv < 44000) && decide (2 ≤ us) && s.power.pwrGood) powerLost

/-- A sensor's trip point, in 0.1 °C: compute dies 0 and 1, the die or stack of a site 2 + n, the MGD 14 (R454). -/
def tripAt (b : Build) (sensor : Nat) : Option Int :=
  if sensor < 2 ∨ sensor = 14 then some 1150
  else if sensor < 14 then some (if isHbmSite b (sensor - 2) then 1050 else 1150)
  else none

/-- POWR registers that the MGD, which keeps its rail until the flush ends, still shows after a trip: P_AVG, T_MAX,
T_COOLANT, LIMIT. -/
def tripKeeps : List Nat := [0x050, 0x054, 0x060, 0x064]

/-- THERMAL_TRIP: the latches go low, the rails off (R455). -/
def thermalTrip (sensor : Nat) (t : Int) : Act :=
  look fun s => onlyIf (s.power.pwrGood && (match tripAt s.build sensor with | some x => decide (x ≤ t) | none => false)) (acts [
    updPower fun p => { p with trip := true }, powerLost,
    each tripKeeps fun o => setKey (regKey .powr 0 o) (rdKey s (regKey .powr 0 o)),
    setF HLTH_LEVEL 0])

/-! ### Reference clocks (R450) -/

/-- FAB_REFCLK_LOSS: every link goes DOWN, and the level follows. -/
def fabLoss : Act :=
  look fun s => onlyIf (s.boot.live && bit (fv s POWR_REFCLK) 1) (acts [
    withUnits (acts [
      setF POWR_REFCLK (fv s POWR_REFCLK % 2), allLinksDown,
      each (rangeF (nLinks s.build) fun l => linkState s l == 1) fun l => setF LINK_LSTATE 3 l]),
    cnt POWR_PCNT 3, raiseEvt powrPg (2 ^ 19)])

/-- ETH_REFCLK_LOSS: the device stops as for RESET_N low, and holds itself in reset. -/
def ethLoss : Act :=
  look fun s => onlyIf s.boot.live (acts [updPower fun p => { p with ethLost := true }, deviceStop])

/-- REFCLK_RESTORE: a reference clock has been present again for 1 ms. With REFCLK_FAB links that went DOWN train again; with
REFCLK_ETH boot may start. -/
def refclkRestore (fab : Bool) : Act :=
  look fun s =>
    if fab then onlyIf (s.boot.live && !bit (fv s POWR_REFCLK) 1) (acts [
      withUnits (setF POWR_REFCLK (fv s POWR_REFCLK % 2 + 2)),
      raiseEvt powrPg (2 ^ 19),
      each (List.range (nLinks s.build)) linkAuto])
    else updPower fun p => { p with ethLost := false }

/-! ### The control loops (R451 to R454) -/

/-- The lowest operating point. -/
def mhzMin : Nat := 750
/-- The highest. -/
def mhzMax : Nat := 1500
/-- One point below, and one above. -/
def stepDown50 (m : Nat) : Nat := max mhzMin (m - 50)
/-- One point above. -/
def stepUp50 (m : Nat) : Nat := min mhzMax (m + 50)

/-- Sensors that throttle after a sample: a die from 100 °C until it falls below 98 °C, an HBM stack from 92 °C until below
90 °C. -/
def hotAfter (s : State) (p : PowerSample) : List Nat :=
  let on := fun (k : Nat) (t hi lo : Int) => decide (hi ≤ t) || (s.power.hot.contains k && decide (lo ≤ t))
  (rangeF 2 fun d => on d (p.tDie.getD d 0) 1000 980) ++
    ((rangeF 12 fun n => isHbmSite s.build n && on (2 + n) (p.tSite.getD n 0) 920 900).map (2 + ·))

/-- A die's thermal loop steps it down. -/
def dieHot (hot : List Nat) (d : Nat) : Bool := hot.any fun k => k == d || (decide (2 ≤ k) && dieOfSite (k - 2) == d)

/-- A temperature in a register. -/
def tempReg (t : Int) : Nat := ofInt 16 t

/-- The measurements of a step as registers show them. -/
def showSample (p : PowerSample) : Act :=
  let sensors := p.tDie.take 2 ++ p.tSite.take 12 ++ [p.tMgd]
  acts [
    setF POWR_INPUT_MV (min 65535 p.mv), setF POWR_INPUT_MA (min 65535 p.ma), setF POWR_P_AVG (min 2047 p.pAvg),
    setF POWR_T_MAX (tempReg (sensors.foldl max p.tMgd)), setF POWR_T_COOLANT (tempReg p.tCoolant),
    each (List.range 12) fun n => setF POWR_T_SITE (tempReg (p.tSite.getD n 0)) 0 n,
    each [0, 1] fun d => acts [setF PDIE_DIE_W (min 2047 (p.dieW.getD d 0)) d, setF PDIE_T_DIE (tempReg (p.tDie.getD d 0)) d]]

/-- POWER_CONTROL_STEP: every 10 µs each die goes to the lowest of its four limits; down at once, up when VF_CAL has raised
its voltage. -/
def powerStep (p : PowerSample) : Act :=
  look fun s =>
    if !s.boot.live then .done
    else
      let w := s.power
      let cap := fv s POWR_CAP
      let fmax := fv s POWR_FREQ_MAX
      let mhz := fun d => fv s PDIE_ARITH_MHZ d
      let hot := hotAfter s p
      let capOver := decide (cap < p.pAvg)
      let emerg := decide (1600 < p.pMax) || decide (1500 < p.pAvg)
      let slow := decide (mhz 0 = mhzMin) && decide (mhz 1 = mhzMin)
      let capPt0 := (List.range 2).map fun d => if capOver then stepDown50 (mhz d) else w.capPt.getD d mhzMax
      let em0 := if emerg then mhzMin else w.emPt
      let quiet := !capOver && !emerg && decide (100 * p.pAvg < 97 * cap) && hot.isEmpty &&
        decide (min (min (capPt0.getD 0 mhzMax) (capPt0.getD 1 mhzMax)) em0 < fmax)
      let up := quiet && decide (99 ≤ w.calm)
      let capPt := if up then capPt0.map stepUp50 else capPt0
      let em := if up then stepUp50 em0 else em0
      let therm := fun d => if dieHot hot d then stepDown50 (mhz d) else mhzMax
      let low := fun d => min (min (capPt.getD d mhzMax) (therm d)) (min fmax em)
      let binds := fun (f : Nat → Nat) => [0, 1].any fun d => decide (f d < mhzMax) && f d == low d
      let unmet := capOver && slow
      acts [
        showSample p,
        updPower fun x => { x with
          calm := if quiet && !up then w.calm + 1 else 0
          capPt := capPt
          emPt := em
          hot := hot },
        setF POWR_LIMIT (b2n (binds fun d => capPt.getD d mhzMax) + 2 * b2n (binds therm) + 4 * b2n (binds fun _ => em) +
          8 * b2n (binds fun _ => fmax) + 16 * b2n unmet),
        onlyIf (capOver && !slow) (acts [cnt POWR_PCNT 0, raiseEvt powrPg (2 ^ 16)]),
        onlyIf (unmet && !bit (fv s POWR_LIMIT) 4) (raiseEvt powrPg (2 ^ 20)),
        onlyIf (emerg && w.emPt != mhzMin) (acts [cnt POWR_PCNT 2, raiseEvt powrPg (2 ^ 18)]),
        each [0, 1] fun d => acts [
          onlyIf (dieHot hot d && mhz d != mhzMin) (acts [cnt POWR_PCNT 1, raiseEvt powrPg (2 ^ 17),
            raiseEvt ⟨.powrDie, d⟩ (2 ^ 16)]),
          setF PDIE_TARGET_MHZ (low d) d,
          onlyIf (decide (low d < mhz d)) (setF PDIE_ARITH_MHZ (low d) d)]]

/-- The failing checks of a POWER_CAP body (R453). -/
def capErrs (b : List Byte) : List ErrCode :=
  let v := leNat (b.take 8)
  when (bits v 63 11 != 0) .rsvdSet ++ when (decide (bits v 10 0 < 500) || decide (1500 < bits v 10 0)) .fieldRange

/-- An accepted POWER_CAP. -/
def capApply (b : List Byte) : Act := setF POWR_CAP (bits (leNat (b.take 8)) 10 0)

/-! ### Pins and the I3C target (R448, R457) -/

/-- FAULT_N: high, low, or high-impedance (none). -/
def faultN (s : State) : Option Bool :=
  if s.power.trip then some false
  else if !s.boot.live then none
  else if s.boot.halted then some false
  else if 3 ≤ s.boot.stage then (if 1 ≤ level s then some true else none) else none

/-- THERM_TRIP_N: low from a trip on, else high-impedance. -/
def thermTripN (s : State) : Option Bool := if s.power.trip then some false else none

/-- What the I3C target's register reads; two-byte values low byte first. -/
def i3cValue (s : State) (reg : Nat) : Nat :=
  let l := fv s POWR_LIMIT
  match reg with
  | 0 => level s
  | 1 => b2n (bit l 1) + 2 * b2n (bit l 0) + 4 * b2n (bit l 2) + 8 * b2n s.power.trip
  | 2 => fv s POWR_P_AVG % 256
  | 3 => fv s POWR_P_AVG / 256
  | 4 => fv s POWR_T_MAX % 256
  | 5 => fv s POWR_T_MAX / 256
  | 6 => fv s POWR_T_COOLANT % 256
  | _ => fv s POWR_T_COOLANT / 256

/-- I3C_READ: the target answers from boot stage 1 on, and after a trip until the flush ends. -/
def i3cRead (reg : Nat) : Act :=
  look fun s => onlyIf (decide (reg < 8) && (s.boot.live || (s.power.trip && s.flash.refusing))) (emit (.i3c reg (i3cValue s reg)))

/-! ### Units and the port -/

/-- A unit whose failure limits the level (R19): die network 0 and 1, the bridge, an HBM stack, a link die. -/
def limitUnit (b : Build) (kind idx : Nat) : Option UnitId :=
  match kind with
  | 0 => if idx < 2 then some (.net idx) else none
  | 1 => some .bridge
  | 2 => if isHbmSite b idx then some (.stack idx) else none
  | 3 => if isLinkSite b idx then some (.linkDie idx) else none
  | _ => none

/-- LIMITING_CONDITION_DETECTED (R22). -/
def limitDetected (kind idx : Nat) : Act :=
  look fun s => match limitUnit s.build kind idx with
    | some u => onlyIf (!s.units.failed.contains u) (failUnit u)
    | none => .done

/-- ENET_LINK_CHANGE (R404). -/
def enetLinkChange (up : Bool) : Act :=
  look fun s => onlyIf (decide (3 ≤ s.boot.stage) && fb s ENET_LINK_UP != up) (acts [
    setF ENET_LINK_UP (b2n up), raiseEvt ⟨.enet, 0⟩ (2 ^ 16), reLevel])

/-! ### Rows -/

/-- PWR_EN_RISE (R446). -/
def execPwrEnRise (s : State) : Host.Outcome State Fault Refusal := .next (pwrEnRise.run s)
/-- BOOT_START (R446). -/
def execBootStart (modId : Nat) (fab : Bool) (s : State) : Host.Outcome State Fault Refusal := .next ((bootStart modId fab).run s)
/-- RESET_ASSERT (R447). -/
def execResetAssert (us : Nat) (s : State) : Host.Outcome State Fault Refusal := .next ((resetAssert us).run s)
/-- PWR_EN_FALL (R447). -/
def execPwrEnFall (s : State) : Host.Outcome State Fault Refusal := .next (pwrEnFall.run s)
/-- OVERVOLTAGE (R444). -/
def execOvervoltage (mv us : Nat) (s : State) : Host.Outcome State Fault Refusal := .next ((overvoltage mv us).run s)
/-- INPUT_TOLERANCE_EXPIRY (R444). -/
def execInputToleranceExpiry (mv us : Nat) (s : State) : Host.Outcome State Fault Refusal := .next ((toleranceExpiry mv us).run s)
/-- INPUT_LOST (R447). -/
def execInputLost (mv us : Nat) (s : State) : Host.Outcome State Fault Refusal := .next ((inputLost mv us).run s)
/-- POWER_CONTROL_STEP (R452). -/
def execPowerControlStep (p : PowerSample) (s : State) : Host.Outcome State Fault Refusal := .next ((powerStep p).run s)
/-- THERMAL_TRIP (R455). -/
def execThermalTrip (sensor : Nat) (t : Int) (s : State) : Host.Outcome State Fault Refusal := .next ((thermalTrip sensor t).run s)
/-- FAB_REFCLK_LOSS (R450). -/
def execFabRefclkLoss (s : State) : Host.Outcome State Fault Refusal := .next (fabLoss.run s)
/-- ETH_REFCLK_LOSS (R450). -/
def execEthRefclkLoss (s : State) : Host.Outcome State Fault Refusal := .next (ethLoss.run s)
/-- REFCLK_RESTORE (R450). -/
def execRefclkRestore (fab : Bool) (s : State) : Host.Outcome State Fault Refusal := .next ((refclkRestore fab).run s)
/-- I3C_READ (R457). -/
def execI3cRead (reg : Nat) (s : State) : Host.Outcome State Fault Refusal := .next ((i3cRead reg).run s)
/-- LIMITING_CONDITION_DETECTED (R22). -/
def execLimitingConditionDetected (kind idx : Nat) (s : State) : Host.Outcome State Fault Refusal :=
  .next ((limitDetected kind idx).run s)
/-- ENET_LINK_CHANGE (R404). -/
def execEnetLinkChange (up : Bool) (s : State) : Host.Outcome State Fault Refusal := .next ((enetLinkChange up).run s)

end Sys2Proof.Machine
end

