-- ==== Sys2Proof/Machine/Crypto.lean ====
section
/-! DEFINITION. The cryptography the manual names: SHA-512, HMAC-SHA-512, MGF1, RSASSA-PSS and RSAES-OAEP with RSA-4096
(R399, R409, R415). The manual gives the algorithms by name; their steps are those of FIPS 180-4, RFC 2104 and RFC 8017
(PRESUMED, log entry 8). -/

namespace Sys2Proof.Machine

/-! ### SHA-512 -/

/-- Round constants 0 to 15. -/
def shaK0 : List Nat :=
   [0x428A2F98D728AE22, 0x7137449123EF65CD, 0xB5C0FBCFEC4D3B2F, 0xE9B5DBA58189DBBC,
    0x3956C25BF348B538, 0x59F111F1B605D019, 0x923F82A4AF194F9B, 0xAB1C5ED5DA6D8118,
    0xD807AA98A3030242, 0x12835B0145706FBE, 0x243185BE4EE4B28C, 0x550C7DC3D5FFB4E2,
    0x72BE5D74F27B896F, 0x80DEB1FE3B1696B1, 0x9BDC06A725C71235, 0xC19BF174CF692694]

/-- Round constants 16 to 31. -/
def shaK1 : List Nat :=
   [0xE49B69C19EF14AD2, 0xEFBE4786384F25E3, 0x0FC19DC68B8CD5B5, 0x240CA1CC77AC9C65,
    0x2DE92C6F592B0275, 0x4A7484AA6EA6E483, 0x5CB0A9DCBD41FBD4, 0x76F988DA831153B5,
    0x983E5152EE66DFAB, 0xA831C66D2DB43210, 0xB00327C898FB213F, 0xBF597FC7BEEF0EE4,
    0xC6E00BF33DA88FC2, 0xD5A79147930AA725, 0x06CA6351E003826F, 0x142929670A0E6E70]

/-- Round constants 32 to 47. -/
def shaK2 : List Nat :=
   [0x27B70A8546D22FFC, 0x2E1B21385C26C926, 0x4D2C6DFC5AC42AED, 0x53380D139D95B3DF,
    0x650A73548BAF63DE, 0x766A0ABB3C77B2A8, 0x81C2C92E47EDAEE6, 0x92722C851482353B,
    0xA2BFE8A14CF10364, 0xA81A664BBC423001, 0xC24B8B70D0F89791, 0xC76C51A30654BE30,
    0xD192E819D6EF5218, 0xD69906245565A910, 0xF40E35855771202A, 0x106AA07032BBD1B8]

/-- Round constants 48 to 63. -/
def shaK3 : List Nat :=
   [0x19A4C116B8D2D0C8, 0x1E376C085141AB53, 0x2748774CDF8EEB99, 0x34B0BCB5E19B48A8,
    0x391C0CB3C5C95A63, 0x4ED8AA4AE3418ACB, 0x5B9CCA4F7763E373, 0x682E6FF3D6B2B8A3,
    0x748F82EE5DEFB2FC, 0x78A5636F43172F60, 0x84C87814A1F0AB72, 0x8CC702081A6439EC,
    0x90BEFFFA23631E28, 0xA4506CEBDE82BDE9, 0xBEF9A3F7B2C67915, 0xC67178F2E372532B]

/-- Round constants 64 to 79. -/
def shaK4 : List Nat :=
   [0xCA273ECEEA26619C, 0xD186B8C721C0C207, 0xEADA7DD6CDE0EB1E, 0xF57D4F7FEE6ED178,
    0x06F067AA72176FBA, 0x0A637DC5A2C898A6, 0x113F9804BEF90DAE, 0x1B710B35131C471B,
    0x28DB77F523047D84, 0x32CAAB7B40C72493, 0x3C9EBE0A15C9BEBC, 0x431D67C49C100D4C,
    0x4CC5D4BECB3E42B6, 0x597F299CFC657E2A, 0x5FCB6FAB3AD6FAEC, 0x6C44198C4A475817]

/-- The 80 round constants. -/
def shaK : List Nat := shaK0 ++ shaK1 ++ shaK2 ++ shaK3 ++ shaK4

/-- The initial hash value. -/
def shaInit : Nat :=
  0x6A09E667F3BCC908BB67AE8584CAA73B3C6EF372FE94F82BA54FF53A5F1D36F1510E527FADE682D19B05688C2B3E6C1F1F83D9ABFB41BD6B5BE0CD19137E2179

/-- A function of a number that is evaluated first: a long chain of operations then stays as cheap to evaluate as its steps. -/
def evalNat {α : Type} (n : Nat) (f : Nat → α) : α :=
  match n with
  | 0 => f 0
  | k + 1 => f (k + 1)

/-- A 64-bit word rotated right. -/
def rotr (x n : Nat) : Nat := (x >>> n) ||| ((x <<< (64 - n)) % 2 ^ 64)
/-- σ0. -/
def shaS0 (x : Nat) : Nat := rotr x 1 ^^^ rotr x 8 ^^^ (x >>> 7)
/-- σ1. -/
def shaS1 (x : Nat) : Nat := rotr x 19 ^^^ rotr x 61 ^^^ (x >>> 6)
/-- Σ0. -/
def shaB0 (x : Nat) : Nat := rotr x 28 ^^^ rotr x 34 ^^^ rotr x 39
/-- Σ1. -/
def shaB1 (x : Nat) : Nat := rotr x 14 ^^^ rotr x 18 ^^^ rotr x 41
/-- Ch. -/
def shaCh (e f g : Nat) : Nat := (e &&& f) ^^^ ((2 ^ 64 - 1 - e) &&& g)
/-- Maj. -/
def shaMaj (a b c : Nat) : Nat := (a &&& b) ^^^ (a &&& c) ^^^ (b &&& c)

/-- Word `i` of `n` words, the first in the most significant place. -/
def wordAt (v n i : Nat) : Nat := (v >>> (64 * (n - 1 - i))) % 2 ^ 64

/-- Working variables of a block. -/
structure ShaVars where
  a : Nat
  b : Nat
  c : Nat
  d : Nat
  e : Nat
  f : Nat
  g : Nat
  h : Nat

/-- Rounds over the remaining constants; `w` holds the next 16 words of the message schedule. -/
def shaRounds : List Nat → Nat → ShaVars → ShaVars
  | [], _, v => v
  | k :: ks, w, v =>
    let w0 := wordAt w 16 0
    let w16 := (shaS1 (wordAt w 16 14) + wordAt w 16 9 + shaS0 (wordAt w 16 1) + w0) % 2 ^ 64
    let t2 := shaB0 v.a + shaMaj v.a v.b v.c
    evalNat (v.h + shaB1 v.e + shaCh v.e v.f v.g + k + w0) fun t1 =>
      evalNat ((w * 2 ^ 64 + w16) % 2 ^ 1024) fun x => evalNat ((t1 + t2) % 2 ^ 64) fun a =>
        evalNat ((v.d + t1) % 2 ^ 64) fun e => shaRounds ks x ⟨a, v.a, v.b, v.c, e, v.e, v.f, v.g⟩

/-- One block of 1,024 bits on top of a hash value of 512. -/
def shaBlock (h w : Nat) : Nat :=
  let i := wordAt h 8
  let v := shaRounds shaK w ⟨i 0, i 1, i 2, i 3, i 4, i 5, i 6, i 7⟩
  ([i 0 + v.a, i 1 + v.b, i 2 + v.c, i 3 + v.d, i 4 + v.e, i 5 + v.f, i 6 + v.g, i 7 + v.h]).foldl
    (fun x y => x * 2 ^ 64 + y % 2 ^ 64) 0

/-- Blocks one after the other. -/
def shaBlocks : List (List Byte) → Nat → Nat
  | [], h => h
  | b :: bs, h => evalNat (beNat b) fun w => evalNat (shaBlock h w) fun h2 => shaBlocks bs h2

/-- The padded message. -/
def shaPad (m : List Byte) : List Byte :=
  m ++ (0x80 : Byte) :: List.replicate ((239 - m.length % 128) % 128) 0 ++ beBytes 16 (8 * m.length)

/-- Lists of `n` elements each, from the front; `fuel` bounds how many. -/
def chunksOf {α : Type} (n : Nat) : Nat → List α → List (List α)
  | 0, _ => []
  | _, [] => []
  | k + 1, l => l.take n :: chunksOf n k (l.drop n)

/-- SHA-512: 64 bytes. -/
def sha512 (m : List Byte) : List Byte :=
  let p := shaPad m
  beBytes 64 (shaBlocks (chunksOf 128 (p.length / 128) p) shaInit)

/-! ### HMAC -/

/-- Bytes xored. -/
def xorBytes (a b : List Byte) : List Byte := List.zipWith (· ^^^ ·) a b

/-- HMAC-SHA-512 (block of 128 bytes). -/
def hmac512 (key m : List Byte) : List Byte :=
  let k0 := if 128 < key.length then sha512 key else key
  let k := k0 ++ List.replicate (128 - k0.length) 0
  sha512 (k.map (· ^^^ 0x5C) ++ sha512 (k.map (· ^^^ 0x36) ++ m))

/-! ### RSA -/

/-- `r` times `b` to the number with these bits, the lowest first, modulo `n`. -/
def mulPow : List Bool → Nat → Nat → Nat → Nat
  | [], _, _, r => r
  | x :: l, b, n, r => evalNat (b * b % n) fun b2 => evalNat (if x then r * b % n else r) fun r2 => mulPow l b2 n r2

/-- `b` to the `e` modulo `n`, over the low `k` bits of `e`. -/
def powMod (k b e n : Nat) : Nat := mulPow ((List.range k).map e.testBit) b n (1 % n)

/-- MGF1 with SHA-512. -/
def mgf1 (seed : List Byte) (len : Nat) : List Byte :=
  ((List.range (ceilDiv len 64)).flatMap fun i => sha512 (seed ++ beBytes 4 i)).take len

/-- The top bit of a string of bytes cleared. -/
def clearTop : List Byte → List Byte
  | [] => []
  | b :: l => (b &&& 0x7F) :: l

/-- RSASSA-PSS verification: SHA-512, MGF1 with SHA-512, 64-byte salt, exponent 65,537. -/
def pssVerify (n : Nat) (m sig : List Byte) : Bool :=
  let s := beNat sig
  let em := beBytes 512 (powMod 17 (s % n) 65537 n)
  let h := (em.drop 447).take 64
  let db := clearTop (xorBytes (em.take 447) (mgf1 h 447))
  decide (2 ^ 4095 ≤ n ∧ n < 2 ^ 4096 ∧ sig.length = 512 ∧ s < n) &&
    em.getD 511 0 == 0xBC && decide ((em.getD 0 0).toNat < 128) &&
    db.take 383 == List.replicate 382 0 ++ [1] &&
    h == sha512 (List.replicate 8 0 ++ sha512 m ++ db.drop 383)

/-- RSASSA-PSS signature with private exponent `d`. -/
def pssSign (n d : Nat) (m salt : List Byte) : List Byte :=
  let h := sha512 (List.replicate 8 0 ++ sha512 m ++ salt)
  let db := List.replicate 382 0 ++ [(1 : Byte)] ++ salt
  let em := clearTop (xorBytes db (mgf1 h 447)) ++ h ++ [(0xBC : Byte)]
  beBytes 512 (powMod 4096 (beNat em) d n)

/-- RSAES-OAEP decryption: SHA-512, MGF1 with SHA-512, empty label. -/
def oaepDecrypt (n d : Nat) (c : List Byte) : Option (List Byte) :=
  let v := beNat c
  let em := beBytes 512 (powMod 4096 (v % n) d n)
  let seed := xorBytes ((em.drop 1).take 64) (mgf1 (em.drop 65) 64)
  let db := xorBytes (em.drop 65) (mgf1 seed 447)
  let rest := (db.drop 64).dropWhile (· == 0)
  if c.length = 512 ∧ v < n ∧ em.getD 0 1 = 0 ∧ db.take 64 = sha512 [] ∧ rest.head? = some 1 then some (rest.drop 1)
  else none

end Sys2Proof.Machine
end

