-- ==== Sys2Proof/Machine/Secure.lean ====
section
/-! DEFINITION. The colophon (R408 to R417): measurement slots, firmware images and their slots in flash, owner bundles and
command keys, quotes and certificate copies, debug levels. -/

namespace Sys2Proof.Machine

/-- The COLO page. -/
def coloPg : PageRef := ⟨.colo, 0⟩

/-- A run of free values (log entry 1). -/
def withFrees : Nat → (List Nat → Act) → Act
  | 0, k => k []
  | n + 1, k => withFree fun v => withFrees n fun l => k (v :: l)

/-- 64-bit words of a COLO register array as bytes, each word little-endian. -/
def coloBytes (s : State) (f : Fld) (n0 n : Nat) : List Byte := (List.range n).flatMap fun i => leBytes 8 (fv s f 0 (n0 + i))

/-- Words of a register array take bytes. -/
def setWords (f : Fld) (n0 w : Nat) (bs : List Byte) : Act :=
  each (List.range (bs.length / w)) fun i => setF f (leNat ((bs.drop (w * i)).take w)) 0 (n0 + i)

/-- The device's 16-byte serial number. -/
def serialBytes (s : State) : List Byte := leBytes 16 s.factory.serial

/-! ### Measurement (R412) -/

/-- A slot is extended by a measurement. -/
def extendBy (k : Nat) (m : List Byte) : Act :=
  look fun s => setWords COLO_MSLOT (8 * k) 8 (sha512 (coloBytes s COLO_MSLOT (8 * k) 8 ++ m))

/-- A slot is extended by an object. -/
def extendSlot (k : Nat) (object : List Byte) : Act := extendBy k (sha512 object)

/-! ### Images read from memory -/

/-- The failing checks of an image's place: 64-byte aligned, in HBM or galley memory, within its region. -/
def imageErrs (s : State) (a n : Nat) : List ErrCode :=
  when (a % 64 != 0) .addrAlign ++ rangeErrs s a n ++
  when (!isDataAddr s a && !(rangeErrs s a 1).contains .permission) .addrUnmapped

/-- The bytes of an image; none where a word of it carries a mark (log entry 60). -/
def imageAt (s : State) (a n : Nat) : Option (List Byte) :=
  let x := readLocal s a n
  if x.any Prod.snd then none else some (x.map Prod.fst)

/-- Reading an image: correction and accounting, and a consumption where a word is marked (R330). -/
def imageTouch (p : PageRef) (a n : Nat) : Act :=
  look fun s => onlyIf (firstErr (imageErrs s a n) == .ok) (acts [touchLocal a n,
    look fun t => onlyIf ((readLocal t a n).any Prod.snd) (consume p a)])

/-! ### Firmware images (R409 to R411) -/

/-- Fields of an image. -/
def fwComp (b : List Byte) : Nat := recLE b 4 1
/-- SEC_VERSION. -/
def fwVersion (b : List Byte) : Nat := recLE b 8 4
/-- BODY_LEN. -/
def fwBody (b : List Byte) : Nat := recLE b 12 4
/-- MODULUS, as its 512 bytes. -/
def fwModulus (b : List Byte) : List Byte := (b.drop 64).take 512

/-- Every byte of a field is 0. -/
def zeroField (b : List Byte) (o n : Nat) : Bool := ((b.drop o).take n).all (· == 0)

/-- An image verifies, but for its version (R410). -/
def fwGenuine (s : State) (b : List Byte) : Bool :=
  let n := fwBody b
  decide (recLE b 0 4 = 0xF1A90009) && decide (recLE b 5 1 = 1) && zeroField b 6 2 && zeroField b 16 48 &&
  decide (4096 ≤ n ∧ n ≤ 33554432 ∧ n % 4096 = 0) && decide (b.length = 1088 + n) &&
  decide (beNat (sha512 (fwModulus b)) = s.factory.vendorRoot) &&
  pssVerify (beNat (fwModulus b)) (b.take (576 + n)) (b.drop (576 + n))

/-- A component's rollback floor. -/
def floorOf (s : State) (comp : Nat) : Nat := if comp = 0 then 0 else s.nv.floors.getD (comp - 1) 0

/-- An image verifies for a component (R408, R410). -/
def fwVerifies (s : State) (comp : Nat) (b : List Byte) : Bool :=
  fwGenuine s b && decide (fwComp b = comp) && decide (floorOf s comp ≤ fwVersion b)

/-- The slot in use of a component and the other. -/
def fwSlots (s : State) (comp : Nat) : List Byte × List Byte :=
  let x := s.nv.slots.getD (comp - 1) ([], [])
  if s.nv.active.getD (comp - 1) false then (x.2, x.1) else x

/-- The vendor root modulus: that of an image in flash whose hash is the one in the mask ROM (log entry 61). -/
def vendorModulus (s : State) : Option Nat :=
  ((s.nv.slots.flatMap fun x => [x.1, x.2]).find? fun b => decide (beNat (sha512 (fwModulus b)) = s.factory.vendorRoot)).map
    fun b => beNat (fwModulus b)

/-- The non-volatile state changes. -/
def updNv (f : Nv → Nv) : Act := look fun s => upd (.nv (f s.nv))

/-- The boot state changes. -/
def updBoot (f : Boot → Boot) : Act := look fun s => upd (.boot (f s.boot))

/-! ### Configuration images: acceptance (R418, R419) -/

/-- Entries of a configuration image. -/
def cfN (b : List Byte) : Nat := recLE b 6 2
/-- SEQ. -/
def cfSeq (b : List Byte) : Nat := recLE b 32 8

/-- The code an image of a kind is refused with (R419). -/
def confCode (s : State) (kind : Nat) (img : Option (List Byte)) : ErrCode :=
  match img with
  | none => eConfSignature
  | some b =>
    let n := cfN b
    if !(decide (16 ≤ b.length) && decide (recLE b 0 4 = 0xC0F10009) && decide (recLE b 4 1 = kind) && decide (recLE b 5 1 = 1) &&
      decide (1 ≤ n ∧ n ≤ 4096) && zeroField b 12 4 && zeroField b 40 24 && decide (b.length = 576 + 16 * n) &&
      (List.range n).all fun i => zeroField b (64 + 16 * i + 3) 5) then eConfFormat
    else match s.nv.owner with
      | none => eConfSignature
      | some o =>
        if !pssVerify o.1 (b.take (64 + 16 * n)) (b.drop (64 + 16 * n)) then eConfSignature
        else if !(zeroField b 16 16 || (b.drop 16).take 16 == serialBytes s) || recLE b 8 4 != o.2 then eConfBinding
        else if (if kind = 1 then decide (cfSeq b < floorOf s 5)
          else fb s CONF_JCI_VALID && decide (cfSeq b ≤ fv s CONF_JCI_SEQ)) then eConfStale
        else .ok

/-! ### FW_INSTALL (R411) -/

/-- The failing checks of FW_INSTALL; `b` is the 24-byte body. -/
def fwErrs (s : State) (b : List Byte) : List ErrCode :=
  let op := recLE b 0 1
  let comp := recLE b 1 1
  let a := recLE b 8 8
  let n := recLE b 16 4
  let place := imageErrs s a n
  let img := imageAt s a n
  when (!zeroField b 2 6 || !zeroField b 20 4) .rsvdSet ++
  when (!(op == 1 || op == 2) || comp = 0 || decide (5 < comp)) .fieldRange ++
  (if op = 1 then place ++
    (if firstErr place ≠ .ok then []
    else if comp = 5 then [confCode s 1 img]
    else match img with
      | none => [eSecSignature]
      | some i => when (!fwGenuine s i) eSecSignature ++ when (decide (fwVersion i < floorOf s (fwComp i))) eSecRollback ++
          when (decide (fwComp i ≠ comp)) eSecComponent)
  else [])

/-- STAGE: the image goes to the other slot, which becomes the active one at the next reset; slot 7 is extended. -/
def fwStage (comp : Nat) (img payload : List Byte) : Act := acts [
  updNv fun v => { v with
    slots := v.slots.modify (comp - 1) fun x => if v.active.getD (comp - 1) false then (img, x.2) else (x.1, img)
    active := v.active.modify (comp - 1) not },
  extendSlot 7 (sha512 img ++ [BitVec.ofNat 8 comp]),
  extendSlot 7 payload]

/-- COMMIT: the floor rises to the version now running. -/
def fwCommit (comp : Nat) : Act :=
  look fun s =>
    let f := max (floorOf s comp) (fv s COLO_RUNNING 0 (comp - 1))
    acts [updNv fun v => { v with floors := v.floors.set (comp - 1) f }, setF COLO_FLOOR f 0 (comp - 1)]

/-- An accepted FW_INSTALL. -/
def fwInstall (b payload : List Byte) : Act :=
  look fun s =>
    let comp := recLE b 1 1
    acts [setWords COLO_FW_CMD 0 8 b,
      if recLE b 0 1 = 1 then
        (match imageAt s (recLE b 8 8) (recLE b 16 4) with
          | some i => fwStage comp i payload
          | none => .done)
      else fwCommit comp]

/-! ### Bundles and keys (R415, R416) -/

/-- Whether the identity key can be used (R413, R417). -/
def identityOk (s : State) : Bool := fb s COLO_IDENTITY_OK && decide (fv s COLO_DEBUG < 2)

/-- The keys of KEY_CT's plaintext, by index, empty where the mask names none. -/
def bundleKeys (pt : List Byte) : Option (List (List Byte)) :=
  let mask := recLE pt 0 1
  if mask = 0 ∨ 15 < mask ∨ !zeroField pt 1 3 ∨ pt.length ≠ 4 + 64 * popcount 4 mask then none
  else some ((List.range 4).map fun k =>
    if bit mask k then (pt.drop (4 + 64 * popcount k mask)).take 64 else [])

/-- The code a bundle is refused with, or its keys (R415). -/
def bundleCheck (s : State) (img : Option (List Byte)) : ErrCode × List (List Byte) :=
  match img with
  | none => (eSecOwner, [])
  | some b =>
    match vendorModulus s with
    | none => (eSecOwner, [])
    | some v =>
      if recLE b 0 4 ≠ 0x0E4D0009 ∨ (b.drop 8).take 16 ≠ serialBytes s ∨
        !pssVerify v (b.take 536) ((b.drop 536).take 512) ∨
        !pssVerify (beNat ((b.drop 24).take 512)) (b.take 24 ++ (b.drop 1048).take 512) (b.drop 1560) then (eSecOwner, [])
      else if !identityOk s then (eSecIdentity, [])
      else match (oaepDecrypt s.factory.idModulus s.factory.idPrivate ((b.drop 1048).take 512)).bind bundleKeys with
        | none => (eSecOwner, [])
        | some ks => (.ok, ks)

/-- OWNER_GEN and OWNER_MOD of a bundle. -/
def bundleOwner (b : List Byte) : Nat × Nat := (beNat ((b.drop 24).take 512), recLE b 4 4)

/-- The fingerprint block. -/
def fingerprints (keys : List (List Byte)) : List Byte :=
  keys.flatMap fun k => if k.isEmpty then List.replicate 16 0 else (sha512 k).take 16

/-- Enrolled keys as a mask. -/
def keyMask (keys : List (List Byte)) : Nat := sumN (keys.zipIdx.map fun x => if x.1.isEmpty then 0 else 2 ^ x.2)

/-- Slot 5 takes the owner's enrolment record and the fingerprint block (R412). -/
def measureOwner : Act := look fun s => acts [extendSlot 5 s.nv.enrol, extendSlot 5 (fingerprints s.nv.keys)]

/-- The owner registers show what flash holds. -/
def showOwner : Act :=
  look fun s => acts [setF COLO_OWNER_STATE (b2n s.nv.owner.isSome), setF COLO_OWNER_GEN ((s.nv.owner.map Prod.snd).getD 0),
    setF COLO_KEYS (keyMask s.nv.keys)]

/-- An owner and keys take effect: new keys of the mask, and of the others the old ones where they are kept. -/
def ownerInstall (b : List Byte) (keys : List (List Byte)) (keep : Bool) : Act := acts [
  updNv fun v => { v with
    owner := some (bundleOwner b)
    enrol := b.take 536
    keys := List.zipWith (fun new old => if new.isEmpty && keep then old else new) keys v.keys },
  showOwner, measureOwner]

/-- The failing checks of ENROL_GO (R416). -/
def enrolErrs (s : State) : List ErrCode :=
  let a := fv s COLO_ENROL_ADDR
  let place := imageErrs s a 2072
  place ++ (if firstErr place = .ok then [(bundleCheck s (imageAt s a 2072)).1] else []) ++
  when s.nv.owner.isSome eSecState

/-- ENROL_GO (R416). -/
def enrol : Act :=
  look fun s => match imageAt s (fv s COLO_ENROL_ADDR) 2072 with
    | some b => acts [ownerInstall b (bundleCheck s (some b)).2 true, raiseEvt coloPg (2 ^ 17)]
    | none => .done

/-- The failing checks of KEY_CHANGE; `b` is the 16-byte body. -/
def keyErrs (s : State) (b : List Byte) : List ErrCode :=
  let op := recLE b 0 1
  let a := recLE b 8 8
  let place := imageErrs s a 2072
  let img := imageAt s a 2072
  when (!zeroField b 2 6 || decide (4 ≤ recLE b 1 1)) .rsvdSet ++
  when (op = 0 || decide (3 < op) || (op == 3 && a != 0)) .fieldRange ++
  (if op = 1 ∨ op = 2 then place ++
    (if firstErr place ≠ .ok then []
    else [(bundleCheck s img).1] ++
      (match img with
        | some i => when (if op = 1 then s.nv.owner != some (bundleOwner i)
            else decide ((bundleOwner i).2 ≤ (s.nv.owner.map Prod.snd).getD 0)) eSecOwner
        | none => []))
  else if op = 3 then
    when (decide (keyMask s.nv.keys = 2 ^ recLE b 1 1)) eSecState
  else [])

/-- An accepted KEY_CHANGE: owner and keys change, slots 5 and 7 are extended. -/
def keyChange (b payload : List Byte) : Act :=
  look fun s =>
    let op := recLE b 0 1
    let go := fun keep => match imageAt s (recLE b 8 8) 2072 with
      | some i => ownerInstall i (bundleCheck s (some i)).2 keep
      | none => .done
    acts [setWords COLO_KEY_CMD 0 8 b,
      if op = 1 then go true
      else if op = 2 then acts [go false, raiseEvt coloPg (2 ^ 17)]
      else acts [updNv fun v => { v with keys := v.keys.set (recLE b 1 1) [] }, showOwner, measureOwner],
      extendSlot 7 payload,
      raiseEvt coloPg (2 ^ 18)]

/-! ### Debug (R417) -/

/-- The failing checks of DEBUG_UNLOCK; `b` is the 8-byte body. -/
def debugErrs (s : State) (b : List Byte) : List ErrCode :=
  let lvl := recLE b 0 1
  when (!zeroField b 1 7) .rsvdSet ++ when (lvl = 0 || decide (2 < lvl)) .fieldRange ++
  when (decide (lvl ≤ fv s COLO_DEBUG)) eSecState

/-- An accepted DEBUG_UNLOCK. -/
def debugUnlock (b payload : List Byte) : Act := acts [
  setF COLO_DEBUG_CMD (leNat b), setF COLO_DEBUG (recLE b 0 1), extendSlot 7 payload, raiseEvt coloPg (2 ^ 19)]

/-! ### Quotes and certificate copies (R414) -/

/-- The failing checks of a write of OP with value `v`. -/
def opErrs (s : State) (v : Nat) : List ErrCode :=
  when (fb s COLO_COLO_BUSY) .stateBusy ++
  when (bit v 8 && (bits v 1 0 == 0 || bits v 1 0 == 3)) .fieldRange ++
  when (bit v 8 && bits v 1 0 == 1 && !identityOk s) eSecIdentity ++
  (if bit v 9 then enrolErrs s else [])

/-- A write of OP. -/
def opApply (v : Nat) : Act := acts [
  onlyIf (bit v 9) enrol,
  onlyIf (bit v 8) (acts [setF COLO_COLO_BUSY 1, updBoot fun b => { b with op := some (bits v 1 0) }])]

/-- Bytes 0 to 711 of a quote. -/
def quoteBody (s : State) : List Byte :=
  leBytes 4 0x51D90001 ++ leBytes 2 1224 ++ leBytes 2 0 ++ serialBytes s ++ leBytes 2 (linkMask s.build) ++
  leBytes 1 (level s) ++ leBytes 1 (fv s COLO_DEBUG) ++ leBytes 4 0 ++ coloBytes s COLO_NONCE 0 8 ++
  coloBytes s COLO_MSLOT 0 64 ++ ((List.range 5).flatMap fun c => leBytes 4 (fv s COLO_FLOOR 0 c)) ++
  leBytes 4 (fv s CONF_JCI_SEQ) ++ leBytes 4 (fv s COLO_OWNER_GEN) ++ leBytes 4 0 ++
  (match s.nv.owner with | some o => sha512 (beBytes 512 o.1) | none => List.replicate 64 0) ++
  leBytes 6 (if unsync s then 0 else s.press.imp) ++ leBytes 2 0

/-- A copy's 2,048 bytes of the certificate. -/
def certBytes (s : State) : List Byte :=
  let x := (s.factory.cert.drop (fv s COLO_CERT_OFS)).take 2048
  x ++ List.replicate (2048 - x.length) 0

/-- QUOTE_DONE: what was asked for stands in OUT. A quote's salt is random: free values. -/
def quoteDone : Act :=
  look fun s => match s.boot.op with
    | none => .done
    | some op => acts [
        (if op = 1 then withFrees 8 fun salt =>
            let m := quoteBody s
            setWords COLO_OUTBUF 0 4 (m ++ pssSign s.factory.idModulus s.factory.idPrivate m (salt.flatMap (leBytes 8)))
          else setWords COLO_OUTBUF 0 4 (certBytes s)),
        setF COLO_COLO_BUSY 0, updBoot fun b => { b with op := none },
        sendTarget0 (srcOf coloPg) (fv s COLO_QUOTE_DONE), raiseEvt coloPg (2 ^ 16)]

/-- A COLO soft reset abandons a running quote (R426). -/
def coloReset : Act := acts [setF COLO_COLO_BUSY 0, updBoot fun b => { b with op := none }]

/-- QUOTE_DONE (R414). -/
def execQuoteDone (s : State) : Host.Outcome State Fault Refusal := .next (quoteDone.run s)

end Sys2Proof.Machine
end

