-- ==== Sys2Proof/Machine/ConfRec.lean ====
section
/-! DEFINITION. Configuration images, pass 1 (R420 to R423): the applied value of every field and the clamp records. -/

namespace Sys2Proof.Machine

/-- How a field's row treats its value (R420, R422, R423). -/
inductive Treat where
  /-- Any value of a number of bits; the bits above are reserved. -/
  | any (width : Nat)
  | ranged (lo hi : Nat)
  /-- A permitted set, rising. -/
  | among (l : List Nat)
  /-- Legal codes, and the default. -/
  | enum (legal : List Nat) (dflt : Nat)
  /-- A node ID; the pattern is a dependent rule's. -/
  | node
  /-- A register layout: the bits it defines. -/
  | layout (mask : Nat)
  /-- VLAN_EN and VLAN_ID. -/
  | vlan
  /-- CMD_OK, EN and PLEN. -/
  | allow
deriving DecidableEq, Repr

/-- A row of R422 or R423. -/
structure ConfRow where
  id : Nat
  sect : Nat
  treat : Treat
deriving DecidableEq, Repr

/-- The DCI's fields (R422), in FIELD_ID order. -/
def dciRows (b : Build) : List ConfRow :=
  [⟨0x0101, 2, .node⟩,
   ⟨0x0102, 2, .enum (rangeF 4 fun m => (topoMax b m).isSome) (if b = .h10l2 then 2 else 0)⟩,
   ⟨0x0103, 2, .ranged 1 48⟩, ⟨0x0104, 2, .among [1, 2, 4, 8, 16]⟩,
   ⟨0x0111, 1, .any 32⟩, ⟨0x0112, 1, .any 64⟩, ⟨0x0113, 1, .any 64⟩, ⟨0x0114, 1, .ranged 1280 9000⟩,
   ⟨0x0115, 1, .vlan⟩, ⟨0x0116, 1, .layout 0x77FF⟩] ++
  (List.range 8).map (fun a => ⟨0x0120 + a, 1, .any 64⟩) ++ (List.range 8).map (fun a => ⟨0x0128 + a, 1, .any 64⟩) ++
  (List.range 8).map (fun a => ⟨0x0130 + a, 1, .allow⟩) ++
  [⟨0x0140, 3, .ranged 1 10080⟩, ⟨0x0141, 3, .ranged 1 1440⟩, ⟨0x0142, 3, .ranged 500 1500⟩]

/-- The JCI's fields (R423), in FIELD_ID order. -/
def jciRows : List ConfRow :=
  [⟨0x0201, 5, .any 64⟩, ⟨0x0202, 4, .enum [0, 1] 0⟩, ⟨0x0203, 4, .ranged 20000 100000000⟩,
   ⟨0x0204, 4, .ranged 20000 100000000⟩, ⟨0x0205, 4, .ranged 20000 100000000⟩, ⟨0x0206, 4, .layout 0x80FF3FFF⟩,
   ⟨0x0207, 4, .ranged 0 (2 ^ 20 - 1)⟩, ⟨0x0210, 5, .ranged 1 255⟩, ⟨0x0211, 5, .enum [0, 1] 0⟩]

/-- The rows of an image's kind: 1 DCI, 2 JCI. -/
def confRows (b : Build) (kind : Nat) : List ConfRow := if kind = 1 then dciRows b else jciRows

/-- A clamp record's REASON codes (R421). -/
def cAbove : Nat := 1
/-- BELOW_MIN. -/
def cBelow : Nat := 2
/-- ROUNDED. -/
def cRounded : Nat := 3
/-- RESERVED_CLEARED. -/
def cReserved : Nat := 4
/-- DEFAULTED. -/
def cDefaulted : Nat := 5
/-- UNKNOWN_FIELD. -/
def cUnknown : Nat := 6
/-- DUPLICATE. -/
def cDuplicate : Nat := 7
/-- DEPENDENT. -/
def cDependent : Nat := 8
/-- ABSENT. -/
def cAbsent : Nat := 9

/-- A range's clamp: the reason and the new value, where it changes. -/
def clampTo (lo hi v : Nat) : List (Nat × Nat) :=
  if hi < v then [(cAbove, hi)] else if v < lo then [(cBelow, lo)] else []

/-- Reserved bits cleared, where any is set. -/
def keepBits (mask v : Nat) : List (Nat × Nat) := if v &&& mask = v then [] else [(cReserved, v &&& mask)]

/-- The value after a list of changes. -/
def lastValue (v : Nat) (l : List (Nat × Nat)) : Nat := (l.getLast?.map Prod.snd).getD v

/-- A part of a register clamped: bits [hi:lo] of the value. -/
def clampPart (v hi lo min_ max_ : Nat) : List (Nat × Nat) :=
  (clampTo min_ max_ (bits v hi lo)).map fun x => (x.1, setBits v hi lo x.2)

/-- The changes a row makes to a value, in order: reason and new value (R420). -/
def treatValue (t : Treat) (v : Nat) : List (Nat × Nat) :=
  match t with
  | .any w => keepBits (2 ^ w - 1) v
  | .ranged lo hi => clampTo lo hi v
  | .among l =>
    let c := clampTo (l.headD 0) (l.getLast?.getD 0) v
    if !c.isEmpty ∨ l.contains v then c else [(cRounded, ((l.filter (· < v)).getLast?).getD 0)]
  | .enum l d => if l.contains v then [] else [(cDefaulted, d)]
  | .node => if v < 2 ^ 14 then [] else [(cDefaulted, 0)]
  | .layout m => keepBits m v
  | .vlan =>
    let a := keepBits 0x1FFF v
    let x := lastValue v a
    a ++ (if bit x 12 then clampPart x 11 0 1 4094 else [])
  | .allow =>
    let a := keepBits 0x3FF v
    a ++ clampPart (lastValue v a) 7 0 0 128

/-- A clamp record (R421): FIELD_ID, SECTION, REASON, GIVEN, APPLIED. -/
structure Clamp where
  id : Nat
  sect : Nat
  reason : Nat
  given : Nat
  applied : Nat
deriving DecidableEq, Repr

/-- The records of a value's changes. A given value beyond 48 bits is reported ABOVE_MAX. -/
def clampsOf (id sect : Nat) : Nat → List (Nat × Nat) → List Clamp
  | _, [] => []
  | v, c :: l => ⟨id, sect, if v < 2 ^ 48 then c.1 else cAbove, v, c.2⟩ :: clampsOf id sect c.2 l

/-- A record's 16 bytes. -/
def clampBytes (c : Clamp) : List Byte :=
  leBytes 2 c.id ++ leBytes 1 c.sect ++ leBytes 1 c.reason ++ leBytes 6 c.given ++ leBytes 6 c.applied

/-- What pass 1 has decided: applied values by FIELD_ID, FIELD_IDs seen, records. -/
structure Pass where
  vals : List (Nat × Nat)
  clamps : List Clamp
deriving DecidableEq, Repr

/-- An applied value of a pass. -/
def Pass.val (p : Pass) (id : Nat) : Option Nat := (p.vals.find? fun x => x.1 == id).map Prod.snd

/-- One entry (R420). -/
def passEntry (rows : List ConfRow) (p : Pass) (id sect v : Nat) : Pass :=
  match rows.find? fun r => r.id == id && r.sect == sect with
  | none => { p with clamps := p.clamps ++ [⟨id, sect, cUnknown, v, 0⟩] }
  | some r =>
    if (p.val id).isSome then { p with clamps := p.clamps ++ [⟨id, sect, cDuplicate, v, 0⟩] }
    else
      let c := treatValue r.treat v
      ⟨p.vals ++ [(id, lastValue v c)], p.clamps ++ clampsOf id sect v c⟩

/-- A dependent rule gives a field a value, where that is a change. -/
def passDepend (p : Pass) (id sect now new : Nat) : Pass :=
  if new = now then p
  else ⟨(p.vals.filter fun x => x.1 != id) ++ [(id, new)], p.clamps ++ [⟨id, sect, cDependent, now, new⟩]⟩

/-- The current value of a field a dependent rule uses. -/
def confCurrent (s : State) (id : Nat) : Nat :=
  match id with
  | 0x0101 => fv s LINK_HOME_ID
  | 0x0102 => fv s LINK_TMODE
  | 0x0103 => fv s LINK_NS
  | 0x0104 => fv s LINK_NF
  | 0x0204 => fv s PRES_GATE_MIN
  | 0x0205 => fv s PRES_GATE_MAX
  | _ => 0

/-- The dependent rules of the DCI: NS and NF within the mode's limits, HOME_ID within the pattern (R422). -/
def dciDepend (s : State) (p : Pass) : Pass :=
  let v := fun (p : Pass) id => (p.val id).getD (confCurrent s id)
  let mode := v p 0x0102
  match topoMax s.build mode with
  | none => p
  | some x =>
    let p := passDepend p 0x0103 2 (v p 0x0103) (min (v p 0x0103) x.1)
    let p := passDepend p 0x0104 2 (v p 0x0104) (min (v p 0x0104) x.2)
    if nodeAssigned (topoOf mode) (v p 0x0103) (v p 0x0104) (v p 0x0101) then p
    else passDepend p 0x0101 2 (v p 0x0101) 0

/-- The dependent rule of the JCI: GATE_MIN at most GATE_MAX (R423). -/
def jciDepend (s : State) (p : Pass) : Pass :=
  let v := fun id => (p.val id).getD (confCurrent s id)
  passDepend p 0x0204 4 (v 0x0204) (min (v 0x0204) (v 0x0205))

/-- JOB_SEED is required: where it is missing its default is applied and reported (R423). -/
def passAbsent (p : Pass) : Pass :=
  if (p.val 0x0201).isSome then p else ⟨p.vals ++ [(0x0201, 0)], p.clamps ++ [⟨0x0201, 5, cAbsent, 0, 0⟩]⟩

/-- Pass 1 of an image (R420). -/
def pass1 (s : State) (kind : Nat) (b : List Byte) : Pass :=
  let rows := confRows s.build kind
  let p := (List.range (cfN b)).foldl (fun p i =>
    let o := 64 + 16 * i
    passEntry rows p (recLE b o 2) (recLE b (o + 2) 1) (recLE b (o + 8) 8)) ⟨[], []⟩
  if kind = 1 then dciDepend s p else jciDepend s (passAbsent p)

end Sys2Proof.Machine
end

