-- ==== Sys2Proof/Machine/Sched.lean ====
section
/-! DEFINITION. Schedule entries (R69 to R72), bubble windows (R73, R74), and the edge of an impression (R52, R53). -/

namespace Sys2Proof.Machine

/-! ### Posting and cancelling (R69 to R72) -/

/-- The entry staged in SCHED_W0 to SCHED_W3. -/
def staged (s : State) (handle : Nat) : SchedEntry :=
  let w1 := fv s PRES_SCHED_W 0 1
  let w2 := fv s PRES_SCHED_W2
  { handle := handle
    imp := fv s PRES_SCHED_W 0 0 + bits w1 15 0 * 2 ^ 32
    pt := bits w1 31 16
    action := bits w2 7 0
    loc := bits w2 15 8
    index := bits w2 27 16
    arg := fv s PRES_SCHED_W3 }

/-- LOC and INDEX name a tile of that die. -/
def tileTarget (loc index : Nat) : Bool := (loc == 0x10 && decide (index < 72)) || (loc == 0x11 && decide (72 ≤ index) && decide (index < 144))

/-- An action admits its target (R70). -/
def targetOk (b : Build) (e : SchedEntry) : Bool :=
  match e.action with
  | 1 | 4 => tileTarget e.loc e.index
  | 2 | 3 => isHbmSite b e.loc && e.index == 0
  | 5 => isLinkSite b e.loc && decide (e.index < 6)
  | 6 => (proofSlot e.loc e.index).isSome
  | 7 => e.loc == 0x18 && e.index == 0
  | _ => false

/-- The instant of an entry. -/
def SchedEntry.at_ (e : SchedEntry) : Nat := instant e.imp e.pt

/-- The failing checks of a post (R54, R70, R71). -/
def postErrs (s : State) : List ErrCode :=
  let e := staged s 0
  when (unsync s) .stateNotReady ++ when (!targetOk s.build e) .fieldRange ++
  when (decide (e.at_ < curInstant s)) .impressionPast ++
  when (decide (s.press.imp + 16777216 < e.imp)) eSchedHorizon ++
  when (decide (1024 ≤ s.press.sched.length)) .capacity

/-- Handles no entry holds. -/
def freeHandles (s : State) : List Nat := rangeF 1024 fun h => s.press.sched.all fun e => e.handle != h

/-- An accepted post: which free handle it takes is open. -/
def postApply : Act :=
  withFree fun v => look fun s =>
    let l := freeHandles s
    let h := l.getD (v % max 1 l.length) 0
    acts [updPress fun p => { p with sched := p.sched ++ [staged s h] }, setF PRES_HANDLE_VALID 1, setF PRES_HANDLE h]

/-- The failing checks of a cancel. -/
def cancelErrs (s : State) (h : Nat) : List ErrCode := when (s.press.sched.all fun e => e.handle != h) eHandleUnknown

/-- An accepted cancel. -/
def cancelApply (h : Nat) : Act := updPress fun p => { p with sched := p.sched.filter fun e => e.handle != h }

/-! ### Actions (R70, R72) -/

/-- The page an action's rejection is recorded in. -/
def actionPage (s : State) (e : SchedEntry) : PageRef :=
  match e.action with
  | 1 | 4 => ⟨.tile, physOf s e.index⟩
  | 2 | 3 => ⟨.updt, e.loc⟩
  | 5 => ⟨.link, 6 * linkOrd s.build e.loc + e.index⟩
  | _ => hlthPage

/-- A page turns away an action: it is retired, in soft reset, or, for a request, disabled. -/
def actionPageErrs (s : State) (p : PageRef) (request : Bool) : List ErrCode :=
  when (pageRetired s p && p.blk != .tile) .retiredUnit ++ when (request && !enabled s p) .stateNotReady ++
    when (inSrst s p) .stateBusy

/-- The failing checks of SPARE_SUBSTITUTE (R101). -/
def substErrs (s : State) (tile : Nat) : List ErrCode :=
  let u := UnitId.tile (physOf s tile)
  when (!tileBacked s tile) .retiredUnit ++
  when (substPending s tile || s.units.proving.contains u || quarantined s u) .stateBusy ++
  when (sparesLeft s (dieOfTile tile) == 0) .capacity

/-- ARG sets a bit that its action does not name (R70): the action is delivered as a write (R72, R7). -/
def argReserved (e : SchedEntry) : Bool :=
  match e.action with
  | 1 => e.arg / 2 ^ 28 != 0
  | 4 | 6 => e.arg != 0
  | 5 => e.arg / 16 != 0
  | _ => false

/-- The failing checks of an action at its target. -/
def actionErrs (s : State) (e : SchedEntry) : List ErrCode :=
  let p := actionPage s e
  when (argReserved e) .rsvdSet ++
  match e.action with
  | 1 => actionPageErrs s p false ++ when (!tileBacked s e.index) .retiredUnit
  | 2 => actionPageErrs s p true ++ installErrs s e.loc e.arg
  | 3 => actionPageErrs s p true ++ freezeErrs s e.loc e.arg
  | 4 => actionPageErrs s p false ++ substErrs s e.index
  | 5 => actionPageErrs s p true ++ laneErrs s p.idx
  | 6 => actionPageErrs s p true ++ (match proofSlot e.loc e.index with | some k => proofErrs s k | none => [.fieldRange])
  | _ => []

/-- The EVENT action (R72). -/
def schedEvent (handle arg : Nat) : Act :=
  look fun s => acts [
    if fb s PRES_SEVT_VALID then setF PRES_SEVT_MULTI 1
    else acts [setF PRES_SEVT_VALID 1, setF PRES_SEVT_HANDLE handle, setF PRES_SEVT_ARG arg],
    raiseEvt presPage (2 ^ 22)]

/-- What an accepted action does. -/
def actionApply (e : SchedEntry) : Act :=
  match e.action with
  | 1 => deliverInc e.index (bits e.arg 7 0) (bits e.arg 27 8)
  | 2 => install e.loc e.arg e.imp
  | 3 => freeze e.loc e.arg
  | 4 => look fun s => retireUnit (.tile (physOf s e.index))
  | 5 => look fun s => laneRequest (6 * linkOrd s.build e.loc + e.index) (bits e.arg 3 0)
  | 6 => look fun s => match proofSlot e.loc e.index with
    | some k => proofStart (.tile (physOf s k))
    | none => .done
  | _ => schedEvent e.handle e.arg

/-- ACTION_FAIL (R72). -/
def actionFail (handle : Nat) (c : ErrCode) : Act :=
  look fun s => acts [
    if fb s PRES_AFAIL_VALID then setF PRES_AFAIL_MULTI 1
    else acts [setF PRES_AFAIL_VALID 1, setF PRES_AFAIL_CODE (errNum c), setF PRES_AFAIL_HANDLE handle],
    raiseEvt presPage (2 ^ 21)]

/-- An action is delivered to its target. -/
def deliverAction (e : SchedEntry) (k : ErrCode → Act) : Act :=
  look fun s =>
    let c := firstErr (actionErrs s e)
    if c = .ok then acts [actionApply e, k .ok] else acts [recordReject (actionPage s e) 0 c, k c]

/-- An action whose target's Update Engine is in quarantine waits (R435). -/
def actionWaits (s : State) (e : SchedEntry) : Bool :=
  (e.action == 2 || e.action == 3) && quarantined s (.ue e.loc)

/-- An entry fires: it is consumed whatever its target answers. -/
def fireEntry (e : SchedEntry) : Act := acts [
  updPress fun p => { p with sched := p.sched.filter fun x => x.handle != e.handle },
  deliverAction e fun c => onlyIf (c != .ok) (actionFail e.handle c)]

/-- The entry that fires next before an instant: the earliest, and of one instant the first posted. -/
def nextEntry (s : State) (before : Nat) : Option SchedEntry :=
  (s.press.sched.filter fun e => decide (e.at_ < before) && !actionWaits s e).foldl
    (fun b e => match b with
      | some x => if e.at_ < x.at_ then some e else b
      | none => some e) none

/-- SCHED_FIRE: the next entry whose instant is reached. -/
def schedFire (elapsed : Nat) : Act :=
  acts [timeTo elapsed, look fun s => match nextEntry s (curInstant s + 1) with
    | some e => onlyIf (reached s e.at_ && !inSrst s presPage) (fireEntry e)
    | none => .done]

/-! ### Bubble windows (R73, R74) -/

/-- Two windows of one impression overlap. -/
def windowsMeet (s : State) (a b : Nat) : Bool :=
  fv s PRES_BUB_OFFSET 0 a == fv s PRES_BUB_OFFSET 0 b &&
    decide (fv s PRES_BUB_START 0 a ≤ fv s PRES_BUB_END 0 b) && decide (fv s PRES_BUB_START 0 b ≤ fv s PRES_BUB_END 0 a)

/-- The failing checks of a BUB_CTL write (R74). -/
def bubErrs (s : State) (v : Nat) : List ErrCode :=
  let n := bits v 22 16
  let cycle := bits v 15 0
  let ws := List.range (min n 64)
  when (fb s PRES_BUB_EN && (n != fv s PRES_BUB_COUNT || cycle != fv s PRES_BUB_CYCLE)) .stateBusy ++
  (if bit v 31 then
    when (cycle == 0 || decide (64 < n)) .fieldRange ++
    when ((ws.any fun w => decide (fv s PRES_BUB_END 0 w < fv s PRES_BUB_START 0 w) || decide (cycle ≤ fv s PRES_BUB_OFFSET 0 w)) ||
      !allPairs (fun a b => !windowsMeet s a b) ws) eBubbleOverlap
  else [])

/-- What an accepted BUB_CTL write does: clearing EN closes every window at once. -/
def bubApply (v : Nat) : Act := onlyIf (!bit v 31) (updPress fun p => { p with
  bubOn := false
  open_ := [] })

/-- Window w is in its impression (R73). -/
def windowHere (s : State) (w : Nat) : Bool :=
  s.press.bubOn && fb s PRES_BUB_EN && decide (w < fv s PRES_BUB_COUNT) && !unsync s && s.press.synced &&
    decide (fv s PRES_BUB_ORIGIN ≤ s.press.imp) &&
    (s.press.imp - fv s PRES_BUB_ORIGIN) % max 1 (fv s PRES_BUB_CYCLE) == fv s PRES_BUB_OFFSET 0 w

/-- BUBBLE_WINDOW_OPEN: the point is in [START, END]. -/
def windowStart (w elapsed : Nat) : Act :=
  acts [timeTo elapsed, look fun s =>
    onlyIf (windowHere s w && !s.press.open_.contains w && decide (fv s PRES_BUB_START 0 w ≤ s.press.pt) &&
        decide (s.press.pt ≤ fv s PRES_BUB_END 0 w)) (acts [
      onlyIf (!windowOpen s) (upd (.bkUsed (s.bkUsed.filter fun x => decide (8 ≤ x.1)))),
      updPress fun p => { p with open_ := p.open_ ++ [w] }])]

/-- BUBBLE_WINDOW_CLOSE: the point is past END; a window that ends at 65,535 stays open until the edge. -/
def windowEnd (w elapsed : Nat) : Act :=
  acts [timeTo elapsed, look fun s =>
    onlyIf (s.press.open_.contains w && decide (fv s PRES_BUB_END 0 w < s.press.pt))
      (updPress fun p => { p with open_ := p.open_.filter (· != w) })]

/-! ### The edge (R52, R53, R57) -/

/-- Entries before an instant fire, at most n of them; those whose point was skipped are counted (R53). -/
def fireBefore (bound pt : Nat) : Nat → Act
  | 0 => .done
  | n + 1 => look fun s => match nextEntry s bound with
    | none => .done
    | some e => acts [
        onlyIf (e.imp == s.press.imp && decide (pt < e.pt)) (acts [incF PRES_CNT_SKIPPED, raiseEvt presPage (2 ^ 20)]),
        fireEntry e, fireBefore bound pt n]

/-- What a new impression sets in the press. -/
def newImpression (e : EdgePlan) : Act := acts [
  look fun s => updPress fun p => { p with
    imp := e.imp
    pt := 0
    elapsed := 0
    synced := true
    gated := e.gated
    edge := none
    issued := false
    forced := fv s PRES_READY_THRESH == 0
    children := 0
    readySent := false
    held := false
    open_ := []
    bubOn := fb s PRES_BUB_EN },
  setF PRES_PERIOD_CUR e.period, setF PRES_READY_CNT 0]

/-- IMPRESSION_EDGE: what was skipped fires first; then the point is 0 of the new impression. -/
def impressionEdge (elapsed : Nat) : Act :=
  acts [timeTo elapsed, look fun s => match s.press.edge with
    | none => .done
    | some e =>
      let n := s.press.sched.length
      let pf := match s.press.slot with | some (_, x) => instant s.press.imp x.pfPoint | none => 0
      onlyIf (!unsync s && (!s.press.synced || decide (s.press.imp < e.imp))) (acts [
        onlyIf (s.press.synced && !inSrst s presPage) (acts [
          fireBefore pf s.press.pt n, planPrefetchNow, fireBefore (instant e.imp 0) s.press.pt n]),
        newImpression e,
        updUnits fun u => { u with subst := u.subst.map fun x => { x with edges := x.edges + 1 } },
        upd (.bkUsed []),
        countWaitEdges, planEdge e.imp, readySend])]

/-! ### Rows -/

/-- IMPRESSION_EDGE (R52). -/
def execImpressionEdge (elapsed : Nat) (s : State) : Host.Outcome State Fault Refusal := .next ((impressionEdge elapsed).run s)
/-- SCHED_FIRE (R72). -/
def execSchedFire (elapsed : Nat) (s : State) : Host.Outcome State Fault Refusal := .next ((schedFire elapsed).run s)
/-- SCHED_EVENT (R72). -/
def execSchedEvent (handle arg : Nat) (s : State) : Host.Outcome State Fault Refusal := .next ((schedEvent handle arg).run s)
/-- TOKEN_INC, as the action delivers it (R70). -/
def execTokenInc (loc tile arg : Nat) (s : State) : Host.Outcome State Fault Refusal :=
  .next ((onlyIf (tileTarget loc tile) (deliverAction ⟨0, 0, 0, 1, loc, tile, arg⟩ fun _ => .done)).run s)
/-- PRECOND_INSTALL (R201): the action fires now. -/
def execPrecondInstall (loc group : Nat) (s : State) : Host.Outcome State Fault Refusal :=
  .next ((onlyIf (isHbmSite s.build loc) (deliverAction ⟨0, s.press.imp, s.press.pt, 2, loc, 0, group⟩ fun _ => .done)).run s)
/-- SNAPSHOT_FREEZE (R298). -/
def execSnapshotFreeze (loc group : Nat) (s : State) : Host.Outcome State Fault Refusal :=
  .next ((onlyIf (isHbmSite s.build loc) (deliverAction ⟨0, s.press.imp, s.press.pt, 3, loc, 0, group⟩ fun _ => .done)).run s)
/-- SPARE_SUBSTITUTE (R101). -/
def execSpareSubstitute (loc tile : Nat) (s : State) : Host.Outcome State Fault Refusal :=
  .next ((onlyIf (tileTarget loc tile) (deliverAction ⟨0, 0, 0, 4, loc, tile, 0⟩ fun _ => .done)).run s)
/-- LANE_RETRAIN (R361). -/
def execLaneRetrain (loc link lane : Nat) (s : State) : Host.Outcome State Fault Refusal :=
  .next ((onlyIf (isLinkSite s.build loc && decide (link < 6)) (deliverAction ⟨0, 0, 0, 5, loc, link, lane⟩ fun _ => .done)).run s)
/-- PROOF_PASS (R437). -/
def execProofPass (loc index : Nat) (s : State) : Host.Outcome State Fault Refusal :=
  .next ((onlyIf (proofSlot loc index).isSome (deliverAction ⟨0, 0, 0, 6, loc, index, 0⟩ fun _ => .done)).run s)
/-- BUBBLE_WINDOW_OPEN (R73). -/
def execBubbleWindowOpen (window elapsed : Nat) (s : State) : Host.Outcome State Fault Refusal :=
  .next ((windowStart window elapsed).run s)
/-- BUBBLE_WINDOW_CLOSE (R73). -/
def execBubbleWindowClose (window elapsed : Nat) (s : State) : Host.Outcome State Fault Refusal :=
  .next ((windowEnd window elapsed).run s)

end Sys2Proof.Machine
end

