-- ==== Sys2Proof/Machine/Eth.lean ====
section
/-! DEFINITION. The Ethernet port (R387 to R393): frames, pause, congestion, PTP, queue pairs, memory windows, the RoCEv2
responder, and the requester that carries snapshot streams. -/

namespace Sys2Proof.Machine

/-- The ENET page. -/
def enetPg : PageRef := ⟨.enet, 0⟩

/-- The port's hidden state changes. -/
def updEth (f : Eth → Eth) : Act := look fun s => upd (.eth (f s.eth))

/-- A counter of the ENET page, in the order of R404. -/
def ethCnt (n : Nat) : Act := cnt ENET_ECNT n

/-! ### Frames (R387, R388) -/

/-- Big-endian field of a frame's body. -/
def be (b : List Byte) (o n : Nat) : Nat := beNat ((b.drop o).take n)

/-- The ones' complement sum of 16-bit words, folded. -/
def onesSum (b : List Byte) : Nat :=
  let t := sumN ((List.range (ceilDiv b.length 2)).map fun i => (b.getD (2 * i) 0).toNat * 256 + (b.getD (2 * i + 1) 0).toNat)
  let f := t % 65536 + t / 65536
  f % 65536 + f / 65536

/-- The UDP checksum of a datagram is right: with the pseudo-header; an IPv4 checksum of 0 is accepted. -/
def udpOk (v4 : Bool) (pseudo udp : List Byte) : Bool := (v4 && be udp 6 2 == 0) || onesSum (pseudo ++ udp) == 65535

/-- UDP ports the device serves: RoCEv2, Slaiq, PTP. -/
def udpPort (udp : List Byte) : Bool := [4791, 47600, 319, 320].contains (be udp 2 2)

/-- A transport payload is one the port handles: an echo request, or a datagram to a served port. -/
def payloadOk (v4 : Bool) (proto : Nat) (pseudo pay : List Byte) : Bool :=
  if proto = 17 then decide (8 ≤ pay.length) && udpPort pay && udpOk v4 pseudo pay
  else if v4 then proto == 1 && be pay 0 1 == 8
  else proto == 58 && (be pay 0 1 == 128 || be pay 0 1 == 135)

/-- An IPv4 packet without options, not a fragment, to the device or a group. -/
def ip4Ok (s : State) (b : List Byte) : Bool :=
  let dst := be b 16 4
  let pay := (b.drop 20).take (be b 2 2 - 20)
  fv s ENET_IP4 != 0 && be b 0 1 == 0x45 && be b 6 2 % 16384 == 0 && (dst == fv s ENET_IP4 || dst / 2 ^ 28 == 14) &&
    payloadOk true (be b 9 1) ((b.drop 12).take 8 ++ beBytes 2 (be b 9 1) ++ beBytes 2 pay.length) pay

/-- The device's IPv6 address. -/
def ownIp6 (s : State) : Nat := fv s ENET_IP6_HI * 2 ^ 64 + fv s ENET_IP6_LO

/-- An IPv6 packet without extension headers, to the device or a group. -/
def ip6Ok (s : State) (b : List Byte) : Bool :=
  let dst := be b 24 16
  let pay := (b.drop 40).take (be b 4 2)
  ownIp6 s != 0 && be b 0 1 / 16 == 6 && (dst == ownIp6 s || dst / 2 ^ 120 == 255) &&
    payloadOk false (be b 6 1) ((b.drop 8).take 32 ++ beBytes 4 pay.length ++ beBytes 4 (be b 6 1)) pay

/-- A frame's priority: its tag's PCP. -/
def framePrio (f : EthFrame) : Nat := ((f.tags.head?).map Prod.snd).getD 0 % 8

/-- A frame is one of R387. -/
def frameOk (s : State) (f : EthFrame) : Bool :=
  decide (f.len ≤ 9216) &&
  (match f.tags with
    | [] => true
    | [t] => fb s ENET_VLAN_EN && t.1 == fv s ENET_VLAN_ID
    | _ => false) &&
  (match f.etherType with
    | 0x0800 => ip4Ok s f.body
    | 0x86DD => ip6Ok s f.body
    | 0x0806 => fv s ENET_IP4 != 0
    | 0x8808 => be f.body 0 2 == 0x0101
    | _ => false)

/-- A priority's share of the receive buffer crosses 1 MiB upwards, or 768 KiB downwards. -/
def pfcCheck (prio fill : Nat) : Act :=
  look fun s =>
    let on := bit (fv s ENET_PFC_EN) prio
    let was := bit s.eth.xoff prio
    let now := on && (if was then decide (786432 ≤ fill) else decide (1048576 < fill))
    onlyIf (now != was) (acts [updEth fun e => { e with xoff := setBit e.xoff prio now }, emit (.pfc prio now), ethCnt 2])

/-- A frame is accepted: it is one of R387, and its priority is lossless or finds room in the receive buffer (R388). -/
def frameKept (s : State) (f : EthFrame) : Bool :=
  frameOk s f && (bit (fv s ENET_PFC_EN) (framePrio f) || decide (f.fill ≤ 8388608))

/-- ETH_FRAME_RECEIVE: the frame is accepted, or discarded and counted; a priority outside PFC_EN discards on a full buffer.
`fill` is the priority's share of the buffer with the frame. -/
def frameReceive (f : EthFrame) : Act :=
  look fun s => onlyIf (fb s ENET_LINK_UP) (acts [
    onlyIf (!frameKept s f) (ethCnt 0),
    pfcCheck (framePrio f) f.fill])

/-- ARP_REQUEST, from a sender, for an address. -/
def arpRequest (target sender : Nat) : Act :=
  look fun s => onlyIf (fb s ENET_LINK_UP && target != 0 && fv s ENET_IP4 == target) (emit (.reply 0 sender (beBytes 6 (fv s ENET_MAC))))

/-- NEIGHBOR_SOLICITATION. -/
def neighborSolicit (target sender : Nat) : Act :=
  look fun s => onlyIf (fb s ENET_LINK_UP && target != 0 && ownIp6 s == target) (emit (.reply 1 sender (beBytes 6 (fv s ENET_MAC))))

/-- ICMP_ECHO_REQUEST, over IPv6 or IPv4, to an address. -/
def echoRequest (v6 : Bool) (target sender : Nat) (data : List Byte) : Act :=
  look fun s => onlyIf (fb s ENET_LINK_UP && target != 0 && (if v6 then ownIp6 s else fv s ENET_IP4) == target)
    (emit (.reply 2 sender data))

/-- PFC_PAUSE_RECEIVE: the priorities the frame names, and which of them it pauses; those in PFC_EN are honoured. -/
def pauseReceive (named paused : Nat) : Act :=
  look fun s => onlyIf (fb s ENET_LINK_UP) (acts [ethCnt 1,
    updEth fun e =>
      let p := sumN ((rangeF 8 fun i => if bit named i && bit (fv s ENET_PFC_EN) i then bit paused i else bit e.paused i).map (2 ^ ·))
      { e with paused := p }])

/-- PTP_SYNC: a sync interval's offset in ns (R389). -/
def ptpSync (offset : Int) : Act :=
  look fun s =>
    let good := if offset.natAbs < 1000 then min 16 (s.eth.ptpGood + 1) else 0
    let bad := if 1000 < offset.natAbs then min 4 (s.eth.ptpBad + 1) else 0
    let was := fb s ENET_PTP_LOCKED
    let now := if good = 16 then true else if bad = 4 then false else was
    acts [setF ENET_PTP_OFFSET (ofInt 64 offset),
      updEth fun e => { e with
        ptpGood := good
        ptpBad := bad },
      onlyIf (now != was) (acts [setF ENET_PTP_LOCKED (b2n now), raiseEvt enetPg (2 ^ 18)])]

/-! ### Queue pairs and windows (R390, R391) -/

/-- A queue pair. -/
def qpOf (s : State) (q : Nat) : Qp := mapGet qpDefault s.eth.qps q
/-- A queue pair changes. -/
def updQp (q : Nat) (f : Qp → Qp) : Act := updEth fun e => { e with qps := mapSet qpDefault e.qps q (f (mapGet qpDefault e.qps q)) }
/-- A memory window's record. -/
def winOf (s : State) (w : Nat) : List Byte := (mapGet winDefault s.eth.wins w).rec_

/-- STATE. -/
def qcState (c : List Byte) : Nat := bits (recLE c 0 1) 2 0
/-- PMTU in bytes. -/
def qcPmtu (c : List Byte) : Nat := 128 * 2 ^ bits (recLE c 0 1) 6 4
/-- RETRY and RNR_RETRY. -/
def qcRetry (c : List Byte) : Nat := bits (recLE c 1 1) 2 0
/-- RNR_RETRY. -/
def qcRnrRetry (c : List Byte) : Nat := bits (recLE c 1 1) 5 3
/-- SQ_PSN. -/
def qcSqPsn (c : List Byte) : Nat := recLE c 8 3
/-- RQ_PSN. -/
def qcRqPsn (c : List Byte) : Nat := recLE c 12 3
/-- RECV_WIN. -/
def qcRecvWin (c : List Byte) : Nat := bits (recLE c 38 1) 5 0
/-- SEND_DONE. -/
def qcSendDone (c : List Byte) : Nat := recLE c 40 8

/-- A field of a context or window record takes a value. -/
def recSet (r : List Byte) (o n v : Nat) : List Byte := r.take o ++ leBytes n v ++ r.drop (o + n)

/-- The staged context. -/
def ctxStaged (s : State) : List Byte := (List.range 16).flatMap fun i => leBytes 4 (fv s ENET_CTX_W 0 i)

/-- The failing checks of a queue-pair post. -/
def qpErrs (s : State) (q : Nat) (c : List Byte) : List ErrCode :=
  let old := (qpOf s q).ctx
  let a := qcState old
  let b := qcState c
  let strip := fun (x : List Byte) => recSet x 0 1 (recLE x 0 1 / 8)
  when (bit (recLE c 0 1) 7 || decide (64 ≤ recLE c 1 1) || decide (32 ≤ recLE c 2 1) || recLE c 3 1 != 0 || recLE c 7 1 != 0 ||
    recLE c 11 1 != 0 || recLE c 15 1 != 0 || decide (64 ≤ recLE c 38 1) || recLE c 39 1 != 0 || !zeroBytes c 48 64) .rsvdSet ++
  when (decide (4 < b) || bits (recLE c 0 1) 6 4 == 0 || decide (5 < bits (recLE c 0 1) 6 4) || bits (recLE c 2 1) 4 0 == 0)
    .fieldRange ++
  (if qcSendDone c = 0 then [] else targetErrs s (qcSendDone c)) ++
  when ((a != b && b != 0 && b != 4 && b != a + 1) || (a == 4 && b == 5) || ((a == 2 || a == 3) && strip old != strip c))
    (.block 0xA6)

/-- EN of a window. -/
def wnEn (r : List Byte) : Bool := bit (recLE r 0 1) 0
/-- READ, WRITE and RING. -/
def wnRead (r : List Byte) : Bool := bit (recLE r 0 1) 1
/-- WRITE. -/
def wnWrite (r : List Byte) : Bool := bit (recLE r 0 1) 2
/-- RING. -/
def wnRing (r : List Byte) : Bool := bit (recLE r 0 1) 3
/-- QP_BIND. -/
def wnBind (r : List Byte) : Nat := recLE r 2 2
/-- RKEY. -/
def wnKey (r : List Byte) : Nat := recLE r 4 4
/-- BASE. -/
def wnBase (r : List Byte) : Nat := recLE r 8 6
/-- LENGTH. -/
def wnLen (r : List Byte) : Nat := bits (recLE r 16 8) 40 0
/-- SLOT. -/
def wnSlot (r : List Byte) : Nat := recLE r 24 2
/-- CREDIT_TILE and CREDIT_CNT. -/
def wnTile (r : List Byte) : Nat := recLE r 29 1
/-- CREDIT_CNT. -/
def wnCnt (r : List Byte) : Nat := recLE r 28 1

/-- The failing checks of a window post. One that leaves the window off is checked for reserved bits only. -/
def winErrs (s : State) (w : Nat) (r : List Byte) : List ErrCode :=
  let a := wnBase r
  when (decide (16 ≤ recLE r 0 1) || recLE r 1 1 != 0 || recLE r 14 2 != 0 || decide (2 ^ 41 ≤ recLE r 16 8) || recLE r 26 2 != 0 ||
    recLE r 30 2 != 0) .rsvdSet ++
  (if !wnEn r then [] else
    when (inRegSpace a) .permission ++ when (!inRegSpace a && !isDataAddr s a) .addrUnmapped ++
    when (isHbmAddr s a && (a % 32 != 0 || wnLen r % 32 != 0)) .addrAlign ++
    when ((wnBind r != 0xFFFF && decide (256 ≤ wnBind r)) || (wnRing r && (wnSlot r == 0 || wnSlot r % 64 != 0 ||
      decide (143 < wnTile r) || (wnBind r != 0xFFFF && decide (wnSlot r < qcPmtu (qpOf s (wnBind r)).ctx))))) .fieldRange ++
    (if isDataAddr s a then (rangeErrs s a (wnLen r)).filter (· == .lenOverRegion) else []) ++
    when ((List.range 64).any fun v => v != w && wnEn (winOf s v) && wnKey (winOf s v) == wnKey r) (.block 0xA7))

/-- A queue pair moves to ERROR (R392): its streams end (R393). -/
def qpError (q : Nat) : Act :=
  look fun s => acts [
    updQp q fun x => { x with
      ctx := recSet x.ctx 0 1 (setBits (recLE x.ctx 0 1) 2 0 4)
      unacked := [] },
    ethCnt 9, raiseEvt enetPg (2 ^ 17),
    each (hbmSites s.build) fun n => match (ueSt s n).snap with
      | some x => onlyIf (x.sent && fb s UPDT_SNAP_ETH n && fv s UPDT_SNAP_QPN n == 0x100 + q) (snapRelease n x false)
      | none => .done]

/-- An accepted queue-pair post. -/
def qpApply (q : Nat) (c : List Byte) : Act :=
  look fun s =>
    let b := qcState c
    if b = 4 ∧ qcState (qpOf s q).ctx ≠ 4 then acts [updQp q fun x => { x with ctx := c }, qpError q]
    else updQp q fun x => if b = 0 then { Qp.init with ctx := c } else { x with ctx := c }

/-- The failing checks of a CTX_CMD write. -/
def ctxErrs (s : State) (v : Nat) : List ErrCode :=
  let go := bit v 31
  let win := bit v 16
  let i := bits v 7 0
  when (go && !enabled s enetPg) .stateNotReady ++
  when ((go && bit v 30) || ((go || bit v 30) && win && decide (64 ≤ i))) .fieldRange ++
  (if go then (if win then winErrs s i ((ctxStaged s).take 32) else qpErrs s i (ctxStaged s)) else [])

/-- An accepted CTX_CMD write: a post, or a load into the staging registers. -/
def ctxApply (v : Nat) : Act :=
  let i := bits v 7 0
  look fun s =>
    if bit v 31 then
      (if bit v 16 then updEth fun e => { e with wins := mapSet winDefault e.wins i ⟨(ctxStaged s).take 32, 0⟩ }
      else qpApply i (ctxStaged s))
    else onlyIf (bit v 30) (
      let r := if bit v 16 then winOf s i else (qpOf s i).ctx
      each (List.range (r.length / 4)) fun k => setF ENET_CTX_W (recLE r (4 * k) 4) 0 k)

/-- An ENET soft reset (R404): every queue pair in RESET, every window off; the port retrains. -/
def enetReset : Act := acts [
  look fun s => each (s.eth.qps.map Prod.fst) fun q => updQp q fun _ => Qp.init,
  updEth fun e => { e with
    wins := []
    paused := 0
    xoff := 0
    ptpGood := 0
    ptpBad := 0 },
  look fun s => onlyIf (fb s ENET_LINK_UP) (acts [setF ENET_LINK_UP 0, raiseEvt enetPg (2 ^ 16), reLevel])]

/-! ### The responder (R392) -/

/-- PSN arithmetic. -/
def psnAdd (a n : Nat) : Nat := (a + n) % 2 ^ 24
/-- `a` is behind `b`. -/
def psnBehind (a b : Nat) : Bool := a != b && decide ((b + 2 ^ 24 - a) % 2 ^ 24 < 2 ^ 23)

/-- Codes of a NAK: PSN sequence error, Invalid Request, Remote Access Error, Remote Operational Error. -/
def nakSeq : Byte := 0
/-- Invalid Request. -/
def nakInvalid : Byte := 1
/-- Remote Access Error. -/
def nakAccess : Byte := 2
/-- Remote Operational Error. -/
def nakOp : Byte := 3

/-- A NAK Remote Access Error. -/
def accessNak (r : RdmaReq) (error : Bool) : Act := acts [
  emit (.rdma r.qp 1 r.psn 0 [nakAccess]), ethCnt 5, raiseEvt enetPg (2 ^ 19), onlyIf error (qpError r.qp)]

/-- A NAK Invalid Request. -/
def invalidNak (r : RdmaReq) : Act := acts [emit (.rdma r.qp 1 r.psn 0 [nakInvalid]), ethCnt 6, qpError r.qp]

/-- The enabled window of a key. -/
def winByKey (s : State) (key : Nat) : Option (List Byte) :=
  ((List.range 64).map (winOf s)).find? fun r => wnEn r && wnKey r == key

/-- A window allows an operation of a queue pair on a range. -/
def winAllows (r : List Byte) (op : List Byte → Bool) (q a n : Nat) : Bool :=
  op r && (wnBind r == 0xFFFF || wnBind r == q) && decide (wnBase r ≤ a) && decide (a + n ≤ wnBase r + wnLen r)

/-- A CE-marked packet causes a CNP, at most one in CNP_MIN_US (R388). -/
def cnpSend (r : RdmaReq) : Act :=
  look fun s =>
    let due := match (qpOf s r.qp).cnpAt with | some t => decide (t + fv s ENET_CNP_MIN_US ≤ r.us) | none => true
    onlyIf (r.ce && due) (acts [emit (.rdma r.qp 5 r.psn 0 []), ethCnt 3, updQp r.qp fun x => { x with cnpAt := some r.us }])

/-- An incoming request to a queue pair in RTR or RTS: a repeated one, an expected one, or one ahead of its turn. -/
def rdmaRequest (r : RdmaReq) (again : Act) (work : Act) : Act :=
  look fun s =>
    let c := (qpOf s r.qp).ctx
    onlyIf (decide (r.qp < 256) && fb s ENET_LINK_UP && (qcState c == 2 || qcState c == 3)) (acts [
      cnpSend r,
      if r.psn = qcRqPsn c then work
      else if psnBehind r.psn (qcRqPsn c) then again
      else emit (.rdma r.qp 1 (qcRqPsn c) 0 [nakSeq])])

/-- The expected PSN passes n packets. -/
def rqAdvance (q n : Nat) : Act := updQp q fun x => { x with ctx := recSet x.ctx 12 3 (psnAdd (qcRqPsn x.ctx) n) }

/-- An ACK of a request of n packets. -/
def ackSend (r : RdmaReq) (n : Nat) : Act := emit (.rdma r.qp 0 (psnAdd r.psn (n - 1)) 0 [])

/-- Packets of a message. -/
def packets (s : State) (q n : Nat) : Nat := max 1 (ceilDiv n (qcPmtu (qpOf s q).ctx))

/-- RDMA_WRITE_REQUEST: a WRITE of a message. -/
def rdmaWrite (r : RdmaReq) (key va : Nat) (data : List Byte) : Act :=
  look fun s =>
    let n := data.length
    let k := packets s r.qp n
    onlyIf (!rangeHeld s va n) (rdmaRequest r (ackSend r k) (
      if !(match winByKey s key with | some w => winAllows w wnWrite r.qp va n | none => false) then accessNak r true
      else if isHbmAddr s va && (va % 32 != 0 || n % 32 != 0) then invalidNak r
      else if !(rangeErrs s va n).isEmpty then accessNak r false
      else if writeRefused s va n then accessNak r true
      else acts [putLocal va data, rqAdvance r.qp k, ackSend r k]))

/-- Responses to a READ, packet by packet; one that holds a mark is replaced by a NAK (R332). -/
def readPackets (r : RdmaReq) (va pmtu : Nat) : Nat → Nat → List (Byte × Bool) → Act
  | 0, _, _ => .done
  | n + 1, i, bs =>
    let x := bs.take pmtu
    match x.findIdx? Prod.snd with
    | some j => look fun s => acts [refuseExport (exportAt s (va + i * pmtu + j)) (va + i * pmtu + j),
        emit (.rdma r.qp 1 (psnAdd r.psn i) 0 [nakOp]), qpError r.qp]
    | none => acts [emit (.rdma r.qp 3 (psnAdd r.psn i) (va + i * pmtu) (x.map Prod.fst)), readPackets r va pmtu n (i + 1) (bs.drop pmtu)]

/-- The data of a READ. -/
def readAnswer (r : RdmaReq) (va n : Nat) : Act := acts [
  touchLocal va n,
  look fun s => readPackets r va (qcPmtu (qpOf s r.qp).ctx) (packets s r.qp n) 0 (readLocal s va n)]

/-- RDMA_READ_REQUEST. A repeated one is read again. -/
def rdmaRead (r : RdmaReq) (key va n : Nat) : Act :=
  look fun s =>
    let go := fun (advance : Act) =>
      if !(match winByKey s key with | some w => winAllows w wnRead r.qp va n | none => false) then accessNak r true
      else if !(rangeErrs s va n).isEmpty then accessNak r false
      else acts [advance, readAnswer r va n]
    onlyIf (!rangeHeld s va n) (rdmaRequest r (go .done) (go (rqAdvance r.qp (packets s r.qp n))))

/-- RDMA_SEND. -/
def rdmaSend (r : RdmaReq) (data : List Byte) : Act :=
  look fun s =>
    let c := (qpOf s r.qp).ctx
    let n := data.length
    let i := qcRecvWin c
    let w := winOf s i
    let phys := physOf s (wnTile w)
    let k := packets s r.qp n
    let slots := wnLen w / max 1 (wnSlot w)
    let a := wnBase w + (mapGet winDefault s.eth.wins i).sends % max 1 slots * wnSlot w
    onlyIf (!rangeHeld s a n && !tileHeld s (wnTile w)) (rdmaRequest r (ackSend r k) (
      if !(i == 63) && !(wnEn w && winAllows w wnRing r.qp a (wnSlot w)) then accessNak r true
      else if i == 63 || decide (wnSlot w < n) then invalidNak r
      else if tok s phys (wnCnt w) == 0 then acts [emit (.rdma r.qp 2 r.psn 0 []), ethCnt 7]
      else if !(rangeErrs s a n).isEmpty then accessNak r false
      else if writeRefused s a n then accessNak r true
      else acts [subToken phys (wnCnt w) 1, putLocal a data,
        updEth fun e => { e with wins := mapSet winDefault e.wins i ⟨w, (mapGet winDefault e.wins i).sends + 1⟩ },
        rqAdvance r.qp k, sendTarget0 (srcOf enetPg) (qcSendDone c), ackSend r k]))

/-- A request with an opcode outside R387. -/
def rdmaOther (r : RdmaReq) : Act := rdmaRequest r .done (invalidNak r)

/-! ### The requester (R393, R299) -/

/-- A WRITE of a run of bytes: packets of at most PMTU, in PSN order, kept until they are acknowledged. -/
def qpWrite (q addr : Nat) (bs : List Byte) : Act :=
  look fun s =>
    let m := qcPmtu (qpOf s q).ctx
    each (List.range (ceilDiv bs.length m)) fun i => look fun t =>
      let psn := qcSqPsn (qpOf t q).ctx
      let x := (bs.drop (i * m)).take m
      acts [emit (.rdma q 4 psn (addr + i * m) x),
        updQp q fun y => { y with
          ctx := recSet y.ctx 8 3 (psnAdd psn 1)
          unacked := y.unacked ++ [(psn, addr + i * m, x)] }]

/-- Packets sent again, from the oldest not acknowledged. -/
def qpResend (q : Nat) : Act :=
  look fun s => each (qpOf s q).unacked fun x => acts [emit (.rdma q 4 x.1 x.2.1 x.2.2), ethCnt 8]

/-- A stream whose every packet is acknowledged ends. -/
def streamsEnd (q : Nat) : Act :=
  look fun s => onlyIf (qpOf s q).unacked.isEmpty (each (hbmSites s.build) fun n => match (ueSt s n).snap with
    | some x => onlyIf (x.sent && fb s UPDT_SNAP_ETH n && fv s UPDT_SNAP_QPN n == 0x100 + q) (acts [
        setF UPDT_SNAP_STATE 2 n, snapRelease n x true])
    | none => .done)

/-- RDMA_ACK_RECEIVE: kind 0 an ACK of every packet up to a PSN, 1 an RNR NAK, 2 a NAK of a sequence error, 3 any other NAK. -/
def ackReceive (q psn kind : Nat) : Act :=
  look fun s =>
    let x := qpOf s q
    let acked := fun (p : Nat) => p == psn && kind == 0 || psnBehind p psn
    if 256 ≤ q || !fb s ENET_LINK_UP || qcState x.ctx != 3 || x.unacked.isEmpty then .done
    else acts [
      updQp q fun y => { y with
        unacked := y.unacked.filter fun z => !acked z.1
        retries := if kind = 1 then y.retries else if y.unacked.any (fun z => acked z.1) || kind = 0 then 0 else y.retries },
      (match kind with
        | 0 => streamsEnd q
        | 1 => if qcRnrRetry x.ctx ≤ x.retries then qpError q else acts [updQp q fun y => { y with retries := y.retries + 1 }, qpResend q]
        | 2 => qpResend q
        | _ => qpError q)]

/-- RDMA_ACK_TIMEOUT: the oldest packet has waited for the local ACK timeout. -/
def ackTimeout (q : Nat) : Act :=
  look fun s =>
    let x := qpOf s q
    if 256 ≤ q || qcState x.ctx != 3 || x.unacked.isEmpty then .done
    else if qcRetry x.ctx ≤ x.retries then qpError q
    else acts [updQp q fun y => { y with retries := y.retries + 1 }, qpResend q]

/-- CNP_RECEIVE: the queue pair's rate halves (R388). -/
def cnpReceive (q : Nat) : Act :=
  look fun s => onlyIf (decide (q < 256) && fb s ENET_LINK_UP) (acts [ethCnt 4, updQp q fun x => { x with rate := x.rate / 2 }])

/-- CNP_RATE_RECOVERY: 55 µs without a further CNP. -/
def cnpRecover (q : Nat) : Act := onlyIf (decide (q < 256)) (updQp q fun x => { x with rate := min 65536 (x.rate + 8192) })

/-- SNAPSHOT_STREAM_DONE: the chunks and the trailer are sent, over Narxo Link or as WRITEs of a queue pair, and the stream is
released; on a queue pair, once its packets are acknowledged (R299, R393). -/
def streamDone (site : Nat) : Act :=
  look fun s => match (ueSt s site).snap with
    | none => .done
    | some x =>
      let dest := fv s UPDT_SNAP_DEST site
      if fv s UPDT_SNAP_STATE site ≠ 1 then .done
      else if !fb s UPDT_SNAP_ETH site then acts [
        each (snapPieces s x) fun p =>
          if gaNode dest = nodeId s then writeLocal (gaLocal dest + p.1) p.2
          else sendWriteMarked (gaNode dest) .none (gaLocal dest + p.1) p.2,
        setF UPDT_SNAP_STATE 2 site, snapRelease site x true]
      else
        let q := fv s UPDT_SNAP_QPN site - 0x100
        if fv s UPDT_SNAP_QPN site < 0x100 || 256 ≤ q || qcState (qpOf s q).ctx != 3 || bit s.eth.paused (fv s ENET_ROCE_PRIO) ||
          !fb s ENET_LINK_UP then .done
        else acts [
          onlyIf (!x.sent) (acts [snapSend site x fun o bs => qpWrite q (dest + o) bs,
            updUe site fun u => { u with snap := some { x with sent := true } }]),
          streamsEnd q]

/-- The RoCEv2 opcodes R387 serves (the family's numbers, PRESUMED), and the congestion notice. -/
def roceOps : List Nat := [0x00, 0x01, 0x02, 0x04, 0x06, 0x07, 0x08, 0x0A, 0x0C, 0x0D, 0x0E, 0x0F, 0x10, 0x11, 0x81]

/-- The UDP datagram of a frame, if it carries one. -/
def frameUdp (f : EthFrame) : Option (List Byte) :=
  if f.etherType = 0x0800 ∧ be f.body 9 1 = 17 then some ((f.body.drop 20).take (be f.body 2 2 - 20))
  else if f.etherType = 0x86DD ∧ be f.body 6 1 = 17 then some ((f.body.drop 40).take (be f.body 4 2))
  else none

/-- An accepted RoCEv2 packet with an opcode outside R387 meets the responder; the requests and answers of R387 are commands
of their own. -/
def frameRoce (f : EthFrame) : Act :=
  look fun s => match frameUdp f with
    | none => .done
    | some u =>
      onlyIf (fb s ENET_LINK_UP && frameKept s f &&
          be u 2 2 == 4791 && decide (20 ≤ u.length) && !roceOps.contains (be u 8 1))
        (rdmaOther ⟨be u 13 3, be u 17 3, false, 0⟩)

/-! ### Rows -/

/-- ARP_REQUEST (R387). -/
def execArpRequest (target sender : Nat) (s : State) : Host.Outcome State Fault Refusal := .next ((arpRequest target sender).run s)
/-- NEIGHBOR_SOLICITATION (R387). -/
def execNeighborSolicitation (target sender : Nat) (s : State) : Host.Outcome State Fault Refusal :=
  .next ((neighborSolicit target sender).run s)
/-- ICMP_ECHO_REQUEST (R387). -/
def execIcmpEchoRequest (v6 : Bool) (target sender : Nat) (data : List Byte) (s : State) : Host.Outcome State Fault Refusal :=
  .next ((echoRequest v6 target sender data).run s)
/-- PFC_PAUSE_RECEIVE (R388). -/
def execPfcPauseReceive (named paused : Nat) (s : State) : Host.Outcome State Fault Refusal := .next ((pauseReceive named paused).run s)
/-- CNP_RECEIVE (R388). -/
def execCnpReceive (qp : Nat) (s : State) : Host.Outcome State Fault Refusal := .next ((cnpReceive qp).run s)
/-- CNP_RATE_RECOVERY (R388). -/
def execCnpRateRecovery (qp : Nat) (s : State) : Host.Outcome State Fault Refusal := .next ((cnpRecover qp).run s)
/-- PTP_SYNC (R389). -/
def execPtpSync (offset : Int) (s : State) : Host.Outcome State Fault Refusal := .next ((ptpSync offset).run s)
/-- RDMA_WRITE_REQUEST (R392). -/
def execRdmaWriteRequest (r : RdmaReq) (key va : Nat) (data : List Byte) (s : State) : Host.Outcome State Fault Refusal :=
  .next ((rdmaWrite r key va data).run s)
/-- RDMA_READ_REQUEST (R392). -/
def execRdmaReadRequest (r : RdmaReq) (key va len : Nat) (s : State) : Host.Outcome State Fault Refusal :=
  .next ((rdmaRead r key va len).run s)
/-- RDMA_SEND (R392). -/
def execRdmaSend (r : RdmaReq) (data : List Byte) (s : State) : Host.Outcome State Fault Refusal := .next ((rdmaSend r data).run s)
/-- RDMA_ACK_RECEIVE (R393). -/
def execRdmaAckReceive (qp psn kind : Nat) (s : State) : Host.Outcome State Fault Refusal := .next ((ackReceive qp psn kind).run s)
/-- RDMA_ACK_TIMEOUT (R393). -/
def execRdmaAckTimeout (qp : Nat) (s : State) : Host.Outcome State Fault Refusal := .next ((ackTimeout qp).run s)
/-- SNAPSHOT_STREAM_DONE (R299). -/
def execSnapshotStreamDone (site : Nat) (s : State) : Host.Outcome State Fault Refusal := .next ((streamDone site).run s)

end Sys2Proof.Machine
end

