-- ==== Sys2Proof/Machine/Integ.lean ====
section
/-! DEFINITION. Data-integrity commands: patrol pieces (R336), software scrub passes (R337), fault injection (R338), and
the soft reset of an INTG page (R341). -/

namespace Sys2Proof.Machine

/-- The memory of a select code on an INTG page (R323), of those whose bytes the model holds. -/
def muOf (intg sel : Nat) : Option MemUnit :=
  if intg < 160 then (match sel with | 0 => some (.galley intg) | 1 => some (.imem intg) | 2 => some (.dmem intg) | _ => none)
  else if 176 ≤ intg ∧ intg < 188 then
    (match sel with | 0 => some (.hbm (intg - 176)) | 2 => some (.prog (intg - 176)) | _ => none)
  else none

/-- A select code is present on a page (R323, R340), and its memory's unit is in service. -/
def selPresent (s : State) (intg sel : Nat) : Bool :=
  bit (blockCaps s.build (intgPage intg) % 8) sel && pageInService s (intgPage intg) &&
    !(176 ≤ intg && intg < 188 && sel == 2 && !ueInService s (intg - 176))

/-- Bytes of a page's memory, where the manual gives them. -/
def selSize (intg sel : Nat) : Option Nat :=
  match muOf intg sel with
  | some u => some (muSize u)
  | none => if 176 ≤ intg ∧ intg < 188 ∧ sel = 1 then some 1024 else none

/-- What a scrub skips: unwritten ZERO_VALID storage; the patrol every WRITE_FIRST region too (R336, R337). -/
def scrubSkips (s : State) (u : MemUnit) (off : Nat) (patrol : Bool) : Bool :=
  hasModes u && (if writeFirst s u off then patrol else !mapGet writtenDefault s.written (blockKey u off))

/-! ### Patrol (R336) -/

/-- Bytes of a patrol piece: a 4 KiB block, or 64 lines. -/
def patrolPiece : Nat := 4096

/-- PATROL_SCRUB: one piece of a memory; `last` ends a pass over the page's memories. -/
def patrol (intg sel off : Nat) (last : Bool) : Act :=
  look fun s =>
    if !fb s INTG_PATROL_EN intg || !fb s BKGD_ACT_EN || fb s INTG_SCRUB_BUSY intg || !selPresent s intg sel then .done
    else acts [
      (match muOf intg sel with
       | some u => onlyIf (decide (off + patrolPiece ≤ muSize u) && off % patrolPiece == 0) <|
          each (wordsOf u off patrolPiece) fun w => look fun t => onlyIf (!scrubSkips t u w true) (touchWord u w)
       | none => .done),
      onlyIf last (setF INTG_PATROL_PASSES ((fv s INTG_PATROL_PASSES intg + 1) % 2 ^ 32) intg)]

/-! ### Software passes (R337) -/

/-- The failing checks of a GO for memory `tgt`. -/
def scrubErrs (s : State) (intg tgt : Nat) : List ErrCode :=
  let base := fv s INTG_SCRUB_BASE intg
  let len := fv s INTG_SCRUB_LEN intg
  let done := rdKey s (fldKey INTG_SCRUB_DONE intg 0)
  when (base % 64 != 0 || len % 64 != 0) .addrAlign ++
  when (decide (2 ^ 40 < len)) .lenRange ++
  (match selSize intg tgt with
   | some n =>
      let o := match muOf intg tgt with | some (.hbm site) => (if base / 2 ^ 36 = site then base % 2 ^ 36 else n + 1) | _ => base
      when (decide (n < o + len)) .lenOverRegion
   | none => []) ++
  when (!selPresent s intg tgt) eIntgTarget ++
  when (fb s INTG_SCRUB_BUSY intg) .stateBusy ++
  (if done = 0 then [] else targetErrs s done)

/-- A word of a pass is read, and the summary takes what it showed. -/
def scrubWord (intg : Nat) (u : MemUnit) (off : Nat) : Act :=
  look fun s =>
    if scrubSkips s u off false then .done
    else acts [materialise u off, look fun t =>
      let c := (foundWord t u off).1
      let a := muLogAddr u off
      acts [
        setF INTG_SUM_WORDS (fv t INTG_SUM_WORDS intg + 1) intg,
        (match c with
         | .clean => .done
         | .corr _ => cnt INTG_SUM 0 intg
         | .uncorr => cnt INTG_SUM 1 intg
         | .poisoned => cnt INTG_SUM 2 intg),
        onlyIf (c != .clean) (acts [
          onlyIf (fv t INTG_SUM_FIRST intg == 2 ^ 64 - 1) (setF INTG_SUM_FIRST a intg), setF INTG_SUM_LAST a intg]),
        touchWord u off]]

/-- The end of a pass: the summary is final, BUSY clears, the target is sent, SCRUB_DONE is raised. -/
def scrubEnd (intg : Nat) : Act :=
  look fun s => acts [setF INTG_SCRUB_BUSY 0 intg,
    sendTarget0 (srcOf (intgPage intg)) (rdKey s (fldKey INTG_SCRUB_DONE intg 0)),
    onlyIf (fb s INTG_SCRUB_EVT intg) (raiseEvt (intgPage intg) (2 ^ 22))]

/-- An accepted GO: the summary clears, BUSY is set; a pass of length 0 completes at once. -/
def scrubGo (intg : Nat) : Act :=
  look fun s => acts [
    setF INTG_SUM_WORDS 0 intg, setF INTG_SUM_FIRST (2 ^ 64 - 1) intg, setF INTG_SUM_LAST (2 ^ 64 - 1) intg,
    each (List.range 4) fun i => setF INTG_SUM 0 intg i,
    setF INTG_SCRUB_BUSY 1 intg,
    onlyIf (fv s INTG_SCRUB_LEN intg == 0) (scrubEnd intg)]

/-- SCRUB_DONE: the running pass has covered its range. -/
def scrubDone (intg : Nat) : Act :=
  look fun s =>
    if !fb s INTG_SCRUB_BUSY intg then .done
    else
      let used := fv s INTG_REMAP_USED intg
      let n := fv s INTG_SCRUB_LEN intg
      acts [
        (match muOf intg (fv s INTG_SCRUB_TGT intg) with
         | some u => each (List.range (n / 8)) fun i => scrubWord intg u (fv s INTG_SCRUB_BASE intg % 2 ^ 36 + 8 * i)
         | none => setF INTG_SUM_WORDS (n / 8) intg),
        look fun t => setF INTG_SUM (fv t INTG_REMAP_USED intg - used) intg 3,
        scrubEnd intg]

/-! ### Fault injection and marks -/

/-- The failing checks of arming for memory `tgt` (R338). -/
def flipErrs (s : State) (intg tgt : Nat) : List ErrCode :=
  let byte := (match muOf intg tgt with | some u => muBytewise u | none => false)
  when (byte && (decide (256 ≤ fv s INTG_FLIP_LO intg) || decide (32 ≤ fv s INTG_FLIP_HI intg))) .fieldRange ++
  when (!selPresent s intg tgt) eIntgTarget

/-- PSTS_CLR: POISONED of the location's GALY or HBMC page clears (R331). -/
def pstsClr (intg : Nat) : Act :=
  if intg < 160 then setF (hdrPoisoned .galy) 0 intg
  else if 176 ≤ intg ∧ intg < 188 then setF (hdrPoisoned .hbmc) 0 (intg - 176)
  else .done

/-- A soft reset of an INTG page: the pass ends without SCRUB_DONE, the mask is disarmed (R341). -/
def intgReset (intg : Nat) : Act := acts [setF INTG_SCRUB_BUSY 0 intg, setF INTG_FLIP_ARMED 0 intg]

/-! ### Rows -/

/-- PATROL_SCRUB (R336). -/
def execPatrolScrub (intg sel off : Nat) (last : Bool) (s : State) : Host.Outcome State Fault Refusal :=
  .next ((patrol intg sel off last).run s)
/-- SCRUB_DONE (R337). -/
def execScrubDone (intg : Nat) (s : State) : Host.Outcome State Fault Refusal := .next ((scrubDone intg).run s)

end Sys2Proof.Machine
end

