-- ==== Sys2Proof/Machine/Peer.lean ====
section
/-! DEFINITION. Remote requests to this device's memory (R315, R27, R304), and lend windows (R316). -/

namespace Sys2Proof.Machine

/-- The PEER page. -/
def peerPg : PageRef := ⟨.peer, 0⟩

/-- A lend window's byte range: base and bytes. -/
def lwRange (s : State) (w : Nat) : Nat × Nat := (fv s PEER_LW_BASE 0 w, fv s PEER_LW_SIZE 0 w * 2 ^ 21)

/-- The enabled lend windows that a range meets. -/
def lwMet (s : State) (a n : Nat) : List Nat :=
  rangeF 16 fun w => fb s PEER_LW_EN 0 w && rangesMeet (lwRange s w) (a, n)

/-- A remote request is allowed (R315). -/
def peerAllows (s : State) (node a n : Nat) (write : Bool) : Bool :=
  let ws := lwMet s a n
  let whole := ws.any fun w => decide ((lwRange s w).1 ≤ a) && decide (a + n ≤ (lwRange s w).1 + (lwRange s w).2)
  (whole || fv s PEER_PEER_MODE == 1) &&
    ws.all fun w => fv s PEER_LW_BORROWER 0 w == node && (!write || fb s PEER_LW_WRITE_OK 0 w)

/-- The failing checks of a remote request. -/
def remoteErrs (s : State) (node a n : Nat) (write : Bool) : List ErrCode :=
  rangeErrs s a n ++
  match placeOf s a with
  | .win _ => [.permission]
  | .mem _ _ =>
    when (!peerAllows s node a n write) ePeerDenied ++
    when (write && isHbmAddr s a && (a % 32 != 0 || n % 32 != 0)) .addrAlign ++
    when (write && writeRefused s a n) .permission
  | _ => []

/-- A remote read or write is served, or refused with its code; one that meets storage being copied, in quarantine or
awaiting its zeros is held. -/
def remoteAccess (node : Nat) (o : Origin) (body : FabBody) : Act :=
  let denied := fun (e : ErrCode) => onlyIf (e == ePeerDenied)
    (acts [incF PEER_CNT_DENIED, setF PEER_DENIED_NODE node, raiseEvt peerPg (2 ^ 16)])
  look fun s => match body with
    | .readReq a n =>
      let e := firstErr (remoteErrs s node a n false)
      if rangeHeld s a n then .done
      else if e ≠ .ok then acts [denied e, sendMsg node o (.readResp (errNum e) [] [])]
      else acts [touchLocal a n, look fun t =>
        let x := readLocal t a n
        sendMsg node o (.readResp 0 (x.map Prod.fst) (x.map Prod.snd))]
    | .write a data ms =>
      let e := firstErr (remoteErrs s node a data.length true)
      if rangeHeld s a data.length then .done
      else if e ≠ .ok then acts [denied e, sendMsg node o (.refusal (errNum e))]
      else acts [writeLocal a (withMarks data ms), sendMsg node o .writeAck]
    | _ => .done

/-! ### Lend windows (R316) -/

/-- The failing checks of writing EN = 1 with a borrower. -/
def lendErrs (s : State) (w borrower : Nat) : List ErrCode :=
  let x := lwRange s w
  let site := x.1 / 2 ^ 36
  when (x.2 == 0 || !isHbmSite s.build site || !inSiteHbm site x.1 x.2 || borrower == nodeId s ||
    (List.range 16).any (fun q => q != w && fb s PEER_LW_EN 0 q && rangesMeet x (lwRange s q)) ||
    (wfRuns s site).any (fun b => rangesMeet (site * 2 ^ 36 + b.1 * 4096, b.2 * 4096) x)) ePeerWindow

/-- Enabling a window makes every block of it unwritten. -/
def lendUnwrite (w : Nat) : Act :=
  look fun s =>
    let x := lwRange s w
    runClear (x.1 / 2 ^ 36) (hbmOff x.1 / 4096, x.2 / 4096) true

/-! ### Rows -/

/-- REMOTE_ACCESS (R315). -/
def execRemoteAccess (node : Nat) (body : FabBody) (s : State) : Host.Outcome State Fault Refusal :=
  .next ((remoteAccess node .none body).run s)

end Sys2Proof.Machine
end

