-- ==== Sys2Proof/Machine/Sheaf.lean ====
section
/-! DEFINITION. Exact reduction (R256 to R274, R461): groups, OPEN and ABORT records, scale exchange, stages, delivery,
epilogue, parking. -/

namespace Sys2Proof.Machine

/-! ### Groups (R256, R257) -/

/-- The group record at an index. -/
def groupRec (s : State) (g : Nat) : List Byte := hbmBytesAt s (fv s SHEF_GROUP_BASE + 256 * g) 256
/-- P1, P2 or P3. -/
def gP (g : List Byte) (t : Nat) : Nat := if t = 2 then bits (recLE g 2 1) 5 0 else bits (recLE g t 1) 4 0
/-- P. -/
def gAll (g : List Byte) : Nat := gP g 1 * gP g 2 * gP g 3
/-- Byte of a stage's node list, and its entries. -/
def gList (t : Nat) : Nat × Nat := if t = 1 then (8, 16) else if t = 2 then (40, 48) else (136, 16)
/-- The node IDs of a stage, in position order. -/
def gNodes (g : List Byte) (t : Nat) : List Nat := (List.range (gP g t)).map fun k => recLE g ((gList t).1 + 2 * k) 2
/-- This device's position at a stage. -/
def gPos (s : State) (g : List Byte) (t : Nat) : Nat := (gNodes g t).findIdx (· == nodeId s)
/-- The shard this device owns (R257). -/
def gShard (s : State) (g : List Byte) : Nat := (gPos s g 1 * gP g 2 + gPos s g 2) * gP g 3 + gPos s g 3

/-- A group record passes its check (R256). -/
def groupOk (s : State) (g : List Byte) : Bool :=
  bit (recLE g 0 1) 0 && decide (recLE g 0 1 < 2) && decide (recLE g 1 1 < 32) && decide (recLE g 2 1 < 64) &&
    decide (recLE g 3 1 < 32) && zeroBytes g 4 8 && zeroBytes g 168 256 &&
    [1, 2, 3].all fun t =>
      let ns := gNodes g t
      decide (1 ≤ gP g t) && decide (gP g t ≤ (gList t).2) && ns.all (fun n => decide (n < 2 ^ 14)) &&
        ns.contains (nodeId s) && ns.eraseDups.length == ns.length &&
        zeroBytes g ((gList t).1 + 2 * gP g t) ((gList t).1 + 2 * (gList t).2)

/-! ### OPEN records (R258) -/

/-- Byte 1. -/
def opB1 (r : List Byte) : Nat := recLE r 1 1
/-- SRC_NONE. -/
def opNone (r : List Byte) : Bool := bit (opB1 r) 0
/-- SCALE_MODE is AGREED. -/
def opAgreed (r : List Byte) : Bool := bit (opB1 r) 1
/-- CARRIER. -/
def opCarrier (r : List Byte) : Bool := bit (opB1 r) 2
/-- DEST_MODE is ROOT. -/
def opRoot (r : List Byte) : Bool := bit (opB1 r) 3
/-- EVT. -/
def opEvt (r : List Byte) : Bool := bit (opB1 r) 4
/-- NO_DEADLINE. -/
def opNoDl (r : List Byte) : Bool := bit (opB1 r) 5
/-- TAG. -/
def opTag (r : List Byte) : Nat := recLE r 2 2
/-- GEN. -/
def opGen (r : List Byte) : Nat := recLE r 4 1
/-- SRC_FMT. -/
def opSrcFmt (r : List Byte) : Nat := bits (recLE r 5 1) 3 0
/-- DST_FMT. -/
def opDstFmt (r : List Byte) : Nat := bits (recLE r 5 1) 7 4
/-- LEADING. -/
def opLeading (r : List Byte) : Nat := bits (recLE r 6 1) 2 0
/-- SHARD_LEN. -/
def opLen (r : List Byte) : Nat := bits (recLE r 8 4) 24 0
/-- LINE. -/
def opLine (r : List Byte) : Nat := bits (recLE r 12 2) 9 0
/-- ROOT_NODE. -/
def opRootNode (r : List Byte) : Nat := bits (recLE r 14 2) 13 0
/-- SRC. -/
def opSrc (r : List Byte) : Nat := recLE r 16 6
/-- DST. -/
def opDst (r : List Byte) : Nat := recLE r 24 6
/-- DEADLINE. -/
def opDeadline (r : List Byte) : Nat := instant (recLE r 32 6) (recLE r 38 2)
/-- STS. -/
def opSts (r : List Byte) : Nat := recLE r 56 6
/-- Bytes of an element of a format. -/
def shSize (f : Nat) : Nat := if f = 2 then 2 else 4

/-- An open sheaf by tag. -/
def sheafOf (s : State) (tag : Nat) : Option Sheaf := s.shef.open_.find? fun x => x.tag == tag
/-- The reduction engines' state changes. -/
def updShef (f : Shef → Shef) : Act := look fun s => upd (.shef (f s.shef))
/-- An open sheaf changes. -/
def updSheaf (tag : Nat) (f : Sheaf → Sheaf) : Act :=
  updShef fun v => { v with open_ := v.open_.map fun x => if x.tag = tag then f x else x }
/-- A program over an open sheaf. -/
def withSheaf (tag : Nat) (k : State → Sheaf → Act) : Act :=
  look fun s => match sheafOf s tag with
    | some x => k s x
    | none => .done

/-- The SHEF pages of the build. -/
def shefPages (s : State) : List PageRef := (linkSites s.build).map fun n => ⟨.shef, n⟩
/-- An event of the reduction engines, on every SHEF page (log entry 24). -/
def raiseShef (bit_ : Nat) : Act := look fun s => each (shefPages s) fun p => raiseEvt p (2 ^ bit_)
/-- The page that stands for the reduction engines. -/
def shefPg (s : State) : PageRef := (shefPages s).headD ⟨.shef, 0⟩

/-- This device writes DST: under OWNER, and as the root. -/
def opWrites (s : State) (r : List Byte) : Bool := !opRoot r || opRootNode r == nodeId s

/-- The failing checks of a data region of an OPEN (R259). -/
def opRegion (s : State) (a n : Nat) : List ErrCode :=
  when (a % 64 != 0) .addrAlign ++
  (if !isDataAddr s a then [.addrUnmapped]
   else match placeOf s a with
    | .mem u off => when (decide (memLeft u off < n)) .lenOverRegion ++ when (!memInService s u) .retiredUnit
    | _ => [])

/-- The failing checks of an OPEN or ABORT record (R259, R461). -/
def openErrs (s : State) (r : List Byte) : List ErrCode :=
  let t := recLE r 0 1
  let ready := when (decide (level s < 2) || !(shefPages s).any fun p => enabled s p && pageInService s p) .stateNotReady
  if t = 2 then
    ready ++ when (recLE r 1 1 != 0 || !zeroBytes r 5 64) .rsvdSet ++
      when (!(sheafOf s (opTag r)).any fun x => x.gen == opGen r) (.block 0x62)
  else if t ≠ 1 then [.fieldRange]
  else
    let g := groupRec s (recLE r 7 1)
    let ok := groupOk s g
    let p := if ok then gAll g else 1
    let tgt := fun o => if recLE r o 8 = 0 then [] else targetErrs s (recLE r o 8)
    ready ++
    when (decide (64 ≤ opB1 r) || decide (8 ≤ recLE r 6 1) || decide (2 ^ 25 ≤ recLE r 8 4) || recLE r 22 2 != 0 ||
      recLE r 30 2 != 0 || recLE r 62 2 != 0 || decide (2 ^ 14 ≤ recLE r 14 2)) .rsvdSet ++
    (if opNone r then [] else opRegion s (opSrc r) (p * opLen r * shSize (opSrcFmt r))) ++
    (if opWrites s r then opRegion s (opDst r) ((if opRoot r then p else 1) * opLen r * shSize (opDstFmt r)) else []) ++
    (if opSts r = 0 then [] else opRegion s (opSts r) 64) ++
    when ((!opNone r && opSrcFmt r != 0 && opSrcFmt r != 2) || (opDstFmt r != 0 && opDstFmt r != 2)) .formatUnsupported ++
    when (opTag r == 0xFFFF || decide (4 < opLeading r) || decide (1023 < recLE r 12 2)) .fieldRange ++
    tgt 40 ++ tgt 48 ++
    when (decide (2 ^ 24 < opLen r)) .lenRange ++
    when (!opNoDl r && decide (opDeadline r < curInstant s)) .impressionPast ++
    when (!ok || (opRoot r && !nodeAssigned (topo s) (topoNs s) (topoNf s) (opRootNode r))) (.block 0x60) ++
    when (opLen r % 512 != 0) (.block 0x61) ++
    when (opLen r != 0 && (sheafOf s (opTag r)).isSome) .tagInUse ++
    when (opLen r != 0 && decide (4096 ≤ s.shef.open_.length)) .capacity

/-! ### Lineages and the result record (R263, R271) -/

/-- VALID and E of a lineage. -/
def lineOf (s : State) (l : Nat) : Bool × Nat := mapGet (fun _ => (false, 0)) s.shef.lines l
/-- A lineage changes. -/
def setLine (l : Nat) (v : Bool × Nat) : Act := updShef fun x => { x with lines := mapSet (fun _ => (false, 0)) x.lines l v }
/-- A lineage is PENDING: an open sheaf names it. -/
def linePending (s : State) (l : Nat) : Bool := s.shef.open_.any fun x => opLine x.rec_ == l

/-- No exponent. -/
def noExp : Nat := 0x8000
/-- The larger of two exponents. -/
def maxExp (a b : Nat) : Nat :=
  if a = noExp then b else if b = noExp then a else if toInt 16 a < toInt 16 b then b else a

/-- Counts saturate (R271). -/
def shSat (n : Nat) : Nat := min n (2 ^ 32 - 1)

/-- The clip count of the sheaf's shard, or of what its stages have gathered. -/
def shClips (x : Sheaf) : Nat := shSat (sumN x.clips)

/-- FLAGS [3:0] of the shard: CLIPPED, NONFINITE, POISONED, OUT_OVF. -/
def shFlags (x : Sheaf) : Nat :=
  b2n (shClips x != 0) + 2 * b2n (x.nonfin != 0) + 4 * b2n (x.marks.any id) + 8 * b2n (x.ovf != 0)

/-- The result record (R271), the global part by epilogue values. -/
def resultRec (x : Sheaf) (outcome flags imp : Nat) (g : SheafEpi) : List Byte :=
  leBytes 1 outcome ++ leBytes 1 flags ++ leBytes 2 (ofInt 16 (x.expo.getD 0)) ++ leBytes 2 x.tag ++ leBytes 1 x.gen ++
    leBytes 1 0 ++ leBytes 4 (shClips x) ++ leBytes 4 (shSat x.nonfin) ++ leBytes 4 (shSat x.nan) ++
    leBytes 4 (shSat x.ovf) ++ leBytes 6 imp ++ leBytes 2 0 ++ leBytes 1 g.flags ++ leBytes 1 0 ++ leBytes 2 g.eRes ++
    leBytes 2 g.eCon ++ leBytes 2 0 ++ leBytes 4 g.clip ++ leBytes 4 g.nonfin ++ leBytes 16 0

/-- No global values. -/
def epiNone : SheafEpi := ⟨noExp, noExp, 0, 0, 0⟩

/-- The result record is written at STS. -/
def putResult (x : Sheaf) (outcome flags imp : Nat) (g : SheafEpi) : Act :=
  onlyIf (opSts x.rec_ != 0) (putLocal (opSts x.rec_) (resultRec x outcome flags imp g))

/-- A target of a sheaf is sent. -/
def shTarget (x : Sheaf) (o : Nat) : Act := look fun s => sendTarget0 (srcOf (shefPg s)) (recLE x.rec_ o 8)

/-- SRC_DONE is sent, once. -/
def shSrcDone (tag : Nat) : Act :=
  withSheaf tag fun _ x => onlyIf (!x.srcDone) (acts [updSheaf tag fun y => { y with srcDone := true }, shTarget x 48])

/-- OPEN_CNT follows. -/
def setOpenCnt : Act := look fun s => setF SHEF_OPEN_CNT s.shef.open_.length

/-- A tag closes; GEN is its last closed GEN. -/
def shClose (tag gen : Nat) : Act :=
  acts [updShef fun v => { v with
      open_ := v.open_.filter fun x => x.tag != tag
      closed := (tag, gen) :: v.closed.filter fun p => p.1 != tag },
    setOpenCnt]

/-! ### Messages (R261) -/

/-- TAG and GEN of a message. -/
def msgTag : SheafMsg → Nat × Nat
  | .block t g _ _ _ _ _ _ _ _ _ => (t, g)
  | .scale t g _ _ => (t, g)
  | .epi t g _ _ _ _ _ _ => (t, g)
  | .shard t g _ _ _ => (t, g)
  | .shardAck t g _ => (t, g)

/-- A message to every other member of a stage. -/
def shBroadcast (x : Sheaf) (t : Nat) (m : SheafMsg) : Act :=
  look fun s => each ((gNodes x.grp t).filter (· != nodeId s)) fun n => sendMsg n .none (.sheaf m)

/-- Bits of the carrier at a stage. -/
def shWidth (r : List Byte) (t : Nat) : Nat := if opCarrier r ∧ t = 1 then 32 else 64
/-- V (R262). -/
def shV (x : Sheaf) : Nat :=
  if opCarrier x.rec_ then 31 - Nat.log2 (2 * gP x.grp 1 - 1) else 63 - Nat.log2 (2 * gAll x.grp - 1)
/-- Elements of the part a member keeps at a stage (R265). -/
def shPart (x : Sheaf) (t : Nat) : Nat :=
  (if t = 1 then gP x.grp 2 * gP x.grp 3 else if t = 2 then gP x.grp 3 else 1) * opLen x.rec_

/-- Class combination (R267). -/
def combineCls (a b : Nat) : Nat := if a = 0 then b else if b = 0 then a else if a = b then a else 3

/-- A block of a vector: its sums, classes, marks and clip count. -/
def shSlice (x : Sheaf) (b : Nat) : List Int × List Nat × List Bool × Nat :=
  ((x.vals.drop (512 * b)).take 512, (x.cls.drop (512 * b)).take 512, (x.marks.drop (512 * b)).take 512, x.clips.getD b 0)

/-- A contribution joins a block of the sheaf's own part. -/
def addBlock (x : Sheaf) (t idx clip : Nat) (vals : List Int) (cls : List Nat) (marks : List Bool) : Sheaf :=
  match x.accs.findIdx? fun a => a.stage == t && a.idx == idx with
  | none => { x with accs := x.accs ++ [⟨t, idx, 1, clip, vals, cls, marks⟩] }
  | some i => { x with accs := x.accs.modify i fun a => { a with
      n := a.n + 1
      clip := shSat (a.clip + clip)
      vals := (List.range 512).map fun k => a.vals.getD k 0 + vals.getD k 0
      cls := (List.range 512).map fun k => combineCls (a.cls.getD k 0) (cls.getD k 0)
      marks := (List.range 512).map fun k => a.marks.getD k false || marks.getD k false } }

/-! ### Stages (R265) -/

/-- The blocks of the parts this member sends at a stage, and its own part (R265, R267). With `mm`, blocks carry MISMATCH and
no data (R266). -/
def sendStage (tag t : Nat) (mm : Bool) : Act :=
  withSheaf tag fun s x =>
    let nb := shPart x t / 512
    let w := shWidth x.rec_ t
    acts [
      each (List.range (gP x.grp t)) fun j => onlyIf (j != gPos s x.grp t) <|
        each (List.range nb) fun b =>
          let d := shSlice x (j * nb + b)
          let cls := if d.2.1.any (· != 0) then d.2.1 else []
          sendMsg ((gNodes x.grp t).getD j 0) .none (.sheaf (if mm then
            .block x.tag x.gen t b (ofInt 16 (x.expo.getD 0)) w 0 true [] [] []
            else .block x.tag x.gen t b (ofInt 16 (x.expo.getD 0)) w d.2.2.2 false cls d.1 d.2.2.1)),
      onlyIf (!mm) <| updSheaf tag fun y => (List.range nb).foldl (fun z b =>
        let d := shSlice x (gPos s x.grp t * nb + b)
        addBlock z t b d.2.2.2 d.1 d.2.1 d.2.2.1) y]

/-- Stages still to run, in order: one of a single member is passed over; the next begins; after the last the shard is
ready. -/
def stageFrom (tag : Nat) : List Nat → Act
  | [] => updSheaf tag fun x => { x with phase := .ready }
  | t :: l => withSheaf tag fun _ x =>
    if gP x.grp t = 1 then stageFrom tag l
    else acts [sendStage tag t false, updSheaf tag fun y => { y with phase := .stage t }]

/-- The blocks of a stage have all inputs. -/
def stageFull (x : Sheaf) (t : Nat) : Bool :=
  (List.range (shPart x t / 512)).all fun b => x.accs.any fun a => a.stage == t && a.idx == b && a.n == gP x.grp t

/-- SHEAF_STAGE_DONE: the part's sum is the next stage's input (R265). -/
def stageDone (tag : Nat) : Act :=
  withSheaf tag fun _ x => match x.phase with
    | .stage t =>
      if !stageFull x t then .done
      else
        let as := (List.range (shPart x t / 512)).map fun b =>
          (x.accs.find? fun a => a.stage == t && a.idx == b).getD ⟨t, b, 0, 0, [], [], []⟩
        acts [updSheaf tag fun y => { y with
            vals := as.flatMap (·.vals)
            cls := as.flatMap fun a => (List.range 512).map fun k => a.cls.getD k 0
            marks := as.flatMap fun a => (List.range 512).map fun k => a.marks.getD k false
            clips := as.map (·.clip)
            accs := y.accs.filter fun a => a.stage != t },
          stageFrom tag (([1, 2, 3] : List Nat).filter (t < ·))]
    | _ => .done

/-! ### Ends without delivery (R266, R270) -/

/-- The sheaf ends before its delivery with an outcome (R270). -/
def shEnd (tag outcome : Nat) : Act :=
  acts [shSrcDone tag, withSheaf tag fun s x =>
    let y := match x.phase with
      | .stage t => { x with
          clips := (x.accs.filter fun a => a.stage == t).map (·.clip)
          marks := (x.accs.filter fun a => a.stage == t).flatMap (·.marks) }
      | .ready | .root => x
      | _ => { x with clips := [], marks := [] }
    acts [putResult y outcome (x.flags + shFlags y) s.press.imp epiNone, shTarget x 40, shClose tag x.gen,
      setLine (opLine x.rec_) (false, (lineOf s (opLine x.rec_)).2)]]

/-- Stages whose blocks this member has not sent. -/
def stagesUnsent (x : Sheaf) : List Nat :=
  match x.phase with
  | .stage t => ([1, 2, 3] : List Nat).filter (t < ·)
  | .ready | .root | .epi _ => []
  | _ => [1, 2, 3]

/-- The sheaf ends with SCALE_MISMATCH: later stages' blocks are sent with MISMATCH (R266). -/
def shMismatch (tag : Nat) : Act :=
  withSheaf tag fun _ x => acts [
    each (stagesUnsent x) fun t => sendStage tag t true,
    cnt SHEF_SHCNT 4, raiseShef 23, shEnd tag 5]

/-! ### Scale (R263) -/

/-- Elements of the source with their marks: FP32 or BF16 codes. -/
def shSource (s : State) (x : Sheaf) : List (Nat × Bool) :=
  let n := gAll x.grp * opLen x.rec_
  let sz := shSize (opSrcFmt x.rec_)
  if opNone x.rec_ then List.replicate n (0, false)
  else
    let bs := readLocal s (opSrc x.rec_) (n * sz)
    (List.range n).map fun i =>
      let e := (bs.drop (i * sz)).take sz
      (leNat (e.map Prod.fst), e.any Prod.snd)

/-- The value of a source code. -/
def shValue (x : Sheaf) (c : Nat) : XR := decodeFloat (opSrcFmt x.rec_) c

/-- floor(log2 |x|) of a finite non-zero value, as an exponent code. -/
def expCode (v : XR) : Nat :=
  match v with
  | .fin _ n d e => if n = 0 then noExp else ofInt 16 (ratLog2 n d + e)
  | _ => noExp

/-- E_con: the exponent of the largest finite non-zero contribution. -/
def shEcon (s : State) (x : Sheaf) : Nat :=
  (shSource s x).foldl (fun m c => maxExp m (expCode (shValue x c.1))) noExp

/-- The source is read through: errors found in memory are handled as a read finds them. -/
def shTouch (x : Sheaf) : Act :=
  onlyIf (!opNone x.rec_) (touchLocal (opSrc x.rec_) (gAll x.grp * opLen x.rec_ * shSize (opSrcFmt x.rec_)))

/-- A block that arrives (R266): mismatched, or added. -/
def shBlock (tag : Nat) (m : SheafMsg) : Act :=
  withSheaf tag fun _ x => match m with
    | .block _ _ t idx e w clip mm cls vals marks =>
      (match x.expo with
      | none => updSheaf tag fun y => { y with early := y.early ++ [m] }
      | some e0 =>
        if mm || toInt 16 e != e0 || w != shWidth x.rec_ t then shMismatch tag
        else updSheaf tag fun y => addBlock y t idx clip vals cls marks)
    | _ => .done

/-- S is fixed from E (R263): conversion can begin, and early blocks are met. -/
def fixScale (tag e : Nat) : Act :=
  withSheaf tag fun _ x =>
    let raw : Int := (if e = noExp then 0 else toInt 16 e) + opLeading x.rec_ + 2 - (shV x : Int)
    let v := max (-256) (min 255 raw)
    acts [updSheaf tag fun y => { y with
        expo := some v
        flags := if v = raw then y.flags else y.flags ||| 32
        phase := .read
        early := [] },
      each x.early (shBlock tag)]

/-- Scale rounds still to run (R263). -/
def scaleFrom (tag : Nat) : List Nat → Act
  | [] => withSheaf tag fun _ x => fixScale tag x.eMax
  | t :: l => withSheaf tag fun _ x =>
    if gP x.grp t = 1 then scaleFrom tag l
    else acts [
      shBroadcast x t (.scale x.tag x.gen t x.eMax),
      updSheaf tag fun y => { y with phase := .scale t },
      withSheaf tag fun _ y =>
        let got := y.scaleGot.filter fun p => p.1 == t
        if got.length + 1 < gP y.grp t then .done
        else acts [updSheaf tag fun z => { z with eMax := got.foldl (fun m p => maxExp m p.2) z.eMax }, scaleFrom tag l]]

/-- A scale round's exponent arrives. -/
def scaleGot (tag t e : Nat) : Act :=
  acts [updSheaf tag fun y => { y with scaleGot := y.scaleGot ++ [(t, e)] },
    withSheaf tag fun _ y =>
      let got := y.scaleGot.filter fun p => p.1 == t
      if y.phase = .scale t ∧ gP y.grp t ≤ got.length + 1 then
        acts [updSheaf tag fun z => { z with eMax := got.foldl (fun m p => maxExp m p.2) z.eMax },
          scaleFrom tag (([1, 2, 3] : List Nat).filter (t < ·))]
      else .done]

/-- An earlier sheaf of the same lineage is open. -/
def lineHeld (s : State) (x : Sheaf) : Bool :=
  (s.shef.open_.takeWhile fun y => y.tag != x.tag).any fun y => opLine y.rec_ == opLine x.rec_

/-- A sheaf sets out on its scale (R263): the lineage's E, the exchange, or a wait for the lineage. -/
def shBegin (tag : Nat) : Act :=
  withSheaf tag fun s x =>
    let ln := lineOf s (opLine x.rec_)
    let agree := fun (fallback : Bool) => acts [
      shTouch x,
      look fun t => updSheaf tag fun y => { y with eMax := shEcon t x, econ := shEcon t x, flags := y.flags ||| (16 * b2n fallback) },
      onlyIf fallback (cnt SHEF_SHCNT 7),
      scaleFrom tag [1, 2, 3]]
    if opAgreed x.rec_ then agree false
    else if lineHeld s x then updSheaf tag fun y => { y with phase := .line }
    else if ln.1 then fixScale tag ln.2
    else agree true

/-- Sheaves that waited for a lineage set out. -/
def lineRelease : Act :=
  look fun s => each (s.shef.open_.filter fun x => x.phase == .line && !lineHeld s x) fun x => shBegin x.tag

/-! ### Conversion (R111, R264, R267, R268) -/

/-- The clip limit L. -/
def shL (x : Sheaf) : Int := ((2 ^ shV x : Nat) : Int) - 1

/-- A contribution: the carrier integer, its class, and whether it clipped (R111). -/
def toCarrier (x : Sheaf) (S : Int) (v : XR) : Int × Nat × Bool :=
  match v with
  | .nan => (0, 3, false)
  | .inf neg => (0, if neg then 2 else 1, false)
  | .fin neg n d e =>
    let p := ratShift n d (e - S)
    let q : Int := roundQuot p.1 p.2 0 0
    let c := decide (shL x < q)
    let m := if c then shL x else q
    (if neg then -m else m, 0, c)

/-- SHEAF_SOURCE_READ_DONE: the source has been read whole and converted; SRC_DONE is sent; the first stage begins (R263 to
R268). -/
def sourceRead (tag : Nat) : Act :=
  withSheaf tag fun _ x0 => match x0.phase, x0.expo with
    | .read, some S => acts [
      shTouch x0,
      look fun s =>
        let src := shSource s x0
        let cs := src.map fun c => toCarrier x0 S (shValue x0 c.1)
        let ms := src.map Prod.snd
        let pair := opCarrier x0.rec_
        acts [
          onlyIf (ms.any id) (consume (shefPg s) (opSrc x0.rec_)),
          updSheaf tag fun y => { y with
            vals := cs.map (·.1)
            cls := cs.map (·.2.1)
            marks := if pair then (List.range ms.length).map fun i => ms.getD (i / 2 * 2) false || ms.getD (i / 2 * 2 + 1) false
              else ms
            clips := (List.range (cs.length / 512)).map fun b => countB (·.2.2) ((cs.drop (512 * b)).take 512)
            econ := shEcon s x0 }],
      shSrcDone tag,
      stageFrom tag [1, 2, 3]]
    | _, _ => .done

/-! ### Delivery and epilogue (R269, R270) -/

/-- An element out of the carrier: its code in DST_FMT and whether it overflowed (R111, R117, R267). -/
def fromCarrier (f : Nat) (S : Int) (n : Int) (cls : Nat) : Nat × Bool :=
  if cls = 3 then (nanCode f, false)
  else if cls ≠ 0 then (infCode f + (if cls = 2 then signBit f else 0), false)
  else if n = 0 then (0, false)
  else
    let r := roundFloat f 0 0 (xScaled' n S)
    (r.code, r.cls == .inf)
where
  /-- n × 2^S exactly. -/
  xScaled' (n S : Int) : XR := .fin (decide (n < 0)) n.natAbs 1 S

/-- The shard converted: codes with marks. -/
def shConverted (x : Sheaf) : List (Nat × Bool × Bool) :=
  (List.range x.vals.length).map fun i =>
    let r := fromCarrier (opDstFmt x.rec_) (x.expo.getD 0) (x.vals.getD i 0) (x.cls.getD i 0)
    (r.1, r.2, x.marks.getD i false)

/-- The bytes of a converted shard, with their marks. -/
def shBytes (x : Sheaf) : List (Byte × Bool) :=
  (shConverted x).flatMap fun c => (leBytes (shSize (opDstFmt x.rec_)) c.1).map fun b => (b, c.2.2)

/-- An Update Engine learns of a delivery in its HBM: updates whose gradient it is, folds whose statistics it is (R193, R196,
R269, R277). -/
def notifyUe (tag a n : Nat) : Act :=
  look fun s =>
    if !isHbmAddr s a then .done
    else
      let site := a / 2 ^ 36
      acts [
        onlyIf (fb s UPDT_PG_EN site) <| each (List.range (fv s UPDT_PG_COUNT site)) fun g =>
          let r := pgRec s site g
          onlyIf (pgValid r && !pgDir r && pgGradTag r == tag) (ueEnqueue site (.update g (some (a, n)))),
        onlyIf (fb s UPDT_CURV_EN site) <| each (List.range (fv s UPDT_CURV_COUNT site)) fun g =>
          let r := cvRec s site g
          each [0, 1] fun f => onlyIf (cvValid r && cvSheaf r f == tag) <| look fun t =>
            if folding t site g f then foldOverrun site g f else ueEnqueue site (.fold g f)]

/-- Epilogue values combine (R269). -/
def epiJoin (a b : SheafEpi) : SheafEpi :=
  ⟨maxExp a.eRes b.eRes, maxExp a.eCon b.eCon, a.flags ||| b.flags, shSat (a.clip + b.clip), shSat (a.nonfin + b.nonfin)⟩

/-- The epilogue ends (R269): the lineage, the global fields, the tag. -/
def epiEnd (tag : Nat) : Act :=
  withSheaf tag fun s x =>
    let e := maxExp x.epi.eRes x.epi.eCon
    acts [
      onlyIf (e != noExp) (setLine (opLine x.rec_) (true, e)),
      putResult x 1 (x.flags + shFlags x + 64) x.delivered x.epi,
      let _ := s
      shClose tag x.gen, lineRelease]

/-- Epilogue rounds still to run. -/
def epiFrom (tag : Nat) : List Nat → Act
  | [] => epiEnd tag
  | t :: l => withSheaf tag fun _ x =>
    if gP x.grp t = 1 then epiFrom tag l
    else acts [
      shBroadcast x t (.epi x.tag x.gen t x.epi.eRes x.epi.eCon x.epi.flags x.epi.clip x.epi.nonfin),
      updSheaf tag fun y => { y with phase := .epi t },
      withSheaf tag fun _ y =>
        let got := y.epiGot.filter fun p => p.1 == t
        if got.length + 1 < gP y.grp t then .done
        else acts [updSheaf tag fun z => { z with epi := got.foldl (fun m p => epiJoin m p.2) z.epi }, epiFrom tag l]]

/-- An epilogue round's record arrives. -/
def epiGot (tag t : Nat) (v : SheafEpi) : Act :=
  acts [updSheaf tag fun y => { y with epiGot := y.epiGot ++ [(t, v)] },
    withSheaf tag fun _ y =>
      let got := y.epiGot.filter fun p => p.1 == t
      if y.phase = .epi t ∧ gP y.grp t ≤ got.length + 1 then
        acts [updSheaf tag fun z => { z with epi := got.foldl (fun m p => epiJoin m p.2) z.epi },
          epiFrom tag (([1, 2, 3] : List Nat).filter (t < ·))]
      else .done]

/-- A delivery has ended (R269 steps 3 to 6): the Update Engine, the record, DONE, the epilogue. -/
def shDelivered (tag : Nat) : Act :=
  withSheaf tag fun s x0 =>
    let x := { x0 with delivered := s.press.imp }
    let own := opWrites s x.rec_
    let n := (if opRoot x.rec_ then gAll x.grp else 1) * opLen x.rec_ * shSize (opDstFmt x.rec_)
    acts [
      onlyIf own (notifyUe tag (opDst x.rec_) n),
      putResult x 1 (x.flags + shFlags x) s.press.imp epiNone,
      shTarget x 40,
      onlyIf (opEvt x.rec_) (raiseShef 16),
      cnt SHEF_SHCNT 0,
      onlyIf (shClips x != 0) (acts [cnt SHEF_SHCNT 1, raiseShef 17]),
      onlyIf (x.nonfin != 0) (acts [incF SHEF_SHCNT x.nonfin 0 2, raiseShef 18]),
      updSheaf tag fun y => { y with
        delivered := s.press.imp
        epi := ⟨x.eRes, x.econ, shFlags x, shClips x, shSat x.nonfin⟩ },
      epiFrom tag [1, 2, 3]]

/-- A shard is written by the root (R269). -/
def rootWrite (tag k : Nat) (bs : List (Byte × Bool)) : Act :=
  withSheaf tag fun s x =>
    let a := opDst x.rec_ + k * opLen x.rec_ * shSize (opDstFmt x.rec_)
    acts [onlyIf (!writeRefused s a bs.length) (writeLocal a bs),
      updSheaf tag fun y => { y with rootGot := if y.rootGot.contains k then y.rootGot else y.rootGot ++ [k] },
      withSheaf tag fun _ y => onlyIf (y.phase == .root && y.rootGot.length == gAll y.grp) (shDelivered tag)]

/-- SHEAF_DELIVERY: the shard is converted and written, or sent to the root (R269). -/
def sheafDeliver (tag : Nat) : Act :=
  withSheaf tag fun s x0 =>
    if x0.phase ≠ .ready then .done
    else
      let cs := shConverted x0
      let bad := fun (i : Nat) (c : Nat × Bool × Bool) => c.2.1 || x0.cls.getD i 0 != 0
      let idx := List.range cs.length
      let x := { x0 with
        nonfin := countB (fun i => bad i (cs.getD i (0, false, false))) idx
        nan := countB (fun i => x0.cls.getD i 0 == 3) idx
        ovf := countB (fun c => c.2.1) cs
        eRes := idx.foldl (fun m i =>
          let n := x0.vals.getD i 0
          if bad i (cs.getD i (0, false, false)) || n == 0 then m
          else maxExp m (ofInt 16 ((Nat.log2 n.natAbs : Int) + x0.expo.getD 0))) noExp }
      acts [updSheaf tag fun _ => x,
        if !opRoot x.rec_ then acts [
          onlyIf (!writeRefused s (opDst x.rec_) (shBytes x).length) (writeLocal (opDst x.rec_) (shBytes x)), shDelivered tag]
        else acts [updSheaf tag fun y => { y with phase := .root },
          if opRootNode x.rec_ = nodeId s then rootWrite tag (gShard s x.grp) (shBytes x)
          else sendMsg (opRootNode x.rec_) .none (.sheaf (.shard x.tag x.gen (gShard s x.grp) ((shBytes x).map Prod.fst)
            ((shBytes x).map Prod.snd)))]]

/-! ### Arrivals (R261) -/

/-- A message whose sheaf is open is consumed. -/
def shTake (node : Nat) (m : SheafMsg) : Act :=
  match m with
  | .block tag _ _ _ _ _ _ _ _ _ _ => shBlock tag m
  | .scale tag _ t e => scaleGot tag t e
  | .epi tag _ t a b c d e => epiGot tag t ⟨a, b, c, d, e⟩
  | .shard tag g k data marks => acts [rootWrite tag k (data.zip marks), sendMsg node .none (.sheaf (.shardAck tag g k))]
  | .shardAck tag _ _ => withSheaf tag fun _ x => onlyIf (x.phase == .root) (shDelivered tag)

/-- Bytes parked messages take of the park area (log entry 25). -/
def parkBytes (l : List (Nat × SheafMsg)) : Nat := sumN (l.map fun m => bodyBytes (.sheaf m.2))

/-- A message is parked, or held at the link while the area is full. -/
def shPark (m : Nat × SheafMsg) : Act :=
  look fun s =>
    if parkBytes (s.shef.parked ++ [m]) ≤ fv s SHEF_PARK_MIB * 2 ^ 20 then updShef fun v => { v with parked := v.parked ++ [m] }
    else acts [updShef fun v => { v with held := v.held ++ [m] }, raiseShef 21]

/-- What becomes of an arriving message (R261): consumed, parked or discarded. -/
def shArrive (node : Nat) (m : SheafMsg) : Act :=
  look fun s =>
    let (tag, gen) := msgTag m
    let stale := acts [cnt SHEF_SHCNT 5, raiseShef 20]
    match sheafOf s tag with
    | some x =>
      if x.gen = gen then shTake node m
      else if gen = (x.gen + 1) % 256 then shPark (node, m)
      else stale
    | none => if (s.shef.closed.any fun p => p == (tag, gen)) then stale else shPark (node, m)

/-- Held messages that fit are parked. -/
def parkHeld : List (Nat × SheafMsg) → Act
  | [] => .done
  | m :: l => acts [look fun s => onlyIf (parkBytes (s.shef.parked ++ [m]) ≤ fv s SHEF_PARK_MIB * 2 ^ 20)
      (updShef fun v => { v with
        parked := v.parked ++ [m]
        held := v.held.erase m }), parkHeld l]

/-! ### Opening and ending -/

/-- A new sheaf. -/
def newSheaf (r g : List Byte) : Sheaf :=
  ⟨opTag r, opGen r, r, g, .line, false, none, noExp, noExp, 0, [], [], [], [], [], [], [], [], epiNone, 0, 0, 0, noExp, [], 0⟩

/-- An accepted OPEN (R259 to R261). -/
def sheafOpen (r : List Byte) : Act :=
  look fun s =>
    let x := newSheaf r (groupRec s (recLE r 7 1))
    if opLen r = 0 then acts [shTarget x 48, putResult x 2 0 s.press.imp epiNone, shTarget x 40]
    else
      let mine := (s.shef.parked ++ s.shef.held).filter fun m => msgTag m.2 == (opTag r, opGen r)
      acts [
        updShef fun v => { v with
          open_ := v.open_ ++ [x]
          parked := v.parked.filter fun m => msgTag m.2 != (opTag r, opGen r)
          held := v.held.filter fun m => msgTag m.2 != (opTag r, opGen r) },
        setOpenCnt,
        shBegin (opTag r),
        each mine (fun m => shTake m.1 m.2),
        look fun t => parkHeld t.shef.held]

/-- An accepted ABORT (R270). -/
def sheafAbort (tag : Nat) : Act := acts [shEnd tag 4, lineRelease]

/-- An accepted record acts. -/
def shefRecord (r : List Byte) : Act := if recLE r 0 1 = 1 then sheafOpen r else sheafAbort (opTag r)

/-- A window record is rejected (R259, R272). -/
def shefReject (r : List Byte) (c : ErrCode) : Act :=
  look fun s => acts [
    if fb s SHEF_SHREJ_VALID then setF SHEF_SHREJ_MULTI 1
    else acts [setF SHEF_SHREJ_VALID 1, setF SHEF_SHREJ_CODE (errNum c), setF SHEF_SHREJ_TAG (opTag r),
      setF SHEF_SHREJ_KIND (if recLE r 0 1 = 1 then 1 else if recLE r 0 1 = 2 then 2 else 3)],
    raiseShef 22]

/-- The window's front record, if of TYPE `ty`, is taken; those of a reserved TYPE before it are rejected. -/
def shefWindow (ty : Nat) : Nat → Act
  | 0 => .done
  | n + 1 => look fun s => match fifoOf s 32 with
    | [] => .done
    | w :: _ =>
      let t := recLE w.bytes 0 1
      let e := firstErr (openErrs s w.bytes)
      let eat := acts [fifoPop 32, onlyIf w.marked (consume (shefPg s) 0xFC00_0000_0000)]
      if t ≠ 1 ∧ t ≠ 2 then acts [eat, shefReject w.bytes e, shefWindow ty n]
      else if t ≠ ty then .done
      else if e ≠ .ok then acts [eat, shefReject w.bytes e]
      else acts [eat, shefRecord w.bytes]

/-- The window is taken from the front. -/
def shefTake (ty : Nat) : Act := look fun s => shefWindow ty ((fifoOf s 32).length + 1)

/-- SHEAF_TIMEOUT (R270): the deadline is reached before the last stage has completed, or before the root has acknowledged. -/
def sheafTimeout (tag : Nat) : Act :=
  withSheaf tag fun s x =>
    let waits := match x.phase with
      | .ready | .epi _ => false
      | .root => opRootNode x.rec_ != nodeId s
      | _ => true
    onlyIf (waits && !opNoDl x.rec_ && reached s (opDeadline x.rec_))
      (acts [cnt SHEF_SHCNT 3, raiseShef 19, shEnd tag 3, lineRelease])

/-- EPILOGUE_TIMEOUT (R270). -/
def epiTimeout (tag : Nat) : Act :=
  withSheaf tag fun s x => match x.phase with
    | .epi _ => onlyIf (decide (x.delivered + fv s SHEF_EPI_LIMIT ≤ s.press.imp)) (acts [
        setLine (opLine x.rec_) (false, (lineOf s (opLine x.rec_)).2),
        putResult x 1 (x.flags + shFlags x + 128) x.delivered epiNone,
        shClose tag x.gen, lineRelease])
    | _ => .done

/-- A SHEF soft reset (R273). -/
def shefReset : Act :=
  acts [updShef fun v => { v with
      open_ := []
      parked := []
      held := []
      closed := v.closed
      lines := v.lines.map (fun p => (p.1, (false, p.2.2))) |>.filter (fun p => p.2 != (false, 0)) },
    upd (.fifo 32 []), setOpenCnt]

/-! ### Rows -/

/-- SHEAF_BLOCK_RECEIVE (R261): a sheaf message arrives from a node. -/
def execSheafBlockReceive (node : Nat) (m : SheafMsg) (s : State) : Host.Outcome State Fault Refusal :=
  .next ((match m with
    | .block .. => shArrive node m
    | .shard .. => shArrive node m
    | .shardAck .. => shArrive node m
    | _ => .done : Act).run s)
/-- SCALE_ROUND_RECEIVE (R263). -/
def execScaleRoundReceive (node tag gen round e : Nat) (s : State) : Host.Outcome State Fault Refusal :=
  .next ((shArrive node (.scale tag gen round e)).run s)
/-- SHEAF_SOURCE_READ_DONE (R263 to R269). -/
def execSheafSourceReadDone (tag : Nat) (s : State) : Host.Outcome State Fault Refusal := .next ((sourceRead tag).run s)
/-- SHEAF_STAGE_DONE (R265). -/
def execSheafStageDone (tag : Nat) (s : State) : Host.Outcome State Fault Refusal := .next ((stageDone tag).run s)
/-- SHEAF_DELIVERY (R269). -/
def execSheafDelivery (tag : Nat) (s : State) : Host.Outcome State Fault Refusal := .next ((sheafDeliver tag).run s)
/-- EPILOGUE_ROUND_RECEIVE (R269). -/
def execEpilogueRoundReceive (node tag gen round eRes eCon flags clip nonfin : Nat) (s : State) :
    Host.Outcome State Fault Refusal :=
  .next ((shArrive node (.epi tag gen round eRes eCon flags clip nonfin)).run s)
/-- SHEAF_TIMEOUT (R270). -/
def execSheafTimeout (tag elapsed : Nat) (s : State) : Host.Outcome State Fault Refusal :=
  .next ((acts [timeTo elapsed, sheafTimeout tag]).run s)
/-- EPILOGUE_TIMEOUT (R270). -/
def execEpilogueTimeout (tag elapsed : Nat) (s : State) : Host.Outcome State Fault Refusal :=
  .next ((acts [timeTo elapsed, epiTimeout tag]).run s)

end Sys2Proof.Machine
end

