-- ==== Sys2Proof/Machine/SolvNum.lean ====
section
/-! DEFINITION. The Solver Engine's arithmetic (R206, R211 to R217): FX40 matrices, exact sums rounded once, the analysis
pass, and the iterations of its modes. -/

namespace Sys2Proof.Machine

/-- A rounded FX40 value with its overflow margin: 0 where it did not saturate (R217). -/
abbrev Fx := Int × Nat

/-- The overflow margin m of R217 of a value that saturates at exponent X. -/
def fxMargin (X : Int) : XR → Nat
  | .fin _ n d e => max 1 (ratLog2 n d + e - X - 2).toNat
  | _ => 16

/-- An exact value rounded to FX40 at exponent X (R109). -/
def fxOf (X : Int) (v : XR) : Fx :=
  let r := roundFx 0 0 X v
  (r.1, if r.2 = .sat then fxMargin X v else 0)

/-- An integer times a power of two, exactly. -/
def xScaled (n e : Int) : XR := .fin (decide (n < 0)) n.natAbs 1 e

/-- The largest margin of a list. -/
def maxMargin (l : List Fx) : Nat := l.foldl (fun m x => max m x.2) 0

/-- An FX40 value re-expressed at another exponent (R217). -/
def fxShift (X X' m : Int) : Int := if X = X' then m else (fxOf X' (fxVal m X)).1

/-- A matrix re-expressed at another exponent. -/
def matShift (X X' : Int) (a : FxMat) : FxMat := a.map fun r => r.map (fxShift X X')

/-- The exponent of a bound β, given as a test `β < 2^e`: the smallest X with β < 4 × 2^X, raised and clamped (R215). -/
def expOf (lt : Int → Bool) (raise_ : Nat) : Int :=
  let x := ((List.range 256).find? fun (i : Nat) => lt ((i : Int) - 128 + 2)).getD 255
  max (-128) (min 127 ((x : Int) - 128 + raise_))

/-- v < 2^e for an exact value. -/
def xBelowPow (v : XR) (e : Int) : Bool := xLt v (.fin false 1 1 e)

/-- Element (i, j) of a symmetric matrix held as its upper triangle. -/
def symGet (a : FxMat) (i j : Nat) : Int := if i ≤ j then (a.getD i []).getD (j - i) 0 else (a.getD j []).getD (i - j) 0

/-- Element (i, j) of an upper triangular matrix. -/
def upGet (a : FxMat) (i j : Nat) : Int := if i ≤ j then (a.getD i []).getD (j - i) 0 else 0

/-- Element (i, j) of a full matrix. -/
def fullGet (a : FxMat) (i j : Nat) : Int := (a.getD i []).getD j 0

/-- The upper triangle of an n × n matrix given by its elements. -/
def upOf (n : Nat) (f : Nat → Nat → Fx) : List (List Fx) :=
  (List.range n).map fun i => (List.range (n - i)).map fun k => f i (i + k)

/-- The values of a matrix of rounded values. -/
def valsOf (a : List (List Fx)) : FxMat := a.map fun r => r.map Prod.fst

/-- The largest margin of a matrix of rounded values. -/
def marginOf (a : List (List Fx)) : Nat := maxMargin a.flatten

/-- The upper triangle of a product of symmetric matrices at exponents Xa and Xb, rounded to X (R211). -/
def symMul (n : Nat) (Xa Xb X : Int) (a b : FxMat) : List (List Fx) :=
  upOf n fun i j => fxOf X (xScaled ((List.range n).foldl (fun t k => t + symGet a i k * symGet b k j) 0) (Xa + Xb - 72))

/-- A matrix with the margins met so far. -/
abbrev MatM := FxMat × Nat

/-- A rounded matrix joins the margins met so far. -/
def withMargin (a : List (List Fx)) (m : Nat) : MatM := (valsOf a, max m (marginOf a))

/-- q-fold squaring: from exponent X to those `exp` gives for the powers 2, 4, … (R211). -/
def powSq (n : Nat) (exp : Nat → Int) : Nat → Nat → MatM → MatM
  | 0, _, a => a
  | q + 1, i, a => powSq n exp q (i + 1) (withMargin (symMul n (exp i) (exp i) (exp (i + 1)) a.1 a.1) a.2)

/-- The identity times a value. -/
def diagOf (n : Nat) (v : Int) : FxMat := (List.range n).map fun i => (List.range (n - i)).map fun k => if k = 0 then v else 0

/-- r of R211: the largest |M - I| over the upper triangle, as an FP32 code. -/
def newtonResidual (X : Int) (m : FxMat) : Nat :=
  let one : XR := .fin false 1 1 0
  let vs := m.flatMap fun r => (List.range r.length).map fun k =>
    xAbs (if k = 0 then xSub (fxVal (r.getD k 0) X) one else fxVal (r.getD k 0) X)
  (roundFloat 0 0 0 (vs.foldl xMax (xZero false))).code

/-- One coupled Newton iteration (R211): X and M after it, and the margins met. The exponent of X is Xx, of M, T and the
powers of T is Xm; p = 2^q. -/
def newtonStep (n q : Nat) (Xx Xm : Int) (x m : FxMat) : FxMat × FxMat × Nat :=
  let p := 2 ^ q
  let one : XR := .fin false 1 1 0
  let t := upOf n fun i j =>
    let v := xSub (if i = j then xMul (xInt ((p : Int) + 1)) one else xZero false) (fxVal (symGet m i j) Xm)
    fxOf Xm (xMul v (.fin false 1 1 (-(q : Int))))
  let x' := symMul n Xx Xm Xx x (valsOf t)
  let tp := powSq n (fun _ => Xm) q 0 (withMargin t 0)
  let m' := symMul n Xm Xm Xm tp.1 m
  (valsOf x', valsOf m', max (max (marginOf x') tp.2) (marginOf m'))

/-- A factorisation so far: rows of U, pivots d, boosts, first boosted index, largest τ - d, margins. -/
structure FactSt where
  u : FxMat
  d : List Int
  boosts : Nat
  first : Option Nat
  resid : XR
  margin : Nat
deriving DecidableEq, Repr

/-- Row i of CHOL or LDLT (R212). `a` gives A + δI exactly; Xd is the exponent of the pivots, Xu that of U. -/
def factRow (ldlt : Bool) (n : Nat) (Xd Xu : Int) (tau : XR) (a : Nat → Nat → XR) (st : FactSt) (i : Nat) : FactSt :=
  let dot := fun j => (List.range i).foldl (fun t k =>
    let uu := upGet st.u k i * upGet st.u k j
    xAdd t (if ldlt then xMul (xScaled uu (2 * Xu - 72)) (fxVal (st.d.getD k 0) Xd) else xScaled uu (2 * Xu - 72)))
    (xZero false)
  let p := fxOf Xd (xSub (a i i) (dot i))
  let low := !xLt tau (fxVal p.1 Xd)
  let d := if low then fxOf Xd tau else p
  let diag : Fx := if ldlt then fxOf Xu (.fin false 1 1 0) else fxOf Xu (xSqrt (fxVal d.1 Xd))
  let den := if ldlt then fxVal d.1 Xd else fxVal diag.1 Xu
  let row := (List.range (n - i - 1)).map fun k => fxOf Xu (xDiv (xSub (a i (i + 1 + k)) (dot (i + 1 + k))) den)
  { u := st.u ++ [diag.1 :: row.map Prod.fst]
    d := st.d ++ [d.1]
    boosts := st.boosts + (if low then 1 else 0)
    first := if low && st.first.isNone then some i else st.first
    resid := if low then xMax st.resid (xSub tau (fxVal p.1 Xd)) else st.resid
    margin := max (max st.margin (max p.2 diag.2)) (maxMargin row) }

/-- A whole factorisation. -/
def factor (ldlt : Bool) (n : Nat) (Xd Xu : Int) (tau : XR) (a : Nat → Nat → XR) : FactSt :=
  (List.range n).foldl (factRow ldlt n Xd Xu tau a) ⟨[], [], 0, none, xZero false, 0⟩

/-- One unknown of a triangular solve for right-hand side c (R213): `done` holds the unknowns already found, by index. -/
def trsmStep (unit trans : Bool) (n : Nat) (Xu Xb X : Int) (u b : FxMat) (c : Nat) (done : List (Nat × Int)) (i : Nat) :
    Fx :=
  let _ := n
  let coef := fun k => if trans then upGet u k i else upGet u i k
  let sum := done.foldl (fun t p => t + coef p.1 * p.2) 0
  let num := xSub (fxVal (fullGet b i c) Xb) (xScaled sum (Xu + X - 72))
  fxOf X (if unit then num else xDiv num (fxVal (upGet u i i) Xu))

/-- A triangular solve for one right-hand side: the unknowns by index, and the margin. -/
def trsmCol (unit trans : Bool) (n : Nat) (Xu Xb X : Int) (u b : FxMat) (c : Nat) : List (Nat × Int) × Nat :=
  (if trans then List.range n else (List.range n).reverse).foldl (fun acc i =>
    let v := trsmStep unit trans n Xu Xb X u b c acc.1 i
    (acc.1 ++ [(i, v.1)], max acc.2 v.2)) ([], 0)

/-- A triangular solve: an n × nrhs matrix, and the margin (R213). -/
def trsm (unit trans : Bool) (n nrhs : Nat) (Xu Xb X : Int) (u b : FxMat) : MatM :=
  let cols := (List.range nrhs).map (trsmCol unit trans n Xu Xb X u b)
  ((List.range n).map fun i => cols.map fun c => ((c.1.find? fun p => p.1 == i).map Prod.snd).getD 0,
    cols.foldl (fun m c => max m c.2) 0)

/-- Smallest integer c with v ≤ 2^c, for a positive exact value. -/
def ceilLog2 (v : XR) : Int :=
  match v with
  | .fin _ n d e => if n = 0 then 0 else
    let k := ratLog2 n d + e
    if xEq v (.fin false 1 1 k) then k else k + 1
  | _ => 256

/-- The values of the analysis pass (R215): trace bound, g⁺, g⁻, a_max. -/
structure Analysis where
  trace : XR
  gUp : XR
  gLow : XR
  aMax : XR
  dMax : XR
deriving DecidableEq, Repr

/-- The analysis pass over an n × n symmetric matrix given exactly, without δ (R215). -/
def analyse (n : Nat) (a : Nat → Nat → XR) (delta : XR) : Analysis :=
  let is := List.range n
  let off := fun i => is.foldl (fun t j => if j = i then t else xAdd t (xAbs (a i j))) (xZero false)
  let dg := fun i => xAdd (a i i) delta
  let maxOf := fun (l : List XR) => (l.drop 1).foldl xMax (l.headD (xZero false))
  { trace := is.foldl (fun t i => xAdd t (dg i)) (xZero false)
    gUp := maxOf (is.map fun i => xAdd (dg i) (off i))
    gLow := (is.drop 1).foldl (fun t i => xMin t (xSub (dg i) (off i))) (xSub (dg 0) (off 0))
    aMax := maxOf (is.flatMap fun i => (List.range (n - i)).map fun k => xAbs (if k = 0 then dg i else a i (i + k)))
    dMax := maxOf (is.map dg) }

/-- β_max (R215). -/
def Analysis.betaMax (an : Analysis) : XR := xMin an.trace an.gUp

/-- l (R215). -/
def Analysis.low (an : Analysis) (delta : XR) : XR :=
  let m := xMax delta an.gLow
  if xLt (xZero false) m then m else xMul (.fin false 1 1 (-24)) an.betaMax

/-- k of NEWTON: the smallest integer with 2^(kp) ≥ β_max (R216); `free` where β_max is not positive. -/
def newtonK (p : Nat) (beta : XR) (free : Int) : Int :=
  if xLt (xZero false) beta then
    let c := ceilLog2 beta
    0 - (0 - c) / (p : Int)
  else free

/-- The exponent of NEWTON's X: β = max(2^-k, l^(-1/p)) (R216). -/
def newtonExpX (p : Nat) (k : Int) (l : XR) (raise_ : Nat) : Int :=
  expOf (fun e => decide (-k < e) && xLt (.fin false 1 1 (-(e * p))) l) raise_

/-- One row of a projected Gauss–Seidel sweep (R214): the new x_i, |y - x_i| in units of the vectors, and the margin. -/
def gsRow (Xa Xv Xd : Int) (cols : List Nat) (vals : List Int) (b lo hi dinv : Int) (x : List Int) (i : Nat) :
    Int × Int × Nat :=
  let sum := (cols.zip vals).foldl (fun t p => t + p.2 * x.getD p.1 0) 0
  let s := fxOf Xv (xSub (fxVal b Xv) (xScaled sum (Xa + Xv - 72)))
  let z := fxOf Xv (xAdd (fxVal (x.getD i 0) Xv) (xScaled (s.1 * dinv) (Xv + Xd - 72)))
  let y := min (max z.1 lo) hi
  (y, ((y - x.getD i 0).natAbs : Int), max s.2 z.2)

end Sys2Proof.Machine
end

