-- ==== Sys2Proof/Machine/Solv.lean ====
section
/-! DEFINITION. The Solver Engines (R206 to R234): contexts and their enable, GO and stream records, the start of a solve,
iterations, deadlines, pre-emption and delivery. -/

namespace Sys2Proof.Machine

/-! ### Contexts -/

/-- A Solver Engine's hidden state. -/
def solvSt (s : State) (e : Nat) : Solv := mapGet solvDefault s.solvs e
/-- A context's hidden state. -/
def ctxAt (s : State) (e c : Nat) : SolvCtx := (solvSt s e).ctxs.getD c SolvCtx.init
/-- A Solver Engine's hidden state changes. -/
def updSolv (e : Nat) (f : Solv → Solv) : Act := look fun s => upd (.solv e (f (solvSt s e)))
/-- A context's hidden state changes. -/
def updCtx (e c : Nat) (f : SolvCtx → SolvCtx) : Act := updSolv e fun v => { v with ctxs := modAt 32 SolvCtx.init v.ctxs c f }
/-- The solve of a context changes. -/
def updSolve (e c : Nat) (f : Solve → Solve) : Act := updCtx e c fun x => { x with solve := x.solve.map f }
/-- The page of an engine. -/
def solvPg (e : Nat) : PageRef := ⟨.solv, e⟩
/-- MODE. -/
def cMode (s : State) (e c : Nat) : Nat := fv s SOLV_CMODE e c
/-- STATE: 0 OFF, 1 IDLE, 2 PENDING, 3 RUNNABLE, 4 RUNNING, 5 PREEMPTED, 6 DELIVERING. -/
def cState (s : State) (e c : Nat) : Nat := fv s SOLV_CSTATE e c
/-- STATE changes. -/
def setCState (e c st : Nat) : Act := setF SOLV_CSTATE st e c
/-- The context's EXP_RAISE. -/
def cRaise (s : State) (e c : Nat) : Nat := fv s SOLV_EXP_RAISE e c
/-- An exponent clamped to -128 to 127 (R215). -/
def clampX (x : Int) : Int := max (-128) (min 127 x)
/-- N, or n of a batch. -/
def cN (s : State) (e c : Nat) : Nat := fv s SOLV_CN e c
/-- The engines of a context's gang, by the fields given (R219). -/
def gangOf (e stream gang : Nat) : List Nat := if stream = 1 then (List.range (2 ^ gang)).map (e + ·) else [e]
/-- The engines of a configured context's gang. -/
def cGang (s : State) (e c : Nat) : List Nat := gangOf e (fv s SOLV_STREAM e c) (fv s SOLV_GANG e c)

/-! ### Enable (R209, R210, R218, R234) -/

/-- The control word a write would set. -/
structure CtxCfg where
  mode : Nat
  p : Nat
  kind : Nat
  stream : Nat
  gang : Nat
deriving DecidableEq, Repr

/-- The fields of a CTX_CTL value. -/
def parseCfg (v : Nat) : CtxCfg := ⟨bits v 2 0, bits v 4 3, bits v 5 5, bits v 6 6, bits v 8 7⟩

/-- Frames and work-region tiles a context needs (R218). -/
def ctxNeeds (cfg : CtxCfg) (n cnt z : Nat) : Nat × Nat :=
  let t := ceilDiv n 64
  let sq := t * (t + 1) / 2
  let u := ceilDiv cnt 64
  if cfg.mode = 5 then (ceilDiv (cnt * (5 * (n * z + 7 * n) + n * z + n + 8)) 20480, 0)
  else
    let work := if cfg.mode = 4 then (sq, 7 * sq) else if cfg.mode = 3 then (t * u, sq + 3 * t * u) else (sq, 3 * sq)
    let res := if cfg.mode = 4 then 6 * sq else if cfg.mode = 3 then sq + 2 * t * u else 2 * sq
    if cfg.stream = 1 then (80, work.2) else (res, work.1)

/-- The frame ranges [BASE, BASE + NFRAMES) of two contexts meet. -/
def framesMeet (b n b' n' : Nat) : Bool := decide (b < b' + n') && decide (b' < b + n)

/-- The failing checks of an enable (R209, R210, R218, R219, R234). -/
def solvEnableErrs (s : State) (e c : Nat) (cfg : CtxCfg) : List ErrCode :=
  let n := cN s e c
  let cnt := fv s SOLV_CCOUNT e c
  let need := ctxNeeds cfg n cnt (fv s SOLV_ZROW e c)
  let base := fv s SOLV_CBASE e c
  let nf := fv s SOLV_NFRAMES e c
  let work := fv s SOLV_WORK e c
  let src := fv s SOLV_SRC e c
  let mine := gangOf e cfg.stream cfg.gang
  let nBad := n == 0 || decide ((if cfg.mode = 5 then 64 else 8192) < n)
  let cBad := (cfg.mode == 5 && (cnt == 0 || decide (4096 < cnt))) || (cfg.mode == 3 && (cnt == 0 || decide (1024 < cnt)))
  when ((cfg.kind == 0 && cfg.mode != 5 && src % 4096 != 0) || fv s SOLV_OUT e c % 64 != 0 || fv s SOLV_STS e c % 32 != 0)
    .addrAlign ++
  when (cfg.kind == 1 && decide (2 ^ 21 ≤ src)) .rsvdSet ++
  when (decide (5 < cfg.mode) || !isNonneg32 (fv s SOLV_TOL e c) || !isNonneg32 (fv s SOLV_DAMP e c) ||
    !isNonneg32 (fv s SOLV_TAU e c) || fv s SOLV_TAU e c == 0 || fv s SOLV_ITERS e c == 0 ||
    (cfg.mode == 5 && (fv s SOLV_ZROW e c == 0 || decide (32 < fv s SOLV_ZROW e c)))) .fieldRange ++
  when (nBad || cBad) .lenRange ++
  when ((cfg.kind == 1 && cfg.mode != 4) || (cfg.mode == 5 && cfg.stream == 1) || (cfg.gang != 0 && cfg.stream == 0) ||
    (cfg.mode != 5 && cfg.stream == 0 && decide (1024 < n))) (.block 0x40) ++
  when (decide (819 < base + nf) || decide (nf < need.1) ||
    ((List.range 16).any fun e' => (List.range 32).any fun c' =>
      !(e' == e && c' == c) && cMode s e' c' != 0 && (cGang s e' c').any (mine.contains ·) &&
        framesMeet base nf (fv s SOLV_CBASE e' c') (fv s SOLV_NFRAMES e' c'))) (.block 0x41) ++
  when (need.2 != 0 && (work % 4096 != 0 || gaNode work != nodeId s || bits work 49 48 != 0 ||
    !isHbmAddr s (gaLocal work) || !(rangeErrs s (gaLocal work) (4096 + need.2 * 32768)).isEmpty)) (.block 0x42) ++
  when (e % (2 ^ cfg.gang) != 0 || decide (8 < e % 8 + mine.length)) (.block 0x45)

/-- An accepted enable (R209). -/
def solvEnable (e c : Nat) : Act :=
  acts [updCtx e c fun _ => SolvCtx.init, setF SOLV_EXP_RAISE 0 e c, setF SOLV_A_VALID 0 e c, setF SOLV_PREV_VALID 0 e c,
    setCState e c 1]

/-- A context goes OFF. -/
def solvDisable (e c : Nat) : Act := acts [updCtx e c fun _ => SolvCtx.init, setCState e c 0]

/-! ### GO (R220) -/

/-- The GO of a record. -/
def parseGo (r : List Byte) : SolvGo :=
  let f := recLE r 2 2
  ⟨bit f 0, bit f 1, bit f 2, recLE r 8 8, recLE r 16 8, recLE r 24 8⟩

/-- A row of a batch. -/
def rowAt (x : SolvCtx) (sys row : Nat) : BatchRow := mapGet (fun _ => ⟨[], [], none, none, none, 0, true, false⟩) x.rows (sys * 64 + row)

/-- A row of a batch changes. -/
def setRow (x : SolvCtx) (sys row : Nat) (r : BatchRow) : SolvCtx :=
  { x with rows := mapSet (fun _ => ⟨[], [], none, none, none, 0, true, false⟩) x.rows (sys * 64 + row) r }

/-- A batch row lacks its diagonal. -/
def lacksDiagonal (s : State) (e c : Nat) : Bool :=
  (List.range (fv s SOLV_CCOUNT e c)).any fun k => (List.range (cN s e c)).any fun i =>
    !(rowAt (ctxAt s e c) k i).cols.contains i

/-- The failing checks of a GO record (R220). -/
def goErrs (s : State) (e : Nat) (r : List Byte) : List ErrCode :=
  let c := bits (recLE r 1 1) 4 0
  let g := parseGo r
  let x := ctxAt s e c
  when (!solvInService s e) .retiredUnit ++
  when (cMode s e c == 0 || !enabled s (solvPg e)) .stateNotReady ++
  when (decide (32 ≤ recLE r 1 1) || decide (8 ≤ recLE r 2 2) || recLE r 4 4 != 0) .rsvdSet ++
  when (!g.noDeadline && decide (g.deadline ≤ g.start)) .fieldRange ++
  (if g.done = 0 then [] else targetErrs s g.done) ++
  when (cMode s e c == 5 && lacksDiagonal s e c) (.block 0x43) ++
  when (!g.noDeadline && decide (g.deadline < curInstant s)) .impressionPast ++
  when (if x.solve.isSome then x.next.isSome else x.go.isSome) .queueFull

/-- An accepted GO makes its context PENDING, or waits behind the running solve (R220). -/
def goAccept (e : Nat) (r : List Byte) : Act :=
  let c := bits (recLE r 1 1) 4 0
  look fun s =>
    if (ctxAt s e c).solve.isSome then updCtx e c fun x => { x with next := some (parseGo r) }
    else acts [updCtx e c fun x => { x with go := some (parseGo r) }, setCState e c 2]

/-! ### The stream (R223 to R225) -/

/-- TYPE, context, SYSTEM, and bytes 4 to 7 of a stream record. -/
def srCtx (r : List Byte) : Nat := bits (recLE r 1 1) 4 0
/-- SYSTEM. -/
def srSys (r : List Byte) : Nat := recLE r 2 2
/-- A byte of a record. -/
def srB (r : List Byte) (o : Nat) : Nat := recLE r o 1

/-- The entries of an ENTRY record: row, column, value. -/
def srEntries (r : List Byte) : List (Nat × Nat × Nat) :=
  (List.range (srB r 4)).map fun k => (srB r (8 + 8 * k), srB r (9 + 8 * k), recLE r (12 + 8 * k) 4)

/-- A row's columns after a STRUCT record. -/
def structCols (old : List Nat) (r : List Byte) : List Nat :=
  (List.range (srB r 7)).map fun k =>
    if srB r 6 ≤ k ∧ k < srB r 6 + srB r 5 then srB r (8 + k - srB r 6) else old.getD k 64

/-- The failing checks of a data record (R225). -/
def srErrs (s : State) (e : Nat) (r : List Byte) : List ErrCode :=
  let t := srB r 0
  let c := srCtx r
  let n := cN s e c
  let z := fv s SOLV_ZROW e c
  let x := ctxAt s e c
  let sysBad := decide (fv s SOLV_CCOUNT e c ≤ srSys r % 4096)
  when (cMode s e c == 0 || !enabled s (solvPg e)) .stateNotReady ++
  when (decide (32 ≤ srB r 1)) .rsvdSet ++
  (if t = 0 ∨ 4 < t then [.fieldRange]
   else if cMode s e c ≠ 5 then [.block 0x44]
   else when (decide (4096 ≤ srSys r)) .rsvdSet ++
    (if t = 1 then
      let es := srEntries r
      when (recLE r 5 3 != 0 || (List.range (min 3 (srB r 4))).any fun k =>
        decide (64 ≤ srB r (8 + 8 * k)) || decide (64 ≤ srB r (9 + 8 * k)) || recLE r (10 + 8 * k) 2 != 0) .rsvdSet ++
      when (sysBad || srB r 4 == 0 || decide (3 < srB r 4) || es.any fun p => decide (n ≤ p.1) || decide (n ≤ p.2.1))
        .fieldRange ++
      when (es.any fun p => !(rowAt x (srSys r) p.1).cols.contains p.2.1) (.block 0x43)
     else if t = 2 then
      when (decide (4 ≤ srB r 4) || srB r 7 != 0) .rsvdSet ++
      when (sysBad || srB r 4 % 4 == 3 || srB r 6 == 0 || decide (6 < srB r 6) || decide (n < srB r 5 + srB r 6)) .fieldRange
     else
      let cs := structCols (rowAt x (srSys r) (srB r 4)).cols r
      when ((List.range (min 24 (srB r 5))).any fun k => decide (64 ≤ srB r (8 + k))) .rsvdSet ++
      when (sysBad || decide (n ≤ srB r 4) || srB r 5 == 0 || decide (24 < srB r 5) || srB r 7 == 0 || decide (z < srB r 7) ||
        decide (z < srB r 6 + srB r 5)) .fieldRange ++
      when (((List.range (srB r 5)).any fun k => decide (n ≤ srB r (8 + k))) ||
        decide ((cs.filter (· < 64)).eraseDups.length < (cs.filter (· < 64)).length)) (.block 0x43)))

/-- The exponents of a batch's matrix and vectors as its values stand (R216, R217). -/
def batchXa (s : State) (e c r : Nat) : Int := clampX (toInt 8 (fv s SOLV_XA e c) + r)
/-- The exponent of the vectors. -/
def batchXv (s : State) (e c r : Nat) : Int := clampX (toInt 8 (fv s SOLV_XV e c) + r)
/-- The exponent of dinv: β = 1/τ. -/
def batchXd (s : State) (e c r : Nat) : Int :=
  expOf (xBelowPow (xDiv (.fin false 1 1 0) (v32 (fv s SOLV_TAU e c)))) r

/-- An accepted data record takes effect (R224). -/
def srApply (e : Nat) (w : WinRec) : Act :=
  let r := w.bytes
  let c := srCtx r
  look fun s =>
    let xa := batchXa s e c (ctxAt s e c).raise_
    let xv := batchXv s e c (ctxAt s e c).raise_
    updCtx e c fun x =>
      if srB r 0 = 1 then
        (srEntries r).foldl (fun y p =>
          let row := rowAt y (srSys r) p.1
          let v := fxOf xa (v32 p.2.2)
          { setRow y (srSys r) p.1 { row with
              vals := row.vals.set (row.cols.findIdx (· == p.2.1)) v.1
              changed := row.changed || p.1 == p.2.1
              marked := row.marked || w.marked } with margin := max y.margin v.2 }) x
      else if srB r 0 = 2 then
        (List.range (srB r 6)).foldl (fun y k =>
          let i := srB r 5 + k
          let row := rowAt y (srSys r) i
          let v := fxOf xv (v32 (recLE r (8 + 4 * k) 4))
          let row' := match srB r 4 % 4 with
            | 0 => { row with b := some v.1 }
            | 1 => { row with lo := some v.1 }
            | _ => { row with hi := some v.1 }
          { setRow y (srSys r) i { row' with marked := row.marked || w.marked } with margin := max y.margin v.2 }) x
      else
        let i := srB r 4
        let row := rowAt x (srSys r) i
        let cols := structCols row.cols r
        setRow x (srSys r) i { row with
          cols := cols
          vals := (List.range cols.length).map fun k =>
            if srB r 6 ≤ k ∧ k < srB r 6 + srB r 5 then 0 else row.vals.getD k 0
          changed := true
          marked := row.marked || w.marked }

/-- A stream record is rejected: the page's record, and STREAM_REJ (R225). -/
def srReject (e : Nat) (r : List Byte) (c : ErrCode) : Act :=
  acts [recordReject (solvPg e) 0x070 c,
    look fun s => onlyIf (!fb s SOLV_SREJ_VALID e) (acts [setF SOLV_SREJ_VALID 1 e, setF SOLV_SREJ_CODE (errNum c) e,
      setF SOLV_SREJ_CTX (srB r 1) e, setF SOLV_SREJ_TYPE (srB r 0) e])]

/-- The stream's key among the windows. -/
def solvWin (e : Nat) : Nat := 64 + e

/-- STREAM_LEVEL follows the FIFO. -/
def setLevel (e : Nat) : Act :=
  look fun s => setF SOLV_STREAM_LEVEL (min 4096 (fifoOf s (solvWin e)).length) e

/-- The front record of the stream, if of TYPE `ty`, is applied or rejected; a reserved type before it is rejected. A data
record of a context that solves stops the FIFO (R223). -/
def solvTake (e ty : Nat) : Nat → Act
  | 0 => .done
  | n + 1 => look fun s => match fifoOf s (solvWin e) with
    | [] => .done
    | w :: _ =>
      let r := w.bytes
      let t := srB r 0
      let pop := acts [fifoPop (solvWin e), setLevel e,
        onlyIf w.marked (consume (solvPg e) (0xFD00_0000_0000 + e * 2 ^ 20))]
      let err := firstErr (if t = 4 then goErrs s e r else srErrs s e r)
      if t = 0 ∨ 4 < t then acts [pop, srReject e r err, solvTake e ty n]
      else if t ≠ ty then .done
      else if t ≠ 4 ∧ 3 ≤ cState s e (srCtx r) then .done
      else if err ≠ .ok then acts [pop, srReject e r err]
      else acts [pop, if t = 4 then goAccept e r else srApply e w]

/-- The stream is taken from the front. -/
def solvStream (e ty : Nat) : Act := look fun s => solvTake e ty ((fifoOf s (solvWin e)).length + 1)

/-! ### The start of a solve (R221, R222, R198) -/

/-- A solve's first state. -/
def solve0 : Solve := ⟨false, 0, 0, 0, 0, 0, [], [], [], 0, 0, none, 0, none, 0, false, false, false, false, none⟩

/-- A solve ends with an outcome: the context delivers, and its gang is free (R230). -/
def solveEnd (e c outcome : Nat) : Act :=
  look fun s => acts [
    updSolve e c fun v => { v with outcome := some outcome },
    setCState e c 6,
    each (cGang s e c) fun g => onlyIf ((solvSt s g).run == some (e, c)) (acts [
      updSolv g fun v => { v with run := none }, setF SOLV_RUN_VALID 0 g])]

/-- A solve ends in FAULT: the code is recorded at the context's CTX_CFG (R221, R222). -/
def solveFault (e c : Nat) (code : ErrCode) : Act :=
  acts [recordReject (solvPg e) (0x800 + 0x40 * c) code, solveEnd e c 6]

/-- Granules that have been read: position and bytes with marks. -/
abbrev Granules := List (Nat × List (Byte × Bool))

/-- Granules of a MATRIX source are read in order; `none` where one cannot be. -/
def readGranules (base : Nat) : List Nat → List RemoteAns → Granules → (Option Granules → List RemoteAns → Act) → Act
  | [], ans, got, k => k (some got) ans
  | p :: l, ans, got, k => look fun s =>
    let a := base + p * 65536
    acts [onlyIf (gaNode a != nodeId s) (sendRead (gaNode a) .none (gaLocal a) 65536),
      withAnswer a 65536 (ans.headD ⟨0, [], []⟩) fun r =>
        let rest := if gaNode a = nodeId s then ans else ans.drop 1
        if r.code ≠ 0 then k none rest
        else readGranules base l rest (got ++ [(p, (List.range 65536).map fun i => (r.data.getD i 0, r.marks.getD i false))]) k]

/-- The exact value of element (i, j), i ≤ j, of the input: from a granule that was read, else from the A copy. -/
def inputElem (b : Nat) (x : SolvCtx) (gs : Granules) (i j : Nat) : XR :=
  match gs.find? fun g => g.1 == granulePos b (i / 128) (j / 128) with
  | some g =>
    let o := 4 * (128 * (i % 128) + j % 128)
    v32 (leNat (((g.2.drop o).take 4).map Prod.fst))
  | none => fxVal (upGet x.a i j) x.expA

/-- An input value as the A copy can hold it: a NaN is 0 (R109). -/
def finiteIn (v : XR) : XR := if xIsNan v then xZero false else v

/-- A NEWTON solve's cold X and M (R211), from A + δI. -/
def newtonCold (n p : Nat) (k xa xx xm : Int) (da : FxMat) : FxMat × FxMat × Nat :=
  let one := fxOf xx (.fin false 1 1 (-k))
  let m := upOf n fun i j => fxOf xm (xMul (fxVal (upGet da i j) xa) (.fin false 1 1 (-(k * p))))
  (diagOf n one.1, valsOf m, max one.2 (marginOf m))

/-- A + δI, rounded at the exponent of A. -/
def dampedA (n : Nat) (xa : Int) (a : FxMat) (delta : XR) : FxMat :=
  valsOf (upOf n fun i j => fxOf xa (if i = j then xAdd (fxVal (upGet a i j) xa) delta else fxVal (upGet a i j) xa))

/-- A NEWTON solve's warm M = X^p A, p = 2^q: a power X^(2^i) stands at the exponent of its bound β^(2^i) (log entry
40). -/
def newtonWarm (n q : Nat) (k xa xm : Int) (l : XR) (raise_ : Nat) (x da : FxMat) : FxMat × Nat :=
  let exp := fun i => newtonExpX (2 ^ (q - i)) (k * (2 : Int) ^ i) l raise_
  let pw := powSq n exp q 0 (x, 0)
  let m := symMul n (exp q) xa xm pw.1 da
  (valsOf m, max pw.2 (marginOf m))

/-- The input is in the A copy: exponents, first iterate, or the reason a dense solve is ready (R211, R215, R216). -/
def denseSetup (e c : Nat) (gs : Granules) (delta : Nat) (rhs : FxMat) (rhsExp : Int) (rhsMarked : Bool) : Act :=
  withFree fun fr => look fun s =>
    let x := ctxAt s e c
    let n := cN s e c
    let b := ceilDiv n 128
    let mode := cMode s e c
    let raise_ := cRaise s e c
    let d := if mode = 3 then xZero false else v32 delta
    let tau := v32 (fv s SOLV_TAU e c)
    let raw := fun i j => finiteIn (if i ≤ j then inputElem b x gs i j else inputElem b x gs j i)
    let fin := fun (v : XR) => if xIsFin v then v else xZero false
    let an := analyse n (fun i j => fin (raw i j)) d
    let xa := expOf (xBelowPow an.aMax) raise_
    let a' := upOf n fun i j => fxOf xa (raw i j)
    let a := valsOf a'
    let q := fv s SOLV_CP e c
    let p := 2 ^ q
    let ana := analyse n (fun i j => fxVal (symGet a i j) xa) d
    let k := newtonK p ana.betaMax (toInt 8 fr)
    let marked := gs.any fun g => g.2.any Prod.snd
    let betaD := xMax ana.dMax tau
    let xx := match mode with
      | 4 => newtonExpX p k (ana.low d) raise_
      | 1 => expOf (fun t => xBelowPow betaD (2 * t)) raise_
      | 2 => expOf (fun t => xBelowPow (xDiv betaD tau) (2 * t)) raise_
      | _ =>
        let unit := fb s SOLV_UNIT e c
        let us := a.flatten.map fun v => xAbs (fxVal v xa)
        let ds := if unit then [.fin false 1 1 0] else (List.range n).map fun i => xAbs (fxVal (upGet a i i) xa)
        let ratio := xDiv (us.foldl xMax (xZero false)) ((ds.drop 1).foldl xMin (ds.headD (xZero false)))
        clampX (rhsExp + (if xIsZero ratio then 0 else ceilLog2 ratio) + ceilLog2 (xInt n) + raise_)
    let da := dampedA n xa a d
    let xm := clampX raise_
    let cold := newtonCold n p k xa xx xm da
    let warm0 := decide (c < 4) && mode == 4 && x.prev.isSome
    let px := match x.prev with
      | some pv => matShift pv.exp xx pv.mat
      | none => []
    let wm := newtonWarm n q k xa xm (ana.low d) raise_ px da
    let fails := warm0 && wm.2 != 0
    let warm := warm0 && wm.2 == 0
    acts [
      updCtx e c fun y => { y with a := a, expA := xa, marked := y.marked && !(gs.length == b * (b + 1) / 2) || marked, margin := 0 },
      setF SOLV_A_VALID 1 e c,
      onlyIf (marked || rhsMarked) (consume (solvPg e) (gaLocal (fv s SOLV_SRC e c))),
      onlyIf fails (acts [incF SOLV_SCNT 1 e 8, raiseEvt (solvPg e) (2 ^ 20)]),
      look fun t => updSolve e c fun v => { v with
        warm := warm
        delta := delta
        k := k
        expA := xa
        expX := xx
        expD := if mode = 4 then xm else expOf (xBelowPow betaD) raise_
        x := if warm then px else if mode = 4 then cold.1 else []
        m := if warm then wm.1 else if mode = 4 then cold.2.1 else []
        rhs := rhs
        expB := rhsExp
        margin := max (max x.margin (marginOf a')) (max (if mode = 4 && !warm then cold.2.2 else 0) (if fails then wm.2 else 0))
        warmRestart := fails
        poison := (ctxAt t e c).marked || rhsMarked }]

/-- Right-hand sides of a TRSM: FP32 row-major after the granules (R213). -/
def readRhs (s : State) (e c : Nat) (ans : List RemoteAns) (k : Option (FxMat × Int × Bool) → Act) : Act :=
  if cMode s e c ≠ 3 then k (some ([], 0, false))
  else
    let n := cN s e c
    let w := fv s SOLV_CCOUNT e c
    let b := ceilDiv n 128
    let a := fv s SOLV_SRC e c + b * (b + 1) / 2 * 65536
    acts [onlyIf (gaNode a != nodeId s) (sendRead (gaNode a) .none (gaLocal a) (4 * n * w)),
      withAnswer a (4 * n * w) (ans.headD ⟨0, [], []⟩) fun r =>
        if r.code ≠ 0 then k none
        else
          let v := fun i j => finiteIn (v32 (recLE r.data (4 * (i * w + j)) 4))
          let big := ((List.range n).flatMap fun i => (List.range w).map fun j =>
            if xIsFin (v i j) then xAbs (v i j) else xZero false).foldl xMax (xZero false)
          let xb := expOf (xBelowPow big) (cRaise s e c)
          k (some ((List.range n).map fun i => (List.range w).map fun j => (fxOf xb (v i j)).1, xb, r.marks.any id))]

/-- A dense MATRIX solve loads its input (R221). -/
def startMatrix (e c : Nat) (full : Bool) (ans : List RemoteAns) : Act :=
  look fun s =>
    let b := ceilDiv (cN s e c) 128
    let src := fv s SOLV_SRC e c
    let go := fun (ps : List Nat) (rest : List RemoteAns) => readGranules src ps rest [] fun gs rest => look fun t =>
      match gs with
      | none => solveFault e c .addrUnmapped
      | some gs => readRhs t e c rest fun r => match r with
        | none => solveFault e c .addrUnmapped
        | some r => denseSetup e c gs (fv s SOLV_DAMP e c) r.1 r.2.1 r.2.2
    if full || !fb s SOLV_A_VALID e c then go (List.range (b * (b + 1) / 2)) ans
    else
      let page := src - 4096
      let local_ := gaNode src == nodeId s
      acts [onlyIf (!local_) (sendRead (gaNode src) .none (gaLocal page) 288),
        withAnswer page 288 (ans.headD ⟨0, [], []⟩) fun r =>
          if r.code ≠ 0 then solveFault e c .addrUnmapped
          else go (rangeF (b * (b + 1) / 2) fun p => bit (recLE r.data (p / 8) 1) (p % 8)) (if local_ then ans else ans.drop 1)]

/-- The block a CURVATURE context solves: site, group, factor, block. -/
def curvSrc (s : State) (e c : Nat) : Nat × Nat × Nat × Nat :=
  let v := fv s SOLV_SRC e c
  (bits v 3 0, bits v 13 4, bits v 14 14, bits v 20 15)

/-- The failing checks at the start of a CURVATURE solve (R222). -/
def curvStartErrs (s : State) (e c : Nat) : List ErrCode :=
  let x := curvSrc s e c
  let r := cvRec s x.1 x.2.1
  if !isHbmSite s.build x.1 then [.fieldRange]
  else installErrs s x.1 x.2.1 ++ when (decide (cvNB r x.2.2.1 ≤ x.2.2.2)) .fieldRange ++
    when (cvB r x.2.2.1 != cN s e c || cvRoot r x.2.2.1 != fv s SOLV_CP e c) (.block 0x40)

/-- The curvature record and block status that a CURVATURE solve goes by. -/
def curvControl (s : State) (e c : Nat) : List (Nat × Nat) :=
  let x := curvSrc s e c
  if curvStartErrs s e c == [] then
    [(cvAddr s x.1 x.2.1, 128), (cvStatusAddr (cvRec s x.1 x.2.1) x.2.2.1 x.2.2.2, 640)]
  else []

/-- A CURVATURE solve starts (R198, R222). -/
def startCurv (e c : Nat) (full : Bool) : Act :=
  (look fun s => each (curvControl s e c) fun x => touchLocal x.1 x.2).seq <| look fun s =>
    let x := curvSrc s e c
    let r := cvRec s x.1 x.2.1
    let f := x.2.2.1
    let i := x.2.2.2
    match curvStartErrs s e c with
    | e0 :: l => solveFault e c (firstErr (e0 :: l))
    | [] =>
      let b := blockStAt s r f i
      if !b.flag 2 then solveEnd e c 5
      else
        let ps := rangeF (cvT r f) fun p => full || !fb s SOLV_A_VALID e c || bit b.chg p
        acts [
          each ps fun p => touchLocal (cvBlockAddr r f 1 i + p * 65536) 65536,
          look fun t => match (curvControl s e c).find? fun y => localMarked t y.1 y.2 with
            | some y => onlyIf (ps.all fun p => !localMarked t (cvBlockAddr r f 1 i + p * 65536) 65536)
                (consume (solvPg e) y.1)
            | none => .done,
          solveTake r f i,
          look fun t => denseSetup e c (ps.map fun p => (p, readLocal t (cvBlockAddr r f 1 i + p * 65536) 65536)) b.lambda [] 0 false]

/-! ### Batches (R214, R217) -/

/-- A value of a batch vector; a free value where no record has loaded it. -/
def vecOr (fr : Nat) (v : Option Int) : Int := v.getD (toInt 40 fr)

/-- A row's bounds and right-hand side. -/
structure BatchVec where
  b : Int
  lo : Int
  hi : Int
deriving DecidableEq, Repr

/-- The vectors of a row. -/
def rowVec (fr : Nat) (r : BatchRow) : BatchVec := ⟨vecOr fr r.b, vecOr fr r.lo, vecOr fr r.hi⟩

/-- The setup pass of a batch (R214): 1/a_ii of every changed row, with boosts. -/
def batchSetup (s : State) (e c : Nat) (x : SolvCtx) : SolvCtx × List Nat × Nat :=
  let raise_ := cRaise s e c
  let (xa, xv, xd) := (batchXa s e c raise_, batchXv s e c raise_, batchXd s e c raise_)
  let (xa0, xv0, xd0) := (batchXa s e c x.raise_, batchXv s e c x.raise_, batchXd s e c x.raise_)
  let tau := v32 (fv s SOLV_TAU e c)
  let one := (List.range (fv s SOLV_CCOUNT e c)).flatMap fun k => (List.range (cN s e c)).map fun i => (k, i)
  one.foldl (fun acc ki =>
    let r := rowAt acc.1 ki.1 ki.2
    let r1 := { r with
      vals := r.vals.map (fxShift xa0 xa)
      b := r.b.map (fxShift xv0 xv)
      lo := r.lo.map (fxShift xv0 xv)
      hi := r.hi.map (fxShift xv0 xv)
      dinv := fxShift xd0 xd r.dinv }
    if !r1.changed then (setRow acc.1 ki.1 ki.2 r1, acc.2)
    else
      let j := r1.cols.findIdx (· == ki.2)
      let low := !xLt tau (fxVal (r1.vals.getD j 0) xa)
      let d := if low then (fxOf xa tau).1 else r1.vals.getD j 0
      let inv := fxOf xd (xDiv (.fin false 1 1 0) (fxVal d xa))
      (setRow acc.1 ki.1 ki.2 { r1 with vals := r1.vals.set j d, dinv := inv.1, changed := false },
        (if low then acc.2.1 ++ [ki.1 * 64 + ki.2] else acc.2.1), max acc.2.2 inv.2)) ({ x with raise_ := raise_ }, [], x.margin)

/-- A batch solve starts. -/
def startBatch (e c : Nat) : Act :=
  withFree fun fr => look fun s =>
    let x0 := ctxAt s e c
    let st := batchSetup s e c x0
    let x := st.1
    let xv := batchXv s e c (cRaise s e c)
    let n := cN s e c
    let warm := decide (c < 4) && x.prev.isSome
    let rows := (List.range (fv s SOLV_CCOUNT e c)).map fun k => (List.range n).map fun i =>
      let v := rowVec fr (rowAt x k i)
      match x.prev with
      | some p => if warm then fxShift p.exp xv (fullGet p.mat k i) else min (max 0 v.lo) v.hi
      | none => min (max 0 v.lo) v.hi
    let poison := x.rows.any fun r => r.2.marked
    acts [
      updCtx e c fun _ => { x with margin := 0 },
      onlyIf (!st.2.1.isEmpty) (incF SOLV_SCNT st.2.1.length e 6),
      updSolve e c fun v => { v with
        warm := warm
        k := fr
        expA := batchXa s e c (cRaise s e c)
        expX := xv
        expD := batchXd s e c (cRaise s e c)
        x := rows
        boosts := st.2.1.length
        firstBoost := st.2.1.head?
        margin := st.2.2
        poison := poison }]

/-! ### Scheduling (R229) -/

/-- START reached: PENDING contexts become RUNNABLE (R220). -/
def wakeContexts (e : Nat) : Act :=
  look fun s => each (List.range 32) fun c =>
    onlyIf (cState s e c == 2 && ((ctxAt s e c).go.any fun g => reached s g.start)) (setCState e c 3)

/-- The deadline a context is chosen by. -/
def ctxDeadline (s : State) (e c : Nat) : Nat :=
  match (ctxAt s e c).go with
  | some g => if g.noDeadline then 2 ^ 64 else g.deadline
  | none => 2 ^ 64

/-- The choice of R229 among the contexts of an engine that are RUNNABLE or PREEMPTED. -/
def bestContext (s : State) (e : Nat) : Option Nat :=
  (rangeF 32 fun c => cState s e c == 3 || cState s e c == 5).foldl (fun best c => match best with
    | none => some c
    | some b =>
      let pc := fv s SOLV_PRIO e c
      let pb := fv s SOLV_PRIO e b
      if pb < pc ∨ (pb = pc ∧ ctxDeadline s e c < ctxDeadline s e b) then some c else best) none

/-- Every engine of a gang is free. -/
def gangFree (s : State) (e c : Nat) : Bool := (cGang s e c).all fun g => (solvSt s g).run.isNone && solvInService s g

/-- SOLVE_START: the engine takes the context of its choice: a solve begins, or a pre-empted one goes on (R221, R222,
R229). -/
def solveStart (e : Nat) (ans : List RemoteAns) : Act :=
  acts [wakeContexts e, look fun s => match bestContext s e with
    | none => .done
    | some c =>
      if !gangFree s e c then .done
      else acts [
        each (cGang s e c) fun g => acts [updSolv g fun v => { v with run := some (e, c) }, setF SOLV_RUN_VALID 1 g,
          setF SOLV_RUN_CTX c g],
        setCState e c 4,
        onlyIf (cState s e c == 3) (acts [
          updCtx e c fun x => { x with solve := some solve0 },
          let full := (ctxAt s e c).go.any (·.full)
          if cMode s e c = 5 then startBatch e c
          else if fv s SOLV_SRC_KIND e c = 1 then startCurv e c full else startMatrix e c full ans])]]

/-- SOLVER_PREEMPT: a runnable context of higher priority than the running one's stops it (R229). -/
def solvePreempt (e : Nat) : Act :=
  acts [wakeContexts e, look fun s => match (solvSt s e).run with
    | none => .done
    | some r =>
      if (List.range 32).any fun c => (cState s e c == 3 || cState s e c == 5) && !(r == (e, c)) &&
          decide (fv s SOLV_PRIO r.1 r.2 < fv s SOLV_PRIO e c) then
        acts [
          each (cGang s r.1 r.2) fun g => acts [updSolv g fun v => { v with run := none }, setF SOLV_RUN_VALID 0 g],
          setCState r.1 r.2 5, updSolve r.1 r.2 fun v => { v with preempted := true },
          incF SOLV_SCNT 1 e 5]
      else .done]

/-! ### Iterations (R211 to R214, R227) -/

/-- The best buffer takes an iterate of strictly smaller residual (R227). -/
def takeBest (v : Solve) (res : Nat) (mat : FxMat) : Solve :=
  let better := match v.best with
    | none => true
    | some b => xLt (v32 res) (v32 b.residual)
  if better then { v with best := some ⟨res, v.iters, mat, []⟩ } else v

/-- After an iteration with a residual: does the solve end (R208, R226)? -/
def solveStops (s : State) (e c : Nat) (v : Solve) (res : Nat) : Act :=
  if c < 4 then
    if xLe (v32 res) (v32 (fv s SOLV_TOL e c)) then solveEnd e c 1
    else if fv s SOLV_ITERS e c ≤ v.iters then acts [updSolve e c fun w => { w with iterLimit := true }, solveEnd e c 2]
    else .done
  else if fv s SOLV_ITERS e c ≤ v.iters then solveEnd e c 1
  else .done

/-- An iteration of NEWTON (R211). -/
def iterNewton (e c : Nat) (v : Solve) : Act :=
  look fun s =>
    let n := cN s e c
    let q := fv s SOLV_CP e c
    let r := newtonStep n q v.expX v.expD v.x v.m
    let res := newtonResidual v.expD r.2.1
    let w := takeBest { v with x := r.1, m := r.2.1, iters := v.iters + 1, margin := max v.margin r.2.2 } res r.1
    if v.warm && v.iters == 0 && !xLt (v32 res) (.fin false 1 1 (-1)) then
      let cold := newtonCold n (2 ^ q) v.k v.expA v.expX v.expD (dampedA n v.expA (ctxAt s e c).a (v32 v.delta))
      acts [updSolve e c fun _ => { w with
          warm := false
          warmRestart := true
          x := cold.1
          m := cold.2.1
          margin := max w.margin cold.2.2 },
        incF SOLV_SCNT 1 e 8, raiseEvt (solvPg e) (2 ^ 20),
        onlyIf (decide (fv s SOLV_ITERS e c ≤ w.iters)) (acts [updSolve e c fun u => { u with iterLimit := true },
          solveEnd e c 2])]
    else acts [updSolve e c fun _ => w, solveStops s e c w res]

/-- A factorisation or triangular solve completes (R212, R213). -/
def iterDirect (e c : Nat) (v : Solve) : Act :=
  look fun s =>
    let n := cN s e c
    let x := ctxAt s e c
    if cMode s e c = 3 then
      let r := trsm (fb s SOLV_UNIT e c) (fb s SOLV_TRANS e c) n (fv s SOLV_CCOUNT e c) v.expA v.expB v.expX x.a v.rhs
      acts [updSolve e c fun w => { w with best := some ⟨0, 0, r.1, []⟩, margin := max w.margin r.2 }, solveEnd e c 1]
    else
      let ldlt := cMode s e c == 2
      let d := v32 v.delta
      let r := factor ldlt n v.expD v.expX (v32 (fv s SOLV_TAU e c))
        (fun i j => if i = j then xAdd (fxVal (upGet x.a i j) v.expA) d else fxVal (upGet x.a i j) v.expA)
      acts [
        onlyIf (r.boosts != 0) (incF SOLV_SCNT r.boosts e 6),
        updSolve e c fun w => { w with
          best := some ⟨rne32 r.resid, 0, if ldlt then r.u ++ [r.d] else r.u, []⟩
          boosts := r.boosts
          firstBoost := r.first
          margin := max w.margin r.margin },
        solveEnd e c 1]

/-- One sweep of one system: the new x, its residual, and the margin. -/
def sweepSystem (fr : Nat) (v : Solve) (x : SolvCtx) (n k : Nat) : List Int × Int × Nat :=
  (List.range n).foldl (fun acc i =>
    let r := rowAt x k i
    let b := rowVec fr r
    let y := gsRow v.expA v.expX v.expD r.cols r.vals b.b b.lo b.hi r.dinv acc.1 i
    (acc.1.set i y.1, max acc.2.1 y.2.1, max acc.2.2 y.2.2)) (v.x.getD k [], 0, 0)

/-- A sweep of a batch (R214, R227): each system keeps its own best. -/
def iterBatch (e c : Nat) (v : Solve) : Act :=
  look fun s =>
    let n := cN s e c
    let rs := (List.range (fv s SOLV_CCOUNT e c)).map (sweepSystem v.k.toNat v (ctxAt s e c) n)
    let it := v.iters + 1
    let xs := rs.map Prod.fst
    let res := rs.map fun r => r.2.1
    let best : SolvBest := match v.best with
      | none => ⟨0, it, xs, res⟩
      | some b =>
        let pick := (List.range xs.length).map fun k => decide (res.getD k 0 < b.rowRes.getD k 0)
        ⟨0, if pick.any id then it else b.iter,
          (List.range xs.length).map fun k => if pick.getD k false then xs.getD k [] else b.mat.getD k [],
          (List.range xs.length).map fun k => if pick.getD k false then res.getD k 0 else b.rowRes.getD k 0⟩
    let code := fun (l : List Int) => rne32 (fxVal (l.foldl max 0) v.expX)
    let w := { v with
      x := xs
      iters := it
      best := some { best with residual := code best.rowRes }
      margin := rs.foldl (fun m r => max m r.2.2) v.margin }
    acts [updSolve e c fun _ => w, solveStops s e c w (code res)]

/-- SOLVER_ITERATION: the running context of an engine completes an iteration. -/
def solveIterate (e : Nat) : Act :=
  look fun s => match (solvSt s e).run with
    | none => .done
    | some r =>
      if r.1 ≠ e ∨ cState s e r.2 ≠ 4 then .done
      else match (ctxAt s e r.2).solve with
        | none => .done
        | some v =>
          if cMode s e r.2 = 4 then iterNewton e r.2 v
          else if cMode s e r.2 = 5 then iterBatch e r.2 v else iterDirect e r.2 v

/-- SOLVER_DEADLINE (R228). -/
def solveDeadline (e c : Nat) : Act :=
  look fun s => match (ctxAt s e c).go with
    | none => .done
    | some g =>
      let st := cState s e c
      if g.noDeadline || !reached s g.deadline || st < 2 || st == 6 then .done
      else
        let x := ctxAt s e c
        let v := x.solve.getD solve0
        let o := if v.best.isSome && (cMode s e c == 4 || cMode s e c == 5) then 2 else if x.prev.isSome then 3 else 4
        acts [updCtx e c fun y => { y with solve := some v }, solveEnd e c o]

/-! ### Delivery (R230, R231) -/

/-- An FX40 value as an FP32 code. -/
def fxCode (X m : Int) : Nat := rne32 (fxVal m X)

/-- FP32 codes of a solution as it is written (R230). -/
def solvOutput (s : State) (e c : Nat) (mat : FxMat) (X Xd : Int) (rowRes : List Int) : List Nat :=
  let n := cN s e c
  match cMode s e c with
  | 4 => (List.range n).flatMap fun i => (List.range n).map fun j => fxCode X (symGet mat i j)
  | 3 => mat.flatMap fun r => r.map (fxCode X)
  | 5 => (mat.flatMap fun r => r.map (fxCode X)) ++ rowRes.map (fxCode X)
  | m =>
    let b := ceilDiv n 128
    (granules b).flatMap fun g => (List.range 128).flatMap fun r => (List.range 128).map fun q =>
      let i := g.1 * 128 + r
      let j := g.2 * 128 + q
      if n ≤ i ∨ n ≤ j ∨ j < i then 0
      else if m = 2 ∧ i = j then fxCode Xd ((mat.getD n []).getD i 0) else fxCode X (upGet mat i j)

/-- Bytes are written at a global address: this device's memory, or another's, marked blocks withheld (R332). -/
def putGlobal (intg a : Nat) (bs : List (Byte × Bool)) : Act :=
  look fun s =>
    if gaNode a = nodeId s then onlyIf (!writeRefused s (gaLocal a) bs.length) (writeLocal (gaLocal a) bs)
    else acts [
      each ((dmaBlocks (gaLocal a) bs.length).filter fun b => ((bs.drop b.1).take (b.2 - b.1)).any Prod.snd) fun b =>
        refuseExport intg (gaLocal a + b.1),
      each (dmaRuns (gaLocal a) bs) fun q =>
        sendWrite (gaNode a) .none (gaLocal a + q.1) (((bs.drop q.1).take (q.2 - q.1)).map Prod.fst)]

/-- The status word (R231). -/
def statusWord (outcome : Nat) (v : Solve) : Nat :=
  outcome + 8 * b2n (v.boosts != 0) + 16 * b2n (v.margin != 0) + 32 * b2n v.poison + 64 * b2n v.iterLimit +
    128 * b2n v.warmRestart + 256 * b2n v.preempted + min v.boosts 0xFFFF * 2 ^ 16 +
    v.firstBoost.getD 0xFF_FFFF % 2 ^ 24 * 2 ^ 32 + min v.iters 255 * 2 ^ 56

/-- What a delivery delivers: status word, RESIDUAL, AGE, XOUT, BEST_ITER, solution with exponents and row residuals. -/
structure Deliv where
  status : Nat
  residual : Nat
  age : Nat
  xout : Int
  iter : Nat
  mat : FxMat
  rowRes : List Int
deriving DecidableEq, Repr

/-- The delivery of a solve (R227, R228, R231). -/
def delivOf (s : State) (x : SolvCtx) (v : Solve) (o : Nat) : Deliv :=
  let dl := (x.go.map (·.deadline)).getD 0
  match o, v.best, x.prev with
  | 3, _, some p => ⟨setBits p.status 2 0 3, p.residual, dl / 65536 - p.imp, p.exp, 0, p.mat, p.rowRes⟩
  | 1, some b, _ | 2, some b, _ => ⟨statusWord o v, b.residual, 0, v.expX, b.iter, b.mat, b.rowRes⟩
  | _, _, _ =>
    let _ := s
    ⟨statusWord o v, 0, 0, v.expX, 0, [], []⟩

/-- A running update still reads the shadow slot a delivery writes (R200). -/
def shadowBound (s : State) (site group f i : Nat) : Bool :=
  let b := blockStAt s (cvRec s site group) f i
  match (ueSt s site).run with
  | some r => pgPv r.rec_ && pgCGroup r.rec_ == group && pgPvFactor r.rec_ == f && r.pvSlots.getD i 2 == 1 - b.slot
  | none => false

/-- The output of a CURVATURE delivery: shadow slot and block status (R199). -/
def deliverCurv (e c o : Nat) (d : Deliv) (poison : Bool) : Act :=
  look fun s =>
    let x := curvSrc s e c
    let r := cvRec s x.1 x.2.1
    let f := x.2.2.1
    let i := x.2.2.2
    let codes := solvOutput s e c d.mat d.xout 0 []
    let write := decide (o ≤ 3) && !poison
    onlyIf (decide (o ≤ 4)) (acts [
      onlyIf write (writeLocal (cvSlotAddr r f i (1 - (blockStAt s r f i).slot)) (codes.flatMap fun v =>
        (if cvFp32 r then leBytes 4 v else leBytes 2 (roundFloat 2 0 0 (v32 v)).code).map fun b => (b, false))),
      deliveryStatus x.1 r f i o d.residual d.age s.press.imp write poison])

/-- SOLVER_DELIVERY (R230). -/
def solveDeliver (e c : Nat) : Act :=
  look fun s =>
    let x := ctxAt s e c
    match x.solve, x.go with
    | some v, some g =>
      match v.outcome with
      | none => .done
      | some o =>
        let d := delivOf s x v o
        let curv := fv s SOLV_SRC_KIND e c == 1
        let q := curvSrc s e c
        let fresh := decide (o ≤ 2)
        let sat := bit d.status 4
        if curv && decide (o ≤ 3) && shadowBound s q.1 q.2.1 q.2.2.1 q.2.2.2 then incF UPDT_CNT_DELIVERY_WAIT 1 q.1
        else acts [
          if curv then deliverCurv e c o d (fresh && v.poison)
          else onlyIf (decide (o ≤ 3)) (putGlobal (160 + e) (fv s SOLV_OUT e c)
            ((solvOutput s e c d.mat d.xout v.expD d.rowRes).flatMap fun k => (leBytes 4 k).map fun b => (b, fresh && v.poison))),
          (let put := fun it => onlyIf (fv s SOLV_STS e c != 0) (putGlobal (160 + e) (fv s SOLV_STS e c)
            ((leBytes 8 d.status ++ leBytes 4 d.residual ++ leBytes 4 d.age ++ leBytes 6 s.press.imp ++
              leBytes 1 (ofInt 8 d.xout) ++ leBytes 1 0 ++ leBytes 4 it ++ leBytes 4 0).map fun b => (b, false)))
          if cMode s e c = 5 && fresh then withFree fun it => put (1 + it % (max 1 v.iters)) else put d.iter),
          setF SOLV_STATUS d.status e c, setF SOLV_RESIDUAL d.residual e c, setF SOLV_AGE d.age e c,
          setF SOLV_DELIVERED s.press.imp e c,
          onlyIf (decide (1 ≤ o) && decide (o ≤ 5)) (incF SOLV_SCNT 1 e (o - 1)),
          onlyIf sat (acts [incF SOLV_SCNT 1 e 7, raiseEvt (solvPg e) (2 ^ 18)]),
          onlyIf (v.boosts != 0) (raiseEvt (solvPg e) (2 ^ 19)),
          onlyIf (o == 3 || o == 4) (raiseEvt (solvPg e) (2 ^ 17)),
          setF SOLV_EXP_RAISE (min 16 (fv s SOLV_EXP_RAISE e c + v.margin)) e c,
          onlyIf (fresh && !v.poison) (setF SOLV_PREV_VALID 1 e c),
          updCtx e c fun y => { y with
            prev := if fresh && !v.poison then some ⟨d.mat, d.xout, d.rowRes, d.status, d.residual, s.press.imp⟩ else y.prev
            solve := none
            go := y.next
            next := none },
          setCState e c (if x.next.isSome then 2 else 1),
          sendTarget0 (srcOf (solvPg e)) g.done,
          onlyIf g.evt (raiseEvt (solvPg e) (2 ^ 16))]
    | _, _ => .done

/-- A soft reset of a SOLV page (R233). -/
def solvReset (e : Nat) : Act :=
  acts [each (List.range 32) fun c => acts [setCState e c 0, setF SOLV_CMODE 0 e c, setF SOLV_A_VALID 0 e c,
      setF SOLV_PREV_VALID 0 e c],
    look fun s => each (rangeF 16 fun g => ((solvSt s g).run.any fun r => r.1 == e)) fun g => acts [
      updSolv g fun v => { v with run := none }, setF SOLV_RUN_VALID 0 g],
    updSolv e fun _ => Solv.init, setF SOLV_RUN_VALID 0 e, upd (.fifo (solvWin e) []), setLevel e]

/-! ### Rows -/

/-- ENTRY (R224). -/
def execEntryRec (engine : Nat) (s : State) : Host.Outcome State Fault Refusal := .next ((solvStream engine 1).run s)
/-- VECTOR (R224). -/
def execVectorRec (engine : Nat) (s : State) : Host.Outcome State Fault Refusal := .next ((solvStream engine 2).run s)
/-- STRUCT (R224). -/
def execStructRec (engine : Nat) (s : State) : Host.Outcome State Fault Refusal := .next ((solvStream engine 3).run s)
/-- SOLVE_START (R221, R222). -/
def execSolveStart (engine elapsed : Nat) (ans : List RemoteAns) (s : State) : Host.Outcome State Fault Refusal :=
  .next ((acts [timeTo elapsed, solveStart engine ans]).run s)
/-- SOLVER_PREEMPT (R229). -/
def execSolverPreempt (engine elapsed : Nat) (s : State) : Host.Outcome State Fault Refusal :=
  .next ((acts [timeTo elapsed, solvePreempt engine]).run s)
/-- SOLVER_ITERATION (R227). -/
def execSolverIteration (engine : Nat) (s : State) : Host.Outcome State Fault Refusal := .next ((solveIterate engine).run s)
/-- SOLVER_DEADLINE (R228). -/
def execSolverDeadline (engine ctx elapsed : Nat) (s : State) : Host.Outcome State Fault Refusal :=
  .next ((acts [timeTo elapsed, solveDeadline engine ctx]).run s)
/-- SOLVER_DELIVERY (R230). -/
def execSolverDelivery (engine ctx : Nat) (s : State) : Host.Outcome State Fault Refusal :=
  .next ((solveDeliver engine ctx).run s)

end Sys2Proof.Machine
end

