-- ==== Sys2Proof/Machine/Tier.lean ====
section
/-! DEFINITION. The Object Placement Table (R308 to R311), prefetches (R312 to R314), and the soft resets of R321. -/

namespace Sys2Proof.Machine

/-- The OPTB page. -/
def optbPg : PageRef := ⟨.optb, 0⟩

/-! ### Entries (R308, R309) -/

/-- The address of an entry. -/
def optAddr (s : State) (h : Nat) : Nat := fv s OPTB_OPT_BASE + 64 * h

/-- An entry's bytes. -/
def optRec (s : State) (h : Nat) : List Byte := hbmBytesAt s (optAddr s h) 64

/-- VALID. -/
def otValid (e : List Byte) : Bool := bit (recLE e 0 1) 0
/-- TIER. -/
def otTier (e : List Byte) : Nat := bits (recLE e 0 1) 3 1
/-- MOVING. -/
def otMoving (e : List Byte) : Bool := bit (recLE e 1 1) 0
/-- GEN. -/
def otGen (e : List Byte) : Nat := recLE e 4 4
/-- SIZE. -/
def otSize (e : List Byte) : Nat := bits (recLE e 8 8) 40 0
/-- ADDR. -/
def otAddr (e : List Byte) : Nat := recLE e 16 8

/-- Bytes of a record are replaced. -/
def putAt (r : List Byte) (o : Nat) (bs : List Byte) : List Byte := r.take o ++ bs ++ r.drop (o + bs.length)

/-- An entry is written. -/
def optPut (h : Nat) (e : List Byte) : Act := look fun s => hbmPut (optAddr s h) e

/-- An address is consistent with a tier (R309). -/
def tierFits (s : State) (tier a n : Nat) : Bool :=
  match tier with
  | 0 => decide (a < 2 ^ 48) && a % 4096 == 0 && isHbmSite s.build (a / 2 ^ 36) && inSiteHbm (a / 2 ^ 36) a n
  | 1 => gaNode a != nodeId s && gaLocal a % 4096 == 0
  | 2 => a % 4096 == 0 && flashRegion a n == some 0
  | 3 => a % 4096 == 0 && flashRegion a n == some 1
  | _ => a == 0

/-- Entries with VALID = 1 (OPTB.USED). -/
def optUsed (s : State) : Nat :=
  if fb s OPTB_OPT_EN then countB (fun h => bit (deliverByte s (.hbm (optAddr s h / 2 ^ 36)) (hbmOff (optAddr s h))).toNat 0)
    (List.range 65536) else 0

/-! ### Commands (R310) -/

/-- The handle of a record. -/
def ocHandle (r : List Byte) : Nat := recLE r 4 4
/-- SIZE of a SET. -/
def ocSize (r : List Byte) : Nat := recLE r 16 8

/-- The unused bytes and reserved bits of a record are 0. -/
def ocUnusedZero (r : List Byte) : Bool :=
  zeroBytes r 1 4 && match recLE r 0 1 with
  | 0x11 => decide (recLE r 8 1 < 64) && zeroBytes r 9 16 && decide (ocSize r < 2 ^ 41) && zeroBytes r 40 64
  | 0x12 => decide (recLE r 8 1 < 8) && zeroBytes r 9 16 && zeroBytes r 24 40 && zeroBytes r 48 64
  | _ => zeroBytes r 8 64

/-- DONE of a MOVE. -/
def ocDone (r : List Byte) : Nat := recLE r 40 8

/-- The failing checks of an OPT command (R310). -/
def optErrs (s : State) (r : List Byte) : List ErrCode :=
  let t := recLE r 0 1
  let h := ocHandle r
  let e := optRec s h
  if t < 0x11 ∨ 0x13 < t then [.fieldRange]
  else
    when (!enabled s optbPg || !fb s OPTB_OPT_EN) .stateNotReady ++
    when (!ocUnusedZero r) .rsvdSet ++
    when (decide (65535 < h)) .fieldRange ++
    (if t = 0x11 then
      when (decide (4 < bits (recLE r 8 1) 3 1) || bits (recLE r 8 1) 5 4 == 3 || ocSize r % 4096 != 0) .fieldRange ++
      when (decide (ocSize r < 4096) || decide (2 ^ 40 < ocSize r)) .lenRange ++
      when (!tierFits s (bits (recLE r 8 1) 3 1) (recLE r 24 8) (ocSize r)) eMemTier
     else if t = 0x12 then
      when (decide (4 < recLE r 8 1)) .fieldRange ++
      (if ocDone r = 0 then [] else targetErrs s (ocDone r)) ++
      when (!tierFits s (recLE r 8 1) (recLE r 16 8) (otSize e)) eMemTier ++
      when (decide (64 ≤ s.moves.length)) .queueFull
     else []) ++
    when (t != 0x11 && !otValid e) eMemObj ++
    when (otMoving e) eMemMoving

/-- An accepted command's effect. -/
def optApply (r : List Byte) : Act :=
  look fun s =>
    let h := ocHandle r
    let e := optRec s h
    match recLE r 0 1 with
    | 0x11 => acts [optPut h (putAt e 0 (leBytes 1 (recLE r 8 1) ++ leBytes 3 (recLE e 1 3) ++ leBytes 4 0 ++
        (r.drop 16).take 24)), cnt OPTB_OCNT 0]
    | 0x12 => acts [optPut h (putAt (putAt (putAt e 1 (leBytes 1 1)) 32 ((r.drop 16).take 8)) 40 (leBytes 1 (recLE r 8 1))),
        upd (.moves (s.moves ++ [(h, ocDone r)])), cnt OPTB_OCNT 1]
    | _ => optPut h (putAt e 0 (leBytes 1 (recLE e 0 1 / 2 * 2)))

/-- The entry that a record names is read before its checks. -/
def optTouch (r : List Byte) : Act :=
  look fun s => onlyIf (fb s OPTB_OPT_EN && decide (ocHandle r ≤ 65535)) (readRecords optbPg [(optAddr s (ocHandle r), 64)])

/-- A command through the staging registers: what rejects it, if anything, returns to the writer. -/
def optPost (r : List Byte) (k : ErrCode → Act) : Act :=
  acts [optTouch r, look fun s =>
    let e := firstErr (optErrs s r)
    acts [onlyIf (e == .ok) (optApply r), k e]]

/-- The record staged in OPTB.CMD_W. -/
def optStaged (s : State) : List Byte := (List.range 16).flatMap fun i => leBytes 4 (fv s OPTB_OPT_W 0 i)

/-- A window record is rejected: REC_REJ keeps the last, and REC_REJ is raised. -/
def optReject (type : Nat) (c : ErrCode) : Act :=
  acts [setF OPTB_OREJ_VALID 1, setF OPTB_OREJ_CODE (errNum c), setF OPTB_OREJ_TYPE type, raiseEvt optbPg (2 ^ 17)]

/-! ### Transfers between tiers (R311, R313) -/

/-- What a transfer needs to know of its far side: the unit it comes from, and the answers still to come. -/
structure TierSt where
  org : Origin
  ans : List RemoteAns
deriving DecidableEq, Repr

/-- Reading bytes of a tier: the code it is refused with, and what was read before that. -/
def tierRead (st : TierSt) (tier a n : Nat) (k : TierSt → Nat → List (Byte × Bool) → Act) : Act :=
  look fun s =>
    let r := st.ans.headD ⟨0, [], []⟩
    let rest : TierSt := { st with ans := st.ans.drop 1 }
    match tier with
    | 0 => match rangeErrs s a n with
      | [] => acts [touchLocal a n, look fun t => k st 0 (readLocal t a n)]
      | l => k st (errNum (firstErr l)) []
    | 1 =>
      if !reachable s (gaNode a) then noRoute.seq (k st cNoRoute [])
      else (sendRead (gaNode a) st.org (gaLocal a) n).seq
        (k rest r.code ((withMarks r.data r.marks).take n))
    | 2 | 3 =>
      let bs := (flashRead s a n).zipIdx.map fun x => (x.1.1, x.1.2 || r.marks.getD x.2 false)
      let bad := countB (fun p => ((r.marks.drop (4096 * p)).take 4096).any id) (List.range (ceilDiv n 4096))
      (incF FLSH_FCNT bad 0 3).seq (k rest 0 bs)
    | _ => k st 0 []

/-- Writing bytes of a tier: the code it is refused with, and how many bytes were moved. -/
def tierWrite (st : TierSt) (tier a : Nat) (bs : List (Byte × Bool)) (k : Nat → Nat → Act) : Act :=
  look fun s =>
    let r := st.ans.headD ⟨0, [], []⟩
    let n := bs.length
    match tier with
    | 0 =>
      let e := firstErr (rangeErrs s a n ++ when (writeRefused s a n) .permission)
      if e = .ok then (writeLocal a bs).seq (k 0 n) else k (errNum e) 0
    | 1 =>
      if !reachable s (gaNode a) then noRoute.seq (k cNoRoute 0)
      else (sendWriteMarked (gaNode a) st.org (gaLocal a) bs).seq
        (if r.code = 0 then k 0 n else k r.code (min n r.data.length))
    | 2 | 3 =>
      let e := flashWriteCode s a n
      if e = .ok then (flashPut a bs).seq (k 0 n) else k (errNum e) 0
    | _ => k 0 n

/-! ### Moves (R311) -/

/-- A site's prefetch records. -/
def pfsOf (s : State) (site : Nat) : List Pf := mapGet pfDefault s.pfs site

/-- OBJ. -/
def pfObj (r : List Byte) : Nat := recLE r 4 2
/-- WRITE. -/
def pfWrite (r : List Byte) : Bool := bit (recLE r 1 1) 1

/-- A PREFETCH with WRITE = 1 bound to an object is in progress. -/
def pfWriting (s : State) (h : Nat) : Bool :=
  (List.range 12).any fun n => (pfsOf s n).any fun p => p.bound.isSome && pfWrite p.rec_ && pfObj p.rec_ == h

/-- MOVE_DONE: the copy of a move ends; the entry flips, or stays where a side refused. -/
def moveDone (h : Nat) (ans : List RemoteAns) : Act :=
  look fun s => match s.moves.find? fun m => m.1 == h with
    | none => .done
    | some m =>
      let e := optRec s h
      let src := otTier e
      let dst := recLE e 40 1
      let dest := recLE e 32 8
      let finish := fun (ok : Bool) => look fun t =>
        let e := optRec t h
        acts [
          if ok then optPut h (putAt (putAt (putAt e 0
              (leBytes 1 (setBits (recLE e 0 1) 3 1 dst) ++ leBytes 1 0)) 4 (leBytes 4 (otGen e + 1))) 16 (leBytes 8 dest))
            else acts [optPut h (putAt e 1 (leBytes 1 0)), cnt OPTB_OCNT 2, raiseEvt optbPg (2 ^ 16)],
          upd (.moves (t.moves.filter fun x => x.1 != h)),
          sendTarget0 (srcOf optbPg) m.2]
      if pfWriting s h then .done
      else if dst = 4 ∨ src = 4 then finish true
      else tierRead ⟨.none, ans⟩ src (otAddr e) (otSize e) fun st c bs =>
        if c = 0 then tierWrite st dst dest bs fun c _ => finish (c == 0)
        else tierWrite st dst dest bs fun _ _ => finish false

/-! ### Prefetches (R312 to R314) -/

/-- GATE. -/
def pfGate (r : List Byte) : Nat := instant (recLE r 32 6) (recLE r 38 2)
/-- LEN. -/
def pfLen (r : List Byte) : Nat := bits (recLE r 16 8) 40 0
/-- OFFSET. -/
def pfOffset (r : List Byte) : Nat := bits (recLE r 8 8) 40 0
/-- DST. -/
def pfDst (r : List Byte) : Nat := recLE r 24 6
/-- STS. -/
def pfSts (r : List Byte) : Nat := recLE r 56 6
/-- A bit of byte 1: 0 GATE_EN, 1 WRITE, 2 ALT_EN, 3 EVT. -/
def pfFlag (r : List Byte) (i : Nat) : Bool := bit (recLE r 1 1) i

/-- The failing checks of a PREFETCH record (R312). -/
def pfErrs (s : State) (site : Nat) (r : List Byte) : List ErrCode :=
  let tgt := fun o => recLE r o 8
  when (!enabled s (hbmcPg site)) .stateNotReady ++
  when (inRegSpace (pfDst r) || inRegSpace (pfSts r)) .permission ++
  when (pfSts r != 0 && placeOf s (pfSts r) == .none) .addrUnmapped ++
  when (decide (16 ≤ recLE r 1 1) || recLE r 2 2 != 0 || recLE r 6 2 != 0 || decide (2 ^ 41 ≤ recLE r 8 8) ||
    decide (2 ^ 41 ≤ recLE r 16 8) || recLE r 30 2 != 0 || recLE r 62 2 != 0) .rsvdSet ++
  when (decide (65535 < recLE r 4 4) || pfOffset r % 4096 != 0 || pfLen r % 4096 != 0) .fieldRange ++
  (if tgt 40 = 0 then [] else targetErrs s (tgt 40)) ++ (if pfFlag r 2 then targetErrs s (tgt 48) else []) ++
  when (pfDst r % 4096 != 0 || pfSts r % 32 != 0) .addrAlign ++
  when (decide (2 ^ 40 < pfLen r)) .lenRange ++
  when (!inSiteHbm site (pfDst r) (pfLen r)) .lenOverRegion

/-- A site's prefetch records change. -/
def setPfs (site : Nat) (f : List Pf → List Pf) : Act := look fun s => upd (.pfs site (f (pfsOf s site)))

/-- The end of a prefetch (R313, R314): record, counters, target, event. -/
def pfEnd (site : Nat) (r : List Byte) (outcome code tier gen bytes : Nat) : Act :=
  look fun s => acts [
    onlyIf (pfSts r != 0 && !writeRefused s (pfSts r) 32) (putLocal (pfSts r) (leBytes 1 outcome ++ leBytes 1 code ++
      leBytes 1 tier ++ leBytes 1 0 ++ leBytes 4 gen ++ leBytes 8 bytes ++ leBytes 6 s.press.imp ++ leBytes 10 0)),
    onlyIf (outcome == 2) (cnt HBMC_HCNT 3 site),
    onlyIf (outcome == 3 || outcome == 4) (acts [cnt HBMC_HCNT 4 site, raiseEvt (hbmcPg site) (2 ^ 17)]),
    sendTarget0 (srcOf (hbmcPg site)) (recLE r (if outcome == 2 && pfFlag r 2 then 48 else 40) 8),
    onlyIf (pfFlag r 3) (raiseEvt (hbmcPg site) (2 ^ 16))]

/-- Running prefetches of a site. -/
def pfRunning (s : State) (site : Nat) : Nat := countB (fun (p : Pf) => p.bound.isSome) (pfsOf s site)

/-- Records in a site's memory window FIFO (PF_LEVEL). -/
def pfLevel (s : State) (site : Nat) : Nat := (fifoOf s site).length + pfWaiting s site

/-- An accepted PREFETCH record. -/
def pfAccept (site : Nat) (r : List Byte) : Act :=
  look fun s =>
    if pfLen r = 0 then pfEnd site r 1 0 0 0 0
    else acts [onlyIf (pfFlag r 0 && reached s (pfGate r)) (cnt HBMC_HCNT 1 site),
      setPfs site fun l => l ++ [⟨r, none, false⟩]]

/-- PREFETCH_START: a waiting prefetch whose gate is reached binds to its entry. -/
def pfStart (site i : Nat) : Act :=
  look fun s => match (pfsOf s site)[i]? with
    | none => .done
    | some p =>
      let r := p.rec_
      if p.bound.isSome ∨ 32 ≤ pfRunning s site ∨ (pfFlag r 0 && !reached s (pfGate r)) then .done
      else acts [onlyIf (fb s OPTB_OPT_EN) (readRecords (hbmcPg site) [(optAddr s (pfObj r), 64)]), look fun t =>
        let e := optRec t (pfObj r)
        let stop := fun o c => acts [cnt HBMC_HCNT 0 site, setPfs site fun l => l.eraseIdx i,
          pfEnd site r o c (otTier e) (otGen e) 0]
        if !fb t OPTB_OPT_EN || !otValid e || decide (otSize e < pfOffset r + pfLen r) then stop 3 (errNum eMemObj)
        else if otTier e = 4 then stop 2 0
        else if otMoving e && pfWrite r then
          onlyIf (!p.waited) (acts [cnt HBMC_HCNT 2 site, setPfs site fun l => l.set i { p with waited := true }])
        else acts [cnt HBMC_HCNT 0 site,
          setPfs site fun l => l.set i { p with bound := some (otTier e, otGen e, otAddr e) }]]

/-- PREFETCH_DONE: the transfer of a running prefetch ends. -/
def pfDone (site i : Nat) (ans : List RemoteAns) : Act :=
  look fun s => match (pfsOf s site)[i]? with
    | none => .done
    | some p => match p.bound with
      | none => .done
      | some (tier, gen, a) =>
        let r := p.rec_
        let from_ := a + pfOffset r
        let fin := fun (code : Nat) (marked : Bool) (bytes : Nat) => acts [
          setPfs site fun l => l.eraseIdx i,
          pfEnd site r (if code ≠ 0 then 4 else if marked then 5 else 1) code tier gen bytes]
        let go := fun (t1 a1 t2 a2 : Nat) =>
          tierRead ⟨.prefetch site (pfDst r), ans⟩ t1 a1 (pfLen r) fun st c bs =>
            tierWrite st t2 a2 bs fun c2 m => fin (if c ≠ 0 then c else c2) (bs.any Prod.snd) m
        if awaitsZeros s (pfDst r) (pfLen r) || (tier == 0 && awaitsZeros s from_ (pfLen r)) then .done
        else if pfWrite r then go 0 (pfDst r) tier from_ else go tier from_ 0 (pfDst r)

/-! ### The memory window (R312) -/

/-- The window's front record is taken, those of a reserved type before it rejected: acted on if of TYPE `ty` and accepted,
else rejected, in REC_REJ if an OPT command (R310), in the HBMC page if a PREFETCH (R41). -/
def hbmWindow (site ty : Nat) : Nat → Act
  | 0 => .done
  | n + 1 => look fun s => match fifoOf s site with
    | [] => .done
    | r :: _ =>
      let t := recLE r.bytes 0 1
      let opt := decide (0x11 ≤ t ∧ t ≤ 0x13)
      let eat := acts [fifoPop site, onlyIf r.marked (consume (hbmcPg site) (0xFA00_0000_0000 + site * 65536))]
      if t ≠ 1 ∧ !opt then acts [eat, optReject t .fieldRange, hbmWindow site ty n]
      else if t ≠ ty then .done
      else if opt then acts [eat, optPost r.bytes fun e => onlyIf (e != .ok) (optReject t e)]
      else
        let e := firstErr (pfErrs s site r.bytes)
        acts [eat, if e = .ok then pfAccept site r.bytes else recordReject (hbmcPg site) 0 e]

/-- The window takes records until one acts or none can. -/
def hbmTake (site ty : Nat) : Act := look fun s => hbmWindow site ty ((fifoOf s site).length + 1)

/-! ### Soft resets (R321) -/

/-- A soft reset of an HBMC page: running prefetches are abandoned without targets, the window FIFO is emptied. -/
def hbmcReset (site : Nat) : Act := acts [upd (.pfs site []), upd (.fifo site [])]

/-- A soft reset of the OPTB page: moves are abandoned without flipping. -/
def optReset : Act :=
  look fun s => acts [
    each s.moves fun m => look fun t => optPut m.1 (putAt (optRec t m.1) 1 (leBytes 1 0)),
    upd (.moves [])]

/-! ### Rows -/

/-- MOVE_DONE (R311). -/
def execMoveDone (handle : Nat) (ans : List RemoteAns) (s : State) : Host.Outcome State Fault Refusal :=
  .next ((moveDone handle ans).run s)
/-- PREFETCH (R312). -/
def execPrefetch (site : Nat) (s : State) : Host.Outcome State Fault Refusal := .next ((hbmTake site 1).run s)
/-- PREFETCH_START (R313). -/
def execPrefetchStart (site idx elapsed : Nat) (s : State) : Host.Outcome State Fault Refusal :=
  .next ((acts [timeTo elapsed, pfStart site idx]).run s)
/-- PREFETCH_DONE (R314). -/
def execPrefetchDone (site idx : Nat) (ans : List RemoteAns) (s : State) : Host.Outcome State Fault Refusal :=
  .next ((pfDone site idx ans).run s)

end Sys2Proof.Machine
end

