-- ==== Sys2Proof/Machine/RegView.lean ====
section
/-! DEFINITION. Register reads: which register an access names (R24, R25), who reaches it (R27), and what it reads as: the
stored value, or a view of other state (R28 to R32, R38, R54, R98, R272, R320, R405, R439). -/

namespace Sys2Proof.Machine

/-! ### Which register -/

/-- Location number of a register address. -/
def raLoc (a : Nat) : Nat := bits a 31 24
/-- Page index. -/
def raPage (a : Nat) : Nat := bits a 23 12
/-- Offset within the page. -/
def raOff (a : Nat) : Nat := bits a 11 0

/-- The page of a register address. -/
def pageOf (s : State) (a : Nat) : Option PageRef := if a / 2 ^ 32 = 0xFF00 then pageAt s (raLoc a) (raPage a) else none

/-- The instance whose key holds a register: the device-wide registers of SHEF and LINK are held once (R272, R367). -/
def keyIdx (p : PageRef) (off : Nat) : Nat :=
  match p.blk with
  | .shef => if 0x40 ≤ off then 0 else p.idx
  | .link => if 0x40 ≤ off ∧ off < 0x100 then 0 else p.idx
  | _ => p.idx

/-- The key of a page's register. -/
def pageKey (p : PageRef) (off : Nat) : Nat := regKey p.blk (keyIdx p off) off

/-- The repetition of a register array an offset names. -/
def nth (off first stride : Nat) : Nat := (off - first) / stride

/-! ### Views -/

/-- A page of a location that forwards an event, lowest index first (R47). -/
def firstForward (s : State) (loc : Nat) : Option Nat :=
  (pagesAt s.build loc).find? fun i => match pageAt s loc i with | some p => forwarding s p | none => false

/-- MGMT.EVT_LOC (R38). -/
def evtLoc (s : State) : Nat :=
  sumN ((rangeF 12 fun n => (firstForward s n).isSome).map (2 ^ ·)) + 2 ^ 16 * b2n (firstForward s 0x10).isSome +
    2 ^ 17 * b2n (firstForward s 0x11).isSome + 2 ^ 24 * b2n (firstForward s 0x18).isSome

/-- MGMT.EVT_NEXT (R38). -/
def evtNext (s : State) : Nat := match firstForward s (fv s MGMT_EVT_SEL) with | some i => 2 ^ 31 + i | none => 0

/-- A page of a spare slot (R29, R36). -/
def spareSlotPage (s : State) (p : PageRef) : Bool := isTileGroup p && decide (144 ≤ slotOf s p.idx)

/-- PAGE_STS.POISONED: what the memory of the page has shown, or the marked state its engine holds (R331, R145, R192, R231). -/
def pagePoisoned (s : State) (p : PageRef) : Bool :=
  match p.blk with
  | .cova => (List.range 8).any fun k => fb s COVA_SPOISON p.idx k
  | .solv => (solvSt s p.idx).ctxs.any fun x => x.marked || x.rows.any fun r => r.2.marked
  | .updt => fb s UPDT_CURV_EN p.idx && (List.range (fv s UPDT_CURV_COUNT p.idx)).any fun g =>
      let r := cvRec s p.idx g
      (List.range 2).any fun f => (List.range (min 64 (cvNB r f))).any fun i => (blockStAt s r f i).flag 4
  | _ => fb s (hdrPoisoned p.blk) p.idx

/-- PAGE_STS (R31). -/
def pageSts (s : State) (p : PageRef) : Nat :=
  8 * b2n (pagePoisoned s p) + 4 * b2n (pageRetired s p) +
    2 * b2n (fv s (hdrErrCode p.blk) p.idx != 0) + b2n (inSrst s p)

/-- TILE_INFO (R98). -/
def tileInfo (s : State) (phys : Nat) : Nat :=
  let slot := slotOf s phys
  512 * b2n (decide (slot < 144) && slotHome slot != phys) + 256 * (phys / 80) + phys % 80

/-- A queue's Q_STS, with the operations in flight (R98). -/
def qSts (s : State) (phys q : Nat) : Nat :=
  setBits (rdKey s (fldKey TILE_QSTATE phys q)) 10 8 (queueSt s phys q).inflight.length

/-- HLTH.COUNTS (R439). -/
def hlthCounts (s : State) : Nat :=
  (trainedLinks s).length * 2 ^ 20 + countB (linkDieInService s) (linkSites s.build) * 2 ^ 16 +
    countB (ueInService s) (hbmSites s.build) * 2 ^ 12 + countB (hbmInService s) (hbmSites s.build) * 2 ^ 8 +
    countB (tileBacked s) (List.range 144)

/-- Spares left of a die; before boot has proved the tiles, all that are not retired (R439). -/
def sparesShown (s : State) (die : Nat) : Nat :=
  if s.boot.stage < 5 then countB (fun k => !tileRetired s (physOf s (144 + 8 * die + k))) (List.range 8)
  else sparesLeft s die

/-- HLTH.MARKS (R439). -/
def hlthMarks (s : State) : Nat :=
  min 255 s.units.suspect.length * 2 ^ 16 + min 255 s.units.quar.length * 2 ^ 8 + sparesShown s 1 * 16 + sparesShown s 0

/-- SHEF.LINE_DATA of the selected lineage (R272). -/
def lineData (s : State) : Nat :=
  let l := fv s SHEF_LINE_SEL
  2 ^ 31 * b2n (lineOf s l).1 + 2 ^ 30 * b2n (linePending s l) + (lineOf s l).2 % 2 ^ 16

/-- What a register that shows other state reads as; none where the stored value is read. -/
def viewAt (s : State) (p : PageRef) (off : Nat) : Option Nat :=
  if off = 0x000 then some (typeCode p.blk * 2 ^ 16 + pageInstance s p * 2 ^ 8 + 1)
  else if off = 0x004 then
    some (2 ^ 31 * b2n (isFamily p.blk) + 2 ^ 30 * b2n (spareSlotPage s p) + blockCaps s.build p)
  else if off = 0x00C then some (pageSts s p)
  else match p.blk with
  | .mgmt => if off = 0x040 then some (evtLoc s) else if off = 0x048 then some (evtNext s)
      else if off = 0x04C then some (linkMask s.build) else none
  | .pres => if off = 0x040 then some (if unsync s then 0 else curInstant s)
      else if off = 0x0A4 then some (1024 - s.press.sched.length) else none
  | .tile => if off = 0x040 then some (tileInfo s p.idx)
      else if off = 0x054 then some (tileSt s p.idx).summaries.length
      else if 0x080 ≤ off ∧ off < 0x160 ∧ off % 0x20 = 0x10 then some (qSts s p.idx (nth off 0x090 0x20))
      else none
  | .slqp => if off = 0x040 then some s.sessions.length else if off = 0x068 then some s.events.length else none
  | .hbmc => if off = 0x054 then some (pfLevel s p.idx) else if off = 0x058 then some (pfRunning s p.idx) else none
  | .optb => if off = 0x04C then some (optUsed s) else if off = 0x050 then some s.moves.length else none
  | .shef => if off = 0x0AC then some (lineData s) else none
  | .hlth => if off = 0x044 then some (hlthCounts s) else if off = 0x048 then some (hlthMarks s) else none
  | _ => none

/-- What a register of a page reads as. -/
def regValue (s : State) (p : PageRef) (off : Nat) : Nat := (viewAt s p off).getD (rdKey s (pageKey p off))

/-! ### Who reaches it -/

/-- A requester reads, or writes, pages of a block (R27). -/
def reaches (s : State) (r : Requester) (p : PageRef) (write : Bool) : Bool :=
  match r with
  | .mgmt _ | .slaiq => true
  | .tileCore t => (isTileGroup p && p.idx == physOf s t) || (!write && (p.blk == .pres || p.blk == .hlth))
  | .roce | .fabric => false

/-- The failing checks of an access of a size to an address, but for those of a write's value (R24, R25, R27). A global
address in another device's register space is refused. -/
def accessErrs (s : State) (r : Requester) (a size : Nat) (write : Bool) : List ErrCode :=
  match pageOf s a with
  | none => if decide (2 ^ 48 ≤ a) && inRegSpace a && gaNode a != nodeId s then [.permission] else [.addrUnmapped]
  | some p =>
    when (a % size != 0) .addrAlign ++
    when (size != (match regAt p.blk (raOff a) with
      | some (d, _) => if d.wide then 8 else 4
      | none => 4)) .accessWidth ++
    when (!reaches s r p write) .permission

/-- A rejected access is recorded in its page, or where it names none in MGMT (R41, R45). -/
def rejectAt (s : State) (a : Nat) (e : ErrCode) : Act := recordReject ((pageOf s a).getD mgmtPage) (raOff a) e

/-! ### Reading -/

/-- The bits of a register that a read clears. -/
def rcMask (d : RegDef) : Nat :=
  sumN ((d.fields.filter fun f => f.acc == .rc).map fun f => (2 ^ (f.hi + 1 - f.lo) - 1) * 2 ^ f.lo)

/-- A read of a page's register: its value goes on, and the RC fields are cleared. While a soft reset is in progress a block
register reads as before it, or as after it: which is open (R49). -/
def readPage (p : PageRef) (off : Nat) (k : Nat → Act) : Act :=
  look fun s => match regAt p.blk off with
    | none => k 0
    | some (d, base) =>
      let clear := fun v => onlyIf (v &&& rcMask d != 0) (setKey (pageKey p base) (v - (v &&& rcMask d)))
      let v := regValue s p base
      if inSrst s p && decide (0x40 ≤ base) && (viewAt s p base).isNone then
        withFree fun b => acts [clear v, k (if b % 2 = 1 then v else (mapGet regReset s.srstOld (pageKey p base)).toNat)]
      else acts [onlyIf (viewAt s p base).isNone (clear v), k v]

/-- A read by a requester: the code it ends with, and the value (0 where it is rejected). -/
def readReg (r : Requester) (a size : Nat) (k : ErrCode → Nat → Act) : Act :=
  look fun s =>
    let e := firstErr (accessErrs s r a size false)
    match pageOf s a with
    | some p => if e ≠ .ok then acts [rejectAt s a e, k e 0] else readPage p (raOff a) (k .ok)
    | none => acts [rejectAt s a e, k e 0]

end Sys2Proof.Machine
end

