-- ==== Sys2Proof/Machine/RegHooks.lean ====
section
/-! DEFINITION. What a write of a block's register is checked for beyond the rules every register has, and what it sets going
beyond its value, block by block. -/

namespace Sys2Proof.Machine

/-- A request to a block that is disabled (R30). -/
def disabledErr (s : State) (p : PageRef) (request : Bool) : List ErrCode := when (request && !enabled s p) .stateNotReady

/-- The record staged in words of a register array. -/
def stagedRec (s : State) (f : Fld) (idx n : Nat) : List Byte := (List.range n).flatMap fun i => leBytes 4 (fv s f idx i)

/-! ### MGMT and PRES -/

/-- MGMT (R38, R386). -/
def mgmtErrs (s : State) (off v : Nat) : List ErrCode :=
  if off = 0x044 then when (!(decide (v < 12) || v == 0x10 || v == 0x11 || v == 0x18)) .fieldRange
  else if off = 0x100 ∨ off = 0x108 ∨ off = 0x128 then when (fv s MGMT_RI_STATE != 0) .stateBusy
  else []

/-- PRES (R55, R69 to R74, R375). -/
def presErrs (s : State) (off v : Nat) : List ErrCode :=
  if off = 0x068 then when (decide (bits v 63 32 < bits v 31 0)) .fieldRange
  else if off = 0x098 then disabledErr s presPage (bit v 0) ++ (if bit v 0 then postErrs s else [])
  else if off = 0x0A0 then cancelErrs s (bits v 9 0)
  else if off = 0x0A8 ∨ (0x100 ≤ off ∧ off < 0x300) then when (fb s PRES_BUB_EN) .stateBusy
  else if off = 0x0B0 then bubErrs s v
  else if off = 0x300 ∨ off = 0x308 then when (fb s PRES_PLAN_EN) .stateBusy
  else if off = 0x310 then (if bit v 31 && !fb s PRES_PLAN_EN then planErrs s else [])
  else []

/-- What a PRES write sets going; `old` is the state before it. -/
def presApply (old : State) (off v : Nat) : Act :=
  if off = 0x07C then onlyIf (bit v 0) readyForce
  else if off = 0x098 then onlyIf (bit v 0) postApply
  else if off = 0x0A0 then cancelApply (bits v 9 0)
  else if off = 0x0B0 then bubApply v
  else if off = 0x310 then onlyIf (bit v 31 && !fb old PRES_PLAN_EN) (look fun s => updPress fun p => { p with plan := some (planRead s) })
  else .done

/-! ### Tile pages -/

/-- TILE (R88, R89, R98). -/
def tileErrs (s : State) (p off v : Nat) : List ErrCode :=
  if off = 0x044 then when (bits v 17 16 != 0) .addrAlign
  else if 0x080 ≤ off ∧ off < 0x160 then
    let q := nth off 0x080 0x20
    if off % 0x20 = 0 then qCfgErrs s p q v
    else if off % 0x20 = 8 then qTailErrs s p q v
    else if off % 0x20 = 0xC then qCtlErrs v
    else []
  else []

/-- What a TILE write sets going. -/
def tileApply (old : State) (p off v : Nat) : Act :=
  if off = 0x044 then
    (if bit v 0 then onlyIf (!fb old TILE_CORE_RUN p) (coreStart p) else onlyIf (fb old TILE_CORE_RUN p) (coreStop p))
  else if 0x080 ≤ off ∧ off < 0x160 then
    let q := nth off 0x080 0x20
    if off % 0x20 = 8 then qTailSet p q v else if off % 0x20 = 0xC then qCtl p q v else .done
  else .done

/-- Queue 0's head is checked or waits, and names a covariance slot; or a descriptor in flight does (R144). -/
def slotInUse (s : State) (p slot : Nat) : Bool :=
  let st := fv s TILE_QSTATE p 0
  ((st == qCheck || st == qWaiting) && (slotsNamed (headDesc s p 0)).contains slot) ||
    (queueSt s p 0).inflight.any fun x => x.slots.contains slot

/-- A queue of a tile checks or waits, or has descriptors in flight (R96). -/
def tileWorks (s : State) (p : Nat) : Bool :=
  (List.range 7).any fun q => fv s TILE_QSTATE p q == qCheck || fv s TILE_QSTATE p q == qWaiting ||
    !(queueSt s p q).inflight.isEmpty

/-- BASE and SIZE a region-table value gives, in granules; none where it is not VALID. -/
def regionOf (v : Nat) : Option (Nat × Nat) := if bit v 31 then some (bits v 4 0, bits v 13 8) else none

/-- GALY (R96). -/
def galyErrs (s : State) (p r v : Nat) : List ErrCode :=
  when (tileWorks s p) .stateBusy ++
  match regionOf v with
  | none => []
  | some x =>
    when (x.2 == 0 || decide (32 < x.2) || (List.range 8).any fun q => q != r &&
      (match regionOf (rdKey s (fldKey GALY_RVALID p q)) with | some y => rangesMeet x y | none => false)) .fieldRange ++
    when (decide (32 < x.1 + x.2)) .lenOverRegion

/-- Lines of granules that another region now governs, or none, become unwritten (R96). -/
def galyApply (old : State) (p : Nat) : Act :=
  look fun s => each (rangeF 32 fun g => galleyRegion old p g != galleyRegion s p g) fun g => unwrite (.galley p) (g * 65536) 65536

/-- WINN (R246). -/
def winnErrs (s : State) (p off v : Nat) : List ErrCode :=
  if off < 0x100 then [] else
    let i := nth off 0x100 0x40
    if off % 0x40 = 0x20 then
      when (bit v 0 && bit v 1) .fieldRange ++ (if bit v 0 then disabledErr s ⟨.winn, p⟩ true ++ armErrs s p i else []) ++
        (if bit v 1 then disarmErrs s p i else [])
    else when (fv s WINN_ISTATE p i != inIdle) .stateBusy

/-- What a WINN write sets going. -/
def winnWrite (p off v : Nat) : Act :=
  let i := nth off 0x100 0x40
  onlyIf (decide (0x100 ≤ off) && off % 0x40 == 0x20) (acts [onlyIf (bit v 0) (armInbox p i), onlyIf (bit v 1) (disarmInbox p i)])

/-! ### SOLV -/

/-- SOLV (R209, R220). -/
def solvErrs (s : State) (e off v : Nat) : List ErrCode :=
  if off = 0x068 then (if bit v 0 then goErrs s e (stagedRec s SOLV_GO_W e 8) else [])
  else if off < 0x800 then []
  else
    let c := nth off 0x800 0x40
    let on := cMode s e c != 0
    if off % 0x40 = 0 then
      when (on && (bits v 2 0 != 0 || fv s SOLV_CSTATE e c != 1)) .stateBusy ++
      (if !on && bits v 2 0 != 0 then solvEnableErrs s e c (parseCfg v) else [])
    else when on .stateBusy

/-- What a SOLV write sets going. -/
def solvApply (old : State) (e off v : Nat) : Act :=
  if off = 0x068 then onlyIf (bit v 0) (goAccept e (stagedRec old SOLV_GO_W e 8))
  else
    let c := nth off 0x800 0x40
    onlyIf (decide (0x800 ≤ off) && off % 0x40 == 0) (
      if cMode old e c != 0 then solvDisable e c else onlyIf (bits v 2 0 != 0) (solvEnable e c))

/-! ### HBM sites -/

/-- The failing checks of CURV_CMD (R205). -/
def curvCmdErrs (s : State) (n v : Nat) : List ErrCode :=
  let op := bits v 13 12
  let g := bits v 9 0
  let f := bits v 10 10
  let known := fb s UPDT_CURV_EN n && decide (g < fv s UPDT_CURV_COUNT n)
  when (!fb s UPDT_CURV_EN n || !enabled s (updtPg n)) .stateNotReady ++
  when (known && (folding s n g f || (op == 2 && factorSolving s n g f))) .stateBusy ++
  when (decide (fv s UPDT_CURV_COUNT n ≤ g) || op == 0 || op == 3) .fieldRange

/-- The failing checks of UPD_CMD (R300). -/
def updCmdErrs (s : State) (n v : Nat) : List ErrCode :=
  let op := bits v 13 12
  let g := bits v 9 0
  when (!fb s UPDT_PG_EN n || !enabled s (updtPg n)) .stateNotReady ++
  when (op == 0 || (op == 3 && g != 0) || (op != 3 && decide (fv s UPDT_PG_COUNT n ≤ g))) .fieldRange ++
  (if op = 1 then runErrs s n g else [])

/-- UPDT (R204, R205, R300). -/
def updtErrs (s : State) (n off v : Nat) : List ErrCode :=
  if off = 0x040 then when (fb s UPDT_PG_EN n) .stateBusy
  else if off = 0x048 then when (fb s UPDT_PG_EN n && bits v 10 0 != fv s UPDT_PG_COUNT n) .stateBusy
  else if off = 0x050 then when (ueSt s n).run.isSome .stateBusy
  else if off = 0x054 then
    when (fv s UPDT_LEDGER_USED n != 0 && bits v 12 0 != fv s UPDT_LEDGER_COUNT n) .stateBusy ++
    when (bit v 31 && (bits v 12 0 == 0 || decide (4096 < bits v 12 0))) .fieldRange
  else if off = 0x058 then when (fv s UPDT_LEDGER_USED n != 0) .stateBusy
  else if off = 0x064 then updCmdErrs s n v
  else if off = 0x0B0 then (if bit v 0 then ueRecErrs s n (stagedRec s UPDT_CMD_W n 16) else [])
  else if off = 0x0B4 ∨ off = 0x0B8 ∨ off = 0x0C0 ∨ off = 0x0D0 then when (fv s UPDT_SNAP_STATE n != 0) .stateBusy
  else if off = 0x400 then when (fb s UPDT_CURV_EN n) .stateBusy
  else if off = 0x408 then
    when (fb s UPDT_CURV_EN n && bits v 10 0 != fv s UPDT_CURV_COUNT n) .stateBusy ++
    when (bit v 31 && bits v 10 0 != 0 && !inSiteHbm n (fv s UPDT_CURV_BASE n) (bits v 10 0 * 128)) .lenOverRegion
  else if off = 0x40C then curvCmdErrs s n v
  else []

/-- What a UPDT write sets going. -/
def updtApply (old : State) (n off v : Nat) : Act :=
  if off = 0x050 then
    let a := fv old UPDT_PROG_ADDR n
    acts [memPut (.prog n) (4 * a) (leBytes 4 v), setF UPDT_PROG_ADDR ((a + 1) % 4096) n]
  else if off = 0x064 then
    match bits v 13 12 with
    | 1 => ueEnqueue n (.update (bits v 9 0) none)
    | 2 => updUe n fun u => { u with audits := u.audits ++ [(bits v 9 0, 0)] }
    | _ => fetchCancelAll n
  else if off = 0x0B0 then onlyIf (bit v 0) (ueRecord n (stagedRec old UPDT_CMD_W n 16))
  else if off = 0x40C then
    (if bits v 13 12 = 1 then ueEnqueue n (.fold (bits v 9 0) (bits v 10 10)) else curvReset n (bits v 9 0) (bits v 10 10))
  else .done

/-! ### SHEF -/

/-- A sheaf is open or messages are parked (R272). -/
def shefBusy (s : State) : Bool := fv s SHEF_OPEN_CNT != 0 || !s.shef.parked.isEmpty

/-- SHEF (R272). -/
def shefErrs (s : State) (off v : Nat) : List ErrCode :=
  if off = 0x040 ∨ off = 0x048 ∨ off = 0x050 then when (shefBusy s) .stateBusy
  else if off = 0x0A0 then (if bit v 0 then openErrs s (stagedRec s SHEF_OPEN_W 0 16) else [])
  else if off = 0x0AC then when (linePending s (fv s SHEF_LINE_SEL)) .stateBusy
  else []

/-- What a SHEF write sets going. -/
def shefApply (old : State) (off v : Nat) : Act :=
  if off = 0x0A0 then onlyIf (bit v 0) (shefRecord (stagedRec old SHEF_OPEN_W 0 16))
  else if off = 0x0AC then setLine (fv old SHEF_LINE_SEL) (bit v 31, bits v 15 0)
  else .done

/-! ### Memory tiers, integrity, links -/

/-- OPTB (R310, R320). -/
def optbErrs (s : State) (off v : Nat) : List ErrCode :=
  if off = 0x040 then when (fb s OPTB_OPT_EN) .stateBusy
  else if off = 0x0A0 then (if bit v 0 then optErrs s (optStaged s) else [])
  else []

/-- PEER (R316). -/
def peerErrs (s : State) (off v : Nat) : List ErrCode :=
  if off < 0x100 then [] else
    let w := nth off 0x100 16
    let on := fb s PEER_LW_EN 0 w
    if off % 16 = 8 then
      (if on then when (bit v 31 && (bits v 15 15 != fv s PEER_LW_WRITE_OK 0 w || bits v 13 0 != fv s PEER_LW_BORROWER 0 w)) .stateBusy
      else if bit v 31 then lendErrs s w (bits v 13 0) else [])
    else when on .stateBusy ++ when (off % 16 == 12 && (v == 0 || decide (22888 < v))) .fieldRange

/-- What a PEER write sets going. -/
def peerApply (old : State) (off v : Nat) : Act :=
  let w := nth off 0x100 16
  onlyIf (decide (0x100 ≤ off) && off % 16 == 8 && bit v 31 && !fb old PEER_LW_EN 0 w) (lendUnwrite w)

/-- INTG (R337, R338). -/
def intgErrs (s : State) (i off v : Nat) : List ErrCode :=
  if off = 0x04C then (if bit v 4 then flipErrs s i (bits v 3 0) else [])
  else if off = 0x078 then (if bit v 4 then disabledErr s (intgPage i) true ++ scrubErrs s i (bits v 3 0) else [])
  else []

/-- What an INTG write sets going. -/
def intgApply (i off v : Nat) : Act :=
  if off = 0x040 then onlyIf (bit v 1) (pstsClr i)
  else if off = 0x04C then onlyIf (bit v 4) (setF INTG_FLIP_ARMED 1 i)
  else if off = 0x078 then onlyIf (bit v 4) (scrubGo i)
  else .done

/-- LINK (R368). -/
def linkErrs (s : State) (l off v : Nat) : List ErrCode :=
  if off = 0x044 then homeErrs s v else if off = 0x048 then topoErrs s v else if off = 0x114 then linkCtlErrs s l v else []

/-- What a LINK write sets going. -/
def linkApply (l off v : Nat) : Act :=
  if off = 0x044 ∨ off = 0x048 then placeLinks else if off = 0x114 then linkCtlWrite l v else .done

/-! ### The rest of the MGD -/

/-- ENET (R404). -/
def enetErrs (s : State) (off v : Nat) : List ErrCode :=
  if off = 0x060 then when (bit v 12 && (bits v 11 0 == 0 || decide (4094 < bits v 11 0))) .fieldRange
  else if off = 0x0C0 then ctxErrs s v
  else []

/-- COLO (R414, R416, R426). -/
def coloErrs (s : State) (off v : Nat) : List ErrCode :=
  if off = 0x060 then disabledErr s coloPg (bit v 8 || bit v 9) ++ opErrs s v
  else if off = 0x064 then when (fb s COLO_COLO_BUSY) .stateBusy ++ when (decide (63488 < v)) .addrAlign
  else if 0x080 ≤ off ∧ off < 0x0C0 then when (fb s COLO_COLO_BUSY) .stateBusy
  else []

/-- The CONF page. -/
def confPg : PageRef := ⟨.conf, 0⟩

/-- The failing checks of JCI_GO (R425). -/
def jciErrs (s : State) : List ErrCode :=
  let a := fv s CONF_JCI_ADDR
  let n := fv s CONF_JCI_LEN
  let r := fv s CONF_REPORT_ADDR
  let m := fv s CONF_REPORT_MAX
  let lenOk := decide (592 ≤ n ∧ n ≤ 66112)
  when (a % 64 != 0 || r % 16 != 0) .addrAlign ++
  when (!isDataAddr s a || !isDataAddr s r) .addrUnmapped ++
  when (decide (level s < 2) || !enabled s confPg) .stateNotReady ++
  when (fb s CONF_JCI_BUSY) .stateBusy ++
  when (!lenOk) .lenRange ++
  (if lenOk && isDataAddr s a then (rangeErrs s a n).filter (· == .lenOverRegion) else []) ++
  (if m != 0 && isDataAddr s r then (rangeErrs s r (16 * m)).filter (· == .lenOverRegion) else []) ++
  (if lenOk && isDataAddr s a && (rangeErrs s a n).isEmpty then
    (let e := confCode s 2 (imageAt s a n); when (e != .ok) e) else [])

/-- CONF (R425, R427). -/
def confErrs (s : State) (off v : Nat) : List ErrCode :=
  if off = 0x048 ∨ off = 0x050 ∨ off = 0x058 ∨ off = 0x060 then when (fb s CONF_JCI_BUSY) .stateBusy
  else if off = 0x054 then (if bit v 0 then jciErrs s else [])
  else []

/-- An accepted JCI_GO: the load begins on the image as its checks read it. -/
def jciGo (old : State) : Act := acts [
  setF CONF_JCI_BUSY 1, updBoot fun b => { b with jci := imageAt old (fv old CONF_JCI_ADDR) (fv old CONF_JCI_LEN) }]

/-- The failing checks of a TEL entry (R441). -/
def telErrs (s : State) (v : Nat) : List ErrCode :=
  let off := bits v 31 20
  let n := if bit v 32 then 8 else 4
  match pageAt s (bits v 7 0) (bits v 19 8) with
  | none => [.addrUnmapped]
  | some p => when (off % n != 0) .addrAlign ++
    (match regAt p.blk off with
    | some (d, base) => when (n != (if d.wide then 8 else 4) || base != off) .accessWidth ++
        when (d.fields.all fun f => f.acc == .wo) eTelEntry
    | none => when (n != 4) .accessWidth)

/-- BKGD (R442). -/
def bkgdErrs (off v : Nat) : List ErrCode :=
  let a := nth off 0x100 16
  when (decide (0x100 ≤ off) && off % 16 == 0 &&
    ((decide (6 ≤ a) && bits v 23 16 != 0) || (decide (5 ≤ a) && bits v 15 0 != 0))) .fieldRange

/-! ### Together -/

/-- The checks of a register's own chapter. -/
def hookErrs (s : State) (p : PageRef) (off v : Nat) : List ErrCode :=
  if off < 0x040 then [] else
  match p.blk with
  | .mgmt => mgmtErrs s off v
  | .pres => presErrs s off v
  | .tile => tileErrs s p.idx off v
  | .cova => when ((List.range 8).any fun k => bit v k && slotInUse s p.idx k) .stateBusy
  | .winn => winnErrs s p.idx off v
  | .galy => galyErrs s p.idx (nth off 0x040 4) v
  | .solv => solvErrs s p.idx off v
  | .updt => updtErrs s p.idx off v
  | .hbmc => wfErrs s p.idx (nth off 0x100 8) v
  | .shef => shefErrs s off v
  | .optb => optbErrs s off v
  | .peer => peerErrs s off v
  | .intg => intgErrs s p.idx off v
  | .link => linkErrs s p.idx off v
  | .enet => enetErrs s off v
  | .colo => coloErrs s off v
  | .conf => confErrs s off v
  | .hlth => if 0x400 ≤ off then telErrs s v else []
  | .bkgd => bkgdErrs off v
  | _ => []

/-- Memory that the checks of a write read first. -/
def hookTouch (p : PageRef) (off v : Nat) : Act :=
  match p.blk with
  | .pres => look fun s => onlyIf (off == 0x310 && bit v 31 && !fb s PRES_PLAN_EN) planTouch
  | .optb => look fun s => onlyIf (off == 0x0A0 && bit v 0) (optTouch (optStaged s))
  | .colo => look fun s => onlyIf (off == 0x060 && bit v 9) (imageTouch p (fv s COLO_ENROL_ADDR) 2072)
  | .conf => look fun s => onlyIf (off == 0x054 && bit v 0 && decide (592 ≤ fv s CONF_JCI_LEN) && decide (fv s CONF_JCI_LEN ≤ 66112))
      (imageTouch p (fv s CONF_JCI_ADDR) (fv s CONF_JCI_LEN))
  | _ => .done

/-- What an accepted write sets going once its value is stored; `old` is the state before it. -/
def hookApply (old : State) (p : PageRef) (off v : Nat) : Act :=
  if off < 0x040 then .done else
  match p.blk with
  | .pres => presApply old off v
  | .tile => tileApply old p.idx off v
  | .cova => each (rangeF 8 (bit v)) (covEmpty p.idx)
  | .winn => winnWrite p.idx off v
  | .galy => galyApply old p.idx
  | .solv => solvApply old p.idx off v
  | .updt => updtApply old p.idx off v
  | .shef => shefApply old off v
  | .optb => onlyIf (off == 0x0A0 && bit v 0) (optApply (optStaged old))
  | .peer => peerApply old off v
  | .intg => intgApply p.idx off v
  | .link => linkApply p.idx off v
  | .enet => onlyIf (off == 0x0C0) (ctxApply v)
  | .colo => onlyIf (off == 0x060) (opApply v)
  | .conf => onlyIf (off == 0x054 && bit v 0) (jciGo old)
  | _ => .done

end Sys2Proof.Machine
end

