-- ==== Sys2Proof/Machine/Regs.lean ====
section
/-! DEFINITION. Register writes (R35, R41 to R45): the checks every write meets, what an accepted one stores, and the block
soft reset (R49). -/

namespace Sys2Proof.Machine

/-! ### Soft reset (R49) -/

/-- Registers a soft reset leaves as they are (R77, R272, R273, R321, R341, R368, R404, R405, R426, R439, R459), besides the
header. -/
def keptReg (b : Blk) (off : Nat) : Bool :=
  match b with
  | .pres => decide (off < 0x078) || off == 0x080 || off == 0x084
  | .hbmc => off == 0x048 || off == 0x050 || decide (0x100 ≤ off)
  | .intg => off == 0x048 || decide (0x080 ≤ off)
  | .link => true
  | .shef => off == 0x040 || off == 0x048 || off == 0x050 || off == 0x058
  | .hlth => decide (off < 0x100) || off == 0x108
  | .powr => off != 0x044
  | .powrDie => true
  | .flsh => off == 0x040 || (decide (0x050 ≤ off) && decide (off ≤ 0x060))
  | .enet => off == 0x040 || off == 0x048
  | .slqp => decide (0x0B0 ≤ off) && decide (off < 0x0D0)
  | .colo => decide (off < 0x060) || off == 0x068 || (decide (0x100 ≤ off) && decide (off < 0x340))
  | _ => false

/-- Bytes an abandoned operation was to write each hold what it wrote or what stood there before: which is open (R147, R170,
R254). -/
def keepOrRestore (l : List (Nat × List (Byte × Nat))) : Act :=
  each l fun w => each (List.range (ceilDiv w.2.length 64)) fun c => withFree fun v =>
    each ((rangeF (min 64 (w.2.length - 64 * c)) (bit v)).map (64 * c + ·)) fun i =>
      let b := w.2.getD i (0, 0)
      acts [upd (.mem (w.1 + i) [b.1]), upd (.syn (w.1 + i) [b.2])]

/-- What a queue has in execution is abandoned. -/
def abandonWork (phys q : Nat) : Act := look fun s => each (queueSt s phys q).inflight.reverse fun f => keepOrRestore f.undo

/-- A queue stops with no descriptor in flight; Q_DONE passes the abandoned ones. -/
def abandonQueue (phys q : Nat) : Act := acts [
  abandonWork phys q,
  updQueue phys q fun _ => ⟨[], 0, [], []⟩,
  look fun s => setF TILE_Q_DONE (fv s TILE_Q_HEAD phys q) phys q,
  setF TILE_QSTATE qStopped phys q, setF TILE_QREASON 0 phys q]

/-- A soft reset is refused while its block may not stop (R147, R273, R321, R427). -/
def srstErrs (s : State) (p : PageRef) : List ErrCode :=
  when (match p.blk with
    | .conf => fb s CONF_JCI_BUSY
    | .flsh => fv s FLSH_WBUF_MIB != 0
    | .shef => (shefPages s).any fun q => q.idx != p.idx && inSrst s q
    | .cova => (List.range 8).any (slotInUse s p.idx)
    | _ => false) .stateBusy

/-- A soft reset of PRES stops no time: the schedule, the bubble table and the plan go, readiness starts again (R77). -/
def presReset : Act := look fun s => updPress fun p => { p with
  sched := []
  bubOn := false
  open_ := []
  plan := none
  planOn := false
  slot := none
  pfDue := false
  forced := fv s PRES_READY_THRESH == 0 }

/-- What a block's soft reset does beyond its registers. -/
def blockReset (p : PageRef) : Act :=
  match p.blk with
  | .tile => acts [each (List.range 7) (abandonWork p.idx), tileFresh p.idx]
  | .mtrx => look fun s => acts [
      each ((queueSt s p.idx 0).inflight.flatMap (·.slots)).eraseDups (covEmpty p.idx), abandonQueue p.idx 0]
  | .vect => abandonQueue p.idx 1
  | .winn => acts [abandonQueue p.idx 2, each (List.range 16) (disarmInbox p.idx)]
  | .cova => each (List.range 8) (covEmpty p.idx)
  | .galy => galleyFresh p.idx
  | .solv => solvReset p.idx
  | .hbmc => hbmcReset p.idx
  | .optb => optReset
  | .updt => ueReset p.idx
  | .shef => shefReset
  | .link => linkReset p.idx
  | .intg => intgReset p.idx
  | .colo => coloReset
  | .enet => enetReset
  | .pres => presReset
  | .slqp => acts [upd (.sessions []), look fun s => upd (.events [] s.evtSeq)]
  | .mgmt => upd (.ri ⟨[], []⟩)
  | _ => .done

/-- Registers of a page beyond its header that hold other than their reset values. -/
def pageEntries (s : State) (p : PageRef) : SMap DWord := entriesIn s.regs (pageKey p 0x040) (0x1000 - 0x040)

/-- What registers of the page held goes to `srstOld`. -/
def saveOld (p : PageRef) : Act := upd (.srstSave (pageKey p 0x040) (0x1000 - 0x040))

/-- A write of 1 to SRST. -/
def softReset (p : PageRef) : Act := acts [
  saveOld p,
  blockReset p,
  look fun s => each ((pageEntries s p).filter fun e => !keptReg p.blk (e.1 % 4096)) fun e => resetKey e.1,
  setF (hdrEnable p.blk) (b2n (isMgdBlk p.blk p.idx)) p.idx, setF (hdrEvtEn p.blk) 0 p.idx,
  look fun s => setF (hdrEvtPend p.blk) (fv s (hdrEvtPend p.blk) p.idx / 4 * 4) p.idx,
  setF (hdrSrst p.blk) 1 p.idx]

/-- The block has reached its reset state: BUSY clears. An Ethernet port that was reset is up again. -/
def softResetDone (p : PageRef) : Act :=
  look fun s => onlyIf (inSrst s p) (acts [
    setF (hdrSrst p.blk) 0 p.idx,
    upd (.srstDrop (pageKey p 0x040) (0x1000 - 0x040)),
    onlyIf (p.blk == .enet && decide (3 ≤ s.boot.stage) && !fb s ENET_LINK_UP) (acts [
      setF ENET_LINK_UP 1, raiseEvt enetPg (2 ^ 16), reLevel])])

/-! ### What every write is checked for -/

/-- How many block events a page's EVT_PEND has, from bit 16 on. -/
def evtCount : Blk → Nat
  | .mgmt => 2 | .pres => 7 | .enet => 4 | .slqp => 3 | .colo => 4 | .conf => 2 | .hlth => 9 | .bkgd => 3 | .flsh => 2
  | .peer => 1 | .optb => 2 | .powr => 5 | .powrDie => 1 | .intg => 8 | .tile => 7 | .mtrx => 2 | .cova => 2 | .vect => 4
  | .winn => 5 | .galy => 0 | .solv => 5 | .hbmc => 2 | .updt => 7 | .shef => 8 | .link => 7

/-- The bits of a register that are not reserved. -/
def definedMask (b : Blk) (d : RegDef) (base : Nat) : Nat :=
  if base = 0x018 ∨ base = 0x01C then 0xF + (2 ^ evtCount b - 1) * 2 ^ 16
  else sumN (d.fields.map fun f => (2 ^ (f.hi + 1 - f.lo) - 1) * 2 ^ f.lo)

/-- No field of a register takes a write (R35). -/
def isReadOnly (d : RegDef) : Bool := d.fields.all fun f => f.acc == .ro || f.acc == .rc || f.acc == .cmd

/-- A field is one a write's value is checked for. -/
def fieldErrs (v : Nat) (f : RegField) : List ErrCode :=
  let x := bits v f.hi f.lo
  if f.acc != .rw && f.acc != .wo then [] else
    when (f.align != 0 && x % f.align != 0) .addrAlign ++
    when (f.mult != 0 && x % f.mult != 0) .fieldRange ++
    (match f.range with | some r => when (decide (x < r.1) || decide (r.2 < x)) .fieldRange | none => [])

/-- A PAGE_CTL value that asks for a soft reset. -/
def asksReset (base v : Nat) : Bool := base == 0x008 && bit v 1

/-- The failing checks of a write but for those of the register's own chapter. -/
def plainErrs (s : State) (p : PageRef) (d : RegDef) (base v : Nat) : List ErrCode :=
  when (pageRetired s p && !asksReset base v) .retiredUnit ++
  when (inSrst s p && base != 0x018) .stateBusy ++
  when (v != (v &&& definedMask p.blk d base)) .rsvdSet ++
  d.fields.flatMap (fieldErrs v) ++
  (if asksReset base v then srstErrs s p else [])

/-! ### What an accepted write stores -/

/-- Fields that take the written value. -/
def storeMask (d : RegDef) (acc : Acc) : Nat :=
  sumN ((d.fields.filter fun f => f.acc == acc).map fun f => (2 ^ (f.hi + 1 - f.lo) - 1) * 2 ^ f.lo)

/-- A register's value after a write: RW fields take theirs, W1C bits written 1 clear. -/
def storedValue (d : RegDef) (old v : Nat) : Nat :=
  let rw := storeMask d .rw
  let new := (old - (old &&& rw)) + (v &&& rw)
  new - (new &&& v &&& storeMask d .w1c)

/-- A write of a header or block register is stored. -/
def storeReg (p : PageRef) (d : RegDef) (base v : Nat) : Act :=
  if p.blk = .hbmc ∧ 0x100 ≤ base then wfStore p.idx (nth base 0x100 8) v
  else if p.blk = .shef ∧ base = 0x0AC then .done
  else
    let store := look fun s => setKey (pageKey p base) (storedValue d (rdKey s (pageKey p base)) v)
    if base < 0x040 then withForward p store else store

/-- An accepted write takes effect. -/
def writeEffect (p : PageRef) (d : RegDef) (base v : Nat) : Act :=
  look fun s => acts [
    if asksReset base v then softReset p else storeReg p d base v,
    hookApply s p base v]

/-- A write of a register of a page: what it ends with goes on. `r` distinguishes a REG_WRITE, which a CMD register refuses
(R38). -/
def writePage (r : Requester) (p : PageRef) (off v : Nat) (k : ErrCode → Act) : Act :=
  let fail := fun e => acts [recordReject p off e, k e]
  look fun s => match regAt p.blk off with
  | none =>
    let e := firstErr (when (pageRetired s p) .retiredUnit ++ when (inSrst s p) .stateBusy ++ when (v != 0) .rsvdSet)
    if e = .ok then k .ok else fail e
  | some (d, base) =>
    if d.fields.any (·.acc == .cmd) && r == .slaiq then fail .permission
    else if isReadOnly d then k .ok
    else
      let plain := plainErrs s p d base v
      acts [onlyIf plain.isEmpty (hookTouch p base v),
        look fun t =>
          let e := firstErr (plain ++ hookErrs t p base v)
          if e = .ok then acts [writeEffect p d base v, k .ok] else fail e]

/-- A write by a requester of a size and value: the code it ends with goes on. -/
def writeReg (r : Requester) (a size v : Nat) (k : ErrCode → Act) : Act :=
  look fun s =>
    let e := firstErr (accessErrs s r a size true)
    match pageOf s a with
    | some p => if e ≠ .ok then acts [rejectAt s a e, k e] else writePage r p (raOff a) (v % 2 ^ (8 * size)) k
    | none => acts [rejectAt s a e, k e]

end Sys2Proof.Machine
end

