-- ==== Sys2Proof/Machine/RegRows.lean ====
section
/-! DEFINITION. Register accesses as commands: those that wait for their unit (R100, R435), and the rows that are a read or a
write of one register. -/

namespace Sys2Proof.Machine

/-! ### Accesses that wait -/

/-- The unit behind a page is being copied, or in quarantine: accesses to the page wait (R100 step 3, R435). -/
def pageHeld (s : State) (p : PageRef) : Bool :=
  match p.blk with
  | .updt => quarantined s (.ue p.idx)
  | .solv => quarantined s (.solv p.idx)
  | _ => isTileGroup p && (quarantined s (.tile p.idx) || (decide (slotOf s p.idx < 144) && tileHeld s (slotOf s p.idx)))

/-- An access to an address waits. -/
def accessHeld (s : State) (a : Nat) : Bool := match pageOf s a with | some p => pageHeld s p | none => false

/-- An access is made, and answered. -/
def accessNow (h : HeldAcc) : Act :=
  match h.val with
  | some v => writeReg h.req h.addr h.size v fun e => emit (.regCode h.req h.addr (errNum e))
  | none => readReg h.req h.addr h.size fun e v =>
      if e = .ok then emit (.regValue h.req h.addr v) else emit (.regCode h.req h.addr (errNum e))

/-- An access is made, or waits. -/
def access (h : HeldAcc) : Act :=
  look fun s => if accessHeld s h.addr then updUnits fun u => { u with heldAccs := u.heldAccs ++ [h] } else accessNow h

/-- What waited for its unit is applied, in order; what still has to wait does. -/
def releaseHeld : Act :=
  look fun s => acts [
    updUnits fun u => { u with
      heldIncs := []
      heldAccs := []
      heldMsgs := [] },
    each s.units.heldIncs fun x => deliverInc x.1 x.2.1 x.2.2,
    each s.units.heldAccs access,
    each s.units.heldMsgs fun x => winnArrive x.1 x.2]

/-- SPARE_RESUME: the spare goes on, and what was held is applied to it (R100 steps 3 to 5). -/
def spareResume (tile : Nat) : Act :=
  look fun s => match s.units.subst.find? fun x => x.tile == tile && x.spare.isSome with
    | none => .done
    | some x =>
      let q := physOf s tile
      acts [
        updUnits fun u => { u with subst := u.subst.filter fun y => y.tile != tile },
        setF TILE_SUBST_VALID 1 q, setF TILE_SUBST_LOST (b2n x.lost) q, setF TILE_OLD_PHYS (x.old % 80) q,
        raiseEvt (tilePg q) (2 ^ 21 + (if x.lost then 2 ^ 22 else 0)),
        releaseHeld]

/-- PROOF_REPROOF: the re-proof of a quarantined unit ends, and what was held for it goes on (R435). -/
def reproof (kind idx phase : Nat) (ok : Bool) : Act := acts [
  proofAgain kind idx phase ok,
  look fun s => match proofUnit s.build kind idx with
    | some u => onlyIf (!quarantined s u) (acts [releaseHeld,
        match u with | .ue n => ueGo n | _ => .done])
    | none => .done]

/-! ### Accesses by place -/

/-- A write to a register of a page by location and page index. -/
def writeAt (r : Requester) (loc page off size v : Nat) : Act := access ⟨r, regAddr loc page off, size, some v⟩

/-- A write to a register of a presented tile's page k. -/
def writeTile (r : Requester) (tile k off v : Nat) : Act :=
  onlyIf (decide (tile < 144)) (writeAt r (slotLoc tile k).1 (slotLoc tile k).2 off 4 v)

/-- A write to a queue register of a presented tile. -/
def writeQueue (r : Requester) (tile queue off v : Nat) : Act :=
  onlyIf (decide (queue < 7)) (writeTile r tile 0 (0x080 + 0x20 * queue + off) v)

/-- A write to a SOLV register of an engine. -/
def writeSolv (r : Requester) (engine off v : Nat) : Act :=
  onlyIf (decide (engine < 16)) (writeAt r (0x10 + engine / 8) (0x300 + 2 * (engine % 8)) off 4 v)

/-- A write to a UPDT register of a site. -/
def writeUpdt (r : Requester) (site off v : Nat) : Act := look fun s => onlyIf (isHbmSite s.build site) (writeAt r site 1 off 4 v)

/-- A write to a LINK register of a device link. -/
def writeLink (r : Requester) (link off v : Nat) : Act :=
  look fun s => onlyIf (decide (link < nLinks s.build)) (writeAt r (linkSite s.build link) (0x10 + link % 6) off 4 v)

/-- A write to an INTG register of a page instance. -/
def writeIntg (r : Requester) (intg off v : Nat) : Act :=
  look fun s =>
    let l := pageLoc s (intgPage intg)
    onlyIf (pageAt s l.1 l.2 == some (intgPage intg)) (writeAt r l.1 l.2 off 4 v)

/-- TYPE of a record staged in a register array. -/
def stagedType (s : State) (f : Fld) (idx : Nat) : Nat := bits (fv s f idx 0) 7 0

/-- A command record: posted through the staging registers by a requester, or taken from the window's front. -/
def recordCmd (req : Option Requester) (ready : State → Bool) (post : Requester → Act) (take : Act) : Act :=
  match req with
  | some r => look fun s => onlyIf (ready s) (post r)
  | none => take

/-- An OPT command. -/
def optCmd (req : Option Requester) (site ty : Nat) : Act :=
  recordCmd req (fun s => stagedType s OPTB_OPT_W 0 == ty) (fun r => writeAt r 0x18 0xA 0x0A0 4 1) (hbmTake site ty)

/-- A UPDT command record. -/
def ueCmd (req : Option Requester) (site ty : Nat) : Act :=
  recordCmd req (fun s => stagedType s UPDT_CMD_W site == ty) (fun r => writeUpdt r site 0x0B0 1) (ueTake site ty)

/-- A sheaf record. -/
def shefCmd (req : Option Requester) (site ty : Nat) : Act :=
  recordCmd req (fun s => stagedType s SHEF_OPEN_W 0 == ty) (fun r => look fun s => onlyIf (isLinkSite s.build site) (writeAt r site 0 0x0A0 4 1))
    (shefTake ty)

/-! ### Rows -/

/-- REGISTER_WRITE (R41). -/
def execRegisterWrite (req : Requester) (addr size val : Nat) (s : State) : Host.Outcome State Fault Refusal :=
  .next ((access ⟨req, addr, size, some val⟩).run s)
/-- RC_REGISTER_READ (R6). -/
def execRcRegisterRead (req : Requester) (addr size : Nat) (s : State) : Host.Outcome State Fault Refusal :=
  .next ((access ⟨req, addr, size, none⟩).run s)
/-- ERR_CODE_READ (R32). -/
def execErrCodeRead (req : Requester) (addr : Nat) (s : State) : Host.Outcome State Fault Refusal :=
  .next ((onlyIf (raOff addr == 0x010) (access ⟨req, addr, 4, none⟩)).run s)
/-- EVT_PEND_CLEAR (R48): events of the page that recur in the same cycle win. -/
def execEvtPendClear (req : Requester) (addr val recur : Nat) (s : State) : Host.Outcome State Fault Refusal :=
  .next ((look fun t =>
    let p := pageOf t addr
    let m := match p with | some q => recur &&& (0xF + (2 ^ evtCount q.blk - 1) * 2 ^ 16) | none => 0
    onlyIf (raOff addr == 0x018) (acts [
      (match p with | some q => raiseEvt q m | none => .done),
      access ⟨req, addr, 4, some (val - (val &&& m))⟩])).run s)
/-- SOFT_RESET (R49). -/
def execSoftReset (req : Requester) (addr val : Nat) (s : State) : Host.Outcome State Fault Refusal :=
  .next ((onlyIf (raOff addr == 0x008 && bit val 1) (access ⟨req, addr, 4, some val⟩)).run s)
/-- SOFT_RESET_DONE (R49). -/
def execSoftResetDone (loc page : Nat) (s : State) : Host.Outcome State Fault Refusal :=
  .next ((look fun t => match pageAt t loc page with | some p => softResetDone p | none => .done).run s)
/-- READY_FORCE (R57). -/
def execReadyForce (req : Requester) (s : State) : Host.Outcome State Fault Refusal := .next ((writeAt req 0x18 1 0x07C 4 1).run s)
/-- SCHED_POST (R71). -/
def execSchedPost (req : Requester) (s : State) : Host.Outcome State Fault Refusal := .next ((writeAt req 0x18 1 0x098 4 1).run s)
/-- SCHED_CANCEL (R72). -/
def execSchedCancel (req : Requester) (handle : Nat) (s : State) : Host.Outcome State Fault Refusal :=
  .next ((writeAt req 0x18 1 0x0A0 4 handle).run s)
/-- BUBBLE_ENABLE (R74). -/
def execBubbleEnable (req : Requester) (count cycle : Nat) (s : State) : Host.Outcome State Fault Refusal :=
  .next ((writeAt req 0x18 1 0x0B0 4 (2 ^ 31 + count % 128 * 65536 + cycle % 65536)).run s)
/-- BUBBLE_DISABLE (R74): EN = 0, with the COUNT and CYCLE in force. -/
def execBubbleDisable (req : Requester) (s : State) : Host.Outcome State Fault Refusal :=
  .next ((look fun t => writeAt req 0x18 1 0x0B0 4 (fv t PRES_BUB_COUNT * 65536 + fv t PRES_BUB_CYCLE)).run s)
/-- Q_TAIL_WRITE (R88). -/
def execQTailWrite (req : Requester) (tile queue val : Nat) (s : State) : Host.Outcome State Fault Refusal :=
  .next ((writeQueue req tile queue 0x8 val).run s)
/-- QUEUE_START (R87). -/
def execQueueStart (req : Requester) (tile queue : Nat) (s : State) : Host.Outcome State Fault Refusal :=
  .next ((writeQueue req tile queue 0xC 1).run s)
/-- QUEUE_STOP (R87). -/
def execQueueStop (req : Requester) (tile queue : Nat) (s : State) : Host.Outcome State Fault Refusal :=
  .next ((writeQueue req tile queue 0xC 2).run s)
/-- QUEUE_REARM (R89). -/
def execQueueRearm (req : Requester) (tile queue : Nat) (s : State) : Host.Outcome State Fault Refusal :=
  .next ((writeQueue req tile queue 0xC 4).run s)
/-- QUEUE_SKIP (R87). -/
def execQueueSkip (req : Requester) (tile queue : Nat) (s : State) : Host.Outcome State Fault Refusal :=
  .next ((writeQueue req tile queue 0xC 8).run s)
/-- TOKEN_WRITE (R90). -/
def execTokenWrite (req : Requester) (tile counter val : Nat) (s : State) : Host.Outcome State Fault Refusal :=
  .next ((onlyIf (decide (counter < 256)) (writeTile req tile 0 (0x400 + 4 * counter) val)).run s)
/-- CORE_RUN (R94). -/
def execCoreRun (req : Requester) (tile : Nat) (run : Bool) (resetPc : Nat) (s : State) : Host.Outcome State Fault Refusal :=
  .next ((writeTile req tile 0 0x044 (resetPc % 65536 * 65536 + b2n run)).run s)
/-- GALY_REGION_WRITE (R96). -/
def execGalyRegionWrite (req : Requester) (tile region val : Nat) (s : State) : Host.Outcome State Fault Refusal :=
  .next ((onlyIf (decide (region < 8)) (writeTile req tile 5 (0x040 + 4 * region) val)).run s)
/-- SLOT_CLR (R143). -/
def execSlotClr (req : Requester) (tile val : Nat) (s : State) : Host.Outcome State Fault Refusal :=
  .next ((writeTile req tile 2 0x080 val).run s)
/-- INBOX_ARM (R246). -/
def execInboxArm (req : Requester) (tile inbox : Nat) (s : State) : Host.Outcome State Fault Refusal :=
  .next ((onlyIf (decide (inbox < 16)) (writeTile req tile 4 (0x120 + 0x40 * inbox) 1)).run s)
/-- INBOX_DISARM (R246). -/
def execInboxDisarm (req : Requester) (tile inbox : Nat) (s : State) : Host.Outcome State Fault Refusal :=
  .next ((onlyIf (decide (inbox < 16)) (writeTile req tile 4 (0x120 + 0x40 * inbox) 2)).run s)
/-- CURV_CMD_FOLD (R205). -/
def execCurvCmdFold (req : Requester) (site group factor : Nat) (s : State) : Host.Outcome State Fault Refusal :=
  .next ((writeUpdt req site 0x40C (2 ^ 12 + factor % 2 * 2 ^ 10 + group % 1024)).run s)
/-- CURV_CMD_RESET (R197). -/
def execCurvCmdReset (req : Requester) (site group factor : Nat) (s : State) : Host.Outcome State Fault Refusal :=
  .next ((writeUpdt req site 0x40C (2 ^ 13 + factor % 2 * 2 ^ 10 + group % 1024)).run s)
/-- SOLV_CONTEXT_ENABLE (R209). -/
def execSolvContextEnable (req : Requester) (engine ctx val : Nat) (s : State) : Host.Outcome State Fault Refusal :=
  .next ((onlyIf (decide (ctx < 32) && bits val 2 0 != 0) (writeSolv req engine (0x800 + 0x40 * ctx) val)).run s)
/-- SOLV_CONTEXT_DISABLE (R209). -/
def execSolvContextDisable (req : Requester) (engine ctx val : Nat) (s : State) : Host.Outcome State Fault Refusal :=
  .next ((onlyIf (decide (ctx < 32) && bits val 2 0 == 0) (writeSolv req engine (0x800 + 0x40 * ctx) val)).run s)
/-- GO (R220): by GO_POST, or from the stream window. -/
def execGoRec (engine : Nat) (req : Option Requester) (s : State) : Host.Outcome State Fault Refusal :=
  .next ((recordCmd req (fun _ => true) (fun r => writeSolv r engine 0x068 1) (solvStream engine 4)).run s)
/-- SHEAF_OPEN (R259). -/
def execSheafOpen (req : Option Requester) (site : Nat) (s : State) : Host.Outcome State Fault Refusal :=
  .next ((shefCmd req site 1).run s)
/-- SHEAF_ABORT (R269). -/
def execSheafAbort (req : Option Requester) (site : Nat) (s : State) : Host.Outcome State Fault Refusal :=
  .next ((shefCmd req site 2).run s)
/-- LINE_DATA_WRITE (R272). -/
def execLineDataWrite (req : Requester) (site val : Nat) (s : State) : Host.Outcome State Fault Refusal :=
  .next ((look fun t => onlyIf (isLinkSite t.build site) (writeAt req site 0 0x0AC 4 val)).run s)
/-- UPDATE_RUN (R278): by UPD_CMD, or by a RUN record of the command window. -/
def execUpdateRun (site : Nat) (req : Option Requester) (group : Nat) (s : State) : Host.Outcome State Fault Refusal :=
  .next ((recordCmd req (fun _ => true) (fun r => writeUpdt r site 0x064 (2 ^ 12 + group % 1024)) (ueTake site 2)).run s)
/-- FETCH (R293). -/
def execFetch (site : Nat) (req : Option Requester) (s : State) : Host.Outcome State Fault Refusal := .next ((ueCmd req site 1).run s)
/-- FETCH_CANCEL (R294). -/
def execFetchCancel (req : Requester) (site : Nat) (s : State) : Host.Outcome State Fault Refusal :=
  .next ((writeUpdt req site 0x064 (3 * 2 ^ 12)).run s)
/-- UPD_CMD_AUDIT (R297). -/
def execUpdCmdAudit (req : Requester) (site group : Nat) (s : State) : Host.Outcome State Fault Refusal :=
  .next ((writeUpdt req site 0x064 (2 ^ 13 + group % 1024)).run s)
/-- AUDIT_CHUNK (R297): a commanded audit, or one of the rotation in a granted window. -/
def execAuditChunk (site : Nat) (s : State) : Host.Outcome State Fault Refusal :=
  .next ((look fun t => onlyIf (isHbmSite t.build site)
    (auditStep site (fb t BKGD_ACT_EN 0 2 && (windowOpen t || bit (fv t BKGD_BK_STEALING) 2)))).run s)
/-- PROG_DATA_WRITE (R300). -/
def execProgDataWrite (req : Requester) (site val : Nat) (s : State) : Host.Outcome State Fault Refusal :=
  .next ((writeUpdt req site 0x050 val).run s)
/-- WRITE_FIRST_TABLE_WRITE (R306). -/
def execWriteFirstTableWrite (req : Requester) (site entry val : Nat) (s : State) : Host.Outcome State Fault Refusal :=
  .next ((look fun t => onlyIf (isHbmSite t.build site && decide (entry < 16)) (writeAt req site 0 (0x100 + 8 * entry) 8 val)).run s)
/-- SET (R310). -/
def execOptSet (req : Option Requester) (site : Nat) (s : State) : Host.Outcome State Fault Refusal := .next ((optCmd req site 0x11).run s)
/-- MOVE (R311). -/
def execOptMove (req : Option Requester) (site : Nat) (s : State) : Host.Outcome State Fault Refusal := .next ((optCmd req site 0x12).run s)
/-- CLEAR (R310). -/
def execOptClear (req : Option Requester) (site : Nat) (s : State) : Host.Outcome State Fault Refusal := .next ((optCmd req site 0x13).run s)
/-- LEND_WINDOW_ENABLE (R316). -/
def execLendWindowEnable (req : Requester) (window val : Nat) (s : State) : Host.Outcome State Fault Refusal :=
  .next ((onlyIf (decide (window < 16) && bit val 31) (writeAt req 0x18 9 (0x108 + 16 * window) 4 val)).run s)
/-- LEND_WINDOW_RECLAIM (R316). -/
def execLendWindowReclaim (req : Requester) (window val : Nat) (s : State) : Host.Outcome State Fault Refusal :=
  .next ((onlyIf (decide (window < 16) && !bit val 31) (writeAt req 0x18 9 (0x108 + 16 * window) 4 val)).run s)
/-- SCRUB_GO (R337). -/
def execScrubGo (req : Requester) (intg val : Nat) (s : State) : Host.Outcome State Fault Refusal :=
  .next ((onlyIf (bit val 4) (writeIntg req intg 0x078 val)).run s)
/-- FLIP_ARM (R338). -/
def execFlipArm (req : Requester) (intg val : Nat) (s : State) : Host.Outcome State Fault Refusal :=
  .next ((onlyIf (bit val 4) (writeIntg req intg 0x04C val)).run s)
/-- PSTS_CLR (R331). -/
def execPstsClr (req : Requester) (intg val : Nat) (s : State) : Host.Outcome State Fault Refusal :=
  .next ((onlyIf (bit val 1) (writeIntg req intg 0x040 val)).run s)
/-- LINK_RETRAIN (R362). -/
def execLinkRetrain (req : Requester) (link : Nat) (s : State) : Host.Outcome State Fault Refusal :=
  .next ((writeLink req link 0x114 4).run s)
/-- LINK_DISABLE (R363). -/
def execLinkDisable (req : Requester) (link : Nat) (s : State) : Host.Outcome State Fault Refusal :=
  .next ((writeLink req link 0x114 1).run s)
/-- ADMIT (R363). -/
def execAdmit (req : Requester) (link : Nat) (s : State) : Host.Outcome State Fault Refusal :=
  .next ((writeLink req link 0x114 2).run s)
/-- PLAN_ENABLE (R375). -/
def execPlanEnable (req : Requester) (s : State) : Host.Outcome State Fault Refusal :=
  .next ((writeAt req 0x18 1 0x310 4 (2 ^ 31)).run s)
/-- PLAN_DISABLE (R375). -/
def execPlanDisable (req : Requester) (s : State) : Host.Outcome State Fault Refusal := .next ((writeAt req 0x18 1 0x310 4 0).run s)
/-- QP_CONTEXT_POST (R390). -/
def execQpContextPost (req : Requester) (val : Nat) (s : State) : Host.Outcome State Fault Refusal :=
  .next ((onlyIf (bit val 31 && !bit val 16) (writeAt req 0x18 2 0x0C0 4 val)).run s)
/-- WINDOW_POST (R391). -/
def execWindowPost (req : Requester) (val : Nat) (s : State) : Host.Outcome State Fault Refusal :=
  .next ((onlyIf (bit val 31 && bit val 16) (writeAt req 0x18 2 0x0C0 4 val)).run s)
/-- CONTEXT_LOAD (R390). -/
def execContextLoad (req : Requester) (val : Nat) (s : State) : Host.Outcome State Fault Refusal :=
  .next ((onlyIf (bit val 30) (writeAt req 0x18 2 0x0C0 4 val)).run s)
/-- QUOTE (R414). -/
def execQuoteOp (req : Requester) (s : State) : Host.Outcome State Fault Refusal := .next ((writeAt req 0x18 4 0x060 4 0x101).run s)
/-- CERT (R414). -/
def execCertOp (req : Requester) (s : State) : Host.Outcome State Fault Refusal := .next ((writeAt req 0x18 4 0x060 4 0x102).run s)
/-- ENROL_GO (R416). -/
def execEnrolGo (req : Requester) (s : State) : Host.Outcome State Fault Refusal := .next ((writeAt req 0x18 4 0x060 4 0x200).run s)
/-- JCI_GO (R425). -/
def execJciGo (req : Requester) (s : State) : Host.Outcome State Fault Refusal := .next ((writeAt req 0x18 5 0x054 4 1).run s)
/-- TEL_ENTRY_WRITE (R441). -/
def execTelEntryWrite (req : Requester) (entry val : Nat) (s : State) : Host.Outcome State Fault Refusal :=
  .next ((onlyIf (decide (entry < 256)) (writeAt req 0x18 6 (0x400 + 8 * entry) 8 val)).run s)
/-- SPARE_RESUME (R100). -/
def execSpareResume (tile : Nat) (s : State) : Host.Outcome State Fault Refusal := .next ((spareResume tile).run s)
/-- PROOF_REPROOF (R435). -/
def execProofReproof (kind idx phase : Nat) (ok : Bool) (s : State) : Host.Outcome State Fault Refusal :=
  .next ((reproof kind idx phase ok).run s)

end Sys2Proof.Machine
end

