-- ==== Sys2Proof/Machine/Boot.lean ====
section
/-! DEFINITION. Boot (R407, R408): the six stages, the device configuration image (R424), and the end of a job
configuration image's load (R420, R425). -/

namespace Sys2Proof.Machine

/-! ### Pass 2 of a configuration image (R420) -/

/-- A register write of management core 0, whatever it ends with. -/
def coreWrite (a size v : Nat) : Act := writeReg (.mgmt 0) a size v fun _ => .done

/-- A write of an MGD page's register. -/
def mgdWrite (page off size v : Nat) : Act := coreWrite (regAddr 0x18 page off) size v

/-- INTG pages of a build, by instance. -/
def intgPages (b : Build) : List Nat :=
  List.range 176 ++ (hbmSites b).map (176 + ·) ++ (linkSites b).map (188 + ·) ++ [200]

/-- A value of a field, where the image has decided one. -/
def withVal (p : Pass) (id : Nat) (f : Nat → Act) : Act := match p.val id with | some v => f v | none => .done

/-- The DCI's applied values reach their targets, in ascending FIELD_ID order. The link position takes its four fields
together. -/
def dciWrites (p : Pass) : Act := acts [
  withVal p 0x0101 (setF LINK_HOME_ID), withVal p 0x0102 (setF LINK_TMODE), withVal p 0x0103 (setF LINK_NS),
  withVal p 0x0104 (setF LINK_NF), placeLinks,
  withVal p 0x0111 (mgdWrite 2 0x04C 4), withVal p 0x0112 (mgdWrite 2 0x050 8), withVal p 0x0113 (mgdWrite 2 0x058 8),
  withVal p 0x0114 (mgdWrite 2 0x064 4), withVal p 0x0115 (mgdWrite 2 0x060 4), withVal p 0x0116 (mgdWrite 2 0x068 4),
  each (List.range 8) fun a => withVal p (0x0120 + a) (mgdWrite 3 (0x100 + 0x20 * a) 8),
  each (List.range 8) fun a => withVal p (0x0128 + a) (mgdWrite 3 (0x108 + 0x20 * a) 8),
  each (List.range 8) fun a => withVal p (0x0130 + a) (mgdWrite 3 (0x110 + 0x20 * a) 4),
  withVal p 0x0140 fun v => look fun s => each (intgPages s.build) fun i =>
    coreWrite (pageAddr s (intgPage i) 0x044) 4 v,
  withVal p 0x0141 (mgdWrite 7 0x040 4),
  withVal p 0x0142 (setF POWR_CAP)]

/-- The location of a SHEF page: that of a link die in service, if there is one. -/
def shefLoc (s : State) : Nat :=
  (((linkSites s.build).filter (linkDieInService s)).head?).getD ((linkSites s.build).headD 0)

/-- The JCI's applied values reach their targets, in ascending FIELD_ID order. -/
def jciWrites (p : Pass) : Act := acts [
  withVal p 0x0201 (setF CONF_JOB_SEED),
  withVal p 0x0202 (mgdWrite 1 0x060 4), withVal p 0x0203 (mgdWrite 1 0x064 4),
  look fun s => onlyIf ((p.val 0x0204).isSome || (p.val 0x0205).isSome)
    (mgdWrite 1 0x068 8 ((p.val 0x0204).getD (fv s PRES_GATE_MIN) + 2 ^ 32 * (p.val 0x0205).getD (fv s PRES_GATE_MAX))),
  withVal p 0x0206 (mgdWrite 1 0x070 4), withVal p 0x0207 (mgdWrite 1 0x074 4),
  withVal p 0x0210 fun v => look fun s => coreWrite (regAddr (shefLoc s) 0 0x058) 4 v,
  withVal p 0x0211 (mgdWrite 9 0x040 4)]

/-! ### Firmware of a stage (R408, R410) -/

/-- The image a component is loaded from: that of the active slot, or of the other where only that one verifies. -/
def fwLoad (s : State) (comp : Nat) : Option (List Byte × Bool) :=
  let x := fwSlots s comp
  if fwVerifies s comp x.1 then some (x.1, false) else if fwVerifies s comp x.2 then some (x.2, true) else none

/-- A component is verified and measured into a slot; its units stay out where neither image verifies. -/
def fwStart (comp slot : Nat) (ok : Act) (bad : Act) : Act :=
  look fun s => match fwLoad s comp with
    | some x => acts [extendSlot slot x.1, setF COLO_RUNNING (fwVersion x.1) 0 (comp - 1), onlyIf x.2 (setF COLO_FALLBACK 1), ok]
    | none => bad

/-- Boot stops with FAULT_N low. -/
def bootHalt : Act := updBoot fun b => { b with halted := true }

/-- A stage runs when the one before it has ended. -/
def atStage (n : Nat) (a : Act) : Act :=
  look fun s => onlyIf (s.boot.live && !s.boot.halted && s.boot.stage + 1 == n) a

/-- A stage has ended. -/
def bootStageDone (n : Nat) : Act := updBoot fun b => { b with stage := n }

/-- Units come into service. -/
def unitsRise (l : List UnitId) : Act :=
  updUnits fun u => { u with up := u.up ++ l.filter fun x => !u.up.contains x }

/-- Pages are enabled (R30). -/
def enablePages (l : List PageRef) : Act := each l fun p => setF (hdrEnable p.blk) 1 p.idx

/-! ### The stages -/

/-- Stage 1: what the factory fixed can be read; BOOT1 is verified, measured and started. -/
def stage1 : Act := atStage 1 (acts [
  look fun s => acts [
    setF COLO_SERIAL (s.factory.serial % 2 ^ 64) 0 0, setF COLO_SERIAL (s.factory.serial / 2 ^ 64) 0 1,
    setF ENET_MAC s.factory.mac, setF COLO_CERT_LEN s.factory.cert.length,
    each (hbmSites s.build) fun n =>
      setF INTG_PPR_LEFT (s.factory.pprLeft - countB (fun x => x == 176 + n) s.nv.hard) (176 + n)],
  fwStart 1 0 (bootStageDone 1) bootHalt])

/-- Stage 2: flash is mounted, so what it holds can be read; the identity key is unwrapped; MGD_MAIN is verified and
measured. -/
def stage2 : Act := atStage 2 (acts [
  showOwner,
  look fun s => acts [
    each (List.range 5) fun c => setF COLO_FLOOR (s.nv.floors.getD c 0) 0 c,
    each (List.range 4) fun k => setF SLQP_LAST_COUNTER (s.nv.counters.getD k 0) 0 k,
    setF COLO_IDENTITY_OK (b2n s.factory.wrapOk)],
  fwStart 2 1 (bootStageDone 2) bootHalt])

/-- The DCI that is applied: of the active slot, or of the other where only that one is accepted; or the active one's code. -/
def dciLoad (s : State) : Option (List Byte × Bool) × ErrCode :=
  let x := fwSlots s 5
  let e := confCode s 1 (some x.1)
  if e = .ok then (some (x.1, false), .ok)
  else if confCode s 1 (some x.2) = .ok then (some (x.2, true), .ok) else (none, e)

/-- An accepted DCI is applied (R424). -/
def dciApply (b : List Byte) (other : Bool) : Act :=
  look fun s =>
    let p := pass1 s 1 b
    acts [
      dciWrites p,
      setWords CONF_DCI_REPORT 0 8 ((p.clamps.take 64).flatMap clampBytes),
      setF CONF_DCI_CLAMPS (min 65535 p.clamps.length), setF CONF_DCI_CODE 0,
      setF CONF_DCI_SEQ (cfSeq b % 2 ^ 32), setF COLO_RUNNING (cfSeq b % 2 ^ 32) 0 4,
      onlyIf other (setF COLO_FALLBACK 1),
      extendSlot 4 b,
      setF CONF_DCI_VALID 1]

/-- Stage 3: the DCI, the owner's measurement, the Ethernet port. -/
def stage3 (enetUp : Bool) : Act := atStage 3 (acts [
  look fun s => match dciLoad s with
    | (some x, _) => dciApply x.1 x.2
    | (none, e) => setF CONF_DCI_CODE (errNum e),
  look fun s => onlyIf s.nv.owner.isSome measureOwner,
  setF ENET_LINK_UP (b2n enetUp), onlyIf enetUp (raiseEvt enetPg (2 ^ 16)),
  bootStageDone 3, reLevel])

/-- A logged remap is repaired for good, where the stack has the resources, or entered again (R335). -/
def repairOne (x : Nat × Nat) (hard : Bool) : Act :=
  look fun s =>
    let i := x.1
    if hard && decide (176 ≤ i) && decide (i < 188) && fv s INTG_PPR_LEFT i != 0 then acts [
      setF INTG_PPR_LEFT (fv s INTG_PPR_LEFT i - 1) i,
      updNv fun v => { v with
        repairs := v.repairs.filter (· != x)
        hard := v.hard ++ [i] }]
    else match (List.range 32).find? fun r => !fb s INTG_REMAP_VALID i r with
      | some r => onlyIf (!isRemapped s i x.2) (acts [setF INTG_REMAP_VALID 1 i r, setF INTG_REMAP_ADDR x.2 i r,
          setF INTG_REMAP_USED (fv s INTG_REMAP_USED i + 1) i])
      | none => .done

/-- Stage 4: HBM_PHY is verified and measured; the sites named train; logged repairs are applied, `hard` saying of each
whether its stack reports the resources. -/
def stage4 (trained : List Nat) (hard : List Bool) : Act := atStage 4 (acts [
  fwStart 4 3 (acts [
    look fun s => acts [
      each s.nv.repairs.zipIdx fun x => repairOne x.1 (hard.getD x.2 false),
      (let l := (hbmSites s.build).filter trained.contains
       acts [unitsRise (l.map .stack), enablePages (l.flatMap fun n => [⟨.hbmc, n⟩, ⟨.intg, 176 + n⟩])])]]) .done,
  bootStageDone 4, reLevel])

/-- A unit fails its proof and its re-proof at boot: it is retired before it comes into service (R407, R435, R436). -/
def bootFail (kind idx phase : Nat) : Act :=
  look fun s => match proofUnit s.build kind idx with
    | some u => acts [proofFailed kind idx phase 2, retireBit u, cnt HLTH_HLCNT 3, raiseEvt hlthPage (2 ^ 18)]
    | none => .done

/-- A presented tile ID whose tile failed at boot is backed by a healthy spare of its die, while there is one. -/
def bootSwap (t : Nat) : Act :=
  look fun s => onlyIf (tileRetired s (physOf s t))
    (match ((List.range 8).map (144 + 8 * dieOfTile t + ·)).find? fun k => !tileRetired s (physOf s k) with
     | some k => swapSlots t k
     | none => .done)

/-- Pages of a physical tile. -/
def tilePages (p : Nat) : List PageRef := (List.range 7).filterMap fun k => tilePage k p

/-- Stage 5: tiles, Update Engines and Solver Engines are proved, all but those named with the failing phase; their pages and
those of the compute dies are enabled. -/
def stage5 (fails : List (Nat × Nat × Nat)) : Act := atStage 5 (acts [
  each fails fun x => bootFail x.1 x.2.1 x.2.2,
  each (List.range 144) bootSwap,
  look fun s =>
    let dies := rangeF 2 fun d => unitOk s (.net d)
    let tiles := rangeF 160 fun p => unitOk s (.net (p / 80)) && !tileRetired s p
    let ues := (hbmSites s.build).filter fun n => hbmInService s n && !unitRetired s (.ue n)
    let solvs := rangeF 16 fun e => unitOk s (.net (e / 8)) && !unitRetired s (.solv e)
    acts [
      unitsRise (tiles.map .tile ++ ues.map .ue ++ solvs.map .solv),
      enablePages (tiles.flatMap tilePages ++ ues.map (⟨.updt, ·⟩) ++
        solvs.flatMap (fun e => [⟨.solv, e⟩, ⟨.intg, 160 + e⟩]) ++ dies.map (⟨.powrDie, ·⟩))],
  bootStageDone 5, reLevel])

/-- Stage 6: with a valid DCI, LINK_FW is verified and measured, and every link of the topology trains; the link dies named
fail. -/
def stage6 (fails : List Nat) : Act := atStage 6 (look fun s => onlyIf (fb s CONF_DCI_VALID) (acts [
  fwStart 3 2 (look fun t =>
    let l := (linkSites t.build).filter fun n => !fails.contains n && unitOk t (.net (dieOfSite n)) && unitOk t (.linkDie n)
    acts [
      unitsRise (l.map .linkDie),
      enablePages (l.flatMap (fun n => [⟨.shef, n⟩, ⟨.intg, 188 + n⟩]) ++
        (rangeF (nLinks t.build) fun i => l.contains (linkSite t.build i)).map (⟨.link, ·⟩)),
      each (rangeF (nLinks t.build) fun i => l.contains (linkSite t.build i)) linkTrain]) .done,
  bootStageDone 6, reLevel]))

/-! ### The end of a JCI load (R425) -/

/-- JCI_DONE: the values are applied, the records written, slot 6 extended, and the load ends. -/
def jciDone : Act :=
  look fun s => match s.boot.jci with
    | none => .done
    | some b =>
      let p := pass1 s 2 b
      acts [
        jciWrites p,
        (let r := (p.clamps.take (fv s CONF_REPORT_MAX)).flatMap clampBytes
         onlyIf (!r.isEmpty) (putLocal (fv s CONF_REPORT_ADDR) r)),
        setF CONF_JCI_CLAMPS (min 65535 p.clamps.length), setF CONF_JCI_CODE 0,
        extendSlot 6 b, setF CONF_JCI_SEQ (cfSeq b), setF CONF_JCI_VALID 1,
        setF CONF_JCI_BUSY 0, updBoot fun x => { x with jci := none },
        sendTarget0 (srcOf confPg) (rdKey s (fldKey CONF_JCI_DONE 0 0)),
        raiseEvt confPg (2 ^ 16 + (if p.clamps.isEmpty then 0 else 2 ^ 17))]

/-! ### Rows -/

/-- BOOT_STAGE_1 (R407). -/
def execBootStage1 (s : State) : Host.Outcome State Fault Refusal := .next (stage1.run s)
/-- BOOT_STAGE_2 (R407). -/
def execBootStage2 (s : State) : Host.Outcome State Fault Refusal := .next (stage2.run s)
/-- BOOT_STAGE_3 (R407). -/
def execBootStage3 (enetUp : Bool) (s : State) : Host.Outcome State Fault Refusal := .next ((stage3 enetUp).run s)
/-- BOOT_STAGE_4 (R407). -/
def execBootStage4 (trained : List Nat) (hard : List Bool) (s : State) : Host.Outcome State Fault Refusal :=
  .next ((stage4 trained hard).run s)
/-- BOOT_STAGE_5 (R407). -/
def execBootStage5 (fails : List (Nat × Nat × Nat)) (s : State) : Host.Outcome State Fault Refusal := .next ((stage5 fails).run s)
/-- BOOT_STAGE_6 (R407). -/
def execBootStage6 (fails : List Nat) (s : State) : Host.Outcome State Fault Refusal := .next ((stage6 fails).run s)
/-- JCI_DONE (R425). -/
def execJciDone (s : State) : Host.Outcome State Fault Refusal := .next (jciDone.run s)

end Sys2Proof.Machine
end

