-- ==== Sys2Proof/Machine/Slaiq.lean ====
section
/-! DEFINITION. The Slaiq protocol (R394 to R403): datagrams, sessions and their response caches, register and memory access,
critical commands, event messages and telemetry. -/

namespace Sys2Proof.Machine

/-! ### The header (R394) -/

/-- VERSION, with the reserved bits above it. -/
def slVersion (b : List Byte) : Nat := recLE b 2 1
/-- TYPE. -/
def slType (b : List Byte) : Nat := recLE b 3 1
/-- LEN. -/
def slLen (b : List Byte) : Nat := recLE b 4 2
/-- SEQ. -/
def slSeq (b : List Byte) : Nat := recLE b 8 4
/-- The payload. -/
def slPayload (b : List Byte) : List Byte := b.drop 16

/-- A datagram has a header with the right MAGIC. -/
def slMagicOk (b : List Byte) : Bool := decide (16 ≤ b.length) && recLE b 0 2 == 0xD9A5

/-- A message: TYPE, RESPONSE, STATUS, SEQ, COUNT, payload. -/
def slMessage (type response status seq count : Nat) (payload : List Byte) : List Byte :=
  leBytes 2 0xD9A5 ++ leBytes 1 1 ++ leBytes 1 type ++ leBytes 2 payload.length ++ leBytes 1 response ++ leBytes 1 status ++
    leBytes 4 seq ++ leBytes 2 count ++ leBytes 2 0 ++ payload

/-- A counter of the SLQP page, in the order of R405. -/
def slqCnt (n : Nat) : Act := cnt SLQP_QCNT n

/-- An ALLOW entry covers a source. -/
def allowCovers (s : State) (ip a : Nat) : Bool :=
  let d := 2 ^ (128 - fv s SLQP_PLEN 0 a)
  fb s SLQP_ALLOW_EN 0 a && ip / d == (fv s SLQP_ALLOW_HI 0 a * 2 ^ 64 + fv s SLQP_ALLOW_LO 0 a) / d

/-- A source may send requests. -/
def allowed (s : State) (ip : Nat) : Bool := (List.range 8).any (allowCovers s ip)

/-- A source may send critical commands (R398). -/
def commandOk (s : State) (ip : Nat) : Bool := (List.range 8).any fun a => allowCovers s ip a && fb s SLQP_CMD_OK 0 a

/-! ### Which row a datagram belongs to (R395, R398) -/

/-- The rows that are a Slaiq request. -/
inductive SlqRow where
  | regRead | regWrite | memRead | memWrite | eventAck | fwStage | fwCommit | keyRotate | keyTransfer | keyRevoke | reset
  | powerCap | assume | release | zero | debug | elect | reimpose
deriving DecidableEq, Repr

/-- CMD of a COMMAND payload. -/
def cmCode (p : List Byte) : Nat := recLE p 0 2
/-- KEY_ID, with the reserved bits above it. -/
def cmKey (p : List Byte) : Nat := recLE p 2 1
/-- BODY_LEN. -/
def cmLen (p : List Byte) : Nat := recLE p 4 2
/-- COUNTER. -/
def cmCounter (p : List Byte) : Nat := recLE p 8 8
/-- TAG. -/
def cmTag (p : List Byte) : List Byte := (p.drop 16).take 32
/-- BODY. -/
def cmBody (p : List Byte) : List Byte := (p.drop 48).take (cmLen p)

/-- The row of a COMMAND payload. An operation that FW_INSTALL or KEY_CHANGE does not have is refused by the first row of
its command. -/
def cmRow (p : List Byte) : Option SlqRow :=
  let op := recLE (cmBody p) 0 1
  match cmCode p with
  | 1 => some (if op = 2 then .fwCommit else .fwStage)
  | 2 => some (if op = 2 then .keyTransfer else if op = 3 then .keyRevoke else .keyRotate)
  | 3 => some .reset
  | 4 => some .powerCap
  | 5 => some (if bit (leNat (cmBody p)) 63 then .release else .assume)
  | 6 => some .zero
  | 7 => some .debug
  | 8 => some .elect
  | 9 => some .reimpose
  | _ => none

/-- The row of a datagram; none where no row stands for it. -/
def slqRow (b : List Byte) : Option SlqRow :=
  if !slMagicOk b then none
  else match slType b with
  | 1 => some .regRead
  | 2 => some .regWrite
  | 3 => some .memRead
  | 4 => some .memWrite
  | 5 => cmRow (slPayload b)
  | 7 => some .eventAck
  | _ => none

/-! ### Sessions (R396) -/

/-- The session of a source. -/
def sessionOf (s : State) (m : SlqMsg) : Option Session := s.sessions.find? fun x => x.ip == m.ip && x.port == m.port

/-- A session has been idle for SESSION_IDLE. -/
def sessionIdle (s : State) (now : Nat) (x : Session) : Bool := decide (x.last + fv s SLQP_SESSION_IDLE ≤ now)

/-- The sessions less the one that has been idle longest, where all are in use. -/
def reclaimed (s : State) (now : Nat) : List Session :=
  if s.sessions.length < 16 then s.sessions
  else
    let idle := s.sessions.filter (sessionIdle s now)
    match idle.find? fun x => idle.all fun y => decide (x.last ≤ y.last) with
    | some x => s.sessions.erase x
    | none => s.sessions

/-- A source has a session, or one is free or can be reclaimed. -/
def sessionFree (s : State) (m : SlqMsg) : Bool := (sessionOf s m).isSome || decide ((reclaimed s m.ms).length < 16)

/-- A request refreshes its source's session, or opens one. -/
def openSession (m : SlqMsg) : Act :=
  look fun s => match sessionOf s m with
  | some x => upd (.sessions (s.sessions.map fun y => if y = x then { y with last := m.ms } else y))
  | none => onlyIf (sessionFree s m) (upd (.sessions (reclaimed s m.ms ++ [⟨m.ip, m.port, none, [], m.ms⟩])))

/-- SEQ a is above SEQ b, modulo 2^32. -/
def seqAbove (a b : Nat) : Bool := a != b && decide ((a + 2 ^ 32 - b) % 2 ^ 32 < 2 ^ 31)

/-- A SEQ is at or below HIGH - 64. -/
def seqStale (x : Session) (q : Nat) : Bool :=
  match x.high with
  | some h => !seqAbove q ((h + 2 ^ 32 - 64) % 2 ^ 32)
  | none => false

/-- The source's cached response to a SEQ. -/
def cachedResp (s : State) (m : SlqMsg) : Option (List Byte) :=
  (sessionOf s m).bind fun x => (x.cache.find? fun c => c.1 == slSeq m.bytes).map Prod.snd

/-- The response is sent, and cached. A session that its own request's soft reset ends keeps nothing (R405). -/
def slqFinish (m : SlqMsg) (e : ErrCode) (count : Nat) (out : List Byte) : Act :=
  let q := slSeq m.bytes
  let r := slMessage (slType m.bytes) 1 (errNum e) q count out
  look fun s => acts [emit (.slaiq m.ip m.port r),
    onlyIf (!inSrst s slqpPage) (upd (.sessions (s.sessions.map fun x =>
      if x.ip = m.ip ∧ x.port = m.port ∧ !seqStale x q then { x with
        cache := ((q, r) :: x.cache).take 64
        high := match x.high with
          | some h => if seqAbove q h then some q else some h
          | none => some q }
      else x)))]

/-! ### What every request is checked for (R394, R395, R406) -/

/-- Bytes of a datagram's payload that fit the MTU after IP and UDP headers. -/
def slqRoom (s : State) (ip : Nat) : Nat := fv s ENET_MTU - (if ip / 2 ^ 32 = 0xFFFF then 28 else 48)

/-- LEN matches what the type requires, and the response fits. -/
def slqLenOk (s : State) (m : SlqMsg) : Bool :=
  let n := slLen m.bytes
  let p := slPayload m.bytes
  let room := slqRoom s m.ip
  let k := recLE p 8 4
  decide (n ≤ 8192) && p.length == n &&
  match slType m.bytes with
  | 1 => n % 8 == 0 && decide (8 ≤ n) && decide (n ≤ 1024) && decide (16 + n ≤ room)
  | 2 => n % 16 == 0 && decide (16 ≤ n) && decide (n ≤ 2048)
  | 3 => n == 12 && (decide (4096 < k) || decide (16 + k ≤ room))
  | 4 => decide (12 ≤ n) && n == 12 + k
  | 5 => decide (48 ≤ n) && n == 48 + cmLen p
  | 7 => n % 4 == 0 && decide (4 ≤ n) && decide (n ≤ 256)
  | _ => true

/-- The failing checks of a request before its work begins. A message with RESPONSE set is one that only the device sends. -/
def slqErrs (s : State) (m : SlqMsg) : List ErrCode :=
  let b := m.bytes
  when (!enabled s slqpPage) .stateNotReady ++
  when (decide (16 ≤ slVersion b) || decide (2 ≤ recLE b 6 1) || recLE b 7 1 != 0 || !zeroBytes b 12 16) .rsvdSet ++
  when (slVersion b % 16 != 1) eSlqVersion ++
  when (!([1, 2, 3, 4, 5, 7].contains (slType b)) || recLE b 6 1 % 2 == 1) eSlqType ++
  when (!slqLenOk s m) eSlqLen ++
  when (match sessionOf s m with | some x => seqStale x (slSeq b) | none => false) eSlqSeqStale ++
  when (!sessionFree s m) eSlqSession

/-! ### Register access (R43, R395) -/

/-- What a request's work goes on with: its code, the entries applied, the response's payload. -/
abbrev SlqEnd := ErrCode → Nat → List Byte → Act

/-- A register entry: address, the bits above it, value. -/
structure SlqEntry where
  addr : Nat
  ctl : Nat
  val : Nat
deriving DecidableEq, Repr

/-- The entries of a payload, of `n` bytes each, in ascending address order. -/
def slqEntries (n : Nat) (p : List Byte) : List SlqEntry :=
  ((List.range (p.length / n)).map fun i =>
    (⟨recLE p (n * i) 6, recLE p (n * i + 6) 2, if n = 16 then recLE p (n * i + 8) 8 else 0⟩ : SlqEntry)).mergeSort
      fun x y => decide (x.addr ≤ y.addr)

/-- The access size of an entry. -/
def SlqEntry.size (e : SlqEntry) : Nat := if bit e.ctl 8 then 8 else 4

/-- An entry sets a bit beside the address and the width. -/
def SlqEntry.rsvd (e : SlqEntry) : Bool := e.ctl != 0 && e.ctl != 256

/-- Registers are read one after another, up to the first rejection. -/
def slqReads : List SlqEntry → Nat → List Byte → SlqEnd → Act
  | [], n, out, k => k .ok n out
  | e :: l, n, out, k =>
    if e.rsvd then acts [recordReject slqpPage 0 .rsvdSet, k .rsvdSet n out]
    else readReg .slaiq e.addr e.size fun c v => if c = .ok then slqReads l (n + 1) (out ++ leBytes 8 v) k else k c n out

/-- Registers are written one after another, up to the first rejection. -/
def slqWrites : List SlqEntry → Nat → SlqEnd → Act
  | [], n, k => k .ok n []
  | e :: l, n, k =>
    if e.rsvd then acts [recordReject slqpPage 0 .rsvdSet, k .rsvdSet n []]
    else writeReg .slaiq e.addr e.size e.val fun c => if c = .ok then slqWrites l (n + 1) k else k c n []

/-- Work of `n` entries under a limit: with all within it, it ends as it ends; else what lies beyond is abandoned (R397). -/
def slqLimited (limit : Option Nat) (n : Nat) (k : SlqEnd) : SlqEnd := fun e c out =>
  match limit with
  | some t => if decide (t < n) && e == .ok then k eSlqTimeout c out else k e c out
  | none => k e c out

/-- How many of `n` entries are applied. -/
def slqWithin (limit : Option Nat) (n : Nat) : Nat := match limit with | some t => min t n | none => n

/-! ### Memory access (R304, R332, R395) -/

/-- The failing checks of a memory request: address [47:0], length. -/
def slqMemErrs (s : State) (a n : Nat) (write : Bool) : List ErrCode :=
  when (decide (2 ^ 48 ≤ a)) .rsvdSet ++ when (n % 8 != 0 || n == 0 || decide (4096 < n)) .lenRange ++
  (if isDataAddr s (a % 2 ^ 48) then rangeErrs s (a % 2 ^ 48) n
    else [if inRegSpace (a % 2 ^ 48) then .permission else .addrUnmapped]) ++
  when (write && isHbmAddr s a && (a % 32 != 0 || n % 32 != 0)) .addrAlign ++
  when (write && writeRefused s a n) .permission

/-- A rejected memory request names no page: MGMT records it (R45). -/
def slqMemReject (a : Nat) (e : ErrCode) (k : SlqEnd) : Act := acts [recordReject mgmtPage (a % 4096) e, k e 0 []]

/-- MEM_READ. -/
def slqMemRead (a n : Nat) (k : SlqEnd) : Act :=
  look fun s =>
    let e := firstErr (slqMemErrs s a n false)
    if e ≠ .ok then slqMemReject a e k
    else acts [touchLocal a n, look fun t =>
      let x := readLocal t a n
      match x.findIdx? Prod.snd with
      | some i => acts [refuseExport (exportAt s a) (a + i), k eIntgPoison 0 []]
      | none => k .ok (n / 8) (x.map Prod.fst)]

/-- MEM_WRITE. -/
def slqMemWrite (a : Nat) (data : List Byte) (k : SlqEnd) : Act :=
  look fun s =>
    let e := firstErr (slqMemErrs s a data.length true)
    if e ≠ .ok then slqMemReject a e k
    else acts [writeLocal a (data.map fun b => (b, false)), k .ok (data.length / 8) []]

/-! ### Critical commands (R398 to R400) -/

/-- Body bytes of a command code; 0 for a reserved code. -/
def cmBodyLen (code : Nat) : Nat := ([0, 24, 16, 8, 8, 8, 16, 8, 16, 24].getD code 0)

/-- A command's tag under a key (R399). -/
def cmTagOf (s : State) (p : List Byte) : List Byte :=
  (hmac512 (s.nv.keys.getD (cmKey p % 4) []) (p.take 6 ++ cmBody p ++ leBytes 8 (cmCounter p) ++ serialBytes s)).take 32

/-- The failing checks that a body has to pass before its target's: RESET names no page, nor does a ZERO_REGION whose site
carries no stack. -/
def cmBodyErrs (s : State) (p : List Byte) : List ErrCode :=
  let b := cmBody p
  if b.length ≠ cmBodyLen (cmCode p) then []
  else match cmCode p with
  | 3 => when (!zeroBytes b 1 8) .rsvdSet ++ when (recLE b 0 1 != 0) .fieldRange
  | 6 => when (!zeroBytes b 1 8) .rsvdSet ++ when (!isHbmSite s.build (recLE b 0 1)) .fieldRange
  | _ => []

/-- The failing checks of a COMMAND before its target's. -/
def commandErrs (s : State) (ip : Nat) (p : List Byte) : List ErrCode :=
  let code := cmCode p
  let key := s.nv.keys.getD (cmKey p % 4) []
  when (!commandOk s ip) .permission ++
  when (key.isEmpty || cmTag p != cmTagOf s p) .authTag ++
  when (decide (cmCounter p ≤ s.nv.counters.getD (cmKey p % 4) 0)) .authCounter ++
  when (decide (4 ≤ cmKey p) || recLE p 3 1 != 0 || recLE p 6 2 != 0) .rsvdSet ++
  when (code == 0 || decide (9 < code)) .fieldRange ++
  when (decide (1 ≤ code ∧ code ≤ 9) && cmLen p != cmBodyLen code) .lenRange ++
  cmBodyErrs s p

/-- The LINK page that records a refused SPARE_ASSUME: the first of a link die in service. -/
def assumePage (s : State) : PageRef :=
  linkPg (((List.range (nLinks s.build)).find? fun l => linkDieInService s (linkSite s.build l)).getD 0)

/-- The page a command fills a CMD register of, that register's offset, and the failing checks of its chapter. -/
def commandTarget (s : State) (p : List Byte) : Option (PageRef × Nat × List ErrCode) :=
  let b := cmBody p
  match cmCode p with
  | 1 => some (coloPg, 0x340, fwErrs s b)
  | 2 => some (coloPg, 0x358, keyErrs s b)
  | 4 => some (powrPg, 0x040, capErrs b)
  | 5 => some (assumePage s, 0x050, assumeErrs s (leNat b))
  | 6 => some (hbmcPg (recLE b 0 1), 0x048, zeroErrs s (recLE b 0 1) (recLE b 8 8))
  | 7 => some (coloPg, 0x368, debugErrs s b)
  | 8 => some (presPage, 0x050, when (bit (recLE b 0 8) 31 || bits (recLE b 0 8) 15 14 != 0 || recLE b 14 2 != 0) .rsvdSet ++
      electErrs s (recLE b 4 4) (recLE b 8 6))
  | 9 => some (mgmtPage, 0x110, riErrs s (recLE b 0 8) (recLE b 8 8) (recLE b 16 8))
  | _ => none

/-- A request to a page is refused while its unit is out of service, its block off or in a soft reset (R23, R30, R49). -/
def targetPageErrs (s : State) (p : PageRef) : List ErrCode :=
  when (pageRetired s p) .retiredUnit ++ when (!enabled s p) .stateNotReady ++ when (inSrst s p) .stateBusy

/-- Words of images that the checks of a command read. -/
def commandTouch (p : List Byte) : Act :=
  let b := cmBody p
  match cmRow p with
  | some .fwStage => imageTouch coloPg (recLE b 8 8) (recLE b 16 4)
  | some .keyRotate => imageTouch coloPg (recLE b 8 8) 2072
  | some .keyTransfer => imageTouch coloPg (recLE b 8 8) 2072
  | _ => .done

/-- ELECT and ELECT_AT take an election's body, and it is executed (R65). -/
def electRun (b : List Byte) : Act := acts [
  setF PRES_ELECT_GENF (recLE b 4 4), setF PRES_BACKUP_VALID (b2n (bit (recLE b 0 4) 30)),
  setF PRES_BACKUP_NODE (bits (recLE b 0 4) 29 16), setF PRES_MASTER_NODE (bits (recLE b 0 4) 13 0),
  setF PRES_ELECT_H (recLE b 8 6), electApply]

/-- What an accepted command does. -/
def commandRun (p : List Byte) : Act :=
  let b := cmBody p
  match cmCode p with
  | 1 => fwInstall b p
  | 2 => keyChange b p
  | 4 => capApply b
  | 5 => assumeAccept (leNat b)
  | 6 => zeroAct (recLE b 0 1) (recLE b 8 8)
  | 7 => debugUnlock b p
  | 8 => electRun b
  | 9 => riAccept (recLE b 0 8) (recLE b 8 8) (recLE b 16 8)
  | _ => .done

/-- The counter of an accepted command becomes LAST_COUNTER, in flash. -/
def counterStore (p : List Byte) : Act := acts [
  updNv fun v => { v with counters := v.counters.set (cmKey p % 4) (cmCounter p) },
  setF SLQP_LAST_COUNTER (cmCounter p) 0 (cmKey p % 4)]

/-- A COMMAND refused before its target's checks. -/
def commandRefuse (e : ErrCode) (k : SlqEnd) : Act := acts [
  onlyIf (e == .authTag || e == .authCounter) (acts [slqCnt 7, raiseEvt slqpPage (2 ^ 16)]),
  recordReject slqpPage 0 e, k e 0 []]

/-- A COMMAND: its checks, its counter, its action. The device stops after the response of RESET. -/
def commandExec (ip : Nat) (p : List Byte) (k : SlqEnd) : Act :=
  look fun s =>
    let e := firstErr (commandErrs s ip p)
    if e ≠ .ok then commandRefuse e k
    else acts [commandTouch p, look fun t => match commandTarget t p with
      | some x =>
        let c := firstErr (targetPageErrs t x.1 ++ x.2.2)
        if c ≠ .ok then acts [recordReject x.1 x.2.1 c, k c 0 []]
        else acts [counterStore p, commandRun p, k .ok 0 []]
      | none => acts [counterStore p, k .ok 0 [], deviceStop]]

/-! ### Requests -/

/-- Events a payload names are acknowledged (R401). -/
def eventAck (seqs : List Nat) : Act :=
  look fun s => upd (.events (s.events.filter fun e => !seqs.contains e.seq) s.evtSeq)

/-- The work of a request. -/
def slqWork (r : SlqRow) (limit : Option Nat) (m : SlqMsg) (k : SlqEnd) : Act :=
  let p := slPayload m.bytes
  let a := recLE p 0 8
  match r with
  | .regRead =>
    let l := slqEntries 8 p
    slqReads (l.take (slqWithin limit l.length)) 0 [] (slqLimited limit l.length k)
  | .regWrite =>
    let l := slqEntries 16 p
    slqWrites (l.take (slqWithin limit l.length)) 0 (slqLimited limit l.length k)
  | .memRead =>
    let n := recLE p 8 4 / 8
    let t := slqWithin limit n
    look fun s =>
      if t = n ∨ firstErr (slqMemErrs s a (recLE p 8 4) false) ≠ .ok then slqMemRead a (recLE p 8 4) k
      else if t = 0 then k eSlqTimeout 0 []
      else slqMemRead a (8 * t) (slqLimited limit n k)
  | .memWrite =>
    let n := (p.length - 12) / 8
    look fun s =>
      let t := if isHbmAddr s a && slqWithin limit n != n then slqWithin limit n / 4 * 4 else slqWithin limit n
      if t = n ∨ firstErr (slqMemErrs s a (p.length - 12) true) ≠ .ok then slqMemWrite a (p.drop 12) k
      else if t = 0 then k eSlqTimeout 0 []
      else slqMemWrite a ((p.drop 12).take (8 * t)) (slqLimited limit n k)
  | .eventAck =>
    let l := (List.range (p.length / 4)).map fun i => recLE p (4 * i) 4
    let t := slqWithin limit l.length
    acts [eventAck (l.take t), slqLimited limit l.length k .ok t []]
  | _ => if limit.isSome then k eSlqTimeout 0 [] else commandExec m.ip p k

/-- A request waits for the unit of a page or of a range it names (R100 step 3, R435, R307). -/
def slqHeld (s : State) (m : SlqMsg) : Bool :=
  let p := slPayload m.bytes
  match slqRow m.bytes with
  | some .regRead => (slqEntries 8 p).any fun e => accessHeld s e.addr
  | some .regWrite => (slqEntries 16 p).any fun e => accessHeld s e.addr
  | some .memRead => rangeHeld s (recLE p 0 8) (recLE p 8 4)
  | some .memWrite => rangeHeld s (recLE p 0 8) (recLE p 8 4)
  | _ => false

/-- A datagram that reaches the Slaiq port (R394, R396): discarded, answered from the cache, refused, or executed. -/
def slqRequest (m : SlqMsg) (work : SlqEnd → Act) : Act :=
  look fun s =>
    if !fb s ENET_LINK_UP then .done
    else if !slMagicOk m.bytes then slqCnt 0
    else if !allowed s m.ip then slqCnt 1
    else match cachedResp s m with
    | some r => acts [openSession m, emit (.slaiq m.ip m.port r), slqCnt 2]
    | none =>
      let e := firstErr (slqErrs s m)
      if e = .ok then onlyIf (!slqHeld s m) (acts [openSession m, work (slqFinish m)])
      else acts [
        onlyIf (e == eSlqSeqStale) (slqCnt 3), onlyIf (e == eSlqSession) (raiseEvt slqpPage (2 ^ 18)),
        recordReject slqpPage 0 e, openSession m, slqFinish m e 0 []]

/-- A row's request. -/
def slqRun (r : SlqRow) (m : SlqMsg) : Act := onlyIf (slqRow m.bytes == some r) (slqRequest m (slqWork r none m))

/-- A datagram that no row stands for: a wrong MAGIC, a reserved or device-to-host type, a reserved command. -/
def slqOther (m : SlqMsg) : Act :=
  onlyIf (slqRow m.bytes).isNone (slqRequest m fun k => commandExec m.ip (slPayload m.bytes) k)

/-- SLAIQ_TIMEOUT: EXEC_LIMIT passes with `applied` entries, or 8-byte words, done (R397). -/
def slqTimeout (m : SlqMsg) (applied : Nat) : Act :=
  match slqRow m.bytes with
  | some r => slqRequest m (slqWork r (some applied) m)
  | none => .done

/-! ### Frames that carry a datagram (R387) -/

/-- The datagram of an accepted frame: source address, source port, bytes, where it goes to Slaiq's port. -/
def slqOfFrame (s : State) (f : EthFrame) : Option SlqMsg :=
  let b := f.body
  let v4 := f.etherType == 0x0800
  let udp := if v4 then (b.drop 20).take (be b 2 2 - 20) else (b.drop 40).take (be b 4 2)
  let ip := if v4 then 0xFFFF * 2 ^ 32 + be b 12 4 else be b 8 16
  let proto := if v4 then be b 9 1 else be b 6 1
  if frameKept s f && (v4 || f.etherType == 0x86DD) && proto == 17 && be udp 2 2 == 47600 then
    some ⟨ip, be udp 0 2, f.ms, (udp.take (be udp 4 2)).drop 8⟩
  else none

/-- What a frame brings that no other row stands for. -/
def frameSlaiq (f : EthFrame) : Act :=
  look fun s => match slqOfFrame s f with
    | some m => slqOther m
    | none => .done

/-! ### Events and telemetry (R401, R403, R440) -/

/-- EVENT_RESEND: the resend timer of an unacknowledged event expires. -/
def eventResend (seq : Nat) : Act :=
  look fun s => match s.events.find? fun e => e.seq == seq with
    | none => .done
    | some e =>
      if 8 ≤ e.resends then acts [upd (.events (s.events.erase e) s.evtSeq), slqCnt 5, raiseEvt slqpPage (2 ^ 17)]
      else acts [upd (.events (s.events.map fun x => if x = e then { x with resends := x.resends + 1 } else x) s.evtSeq),
        slqCnt 4, emit (.event e)]

/-- The record of a telemetry entry. -/
def telRecord (s : State) (e : Nat) : List Byte :=
  let loc := fv s HLTH_TEL_LOC 0 e
  let page := fv s HLTH_TEL_PAGE 0 e
  let off := fv s HLTH_TEL_OFFSET 0 e
  leBytes 1 loc ++ leBytes 1 0 ++ leBytes 2 page ++ leBytes 2 off ++ leBytes 2 0 ++
    leBytes 8 (match pageAt s loc page with | some p => regValue s p off | none => 0)

/-- Records that one message holds. -/
def telMax (s : State) : Nat :=
  min 510 ((slqRoom s (fv s SLQP_TEL_IP 0 0 * 2 ^ 64 + fv s SLQP_TEL_IP 0 1) - 40) / 16)

/-- A TELEMETRY message of some records. -/
def telSend (sec ns locked at_ : Nat) (records : List (List Byte)) : Act :=
  look fun s =>
    let p := leBytes 6 sec ++ leBytes 4 ns ++ leBytes 1 locked ++ leBytes 1 0 ++ leBytes 2 records.length ++ leBytes 2 0 ++
      leBytes 8 at_ ++ records.flatten
    acts [emit (.telemetry s.telSeq (slMessage 8 0 0 s.telSeq 0 p)), upd (.telSeq ((s.telSeq + 1) % 2 ^ 32)), slqCnt 6]

/-- TELEMETRY_SAMPLE: the entries are sampled together, and sent; `sec` and `ns` are the PTP clock. -/
def telemetrySample (sec ns : Nat) : Act :=
  look fun s => acts [
    incF HLTH_TEL_SAMPLES,
    onlyIf (fb s SLQP_TEL_EN && fb s ENET_LINK_UP) <|
      let l := (List.range (fv s HLTH_TEL_COUNT)).map (telRecord s)
      each (chunksOf (telMax s) l.length l) (telSend sec ns (fv s ENET_PTP_LOCKED) (curInstant s))]

/-! ### Rows -/

/-- REG_READ (R395). -/
def execRegRead (m : SlqMsg) (s : State) : Host.Outcome State Fault Refusal := .next ((slqRun .regRead m).run s)
/-- REG_WRITE (R43). -/
def execRegWrite (m : SlqMsg) (s : State) : Host.Outcome State Fault Refusal := .next ((slqRun .regWrite m).run s)
/-- MEM_READ (R395). -/
def execMemRead (m : SlqMsg) (s : State) : Host.Outcome State Fault Refusal := .next ((slqRun .memRead m).run s)
/-- MEM_WRITE (R395). -/
def execMemWrite (m : SlqMsg) (s : State) : Host.Outcome State Fault Refusal := .next ((slqRun .memWrite m).run s)
/-- EVENT_ACK (R401). -/
def execEventAck (m : SlqMsg) (s : State) : Host.Outcome State Fault Refusal := .next ((slqRun .eventAck m).run s)
/-- FW_STAGE (R411). -/
def execFwStage (m : SlqMsg) (s : State) : Host.Outcome State Fault Refusal := .next ((slqRun .fwStage m).run s)
/-- FW_COMMIT (R411). -/
def execFwCommit (m : SlqMsg) (s : State) : Host.Outcome State Fault Refusal := .next ((slqRun .fwCommit m).run s)
/-- KEY_ROTATE (R416). -/
def execKeyRotate (m : SlqMsg) (s : State) : Host.Outcome State Fault Refusal := .next ((slqRun .keyRotate m).run s)
/-- KEY_TRANSFER (R416). -/
def execKeyTransfer (m : SlqMsg) (s : State) : Host.Outcome State Fault Refusal := .next ((slqRun .keyTransfer m).run s)
/-- KEY_REVOKE (R416). -/
def execKeyRevoke (m : SlqMsg) (s : State) : Host.Outcome State Fault Refusal := .next ((slqRun .keyRevoke m).run s)
/-- RESET (R398). -/
def execResetCmd (m : SlqMsg) (s : State) : Host.Outcome State Fault Refusal := .next ((slqRun .reset m).run s)
/-- POWER_CAP (R453). -/
def execPowerCap (m : SlqMsg) (s : State) : Host.Outcome State Fault Refusal := .next ((slqRun .powerCap m).run s)
/-- SPARE_ASSUME (R365). -/
def execSpareAssume (m : SlqMsg) (s : State) : Host.Outcome State Fault Refusal := .next ((slqRun .assume m).run s)
/-- SPARE_RELEASE (R366). -/
def execSpareRelease (m : SlqMsg) (s : State) : Host.Outcome State Fault Refusal := .next ((slqRun .release m).run s)
/-- ZERO_REGION (R307). -/
def execZeroRegion (m : SlqMsg) (s : State) : Host.Outcome State Fault Refusal := .next ((slqRun .zero m).run s)
/-- DEBUG_UNLOCK (R417). -/
def execDebugUnlock (m : SlqMsg) (s : State) : Host.Outcome State Fault Refusal := .next ((slqRun .debug m).run s)
/-- PRESS_ELECT (R65). -/
def execPressElect (m : SlqMsg) (s : State) : Host.Outcome State Fault Refusal := .next ((slqRun .elect m).run s)
/-- REIMPOSE (R382). -/
def execReimpose (m : SlqMsg) (s : State) : Host.Outcome State Fault Refusal := .next ((slqRun .reimpose m).run s)
/-- SLAIQ_TIMEOUT (R397). -/
def execSlaiqTimeout (m : SlqMsg) (applied : Nat) (s : State) : Host.Outcome State Fault Refusal :=
  .next ((slqTimeout m applied).run s)
/-- EVENT_RESEND (R401). -/
def execEventResend (seq : Nat) (s : State) : Host.Outcome State Fault Refusal := .next ((eventResend seq).run s)
/-- TELEMETRY_SAMPLE (R440). -/
def execTelemetrySample (sec ns : Nat) (s : State) : Host.Outcome State Fault Refusal := .next ((telemetrySample sec ns).run s)
/-- ETH_FRAME_RECEIVE (R387). A RoCEv2 packet with an opcode outside R387 meets the responder, a Slaiq datagram of no row the
Slaiq port. -/
def execEthFrameReceive (f : EthFrame) (s : State) : Host.Outcome State Fault Refusal :=
  .next ((acts [frameReceive f, frameRoce f, frameSlaiq f]).run s)

end Sys2Proof.Machine
end

