-- ==== Sys2Proof/Machine/Narxo.lean ====
section
/-! DEFINITION. Messages of the fabric as they arrive (R345, R346, R349, R350, R358, R359): consumed, forwarded, or
refused. -/

namespace Sys2Proof.Machine

/-- A refusal reaches the unit whose access was refused (R359): a DMA or Winnow operation, a fetch or audit readback, a
prefetch. -/
def refusalReceive (o : Origin) (code : Nat) : Act :=
  let ans : RemoteAns := ⟨code, [], []⟩
  match o with
  | .op _ _ _ => opRefused o code
  | .fetch site dst => look fun s => match (ueSt s site).fetches.findIdx? fun f => feDst f.rec_ == dst with
    | some i => match (ueSt s site).fetches[i]? with
      | some f => if f.digest.isNone then fetchDigest site i ans else fetchChunk site i ans
      | none => .done
    | none => .done
  | .audit site => auditReadback site ans
  | .prefetch site dst => look fun s => match (pfsOf s site).findIdx? fun p => p.bound.isSome && pfDst p.rec_ == dst with
    | some i => match (pfsOf s site)[i]? with
      | some p => acts [setPfs site fun l => l.eraseIdx i, match p.bound with
          | some b => pfEnd site p.rec_ 4 code b.1 b.2.1 0
          | none => .done]
      | none => .done
    | none => .done
  | .none => .done

/-- A message for this device waits in the link's buffer: its memory is held (R100 step 3, R307, R435). -/
def messageHeld (s : State) (m : FabMsg) : Bool :=
  m.dst == nodeId s &&
  match m.body with
  | .readReq a n => rangeHeld s a n
  | .write a data _ => rangeHeld s a data.length
  | _ => false

/-- A message for this device is consumed by the unit it is meant for (R350). Acknowledgements, answers and read responses
complete what the rows of their operations report. -/
def messageConsume (m : FabMsg) : Act :=
  match m.body with
  | .token t c n => deliverInc t c n
  | .ready n => readyReceive n
  | .sheaf x => shArrive m.src x
  | .verified dig st node addr => verifiedNote dig st node addr
  | .refusal code => refusalReceive m.origin code
  | .assume target node h => assumeNote target node h
  | .readReq _ _ => remoteAccess m.src m.origin m.body
  | .write _ _ _ => remoteAccess m.src m.origin m.body
  | .winn x => winnArrive m.src { x with inbox := x.inbox % 16 }
  | .winnAnswer _ _ | .writeAck | .readResp _ _ _ | .opaqueBytes _ => .done

/-- A message's flits have a reserved VC or LEN8 of 0 (R345). -/
def badFlit (m : FabMsg) : Bool := decide (6 ≤ m.vc) || m.flits == 0

/-- MESSAGE_RECEIVE: a message whose first flit carries a SEQ arrives on a link. One out of sequence is discarded until the
expected SEQ comes; a bad flit asks for a replay. -/
def messageReceive (l seq : Nat) (m : FabMsg) : Act :=
  look fun s =>
    if linkState s l ≠ 2 ∨ (linkSt s l).rxSeq ≠ seq ∨ messageHeld s m then .done
    else if badFlit m then acts [cnt LINK_LDCNT 3, updLink l fun st => { st with naking := true }]
    else acts [
      updLink l fun st => { st with rxSeq := (seq + m.flits) % 65536, naking := false },
      if m.dst = nodeId s then messageConsume m else forwardMsg m (some m.phase)]

/-- MESSAGE_RECEIVE (R358). -/
def execMessageReceive (link seq : Nat) (m : FabMsg) (s : State) : Host.Outcome State Fault Refusal :=
  .next ((messageReceive link seq m).run s)
/-- REFUSAL_RECEIVE (R359): from a node. -/
def execRefusalReceive (node : Nat) (origin : Origin) (code : Nat) (s : State) : Host.Outcome State Fault Refusal :=
  .next ((onlyIf (decide (node < 2 ^ 14)) (refusalReceive origin code)).run s)

end Sys2Proof.Machine
end

