-- ==== Sys2Proof/Machine/Dispatch.lean ====
section
/-! DEFINITION. What each command does to everything but the queue: one arm per constructor. -/

namespace Sys2Proof.Machine

/-- The effect of a command. -/
def exec (i : Instr) (s : State) : Host.Outcome State Fault Refusal :=
  match i with
  | .registerWrite req addr size val => Sys2Proof.Machine.execRegisterWrite req addr size val s
  | .rcRegisterRead req addr size => Sys2Proof.Machine.execRcRegisterRead req addr size s
  | .errCodeRead req addr => Sys2Proof.Machine.execErrCodeRead req addr s
  | .evtPendClear req addr val recur => Sys2Proof.Machine.execEvtPendClear req addr val recur s
  | .softReset req addr val => Sys2Proof.Machine.execSoftReset req addr val s
  | .softResetDone loc page => Sys2Proof.Machine.execSoftResetDone loc page s
  | .impressionEdge elapsed => Sys2Proof.Machine.execImpressionEdge elapsed s
  | .beaconIssue elapsed => Sys2Proof.Machine.execBeaconIssue elapsed s
  | .beaconReceive link b => Sys2Proof.Machine.execBeaconReceive link b s
  | .readyForce req => Sys2Proof.Machine.execReadyForce req s
  | .readyReceive node impression => Sys2Proof.Machine.execReadyReceive node impression s
  | .gateTimeout elapsed => Sys2Proof.Machine.execGateTimeout elapsed s
  | .beaconLoss elapsed => Sys2Proof.Machine.execBeaconLoss elapsed s
  | .pressElect m => Sys2Proof.Machine.execPressElect m s
  | .schedPost req => Sys2Proof.Machine.execSchedPost req s
  | .schedFire elapsed => Sys2Proof.Machine.execSchedFire elapsed s
  | .schedCancel req handle => Sys2Proof.Machine.execSchedCancel req handle s
  | .tokenInc loc tile arg => Sys2Proof.Machine.execTokenInc loc tile arg s
  | .schedEvent handle arg => Sys2Proof.Machine.execSchedEvent handle arg s
  | .bubbleEnable req count cycle => Sys2Proof.Machine.execBubbleEnable req count cycle s
  | .bubbleDisable req => Sys2Proof.Machine.execBubbleDisable req s
  | .bubbleWindowOpen window elapsed => Sys2Proof.Machine.execBubbleWindowOpen window elapsed s
  | .bubbleWindowClose window elapsed => Sys2Proof.Machine.execBubbleWindowClose window elapsed s
  | .qTailWrite req tile queue val => Sys2Proof.Machine.execQTailWrite req tile queue val s
  | .queueStart req tile queue => Sys2Proof.Machine.execQueueStart req tile queue s
  | .queueStop req tile queue => Sys2Proof.Machine.execQueueStop req tile queue s
  | .queueRearm req tile queue => Sys2Proof.Machine.execQueueRearm req tile queue s
  | .queueSkip req tile queue => Sys2Proof.Machine.execQueueSkip req tile queue s
  | .descriptorNop tile queue => Sys2Proof.Machine.execDescriptorNop tile queue s
  | .descriptorComplete tile queue => Sys2Proof.Machine.execDescriptorComplete tile queue s
  | .waitExpired tile queue => Sys2Proof.Machine.execWaitExpired tile queue s
  | .tokenIncrement inc => Sys2Proof.Machine.execTokenIncrement inc s
  | .tokenWrite req tile counter val => Sys2Proof.Machine.execTokenWrite req tile counter val s
  | .tokRd tile rd rs1 => Sys2Proof.Machine.execTokRd tile rd rs1 s
  | .tokAdd tile rd rs1 rs2 => Sys2Proof.Machine.execTokAdd tile rd rs1 rs2 s
  | .tokWait tile rd rs1 rs2 => Sys2Proof.Machine.execTokWait tile rd rs1 rs2 s
  | .sumPop tile rd rs1 => Sys2Proof.Machine.execSumPop tile rd rs1 s
  | .instRd tile rd => Sys2Proof.Machine.execInstRd tile rd s
  | .wfe tile rd => Sys2Proof.Machine.execWfe tile rd s
  | .coreStallRelease tile => Sys2Proof.Machine.execCoreStallRelease tile s
  | .coreTrap tile cause tval => Sys2Proof.Machine.execCoreTrap tile cause tval s
  | .coreRun req tile run resetPc => Sys2Proof.Machine.execCoreRun req tile run resetPc s
  | .galyRegionWrite req tile region val => Sys2Proof.Machine.execGalyRegionWrite req tile region val s
  | .dmaCopy tile queue ans => Sys2Proof.Machine.execDmaCopy tile queue ans s
  | .dmaFill tile queue ans => Sys2Proof.Machine.execDmaFill tile queue ans s
  | .spareSubstitution tile readable => Sys2Proof.Machine.execSpareSubstitution tile readable s
  | .spareSubstitute loc tile => Sys2Proof.Machine.execSpareSubstitute loc tile s
  | .matmul tile => Sys2Proof.Machine.execMatmul tile s
  | .covFlush tile => Sys2Proof.Machine.execCovFlush tile s
  | .slotClr req tile val => Sys2Proof.Machine.execSlotClr req tile val s
  | .mov tile => Sys2Proof.Machine.execMov tile s
  | .neg tile => Sys2Proof.Machine.execNeg tile s
  | .abs tile => Sys2Proof.Machine.execAbs tile s
  | .sqrt tile => Sys2Proof.Machine.execSqrt tile s
  | .rsqrt tile => Sys2Proof.Machine.execRsqrt tile s
  | .recip tile => Sys2Proof.Machine.execRecip tile s
  | .exp tile => Sys2Proof.Machine.execExp tile s
  | .exp2 tile => Sys2Proof.Machine.execExp2 tile s
  | .log tile => Sys2Proof.Machine.execLog tile s
  | .log2 tile => Sys2Proof.Machine.execLog2 tile s
  | .tanh tile => Sys2Proof.Machine.execTanh tile s
  | .sigmoid tile => Sys2Proof.Machine.execSigmoid tile s
  | .add tile => Sys2Proof.Machine.execAdd tile s
  | .sub tile => Sys2Proof.Machine.execSub tile s
  | .mul tile => Sys2Proof.Machine.execMul tile s
  | .div tile => Sys2Proof.Machine.execDiv tile s
  | .vMax tile => Sys2Proof.Machine.execVMax tile s
  | .vMin tile => Sys2Proof.Machine.execVMin tile s
  | .copysign tile => Sys2Proof.Machine.execCopysign tile s
  | .cmp tile => Sys2Proof.Machine.execCmp tile s
  | .fma tile => Sys2Proof.Machine.execFma tile s
  | .vSel tile => Sys2Proof.Machine.execVSel tile s
  | .cvt tile => Sys2Proof.Machine.execCvt tile s
  | .rsum tile => Sys2Proof.Machine.execRsum tile s
  | .rprod tile => Sys2Proof.Machine.execRprod tile s
  | .rmax tile => Sys2Proof.Machine.execRmax tile s
  | .rmin tile => Sys2Proof.Machine.execRmin tile s
  | .amax tile => Sys2Proof.Machine.execAmax tile s
  | .rargmax tile => Sys2Proof.Machine.execRargmax tile s
  | .rargmin tile => Sys2Proof.Machine.execRargmin tile s
  | .rcount tile => Sys2Proof.Machine.execRcount tile s
  | .rmean tile => Sys2Proof.Machine.execRmean tile s
  | .softmax tile => Sys2Proof.Machine.execSoftmax tile s
  | .curvCmdFold req site group factor => Sys2Proof.Machine.execCurvCmdFold req site group factor s
  | .curvCmdReset req site group factor => Sys2Proof.Machine.execCurvCmdReset req site group factor s
  | .foldDone site => Sys2Proof.Machine.execFoldDone site s
  | .precondInstall loc group => Sys2Proof.Machine.execPrecondInstall loc group s
  | .viewRead req addr len => Sys2Proof.Machine.execViewRead req addr len s
  | .solvContextEnable req engine ctx val => Sys2Proof.Machine.execSolvContextEnable req engine ctx val s
  | .solvContextDisable req engine ctx val => Sys2Proof.Machine.execSolvContextDisable req engine ctx val s
  | .goRec engine req => Sys2Proof.Machine.execGoRec engine req s
  | .entryRec engine => Sys2Proof.Machine.execEntryRec engine s
  | .vectorRec engine => Sys2Proof.Machine.execVectorRec engine s
  | .structRec engine => Sys2Proof.Machine.execStructRec engine s
  | .solveStart engine elapsed ans => Sys2Proof.Machine.execSolveStart engine elapsed ans s
  | .solverPreempt engine elapsed => Sys2Proof.Machine.execSolverPreempt engine elapsed s
  | .solverIteration engine => Sys2Proof.Machine.execSolverIteration engine s
  | .solverDeadline engine ctx elapsed => Sys2Proof.Machine.execSolverDeadline engine ctx elapsed s
  | .solverDelivery engine ctx => Sys2Proof.Machine.execSolverDelivery engine ctx s
  | .route tile => Sys2Proof.Machine.execRoute tile s
  | .dispatch tile codes => Sys2Proof.Machine.execDispatch tile codes s
  | .returnRows tile codes => Sys2Proof.Machine.execReturnRows tile codes s
  | .combine tile => Sys2Proof.Machine.execCombine tile s
  | .inboxArm req tile inbox => Sys2Proof.Machine.execInboxArm req tile inbox s
  | .inboxDisarm req tile inbox => Sys2Proof.Machine.execInboxDisarm req tile inbox s
  | .rowMsg node tile inbox src slot tag payload => Sys2Proof.Machine.execRowMsg node tile inbox src slot tag payload s
  | .endRow node tile inbox src count tag => Sys2Proof.Machine.execEndRow node tile inbox src count tag s
  | .returnRow node tile tag payload => Sys2Proof.Machine.execReturnRow node tile tag payload s
  | .sheafOpen req site => Sys2Proof.Machine.execSheafOpen req site s
  | .sheafAbort req site => Sys2Proof.Machine.execSheafAbort req site s
  | .sheafBlockReceive node m => Sys2Proof.Machine.execSheafBlockReceive node m s
  | .scaleRoundReceive node tag gen round e => Sys2Proof.Machine.execScaleRoundReceive node tag gen round e s
  | .sheafSourceReadDone tag => Sys2Proof.Machine.execSheafSourceReadDone tag s
  | .sheafStageDone tag => Sys2Proof.Machine.execSheafStageDone tag s
  | .sheafDelivery tag => Sys2Proof.Machine.execSheafDelivery tag s
  | .epilogueRoundReceive node tag gen round eRes eCon flags clip nonfin => Sys2Proof.Machine.execEpilogueRoundReceive node tag gen round eRes eCon flags clip nonfin s
  | .sheafTimeout tag elapsed => Sys2Proof.Machine.execSheafTimeout tag elapsed s
  | .epilogueTimeout tag elapsed => Sys2Proof.Machine.execEpilogueTimeout tag elapsed s
  | .lineDataWrite req site val => Sys2Proof.Machine.execLineDataWrite req site val s
  | .updateRun site req group => Sys2Proof.Machine.execUpdateRun site req group s
  | .updateDone site => Sys2Proof.Machine.execUpdateDone site s
  | .ueLd site => Sys2Proof.Machine.execUeLd site s
  | .ueSt site => Sys2Proof.Machine.execUeSt site s
  | .ueMov site => Sys2Proof.Machine.execUeMov site s
  | .fadd site => Sys2Proof.Machine.execFadd site s
  | .fsub site => Sys2Proof.Machine.execFsub site s
  | .fmul site => Sys2Proof.Machine.execFmul site s
  | .fdiv site => Sys2Proof.Machine.execFdiv site s
  | .ffma site => Sys2Proof.Machine.execFfma site s
  | .fmax site => Sys2Proof.Machine.execFmax site s
  | .fmin site => Sys2Proof.Machine.execFmin site s
  | .fsqrt site => Sys2Proof.Machine.execFsqrt site s
  | .frsqrt site => Sys2Proof.Machine.execFrsqrt site s
  | .fabs site => Sys2Proof.Machine.execFabs site s
  | .fneg site => Sys2Proof.Machine.execFneg site s
  | .fcmp site => Sys2Proof.Machine.execFcmp site s
  | .ueSel site => Sys2Proof.Machine.execUeSel site s
  | .wupd site => Sys2Proof.Machine.execWupd site s
  | .avg site => Sys2Proof.Machine.execAvg site s
  | .ledgerStaged site entry => Sys2Proof.Machine.execLedgerStaged site entry s
  | .ledgerWritebackDone site entry => Sys2Proof.Machine.execLedgerWritebackDone site entry s
  | .fetch site req => Sys2Proof.Machine.execFetch site req s
  | .fetchDigestPoll site fetch ans => Sys2Proof.Machine.execFetchDigestPoll site fetch ans s
  | .fetchChunkReadDone site fetch ans => Sys2Proof.Machine.execFetchChunkReadDone site fetch ans s
  | .fetchTimeout site fetch elapsed => Sys2Proof.Machine.execFetchTimeout site fetch elapsed s
  | .fetchCancel req site => Sys2Proof.Machine.execFetchCancel req site s
  | .verified dig step node addr => Sys2Proof.Machine.execVerified dig step node addr s
  | .updCmdAudit req site group => Sys2Proof.Machine.execUpdCmdAudit req site group s
  | .auditChunk site => Sys2Proof.Machine.execAuditChunk site s
  | .auditReadbackDone site ans => Sys2Proof.Machine.execAuditReadbackDone site ans s
  | .snapshotFreeze loc group => Sys2Proof.Machine.execSnapshotFreeze loc group s
  | .snapshotStreamDone site => Sys2Proof.Machine.execSnapshotStreamDone site s
  | .progDataWrite req site val => Sys2Proof.Machine.execProgDataWrite req site val s
  | .memoryRead req addr len => Sys2Proof.Machine.execMemoryRead req addr len s
  | .memoryWrite req addr data marks => Sys2Proof.Machine.execMemoryWrite req addr data marks s
  | .writeFirstTableWrite req site entry val => Sys2Proof.Machine.execWriteFirstTableWrite req site entry val s
  | .zeroRegion m => Sys2Proof.Machine.execZeroRegion m s
  | .zeroingDone site => Sys2Proof.Machine.execZeroingDone site s
  | .optSet req site => Sys2Proof.Machine.execOptSet req site s
  | .optMove req site => Sys2Proof.Machine.execOptMove req site s
  | .optClear req site => Sys2Proof.Machine.execOptClear req site s
  | .moveDone handle ans => Sys2Proof.Machine.execMoveDone handle ans s
  | .prefetch site => Sys2Proof.Machine.execPrefetch site s
  | .prefetchStart site idx elapsed => Sys2Proof.Machine.execPrefetchStart site idx elapsed s
  | .prefetchDone site idx ans => Sys2Proof.Machine.execPrefetchDone site idx ans s
  | .remoteAccess node body => Sys2Proof.Machine.execRemoteAccess node body s
  | .lendWindowEnable req window val => Sys2Proof.Machine.execLendWindowEnable req window val s
  | .lendWindowReclaim req window val => Sys2Proof.Machine.execLendWindowReclaim req window val s
  | .flashWrite addr data => Sys2Proof.Machine.execFlashWrite addr data s
  | .flashRead addr uncorr => Sys2Proof.Machine.execFlashRead addr uncorr s
  | .flashRelocation wear slc reads corrected eraseMax eraseMin => Sys2Proof.Machine.execFlashRelocation wear slc reads corrected eraseMax eraseMin s
  | .flashProgramFail slc spare => Sys2Proof.Machine.execFlashProgramFail slc spare s
  | .flushDone complete us => Sys2Proof.Machine.execFlushDone complete us s
  | .patrolScrub intg sel off last => Sys2Proof.Machine.execPatrolScrub intg sel off last s
  | .scrubGo req intg val => Sys2Proof.Machine.execScrubGo req intg val s
  | .scrubDone intg => Sys2Proof.Machine.execScrubDone intg s
  | .flipArm req intg val => Sys2Proof.Machine.execFlipArm req intg val s
  | .pstsClr req intg val => Sys2Proof.Machine.execPstsClr req intg val s
  | .linkCtl link ctl => Sys2Proof.Machine.execLinkCtl link ctl s
  | .codewordUncorrectable link => Sys2Proof.Machine.execCodewordUncorrectable link s
  | .messageReceive link seq m => Sys2Proof.Machine.execMessageReceive link seq m s
  | .refusalReceive node origin code => Sys2Proof.Machine.execRefusalReceive node origin code s
  | .laneRetrain loc link lane => Sys2Proof.Machine.execLaneRetrain loc link lane s
  | .laneRetrainStart link => Sys2Proof.Machine.execLaneRetrainStart link s
  | .retrainAbort link => Sys2Proof.Machine.execRetrainAbort link s
  | .laneDone link ok => Sys2Proof.Machine.execLaneDone link ok s
  | .linkRetrain req link => Sys2Proof.Machine.execLinkRetrain req link s
  | .linkTrainingDone link ok node far role delay loop => Sys2Proof.Machine.execLinkTrainingDone link ok node far role delay loop s
  | .linkRxSilence link => Sys2Proof.Machine.execLinkRxSilence link s
  | .linkDisable req link => Sys2Proof.Machine.execLinkDisable req link s
  | .admitLink req link => Sys2Proof.Machine.execAdmit req link s
  | .linkAutoRetrain link => Sys2Proof.Machine.execLinkAutoRetrain link s
  | .spareAssume m => Sys2Proof.Machine.execSpareAssume m s
  | .spareRelease m => Sys2Proof.Machine.execSpareRelease m s
  | .assumeTakeEffect => Sys2Proof.Machine.execAssumeTakeEffect s
  | .assume target node impression => Sys2Proof.Machine.execAssume target node impression s
  | .planEnable req => Sys2Proof.Machine.execPlanEnable req s
  | .planDisable req => Sys2Proof.Machine.execPlanDisable req s
  | .planPrefetchIncrement elapsed => Sys2Proof.Machine.execPlanPrefetchIncrement elapsed s
  | .reimpose m => Sys2Proof.Machine.execReimpose m s
  | .reimpositionStart elapsed => Sys2Proof.Machine.execReimpositionStart elapsed s
  | .reimpositionChunkDone ans => Sys2Proof.Machine.execReimpositionChunkDone ans s
  | .reimpositionComplete elapsed => Sys2Proof.Machine.execReimpositionComplete elapsed s
  | .ethFrameReceive f => Sys2Proof.Machine.execEthFrameReceive f s
  | .arpRequest target sender => Sys2Proof.Machine.execArpRequest target sender s
  | .neighborSolicitation target sender => Sys2Proof.Machine.execNeighborSolicitation target sender s
  | .icmpEchoRequest v6 target sender data => Sys2Proof.Machine.execIcmpEchoRequest v6 target sender data s
  | .pfcPauseReceive named paused => Sys2Proof.Machine.execPfcPauseReceive named paused s
  | .cnpReceive qp => Sys2Proof.Machine.execCnpReceive qp s
  | .cnpRateRecovery qp => Sys2Proof.Machine.execCnpRateRecovery qp s
  | .ptpSync offset => Sys2Proof.Machine.execPtpSync offset s
  | .qpContextPost req val => Sys2Proof.Machine.execQpContextPost req val s
  | .windowPost req val => Sys2Proof.Machine.execWindowPost req val s
  | .contextLoad req val => Sys2Proof.Machine.execContextLoad req val s
  | .rdmaWriteRequest r key va data => Sys2Proof.Machine.execRdmaWriteRequest r key va data s
  | .rdmaReadRequest r key va len => Sys2Proof.Machine.execRdmaReadRequest r key va len s
  | .rdmaSend r data => Sys2Proof.Machine.execRdmaSend r data s
  | .rdmaAckReceive qp psn kind => Sys2Proof.Machine.execRdmaAckReceive qp psn kind s
  | .rdmaAckTimeout qp => Sys2Proof.Machine.execRdmaAckTimeout qp s
  | .regRead m => Sys2Proof.Machine.execRegRead m s
  | .regWrite m => Sys2Proof.Machine.execRegWrite m s
  | .memRead m => Sys2Proof.Machine.execMemRead m s
  | .memWrite m => Sys2Proof.Machine.execMemWrite m s
  | .eventAck m => Sys2Proof.Machine.execEventAck m s
  | .eventResend seq => Sys2Proof.Machine.execEventResend seq s
  | .slaiqTimeout m applied => Sys2Proof.Machine.execSlaiqTimeout m applied s
  | .fwStage m => Sys2Proof.Machine.execFwStage m s
  | .fwCommit m => Sys2Proof.Machine.execFwCommit m s
  | .keyRotate m => Sys2Proof.Machine.execKeyRotate m s
  | .keyTransfer m => Sys2Proof.Machine.execKeyTransfer m s
  | .keyRevoke m => Sys2Proof.Machine.execKeyRevoke m s
  | .resetCmd m => Sys2Proof.Machine.execResetCmd m s
  | .powerCap m => Sys2Proof.Machine.execPowerCap m s
  | .debugUnlock m => Sys2Proof.Machine.execDebugUnlock m s
  | .telemetrySample sec ns => Sys2Proof.Machine.execTelemetrySample sec ns s
  | .telEntryWrite req entry val => Sys2Proof.Machine.execTelEntryWrite req entry val s
  | .bootStage1 => Sys2Proof.Machine.execBootStage1 s
  | .bootStage2 => Sys2Proof.Machine.execBootStage2 s
  | .bootStage3 enetUp => Sys2Proof.Machine.execBootStage3 enetUp s
  | .bootStage4 trained hard => Sys2Proof.Machine.execBootStage4 trained hard s
  | .bootStage5 fails => Sys2Proof.Machine.execBootStage5 fails s
  | .bootStage6 fails => Sys2Proof.Machine.execBootStage6 fails s
  | .quoteOp req => Sys2Proof.Machine.execQuoteOp req s
  | .certOp req => Sys2Proof.Machine.execCertOp req s
  | .quoteDone => Sys2Proof.Machine.execQuoteDone s
  | .enrolGo req => Sys2Proof.Machine.execEnrolGo req s
  | .jciGo req => Sys2Proof.Machine.execJciGo req s
  | .jciDone => Sys2Proof.Machine.execJciDone s
  | .bkgdGrant act kind idx ns progress expected => Sys2Proof.Machine.execBkgdGrant act kind idx ns progress expected s
  | .overrun act ns => Sys2Proof.Machine.execOverrun act ns s
  | .activityPeriodEnd act undone => Sys2Proof.Machine.execActivityPeriodEnd act undone s
  | .vfCal die mv => Sys2Proof.Machine.execVfCal die mv s
  | .proofKernel kind idx phase ok => Sys2Proof.Machine.execProofKernel kind idx phase ok s
  | .proofPass loc index => Sys2Proof.Machine.execProofPass loc index s
  | .proofReproof kind idx phase ok => Sys2Proof.Machine.execProofReproof kind idx phase ok s
  | .pwrEnRise => Sys2Proof.Machine.execPwrEnRise s
  | .bootStart modId fab => Sys2Proof.Machine.execBootStart modId fab s
  | .resetAssert us => Sys2Proof.Machine.execResetAssert us s
  | .pwrEnFall => Sys2Proof.Machine.execPwrEnFall s
  | .overvoltage mv us => Sys2Proof.Machine.execOvervoltage mv us s
  | .inputToleranceExpiry mv us => Sys2Proof.Machine.execInputToleranceExpiry mv us s
  | .inputLost mv us => Sys2Proof.Machine.execInputLost mv us s
  | .powerControlStep p => Sys2Proof.Machine.execPowerControlStep p s
  | .thermalTrip sensor t => Sys2Proof.Machine.execThermalTrip sensor t s
  | .fabRefclkLoss => Sys2Proof.Machine.execFabRefclkLoss s
  | .ethRefclkLoss => Sys2Proof.Machine.execEthRefclkLoss s
  | .refclkRestore fab => Sys2Proof.Machine.execRefclkRestore fab s
  | .i3cRead reg => Sys2Proof.Machine.execI3cRead reg s
  | .limitingConditionDetected kind idx => Sys2Proof.Machine.execLimitingConditionDetected kind idx s
  | .enetLinkChange up => Sys2Proof.Machine.execEnetLinkChange up s
  | .flashProgramComplete pages => Sys2Proof.Machine.execFlashProgramComplete pages s
  | .spareResume tile => Sys2Proof.Machine.execSpareResume tile s

end Sys2Proof.Machine
end

