-- ==== Sys2Proof/Machine/Tick.lean ====
section
/-! DEFINITION. A tick of the MGD clock (log entry 4). -/

namespace Sys2Proof.Machine

/-- One nanosecond passes: the local time since the edge moves, and the point with it (R52), while the device knows an
impression. -/
def tick : Act := look fun s => onlyIf s.press.synced (timeTo (s.press.elapsed + 1))

end Sys2Proof.Machine
end

