-- ==== Sys2Proof/Safety.lean ====
section
/-! DEFINITION. What a safe run is, and the words the claims are stated in. -/

namespace Sys2Proof

/-- A step from a state neither faults nor is refused. -/
def Safe (s : Machine.State) : Prop := ∃ t, Machine.step s = .next t

namespace Machine

/-- The memories of the device are in canonical form. -/
def Memory.wf (m : List Host.Cell) : Bool := mapWf memDefault m

/-- Every map of the state is in canonical form, so that equal contents are equal data. -/
def State.wf (s : State) : Bool :=
  Memory.wf s.mem && mapWf regReset s.regs && mapWf regReset s.srstOld && mapWf synDefault s.syn &&
    mapWf writtenDefault s.written && mapWf candDefault s.cands && mapWf fifoDefault s.fifos &&
    mapWf zeroDefault s.zeroing && mapWf tileDefault s.tiles && mapWf ueDefault s.ues && mapWf solvDefault s.solvs &&
    mapWf pfDefault s.pfs && mapWf linkDefault s.links

/-! ### Register writes -/

/-- The code a register write ends with (R41, R42). -/
def writeCode (s : State) (r : Requester) (a size v : Nat) : ErrCode :=
  let x := v % 2 ^ (8 * size)
  let e := firstErr (accessErrs s r a size true)
  match pageOf s a with
  | none => e
  | some p =>
    if e ≠ .ok then e
    else match regAt p.blk (raOff a) with
      | none => firstErr (when (pageRetired s p) .retiredUnit ++ when (inSrst s p) .stateBusy ++ when (x != 0) .rsvdSet)
      | some (d, base) =>
        if d.fields.any (·.acc == .cmd) && r == .slaiq then .permission
        else if isReadOnly d then .ok
        else if (plainErrs s p d base x).isEmpty then firstErr (hookErrs ((hookTouch p base x).run s) p base x)
        else firstErr (plainErrs s p d base x ++ hookErrs s p base x)

/-- A write is carried out at once, names a register that takes writes, and is accepted. -/
def accepted (s : State) (r : Requester) (a size v : Nat) : Bool :=
  !accessHeld s a && writeCode s r a size v == .ok &&
    match pageOf s a with
    | none => false
    | some p => match regAt p.blk (raOff a) with
      | none => false
      | some (d, base) => !isReadOnly d && (plainErrs s p d base (v % 2 ^ (8 * size))).isEmpty

/-- A read is carried out at once, and no rule refuses it. -/
def readable (s : State) (r : Requester) (a size : Nat) : Bool :=
  !accessHeld s a && firstErr (accessErrs s r a size false) == .ok && (pageOf s a).isSome

/-- The address of a register of a presented tile's page `k`. -/
def tileReg (tile k off : Nat) : Nat := regAddr (slotLoc tile k).1 (slotLoc tile k).2 off

/-- The address of a register of an MGD page. -/
def mgdReg (page off : Nat) : Nat := regAddr 0x18 page off

/-- The address of a register of a site's page. -/
def siteReg (site page off : Nat) : Nat := regAddr site page off

/-- The address of a Solver Engine's register. -/
def solvReg (engine off : Nat) : Nat := regAddr (0x10 + engine / 8) (0x300 + 2 * (engine % 8)) off

/-- The address of a device link's register. -/
def linkReg (s : State) (link off : Nat) : Nat := regAddr (linkSite s.build link) (0x10 + link % 6) off

/-- The address of a register of an INTG page instance. -/
def intgReg (s : State) (i off : Nat) : Nat := regAddr (pageLoc s (intgPage i)).1 (pageLoc s (intgPage i)).2 off

/-- The build has the INTG page of an instance. -/
def intgHere (s : State) (i : Nat) : Bool := pageAt s (pageLoc s (intgPage i)).1 (pageLoc s (intgPage i)).2 == some (intgPage i)

/-! ### Rows that write one register -/

/-- A register write: requester, address, bytes, value. -/
abbrev RegWrite := Requester × Nat × Nat × Nat

/-- A register write of a tile page's register, if the tile is a presented one. -/
def tileWrite (r : Requester) (tile k off v : Nat) : Option RegWrite :=
  if tile < 144 then some (r, tileReg tile k off, 4, v) else none

/-- The register write that a command is, where it is one (R41): its address and value are fixed by its row. -/
def rowWrite (s : State) : Instr → Option RegWrite
  | .softReset r a v => if raOff a = 0x008 ∧ bit v 1 then some (r, a, 4, v) else none
  | .readyForce r => some (r, mgdReg 1 0x07C, 4, 1)
  | .schedPost r => some (r, mgdReg 1 0x098, 4, 1)
  | .schedCancel r h => some (r, mgdReg 1 0x0A0, 4, h)
  | .bubbleEnable r k c => some (r, mgdReg 1 0x0B0, 4, 2 ^ 31 + k % 128 * 65536 + c % 65536)
  | .bubbleDisable r => some (r, mgdReg 1 0x0B0, 4, fv s PRES_BUB_COUNT * 65536 + fv s PRES_BUB_CYCLE)
  | .qTailWrite r t q v => if q < 7 then tileWrite r t 0 (0x080 + 0x20 * q + 0x8) v else none
  | .queueStart r t q => if q < 7 then tileWrite r t 0 (0x080 + 0x20 * q + 0xC) 1 else none
  | .queueStop r t q => if q < 7 then tileWrite r t 0 (0x080 + 0x20 * q + 0xC) 2 else none
  | .queueRearm r t q => if q < 7 then tileWrite r t 0 (0x080 + 0x20 * q + 0xC) 4 else none
  | .queueSkip r t q => if q < 7 then tileWrite r t 0 (0x080 + 0x20 * q + 0xC) 8 else none
  | .tokenWrite r t c v => if c < 256 then tileWrite r t 0 (0x400 + 4 * c) v else none
  | .coreRun r t run pc => tileWrite r t 0 0x044 (pc % 65536 * 65536 + b2n run)
  | .galyRegionWrite r t k v => if k < 8 then tileWrite r t 5 (0x040 + 4 * k) v else none
  | .slotClr r t v => tileWrite r t 2 0x080 v
  | .inboxArm r t i => if i < 16 then tileWrite r t 4 (0x120 + 0x40 * i) 1 else none
  | .inboxDisarm r t i => if i < 16 then tileWrite r t 4 (0x120 + 0x40 * i) 2 else none
  | .curvCmdFold r n g f => if isHbmSite s.build n then some (r, siteReg n 1 0x40C, 4, 2 ^ 12 + f % 2 * 2 ^ 10 + g % 1024) else none
  | .curvCmdReset r n g f => if isHbmSite s.build n then some (r, siteReg n 1 0x40C, 4, 2 ^ 13 + f % 2 * 2 ^ 10 + g % 1024) else none
  | .solvContextEnable r e c v =>
    if e < 16 ∧ c < 32 ∧ bits v 2 0 ≠ 0 then some (r, solvReg e (0x800 + 0x40 * c), 4, v) else none
  | .solvContextDisable r e c v =>
    if e < 16 ∧ c < 32 ∧ bits v 2 0 = 0 then some (r, solvReg e (0x800 + 0x40 * c), 4, v) else none
  | .goRec e (some r) => if e < 16 then some (r, solvReg e 0x068, 4, 1) else none
  | .sheafOpen (some r) n => if isLinkSite s.build n ∧ stagedType s SHEF_OPEN_W 0 = 1 then some (r, siteReg n 0 0x0A0, 4, 1) else none
  | .sheafAbort (some r) n => if isLinkSite s.build n ∧ stagedType s SHEF_OPEN_W 0 = 2 then some (r, siteReg n 0 0x0A0, 4, 1) else none
  | .lineDataWrite r n v => if isLinkSite s.build n then some (r, siteReg n 0 0x0AC, 4, v) else none
  | .updateRun n (some r) g => if isHbmSite s.build n then some (r, siteReg n 1 0x064, 4, 2 ^ 12 + g % 1024) else none
  | .fetch n (some r) => if isHbmSite s.build n ∧ stagedType s UPDT_CMD_W n = 1 then some (r, siteReg n 1 0x0B0, 4, 1) else none
  | .fetchCancel r n => if isHbmSite s.build n then some (r, siteReg n 1 0x064, 4, 3 * 2 ^ 12) else none
  | .updCmdAudit r n g => if isHbmSite s.build n then some (r, siteReg n 1 0x064, 4, 2 ^ 13 + g % 1024) else none
  | .progDataWrite r n v => if isHbmSite s.build n then some (r, siteReg n 1 0x050, 4, v) else none
  | .writeFirstTableWrite r n e v => if isHbmSite s.build n ∧ e < 16 then some (r, siteReg n 0 (0x100 + 8 * e), 8, v) else none
  | .optSet (some r) _ => if stagedType s OPTB_OPT_W 0 = 0x11 then some (r, mgdReg 0xA 0x0A0, 4, 1) else none
  | .optMove (some r) _ => if stagedType s OPTB_OPT_W 0 = 0x12 then some (r, mgdReg 0xA 0x0A0, 4, 1) else none
  | .optClear (some r) _ => if stagedType s OPTB_OPT_W 0 = 0x13 then some (r, mgdReg 0xA 0x0A0, 4, 1) else none
  | .lendWindowEnable r w v => if w < 16 ∧ bit v 31 then some (r, mgdReg 9 (0x108 + 16 * w), 4, v) else none
  | .lendWindowReclaim r w v => if w < 16 ∧ bit v 31 = false then some (r, mgdReg 9 (0x108 + 16 * w), 4, v) else none
  | .scrubGo r i v => if intgHere s i ∧ bit v 4 then some (r, intgReg s i 0x078, 4, v) else none
  | .flipArm r i v => if intgHere s i ∧ bit v 4 then some (r, intgReg s i 0x04C, 4, v) else none
  | .pstsClr r i v => if intgHere s i ∧ bit v 1 then some (r, intgReg s i 0x040, 4, v) else none
  | .linkRetrain r l => if l < nLinks s.build then some (r, linkReg s l 0x114, 4, 4) else none
  | .linkDisable r l => if l < nLinks s.build then some (r, linkReg s l 0x114, 4, 1) else none
  | .admitLink r l => if l < nLinks s.build then some (r, linkReg s l 0x114, 4, 2) else none
  | .planEnable r => some (r, mgdReg 1 0x310, 4, 2 ^ 31)
  | .planDisable r => some (r, mgdReg 1 0x310, 4, 0)
  | .qpContextPost r v => if bit v 31 ∧ bit v 16 = false then some (r, mgdReg 2 0x0C0, 4, v) else none
  | .windowPost r v => if bit v 31 ∧ bit v 16 then some (r, mgdReg 2 0x0C0, 4, v) else none
  | .contextLoad r v => if bit v 30 then some (r, mgdReg 2 0x0C0, 4, v) else none
  | .quoteOp r => some (r, mgdReg 4 0x060, 4, 0x101)
  | .certOp r => some (r, mgdReg 4 0x060, 4, 0x102)
  | .enrolGo r => some (r, mgdReg 4 0x060, 4, 0x200)
  | .jciGo r => some (r, mgdReg 5 0x054, 4, 1)
  | .telEntryWrite r e v => if e < 256 then some (r, mgdReg 6 (0x400 + 8 * e), 8, v) else none
  | _ => none

/-! ### Queues -/

/-- The head of a queue has been checked: nothing waits there and the queue is EMPTY, or the descriptor there is accepted and
WAITING, or it was refused (reason 1) or its control words carry a mark (reason 3) and the queue is HALTED (R82, R87). -/
abbrev headDecided (s : State) (p q : Nat) : Prop :=
  (fv s TILE_Q_HEAD p q = fv s TILE_Q_TAIL p q ∧ fv s TILE_QSTATE p q = qEmpty) ∨
    (fv s TILE_Q_HEAD p q ≠ fv s TILE_Q_TAIL p q ∧ (fv s TILE_QSTATE p q = qWaiting ∨
      (fv s TILE_QSTATE p q = qHalted ∧ (fv s TILE_QREASON p q = 1 ∨ fv s TILE_QREASON p q = 3))))

/-- Galley memory of a physical tile with nothing to correct, nothing free to find and no fault armed. -/
abbrev cleanGalley (s : State) (p : Nat) : Prop :=
  s.syn = [] ∧ anyWriteFirst s (.galley p) = false ∧ flipArmed s (.galley p) = false

/-- The state as a head fires: its tokens are taken and Q_HEAD is past it (R83). -/
def fired (s : State) (p q : Nat) : State :=
  (acts [deduct p (headDesc s p q), setF TILE_Q_HEAD ((fv s TILE_Q_HEAD p q + 1) % 65536) p q]).run s

/-- Memory after the writes of an operation, in order. -/
def memAfter (m : List Host.Cell) (l : List OpWrite) : List Host.Cell :=
  l.foldl (fun m w => if w.bytes.isEmpty then m else mapPut memDefault m (muBase w.mem + w.off) w.bytes) m

/-- A row whose operation is a function of what it reads: the command on a tile, its queue and opcode, the operation's result,
and when it has no effect beyond its header. -/
structure OpRow where
  row : Nat → Instr
  queue : Nat
  opcode : Nat
  result : State → Nat → Desc → List Byte → OpResult
  nop : Desc → Bool

/-- The vector rows with their opcodes (R149). -/
def vectorRows : List ((Nat → Instr) × Nat) :=
  [(.mov, 0x01), (.neg, 0x02), (.abs, 0x03), (.sqrt, 0x04), (.rsqrt, 0x05), (.recip, 0x06), (.exp, 0x07), (.exp2, 0x08),
    (.log, 0x09), (.log2, 0x0A), (.tanh, 0x0B), (.sigmoid, 0x0C), (.add, 0x10), (.sub, 0x11), (.mul, 0x12), (.div, 0x13),
    (.vMax, 0x14), (.vMin, 0x15), (.copysign, 0x16), (.cmp, 0x17), (.fma, 0x20), (.vSel, 0x21), (.cvt, 0x30),
    (.rsum, 0x40), (.rprod, 0x41), (.rmax, 0x42), (.rmin, 0x43), (.amax, 0x44), (.rargmax, 0x45), (.rargmin, 0x46),
    (.rcount, 0x47), (.rmean, 0x48), (.softmax, 0x50)]

/-- The rows of engines that write galley memory alone. -/
def opRows : List OpRow :=
  vectorRows.map (fun r => ⟨r.1, 1, r.2, vectorResult, vNop⟩) ++
    [⟨.matmul, 0, 1, matmulResult, mmNop⟩, ⟨.covFlush, 0, 2, covFlushResult, fun d => (cfSlots d).isEmpty⟩,
      ⟨.route, 2, 1, fun s p d _ => routeResult s p d, rtNop⟩, ⟨.combine, 2, 4, fun s p d _ => combineResult s p d, cbNop⟩]

/-! ### Tokens and cores -/

/-- An increment of a presented tile's counter was delivered (R90, R91): to no backed tile, it is counted in HLTH; to a tile
that is held, it waits; else the counter takes it, saturating, and a saturation is recorded and raised. -/
def incDelivered (s t : State) (tile c n : Nat) : Prop :=
  let p := physOf s tile
  let same := ∀ q d, q < 160 → d < 256 → tok t q d = tok s q d
  (tileBacked s tile = false → same ∧ fv t HLTH_HLCNT 0 5 = min (2 ^ 32 - 1) (fv s HLTH_HLCNT 0 5 + 1)) ∧
    (tileBacked s tile = true → tileHeld s tile = true → same ∧ t.units.heldIncs = s.units.heldIncs ++ [(tile, c, n)]) ∧
    (tileBacked s tile = true → tileHeld s tile = false →
      tok t p c = min (tok s p c + n) (2 ^ 20 - 1) ∧
      (∀ q d, q < 160 → d < 256 → q ≠ p ∨ d ≠ c → tok t q d = tok s q d) ∧
      (2 ^ 20 ≤ tok s p c + n → fb t TILE_TSAT_VALID p = true ∧ (fv t (hdrEvtPend .tile) p).testBit 18 = true ∧
        fv t TILE_TSAT_COUNTER p = if fb s TILE_TSAT_VALID p then fv s TILE_TSAT_COUNTER p else c))

/-- A core has stepped past an instruction that writes a value to a register: x0 takes none, the others keep theirs. -/
def coreStepped (s t : State) (p rd v : Nat) : Prop :=
  (∀ k, k < 32 → xreg t p k = if k = rd ∧ rd ≠ 0 then v else xreg s p k) ∧ (coreSt t p).pc = (coreSt s p).pc + 4

/-- A core stalls at an instruction. -/
def coreStalled (s t : State) (p : Nat) (w : CoreWait) : Prop :=
  (coreSt t p).wait = w ∧ fb t TILE_CORE_STALLED p = true ∧ (coreSt t p).pc = (coreSt s p).pc ∧
    ∀ k, k < 32 → xreg t p k = xreg s p k

/-! ### Counters, events, quiet memories -/

/-- A 32-bit counter has advanced by n, saturating. -/
abbrev counted (s t : State) (f : Fld) (idx n k : Nat) : Prop := fv t f idx n = min (2 ^ 32 - 1) (fv s f idx n + k)

/-- An event of a page is pending. -/
abbrev pending (t : State) (p : PageRef) (i : Nat) : Prop := (fv t (hdrEvtPend p.blk) p.idx).testBit i = true

/-- No memory holds a mark or an error, has storage whose contents are open, or has a fault armed. -/
def calm (s : State) : Prop := s.syn = [] ∧ (∀ u, anyWriteFirst s u = false) ∧ ∀ u, flipArmed s u = false

/-- A curvature record and its areas lie in its site's HBM, apart. -/
abbrev recordApart (s : State) (n g : Nat) : Prop :=
  inSiteHbm n (cvAddr s n g) 128 = true ∧ ∀ f, f < 2 → inSiteHbm n (cvArea (cvRec s n g) f) (cvAreaSize (cvRec s n g) f) = true ∧
    rangesMeet (cvAddr s n g, 128) (cvArea (cvRec s n g) f, cvAreaSize (cvRec s n g) f) = false

/-- The rows of the update instructions with their opcodes (R283). -/
def ueRows : List ((Nat → Instr) × Nat) :=
  [(.ueLd, 0x01), (.ueSt, 0x02), (.ueMov, 0x03), (.fadd, 0x04), (.fsub, 0x05), (.fmul, 0x06), (.fdiv, 0x07), (.ffma, 0x08),
    (.fmax, 0x09), (.fmin, 0x0A), (.fsqrt, 0x0B), (.frsqrt, 0x0C), (.fabs, 0x0D), (.fneg, 0x0E), (.fcmp, 0x0F),
    (.ueSel, 0x10), (.wupd, 0x11), (.avg, 0x12)]

/-- The memory writes of a vector that leaves the pipeline. -/
def outWrites (s : State) (l : List (Nat × Nat × List (Nat × Bool))) : List OpWrite :=
  l.filterMap fun o => match placeOf s o.1 with
    | .mem u off => some ⟨u, off, o.2.2.flatMap fun v => leBytes o.2.1 v.1, []⟩
    | _ => none

/-- The n bytes of HBM from local address b are those that lay from local address a. -/
def copied (s t : State) (a b n : Nat) : Prop := ∀ i, i < n → mapGet memDefault t.mem (b + i) = mapGet memDefault s.mem (a + i)

/-- Memory holds what it held but within some runs of bytes. -/
def memOutside (s t : State) (l : List (Nat × Nat)) : Prop :=
  ∀ k, (∀ x ∈ l, k < x.1 ∨ x.1 + x.2 ≤ k) → mapGet memDefault t.mem k = mapGet memDefault s.mem k

/-! ### Slaiq requests -/

/-- The rows that are a Slaiq request, each with the row its datagram belongs to. -/
def slaiqRows : List ((SlqMsg → Instr) × SlqRow) :=
  [(.regRead, .regRead), (.regWrite, .regWrite), (.memRead, .memRead), (.memWrite, .memWrite), (.eventAck, .eventAck),
    (.fwStage, .fwStage), (.fwCommit, .fwCommit), (.keyRotate, .keyRotate), (.keyTransfer, .keyTransfer),
    (.keyRevoke, .keyRevoke), (.resetCmd, .reset), (.powerCap, .powerCap), (.spareAssume, .assume), (.spareRelease, .release),
    (.zeroRegion, .zero), (.debugUnlock, .debug), (.pressElect, .elect), (.reimpose, .reimpose)]

/-- A request is new, passes the checks of every request, and waits for no unit: its work is done (R394, R396). -/
def slaiqTaken (s : State) (m : SlqMsg) : Bool :=
  fb s ENET_LINK_UP && slMagicOk m.bytes && allowed s m.ip && (cachedResp s m).isNone && (firstErr (slqErrs s m) == .ok) &&
    !slqHeld s m

/-- The state in which a taken request's work begins: its session is open. -/
def opened (s : State) (m : SlqMsg) : State := (openSession m).run s

/-- A request's one response went out. -/
abbrev replied (t : State) (m : SlqMsg) (e : ErrCode) (count : Nat) (data : List Byte) : Prop :=
  .slaiq m.ip m.port (slMessage (slType m.bytes) 1 (errNum e) (slSeq m.bytes) count data) ∈ t.out

/-- A taken COMMAND passes its own checks and its target's (R400). -/
def commandTaken (s : State) (m : SlqMsg) : Bool :=
  slaiqTaken s m && slType m.bytes == 5 &&
    (let p := slPayload m.bytes
     let u := opened s m
     firstErr (commandErrs u m.ip p) == .ok &&
       match commandTarget ((commandTouch p).run u) p with
       | some x => firstErr (targetPageErrs ((commandTouch p).run u) x.1 ++ x.2.2) == .ok
       | none => true)

/-- The state in which an accepted command's action begins: its counter is stored. -/
def commandBegun (s : State) (m : SlqMsg) : State :=
  (counterStore (slPayload m.bytes)).run ((commandTouch (slPayload m.bytes)).run (opened s m))

/-- A measurement slot's bytes. -/
def slotBytes (s : State) (k : Nat) : List Byte := coloBytes s COLO_MSLOT (8 * k) 8

/-- A slot's bytes once an object is measured into it (R412). -/
def extended (old object : List Byte) : List Byte := sha512 (old ++ sha512 object)

/-- Words of the colophon's output buffer as bytes. -/
def outBytes (s : State) (n : Nat) : List Byte := (List.range n).flatMap fun i => leBytes 4 (fv s COLO_OUTBUF 0 i)

/-! ### Boot and power -/

/-- A boot stage may run: boot goes on, and the stage before it has ended. -/
abbrev stageReady (s : State) (n : Nat) : Prop := s.boot.live = true ∧ s.boot.halted = false ∧ s.boot.stage + 1 = n

/-- Every part of the device has stopped: only flash and what the factory fixed are kept, and a flush runs where power was
good. -/
def stopped (s t : State) : Prop :=
  t.boot = State.reset.boot ∧ t.press = State.reset.press ∧ t.units = State.reset.units ∧ t.nv = s.nv ∧
    t.flash.refusing = (s.power.pwrGood || s.flash.refusing) ∧
    ∀ k, mapGet memDefault t.mem k = if isFlashKey k then mapGet memDefault s.mem k else 0

/-! ### What stays -/

/-- Registers, but for those of some keys, read as before. -/
def regsKept (s t : State) (ks : List Nat) : Prop := ∀ k, k ∉ ks → rdKey t k = rdKey s k

/-- Every byte of every memory, its check bits and its written bit are as before. -/
def memKept (s t : State) : Prop :=
  (∀ k, mapGet memDefault t.mem k = mapGet memDefault s.mem k) ∧ (∀ k, mapGet synDefault t.syn k = mapGet synDefault s.syn k) ∧
    ∀ k, mapGet writtenDefault t.written k = mapGet writtenDefault s.written k

/-- The answer to a register access goes out. -/
def answered (s : State) (r : Requester) (a : Nat) : State := { s with out := .regCode r a 0 :: s.out }

end Machine

end Sys2Proof
end

