-- ==== Sys2Proof/Certificates/Slice0/Obligations.lean ====
section
/-! DEFINITION. The statements for the provers: what the rules of the manual say of the block's commands, family by family,
and of the machine as a whole. -/

open Sys2Proof Sys2Proof.Machine

/-! ### The machine -/

/-- A step carries out the command at the front of the queue, on the state with the queue's rest. -/
def Obligations.StepRunsFrontCommand : Prop :=
  ∀ (s : State) (c : Instr) (rest : List Instr), s.pending = c :: rest → step s = exec c { s with pending := rest }

/-- With no command waiting, a step is a tick of the MGD clock: 1 ns passes while the device knows an impression, and
nothing else changes (the model's choice, log entry 4). -/
def Obligations.IdleStepIsOneTick : Prop :=
  ∀ s : State, s.pending = [] → ∃ t, step s = .next t ∧
    (s.press.synced = false → t = s) ∧
    (s.press.synced = true → t = { s with press := { s.press with
      elapsed := s.press.elapsed + 1
      pt := if unsync s then 0 else if s.press.held then 65535
        else max s.press.pt (pointAt (s.press.elapsed + 1) (fv s PRES_PERIOD_CUR)) } })

/-- After reset the device is UNSYNC, CUR_INSTANT reads 0, the schedule is empty, every MGD page is enabled and every other
page is not, nothing is pending or recorded in any page's header, no event is masked, and no command waits. The maps of the reset state are in canonical form. -/
def Obligations.ResetStateIsCanonical : Prop :=
  (State.reset.pending = [] ∧ unsync State.reset = true ∧ curInstant State.reset = 0 ∧ State.reset.press.sched = [] ∧
  (∀ p : PageRef, p.idx < 256 → enabled State.reset p = isMgdBlk p.blk p.idx ∧
    fb State.reset (hdrEvtEn p.blk) p.idx = false ∧ inSrst State.reset p = false ∧
    fv State.reset (hdrErrCode p.blk) p.idx = 0 ∧ fv State.reset (hdrErrCnt p.blk) p.idx = 0 ∧
    fv State.reset (hdrEvtPend p.blk) p.idx = 0 ∧ fv State.reset (hdrEvtMask p.blk) p.idx = 0) ∧
  (∀ k, mapGet memDefault State.reset.mem k = 0) ∧ State.reset.fifos = [] ∧ State.reset.links = []) ∧
  State.wf State.reset = true

/-- THE INVARIANT: memory and every other map of the state keep their canonical form through every step. -/
def Obligations.StepKeepsMapsCanonical : Prop :=
  ∀ s t : State, State.wf s = true → step s = .next t → State.wf t = true

/-- Every command answers a next state: none faults or is refused. No command touches the queue, the build or what the factory
fixed; what was sent stays sent; and places met where the manual leaves a value open are counted, never taken back. -/
def Obligations.CommandsAnswerNextAndKeepQueue : Prop :=
  ∀ (c : Instr) (s : State), ∃ t, exec c s = .next t ∧ t.pending = s.pending ∧ t.build = s.build ∧ t.factory = s.factory ∧
    (∃ sent, t.out = sent ++ s.out) ∧ s.freeCtr ≤ t.freeCtr

/-- The first failing check in the order of R42 is reported: the code reported is one of those that fail, and none that fails
comes before it; where none fails, none is reported. A register write that a check refuses changes nothing but the page's header: the first code is recorded, a later one sets
MULTI, the count advances, REJECT is pending, and the requester is told the code. -/
def Obligations.RejectionIsRecorded : Prop :=
  (∀ l : List ErrCode, (∀ e ∈ l, errRank e < errRank .ok) →
    (l = [] → firstErr l = .ok) ∧ (l ≠ [] → firstErr l ∈ l ∧ ∀ e ∈ l, errRank (firstErr l) ≤ errRank e)) ∧
  ∀ (s : State) (r : Requester) (a size v : Nat) (p : PageRef), accessHeld s a = false →
    p = (pageOf s a).getD mgmtPage → writeCode s r a size v ≠ .ok → errNum (writeCode s r a size v) < 256 →
    (∀ d base, regAt p.blk (raOff a) = some (d, base) → (hookTouch p base (v % 2 ^ (8 * size))).run s = s) →
    ∃ t, exec (.registerWrite r a size v) s = .next t ∧
      (fv s (hdrErrCode p.blk) p.idx = 0 → fv t (hdrErrCode p.blk) p.idx = errNum (writeCode s r a size v) ∧
        fv t (hdrErrOffset p.blk) p.idx = raOff a) ∧
      (fv s (hdrErrCode p.blk) p.idx ≠ 0 → fv t (hdrErrCode p.blk) p.idx = fv s (hdrErrCode p.blk) p.idx ∧
        fv t (hdrErrOffset p.blk) p.idx = fv s (hdrErrOffset p.blk) p.idx ∧ fv t (hdrErrMulti p.blk) p.idx = 1) ∧
      fv t (hdrErrCnt p.blk) p.idx = min (2 ^ 32 - 1) (fv s (hdrErrCnt p.blk) p.idx + 1) ∧
      fv t (hdrEvtPend p.blk) p.idx = fv s (hdrEvtPend p.blk) p.idx ||| 1 ∧
      (∃ sent, t.out = .regCode r a (errNum (writeCode s r a size v)) :: sent) ∧
      regsKept s t [regKey p.blk p.idx 0x010, regKey p.blk p.idx 0x014, regKey p.blk p.idx 0x018, fldKey SLQP_QCNT 0 5] ∧
      memKept s t ∧ t.tiles = s.tiles ∧ t.press = s.press ∧ t.units = s.units ∧ t.links = s.links

/-! ### Registers -/

/-- REGISTER_WRITE of a block register that sets nothing else going: an accepted write leaves the register holding what its
fields take from the value written, the requester is answered, and nothing else changes. REGISTER_WRITE of a header register but for SRST: the register holds the value, other registers, but for the count of
events Slaiq lost, and every memory are as before. -/
def Obligations.RegisterWritesStore : Prop :=
  (∀ (s : State) (r : Requester) (a size v : Nat) (p : PageRef) (d : RegDef) (base : Nat),
    accepted s r a size v = true → pageOf s a = some p → regAt p.blk (raOff a) = some (d, base) → 0x40 ≤ base →
    (hookTouch p base (v % 2 ^ (8 * size))).run s = s → (∀ u, (hookApply s p base (v % 2 ^ (8 * size))).run u = u) →
    ¬ (p.blk = .hbmc ∧ 0x100 ≤ base) → ¬ (p.blk = .shef ∧ base = 0x0AC) →
    exec (.registerWrite r a size v) s = .next (answered { s with
      regs := mapSet regReset s.regs (pageKey p base)
        (BitVec.ofNat 64 (storedValue d (rdKey s (pageKey p base)) (v % 2 ^ (8 * size)))) } r a)) ∧
  ∀ (s : State) (r : Requester) (a size v : Nat) (p : PageRef) (d : RegDef) (base : Nat),
    accepted s r a size v = true → pageOf s a = some p → regAt p.blk (raOff a) = some (d, base) → base < 0x40 →
    (hookTouch p base (v % 2 ^ (8 * size))).run s = s → asksReset base (v % 2 ^ (8 * size)) = false →
    ∃ t, exec (.registerWrite r a size v) s = .next t ∧
      rdKey t (pageKey p base) = storedValue d (rdKey s (pageKey p base)) (v % 2 ^ (8 * size)) % 2 ^ 64 ∧
      regsKept s t [pageKey p base, fldKey SLQP_QCNT 0 5] ∧ memKept s t ∧ t.tiles = s.tiles ∧ t.press = s.press

/-- RC_REGISTER_READ: outside a soft reset the value goes to the requester, the register's RC fields clear, and nothing else
changes; while one is in progress a block register answers what it holds or what it held before. -/
def Obligations.RegisterReadClearsReadToClear : Prop :=
  ∀ (s : State) (r : Requester) (a size : Nat) (p : PageRef) (d : RegDef) (base : Nat),
    readable s r a size = true → pageOf s a = some p → regAt p.blk (raOff a) = some (d, base) →
    (inSrst s p = false → exec (.rcRegisterRead r a size) s = .next { s with
      regs := if (viewAt s p base).isNone && regValue s p base &&& rcMask d != 0 then
          mapSet regReset s.regs (pageKey p base) (BitVec.ofNat 64 (regValue s p base - (regValue s p base &&& rcMask d)))
        else s.regs
      out := .regValue r a (regValue s p base) :: s.out }) ∧
    (inSrst s p = true → 0x40 ≤ base → viewAt s p base = none → ∃ t v, exec (.rcRegisterRead r a size) s = .next t ∧
      t.out = .regValue r a v :: s.out ∧
      (v = rdKey s (pageKey p base) ∨ v = (mapGet regReset s.srstOld (pageKey p base)).toNat))

/-- ERR_CODE_READ: the read answers ERR_CODE as it stood, and leaves CODE, OFFSET and MULTI 0, so that the next rejection is recorded
afresh. Every rejection recorded against a page advances its ERR_CNT, which stays at 0xFFFF_FFFF; a read of ERR_CNT returns the
count and clears it. EVT_PEND_CLEAR: an event that recurs in the cycle of its clearing stays pending; every other event written 1
is no longer pending; and no other event changes. -/
def Obligations.HeaderRecordsClear : Prop :=
  (∀ (s : State) (r : Requester) (a : Nat) (p : PageRef), readable s r a 4 = true → pageOf s a = some p → raOff a = 0x010 →
    ∃ t, exec (.errCodeRead r a) s = .next t ∧ t.out = .regValue r a (rdKey s (fldKey (hdrErrCode p.blk) p.idx 0)) :: s.out ∧
      fv t (hdrErrCode p.blk) p.idx = 0 ∧ fv t (hdrErrOffset p.blk) p.idx = 0 ∧ fv t (hdrErrMulti p.blk) p.idx = 0 ∧
      regsKept s t [fldKey (hdrErrCode p.blk) p.idx 0] ∧ memKept s t) ∧
  (∀ (s : State) (p : PageRef) (off : Nat) (e : ErrCode),
    fv ((recordReject p off e).run s) (hdrErrCnt p.blk) p.idx = min (2 ^ 32 - 1) (fv s (hdrErrCnt p.blk) p.idx + 1)) ∧
  (∀ (s : State) (r : Requester) (a : Nat) (p : PageRef), readable s r a 4 = true → pageOf s a = some p → raOff a = 0x014 →
    ∃ t, exec (.rcRegisterRead r a 4) s = .next t ∧ t.out = .regValue r a (rdKey s (fldKey (hdrErrCnt p.blk) p.idx 0)) :: s.out ∧
      fv t (hdrErrCnt p.blk) p.idx = 0 ∧ regsKept s t [fldKey (hdrErrCnt p.blk) p.idx 0] ∧ memKept s t) ∧
  ∀ (s : State) (r : Requester) (a v recur : Nat) (p : PageRef), pageOf s a = some p → raOff a = 0x018 → v < 2 ^ 32 →
    (let m := recur &&& (0xF + (2 ^ evtCount p.blk - 1) * 2 ^ 16)
     accepted ((raiseEvt p m).run s) r a 4 (v - (v &&& m)) = true →
      ∃ t, exec (.evtPendClear r a v recur) s = .next t ∧ ∀ i, i < 32 →
        (fv t (hdrEvtPend p.blk) p.idx).testBit i =
          (m.testBit i || ((fv s (hdrEvtPend p.blk) p.idx).testBit i && !v.testBit i)))

/-! ### The press -/

/-- BEACON_ISSUE and GATE_TIMEOUT: a synchronised master with no beacon out issues that of the next impression when its edge
is LEAD away: after PERIOD in FREE mode; in GATED mode once the tree is ready, GATE_MIN allowing, or at GATE_MAX without
readiness, with TIMEOUT set, counted and raised. The configuration taken is the one that stands at the issue. BEACON_LOSS: where no beacon has come by the edge, T and 2 µs, the point holds at 65,535 and BEACON_LOSS is pending; a
backup takes over as MASTER of the next generation, counts the failover and issues a beacon that says so. -/
def Obligations.MasterIssuesAndIsReplaced : Prop :=
  (∀ (s : State) (e : Nat), fv s PRES_ROLE = roleMaster → s.press.synced = true → s.press.issued = false →
    s.press.edge = none →
    (let now := max s.press.elapsed e
     let period := if fb s PRES_PRESS_MODE then now + lead else fv s PRES_PERIOD
     let sends := fun (t : State) (b : Beacon) =>
       b.impression = s.press.imp + 1 ∧ b.gated = fb s PRES_PRESS_MODE ∧ b.failover = false ∧ b.periodNs = period ∧
         b.accDelay = 0 ∧ b.hops = 0 ∧ b.master = nodeId s ∧ t.press.lastBeacon = some b ∧ t.press.issued = true ∧
         t.press.edge = some ⟨s.press.imp + 1, period, fb s PRES_PRESS_MODE⟩ ∧ ∀ l ∈ trainedLinks s, .beacon l b ∈ t.out
     ((if s.press.cfg.gated then treeReady s = true ∧ s.press.cfg.gateMin ≤ now + lead else s.press.cfg.period ≤ now + lead) →
       ∃ t b, exec (.beaconIssue e) s = .next t ∧ b.timeout = false ∧ sends t b) ∧
     (s.press.cfg.gated = true → treeReady s = false → s.press.cfg.gateMax ≤ now + lead →
       ∃ t b, exec (.gateTimeout e) s = .next t ∧ b.timeout = true ∧ sends t b ∧
         fv t PRES_CNT_GATE_TIMEOUT = min (2 ^ 32 - 1) (fv s PRES_CNT_GATE_TIMEOUT + 1) ∧
         (fv t (hdrEvtPend .pres) 0).testBit 19 = true))) ∧
  ∀ (s : State) (e : Nat), (fv s PRES_ROLE = roleFollower ∨ fv s PRES_ROLE = roleBackup) → s.press.heard = true →
    s.press.synced = true → s.press.edge = none → s.press.held = false →
    (if s.press.gated then fv s PRES_GATE_MAX else fv s PRES_PERIOD_CUR) + 2000 ≤ max s.press.elapsed e →
    ∃ t, exec (.beaconLoss e) s = .next t ∧ t.press.held = true ∧ t.press.pt = 65535 ∧ t.press.imp = s.press.imp ∧
      (fv t (hdrEvtPend .pres) 0).testBit 17 = true ∧
      (fv s PRES_ROLE = roleFollower → fv t PRES_ROLE = roleFollower ∧ t.press.edge = none) ∧
      (fv s PRES_ROLE = roleBackup → s.press.takeover = false → s.press.retiring = false →
        fv t PRES_ROLE = roleMaster ∧ fv t PRES_ELECT_GEN = (fv s PRES_ELECT_GEN + 1) % 2 ^ 32 ∧
        fv t PRES_CNT_FAILOVER = min (2 ^ 32 - 1) (fv s PRES_CNT_FAILOVER + 1) ∧
        ∃ b, t.press.lastBeacon = some b ∧ b.failover = true ∧ b.impression = s.press.imp + 1 ∧
          b.gen = (fv s PRES_ELECT_GEN + 1) % 2 ^ 32 ∧ b.master = nodeId s ∧ ∀ l ∈ trainedLinks s, .beacon l b ∈ t.out)

/-- BEACON_RECEIVE: a beacon of a higher generation, or of the local one from the local master, sets the edge it names and
goes on over every other trained link with its delay advanced by that of the link it came over and 60 ns and its hops by one,
unless the impression has begun or is known already; any other beacon changes nothing. IMPRESSION_EDGE: at the edge a beacon set, the impression it names begins at point 0 with the period it carried; no
window is open, the table in effect is the one enabled, readiness starts from nothing, and each budget is whole. -/
def Obligations.BeaconsBeginImpressions : Prop :=
  (∀ (s : State) (l : Nat) (b : Beacon), linkState s l = 2 →
    (beaconAccepted s b = true → beaconOld s b = false → b.hops < 256 → l < 64 → b.gen < 2 ^ 32 →
      ∃ t c, exec (.beaconReceive l b) s = .next t ∧
        c = { b with
          accDelay := (b.accDelay + fv s LINK_LDELAY l + 60000) % 2 ^ 32
          hops := min 255 (b.hops + 1) } ∧
        t.press.edge = some ⟨b.impression, b.periodNs, b.gated⟩ ∧ t.press.heard = true ∧ t.press.lastBeacon = some c ∧
        t.press.fwdImp = some b.impression ∧ fv t PRES_BEACON_HOPS = c.hops ∧ fv t PRES_BEACON_LINK = l ∧
        fv t PRES_ELECT_GEN = max (fv s PRES_ELECT_GEN) b.gen ∧
        (fb t PRES_BEACON_LATE = decide (lead * 1000 ≤ b.accDelay + fv s LINK_LDELAY l)) ∧
        ∀ k ∈ trainedLinks s, k ≠ l → .beacon k c ∈ t.out) ∧
    (beaconAccepted s b = false ∨ beaconOld s b = true → exec (.beaconReceive l b) s = .next s)) ∧
  ∀ (s : State) (n : Nat) (e : EdgePlan), s.press.edge = some e → unsync s = false →
    (s.press.synced = false ∨ s.press.imp < e.imp) → e.period < 2 ^ 32 →
    ∃ t, exec (.impressionEdge n) s = .next t ∧ t.press.imp = e.imp ∧ t.press.pt = 0 ∧ t.press.elapsed = 0 ∧
      t.press.synced = true ∧ t.press.gated = e.gated ∧ t.press.edge = none ∧ t.press.issued = false ∧
      t.press.held = false ∧ t.press.open_ = [] ∧ t.press.children = 0 ∧ t.press.bubOn = fb t PRES_BUB_EN ∧
      t.press.forced = (fv t PRES_READY_THRESH == 0) ∧ fv t PRES_PERIOD_CUR = e.period ∧ fv t PRES_READY_CNT = 0 ∧
      t.bkUsed = []

/-- READY_FORCE makes the device ready for the current impression. READY_RECEIVE counts a child's READY of the current
impression; one of another impression, or one that comes after the next beacon was issued, is counted as stale. READY goes to
the parent once the device and its children are ready. -/
def Obligations.ReadinessTravelsUp : Prop :=
  (∀ (s : State) (r : Requester), accepted s r (mgdReg 1 0x07C) 4 1 = true →
    ∃ t, exec (.readyForce r) s = .next t ∧ t.press.forced = true ∧
      (s.press.synced = true → fv s PRES_CHILDREN ≤ s.press.children → fb s PRES_GATE_EN = true →
        fv s PRES_ROLE ≠ roleMaster → t.press.readySent = true) ∧
      (fb s PRES_GATE_EN = false ∨ fv s PRES_ROLE = roleMaster → t.press.readySent = s.press.readySent)) ∧
  ∀ (s : State) (node n : Nat), node < 2 ^ 14 →
    (s.press.synced = true ∧ n = s.press.imp ∧ s.press.issued = false →
      ∃ t, exec (.readyReceive node n) s = .next t ∧ t.press.children = s.press.children + 1 ∧
        fv t PRES_CNT_STALE_READY = fv s PRES_CNT_STALE_READY ∧
        (t.press.readySent = (s.press.readySent || (s.press.forced && decide (fv s PRES_CHILDREN ≤ s.press.children + 1) &&
          fb s PRES_GATE_EN && decide (fv s PRES_ROLE ≠ roleMaster))))) ∧
    (¬ (s.press.synced = true ∧ n = s.press.imp ∧ s.press.issued = false) →
      ∃ t, exec (.readyReceive node n) s = .next t ∧ t.press = s.press ∧
        fv t PRES_CNT_STALE_READY = min (2 ^ 32 - 1) (fv s PRES_CNT_STALE_READY + 1) ∧
        regsKept s t [fldKey PRES_CNT_STALE_READY 0 0] ∧ t.out = s.out)

/-! ### Schedule and bubbles -/

/-- SCHED_POST takes a free handle and adds the staged entry; SCHED_CANCEL takes the entry of its handle away. SCHED_FIRE: the
entry due is consumed whatever its target answers; a target's rejection is kept as ACTION_FAIL. An EVENT action, fired so or as
the row SCHED_EVENT, leaves its handle and argument and raises SCHED_EVENT; while one is still held, MULTI is set. -/
def Obligations.ScheduleTakesFiresAndCancels : Prop :=
  (∀ (s : State) (r : Requester), accepted s r (mgdReg 1 0x098) 4 1 = true →
    ∃ t h, exec (.schedPost r) s = .next t ∧ h < 1024 ∧ (∀ e ∈ s.press.sched, e.handle ≠ h) ∧
      t.press.sched = s.press.sched ++ [staged s h] ∧ fv t PRES_HANDLE = h ∧ fb t PRES_HANDLE_VALID = true) ∧
  (∀ (s : State) (r : Requester) (h : Nat), h < 1024 → accepted s r (mgdReg 1 0x0A0) 4 h = true →
    (∃ e ∈ s.press.sched, e.handle = h) ∧
    ∃ t, exec (.schedCancel r h) s = .next t ∧ t.press.sched = s.press.sched.filter fun e => e.handle != h) ∧
  (∀ (s : State) (n : Nat) (e : SchedEntry),
    (let u := (timeTo n).run s
     nextEntry u (curInstant u + 1) = some e → reached u e.at_ = true → inSrst s presPage = false →
      ∃ t, exec (.schedFire n) s = .next t ∧ (t.press.sched = s.press.sched.filter fun x => x.handle != e.handle) ∧
        (firstErr (actionErrs u e) ≠ .ok → fb t PRES_AFAIL_VALID = true ∧ (fv t (hdrEvtPend .pres) 0).testBit 21 = true ∧
          (fb s PRES_AFAIL_VALID = true → fb t PRES_AFAIL_MULTI = true) ∧
          (fb s PRES_AFAIL_VALID = false → e.handle < 1024 → errNum (firstErr (actionErrs u e)) < 256 →
            fv t PRES_AFAIL_CODE = errNum (firstErr (actionErrs u e)) ∧ fv t PRES_AFAIL_HANDLE = e.handle)))) ∧
  ∀ (s : State) (h v : Nat), h < 1024 → v < 2 ^ 32 →
    ∃ t, exec (.schedEvent h v) s = .next t ∧ fb t PRES_SEVT_VALID = true ∧ (fv t (hdrEvtPend .pres) 0).testBit 22 = true ∧
      (fb s PRES_SEVT_VALID = false → fv t PRES_SEVT_HANDLE = h ∧ fv t PRES_SEVT_ARG = v) ∧
      (fb s PRES_SEVT_VALID = true → fb t PRES_SEVT_MULTI = true ∧ fv t PRES_SEVT_HANDLE = fv s PRES_SEVT_HANDLE ∧
        fv t PRES_SEVT_ARG = fv s PRES_SEVT_ARG)

/-- BUBBLE_ENABLE and BUBBLE_DISABLE set and clear EN, and a disable closes every window at once. BUBBLE_WINDOW_OPEN opens a
window of the current impression whose points hold the point; BUBBLE_WINDOW_CLOSE closes one whose END is passed. -/
def Obligations.BubbleWindowsOpenAndClose : Prop :=
  (∀ (s : State) (r : Requester) (k c : Nat), k < 128 → c < 65536 →
    accepted s r (mgdReg 1 0x0B0) 4 (2 ^ 31 + k * 65536 + c) = true →
    ∃ t, exec (.bubbleEnable r k c) s = .next t ∧ fb t PRES_BUB_EN = true ∧ fv t PRES_BUB_COUNT = k ∧
      fv t PRES_BUB_CYCLE = c ∧ t.press = s.press ∧ 0 < c ∧ k ≤ 64) ∧
  (∀ (s : State) (r : Requester), accepted s r (mgdReg 1 0x0B0) 4 (fv s PRES_BUB_COUNT * 65536 + fv s PRES_BUB_CYCLE) = true →
    ∃ t, exec (.bubbleDisable r) s = .next t ∧ fb t PRES_BUB_EN = false ∧ t.press.bubOn = false ∧ t.press.open_ = []) ∧
  (∀ (s : State) (w n : Nat),
    (let u := (timeTo n).run s
     windowHere u w = true → w ∉ s.press.open_ → fv s PRES_BUB_START 0 w ≤ u.press.pt → u.press.pt ≤ fv s PRES_BUB_END 0 w →
     ∃ t, exec (.bubbleWindowOpen w n) s = .next t ∧ t.press.open_ = s.press.open_ ++ [w] ∧ windowOpen t = true)) ∧
  ∀ (s : State) (w n : Nat),
    (let u := (timeTo n).run s
     w ∈ s.press.open_ → fv s PRES_BUB_END 0 w < u.press.pt →
     ∃ t, exec (.bubbleWindowClose w n) s = .next t ∧ t.press.open_ = s.press.open_.filter (· != w))

/-! ### Soft reset, and rows that are register writes -/

/-- SOFT_RESET: an accepted request leaves BUSY set, ENABLE and EVT_EN at their reset values, REJECT and FAULT not pending,
ERR_CODE and ERR_CNT as they were, and every register of the block that its chapter does not keep at its reset value, while
what it held stays readable until SOFT_RESET_DONE. SOFT_RESET_DONE clears BUSY, and what the registers held before is gone. -/
def Obligations.SoftResetRestoresBlock : Prop :=
  (∀ (s : State) (r : Requester) (a v : Nat) (p : PageRef),
    accepted s r a 4 v = true → raOff a = 0x008 → bit v 1 = true → pageOf s a = some p →
    ∃ t, exec (.softReset r a v) s = .next t ∧ inSrst t p = true ∧ enabled t p = isMgdBlk p.blk p.idx ∧
      fb t (hdrEvtEn p.blk) p.idx = false ∧ fv t (hdrEvtPend p.blk) p.idx % 4 = 0 ∧
      fv t (hdrErrCode p.blk) p.idx = fv s (hdrErrCode p.blk) p.idx ∧
      fv t (hdrErrCnt p.blk) p.idx = fv s (hdrErrCnt p.blk) p.idx ∧
      (∀ o, 0x40 ≤ o → o < 0x1000 → keptReg p.blk o = false → rdKey t (pageKey p o) = (regReset (pageKey p o)).toNat) ∧
      ∀ o, 0x40 ≤ o → o < 0x1000 → mapGet regReset t.srstOld (pageKey p o) = mapGet regReset s.regs (pageKey p o)) ∧
  ∀ (s : State) (l k : Nat) (p : PageRef), pageAt s l k = some p →
    (inSrst s p = true → ∃ t, exec (.softResetDone l k) s = .next t ∧ inSrst t p = false ∧ memKept s t ∧
      (∀ o, 0x40 ≤ o → o < 0x1000 → mapGet regReset t.srstOld (pageKey p o) = regReset (pageKey p o)) ∧
      (p.blk = .enet → 3 ≤ s.boot.stage → fb t ENET_LINK_UP = true)) ∧
    (inSrst s p = false → exec (.softResetDone l k) s = .next s)

/-- Every row that is a write of one register, or posts a record by one, does what REGISTER_WRITE does with that register's
address and value. -/
def Obligations.RowsThatWriteOneRegister : Prop :=
  ∀ (s : State) (c : Instr) (w : RegWrite), rowWrite s c = some w →
    exec c s = exec (.registerWrite w.1 w.2.1 w.2.2.1 w.2.2.2) s

/-! ### Queues -/

/-- The check at a queue's head: with nothing waiting the queue is EMPTY; an unmarked descriptor whose checks all pass is
latched and WAITING; one that fails is recorded in its engine's page at Q_TAIL's offset, raises QUEUE_HALT and leaves the
queue HALTED for REJECTED. WAIT_EXPIRED: a head that may not fire after WAIT_LIMIT counted edges halts its queue for WAIT_EXPIRED, raises QUEUE_HALT
and records nothing in ERR_CODE; without a limit, or before it, nothing happens. -/
def Obligations.HeadIsCheckedAndTimesOut : Prop :=
  (∀ (s : State) (p q : Nat), p < 160 → q < 7 → s.syn = [] → anyWriteFirst s (.galley p) = false →
    (let t := (headCheck p q).run s
     let u := (setF TILE_QSTATE qCheck p q).run s
     let d := slotDesc u p q
     let ctl := match ctlRegion q d with
       | none => []
       | some c => readBytes u (.galley p) c.1.1 c.1.2
     let e := firstErr (descErrs u p q d ctl)
     headDecided t p q ∧ t.mem = s.mem ∧ (queueSt t p q).inflight = (queueSt s p q).inflight ∧
       fv t TILE_Q_HEAD p q = fv s TILE_Q_HEAD p q ∧ fv t TILE_Q_DONE p q = fv s TILE_Q_DONE p q ∧
       (fv s TILE_Q_HEAD p q ≠ fv s TILE_Q_TAIL p q →
         (e = .ok → fv t TILE_QSTATE p q = qWaiting ∧ headDesc t p q = d ∧ (queueSt t p q).ctl = ctl ∧
           (queueSt t p q).waitEdges = 0) ∧
         (e ≠ .ok → fv t TILE_QSTATE p q = qHalted ∧ fv t TILE_QREASON p q = 1 ∧
           (fv t (hdrEvtPend .tile) p).testBit 17 = true ∧
           (fv s (hdrErrCode (queuePage p q).blk) p = 0 → fv t (hdrErrCode (queuePage p q).blk) p = errNum e % 256 ∧
             fv t (hdrErrOffset (queuePage p q).blk) p = qTailOff q))))) ∧
  ∀ (s : State) (tile q : Nat), q < 7 →
    (let p := physOf s tile
     let n := fv s TILE_WAIT_LIMIT p q
     (fv s TILE_QSTATE p q = qWaiting → n ≠ 0 → n ≤ (queueSt s p q).waitEdges → canFire s p q = false →
       ∃ t, exec (.waitExpired tile q) s = .next t ∧ fv t TILE_QSTATE p q = qHalted ∧ fv t TILE_QREASON p q = 2 ∧
         (fv t (hdrEvtPend .tile) p).testBit 17 = true ∧ fv t (hdrErrCode .tile) p = fv s (hdrErrCode .tile) p ∧
         fv t TILE_Q_HEAD p q = fv s TILE_Q_HEAD p q) ∧
     (n = 0 ∨ (queueSt s p q).waitEdges < n ∨ canFire s p q = true → exec (.waitExpired tile q) s = .next s))

/-- Q_TAIL_WRITE, QUEUE_START, QUEUE_STOP, QUEUE_REARM and QUEUE_SKIP move a queue between its states as R87 has it: a new
tail wakes an EMPTY queue, START a STOPPED one, REARM and SKIP a HALTED one, SKIP past its head; STOP stops firing and leaves
what is issued in flight. -/
def Obligations.QueueControlMovesStates : Prop :=
  ∀ (s : State) (r : Requester) (tile q : Nat), tile < 144 → q < 7 →
    (let p := physOf s tile
     let st := fv s TILE_QSTATE p q
     let ctl := tileReg tile 0 (0x080 + 0x20 * q + 0xC)
     (∀ v, v < 65536 → accepted s r (tileReg tile 0 (0x080 + 0x20 * q + 0x8)) 4 v = true →
       ∃ t, exec (.qTailWrite r tile q v) s = .next t ∧ fv t TILE_Q_TAIL p q = v ∧
         fv t TILE_Q_HEAD p q = fv s TILE_Q_HEAD p q ∧
         (st = qEmpty → headDecided t p q) ∧ (st ≠ qEmpty → fv t TILE_QSTATE p q = st)) ∧
     (accepted s r ctl 4 1 = true → ∃ t, exec (.queueStart r tile q) s = .next t ∧
       fv t TILE_Q_HEAD p q = fv s TILE_Q_HEAD p q ∧
       (st = qStopped → headDecided t p q) ∧ (st ≠ qStopped → fv t TILE_QSTATE p q = st)) ∧
     (accepted s r ctl 4 2 = true → ∃ t, exec (.queueStop r tile q) s = .next t ∧
       fv t TILE_QSTATE p q = qStopped ∧ fv t TILE_QREASON p q = 0 ∧ fv t TILE_Q_HEAD p q = fv s TILE_Q_HEAD p q ∧
       fv t TILE_Q_DONE p q = fv s TILE_Q_DONE p q ∧ queueSt t p q = queueSt s p q ∧ memKept s t) ∧
     (accepted s r ctl 4 4 = true → ∃ t, exec (.queueRearm r tile q) s = .next t ∧
       fv t TILE_Q_HEAD p q = fv s TILE_Q_HEAD p q ∧ fv t TILE_Q_DONE p q = fv s TILE_Q_DONE p q ∧
       (st = qHalted → headDecided t p q) ∧ (st ≠ qHalted → fv t TILE_QSTATE p q = st)) ∧
     (accepted s r ctl 4 8 = true → ∃ t, exec (.queueSkip r tile q) s = .next t ∧
       (st = qHalted → headDecided t p q ∧ fv t TILE_Q_HEAD p q = (fv s TILE_Q_HEAD p q + 1) % 65536 ∧
         fv t TILE_Q_DONE p q = (fv s TILE_Q_DONE p q + 1) % 65536) ∧
       (st ≠ qHalted → fv t TILE_QSTATE p q = st ∧ fv t TILE_Q_HEAD p q = fv s TILE_Q_HEAD p q)))

/-- A head fires only when its enabled waits, its credit and its gate are met and a place in flight is free, and takes from
each consuming wait's counter its threshold and from the credit's its amount. -/
def Obligations.FireTakesTokens : Prop :=
  (∀ (s : State) (p q : Nat), canFire s p q = true →
    (∀ n ∈ hWaits (headDesc s p q), hWaitThr (headDesc s p q) n ≤ tok s p (hWaitCnt (headDesc s p q) n)) ∧
    (hCreditEn (headDesc s p q) = true → hCreditAmt (headDesc s p q) ≤ tok s p (hCreditCnt (headDesc s p q))) ∧
    (hGateEn (headDesc s p q) = true → reached s (hGate (headDesc s p q)) = true) ∧
    (queueSt s p q).inflight.length < inflightMax q) ∧
  ∀ (s : State) (p q : Nat), p < 160 → q < 7 →
    (let d := headDesc s p q
     let u := fired s p q
     (hCounters d).Nodup →
       (∀ n ∈ hWaits d, hWaitConsume d n = true → tok u p (hWaitCnt d n) = tok s p (hWaitCnt d n) - hWaitThr d n) ∧
       (hCreditEn d = true → tok u p (hCreditCnt d) = tok s p (hCreditCnt d) - hCreditAmt d) ∧
       ∀ c, c < 256 → (∀ n ∈ hWaits d, hWaitConsume d n = true → hWaitCnt d n ≠ c) →
         (hCreditEn d = true → hCreditCnt d ≠ c) → tok u p c = tok s p c)

/-- Every row of an engine that writes galley memory alone (the vector operations, MATMUL, COV_FLUSH, ROUTE, COMBINE), when
its head fires: galley memory takes the operation's writes on what it held, Q_HEAD advances, the operation is in flight with
its report, and the next head is checked. An operation of length zero, with none before it, completes with the fire. -/
def Obligations.OperationsWriteResults : Prop :=
  ∀ o ∈ opRows, ∀ (s : State) (tile : Nat),
    (let p := physOf s tile
     let q := o.queue
     let d := headDesc s p q
     let seq := fv s TILE_Q_HEAD p q
     let r := o.result (fired s p q) p d (queueSt s p q).ctl
     cleanGalley s p → canFire s p q = true → hOpcode d = o.opcode → (∀ w ∈ r.writes, w.mem = .galley p ∧ true ∉ w.marks) →
     ∃ t, exec (o.row tile) s = .next t ∧ (q = 2 ∨ t.mem = memAfter s.mem r.writes) ∧
       fv t TILE_Q_HEAD p q = (seq + 1) % 65536 ∧ headDecided t p q ∧ (∀ c, c < 256 → tok t p c = tok (fired s p q) p c) ∧
       ((∀ x ∈ (queueSt s p q).inflight, x.atOnce = false) → o.nop d = false →
         fv t TILE_Q_DONE p q = fv s TILE_Q_DONE p q ∧ t.mem = memAfter s.mem r.writes ∧
         ∃ undo, (queueSt t p q).inflight = (queueSt s p q).inflight ++ [{ inFlightOf d seq r false with
           slots := if q = 0 then slotsNamed d else []
           undo := undo }]) ∧
       ((queueSt s p q).inflight = [] → o.nop d = true → hSummary d = false →
         fv t TILE_Q_DONE p q = (fv s TILE_Q_DONE p q + 1) % 65536 ∧ (queueSt t p q).inflight = []))

/-- DESCRIPTOR_NOP fires like any head and completes at once with its targets where nothing is in flight before it.
DESCRIPTOR_COMPLETE completes the oldest operation of a queue: its summary enters the FIFO, its targets are sent, its event is
raised, and Q_DONE advances; a full summary FIFO holds it and counts. -/
def Obligations.CompletionsReport : Prop :=
  (∀ (s : State) (tile q : Nat), q < 7 →
    (let p := physOf s tile
     canFire s p q = true → hOpcode (headDesc s p q) = 0 →
     ∃ t, exec (.descriptorNop tile q) s = .next t ∧ fv t TILE_Q_HEAD p q = (fv s TILE_Q_HEAD p q + 1) % 65536 ∧
       headDecided t p q ∧
       ((queueSt s p q).inflight = [] → hSummary (headDesc s p q) = false →
         fv t TILE_Q_DONE p q = (fv s TILE_Q_DONE p q + 1) % 65536 ∧ (queueSt t p q).inflight = []))) ∧
  ∀ (s : State) (tile q : Nat) (f : InFlight) (rest : List InFlight), q < 7 →
    (let p := physOf s tile
     (queueSt s p q).inflight = f :: rest → writerHeld s (1 + 7 * p + q) f.seq = false →
     (f.summary = true ∧ summaryFull s p = true → ∃ t, exec (.descriptorComplete tile q) s = .next t ∧
       t.tiles = s.tiles ∧ fv t TILE_CNT_SUM_STALL p = min (2 ^ 32 - 1) (fv s TILE_CNT_SUM_STALL p + 1) ∧ t.out = s.out) ∧
     (¬ (f.summary = true ∧ summaryFull s p = true) → (∀ x ∈ rest, x.atOnce = false) →
       ∃ t, exec (.descriptorComplete tile q) s = .next t ∧
         fv t TILE_Q_DONE p q = (fv s TILE_Q_DONE p q + 1) % 65536 ∧ (queueSt t p q).inflight = rest ∧
         (tileSt t p).summaries = (if f.summary then (tileSt s p).summaries ++ [summaryRecord q f]
           else (tileSt s p).summaries) ∧
         (f.evt = true → (fv t (hdrEvtPend .tile) p).testBit 16 = true) ∧
         (∀ x ∈ f.dones, tgtKind x = 0 → ⟨slotOf s p, tgtTile x, tgtCounter x, tgtIncr x⟩ ∈ t.flights)))

/-! ### Arithmetic -/

/-- The special inputs of the transcendental functions give the results of R160's table in each FP format of the engine, for
inputs of each. -/
def Obligations.SpecialInputsGiveTheirResults : Prop :=
  ∀ (fx fz m u : Nat) (y w : XR), fx < 3 → fz < 3 →
    (let res := fun o c => (vFloatOp o fz m u (decodeFloat fx c) y w).code
     let neg := fun c => c + signBit fz
     let one := [0x3F800000, 0x3C00, 0x3F80].getD fz 0
     let half := [0x3F000000, 0x3800, 0x3F00].getD fz 0
     let nan := nanCode fz
     let inf := infCode fz
     let pz := 0
     let nz := signBit fx
     let pi := infCode fx
     let ni := infCode fx + signBit fx
     [0x04, 0x05, 0x06, 0x07, 0x08, 0x09, 0x0A, 0x0B, 0x0C].map (fun o => res o pz) =
         [0, inf, inf, one, one, neg inf, neg inf, 0, half] ∧
       [0x04, 0x05, 0x06, 0x07, 0x08, 0x09, 0x0A, 0x0B, 0x0C].map (fun o => res o nz) =
         [neg 0, neg inf, neg inf, one, one, neg inf, neg inf, neg 0, half] ∧
       [0x04, 0x05, 0x06, 0x07, 0x08, 0x09, 0x0A, 0x0B, 0x0C].map (fun o => res o pi) =
         [inf, 0, 0, inf, inf, inf, inf, one, one] ∧
       [0x04, 0x05, 0x06, 0x07, 0x08, 0x09, 0x0A, 0x0B, 0x0C].map (fun o => res o ni) =
         [nan, nan, neg 0, 0, 0, nan, nan, neg one, 0] ∧
       ∀ c, (decodeFloat fx c = .nan → ∀ o ∈ [0x04, 0x05, 0x06, 0x07, 0x08, 0x09, 0x0A, 0x0B, 0x0C], res o c = nan) ∧
         ∀ n d e, decodeFloat fx c = .fin true (n + 1) d e → ∀ o ∈ [0x04, 0x05, 0x09, 0x0A], res o c = nan)

/-- A NaN operand makes the result of arithmetic NaN, and maximum and minimum the canonical NaN; no ordering or equality holds
of a NaN, and "not equal" does; zeros of either sign compare equal, the maximum of both is +0 and the minimum −0. -/
def Obligations.NanAndZeroRules : Prop :=
  (∀ (o fz m u : Nat) (x y w : XR), fz < 3 → o ∈ [0x10, 0x11, 0x12, 0x13, 0x14, 0x15, 0x20] →
    x = .nan ∨ y = .nan ∨ (o = 0x20 ∧ w = .nan) → vFloatOp o fz m u x y w = ⟨nanCode fz, .nan⟩) ∧
  (∀ x y : XR, x = .nan ∨ y = .nan → vPredHolds 1 x y = true ∧ ∀ p ∈ [0, 2, 3, 4, 5], vPredHolds p x y = false) ∧
  ∀ (a b : Bool) (fz m u : Nat) (w : XR), fz < 3 →
    (∀ p ∈ [0, 3, 5], vPredHolds p (xZero a) (xZero b) = true) ∧ (∀ p ∈ [1, 2, 4], vPredHolds p (xZero a) (xZero b) = false) ∧
    (a ≠ b → (vFloatOp 0x14 fz m u (xZero a) (xZero b) w).code = 0 ∧
      (vFloatOp 0x15 fz m u (xZero a) (xZero b) w).code = signBit fz)

/-- An integer operation gives its exact result, saturated to the format; only a division by zero, which gives 0, is flagged
as one. A value a floating-point format holds is stored as its own code, whatever the rounding mode. -/
def Obligations.IntegersSaturateAndHeldValuesStay : Prop :=
  (∀ (f : Nat) (a b w : Int), f = 7 ∨ f = 8 →
    (let lo : Int := if f = 7 then -128 else -2147483648
     let hi : Int := if f = 7 then 127 else 2147483647
     let gives := fun (o : Nat) (x : Int) => toInt (fmtBits f) (vIntOp o f a b w).1.code = max lo (min hi x) ∧
       (vIntOp o f a b w).2 = false ∧ ((vIntOp o f a b w).1.cls = .sat ↔ x < lo ∨ hi < x)
     gives 0x01 a ∧ gives 0x02 (-a) ∧ gives 0x03 (a.natAbs : Int) ∧ gives 0x10 (a + b) ∧ gives 0x11 (a - b) ∧ gives 0x12 (a * b) ∧
       gives 0x14 (max a b) ∧ gives 0x15 (min a b) ∧ gives 0x20 (a * b + w) ∧ (b ≠ 0 → gives 0x13 (a.tdiv b)) ∧
       (b = 0 → (vIntOp 0x13 f a b w).1.code = 0 ∧ (vIntOp 0x13 f a b w).2 = true))) ∧
  ∀ (f c m u : Nat), f < 7 → c < 2 ^ fmtBits f → decodeFloat f c ≠ .nan → (roundFloat f m u (decodeFloat f c)).code = c

/-! ### Moves and the Winnow unit -/

/-- FILL and COPY of one row between memories of this device, and DISPATCH and RETURN: the head fires; a row's bytes land at
its destination; a DISPATCH in flight reports how many rows it sent and an END for every expert; a RETURN holds its inbox
RETURNING until it completes. -/
def Obligations.TransfersMoveRows : Prop :=
  (∀ (s : State) (tile q : Nat) (ans : List RemoteAns) (u : MemUnit) (off : Nat),
    (let p := physOf s tile
     let d := headDesc s p q
     let f := fired s p q
     let a := (dmRowAddr d 1 (0, 0)).toNat % 2 ^ 48
     3 ≤ q → q < 7 → dmaHeld s d = false → canFire s p q = true → dmNop d = false → dmRows d = [(0, 0)] →
       gaNode (dmDst d) = nodeId s → placeOf s a = .mem u off → writeRefused f a (dmLen d) = false →
       cleanGalley s p → flipArmed s u = false →
       (hOpcode d = 2 → ∃ t, exec (.dmaFill tile q ans) s = .next t ∧
         t.mem = mapPut memDefault s.mem (muBase u + off) ((List.range (dmLen d)).map fun i => d.getD (112 + i % 8) 0) ∧
         fv t TILE_Q_HEAD p q = (fv s TILE_Q_HEAD p q + 1) % 65536 ∧ headDecided t p q) ∧
       ∀ v o, hOpcode d = 1 → gaNode (dmSrc d) = nodeId s →
         placeOf s ((dmRowAddr d 0 (0, 0)).toNat % 2 ^ 48) = .mem v o → anyWriteFirst s v = false →
         viewsMet f ((dmRowAddr d 0 (0, 0)).toNat % 2 ^ 48) (dmLen d) = [] →
         ∃ t, exec (.dmaCopy tile q ans) s = .next t ∧
           t.mem = mapPut memDefault s.mem (muBase u + off) (readBytes f v o (dmLen d)) ∧
           fv t TILE_Q_HEAD p q = (fv s TILE_Q_HEAD p q + 1) % 65536 ∧ headDecided t p q)) ∧
  ∀ (s : State) (tile : Nat) (codes : List Nat),
    (let p := physOf s tile
     let d := headDesc s p 2
     winnowHeld s = false → canFire s p 2 = true → s.syn = [] → anyWriteFirst s (.galley p) = false →
       (queueSt s p 2).inflight = [] →
       (hOpcode d = 2 → dpNop d = false → ∃ t x, exec (.dispatch tile codes) s = .next t ∧
         fv t TILE_Q_HEAD p 2 = (fv s TILE_Q_HEAD p 2 + 1) % 65536 ∧ (queueSt t p 2).inflight = [x] ∧
         x.seq = fv s TILE_Q_HEAD p 2 ∧ x.value0 = dpE d ∧ x.count = (dpRows (fired s p 2) p d).length ∧
         x.dones = (List.range (min 2 (hNdone d))).map (hDone d)) ∧
       (hOpcode d = 3 → fv s WINN_ISTATE p (rnInbox d) = inClosed → ∃ t x, exec (.returnRows tile codes) s = .next t ∧
         fv t TILE_Q_HEAD p 2 = (fv s TILE_Q_HEAD p 2 + 1) % 65536 ∧ (queueSt t p 2).inflight = [x] ∧
         x.seq = fv s TILE_Q_HEAD p 2 ∧ fv t WINN_ISTATE p (rnInbox d) = inReturning ∧
         (inboxSt t p (rnInbox d)).ret = some x.seq))

/-- INBOX_ARM opens an epoch with nothing counted, INBOX_DISARM discards it. A ROW that a tile's open inbox takes lands in its
row's place with its tag, an END notes its sender and the last one closes the inbox, a RETURN_ROW lands where its tag says;
a message refused leaves memory as it was; one for a tile that is held waits. -/
def Obligations.InboxesTakeMessages : Prop :=
  (∀ (s : State) (r : Requester) (tile i : Nat), tile < 144 → i < 16 →
    (let p := physOf s tile
     (accepted s r (tileReg tile 4 (0x120 + 0x40 * i)) 4 1 = true → ∃ t, exec (.inboxArm r tile i) s = .next t ∧
       fv t WINN_ISTATE p i = inOpen ∧ fv t WINN_ENDS p i = 0 ∧ fv t WINN_IROWS p i = 0 ∧ inboxSt t p i = ⟨[], none⟩) ∧
     (accepted s r (tileReg tile 4 (0x120 + 0x40 * i)) 4 2 = true → ∃ t, exec (.inboxDisarm r tile i) s = .next t ∧
       fv t WINN_ISTATE p i = inIdle ∧ fv t WINN_ENDS p i = 0 ∧ fv t WINN_IROWS p i = 0 ∧ inboxSt t p i = ⟨[], none⟩))) ∧
  (∀ (s : State) (node tile i src slot tag : Nat) (b : List Byte), i < 16 → tileHeld s tile = false →
    cleanGalley s (physOf s tile) →
    (let p := physOf s tile
     let row := ⟨tile, 1, i, src, slot, tag, b⟩
     let last := ⟨tile, 2, i, src, slot, tag, []⟩
     let ret := ⟨tile, 3, 0, 0, 0, tag, b⟩
     let at_ := src * fv s WINN_ICAP p i + slot
     (winnCode s row = .ok → ∃ t, exec (.rowMsg node tile i src slot tag b) s = .next t ∧
       t.mem = memAfter s.mem [⟨.galley p, fv s WINN_IBASE p i + at_ * fv s WINN_ROWB p i, b, []⟩,
         ⟨.galley p, fv s WINN_TAG_ADDR p i + 8 * at_, leBytes 8 tag, []⟩] ∧
       fv t WINN_IROWS p i = satAdd (WINN_IROWS.hi + 1 - WINN_IROWS.lo) (fv s WINN_IROWS p i) 1) ∧
     (winnCode s row ≠ .ok → ∃ t, exec (.rowMsg node tile i src slot tag b) s = .next t ∧ t.mem = s.mem ∧
       (winnCode s row ≠ .retiredUnit → (fv t (hdrEvtPend .winn) p).testBit 18 = true)) ∧
     (winnCode s last = .ok → ∃ t, exec (.endRow node tile i src slot tag) s = .next t ∧
       (inboxSt t p i).ends = (inboxSt s p i).ends ++ [src] ∧
       fv t WINN_ISTATE p i = if (inboxSt s p i).ends.length + 1 = fv s WINN_NSRC p i then inClosed else inOpen) ∧
     (winnCode s ret = .ok → ∃ t, exec (.returnRow node tile tag b) s = .next t ∧
       t.mem = memAfter s.mem [⟨.galley p, bits tag 44 24, b, []⟩]))) ∧
  ∀ (s : State) (node tile i src slot tag : Nat) (b : List Byte), tileHeld s tile = true →
    exec (.rowMsg node tile i src slot tag b) s = .next { s with units := { s.units with
      heldMsgs := s.units.heldMsgs ++ [(node, ⟨tile, 1, i, src, slot, tag, b⟩)] } }

/-! ### Tokens and control cores -/

/-- TOKEN_INCREMENT: the first increment of its source on its way, or one from another device, reaches its counter. TOKEN_INC,
an accepted action, does what such an increment does. TOKEN_WRITE sets one counter. -/
def Obligations.TokensCount : Prop :=
  (∀ (s : State) (i : Nat) (f : Flight), s.flights[i]? = some f → flightFirst s.flights i = true → f.counter < 256 →
    ∃ t, exec (.tokenIncrement (.own i)) s = .next t ∧ t.flights = s.flights.eraseIdx i ∧
      incDelivered s t f.tile f.counter f.incr) ∧
  (∀ (s : State) (tile c n : Nat), c < 256 →
    ∃ t, exec (.tokenIncrement (.remote tile c n)) s = .next t ∧ t.flights = s.flights ∧ incDelivered s t tile c n) ∧
  (∀ (s : State) (loc tile arg : Nat), tileTarget loc tile = true →
    firstErr (actionErrs s ⟨0, 0, 0, 1, loc, tile, arg⟩) = .ok →
    ∃ t, exec (.tokenInc loc tile arg) s = .next t ∧ incDelivered s t tile (bits arg 7 0) (bits arg 27 8)) ∧
  ∀ (s : State) (r : Requester) (tile c v : Nat), tile < 144 → c < 256 → v < 2 ^ 20 →
    accepted s r (tileReg tile 0 (0x400 + 4 * c)) 4 v = true →
    ∃ t, exec (.tokenWrite r tile c v) s = .next t ∧ tok t (physOf s tile) c = v ∧
      regsKept s t [regKey .tile (physOf s tile) (0x400 + 4 * c)] ∧ memKept s t ∧ t.tiles = s.tiles

/-- The extension instructions of a control core that runs: each returns its value and steps on; TOK.WAIT and WFE stall until
what they wait for holds; SUM.POP moves a record or faults. -/
def Obligations.CoreInstructionsReturnValues : Prop :=
  ∀ (s : State) (tile rd rs1 rs2 : Nat), tile < 144 → rd < 32 → coreReady s (physOf s tile) = true →
    (let p := physOf s tile
     let a := xreg s p rs1
     let c := a % 256
     let n := xreg s p rs2 % 2 ^ 20
     (∃ t, exec (.tokRd tile rd rs1) s = .next t ∧ coreStepped s t p rd (tok s p c) ∧ regsKept s t []) ∧
     (∃ t, exec (.tokAdd tile rd rs1 rs2) s = .next t ∧ coreStepped s t p rd (min (tok s p c + n) (2 ^ 20 - 1)) ∧
       tok t p c = min (tok s p c + n) (2 ^ 20 - 1)) ∧
     (∃ t, exec (.tokWait tile rd rs1 rs2) s = .next t ∧
       if n ≤ tok s p c ∨ tileEventInput s p = true then coreStepped s t p rd (tok s p c)
       else coreStalled s t p (.tok rd c n)) ∧
     (∃ t, exec (.wfe tile rd) s = .next t ∧
       if tileEventInput s p = true ∨ (tileSt s p).summaries ≠ [] then coreStepped s t p rd (rdKey s (regKey .tile p 0x018))
       else coreStalled s t p (.wfe rd)) ∧
     (s.press.imp < 2 ^ 48 → s.press.pt < 2 ^ 16 →
       ∃ t, exec (.instRd tile rd) s = .next t ∧ coreStepped s t p rd (curInstant s) ∧ regsKept s t []) ∧
     (a % 32 = 0 → (tileSt s p).summaries = [] →
       ∃ t, exec (.sumPop tile rd rs1) s = .next t ∧ coreStepped s t p rd 0 ∧ memKept s t) ∧
     (a % 32 ≠ 0 → ∃ t, exec (.sumPop tile rd rs1) s = .next t ∧ (coreSt t p).mcause = 7 ∧
       (coreSt t p).mtval = BitVec.ofNat 64 a ∧ (tileSt t p).summaries = (tileSt s p).summaries ∧ memKept s t) ∧
     ∀ x rest, a % 32 = 0 → a / 0x10000 = 1 → (tileSt s p).summaries = x :: rest → x ≠ [] → s.syn = [] →
       flipArmed s (.dmem p) = false →
       ∃ t, exec (.sumPop tile rd rs1) s = .next t ∧ coreStepped s t p rd 1 ∧ (tileSt t p).summaries = rest ∧
         t.mem = mapPut memDefault s.mem (muBase (.dmem p) + a % 0x10000) x)

/-- CORE_RUN starts a stopped core at RESET_PC and stops a running one. CORE_STALL_RELEASE lets a stalled core go on with the
value its instruction returns once what it waits for holds. CORE_TRAP saves the pc, the cause and the value; with mtvec 0 the
core stops with its cause and pc on record and CORE_FAULT pending, else it goes to its handler with interrupts off. -/
def Obligations.CoresRunStallAndTrap : Prop :=
  (∀ (s : State) (r : Requester) (tile pc : Nat) (run : Bool), tile < 144 → pc < 65536 →
    accepted s r (tileReg tile 0 0x044) 4 (pc * 65536 + b2n run) = true →
    (let p := physOf s tile
     ∃ t, exec (.coreRun r tile run pc) s = .next t ∧ fb t TILE_CORE_RUN p = run ∧ fv t TILE_RESET_PC p = pc ∧
       (run = true → fb s TILE_CORE_RUN p = false → (coreSt t p).pc = BitVec.ofNat 64 pc ∧ (coreSt t p).wait = .none) ∧
       (run = false → fb s TILE_CORE_RUN p = true → fb t TILE_CORE_FAULT p = false ∧ fb t TILE_CORE_STALLED p = false ∧
         (coreSt t p).wait = .none))) ∧
  (∀ (s : State) (tile rd v : Nat), tile < 144 → rd < 32 → v < 2 ^ 64 → fb s TILE_CORE_RUN (physOf s tile) = true →
    (let p := physOf s tile
     stallOver s p (coreSt s p).wait = some (rd, v) →
     ∃ t, exec (.coreStallRelease tile) s = .next t ∧ coreStepped s t p rd v ∧ (coreSt t p).wait = .none ∧
       fb t TILE_CORE_STALLED p = false)) ∧
  ∀ (s : State) (tile cause v : Nat), tile < 144 → fb s TILE_CORE_RUN (physOf s tile) = true →
    fb s TILE_CORE_FAULT (physOf s tile) = false → cause < 2 ^ 64 →
    (let p := physOf s tile
     let c := coreSt s p
     ∃ t, exec (.coreTrap tile cause v) s = .next t ∧ (coreSt t p).mepc = c.pc ∧
       (coreSt t p).mcause = BitVec.ofNat 64 cause ∧ (coreSt t p).mtval = BitVec.ofNat 64 v ∧
       (c.mtvec = 0 → fb t TILE_CORE_FAULT p = true ∧ fv t TILE_CORE_CAUSE p = cause % 2 ^ 32 ∧
         fv t TILE_CORE_EPC p = c.pc.toNat % 2 ^ 32 ∧ (fv t (hdrEvtPend .tile) p).testBit 20 = true) ∧
       (c.mtvec ≠ 0 → (coreSt t p).pc = BitVec.ofNat 64 (c.mtvec.toNat / 4 * 4 +
           if c.mtvec.toNat.testBit 0 && cause.testBit 63 then 4 * (cause % 2 ^ 63) else 0) ∧
         (coreSt t p).mstatus.toNat.testBit 3 = false ∧ (coreSt t p).mstatus.toNat.testBit 7 = c.mstatus.toNat.testBit 3))

/-! ### Storage -/

/-- MEMORY_WRITE of a range a requester may write leaves its bytes there and no others changed, with marks where they were
given; MEMORY_READ of a range answers the bytes it holds, unmarked where nothing is. WRITE_FIRST_TABLE_WRITE and GALY_REGION_WRITE set their entry, and storage that changes its mode becomes unwritten.
SLOT_CLR empties the slots it names. ZEROING_DONE leaves zeros in every block that awaited them, and ZERO_BUSY clear. -/
def Obligations.MemoryKeepsContentsAndModes : Prop :=
  ((∀ (s : State) (r : Requester) (a : Nat) (b : List Byte) (m : List Bool) (u : MemUnit) (off : Nat),
    firstErr (writeErrs s r a b.length) = .ok → rangeHeld s a b.length = false → placeOf s a = .mem u off → s.syn = [] →
    flipArmed s u = false →
    ∃ t, exec (.memoryWrite r a b m) s = .next t ∧ t.mem = memAfter s.mem [⟨u, off, b, []⟩] ∧
      (∀ i (h : i < b.length), rawByte t (muBase u + off + i) = b[i]) ∧
      (∀ k, (∀ i, i < b.length → k ≠ muBase u + off + i) → rawByte t k = rawByte s k) ∧
      (.regCode r a 0 ∈ t.out) ∧ (true ∉ m → t.syn = []) ∧
      ∀ i, i < b.length → m.getD i false = true → markedAt t u (off + i) = true) ∧
  ∀ (s : State) (r : Requester) (a n : Nat) (u : MemUnit) (off : Nat),
    firstErr (readErrs s r a n) = .ok → rangeHeld s a n = false → placeOf s a = .mem u off → viewsMet s a n = [] →
    s.syn = [] → anyWriteFirst s u = false →
    exec (.memoryRead r a n) s = .next { s with
      out := .memData r a 0 (readBytes s u off n) (List.replicate n false) :: s.out }) ∧
  (∀ (s : State) (r : Requester) (n e v : Nat), isHbmSite s.build n = true → e < 16 → v < 2 ^ 64 →
    accepted s r (siteReg n 0 (0x100 + 8 * e)) 8 v = true →
    ∃ t, exec (.writeFirstTableWrite r n e v) s = .next t ∧ wfRun t n e = wfOf v ∧
      ∀ b o, o < 4096 → hbmWriteFirst s n b = false → hbmWriteFirst t n b = true →
        isWritten t (.hbm n) (b * 4096 + o) = false) ∧
  (∀ (s : State) (r : Requester) (tile k v : Nat), tile < 144 → k < 8 → v < 2 ^ 32 →
    accepted s r (tileReg tile 5 (0x040 + 4 * k)) 4 v = true →
    (let p := physOf s tile
     ∃ t, exec (.galyRegionWrite r tile k v) s = .next t ∧ regionOf (rdKey t (regKey .galy p (0x040 + 4 * k))) = regionOf v ∧
       ∀ g o, g < 32 → o < 65536 → galleyRegion s p g ≠ galleyRegion t p g →
         isWritten t (.galley p) (g * 65536 + o) = false)) ∧
  (∀ (s : State) (r : Requester) (tile v : Nat), tile < 144 → accepted s r (tileReg tile 2 0x080) 4 v = true →
    ∃ t, exec (.slotClr r tile v) s = .next t ∧ ∀ k, k < 8 → bit v k = true →
      fb t COVA_SBOUND (physOf s tile) k = false ∧ fv t COVA_SAMPLES (physOf s tile) k = 0 ∧
        covSlot t (physOf s tile) k = ⟨[], false, none⟩) ∧
  ∀ (s : State) (n : Nat), n < 12 → ∃ t, exec (.zeroingDone n) s = .next t ∧ fb t HBMC_ZERO_BUSY n = false ∧
    fv t HBMC_ZERO_REMAIN n = 0 ∧ mapGet zeroDefault t.zeroing n = [] ∧
    ∀ x ∈ mapGet zeroDefault s.zeroing n, ∀ o, o < x.2 * 4096 → rawByte t (muBase (.hbm n) + x.1 * 4096 + o) = 0

/-! ### Spares -/

/-- SPARE_SUBSTITUTE retires the tile behind an ID and leaves its substitution pending. SPARE_SUBSTITUTION puts the first
spare of the die in its place: with its tokens where its state is readable and its work is done, else with every queue
STOPPED. SPARE_RESUME ends the substitution, says on the TILE page what became of the state, and raises it. -/
def Obligations.SparesTakeOver : Prop :=
  (∀ (s : State) (loc tile : Nat), tileTarget loc tile = true →
    firstErr (actionErrs s ⟨0, 0, 0, 4, loc, tile, 0⟩) = .ok →
    (∀ k, k < 160 → physOf s k = physOf s tile → k = tile) →
    ∃ t, exec (.spareSubstitute loc tile) s = .next t ∧ tileRetired t (physOf s tile) = true ∧ substPending t tile = true ∧
      (fv t (hdrEvtPend .hlth) 0).testBit 18 = true ∧ t.units.backing = s.units.backing) ∧
  (∀ (s : State) (tile slot : Nat) (readable : Bool) (x : Subst), tile < 144 →
    s.units.subst.find? (fun y => y.tile == tile) = some x → (spareSlots s (dieOfTile tile)).head? = some slot →
    x.spare = none → x.old < 160 →
    (let idle := (tileSt s x.old).queues.all fun q => q.inflight.isEmpty
     let q := physOf s slot
     0 < x.edges → (readable = true → idle = false → 2 ≤ x.edges) →
     ∃ t, exec (.spareSubstitution tile readable) s = .next t ∧ physOf t tile = q ∧ physOf t slot = physOf s tile ∧
       (∃ y ∈ t.units.subst, y.tile = tile ∧ y.spare = some q ∧ y.lost = !(readable && idle)) ∧
       (fv t (hdrEvtPend .cova) q).testBit 16 = true ∧
       ((readable && idle) = true → ∀ c, c < 256 → tok t q c = tok s x.old c) ∧
       ((readable && idle) = false → (∀ c, c < 256 → tok t q c = 0) ∧ ∀ k, k < 7 → fv t TILE_QSTATE q k = qStopped))) ∧
  ∀ (s : State) (tile : Nat) (x : Subst), s.units.subst.find? (fun y => y.tile == tile && y.spare.isSome) = some x →
    s.units.heldIncs = [] → s.units.heldAccs = [] → s.units.heldMsgs = [] →
    (let q := physOf s tile
     ∃ t, exec (.spareResume tile) s = .next t ∧ t.units.subst = s.units.subst.filter (fun y => y.tile != tile) ∧
       fb t TILE_SUBST_VALID q = true ∧ fb t TILE_SUBST_LOST q = x.lost ∧ fv t TILE_OLD_PHYS q = x.old % 80 ∧
       (fv t (hdrEvtPend .tile) q).testBit 21 = true ∧ (x.lost = true → (fv t (hdrEvtPend .tile) q).testBit 22 = true))

/-! ### Curvature -/

/-- CURV_CMD_FOLD queues a fold, which starts at once on a free pipeline or records its fault. CURV_CMD_RESET clears FOLDS and,
in every block, POISONED, NONFINITE, OVERRUN, CHG and PEND, and no
other byte of memory. FOLD_DONE counts a fold and frees the pipeline.
PRECOND_INSTALL makes every full shadow slot the installed one. VIEW_READ answers what the view shows. -/
def Obligations.CurvatureFoldsAndInstalls : Prop :=
  (∀ (s : State) (r : Requester) (n g f : Nat), isHbmSite s.build n = true → g < 1024 → f < 2 →
    accepted s r (siteReg n 1 0x40C) 4 (2 ^ 12 + f * 2 ^ 10 + g) = true →
    ∃ t, exec (.curvCmdFold r n g f) s = .next t ∧
      (ueIdle s n = false → (ueSt t n).jobs = (ueSt s n).jobs ++ [.fold g f]) ∧
      (ueIdle s n = true → ueInService s n = true → unitResting s (.ue n) = false → (ueSt s n).jobs = [] →
        (∃ rec_, (ueSt t n).fold = some ⟨g, f, rec_, false⟩) ∨ (fb t UPDT_CF_VALID n = true ∧ pending t (updtPg n) 1))) ∧
  (∀ (s : State) (r : Requester) (n g f : Nat), isHbmSite s.build n = true → g < 1024 → f < 2 → calm s → recordApart s n g →
    accepted s r (siteReg n 1 0x40C) 4 (2 ^ 13 + f * 2 ^ 10 + g) = true →
    (let c := cvRec s n g
     ∃ t, exec (.curvCmdReset r n g f) s = .next t ∧ hbmLE t (cvAddr s n g + 112 + 4 * f) 4 = 0 ∧
       (∀ i, i < cvNB c f → blockStAt t c f i = { blockStAt s c f i with
         flags := (blockStAt s c f i).flags % 16
         chg := 0
         pend := 0 }) ∧
     ∀ k, ¬ (cvAddr s n g + 112 + 4 * f ≤ k ∧ k < cvAddr s n g + 116 + 4 * f) →
       ¬ (cvStatusAddr c f 0 ≤ k ∧ k < cvStatusAddr c f (cvNB c f)) → mapGet memDefault t.mem k = mapGet memDefault s.mem k)) ∧
  (∀ (s : State) (n : Nat) (x : FoldRun), n < 12 → (ueSt s n).fold = some x → (ueSt s n).jobs = [] →
    ∃ t, exec (.foldDone n) s = .next t ∧ counted s t UPDT_CNT_FOLDS n 0 1 ∧ (ueSt t n).fold = none) ∧
  (∀ (s : State) (n g : Nat), isHbmSite s.build n = true → calm s → recordApart s n g → s.press.imp < 2 ^ 48 →
    firstErr (actionErrs s ⟨0, s.press.imp, s.press.pt, 2, n, 0, g⟩) = .ok →
    (let c := cvRec s n g
     ∃ t, exec (.precondInstall n g) s = .next t ∧
       (fullBlocks s c = [] → counted s t UPDT_CNT_INSTALL_EMPTY n 0 1 ∧ t.mem = s.mem) ∧
       (fullBlocks s c ≠ [] → counted s t UPDT_CNT_INSTALLS n 0 1 ∧
         hbmLE t (cvAddr s n g + 96) 8 = (cvGen c + 1) % 2 ^ 64 ∧
         ∀ f i, f < 2 → i < cvNB c f →
           if (blockStAt s c f i).flag 1 then (blockStAt t c f i).slot = 1 - (blockStAt s c f i).slot ∧
             (blockStAt t c f i).flag 1 = false ∧ (blockStAt t c f i).installed = s.press.imp
           else blockStAt t c f i = blockStAt s c f i))) ∧
  ∀ (s : State) (r : Requester) (a n : Nat), viewsMet s a n ≠ [] → rangeHeld s a n = false →
    firstErr (readErrs s r a n) = .ok → calm s →
    exec (.viewRead r a n) s = .next { s with
      out := .memData r a 0 ((readLocal s a n).map Prod.fst) (List.replicate n false) :: s.out }

/-! ### Update Engines -/

/-- Every instruction of an update program, met by the running update's vector: its effect on the vector, then the next
instruction; after the last one the vector's results are written and the chunk's next vector enters. The arithmetic is
FP32, rounded to nearest even. PROG_DATA_WRITE stores a word of program memory and moves PROG_ADDR on. -/
def Obligations.UpdateInstructionsRun : Prop :=
  (∀ o ∈ ueRows, ∀ (s : State) (n : Nat) (r : UeRun), n < 12 → (ueSt s n).run = some r → r.phase = .vector → r.pc < r.prog.length →
    uOp (r.prog.getD r.pc 0) = o.2 → calm s →
    (let v := ueStep s n r (r.prog.getD r.pc 0)
     ∃ t, exec (o.1 n) s = .next t ∧ counted s t UPDT_UCNT n 2 (v.nonfin - r.nonfin) ∧
       counted s t UPDT_UCNT n 1 (v.clamps - r.clamps) ∧
       (r.pc + 1 < r.prog.length → (ueSt t n).run = some { v with pc := r.pc + 1 } ∧ t.mem = s.mem) ∧
       (r.pc + 1 = r.prog.length → v.elem + 64 < v.chunkBase + chunkElems v.rec_ v.chunk →
         (ueSt t n).run = some { v with
           elem := v.elem + 64
           pc := 0
           regs := ueRegs0
           wn := []
           outs := [] } ∧ t.mem = memAfter s.mem (outWrites s v.outs)))) ∧
  (∀ (s : State) (n : Nat) (r : UeRun) (w i : Nat), i < 64 → r.regs.length = 32 →
    (let x := v32 (ueReg r (uVa w) i).1
     let y := v32 (if uBs w then ueScalar r (uVb w) else ueReg r (uVb w) i).1
     let z := v32 (if uCs w then ueScalar r (uVc w) else ueReg r (uVc w) i).1
     let out := (ueReg (ueStep s n r w) (uVd w) i).1
     (uOp w = 0x04 → out = rne32 (xAdd x y)) ∧ (uOp w = 0x05 → out = rne32 (xSub x y)) ∧
       (uOp w = 0x06 → out = rne32 (xMul x y)) ∧ (uOp w = 0x07 → out = rne32 (xDiv x y)) ∧
       (uOp w = 0x08 → out = rne32 (xAdd (xMul x y) z)) ∧ (uOp w = 0x09 → out = rne32 (xMax x y)) ∧
       (uOp w = 0x0A → out = rne32 (xMin x y)) ∧ (uOp w = 0x0B → out = rne32 (xSqrt x)) ∧
       (uOp w = 0x0C → out = rne32 (xRsqrt x)) ∧
       (uOp w = 0x0F → out = if vPredHolds (uSub w) x y then 0x3F80_0000 else 0) ∧
       ∀ v, v < 32 → v ≠ uVd w → ueReg (ueStep s n r w) v i = ueReg r v i)) ∧
  ∀ (s : State) (r : Requester) (n v : Nat), isHbmSite s.build n = true → v < 2 ^ 32 → s.syn = [] → flipArmed s (.prog n) = false →
    accepted s r (siteReg n 1 0x050) 4 v = true →
    ∃ t, exec (.progDataWrite r n v) s = .next t ∧
      t.mem = mapPut memDefault s.mem (muBase (.prog n) + 4 * fv s UPDT_PROG_ADDR n) (leBytes 4 v) ∧
      fv t UPDT_PROG_ADDR n = (fv s UPDT_PROG_ADDR n + 1) % 4096

/-- UPDATE_RUN, by UPD_CMD or from the command window, queues an update; a free pipeline starts it or records its fault.
UPDATE_DONE writes the group's STEP, counts the update and frees the pipeline. LEDGER_STAGED marks an entry's state as staged;
LEDGER_WRITEBACK_DONE frees the entry. -/
def Obligations.UpdatesBeginAndEnd : Prop :=
  (∀ (s : State) (r : Requester) (n g : Nat), isHbmSite s.build n = true → g < 1024 → accepted s r (siteReg n 1 0x064) 4 (2 ^ 12 + g) = true →
    ∃ t, exec (.updateRun n (some r) g) s = .next t ∧
      (ueIdle s n = false → (ueSt t n).jobs = (ueSt s n).jobs ++ [.update g none]) ∧
      (ueIdle s n = true → ueInService s n = true → unitResting s (.ue n) = false → (ueSt s n).jobs = [] →
        riHolds s g = false → (ueSt t n).jobs = [] ∧
          ((ueSt t n).run.isSome = true ∨ (fb t UPDT_PGF_VALID n = true ∧ pending t (updtPg n) 1)))) ∧
  (∀ (s : State) (n g : Nat) (x : WinRec) (rest : List WinRec), n < 12 → fifoOf s (16 + n) = x :: rest →
    recLE x.bytes 0 1 = 2 → firstErr (ueRecErrs s n x.bytes) = .ok → ueIdle s n = false →
    ∃ t, exec (.updateRun n none g) s = .next t ∧ fifoOf t (16 + n) = rest ∧
      (ueSt t n).jobs = (ueSt s n).jobs ++ [.update (recLE x.bytes 2 2) none]) ∧
  (∀ (s : State) (n : Nat) (r : UeRun), n < 12 → (ueSt s n).run = some r → r.phase = .finished → (ueSt s n).jobs = [] →
    (ueSt s n).freeze = false → calm s → inSiteHbm n (pgAddr s n r.group) 256 = true →
    ∃ t, exec (.updateDone n) s = .next t ∧ (ueSt t n).run = none ∧ counted s t UPDT_UCNT n 0 1 ∧
      hbmLE t (pgAddr s n r.group + 224) 8 = r.step % 2 ^ 64) ∧
  (∀ (s : State) (n e : Nat), n < 12 → (ueSt s n).run = none → ldState s n e = 1 → ldStaged s n e = false →
    e < fv s UPDT_LEDGER_COUNT n → ldFind s n (ldGroup s n e) (ldChunk s n e) 3 = none → calm s →
    inSiteHbm n (ldHead s n e) 64 = true →
    ∃ t, exec (.ledgerStaged n e) s = .next t ∧ ldState t n e = 1 ∧ ldStaged t n e = true) ∧
  ∀ (s : State) (n e : Nat), n < 12 → (ueSt s n).run = none → ldState s n e = 3 → e < fv s UPDT_LEDGER_COUNT n → calm s →
    inSiteHbm n (ldHead s n e) 64 = true →
    ∃ t, exec (.ledgerWritebackDone n e) s = .next t ∧ ldState t n e = 0 ∧ (ueSt t n).run = none

/-- FETCH begins a fetch at its first chunk; FETCH_CANCEL ends those that wait for a digest with no deadline, FETCH_TIMEOUT one
whose deadline is reached. A digest of the expected step lets the chunk be read; a chunk whose digest agrees is stored and
the next one begins, one that does not is read again, then from its owner. VERIFIED notes the verifier's copy with the owner. -/
def Obligations.FetchesVerifyChunks : Prop :=
  (∀ (s : State) (r : Requester) (n : Nat), isHbmSite s.build n = true → stagedType s UPDT_CMD_W n = 1 →
    accepted s r (siteReg n 1 0x0B0) 4 1 = true →
    (let x := stagedRec s UPDT_CMD_W n 16
     ∃ t, exec (.fetch n (some r)) s = .next t ∧
       (feN x = 0 → (ueSt t n).fetches = (ueSt s n).fetches) ∧
       (feN x ≠ 0 → (ueSt t n).fetches = (ueSt s n).fetches ++ [⟨x, feFirst x, none, 0,
         if recLE x 6 2 = 0 then none else some (instant (s.press.imp + recLE x 6 2) 0), 0, 0, 0, none, 1⟩]))) ∧
  (∀ (s : State) (r : Requester) (n : Nat), isHbmSite s.build n = true → accepted s r (siteReg n 1 0x064) 4 (3 * 2 ^ 12) = true →
    ∃ t, exec (.fetchCancel r n) s = .next t ∧
      (ueSt t n).fetches = (ueSt s n).fetches.filter fun f => f.deadline.isSome || f.digest.isSome) ∧
  (∀ (s : State) (n i d e : Nat) (f : Fetch), n < 12 → (ueSt s n).fetches[i]? = some f → f.deadline = some d →
    reached ((timeTo e).run s) d = true →
    ∃ t, exec (.fetchTimeout n i e) s = .next t ∧ (ueSt t n).fetches = (ueSt s n).fetches.eraseIdx i) ∧
  (∀ (s : State) (n i : Nat) (f : Fetch) (a : RemoteAns), n < 12 → (ueSt s n).fetches[i]? = some f → f.digest = none →
    fetchHeld s f.rec_ = false → gaNode (feOwnerDig f.rec_ + 32 * f.chunk) ≠ nodeId s →
    reachable s (gaNode (feOwnerDig f.rec_ + 32 * f.chunk)) = true → a.code = 0 → recLE a.data 8 6 = feStep f.rec_ →
    bit (recLE a.data 14 2) 2 = false →
    ∃ t, exec (.fetchDigestPoll n i a) s = .next t ∧
      (ueSt t n).fetches = (ueSt s n).fetches.set i { f with digest := some (recLE a.data 0 8) }) ∧
  (∀ (s : State) (n i d : Nat) (f : Fetch) (a : RemoteAns), n < 12 → (ueSt s n).fetches[i]? = some f → f.digest = some d →
    fetchHeld s f.rec_ = false → gaNode (feFrom f + f.chunk * 2 ^ 20) ≠ nodeId s →
    reachable s (gaNode (feFrom f + f.chunk * 2 ^ 20)) = true → a.code = 0 →
    ∃ t, exec (.fetchChunkReadDone n i a) s = .next t ∧
      (f.reads < 2 → crc64 a.data = d → f.chunk + 1 < feFirst f.rec_ + feN f.rec_ → counted s t UPDT_UCNT n 5 1 ∧
        (ueSt t n).fetches = (ueSt s n).fetches.set i { f.note 1 with
          chunk := f.chunk + 1
          digest := none
          reads := 0 } ∧
        ∀ u off, feSrc f.rec_ ≠ feOwnerW f.rec_ → placeOf s (feDst f.rec_ + f.chunk * 2 ^ 20) = .mem u off →
          writeRefused s (feDst f.rec_ + f.chunk * 2 ^ 20) a.data.length = false → flipArmed s u = false →
          t.mem = memAfter s.mem [⟨u, off, a.data, []⟩]) ∧
      (f.reads = 0 → crc64 a.data ≠ d → counted s t UPDT_UCNT n 6 1 ∧ (ueSt t n).fetches = (ueSt s n).fetches.set i { f with
        reads := 1
        refetches := f.refetches + 1 }) ∧
      (f.reads = 1 → crc64 a.data ≠ d → counted s t UPDT_UCNT n 7 1 ∧ pending t (updtPg n) 18 ∧
        (ueSt t n).fetches = (ueSt s n).fetches.set i { f with reads := 2 })) ∧
  ∀ (s : State) (dig step node addr : Nat),
    (hbmLE s (dig + 8) 6 ≠ step → exec (.verified dig step node addr) s = .next s) ∧
    ∀ g c, (let n := dig / 2 ^ 36
      let r := pgRec s n g
      g < fv s UPDT_PG_COUNT n → fb s UPDT_PG_EN n = true → pgValid r = true → c < pgChunks r → dig = digAddr r c →
        hbmLE s (dig + 8) 6 = step → calm s → inSiteHbm n dig 32 = true →
        ∃ t, exec (.verified dig step node addr) s = .next t ∧ hbmLE t (dig + 16) 2 = node % 2 ^ 16 ∧
          hbmLE t (dig + 24) 8 = addr % 2 ^ 64 ∧ hbmLE t dig 8 = hbmLE s dig 8)

/-- UPD_CMD_AUDIT asks for an audit of a group. AUDIT_CHUNK counts a chunk that agrees with its digest and changes nothing; a
chunk that does not and has no verifier is lost. AUDIT_READBACK_DONE restores a chunk from a copy that agrees, or loses it.
SNAPSHOT_FREEZE waits for the running update of its group, else freezes at once; SNAPSHOT_STREAM_DONE releases the group. -/
def Obligations.AuditsAndSnapshots : Prop :=
  (∀ (s : State) (r : Requester) (n g : Nat), isHbmSite s.build n = true → g < 1024 → accepted s r (siteReg n 1 0x064) 4 (2 ^ 13 + g) = true →
    ∃ t, exec (.updCmdAudit r n g) s = .next t ∧ (ueSt t n).audits = (ueSt s n).audits ++ [(g, 0)]) ∧
  (∀ (s : State) (n g c : Nat), isHbmSite s.build n = true → ueIdle s n = true → (ueSt s n).jobs = [] →
    ueInService s n = true → (ueSt s n).audits = [(g, c)] → riHolds s g = false → calm s →
    (let r := pgRec s n g
     let d := digAddr r c
     let same := crc64 (hbmBytesAt s (pgA r 32 + c * 2 ^ 20) (2 * chunkElems r c)) = hbmLE s d 8
     ∃ t, exec (.auditChunk n) s = .next t ∧ (ueSt t n).audits = (if c + 1 < pgChunks r then [(g, c + 1)] else []) ∧
       (hbmLE s (d + 8) 6 ≠ pgStep r % 2 ^ 48 → t.mem = s.mem ∧ fv t UPDT_UCNT n 8 = fv s UPDT_UCNT n 8) ∧
       (hbmLE s (d + 8) 6 = pgStep r % 2 ^ 48 → counted s t UPDT_UCNT n 8 1 ∧
         (same → t.mem = s.mem ∧ fv t UPDT_UCNT n 9 = fv s UPDT_UCNT n 9) ∧
         (¬ same → counted s t UPDT_UCNT n 9 1)))) ∧
  (∀ (s : State) (n g c : Nat) (l : List (Nat × Nat)) (a : RemoteAns), n < 12 → (ueSt s n).readback = (g, c) :: l →
    (let r := pgRec s n g
     let d := digAddr r c
     let node := bits (hbmLE s (d + 16) 2) 13 0
     let good := a.code = 0 ∧ a.data.length = 2 * chunkElems r c ∧ crc64 a.data = hbmLE s d 8 ∧ true ∉ a.marks
     ∃ t, exec (.auditReadbackDone n a) s = .next t ∧ (ueSt t n).readback = l ∧
       (bit (digFlags s r c) 0 = false → memKept s t) ∧
       (bit (digFlags s r c) 0 = true → gaNode (node * 2 ^ 50 + gaLocal (hbmLE s (d + 24) 8)) ≠ nodeId s →
         reachable s (gaNode (node * 2 ^ 50 + gaLocal (hbmLE s (d + 24) 8))) = true →
         (good → counted s t UPDT_UCNT n 10 1 ∧ pending t (updtPg n) 19) ∧
         (¬ good → counted s t UPDT_UCNT n 11 1 ∧ pending t (updtPg n) 20)))) ∧
  (∀ (s : State) (n g : Nat), isHbmSite s.build n = true → riHolds s g = false →
    firstErr (actionErrs s ⟨0, s.press.imp, s.press.pt, 3, n, 0, g⟩) = .ok →
    ∃ t, exec (.snapshotFreeze n g) s = .next t ∧
      ((∃ r, (ueSt s n).run = some r ∧ r.group = g) → (ueSt t n).freeze = true ∧ t.mem = s.mem) ∧
      ((∀ r, (ueSt s n).run = some r → r.group ≠ g) → fv t UPDT_SNAP_STATE n = 1 ∧ (ueSt t n).freeze = false ∧
        ∃ x, (ueSt t n).snap = some x ∧ x.group = g ∧ x.sent = false)) ∧
  ∀ (s : State) (n : Nat) (x : Snap), n < 12 → (ueSt s n).snap = some x → fv s UPDT_SNAP_STATE n = 1 →
    fb s UPDT_SNAP_ETH n = false →
    ∃ t, exec (.snapshotStreamDone n) s = .next t ∧ (ueSt t n).snap = none ∧ fv t UPDT_SNAP_STATE n = 0 ∧
      pending t (updtPg n) 21

/-! ### Solver Engines -/

/-- SOLV_CONTEXT_ENABLE makes a context IDLE with nothing kept from before, SOLV_CONTEXT_DISABLE makes it OFF. GO, posted or
from the stream, makes its context PENDING, or waits behind the running solve. ENTRY, VECTOR and STRUCT records leave the
stream and load the batch's entries, vectors and structure. -/
def Obligations.ContextsAreLoaded : Prop :=
  (∀ (s : State) (r : Requester) (e c v : Nat), e < 16 → c < 32 → v < 2 ^ 32 → bits v 2 0 ≠ 0 →
    accepted s r (solvReg e (0x800 + 0x40 * c)) 4 v = true →
    ∃ t, exec (.solvContextEnable r e c v) s = .next t ∧ cState t e c = 1 ∧ cMode t e c = bits v 2 0 ∧
      ctxAt t e c = SolvCtx.init ∧ cRaise t e c = 0 ∧ fb t SOLV_A_VALID e c = false ∧ fb t SOLV_PREV_VALID e c = false ∧
      ∀ d, d < 32 → d ≠ c → ctxAt t e d = ctxAt s e d ∧ cState t e d = cState s e d) ∧
  (∀ (s : State) (r : Requester) (e c v : Nat), e < 16 → c < 32 → v < 2 ^ 32 → bits v 2 0 = 0 →
    accepted s r (solvReg e (0x800 + 0x40 * c)) 4 v = true → cMode s e c ≠ 0 →
    ∃ t, exec (.solvContextDisable r e c v) s = .next t ∧ cState t e c = 0 ∧ cMode t e c = 0 ∧ ctxAt t e c = SolvCtx.init) ∧
  (∀ (s : State) (e : Nat) (rec_ : List Byte), e < 16 →
    (let c := bits (recLE rec_ 1 1) 4 0
     let act := fun t : State => if (ctxAt s e c).solve.isSome then
         ctxAt t e c = { ctxAt s e c with next := some (parseGo rec_) } ∧ cState t e c = cState s e c
       else ctxAt t e c = { ctxAt s e c with go := some (parseGo rec_) } ∧ cState t e c = 2
     (∀ r, rec_ = stagedRec s SOLV_GO_W e 8 → accepted s r (solvReg e 0x068) 4 1 = true →
       ∃ t, exec (.goRec e (some r)) s = .next t ∧ act t) ∧
     ∀ w rest, fifoOf s (solvWin e) = w :: rest → w.bytes = rec_ → srB rec_ 0 = 4 → firstErr (goErrs s e rec_) = .ok →
       ∃ t, exec (.goRec e none) s = .next t ∧ act t ∧ fifoOf t (solvWin e) = rest ∧
         fv t SOLV_STREAM_LEVEL e = min 4096 rest.length)) ∧
  ∀ (s : State) (e : Nat) (w : WinRec) (rest : List WinRec), e < 16 → fifoOf s (solvWin e) = w :: rest →
    (let r := w.bytes
     let c := srCtx r
     let k := srSys r
     let x := ctxAt s e c
     cState s e c < 3 → firstErr (srErrs s e r) = .ok →
     (srB r 0 = 1 → ∃ t, exec (.entryRec e) s = .next t ∧ fifoOf t (solvWin e) = rest ∧
       (srB r 4 = 1 → (rowAt (ctxAt t e c) k (srB r 8)).vals = (rowAt x k (srB r 8)).vals.set
         ((rowAt x k (srB r 8)).cols.findIdx (· == srB r 9)) (fxOf (batchXa s e c x.raise_) (v32 (recLE r 12 4))).1)) ∧
     (srB r 0 = 2 → ∃ t, exec (.vectorRec e) s = .next t ∧ fifoOf t (solvWin e) = rest ∧ ∀ i, i < srB r 6 →
       (let row := rowAt (ctxAt t e c) k (srB r 5 + i)
        let v := (fxOf (batchXv s e c x.raise_) (v32 (recLE r (8 + 4 * i) 4))).1
        (srB r 4 % 4 = 0 → row.b = some v) ∧ (srB r 4 % 4 = 1 → row.lo = some v) ∧ (srB r 4 % 4 = 2 → row.hi = some v))) ∧
     (srB r 0 = 3 → ∃ t, exec (.structRec e) s = .next t ∧ fifoOf t (solvWin e) = rest ∧
       (rowAt (ctxAt t e c) k (srB r 4)).cols = structCols (rowAt x k (srB r 4)).cols r ∧
       (rowAt (ctxAt t e c) k (srB r 4)).changed = true))

/-- SOLVE_START takes the runnable context of highest priority, of these the one of earliest deadline; SOLVER_PREEMPT stops a
context of lower priority, which keeps its solve; SOLVER_ITERATION counts an iteration, and a solve that reaches its limit
delivers; SOLVER_DEADLINE ends a solve with the best it has; SOLVER_DELIVERY reports it and makes room for the next. -/
def Obligations.SolvesRunToDelivery : Prop :=
  (∀ (s : State) (e n c : Nat) (ans : List RemoteAns), e < 16 →
    (let u := (acts [timeTo n, wakeContexts e]).run s
     bestContext u e = some c → gangFree u e c = true →
     (∀ d, d < 32 → cState u e d = 3 ∨ cState u e d = 5 → fv u SOLV_PRIO e d ≤ fv u SOLV_PRIO e c ∧
       (fv u SOLV_PRIO e d = fv u SOLV_PRIO e c → ctxDeadline u e c ≤ ctxDeadline u e d)) ∧
     ∃ t, exec (.solveStart e n ans) s = .next t ∧ (cState u e c = 3 → (ctxAt t e c).solve.isSome = true) ∧
       ((cState t e c = 4 ∧ (solvSt t e).run = some (e, c)) ∨ (cState u e c = 3 ∧ cState t e c = 6)) ∧
       (cState u e c = 5 → ctxAt t e c = ctxAt s e c ∧ cState t e c = 4))) ∧
  (∀ (s : State) (e n b : Nat), e < 16 → b < 32 →
    (let u := (acts [timeTo n, wakeContexts e]).run s
     (solvSt u e).run = some (e, b) →
     (∃ c, c < 32 ∧ c ≠ b ∧ (cState u e c = 3 ∨ cState u e c = 5) ∧ fv u SOLV_PRIO e b < fv u SOLV_PRIO e c) →
     ∃ t, exec (.solverPreempt e n) s = .next t ∧ (solvSt t e).run = none ∧ cState t e b = 5 ∧ counted s t SOLV_SCNT e 5 1 ∧
       fb t SOLV_RUN_VALID e = false ∧
       (ctxAt t e b).solve = (ctxAt s e b).solve.map fun v => { v with preempted := true })) ∧
  (∀ (s : State) (e c : Nat) (v : Solve), e < 16 → c < 32 → (solvSt s e).run = some (e, c) → cState s e c = 4 →
    (ctxAt s e c).solve = some v →
    ∃ t w, exec (.solverIteration e) s = .next t ∧ (ctxAt t e c).solve = some w ∧
      (cMode s e c = 4 ∨ cMode s e c = 5 → w.iters = v.iters + 1 ∧
        (fv s SOLV_ITERS e c ≤ v.iters + 1 → cState t e c = 6 ∧ (solvSt t e).run = none)) ∧
      (cMode s e c ≠ 4 → cMode s e c ≠ 5 → w.outcome = some 1 ∧ cState t e c = 6 ∧ (solvSt t e).run = none)) ∧
  (∀ (s : State) (e c n : Nat) (g : SolvGo), e < 16 → c < 32 → (ctxAt s e c).go = some g → g.noDeadline = false →
    reached ((timeTo n).run s) g.deadline = true → 2 ≤ cState s e c → cState s e c ≠ 6 →
    ∃ t v, exec (.solverDeadline e c n) s = .next t ∧ cState t e c = 6 ∧ (ctxAt t e c).solve = some v ∧
      v.outcome = some (if ((ctxAt s e c).solve.any (·.best.isSome)) ∧ (cMode s e c = 4 ∨ cMode s e c = 5) then 2
        else if (ctxAt s e c).prev.isSome then 3 else 4)) ∧
  ∀ (s : State) (e c o : Nat) (g : SolvGo) (v : Solve), e < 16 → c < 32 → (ctxAt s e c).solve = some v →
    (ctxAt s e c).go = some g → v.outcome = some o →
    (let q := curvSrc s e c
     let waits := fv s SOLV_SRC_KIND e c = 1 ∧ o ≤ 3 ∧ shadowBound s q.1 q.2.1 q.2.2.1 q.2.2.2 = true
     (waits → ∃ t, exec (.solverDelivery e c) s = .next t ∧ t.solvs = s.solvs ∧ counted s t UPDT_CNT_DELIVERY_WAIT q.1 0 1) ∧
     (¬ waits → ∃ t, exec (.solverDelivery e c) s = .next t ∧ (ctxAt t e c).solve = none ∧
       (ctxAt t e c).go = (ctxAt s e c).next ∧ (ctxAt t e c).next = none ∧
       cState t e c = (if (ctxAt s e c).next.isSome then 2 else 1) ∧ fv t SOLV_DELIVERED e c = s.press.imp % 2 ^ 48 ∧
       fv t SOLV_STATUS e c = (delivOf s (ctxAt s e c) v o).status % 2 ^ 64 ∧
       (1 ≤ o → o ≤ 5 → fv t SOLV_SCNT e (o - 1) = min (2 ^ 32 - 1) (fv s SOLV_SCNT e (o - 1) + 1)) ∧
       (3 ≤ o → (ctxAt t e c).prev = (ctxAt s e c).prev) ∧ (o = 3 ∨ o = 4 → pending t (solvPg e) 17) ∧
       (g.evt = true → pending t (solvPg e) 16)))

/-! ### Exact reduction -/

/-- SHEAF_OPEN opens a sheaf under its tag, or reports a zero-length one at once; SHEAF_ABORT, SHEAF_TIMEOUT and
EPILOGUE_TIMEOUT close it and leave its lineage without a value; a lineage written by LINE_DATA_WRITE holds its value. -/
def Obligations.SheavesOpenAndClose : Prop :=
  (∀ (s : State) (r : Requester) (n : Nat), isLinkSite s.build n = true → stagedType s SHEF_OPEN_W 0 = 1 →
    accepted s r (siteReg n 0 0x0A0) 4 1 = true →
    (let x := stagedRec s SHEF_OPEN_W 0 16
     ∃ t, exec (.sheafOpen (some r) n) s = .next t ∧
       (opLen x = 0 → t.shef = s.shef) ∧
       (opLen x ≠ 0 → (∀ m ∈ s.shef.parked ++ s.shef.held, msgTag m.2 ≠ (opTag x, opGen x)) →
         fv t SHEF_OPEN_CNT = s.shef.open_.length + 1 ∧
         t.shef.open_.map (·.tag) = s.shef.open_.map (·.tag) ++ [opTag x] ∧
         ∃ y, sheafOf t (opTag x) = some y ∧ y.gen = opGen x ∧ y.rec_ = x ∧ y.grp = groupRec s (recLE x 7 1)))) ∧
  (∀ (s : State) (r : Requester) (n : Nat) (x : Sheaf), isLinkSite s.build n = true → stagedType s SHEF_OPEN_W 0 = 2 →
    accepted s r (siteReg n 0 0x0A0) 4 1 = true → sheafOf s (opTag (stagedRec s SHEF_OPEN_W 0 16)) = some x →
    ∃ t, exec (.sheafAbort (some r) n) s = .next t ∧ sheafOf t x.tag = none ∧ (x.tag, x.gen) ∈ t.shef.closed ∧
      (lineOf t (opLine x.rec_)).1 = false) ∧
  (∀ (s : State) (tag n : Nat) (x : Sheaf), sheafOf s tag = some x → opNoDl x.rec_ = false →
    reached ((timeTo n).run s) (opDeadline x.rec_) = true →
    x.phase = .line ∨ x.phase = .read ∨ (∃ k, x.phase = .scale k ∨ x.phase = .stage k) →
    ∃ t, exec (.sheafTimeout tag n) s = .next t ∧ sheafOf t tag = none ∧ counted s t SHEF_SHCNT 0 3 1 ∧
      (lineOf t (opLine x.rec_)).1 = false) ∧
  (∀ (s : State) (tag n k : Nat) (x : Sheaf), sheafOf s tag = some x → x.phase = .epi k →
    x.delivered + fv s SHEF_EPI_LIMIT ≤ s.press.imp →
    ∃ t, exec (.epilogueTimeout tag n) s = .next t ∧ sheafOf t tag = none ∧ (lineOf t (opLine x.rec_)).1 = false) ∧
  ∀ (s : State) (r : Requester) (n v : Nat), isLinkSite s.build n = true → v < 2 ^ 32 →
    accepted s r (siteReg n 0 0x0AC) 4 v = true →
    ∃ t, exec (.lineDataWrite r n v) s = .next t ∧ lineOf t (fv s SHEF_LINE_SEL) = (bit v 31, bits v 15 0) ∧
      ∀ l, l ≠ fv s SHEF_LINE_SEL → lineOf t l = lineOf s l

/-- What becomes of a sheaf's messages and stages: a block before its sheaf is parked, one that agrees joins its sum, one that
does not ends the sheaf with SCALE_MISMATCH, one of a closed generation is counted as stale; the last scale round fixes S; the
source read whole is converted to carriers; a full stage's sums are the next one's input; a delivery writes the shard; the
last epilogue round closes the tag. -/
def Obligations.SheavesReduce : Prop :=
  (∀ (s : State) (node : Nat) (tag gen st idx e w clip : Nat) (mm : Bool) (cls : List Nat) (vals : List Int) (marks : List Bool),
    (let m := SheafMsg.block tag gen st idx e w clip mm cls vals marks
     (sheafOf s tag = none → (tag, gen) ∉ s.shef.closed → parkBytes (s.shef.parked ++ [(node, m)]) ≤ fv s SHEF_PARK_MIB * 2 ^ 20 →
       ∃ t, exec (.sheafBlockReceive node m) s = .next t ∧ t.shef.parked = s.shef.parked ++ [(node, m)] ∧
         t.shef.open_ = s.shef.open_ ∧ memKept s t) ∧
     (sheafOf s tag = none → (tag, gen) ∈ s.shef.closed → ∃ t, exec (.sheafBlockReceive node m) s = .next t ∧
       counted s t SHEF_SHCNT 0 5 1 ∧ t.shef = s.shef) ∧
     ∀ x e0, sheafOf s tag = some x → x.gen = gen → x.expo = some e0 →
       (mm = false → toInt 16 e = e0 → w = shWidth x.rec_ st → ∃ t, exec (.sheafBlockReceive node m) s = .next t ∧
         sheafOf t tag = some (addBlock x st idx clip vals cls marks)) ∧
       (mm = true ∨ toInt 16 e ≠ e0 ∨ w ≠ shWidth x.rec_ st → ∃ t, exec (.sheafBlockReceive node m) s = .next t ∧
         sheafOf t tag = none ∧ counted s t SHEF_SHCNT 0 4 1))) ∧
  (∀ (s : State) (node tag gen k e : Nat) (x : Sheaf), sheafOf s tag = some x → x.gen = gen → x.phase = .scale k →
    (let got := (x.scaleGot ++ [(k, e)]).filter fun p => p.1 == k
     (got.length + 1 < gP x.grp k → ∃ t, exec (.scaleRoundReceive node tag gen k e) s = .next t ∧
       sheafOf t tag = some { x with scaleGot := x.scaleGot ++ [(k, e)] }) ∧
     (gP x.grp k ≤ got.length + 1 → (∀ j, k < j → j ≤ 3 → gP x.grp j = 1) → x.early = [] →
       ∃ t y, exec (.scaleRoundReceive node tag gen k e) s = .next t ∧ sheafOf t tag = some y ∧ y.phase = .read ∧
         (let m := got.foldl (fun m p => maxExp m p.2) x.eMax
          y.expo = some (max (-256) (min 255 ((if m = noExp then 0 else toInt 16 m) + opLeading x.rec_ + 2 - (shV x : Int)))))))) ∧
  (∀ (s : State) (tag : Nat) (x : Sheaf) (c : Int), sheafOf s tag = some x → x.phase = .read → x.expo = some c → calm s →
    ∃ t y, exec (.sheafSourceReadDone tag) s = .next t ∧ sheafOf t tag = some y ∧ y.srcDone = true ∧
      y.vals = (shSource s x).map (fun a => (toCarrier x c (shValue x a.1)).1) ∧
      y.phase = match ([1, 2, 3] : List Nat).find? fun k => gP x.grp k != 1 with
        | some k => .stage k
        | none => .ready) ∧
  (∀ (s : State) (tag k : Nat) (x : Sheaf), sheafOf s tag = some x → x.phase = .stage k →
    (stageFull x k = false → exec (.sheafStageDone tag) s = .next s) ∧
    (stageFull x k = true → ∃ t y, exec (.sheafStageDone tag) s = .next t ∧ sheafOf t tag = some y ∧
      y.vals = (List.range (shPart x k / 512)).flatMap (fun b =>
        ((x.accs.find? fun a => a.stage == k && a.idx == b).map (·.vals)).getD []) ∧
      y.phase = match (([1, 2, 3] : List Nat).filter (k < ·)).find? fun j => gP x.grp j != 1 with
        | some j => .stage j
        | none => .ready)) ∧
  (∀ (s : State) (tag off : Nat) (u : MemUnit) (x : Sheaf), sheafOf s tag = some x → x.phase = .ready → opRoot x.rec_ = false →
    placeOf s (opDst x.rec_) = .mem u off → writeRefused s (opDst x.rec_) (shBytes x).length = false → opSts x.rec_ = 0 →
    true ∉ x.marks → calm s → (∀ n, u = .hbm n → fb s UPDT_PG_EN n = false ∧ fb s UPDT_CURV_EN n = false) →
    ∃ t, exec (.sheafDelivery tag) s = .next t ∧ counted s t SHEF_SHCNT 0 0 1 ∧
      t.mem = memAfter s.mem [⟨u, off, (shBytes x).map Prod.fst, []⟩] ∧
      ((∀ k ∈ [1, 2, 3], gP x.grp k = 1) → sheafOf t tag = none)) ∧
  ∀ (s : State) (node tag gen k : Nat) (a : SheafEpi) (x : Sheaf), sheafOf s tag = some x → x.gen = gen → x.phase = .epi k →
    (let got := (x.epiGot ++ [(k, a)]).filter fun p => p.1 == k
     (got.length + 1 < gP x.grp k → ∃ t, exec (.epilogueRoundReceive node tag gen k a.eRes a.eCon a.flags a.clip a.nonfin) s = .next t ∧
       sheafOf t tag = some { x with epiGot := x.epiGot ++ [(k, a)] }) ∧
     (gP x.grp k ≤ got.length + 1 → (∀ j, k < j → j ≤ 3 → gP x.grp j = 1) →
       ∃ t, exec (.epilogueRoundReceive node tag gen k a.eRes a.eCon a.flags a.clip a.nonfin) s = .next t ∧
         sheafOf t tag = none ∧ (tag, gen) ∈ t.shef.closed))

/-! ### Memory tiers -/

/-- SET, MOVE and CLEAR, staged or from a memory window, write the entry of their handle and nothing else of memory: SET
gives it tier, size and address with GEN 0, MOVE marks it MOVING and starts the move, CLEAR leaves it not VALID. -/
def Obligations.PlacementCommandsWriteEntries : Prop :=
  ∀ (s : State) (r : Requester) (site : Nat) (rec_ : List Byte), rec_.length = 64 → calm s →
    (let h := ocHandle rec_
     let e := optRec s h
     let ty := recLE rec_ 0 1
     let cmd := fun q => if ty = 0x11 then exec (.optSet q site) s else if ty = 0x12 then exec (.optMove q site) s
       else exec (.optClear q site) s
     inSiteHbm (optAddr s h / 2 ^ 36) (optAddr s h) 64 = true → 0x11 ≤ ty → ty ≤ 0x13 →
     (let done := fun t : State =>
        memOutside s t [(optAddr s h, 64)] ∧
        (ty = 0x11 → otValid (optRec t h) = bit (recLE rec_ 8 1) 0 ∧ otTier (optRec t h) = bits (recLE rec_ 8 1) 3 1 ∧
          otMoving (optRec t h) = false ∧ otGen (optRec t h) = 0 ∧ otSize (optRec t h) = recLE rec_ 16 8 ∧
          otAddr (optRec t h) = recLE rec_ 24 8 ∧ counted s t OPTB_OCNT 0 0 1 ∧ t.moves = s.moves) ∧
        (ty = 0x12 → otValid (optRec t h) = true ∧ otTier (optRec t h) = otTier e ∧ otMoving (optRec t h) = true ∧
          otGen (optRec t h) = otGen e ∧ otSize (optRec t h) = otSize e ∧ otAddr (optRec t h) = otAddr e ∧
          recLE (optRec t h) 32 8 = recLE rec_ 16 8 ∧ recLE (optRec t h) 40 1 = recLE rec_ 8 1 ∧
          counted s t OPTB_OCNT 0 1 1 ∧ t.moves = s.moves ++ [(h, ocDone rec_)]) ∧
        (ty = 0x13 → otValid (optRec t h) = false ∧ otTier (optRec t h) = otTier e ∧ otGen (optRec t h) = otGen e ∧
          otSize (optRec t h) = otSize e ∧ otAddr (optRec t h) = otAddr e ∧ t.moves = s.moves)
      (rec_ = optStaged s → stagedType s OPTB_OPT_W 0 = ty → accepted s r (mgdReg 0xA 0x0A0) 4 1 = true →
        ∃ t, cmd (some r) = .next t ∧ done t) ∧
      ∀ w rest, fifoOf s site = w :: rest → w.bytes = rec_ → w.marked = false → firstErr (optErrs s rec_) = .ok →
        ∃ t, cmd none = .next t ∧ done t ∧ fifoOf t site = rest))

/-- MOVE_DONE: the copy is made and the entry flips: tier, address, GEN and one, MOVING 0; a side that refuses leaves the
entry where it was, counted and raised. PREFETCH leaves the window and waits; PREFETCH_START binds it to its entry, ends it
with NO_OBJ, or lets it wait for a move; PREFETCH_DONE copies its data to DST and ends it. -/
def Obligations.MovesAndPrefetchesCopyData : Prop :=
  (∀ (s : State) (h d : Nat) (ans : List RemoteAns), s.moves.find? (fun m => m.1 == h) = some (h, d) → pfWriting s h = false →
    calm s → inSiteHbm (optAddr s h / 2 ^ 36) (optAddr s h) 64 = true →
    (let e := optRec s h
     let n := otSize e
     let dest := recLE e 32 8
     let flipped := fun t : State => otValid (optRec t h) = otValid e ∧ otTier (optRec t h) = recLE e 40 1 ∧
       otMoving (optRec t h) = false ∧ otGen (optRec t h) = (otGen e + 1) % 2 ^ 32 ∧ otSize (optRec t h) = n ∧
       otAddr (optRec t h) = dest ∧ t.moves = s.moves.filter fun m => m.1 != h
     (otTier e = 0 → recLE e 40 1 = 0 → isHbmAddr s (otAddr e) = true → isHbmAddr s dest = true → rangeErrs s (otAddr e) n = [] →
       rangeErrs s dest n = [] → writeRefused s dest n = false → viewsMet s (otAddr e) n = [] →
       rangesMeet (dest, n) (optAddr s h, 64) = false →
       ∃ t, exec (.moveDone h ans) s = .next t ∧ flipped t ∧ copied s t (otAddr e) dest n ∧
         memOutside s t [(optAddr s h, 64), (dest, n)]) ∧
     (recLE e 40 1 = 4 → ∃ t, exec (.moveDone h ans) s = .next t ∧ flipped t ∧ memOutside s t [(optAddr s h, 64)]) ∧
     (otTier e = 0 → recLE e 40 1 < 4 → rangeErrs s (otAddr e) n ≠ [] →
       ∃ t, exec (.moveDone h ans) s = .next t ∧ otTier (optRec t h) = 0 ∧ otAddr (optRec t h) = otAddr e ∧
         otGen (optRec t h) = otGen e ∧ otMoving (optRec t h) = false ∧ counted s t OPTB_OCNT 0 2 1 ∧ pending t optbPg 16 ∧
         t.moves = s.moves.filter fun m => m.1 != h))) ∧
  (∀ (s : State) (site : Nat) (w : WinRec) (rest : List WinRec), site < 12 → fifoOf s site = w :: rest → w.marked = false →
    recLE w.bytes 0 1 = 1 →
    (firstErr (pfErrs s site w.bytes) = .ok → pfLen w.bytes ≠ 0 → ∃ t, exec (.prefetch site) s = .next t ∧
      fifoOf t site = rest ∧ pfsOf t site = pfsOf s site ++ [⟨w.bytes, none, false⟩] ∧
      (pfFlag w.bytes 0 = true → reached s (pfGate w.bytes) = true → counted s t HBMC_HCNT site 1 1)) ∧
    (firstErr (pfErrs s site w.bytes) ≠ .ok → ∃ t, exec (.prefetch site) s = .next t ∧ fifoOf t site = rest ∧
      pfsOf t site = pfsOf s site ∧ counted s t (hdrErrCnt .hbmc) site 0 1)) ∧
  (∀ (s : State) (site i n : Nat) (p : Pf), site < 12 → (pfsOf s site)[i]? = some p → p.bound = none → pfRunning s site < 32 →
    (pfFlag p.rec_ 0 = true → reached ((timeTo n).run s) (pfGate p.rec_) = true) → calm s →
    (let r := p.rec_
     let e := optRec s (pfObj r)
     let known := fb s OPTB_OPT_EN && otValid e && decide (pfOffset r + pfLen r ≤ otSize e)
     (known = true → otTier e ≠ 4 → (otMoving e = false ∨ pfWrite r = false) → ∃ t, exec (.prefetchStart site i n) s = .next t ∧
       counted s t HBMC_HCNT site 0 1 ∧
       pfsOf t site = (pfsOf s site).set i { p with bound := some (otTier e, otGen e, otAddr e) } ∧ t.mem = s.mem) ∧
     (known = true → otTier e ≠ 4 → otMoving e = true → pfWrite r = true → ∃ t, exec (.prefetchStart site i n) s = .next t ∧
       fv t HBMC_HCNT site 0 = fv s HBMC_HCNT site 0 ∧ counted s t HBMC_HCNT site 2 (b2n (!p.waited)) ∧
       pfsOf t site = (pfsOf s site).set i { p with waited := true }) ∧
     (known = false → ∃ t, exec (.prefetchStart site i n) s = .next t ∧ counted s t HBMC_HCNT site 0 1 ∧
       counted s t HBMC_HCNT site 4 1 ∧ pending t (hbmcPg site) 17 ∧ pfsOf t site = (pfsOf s site).eraseIdx i ∧
       (pfSts r ≠ 0 → writeRefused s (pfSts r) 32 = false → isHbmAddr s (pfSts r) = true → hbmLE t (pfSts r) 1 = 3)))) ∧
  ∀ (s : State) (site i gen a : Nat) (p : Pf) (ans : List RemoteAns), site < 12 → (pfsOf s site)[i]? = some p →
    p.bound = some (0, gen, a) → pfWrite p.rec_ = false → calm s →
    (let from_ := a + pfOffset p.rec_
     let n := pfLen p.rec_
     let dest := pfDst p.rec_
     awaitsZeros s dest n = false → awaitsZeros s from_ n = false → pfSts p.rec_ = 0 →
     (isHbmAddr s from_ = true → isHbmAddr s dest = true → rangeErrs s from_ n = [] → rangeErrs s dest n = [] →
       writeRefused s dest n = false → viewsMet s from_ n = [] →
       ∃ t, exec (.prefetchDone site i ans) s = .next t ∧ pfsOf t site = (pfsOf s site).eraseIdx i ∧ copied s t from_ dest n ∧
         memOutside s t [(dest, n)] ∧ fv t HBMC_HCNT site 4 = fv s HBMC_HCNT site 4) ∧
     (rangeErrs s from_ n ≠ [] → ∃ t, exec (.prefetchDone site i ans) s = .next t ∧
       pfsOf t site = (pfsOf s site).eraseIdx i ∧ counted s t HBMC_HCNT site 4 1 ∧ pending t (hbmcPg site) 17))

/-- REMOTE_ACCESS: an allowed read answers the data, an allowed write stores it; one that the PEER page does not allow is
counted, its node kept and PEER_DENIED raised, and changes no memory. LEND_WINDOW_ENABLE makes the window's bytes unwritten:
they read 0; LEND_WINDOW_RECLAIM disables it. -/
def Obligations.OtherDevicesReachLentMemory : Prop :=
  (∀ (s : State) (node a n : Nat), rangeHeld s a n = false → calm s → firstErr (remoteErrs s node a n false) = .ok →
    exec (.remoteAccess node (.readReq a n)) s = .next ((sendMsg node .none (.readResp 0 ((readLocal s a n).map Prod.fst)
      ((readLocal s a n).map Prod.snd))).run s)) ∧
  (∀ (s : State) (node a off : Nat) (u : MemUnit) (data : List Byte), rangeHeld s a data.length = false → calm s →
    firstErr (remoteErrs s node a data.length true) = .ok → placeOf s a = .mem u off →
    ∃ t, exec (.remoteAccess node (.write a data [])) s = .next t ∧ t.mem = memAfter s.mem [⟨u, off, data, []⟩]) ∧
  (∀ (s : State) (node a : Nat) (data : List Byte), rangeHeld s a data.length = false → node < 2 ^ 14 →
    firstErr (remoteErrs s node a data.length true) = ePeerDenied →
    ∃ t, exec (.remoteAccess node (.write a data [])) s = .next t ∧ counted s t PEER_CNT_DENIED 0 0 1 ∧
      fv t PEER_DENIED_NODE = node ∧ pending t peerPg 16 ∧ memKept s t) ∧
  (∀ (s : State) (r : Requester) (w v : Nat), w < 16 → v < 2 ^ 32 → bit v 31 = true → fb s PEER_LW_EN 0 w = false →
    fv s PEER_LW_BASE 0 w % 4096 = 0 → accepted s r (mgdReg 9 (0x108 + 16 * w)) 4 v = true →
    (let x := lwRange s w
     ∃ t, exec (.lendWindowEnable r w v) s = .next t ∧ fb t PEER_LW_EN 0 w = true ∧ fv t PEER_LW_BORROWER 0 w = bits v 13 0 ∧
       fb t PEER_LW_WRITE_OK 0 w = bit v 15 ∧ memOutside s t [x] ∧
       ∀ i, i < x.2 → mapGet memDefault t.mem (x.1 + i) = 0 ∧
         isWritten t (.hbm (x.1 / 2 ^ 36)) (hbmOff x.1 + i) = false)) ∧
  ∀ (s : State) (r : Requester) (w v : Nat), w < 16 → v < 2 ^ 32 → bit v 31 = false →
    accepted s r (mgdReg 9 (0x108 + 16 * w)) 4 v = true →
    ∃ t, exec (.lendWindowReclaim r w v) s = .next t ∧ fb t PEER_LW_EN 0 w = false ∧ memKept s t

/-! ### Flash and data integrity -/

/-- FLASH_WRITE takes a page into the buffer, where a read finds it; a full buffer holds the writer; a worn or unmapped region
answers its code. FLASH_READ answers a page. FLASH_RELOCATION, FLASH_PROGRAM_FAIL, FLASH_PROGRAM_COMPLETE and FLUSH_DONE count,
retire, drain and report. -/
def Obligations.FlashKeepsPages : Prop :=
  (∀ (s : State) (a : Nat) (data : List Byte), a % 4096 = 0 → data.length = 4096 →
    (flashWriteCode s a 4096 = .ok → s.flash.wbuf < wbufPages → ∃ t, exec (.flashWrite a data) s = .next t ∧
      (∀ i, i < 4096 → mapGet memDefault t.mem (flashKey a + i) = data.getD i 0) ∧ memOutside s t [(flashKey a, 4096)] ∧
      t.flash.wbuf = s.flash.wbuf + 1 ∧ fv t FLSH_WBUF_MIB = ceilDiv (s.flash.wbuf + 1) 256 ∧
      t.out = .flashData a 0 [] [] :: s.out) ∧
    (flashWriteCode s a 4096 = .ok → wbufPages ≤ s.flash.wbuf → ∃ t, exec (.flashWrite a data) s = .next t ∧
      counted s t FLSH_FCNT 0 4 1 ∧ memKept s t ∧ t.flash = s.flash ∧ t.out = s.out) ∧
    (flashWriteCode s a 4096 ≠ .ok → exec (.flashWrite a data) s = .next { s with
      out := .flashData a (errNum (flashWriteCode s a 4096)) [] [] :: s.out })) ∧
  (∀ (s : State) (a : Nat) (u : Bool), a % 4096 = 0 → (flashRegion a 4096).isSome = true →
    ∃ t, exec (.flashRead a u) s = .next t ∧ memKept s t ∧ t.flash = s.flash ∧
      t.out = .flashData a 0 ((flashRead s a 4096).map Prod.fst) ((flashRead s a 4096).map fun b => u || b.2) :: s.out ∧
      (u = true → counted s t FLSH_FCNT 0 3 1) ∧ (u = false → t.regs = s.regs)) ∧
  (∀ (s : State) (wear slc : Bool) (reads corr top bot : Nat),
    (let lim := if slc then fv s FLSH_RD_LIMIT_SLC else fv s FLSH_RD_LIMIT_TLC
     (if wear then fv s FLSH_WEAR_SPREAD < top - bot else lim ≤ reads ∨ 75 < corr) →
      ∃ t, exec (.flashRelocation wear slc reads corr top bot) s = .next t ∧ counted s t FLSH_FCNT 0 (b2n wear) 1 ∧
        memKept s t ∧ t.flash = s.flash ∧ t.out = s.out)) ∧
  (∀ (s : State) (slc : Bool) (spare : Nat), spare < 65536 → s.flash.spare.1 < 65536 → s.flash.spare.2 < 65536 →
    ∃ t, exec (.flashProgramFail slc spare) s = .next t ∧ counted s t FLSH_FCNT 0 2 1 ∧ pending t flshPg 17 ∧ memKept s t ∧
      fv t FLSH_SPARE_PCT = min spare (if slc then s.flash.spare.1 else s.flash.spare.2) ∧
      (spare < 200 → flashState s (b2n slc) = 0 → flashState t (b2n slc) = 1 ∧ pending t flshPg 16) ∧
      (200 ≤ spare → flashState t (b2n slc) = flashState s (b2n slc))) ∧
  (∀ (s : State) (n : Nat), ∃ t, exec (.flashProgramComplete n) s = .next t ∧ t.flash.wbuf = s.flash.wbuf - n ∧ memKept s t ∧
    t.out = s.out) ∧
  ∀ (s : State) (full : Bool) (us : Nat), s.flash.refusing = true →
    ∃ t, exec (.flushDone full us) s = .next t ∧ t.flash.refusing = false ∧ t.flash.undo = [] ∧ t.flash.wbuf = 0 ∧
      fb t FLSH_PLF_VALID = true ∧ fb t FLSH_PLF_COMPLETE = full ∧ fv t FLSH_PLF_US = min 65535 us ∧
      (full = true → memKept s t)

/-- PATROL_SCRUB corrects a single correctable word where it stands, counts it and raises CE. SCRUB_GO clears the summary and
starts a pass, which SCRUB_DONE ends; a pass over memory with nothing to correct changes none of it. FLIP_ARM arms a mask, and
the next write takes it. PSTS_CLR clears POISONED. -/
def Obligations.IntegrityCommandsCorrectAndReport : Prop :=
  (∀ (s : State) (n off w c b : Nat) (last : Bool), n < 12 → fb s INTG_PATROL_EN (176 + n) = true → fb s BKGD_ACT_EN = true →
    fb s INTG_SCRUB_BUSY (176 + n) = false → selPresent s (176 + n) 0 = true → off % 4096 = 0 → off + 4096 ≤ muSize (.hbm n) →
    (let k := muBase (.hbm n) + w
     off ≤ w → w < off + 4096 → w % 8 = 0 → classify false c = .corr (some b) → (∀ j, synAt s j = if j = k then c else 0) →
     writeFirst s (.hbm n) w = false → isWritten s (.hbm n) w = true → mapGet writtenDefault s.written k = false →
     ∃ t, exec (.patrolScrub (176 + n) 0 off last) s = .next t ∧ (∀ j, synAt t j = 0) ∧ rawWord t k = rawWord s k ^^^ 2 ^ b ∧
       memOutside s t [(k, 8)] ∧ counted s t INTG_ICNT (176 + n) 0 1 ∧ pending t (intgPage (176 + n)) 16 ∧
       fv t INTG_PATROL_PASSES (176 + n) = (fv s INTG_PATROL_PASSES (176 + n) + b2n last) % 2 ^ 32)) ∧
  (∀ (s : State) (r : Requester) (i v : Nat), i < 256 → v < 2 ^ 32 → intgHere s i = true → bit v 4 = true →
    accepted s r (intgReg s i 0x078) 4 v = true →
    ∃ t, exec (.scrubGo r i v) s = .next t ∧ fv t INTG_SUM_WORDS i = 0 ∧ (∀ k, k < 4 → fv t INTG_SUM i k = 0) ∧
      fv t INTG_SUM_FIRST i = 2 ^ 64 - 1 ∧ fv t INTG_SUM_LAST i = 2 ^ 64 - 1 ∧ memKept s t ∧
      fv t INTG_SCRUB_TGT i = bits v 3 0 ∧ fb t INTG_SCRUB_BUSY i = (fv s INTG_SCRUB_LEN i != 0)) ∧
  (∀ (s : State) (i : Nat), i < 256 → fb s INTG_SCRUB_BUSY i = true →
    ∃ t, exec (.scrubDone i) s = .next t ∧ fb t INTG_SCRUB_BUSY i = false ∧
      (fb s INTG_SCRUB_EVT i = true → pending t (intgPage i) 22) ∧
      (s.syn = [] → (∀ u, anyWriteFirst s u = false) → memKept s t ∧ ∀ k, k < 3 → fv t INTG_SUM i k = fv s INTG_SUM i k)) ∧
  (∀ (s : State) (r : Requester) (i v : Nat), i < 256 → v < 2 ^ 32 → intgHere s i = true → bit v 4 = true →
    accepted s r (intgReg s i 0x04C) 4 v = true →
    ∃ t, exec (.flipArm r i v) s = .next t ∧ fb t INTG_FLIP_ARMED i = true ∧ fv t INTG_FLIP_TGT i = bits v 3 0 ∧ memKept s t) ∧
  (∀ (s : State) (r : Requester) (n off : Nat) (data : List Byte), n < 12 → data.length = 32 → off % 32 = 0 →
    placeOf s (muBase (.hbm n) + off) = .mem (.hbm n) off → rangeHeld s (muBase (.hbm n) + off) 32 = false →
    firstErr (writeErrs s r (muBase (.hbm n) + off) 32) = .ok → flipArmed s (.hbm n) = true → s.syn = [] →
    (let k := muBase (.hbm n) + off
     ∃ t, exec (.memoryWrite r k data []) s = .next t ∧ fb t INTG_FLIP_ARMED (176 + n) = false ∧
       pending t (intgPage (176 + n)) 23 ∧ rawWord t k = leNat (data.take 8) ^^^ fv s INTG_FLIP_LO (176 + n) ∧
       synAt t k = checkOf cols72 (fv s INTG_FLIP_LO (176 + n)) ^^^ fv s INTG_FLIP_HI (176 + n) ∧ ∀ j, j ≠ k → synAt t j = 0)) ∧
  ∀ (s : State) (r : Requester) (i v : Nat), i < 256 → v < 2 ^ 32 → intgHere s i = true → bit v 1 = true →
    accepted s r (intgReg s i 0x040) 4 v = true →
    ∃ t, exec (.pstsClr r i v) s = .next t ∧ memKept s t ∧ (i < 160 → fb t (hdrPoisoned .galy) i = false) ∧
      (176 ≤ i → i < 188 → fb t (hdrPoisoned .hbmc) (i - 176) = false) ∧
      ∀ p : PageRef, p.idx < 256 → p.blk ≠ .galy → p.blk ≠ .hbmc → fb t (hdrPoisoned p.blk) p.idx = fb s (hdrPoisoned p.blk) p.idx

/-! ### Device links -/

/-- LINK_CTL releases what its ACK covers, takes the credits it grants, and answers a NAK with a replay; the eighth start of one
replay takes the link DOWN. A codeword that cannot be corrected is counted, and NAKs go out. A message in sequence is consumed
here or goes on over its route; one out of sequence is dropped. A refusal reaches the access that was refused. -/
def Obligations.LinksCarryMessagesInOrder : Prop :=
  (∀ (s : State) (l : Nat) (c : LinkCtl), l < 256 →
    (let st := linkSt s l
     let kept := st.store.filter fun x => !seqLe (lastSeq x) c.ack
     (linkState s l ≠ 2 → exec (.linkCtl l c) s = .next s) ∧
     (linkState s l = 2 → c.nak = none → c.notices = [] → st.waiting = [] → ∃ t, exec (.linkCtl l c) s = .next t ∧
       (linkSt t l).store = kept ∧ (linkSt t l).grant = c.retrainGrant ∧
       (linkSt t l).farReq = (if c.retrainReq then some c.lane else none) ∧
       (∀ i, i < c.credits.length → mapGet (fun _ => 0) (linkSt t l).granted i = c.credits.getD i 0 % 65536) ∧
       (c.retrainReq = true → laneFree s l = true → .retrain l true c.lane ∈ t.out) ∧
       t.regs = s.regs ∧ t.mem = s.mem ∧ ∀ j, j ≠ l → linkSt t j = linkSt s j) ∧
     ∀ q, linkState s l = 2 → c.nak = some q →
       (st.replay = none → ∃ t, exec (.linkCtl l c) s = .next t ∧ counted s t LINK_LCNT l 2 1 ∧ linkState t l = 2 ∧
         (linkSt t l).replay = some (q, 1) ∧ (linkSt t l).replaying = true ∧
         ∀ x ∈ kept, seqLe q (lastSeq x) = true → .message l x.2 ∈ t.out) ∧
       (st.replay = some (q, 7) → st.replaying = false → seqLe q c.ack = false →
         ∃ t, exec (.linkCtl l c) s = .next t ∧ linkState t l = 3 ∧ counted s t LINK_LCNT l 5 1 ∧ pending t (linkPg l) 16))) ∧
  (∀ (s : State) (l : Nat), linkState s l = 2 → ∃ t, exec (.codewordUncorrectable l) s = .next t ∧ counted s t LINK_LCNT l 1 1 ∧
    linkSt t l = { linkSt s l with naking := true } ∧ (∀ j, j ≠ l → linkSt t j = linkSt s j) ∧ memKept s t ∧ t.out = s.out) ∧
  (∀ (s : State) (l q : Nat) (m : FabMsg),
    (linkState s l ≠ 2 ∨ (linkSt s l).rxSeq ≠ q → exec (.messageReceive l q m) s = .next s) ∧
    (linkState s l = 2 → (linkSt s l).rxSeq = q → messageHeld s m = false →
      (badFlit m = true → ∃ t, exec (.messageReceive l q m) s = .next t ∧ counted s t LINK_LDCNT 0 3 1 ∧
        linkSt t l = { linkSt s l with naking := true } ∧ t.out = s.out) ∧
      (badFlit m = false → m.dst = nodeId s → ∃ t, exec (.messageReceive l q m) s = .next t ∧
        ∀ a c n, m.body = .token a c n → c < 256 → incDelivered s t a c n ∧
          (linkSt t l).rxSeq = (q + m.flits) % 65536 ∧ (linkSt t l).naking = false) ∧
      ∀ k ph, badFlit m = false → m.dst ≠ nodeId s → route s m.src m.dst = some (k, ph) → (ph % 2 = 1 ∨ m.phase < ph) →
        (linkSt s k).waiting = [] → m.flits ≤ credit s k (poolOf s k m.vc ph) →
        ∃ t, exec (.messageReceive l q m) s = .next t ∧ .message k { m with phase := ph } ∈ t.out ∧
          (linkSt t l).rxSeq = (q + m.flits) % 65536 ∧ t.regs = s.regs ∧ t.mem = s.mem)) ∧
  ∀ (s : State) (node code : Nat), node < 2 ^ 14 →
    (∀ p q n, q < 7 → ∃ t, exec (.refusalReceive node (.op p q n) code) s = .next t ∧
      (queueSt t p q).inflight = ((queueSt s p q).inflight.map fun f => if f.seq = n then { f with
        flags := f.flags ||| 2
        aux := if f.aux = 0 then code else f.aux } else f) ∧ t.regs = s.regs ∧ t.mem = s.mem) ∧
    (∀ site d i f, (ueSt s site).fetches.findIdx? (fun f => feDst f.rec_ == d) = some i → (ueSt s site).fetches[i]? = some f →
      exec (.refusalReceive node (.fetch site d) code) s =
        if f.digest.isNone then exec (.fetchDigestPoll site i ⟨code, [], []⟩) s
        else exec (.fetchChunkReadDone site i ⟨code, [], []⟩) s) ∧
    (∀ site, exec (.refusalReceive node (.audit site) code) s = exec (.auditReadbackDone site ⟨code, [], []⟩) s) ∧
    ∀ site d i p b, site < 12 → (pfsOf s site).findIdx? (fun p => p.bound.isSome && pfDst p.rec_ == d) = some i →
      (pfsOf s site)[i]? = some p → p.bound = some b →
      ∃ t, exec (.refusalReceive node (.prefetch site d) code) s = .next t ∧ pfsOf t site = (pfsOf s site).eraseIdx i ∧
        counted s t HBMC_HCNT site 4 1 ∧ pending t (hbmcPg site) 17

/-- LANE_RETRAIN asks the far end for a retrain; granted in an idle bubble it moves the link to 15 lanes, else 10 µs later it is
aborted; LANE_DONE brings the lane back, disables it, or takes the link DOWN. -/
def Obligations.LanesRetrainInBubbles : Prop :=
  (∀ (s : State) (loc k lane : Nat), isLinkSite s.build loc = true → k < 6 →
    firstErr (actionErrs s ⟨0, 0, 0, 5, loc, k, lane⟩) = .ok →
    (let l := 6 * linkOrd s.build loc + k
     ∃ t, exec (.laneRetrain loc k lane) s = .next t ∧ linkSt t l = { linkSt s l with
         req := some lane
         grant := false } ∧ t.out = .retrain l false lane :: s.out ∧ t.regs = s.regs ∧ t.mem = s.mem)) ∧
  (∀ (s : State) (l k : Nat), l < 256 → k < 16 →
    (laneReady s l = some k → windowOpen s = true ∧ linkState s l = 2 ∧ fb s LINK_RETRAINING l = false ∧
      ∃ t, exec (.laneRetrainStart l) s = .next t ∧ fb t LINK_RETRAINING l = true ∧ fv t LINK_LANE l = k ∧
        fv t LINK_LANES l = 15 ∧ counted s t LINK_LCNT l 3 1 ∧ (linkSt t l).req = none ∧ linkState t l = 2 ∧ memKept s t) ∧
    (laneReady s l = none → exec (.laneRetrainStart l) s = .next s)) ∧
  (∀ (s : State) (l : Nat), l < 256 → (linkSt s l).req.isSome = true → laneReady s l = none →
    ∃ t, exec (.retrainAbort l) s = .next t ∧ linkSt t l = { linkSt s l with
        req := none
        grant := false } ∧ counted s t LINK_LCNT l 4 1 ∧ pending t (linkPg l) 19 ∧ fv t LINK_LANES l = fv s LINK_LANES l) ∧
  ∀ (s : State) (l : Nat) (ok : Bool), l < 256 →
    (fb s LINK_RETRAINING l = false → exec (.laneDone l ok) s = .next s) ∧
    (fb s LINK_RETRAINING l = true → linkState s l = 2 → ∃ t, exec (.laneDone l ok) s = .next t ∧ fb t LINK_RETRAINING l = false ∧
      pending t (linkPg l) 18 ∧
      (ok = true → fv t LINK_LANES l = (if fb s LINK_DEGRADED l then 15 else 16) ∧ linkState t l = 2) ∧
      (ok = false → fb s LINK_DEGRADED l = false → fb t LINK_DEGRADED l = true ∧ fv t LINK_LANES l = fv s LINK_LANES l) ∧
      (ok = false → fb s LINK_DEGRADED l = true → linkState t l = 3))

/-- A link trains when its die is in service, nothing but links limits the level and it is not held: RETRAIN, AUTO_RETRAIN and
TRAINING_DONE move it to TRAINING, UP, FAULT or DOWN; DISABLE holds it DOWN, ADMIT lets it carry routed messages, silence takes
it DOWN. A spare takes its target's ID at the impression's edge, and members note it. -/
def Obligations.LinksTrainFallAndRejoin : Prop :=
  (∀ (s : State) (r : Requester) (l : Nat), l < nLinks s.build → linkState s l ≠ 5 → accepted s r (linkReg s l 0x114) 4 4 = true →
    ∃ t, exec (.linkRetrain r l) s = .next t ∧ linkState t l =
        (if linkDieInService s (linkSite s.build l) && limitConds s % 32 == 0 then 1 else 3) ∧
      fb t LINK_LDISABLE l = false ∧ (linkState s l = 2 → counted s t LINK_LCNT l 5 1 ∧ pending t (linkPg l) 16)) ∧
  (∀ (s : State) (r : Requester) (l : Nat), l < nLinks s.build → accepted s r (linkReg s l 0x114) 4 1 = true →
    ∃ t, exec (.linkDisable r l) s = .next t ∧ fb t LINK_LDISABLE l = true ∧ linkState t l ≠ 1 ∧ linkState t l ≠ 2 ∧
      linkState t l ≠ 4 ∧ (linkState s l = 2 → linkState t l = 3)) ∧
  (∀ (s : State) (r : Requester) (l : Nat), l < nLinks s.build → accepted s r (linkReg s l 0x114) 4 2 = true →
    linkState s l = 2 ∧ ∃ t, exec (.admitLink r l) s = .next t ∧ (linkSt t l).joined = true ∧ linkState t l = 2 ∧
      counted s t LINK_LDCNT 0 1 (b2n (!(linkSt s l).joined)) ∧ memKept s t) ∧
  (∀ (s : State) (l node far role delay loop : Nat) (ok : Bool), l < nLinks s.build → node < 2 ^ 14 → far < 64 → delay < 2 ^ 32 →
    loop < 2 ^ 32 → linkState s l = 1 → (fb s ENET_LINK_UP = true ∨ level s ≠ 3) →
    (let ex := exec (.linkTrainingDone l ok node far role delay loop) s
     (ok = false ∨ mayTrain s l = false → ∃ t, ex = .next t ∧ linkState t l = 3 ∧ t.links = s.links ∧ memKept s t) ∧
     (ok = true → mayTrain s l = true → cabledOk s l node far role = false → ∃ t, ex = .next t ∧ linkState t l = 4 ∧
       fv t LINK_FAR_NODE l = node ∧ fv t LINK_FAR_LINK l = far ∧ pending t (linkPg l) 20 ∧ t.links = s.links) ∧
     (ok = true → mayTrain s l = true → cabledOk s l node far role = true → ∃ t, ex = .next t ∧ linkState t l = 2 ∧
       fv t LINK_LANES l = 16 ∧ fb t LINK_DEGRADED l = false ∧ fv t LINK_LDELAY l = delay ∧ fv t LINK_LLOOP l = loop ∧
       fv t LINK_RATE_CAP l = rateCap loop ∧ pending t (linkPg l) 17 ∧
       ((linkSt s l).needAdmit = false → (linkSt t l).joined = true) ∧
       ((linkSt s l).needAdmit = true → linkSt t l = linkSt s l)))) ∧
  (∀ (s : State) (l : Nat), l < 256 →
    (linkState s l = 2 → ∃ t, exec (.linkRxSilence l) s = .next t ∧ linkState t l = 3 ∧ counted s t LINK_LCNT l 5 1 ∧
      pending t (linkPg l) 16 ∧ fv t LINK_LANES l = 0) ∧
    (linkState s l ≠ 2 → exec (.linkRxSilence l) s = .next s)) ∧
  (∀ (s : State) (l : Nat), ∃ t, exec (.linkAutoRetrain l) s = .next t ∧
    (linkState s l = 3 → mayTrain s l = true → linkState t l = 1 ∧ regsKept s t [fldKey LINK_LSTATE l 0]) ∧
    (linkState s l ≠ 3 ∨ mayTrain s l = false → t = s)) ∧
  (∀ (s : State) (rel : Bool) (target h : Nat), s.fab.assume = some (rel, target, h) → target < 2 ^ 14 → unsync s = false →
    h ≤ s.press.imp → ∃ t, exec .assumeTakeEffect s = .next t ∧ t.fab.assume = none ∧
      t.fab.assumed = (if rel then none else some target) ∧ nodeId t = (if rel then homeId s else target) ∧
      fb t LINK_NODE_SPARE = rel ∧ ∀ l, l < nLinks s.build → pending t (linkPg l) 22) ∧
  ∀ (s : State) (target node h : Nat), ∃ t, exec (.assume target node h) s = .next t ∧
    (target = node → t = { s with fab := { s.fab with remaps := [] } }) ∧
    (target ≠ node → t = { s with fab := { s.fab with
      remaps := (s.fab.remaps.filter fun r => r.member != nodeMember target) ++ [⟨nodeMember target, h⟩] } })

/-! ### The plan and reimposition -/

/-- PLAN_ENABLE takes the plan at PLAN_BASE, PLAN_DISABLE leaves it off. At an edge the slot of the impression shows in PLAN_SLOT
and raises its counter on its tiles; PLAN_PREFETCH_INCREMENT raises the slot's prefetch counter once, when its instant is
reached. -/
def Obligations.PlansRaiseTheirSlots : Prop :=
  (∀ (s : State) (r : Requester), calm s → accepted s r (mgdReg 1 0x310) 4 (2 ^ 31) = true →
    ∃ t, exec (.planEnable r) s = .next t ∧ fb t PRES_PLAN_EN = true ∧ memKept s t ∧
      (fb s PRES_PLAN_EN = false → t.press = { s.press with plan := some (planRead s) }) ∧
      (fb s PRES_PLAN_EN = true → t.press = s.press)) ∧
  (∀ (s : State) (r : Requester), accepted s r (mgdReg 1 0x310) 4 0 = true →
    ∃ t, exec (.planDisable r) s = .next t ∧ fb t PRES_PLAN_EN = false ∧ t.press = s.press ∧ memKept s t) ∧
  (∀ (s : State) (n i : Nat) (e : EdgePlan) (p : Plan) (x : PlanSlot), s.press.edge = some e → unsync s = false →
    s.press.synced = false → s.press.plan = some p → fb s PRES_PLAN_EN = true → slotAt s p e.imp = some (i, x) → i < 4096 →
    x.vstage < 8 → x.kind < 8 → x.micro < 65536 →
    ∃ t, exec (.impressionEdge n) s = .next t ∧ t.press.slot = some (p, x) ∧ t.press.pfDue = x.pfEn ∧
      fb t PRES_PLAN_VALID = true ∧ fv t PRES_PLAN_SLOTN = i ∧ fv t PRES_PLAN_VSTAGE = x.vstage ∧ fv t PRES_PLAN_KIND = x.kind ∧
      fv t PRES_PLAN_MICRO = x.micro ∧
      ∀ c, slotCounter p x = some c → ∀ k ∈ maskTiles c.2, ⟨srcOf presPage, k, c.1, 1⟩ ∈ t.flights) ∧
  ∀ (s : State) (n : Nat),
    (let u := (timeTo n).run s
     (∀ p x, u.press.slot = some (p, x) → u.press.pfDue = true → reached u (instant u.press.imp x.pfPoint) = true →
       ∃ t, exec (.planPrefetchIncrement n) s = .next t ∧ t.press = { u.press with pfDue := false } ∧
         t.flights = s.flights ++ (maskTiles (p.masks.getD x.pfStage 0)).map fun k =>
           ⟨srcOf presPage, k, p.cntBase + 18 + x.pfStage, 1⟩) ∧
     ((∀ p x, u.press.slot = some (p, x) → u.press.pfDue = false ∨ reached u (instant u.press.imp x.pfPoint) = false) →
       exec (.planPrefetchIncrement n) s = .next u))

/-- REIMPOSITION_START lists the chunks this device must move, once RI_START is reached. REIMPOSITION_CHUNK_DONE reads one,
checks it against its old owner's digest and writes it to its new place. REIMPOSITION_COMPLETE installs the new table at RI_END,
or later with LATE where chunks are still to move. -/
def Obligations.ReimpositionMovesChunks : Prop :=
  (∀ (s : State) (n : Nat),
    (let u := (timeTo n).run s
     (calm s → fv s MGMT_RI_STATE = 1 → reached u (instant (fv s MGMT_RI_START) 0) = true →
       ∃ t, exec (.reimpositionStart n) s = .next t ∧ t.ri = ⟨riTasks u, []⟩ ∧ fv t MGMT_RI_STATE = 2 ∧
         fv t MGMT_RI_LEFT = (riTasks u).length % 2 ^ 32 ∧ memKept s t) ∧
     (fv s MGMT_RI_STATE ≠ 1 ∨ reached u (instant (fv s MGMT_RI_START) 0) = false →
       exec (.reimpositionStart n) s = .next u))) ∧
  (∀ (s : State) (k : RiTask) (l : List RiTask) (ans : List RemoteAns), fv s MGMT_RI_STATE = 2 → s.ri = ⟨k :: l, []⟩ →
    gaNode k.src = nodeId s → gaNode k.dig = nodeId s → calm s → (∀ n, n < 12 → fb s UPDT_CURV_EN n = false) → k.newDig = none →
    (let n := riLen s k
     let a := gaLocal k.src
     let buf := riBuf s k.dst 0
     isHbmAddr s a = true → isHbmAddr s (gaLocal k.dig) = true → isHbmAddr s buf = true → isHbmAddr s k.dst = true →
     rangeErrs s a n = [] → rangeErrs s (gaLocal k.dig) 32 = [] →
     crc64 ((readLocal s a n).map Prod.fst) = hbmLE s (gaLocal k.dig) 8 →
     (∀ x ∈ l, ¬ (gaNode x.src = nodeId s ∧ rangesMeet (gaLocal x.src, 2 ^ 20) (k.dst, n) = true)) →
     ∃ t, exec (.reimpositionChunkDone ans) s = .next t ∧ t.ri = ⟨l, []⟩ ∧ copied s t a k.dst n ∧
       memOutside s t [(buf, n), (k.dst, n)] ∧ counted s t MGMT_CNT_RI_CHUNKS 0 0 1 ∧ fv t MGMT_RI_LEFT = l.length % 2 ^ 32 ∧
       fb t MGMT_RI_FAILED = fb s MGMT_RI_FAILED)) ∧
  ∀ (s : State) (n : Nat), fv s MGMT_RI_STATE = 2 →
    (let u := (timeTo n).run s
     (reached u (instant (fv s MGMT_RI_END) 0) = false → exec (.reimpositionComplete n) s = .next u) ∧
     (reached u (instant (fv s MGMT_RI_END) 0) = true → (s.ri.left ≠ [] ∨ s.ri.staged ≠ []) →
       ∃ t, exec (.reimpositionComplete n) s = .next t ∧ fb t MGMT_RI_LATE = true ∧ fv t MGMT_RI_STATE = 2 ∧ t.ri = s.ri ∧
         (fb s MGMT_RI_LATE = false → pending t mgmtPage 17) ∧ fv t MGMT_IMP_BASE = fv s MGMT_IMP_BASE) ∧
     (reached u (instant (fv s MGMT_RI_END) 0) = true → s.ri = ⟨[], []⟩ →
       ∃ t, exec (.reimpositionComplete n) s = .next t ∧ fv t MGMT_RI_STATE = 0 ∧ fv t MGMT_IMP_BASE = fv s MGMT_RI_NEW_BASE ∧
         fv t MGMT_IMP_COUNT = fv s MGMT_RI_NEW_COUNT ∧ pending t mgmtPage 16))

/-! ### Ethernet and RDMA -/

/-- A frame that R387 does not list, or that finds a full buffer outside PFC_EN, is discarded and counted; a priority's share
of the buffer sends XOFF and XON. ARP, neighbour solicitations and echo requests for the device's own addresses are answered.
A pause holds the priorities in PFC_EN that it names; a CNP halves a queue pair's rate, which recovers in steps; PTP locks
after 16 good intervals and unlocks after 4 bad ones. -/
def Obligations.EthernetFramesAreServed : Prop :=
  (∀ (s : State) (f : EthFrame),
    (fb s ENET_LINK_UP = false → exec (.ethFrameReceive f) s = .next s) ∧
    (fb s ENET_LINK_UP = true → frameKept s f = false → ∃ t, exec (.ethFrameReceive f) s = .next t ∧ counted s t ENET_ECNT 0 0 1 ∧
      memKept s t ∧ t.eth.qps = s.eth.qps ∧ t.sessions = s.sessions ∧
      (let p := framePrio f
       (bit (fv s ENET_PFC_EN) p = true → bit s.eth.xoff p = false → 1048576 < f.fill → bit t.eth.xoff p = true ∧
         t.out = .pfc p true :: s.out ∧ counted s t ENET_ECNT 0 2 1) ∧
       (bit s.eth.xoff p = true → f.fill < 786432 → bit t.eth.xoff p = false ∧ t.out = .pfc p false :: s.out ∧
         counted s t ENET_ECNT 0 2 1)))) ∧
  (∀ (s : State) (a b : Nat), ∃ t, exec (.arpRequest a b) s = .next t ∧
    t = if fb s ENET_LINK_UP ∧ a ≠ 0 ∧ fv s ENET_IP4 = a then { s with out := .reply 0 b (beBytes 6 (fv s ENET_MAC)) :: s.out }
      else s) ∧
  (∀ (s : State) (a b : Nat), ∃ t, exec (.neighborSolicitation a b) s = .next t ∧
    t = if fb s ENET_LINK_UP ∧ a ≠ 0 ∧ ownIp6 s = a then { s with out := .reply 1 b (beBytes 6 (fv s ENET_MAC)) :: s.out }
      else s) ∧
  (∀ (s : State) (v6 : Bool) (a b : Nat) (d : List Byte), ∃ t, exec (.icmpEchoRequest v6 a b d) s = .next t ∧
    t = if fb s ENET_LINK_UP ∧ a ≠ 0 ∧ (if v6 then ownIp6 s else fv s ENET_IP4) = a then { s with out := .reply 2 b d :: s.out }
      else s) ∧
  (∀ (s : State) (named paused : Nat), fb s ENET_LINK_UP = true →
    ∃ t, exec (.pfcPauseReceive named paused) s = .next t ∧ counted s t ENET_ECNT 0 1 1 ∧ memKept s t ∧ t.out = s.out ∧
      ∀ i, i < 8 → bit t.eth.paused i = (if bit named i && bit (fv s ENET_PFC_EN) i then bit paused i else bit s.eth.paused i)) ∧
  (∀ (s : State) (q : Nat), q < 256 →
    (fb s ENET_LINK_UP = true → ∃ t, exec (.cnpReceive q) s = .next t ∧ counted s t ENET_ECNT 0 4 1 ∧
      qpOf t q = { qpOf s q with rate := (qpOf s q).rate / 2 } ∧ ∀ p, p ≠ q → qpOf t p = qpOf s p) ∧
    ∃ t, exec (.cnpRateRecovery q) s = .next t ∧ qpOf t q = { qpOf s q with rate := min 65536 ((qpOf s q).rate + 8192) } ∧
      (∀ p, p ≠ q → qpOf t p = qpOf s p) ∧ t.regs = s.regs ∧ t.mem = s.mem ∧ t.out = s.out) ∧
  ∀ (s : State) (o : Int), ∃ t, exec (.ptpSync o) s = .next t ∧ fv t ENET_PTP_OFFSET = ofInt 64 o ∧ memKept s t ∧
    (o.natAbs < 1000 → 15 ≤ s.eth.ptpGood → fb t ENET_PTP_LOCKED = true ∧ (fb s ENET_PTP_LOCKED = false → pending t enetPg 18)) ∧
    (1000 < o.natAbs → 3 ≤ s.eth.ptpBad → fb t ENET_PTP_LOCKED = false ∧ (fb s ENET_PTP_LOCKED = true → pending t enetPg 18)) ∧
    (o.natAbs < 1000 → s.eth.ptpGood < 15 → fb t ENET_PTP_LOCKED = fb s ENET_PTP_LOCKED ∧ t.eth.ptpGood = s.eth.ptpGood + 1 ∧
      t.eth.ptpBad = 0)

/-- Posts give a queue pair its context and a window its record, and a load brings one back to the staging registers. A WRITE,
READ or SEND in sequence that a window allows reaches memory and is acknowledged; a window that does not allow it answers Remote
Access Error and stops the queue pair; a SEND without a credit answers RNR. ACKs release packets, and the timeout sends them
again or stops the queue pair. -/
def Obligations.QueuePairsMoveData : Prop :=
  (∀ (s : State) (r : Requester) (v : Nat), v < 2 ^ 32 → accepted s r (mgdReg 2 0x0C0) 4 v = true →
    (let i := bits v 7 0
     let rec_ := if bit v 16 then winOf s i else (qpOf s i).ctx
     (bit v 31 = true → bit v 16 = false → ∃ t, exec (.qpContextPost r v) s = .next t ∧ (qpOf t i).ctx = ctxStaged s ∧
       (qcState (ctxStaged s) = 0 → qpOf t i = { Qp.init with ctx := ctxStaged s }) ∧
       (qcState (ctxStaged s) = 4 → qcState (qpOf s i).ctx ≠ 4 → (qpOf t i).unacked = [] ∧ counted s t ENET_ECNT 0 9 1 ∧
         pending t enetPg 17) ∧ ∀ j, j ≠ i → qpOf t j = qpOf s j) ∧
     (bit v 31 = true → bit v 16 = true → ∃ t, exec (.windowPost r v) s = .next t ∧ winOf t i = (ctxStaged s).take 32 ∧
       (∀ j, j ≠ i → winOf t j = winOf s j) ∧ t.eth.qps = s.eth.qps ∧ memKept s t) ∧
     (bit v 30 = true → rec_.length ≤ 64 → ∃ t, exec (.contextLoad r v) s = .next t ∧ t.eth = s.eth ∧ memKept s t ∧
       ∀ k, 4 * k + 4 ≤ rec_.length → fv t ENET_CTX_W 0 k = recLE rec_ (4 * k) 4))) ∧
  (∀ (s : State) (r : RdmaReq) (key va n : Nat) (data : List Byte) (w : List Byte) (u : MemUnit) (off : Nat), r.qp < 256 →
    fb s ENET_LINK_UP = true → (qcState (qpOf s r.qp).ctx = 2 ∨ qcState (qpOf s r.qp).ctx = 3) → r.ce = false →
    (qpOf s r.qp).ctx.length = 64 → winByKey s key = some w → n = data.length → rangeHeld s va n = false → calm s →
    (psnBehind r.psn (qcRqPsn (qpOf s r.qp).ctx) = true → exec (.rdmaWriteRequest r key va data) s = .next { s with
      out := .rdma r.qp 0 (psnAdd r.psn (packets s r.qp n - 1)) 0 [] :: s.out }) ∧
    (r.psn = qcRqPsn (qpOf s r.qp).ctx → rangeErrs s va n = [] → placeOf s va = .mem u off →
      (winAllows w wnWrite r.qp va n = true → (isHbmAddr s va = true → va % 32 = 0 ∧ n % 32 = 0) → writeRefused s va n = false →
        ∃ t, exec (.rdmaWriteRequest r key va data) s = .next t ∧ t.mem = memAfter s.mem [⟨u, off, data, []⟩] ∧
          qcRqPsn (qpOf t r.qp).ctx = psnAdd r.psn (packets s r.qp n) ∧
          t.out = .rdma r.qp 0 (psnAdd r.psn (packets s r.qp n - 1)) 0 [] :: s.out) ∧
      (winAllows w wnWrite r.qp va n = false → ∃ t, exec (.rdmaWriteRequest r key va data) s = .next t ∧
        ((∀ m, (ueSt s m).snap = none) → t.mem = s.mem) ∧ .rdma r.qp 1 r.psn 0 [nakAccess] ∈ t.out ∧ qcState (qpOf t r.qp).ctx = 4 ∧ counted s t ENET_ECNT 0 5 1 ∧
        pending t enetPg 19) ∧
      (winAllows w wnRead r.qp va n = true → n ≤ qcPmtu (qpOf s r.qp).ctx →
        ∃ t, exec (.rdmaReadRequest r key va n) s = .next t ∧ t.mem = s.mem ∧ qcRqPsn (qpOf t r.qp).ctx = psnAdd r.psn 1 ∧
          t.out = .rdma r.qp 3 (psnAdd r.psn 0) va ((readLocal s va n).map Prod.fst) :: s.out))) ∧
  (∀ (s : State) (r : RdmaReq) (data : List Byte) (u : MemUnit) (off : Nat), r.qp < 256 → fb s ENET_LINK_UP = true → r.ce = false →
    (let c := (qpOf s r.qp).ctx
     let i := qcRecvWin c
     let w := winOf s i
     let p := physOf s (wnTile w)
     let a := wnBase w + (mapGet winDefault s.eth.wins i).sends % max 1 (wnLen w / max 1 (wnSlot w)) * wnSlot w
     (qcState c = 2 ∨ qcState c = 3) → c.length = 64 → r.psn = qcRqPsn c → i ≠ 63 → wnEn w = true → p < 160 →
     winAllows w wnRing r.qp a (wnSlot w) = true → data.length ≤ wnSlot w → rangeHeld s a data.length = false →
     tileHeld s (wnTile w) = false → calm s →
     (tok s p (wnCnt w) = 0 → ∃ t, exec (.rdmaSend r data) s = .next t ∧ t.mem = s.mem ∧
       t.out = .rdma r.qp 2 r.psn 0 [] :: s.out ∧ counted s t ENET_ECNT 0 7 1 ∧ qpOf t r.qp = qpOf s r.qp) ∧
     (tok s p (wnCnt w) ≠ 0 → rangeErrs s a data.length = [] → writeRefused s a data.length = false → placeOf s a = .mem u off →
       ∃ t, exec (.rdmaSend r data) s = .next t ∧ tok t p (wnCnt w) = tok s p (wnCnt w) - 1 ∧
         t.mem = memAfter s.mem [⟨u, off, data, []⟩] ∧ (mapGet winDefault t.eth.wins i).sends = (mapGet winDefault s.eth.wins i).sends + 1 ∧
         qcRqPsn (qpOf t r.qp).ctx = psnAdd r.psn (packets s r.qp data.length) ∧
         .rdma r.qp 0 (psnAdd r.psn (packets s r.qp data.length - 1)) 0 [] ∈ t.out))) ∧
  (∀ (s : State) (q psn : Nat), q < 256 → fb s ENET_LINK_UP = true → qcState (qpOf s q).ctx = 3 → (qpOf s q).unacked ≠ [] →
    (let kept := fun (whole : Bool) => (qpOf s q).unacked.filter fun z => !(z.1 == psn && whole || psnBehind z.1 psn)
     (∃ t, exec (.rdmaAckReceive q psn 0) s = .next t ∧ (qpOf t q).unacked = kept true ∧ (qpOf t q).retries = 0 ∧
       qcState (qpOf t q).ctx = 3) ∧
     (∃ t, exec (.rdmaAckReceive q psn 2) s = .next t ∧ (qpOf t q).unacked = kept false ∧
       ∀ z ∈ kept false, .rdma q 4 z.1 z.2.1 z.2.2 ∈ t.out) ∧
     ((qpOf s q).retries < qcRnrRetry (qpOf s q).ctx → ∃ t, exec (.rdmaAckReceive q psn 1) s = .next t ∧
       (qpOf t q).retries = (qpOf s q).retries + 1 ∧ ∀ z ∈ kept false, .rdma q 4 z.1 z.2.1 z.2.2 ∈ t.out) ∧
     ∃ t, exec (.rdmaAckReceive q psn 3) s = .next t ∧ qcState (qpOf t q).ctx = 4 ∧ (qpOf t q).unacked = [] ∧
       pending t enetPg 17)) ∧
  ∀ (s : State) (q : Nat), q < 256 → qcState (qpOf s q).ctx = 3 → (qpOf s q).unacked ≠ [] →
    ((qpOf s q).retries < qcRetry (qpOf s q).ctx → ∃ t, exec (.rdmaAckTimeout q) s = .next t ∧
      qpOf t q = { qpOf s q with retries := (qpOf s q).retries + 1 } ∧ (∀ z ∈ (qpOf s q).unacked, .rdma q 4 z.1 z.2.1 z.2.2 ∈ t.out) ∧
      counted s t ENET_ECNT 0 8 (qpOf s q).unacked.length) ∧
    (qcRetry (qpOf s q).ctx ≤ (qpOf s q).retries → ∃ t, exec (.rdmaAckTimeout q) s = .next t ∧ qcState (qpOf t q).ctx = 4 ∧
      (qpOf t q).unacked = [] ∧ counted s t ENET_ECNT 0 9 1 ∧ pending t enetPg 17)

/-! ### Slaiq -/

/-- What every Slaiq request meets: nothing with the port down; a silent count of a source no ALLOW entry covers; the cached
response again for a SEQ that has one; one response with the code where a check fails; a wait where its unit is held. Taken,
REG_READ and REG_WRITE of one register answer and store its value, MEM_READ and MEM_WRITE read and write the range, EVENT_ACK
ends the events it names. -/
def Obligations.SlaiqRequestsAreAnswered : Prop :=
  (∀ (s : State) (c : (SlqMsg → Instr) × SlqRow) (m : SlqMsg), c ∈ slaiqRows →
    (slqRow m.bytes ≠ some c.2 → exec (c.1 m) s = .next s) ∧
    (slqRow m.bytes = some c.2 →
      (fb s ENET_LINK_UP = false → exec (c.1 m) s = .next s) ∧
      (fb s ENET_LINK_UP = true → allowed s m.ip = false → ∃ t, exec (c.1 m) s = .next t ∧ counted s t SLQP_QCNT 0 1 1 ∧
        t.out = s.out ∧ t.sessions = s.sessions ∧ t.nv = s.nv ∧ memKept s t) ∧
      (fb s ENET_LINK_UP = true → allowed s m.ip = true → ∀ r, cachedResp s m = some r →
        ∃ t, exec (c.1 m) s = .next t ∧ counted s t SLQP_QCNT 0 2 1 ∧ t.out = .slaiq m.ip m.port r :: s.out ∧ t.nv = s.nv ∧
          memKept s t) ∧
      (fb s ENET_LINK_UP = true → allowed s m.ip = true → cachedResp s m = none →
        (firstErr (slqErrs s m) ≠ .ok → ∃ t, exec (c.1 m) s = .next t ∧ replied t m (firstErr (slqErrs s m)) 0 [] ∧
          counted s t (hdrErrCnt .slqp) 0 0 1 ∧ t.nv = s.nv ∧ memKept s t) ∧
        (firstErr (slqErrs s m) = .ok → slqHeld s m = true → exec (c.1 m) s = .next s)))) ∧
  (∀ (s : State) (m : SlqMsg) (e : SlqEntry) (p : PageRef) (d : RegDef) (base : Nat), slaiqTaken s m = true →
    pageOf s e.addr = some p → regAt p.blk (raOff e.addr) = some (d, base) → inSrst s p = false →
    (e.ctl = 0 ∨ e.ctl = 256) →
    (slqRow m.bytes = some .regRead → slqEntries 8 (slPayload m.bytes) = [e] →
      readable (opened s m) .slaiq e.addr e.size = true →
      ∃ t, exec (.regRead m) s = .next t ∧ replied t m .ok 1 (leBytes 8 (regValue (opened s m) p base)) ∧
        regsKept s t [pageKey p base] ∧ memKept s t ∧ t.nv = s.nv) ∧
    (slqRow m.bytes = some .regWrite → slqEntries 16 (slPayload m.bytes) = [e] →
      accepted (opened s m) .slaiq e.addr e.size e.val = true → 0x40 ≤ base →
      (let x := e.val % 2 ^ (8 * e.size)
       (hookTouch p base x).run (opened s m) = opened s m → (∀ u, (hookApply (opened s m) p base x).run u = u) → ¬ (p.blk = .hbmc ∧ 0x100 ≤ base) →
       ¬ (p.blk = .shef ∧ base = 0x0AC) →
       ∃ t, exec (.regWrite m) s = .next t ∧ replied t m .ok 1 [] ∧
         rdKey t (pageKey p base) = storedValue d (rdKey s (pageKey p base)) x % 2 ^ 64 ∧ regsKept s t [pageKey p base] ∧
         memKept s t ∧ t.nv = s.nv))) ∧
  (∀ (s : State) (m : SlqMsg), slaiqTaken s m = true →
    (let u := opened s m
     let a := recLE (slPayload m.bytes) 0 8
     let n := recLE (slPayload m.bytes) 8 4
     let b := (slPayload m.bytes).drop 12
     let v := (touchLocal a n).run u
     (slqRow m.bytes = some .memRead → firstErr (slqMemErrs u a n false) = .ok →
       ((∀ x ∈ readLocal v a n, x.2 = false) → ∃ t, exec (.memRead m) s = .next t ∧
         replied t m .ok (n / 8) ((readLocal v a n).map Prod.fst) ∧ t.mem = v.mem ∧ t.regs = v.regs ∧ t.nv = v.nv) ∧
       ((∃ x ∈ readLocal v a n, x.2 = true) → ∃ t, exec (.memRead m) s = .next t ∧ replied t m eIntgPoison 0 [] ∧
         t.mem = v.mem)) ∧
     (slqRow m.bytes = some .memWrite → firstErr (slqMemErrs u a b.length true) = .ok → s.syn = [] →
       ∀ q off, placeOf s a = .mem q off → flipArmed s q = false → ∃ t, exec (.memWrite m) s = .next t ∧
         replied t m .ok (b.length / 8) [] ∧ t.mem = memAfter s.mem [⟨q, off, b, []⟩] ∧ t.nv = s.nv))) ∧
  ∀ (s : State) (m : SlqMsg), slaiqTaken s m = true → slqRow m.bytes = some .eventAck →
    (let l := (List.range ((slPayload m.bytes).length / 4)).map fun i => recLE (slPayload m.bytes) (4 * i) 4
     ∃ t, exec (.eventAck m) s = .next t ∧ replied t m .ok l.length [] ∧ t.events = s.events.filter (fun e => !l.contains e.seq) ∧
       t.regs = s.regs ∧ t.mem = s.mem ∧ t.nv = s.nv)

/-- SLAIQ_TIMEOUT answers SLQ_TIMEOUT with the entries applied, and what had not begun is abandoned. EVENT_RESEND sends an
event again up to 8 times, then abandons it, counted and raised. TELEMETRY_SAMPLE samples every entry at once and sends the
records; with TEL_EN off or the port down it only counts. -/
def Obligations.SlaiqTimersRunOut : Prop :=
  (∀ (s : State) (m : SlqMsg) (k : Nat), slaiqTaken s m = true → (slqRow m.bytes).isSome = true →
    (slType m.bytes = 5 → ∃ t, exec (.slaiqTimeout m k) s = .next t ∧ replied t m eSlqTimeout 0 [] ∧ t.nv = s.nv ∧ t.regs = s.regs ∧
      t.mem = s.mem) ∧
    (slType m.bytes = 1 ∨ slType m.bytes = 2 → ∃ t, exec (.slaiqTimeout m 0) s = .next t ∧ replied t m eSlqTimeout 0 [] ∧
      t.regs = s.regs ∧ t.mem = s.mem ∧ t.nv = s.nv) ∧
    (slType m.bytes = 7 →
      (let l := (List.range ((slPayload m.bytes).length / 4)).map fun i => recLE (slPayload m.bytes) (4 * i) 4
       k < l.length → ∃ t, exec (.slaiqTimeout m k) s = .next t ∧ replied t m eSlqTimeout k [] ∧
         t.events = s.events.filter (fun e => !(l.take k).contains e.seq)))) ∧
  (∀ (s : State) (q : Nat),
    (s.events.find? (fun e => e.seq == q) = none → exec (.eventResend q) s = .next s) ∧
    ∀ e, s.events.find? (fun e => e.seq == q) = some e →
      (e.resends < 8 → ∃ t, exec (.eventResend q) s = .next t ∧ t.out = .event e :: s.out ∧ counted s t SLQP_QCNT 0 4 1 ∧
        t.events = (s.events.map fun x => if x = e then { x with resends := x.resends + 1 } else x) ∧ t.mem = s.mem) ∧
      (8 ≤ e.resends → s.events.length ≤ 256 → ∃ t, exec (.eventResend q) s = .next t ∧ counted s t SLQP_QCNT 0 5 1 ∧
        pending t slqpPage 17 ∧ (fb s SLQP_SEVT_EN = false → t.events = s.events.erase e) ∧ t.mem = s.mem)) ∧
  ∀ (s : State) (sec ns : Nat),
    (let l := (List.range (fv s HLTH_TEL_COUNT)).map (telRecord s)
     let on := fb s SLQP_TEL_EN && fb s ENET_LINK_UP
     (on = true → 1 ≤ l.length → l.length ≤ telMax s → ∃ t, exec (.telemetrySample sec ns) s = .next t ∧
       t.out = .telemetry s.telSeq (slMessage 8 0 0 s.telSeq 0 (leBytes 6 sec ++ leBytes 4 ns ++
         leBytes 1 (fv s ENET_PTP_LOCKED) ++ leBytes 1 0 ++ leBytes 2 l.length ++ leBytes 2 0 ++ leBytes 8 (curInstant s) ++
         l.flatten)) :: s.out ∧
       t.telSeq = (s.telSeq + 1) % 2 ^ 32 ∧ counted s t HLTH_TEL_SAMPLES 0 0 1 ∧ counted s t SLQP_QCNT 0 6 1 ∧ t.mem = s.mem) ∧
     (on = false → ∃ t, exec (.telemetrySample sec ns) s = .next t ∧ t.out = s.out ∧ t.telSeq = s.telSeq ∧
       counted s t HLTH_TEL_SAMPLES 0 0 1 ∧ t.mem = s.mem))

/-! ### Critical commands, the colophon, configuration images -/

/-- A COMMAND that passes its checks stores its counter as LAST_COUNTER, acts, and is answered with code 0: FW_STAGE puts the
image in the other slot and makes that the active one, FW_COMMIT raises the floor to the version running, the key commands
change owner and keys and raise their events, each measured into slot 7; RESET leaves the device reset with its flush begun;
POWER_CAP, the spare commands, ZERO_REGION, DEBUG_UNLOCK, PRESS_ELECT and REIMPOSE do what their chapters give. -/
def Obligations.CriticalCommandsTakeEffect : Prop :=
  ∀ (s : State) (m : SlqMsg), commandTaken s m = true →
    (let p := slPayload m.bytes
     let b := cmBody p
     let w := commandBegun s m
     let nv := s.nv
     (∀ c ∈ slaiqRows, slqRow m.bytes = some c.2 → ∃ t, exec (c.1 m) s = .next t ∧ replied t m .ok 0 [] ∧
       t.nv.counters = nv.counters.set (cmKey p % 4) (cmCounter p) ∧
       (c.2 ≠ .reset → fv t SLQP_LAST_COUNTER 0 (cmKey p % 4) = cmCounter p)) ∧
     (slqRow m.bytes = some .fwStage → nv.slots.length = 5 → nv.active.length = 5 → ∀ i,
       imageAt w (recLE b 8 8) (recLE b 16 4) = some i →
       ∃ t, exec (.fwStage m) s = .next t ∧ fwSlots t (recLE b 1 1) = (i, (fwSlots s (recLE b 1 1)).1) ∧
         (∀ k, 1 ≤ k → k ≤ 5 → k ≠ recLE b 1 1 → fwSlots t k = fwSlots s k) ∧
         slotBytes t 7 = extended (extended (slotBytes s 7) (sha512 i ++ [BitVec.ofNat 8 (recLE b 1 1)])) p) ∧
     (slqRow m.bytes = some .fwCommit → nv.floors.length = 5 →
       (let f := max (floorOf s (recLE b 1 1)) (fv s COLO_RUNNING 0 (recLE b 1 1 - 1))
        ∃ t, exec (.fwCommit m) s = .next t ∧ floorOf t (recLE b 1 1) = f ∧ fv t COLO_FLOOR 0 (recLE b 1 1 - 1) = f % 2 ^ 32 ∧
          (∀ k, 1 ≤ k → k ≤ 5 → k ≠ recLE b 1 1 → floorOf t k = floorOf s k) ∧ t.nv.slots = nv.slots)) ∧
     (slqRow m.bytes = some .keyRotate → ∀ i, imageAt w (recLE b 8 8) 2072 = some i →
       ∃ t, exec (.keyRotate m) s = .next t ∧ t.nv.owner = some (bundleOwner i) ∧ t.nv.enrol = i.take 536 ∧
         t.nv.keys = List.zipWith (fun new old => if new.isEmpty then old else new) (bundleCheck w (some i)).2 nv.keys ∧
         pending t coloPg 18 ∧ slotBytes t 7 = extended (slotBytes s 7) p) ∧
     (slqRow m.bytes = some .keyTransfer → ∀ i, imageAt w (recLE b 8 8) 2072 = some i →
       ∃ t, exec (.keyTransfer m) s = .next t ∧ t.nv.owner = some (bundleOwner i) ∧ t.nv.enrol = i.take 536 ∧
         t.nv.keys = List.zipWith (fun new _ => new) (bundleCheck w (some i)).2 nv.keys ∧
         pending t coloPg 17 ∧ pending t coloPg 18 ∧ slotBytes t 7 = extended (slotBytes s 7) p) ∧
     (slqRow m.bytes = some .keyRevoke → ∃ t, exec (.keyRevoke m) s = .next t ∧ t.nv.keys = nv.keys.set (recLE b 1 1) [] ∧
       t.nv.owner = nv.owner ∧ pending t coloPg 18 ∧ slotBytes t 7 = extended (slotBytes s 7) p) ∧
     (slqRow m.bytes = some .reset → ∃ t, exec (.resetCmd m) s = .next t ∧ t.flash.refusing = true ∧
       t.boot = State.reset.boot ∧ t.press = State.reset.press ∧ t.sessions = [] ∧ t.power.pwrGood = s.power.pwrGood) ∧
     (slqRow m.bytes = some .powerCap → ∃ t, exec (.powerCap m) s = .next t ∧ fv t POWR_CAP = bits (leNat b) 10 0 ∧
       memKept s t) ∧
     (slqRow m.bytes = some .assume → ∃ t, exec (.spareAssume m) s = .next t ∧
       t.fab.assume = some (false, bits (leNat b) 61 48, bits (leNat b) 47 0) ∧ memKept s t) ∧
     (slqRow m.bytes = some .release → ∃ t, exec (.spareRelease m) s = .next t ∧
       t.fab.assume = some (true, bits (leNat b) 61 48, bits (leNat b) 47 0) ∧ memKept s t) ∧
     (slqRow m.bytes = some .zero →
       (let n := recLE b 0 1
        let x : Blocks := (bits (recLE b 8 8) 23 0, bits (recLE b 8 8) 47 24)
        let wf := (wfRuns s n).flatMap (runMeet x)
        let k := muBase (.hbm n) + x.1 * 4096
        ∃ t, exec (.zeroRegion m) s = .next t ∧ fv t HBMC_ZR_BASE n = x.1 ∧ fv t HBMC_ZR_BLOCKS n = x.2 ∧
          memOutside s t [(k, x.2 * 4096)] ∧
          (wfRuns s n = [] → ∀ o, o < x.2 * 4096 → rawByte t (k + o) = 0) ∧
          (wf ≠ [] → fb t HBMC_ZERO_BUSY n = true ∧
            mapGet zeroDefault t.zeroing n = wf.mergeSort (fun a b => decide (a.1 ≤ b.1))))) ∧
     (slqRow m.bytes = some .debug → ∃ t, exec (.debugUnlock m) s = .next t ∧ fv t COLO_DEBUG = recLE b 0 1 ∧
       pending t coloPg 19 ∧ slotBytes t 7 = extended (slotBytes s 7) p ∧ memKept s t) ∧
     (slqRow m.bytes = some .elect → ∃ t, exec (.pressElect m) s = .next t ∧ fv t PRES_ELECT_GENF = recLE b 4 4 ∧
       fv t PRES_ELECT_H = recLE b 8 6 ∧ fv t PRES_MASTER_NODE = bits (recLE b 0 4) 13 0 ∧ memKept s t ∧
       (bits (recLE b 0 4) 13 0 = nodeId s → s.press.synced = false → s.press.heard = false →
         fv t PRES_ROLE = roleMaster ∧ t.press.issued = true ∧ fv t PRES_ELECT_GEN = recLE b 4 4 ∧
         t.press.edge.map (·.imp) = some (recLE b 8 6)) ∧
       (bits (recLE b 0 4) 13 0 ≠ nodeId s → unsync s = false → fv s PRES_ROLE ≠ roleMaster →
         fv t PRES_ROLE = if bit (recLE b 0 4) 30 && bits (recLE b 0 4) 29 16 == nodeId s then roleBackup else roleFollower)) ∧
     (slqRow m.bytes = some .reimpose → ∃ t, exec (.reimpose m) s = .next t ∧ fv t MGMT_RI_STATE = 1 ∧
       fv t MGMT_RI_NEW_BASE = bits (recLE b 0 8) 46 0 ∧ fv t MGMT_RI_NEW_COUNT = bits (recLE b 0 8) 63 47 ∧
       fv t MGMT_RI_START = recLE b 8 8 ∧ fv t MGMT_RI_END = recLE b 16 8 ∧ fb t MGMT_RI_LATE = false ∧
       fb t MGMT_RI_FAILED = false ∧ memKept s t))

/-- QUOTE and CERT set BUSY and leave what is to be done; QUOTE_DONE leaves the quote's 712 bytes, or the certificate's copy, in
OUT, and raises the event. ENROL_GO installs the bundle's owner and keys. JCI_GO takes the image; JCI_DONE applies its values,
marks it valid and raises the event. -/
def Obligations.ColophonAndJobImages : Prop :=
  (∀ (s : State) (r : Requester),
    (accepted s r (mgdReg 4 0x060) 4 0x101 = true → ∃ t, exec (.quoteOp r) s = .next t ∧ fb t COLO_COLO_BUSY = true ∧
      t.boot.op = some 1 ∧ memKept s t ∧ t.nv = s.nv) ∧
    (accepted s r (mgdReg 4 0x060) 4 0x102 = true → ∃ t, exec (.certOp r) s = .next t ∧ fb t COLO_COLO_BUSY = true ∧
      t.boot.op = some 2 ∧ memKept s t ∧ t.nv = s.nv)) ∧
  (∀ s : State,
    (s.boot.op = none → exec .quoteDone s = .next s) ∧
    (∀ op, s.boot.op = some op → ∃ t, exec .quoteDone s = .next t ∧ fb t COLO_COLO_BUSY = false ∧ t.boot.op = none ∧
      pending t coloPg 16 ∧ memKept s t ∧ t.nv = s.nv ∧ (op ≠ 1 → outBytes t 512 = certBytes s) ∧
      (op = 1 → outBytes t 178 = quoteBody s ∧ t.freeCtr = s.freeCtr + 8))) ∧
  (∀ (s : State) (r : Requester), calm s → accepted s r (mgdReg 4 0x060) 4 0x200 = true →
    ∀ i, imageAt s (fv s COLO_ENROL_ADDR) 2072 = some i → ∃ t, exec (.enrolGo r) s = .next t ∧
      t.nv.owner = some (bundleOwner i) ∧ t.nv.enrol = i.take 536 ∧
      t.nv.keys = List.zipWith (fun new old => if new.isEmpty then old else new) (bundleCheck s (some i)).2 s.nv.keys ∧
      fv t COLO_OWNER_STATE = 1 ∧ fv t COLO_OWNER_GEN = (bundleOwner i).2 ∧ pending t coloPg 17 ∧ memKept s t) ∧
  (∀ (s : State) (r : Requester), calm s → accepted s r (mgdReg 5 0x054) 4 1 = true →
    ∃ t, exec (.jciGo r) s = .next t ∧ fb t CONF_JCI_BUSY = true ∧
      t.boot.jci = imageAt s (fv s CONF_JCI_ADDR) (fv s CONF_JCI_LEN) ∧ memKept s t) ∧
  ∀ s : State,
    (s.boot.jci = none → exec .jciDone s = .next s) ∧
    ∀ i, s.boot.jci = some i → ∃ t, exec .jciDone s = .next t ∧ fb t CONF_JCI_VALID = true ∧ fb t CONF_JCI_BUSY = false ∧
      fv t CONF_JCI_CODE = 0 ∧ fv t CONF_JCI_SEQ = cfSeq i ∧ fv t CONF_JCI_CLAMPS = min 65535 (pass1 s 2 i).clamps.length ∧
      t.boot.jci = none ∧ pending t ⟨.conf, 0⟩ 16 ∧
      fv t CONF_JOB_SEED = ((pass1 s 2 i).val 0x0201).getD 0 % 2 ^ 64 ∧ slotBytes t 6 = extended (slotBytes s 6) i

/-! ### Boot -/

/-- BOOT_START begins boot with power good, no flush running and the Ethernet reference present. Each stage runs only after the
one before it: stages 1 and 2 verify and measure their firmware or halt boot with FAULT_N low; stage 3 applies the DCI and
brings the port up, which gives level 1; stages 4 to 6 bring up the healthy units named and enable their pages, stage 6 only
with a valid DCI. -/
def Obligations.BootRunsInStages : Prop :=
  (∀ (s : State) (m : Nat) (fab : Bool),
    (s.power.pwrGood = true ∧ s.flash.refusing = false ∧ s.power.ethLost = false ∧ s.boot.live = false →
      ∃ t, exec (.bootStart m fab) s = .next t ∧ t.boot = { s.boot with live := true } ∧
        t.power = { s.power with resetN := true } ∧ fv t POWR_MOD_ID = m % 16 ∧ fv t POWR_REFCLK = 1 + 2 * b2n fab ∧
        memKept s t) ∧
    (¬ (s.power.pwrGood = true ∧ s.flash.refusing = false ∧ s.power.ethLost = false ∧ s.boot.live = false) →
      exec (.bootStart m fab) s = .next s)) ∧
  (∀ (s : State) (up : Bool) (st : List Nat) (hard : List Bool) (f5 : List (Nat × Nat × Nat)) (f6 : List Nat),
    (¬ stageReady s 1 → exec .bootStage1 s = .next s) ∧ (¬ stageReady s 2 → exec .bootStage2 s = .next s) ∧
    (¬ stageReady s 3 → exec (.bootStage3 up) s = .next s) ∧ (¬ stageReady s 4 → exec (.bootStage4 st hard) s = .next s) ∧
    (¬ stageReady s 5 → exec (.bootStage5 f5) s = .next s) ∧
    (¬ stageReady s 6 ∨ fb s CONF_DCI_VALID = false → exec (.bootStage6 f6) s = .next s)) ∧
  (∀ s : State, stageReady s 1 → ∃ t, exec .bootStage1 s = .next t ∧ fv t ENET_MAC = s.factory.mac % 2 ^ 48 ∧ t.nv = s.nv ∧
    memKept s t ∧
    (∀ x, fwLoad s 1 = some x → t.boot = { s.boot with stage := 1 } ∧ slotBytes t 0 = extended (slotBytes s 0) x.1 ∧
      fv t COLO_RUNNING 0 0 = fwVersion x.1 ∧ (x.2 = true → fb t COLO_FALLBACK = true)) ∧
    (fwLoad s 1 = none → t.boot = { s.boot with halted := true } ∧ (s.power.trip = false → faultN t = some false))) ∧
  (∀ s : State, stageReady s 2 → ∃ t, exec .bootStage2 s = .next t ∧ fb t COLO_IDENTITY_OK = s.factory.wrapOk ∧
    fb t COLO_OWNER_STATE = s.nv.owner.isSome ∧ (∀ c, c < 5 → fv t COLO_FLOOR 0 c = s.nv.floors.getD c 0 % 2 ^ 32) ∧
    (∀ k, k < 4 → fv t SLQP_LAST_COUNTER 0 k = s.nv.counters.getD k 0 % 2 ^ 64) ∧ t.nv = s.nv ∧ memKept s t ∧
    (∀ x, fwLoad s 2 = some x → t.boot = { s.boot with stage := 2 } ∧ slotBytes t 1 = extended (slotBytes s 1) x.1) ∧
    (fwLoad s 2 = none → t.boot = { s.boot with halted := true })) ∧
  (∀ (s : State) (up : Bool), stageReady s 3 → ∃ t, exec (.bootStage3 up) s = .next t ∧ t.boot.stage = 3 ∧
    fb t ENET_LINK_UP = up ∧ (up = true → pending t enetPg 16 ∧ 1 ≤ level t) ∧ (up = false → level t = 0) ∧
    (∀ e, dciLoad s = (none, e) → fv t CONF_DCI_CODE = errNum e % 256 ∧ fb t CONF_DCI_VALID = fb s CONF_DCI_VALID) ∧
    ∀ b o e, dciLoad s = (some (b, o), e) → fb t CONF_DCI_VALID = true ∧ fv t CONF_DCI_CODE = 0 ∧
      fv t CONF_DCI_SEQ = cfSeq b % 2 ^ 32 ∧ slotBytes t 4 = extended (slotBytes s 4) b ∧
      fv t CONF_DCI_CLAMPS = min 65535 (pass1 s 1 b).clamps.length) ∧
  (∀ (s : State) (st : List Nat) (hard : List Bool), stageReady s 4 → ∃ t, exec (.bootStage4 st hard) s = .next t ∧
    t.boot.stage = 4 ∧ (fwLoad s 4 = none → t.units.up = s.units.up) ∧
    ∀ x, fwLoad s 4 = some x → slotBytes t 3 = extended (slotBytes s 3) x.1 ∧ ∀ n ∈ st, isHbmSite s.build n = true →
      .stack n ∈ t.units.up ∧ enabled t ⟨.hbmc, n⟩ = true ∧ enabled t ⟨.intg, 176 + n⟩ = true) ∧
  (∀ (s : State) (f : List (Nat × Nat × Nat)), stageReady s 5 → ∃ t, exec (.bootStage5 f) s = .next t ∧ t.boot.stage = 5 ∧
    ∀ p, p < 160 →
      ((∃ x ∈ f, x.1 = 0 ∧ x.2.1 = p) → tileRetired t p = true ∧ (.tile p ∈ t.units.up ↔ .tile p ∈ s.units.up)) ∧
      ((∀ x ∈ f, x.1 = 0 → x.2.1 ≠ p) → unitOk s (.net (p / 80)) = true → tileRetired s p = false →
        .tile p ∈ t.units.up ∧ enabled t ⟨.tile, p⟩ = true)) ∧
  ∀ (s : State) (f : List Nat), stageReady s 6 → fb s CONF_DCI_VALID = true → ∃ t, exec (.bootStage6 f) s = .next t ∧
    t.boot.stage = 6 ∧ (fwLoad s 3 = none → t.units.up = s.units.up) ∧
    ∀ x, fwLoad s 3 = some x → slotBytes t 2 = extended (slotBytes s 2) x.1 ∧
      ∀ n, isLinkSite s.build n = true → n ∉ f → unitOk s (.net (dieOfSite n)) = true → unitOk s (.linkDie n) = true →
        .linkDie n ∈ t.units.up ∧ enabled t ⟨.shef, n⟩ = true ∧
        ∀ i, i < nLinks s.build → linkSite s.build i = n → enabled t ⟨.link, i⟩ = true ∧
          (linkState s i ≠ 5 → linkState t i = 1 ∨ linkState t i = 3)

/-! ### Power, clocks, the module -/

/-- The rails come up with PWR_EN unless a trip or an overvoltage is latched. PWR_EN low, an input out of range, RESET_N low for
100 µs, a trip and the loss of the Ethernet reference stop every part of the device and run the flush; a shorter or milder event
changes nothing. The loss of the fabric reference takes every link down; its return lets them train. -/
def Obligations.PowerComesAndGoes : Prop :=
  (∀ s : State, exec .pwrEnRise s = .next (if !s.power.trip && !s.power.overvolt && !s.power.pwrGood then { s with
    power := { s.power with
      pwrEn := true
      pwrGood := true } } else s)) ∧
  (∀ s : State, ∃ t, exec .pwrEnFall s = .next t ∧ stopped s t ∧ t.power.pwrEn = false ∧ t.power.pwrGood = false ∧
    t.power.trip = false ∧ t.power.overvolt = false) ∧
  (∀ (s : State) (us : Nat),
    (100 ≤ us → s.power.pwrGood = true → ∃ t, exec (.resetAssert us) s = .next t ∧ stopped s t ∧ t.power.resetN = false ∧
      t.power.pwrGood = true ∧ t.power.trip = s.power.trip) ∧
    (us < 100 ∨ s.power.pwrGood = false → exec (.resetAssert us) s = .next s)) ∧
  (∀ (s : State) (mv us : Nat),
    (60000 < mv → 2 ≤ us → s.power.pwrGood = true → ∃ t, exec (.overvoltage mv us) s = .next t ∧ stopped s t ∧
      t.power.pwrGood = false ∧ t.power.overvolt = true) ∧
    (mv ≤ 60000 ∨ us < 2 ∨ s.power.pwrGood = false → exec (.overvoltage mv us) s = .next s) ∧
    (mv < 44000 → 2 ≤ us → s.power.pwrGood = true → ∃ t, exec (.inputLost mv us) s = .next t ∧ stopped s t ∧
      t.power.pwrGood = false) ∧
    (44000 ≤ mv ∨ us < 2 ∨ s.power.pwrGood = false → exec (.inputLost mv us) s = .next s) ∧
    ((44000 ≤ mv ∧ mv < 48000 ∨ 56000 < mv ∧ mv ≤ 60000) → 1000 < us → s.power.pwrGood = true →
      ∃ t, exec (.inputToleranceExpiry mv us) s = .next t ∧ stopped s t ∧ t.power.pwrGood = false) ∧
    (mv < 44000 ∨ 48000 ≤ mv ∧ mv ≤ 56000 ∨ 60000 < mv ∨ us ≤ 1000 ∨ s.power.pwrGood = false → exec (.inputToleranceExpiry mv us) s = .next s)) ∧
  (∀ (s : State) (k : Nat) (x : Int),
    (∀ y, tripAt s.build k = some y → y ≤ x → s.power.pwrGood = true → ∃ t, exec (.thermalTrip k x) s = .next t ∧ stopped s t ∧
      t.power.trip = true ∧ t.power.pwrGood = false ∧ faultN t = some false ∧ thermTripN t = some false ∧ level t = 0 ∧
      fv t POWR_T_MAX = fv s POWR_T_MAX ∧ fv t POWR_P_AVG = fv s POWR_P_AVG) ∧
    ((∀ y, tripAt s.build k = some y → x < y) ∨ s.power.pwrGood = false → exec (.thermalTrip k x) s = .next s)) ∧
  (∀ s : State,
    (s.boot.live = true → bit (fv s POWR_REFCLK) 1 = true → ∃ t, exec .fabRefclkLoss s = .next t ∧
      bit (fv t POWR_REFCLK) 1 = false ∧ counted s t POWR_PCNT 0 3 1 ∧ pending t powrPg 19 ∧
      (3 ≤ s.boot.stage → level t ≤ 2) ∧
      ∀ l, l < nLinks s.build → linkState s l = 1 ∨ linkState s l = 2 → linkState t l = 3) ∧
    (s.boot.live = false ∨ bit (fv s POWR_REFCLK) 1 = false → exec .fabRefclkLoss s = .next s) ∧
    (s.boot.live = true → ∃ t, exec .ethRefclkLoss s = .next t ∧ t.power.ethLost = true ∧ t.boot = State.reset.boot ∧
      t.flash.refusing = true ∧ t.nv = s.nv) ∧
    (s.boot.live = false → exec .ethRefclkLoss s = .next s) ∧
    (s.boot.live = true → bit (fv s POWR_REFCLK) 1 = false → ∃ t, exec (.refclkRestore true) s = .next t ∧
      bit (fv t POWR_REFCLK) 1 = true ∧ pending t powrPg 19 ∧
      ∀ l, l < nLinks s.build → linkState s l = 3 → linkState t l = if mayTrain t l then 1 else 3) ∧
    (s.boot.live = false ∨ bit (fv s POWR_REFCLK) 1 = true → exec (.refclkRestore true) s = .next s) ∧
    exec (.refclkRestore false) s = .next { s with power := { s.power with ethLost := false } }) ∧
  ∀ (s : State) (reg : Nat), exec (.i3cRead reg) s = .next (if decide (reg < 8) && (s.boot.live || (s.power.trip && s.flash.refusing))
    then { s with out := .i3c reg (i3cValue s reg) :: s.out } else s)

/-- POWER_CONTROL_STEP shows its measurements and never raises a clock: over CAP, hot, or in an emergency each die comes down by
a point, or to 750 MHz, counted and raised; at 750 MHz and still over, CAP_UNMET shows. VF_CAL sets the die's voltage and
permits the raise. -/
def Obligations.ControlLoopsThrottle : Prop :=
  (∀ (s : State) (p : PowerSample),
    (s.boot.live = false → exec (.powerControlStep p) s = .next s) ∧
    (s.boot.live = true → ∃ t, exec (.powerControlStep p) s = .next t ∧ fv t POWR_P_AVG = min 2047 p.pAvg ∧ memKept s t ∧
      t.boot = s.boot ∧
      (let m := fun d => fv s PDIE_ARITH_MHZ d
       let slow := decide (m 0 = 750) && decide (m 1 = 750)
       (∀ d, d < 2 → fv t PDIE_ARITH_MHZ d ≤ m d) ∧
       (fv s POWR_CAP < p.pAvg → (∀ d, d < 2 → fv t PDIE_ARITH_MHZ d ≤ max 750 (m d - 50)) ∧
         (slow = false → counted s t POWR_PCNT 0 0 1 ∧ pending t powrPg 16) ∧ (slow = true → bit (fv t POWR_LIMIT) 4 = true)) ∧
       (1600 < p.pMax ∨ 1500 < p.pAvg → (∀ d, d < 2 → fv t PDIE_TARGET_MHZ d ≤ 750 ∧ fv t PDIE_ARITH_MHZ d ≤ 750) ∧
         (s.power.emPt ≠ 750 → counted s t POWR_PCNT 0 2 1 ∧ pending t powrPg 18)) ∧
       ∀ d, d < 2 → 1000 ≤ p.tDie.getD d 0 → fv t PDIE_ARITH_MHZ d ≤ max 750 (m d - 50)))) ∧
  ∀ (s : State) (d mv : Nat),
    (d < 2 ∧ mv < 1024 ∧ dieInService s d = true ∧ fb s BKGD_ACT_EN 0 4 = true →
      ∃ t, exec (.vfCal d mv) s = .next t ∧ fv t PDIE_VDD_MV d = mv ∧ fv t PDIE_ARITH_MHZ d = fv s PDIE_TARGET_MHZ d ∧
        regsKept s t [fldKey PDIE_VDD_MV d 0, fldKey PDIE_ARITH_MHZ d 0] ∧ memKept s t) ∧
    (¬ (d < 2 ∧ mv < 1024 ∧ dieInService s d = true ∧ fb s BKGD_ACT_EN 0 4 = true) → exec (.vfCal d mv) s = .next s)

/-! ### Health and background activity -/

/-- A granted piece of work is charged to its activity and unit, in a window or stolen; one that overruns its window is counted
as stolen and raised; a period's end shows what is behind. A proof that fails puts its unit in quarantine, and a SUSPECT or
quarantined one is retired; a passed re-proof leaves it SUSPECT. A limiting condition and the port's changes move the level. -/
def Obligations.HealthIsKept : Prop :=
  (∀ (s : State) (a k i ns prog ex : Nat),
    (6 ≤ a ∨ fb s BKGD_ACT_EN 0 a = false → exec (.bkgdGrant a k i ns prog ex) s = .next s) ∧
    (a < 6 → fb s BKGD_ACT_EN 0 a = true →
      (let pts := pointsOf s ns
       let unit := k * 256 + i
       let w := windowLeft s
       (bkUnitOk s a k i = true → windowOpen s = true → pts ≤ w.1 →
         (bkPoints s a unit + pts) * 256 ≤ fv s BKGD_ACT_SHARE 0 a * w.2 →
         ∃ t, exec (.bkgdGrant a k i ns prog ex) s = .next t ∧ counted s t BKGD_CNT_GRANTED 0 a pts ∧
           t.bkUsed = s.bkUsed ++ [(a, unit, pts)] ∧ (a ≠ 3 → fv t BKGD_PROGRESS 0 a = min 65535 prog) ∧
           (a = 1 → ∀ u, proofUnit s.build k i = some u → u ∈ t.units.proving)) ∧
       (bkUnitOk s a k i = true → windowOpen s = false → a ≠ 3 → a < 5 → 8192 < ex - min 65535 prog →
         bkPoints s (8 + a) unit + pts ≤ fv s BKGD_STEAL_MAX 0 a →
         ∃ t, exec (.bkgdGrant a k i ns prog ex) s = .next t ∧ bit (fv t BKGD_BK_STEALING) a = true ∧
           counted s t BKGD_CNT_STOLEN 0 a pts ∧ t.bkUsed = s.bkUsed ++ [(8 + a, unit, pts)]) ∧
       (bkUnitOk s a k i = false ∨ (windowOpen s = false ∧ a ≠ 3 ∧ ex ≤ min 65535 prog + 4096) →
         ∃ t, exec (.bkgdGrant a k i ns prog ex) s = .next t ∧ t.bkUsed = s.bkUsed ∧ t.units = s.units ∧
           fv t BKGD_CNT_GRANTED 0 a = fv s BKGD_CNT_GRANTED 0 a ∧ fv t BKGD_CNT_STOLEN 0 a = fv s BKGD_CNT_STOLEN 0 a)))) ∧
  (∀ (s : State) (a ns : Nat),
    (a < 6 → windowOpen s = false → ∃ t, exec (.overrun a ns) s = .next t ∧ counted s t BKGD_CNT_STOLEN 0 a (pointsOf s ns) ∧
      pending t bkgdPg 18) ∧
    (6 ≤ a ∨ windowOpen s = true → exec (.overrun a ns) s = .next s)) ∧
  (∀ (s : State) (a : Nat) (u : Bool),
    (a < 6 ∧ a ≠ 3 ∧ fb s BKGD_ACT_EN 0 a = true → ∃ t, exec (.activityPeriodEnd a u) s = .next t ∧
      bit (fv t BKGD_BK_BEHIND) a = u ∧ fv t BKGD_PROGRESS 0 a = 0 ∧ (u = true → pending t bkgdPg 17)) ∧
    (¬ (a < 6 ∧ a ≠ 3 ∧ fb s BKGD_ACT_EN 0 a = true) → exec (.activityPeriodEnd a u) s = .next s)) ∧
  (∀ (s : State) (k i ph : Nat) (ok : Bool) (u : UnitId), proofUnit s.build k i = some u → 1 ≤ ph → ph ≤ 3 →
    (let recorded := fun (t : State) (stage : Nat) => fv t HLTH_PREC_UNIT = k ∧ fv t HLTH_PREC_INDEX = i ∧
       fv t HLTH_PREC_PHASE = ph ∧ fv t HLTH_PREC_STAGE = stage ∧ counted s t HLTH_HLCNT 0 1 1 ∧ pending t hlthPage 17
     (s.units.proving.contains u = false → exec (.proofKernel k i ph ok) s = .next s) ∧
     (s.units.proving.contains u = true → ∃ t, exec (.proofKernel k i ph ok) s = .next t ∧ u ∉ t.units.proving ∧
       counted s t HLTH_HLCNT 0 0 1 ∧ (ok = true → t.units.quar = s.units.quar) ∧
       (ok = false → s.units.suspect.contains u = false → t.units.quar = s.units.quar ++ [⟨u, ph⟩] ∧ recorded t 1 ∧
         counted s t HLTH_HLCNT 0 2 1) ∧
       (ok = false → s.units.suspect.contains u = true → unitRetired t u = true ∧ recorded t 2)) ∧
     (quarantined s u = true → proofIdle s u = false → exec (.proofReproof k i ph ok) s = .next s) ∧
     (quarantined s u = true → proofIdle s u = true → s.units.heldIncs = [] → s.units.heldAccs = [] → s.units.heldMsgs = [] →
       ∃ t, exec (.proofReproof k i ph ok) s = .next t ∧ counted s t HLTH_HLCNT 0 0 1 ∧
         (ok = true → quarantined t u = false ∧ u ∈ t.units.suspect) ∧ (ok = false → unitRetired t u = true ∧ recorded t 2)))) ∧
  (∀ (s : State) (loc x : Nat),
    (proofSlot loc x = none → exec (.proofPass loc x) s = .next s) ∧
    ∀ k, proofSlot loc x = some k →
      (firstErr (actionErrs s ⟨0, 0, 0, 6, loc, x, 0⟩) = .ok → ∃ t, exec (.proofPass loc x) s = .next t ∧
        .tile (physOf s k) ∈ t.units.proving ∧ t.regs = s.regs ∧ t.mem = s.mem) ∧
      (firstErr (actionErrs s ⟨0, 0, 0, 6, loc, x, 0⟩) ≠ .ok → ∃ t, exec (.proofPass loc x) s = .next t ∧
        t.units = s.units ∧ memKept s t)) ∧
  (∀ (s : State) (k i : Nat),
    (limitUnit s.build k i = none → exec (.limitingConditionDetected k i) s = .next s) ∧
    ∀ u, limitUnit s.build k i = some u →
      (s.units.failed.contains u = true → exec (.limitingConditionDetected k i) s = .next s) ∧
      (s.units.failed.contains u = false → ∃ t, exec (.limitingConditionDetected k i) s = .next t ∧ u ∈ t.units.failed ∧
        unitOk t u = false ∧
        ∀ p ∈ unitPages s.build, pageRetired s p = false → pageRetired t p = true → pending t p 2)) ∧
  (∀ (s : State) (up : Bool),
    (3 ≤ s.boot.stage → fb s ENET_LINK_UP ≠ up → ∃ t, exec (.enetLinkChange up) s = .next t ∧ fb t ENET_LINK_UP = up ∧
      pending t ⟨.enet, 0⟩ 16 ∧ (up = false → level t = 0) ∧ (up = true → 1 ≤ level t)) ∧
    (s.boot.stage < 3 ∨ fb s ENET_LINK_UP = up → exec (.enetLinkChange up) s = .next s)) ∧
  ∀ (s : State) (r : Requester) (e v : Nat), e < 256 → v < 2 ^ 64 → accepted s r (mgdReg 6 (0x400 + 8 * e)) 8 v = true →
    ∃ t, exec (.telEntryWrite r e v) s = .next t ∧ fv t HLTH_TEL_LOC 0 e = bits v 7 0 ∧ fv t HLTH_TEL_PAGE 0 e = bits v 19 8 ∧
      fv t HLTH_TEL_OFFSET 0 e = bits v 31 20 ∧ regsKept s t [fldKey HLTH_TEL_LOC 0 e] ∧ memKept s t
end

