-- ==== Sys2Proof/Laws/Maps.lean ====
section
/-! SUPPORT. The laws of the sparse maps every memory of the device is held in: what a read gives after an update, and
that every update keeps the canonical form. -/

namespace Sys2Proof.Machine

variable {α : Type}

theorem mapGet_nil (d : Nat → α) (k : Nat) : mapGet d [] k = d k := rfl

/-- A key with no entry reads as its default. -/
theorem mapGet_of_not_mem (d : Nat → α) (m : SMap α) (k : Nat) (h : ∀ e ∈ m, e.1 ≠ k) : mapGet d m k = d k := by
  induction m with
  | nil => rfl
  | cons e t ih =>
    obtain ⟨a, v⟩ := e
    have ha : a ≠ k := h (a, v) (by simp)
    simp only [mapGet, ha, if_false]
    exact ih fun e he => h e (by simp [he])

/-- Reading a concatenation: the first part where it has the key, else the second. -/
theorem mapGet_append (d : Nat → α) (m n : SMap α) (k : Nat) :
    mapGet d (m ++ n) k = if ∃ e ∈ m, e.1 = k then mapGet d m k else mapGet d n k := by
  induction m with
  | nil => simp
  | cons e t ih =>
    obtain ⟨a, v⟩ := e
    by_cases ha : a = k
    · simp [mapGet, ha]
    · have hx : (∃ e ∈ (a, v) :: t, e.1 = k) ↔ ∃ e ∈ t, e.1 = k := by
        constructor
        · rintro ⟨e, he, hk⟩
          rcases List.mem_cons.1 he with rfl | he
          · exact absurd hk ha
          · exact ⟨e, he, hk⟩
        · rintro ⟨e, he, hk⟩
          exact ⟨e, List.mem_cons_of_mem _ he, hk⟩
      simp only [List.cons_append, mapGet, ha, if_false, ih, hx]

/-- Reading a map with the entries of some keys removed. -/
theorem mapGet_filter (d : Nat → α) (m : SMap α) (p : Nat → Bool) (k : Nat) :
    mapGet d (m.filter fun e => p e.1) k = if p k then mapGet d m k else d k := by
  induction m with
  | nil => simp [mapGet]
  | cons e t ih =>
    obtain ⟨a, v⟩ := e
    by_cases ha : a = k
    · subst ha
      by_cases hp : p a
      · simp [mapGet, hp]
      · simp [ih, hp]
    · by_cases hp : p a
      · simp [hp, mapGet, ha, ih]
      · simp [hp, mapGet, ha, ih]

variable [DecidableEq α]

/-- Every key of a run lies in its range. -/
theorem mapRun_key (d : Nat → α) (k : Nat) (vs : List α) : ∀ e ∈ mapRun d k vs, k ≤ e.1 ∧ e.1 < k + vs.length := by
  induction vs generalizing k with
  | nil => simp [mapRun]
  | cons v t ih =>
    intro e he
    simp only [mapRun] at he
    split at he
    · have := ih (k + 1) e he
      simp only [List.length_cons]; omega
    · rcases List.mem_cons.1 he with rfl | he
      · simp
      · have := ih (k + 1) e he
        simp only [List.length_cons]; omega

/-- No entry of a run equals its default. -/
theorem mapRun_ne (d : Nat → α) (k : Nat) (vs : List α) : ∀ e ∈ mapRun d k vs, e.2 ≠ d e.1 := by
  induction vs generalizing k with
  | nil => simp [mapRun]
  | cons v t ih =>
    intro e he
    simp only [mapRun] at he
    split at he
    · exact ih (k + 1) e he
    · rename_i hv
      rcases List.mem_cons.1 he with rfl | he
      · exact hv
      · exact ih (k + 1) e he

/-- The keys of a run rise. -/
theorem mapRun_sorted (d : Nat → α) (k : Nat) (vs : List α) :
    (mapRun d k vs).Pairwise fun a b => a.1 < b.1 := by
  induction vs generalizing k with
  | nil => simp [mapRun]
  | cons v t ih =>
    simp only [mapRun]
    split
    · exact ih (k + 1)
    · refine List.pairwise_cons.2 ⟨fun e he => ?_, ih (k + 1)⟩
      have := mapRun_key d (k + 1) t e he
      exact Nat.lt_of_lt_of_le (Nat.lt_succ_self k) this.1

/-- What a run reads as. -/
theorem mapGet_mapRun (d : Nat → α) (k : Nat) (vs : List α) (j : Nat) :
    mapGet d (mapRun d k vs) j = if k ≤ j then vs.getD (j - k) (d j) else d j := by
  induction vs generalizing k with
  | nil => simp [mapRun, mapGet]
  | cons v t ih =>
    simp only [mapRun]
    by_cases hj : k = j
    · subst hj
      split
      · rename_i hv
        rw [ih]
        simp [hv]
      · simp [mapGet]
    · by_cases hlt : k ≤ j
      · have h1 : j - k = (j - (k + 1)) + 1 := by omega
        have h2 : k + 1 ≤ j := by omega
        split
        · rw [ih]; simp [h2, h1]
        · simp only [mapGet, hj, if_false]
          rw [ih]; simp [h2, h1]
      · have h2 : ¬ k + 1 ≤ j := by omega
        split
        · rw [ih]; simp [h2]
        · simp only [mapGet, hj, if_false]
          rw [ih]; simp [h2]

/-- THE LAW OF A WRITE: a key in the range written reads as the value written, every other key as before. -/
theorem mapGet_mapPut (d : Nat → α) (m : SMap α) (k : Nat) (vs : List α) (j : Nat) :
    mapGet d (mapPut d m k vs) j =
      if k ≤ j ∧ j < k + vs.length then vs.getD (j - k) (d j) else mapGet d m j := by
  have h1 := mapGet_filter d m (fun a => decide (a < k)) j
  have h3 := mapGet_filter d m (fun a => decide (k + vs.length ≤ a)) j
  have h2 := mapGet_mapRun d k vs j
  have none1 : ¬ j < k → ¬ ∃ e ∈ m.filter (fun e => decide (e.1 < k)), e.1 = j := by
    rintro hj ⟨e, he, rfl⟩
    simp at he; omega
  have none2 : (j < k ∨ k + vs.length ≤ j) → ¬ ∃ e ∈ mapRun d k vs, e.1 = j := by
    rintro hj ⟨e, he, rfl⟩
    have := mapRun_key d k vs e he; omega
  have absent : ∀ {l : SMap α}, (¬ ∃ e ∈ l, e.1 = j) → mapGet d l j = d j := by
    intro l hl
    exact mapGet_of_not_mem d l j fun e he hk => hl ⟨e, he, hk⟩
  unfold mapPut
  rw [List.append_assoc, mapGet_append, mapGet_append]
  by_cases hlt : j < k
  · rw [if_neg (none2 (Or.inl hlt)), if_neg (by omega : ¬ (k ≤ j ∧ j < k + vs.length))]
    split
    · rw [h1]; simp [hlt]
    · rename_i hn
      have := absent hn
      rw [h1] at this
      simp only [hlt, decide_true, if_true] at this
      rw [h3, if_neg (by simp; omega), this]
  · rw [if_neg (none1 hlt)]
    by_cases hge : k + vs.length ≤ j
    · rw [if_neg (none2 (Or.inr hge)), if_neg (by omega : ¬ (k ≤ j ∧ j < k + vs.length)), h3]
      simp [hge]
    · rw [if_pos (by omega : k ≤ j ∧ j < k + vs.length)]
      have hk : k ≤ j := by omega
      split
      · rw [h2]; simp [hk]
      · rename_i hn
        have := absent hn
        rw [h2] at this
        simp only [hk, if_true] at this
        rw [h3, if_neg (by simp; omega), this]

/-- Writing one key. -/
theorem mapGet_mapSet (d : Nat → α) (m : SMap α) (k : Nat) (v : α) (j : Nat) :
    mapGet d (mapSet d m k v) j = if j = k then v else mapGet d m j := by
  unfold mapSet
  rw [mapGet_mapPut]
  by_cases h : j = k
  · subst h; simp
  · rw [if_neg (by simp; omega), if_neg h]

@[simp] theorem mapGet_mapSet_self (d : Nat → α) (m : SMap α) (k : Nat) (v : α) : mapGet d (mapSet d m k v) k = v := by
  rw [mapGet_mapSet, if_pos rfl]

theorem mapGet_mapSet_ne (d : Nat → α) (m : SMap α) (k : Nat) (v : α) (j : Nat) (h : j ≠ k) :
    mapGet d (mapSet d m k v) j = mapGet d m j := by
  rw [mapGet_mapSet, if_neg h]

omit [DecidableEq α] in
/-- A cleared range reads as its default, every other key as before. -/
theorem mapGet_mapClear (d : Nat → α) (m : SMap α) (k n : Nat) (j : Nat) :
    mapGet d (mapClear m k n) j = if k ≤ j ∧ j < k + n then d j else mapGet d m j := by
  have h1 := mapGet_filter d m (fun a => decide (a < k)) j
  have h3 := mapGet_filter d m (fun a => decide (k + n ≤ a)) j
  have absent : ∀ {l : SMap α}, (¬ ∃ e ∈ l, e.1 = j) → mapGet d l j = d j := by
    intro l hl
    exact mapGet_of_not_mem d l j fun e he hk => hl ⟨e, he, hk⟩
  unfold mapClear
  rw [mapGet_append]
  by_cases hlt : j < k
  · rw [if_neg (by omega : ¬ (k ≤ j ∧ j < k + n))]
    split
    · rw [h1]; simp [hlt]
    · rename_i hn
      have := absent hn
      rw [h1] at this
      simp only [hlt, decide_true, if_true] at this
      rw [h3, if_neg (by simp; omega), this]
  · have hn : ¬ ∃ e ∈ m.filter (fun e => decide (e.1 < k)), e.1 = j := by
      rintro ⟨e, he, rfl⟩
      simp at he; omega
    rw [if_neg hn, h3]
    by_cases hge : k + n ≤ j
    · rw [if_neg (by omega : ¬ (k ≤ j ∧ j < k + n))]; simp [hge]
    · rw [if_pos (by omega : k ≤ j ∧ j < k + n)]; simp [hge]

/-! ### The canonical form -/

theorem mapWf_iff (d : Nat → α) (m : SMap α) :
    mapWf d m = true ↔ m.Pairwise (fun a b => a.1 < b.1) ∧ ∀ e ∈ m, e.2 ≠ d e.1 := by
  simp [mapWf, List.pairwise_map]

theorem mapWf_nil (d : Nat → α) : mapWf d ([] : SMap α) = true := by
  rw [mapWf_iff]; simp

/-- Removing entries keeps the form. -/
theorem mapWf_filter (d : Nat → α) (m : SMap α) (p : Nat × α → Bool) (h : mapWf d m = true) :
    mapWf d (m.filter p) = true := by
  rw [mapWf_iff] at *
  exact ⟨h.1.filter p, fun e he => h.2 e (List.mem_of_mem_filter he)⟩

/-- A write keeps the form. -/
theorem mapWf_mapPut (d : Nat → α) (m : SMap α) (k : Nat) (vs : List α) (h : mapWf d m = true) :
    mapWf d (mapPut d m k vs) = true := by
  rw [mapWf_iff] at *
  obtain ⟨hs, hd⟩ := h
  constructor
  · unfold mapPut
    refine List.pairwise_append.2 ⟨List.pairwise_append.2 ⟨hs.filter _, mapRun_sorted d k vs, ?_⟩, hs.filter _, ?_⟩
    · intro a ha b hb
      have := mapRun_key d k vs b hb
      simp at ha; omega
    · intro a ha b hb
      simp only [List.mem_append, List.mem_filter, decide_eq_true_eq] at ha hb
      rcases ha with ha | ha
      · omega
      · have := mapRun_key d k vs a ha; omega
  · intro e he
    simp only [mapPut, List.mem_append] at he
    rcases he with (he | he) | he
    · exact hd e (List.mem_of_mem_filter he)
    · exact mapRun_ne d k vs e he
    · exact hd e (List.mem_of_mem_filter he)

/-- Writing one key keeps the form. -/
theorem mapWf_mapSet (d : Nat → α) (m : SMap α) (k : Nat) (v : α) (h : mapWf d m = true) :
    mapWf d (mapSet d m k v) = true := mapWf_mapPut d m k [v] h

/-- Clearing a range keeps the form. -/
theorem mapWf_mapClear (d : Nat → α) (m : SMap α) (k n : Nat) (h : mapWf d m = true) :
    mapWf d (mapClear m k n) = true := by
  rw [mapWf_iff] at *
  obtain ⟨hs, hd⟩ := h
  constructor
  · refine List.pairwise_append.2 ⟨hs.filter _, hs.filter _, ?_⟩
    intro a ha b hb
    simp only [List.mem_filter, decide_eq_true_eq] at ha hb
    omega
  · intro e he
    simp only [mapClear, List.mem_append] at he
    rcases he with he | he
    · exact hd e (List.mem_of_mem_filter he)
    · exact hd e (List.mem_of_mem_filter he)

/-- Taking a range from another canonical map keeps the form. -/
theorem mapWf_mapFrom (d : Nat → α) (m src : SMap α) (k n : Nat) (h : mapWf d m = true) (hs : mapWf d src = true) :
    mapWf d (mapFrom m src k n) = true := by
  rw [mapWf_iff] at *
  obtain ⟨hm, hd⟩ := h
  obtain ⟨hm', hd'⟩ := hs
  constructor
  · refine List.pairwise_append.2 ⟨List.pairwise_append.2 ⟨hm.filter _, hm'.filter _, ?_⟩, hm.filter _, ?_⟩
    · intro a ha b hb
      simp only [List.mem_filter, decide_eq_true_eq, Bool.and_eq_true] at ha hb
      omega
    · intro a ha b hb
      simp only [List.mem_append, List.mem_filter, decide_eq_true_eq, Bool.and_eq_true] at ha hb
      omega
  · intro e he
    simp only [mapFrom, List.mem_append] at he
    rcases he with (he | he) | he
    · exact hd e (List.mem_of_mem_filter he)
    · exact hd' e (List.mem_of_mem_filter he)
    · exact hd e (List.mem_of_mem_filter he)

/-- Two canonical maps that read alike are the same data. -/
theorem mapWf_ext (d : Nat → α) (m n : SMap α) (hm : mapWf d m = true) (hn : mapWf d n = true)
    (h : ∀ k, mapGet d m k = mapGet d n k) : m = n := by
  rw [mapWf_iff] at hm hn
  induction m generalizing n with
  | nil =>
    cases n with
    | nil => rfl
    | cons e t =>
      have := h e.1
      simp only [mapGet, if_true] at this
      exact absurd this.symm (hn.2 e (by simp))
  | cons e t ih =>
    have low : ∀ {l : SMap α} {k : Nat}, (∀ x ∈ l, k < x.1) → mapGet d l k = d k := by
      intro l k hl
      exact mapGet_of_not_mem d l k fun x hx hk => by have := hl x hx; omega
    have ht : ∀ x ∈ t, e.1 < x.1 := fun x hx => (List.pairwise_cons.1 hm.1).1 x hx
    cases n with
    | nil =>
      have := h e.1
      simp only [mapGet, if_true] at this
      exact absurd this (hm.2 e (by simp))
    | cons f u =>
      have hu : ∀ x ∈ u, f.1 < x.1 := fun x hx => (List.pairwise_cons.1 hn.1).1 x hx
      have hkey : e.1 = f.1 := by
        rcases Nat.lt_trichotomy e.1 f.1 with hlt | heq | hgt
        · have h1 := h e.1
          rw [low (l := f :: u) (by
            intro x hx
            rcases List.mem_cons.1 hx with rfl | hx
            · exact hlt
            · exact Nat.lt_trans hlt (hu x hx))] at h1
          simp only [mapGet, if_true] at h1
          exact absurd h1 (hm.2 e (by simp))
        · exact heq
        · have h1 := h f.1
          rw [low (l := e :: t) (by
            intro x hx
            rcases List.mem_cons.1 hx with rfl | hx
            · exact hgt
            · exact Nat.lt_trans hgt (ht x hx))] at h1
          simp only [mapGet, if_true] at h1
          exact absurd h1.symm (hn.2 f (by simp))
      obtain ⟨a, v⟩ := e
      obtain ⟨b, w⟩ := f
      simp only at hkey
      subst hkey
      have hv := h a
      simp only [mapGet, if_true] at hv
      subst hv
      congr 1
      refine ih u ⟨(List.pairwise_cons.1 hm.1).2, fun x hx => hm.2 x (by simp [hx])⟩
        ⟨(List.pairwise_cons.1 hn.1).2, fun x hx => hn.2 x (by simp [hx])⟩ fun k => ?_
      by_cases hk : a = k
      · subst hk; rw [low ht, low hu]
      · have := h k
        simpa [mapGet, hk] using this

end Sys2Proof.Machine
end

