-- ==== Sys2Proof/Laws/State.lean ====
section
/-! SUPPORT. What each primitive update leaves in each field of the state, so that no later proof unfolds a record update. -/

namespace Sys2Proof.Machine

@[simp] theorem Upd.reg_fields (k : Nat) (v : DWord) (s : State) :
    ((Upd.reg k v).apply s).build = s.build ∧ ((Upd.reg k v).apply s).factory = s.factory ∧
    ((Upd.reg k v).apply s).pending = s.pending ∧ ((Upd.reg k v).apply s).out = s.out ∧
    ((Upd.reg k v).apply s).freeCtr = s.freeCtr ∧ ((Upd.reg k v).apply s).regs = mapSet regReset s.regs k v ∧
    ((Upd.reg k v).apply s).srstOld = s.srstOld ∧ ((Upd.reg k v).apply s).mem = s.mem ∧
    ((Upd.reg k v).apply s).syn = s.syn ∧ ((Upd.reg k v).apply s).written = s.written ∧
    ((Upd.reg k v).apply s).cands = s.cands ∧ ((Upd.reg k v).apply s).fifos = s.fifos ∧
    ((Upd.reg k v).apply s).zeroing = s.zeroing ∧ ((Upd.reg k v).apply s).units = s.units ∧
    ((Upd.reg k v).apply s).press = s.press ∧ ((Upd.reg k v).apply s).tiles = s.tiles ∧
    ((Upd.reg k v).apply s).flights = s.flights ∧ ((Upd.reg k v).apply s).ues = s.ues ∧
    ((Upd.reg k v).apply s).solvs = s.solvs ∧ ((Upd.reg k v).apply s).shef = s.shef ∧
    ((Upd.reg k v).apply s).pfs = s.pfs ∧ ((Upd.reg k v).apply s).moves = s.moves ∧
    ((Upd.reg k v).apply s).flash = s.flash ∧ ((Upd.reg k v).apply s).ri = s.ri ∧
    ((Upd.reg k v).apply s).links = s.links ∧ ((Upd.reg k v).apply s).fab = s.fab ∧
    ((Upd.reg k v).apply s).events = s.events ∧ ((Upd.reg k v).apply s).evtSeq = s.evtSeq ∧
    ((Upd.reg k v).apply s).boot = s.boot ∧ ((Upd.reg k v).apply s).power = s.power ∧
    ((Upd.reg k v).apply s).nv = s.nv ∧ ((Upd.reg k v).apply s).eth = s.eth ∧
    ((Upd.reg k v).apply s).sessions = s.sessions ∧ ((Upd.reg k v).apply s).telSeq = s.telSeq ∧
    ((Upd.reg k v).apply s).bkUsed = s.bkUsed := by
  and_intros <;> rfl

@[simp] theorem Upd.srstSave_fields (k n : Nat) (s : State) :
    ((Upd.srstSave k n).apply s).build = s.build ∧ ((Upd.srstSave k n).apply s).factory = s.factory ∧
    ((Upd.srstSave k n).apply s).pending = s.pending ∧ ((Upd.srstSave k n).apply s).out = s.out ∧
    ((Upd.srstSave k n).apply s).freeCtr = s.freeCtr ∧ ((Upd.srstSave k n).apply s).regs = s.regs ∧
    ((Upd.srstSave k n).apply s).srstOld = mapFrom s.srstOld s.regs k n ∧ ((Upd.srstSave k n).apply s).mem = s.mem ∧
    ((Upd.srstSave k n).apply s).syn = s.syn ∧ ((Upd.srstSave k n).apply s).written = s.written ∧
    ((Upd.srstSave k n).apply s).cands = s.cands ∧ ((Upd.srstSave k n).apply s).fifos = s.fifos ∧
    ((Upd.srstSave k n).apply s).zeroing = s.zeroing ∧ ((Upd.srstSave k n).apply s).units = s.units ∧
    ((Upd.srstSave k n).apply s).press = s.press ∧ ((Upd.srstSave k n).apply s).tiles = s.tiles ∧
    ((Upd.srstSave k n).apply s).flights = s.flights ∧ ((Upd.srstSave k n).apply s).ues = s.ues ∧
    ((Upd.srstSave k n).apply s).solvs = s.solvs ∧ ((Upd.srstSave k n).apply s).shef = s.shef ∧
    ((Upd.srstSave k n).apply s).pfs = s.pfs ∧ ((Upd.srstSave k n).apply s).moves = s.moves ∧
    ((Upd.srstSave k n).apply s).flash = s.flash ∧ ((Upd.srstSave k n).apply s).ri = s.ri ∧
    ((Upd.srstSave k n).apply s).links = s.links ∧ ((Upd.srstSave k n).apply s).fab = s.fab ∧
    ((Upd.srstSave k n).apply s).events = s.events ∧ ((Upd.srstSave k n).apply s).evtSeq = s.evtSeq ∧
    ((Upd.srstSave k n).apply s).boot = s.boot ∧ ((Upd.srstSave k n).apply s).power = s.power ∧
    ((Upd.srstSave k n).apply s).nv = s.nv ∧ ((Upd.srstSave k n).apply s).eth = s.eth ∧
    ((Upd.srstSave k n).apply s).sessions = s.sessions ∧ ((Upd.srstSave k n).apply s).telSeq = s.telSeq ∧
    ((Upd.srstSave k n).apply s).bkUsed = s.bkUsed := by
  and_intros <;> rfl

@[simp] theorem Upd.srstDrop_fields (k n : Nat) (s : State) :
    ((Upd.srstDrop k n).apply s).build = s.build ∧ ((Upd.srstDrop k n).apply s).factory = s.factory ∧
    ((Upd.srstDrop k n).apply s).pending = s.pending ∧ ((Upd.srstDrop k n).apply s).out = s.out ∧
    ((Upd.srstDrop k n).apply s).freeCtr = s.freeCtr ∧ ((Upd.srstDrop k n).apply s).regs = s.regs ∧
    ((Upd.srstDrop k n).apply s).srstOld = mapClear s.srstOld k n ∧ ((Upd.srstDrop k n).apply s).mem = s.mem ∧
    ((Upd.srstDrop k n).apply s).syn = s.syn ∧ ((Upd.srstDrop k n).apply s).written = s.written ∧
    ((Upd.srstDrop k n).apply s).cands = s.cands ∧ ((Upd.srstDrop k n).apply s).fifos = s.fifos ∧
    ((Upd.srstDrop k n).apply s).zeroing = s.zeroing ∧ ((Upd.srstDrop k n).apply s).units = s.units ∧
    ((Upd.srstDrop k n).apply s).press = s.press ∧ ((Upd.srstDrop k n).apply s).tiles = s.tiles ∧
    ((Upd.srstDrop k n).apply s).flights = s.flights ∧ ((Upd.srstDrop k n).apply s).ues = s.ues ∧
    ((Upd.srstDrop k n).apply s).solvs = s.solvs ∧ ((Upd.srstDrop k n).apply s).shef = s.shef ∧
    ((Upd.srstDrop k n).apply s).pfs = s.pfs ∧ ((Upd.srstDrop k n).apply s).moves = s.moves ∧
    ((Upd.srstDrop k n).apply s).flash = s.flash ∧ ((Upd.srstDrop k n).apply s).ri = s.ri ∧
    ((Upd.srstDrop k n).apply s).links = s.links ∧ ((Upd.srstDrop k n).apply s).fab = s.fab ∧
    ((Upd.srstDrop k n).apply s).events = s.events ∧ ((Upd.srstDrop k n).apply s).evtSeq = s.evtSeq ∧
    ((Upd.srstDrop k n).apply s).boot = s.boot ∧ ((Upd.srstDrop k n).apply s).power = s.power ∧
    ((Upd.srstDrop k n).apply s).nv = s.nv ∧ ((Upd.srstDrop k n).apply s).eth = s.eth ∧
    ((Upd.srstDrop k n).apply s).sessions = s.sessions ∧ ((Upd.srstDrop k n).apply s).telSeq = s.telSeq ∧
    ((Upd.srstDrop k n).apply s).bkUsed = s.bkUsed := by
  and_intros <;> rfl

@[simp] theorem Upd.mem_fields (k : Nat) (bs : List Byte) (s : State) :
    ((Upd.mem k bs).apply s).build = s.build ∧ ((Upd.mem k bs).apply s).factory = s.factory ∧
    ((Upd.mem k bs).apply s).pending = s.pending ∧ ((Upd.mem k bs).apply s).out = s.out ∧
    ((Upd.mem k bs).apply s).freeCtr = s.freeCtr ∧ ((Upd.mem k bs).apply s).regs = s.regs ∧
    ((Upd.mem k bs).apply s).srstOld = s.srstOld ∧ ((Upd.mem k bs).apply s).mem = mapPut memDefault s.mem k bs ∧
    ((Upd.mem k bs).apply s).syn = s.syn ∧ ((Upd.mem k bs).apply s).written = s.written ∧
    ((Upd.mem k bs).apply s).cands = s.cands ∧ ((Upd.mem k bs).apply s).fifos = s.fifos ∧
    ((Upd.mem k bs).apply s).zeroing = s.zeroing ∧ ((Upd.mem k bs).apply s).units = s.units ∧
    ((Upd.mem k bs).apply s).press = s.press ∧ ((Upd.mem k bs).apply s).tiles = s.tiles ∧
    ((Upd.mem k bs).apply s).flights = s.flights ∧ ((Upd.mem k bs).apply s).ues = s.ues ∧
    ((Upd.mem k bs).apply s).solvs = s.solvs ∧ ((Upd.mem k bs).apply s).shef = s.shef ∧
    ((Upd.mem k bs).apply s).pfs = s.pfs ∧ ((Upd.mem k bs).apply s).moves = s.moves ∧
    ((Upd.mem k bs).apply s).flash = s.flash ∧ ((Upd.mem k bs).apply s).ri = s.ri ∧
    ((Upd.mem k bs).apply s).links = s.links ∧ ((Upd.mem k bs).apply s).fab = s.fab ∧
    ((Upd.mem k bs).apply s).events = s.events ∧ ((Upd.mem k bs).apply s).evtSeq = s.evtSeq ∧
    ((Upd.mem k bs).apply s).boot = s.boot ∧ ((Upd.mem k bs).apply s).power = s.power ∧
    ((Upd.mem k bs).apply s).nv = s.nv ∧ ((Upd.mem k bs).apply s).eth = s.eth ∧
    ((Upd.mem k bs).apply s).sessions = s.sessions ∧ ((Upd.mem k bs).apply s).telSeq = s.telSeq ∧
    ((Upd.mem k bs).apply s).bkUsed = s.bkUsed := by
  and_intros <;> rfl

@[simp] theorem Upd.syn_fields (k : Nat) (vs : List Nat) (s : State) :
    ((Upd.syn k vs).apply s).build = s.build ∧ ((Upd.syn k vs).apply s).factory = s.factory ∧
    ((Upd.syn k vs).apply s).pending = s.pending ∧ ((Upd.syn k vs).apply s).out = s.out ∧
    ((Upd.syn k vs).apply s).freeCtr = s.freeCtr ∧ ((Upd.syn k vs).apply s).regs = s.regs ∧
    ((Upd.syn k vs).apply s).srstOld = s.srstOld ∧ ((Upd.syn k vs).apply s).mem = s.mem ∧
    ((Upd.syn k vs).apply s).syn = mapPut synDefault s.syn k vs ∧ ((Upd.syn k vs).apply s).written = s.written ∧
    ((Upd.syn k vs).apply s).cands = s.cands ∧ ((Upd.syn k vs).apply s).fifos = s.fifos ∧
    ((Upd.syn k vs).apply s).zeroing = s.zeroing ∧ ((Upd.syn k vs).apply s).units = s.units ∧
    ((Upd.syn k vs).apply s).press = s.press ∧ ((Upd.syn k vs).apply s).tiles = s.tiles ∧
    ((Upd.syn k vs).apply s).flights = s.flights ∧ ((Upd.syn k vs).apply s).ues = s.ues ∧
    ((Upd.syn k vs).apply s).solvs = s.solvs ∧ ((Upd.syn k vs).apply s).shef = s.shef ∧
    ((Upd.syn k vs).apply s).pfs = s.pfs ∧ ((Upd.syn k vs).apply s).moves = s.moves ∧
    ((Upd.syn k vs).apply s).flash = s.flash ∧ ((Upd.syn k vs).apply s).ri = s.ri ∧
    ((Upd.syn k vs).apply s).links = s.links ∧ ((Upd.syn k vs).apply s).fab = s.fab ∧
    ((Upd.syn k vs).apply s).events = s.events ∧ ((Upd.syn k vs).apply s).evtSeq = s.evtSeq ∧
    ((Upd.syn k vs).apply s).boot = s.boot ∧ ((Upd.syn k vs).apply s).power = s.power ∧
    ((Upd.syn k vs).apply s).nv = s.nv ∧ ((Upd.syn k vs).apply s).eth = s.eth ∧
    ((Upd.syn k vs).apply s).sessions = s.sessions ∧ ((Upd.syn k vs).apply s).telSeq = s.telSeq ∧
    ((Upd.syn k vs).apply s).bkUsed = s.bkUsed := by
  and_intros <;> rfl

@[simp] theorem Upd.written_fields (k : Nat) (vs : List Bool) (s : State) :
    ((Upd.written k vs).apply s).build = s.build ∧ ((Upd.written k vs).apply s).factory = s.factory ∧
    ((Upd.written k vs).apply s).pending = s.pending ∧ ((Upd.written k vs).apply s).out = s.out ∧
    ((Upd.written k vs).apply s).freeCtr = s.freeCtr ∧ ((Upd.written k vs).apply s).regs = s.regs ∧
    ((Upd.written k vs).apply s).srstOld = s.srstOld ∧ ((Upd.written k vs).apply s).mem = s.mem ∧
    ((Upd.written k vs).apply s).syn = s.syn ∧
    ((Upd.written k vs).apply s).written = mapPut writtenDefault s.written k vs ∧
    ((Upd.written k vs).apply s).cands = s.cands ∧ ((Upd.written k vs).apply s).fifos = s.fifos ∧
    ((Upd.written k vs).apply s).zeroing = s.zeroing ∧ ((Upd.written k vs).apply s).units = s.units ∧
    ((Upd.written k vs).apply s).press = s.press ∧ ((Upd.written k vs).apply s).tiles = s.tiles ∧
    ((Upd.written k vs).apply s).flights = s.flights ∧ ((Upd.written k vs).apply s).ues = s.ues ∧
    ((Upd.written k vs).apply s).solvs = s.solvs ∧ ((Upd.written k vs).apply s).shef = s.shef ∧
    ((Upd.written k vs).apply s).pfs = s.pfs ∧ ((Upd.written k vs).apply s).moves = s.moves ∧
    ((Upd.written k vs).apply s).flash = s.flash ∧ ((Upd.written k vs).apply s).ri = s.ri ∧
    ((Upd.written k vs).apply s).links = s.links ∧ ((Upd.written k vs).apply s).fab = s.fab ∧
    ((Upd.written k vs).apply s).events = s.events ∧ ((Upd.written k vs).apply s).evtSeq = s.evtSeq ∧
    ((Upd.written k vs).apply s).boot = s.boot ∧ ((Upd.written k vs).apply s).power = s.power ∧
    ((Upd.written k vs).apply s).nv = s.nv ∧ ((Upd.written k vs).apply s).eth = s.eth ∧
    ((Upd.written k vs).apply s).sessions = s.sessions ∧ ((Upd.written k vs).apply s).telSeq = s.telSeq ∧
    ((Upd.written k vs).apply s).bkUsed = s.bkUsed := by
  and_intros <;> rfl

@[simp] theorem Upd.memClear_fields (k n : Nat) (s : State) :
    ((Upd.memClear k n).apply s).build = s.build ∧ ((Upd.memClear k n).apply s).factory = s.factory ∧
    ((Upd.memClear k n).apply s).pending = s.pending ∧ ((Upd.memClear k n).apply s).out = s.out ∧
    ((Upd.memClear k n).apply s).freeCtr = s.freeCtr ∧ ((Upd.memClear k n).apply s).regs = s.regs ∧
    ((Upd.memClear k n).apply s).srstOld = s.srstOld ∧ ((Upd.memClear k n).apply s).mem = mapClear s.mem k n ∧
    ((Upd.memClear k n).apply s).syn = s.syn ∧ ((Upd.memClear k n).apply s).written = s.written ∧
    ((Upd.memClear k n).apply s).cands = s.cands ∧ ((Upd.memClear k n).apply s).fifos = s.fifos ∧
    ((Upd.memClear k n).apply s).zeroing = s.zeroing ∧ ((Upd.memClear k n).apply s).units = s.units ∧
    ((Upd.memClear k n).apply s).press = s.press ∧ ((Upd.memClear k n).apply s).tiles = s.tiles ∧
    ((Upd.memClear k n).apply s).flights = s.flights ∧ ((Upd.memClear k n).apply s).ues = s.ues ∧
    ((Upd.memClear k n).apply s).solvs = s.solvs ∧ ((Upd.memClear k n).apply s).shef = s.shef ∧
    ((Upd.memClear k n).apply s).pfs = s.pfs ∧ ((Upd.memClear k n).apply s).moves = s.moves ∧
    ((Upd.memClear k n).apply s).flash = s.flash ∧ ((Upd.memClear k n).apply s).ri = s.ri ∧
    ((Upd.memClear k n).apply s).links = s.links ∧ ((Upd.memClear k n).apply s).fab = s.fab ∧
    ((Upd.memClear k n).apply s).events = s.events ∧ ((Upd.memClear k n).apply s).evtSeq = s.evtSeq ∧
    ((Upd.memClear k n).apply s).boot = s.boot ∧ ((Upd.memClear k n).apply s).power = s.power ∧
    ((Upd.memClear k n).apply s).nv = s.nv ∧ ((Upd.memClear k n).apply s).eth = s.eth ∧
    ((Upd.memClear k n).apply s).sessions = s.sessions ∧ ((Upd.memClear k n).apply s).telSeq = s.telSeq ∧
    ((Upd.memClear k n).apply s).bkUsed = s.bkUsed := by
  and_intros <;> rfl

@[simp] theorem Upd.synClear_fields (k n : Nat) (s : State) :
    ((Upd.synClear k n).apply s).build = s.build ∧ ((Upd.synClear k n).apply s).factory = s.factory ∧
    ((Upd.synClear k n).apply s).pending = s.pending ∧ ((Upd.synClear k n).apply s).out = s.out ∧
    ((Upd.synClear k n).apply s).freeCtr = s.freeCtr ∧ ((Upd.synClear k n).apply s).regs = s.regs ∧
    ((Upd.synClear k n).apply s).srstOld = s.srstOld ∧ ((Upd.synClear k n).apply s).mem = s.mem ∧
    ((Upd.synClear k n).apply s).syn = mapClear s.syn k n ∧ ((Upd.synClear k n).apply s).written = s.written ∧
    ((Upd.synClear k n).apply s).cands = s.cands ∧ ((Upd.synClear k n).apply s).fifos = s.fifos ∧
    ((Upd.synClear k n).apply s).zeroing = s.zeroing ∧ ((Upd.synClear k n).apply s).units = s.units ∧
    ((Upd.synClear k n).apply s).press = s.press ∧ ((Upd.synClear k n).apply s).tiles = s.tiles ∧
    ((Upd.synClear k n).apply s).flights = s.flights ∧ ((Upd.synClear k n).apply s).ues = s.ues ∧
    ((Upd.synClear k n).apply s).solvs = s.solvs ∧ ((Upd.synClear k n).apply s).shef = s.shef ∧
    ((Upd.synClear k n).apply s).pfs = s.pfs ∧ ((Upd.synClear k n).apply s).moves = s.moves ∧
    ((Upd.synClear k n).apply s).flash = s.flash ∧ ((Upd.synClear k n).apply s).ri = s.ri ∧
    ((Upd.synClear k n).apply s).links = s.links ∧ ((Upd.synClear k n).apply s).fab = s.fab ∧
    ((Upd.synClear k n).apply s).events = s.events ∧ ((Upd.synClear k n).apply s).evtSeq = s.evtSeq ∧
    ((Upd.synClear k n).apply s).boot = s.boot ∧ ((Upd.synClear k n).apply s).power = s.power ∧
    ((Upd.synClear k n).apply s).nv = s.nv ∧ ((Upd.synClear k n).apply s).eth = s.eth ∧
    ((Upd.synClear k n).apply s).sessions = s.sessions ∧ ((Upd.synClear k n).apply s).telSeq = s.telSeq ∧
    ((Upd.synClear k n).apply s).bkUsed = s.bkUsed := by
  and_intros <;> rfl

@[simp] theorem Upd.writtenClear_fields (k n : Nat) (s : State) :
    ((Upd.writtenClear k n).apply s).build = s.build ∧ ((Upd.writtenClear k n).apply s).factory = s.factory ∧
    ((Upd.writtenClear k n).apply s).pending = s.pending ∧ ((Upd.writtenClear k n).apply s).out = s.out ∧
    ((Upd.writtenClear k n).apply s).freeCtr = s.freeCtr ∧ ((Upd.writtenClear k n).apply s).regs = s.regs ∧
    ((Upd.writtenClear k n).apply s).srstOld = s.srstOld ∧ ((Upd.writtenClear k n).apply s).mem = s.mem ∧
    ((Upd.writtenClear k n).apply s).syn = s.syn ∧
    ((Upd.writtenClear k n).apply s).written = mapClear s.written k n ∧
    ((Upd.writtenClear k n).apply s).cands = s.cands ∧ ((Upd.writtenClear k n).apply s).fifos = s.fifos ∧
    ((Upd.writtenClear k n).apply s).zeroing = s.zeroing ∧ ((Upd.writtenClear k n).apply s).units = s.units ∧
    ((Upd.writtenClear k n).apply s).press = s.press ∧ ((Upd.writtenClear k n).apply s).tiles = s.tiles ∧
    ((Upd.writtenClear k n).apply s).flights = s.flights ∧ ((Upd.writtenClear k n).apply s).ues = s.ues ∧
    ((Upd.writtenClear k n).apply s).solvs = s.solvs ∧ ((Upd.writtenClear k n).apply s).shef = s.shef ∧
    ((Upd.writtenClear k n).apply s).pfs = s.pfs ∧ ((Upd.writtenClear k n).apply s).moves = s.moves ∧
    ((Upd.writtenClear k n).apply s).flash = s.flash ∧ ((Upd.writtenClear k n).apply s).ri = s.ri ∧
    ((Upd.writtenClear k n).apply s).links = s.links ∧ ((Upd.writtenClear k n).apply s).fab = s.fab ∧
    ((Upd.writtenClear k n).apply s).events = s.events ∧ ((Upd.writtenClear k n).apply s).evtSeq = s.evtSeq ∧
    ((Upd.writtenClear k n).apply s).boot = s.boot ∧ ((Upd.writtenClear k n).apply s).power = s.power ∧
    ((Upd.writtenClear k n).apply s).nv = s.nv ∧ ((Upd.writtenClear k n).apply s).eth = s.eth ∧
    ((Upd.writtenClear k n).apply s).sessions = s.sessions ∧ ((Upd.writtenClear k n).apply s).telSeq = s.telSeq ∧
    ((Upd.writtenClear k n).apply s).bkUsed = s.bkUsed := by
  and_intros <;> rfl

@[simp] theorem Upd.emit_fields (m : OutMsg) (s : State) :
    ((Upd.emit m).apply s).build = s.build ∧ ((Upd.emit m).apply s).factory = s.factory ∧
    ((Upd.emit m).apply s).pending = s.pending ∧ ((Upd.emit m).apply s).out = m :: s.out ∧
    ((Upd.emit m).apply s).freeCtr = s.freeCtr ∧ ((Upd.emit m).apply s).regs = s.regs ∧
    ((Upd.emit m).apply s).srstOld = s.srstOld ∧ ((Upd.emit m).apply s).mem = s.mem ∧
    ((Upd.emit m).apply s).syn = s.syn ∧ ((Upd.emit m).apply s).written = s.written ∧
    ((Upd.emit m).apply s).cands = s.cands ∧ ((Upd.emit m).apply s).fifos = s.fifos ∧
    ((Upd.emit m).apply s).zeroing = s.zeroing ∧ ((Upd.emit m).apply s).units = s.units ∧
    ((Upd.emit m).apply s).press = s.press ∧ ((Upd.emit m).apply s).tiles = s.tiles ∧
    ((Upd.emit m).apply s).flights = s.flights ∧ ((Upd.emit m).apply s).ues = s.ues ∧
    ((Upd.emit m).apply s).solvs = s.solvs ∧ ((Upd.emit m).apply s).shef = s.shef ∧
    ((Upd.emit m).apply s).pfs = s.pfs ∧ ((Upd.emit m).apply s).moves = s.moves ∧
    ((Upd.emit m).apply s).flash = s.flash ∧ ((Upd.emit m).apply s).ri = s.ri ∧
    ((Upd.emit m).apply s).links = s.links ∧ ((Upd.emit m).apply s).fab = s.fab ∧
    ((Upd.emit m).apply s).events = s.events ∧ ((Upd.emit m).apply s).evtSeq = s.evtSeq ∧
    ((Upd.emit m).apply s).boot = s.boot ∧ ((Upd.emit m).apply s).power = s.power ∧
    ((Upd.emit m).apply s).nv = s.nv ∧ ((Upd.emit m).apply s).eth = s.eth ∧
    ((Upd.emit m).apply s).sessions = s.sessions ∧ ((Upd.emit m).apply s).telSeq = s.telSeq ∧
    ((Upd.emit m).apply s).bkUsed = s.bkUsed := by
  and_intros <;> rfl

@[simp] theorem Upd.nextFree_fields (s : State) :
    (Upd.nextFree.apply s).build = s.build ∧ (Upd.nextFree.apply s).factory = s.factory ∧
    (Upd.nextFree.apply s).pending = s.pending ∧ (Upd.nextFree.apply s).out = s.out ∧
    (Upd.nextFree.apply s).freeCtr = s.freeCtr + 1 ∧ (Upd.nextFree.apply s).regs = s.regs ∧
    (Upd.nextFree.apply s).srstOld = s.srstOld ∧ (Upd.nextFree.apply s).mem = s.mem ∧
    (Upd.nextFree.apply s).syn = s.syn ∧ (Upd.nextFree.apply s).written = s.written ∧
    (Upd.nextFree.apply s).cands = s.cands ∧ (Upd.nextFree.apply s).fifos = s.fifos ∧
    (Upd.nextFree.apply s).zeroing = s.zeroing ∧ (Upd.nextFree.apply s).units = s.units ∧
    (Upd.nextFree.apply s).press = s.press ∧ (Upd.nextFree.apply s).tiles = s.tiles ∧
    (Upd.nextFree.apply s).flights = s.flights ∧ (Upd.nextFree.apply s).ues = s.ues ∧
    (Upd.nextFree.apply s).solvs = s.solvs ∧ (Upd.nextFree.apply s).shef = s.shef ∧
    (Upd.nextFree.apply s).pfs = s.pfs ∧ (Upd.nextFree.apply s).moves = s.moves ∧
    (Upd.nextFree.apply s).flash = s.flash ∧ (Upd.nextFree.apply s).ri = s.ri ∧
    (Upd.nextFree.apply s).links = s.links ∧ (Upd.nextFree.apply s).fab = s.fab ∧
    (Upd.nextFree.apply s).events = s.events ∧ (Upd.nextFree.apply s).evtSeq = s.evtSeq ∧
    (Upd.nextFree.apply s).boot = s.boot ∧ (Upd.nextFree.apply s).power = s.power ∧
    (Upd.nextFree.apply s).nv = s.nv ∧ (Upd.nextFree.apply s).eth = s.eth ∧
    (Upd.nextFree.apply s).sessions = s.sessions ∧ (Upd.nextFree.apply s).telSeq = s.telSeq ∧
    (Upd.nextFree.apply s).bkUsed = s.bkUsed := by
  and_intros <;> rfl

@[simp] theorem Upd.cands_fields (k : Nat) (l : List Nat) (s : State) :
    ((Upd.cands k l).apply s).build = s.build ∧ ((Upd.cands k l).apply s).factory = s.factory ∧
    ((Upd.cands k l).apply s).pending = s.pending ∧ ((Upd.cands k l).apply s).out = s.out ∧
    ((Upd.cands k l).apply s).freeCtr = s.freeCtr ∧ ((Upd.cands k l).apply s).regs = s.regs ∧
    ((Upd.cands k l).apply s).srstOld = s.srstOld ∧ ((Upd.cands k l).apply s).mem = s.mem ∧
    ((Upd.cands k l).apply s).syn = s.syn ∧ ((Upd.cands k l).apply s).written = s.written ∧
    ((Upd.cands k l).apply s).cands = mapSet candDefault s.cands k l ∧ ((Upd.cands k l).apply s).fifos = s.fifos ∧
    ((Upd.cands k l).apply s).zeroing = s.zeroing ∧ ((Upd.cands k l).apply s).units = s.units ∧
    ((Upd.cands k l).apply s).press = s.press ∧ ((Upd.cands k l).apply s).tiles = s.tiles ∧
    ((Upd.cands k l).apply s).flights = s.flights ∧ ((Upd.cands k l).apply s).ues = s.ues ∧
    ((Upd.cands k l).apply s).solvs = s.solvs ∧ ((Upd.cands k l).apply s).shef = s.shef ∧
    ((Upd.cands k l).apply s).pfs = s.pfs ∧ ((Upd.cands k l).apply s).moves = s.moves ∧
    ((Upd.cands k l).apply s).flash = s.flash ∧ ((Upd.cands k l).apply s).ri = s.ri ∧
    ((Upd.cands k l).apply s).links = s.links ∧ ((Upd.cands k l).apply s).fab = s.fab ∧
    ((Upd.cands k l).apply s).events = s.events ∧ ((Upd.cands k l).apply s).evtSeq = s.evtSeq ∧
    ((Upd.cands k l).apply s).boot = s.boot ∧ ((Upd.cands k l).apply s).power = s.power ∧
    ((Upd.cands k l).apply s).nv = s.nv ∧ ((Upd.cands k l).apply s).eth = s.eth ∧
    ((Upd.cands k l).apply s).sessions = s.sessions ∧ ((Upd.cands k l).apply s).telSeq = s.telSeq ∧
    ((Upd.cands k l).apply s).bkUsed = s.bkUsed := by
  and_intros <;> rfl

@[simp] theorem Upd.fifo_fields (k : Nat) (l : List WinRec) (s : State) :
    ((Upd.fifo k l).apply s).build = s.build ∧ ((Upd.fifo k l).apply s).factory = s.factory ∧
    ((Upd.fifo k l).apply s).pending = s.pending ∧ ((Upd.fifo k l).apply s).out = s.out ∧
    ((Upd.fifo k l).apply s).freeCtr = s.freeCtr ∧ ((Upd.fifo k l).apply s).regs = s.regs ∧
    ((Upd.fifo k l).apply s).srstOld = s.srstOld ∧ ((Upd.fifo k l).apply s).mem = s.mem ∧
    ((Upd.fifo k l).apply s).syn = s.syn ∧ ((Upd.fifo k l).apply s).written = s.written ∧
    ((Upd.fifo k l).apply s).cands = s.cands ∧ ((Upd.fifo k l).apply s).fifos = mapSet fifoDefault s.fifos k l ∧
    ((Upd.fifo k l).apply s).zeroing = s.zeroing ∧ ((Upd.fifo k l).apply s).units = s.units ∧
    ((Upd.fifo k l).apply s).press = s.press ∧ ((Upd.fifo k l).apply s).tiles = s.tiles ∧
    ((Upd.fifo k l).apply s).flights = s.flights ∧ ((Upd.fifo k l).apply s).ues = s.ues ∧
    ((Upd.fifo k l).apply s).solvs = s.solvs ∧ ((Upd.fifo k l).apply s).shef = s.shef ∧
    ((Upd.fifo k l).apply s).pfs = s.pfs ∧ ((Upd.fifo k l).apply s).moves = s.moves ∧
    ((Upd.fifo k l).apply s).flash = s.flash ∧ ((Upd.fifo k l).apply s).ri = s.ri ∧
    ((Upd.fifo k l).apply s).links = s.links ∧ ((Upd.fifo k l).apply s).fab = s.fab ∧
    ((Upd.fifo k l).apply s).events = s.events ∧ ((Upd.fifo k l).apply s).evtSeq = s.evtSeq ∧
    ((Upd.fifo k l).apply s).boot = s.boot ∧ ((Upd.fifo k l).apply s).power = s.power ∧
    ((Upd.fifo k l).apply s).nv = s.nv ∧ ((Upd.fifo k l).apply s).eth = s.eth ∧
    ((Upd.fifo k l).apply s).sessions = s.sessions ∧ ((Upd.fifo k l).apply s).telSeq = s.telSeq ∧
    ((Upd.fifo k l).apply s).bkUsed = s.bkUsed := by
  and_intros <;> rfl

@[simp] theorem Upd.zeroing_fields (k : Nat) (l : List (Nat × Nat)) (s : State) :
    ((Upd.zeroing k l).apply s).build = s.build ∧ ((Upd.zeroing k l).apply s).factory = s.factory ∧
    ((Upd.zeroing k l).apply s).pending = s.pending ∧ ((Upd.zeroing k l).apply s).out = s.out ∧
    ((Upd.zeroing k l).apply s).freeCtr = s.freeCtr ∧ ((Upd.zeroing k l).apply s).regs = s.regs ∧
    ((Upd.zeroing k l).apply s).srstOld = s.srstOld ∧ ((Upd.zeroing k l).apply s).mem = s.mem ∧
    ((Upd.zeroing k l).apply s).syn = s.syn ∧ ((Upd.zeroing k l).apply s).written = s.written ∧
    ((Upd.zeroing k l).apply s).cands = s.cands ∧ ((Upd.zeroing k l).apply s).fifos = s.fifos ∧
    ((Upd.zeroing k l).apply s).zeroing = mapSet zeroDefault s.zeroing k l ∧
    ((Upd.zeroing k l).apply s).units = s.units ∧ ((Upd.zeroing k l).apply s).press = s.press ∧
    ((Upd.zeroing k l).apply s).tiles = s.tiles ∧ ((Upd.zeroing k l).apply s).flights = s.flights ∧
    ((Upd.zeroing k l).apply s).ues = s.ues ∧ ((Upd.zeroing k l).apply s).solvs = s.solvs ∧
    ((Upd.zeroing k l).apply s).shef = s.shef ∧ ((Upd.zeroing k l).apply s).pfs = s.pfs ∧
    ((Upd.zeroing k l).apply s).moves = s.moves ∧ ((Upd.zeroing k l).apply s).flash = s.flash ∧
    ((Upd.zeroing k l).apply s).ri = s.ri ∧ ((Upd.zeroing k l).apply s).links = s.links ∧
    ((Upd.zeroing k l).apply s).fab = s.fab ∧ ((Upd.zeroing k l).apply s).events = s.events ∧
    ((Upd.zeroing k l).apply s).evtSeq = s.evtSeq ∧ ((Upd.zeroing k l).apply s).boot = s.boot ∧
    ((Upd.zeroing k l).apply s).power = s.power ∧ ((Upd.zeroing k l).apply s).nv = s.nv ∧
    ((Upd.zeroing k l).apply s).eth = s.eth ∧ ((Upd.zeroing k l).apply s).sessions = s.sessions ∧
    ((Upd.zeroing k l).apply s).telSeq = s.telSeq ∧ ((Upd.zeroing k l).apply s).bkUsed = s.bkUsed := by
  and_intros <;> rfl

@[simp] theorem Upd.units_fields (u : Units) (s : State) :
    ((Upd.units u).apply s).build = s.build ∧ ((Upd.units u).apply s).factory = s.factory ∧
    ((Upd.units u).apply s).pending = s.pending ∧ ((Upd.units u).apply s).out = s.out ∧
    ((Upd.units u).apply s).freeCtr = s.freeCtr ∧ ((Upd.units u).apply s).regs = s.regs ∧
    ((Upd.units u).apply s).srstOld = s.srstOld ∧ ((Upd.units u).apply s).mem = s.mem ∧
    ((Upd.units u).apply s).syn = s.syn ∧ ((Upd.units u).apply s).written = s.written ∧
    ((Upd.units u).apply s).cands = s.cands ∧ ((Upd.units u).apply s).fifos = s.fifos ∧
    ((Upd.units u).apply s).zeroing = s.zeroing ∧ ((Upd.units u).apply s).units = u ∧
    ((Upd.units u).apply s).press = s.press ∧ ((Upd.units u).apply s).tiles = s.tiles ∧
    ((Upd.units u).apply s).flights = s.flights ∧ ((Upd.units u).apply s).ues = s.ues ∧
    ((Upd.units u).apply s).solvs = s.solvs ∧ ((Upd.units u).apply s).shef = s.shef ∧
    ((Upd.units u).apply s).pfs = s.pfs ∧ ((Upd.units u).apply s).moves = s.moves ∧
    ((Upd.units u).apply s).flash = s.flash ∧ ((Upd.units u).apply s).ri = s.ri ∧
    ((Upd.units u).apply s).links = s.links ∧ ((Upd.units u).apply s).fab = s.fab ∧
    ((Upd.units u).apply s).events = s.events ∧ ((Upd.units u).apply s).evtSeq = s.evtSeq ∧
    ((Upd.units u).apply s).boot = s.boot ∧ ((Upd.units u).apply s).power = s.power ∧
    ((Upd.units u).apply s).nv = s.nv ∧ ((Upd.units u).apply s).eth = s.eth ∧
    ((Upd.units u).apply s).sessions = s.sessions ∧ ((Upd.units u).apply s).telSeq = s.telSeq ∧
    ((Upd.units u).apply s).bkUsed = s.bkUsed := by
  and_intros <;> rfl

@[simp] theorem Upd.press_fields (p : Press) (s : State) :
    ((Upd.press p).apply s).build = s.build ∧ ((Upd.press p).apply s).factory = s.factory ∧
    ((Upd.press p).apply s).pending = s.pending ∧ ((Upd.press p).apply s).out = s.out ∧
    ((Upd.press p).apply s).freeCtr = s.freeCtr ∧ ((Upd.press p).apply s).regs = s.regs ∧
    ((Upd.press p).apply s).srstOld = s.srstOld ∧ ((Upd.press p).apply s).mem = s.mem ∧
    ((Upd.press p).apply s).syn = s.syn ∧ ((Upd.press p).apply s).written = s.written ∧
    ((Upd.press p).apply s).cands = s.cands ∧ ((Upd.press p).apply s).fifos = s.fifos ∧
    ((Upd.press p).apply s).zeroing = s.zeroing ∧ ((Upd.press p).apply s).units = s.units ∧
    ((Upd.press p).apply s).press = p ∧ ((Upd.press p).apply s).tiles = s.tiles ∧
    ((Upd.press p).apply s).flights = s.flights ∧ ((Upd.press p).apply s).ues = s.ues ∧
    ((Upd.press p).apply s).solvs = s.solvs ∧ ((Upd.press p).apply s).shef = s.shef ∧
    ((Upd.press p).apply s).pfs = s.pfs ∧ ((Upd.press p).apply s).moves = s.moves ∧
    ((Upd.press p).apply s).flash = s.flash ∧ ((Upd.press p).apply s).ri = s.ri ∧
    ((Upd.press p).apply s).links = s.links ∧ ((Upd.press p).apply s).fab = s.fab ∧
    ((Upd.press p).apply s).events = s.events ∧ ((Upd.press p).apply s).evtSeq = s.evtSeq ∧
    ((Upd.press p).apply s).boot = s.boot ∧ ((Upd.press p).apply s).power = s.power ∧
    ((Upd.press p).apply s).nv = s.nv ∧ ((Upd.press p).apply s).eth = s.eth ∧
    ((Upd.press p).apply s).sessions = s.sessions ∧ ((Upd.press p).apply s).telSeq = s.telSeq ∧
    ((Upd.press p).apply s).bkUsed = s.bkUsed := by
  and_intros <;> rfl

@[simp] theorem Upd.tile_fields (phys : Nat) (t : Tile) (s : State) :
    ((Upd.tile phys t).apply s).build = s.build ∧ ((Upd.tile phys t).apply s).factory = s.factory ∧
    ((Upd.tile phys t).apply s).pending = s.pending ∧ ((Upd.tile phys t).apply s).out = s.out ∧
    ((Upd.tile phys t).apply s).freeCtr = s.freeCtr ∧ ((Upd.tile phys t).apply s).regs = s.regs ∧
    ((Upd.tile phys t).apply s).srstOld = s.srstOld ∧ ((Upd.tile phys t).apply s).mem = s.mem ∧
    ((Upd.tile phys t).apply s).syn = s.syn ∧ ((Upd.tile phys t).apply s).written = s.written ∧
    ((Upd.tile phys t).apply s).cands = s.cands ∧ ((Upd.tile phys t).apply s).fifos = s.fifos ∧
    ((Upd.tile phys t).apply s).zeroing = s.zeroing ∧ ((Upd.tile phys t).apply s).units = s.units ∧
    ((Upd.tile phys t).apply s).press = s.press ∧
    ((Upd.tile phys t).apply s).tiles = mapSet tileDefault s.tiles phys t ∧
    ((Upd.tile phys t).apply s).flights = s.flights ∧ ((Upd.tile phys t).apply s).ues = s.ues ∧
    ((Upd.tile phys t).apply s).solvs = s.solvs ∧ ((Upd.tile phys t).apply s).shef = s.shef ∧
    ((Upd.tile phys t).apply s).pfs = s.pfs ∧ ((Upd.tile phys t).apply s).moves = s.moves ∧
    ((Upd.tile phys t).apply s).flash = s.flash ∧ ((Upd.tile phys t).apply s).ri = s.ri ∧
    ((Upd.tile phys t).apply s).links = s.links ∧ ((Upd.tile phys t).apply s).fab = s.fab ∧
    ((Upd.tile phys t).apply s).events = s.events ∧ ((Upd.tile phys t).apply s).evtSeq = s.evtSeq ∧
    ((Upd.tile phys t).apply s).boot = s.boot ∧ ((Upd.tile phys t).apply s).power = s.power ∧
    ((Upd.tile phys t).apply s).nv = s.nv ∧ ((Upd.tile phys t).apply s).eth = s.eth ∧
    ((Upd.tile phys t).apply s).sessions = s.sessions ∧ ((Upd.tile phys t).apply s).telSeq = s.telSeq ∧
    ((Upd.tile phys t).apply s).bkUsed = s.bkUsed := by
  and_intros <;> rfl

@[simp] theorem Upd.flights_fields (l : List Flight) (s : State) :
    ((Upd.flights l).apply s).build = s.build ∧ ((Upd.flights l).apply s).factory = s.factory ∧
    ((Upd.flights l).apply s).pending = s.pending ∧ ((Upd.flights l).apply s).out = s.out ∧
    ((Upd.flights l).apply s).freeCtr = s.freeCtr ∧ ((Upd.flights l).apply s).regs = s.regs ∧
    ((Upd.flights l).apply s).srstOld = s.srstOld ∧ ((Upd.flights l).apply s).mem = s.mem ∧
    ((Upd.flights l).apply s).syn = s.syn ∧ ((Upd.flights l).apply s).written = s.written ∧
    ((Upd.flights l).apply s).cands = s.cands ∧ ((Upd.flights l).apply s).fifos = s.fifos ∧
    ((Upd.flights l).apply s).zeroing = s.zeroing ∧ ((Upd.flights l).apply s).units = s.units ∧
    ((Upd.flights l).apply s).press = s.press ∧ ((Upd.flights l).apply s).tiles = s.tiles ∧
    ((Upd.flights l).apply s).flights = l ∧ ((Upd.flights l).apply s).ues = s.ues ∧
    ((Upd.flights l).apply s).solvs = s.solvs ∧ ((Upd.flights l).apply s).shef = s.shef ∧
    ((Upd.flights l).apply s).pfs = s.pfs ∧ ((Upd.flights l).apply s).moves = s.moves ∧
    ((Upd.flights l).apply s).flash = s.flash ∧ ((Upd.flights l).apply s).ri = s.ri ∧
    ((Upd.flights l).apply s).links = s.links ∧ ((Upd.flights l).apply s).fab = s.fab ∧
    ((Upd.flights l).apply s).events = s.events ∧ ((Upd.flights l).apply s).evtSeq = s.evtSeq ∧
    ((Upd.flights l).apply s).boot = s.boot ∧ ((Upd.flights l).apply s).power = s.power ∧
    ((Upd.flights l).apply s).nv = s.nv ∧ ((Upd.flights l).apply s).eth = s.eth ∧
    ((Upd.flights l).apply s).sessions = s.sessions ∧ ((Upd.flights l).apply s).telSeq = s.telSeq ∧
    ((Upd.flights l).apply s).bkUsed = s.bkUsed := by
  and_intros <;> rfl

@[simp] theorem Upd.ue_fields (site : Nat) (u : Ue) (s : State) :
    ((Upd.ue site u).apply s).build = s.build ∧ ((Upd.ue site u).apply s).factory = s.factory ∧
    ((Upd.ue site u).apply s).pending = s.pending ∧ ((Upd.ue site u).apply s).out = s.out ∧
    ((Upd.ue site u).apply s).freeCtr = s.freeCtr ∧ ((Upd.ue site u).apply s).regs = s.regs ∧
    ((Upd.ue site u).apply s).srstOld = s.srstOld ∧ ((Upd.ue site u).apply s).mem = s.mem ∧
    ((Upd.ue site u).apply s).syn = s.syn ∧ ((Upd.ue site u).apply s).written = s.written ∧
    ((Upd.ue site u).apply s).cands = s.cands ∧ ((Upd.ue site u).apply s).fifos = s.fifos ∧
    ((Upd.ue site u).apply s).zeroing = s.zeroing ∧ ((Upd.ue site u).apply s).units = s.units ∧
    ((Upd.ue site u).apply s).press = s.press ∧ ((Upd.ue site u).apply s).tiles = s.tiles ∧
    ((Upd.ue site u).apply s).flights = s.flights ∧ ((Upd.ue site u).apply s).ues = mapSet ueDefault s.ues site u ∧
    ((Upd.ue site u).apply s).solvs = s.solvs ∧ ((Upd.ue site u).apply s).shef = s.shef ∧
    ((Upd.ue site u).apply s).pfs = s.pfs ∧ ((Upd.ue site u).apply s).moves = s.moves ∧
    ((Upd.ue site u).apply s).flash = s.flash ∧ ((Upd.ue site u).apply s).ri = s.ri ∧
    ((Upd.ue site u).apply s).links = s.links ∧ ((Upd.ue site u).apply s).fab = s.fab ∧
    ((Upd.ue site u).apply s).events = s.events ∧ ((Upd.ue site u).apply s).evtSeq = s.evtSeq ∧
    ((Upd.ue site u).apply s).boot = s.boot ∧ ((Upd.ue site u).apply s).power = s.power ∧
    ((Upd.ue site u).apply s).nv = s.nv ∧ ((Upd.ue site u).apply s).eth = s.eth ∧
    ((Upd.ue site u).apply s).sessions = s.sessions ∧ ((Upd.ue site u).apply s).telSeq = s.telSeq ∧
    ((Upd.ue site u).apply s).bkUsed = s.bkUsed := by
  and_intros <;> rfl

@[simp] theorem Upd.solv_fields (engine : Nat) (v : Solv) (s : State) :
    ((Upd.solv engine v).apply s).build = s.build ∧ ((Upd.solv engine v).apply s).factory = s.factory ∧
    ((Upd.solv engine v).apply s).pending = s.pending ∧ ((Upd.solv engine v).apply s).out = s.out ∧
    ((Upd.solv engine v).apply s).freeCtr = s.freeCtr ∧ ((Upd.solv engine v).apply s).regs = s.regs ∧
    ((Upd.solv engine v).apply s).srstOld = s.srstOld ∧ ((Upd.solv engine v).apply s).mem = s.mem ∧
    ((Upd.solv engine v).apply s).syn = s.syn ∧ ((Upd.solv engine v).apply s).written = s.written ∧
    ((Upd.solv engine v).apply s).cands = s.cands ∧ ((Upd.solv engine v).apply s).fifos = s.fifos ∧
    ((Upd.solv engine v).apply s).zeroing = s.zeroing ∧ ((Upd.solv engine v).apply s).units = s.units ∧
    ((Upd.solv engine v).apply s).press = s.press ∧ ((Upd.solv engine v).apply s).tiles = s.tiles ∧
    ((Upd.solv engine v).apply s).flights = s.flights ∧ ((Upd.solv engine v).apply s).ues = s.ues ∧
    ((Upd.solv engine v).apply s).solvs = mapSet solvDefault s.solvs engine v ∧
    ((Upd.solv engine v).apply s).shef = s.shef ∧ ((Upd.solv engine v).apply s).pfs = s.pfs ∧
    ((Upd.solv engine v).apply s).moves = s.moves ∧ ((Upd.solv engine v).apply s).flash = s.flash ∧
    ((Upd.solv engine v).apply s).ri = s.ri ∧ ((Upd.solv engine v).apply s).links = s.links ∧
    ((Upd.solv engine v).apply s).fab = s.fab ∧ ((Upd.solv engine v).apply s).events = s.events ∧
    ((Upd.solv engine v).apply s).evtSeq = s.evtSeq ∧ ((Upd.solv engine v).apply s).boot = s.boot ∧
    ((Upd.solv engine v).apply s).power = s.power ∧ ((Upd.solv engine v).apply s).nv = s.nv ∧
    ((Upd.solv engine v).apply s).eth = s.eth ∧ ((Upd.solv engine v).apply s).sessions = s.sessions ∧
    ((Upd.solv engine v).apply s).telSeq = s.telSeq ∧ ((Upd.solv engine v).apply s).bkUsed = s.bkUsed := by
  and_intros <;> rfl

@[simp] theorem Upd.shef_fields (v : Shef) (s : State) :
    ((Upd.shef v).apply s).build = s.build ∧ ((Upd.shef v).apply s).factory = s.factory ∧
    ((Upd.shef v).apply s).pending = s.pending ∧ ((Upd.shef v).apply s).out = s.out ∧
    ((Upd.shef v).apply s).freeCtr = s.freeCtr ∧ ((Upd.shef v).apply s).regs = s.regs ∧
    ((Upd.shef v).apply s).srstOld = s.srstOld ∧ ((Upd.shef v).apply s).mem = s.mem ∧
    ((Upd.shef v).apply s).syn = s.syn ∧ ((Upd.shef v).apply s).written = s.written ∧
    ((Upd.shef v).apply s).cands = s.cands ∧ ((Upd.shef v).apply s).fifos = s.fifos ∧
    ((Upd.shef v).apply s).zeroing = s.zeroing ∧ ((Upd.shef v).apply s).units = s.units ∧
    ((Upd.shef v).apply s).press = s.press ∧ ((Upd.shef v).apply s).tiles = s.tiles ∧
    ((Upd.shef v).apply s).flights = s.flights ∧ ((Upd.shef v).apply s).ues = s.ues ∧
    ((Upd.shef v).apply s).solvs = s.solvs ∧ ((Upd.shef v).apply s).shef = v ∧ ((Upd.shef v).apply s).pfs = s.pfs ∧
    ((Upd.shef v).apply s).moves = s.moves ∧ ((Upd.shef v).apply s).flash = s.flash ∧
    ((Upd.shef v).apply s).ri = s.ri ∧ ((Upd.shef v).apply s).links = s.links ∧ ((Upd.shef v).apply s).fab = s.fab ∧
    ((Upd.shef v).apply s).events = s.events ∧ ((Upd.shef v).apply s).evtSeq = s.evtSeq ∧
    ((Upd.shef v).apply s).boot = s.boot ∧ ((Upd.shef v).apply s).power = s.power ∧
    ((Upd.shef v).apply s).nv = s.nv ∧ ((Upd.shef v).apply s).eth = s.eth ∧
    ((Upd.shef v).apply s).sessions = s.sessions ∧ ((Upd.shef v).apply s).telSeq = s.telSeq ∧
    ((Upd.shef v).apply s).bkUsed = s.bkUsed := by
  and_intros <;> rfl

@[simp] theorem Upd.pfs_fields (site : Nat) (l : List Pf) (s : State) :
    ((Upd.pfs site l).apply s).build = s.build ∧ ((Upd.pfs site l).apply s).factory = s.factory ∧
    ((Upd.pfs site l).apply s).pending = s.pending ∧ ((Upd.pfs site l).apply s).out = s.out ∧
    ((Upd.pfs site l).apply s).freeCtr = s.freeCtr ∧ ((Upd.pfs site l).apply s).regs = s.regs ∧
    ((Upd.pfs site l).apply s).srstOld = s.srstOld ∧ ((Upd.pfs site l).apply s).mem = s.mem ∧
    ((Upd.pfs site l).apply s).syn = s.syn ∧ ((Upd.pfs site l).apply s).written = s.written ∧
    ((Upd.pfs site l).apply s).cands = s.cands ∧ ((Upd.pfs site l).apply s).fifos = s.fifos ∧
    ((Upd.pfs site l).apply s).zeroing = s.zeroing ∧ ((Upd.pfs site l).apply s).units = s.units ∧
    ((Upd.pfs site l).apply s).press = s.press ∧ ((Upd.pfs site l).apply s).tiles = s.tiles ∧
    ((Upd.pfs site l).apply s).flights = s.flights ∧ ((Upd.pfs site l).apply s).ues = s.ues ∧
    ((Upd.pfs site l).apply s).solvs = s.solvs ∧ ((Upd.pfs site l).apply s).shef = s.shef ∧
    ((Upd.pfs site l).apply s).pfs = mapSet pfDefault s.pfs site l ∧ ((Upd.pfs site l).apply s).moves = s.moves ∧
    ((Upd.pfs site l).apply s).flash = s.flash ∧ ((Upd.pfs site l).apply s).ri = s.ri ∧
    ((Upd.pfs site l).apply s).links = s.links ∧ ((Upd.pfs site l).apply s).fab = s.fab ∧
    ((Upd.pfs site l).apply s).events = s.events ∧ ((Upd.pfs site l).apply s).evtSeq = s.evtSeq ∧
    ((Upd.pfs site l).apply s).boot = s.boot ∧ ((Upd.pfs site l).apply s).power = s.power ∧
    ((Upd.pfs site l).apply s).nv = s.nv ∧ ((Upd.pfs site l).apply s).eth = s.eth ∧
    ((Upd.pfs site l).apply s).sessions = s.sessions ∧ ((Upd.pfs site l).apply s).telSeq = s.telSeq ∧
    ((Upd.pfs site l).apply s).bkUsed = s.bkUsed := by
  and_intros <;> rfl

@[simp] theorem Upd.moves_fields (l : List (Nat × Nat)) (s : State) :
    ((Upd.moves l).apply s).build = s.build ∧ ((Upd.moves l).apply s).factory = s.factory ∧
    ((Upd.moves l).apply s).pending = s.pending ∧ ((Upd.moves l).apply s).out = s.out ∧
    ((Upd.moves l).apply s).freeCtr = s.freeCtr ∧ ((Upd.moves l).apply s).regs = s.regs ∧
    ((Upd.moves l).apply s).srstOld = s.srstOld ∧ ((Upd.moves l).apply s).mem = s.mem ∧
    ((Upd.moves l).apply s).syn = s.syn ∧ ((Upd.moves l).apply s).written = s.written ∧
    ((Upd.moves l).apply s).cands = s.cands ∧ ((Upd.moves l).apply s).fifos = s.fifos ∧
    ((Upd.moves l).apply s).zeroing = s.zeroing ∧ ((Upd.moves l).apply s).units = s.units ∧
    ((Upd.moves l).apply s).press = s.press ∧ ((Upd.moves l).apply s).tiles = s.tiles ∧
    ((Upd.moves l).apply s).flights = s.flights ∧ ((Upd.moves l).apply s).ues = s.ues ∧
    ((Upd.moves l).apply s).solvs = s.solvs ∧ ((Upd.moves l).apply s).shef = s.shef ∧
    ((Upd.moves l).apply s).pfs = s.pfs ∧ ((Upd.moves l).apply s).moves = l ∧
    ((Upd.moves l).apply s).flash = s.flash ∧ ((Upd.moves l).apply s).ri = s.ri ∧
    ((Upd.moves l).apply s).links = s.links ∧ ((Upd.moves l).apply s).fab = s.fab ∧
    ((Upd.moves l).apply s).events = s.events ∧ ((Upd.moves l).apply s).evtSeq = s.evtSeq ∧
    ((Upd.moves l).apply s).boot = s.boot ∧ ((Upd.moves l).apply s).power = s.power ∧
    ((Upd.moves l).apply s).nv = s.nv ∧ ((Upd.moves l).apply s).eth = s.eth ∧
    ((Upd.moves l).apply s).sessions = s.sessions ∧ ((Upd.moves l).apply s).telSeq = s.telSeq ∧
    ((Upd.moves l).apply s).bkUsed = s.bkUsed := by
  and_intros <;> rfl

@[simp] theorem Upd.flash_fields (f : FlashSt) (s : State) :
    ((Upd.flash f).apply s).build = s.build ∧ ((Upd.flash f).apply s).factory = s.factory ∧
    ((Upd.flash f).apply s).pending = s.pending ∧ ((Upd.flash f).apply s).out = s.out ∧
    ((Upd.flash f).apply s).freeCtr = s.freeCtr ∧ ((Upd.flash f).apply s).regs = s.regs ∧
    ((Upd.flash f).apply s).srstOld = s.srstOld ∧ ((Upd.flash f).apply s).mem = s.mem ∧
    ((Upd.flash f).apply s).syn = s.syn ∧ ((Upd.flash f).apply s).written = s.written ∧
    ((Upd.flash f).apply s).cands = s.cands ∧ ((Upd.flash f).apply s).fifos = s.fifos ∧
    ((Upd.flash f).apply s).zeroing = s.zeroing ∧ ((Upd.flash f).apply s).units = s.units ∧
    ((Upd.flash f).apply s).press = s.press ∧ ((Upd.flash f).apply s).tiles = s.tiles ∧
    ((Upd.flash f).apply s).flights = s.flights ∧ ((Upd.flash f).apply s).ues = s.ues ∧
    ((Upd.flash f).apply s).solvs = s.solvs ∧ ((Upd.flash f).apply s).shef = s.shef ∧
    ((Upd.flash f).apply s).pfs = s.pfs ∧ ((Upd.flash f).apply s).moves = s.moves ∧
    ((Upd.flash f).apply s).flash = f ∧ ((Upd.flash f).apply s).ri = s.ri ∧ ((Upd.flash f).apply s).links = s.links ∧
    ((Upd.flash f).apply s).fab = s.fab ∧ ((Upd.flash f).apply s).events = s.events ∧
    ((Upd.flash f).apply s).evtSeq = s.evtSeq ∧ ((Upd.flash f).apply s).boot = s.boot ∧
    ((Upd.flash f).apply s).power = s.power ∧ ((Upd.flash f).apply s).nv = s.nv ∧
    ((Upd.flash f).apply s).eth = s.eth ∧ ((Upd.flash f).apply s).sessions = s.sessions ∧
    ((Upd.flash f).apply s).telSeq = s.telSeq ∧ ((Upd.flash f).apply s).bkUsed = s.bkUsed := by
  and_intros <;> rfl

@[simp] theorem Upd.ri_fields (r : Ri) (s : State) :
    ((Upd.ri r).apply s).build = s.build ∧ ((Upd.ri r).apply s).factory = s.factory ∧
    ((Upd.ri r).apply s).pending = s.pending ∧ ((Upd.ri r).apply s).out = s.out ∧
    ((Upd.ri r).apply s).freeCtr = s.freeCtr ∧ ((Upd.ri r).apply s).regs = s.regs ∧
    ((Upd.ri r).apply s).srstOld = s.srstOld ∧ ((Upd.ri r).apply s).mem = s.mem ∧ ((Upd.ri r).apply s).syn = s.syn ∧
    ((Upd.ri r).apply s).written = s.written ∧ ((Upd.ri r).apply s).cands = s.cands ∧
    ((Upd.ri r).apply s).fifos = s.fifos ∧ ((Upd.ri r).apply s).zeroing = s.zeroing ∧
    ((Upd.ri r).apply s).units = s.units ∧ ((Upd.ri r).apply s).press = s.press ∧
    ((Upd.ri r).apply s).tiles = s.tiles ∧ ((Upd.ri r).apply s).flights = s.flights ∧
    ((Upd.ri r).apply s).ues = s.ues ∧ ((Upd.ri r).apply s).solvs = s.solvs ∧ ((Upd.ri r).apply s).shef = s.shef ∧
    ((Upd.ri r).apply s).pfs = s.pfs ∧ ((Upd.ri r).apply s).moves = s.moves ∧ ((Upd.ri r).apply s).flash = s.flash ∧
    ((Upd.ri r).apply s).ri = r ∧ ((Upd.ri r).apply s).links = s.links ∧ ((Upd.ri r).apply s).fab = s.fab ∧
    ((Upd.ri r).apply s).events = s.events ∧ ((Upd.ri r).apply s).evtSeq = s.evtSeq ∧
    ((Upd.ri r).apply s).boot = s.boot ∧ ((Upd.ri r).apply s).power = s.power ∧ ((Upd.ri r).apply s).nv = s.nv ∧
    ((Upd.ri r).apply s).eth = s.eth ∧ ((Upd.ri r).apply s).sessions = s.sessions ∧
    ((Upd.ri r).apply s).telSeq = s.telSeq ∧ ((Upd.ri r).apply s).bkUsed = s.bkUsed := by
  and_intros <;> rfl

@[simp] theorem Upd.link_fields (i : Nat) (l : LinkSt) (s : State) :
    ((Upd.link i l).apply s).build = s.build ∧ ((Upd.link i l).apply s).factory = s.factory ∧
    ((Upd.link i l).apply s).pending = s.pending ∧ ((Upd.link i l).apply s).out = s.out ∧
    ((Upd.link i l).apply s).freeCtr = s.freeCtr ∧ ((Upd.link i l).apply s).regs = s.regs ∧
    ((Upd.link i l).apply s).srstOld = s.srstOld ∧ ((Upd.link i l).apply s).mem = s.mem ∧
    ((Upd.link i l).apply s).syn = s.syn ∧ ((Upd.link i l).apply s).written = s.written ∧
    ((Upd.link i l).apply s).cands = s.cands ∧ ((Upd.link i l).apply s).fifos = s.fifos ∧
    ((Upd.link i l).apply s).zeroing = s.zeroing ∧ ((Upd.link i l).apply s).units = s.units ∧
    ((Upd.link i l).apply s).press = s.press ∧ ((Upd.link i l).apply s).tiles = s.tiles ∧
    ((Upd.link i l).apply s).flights = s.flights ∧ ((Upd.link i l).apply s).ues = s.ues ∧
    ((Upd.link i l).apply s).solvs = s.solvs ∧ ((Upd.link i l).apply s).shef = s.shef ∧
    ((Upd.link i l).apply s).pfs = s.pfs ∧ ((Upd.link i l).apply s).moves = s.moves ∧
    ((Upd.link i l).apply s).flash = s.flash ∧ ((Upd.link i l).apply s).ri = s.ri ∧
    ((Upd.link i l).apply s).links = mapSet linkDefault s.links i l ∧ ((Upd.link i l).apply s).fab = s.fab ∧
    ((Upd.link i l).apply s).events = s.events ∧ ((Upd.link i l).apply s).evtSeq = s.evtSeq ∧
    ((Upd.link i l).apply s).boot = s.boot ∧ ((Upd.link i l).apply s).power = s.power ∧
    ((Upd.link i l).apply s).nv = s.nv ∧ ((Upd.link i l).apply s).eth = s.eth ∧
    ((Upd.link i l).apply s).sessions = s.sessions ∧ ((Upd.link i l).apply s).telSeq = s.telSeq ∧
    ((Upd.link i l).apply s).bkUsed = s.bkUsed := by
  and_intros <;> rfl

@[simp] theorem Upd.fab_fields (f : Fab) (s : State) :
    ((Upd.fab f).apply s).build = s.build ∧ ((Upd.fab f).apply s).factory = s.factory ∧
    ((Upd.fab f).apply s).pending = s.pending ∧ ((Upd.fab f).apply s).out = s.out ∧
    ((Upd.fab f).apply s).freeCtr = s.freeCtr ∧ ((Upd.fab f).apply s).regs = s.regs ∧
    ((Upd.fab f).apply s).srstOld = s.srstOld ∧ ((Upd.fab f).apply s).mem = s.mem ∧
    ((Upd.fab f).apply s).syn = s.syn ∧ ((Upd.fab f).apply s).written = s.written ∧
    ((Upd.fab f).apply s).cands = s.cands ∧ ((Upd.fab f).apply s).fifos = s.fifos ∧
    ((Upd.fab f).apply s).zeroing = s.zeroing ∧ ((Upd.fab f).apply s).units = s.units ∧
    ((Upd.fab f).apply s).press = s.press ∧ ((Upd.fab f).apply s).tiles = s.tiles ∧
    ((Upd.fab f).apply s).flights = s.flights ∧ ((Upd.fab f).apply s).ues = s.ues ∧
    ((Upd.fab f).apply s).solvs = s.solvs ∧ ((Upd.fab f).apply s).shef = s.shef ∧ ((Upd.fab f).apply s).pfs = s.pfs ∧
    ((Upd.fab f).apply s).moves = s.moves ∧ ((Upd.fab f).apply s).flash = s.flash ∧ ((Upd.fab f).apply s).ri = s.ri ∧
    ((Upd.fab f).apply s).links = s.links ∧ ((Upd.fab f).apply s).fab = f ∧ ((Upd.fab f).apply s).events = s.events ∧
    ((Upd.fab f).apply s).evtSeq = s.evtSeq ∧ ((Upd.fab f).apply s).boot = s.boot ∧
    ((Upd.fab f).apply s).power = s.power ∧ ((Upd.fab f).apply s).nv = s.nv ∧ ((Upd.fab f).apply s).eth = s.eth ∧
    ((Upd.fab f).apply s).sessions = s.sessions ∧ ((Upd.fab f).apply s).telSeq = s.telSeq ∧
    ((Upd.fab f).apply s).bkUsed = s.bkUsed := by
  and_intros <;> rfl

@[simp] theorem Upd.events_fields (l : List EvtOut) (seq : Nat) (s : State) :
    ((Upd.events l seq).apply s).build = s.build ∧ ((Upd.events l seq).apply s).factory = s.factory ∧
    ((Upd.events l seq).apply s).pending = s.pending ∧ ((Upd.events l seq).apply s).out = s.out ∧
    ((Upd.events l seq).apply s).freeCtr = s.freeCtr ∧ ((Upd.events l seq).apply s).regs = s.regs ∧
    ((Upd.events l seq).apply s).srstOld = s.srstOld ∧ ((Upd.events l seq).apply s).mem = s.mem ∧
    ((Upd.events l seq).apply s).syn = s.syn ∧ ((Upd.events l seq).apply s).written = s.written ∧
    ((Upd.events l seq).apply s).cands = s.cands ∧ ((Upd.events l seq).apply s).fifos = s.fifos ∧
    ((Upd.events l seq).apply s).zeroing = s.zeroing ∧ ((Upd.events l seq).apply s).units = s.units ∧
    ((Upd.events l seq).apply s).press = s.press ∧ ((Upd.events l seq).apply s).tiles = s.tiles ∧
    ((Upd.events l seq).apply s).flights = s.flights ∧ ((Upd.events l seq).apply s).ues = s.ues ∧
    ((Upd.events l seq).apply s).solvs = s.solvs ∧ ((Upd.events l seq).apply s).shef = s.shef ∧
    ((Upd.events l seq).apply s).pfs = s.pfs ∧ ((Upd.events l seq).apply s).moves = s.moves ∧
    ((Upd.events l seq).apply s).flash = s.flash ∧ ((Upd.events l seq).apply s).ri = s.ri ∧
    ((Upd.events l seq).apply s).links = s.links ∧ ((Upd.events l seq).apply s).fab = s.fab ∧
    ((Upd.events l seq).apply s).events = l ∧ ((Upd.events l seq).apply s).evtSeq = seq ∧
    ((Upd.events l seq).apply s).boot = s.boot ∧ ((Upd.events l seq).apply s).power = s.power ∧
    ((Upd.events l seq).apply s).nv = s.nv ∧ ((Upd.events l seq).apply s).eth = s.eth ∧
    ((Upd.events l seq).apply s).sessions = s.sessions ∧ ((Upd.events l seq).apply s).telSeq = s.telSeq ∧
    ((Upd.events l seq).apply s).bkUsed = s.bkUsed := by
  and_intros <;> rfl

@[simp] theorem Upd.boot_fields (b : Boot) (s : State) :
    ((Upd.boot b).apply s).build = s.build ∧ ((Upd.boot b).apply s).factory = s.factory ∧
    ((Upd.boot b).apply s).pending = s.pending ∧ ((Upd.boot b).apply s).out = s.out ∧
    ((Upd.boot b).apply s).freeCtr = s.freeCtr ∧ ((Upd.boot b).apply s).regs = s.regs ∧
    ((Upd.boot b).apply s).srstOld = s.srstOld ∧ ((Upd.boot b).apply s).mem = s.mem ∧
    ((Upd.boot b).apply s).syn = s.syn ∧ ((Upd.boot b).apply s).written = s.written ∧
    ((Upd.boot b).apply s).cands = s.cands ∧ ((Upd.boot b).apply s).fifos = s.fifos ∧
    ((Upd.boot b).apply s).zeroing = s.zeroing ∧ ((Upd.boot b).apply s).units = s.units ∧
    ((Upd.boot b).apply s).press = s.press ∧ ((Upd.boot b).apply s).tiles = s.tiles ∧
    ((Upd.boot b).apply s).flights = s.flights ∧ ((Upd.boot b).apply s).ues = s.ues ∧
    ((Upd.boot b).apply s).solvs = s.solvs ∧ ((Upd.boot b).apply s).shef = s.shef ∧
    ((Upd.boot b).apply s).pfs = s.pfs ∧ ((Upd.boot b).apply s).moves = s.moves ∧
    ((Upd.boot b).apply s).flash = s.flash ∧ ((Upd.boot b).apply s).ri = s.ri ∧
    ((Upd.boot b).apply s).links = s.links ∧ ((Upd.boot b).apply s).fab = s.fab ∧
    ((Upd.boot b).apply s).events = s.events ∧ ((Upd.boot b).apply s).evtSeq = s.evtSeq ∧
    ((Upd.boot b).apply s).boot = b ∧ ((Upd.boot b).apply s).power = s.power ∧ ((Upd.boot b).apply s).nv = s.nv ∧
    ((Upd.boot b).apply s).eth = s.eth ∧ ((Upd.boot b).apply s).sessions = s.sessions ∧
    ((Upd.boot b).apply s).telSeq = s.telSeq ∧ ((Upd.boot b).apply s).bkUsed = s.bkUsed := by
  and_intros <;> rfl

@[simp] theorem Upd.power_fields (p : Power) (s : State) :
    ((Upd.power p).apply s).build = s.build ∧ ((Upd.power p).apply s).factory = s.factory ∧
    ((Upd.power p).apply s).pending = s.pending ∧ ((Upd.power p).apply s).out = s.out ∧
    ((Upd.power p).apply s).freeCtr = s.freeCtr ∧ ((Upd.power p).apply s).regs = s.regs ∧
    ((Upd.power p).apply s).srstOld = s.srstOld ∧ ((Upd.power p).apply s).mem = s.mem ∧
    ((Upd.power p).apply s).syn = s.syn ∧ ((Upd.power p).apply s).written = s.written ∧
    ((Upd.power p).apply s).cands = s.cands ∧ ((Upd.power p).apply s).fifos = s.fifos ∧
    ((Upd.power p).apply s).zeroing = s.zeroing ∧ ((Upd.power p).apply s).units = s.units ∧
    ((Upd.power p).apply s).press = s.press ∧ ((Upd.power p).apply s).tiles = s.tiles ∧
    ((Upd.power p).apply s).flights = s.flights ∧ ((Upd.power p).apply s).ues = s.ues ∧
    ((Upd.power p).apply s).solvs = s.solvs ∧ ((Upd.power p).apply s).shef = s.shef ∧
    ((Upd.power p).apply s).pfs = s.pfs ∧ ((Upd.power p).apply s).moves = s.moves ∧
    ((Upd.power p).apply s).flash = s.flash ∧ ((Upd.power p).apply s).ri = s.ri ∧
    ((Upd.power p).apply s).links = s.links ∧ ((Upd.power p).apply s).fab = s.fab ∧
    ((Upd.power p).apply s).events = s.events ∧ ((Upd.power p).apply s).evtSeq = s.evtSeq ∧
    ((Upd.power p).apply s).boot = s.boot ∧ ((Upd.power p).apply s).power = p ∧ ((Upd.power p).apply s).nv = s.nv ∧
    ((Upd.power p).apply s).eth = s.eth ∧ ((Upd.power p).apply s).sessions = s.sessions ∧
    ((Upd.power p).apply s).telSeq = s.telSeq ∧ ((Upd.power p).apply s).bkUsed = s.bkUsed := by
  and_intros <;> rfl

@[simp] theorem Upd.nv_fields (v : Nv) (s : State) :
    ((Upd.nv v).apply s).build = s.build ∧ ((Upd.nv v).apply s).factory = s.factory ∧
    ((Upd.nv v).apply s).pending = s.pending ∧ ((Upd.nv v).apply s).out = s.out ∧
    ((Upd.nv v).apply s).freeCtr = s.freeCtr ∧ ((Upd.nv v).apply s).regs = s.regs ∧
    ((Upd.nv v).apply s).srstOld = s.srstOld ∧ ((Upd.nv v).apply s).mem = s.mem ∧ ((Upd.nv v).apply s).syn = s.syn ∧
    ((Upd.nv v).apply s).written = s.written ∧ ((Upd.nv v).apply s).cands = s.cands ∧
    ((Upd.nv v).apply s).fifos = s.fifos ∧ ((Upd.nv v).apply s).zeroing = s.zeroing ∧
    ((Upd.nv v).apply s).units = s.units ∧ ((Upd.nv v).apply s).press = s.press ∧
    ((Upd.nv v).apply s).tiles = s.tiles ∧ ((Upd.nv v).apply s).flights = s.flights ∧
    ((Upd.nv v).apply s).ues = s.ues ∧ ((Upd.nv v).apply s).solvs = s.solvs ∧ ((Upd.nv v).apply s).shef = s.shef ∧
    ((Upd.nv v).apply s).pfs = s.pfs ∧ ((Upd.nv v).apply s).moves = s.moves ∧ ((Upd.nv v).apply s).flash = s.flash ∧
    ((Upd.nv v).apply s).ri = s.ri ∧ ((Upd.nv v).apply s).links = s.links ∧ ((Upd.nv v).apply s).fab = s.fab ∧
    ((Upd.nv v).apply s).events = s.events ∧ ((Upd.nv v).apply s).evtSeq = s.evtSeq ∧
    ((Upd.nv v).apply s).boot = s.boot ∧ ((Upd.nv v).apply s).power = s.power ∧ ((Upd.nv v).apply s).nv = v ∧
    ((Upd.nv v).apply s).eth = s.eth ∧ ((Upd.nv v).apply s).sessions = s.sessions ∧
    ((Upd.nv v).apply s).telSeq = s.telSeq ∧ ((Upd.nv v).apply s).bkUsed = s.bkUsed := by
  and_intros <;> rfl

@[simp] theorem Upd.repair_fields (l : List (Nat × Nat)) (s : State) :
    ((Upd.repair l).apply s).build = s.build ∧ ((Upd.repair l).apply s).factory = s.factory ∧
    ((Upd.repair l).apply s).pending = s.pending ∧ ((Upd.repair l).apply s).out = s.out ∧
    ((Upd.repair l).apply s).freeCtr = s.freeCtr ∧ ((Upd.repair l).apply s).regs = s.regs ∧
    ((Upd.repair l).apply s).srstOld = s.srstOld ∧ ((Upd.repair l).apply s).mem = s.mem ∧
    ((Upd.repair l).apply s).syn = s.syn ∧ ((Upd.repair l).apply s).written = s.written ∧
    ((Upd.repair l).apply s).cands = s.cands ∧ ((Upd.repair l).apply s).fifos = s.fifos ∧
    ((Upd.repair l).apply s).zeroing = s.zeroing ∧ ((Upd.repair l).apply s).units = s.units ∧
    ((Upd.repair l).apply s).press = s.press ∧ ((Upd.repair l).apply s).tiles = s.tiles ∧
    ((Upd.repair l).apply s).flights = s.flights ∧ ((Upd.repair l).apply s).ues = s.ues ∧
    ((Upd.repair l).apply s).solvs = s.solvs ∧ ((Upd.repair l).apply s).shef = s.shef ∧
    ((Upd.repair l).apply s).pfs = s.pfs ∧ ((Upd.repair l).apply s).moves = s.moves ∧
    ((Upd.repair l).apply s).flash = s.flash ∧ ((Upd.repair l).apply s).ri = s.ri ∧
    ((Upd.repair l).apply s).links = s.links ∧ ((Upd.repair l).apply s).fab = s.fab ∧
    ((Upd.repair l).apply s).events = s.events ∧ ((Upd.repair l).apply s).evtSeq = s.evtSeq ∧
    ((Upd.repair l).apply s).boot = s.boot ∧ ((Upd.repair l).apply s).power = s.power ∧
    ((Upd.repair l).apply s).nv = { s.nv with repairs := l } ∧ ((Upd.repair l).apply s).eth = s.eth ∧
    ((Upd.repair l).apply s).sessions = s.sessions ∧ ((Upd.repair l).apply s).telSeq = s.telSeq ∧
    ((Upd.repair l).apply s).bkUsed = s.bkUsed := by
  and_intros <;> rfl

@[simp] theorem Upd.eth_fields (e : Eth) (s : State) :
    ((Upd.eth e).apply s).build = s.build ∧ ((Upd.eth e).apply s).factory = s.factory ∧
    ((Upd.eth e).apply s).pending = s.pending ∧ ((Upd.eth e).apply s).out = s.out ∧
    ((Upd.eth e).apply s).freeCtr = s.freeCtr ∧ ((Upd.eth e).apply s).regs = s.regs ∧
    ((Upd.eth e).apply s).srstOld = s.srstOld ∧ ((Upd.eth e).apply s).mem = s.mem ∧
    ((Upd.eth e).apply s).syn = s.syn ∧ ((Upd.eth e).apply s).written = s.written ∧
    ((Upd.eth e).apply s).cands = s.cands ∧ ((Upd.eth e).apply s).fifos = s.fifos ∧
    ((Upd.eth e).apply s).zeroing = s.zeroing ∧ ((Upd.eth e).apply s).units = s.units ∧
    ((Upd.eth e).apply s).press = s.press ∧ ((Upd.eth e).apply s).tiles = s.tiles ∧
    ((Upd.eth e).apply s).flights = s.flights ∧ ((Upd.eth e).apply s).ues = s.ues ∧
    ((Upd.eth e).apply s).solvs = s.solvs ∧ ((Upd.eth e).apply s).shef = s.shef ∧ ((Upd.eth e).apply s).pfs = s.pfs ∧
    ((Upd.eth e).apply s).moves = s.moves ∧ ((Upd.eth e).apply s).flash = s.flash ∧ ((Upd.eth e).apply s).ri = s.ri ∧
    ((Upd.eth e).apply s).links = s.links ∧ ((Upd.eth e).apply s).fab = s.fab ∧
    ((Upd.eth e).apply s).events = s.events ∧ ((Upd.eth e).apply s).evtSeq = s.evtSeq ∧
    ((Upd.eth e).apply s).boot = s.boot ∧ ((Upd.eth e).apply s).power = s.power ∧ ((Upd.eth e).apply s).nv = s.nv ∧
    ((Upd.eth e).apply s).eth = e ∧ ((Upd.eth e).apply s).sessions = s.sessions ∧
    ((Upd.eth e).apply s).telSeq = s.telSeq ∧ ((Upd.eth e).apply s).bkUsed = s.bkUsed := by
  and_intros <;> rfl

@[simp] theorem Upd.sessions_fields (l : List Session) (s : State) :
    ((Upd.sessions l).apply s).build = s.build ∧ ((Upd.sessions l).apply s).factory = s.factory ∧
    ((Upd.sessions l).apply s).pending = s.pending ∧ ((Upd.sessions l).apply s).out = s.out ∧
    ((Upd.sessions l).apply s).freeCtr = s.freeCtr ∧ ((Upd.sessions l).apply s).regs = s.regs ∧
    ((Upd.sessions l).apply s).srstOld = s.srstOld ∧ ((Upd.sessions l).apply s).mem = s.mem ∧
    ((Upd.sessions l).apply s).syn = s.syn ∧ ((Upd.sessions l).apply s).written = s.written ∧
    ((Upd.sessions l).apply s).cands = s.cands ∧ ((Upd.sessions l).apply s).fifos = s.fifos ∧
    ((Upd.sessions l).apply s).zeroing = s.zeroing ∧ ((Upd.sessions l).apply s).units = s.units ∧
    ((Upd.sessions l).apply s).press = s.press ∧ ((Upd.sessions l).apply s).tiles = s.tiles ∧
    ((Upd.sessions l).apply s).flights = s.flights ∧ ((Upd.sessions l).apply s).ues = s.ues ∧
    ((Upd.sessions l).apply s).solvs = s.solvs ∧ ((Upd.sessions l).apply s).shef = s.shef ∧
    ((Upd.sessions l).apply s).pfs = s.pfs ∧ ((Upd.sessions l).apply s).moves = s.moves ∧
    ((Upd.sessions l).apply s).flash = s.flash ∧ ((Upd.sessions l).apply s).ri = s.ri ∧
    ((Upd.sessions l).apply s).links = s.links ∧ ((Upd.sessions l).apply s).fab = s.fab ∧
    ((Upd.sessions l).apply s).events = s.events ∧ ((Upd.sessions l).apply s).evtSeq = s.evtSeq ∧
    ((Upd.sessions l).apply s).boot = s.boot ∧ ((Upd.sessions l).apply s).power = s.power ∧
    ((Upd.sessions l).apply s).nv = s.nv ∧ ((Upd.sessions l).apply s).eth = s.eth ∧
    ((Upd.sessions l).apply s).sessions = l ∧ ((Upd.sessions l).apply s).telSeq = s.telSeq ∧
    ((Upd.sessions l).apply s).bkUsed = s.bkUsed := by
  and_intros <;> rfl

@[simp] theorem Upd.telSeq_fields (n : Nat) (s : State) :
    ((Upd.telSeq n).apply s).build = s.build ∧ ((Upd.telSeq n).apply s).factory = s.factory ∧
    ((Upd.telSeq n).apply s).pending = s.pending ∧ ((Upd.telSeq n).apply s).out = s.out ∧
    ((Upd.telSeq n).apply s).freeCtr = s.freeCtr ∧ ((Upd.telSeq n).apply s).regs = s.regs ∧
    ((Upd.telSeq n).apply s).srstOld = s.srstOld ∧ ((Upd.telSeq n).apply s).mem = s.mem ∧
    ((Upd.telSeq n).apply s).syn = s.syn ∧ ((Upd.telSeq n).apply s).written = s.written ∧
    ((Upd.telSeq n).apply s).cands = s.cands ∧ ((Upd.telSeq n).apply s).fifos = s.fifos ∧
    ((Upd.telSeq n).apply s).zeroing = s.zeroing ∧ ((Upd.telSeq n).apply s).units = s.units ∧
    ((Upd.telSeq n).apply s).press = s.press ∧ ((Upd.telSeq n).apply s).tiles = s.tiles ∧
    ((Upd.telSeq n).apply s).flights = s.flights ∧ ((Upd.telSeq n).apply s).ues = s.ues ∧
    ((Upd.telSeq n).apply s).solvs = s.solvs ∧ ((Upd.telSeq n).apply s).shef = s.shef ∧
    ((Upd.telSeq n).apply s).pfs = s.pfs ∧ ((Upd.telSeq n).apply s).moves = s.moves ∧
    ((Upd.telSeq n).apply s).flash = s.flash ∧ ((Upd.telSeq n).apply s).ri = s.ri ∧
    ((Upd.telSeq n).apply s).links = s.links ∧ ((Upd.telSeq n).apply s).fab = s.fab ∧
    ((Upd.telSeq n).apply s).events = s.events ∧ ((Upd.telSeq n).apply s).evtSeq = s.evtSeq ∧
    ((Upd.telSeq n).apply s).boot = s.boot ∧ ((Upd.telSeq n).apply s).power = s.power ∧
    ((Upd.telSeq n).apply s).nv = s.nv ∧ ((Upd.telSeq n).apply s).eth = s.eth ∧
    ((Upd.telSeq n).apply s).sessions = s.sessions ∧ ((Upd.telSeq n).apply s).telSeq = n ∧
    ((Upd.telSeq n).apply s).bkUsed = s.bkUsed := by
  and_intros <;> rfl

@[simp] theorem Upd.bkUsed_fields (l : List (Nat × Nat × Nat)) (s : State) :
    ((Upd.bkUsed l).apply s).build = s.build ∧ ((Upd.bkUsed l).apply s).factory = s.factory ∧
    ((Upd.bkUsed l).apply s).pending = s.pending ∧ ((Upd.bkUsed l).apply s).out = s.out ∧
    ((Upd.bkUsed l).apply s).freeCtr = s.freeCtr ∧ ((Upd.bkUsed l).apply s).regs = s.regs ∧
    ((Upd.bkUsed l).apply s).srstOld = s.srstOld ∧ ((Upd.bkUsed l).apply s).mem = s.mem ∧
    ((Upd.bkUsed l).apply s).syn = s.syn ∧ ((Upd.bkUsed l).apply s).written = s.written ∧
    ((Upd.bkUsed l).apply s).cands = s.cands ∧ ((Upd.bkUsed l).apply s).fifos = s.fifos ∧
    ((Upd.bkUsed l).apply s).zeroing = s.zeroing ∧ ((Upd.bkUsed l).apply s).units = s.units ∧
    ((Upd.bkUsed l).apply s).press = s.press ∧ ((Upd.bkUsed l).apply s).tiles = s.tiles ∧
    ((Upd.bkUsed l).apply s).flights = s.flights ∧ ((Upd.bkUsed l).apply s).ues = s.ues ∧
    ((Upd.bkUsed l).apply s).solvs = s.solvs ∧ ((Upd.bkUsed l).apply s).shef = s.shef ∧
    ((Upd.bkUsed l).apply s).pfs = s.pfs ∧ ((Upd.bkUsed l).apply s).moves = s.moves ∧
    ((Upd.bkUsed l).apply s).flash = s.flash ∧ ((Upd.bkUsed l).apply s).ri = s.ri ∧
    ((Upd.bkUsed l).apply s).links = s.links ∧ ((Upd.bkUsed l).apply s).fab = s.fab ∧
    ((Upd.bkUsed l).apply s).events = s.events ∧ ((Upd.bkUsed l).apply s).evtSeq = s.evtSeq ∧
    ((Upd.bkUsed l).apply s).boot = s.boot ∧ ((Upd.bkUsed l).apply s).power = s.power ∧
    ((Upd.bkUsed l).apply s).nv = s.nv ∧ ((Upd.bkUsed l).apply s).eth = s.eth ∧
    ((Upd.bkUsed l).apply s).sessions = s.sessions ∧ ((Upd.bkUsed l).apply s).telSeq = s.telSeq ∧
    ((Upd.bkUsed l).apply s).bkUsed = l := by
  and_intros <;> rfl

end Sys2Proof.Machine
end

