-- ==== Sys2Proof/Laws/Act.lean ====
section
/-! SUPPORT. The laws of programs: how each combinator runs, and that what every primitive update of a program keeps, the
program keeps. -/

namespace Sys2Proof.Machine

/-! ### Running -/

@[simp] theorem Act.run_done (s : State) : Act.done.run s = s := rfl

@[simp] theorem Act.run_put (u : Upd) (k : Act) (s : State) : (Act.put u k).run s = k.run (u.apply s) := rfl

@[simp] theorem Act.run_look (k : State → Act) (s : State) : (Act.look k).run s = (k s).run s := rfl

@[simp] theorem Act.run_seq (a b : Act) (s : State) : (a.seq b).run s = b.run (a.run s) := by
  induction a generalizing s with
  | done => rfl
  | put u k ih => exact ih _
  | look k ih => exact ih s s

@[simp] theorem run_upd (u : Upd) (s : State) : (upd u).run s = u.apply s := rfl

@[simp] theorem run_look (k : State → Act) (s : State) : (look k).run s = (k s).run s := rfl

@[simp] theorem run_acts_nil (s : State) : (acts []).run s = s := rfl

@[simp] theorem run_acts_cons (a : Act) (l : List Act) (s : State) : (acts (a :: l)).run s = (acts l).run (a.run s) := by
  simp [acts]

theorem run_acts_append (l m : List Act) (s : State) : (acts (l ++ m)).run s = (acts m).run ((acts l).run s) := by
  induction l generalizing s with
  | nil => rfl
  | cons a l ih => simp [ih]

@[simp] theorem run_each_nil {α : Type} (f : α → Act) (s : State) : (each [] f).run s = s := rfl

@[simp] theorem run_each_cons {α : Type} (x : α) (l : List α) (f : α → Act) (s : State) :
    (each (x :: l) f).run s = (each l f).run ((f x).run s) := by
  simp [each]

@[simp] theorem run_onlyIf_true (a : Act) : onlyIf true a = a := rfl

@[simp] theorem run_onlyIf_false (a : Act) : onlyIf false a = .done := rfl

theorem run_onlyIf (c : Bool) (a : Act) (s : State) : (onlyIf c a).run s = if c then a.run s else s := by
  cases c <;> rfl

@[simp] theorem run_emit (m : OutMsg) (s : State) : (emit m).run s = (Upd.emit m).apply s := rfl

@[simp] theorem run_setKey (k v : Nat) (s : State) : (setKey k v).run s = (Upd.reg k (BitVec.ofNat 64 v)).apply s := rfl

@[simp] theorem run_setF (f : Fld) (v idx n : Nat) (s : State) :
    (setF f v idx n).run s =
      (Upd.reg (fldKey f idx n) (BitVec.ofNat 64 (setBits (rdKey s (fldKey f idx n)) f.hi f.lo v))).apply s := rfl

@[simp] theorem run_incF (f : Fld) (amt idx n : Nat) (s : State) :
    (incF f amt idx n).run s = (setF f (satAdd (f.hi + 1 - f.lo) (fv s f idx n) amt) idx n).run s := rfl

@[simp] theorem run_withFree (k : Nat → Act) (s : State) :
    (withFree k).run s = (k (Config.free s.freeCtr).toNat).run (Upd.nextFree.apply s) := rfl

/-! ### What every primitive update keeps -/

/-- What every primitive update keeps, every program keeps. -/
theorem Act.run_keeps (I : State → Prop) (h : ∀ u s, I s → I (Upd.apply u s)) (a : Act) (s : State) (hs : I s) :
    I (a.run s) := by
  induction a generalizing s with
  | done => exact hs
  | put u k ih => exact ih _ (h u s hs)
  | look k ih => exact ih s s hs

/-- A relation to the state before that every primitive update extends holds of every program. -/
theorem Act.run_rel (R : State → State → Prop) (hr : ∀ s, R s s) (h : ∀ u s t, R s t → R s (Upd.apply u t)) (a : Act)
    (s : State) : R s (a.run s) :=
  Act.run_keeps (R s) (fun u t ht => h u s t ht) a s (hr s)

/-- Every update a program can make satisfies a test, whatever it finds where it looks. -/
def Act.Only (P : Upd → Prop) : Act → Prop
  | .done => True
  | .put u k => P u ∧ k.Only P
  | .look k => ∀ s, (k s).Only P

@[simp] theorem Act.only_done (P : Upd → Prop) : Act.done.Only P := trivial

@[simp] theorem Act.only_put (P : Upd → Prop) (u : Upd) (k : Act) : (Act.put u k).Only P ↔ P u ∧ k.Only P := Iff.rfl

theorem Act.only_seq (P : Upd → Prop) (a b : Act) (ha : a.Only P) (hb : b.Only P) : (a.seq b).Only P := by
  induction a with
  | done => exact hb
  | put u k ih => exact ⟨ha.1, ih ha.2⟩
  | look k ih => exact fun s => ih s (ha s)

theorem only_upd (P : Upd → Prop) (u : Upd) (h : P u) : (upd u).Only P := ⟨h, trivial⟩

theorem only_look (P : Upd → Prop) (k : State → Act) (h : ∀ s, (k s).Only P) : (look k).Only P := h

theorem only_acts (P : Upd → Prop) (l : List Act) (h : ∀ a ∈ l, a.Only P) : (acts l).Only P := by
  induction l with
  | nil => trivial
  | cons a l ih => exact Act.only_seq P a _ (h a (by simp)) (ih fun b hb => h b (by simp [hb]))

theorem only_each {α : Type} (P : Upd → Prop) (l : List α) (f : α → Act) (h : ∀ x ∈ l, (f x).Only P) :
    (each l f).Only P := by
  refine only_acts P _ fun a ha => ?_
  obtain ⟨x, hx, rfl⟩ := List.mem_map.1 ha
  exact h x hx

theorem only_onlyIf (P : Upd → Prop) (c : Bool) (a : Act) (h : c = true → a.Only P) : (onlyIf c a).Only P := by
  cases c
  · trivial
  · exact h rfl

/-- What the updates of a program keep, the program keeps. -/
theorem Act.Only.run_keeps {P : Upd → Prop} {a : Act} (ha : a.Only P) (I : State → Prop)
    (h : ∀ u s, P u → I s → I (Upd.apply u s)) (s : State) (hs : I s) : I (a.run s) := by
  induction a generalizing s with
  | done => exact hs
  | put u k ih => exact ih ha.2 _ (h u s ha.1 hs)
  | look k ih => exact ih s (ha s) s hs

theorem Act.Only.mono {P Q : Upd → Prop} {a : Act} (ha : a.Only P) (h : ∀ u, P u → Q u) : a.Only Q := by
  induction a with
  | done => trivial
  | put u k ih => exact ⟨h u ha.1, ih ha.2⟩
  | look k ih => exact fun s => ih s (ha s)

end Sys2Proof.Machine
end

