-- ==== Sys2Proof/Laws/Reg.lean ====
section
/-! SUPPORT. The laws of bit fields and of the registers that hold them: a field reads as what was written to it, other
fields and other registers as before. -/

namespace Sys2Proof.Machine

/-! ### Bit fields -/

theorem testBit_bits (v hi lo i : Nat) : (bits v hi lo).testBit i = (decide (i < hi + 1 - lo) && v.testBit (lo + i)) := by
  simp [bits, Nat.testBit_mod_two_pow, Nat.testBit_div_two_pow, Nat.add_comm]

theorem bits_lt (v hi lo : Nat) : bits v hi lo < 2 ^ (hi + 1 - lo) := Nat.mod_lt _ (Nat.two_pow_pos _)

theorem setBits_eq (v hi lo x : Nat) :
    setBits v hi lo x =
      v / 2 ^ (lo + (hi + 1 - lo)) * 2 ^ (lo + (hi + 1 - lo)) + x % 2 ^ (hi + 1 - lo) * 2 ^ lo + v % 2 ^ lo := by
  unfold setBits bits
  generalize hi + 1 - lo = w
  have h1 : v = v / 2 ^ lo * 2 ^ lo + v % 2 ^ lo := (Nat.div_add_mod' v (2 ^ lo)).symm
  have h2 : v / 2 ^ lo = v / 2 ^ lo / 2 ^ w * 2 ^ w + v / 2 ^ lo % 2 ^ w := (Nat.div_add_mod' _ _).symm
  have h3 : v / 2 ^ lo / 2 ^ w = v / 2 ^ (lo + w) := by rw [Nat.div_div_eq_div_mul, ← Nat.pow_add]
  rw [h3] at h2
  have h4 : v = v / 2 ^ (lo + w) * 2 ^ (lo + w) + v / 2 ^ lo % 2 ^ w * 2 ^ lo + v % 2 ^ lo := by
    conv_lhs => rw [h1, h2]
    rw [Nat.add_mul, Nat.mul_assoc, ← Nat.pow_add, Nat.add_comm w lo]
  omega

/-- Bit `i` after a field took a value. -/
theorem testBit_setBits (v hi lo x i : Nat) :
    (setBits v hi lo x).testBit i =
      if lo ≤ i ∧ i < lo + (hi + 1 - lo) then x.testBit (i - lo) else v.testBit i := by
  rw [setBits_eq]
  generalize hi + 1 - lo = w
  have hx : x % 2 ^ w * 2 ^ lo + v % 2 ^ lo < 2 ^ (lo + w) := by
    have h1 : x % 2 ^ w < 2 ^ w := Nat.mod_lt _ (Nat.two_pow_pos _)
    have h2 : v % 2 ^ lo < 2 ^ lo := Nat.mod_lt _ (Nat.two_pow_pos _)
    calc x % 2 ^ w * 2 ^ lo + v % 2 ^ lo < x % 2 ^ w * 2 ^ lo + 2 ^ lo := by omega
      _ = (x % 2 ^ w + 1) * 2 ^ lo := by ring
      _ ≤ 2 ^ w * 2 ^ lo := Nat.mul_le_mul_right _ h1
      _ = 2 ^ (lo + w) := by rw [← Nat.pow_add, Nat.add_comm]
  rw [Nat.add_assoc, Nat.mul_comm (v / 2 ^ (lo + w)), Nat.testBit_two_pow_mul_add _ hx]
  have hv : v % 2 ^ lo < 2 ^ lo := Nat.mod_lt _ (Nat.two_pow_pos _)
  rw [Nat.mul_comm (x % 2 ^ w), Nat.testBit_two_pow_mul_add _ hv]
  by_cases h1 : i < lo
  · simp [h1, Nat.testBit_mod_two_pow, show i < lo + w by omega]
  · by_cases h2 : i < lo + w
    · simp [h1, h2, show lo ≤ i by omega, Nat.testBit_mod_two_pow, show i - lo < w by omega]
    · have h3 : ¬ (lo ≤ i ∧ i < lo + w) := by omega
      rw [if_neg h2, if_neg h3, Nat.testBit_div_two_pow]
      congr 1; omega

/-- A field reads as what it was set to. -/
theorem bits_setBits_self (v hi lo x : Nat) : bits (setBits v hi lo x) hi lo = x % 2 ^ (hi + 1 - lo) := by
  refine Nat.eq_of_testBit_eq fun i => ?_
  rw [testBit_bits, testBit_setBits, Nat.testBit_mod_two_pow]
  by_cases h : i < hi + 1 - lo
  · simp [h, show lo ≤ lo + i by omega, show lo + i < lo + (hi + 1 - lo) by omega]
  · simp [h]

/-- A field that another does not meet reads as before. -/
theorem bits_setBits_disj (v hi lo x hi' lo' : Nat) (h : hi < lo' ∨ hi' < lo) :
    bits (setBits v hi lo x) hi' lo' = bits v hi' lo' := by
  refine Nat.eq_of_testBit_eq fun i => ?_
  rw [testBit_bits, testBit_bits, testBit_setBits]
  by_cases hi' : i < hi' + 1 - lo'
  · rw [if_neg (by omega)]
  · simp [hi']

theorem setBits_lt (v hi lo x n : Nat) (hv : v < 2 ^ n) (hn : hi < n) : setBits v hi lo x < 2 ^ n := by
  refine Nat.lt_pow_two_of_testBit _ fun i hi' => ?_
  rw [testBit_setBits, if_neg (by omega)]
  exact Nat.testBit_lt_two_pow (Nat.lt_of_lt_of_le hv (Nat.pow_le_pow_right (by omega) hi'))

/-! ### Registers -/

theorem rdKey_lt (s : State) (k : Nat) : rdKey s k < 2 ^ 64 := (mapGet regReset s.regs k).isLt

/-- Only `regs` decides what a register reads as. -/
theorem rdKey_congr (s t : State) (k : Nat) (h : t.regs = s.regs) : rdKey t k = rdKey s k := by unfold rdKey; rw [h]

theorem fv_congr (s t : State) (f : Fld) (idx n : Nat) (h : t.regs = s.regs) : fv t f idx n = fv s f idx n := by
  unfold fv; rw [rdKey_congr s t _ h]

/-- A register after a register took a value. -/
@[simp] theorem rdKey_reg (s : State) (k v j : Nat) :
    rdKey ((Upd.reg k (BitVec.ofNat 64 v)).apply s) j = if j = k then v % 2 ^ 64 else rdKey s j := by
  unfold rdKey
  simp only [Upd.reg_fields, mapGet_mapSet]
  split <;> simp

/-- The key of a register decides its block's number, its page instance and its offset. -/
theorem regKey_inj (b c : Blk) (i j o p : Nat) (hi : i < 256) (hj : j < 256) (ho : o < 4096) (hp : p < 4096) :
    regKey b i o = regKey c j p ↔ blkNum b = blkNum c ∧ i = j ∧ o = p := by
  unfold regKey
  omega

theorem blkNum_inj (b c : Blk) (h : blkNum b = blkNum c) : b = c := by
  cases b <;> cases c <;> first | rfl | (exact absurd h (by decide))

/-- A field of a 64-bit register. -/
def Fld.ok (f : Fld) : Prop := f.lo ≤ f.hi ∧ f.hi < 64

/-- A field reads as what it was set to. -/
theorem fv_setF_self (s : State) (f : Fld) (v idx n : Nat) (hf : f.ok) :
    fv ((setF f v idx n).run s) f idx n = v % 2 ^ (f.hi + 1 - f.lo) := by
  obtain ⟨h1, h2⟩ := hf
  have := setBits_lt (rdKey s (fldKey f idx n)) f.hi f.lo v 64 (rdKey_lt _ _) h2
  simp only [fv, run_setF, rdKey_reg, if_true, Nat.mod_eq_of_lt this, bits_setBits_self]

/-- Another register reads as before. -/
theorem rdKey_setF_ne (s : State) (f : Fld) (v idx n k : Nat) (h : k ≠ fldKey f idx n) :
    rdKey ((setF f v idx n).run s) k = rdKey s k := by
  simp [h]

/-- A field of another register, or other bits of the same, read as before. -/
theorem fv_setF_other (s : State) (f g : Fld) (v idx n i m : Nat) (hf : f.hi < 64)
    (h : fldKey g i m ≠ fldKey f idx n ∨ f.hi < g.lo ∨ g.hi < f.lo) :
    fv ((setF f v idx n).run s) g i m = fv s g i m := by
  by_cases hk : fldKey g i m = fldKey f idx n
  · have hd : f.hi < g.lo ∨ g.hi < f.lo := by
      rcases h with h | h
      · exact absurd hk h
      · exact h
    have := setBits_lt (rdKey s (fldKey f idx n)) f.hi f.lo v 64 (rdKey_lt _ _) hf
    simp only [fv, run_setF, rdKey_reg, hk, if_true, Nat.mod_eq_of_lt this, bits_setBits_disj _ _ _ _ _ _ hd]
  · simp only [fv, run_setF, rdKey_reg, hk, if_false]

/-- A counter that advances. -/
theorem fv_incF_self (s : State) (f : Fld) (amt idx n : Nat) (hf : f.ok) :
    fv ((incF f amt idx n).run s) f idx n = satAdd (f.hi + 1 - f.lo) (fv s f idx n) amt := by
  rw [run_incF, fv_setF_self s f _ idx n hf]
  refine Nat.mod_eq_of_lt ?_
  have := Nat.two_pow_pos (f.hi + 1 - f.lo)
  unfold satAdd; omega

end Sys2Proof.Machine
end

