-- ==== Sys2Proof/Laws/Access.lean ====
section
/-! SUPPORT. What a register access does, once; and which page an address names. -/

namespace Sys2Proof.Machine

/-- An accepted write: what its checks read, then its effect, then the answer. -/
theorem access_accepted (s : State) (r : Requester) (a size v : Nat) (h : accepted s r a size v = true) :
    ∃ p d base, pageOf s a = some p ∧ regAt p.blk (raOff a) = some (d, base) ∧
      (access ⟨r, a, size, some v⟩).run s =
        (Upd.emit (.regCode r a 0)).apply
          ((writeEffect p d base (v % 2 ^ (8 * size))).run ((hookTouch p base (v % 2 ^ (8 * size))).run s)) := by
  unfold accepted at h
  cases hp : pageOf s a with
  | none => simp [hp] at h
  | some p =>
    cases hr : regAt p.blk (raOff a) with
    | none => simp [hp, hr] at h
    | some db =>
      obtain ⟨d, base⟩ := db
      refine ⟨p, d, base, rfl, hr, ?_⟩
      rw [Bool.and_eq_true, Bool.and_eq_true, Bool.not_eq_true'] at h
      obtain ⟨⟨hh, hc⟩, hx⟩ := h
      simp only [hp, hr, Bool.and_eq_true, Bool.not_eq_true'] at hx
      obtain ⟨hro, hpl⟩ := hx
      have hc := beq_iff_eq.1 hc
      simp only [writeCode, hp, hr] at hc
      by_cases he : firstErr (accessErrs s r a size true) = .ok
      · rw [if_neg (by simp [he])] at hc
        by_cases hs : (d.fields.any (·.acc == .cmd) && r == .slaiq) = true
        · rw [if_pos hs] at hc; cases hc
        · rw [if_neg hs, hro, if_neg (by simp), if_pos hpl] at hc
          have hnil : plainErrs s p d base (v % 2 ^ (8 * size)) = [] := List.isEmpty_iff.1 hpl
          simp only [access, run_look, hh, Bool.false_eq_true, if_false, accessNow, writeReg, hp, he, ne_eq,
            not_true_eq_false, writePage, hr, hs, hro, hnil, List.isEmpty_nil, run_onlyIf_true, List.nil_append,
            run_acts_cons, run_acts_nil, hc, if_true, run_emit]
          rfl
      · rw [if_pos he] at hc; exact absurd hc he

/-- The same, where the page and the register are known. -/
theorem access_accepted_at (s : State) (r : Requester) (a size v : Nat) (p : PageRef) (d : RegDef) (base : Nat)
    (h : accepted s r a size v = true) (hp : pageOf s a = some p) (hd : regAt p.blk (raOff a) = some (d, base)) :
    (access ⟨r, a, size, some v⟩).run s =
      (Upd.emit (.regCode r a 0)).apply
        ((writeEffect p d base (v % 2 ^ (8 * size))).run ((hookTouch p base (v % 2 ^ (8 * size))).run s)) := by
  obtain ⟨p', d', b', h1, h2, h3⟩ := access_accepted s r a size v h
  rw [hp] at h1; cases h1
  rw [hd] at h2; cases h2
  exact h3

/-- A refused write is recorded, and the requester is told. -/
theorem rejected_run (s : State) (r : Requester) (a size v : Nat) (p : PageRef) (hh : accessHeld s a = false)
    (hp : p = (pageOf s a).getD mgmtPage) (hc : writeCode s r a size v ≠ .ok)
    (ht : ∀ d base, regAt p.blk (raOff a) = some (d, base) → hookTouch p base (v % 2 ^ (8 * size)) = .done) :
    (access ⟨r, a, size, some v⟩).run s = (Upd.emit (.regCode r a (errNum (writeCode s r a size v)))).apply
      ((recordReject p (raOff a) (writeCode s r a size v)).run s) := by
  simp only [access, run_look, hh, Bool.false_eq_true, if_false, accessNow, writeReg]
  unfold writeCode at hc ⊢
  cases hpo : pageOf s a with
  | none =>
    simp only [hpo] at hc ⊢
    simp only [rejectAt, hpo, hp, run_acts_cons, run_acts_nil, run_emit]
  | some q =>
    have hpq : p = q := by rw [hp, hpo]; rfl
    subst hpq
    simp only [hpo] at hc ⊢
    by_cases he : firstErr (accessErrs s r a size true) = .ok
    · simp only [he, ne_eq, not_true_eq_false, if_false] at hc ⊢
      unfold writePage
      simp only [run_look]
      cases hr : regAt p.blk (raOff a) with
      | none =>
        simp only [hr] at hc ⊢
        rw [if_neg hc]
        simp only [run_acts_cons, run_acts_nil, run_emit]
      | some db =>
        obtain ⟨d, base⟩ := db
        simp only [hr] at hc ⊢
        have ht := ht d base hr
        by_cases h1 : (d.fields.any (·.acc == .cmd) && r == .slaiq) = true
        · rw [if_pos h1] at hc ⊢; rw [if_pos h1]; simp only [run_acts_cons, run_acts_nil, run_emit]
        · rw [if_neg h1] at hc ⊢; rw [if_neg h1]
          by_cases h2 : isReadOnly d = true
          · rw [if_pos h2] at hc; exact absurd rfl hc
          · rw [if_neg h2] at hc ⊢; rw [if_neg h2]
            simp only [ht, Act.run_done] at hc ⊢
            by_cases h3 : (plainErrs s p d base (v % 2 ^ (8 * size))).isEmpty = true
            · rw [if_pos h3] at hc ⊢
              have h4 := List.isEmpty_iff.1 h3
              simp only [run_acts_cons, run_acts_nil, run_look, h4, List.isEmpty_nil, run_onlyIf_true, Act.run_done, List.nil_append]
              rw [if_neg hc]; simp only [run_acts_cons, run_acts_nil, run_emit]
            · rw [if_neg h3] at hc ⊢
              have h3' := Bool.eq_false_iff.2 h3
              simp only [run_acts_cons, run_acts_nil, run_look, h3', run_onlyIf_false, Act.run_done]
              rw [if_neg hc]; simp only [run_acts_cons, run_acts_nil, run_emit]
    · simp only [ne_eq, he, not_false_eq_true, if_true] at hc ⊢
      simp only [rejectAt, hpo, run_acts_cons, run_acts_nil, run_emit, Option.getD]

/-! ### Addresses -/

/-- An address made of a location, a page index and an offset names them. -/
theorem regAddr_parts (loc page off : Nat) (hl : loc < 256) (hp : page < 4096) (ho : off < 4096) :
    regAddr loc page off / 2 ^ 32 = 0xFF00 ∧ raLoc (regAddr loc page off) = loc ∧
      raPage (regAddr loc page off) = page ∧ raOff (regAddr loc page off) = off := by
  unfold regAddr raLoc raPage raOff bits
  norm_num
  omega

theorem pageOf_regAddr (s : State) (loc page off : Nat) (hl : loc < 256) (hp : page < 4096) (ho : off < 4096) :
    pageOf s (regAddr loc page off) = pageAt s loc page := by
  obtain ⟨h1, h2, h3, -⟩ := regAddr_parts loc page off hl hp ho
  unfold pageOf
  rw [if_pos h1, h2, h3]

theorem slotLoc_lt (tile k : Nat) (ht : tile < 144) (hk : k < 8) :
    (slotLoc tile k).1 < 256 ∧ (slotLoc tile k).2 < 0x240 := by
  unfold slotLoc
  rw [if_pos ht]
  constructor <;> simp <;> omega

/-- The page of a tile's register is that of the physical tile behind it. -/
theorem pageOf_tileReg (s : State) (tile k off : Nat) (ht : tile < 144) (hk : k < 8) (ho : off < 4096) :
    pageOf s (tileReg tile k off) = tilePage k (physOf s tile) := by
  obtain ⟨h1, h2⟩ := slotLoc_lt tile k ht hk
  unfold tileReg
  rw [pageOf_regAddr s _ _ _ h1 (by omega) ho]
  unfold slotLoc
  rw [if_pos ht]
  unfold pageAt
  have hd : tile / 72 = 0 ∨ tile / 72 = 1 := by omega
  have e1 : (8 * (tile % 72) + k) % 8 = k := by omega
  have e2 : (8 * (tile % 72) + k) / 8 = tile % 72 := by omega
  have e3 : 8 * (tile % 72) + k < 0x240 := by omega
  have e4 : tile / 72 * 72 + tile % 72 = tile := by omega
  rw [if_neg (by simp; omega), if_pos (by simp; omega)]
  simp only [e1, e2, if_pos e3]
  rw [show (0x10 + tile / 72 - 0x10) * 72 + tile % 72 = tile by omega]

theorem raOff_tileReg (tile k off : Nat) (ht : tile < 144) (hk : k < 8) (ho : off < 4096) :
    raOff (tileReg tile k off) = off := by
  obtain ⟨h1, h2⟩ := slotLoc_lt tile k ht hk
  exact (regAddr_parts _ _ off h1 (by omega) ho).2.2.2

/-- The pages of the MGD. -/
theorem pageOf_mgdReg (s : State) (page off : Nat) (hp : page < 12) (ho : off < 4096) :
    pageOf s (mgdReg page off) = (mgdBlks[page]?).map fun b => ⟨b, 0⟩ := by
  unfold mgdReg
  rw [pageOf_regAddr s _ _ _ (by omega) (by omega) ho]
  unfold pageAt
  rw [if_pos rfl, if_neg (by omega)]

theorem raOff_mgdReg (page off : Nat) (hp : page < 4096) (ho : off < 4096) : raOff (mgdReg page off) = off :=
  (regAddr_parts _ _ off (by omega) hp ho).2.2.2

theorem raOff_siteReg (site page off : Nat) (hs : site < 12) (hp : page < 4096) (ho : off < 4096) :
    raOff (siteReg site page off) = off :=
  (regAddr_parts _ _ off (by omega) hp ho).2.2.2

theorem isHbmSite_lt (b : Build) (site : Nat) (hs : isHbmSite b site = true) : site < 12 := by
  unfold isHbmSite at hs
  simp only [Bool.and_eq_true, decide_eq_true_eq] at hs
  exact hs.1

theorem isLinkSite_lt (b : Build) (site : Nat) (hs : isLinkSite b site = true) : site < 12 := by
  unfold isLinkSite at hs
  simp only [Bool.and_eq_true, decide_eq_true_eq] at hs
  exact hs.1

/-- The HBMC page of an HBM site. -/
theorem pageOf_hbmcReg (s : State) (site off : Nat) (hs : isHbmSite s.build site = true) (ho : off < 4096) :
    pageOf s (siteReg site 0 off) = some ⟨.hbmc, site⟩ := by
  have h12 := isHbmSite_lt _ _ hs
  unfold siteReg
  rw [pageOf_regAddr s _ _ _ (by omega) (by omega) ho]
  unfold pageAt
  rw [if_neg (by omega), if_neg (by omega), if_pos hs]
  rfl

/-- The UPDT page of an HBM site. -/
theorem pageOf_updtReg (s : State) (site off : Nat) (hs : isHbmSite s.build site = true) (ho : off < 4096) :
    pageOf s (siteReg site 1 off) = some ⟨.updt, site⟩ := by
  have h12 := isHbmSite_lt _ _ hs
  unfold siteReg
  rw [pageOf_regAddr s _ _ _ (by omega) (by omega) ho]
  unfold pageAt
  rw [if_neg (by omega), if_neg (by omega), if_pos hs]
  rfl

/-- The SHEF page of a link die. -/
theorem pageOf_shefReg (s : State) (site off : Nat) (hs : isLinkSite s.build site = true) (ho : off < 4096) :
    pageOf s (siteReg site 0 off) = some ⟨.shef, site⟩ := by
  have h : site < 12 ∧ bit (linkMask s.build) site = true := by
    unfold isLinkSite at hs
    simpa using hs
  unfold siteReg
  rw [pageOf_regAddr s _ _ _ (by omega) (by omega) ho]
  unfold pageAt isHbmSite
  rw [if_neg (by omega), if_neg (by omega), if_neg (by simp [h]), if_pos hs, if_pos rfl]

/-- The page of a Solver Engine. -/
theorem pageOf_solvReg (s : State) (e off : Nat) (he : e < 16) (ho : off < 4096) :
    pageOf s (solvReg e off) = some ⟨.solv, e⟩ := by
  unfold solvReg
  rw [pageOf_regAddr s _ _ _ (by omega) (by omega) ho]
  unfold pageAt
  rw [if_neg (by omega), if_pos (by omega)]
  simp only [show ¬ 0x300 + 2 * (e % 8) < 0x240 by omega, show ¬ 0x300 + 2 * (e % 8) < 0x280 by omega, if_false,
    show (0x300 ≤ 0x300 + 2 * (e % 8) ∧ 0x300 + 2 * (e % 8) < 0x310) by omega, and_self, if_true]
  rw [if_pos (by omega)]
  congr 2
  omega

theorem raOff_solvReg (e off : Nat) (he : e < 16) (ho : off < 4096) : raOff (solvReg e off) = off :=
  (regAddr_parts _ _ off (by omega) (by omega) ho).2.2.2

end Sys2Proof.Machine
end

