-- ==== Sys2Proof/Laws/Frame.lean ====
section
/-! SUPPORT. Frames: what events, rejections, notices and register updates leave as they find it. -/

set_option linter.unusedSimpArgs false

namespace Sys2Proof.Machine

/-- An update of a register of some keys, of the events sent, or a message sent. -/
def Upd.onRegs (ks : Nat → Prop) : Upd → Prop
  | .reg k _ => ks k
  | .events _ _ => True
  | .emit _ => True
  | _ => False

/-- Everything but registers, events and what was sent. -/
def sameRest (s t : State) : Prop :=
    t.build = s.build ∧ t.factory = s.factory ∧ t.pending = s.pending ∧ t.freeCtr = s.freeCtr ∧ t.srstOld =
    s.srstOld ∧ t.mem = s.mem ∧ t.syn = s.syn ∧ t.written = s.written ∧ t.cands = s.cands ∧ t.fifos = s.fifos ∧
    t.zeroing = s.zeroing ∧ t.units = s.units ∧ t.press = s.press ∧ t.tiles = s.tiles ∧ t.flights = s.flights ∧
    t.ues = s.ues ∧ t.solvs = s.solvs ∧ t.shef = s.shef ∧ t.pfs = s.pfs ∧ t.moves = s.moves ∧ t.flash = s.flash
    ∧ t.ri = s.ri ∧ t.links = s.links ∧ t.fab = s.fab ∧ t.boot = s.boot ∧ t.power = s.power ∧ t.nv = s.nv ∧
    t.eth = s.eth ∧ t.sessions = s.sessions ∧ t.telSeq = s.telSeq ∧ t.bkUsed = s.bkUsed

theorem sameRest.refl (s : State) : sameRest s s := by unfold sameRest; simp

theorem sameRest.trans {s t u : State} (h : sameRest s t) (k : sameRest t u) : sameRest s u := by
  unfold sameRest at *
  simp only [h, k, and_self]

theorem Upd.onRegs_sameRest (ks : Nat → Prop) (u : Upd) (s t : State) (h : u.onRegs ks) (hs : sameRest s t) :
    sameRest s (u.apply t) := by
  cases u <;> first | exact False.elim h | exact hs

theorem Upd.onRegs_mono (ks ls : Nat → Prop) (h : ∀ k, ks k → ls k) (u : Upd) (hu : u.onRegs ks) : u.onRegs ls := by
  cases u <;> first | exact h _ hu | exact hu

/-- A program over registers of some keys, events and messages leaves everything else. -/
theorem Act.Only.rest {ks : Nat → Prop} {a : Act} (ha : a.Only (Upd.onRegs ks)) (s : State) : sameRest s (a.run s) :=
  ha.run_keeps (sameRest s) (fun u t hu ht => Upd.onRegs_sameRest ks u s t hu ht) s (sameRest.refl s)

/-- It leaves every register of another key. -/
theorem Act.Only.rdKey {ks : Nat → Prop} {a : Act} (ha : a.Only (Upd.onRegs ks)) (s : State) (k : Nat) (hk : ¬ ks k) :
    rdKey (a.run s) k = Machine.rdKey s k := by
  refine ha.run_keeps (fun t => Machine.rdKey t k = Machine.rdKey s k) (fun u t hu ht => ?_) s rfl
  cases u with
  | reg j v =>
    have hne : k ≠ j := fun h => hk (h ▸ hu)
    simp only [Machine.rdKey, Upd.reg_fields, mapGet_mapSet, if_neg hne]
    exact ht
  | events l n => exact ht
  | emit m => exact ht
  | _ => exact False.elim hu

theorem Act.Only.fv {ks : Nat → Prop} {a : Act} (ha : a.Only (Upd.onRegs ks)) (s : State) (f : Fld) (idx n : Nat)
    (hk : ¬ ks (fldKey f idx n)) : fv (a.run s) f idx n = Machine.fv s f idx n := by
  unfold Machine.fv; rw [ha.rdKey s _ hk]

theorem only_setKey (ks : Nat → Prop) (k v : Nat) (h : ks k) : (setKey k v).Only (Upd.onRegs ks) := ⟨h, trivial⟩

theorem only_setF (ks : Nat → Prop) (f : Fld) (v idx n : Nat) (h : ks (fldKey f idx n)) :
    (setF f v idx n).Only (Upd.onRegs ks) := fun _ => only_setKey ks _ _ h

theorem only_incF (ks : Nat → Prop) (f : Fld) (amt idx n : Nat) (h : ks (fldKey f idx n)) :
    (incF f amt idx n).Only (Upd.onRegs ks) := fun _ => only_setF ks f _ idx n h

theorem only_emit (ks : Nat → Prop) (m : OutMsg) : (emit m).Only (Upd.onRegs ks) := ⟨trivial, trivial⟩

/-- The register that counts events the Slaiq protocol lost. -/
def lostKey : Nat := fldKey SLQP_QCNT 0 5

/-- Sending an event touches the lost-event counter alone. -/
theorem sendEvent_only (p : PageRef) : (sendEvent p).Only (Upd.onRegs (· = lostKey)) := by
  intro s
  dsimp only
  split
  · trivial
  · split
    · exact only_incF _ _ _ _ _ rfl
    · refine only_acts _ _ fun a ha => ?_
      simp only [List.mem_cons, List.not_mem_nil, or_false] at ha
      rcases ha with rfl | rfl
      · exact ⟨trivial, trivial⟩
      · exact only_emit _ _

/-- Raising an event touches EVT_PEND of the page and the lost-event counter. -/
theorem raiseEvt_only (p : PageRef) (m : Nat) :
    (raiseEvt p m).Only (Upd.onRegs fun k => k = fldKey (hdrEvtPend p.blk) p.idx 0 ∨ k = lostKey) := by
  refine only_onlyIf _ _ _ fun _ => fun s => ?_
  refine only_acts _ _ fun a ha => ?_
  simp only [List.mem_cons, List.not_mem_nil, or_false] at ha
  rcases ha with rfl | rfl
  · exact fun t => only_setF _ _ _ _ _ (Or.inl rfl)
  · exact fun t => only_onlyIf _ _ _ fun _ => (sendEvent_only p).mono
      (Upd.onRegs_mono _ _ fun _ h => Or.inr h)

/-- A rejection touches ERR_CODE, ERR_CNT and EVT_PEND of its page, and the lost-event counter. -/
theorem recordReject_only (p : PageRef) (off : Nat) (c : ErrCode) :
    (recordReject p off c).Only (Upd.onRegs fun k => k = fldKey (hdrErrCode p.blk) p.idx 0 ∨
      k = fldKey (hdrErrCnt p.blk) p.idx 0 ∨ k = fldKey (hdrEvtPend p.blk) p.idx 0 ∨ k = lostKey) := by
  refine only_acts _ _ fun a ha => ?_
  simp only [List.mem_cons, List.not_mem_nil, or_false] at ha
  rcases ha with rfl | rfl | rfl
  · intro s
    dsimp only
    split
    · refine only_acts _ _ fun a ha => ?_
      simp only [List.mem_cons, List.not_mem_nil, or_false] at ha
      rcases ha with rfl | rfl <;> exact only_setF _ _ _ _ _ (Or.inl rfl)
    · exact only_setF _ _ _ _ _ (Or.inl rfl)
  · exact only_incF _ _ _ _ _ (Or.inr (Or.inl rfl))
  · exact (raiseEvt_only p evReject).mono (Upd.onRegs_mono _ _ fun _ h => Or.inr (Or.inr h))

/-- EVT_PEND after events became pending. -/
theorem raiseEvt_pend (p : PageRef) (m : Nat) (s : State) (hm : m < 2 ^ 32) :
    fv ((raiseEvt p m).run s) (hdrEvtPend p.blk) p.idx = fv s (hdrEvtPend p.blk) p.idx ||| m := by
  by_cases h0 : m = 0
  · subst h0
    simp [raiseEvt]
  · have hb : (m != 0) = true := by simpa using h0
    simp only [raiseEvt, hb, run_onlyIf_true, withForward, run_look, run_acts_cons, run_acts_nil]
    generalize hs1 : (setF (hdrEvtPend p.blk) (fv s (hdrEvtPend p.blk) p.idx ||| m) p.idx).run s = s1
    have hlost : fldKey (hdrEvtPend p.blk) p.idx 0 ≠ lostKey := by
      unfold fldKey lostKey fldKey regKey hdrEvtPend SLQP_QCNT; simp only [blkNum]; omega
    have h1 : fv s1 (hdrEvtPend p.blk) p.idx = fv s (hdrEvtPend p.blk) p.idx ||| m := by
      rw [← hs1, fv_setF_self _ _ _ _ _ (by simp [Fld.ok, hdrErrCode, hdrErrOffset, hdrErrMulti, hdrErrCnt, hdrEvtPend])]
      refine Nat.mod_eq_of_lt (Nat.or_lt_two_pow ?_ hm)
      exact bits_lt _ 31 0
    rw [run_onlyIf]
    split
    · rw [(sendEvent_only p).fv s1 _ _ _ hlost, h1]
    · exact h1

/-- What a rejection leaves in its page (R44). -/
theorem recordReject_page (p : PageRef) (off : Nat) (c : ErrCode) (s : State) (hc : errNum c < 256) (ho : off < 4096) :
    let t := (recordReject p off c).run s
    (fv s (hdrErrCode p.blk) p.idx = 0 →
      fv t (hdrErrCode p.blk) p.idx = errNum c ∧ fv t (hdrErrOffset p.blk) p.idx = off) ∧
    (fv s (hdrErrCode p.blk) p.idx ≠ 0 → fv t (hdrErrCode p.blk) p.idx = fv s (hdrErrCode p.blk) p.idx ∧
      fv t (hdrErrOffset p.blk) p.idx = fv s (hdrErrOffset p.blk) p.idx ∧ fv t (hdrErrMulti p.blk) p.idx = 1) ∧
    fv t (hdrErrCnt p.blk) p.idx = min (2 ^ 32 - 1) (fv s (hdrErrCnt p.blk) p.idx + 1) ∧
    fv t (hdrEvtPend p.blk) p.idx = fv s (hdrEvtPend p.blk) p.idx ||| 1 := by
  intro t
  have key : ∀ (o : Nat), o < 0x40 → regKey p.blk p.idx o ≠ lostKey := by
    intro o ho'; unfold lostKey fldKey regKey SLQP_QCNT; simp only [blkNum]; omega
  have ev : ∀ (u : State) (f : Fld), f.blk = p.blk → f.off < 0x40 → f.off ≠ 0x018 → f.stride = 0 →
      fv ((raiseEvt p evReject).run u) f p.idx = fv u f p.idx := by
    intro u f hb hlt hne hst
    refine (raiseEvt_only p evReject).fv u f p.idx 0 ?_
    rintro (h | h)
    · unfold fldKey regKey hdrEvtPend at h; rw [hb, hst] at h; simp only at h; omega
    · refine key f.off hlt ?_
      rw [← h]; unfold fldKey; rw [hb, hst]; simp
  set u0 := (if fv s (hdrErrCode p.blk) p.idx = 0 then
      acts [setF (hdrErrCode p.blk) (errNum c) p.idx, setF (hdrErrOffset p.blk) off p.idx]
    else setF (hdrErrMulti p.blk) 1 p.idx).run s with hu0
  have ht : t = (raiseEvt p evReject).run ((incF (hdrErrCnt p.blk) 1 p.idx).run u0) := by
    simp only [t, recordReject, run_acts_cons, run_acts_nil, run_look, hu0]
  have other : ∀ (u : State) (f g : Fld) (v : Nat), f.hi < 64 → (f.blk = g.blk → f.off ≠ g.off ∨ f.hi < g.lo ∨ g.hi < f.lo) →
      f.blk = p.blk → g.blk = p.blk → f.stride = 0 → g.stride = 0 →
      fv ((setF f v p.idx).run u) g p.idx = fv u g p.idx := by
    intro u f g v hf h h1 h2 h3 h4
    refine fv_setF_other u f g v p.idx 0 p.idx 0 hf ?_
    rcases h (h1.trans h2.symm) with h | h | h
    · left; unfold fldKey regKey; rw [h1, h2, h3, h4]; omega
    · exact Or.inr (Or.inl h)
    · exact Or.inr (Or.inr h)
  have cntKeeps : ∀ (g : Fld), g.blk = p.blk → g.stride = 0 → g.off ≠ 0x014 →
      fv ((incF (hdrErrCnt p.blk) 1 p.idx).run u0) g p.idx = fv u0 g p.idx := by
    intro g hb hst hne
    rw [run_incF]
    exact other u0 (hdrErrCnt p.blk) g _ (by simp [hdrErrCode, hdrErrOffset, hdrErrMulti, hdrErrCnt, hdrEvtPend]) (fun _ => Or.inl (Ne.symm hne)) rfl hb rfl hst
  refine ⟨fun h0 => ⟨?_, ?_⟩, fun h0 => ⟨?_, ?_, ?_⟩, ?_, ?_⟩
  · rw [ht, ev _ _ rfl (by simp [hdrErrCode, hdrErrOffset, hdrErrMulti, hdrErrCnt, hdrEvtPend]) (by simp [hdrErrCode, hdrErrOffset, hdrErrMulti, hdrErrCnt, hdrEvtPend]) rfl, cntKeeps _ rfl rfl (by simp [hdrErrCode, hdrErrOffset, hdrErrMulti, hdrErrCnt, hdrEvtPend]), hu0, if_pos h0]
    simp only [run_acts_cons, run_acts_nil]
    rw [other _ _ (hdrErrCode p.blk) _ (by simp [hdrErrCode, hdrErrOffset, hdrErrMulti, hdrErrCnt, hdrEvtPend]) (fun _ => Or.inr (Or.inr (by simp [hdrErrCode, hdrErrOffset, hdrErrMulti, hdrErrCnt, hdrEvtPend]))) rfl rfl rfl rfl,
      fv_setF_self _ _ _ _ _ (by simp [Fld.ok, hdrErrCode, hdrErrOffset, hdrErrMulti, hdrErrCnt, hdrEvtPend])]
    exact Nat.mod_eq_of_lt hc
  · rw [ht, ev _ _ rfl (by simp [hdrErrCode, hdrErrOffset, hdrErrMulti, hdrErrCnt, hdrEvtPend]) (by simp [hdrErrCode, hdrErrOffset, hdrErrMulti, hdrErrCnt, hdrEvtPend]) rfl, cntKeeps _ rfl rfl (by simp [hdrErrCode, hdrErrOffset, hdrErrMulti, hdrErrCnt, hdrEvtPend]), hu0, if_pos h0]
    simp only [run_acts_cons, run_acts_nil]
    rw [fv_setF_self _ _ _ _ _ (by simp [Fld.ok, hdrErrCode, hdrErrOffset, hdrErrMulti, hdrErrCnt, hdrEvtPend])]
    exact Nat.mod_eq_of_lt ho
  · rw [ht, ev _ _ rfl (by simp [hdrErrCode, hdrErrOffset, hdrErrMulti, hdrErrCnt, hdrEvtPend]) (by simp [hdrErrCode, hdrErrOffset, hdrErrMulti, hdrErrCnt, hdrEvtPend]) rfl, cntKeeps _ rfl rfl (by simp [hdrErrCode, hdrErrOffset, hdrErrMulti, hdrErrCnt, hdrEvtPend]), hu0, if_neg h0]
    exact other _ _ (hdrErrCode p.blk) _ (by simp [hdrErrCode, hdrErrOffset, hdrErrMulti, hdrErrCnt, hdrEvtPend]) (fun _ => Or.inr (Or.inr (by simp [hdrErrCode, hdrErrOffset, hdrErrMulti, hdrErrCnt, hdrEvtPend]))) rfl rfl rfl rfl
  · rw [ht, ev _ _ rfl (by simp [hdrErrCode, hdrErrOffset, hdrErrMulti, hdrErrCnt, hdrEvtPend]) (by simp [hdrErrCode, hdrErrOffset, hdrErrMulti, hdrErrCnt, hdrEvtPend]) rfl, cntKeeps _ rfl rfl (by simp [hdrErrCode, hdrErrOffset, hdrErrMulti, hdrErrCnt, hdrEvtPend]), hu0, if_neg h0]
    exact other _ _ (hdrErrOffset p.blk) _ (by simp [hdrErrCode, hdrErrOffset, hdrErrMulti, hdrErrCnt, hdrEvtPend]) (fun _ => Or.inr (Or.inr (by simp [hdrErrCode, hdrErrOffset, hdrErrMulti, hdrErrCnt, hdrEvtPend]))) rfl rfl rfl rfl
  · rw [ht, ev _ _ rfl (by simp [hdrErrCode, hdrErrOffset, hdrErrMulti, hdrErrCnt, hdrEvtPend]) (by simp [hdrErrCode, hdrErrOffset, hdrErrMulti, hdrErrCnt, hdrEvtPend]) rfl, cntKeeps _ rfl rfl (by simp [hdrErrCode, hdrErrOffset, hdrErrMulti, hdrErrCnt, hdrEvtPend]), hu0, if_neg h0]
    exact fv_setF_self _ _ _ _ _ (by simp [Fld.ok, hdrErrCode, hdrErrOffset, hdrErrMulti, hdrErrCnt, hdrEvtPend])
  · rw [ht, ev _ _ rfl (by simp [hdrErrCode, hdrErrOffset, hdrErrMulti, hdrErrCnt, hdrEvtPend]) (by simp [hdrErrCode, hdrErrOffset, hdrErrMulti, hdrErrCnt, hdrEvtPend]) rfl, fv_incF_self _ _ _ _ _ (by simp [Fld.ok, hdrErrCode, hdrErrOffset, hdrErrMulti, hdrErrCnt, hdrEvtPend])]
    have : fv u0 (hdrErrCnt p.blk) p.idx = fv s (hdrErrCnt p.blk) p.idx := by
      rw [hu0]
      split
      · simp only [run_acts_cons, run_acts_nil]
        rw [other _ _ (hdrErrCnt p.blk) _ (by simp [hdrErrCode, hdrErrOffset, hdrErrMulti, hdrErrCnt, hdrEvtPend]) (fun _ => Or.inl (by simp [hdrErrCode, hdrErrOffset, hdrErrMulti, hdrErrCnt, hdrEvtPend])) rfl rfl rfl rfl,
          other _ _ (hdrErrCnt p.blk) _ (by simp [hdrErrCode, hdrErrOffset, hdrErrMulti, hdrErrCnt, hdrEvtPend]) (fun _ => Or.inl (by simp [hdrErrCode, hdrErrOffset, hdrErrMulti, hdrErrCnt, hdrEvtPend])) rfl rfl rfl rfl]
      · exact other _ _ (hdrErrCnt p.blk) _ (by simp [hdrErrCode, hdrErrOffset, hdrErrMulti, hdrErrCnt, hdrEvtPend]) (fun _ => Or.inl (by simp [hdrErrCode, hdrErrOffset, hdrErrMulti, hdrErrCnt, hdrEvtPend])) rfl rfl rfl rfl
    rw [this]
    rfl
  · rw [ht, raiseEvt_pend p evReject _ (by simp [evReject]), cntKeeps _ rfl rfl (by simp [hdrErrCode, hdrErrOffset, hdrErrMulti, hdrErrCnt, hdrEvtPend])]
    have : fv u0 (hdrEvtPend p.blk) p.idx = fv s (hdrEvtPend p.blk) p.idx := by
      rw [hu0]
      split
      · simp only [run_acts_cons, run_acts_nil]
        rw [other _ _ (hdrEvtPend p.blk) _ (by simp [hdrErrCode, hdrErrOffset, hdrErrMulti, hdrErrCnt, hdrEvtPend]) (fun _ => Or.inl (by simp [hdrErrCode, hdrErrOffset, hdrErrMulti, hdrErrCnt, hdrEvtPend])) rfl rfl rfl rfl,
          other _ _ (hdrEvtPend p.blk) _ (by simp [hdrErrCode, hdrErrOffset, hdrErrMulti, hdrErrCnt, hdrEvtPend]) (fun _ => Or.inl (by simp [hdrErrCode, hdrErrOffset, hdrErrMulti, hdrErrCnt, hdrEvtPend])) rfl rfl rfl rfl]
      · exact other _ _ (hdrEvtPend p.blk) _ (by simp [hdrErrCode, hdrErrOffset, hdrErrMulti, hdrErrCnt, hdrEvtPend]) (fun _ => Or.inl (by simp [hdrErrCode, hdrErrOffset, hdrErrMulti, hdrErrCnt, hdrEvtPend])) rfl rfl rfl rfl
    rw [this]
    rfl

end Sys2Proof.Machine
end

