-- ==== Sys2Proof/Laws/Keep.lean ====
section
/-! SUPPORT. What a program leaves as it finds it: a value read from the state is kept by a program built from parts that
keep it. -/

set_option linter.unusedSimpArgs false

namespace Sys2Proof.Machine

/-- A program leaves a value read from the state as it finds it. -/
def Act.Keeps {α : Type} (O : State → α) (a : Act) : Prop := ∀ s, O (a.run s) = O s

variable {α : Type} {O : State → α}

theorem keeps_done : Act.done.Keeps O := fun _ => rfl

theorem keeps_upd (u : Upd) (h : ∀ s, O (u.apply s) = O s) : (upd u).Keeps O := h

theorem keeps_look (k : State → Act) (h : ∀ s, (k s).Keeps O) : (look k).Keeps O := fun s => h s s

theorem keeps_lookAct (k : State → Act) (h : ∀ s, (k s).Keeps O) : (Act.look k).Keeps O := fun s => h s s

theorem keeps_seq (a b : Act) (ha : a.Keeps O) (hb : b.Keeps O) : (a.seq b).Keeps O := fun s => by
  rw [Act.run_seq, hb, ha]

theorem keeps_nil : (acts []).Keeps O := fun _ => rfl

theorem keeps_cons (a : Act) (l : List Act) (ha : a.Keeps O) (hl : (acts l).Keeps O) : (acts (a :: l)).Keeps O := fun s => by
  rw [run_acts_cons, hl, ha]

theorem keeps_each {β : Type} (l : List β) (f : β → Act) (h : ∀ x, (f x).Keeps O) : (each l f).Keeps O := by
  induction l with
  | nil => exact fun _ => rfl
  | cons x l ih => exact fun s => by rw [run_each_cons, ih, h]

theorem keeps_onlyIf (c : Bool) (a : Act) (h : a.Keeps O) : (onlyIf c a).Keeps O := by
  cases c
  · exact keeps_done
  · exact h

theorem keeps_withFree (k : Nat → Act) (hf : ∀ s, O (Upd.nextFree.apply s) = O s) (h : ∀ v, (k v).Keeps O) :
    (withFree k).Keeps O := fun s => by rw [run_withFree, h, hf]

theorem keeps_updPress {β : Type} (g : Press → β) (f : Press → Press) (h : ∀ p, g (f p) = g p) :
    (updPress f).Keeps fun s => g s.press := fun s => h s.press

theorem keeps_updUnits {β : Type} (g : Units → β) (f : Units → Units) (h : ∀ p, g (f p) = g p) :
    (updUnits f).Keeps fun s => g s.units := fun s => h s.units

/-- A field of another register, or other bits of the same register, is kept. -/
theorem keeps_setF (f g : Fld) (v idx n i m : Nat) (hf : f.hi < 64)
    (h : fldKey g i m ≠ fldKey f idx n ∨ f.hi < g.lo ∨ g.hi < f.lo) : (setF f v idx n).Keeps fun s => fv s g i m :=
  fun s => fv_setF_other s f g v idx n i m hf h

theorem keeps_incF (f g : Fld) (amt idx n i m : Nat) (hf : f.hi < 64)
    (h : fldKey g i m ≠ fldKey f idx n ∨ f.hi < g.lo ∨ g.hi < f.lo) : (incF f amt idx n).Keeps fun s => fv s g i m :=
  fun s => fv_setF_other s f g _ idx n i m hf h

theorem keeps_setKey (g : Fld) (k v i m : Nat) (h : fldKey g i m ≠ k) : (setKey k v).Keeps fun s => fv s g i m :=
  fun s => by simp only [fv, run_setKey, rdKey_reg, if_neg h]

theorem keeps_setKey_rd (k v j : Nat) (h : j ≠ k) : (setKey k v).Keeps fun s => rdKey s j :=
  fun s => by simp only [run_setKey, rdKey_reg, if_neg h]

/-- What registers, events and messages do not decide, events of a page keep. -/
theorem keeps_of_rest {ks : Nat → Prop} (a : Act) (ha : a.Only (Upd.onRegs ks)) (h : ∀ s t, sameRest s t → O t = O s) :
    a.Keeps O := fun s => h s _ (ha.rest s)

/-- A field of another register is kept by events of a page. -/
theorem keeps_raiseEvt (p : PageRef) (m : Nat) (g : Fld) (i n : Nat)
    (h : fldKey g i n ≠ fldKey (hdrEvtPend p.blk) p.idx 0) (hl : fldKey g i n ≠ lostKey) :
    (raiseEvt p m).Keeps fun s => fv s g i n := fun s =>
  (raiseEvt_only p m).fv s g i n (by rintro (h1 | h1); exact h h1; exact hl h1)

/-- What was sent stays sent. -/
theorem out_mono (a : Act) (s : State) (m : OutMsg) (h : m ∈ s.out) : m ∈ (a.run s).out := by
  refine Act.run_keeps (fun t => m ∈ t.out) (fun u t ht => ?_) a s h
  cases u <;> first | exact ht | exact List.mem_cons_of_mem _ ht

/-- A message sent for every element of a list. -/
theorem mem_out_each {β : Type} (l : List β) (f : β → OutMsg) (s : State) (x : β) (hx : x ∈ l) :
    f x ∈ ((each l fun y => emit (f y)).run s).out := by
  induction l generalizing s with
  | nil => cases hx
  | cons y l ih =>
    rw [run_each_cons]
    rcases List.mem_cons.1 hx with rfl | h
    · exact out_mono _ _ _ (List.mem_cons_self ..)
    · exact ih _ h

end Sys2Proof.Machine
end

