-- ==== Sys2Proof/Laws/Step.lean ====
section
/-! SUPPORT. Every command, and every step, is a program over the primitive updates. -/

namespace Sys2Proof.Machine

/-- Every command answers the state its program leaves. -/
theorem exec_run (c : Instr) (s : State) : ∃ a : Act, exec c s = .next (a.run s) := by
  cases c <;> exact ⟨_, rfl⟩

/-- What every primitive update keeps, every command keeps. -/
theorem exec_keeps (I : State → Prop) (h : ∀ u s, I s → I (Upd.apply u s)) (c : Instr) (s t : State) (hs : I s)
    (ht : exec c s = .next t) : I t := by
  obtain ⟨a, ha⟩ := exec_run c s
  rw [ha] at ht
  cases ht
  exact Act.run_keeps I h a s hs

/-- What every primitive update and the taking of a command from the queue keep, every step keeps. -/
theorem step_keeps (I : State → Prop) (h : ∀ u s, I s → I (Upd.apply u s))
    (hp : ∀ s c rest, s.pending = c :: rest → I s → I { s with pending := rest }) (s t : State) (hs : I s)
    (ht : step s = .next t) : I t := by
  unfold step at ht
  split at ht
  · rename_i c rest hq
    exact exec_keeps I h c _ t (hp s c rest hq hs) ht
  · cases ht
    exact Act.run_keeps I h tick s hs

end Sys2Proof.Machine
end

