-- ==== Sys2Proof/Laws/Storage.lean ====
section
/-! SUPPORT. What reading and writing a memory can do to the rest of the device: corrections, marks, logs, counters and
notices, and no more. -/

set_option linter.unusedSimpArgs false

namespace Sys2Proof.Machine

/-- An update that reading or writing a memory can make: storage, free values, remaps, events, and any register but those of
a TILE page beyond its header. -/
def Upd.storage : Upd → Prop
  | .reg k _ => k / 4096 / 256 ≠ 2 ∨ k % 4096 < 0x40
  | .mem _ _ | .syn _ _ | .written _ _ | .memClear _ _ | .synClear _ _ | .writtenClear _ _ => True
  | .nextFree | .cands _ _ | .repair _ | .events _ _ | .emit _ => True
  | _ => False

theorem Upd.storage_of_onRegs (ks : Nat → Prop) (h : ∀ k, ks k → k / 4096 / 256 ≠ 2 ∨ k % 4096 < 0x40) (u : Upd)
    (hu : u.onRegs ks) : u.storage := by
  cases u <;> first | exact h _ hu | trivial

/-- A register key of a block other than TILE, or of a header. -/
theorem regKey_storage (b : Blk) (i o : Nat) (h : (blkNum b ≠ 2 ∧ i < 256) ∨ o < 0x40) (ho : o < 4096) :
    regKey b i o / 4096 / 256 ≠ 2 ∨ regKey b i o % 4096 < 0x40 := by
  unfold regKey
  rcases h with ⟨h, hi⟩ | h
  · left; omega
  · right; omega

theorem fldKey_storage (f : Fld) (i n : Nat) (h : (blkNum f.blk ≠ 2 ∧ i < 256) ∨ f.off + n * f.stride < 0x40)
    (ho : f.off + n * f.stride < 4096) :
    fldKey f i n / 4096 / 256 ≠ 2 ∨ fldKey f i n % 4096 < 0x40 := regKey_storage f.blk i _ h ho

theorem setF_storage (f : Fld) (v i n : Nat) (h : (blkNum f.blk ≠ 2 ∧ i < 256) ∨ f.off + n * f.stride < 0x40)
    (ho : f.off + n * f.stride < 4096) : (setF f v i n).Only Upd.storage := fun _ => ⟨fldKey_storage f i n h ho, trivial⟩

theorem incF_storage (f : Fld) (v i n : Nat) (h : (blkNum f.blk ≠ 2 ∧ i < 256) ∨ f.off + n * f.stride < 0x40)
    (ho : f.off + n * f.stride < 4096) : (incF f v i n).Only Upd.storage := fun _ => setF_storage f _ i n h ho

theorem emit_storage (m : OutMsg) : (emit m).Only Upd.storage := ⟨trivial, trivial⟩

theorem raiseEvt_storage (p : PageRef) (m : Nat) : (raiseEvt p m).Only Upd.storage := by
  refine (raiseEvt_only p m).mono (Upd.storage_of_onRegs _ ?_)
  rintro k (rfl | rfl)
  · exact fldKey_storage _ _ _ (Or.inr (by simp [hdrEvtPend])) (by simp [hdrEvtPend])
  · exact fldKey_storage _ _ _ (Or.inl ⟨by decide, by decide⟩) (by decide)

theorem healthNotice_storage (n : Notice) : (healthNotice n).Only Upd.storage := by
  cases n
  case consumed p =>
    intro s
    refine only_acts _ _ fun a ha => ?_
    simp only [List.mem_cons, List.not_mem_nil, or_false] at ha
    rcases ha with rfl | rfl | rfl | rfl | rfl | rfl
    · exact incF_storage _ _ _ _ (Or.inl ⟨by decide, by decide⟩) (by decide)
    · exact setF_storage _ _ _ _ (Or.inl ⟨by decide, by decide⟩) (by decide)
    · exact setF_storage _ _ _ _ (Or.inl ⟨by decide, by decide⟩) (by decide)
    · exact setF_storage _ _ _ _ (Or.inl ⟨by decide, by decide⟩) (by decide)
    · exact setF_storage _ _ _ _ (Or.inl ⟨by decide, by decide⟩) (by decide)
    · exact raiseEvt_storage _ _
  all_goals
    refine only_acts _ _ fun a ha => ?_
    simp only [List.mem_cons, List.not_mem_nil, or_false] at ha
    rcases ha with rfl | rfl | rfl | rfl <;>
      first
      | exact incF_storage _ _ _ _ (Or.inl ⟨by decide, by decide⟩) (by decide)
      | exact setF_storage _ _ _ _ (Or.inl ⟨by decide, by decide⟩) (by decide)
      | exact raiseEvt_storage _ _

theorem logEntry_storage (i kind mem addr syn : Nat) (hi : i < 256) : (logEntry i kind mem addr syn).Only Upd.storage := by
  intro s
  have hl : ∀ k, k < 32 → INTG_LOG.off + k * INTG_LOG.stride < 4096 := by
    intro k hk; unfold INTG_LOG; simp only; omega
  refine only_acts _ _ fun a ha => ?_
  simp only [List.mem_cons, List.not_mem_nil, or_false] at ha
  rcases ha with rfl | rfl | rfl
  · exact setF_storage _ _ _ _ (Or.inl ⟨by decide, hi⟩) (hl _ (by omega))
  · exact setF_storage _ _ _ _ (Or.inl ⟨by decide, hi⟩) (hl _ (by omega))
  · exact setF_storage _ _ _ _ (Or.inl ⟨by decide, hi⟩) (by decide)

theorem noteMark_storage (u : MemUnit) : (noteMark u).Only Upd.storage := by
  unfold noteMark
  split
  · intro s
    refine only_onlyIf _ _ _ fun _ => only_acts _ _ fun a ha => ?_
    simp only [List.mem_cons, List.not_mem_nil, or_false] at ha
    rcases ha with rfl | rfl
    · exact setF_storage _ _ _ _ (Or.inr (by simp [hdrPoisoned])) (by simp [hdrPoisoned])
    · exact raiseEvt_storage _ _
  · trivial

/-- The INTG page instance of a memory the device has. -/
def MemUnit.ok : MemUnit → Prop
  | .hbm n | .prog n => n < 12
  | .galley p | .imem p | .dmem p => p < 160

theorem muIntg_lt (u : MemUnit) (h : u.ok) : muIntg u < 256 := by
  cases u <;> simp only [MemUnit.ok] at h <;> simp only [muIntg] <;> omega

theorem remap_storage (u : MemUnit) (off : Nat) (h : u.ok) : (remap u off).Only Upd.storage := by
  intro s
  have hi := muIntg_lt u h
  dsimp only
  split
  · trivial
  · split
    · rename_i r hr
      have hr' : r < 32 := List.mem_range.1 (List.mem_of_find?_eq_some hr)
      refine only_acts _ _ fun a ha => ?_
      simp only [List.mem_cons, List.not_mem_nil, or_false] at ha
      rcases ha with rfl | rfl | rfl | rfl | rfl | rfl
      · exact setF_storage _ _ _ _ (Or.inl ⟨by decide, hi⟩) (by unfold INTG_REMAP_VALID; simp only; omega)
      · exact setF_storage _ _ _ _ (Or.inl ⟨by decide, hi⟩) (by unfold INTG_REMAP_ADDR; simp only; omega)
      · exact setF_storage _ _ _ _ (Or.inl ⟨by decide, hi⟩) (by decide)
      · exact ⟨trivial, trivial⟩
      · exact logEntry_storage _ _ _ _ _ hi
      · exact raiseEvt_storage _ _
    · refine only_acts _ _ fun a ha => ?_
      simp only [List.mem_cons, List.not_mem_nil, or_false] at ha
      rcases ha with rfl | rfl | rfl | rfl
      · exact incF_storage _ _ _ _ (Or.inl ⟨by decide, hi⟩) (by decide)
      · exact logEntry_storage _ _ _ _ _ hi
      · exact raiseEvt_storage _ _
      · exact healthNotice_storage _

theorem noteCE_storage (u : MemUnit) (off syn : Nat) (h : u.ok) : (noteCE u off syn).Only Upd.storage := by
  have hi := muIntg_lt u h
  refine only_acts _ _ fun a ha => ?_
  simp only [List.mem_cons, List.not_mem_nil, or_false] at ha
  rcases ha with rfl | rfl | rfl | rfl
  · exact incF_storage _ _ _ _ (Or.inl ⟨by decide, hi⟩) (by decide)
  · exact logEntry_storage _ _ _ _ _ hi
  · exact raiseEvt_storage _ _
  · intro s
    dsimp only
    split
    · trivial
    · split
      · exact remap_storage u off h
      · exact ⟨trivial, trivial⟩

theorem noteUE_storage (u : MemUnit) (off syn : Nat) (h : u.ok) : (noteUE u off syn).Only Upd.storage := by
  have hi := muIntg_lt u h
  refine only_acts _ _ fun a ha => ?_
  simp only [List.mem_cons, List.not_mem_nil, or_false] at ha
  rcases ha with rfl | rfl | rfl | rfl | rfl
  · exact incF_storage _ _ _ _ (Or.inl ⟨by decide, hi⟩) (by decide)
  · exact logEntry_storage _ _ _ _ _ hi
  · exact raiseEvt_storage _ _
  · exact noteMark_storage u
  · exact remap_storage u off h

theorem touchWord_storage (u : MemUnit) (off : Nat) (h : u.ok) : (touchWord u off).Only Upd.storage := by
  intro s
  dsimp only
  split
  · trivial
  · refine only_acts _ _ fun a ha => ?_
    simp only [List.mem_cons, List.not_mem_nil, or_false] at ha
    rcases ha with rfl | rfl
    · exact only_onlyIf _ _ _ fun _ => ⟨trivial, trivial⟩
    · exact noteMark_storage u
  · split <;>
    · refine only_acts _ _ fun a ha => ?_
      simp only [List.mem_cons, List.not_mem_nil, or_false] at ha
      rcases ha with rfl | rfl | rfl
      · exact ⟨trivial, trivial⟩
      · exact ⟨trivial, trivial⟩
      · exact noteCE_storage u off _ h
  · refine only_acts _ _ fun a ha => ?_
    simp only [List.mem_cons, List.not_mem_nil, or_false] at ha
    rcases ha with rfl | rfl
    · exact ⟨trivial, trivial⟩
    · exact noteUE_storage u off _ h

theorem only_withFree (P : Upd → Prop) (k : Nat → Act) (hP : P .nextFree) (h : ∀ v, (k v).Only P) : (withFree k).Only P :=
  fun _ => ⟨hP, h _⟩

theorem materialise_storage (u : MemUnit) (off : Nat) : (materialise u off).Only Upd.storage := by
  intro s
  dsimp only
  split
  · trivial
  · split
    · refine only_each _ _ _ fun i _ => only_withFree _ _ trivial fun v => ?_
      refine only_acts _ _ fun a ha => ?_
      simp only [List.mem_cons, List.not_mem_nil, or_false] at ha
      rcases ha with rfl | rfl | rfl <;> exact ⟨trivial, trivial⟩
    · split
      · trivial
      · refine only_withFree _ _ trivial fun v => only_withFree _ _ trivial fun w => ?_
        refine only_acts _ _ fun a ha => ?_
        simp only [List.mem_cons, List.not_mem_nil, or_false] at ha
        rcases ha with rfl | rfl | rfl <;> exact ⟨trivial, trivial⟩

/-- What a read of a memory can do. -/
theorem touch_storage (u : MemUnit) (off n : Nat) (h : u.ok) : (touch u off n).Only Upd.storage := by
  intro s
  dsimp only
  split
  · trivial
  · refine only_each _ _ _ fun w _ => only_acts _ _ fun a ha => ?_
    simp only [List.mem_cons, List.not_mem_nil, or_false] at ha
    rcases ha with rfl | rfl
    · exact materialise_storage u w
    · exact touchWord_storage u w h

theorem touchAll_storage (p : Nat) (rs : State → List GRead) (h : p < 160) : (touchAll p rs).Only Upd.storage := by
  intro s
  dsimp only
  split
  · trivial
  · exact only_each _ _ _ fun r _ => touch_storage _ _ _ h

theorem applyFlip_storage (u : MemUnit) (off : Nat) (h : u.ok) : (applyFlip u off).Only Upd.storage := by
  intro s
  have hi := muIntg_lt u h
  refine only_acts _ _ fun a ha => ?_
  simp only [List.mem_cons, List.not_mem_nil, or_false] at ha
  rcases ha with rfl | rfl | rfl | rfl
  · split <;>
    · refine only_acts _ _ fun a ha => ?_
      simp only [List.mem_cons, List.not_mem_nil, or_false] at ha
      rcases ha with rfl | rfl <;> exact ⟨trivial, trivial⟩
  · exact setF_storage _ _ _ _ (Or.inl ⟨by decide, hi⟩) (by decide)
  · exact logEntry_storage _ _ _ _ _ hi
  · exact raiseEvt_storage _ _

theorem writeSyn_storage (u : MemUnit) (off : Nat) (ms : List Bool) : (writeSyn u off ms).Only Upd.storage := by
  unfold writeSyn
  dsimp only
  split
  · refine only_acts _ _ fun a ha => ?_
    simp only [List.mem_cons, List.not_mem_nil, or_false] at ha
    rcases ha with rfl | rfl
    · exact ⟨trivial, trivial⟩
    · exact only_each _ _ _ fun w _ => ⟨trivial, trivial⟩
  · refine only_each _ _ _ fun w _ => ?_
    split
    · exact ⟨trivial, trivial⟩
    · split
      · exact ⟨trivial, trivial⟩
      · trivial

/-- What a write to a memory can do. -/
theorem memWrite_storage (u : MemUnit) (off : Nat) (bs : List Byte) (ms : List Bool) (h : u.ok) :
    (memWrite u off bs ms).Only Upd.storage := by
  unfold memWrite
  split
  · trivial
  · intro s
    refine only_acts _ _ fun a ha => ?_
    simp only [List.mem_cons, List.not_mem_nil, or_false] at ha
    rcases ha with rfl | rfl | rfl | rfl | rfl
    · exact ⟨trivial, trivial⟩
    · split
      · trivial
      · exact writeSyn_storage u off ms
    · refine only_onlyIf _ _ _ fun _ => only_each _ _ _ fun b _ => ?_
      split
      · exact only_each _ _ _ fun i _ => ⟨trivial, trivial⟩
      · exact ⟨trivial, trivial⟩
    · exact only_onlyIf _ _ _ fun _ => noteMark_storage u
    · exact only_onlyIf _ _ _ fun _ => applyFlip_storage u off h

theorem commitWrites_storage (l : List OpWrite) (h : ∀ w ∈ l, w.mem.ok) : (commitWrites l).Only Upd.storage :=
  only_each _ _ _ fun w hw => memWrite_storage _ _ _ _ (h w hw)

theorem consume_storage (p : PageRef) (addr : Nat) (h : intgOf p < 256) : (consume p addr).Only Upd.storage := by
  refine only_acts _ _ fun a ha => ?_
  simp only [List.mem_cons, List.not_mem_nil, or_false] at ha
  rcases ha with rfl | rfl | rfl | rfl | rfl
  · exact raiseEvt_storage _ _
  · exact incF_storage _ _ _ _ (Or.inl ⟨by decide, h⟩) (by decide)
  · exact logEntry_storage _ _ _ _ _ h
  · exact raiseEvt_storage _ _
  · exact healthNotice_storage _

/-- Everything that reading and writing memory leaves as it is. -/
theorem Act.Only.storage_rest {a : Act} (ha : a.Only Upd.storage) (s : State) :
    (a.run s).tiles = s.tiles ∧ (a.run s).press = s.press ∧ (a.run s).units = s.units ∧ (a.run s).links = s.links ∧
      (a.run s).ues = s.ues ∧ (a.run s).solvs = s.solvs ∧ (a.run s).shef = s.shef ∧ (a.run s).fifos = s.fifos ∧
      (a.run s).flights = s.flights ∧ (a.run s).build = s.build ∧ (a.run s).boot = s.boot ∧ (a.run s).pfs = s.pfs := by
  refine ha.run_keeps (fun t => t.tiles = s.tiles ∧ t.press = s.press ∧ t.units = s.units ∧ t.links = s.links ∧
    t.ues = s.ues ∧ t.solvs = s.solvs ∧ t.shef = s.shef ∧ t.fifos = s.fifos ∧ t.flights = s.flights ∧
    t.build = s.build ∧ t.boot = s.boot ∧ t.pfs = s.pfs) ?_ s (by simp)
  intro u t hu ht
  cases u <;> first | exact ht | exact False.elim hu

/-- A TILE register beyond the header reads as before. -/
theorem Act.Only.storage_rdKey {a : Act} (ha : a.Only Upd.storage) (s : State) (k : Nat) (h2 : k / 4096 / 256 = 2)
    (h : 0x40 ≤ k % 4096) : Machine.rdKey (a.run s) k = Machine.rdKey s k := by
  refine ha.run_keeps (fun t => Machine.rdKey t k = Machine.rdKey s k) (fun u t hu ht => ?_) s rfl
  cases u with
  | reg j v =>
    have hne : k ≠ j := by
      rintro rfl
      rcases hu with hu | hu <;> omega
    simp only [Machine.rdKey, Upd.reg_fields, mapGet_mapSet, if_neg hne]
    exact ht
  | _ => first | exact ht | exact False.elim hu

theorem Act.Only.storage_fv {a : Act} (ha : a.Only Upd.storage) (s : State) (f : Fld) (i n : Nat) (hb : f.blk = .tile)
    (hi : i < 256) (h1 : 0x40 ≤ f.off) (h2 : f.off + n * f.stride < 4096) :
    Machine.fv (a.run s) f i n = Machine.fv s f i n := by
  unfold Machine.fv
  have hk : fldKey f i n = (2 * 256 + i) * 4096 + (f.off + n * f.stride) := by
    unfold fldKey regKey; rw [hb]; rfl
  rw [ha.storage_rdKey s _ (by rw [hk]; omega) (by rw [hk]; omega)]

end Sys2Proof.Machine
end

