-- ==== Sys2Proof/Laws/Tile.lean ====
section
/-! SUPPORT. The laws of a tile's hidden state: what a queue, a slot, an inbox and a core read as after a change. -/

set_option linter.unusedSimpArgs false

namespace Sys2Proof.Machine

theorem getD_modAt {α : Type} (n : Nat) (d : α) (l : List α) (i j : Nat) (f : α → α) (hj : j < n) :
    (modAt n d l i f).getD j d = if j = i then f (l.getD j d) else l.getD j d := by
  unfold modAt
  simp [List.getD_eq_getElem?_getD, hj]

/-- A tile after it took a state. -/
@[simp] theorem tileSt_tile (p r : Nat) (t : Tile) (s : State) :
    tileSt ((Upd.tile p t).apply s) r = if r = p then t else tileSt s r := by
  unfold tileSt; simp only [Upd.tile_fields, mapGet_mapSet]

theorem tileSt_congr (s t : State) (p : Nat) (h : t.tiles = s.tiles) : tileSt t p = tileSt s p := by
  unfold tileSt; rw [h]

theorem queueSt_congr (s t : State) (p q : Nat) (h : t.tiles = s.tiles) : queueSt t p q = queueSt s p q := by
  unfold queueSt; rw [tileSt_congr s t p h]

@[simp] theorem run_updTile (p : Nat) (f : Tile → Tile) (s : State) :
    (updTile p f).run s = (Upd.tile p (f (tileSt s p))).apply s := rfl

@[simp] theorem run_updQueue (p q : Nat) (f : Queue → Queue) (s : State) :
    (updQueue p q f).run s = (Upd.tile p { tileSt s p with
      queues := modAt 7 ⟨[], 0, [], []⟩ (tileSt s p).queues q f }).apply s := rfl

/-- A queue's hidden state after it changed. -/
theorem queueSt_updQueue (p q : Nat) (f : Queue → Queue) (s : State) (hq : q < 7) :
    queueSt ((updQueue p q f).run s) p q = f (queueSt s p q) := by
  unfold queueSt
  simp only [run_updQueue, tileSt_tile, if_true, getD_modAt 7 _ _ _ _ _ hq]

/-- Another queue's, or another tile's. -/
theorem queueSt_updQueue_ne (p q : Nat) (f : Queue → Queue) (s : State) (r k : Nat) (hk : k < 7) (h : r ≠ p ∨ k ≠ q) :
    queueSt ((updQueue p q f).run s) r k = queueSt s r k := by
  unfold queueSt
  simp only [run_updQueue, tileSt_tile]
  by_cases hr : r = p
  · subst hr
    have : k ≠ q := by rcases h with h | h; exact absurd rfl h; exact h
    simp only [if_true, getD_modAt 7 _ _ _ _ _ hk, if_neg this]
  · simp only [if_neg hr]

/-- A core after a change. -/
@[simp] theorem run_updCore (p : Nat) (f : CtlCore → CtlCore) (s : State) :
    (updCore p f).run s = (Upd.tile p { tileSt s p with core := f (coreSt s p) }).apply s := rfl

@[simp] theorem coreSt_updCore (p : Nat) (f : CtlCore → CtlCore) (s : State) :
    coreSt ((updCore p f).run s) p = f (coreSt s p) := by
  unfold coreSt; simp [coreSt]

/-- A core register after one was set. -/
theorem xreg_setX (p r v k : Nat) (s : State) :
    xreg ((setX p r v).run s) p k =
      if k % 32 = r % 32 then (if r % 32 = 0 then 0 else v % 2 ^ 64) else xreg s p k := by
  unfold setX
  by_cases hr : r % 32 = 0
  · simp only [hr, bne_self_eq_false, run_onlyIf_false, Act.run_done, if_true]
    split
    · rename_i h; unfold xreg; rw [if_pos h]
    · rfl
  · have hb : (r % 32 != 0) = true := by simpa using hr
    simp only [hb, run_onlyIf_true]
    unfold xreg
    rw [coreSt_updCore]
    simp only [mapGet_mapSet]
    by_cases hk : k % 32 = 0
    · rw [if_pos hk, if_neg (by omega)]; simp [hk]
    · rw [if_neg hk]
      by_cases hkr : k % 32 = r % 32
      · rw [if_pos hkr, if_pos hkr, if_neg hr]; simp
      · rw [if_neg hkr, if_neg hkr, if_neg hk]

/-- Setting a core register leaves everything of the core but its registers, and everything but the tile. -/
theorem setX_rest (p r v : Nat) (s : State) :
    (coreSt ((setX p r v).run s) p).pc = (coreSt s p).pc ∧ ((setX p r v).run s).regs = s.regs ∧
      ((setX p r v).run s).mem = s.mem ∧ ((setX p r v).run s).syn = s.syn ∧
      ((setX p r v).run s).written = s.written ∧ ((setX p r v).run s).press = s.press ∧
      (tileSt ((setX p r v).run s) p).queues = (tileSt s p).queues ∧
      (tileSt ((setX p r v).run s) p).summaries = (tileSt s p).summaries := by
  unfold setX
  by_cases hr : (r % 32 != 0) = true
  · simp only [hr, run_onlyIf_true]
    rw [coreSt_updCore]
    simp
  · simp only [Bool.not_eq_true] at hr
    simp [hr]

end Sys2Proof.Machine
end

