-- ==== Sys2Proof/WellFormed.lean ====
section
/-! DEFINITION. Which commands are well-formed: every operand within the width or the count that the manual gives it. A command
that is not has a meaning all the same, since `exec` is total. -/

namespace Sys2Proof

/-! ### Operands -/

/-- A number is below a bound. -/
def below (n x : Nat) : Bool := decide (x < n)

/-- An access is of 4 or 8 bytes (R25). -/
def okSize (n : Nat) : Bool := n == 4 || n == 8

/-- Marks, where any are given, are given for each byte. -/
def okMarks (data : List Byte) (marks : List Bool) : Bool := marks.isEmpty || marks.length == data.length

/-- A requester the device has (R27): a management core 0 or 1, the core of a tile. -/
def okReq : Requester → Bool
  | .mgmt c => below 2 c
  | .tileCore t => below 160 t
  | .slaiq | .roce | .fabric => true

/-- A Slaiq datagram: a 128-bit address, a 16-bit port, a payload within the largest MTU (R394, R404). -/
def okSlq (m : SlqMsg) : Bool := below (2 ^ 128) m.ip && below 65536 m.port && decide (m.bytes.length ≤ 9000)

/-- A beacon's fields fit their places (R61). -/
def okBeacon (b : Beacon) : Bool :=
  below (2 ^ 48) b.impression && below (2 ^ 32) b.periodNs && below (2 ^ 32) b.accDelay && below (2 ^ 14) b.master &&
    below 256 b.hops && below (2 ^ 32) b.gen

/-- An answer from another device: an 8-bit code, marks for its bytes. -/
def okAns (a : RemoteAns) : Bool := below 256 a.code && okMarks a.data a.marks

/-- An increment names a tile ID, a counter, an amount (R91). -/
def okInc : IncSource → Bool
  | .own _ => true
  | .remote t c n => below 256 t && below 256 c && below (2 ^ 20) n

/-- A message between members names a tag, a generation and a stage (R261). -/
def okSheaf : SheafMsg → Bool
  | .block tag _ stage idx _ _ _ _ _ _ _ => below (2 ^ 32) tag && below 256 stage && below (2 ^ 32) idx
  | .scale tag _ stage e => below (2 ^ 32) tag && below 256 stage && below 65536 e
  | .epi tag _ stage eRes eCon _ _ _ => below (2 ^ 32) tag && below 256 stage && below 65536 eRes && below 65536 eCon
  | .shard tag _ k data marks => below (2 ^ 32) tag && below 256 k && okMarks data marks
  | .shardAck tag _ k => below (2 ^ 32) tag && below 256 k

/-- A Winnow message names a tile, a kind and an inbox (R245). -/
def okWinn (m : WinnMsg) : Bool := below 256 m.tile && below 256 m.kind && below 256 m.inbox

/-- A message's body: its node, address and codes fit their places (R350). -/
def okBody : FabBody → Bool
  | .token t c n => below 256 t && below 256 c && below (2 ^ 20) n
  | .ready n => below (2 ^ 48) n
  | .sheaf m => okSheaf m
  | .verified _ _ node addr => below (2 ^ 14) node && below (2 ^ 48) addr
  | .writeAck => true
  | .refusal c => below 256 c
  | .assume t node n => below (2 ^ 14) t && below (2 ^ 14) node && below (2 ^ 48) n
  | .readReq a _ => below (2 ^ 48) a
  | .readResp c d m => below 256 c && okMarks d m
  | .write a d m => below (2 ^ 48) a && okMarks d m
  | .winn m => okWinn m
  | .winnAnswer m c => okWinn m && below 256 c
  | .opaqueBytes _ => true

/-- Where a message came from: a tile's queue, or a site. -/
def okOrigin : Origin → Bool
  | .none => true
  | .op p q _ => below 160 p && below 7 q
  | .fetch n _ | .prefetch n _ | .audit n => below 12 n

/-- A message on a link: node IDs, a virtual channel, its flits (R345, R346). -/
def okFab (m : FabMsg) : Bool :=
  below (2 ^ 14) m.dst && below (2 ^ 14) m.src && below 8 m.vc && below 256 m.flits && okOrigin m.origin && okBody m.body

/-- A LINK_CTL flit: sequence numbers, a lane (R348). -/
def okLinkCtl (c : LinkCtl) : Bool := below 65536 c.ack && c.nak.all (below 65536) && below 16 c.lane

/-- A frame: tags of 12 and 3 bits, a 16-bit EtherType (R387). -/
def okFrame (f : EthFrame) : Bool := (f.tags.all fun t => below 4096 t.1 && below 8 t.2) && below 65536 f.etherType

/-- A RoCEv2 request: a queue pair, a 24-bit PSN (R392). -/
def okRdma (r : RdmaReq) : Bool := below 256 r.qp && below (2 ^ 24) r.psn

/-- A step's measurements: two dies, twelve sites. -/
def okSample (p : PowerSample) : Bool := p.dieW.length == 2 && p.tDie.length == 2 && p.tSite.length == 12

/-! ### Commands -/

/-- A command is well-formed. -/
def Instr.wf : Instr → Bool
  | .registerWrite req addr size val => okReq req && below (2 ^ 48) addr && okSize size && below (2 ^ 64) val
  | .rcRegisterRead req addr size => okReq req && below (2 ^ 48) addr && okSize size
  | .errCodeRead req addr => okReq req && below (2 ^ 48) addr
  | .evtPendClear req addr val recur => okReq req && below (2 ^ 48) addr && below (2 ^ 64) val && below (2 ^ 32) recur
  | .softReset req addr val => okReq req && below (2 ^ 48) addr && below (2 ^ 64) val
  | .softResetDone loc page => below 25 loc && below 4096 page
  | .impressionEdge _ => true
  | .beaconIssue _ => true
  | .beaconReceive link b => below 36 link && okBeacon b
  | .readyForce req => okReq req
  | .readyReceive node impression => below (2 ^ 14) node && below (2 ^ 48) impression
  | .gateTimeout _ => true
  | .beaconLoss _ => true
  | .pressElect m => okSlq m
  | .schedPost req => okReq req
  | .schedFire _ => true
  | .schedCancel req handle => okReq req && below 1024 handle
  | .tokenInc loc tile arg => below 25 loc && below 256 tile && below (2 ^ 32) arg
  | .schedEvent handle arg => below 1024 handle && below (2 ^ 32) arg
  | .bubbleEnable req _ _ => okReq req
  | .bubbleDisable req => okReq req
  | .bubbleWindowOpen window _ => below 128 window
  | .bubbleWindowClose window _ => below 128 window
  | .qTailWrite req tile queue val => okReq req && below 160 tile && below 7 queue && below (2 ^ 64) val
  | .queueStart req tile queue => okReq req && below 160 tile && below 7 queue
  | .queueStop req tile queue => okReq req && below 160 tile && below 7 queue
  | .queueRearm req tile queue => okReq req && below 160 tile && below 7 queue
  | .queueSkip req tile queue => okReq req && below 160 tile && below 7 queue
  | .descriptorNop tile queue => below 160 tile && below 7 queue
  | .descriptorComplete tile queue => below 160 tile && below 7 queue
  | .waitExpired tile queue => below 160 tile && below 7 queue
  | .tokenIncrement inc => okInc inc
  | .tokenWrite req tile counter val => okReq req && below 160 tile && below 256 counter && below (2 ^ 64) val
  | .tokRd tile rd rs1 => below 160 tile && below 32 rd && below 32 rs1
  | .tokAdd tile rd rs1 rs2 => below 160 tile && below 32 rd && below 32 rs1 && below 32 rs2
  | .tokWait tile rd rs1 rs2 => below 160 tile && below 32 rd && below 32 rs1 && below 32 rs2
  | .sumPop tile rd rs1 => below 160 tile && below 32 rd && below 32 rs1
  | .instRd tile rd => below 160 tile && below 32 rd
  | .wfe tile rd => below 160 tile && below 32 rd
  | .coreStallRelease tile => below 160 tile
  | .coreTrap tile cause tval => below 160 tile && below (2 ^ 32) cause && below (2 ^ 32) tval
  | .coreRun req tile _ _ => okReq req && below 160 tile
  | .galyRegionWrite req tile region val => okReq req && below 160 tile && below 8 region && below (2 ^ 64) val
  | .dmaCopy tile queue ans => below 160 tile && below 7 queue && ans.all okAns
  | .dmaFill tile queue ans => below 160 tile && below 7 queue && ans.all okAns
  | .spareSubstitution tile _ => below 160 tile
  | .spareSubstitute loc tile => below 25 loc && below 256 tile
  | .matmul tile => below 160 tile
  | .covFlush tile => below 160 tile
  | .slotClr req tile val => okReq req && below 160 tile && below (2 ^ 64) val
  | .mov tile => below 160 tile
  | .neg tile => below 160 tile
  | .abs tile => below 160 tile
  | .sqrt tile => below 160 tile
  | .rsqrt tile => below 160 tile
  | .recip tile => below 160 tile
  | .exp tile => below 160 tile
  | .exp2 tile => below 160 tile
  | .log tile => below 160 tile
  | .log2 tile => below 160 tile
  | .tanh tile => below 160 tile
  | .sigmoid tile => below 160 tile
  | .add tile => below 160 tile
  | .sub tile => below 160 tile
  | .mul tile => below 160 tile
  | .div tile => below 160 tile
  | .vMax tile => below 160 tile
  | .vMin tile => below 160 tile
  | .copysign tile => below 160 tile
  | .cmp tile => below 160 tile
  | .fma tile => below 160 tile
  | .vSel tile => below 160 tile
  | .cvt tile => below 160 tile
  | .rsum tile => below 160 tile
  | .rprod tile => below 160 tile
  | .rmax tile => below 160 tile
  | .rmin tile => below 160 tile
  | .amax tile => below 160 tile
  | .rargmax tile => below 160 tile
  | .rargmin tile => below 160 tile
  | .rcount tile => below 160 tile
  | .rmean tile => below 160 tile
  | .softmax tile => below 160 tile
  | .curvCmdFold req site group factor => okReq req && below 12 site && below 1024 group && below 2 factor
  | .curvCmdReset req site group factor => okReq req && below 12 site && below 1024 group && below 2 factor
  | .foldDone site => below 12 site
  | .precondInstall loc group => below 25 loc && below 1024 group
  | .viewRead req addr _ => okReq req && below (2 ^ 48) addr
  | .solvContextEnable req engine ctx val => okReq req && below 16 engine && below 32 ctx && below (2 ^ 64) val
  | .solvContextDisable req engine ctx val => okReq req && below 16 engine && below 32 ctx && below (2 ^ 64) val
  | .goRec engine req => below 16 engine && req.all okReq
  | .entryRec engine => below 16 engine
  | .vectorRec engine => below 16 engine
  | .structRec engine => below 16 engine
  | .solveStart engine _ ans => below 16 engine && ans.all okAns
  | .solverPreempt engine _ => below 16 engine
  | .solverIteration engine => below 16 engine
  | .solverDeadline engine ctx _ => below 16 engine && below 32 ctx
  | .solverDelivery engine ctx => below 16 engine && below 32 ctx
  | .route tile => below 160 tile
  | .dispatch tile codes => below 160 tile && codes.all (below 256)
  | .returnRows tile codes => below 160 tile && codes.all (below 256)
  | .combine tile => below 160 tile
  | .inboxArm req tile inbox => okReq req && below 160 tile && below 16 inbox
  | .inboxDisarm req tile inbox => okReq req && below 160 tile && below 16 inbox
  | .rowMsg node tile inbox _ _ _ _ => below (2 ^ 14) node && below 160 tile && below 16 inbox
  | .endRow node tile inbox _ _ _ => below (2 ^ 14) node && below 160 tile && below 16 inbox
  | .returnRow node tile _ _ => below (2 ^ 14) node && below 160 tile
  | .sheafOpen req site => req.all okReq && below 12 site
  | .sheafAbort req site => req.all okReq && below 12 site
  | .sheafBlockReceive node m => below (2 ^ 14) node && okSheaf m
  | .scaleRoundReceive node tag _ _ _ => below (2 ^ 14) node && below (2 ^ 32) tag
  | .sheafSourceReadDone tag => below (2 ^ 32) tag
  | .sheafStageDone tag => below (2 ^ 32) tag
  | .sheafDelivery tag => below (2 ^ 32) tag
  | .epilogueRoundReceive node tag _ _ _ _ _ _ _ => below (2 ^ 14) node && below (2 ^ 32) tag
  | .sheafTimeout tag _ => below (2 ^ 32) tag
  | .epilogueTimeout tag _ => below (2 ^ 32) tag
  | .lineDataWrite req site val => okReq req && below 12 site && below (2 ^ 64) val
  | .updateRun site req group => below 12 site && req.all okReq && below 1024 group
  | .updateDone site => below 12 site
  | .ueLd site => below 12 site
  | .ueSt site => below 12 site
  | .ueMov site => below 12 site
  | .fadd site => below 12 site
  | .fsub site => below 12 site
  | .fmul site => below 12 site
  | .fdiv site => below 12 site
  | .ffma site => below 12 site
  | .fmax site => below 12 site
  | .fmin site => below 12 site
  | .fsqrt site => below 12 site
  | .frsqrt site => below 12 site
  | .fabs site => below 12 site
  | .fneg site => below 12 site
  | .fcmp site => below 12 site
  | .ueSel site => below 12 site
  | .wupd site => below 12 site
  | .avg site => below 12 site
  | .ledgerStaged site entry => below 12 site && below 4096 entry
  | .ledgerWritebackDone site entry => below 12 site && below 4096 entry
  | .fetch site req => below 12 site && req.all okReq
  | .fetchDigestPoll site _ ans => below 12 site && okAns ans
  | .fetchChunkReadDone site _ ans => below 12 site && okAns ans
  | .fetchTimeout site _ _ => below 12 site
  | .fetchCancel req site => okReq req && below 12 site
  | .verified dig _ node addr => below (2 ^ 64) dig && below (2 ^ 14) node && below (2 ^ 48) addr
  | .updCmdAudit req site group => okReq req && below 12 site && below 1024 group
  | .auditChunk site => below 12 site
  | .auditReadbackDone site ans => below 12 site && okAns ans
  | .snapshotFreeze loc group => below 25 loc && below 1024 group
  | .snapshotStreamDone site => below 12 site
  | .progDataWrite req site val => okReq req && below 12 site && below (2 ^ 64) val
  | .memoryRead req addr _ => okReq req && below (2 ^ 48) addr
  | .memoryWrite req addr data marks => okReq req && below (2 ^ 48) addr && okMarks data marks
  | .writeFirstTableWrite req site entry val => okReq req && below 12 site && below 16 entry && below (2 ^ 64) val
  | .zeroRegion m => okSlq m
  | .zeroingDone site => below 12 site
  | .optSet req site => req.all okReq && below 12 site
  | .optMove req site => req.all okReq && below 12 site
  | .optClear req site => req.all okReq && below 12 site
  | .moveDone handle ans => below 1024 handle && ans.all okAns
  | .prefetch site => below 12 site
  | .prefetchStart site _ _ => below 12 site
  | .prefetchDone site _ ans => below 12 site && ans.all okAns
  | .remoteAccess node body => below (2 ^ 14) node && okBody body
  | .lendWindowEnable req window val => okReq req && below 16 window && below (2 ^ 64) val
  | .lendWindowReclaim req window val => okReq req && below 16 window && below (2 ^ 64) val
  | .flashWrite addr _ => below (2 ^ 48) addr
  | .flashRead addr _ => below (2 ^ 48) addr
  | .flashRelocation _ _ _ _ _ _ => true
  | .flashProgramFail _ _ => true
  | .flushDone _ _ => true
  | .patrolScrub intg sel _ _ => below 201 intg && below 16 sel
  | .scrubGo req intg val => okReq req && below 201 intg && below (2 ^ 64) val
  | .scrubDone intg => below 201 intg
  | .flipArm req intg val => okReq req && below 201 intg && below (2 ^ 64) val
  | .pstsClr req intg val => okReq req && below 201 intg && below (2 ^ 64) val
  | .linkCtl link ctl => below 36 link && okLinkCtl ctl
  | .codewordUncorrectable link => below 36 link
  | .messageReceive link _ m => below 36 link && okFab m
  | .refusalReceive node origin code => below (2 ^ 14) node && okOrigin origin && below 256 code
  | .laneRetrain loc link lane => below 25 loc && below 6 link && below 16 lane
  | .laneRetrainStart link => below 36 link
  | .retrainAbort link => below 36 link
  | .laneDone link _ => below 36 link
  | .linkRetrain req link => okReq req && below 36 link
  | .linkTrainingDone link _ node _ _ _ _ => below 36 link && below (2 ^ 14) node
  | .linkRxSilence link => below 36 link
  | .linkDisable req link => okReq req && below 36 link
  | .admitLink req link => okReq req && below 36 link
  | .linkAutoRetrain link => below 36 link
  | .spareAssume m => okSlq m
  | .spareRelease m => okSlq m
  | .assumeTakeEffect => true
  | .assume target node impression => below (2 ^ 14) target && below (2 ^ 14) node && below (2 ^ 48) impression
  | .planEnable req => okReq req
  | .planDisable req => okReq req
  | .planPrefetchIncrement _ => true
  | .reimpose m => okSlq m
  | .reimpositionStart _ => true
  | .reimpositionChunkDone ans => ans.all okAns
  | .reimpositionComplete _ => true
  | .ethFrameReceive f => okFrame f
  | .arpRequest _ _ => true
  | .neighborSolicitation _ _ => true
  | .icmpEchoRequest _ _ _ _ => true
  | .pfcPauseReceive named paused => below 256 named && below 256 paused
  | .cnpReceive qp => below 256 qp
  | .cnpRateRecovery qp => below 256 qp
  | .ptpSync _ => true
  | .qpContextPost req val => okReq req && below (2 ^ 64) val
  | .windowPost req val => okReq req && below (2 ^ 64) val
  | .contextLoad req val => okReq req && below (2 ^ 64) val
  | .rdmaWriteRequest r key va _ => okRdma r && below (2 ^ 32) key && below (2 ^ 64) va
  | .rdmaReadRequest r key va _ => okRdma r && below (2 ^ 32) key && below (2 ^ 64) va
  | .rdmaSend r _ => okRdma r
  | .rdmaAckReceive qp psn _ => below 256 qp && below (2 ^ 24) psn
  | .rdmaAckTimeout qp => below 256 qp
  | .regRead m => okSlq m
  | .regWrite m => okSlq m
  | .memRead m => okSlq m
  | .memWrite m => okSlq m
  | .eventAck m => okSlq m
  | .eventResend _ => true
  | .slaiqTimeout m _ => okSlq m
  | .fwStage m => okSlq m
  | .fwCommit m => okSlq m
  | .keyRotate m => okSlq m
  | .keyTransfer m => okSlq m
  | .keyRevoke m => okSlq m
  | .resetCmd m => okSlq m
  | .powerCap m => okSlq m
  | .debugUnlock m => okSlq m
  | .telemetrySample _ _ => true
  | .telEntryWrite req entry val => okReq req && below 256 entry && below (2 ^ 64) val
  | .bootStage1 => true
  | .bootStage2 => true
  | .bootStage3 _ => true
  | .bootStage4 trained _ => trained.all (below 12)
  | .bootStage5 fails => (fails.all fun x => below 3 x.1 && below 160 x.2.1 && below 4 x.2.2)
  | .bootStage6 fails => fails.all (below 12)
  | .quoteOp req => okReq req
  | .certOp req => okReq req
  | .quoteDone => true
  | .enrolGo req => okReq req
  | .jciGo req => okReq req
  | .jciDone => true
  | .bkgdGrant _ _ _ _ _ _ => true
  | .overrun _ _ => true
  | .activityPeriodEnd _ _ => true
  | .vfCal die mv => below 2 die && below (2 ^ 20) mv
  | .proofKernel _ _ phase _ => below 4 phase
  | .proofPass loc _ => below 25 loc
  | .proofReproof _ _ phase _ => below 4 phase
  | .pwrEnRise => true
  | .bootStart modId _ => below 16 modId
  | .resetAssert _ => true
  | .pwrEnFall => true
  | .overvoltage mv _ => below (2 ^ 20) mv
  | .inputToleranceExpiry mv _ => below (2 ^ 20) mv
  | .inputLost mv _ => below (2 ^ 20) mv
  | .powerControlStep p => okSample p
  | .thermalTrip _ _ => true
  | .fabRefclkLoss => true
  | .ethRefclkLoss => true
  | .refclkRestore _ => true
  | .i3cRead reg => below 256 reg
  | .limitingConditionDetected _ _ => true
  | .enetLinkChange _ => true
  | .flashProgramComplete _ => true
  | .spareResume tile => below 160 tile

end Sys2Proof
end

