-- ==== Sys2Proof/Tests/Slice0.lean ====
section
/-! SUPPORT. Tests: ill-formed terms that the checks of WellFormed refuse, and, for every obligation with hypotheses, states
and operands that meet them, clause by clause. -/

namespace Sys2Proof.Tests
open Sys2Proof Sys2Proof.Machine

set_option Elab.async false

/-! ### States whose memories are calm -/

/-- A register that no condition of `calm` reads. -/
def quietKey (k : Nat) : Bool :=
  k / 1048576 != blkNum .hbmc && k / 1048576 != blkNum .galy && k / 1048576 != blkNum .intg

theorem rdKey_of_quiet (s : State) (h : s.regs.all (fun e => quietKey e.1) = true) (k : Nat) (hk : quietKey k = false) :
    rdKey s k = (regReset k).toNat := by
  unfold rdKey
  rw [mapGet_of_not_mem]
  intro e he hek
  have := List.all_eq_true.mp h e he
  rw [hek, hk] at this
  cases this

theorem regReset_at (b : Blk) (i o : Nat) (hi : i < 256) (ho : o < 4096) (h8 : o ≠ 8) (hb : b ≠ .bkgd) (hb2 : b ≠ .slqp) (v : DWord)
    (hv : (match regAt b o with
      | none => 0
      | some (r, _) => BitVec.ofNat 64 (r.fields.foldl (fun v f => v + f.reset * 2 ^ f.lo) 0)) = v) :
    regReset (regKey b i o) = v := by
  have h1 : regKey b i o % 4096 = o := by unfold regKey; omega
  have h2 : regKey b i o / 4096 / 256 = blkNum b := by unfold regKey; omega
  have h3 : blkOf (blkNum b) = b := by cases b <;> rfl
  unfold regReset
  simp only [h1, h2, h3, h8, if_false]
  rw [← hv]
  cases regAt b o with
  | none => rfl
  | some x => simp [hb, hb2]

theorem quietKey_regKey (b : Blk) (i o : Nat) (hi : i < 256) (ho : o < 4096) (h : b = .hbmc ∨ b = .galy ∨ b = .intg) :
    quietKey (regKey b i o) = false := by
  have h2 : regKey b i o / 1048576 = blkNum b := by unfold regKey; omega
  unfold quietKey
  rw [h2]
  rcases h with rfl | rfl | rfl <;> rfl

theorem hbmc_reads_zero (s : State) (h : s.regs.all (fun e => quietKey e.1) = true) (n r : Nat) (hn : n < 12) (hr : r < 16) :
    fb s HBMC_WF_VALID n r = false := by
  have e : fldKey HBMC_WF_VALID n r = regKey .hbmc n (0x100 + r * 8) := rfl
  have z : regReset (regKey .hbmc n (0x100 + r * 8)) = 0 := by
    refine regReset_at _ _ _ (by omega) (by omega) (by omega) (by decide) (by decide) _ ?_
    interval_cases r <;> decide
  unfold fb fv
  rw [e, rdKey_of_quiet s h _ (quietKey_regKey _ _ _ (by omega) (by omega) (.inl rfl)), z]
  rfl

theorem galy_reads_zero (s : State) (h : s.regs.all (fun e => quietKey e.1) = true) (p r : Nat) (hp : p < 160) (hr : r < 8) :
    fb s GALY_RVALID p r = false := by
  have e : fldKey GALY_RVALID p r = regKey .galy p (0x40 + r * 4) := rfl
  have z : regReset (regKey .galy p (0x40 + r * 4)) = 0 := by
    refine regReset_at _ _ _ (by omega) (by omega) (by omega) (by decide) (by decide) _ ?_
    interval_cases r <;> decide
  unfold fb fv
  rw [e, rdKey_of_quiet s h _ (quietKey_regKey _ _ _ (by omega) (by omega) (.inr (.inl rfl))), z]
  rfl

theorem intg_reads_zero (s : State) (h : s.regs.all (fun e => quietKey e.1) = true) (i : Nat) (hi : i < 256) :
    fb s INTG_FLIP_ARMED i = false := by
  have e : fldKey INTG_FLIP_ARMED i 0 = regKey .intg i (INTG_FLIP_ARMED.off + 0 * INTG_FLIP_ARMED.stride) := rfl
  have z : regReset (regKey .intg i (INTG_FLIP_ARMED.off + 0 * INTG_FLIP_ARMED.stride)) = 0 :=
    regReset_at _ _ _ hi (by decide) (by decide) (by decide) (by decide) _ (by decide)
  unfold fb fv
  rw [e, rdKey_of_quiet s h _ (quietKey_regKey _ _ _ hi (by decide) (.inr (.inr rfl))), z]
  rfl

/-- A state without syndromes whose HBMC, GALY and INTG registers are untouched is calm. -/
theorem calm_of (s : State) (hc : s.syn = [] ∧ s.regs.all (fun e => quietKey e.1) = true) : calm s := by
  obtain ⟨hs, h⟩ := hc
  refine ⟨hs, fun u => ?_, fun u => ?_⟩
  · unfold anyWriteFirst
    cases u with
    | hbm n =>
      by_cases hn : n < 12
      · simp only [Bool.and_eq_false_imp]
        intro _
        rw [List.any_eq_false]
        intro r hr
        simp [hbmc_reads_zero s h n r hn (List.mem_range.mp hr)]
      · simp [muReal, hn]
    | galley p =>
      by_cases hp : p < 160
      · simp only [Bool.and_eq_false_imp]
        intro _
        rw [List.any_eq_false]
        intro r hr
        simp [galy_reads_zero s h p r hp (List.mem_range.mp hr)]
      · simp [muReal, hp]
    | imem p => simp
    | dmem p => simp
    | prog n => simp
  · unfold flipArmed
    have hb : muReal u = true → muIntg u < 256 := by
      cases u <;> simp only [muReal, muIntg, decide_eq_true_eq] <;> omega
    by_cases hr : muReal u = true
    · simp [intg_reads_zero s h _ (hb hr)]
    · simp [hr]

/-- A memory with one syndrome. -/
theorem syn_of_one (s : State) (k c : Nat) (h : s.syn = [(k, c)]) (j : Nat) : synAt s j = if j = k then c else 0 := by
  unfold synAt
  rw [h]
  by_cases hj : j = k
  · rw [if_pos hj, hj]; simp [mapGet]
  · rw [if_neg hj, mapGet_of_not_mem _ _ _ (by simp; omega)]; rfl

/-- The digest of zeros. -/
theorem crc64_zeros (n : Nat) : crc64 (List.replicate n 0) = 0 := by
  have h : crc64Byte 0 0 = 0 := by decide +kernel
  unfold crc64
  induction n with
  | zero => rfl
  | succ n ih => rw [List.replicate_succ, List.foldl_cons, h, ih]

/-! ### Ill-formed terms -/

/-- A beacon of zeros. -/
def b0 : Beacon := ⟨0, false, false, false, 0, 0, 0, 0, 0⟩

theorem test_wf_helpers_refuse : ([below 5 5, okSize 6, okMarks [1, 2] [true], okReq (.mgmt 2), okReq (.tileCore 160), okSlq ⟨2 ^ 128, 0, 0, []⟩,
    okSlq ⟨0, 65536, 0, []⟩, okSlq ⟨0, 0, 0, List.replicate 9001 0⟩, okBeacon { b0 with impression := 2 ^ 48 }, okBeacon { b0 with periodNs := 2 ^ 32 },
    okBeacon { b0 with accDelay := 2 ^ 32 }, okBeacon { b0 with master := 2 ^ 14 }, okBeacon { b0 with hops := 256 }, okBeacon { b0 with gen := 2 ^ 32 },
    okAns ⟨256, [], []⟩, okAns ⟨0, [1], [true, true]⟩, okInc (.remote 256 0 0), okInc (.remote 0 256 0), okInc (.remote 0 0 (2 ^ 20)),
    okSheaf (.block 0 0 256 0 0 0 0 false [] [] []), okSheaf (.scale 0 0 0 65536), okSheaf (.epi 0 0 0 65536 0 0 0 0), okSheaf (.shard 0 0 256 [] []),
    okSheaf (.shardAck (2 ^ 32) 0 0), okWinn ⟨256, 0, 0, 0, 0, 0, []⟩, okWinn ⟨0, 256, 0, 0, 0, 0, []⟩, okWinn ⟨0, 0, 256, 0, 0, 0, []⟩] : List Bool)
    = List.replicate 27 false := by decide +kernel

theorem test_wf_messages_refuse : ([okBody (.token 0 0 (2 ^ 20)), okBody (.ready (2 ^ 48)), okBody (.sheaf (.shardAck 0 0 256)), okBody (.verified 0 0 (2 ^ 14) 0),
    okBody (.refusal 256), okBody (.assume 0 (2 ^ 14) 0), okBody (.readReq (2 ^ 48) 0), okBody (.readResp 256 [] []), okBody (.write 0 [1] [true, true]),
    okBody (.winn ⟨256, 0, 0, 0, 0, 0, []⟩), okBody (.winnAnswer ⟨0, 0, 0, 0, 0, 0, []⟩ 256), okOrigin (.op 0 7 0), okOrigin (.fetch 12 0),
    okOrigin (.prefetch 12 0), okOrigin (.audit 12), okFab ⟨2 ^ 14, 0, 0, 0, 0, .none, .writeAck⟩, okFab ⟨0, 2 ^ 14, 0, 0, 0, .none, .writeAck⟩,
    okFab ⟨0, 0, 8, 0, 0, .none, .writeAck⟩, okFab ⟨0, 0, 0, 0, 256, .none, .writeAck⟩, okLinkCtl ⟨0, some 65536, false, false, false, 0, [], []⟩,
    okLinkCtl ⟨0, none, false, false, false, 16, [], []⟩, okFrame ⟨0, [(0, 8)], 0, [], 0, 0⟩, okFrame ⟨0, [], 65536, [], 0, 0⟩, okRdma ⟨0, 2 ^ 24, false, 0⟩,
    okSample ⟨0, 0, 0, 0, [], [0, 0], List.replicate 12 0, 0, 0⟩, okSample ⟨0, 0, 0, 0, [0, 0], [0, 0], [], 0, 0⟩] : List Bool)
    = List.replicate 26 false := by decide +kernel

theorem test_wf_refuses_1 : ([
    .registerWrite (.mgmt 2) 0 4 0, .registerWrite .slaiq (2 ^ 48) 4 0, .registerWrite .slaiq 0 3 0, .registerWrite .slaiq 0 4 (2 ^ 64),
    .rcRegisterRead (.mgmt 2) 0 4, .rcRegisterRead .slaiq (2 ^ 48) 4, .rcRegisterRead .slaiq 0 3, .errCodeRead (.mgmt 2) 0,
    .errCodeRead .slaiq (2 ^ 48), .evtPendClear (.mgmt 2) 0 0 0, .evtPendClear .slaiq (2 ^ 48) 0 0, .evtPendClear .slaiq 0 (2 ^ 64) 0,
    .evtPendClear .slaiq 0 0 (2 ^ 32), .softReset (.mgmt 2) 0 0, .softReset .slaiq (2 ^ 48) 0, .softReset .slaiq 0 (2 ^ 64), .softResetDone 25 0,
    .softResetDone 0 4096, .beaconReceive 36 b0, .beaconReceive 0 { b0 with master := 2 ^ 14 }, .readyForce (.mgmt 2), .readyReceive (2 ^ 14) 0,
    .readyReceive 0 (2 ^ 48), .pressElect ⟨0, 65536, 0, []⟩, .schedPost (.mgmt 2), .schedCancel (.mgmt 2) 0, .schedCancel .slaiq 1024,
    .tokenInc 25 0 0, .tokenInc 0 256 0, .tokenInc 0 0 (2 ^ 32), .schedEvent 1024 0, .schedEvent 0 (2 ^ 32), .bubbleEnable (.mgmt 2) 0 0,
    .bubbleDisable (.mgmt 2), .bubbleWindowOpen 128 0, .bubbleWindowClose 128 0, .qTailWrite (.mgmt 2) 0 0 0, .qTailWrite .slaiq 160 0 0,
    .qTailWrite .slaiq 0 7 0, .qTailWrite .slaiq 0 0 (2 ^ 64)] : List Instr).map Instr.wf
    = List.replicate 40 false := by decide +kernel

theorem test_wf_refuses_2 : ([
    .queueStart (.mgmt 2) 0 0, .queueStart .slaiq 160 0, .queueStart .slaiq 0 7, .queueStop (.mgmt 2) 0 0, .queueStop .slaiq 160 0,
    .queueStop .slaiq 0 7, .queueRearm (.mgmt 2) 0 0, .queueRearm .slaiq 160 0, .queueRearm .slaiq 0 7, .queueSkip (.mgmt 2) 0 0,
    .queueSkip .slaiq 160 0, .queueSkip .slaiq 0 7, .descriptorNop 160 0, .descriptorNop 0 7, .descriptorComplete 160 0, .descriptorComplete 0 7,
    .waitExpired 160 0, .waitExpired 0 7, .tokenIncrement (.remote 256 0 0), .tokenWrite (.mgmt 2) 0 0 0, .tokenWrite .slaiq 160 0 0,
    .tokenWrite .slaiq 0 256 0, .tokenWrite .slaiq 0 0 (2 ^ 64), .tokRd 160 0 0, .tokRd 0 32 0, .tokRd 0 0 32, .tokAdd 160 0 0 0, .tokAdd 0 32 0 0,
    .tokAdd 0 0 32 0, .tokAdd 0 0 0 32, .tokWait 160 0 0 0, .tokWait 0 32 0 0, .tokWait 0 0 32 0, .tokWait 0 0 0 32, .sumPop 160 0 0, .sumPop 0 32 0,
    .sumPop 0 0 32, .instRd 160 0, .instRd 0 32, .wfe 160 0] : List Instr).map Instr.wf
    = List.replicate 40 false := by decide +kernel

theorem test_wf_refuses_3 : ([
    .wfe 0 32, .coreStallRelease 160, .coreTrap 160 0 0, .coreTrap 0 (2 ^ 32) 0, .coreTrap 0 0 (2 ^ 32), .coreRun (.mgmt 2) 0 false 0,
    .coreRun .slaiq 160 false 0, .galyRegionWrite (.mgmt 2) 0 0 0, .galyRegionWrite .slaiq 160 0 0, .galyRegionWrite .slaiq 0 8 0,
    .galyRegionWrite .slaiq 0 0 (2 ^ 64), .dmaCopy 160 0 [], .dmaCopy 0 7 [], .dmaCopy 0 0 [⟨256, [], []⟩], .dmaFill 160 0 [], .dmaFill 0 7 [],
    .dmaFill 0 0 [⟨256, [], []⟩], .spareSubstitution 160 false, .spareSubstitute 25 0, .spareSubstitute 0 256, .matmul 160, .covFlush 160,
    .slotClr (.mgmt 2) 0 0, .slotClr .slaiq 160 0, .slotClr .slaiq 0 (2 ^ 64), .mov 160, .neg 160, .abs 160, .sqrt 160, .rsqrt 160, .recip 160,
    .exp 160, .exp2 160, .log 160, .log2 160, .tanh 160, .sigmoid 160, .add 160, .sub 160, .mul 160] : List Instr).map Instr.wf
    = List.replicate 40 false := by decide +kernel

theorem test_wf_refuses_4 : ([
    .div 160, .vMax 160, .vMin 160, .copysign 160, .cmp 160, .fma 160, .vSel 160, .cvt 160, .rsum 160, .rprod 160, .rmax 160, .rmin 160, .amax 160,
    .rargmax 160, .rargmin 160, .rcount 160, .rmean 160, .softmax 160, .curvCmdFold (.mgmt 2) 0 0 0, .curvCmdFold .slaiq 12 0 0,
    .curvCmdFold .slaiq 0 1024 0, .curvCmdFold .slaiq 0 0 2, .curvCmdReset (.mgmt 2) 0 0 0, .curvCmdReset .slaiq 12 0 0, .curvCmdReset .slaiq 0 1024 0,
    .curvCmdReset .slaiq 0 0 2, .foldDone 12, .precondInstall 25 0, .precondInstall 0 1024, .viewRead (.mgmt 2) 0 0, .viewRead .slaiq (2 ^ 48) 0,
    .solvContextEnable (.mgmt 2) 0 0 0, .solvContextEnable .slaiq 16 0 0, .solvContextEnable .slaiq 0 32 0, .solvContextEnable .slaiq 0 0 (2 ^ 64),
    .solvContextDisable (.mgmt 2) 0 0 0, .solvContextDisable .slaiq 16 0 0, .solvContextDisable .slaiq 0 32 0, .solvContextDisable .slaiq 0 0 (2 ^ 64),
    .goRec 16 none] : List Instr).map Instr.wf
    = List.replicate 40 false := by decide +kernel

theorem test_wf_refuses_5 : ([
    .goRec 0 (some (.tileCore 160)), .entryRec 16, .vectorRec 16, .structRec 16, .solveStart 16 0 [], .solveStart 0 0 [⟨256, [], []⟩],
    .solverPreempt 16 0, .solverIteration 16, .solverDeadline 16 0 0, .solverDeadline 0 32 0, .solverDelivery 16 0, .solverDelivery 0 32, .route 160,
    .dispatch 160 [], .dispatch 0 [256], .returnRows 160 [], .returnRows 0 [256], .combine 160, .inboxArm (.mgmt 2) 0 0, .inboxArm .slaiq 160 0,
    .inboxArm .slaiq 0 16, .inboxDisarm (.mgmt 2) 0 0, .inboxDisarm .slaiq 160 0, .inboxDisarm .slaiq 0 16, .rowMsg (2 ^ 14) 0 0 0 0 0 [],
    .rowMsg 0 160 0 0 0 0 [], .rowMsg 0 0 16 0 0 0 [], .endRow (2 ^ 14) 0 0 0 0 0, .endRow 0 160 0 0 0 0, .endRow 0 0 16 0 0 0,
    .returnRow (2 ^ 14) 0 0 [], .returnRow 0 160 0 [], .sheafOpen (some (.tileCore 160)) 0, .sheafOpen none 12, .sheafAbort (some (.tileCore 160)) 0,
    .sheafAbort none 12, .sheafBlockReceive (2 ^ 14) (.shardAck 0 0 0), .sheafBlockReceive 0 (.shardAck (2 ^ 32) 0 0),
    .scaleRoundReceive (2 ^ 14) 0 0 0 0, .scaleRoundReceive 0 (2 ^ 32) 0 0 0] : List Instr).map Instr.wf
    = List.replicate 40 false := by decide +kernel

theorem test_wf_refuses_6 : ([
    .sheafSourceReadDone (2 ^ 32), .sheafStageDone (2 ^ 32), .sheafDelivery (2 ^ 32), .epilogueRoundReceive (2 ^ 14) 0 0 0 0 0 0 0 0,
    .epilogueRoundReceive 0 (2 ^ 32) 0 0 0 0 0 0 0, .sheafTimeout (2 ^ 32) 0, .epilogueTimeout (2 ^ 32) 0, .lineDataWrite (.mgmt 2) 0 0,
    .lineDataWrite .slaiq 12 0, .lineDataWrite .slaiq 0 (2 ^ 64), .updateRun 12 none 0, .updateRun 0 (some (.tileCore 160)) 0, .updateRun 0 none 1024,
    .updateDone 12, .ueLd 12, .ueSt 12, .ueMov 12, .fadd 12, .fsub 12, .fmul 12, .fdiv 12, .ffma 12, .fmax 12, .fmin 12, .fsqrt 12, .frsqrt 12,
    .fabs 12, .fneg 12, .fcmp 12, .ueSel 12, .wupd 12, .avg 12, .ledgerStaged 12 0, .ledgerStaged 0 4096, .ledgerWritebackDone 12 0,
    .ledgerWritebackDone 0 4096, .fetch 12 none, .fetch 0 (some (.tileCore 160)), .fetchDigestPoll 12 0 ⟨0, [], []⟩, .fetchDigestPoll 0 0 ⟨256, [], []⟩] : List Instr).map Instr.wf
    = List.replicate 40 false := by decide +kernel

theorem test_wf_refuses_7 : ([
    .fetchChunkReadDone 12 0 ⟨0, [], []⟩, .fetchChunkReadDone 0 0 ⟨256, [], []⟩, .fetchTimeout 12 0 0, .fetchCancel (.mgmt 2) 0,
    .fetchCancel .slaiq 12, .verified (2 ^ 64) 0 0 0, .verified 0 0 (2 ^ 14) 0, .verified 0 0 0 (2 ^ 48), .updCmdAudit (.mgmt 2) 0 0,
    .updCmdAudit .slaiq 12 0, .updCmdAudit .slaiq 0 1024, .auditChunk 12, .auditReadbackDone 12 ⟨0, [], []⟩, .auditReadbackDone 0 ⟨256, [], []⟩,
    .snapshotFreeze 25 0, .snapshotFreeze 0 1024, .snapshotStreamDone 12, .progDataWrite (.mgmt 2) 0 0, .progDataWrite .slaiq 12 0,
    .progDataWrite .slaiq 0 (2 ^ 64), .memoryRead (.mgmt 2) 0 0, .memoryRead .slaiq (2 ^ 48) 0, .memoryWrite (.mgmt 2) 0 [] [],
    .memoryWrite .slaiq (2 ^ 48) [] [], .memoryWrite .slaiq 0 [] [true], .writeFirstTableWrite (.mgmt 2) 0 0 0, .writeFirstTableWrite .slaiq 12 0 0,
    .writeFirstTableWrite .slaiq 0 16 0, .writeFirstTableWrite .slaiq 0 0 (2 ^ 64), .zeroRegion ⟨0, 65536, 0, []⟩, .zeroingDone 12,
    .optSet (some (.tileCore 160)) 0, .optSet none 12, .optMove (some (.tileCore 160)) 0, .optMove none 12, .optClear (some (.tileCore 160)) 0,
    .optClear none 12, .moveDone 1024 [], .moveDone 0 [⟨256, [], []⟩], .prefetch 12] : List Instr).map Instr.wf
    = List.replicate 40 false := by decide +kernel

theorem test_wf_refuses_8 : ([
    .prefetchStart 12 0 0, .prefetchDone 12 0 [], .prefetchDone 0 0 [⟨256, [], []⟩], .remoteAccess (2 ^ 14) .writeAck, .remoteAccess 0 (.refusal 256),
    .lendWindowEnable (.mgmt 2) 0 0, .lendWindowEnable .slaiq 16 0, .lendWindowEnable .slaiq 0 (2 ^ 64), .lendWindowReclaim (.mgmt 2) 0 0,
    .lendWindowReclaim .slaiq 16 0, .lendWindowReclaim .slaiq 0 (2 ^ 64), .flashWrite (2 ^ 48) [], .flashRead (2 ^ 48) false,
    .patrolScrub 201 0 0 false, .patrolScrub 0 16 0 false, .scrubGo (.mgmt 2) 0 0, .scrubGo .slaiq 201 0, .scrubGo .slaiq 0 (2 ^ 64), .scrubDone 201,
    .flipArm (.mgmt 2) 0 0, .flipArm .slaiq 201 0, .flipArm .slaiq 0 (2 ^ 64), .pstsClr (.mgmt 2) 0 0, .pstsClr .slaiq 201 0,
    .pstsClr .slaiq 0 (2 ^ 64), .linkCtl 36 ⟨0, none, false, false, false, 0, [], []⟩, .linkCtl 0 ⟨65536, none, false, false, false, 0, [], []⟩,
    .codewordUncorrectable 36, .messageReceive 36 0 ⟨0, 0, 0, 0, 0, .none, .writeAck⟩, .messageReceive 0 0 ⟨0, 0, 8, 0, 0, .none, .writeAck⟩,
    .refusalReceive (2 ^ 14) .none 0, .refusalReceive 0 (.op 160 0 0) 0, .refusalReceive 0 .none 256, .laneRetrain 25 0 0, .laneRetrain 0 6 0,
    .laneRetrain 0 0 16, .laneRetrainStart 36, .retrainAbort 36, .laneDone 36 false, .linkRetrain (.mgmt 2) 0] : List Instr).map Instr.wf
    = List.replicate 40 false := by decide +kernel

theorem test_wf_refuses_9 : ([
    .linkRetrain .slaiq 36, .linkTrainingDone 36 false 0 0 0 0 0, .linkTrainingDone 0 false (2 ^ 14) 0 0 0 0, .linkRxSilence 36,
    .linkDisable (.mgmt 2) 0, .linkDisable .slaiq 36, .admitLink (.mgmt 2) 0, .admitLink .slaiq 36, .linkAutoRetrain 36, .spareAssume ⟨0, 65536, 0, []⟩,
    .spareRelease ⟨0, 65536, 0, []⟩, .assume (2 ^ 14) 0 0, .assume 0 (2 ^ 14) 0, .assume 0 0 (2 ^ 48), .planEnable (.mgmt 2), .planDisable (.mgmt 2),
    .reimpose ⟨0, 65536, 0, []⟩, .reimpositionChunkDone [⟨256, [], []⟩], .ethFrameReceive ⟨0, [(4096, 0)], 0, [], 0, 0⟩, .pfcPauseReceive 256 0,
    .pfcPauseReceive 0 256, .cnpReceive 256, .cnpRateRecovery 256, .qpContextPost (.mgmt 2) 0, .qpContextPost .slaiq (2 ^ 64), .windowPost (.mgmt 2) 0,
    .windowPost .slaiq (2 ^ 64), .contextLoad (.mgmt 2) 0, .contextLoad .slaiq (2 ^ 64), .rdmaWriteRequest ⟨256, 0, false, 0⟩ 0 0 [],
    .rdmaWriteRequest ⟨0, 0, false, 0⟩ (2 ^ 32) 0 [], .rdmaWriteRequest ⟨0, 0, false, 0⟩ 0 (2 ^ 64) [], .rdmaReadRequest ⟨256, 0, false, 0⟩ 0 0 0,
    .rdmaReadRequest ⟨0, 0, false, 0⟩ (2 ^ 32) 0 0, .rdmaReadRequest ⟨0, 0, false, 0⟩ 0 (2 ^ 64) 0, .rdmaSend ⟨256, 0, false, 0⟩ [],
    .rdmaAckReceive 256 0 0, .rdmaAckReceive 0 (2 ^ 24) 0, .rdmaAckTimeout 256, .regRead ⟨0, 65536, 0, []⟩] : List Instr).map Instr.wf
    = List.replicate 40 false := by decide +kernel

theorem test_wf_refuses_10 : ([
    .regWrite ⟨0, 65536, 0, []⟩, .memRead ⟨0, 65536, 0, []⟩, .memWrite ⟨0, 65536, 0, []⟩, .eventAck ⟨0, 65536, 0, []⟩,
    .slaiqTimeout ⟨0, 65536, 0, []⟩ 0, .fwStage ⟨0, 65536, 0, []⟩, .fwCommit ⟨0, 65536, 0, []⟩, .keyRotate ⟨0, 65536, 0, []⟩,
    .keyTransfer ⟨0, 65536, 0, []⟩, .keyRevoke ⟨0, 65536, 0, []⟩, .resetCmd ⟨0, 65536, 0, []⟩, .powerCap ⟨0, 65536, 0, []⟩,
    .debugUnlock ⟨0, 65536, 0, []⟩, .telEntryWrite (.mgmt 2) 0 0, .telEntryWrite .slaiq 256 0, .telEntryWrite .slaiq 0 (2 ^ 64), .bootStage4 [12] [],
    .bootStage5 [(3, 0, 0)], .bootStage5 [(0, 160, 0)], .bootStage5 [(0, 0, 4)], .bootStage6 [12], .quoteOp (.mgmt 2), .certOp (.mgmt 2),
    .enrolGo (.mgmt 2), .jciGo (.mgmt 2), .vfCal 2 0, .vfCal 0 (2 ^ 20), .proofKernel 0 0 4 false, .proofPass 25 0, .proofReproof 0 0 4 false,
    .bootStart 16 false, .overvoltage (2 ^ 20) 0, .inputToleranceExpiry (2 ^ 20) 0, .inputLost (2 ^ 20) 0,
    .powerControlStep ⟨0, 0, 0, 0, [0, 0], [0], List.replicate 12 0, 0, 0⟩, .i3cRead 256, .spareResume 160] : List Instr).map Instr.wf
    = List.replicate 37 false := by decide +kernel

/-! ### States and operands -/

/-- A state built from the reset state. -/
def st (l : List Act) : State := (acts l).run State.reset
/-- Management core 0. -/
def core0 : Requester := .mgmt 0
/-- The state after reset. -/
def s0 : State := State.reset
/-- The reset state with a power-up waiting. -/
def sQueued : State := { s0 with pending := [.pwrEnRise] }
/-- A reset state with an impression known. -/
def sSynced : State := st [setF PRES_ROLE 2, setF PRES_PERIOD_CUR 1000, updPress fun p => { p with synced := true }]

/-- A state whose PRES page holds a rejection. -/
def sRejected : State := (recordReject presPage 0x064 .fieldRange).run s0

/-- A state with a beacon counter of PRES at 3. -/
def sCounted : State := st [setF PRES_CNT_SKIPPED 3]
/-- A state with PRES in soft reset. -/
def sPresReset : State := (softReset presPage).run sCounted

/-- A synchronised master of impression 5, in FREE or GATED mode. -/
def sMaster (gated : Bool) : State := st [setF PRES_ROLE roleMaster, setF PRES_PRESS_MODE (b2n gated), setF PRES_GATE_EN (b2n gated),
  updPress fun p => { p with imp := 5, synced := true, cfg := ⟨gated, 20000, 20000, 100000⟩ }]
/-- The same with its tree ready. -/
def sMasterReady : State := (updPress fun p => { p with forced := true }).run (sMaster true)
/-- A synchronised follower or backup that has heard a beacon. -/
def sHears (role : Nat) : State := st [setF PRES_ROLE role, setF PRES_PERIOD_CUR 20000, setF PRES_GATE_EN 1,
  updPress fun p => { p with imp := 5, synced := true, heard := true }]
/-- A beacon of a generation. -/
def beacon (imp gen : Nat) : Beacon := ⟨imp, false, false, false, 20000, 0, 7, 255, gen⟩
/-- A follower with link 0 UP. -/
def sLinked : State := (acts [setF LINK_LSTATE 2 0, setF LINK_LDELAY 10000000 0]).run (sHears roleFollower)
/-- A follower with an edge set. -/
def sEdge : State := (updPress fun p => { p with edge := some ⟨6, 20000, true⟩ }).run (sHears roleFollower)

/-- A follower with an EVENT action for impression 9 staged. -/
def sStaged : State := (acts [setF PRES_SCHED_W 9 0 0, setF PRES_SCHED_W2 0x1807]).run (sHears roleFollower)
/-- A follower that holds a TOKEN_INC entry for an unbacked tile, due at impression 5. -/
def sDue : State := (updPress fun p => { p with sched := [⟨1023, 5, 0, 1, 0x10, 0, 0⟩] }).run (sHears roleFollower)
/-- The same with an EVENT of the schedule and a failure still held. -/
def sDueHeld : State := (acts [setF PRES_AFAIL_VALID 1, setF PRES_SEVT_VALID 1]).run sDue

/-- A follower with one bubble window of points 0 to 100 in every impression, its table enabled or not, and open or not. -/
def sBubble (en isOpen : Bool) : State := (acts [setF PRES_BUB_END 100 0 0, setF PRES_BUB_EN (b2n en), setF PRES_BUB_COUNT 1,
  setF PRES_BUB_CYCLE 1, updPress fun p => { p with bubOn := en, open_ := if isOpen then [0] else [] }]).run (sHears roleFollower)

/-- A descriptor of some words. -/
def dsc (ws : List (Nat × Nat)) : List Byte :=
  (List.range 32).flatMap fun i => leBytes 4 (((ws.find? fun x => x.1 == i).map Prod.snd).getD 0)
/-- Tile 0 is up, and a descriptor waits at the head of its queue q. -/
def sFire (q : Nat) (d : List Byte) : State := st [updUnits fun u => { u with up := [.tile 0] }, setF HLTH_LEVEL 3,
  setF TILE_QSTATE qWaiting 0 q, updQueue 0 q fun x => { x with head := d }]
/-- A descriptor for queue q stands at the head of its ring, which is CHECKing. -/
def sHead (q : Nat) (d : List Byte) : State := st [updUnits fun u => { u with up := [.tile 0] }, setF HLTH_LEVEL 3,
  setF (hdrEnable (queuePage 0 q).blk) 1 0, setF TILE_Q_TAIL 1 0 q, memPut (.galley 0) 0 d]

/-- A head of queue 0 that needs a token, after four counted edges of a limit of four. -/
def sWaits : State := (acts [setF TILE_WAIT_LIMIT 4 0 0, updQueue 0 0 fun x => { x with waitEdges := 4 }]).run
  (sFire 0 (dsc [(0, 0x4000), (1, 0x100)]))

/-- Queue 6 of the last tile is in a state. -/
def sQState (x : Nat) : State := st [setF TILE_QSTATE x 151 6]

/-- A head of queue 0 with a consuming wait of 3 on counter 255, a credit of 2 on counter 1 and a gate; tokens enough. -/
def sTokens : State := (acts [addToken 0 255 3, addToken 0 1 5, setF PRES_ROLE 1]).run
  (sFire 0 (dsc [(0, 0x6800), (1, 0x100003FF), (3, 0x201)]))

/-- An operation is in flight in queue 1 of tile 0, with a summary, a target on tile 0 and an event, and n summaries wait. -/
def sFlight (n : Nat) : State := st [updQueue 0 1 fun x => { x with
    inflight := [⟨0, true, 7, 0, 0, 0, 0, 0, [2 ^ 32 + 5], true, [], 0, false, [], []⟩] },
  updTile 0 fun t => { t with summaries := List.replicate n [] }]

/-- Tile 0 is up, with a DMA head of queue 6 that moves 8 bytes between galley places 4096 and 64. -/
def sDma (op : Nat) : State := sFire 6 (dsc [(0, 0x300 + op), (12, 4096), (13, 0xFE00), (14, 64), (15, 0xFE00), (16, 8), (17, 1), (18, 1), (28, 0x04030201)])

/-- The canonical galley address of tile 0. -/
def galley0 : Nat := 0xFE0000000000

/-- A DISPATCH without rows, of one expert. -/
def sDispatch : State := sFire 2 (dsc [(0, 0x202), (12, 1), (19, 1)])
/-- A RETURN of the closed inbox 0. -/
def sReturn : State := (setF WINN_ISTATE inClosed 0 0).run (sFire 2 (dsc [(0, 0x203)]))

/-- Inbox 15 of the last tile is open for one sender of rows of 64 bytes, four each; the tile is backed. -/
def sInbox : State := st [updUnits fun u => { u with up := [.tile 151] ++ (List.range 8).map (fun k => .tile (80 + k)) ++ [.stack 6] }, setF (hdrEnable .winn) 1 151,
  setF WINN_ISTATE inOpen 151 15, setF WINN_NSRC 1 151 15, setF WINN_ICAP 4 151 15, setF WINN_ROWB 64 151 15,
  setF WINN_IBASE 0x1000 151 15, setF WINN_TAG_ADDR 0x2000 151 15]

/-- Inbox 15 of the last tile is set up for one sender of 32 rows of 64 bytes. -/
def sArm : State := st [setF (hdrEnable .winn) 1 151, setF WINN_NSRC 1 151 15, setF WINN_ICAP 32 151 15, setF WINN_ROWB 64 151 15,
  setF WINN_TAG_ADDR 0x2000 151 15, setF WINN_SRCT_ADDR 0x3000 151 15]

/-- The inbox has taken one row. -/
def sInboxRow : State := (setF WINN_IROWS 1 151 15).run sInbox
/-- The inbox is at rest, and its RETURN is in flight. -/
def sInboxRet : State := st []

/-- The last tile's state is being copied to its spare. -/
def sCopying : State := (updUnits fun u => { u with subst := [⟨143, 151, 0, some 152, false⟩] }).run sInbox

/-- An increment is on its way to counter 255 of the last tile, which is backed; tile 0 is not. -/
def sOnWay : State := (upd (.flights [⟨0, 143, 255, 3⟩])).run sInbox

/-- The core of the last tile runs, with registers. -/
def sCore : State := st [updUnits fun u => { u with up := [.tile 151] }, setF TILE_CORE_RUN 1 151, addToken 151 1 5,
  setX 151 1 0x10001, setX 151 2 7, setX 151 3 0x10020]
/-- The same with a record waiting. -/
def sCoreSum : State := (updTile 151 fun t => { t with summaries := [List.replicate 32 3] }).run sCore

/-- The core stalls for tokens that have come. -/
def sStalled : State := (updCore 151 fun c => { c with wait := .tok 31 1 5 }).run sCore
/-- The core has a vectored handler. -/
def sHandler : State := (updCore 151 fun c => { c with mtvec := 0x101, mstatus := 8 }).run sCore

/-- HBM site 1 and tile 0 are in service. -/
def sMem : State := st [updUnits fun u => { u with up := [.stack 1, .tile 0] }]
/-- The last place of HBM site 1 that takes a burst. -/
def hbm1 : Nat := 2 ^ 36 + 0x8000000
/-- A burst of HBM. -/
def burst : List Byte := List.replicate 32 5

/-- Two blocks of site 11 await their zeros. -/
def sZeroing : State := st [memPut (.hbm 11) 4096 [1, 2, 3], upd (.zeroing 11 [(1, 2)]), setF HBMC_ZERO_BUSY 1 11, setF HBMC_ZERO_REMAIN 2 11]

/-- The tiles that a service action on the last tile needs are up: it, its die's spares, seven others, a stack. -/
def sDie1 : State := st [updUnits fun u => { u with up := (List.range 24).map (fun k => .tile (136 + k)) ++ [.stack 6] }, setF (hdrEnable .tile) 1 151]
/-- Its substitution is pending, one edge on. -/
def sPending (n : Nat) : State := (acts [addToken 151 9 4, updUnits fun u => { u with subst := [⟨143, 151, n, none, false⟩] }, setF HLTH_RET_TILE (2 ^ 23) 0 4]).run sDie1
/-- The spare has taken the tile's place. -/
def sTaken : State := (updUnits fun u => { u with subst := [⟨143, 151, 1, some 152, true⟩] }).run sDie1

/-- The units that HBM site 1 and its Update Engine need are up. -/
def up1 : Act := updUnits fun u => { u with up := [.stack 1, .ue 1, .tile 0] }
/-- Records' bytes from fields at byte offsets. -/
def recOf (n : Nat) (l : List (Nat × Nat × Nat)) : List Byte :=
  l.foldl (fun b x => b.take x.1 ++ leBytes x.2.1 x.2.2 ++ b.drop (x.1 + x.2.1)) (List.replicate n 0)
/-- The first byte of HBM site 1. -/
def hbm1Base : Nat := 2 ^ 36
/-- A curvature record of one block of one granule per factor. -/
def curvRec : List Byte := recOf 128 [(0, 4, 1), (4, 2, 1), (6, 2, 1), (48, 8, hbm1Base + 0x100000), (56, 8, hbm1Base + 0x300000),
  (64, 8, hbm1Base + 0x200000), (72, 8, hbm1Base + 0x400000)]
/-- Site 1 with curvature group 1 in its table; its block of factor A has some status flags. -/
def sCurv (flags : Nat) : State := st [up1, setF (hdrEnable .updt) 1 1, setF UPDT_CURV_BASE (hbm1Base + 0x1000) 1, setF UPDT_CURV_COUNT 2 1,
  setF UPDT_CURV_EN 1 1, hbmPut (hbm1Base + 0x1080) curvRec, hbmPut (cvStatusAddr curvRec 0 0) (leBytes 1 flags)]
/-- A fold of another group runs. -/
def sFolding : State := (updUe 1 fun u => { u with fold := some ⟨1, 1, curvRec, false⟩ }).run (sCurv 0)

/-- A parameter group's record: 64 elements in one chunk, averaged every step, on site 1. -/
def pgBytes : List Byte := recOf 256 [(0, 4, 9), (6, 2, 1), (10, 2, 1), (16, 4, 64), (32, 8, hbm1Base + 0x10000), (48, 8, hbm1Base + 0x20000),
  (96, 8, hbm1Base + 0x30000), (104, 8, hbm1Base + 0x38000), (128, 8, hbm1Base + 0x40000), (224, 8, 6)]
/-- An update of group 1 at an instruction of its program. -/
def ueRun (prog : List Nat) (pc : Nat) (ph : UePhase) : UeRun :=
  ⟨1, pgBytes, prog, 7, ph, 0, 0, pc, List.replicate 32 (List.replicate 64 (0x3F800000, false)), [], [], false, none, false, false, 0, 0, [], []⟩
/-- Site 1 with parameter group 1, and an update that may run. -/
def sUe (r : Option UeRun) : State := st [up1, setF (hdrEnable .updt) 1 1, setF UPDT_PG_BASE (hbm1Base + 0x2000) 1, setF UPDT_PG_COUNT 2 1,
  setF UPDT_PG_EN 1 1, hbmPut (hbm1Base + 0x2100) pgBytes, hbmPut (hbm1Base + 0x40000) (digBytes 0 6 0 0 0), setF HLTH_LEVEL 3,
  updUe 1 fun u => { u with run := r }]

/-- An update of group 1 whose chunks are done. -/
def runDone : UeRun := ueRun [] 0 .finished
/-- Its state. -/
def sUeDone : State := sUe (some runDone)
/-- A record of an UPDATE waits in the window of site 1, whose pipeline is busy. -/
def sUeWin : State := (upd (.fifo 17 [⟨0, 0, recOf 32 [(0, 1, 2), (2, 2, 1)], false⟩])).run sUeDone

/-- A ledger entry of group 1 on site 1, in a state. -/
def sLedger (state : Nat) : State := (acts [setF UPDT_LEDGER_BASE (hbm1Base + 0x3000) 1, setF UPDT_LEDGER_COUNT 1 1, setF UPDT_LEDGER_EN 1 1,
  hbmPut (hbm1Base + 0x3000) (recOf 64 [(0, 2, 1)]), ldSet 1 0 state false]).run (sUe none)

/-- Link 0 is UP and routes, to member 1. -/
def linkUp : Act := acts [setF LINK_LSTATE 2 0, updLink 0 fun x => { x with joined := true }]
/-- A fetch of n chunks from member 1, with a deadline in d impressions or none. -/
def feRec (n d : Nat) : List Byte := recOf 64 [(0, 1, 1), (2, 2, n), (6, 2, d), (8, 6, 7), (16, 8, 2 ^ 50 + hbm1Base + 0x1000000),
  (24, 8, 2 ^ 50 + hbm1Base + 0x2000000), (32, 8, 2 ^ 50 + hbm1Base + 0x40000), (40, 6, hbm1Base + 0x5000000), (56, 6, hbm1Base + 0x60000)]
/-- A chunk's bytes; a chunk of other bytes. -/
def chunkA : List Byte := List.replicate 16 7
def chunkB : List Byte := List.replicate 16 8
/-- A fetch in progress. -/
def fe (n : Nat) (dig : Option Nat) (reads : Nat) (dl : Option Nat) : Fetch := ⟨feRec n 0, 0, dig, reads, dl, 0, 0, 0, none, 1⟩
/-- Site 1 with fetches in progress and a route to member 1. -/
def sFe (l : List Fetch) : State := (acts [linkUp, updUe 1 fun u => { u with fetches := l }]).run (sUe none)
/-- The same in an impression. -/
def sFeSync (l : List Fetch) : State := (acts [setF PRES_ROLE 2, setF PRES_PERIOD_CUR 20000, updPress fun p => { p with synced := true }]).run (sFe l)
/-- The record of a fetch of n chunks is staged. -/
def sFeStaged (n : Nat) : State := (each (List.range 16) fun i => setF UPDT_CMD_W (recLE (feRec n 5) (4 * i) 4) 1 i).run (sFe [])

/-- An audit of group 1 is asked for; its chunk agrees with its digest, or not, or the digest is of another step. -/
def sAudit (dig step : Nat) : State := (acts [hbmPut (hbm1Base + 0x40000) (digBytes dig step 0 0x3FFF 0),
  updUe 1 fun u => { u with audits := [(1, 0)] }]).run (sUe none)
/-- A failed chunk's verifier, member 1, is being read. -/
def sReadback (fl : Nat) : State := (acts [linkUp, hbmPut (hbm1Base + 0x40000) (digBytes 0 6 fl 1 0x1000),
  updUe 1 fun u => { u with readback := [(1, 0)] }]).run (sUe none)
/-- A snapshot of group 1 may be frozen. -/
def sFreeze (r : Option UeRun) : State := (setF UPDT_SNAP_GROUP 1 1).run (sUe r)
/-- Its stream runs. -/
def sStream : State := (updUe 1 fun u => { u with snap := some ⟨1, pgBytes, true⟩ }).run ((setF UPDT_SNAP_STATE 1 1).run (sFreeze none))

/-- Solver Engine 15 is up; its context 31 has a mode and state, of one element. -/
def sSolv (mode state : Nat) : State := st [updUnits fun u => { u with up := [.solv 15] }, setF (hdrEnable .solv) 1 15, setF SOLV_CMODE mode 15 31,
  setF SOLV_CSTATE state 15 31, setF SOLV_CN 1 15 31, setF SOLV_CCOUNT 1 15 31, setF SOLV_ZROW 1 15 31, setF SOLV_ITERS 1 15 31,
  setF SOLV_TAU 0x3F800000 15 31, setF SOLV_NFRAMES 1 15 31]
/-- A GO record of context 31, without a deadline. -/
def goRec_ : List Byte := recOf 32 [(0, 1, 4), (1, 1, 31), (2, 2, 3)]
/-- A GO of a start in impression 0 and a deadline. -/
def go_ (dl : Nat) : SolvGo := ⟨dl == 0, true, false, 0, dl, 0⟩
/-- A solve of a batch of one system of one row. -/
def solveB : Solve := { solve0 with x := [[0]] }
/-- The context's batch has its row's place. -/
def sBatch (state : Nat) : State := (updCtx 15 31 fun x => setRow x 0 0 ⟨[0], [0], some 0, some 0, some 0, 0, true, false⟩).run (sSolv 5 state)
/-- A record stands in the engine's stream. -/
def sStreamRec (r : List Byte) (s : State) : State := (upd (.fifo 79 [⟨0, 0, r, false⟩])).run s

/-- The GO record is staged, its context idle or solving. -/
def sGoStaged (solving : Bool) : State := (acts [each (List.range 8) fun i => setF SOLV_GO_W (recLE goRec_ (4 * i) 4) 15 i,
  onlyIf solving (updCtx 15 31 fun x => { x with
    go := some (go_ 0)
    solve := some solveB })]).run (sBatch (if solving then 4 else 1))

/-- Context 31 waits for its start, runs, or was pre-empted. -/
def sRunnable (state : Nat) : State := (acts [updCtx 15 31 fun x => { x with
    go := some (go_ 0)
    solve := if state = 5 then some solveB else none }]).run (sBatch state)
/-- Context 31 runs, and its deadline, if it has one, is reached; context 0 of higher priority is runnable. -/
def sRunning (mode dl : Nat) (v : Solve) : State := (acts [setF PRES_ROLE 2, setF PRES_PERIOD_CUR 20000, updPress fun p => { p with synced := true },
  setF SOLV_CMODE mode 15 31, setF SOLV_CSTATE 4 15 31, updSolv 15 fun e => { e with run := some (15, 31) }, setF SOLV_PRIO 1 15 0, setF SOLV_CSTATE 3 15 0,
  updCtx 15 31 fun x => { x with
    go := some (go_ dl)
    solve := some v }]).run (sBatch 4)

/-- A solve of curvature block 0 of group 1's factor A ends, while an update reads the shadow slot its delivery writes. -/
def sShadow : State :=
  let r := { ueRun [0] 0 .vector with
    rec_ := recOf 256 [(0, 4, 0x49), (14, 2, 1)]
    pvSlots := [1] }
  (acts [updUe 1 fun u => { u with run := some r }, updUnits fun u => { u with up := [.solv 15] }, setF SOLV_CMODE 4 15 31,
    setF SOLV_CSTATE 6 15 31, setF SOLV_SRC_KIND 1 15 31, setF SOLV_SRC (1 + 16) 15 31, updCtx 15 31 fun x => { x with
      go := some (go_ 0)
      solve := some { solveB with outcome := some 3 } }]).run (sCurv 0)

/-- A group of some members of stage 1. -/
def grpOf (p : Nat) : List Byte := recOf 256 [(0, 1, 1), (1, 1, p), (2, 1, 1), (3, 1, 1), (10, 2, if p = 2 then 1 else 0)]
/-- An OPEN record, or an ABORT's. -/
def openRec (ty b1 len : Nat) : List Byte := recOf 64 (if ty = 2 then [(0, 1, 2), (2, 2, 7)] else
  [(0, 1, 1), (1, 1, b1), (2, 2, 7), (8, 4, len), (12, 2, 1023), (16, 6, hbm1Base + 0x10000), (24, 6, hbm1Base + 0x20000), (32, 6, 1)])
/-- An open sheaf of tag 7. -/
def shf (b1 p : Nat) (ph : SheafPhase) (expo : Option Int) : Sheaf :=
  ⟨7, 0, openRec 1 b1 512, grpOf p, ph, false, expo, noExp, noExp, 0, [], [], [], [], [], [], [], [], epiNone, 0, 0, 0, noExp, [], 0⟩
/-- The reduction engines are up, with open sheaves and an OPEN record staged. -/
def sShef (p : Nat) (l : List Sheaf) (r : List Byte) : State := st [updUnits fun u => { u with up := [.stack 1, .ue 1, .linkDie 0] }, setF HLTH_LEVEL 3,
  setF (hdrEnable .shef) 1 0, linkUp, setF SHEF_GROUP_BASE (hbm1Base + 0x3000), hbmPut (hbm1Base + 0x3000) (grpOf p), setF SHEF_PARK_MIB 1,
  each (List.range 16) fun i => setF SHEF_OPEN_W (recLE r (4 * i) 4) 0 i, updShef fun v => { v with open_ := l }]
/-- The same in an impression at its deadline. -/
def sShefLate (x : Sheaf) : State := (acts [setF PRES_ROLE 2, setF PRES_PERIOD_CUR 20000, updPress fun p => { p with
    synced := true
    imp := 200 }]).run (sShef 2 [x] [])

/-- A block of the sheaf's stage 1, of 32-bit or 64-bit carriers. -/
def blk (gen e w : Nat) (mm : Bool) : SheafMsg := .block 7 gen 1 0 e w 0 mm [] (List.replicate 512 3) []
/-- The sheaf's generation 0 is closed. -/
def sShefClosed : State := (updShef fun v => { v with closed := [(7, 0)] }).run (sShef 2 [] [])
/-- A sheaf in its first stage with its own block summed, and the other member's, or not. -/
def shfStage (n : Nat) : Sheaf := { shf 2 2 (.stage 1) (some 0) with accs := [⟨1, 0, n, 0, List.replicate 512 4, List.replicate 512 0, List.replicate 512 false⟩] }
/-- A sheaf of one member whose shard is ready. -/
def shfReady : Sheaf := { shf 2 1 .ready (some 0) with
  vals := [1, 2]
  cls := [0, 0]
  marks := [false, false] }

/-- A placement command of an object handle. -/
def optCmd (ty h : Nat) : List Byte := recOf 64 ([(0, 1, ty), (4, 4, h)] ++ (if ty = 0x11 then [(8, 1, 1), (16, 8, 4096), (24, 8, hbm1Base + 0x100000)]
  else if ty = 0x12 then [(8, 1, 0), (16, 8, hbm1Base + 0x300000)] else []))
/-- An entry of the table: VALID in HBM, of one page at an address, MOVING to another or not. -/
def optEntry (moving : Bool) (a tier : Nat) : List Byte := recOf 64 [(0, 1, 1), (1, 1, b2n moving), (4, 4, 9), (8, 8, 4096), (16, 8, a),
  (32, 8, hbm1Base + 0x300000), (40, 1, tier)]
/-- The last handle's entry stands in a table on site 1; a command is staged. -/
def sOpt (e r : List Byte) : State := st [up1, setF (hdrEnable .optb) 1, setF HLTH_LEVEL 3, setF OPTB_OPT_BASE (hbm1Base + 0x1000000), setF OPTB_OPT_EN 1,
  hbmPut (hbm1Base + 0x1000000 + 64 * 65535) e, hbmPut (hbm1Base + 0x100000) (List.replicate 8 7),
  each (List.range 16) fun i => setF OPTB_OPT_W (recLE r (4 * i) 4) 0 i]
/-- The command stands in the memory window of site 1. -/
def sOptWin (e r : List Byte) : State := (upd (.fifo 1 [⟨0, 0, r, false⟩])).run (sOpt e [])
/-- An address of a datum that no range check turns away. -/
def dataA : Nat := hbm1Base + 0x100000

/-- The last handle's move is under way. -/
def sMove (a tier : Nat) : State := (upd (.moves [(65535, 0)])).run (sOpt (optEntry true a tier) [])
/-- A PREFETCH of the last handle's object to site 1: flags, length, status address. -/
def pfRec (flags len sts : Nat) : List Byte := recOf 64 [(0, 1, 1), (1, 1, flags), (4, 2, 65535), (16, 8, len), (24, 6, hbm1Base + 0x400000), (56, 6, sts)]
/-- A prefetch is at the window's front. -/
def sPfWin (r : List Byte) : State := (acts [setF (hdrEnable .hbmc) 1 1, setF PRES_ROLE 2, setF PRES_PERIOD_CUR 20000, updPress fun p => { p with synced := true },
  upd (.fifo 1 [⟨0, 0, r, false⟩])]).run (sOpt (optEntry false dataA 0) [])
/-- A prefetch waits, or is bound to its object. -/
def sPf (moving : Bool) (p : Pf) : State := (setPfs 1 fun _ => [p]).run (sOpt (optEntry moving dataA 0) [])
/-- A place past the end of site 1. -/
def badA : Nat := 2 ^ 46

/-- Site 1 is reachable by other devices, or not; lend window 15 covers two MiB of it and is enabled for node 9 or not. -/
def sPeer (mode en : Nat) : State := st [up1, linkUp, setF PEER_PEER_MODE mode, setF PEER_LW_BASE (hbm1Base + 0x1000000) 0 15, setF PEER_LW_SIZE 1 0 15,
  setF PEER_LW_EN en 0 15, setF PEER_LW_BORROWER 9 0 15]

/-- A page of flash. -/
def page : List Byte := List.replicate 4096 6
/-- The last page of the bulk region. -/
def lastPage : Nat := 0x0746A5288000 - 4096
/-- Flash with a number of pages in its buffer; its bulk region worn or not. -/
def sFlash (n : Nat) (worn : Bool) : State := st [setWbuf n, setF FLSH_BULK_STATE (b2n worn), setF FLSH_RD_LIMIT_TLC 1000, setF FLSH_WEAR_SPREAD 10,
  look fun s => upd (.flash { s.flash with refusing := n == 5 })]

/-- The last word of HBM site 10. -/
def lastWord : Nat := 0xB2D05E000 - 8
/-- Site 10's patrol runs, over storage whose last word holds an error in bit 63. -/
def sPatrol : State := st [updUnits fun u => { u with up := [.stack 10, .ue 10] }, setF INTG_PATROL_EN 1 186, setF BKGD_ACT_EN 1,
  memPut (.hbm 10) lastWord (List.replicate 8 255), upd (.syn (muBase (.hbm 10) + lastWord) [cols72.getD 63 0])]
/-- An INTG page is enabled, its scrub set up or running. -/
def sIntg (busy : Nat) : State := st [updUnits fun u => { u with up := [.stack 10, .ue 10] }, setF (hdrEnable .intg) 1 186, setF (hdrPoisoned .hbmc) 1 10,
  setF INTG_SCRUB_LEN 4096 186, setF INTG_SCRUB_BASE (10 * 2 ^ 36) 186, setF INTG_SCRUB_BUSY busy 186, setF INTG_SCRUB_EVT 1 186, setF INTG_SUM_WORDS 5 186]
/-- A mask of bits 0 and 70 is armed for the HBM of site 10. -/
def sArmed : State := (acts [setF INTG_FLIP_ARMED 1 186, setF INTG_FLIP_LO 1 186, setF INTG_FLIP_HI 64 186]).run (sIntg 0)

/-- A token message to a node. -/
def tokMsg (dst : Nat) : FabMsg := ⟨dst, 9, 0, 0, 1, .none, .token 0 255 3⟩
/-- Units that let links train are up. -/
def upLinks : Act := acts [updUnits fun u => { u with up := (List.range 8).map .tile ++ [.stack 1, .ue 1, .linkDie 0, .linkDie 11] }, setF POWR_REFCLK 2]
/-- Link 0 with a window open, its hidden state changed, in a state of LSTATE; a far request keeps the lane. -/
def sLink (f : LinkSt → LinkSt) (state : Nat) : State := st [upLinks, linkUp, setF HLTH_LEVEL 2, setF LINK_LSTATE state 0, updLink 0 f,
  setF LINK_LROLE 1 0, setF LINK_LANES 16 0, setF (hdrEnable .link) 1 0, updPress fun p => { p with open_ := [0] }]
/-- A LINK_CTL flit. -/
def ctl (nak : Option Nat) (req : Bool) : LinkCtl := ⟨4, nak, false, req, false, 15, List.replicate 18 7, []⟩
/-- Two messages sent and not acknowledged: flits 4 and 5. -/
def sent2 (x : LinkSt) : LinkSt := { x with store := [(4, tokMsg 1), (5, tokMsg 1)] }

/-- An operation of queue 6 of the last physical tile is in flight; a fetch, a prefetch and an audit wait for answers. -/
def sAsks : State := (acts [updQueue 159 6 fun x => { x with inflight := [⟨65535, false, 0, 0, 0, 0, 0, 0, [], false, [], 0, false, [], []⟩] },
  updUe 1 fun u => { u with
    fetches := [fe 2 none 0 none]
    readback := [(1, 0)] }, setPfs 1 fun _ => [⟨pfRec 0 4096 0, some (1, 0, 0), false⟩]]).run (sUe none)

/-- A lane of link 0 is retrained; the link runs on 15 lanes for good or not. -/
def sRetrains (degraded : Nat) : State := (acts [setF LINK_RETRAINING 1 0, setF LINK_LANES 15 0, setF LINK_DEGRADED degraded 0]).run (sLink id 2)

/-- An accepted SPARE_ASSUME takes effect in this impression. -/
def sAssume (rel : Bool) : State := (acts [setF PRES_ROLE 2, setF PRES_PERIOD_CUR 20000, setF LINK_HOME_ID 768, updPress fun p => { p with
    synced := true
    imp := 6 }, updFab fun f => { f with assume := some (rel, 2, 6) }]).run (sLink id 2)

/-- A plan of one slot of kind 1: header with one stage's mask (tile 143), one slot record. -/
def planBytes_ : List Byte := recOf 264 [(1, 1, 1), (2, 1, 230), (4, 2, 1), (64 + 17, 1, 128), (256, 4, 0x70041)]
/-- The plan lies at PLAN_BASE on site 1; enabled or not. -/
def sPlan (en : Nat) : State := st [up1, setF PRES_PLAN_BASE (hbm1Base + 0x1000), hbmPut (hbm1Base + 0x1000) planBytes_, setF PRES_PLAN_EN en]
/-- A slot that raises the last counter it can on tile 143, with a prefetch at a point. -/
def slot_ : PlanSlot := ⟨1, 0, true, 7, 65535, 16384⟩
/-- Its plan. -/
def plan_ : Plan := ⟨1, 230, true, [2 ^ 143, 0, 0, 0, 0, 0, 0, 2 ^ 143 + 1], [slot_]⟩
/-- An edge is planned. -/
def sPlanEdge : State := (acts [setF PRES_ROLE 2, setF PRES_PERIOD_CUR 20000, setF PRES_PLAN_EN 1, updPress fun p => { p with
    plan := some plan_
    heard := true
    edge := some ⟨6, 20000, false⟩ }]).run s0
/-- A slot's prefetch is due, or has been. -/
def sSlot (due : Bool) : State := (acts [updPress fun p => { p with
    slot := some (plan_, slot_)
    pfDue := due
    synced := true }, setF PRES_PERIOD_CUR 20000, setF PRES_ROLE 2]).run s0

/-- A reimposition is armed or moves chunks, with some to move; impressions go on. -/
def sRi (state : Nat) (l : List RiTask) : State := (acts [setF PRES_ROLE 2, setF PRES_PERIOD_CUR 20000, updPress fun p => { p with
    synced := true
    imp := 5 }, setF MGMT_RI_STATE state, setF MGMT_RI_START 5, setF MGMT_RI_END 5, setF MGMT_RI_STAGE 0x2000000, setF MGMT_RI_NEW_BASE (hbm1Base + 0x70000),
  setF MGMT_RI_NEW_COUNT 1, hbmPut (hbm1Base + 0x70000) (recOf 32 [(0, 2, 9), (4, 2, 2), (7, 1, 1), (16, 8, hbm1Base + 0x3000000)]),
  hbmPut (hbm1Base + 0x40000) (digBytes 0 6 0 0 0),
  upd (.ri ⟨l, []⟩)]).run (sUe none)
/-- The chunk of group 1 moves within site 1. -/
def task1 : RiTask := ⟨1, 0, hbm1Base + 0x10000, hbm1Base + 0x10000, hbm1Base + 0x40000, hbm1Base + 0x3000000, none⟩
/-- The same before the impression of its start. -/
def sRiEarly (state : Nat) : State := (updPress fun p => { p with imp := 4 }).run (sRi state [])

/-- The port is up, priority 3 lossless, with addresses; PTP has seen good or bad intervals. -/
def sEth : State := st [setF ENET_LINK_UP 1, setF ENET_PFC_EN 8, setF ENET_VLAN_EN 1, setF ENET_VLAN_ID 5, setF ENET_IP4 0xC0A80001, setF ENET_IP6_LO 1, setF ENET_IP6_HI (2 ^ 61),
  setF ENET_MAC 0xAABBCCDDEEFF, setF (hdrEnable .enet) 1]
/-- A frame of an EtherType no service takes, on a priority. -/
def frame (p fill : Nat) : EthFrame := ⟨64, [(5, p)], 0x1234, [], fill, 0⟩
/-- XOFF has been sent for priority 3. -/
def sXoff : State := (updEth fun e => { e with xoff := 8 }).run sEth
/-- PTP intervals so far, locked or not. -/
def sPtp (good bad lock : Nat) : State := (acts [updEth fun e => { e with
    ptpGood := good
    ptpBad := bad }, setF ENET_PTP_LOCKED lock]).run sEth

/-- A queue-pair context: state, PMTU 256, retries, RECV_WIN. -/
def qpc (state psn rw : Nat) : List Byte := recOf 64 [(0, 1, state + 16), (1, 1, 7 * 9), (2, 1, 1), (12, 3, psn), (38, 1, rw)]
/-- A window record over four KiB of site 1, with a ring of 256-byte slots gated by counter 255 of tile 143. -/
def win (fl : Nat) : List Byte := recOf 32 [(0, 1, fl), (2, 2, 0xFFFF), (4, 4, 77), (8, 6, hbm1Base + 0x1000), (16, 6, 4096), (24, 2, 256), (28, 1, 255), (29, 1, 143)]
/-- Queue pair 255 in a state, window 62 in place, the staging registers filled. -/
def sQp (state fl : Nat) (staged : List Byte) : State := (acts [updUnits fun u => { u with up := [.stack 1, .tile 151] ++ (List.range 8).map (fun k => .tile (80 + k)) ++ [.stack 6] },
  each (List.range 16) fun i => setF ENET_CTX_W (recLE staged (4 * i) 4) 0 i,
  updEth fun e => { e with
    qps := if state = 0 then [] else [(255, { Qp.init with
      ctx := qpc state 0xFFFFFF 62
      unacked := [(0xFFFFFE, 1, [1]), (0xFFFFFF, 2, [2]), (0, 3, [3])]
      retries := 2 })]
    wins := [(62, ⟨win fl, 15⟩)] }]).run sEth
/-- A request on queue pair 255. -/
def req (psn : Nat) : RdmaReq := ⟨255, psn, false, 0⟩
/-- A credit stands at the window's counter. -/
def sQpCredit : State := (addToken 151 255 1).run (sQp 2 9 [])

/-- The retries of queue pair 255 are used up. -/
def sQpSpent : State := (updQp 255 fun x => { x with retries := 7 }).run (sQp 3 7 [])

/-- The Slaiq port is up, and its last ALLOW entry covers every source. -/
def slqUp : Act := acts [setF ENET_LINK_UP 1, setF ENET_MTU 9000, setF (hdrEnable .slqp) 1, setF SLQP_ALLOW_EN 1 0 7, setF SLQP_CMD_OK 1 0 7, setF SLQP_PLEN 0 0 7,
  setF SLQP_SESSION_IDLE 1000]
/-- A request datagram. -/
def slq (ty : Nat) (p : List Byte) : SlqMsg := ⟨5, 6, 0, slMessage ty 0 0 9 0 p⟩
/-- A register entry, of 8 or 16 bytes. -/
def ent (w : Bool) (a v : Nat) : List Byte := leBytes 6 a ++ leBytes 2 0 ++ if w then leBytes 8 v else []
/-- The Slaiq port over site 1. -/
def sSlq : State := st [up1, slqUp]
/-- The same without an ALLOW entry. -/
def sSlqDeny : State := (acts [setF SLQP_ALLOW_EN 0 0 0, setF SLQP_ALLOW_EN 0 0 7]).run sSlq
/-- A session whose response to SEQ 9 is cached. -/
def sSlqCache : State := (upd (.sessions [⟨5, 6, some 9, [(9, [1, 2])], 0⟩])).run sSlq
/-- Storage of site 1 is being zeroed. -/
def sSlqHeld : State := (acts [upd (.zeroing 1 [(0, 1)]), setF HBMC_ZERO_BUSY 1 1]).run sSlq
/-- A read of PRES's CNT_SKIPPED; a write of its PERIOD; reads and writes of HBM; an acknowledgement. -/
def mRead : SlqMsg := slq 1 (ent false (mgdReg 1 0x0BC) 0)
def mWrite : SlqMsg := slq 2 (ent true (mgdReg 1 0x064) 0xFFFF)
def mMemRead : SlqMsg := slq 3 (leBytes 8 hbm1Base ++ leBytes 4 16)
def mMemWrite : SlqMsg := slq 4 (leBytes 8 hbm1Base ++ leBytes 4 32 ++ burst)
def mAck : SlqMsg := slq 7 (leBytes 4 (2 ^ 32 - 1))
/-- A request with a reserved bit set. -/
def mBad : SlqMsg := ⟨5, 6, 0, (slMessage 3 0 0 9 0 (leBytes 8 hbm1Base ++ leBytes 4 16)).set 12 1⟩
/-- Events wait for acknowledgement. -/
def sEvents (r : Nat) : State := (upd (.events [⟨2 ^ 32 - 1, 0x18, 1, 1, 0, r⟩, ⟨3, 0x18, 1, 1, 0, 0⟩] 4)).run sSlq

/-- A word of site 1 carries a mark. -/
def sSlqMark : State := (acts [memPut (.hbm 1) 0 [1], upd (.syn (muBase (.hbm 1)) [0x7F])]).run sSlq

/-- A COMMAND under key 3, with the last counter there is. -/
def cmd (code tag : Nat) (body : List Byte) : SlqMsg := slq 5 (leBytes 2 code ++ leBytes 1 3 ++ leBytes 1 0 ++ leBytes 2 body.length ++ leBytes 2 0 ++
  leBytes 8 (2 ^ 64 - 1) ++ beBytes 32 tag ++ body)

/-- POWER_CAP of 1,500 W. -/
def mCap : SlqMsg := cmd 4 0x29bc29a8245cbee4da56ed788f9da530d0555add9ae75ca6aeb2744c5b88491f (beBytes 8 0xdc05000000000000)

/-- Telemetry of two entries, sent or not. -/
def sTel (on : Nat) : State := (acts [setF SLQP_TEL_EN on, setF HLTH_TEL_COUNT 2, setF HLTH_TEL_LOC 0x18 0 0, setF HLTH_TEL_PAGE 1 0 0, setF HLTH_TEL_OFFSET 0x064 0 0]).run sSlq

/-- FW_INSTALL COMMIT of component 5. -/
def mFwCommit : SlqMsg := cmd 1 0x86976a42ce3d3fe194f9130b81ccec886b1ca5f33a182735d034b4583dc50b8a (beBytes 24 0x020500000000000000000000000000000000000000000000)

/-- KEY_CHANGE REVOKE of key 0. -/
def mKeyRevoke : SlqMsg := cmd 2 0x227c2a7ab6580e456deb91894329e7b22b488766db3c4c680b6e6798ce5e5ded (beBytes 16 0x03000000000000000000000000000000)

/-- RESET. -/
def mReset : SlqMsg := cmd 3 0x1b0b2edd201b1f0e9b10508359744b61396b88559f5f170fdc4f0a83a4b61df1 (beBytes 8 0x0000000000000000)

/-- SPARE_ASSUME of member 2 from impression 6. -/
def mAssume : SlqMsg := cmd 5 0x5c15ba3cc88f4f1903d391a4356d1d40aaf66dd402ab49824d08f0cafed5c488 (beBytes 8 0x0600000000000200)

/-- The release of member 2 from impression 6. -/
def mRelease : SlqMsg := cmd 5 0xd137c46fa26a21cd9effe8c02387830f07b35c77b6bda60bcf58dd1d99c792e2 (beBytes 8 0x0600000000000280)

/-- ZERO_REGION of the blocks 1 and 2 of site 1. -/
def mZero : SlqMsg := cmd 6 0xbfc3702d2acb54f2e7605cdc7822a1ee8f6a896c2cccb98f50ff82b27472ee51 (beBytes 16 0x01000000000000000100000200000000)

/-- DEBUG_UNLOCK to level 2. -/
def mDebug : SlqMsg := cmd 7 0x2eb5b238b0062eb0005bc7d26d3994647dab9840e45ede6343f59f15fced4e90 (beBytes 8 0x0200000000000000)

/-- PRESS_ELECT of this device from impression 9. -/
def mElect : SlqMsg := cmd 8 0x4e287f0713daa4ccd28f3e5c1ec026e94961ba88d9c15645ba75daef2936bba3 (beBytes 16 0x00000000050000000900000000000000)

/-- PRESS_ELECT of another device, this one as its backup. -/
def mElectOther : SlqMsg := cmd 8 0xed6849a9b97f57a549aec0813fa67cc7225941d1e1e32df6decaf88f76bc14e9 (beBytes 16 0x07000040050000000900000000000000)

/-- REIMPOSE to an empty table. -/
def mReimpose : SlqMsg := cmd 9 0x7ceb5625bdd6cb7b1c232458c7237620b60c1702be1304f7a14ded5656abb382 (beBytes 24 0x001000001000000006000000000000000700000000000000)

/-- The Slaiq port with command keys 0 and 3, over pages that commands reach. -/
def sCmd : State := (acts [updNv fun v => { v with keys := [List.replicate 64 2, [], [], List.replicate 64 1] }, updUnits fun u => { u with up := [.stack 1, .ue 1, .linkDie 0] },
  setF (hdrEnable .link) 1 0, setF (hdrEnable .colo) 1, setF (hdrEnable .powr) 1, setF (hdrEnable .pres) 1, setF (hdrEnable .mgmt) 1,
  setF COLO_RUNNING 3 0 4, setF MGMT_RI_STAGE 4096, memPut (.hbm 1) 4096 [1, 2]]).run sSlq
/-- A spare that has assumed a member, or none. -/
def sSpare (as : Option Nat) : State := (acts [setF LINK_NODE_SPARE 1, setF LINK_HOME_ID 768, setF LINK_NODE_ID 768, updFab fun f => { f with assumed := as }]).run sCmd
/-- Site 1 takes requests. -/
def sCmdZero : State := (setF (hdrEnable .hbmc) 1 1).run sCmd
/-- A block of it is WRITE_FIRST. -/
def sCmdWf : State := (acts [setF HBMC_WF_VALID 1 1 0, setF HBMC_WF_BASE 1 1 0, setF HBMC_WF_BLOCKS 1 1 0]).run sCmdZero
/-- A follower. -/
def sCmdFollower : State := (acts [setF PRES_ROLE 2, setF PRES_PERIOD_CUR 20000]).run sCmd

/-- The modulus of a 4,096-bit key, and its private exponent. -/
def modN : Nat :=
  0xb0931fe7e52d07e14daf1be3f63922d0a94e3c1b1ba39d65394e2f7f616978380341191e7145070d0d24a518aeadab9295b676a083f31e73f906d4c95fd2ed7fbe2ee345c7d57137ac7566fd3d5b96e52fb44d7235a46f819f2e36fd1f9b3da5d90e50bafd478043844f1b97efb678137c408f42dc110004fd2e7aea51d976662e04f7023512a1de205a584bc99dd6fb5adab92d49b64be5a20f1cf5175303cd3bd0c36d4b272ade669dd034dbc7de9cfb3a598ced093eb803a0117e26a07610007c2fbf874ecac145d1768ac1691441805a2a542390a973e30b7fbfa4a092f64f43ac265b35cf4660449d1efd5a5d0bdc245aed603dbff9500187a8a879e50187f90e426fc0619d94a13203e5262f531721d3abf9de0e273d5de13506baf2aa2ed0aa1dcbacca1b93079aea1ce14ba6b06f2f740587558ee15aa6fca4826b58dbf185c39b6036e8531ce5cf4f079b2631a0e116d9a93403fc724848273b19d4d524cda6bc7cf2adae2bd9052f4f2e186382f3b25d73f15d9aae8e8d5b61055c881b975dc7d42de2338809cc34407b725d623fe8b30a5075490a5a86fb8cb3a01c1d69073af851d24de5113f2215b835c4b1a66043dc877a2707ce148b5de9b0c1b54b6b4c701144d7a758d2853c954835eb91bf6a527a0d7004d69431d585024eaf23317573f64a9b2eec93de427a8280695fecc460da3c7bc838df868015df
def expD : Nat :=
  0x5b512b2dfd7aa559a2984ddf3e065c77f7272bb4853dbf778b0461520a29c66f8957504b4b1efcbf862d8e684e6628961d7108b688a6e1f7ee30d738f1a29f0af26b4344624d8348dc9ab6d17ebaf035c4cf05426c7586e94d4e5447e1e1a2273432d013744b570d13cee9a150ea57fd13c43b92c346d370c11319a4370234d63134861e111e7ab1ea9f6e8c7b4f72cff933a692c24d51c10767b37d193be87a6a55d3cba113377b5f2c7c71e9bbdae7ea9149a0b53193cb0cacea7f0830f1fde292570b4149c157e4e8a7daa89dd448efbd31a8e3dfbb92e037a130964e28d2d339573d5aec602eb038abdd4bff40a1928f06ab3e9b90bdb9dfa0addbbb766fd07f5f11aae058d0fc6e675dbda0705c4aff06321a3bb0de536e0612c172a6e5c5c6d791fa1ee5e65cf5462660438647893c7cd2f3fc8236e352639717873ea14180205f427627b2b0534e0b4d4ec4eda858208020b500081a264de36ff65f2ee9ba405047603918e07f899d56e1b4f93b2bd5f89807f1bba7b265b55dd40c7d11698a0e6ca754939298731ad26dd32985e6bb3fedcf3aee4805f1289fd40afe4fa4efd4a82f8c9e0f6d30a03f5e74a1bc4cd3e6f4d3749acafc56dd8ffe37c4529a52fe64bc0b7067ab76610272033be55201464834c11b5cb23f9d2843028a9e58d8d903608d9933711a83e9d7e19d92ce7d7ff03c8e44a7649bd5ad0a3d31
/-- A configuration image of one entry, signed. -/
def confImg : List Byte := beBytes 592
  0x0900f1c001010100050000000000000000000000000000000000000000000000000000000000000000000000000000000000000000000000000000000000000001010500000000000000000000000000a89c916cb190b4e853bd55e9053bc7bb0499a1b4e435a0437b43c5ab37b3b22c3a57014bfbfe64a4ec1c824936fffad71e83e21bd189897049d204d3cde41de9464d9b2ca7bd0be4b8b48333210074b6965f9982f851ce8e9fda50b6ebde83b2720ef4aabe87dc0ce3debb3438f13897b7e8a77a3274e850962e16457087266bca639cff1689e1eeeca3c2690e475d51f0d25b580e110526856c0c96dccc2ac9620d002fc890507389de28274f96171ebe78d5cc06b49b516593423ae8ee5d320a15a01ef28b7c297eea28df707f6092168959cf667843aa14ba1ed0f9c94d4c58131877024e7693dbc8f8d345404860ad8a4788aa901f5e3711ebb2a6a7773869d32e028411139d098023fb6906a57900bb80981062357b33dadac6588ff284691b998368f4309b4cab8f4f38b36e40a324195ea6ff8ea0501c69607f5b3d25512ece1cb1a3bad35666fd651df58e2272b699126b10efb98bb56428e9869853e3981d0cc87b3870b9b6c9c46e3a269831d75e4255543771d44fafe24cf4a5aa62a310586b200a24636bc62be92e8dcfb1bcbb5ee0b5034eef1edec03f73021283088b1ca37aada37d4a86660d3253220ee3818f620ad855c6bb8398e004b53223b33b85b50ab3e6243e1774c54addd23d12e32e892663e2690ace021d6652a0427776052eb5c66210281f121413454a0beb6adadc68e71073f51539bc26ee15
/-- An owner's bundle of OWNER_GEN 5 with key 3. -/
def bundle5 : List Byte := beBytes 2072
  0x09004d0e0500000000000000000000000000000000000000b0931fe7e52d07e14daf1be3f63922d0a94e3c1b1ba39d65394e2f7f616978380341191e7145070d0d24a518aeadab9295b676a083f31e73f906d4c95fd2ed7fbe2ee345c7d57137ac7566fd3d5b96e52fb44d7235a46f819f2e36fd1f9b3da5d90e50bafd478043844f1b97efb678137c408f42dc110004fd2e7aea51d976662e04f7023512a1de205a584bc99dd6fb5adab92d49b64be5a20f1cf5175303cd3bd0c36d4b272ade669dd034dbc7de9cfb3a598ced093eb803a0117e26a07610007c2fbf874ecac145d1768ac1691441805a2a542390a973e30b7fbfa4a092f64f43ac265b35cf4660449d1efd5a5d0bdc245aed603dbff9500187a8a879e50187f90e426fc0619d94a13203e5262f531721d3abf9de0e273d5de13506baf2aa2ed0aa1dcbacca1b93079aea1ce14ba6b06f2f740587558ee15aa6fca4826b58dbf185c39b6036e8531ce5cf4f079b2631a0e116d9a93403fc724848273b19d4d524cda6bc7cf2adae2bd9052f4f2e186382f3b25d73f15d9aae8e8d5b61055c881b975dc7d42de2338809cc34407b725d623fe8b30a5075490a5a86fb8cb3a01c1d69073af851d24de5113f2215b835c4b1a66043dc877a2707ce148b5de9b0c1b54b6b4c701144d7a758d2853c954835eb91bf6a527a0d7004d69431d585024eaf23317573f64a9b2eec93de427a8280695fecc460da3c7bc838df868015dfa0fbf3efd52d64ef21e42ca1a534bc0b7f5e9b2e7b8dfa2b274f76ad49b440cee5f8565968c84e6772d552be786d5d166cf05120386091e61aa4ee3da95dff982720aaf8890ef58b33bddbaaf4a7f3c4d27f99dcd29276b728ffc23bd9917b34d84814bc28d11ffd2fb2889123e496a88a00b9f38974107f6734d6120a4345c487b05d2b5cf6ef2f9f11df57eb5f7985a19e8e3fc4fc01f8500a4487d74d052516dde89a1d3c42eb95f81175024dcbd47277879e9747c878ab739daa3cf3cd8ed009e4dcfe00967cad8da18621bcbf1778b07f5b7f7f5445596a4594ebb9ac5c4c84e4b31de92b4ab10e544278b1715268416789c713b5a3cba902b4f92098a7ce9846ca1ccc9ef45ede8d3a71f8e2a47b1f59722a5ef616505b66a75fe52ee69dc9ed3f9007fbb6ae3e086a63d9375b2b849af49a076942c6bea74a31e77e89f2649143646fa23f166745e024a190710bf8dc45c88e536d95c7b4b5a4d74f6cb795825db6f61ce645753ff4de1efbdad3473afe343286a165aa8f7d8d7069f1cec1993aa92e8dacd63d3d65f31833d95d9f1bc1b23f4cb13d77d8e04f158f8174acedd8b4fdcf0112ba48d5f0ed37bd30fd9cfa00e97748950076a05d1a38add96fb9384d8b5bb5bd5dfd0bbd46e51e550be9bfe1fe82c74bd05677b88e361c5fe15f1e5b7aacbdcd288d2d34bc483dfd92b21afad0a8296359d23c6989e6a01c1158112a05bf87472d87d94523630672a146ce8e380731d22412ba9a2018c9a07b87f8f8eb6f84744b09f138c2403622f275478b52ba3bf16baaf0c5afed488cde37bbf7fb83494a9ce890a323b7d1aa620d25a07f0e0f7932902e6a6d62ead0b73eb83068bcaa2fe41ec0eca57ff890ab7678853c187bd51d252138fc734fc433674fe3837f2353df2ddb7f81e31621f48a5a37921f3b9622ea0ba650951880a2588430beea41fdd1971b64a46357e23d8fd4b7b229e8a5b881d15137a754bf5de7701c47f021a6ae0e9b2dadd28e8de778fe82a2a7b4b757ca897ce7f3649f4bd7b3987601cf834623a663ac6535d6958905f04dffde9a5a79e729b28d6ff3f9f2c50789771fb5b7df44da25f1d72adfb2a75074609d25f48403ff1b35b59477f1b67f82a2cc9e14e80440f5ed9c5666ad51690215ccdd466a2873366aa190d12b4ff18e2f1064e088361b971258264f377a2d73fecbc7758fb5f944fe4d41040733f2d41484e2e6754300ba868c636463f93905d644ff6c22e65fe358f74dee9e8b0806c9d3a76be81f0fb5bbabb79034ef45ef2be04154204209d6c0df927e5086f7444566fd6a015ebd0862adf1f9432108581735165f4e161ee049c7afcb17f919b55e858f3e32396409ab0eead0a71739bb36e23ee9815d60175890035eac69a744d04e2a50c24470b33cdfbbc70de4e7ce1a3d0cdb5412fa54d2e31c5249a825537d94eac82a1f69654f5e4cc84d774bb7004803d5a1964c4aadc5705f78eec62de2510a5311021fff5076b0bbef53f282bf4c1f541a6a051601acb6b6d74ab0cbfdf8d57f799f55eeaa50f0676bfd349df4047aae60c95c325712db0806f191ead0ff38a892df62229955415eae32c7a9d12a1262a373a8aebfdac2cdd2b6f7bfc2ddff7b1692c1edda0b9539b4d8296b11b2a71c178d58046ecdecee0e98fb2166d91fa0adcaaa662fed4e20b42bbcec689089875692e0d0f9e4df494a77fcbd9b8ff46505047c9be3da7760966d2522951b35e42073da037001e27bb28b609de78a2ef3c8f08900c5a2a37216f478e887d568ff4785a2841bdd2db8a0529f8be7eda7921ff9399d3667ac85b78949f9cd1391c6674f715528191af98ca2ed9b3dfce345f1b795d72db8cbb84af69abcf277b0ba60db37d2f39b1586d2d5d8167dbfac14508d0a1f5656cd132b9a7394054371dca13560eba7993716467080161c533c5d9472f1716932639399a11bab41f380cfd8e3aa6f850faf86288060cc5cf73665689e023ab14391505be8a2783d68b1e16c4e647b0d7be39dd7cb0eb3d07b336fdebbc832b9fa5d0cbb6ab9930433e07780bb81cae6629300322553f74d8adec2f0f4aa0bfd21455d9be544681a2f43a7ea3a9d21e4dddd19df1f978bb237166646dd144bb6ca22176b4cbe542b60515970063b1352e5

/-- A provisioned device under its owner, with an image in HBM. -/
def sOwned (img : List Byte) : State :=
  let s := (acts [updNv fun v => { v with
      owner := some (modN, 5)
      slots := [(List.replicate 64 0 ++ beBytes 512 modN, []), ([], []), ([], []), ([], []), ([], [])] }, setF COLO_IDENTITY_OK 1,
    memPut (.hbm 1) 0x10000 img]).run sCmd
  { s with factory := ⟨0, 0, beNat (sha512 (beBytes 512 modN)), modN, expD, [], 0, true⟩ }

/-- FW_INSTALL STAGE of the device configuration image. -/
def mFwStage : SlqMsg := cmd 1 0xdc88a6c42e26622ba566faae08557a40148ef0e3f55f82b1f6828962a07ea963 (beBytes 24 0x010500000000000000000100100000005002000000000000)

/-- KEY_CHANGE ROTATE. -/
def mKeyRotate : SlqMsg := cmd 2 0x172cde1e6ae1205cf8c65ecfe447edb7fd5a395cdb5f5d5c7f643a0d5b218a7e (beBytes 16 0x01000000000000000000010010000000)

/-- KEY_CHANGE TRANSFER. -/
def mKeyTransfer : SlqMsg := cmd 2 0x2c62e35e387d2eca50afc572196f38c7b2aab1b28645b7672328f58900840345 (beBytes 16 0x02000000000000000000010010000000)

/-- A device of an earlier OWNER_GEN. -/
def sOwned4 : State := (updNv fun v => { v with owner := some (modN, 4) }).run (sOwned bundle5)

/-- A quote, or a copy of the certificate, is under way. -/
def sQuote (op : Nat) : State := (acts [setF COLO_COLO_BUSY 1, updBoot fun b => { b with op := some op }]).run s0

/-- A device without an owner, a bundle in HBM. -/
def sEnrol : State := (acts [updNv fun v => { v with owner := none }, setF COLO_ENROL_ADDR (hbm1Base + 0x10000)]).run (sOwned bundle5)

/-- A job configuration image of one entry, JOB_SEED, signed. -/
def jobImg : List Byte := beBytes 592
  0x0900f1c002010100050000000000000000000000000000000000000000000000ffffffffffffffff00000000000000000000000000000000000000000000000001020500000000004d000000000000001305ea02a0b354ecfcf3ce984a982ac9d52a912c701531dba8384bf0aad99681aebfa992d32dfed5523112bcefaead2357be58bf2790eb511e017775c7cc3b1a1dcb7cbb7d8dadcc249b697e169458fc1a0ccdb48e426a29e8aec9c5f11413513a12e576dcab0a85a1bcca92f783c58f9c720ae7e504d32f4ed8d76cfaf5e6e90828dcd7df6b2abf04b24c0769a50aab056999331d3adc2366fb971eca5971ebd73c6753218c2f21d89ba51ab8f0f072e6bd7167dc7a2c481c93e3cbaafa80c6ee9aee1b61a3460a5b3f9694df3052052198dff50744f3d3c51033311e8555182f69a8ffce3b3d7100b5c0bc98ffe9f00cc10256f77ec5c63e7622954449e04220f89fa86f1f5e14af41ff96a022db35f8e3cf76baf40e56118c4cce1600b00e01db24e8cf003988b3909f6e92667125e03558195801632fd909d6a14fef19f7cc5da7538ca664b0162be957bbca67831b3b77edbd9ff72c3f2a0b6e4a53354fb893c22e823e290140e57753c6cf4b4574b505857901bc6282d737d342516f3f60843c24f9f202567acaff71162463d4782c4dee3cb6e7aa89e309d11230d9aef98b8c084ef1b249c18acc20721a7c6da52c77e5e8ad0f8274c070512ae15cc8bcf65d2177e2b6f4dc6446efbabeb81c52c718ebad52bf7a453f8212811fda48b2a158e88dab4b50fd2c2e4b53d8b61ac7871f0d412390572078bae99851b9f5

/-- It stands in HBM, or has been taken. -/
def sJob : State := (acts [setF (hdrEnable .conf) 1, setF CONF_JCI_ADDR (hbm1Base + 0x10000), setF CONF_JCI_LEN 592, setF CONF_REPORT_ADDR hbm1Base, setF HLTH_LEVEL 2]).run (sOwned jobImg)
def sJobTaken : State := (updBoot fun b => { b with jci := some jobImg }).run sJob

/-- Boot has begun and stands before a stage; the units of a device rise. -/
def sBoot (n : Nat) (img : List Byte) : State :=
  (acts [updBoot fun b => { b with
      live := true
      stage := n - 1 }, updUnits fun u => { u with up := [.stack 1, .ue 1, .tile 0] },
    setF CONF_DCI_VALID 1, updNv fun v => { v with slots := List.replicate 4 (img, []) ++ [(confImg, [])] }]).run (sOwned [])
/-- The same without a configuration image, or a valid one before. -/
def sBootNoDci (n : Nat) : State := (acts [updNv fun v => { v with slots := List.replicate 5 ([], []) }, setF CONF_DCI_VALID 0]).run (sBoot n [])

/-- The first 576 bytes of a firmware image of a component, SEC_VERSION 3, with 4,096 bytes of body. -/
def fwHead (c : Nat) : List Byte := leBytes 4 0xF1A90009 ++ leBytes 1 c ++ leBytes 3 1 ++ leBytes 4 3 ++ leBytes 4 4096 ++ List.replicate 48 0 ++ beBytes 512 modN
/-- Their signatures, components 1 to 4. -/
def fwSig : Nat → Nat
  | 1 => 0x5d81bc23f9319c5ea654632ce7c420c1ec79d538d3824092839d53fa5a81a60f5246545743ced3b43c7fc202ee4c521b17f766417cc2cebe294706d0b1cf782f95c9b474e2308dabc4c3a661429f341db849bfbdcdcaa7d0b3b44a927517325db715ca3e709cb48f0b89e7641aa8274455478e45684ea4ccd57cb27309f38d6f8b59ec794d1120b4c9bd17784d16d4033c0c9e283a8394593240d05a758963658ea1c1c529862e0286802b56ef5b880ccd5cf46db579c77bfb8b83b127b21cc021ca700f73e1f98c3dffe1b097b235afe4ce434511e6b36cefa7176fa4cb35316427a2cf122606ba06b9bc255d47494276c209f11847516b427ad0cc38cc533bd7939250ebbaf6362574ec86c17d8688840670f30227e6a9b11085b0e27038a0c7456f4966aa558ef8e4e099b6bec2eec8f9b0435843f772193fea198774639d8ceac57d3b20a75b3f305e029199297fd987907eaae65401a2bc3eded287f24778c70c4a2b81e2b82ae0c789c3d3f4a083133e211c1c0f781cdac17feefd7f66124d28c9d8677d33b64d3b19495b6524aed98199fe008dcf9185081309f27f8882b503817e6384be6ffbfe3001b283a9c56c80148d316ff7f0feb6cac55864dff4bf8019c20b0caa3d13f498fdb86ba7c4511845223d0e7b0b0b748cf05c73e1972c5d9d687a5cd1bba06f3fe05c76add16c121b14dba61f642674088536791c
  | 2 => 0x056c2ec85e6d354a9a9efeb5678d6b8602bfa991297e385cef1210705ba7ca89f018bd9a0981fa7fa11da6b0154245b86871d8d16c377820865d4e4d8cee15c342a4224636119785bd219090125ea59f151184942a05b2ac98f2d48f90977959d1b731742847cd3abbd6a51f50911cb702c3da58ac9b20aab11dd2b757592b52a6c408f7790dcf666baac44bc49ab76096f4ee39a27d63823d32c6b86c971557de94729c0abc1d9c3f9a4155ca52467619303fc64e79a0d0a1f8ab22ced603b53e4974e2bb6639b0c6dcf1df0488e8e6e87a59a54081d6c7403f942092a71edeb45a319a4ff8bb14d137a608da40fad45f3548f4d127b7479d3619772ce7adc3f93603f516eb8bf464a8a3b374d309c560bea9e755da9ceb3f769023a6615d0688a59ff7d426da0e1db81f11f43f761749070610f1a7c8791deeabf471785c2b81228ddbda990c1e38024fba67540b31e01cce5fa2702a3d84105a02236f7841fb8680f5f449f7a5bf4f75e450c25457df0075cb68600cb7a3ccd25ed86a334119a38e8cd6b340a9d525f6a8296cb8d1cbad50e5bd9b19af354171a3780567332eb628b033d8c76b94d2c3259eab1b70918046eebb434d62f0131e9a5b022e47d62977c892a9dbac2f13dbf762b582c4d1f0527f842619d99fcd80ebec5db4dc7e10f6f0307ce13a889217245cd9a10f5edb12b58d53f42eb93305a8e6694b95
  | 3 => 0x6d4c4501da3684756b2d02665345e73003728b1a97768a86210d405d3781e1c5ec5dda4a56fb95ba68dddd1198c93180b18fed6b27b90528a7c7b09267c824c9aab36aa1c7195d0071ea5e09a5649237a7d33494ed565dbf3e07e35d9322de0485f1f659e9261836641ffd33d75037168f09d2e6e8f34e06a99e9bc1b73ceee1ed4c3d95886c940583dde6ce3270a3d16f96ad6a05f296ad165af60a0069554383fae2607db4c5b648054f49bf69b55ae1b93f884bbc24066590b14ce98f11460331d0ffff76d8c6091a0da54c7a6e710c11d54fb861882dea4b4b9b8f0e498e45d76e70830a7f63d4e2affb3f71d9e7d0b4473d63fc45aef03bf5b329e6dc1cbbd8567d5a95ff3c15506a7728dd35b76181d57168c36a625dcb1faf898941b397a695dc17855b01b0ada434e002f8d5c0a02e559021cee8b7a4fe832734b4b28590d4a0565a8b4df2cbf329357f8834dcda14d743e5aab1227c312828d01020da31044f7b840f971775f615c4c1981bb0071e3ff7f68492d425f0e892372030efa21cdea8cd3a0663c06c11fd57c5ef44b52163c8b9dc01fec7475ce2f12a3d89e5f4de21fe801ff78f669bb4f56f476a42e7d3a2ef85605a8e7528fa0f17f17a8c71fa7847ff8ee055510e6637f18a60eee8934c611defe3c418608f43d28263d209d150661c48bf2c9bdc00347992cf3e449f6f0c2a2fb88184bd80091b08
  | 4 => 0x9de24f702186c5c85bdc8e6474fe99a31c699ce89d5b86a31cb56d8fd14ba12ba93937c5be6eb923dbc19475d9ea33f9e933503dcf940b819bcfc9831f7d463327571b543ce3174ea7e104486ff68841312d40894f28d7153f0b50c1bb348c7e1344ab0ace8ec0a4fc0ad02e35f1aeaedb25550d295291d8c751f4bd680ab7a29db3a281f0632f64b57e37dbdfa5472edfbc6d6fa7818c190df4c90bdfac760a9bd2489672b98879fdddd0eb695bb895be3ddaee6a2d2bf07bc48a071f19cb12c9130d771eda6789b4c0daef27ce8fc746121221d0315874ea93f2c0e1b20c5631ce0ef08fa05fa3cce4e64985ff4f515c91b06126104cceb208d1fdb5dcb962c146402c4a196872a5fa4af712b1beeba44943fe2834044e9d7f7e81be2c1cf3e41546b3f0fe56d4b641eaa1bca8d50e83aa64ac6094267fe965cb4ff1e363bd728d877248f363614a684f6c3e6385b00ed336c3b3245e58866e30a62f4b2080188d7bad531f39676eaa739ad8d478a827469589bc2a4224ac41248bd0b1c620c42b9b02a8ab10482e56d70f8623d930a4b6bcb495640acd6acc835241312991a8104d2f31e0a306d935bda4ea5adefc21822c5cfbefe10295d22810d841a9b5c6c49cf4e142dc95cd3bb96957b0faeb772fda454728a17e87415cfcacec68642e8dc69c1abbbb4a10344a419608f20ade9b93439f10c56b140a158c619757f6
  | _ => 0
/-- The image: its body is zeros. -/
def fwImg (c : Nat) : List Byte := fwHead c ++ List.replicate 4096 0 ++ beBytes 512 (fwSig c)
/-- A device whose ROM names that vendor root, before a boot stage, with a component's image in slot A. -/
def sBootFw (n c : Nat) : State := { sBoot n (fwImg c) with factory := ⟨0, 0, beNat (sha512 (beBytes 512 modN)), modN, expD, [], 0, true⟩ }

/-- Boot has ended, with both reference clocks, and link 0 up or down. -/
def sLive (ref ls : Nat) : State := (acts [updBoot fun b => { b with
    live := true
    stage := 6 }, updUnits fun u => { u with up := [.linkDie 0, .stack 1, .ue 1, .tile 0] ++ (List.range 9).map UnitId.tile },
  setF POWR_REFCLK ref, setF LINK_LSTATE ls 0, setF ENET_LINK_UP 1]).run s0
/-- The rails are off. -/
def sOff : State := { s0 with power := { s0.power with pwrGood := false } }

/-- A device at work: both dies' clocks at a frequency under a cap. -/
def sMhz (m cap : Nat) : State := (acts [setF PDIE_ARITH_MHZ m 0, setF PDIE_ARITH_MHZ m 1, setF PDIE_TARGET_MHZ 1500 0, setF POWR_CAP cap, setF BKGD_ACT_EN 1 0 4]).run (sLive 3 2)
/-- A sample. -/
def smp (avg mx : Nat) (t0 : Int) : PowerSample := ⟨54000, 1000, avg, mx, [], [t0], [], 300, 300⟩

/-- Activities 0 to 5 are enabled; the impression lasts 65,536 ns; a window of all of it is open, or none. -/
def sBk (isOpen : Bool) : State := (acts [setF PRES_PERIOD_CUR 65536, setF PRES_BUB_END 65535 0 0, each (List.range 6) fun a => acts [setF BKGD_ACT_EN 1 0 a, setF BKGD_ACT_SHARE 64 0 a, setF BKGD_STEAL_MAX 1000 0 a],
  updPress fun p => { p with open_ := if isOpen then [0] else [] }]).run (sLive 3 2)
/-- VF_CAL is disabled. -/
def sBkOff : State := (setF BKGD_ACT_EN 0 0 4).run (sBk true)
/-- Tile 0 runs a proof, is SUSPECT, or is in quarantine. -/
def sProof (proving suspect quar : Bool) : State := (updUnits fun u => { u with
  proving := if proving then [.tile 0] else []
  suspect := if suspect then [.tile 0] else []
  quar := if quar then [⟨.tile 0, 1⟩] else [] }).run (sLive 3 2)
/-- The Update Engine of site 1 is in quarantine, and its fold has not ended. -/
def sProofBusy : State := (acts [updUe 1 fun u => { u with fold := some ⟨1, 1, curvRec, false⟩ }, updUnits fun u => { u with quar := [⟨.ue 1, 1⟩] }]).run (sLive 3 2)

/-- The bridge has failed. -/
def sBridge : State := (updUnits fun u => { u with failed := [.bridge] }).run s0

/-- Boot has ended, and the port is down. -/
def sLiveDown : State := (setF ENET_LINK_UP 0).run (sLive 3 2)

/-! ### Images: firmware that verifies, configuration images and owners’ bundles in memory -/

/-- A run of bytes reads back. -/
theorem mapRead_mapPut (m : SMap Byte) (k : Nat) (vs : List Byte) :
    mapRead memDefault (mapPut memDefault m k vs) k vs.length = vs := by
  unfold mapRead
  apply List.ext_getElem
  · simp
  · intro i h1 h2
    simp only [List.getElem_map, List.getElem_range, mapGet_mapPut]
    rw [if_pos ⟨by omega, by omega⟩, show k + i - k = i by omega, List.getD_eq_getElem?_getD, List.getElem?_eq_getElem h2, Option.getD_some]

/-- An image written to HBM without views or syndromes is there. -/
theorem imageAt_put (s : State) (a n off : Nat) (site : Nat) (img : List Byte) (m : SMap Byte)
    (hp : placeOf s a = .mem (.hbm site) off ∧ viewsMet s a n = [] ∧ s.syn = [] ∧ img.length = n)
    (hm : s.mem = mapPut memDefault m (muBase (.hbm site) + off) img) : imageAt s a n = some img := by
  obtain ⟨hp, hv, hs, hl⟩ := hp
  have hb : readBytes s (.hbm site) off n = img := by
    have h := mapRead_mapPut m (muBase (.hbm site) + off) img
    rw [← hm, hl] at h
    rw [← h]
    unfold readBytes mapRead
    apply List.map_congr_left
    intro i _
    unfold deliverByte rawByte synAt
    rw [hs, show muBytewise (.hbm site) = false from rfl]
    simp only [Bool.false_eq_true, if_false, mapGet_nil, Nat.add_assoc]
    rfl
  unfold imageAt readLocal
  rw [hp, hv, hs]
  simp only [hb, List.isEmpty_nil, if_true]
  have h1 : ((img.zip (List.replicate n false)).any Prod.snd) = false := by
    rw [List.any_eq_false]
    intro x hx
    have := List.of_mem_zip hx
    simp [List.eq_of_mem_replicate this.2]
  have h2 : (img.zip (List.replicate n false)).map Prod.fst = img := by
    rw [List.map_fst_zip]; simp [hl]
  simp [h1, h2]

/-- SHA-512 of a message whose length is known. -/
theorem sha512_len (m : List Byte) (n : Nat) (h : m.length = n) : sha512 m = beBytes 64 (shaBlocks
    (chunksOf 128 ((n + (1 + (239 - n % 128) % 128) + 16) / 128)
      (m ++ (0x80 : Byte) :: List.replicate ((239 - n % 128) % 128) 0 ++ beBytes 16 (8 * n))) shaInit) := by
  have hb : ∀ k v, (beBytes k v).length = k := by
    intro k
    unfold beBytes
    simp only [List.length_reverse]
    induction k with
    | zero => intro v; rfl
    | succ k ih => intro v; simp [leBytes, ih]
  unfold sha512 shaPad
  simp only [List.length_append, List.length_cons, List.length_replicate, hb, h]
  congr 4
  omega

/-- What a firmware image is but for its signature. -/
def fwMsg (c : Nat) : List Byte := fwHead c ++ List.replicate 4096 0

theorem fwHead_length_1 : (fwHead 1).length = 576 ∧ (beBytes 512 (fwSig 1)).length = 512 := by decide +kernel

theorem sha_fw_1 : sha512 (fwMsg 1) = beBytes 64
    0x9f53991d8fdd6398f001755afbcd23256a75d5f6050f9d49e1a51a3952f1f23d0f40364d56cb18ba67cad34afd4db5ee734946299cdc1feccb83c70d5acc2607 := by
  rw [sha512_len _ 4672 (by unfold fwMsg; rw [List.length_append, List.length_replicate, fwHead_length_1.1])]
  decide +kernel

theorem pss_fw_1 : pssVerify modN (fwMsg 1) (beBytes 512 (fwSig 1)) = true := by
  unfold pssVerify
  rw [sha_fw_1]
  decide +kernel

theorem fwVerifies_1 (s : State) (hr : s.factory.vendorRoot = beNat (sha512 (beBytes 512 modN))) (hf : floorOf s 1 ≤ 3) :
    fwVerifies s 1 (fwImg 1) = true := by
  obtain ⟨h1, h2⟩ := fwHead_length_1
  have hl : (fwImg 1).length = 1088 + 4096 := by
    unfold fwImg
    rw [List.length_append, List.length_append, List.length_replicate, h1, h2]
  have hm : (fwMsg 1).length = 4672 := by unfold fwMsg; rw [List.length_append, List.length_replicate, h1]
  have ht : (fwImg 1).take 4672 = fwMsg 1 := List.take_left' hm
  have hd : (fwImg 1).drop 4672 = beBytes 512 (fwSig 1) := List.drop_left' hm
  have hmod : fwModulus (fwImg 1) = beBytes 512 modN := by decide +kernel
  have hn : beNat (beBytes 512 modN) = modN := by decide +kernel
  have hbody : fwBody (fwImg 1) = 4096 := by decide +kernel
  have hh : (decide (recLE (fwImg 1) 0 4 = 0xF1A90009) && decide (recLE (fwImg 1) 5 1 = 1) && zeroField (fwImg 1) 6 2 &&
      zeroField (fwImg 1) 16 48 && decide (fwComp (fwImg 1) = 1) && decide (fwVersion (fwImg 1) = 3)) = true := by decide +kernel
  simp only [Bool.and_eq_true, decide_eq_true_eq] at hh
  obtain ⟨⟨⟨⟨⟨a, b⟩, c⟩, d⟩, e⟩, f⟩ := hh
  unfold fwVerifies fwGenuine
  simp only [hbody, hmod, hn, hr, ht, hd, hl, pss_fw_1, a, b, c, d, e, f, hf]
  rfl

theorem fwLoad_1 (s : State) (hs : fwSlots s 1 = (fwImg 1, [])) (hr : s.factory.vendorRoot = beNat (sha512 (beBytes 512 modN)))
    (hf : floorOf s 1 ≤ 3) : fwLoad s 1 = some (fwImg 1, false) := by
  unfold fwLoad
  simp only [hs, fwVerifies_1 s hr hf, if_true]

theorem fwHead_length_2 : (fwHead 2).length = 576 ∧ (beBytes 512 (fwSig 2)).length = 512 := by decide +kernel

theorem sha_fw_2 : sha512 (fwMsg 2) = beBytes 64
    0x7f0049cb6a6ba29d5d6b0be1b4c5f3889a112df6b1c0b6b1ebfbc5ad54a915b7220829ffbf6479771d8d21a99eeaea59327c52e523d4b373dd221e2a6d556aa8 := by
  rw [sha512_len _ 4672 (by unfold fwMsg; rw [List.length_append, List.length_replicate, fwHead_length_2.1])]
  decide +kernel

theorem pss_fw_2 : pssVerify modN (fwMsg 2) (beBytes 512 (fwSig 2)) = true := by
  unfold pssVerify
  rw [sha_fw_2]
  decide +kernel

theorem fwVerifies_2 (s : State) (hr : s.factory.vendorRoot = beNat (sha512 (beBytes 512 modN))) (hf : floorOf s 2 ≤ 3) :
    fwVerifies s 2 (fwImg 2) = true := by
  obtain ⟨h1, h2⟩ := fwHead_length_2
  have hl : (fwImg 2).length = 1088 + 4096 := by
    unfold fwImg
    rw [List.length_append, List.length_append, List.length_replicate, h1, h2]
  have hm : (fwMsg 2).length = 4672 := by unfold fwMsg; rw [List.length_append, List.length_replicate, h1]
  have ht : (fwImg 2).take 4672 = fwMsg 2 := List.take_left' hm
  have hd : (fwImg 2).drop 4672 = beBytes 512 (fwSig 2) := List.drop_left' hm
  have hmod : fwModulus (fwImg 2) = beBytes 512 modN := by decide +kernel
  have hn : beNat (beBytes 512 modN) = modN := by decide +kernel
  have hbody : fwBody (fwImg 2) = 4096 := by decide +kernel
  have hh : (decide (recLE (fwImg 2) 0 4 = 0xF1A90009) && decide (recLE (fwImg 2) 5 1 = 1) && zeroField (fwImg 2) 6 2 &&
      zeroField (fwImg 2) 16 48 && decide (fwComp (fwImg 2) = 2) && decide (fwVersion (fwImg 2) = 3)) = true := by decide +kernel
  simp only [Bool.and_eq_true, decide_eq_true_eq] at hh
  obtain ⟨⟨⟨⟨⟨a, b⟩, c⟩, d⟩, e⟩, f⟩ := hh
  unfold fwVerifies fwGenuine
  simp only [hbody, hmod, hn, hr, ht, hd, hl, pss_fw_2, a, b, c, d, e, f, hf]
  rfl

theorem fwLoad_2 (s : State) (hs : fwSlots s 2 = (fwImg 2, [])) (hr : s.factory.vendorRoot = beNat (sha512 (beBytes 512 modN)))
    (hf : floorOf s 2 ≤ 3) : fwLoad s 2 = some (fwImg 2, false) := by
  unfold fwLoad
  simp only [hs, fwVerifies_2 s hr hf, if_true]

theorem fwHead_length_3 : (fwHead 3).length = 576 ∧ (beBytes 512 (fwSig 3)).length = 512 := by decide +kernel

theorem sha_fw_3 : sha512 (fwMsg 3) = beBytes 64
    0x899431b69d25e8980992e7aa64014920dc71db22990d0cda74d7ebc84d1eb1d70bb011e7e56b7cecddb909957cd76755212df4a21a537255a5d51eb53850042c := by
  rw [sha512_len _ 4672 (by unfold fwMsg; rw [List.length_append, List.length_replicate, fwHead_length_3.1])]
  decide +kernel

theorem pss_fw_3 : pssVerify modN (fwMsg 3) (beBytes 512 (fwSig 3)) = true := by
  unfold pssVerify
  rw [sha_fw_3]
  decide +kernel

theorem fwVerifies_3 (s : State) (hr : s.factory.vendorRoot = beNat (sha512 (beBytes 512 modN))) (hf : floorOf s 3 ≤ 3) :
    fwVerifies s 3 (fwImg 3) = true := by
  obtain ⟨h1, h2⟩ := fwHead_length_3
  have hl : (fwImg 3).length = 1088 + 4096 := by
    unfold fwImg
    rw [List.length_append, List.length_append, List.length_replicate, h1, h2]
  have hm : (fwMsg 3).length = 4672 := by unfold fwMsg; rw [List.length_append, List.length_replicate, h1]
  have ht : (fwImg 3).take 4672 = fwMsg 3 := List.take_left' hm
  have hd : (fwImg 3).drop 4672 = beBytes 512 (fwSig 3) := List.drop_left' hm
  have hmod : fwModulus (fwImg 3) = beBytes 512 modN := by decide +kernel
  have hn : beNat (beBytes 512 modN) = modN := by decide +kernel
  have hbody : fwBody (fwImg 3) = 4096 := by decide +kernel
  have hh : (decide (recLE (fwImg 3) 0 4 = 0xF1A90009) && decide (recLE (fwImg 3) 5 1 = 1) && zeroField (fwImg 3) 6 2 &&
      zeroField (fwImg 3) 16 48 && decide (fwComp (fwImg 3) = 3) && decide (fwVersion (fwImg 3) = 3)) = true := by decide +kernel
  simp only [Bool.and_eq_true, decide_eq_true_eq] at hh
  obtain ⟨⟨⟨⟨⟨a, b⟩, c⟩, d⟩, e⟩, f⟩ := hh
  unfold fwVerifies fwGenuine
  simp only [hbody, hmod, hn, hr, ht, hd, hl, pss_fw_3, a, b, c, d, e, f, hf]
  rfl

theorem fwLoad_3 (s : State) (hs : fwSlots s 3 = (fwImg 3, [])) (hr : s.factory.vendorRoot = beNat (sha512 (beBytes 512 modN)))
    (hf : floorOf s 3 ≤ 3) : fwLoad s 3 = some (fwImg 3, false) := by
  unfold fwLoad
  simp only [hs, fwVerifies_3 s hr hf, if_true]

theorem fwHead_length_4 : (fwHead 4).length = 576 ∧ (beBytes 512 (fwSig 4)).length = 512 := by decide +kernel

theorem sha_fw_4 : sha512 (fwMsg 4) = beBytes 64
    0x7481ee932c030d9f5fcab5b509011a991567df9721006cf9444560ec49112d32f0b34a527033d29357a65ba1507b86513fb9149caef059e8af976bcb804d1286 := by
  rw [sha512_len _ 4672 (by unfold fwMsg; rw [List.length_append, List.length_replicate, fwHead_length_4.1])]
  decide +kernel

theorem pss_fw_4 : pssVerify modN (fwMsg 4) (beBytes 512 (fwSig 4)) = true := by
  unfold pssVerify
  rw [sha_fw_4]
  decide +kernel

theorem fwVerifies_4 (s : State) (hr : s.factory.vendorRoot = beNat (sha512 (beBytes 512 modN))) (hf : floorOf s 4 ≤ 3) :
    fwVerifies s 4 (fwImg 4) = true := by
  obtain ⟨h1, h2⟩ := fwHead_length_4
  have hl : (fwImg 4).length = 1088 + 4096 := by
    unfold fwImg
    rw [List.length_append, List.length_append, List.length_replicate, h1, h2]
  have hm : (fwMsg 4).length = 4672 := by unfold fwMsg; rw [List.length_append, List.length_replicate, h1]
  have ht : (fwImg 4).take 4672 = fwMsg 4 := List.take_left' hm
  have hd : (fwImg 4).drop 4672 = beBytes 512 (fwSig 4) := List.drop_left' hm
  have hmod : fwModulus (fwImg 4) = beBytes 512 modN := by decide +kernel
  have hn : beNat (beBytes 512 modN) = modN := by decide +kernel
  have hbody : fwBody (fwImg 4) = 4096 := by decide +kernel
  have hh : (decide (recLE (fwImg 4) 0 4 = 0xF1A90009) && decide (recLE (fwImg 4) 5 1 = 1) && zeroField (fwImg 4) 6 2 &&
      zeroField (fwImg 4) 16 48 && decide (fwComp (fwImg 4) = 4) && decide (fwVersion (fwImg 4) = 3)) = true := by decide +kernel
  simp only [Bool.and_eq_true, decide_eq_true_eq] at hh
  obtain ⟨⟨⟨⟨⟨a, b⟩, c⟩, d⟩, e⟩, f⟩ := hh
  unfold fwVerifies fwGenuine
  simp only [hbody, hmod, hn, hr, ht, hd, hl, pss_fw_4, a, b, c, d, e, f, hf]
  rfl

theorem fwLoad_4 (s : State) (hs : fwSlots s 4 = (fwImg 4, [])) (hr : s.factory.vendorRoot = beNat (sha512 (beBytes 512 modN)))
    (hf : floorOf s 4 ≤ 3) : fwLoad s 4 = some (fwImg 4, false) := by
  unfold fwLoad
  simp only [hs, fwVerifies_4 s hr hf, if_true]

/-- The state in which a command's checks run. -/
def touched (s : State) (m : SlqMsg) : State := (commandTouch (slPayload m.bytes)).run (opened s m)

theorem bundleCheck_congr (s t : State) (b : Option (List Byte)) (h : vendorModulus s = vendorModulus t ∧ serialBytes s = serialBytes t ∧
    identityOk s = identityOk t ∧ s.factory = t.factory) : bundleCheck s b = bundleCheck t b := by
  obtain ⟨h1, h2, h3, h4⟩ := h
  unfold bundleCheck
  rw [h1, h2, h3, h4]

theorem bundleCheck_bundle5 : bundleCheck (sOwned []) (some bundle5) = (.ok, [[], [], [], List.replicate 64 9]) := by decide +kernel

/-- A KEY_CHANGE whose bundle passes is taken. -/
theorem commandTaken_key (s : State) (m : SlqMsg) (i : List Byte) (k : ErrCode × List (List Byte))
    (h : slaiqTaken s m = true ∧ slType m.bytes = 5 ∧ cmCode (slPayload m.bytes) = 2 ∧
      firstErr (commandErrs (opened s m) m.ip (slPayload m.bytes)) = .ok ∧ recLE (cmBody (slPayload m.bytes)) 8 8 = hbm1Base + 0x10000)
    (hi : imageAt (touched s m) (hbm1Base + 0x10000) 2072 = some i) (hb : bundleCheck (touched s m) (some i) = k)
    (he : let S := touched s m
      let b := cmBody (slPayload m.bytes)
      let op := recLE b 0 1
      firstErr (targetPageErrs S coloPg ++ (when (!zeroField b 2 6 || decide (4 ≤ recLE b 1 1)) .rsvdSet ++
        when (op = 0 || decide (3 < op) || (op == 3 && hbm1Base + 0x10000 != 0)) .fieldRange ++
        (if op = 1 ∨ op = 2 then imageErrs S (hbm1Base + 0x10000) 2072 ++
          (if firstErr (imageErrs S (hbm1Base + 0x10000) 2072) ≠ .ok then []
          else [k.1] ++ when (if op = 1 then S.nv.owner != some (bundleOwner i)
            else decide ((bundleOwner i).2 ≤ (S.nv.owner.map Prod.snd).getD 0)) eSecOwner)
        else if op = 3 then when (decide (keyMask S.nv.keys = 2 ^ recLE b 1 1)) eSecState
        else []))) = .ok) : commandTaken s m = true := by
  obtain ⟨h1, h2, h3, h4, h5⟩ := h
  unfold touched at *
  have ht : commandTarget ((commandTouch (slPayload m.bytes)).run (opened s m)) (slPayload m.bytes) =
      some (coloPg, 0x358, keyErrs ((commandTouch (slPayload m.bytes)).run (opened s m)) (cmBody (slPayload m.bytes))) := by
    unfold commandTarget
    simp only [h3]
  unfold commandTaken
  simp only [h1, h2, h4, ht]
  simp only [keyErrs, h5, hi, hb]
  simp only [he]
  rfl

/-- An FW_INSTALL STAGE of a configuration image that is accepted is taken. -/
theorem commandTaken_fw (s : State) (m : SlqMsg) (i : List Byte) (n : Nat)
    (h : slaiqTaken s m = true ∧ slType m.bytes = 5 ∧ cmCode (slPayload m.bytes) = 1 ∧
      firstErr (commandErrs (opened s m) m.ip (slPayload m.bytes)) = .ok ∧ recLE (cmBody (slPayload m.bytes)) 8 8 = hbm1Base + 0x10000 ∧
      recLE (cmBody (slPayload m.bytes)) 16 4 = n ∧ recLE (cmBody (slPayload m.bytes)) 0 1 = 1 ∧ recLE (cmBody (slPayload m.bytes)) 1 1 = 5)
    (hi : imageAt (touched s m) (hbm1Base + 0x10000) n = some i) (hc : confCode (touched s m) 1 (some i) = .ok)
    (he : firstErr (imageErrs (touched s m) (hbm1Base + 0x10000) n) = .ok ∧ firstErr (targetPageErrs (touched s m) coloPg ++
      (when (!zeroField (cmBody (slPayload m.bytes)) 2 6 || !zeroField (cmBody (slPayload m.bytes)) 20 4) .rsvdSet ++ [] ++
        (imageErrs (touched s m) (hbm1Base + 0x10000) n ++ [.ok]))) = .ok) : commandTaken s m = true := by
  obtain ⟨h1, h2, h3, h4, h5, h6, h7, h8⟩ := h
  obtain ⟨he1, he2⟩ := he
  unfold touched at *
  have ht : commandTarget ((commandTouch (slPayload m.bytes)).run (opened s m)) (slPayload m.bytes) =
      some (coloPg, 0x340, fwErrs ((commandTouch (slPayload m.bytes)).run (opened s m)) (cmBody (slPayload m.bytes))) := by
    unfold commandTarget
    simp only [h3]
  have hw : when (!(1 == 1 || 1 == 2) || decide (5 = 0) || decide (5 < 5)) ErrCode.fieldRange = [] := by decide
  unfold commandTaken
  simp only [h1, h2, h4, ht]
  simp only [fwErrs, h5, h6, h7, h8, hi, hc, he1]
  simp only [if_true, ne_eq, not_true_eq_false, if_false, hw, he2]
  rfl

theorem rotate_taken : commandTaken (sOwned bundle5) mKeyRotate = true :=
  commandTaken_key _ _ _ _ (by decide +kernel) (imageAt_put _ _ _ 0x10000 1 _ sCmd.mem (by decide +kernel) (by decide +kernel))
    ((bundleCheck_congr _ (sOwned []) _ (by decide +kernel)).trans bundleCheck_bundle5) (by decide +kernel)

theorem rotate_image : imageAt (commandBegun (sOwned bundle5) mKeyRotate) (hbm1Base + 0x10000) 2072 = some bundle5 :=
  imageAt_put _ _ _ 0x10000 1 _ sCmd.mem (by decide +kernel) (by decide +kernel)

theorem transfer_taken : commandTaken sOwned4 mKeyTransfer = true :=
  commandTaken_key _ _ _ _ (by decide +kernel) (imageAt_put _ _ _ 0x10000 1 _ sCmd.mem (by decide +kernel) (by decide +kernel))
    ((bundleCheck_congr _ (sOwned []) _ (by decide +kernel)).trans bundleCheck_bundle5) (by decide +kernel)

theorem transfer_image : imageAt (commandBegun sOwned4 mKeyTransfer) (hbm1Base + 0x10000) 2072 = some bundle5 :=
  imageAt_put _ _ _ 0x10000 1 _ sCmd.mem (by decide +kernel) (by decide +kernel)

theorem stage_taken : commandTaken (sOwned confImg) mFwStage = true :=
  commandTaken_fw _ _ confImg 592 (by decide +kernel) (imageAt_put _ _ _ 0x10000 1 _ sCmd.mem (by decide +kernel) (by decide +kernel))
    (by decide +kernel) (by decide +kernel)

theorem stage_image : imageAt (commandBegun (sOwned confImg) mFwStage) (hbm1Base + 0x10000) 592 = some confImg :=
  imageAt_put _ _ _ 0x10000 1 _ sCmd.mem (by decide +kernel) (by decide +kernel)

theorem enrol_image : imageAt sEnrol (fv sEnrol COLO_ENROL_ADDR) 2072 = some bundle5 :=
  imageAt_put _ _ _ 0x10000 1 _ sCmd.mem (by decide +kernel) (by decide +kernel)

/-- A write that passes every check is accepted. -/
theorem accepted_of (s : State) (r : Requester) (a size v : Nat) (p : PageRef) (d : RegDef) (base : Nat)
    (hr : regAt p.blk (raOff a) = some (d, base))
    (h : accessHeld s a = false ∧ firstErr (accessErrs s r a size true) = .ok ∧ pageOf s a = some p ∧
      (d.fields.any (·.acc == .cmd) && r == .slaiq) = false ∧ isReadOnly d = false ∧ (plainErrs s p d base (v % 2 ^ (8 * size))).isEmpty = true)
    (hh : firstErr (hookErrs ((hookTouch p base (v % 2 ^ (8 * size))).run s) p base (v % 2 ^ (8 * size))) = .ok) :
    accepted s r a size v = true := by
  obtain ⟨h1, h2, h3, h4, h5, h6⟩ := h
  unfold accepted writeCode
  simp only [h1, h2, h3, hr, h4, h5, h6, hh]
  rfl

theorem enrol_hook (s : State) : hookErrs s coloPg 0x060 0x200 =
    disabledErr s coloPg true ++ (when (fb s COLO_COLO_BUSY) .stateBusy ++ enrolErrs s) := by
  unfold hookErrs coloErrs opErrs
  have h8 : bit 0x200 8 = false := by decide
  have h9 : bit 0x200 9 = true := by decide
  simp [coloPg, h8, h9, when]

theorem enrolErrs_ok (s : State) (i : List Byte) (ks : List (List Byte)) (a : Nat)
    (hi : imageAt s a 2072 = some i) (hb : bundleCheck s (some i) = (.ok, ks))
    (h : fv s COLO_ENROL_ADDR = a ∧ firstErr (imageErrs s a 2072) = .ok) :
    enrolErrs s = imageErrs s a 2072 ++ [.ok] ++ when s.nv.owner.isSome eSecState := by
  unfold enrolErrs
  simp only [h.1, hi, hb, h.2, if_true]

theorem jci_hook (s : State) : hookErrs s confPg 0x054 1 = jciErrs s := by
  unfold hookErrs confErrs
  have h : bit 1 0 = true := by decide
  simp [confPg, h]

/-- OP as a definition, and JCI_GO's. -/
def defOp : RegDef := ((regAt .colo 0x060).get (by decide +kernel)).1
def defGo : RegDef := ((regAt .conf 0x054).get (by decide +kernel)).1

/-- What a write of OP, and one of JCI_GO, looks at. -/
def sEnrolAt : State := (hookTouch coloPg 0x060 0x200).run sEnrol
def sJobAt : State := (hookTouch confPg 0x054 1).run sJob

theorem enrolAt_ok : firstErr (hookErrs sEnrolAt coloPg 0x060 0x200) = .ok := by
  rw [enrol_hook, enrolErrs_ok sEnrolAt bundle5 _ (hbm1Base + 0x10000)
    (imageAt_put _ _ _ 0x10000 1 _ sCmd.mem (by decide +kernel) (by decide +kernel))
    ((bundleCheck_congr _ (sOwned []) _ (by decide +kernel)).trans bundleCheck_bundle5) (by decide +kernel)]
  decide +kernel

theorem enrol_accepted : accepted sEnrol core0 (mgdReg 4 0x060) 4 0x200 = true :=
  accepted_of _ _ _ _ _ coloPg defOp 0x060 (by decide +kernel) (by decide +kernel) enrolAt_ok

theorem jobAt_conf : confCode sJobAt 2 (some jobImg) = .ok := by decide +kernel

theorem jobAt_ok : firstErr (hookErrs sJobAt confPg 0x054 1) = .ok := by
  have hi : imageAt sJobAt (hbm1Base + 0x10000) 592 = some jobImg :=
    imageAt_put _ _ _ 0x10000 1 _ sCmd.mem (by decide +kernel) (by decide +kernel)
  have h : fv sJobAt CONF_JCI_ADDR = hbm1Base + 0x10000 ∧ fv sJobAt CONF_JCI_LEN = 592 := by decide +kernel
  rw [jci_hook]
  unfold jciErrs
  simp only [h.1, h.2, hi, jobAt_conf]
  decide +kernel

theorem job_accepted : accepted sJob core0 (mgdReg 5 0x054) 4 1 = true :=
  accepted_of _ _ _ _ _ confPg defGo 0x054 (by decide +kernel) (by decide +kernel) jobAt_ok

/-! ### Witnesses -/

/-! StepRunsFrontCommand -/

theorem wit_StepRunsFrontCommand_1 :
    (sQueued.pending = [.pwrEnRise]) :=
  by decide +kernel

/-! IdleStepIsOneTick -/

theorem wit_IdleStepIsOneTick_1 :
    (s0.pending = [])
    ∧ (s0.press.synced = false)
    ∧ (sSynced.pending = [])
    ∧ (sSynced.press.synced = true) :=
  by decide +kernel

/-! RejectionIsRecorded -/

theorem wit_RejectionIsRecorded_1 :
    (∀ e ∈ [ErrCode.retiredUnit, .fieldRange], errRank e < errRank .ok)
    ∧ (accessHeld s0 (mgdReg 1 0x064) = false)
    ∧ (presPage = (pageOf s0 (mgdReg 1 0x064)).getD mgmtPage)
    ∧ (writeCode s0 core0 (mgdReg 1 0x064) 4 1 ≠ .ok)
    ∧ (errNum (writeCode s0 core0 (mgdReg 1 0x064) 4 1) < 256)
    ∧ (fv s0 (hdrErrCode presPage.blk) presPage.idx = 0) :=
  by decide +kernel

theorem wit_RejectionIsRecorded_2 :
    (accessHeld sRejected (mgdReg 1 0x064) = false)
    ∧ (presPage = (pageOf sRejected (mgdReg 1 0x064)).getD mgmtPage)
    ∧ (writeCode sRejected core0 (mgdReg 1 0x064) 4 1 ≠ .ok)
    ∧ (errNum (writeCode sRejected core0 (mgdReg 1 0x064) 4 1) < 256)
    ∧ (fv sRejected (hdrErrCode presPage.blk) presPage.idx ≠ 0) :=
  by decide +kernel

/-! RegisterWritesStore -/

theorem wit_RegisterWritesStore_1 :
    (accepted s0 core0 (mgdReg 1 0x064) 4 0xFFFF = true)
    ∧ (pageOf s0 (mgdReg 1 0x064) = some presPage)
    ∧ ((regAt .pres (raOff (mgdReg 1 0x064))).map Prod.snd = some 0x064)
    ∧ (0x40 ≤ 0x064)
    ∧ ((hookTouch presPage 0x064 (0xFFFF % 2 ^ (8 * 4))).run s0 = s0) :=
  by decide +kernel

theorem wit_RegisterWritesStore_2 :
    (accepted s0 core0 (mgdReg 1 0x01C) 4 0xF = true)
    ∧ (pageOf s0 (mgdReg 1 0x01C) = some presPage)
    ∧ ((regAt .pres (raOff (mgdReg 1 0x01C))).map Prod.snd = some 0x01C)
    ∧ (0x01C < 0x40)
    ∧ ((hookTouch presPage 0x01C (0xF % 2 ^ (8 * 4))).run s0 = s0)
    ∧ (asksReset 0x01C (0xF % 2 ^ (8 * 4)) = false) :=
  by decide +kernel

/-! RegisterReadClearsReadToClear -/

theorem wit_RegisterReadClearsReadToClear_1 :
    (readable sCounted core0 (mgdReg 1 0x0BC) 4 = true)
    ∧ (pageOf sCounted (mgdReg 1 0x0BC) = some presPage)
    ∧ ((regAt .pres (raOff (mgdReg 1 0x0BC))).map Prod.snd = some 0x0BC)
    ∧ (inSrst sCounted presPage = false) :=
  by decide +kernel

theorem wit_RegisterReadClearsReadToClear_2 :
    (readable sPresReset core0 (mgdReg 1 0x0BC) 4 = true)
    ∧ (pageOf sPresReset (mgdReg 1 0x0BC) = some presPage)
    ∧ ((regAt .pres (raOff (mgdReg 1 0x0BC))).map Prod.snd = some 0x0BC)
    ∧ (inSrst sPresReset presPage = true)
    ∧ (0x40 ≤ 0x0BC)
    ∧ (viewAt sPresReset presPage 0x0BC = none) :=
  by decide +kernel

/-! HeaderRecordsClear -/

theorem wit_HeaderRecordsClear_1 :
    (readable sRejected core0 (mgdReg 1 0x010) 4 = true)
    ∧ (pageOf sRejected (mgdReg 1 0x010) = some presPage)
    ∧ (raOff (mgdReg 1 0x010) = 0x010) :=
  by decide +kernel

theorem wit_HeaderRecordsClear_2 :
    (readable sRejected core0 (mgdReg 1 0x014) 4 = true)
    ∧ (pageOf sRejected (mgdReg 1 0x014) = some presPage)
    ∧ (raOff (mgdReg 1 0x014) = 0x014) :=
  by decide +kernel

theorem wit_HeaderRecordsClear_3 :
    (pageOf sRejected (mgdReg 1 0x018) = some presPage)
    ∧ (raOff (mgdReg 1 0x018) = 0x018)
    ∧ ((2 ^ 16 + 1) < 2 ^ 32)
    ∧ (let m := 2 ^ 16 &&& (0xF + (2 ^ evtCount .pres - 1) * 2 ^ 16); accepted ((raiseEvt presPage m).run sRejected) core0 (mgdReg 1 0x018) 4 ((2 ^ 16 + 1) - ((2 ^ 16 + 1) &&& m)) = true) :=
  by decide +kernel

/-! MasterIssuesAndIsReplaced -/

theorem wit_MasterIssuesAndIsReplaced_1 :
    (fv (sMaster false) PRES_ROLE = roleMaster)
    ∧ ((sMaster false).press.synced = true)
    ∧ ((sMaster false).press.issued = false)
    ∧ ((sMaster false).press.edge = none)
    ∧ (if (sMaster false).press.cfg.gated then treeReady (sMaster false) = true ∧ (sMaster false).press.cfg.gateMin ≤ max (sMaster false).press.elapsed 10000 + lead else (sMaster false).press.cfg.period ≤ max (sMaster false).press.elapsed 10000 + lead) :=
  by decide +kernel

theorem wit_MasterIssuesAndIsReplaced_2 :
    (fv sMasterReady PRES_ROLE = roleMaster)
    ∧ (sMasterReady.press.synced = true)
    ∧ (sMasterReady.press.issued = false)
    ∧ (sMasterReady.press.edge = none)
    ∧ (if sMasterReady.press.cfg.gated then treeReady sMasterReady = true ∧ sMasterReady.press.cfg.gateMin ≤ max sMasterReady.press.elapsed 10000 + lead else sMasterReady.press.cfg.period ≤ max sMasterReady.press.elapsed 10000 + lead) :=
  by decide +kernel

theorem wit_MasterIssuesAndIsReplaced_3 :
    (fv (sMaster true) PRES_ROLE = roleMaster)
    ∧ ((sMaster true).press.synced = true)
    ∧ ((sMaster true).press.issued = false)
    ∧ ((sMaster true).press.edge = none)
    ∧ ((sMaster true).press.cfg.gated = true)
    ∧ (treeReady (sMaster true) = false)
    ∧ ((sMaster true).press.cfg.gateMax ≤ max (sMaster true).press.elapsed 90000 + lead) :=
  by decide +kernel

theorem wit_MasterIssuesAndIsReplaced_4 :
    (fv (sHears roleFollower) PRES_ROLE = roleFollower)
    ∧ ((sHears roleFollower).press.heard = true)
    ∧ ((sHears roleFollower).press.synced = true)
    ∧ ((sHears roleFollower).press.edge = none)
    ∧ ((sHears roleFollower).press.held = false)
    ∧ ((if (sHears roleFollower).press.gated then fv (sHears roleFollower) PRES_GATE_MAX else fv (sHears roleFollower) PRES_PERIOD_CUR) + 2000 ≤ max (sHears roleFollower).press.elapsed 22000)
    ∧ ((sHears roleFollower).press.takeover = false)
    ∧ ((sHears roleFollower).press.retiring = false) :=
  by decide +kernel

theorem wit_MasterIssuesAndIsReplaced_5 :
    (fv (sHears roleBackup) PRES_ROLE = roleBackup)
    ∧ ((sHears roleBackup).press.heard = true)
    ∧ ((sHears roleBackup).press.synced = true)
    ∧ ((sHears roleBackup).press.edge = none)
    ∧ ((sHears roleBackup).press.held = false)
    ∧ ((if (sHears roleBackup).press.gated then fv (sHears roleBackup) PRES_GATE_MAX else fv (sHears roleBackup) PRES_PERIOD_CUR) + 2000 ≤ max (sHears roleBackup).press.elapsed 22000)
    ∧ ((sHears roleBackup).press.takeover = false)
    ∧ ((sHears roleBackup).press.retiring = false) :=
  by decide +kernel

/-! BeaconsBeginImpressions -/

theorem wit_BeaconsBeginImpressions_1 :
    (linkState sLinked 0 = 2)
    ∧ (beaconAccepted sLinked (beacon 6 1) = true)
    ∧ (beaconOld sLinked (beacon 6 1) = false)
    ∧ ((beacon 6 1).hops < 256)
    ∧ (0 < 64)
    ∧ ((beacon 6 1).gen < 2 ^ 32) :=
  by decide +kernel

theorem wit_BeaconsBeginImpressions_2 :
    (linkState sLinked 0 = 2)
    ∧ (beaconOld sLinked (beacon 5 1) = true)
    ∧ (beaconAccepted sLinked (beacon 6 0) = false) :=
  by decide +kernel

theorem wit_BeaconsBeginImpressions_3 :
    (sEdge.press.edge = some ⟨6, 20000, true⟩)
    ∧ (unsync sEdge = false)
    ∧ (sEdge.press.imp < 6)
    ∧ (20000 < 2 ^ 32) :=
  by decide +kernel

/-! ReadinessTravelsUp -/

theorem wit_ReadinessTravelsUp_1 :
    (accepted (sHears roleFollower) core0 (mgdReg 1 0x07C) 4 1 = true)
    ∧ ((sHears roleFollower).press.synced = true)
    ∧ (fv (sHears roleFollower) PRES_CHILDREN ≤ (sHears roleFollower).press.children)
    ∧ (fb (sHears roleFollower) PRES_GATE_EN = true)
    ∧ (fv (sHears roleFollower) PRES_ROLE ≠ roleMaster) :=
  by decide +kernel

theorem wit_ReadinessTravelsUp_2 :
    (accepted (sMaster true) core0 (mgdReg 1 0x07C) 4 1 = true)
    ∧ (fv (sMaster true) PRES_ROLE = roleMaster) :=
  by decide +kernel

theorem wit_ReadinessTravelsUp_3 :
    (16383 < 2 ^ 14)
    ∧ ((sHears roleFollower).press.synced = true)
    ∧ (5 = (sHears roleFollower).press.imp)
    ∧ ((sHears roleFollower).press.issued = false) :=
  by decide +kernel

theorem wit_ReadinessTravelsUp_4 :
    (0 < 2 ^ 14)
    ∧ (¬ ((sHears roleFollower).press.synced = true ∧ 4 = (sHears roleFollower).press.imp ∧ (sHears roleFollower).press.issued = false)) :=
  by decide +kernel

/-! ScheduleTakesFiresAndCancels -/

theorem wit_ScheduleTakesFiresAndCancels_1 :
    (accepted sStaged core0 (mgdReg 1 0x098) 4 1 = true) :=
  by decide +kernel

theorem wit_ScheduleTakesFiresAndCancels_2 :
    (1023 < 1024)
    ∧ (accepted sDue core0 (mgdReg 1 0x0A0) 4 1023 = true) :=
  by decide +kernel

theorem wit_ScheduleTakesFiresAndCancels_3 :
    (let u := (timeTo 0).run sDue; nextEntry u (curInstant u + 1) = some ⟨1023, 5, 0, 1, 0x10, 0, 0⟩ ∧ reached u (instant 5 0) = true ∧ firstErr (actionErrs u ⟨1023, 5, 0, 1, 0x10, 0, 0⟩) ≠ .ok ∧ errNum (firstErr (actionErrs u ⟨1023, 5, 0, 1, 0x10, 0, 0⟩)) < 256)
    ∧ (inSrst sDue presPage = false)
    ∧ (fb sDue PRES_AFAIL_VALID = false) :=
  by decide +kernel

theorem wit_ScheduleTakesFiresAndCancels_4 :
    (let u := (timeTo 0).run sDueHeld; nextEntry u (curInstant u + 1) = some ⟨1023, 5, 0, 1, 0x10, 0, 0⟩ ∧ reached u (instant 5 0) = true ∧ firstErr (actionErrs u ⟨1023, 5, 0, 1, 0x10, 0, 0⟩) ≠ .ok ∧ errNum (firstErr (actionErrs u ⟨1023, 5, 0, 1, 0x10, 0, 0⟩)) < 256)
    ∧ (inSrst sDueHeld presPage = false)
    ∧ (fb sDueHeld PRES_AFAIL_VALID = true) :=
  by decide +kernel

theorem wit_ScheduleTakesFiresAndCancels_5 :
    (1023 < 1024)
    ∧ (2 ^ 32 - 1 < 2 ^ 32)
    ∧ (fb sDue PRES_SEVT_VALID = false)
    ∧ (fb sDueHeld PRES_SEVT_VALID = true) :=
  by decide +kernel

/-! BubbleWindowsOpenAndClose -/

theorem wit_BubbleWindowsOpenAndClose_1 :
    (64 < 128)
    ∧ (65535 < 65536)
    ∧ (accepted (st [setF PRES_BUB_OFFSET 1 0 1]) core0 (mgdReg 1 0x0B0) 4 (2 ^ 31 + 1 * 65536 + 65535) = true) :=
  by decide +kernel

theorem wit_BubbleWindowsOpenAndClose_2 :
    (accepted (sBubble true true) core0 (mgdReg 1 0x0B0) 4 (fv (sBubble true true) PRES_BUB_COUNT * 65536 + fv (sBubble true true) PRES_BUB_CYCLE) = true) :=
  by decide +kernel

theorem wit_BubbleWindowsOpenAndClose_3 :
    (let u := (timeTo 30).run (sBubble true false); windowHere u 0 = true ∧ 0 ∉ (sBubble true false).press.open_ ∧ fv (sBubble true false) PRES_BUB_START 0 0 ≤ u.press.pt ∧ u.press.pt ≤ fv (sBubble true false) PRES_BUB_END 0 0) :=
  by decide +kernel

theorem wit_BubbleWindowsOpenAndClose_4 :
    (let u := (timeTo 31).run (sBubble true true); 0 ∈ (sBubble true true).press.open_ ∧ fv (sBubble true true) PRES_BUB_END 0 0 < u.press.pt) :=
  by decide +kernel

/-! SoftResetRestoresBlock -/

theorem wit_SoftResetRestoresBlock_1 :
    (accepted s0 core0 (mgdReg 1 0x008) 4 2 = true)
    ∧ (raOff (mgdReg 1 0x008) = 0x008)
    ∧ (bit 2 1 = true)
    ∧ (pageOf s0 (mgdReg 1 0x008) = some presPage) :=
  by decide +kernel

theorem wit_SoftResetRestoresBlock_2 :
    (pageAt sPresReset 0x18 1 = some presPage)
    ∧ (inSrst sPresReset presPage = true)
    ∧ (inSrst s0 presPage = false) :=
  by decide +kernel

/-! RowsThatWriteOneRegister -/

theorem wit_RowsThatWriteOneRegister_1 :
    (rowWrite s0 (.readyForce core0) = some (core0, mgdReg 1 0x07C, 4, 1))
    ∧ (rowWrite s0 (.queueStop core0 143 6) = some (core0, tileReg 143 0 0x14C, 4, 2)) :=
  by decide +kernel

/-! HeadIsCheckedAndTimesOut -/

theorem wit_HeadIsCheckedAndTimesOut_1 :
    (0 < 160)
    ∧ (1 < 7)
    ∧ ((sHead 1 (dsc [(0, 0x100)])).syn = [])
    ∧ (anyWriteFirst (sHead 1 (dsc [(0, 0x100)])) (.galley 0) = false)
    ∧ (fv (sHead 1 (dsc [(0, 0x100)])) TILE_Q_HEAD 0 1 ≠ fv (sHead 1 (dsc [(0, 0x100)])) TILE_Q_TAIL 0 1)
    ∧ (let u := (setF TILE_QSTATE qCheck 0 1).run (sHead 1 (dsc [(0, 0x100)])); firstErr (descErrs u 0 1 (slotDesc u 0 1) []) = .ok) :=
  by decide +kernel

theorem wit_HeadIsCheckedAndTimesOut_2 :
    (0 < 160)
    ∧ (1 < 7)
    ∧ ((sHead 1 (dsc [(0, 0x1FF)])).syn = [])
    ∧ (anyWriteFirst (sHead 1 (dsc [(0, 0x1FF)])) (.galley 0) = false)
    ∧ (fv (sHead 1 (dsc [(0, 0x1FF)])) TILE_Q_HEAD 0 1 ≠ fv (sHead 1 (dsc [(0, 0x1FF)])) TILE_Q_TAIL 0 1)
    ∧ (let u := (setF TILE_QSTATE qCheck 0 1).run (sHead 1 (dsc [(0, 0x1FF)])); firstErr (descErrs u 0 1 (slotDesc u 0 1) []) ≠ .ok) :=
  by decide +kernel

theorem wit_HeadIsCheckedAndTimesOut_3 :
    (0 < 7)
    ∧ (physOf sWaits 0 = 0)
    ∧ (fv sWaits TILE_QSTATE 0 0 = qWaiting)
    ∧ (fv sWaits TILE_WAIT_LIMIT 0 0 ≠ 0)
    ∧ (fv sWaits TILE_WAIT_LIMIT 0 0 ≤ (queueSt sWaits 0 0).waitEdges)
    ∧ (canFire sWaits 0 0 = false) :=
  by decide +kernel

theorem wit_HeadIsCheckedAndTimesOut_4 :
    (fv (sFire 0 (dsc [])) TILE_WAIT_LIMIT 0 0 = 0)
    ∧ (canFire (sFire 0 (dsc [])) 0 0 = true) :=
  by decide +kernel

/-! QueueControlMovesStates -/

theorem wit_QueueControlMovesStates_1 :
    (143 < 144)
    ∧ (6 < 7)
    ∧ (physOf (sQState qStopped) 143 = 151)
    ∧ (fv (sQState qStopped) TILE_QSTATE 151 6 = qStopped)
    ∧ (accepted (sQState qStopped) core0 (tileReg 143 0 (0x080 + 0x20 * 6 + 0xC)) 4 1 = true) :=
  by decide +kernel

theorem wit_QueueControlMovesStates_2 :
    (143 < 144)
    ∧ (6 < 7)
    ∧ (physOf (sQState qEmpty) 143 = 151)
    ∧ (fv (sQState qEmpty) TILE_QSTATE 151 6 = qEmpty)
    ∧ (accepted (sQState qEmpty) core0 (tileReg 143 0 (0x080 + 0x20 * 6 + 0xC)) 4 2 = true) :=
  by decide +kernel

theorem wit_QueueControlMovesStates_3 :
    (143 < 144)
    ∧ (6 < 7)
    ∧ (physOf (sQState qHalted) 143 = 151)
    ∧ (fv (sQState qHalted) TILE_QSTATE 151 6 = qHalted)
    ∧ (accepted (sQState qHalted) core0 (tileReg 143 0 (0x080 + 0x20 * 6 + 0xC)) 4 4 = true) :=
  by decide +kernel

theorem wit_QueueControlMovesStates_4 :
    (143 < 144)
    ∧ (6 < 7)
    ∧ (physOf (sQState qHalted) 143 = 151)
    ∧ (fv (sQState qHalted) TILE_QSTATE 151 6 = qHalted)
    ∧ (accepted (sQState qHalted) core0 (tileReg 143 0 (0x080 + 0x20 * 6 + 0xC)) 4 8 = true) :=
  by decide +kernel

theorem wit_QueueControlMovesStates_5 :
    (1 < 65536)
    ∧ (accepted (sQState qEmpty) core0 (tileReg 143 0 (0x080 + 0x20 * 6 + 0x8)) 4 1 = true) :=
  by decide +kernel

/-! FireTakesTokens -/

theorem wit_FireTakesTokens_1 :
    (canFire sTokens 0 0 = true)
    ∧ (0 < 160)
    ∧ (0 < 7)
    ∧ ((hCounters (headDesc sTokens 0 0)).Nodup)
    ∧ (hWaits (headDesc sTokens 0 0) = [0])
    ∧ (hWaitConsume (headDesc sTokens 0 0) 0 = true)
    ∧ (hCreditEn (headDesc sTokens 0 0) = true)
    ∧ (hGateEn (headDesc sTokens 0 0) = true) :=
  by decide +kernel

/-! OperationsWriteResults -/

theorem wit_OperationsWriteResults_1 :
    (∀ o ∈ opRows, let s := sFire o.queue (dsc [(0, o.opcode)]); cleanGalley s 0 ∧ canFire s 0 o.queue = true ∧ hOpcode (headDesc s 0 o.queue) = o.opcode ∧ (∀ w ∈ (o.result (fired s 0 o.queue) 0 (headDesc s 0 o.queue) (queueSt s 0 o.queue).ctl).writes, w.mem = .galley 0 ∧ true ∉ w.marks)) :=
  by decide +kernel

/-! CompletionsReport -/

theorem wit_CompletionsReport_1 :
    (1 < 7)
    ∧ (physOf (sFire 1 (dsc [(0, 0x100)])) 0 = 0)
    ∧ (canFire (sFire 1 (dsc [(0, 0x100)])) 0 1 = true)
    ∧ (hOpcode (headDesc (sFire 1 (dsc [(0, 0x100)])) 0 1) = 0)
    ∧ ((queueSt (sFire 1 (dsc [(0, 0x100)])) 0 1).inflight = [])
    ∧ (hSummary (headDesc (sFire 1 (dsc [(0, 0x100)])) 0 1) = false) :=
  by decide +kernel

theorem wit_CompletionsReport_2 :
    (physOf (sFlight 0) 0 = 0)
    ∧ ((queueSt (sFlight 0) 0 1).inflight.length = 1)
    ∧ (writerHeld (sFlight 0) (1 + 7 * 0 + 1) 0 = false)
    ∧ (summaryFull (sFlight 0) 0 = false) :=
  by decide +kernel

theorem wit_CompletionsReport_3 :
    (physOf (sFlight 64) 0 = 0)
    ∧ ((queueSt (sFlight 64) 0 1).inflight.length = 1)
    ∧ (writerHeld (sFlight 64) (1 + 7 * 0 + 1) 0 = false)
    ∧ (summaryFull (sFlight 64) 0 = true) :=
  by decide +kernel

/-! SpecialInputsGiveTheirResults -/

theorem wit_SpecialInputsGiveTheirResults_1 :
    (0 < 3 ∧ 1 < 3 ∧ 2 < 3)
    ∧ (decodeFloat 0 0x7FC00000 = .nan)
    ∧ (decodeFloat 1 0x7E00 = .nan)
    ∧ (decodeFloat 2 0x7FC0 = .nan)
    ∧ ((match decodeFloat 0 0xBF800000 with | .fin true n _ _ => 0 < n | _ => false) = true)
    ∧ ((match decodeFloat 1 0x8001 with | .fin true n _ _ => 0 < n | _ => false) = true)
    ∧ ((match decodeFloat 2 0xFF7F with | .fin true n _ _ => 0 < n | _ => false) = true) :=
  by decide +kernel

/-! NanAndZeroRules -/

theorem wit_NanAndZeroRules_1 :
    (2 < 3)
    ∧ (0x20 ∈ [0x10, 0x11, 0x12, 0x13, 0x14, 0x15, 0x20])
    ∧ (XR.nan = .nan)
    ∧ (true ≠ false) :=
  by decide +kernel

/-! IntegersSaturateAndHeldValuesStay -/

theorem wit_IntegersSaturateAndHeldValuesStay_1 :
    (7 = 7 ∨ 7 = 8)
    ∧ (8 = 7 ∨ 8 = 8)
    ∧ ((1 : Int) ≠ 0)
    ∧ (6 < 7)
    ∧ (2 ^ fmtBits 6 - 1 < 2 ^ fmtBits 6)
    ∧ (decodeFloat 6 (2 ^ fmtBits 6 - 1) ≠ .nan) :=
  by decide +kernel

/-! TransfersMoveRows -/

theorem wit_TransfersMoveRows_1 :
    (3 ≤ 6)
    ∧ (6 < 7)
    ∧ (physOf (sDma 1) 0 = 0)
    ∧ (dmaHeld (sDma 1) (headDesc (sDma 1) 0 6) = false)
    ∧ (canFire (sDma 1) 0 6 = true)
    ∧ (dmNop (headDesc (sDma 1) 0 6) = false)
    ∧ (dmRows (headDesc (sDma 1) 0 6) = [(0, 0)])
    ∧ (gaNode (dmDst (headDesc (sDma 1) 0 6)) = nodeId (sDma 1))
    ∧ (placeOf (sDma 1) ((dmRowAddr (headDesc (sDma 1) 0 6) 1 (0, 0)).toNat % 2 ^ 48) = .mem (.galley 0) 64)
    ∧ (writeRefused (fired (sDma 1) 0 6) ((dmRowAddr (headDesc (sDma 1) 0 6) 1 (0, 0)).toNat % 2 ^ 48) (dmLen (headDesc (sDma 1) 0 6)) = false)
    ∧ (cleanGalley (sDma 1) 0)
    ∧ (hOpcode (headDesc (sDma 1) 0 6) = 1)
    ∧ (gaNode (dmSrc (headDesc (sDma 1) 0 6)) = nodeId (sDma 1))
    ∧ (placeOf (sDma 1) ((dmRowAddr (headDesc (sDma 1) 0 6) 0 (0, 0)).toNat % 2 ^ 48) = .mem (.galley 0) 4096)
    ∧ ((viewsMet (fired (sDma 1) 0 6) ((dmRowAddr (headDesc (sDma 1) 0 6) 0 (0, 0)).toNat % 2 ^ 48) (dmLen (headDesc (sDma 1) 0 6))).length = 0) :=
  by decide +kernel

theorem wit_TransfersMoveRows_2 :
    (3 ≤ 6)
    ∧ (6 < 7)
    ∧ (physOf (sDma 2) 0 = 0)
    ∧ (dmaHeld (sDma 2) (headDesc (sDma 2) 0 6) = false)
    ∧ (canFire (sDma 2) 0 6 = true)
    ∧ (dmNop (headDesc (sDma 2) 0 6) = false)
    ∧ (dmRows (headDesc (sDma 2) 0 6) = [(0, 0)])
    ∧ (gaNode (dmDst (headDesc (sDma 2) 0 6)) = nodeId (sDma 2))
    ∧ (placeOf (sDma 2) ((dmRowAddr (headDesc (sDma 2) 0 6) 1 (0, 0)).toNat % 2 ^ 48) = .mem (.galley 0) 64)
    ∧ (writeRefused (fired (sDma 2) 0 6) ((dmRowAddr (headDesc (sDma 2) 0 6) 1 (0, 0)).toNat % 2 ^ 48) (dmLen (headDesc (sDma 2) 0 6)) = false)
    ∧ (cleanGalley (sDma 2) 0)
    ∧ (hOpcode (headDesc (sDma 2) 0 6) = 2) :=
  by decide +kernel

theorem wit_TransfersMoveRows_3 :
    (winnowHeld sDispatch = false)
    ∧ (physOf sDispatch 0 = 0)
    ∧ (canFire sDispatch 0 2 = true)
    ∧ (sDispatch.syn = [])
    ∧ (anyWriteFirst sDispatch (.galley 0) = false)
    ∧ ((queueSt sDispatch 0 2).inflight = [])
    ∧ (hOpcode (headDesc sDispatch 0 2) = 2)
    ∧ (dpNop (headDesc sDispatch 0 2) = false) :=
  by decide +kernel

theorem wit_TransfersMoveRows_4 :
    (winnowHeld sReturn = false)
    ∧ (physOf sReturn 0 = 0)
    ∧ (canFire sReturn 0 2 = true)
    ∧ (sReturn.syn = [])
    ∧ (anyWriteFirst sReturn (.galley 0) = false)
    ∧ ((queueSt sReturn 0 2).inflight = [])
    ∧ (hOpcode (headDesc sReturn 0 2) = 3)
    ∧ (fv sReturn WINN_ISTATE 0 (rnInbox (headDesc sReturn 0 2)) = inClosed) :=
  by decide +kernel

/-! InboxesTakeMessages -/

theorem wit_InboxesTakeMessages_1 :
    (143 < 144)
    ∧ (15 < 16)
    ∧ (physOf s0 143 = 151)
    ∧ (accepted sArm core0 (tileReg 143 4 (0x120 + 0x40 * 15)) 4 1 = true)
    ∧ (accepted sInbox core0 (tileReg 143 4 (0x120 + 0x40 * 15)) 4 2 = true) :=
  by decide +kernel

theorem wit_InboxesTakeMessages_2 :
    (tileHeld sInbox 143 = false)
    ∧ (cleanGalley sInbox (physOf sInbox 143))
    ∧ (winnCode sInbox ⟨143, 1, 15, 0, 3, 7, List.replicate 64 9⟩ = .ok) :=
  by decide +kernel

theorem wit_InboxesTakeMessages_3 :
    (winnCode sInbox ⟨143, 1, 15, 0, 4, 7, List.replicate 64 9⟩ ≠ .ok)
    ∧ (winnCode sInbox ⟨143, 1, 15, 0, 4, 7, List.replicate 64 9⟩ ≠ .retiredUnit) :=
  by decide +kernel

theorem wit_InboxesTakeMessages_4 :
    (winnCode sInboxRow ⟨143, 2, 15, 0, 1, 7, []⟩ = .ok) :=
  by decide +kernel

theorem wit_InboxesTakeMessages_5 :
    (winnCode sInbox ⟨143, 3, 0, 0, 0, 0, List.replicate 64 9⟩ = .ok) :=
  by decide +kernel

theorem wit_InboxesTakeMessages_6 :
    (tileHeld sCopying 143 = true) :=
  by decide +kernel

/-! TokensCount -/

theorem wit_TokensCount_1 :
    (sOnWay.flights[0]? = some ⟨0, 143, 255, 3⟩)
    ∧ (flightFirst sOnWay.flights 0 = true)
    ∧ (255 < 256)
    ∧ (tileBacked sOnWay 143 = true)
    ∧ (tileHeld sOnWay 143 = false) :=
  by decide +kernel

theorem wit_TokensCount_2 :
    (tileBacked sOnWay 0 = false) :=
  by decide +kernel

theorem wit_TokensCount_3 :
    (tileBacked sCopying 143 = true)
    ∧ (tileHeld sCopying 143 = true) :=
  by decide +kernel

theorem wit_TokensCount_4 :
    (2 ^ 20 ≤ tok sOnWay 151 0 + 2 ^ 20) :=
  by decide +kernel

theorem wit_TokensCount_5 :
    (tileTarget 0x11 143 = true)
    ∧ (firstErr (actionErrs sOnWay ⟨0, 0, 0, 1, 0x11, 143, 0x1FF⟩) = .ok) :=
  by decide +kernel

theorem wit_TokensCount_6 :
    (2 ^ 20 - 1 < 2 ^ 20)
    ∧ (accepted s0 core0 (tileReg 143 0 (0x400 + 4 * 255)) 4 (2 ^ 20 - 1) = true) :=
  by decide +kernel

/-! CoreInstructionsReturnValues -/

theorem wit_CoreInstructionsReturnValues_1 :
    (143 < 144)
    ∧ (31 < 32)
    ∧ (physOf sCore 143 = 151)
    ∧ (coreReady sCore (physOf sCore 143) = true)
    ∧ (xreg sCore 151 1 % 256 = 1) :=
  by decide +kernel

theorem wit_CoreInstructionsReturnValues_2 :
    (¬ (xreg sCore 151 2 % 2 ^ 20 ≤ tok sCore 151 1 ∨ tileEventInput sCore 151 = true)) :=
  by decide +kernel

theorem wit_CoreInstructionsReturnValues_3 :
    (xreg sCore 151 3 % 2 ^ 20 ≤ tok sCore 151 1 ∨ xreg sCore 151 0 % 2 ^ 20 ≤ tok sCore 151 1) :=
  by decide +kernel

theorem wit_CoreInstructionsReturnValues_4 :
    (sCore.press.imp < 2 ^ 48 ∧ sCore.press.pt < 2 ^ 16) :=
  by decide +kernel

theorem wit_CoreInstructionsReturnValues_5 :
    (xreg sCore 151 3 % 32 = 0)
    ∧ ((tileSt sCore 151).summaries = []) :=
  by decide +kernel

theorem wit_CoreInstructionsReturnValues_6 :
    (xreg sCore 151 1 % 32 ≠ 0) :=
  by decide +kernel

theorem wit_CoreInstructionsReturnValues_7 :
    (coreReady sCoreSum 151 = true)
    ∧ (xreg sCoreSum 151 3 % 32 = 0)
    ∧ (xreg sCoreSum 151 3 / 0x10000 = 1)
    ∧ ((tileSt sCoreSum 151).summaries = [List.replicate 32 3])
    ∧ (sCoreSum.syn = [])
    ∧ (flipArmed sCoreSum (.dmem 151) = false) :=
  by decide +kernel

/-! CoresRunStallAndTrap -/

theorem wit_CoresRunStallAndTrap_1 :
    (143 < 144)
    ∧ (65532 < 65536)
    ∧ (accepted s0 core0 (tileReg 143 0 0x044) 4 (65532 * 65536 + b2n true) = true)
    ∧ (fb s0 TILE_CORE_RUN (physOf s0 143) = false) :=
  by decide +kernel

theorem wit_CoresRunStallAndTrap_2 :
    (accepted sCore core0 (tileReg 143 0 0x044) 4 (0 * 65536 + b2n false) = true)
    ∧ (fb sCore TILE_CORE_RUN (physOf sCore 143) = true) :=
  by decide +kernel

theorem wit_CoresRunStallAndTrap_3 :
    (31 < 32)
    ∧ (5 < 2 ^ 64)
    ∧ (fb sStalled TILE_CORE_RUN (physOf sStalled 143) = true)
    ∧ (stallOver sStalled 151 (coreSt sStalled 151).wait = some (31, 5)) :=
  by decide +kernel

theorem wit_CoresRunStallAndTrap_4 :
    (fb sCore TILE_CORE_RUN (physOf sCore 143) = true)
    ∧ (fb sCore TILE_CORE_FAULT (physOf sCore 143) = false)
    ∧ (2 < 2 ^ 64)
    ∧ ((coreSt sCore 151).mtvec = 0) :=
  by decide +kernel

theorem wit_CoresRunStallAndTrap_5 :
    (fb sHandler TILE_CORE_FAULT (physOf sHandler 143) = false)
    ∧ (2 ^ 63 + 11 < 2 ^ 64)
    ∧ ((coreSt sHandler 151).mtvec ≠ 0) :=
  by decide +kernel

/-! MemoryKeepsContentsAndModes -/

theorem wit_MemoryKeepsContentsAndModes_1 :
    (firstErr (writeErrs sMem core0 hbm1 burst.length) = .ok)
    ∧ (rangeHeld sMem hbm1 burst.length = false)
    ∧ (placeOf sMem hbm1 = .mem (.hbm 1) 0x8000000)
    ∧ (sMem.syn = [])
    ∧ (flipArmed sMem (.hbm 1) = false)
    ∧ (([] : List Bool).getD 0 false = false) :=
  by decide +kernel

theorem wit_MemoryKeepsContentsAndModes_2 :
    ([true, false].getD 0 false = true) :=
  by decide +kernel

theorem wit_MemoryKeepsContentsAndModes_3 :
    (firstErr (readErrs sMem core0 hbm1 4) = .ok)
    ∧ (rangeHeld sMem hbm1 4 = false)
    ∧ ((viewsMet sMem hbm1 4).length = 0)
    ∧ (anyWriteFirst sMem (.hbm 1) = false) :=
  by decide +kernel

theorem wit_MemoryKeepsContentsAndModes_4 :
    (isHbmSite sMem.build 1 = true)
    ∧ (15 < 16)
    ∧ (2 ^ 63 + 2 ^ 24 < 2 ^ 64)
    ∧ (accepted sMem core0 (siteReg 1 0 (0x100 + 8 * 15)) 8 (2 ^ 63 + 2 ^ 24) = true)
    ∧ (hbmWriteFirst sMem 1 0 = false) :=
  by decide +kernel

theorem wit_MemoryKeepsContentsAndModes_5 :
    (143 < 144)
    ∧ (7 < 8)
    ∧ (2 ^ 31 + 32 * 256 < 2 ^ 32)
    ∧ (accepted s0 core0 (tileReg 143 5 (0x040 + 4 * 7)) 4 (2 ^ 31 + 32 * 256) = true) :=
  by decide +kernel

theorem wit_MemoryKeepsContentsAndModes_6 :
    (accepted s0 core0 (tileReg 143 2 0x080) 4 0x80 = true)
    ∧ (bit 0x80 7 = true) :=
  by decide +kernel

theorem wit_MemoryKeepsContentsAndModes_7 :
    (11 < 12)
    ∧ (mapGet zeroDefault sZeroing.zeroing 11 = [(1, 2)]) :=
  by decide +kernel

/-! SparesTakeOver -/

theorem wit_SparesTakeOver_1 :
    (tileTarget 0x11 143 = true)
    ∧ (firstErr (actionErrs sDie1 ⟨0, 0, 0, 4, 0x11, 143, 0⟩) = .ok)
    ∧ (∀ k ∈ List.range 160, physOf sDie1 k = physOf sDie1 143 → k = 143) :=
  by decide +kernel

theorem wit_SparesTakeOver_2 :
    (143 < 144)
    ∧ ((sPending 1).units.subst.find? (fun y => y.tile == 143) = some ⟨143, 151, 1, none, false⟩)
    ∧ ((spareSlots (sPending 1) (dieOfTile 143)).head? = some 152)
    ∧ (151 < 160)
    ∧ (0 < 1)
    ∧ (((tileSt (sPending 1) 151).queues.all fun q => q.inflight.isEmpty) = true) :=
  by decide +kernel

theorem wit_SparesTakeOver_3 :
    (143 < 144)
    ∧ ((sPending 2).units.subst.find? (fun y => y.tile == 143) = some ⟨143, 151, 2, none, false⟩)
    ∧ ((spareSlots (sPending 2) (dieOfTile 143)).head? = some 152)
    ∧ (151 < 160)
    ∧ (0 < 2)
    ∧ (((tileSt (sPending 2) 151).queues.all fun q => q.inflight.isEmpty) = true) :=
  by decide +kernel

theorem wit_SparesTakeOver_4 :
    (sTaken.units.subst.find? (fun y => y.tile == 143 && y.spare.isSome) = some ⟨143, 151, 1, some 152, true⟩)
    ∧ (sTaken.units.heldIncs = [])
    ∧ (sTaken.units.heldAccs = [])
    ∧ (sTaken.units.heldMsgs = []) :=
  by decide +kernel

/-! CurvatureFoldsAndInstalls -/

theorem wit_CurvatureFoldsAndInstalls_1 :
    (isHbmSite (sCurv 0).build 1 = true)
    ∧ (0 < 1024)
    ∧ (1 < 2)
    ∧ (accepted (sCurv 0) core0 (siteReg 1 1 0x40C) 4 (2 ^ 12 + 1 * 2 ^ 10 + 0) = true)
    ∧ (ueIdle (sCurv 0) 1 = true ∧ ueInService (sCurv 0) 1 = true ∧ unitResting (sCurv 0) (.ue 1) = false ∧ (ueSt (sCurv 0) 1).jobs = []) :=
  by decide +kernel

theorem wit_CurvatureFoldsAndInstalls_2 :
    (isHbmSite sFolding.build 1 = true)
    ∧ (accepted sFolding core0 (siteReg 1 1 0x40C) 4 (2 ^ 12 + 0 * 2 ^ 10 + 1) = true)
    ∧ (ueIdle sFolding 1 = false) :=
  by decide +kernel

theorem wit_CurvatureFoldsAndInstalls_3 :
    ((isHbmSite (sCurv 0x75).build 1 = true)
    ∧ (recordApart (sCurv 0x75) 1 1)
    ∧ (accepted (sCurv 0x75) core0 (siteReg 1 1 0x40C) 4 (2 ^ 13 + 0 * 2 ^ 10 + 1) = true))
    ∧ (calm (sCurv 0x75)) :=
  ⟨by decide +kernel,
    calm_of _ (by decide +kernel)⟩

theorem wit_CurvatureFoldsAndInstalls_4 :
    (1 < 12)
    ∧ ((ueSt sFolding 1).fold = some ⟨1, 1, curvRec, false⟩)
    ∧ ((ueSt sFolding 1).jobs = []) :=
  by decide +kernel

theorem wit_CurvatureFoldsAndInstalls_5 :
    ((isHbmSite (sCurv 2).build 1 = true)
    ∧ (recordApart (sCurv 2) 1 1)
    ∧ ((sCurv 2).press.imp < 2 ^ 48)
    ∧ (firstErr (actionErrs (sCurv 2) ⟨0, (sCurv 2).press.imp, (sCurv 2).press.pt, 2, 1, 0, 1⟩) = .ok)
    ∧ (fullBlocks (sCurv 2) (cvRec (sCurv 2) 1 1) ≠ []))
    ∧ (calm (sCurv 2)) :=
  ⟨by decide +kernel,
    calm_of _ (by decide +kernel)⟩

theorem wit_CurvatureFoldsAndInstalls_6 :
    ((isHbmSite (sCurv 0).build 1 = true)
    ∧ (recordApart (sCurv 0) 1 1)
    ∧ ((sCurv 0).press.imp < 2 ^ 48)
    ∧ (firstErr (actionErrs (sCurv 0) ⟨0, (sCurv 0).press.imp, (sCurv 0).press.pt, 2, 1, 0, 1⟩) = .ok)
    ∧ (fullBlocks (sCurv 0) (cvRec (sCurv 0) 1 1) = []))
    ∧ (calm (sCurv 0)) :=
  ⟨by decide +kernel,
    calm_of _ (by decide +kernel)⟩

theorem wit_CurvatureFoldsAndInstalls_7 :
    (((viewsMet (sCurv 0) (hbm1Base + 0x300000) 16).length ≠ 0)
    ∧ (rangeHeld (sCurv 0) (hbm1Base + 0x300000) 16 = false)
    ∧ (firstErr (readErrs (sCurv 0) core0 (hbm1Base + 0x300000) 16) = .ok))
    ∧ (calm (sCurv 0)) :=
  ⟨by decide +kernel,
    calm_of _ (by decide +kernel)⟩

/-! UpdateInstructionsRun -/

theorem wit_UpdateInstructionsRun_1 :
    (∀ o ∈ ueRows, let s := sUe (some (ueRun [o.2 * 2 ^ 26 + 6] 0 .vector))
  let r := ueRun [o.2 * 2 ^ 26 + 6] 0 .vector
  1 < 12 ∧ (ueSt s 1).run = some r ∧ r.phase = .vector ∧ r.pc < r.prog.length ∧ uOp (r.prog.getD r.pc 0) = o.2 ∧ r.pc + 1 = r.prog.length)
    ∧ (calm (sUe none)) :=
  ⟨by decide +kernel,
    calm_of _ (by decide +kernel)⟩

theorem wit_UpdateInstructionsRun_2 :
    (63 < 64)
    ∧ ((ueRun [] 0 .vector).regs.length = 32) :=
  by decide +kernel

theorem wit_UpdateInstructionsRun_3 :
    (isHbmSite (sUe none).build 1 = true)
    ∧ (2 ^ 32 - 1 < 2 ^ 32)
    ∧ ((sUe none).syn = [])
    ∧ (flipArmed (sUe none) (.prog 1) = false)
    ∧ (accepted (sUe none) core0 (siteReg 1 1 0x050) 4 (2 ^ 32 - 1) = true) :=
  by decide +kernel

/-! UpdatesBeginAndEnd -/

theorem wit_UpdatesBeginAndEnd_1 :
    (isHbmSite sUeDone.build 1 = true)
    ∧ (1 < 1024)
    ∧ (accepted sUeDone core0 (siteReg 1 1 0x064) 4 (2 ^ 12 + 1) = true)
    ∧ (ueIdle sUeDone 1 = false) :=
  by decide +kernel

theorem wit_UpdatesBeginAndEnd_2 :
    (isHbmSite (sUe none).build 1 = true)
    ∧ (1 < 1024)
    ∧ (accepted (sUe none) core0 (siteReg 1 1 0x064) 4 (2 ^ 12 + 1) = true)
    ∧ (ueIdle (sUe none) 1 = true)
    ∧ (ueInService (sUe none) 1 = true ∧ unitResting (sUe none) (.ue 1) = false ∧ (ueSt (sUe none) 1).jobs = [] ∧ riHolds (sUe none) 1 = false) :=
  by decide +kernel

theorem wit_UpdatesBeginAndEnd_3 :
    (fifoOf sUeWin 17 = [⟨0, 0, recOf 32 [(0, 1, 2), (2, 2, 1)], false⟩])
    ∧ (recLE (recOf 32 [(0, 1, 2), (2, 2, 1)]) 0 1 = 2)
    ∧ (firstErr (ueRecErrs sUeWin 1 (recOf 32 [(0, 1, 2), (2, 2, 1)])) = .ok)
    ∧ (ueIdle sUeWin 1 = false) :=
  by decide +kernel

theorem wit_UpdatesBeginAndEnd_4 :
    (((ueSt sUeDone 1).run = some runDone)
    ∧ (runDone.phase = .finished)
    ∧ ((ueSt sUeDone 1).jobs = [])
    ∧ ((ueSt sUeDone 1).freeze = false)
    ∧ (inSiteHbm 1 (pgAddr sUeDone 1 runDone.group) 256 = true))
    ∧ (calm sUeDone) :=
  ⟨by decide +kernel,
    calm_of _ (by decide +kernel)⟩

theorem wit_UpdatesBeginAndEnd_5 :
    (((ueSt (sLedger 1) 1).run = none)
    ∧ (ldState (sLedger 1) 1 0 = 1)
    ∧ (ldStaged (sLedger 1) 1 0 = false)
    ∧ (0 < fv (sLedger 1) UPDT_LEDGER_COUNT 1)
    ∧ (ldFind (sLedger 1) 1 (ldGroup (sLedger 1) 1 0) (ldChunk (sLedger 1) 1 0) 3 = none)
    ∧ (inSiteHbm 1 (ldHead (sLedger 1) 1 0) 64 = true))
    ∧ (calm (sLedger 1)) :=
  ⟨by decide +kernel,
    calm_of _ (by decide +kernel)⟩

theorem wit_UpdatesBeginAndEnd_6 :
    (((ueSt (sLedger 3) 1).run = none)
    ∧ (ldState (sLedger 3) 1 0 = 3)
    ∧ (0 < fv (sLedger 3) UPDT_LEDGER_COUNT 1)
    ∧ (inSiteHbm 1 (ldHead (sLedger 3) 1 0) 64 = true))
    ∧ (calm (sLedger 3)) :=
  ⟨by decide +kernel,
    calm_of _ (by decide +kernel)⟩

/-! FetchesVerifyChunks -/

theorem wit_FetchesVerifyChunks_1 :
    (isHbmSite (sFeStaged 0).build 1 = true)
    ∧ (stagedType (sFeStaged 0) UPDT_CMD_W 1 = 1)
    ∧ (accepted (sFeStaged 0) core0 (siteReg 1 1 0x0B0) 4 1 = true)
    ∧ (feN (stagedRec (sFeStaged 0) UPDT_CMD_W 1 16) = 0) :=
  by decide +kernel

theorem wit_FetchesVerifyChunks_2 :
    (isHbmSite (sFeStaged 4096).build 1 = true)
    ∧ (stagedType (sFeStaged 4096) UPDT_CMD_W 1 = 1)
    ∧ (accepted (sFeStaged 4096) core0 (siteReg 1 1 0x0B0) 4 1 = true)
    ∧ (feN (stagedRec (sFeStaged 4096) UPDT_CMD_W 1 16) ≠ 0) :=
  by decide +kernel

theorem wit_FetchesVerifyChunks_3 :
    (isHbmSite (sFe [fe 2 none 0 none, fe 2 none 0 (some (instant 1 0)), fe 2 (some 5) 0 none]).build 1 = true)
    ∧ (accepted (sFe [fe 2 none 0 none, fe 2 none 0 (some (instant 1 0)), fe 2 (some 5) 0 none]) core0 (siteReg 1 1 0x064) 4 (3 * 2 ^ 12) = true) :=
  by decide +kernel

theorem wit_FetchesVerifyChunks_4 :
    ((ueSt (sFeSync [fe 2 none 0 (some 0)]) 1).fetches[0]? = some (fe 2 none 0 (some 0)))
    ∧ ((fe 2 none 0 (some 0)).deadline = some 0)
    ∧ (reached ((timeTo 0).run (sFeSync [fe 2 none 0 (some 0)])) 0 = true) :=
  by decide +kernel

theorem wit_FetchesVerifyChunks_5 :
    ((ueSt (sFe [fe 2 none 0 none]) 1).fetches[0]? = some (fe 2 none 0 none))
    ∧ ((fe 2 none 0 none).digest = none)
    ∧ (fetchHeld (sFe [fe 2 none 0 none]) (feRec 2 0) = false)
    ∧ (gaNode (feOwnerDig (feRec 2 0) + 32 * 0) ≠ nodeId (sFe [fe 2 none 0 none]))
    ∧ (reachable (sFe [fe 2 none 0 none]) (gaNode (feOwnerDig (feRec 2 0) + 32 * 0)) = true)
    ∧ (recLE (digBytes (crc64 chunkA) 7 0 0 0) 8 6 = feStep (feRec 2 0))
    ∧ (bit (recLE (digBytes (crc64 chunkA) 7 0 0 0) 14 2) 2 = false) :=
  by decide +kernel

theorem wit_FetchesVerifyChunks_6 :
    ((ueSt (sFe [(fe 2 (some (crc64 chunkA)) 0 none)]) 1).fetches[0]? = some (fe 2 (some (crc64 chunkA)) 0 none))
    ∧ ((fe 2 (some (crc64 chunkA)) 0 none).digest = some (crc64 chunkA))
    ∧ (fetchHeld (sFe [(fe 2 (some (crc64 chunkA)) 0 none)]) (fe 2 (some (crc64 chunkA)) 0 none).rec_ = false)
    ∧ (gaNode (feFrom (fe 2 (some (crc64 chunkA)) 0 none) + (fe 2 (some (crc64 chunkA)) 0 none).chunk * 2 ^ 20) ≠ nodeId (sFe [(fe 2 (some (crc64 chunkA)) 0 none)]))
    ∧ (reachable (sFe [(fe 2 (some (crc64 chunkA)) 0 none)]) (gaNode (feFrom (fe 2 (some (crc64 chunkA)) 0 none) + (fe 2 (some (crc64 chunkA)) 0 none).chunk * 2 ^ 20)) = true)
    ∧ ((fe 2 (some (crc64 chunkA)) 0 none).reads = 0)
    ∧ (crc64 chunkA = crc64 chunkA)
    ∧ ((fe 2 (some (crc64 chunkA)) 0 none).chunk + 1 < feFirst (fe 2 (some (crc64 chunkA)) 0 none).rec_ + feN (fe 2 (some (crc64 chunkA)) 0 none).rec_)
    ∧ (feSrc (fe 2 (some (crc64 chunkA)) 0 none).rec_ ≠ feOwnerW (fe 2 (some (crc64 chunkA)) 0 none).rec_)
    ∧ (placeOf (sFe [(fe 2 (some (crc64 chunkA)) 0 none)]) (feDst (fe 2 (some (crc64 chunkA)) 0 none).rec_ + (fe 2 (some (crc64 chunkA)) 0 none).chunk * 2 ^ 20) = .mem (.hbm 1) 0x5000000)
    ∧ (writeRefused (sFe [(fe 2 (some (crc64 chunkA)) 0 none)]) (feDst (fe 2 (some (crc64 chunkA)) 0 none).rec_ + (fe 2 (some (crc64 chunkA)) 0 none).chunk * 2 ^ 20) chunkA.length = false)
    ∧ (flipArmed (sFe [(fe 2 (some (crc64 chunkA)) 0 none)]) (.hbm 1) = false) :=
  by decide +kernel

theorem wit_FetchesVerifyChunks_7 :
    ((ueSt (sFe [(fe 2 (some (crc64 chunkA)) 1 none)]) 1).fetches[0]? = some (fe 2 (some (crc64 chunkA)) 1 none))
    ∧ ((fe 2 (some (crc64 chunkA)) 1 none).digest = some (crc64 chunkA))
    ∧ (fetchHeld (sFe [(fe 2 (some (crc64 chunkA)) 1 none)]) (fe 2 (some (crc64 chunkA)) 1 none).rec_ = false)
    ∧ (gaNode (feFrom (fe 2 (some (crc64 chunkA)) 1 none) + (fe 2 (some (crc64 chunkA)) 1 none).chunk * 2 ^ 20) ≠ nodeId (sFe [(fe 2 (some (crc64 chunkA)) 1 none)]))
    ∧ (reachable (sFe [(fe 2 (some (crc64 chunkA)) 1 none)]) (gaNode (feFrom (fe 2 (some (crc64 chunkA)) 1 none) + (fe 2 (some (crc64 chunkA)) 1 none).chunk * 2 ^ 20)) = true)
    ∧ ((fe 2 (some (crc64 chunkA)) 1 none).reads = 1)
    ∧ (crc64 chunkA = crc64 chunkA)
    ∧ ((fe 2 (some (crc64 chunkA)) 1 none).chunk + 1 < feFirst (fe 2 (some (crc64 chunkA)) 1 none).rec_ + feN (fe 2 (some (crc64 chunkA)) 1 none).rec_)
    ∧ (feSrc (fe 2 (some (crc64 chunkA)) 1 none).rec_ ≠ feOwnerW (fe 2 (some (crc64 chunkA)) 1 none).rec_)
    ∧ (placeOf (sFe [(fe 2 (some (crc64 chunkA)) 1 none)]) (feDst (fe 2 (some (crc64 chunkA)) 1 none).rec_ + (fe 2 (some (crc64 chunkA)) 1 none).chunk * 2 ^ 20) = .mem (.hbm 1) 0x5000000)
    ∧ (writeRefused (sFe [(fe 2 (some (crc64 chunkA)) 1 none)]) (feDst (fe 2 (some (crc64 chunkA)) 1 none).rec_ + (fe 2 (some (crc64 chunkA)) 1 none).chunk * 2 ^ 20) chunkA.length = false)
    ∧ (flipArmed (sFe [(fe 2 (some (crc64 chunkA)) 1 none)]) (.hbm 1) = false) :=
  by decide +kernel

theorem wit_FetchesVerifyChunks_8 :
    ((ueSt (sFe [(fe 2 (some (crc64 chunkA)) 0 none)]) 1).fetches[0]? = some (fe 2 (some (crc64 chunkA)) 0 none))
    ∧ ((fe 2 (some (crc64 chunkA)) 0 none).digest = some (crc64 chunkA))
    ∧ (fetchHeld (sFe [(fe 2 (some (crc64 chunkA)) 0 none)]) (fe 2 (some (crc64 chunkA)) 0 none).rec_ = false)
    ∧ (gaNode (feFrom (fe 2 (some (crc64 chunkA)) 0 none) + (fe 2 (some (crc64 chunkA)) 0 none).chunk * 2 ^ 20) ≠ nodeId (sFe [(fe 2 (some (crc64 chunkA)) 0 none)]))
    ∧ (reachable (sFe [(fe 2 (some (crc64 chunkA)) 0 none)]) (gaNode (feFrom (fe 2 (some (crc64 chunkA)) 0 none) + (fe 2 (some (crc64 chunkA)) 0 none).chunk * 2 ^ 20)) = true)
    ∧ ((fe 2 (some (crc64 chunkA)) 0 none).reads = 0)
    ∧ (crc64 chunkB ≠ crc64 chunkA) :=
  by decide +kernel

theorem wit_FetchesVerifyChunks_9 :
    ((ueSt (sFe [(fe 2 (some (crc64 chunkA)) 1 none)]) 1).fetches[0]? = some (fe 2 (some (crc64 chunkA)) 1 none))
    ∧ ((fe 2 (some (crc64 chunkA)) 1 none).digest = some (crc64 chunkA))
    ∧ (fetchHeld (sFe [(fe 2 (some (crc64 chunkA)) 1 none)]) (fe 2 (some (crc64 chunkA)) 1 none).rec_ = false)
    ∧ (gaNode (feFrom (fe 2 (some (crc64 chunkA)) 1 none) + (fe 2 (some (crc64 chunkA)) 1 none).chunk * 2 ^ 20) ≠ nodeId (sFe [(fe 2 (some (crc64 chunkA)) 1 none)]))
    ∧ (reachable (sFe [(fe 2 (some (crc64 chunkA)) 1 none)]) (gaNode (feFrom (fe 2 (some (crc64 chunkA)) 1 none) + (fe 2 (some (crc64 chunkA)) 1 none).chunk * 2 ^ 20)) = true)
    ∧ ((fe 2 (some (crc64 chunkA)) 1 none).reads = 1)
    ∧ (crc64 chunkB ≠ crc64 chunkA) :=
  by decide +kernel

theorem wit_FetchesVerifyChunks_10 :
    (hbmLE (sUe none) (hbm1Base + 0x40000 + 8) 6 ≠ 5) :=
  by decide +kernel

theorem wit_FetchesVerifyChunks_11 :
    (((hbm1Base + 0x40000) / 2 ^ 36 = 1)
    ∧ (1 < fv (sUe none) UPDT_PG_COUNT 1)
    ∧ (fb (sUe none) UPDT_PG_EN 1 = true)
    ∧ (pgValid (pgRec (sUe none) 1 1) = true)
    ∧ (0 < pgChunks (pgRec (sUe none) 1 1))
    ∧ (hbm1Base + 0x40000 = digAddr (pgRec (sUe none) 1 1) 0)
    ∧ (hbmLE (sUe none) (hbm1Base + 0x40000 + 8) 6 = 6)
    ∧ (inSiteHbm 1 (hbm1Base + 0x40000) 32 = true))
    ∧ (calm (sUe none)) :=
  ⟨by decide +kernel,
    calm_of _ (by decide +kernel)⟩

/-! AuditsAndSnapshots -/

theorem wit_AuditsAndSnapshots_1 :
    (isHbmSite (sUe none).build 1 = true)
    ∧ (1023 < 1024)
    ∧ (accepted (sUe none) core0 (siteReg 1 1 0x064) 4 (2 ^ 13 + 1) = true) :=
  by decide +kernel

theorem wit_AuditsAndSnapshots_2 :
    ((isHbmSite (sAudit 0 6).build 1 = true)
    ∧ (ueIdle (sAudit 0 6) 1 = true)
    ∧ ((ueSt (sAudit 0 6) 1).jobs = [])
    ∧ (ueInService (sAudit 0 6) 1 = true)
    ∧ ((ueSt (sAudit 0 6) 1).audits = [(1, 0)])
    ∧ (riHolds (sAudit 0 6) 1 = false)
    ∧ (hbmLE (sAudit 0 6) (digAddr (pgRec (sAudit 0 6) 1 1) 0 + 8) 6 = pgStep (pgRec (sAudit 0 6) 1 1) % 2 ^ 48))
    ∧ (calm (sAudit 0 6))
    ∧ (crc64 (hbmBytesAt (sAudit 0 6) (pgA (pgRec (sAudit 0 6) 1 1) 32 + 0 * 2 ^ 20) (2 * chunkElems (pgRec (sAudit 0 6) 1 1) 0)) = hbmLE (sAudit 0 6) (digAddr (pgRec (sAudit 0 6) 1 1) 0) 8) :=
  ⟨by decide +kernel,
    calm_of _ (by decide +kernel),
    by rw [show hbmBytesAt (sAudit 0 6) (pgA (pgRec (sAudit 0 6) 1 1) 32 + 0 * 2 ^ 20) (2 * chunkElems (pgRec (sAudit 0 6) 1 1) 0) = List.replicate 128 0 by decide +kernel, crc64_zeros]; decide +kernel⟩

theorem wit_AuditsAndSnapshots_3 :
    ((isHbmSite (sAudit 1 6).build 1 = true)
    ∧ (ueIdle (sAudit 1 6) 1 = true)
    ∧ ((ueSt (sAudit 1 6) 1).jobs = [])
    ∧ (ueInService (sAudit 1 6) 1 = true)
    ∧ ((ueSt (sAudit 1 6) 1).audits = [(1, 0)])
    ∧ (riHolds (sAudit 1 6) 1 = false)
    ∧ (hbmLE (sAudit 1 6) (digAddr (pgRec (sAudit 1 6) 1 1) 0 + 8) 6 = pgStep (pgRec (sAudit 1 6) 1 1) % 2 ^ 48))
    ∧ (calm (sAudit 1 6))
    ∧ (crc64 (hbmBytesAt (sAudit 1 6) (pgA (pgRec (sAudit 1 6) 1 1) 32 + 0 * 2 ^ 20) (2 * chunkElems (pgRec (sAudit 1 6) 1 1) 0)) ≠ hbmLE (sAudit 1 6) (digAddr (pgRec (sAudit 1 6) 1 1) 0) 8) :=
  ⟨by decide +kernel,
    calm_of _ (by decide +kernel),
    by rw [show hbmBytesAt (sAudit 1 6) (pgA (pgRec (sAudit 1 6) 1 1) 32 + 0 * 2 ^ 20) (2 * chunkElems (pgRec (sAudit 1 6) 1 1) 0) = List.replicate 128 0 by decide +kernel, crc64_zeros]; decide +kernel⟩

theorem wit_AuditsAndSnapshots_4 :
    ((isHbmSite (sAudit 0 5).build 1 = true)
    ∧ (ueIdle (sAudit 0 5) 1 = true)
    ∧ ((ueSt (sAudit 0 5) 1).jobs = [])
    ∧ (ueInService (sAudit 0 5) 1 = true)
    ∧ ((ueSt (sAudit 0 5) 1).audits = [(1, 0)])
    ∧ (riHolds (sAudit 0 5) 1 = false)
    ∧ (hbmLE (sAudit 0 5) (digAddr (pgRec (sAudit 0 5) 1 1) 0 + 8) 6 ≠ pgStep (pgRec (sAudit 0 5) 1 1) % 2 ^ 48))
    ∧ (calm (sAudit 0 5)) :=
  ⟨by decide +kernel,
    calm_of _ (by decide +kernel)⟩

theorem wit_AuditsAndSnapshots_5 :
    (((ueSt (sReadback 1) 1).readback = (1, 0) :: [])
    ∧ (bit (digFlags (sReadback 1) (pgRec (sReadback 1) 1 1) 0) 0 = true)
    ∧ (gaNode (bits (hbmLE (sReadback 1) (digAddr (pgRec (sReadback 1) 1 1) 0 + 16) 2) 13 0 * 2 ^ 50 + gaLocal (hbmLE (sReadback 1) (digAddr (pgRec (sReadback 1) 1 1) 0 + 24) 8)) ≠ nodeId (sReadback 1))
    ∧ (reachable (sReadback 1) (gaNode (bits (hbmLE (sReadback 1) (digAddr (pgRec (sReadback 1) 1 1) 0 + 16) 2) 13 0 * 2 ^ 50 + gaLocal (hbmLE (sReadback 1) (digAddr (pgRec (sReadback 1) 1 1) 0 + 24) 8))) = true))
    ∧ ((List.replicate 128 0).length = 2 * chunkElems (pgRec (sReadback 1) 1 1) 0 ∧ crc64 (List.replicate 128 0) = hbmLE (sReadback 1) (digAddr (pgRec (sReadback 1) 1 1) 0) 8 ∧ true ∉ ([] : List Bool)) :=
  ⟨by decide +kernel,
    ⟨by decide +kernel, by rw [crc64_zeros]; decide +kernel, by decide⟩⟩

theorem wit_AuditsAndSnapshots_6 :
    ((ueSt (sReadback 1) 1).readback = (1, 0) :: [])
    ∧ (bit (digFlags (sReadback 1) (pgRec (sReadback 1) 1 1) 0) 0 = true)
    ∧ (gaNode (bits (hbmLE (sReadback 1) (digAddr (pgRec (sReadback 1) 1 1) 0 + 16) 2) 13 0 * 2 ^ 50 + gaLocal (hbmLE (sReadback 1) (digAddr (pgRec (sReadback 1) 1 1) 0 + 24) 8)) ≠ nodeId (sReadback 1))
    ∧ (reachable (sReadback 1) (gaNode (bits (hbmLE (sReadback 1) (digAddr (pgRec (sReadback 1) 1 1) 0 + 16) 2) 13 0 * 2 ^ 50 + gaLocal (hbmLE (sReadback 1) (digAddr (pgRec (sReadback 1) 1 1) 0 + 24) 8))) = true)
    ∧ (¬ ((List.replicate 127 0).length = 2 * chunkElems (pgRec (sReadback 1) 1 1) 0 ∧ crc64 (List.replicate 127 0) = hbmLE (sReadback 1) (digAddr (pgRec (sReadback 1) 1 1) 0) 8 ∧ true ∉ ([] : List Bool))) :=
  by decide +kernel

theorem wit_AuditsAndSnapshots_7 :
    ((ueSt (sReadback 0) 1).readback = (1, 0) :: [])
    ∧ (bit (digFlags (sReadback 0) (pgRec (sReadback 0) 1 1) 0) 0 = false) :=
  by decide +kernel

theorem wit_AuditsAndSnapshots_8 :
    (isHbmSite (sFreeze (some (ueRun [0] 0 .vector))).build 1 = true)
    ∧ (riHolds (sFreeze (some (ueRun [0] 0 .vector))) 1 = false)
    ∧ (firstErr (actionErrs (sFreeze (some (ueRun [0] 0 .vector))) ⟨0, (sFreeze (some (ueRun [0] 0 .vector))).press.imp, (sFreeze (some (ueRun [0] 0 .vector))).press.pt, 3, 1, 0, 1⟩) = .ok)
    ∧ ((ueSt (sFreeze (some (ueRun [0] 0 .vector))) 1).run = (some (ueRun [0] 0 .vector))) :=
  by decide +kernel

theorem wit_AuditsAndSnapshots_9 :
    (isHbmSite (sFreeze none).build 1 = true)
    ∧ (riHolds (sFreeze none) 1 = false)
    ∧ (firstErr (actionErrs (sFreeze none) ⟨0, (sFreeze none).press.imp, (sFreeze none).press.pt, 3, 1, 0, 1⟩) = .ok)
    ∧ ((ueSt (sFreeze none) 1).run = none) :=
  by decide +kernel

theorem wit_AuditsAndSnapshots_10 :
    ((ueSt sStream 1).snap = some ⟨1, pgBytes, true⟩)
    ∧ (fv sStream UPDT_SNAP_STATE 1 = 1)
    ∧ (fb sStream UPDT_SNAP_ETH 1 = false) :=
  by decide +kernel

/-! ContextsAreLoaded -/

theorem wit_ContextsAreLoaded_1 :
    (15 < 16)
    ∧ (31 < 32)
    ∧ (5 < 2 ^ 32)
    ∧ (bits 5 2 0 ≠ 0)
    ∧ (accepted (sSolv 0 0) core0 (solvReg 15 (0x800 + 0x40 * 31)) 4 5 = true) :=
  by decide +kernel

theorem wit_ContextsAreLoaded_2 :
    (0 < 2 ^ 32)
    ∧ (bits 0 2 0 = 0)
    ∧ (accepted (sSolv 5 1) core0 (solvReg 15 (0x800 + 0x40 * 31)) 4 0 = true)
    ∧ (cMode (sSolv 5 1) 15 31 ≠ 0) :=
  by decide +kernel

theorem wit_ContextsAreLoaded_3 :
    (goRec_ = stagedRec (sGoStaged false) SOLV_GO_W 15 8)
    ∧ (accepted (sGoStaged false) core0 (solvReg 15 0x068) 4 1 = true)
    ∧ ((ctxAt (sGoStaged false) 15 (bits (recLE goRec_ 1 1) 4 0)).solve.isSome = false) :=
  by decide +kernel

theorem wit_ContextsAreLoaded_4 :
    (goRec_ = stagedRec (sGoStaged true) SOLV_GO_W 15 8)
    ∧ (accepted (sGoStaged true) core0 (solvReg 15 0x068) 4 1 = true)
    ∧ ((ctxAt (sGoStaged true) 15 (bits (recLE goRec_ 1 1) 4 0)).solve.isSome = true) :=
  by decide +kernel

theorem wit_ContextsAreLoaded_5 :
    (fifoOf (sStreamRec goRec_ (sBatch 1)) (solvWin 15) = [⟨0, 0, goRec_, false⟩])
    ∧ (srB goRec_ 0 = 4)
    ∧ (firstErr (goErrs (sStreamRec goRec_ (sBatch 1)) 15 goRec_) = .ok) :=
  by decide +kernel

theorem wit_ContextsAreLoaded_6 :
    (fifoOf (sStreamRec (recOf 32 [(0, 1, 1), (1, 1, 31), (4, 1, 1), (12, 4, 0x3F800000)]) (sBatch 1)) (solvWin 15) = [⟨0, 0, (recOf 32 [(0, 1, 1), (1, 1, 31), (4, 1, 1), (12, 4, 0x3F800000)]), false⟩])
    ∧ (cState (sStreamRec (recOf 32 [(0, 1, 1), (1, 1, 31), (4, 1, 1), (12, 4, 0x3F800000)]) (sBatch 1)) 15 (srCtx (recOf 32 [(0, 1, 1), (1, 1, 31), (4, 1, 1), (12, 4, 0x3F800000)])) < 3)
    ∧ (firstErr (srErrs (sStreamRec (recOf 32 [(0, 1, 1), (1, 1, 31), (4, 1, 1), (12, 4, 0x3F800000)]) (sBatch 1)) 15 (recOf 32 [(0, 1, 1), (1, 1, 31), (4, 1, 1), (12, 4, 0x3F800000)])) = .ok)
    ∧ (srB (recOf 32 [(0, 1, 1), (1, 1, 31), (4, 1, 1), (12, 4, 0x3F800000)]) 0 = 1)
    ∧ (srB (recOf 32 [(0, 1, 1), (1, 1, 31), (4, 1, 1), (12, 4, 0x3F800000)]) 4 = 1) :=
  by decide +kernel

theorem wit_ContextsAreLoaded_7 :
    (fifoOf (sStreamRec (recOf 32 [(0, 1, 2), (1, 1, 31), (4, 1, 2), (6, 1, 1), (8, 4, 0x3F800000)]) (sBatch 1)) (solvWin 15) = [⟨0, 0, (recOf 32 [(0, 1, 2), (1, 1, 31), (4, 1, 2), (6, 1, 1), (8, 4, 0x3F800000)]), false⟩])
    ∧ (cState (sStreamRec (recOf 32 [(0, 1, 2), (1, 1, 31), (4, 1, 2), (6, 1, 1), (8, 4, 0x3F800000)]) (sBatch 1)) 15 (srCtx (recOf 32 [(0, 1, 2), (1, 1, 31), (4, 1, 2), (6, 1, 1), (8, 4, 0x3F800000)])) < 3)
    ∧ (firstErr (srErrs (sStreamRec (recOf 32 [(0, 1, 2), (1, 1, 31), (4, 1, 2), (6, 1, 1), (8, 4, 0x3F800000)]) (sBatch 1)) 15 (recOf 32 [(0, 1, 2), (1, 1, 31), (4, 1, 2), (6, 1, 1), (8, 4, 0x3F800000)])) = .ok)
    ∧ (srB (recOf 32 [(0, 1, 2), (1, 1, 31), (4, 1, 2), (6, 1, 1), (8, 4, 0x3F800000)]) 0 = 2)
    ∧ (0 < srB (recOf 32 [(0, 1, 2), (1, 1, 31), (4, 1, 2), (6, 1, 1), (8, 4, 0x3F800000)]) 6)
    ∧ (srB (recOf 32 [(0, 1, 2), (1, 1, 31), (4, 1, 2), (6, 1, 1), (8, 4, 0x3F800000)]) 4 % 4 = 2) :=
  by decide +kernel

theorem wit_ContextsAreLoaded_8 :
    (fifoOf (sStreamRec (recOf 32 [(0, 1, 2), (1, 1, 31), (4, 1, 0), (6, 1, 1), (8, 4, 0x3F800000)]) (sBatch 1)) (solvWin 15) = [⟨0, 0, (recOf 32 [(0, 1, 2), (1, 1, 31), (4, 1, 0), (6, 1, 1), (8, 4, 0x3F800000)]), false⟩])
    ∧ (cState (sStreamRec (recOf 32 [(0, 1, 2), (1, 1, 31), (4, 1, 0), (6, 1, 1), (8, 4, 0x3F800000)]) (sBatch 1)) 15 (srCtx (recOf 32 [(0, 1, 2), (1, 1, 31), (4, 1, 0), (6, 1, 1), (8, 4, 0x3F800000)])) < 3)
    ∧ (firstErr (srErrs (sStreamRec (recOf 32 [(0, 1, 2), (1, 1, 31), (4, 1, 0), (6, 1, 1), (8, 4, 0x3F800000)]) (sBatch 1)) 15 (recOf 32 [(0, 1, 2), (1, 1, 31), (4, 1, 0), (6, 1, 1), (8, 4, 0x3F800000)])) = .ok)
    ∧ (srB (recOf 32 [(0, 1, 2), (1, 1, 31), (4, 1, 0), (6, 1, 1), (8, 4, 0x3F800000)]) 0 = 2)
    ∧ (0 < srB (recOf 32 [(0, 1, 2), (1, 1, 31), (4, 1, 0), (6, 1, 1), (8, 4, 0x3F800000)]) 6)
    ∧ (srB (recOf 32 [(0, 1, 2), (1, 1, 31), (4, 1, 0), (6, 1, 1), (8, 4, 0x3F800000)]) 4 % 4 = 0) :=
  by decide +kernel

theorem wit_ContextsAreLoaded_9 :
    (fifoOf (sStreamRec (recOf 32 [(0, 1, 2), (1, 1, 31), (4, 1, 1), (6, 1, 1), (8, 4, 0x3F800000)]) (sBatch 1)) (solvWin 15) = [⟨0, 0, (recOf 32 [(0, 1, 2), (1, 1, 31), (4, 1, 1), (6, 1, 1), (8, 4, 0x3F800000)]), false⟩])
    ∧ (cState (sStreamRec (recOf 32 [(0, 1, 2), (1, 1, 31), (4, 1, 1), (6, 1, 1), (8, 4, 0x3F800000)]) (sBatch 1)) 15 (srCtx (recOf 32 [(0, 1, 2), (1, 1, 31), (4, 1, 1), (6, 1, 1), (8, 4, 0x3F800000)])) < 3)
    ∧ (firstErr (srErrs (sStreamRec (recOf 32 [(0, 1, 2), (1, 1, 31), (4, 1, 1), (6, 1, 1), (8, 4, 0x3F800000)]) (sBatch 1)) 15 (recOf 32 [(0, 1, 2), (1, 1, 31), (4, 1, 1), (6, 1, 1), (8, 4, 0x3F800000)])) = .ok)
    ∧ (srB (recOf 32 [(0, 1, 2), (1, 1, 31), (4, 1, 1), (6, 1, 1), (8, 4, 0x3F800000)]) 0 = 2)
    ∧ (0 < srB (recOf 32 [(0, 1, 2), (1, 1, 31), (4, 1, 1), (6, 1, 1), (8, 4, 0x3F800000)]) 6)
    ∧ (srB (recOf 32 [(0, 1, 2), (1, 1, 31), (4, 1, 1), (6, 1, 1), (8, 4, 0x3F800000)]) 4 % 4 = 1) :=
  by decide +kernel

theorem wit_ContextsAreLoaded_10 :
    (fifoOf (sStreamRec (recOf 32 [(0, 1, 3), (1, 1, 31), (5, 1, 1), (7, 1, 1)]) (sBatch 1)) (solvWin 15) = [⟨0, 0, (recOf 32 [(0, 1, 3), (1, 1, 31), (5, 1, 1), (7, 1, 1)]), false⟩])
    ∧ (cState (sStreamRec (recOf 32 [(0, 1, 3), (1, 1, 31), (5, 1, 1), (7, 1, 1)]) (sBatch 1)) 15 (srCtx (recOf 32 [(0, 1, 3), (1, 1, 31), (5, 1, 1), (7, 1, 1)])) < 3)
    ∧ (firstErr (srErrs (sStreamRec (recOf 32 [(0, 1, 3), (1, 1, 31), (5, 1, 1), (7, 1, 1)]) (sBatch 1)) 15 (recOf 32 [(0, 1, 3), (1, 1, 31), (5, 1, 1), (7, 1, 1)])) = .ok)
    ∧ (srB (recOf 32 [(0, 1, 3), (1, 1, 31), (5, 1, 1), (7, 1, 1)]) 0 = 3) :=
  by decide +kernel

/-! SolvesRunToDelivery -/

theorem wit_SolvesRunToDelivery_1 :
    (15 < 16)
    ∧ (bestContext ((acts [timeTo 0, wakeContexts 15]).run (sRunnable 3)) 15 = some 31)
    ∧ (gangFree ((acts [timeTo 0, wakeContexts 15]).run (sRunnable 3)) 15 31 = true)
    ∧ (cState ((acts [timeTo 0, wakeContexts 15]).run (sRunnable 3)) 15 31 = 3)
    ∧ (∀ d ∈ List.range 32, cState ((acts [timeTo 0, wakeContexts 15]).run (sRunnable 3)) 15 d = 3 ∨ cState ((acts [timeTo 0, wakeContexts 15]).run (sRunnable 3)) 15 d = 5 → fv ((acts [timeTo 0, wakeContexts 15]).run (sRunnable 3)) SOLV_PRIO 15 d ≤ fv ((acts [timeTo 0, wakeContexts 15]).run (sRunnable 3)) SOLV_PRIO 15 31 ∧ (fv ((acts [timeTo 0, wakeContexts 15]).run (sRunnable 3)) SOLV_PRIO 15 d = fv ((acts [timeTo 0, wakeContexts 15]).run (sRunnable 3)) SOLV_PRIO 15 31 → ctxDeadline ((acts [timeTo 0, wakeContexts 15]).run (sRunnable 3)) 15 31 ≤ ctxDeadline ((acts [timeTo 0, wakeContexts 15]).run (sRunnable 3)) 15 d)) :=
  by decide +kernel

theorem wit_SolvesRunToDelivery_2 :
    (15 < 16)
    ∧ (bestContext ((acts [timeTo 0, wakeContexts 15]).run (sRunnable 5)) 15 = some 31)
    ∧ (gangFree ((acts [timeTo 0, wakeContexts 15]).run (sRunnable 5)) 15 31 = true)
    ∧ (cState ((acts [timeTo 0, wakeContexts 15]).run (sRunnable 5)) 15 31 = 5)
    ∧ (∀ d ∈ List.range 32, cState ((acts [timeTo 0, wakeContexts 15]).run (sRunnable 5)) 15 d = 3 ∨ cState ((acts [timeTo 0, wakeContexts 15]).run (sRunnable 5)) 15 d = 5 → fv ((acts [timeTo 0, wakeContexts 15]).run (sRunnable 5)) SOLV_PRIO 15 d ≤ fv ((acts [timeTo 0, wakeContexts 15]).run (sRunnable 5)) SOLV_PRIO 15 31 ∧ (fv ((acts [timeTo 0, wakeContexts 15]).run (sRunnable 5)) SOLV_PRIO 15 d = fv ((acts [timeTo 0, wakeContexts 15]).run (sRunnable 5)) SOLV_PRIO 15 31 → ctxDeadline ((acts [timeTo 0, wakeContexts 15]).run (sRunnable 5)) 15 31 ≤ ctxDeadline ((acts [timeTo 0, wakeContexts 15]).run (sRunnable 5)) 15 d)) :=
  by decide +kernel

theorem wit_SolvesRunToDelivery_3 :
    ((solvSt ((acts [timeTo 0, wakeContexts 15]).run (sRunning 5 0 solveB)) 15).run = some (15, 31))
    ∧ (0 ≠ 31 ∧ cState ((acts [timeTo 0, wakeContexts 15]).run (sRunning 5 0 solveB)) 15 0 = 3 ∧ fv ((acts [timeTo 0, wakeContexts 15]).run (sRunning 5 0 solveB)) SOLV_PRIO 15 31 < fv ((acts [timeTo 0, wakeContexts 15]).run (sRunning 5 0 solveB)) SOLV_PRIO 15 0) :=
  by decide +kernel

theorem wit_SolvesRunToDelivery_4 :
    ((solvSt (sRunning 5 0 solveB) 15).run = some (15, 31))
    ∧ (cState (sRunning 5 0 solveB) 15 31 = 4)
    ∧ ((ctxAt (sRunning 5 0 solveB) 15 31).solve = some solveB)
    ∧ (cMode (sRunning 5 0 solveB) 15 31 = 5)
    ∧ (fv (sRunning 5 0 solveB) SOLV_ITERS 15 31 ≤ solveB.iters + 1) :=
  by decide +kernel

theorem wit_SolvesRunToDelivery_5 :
    ((solvSt (sRunning 1 0 solve0) 15).run = some (15, 31))
    ∧ (cState (sRunning 1 0 solve0) 15 31 = 4)
    ∧ ((ctxAt (sRunning 1 0 solve0) 15 31).solve = some solve0)
    ∧ (cMode (sRunning 1 0 solve0) 15 31 ≠ 4)
    ∧ (cMode (sRunning 1 0 solve0) 15 31 ≠ 5) :=
  by decide +kernel

theorem wit_SolvesRunToDelivery_6 :
    ((ctxAt (sRunning 5 1 solveB) 15 31).go = some (go_ 1))
    ∧ ((go_ 1).noDeadline = false)
    ∧ (reached ((timeTo 20000).run (sRunning 5 1 solveB)) (go_ 1).deadline = true)
    ∧ (2 ≤ cState (sRunning 5 1 solveB) 15 31)
    ∧ (cState (sRunning 5 1 solveB) 15 31 ≠ 6) :=
  by decide +kernel

theorem wit_SolvesRunToDelivery_7 :
    ((ctxAt (sRunning 5 0 { solveB with outcome := some 1 }) 15 31).solve = some { solveB with outcome := some 1 })
    ∧ ((ctxAt (sRunning 5 0 { solveB with outcome := some 1 }) 15 31).go = some (go_ 0))
    ∧ (({ solveB with outcome := some 1 } : Solve).outcome = some 1)
    ∧ (fv (sRunning 5 0 { solveB with outcome := some 1 }) SOLV_SRC_KIND 15 31 ≠ 1) :=
  by decide +kernel

theorem wit_SolvesRunToDelivery_8 :
    ((ctxAt (sRunning 5 0 { solveB with outcome := some 4 }) 15 31).solve = some { solveB with outcome := some 4 })
    ∧ ((ctxAt (sRunning 5 0 { solveB with outcome := some 4 }) 15 31).go = some (go_ 0))
    ∧ (({ solveB with outcome := some 4 } : Solve).outcome = some 4)
    ∧ (fv (sRunning 5 0 { solveB with outcome := some 4 }) SOLV_SRC_KIND 15 31 ≠ 1) :=
  by decide +kernel

theorem wit_SolvesRunToDelivery_9 :
    ((ctxAt sShadow 15 31).solve = some { solveB with outcome := some 3 })
    ∧ ((ctxAt sShadow 15 31).go = some (go_ 0))
    ∧ (fv sShadow SOLV_SRC_KIND 15 31 = 1 ∧ 3 ≤ 3)
    ∧ (shadowBound sShadow (curvSrc sShadow 15 31).1 (curvSrc sShadow 15 31).2.1 (curvSrc sShadow 15 31).2.2.1 (curvSrc sShadow 15 31).2.2.2 = true) :=
  by decide +kernel

/-! SheavesOpenAndClose -/

theorem wit_SheavesOpenAndClose_1 :
    (isLinkSite (sShef 1 [] (openRec 1 2 0)).build 0 = true)
    ∧ (stagedType (sShef 1 [] (openRec 1 2 0)) SHEF_OPEN_W 0 = 1)
    ∧ (accepted (sShef 1 [] (openRec 1 2 0)) core0 (siteReg 0 0 0x0A0) 4 1 = true)
    ∧ (opLen (stagedRec (sShef 1 [] (openRec 1 2 0)) SHEF_OPEN_W 0 16) = 0) :=
  by decide +kernel

theorem wit_SheavesOpenAndClose_2 :
    (isLinkSite (sShef 1 [] (openRec 1 2 512)).build 0 = true)
    ∧ (stagedType (sShef 1 [] (openRec 1 2 512)) SHEF_OPEN_W 0 = 1)
    ∧ (accepted (sShef 1 [] (openRec 1 2 512)) core0 (siteReg 0 0 0x0A0) 4 1 = true)
    ∧ (opLen (stagedRec (sShef 1 [] (openRec 1 2 512)) SHEF_OPEN_W 0 16) ≠ 0)
    ∧ (((sShef 1 [] (openRec 1 2 512)).shef.parked ++ (sShef 1 [] (openRec 1 2 512)).shef.held).length = 0) :=
  by decide +kernel

theorem wit_SheavesOpenAndClose_3 :
    (isLinkSite (sShef 2 [shf 2 2 (.scale 1) none] (openRec 2 0 0)).build 0 = true)
    ∧ (stagedType (sShef 2 [shf 2 2 (.scale 1) none] (openRec 2 0 0)) SHEF_OPEN_W 0 = 2)
    ∧ (accepted (sShef 2 [shf 2 2 (.scale 1) none] (openRec 2 0 0)) core0 (siteReg 0 0 0x0A0) 4 1 = true)
    ∧ (sheafOf (sShef 2 [shf 2 2 (.scale 1) none] (openRec 2 0 0)) (opTag (stagedRec (sShef 2 [shf 2 2 (.scale 1) none] (openRec 2 0 0)) SHEF_OPEN_W 0 16)) = some (shf 2 2 (.scale 1) none)) :=
  by decide +kernel

theorem wit_SheavesOpenAndClose_4 :
    (sheafOf (sShefLate (shf 2 2 .line none)) 7 = some (shf 2 2 .line none))
    ∧ (opNoDl (shf 2 2 .line none).rec_ = false)
    ∧ (reached ((timeTo 0).run (sShefLate (shf 2 2 .line none))) (opDeadline (shf 2 2 .line none).rec_) = true)
    ∧ ((shf 2 2 .line none).phase = .line) :=
  by decide +kernel

theorem wit_SheavesOpenAndClose_5 :
    (sheafOf (sShefLate (shf 2 2 .read none)) 7 = some (shf 2 2 .read none))
    ∧ (opNoDl (shf 2 2 .read none).rec_ = false)
    ∧ (reached ((timeTo 0).run (sShefLate (shf 2 2 .read none))) (opDeadline (shf 2 2 .read none).rec_) = true)
    ∧ ((shf 2 2 .read none).phase = .read) :=
  by decide +kernel

theorem wit_SheavesOpenAndClose_6 :
    (sheafOf (sShefLate (shf 2 2 (.scale 1) none)) 7 = some (shf 2 2 (.scale 1) none))
    ∧ (opNoDl (shf 2 2 (.scale 1) none).rec_ = false)
    ∧ (reached ((timeTo 0).run (sShefLate (shf 2 2 (.scale 1) none))) (opDeadline (shf 2 2 (.scale 1) none).rec_) = true)
    ∧ ((shf 2 2 (.scale 1) none).phase = (.scale 1)) :=
  by decide +kernel

theorem wit_SheavesOpenAndClose_7 :
    (sheafOf (sShefLate (shf 2 2 (.stage 3) none)) 7 = some (shf 2 2 (.stage 3) none))
    ∧ (opNoDl (shf 2 2 (.stage 3) none).rec_ = false)
    ∧ (reached ((timeTo 0).run (sShefLate (shf 2 2 (.stage 3) none))) (opDeadline (shf 2 2 (.stage 3) none).rec_) = true)
    ∧ ((shf 2 2 (.stage 3) none).phase = (.stage 3)) :=
  by decide +kernel

theorem wit_SheavesOpenAndClose_8 :
    (sheafOf (sShefLate (shf 2 2 (.epi 1) (some 0))) 7 = some (shf 2 2 (.epi 1) (some 0)))
    ∧ ((shf 2 2 (.epi 1) (some 0)).phase = .epi 1)
    ∧ ((shf 2 2 (.epi 1) (some 0)).delivered + fv (sShefLate (shf 2 2 (.epi 1) (some 0))) SHEF_EPI_LIMIT ≤ (sShefLate (shf 2 2 (.epi 1) (some 0))).press.imp) :=
  by decide +kernel

theorem wit_SheavesOpenAndClose_9 :
    (isLinkSite (sShef 2 [] []).build 0 = true)
    ∧ (2 ^ 31 + 0xFFFF < 2 ^ 32)
    ∧ (accepted (sShef 2 [] []) core0 (siteReg 0 0 0x0AC) 4 (2 ^ 31 + 0xFFFF) = true) :=
  by decide +kernel

/-! SheavesReduce -/

theorem wit_SheavesReduce_1 :
    (sheafOf (sShef 2 [] []) 7 = none)
    ∧ ((7, 0) ∉ (sShef 2 [] []).shef.closed)
    ∧ (parkBytes ((sShef 2 [] []).shef.parked ++ [(1, blk 0 0 64 false)]) ≤ fv (sShef 2 [] []) SHEF_PARK_MIB * 2 ^ 20) :=
  by decide +kernel

theorem wit_SheavesReduce_2 :
    (sheafOf sShefClosed 7 = none)
    ∧ ((7, 0) ∈ sShefClosed.shef.closed) :=
  by decide +kernel

theorem wit_SheavesReduce_3 :
    (sheafOf (sShef 2 [(shf 2 2 .read (some 0))] []) 7 = some (shf 2 2 .read (some 0)))
    ∧ ((shf 2 2 .read (some 0)).gen = 0)
    ∧ ((shf 2 2 .read (some 0)).expo = some 0)
    ∧ (toInt 16 0 = 0)
    ∧ (64 = shWidth (shf 2 2 .read (some 0)).rec_ 1) :=
  by decide +kernel

theorem wit_SheavesReduce_4 :
    (sheafOf (sShef 2 [(shf 2 2 .read (some 0))] []) 7 = some (shf 2 2 .read (some 0)))
    ∧ ((shf 2 2 .read (some 0)).gen = 0)
    ∧ ((shf 2 2 .read (some 0)).expo = some 0)
    ∧ (true = true) :=
  by decide +kernel

theorem wit_SheavesReduce_5 :
    (sheafOf (sShef 2 [(shf 2 2 .read (some 0))] []) 7 = some (shf 2 2 .read (some 0)))
    ∧ ((shf 2 2 .read (some 0)).gen = 0)
    ∧ ((shf 2 2 .read (some 0)).expo = some 0)
    ∧ (toInt 16 1 ≠ 0) :=
  by decide +kernel

theorem wit_SheavesReduce_6 :
    (sheafOf (sShef 2 [(shf 2 2 .read (some 0))] []) 7 = some (shf 2 2 .read (some 0)))
    ∧ ((shf 2 2 .read (some 0)).gen = 0)
    ∧ ((shf 2 2 .read (some 0)).expo = some 0)
    ∧ (32 ≠ shWidth (shf 2 2 .read (some 0)).rec_ 1) :=
  by decide +kernel

theorem wit_SheavesReduce_7 :
    (sheafOf (sShef 3 [(shf 2 3 (.scale 1) none)] []) 7 = some (shf 2 3 (.scale 1) none))
    ∧ ((shf 2 3 (.scale 1) none).gen = 0)
    ∧ ((shf 2 3 (.scale 1) none).phase = .scale 1)
    ∧ ((((shf 2 3 (.scale 1) none).scaleGot ++ [(1, 5)]).filter fun (p : Nat × _) => p.1 == 1).length + 1 < gP (shf 2 3 (.scale 1) none).grp 1) :=
  by decide +kernel

theorem wit_SheavesReduce_8 :
    (sheafOf (sShef 2 [(shf 2 2 (.scale 1) none)] []) 7 = some (shf 2 2 (.scale 1) none))
    ∧ ((shf 2 2 (.scale 1) none).gen = 0)
    ∧ ((shf 2 2 (.scale 1) none).phase = .scale 1)
    ∧ (gP (shf 2 2 (.scale 1) none).grp 1 ≤ (((shf 2 2 (.scale 1) none).scaleGot ++ [(1, 5)]).filter fun (p : Nat × _) => p.1 == 1).length + 1)
    ∧ (∀ j ∈ ([2, 3] : List Nat), gP (shf 2 2 (.scale 1) none).grp j = 1)
    ∧ ((shf 2 2 (.scale 1) none).early = []) :=
  by decide +kernel

theorem wit_SheavesReduce_9 :
    ((sheafOf (sShef 2 [(shf 3 2 .read (some 0))] []) 7 = some (shf 3 2 .read (some 0)))
    ∧ ((shf 3 2 .read (some 0)).phase = .read)
    ∧ ((shf 3 2 .read (some 0)).expo = some 0))
    ∧ (calm (sShef 2 [(shf 3 2 .read (some 0))] [])) :=
  ⟨by decide +kernel,
    calm_of _ (by decide +kernel)⟩

theorem wit_SheavesReduce_10 :
    (sheafOf (sShef 2 [(shfStage 1)] []) 7 = some (shfStage 1))
    ∧ ((shfStage 1).phase = .stage 1)
    ∧ (stageFull (shfStage 1) 1 = false) :=
  by decide +kernel

theorem wit_SheavesReduce_11 :
    (sheafOf (sShef 2 [(shfStage 2)] []) 7 = some (shfStage 2))
    ∧ ((shfStage 2).phase = .stage 1)
    ∧ (stageFull (shfStage 2) 1 = true) :=
  by decide +kernel

theorem wit_SheavesReduce_12 :
    ((sheafOf (sShef 1 [shfReady] []) 7 = some shfReady)
    ∧ (shfReady.phase = .ready)
    ∧ (opRoot shfReady.rec_ = false)
    ∧ (placeOf (sShef 1 [shfReady] []) (opDst shfReady.rec_) = .mem (.hbm 1) 0x20000)
    ∧ (writeRefused (sShef 1 [shfReady] []) (opDst shfReady.rec_) (shBytes shfReady).length = false)
    ∧ (opSts shfReady.rec_ = 0)
    ∧ (true ∉ shfReady.marks)
    ∧ (fb (sShef 1 [shfReady] []) UPDT_PG_EN 1 = false ∧ fb (sShef 1 [shfReady] []) UPDT_CURV_EN 1 = false)
    ∧ (∀ k ∈ ([1, 2, 3] : List Nat), gP shfReady.grp k = 1))
    ∧ (calm (sShef 1 [shfReady] [])) :=
  ⟨by decide +kernel,
    calm_of _ (by decide +kernel)⟩

theorem wit_SheavesReduce_13 :
    (sheafOf (sShef 3 [(shf 2 3 (.epi 1) (some 0))] []) 7 = some (shf 2 3 (.epi 1) (some 0)))
    ∧ ((shf 2 3 (.epi 1) (some 0)).gen = 0)
    ∧ ((shf 2 3 (.epi 1) (some 0)).phase = .epi 1)
    ∧ ((((shf 2 3 (.epi 1) (some 0)).epiGot ++ [(1, epiNone)]).filter fun (p : Nat × _) => p.1 == 1).length + 1 < gP (shf 2 3 (.epi 1) (some 0)).grp 1) :=
  by decide +kernel

theorem wit_SheavesReduce_14 :
    (sheafOf (sShef 2 [(shf 2 2 (.epi 1) (some 0))] []) 7 = some (shf 2 2 (.epi 1) (some 0)))
    ∧ ((shf 2 2 (.epi 1) (some 0)).gen = 0)
    ∧ ((shf 2 2 (.epi 1) (some 0)).phase = .epi 1)
    ∧ (gP (shf 2 2 (.epi 1) (some 0)).grp 1 ≤ (((shf 2 2 (.epi 1) (some 0)).epiGot ++ [(1, epiNone)]).filter fun (p : Nat × _) => p.1 == 1).length + 1)
    ∧ (∀ j ∈ ([2, 3] : List Nat), gP (shf 2 2 (.epi 1) (some 0)).grp j = 1) :=
  by decide +kernel

/-! PlacementCommandsWriteEntries -/

theorem wit_PlacementCommandsWriteEntries_1 :
    (((optCmd 17 65535).length = 64)
    ∧ (inSiteHbm (optAddr (sOpt (optEntry false dataA 0) (optCmd 17 65535)) (ocHandle (optCmd 17 65535)) / 2 ^ 36) (optAddr (sOpt (optEntry false dataA 0) (optCmd 17 65535)) (ocHandle (optCmd 17 65535))) 64 = true)
    ∧ (0x11 ≤ recLE (optCmd 17 65535) 0 1 ∧ recLE (optCmd 17 65535) 0 1 ≤ 0x13)
    ∧ ((optCmd 17 65535) = optStaged (sOpt (optEntry false dataA 0) (optCmd 17 65535)))
    ∧ (stagedType (sOpt (optEntry false dataA 0) (optCmd 17 65535)) OPTB_OPT_W 0 = recLE (optCmd 17 65535) 0 1)
    ∧ (accepted (sOpt (optEntry false dataA 0) (optCmd 17 65535)) core0 (mgdReg 0xA 0x0A0) 4 1 = true))
    ∧ (calm (sOpt (optEntry false dataA 0) (optCmd 17 65535))) :=
  ⟨by decide +kernel,
    calm_of _ (by decide +kernel)⟩

theorem wit_PlacementCommandsWriteEntries_2 :
    (((optCmd 17 65535).length = 64)
    ∧ (inSiteHbm (optAddr (sOptWin (optEntry false dataA 0) (optCmd 17 65535)) (ocHandle (optCmd 17 65535)) / 2 ^ 36) (optAddr (sOptWin (optEntry false dataA 0) (optCmd 17 65535)) (ocHandle (optCmd 17 65535))) 64 = true)
    ∧ (0x11 ≤ recLE (optCmd 17 65535) 0 1 ∧ recLE (optCmd 17 65535) 0 1 ≤ 0x13)
    ∧ (fifoOf (sOptWin (optEntry false dataA 0) (optCmd 17 65535)) 1 = [⟨0, 0, (optCmd 17 65535), false⟩])
    ∧ (firstErr (optErrs (sOptWin (optEntry false dataA 0) (optCmd 17 65535)) (optCmd 17 65535)) = .ok))
    ∧ (calm (sOptWin (optEntry false dataA 0) (optCmd 17 65535))) :=
  ⟨by decide +kernel,
    calm_of _ (by decide +kernel)⟩

theorem wit_PlacementCommandsWriteEntries_3 :
    (((optCmd 18 65535).length = 64)
    ∧ (inSiteHbm (optAddr (sOpt (optEntry false dataA 0) (optCmd 18 65535)) (ocHandle (optCmd 18 65535)) / 2 ^ 36) (optAddr (sOpt (optEntry false dataA 0) (optCmd 18 65535)) (ocHandle (optCmd 18 65535))) 64 = true)
    ∧ (0x11 ≤ recLE (optCmd 18 65535) 0 1 ∧ recLE (optCmd 18 65535) 0 1 ≤ 0x13)
    ∧ ((optCmd 18 65535) = optStaged (sOpt (optEntry false dataA 0) (optCmd 18 65535)))
    ∧ (stagedType (sOpt (optEntry false dataA 0) (optCmd 18 65535)) OPTB_OPT_W 0 = recLE (optCmd 18 65535) 0 1)
    ∧ (accepted (sOpt (optEntry false dataA 0) (optCmd 18 65535)) core0 (mgdReg 0xA 0x0A0) 4 1 = true))
    ∧ (calm (sOpt (optEntry false dataA 0) (optCmd 18 65535))) :=
  ⟨by decide +kernel,
    calm_of _ (by decide +kernel)⟩

theorem wit_PlacementCommandsWriteEntries_4 :
    (((optCmd 18 65535).length = 64)
    ∧ (inSiteHbm (optAddr (sOptWin (optEntry false dataA 0) (optCmd 18 65535)) (ocHandle (optCmd 18 65535)) / 2 ^ 36) (optAddr (sOptWin (optEntry false dataA 0) (optCmd 18 65535)) (ocHandle (optCmd 18 65535))) 64 = true)
    ∧ (0x11 ≤ recLE (optCmd 18 65535) 0 1 ∧ recLE (optCmd 18 65535) 0 1 ≤ 0x13)
    ∧ (fifoOf (sOptWin (optEntry false dataA 0) (optCmd 18 65535)) 1 = [⟨0, 0, (optCmd 18 65535), false⟩])
    ∧ (firstErr (optErrs (sOptWin (optEntry false dataA 0) (optCmd 18 65535)) (optCmd 18 65535)) = .ok))
    ∧ (calm (sOptWin (optEntry false dataA 0) (optCmd 18 65535))) :=
  ⟨by decide +kernel,
    calm_of _ (by decide +kernel)⟩

theorem wit_PlacementCommandsWriteEntries_5 :
    (((optCmd 19 65535).length = 64)
    ∧ (inSiteHbm (optAddr (sOpt (optEntry false dataA 0) (optCmd 19 65535)) (ocHandle (optCmd 19 65535)) / 2 ^ 36) (optAddr (sOpt (optEntry false dataA 0) (optCmd 19 65535)) (ocHandle (optCmd 19 65535))) 64 = true)
    ∧ (0x11 ≤ recLE (optCmd 19 65535) 0 1 ∧ recLE (optCmd 19 65535) 0 1 ≤ 0x13)
    ∧ ((optCmd 19 65535) = optStaged (sOpt (optEntry false dataA 0) (optCmd 19 65535)))
    ∧ (stagedType (sOpt (optEntry false dataA 0) (optCmd 19 65535)) OPTB_OPT_W 0 = recLE (optCmd 19 65535) 0 1)
    ∧ (accepted (sOpt (optEntry false dataA 0) (optCmd 19 65535)) core0 (mgdReg 0xA 0x0A0) 4 1 = true))
    ∧ (calm (sOpt (optEntry false dataA 0) (optCmd 19 65535))) :=
  ⟨by decide +kernel,
    calm_of _ (by decide +kernel)⟩

theorem wit_PlacementCommandsWriteEntries_6 :
    (((optCmd 19 65535).length = 64)
    ∧ (inSiteHbm (optAddr (sOptWin (optEntry false dataA 0) (optCmd 19 65535)) (ocHandle (optCmd 19 65535)) / 2 ^ 36) (optAddr (sOptWin (optEntry false dataA 0) (optCmd 19 65535)) (ocHandle (optCmd 19 65535))) 64 = true)
    ∧ (0x11 ≤ recLE (optCmd 19 65535) 0 1 ∧ recLE (optCmd 19 65535) 0 1 ≤ 0x13)
    ∧ (fifoOf (sOptWin (optEntry false dataA 0) (optCmd 19 65535)) 1 = [⟨0, 0, (optCmd 19 65535), false⟩])
    ∧ (firstErr (optErrs (sOptWin (optEntry false dataA 0) (optCmd 19 65535)) (optCmd 19 65535)) = .ok))
    ∧ (calm (sOptWin (optEntry false dataA 0) (optCmd 19 65535))) :=
  ⟨by decide +kernel,
    calm_of _ (by decide +kernel)⟩

/-! MovesAndPrefetchesCopyData -/

theorem wit_MovesAndPrefetchesCopyData_1 :
    (((sMove dataA 0).moves.find? (fun m => m.1 == 65535) = some (65535, 0))
    ∧ (pfWriting (sMove dataA 0) 65535 = false)
    ∧ (inSiteHbm (optAddr (sMove dataA 0) 65535 / 2 ^ 36) (optAddr (sMove dataA 0) 65535) 64 = true)
    ∧ (otTier (optRec (sMove dataA 0) 65535) = 0)
    ∧ (recLE (optRec (sMove dataA 0) 65535) 40 1 = 0)
    ∧ (isHbmAddr (sMove dataA 0) (otAddr (optRec (sMove dataA 0) 65535)) = true)
    ∧ (isHbmAddr (sMove dataA 0) (recLE (optRec (sMove dataA 0) 65535) 32 8) = true)
    ∧ (rangeErrs (sMove dataA 0) (otAddr (optRec (sMove dataA 0) 65535)) (otSize (optRec (sMove dataA 0) 65535)) = [])
    ∧ (rangeErrs (sMove dataA 0) (recLE (optRec (sMove dataA 0) 65535) 32 8) (otSize (optRec (sMove dataA 0) 65535)) = [])
    ∧ (writeRefused (sMove dataA 0) (recLE (optRec (sMove dataA 0) 65535) 32 8) (otSize (optRec (sMove dataA 0) 65535)) = false)
    ∧ ((viewsMet (sMove dataA 0) (otAddr (optRec (sMove dataA 0) 65535)) (otSize (optRec (sMove dataA 0) 65535))).length = 0)
    ∧ (rangesMeet (recLE (optRec (sMove dataA 0) 65535) 32 8, otSize (optRec (sMove dataA 0) 65535)) (optAddr (sMove dataA 0) 65535, 64) = false))
    ∧ (calm (sMove dataA 0)) :=
  ⟨by decide +kernel,
    calm_of _ (by decide +kernel)⟩

theorem wit_MovesAndPrefetchesCopyData_2 :
    (((sMove dataA 4).moves.find? (fun m => m.1 == 65535) = some (65535, 0))
    ∧ (pfWriting (sMove dataA 4) 65535 = false)
    ∧ (inSiteHbm (optAddr (sMove dataA 4) 65535 / 2 ^ 36) (optAddr (sMove dataA 4) 65535) 64 = true)
    ∧ (recLE (optRec (sMove dataA 4) 65535) 40 1 = 4))
    ∧ (calm (sMove dataA 4)) :=
  ⟨by decide +kernel,
    calm_of _ (by decide +kernel)⟩

theorem wit_MovesAndPrefetchesCopyData_3 :
    (((sMove badA 0).moves.find? (fun m => m.1 == 65535) = some (65535, 0))
    ∧ (pfWriting (sMove badA 0) 65535 = false)
    ∧ (inSiteHbm (optAddr (sMove badA 0) 65535 / 2 ^ 36) (optAddr (sMove badA 0) 65535) 64 = true)
    ∧ (otTier (optRec (sMove badA 0) 65535) = 0)
    ∧ (recLE (optRec (sMove badA 0) 65535) 40 1 < 4)
    ∧ (rangeErrs (sMove badA 0) (otAddr (optRec (sMove badA 0) 65535)) (otSize (optRec (sMove badA 0) 65535)) ≠ []))
    ∧ (calm (sMove badA 0)) :=
  ⟨by decide +kernel,
    calm_of _ (by decide +kernel)⟩

theorem wit_MovesAndPrefetchesCopyData_4 :
    (fifoOf (sPfWin (pfRec 0 4096 0)) 1 = [⟨0, 0, (pfRec 0 4096 0), false⟩])
    ∧ (recLE (pfRec 0 4096 0) 0 1 = 1)
    ∧ (firstErr (pfErrs (sPfWin (pfRec 0 4096 0)) 1 (pfRec 0 4096 0)) = .ok)
    ∧ (pfLen (pfRec 0 4096 0) ≠ 0) :=
  by decide +kernel

theorem wit_MovesAndPrefetchesCopyData_5 :
    (fifoOf (sPfWin (pfRec 1 4096 0)) 1 = [⟨0, 0, (pfRec 1 4096 0), false⟩])
    ∧ (recLE (pfRec 1 4096 0) 0 1 = 1)
    ∧ (firstErr (pfErrs (sPfWin (pfRec 1 4096 0)) 1 (pfRec 1 4096 0)) = .ok)
    ∧ (pfLen (pfRec 1 4096 0) ≠ 0)
    ∧ (pfFlag (pfRec 1 4096 0) 0 = true ∧ reached (sPfWin (pfRec 1 4096 0)) (pfGate (pfRec 1 4096 0)) = true) :=
  by decide +kernel

theorem wit_MovesAndPrefetchesCopyData_6 :
    (fifoOf (sPfWin (pfRec 0 4095 0)) 1 = [⟨0, 0, (pfRec 0 4095 0), false⟩])
    ∧ (recLE (pfRec 0 4095 0) 0 1 = 1)
    ∧ (firstErr (pfErrs (sPfWin (pfRec 0 4095 0)) 1 (pfRec 0 4095 0)) ≠ .ok)
    ∧ (pfLen (pfRec 0 4095 0) ≠ 0) :=
  by decide +kernel

theorem wit_MovesAndPrefetchesCopyData_7 :
    (((pfsOf (sPf false ⟨(pfRec 2 4096 0), none, false⟩) 1)[0]? = some ⟨(pfRec 2 4096 0), none, false⟩)
    ∧ (pfRunning (sPf false ⟨(pfRec 2 4096 0), none, false⟩) 1 < 32)
    ∧ (pfFlag (pfRec 2 4096 0) 0 = false)
    ∧ ((fb (sPf false ⟨(pfRec 2 4096 0), none, false⟩) OPTB_OPT_EN && otValid (optRec (sPf false ⟨(pfRec 2 4096 0), none, false⟩) (pfObj (pfRec 2 4096 0))) && decide (pfOffset (pfRec 2 4096 0) + pfLen (pfRec 2 4096 0) ≤ otSize (optRec (sPf false ⟨(pfRec 2 4096 0), none, false⟩) (pfObj (pfRec 2 4096 0))))) = true)
    ∧ (otTier (optRec (sPf false ⟨(pfRec 2 4096 0), none, false⟩) (pfObj (pfRec 2 4096 0))) ≠ 4)
    ∧ (otMoving (optRec (sPf false ⟨(pfRec 2 4096 0), none, false⟩) (pfObj (pfRec 2 4096 0))) = false)
    ∧ (pfWrite (pfRec 2 4096 0) = true))
    ∧ (calm (sPf false ⟨(pfRec 2 4096 0), none, false⟩)) :=
  ⟨by decide +kernel,
    calm_of _ (by decide +kernel)⟩

theorem wit_MovesAndPrefetchesCopyData_8 :
    (((pfsOf (sPf true ⟨(pfRec 0 4096 0), none, false⟩) 1)[0]? = some ⟨(pfRec 0 4096 0), none, false⟩)
    ∧ (pfRunning (sPf true ⟨(pfRec 0 4096 0), none, false⟩) 1 < 32)
    ∧ (pfFlag (pfRec 0 4096 0) 0 = false)
    ∧ ((fb (sPf true ⟨(pfRec 0 4096 0), none, false⟩) OPTB_OPT_EN && otValid (optRec (sPf true ⟨(pfRec 0 4096 0), none, false⟩) (pfObj (pfRec 0 4096 0))) && decide (pfOffset (pfRec 0 4096 0) + pfLen (pfRec 0 4096 0) ≤ otSize (optRec (sPf true ⟨(pfRec 0 4096 0), none, false⟩) (pfObj (pfRec 0 4096 0))))) = true)
    ∧ (otTier (optRec (sPf true ⟨(pfRec 0 4096 0), none, false⟩) (pfObj (pfRec 0 4096 0))) ≠ 4)
    ∧ (otMoving (optRec (sPf true ⟨(pfRec 0 4096 0), none, false⟩) (pfObj (pfRec 0 4096 0))) = true)
    ∧ (pfWrite (pfRec 0 4096 0) = false))
    ∧ (calm (sPf true ⟨(pfRec 0 4096 0), none, false⟩)) :=
  ⟨by decide +kernel,
    calm_of _ (by decide +kernel)⟩

theorem wit_MovesAndPrefetchesCopyData_9 :
    (((pfsOf (sPf true ⟨(pfRec 2 4096 0), none, false⟩) 1)[0]? = some ⟨(pfRec 2 4096 0), none, false⟩)
    ∧ (pfRunning (sPf true ⟨(pfRec 2 4096 0), none, false⟩) 1 < 32)
    ∧ (pfFlag (pfRec 2 4096 0) 0 = false)
    ∧ ((fb (sPf true ⟨(pfRec 2 4096 0), none, false⟩) OPTB_OPT_EN && otValid (optRec (sPf true ⟨(pfRec 2 4096 0), none, false⟩) (pfObj (pfRec 2 4096 0))) && decide (pfOffset (pfRec 2 4096 0) + pfLen (pfRec 2 4096 0) ≤ otSize (optRec (sPf true ⟨(pfRec 2 4096 0), none, false⟩) (pfObj (pfRec 2 4096 0))))) = true)
    ∧ (otTier (optRec (sPf true ⟨(pfRec 2 4096 0), none, false⟩) (pfObj (pfRec 2 4096 0))) ≠ 4)
    ∧ (otMoving (optRec (sPf true ⟨(pfRec 2 4096 0), none, false⟩) (pfObj (pfRec 2 4096 0))) = true)
    ∧ (pfWrite (pfRec 2 4096 0) = true))
    ∧ (calm (sPf true ⟨(pfRec 2 4096 0), none, false⟩)) :=
  ⟨by decide +kernel,
    calm_of _ (by decide +kernel)⟩

theorem wit_MovesAndPrefetchesCopyData_10 :
    (((pfsOf (sPf false ⟨(pfRec 0 8192 (hbm1Base + 0x500000)), none, false⟩) 1)[0]? = some ⟨(pfRec 0 8192 (hbm1Base + 0x500000)), none, false⟩)
    ∧ (pfRunning (sPf false ⟨(pfRec 0 8192 (hbm1Base + 0x500000)), none, false⟩) 1 < 32)
    ∧ (pfFlag (pfRec 0 8192 (hbm1Base + 0x500000)) 0 = false)
    ∧ ((fb (sPf false ⟨(pfRec 0 8192 (hbm1Base + 0x500000)), none, false⟩) OPTB_OPT_EN && otValid (optRec (sPf false ⟨(pfRec 0 8192 (hbm1Base + 0x500000)), none, false⟩) (pfObj (pfRec 0 8192 (hbm1Base + 0x500000)))) && decide (pfOffset (pfRec 0 8192 (hbm1Base + 0x500000)) + pfLen (pfRec 0 8192 (hbm1Base + 0x500000)) ≤ otSize (optRec (sPf false ⟨(pfRec 0 8192 (hbm1Base + 0x500000)), none, false⟩) (pfObj (pfRec 0 8192 (hbm1Base + 0x500000)))))) = false)
    ∧ (pfSts (pfRec 0 8192 (hbm1Base + 0x500000)) ≠ 0)
    ∧ (writeRefused (sPf false ⟨(pfRec 0 8192 (hbm1Base + 0x500000)), none, false⟩) (pfSts (pfRec 0 8192 (hbm1Base + 0x500000))) 32 = false)
    ∧ (isHbmAddr (sPf false ⟨(pfRec 0 8192 (hbm1Base + 0x500000)), none, false⟩) (pfSts (pfRec 0 8192 (hbm1Base + 0x500000))) = true))
    ∧ (calm (sPf false ⟨(pfRec 0 8192 (hbm1Base + 0x500000)), none, false⟩)) :=
  ⟨by decide +kernel,
    calm_of _ (by decide +kernel)⟩

theorem wit_MovesAndPrefetchesCopyData_11 :
    (((pfsOf (sPf false ⟨(pfRec 0 4096 0), some (0, 9, dataA), false⟩) 1)[0]? = some ⟨(pfRec 0 4096 0), some (0, 9, dataA), false⟩)
    ∧ (pfWrite (pfRec 0 4096 0) = false)
    ∧ (awaitsZeros (sPf false ⟨(pfRec 0 4096 0), some (0, 9, dataA), false⟩) (pfDst (pfRec 0 4096 0)) (pfLen (pfRec 0 4096 0)) = false)
    ∧ (awaitsZeros (sPf false ⟨(pfRec 0 4096 0), some (0, 9, dataA), false⟩) (dataA + pfOffset (pfRec 0 4096 0)) (pfLen (pfRec 0 4096 0)) = false)
    ∧ (pfSts (pfRec 0 4096 0) = 0)
    ∧ (isHbmAddr (sPf false ⟨(pfRec 0 4096 0), some (0, 9, dataA), false⟩) (dataA + pfOffset (pfRec 0 4096 0)) = true)
    ∧ (isHbmAddr (sPf false ⟨(pfRec 0 4096 0), some (0, 9, dataA), false⟩) (pfDst (pfRec 0 4096 0)) = true)
    ∧ (rangeErrs (sPf false ⟨(pfRec 0 4096 0), some (0, 9, dataA), false⟩) (dataA + pfOffset (pfRec 0 4096 0)) (pfLen (pfRec 0 4096 0)) = [])
    ∧ (rangeErrs (sPf false ⟨(pfRec 0 4096 0), some (0, 9, dataA), false⟩) (pfDst (pfRec 0 4096 0)) (pfLen (pfRec 0 4096 0)) = [])
    ∧ (writeRefused (sPf false ⟨(pfRec 0 4096 0), some (0, 9, dataA), false⟩) (pfDst (pfRec 0 4096 0)) (pfLen (pfRec 0 4096 0)) = false)
    ∧ ((viewsMet (sPf false ⟨(pfRec 0 4096 0), some (0, 9, dataA), false⟩) (dataA + pfOffset (pfRec 0 4096 0)) (pfLen (pfRec 0 4096 0))).length = 0))
    ∧ (calm (sPf false ⟨(pfRec 0 4096 0), some (0, 9, dataA), false⟩)) :=
  ⟨by decide +kernel,
    calm_of _ (by decide +kernel)⟩

theorem wit_MovesAndPrefetchesCopyData_12 :
    (((pfsOf (sPf false ⟨(pfRec 0 4096 0), some (0, 9, badA), false⟩) 1)[0]? = some ⟨(pfRec 0 4096 0), some (0, 9, badA), false⟩)
    ∧ (pfWrite (pfRec 0 4096 0) = false)
    ∧ (awaitsZeros (sPf false ⟨(pfRec 0 4096 0), some (0, 9, badA), false⟩) (pfDst (pfRec 0 4096 0)) (pfLen (pfRec 0 4096 0)) = false)
    ∧ (awaitsZeros (sPf false ⟨(pfRec 0 4096 0), some (0, 9, badA), false⟩) (badA + pfOffset (pfRec 0 4096 0)) (pfLen (pfRec 0 4096 0)) = false)
    ∧ (pfSts (pfRec 0 4096 0) = 0)
    ∧ (rangeErrs (sPf false ⟨(pfRec 0 4096 0), some (0, 9, badA), false⟩) (badA + pfOffset (pfRec 0 4096 0)) (pfLen (pfRec 0 4096 0)) ≠ []))
    ∧ (calm (sPf false ⟨(pfRec 0 4096 0), some (0, 9, badA), false⟩)) :=
  ⟨by decide +kernel,
    calm_of _ (by decide +kernel)⟩

/-! OtherDevicesReachLentMemory -/

theorem wit_OtherDevicesReachLentMemory_1 :
    ((rangeHeld (sPeer 1 0) hbm1Base 64 = false)
    ∧ (firstErr (remoteErrs (sPeer 1 0) 1 hbm1Base 64 false) = .ok))
    ∧ (calm (sPeer 1 0)) :=
  ⟨by decide +kernel,
    calm_of _ (by decide +kernel)⟩

theorem wit_OtherDevicesReachLentMemory_2 :
    ((rangeHeld (sPeer 1 0) hbm1Base burst.length = false)
    ∧ (firstErr (remoteErrs (sPeer 1 0) 1 hbm1Base burst.length true) = .ok)
    ∧ (placeOf (sPeer 1 0) hbm1Base = .mem (.hbm 1) 0))
    ∧ (calm (sPeer 1 0)) :=
  ⟨by decide +kernel,
    calm_of _ (by decide +kernel)⟩

theorem wit_OtherDevicesReachLentMemory_3 :
    (rangeHeld (sPeer 1 1) (hbm1Base + 0x1000000) burst.length = false)
    ∧ (16383 < 2 ^ 14)
    ∧ (firstErr (remoteErrs (sPeer 1 1) 16383 (hbm1Base + 0x1000000) burst.length true) = ePeerDenied) :=
  by decide +kernel

theorem wit_OtherDevicesReachLentMemory_4 :
    (15 < 16 ∧ (2 ^ 31 + 2 ^ 15 + 16382) < 2 ^ 32 ∧ bit (2 ^ 31 + 2 ^ 15 + 16382) 31 = true)
    ∧ (fb (sPeer 0 0) PEER_LW_EN 0 15 = false)
    ∧ (fv (sPeer 0 0) PEER_LW_BASE 0 15 % 4096 = 0)
    ∧ (accepted (sPeer 0 0) core0 (mgdReg 9 (0x108 + 16 * 15)) 4 (2 ^ 31 + 2 ^ 15 + 16382) = true)
    ∧ (0 < (lwRange (sPeer 0 0) 15).2) :=
  by decide +kernel

theorem wit_OtherDevicesReachLentMemory_5 :
    (15 < 16 ∧ bit 0 31 = false)
    ∧ (accepted (sPeer 0 1) core0 (mgdReg 9 (0x108 + 16 * 15)) 4 0 = true) :=
  by decide +kernel

/-! FlashKeepsPages -/

theorem wit_FlashKeepsPages_1 :
    (lastPage % 4096 = 0)
    ∧ (page.length = 4096)
    ∧ (flashWriteCode (sFlash 16383 false) lastPage 4096 = .ok)
    ∧ ((sFlash 16383 false).flash.wbuf < wbufPages) :=
  by decide +kernel

theorem wit_FlashKeepsPages_2 :
    (flashWriteCode (sFlash 16384 false) lastPage 4096 = .ok)
    ∧ (wbufPages ≤ (sFlash 16384 false).flash.wbuf) :=
  by decide +kernel

theorem wit_FlashKeepsPages_3 :
    (flashWriteCode (sFlash 0 true) lastPage 4096 ≠ .ok) :=
  by decide +kernel

theorem wit_FlashKeepsPages_4 :
    (lastPage % 4096 = 0)
    ∧ ((flashRegion lastPage 4096).isSome = true) :=
  by decide +kernel

theorem wit_FlashKeepsPages_5 :
    (fv (sFlash 0 false) FLSH_WEAR_SPREAD < 11 - 0)
    ∧ (fv (sFlash 0 false) FLSH_RD_LIMIT_TLC ≤ 1000 ∨ 75 < 0)
    ∧ (75 < 76) :=
  by decide +kernel

theorem wit_FlashKeepsPages_6 :
    (199 < 65536 ∧ 199 < 200)
    ∧ ((sFlash 0 false).flash.spare.1 < 65536 ∧ (sFlash 0 false).flash.spare.2 < 65536)
    ∧ (flashState (sFlash 0 false) 0 = 0) :=
  by decide +kernel

theorem wit_FlashKeepsPages_7 :
    ((sFlash 5 false).flash.refusing = true) :=
  by decide +kernel

/-! IntegrityCommandsCorrectAndReport -/

theorem wit_IntegrityCommandsCorrectAndReport_1 :
    ((fb sPatrol INTG_PATROL_EN (176 + 10) = true)
    ∧ (fb sPatrol BKGD_ACT_EN = true)
    ∧ (fb sPatrol INTG_SCRUB_BUSY (176 + 10) = false)
    ∧ (selPresent sPatrol (176 + 10) 0 = true)
    ∧ ((lastWord - 4088) % 4096 = 0 ∧ lastWord - 4088 + 4096 ≤ muSize (.hbm 10))
    ∧ (lastWord - 4088 ≤ lastWord ∧ lastWord < lastWord - 4088 + 4096 ∧ lastWord % 8 = 0)
    ∧ (classify false (cols72.getD 63 0) = .corr (some 63))
    ∧ (writeFirst sPatrol (.hbm 10) lastWord = false)
    ∧ (isWritten sPatrol (.hbm 10) lastWord = true)
    ∧ (mapGet writtenDefault sPatrol.written (muBase (.hbm 10) + lastWord) = false))
    ∧ (∀ j, synAt sPatrol j = if j = (muBase (.hbm 10) + lastWord) then (cols72.getD 63 0) else 0) :=
  ⟨by decide +kernel,
    syn_of_one _ _ _ (by decide +kernel)⟩

theorem wit_IntegrityCommandsCorrectAndReport_2 :
    (intgHere (sIntg 0) 186 = true)
    ∧ (bit 0x30 4 = true)
    ∧ (accepted (sIntg 0) core0 (intgReg (sIntg 0) 186 0x078) 4 0x30 = true) :=
  by decide +kernel

theorem wit_IntegrityCommandsCorrectAndReport_3 :
    (fb (sIntg 1) INTG_SCRUB_BUSY 186 = true)
    ∧ (fb (sIntg 1) INTG_SCRUB_EVT 186 = true)
    ∧ ((sIntg 1).syn = [])
    ∧ (anyWriteFirst (sIntg 1) (.hbm 10) = false) :=
  by decide +kernel

theorem wit_IntegrityCommandsCorrectAndReport_4 :
    (bit 0x12 4 = true)
    ∧ (accepted (sIntg 0) core0 (intgReg (sIntg 0) 186 0x04C) 4 0x12 = true) :=
  by decide +kernel

theorem wit_IntegrityCommandsCorrectAndReport_5 :
    (10 < 12)
    ∧ (burst.length = 32)
    ∧ ((lastWord - 24) % 32 = 0)
    ∧ (placeOf sArmed (muBase (.hbm 10) + (lastWord - 24)) = .mem (.hbm 10) (lastWord - 24))
    ∧ (rangeHeld sArmed (muBase (.hbm 10) + (lastWord - 24)) 32 = false)
    ∧ (firstErr (writeErrs sArmed core0 (muBase (.hbm 10) + (lastWord - 24)) 32) = .ok)
    ∧ (flipArmed sArmed (.hbm 10) = true)
    ∧ (sArmed.syn = []) :=
  by decide +kernel

theorem wit_IntegrityCommandsCorrectAndReport_6 :
    (bit 2 1 = true)
    ∧ (accepted (sIntg 0) core0 (intgReg (sIntg 0) 186 0x040) 4 2 = true) :=
  by decide +kernel

/-! LinksCarryMessagesInOrder -/

theorem wit_LinksCarryMessagesInOrder_1 :
    (0 < 256)
    ∧ (linkState (sLink id 3) 0 ≠ 2) :=
  by decide +kernel

theorem wit_LinksCarryMessagesInOrder_2 :
    (linkState (sLink sent2 2) 0 = 2)
    ∧ ((ctl none true).nak = none)
    ∧ ((ctl none true).notices = [])
    ∧ ((linkSt (sLink sent2 2) 0).waiting = [])
    ∧ (laneFree (sLink sent2 2) 0 = true)
    ∧ (17 < (ctl none true).credits.length) :=
  by decide +kernel

theorem wit_LinksCarryMessagesInOrder_3 :
    (linkState (sLink sent2 2) 0 = 2)
    ∧ ((ctl (some 5) false).nak = some 5)
    ∧ ((linkSt (sLink sent2 2) 0).replay = none)
    ∧ ((5, tokMsg 1) ∈ (linkSt (sLink sent2 2) 0).store.filter fun x => !seqLe (lastSeq x) 4)
    ∧ (seqLe 5 (lastSeq (5, tokMsg 1)) = true) :=
  by decide +kernel

theorem wit_LinksCarryMessagesInOrder_4 :
    (linkState (sLink (fun x => { x with replay := some (5, 7) }) 2) 0 = 2)
    ∧ ((linkSt (sLink (fun x => { x with replay := some (5, 7) }) 2) 0).replay = some (5, 7))
    ∧ ((linkSt (sLink (fun x => { x with replay := some (5, 7) }) 2) 0).replaying = false)
    ∧ (seqLe 5 (ctl (some 5) false).ack = false) :=
  by decide +kernel

theorem wit_LinksCarryMessagesInOrder_5 :
    (linkState (sLink id 2) 0 = 2) :=
  by decide +kernel

theorem wit_LinksCarryMessagesInOrder_6 :
    (linkState (sLink id 3) 0 ≠ 2 ∨ (linkSt (sLink id 3) 0).rxSeq ≠ 0) :=
  by decide +kernel

theorem wit_LinksCarryMessagesInOrder_7 :
    ((linkSt (sLink id 2) 0).rxSeq = 0)
    ∧ (messageHeld (sLink id 2) ⟨0, 9, 6, 0, 1, .none, .token 0 0 1⟩ = false)
    ∧ (badFlit ⟨0, 9, 6, 0, 1, .none, .token 0 0 1⟩ = true) :=
  by decide +kernel

theorem wit_LinksCarryMessagesInOrder_8 :
    ((linkSt (sLink id 2) 0).rxSeq = 0)
    ∧ (messageHeld (sLink id 2) (tokMsg 0) = false)
    ∧ (badFlit (tokMsg 0) = false)
    ∧ ((tokMsg 0).dst = nodeId (sLink id 2))
    ∧ ((tokMsg 0).body = .token 0 255 3)
    ∧ (255 < 256) :=
  by decide +kernel

theorem wit_LinksCarryMessagesInOrder_9 :
    ((linkSt (sLink id 2) 0).rxSeq = 0)
    ∧ (messageHeld (sLink id 2) (tokMsg 1) = false)
    ∧ (badFlit (tokMsg 1) = false)
    ∧ ((tokMsg 1).dst ≠ nodeId (sLink id 2))
    ∧ (route (sLink id 2) (tokMsg 1).src (tokMsg 1).dst = some (0, 4))
    ∧ (4 % 2 = 1 ∨ (tokMsg 1).phase < 4)
    ∧ ((linkSt (sLink id 2) 0).waiting = [])
    ∧ ((tokMsg 1).flits ≤ credit (sLink id 2) 0 (poolOf (sLink id 2) 0 (tokMsg 1).vc 4)) :=
  by decide +kernel

theorem wit_LinksCarryMessagesInOrder_10 :
    (9 < 2 ^ 14 ∧ 6 < 7) :=
  by decide +kernel

theorem wit_LinksCarryMessagesInOrder_11 :
    ((ueSt sAsks 1).fetches.findIdx? (fun f => feDst f.rec_ == (hbm1Base + 0x5000000)) = some 0)
    ∧ ((ueSt sAsks 1).fetches[0]? = some (fe 2 none 0 none)) :=
  by decide +kernel

theorem wit_LinksCarryMessagesInOrder_12 :
    ((pfsOf sAsks 1).findIdx? (fun p => p.bound.isSome && pfDst p.rec_ == (hbm1Base + 0x400000)) = some 0)
    ∧ ((pfsOf sAsks 1)[0]? = some ⟨pfRec 0 4096 0, some (1, 0, 0), false⟩) :=
  by decide +kernel

/-! LanesRetrainInBubbles -/

theorem wit_LanesRetrainInBubbles_1 :
    (isLinkSite (sLink id 2).build 0 = true)
    ∧ (firstErr (actionErrs (sLink id 2) ⟨0, 0, 0, 5, 0, 0, 15⟩) = .ok) :=
  by decide +kernel

theorem wit_LanesRetrainInBubbles_2 :
    (0 < 256 ∧ 15 < 16)
    ∧ (laneReady (sLink (fun x => { x with req := some 15, grant := true }) 2) 0 = some 15) :=
  by decide +kernel

theorem wit_LanesRetrainInBubbles_3 :
    (laneReady (sLink (fun x => { x with req := some 15 }) 2) 0 = none) :=
  by decide +kernel

theorem wit_LanesRetrainInBubbles_4 :
    ((linkSt (sLink (fun x => { x with req := some 15 }) 2) 0).req.isSome = true)
    ∧ (laneReady (sLink (fun x => { x with req := some 15 }) 2) 0 = none) :=
  by decide +kernel

theorem wit_LanesRetrainInBubbles_5 :
    (fb (sLink id 2) LINK_RETRAINING 0 = false) :=
  by decide +kernel

theorem wit_LanesRetrainInBubbles_6 :
    (fb (sRetrains 0) LINK_RETRAINING 0 = true)
    ∧ (linkState (sRetrains 0) 0 = 2)
    ∧ (fb (sRetrains 0) LINK_DEGRADED 0 = false) :=
  by decide +kernel

theorem wit_LanesRetrainInBubbles_7 :
    (fb (sRetrains 1) LINK_RETRAINING 0 = true)
    ∧ (linkState (sRetrains 1) 0 = 2)
    ∧ (fb (sRetrains 1) LINK_DEGRADED 0 = true) :=
  by decide +kernel

/-! LinksTrainFallAndRejoin -/

theorem wit_LinksTrainFallAndRejoin_1 :
    (0 < nLinks (sLink id 2).build)
    ∧ (linkState (sLink id 2) 0 = 2)
    ∧ (accepted (sLink id 2) core0 (linkReg (sLink id 2) 0 0x114) 4 4 = true)
    ∧ (linkDieInService (sLink id 2) (linkSite (sLink id 2).build 0) = true ∧ limitConds (sLink id 2) % 32 = 0) :=
  by decide +kernel

theorem wit_LinksTrainFallAndRejoin_2 :
    (accepted (sLink id 2) core0 (linkReg (sLink id 2) 0 0x114) 4 1 = true) :=
  by decide +kernel

theorem wit_LinksTrainFallAndRejoin_3 :
    (accepted (sLink (fun x => { x with joined := false, needAdmit := true }) 2) core0 (linkReg (sLink (fun x => { x with joined := false, needAdmit := true }) 2) 0 0x114) 4 2 = true) :=
  by decide +kernel

theorem wit_LinksTrainFallAndRejoin_4 :
    (linkState (sLink id 1) 0 = 1)
    ∧ (fb (sLink id 1) ENET_LINK_UP = true ∨ level (sLink id 1) ≠ 3) :=
  by decide +kernel

theorem wit_LinksTrainFallAndRejoin_5 :
    (linkState (sLink id 1) 0 = 1)
    ∧ (fb (sLink id 1) ENET_LINK_UP = true ∨ level (sLink id 1) ≠ 3)
    ∧ (mayTrain (sLink id 1) 0 = true)
    ∧ (cabledOk (sLink id 1) 0 16383 0 1 = false) :=
  by decide +kernel

theorem wit_LinksTrainFallAndRejoin_6 :
    (linkState (sLink (fun x => { x with joined := false }) 1) 0 = 1)
    ∧ (fb (sLink (fun x => { x with joined := false }) 1) ENET_LINK_UP = true ∨ level (sLink (fun x => { x with joined := false }) 1) ≠ 3)
    ∧ (mayTrain (sLink (fun x => { x with joined := false }) 1) 0 = true)
    ∧ (cabledOk (sLink (fun x => { x with joined := false }) 1) 0 1 0 1 = true)
    ∧ ((linkSt (sLink (fun x => { x with joined := false }) 1) 0).needAdmit = false) :=
  by decide +kernel

theorem wit_LinksTrainFallAndRejoin_7 :
    (linkState (sLink (fun x => { x with joined := false, needAdmit := true }) 1) 0 = 1)
    ∧ (fb (sLink (fun x => { x with joined := false, needAdmit := true }) 1) ENET_LINK_UP = true ∨ level (sLink (fun x => { x with joined := false, needAdmit := true }) 1) ≠ 3)
    ∧ (mayTrain (sLink (fun x => { x with joined := false, needAdmit := true }) 1) 0 = true)
    ∧ (cabledOk (sLink (fun x => { x with joined := false, needAdmit := true }) 1) 0 1 0 1 = true)
    ∧ ((linkSt (sLink (fun x => { x with joined := false, needAdmit := true }) 1) 0).needAdmit = true) :=
  by decide +kernel

theorem wit_LinksTrainFallAndRejoin_9 :
    (linkState (sLink id 3) 0 ≠ 2) :=
  by decide +kernel

theorem wit_LinksTrainFallAndRejoin_10 :
    (linkState (sLink id 3) 0 = 3)
    ∧ (mayTrain (sLink id 3) 0 = true) :=
  by decide +kernel

theorem wit_LinksTrainFallAndRejoin_11 :
    (linkState (sLink id 2) 0 ≠ 3 ∨ mayTrain (sLink id 2) 0 = false) :=
  by decide +kernel

theorem wit_LinksTrainFallAndRejoin_12 :
    ((sAssume false).fab.assume = some (false, 2, 6))
    ∧ (2 < 2 ^ 14)
    ∧ (unsync (sAssume false) = false)
    ∧ (6 ≤ (sAssume false).press.imp) :=
  by decide +kernel

theorem wit_LinksTrainFallAndRejoin_13 :
    ((sAssume true).fab.assume = some (true, 2, 6))
    ∧ (2 < 2 ^ 14)
    ∧ (unsync (sAssume true) = false)
    ∧ (6 ≤ (sAssume true).press.imp) :=
  by decide +kernel

/-! PlansRaiseTheirSlots -/

theorem wit_PlansRaiseTheirSlots_1 :
    ((accepted (sPlan 0) core0 (mgdReg 1 0x310) 4 (2 ^ 31) = true)
    ∧ (fb (sPlan 0) PRES_PLAN_EN = false))
    ∧ (calm (sPlan 0)) :=
  ⟨by decide +kernel,
    calm_of _ (by decide +kernel)⟩

theorem wit_PlansRaiseTheirSlots_2 :
    ((accepted (sPlan 1) core0 (mgdReg 1 0x310) 4 (2 ^ 31) = true)
    ∧ (fb (sPlan 1) PRES_PLAN_EN = true))
    ∧ (calm (sPlan 1)) :=
  ⟨by decide +kernel,
    calm_of _ (by decide +kernel)⟩

theorem wit_PlansRaiseTheirSlots_3 :
    (accepted (sPlan 1) core0 (mgdReg 1 0x310) 4 0 = true) :=
  by decide +kernel

theorem wit_PlansRaiseTheirSlots_4 :
    (sPlanEdge.press.edge = some ⟨6, 20000, false⟩)
    ∧ (unsync sPlanEdge = false)
    ∧ (sPlanEdge.press.synced = false)
    ∧ (sPlanEdge.press.plan = some plan_)
    ∧ (fb sPlanEdge PRES_PLAN_EN = true)
    ∧ (slotAt sPlanEdge plan_ 6 = some (0, slot_))
    ∧ (slot_.vstage < 8 ∧ slot_.kind < 8 ∧ slot_.micro < 65536)
    ∧ (slotCounter plan_ slot_ = some (230, 2 ^ 143))
    ∧ (143 ∈ maskTiles (2 ^ 143)) :=
  by decide +kernel

theorem wit_PlansRaiseTheirSlots_5 :
    (((timeTo 5000).run (sSlot true)).press.slot = some (plan_, slot_))
    ∧ (((timeTo 5000).run (sSlot true)).press.pfDue = true)
    ∧ (reached ((timeTo 5000).run (sSlot true)) (instant ((timeTo 5000).run (sSlot true)).press.imp slot_.pfPoint) = true) :=
  by decide +kernel

theorem wit_PlansRaiseTheirSlots_6 :
    (((timeTo 4999).run (sSlot true)).press.slot = some (plan_, slot_))
    ∧ (((timeTo 4999).run (sSlot true)).press.pfDue = false ∨ reached ((timeTo 4999).run (sSlot true)) (instant ((timeTo 4999).run (sSlot true)).press.imp slot_.pfPoint) = false) :=
  by decide +kernel

theorem wit_PlansRaiseTheirSlots_7 :
    (((timeTo 5000).run (sSlot false)).press.slot = some (plan_, slot_))
    ∧ (((timeTo 5000).run (sSlot false)).press.pfDue = false ∨ reached ((timeTo 5000).run (sSlot false)) (instant ((timeTo 5000).run (sSlot false)).press.imp slot_.pfPoint) = false) :=
  by decide +kernel

/-! ReimpositionMovesChunks -/

theorem wit_ReimpositionMovesChunks_1 :
    ((fv (sRi 1 []) MGMT_RI_STATE = 1)
    ∧ (reached ((timeTo 0).run (sRi 1 [])) (instant (fv (sRi 1 []) MGMT_RI_START) 0) = true))
    ∧ (calm (sRi 1 [])) :=
  ⟨by decide +kernel,
    calm_of _ (by decide +kernel)⟩

theorem wit_ReimpositionMovesChunks_2 :
    (fv (sRiEarly 1) MGMT_RI_STATE ≠ 1 ∨ reached ((timeTo 0).run (sRiEarly 1)) (instant (fv (sRiEarly 1) MGMT_RI_START) 0) = false) :=
  by decide +kernel

theorem wit_ReimpositionMovesChunks_3 :
    ((fv (sRi 2 [task1]) MGMT_RI_STATE = 2)
    ∧ ((sRi 2 [task1]).ri = ⟨[task1], []⟩)
    ∧ (gaNode task1.src = nodeId (sRi 2 [task1]))
    ∧ (gaNode task1.dig = nodeId (sRi 2 [task1]))
    ∧ (∀ n ∈ List.range 12, fb (sRi 2 [task1]) UPDT_CURV_EN n = false)
    ∧ (task1.newDig = none)
    ∧ (isHbmAddr (sRi 2 [task1]) (gaLocal task1.src) = true)
    ∧ (isHbmAddr (sRi 2 [task1]) (gaLocal task1.dig) = true)
    ∧ (isHbmAddr (sRi 2 [task1]) (riBuf (sRi 2 [task1]) task1.dst 0) = true)
    ∧ (isHbmAddr (sRi 2 [task1]) task1.dst = true)
    ∧ (rangeErrs (sRi 2 [task1]) (gaLocal task1.src) (riLen (sRi 2 [task1]) task1) = [])
    ∧ (rangeErrs (sRi 2 [task1]) (gaLocal task1.dig) 32 = []))
    ∧ (calm (sRi 2 [task1]))
    ∧ (crc64 ((readLocal (sRi 2 [task1]) (gaLocal task1.src) (riLen (sRi 2 [task1]) task1)).map Prod.fst) = hbmLE (sRi 2 [task1]) (gaLocal task1.dig) 8) :=
  ⟨by decide +kernel,
    calm_of _ (by decide +kernel),
    by rw [show (readLocal (sRi 2 [task1]) (gaLocal task1.src) (riLen (sRi 2 [task1]) task1)).map Prod.fst = List.replicate 128 0 by decide +kernel, crc64_zeros]; decide +kernel⟩

theorem wit_ReimpositionMovesChunks_4 :
    (fv (sRiEarly 2) MGMT_RI_STATE = 2)
    ∧ (reached ((timeTo 0).run (sRiEarly 2)) (instant (fv (sRiEarly 2) MGMT_RI_END) 0) = false) :=
  by decide +kernel

theorem wit_ReimpositionMovesChunks_5 :
    (fv (sRi 2 [task1]) MGMT_RI_STATE = 2)
    ∧ (reached ((timeTo 0).run (sRi 2 [task1])) (instant (fv (sRi 2 [task1]) MGMT_RI_END) 0) = true)
    ∧ ((sRi 2 [task1]).ri.left ≠ []) :=
  by decide +kernel

theorem wit_ReimpositionMovesChunks_6 :
    (fv (sRi 2 []) MGMT_RI_STATE = 2)
    ∧ (reached ((timeTo 0).run (sRi 2 [])) (instant (fv (sRi 2 []) MGMT_RI_END) 0) = true)
    ∧ ((sRi 2 []).ri = ⟨[], []⟩) :=
  by decide +kernel

/-! EthernetFramesAreServed -/

theorem wit_EthernetFramesAreServed_1 :
    (fb s0 ENET_LINK_UP = false) :=
  by decide +kernel

theorem wit_EthernetFramesAreServed_2 :
    (fb sEth ENET_LINK_UP = true)
    ∧ (frameKept sEth (frame 3 1048577) = false)
    ∧ (bit (fv sEth ENET_PFC_EN) (framePrio (frame 3 1048577)) = true)
    ∧ (bit sEth.eth.xoff (framePrio (frame 3 1048577)) = false)
    ∧ (1048576 < (frame 3 1048577).fill) :=
  by decide +kernel

theorem wit_EthernetFramesAreServed_3 :
    (fb sXoff ENET_LINK_UP = true)
    ∧ (frameKept sXoff (frame 3 786431) = false)
    ∧ (bit sXoff.eth.xoff (framePrio (frame 3 786431)) = true)
    ∧ ((frame 3 786431).fill < 786432) :=
  by decide +kernel

theorem wit_EthernetFramesAreServed_4 :
    (fb sEth ENET_LINK_UP = true)
    ∧ (7 < 8) :=
  by decide +kernel

theorem wit_EthernetFramesAreServed_5 :
    (255 < 256)
    ∧ (fb sEth ENET_LINK_UP = true) :=
  by decide +kernel

theorem wit_EthernetFramesAreServed_6 :
    ((999 : Int).natAbs < 1000 ∧ 15 ≤ (sPtp 15 0 0).eth.ptpGood) :=
  by decide +kernel

theorem wit_EthernetFramesAreServed_7 :
    (1000 < (-1001 : Int).natAbs ∧ 3 ≤ (sPtp 0 3 1).eth.ptpBad) :=
  by decide +kernel

theorem wit_EthernetFramesAreServed_8 :
    ((0 : Int).natAbs < 1000 ∧ (sPtp 14 0 0).eth.ptpGood < 15) :=
  by decide +kernel

/-! QueuePairsMoveData -/

theorem wit_QueuePairsMoveData_1 :
    ((2 ^ 31 + 255) < 2 ^ 32)
    ∧ (accepted (sQp 0 7 (qpc 1 0 0)) core0 (mgdReg 2 0x0C0) 4 (2 ^ 31 + 255) = true)
    ∧ (bit (2 ^ 31 + 255) 31 = true ∧ bit (2 ^ 31 + 255) 16 = false) :=
  by decide +kernel

theorem wit_QueuePairsMoveData_2 :
    ((2 ^ 31 + 255) < 2 ^ 32)
    ∧ (accepted (sQp 2 7 (qpc 0 0xFFFFFF 62)) core0 (mgdReg 2 0x0C0) 4 (2 ^ 31 + 255) = true)
    ∧ (bit (2 ^ 31 + 255) 31 = true ∧ bit (2 ^ 31 + 255) 16 = false)
    ∧ (qcState (ctxStaged (sQp 2 7 (qpc 0 0xFFFFFF 62))) = 0) :=
  by decide +kernel

theorem wit_QueuePairsMoveData_3 :
    ((2 ^ 31 + 255) < 2 ^ 32)
    ∧ (accepted (sQp 3 7 (qpc 4 0xFFFFFF 62)) core0 (mgdReg 2 0x0C0) 4 (2 ^ 31 + 255) = true)
    ∧ (bit (2 ^ 31 + 255) 31 = true ∧ bit (2 ^ 31 + 255) 16 = false)
    ∧ (qcState (ctxStaged (sQp 3 7 (qpc 4 0xFFFFFF 62))) = 4)
    ∧ (qcState (qpOf (sQp 3 7 (qpc 4 0xFFFFFF 62)) 255).ctx ≠ 4) :=
  by decide +kernel

theorem wit_QueuePairsMoveData_4 :
    ((2 ^ 31 + 2 ^ 16 + 63) < 2 ^ 32)
    ∧ (accepted (sQp 0 7 (recOf 64 [(0, 1, 7), (2, 2, 0xFFFF), (4, 4, 78), (8, 6, hbm1Base), (16, 6, 4096)])) core0 (mgdReg 2 0x0C0) 4 (2 ^ 31 + 2 ^ 16 + 63) = true)
    ∧ (bit (2 ^ 31 + 2 ^ 16 + 63) 31 = true ∧ bit (2 ^ 31 + 2 ^ 16 + 63) 16 = true) :=
  by decide +kernel

theorem wit_QueuePairsMoveData_5 :
    ((2 ^ 30 + 255) < 2 ^ 32)
    ∧ (accepted (sQp 2 7 []) core0 (mgdReg 2 0x0C0) 4 (2 ^ 30 + 255) = true)
    ∧ (bit (2 ^ 30 + 255) 30 = true)
    ∧ ((qpOf (sQp 2 7 []) 255).ctx.length = 64) :=
  by decide +kernel

theorem wit_QueuePairsMoveData_6 :
    ((2 ^ 30 + 2 ^ 16 + 62) < 2 ^ 32)
    ∧ (accepted (sQp 2 7 []) core0 (mgdReg 2 0x0C0) 4 (2 ^ 30 + 2 ^ 16 + 62) = true)
    ∧ (bit (2 ^ 30 + 2 ^ 16 + 62) 30 = true ∧ bit (2 ^ 30 + 2 ^ 16 + 62) 16 = true)
    ∧ ((winOf (sQp 2 7 []) 62).length = 32) :=
  by decide +kernel

theorem wit_QueuePairsMoveData_7 :
    ((fb (sQp 2 7 []) ENET_LINK_UP = true)
    ∧ (qcState (qpOf (sQp 2 7 []) 255).ctx = 2 ∨ qcState (qpOf (sQp 2 7 []) 255).ctx = 3)
    ∧ ((qpOf (sQp 2 7 []) 255).ctx.length = 64)
    ∧ (winByKey (sQp 2 7 []) 77 = some (win 7))
    ∧ (rangeHeld (sQp 2 7 []) (hbm1Base + 0x1000) burst.length = false)
    ∧ (psnBehind 0xFFFFFE (qcRqPsn (qpOf (sQp 2 7 []) 255).ctx) = true))
    ∧ (calm (sQp 2 7 [])) :=
  ⟨by decide +kernel,
    calm_of _ (by decide +kernel)⟩

theorem wit_QueuePairsMoveData_8 :
    ((fb (sQp 2 7 []) ENET_LINK_UP = true)
    ∧ (qcState (qpOf (sQp 2 7 []) 255).ctx = 2 ∨ qcState (qpOf (sQp 2 7 []) 255).ctx = 3)
    ∧ ((qpOf (sQp 2 7 []) 255).ctx.length = 64)
    ∧ (winByKey (sQp 2 7 []) 77 = some (win 7))
    ∧ (rangeHeld (sQp 2 7 []) (hbm1Base + 0x1000) burst.length = false)
    ∧ (0xFFFFFF = qcRqPsn (qpOf (sQp 2 7 []) 255).ctx)
    ∧ (rangeErrs (sQp 2 7 []) (hbm1Base + 0x1000) burst.length = [])
    ∧ (placeOf (sQp 2 7 []) (hbm1Base + 0x1000) = .mem (.hbm 1) 0x1000)
    ∧ (winAllows (win 7) wnWrite 255 (hbm1Base + 0x1000) burst.length = true)
    ∧ (isHbmAddr (sQp 2 7 []) (hbm1Base + 0x1000) = true → (hbm1Base + 0x1000) % 32 = 0 ∧ burst.length % 32 = 0)
    ∧ (writeRefused (sQp 2 7 []) (hbm1Base + 0x1000) burst.length = false))
    ∧ (calm (sQp 2 7 [])) :=
  ⟨by decide +kernel,
    calm_of _ (by decide +kernel)⟩

theorem wit_QueuePairsMoveData_9 :
    ((fb (sQp 2 1 []) ENET_LINK_UP = true)
    ∧ (qcState (qpOf (sQp 2 1 []) 255).ctx = 2 ∨ qcState (qpOf (sQp 2 1 []) 255).ctx = 3)
    ∧ ((qpOf (sQp 2 1 []) 255).ctx.length = 64)
    ∧ (winByKey (sQp 2 1 []) 77 = some (win 1))
    ∧ (rangeHeld (sQp 2 1 []) (hbm1Base + 0x1000) burst.length = false)
    ∧ (0xFFFFFF = qcRqPsn (qpOf (sQp 2 1 []) 255).ctx)
    ∧ (rangeErrs (sQp 2 1 []) (hbm1Base + 0x1000) burst.length = [])
    ∧ (placeOf (sQp 2 1 []) (hbm1Base + 0x1000) = .mem (.hbm 1) 0x1000)
    ∧ (winAllows (win 1) wnWrite 255 (hbm1Base + 0x1000) burst.length = false)
    ∧ ((ueSt (sQp 2 1 []) 1).snap = none))
    ∧ (calm (sQp 2 1 [])) :=
  ⟨by decide +kernel,
    calm_of _ (by decide +kernel)⟩

theorem wit_QueuePairsMoveData_10 :
    (winAllows (win 7) wnRead 255 (hbm1Base + 0x1000) 32 = true)
    ∧ (32 ≤ qcPmtu (qpOf (sQp 2 7 []) 255).ctx) :=
  by decide +kernel

theorem wit_QueuePairsMoveData_11 :
    ((fb (sQp 2 9 []) ENET_LINK_UP = true)
    ∧ (qcState (qpOf (sQp 2 9 []) 255).ctx = 2 ∨ qcState (qpOf (sQp 2 9 []) 255).ctx = 3)
    ∧ ((qpOf (sQp 2 9 []) 255).ctx.length = 64)
    ∧ (0xFFFFFF = qcRqPsn (qpOf (sQp 2 9 []) 255).ctx)
    ∧ (qcRecvWin (qpOf (sQp 2 9 []) 255).ctx ≠ 63)
    ∧ (wnEn (winOf (sQp 2 9 []) (qcRecvWin (qpOf (sQp 2 9 []) 255).ctx)) = true)
    ∧ (physOf (sQp 2 9 []) (wnTile (winOf (sQp 2 9 []) (qcRecvWin (qpOf (sQp 2 9 []) 255).ctx))) = 151)
    ∧ (wnBase (winOf (sQp 2 9 []) (qcRecvWin (qpOf (sQp 2 9 []) 255).ctx)) + (mapGet winDefault (sQp 2 9 []).eth.wins (qcRecvWin (qpOf (sQp 2 9 []) 255).ctx)).sends % max 1 (wnLen (winOf (sQp 2 9 []) (qcRecvWin (qpOf (sQp 2 9 []) 255).ctx)) / max 1 (wnSlot (winOf (sQp 2 9 []) (qcRecvWin (qpOf (sQp 2 9 []) 255).ctx)))) * wnSlot (winOf (sQp 2 9 []) (qcRecvWin (qpOf (sQp 2 9 []) 255).ctx)) = (hbm1Base + 0x1000 + 15 * 256))
    ∧ (winAllows (winOf (sQp 2 9 []) (qcRecvWin (qpOf (sQp 2 9 []) 255).ctx)) wnRing 255 (hbm1Base + 0x1000 + 15 * 256) (wnSlot (winOf (sQp 2 9 []) (qcRecvWin (qpOf (sQp 2 9 []) 255).ctx))) = true)
    ∧ (burst.length ≤ wnSlot (winOf (sQp 2 9 []) (qcRecvWin (qpOf (sQp 2 9 []) 255).ctx)))
    ∧ (rangeHeld (sQp 2 9 []) (hbm1Base + 0x1000 + 15 * 256) burst.length = false)
    ∧ (tileHeld (sQp 2 9 []) (wnTile (winOf (sQp 2 9 []) (qcRecvWin (qpOf (sQp 2 9 []) 255).ctx))) = false)
    ∧ (tok (sQp 2 9 []) 151 (wnCnt (winOf (sQp 2 9 []) (qcRecvWin (qpOf (sQp 2 9 []) 255).ctx))) = 0))
    ∧ (calm (sQp 2 9 [])) :=
  ⟨by decide +kernel,
    calm_of _ (by decide +kernel)⟩

theorem wit_QueuePairsMoveData_12 :
    ((fb sQpCredit ENET_LINK_UP = true)
    ∧ (qcState (qpOf sQpCredit 255).ctx = 2 ∨ qcState (qpOf sQpCredit 255).ctx = 3)
    ∧ ((qpOf sQpCredit 255).ctx.length = 64)
    ∧ (0xFFFFFF = qcRqPsn (qpOf sQpCredit 255).ctx)
    ∧ (qcRecvWin (qpOf sQpCredit 255).ctx ≠ 63)
    ∧ (wnEn (winOf sQpCredit (qcRecvWin (qpOf sQpCredit 255).ctx)) = true)
    ∧ (physOf sQpCredit (wnTile (winOf sQpCredit (qcRecvWin (qpOf sQpCredit 255).ctx))) = 151)
    ∧ (wnBase (winOf sQpCredit (qcRecvWin (qpOf sQpCredit 255).ctx)) + (mapGet winDefault sQpCredit.eth.wins (qcRecvWin (qpOf sQpCredit 255).ctx)).sends % max 1 (wnLen (winOf sQpCredit (qcRecvWin (qpOf sQpCredit 255).ctx)) / max 1 (wnSlot (winOf sQpCredit (qcRecvWin (qpOf sQpCredit 255).ctx)))) * wnSlot (winOf sQpCredit (qcRecvWin (qpOf sQpCredit 255).ctx)) = (hbm1Base + 0x1000 + 15 * 256))
    ∧ (winAllows (winOf sQpCredit (qcRecvWin (qpOf sQpCredit 255).ctx)) wnRing 255 (hbm1Base + 0x1000 + 15 * 256) (wnSlot (winOf sQpCredit (qcRecvWin (qpOf sQpCredit 255).ctx))) = true)
    ∧ (burst.length ≤ wnSlot (winOf sQpCredit (qcRecvWin (qpOf sQpCredit 255).ctx)))
    ∧ (rangeHeld sQpCredit (hbm1Base + 0x1000 + 15 * 256) burst.length = false)
    ∧ (tileHeld sQpCredit (wnTile (winOf sQpCredit (qcRecvWin (qpOf sQpCredit 255).ctx))) = false)
    ∧ (tok sQpCredit 151 (wnCnt (winOf sQpCredit (qcRecvWin (qpOf sQpCredit 255).ctx))) = 1)
    ∧ (rangeErrs sQpCredit (hbm1Base + 0x1000 + 15 * 256) burst.length = [])
    ∧ (writeRefused sQpCredit (hbm1Base + 0x1000 + 15 * 256) burst.length = false)
    ∧ (placeOf sQpCredit (hbm1Base + 0x1000 + 15 * 256) = .mem (.hbm 1) (0x1000 + 15 * 256)))
    ∧ (calm sQpCredit) :=
  ⟨by decide +kernel,
    calm_of _ (by decide +kernel)⟩

theorem wit_QueuePairsMoveData_13 :
    (fb (sQp 3 7 []) ENET_LINK_UP = true)
    ∧ (qcState (qpOf (sQp 3 7 []) 255).ctx = 3)
    ∧ ((qpOf (sQp 3 7 []) 255).unacked ≠ [])
    ∧ ((qpOf (sQp 3 7 []) 255).retries < qcRnrRetry (qpOf (sQp 3 7 []) 255).ctx) :=
  by decide +kernel

theorem wit_QueuePairsMoveData_14 :
    ((qpOf (sQp 3 7 []) 255).retries < qcRetry (qpOf (sQp 3 7 []) 255).ctx) :=
  by decide +kernel

theorem wit_QueuePairsMoveData_15 :
    (qcState (qpOf sQpSpent 255).ctx = 3)
    ∧ ((qpOf sQpSpent 255).unacked ≠ [])
    ∧ (qcRetry (qpOf sQpSpent 255).ctx ≤ (qpOf sQpSpent 255).retries) :=
  by decide +kernel

/-! SlaiqRequestsAreAnswered -/

theorem wit_SlaiqRequestsAreAnswered_1 :
    ((SlqMsg.mk 5 6 0 []).bytes.length = 0)
    ∧ (slqRow ([] : List Byte) ≠ some .memRead) :=
  by decide +kernel

theorem wit_SlaiqRequestsAreAnswered_2 :
    (slqRow mMemRead.bytes = some .memRead)
    ∧ (fb s0 ENET_LINK_UP = false) :=
  by decide +kernel

theorem wit_SlaiqRequestsAreAnswered_3 :
    (fb sSlqDeny ENET_LINK_UP = true)
    ∧ (allowed sSlqDeny mMemRead.ip = false) :=
  by decide +kernel

theorem wit_SlaiqRequestsAreAnswered_4 :
    (fb sSlqCache ENET_LINK_UP = true)
    ∧ (allowed sSlqCache mMemRead.ip = true)
    ∧ (cachedResp sSlqCache mMemRead = some [1, 2]) :=
  by decide +kernel

theorem wit_SlaiqRequestsAreAnswered_5 :
    (fb sSlq ENET_LINK_UP = true)
    ∧ (allowed sSlq mBad.ip = true)
    ∧ (cachedResp sSlq mBad = none)
    ∧ (slqRow mBad.bytes = some .memRead)
    ∧ (firstErr (slqErrs sSlq mBad) ≠ .ok) :=
  by decide +kernel

theorem wit_SlaiqRequestsAreAnswered_6 :
    (fb sSlqHeld ENET_LINK_UP = true)
    ∧ (allowed sSlqHeld mMemRead.ip = true)
    ∧ (cachedResp sSlqHeld mMemRead = none)
    ∧ (firstErr (slqErrs sSlqHeld mMemRead) = .ok)
    ∧ (slqHeld sSlqHeld mMemRead = true) :=
  by decide +kernel

theorem wit_SlaiqRequestsAreAnswered_7 :
    (slaiqTaken sSlq mRead = true)
    ∧ (pageOf sSlq (mgdReg 1 0x0BC) = some presPage)
    ∧ ((regAt .pres (raOff (mgdReg 1 0x0BC))).map Prod.snd = some 0x0BC)
    ∧ (inSrst sSlq presPage = false)
    ∧ (slqRow mRead.bytes = some .regRead)
    ∧ (slqEntries 8 (slPayload mRead.bytes) = [⟨mgdReg 1 0x0BC, 0, 0⟩])
    ∧ (readable (opened sSlq mRead) .slaiq (mgdReg 1 0x0BC) 4 = true) :=
  by decide +kernel

theorem wit_SlaiqRequestsAreAnswered_8 :
    ((slaiqTaken sSlq mWrite = true)
    ∧ (slqRow mWrite.bytes = some .regWrite)
    ∧ (slqEntries 16 (slPayload mWrite.bytes) = [⟨mgdReg 1 0x064, 0, 0xFFFF⟩])
    ∧ (accepted (opened sSlq mWrite) .slaiq (mgdReg 1 0x064) 4 0xFFFF = true)
    ∧ (0x40 ≤ 0x064)
    ∧ ((hookTouch presPage 0x064 (0xFFFF % 2 ^ (8 * 4))).run (opened sSlq mWrite) = opened sSlq mWrite))
    ∧ (∀ u, (hookApply (opened sSlq mWrite) presPage 0x064 (0xFFFF % 2 ^ (8 * 4))).run u = u) :=
  ⟨by decide +kernel,
    fun _ => rfl⟩

theorem wit_SlaiqRequestsAreAnswered_9 :
    (slaiqTaken sSlq mMemRead = true)
    ∧ (slqRow mMemRead.bytes = some .memRead)
    ∧ (firstErr (slqMemErrs (opened sSlq mMemRead) hbm1Base 16 false) = .ok)
    ∧ (∀ x ∈ readLocal ((touchLocal hbm1Base 16).run (opened sSlq mMemRead)) hbm1Base 16, x.2 = false) :=
  by decide +kernel

theorem wit_SlaiqRequestsAreAnswered_10 :
    (slaiqTaken sSlqMark mMemRead = true)
    ∧ (firstErr (slqMemErrs (opened sSlqMark mMemRead) hbm1Base 16 false) = .ok)
    ∧ (((readLocal ((touchLocal hbm1Base 16).run (opened sSlqMark mMemRead)) hbm1Base 16).any fun x => x.2) = true) :=
  by decide +kernel

theorem wit_SlaiqRequestsAreAnswered_11 :
    (slaiqTaken sSlq mMemWrite = true)
    ∧ (slqRow mMemWrite.bytes = some .memWrite)
    ∧ (firstErr (slqMemErrs (opened sSlq mMemWrite) hbm1Base burst.length true) = .ok)
    ∧ (sSlq.syn = [])
    ∧ (placeOf sSlq hbm1Base = .mem (.hbm 1) 0)
    ∧ (flipArmed sSlq (.hbm 1) = false) :=
  by decide +kernel

theorem wit_SlaiqRequestsAreAnswered_12 :
    (slaiqTaken (sEvents 0) mAck = true)
    ∧ (slqRow mAck.bytes = some .eventAck) :=
  by decide +kernel

/-! SlaiqTimersRunOut -/

theorem wit_SlaiqTimersRunOut_1 :
    (slaiqTaken sSlq mCap = true)
    ∧ ((slqRow mCap.bytes).isSome = true)
    ∧ (slType mCap.bytes = 5) :=
  by decide +kernel

theorem wit_SlaiqTimersRunOut_2 :
    (slaiqTaken sSlq mRead = true)
    ∧ ((slqRow mRead.bytes).isSome = true)
    ∧ (slType mRead.bytes = 1 ∨ slType mRead.bytes = 2) :=
  by decide +kernel

theorem wit_SlaiqTimersRunOut_3 :
    (slaiqTaken sSlq mWrite = true)
    ∧ ((slqRow mWrite.bytes).isSome = true)
    ∧ (slType mWrite.bytes = 1 ∨ slType mWrite.bytes = 2) :=
  by decide +kernel

theorem wit_SlaiqTimersRunOut_4 :
    (slaiqTaken (sEvents 0) mAck = true)
    ∧ ((slqRow mAck.bytes).isSome = true)
    ∧ (slType mAck.bytes = 7)
    ∧ (0 < (slPayload mAck.bytes).length / 4) :=
  by decide +kernel

theorem wit_SlaiqTimersRunOut_5 :
    (((sEvents 0).events.find? (fun e => e.seq == 9)) = none) :=
  by decide +kernel

theorem wit_SlaiqTimersRunOut_6 :
    (((sEvents 7).events.find? (fun e => e.seq == 2 ^ 32 - 1)) = some ⟨2 ^ 32 - 1, 0x18, 1, 1, 0, 7⟩)
    ∧ ((sEvents 7).events.length ≤ 256)
    ∧ (fb (sEvents 7) SLQP_SEVT_EN = false) :=
  by decide +kernel

theorem wit_SlaiqTimersRunOut_7 :
    (((sEvents 8).events.find? (fun e => e.seq == 2 ^ 32 - 1)) = some ⟨2 ^ 32 - 1, 0x18, 1, 1, 0, 8⟩)
    ∧ ((sEvents 8).events.length ≤ 256)
    ∧ (fb (sEvents 8) SLQP_SEVT_EN = false) :=
  by decide +kernel

theorem wit_SlaiqTimersRunOut_8 :
    ((fb (sTel 1) SLQP_TEL_EN && fb (sTel 1) ENET_LINK_UP) = true)
    ∧ (1 ≤ ((List.range (fv (sTel 1) HLTH_TEL_COUNT)).map (telRecord (sTel 1))).length)
    ∧ (((List.range (fv (sTel 1) HLTH_TEL_COUNT)).map (telRecord (sTel 1))).length ≤ telMax (sTel 1)) :=
  by decide +kernel

theorem wit_SlaiqTimersRunOut_9 :
    ((fb (sTel 0) SLQP_TEL_EN && fb (sTel 0) ENET_LINK_UP) = false)
    ∧ (1 ≤ ((List.range (fv (sTel 0) HLTH_TEL_COUNT)).map (telRecord (sTel 0))).length)
    ∧ (((List.range (fv (sTel 0) HLTH_TEL_COUNT)).map (telRecord (sTel 0))).length ≤ telMax (sTel 0)) :=
  by decide +kernel

/-! CriticalCommandsTakeEffect -/

theorem wit_CriticalCommandsTakeEffect_1 :
    (commandTaken sCmd mFwCommit = true)
    ∧ (slqRow mFwCommit.bytes = some .fwCommit)
    ∧ (sCmd.nv.floors.length = 5) :=
  by decide +kernel

theorem wit_CriticalCommandsTakeEffect_2 :
    (commandTaken sCmd mKeyRevoke = true)
    ∧ (slqRow mKeyRevoke.bytes = some .keyRevoke) :=
  by decide +kernel

theorem wit_CriticalCommandsTakeEffect_3 :
    (commandTaken sCmd mReset = true)
    ∧ (slqRow mReset.bytes = some .reset) :=
  by decide +kernel

theorem wit_CriticalCommandsTakeEffect_4 :
    (commandTaken sCmd mCap = true)
    ∧ (slqRow mCap.bytes = some .powerCap) :=
  by decide +kernel

theorem wit_CriticalCommandsTakeEffect_5 :
    (commandTaken (sSpare none) mAssume = true)
    ∧ (slqRow mAssume.bytes = some .assume) :=
  by decide +kernel

theorem wit_CriticalCommandsTakeEffect_6 :
    (commandTaken (sSpare (some 2)) mRelease = true)
    ∧ (slqRow mRelease.bytes = some .release) :=
  by decide +kernel

theorem wit_CriticalCommandsTakeEffect_7 :
    (commandTaken sCmdZero mZero = true)
    ∧ (slqRow mZero.bytes = some .zero)
    ∧ (wfRuns (commandBegun sCmdZero mZero) 1 = []) :=
  by decide +kernel

theorem wit_CriticalCommandsTakeEffect_8 :
    (commandTaken sCmdWf mZero = true)
    ∧ (slqRow mZero.bytes = some .zero)
    ∧ ((wfRuns (commandBegun sCmdWf mZero) 1).flatMap (runMeet (1, 2)) ≠ []) :=
  by decide +kernel

theorem wit_CriticalCommandsTakeEffect_9 :
    (commandTaken sCmd mDebug = true)
    ∧ (slqRow mDebug.bytes = some .debug) :=
  by decide +kernel

theorem wit_CriticalCommandsTakeEffect_10 :
    (commandTaken sCmd mElect = true)
    ∧ (slqRow mElect.bytes = some .elect)
    ∧ (bits (recLE (cmBody (slPayload mElect.bytes)) 0 4) 13 0 = nodeId sCmd)
    ∧ (sCmd.press.synced = false)
    ∧ (sCmd.press.heard = false) :=
  by decide +kernel

theorem wit_CriticalCommandsTakeEffect_11 :
    (commandTaken sCmdFollower mElectOther = true)
    ∧ (slqRow mElectOther.bytes = some .elect)
    ∧ (bits (recLE (cmBody (slPayload mElectOther.bytes)) 0 4) 13 0 ≠ nodeId sCmdFollower)
    ∧ (unsync sCmdFollower = false)
    ∧ (fv sCmdFollower PRES_ROLE ≠ roleMaster) :=
  by decide +kernel

theorem wit_CriticalCommandsTakeEffect_12 :
    (commandTaken sCmd mReimpose = true)
    ∧ (slqRow mReimpose.bytes = some .reimpose) :=
  by decide +kernel

theorem wit_CriticalCommandsTakeEffect_13 :
    ((slqRow mFwStage.bytes = some .fwStage)
    ∧ ((sOwned confImg).nv.slots.length = 5)
    ∧ ((sOwned confImg).nv.active.length = 5))
    ∧ (commandTaken (sOwned confImg) mFwStage = true)
    ∧ (imageAt (commandBegun (sOwned confImg) mFwStage) (hbm1Base + 0x10000) 592 = some confImg) :=
  ⟨by decide +kernel,
    stage_taken,
    stage_image⟩

theorem wit_CriticalCommandsTakeEffect_14 :
    (slqRow mKeyRotate.bytes = some .keyRotate)
    ∧ (commandTaken (sOwned bundle5) mKeyRotate = true)
    ∧ (imageAt (commandBegun (sOwned bundle5) mKeyRotate) (hbm1Base + 0x10000) 2072 = some bundle5) :=
  ⟨by decide +kernel,
    rotate_taken,
    rotate_image⟩

theorem wit_CriticalCommandsTakeEffect_15 :
    (slqRow mKeyTransfer.bytes = some .keyTransfer)
    ∧ (commandTaken sOwned4 mKeyTransfer = true)
    ∧ (imageAt (commandBegun sOwned4 mKeyTransfer) (hbm1Base + 0x10000) 2072 = some bundle5) :=
  ⟨by decide +kernel,
    transfer_taken,
    transfer_image⟩

/-! ColophonAndJobImages -/

theorem wit_ColophonAndJobImages_1 :
    (accepted (sOwned []) core0 (mgdReg 4 0x060) 4 0x101 = true) :=
  by decide +kernel

theorem wit_ColophonAndJobImages_2 :
    (accepted (sOwned []) core0 (mgdReg 4 0x060) 4 0x102 = true) :=
  by decide +kernel

theorem wit_ColophonAndJobImages_3 :
    (s0.boot.op = none) :=
  by decide +kernel

theorem wit_ColophonAndJobImages_4 :
    ((sQuote 1).boot.op = some 1) :=
  by decide +kernel

theorem wit_ColophonAndJobImages_5 :
    ((sQuote 2).boot.op = some 2) :=
  by decide +kernel

theorem wit_ColophonAndJobImages_6 :
    (accepted sEnrol core0 (mgdReg 4 0x060) 4 0x200 = true)
    ∧ (calm sEnrol)
    ∧ (imageAt sEnrol (fv sEnrol COLO_ENROL_ADDR) 2072 = some bundle5) :=
  ⟨enrol_accepted,
    calm_of _ (by decide +kernel),
    enrol_image⟩

theorem wit_ColophonAndJobImages_7 :
    (accepted sJob core0 (mgdReg 5 0x054) 4 1 = true)
    ∧ (calm sJob) :=
  ⟨job_accepted,
    calm_of _ (by decide +kernel)⟩

theorem wit_ColophonAndJobImages_8 :
    (s0.boot.jci = none) :=
  by decide +kernel

theorem wit_ColophonAndJobImages_9 :
    (sJobTaken.boot.jci = some jobImg) :=
  by decide +kernel

/-! BootRunsInStages -/

theorem wit_BootRunsInStages_1 :
    (s0.power.pwrGood = true ∧ s0.flash.refusing = false ∧ s0.power.ethLost = false ∧ s0.boot.live = false) :=
  by decide +kernel

theorem wit_BootRunsInStages_2 :
    (¬ ((sBoot 1 []).power.pwrGood = true ∧ (sBoot 1 []).flash.refusing = false ∧ (sBoot 1 []).power.ethLost = false ∧ (sBoot 1 []).boot.live = false)) :=
  by decide +kernel

theorem wit_BootRunsInStages_3 :
    (∀ n ∈ ([1, 2, 3, 4, 5, 6] : List Nat), ¬ stageReady s0 n) :=
  by decide +kernel

theorem wit_BootRunsInStages_4 :
    (stageReady (sBootNoDci 6) 6)
    ∧ (¬ stageReady (sBootNoDci 6) 6 ∨ fb (sBootNoDci 6) CONF_DCI_VALID = false) :=
  by decide +kernel

theorem wit_BootRunsInStages_5 :
    (stageReady (sBoot 1 []) 1)
    ∧ (fwLoad (sBoot 1 []) 1 = none)
    ∧ ((sBoot 1 []).power.trip = false) :=
  by decide +kernel

theorem wit_BootRunsInStages_6 :
    (stageReady (sBoot 2 []) 2)
    ∧ (fwLoad (sBoot 2 []) 2 = none) :=
  by decide +kernel

theorem wit_BootRunsInStages_7 :
    (stageReady (sBoot 3 []) 3)
    ∧ ((dciLoad (sBoot 3 [])).1 = some (confImg, false)) :=
  by decide +kernel

theorem wit_BootRunsInStages_9 :
    (stageReady (sBootNoDci 3) 3)
    ∧ ((dciLoad (sBootNoDci 3)).1 = none) :=
  by decide +kernel

theorem wit_BootRunsInStages_10 :
    (stageReady (sBoot 4 []) 4)
    ∧ (fwLoad (sBoot 4 []) 4 = none) :=
  by decide +kernel

theorem wit_BootRunsInStages_11 :
    (stageReady (sBoot 5 []) 5)
    ∧ (3 < 160)
    ∧ (∃ x ∈ [((0 : Nat), (3 : Nat), (1 : Nat))], x.1 = 0 ∧ x.2.1 = 3) :=
  by decide +kernel

theorem wit_BootRunsInStages_12 :
    (stageReady (sBoot 5 []) 5)
    ∧ (159 < 160)
    ∧ (∀ x ∈ [((0 : Nat), (3 : Nat), (1 : Nat))], x.1 = 0 → x.2.1 ≠ 159)
    ∧ (unitOk (sBoot 5 []) (.net (159 / 80)) = true)
    ∧ (tileRetired (sBoot 5 []) 159 = false) :=
  by decide +kernel

theorem wit_BootRunsInStages_13 :
    (stageReady (sBoot 6 []) 6)
    ∧ (fb (sBoot 6 []) CONF_DCI_VALID = true)
    ∧ (fwLoad (sBoot 6 []) 3 = none) :=
  by decide +kernel

theorem wit_BootRunsInStages_14 :
    (stageReady (sBootFw 1 1) 1)
    ∧ (fwLoad (sBootFw 1 1) 1 = some (fwImg 1, false)) :=
  ⟨by decide +kernel,
    fwLoad_1 _ rfl rfl (by decide +kernel)⟩

theorem wit_BootRunsInStages_15 :
    (stageReady (sBootFw 2 2) 2)
    ∧ (fwLoad (sBootFw 2 2) 2 = some (fwImg 2, false)) :=
  ⟨by decide +kernel,
    fwLoad_2 _ rfl rfl (by decide +kernel)⟩

theorem wit_BootRunsInStages_16 :
    ((stageReady (sBootFw 4 4) 4)
    ∧ (isHbmSite (sBootFw 4 4).build 2 = true))
    ∧ (fwLoad (sBootFw 4 4) 4 = some (fwImg 4, false)) :=
  ⟨by decide +kernel,
    fwLoad_4 _ rfl rfl (by decide +kernel)⟩

theorem wit_BootRunsInStages_17 :
    ((stageReady (sBootFw 6 3) 6)
    ∧ (isLinkSite (sBootFw 6 3).build 0 = true)
    ∧ (0 ∉ ([5] : List Nat))
    ∧ (unitOk (sBootFw 6 3) (.net (dieOfSite 0)) = true)
    ∧ (unitOk (sBootFw 6 3) (.linkDie 0) = true)
    ∧ (0 < nLinks (sBootFw 6 3).build)
    ∧ (linkSite (sBootFw 6 3).build 0 = 0)
    ∧ (linkState (sBootFw 6 3) 0 ≠ 5)
    ∧ (fb (sBootFw 6 3) CONF_DCI_VALID = true))
    ∧ (fwLoad (sBootFw 6 3) 3 = some (fwImg 3, false)) :=
  ⟨by decide +kernel,
    fwLoad_3 _ rfl rfl (by decide +kernel)⟩

/-! PowerComesAndGoes -/

theorem wit_PowerComesAndGoes_1 :
    (s0.power.pwrGood = true)
    ∧ (100 ≤ 100) :=
  by decide +kernel

theorem wit_PowerComesAndGoes_2 :
    (99 < 100 ∨ s0.power.pwrGood = false) :=
  by decide +kernel

theorem wit_PowerComesAndGoes_3 :
    (100 < 100 ∨ sOff.power.pwrGood = false) :=
  by decide +kernel

theorem wit_PowerComesAndGoes_4 :
    (60000 < 60001)
    ∧ (2 ≤ 2)
    ∧ (s0.power.pwrGood = true) :=
  by decide +kernel

theorem wit_PowerComesAndGoes_5 :
    (60000 ≤ 60000 ∨ 2 < 2 ∨ s0.power.pwrGood = false) :=
  by decide +kernel

theorem wit_PowerComesAndGoes_6 :
    (60001 ≤ 60000 ∨ 1 < 2 ∨ s0.power.pwrGood = false) :=
  by decide +kernel

theorem wit_PowerComesAndGoes_7 :
    (43999 < 44000)
    ∧ (2 ≤ 2)
    ∧ (s0.power.pwrGood = true) :=
  by decide +kernel

theorem wit_PowerComesAndGoes_8 :
    (44000 ≤ 44000 ∨ 2 < 2 ∨ s0.power.pwrGood = false) :=
  by decide +kernel

theorem wit_PowerComesAndGoes_9 :
    (44000 ≤ 44000 ∧ 44000 < 48000 ∨ 56000 < 44000 ∧ 44000 ≤ 60000)
    ∧ (1000 < 1001)
    ∧ (s0.power.pwrGood = true) :=
  by decide +kernel

theorem wit_PowerComesAndGoes_10 :
    (44000 ≤ 47999 ∧ 47999 < 48000 ∨ 56000 < 47999 ∧ 47999 ≤ 60000)
    ∧ (1000 < 1001)
    ∧ (s0.power.pwrGood = true) :=
  by decide +kernel

theorem wit_PowerComesAndGoes_11 :
    (44000 ≤ 56001 ∧ 56001 < 48000 ∨ 56000 < 56001 ∧ 56001 ≤ 60000)
    ∧ (1000 < 1001)
    ∧ (s0.power.pwrGood = true) :=
  by decide +kernel

theorem wit_PowerComesAndGoes_12 :
    (44000 ≤ 60000 ∧ 60000 < 48000 ∨ 56000 < 60000 ∧ 60000 ≤ 60000)
    ∧ (1000 < 1001)
    ∧ (s0.power.pwrGood = true) :=
  by decide +kernel

theorem wit_PowerComesAndGoes_13 :
    (43999 < 44000 ∨ 48000 ≤ 43999 ∧ 43999 ≤ 56000 ∨ 60000 < 43999 ∨ 1001 ≤ 1000 ∨ s0.power.pwrGood = false) :=
  by decide +kernel

theorem wit_PowerComesAndGoes_14 :
    (48000 < 44000 ∨ 48000 ≤ 48000 ∧ 48000 ≤ 56000 ∨ 60000 < 48000 ∨ 1001 ≤ 1000 ∨ s0.power.pwrGood = false) :=
  by decide +kernel

theorem wit_PowerComesAndGoes_15 :
    (56000 < 44000 ∨ 48000 ≤ 56000 ∧ 56000 ≤ 56000 ∨ 60000 < 56000 ∨ 1001 ≤ 1000 ∨ s0.power.pwrGood = false) :=
  by decide +kernel

theorem wit_PowerComesAndGoes_16 :
    (60001 < 44000 ∨ 48000 ≤ 60001 ∧ 60001 ≤ 56000 ∨ 60000 < 60001 ∨ 1001 ≤ 1000 ∨ s0.power.pwrGood = false) :=
  by decide +kernel

theorem wit_PowerComesAndGoes_17 :
    ((tripAt s0.build 0 = some 1150)
    ∧ (s0.power.pwrGood = true))
    ∧ (∀ y, tripAt s0.build 0 = some y → y ≤ 1150) :=
  ⟨by decide +kernel,
    by intro y h; cases h; decide⟩

theorem wit_PowerComesAndGoes_18 :
    ((∀ y, tripAt s0.build 0 = some y → 1149 < y) ∨ s0.power.pwrGood = false) :=
  .inl (by intro y h; cases h; decide)

theorem wit_PowerComesAndGoes_19 :
    ((sLive 3 2).boot.live = true)
    ∧ (bit (fv (sLive 3 2) POWR_REFCLK) 1 = true)
    ∧ (3 ≤ (sLive 3 2).boot.stage)
    ∧ (0 < nLinks (sLive 3 2).build)
    ∧ (linkState (sLive 3 2) 0 = 1 ∨ linkState (sLive 3 2) 0 = 2) :=
  by decide +kernel

theorem wit_PowerComesAndGoes_20 :
    ((sLive 1 3).boot.live = false ∨ bit (fv (sLive 1 3) POWR_REFCLK) 1 = false) :=
  by decide +kernel

theorem wit_PowerComesAndGoes_21 :
    ((sLive 3 2).boot.live = true) :=
  by decide +kernel

theorem wit_PowerComesAndGoes_22 :
    (s0.boot.live = false) :=
  by decide +kernel

theorem wit_PowerComesAndGoes_23 :
    ((sLive 1 3).boot.live = true)
    ∧ (bit (fv (sLive 1 3) POWR_REFCLK) 1 = false)
    ∧ (0 < nLinks (sLive 1 3).build)
    ∧ (linkState (sLive 1 3) 0 = 3) :=
  by decide +kernel

theorem wit_PowerComesAndGoes_24 :
    ((sLive 3 3).boot.live = false ∨ bit (fv (sLive 3 3) POWR_REFCLK) 1 = true) :=
  by decide +kernel

/-! ControlLoopsThrottle -/

theorem wit_ControlLoopsThrottle_2 :
    ((sMhz 1500 900).boot.live = true)
    ∧ (fv (sMhz 1500 900) POWR_CAP < (smp 1000 1000 0).pAvg)
    ∧ ((decide (fv (sMhz 1500 900) PDIE_ARITH_MHZ 0 = 750) && decide (fv (sMhz 1500 900) PDIE_ARITH_MHZ 1 = 750)) = false) :=
  by decide +kernel

theorem wit_ControlLoopsThrottle_3 :
    ((sMhz 750 900).boot.live = true)
    ∧ (fv (sMhz 750 900) POWR_CAP < (smp 1000 1000 0).pAvg)
    ∧ ((decide (fv (sMhz 750 900) PDIE_ARITH_MHZ 0 = 750) && decide (fv (sMhz 750 900) PDIE_ARITH_MHZ 1 = 750)) = true) :=
  by decide +kernel

theorem wit_ControlLoopsThrottle_4 :
    ((sMhz 1500 1500).boot.live = true)
    ∧ (1600 < (smp 1000 1601 0).pMax ∨ 1500 < (smp 1000 1601 0).pAvg)
    ∧ ((sMhz 1500 1500).power.emPt ≠ 750) :=
  by decide +kernel

theorem wit_ControlLoopsThrottle_5 :
    ((sMhz 1500 1500).boot.live = true)
    ∧ (1600 < (smp 1501 1600 0).pMax ∨ 1500 < (smp 1501 1600 0).pAvg) :=
  by decide +kernel

theorem wit_ControlLoopsThrottle_6 :
    ((sMhz 1500 1500).boot.live = true)
    ∧ (0 < 2)
    ∧ (1000 ≤ (smp 1000 1000 1000).tDie.getD 0 0) :=
  by decide +kernel

theorem wit_ControlLoopsThrottle_7 :
    (0 < 2 ∧ 1023 < 1024 ∧ dieInService (sMhz 1500 1500) 0 = true ∧ fb (sMhz 1500 1500) BKGD_ACT_EN 0 4 = true) :=
  by decide +kernel

theorem wit_ControlLoopsThrottle_8 :
    (¬ (2 < 2 ∧ 1023 < 1024 ∧ dieInService (sMhz 1500 1500) 2 = true ∧ fb (sMhz 1500 1500) BKGD_ACT_EN 0 4 = true)) :=
  by decide +kernel

/-! HealthIsKept -/

theorem wit_HealthIsKept_1 :
    (6 ≤ 6 ∨ fb (sBk true) BKGD_ACT_EN 0 6 = false) :=
  by decide +kernel

theorem wit_HealthIsKept_2 :
    (6 ≤ 4 ∨ fb sBkOff BKGD_ACT_EN 0 4 = false) :=
  by decide +kernel

theorem wit_HealthIsKept_3 :
    (4 < 6)
    ∧ (fb (sBk true) BKGD_ACT_EN 0 4 = true)
    ∧ (bkUnitOk (sBk true) 4 0 0 = true)
    ∧ (windowOpen (sBk true) = true)
    ∧ (pointsOf (sBk true) 100 ≤ (windowLeft (sBk true)).1)
    ∧ ((bkPoints (sBk true) 4 0 + pointsOf (sBk true) 100) * 256 ≤ fv (sBk true) BKGD_ACT_SHARE 0 4 * (windowLeft (sBk true)).2)
    ∧ (proofUnit (sBk true).build 0 0 = some (.tile 0)) :=
  by decide +kernel

theorem wit_HealthIsKept_4 :
    (1 < 6)
    ∧ (fb (sBk true) BKGD_ACT_EN 0 1 = true)
    ∧ (bkUnitOk (sBk true) 1 0 0 = true)
    ∧ (windowOpen (sBk true) = true)
    ∧ (pointsOf (sBk true) 100 ≤ (windowLeft (sBk true)).1)
    ∧ ((bkPoints (sBk true) 1 0 + pointsOf (sBk true) 100) * 256 ≤ fv (sBk true) BKGD_ACT_SHARE 0 1 * (windowLeft (sBk true)).2)
    ∧ (proofUnit (sBk true).build 0 0 = some (.tile 0)) :=
  by decide +kernel

theorem wit_HealthIsKept_5 :
    (3 < 6)
    ∧ (fb (sBk true) BKGD_ACT_EN 0 3 = true)
    ∧ (bkUnitOk (sBk true) 3 0 0 = true)
    ∧ (windowOpen (sBk true) = true)
    ∧ (pointsOf (sBk true) 100 ≤ (windowLeft (sBk true)).1)
    ∧ ((bkPoints (sBk true) 3 0 + pointsOf (sBk true) 100) * 256 ≤ fv (sBk true) BKGD_ACT_SHARE 0 3 * (windowLeft (sBk true)).2)
    ∧ (proofUnit (sBk true).build 0 0 = some (.tile 0)) :=
  by decide +kernel

theorem wit_HealthIsKept_6 :
    (4 < 6)
    ∧ (fb (sBk false) BKGD_ACT_EN 0 4 = true)
    ∧ (bkUnitOk (sBk false) 4 0 0 = true)
    ∧ (windowOpen (sBk false) = false)
    ∧ (4 ≠ 3)
    ∧ (4 < 5)
    ∧ (8192 < 8193 - min 65535 0)
    ∧ (bkPoints (sBk false) (8 + 4) 0 + pointsOf (sBk false) 100 ≤ fv (sBk false) BKGD_STEAL_MAX 0 4) :=
  by decide +kernel

theorem wit_HealthIsKept_7 :
    (4 < 6)
    ∧ (fb (sBk false) BKGD_ACT_EN 0 4 = true)
    ∧ (bkUnitOk (sBk false) 4 2 2 = false) :=
  by decide +kernel

theorem wit_HealthIsKept_8 :
    (4 < 6)
    ∧ (fb (sBk false) BKGD_ACT_EN 0 4 = true)
    ∧ (windowOpen (sBk false) = false ∧ 4 ≠ 3 ∧ 4096 ≤ min 65535 0 + 4096) :=
  by decide +kernel

theorem wit_HealthIsKept_9 :
    (5 < 6)
    ∧ (windowOpen (sBk false) = false) :=
  by decide +kernel

theorem wit_HealthIsKept_10 :
    (6 ≤ 5 ∨ windowOpen (sBk true) = true) :=
  by decide +kernel

theorem wit_HealthIsKept_11 :
    (5 < 6 ∧ 5 ≠ 3 ∧ fb (sBk false) BKGD_ACT_EN 0 5 = true) :=
  by decide +kernel

theorem wit_HealthIsKept_13 :
    (¬ (3 < 6 ∧ 3 ≠ 3 ∧ fb (sBk false) BKGD_ACT_EN 0 3 = true)) :=
  by decide +kernel

theorem wit_HealthIsKept_14 :
    (proofUnit (sProof false false false).build 0 0 = some (.tile 0))
    ∧ (1 ≤ 3)
    ∧ (3 ≤ 3)
    ∧ ((sProof false false false).units.proving.contains (.tile 0) = false)
    ∧ ((sProof false false false).units.suspect.contains (.tile 0) = false) :=
  by decide +kernel

theorem wit_HealthIsKept_15 :
    (proofUnit (sProof true false false).build 0 0 = some (.tile 0))
    ∧ (1 ≤ 3)
    ∧ (3 ≤ 3)
    ∧ ((sProof true false false).units.proving.contains (.tile 0) = true)
    ∧ ((sProof true false false).units.suspect.contains (.tile 0) = false) :=
  by decide +kernel

theorem wit_HealthIsKept_17 :
    (proofUnit (sProof true true false).build 0 0 = some (.tile 0))
    ∧ (1 ≤ 3)
    ∧ (3 ≤ 3)
    ∧ ((sProof true true false).units.proving.contains (.tile 0) = true)
    ∧ ((sProof true true false).units.suspect.contains (.tile 0) = true) :=
  by decide +kernel

theorem wit_HealthIsKept_18 :
    (proofUnit (sProof false false true).build 0 0 = some (.tile 0))
    ∧ (1 ≤ 3)
    ∧ (3 ≤ 3)
    ∧ (quarantined (sProof false false true) (.tile 0) = true)
    ∧ (proofIdle (sProof false false true) (.tile 0) = true)
    ∧ ((sProof false false true).units.heldIncs = [])
    ∧ ((sProof false false true).units.heldAccs = [])
    ∧ ((sProof false false true).units.heldMsgs = []) :=
  by decide +kernel

theorem wit_HealthIsKept_20 :
    (proofUnit sProofBusy.build 1 1 = some (.ue 1))
    ∧ (1 ≤ 3)
    ∧ (3 ≤ 3)
    ∧ (quarantined sProofBusy (.ue 1) = true)
    ∧ (proofIdle sProofBusy (.ue 1) = false) :=
  by decide +kernel

theorem wit_HealthIsKept_21 :
    (proofSlot 0x10 143 = none) :=
  by decide +kernel

theorem wit_HealthIsKept_22 :
    (proofSlot 0x10 0 = some 0)
    ∧ (firstErr (actionErrs (sProof false false false) ⟨0, 0, 0, 6, 0x10, 0, 0⟩) = .ok) :=
  by decide +kernel

theorem wit_HealthIsKept_23 :
    (proofSlot 0x11 0xFF = some 159)
    ∧ (firstErr (actionErrs (sProof false false false) ⟨0, 0, 0, 6, 0x11, 0xFF, 0⟩) ≠ .ok) :=
  by decide +kernel

theorem wit_HealthIsKept_24 :
    (limitUnit s0.build 4 0 = none) :=
  by decide +kernel

theorem wit_HealthIsKept_25 :
    (limitUnit s0.build 1 0 = some .bridge)
    ∧ (s0.units.failed.contains .bridge = false) :=
  by decide +kernel

theorem wit_HealthIsKept_26 :
    (limitUnit sBridge.build 1 0 = some .bridge)
    ∧ (sBridge.units.failed.contains .bridge = true) :=
  by decide +kernel

theorem wit_HealthIsKept_27 :
    (limitUnit (sLive 3 2).build 2 1 = some (.stack 1))
    ∧ ((sLive 3 2).units.failed.contains (.stack 1) = false)
    ∧ (⟨.hbmc, 1⟩ ∈ unitPages (sLive 3 2).build)
    ∧ (pageRetired (sLive 3 2) ⟨.hbmc, 1⟩ = false) :=
  by decide +kernel

theorem wit_HealthIsKept_28 :
    (3 ≤ (sLive 3 2).boot.stage)
    ∧ (fb (sLive 3 2) ENET_LINK_UP ≠ false) :=
  by decide +kernel

theorem wit_HealthIsKept_29 :
    ((sLive 3 2).boot.stage < 3 ∨ fb (sLive 3 2) ENET_LINK_UP = true) :=
  by decide +kernel

theorem wit_HealthIsKept_30 :
    (s0.boot.stage < 3 ∨ fb s0 ENET_LINK_UP = true) :=
  by decide +kernel

theorem wit_HealthIsKept_31 :
    (3 ≤ sLiveDown.boot.stage)
    ∧ (fb sLiveDown ENET_LINK_UP ≠ true) :=
  by decide +kernel

theorem wit_HealthIsKept_32 :
    (0 < 256)
    ∧ (0x06400118 < 2 ^ 64)
    ∧ (accepted (sLive 3 2) core0 (mgdReg 6 (0x400 + 8 * 0)) 8 0x06400118 = true) :=
  by decide +kernel

theorem wit_HealthIsKept_33 :
    (255 < 256)
    ∧ (0x06400118 < 2 ^ 64)
    ∧ (accepted (sLive 3 2) core0 (mgdReg 6 (0x400 + 8 * 255)) 8 0x06400118 = true) :=
  by decide +kernel

/-! ### What commands leave, on those states: one step each, the expected values worked out by hand from the rules of spec/ that the
obligation of that group names -/

/-- The state a command leads to. -/
def nx (o : Host.Outcome State Fault Refusal) : State := match o with | .next t => t | _ => State.reset

theorem test_registerWrite : (let t := nx (exec (.registerWrite core0 (mgdReg 1 0x064) 4 1) s0); (fv t (hdrErrCode .pres) 0 = errNum (writeCode s0 core0 (mgdReg 1 0x064) 4 1)) ∧ (fv t (hdrErrOffset .pres) 0 = 0x64) ∧ (fv t (hdrErrCnt .pres) 0 = 1) ∧ (fv t (hdrEvtPend .pres) 0 = 1)) := by decide +kernel

theorem test_rcRegisterRead : (let t := nx (exec (.rcRegisterRead core0 (mgdReg 1 0x0BC) 4) sCounted); (fv t PRES_CNT_SKIPPED = 0) ∧ (t.out = [.regValue core0 (mgdReg 1 0x0BC) 3])) := by decide +kernel

theorem test_errCodeRead : (let t := nx (exec (.errCodeRead core0 (mgdReg 1 0x010)) sRejected); (fv t (hdrErrCode .pres) 0 = 0)) := by decide +kernel

theorem test_evtPendClear : (let t := nx (exec (.evtPendClear core0 (mgdReg 1 0x018) (2 ^ 16 + 1) (2 ^ 16)) sRejected); (fv t (hdrEvtPend .pres) 0 = 2 ^ 16)) := by decide +kernel

theorem test_beaconIssue : (let t := nx (exec (.beaconIssue 10000) (sMaster false)); (t.press.issued = true) ∧ ((t.press.lastBeacon.map (·.impression)) = some 6) ∧ ((t.press.lastBeacon.map (·.timeout)) = some false) ∧ (t.press.edge.isSome)) := by decide +kernel

theorem test_gateTimeout : (let t := nx (exec (.gateTimeout 90000) (sMaster true)); (t.press.issued = true) ∧ ((t.press.lastBeacon.map (·.timeout)) = some true) ∧ (fv t PRES_CNT_GATE_TIMEOUT = 1) ∧ ((fv t (hdrEvtPend .pres) 0).testBit 19 = true)) := by decide +kernel

theorem test_beaconReceive : (let t := nx (exec (.beaconReceive 0 (beacon 6 1)) sLinked); (t.press.edge = some ⟨6, 20000, false⟩) ∧ (fv t PRES_ELECT_GEN = 1) ∧ (fb t PRES_BEACON_LATE = true) ∧ (fv t PRES_BEACON_HOPS = 255)) := by decide +kernel

theorem test_impressionEdge : (let t := nx (exec (.impressionEdge 20000) sEdge); (t.press.imp = 6) ∧ (t.press.pt = 0) ∧ (t.press.gated = true) ∧ (fv t PRES_PERIOD_CUR = 20000) ∧ (t.press.forced = (fv t PRES_READY_THRESH == 0))) := by decide +kernel

theorem test_readyForce : (let t := nx (exec (.readyForce core0) (sHears roleFollower)); (t.press.forced = true) ∧ (t.press.readySent = true)) := by decide +kernel

theorem test_readyReceive : (let t := nx (exec (.readyReceive 16383 5) (sHears roleFollower)); (t.press.children = 1) ∧ (t.press.readySent = false)) := by decide +kernel

theorem test_schedCancel : (let t := nx (exec (.schedCancel core0 1023) sDue); (t.press.sched = [])) := by decide +kernel

theorem test_schedFire : (let t := nx (exec (.schedFire 0) sDue); (t.press.sched = []) ∧ (fb t PRES_AFAIL_VALID = true) ∧ (fb t PRES_AFAIL_MULTI = false) ∧ ((fv t (hdrEvtPend .pres) 0).testBit 21 = true) ∧ (fv t PRES_AFAIL_HANDLE = 1023)) := by decide +kernel

theorem test_bubbleEnable : (let t := nx (exec (.bubbleEnable core0 1 65535) (st [setF PRES_BUB_OFFSET 1 0 1])); (fb t PRES_BUB_EN = true) ∧ (fv t PRES_BUB_COUNT = 1) ∧ (fv t PRES_BUB_CYCLE = 65535)) := by decide +kernel

theorem test_bubbleDisable : (let t := nx (exec (.bubbleDisable core0) (sBubble true true)); (fb t PRES_BUB_EN = false) ∧ (t.press.open_ = [])) := by decide +kernel

theorem test_softReset : (let t := nx (exec (.softReset core0 (mgdReg 1 0x008) 2) s0); (inSrst t presPage = true)) := by decide +kernel

theorem test_softResetDone : (let t := nx (exec (.softResetDone 0x18 1) sPresReset); (inSrst t presPage = false)) := by decide +kernel

theorem test_waitExpired : (let t := nx (exec (.waitExpired 0 0) sWaits); (fv t TILE_QSTATE 0 0 = qHalted) ∧ (fv t TILE_QREASON 0 0 = 2)) := by decide +kernel

theorem test_queueStart : (let t := nx (exec (.queueStart core0 143 6) (sQState qStopped)); (headDecided t 151 6)) := by decide +kernel

theorem test_queueStop : (let t := nx (exec (.queueStop core0 143 6) (sQState qEmpty)); (fv t TILE_QSTATE 151 6 = qStopped)) := by decide +kernel

theorem test_descriptorNop : (let t := nx (exec (.descriptorNop 0 1) (sFire 1 (dsc [(0, 0x100)]))); (fv t TILE_Q_HEAD 0 1 = 1) ∧ (fv t TILE_Q_DONE 0 1 = 1) ∧ (headDecided t 0 1)) := by decide +kernel

theorem test_descriptorComplete : (let t := nx (exec (.descriptorComplete 0 1) (sFlight 0)); (fv t TILE_Q_DONE 0 1 = 1) ∧ ((tileSt t 0).summaries.length = 1) ∧ (⟨0, 0, 5, 1⟩ ∈ t.flights) ∧ ((fv t (hdrEvtPend .tile) 0).testBit 16 = true)) := by decide +kernel

theorem test_dmaCopy : (let t := nx (exec (.dmaCopy 0 6 []) (sDma 1)); (fv t TILE_Q_HEAD 0 6 = 1)) := by decide +kernel

theorem test_dmaFill : (let t := nx (exec (.dmaFill 0 6 []) (sDma 2)); (fv t TILE_Q_HEAD 0 6 = 1) ∧ (mapRead memDefault t.mem (muBase (.galley 0) + 64) 4 = [1, 2, 3, 4])) := by decide +kernel

theorem test_inboxDisarm : (let t := nx (exec (.inboxDisarm core0 143 15) sInbox); (fv t WINN_ISTATE 151 15 = inIdle)) := by decide +kernel

theorem test_rowMsg : (let t := nx (exec (.rowMsg 0 143 15 0 3 7 (List.replicate 64 9)) sInbox); (mapGet memDefault t.mem (muBase (.galley 151) + 0x1000 + 3 * 64) = 9) ∧ (fv t WINN_IROWS 151 15 = 1)) := by decide +kernel

theorem test_tokenIncrement : (let t := nx (exec (.tokenIncrement (.own 0)) sOnWay); (t.flights = []) ∧ (tok t 151 255 = 3)) := by decide +kernel

theorem test_tokenInc : (let t := nx (exec (.tokenInc 0x11 143 0x1FF) sOnWay); (tok t 151 255 = 1)) := by decide +kernel

theorem test_tokRd : (let t := nx (exec (.tokRd 143 31 1) sCore); (xreg t 151 31 = 5)) := by decide +kernel

theorem test_tokWait : (let t := nx (exec (.tokWait 143 31 1 2) sCore); ((coreSt t 151).wait = .tok 31 1 7) ∧ (fb t TILE_CORE_STALLED 151 = true)) := by decide +kernel

theorem test_coreRun : (let t := nx (exec (.coreRun core0 143 true 65532) s0); (fb t TILE_CORE_RUN 151 = true) ∧ ((coreSt t 151).pc = 65532)) := by decide +kernel

theorem test_coreStallRelease : (let t := nx (exec (.coreStallRelease 143) sStalled); (xreg t 151 31 = 5)) := by decide +kernel

theorem test_memoryWrite : (let t := nx (exec (.memoryWrite core0 hbm1 burst []) sMem); (rawByte t (muBase (.hbm 1) + 0x8000000 + 31) = 5)) := by decide +kernel

theorem test_memoryRead : (let t := nx (exec (.memoryRead core0 hbm1 4) sMem); (t.out.length = 1)) := by decide +kernel

theorem test_spareSubstitute : (let t := nx (exec (.spareSubstitute 0x11 143) sDie1); (tileRetired t 151 = true) ∧ (substPending t 143 = true)) := by decide +kernel

theorem test_spareResume : (let t := nx (exec (.spareResume 143) sTaken); (t.units.subst = []) ∧ (fv t TILE_OLD_PHYS (physOf sTaken 143) = 71)) := by decide +kernel

theorem test_curvCmdFold : (let t := nx (exec (.curvCmdFold core0 1 0 1) (sCurv 0)); (fb t UPDT_CF_VALID 1 = true) ∧ ((fv t (hdrEvtPend .updt) 1).testBit 1 = true)) := by decide +kernel

theorem test_curvCmdReset : (let t := nx (exec (.curvCmdReset core0 1 1 0) (sCurv 0x75)); ((blockStAt t curvRec 0 0).flags = 5) ∧ (t.mem.all (fun e => mapGet memDefault (sCurv 0x75).mem e.1 == e.2 || decide (cvStatusAddr curvRec 0 0 ≤ e.1 ∧ e.1 < cvStatusAddr curvRec 0 1) || decide (hbm1Base + 0x1080 + 112 ≤ e.1 ∧ e.1 < hbm1Base + 0x1080 + 116)) = true)) := by decide +kernel

theorem test_fadd : (let t := nx (exec (.fadd 1) (sUe (some (ueRun [0x04 * 2 ^ 26, 0x02 * 2 ^ 26] 0 .vector)))); (((ueSt t 1).run.map fun r => (r.pc, (r.regs.getD 0 []).head?)) = some (1, some (0x40000000, false)))) := by decide +kernel

theorem test_progDataWrite : (let t := nx (exec (.progDataWrite core0 1 (2 ^ 32 - 1)) (sUe none)); (fv t UPDT_PROG_ADDR 1 = 1) ∧ (mapGet memDefault t.mem (muBase (.prog 1)) = 255)) := by decide +kernel

theorem test_updateRun : (let t := nx (exec (.updateRun 1 (some core0) 1) sUeDone); ((ueSt t 1).jobs = [.update 1 none])) := by decide +kernel

theorem test_updateDone : (let t := nx (exec (.updateDone 1) sUeDone); ((ueSt t 1).run = none) ∧ (fv t UPDT_UCNT 1 0 = 1) ∧ (hbmLE t (hbm1Base + 0x2100 + 224) 8 = 7)) := by decide +kernel

theorem test_fetch : (let t := nx (exec (.fetch 1 (some core0)) (sFeStaged 0)); ((ueSt t 1).fetches.length = 0)) := by decide +kernel

theorem test_fetchCancel : (let t := nx (exec (.fetchCancel core0 1) (sFe [fe 2 none 0 none, fe 2 none 0 (some (instant 1 0)), fe 2 (some 5) 0 none])); ((ueSt t 1).fetches = [fe 2 none 0 (some (instant 1 0)), fe 2 (some 5) 0 none])) := by decide +kernel

theorem test_updCmdAudit : (let t := nx (exec (.updCmdAudit core0 1 1) (sUe none)); ((ueSt t 1).audits = [(1, 0)])) := by decide +kernel

theorem test_snapshotFreeze : (let t := nx (exec (.snapshotFreeze 1 1) (sFreeze (some (ueRun [0] 0 .vector)))); ((ueSt t 1).freeze = true)) := by decide +kernel

theorem test_solvContextDisable : (let t := nx (exec (.solvContextDisable core0 15 31 0) (sSolv 5 1)); (cState t 15 31 = 0) ∧ (cMode t 15 31 = 0)) := by decide +kernel

theorem test_goRec : (let t := nx (exec (.goRec 15 (some core0)) (sGoStaged false)); (cState t 15 31 = 2) ∧ ((ctxAt t 15 31).go = some (parseGo goRec_))) := by decide +kernel

theorem test_solveStart : (let t := nx (exec (.solveStart 15 0 []) (sRunnable 3)); (cState t 15 31 = 4) ∧ ((ctxAt t 15 31).solve.isSome)) := by decide +kernel

theorem test_solverPreempt : (let t := nx (exec (.solverPreempt 15 0) (sRunning 5 0 solveB)); (cState t 15 31 = 5) ∧ ((solvSt t 15).run = none) ∧ (fv t SOLV_SCNT 15 5 = 1)) := by decide +kernel

theorem test_sheafOpen : (let t := nx (exec (.sheafOpen (some core0) 0) (sShef 1 [] (openRec 1 2 0))); (t.shef.open_.length = 0)) := by decide +kernel

theorem test_sheafAbort : (let t := nx (exec (.sheafAbort (some core0) 0) (sShef 2 [shf 2 2 (.scale 1) none] (openRec 2 0 0))); (t.shef.open_ = []) ∧ ((7, 0) ∈ t.shef.closed)) := by decide +kernel

theorem test_sheafBlockReceive : (let t := nx (exec (.sheafBlockReceive 1 (blk 0 0 64 false)) (sShef 2 [] [])); (t.shef.parked.length = 1)) := by decide +kernel

theorem test_scaleRoundReceive : (let t := nx (exec (.scaleRoundReceive 1 7 0 1 5) (sShef 3 [(shf 2 3 (.scale 1) none)] [])); ((t.shef.open_.map (·.scaleGot)) = [[(1, 5)]])) := by decide +kernel

theorem test_optSet : (let t := nx (exec (.optSet (some core0) 1) (sOpt (optEntry false dataA 0) (optCmd 17 65535))); (otValid (optRec t 65535) = true) ∧ (otGen (optRec t 65535) = 0) ∧ (otSize (optRec t 65535) = 4096) ∧ (fv t OPTB_OCNT 0 0 = 1)) := by decide +kernel

theorem test_optMove : (let t := nx (exec (.optMove (some core0) 1) (sOpt (optEntry false dataA 0) (optCmd 18 65535))); (otMoving (optRec t 65535) = true) ∧ (otGen (optRec t 65535) = 9) ∧ (t.moves = [(65535, 0)]) ∧ (fv t OPTB_OCNT 0 1 = 1)) := by decide +kernel

theorem test_prefetch : (let t := nx (exec (.prefetch 1) (sPfWin (pfRec 0 4096 0))); (fifoOf t 1 = []) ∧ ((pfsOf t 1).length = 1) ∧ (fv t HBMC_HCNT 1 1 = 0) ∧ (fv t (hdrErrCnt .hbmc) 1 = 0)) := by decide +kernel

theorem test_prefetchStart : (let t := nx (exec (.prefetchStart 1 0 0) (sPf false ⟨(pfRec 2 4096 0), none, false⟩)); ((pfsOf t 1).map (·.bound) = [some (0, 9, dataA)]) ∧ (fv t HBMC_HCNT 1 0 = 1)) := by decide +kernel

theorem test_remoteAccess : (let t := nx (exec (.remoteAccess 1 (.readReq hbm1Base 64)) (sPeer 1 0)); (t.out.length = 1)) := by decide +kernel

theorem test_lendWindowEnable : (let t := nx (exec (.lendWindowEnable core0 15 (2 ^ 31 + 2 ^ 15 + 16382)) (sPeer 0 0)); (fb t PEER_LW_EN 0 15 = true) ∧ (fv t PEER_LW_BORROWER 0 15 = 16382) ∧ (fb t PEER_LW_WRITE_OK 0 15 = true)) := by decide +kernel

theorem test_flashRead : (let t := nx (exec (.flashRead lastPage true) (sFlash 0 false)); (fv t FLSH_FCNT 0 3 = 1)) := by decide +kernel

theorem test_flashRelocation : (let t := nx (exec (.flashRelocation true false 0 0 11 0) (sFlash 0 false)); (fv t FLSH_FCNT 0 1 = 1)) := by decide +kernel

theorem test_patrolScrub : (let t := nx (exec (.patrolScrub (176 + 10) 0 (lastWord - 4088) true) sPatrol); (t.syn = []) ∧ (fv t INTG_ICNT 186 0 = 1) ∧ ((fv t (hdrEvtPend .intg) 186).testBit 16 = true) ∧ (mapGet memDefault t.mem (muBase (.hbm 10) + lastWord + 7) = 127) ∧ (fv t INTG_PATROL_PASSES 186 = 1)) := by decide +kernel

theorem test_scrubGo : (let t := nx (exec (.scrubGo core0 186 0x30) (sIntg 0)); (fb t INTG_SCRUB_BUSY 186 = true) ∧ (fv t INTG_SUM_WORDS 186 = 0)) := by decide +kernel

theorem test_linkCtl : (let t := nx (exec (.linkCtl 0 (ctl none true)) (sLink id 3)); (t = sLink id 3)) := by decide +kernel

theorem test_codewordUncorrectable : (let t := nx (exec (.codewordUncorrectable 0) (sLink id 2)); (fv t LINK_LCNT 0 1 = 1) ∧ ((linkSt t 0).naking = true)) := by decide +kernel

theorem test_laneRetrain : (let t := nx (exec (.laneRetrain 0 0 15) (sLink id 2)); ((linkSt t 0).req = some 15) ∧ (t.out = [.retrain 0 false 15])) := by decide +kernel

theorem test_laneRetrainStart : (let t := nx (exec (.laneRetrainStart 0) (sLink (fun x => { x with req := some 15, grant := true }) 2)); (fb t LINK_RETRAINING 0 = true) ∧ (fv t LINK_LANE 0 = 15) ∧ (fv t LINK_LANES 0 = 15)) := by decide +kernel

theorem test_linkRetrain : (let t := nx (exec (.linkRetrain core0 0) (sLink id 2)); (linkState t 0 = 1) ∧ (fv t LINK_LCNT 0 5 = 1) ∧ ((fv t (hdrEvtPend .link) 0).testBit 16 = true)) := by decide +kernel

theorem test_linkDisable : (let t := nx (exec (.linkDisable core0 0) (sLink id 2)); (linkState t 0 = 3) ∧ (fb t LINK_LDISABLE 0 = true)) := by decide +kernel

theorem test_planEnable : (let t := nx (exec (.planEnable core0) (sPlan 0)); (fb t PRES_PLAN_EN = true) ∧ (t.press.plan.isSome = true)) := by decide +kernel

theorem test_planDisable : (let t := nx (exec (.planDisable core0) (sPlan 1)); (fb t PRES_PLAN_EN = false)) := by decide +kernel

theorem test_reimpositionStart : (let t := nx (exec (.reimpositionStart 0) (sRi 1 [])); (fv t MGMT_RI_STATE = 2) ∧ (fv t MGMT_RI_LEFT = 2)) := by decide +kernel

theorem test_reimpositionComplete : (let t := nx (exec (.reimpositionComplete 0) (sRiEarly 2)); (fv t MGMT_RI_STATE = 2)) := by decide +kernel

theorem test_ethFrameReceive : (let t := nx (exec (.ethFrameReceive (frame 3 0)) s0); (t = s0)) := by decide +kernel

theorem test_arpRequest : (let t := nx (exec (.arpRequest 0xC0A80001 9) sEth); (t.out.length = 1)) := by decide +kernel

theorem test_qpContextPost : (let t := nx (exec (.qpContextPost core0 (2 ^ 31 + 255)) (sQp 0 7 (qpc 1 0 0))); (qcState (qpOf t 255).ctx = 1)) := by decide +kernel

theorem test_windowPost : (let t := nx (exec (.windowPost core0 (2 ^ 31 + 2 ^ 16 + 63)) (sQp 0 7 (recOf 64 [(0, 1, 7), (2, 2, 0xFFFF), (4, 4, 78), (8, 6, hbm1Base), (16, 6, 4096)]))); (wnKey (winOf t 63) = 78)) := by decide +kernel

theorem test_memRead : (let t := nx (exec (.memRead ⟨5, 6, 0, []⟩) sSlq); (t = sSlq)) := by decide +kernel

theorem test_regRead : (let t := nx (exec (.regRead mRead) sSlq); (t.out.length = 1)) := by decide +kernel

theorem test_slaiqTimeout : (let t := nx (exec (.slaiqTimeout mRead 0) sSlq); (t.out.length = 1) ∧ (t.regs = sSlq.regs)) := by decide +kernel

theorem test_eventResend : (let t := nx (exec (.eventResend 9) (sEvents 0)); (t = sEvents 0)) := by decide +kernel

theorem test_quoteOp : (let t := nx (exec (.quoteOp core0) (sOwned [])); (fb t COLO_COLO_BUSY = true) ∧ (t.boot.op = some 1)) := by decide +kernel

theorem test_certOp : (let t := nx (exec (.certOp core0) (sOwned [])); (t.boot.op = some 2)) := by decide +kernel

theorem test_bootStart : (let t := nx (exec (.bootStart 3 true) s0); (t.boot.live = true) ∧ (fv t POWR_REFCLK = 3)) := by decide +kernel

theorem test_bootStage1 : (let t := nx (exec (.bootStage1) s0); (t = s0)) := by decide +kernel

theorem test_resetAssert : (let t := nx (exec (.resetAssert 100) s0); (t.flash.refusing = true)) := by decide +kernel

theorem test_overvoltage : (let t := nx (exec (.overvoltage 60001 2) s0); (t.power.overvolt = true)) := by decide +kernel

theorem test_powerControlStep : (let t := nx (exec (.powerControlStep (smp 1000 1000 0)) s0); (t = s0)) := by decide +kernel

theorem test_vfCal : (let t := nx (exec (.vfCal 0 1023) (sMhz 1450 1500)); (fv t PDIE_VDD_MV 0 = 1023) ∧ (fv t PDIE_ARITH_MHZ 0 = 1500)) := by decide +kernel

theorem test_bkgdGrant : (let t := nx (exec (.bkgdGrant 6 0 0 100 0 0) (sBk true)); (t = sBk true)) := by decide +kernel

theorem test_overrun : (let t := nx (exec (.overrun 5 100) (sBk false)); (fv t BKGD_CNT_STOLEN 0 5 = 100)) := by decide +kernel

end Sys2Proof.Tests
end

section
/-! PROOF. The records of a page's header (R32 to R34, R48): what a read of ERR_CODE or ERR_CNT clears, what a rejection
counts, and what a write of EVT_PEND leaves pending. -/

namespace Sys2Proof.Machine

/-! ### Clearing bits -/

/-- Taking the bits of a mask away from a number is Mathlib's `Nat.ldiff`. -/
theorem sub_and_eq_ldiff (v m : Nat) : v - (v &&& m) = v.ldiff m := by
  have split : (v &&& m) + v.ldiff m = v := by
    induction v using Nat.binaryRec generalizing m with
    | zero => simp [Nat.ldiff]
    | bit b n ih =>
      obtain ⟨c, k, rfl⟩ : ∃ c k, m = Nat.bit c k := ⟨_, _, (Nat.bit_bodd_div2 m).symm⟩
      have split_tail := ih k
      rw [Nat.land_bit, Nat.ldiff_bit]
      cases b <;> cases c <;> simp [Nat.bit_val] <;> omega
  omega

/-- A bit stays where the mask does not name it. -/
theorem testBit_sub_and (v m i : Nat) : (v - (v &&& m)).testBit i = (v.testBit i && !m.testBit i) := by
  rw [sub_and_eq_ldiff, Nat.testBit_ldiff]

/-- A field that the mask covers is 0. -/
theorem bits_sub_and_low (v n hi lo : Nat) (h : lo + (hi + 1 - lo) ≤ n) :
    bits (v - (v &&& (2 ^ n - 1))) hi lo = 0 := by
  refine Nat.eq_of_testBit_eq fun i => ?_
  rw [testBit_bits, testBit_sub_and, Nat.testBit_two_pow_sub_one, Nat.zero_testBit]
  by_cases hw : i < hi + 1 - lo
  · simp [show lo + i < n by omega]
  · simp [hw]

/-! ### The registers of a header -/

theorem regAt_errCode (b : Blk) : ∃ d, regAt b 0x010 = some (d, 0x010) ∧ rcMask d = 2 ^ 21 - 1 := ⟨_, rfl, rfl⟩

theorem regAt_errCnt (b : Blk) : ∃ d, regAt b 0x014 = some (d, 0x014) ∧ rcMask d = 2 ^ 32 - 1 := ⟨_, rfl, rfl⟩

theorem regAt_evtPend (b : Blk) :
    ∃ d, regAt b 0x018 = some (d, 0x018) ∧ storeMask d .rw = 0 ∧ storeMask d .w1c = 0xFFFF000F := ⟨_, rfl, rfl, rfl⟩

/-- A header's registers are never shared between pages. -/
theorem pageKey_header (p : PageRef) (off : Nat) (h : off < 0x40) : pageKey p off = regKey p.blk p.idx off := by
  have hlow : ¬ 0x40 ≤ off := by omega
  unfold pageKey keyIdx
  split <;> simp [hlow]

/-- From ERR_CODE on, a header's registers read as what they hold. -/
theorem viewAt_header (s : State) (p : PageRef) (off : Nat) (h : 0x010 ≤ off) (h' : off < 0x40) : viewAt s p off = none := by
  have hne : ∀ n, 0x40 ≤ n → off ≠ n := by omega
  have hlow : ¬ 0x080 ≤ off := by omega
  unfold viewAt
  rw [if_neg (by omega), if_neg (by omega), if_neg (by omega)]
  split <;> simp [hne, hlow]

/-- No register of a header is the one that counts lost events. -/
theorem regKey_header_ne_lostKey (p : PageRef) (off : Nat) (h : off < 0x40) : regKey p.blk p.idx off ≠ lostKey := by
  unfold lostKey fldKey regKey SLQP_QCNT
  simp only [blkNum]
  omega

/-- Sending a message leaves the registers. -/
theorem rdKey_emit (m : OutMsg) (s : State) (k : Nat) : rdKey ((Upd.emit m).apply s) k = rdKey s k := rfl

/-! ### Reading a record -/

/-- An accepted read of a header's register: its RC fields clear, and its value goes to the requester. -/
theorem access_read_header (s : State) (r : Requester) (a size : Nat) (p : PageRef) (d : RegDef) (base v : Nat)
    (h : readable s r a size = true) (hp : pageOf s a = some p) (hd : regAt p.blk (raOff a) = some (d, base))
    (hb : 0x010 ≤ base) (hb' : base < 0x40) (hv : rdKey s (regKey p.blk p.idx base) = v) :
    (access ⟨r, a, size, none⟩).run s = (Upd.emit (.regValue r a v)).apply
      ((onlyIf (v &&& rcMask d != 0) (setKey (regKey p.blk p.idx base) (v - (v &&& rcMask d)))).run s) := by
  simp only [readable, Bool.and_eq_true, Bool.not_eq_true', beq_iff_eq] at h
  obtain ⟨⟨hheld, herr⟩, -⟩ := h
  have hnot : ¬ 0x40 ≤ base := by omega
  simp [access, accessNow, readReg, readPage, regValue, hheld, herr, hp, hd, viewAt_header s p base hb hb',
    pageKey_header p base hb', hnot, hv]

/-- After it the RC fields are clear, the requester has the value as it stood, and nothing else has changed. -/
theorem access_read_header_clears (s : State) (r : Requester) (a size : Nat) (p : PageRef) (d : RegDef) (base v : Nat)
    (h : readable s r a size = true) (hp : pageOf s a = some p) (hd : regAt p.blk (raOff a) = some (d, base))
    (hb : 0x010 ≤ base) (hb' : base < 0x40) (hv : rdKey s (regKey p.blk p.idx base) = v) :
    let t := (access ⟨r, a, size, none⟩).run s
    t.out = .regValue r a v :: s.out ∧ rdKey t (regKey p.blk p.idx base) = v - (v &&& rcMask d) ∧
      regsKept s t [regKey p.blk p.idx base] ∧ memKept s t := by
  intro t
  have ht : t = _ := access_read_header s r a size p d base v h hp hd hb hb' hv
  by_cases hc : v &&& rcMask d = 0
  · simp only [hc, bne_self_eq_false, run_onlyIf_false, Act.run_done] at ht
    rw [ht, hc]
    exact ⟨rfl, hv, fun _ _ => rfl, fun _ => rfl, fun _ => rfl, fun _ => rfl⟩
  · simp only [bne_iff_ne.2 hc, run_onlyIf_true] at ht
    have hlt : v - (v &&& rcMask d) < 2 ^ 64 := (Nat.sub_le _ _).trans_lt (hv ▸ rdKey_lt s _)
    refine ⟨by rw [ht]; rfl, ?_, fun k hk => ?_, by rw [ht]; exact ⟨fun _ => rfl, fun _ => rfl, fun _ => rfl⟩⟩
    · rw [ht, rdKey_emit, run_setKey, rdKey_reg, if_pos rfl, Nat.mod_eq_of_lt hlt]
    · rw [ht, rdKey_emit, run_setKey, rdKey_reg, if_neg (by simpa using hk)]

/-- ERR_CODE_READ of an ERR_CODE is a read of it. -/
theorem exec_errCodeRead (s : State) (r : Requester) (a : Nat) (ha : raOff a = 0x010) :
    exec (.errCodeRead r a) s = .next ((access ⟨r, a, 4, none⟩).run s) := by
  have hexec : exec (.errCodeRead r a) s = execErrCodeRead r a s := rfl
  simp [hexec, execErrCodeRead, ha]

/-! ### Counting a rejection -/

/-- Recording a code leaves the count, which then advances by one and stays at its greatest value (R33). -/
theorem recordReject_errCnt (s : State) (p : PageRef) (off : Nat) (e : ErrCode) :
    fv ((recordReject p off e).run s) (hdrErrCnt p.blk) p.idx = min (2 ^ 32 - 1) (fv s (hdrErrCnt p.blk) p.idx + 1) := by
  have hcode : fldKey (hdrErrCnt p.blk) p.idx 0 ≠ regKey p.blk p.idx 0x010 := by
    unfold fldKey regKey hdrErrCnt; simp
  have hpend : fldKey (hdrErrCnt p.blk) p.idx 0 ≠ fldKey (hdrEvtPend p.blk) p.idx 0 := by
    unfold fldKey regKey hdrErrCnt hdrEvtPend; simp
  have hevent : ∀ u, fv ((raiseEvt p evReject).run u) (hdrErrCnt p.blk) p.idx = fv u (hdrErrCnt p.blk) p.idx :=
    keeps_raiseEvt p evReject (hdrErrCnt p.blk) p.idx 0 hpend (regKey_header_ne_lostKey p 0x014 (by omega))
  unfold recordReject
  simp only [run_acts_cons, run_acts_nil]
  rw [hevent, fv_incF_self _ _ _ _ _ (by simp [Fld.ok, hdrErrCnt]), run_look]
  refine congrArg (satAdd 32 · 1) ?_
  split
  · simp only [run_acts_cons, run_acts_nil]
    rw [fv_setF_other _ (hdrErrOffset p.blk) _ _ _ 0 _ _ (by simp [hdrErrOffset]) (Or.inl hcode),
      fv_setF_other _ (hdrErrCode p.blk) _ _ _ 0 _ _ (by simp [hdrErrCode]) (Or.inl hcode)]
  · exact fv_setF_other _ (hdrErrMulti p.blk) _ _ _ 0 _ _ (by simp [hdrErrMulti]) (Or.inl hcode)

/-! ### Clearing events -/

/-- The bits of EVT_PEND that a block's events have (R34). -/
def evtBits (b : Blk) : Nat := 0xF + (2 ^ evtCount b - 1) * 2 ^ 16

theorem definedMask_evtPend (b : Blk) (d : RegDef) : definedMask b d 0x018 = evtBits b := rfl

theorem evtBits_and_w1c (b : Blk) : evtBits b &&& 0xFFFF000F = evtBits b := by cases b <;> rfl

theorem evtBits_lt (b : Blk) : evtBits b < 2 ^ 32 := by cases b <;> decide

/-- A write of EVT_PEND that names only events the block has clears the bits written 1. -/
theorem storedValue_evtPend (b : Blk) (d : RegDef) (old v : Nat) (hrw : storeMask d .rw = 0)
    (hw1c : storeMask d .w1c = 0xFFFF000F) (hv : v = v &&& evtBits b) : storedValue d old v = old - (old &&& v) := by
  have hall : v &&& 0xFFFF000F = v := by
    rw [hv, Nat.and_assoc, evtBits_and_w1c]
  simp [storedValue, hrw, hw1c, Nat.and_assoc, hall]

/-- Forwarding an event changes no register but the count of lost events. -/
theorem rdKey_withForward (s : State) (p : PageRef) (a : Act) (k : Nat) (hk : k ≠ lostKey) :
    rdKey ((withForward p a).run s) k = rdKey (a.run s) k := by
  simp only [withForward, run_look, run_acts_cons, run_acts_nil, run_onlyIf]
  split
  · exact (sendEvent_only p).rdKey _ k hk
  · rfl

/-- Events of a page leave the page an address names. -/
theorem pageOf_raiseEvt (s : State) (p : PageRef) (m a : Nat) : pageOf ((raiseEvt p m).run s) a = pageOf s a := by
  obtain ⟨hbuild, -, -, -, -, -, -, -, -, -, -, hunits, -⟩ := (raiseEvt_only p m).rest s
  simp only [pageOf, pageAt, physOf, hbuild, hunits]

/-- What an accepted write names is defined. -/
theorem accepted_defined (s : State) (r : Requester) (a size v : Nat) (p : PageRef) (d : RegDef) (base : Nat)
    (h : accepted s r a size v = true) (hp : pageOf s a = some p) (hd : regAt p.blk (raOff a) = some (d, base)) :
    v % 2 ^ (8 * size) = v % 2 ^ (8 * size) &&& definedMask p.blk d base := by
  have hplain : plainErrs s p d base (v % 2 ^ (8 * size)) = [] := by
    simp only [accepted, hp, hd, Bool.and_eq_true, List.isEmpty_iff] at h
    exact h.2.2
  by_contra hne
  simp [plainErrs, when, hne] at hplain

/-- The checks of a write of a header's register read no memory. -/
theorem run_hookTouch_header (s : State) (p : PageRef) (base v : Nat) (hb : base < 0x40) :
    (hookTouch p base v).run s = s := by
  have hne : ∀ n, 0x40 ≤ n → (base == n) = false := fun n hn => beq_eq_false_iff_ne.2 (by omega)
  unfold hookTouch
  split <;> simp [hne]

/-- An accepted write of a header's register from ERR_CODE on stores its value, and sets nothing else going. -/
theorem run_writeEffect_header (s : State) (p : PageRef) (d : RegDef) (base v : Nat) (hb : 0x010 ≤ base) (hb' : base < 0x40) :
    (writeEffect p d base v).run s =
      (withForward p (look fun u =>
        setKey (regKey p.blk p.idx base) (storedValue d (rdKey u (regKey p.blk p.idx base)) v))).run s := by
  have hctl : base ≠ 0x008 := by omega
  have hline : base ≠ 0x0AC := by omega
  have htable : ¬ 0x100 ≤ base := by omega
  simp only [writeEffect, asksReset, storeReg, hookApply, pageKey_header p base hb', run_look, run_acts_cons, run_acts_nil,
    beq_eq_false_iff_ne.2 hctl, hline, htable, hb', and_false, Bool.false_and, Bool.false_eq_true, if_false, if_true, Act.run_done]

/-- An accepted write of EVT_PEND takes the bits written 1 from what the register holds. -/
theorem rdKey_access_evtPend (s : State) (r : Requester) (a v : Nat) (p : PageRef) (hv : v < 2 ^ 32)
    (h : accepted s r a 4 v = true) (hp : pageOf s a = some p) (ha : raOff a = 0x018) :
    let k := regKey p.blk p.idx 0x018
    rdKey ((access ⟨r, a, 4, some v⟩).run s) k = rdKey s k - (rdKey s k &&& v) := by
  intro k
  obtain ⟨d, hreg, hrw, hw1c⟩ := regAt_evtPend p.blk
  have hd : regAt p.blk (raOff a) = some (d, 0x018) := by rw [ha, hreg]
  have hmod : v % 2 ^ (8 * 4) = v := Nat.mod_eq_of_lt hv
  have hdef := accepted_defined s r a 4 v p d 0x018 h hp hd
  rw [hmod, definedMask_evtPend] at hdef
  have hlt : rdKey s k - (rdKey s k &&& v) < 2 ^ 64 := (Nat.sub_le _ _).trans_lt (rdKey_lt s _)
  rw [access_accepted_at s r a 4 v p d 0x018 h hp hd, hmod, run_hookTouch_header s p _ v (by omega), rdKey_emit,
    run_writeEffect_header s p d _ v (by omega) (by omega),
    rdKey_withForward _ _ _ _ (regKey_header_ne_lostKey p _ (by omega)), run_look, run_setKey, rdKey_reg, if_pos rfl,
    storedValue_evtPend p.blk d _ v hrw hw1c hdef, Nat.mod_eq_of_lt hlt]

/-- What was pending and is not written 1 stays pending, and nothing else is. -/
theorem testBit_access_evtPend (s : State) (r : Requester) (a v : Nat) (p : PageRef) (hv : v < 2 ^ 32)
    (h : accepted s r a 4 v = true) (hp : pageOf s a = some p) (ha : raOff a = 0x018) (i : Nat) :
    (fv ((access ⟨r, a, 4, some v⟩).run s) (hdrEvtPend p.blk) p.idx).testBit i =
      ((fv s (hdrEvtPend p.blk) p.idx).testBit i && !v.testBit i) := by
  have hf : ∀ u, fv u (hdrEvtPend p.blk) p.idx = bits (rdKey u (regKey p.blk p.idx 0x018)) 31 0 := fun _ => rfl
  simp [hf, rdKey_access_evtPend s r a v p hv h hp ha, testBit_bits, testBit_sub_and, Bool.and_assoc]

/-- EVT_PEND_CLEAR: the events that recur are raised, and the other bits written 1 are cleared (R48). -/
theorem exec_evtPendClear (s : State) (r : Requester) (a v recur : Nat) (p : PageRef) (hp : pageOf s a = some p)
    (ha : raOff a = 0x018) :
    let m := recur &&& evtBits p.blk
    exec (.evtPendClear r a v recur) s =
      .next ((access ⟨r, a, 4, some (v - (v &&& m))⟩).run ((raiseEvt p m).run s)) := by
  have hexec : exec (.evtPendClear r a v recur) s = execEvtPendClear r a v recur s := rfl
  simp [hexec, execEvtPendClear, hp, ha, evtBits]

/-- Of what recurs or was pending, all but what is written 1 and does not recur is pending. -/
theorem evtPendClear_pend (s : State) (r : Requester) (a v m : Nat) (p : PageRef) (hp : pageOf s a = some p)
    (ha : raOff a = 0x018) (hv : v < 2 ^ 32) (hm : m < 2 ^ 32)
    (h : accepted ((raiseEvt p m).run s) r a 4 (v - (v &&& m)) = true) (i : Nat) :
    (fv ((access ⟨r, a, 4, some (v - (v &&& m))⟩).run ((raiseEvt p m).run s)) (hdrEvtPend p.blk) p.idx).testBit i =
      (m.testBit i || ((fv s (hdrEvtPend p.blk) p.idx).testBit i && !v.testBit i)) := by
  rw [testBit_access_evtPend _ r a _ p ((Nat.sub_le _ _).trans_lt hv) h ((pageOf_raiseEvt s p m a).trans hp) ha i,
    raiseEvt_pend p m s hm, Nat.testBit_or, testBit_sub_and]
  cases m.testBit i <;> simp

/-! ### The statement -/

/-- Settles O9. A read clears the fields its register's RC mask covers; a rejection advances the count; and an event that
recurs is raised before the write, which then does not name it. -/
theorem headerRecordsClear : Obligations.HeaderRecordsClear := by
  unfold Obligations.HeaderRecordsClear
  refine ⟨fun s r a p h hp ha => ?_, recordReject_errCnt, fun s r a p h hp ha => ?_, fun s r a v recur p hp ha hv h => ?_⟩
  · obtain ⟨d, hd, hmask⟩ := regAt_errCode p.blk
    obtain ⟨hout, hrd, hregs, hmem⟩ :=
      access_read_header_clears s r a 4 p d 0x010 _ h hp (by rw [ha, hd]) (by omega) (by omega) rfl
    rw [hmask] at hrd
    have hclear : ∀ f : Fld, fldKey f p.idx 0 = regKey p.blk p.idx 0x010 → f.lo + (f.hi + 1 - f.lo) ≤ 21 →
        fv ((access ⟨r, a, 4, none⟩).run s) f p.idx = 0 := fun f hf hlt => by
      rw [fv, hf, hrd, bits_sub_and_low _ _ _ _ hlt]
    exact ⟨_, exec_errCodeRead s r a ha, hout, hclear _ rfl (by simp [hdrErrCode]), hclear _ rfl (by simp [hdrErrOffset]),
      hclear _ rfl (by simp [hdrErrMulti]), hregs, hmem⟩
  · obtain ⟨d, hd, hmask⟩ := regAt_errCnt p.blk
    obtain ⟨hout, hrd, hregs, hmem⟩ :=
      access_read_header_clears s r a 4 p d 0x014 _ h hp (by rw [ha, hd]) (by omega) (by omega) rfl
    rw [hmask] at hrd
    refine ⟨_, rfl, hout, ?_, hregs, hmem⟩
    rw [fv, show fldKey (hdrErrCnt p.blk) p.idx 0 = regKey p.blk p.idx 0x014 from rfl, hrd,
      bits_sub_and_low _ _ _ _ (by simp [hdrErrCnt])]
  · exact ⟨_, exec_evtPendClear s r a v recur p hp ha, fun i _ => evtPendClear_pend s r a v _ p hp ha hv
      (Nat.and_lt_two_pow _ (evtBits_lt p.blk)) h i⟩

end Sys2Proof.Machine
end

section
/-! PROOF. Verified fetches (R293 to R296): what memory writes, messages and completion targets leave of an Update Engine,
how a fetch starts, ends and goes from chunk to chunk, and what a VERIFIED note writes. -/

namespace Sys2Proof.Machine

/-! ### Programs by parts -/

theorem only_cons {P : Upd → Prop} {a : Act} {l : List Act} (ha : a.Only P) (hl : (acts l).Only P) : (acts (a :: l)).Only P :=
  Act.only_seq P a _ ha hl

theorem only_nil {P : Upd → Prop} : (acts []).Only P := trivial

theorem only_pair {P : Upd → Prop} {a b : Act} (ha : a.Only P) (hb : b.Only P) : (acts [a, b]).Only P :=
  only_cons ha (only_cons hb only_nil)

theorem only_ite {P : Upd → Prop} {c : Prop} [Decidable c] {a b : Act} (ha : a.Only P) (hb : b.Only P) :
    (if c then a else b).Only P := by
  split
  · exact ha
  · exact hb

/-! ### Updates that spare the Update Engines -/

/-- An update that leaves the hidden state of every Update Engine, and every UPDT page beyond its header. -/
def Upd.sparesUe : Upd → Prop
  | .reg k _ => k / 4096 / 256 ≠ blkNum .updt ∨ k % 4096 < 0x40
  | .ue _ _ | .restart => False
  | _ => True

/-- An update that marks storage: its check bits, its written bits, a page's header, and the event of the mark. -/
def Upd.marking : Upd → Prop
  | .reg k _ => k % 4096 < 0x40 ∨ k = lostKey
  | .syn _ _ | .synClear _ _ | .written _ _ | .events _ _ | .emit _ => True
  | _ => False

/-- An update that sending a message can make: the state of a link or of the tile it came from, a LINK page's registers,
an event, what leaves the device. -/
def Upd.fabric : Upd → Prop
  | .reg k _ => k / 4096 / 256 = blkNum .link ∨ k = lostKey
  | .link _ _ | .tile _ _ | .events _ _ | .emit _ => True
  | _ => False

theorem lostKey_block : lostKey / 4096 / 256 = blkNum .slqp := by decide

theorem Upd.marking.sparesUe {u : Upd} (h : u.marking) : u.sparesUe := by
  cases u with
  | reg k v =>
    rcases h with h | rfl
    · exact Or.inr h
    · exact Or.inl (by rw [lostKey_block]; decide)
  | _ => trivial

theorem Upd.fabric.sparesUe {u : Upd} (h : u.fabric) : u.sparesUe := by
  cases u with
  | reg k v =>
    rcases h with h | rfl
    · exact Or.inl (by rw [h]; decide)
    · exact Or.inl (by rw [lostKey_block]; decide)
  | _ => trivial

theorem Act.Only.sparesUe_ues {a : Act} (ha : a.Only Upd.sparesUe) (s : State) : (a.run s).ues = s.ues := by
  refine ha.run_keeps (fun t => t.ues = s.ues) (fun u t hu ht => ?_) s rfl
  cases u <;> first | exact ht | exact hu.elim

theorem Act.Only.marking_mem {a : Act} (ha : a.Only Upd.marking) (s : State) : (a.run s).mem = s.mem := by
  refine ha.run_keeps (fun t => t.mem = s.mem) (fun u t hu ht => ?_) s rfl
  cases u <;> first | exact ht | exact hu.elim

theorem Act.Only.fabric_mem {a : Act} (ha : a.Only Upd.fabric) (s : State) : (a.run s).mem = s.mem := by
  refine ha.run_keeps (fun t => t.mem = s.mem) (fun u t hu ht => ?_) s rfl
  cases u <;> first | exact ht | exact hu.elim

/-- A register that no update of a program names reads as before. -/
theorem Act.Only.rdKey_of_ne {P : Upd → Prop} {a : Act} (ha : a.Only P) (hr : ¬ P .restart) (s : State) (k : Nat)
    (h : ∀ v, ¬ P (.reg k v)) : Machine.rdKey (a.run s) k = Machine.rdKey s k := by
  refine ha.run_keeps (fun t => Machine.rdKey t k = Machine.rdKey s k) (fun u t hu ht => ?_) s rfl
  cases u with
  | reg j v =>
    have hne : k ≠ j := by rintro rfl; exact h v hu
    simp only [Machine.rdKey, Upd.reg_fields, mapGet_mapSet, if_neg hne]
    exact ht
  | restart => exact absurd hu hr
  | _ => exact ht

/-- The block and the offset of a field's register. -/
theorem fldKey_parts (f : Fld) (i n : Nat) (hi : i < 256) (ho : f.off + n * f.stride < 4096) :
    fldKey f i n / 4096 / 256 = blkNum f.blk ∧ fldKey f i n % 4096 = f.off + n * f.stride := by
  unfold fldKey regKey
  omega

/-- A counter of an Update Engine reads as before. -/
theorem Act.Only.sparesUe_ucnt {a : Act} (ha : a.Only Upd.sparesUe) (s : State) (i n : Nat) (hi : i < 256) (hn : n < 64) :
    Machine.fv (a.run s) UPDT_UCNT i n = Machine.fv s UPDT_UCNT i n := by
  obtain ⟨hb, ho⟩ := fldKey_parts UPDT_UCNT i n hi (by simp only [UPDT_UCNT]; omega)
  unfold Machine.fv
  rw [ha.rdKey_of_ne id s _ fun v h => h.elim (· hb) fun h => by rw [ho] at h; simp only [UPDT_UCNT] at h; omega]

/-- A field of a UPDT page reads as before once a message is sent. -/
theorem Act.Only.fabric_updt {a : Act} (ha : a.Only Upd.fabric) (s : State) (f : Fld) (i n : Nat) (hf : f.blk = .updt)
    (hi : i < 256) (ho : f.off + n * f.stride < 4096) : Machine.fv (a.run s) f i n = Machine.fv s f i n := by
  obtain ⟨hb, -⟩ := fldKey_parts f i n hi ho
  rw [hf] at hb
  unfold Machine.fv
  rw [ha.rdKey_of_ne id s _ fun v h => h.elim (fun h => absurd (hb.symm.trans h) (by decide))
    fun h => absurd (hb.symm.trans (h ▸ lostKey_block)) (by decide)]

/-! ### Registers and events -/

/-- A register of a block other than UPDT, or of a header. -/
theorem setF_sparesUe (f : Fld) (v i n : Nat) (ho : f.off + n * f.stride < 4096)
    (h : (blkNum f.blk ≠ blkNum .updt ∧ i < 256) ∨ f.off + n * f.stride < 0x40) : (setF f v i n).Only Upd.sparesUe := by
  refine fun _ => ⟨?_, trivial⟩
  rcases h with ⟨h, hi⟩ | h
  · exact Or.inl ((fldKey_parts f i n hi ho).1 ▸ h)
  · refine Or.inr ?_
    unfold fldKey regKey
    omega

theorem raiseEvt_marking (p : PageRef) (m : Nat) : (raiseEvt p m).Only Upd.marking := by
  refine (raiseEvt_only p m).mono fun u hu => ?_
  cases u with
  | reg k v =>
    rcases hu with rfl | rfl
    · refine Or.inl ?_
      unfold fldKey regKey hdrEvtPend
      simp only
      omega
    · exact Or.inr rfl
  | _ => trivial

theorem raiseEvt_sparesUe (p : PageRef) (m : Nat) : (raiseEvt p m).Only Upd.sparesUe :=
  (raiseEvt_marking p m).mono fun _ => Upd.marking.sparesUe

/-! ### Sending -/

theorem nLinks_lt (b : Build) : nLinks b < 256 := by cases b <;> decide

theorem raiseLinks_fabric (m : Nat) : (raiseLinks m).Only Upd.fabric := by
  refine fun s => only_each _ _ _ fun l hl => (raiseEvt_only ⟨.link, l⟩ m).mono fun u hu => ?_
  have hlt : l < 256 := (List.mem_range.1 hl).trans (nLinks_lt _)
  cases u with
  | reg k v =>
    rcases hu with rfl | rfl
    · exact Or.inl (fldKey_parts (hdrEvtPend .link) l 0 hlt (by simp [hdrEvtPend])).1
    · exact Or.inr rfl
  | _ => trivial

theorem noRoute_fabric : noRoute.Only Upd.fabric :=
  only_pair (fun _ _ => ⟨Or.inl (by decide), trivial⟩) (raiseLinks_fabric _)

theorem pump_fabric (l n : Nat) : (pump l n).Only Upd.fabric := by
  induction n with
  | zero => trivial
  | succ n ih =>
    intro s
    dsimp only
    split
    · trivial
    · exact only_cons (fun _ => ⟨trivial, trivial⟩) (only_pair (only_onlyIf _ _ _ fun _ => ⟨trivial, trivial⟩) ih)

theorem enqueue_fabric (l : Nat) (m : FabMsg) : (enqueue l m).Only Upd.fabric :=
  only_pair (fun _ => ⟨trivial, trivial⟩) fun _ => pump_fabric l _

theorem opRefused_fabric (o : Origin) (code : Nat) : (opRefused o code).Only Upd.fabric := by
  unfold opRefused
  split
  · exact fun _ => ⟨trivial, trivial⟩
  · trivial

theorem refuseMsg_fabric (m : FabMsg) (code : Nat) : (refuseMsg m code).Only Upd.fabric := by
  intro s
  dsimp only
  split
  · trivial
  · refine only_ite (opRefused_fabric _ _) ?_
    split
    · exact noRoute_fabric
    · exact enqueue_fabric _ _

theorem forwardMsg_fabric (m : FabMsg) (via : Option Nat) : (forwardMsg m via).Only Upd.fabric := by
  have refused : (acts [noRoute, refuseMsg m cNoRoute]).Only Upd.fabric := only_pair noRoute_fabric (refuseMsg_fabric _ _)
  intro s
  dsimp only
  split
  · exact refused
  · exact only_ite refused (enqueue_fabric _ _)

theorem sendMsg_fabric (dst : Nat) (o : Origin) (b : FabBody) : (sendMsg dst o b).Only Upd.fabric :=
  fun _ => forwardMsg_fabric _ _

theorem sendRead_fabric (dst : Nat) (o : Origin) (a n : Nat) : (sendRead dst o a n).Only Upd.fabric :=
  only_each _ _ _ fun _ _ => sendMsg_fabric _ _ _

theorem askDigest_fabric (n : Nat) (f : Fetch) : (askDigest n f).Only Upd.fabric :=
  fun _ => only_onlyIf _ _ _ fun _ => sendRead_fabric _ _ _ _

theorem askChunk_fabric (n : Nat) (f : Fetch) : (askChunk n f).Only Upd.fabric :=
  fun _ => only_onlyIf _ _ _ fun _ => sendRead_fabric _ _ _ _

theorem sendMsg_sparesUe (dst : Nat) (o : Origin) (b : FabBody) : (sendMsg dst o b).Only Upd.sparesUe :=
  (sendMsg_fabric dst o b).mono fun _ => Upd.fabric.sparesUe

theorem sendTarget0_sparesUe (src t : Nat) : (sendTarget0 src t).Only Upd.sparesUe := by
  have counted : (incF PRES_READY_CNT (tgtIncr t)).Only Upd.sparesUe := fun _ =>
    setF_sparesUe _ _ _ _ (by decide) (Or.inl ⟨by decide, by decide⟩)
  have checked : checkOwn.Only Upd.sparesUe := fun _ => only_onlyIf _ _ _ fun _ _ => ⟨trivial, trivial⟩
  have ready : readySend.Only Upd.sparesUe := fun _ =>
    only_ite (only_pair (fun _ => ⟨trivial, trivial⟩) (sendMsg_sparesUe _ _ _)) trivial
  exact only_onlyIf _ _ _ fun _ _ => only_ite (only_cons counted (only_pair checked ready))
    (only_ite ⟨trivial, trivial⟩ (only_ite (sendMsg_sparesUe _ _ _) trivial))

/-! ### Writing memory -/

theorem noteMark_marking (u : MemUnit) : (noteMark u).Only Upd.marking := by
  unfold noteMark
  split
  · refine fun _ => only_onlyIf _ _ _ fun _ => only_pair (fun _ => ⟨Or.inl ?_, trivial⟩) (raiseEvt_marking _ _)
    unfold fldKey regKey hdrPoisoned
    simp only
    omega
  · trivial

theorem writeSyn_marking (u : MemUnit) (off : Nat) (ms : List Bool) : (writeSyn u off ms).Only Upd.marking := by
  unfold writeSyn
  dsimp only
  split
  · exact only_pair ⟨trivial, trivial⟩ (only_each _ _ _ fun _ _ => ⟨trivial, trivial⟩)
  · refine only_each _ _ _ fun _ _ => ?_
    split
    · exact ⟨trivial, trivial⟩
    · split
      · exact ⟨trivial, trivial⟩
      · trivial

theorem logEntry_sparesUe (i kind mem addr syn : Nat) (hi : i < 256) : (logEntry i kind mem addr syn).Only Upd.sparesUe := by
  have inLog : ∀ k, k < 32 → INTG_LOG.off + k * INTG_LOG.stride < 4096 := fun k hk => by simp only [INTG_LOG]; omega
  exact fun _ => only_cons (setF_sparesUe _ _ _ _ (inLog _ (by omega)) (Or.inl ⟨by decide, hi⟩))
    (only_pair (setF_sparesUe _ _ _ _ (inLog _ (by omega)) (Or.inl ⟨by decide, hi⟩))
      (setF_sparesUe _ _ _ _ (by decide) (Or.inl ⟨by decide, hi⟩)))

/-- Only a memory of the device has a fault armed. -/
theorem muIntg_lt_of_flipArmed (s : State) (u : MemUnit) (h : flipArmed s u = true) : muIntg u < 256 := by
  have hreal : muReal u = true := by
    unfold flipArmed at h
    simp only [Bool.and_eq_true] at h
    exact h.1.1
  refine muIntg_lt u ?_
  cases u <;> simpa [muReal, MemUnit.ok] using hreal

theorem applyFlip_sparesUe (u : MemUnit) (off : Nat) (hi : muIntg u < 256) : (applyFlip u off).Only Upd.sparesUe := by
  refine fun _ => only_cons ?_ (only_cons (setF_sparesUe _ _ _ _ (by decide) (Or.inl ⟨by decide, hi⟩))
    (only_pair (logEntry_sparesUe _ _ _ _ _ hi) (raiseEvt_sparesUe _ _)))
  split <;> exact only_pair ⟨trivial, trivial⟩ ⟨trivial, trivial⟩

/-- The written bits that a write of `n` bytes sets (R96, R306). -/
def writtenBits (s : State) (u : MemUnit) (off n : Nat) : Act :=
  let g := initUnit u
  onlyIf (hasModes u) (
    each ((List.range (ceilDiv (off % g + n) g)).map fun i => off / g * g + i * g) fun b =>
      if writeFirst s u b then
        each ((List.range g).filter fun i => decide (off ≤ b + i) && decide (b + i < off + n) && (muBytewise u || i % 8 == 0))
          fun i => upd (.written (muBase u + b + i) [true])
      else upd (.written (blockKey u b) [true]))

/-- What a write leaves beside its bytes: check bits, written bits, and the sign of a mark (R306, R331). -/
def writeMarks (s : State) (u : MemUnit) (off n : Nat) (ms : List Bool) : Act := acts [
  if s.syn.isEmpty && !ms.contains true then .done else writeSyn u off ms,
  writtenBits s u off n,
  onlyIf (ms.contains true) (noteMark u)]

/-- A write of memory: the bytes, the marks beside them, and an armed fault. -/
theorem run_memWrite (s : State) (u : MemUnit) (off : Nat) (bs : List Byte) (ms : List Bool) :
    (memWrite u off bs ms).run s = if bs.isEmpty then s else
      (onlyIf (flipArmed s u && !ms.headD false) (applyFlip u off)).run
        ((writeMarks s u off bs.length ms).run ((Upd.mem (muBase u + off) bs).apply s)) := by
  unfold memWrite
  split
  · rfl
  · simp only [run_look, run_acts_cons, run_acts_nil, writeMarks]
    rfl

theorem writtenBits_only {P : Upd → Prop} (hP : ∀ k l, P (.written k l)) (s : State) (u : MemUnit) (off n : Nat) :
    (writtenBits s u off n).Only P :=
  only_onlyIf _ _ _ fun _ => only_each _ _ _ fun _ _ =>
    only_ite (only_each _ _ _ fun _ _ => ⟨hP _ _, trivial⟩) ⟨hP _ _, trivial⟩

theorem writeMarks_marking (s : State) (u : MemUnit) (off n : Nat) (ms : List Bool) :
    (writeMarks s u off n ms).Only Upd.marking :=
  only_cons (only_ite trivial (writeSyn_marking u off ms)) (only_pair (writtenBits_only (fun _ _ => trivial) s u off n)
    (only_onlyIf _ _ _ fun _ => noteMark_marking u))

theorem memWrite_sparesUe (u : MemUnit) (off : Nat) (bs : List Byte) (ms : List Bool) :
    (memWrite u off bs ms).Only Upd.sparesUe := by
  have spared : ∀ {a : Act}, a.Only Upd.marking → a.Only Upd.sparesUe := fun h => h.mono fun _ => Upd.marking.sparesUe
  refine only_ite trivial fun s => only_cons ⟨trivial, trivial⟩
    (only_cons (only_ite trivial (spared (writeSyn_marking u off ms)))
      (only_cons (writtenBits_only (fun _ _ => trivial) s u off bs.length)
        (only_pair (only_onlyIf _ _ _ fun _ => spared (noteMark_marking u)) (only_onlyIf _ _ _ fun h => ?_))))
  exact applyFlip_sparesUe u off (muIntg_lt_of_flipArmed s u (Bool.and_eq_true_iff.1 h).1)

theorem writeLocal_sparesUe (a : Nat) (bs : List (Byte × Bool)) : (writeLocal a bs).Only Upd.sparesUe := by
  intro s
  dsimp only
  split
  · exact memWrite_sparesUe _ _ _ _
  · trivial

/-- With no fault armed, a write changes no byte of memory but those written. -/
theorem memWrite_mem (s : State) (u : MemUnit) (off : Nat) (bs : List Byte) (ms : List Bool) (hflip : flipArmed s u = false) :
    ((memWrite u off bs ms).run s).mem = memAfter s.mem [⟨u, off, bs, []⟩] := by
  rw [run_memWrite, hflip]
  simp only [memAfter, List.foldl_cons, List.foldl_nil]
  by_cases hbs : bs.isEmpty = true
  · rw [if_pos hbs, if_pos hbs]
  · rw [if_neg hbs, if_neg hbs, Bool.false_and, run_onlyIf_false, Act.run_done,
      (writeMarks_marking s u off bs.length ms).marking_mem]
    rfl

theorem writeLocal_mem (s : State) (a : Nat) (bs : List (Byte × Bool)) (u : MemUnit) (off : Nat)
    (hplace : placeOf s a = .mem u off) (hflip : flipArmed s u = false) :
    ((writeLocal a bs).run s).mem = memAfter s.mem [⟨u, off, bs.map Prod.fst, []⟩] := by
  simp only [writeLocal, run_look, hplace]
  exact memWrite_mem s u off _ _ hflip

/-! ### HBM with nothing to correct -/

theorem leNat_leBytes (n v : Nat) : leNat (leBytes n v) = v % 256 ^ n := by
  induction n generalizing v with
  | zero => simp [leBytes, leNat, Nat.mod_one]
  | succ n ih =>
    have hcons : leNat (leBytes (n + 1) v) = v % 256 + 256 * leNat (leBytes n (v / 256)) := by simp [leBytes, leNat]
    rw [hcons, ih, Nat.pow_succ', Nat.mod_mul]

/-- An address in HBM is its site's base and its offset in the stack. -/
theorem muBase_hbmOff (a : Nat) : muBase (.hbm (a / 2 ^ 36)) + hbmOff a = a := Nat.div_add_mod' a _

/-- Where no check bits are set, HBM delivers what it holds. -/
theorem hbmBytesAt_of_syn_nil (s : State) (a n : Nat) (hsyn : s.syn = []) :
    hbmBytesAt s a n = mapRead memDefault s.mem a n := by
  refine List.map_congr_left fun i _ => ?_
  have hclean : ∀ k, synAt s k = 0 := fun k => by rw [synAt, hsyn]; rfl
  simp only [deliverByte, muBytewise, Bool.false_eq_true, if_false, hclean, if_true, rawByte, ← Nat.add_assoc, muBase_hbmOff]

/-- Bytes within a run just written read as written. -/
theorem mapRead_mapPut_self {α : Type} [DecidableEq α] (d : Nat → α) (m : SMap α) (k o n : Nat) (vs : List α)
    (h : o + n ≤ vs.length) : mapRead d (mapPut d m k vs) (k + o) n = (vs.drop o).take n := by
  refine List.ext_getElem (by simp [mapRead]; omega) fun i hi _ => ?_
  have hin : i < n := by simpa [mapRead] using hi
  have hlt : o + i < vs.length := by omega
  have hat : k + o + i - k = o + i := by omega
  simp [mapRead, mapGet_mapPut, hat, hlt, show k ≤ k + o + i ∧ k + o + i < k + vs.length by omega]

/-- Bytes before a run just written read as before. -/
theorem mapRead_mapPut_before {α : Type} [DecidableEq α] (d : Nat → α) (m : SMap α) (k j n : Nat) (vs : List α)
    (h : j + n ≤ k) : mapRead d (mapPut d m k vs) j n = mapRead d m j n := by
  refine List.map_congr_left fun i hi => ?_
  have hin : i < n := List.mem_range.1 hi
  rw [mapGet_mapPut, if_neg (by omega)]

/-- Unmarked bytes put into calm HBM change those bytes of memory, and no check bits. -/
theorem hbmPut_calm (s : State) (a : Nat) (bs : List Byte) (hcalm : calm s) (hbs : bs.isEmpty = false) :
    ((hbmPut a bs).run s).mem = mapPut memDefault s.mem a bs ∧ ((hbmPut a bs).run s).syn = [] := by
  obtain ⟨hsyn, -, hflip⟩ := hcalm
  constructor
  · rw [hbmPut, memPut, memWrite_mem _ _ _ _ _ (hflip _)]
    simp only [memAfter, List.foldl_cons, List.foldl_nil, hbs, Bool.false_eq_true, if_false, muBase_hbmOff]
  · have keep : (writtenBits s (.hbm (a / 2 ^ 36)) (hbmOff a) bs.length).Keeps State.syn := fun t =>
      (writtenBits_only (P := fun u => ∃ k l, u = .written k l) (fun k l => ⟨k, l, rfl⟩) _ _ _ _).run_keeps
        (fun v => v.syn = t.syn) (by rintro _ v ⟨k, l, rfl⟩ hv; exact hv) t rfl
    have unmarked : (List.replicate bs.length false).contains true = false := by simp
    rw [hbmPut, memPut, run_memWrite, hbs, hflip, writeMarks, unmarked, hsyn]
    simp only [Bool.false_eq_true, if_false, Bool.false_and, run_onlyIf_false, Act.run_done, List.isEmpty_nil, Bool.not_false,
      Bool.and_self, if_true, run_acts_cons, run_acts_nil]
    exact (keep _).trans hsyn

/-! ### An Update Engine's state -/

theorem ueSt_congr (s t : State) (n : Nat) (h : t.ues = s.ues) : ueSt t n = ueSt s n := by
  unfold ueSt; rw [h]

theorem ueSt_emit (s : State) (m : OutMsg) (n : Nat) : ueSt ((Upd.emit m).apply s) n = ueSt s n := rfl

theorem Act.Only.sparesUe_ueSt {a : Act} (ha : a.Only Upd.sparesUe) (s : State) (n : Nat) : ueSt (a.run s) n = ueSt s n :=
  ueSt_congr _ _ _ (ha.sparesUe_ues s)

theorem ueSt_updUe (s : State) (n : Nat) (f : Ue → Ue) : ueSt ((updUe n f).run s) n = f (ueSt s n) :=
  mapGet_mapSet_self _ _ _ _

/-! ### Ends of fetches -/

theorem fetchReport_sparesUe (n : Nat) (f : Fetch) (o : Nat) : (fetchReport n f o).Only Upd.sparesUe :=
  fun _ => only_cons (only_onlyIf _ _ _ fun _ => writeLocal_sparesUe _ _)
    (only_pair (sendTarget0_sparesUe _ _) (only_onlyIf _ _ _ fun _ => raiseEvt_sparesUe _ _))

/-- A fetch that ends leaves the engine's fetches. -/
theorem fetches_fetchStop (s : State) (n i : Nat) (f : Fetch) (o : Nat) :
    (ueSt ((fetchStop n i f o).run s) n).fetches = (ueSt s n).fetches.eraseIdx i := by
  simp only [fetchStop, run_acts_cons, run_acts_nil]
  rw [(fetchReport_sparesUe _ _ _).sparesUe_ueSt, ueSt_updUe]

/-- CANCEL leaves the fetches that have a deadline, and those that have their digest. -/
theorem fetches_fetchCancelAll (s : State) (n : Nat) :
    (ueSt ((fetchCancelAll n).run s) n).fetches =
      (ueSt s n).fetches.filter fun f => f.deadline.isSome || f.digest.isSome := by
  have waits : ∀ f : Fetch, (!(f.deadline.isNone && f.digest.isNone)) = (f.deadline.isSome || f.digest.isSome) := fun f => by
    cases f.deadline <;> cases f.digest <;> rfl
  simp only [fetchCancelAll, run_look, run_acts_cons, run_acts_nil]
  rw [(only_each _ _ _ fun _ _ => fetchReport_sparesUe _ _ _ : Act.Only Upd.sparesUe _).sparesUe_ueSt, ueSt_updUe]
  simp only [waits]

/-! ### Commands by register -/

/-- An accepted write of a UPDT register beyond the header: the register takes a value, the write sets going what its
chapter says, and the requester is answered. -/
theorem run_writeUpdt (s : State) (r : Requester) (n off v : Nat) (d : RegDef) (hs : isHbmSite s.build n = true)
    (hlo : 0x40 ≤ off) (hhi : off < 4096) (hv : v < 2 ^ 32) (hd : regAt .updt off = some (d, off))
    (h : accepted s r (siteReg n 1 off) 4 v = true) :
    ∃ k x, (writeUpdt r n off v).run s =
      (Upd.emit (.regCode r (siteReg n 1 off) 0)).apply ((updtApply s n off v).run ((Upd.reg k x).apply s)) := by
  have hoff := raOff_siteReg n 1 off (isHbmSite_lt _ _ hs) (by omega) hhi
  have hacc := access_accepted_at s r (siteReg n 1 off) 4 v ⟨.updt, n⟩ d off h (pageOf_updtReg s n off hs hhi)
    (by rw [hoff, hd])
  have hwrite : (writeUpdt r n off v).run s = (access ⟨r, siteReg n 1 off, 4, some v⟩).run s := by
    simp only [writeUpdt, run_look, hs, run_onlyIf_true]
    rfl
  have hctl : (off == 0x008) = false := beq_eq_false_iff_ne.2 (by omega)
  have hmod : v % 2 ^ (8 * 4) = v := Nat.mod_eq_of_lt hv
  refine ⟨pageKey ⟨.updt, n⟩ off, .ofNat 64 (storedValue d (rdKey s (pageKey ⟨.updt, n⟩ off)) v),
    hwrite.trans (hacc.trans ?_)⟩
  simp only [hmod, hookTouch, Act.run_done, writeEffect, run_look, run_acts_cons, run_acts_nil, asksReset, hctl, Bool.false_and,
    Bool.false_eq_true, if_false, storeReg, hookApply, reduceCtorEq, false_and, Nat.not_lt.2 hlo, run_setKey]

/-- TYPE of a staged record is its first byte. -/
theorem recLE_stagedRec (s : State) (f : Fld) (i : Nat) : recLE (stagedRec s f i 16) 0 1 = stagedType s f i := by
  have hfirst : recLE (stagedRec s f i 16) 0 1 = (BitVec.ofNat 8 (fv s f i 0)).toNat := rfl
  rw [hfirst, BitVec.toNat_ofNat]
  simp [stagedType, bits]

/-- A FETCH record begins as a fetch of its first chunk, whose digest is still to be read (R293, R294). -/
def Fetch.begin (s : State) (x : List Byte) : Fetch :=
  ⟨x, feFirst x, none, 0, if recLE x 6 2 = 0 then none else some (instant (s.press.imp + recLE x 6 2) 0), 0, 0, 0, none, 1⟩

/-- A record of no chunks leaves the fetches; any other adds one. -/
theorem fetches_fetchStart (s : State) (n : Nat) (x : List Byte) :
    (ueSt ((fetchStart n x).run s) n).fetches =
      if feN x = 0 then (ueSt s n).fetches else (ueSt s n).fetches ++ [Fetch.begin s x] := by
  simp only [fetchStart, run_look]
  split
  · rw [(fetchReport_sparesUe _ _ _).sparesUe_ueSt]
  · simp only [run_acts_cons, run_acts_nil]
    rw [((askDigest_fabric _ _).mono fun _ => Upd.fabric.sparesUe).sparesUe_ueSt, ueSt_updUe]
    rfl

/-- FETCH by CMD_POST starts the staged record. -/
theorem fetch_posted (s : State) (r : Requester) (n : Nat) (hs : isHbmSite s.build n = true)
    (hty : stagedType s UPDT_CMD_W n = 1) (h : accepted s r (siteReg n 1 0x0B0) 4 1 = true) :
    let x := stagedRec s UPDT_CMD_W n 16
    ∃ t, exec (.fetch n (some r)) s = .next t ∧
      (ueSt t n).fetches = if feN x = 0 then (ueSt s n).fetches else (ueSt s n).fetches ++ [Fetch.begin s x] := by
  intro x
  obtain ⟨k, v, hrun⟩ := run_writeUpdt s r n 0x0B0 1 _ hs (by decide) (by decide) (by decide) rfl h
  have hready : (stagedType s UPDT_CMD_W n == 1) = true := beq_iff_eq.2 hty
  have hpost : updtApply s n 0x0B0 1 = ueRecord n x := rfl
  have hrec : ueRecord n x = fetchStart n x := if_pos ((recLE_stagedRec s UPDT_CMD_W n).trans hty)
  refine ⟨(writeUpdt r n 0x0B0 1).run s, ?_, ?_⟩
  · have hexec : exec (.fetch n (some r)) s = execFetch n (some r) s := rfl
    simp only [hexec, execFetch, ueCmd, recordCmd, run_look, hready, run_onlyIf_true]
  · rw [hrun, hpost, hrec, ueSt_emit, fetches_fetchStart]
    rfl

/-- FETCH_CANCEL ends the fetches that wait for a digest with no deadline. -/
theorem fetchCancel_accepted (s : State) (r : Requester) (n : Nat) (hs : isHbmSite s.build n = true)
    (h : accepted s r (siteReg n 1 0x064) 4 (3 * 2 ^ 12) = true) :
    ∃ t, exec (.fetchCancel r n) s = .next t ∧
      (ueSt t n).fetches = (ueSt s n).fetches.filter fun f => f.deadline.isSome || f.digest.isSome := by
  obtain ⟨k, v, hrun⟩ := run_writeUpdt s r n 0x064 (3 * 2 ^ 12) _ hs (by decide) (by decide) (by decide) rfl h
  have hcancel : updtApply s n 0x064 (3 * 2 ^ 12) = fetchCancelAll n := rfl
  refine ⟨(writeUpdt r n 0x064 (3 * 2 ^ 12)).run s, rfl, ?_⟩
  rw [hrun, hcancel, ueSt_emit, fetches_fetchCancelAll]
  rfl

/-- FETCH_TIMEOUT ends a fetch whose deadline is reached. -/
theorem fetchTimeout_reached (s : State) (n i d e : Nat) (f : Fetch) (hf : (ueSt s n).fetches[i]? = some f)
    (hd : f.deadline = some d) (h : reached ((timeTo e).run s) d = true) :
    ∃ t, exec (.fetchTimeout n i e) s = .next t ∧ (ueSt t n).fetches = (ueSt s n).fetches.eraseIdx i := by
  have hsame : ueSt ((timeTo e).run s) n = ueSt s n := rfl
  refine ⟨(acts [timeTo e, fetchTimeout n i]).run s, rfl, ?_⟩
  simp only [run_acts_cons, run_acts_nil, fetchTimeout, run_look, hsame, hf, hd, h, run_onlyIf_true]
  rw [fetches_fetchStop, hsame]

/-! ### Reads of another device -/

/-- The answer to a read of another device that a route reaches is what that device sent. -/
theorem run_withAnswer_remote (s : State) (a n : Nat) (ans : RemoteAns) (k : RemoteAns → Act) (haway : gaNode a ≠ nodeId s)
    (hroute : reachable s (gaNode a) = true) : (withAnswer a n ans k).run s = (k ans).run s := by
  simp [withAnswer, answerOf, haway, hroute, beq_eq_false_iff_ne.2 haway]

/-- A fetch that takes a state and reads on: the list of fetches, and that memory, the counters and the events of the
engine's page are as they were. -/
theorem setFetch_then_ask (s : State) (n i : Nat) (g : Fetch) {ask : Act} (hask : ask.Only Upd.fabric) :
    (ueSt (ask.run ((setFetch n i g).run s)) n).fetches = (ueSt s n).fetches.set i g ∧
      (ask.run ((setFetch n i g).run s)).mem = s.mem ∧
      ∀ (f : Fld) (k m : Nat), f.blk = .updt → k < 256 → f.off + m * f.stride < 4096 →
        fv (ask.run ((setFetch n i g).run s)) f k m = fv s f k m := by
  refine ⟨?_, ?_, fun f k m hf hk ho => ?_⟩
  · rw [(hask.mono fun _ => Upd.fabric.sparesUe).sparesUe_ueSt, setFetch, ueSt_updUe]
  · rw [hask.fabric_mem]
    rfl
  · rw [hask.fabric_updt _ f k m hf hk ho]
    rfl

/-- FETCH_DIGEST_POLL: a digest of the expected step lets the chunk be read. -/
theorem fetchDigestPoll_ready (s : State) (n i : Nat) (f : Fetch) (a : RemoteAns) (hf : (ueSt s n).fetches[i]? = some f)
    (hd : f.digest = none) (hheld : fetchHeld s f.rec_ = false) (haway : gaNode (feOwnerDig f.rec_ + 32 * f.chunk) ≠ nodeId s)
    (hroute : reachable s (gaNode (feOwnerDig f.rec_ + 32 * f.chunk)) = true) (hcode : a.code = 0)
    (hstep : recLE a.data 8 6 = feStep f.rec_) (hgood : bit (recLE a.data 14 2) 2 = false) :
    ∃ t, exec (.fetchDigestPoll n i a) s = .next t ∧
      (ueSt t n).fetches = (ueSt s n).fetches.set i { f with digest := some (recLE a.data 0 8) } := by
  refine ⟨(fetchDigest n i a).run s, rfl, ?_⟩
  simp only [fetchDigest, run_look, hf, hd, hheld, Option.isSome_none, Bool.or_self, Bool.false_eq_true, if_false]
  rw [run_withAnswer_remote s _ _ a _ haway hroute]
  simp only [hcode, ne_eq, not_true_eq_false, if_false, hstep, Nat.lt_irrefl, hgood, Bool.false_eq_true, run_acts_cons,
    run_acts_nil]
  exact (setFetch_then_ask s n i _ (askChunk_fabric _ _)).1

/-! ### Chunks that have been read -/

theorem verifiedNote_sparesUe (dig step node addr : Nat) : (verifiedNote dig step node addr).Only Upd.sparesUe := by
  unfold verifiedNote hbmPut memPut
  exact only_look _ _ fun _ => only_onlyIf _ _ _ fun _ => memWrite_sparesUe _ _ _ _

theorem tellOwner_sparesUe (f : Fetch) : (tellOwner f).Only Upd.sparesUe := by
  unfold tellOwner
  exact only_look _ _ fun _ => only_ite (verifiedNote_sparesUe _ _ _ _) (sendMsg_sparesUe _ _ _)

theorem fetchStore_sparesUe (f : Fetch) (a : RemoteAns) (poison : Bool) : (fetchStore f a poison).Only Upd.sparesUe := by
  unfold fetchStore
  exact only_look _ _ fun _ => only_onlyIf _ _ _ fun _ => writeLocal_sparesUe _ _

/-- A chunk is stored where its DST takes writes. -/
theorem run_fetchStore (s : State) (f : Fetch) (a : RemoteAns) (poison : Bool) :
    (fetchStore f a poison).run s = (onlyIf (!writeRefused s (feDst f.rec_ + f.chunk * 2 ^ 20) a.data.length)
      (writeLocal (feDst f.rec_ + f.chunk * 2 ^ 20)
        ((List.range a.data.length).map fun i => (a.data.getD i 0, poison || a.marks.getD i false)))).run s := by
  rw [fetchStore, run_look]

/-- A chunk stored at its DST puts its bytes there. -/
theorem fetchStore_mem (s : State) (f : Fetch) (a : RemoteAns) (poison : Bool) (u : MemUnit) (off : Nat)
    (hplace : placeOf s (feDst f.rec_ + f.chunk * 2 ^ 20) = .mem u off)
    (hok : writeRefused s (feDst f.rec_ + f.chunk * 2 ^ 20) a.data.length = false) (hflip : flipArmed s u = false) :
    ((fetchStore f a poison).run s).mem = memAfter s.mem [⟨u, off, a.data, []⟩] := by
  have hbytes : ((List.range a.data.length).map fun i => (a.data.getD i 0, poison || a.marks.getD i false)).map Prod.fst =
      a.data := by
    refine List.ext_getElem (by simp) fun i h _ => ?_
    have hi : i < a.data.length := by simpa using h
    simp [hi]
  rw [run_fetchStore, hok, Bool.not_false, run_onlyIf_true, writeLocal_mem s _ _ u off hplace hflip, hbytes]

/-- What follows the first two reads of a chunk, once its bytes are stored (R294, steps 2 and 3): on a digest that agrees
the chunk is verified, else it is read again, then from its owner. -/
def afterRead (n i : Nat) (f : Fetch) (agrees : Prop) [Decidable agrees] : Act :=
  if agrees then acts [onlyIf (feSrc f.rec_ == feOwnerW f.rec_) (tellOwner f), fetchNext n i f 1]
  else if f.reads = 0 then
    acts [incF UPDT_UCNT 1 n 6, setFetch n i { f with reads := 1, refetches := f.refetches + 1 },
      askChunk n { f with reads := 1, refetches := f.refetches + 1 }]
  else
    acts [incF UPDT_UCNT 1 n 7, raiseEvt (updtPg n) (2 ^ 18), setFetch n i { f with reads := 2 },
      askChunk n { f with reads := 2 }]

/-- One of the first two reads of a chunk of another device has been answered. -/
theorem run_fetchChunk (s : State) (n i d : Nat) (f : Fetch) (a : RemoteAns) (hf : (ueSt s n).fetches[i]? = some f)
    (hd : f.digest = some d) (hheld : fetchHeld s f.rec_ = false) (haway : gaNode (feFrom f + f.chunk * 2 ^ 20) ≠ nodeId s)
    (hroute : reachable s (gaNode (feFrom f + f.chunk * 2 ^ 20)) = true) (hcode : a.code = 0) (hreads : f.reads < 2) :
    (fetchChunk n i a).run s = (afterRead n i f (crc64 a.data = d)).run ((fetchStore f a false).run s) := by
  have hfree : ¬ (fetchHeld s f.rec_ = true) := by rw [hheld]; exact Bool.false_ne_true
  have hok : (a.code == 0 && crc64 a.data == d) = decide (crc64 a.data = d) := by rw [hcode]; rfl
  rw [fetchChunk, run_look, hf]
  simp only [hd]
  rw [if_neg hfree, run_withAnswer_remote s _ _ a _ haway hroute]
  simp only [hok, if_neg (Nat.ne_of_lt hreads)]
  rw [run_acts_cons, hcode, beq_self_eq_true, run_onlyIf_true, run_acts_cons, run_acts_nil]
  simp only [decide_eq_true_eq, afterRead, hd]

/-- A counter of an Update Engine that advances, where what came before left it. -/
theorem counted_incF (s u : State) (n k : Nat) (hk : fv u UPDT_UCNT n k = fv s UPDT_UCNT n k) :
    counted s ((incF UPDT_UCNT 1 n k).run u) UPDT_UCNT n k 1 := by
  rw [counted, fv_incF_self _ _ _ _ _ ⟨by decide, by decide⟩, hk]
  rfl

/-- The fetch once the next chunk begins. -/
def Fetch.next (f : Fetch) : Fetch := { f.note 1 with chunk := f.chunk + 1, digest := none, reads := 0 }

/-- A verified chunk with another to come is counted, and the next one begins. -/
theorem fetchNext_verified (s : State) (n i : Nat) (f : Fetch) (hn : n < 12)
    (hmore : f.chunk + 1 < feFirst f.rec_ + feN f.rec_) :
    let t := (fetchNext n i f 1).run s
    counted s t UPDT_UCNT n 5 1 ∧ (ueSt t n).fetches = (ueSt s n).fetches.set i f.next ∧ t.mem = s.mem := by
  have hrun : (fetchNext n i f 1).run s =
      (askDigest n f.next).run ((setFetch n i f.next).run ((incF UPDT_UCNT 1 n 5).run s)) := by
    simp only [fetchNext, hmore, if_true, run_acts_cons, run_acts_nil]
    rfl
  obtain ⟨hfetches, hmem, hfv⟩ := setFetch_then_ask ((incF UPDT_UCNT 1 n 5).run s) n i f.next (askDigest_fabric n f.next)
  rw [hrun]
  refine ⟨?_, hfetches, hmem⟩
  rw [counted, hfv _ _ _ rfl (by omega) (by decide)]
  exact counted_incF s s n 5 rfl

section
variable (s u : State) (n i : Nat) (f : Fetch) (agrees : Prop) [Decidable agrees] (hn : n < 12)
  (hue : ueSt u n = ueSt s n) (hcount : ∀ k, k < 64 → fv u UPDT_UCNT n k = fv s UPDT_UCNT n k)
include hn hue hcount

/-- A chunk whose digest agrees is counted as stored, and the next one begins; where its source is not its owner, nothing
more is written. -/
theorem afterRead_verified (h : agrees) (hmore : f.chunk + 1 < feFirst f.rec_ + feN f.rec_) :
    let t := (afterRead n i f agrees).run u
    counted s t UPDT_UCNT n 5 1 ∧ (ueSt t n).fetches = (ueSt s n).fetches.set i f.next ∧
      (feSrc f.rec_ ≠ feOwnerW f.rec_ → t.mem = u.mem) := by
  have told : (onlyIf (feSrc f.rec_ == feOwnerW f.rec_) (tellOwner f)).Only Upd.sparesUe :=
    only_onlyIf _ _ _ fun _ => tellOwner_sparesUe f
  obtain ⟨hstored, hfetches, hmem⟩ :=
    fetchNext_verified ((onlyIf (feSrc f.rec_ == feOwnerW f.rec_) (tellOwner f)).run u) n i f hn hmore
  simp only [afterRead, if_pos h, run_acts_cons, run_acts_nil]
  refine ⟨?_, ?_, fun hne => ?_⟩
  · rwa [counted, told.sparesUe_ucnt u n 5 (by omega) (by omega), hcount 5 (by omega)] at hstored
  · rwa [told.sparesUe_ueSt, hue] at hfetches
  · rw [hmem, beq_eq_false_iff_ne.2 hne, run_onlyIf_false, Act.run_done]

/-- A first read whose digest does not agree is counted, and the chunk is read again. -/
theorem afterRead_refetch (h : ¬ agrees) (hreads : f.reads = 0) :
    let t := (afterRead n i f agrees).run u
    counted s t UPDT_UCNT n 6 1 ∧
      (ueSt t n).fetches = (ueSt s n).fetches.set i { f with reads := 1, refetches := f.refetches + 1 } := by
  obtain ⟨hfetches, -, hfv⟩ := setFetch_then_ask ((incF UPDT_UCNT 1 n 6).run u) n i
    { f with reads := 1, refetches := f.refetches + 1 } (askChunk_fabric n _)
  simp only [afterRead, if_neg h, if_pos hreads, run_acts_cons, run_acts_nil]
  refine ⟨?_, hue ▸ hfetches⟩
  rw [counted, hfv _ _ _ rfl (by omega) (by decide)]
  exact counted_incF s u n 6 (hcount 6 (by omega))

/-- A second read whose digest does not agree is counted and raised, and the chunk is read from its owner. -/
theorem afterRead_fromOwner (h : ¬ agrees) (hreads : f.reads = 1) :
    let t := (afterRead n i f agrees).run u
    counted s t UPDT_UCNT n 7 1 ∧ pending t (updtPg n) 18 ∧
      (ueSt t n).fetches = (ueSt s n).fetches.set i { f with reads := 2 } := by
  have hsecond : f.reads ≠ 0 := by omega
  have hraise := raiseEvt_sparesUe (updtPg n) (2 ^ 18)
  obtain ⟨hfetches, -, hfv⟩ := setFetch_then_ask
    ((raiseEvt (updtPg n) (2 ^ 18)).run ((incF UPDT_UCNT 1 n 7).run u)) n i { f with reads := 2 } (askChunk_fabric n _)
  simp only [afterRead, if_neg h, if_neg hsecond, run_acts_cons, run_acts_nil]
  refine ⟨?_, ?_, ?_⟩
  · rw [counted, hfv _ _ _ rfl (by omega) (by decide), hraise.sparesUe_ucnt _ n 7 (by omega) (by omega)]
    exact counted_incF s u n 7 (hcount 7 (by omega))
  · rw [pending, hfv (hdrEvtPend (updtPg n).blk) (updtPg n).idx 0 rfl (show n < 256 by omega)
      (show 0x018 + 0 * 0 < 4096 by decide), raiseEvt_pend (updtPg n) _ _ (by decide), Nat.testBit_or,
      Nat.testBit_two_pow_self, Bool.or_true]
  · rw [hraise.sparesUe_ueSt] at hfetches
    exact hue ▸ hfetches

end

/-! ### VERIFIED notes -/

/-- A note of another step than the entry's is discarded (R296). -/
theorem verified_discarded (s : State) (dig step node addr : Nat) (h : hbmLE s (dig + 8) 6 ≠ step) :
    exec (.verified dig step node addr) s = .next s := by
  have hexec : exec (.verified dig step node addr) s = execVerified dig step node addr s := rfl
  have hno : (hbmLE s (dig + 8) 6 == step) = false := beq_eq_false_iff_ne.2 h
  simp only [hexec, execVerified, verifiedNote, run_look, hno, Bool.and_false, run_onlyIf_false, Act.run_done]

/-- What a VERIFIED note writes into a digest entry from its VER_NODE on. -/
def noteBytes (node addr : Nat) : List Byte := leBytes 2 node ++ leBytes 6 0 ++ leBytes 8 addr

/-- A note of the entry's step is written into it (R296). -/
theorem verified_noted (s : State) (dig step node addr g c : Nat) (hg : g < fv s UPDT_PG_COUNT (dig / 2 ^ 36))
    (hen : fb s UPDT_PG_EN (dig / 2 ^ 36) = true) (hvalid : pgValid (pgRec s (dig / 2 ^ 36) g) = true)
    (hc : c < pgChunks (pgRec s (dig / 2 ^ 36) g)) (hdig : dig = digAddr (pgRec s (dig / 2 ^ 36) g) c)
    (hstep : hbmLE s (dig + 8) 6 = step) :
    exec (.verified dig step node addr) s = .next ((hbmPut (dig + 16) (noteBytes node addr)).run s) := by
  have hexec : exec (.verified dig step node addr) s = execVerified dig step node addr s := rfl
  have hit : ((List.range (fv s UPDT_PG_COUNT (dig / 2 ^ 36))).any fun g =>
      let r := pgRec s (dig / 2 ^ 36) g
      fb s UPDT_PG_EN (dig / 2 ^ 36) && pgValid r && decide (pgA r 128 ≤ dig) && decide (dig < pgA r 128 + 32 * pgChunks r) &&
        (dig - pgA r 128) % 32 == 0) = true := by
    refine List.any_eq_true.2 ⟨g, List.mem_range.2 hg, ?_⟩
    unfold digAddr at hdig
    have hlow : pgA (pgRec s (dig / 2 ^ 36) g) 128 ≤ dig := by omega
    have hhigh : dig < pgA (pgRec s (dig / 2 ^ 36) g) 128 + 32 * pgChunks (pgRec s (dig / 2 ^ 36) g) := by omega
    have hmult : (dig - pgA (pgRec s (dig / 2 ^ 36) g) 128) % 32 = 0 := by omega
    simp only [hen, hvalid, hlow, hhigh, hmult, decide_true, Bool.and_self, beq_self_eq_true]
  simp only [hexec, execVerified, verifiedNote, run_look, hit, hstep, beq_self_eq_true, Bool.and_self, run_onlyIf_true]
  rfl

/-- The entry after the note: VER_NODE and VER_ADDR are the verifier's, and the digest is as before. -/
theorem hbmLE_after_note (s : State) (dig node addr : Nat) (hcalm : calm s) :
    let t := (hbmPut (dig + 16) (noteBytes node addr)).run s
    hbmLE t (dig + 16) 2 = node % 2 ^ 16 ∧ hbmLE t (dig + 24) 8 = addr % 2 ^ 64 ∧ hbmLE t dig 8 = hbmLE s dig 8 := by
  intro t
  obtain ⟨hmem, hsyn⟩ := hbmPut_calm s (dig + 16) (noteBytes node addr) hcalm rfl
  have hread : ∀ a n, hbmLE t a n =
      leNat (mapRead memDefault (mapPut memDefault s.mem (dig + 16) (noteBytes node addr)) a n) := fun a n => by rw [hbmLE, hbmBytesAt_of_syn_nil t a n hsyn, hmem]
  have hlen : (noteBytes node addr).length = 16 := rfl
  have hnode : (noteBytes node addr).take 2 = leBytes 2 node := rfl
  have haddr : ((noteBytes node addr).drop 8).take 8 = leBytes 8 addr := rfl
  refine ⟨?_, ?_, ?_⟩
  · rw [hread, ← Nat.add_zero (dig + 16), mapRead_mapPut_self _ _ _ 0 2 _ (by omega), List.drop_zero, hnode, leNat_leBytes]
    rfl
  · rw [hread, mapRead_mapPut_self _ _ (dig + 16) 8 8 _ (by omega), haddr, leNat_leBytes]
    rfl
  · rw [hread, mapRead_mapPut_before _ _ _ _ _ _ (by omega), hbmLE, hbmBytesAt_of_syn_nil s dig 8 hcalm.1]

/-! ### The statement -/

/-- Settles O35. Each row's program is its effect on the list of fetches, then reads, messages, reports and memory writes,
none of which touches that list; a chunk that has been read is stored before its digest decides what follows; and a note
writes the last 16 bytes of its digest entry. -/
theorem fetchesVerifyChunks : Obligations.FetchesVerifyChunks := by
  unfold Obligations.FetchesVerifyChunks
  refine ⟨fun s r n hs hty h => ?_, fetchCancel_accepted,
    fun s n i d e f _ hf hd h => fetchTimeout_reached s n i d e f hf hd h,
    fun s n i f a _ hf hd hheld haway hroute hcode hstep hgood =>
      fetchDigestPoll_ready s n i f a hf hd hheld haway hroute hcode hstep hgood,
    fun s n i d f a hn hf hd hheld haway hroute hcode => ?_,
    fun s dig step node addr => ⟨verified_discarded s dig step node addr, ?_⟩⟩
  · obtain ⟨t, hexec, hfetches⟩ := fetch_posted s r n hs hty h
    exact ⟨t, hexec, fun h0 => hfetches.trans (if_pos h0), fun h0 => hfetches.trans (if_neg h0)⟩
  · have hstore := fetchStore_sparesUe f a false
    have hue := hstore.sparesUe_ueSt s n
    have hcount : ∀ k, k < 64 → fv ((fetchStore f a false).run s) UPDT_UCNT n k = fv s UPDT_UCNT n k := fun k hk =>
      hstore.sparesUe_ucnt s n k (by omega) hk
    have hrun := run_fetchChunk s n i d f a hf hd hheld haway hroute hcode
    refine ⟨(fetchChunk n i a).run s, rfl, fun hreads hcrc hmore => ?_, fun hreads hcrc => ?_, fun hreads hcrc => ?_⟩
    · rw [hrun hreads]
      obtain ⟨hstored, hfetches, hmem⟩ := afterRead_verified s _ n i f (crc64 a.data = d) hn hue hcount hcrc hmore
      exact ⟨hstored, hfetches, fun u off hsrc hplace hok hflip =>
        (hmem hsrc).trans (fetchStore_mem s f a false u off hplace hok hflip)⟩
    · rw [hrun (by omega)]
      exact afterRead_refetch s _ n i f _ hn hue hcount hcrc hreads
    · rw [hrun (by omega)]
      exact afterRead_fromOwner s _ n i f _ hn hue hcount hcrc hreads
  · intro g c n r hg hen hvalid hc hdig hstep hcalm _
    exact ⟨_, verified_noted s dig step node addr g c hg hen hvalid hc hdig hstep, hbmLE_after_note s dig node addr hcalm⟩

end Sys2Proof.Machine
end

section
/-! PROOF. What holds of every program over the primitive updates: the machine's step, what no command touches, and the state
after reset. -/

namespace Sys2Proof.Machine

/-! ### Steps -/

/-- Settles O1, by the definition of a step. -/
theorem stepRunsFrontCommand : Obligations.StepRunsFrontCommand := by
  unfold Obligations.StepRunsFrontCommand
  intro s c rest h
  simp only [step, h]

/-- Settles O2: a tick moves the local time by 1 ns where the device knows an impression. -/
theorem idleStepIsOneTick : Obligations.IdleStepIsOneTick := by
  unfold Obligations.IdleStepIsOneTick
  intro s h
  refine ⟨tick.run s, by simp only [step, h], fun hs => ?_, fun hs => ?_⟩
  · simp only [tick, run_look, hs, run_onlyIf_false, Act.run_done]
  · have hmax : max s.press.elapsed (s.press.elapsed + 1) = s.press.elapsed + 1 := by omega
    simp only [tick, run_look, hs, run_onlyIf_true, timeTo, run_upd, hmax]
    rfl

/-! ### What no command touches -/

/-- The queue, the build and the factory data stand; what was sent stays sent; free places are counted up. -/
def keptByAll (s t : State) : Prop :=
  t.pending = s.pending ∧ t.build = s.build ∧ t.factory = s.factory ∧ (∃ sent, t.out = sent ++ s.out) ∧ s.freeCtr ≤ t.freeCtr

theorem keptByAll_refl (s : State) : keptByAll s s := ⟨rfl, rfl, rfl, ⟨[], rfl⟩, le_rfl⟩

theorem keptByAll_apply (u : Upd) (s t : State) (h : keptByAll s t) : keptByAll s (u.apply t) := by
  obtain ⟨hpend, hbuild, hfact, ⟨sent, hout⟩, hfree⟩ := h
  have kept : keptByAll s t := ⟨hpend, hbuild, hfact, ⟨sent, hout⟩, hfree⟩
  cases u with
  | emit m => exact ⟨hpend, hbuild, hfact, ⟨m :: sent, congrArg (m :: ·) hout⟩, hfree⟩
  | nextFree => exact ⟨hpend, hbuild, hfact, ⟨sent, hout⟩, Nat.le_succ_of_le hfree⟩
  | _ => exact kept

/-- Settles O5: every command is a program over the primitive updates, and none of them touches the queue, the build or the
factory data, unsends a message or takes a free value back. -/
theorem commandsAnswerNextAndKeepQueue : Obligations.CommandsAnswerNextAndKeepQueue := by
  unfold Obligations.CommandsAnswerNextAndKeepQueue
  intro c s
  obtain ⟨a, ha⟩ := exec_run c s
  exact ⟨a.run s, ha, Act.run_rel keptByAll keptByAll_refl keptByAll_apply a s⟩

/-! ### Reset -/

theorem blkOf_blkNum (b : Blk) : blkOf (blkNum b) = b := by cases b <;> rfl

/-- The reset value of PAGE_CTL: ENABLE on the MGD's pages. -/
theorem regReset_pageCtl (b : Blk) (i : Nat) (hi : i < 256) :
    regReset (regKey b i 0x008) = if isMgdBlk b i then 1 else 0 := by
  have hoff : regKey b i 0x008 % 4096 = 0x008 := by unfold regKey; omega
  have hidx : regKey b i 0x008 / 4096 % 256 = i := by unfold regKey; omega
  have hblk : regKey b i 0x008 / 4096 / 256 = blkNum b := by unfold regKey; omega
  simp only [regReset, hoff, hidx, hblk, blkOf_blkNum, if_true]

/-- The other registers of a header that hold status reset to 0. -/
theorem regReset_header (b : Blk) (i o : Nat) (hi : i < 256) (ho : o ∈ [0x00C, 0x010, 0x014, 0x018, 0x01C]) :
    regReset (regKey b i o) = 0 := by
  have hsmall : o < 4096 ∧ o ≠ 0x008 := by
    simp only [List.mem_cons, List.not_mem_nil, or_false] at ho; omega
  have hoff : regKey b i o % 4096 = o := by unfold regKey; omega
  have hblk : regKey b i o / 4096 / 256 = blkNum b := by unfold regKey; omega
  simp only [regReset, hoff, hblk, blkOf_blkNum, if_neg hsmall.2]
  simp only [List.mem_cons, List.not_mem_nil, or_false] at ho
  rcases ho with rfl | rfl | rfl | rfl | rfl <;> cases b <;> rfl

theorem rdKey_reset (k : Nat) : rdKey State.reset k = (regReset k).toNat := rfl

/-- A field of a header's status register reads 0 after reset. -/
theorem fv_reset_header (f : Fld) (i : Nat) (hi : i < 256) (hs : f.stride = 0)
    (ho : f.off ∈ [0x00C, 0x010, 0x014, 0x018, 0x01C]) : fv State.reset f i = 0 := by
  simp only [fv, fldKey, hs, Nat.mul_zero, Nat.add_zero, rdKey_reset, regReset_header f.blk i f.off hi ho]
  simp [bits]

/-- Settles O3: the maps of the reset state are empty, so every register reads as its reset value. -/
theorem resetStateIsCanonical : Obligations.ResetStateIsCanonical := by
  unfold Obligations.ResetStateIsCanonical
  refine ⟨⟨rfl, by decide, by decide, rfl, fun p hp => ?_, fun k => rfl, rfl, rfl⟩, by decide⟩
  have hctl : rdKey State.reset (regKey p.blk p.idx 0x008) = if isMgdBlk p.blk p.idx then 1 else 0 := by
    rw [rdKey_reset, regReset_pageCtl _ _ hp]; split <;> rfl
  refine ⟨?_, ?_, ?_, fv_reset_header _ _ hp rfl (by simp [hdrErrCode]), fv_reset_header _ _ hp rfl (by simp [hdrErrCnt]),
    fv_reset_header _ _ hp rfl (by simp [hdrEvtPend]), fv_reset_header _ _ hp rfl (by simp [hdrEvtMask])⟩
  · simp only [enabled, fb, fv, fldKey, hdrEnable, Nat.mul_zero, Nat.add_zero, hctl]
    cases isMgdBlk p.blk p.idx <;> rfl
  · simp only [fb, fv, fldKey, hdrEvtEn, Nat.mul_zero, Nat.add_zero, hctl]
    cases isMgdBlk p.blk p.idx <;> rfl
  · rw [inSrst, fb, fv_reset_header _ _ hp rfl (by simp [hdrSrst])]; rfl

end Sys2Proof.Machine
end

section
/-! PROOF. The rows that write one register are that register's write (R41). -/

namespace Sys2Proof.Machine

/-- A register write's program. -/
def RegWrite.act (w : RegWrite) : Act := access ⟨w.1, w.2.1, w.2.2.1, some w.2.2.2⟩

theorem exec_registerWrite (s : State) (w : RegWrite) :
    exec (.registerWrite w.1 w.2.1 w.2.2.1 w.2.2.2) s = .next (w.act.run s) := rfl

/-- A row's write of a tile page's register, where the tile is a presented one. -/
theorem run_writeTile {r : Requester} {tile k off v : Nat} {w : RegWrite} (s : State) (h : tileWrite r tile k off v = some w) :
    (writeTile r tile k off v).run s = w.act.run s := by
  unfold tileWrite at h
  split at h
  · next ht =>
    cases h
    simp only [writeTile, decide_eq_true ht, run_onlyIf_true]
    rfl
  · cases h

theorem run_writeQueue {r : Requester} {tile q off v : Nat} {w : RegWrite} (s : State)
    (h : (if q < 7 then tileWrite r tile 0 (0x080 + 0x20 * q + off) v else none) = some w) :
    (writeQueue r tile q off v).run s = w.act.run s := by
  split at h
  · next hq =>
    simp only [writeQueue, decide_eq_true hq, run_onlyIf_true]
    exact run_writeTile s h
  · cases h

/-- A row's write of a UPDT register, where the site carries HBM. -/
theorem run_writeUpdt_row {r : Requester} {n off v : Nat} {w : RegWrite} (s : State)
    (h : (if isHbmSite s.build n then some (r, siteReg n 1 off, 4, v) else none) = some w) :
    (writeUpdt r n off v).run s = w.act.run s := by
  split at h
  · next hn =>
    cases h
    simp only [writeUpdt, run_look, hn, run_onlyIf_true]
    rfl
  · cases h

theorem run_writeLink {r : Requester} {l off v : Nat} {w : RegWrite} (s : State)
    (h : (if l < nLinks s.build then some (r, linkReg s l off, 4, v) else none) = some w) :
    (writeLink r l off v).run s = w.act.run s := by
  split at h
  · next hl =>
    cases h
    simp only [writeLink, run_look, decide_eq_true hl, run_onlyIf_true]
    rfl
  · cases h

theorem run_writeIntg {r : Requester} {i off v b : Nat} {w : RegWrite} (s : State)
    (h : (if intgHere s i ∧ bit v b then some (r, intgReg s i off, 4, v) else none) = some w) :
    (onlyIf (bit v b) (writeIntg r i off v)).run s = w.act.run s := by
  split at h
  · next hc =>
    obtain ⟨hi, hb⟩ := hc
    cases h
    unfold intgHere at hi
    simp only [hb, run_onlyIf_true, writeIntg, run_look, hi]
    rfl
  · cases h

theorem run_writeSolv {r : Requester} {e off v : Nat} (s : State) (he : e < 16) :
    (writeSolv r e off v).run s = (RegWrite.act (r, solvReg e off, 4, v)).run s := by
  simp only [writeSolv, decide_eq_true he, run_onlyIf_true]
  rfl

theorem run_onlyIf_of_true {c : Bool} (a : Act) (s : State) (h : c = true) : (onlyIf c a).run s = a.run s := by
  rw [h]; rfl

/-- A row that does its work only where a condition holds, as `rowWrite` has it. -/
theorem run_onlyIf_of_some {c : Bool} {P : Prop} [Decidable P] {a : Act} {v w : RegWrite} (s : State)
    (h : (if P then some v else none) = some w) (hP : P → c = true) (ha : P → a.run s = v.act.run s) :
    (onlyIf c a).run s = w.act.run s := by
  split at h
  · next hp =>
    cases h
    rw [hP hp]
    exact ha hp
  · cases h

/-- Settles O16, row by row: a row's conditions are those under which `rowWrite` names its write, and then the two programs are
the same access. -/
theorem rowsThatWriteOneRegister : Obligations.RowsThatWriteOneRegister := by
  unfold Obligations.RowsThatWriteOneRegister
  intro s c w h
  rw [exec_registerWrite]
  cases c with
  | softReset r a v => exact congrArg _ (run_onlyIf_of_some s h (by simp) fun _ => rfl)
  | readyForce r | schedPost r | schedCancel r hd | bubbleEnable r k c | bubbleDisable r | planEnable r | planDisable r
  | quoteOp r | certOp r | enrolGo r | jciGo r => cases h; rfl
  | qTailWrite r t q v | queueStart r t q | queueStop r t q | queueRearm r t q | queueSkip r t q =>
    exact congrArg _ (run_writeQueue s h)
  | tokenWrite r t c v | inboxArm r t i | inboxDisarm r t i | galyRegionWrite r t k v =>
    simp only [rowWrite] at h
    split at h
    · next hc => exact congrArg _ ((run_onlyIf_of_true _ s (decide_eq_true hc)).trans (run_writeTile s h))
    · cases h
  | coreRun r t run pc | slotClr r t v => exact congrArg _ (run_writeTile s h)
  | curvCmdFold r n g f | curvCmdReset r n g f | fetchCancel r n | updCmdAudit r n g | progDataWrite r n v =>
    exact congrArg _ (run_writeUpdt_row s h)
  | solvContextEnable r e c v | solvContextDisable r e c v =>
    exact congrArg _ (run_onlyIf_of_some s h (by simp +contextual) fun hc => run_writeSolv s hc.1)
  | goRec e r =>
    cases r with
    | none => cases h
    | some r => exact congrArg _ (run_onlyIf_of_some s h (fun _ => rfl) fun he => run_writeSolv s he)
  | sheafOpen r n | sheafAbort r n =>
    cases r with
    | none => cases h
    | some r =>
      refine congrArg Host.Outcome.next (run_onlyIf_of_some s h (fun hc => beq_iff_eq.2 hc.2) fun hc => ?_)
      exact (congrArg (Act.run · s) (if_pos hc.1) : (onlyIf _ _).run s = _)
  | lineDataWrite r n v => exact congrArg _ (run_onlyIf_of_some s h id fun _ => rfl)
  | updateRun n r g =>
    cases r with
    | none => cases h
    | some r =>
      refine congrArg Host.Outcome.next (Eq.trans ?_ (run_writeUpdt_row s h))
      rw [recordCmd, run_look, run_onlyIf_true]
  | fetch n r =>
    cases r with
    | none => cases h
    | some r =>
      refine congrArg Host.Outcome.next (run_onlyIf_of_some s h (fun hc => beq_iff_eq.2 hc.2) fun hc => ?_)
      exact (congrArg (Act.run · s) (if_pos hc.1) : (onlyIf _ _).run s = _)
  | writeFirstTableWrite r n e v => exact congrArg _ (run_onlyIf_of_some s h (by simp +contextual) fun _ => rfl)
  | optSet r n | optMove r n | optClear r n =>
    cases r with
    | none => cases h
    | some r => exact congrArg _ (run_onlyIf_of_some s h (fun hc => beq_iff_eq.2 hc) fun _ => rfl)
  | lendWindowEnable r i v | lendWindowReclaim r i v | qpContextPost r v | windowPost r v | contextLoad r v
  | telEntryWrite r e v => exact congrArg _ (run_onlyIf_of_some s h (by simp +contextual) fun _ => rfl)
  | scrubGo r i v | flipArm r i v | pstsClr r i v => exact congrArg _ (run_writeIntg s h)
  | linkRetrain r l | linkDisable r l | admitLink r l => exact congrArg _ (run_writeLink s h)
  | _ => cases h

end Sys2Proof.Machine
end

section
/-! PROOF. Footprints: which parts of the state and which registers a program can touch, and that it leaves all others. -/

namespace Sys2Proof.Machine

/-! ### Parts of the state -/

/-- The parts of the state beside the registers that an update can change. -/
inductive Part where
  | srst | mem | syn | written | out | free | cands | fifos | zeroing | units | press | tiles | flights | ues | solvs
  | shef | pfs | moves | flash | ri | links | fab | events | boot | power | nv | eth | sessions | telSeq | bkUsed
deriving DecidableEq

/-- A part is the same in two states. -/
def Part.same (s t : State) : Part → Prop
  | .srst => t.srstOld = s.srstOld
  | .mem => t.mem = s.mem
  | .syn => t.syn = s.syn
  | .written => t.written = s.written
  | .out => t.out = s.out
  | .free => t.freeCtr = s.freeCtr
  | .cands => t.cands = s.cands
  | .fifos => t.fifos = s.fifos
  | .zeroing => t.zeroing = s.zeroing
  | .units => t.units = s.units
  | .press => t.press = s.press
  | .tiles => t.tiles = s.tiles
  | .flights => t.flights = s.flights
  | .ues => t.ues = s.ues
  | .solvs => t.solvs = s.solvs
  | .shef => t.shef = s.shef
  | .pfs => t.pfs = s.pfs
  | .moves => t.moves = s.moves
  | .flash => t.flash = s.flash
  | .ri => t.ri = s.ri
  | .links => t.links = s.links
  | .fab => t.fab = s.fab
  | .events => t.events = s.events
  | .boot => t.boot = s.boot
  | .power => t.power = s.power
  | .nv => t.nv = s.nv
  | .eth => t.eth = s.eth
  | .sessions => t.sessions = s.sessions
  | .telSeq => t.telSeq = s.telSeq
  | .bkUsed => t.bkUsed = s.bkUsed

/-- An update touches only some parts, and registers of some keys. -/
def Upd.within (ps : List Part) (ks : Nat → Prop) : Upd → Prop
  | .reg k _ => ks k
  | .srstSave _ _ | .srstDrop _ _ => .srst ∈ ps
  | .mem _ _ | .memClear _ _ => .mem ∈ ps
  | .syn _ _ | .synClear _ _ => .syn ∈ ps
  | .written _ _ | .writtenClear _ _ => .written ∈ ps
  | .emit _ => .out ∈ ps
  | .nextFree => .free ∈ ps
  | .cands _ _ => .cands ∈ ps
  | .fifo _ _ => .fifos ∈ ps
  | .zeroing _ _ => .zeroing ∈ ps
  | .units _ => .units ∈ ps
  | .press _ => .press ∈ ps
  | .tile _ _ => .tiles ∈ ps
  | .flights _ => .flights ∈ ps
  | .ue _ _ => .ues ∈ ps
  | .solv _ _ => .solvs ∈ ps
  | .shef _ => .shef ∈ ps
  | .pfs _ _ => .pfs ∈ ps
  | .moves _ => .moves ∈ ps
  | .flash _ => .flash ∈ ps
  | .ri _ => .ri ∈ ps
  | .link _ _ => .links ∈ ps
  | .fab _ => .fab ∈ ps
  | .events _ _ => .events ∈ ps
  | .boot _ => .boot ∈ ps
  | .power _ => .power ∈ ps
  | .nv _ | .repair _ => .nv ∈ ps
  | .eth _ => .eth ∈ ps
  | .sessions _ => .sessions ∈ ps
  | .telSeq _ => .telSeq ∈ ps
  | .bkUsed _ => .bkUsed ∈ ps
  | .restart => False

/-- A program's footprint: the parts and registers its updates may touch. -/
abbrev Act.Within (ps : List Part) (ks : Nat → Prop) (a : Act) : Prop := a.Only (Upd.within ps ks)

variable {ps qs : List Part} {ks ls : Nat → Prop} {a b : Act}

theorem Upd.within_mono (hp : ∀ x ∈ ps, x ∈ qs) (hk : ∀ k, ks k → ls k) (u : Upd) (h : u.within ps ks) : u.within qs ls := by
  cases u <;> first | exact hk _ h | exact hp _ h | exact h

theorem Act.Within.mono (h : a.Within ps ks) (hp : ∀ x ∈ ps, x ∈ qs) (hk : ∀ k, ks k → ls k) : a.Within qs ls :=
  Act.Only.mono h (Upd.within_mono hp hk)

theorem Act.Within.regs (h : a.Within ps ks) (hk : ∀ k, ks k → ls k) : a.Within ps ls := h.mono (fun _ h => h) hk

/-- A part outside the footprint stays. -/
theorem Act.Within.same (h : a.Within ps ks) (x : Part) (hx : x ∉ ps) (s : State) : x.same s (a.run s) := by
  refine Act.Only.run_keeps h (x.same s) (fun u t hu ht => ?_) s (by cases x <;> rfl)
  cases u with
  | restart => exact hu.elim
  | reg k v => cases x <;> exact ht
  | _ => cases x <;> first | exact ht | exact absurd hu hx

/-- A register outside the footprint stays. -/
theorem Act.Within.rdKey (h : a.Within ps ks) (s : State) (k : Nat) (hk : ¬ ks k) : Machine.rdKey (a.run s) k = Machine.rdKey s k :=
  Act.Only.rdKey_of_ne h id s k fun _ => hk

theorem Act.Within.fv (h : a.Within ps ks) (s : State) (f : Fld) (i n : Nat) (hk : ¬ ks (fldKey f i n)) :
    Machine.fv (a.run s) f i n = Machine.fv s f i n := by
  rw [Machine.fv, h.rdKey s _ hk]; rfl

theorem Act.Within.fb (h : a.Within ps ks) (s : State) (f : Fld) (i n : Nat) (hk : ¬ ks (fldKey f i n)) :
    Machine.fb (a.run s) f i n = Machine.fb s f i n := by
  rw [Machine.fb, h.fv s f i n hk]; rfl

theorem Act.Within.regs_eq (h : a.Within ps fun _ => False) (s : State) : (a.run s).regs = s.regs := by
  refine Act.Only.run_keeps h (fun t => t.regs = s.regs) (fun u t hu ht => ?_) s rfl
  cases u <;> first | exact ht | exact hu.elim

theorem Act.Within.build (h : a.Within ps ks) (s : State) : (a.run s).build = s.build := by
  refine Act.Only.run_keeps h (fun t => t.build = s.build) (fun u t hu ht => ?_) s rfl
  cases u <;> exact ht

theorem Act.Within.memKept (h : a.Within ps ks) (s : State) (hm : Part.mem ∉ ps) (hs : Part.syn ∉ ps) (hw : Part.written ∉ ps) :
    Machine.memKept s (a.run s) :=
  ⟨fun k => congrArg (mapGet memDefault · k) (h.same .mem hm s), fun k => congrArg (mapGet synDefault · k) (h.same .syn hs s),
    fun k => congrArg (mapGet writtenDefault · k) (h.same .written hw s)⟩

theorem Act.Within.regsKept (h : a.Within ps ks) (s : State) (l : List Nat) (hl : ∀ k, ks k → k ∈ l) : Machine.regsKept s (a.run s) l :=
  fun k hk => h.rdKey s k fun hks => hk (hl k hks)

/-! ### Footprints by parts -/

@[simp] theorem only_seq_iff (P : Upd → Prop) (a b : Act) : (a.seq b).Only P ↔ a.Only P ∧ b.Only P := by
  induction a with
  | done => simp [Act.seq]
  | put u k ih => simp [Act.seq, ih, and_assoc]
  | look k ih =>
    have : Nonempty State := ⟨State.reset⟩
    simp only [Act.seq, Act.Only, ih, forall_and, forall_const]

@[simp] theorem only_acts_nil (P : Upd → Prop) : (acts []).Only P ↔ True := Iff.rfl

@[simp] theorem only_acts_cons (P : Upd → Prop) (a : Act) (l : List Act) : (acts (a :: l)).Only P ↔ a.Only P ∧ (acts l).Only P :=
  only_seq_iff P a (acts l)

@[simp] theorem only_look_iff (P : Upd → Prop) (k : State → Act) : (look k).Only P ↔ ∀ s, (k s).Only P := Iff.rfl

@[simp] theorem only_upd_iff (P : Upd → Prop) (u : Upd) : (upd u).Only P ↔ P u := ⟨fun h => h.1, fun h => ⟨h, trivial⟩⟩

@[simp] theorem only_emit_iff (P : Upd → Prop) (m : OutMsg) : (emit m).Only P ↔ P (.emit m) := only_upd_iff P _

@[simp] theorem only_onlyIf_iff (P : Upd → Prop) (c : Bool) (a : Act) : (onlyIf c a).Only P ↔ (c = true → a.Only P) := by
  cases c <;> simp

@[simp] theorem only_ite_iff (P : Upd → Prop) (c : Prop) [Decidable c] (a b : Act) :
    (if c then a else b).Only P ↔ (c → a.Only P) ∧ (¬ c → b.Only P) := by
  split <;> simp [*]

@[simp] theorem only_each_iff {α : Type} (P : Upd → Prop) (l : List α) (f : α → Act) :
    (each l f).Only P ↔ ∀ x ∈ l, (f x).Only P := by
  induction l with
  | nil => simp [each]
  | cons x l ih => simpa [each] using fun _ => ih

@[simp] theorem within_setKey (k v : Nat) : (setKey k v).Within ps ks ↔ ks k := by simp [setKey, Upd.within]

@[simp] theorem within_setF (f : Fld) (v i n : Nat) : (setF f v i n).Within ps ks ↔ ks (fldKey f i n) := by
  simp [setF]; exact ⟨fun h => h State.reset, fun h _ => h⟩

@[simp] theorem within_incF (f : Fld) (v i n : Nat) : (incF f v i n).Within ps ks ↔ ks (fldKey f i n) := by
  simp [incF]; exact ⟨fun h => h State.reset, fun h _ => h⟩

@[simp] theorem within_withFree (k : Nat → Act) :
    (withFree k).Within ps ks ↔ Part.free ∈ ps ∧ ∀ s : State, (k (Config.free s.freeCtr).toNat).Within ps ks := by
  have : Nonempty State := ⟨State.reset⟩
  simp only [withFree, only_look_iff, Act.only_put, Upd.within, forall_and, forall_const]

@[simp] theorem within_updPress (f : Press → Press) : (updPress f).Within ps ks ↔ Part.press ∈ ps := by
  simp [updPress, Upd.within]; exact ⟨fun h => h State.reset, fun h _ => h⟩

@[simp] theorem within_updUnits (f : Units → Units) : (updUnits f).Within ps ks ↔ Part.units ∈ ps := by
  simp [updUnits, Upd.within]; exact ⟨fun h => h State.reset, fun h _ => h⟩

@[simp] theorem within_updTile (p : Nat) (f : Tile → Tile) : (updTile p f).Within ps ks ↔ Part.tiles ∈ ps := by
  simp [updTile, Upd.within]; exact ⟨fun h => h State.reset, fun h _ => h⟩

/-! ### Footprints of the shared operations -/

theorem within_of_onRegs (h : a.Only (Upd.onRegs ks)) (he : Part.events ∈ ps) (ho : Part.out ∈ ps) : a.Within ps ks := by
  refine h.mono fun u hu => ?_
  cases u <;> first | exact hu | exact he | exact ho | exact hu.elim

/-- Events of a page: EVT_PEND, the counter of lost events, and what is sent. -/
theorem raiseEvt_within (p : PageRef) (m : Nat) :
    (raiseEvt p m).Within [.events, .out] fun k => k = fldKey (hdrEvtPend p.blk) p.idx 0 ∨ k = lostKey :=
  within_of_onRegs (raiseEvt_only p m) (by decide) (by decide)

/-- A rejection: the header's records, and what events do. -/
theorem recordReject_within (p : PageRef) (off : Nat) (c : ErrCode) :
    (recordReject p off c).Within [.events, .out] fun k => k = fldKey (hdrErrCode p.blk) p.idx 0 ∨
      k = fldKey (hdrErrCnt p.blk) p.idx 0 ∨ k = fldKey (hdrEvtPend p.blk) p.idx 0 ∨ k = lostKey :=
  within_of_onRegs (recordReject_only p off c) (by decide) (by decide)

/-- An event raised is pending. -/
theorem pending_raiseEvt (p : PageRef) (m i : Nat) (s : State) (hm : m < 2 ^ 32) (hi : m.testBit i = true) :
    pending ((raiseEvt p m).run s) p i := by
  simp only [pending, raiseEvt_pend p m s hm, Nat.testBit_or, hi, Bool.or_true]

end Sys2Proof.Machine
end

section
/-! PROOF. Register accesses (R6, R35, R41 to R49): what an accepted write stores, what a refused one records, what a read answers
and clears. -/

namespace Sys2Proof.Machine

/-! ### The first failing check (R42) -/

/-- One step of the choice between two failing checks. -/
def worse (best e : ErrCode) : ErrCode := if errRank e < errRank best then e else best

theorem firstErr_eq_foldl (l : List ErrCode) : firstErr l = l.foldl worse .ok := rfl

theorem worse_rank (b e : ErrCode) : errRank (worse b e) = min (errRank e) (errRank b) := by
  unfold worse
  split <;> omega

theorem foldl_worse_rank_le (l : List ErrCode) (b : ErrCode) :
    errRank (l.foldl worse b) ≤ errRank b ∧ ∀ e ∈ l, errRank (l.foldl worse b) ≤ errRank e := by
  induction l generalizing b with
  | nil => simp
  | cons x l ih =>
    obtain ⟨hb, hl⟩ := ih (worse b x)
    rw [worse_rank] at hb
    refine ⟨by rw [List.foldl_cons]; omega, fun e he => ?_⟩
    rcases List.mem_cons.1 he with rfl | he
    · rw [List.foldl_cons]; omega
    · exact hl e he

theorem foldl_worse_mem (l : List ErrCode) (b : ErrCode) : l.foldl worse b = b ∨ l.foldl worse b ∈ l := by
  induction l generalizing b with
  | nil => exact Or.inl rfl
  | cons x l ih =>
    rcases ih (worse b x) with h | h
    · rw [List.foldl_cons, h]
      unfold worse
      split
      · exact Or.inr (List.mem_cons_self ..)
      · exact Or.inl rfl
    · exact Or.inr (List.mem_cons_of_mem _ h)

/-- No check that could be reported fails where none is reported. -/
theorem rank_of_firstErr_ok {l : List ErrCode} (h : firstErr l = .ok) (e : ErrCode) (he : e ∈ l) : errRank .ok ≤ errRank e :=
  h ▸ (foldl_worse_rank_le l .ok).2 e he

theorem firstErr_append_ok {l m : List ErrCode} (h : firstErr (l ++ m) = .ok) : firstErr l = .ok ∧ firstErr m = .ok := by
  have hall := rank_of_firstErr_ok h
  have part : ∀ k : List ErrCode, (∀ e ∈ k, e ∈ l ++ m) → firstErr k = .ok := fun k hk => by
    rcases foldl_worse_mem k .ok with h0 | h0
    · exact h0
    · have hge := hall _ (hk _ h0)
      generalize hx : k.foldl worse .ok = x at h0 hge
      have hle := (foldl_worse_rank_le k .ok).1
      have heq : ∀ (k : List ErrCode) (b : ErrCode), errRank b ≤ errRank (k.foldl worse b) → k.foldl worse b = b := by
        intro k
        induction k with
        | nil => intro b _; rfl
        | cons y k ih =>
          intro b hb
          have h1 := (foldl_worse_rank_le k (worse b y)).1
          rw [List.foldl_cons] at hb
          have h2 := worse_rank b y
          have h3 : worse b y = b := by unfold worse; rw [if_neg]; omega
          rw [List.foldl_cons, h3]
          exact ih b (by rw [h3] at hb; exact hb)
      exact heq k .ok (by rw [hx]; exact hge)
  exact ⟨part l fun e he => List.mem_append_left _ he, part m fun e he => List.mem_append_right _ he⟩

/-- A check whose code can be reported does not fail where nothing is reported. -/
theorem firstErr_when_ok {c : Bool} {e : ErrCode} (he : errRank e < errRank .ok) (h : firstErr (when c e) = .ok) : c = false := by
  cases c with
  | false => rfl
  | true =>
    have := rank_of_firstErr_ok h e (by simp [when])
    omega

/-! ### Stored values (R35) -/

/-- Numbers with no bit in common add up to their union. -/
theorem add_eq_or_of_and_eq_zero (a b : Nat) (h : a &&& b = 0) : a + b = a ||| b := by
  induction a using Nat.binaryRec generalizing b with
  | zero => simp
  | bit c n ih =>
    obtain ⟨e, m, rfl⟩ : ∃ e m, b = Nat.bit e m := ⟨_, _, (Nat.bit_bodd_div2 b).symm⟩
    rw [Nat.land_bit, Nat.bit_eq_zero_iff] at h
    have htail := ih m h.1
    have hhead := h.2
    rw [Nat.lor_bit, ← htail]
    cases c <;> cases e <;> simp [Nat.bit_val] at hhead ⊢ <;> omega

theorem testBit_storedValue (d : RegDef) (old v i : Nat) :
    (storedValue d old v).testBit i =
      ((old.testBit i && !(storeMask d .rw).testBit i || v.testBit i && (storeMask d .rw).testBit i) &&
        !(v.testBit i && (storeMask d .w1c).testBit i)) := by
  have hsum : old - (old &&& storeMask d .rw) + (v &&& storeMask d .rw) =
      (old.ldiff (storeMask d .rw)) ||| (v &&& storeMask d .rw) := by
    rw [sub_and_eq_ldiff]
    refine add_eq_or_of_and_eq_zero _ _ ?_
    refine Nat.eq_of_testBit_eq fun j => ?_
    simp only [Nat.testBit_and, Nat.testBit_ldiff, Nat.zero_testBit]
    cases (storeMask d .rw).testBit j <;> simp
  simp only [storedValue, hsum, Nat.and_assoc, testBit_sub_and, Nat.testBit_or, Nat.testBit_ldiff, Nat.testBit_and]

/-- A field that takes writes holds what was written. -/
theorem bits_storedValue_rw (d : RegDef) (old v hi lo : Nat) (hrw : bits (storeMask d .rw) hi lo = 2 ^ (hi + 1 - lo) - 1)
    (hw1c : bits (storeMask d .w1c) hi lo = 0) : bits (storedValue d old v) hi lo = bits v hi lo := by
  refine Nat.eq_of_testBit_eq fun i => ?_
  have h1 := congrArg (Nat.testBit · i) hrw
  have h2 := congrArg (Nat.testBit · i) hw1c
  simp only [testBit_bits, Nat.testBit_two_pow_sub_one, Nat.zero_testBit] at h1 h2
  rw [testBit_bits, testBit_bits, testBit_storedValue]
  by_cases hi' : i < hi + 1 - lo
  · simp only [hi', decide_true, Bool.true_and] at h1 h2
    simp [hi', h1, h2]
  · simp [hi']

/-- A field that takes no writes holds what it held. -/
theorem bits_storedValue_kept (d : RegDef) (old v hi lo : Nat) (hrw : bits (storeMask d .rw) hi lo = 0)
    (hw1c : bits (storeMask d .w1c) hi lo = 0) : bits (storedValue d old v) hi lo = bits old hi lo := by
  refine Nat.eq_of_testBit_eq fun i => ?_
  have h1 := congrArg (Nat.testBit · i) hrw
  have h2 := congrArg (Nat.testBit · i) hw1c
  simp only [testBit_bits, Nat.zero_testBit] at h1 h2
  rw [testBit_bits, testBit_bits, testBit_storedValue]
  by_cases hi' : i < hi + 1 - lo
  · simp only [hi', decide_true, Bool.true_and] at h1 h2
    simp [hi', h1, h2]
  · simp [hi']

/-! ### Accepted writes -/

theorem rdKey_reg_self (s : State) (k v : Nat) : rdKey ((Upd.reg k (BitVec.ofNat 64 v)).apply s) k = v % 2 ^ 64 := by
  rw [rdKey_reg, if_pos rfl]

theorem run_hookApply_header (old s : State) (p : PageRef) (base v : Nat) (hb : base < 0x40) : (hookApply old p base v).run s = s := by
  rw [hookApply, if_pos hb]; rfl

/-- The state in which the value of a write is stored. -/
abbrev stored (s : State) (p : PageRef) (d : RegDef) (base x : Nat) : State :=
  (Upd.reg (pageKey p base) (BitVec.ofNat 64 (storedValue d (rdKey s (pageKey p base)) x))).apply s

/-- A register whose write stores its value and no more. -/
def plainStore (p : PageRef) (base : Nat) : Prop := 0x40 ≤ base ∧ ¬ (p.blk = .hbmc ∧ 0x100 ≤ base) ∧ ¬ (p.blk = .shef ∧ base = 0x0AC)

theorem run_storeReg (s : State) (p : PageRef) (d : RegDef) (base x : Nat) (h : plainStore p base) :
    (storeReg p d base x).run s = stored s p d base x := by
  obtain ⟨hb, h1, h2⟩ := h
  rw [storeReg, if_neg h1, if_neg h2]
  dsimp only
  rw [if_neg (by omega)]
  rfl

/-- An accepted write of a block's register: its value is stored, and what its chapter says is set going. -/
theorem access_accepted_block (s : State) (r : Requester) (a size v : Nat) (p : PageRef) (d : RegDef) (base : Nat)
    (h : accepted s r a size v = true) (hp : pageOf s a = some p) (hd : regAt p.blk (raOff a) = some (d, base))
    (hb : plainStore p base) (ht : (hookTouch p base (v % 2 ^ (8 * size))).run s = s) :
    (access ⟨r, a, size, some v⟩).run s =
      answered ((hookApply s p base (v % 2 ^ (8 * size))).run (stored s p d base (v % 2 ^ (8 * size)))) r a := by
  have hask : asksReset base (v % 2 ^ (8 * size)) = false := by
    rw [asksReset, beq_eq_false_iff_ne.2 (by have := hb.1; omega)]; rfl
  rw [access_accepted_at s r a size v p d base h hp hd, ht, writeEffect]
  simp only [run_look, run_acts_cons, run_acts_nil, hask, Bool.false_eq_true, if_false, run_storeReg s p d base _ hb]
  rfl

/-- An accepted write of a header's register but for a soft reset. -/
theorem access_accepted_header (s : State) (r : Requester) (a size v : Nat) (p : PageRef) (d : RegDef) (base : Nat)
    (h : accepted s r a size v = true) (hp : pageOf s a = some p) (hd : regAt p.blk (raOff a) = some (d, base))
    (hb : base < 0x40) (hask : asksReset base (v % 2 ^ (8 * size)) = false) :
    (access ⟨r, a, size, some v⟩).run s = answered ((withForward p (look fun u => setKey (pageKey p base)
      (storedValue d (rdKey u (pageKey p base)) (v % 2 ^ (8 * size))))).run s) r a := by
  have hstore : storeReg p d base (v % 2 ^ (8 * size)) = withForward p (look fun u => setKey (pageKey p base)
      (storedValue d (rdKey u (pageKey p base)) (v % 2 ^ (8 * size)))) := by
    rw [storeReg, if_neg (by omega), if_neg (by omega)]
    dsimp only
    rw [if_pos hb]
  rw [access_accepted_at s r a size v p d base h hp hd, run_hookTouch_header s p base _ hb, writeEffect]
  simp only [run_look, run_acts_cons, run_acts_nil, hask, Bool.false_eq_true, if_false, hstore,
    run_hookApply_header _ _ p base _ hb]
  rfl

theorem withForward_within {ks : Nat → Prop} (p : PageRef) (a : Act) (h : a.Within [.events, .out] ks) :
    (withForward p a).Within [.events, .out] fun k => ks k ∨ k = lostKey := by
  simp only [withForward, only_look_iff, only_acts_cons, only_acts_nil, and_true, only_onlyIf_iff]
  exact fun _ => ⟨h.regs fun _ => Or.inl, fun _ _ => (within_of_onRegs (sendEvent_only p) (by decide) (by decide)).regs fun _ => Or.inr⟩

/-- Settles O7. Storing is all an accepted write does where its register's chapter sets nothing going; a header's register also
forwards its page's events. -/
theorem registerWritesStore : Obligations.RegisterWritesStore := by
  unfold Obligations.RegisterWritesStore
  refine ⟨fun s r a size v p d base h hp hd hb ht ha h1 h2 => ?_, fun s r a size v p d base h hp hd hb _ hask => ?_⟩
  · show Host.Outcome.next _ = _
    rw [access_accepted_block s r a size v p d base h hp hd ⟨hb, h1, h2⟩ ht, ha]
    rfl
  · have hw := withForward_within (ks := (· = pageKey p base)) p (look fun u => setKey (pageKey p base)
      (storedValue d (rdKey u (pageKey p base)) (v % 2 ^ (8 * size)))) (by simp)
    have hlost : pageKey p base ≠ lostKey := by
      rw [pageKey_header p base hb]; exact regKey_header_ne_lostKey p base hb
    refine ⟨_, congrArg Host.Outcome.next (access_accepted_header s r a size v p d base h hp hd hb hask), ?_, ?_, ?_, ?_, ?_⟩
    · exact (rdKey_withForward s p _ _ hlost).trans (rdKey_reg_self ..)
    · exact hw.regsKept s _ (by rintro k (rfl | rfl) <;> simp [lostKey])
    · exact hw.memKept s (by decide) (by decide) (by decide)
    · exact hw.same .tiles (by decide) s
    · exact hw.same .press (by decide) s

/-! ### Refused writes -/

/-- A refused write of a page's register is recorded, and the requester is told. -/
theorem run_writePage_refused (s : State) (r : Requester) (p : PageRef) (off x : Nat) (k : ErrCode → Act) (e : ErrCode) (he : e ≠ .ok)
    (hcode : (match regAt p.blk off with
      | none => firstErr (when (pageRetired s p) .retiredUnit ++ when (inSrst s p) .stateBusy ++ when (x != 0) .rsvdSet)
      | some (d, base) =>
        if d.fields.any (·.acc == .cmd) && r == .slaiq then .permission
        else if isReadOnly d then .ok
        else if (plainErrs s p d base x).isEmpty then firstErr (hookErrs ((hookTouch p base x).run s) p base x)
        else firstErr (plainErrs s p d base x ++ hookErrs s p base x)) = e)
    (ht : ∀ d base, regAt p.blk off = some (d, base) → (hookTouch p base x).run s = s) :
    (writePage r p off x k).run s = (k e).run ((recordReject p off e).run s) := by
  unfold writePage
  simp only [run_look]
  cases hr : regAt p.blk off with
  | none =>
    simp only [hr] at hcode ⊢
    rw [hcode, if_neg he]
    simp only [run_acts_cons, run_acts_nil]
  | some db =>
    obtain ⟨d, base⟩ := db
    have ht := ht d base hr
    simp only [hr, ht] at hcode ⊢
    by_cases h1 : (d.fields.any (·.acc == .cmd) && r == .slaiq) = true
    · rw [if_pos h1] at hcode ⊢
      subst hcode
      simp only [run_acts_cons, run_acts_nil]
    · rw [if_neg h1] at hcode ⊢
      by_cases h2 : isReadOnly d = true
      · rw [if_pos h2] at hcode; exact absurd hcode.symm he
      · rw [if_neg h2] at hcode ⊢
        have hnow : firstErr (plainErrs s p d base x ++ hookErrs s p base x) = e := by
          by_cases h3 : (plainErrs s p d base x).isEmpty = true
          · rw [if_pos h3] at hcode
            rw [List.isEmpty_iff.1 h3]; exact hcode
          · rw [if_neg h3] at hcode; exact hcode
        simp only [run_acts_cons, run_acts_nil, run_look, run_onlyIf, ht, ite_self, hnow, if_neg he]

/-- A write that is refused is recorded in its page, and the requester is told. -/
theorem access_refused (s : State) (r : Requester) (a size v : Nat) (p : PageRef) (hh : accessHeld s a = false)
    (hp : p = (pageOf s a).getD mgmtPage) (hc : writeCode s r a size v ≠ .ok)
    (ht : ∀ d base, regAt p.blk (raOff a) = some (d, base) → (hookTouch p base (v % 2 ^ (8 * size))).run s = s) :
    (access ⟨r, a, size, some v⟩).run s = (Upd.emit (.regCode r a (errNum (writeCode s r a size v)))).apply
      ((recordReject p (raOff a) (writeCode s r a size v)).run s) := by
  simp only [access, run_look, hh, Bool.false_eq_true, if_false, accessNow, writeReg]
  unfold writeCode at hc ⊢
  cases hpo : pageOf s a with
  | none =>
    rw [hpo] at hp
    subst hp
    simp only [rejectAt, hpo, run_acts_cons, run_acts_nil, run_emit]
  | some q =>
    rw [hpo] at hp
    obtain rfl : p = q := hp
    simp only [hpo] at hc ⊢
    by_cases he : firstErr (accessErrs s r a size true) = .ok
    · simp only [he, ne_eq, not_true_eq_false, if_false] at hc ⊢
      exact run_writePage_refused s r p (raOff a) _ _ _ hc rfl ht
    · simp only [ne_eq, he, not_false_eq_true, if_true, rejectAt, hpo, run_acts_cons, run_acts_nil, run_emit, Option.getD]

/-- Settles O6. The choice of R42 is a minimum by rank; a refused write records it in the header of its page, and answers it. -/
theorem rejectionIsRecorded : Obligations.RejectionIsRecorded := by
  unfold Obligations.RejectionIsRecorded
  refine ⟨fun l hl => ⟨fun h0 => by subst h0; rfl, fun h0 => ?_⟩, fun s r a size v p hh hp hc hn ht => ?_⟩
  · have hle := (foldl_worse_rank_le l .ok).2
    refine ⟨?_, fun e he => hle e he⟩
    rcases foldl_worse_mem l .ok with h | h
    · obtain ⟨e, he⟩ := List.exists_mem_of_ne_nil l h0
      have h1 := hl e he
      have h2 := hle e he
      rw [h] at h2
      omega
    · exact h
  · have hw := recordReject_within p (raOff a) (writeCode s r a size v)
    obtain ⟨hfirst, hlater, hcnt, hpend⟩ := recordReject_page p (raOff a) (writeCode s r a size v) s hn (bits_lt a 11 0)
    refine ⟨_, congrArg Host.Outcome.next (access_refused s r a size v p hh hp hc ht), hfirst, hlater, hcnt, hpend, ⟨_, rfl⟩, ?_,
      hw.memKept s (by decide) (by decide) (by decide), hw.same .tiles (by decide) s, hw.same .press (by decide) s,
      hw.same .units (by decide) s, hw.same .links (by decide) s⟩
    exact hw.regsKept s _ (by rintro k (rfl | rfl | rfl | rfl) <;> simp [lostKey, fldKey, hdrErrCode, hdrErrCnt, hdrEvtPend])

/-! ### Reads -/

/-- A read that no rule refuses reads its register and answers. -/
theorem access_readable (s : State) (r : Requester) (a size : Nat) (p : PageRef) (h : readable s r a size = true)
    (hp : pageOf s a = some p) :
    (access ⟨r, a, size, none⟩).run s = (readPage p (raOff a) fun v => emit (.regValue r a v)).run s := by
  simp only [readable, hp, Bool.and_eq_true, Bool.not_eq_true', beq_iff_eq] at h
  obtain ⟨⟨hh, he⟩, -⟩ := h
  simp only [access, run_look, hh, Bool.false_eq_true, if_false, accessNow, readReg, hp, he, ne_eq, not_true_eq_false, if_true]

/-- Settles O8, from the program of a read. -/
theorem registerReadClearsReadToClear : Obligations.RegisterReadClearsReadToClear := by
  unfold Obligations.RegisterReadClearsReadToClear
  intro s r a size p d base h hp hd
  have hrun : exec (.rcRegisterRead r a size) s = .next ((readPage p (raOff a) fun v => emit (.regValue r a v)).run s) :=
    congrArg Host.Outcome.next (access_readable s r a size p h hp)
  rw [hrun]
  refine ⟨fun hs => ?_, fun hs hb hv => ?_⟩
  · simp only [readPage, run_look, hd, hs, Bool.false_and, Bool.false_eq_true, if_false, run_acts_cons, run_acts_nil, run_onlyIf, run_emit]
    cases hview : (viewAt s p base).isNone with
    | false => rfl
    | true =>
      cases hclear : regValue s p base &&& rcMask d != 0 <;> rfl
  · have hval : regValue s p base = rdKey s (pageKey p base) := by rw [regValue, hv]; rfl
    simp only [readPage, run_look, hd, hs, hv, Option.isNone_none, decide_eq_true hb, Bool.and_self, if_true, run_withFree,
      run_acts_cons, run_acts_nil, run_onlyIf, run_emit]
    refine ⟨_, if (Config.free s.freeCtr).toNat % 2 = 1 then regValue s p base
      else (mapGet regReset s.srstOld (pageKey p base)).toNat, rfl, ?_, ?_⟩
    · cases hclear : regValue s p base &&& rcMask d != 0 <;> rfl
    · split
      · exact Or.inl hval
      · exact Or.inr rfl

/-! ### Rows of one register -/

/-- An accepted row that writes a block's register: its value is stored, and what its chapter says is set going. -/
theorem exec_row_accepted (s : State) (c : Instr) (r : Requester) (a size v : Nat) (p : PageRef) (d : RegDef) (base x : Nat)
    (hc : rowWrite s c = some (r, a, size, v)) (h : accepted s r a size v = true) (hp : pageOf s a = some p)
    (hd : regAt p.blk (raOff a) = some (d, base)) (hb : plainStore p base) (hx : v % 2 ^ (8 * size) = x)
    (ht : (hookTouch p base x).run s = s) :
    exec c s = .next (answered ((hookApply s p base x).run (stored s p d base x)) r a) := by
  subst hx
  rw [rowsThatWriteOneRegister s c _ hc]
  exact congrArg Host.Outcome.next (access_accepted_block s r a size v p d base h hp hd hb ht)

/-- What an accepted write has passed: its page is in service and in no soft reset, and its chapter's checks. -/
theorem accepted_checks (s : State) (r : Requester) (a size v : Nat) (p : PageRef) (d : RegDef) (base x : Nat)
    (h : accepted s r a size v = true) (hp : pageOf s a = some p) (hd : regAt p.blk (raOff a) = some (d, base))
    (hx : v % 2 ^ (8 * size) = x) :
    plainErrs s p d base x = [] ∧ firstErr (hookErrs ((hookTouch p base x).run s) p base x) = .ok := by
  subst hx
  simp only [accepted, hp, hd, Bool.and_eq_true, List.isEmpty_iff, Bool.not_eq_true', beq_iff_eq, writeCode] at h
  obtain ⟨⟨-, hcode⟩, hro, hplain⟩ := h
  refine ⟨hplain, ?_⟩
  by_cases he : firstErr (accessErrs s r a size true) = .ok
  · rw [if_neg (by simp [he])] at hcode
    by_cases hs : (d.fields.any fun f => f.acc == .cmd) = true ∧ r = .slaiq
    · rw [if_pos hs] at hcode; cases hcode
    · rwa [if_neg hs, hro, if_neg (by simp), if_pos hplain] at hcode
  · rw [if_pos he] at hcode; exact absurd hcode he

end Sys2Proof.Machine
end

section
/-! PROOF. Schedule entries and bubble windows (R69 to R74). -/

namespace Sys2Proof.Machine

/-! ### Fields after one operation -/

section
variable (s : State) (p : PageRef) (f g : Fld) (v i n j k m : Nat)

theorem fv_reg_congr (t : State) (h : rdKey t (fldKey g j k) = rdKey s (fldKey g j k)) : fv t g j k = fv s g j k := by
  rw [fv, h]; rfl

theorem fb_setF_self (hf : f.ok) : fb ((setF f v i n).run s) f i n = (v % 2 ^ (f.hi + 1 - f.lo) != 0) := by
  rw [fb, fv_setF_self s f v i n hf]

theorem fb_setF_other (hf : f.hi < 64) (h : fldKey g j k ≠ fldKey f i n ∨ f.hi < g.lo ∨ g.hi < f.lo) :
    fb ((setF f v i n).run s) g j k = fb s g j k := by
  rw [fb, fv_setF_other s f g v i n j k hf h]; rfl

theorem fv_incF_other (hf : f.hi < 64) (h : fldKey g j k ≠ fldKey f i n ∨ f.hi < g.lo ∨ g.hi < f.lo) :
    fv ((incF f v i n).run s) g j k = fv s g j k := by
  rw [run_incF, fv_setF_other s f g _ i n j k hf h]

/-- A counter of 32 bits stays at its largest value. -/
theorem fv_incF_word (hlo : f.lo = 0) (hhi : f.hi = 31) :
    fv ((incF f 1 i n).run s) f i n = min (2 ^ 32 - 1) (fv s f i n + 1) := by
  rw [fv_incF_self s f 1 i n ⟨by omega, by omega⟩, hlo, hhi, satAdd]

theorem fv_raiseEvt (h1 : fldKey g j k ≠ fldKey (hdrEvtPend p.blk) p.idx 0) (h2 : fldKey g j k ≠ lostKey) :
    fv ((raiseEvt p m).run s) g j k = fv s g j k :=
  (raiseEvt_within p m).fv s g j k fun h => h.elim h1 h2

theorem fb_raiseEvt (h1 : fldKey g j k ≠ fldKey (hdrEvtPend p.blk) p.idx 0) (h2 : fldKey g j k ≠ lostKey) :
    fb ((raiseEvt p m).run s) g j k = fb s g j k := by
  rw [fb, fv_raiseEvt s p g j k m h1 h2]; rfl

theorem press_raiseEvt : ((raiseEvt p m).run s).press = s.press := (raiseEvt_within p m).same .press (by decide) s

theorem press_setF : ((setF f v i n).run s).press = s.press := rfl

theorem press_incF : ((incF f v i n).run s).press = s.press := rfl

theorem bkUsed_raiseEvt : ((raiseEvt p m).run s).bkUsed = s.bkUsed := (raiseEvt_within p m).same .bkUsed (by decide) s

end

theorem fv_lt (s : State) (f : Fld) (i n : Nat) : fv s f i n < 2 ^ (f.hi + 1 - f.lo) := bits_lt ..

/-- A flag of one bit that is set reads as 1. -/
theorem fv_eq_one_of_fb {s : State} {f : Fld} {i n : Nat} (hf : f.hi = f.lo) (h : fb s f i n = true) : fv s f i n = 1 := by
  have := fv_lt s f i n
  rw [hf, show f.lo + 1 - f.lo = 1 by omega] at this
  have h0 : fv s f i n ≠ 0 := by simpa [fb] using h
  omega

/-! ### Rows of the press page -/

/-- A row that writes one of the press's registers of 4 bytes. -/
theorem exec_press_row (s : State) (c : Instr) (r : Requester) (off v : Nat) (d : RegDef)
    (hc : rowWrite s c = some (r, mgdReg 1 off, 4, v)) (h : accepted s r (mgdReg 1 off) 4 v = true)
    (hd : regAt .pres off = some (d, off)) (hlo : 0x40 ≤ off) (hhi : off < 0x310) (hv : v < 2 ^ 32) :
    exec c s = .next (answered ((presApply s off v).run (stored s presPage d off v)) r (mgdReg 1 off)) ∧
      firstErr (presErrs s off v) = .ok := by
  have hp : pageOf s (mgdReg 1 off) = some presPage := pageOf_mgdReg s 1 off (by decide) (by omega)
  have ho : raOff (mgdReg 1 off) = off := raOff_mgdReg 1 off (by decide) (by omega)
  have hr : regAt presPage.blk (raOff (mgdReg 1 off)) = some (d, off) := ho.symm ▸ hd
  have hx : v % 2 ^ (8 * 4) = v := Nat.mod_eq_of_lt hv
  have ht : (hookTouch presPage off v).run s = s := by
    simp only [hookTouch, presPage, run_look, run_onlyIf]
    rw [if_neg]
    have : (off == 0x310) = false := beq_eq_false_iff_ne.2 (by omega)
    simp [this]
  have hrow := exec_row_accepted s c r _ 4 v presPage d off v hc h hp hr ⟨hlo, by simp [presPage], by simp [presPage]⟩ hx ht
  have hchk := (accepted_checks s r _ 4 v presPage d off v h hp hr hx).2
  rw [ht] at hchk
  simp only [hookErrs, hookApply, presPage, if_neg (Nat.not_lt.2 hlo)] at hrow hchk
  exact ⟨hrow, hchk⟩

/-! ### Bubble windows (R73, R74) -/

theorem fv_stored (s : State) (p : PageRef) (d : RegDef) (base x : Nat) (f : Fld) (i n : Nat) (h : fldKey f i n = pageKey p base) :
    fv (stored s p d base x) f i n = bits (storedValue d (rdKey s (pageKey p base)) x % 2 ^ 64) f.hi f.lo := by
  rw [fv, h, rdKey_reg_self]

theorem fv_stored_other (s : State) (p : PageRef) (d : RegDef) (base x : Nat) (f : Fld) (i n : Nat) (h : fldKey f i n ≠ pageKey p base) :
    fv (stored s p d base x) f i n = fv s f i n := by
  rw [fv, rdKey_reg, if_neg h]; rfl

theorem bits_mod_two_pow (v hi lo n : Nat) (h : hi < n) : bits (v % 2 ^ n) hi lo = bits v hi lo := by
  refine Nat.eq_of_testBit_eq fun i => ?_
  rw [testBit_bits, testBit_bits, Nat.testBit_mod_two_pow]
  by_cases hi' : i < hi + 1 - lo
  · simp [hi', show lo + i < n by omega]
  · simp [hi']

/-- A field that takes writes, of the register just stored. -/
theorem fv_stored_rw (s : State) (p : PageRef) (d : RegDef) (base x : Nat) (f : Fld) (i n : Nat) (hf : f.hi < 64)
    (h : fldKey f i n = pageKey p base) (hrw : bits (storeMask d .rw) f.hi f.lo = 2 ^ (f.hi + 1 - f.lo) - 1)
    (hw1c : bits (storeMask d .w1c) f.hi f.lo = 0) : fv (stored s p d base x) f i n = bits x f.hi f.lo := by
  rw [fv_stored s p d base x f i n h, bits_mod_two_pow _ _ _ _ hf, bits_storedValue_rw d _ x _ _ hrw hw1c]

/-- BUB_CTL's register. -/
theorem regAt_bubCtl : ∃ d, regAt .pres 0x0B0 = some (d, 0x0B0) ∧
    storeMask d .rw = 2 ^ 31 + 127 * 2 ^ 16 + 65535 ∧ storeMask d .w1c = 0 := ⟨_, rfl, by decide, by decide⟩

theorem windowStart_run (s : State) (w n : Nat) (h : windowHere ((timeTo n).run s) w = true) (hw : w ∉ s.press.open_)
    (h1 : fv s PRES_BUB_START 0 w ≤ ((timeTo n).run s).press.pt) (h2 : ((timeTo n).run s).press.pt ≤ fv s PRES_BUB_END 0 w) :
    ((windowStart w n).run s).press.open_ = s.press.open_ ++ [w] := by
  have hopen : ((timeTo n).run s).press.open_ = s.press.open_ := rfl
  have hc : (windowHere ((timeTo n).run s) w && !((timeTo n).run s).press.open_.contains w &&
      decide (fv ((timeTo n).run s) PRES_BUB_START 0 w ≤ ((timeTo n).run s).press.pt) &&
        decide (((timeTo n).run s).press.pt ≤ fv ((timeTo n).run s) PRES_BUB_END 0 w)) = true := by
    have hs : fv ((timeTo n).run s) PRES_BUB_START 0 w = fv s PRES_BUB_START 0 w := rfl
    have he : fv ((timeTo n).run s) PRES_BUB_END 0 w = fv s PRES_BUB_END 0 w := rfl
    rw [h, hopen, hs, he, decide_eq_true h1, decide_eq_true h2]
    simpa using hw
  simp only [windowStart, run_acts_cons, run_acts_nil, run_look, hc, run_onlyIf_true, run_onlyIf]
  split <;> rfl

/-- Settles O14. Each row is one update of the press, or one of BUB_CTL, whose checks bound COUNT and CYCLE. -/
theorem bubbleWindowsOpenAndClose : Obligations.BubbleWindowsOpenAndClose := by
  unfold Obligations.BubbleWindowsOpenAndClose
  obtain ⟨d, hd, hrw, hw1c⟩ := regAt_bubCtl
  refine ⟨fun s r k c hk hc h => ?_, fun s r h => ?_, fun s w n => ?_, fun s w n => ?_⟩
  · have hrow : rowWrite s (.bubbleEnable r k c) = some (r, mgdReg 1 0x0B0, 4, 2 ^ 31 + k * 65536 + c) := by
      simp only [rowWrite, Nat.mod_eq_of_lt hk, Nat.mod_eq_of_lt hc]
    obtain ⟨hrun, hchk⟩ := exec_press_row s _ r 0x0B0 _ d hrow h hd (by decide) (by decide) (by omega)
    have hbit : bit (2 ^ 31 + k * 65536 + c) 31 = true := by
      simp only [bit, Nat.testBit_eq_decide_div_mod_eq, decide_eq_true_eq]; omega
    have hcount : bits (2 ^ 31 + k * 65536 + c) 22 16 = k := by simp only [bits]; omega
    have hcycle : bits (2 ^ 31 + k * 65536 + c) 15 0 = c := by simp only [bits]; omega
    have hen : bits (2 ^ 31 + k * 65536 + c) 31 31 = 1 := by simp only [bits]; omega
    have hrange : (c == 0 || decide (64 < k)) = false := by
      simp only [presErrs, bubErrs, hbit, hcount, hcycle] at hchk
      exact firstErr_when_ok (by decide) (firstErr_append_ok (firstErr_append_ok hchk).2).1
    have happly : (presApply s 0x0B0 (2 ^ 31 + k * 65536 + c)).run = id := by
      funext t
      show (bubApply (2 ^ 31 + k * 65536 + c)).run t = t
      rw [bubApply, hbit]; rfl
    rw [happly] at hrun
    simp only [Bool.or_eq_false_iff, beq_eq_false_iff_ne, decide_eq_false_iff_not] at hrange
    refine ⟨_, hrun, ?_, ?_, ?_, rfl, by omega, by omega⟩
    · refine bne_iff_ne.2 ?_
      show fv (stored s presPage d 0x0B0 _) PRES_BUB_EN ≠ 0
      rw [fv_stored_rw s presPage d 0x0B0 _ PRES_BUB_EN 0 0 (by decide) rfl (by rw [hrw]; decide) (by rw [hw1c]; decide)]
      exact hen ▸ by decide
    · exact (fv_stored_rw s presPage d 0x0B0 _ PRES_BUB_COUNT 0 0 (by decide) rfl (by rw [hrw]; decide) (by rw [hw1c]; decide)).trans hcount
    · exact (fv_stored_rw s presPage d 0x0B0 _ PRES_BUB_CYCLE 0 0 (by decide) rfl (by rw [hrw]; decide) (by rw [hw1c]; decide)).trans hcycle
  · have hk := fv_lt s PRES_BUB_COUNT 0 0
    have hc := fv_lt s PRES_BUB_CYCLE 0 0
    obtain ⟨hrun, -⟩ := exec_press_row s (.bubbleDisable r) r 0x0B0 _ d rfl h hd (by decide) (by decide)
      (by simp only [PRES_BUB_COUNT, PRES_BUB_CYCLE] at hk hc ⊢; omega)
    generalize hv : fv s PRES_BUB_COUNT * 65536 + fv s PRES_BUB_CYCLE = v at hrun
    have hlt : v < 2 ^ 31 := by simp only [PRES_BUB_COUNT, PRES_BUB_CYCLE] at hk hc hv; omega
    have hbit : bit v 31 = false := by
      simp only [bit, Nat.testBit_eq_decide_div_mod_eq, decide_eq_false_iff_not]; omega
    have happly : presApply s 0x0B0 v = updPress fun p => { p with bubOn := false, open_ := [] } := by
      show bubApply v = _
      rw [bubApply, hbit]; rfl
    rw [happly] at hrun
    refine ⟨_, hrun, ?_, rfl, rfl⟩
    refine bne_eq_false_iff_eq.2 ?_
    refine (fv_stored_rw s presPage d 0x0B0 v PRES_BUB_EN 0 0 (by decide) rfl (by rw [hrw]; decide) (by rw [hw1c]; decide)).trans ?_
    simp only [PRES_BUB_EN, bits]; omega
  · intro u h hw h1 h2
    refine ⟨_, rfl, windowStart_run s w n h hw h1 h2, ?_⟩
    simp only [windowOpen]
    rw [windowStart_run s w n h hw h1 h2]
    simp
  · intro u hw he
    refine ⟨_, rfl, ?_⟩
    have hopen : ((timeTo n).run s).press.open_ = s.press.open_ := rfl
    have hc : (((timeTo n).run s).press.open_.contains w && decide (fv ((timeTo n).run s) PRES_BUB_END 0 w < ((timeTo n).run s).press.pt)) = true := by
      have he' : fv ((timeTo n).run s) PRES_BUB_END 0 w = fv s PRES_BUB_END 0 w := rfl
      rw [hopen, he', decide_eq_true he]
      simpa using hw
    show ((windowEnd w n).run s).press.open_ = _
    simp only [windowEnd, run_acts_cons, run_acts_nil, run_look, hc, run_onlyIf_true]
    rfl

end Sys2Proof.Machine
end

section
/-! PROOF. Footprints of the shared operations: memories, notices, the fabric, tokens and units. -/

namespace Sys2Proof.Machine

/-! ### Registers of headers and of some blocks -/

/-- A register of a page's header, or any register of some blocks. -/
def hdrOr (bs : List Blk) (k : Nat) : Prop := k % 4096 < 0x40 ∨ ∃ b ∈ bs, k / 4096 / 256 = blkNum b

theorem hdrOr_mono {bs cs : List Blk} (h : ∀ b ∈ bs, b ∈ cs) (k : Nat) (hk : hdrOr bs k) : hdrOr cs k :=
  hk.imp id fun ⟨b, hb, hkb⟩ => ⟨b, h b hb, hkb⟩

theorem hdrOr_fldKey_iff {bs : List Blk} (f : Fld) (i n : Nat) (hi : i < 256) (ho : f.off + n * f.stride < 4096) :
    hdrOr bs (fldKey f i n) ↔ f.off + n * f.stride < 0x40 ∨ f.blk ∈ bs := by
  obtain ⟨h1, h2⟩ := fldKey_parts f i n hi ho
  simp only [hdrOr, h1, h2]
  refine or_congr Iff.rfl ⟨fun ⟨b, hb, h⟩ => blkNum_inj _ _ h ▸ hb, fun h => ⟨_, h, rfl⟩⟩

theorem hdrOr_header {bs : List Blk} (b : Blk) (i o : Nat) (ho : o < 0x40) : hdrOr bs (regKey b i o) := by
  refine Or.inl ?_
  unfold regKey; omega

theorem hdrOr_fldKey_header {bs : List Blk} (f : Fld) (i n : Nat) (ho : f.off + n * f.stride < 0x40) : hdrOr bs (fldKey f i n) :=
  hdrOr_header f.blk i _ ho

theorem hdrOr_fldKey {bs : List Blk} (f : Fld) (i n : Nat) (hb : f.blk ∈ bs) (hi : i < 256) (ho : f.off + n * f.stride < 4096) :
    hdrOr bs (fldKey f i n) := (hdrOr_fldKey_iff f i n hi ho).2 (Or.inr hb)

theorem not_hdrOr_fldKey {bs : List Blk} (f : Fld) (i n : Nat) (hb : f.blk ∉ bs) (hi : i < 256) (h0 : 0x40 ≤ f.off + n * f.stride)
    (ho : f.off + n * f.stride < 4096) : ¬ hdrOr bs (fldKey f i n) := by
  rw [hdrOr_fldKey_iff f i n hi ho, not_or]
  exact ⟨by omega, hb⟩

variable {ps : List Part} {bs : List Blk}

theorem raiseEvt_hdrOr (p : PageRef) (m : Nat) (he : Part.events ∈ ps) (ho : Part.out ∈ ps) (hb : Blk.slqp ∈ bs) :
    (raiseEvt p m).Within ps (hdrOr bs) := by
  refine (raiseEvt_within p m).mono (by simp [he, ho]) ?_
  rintro k (rfl | rfl)
  · exact hdrOr_fldKey_header _ _ _ (by simp [hdrEvtPend])
  · exact hdrOr_fldKey _ _ _ hb (by decide) (by decide)

theorem recordReject_hdrOr (p : PageRef) (off : Nat) (c : ErrCode) (he : Part.events ∈ ps) (ho : Part.out ∈ ps) (hb : Blk.slqp ∈ bs) :
    (recordReject p off c).Within ps (hdrOr bs) := by
  refine (recordReject_within p off c).mono (by simp [he, ho]) ?_
  rintro k (rfl | rfl | rfl | rfl)
  · exact hdrOr_fldKey_header _ _ _ (by simp [hdrErrCode])
  · exact hdrOr_fldKey_header _ _ _ (by simp [hdrErrCnt])
  · exact hdrOr_fldKey_header _ _ _ (by simp [hdrEvtPend])
  · exact hdrOr_fldKey _ _ _ hb (by decide) (by decide)

/-! ### Notices -/

/-- The registers a notice to HLTH can touch. -/
abbrev noticeKeys : Nat → Prop := hdrOr [.hlth, .slqp]

theorem healthNotice_within (n : Notice) : (healthNotice n).Within [.events, .out] noticeKeys := by
  have hev : ∀ m, (raiseEvt hlthPage m).Within [.events, .out] noticeKeys :=
    fun m => raiseEvt_hdrOr _ _ (by decide) (by decide) (by decide)
  have hf : ∀ f : Fld, ∀ n, f.blk = .hlth → f.off + n * f.stride < 4096 → noticeKeys (fldKey f 0 n) :=
    fun f n hb ho => hdrOr_fldKey f 0 n (by simp [hb]) (by decide) ho
  cases n with
  | consumed p =>
    simp only [healthNotice, only_look_iff, only_acts_cons, only_acts_nil, within_incF, within_setF, and_true]
    exact fun s => ⟨hf _ _ rfl (by decide), hf _ _ rfl (by decide), hf _ _ rfl (by decide), hf _ _ rfl (by decide),
      hf _ _ rfl (by decide), hev _⟩
  | peerLost m =>
    simp only [healthNotice, only_acts_cons, only_acts_nil, within_incF, within_setF, and_true]
    exact ⟨hf _ _ rfl (by decide), hf _ _ rfl (by decide), hf _ _ rfl (by decide), hev _⟩
  | unbacked | auditLost | remapFull | flashRo =>
    simp only [healthNotice, only_acts_cons, only_acts_nil, within_incF, and_true]
    exact ⟨hf _ _ rfl (by decide), hev _⟩

/-! ### Memories -/

/-- The parts that reading and writing a memory can touch. -/
def memParts : List Part := [.mem, .syn, .written, .free, .cands, .nv, .events, .out]

/-- The registers that reading and writing a memory can touch. -/
abbrev memKeys : Nat → Prop := hdrOr [.intg, .hlth, .slqp]

theorem memKeys_intg (f : Fld) (i n : Nat) (hb : f.blk = .intg) (hi : i < 256) (ho : f.off + n * f.stride < 4096) :
    memKeys (fldKey f i n) := hdrOr_fldKey f i n (by simp [hb]) hi ho

theorem raiseEvt_memory (p : PageRef) (m : Nat) : (raiseEvt p m).Within memParts memKeys :=
  raiseEvt_hdrOr p m (by decide) (by decide) (by decide)

theorem healthNotice_memory (n : Notice) : (healthNotice n).Within memParts memKeys :=
  (healthNotice_within n).mono (by decide) (hdrOr_mono (by decide))

theorem logEntry_within (i kind mem addr syn : Nat) (hi : i < 256) : (logEntry i kind mem addr syn).Within memParts memKeys := by
  have hl : ∀ k, k < 32 → INTG_LOG.off + k * INTG_LOG.stride < 4096 := by
    intro k hk; unfold INTG_LOG; simp only; omega
  simp only [logEntry, only_look_iff, only_acts_cons, only_acts_nil, within_setF, and_true]
  exact fun s => ⟨memKeys_intg _ _ _ rfl hi (hl _ (by omega)), memKeys_intg _ _ _ rfl hi (hl _ (by omega)),
    memKeys_intg _ _ _ rfl hi (by decide)⟩

theorem noteMark_within (u : MemUnit) : (noteMark u).Within memParts memKeys := by
  unfold noteMark
  split
  · simp only [only_look_iff, only_onlyIf_iff, only_acts_cons, only_acts_nil, within_setF, and_true]
    exact fun s _ => ⟨hdrOr_fldKey_header _ _ _ (by simp [hdrPoisoned]), raiseEvt_memory _ _⟩
  · trivial

theorem remap_within (u : MemUnit) (off : Nat) (h : u.ok) : (remap u off).Within memParts memKeys := by
  intro s
  have hi := muIntg_lt u h
  dsimp only
  split
  · trivial
  · split
    · rename_i r hr
      have hr' : r < 32 := List.mem_range.1 (List.mem_of_find?_eq_some hr)
      simp only [only_acts_cons, only_acts_nil, within_setF, only_upd_iff, Upd.within, and_true]
      exact ⟨memKeys_intg _ _ _ rfl hi (by unfold INTG_REMAP_VALID; simp only; omega),
        memKeys_intg _ _ _ rfl hi (by unfold INTG_REMAP_ADDR; simp only; omega), memKeys_intg _ _ _ rfl hi (by decide),
        by decide, logEntry_within _ _ _ _ _ hi, raiseEvt_memory _ _⟩
    · simp only [only_acts_cons, only_acts_nil, cnt, within_incF, and_true]
      exact ⟨memKeys_intg _ _ _ rfl hi (by decide), logEntry_within _ _ _ _ _ hi, raiseEvt_memory _ _, healthNotice_memory _⟩

theorem noteCE_within (u : MemUnit) (off syn : Nat) (h : u.ok) : (noteCE u off syn).Within memParts memKeys := by
  have hi := muIntg_lt u h
  simp only [noteCE, only_acts_cons, only_acts_nil, cnt, within_incF, and_true]
  refine ⟨memKeys_intg _ _ _ rfl hi (by decide), logEntry_within _ _ _ _ _ hi, raiseEvt_memory _ _, ?_⟩
  simp only [candidate, only_look_iff, only_ite_iff, only_upd_iff, Upd.within]
  exact fun s => ⟨fun _ => trivial, fun _ => ⟨fun _ => remap_within u off h, fun _ => by decide⟩⟩

theorem noteUE_within (u : MemUnit) (off syn : Nat) (h : u.ok) : (noteUE u off syn).Within memParts memKeys := by
  have hi := muIntg_lt u h
  simp only [noteUE, only_acts_cons, only_acts_nil, cnt, within_incF, and_true]
  exact ⟨memKeys_intg _ _ _ rfl hi (by decide), logEntry_within _ _ _ _ _ hi, raiseEvt_memory _ _, noteMark_within u,
    remap_within u off h⟩

theorem touchWord_within (u : MemUnit) (off : Nat) (h : u.ok) : (touchWord u off).Within memParts memKeys := by
  intro s
  dsimp only
  split
  · trivial
  · simp only [only_acts_cons, only_acts_nil, only_onlyIf_iff, only_upd_iff, Upd.within, and_true]
    exact ⟨fun _ => by decide, noteMark_within u⟩
  · simp only [only_ite_iff, only_acts_cons, only_acts_nil, only_upd_iff, Upd.within, and_true]
    exact ⟨fun _ => ⟨by decide, by decide, noteCE_within u off _ h⟩, fun _ => ⟨by decide, by decide, noteCE_within u off _ h⟩⟩
  · simp only [only_acts_cons, only_acts_nil, only_upd_iff, Upd.within, and_true]
    exact ⟨by decide, noteUE_within u off _ h⟩

theorem materialise_within (u : MemUnit) (off : Nat) : (materialise u off).Within memParts memKeys := by
  simp [materialise, Upd.within, memParts]

/-- What a read of a memory can touch. -/
theorem touch_within (u : MemUnit) (off n : Nat) (h : u.ok) : (touch u off n).Within memParts memKeys := by
  simp only [touch, only_look_iff, only_ite_iff, only_each_iff, only_acts_cons, only_acts_nil, and_true]
  exact fun s => ⟨fun _ => trivial, fun _ w _ => ⟨materialise_within u w, touchWord_within u w h⟩⟩

theorem applyFlip_within (u : MemUnit) (off : Nat) (h : u.ok) : (applyFlip u off).Within memParts memKeys := by
  have hi := muIntg_lt u h
  simp only [applyFlip, only_look_iff, only_ite_iff, only_acts_cons, only_acts_nil, within_setF, only_upd_iff, Upd.within, and_true]
  exact fun s => ⟨⟨fun _ => by decide, fun _ => by decide⟩, memKeys_intg _ _ _ rfl hi (by decide), logEntry_within _ _ _ _ _ hi,
    raiseEvt_memory _ _⟩

theorem writeSyn_within (u : MemUnit) (off : Nat) (ms : List Bool) : (writeSyn u off ms).Within memParts memKeys := by
  simp [writeSyn, Upd.within, memParts]

/-- What a write of a memory can touch. -/
theorem memWrite_within (u : MemUnit) (off : Nat) (l : List Byte) (ms : List Bool) (h : u.ok) :
    (memWrite u off l ms).Within memParts memKeys := by
  simp only [memWrite, only_ite_iff, only_look_iff, only_acts_cons, only_acts_nil, only_onlyIf_iff, only_each_iff, only_upd_iff,
    Upd.within, and_true]
  exact ⟨fun _ => trivial, fun _ s => ⟨by decide, ⟨fun _ => trivial, fun _ => writeSyn_within u off ms⟩,
    fun _ b _ => ⟨fun _ _ _ => by decide, fun _ => by decide⟩, fun _ => noteMark_within u, fun _ => applyFlip_within u off h⟩⟩

theorem memPut_within (u : MemUnit) (off : Nat) (l : List Byte) (h : u.ok) : (memPut u off l).Within memParts memKeys :=
  memWrite_within u off l _ h

theorem unwrite_within (u : MemUnit) (off n : Nat) : (unwrite u off n).Within memParts memKeys := by
  simp [unwrite, Upd.within, memParts]

theorem consume_within (p : PageRef) (addr : Nat) (h : intgOf p < 256) : (consume p addr).Within memParts memKeys := by
  simp only [consume, only_acts_cons, only_acts_nil, cnt, within_incF, and_true]
  exact ⟨raiseEvt_memory _ _, memKeys_intg _ _ _ rfl h (by decide), logEntry_within _ _ _ _ _ h, raiseEvt_memory _ _,
    healthNotice_memory _⟩

theorem refuseExport_within (i addr : Nat) (h : i < 256) : (refuseExport i addr).Within memParts memKeys := by
  simp only [refuseExport, only_acts_cons, only_acts_nil, cnt, within_incF, and_true]
  exact ⟨memKeys_intg _ _ _ rfl h (by decide), logEntry_within _ _ _ _ _ h, raiseEvt_memory _ _⟩

/-! ### The fabric -/

/-- The parts that sending over the fabric can touch. -/
def fabricParts : List Part := [.links, .tiles, .events, .out]

/-- The registers that sending over the fabric can touch. -/
abbrev fabricKeys : Nat → Prop := hdrOr [.link, .slqp]

theorem within_of_fabric {a : Act} (h : a.Only Upd.fabric) : a.Within fabricParts fabricKeys := by
  refine h.mono fun u hu => ?_
  cases u with
  | reg k v =>
    rcases hu with hu | rfl
    · exact Or.inr ⟨.link, by decide, hu⟩
    · exact hdrOr_fldKey SLQP_QCNT 0 5 (by decide) (by decide) (by decide)
  | link _ _ | tile _ _ | events _ _ | emit _ => simp [Upd.within, fabricParts]
  | _ => exact hu.elim

theorem sendMsg_within (dst : Nat) (o : Origin) (b : FabBody) : (sendMsg dst o b).Within fabricParts fabricKeys :=
  within_of_fabric (sendMsg_fabric dst o b)

theorem refuseMsg_within (m : FabMsg) (code : Nat) : (refuseMsg m code).Within fabricParts fabricKeys :=
  within_of_fabric (refuseMsg_fabric m code)

theorem forwardMsg_within (m : FabMsg) (via : Option Nat) : (forwardMsg m via).Within fabricParts fabricKeys :=
  within_of_fabric (forwardMsg_fabric m via)

theorem enqueue_within (l : Nat) (m : FabMsg) : (enqueue l m).Within fabricParts fabricKeys :=
  within_of_fabric (enqueue_fabric l m)

theorem pump_within (l n : Nat) : (pump l n).Within fabricParts fabricKeys := within_of_fabric (pump_fabric l n)

theorem raiseLinks_within (m : Nat) : (raiseLinks m).Within fabricParts fabricKeys := within_of_fabric (raiseLinks_fabric m)

theorem sendWrite_within (dst : Nat) (o : Origin) (addr : Nat) (l : List Byte) : (sendWrite dst o addr l).Within fabricParts fabricKeys := by
  simp only [sendWrite, only_each_iff]
  exact fun _ _ => sendMsg_within _ _ _

theorem sendWriteMarked_within (dst : Nat) (o : Origin) (addr : Nat) (l : List (Byte × Bool)) :
    (sendWriteMarked dst o addr l).Within fabricParts fabricKeys := by
  simp only [sendWriteMarked, only_each_iff]
  exact fun _ _ => sendMsg_within _ _ _

theorem sendRead_within (dst : Nat) (o : Origin) (addr n : Nat) : (sendRead dst o addr n).Within fabricParts fabricKeys :=
  within_of_fabric (sendRead_fabric dst o addr n)

@[simp] theorem within_updLink (i : Nat) (f : LinkSt → LinkSt) {ks : Nat → Prop} : (updLink i f).Within ps ks ↔ Part.links ∈ ps := by
  simp [updLink, Upd.within]; exact ⟨fun h => h State.reset, fun h _ => h⟩

@[simp] theorem within_updFab (f : Fab → Fab) {ks : Nat → Prop} : (updFab f).Within ps ks ↔ Part.fab ∈ ps := by
  simp [updFab, Upd.within]; exact ⟨fun h => h State.reset, fun h _ => h⟩

/-- The keys of a link's fall: the fabric's, and those of a notice. -/
abbrev fallKeys : Nat → Prop := hdrOr [.link, .hlth, .slqp]

theorem fallKeys_link (f : Fld) (i n : Nat) (hb : f.blk = .link) (hi : i < 256) (ho : f.off + n * f.stride < 4096) :
    fallKeys (fldKey f i n) := hdrOr_fldKey f i n (by simp [hb]) hi ho

theorem linkDownCore_within (l : Nat) (hl : l < 256) : (linkDownCore l).Within fabricParts fallKeys := by
  simp only [linkDownCore, only_look_iff, only_acts_cons, only_acts_nil, within_setF, cnt, within_incF, within_updLink, only_onlyIf_iff,
    only_emit_iff, only_each_iff, and_true, Upd.within]
  refine fun s => ⟨fallKeys_link _ _ _ rfl hl (by decide), fallKeys_link _ _ _ rfl hl (by decide), fallKeys_link _ _ _ rfl hl (by decide),
    fallKeys_link _ _ _ rfl hl (by decide), raiseEvt_hdrOr _ _ (by decide) (by decide) (by decide), by decide,
    fun _ => ⟨fallKeys_link _ _ _ rfl (by decide) (by decide), fun _ => by decide⟩, fun x _ =>
      ⟨fallKeys_link _ _ _ rfl (by decide) (by decide), ?_⟩, fun t _ => ?_, fun x _ => ?_⟩
  · exact (refuseMsg_within _ _).regs (hdrOr_mono (by decide))
  · exact (healthNotice_within _).mono (by decide) (hdrOr_mono (by decide))
  · exact (forwardMsg_within _ _).regs (hdrOr_mono (by decide))

/-! ### Tokens and readiness -/

theorem readySend_within : readySend.Within (.press :: fabricParts) fabricKeys := by
  simp only [readySend, only_look_iff, only_ite_iff, only_acts_cons, only_acts_nil, within_updPress, and_true]
  exact fun s => ⟨fun _ => ⟨by decide, (sendMsg_within _ _ _).mono (by decide) fun _ h => h⟩, fun _ => trivial⟩

theorem physOf_lt (s : State) (t : Nat) : physOf s t < 160 := Nat.mod_lt _ (by decide)

/-- An increment of a counter: the TILE registers of its page. -/
theorem addToken_within (phys c amt : Nat) : (addToken phys c amt).Within [.events, .out] fun k =>
    k = fldKey TILE_TOKEN phys c ∨ k = fldKey TILE_TSAT_VALID phys 0 ∨ k = fldKey TILE_TSAT_COUNTER phys 0 ∨
      k = fldKey (hdrEvtPend .tile) phys 0 ∨ k = lostKey := by
  simp only [addToken, only_look_iff, only_acts_cons, only_acts_nil, within_setF, only_onlyIf_iff, and_true]
  refine fun s => ⟨Or.inl trivial, fun _ => ⟨fun _ => ⟨by simp, by simp⟩, (raiseEvt_within (tilePg phys) _).regs ?_⟩⟩
  rintro k (rfl | rfl)
  · exact Or.inr (Or.inr (Or.inr (Or.inl rfl)))
  · exact Or.inr (Or.inr (Or.inr (Or.inr rfl)))

end Sys2Proof.Machine
end

section
/-! PROOF. The parts that the shared operations touch, whatever registers they write, and the schedule (R69 to R72). -/

namespace Sys2Proof.Machine

/-! ### Parts alone -/

/-- A program touches no part but some, and any register. -/
abbrev Act.Parts (ps : List Part) (a : Act) : Prop := a.Within ps fun _ => True

theorem Act.Within.parts {ps qs : List Part} {ks : Nat → Prop} {a : Act} (h : a.Within ps ks) (hp : ∀ x ∈ ps, x ∈ qs) : a.Parts qs :=
  h.mono hp fun _ _ => trivial

section
variable {ps : List Part}

theorem raiseEvt_parts (p : PageRef) (m : Nat) (he : Part.events ∈ ps) (ho : Part.out ∈ ps) : (raiseEvt p m).Parts ps :=
  (raiseEvt_within p m).parts (by simp [he, ho])

theorem recordReject_parts (p : PageRef) (off : Nat) (c : ErrCode) (he : Part.events ∈ ps) (ho : Part.out ∈ ps) :
    (recordReject p off c).Parts ps := (recordReject_within p off c).parts (by simp [he, ho])

theorem healthNotice_parts (n : Notice) (he : Part.events ∈ ps) (ho : Part.out ∈ ps) : (healthNotice n).Parts ps :=
  (healthNotice_within n).parts (by simp [he, ho])

theorem logEntry_parts (i kind mem addr syn : Nat) : (logEntry i kind mem addr syn).Parts ps := by simp [logEntry]

theorem noteMark_parts (u : MemUnit) : (noteMark u).Parts memParts := by
  unfold noteMark
  split
  · simpa using fun _ _ => raiseEvt_parts _ _ (by decide) (by decide)
  · trivial

theorem remap_parts (u : MemUnit) (off : Nat) : (remap u off).Parts memParts := by
  have h1 : ∀ p m, (raiseEvt p m).Parts memParts := fun p m => raiseEvt_parts p m (by decide) (by decide)
  have h2 : ∀ n, (healthNotice n).Parts memParts := fun n => healthNotice_parts n (by decide) (by decide)
  intro s
  dsimp only
  split
  · trivial
  · split <;> simp (decide := true) [cnt, h1, h2, logEntry_parts, Upd.within]

theorem touch_parts (u : MemUnit) (off n : Nat) : (touch u off n).Parts memParts := by
  have h1 : ∀ p m, (raiseEvt p m).Parts memParts := fun p m => raiseEvt_parts p m (by decide) (by decide)
  have hm : ∀ o, (materialise u o).Parts memParts := fun o => (materialise_within u o).parts fun _ h => h
  have hw : ∀ o, (touchWord u o).Parts memParts := by
    intro o s
    dsimp only
    split
    · trivial
    all_goals
      simp (decide := true) [noteCE, noteUE, candidate, cnt, h1, logEntry_parts, noteMark_parts, remap_parts, Upd.within]
  simp only [touch, only_look_iff, only_ite_iff, only_each_iff, only_acts_cons, only_acts_nil, and_true]
  exact fun s => ⟨fun _ => trivial, fun _ w _ => ⟨hm w, hw w⟩⟩

theorem memWrite_parts (u : MemUnit) (off : Nat) (l : List Byte) (ms : List Bool) : (memWrite u off l ms).Parts memParts := by
  have h1 : ∀ p m, (raiseEvt p m).Parts memParts := fun p m => raiseEvt_parts p m (by decide) (by decide)
  have hs : (writeSyn u off ms).Parts memParts := (writeSyn_within u off ms).parts fun _ h => h
  have hf : (applyFlip u off).Parts memParts := by
    simp only [applyFlip, only_look_iff, only_ite_iff, only_acts_cons, only_acts_nil, within_setF, only_upd_iff, Upd.within, and_true,
      true_and]
    exact fun s => ⟨⟨fun _ => by decide, fun _ => by decide⟩, logEntry_parts _ _ _ _ _, h1 _ _⟩
  simp only [memWrite, only_ite_iff, only_look_iff, only_acts_cons, only_acts_nil, only_onlyIf_iff, only_each_iff, only_upd_iff,
    Upd.within, and_true]
  exact ⟨fun _ => trivial, fun _ s => ⟨by decide, ⟨fun _ => trivial, fun _ => hs⟩,
    fun _ b _ => ⟨fun _ _ _ => by decide, fun _ => by decide⟩, fun _ => noteMark_parts u, fun _ => hf⟩⟩

theorem hbmPut_parts (a : Nat) (l : List Byte) : (hbmPut a l).Parts memParts := memWrite_parts _ _ l _

theorem writeLocal_parts (a : Nat) (l : List (Byte × Bool)) : (writeLocal a l).Parts memParts := by
  intro s
  dsimp only
  split
  · exact memWrite_parts _ _ _ _
  · trivial

theorem putLocal_parts (a : Nat) (l : List Byte) : (putLocal a l).Parts memParts := writeLocal_parts a _

theorem touchLocal_parts (a n : Nat) : (touchLocal a n).Parts memParts := by
  intro s
  dsimp only
  split
  · simp only [only_ite_iff, only_each_iff]
    refine ⟨fun _ => touch_parts _ _ _, fun _ w _ => ?_⟩
    split
    · split
      · exact touch_parts _ _ _
      · trivial
    · exact touch_parts _ _ _
  · trivial

theorem consume_parts (p : PageRef) (addr : Nat) : (consume p addr).Parts memParts := by
  have h1 : ∀ p m, (raiseEvt p m).Parts memParts := fun p m => raiseEvt_parts p m (by decide) (by decide)
  simp (decide := true) [consume, cnt, h1, logEntry_parts, healthNotice_parts]

theorem readRecords_parts (p : PageRef) (l : List (Nat × Nat)) : (readRecords p l).Parts memParts := by
  simp only [readRecords, only_acts_cons, only_acts_nil, only_each_iff, only_look_iff, and_true]
  refine ⟨fun _ _ => touchLocal_parts _ _, fun s => ?_⟩
  split
  · exact consume_parts _ _
  · trivial

theorem install_parts (site group h : Nat) : (install site group h).Parts memParts := by
  refine (only_seq_iff _ _ _).2 ⟨fun s => readRecords_parts _ _, fun s => ?_⟩
  simp only [only_ite_iff, only_acts_cons, only_acts_nil, only_each_iff, within_incF, putBlockSt, hbmPut_parts, and_true, implies_true]

@[simp] theorem within_updUe (site : Nat) (f : Ue → Ue) {ks : Nat → Prop} : (updUe site f).Within ps ks ↔ Part.ues ∈ ps := by
  simp [updUe, Upd.within]; exact ⟨fun h => h State.reset, fun h _ => h⟩

theorem freezeNow_parts (site : Nat) : (freezeNow site).Parts (.ues :: memParts) := by
  have hp : ∀ a l, (hbmPut a l).Parts (.ues :: memParts) := fun a l => (hbmPut_parts a l).parts fun _ => List.mem_cons_of_mem _
  simp [freezeNow, hp]

theorem freeze_parts (site g : Nat) : (freeze site g).Parts (.ues :: memParts) := by
  intro s
  dsimp only
  split
  · simp
  · split
    · split
      · simp
      · exact freezeNow_parts _
    · exact freezeNow_parts _

theorem allLinksDown_parts : allLinksDown.Parts fabricParts := by
  simp only [allLinksDown, only_look_iff, only_each_iff]
  intro s l hl
  have : l < nLinks s.build := List.mem_range.1 (List.mem_filter.1 hl).1
  exact (linkDownCore_within l (by have := nLinks_lt s.build; omega)).parts fun _ h => h

theorem siteLinksDown_parts (n : Nat) : (siteLinksDown n).Parts fabricParts := by
  simp only [siteLinksDown, only_look_iff, only_each_iff]
  intro s l hl
  have : l < nLinks s.build := List.mem_range.1 (List.mem_filter.1 hl).1
  exact (linkDownCore_within l (by have := nLinks_lt s.build; omega)).parts fun _ h => h

theorem reLevel_parts : reLevel.Parts fabricParts := by
  have h1 : ∀ p m, (raiseEvt p m).Parts fabricParts := fun p m => raiseEvt_parts p m (by decide) (by decide)
  simp [reLevel, h1, allLinksDown_parts]

theorem withUnits_parts (a : Act) (hf : ∀ x ∈ fabricParts, x ∈ ps) (h : a.Parts ps) : (withUnits a).Parts ps := by
  have h1 : ∀ p m, (raiseEvt p m).Parts ps := fun p m => raiseEvt_parts p m (hf _ (by decide)) (hf _ (by decide))
  simp [withUnits, h, h1, reLevel_parts.parts hf]

/-- The parts that a unit's retirement can touch. -/
def unitParts : List Part := .units :: fabricParts

theorem retireUnit_parts (u : UnitId) : (retireUnit u).Parts unitParts := by
  have h1 : ∀ p m, (raiseEvt p m).Parts unitParts := fun p m => raiseEvt_parts p m (by decide) (by decide)
  have hbit : (retireBit u).Parts unitParts := by cases u <;> simp [retireBit]
  have hsub : ∀ p, (substitutePend p).Parts unitParts := by
    intro p; simp [substitutePend]; exact fun s => ⟨fun _ _ _ => by decide, fun _ => by decide⟩
  simp only [retireUnit, only_look_iff, only_onlyIf_iff]
  refine fun s _ => withUnits_parts _ (by decide) ?_
  simp only [only_acts_cons, only_acts_nil, within_updUnits, within_incF, hbit, h1, and_true, true_and]
  refine ⟨by decide, ?_⟩
  cases u with
  | tile p => exact hsub p
  | linkDie n => exact (siteLinksDown_parts n).parts (by decide)
  | _ => trivial

theorem addToken_parts (phys c amt : Nat) (he : Part.events ∈ ps) (ho : Part.out ∈ ps) : (addToken phys c amt).Parts ps :=
  (addToken_within phys c amt).parts (by simp [he, ho])

theorem deliverInc_parts (t c amt : Nat) : (deliverInc t c amt).Parts unitParts := by
  simp only [deliverInc, only_look_iff, only_ite_iff, within_updUnits]
  exact fun s => ⟨fun _ => healthNotice_parts _ (by decide) (by decide), fun _ => ⟨fun _ => by decide,
    fun _ => addToken_parts _ _ _ (by decide) (by decide)⟩⟩

theorem schedEvent_parts (h v : Nat) (he : Part.events ∈ ps) (ho : Part.out ∈ ps) : (schedEvent h v).Parts ps := by
  simp [schedEvent, raiseEvt_parts, he, ho]

theorem actionFail_parts (h : Nat) (c : ErrCode) (he : Part.events ∈ ps) (ho : Part.out ∈ ps) : (actionFail h c).Parts ps := by
  simp [actionFail, raiseEvt_parts, he, ho]

/-- The parts that a schedule entry's action can touch. -/
def actionParts : List Part := .units :: .ues :: .links :: .tiles :: memParts

theorem actionApply_parts (e : SchedEntry) : (actionApply e).Parts actionParts := by
  unfold actionApply
  split
  · exact (deliverInc_parts _ _ _).parts (by decide)
  · exact (install_parts _ _ _).parts (by decide)
  · exact (freeze_parts _ _).parts (by decide)
  · exact fun s => (retireUnit_parts _).parts (by decide)
  · intro s
    simp only [laneRequest, only_acts_cons, only_acts_nil, within_updLink, only_emit_iff, Upd.within, and_true]
    decide
  · intro s
    dsimp only
    split
    · simp [proofStart]; decide
    · trivial
  · exact schedEvent_parts _ _ (by decide) (by decide)

end

/-! ### Posting and cancelling (R69 to R71) -/

/-- A full schedule has 1,024 entries: with fewer, some handle is free. -/
theorem freeHandles_ne_nil (s : State) (h : s.press.sched.length < 1024) : freeHandles s ≠ [] := by
  intro h0
  have hsub : List.range 1024 ⊆ s.press.sched.map (·.handle) := by
    intro k hk
    have hk' : k ∉ freeHandles s := by rw [h0]; exact List.not_mem_nil
    have : ¬ (s.press.sched.all fun e => e.handle != k) = true := fun ha =>
      hk' (List.mem_filter.2 ⟨hk, ha⟩)
    simp only [List.all_eq_true, bne_iff_ne, ne_eq, not_forall, not_not] at this
    obtain ⟨e, he, rfl⟩ := this
    exact List.mem_map_of_mem he
  have := (List.nodup_range.subperm hsub).length_le
  simp at this
  omega

/-- The handle that is chosen is free. -/
theorem chosen_handle_free (s : State) (v : Nat) (h : s.press.sched.length < 1024) :
    let k := (freeHandles s).getD (v % max 1 (freeHandles s).length) 0
    k < 1024 ∧ ∀ e ∈ s.press.sched, e.handle ≠ k := by
  intro k
  have hlen : 0 < (freeHandles s).length := List.length_pos_iff.2 (freeHandles_ne_nil s h)
  have hi : v % max 1 (freeHandles s).length < (freeHandles s).length := by
    have := Nat.mod_lt v (show 0 < max 1 (freeHandles s).length by omega)
    omega
  have hk : k ∈ freeHandles s := by
    have : k = (freeHandles s)[v % max 1 (freeHandles s).length] := by
      simp only [k, List.getD_eq_getElem?_getD, List.getElem?_eq_getElem hi, Option.getD_some]
    rw [this]; exact List.getElem_mem hi
  obtain ⟨h1, h2⟩ := List.mem_filter.1 hk
  refine ⟨List.mem_range.1 h1, fun e he => ?_⟩
  simpa using List.all_eq_true.1 h2 e he

theorem postApply_run (s : State) (h : s.press.sched.length < 1024) :
    let t := postApply.run s
    ∃ k, k < 1024 ∧ (∀ e ∈ s.press.sched, e.handle ≠ k) ∧ t.press.sched = s.press.sched ++ [staged s k] ∧
      fv t PRES_HANDLE = k ∧ fb t PRES_HANDLE_VALID = true := by
  intro t
  obtain ⟨h1, h2⟩ := chosen_handle_free s (Config.free s.freeCtr).toNat h
  refine ⟨_, h1, h2, rfl, ?_, ?_⟩
  · have := fv_setF_self ((setF PRES_HANDLE_VALID 1).run ((updPress fun p => { p with sched := p.sched ++ [staged s
      ((freeHandles s).getD ((Config.free s.freeCtr).toNat % max 1 (freeHandles s).length) 0)] }).run (Upd.nextFree.apply s)))
      PRES_HANDLE ((freeHandles s).getD ((Config.free s.freeCtr).toNat % max 1 (freeHandles s).length) 0) 0 0 ⟨by decide, by decide⟩
    exact this.trans (Nat.mod_eq_of_lt h1)
  · exact (fb_setF_other _ PRES_HANDLE PRES_HANDLE_VALID _ 0 0 0 0 (by decide) (by decide)).trans
      (fb_setF_self _ PRES_HANDLE_VALID 1 0 0 ⟨by decide, by decide⟩)

/-! ### Firing (R72) -/

theorem timeTo_sched (n : Nat) (s : State) : ((timeTo n).run s).press.sched = s.press.sched := rfl

/-- An entry that fires is consumed. -/
theorem fireEntry_sched (e : SchedEntry) (s : State) :
    ((fireEntry e).run s).press.sched = s.press.sched.filter fun x => x.handle != e.handle := by
  have h : (deliverAction e fun c => onlyIf (c != .ok) (actionFail e.handle c)).Parts actionParts := by
    simp only [deliverAction, only_look_iff, only_ite_iff, only_acts_cons, only_acts_nil, only_onlyIf_iff, and_true]
    exact fun s => ⟨fun _ => ⟨actionApply_parts e, fun h => absurd h (by decide)⟩,
      fun _ => ⟨recordReject_parts _ _ _ (by decide) (by decide), fun _ => actionFail_parts _ _ (by decide) (by decide)⟩⟩
  rw [fireEntry, run_acts_cons, run_acts_cons, run_acts_nil]
  exact congrArg Press.sched (h.same .press (by decide) _)

/-- A field that an event of the press leaves. -/
theorem fv_raiseEvt_press (m : Nat) (u : State) (f : Fld) (h1 : fldKey f 0 0 ≠ fldKey (hdrEvtPend .pres) 0 0)
    (h2 : fldKey f 0 0 ≠ lostKey) : fv ((raiseEvt presPage m).run u) f = fv u f :=
  fv_raiseEvt u presPage f 0 0 m h1 h2

theorem actionFail_eq (h : Nat) (c : ErrCode) (s : State) :
    (actionFail h c).run s = (raiseEvt presPage (2 ^ 21)).run (if fb s PRES_AFAIL_VALID then (setF PRES_AFAIL_MULTI 1).run s
      else (setF PRES_AFAIL_HANDLE h).run ((setF PRES_AFAIL_CODE (errNum c)).run ((setF PRES_AFAIL_VALID 1).run s))) := by
  simp only [actionFail, run_look, run_acts_cons, run_acts_nil]
  cases fb s PRES_AFAIL_VALID <;> rfl

/-- A rejection is kept as ACTION_FAIL. -/
theorem actionFail_run (h : Nat) (c : ErrCode) (s t : State) (ht : t = (actionFail h c).run s) :
    fb t PRES_AFAIL_VALID = true ∧ (fv t (hdrEvtPend .pres) 0).testBit 21 = true ∧
      (fb s PRES_AFAIL_VALID = true → fb t PRES_AFAIL_MULTI = true) ∧
      (fb s PRES_AFAIL_VALID = false → h < 1024 → errNum c < 256 → fv t PRES_AFAIL_CODE = errNum c ∧ fv t PRES_AFAIL_HANDLE = h) := by
  have hpend : (fv t (hdrEvtPend .pres) 0).testBit 21 = true := by
    rw [ht, actionFail_eq]
    exact pending_raiseEvt presPage (2 ^ 21) 21 _ (by decide) (by decide)
  cases hv : fb s PRES_AFAIL_VALID with
  | true =>
    rw [actionFail_eq, if_pos hv] at ht
    refine ⟨?_, hpend, fun _ => ?_, fun h => absurd h (by decide)⟩
    · rw [ht, fb, fv_raiseEvt_press _ _ _ (by decide) (by decide), fv_setF_other _ _ _ _ _ _ _ _ (by decide) (by decide)]
      exact hv
    · rw [ht, fb, fv_raiseEvt_press _ _ _ (by decide) (by decide), fv_setF_self _ _ _ _ _ ⟨by decide, by decide⟩]
      decide
  | false =>
    rw [actionFail_eq, if_neg (by simp [hv])] at ht
    refine ⟨?_, hpend, fun h => absurd h (by decide), fun _ hh hc => ⟨?_, ?_⟩⟩
    · rw [ht, fb, fv_raiseEvt_press _ _ _ (by decide) (by decide), fv_setF_other _ _ _ _ _ _ _ _ (by decide) (by decide),
        fv_setF_other _ _ _ _ _ _ _ _ (by decide) (by decide), fv_setF_self _ _ _ _ _ ⟨by decide, by decide⟩]
      decide
    · rw [ht, fv_raiseEvt_press _ _ _ (by decide) (by decide), fv_setF_other _ _ _ _ _ _ _ _ (by decide) (by decide),
        fv_setF_self _ _ _ _ _ ⟨by decide, by decide⟩]
      exact Nat.mod_eq_of_lt hc
    · rw [ht, fv_raiseEvt_press _ _ _ (by decide) (by decide), fv_setF_self _ _ _ _ _ ⟨by decide, by decide⟩]
      exact Nat.mod_eq_of_lt hh

theorem schedEvent_eq (h v : Nat) (s : State) :
    (schedEvent h v).run s = (raiseEvt presPage (2 ^ 22)).run (if fb s PRES_SEVT_VALID then (setF PRES_SEVT_MULTI 1).run s
      else (setF PRES_SEVT_ARG v).run ((setF PRES_SEVT_HANDLE h).run ((setF PRES_SEVT_VALID 1).run s))) := by
  simp only [schedEvent, run_look, run_acts_cons, run_acts_nil]
  cases fb s PRES_SEVT_VALID <;> rfl

/-- The EVENT action. -/
theorem schedEvent_run (h v : Nat) (s t : State) (ht : t = (schedEvent h v).run s) (hh : h < 1024) (hv : v < 2 ^ 32) :
    fb t PRES_SEVT_VALID = true ∧ (fv t (hdrEvtPend .pres) 0).testBit 22 = true ∧
      (fb s PRES_SEVT_VALID = false → fv t PRES_SEVT_HANDLE = h ∧ fv t PRES_SEVT_ARG = v) ∧
      (fb s PRES_SEVT_VALID = true → fb t PRES_SEVT_MULTI = true ∧ fv t PRES_SEVT_HANDLE = fv s PRES_SEVT_HANDLE ∧
        fv t PRES_SEVT_ARG = fv s PRES_SEVT_ARG) := by
  have hpend : (fv t (hdrEvtPend .pres) 0).testBit 22 = true := by
    rw [ht, schedEvent_eq]
    exact pending_raiseEvt presPage (2 ^ 22) 22 _ (by decide) (by decide)
  cases hval : fb s PRES_SEVT_VALID with
  | true =>
    rw [schedEvent_eq, if_pos hval] at ht
    have hother : ∀ f : Fld, fldKey f 0 0 ≠ fldKey (hdrEvtPend .pres) 0 0 → fldKey f 0 0 ≠ lostKey → f.hi < 30 ∨ 30 < f.lo →
        fv t f = fv s f := fun f h1 h2 hd => by
      rw [ht, fv_raiseEvt_press _ _ _ h1 h2, fv_setF_other _ _ _ _ _ _ _ _ (by decide) (Or.inr hd.symm)]
    refine ⟨?_, hpend, fun h => absurd h (by decide), fun _ => ⟨?_, hother _ (by decide) (by decide) (by decide),
      hother _ (by decide) (by decide) (by decide)⟩⟩
    · rw [fb, hother _ (by decide) (by decide) (by decide)]; exact hval
    · rw [ht, fb, fv_raiseEvt_press _ _ _ (by decide) (by decide), fv_setF_self _ _ _ _ _ ⟨by decide, by decide⟩]
      decide
  | false =>
    rw [schedEvent_eq, if_neg (by simp [hval])] at ht
    refine ⟨?_, hpend, fun _ => ⟨?_, ?_⟩, fun h => absurd h (by decide)⟩
    · rw [ht, fb, fv_raiseEvt_press _ _ _ (by decide) (by decide), fv_setF_other _ _ _ _ _ _ _ _ (by decide) (by decide),
        fv_setF_other _ _ _ _ _ _ _ _ (by decide) (by decide), fv_setF_self _ _ _ _ _ ⟨by decide, by decide⟩]
      decide
    · rw [ht, fv_raiseEvt_press _ _ _ (by decide) (by decide), fv_setF_other _ _ _ _ _ _ _ _ (by decide) (by decide),
        fv_setF_self _ _ _ _ _ ⟨by decide, by decide⟩]
      exact Nat.mod_eq_of_lt hh
    · rw [ht, fv_raiseEvt_press _ _ _ (by decide) (by decide), fv_setF_self _ _ _ _ _ ⟨by decide, by decide⟩]
      exact Nat.mod_eq_of_lt hv

/-- An entry whose target refuses it. -/
theorem fireEntry_rejected (e : SchedEntry) (s : State) (h : firstErr (actionErrs s e) ≠ .ok)
    (hs : ∀ l, firstErr (actionErrs { s with press := { s.press with sched := l } } e) = firstErr (actionErrs s e)) :
    ∃ u, (fireEntry e).run s = (actionFail e.handle (firstErr (actionErrs s e))).run u ∧
      fb u PRES_AFAIL_VALID = fb s PRES_AFAIL_VALID := by
  have hs := hs (s.press.sched.filter fun x => x.handle != e.handle)
  refine ⟨(recordReject (actionPage { s with press := { s.press with sched := s.press.sched.filter fun x => x.handle != e.handle } } e) 0
    (firstErr (actionErrs s e))).run { s with press := { s.press with sched := s.press.sched.filter fun x => x.handle != e.handle } }, ?_, ?_⟩
  · rw [fireEntry, run_acts_cons, run_acts_cons, run_acts_nil]
    show (deliverAction e _).run { s with press := { s.press with sched := s.press.sched.filter fun x => x.handle != e.handle } } = _
    simp only [deliverAction, run_look, hs, if_neg h, run_acts_cons, run_acts_nil]
    rw [run_onlyIf, if_pos (by simpa using h)]
  · refine ((recordReject_within _ _ _).fb _ _ _ _ ?_).trans rfl
    rintro (h | h | h | h)
    · have := congrArg (· % 4096) h
      simp [fldKey, regKey, PRES_AFAIL_VALID, hdrErrCode] at this
    · have := congrArg (· % 4096) h
      simp [fldKey, regKey, PRES_AFAIL_VALID, hdrErrCnt] at this
    · have := congrArg (· % 4096) h
      simp [fldKey, regKey, PRES_AFAIL_VALID, hdrEvtPend] at this
    · exact absurd h (by decide)

theorem actionErrs_sched (s : State) (e : SchedEntry) (l : List SchedEntry) :
    actionErrs { s with press := { s.press with sched := l } } e = actionErrs s e := rfl

/-! Answering a requester leaves the rest of the state. -/

theorem press_answered (u : State) (r : Requester) (a : Nat) : (answered u r a).press = u.press := rfl

theorem fv_answered (u : State) (r : Requester) (a : Nat) (f : Fld) (i n : Nat) : fv (answered u r a) f i n = fv u f i n := rfl

theorem fb_answered (u : State) (r : Requester) (a : Nat) (f : Fld) (i n : Nat) : fb (answered u r a) f i n = fb u f i n := rfl

/-- SCHED_POST. -/
theorem schedPost_accepted (s : State) (r : Requester) (h : accepted s r (mgdReg 1 0x098) 4 1 = true) :
    ∃ t k, exec (.schedPost r) s = .next t ∧ k < 1024 ∧ (∀ e ∈ s.press.sched, e.handle ≠ k) ∧
      t.press.sched = s.press.sched ++ [staged s k] ∧ fv t PRES_HANDLE = k ∧ fb t PRES_HANDLE_VALID = true := by
  obtain ⟨d, hd⟩ : ∃ d, regAt .pres 0x098 = some (d, 0x098) := ⟨_, rfl⟩
  obtain ⟨hrun, hchk⟩ := exec_press_row s (.schedPost r) r 0x098 1 d rfl h hd (by decide) (by decide) (by decide)
  have hb : bit 1 0 = true := by decide
  have hroom : s.press.sched.length < 1024 := by
    simp only [presErrs, hb] at hchk
    have := firstErr_when_ok (by decide) (firstErr_append_ok (firstErr_append_ok hchk).2).2
    simpa using this
  obtain ⟨k, h1, h2, h3, h4, h5⟩ := postApply_run (stored s presPage d 0x098 1) hroom
  have happly : presApply s 0x098 1 = postApply := by
    simp only [presApply, hb]; rfl
  have hst : staged (stored s presPage d 0x098 1) k = staged s k := by
    simp only [staged, fv_stored_other s presPage d 0x098 1 PRES_SCHED_W 0 0 (by decide),
      fv_stored_other s presPage d 0x098 1 PRES_SCHED_W 0 1 (by decide),
      fv_stored_other s presPage d 0x098 1 PRES_SCHED_W2 0 0 (by decide),
      fv_stored_other s presPage d 0x098 1 PRES_SCHED_W3 0 0 (by decide)]
  rw [happly] at hrun
  rw [hst] at h3
  exact ⟨_, k, hrun, h1, h2, (congrArg Press.sched (press_answered ..)).trans h3, (fv_answered ..).trans h4, (fb_answered ..).trans h5⟩

/-- SCHED_CANCEL. -/
theorem schedCancel_accepted (s : State) (r : Requester) (h : Nat) (hh : h < 1024) (hacc : accepted s r (mgdReg 1 0x0A0) 4 h = true) :
    (∃ e ∈ s.press.sched, e.handle = h) ∧
      ∃ t, exec (.schedCancel r h) s = .next t ∧ t.press.sched = s.press.sched.filter fun e => e.handle != h := by
  obtain ⟨d, hd⟩ : ∃ d, regAt .pres 0x0A0 = some (d, 0x0A0) := ⟨_, rfl⟩
  obtain ⟨hrun, hchk⟩ := exec_press_row s (.schedCancel r h) r 0x0A0 h d rfl hacc hd (by decide) (by decide) (by omega)
  have hbits : bits h 9 0 = h := by simp only [bits]; omega
  have hknown : firstErr (cancelErrs s (bits h 9 0)) = .ok := hchk
  rw [hbits] at hknown
  have happly : presApply s 0x0A0 h = cancelApply h := by
    rw [← hbits]; simp only [presApply, hbits]; rfl
  rw [happly] at hrun
  exact ⟨by simpa using firstErr_when_ok (by decide) hknown, _, hrun, rfl⟩

/-- SCHED_FIRE with an entry due. -/
theorem schedFire_due (s : State) (n : Nat) (e : SchedEntry) (he : nextEntry ((timeTo n).run s) (curInstant ((timeTo n).run s) + 1) = some e)
    (hr : reached ((timeTo n).run s) e.at_ = true) (hsr : inSrst s presPage = false) :
    (schedFire n).run s = (fireEntry e).run ((timeTo n).run s) := by
  have hc : (reached ((timeTo n).run s) e.at_ && !inSrst ((timeTo n).run s) presPage) = true := by
    rw [hr, show inSrst ((timeTo n).run s) presPage = inSrst s presPage from rfl, hsr]; rfl
  rw [schedFire, run_acts_cons, run_acts_cons, run_acts_nil, run_look]
  simp only [he]
  rw [hc, run_onlyIf_true]

/-- Settles O13. The checks of a post leave a handle free; every action leaves the schedule's other entries alone. -/
theorem scheduleTakesFiresAndCancels : Obligations.ScheduleTakesFiresAndCancels := by
  unfold Obligations.ScheduleTakesFiresAndCancels
  refine ⟨schedPost_accepted, schedCancel_accepted, fun s n e => ?_,
    fun s h v hh hv => ⟨_, rfl, schedEvent_run h v s _ rfl hh hv⟩⟩
  intro u he hr hsr
  refine ⟨_, congrArg Host.Outcome.next (schedFire_due s n e he hr hsr), fireEntry_sched e u, fun hrej => ?_⟩
  obtain ⟨w, hw, hv⟩ := fireEntry_rejected e u hrej fun l => congrArg firstErr (actionErrs_sched u e l)
  have hfail := actionFail_run e.handle (firstErr (actionErrs u e)) w _ hw
  rw [hv] at hfail
  exact hfail

end Sys2Proof.Machine
end

section
/-! PROOF. The press: beacons issued, received and lost, and the edges of impressions (R52 to R66). -/

namespace Sys2Proof.Machine

/-! ### What a change of other pages leaves -/

/-- Trained links depend on the LINK and HLTH pages and on the units. -/
theorem trainedLinks_within {ps : List Part} {bs : List Blk} {a : Act} (h : a.Within ps (hdrOr bs)) (hu : Part.units ∉ ps)
    (hl : Blk.link ∉ bs) (hh : Blk.hlth ∉ bs) (s : State) : trainedLinks (a.run s) = trainedLinks s := by
  have hunits : (a.run s).units = s.units := h.same .units hu s
  have hb := h.build s
  have hret : ∀ f : Fld, ∀ n, f.blk = .hlth → 0x40 ≤ f.off + n * f.stride → f.off + n * f.stride < 4096 →
      fv (a.run s) f 0 n = fv s f 0 n := fun f n hf h0 h1 =>
    h.fv s f 0 n (not_hdrOr_fldKey f 0 n (by rw [hf]; exact hh) (by decide) h0 h1)
  have hld : fv (a.run s) HLTH_RET_LINKDIE = fv s HLTH_RET_LINKDIE := hret _ _ rfl (by decide) (by decide)
  have hdie : ∀ n, linkDieInService (a.run s) n = linkDieInService s n := by
    intro n
    simp only [linkDieInService, unitUp, unitOk, unitRetired, hunits, hb, hld]
  have hstate : ∀ i, i < nLinks s.build → linkState (a.run s) i = linkState s i := by
    intro i hi
    have hi' : i < 256 := by have := nLinks_lt s.build; omega
    exact h.fv s _ _ _ (not_hdrOr_fldKey LINK_LSTATE i 0 hl hi' (by decide) (by decide))
  unfold trainedLinks rangeF
  rw [hb]
  refine List.filter_congr fun i hi => ?_
  rw [hstate i (List.mem_range.1 hi), hdie]

theorem nodeId_within {ps : List Part} {bs : List Blk} {a : Act} (h : a.Within ps (hdrOr bs)) (hl : Blk.link ∉ bs) (s : State) :
    nodeId (a.run s) = nodeId s :=
  h.fv s _ _ _ (not_hdrOr_fldKey LINK_NODE_ID 0 0 hl (by decide) (by decide) (by decide))

/-- The keys of the press's own registers. -/
abbrev pressKeys : Nat → Prop := hdrOr [.pres, .slqp]

theorem pressKeys_of (f : Fld) (n : Nat) (hb : f.blk = .pres) (ho : f.off + n * f.stride < 4096) : pressKeys (fldKey f 0 n) :=
  hdrOr_fldKey f 0 n (by simp [hb]) (by decide) ho

/-! ### Roles -/

/-- The registers that taking a role can touch. -/
abbrev roleKeys (k : Nat) : Prop := k ∈ [fldKey PRES_ROLE 0 0, fldKey (hdrEvtPend .pres) 0 0, lostKey]

theorem raiseEvt_press_roleKeys (m : Nat) : (raiseEvt presPage m).Within [.events, .out] roleKeys :=
  (raiseEvt_within presPage m).regs (by rintro k (rfl | rfl) <;> simp [roleKeys, presPage])

theorem setRole_within (r : Nat) : (setRole r).Within [.events, .out] roleKeys := by
  simp only [setRole, only_look_iff, only_onlyIf_iff, only_acts_cons, only_acts_nil, within_setF, and_true]
  exact fun _ _ => ⟨List.mem_cons_self .., raiseEvt_press_roleKeys _⟩

theorem roleKeys_press (k : Nat) (h : roleKeys k) : pressKeys k := by
  simp only [roleKeys, List.mem_cons, List.not_mem_nil, or_false] at h
  rcases h with rfl | rfl | rfl
  · exact pressKeys_of _ _ rfl (by decide)
  · exact pressKeys_of _ _ rfl (by decide)
  · exact hdrOr_fldKey SLQP_QCNT 0 5 (by decide) (by decide) (by decide)

theorem setRole_role (r : Nat) (s : State) (hr : r < 4) : fv ((setRole r).run s) PRES_ROLE = r := by
  simp only [setRole, run_look, run_onlyIf]
  by_cases h : fv s PRES_ROLE = r
  · rw [if_neg (by simpa using h)]; exact h
  · rw [if_pos (by simpa using h), run_acts_cons, run_acts_cons, run_acts_nil, fv_raiseEvt_press _ _ _ (by decide) (by decide),
      fv_setF_self _ _ _ _ _ ⟨by decide, by decide⟩]
    exact Nat.mod_eq_of_lt hr

/-- Taking a role takes no event away. -/
theorem setRole_pend (r : Nat) (s : State) (i : Nat) (h : pending s presPage i) : pending ((setRole r).run s) presPage i := by
  simp only [setRole, run_look, run_onlyIf]
  split
  · rw [run_acts_cons, run_acts_cons, run_acts_nil]
    simp only [pending] at h ⊢
    rw [raiseEvt_pend presPage _ _ (by decide), Nat.testBit_or, fv_setF_other _ _ _ _ _ _ _ _ (by decide) (Or.inl (by decide))]
    simp [h]
  · exact h

/-! ### Issuing a beacon -/

/-- What a master does before it latches its configuration: a generation it takes over begins. -/
def takeOver (s : State) : Act :=
  onlyIf (s.press.takeover && nextImp s == fv s PRES_ELECT_H) (acts [setF PRES_ELECT_GEN (fv s PRES_ELECT_GENF),
    updPress fun p => { p with takeover := false }])

/-- The period of the impression that a beacon names. -/
def issuedPeriod (s : State) : Nat :=
  if fb s PRES_PRESS_MODE then (if s.press.synced then s.press.elapsed + lead else fv s PRES_GATE_MIN) else fv s PRES_PERIOD

/-- The beacon that is issued. -/
def issuedBeacon (s : State) (timeout failover : Bool) : Beacon :=
  ⟨nextImp s, fb s PRES_PRESS_MODE, timeout, failover, issuedPeriod s, 0, nodeId s, 0, fv ((takeOver s).run s) PRES_ELECT_GEN⟩

/-- What issuing leaves in the press, before a master that retires steps down. -/
def issuedPress (s : State) (timeout failover : Bool) : Press :=
  { ((takeOver s).run s).press with
    cfg := ⟨fb s PRES_PRESS_MODE, fv s PRES_PERIOD, fv s PRES_GATE_MIN, fv s PRES_GATE_MAX⟩
    edge := some ⟨nextImp s, issuedPeriod s, fb s PRES_PRESS_MODE⟩
    issued := true
    fwdImp := some (nextImp s)
    lastBeacon := some (issuedBeacon s timeout failover) }

theorem takeOver_within (s : State) : (takeOver s).Within [.press] fun k => k = fldKey PRES_ELECT_GEN 0 0 := by
  simp [takeOver]

theorem takeOver_press (s t : State) : ∃ b, ((takeOver s).run t).press = { t.press with takeover := b } := by
  unfold takeOver
  rw [run_onlyIf]
  split
  · exact ⟨false, rfl⟩
  · exact ⟨t.press.takeover, rfl⟩

/-- The state in which the beacon is on its way. -/
def afterIssue (s : State) (timeout failover : Bool) : State :=
  (floodBeacon none fun _ => issuedBeacon s timeout failover).run
    { (takeOver s).run s with press := issuedPress s timeout failover }

theorem issueBeacon_run (s : State) (timeout failover : Bool) :
    (issueBeacon timeout failover).run s =
      (onlyIf (s.press.retiring && decide (fv s PRES_ELECT_H ≤ nextImp s + 1)) stepDown).run (afterIssue s timeout failover) := by
  have hkeep : ∀ f : Fld, fldKey f 0 0 ≠ fldKey PRES_ELECT_GEN 0 0 → fv ((takeOver s).run s) f = fv s f :=
    fun f hf => (takeOver_within s).fv s f 0 0 hf
  have hflag : ∀ f : Fld, fldKey f 0 0 ≠ fldKey PRES_ELECT_GEN 0 0 → fb ((takeOver s).run s) f = fb s f :=
    fun f hf => (takeOver_within s).fb s f 0 0 hf
  have hmode := hflag PRES_PRESS_MODE (by decide)
  have hper := hkeep PRES_PERIOD (by decide)
  have hmin := hkeep PRES_GATE_MIN (by decide)
  have hmax := hkeep PRES_GATE_MAX (by decide)
  have hnode : nodeId ((takeOver s).run s) = nodeId s := hkeep LINK_NODE_ID (by decide)
  obtain ⟨b, hp⟩ := takeOver_press s s
  have hsync : ((takeOver s).run s).press.synced = s.press.synced := by rw [hp]
  have hel : ((takeOver s).run s).press.elapsed = s.press.elapsed := by rw [hp]
  have hlatch : latchCfg.run ((takeOver s).run s) = { (takeOver s).run s with press := { ((takeOver s).run s).press with
      cfg := ⟨fb s PRES_PRESS_MODE, fv s PRES_PERIOD, fv s PRES_GATE_MIN, fv s PRES_GATE_MAX⟩ } } := by
    rw [← hmode, ← hper, ← hmin, ← hmax]; rfl
  rw [issueBeacon, run_look, run_acts_cons, run_acts_cons, run_acts_cons, run_acts_cons, run_acts_nil]
  refine congrArg (Act.run _) ?_
  rw [show (onlyIf _ _ : Act) = takeOver s from rfl, hlatch, run_look, run_acts_cons, run_acts_cons, run_acts_nil]
  have hnode' : ∀ q, nodeId { (takeOver s).run s with press := q } = nodeId ((takeOver s).run s) := fun _ => rfl
  have hgen' : ∀ q, fv { (takeOver s).run s with press := q } PRES_ELECT_GEN = fv ((takeOver s).run s) PRES_ELECT_GEN := fun _ => rfl
  have hperiod : (if fb s PRES_PRESS_MODE = true then (if ((takeOver s).run s).press.synced = true then
      ((takeOver s).run s).press.elapsed + lead else fv s PRES_GATE_MIN) else fv s PRES_PERIOD) = issuedPeriod s := by
    rw [hsync, hel]; rfl
  simp only [hnode', hgen', hnode, hperiod]
  rfl

/-- Sending beacons changes nothing but what is sent. -/
theorem floodBeacon_within (x : Option Nat) (b : Nat → Beacon) : (floodBeacon x b).Within [.out] fun _ => False := by
  simp [floodBeacon, Upd.within]

theorem floodBeacon_sends (x : Option Nat) (b : Nat → Beacon) (s : State) (l : Nat) (hl : l ∈ trainedLinks s) (hx : x ≠ some l) :
    OutMsg.beacon l (b l) ∈ ((floodBeacon x b).run s).out := by
  simp only [floodBeacon, run_look]
  exact mem_out_each _ (fun l => .beacon l (b l)) s l (List.mem_filter.2 ⟨hl, by simpa using hx⟩)

theorem afterIssue_press (s : State) (timeout failover : Bool) : (afterIssue s timeout failover).press = issuedPress s timeout failover :=
  (floodBeacon_within _ _).same .press (by decide) _

theorem afterIssue_fv (s : State) (timeout failover : Bool) (f : Fld) (hf : fldKey f 0 0 ≠ fldKey PRES_ELECT_GEN 0 0) :
    fv (afterIssue s timeout failover) f = fv s f :=
  ((floodBeacon_within _ _).fv _ f 0 0 id).trans ((takeOver_within s).fv s f 0 0 hf)

theorem afterIssue_sends (s : State) (timeout failover : Bool) (l : Nat) (hl : l ∈ trainedLinks s) :
    OutMsg.beacon l (issuedBeacon s timeout failover) ∈ (afterIssue s timeout failover).out := by
  refine floodBeacon_sends none _ _ l ?_ (by simp)
  have : trainedLinks ((takeOver s).run s) = trainedLinks s :=
    trainedLinks_within ((takeOver_within s).regs (ls := pressKeys) (by rintro k rfl; exact pressKeys_of _ _ rfl (by decide)))
      (by decide) (by decide) (by decide) s
  exact this.symm ▸ hl

theorem stepDown_within : stepDown.Within [.press, .events, .out] roleKeys := by
  simp only [stepDown, only_look_iff, only_acts_cons, only_acts_nil, within_updPress, and_true]
  exact fun s => ⟨by decide, (setRole_within _).mono (by decide) fun _ h => h⟩

theorem stepDown_press (s : State) : (stepDown.run s).press = { s.press with retiring := false } := by
  simp only [stepDown, run_look, run_acts_cons, run_acts_nil]
  exact (setRole_within _).same .press (by decide) _

theorem stepDown_pend (s : State) (i : Nat) (h : pending s presPage i) : pending (stepDown.run s) presPage i := by
  simp only [stepDown, run_look, run_acts_cons, run_acts_nil]
  exact setRole_pend _ _ i h

/-- What a beacon's issue leaves: its press, but for RETIRING; registers but for ROLE and ELECT_GEN; and the beacons sent. -/
theorem issueBeacon_state (s : State) (timeout failover : Bool) :
    let t := (issueBeacon timeout failover).run s
    (∃ r, t.press = { issuedPress s timeout failover with retiring := r }) ∧
      (∀ f : Fld, ¬ roleKeys (fldKey f 0 0) → fv t f = fv (afterIssue s timeout failover) f) ∧
      (s.press.retiring = false → fv t PRES_ROLE = fv s PRES_ROLE) ∧
      (∀ l ∈ trainedLinks s, .beacon l (issuedBeacon s timeout failover) ∈ t.out) ∧
      ∀ i, pending s presPage i → pending t presPage i := by
  intro t
  have ht : t = (onlyIf (s.press.retiring && decide (fv s PRES_ELECT_H ≤ nextImp s + 1)) stepDown).run (afterIssue s timeout failover) :=
    issueBeacon_run s timeout failover
  have hpend : ∀ i, pending s presPage i → pending (afterIssue s timeout failover) presPage i := by
    intro i hi
    have := afterIssue_fv s timeout failover (hdrEvtPend .pres) (by decide)
    simp only [pending] at hi ⊢
    exact (congrArg (Nat.testBit · i) this).trans hi
  rw [run_onlyIf] at ht
  split at ht
  · rename_i hc
    refine ⟨⟨false, ?_⟩, fun f hf => ?_, fun hr => ?_, fun l hl => ?_, fun i hi => ?_⟩
    · rw [ht, stepDown_press, afterIssue_press]
    · rw [ht]; exact stepDown_within.fv _ f 0 0 hf
    · rw [hr] at hc; simp at hc
    · rw [ht]; exact out_mono _ _ _ (afterIssue_sends s timeout failover l hl)
    · rw [ht]; exact stepDown_pend _ i (hpend i hi)
  · refine ⟨⟨(issuedPress s timeout failover).retiring, ?_⟩, fun f _ => ?_, fun _ => ?_, fun l hl => ?_, fun i hi => ?_⟩
    · rw [ht]; exact afterIssue_press s timeout failover
    · rw [ht]
    · rw [ht]; exact afterIssue_fv s timeout failover PRES_ROLE (by decide)
    · rw [ht]; exact afterIssue_sends s timeout failover l hl
    · rw [ht]; exact hpend i hi

end Sys2Proof.Machine
end

section
/-! PROOF. The rows of the press: BEACON_ISSUE, GATE_TIMEOUT, BEACON_LOSS, BEACON_RECEIVE, IMPRESSION_EDGE. -/

namespace Sys2Proof.Machine

/-! ### BEACON_ISSUE, GATE_TIMEOUT and BEACON_LOSS (R56, R60, R66) -/

/-- The condition under which a beacon is issued on time. -/
theorem beaconIssue_run (s : State) (e : Nat) (hr : fv s PRES_ROLE = roleMaster) (hs : s.press.synced = true)
    (hi : s.press.issued = false) (he : s.press.edge = none)
    (hdue : if s.press.cfg.gated then treeReady s = true ∧ s.press.cfg.gateMin ≤ max s.press.elapsed e + lead
      else s.press.cfg.period ≤ max s.press.elapsed e + lead) :
    (beaconIssue e).run s = (issueBeacon false false).run ((timeTo e).run s) := by
  rw [beaconIssue, run_acts_cons, run_acts_cons, run_acts_nil, run_look]
  generalize hu : (timeTo e).run s = u
  have hp : u.press.synced = true ∧ u.press.issued = false ∧ u.press.edge = none ∧ u.press.cfg = s.press.cfg ∧
      u.press.elapsed = max s.press.elapsed e := by subst hu; exact ⟨hs, hi, he, rfl, rfl⟩
  obtain ⟨h1, h2, h3, h4, h5⟩ := hp
  have hready : treeReady u = treeReady s := by subst hu; rfl
  have hrole : fv u PRES_ROLE = roleMaster := by subst hu; exact hr
  have hc : (if u.press.cfg.gated = true then treeReady u && decide (u.press.cfg.gateMin ≤ u.press.elapsed + lead)
      else decide (u.press.cfg.period ≤ u.press.elapsed + lead)) = true := by
    rw [h4, h5, hready]
    split at hdue <;> rename_i hg
    · rw [if_pos hg, hdue.1, decide_eq_true hdue.2]; rfl
    · rw [if_neg hg, decide_eq_true hdue]
  simp only [hrole, h1, h2, h3, hc]
  rfl

/-- The condition under which a gate times out. -/
theorem gateTimeout_run (s : State) (e : Nat) (hr : fv s PRES_ROLE = roleMaster) (hs : s.press.synced = true)
    (hi : s.press.issued = false) (he : s.press.edge = none) (hg : s.press.cfg.gated = true) (hn : treeReady s = false)
    (hmax : s.press.cfg.gateMax ≤ max s.press.elapsed e + lead) :
    (gateTimeout e).run s = (raiseEvt presPage (2 ^ 19)).run ((incF PRES_CNT_GATE_TIMEOUT).run
      ((issueBeacon true false).run ((timeTo e).run s))) := by
  rw [gateTimeout, run_acts_cons, run_acts_cons, run_acts_nil, run_look]
  generalize hu : (timeTo e).run s = u
  have hp : u.press.synced = true ∧ u.press.issued = false ∧ u.press.edge = none ∧ u.press.cfg = s.press.cfg ∧
      u.press.elapsed = max s.press.elapsed e := by subst hu; exact ⟨hs, hi, he, rfl, rfl⟩
  obtain ⟨h1, h2, h3, h4, h5⟩ := hp
  have hready : treeReady u = false := by subst hu; exact hn
  have hrole : fv u PRES_ROLE = roleMaster := by subst hu; exact hr
  simp only [hrole, h1, h2, h3, h4, h5, hg, hready, decide_eq_true hmax]
  simp only [roleMaster, beq_self_eq_true, Bool.not_false, Option.isNone_none, Bool.and_true, run_onlyIf_true, run_acts_cons, run_acts_nil]

/-- What a master's beacon says, where no period is open. -/
theorem issued_sends (s : State) (timeout : Bool) (e : Nat) (hs : s.press.synced = true) (t : State)
    (hpress : ∃ r, t.press = { issuedPress ((timeTo e).run s) timeout false with retiring := r })
    (hout : ∀ l ∈ trainedLinks s, OutMsg.beacon l (issuedBeacon ((timeTo e).run s) timeout false) ∈ t.out) :
    let now := max s.press.elapsed e
    let period := if fb s PRES_PRESS_MODE then now + lead else fv s PRES_PERIOD
    let b := issuedBeacon ((timeTo e).run s) timeout false
    b.timeout = timeout ∧ b.impression = s.press.imp + 1 ∧ b.gated = fb s PRES_PRESS_MODE ∧ b.failover = false ∧ b.periodNs = period ∧
      b.accDelay = 0 ∧ b.hops = 0 ∧ b.master = nodeId s ∧ t.press.lastBeacon = some b ∧ t.press.issued = true ∧
      t.press.edge = some ⟨s.press.imp + 1, period, fb s PRES_PRESS_MODE⟩ ∧ ∀ l ∈ trainedLinks s, .beacon l b ∈ t.out := by
  intro now period b
  have hnext : nextImp ((timeTo e).run s) = s.press.imp + 1 := if_pos hs
  have hper : issuedPeriod ((timeTo e).run s) = period := by
    show (if fb s PRES_PRESS_MODE = true then (if s.press.synced = true then now + lead else fv s PRES_GATE_MIN) else fv s PRES_PERIOD) = _
    rw [if_pos hs]
  obtain ⟨r, hr⟩ := hpress
  refine ⟨rfl, hnext, rfl, rfl, hper, rfl, rfl, rfl, by rw [hr]; rfl, by rw [hr]; rfl, ?_, hout⟩
  rw [hr]
  show some (EdgePlan.mk _ _ _) = _
  rw [hnext, hper]; rfl

/-- The state of a backup that becomes master, when it issues. -/
def backupIssues (u : State) : State :=
  (setF PRES_ELECT_GEN ((fv u PRES_ELECT_GEN + 1) % 2 ^ 32)).run ((setRole roleMaster).run ((raiseEvt presPage (2 ^ 17)).run
    ((updPress fun p => { p with held := true, pt := 65535 }).run u)))

theorem backupIssues_press (u : State) : (backupIssues u).press = { u.press with held := true, pt := 65535 } := by
  rw [backupIssues, press_setF]
  exact ((setRole_within _).same .press (by decide) _).trans (press_raiseEvt _ _ _)

theorem backupIssues_within (u : State) : ∃ a : Act, a.Within [.press, .events, .out] pressKeys ∧ backupIssues u = a.run u := by
  refine ⟨acts [updPress fun p => { p with held := true, pt := 65535 }, raiseEvt presPage (2 ^ 17), setRole roleMaster,
    setF PRES_ELECT_GEN ((fv u PRES_ELECT_GEN + 1) % 2 ^ 32)], ?_, ?_⟩
  · simp only [only_acts_cons, only_acts_nil, within_updPress, within_setF, and_true]
    exact ⟨by decide, raiseEvt_hdrOr _ _ (by decide) (by decide) (by decide), (setRole_within _).mono (by decide) roleKeys_press,
      pressKeys_of _ _ rfl (by decide)⟩
  · simp only [run_acts_cons, run_acts_nil, backupIssues]

theorem backupIssues_pend (u : State) : pending (backupIssues u) presPage 17 := by
  rw [backupIssues]
  simp only [pending]
  rw [fv_setF_other _ _ _ _ _ _ _ _ (by decide) (Or.inl (by decide))]
  exact setRole_pend _ _ 17 (pending_raiseEvt presPage (2 ^ 17) 17 _ (by decide) (by decide))

/-- The condition under which a beacon is lost. -/
theorem beaconLoss_run (s : State) (e : Nat) (hr : fv s PRES_ROLE = roleFollower ∨ fv s PRES_ROLE = roleBackup) (hh : s.press.heard = true)
    (hs : s.press.synced = true) (he : s.press.edge = none) (hd : s.press.held = false)
    (ht : (if s.press.gated then fv s PRES_GATE_MAX else fv s PRES_PERIOD_CUR) + 2000 ≤ max s.press.elapsed e) :
    (beaconLoss e).run s = (onlyIf (fv s PRES_ROLE == roleBackup) (acts [setRole roleMaster,
      setF PRES_ELECT_GEN ((fv s PRES_ELECT_GEN + 1) % 2 ^ 32), issueBeacon false true, incF PRES_CNT_FAILOVER])).run
        ((raiseEvt presPage (2 ^ 17)).run ((updPress fun p => { p with held := true, pt := 65535 }).run ((timeTo e).run s))) := by
  rw [beaconLoss, run_acts_cons, run_acts_cons, run_acts_nil, run_look]
  generalize hu : (timeTo e).run s = u
  have hp : u.press.synced = true ∧ u.press.heard = true ∧ u.press.edge = none ∧ u.press.held = false ∧ u.press.gated = s.press.gated ∧
      u.press.elapsed = max s.press.elapsed e := by subst hu; exact ⟨hs, hh, he, hd, rfl, rfl⟩
  obtain ⟨h1, h2, h3, h4, h5, h6⟩ := hp
  have hf : ∀ f : Fld, fv u f = fv s f := fun f => by subst hu; rfl
  have hrole : (fv s PRES_ROLE == roleFollower || fv s PRES_ROLE == roleBackup) = true := by
    rcases hr with h | h <;> rw [h] <;> rfl
  simp only [hf, h1, h2, h3, h4, h5, h6, hrole, decide_eq_true ht]
  simp only [Bool.not_false, Option.isNone_none, Bool.and_true, run_onlyIf_true, run_acts_cons, run_acts_nil]

/-- A follower that misses a beacon holds its point. -/
theorem beaconLoss_follower (u : State) :
    let t := (raiseEvt presPage (2 ^ 17)).run ((updPress fun p => { p with held := true, pt := 65535 }).run u)
    t.press = { u.press with held := true, pt := 65535 } ∧ pending t presPage 17 ∧ fv t PRES_ROLE = fv u PRES_ROLE :=
  ⟨press_raiseEvt _ _ _, pending_raiseEvt presPage (2 ^ 17) 17 _ (by decide) (by decide),
    fv_raiseEvt_press _ _ _ (by decide) (by decide)⟩

/-- A backup that misses a beacon becomes master, and issues. -/
theorem beaconLoss_backup (u : State) (hs : u.press.synced = true) :
    let t := (incF PRES_CNT_FAILOVER).run ((issueBeacon false true).run (backupIssues u))
    (t.press.held = true ∧ t.press.pt = 65535 ∧ t.press.imp = u.press.imp ∧ pending t presPage 17) ∧
      (u.press.takeover = false → u.press.retiring = false →
        fv t PRES_ROLE = roleMaster ∧ fv t PRES_ELECT_GEN = (fv u PRES_ELECT_GEN + 1) % 2 ^ 32 ∧
        fv t PRES_CNT_FAILOVER = min (2 ^ 32 - 1) (fv u PRES_CNT_FAILOVER + 1) ∧
        ∃ b, t.press.lastBeacon = some b ∧ b.failover = true ∧ b.impression = u.press.imp + 1 ∧
          b.gen = (fv u PRES_ELECT_GEN + 1) % 2 ^ 32 ∧ b.master = nodeId u ∧ ∀ l ∈ trainedLinks u, .beacon l b ∈ t.out) := by
  obtain ⟨a, ha, hav⟩ := backupIssues_within u
  have hpress := backupIssues_press u
  have hpend := backupIssues_pend u
  have hlinks : trainedLinks (backupIssues u) = trainedLinks u := by
    rw [hav]; exact trainedLinks_within ha (by decide) (by decide) (by decide) u
  have hnode : nodeId (backupIssues u) = nodeId u := by rw [hav]; exact nodeId_within ha (by decide) u
  have hrole : fv (backupIssues u) PRES_ROLE = roleMaster := by
    rw [backupIssues, fv_setF_other _ _ _ _ _ _ _ _ (by decide) (by decide), setRole_role _ _ (by decide)]
  have hgen : fv (backupIssues u) PRES_ELECT_GEN = (fv u PRES_ELECT_GEN + 1) % 2 ^ 32 := by
    rw [backupIssues, fv_setF_self _ _ _ _ _ ⟨by decide, by decide⟩]
    exact Nat.mod_mod ..
  have hcnt : fv (backupIssues u) PRES_CNT_FAILOVER = fv u PRES_CNT_FAILOVER := by
    rw [backupIssues, fv_setF_other _ _ _ _ _ _ _ _ (by decide) (by decide), (setRole_within _).fv _ _ _ _ (by decide),
      fv_raiseEvt_press _ _ _ (by decide) (by decide)]
    rfl
  generalize backupIssues u = v at *
  intro t
  obtain ⟨⟨r, hp⟩, hregs, hkrole, hsent, hpends⟩ := issueBeacon_state v false true
  obtain ⟨tk, htk⟩ := takeOver_press v v
  have htp : t.press = ((issueBeacon false true).run v).press := press_incF _ _ _ _ _
  have hnext : nextImp v = u.press.imp + 1 := by
    rw [nextImp, hpress]
    exact if_pos hs
  refine ⟨⟨?_, ?_, ?_, ?_⟩, fun hto hrt => ?_⟩
  · rw [htp, hp]; show ((takeOver v).run v).press.held = true; rw [htk, hpress]
  · rw [htp, hp]; show ((takeOver v).run v).press.pt = 65535; rw [htk, hpress]
  · rw [htp, hp]; show ((takeOver v).run v).press.imp = _; rw [htk, hpress]
  · have := hpends 17 hpend
    simp only [pending] at this ⊢
    rw [fv_incF_other _ _ _ _ _ _ _ _ (by decide) (Or.inl (by decide))]
    exact this
  · have hvt : v.press.takeover = false := by rw [hpress]; exact hto
    have hvr : v.press.retiring = false := by rw [hpress]; exact hrt
    have htake : (takeOver v).run v = v := by
      rw [takeOver, hvt]; rfl
    have hgenb : fv ((takeOver v).run v) PRES_ELECT_GEN = (fv u PRES_ELECT_GEN + 1) % 2 ^ 32 := by rw [htake, hgen]
    refine ⟨?_, ?_, ?_, issuedBeacon v false true, ?_, rfl, hnext, hgenb, hnode, fun l hl => ?_⟩
    · rw [fv_incF_other _ _ _ _ _ _ _ _ (by decide) (by decide), hkrole hvr, hrole]
    · rw [fv_incF_other _ _ _ _ _ _ _ _ (by decide) (by decide), hregs _ (by decide)]
      exact ((floodBeacon_within _ _).fv _ _ _ _ id).trans hgenb
    · rw [fv_incF_word _ _ _ _ rfl rfl, hregs _ (by decide), afterIssue_fv _ _ _ _ (by decide), hcnt]
    · rw [htp, hp]; rfl
    · exact out_mono (incF PRES_CNT_FAILOVER) _ _ (hsent l (hlinks.symm ▸ hl))

/-- Settles O10, from the program of a beacon's issue. -/
theorem masterIssuesAndIsReplaced : Obligations.MasterIssuesAndIsReplaced := by
  unfold Obligations.MasterIssuesAndIsReplaced
  refine ⟨fun s e hr hs hi he => ⟨fun hdue => ?_, fun hg hn hmax => ?_⟩, fun s e hr hh hs he hd ht => ?_⟩
  · obtain ⟨hp, -, -, hsent, -⟩ := issueBeacon_state ((timeTo e).run s) false false
    obtain ⟨h0, hrest⟩ := issued_sends s false e hs _ hp hsent
    exact ⟨_, _, congrArg Host.Outcome.next (beaconIssue_run s e hr hs hi he hdue), h0, hrest⟩
  · obtain ⟨⟨r, hp⟩, hregs, -, hsent, -⟩ := issueBeacon_state ((timeTo e).run s) true false
    have hpress : ((raiseEvt presPage (2 ^ 19)).run ((incF PRES_CNT_GATE_TIMEOUT).run
        ((issueBeacon true false).run ((timeTo e).run s)))).press = ((issueBeacon true false).run ((timeTo e).run s)).press :=
      press_raiseEvt _ _ _
    obtain ⟨h0, hrest⟩ := issued_sends s true e hs _ ⟨r, hpress.trans hp⟩ fun l hl =>
      out_mono (raiseEvt presPage (2 ^ 19)) _ _ (out_mono (incF PRES_CNT_GATE_TIMEOUT) _ _ (hsent l hl))
    refine ⟨_, _, congrArg Host.Outcome.next (gateTimeout_run s e hr hs hi he hg hn hmax), h0, hrest, ?_,
      pending_raiseEvt presPage (2 ^ 19) 19 _ (by decide) (by decide)⟩
    rw [fv_raiseEvt_press _ _ _ (by decide) (by decide), fv_incF_word _ _ _ _ rfl rfl, hregs _ (by decide),
      afterIssue_fv _ _ _ _ (by decide)]
    rfl
  · have hrun := beaconLoss_run s e hr hh hs he hd ht
    generalize hu : (timeTo e).run s = u at hrun
    have hup : u.press.synced = true ∧ u.press.edge = none ∧ u.press.imp = s.press.imp ∧ u.press.takeover = s.press.takeover ∧
        u.press.retiring = s.press.retiring := by subst hu; exact ⟨hs, he, rfl, rfl, rfl⟩
    obtain ⟨h1, h2, h3, h4, h5⟩ := hup
    have hf : ∀ f : Fld, fv u f = fv s f := fun f => by subst hu; rfl
    have hn : nodeId u = nodeId s := hf _
    have hl : trainedLinks u = trainedLinks s := by subst hu; rfl
    rcases hr with hr | hr
    · rw [hr, show (roleFollower == roleBackup) = false from rfl, run_onlyIf, if_neg (by decide)] at hrun
      obtain ⟨hp, hpend, hrole⟩ := beaconLoss_follower u
      refine ⟨_, congrArg Host.Outcome.next hrun, by rw [hp], by rw [hp], by rw [hp]; exact h3, hpend, fun _ => ⟨?_, by rw [hp]; exact h2⟩,
        fun h => absurd (hr.symm.trans h) (by decide)⟩
      rw [hrole, hf, hr]
    · rw [hr, show (roleBackup == roleBackup) = true from rfl, run_onlyIf_true] at hrun
      simp only [run_acts_cons, run_acts_nil, ← hf PRES_ELECT_GEN] at hrun
      obtain ⟨⟨hheld, hpt, himp, hpend⟩, htake⟩ := beaconLoss_backup u h1
      refine ⟨_, congrArg Host.Outcome.next hrun, hheld, hpt, himp.trans h3, hpend, fun h => absurd (hr.symm.trans h) (by decide),
        fun _ hto hrt => ?_⟩
      have := htake (h4.trans hto) (h5.trans hrt)
      rw [hf, hf, h3, hn, hl] at this
      exact this

end Sys2Proof.Machine
end

section
/-! PROOF. A beacon received (R62 to R64), and the edge of an impression (R52, R53). -/

namespace Sys2Proof.Machine

/-! ### Running a program step by step

These say what laws of the programs say, as steps of rewriting that are never unfolded when a long program is checked. -/

theorem runs_nil (s : State) : (acts []).run s = s := (rfl)

theorem runs_look (k : State → Act) (s : State) : (look k).run s = (k s).run s := (rfl)

theorem runs_true (a : Act) (s : State) : (onlyIf true a).run s = a.run s := (rfl)

theorem runs_false (a : Act) (s : State) : (onlyIf false a).run s = s := (rfl)

theorem runs_done (s : State) : Act.done.run s = s := (rfl)

/-! ### BEACON_RECEIVE -/

/-- A beacon as it goes on from the link it came over. -/
def passedOn (s : State) (l : Nat) (b : Beacon) : Beacon :=
  { b with accDelay := (b.accDelay + fv s LINK_LDELAY l + 60000) % 2 ^ 32, hops := min 255 (b.hops + 1) }

/-- The beacon comes too late for its edge. -/
def beaconLate (s : State) (l : Nat) (b : Beacon) : Bool := decide (lead * 1000 ≤ b.accDelay + fv s LINK_LDELAY l)

theorem passedOn_hops (s : State) (l : Nat) (b : Beacon) : (passedOn s l b).hops = min 255 (b.hops + 1) := by
  unfold passedOn; rfl

/-- The generation and the role that an accepted beacon brings. -/
def adoptGen (s : State) (b : Beacon) : Act := acts [
  onlyIf (decide (fv s PRES_ELECT_GEN < b.gen)) (acts [setF PRES_ELECT_GEN b.gen,
    onlyIf (decide (roleBackup ≤ fv s PRES_ROLE) &&
        !(b.gen == fv s PRES_ELECT_GENF && (namedMaster s || namedBackup s))) (setRole roleFollower)]),
  onlyIf (unsync s) (setRole (if namedBackup s && b.gen == fv s PRES_ELECT_GENF then roleBackup else roleFollower))]

/-- What the beacon leaves in the registers that describe it. -/
def recordBeacon (s : State) (l : Nat) (b : Beacon) : Act := acts [
  setF PRES_BEACON_LATE (b2n (beaconLate s l b)), setF PRES_BEACON_HOPS (min 255 (b.hops + 1)), setF PRES_BEACON_LINK l,
  onlyIf (beaconLate s l b) (acts [incF PRES_CNT_BEACON_LATE, raiseEvt presPage (2 ^ 18)])]

/-- The edge it names, and its way on. -/
def passBeacon (s : State) (l : Nat) (b : Beacon) : Act := acts [
  updPress fun p => { p with
    heard := true
    edge := some ⟨b.impression, b.periodNs, b.gated⟩
    fwdImp := some b.impression
    lastBeacon := some (passedOn s l b) },
  floodBeacon (some l) fun _ => passedOn s l b]

/-- A master named for the impression to come starts. -/
def startNamed : Act :=
  look fun t => onlyIf (t.press.takeover && handoverDue t && fv t PRES_ROLE != roleMaster) startMaster

theorem beaconReceive_run (s : State) (l : Nat) (b : Beacon) (hl : linkState s l = 2) (ha : beaconAccepted s b = true)
    (ho : beaconOld s b = false) :
    (beaconReceive l b).run s = startNamed.run ((passBeacon s l b).run ((recordBeacon s l b).run ((adoptGen s b).run s))) := by
  have hc : (linkState s l != 2 || !beaconAccepted s b || beaconOld s b) = false := by rw [hl, ha, ho]; rfl
  rw [beaconReceive, run_look, hc]
  simp only [Bool.false_eq_true, if_false, run_acts_cons, runs_nil, adoptGen, recordBeacon, passBeacon]
  rfl

/-- The registers that a beacon's generation can touch. -/
abbrev genKeys (k : Nat) : Prop :=
  k ∈ [fldKey PRES_ELECT_GEN 0 0, fldKey PRES_ROLE 0 0, fldKey (hdrEvtPend .pres) 0 0, lostKey]

theorem adoptGen_within (s : State) (b : Beacon) : (adoptGen s b).Within [.events, .out] genKeys := by
  have hr : ∀ r, (setRole r).Within [.events, .out] genKeys := fun r => (setRole_within r).regs fun k hk => List.mem_cons_of_mem _ hk
  simp only [adoptGen, only_acts_cons, only_acts_nil, only_onlyIf_iff, within_setF, and_true]
  exact ⟨fun _ => ⟨List.mem_cons_self .., fun _ => hr _⟩, fun _ => hr _⟩

theorem setRole_gen (r : Nat) (s : State) : fv ((setRole r).run s) PRES_ELECT_GEN = fv s PRES_ELECT_GEN :=
  (setRole_within r).fv s _ _ _ (by decide)

theorem adoptGen_gen (s : State) (b : Beacon) (ha : beaconAccepted s b = true) (hg : b.gen < 2 ^ 32) :
    fv ((adoptGen s b).run s) PRES_ELECT_GEN = max (fv s PRES_ELECT_GEN) b.gen := by
  have hrole : ∀ c r u, fv ((onlyIf c (setRole r)).run u) PRES_ELECT_GEN = fv u PRES_ELECT_GEN := by
    intro c r u
    rw [run_onlyIf]
    split
    · exact setRole_gen r u
    · rfl
  simp only [adoptGen, run_acts_cons, runs_nil, hrole]
  rw [run_onlyIf]
  split
  · rename_i h
    simp only [decide_eq_true_eq] at h
    rw [run_acts_cons, run_acts_cons, runs_nil, hrole, fv_setF_self _ _ _ _ _ ⟨by decide, by decide⟩,
      Nat.max_eq_right (Nat.le_of_lt h)]
    exact Nat.mod_eq_of_lt hg
  · rename_i h
    simp only [decide_eq_true_eq] at h
    simp only [beaconAccepted, Bool.or_eq_true, decide_eq_true_eq, Bool.and_eq_true, beq_iff_eq] at ha
    have : b.gen = fv s PRES_ELECT_GEN := ha.elim (fun h' => absurd h' h) (·.1)
    rw [this, Nat.max_self]

theorem fv_recordBeacon_other (s u : State) (l : Nat) (b : Beacon) (f : Fld)
    (h : fldKey f 0 0 ∉ [fldKey PRES_BEACON_LATE 0 0, fldKey PRES_CNT_BEACON_LATE 0 0, fldKey (hdrEvtPend .pres) 0 0, lostKey]) :
    fv ((recordBeacon s l b).run u) f = fv u f := by
  simp only [List.mem_cons, List.not_mem_nil, or_false, not_or] at h
  obtain ⟨h1, h2, h3, h4⟩ := h
  have hw : (recordBeacon s l b).Within [.events, .out] fun k =>
      k ≠ fldKey f 0 0 := by
    simp only [recordBeacon, only_acts_cons, only_acts_nil, within_setF, only_onlyIf_iff, within_incF, and_true]
    exact ⟨Ne.symm h1, Ne.symm h1, Ne.symm h1, fun _ => ⟨Ne.symm h2, (raiseEvt_within presPage _).regs
      (by rintro k (rfl | rfl); exacts [Ne.symm h3, Ne.symm h4])⟩⟩
  exact hw.fv u f 0 0 fun h => h rfl

/-- The record of a beacon in the press's registers. -/
theorem recordBeacon_run (s u : State) (l : Nat) (b : Beacon) (hl : l < 64) :
    let t := (recordBeacon s l b).run u
    fb t PRES_BEACON_LATE = beaconLate s l b ∧ fv t PRES_BEACON_HOPS = min 255 (b.hops + 1) ∧ fv t PRES_BEACON_LINK = l := by
  intro t
  have hlast : ∀ w : State, ∀ f : Fld, fldKey f 0 0 ∉ [fldKey PRES_CNT_BEACON_LATE 0 0, fldKey (hdrEvtPend .pres) 0 0, lostKey] →
      fv ((onlyIf (beaconLate s l b) (acts [incF PRES_CNT_BEACON_LATE, raiseEvt presPage (2 ^ 18)])).run w) f = fv w f := by
    intro w f hf
    simp only [List.mem_cons, List.not_mem_nil, or_false, not_or] at hf
    obtain ⟨h1, h2, h3⟩ := hf
    rw [run_onlyIf]
    split
    · rw [run_acts_cons, run_acts_cons, runs_nil, fv_raiseEvt_press _ _ _ h2 h3,
        fv_incF_other _ _ _ _ _ _ _ _ (by decide) (Or.inl h1)]
    · rfl
  have hhops : min 255 (b.hops + 1) < 2 ^ 8 := by omega
  have ht : t = (onlyIf (beaconLate s l b) (acts [incF PRES_CNT_BEACON_LATE, raiseEvt presPage (2 ^ 18)])).run
      ((setF PRES_BEACON_LINK l).run ((setF PRES_BEACON_HOPS (min 255 (b.hops + 1))).run
        ((setF PRES_BEACON_LATE (b2n (beaconLate s l b))).run u))) := by
    simp only [t, recordBeacon, run_acts_cons, runs_nil]
  rw [ht]
  refine ⟨?_, ?_, ?_⟩
  · rw [fb, hlast _ _ (by decide), fv_setF_other _ _ _ _ _ _ _ _ (by decide) (by decide), fv_setF_other _ _ _ _ _ _ _ _ (by decide) (by decide),
      fv_setF_self _ _ _ _ _ ⟨by decide, by decide⟩]
    cases beaconLate s l b <;> rfl
  · rw [hlast _ _ (by decide), fv_setF_other _ _ _ _ _ _ _ _ (by decide) (by decide), fv_setF_self _ _ _ _ _ ⟨by decide, by decide⟩]
    exact Nat.mod_eq_of_lt hhops
  · rw [hlast _ _ (by decide), fv_setF_self _ _ _ _ _ ⟨by decide, by decide⟩]
    exact Nat.mod_eq_of_lt hl

theorem startNamed_within : startNamed.Within [.press, .events, .out] roleKeys := by
  simp only [startNamed, startMaster, latchCfg, only_look_iff, only_onlyIf_iff, only_acts_cons, only_acts_nil, within_updPress, and_true]
  exact fun _ _ => ⟨(setRole_within _).mono (by decide) fun _ h => h, fun _ => by decide⟩

theorem press_updPress (f : Press → Press) (s : State) : ((updPress f).run s).press = f s.press := rfl

theorem latchCfg_press (s : State) : (latchCfg.run s).press = { s.press with
    cfg := ⟨fb s PRES_PRESS_MODE, fv s PRES_PERIOD, fv s PRES_GATE_MIN, fv s PRES_GATE_MAX⟩ } := rfl

theorem setRole_press (r : Nat) (s : State) : ((setRole r).run s).press = s.press := (setRole_within r).same .press (by decide) s

theorem startNamed_press (s : State) : ∃ c, (startNamed.run s).press = { s.press with cfg := c } := by
  simp only [startNamed, run_look, run_onlyIf]
  split
  · refine ⟨⟨fb ((setRole roleMaster).run s) PRES_PRESS_MODE, fv ((setRole roleMaster).run s) PRES_PERIOD,
      fv ((setRole roleMaster).run s) PRES_GATE_MIN, fv ((setRole roleMaster).run s) PRES_GATE_MAX⟩, ?_⟩
    rw [startMaster, run_acts_cons, run_acts_cons, runs_nil, latchCfg_press, setRole_press]
  · exact ⟨s.press.cfg, rfl⟩

theorem recordBeacon_within (s : State) (l : Nat) (b : Beacon) : (recordBeacon s l b).Within [.events, .out] pressKeys := by
  simp only [recordBeacon, only_acts_cons, only_acts_nil, within_setF, only_onlyIf_iff, within_incF, and_true]
  exact ⟨pressKeys_of _ _ rfl (by decide), pressKeys_of _ _ rfl (by decide), pressKeys_of _ _ rfl (by decide),
    fun _ => ⟨pressKeys_of _ _ rfl (by decide), raiseEvt_hdrOr _ _ (by decide) (by decide) (by decide)⟩⟩

theorem genKeys_press (k : Nat) (h : genKeys k) : pressKeys k := by
  rcases List.mem_cons.1 h with rfl | h
  · exact pressKeys_of _ _ rfl (by decide)
  · exact roleKeys_press k h

/-- What an accepted beacon leaves. -/
theorem beaconReceive_accepted (s : State) (l : Nat) (b : Beacon) (hl : linkState s l = 2) (ha : beaconAccepted s b = true)
    (ho : beaconOld s b = false) (hlt : l < 64) (hg : b.gen < 2 ^ 32)
    (t : State) (ht : t = (beaconReceive l b).run s) (c : Beacon) (hc : passedOn s l b = c) :
    t.press.edge = some ⟨b.impression, b.periodNs, b.gated⟩ ∧ t.press.heard = true ∧ t.press.lastBeacon = some c ∧
      t.press.fwdImp = some b.impression ∧ fv t PRES_BEACON_HOPS = min 255 (b.hops + 1) ∧ fv t PRES_BEACON_LINK = l ∧
      fv t PRES_ELECT_GEN = max (fv s PRES_ELECT_GEN) b.gen ∧ fb t PRES_BEACON_LATE = beaconLate s l b ∧
      ∀ k ∈ trainedLinks s, k ≠ l → .beacon k c ∈ t.out := by
  rw [beaconReceive_run s l b hl ha ho] at ht
  have hgen := adoptGen_gen s b ha hg
  have hlinks : trainedLinks ((recordBeacon s l b).run ((adoptGen s b).run s)) = trainedLinks s :=
    (trainedLinks_within (recordBeacon_within s l b) (by decide) (by decide) (by decide) _).trans
      (trainedLinks_within ((adoptGen_within s b).regs genKeys_press) (by decide) (by decide) (by decide) s)
  generalize (adoptGen s b).run s = u at *
  obtain ⟨h1, h2, h3⟩ := recordBeacon_run s u l b hlt
  have h4 : fv ((recordBeacon s l b).run u) PRES_ELECT_GEN = max (fv s PRES_ELECT_GEN) b.gen :=
    (fv_recordBeacon_other s u l b _ (by decide)).trans hgen
  generalize (recordBeacon s l b).run u = v at *
  have hpass : ∀ f : Fld, fv ((passBeacon s l b).run v) f = fv v f := fun f => by
    rw [passBeacon, run_acts_cons, run_acts_cons, runs_nil, (floodBeacon_within _ _).fv _ f 0 0 id]; rfl
  have hpress : ((passBeacon s l b).run v).press = { v.press with
      heard := true
      edge := some ⟨b.impression, b.periodNs, b.gated⟩
      fwdImp := some b.impression
      lastBeacon := some c } := by
    rw [passBeacon, run_acts_cons, run_acts_cons, runs_nil, hc]
    exact (floodBeacon_within _ _).same .press (by decide) _
  have hsent : ∀ k ∈ trainedLinks s, k ≠ l → OutMsg.beacon k c ∈ ((passBeacon s l b).run v).out := fun k hk hkl => by
    rw [passBeacon, run_acts_cons, run_acts_cons, runs_nil, hc]
    exact floodBeacon_sends (some l) (fun _ => c) _ k (by rw [← hlinks] at hk; exact hk) fun h => hkl (Option.some.inj h).symm
  generalize (passBeacon s l b).run v = w at *
  obtain ⟨cfg, hp⟩ := startNamed_press w
  have hkeep : ∀ f : Fld, fldKey f 0 0 ∉ [fldKey PRES_ROLE 0 0, fldKey (hdrEvtPend .pres) 0 0, lostKey] → fv t f = fv w f := fun f hf => by
    rw [ht]; exact startNamed_within.fv w f 0 0 hf
  have htp : t.press = { w.press with cfg := cfg } := by rw [ht]; exact hp
  refine ⟨by rw [htp, hpress], by rw [htp, hpress], by rw [htp, hpress], by rw [htp, hpress], ?_, ?_, ?_, ?_, fun k hk hkl => ?_⟩
  · rw [hkeep _ (by decide), hpass, h2]
  · rw [hkeep _ (by decide), hpass, h3]
  · rw [hkeep _ (by decide), hpass, h4]
  · rw [fb, hkeep _ (by decide), hpass]; exact h1
  · rw [ht]; exact out_mono _ _ _ (hsent k hk hkl)

/-! ### IMPRESSION_EDGE -/

/-- What fires before the edge. -/
def beforeEdge (s : State) (e : EdgePlan) (pf n : Nat) : Act :=
  onlyIf (s.press.synced && !inSrst s presPage) (acts [
    fireBefore pf s.press.pt n, planPrefetchNow, fireBefore (instant e.imp 0) s.press.pt n])

/-- What follows at the edge. -/
def afterEdge (e : EdgePlan) : Act := acts [countWaitEdges, planEdge e.imp, readySend]

/-- Substitutions count the edge, and no budget is used. -/
def edgeCounted : Act := acts [
  updUnits fun u => { u with subst := u.subst.map fun x => { x with edges := x.edges + 1 } }, upd (.bkUsed [])]

theorem edgeCounted_run (v : State) :
    (edgeCounted.run v).press = v.press ∧ (edgeCounted.run v).bkUsed = [] ∧ (edgeCounted.run v).regs = v.regs := ⟨rfl, rfl, rfl⟩

theorem impressionEdge_run (s : State) (n : Nat) (e : EdgePlan) (he : s.press.edge = some e) (hu : unsync s = false)
    (hs : s.press.synced = false ∨ s.press.imp < e.imp) : ∃ u, (impressionEdge n).run s =
      (afterEdge e).run (edgeCounted.run ((newImpression e).run u)) := by
  have hc : (!unsync ((timeTo n).run s) && (!((timeTo n).run s).press.synced || decide (((timeTo n).run s).press.imp < e.imp))) = true := by
    show (!unsync s && (!s.press.synced || decide (s.press.imp < e.imp))) = true
    rw [hu]
    rcases hs with h | h
    · rw [h]; rfl
    · rw [decide_eq_true h]; simp
  have he' : ((timeTo n).run s).press.edge = some e := he
  rw [impressionEdge, run_acts_cons, run_acts_cons, runs_nil, run_look]
  generalize (timeTo n).run s = u at hc he'
  split
  · rename_i h; rw [he'] at h; cases h
  · rename_i e' h
    obtain rfl : e = e' := Option.some.inj (he'.symm.trans h)
    dsimp only
    rw [run_onlyIf_of_true _ _ hc]
    simp only [run_acts_cons, runs_nil, afterEdge, edgeCounted]
    exact ⟨_, rfl⟩

theorem countWaitEdges_within : countWaitEdges.Within [.tiles] fun _ => False := by
  simp [countWaitEdges, updQueue]

/-- The plan's own state alone changes with the slot. -/
theorem planEdge_press (n : Nat) (s : State) : ∃ a b c, ((planEdge n).run s).press = { s.press with planOn := a, slot := b, pfDue := c } := by
  have hraise : ∀ c m u, ((raisePlan c m).run u).press = u.press := fun _ _ _ => rfl
  rw [planEdge, runs_look]
  dsimp only
  split
  · rename_i p i x _
    refine ⟨fb s PRES_PLAN_EN, some (p, x), x.pfEn, ?_⟩
    simp only [run_acts_cons, runs_nil]
    split
    · simp only [hraise, press_setF, press_updPress]
    · simp only [runs_done, press_setF, press_updPress]
  · refine ⟨fb s PRES_PLAN_EN, none, false, ?_⟩
    simp only [run_acts_cons, runs_nil, press_setF, press_updPress]

/-- The registers that show the plan's slot. -/
abbrev planKeys (k : Nat) : Prop := k ∈ [fldKey PRES_PLAN_VALID 0 0, fldKey PRES_PLAN_MICRO 0 0]

theorem planEdge_within (n : Nat) : (planEdge n).Within [.press, .flights] planKeys := by
  have hv : ∀ f : Fld, fldKey f 0 0 = fldKey PRES_PLAN_VALID 0 0 → planKeys (fldKey f 0 0) := fun f hf => by
    rw [hf]; exact List.mem_cons_self ..
  simp only [planEdge, only_look_iff]
  intro s
  split
  · simp only [only_acts_cons, only_acts_nil, within_updPress, within_setF, and_true]
    refine ⟨by decide, hv _ rfl, hv _ rfl, hv _ rfl, hv _ rfl, by decide, ?_⟩
    split
    · simp only [raisePlan, only_look_iff, only_upd_iff, Upd.within]
      exact fun _ => by decide
    · trivial
  · simp only [only_acts_cons, only_acts_nil, within_updPress, within_setF, and_true]
    exact ⟨by decide, hv _ rfl, hv _ rfl, hv _ rfl, hv _ rfl, by decide⟩

theorem readySend_press (s : State) : ∃ a, (readySend.run s).press = { s.press with readySent := a } := by
  rw [readySend, runs_look]
  split
  · refine ⟨true, ?_⟩
    rw [run_acts_cons, run_acts_cons, runs_nil]
    exact (sendMsg_within _ _ _).same .press (by decide) _
  · exact ⟨s.press.readySent, rfl⟩

/-- What follows the edge leaves the impression that has begun. -/
theorem afterEdge_run (e : EdgePlan) (s : State) :
    let t := (afterEdge e).run s
    (∃ a b c d, t.press = { s.press with planOn := a, slot := b, pfDue := c, readySent := d }) ∧ t.bkUsed = s.bkUsed ∧
      ∀ f : Fld, f.blk = .pres → 0x40 ≤ f.off → f.off < 0x300 → fv t f = fv s f := by
  intro t
  have ht : t = readySend.run ((planEdge e.imp).run (countWaitEdges.run s)) := by
    simp only [t, afterEdge, run_acts_cons, runs_nil]
  obtain ⟨a, b, c, hplan⟩ := planEdge_press e.imp (countWaitEdges.run s)
  obtain ⟨d, hready⟩ := readySend_press ((planEdge e.imp).run (countWaitEdges.run s))
  have hcw : (countWaitEdges.run s).press = s.press := countWaitEdges_within.same .press (by decide) s
  refine ⟨⟨a, b, c, d, ?_⟩, ?_, fun f hb h0 h1 => ?_⟩
  · rw [ht, hready, hplan, hcw]
  · rw [ht]
    exact (readySend_within.same .bkUsed (by decide) _).trans (((planEdge_within _).same .bkUsed (by decide) _).trans
      (countWaitEdges_within.same .bkUsed (by decide) s))
  · have hk : fldKey f 0 0 % 4096 = f.off := by
      unfold fldKey regKey; omega
    have hp : ¬ planKeys (fldKey f 0 0) := by
      simp only [planKeys, List.mem_cons, List.not_mem_nil, or_false, not_or]
      refine ⟨fun h => ?_, fun h => ?_⟩ <;>
        · have := congrArg (· % 4096) h
          simp only [hk] at this
          have h2 : (fldKey PRES_PLAN_VALID 0 0) % 4096 = 0x314 := by decide
          have h3 : (fldKey PRES_PLAN_MICRO 0 0) % 4096 = 0x318 := by decide
          omega
    rw [ht, readySend_within.fv _ f 0 0 (not_hdrOr_fldKey f 0 0 (by rw [hb]; decide) (by decide) (by omega) (by omega)),
      (planEdge_within _).fv _ f 0 0 hp, countWaitEdges_within.fv s f 0 0 id]

/-- The impression that begins. -/
theorem newImpression_run (e : EdgePlan) (u : State) (hp : e.period < 2 ^ 32) :
    let t := (newImpression e).run u
    t.press.imp = e.imp ∧ t.press.pt = 0 ∧ t.press.elapsed = 0 ∧
      t.press.synced = true ∧ t.press.gated = e.gated ∧ t.press.edge = none ∧ t.press.issued = false ∧
      t.press.held = false ∧ t.press.open_ = [] ∧ t.press.children = 0 ∧ t.press.bubOn = fb t PRES_BUB_EN ∧
      t.press.forced = (fv t PRES_READY_THRESH == 0) ∧ fv t PRES_PERIOD_CUR = e.period ∧ fv t PRES_READY_CNT = 0 := by
  intro t
  have hkeep : ∀ f : Fld, fldKey f 0 0 ≠ fldKey PRES_PERIOD_CUR 0 0 → fldKey f 0 0 ≠ fldKey PRES_READY_CNT 0 0 → fv t f = fv u f :=
    fun f h1 h2 => (fv_setF_other _ PRES_READY_CNT f 0 0 0 0 0 (by decide) (Or.inl h2)).trans
      (fv_setF_other _ PRES_PERIOD_CUR f e.period 0 0 0 0 (by decide) (Or.inl h1))
  refine ⟨rfl, rfl, rfl, rfl, rfl, rfl, rfl, rfl, rfl, rfl, ?_, ?_, ?_, ?_⟩
  · rw [fb, hkeep _ (by decide) (by decide)]; rfl
  · rw [hkeep _ (by decide) (by decide)]; rfl
  · refine (fv_setF_other _ PRES_READY_CNT PRES_PERIOD_CUR 0 0 0 0 0 (by decide) (by decide)).trans
      ((fv_setF_self _ PRES_PERIOD_CUR e.period 0 0 ⟨by decide, by decide⟩).trans (Nat.mod_eq_of_lt hp))
  · exact fv_setF_self _ PRES_READY_CNT 0 0 0 ⟨by decide, by decide⟩

/-- A beacon that is not accepted, or is known already, changes nothing. -/
theorem beaconReceive_ignored (s : State) (l : Nat) (b : Beacon) (h : beaconAccepted s b = false ∨ beaconOld s b = true) :
    (beaconReceive l b).run s = s := by
  have hc : (linkState s l != 2 || !beaconAccepted s b || beaconOld s b) = true := by
    rcases h with h | h <;> rw [h] <;> simp
  rw [beaconReceive, runs_look, if_pos hc, runs_done]

/-- What the edge of an impression leaves. -/
theorem impressionEdge_begins (s : State) (n : Nat) (e : EdgePlan) (he : s.press.edge = some e) (hu : unsync s = false)
    (hs : s.press.synced = false ∨ s.press.imp < e.imp) (hp : e.period < 2 ^ 32) (t : State) (ht : t = (impressionEdge n).run s) :
    t.press.imp = e.imp ∧ t.press.pt = 0 ∧ t.press.elapsed = 0 ∧
      t.press.synced = true ∧ t.press.gated = e.gated ∧ t.press.edge = none ∧ t.press.issued = false ∧
      t.press.held = false ∧ t.press.open_ = [] ∧ t.press.children = 0 ∧ t.press.bubOn = fb t PRES_BUB_EN ∧
      t.press.forced = (fv t PRES_READY_THRESH == 0) ∧ fv t PRES_PERIOD_CUR = e.period ∧ fv t PRES_READY_CNT = 0 ∧ t.bkUsed = [] := by
  obtain ⟨u, hrun⟩ := impressionEdge_run s n e he hu hs
  rw [hrun] at ht
  obtain ⟨i1, i2, i3, i4, i5, i6, i7, i8, i9, i10, i11, i12, i13, i14⟩ := newImpression_run e u hp
  generalize (newImpression e).run u = v at *
  obtain ⟨hwp, hwb, hwr⟩ := edgeCounted_run v
  generalize edgeCounted.run v = w at *
  obtain ⟨⟨a, b, c, d, hpress⟩, hbk, hreg⟩ := afterEdge_run e w
  rw [← ht] at hpress hbk hreg
  have hreg' : ∀ f : Fld, f.blk = .pres → 0x40 ≤ f.off → f.off < 0x300 → fv t f = fv v f := fun f h1 h2 h3 =>
    (hreg f h1 h2 h3).trans (fv_congr _ _ f 0 0 hwr)
  have hen : fb t PRES_BUB_EN = fb v PRES_BUB_EN := by rw [fb, hreg' _ rfl (by decide) (by decide)]; rfl
  rw [hpress, hwp, hen, hreg' _ rfl (by decide) (by decide), hreg' _ rfl (by decide) (by decide), hreg' _ rfl (by decide) (by decide)]
  exact ⟨i1, i2, i3, i4, i5, i6, i7, i8, i9, i10, i11, i12, i13, i14, hbk.trans hwb⟩

/-- Settles O11, from the programs of a beacon's receipt and of the edge. -/
theorem beaconsBeginImpressions : Obligations.BeaconsBeginImpressions := by
  unfold Obligations.BeaconsBeginImpressions
  refine ⟨fun s l b hl => ⟨fun ha ho _ hlt hg => ?_, fun h => congrArg Host.Outcome.next (beaconReceive_ignored s l b h)⟩,
    fun s n e he hu hs hp => ⟨_, rfl, impressionEdge_begins s n e he hu hs hp _ rfl⟩⟩
  obtain ⟨h1, h2, h3, h4, h5, h6, h7, h8, h9⟩ := beaconReceive_accepted s l b hl ha ho hlt hg _ rfl _ rfl
  exact ⟨_, passedOn s l b, rfl, rfl, h1, h2, h3, h4, h5.trans (passedOn_hops s l b).symm, h6, h7, h8, h9⟩

end Sys2Proof.Machine
end

section
/-! PROOF. Arithmetic (R102 to R124, R158 to R160): special inputs, NaN and zeros, integers, and values a format holds. -/

namespace Sys2Proof.Machine

/-! ### Special inputs (R160) -/

/-- A NaN rounds to the canonical NaN where the format has one. -/
theorem roundFloat_nan (fz m u : Nat) (h : fz < 5) : roundFloat fz m u .nan = ⟨nanCode fz, .nan⟩ := by
  have : hasNan fz = true := by simp [hasNan]; omega
  rw [roundFloat]; simp only [this, if_true]

/-- The functions of one operand that round once. -/
abbrev fnOps : List Nat := [0x04, 0x05, 0x06, 0x07, 0x08, 0x09, 0x0A, 0x0B, 0x0C]

/-- A NaN gives the canonical NaN, whatever the function. -/
theorem vFloatOp_nan (o fz m u : Nat) (y w : XR) (hz : fz < 3) (ho : o ∈ fnOps) : (vFloatOp o fz m u .nan y w).code = nanCode fz := by
  have hn := roundFloat_nan fz 0 0 (by omega)
  simp only [fnOps, List.mem_cons, List.not_mem_nil, or_false] at ho
  rcases ho with rfl | rfl | rfl | rfl | rfl | rfl | rfl | rfl | rfl <;> exact congrArg Rnd.code hn

/-- Roots and logarithms have no value below zero. -/
theorem vFloatOp_negative (o fz m u : Nat) (y w : XR) (n d : Nat) (e : Int) (hz : fz < 3) (ho : o ∈ [0x04, 0x05, 0x09, 0x0A]) :
    (vFloatOp o fz m u (.fin true (n + 1) d e) y w).code = nanCode fz := by
  have hn := roundFloat_nan fz 0 0 (by omega)
  simp only [List.mem_cons, List.not_mem_nil, or_false] at ho
  rcases ho with rfl | rfl | rfl | rfl <;> exact congrArg Rnd.code hn

/-- A function of one operand uses neither the others nor the mode. -/
theorem vFloatOp_unary (o fz m u : Nat) (x y w : XR) (ho : o ∈ fnOps) : vFloatOp o fz m u x y w = vFloatOp o fz 0 0 x .nan .nan := by
  simp only [fnOps, List.mem_cons, List.not_mem_nil, or_false] at ho
  rcases ho with rfl | rfl | rfl | rfl | rfl | rfl | rfl | rfl | rfl <;> simp only [vFloatOp]

/-- The results of the table for a code, function by function. -/
def fnResults (fx fz c : Nat) : List Nat := fnOps.map fun o => (vFloatOp o fz 0 0 (decodeFloat fx c) .nan .nan).code

theorem map_vFloatOp_unary (fx fz m u c : Nat) (y w : XR) :
    (fnOps.map fun o => (vFloatOp o fz m u (decodeFloat fx c) y w).code) = fnResults fx fz c :=
  List.map_congr_left fun o ho => congrArg Rnd.code (vFloatOp_unary o fz m u _ y w ho)

/-- The table of R160, evaluated. -/
theorem fnResults_table : ∀ fx < 3, ∀ fz < 3,
    let neg := fun c => c + signBit fz
    let one := [0x3F800000, 0x3C00, 0x3F80].getD fz 0
    let half := [0x3F000000, 0x3800, 0x3F00].getD fz 0
    let nan := nanCode fz
    let inf := infCode fz
    fnResults fx fz 0 = [0, inf, inf, one, one, neg inf, neg inf, 0, half] ∧
      fnResults fx fz (signBit fx) = [neg 0, neg inf, neg inf, one, one, neg inf, neg inf, neg 0, half] ∧
      fnResults fx fz (infCode fx) = [inf, 0, 0, inf, inf, inf, inf, one, one] ∧
      fnResults fx fz (infCode fx + signBit fx) = [nan, nan, neg 0, 0, 0, nan, nan, neg one, 0] := by
  decide +kernel

/-- Settles O22. Each entry of the table is one evaluation; a NaN and a negative argument take the same branch in every
format. -/
theorem specialInputsGiveTheirResults : Obligations.SpecialInputsGiveTheirResults := by
  unfold Obligations.SpecialInputsGiveTheirResults
  intro fx fz m u y w hx hz
  obtain ⟨h1, h2, h3, h4⟩ := fnResults_table fx hx fz hz
  refine ⟨?_, ?_, ?_, ?_, fun c => ⟨fun h o ho => ?_, fun n d e h o ho => ?_⟩⟩
  · exact (map_vFloatOp_unary fx fz m u 0 y w).trans h1
  · exact (map_vFloatOp_unary fx fz m u (signBit fx) y w).trans h2
  · exact (map_vFloatOp_unary fx fz m u (infCode fx) y w).trans h3
  · exact (map_vFloatOp_unary fx fz m u (infCode fx + signBit fx) y w).trans h4
  · show (vFloatOp o fz m u (decodeFloat fx c) y w).code = nanCode fz
    rw [h]; exact vFloatOp_nan o fz m u y w hz ho
  · show (vFloatOp o fz m u (decodeFloat fx c) y w).code = nanCode fz
    rw [h]; exact vFloatOp_negative o fz m u y w n d e hz ho

/-! ### NaN and zeros (R122, R123) -/

theorem xAdd_nan_right (x : XR) : xAdd x .nan = .nan := by cases x <;> rfl

theorem xMul_nan_right (x : XR) : xMul x .nan = .nan := by cases x <;> rfl

theorem xDiv_nan_right (x : XR) : xDiv x .nan = .nan := by cases x <;> rfl

theorem xSub_nan_right (x : XR) : xSub x .nan = .nan := xAdd_nan_right x

theorem xMax_nan_right (x : XR) : xMax x .nan = .nan := by cases x <;> rfl

theorem xMin_nan_right (x : XR) : xMin x .nan = .nan := by cases x <;> rfl

/-- Settles O23, by the operand that is a NaN; comparisons of zeros evaluate. -/
theorem nanAndZeroRules : Obligations.NanAndZeroRules := by
  unfold Obligations.NanAndZeroRules
  refine ⟨fun o fz m u x y w hz ho h => ?_, fun x y h => ?_, fun a b fz m u w hz => ?_⟩
  · have hn : ∀ m u, roundFloat fz m u .nan = ⟨nanCode fz, .nan⟩ := fun m u => roundFloat_nan fz m u (by omega)
    simp only [List.mem_cons, List.not_mem_nil, or_false] at ho
    rcases h with rfl | rfl | ⟨rfl, rfl⟩
    · rcases ho with rfl | rfl | rfl | rfl | rfl | rfl | rfl
      exacts [hn m u, hn m u, hn m u, hn m u, hn 0 0, hn 0 0, hn m u]
    · rcases ho with rfl | rfl | rfl | rfl | rfl | rfl | rfl
      · exact (congrArg _ (xAdd_nan_right x)).trans (hn _ _)
      · exact (congrArg _ (xSub_nan_right x)).trans (hn _ _)
      · exact (congrArg _ (xMul_nan_right x)).trans (hn _ _)
      · exact (congrArg _ (xDiv_nan_right x)).trans (hn _ _)
      · exact (congrArg _ (xMax_nan_right x)).trans (hn _ _)
      · exact (congrArg _ (xMin_nan_right x)).trans (hn _ _)
      · exact (congrArg (fun v => roundFloat fz m u (xAdd v w)) (xMul_nan_right x)).trans (hn _ _)
    · show roundFloat fz m u (xAdd (xMul x y) .nan) = _
      rw [xAdd_nan_right]; exact hn m u
  · have hunordered : xEq x y = false ∧ xLt x y = false ∧ xLe x y = false ∧ xLt y x = false ∧ xLe y x = false := by
      rcases h with rfl | rfl
      · refine ⟨rfl, rfl, rfl, ?_, ?_⟩ <;> cases y <;> rfl
      · refine ⟨?_, ?_, ?_, rfl, rfl⟩ <;> cases x <;> rfl
    obtain ⟨h1, h2, h3, h4, h5⟩ := hunordered
    simp only [vPredHolds, List.forall_mem_cons, h1, h2, h3, h4, h5, Bool.not_false]
    simp
  · refine ⟨?_, ?_, fun hab => ⟨?_, ?_⟩⟩
    · cases a <;> cases b <;> decide
    · cases a <;> cases b <;> decide
    · rcases (by omega : fz = 0 ∨ fz = 1 ∨ fz = 2) with rfl | rfl | rfl <;> cases a <;> cases b <;> first | rfl | exact absurd rfl hab
    · rcases (by omega : fz = 0 ∨ fz = 1 ∨ fz = 2) with rfl | rfl | rfl <;> cases a <;> cases b <;> first | rfl | exact absurd rfl hab

end Sys2Proof.Machine
end

section
/-! PROOF. Integers saturate, and a value that a floating-point format holds is stored as its own code (R104 to R117, R124). -/

namespace Sys2Proof.Machine

/-! ### Integers -/

theorem ratShift_zero (n d : Nat) : ratShift n d 0 = (n, d) := by simp [ratShift]

theorem roundQuot_one (n m u : Nat) : roundQuot n 1 m u = n := by
  simp [roundQuot, Nat.mod_one]

/-- An integer is rounded to itself, and saturated. -/
theorem roundInt_xInt (w : Nat) (x : Int) :
    roundInt w 0 0 (xInt x) =
      (let hi : Int := ((2 ^ (w - 1) : Nat) : Int) - 1
       let lo : Int := -((2 ^ (w - 1) : Nat) : Int)
       if hi < x then ⟨ofInt w hi, .sat⟩ else if x < lo then ⟨ofInt w lo, .sat⟩ else ⟨ofInt w x, .none⟩) := by
  have hx : (if decide (x < 0) = true then -(x.natAbs : Int) else (x.natAbs : Int)) = x := by
    by_cases h : x < 0
    · rw [if_pos (decide_eq_true h)]; omega
    · rw [if_neg (by simpa using h)]; omega
  simp only [roundInt, xInt, ratShift_zero, roundQuot_one, hx]

/-- A number of w bits reads back as itself. -/
theorem toInt_ofInt (w : Nat) (hw : 0 < w) (x : Int) (hlo : -((2 ^ (w - 1) : Nat) : Int) ≤ x) (hhi : x < ((2 ^ (w - 1) : Nat) : Int)) :
    toInt w (ofInt w x) = x := by
  have h2 : (2 ^ w : Nat) = 2 * 2 ^ (w - 1) := by
    rw [← Nat.pow_succ']; congr 1; omega
  unfold toInt ofInt
  rw [h2]
  generalize 2 ^ (w - 1) = k at *
  by_cases h : 0 ≤ x
  · rw [Int.emod_eq_of_lt h (by omega)]
    rw [Nat.mod_eq_of_lt (by omega), if_pos (by omega)]
    omega
  · have hmod : x % ((2 * k : Nat) : Int) = x + ((2 * k : Nat) : Int) := by
      rw [← Int.add_emod_right, Int.emod_eq_of_lt (by omega) (by omega)]
    rw [hmod, Nat.mod_eq_of_lt (by omega), if_neg (by omega)]
    omega

/-- The integer formats, saturated. -/
theorem saturates (f : Nat) (x : Int) (hf : f = 7 ∨ f = 8) :
    let lo : Int := if f = 7 then -128 else -2147483648
    let hi : Int := if f = 7 then 127 else 2147483647
    let r := roundInt (fmtBits f) 0 0 (xInt x)
    toInt (fmtBits f) r.code = max lo (min hi x) ∧ (r.cls = .sat ↔ x < lo ∨ hi < x) := by
  have hread : ∀ w : Nat, 0 < w →
      let r := roundInt w 0 0 (xInt x)
      toInt w r.code = max (-((2 ^ (w - 1) : Nat) : Int)) (min (((2 ^ (w - 1) : Nat) : Int) - 1) x) ∧
        (r.cls = .sat ↔ x < -((2 ^ (w - 1) : Nat) : Int) ∨ ((2 ^ (w - 1) : Nat) : Int) - 1 < x) := by
    intro w hw r
    have hpos : 0 < 2 ^ (w - 1) := Nat.two_pow_pos _
    have hr : r = _ := roundInt_xInt w x
    rw [hr]
    have hback : ∀ y : Int, -((2 ^ (w - 1) : Nat) : Int) ≤ y → y < ((2 ^ (w - 1) : Nat) : Int) → toInt w (ofInt w y) = y :=
      fun y h1 h2 => toInt_ofInt w hw y h1 h2
    generalize 2 ^ (w - 1) = k at *
    dsimp only
    split
    · refine ⟨by rw [hback _ (by omega) (by omega)]; omega, fun _ => by omega, fun _ => rfl⟩
    · split
      · refine ⟨by rw [hback _ (by omega) (by omega)]; omega, fun _ => by omega, fun _ => rfl⟩
      · refine ⟨by rw [hback _ (by omega) (by omega)]; omega, fun h => Cls.noConfusion h, fun _ => by omega⟩
  rcases hf with rfl | rfl
  · exact hread 8 (by decide)
  · exact hread 32 (by decide)

/-! ### Values a format holds -/

/-- The fields of a floating-point format's layout agree: its bits, its largest finite code and value. -/
structure FmtFacts (f mb eb emax maxM : Nat) : Prop where
  lay : (fmtLay f).mb = mb ∧ (fmtLay f).eb = eb
  sign : signBit f = 2 ^ eb * 2 ^ mb
  maxCode_eq : maxCode f = emax * 2 ^ mb + maxM
  maxM_lt : maxM < 2 ^ mb
  emax_pos : 0 < emax
  maxMag_eq : maxMag f = (2 ^ mb + maxM, (emax : Int) - (fmtLay f).bias - mb)

theorem fmtFacts (f : Nat) (hf : f < 7) : ∃ mb eb emax maxM, FmtFacts f mb eb emax maxM := by
  have h : f = 0 ∨ f = 1 ∨ f = 2 ∨ f = 3 ∨ f = 4 ∨ f = 5 ∨ f = 6 := by omega
  rcases h with rfl | rfl | rfl | rfl | rfl | rfl | rfl
  · exact ⟨23, 8, 254, 2 ^ 23 - 1, by decide +kernel, by decide +kernel, by decide +kernel, by decide +kernel, by decide +kernel, by decide +kernel⟩
  · exact ⟨10, 5, 30, 2 ^ 10 - 1, by decide +kernel, by decide +kernel, by decide +kernel, by decide +kernel, by decide +kernel, by decide +kernel⟩
  · exact ⟨7, 8, 254, 2 ^ 7 - 1, by decide +kernel, by decide +kernel, by decide +kernel, by decide +kernel, by decide +kernel, by decide +kernel⟩
  · exact ⟨3, 4, 15, 6, by decide +kernel, by decide +kernel, by decide +kernel, by decide +kernel, by decide +kernel, by decide +kernel⟩
  · exact ⟨2, 5, 30, 3, by decide +kernel, by decide +kernel, by decide +kernel, by decide +kernel, by decide +kernel, by decide +kernel⟩
  · exact ⟨2, 3, 7, 3, by decide +kernel, by decide +kernel, by decide +kernel, by decide +kernel, by decide +kernel, by decide +kernel⟩
  · exact ⟨1, 2, 3, 1, by decide +kernel, by decide +kernel, by decide +kernel, by decide +kernel, by decide +kernel, by decide +kernel⟩

theorem ratLog2_one (n : Nat) (hn : n ≠ 0) : ratLog2 n 1 = Nat.log2 n := by
  have h : 2 ^ n.log2 ≤ n := Nat.log2_self_le hn
  have h1 : Nat.log2 1 = 0 := by decide +kernel
  simp [ratLog2, h1, h]

/-- A finite value on the grid of a format, not above its largest, is rounded to itself. -/
theorem roundFloat_exact (f m u : Nat) (neg : Bool) (n : Nat) (e : Int) (hn : n ≠ 0)
    (hbig : ratGt n 1 e (maxMag f).1 (maxMag f).2 = false)
    (hq : max ((Nat.log2 n : Int) + e - (fmtLay f).mb) (1 - ((fmtLay f).bias : Int) - (fmtLay f).mb) = e)
    (hk : 1 - ((fmtLay f).bias : Int) - (fmtLay f).mb ≤ (Nat.log2 n : Int) + e) (hc : encMag f n e ≤ maxCode f) :
    (roundFloat f m u (.fin neg n 1 e)).code = if neg then encMag f n e + signBit f else encMag f n e := by
  have hsmall : (decide (3 ≤ f) && decide ((Nat.log2 n : Int) + e < 1 - ((fmtLay f).bias : Int) - (fmtLay f).mb)) = false := by
    rw [decide_eq_false (by omega : ¬ (Nat.log2 n : Int) + e < 1 - ((fmtLay f).bias : Int) - (fmtLay f).mb), Bool.and_false]
  have he : e - e = 0 := by omega
  rw [roundFloat]
  simp only [if_neg hn, hbig, ratLog2_one n hn, hsmall, hq, he, ratShift_zero, roundQuot_one, if_neg (Nat.not_lt.2 hc),
    Bool.false_and, Bool.false_eq_true, if_false]

section
variable {f mb eb emax maxM : Nat} (h : FmtFacts f mb eb emax maxM) (E M : Nat) (hM : M < 2 ^ mb)
include h hM

/-- A subnormal magnitude is encoded as itself. -/
theorem encMag_sub (e : Int) : encMag f M e = M := by
  rw [encMag, h.lay.1, if_pos hM]

/-- A normal magnitude is encoded as its exponent and mantissa. -/
theorem encMag_normal (hE : 0 < E) : encMag f (2 ^ mb + M) ((E : Int) - (fmtLay f).bias - mb) = E * 2 ^ mb + M := by
  have hexp : (((E : Int) - (fmtLay f).bias - mb) - (1 - ((fmtLay f).bias : Int) - mb) + 1).toNat = E := by omega
  have hpow : 2 ^ (mb + 1) = 2 * 2 ^ mb := by rw [Nat.pow_succ]; omega
  simp only [encMag, h.lay.1, hexp, hpow]
  rw [if_neg (by omega), if_pos (by omega)]
  omega

/-- A magnitude whose code is not above the largest is not above the largest magnitude. -/
theorem ratGt_normal (hmag : E * 2 ^ mb + M ≤ emax * 2 ^ mb + maxM) (hmax : maxM < 2 ^ mb) (b : Nat) :
    ratGt (2 ^ mb + M) 1 ((E : Int) - b - mb) (2 ^ mb + maxM) ((emax : Int) - b - mb) = false := by
  have hle : E ≤ emax := by
    by_contra hlt
    have : (emax + 1) * 2 ^ mb ≤ E * 2 ^ mb := Nat.mul_le_mul_right _ (by omega)
    rw [Nat.add_mul] at this
    omega
  have hd : (E : Int) - b - mb - ((emax : Int) - b - mb) = -((emax - E : Nat) : Int) := by omega
  rw [ratGt, hd]
  rcases Nat.eq_or_lt_of_le hle with heq | hlt
  · have h0 : -((emax - E : Nat) : Int) = 0 := by omega
    have hMle : M ≤ maxM := by subst heq; omega
    rw [h0, ratShift_zero]
    exact decide_eq_false (by dsimp only; omega)
  · have hneg : ¬ 0 ≤ -((emax - E : Nat) : Int) := by omega
    have hexp : (-(-((emax - E : Nat) : Int))).toNat = emax - E := by omega
    rw [ratShift, if_neg hneg, hexp]
    refine decide_eq_false ?_
    have h2 : 2 ≤ 2 ^ (emax - E) := by
      calc 2 = 2 ^ 1 := rfl
        _ ≤ 2 ^ (emax - E) := Nat.pow_le_pow_right (by decide) (by omega)
    have : (2 ^ mb + maxM) * 2 ≤ (2 ^ mb + maxM) * (1 * 2 ^ (emax - E)) := by
      rw [Nat.one_mul]; exact Nat.mul_le_mul_left _ h2
    dsimp only
    omega

omit h in
theorem ratGt_sub (hemax : 0 < emax) (b : Nat) :
    ratGt M 1 (1 - (b : Int) - mb) (2 ^ mb + maxM) ((emax : Int) - b - mb) = false := by
  have hd : 1 - (b : Int) - mb - ((emax : Int) - b - mb) = -((emax - 1 : Nat) : Int) := by omega
  rw [ratGt, hd]
  by_cases h1 : emax = 1
  · have h0 : -((emax - 1 : Nat) : Int) = 0 := by omega
    rw [h0, ratShift_zero]
    exact decide_eq_false (by dsimp only; omega)
  · have hneg : ¬ 0 ≤ -((emax - 1 : Nat) : Int) := by omega
    have hexp : (-(-((emax - 1 : Nat) : Int))).toNat = emax - 1 := by omega
    rw [ratShift, if_neg hneg, hexp]
    refine decide_eq_false ?_
    have h2 : 1 ≤ 2 ^ (emax - 1) := Nat.one_le_two_pow
    have : (2 ^ mb + maxM) * 1 ≤ (2 ^ mb + maxM) * (1 * 2 ^ (emax - 1)) := by
      rw [Nat.one_mul]; exact Nat.mul_le_mul_left _ h2
    dsimp only
    omega

omit h in
theorem log2_normal : Nat.log2 (2 ^ mb + M) = mb := by
  have hpow : 2 ^ (mb + 1) = 2 * 2 ^ mb := by rw [Nat.pow_succ]; omega
  refine (Nat.log2_eq_iff (by have := Nat.two_pow_pos mb; omega)).2 ⟨by omega, by omega⟩

/-- A finite magnitude that a format holds keeps its code, whatever the rounding. -/
theorem roundFloat_held (m u : Nat) (neg : Bool) (hmag : E * 2 ^ mb + M ≤ maxCode f) (hnz : 0 < E * 2 ^ mb + M) :
    (roundFloat f m u (if E = 0 then .fin neg M 1 (1 - ((fmtLay f).bias : Int) - mb)
      else .fin neg (2 ^ mb + M) 1 ((E : Int) - (fmtLay f).bias - mb))).code =
      if neg then E * 2 ^ mb + M + signBit f else E * 2 ^ mb + M := by
  rcases Nat.eq_zero_or_pos E with hE | hE
  · subst hE
    rw [Nat.zero_mul, Nat.zero_add] at hmag hnz ⊢
    have henc := encMag_sub h M hM (1 - ((fmtLay f).bias : Int) - mb)
    have hlog : Nat.log2 M < mb := (Nat.log2_lt (by omega)).2 hM
    rw [if_pos rfl, roundFloat_exact f m u neg M _ (by omega), henc]
    · rw [h.maxMag_eq]; exact ratGt_sub M hM h.emax_pos _
    · rw [h.lay.1]; omega
    · rw [h.lay.1]; omega
    · rw [henc]; exact hmag
  · have henc := encMag_normal h E M hM hE
    rw [if_neg (by omega), roundFloat_exact f m u neg (2 ^ mb + M) _ (by have := Nat.two_pow_pos mb; omega), henc]
    · rw [h.maxMag_eq]
      exact ratGt_normal h E M hM (by rw [← h.maxCode_eq]; exact hmag) h.maxM_lt _
    · rw [h.lay.1, log2_normal M hM]; omega
    · rw [h.lay.1, log2_normal M hM]; omega
    · rw [henc]; exact hmag

end

/-- A code is its sign and its magnitude. -/
theorem code_split (f c : Nat) (hf : 0 < fmtBits f) (hc : c < 2 ^ fmtBits f) :
    c = if bit c (fmtBits f - 1) then c % signBit f + signBit f else c % signBit f := by
  have h2 : 2 ^ fmtBits f = 2 * signBit f := by
    rw [signBit, ← Nat.pow_succ']; congr 1; omega
  have hb : bit c (fmtBits f - 1) = decide (c / signBit f % 2 = 1) := Nat.testBit_eq_decide_div_mod_eq
  have hdiv := Nat.div_add_mod c (signBit f)
  have hlt : c / signBit f < 2 := Nat.div_lt_of_lt_mul (by omega)
  rw [hb]
  generalize c / signBit f = q at hdiv hlt ⊢
  rcases (by omega : q = 0 ∨ q = 1) with rfl | rfl
  · rw [Nat.mul_zero] at hdiv
    rw [if_neg (by decide)]; omega
  · rw [Nat.mul_one] at hdiv
    rw [if_pos (by decide)]; omega

/-- A code that is neither a NaN nor an infinity has a magnitude up to the largest. -/
theorem mag_le_maxCode {f mb eb emax maxM : Nat} (h : FmtFacts f mb eb emax maxM) (hf : f < 7) (mag : Nat) (hm : mag < signBit f)
    (hi : hasInf f = true → mag / 2 ^ mb ≠ 2 ^ eb - 1) (h3 : f = 3 → mag ≠ 0x7F) : mag ≤ maxCode f := by
  have hmb := h.lay.1
  have heb := h.lay.2
  have hcases : f = 0 ∨ f = 1 ∨ f = 2 ∨ f = 3 ∨ f = 4 ∨ f = 5 ∨ f = 6 := by omega
  rcases hcases with rfl | rfl | rfl | rfl | rfl | rfl | rfl <;>
    simp [fmtLay, hasInf, signBit, fmtBits, maxCode, ← hmb, ← heb] at * <;> omega

/-- The code of an infinity is its largest exponent with no mantissa. -/
theorem infCode_eq {f mb eb emax maxM : Nat} (h : FmtFacts f mb eb emax maxM) (hf : f < 7) (hi : hasInf f = true) :
    infCode f = (2 ^ eb - 1) * 2 ^ mb := by
  have hmb := h.lay.1
  have heb := h.lay.2
  have hcases : f = 0 ∨ f = 1 ∨ f = 2 ∨ f = 3 ∨ f = 4 ∨ f = 5 ∨ f = 6 := by omega
  rcases hcases with rfl | rfl | rfl | rfl | rfl | rfl | rfl <;> simp [fmtLay, hasInf, infCode, ← hmb, ← heb] at *

/-- A code that is no NaN is stored as itself. -/
theorem roundFloat_decodeFloat (f c m u : Nat) (hf : f < 7) (hc : c < 2 ^ fmtBits f) (hn : decodeFloat f c ≠ .nan) :
    (roundFloat f m u (decodeFloat f c)).code = c := by
  obtain ⟨mb, eb, emax, maxM, h⟩ := fmtFacts f hf
  have hbits : 0 < fmtBits f := by
    rcases (by omega : f = 0 ∨ f = 1 ∨ f = 2 ∨ f = 3 ∨ f = 4 ∨ f = 5 ∨ f = 6) with rfl | rfl | rfl | rfl | rfl | rfl | rfl <;> decide
  have hsplit := code_split f c hbits hc
  have hm : c % signBit f < signBit f := Nat.mod_lt _ (Nat.two_pow_pos _)
  generalize hneg : bit c (fmtBits f - 1) = neg at hsplit
  generalize hmag : c % signBit f = mag at hsplit hm
  have hdm : mag / 2 ^ mb * 2 ^ mb + mag % 2 ^ mb = mag := Nat.div_add_mod' ..
  have hdec : decodeFloat f c = if (hasInf f && mag / 2 ^ mb == 2 ^ eb - 1) = true then (if mag % 2 ^ mb = 0 then .inf neg else .nan)
      else if (decide (f = 3) && mag == 0x7F) = true then .nan
      else if mag / 2 ^ mb = 0 then .fin neg (mag % 2 ^ mb) 1 (1 - ((fmtLay f).bias : Int) - mb)
      else .fin neg (2 ^ mb + mag % 2 ^ mb) 1 (((mag / 2 ^ mb : Nat) : Int) - (fmtLay f).bias - mb) := by
    simp only [decodeFloat, h.lay.1, h.lay.2, hneg, hmag]
  rw [hdec] at hn ⊢
  by_cases h1 : (hasInf f && mag / 2 ^ mb == 2 ^ eb - 1) = true
  · rw [if_pos h1] at hn ⊢
    simp only [Bool.and_eq_true, beq_iff_eq] at h1
    obtain ⟨hinf, hE⟩ := h1
    by_cases hM : mag % 2 ^ mb = 0
    · rw [if_pos hM]
      have hcode : infCode f = mag := by
        rw [infCode_eq h hf hinf, ← hdm, hM, hE, Nat.add_zero]
      simp only [roundFloat, hinf, if_true, hcode]
      exact hsplit.symm
    · rw [if_neg hM] at hn; exact absurd rfl hn
  · rw [if_neg h1] at hn ⊢
    by_cases h2 : (decide (f = 3) && mag == 0x7F) = true
    · rw [if_pos h2] at hn; exact absurd rfl hn
    · rw [if_neg h2]
      by_cases hz : mag = 0
      · have h0 : mag / 2 ^ mb = 0 ∧ mag % 2 ^ mb = 0 := by subst hz; simp
        rw [if_pos h0.1, h0.2, roundFloat]
        subst hz
        exact hsplit.symm
      · have hle : mag ≤ maxCode f := by
          refine mag_le_maxCode h hf mag hm (fun hi hE => h1 ?_) fun h3 hE => h2 ?_
          · rw [hi, hE]; simp
          · rw [h3, hE]; rfl
        have := roundFloat_held h (mag / 2 ^ mb) (mag % 2 ^ mb) (Nat.mod_lt _ (Nat.two_pow_pos _)) m u neg (by rw [hdm]; exact hle)
          (by rw [hdm]; omega)
        rw [hdm] at this
        exact this.trans hsplit.symm

/-- The integer operations but for a division by zero. -/
theorem vIntOp_gives (o f : Nat) (a b w x : Int) (hf : f = 7 ∨ f = 8)
    (hx : (vIntOp o f a b w).1 = roundInt (fmtBits f) 0 0 (xInt x) ∧ (vIntOp o f a b w).2 = false) :
    toInt (fmtBits f) (vIntOp o f a b w).1.code = max (if f = 7 then -128 else -2147483648) (min (if f = 7 then 127 else 2147483647) x) ∧
      (vIntOp o f a b w).2 = false ∧
      ((vIntOp o f a b w).1.cls = .sat ↔ x < (if f = 7 then -128 else -2147483648) ∨ (if f = 7 then 127 else 2147483647) < x) := by
  obtain ⟨h1, h2⟩ := saturates f x hf
  rw [hx.1, hx.2]
  exact ⟨h1, rfl, h2⟩

/-- Settles O24: the integer operations by the saturation of their exact result, the others by sign and magnitude. -/
theorem integersSaturateAndHeldValuesStay : Obligations.IntegersSaturateAndHeldValuesStay := by
  unfold Obligations.IntegersSaturateAndHeldValuesStay
  refine ⟨fun f a b w hf => ?_, fun f c m u hf hc hn => roundFloat_decodeFloat f c m u hf hc hn⟩
  refine ⟨vIntOp_gives 0x01 f a b w _ hf ⟨rfl, rfl⟩, vIntOp_gives 0x02 f a b w _ hf ⟨rfl, rfl⟩,
    vIntOp_gives 0x03 f a b w _ hf ⟨rfl, rfl⟩, vIntOp_gives 0x10 f a b w _ hf ⟨rfl, rfl⟩,
    vIntOp_gives 0x11 f a b w _ hf ⟨rfl, rfl⟩, vIntOp_gives 0x12 f a b w _ hf ⟨rfl, rfl⟩,
    vIntOp_gives 0x14 f a b w _ hf ⟨rfl, rfl⟩, vIntOp_gives 0x15 f a b w _ hf ⟨rfl, rfl⟩,
    vIntOp_gives 0x20 f a b w _ hf ⟨rfl, rfl⟩, fun hb => ?_, fun hb => ?_⟩
  · refine vIntOp_gives 0x13 f a b w _ hf ?_
    simp [vIntOp, intDiv, hb]
  · subst hb; exact ⟨rfl, rfl⟩

end Sys2Proof.Machine
end

section
/-! PROOF. Rows of a block's page in general, keys of fields told apart, and the token counters (R90, R91). -/

namespace Sys2Proof.Machine

/-! ### Rows of a page -/

/-- A row that writes a block's register of 4 bytes, where the write reads nothing before it is checked. -/
theorem exec_page_row (s : State) (c : Instr) (r : Requester) (a off v : Nat) (p : PageRef) (d : RegDef) (base : Nat)
    (hc : rowWrite s c = some (r, a, 4, v)) (h : accepted s r a 4 v = true) (hp : pageOf s a = some p) (ho : raOff a = off)
    (hd : regAt p.blk off = some (d, base)) (hb : plainStore p base) (hv : v < 2 ^ 32) (ht : (hookTouch p base v).run s = s) :
    exec c s = .next (answered ((hookApply s p base v).run (stored s p d base v)) r a) ∧ firstErr (hookErrs s p base v) = .ok := by
  have hr : regAt p.blk (raOff a) = some (d, base) := ho.symm ▸ hd
  have hx : v % 2 ^ (8 * 4) = v := Nat.mod_eq_of_lt hv
  have hchk := (accepted_checks s r a 4 v p d base v h hp hr hx).2
  rw [ht] at hchk
  exact ⟨exec_row_accepted s c r a 4 v p d base v hc h hp hr hb hx ht, hchk⟩

/-- A row that writes a TILE register. -/
theorem exec_tile_row (s : State) (c : Instr) (r : Requester) (tile off v : Nat) (d : RegDef) (htile : tile < 144)
    (hc : rowWrite s c = some (r, tileReg tile 0 off, 4, v)) (h : accepted s r (tileReg tile 0 off) 4 v = true)
    (hd : regAt .tile off = some (d, off)) (hlo : 0x40 ≤ off) (hhi : off < 4096) (hv : v < 2 ^ 32) :
    exec c s = .next (answered ((tileApply s (physOf s tile) off v).run (stored s ⟨.tile, physOf s tile⟩ d off v)) r (tileReg tile 0 off)) ∧
      firstErr (tileErrs s (physOf s tile) off v) = .ok := by
  have hp : pageOf s (tileReg tile 0 off) = some ⟨.tile, physOf s tile⟩ := pageOf_tileReg s tile 0 off htile (by decide) hhi
  have ho : raOff (tileReg tile 0 off) = off := raOff_tileReg tile 0 off htile (by decide) hhi
  have hrow := exec_page_row s c r _ off v ⟨.tile, physOf s tile⟩ d off hc h hp ho hd ⟨hlo, by simp, by simp⟩ hv rfl
  simp only [hookErrs, hookApply, if_neg (Nat.not_lt.2 hlo)] at hrow
  exact hrow

/-! ### Keys told apart -/

theorem fldKey_ne_off (f g : Fld) (i n m : Nat) (hb : f.blk = g.blk) (ho : f.off + n * f.stride ≠ g.off + m * g.stride) :
    fldKey f i n ≠ fldKey g i m := by
  unfold fldKey regKey
  rw [hb]; omega

theorem fldKey_ne_blk (f g : Fld) (i j n m : Nat) (hb : f.blk ≠ g.blk) (hi : i < 256) (hj : j < 256)
    (hf : f.off + n * f.stride < 4096) (hg : g.off + m * g.stride < 4096) : fldKey f i n ≠ fldKey g j m := by
  intro h
  obtain ⟨h1, -, -⟩ := (regKey_inj _ _ _ _ _ _ hi hj hf hg).1 h
  exact hb (blkNum_inj _ _ h1)

theorem fldKey_ne_idx (f g : Fld) (i j n m : Nat) (hij : i ≠ j) (hi : i < 256) (hj : j < 256)
    (hf : f.off + n * f.stride < 4096) (hg : g.off + m * g.stride < 4096) : fldKey f i n ≠ fldKey g j m := by
  intro h
  exact hij ((regKey_inj _ _ _ _ _ _ hi hj hf hg).1 h).2.1

theorem fldKey_ne_lost (f : Fld) (i n : Nat) (hb : f.blk ≠ .slqp) (hi : i < 256) (hf : f.off + n * f.stride < 4096) :
    fldKey f i n ≠ lostKey := fldKey_ne_blk f SLQP_QCNT i 0 n 5 hb hi (by decide) hf (by decide)

/-! ### Increments -/

theorem token_key (d : Nat) (hd : d < 256) : TILE_TOKEN.off + d * TILE_TOKEN.stride < 4096 := by
  simp only [TILE_TOKEN]; omega

/-- Token counters lie apart from the other registers of their page. -/
theorem token_ne (f : Fld) (q d p n : Nat) (hq : q < 256) (hd : d < 256) (hp : p < 256)
    (ho : f.off + n * f.stride < 0x400) :
    fldKey TILE_TOKEN q d ≠ fldKey f p n := by
  intro h
  have h1 := ((regKey_inj _ _ _ _ _ _ (by omega : q < 256) hp (token_key d hd) (by omega)).1 h).2.2
  simp only [TILE_TOKEN] at h1
  omega

theorem token_ne_token (q d p c : Nat) (hq : q < 160) (hd : d < 256) (hp : p < 160) (hc : c < 256) (h : q ≠ p ∨ d ≠ c) :
    fldKey TILE_TOKEN q d ≠ fldKey TILE_TOKEN p c := by
  intro he
  obtain ⟨-, h1, h2⟩ := (regKey_inj _ _ _ _ _ _ (by omega : q < 256) (by omega : p < 256) (token_key d hd) (token_key c hc)).1 he
  simp only [TILE_TOKEN] at h2
  omega

/-- An increment of a counter leaves the others. -/
theorem addToken_other (s : State) (p c n q d : Nat) (hp : p < 160) (hc : c < 256) (hq : q < 160) (hd : d < 256) (h : q ≠ p ∨ d ≠ c) :
    tok ((addToken p c n).run s) q d = tok s q d := by
  refine (addToken_within p c n).fv s TILE_TOKEN q d ?_
  rintro (h1 | h1 | h1 | h1 | h1)
  · exact token_ne_token q d p c hq hd hp hc h h1
  · exact token_ne _ q d p 0 (by omega) hd (by omega) (by decide) h1
  · exact token_ne _ q d p 0 (by omega) hd (by omega) (by decide) h1
  · exact token_ne _ q d p 0 (by omega) hd (by omega) (by simp [hdrEvtPend]) h1
  · exact fldKey_ne_lost TILE_TOKEN q d (by decide) (by omega) (token_key d hd) h1

/-- The record of a saturation. -/
def satNote (p c : Nat) (full : Bool) : Act :=
  acts [onlyIf full (acts [setF TILE_TSAT_VALID 1 p, setF TILE_TSAT_COUNTER c p]), raiseEvt (tilePg p) (2 ^ 18)]

theorem satNote_within (p c : Nat) (full : Bool) : (satNote p c full).Within [.events, .out] fun k =>
    k = fldKey TILE_TSAT_VALID p 0 ∨ k = fldKey TILE_TSAT_COUNTER p 0 ∨ k = fldKey (hdrEvtPend .tile) p 0 ∨ k = lostKey := by
  simp only [satNote, only_acts_cons, only_acts_nil, within_setF, only_onlyIf_iff, and_true]
  exact ⟨by simp, (raiseEvt_within (tilePg p) _).regs fun k h => Or.inr (Or.inr h)⟩

theorem addToken_run (s : State) (p c n : Nat) : (addToken p c n).run s =
    (onlyIf (decide (2 ^ 20 ≤ tok s p c + n)) (satNote p c (!fb s TILE_TSAT_VALID p))).run
      ((setF TILE_TOKEN (min (tok s p c + n) (2 ^ 20 - 1)) p c).run s) := by
  rw [addToken, run_look, run_acts_cons, run_acts_cons, runs_nil, satNote]

/-- The counter incremented, saturating. -/
theorem addToken_self (s : State) (p c n : Nat) (hp : p < 160) (hc : c < 256) :
    tok ((addToken p c n).run s) p c = min (tok s p c + n) (2 ^ 20 - 1) := by
  have hset : tok ((setF TILE_TOKEN (min (tok s p c + n) (2 ^ 20 - 1)) p c).run s) p c = min (tok s p c + n) (2 ^ 20 - 1) := by
    rw [tok, fv_setF_self _ _ _ _ _ ⟨by decide, by decide⟩]
    refine Nat.mod_eq_of_lt ?_
    simp only [TILE_TOKEN]; omega
  rw [addToken_run, run_onlyIf]
  split
  · refine Eq.trans ((satNote_within p c _).fv _ TILE_TOKEN p c ?_) hset
    rintro (h1 | h1 | h1 | h1)
    · exact token_ne _ p c p 0 (by omega) hc (by omega) (by decide) h1
    · exact token_ne _ p c p 0 (by omega) hc (by omega) (by decide) h1
    · exact token_ne _ p c p 0 (by omega) hc (by omega) (by simp [hdrEvtPend]) h1
    · exact fldKey_ne_lost TILE_TOKEN p c (by decide) (by omega) (token_key c hc) h1
  · exact hset

/-- What is noted before the event is raised. -/
def satMark (p c : Nat) (full : Bool) : Act := onlyIf full (acts [setF TILE_TSAT_VALID 1 p, setF TILE_TSAT_COUNTER c p])

theorem satNote_run (s : State) (p c : Nat) (full : Bool) :
    (satNote p c full).run s = (raiseEvt (tilePg p) (2 ^ 18)).run ((satMark p c full).run s) := by
  rw [satNote, run_acts_cons, run_acts_cons, runs_nil, satMark]

/-- TOKEN_SAT as an event of its page leaves it. -/
theorem tokenSat_raiseEvt (u : State) (p m : Nat) (f : Fld) (hp : p < 160) (hb : f.blk = .tile) (hs : f.stride = 0) (ho : f.off = 0x050) :
    fv ((raiseEvt (tilePg p) m).run u) f p = fv u f p := by
  refine fv_raiseEvt u (tilePg p) f p 0 m ?_ ?_
  · exact fldKey_ne_off f _ p 0 0 (by rw [hb]; rfl) (by rw [ho, hs]; simp [hdrEvtPend])
  · exact fldKey_ne_lost f p 0 (by rw [hb]; decide) (by omega) (by rw [ho, hs]; decide)

theorem satMark_state (s : State) (p c : Nat) (hc : c < 256) :
    fv ((satMark p c true).run s) TILE_TSAT_VALID p = 1 ∧ fv ((satMark p c true).run s) TILE_TSAT_COUNTER p = c := by
  rw [satMark, run_onlyIf_of_true _ _ rfl, run_acts_cons, run_acts_cons, runs_nil]
  constructor
  · rw [fv_setF_other _ _ _ _ _ _ _ _ (by decide) (Or.inr (by decide)), fv_setF_self _ _ _ _ _ ⟨by decide, by decide⟩]
    rfl
  · rw [fv_setF_self _ _ _ _ _ ⟨by decide, by decide⟩]
    exact Nat.mod_eq_of_lt hc

theorem satNote_state (s : State) (p c : Nat) (hp : p < 160) (hc : c < 256) :
    let t := (satNote p c (!fb s TILE_TSAT_VALID p)).run s
    fb t TILE_TSAT_VALID p = true ∧ (fv t (hdrEvtPend .tile) p).testBit 18 = true ∧
      fv t TILE_TSAT_COUNTER p = if fb s TILE_TSAT_VALID p then fv s TILE_TSAT_COUNTER p else c := by
  dsimp only
  rw [satNote_run, fb, tokenSat_raiseEvt _ p _ TILE_TSAT_VALID hp rfl rfl rfl, tokenSat_raiseEvt _ p _ TILE_TSAT_COUNTER hp rfl rfl rfl]
  have hpend := pending_raiseEvt (tilePg p) (2 ^ 18) 18 ((satMark p c (!fb s TILE_TSAT_VALID p)).run s) (by decide) (by decide)
  cases hv : fb s TILE_TSAT_VALID p
  · rw [hv] at hpend
    obtain ⟨h1, h2⟩ := satMark_state s p c hc
    exact ⟨by rw [Bool.not_false, h1]; rfl, hpend, by rw [Bool.not_false, h2]; rfl⟩
  · rw [hv] at hpend
    exact ⟨hv, hpend, rfl⟩

/-- A saturation is recorded and raised. -/
theorem addToken_saturated (s : State) (p c n : Nat) (hp : p < 160) (hc : c < 256) (h : 2 ^ 20 ≤ tok s p c + n) :
    fb ((addToken p c n).run s) TILE_TSAT_VALID p = true ∧ (fv ((addToken p c n).run s) (hdrEvtPend .tile) p).testBit 18 = true ∧
      fv ((addToken p c n).run s) TILE_TSAT_COUNTER p = if fb s TILE_TSAT_VALID p then fv s TILE_TSAT_COUNTER p else c := by
  have hkey : ∀ f : Fld, f.off = 0x050 → f.stride = 0 → fv ((setF TILE_TOKEN (min (tok s p c + n) (2 ^ 20 - 1)) p c).run s) f p 0 =
      fv s f p 0 := fun f ho hs =>
    fv_setF_other _ _ _ _ _ _ _ _ (by decide) (Or.inl (token_ne f p c p 0 (by omega) hc (by omega) (by rw [ho, hs]; decide)).symm)
  have hv : fb ((setF TILE_TOKEN (min (tok s p c + n) (2 ^ 20 - 1)) p c).run s) TILE_TSAT_VALID p = fb s TILE_TSAT_VALID p := by
    rw [fb, hkey _ rfl rfl]; rfl
  have hstate := satNote_state ((setF TILE_TOKEN (min (tok s p c + n) (2 ^ 20 - 1)) p c).run s) p c hp hc
  dsimp only at hstate
  rw [hv, hkey _ rfl rfl] at hstate
  rwa [addToken_run, run_onlyIf_of_true _ _ (decide_eq_true h)]

theorem tok_noticed (s : State) (n : Notice) (q d : Nat) (hq : q < 160) (hd : d < 256) : tok ((healthNotice n).run s) q d = tok s q d := by
  refine (healthNotice_within n).fv s TILE_TOKEN q d (not_hdrOr_fldKey _ q d ?_ (by omega) ?_ (token_key d hd))
  · decide
  · simp only [TILE_TOKEN]; omega

/-- An increment reaches a presented tile. -/
theorem deliverInc_delivers (s : State) (tile c n : Nat) (hc : c < 256) : incDelivered s ((deliverInc tile c n).run s) tile c n := by
  have hp := physOf_lt s tile
  rw [deliverInc, run_look]
  refine ⟨fun hb => ?_, fun hb hh => ?_, fun hb hh => ?_⟩
  · rw [hb]
    refine ⟨fun q d hq hd => tok_noticed s .unbacked q d hq hd, ?_⟩
    rw [Bool.not_false, if_pos rfl, healthNotice, run_acts_cons, run_acts_cons, runs_nil,
      fv_raiseEvt _ _ _ _ _ _ (by decide) (by decide)]
    exact fv_incF_word s HLTH_HLCNT 0 5 rfl rfl
  · rw [hb, hh]
    exact ⟨fun q d hq hd => rfl, rfl⟩
  · rw [hb, hh, Bool.not_true, if_neg (by decide), if_neg (by decide)]
    exact ⟨addToken_self s _ c n hp hc, fun q d hq hd h => addToken_other s _ c n q d hp hc hq hd h,
      addToken_saturated s _ c n hp hc⟩

/-! ### The rows -/

/-- A token counter's register. -/
theorem regAt_token (c : Nat) (hc : c < 256) : ∃ d, regAt .tile (0x400 + 4 * c) = some (d, 0x400 + 4 * c) ∧
    storeMask d .rw = 2 ^ 20 - 1 ∧ storeMask d .w1c = 0 := by
  have hall : ∀ c : Fin 256, ((regAt .tile (0x400 + 4 * c.val)).any fun x =>
    x.2 == 0x400 + 4 * c.val && storeMask x.1 .rw == 2 ^ 20 - 1 && storeMask x.1 .w1c == 0) = true := by decide +kernel
  have h := hall ⟨c, hc⟩
  simp only [Option.any_eq_true, Bool.and_eq_true, beq_iff_eq, Prod.exists] at h
  obtain ⟨d, b, hd, ⟨hb, hrw⟩, hw⟩ := h
  exact ⟨d, hb ▸ hd, hrw, hw⟩

/-- TOKEN_WRITE. -/
theorem tokenWrite_run (s : State) (r : Requester) (tile c v : Nat) (htile : tile < 144) (hc : c < 256) (hv : v < 2 ^ 20)
    (hacc : accepted s r (tileReg tile 0 (0x400 + 4 * c)) 4 v = true) :
    ∃ t, exec (.tokenWrite r tile c v) s = .next t ∧ tok t (physOf s tile) c = v ∧
      regsKept s t [regKey .tile (physOf s tile) (0x400 + 4 * c)] ∧ memKept s t ∧ t.tiles = s.tiles := by
  obtain ⟨d, hd, hrw, hw⟩ := regAt_token c hc
  have hrow : rowWrite s (.tokenWrite r tile c v) = some (r, tileReg tile 0 (0x400 + 4 * c), 4, v) := by
    rw [rowWrite, if_pos hc, tileWrite, if_pos htile]
  obtain ⟨hrun, -⟩ := exec_tile_row s _ r tile _ v d htile hrow hacc hd (by omega) (by omega) (by omega)
  have happly : tileApply s (physOf s tile) (0x400 + 4 * c) v = .done := by
    rw [tileApply, if_neg (by omega), if_neg (by omega)]
  rw [happly, runs_done] at hrun
  refine ⟨_, hrun, ?_, ?_, ⟨fun _ => rfl, fun _ => rfl, fun _ => rfl⟩, rfl⟩
  · rw [tok, fv_answered, fv_stored_rw s ⟨.tile, physOf s tile⟩ d _ v TILE_TOKEN _ _ (by decide) ?_ (by rw [hrw]; decide) (by rw [hw]; decide)]
    · simp only [bits, TILE_TOKEN]; omega
    · simp only [fldKey, pageKey, TILE_TOKEN]; congr 1; omega
  · intro k hk
    rw [List.mem_singleton] at hk
    exact (rdKey_reg ..).trans (if_neg hk)

/-- The first increment of its source leaves the way and is delivered. -/
theorem incArrive_first (s : State) (i : Nat) (f : Flight) (hf : s.flights[i]? = some f) (hfirst : flightFirst s.flights i = true) :
    (incArrive (.own i)).run s =
      (deliverInc f.tile f.counter f.incr).run { s with flights := s.flights.eraseIdx i } := by
  simp only [incArrive, run_look, hf]
  rw [run_onlyIf_of_true _ _ hfirst, run_acts_cons, run_acts_cons, runs_nil]
  rfl

/-- An accepted action of KIND 1 is the increment it names. -/
theorem tokenInc_accepted (s : State) (loc tile arg : Nat) (ht : tileTarget loc tile = true)
    (he : firstErr (actionErrs s ⟨0, 0, 0, 1, loc, tile, arg⟩) = .ok) :
    (onlyIf (tileTarget loc tile) (deliverAction ⟨0, 0, 0, 1, loc, tile, arg⟩ fun _ => .done)).run s =
      (deliverInc tile (bits arg 7 0) (bits arg 27 8)).run s := by
  rw [run_onlyIf_of_true _ _ ht, deliverAction, run_look]
  simp only [he, if_true, run_acts_cons, runs_nil, runs_done, actionApply]

/-- Settles O27: an increment's delivery in its three cases, whatever brings it. -/
theorem tokensCount : Obligations.TokensCount := by
  unfold Obligations.TokensCount
  refine ⟨fun s i f hf hfirst hc => ?_, fun s tile c n hc => ?_, fun s loc tile arg ht he => ?_, tokenWrite_run⟩
  · refine ⟨_, congrArg Host.Outcome.next (incArrive_first s i f hf hfirst), ?_, ?_⟩
    · exact (deliverInc_parts f.tile f.counter f.incr).same .flights (by decide) _
    · exact deliverInc_delivers { s with flights := s.flights.eraseIdx i } f.tile f.counter f.incr hc
  · exact ⟨_, rfl, (deliverInc_parts tile c n).same .flights (by decide) s, deliverInc_delivers s tile c n hc⟩
  · refine ⟨_, congrArg Host.Outcome.next (tokenInc_accepted s loc tile arg ht he), ?_⟩
    refine deliverInc_delivers s tile _ _ ?_
    simp only [bits]; omega

end Sys2Proof.Machine
end

section
/-! PROOF. A queue's head is checked, and its states (R82, R87 to R89). -/

namespace Sys2Proof.Machine

/-! ### What a check can touch -/

/-- The parts that the check of a head can touch. -/
def checkParts : List Part := .tiles :: memParts

/-- The registers that the check of a head can touch beside its queue's status. -/
abbrev checkKeys (p k : Nat) : Prop := hdrOr [.intg, .hlth, .slqp, .cova] k ∨ k = fldKey TILE_CNT_LATE_GATE p 0

/-- A memory's or a slot's program is one a head's check may hold. -/
theorem within_check {ps : List Part} {ks : Nat → Prop} {a : Act} (p : Nat) (h : a.Within ps ks) (hp : ∀ x ∈ ps, x ∈ checkParts)
    (hk : ∀ k, ks k → hdrOr [.intg, .hlth, .slqp, .cova] k) : a.Within checkParts (checkKeys p) :=
  h.mono hp fun k h => Or.inl (hk k h)

theorem cova_key (f : Fld) (p n k : Nat) (hb : f.blk = .cova) (ho : f.off < 0x100) (hs : f.stride = 8) (hp : p < 160) (hn : n < 8) :
    checkKeys k (fldKey f p n) :=
  Or.inl (hdrOr_fldKey f p n (by simp [hb]) (by omega) (by rw [hs]; omega))

theorem covEmpty_within (p n k : Nat) (hp : p < 160) (hn : n < 8) : (covEmpty p n).Within checkParts (checkKeys k) := by
  simp only [covEmpty, updCov, only_acts_cons, only_acts_nil, within_setF, within_updTile, and_true]
  exact ⟨cova_key _ _ _ _ rfl (by decide) rfl hp hn, cova_key _ _ _ _ rfl (by decide) rfl hp hn,
    cova_key _ _ _ _ rfl (by decide) rfl hp hn, cova_key _ _ _ _ rfl (by decide) rfl hp hn,
    cova_key _ _ _ _ rfl (by decide) rfl hp hn, cova_key _ _ _ _ rfl (by decide) rfl hp hn, by decide⟩

theorem covEntry_slot_lt (d : Desc) (e : CovEntry) (h : e ∈ covEntries d) : e.slot < 8 := by
  unfold covEntries at h
  split at h
  · cases h
  · obtain ⟨n, -, rfl⟩ := List.mem_map.1 h
    exact bits_lt _ _ _

theorem covBind_within (p : Nat) (d : Desc) (hp : p < 160) : (covBind p d).Within checkParts (checkKeys p) := by
  unfold covBind
  split
  · trivial
  · simp only [only_each_iff, only_look_iff, only_ite_iff, only_acts_cons, only_acts_nil, within_setF, and_true]
    intro e he s
    have hn := covEntry_slot_lt d e he
    exact ⟨fun _ => ⟨covEmpty_within _ _ _ hp hn, cova_key _ _ _ _ rfl (by decide) rfl hp hn, cova_key _ _ _ _ rfl (by decide) rfl hp hn,
      cova_key _ _ _ _ rfl (by decide) rfl hp hn, cova_key _ _ _ _ rfl (by decide) rfl hp hn⟩, fun _ => trivial⟩

theorem covFlushBind_within (p : Nat) (d : Desc) (hp : p < 160) : (covFlushBind p d).Within checkParts (checkKeys p) := by
  unfold covFlushBind
  split
  · simp only [only_each_iff, only_look_iff, only_ite_iff, only_acts_cons, only_acts_nil, updCov, within_updTile, and_true]
    intro n hn s
    exact ⟨fun _ => ⟨covEmpty_within _ _ _ hp (List.mem_range.1 (List.mem_of_mem_filter hn)), by decide⟩, fun _ => trivial⟩
  · trivial

theorem covDropHeld_within (p : Nat) : (covDropHeld p).Within [.tiles] fun _ => False := by
  simp [covDropHeld, updCov]

theorem touch_check (p off n : Nat) (hp : p < 160) : (touch (.galley p) off n).Within checkParts (checkKeys p) :=
  within_check p (touch_within _ _ _ hp) (by decide) (hdrOr_mono (by decide))

theorem queuePage_intg (p q : Nat) (hp : p < 160) : intgOf (queuePage p q) < 256 := by
  unfold queuePage
  split <;> simp only [intgOf] <;> omega

theorem consume_check (p q a : Nat) (hp : p < 160) : (consume (queuePage p q) a).Within checkParts (checkKeys p) :=
  within_check p (consume_within _ _ (queuePage_intg p q hp)) (by decide) (hdrOr_mono (by decide))

theorem recordReject_check (p : Nat) (r : PageRef) (off : Nat) (c : ErrCode) : (recordReject r off c).Within checkParts (checkKeys p) :=
  within_check p (recordReject_hdrOr (ps := checkParts) (bs := [.slqp]) r off c (by decide) (by decide) (by decide)) (fun _ h => h)
    (hdrOr_mono (by decide))

/-- A queue's registers lie beyond what a check touches. -/
theorem fv_checked {a : Act} {p q : Nat} (h : a.Within checkParts (checkKeys p)) (s : State) (f : Fld) (hp : p < 160) (hq : q < 7)
    (hb : f.blk = .tile) (hs : f.stride = 32) (h1 : 0x80 ≤ f.off) (h2 : f.off < 0x100) : fv (a.run s) f p q = fv s f p q := by
  refine h.fv s f p q ?_
  rintro (hk | hk)
  · exact not_hdrOr_fldKey f p q (by rw [hb]; decide) (by omega) (by omega) (by rw [hs]; omega) hk
  · exact fldKey_ne_off f TILE_CNT_LATE_GATE p q 0 hb (by rw [hs]; simp only [TILE_CNT_LATE_GATE]; omega) hk

/-! ### The check's outcome -/

/-- The fields that place a queue in its ring. -/
def ringFields : List Fld := [TILE_Q_HEAD, TILE_Q_TAIL, TILE_Q_DONE]

/-- The ring is where it was, and the head is accepted and waits, or is refused or marked and halts its queue. -/
def outcomeAt (s t : State) (p q : Nat) : Prop :=
  (∀ f ∈ ringFields, fv t f p q = fv s f p q) ∧ (fv t TILE_QSTATE p q = qWaiting ∨
    (fv t TILE_QSTATE p q = qHalted ∧ (fv t TILE_QREASON p q = 1 ∨ fv t TILE_QREASON p q = 3)))

theorem ring_checked {a : Act} {p q : Nat} (h : a.Within checkParts (checkKeys p)) (s : State) (hp : p < 160) (hq : q < 7) :
    ∀ f ∈ ringFields, fv (a.run s) f p q = fv s f p q := by
  intro f hf
  simp only [ringFields, List.mem_cons, List.not_mem_nil, or_false] at hf
  rcases hf with rfl | rfl | rfl <;> exact fv_checked h s _ hp hq rfl rfl (by decide) (by decide)

/-- The ring's fields are apart from STATE and REASON. -/
theorem ring_status (s : State) (g f : Fld) (v p q : Nat) (hf : f ∈ ringFields) (hg : g = TILE_QSTATE ∨ g = TILE_QREASON) :
    fv ((setF g v p q).run s) f p q = fv s f p q := by
  simp only [ringFields, List.mem_cons, List.not_mem_nil, or_false] at hf
  refine fv_setF_other s g f v p q p q (by rcases hg with rfl | rfl <;> decide) ?_
  rcases hf with rfl | rfl | rfl
  · exact Or.inl (fldKey_ne_off _ _ _ _ _ (by rcases hg with rfl | rfl <;> rfl)
      (by rcases hg with rfl | rfl <;> simp only [TILE_Q_HEAD, TILE_QSTATE, TILE_QREASON] <;> omega))
  · exact Or.inl (fldKey_ne_off _ _ _ _ _ (by rcases hg with rfl | rfl <;> rfl)
      (by rcases hg with rfl | rfl <;> simp only [TILE_Q_TAIL, TILE_QSTATE, TILE_QREASON] <;> omega))
  · exact Or.inr (by rcases hg with rfl | rfl <;> decide)

theorem haltQueue_status (s : State) (p q r : Nat) (hp : p < 160) (hq : q < 7) (hr : r < 8) :
    (∀ f ∈ ringFields, fv ((haltQueue p q r).run s) f p q = fv s f p q) ∧ fv ((haltQueue p q r).run s) TILE_QSTATE p q = qHalted ∧
      fv ((haltQueue p q r).run s) TILE_QREASON p q = r := by
  have hev : (raiseEvt (tilePg p) (2 ^ 17)).Within checkParts (checkKeys p) :=
    within_check p (raiseEvt_memory _ _) (by decide) (hdrOr_mono (by decide))
  rw [haltQueue, run_acts_cons, run_acts_cons, run_acts_cons, runs_nil]
  refine ⟨fun f hf => ?_, ?_, ?_⟩
  · rw [ring_checked hev _ hp hq f hf, ring_status _ _ f _ _ _ hf (Or.inr rfl), ring_status _ _ f _ _ _ hf (Or.inl rfl)]
  · rw [fv_checked hev _ TILE_QSTATE hp hq rfl rfl (by decide) (by decide),
      fv_setF_other _ TILE_QREASON TILE_QSTATE _ _ _ _ _ (by decide) (Or.inr (by decide)), fv_setF_self _ _ _ _ _ ⟨by decide, by decide⟩]
    rfl
  · rw [fv_checked hev _ TILE_QREASON hp hq rfl rfl (by decide) (by decide), fv_setF_self _ _ _ _ _ ⟨by decide, by decide⟩]
    exact Nat.mod_eq_of_lt hr

/-- A queue that halts, whatever is recorded after it. -/
theorem halted_outcome (s : State) (p q r : Nat) (a : Act) (ha : a.Within checkParts (checkKeys p)) (hp : p < 160) (hq : q < 7)
    (hr : r = 1 ∨ r = 3) : outcomeAt s ((acts [haltQueue p q r, a]).run s) p q := by
  obtain ⟨h1, h2, h3⟩ := haltQueue_status s p q r hp hq (by omega)
  rw [run_acts_cons, run_acts_cons, runs_nil]
  refine ⟨fun f hf => (ring_checked ha _ hp hq f hf).trans (h1 f hf), Or.inr ⟨?_, ?_⟩⟩
  · exact (fv_checked ha _ TILE_QSTATE hp hq rfl rfl (by decide) (by decide)).trans h2
  · rw [fv_checked ha _ TILE_QREASON hp hq rfl rfl (by decide) (by decide), h3]; exact hr

theorem checkOutcome_outcome (s : State) (p q : Nat) (d : Desc) (ctl : List Byte) (hp : p < 160) (hq : q < 7) :
    outcomeAt s ((checkOutcome p q d ctl).run s) p q := by
  rw [checkOutcome, run_look]
  dsimp only
  split
  · exact halted_outcome s p q 1 _ (recordReject_check p _ _ _) hp hq (Or.inl rfl)
  · have hprep : ∀ b c e : Bool, (acts [updQueue p q fun x => { x with head := d, ctl := ctl, waitEdges := 0 },
        onlyIf b (incF TILE_CNT_LATE_GATE 1 p), onlyIf c (covBind p d), onlyIf e (covFlushBind p d)]).Within checkParts (checkKeys p) := by
      intro b c e
      simp only [only_acts_cons, only_acts_nil, updQueue, within_updTile, only_onlyIf_iff, within_incF, and_true]
      exact ⟨by decide, fun _ => Or.inr rfl, fun _ => covBind_within p d hp, fun _ => covFlushBind_within p d hp⟩
    have hrun : ∀ b c e : Bool, (acts [updQueue p q fun x => { x with head := d, ctl := ctl, waitEdges := 0 },
        onlyIf b (incF TILE_CNT_LATE_GATE 1 p), onlyIf c (covBind p d), onlyIf e (covFlushBind p d), setF TILE_QSTATE qWaiting p q]).run s =
        (setF TILE_QSTATE qWaiting p q).run ((acts [updQueue p q fun x => { x with head := d, ctl := ctl, waitEdges := 0 },
        onlyIf b (incF TILE_CNT_LATE_GATE 1 p), onlyIf c (covBind p d), onlyIf e (covFlushBind p d)]).run s) := by
      intro b c e; simp only [run_acts_cons, runs_nil]
    rw [hrun]
    refine ⟨fun f hf => (ring_status _ _ f _ _ _ hf (Or.inl rfl)).trans (ring_checked (hprep _ _ _) s hp hq f hf), Or.inl ?_⟩
    rw [fv_setF_self _ _ _ _ _ ⟨by decide, by decide⟩]
    rfl

theorem outcomeAt_trans {s u t : State} {p q : Nat} (h : ∀ f ∈ ringFields, fv u f p q = fv s f p q) (ho : outcomeAt u t p q) :
    outcomeAt s t p q := ⟨fun f hf => (ho.1 f hf).trans (h f hf), ho.2⟩

/-- The head's check: an empty ring leaves the queue EMPTY, a descriptor is decided on. -/
theorem headCheck_decides (s : State) (p q : Nat) (hp : p < 160) (hq : q < 7) :
    (∀ f ∈ ringFields, fv ((headCheck p q).run s) f p q = fv s f p q) ∧ headDecided ((headCheck p q).run s) p q := by
  rw [headCheck, run_look]
  split
  · rename_i h
    have hring : ∀ f ∈ ringFields, fv ((setF TILE_QSTATE qEmpty p q).run s) f p q = fv s f p q :=
      fun f hf => ring_status s _ f _ p q hf (Or.inl rfl)
    refine ⟨hring, Or.inl ⟨?_, ?_⟩⟩
    · rw [hring _ (by simp [ringFields]), hring _ (by simp [ringFields]), h]
    · rw [fv_setF_self _ _ _ _ _ ⟨by decide, by decide⟩]; rfl
  · rename_i h
    suffices ho : ∀ t, outcomeAt s t p q → (∀ f ∈ ringFields, fv t f p q = fv s f p q) ∧ headDecided t p q by
      refine ho _ ?_
      rw [run_acts_cons, run_acts_cons, run_acts_cons, runs_nil, run_look]
      have hu := fun f hf => (ring_checked (touch_check p (headOff s p q) 128 hp) ((setF TILE_QSTATE qCheck p q).run s) hp hq f hf).trans
        (ring_status s _ f _ p q hf (Or.inl rfl))
      refine outcomeAt_trans hu ?_
      generalize (touch (.galley p) (headOff s p q) 128).run ((setF TILE_QSTATE qCheck p q).run s) = u
      split
      · exact halted_outcome u p q 3 _ (consume_check p q _ hp) hp hq (Or.inr rfl)
      · dsimp only
        split
        · exact checkOutcome_outcome u p q _ _ hp hq
        · rename_i c hc
          rw [run_acts_cons, run_acts_cons, runs_nil, run_look]
          refine outcomeAt_trans (ring_checked (touch_check p c.1.1 c.1.2 hp) u hp hq) ?_
          generalize (touch (.galley p) c.1.1 c.1.2).run u = v
          split
          · exact halted_outcome v p q 3 _ (consume_check p q _ hp) hp hq (Or.inr rfl)
          · exact checkOutcome_outcome v p q _ _ hp hq
    rintro t ⟨h1, h2⟩
    refine ⟨h1, Or.inr ⟨?_, h2⟩⟩
    rw [h1 _ (by simp [ringFields]), h1 _ (by simp [ringFields])]
    exact h

/-! ### Q_TAIL and Q_CTL -/

theorem regAt_qTail (q : Nat) (hq : q < 7) : ∃ d, regAt .tile (0x080 + 0x20 * q + 0x8) = some (d, 0x080 + 0x20 * q + 0x8) ∧
    storeMask d .rw = 2 ^ 16 - 1 ∧ storeMask d .w1c = 0 := by
  have hall : ∀ q : Fin 7, ((regAt .tile (0x080 + 0x20 * q.val + 0x8)).any fun x =>
    x.2 == 0x080 + 0x20 * q.val + 0x8 && storeMask x.1 .rw == 2 ^ 16 - 1 && storeMask x.1 .w1c == 0) = true := by decide +kernel
  have h := hall ⟨q, hq⟩
  simp only [Option.any_eq_true, Bool.and_eq_true, beq_iff_eq, Prod.exists] at h
  obtain ⟨d, b, hd, ⟨hb, hrw⟩, hw⟩ := h
  exact ⟨d, hb ▸ hd, hrw, hw⟩

theorem regAt_qCtl (q : Nat) (hq : q < 7) : ∃ d, regAt .tile (0x080 + 0x20 * q + 0xC) = some (d, 0x080 + 0x20 * q + 0xC) := by
  have hall : ∀ q : Fin 7, ((regAt .tile (0x080 + 0x20 * q.val + 0xC)).any fun x => x.2 == 0x080 + 0x20 * q.val + 0xC) = true := by
    decide +kernel
  have h := hall ⟨q, hq⟩
  simp only [Option.any_eq_true, beq_iff_eq, Prod.exists] at h
  obtain ⟨d, b, hd, hb⟩ := h
  exact ⟨d, hb ▸ hd⟩

/-- A queue's field beside the register just stored. -/
theorem fv_stored_queue (s : State) (p q o x : Nat) (d : RegDef) (f : Fld) (hb : f.blk = .tile) (ho : f.off + q * f.stride ≠ o) :
    fv (stored s ⟨.tile, p⟩ d o x) f p q = fv s f p q := by
  refine fv_stored_other s ⟨.tile, p⟩ d o x f p q ?_
  show regKey f.blk p _ ≠ regKey .tile p o
  rw [hb]
  unfold regKey
  generalize blkNum .tile = b
  omega

theorem tileApply_qTail (s : State) (p q v : Nat) (hq : q < 7) : tileApply s p (0x080 + 0x20 * q + 0x8) v = qTailSet p q v := by
  have hn : nth (0x080 + 0x20 * q + 0x8) 0x080 0x20 = q := by unfold nth; omega
  rw [tileApply, if_neg (by omega), if_pos (by omega)]
  dsimp only
  rw [if_pos (by omega), hn]

theorem tileApply_qCtl (s : State) (p q v : Nat) (hq : q < 7) : tileApply s p (0x080 + 0x20 * q + 0xC) v = qCtl p q v := by
  have hn : nth (0x080 + 0x20 * q + 0xC) 0x080 0x20 = q := by unfold nth; omega
  rw [tileApply, if_neg (by omega), if_pos (by omega)]
  dsimp only
  rw [if_neg (by omega), if_pos (by omega), hn]

/-- A row that writes Q_CTL: what it does is done on a state with the queue as it was. -/
theorem exec_qCtl_row (s : State) (c : Instr) (r : Requester) (tile q v : Nat) (htile : tile < 144) (hq : q < 7) (hv : v < 16)
    (hc : rowWrite s c = some (r, tileReg tile 0 (0x080 + 0x20 * q + 0xC), 4, v))
    (h : accepted s r (tileReg tile 0 (0x080 + 0x20 * q + 0xC)) 4 v = true) :
    ∃ u : State, exec c s = .next (answered ((qCtl (physOf s tile) q v).run u) r (tileReg tile 0 (0x080 + 0x20 * q + 0xC))) ∧
      (∀ f ∈ TILE_QSTATE :: ringFields, fv u f (physOf s tile) q = fv s f (physOf s tile) q) ∧ u.tiles = s.tiles ∧ memKept s u := by
  obtain ⟨d, hd⟩ := regAt_qCtl q hq
  obtain ⟨hrun, -⟩ := exec_tile_row s c r tile _ v d htile hc h hd (by omega) (by omega) (by omega)
  rw [tileApply_qCtl s _ q v hq] at hrun
  refine ⟨_, hrun, fun f hf => ?_, rfl, ⟨fun _ => rfl, fun _ => rfl, fun _ => rfl⟩⟩
  simp only [ringFields, List.mem_cons, List.not_mem_nil, or_false] at hf
  rcases hf with rfl | rfl | rfl | rfl <;>
  · refine fv_stored_queue s _ q _ v d _ rfl ?_
    simp only [TILE_QSTATE, TILE_Q_HEAD, TILE_Q_TAIL, TILE_Q_DONE]; omega

/-- Q_TAIL_WRITE. -/
theorem qTailWrite_run (s : State) (r : Requester) (tile q v : Nat) (htile : tile < 144) (hq : q < 7) (hv : v < 65536)
    (hacc : accepted s r (tileReg tile 0 (0x080 + 0x20 * q + 0x8)) 4 v = true) :
    ∃ t, exec (.qTailWrite r tile q v) s = .next t ∧ fv t TILE_Q_TAIL (physOf s tile) q = v ∧
      fv t TILE_Q_HEAD (physOf s tile) q = fv s TILE_Q_HEAD (physOf s tile) q ∧
      (fv s TILE_QSTATE (physOf s tile) q = qEmpty → headDecided t (physOf s tile) q) ∧
      (fv s TILE_QSTATE (physOf s tile) q ≠ qEmpty → fv t TILE_QSTATE (physOf s tile) q = fv s TILE_QSTATE (physOf s tile) q) := by
  obtain ⟨d, hd, -, -⟩ := regAt_qTail q hq
  have hrow : rowWrite s (.qTailWrite r tile q v) = some (r, tileReg tile 0 (0x080 + 0x20 * q + 0x8), 4, v) := by
    rw [rowWrite, if_pos hq, tileWrite, if_pos htile]
  obtain ⟨hrun, -⟩ := exec_tile_row s _ r tile _ v d htile hrow hacc hd (by omega) (by omega) (by omega)
  rw [tileApply_qTail s _ q v hq, qTailSet, run_acts_cons, run_acts_cons, runs_nil, run_look] at hrun
  have hp := physOf_lt s tile
  generalize physOf s tile = p at hrun hp ⊢
  have hst : ∀ f : Fld, f = TILE_Q_HEAD ∨ f = TILE_QSTATE → fv ((setF TILE_Q_TAIL v p q).run (stored s ⟨.tile, p⟩ d (0x080 + 0x20 * q + 0x8) v)) f p q =
      fv s f p q := by
    intro f hf
    have hb : f.blk = .tile := by rcases hf with rfl | rfl <;> rfl
    have ho : f.off + q * f.stride ≠ 0x080 + 0x20 * q + 0x8 := by
      rcases hf with rfl | rfl <;> simp only [TILE_Q_HEAD, TILE_QSTATE] <;> omega
    rw [fv_setF_other _ _ _ _ _ _ _ _ (by decide) (Or.inl (fldKey_ne_off _ _ _ _ _ hb (by simp only [TILE_Q_TAIL] at ho ⊢; omega))),
      fv_stored_queue s p q _ v d f hb ho]
  have htail : fv ((setF TILE_Q_TAIL v p q).run (stored s ⟨.tile, p⟩ d (0x080 + 0x20 * q + 0x8) v)) TILE_Q_TAIL p q = v := by
    rw [fv_setF_self _ _ _ _ _ ⟨by decide, by decide⟩]
    exact Nat.mod_eq_of_lt hv
  rw [hst _ (Or.inr rfl)] at hrun
  generalize (setF TILE_Q_TAIL v p q).run (stored s ⟨.tile, p⟩ d (0x080 + 0x20 * q + 0x8) v) = u at hrun hst htail
  refine ⟨_, hrun, ?_⟩
  simp only [headDecided, fv_answered]
  by_cases he : fv s TILE_QSTATE p q = qEmpty
  · obtain ⟨h1, h2⟩ := headCheck_decides u p q hp hq
    rw [run_onlyIf_of_true _ _ (beq_iff_eq.2 he)]
    exact ⟨(h1 _ (by simp [ringFields])).trans htail, (h1 _ (by simp [ringFields])).trans (hst _ (Or.inl rfl)), fun _ => h2,
      fun h => absurd he h⟩
  · rw [beq_eq_false_iff_ne.2 he, runs_false]
    exact ⟨htail, hst _ (Or.inl rfl), fun h => absurd h he, fun _ => hst _ (Or.inr rfl)⟩

/-- A row of Q_CTL that checks the head of a queue in one state, and no other. -/
theorem checks_in_state (s u t : State) (p q st : Nat) (c : Act) (r : Requester) (a : Nat) (hp : p < 160) (hq : q < 7)
    (hu : ∀ f ∈ TILE_QSTATE :: ringFields, fv u f p q = fv s f p q) (hc : ∀ f ∈ ringFields, fv (c.run u) f p q = fv u f p q)
    (ht : t = answered ((onlyIf (fv u TILE_QSTATE p q == st) (acts [c, headCheck p q])).run u) r a) :
    (∀ f ∈ ringFields, fv t f p q = fv s f p q) ∧ (fv s TILE_QSTATE p q = st → headDecided t p q) ∧
      (fv s TILE_QSTATE p q ≠ st → fv t TILE_QSTATE p q = fv s TILE_QSTATE p q) := by
  subst ht
  have hstate := hu TILE_QSTATE (by simp)
  simp only [headDecided, fv_answered]
  by_cases he : fv s TILE_QSTATE p q = st
  · obtain ⟨h1, h2⟩ := headCheck_decides (c.run u) p q hp hq
    rw [run_onlyIf_of_true _ _ (beq_iff_eq.2 (hstate.trans he)), run_acts_cons, run_acts_cons, runs_nil]
    exact ⟨fun f hf => (h1 f hf).trans ((hc f hf).trans (hu f (by simp [hf]))), fun _ => h2, fun h => absurd he h⟩
  · rw [beq_eq_false_iff_ne.2 (by rw [hstate]; exact he), runs_false]
    exact ⟨fun f hf => hu f (by simp [hf]), fun h => absurd h he, fun _ => hstate⟩

/-- QUEUE_START. -/
theorem queueStart_run (s : State) (r : Requester) (tile q : Nat) (htile : tile < 144) (hq : q < 7)
    (hacc : accepted s r (tileReg tile 0 (0x080 + 0x20 * q + 0xC)) 4 1 = true) :
    ∃ t, exec (.queueStart r tile q) s = .next t ∧ (∀ f ∈ ringFields, fv t f (physOf s tile) q = fv s f (physOf s tile) q) ∧
      (fv s TILE_QSTATE (physOf s tile) q = qStopped → headDecided t (physOf s tile) q) ∧
      (fv s TILE_QSTATE (physOf s tile) q ≠ qStopped → fv t TILE_QSTATE (physOf s tile) q = fv s TILE_QSTATE (physOf s tile) q) := by
  obtain ⟨u, hrun, hu, -, -⟩ := exec_qCtl_row s (.queueStart r tile q) r tile q 1 htile hq (by decide)
    (by rw [rowWrite, if_pos hq, tileWrite, if_pos htile]) hacc
  refine ⟨_, hrun, checks_in_state s u _ _ q qStopped .done r _ (physOf_lt s tile) hq hu (fun f _ => rfl) (congrArg (answered · r _) ?_)⟩
  rw [qCtl, if_pos (by decide), qStart, run_look, run_onlyIf, run_onlyIf, run_acts_cons, runs_done, run_acts_cons, runs_nil]

/-- QUEUE_REARM. -/
theorem queueRearm_run (s : State) (r : Requester) (tile q : Nat) (htile : tile < 144) (hq : q < 7)
    (hacc : accepted s r (tileReg tile 0 (0x080 + 0x20 * q + 0xC)) 4 4 = true) :
    ∃ t, exec (.queueRearm r tile q) s = .next t ∧ (∀ f ∈ ringFields, fv t f (physOf s tile) q = fv s f (physOf s tile) q) ∧
      (fv s TILE_QSTATE (physOf s tile) q = qHalted → headDecided t (physOf s tile) q) ∧
      (fv s TILE_QSTATE (physOf s tile) q ≠ qHalted → fv t TILE_QSTATE (physOf s tile) q = fv s TILE_QSTATE (physOf s tile) q) := by
  obtain ⟨u, hrun, hu, -, -⟩ := exec_qCtl_row s (.queueRearm r tile q) r tile q 4 htile hq (by decide)
    (by rw [rowWrite, if_pos hq, tileWrite, if_pos htile]) hacc
  refine ⟨_, hrun, checks_in_state s u _ _ q qHalted (setF TILE_QREASON 0 (physOf s tile) q) r _ (physOf_lt s tile) hq hu
    (fun f hf => ring_status u _ f 0 _ q hf (Or.inr rfl)) (congrArg (answered · r _) ?_)⟩
  rw [qCtl, if_neg (by decide), if_neg (by decide), if_pos (by decide), qRearm, run_look]

/-- QUEUE_STOP. -/
theorem queueStop_run (s : State) (r : Requester) (tile q : Nat) (htile : tile < 144) (hq : q < 7)
    (hacc : accepted s r (tileReg tile 0 (0x080 + 0x20 * q + 0xC)) 4 2 = true) :
    ∃ t, exec (.queueStop r tile q) s = .next t ∧ fv t TILE_QSTATE (physOf s tile) q = qStopped ∧
      fv t TILE_QREASON (physOf s tile) q = 0 ∧ (∀ f ∈ ringFields, fv t f (physOf s tile) q = fv s f (physOf s tile) q) ∧
      queueSt t (physOf s tile) q = queueSt s (physOf s tile) q ∧ memKept s t := by
  obtain ⟨u, hrun, hu, htiles, hmem⟩ := exec_qCtl_row s (.queueStop r tile q) r tile q 2 htile hq (by decide)
    (by rw [rowWrite, if_pos hq, tileWrite, if_pos htile]) hacc
  rw [qCtl, if_neg (by decide), if_pos (by decide), qStop, run_acts_cons, run_acts_cons, runs_nil] at hrun
  refine ⟨_, hrun, ?_, ?_, fun f hf => ?_, queueSt_congr _ _ _ _ htiles, hmem⟩
  · rw [fv_answered, fv_setF_other _ TILE_QREASON TILE_QSTATE _ _ _ _ _ (by decide) (Or.inr (by decide)),
      fv_setF_self _ _ _ _ _ ⟨by decide, by decide⟩]
    rfl
  · rw [fv_answered, fv_setF_self _ _ _ _ _ ⟨by decide, by decide⟩]; rfl
  · rw [fv_answered, ring_status _ _ f _ _ _ hf (Or.inr rfl), ring_status _ _ f _ _ _ hf (Or.inl rfl)]
    exact hu f (by simp [hf])

/-- What SKIP does before the new head's check. -/
def skipPast (s : State) (p q : Nat) : Act :=
  acts [setF TILE_QREASON 0 p q, setF TILE_Q_HEAD ((fv s TILE_Q_HEAD p q + 1) % 65536) p q,
    setF TILE_Q_DONE ((fv s TILE_Q_DONE p q + 1) % 65536) p q, onlyIf (q == 0) (covDropHeld p)]

theorem skipPast_ring (s u : State) (p q : Nat) :
    fv ((skipPast s p q).run u) TILE_Q_HEAD p q = (fv s TILE_Q_HEAD p q + 1) % 65536 ∧
      fv ((skipPast s p q).run u) TILE_Q_DONE p q = (fv s TILE_Q_DONE p q + 1) % 65536 := by
  have hcov : ∀ (w : State) (f : Fld), fv ((onlyIf (q == 0) (covDropHeld p)).run w) f p q = fv w f p q := by
    intro w f
    rw [run_onlyIf]
    split
    · exact (covDropHeld_within p).fv w f p q (fun h => h)
    · rfl
  rw [skipPast, run_acts_cons, run_acts_cons, run_acts_cons, run_acts_cons, runs_nil, hcov, hcov]
  constructor
  · rw [fv_setF_other _ TILE_Q_DONE TILE_Q_HEAD _ _ _ _ _ (by decide)
        (Or.inl (fldKey_ne_off _ _ _ _ _ rfl (by simp only [TILE_Q_HEAD, TILE_Q_DONE]; omega))),
      fv_setF_self _ _ _ _ _ ⟨by decide, by decide⟩]
    exact Nat.mod_eq_of_lt (Nat.mod_lt _ (by decide))
  · rw [fv_setF_self _ _ _ _ _ ⟨by decide, by decide⟩]
    exact Nat.mod_eq_of_lt (Nat.mod_lt _ (by decide))

/-- QUEUE_SKIP. -/
theorem queueSkip_run (s : State) (r : Requester) (tile q : Nat) (htile : tile < 144) (hq : q < 7)
    (hacc : accepted s r (tileReg tile 0 (0x080 + 0x20 * q + 0xC)) 4 8 = true) :
    ∃ t, exec (.queueSkip r tile q) s = .next t ∧
      (fv s TILE_QSTATE (physOf s tile) q = qHalted → headDecided t (physOf s tile) q ∧
        fv t TILE_Q_HEAD (physOf s tile) q = (fv s TILE_Q_HEAD (physOf s tile) q + 1) % 65536 ∧
        fv t TILE_Q_DONE (physOf s tile) q = (fv s TILE_Q_DONE (physOf s tile) q + 1) % 65536) ∧
      (fv s TILE_QSTATE (physOf s tile) q ≠ qHalted → fv t TILE_QSTATE (physOf s tile) q = fv s TILE_QSTATE (physOf s tile) q ∧
        fv t TILE_Q_HEAD (physOf s tile) q = fv s TILE_Q_HEAD (physOf s tile) q) := by
  obtain ⟨u, hrun, hu, -, -⟩ := exec_qCtl_row s (.queueSkip r tile q) r tile q 8 htile hq (by decide)
    (by rw [rowWrite, if_pos hq, tileWrite, if_pos htile]) hacc
  have hp := physOf_lt s tile
  generalize physOf s tile = p at hrun hp hu ⊢
  rw [qCtl, if_neg (by decide), if_neg (by decide), if_neg (by decide), if_pos (by decide), qSkip, run_look,
    hu TILE_QSTATE (by simp)] at hrun
  refine ⟨_, hrun, fun he => ?_, fun he => ?_⟩
  · obtain ⟨h1, h2⟩ := skipPast_ring u u p q
    obtain ⟨h3, h4⟩ := headCheck_decides ((skipPast u p q).run u) p q hp hq
    have hsplit : ∀ a b c d e : Act, (acts [a, b, c, d, e]).run u = e.run ((acts [a, b, c, d]).run u) := by
      intro a b c d e; simp only [run_acts_cons, runs_nil]
    simp only [headDecided, fv_answered]
    rw [run_onlyIf_of_true _ _ (beq_iff_eq.2 he), hsplit, ← hu TILE_Q_HEAD (by simp [ringFields]), ← hu TILE_Q_DONE (by simp [ringFields])]
    exact ⟨h4, (h3 _ (by simp [ringFields])).trans h1, (h3 _ (by simp [ringFields])).trans h2⟩
  · simp only [fv_answered]
    rw [beq_eq_false_iff_ne.2 he, runs_false]
    exact ⟨hu TILE_QSTATE (by simp), hu TILE_Q_HEAD (by simp [ringFields])⟩

/-- Settles O18: Q_TAIL and Q_CTL move the queue, and the new head's check decides its state. -/
theorem queueControlMovesStates : Obligations.QueueControlMovesStates := by
  unfold Obligations.QueueControlMovesStates
  intro s r tile q htile hq
  refine ⟨fun v hv h => qTailWrite_run s r tile q v htile hq hv h, fun h => ?_, fun h => ?_, fun h => ?_, queueSkip_run s r tile q htile hq⟩
  · obtain ⟨t, h1, h2, h3, h4⟩ := queueStart_run s r tile q htile hq h
    exact ⟨t, h1, h2 _ (by simp [ringFields]), h3, h4⟩
  · obtain ⟨t, h1, h2, h3, h4, h5, h6⟩ := queueStop_run s r tile q htile hq h
    exact ⟨t, h1, h2, h3, h4 _ (by simp [ringFields]), h4 _ (by simp [ringFields]), h5, h6⟩
  · obtain ⟨t, h1, h2, h3, h4⟩ := queueRearm_run s r tile q htile hq h
    exact ⟨t, h1, h2 _ (by simp [ringFields]), h2 _ (by simp [ringFields]), h3, h4⟩

end Sys2Proof.Machine
end

section
/-! PROOF. The control cores: their extension instructions, stalls and traps (R93, R94). -/

namespace Sys2Proof.Machine

/-! ### Steps of a core -/

theorem coreSt_congr {s t : State} (p : Nat) (h : t.tiles = s.tiles) : coreSt t p = coreSt s p := by
  unfold coreSt; rw [tileSt_congr s t p h]

theorem xreg_congr {s t : State} (p k : Nat) (h : (coreSt t p).x = (coreSt s p).x) : xreg t p k = xreg s p k := by
  unfold xreg; rw [h]

theorem coreSt_setF (s : State) (f : Fld) (v i n p : Nat) : coreSt ((setF f v i n).run s) p = coreSt s p := rfl

theorem coreNext_steps (s : State) (p : Nat) :
    (coreSt ((coreNext p).run s) p).x = (coreSt s p).x ∧ (coreSt ((coreNext p).run s) p).pc = (coreSt s p).pc + 4 := by
  rw [coreNext, coreSt_updCore]
  exact ⟨rfl, rfl⟩

/-- A register and the pc after an instruction's value and its step, from any state with the core's registers and pc. -/
theorem coreStepped_next (s u : State) (p rd v : Nat) (hrd : rd < 32) (hv : v < 2 ^ 64) (hx : (coreSt u p).x = (coreSt s p).x)
    (hpc : (coreSt u p).pc = (coreSt s p).pc) : coreStepped s ((acts [setX p rd v, coreNext p]).run u) p rd v := by
  rw [run_acts_cons, run_acts_cons, runs_nil]
  refine ⟨fun k hk => ?_, ?_⟩
  · rw [xreg_congr p k (coreNext_steps _ p).1, xreg_setX, xreg_congr p k hx, Nat.mod_eq_of_lt hk, Nat.mod_eq_of_lt hrd,
      Nat.mod_eq_of_lt hv]
    by_cases h1 : k = rd
    · subst h1
      by_cases h0 : k = 0
      · subst h0
        rw [if_pos rfl, if_pos rfl, if_neg (by simp)]; rfl
      · rw [if_pos rfl, if_neg h0, if_pos ⟨rfl, h0⟩]
    · rw [if_neg h1, if_neg (by tauto)]
  · rw [(coreNext_steps _ p).2, (setX_rest p rd v u).1, hpc]

theorem setX_wait (p rd v : Nat) (s : State) : (coreSt ((setX p rd v).run s) p).wait = (coreSt s p).wait := by
  rw [setX, run_onlyIf]
  split
  · rw [coreSt_updCore]
  · rfl

theorem setX_within (p rd v : Nat) : (setX p rd v).Within [.tiles] fun _ => False := by
  simp [setX, updCore]

theorem coreNext_within (p : Nat) : (coreNext p).Within [.tiles] fun _ => False := by
  simp [coreNext, updCore]

theorem stepOn_within (p rd v : Nat) : (acts [setX p rd v, coreNext p]).Within [.tiles] fun _ => False := by
  simp only [only_acts_cons, only_acts_nil, and_true]
  exact ⟨setX_within p rd v, coreNext_within p⟩

/-- An instruction of a core that runs. -/
theorem coreOp_run (s : State) (tile : Nat) (f : Nat → Act) (ht : tile < 144) (hr : coreReady s (physOf s tile) = true) :
    (coreOp tile f).run s = (f (physOf s tile)).run s := by
  rw [coreOp, run_look, run_onlyIf_of_true]
  rw [hr, decide_eq_true ht]; rfl

theorem tok_lt (s : State) (p c : Nat) : tok s p c < 2 ^ 20 := fv_lt s TILE_TOKEN p c

/-! ### Waiting -/

/-- A core that stalls at an instruction. -/
theorem coreStall_stalls (s : State) (p : Nat) (w : CoreWait) : coreStalled s ((coreStall p w).run s) p w := by
  rw [coreStall, run_acts_cons, run_acts_cons, runs_nil]
  have hcore : coreSt ((setF TILE_CORE_STALLED 1 p).run ((updCore p fun c => { c with wait := w }).run s)) p =
      { coreSt s p with wait := w } := by rw [coreSt_setF, coreSt_updCore]
  refine ⟨by rw [hcore], ?_, by rw [hcore], fun k _ => xreg_congr p k (by rw [hcore])⟩
  rw [fb_setF_self _ _ _ _ _ ⟨by decide, by decide⟩]; rfl

/-- TOK.WAIT and WFE: the value is returned where what the core waits for holds. -/
theorem coreAwait_run (s : State) (p rd v : Nat) (w : CoreWait) (c : Prop) [Decidable c] (hrd : rd < 32) (hv : v < 2 ^ 64)
    (hover : stallOver s p w = if c then some (rd, v) else none) :
    if c then coreStepped s ((coreAwait p w).run s) p rd v else coreStalled s ((coreAwait p w).run s) p w := by
  rw [coreAwait, run_look]
  by_cases hc : c
  · rw [if_pos hc] at hover ⊢
    rw [hover]
    exact coreStepped_next s s p rd v hrd hv rfl rfl
  · rw [if_neg hc] at hover ⊢
    rw [hover]
    exact coreStall_stalls s p w

/-! ### Traps -/

/-- The core as it enters a trap. -/
def trapped (c : CtlCore) (cause v : Nat) : CtlCore :=
  { c with mepc := c.pc, mcause := BitVec.ofNat 64 cause, mtval := BitVec.ofNat 64 v, wait := .none }

/-- A core that stops at a trap. -/
def trapStop (s : State) (p cause : Nat) : Act :=
  acts [setF TILE_CORE_FAULT 1 p, setF TILE_CORE_CAUSE (cause % 2 ^ 32) p,
    setF TILE_CORE_EPC ((coreSt s p).pc.toNat % 2 ^ 32) p, raiseEvt (tilePg p) (2 ^ 20)]

theorem trapStop_within (s : State) (p cause : Nat) : (trapStop s p cause).Parts [.events, .out] := by
  simp only [trapStop, only_acts_cons, only_acts_nil, within_setF, and_true]
  exact ⟨trivial, trivial, trivial, raiseEvt_parts _ _ (by decide) (by decide)⟩

/-- A core goes to its handler. -/
def trapEnter (c : CtlCore) (cause : Nat) (d : CtlCore) : CtlCore :=
  { d with
    pc := BitVec.ofNat 64 (if bit c.mtvec.toNat 0 && bit cause 63 then c.mtvec.toNat / 4 * 4 + 4 * (cause % 2 ^ 63)
      else c.mtvec.toNat / 4 * 4)
    mstatus := BitVec.ofNat 64 (setBits (setBit (setBit c.mstatus.toNat 7 (bit c.mstatus.toNat 3)) 3 false) 12 11 3) }

/-- The state as a core traps. -/
def trapState (s : State) (p cause v : Nat) : State :=
  (setF TILE_CORE_STALLED 0 p).run ((updCore p fun c => trapped c cause v).run s)

theorem coreTrap_run (s : State) (p cause v : Nat) : (coreTrap p cause v).run s =
    (if (coreSt s p).mtvec = 0 then trapStop s p cause else updCore p (trapEnter (coreSt s p) cause)).run (trapState s p cause v) := by
  rw [coreTrap, run_look]
  dsimp only
  rw [run_acts_cons, run_acts_cons, run_acts_cons, runs_nil]
  split <;> rfl

theorem coreSt_trapState (s : State) (p cause v : Nat) : coreSt (trapState s p cause v) p = trapped (coreSt s p) cause v := by
  rw [trapState, coreSt_setF, coreSt_updCore]

/-- A trap leaves its pc, cause and value. -/
theorem coreTrap_saves (s : State) (p cause v : Nat) : (coreSt ((coreTrap p cause v).run s) p).mepc = (coreSt s p).pc ∧
    (coreSt ((coreTrap p cause v).run s) p).mcause = BitVec.ofNat 64 cause ∧
    (coreSt ((coreTrap p cause v).run s) p).mtval = BitVec.ofNat 64 v := by
  rw [coreTrap_run]
  split
  · rw [coreSt_congr p ((trapStop_within s p cause).same .tiles (by decide) _), coreSt_trapState]
    exact ⟨rfl, rfl, rfl⟩
  · rw [coreSt_updCore, coreSt_trapState]
    exact ⟨rfl, rfl, rfl⟩

theorem coreTrap_parts (p cause v : Nat) : (coreTrap p cause v).Parts [.tiles, .events, .out] := by
  simp only [coreTrap, only_look_iff, only_acts_cons, only_acts_nil, only_ite_iff, updCore, within_updTile, within_setF, and_true]
  exact fun s => ⟨by decide, trivial, fun _ => ⟨trivial, trivial, trivial, raiseEvt_parts _ _ (by decide) (by decide)⟩, fun _ => by decide⟩

theorem coreTrap_summaries (s : State) (p cause v : Nat) :
    (tileSt ((coreTrap p cause v).run s) p).summaries = (tileSt s p).summaries := by
  have hup : ∀ (f : CtlCore → CtlCore) (w : State), (tileSt ((updCore p f).run w) p).summaries = (tileSt w p).summaries := by
    intro f w
    rw [run_updCore, tileSt_tile, if_pos rfl]
  have hst : (tileSt (trapState s p cause v) p).summaries = (tileSt s p).summaries :=
    hup (fun c => trapped c cause v) s
  rw [coreTrap_run]
  split
  · rw [tileSt_congr _ _ p ((trapStop_within s p cause).same .tiles (by decide) _), hst]
  · rw [hup, hst]

/-- With no handler the core stops, its cause and pc on record. -/
theorem coreTrap_stops (s : State) (p cause v : Nat) (hp : p < 160) (h : (coreSt s p).mtvec = 0) :
    fb ((coreTrap p cause v).run s) TILE_CORE_FAULT p = true ∧ fv ((coreTrap p cause v).run s) TILE_CORE_CAUSE p = cause % 2 ^ 32 ∧
      fv ((coreTrap p cause v).run s) TILE_CORE_EPC p = (coreSt s p).pc.toNat % 2 ^ 32 ∧
      (fv ((coreTrap p cause v).run s) (hdrEvtPend .tile) p).testBit 20 = true := by
  rw [coreTrap_run, if_pos h, trapStop, run_acts_cons, run_acts_cons, run_acts_cons, run_acts_cons, runs_nil]
  have hev : ∀ (u : State) (f : Fld), f.blk = .tile → f.stride = 0 → 0x40 ≤ f.off → f.off < 0x100 →
      fv ((raiseEvt (tilePg p) (2 ^ 20)).run u) f p = fv u f p := by
    intro u f hb hs h1 h2
    refine fv_raiseEvt u (tilePg p) f p 0 _ ?_ (fldKey_ne_lost f p 0 (by rw [hb]; decide) (by omega) (by rw [hs]; omega))
    exact fldKey_ne_off f _ p 0 0 (by rw [hb]; rfl) (by rw [hs]; simp [hdrEvtPend]; omega)
  have hne : ∀ f g : Fld, f.blk = .tile → g.blk = .tile → f.stride = 0 → g.stride = 0 → f.off ≠ g.off → fldKey f p 0 ≠ fldKey g p 0 :=
    fun f g hf hg hs ht ho => fldKey_ne_off f g p 0 0 (hf.trans hg.symm) (by rw [hs, ht]; omega)
  refine ⟨?_, ?_, ?_, pending_raiseEvt (tilePg p) _ 20 _ (by decide) (by decide)⟩
  · rw [fb, hev _ _ rfl rfl (by decide) (by decide), fv_setF_other _ TILE_CORE_EPC _ _ _ _ _ _ (by decide) (Or.inl (hne _ _ rfl rfl rfl rfl (by decide))),
      fv_setF_other _ TILE_CORE_CAUSE _ _ _ _ _ _ (by decide) (Or.inl (hne _ _ rfl rfl rfl rfl (by decide))),
      fv_setF_self _ _ _ _ _ ⟨by decide, by decide⟩]
    rfl
  · rw [hev _ _ rfl rfl (by decide) (by decide), fv_setF_other _ TILE_CORE_EPC _ _ _ _ _ _ (by decide) (Or.inl (hne _ _ rfl rfl rfl rfl (by decide))),
      fv_setF_self _ _ _ _ _ ⟨by decide, by decide⟩]
    exact Nat.mod_mod _ _
  · rw [hev _ _ rfl rfl (by decide) (by decide), fv_setF_self _ _ _ _ _ ⟨by decide, by decide⟩]
    exact Nat.mod_mod _ _

/-- The interrupt bits of a core's status as it enters its handler. -/
theorem trapStatus_bits (st : Nat) :
    (BitVec.ofNat 64 (setBits (setBit (setBit st 7 (bit st 3)) 3 false) 12 11 3)).toNat.testBit 3 = false ∧
      (BitVec.ofNat 64 (setBits (setBit (setBit st 7 (bit st 3)) 3 false) 12 11 3)).toNat.testBit 7 = st.testBit 3 := by
  rw [BitVec.toNat_ofNat, Nat.testBit_mod_two_pow, Nat.testBit_mod_two_pow]
  simp only [setBit, testBit_setBits]
  refine ⟨by simp [b2n], ?_⟩
  cases hb : st.testBit 3 <;> simp [b2n, bit, hb]

/-- With a handler the core goes there. -/
theorem coreTrap_enters (s : State) (p cause v : Nat) (h : (coreSt s p).mtvec ≠ 0) :
    (coreSt ((coreTrap p cause v).run s) p).pc = BitVec.ofNat 64 ((coreSt s p).mtvec.toNat / 4 * 4 +
        if (coreSt s p).mtvec.toNat.testBit 0 && cause.testBit 63 then 4 * (cause % 2 ^ 63) else 0) ∧
      (coreSt ((coreTrap p cause v).run s) p).mstatus.toNat.testBit 3 = false ∧
      (coreSt ((coreTrap p cause v).run s) p).mstatus.toNat.testBit 7 = (coreSt s p).mstatus.toNat.testBit 3 := by
  rw [coreTrap_run, if_neg h, coreSt_updCore]
  refine ⟨?_, trapStatus_bits _⟩
  change BitVec.ofNat 64 (if bit (coreSt s p).mtvec.toNat 0 && bit cause 63 then _ else _) =
    BitVec.ofNat 64 (_ + if bit (coreSt s p).mtvec.toNat 0 && bit cause 63 then _ else _)
  split <;> rfl

/-! ### The instructions -/

/-- TOK.ADD. -/
theorem tokAdd_run (s : State) (p rd rs1 rs2 c n : Nat) (hp : p < 160) (hrd : rd < 32) (hc : c = xreg s p rs1 % 256)
    (hn : n = xreg s p rs2 % 2 ^ 20) : coreStepped s ((tokAdd p rd rs1 rs2).run s) p rd (min (tok s p c + n) (2 ^ 20 - 1)) ∧
      tok ((tokAdd p rd rs1 rs2).run s) p c = min (tok s p c + n) (2 ^ 20 - 1) := by
  have hc' : c < 256 := by omega
  have hrun : (tokAdd p rd rs1 rs2).run s =
      (acts [setX p rd (tok ((addToken p c n).run s) p c), coreNext p]).run ((addToken p c n).run s) := by
    rw [tokAdd, run_look]
    dsimp only
    rw [← hc, ← hn]
    simp only [run_acts_cons, runs_nil, run_look]
  have hself := addToken_self s p c n hp hc'
  have htiles := (addToken_within p c n).same .tiles (by decide) s
  rw [hrun, hself]
  refine ⟨coreStepped_next s _ p rd _ hrd (by omega) ?_ ?_, ?_⟩
  · rw [coreSt_congr p htiles]
  · rw [coreSt_congr p htiles]
  · exact ((stepOn_within p rd _).fv _ TILE_TOKEN p c fun h => h).trans hself

/-- SUM.POP of a record. -/
theorem sumPop_record (s : State) (p rd rs1 : Nat) (x : List Byte) (rest : List (List Byte)) (hrd : rd < 32)
    (h0 : xreg s p rs1 % 32 = 0) (h1 : xreg s p rs1 / 0x10000 = 1) (hsum : (tileSt s p).summaries = x :: rest) (hx : x ≠ [])
    (hflip : flipArmed s (.dmem p) = false) :
    coreStepped s ((sumPop p rd rs1).run s) p rd 1 ∧ (tileSt ((sumPop p rd rs1).run s) p).summaries = rest ∧
      ((sumPop p rd rs1).run s).mem = mapPut memDefault s.mem (muBase (.dmem p) + xreg s p rs1 % 0x10000) x := by
  have hrun : (sumPop p rd rs1).run s = (acts [setX p rd 1, coreNext p]).run ((updTile p fun t => { t with summaries := rest }).run
      ((memPut (.dmem p) (xreg s p rs1 % 0x10000) x).run s)) := by
    rw [sumPop, run_look]
    dsimp only
    rw [if_neg (by omega), hsum]
    dsimp only
    rw [if_neg (by omega)]
    simp only [run_acts_cons, runs_nil]
  have htiles := (memWrite_parts (.dmem p) (xreg s p rs1 % 0x10000) x (List.replicate x.length false)).same .tiles (by decide) s
  have hmem := memWrite_mem s (.dmem p) (xreg s p rs1 % 0x10000) x (List.replicate x.length false) hflip
  rw [hrun, memPut]
  generalize (memWrite (.dmem p) (xreg s p rs1 % 0x10000) x (List.replicate x.length false)).run s = u at htiles hmem ⊢
  have hu : tileSt ((updTile p fun t => { t with summaries := rest }).run u) p = { tileSt s p with summaries := rest } := by
    rw [run_updTile, tileSt_tile, if_pos rfl, tileSt_congr s u p htiles]
  generalize hw : (updTile p fun t => { t with summaries := rest }).run u = w at hu ⊢
  have hcore : coreSt w p = coreSt s p := by rw [coreSt, hu]; rfl
  refine ⟨coreStepped_next s w p rd 1 hrd (by decide) (by rw [hcore]) (by rw [hcore]), ?_, ?_⟩
  · rw [run_acts_cons, run_acts_cons, runs_nil, coreNext, run_updCore, tileSt_tile, if_pos rfl]
    exact ((setX_rest p rd 1 w).2.2.2.2.2.2.2).trans (by rw [hu])
  · have hne : ¬ x.isEmpty = true := by simpa using hx
    rw [(stepOn_within p rd 1).same .mem (by decide) w, ← hw]
    exact hmem.trans (by simp only [memAfter, List.foldl_cons, List.foldl_nil, if_neg hne])

/-! ### CORE_RUN, CORE_STALL_RELEASE and CORE_TRAP -/

theorem regAt_coreCtl : ∃ d, regAt .tile 0x044 = some (d, 0x044) ∧ storeMask d .rw = 65535 * 2 ^ 16 + 1 ∧ storeMask d .w1c = 0 :=
  ⟨_, rfl, by decide, by decide⟩

/-- CORE_CTL's writable fields as a write leaves them. -/
theorem stored_coreCtl (s : State) (p pc : Nat) (run : Bool) (d : RegDef) (hpc : pc < 65536) (hrw : storeMask d .rw = 65535 * 2 ^ 16 + 1)
    (hw : storeMask d .w1c = 0) :
    fb (stored s ⟨.tile, p⟩ d 0x044 (pc * 65536 + b2n run)) TILE_CORE_RUN p = run ∧
      fv (stored s ⟨.tile, p⟩ d 0x044 (pc * 65536 + b2n run)) TILE_RESET_PC p = pc := by
  have hb : b2n run < 2 := by cases run <;> decide
  constructor
  · rw [fb, fv_stored_rw s ⟨.tile, p⟩ d 0x044 _ TILE_CORE_RUN p 0 (by decide) rfl (by rw [hrw]; decide) (by rw [hw]; decide)]
    have : bits (pc * 65536 + b2n run) 0 0 = b2n run := by simp only [bits]; omega
    refine (congrArg (· != 0) this).trans ?_
    cases run <;> rfl
  · rw [fv_stored_rw s ⟨.tile, p⟩ d 0x044 _ TILE_RESET_PC p 0 (by decide) rfl (by rw [hrw]; decide) (by rw [hw]; decide)]
    simp only [bits, TILE_RESET_PC]; omega

theorem coreStop_state (s : State) (p : Nat) : (coreSt ((coreStop p).run s) p).wait = .none ∧
    fb ((coreStop p).run s) TILE_CORE_FAULT p = false ∧ fb ((coreStop p).run s) TILE_CORE_STALLED p = false ∧
    fb ((coreStop p).run s) TILE_CORE_RUN p = fb s TILE_CORE_RUN p ∧ fv ((coreStop p).run s) TILE_RESET_PC p = fv s TILE_RESET_PC p := by
  rw [coreStop, run_acts_cons, run_acts_cons, run_acts_cons, runs_nil]
  refine ⟨by rw [coreSt_setF, coreSt_setF, coreSt_updCore], ?_, ?_, ?_, ?_⟩
  · rw [fb_setF_other _ TILE_CORE_STALLED TILE_CORE_FAULT _ _ _ _ _ (by decide) (Or.inr (by decide)), fb_setF_self _ _ _ _ _ ⟨by decide, by decide⟩]
    rfl
  · rw [fb_setF_self _ _ _ _ _ ⟨by decide, by decide⟩]; rfl
  · rw [fb_setF_other _ TILE_CORE_STALLED TILE_CORE_RUN _ _ _ _ _ (by decide) (Or.inr (by decide)),
      fb_setF_other _ TILE_CORE_FAULT TILE_CORE_RUN _ _ _ _ _ (by decide) (Or.inr (by decide))]
    rfl
  · rw [fv_setF_other _ TILE_CORE_STALLED TILE_RESET_PC _ _ _ _ _ (by decide) (Or.inr (by decide)),
      fv_setF_other _ TILE_CORE_FAULT TILE_RESET_PC _ _ _ _ _ (by decide) (Or.inr (by decide))]
    rfl

/-- CORE_RUN. -/
theorem coreRun_run (s : State) (r : Requester) (tile pc : Nat) (run : Bool) (ht : tile < 144) (hpc : pc < 65536)
    (hacc : accepted s r (tileReg tile 0 0x044) 4 (pc * 65536 + b2n run) = true) :
    ∃ t, exec (.coreRun r tile run pc) s = .next t ∧ fb t TILE_CORE_RUN (physOf s tile) = run ∧
      fv t TILE_RESET_PC (physOf s tile) = pc ∧
      (run = true → fb s TILE_CORE_RUN (physOf s tile) = false →
        (coreSt t (physOf s tile)).pc = BitVec.ofNat 64 pc ∧ (coreSt t (physOf s tile)).wait = .none) ∧
      (run = false → fb s TILE_CORE_RUN (physOf s tile) = true → fb t TILE_CORE_FAULT (physOf s tile) = false ∧
        fb t TILE_CORE_STALLED (physOf s tile) = false ∧ (coreSt t (physOf s tile)).wait = .none) := by
  obtain ⟨d, hd, hrw, hw⟩ := regAt_coreCtl
  have hb : b2n run < 2 := by cases run <;> decide
  have hrow : rowWrite s (.coreRun r tile run pc) = some (r, tileReg tile 0 0x044, 4, pc * 65536 + b2n run) := by
    rw [rowWrite, tileWrite, if_pos ht, Nat.mod_eq_of_lt hpc]
  obtain ⟨hrun, -⟩ := exec_tile_row s _ r tile 0x044 _ d ht hrow hacc hd (by decide) (by decide) (by omega)
  generalize physOf s tile = p at hrun ⊢
  have hbit : bit (pc * 65536 + b2n run) 0 = run := by
    have h0 : (pc * 65536 + b2n run) % 2 = b2n run := by omega
    rw [bit, Nat.testBit_zero, h0]
    cases run <;> rfl
  obtain ⟨h1, h2⟩ := stored_coreCtl s p pc run d hpc hrw hw
  rw [tileApply, if_pos rfl, hbit] at hrun
  generalize stored s ⟨.tile, p⟩ d 0x044 (pc * 65536 + b2n run) = u at hrun h1 h2
  refine ⟨_, hrun, ?_⟩
  simp only [fb_answered, fv_answered]
  cases run
  · rw [if_neg (by decide)]
    cases hold : fb s TILE_CORE_RUN p
    · rw [runs_false]
      exact ⟨h1, h2, by simp, by simp⟩
    · rw [run_onlyIf_of_true _ _ rfl]
      obtain ⟨h3, h4, h5, h6, h7⟩ := coreStop_state u p
      exact ⟨h6.trans h1, h7.trans h2, by simp, fun _ _ => ⟨h4, h5, h3⟩⟩
  · rw [if_pos rfl]
    cases hold : fb s TILE_CORE_RUN p
    · have hstart : (onlyIf (!false) (coreStart p)).run u =
          (updCore p fun c => { c with pc := BitVec.ofNat 64 (fv u TILE_RESET_PC p), wait := .none }).run u := rfl
      have hcore : ∀ w : State, coreSt (answered w r (tileReg tile 0 0x044)) p = coreSt w p := fun _ => rfl
      rw [hstart]
      refine ⟨h1, h2, fun _ _ => ?_, by simp⟩
      rw [hcore, coreSt_updCore, h2]
      exact ⟨rfl, rfl⟩
    · exact ⟨h1, h2, by simp, by simp⟩

/-- CORE_STALL_RELEASE. -/
theorem coreStallRelease_run (s : State) (tile rd v : Nat) (ht : tile < 144) (hrd : rd < 32) (hv : v < 2 ^ 64)
    (hrun : fb s TILE_CORE_RUN (physOf s tile) = true)
    (hover : stallOver s (physOf s tile) (coreSt s (physOf s tile)).wait = some (rd, v)) :
    ∃ t, exec (.coreStallRelease tile) s = .next t ∧ coreStepped s t (physOf s tile) rd v ∧ (coreSt t (physOf s tile)).wait = .none ∧
      fb t TILE_CORE_STALLED (physOf s tile) = false := by
  refine ⟨_, rfl, ?_⟩
  rw [run_onlyIf_of_true _ _ (decide_eq_true ht)]
  generalize physOf s tile = p at hrun hover ⊢
  have hsplit : ∀ a b c d : Act, (acts [a, b, c, d]).run s = (acts [c, d]).run (b.run (a.run s)) := by
    intro a b c d; simp only [run_acts_cons, runs_nil]
  rw [stallRelease, run_look, hover]
  dsimp only
  rw [hrun, run_onlyIf_of_true _ _ rfl, hsplit]
  have hcore : coreSt ((setF TILE_CORE_STALLED 0 p).run ((updCore p fun c => { c with wait := .none }).run s)) p =
      { coreSt s p with wait := .none } := by rw [coreSt_setF, coreSt_updCore]
  have hflag : fb ((setF TILE_CORE_STALLED 0 p).run ((updCore p fun c => { c with wait := .none }).run s)) TILE_CORE_STALLED p = false := by
    rw [fb_setF_self _ _ _ _ _ ⟨by decide, by decide⟩]; rfl
  generalize (setF TILE_CORE_STALLED 0 p).run ((updCore p fun c => { c with wait := .none }).run s) = u at hcore hflag ⊢
  refine ⟨coreStepped_next s u p rd v hrd hv (by rw [hcore]) (by rw [hcore]), ?_,
    ((stepOn_within p rd v).fb u TILE_CORE_STALLED p 0 fun h => h).trans hflag⟩
  rw [run_acts_cons, run_acts_cons, runs_nil, coreNext, coreSt_updCore]
  exact (setX_wait p rd v u).trans (by rw [hcore])

/-- Settles O29: a core's start and stop, the end of its stall, and its two ways to trap. -/
theorem coresRunStallAndTrap : Obligations.CoresRunStallAndTrap := by
  unfold Obligations.CoresRunStallAndTrap
  refine ⟨fun s r tile pc run ht hpc h => coreRun_run s r tile pc run ht hpc h,
    fun s tile rd v ht hrd hv hr h => coreStallRelease_run s tile rd v ht hrd hv hr h, fun s tile cause v ht hr hf _ => ?_⟩
  have hp := physOf_lt s tile
  have hgo : (onlyIf (decide (tile < 144) && fb s TILE_CORE_RUN (physOf s tile) && !fb s TILE_CORE_FAULT (physOf s tile))
      (coreTrap (physOf s tile) cause v)).run s = (coreTrap (physOf s tile) cause v).run s :=
    run_onlyIf_of_true _ _ (by rw [hr, hf, decide_eq_true ht]; rfl)
  refine ⟨_, congrArg Host.Outcome.next hgo, ?_⟩
  obtain ⟨h1, h2, h3⟩ := coreTrap_saves s (physOf s tile) cause v
  exact ⟨h1, h2, h3, coreTrap_stops s _ cause v hp, coreTrap_enters s _ cause v⟩

/-- Settles O28: each instruction's value, the stalls and the faults of SUM.POP. -/
theorem coreInstructionsReturnValues : Obligations.CoreInstructionsReturnValues := by
  unfold Obligations.CoreInstructionsReturnValues
  intro s tile rd rs1 rs2 ht hrd hr
  have hp := physOf_lt s tile
  have hop : ∀ f : Nat → Act, (Host.Outcome.next ((coreOp tile f).run s) : Host.Outcome State Fault Refusal) =
      .next ((f (physOf s tile)).run s) := fun f => congrArg Host.Outcome.next (coreOp_run s tile f ht hr)
  generalize physOf s tile = p at hr hp hop
  refine ⟨⟨_, hop _, ?_⟩, ⟨_, hop _, ?_⟩, ⟨_, hop _, ?_⟩, ⟨_, hop _, ?_⟩, fun h1 h2 => ⟨_, hop _, ?_⟩, fun h0 hs => ⟨_, hop _, ?_⟩,
    fun h0 => ⟨_, hop _, ?_⟩, fun x rest h0 h1 hs hx _ hf => ⟨_, hop _, sumPop_record s p rd rs1 x rest hrd h0 h1 hs hx hf⟩⟩
  · exact ⟨coreStepped_next s s p rd _ hrd (Nat.lt_trans (tok_lt ..) (by decide)) rfl rfl,
      (stepOn_within p rd _).regsKept s [] fun _ h => h.elim⟩
  · exact tokAdd_run s p rd rs1 rs2 _ _ hp hrd rfl rfl
  · refine coreAwait_run s p rd (tok s p (xreg s p rs1 % 256)) _ _ hrd (Nat.lt_trans (tok_lt ..) (by decide)) ?_
    simp only [stallOver, Bool.or_eq_true, decide_eq_true_eq]
  · refine coreAwait_run s p rd _ _ _ hrd (rdKey_lt ..) ?_
    simp only [stallOver, Bool.or_eq_true, Bool.not_eq_true', List.isEmpty_eq_false_iff, ne_eq]
  · exact ⟨coreStepped_next s s p rd _ hrd (by simp only [curInstant, instant]; omega) rfl rfl,
      (stepOn_within p rd _).regsKept s [] fun _ h => h.elim⟩
  · rw [sumPop, run_look]
    dsimp only
    rw [if_neg (by omega), hs]
    exact ⟨coreStepped_next s s p rd 0 hrd (by decide) rfl rfl, (stepOn_within p rd 0).memKept s (by decide) (by decide) (by decide)⟩
  · rw [sumPop, run_look]
    dsimp only
    rw [if_pos h0]
    obtain ⟨-, h1, h2⟩ := coreTrap_saves s p 7 (xreg s p rs1)
    exact ⟨h1, h2, coreTrap_summaries s p 7 _, (coreTrap_parts p 7 _).memKept s (by decide) (by decide) (by decide)⟩

end Sys2Proof.Machine
end

section
/-! PROOF. Soft reset (R31, R34): a device link's page beyond the first keeps nothing of what its registers held. -/

namespace Sys2Proof.Machine

/-- After reset, with a far node on record for device link 1. -/
def farNodeState : State := (setF LINK_FAR_NODE 5 1).run State.reset

/-- The page of device link 1. -/
def secondLinkPage : PageRef := ⟨.link, 1⟩

/-- PAGE_CTL of device link 1. -/
def secondLinkCtl : Nat := linkReg farNodeState 1 0x008

/-- What SOFT_RESET of device link 1 leaves to be read at LINK_FAR while it is in progress. -/
def farAfterReset : Option DWord :=
  match exec (.softReset (.mgmt 0) secondLinkCtl 2) farNodeState with
  | .next t => some (mapGet regReset t.srstOld (pageKey secondLinkPage 0x104))
  | _ => none

/-- The window saved is that of the first link's page, so LINK_FAR reads its reset value, and held 5. -/
theorem farAfterReset_lost : farAfterReset = some 0 ∧ mapGet regReset farNodeState.regs (pageKey secondLinkPage 0x104) = 5 := by
  decide +kernel

theorem secondLink_accepted : accepted farNodeState (.mgmt 0) secondLinkCtl 4 2 = true ∧ raOff secondLinkCtl = 0x008 ∧
    pageOf farNodeState secondLinkCtl = some secondLinkPage := by decide +kernel

/-- Refutes O15: a soft reset of a device link other than the first saves the first link's registers (`saveOld` takes the
window from `pageKey p 0x040`, which all links share), so what LINK_FAR held is not readable until SOFT_RESET_DONE. -/
theorem not_softResetRestoresBlock : ¬ Obligations.SoftResetRestoresBlock := by
  unfold Obligations.SoftResetRestoresBlock
  rintro ⟨h, -⟩
  obtain ⟨hacc, hoff, hpage⟩ := secondLink_accepted
  obtain ⟨t, ht, -, -, -, -, -, -, -, hold⟩ := h farNodeState (.mgmt 0) secondLinkCtl 2 secondLinkPage hacc hoff (by decide) hpage
  obtain ⟨hlost, hheld⟩ := farAfterReset_lost
  have hread := hold 0x104 (by decide) (by decide)
  rw [farAfterReset, ht] at hlost
  rw [hheld] at hread
  exact absurd (hread.symm.trans (Option.some.inj hlost)) (by decide)

end Sys2Proof.Machine
end

section
/-! PROOF. Records as bytes, memories with nothing to find in them, and the commands of the placement table (R308 to R310). -/

namespace Sys2Proof.Machine

/-! ### Records -/

theorem recLE_eq_of_slice {l m : List Byte} {p q n : Nat} (h : (l.drop p).take n = (m.drop q).take n) : recLE l p n = recLE m q n := by
  unfold recLE; rw [h]

theorem recLE_append_left (l m : List Byte) (p n : Nat) (h : p + n ≤ l.length) : recLE (l ++ m) p n = recLE l p n := by
  refine recLE_eq_of_slice ?_
  rw [List.drop_append_of_le_length (by omega), List.take_append_of_le_length (by rw [List.length_drop]; omega)]

theorem recLE_append_right (l m : List Byte) (p n : Nat) (h : l.length ≤ p) : recLE (l ++ m) p n = recLE m (p - l.length) n := by
  refine recLE_eq_of_slice ?_
  rw [List.drop_append, List.drop_eq_nil_of_le h, List.nil_append]

theorem recLE_drop_take (l : List Byte) (a m j n : Nat) (h : j + n ≤ m) : recLE ((l.drop a).take m) j n = recLE l (a + j) n := by
  refine recLE_eq_of_slice ?_
  rw [List.drop_take, List.take_take, Nat.min_eq_left (by omega), List.drop_drop]

theorem recLE_take (l : List Byte) (m j n : Nat) (h : j + n ≤ m) : recLE (l.take m) j n = recLE l j n := by
  have := recLE_drop_take l 0 m j n h
  rwa [List.drop_zero, Nat.zero_add] at this

theorem length_leBytes (n v : Nat) : (leBytes n v).length = n := by
  induction n generalizing v with
  | zero => rfl
  | succ n ih => rw [leBytes, List.length_cons, ih]

theorem recLE_leBytes (n v : Nat) : recLE (leBytes n v) 0 n = v % 256 ^ n := by
  rw [recLE, List.drop_zero, List.take_of_length_le (length_leBytes n v).le, leNat_leBytes]

theorem leNat_lt (l : List Byte) : leNat l < 256 ^ l.length := by
  induction l with
  | nil => decide
  | cons b l ih =>
    have hb : b.toNat < 256 := b.isLt
    have hcons : leNat (b :: l) = b.toNat + 256 * leNat l := rfl
    rw [hcons, List.length_cons, Nat.pow_succ]
    omega

theorem recLE_lt (l : List Byte) (p n : Nat) : recLE l p n < 256 ^ n :=
  Nat.lt_of_lt_of_le (leNat_lt _) (Nat.pow_le_pow_right (by decide) (List.length_take_le ..))

/-- The first byte of a number's bytes. -/
theorem recLE_leBytes_first (n v : Nat) : recLE (leBytes (n + 1) v) 0 1 = v % 256 := by
  have h : recLE (leBytes (n + 1) v) 0 1 = (BitVec.ofNat 8 v).toNat + 256 * 0 := rfl
  rw [h, BitVec.toNat_ofNat]; rfl

theorem leNat_append (l m : List Byte) : leNat (l ++ m) = leNat l + 256 ^ l.length * leNat m := by
  induction l with
  | nil => simp [leNat]
  | cons b l ih =>
    have h1 : leNat (b :: l ++ m) = b.toNat + 256 * leNat (l ++ m) := rfl
    have h2 : leNat (b :: l) = b.toNat + 256 * leNat l := rfl
    rw [h1, h2, ih, List.length_cons, Nat.pow_succ]
    ring

/-- A field's first byte. -/
theorem recLE_first_byte (l : List Byte) (p n : Nat) (h : p < l.length) : recLE l p (n + 1) % 256 = recLE l p 1 := by
  have hsplit : (l.drop p).take (n + 1) = (l.drop p).take 1 ++ ((l.drop p).drop 1).take n := by
    rw [Nat.add_comm, List.take_add]
  have hlen : ((l.drop p).take 1).length = 1 := by rw [List.length_take, List.length_drop]; omega
  have hlt := recLE_lt l p 1
  rw [recLE, hsplit, leNat_append, hlen]
  rw [recLE] at hlt ⊢
  omega

theorem length_putAt (r : List Byte) (o : Nat) (bs : List Byte) (h : o + bs.length ≤ r.length) : (putAt r o bs).length = r.length := by
  simp only [putAt, List.length_append, List.length_take, List.length_drop]; omega

theorem recLE_putAt_before (r : List Byte) (o p n : Nat) (bs : List Byte) (h : p + n ≤ o) (ho : o ≤ r.length) :
    recLE (putAt r o bs) p n = recLE r p n := by
  rw [putAt, List.append_assoc, recLE_append_left _ _ _ _ (by rw [List.length_take]; omega), recLE_take _ _ _ _ h]

theorem recLE_putAt_in (r : List Byte) (o j n : Nat) (bs : List Byte) (h : j + n ≤ bs.length) (ho : o ≤ r.length) :
    recLE (putAt r o bs) (o + j) n = recLE bs j n := by
  have hl : (r.take o).length = o := by rw [List.length_take]; omega
  rw [putAt, List.append_assoc, recLE_append_right _ _ _ _ (by omega), recLE_append_left _ _ _ _ (by omega), hl, Nat.add_sub_cancel_left]

theorem recLE_putAt_after (r : List Byte) (o p n : Nat) (bs : List Byte) (h : o + bs.length ≤ p) (ho : o + bs.length ≤ r.length) :
    recLE (putAt r o bs) p n = recLE r p n := by
  have hl : (r.take o ++ bs).length = o + bs.length := by rw [List.length_append, List.length_take]; omega
  rw [putAt, recLE_append_right _ _ _ _ (by omega), hl]
  refine recLE_eq_of_slice ?_
  rw [List.drop_drop]; congr 2; omega

/-! ### Memories with nothing to find in them -/

theorem hbmBytesAt_length (s : State) (a n : Nat) : (hbmBytesAt s a n).length = n := by
  simp [hbmBytesAt, readBytes]

theorem touch_calm (s : State) (u : MemUnit) (off n : Nat) (hsyn : s.syn = []) (hw : ∀ u, anyWriteFirst s u = false) :
    (touch u off n).run s = s := by
  rw [touch, run_look, if_pos (by rw [hsyn, hw u]; rfl), runs_done]

theorem run_each_same {α : Type} (l : List α) (f : α → Act) (s : State) (h : ∀ x ∈ l, (f x).run s = s) : (each l f).run s = s := by
  induction l with
  | nil => rfl
  | cons x l ih =>
    rw [run_each_cons, h x (List.mem_cons_self ..), ih fun y hy => h y (List.mem_cons_of_mem _ hy)]

theorem touchLocal_calm (s : State) (a n : Nat) (hsyn : s.syn = []) (hw : ∀ u, anyWriteFirst s u = false) :
    (touchLocal a n).run s = s := by
  rw [touchLocal, run_look]
  dsimp only
  split
  · split
    · exact touch_calm s _ _ _ hsyn hw
    · refine run_each_same _ _ s fun w _ => ?_
      split
      · split
        · exact touch_calm s _ _ _ hsyn hw
        · rfl
      · exact touch_calm s _ _ _ hsyn hw
  · rfl

theorem localMarked_calm (s : State) (a n : Nat) (hsyn : s.syn = []) : localMarked s a n = false := by
  rw [localMarked, hsyn]; rfl

theorem readRecords_calm (s : State) (p : PageRef) (l : List (Nat × Nat)) (hsyn : s.syn = []) (hw : ∀ u, anyWriteFirst s u = false) :
    (readRecords p l).run s = s := by
  have hnone : l.find? (fun x => localMarked s x.1 x.2) = none :=
    List.find?_eq_none.2 fun x _ => by rw [localMarked_calm s _ _ hsyn]; decide
  rw [readRecords, run_acts_cons, run_acts_cons, runs_nil, run_each_same _ _ s fun x _ => touchLocal_calm s _ _ hsyn hw, run_look, hnone,
    runs_done]

/-- Unmarked bytes written where nothing is to be corrected and no fault is armed: memory and written bits change, no more. -/
theorem memWrite_calm (s : State) (u : MemUnit) (off : Nat) (bs : List Byte) (ms : List Bool) (hsyn : s.syn = [])
    (hflip : flipArmed s u = false) (hms : ms.contains true = false) :
    ∃ w, (memWrite u off bs ms).run s = { s with mem := memAfter s.mem [⟨u, off, bs, []⟩], written := w } := by
  have hmem := memWrite_mem s u off bs ms hflip
  have hkeep : ∃ m w, (memWrite u off bs ms).run s = { s with mem := m, written := w } := by
    have hclean : s.syn.isEmpty = true := by rw [hsyn]; rfl
    rw [run_memWrite, hflip, writeMarks, hms, hclean]
    split
    · exact ⟨s.mem, s.written, rfl⟩
    · rw [Bool.false_and, runs_false, run_acts_cons, if_pos (show (true && !false) = true from rfl), runs_done, run_acts_cons, run_acts_cons,
        runs_nil, runs_false]
      refine (writtenBits_only (P := fun u => ∃ k l, u = .written k l) (fun k l => ⟨k, l, rfl⟩) s u off bs.length).run_keeps
        (fun v => ∃ m w, v = { s with mem := m, written := w }) ?_ _ ⟨_, s.written, rfl⟩
      rintro _ v ⟨k, l, rfl⟩ ⟨m, w, rfl⟩
      exact ⟨m, _, rfl⟩
  obtain ⟨m, w, h⟩ := hkeep
  rw [h] at hmem
  rw [h]
  exact ⟨w, by rw [← hmem]⟩

/-- Bytes put into HBM with nothing to correct and no fault armed. -/
theorem hbmPut_state (s : State) (a : Nat) (bs : List Byte) (hsyn : s.syn = []) (hflip : flipArmed s (.hbm (a / 2 ^ 36)) = false)
    (hbs : bs.isEmpty = false) : ∃ w, (hbmPut a bs).run s = { s with mem := mapPut memDefault s.mem a bs, written := w } := by
  obtain ⟨w, h⟩ := memWrite_calm s (.hbm (a / 2 ^ 36)) (hbmOff a) bs (List.replicate bs.length false) hsyn hflip (by simp)
  refine ⟨w, ?_⟩
  rw [hbmPut, memPut, h]
  simp only [memAfter, List.foldl_cons, List.foldl_nil, hbs, Bool.false_eq_true, if_false, muBase_hbmOff]

/-- Bytes in memory at an address, read back where nothing is to be corrected. -/
theorem hbmBytesAt_mapPut (s t : State) (a : Nat) (bs : List Byte) (hsyn : t.syn = []) (hmem : t.mem = mapPut memDefault s.mem a bs) :
    hbmBytesAt t a bs.length = bs := by
  rw [hbmBytesAt_of_syn_nil _ _ _ hsyn, hmem]
  have h := mapRead_mapPut_self memDefault s.mem a 0 bs.length bs (by omega)
  rw [Nat.add_zero] at h
  rw [h, List.drop_zero, List.take_length]

/-- Whether a fault is armed is one register's matter. -/
theorem flipArmed_congr {s t : State} (u : MemUnit) (h : rdKey t (fldKey INTG_FLIP_ARMED (muIntg u) 0) = rdKey s (fldKey INTG_FLIP_ARMED (muIntg u) 0)) :
    flipArmed t u = flipArmed s u := by
  have h1 : fv t INTG_FLIP_ARMED (muIntg u) = fv s INTG_FLIP_ARMED (muIntg u) := by rw [fv, h]; rfl
  have h2 : fv t INTG_FLIP_TGT (muIntg u) = fv s INTG_FLIP_TGT (muIntg u) := by
    have hk : fldKey INTG_FLIP_TGT (muIntg u) 0 = fldKey INTG_FLIP_ARMED (muIntg u) 0 := rfl
    rw [fv, hk, h]; rfl
  rw [flipArmed, fb, h1, h2]; rfl

theorem memOutside_mapPut (s t : State) (a : Nat) (bs : List Byte) (h : t.mem = mapPut memDefault s.mem a bs) :
    memOutside s t [(a, bs.length)] := by
  intro k hk
  have := hk _ (List.mem_singleton_self _)
  rw [h, mapGet_mapPut, if_neg (by simp only at this; omega)]

theorem hbmBytesAt_congr {s t : State} (hm : t.mem = s.mem) (hs : t.syn = s.syn) (a n : Nat) : hbmBytesAt t a n = hbmBytesAt s a n := by
  have h1 : synAt t = synAt s := by funext k; rw [synAt, hs]; rfl
  have h2 : rawByte t = rawByte s := by funext k; rw [rawByte, hm]; rfl
  have h3 : deliverWord t = deliverWord s := by funext k; unfold deliverWord rawWord; rw [h1, hm]
  refine List.map_congr_left fun i _ => ?_
  unfold deliverByte
  rw [h1, h2, h3]

/-! ### Placement commands -/

/-- What the checks of a placement command leave. -/
theorem optErrs_ok (s : State) (r : List Byte) (h1 : 0x11 ≤ recLE r 0 1) (h2 : recLE r 0 1 ≤ 0x13) (h : firstErr (optErrs s r) = .ok) :
    ocUnusedZero r = true ∧ (recLE r 0 1 ≠ 0x11 → otValid (optRec s (ocHandle r)) = true) ∧ otMoving (optRec s (ocHandle r)) = false := by
  rw [optErrs] at h
  rw [if_neg (by omega)] at h
  obtain ⟨h, hmove⟩ := firstErr_append_ok h
  obtain ⟨h, hobj⟩ := firstErr_append_ok h
  obtain ⟨h, -⟩ := firstErr_append_ok h
  obtain ⟨h, -⟩ := firstErr_append_ok h
  obtain ⟨-, hzero⟩ := firstErr_append_ok h
  have h3 := firstErr_when_ok (by decide) hzero
  have h4 := firstErr_when_ok (by decide) hobj
  refine ⟨by simpa using h3, fun hne => ?_, firstErr_when_ok (by decide) hmove⟩
  rw [bne_iff_ne.2 hne, Bool.true_and] at h4
  simpa using h4

/-- SIZE of a record of SET is below its field's bound. -/
theorem ocSize_lt (r : List Byte) (h1 : recLE r 0 1 = 0x11) (h : ocUnusedZero r = true) : ocSize r < 2 ^ 41 := by
  rw [ocUnusedZero, h1] at h
  simp only [Bool.and_eq_true, decide_eq_true_eq] at h
  exact h.2.1.2

/-- An entry as SET leaves it. -/
def entrySet (e r : List Byte) : List Byte :=
  putAt e 0 (leBytes 1 (recLE r 8 1) ++ leBytes 3 (recLE e 1 3) ++ leBytes 4 0 ++ (r.drop 16).take 24)

/-- An entry as MOVE leaves it. -/
def entryMove (e r : List Byte) : List Byte :=
  putAt (putAt (putAt e 1 (leBytes 1 1)) 32 ((r.drop 16).take 8)) 40 (leBytes 1 (recLE r 8 1))

/-- An entry as CLEAR leaves it. -/
def entryClear (e : List Byte) : List Byte := putAt e 0 (leBytes 1 (recLE e 0 1 / 2 * 2))

theorem entrySet_length (e r : List Byte) (he : e.length = 64) (hr : r.length = 64) : (entrySet e r).length = 64 := by
  rw [entrySet, length_putAt, he]
  simp only [List.length_append, length_leBytes, List.length_take, List.length_drop, hr, he]; decide

theorem entrySet_fields (e r : List Byte) (he : e.length = 64) (hr : r.length = 64) (h1 : recLE r 0 1 = 0x11)
    (hzero : ocUnusedZero r = true) (hmove : otMoving e = false) :
    otValid (entrySet e r) = bit (recLE r 8 1) 0 ∧ otTier (entrySet e r) = bits (recLE r 8 1) 3 1 ∧ otMoving (entrySet e r) = false ∧
      otGen (entrySet e r) = 0 ∧ otSize (entrySet e r) = recLE r 16 8 ∧ otAddr (entrySet e r) = recLE r 24 8 := by
  have hlen : (leBytes 1 (recLE r 8 1) ++ leBytes 3 (recLE e 1 3) ++ leBytes 4 0 ++ (r.drop 16).take 24).length = 32 := by
    simp only [List.length_append, length_leBytes, List.length_take, List.length_drop, hr]; decide
  have hin : ∀ p n, p + n ≤ 32 → recLE (entrySet e r) p n =
      recLE (leBytes 1 (recLE r 8 1) ++ leBytes 3 (recLE e 1 3) ++ leBytes 4 0 ++ (r.drop 16).take 24) p n := by
    intro p n h
    have := recLE_putAt_in e 0 p n (leBytes 1 (recLE r 8 1) ++ leBytes 3 (recLE e 1 3) ++ leBytes 4 0 ++ (r.drop 16).take 24) (by omega) (by omega)
    rwa [Nat.zero_add] at this
  have h0 : recLE (entrySet e r) 0 1 = recLE r 8 1 := by
    rw [hin 0 1 (by decide), List.append_assoc, List.append_assoc, recLE_append_left _ _ _ _ (by rw [length_leBytes]), recLE_leBytes]
    exact Nat.mod_eq_of_lt (recLE_lt r 8 1)
  have h1' : recLE (entrySet e r) 1 1 = recLE e 1 1 := by
    rw [hin 1 1 (by decide), List.append_assoc, List.append_assoc, recLE_append_right _ _ _ _ (by rw [length_leBytes]), length_leBytes,
      recLE_append_left _ _ _ _ (by rw [length_leBytes]; decide), recLE_leBytes_first, recLE_first_byte e 1 2 (by omega)]
  have hhead : ∀ a b c d : List Byte, (a ++ b ++ c ++ d) = (a ++ b) ++ (c ++ d) := by intro a b c d; simp
  have h4 : recLE (entrySet e r) 4 4 = 0 := by
    rw [hin 4 4 (by decide), hhead, recLE_append_right _ _ _ _ (by simp [length_leBytes]), List.length_append, length_leBytes, length_leBytes,
      recLE_append_left _ _ _ _ (by rw [length_leBytes]), recLE_leBytes, Nat.zero_mod]
  have htail : ∀ p n, p + n ≤ 24 → recLE (entrySet e r) (8 + p) n = recLE r (16 + p) n := by
    intro p n h
    rw [hin _ _ (by omega), recLE_append_right _ _ _ _ (by simp only [List.length_append, length_leBytes]; omega)]
    simp only [List.length_append, length_leBytes]
    rw [show 8 + p - (1 + 3 + 4) = p by omega, recLE_drop_take _ _ _ _ _ h]
  refine ⟨by rw [otValid, h0], by rw [otTier, h0], by rw [otMoving, h1']; exact hmove, by rw [otGen, h4], ?_, by rw [otAddr, htail 8 8 (by decide)]⟩
  have h8 : recLE (entrySet e r) 8 8 = recLE r 16 8 := htail 0 8 (by decide)
  rw [otSize, h8]
  have := ocSize_lt r h1 hzero
  rw [ocSize] at this
  simp only [bits]; omega

theorem entryMove_length (e r : List Byte) (he : e.length = 64) (hr : r.length = 64) : (entryMove e r).length = 64 := by
  have h8 : ((r.drop 16).take 8).length = 8 := by rw [List.length_take, List.length_drop, hr]; rfl
  have hl1 : (putAt e 1 (leBytes 1 1)).length = 64 := by rw [length_putAt _ _ _ (by rw [length_leBytes, he]; decide), he]
  have hl2 : (putAt (putAt e 1 (leBytes 1 1)) 32 ((r.drop 16).take 8)).length = 64 := by
    rw [length_putAt _ _ _ (by rw [h8, hl1]; decide), hl1]
  rw [entryMove, length_putAt _ _ _ (by rw [length_leBytes, hl2]; decide), hl2]

theorem entryMove_fields (e r : List Byte) (he : e.length = 64) (hr : r.length = 64) (hv : otValid e = true) :
    otValid (entryMove e r) = true ∧ otTier (entryMove e r) = otTier e ∧ otMoving (entryMove e r) = true ∧
      otGen (entryMove e r) = otGen e ∧ otSize (entryMove e r) = otSize e ∧ otAddr (entryMove e r) = otAddr e ∧
      recLE (entryMove e r) 32 8 = recLE r 16 8 ∧ recLE (entryMove e r) 40 1 = recLE r 8 1 := by
  have h8 : ((r.drop 16).take 8).length = 8 := by rw [List.length_take, List.length_drop, hr]; rfl
  have hl1 : (putAt e 1 (leBytes 1 1)).length = 64 := by rw [length_putAt _ _ _ (by rw [length_leBytes, he]; decide), he]
  have hl2 : (putAt (putAt e 1 (leBytes 1 1)) 32 ((r.drop 16).take 8)).length = 64 := by
    rw [length_putAt _ _ _ (by rw [h8, hl1]; decide), hl1]
  have hlow : ∀ p n, p + n ≤ 32 → recLE (entryMove e r) p n = recLE (putAt e 1 (leBytes 1 1)) p n := by
    intro p n h
    rw [entryMove, recLE_putAt_before _ _ _ _ _ (by omega) (by omega), recLE_putAt_before _ _ _ _ _ h (by omega)]
  have h0 : recLE (entryMove e r) 0 1 = recLE e 0 1 := by
    rw [hlow 0 1 (by decide), recLE_putAt_before _ _ _ _ _ (by decide) (by omega)]
  have h1 : recLE (entryMove e r) 1 1 = 1 := by
    rw [hlow 1 1 (by decide), show (1 : Nat) = 1 + 0 from rfl, recLE_putAt_in _ _ _ _ _ (by rw [length_leBytes]) (by omega)]; rfl
  have hmid : ∀ p n, 2 ≤ p → p + n ≤ 32 → recLE (entryMove e r) p n = recLE e p n := by
    intro p n h2 h
    rw [hlow p n h, recLE_putAt_after _ _ _ _ _ (by rw [length_leBytes]; omega) (by rw [length_leBytes]; omega)]
  refine ⟨by rw [otValid, h0]; exact hv, by rw [otTier, otTier, h0], by rw [otMoving, h1]; rfl, by rw [otGen, otGen, hmid 4 4 (by decide) (by decide)],
    by rw [otSize, otSize, hmid 8 8 (by decide) (by decide)], by rw [otAddr, otAddr, hmid 16 8 (by decide) (by decide)], ?_, ?_⟩
  · rw [entryMove, recLE_putAt_before _ _ _ _ _ (by decide) (by omega), show (32 : Nat) = 32 + 0 from rfl,
      recLE_putAt_in _ _ _ _ _ (by omega) (by omega), recLE_drop_take _ _ _ _ _ (by decide)]
  · rw [entryMove, show (40 : Nat) = 40 + 0 from rfl, recLE_putAt_in _ _ _ _ _ (by rw [length_leBytes]) (by omega), recLE_leBytes]
    exact Nat.mod_eq_of_lt (recLE_lt r 8 1)

theorem entryClear_length (e : List Byte) (he : e.length = 64) : (entryClear e).length = 64 := by
  rw [entryClear, length_putAt _ _ _ (by rw [length_leBytes, he]; decide), he]

theorem entryClear_fields (e : List Byte) (he : e.length = 64) :
    otValid (entryClear e) = false ∧ otTier (entryClear e) = otTier e ∧ otGen (entryClear e) = otGen e ∧
      otSize (entryClear e) = otSize e ∧ otAddr (entryClear e) = otAddr e := by
  have hlt := recLE_lt e 0 1
  have h0 : recLE (entryClear e) 0 1 = recLE e 0 1 / 2 * 2 := by
    have := recLE_putAt_in e 0 0 1 (leBytes 1 (recLE e 0 1 / 2 * 2)) (by rw [length_leBytes]) (by omega)
    rw [Nat.zero_add] at this
    rw [entryClear, this, recLE_leBytes]; omega
  have hmid : ∀ p n, 1 ≤ p → recLE (entryClear e) p n = recLE e p n := by
    intro p n h
    rw [entryClear, recLE_putAt_after _ _ _ _ _ (by rw [length_leBytes]; omega) (by rw [length_leBytes]; omega)]
  refine ⟨?_, ?_, by rw [otGen, otGen, hmid 4 4 (by decide)], by rw [otSize, otSize, hmid 8 8 (by decide)],
    by rw [otAddr, otAddr, hmid 16 8 (by decide)]⟩
  · rw [otValid, h0, bit, Nat.testBit_zero]; simp
  · rw [otTier, otTier, h0]
    simp only [bits]; omega

/-- What an accepted command writes at its entry. -/
def entryAfter (e r : List Byte) : List Byte :=
  if recLE r 0 1 = 0x11 then entrySet e r else if recLE r 0 1 = 0x12 then entryMove e r else entryClear e

theorem entryAfter_length (e r : List Byte) (he : e.length = 64) (hr : r.length = 64) : (entryAfter e r).length = 64 := by
  unfold entryAfter
  split
  · exact entrySet_length e r he hr
  · split
    · exact entryMove_length e r he hr
    · exact entryClear_length e he

/-- What an accepted command does once its entry is written. -/
def optRest (s : State) (r : List Byte) : Act :=
  if recLE r 0 1 = 0x11 then cnt OPTB_OCNT 0
  else if recLE r 0 1 = 0x12 then acts [upd (.moves (s.moves ++ [(ocHandle r, ocDone r)])), cnt OPTB_OCNT 1] else .done

theorem optApply_run (s : State) (r : List Byte) (h1 : 0x11 ≤ recLE r 0 1) (h2 : recLE r 0 1 ≤ 0x13) :
    (optApply r).run s = (optRest s r).run ((hbmPut (optAddr s (ocHandle r)) (entryAfter (optRec s (ocHandle r)) r)).run s) := by
  rw [optApply, run_look]
  unfold entryAfter optRest
  rcases (by omega : recLE r 0 1 = 0x11 ∨ recLE r 0 1 = 0x12 ∨ recLE r 0 1 = 0x13) with h | h | h
  · simp only [h, if_true, run_acts_cons, runs_nil]; rfl
  · simp only [h, if_true, run_acts_cons, runs_nil]; rfl
  · simp only [h]; rfl

/-- A placement command's outcome, by its type. -/
def placed (s t : State) (r : List Byte) : Prop :=
  memOutside s t [(optAddr s (ocHandle r), 64)] ∧ optRec t (ocHandle r) = entryAfter (optRec s (ocHandle r)) r ∧
    (recLE r 0 1 = 0x11 → counted s t OPTB_OCNT 0 0 1 ∧ t.moves = s.moves) ∧
    (recLE r 0 1 = 0x12 → counted s t OPTB_OCNT 0 1 1 ∧ t.moves = s.moves ++ [(ocHandle r, ocDone r)]) ∧
    (recLE r 0 1 = 0x13 → t.moves = s.moves)

theorem optApply_placed (s : State) (r : List Byte) (hsyn : s.syn = []) (hflip : ∀ u, flipArmed s u = false) (hr : r.length = 64) (h1 : 0x11 ≤ recLE r 0 1)
    (h2 : recLE r 0 1 ≤ 0x13) : placed s ((optApply r).run s) r := by
  have hlen := entryAfter_length (optRec s (ocHandle r)) r (hbmBytesAt_length ..) hr
  have hne : (entryAfter (optRec s (ocHandle r)) r).isEmpty = false := by
    rw [List.isEmpty_eq_false_iff]; intro h; rw [h] at hlen; cases hlen
  obtain ⟨w, hw⟩ := hbmPut_state s (optAddr s (ocHandle r)) _ hsyn (hflip _) hne
  have hread := hbmBytesAt_mapPut s _ (optAddr s (ocHandle r)) _ (by rw [hw]; exact hsyn) (congrArg State.mem hw)
  rw [optApply_run s r h1 h2]
  rw [hlen] at hread
  generalize (hbmPut (optAddr s (ocHandle r)) (entryAfter (optRec s (ocHandle r)) r)).run s = u at hw hread
  have hmem := memOutside_mapPut s u (optAddr s (ocHandle r)) _ (by rw [hw])
  rw [hlen] at hmem
  have hcntAddr : ∀ (v : State) (n : Nat), fv ((cnt OPTB_OCNT n).run v) OPTB_OPT_BASE = fv v OPTB_OPT_BASE := by
    intro v n
    rw [cnt, fv_incF_other v OPTB_OCNT OPTB_OPT_BASE _ _ _ _ _ (by decide)
      (Or.inl (fldKey_ne_off _ _ _ _ _ rfl (by simp only [OPTB_OPT_BASE, OPTB_OCNT]; omega)))]
  have hsame : ∀ v : State, v.mem = u.mem → v.syn = u.syn → fv v OPTB_OPT_BASE = fv s OPTB_OPT_BASE →
      memOutside s v [(optAddr s (ocHandle r), 64)] ∧ optRec v (ocHandle r) = entryAfter (optRec s (ocHandle r)) r := by
    intro v hm hs hb
    refine ⟨fun k hk => by rw [hm]; exact hmem k hk, ?_⟩
    rw [optRec, optAddr, hb, hbmBytesAt_congr hm hs]
    exact hread
  have hfv : ∀ f : Fld, ∀ n, fv u f 0 n = fv s f 0 n := fun f n => by rw [hw]; rfl
  have hmv : u.moves = s.moves := by rw [hw]
  unfold optRest
  rcases (by omega : recLE r 0 1 = 0x11 ∨ recLE r 0 1 = 0x12 ∨ recLE r 0 1 = 0x13) with h | h | h
  · obtain ⟨ha, hb⟩ := hsame ((cnt OPTB_OCNT 0).run u) rfl rfl ((hcntAddr u 0).trans (hfv _ _))
    rw [if_pos h]
    refine ⟨ha, hb, fun _ => ⟨?_, hmv⟩, fun h' => by omega, fun h' => by omega⟩
    exact (fv_incF_word u OPTB_OCNT 0 0 rfl rfl).trans (by rw [hfv])
  · obtain ⟨ha, hb⟩ := hsame ((acts [upd (.moves (s.moves ++ [(ocHandle r, ocDone r)])), cnt OPTB_OCNT 1]).run u) rfl rfl
      ((hcntAddr _ 1).trans (hfv _ _))
    rw [if_neg (by omega), if_pos h]
    refine ⟨ha, hb, fun h' => by omega, fun _ => ⟨?_, rfl⟩, fun h' => by omega⟩
    rw [run_acts_cons, run_acts_cons, runs_nil]
    exact (fv_incF_word _ OPTB_OCNT 0 1 rfl rfl).trans (congrArg (fun x => min (2 ^ 32 - 1) (x + 1)) (hfv OPTB_OCNT 1))
  · obtain ⟨ha, hb⟩ := hsame u rfl rfl (hfv _ _)
    rw [if_neg (by omega), if_neg (by omega)]
    exact ⟨ha, hb, fun h' => by omega, fun h' => by omega, fun _ => hmv⟩

/-- What a placement command leaves, as its type has it. -/
theorem placed_done (s t : State) (r : List Byte) (hp : placed s t r) (hr : r.length = 64) (h1 : 0x11 ≤ recLE r 0 1) (h2 : recLE r 0 1 ≤ 0x13)
    (hok : firstErr (optErrs s r) = .ok) :
    memOutside s t [(optAddr s (ocHandle r), 64)] ∧
      (recLE r 0 1 = 0x11 → otValid (optRec t (ocHandle r)) = bit (recLE r 8 1) 0 ∧ otTier (optRec t (ocHandle r)) = bits (recLE r 8 1) 3 1 ∧
        otMoving (optRec t (ocHandle r)) = false ∧ otGen (optRec t (ocHandle r)) = 0 ∧ otSize (optRec t (ocHandle r)) = recLE r 16 8 ∧
        otAddr (optRec t (ocHandle r)) = recLE r 24 8 ∧ counted s t OPTB_OCNT 0 0 1 ∧ t.moves = s.moves) ∧
      (recLE r 0 1 = 0x12 → otValid (optRec t (ocHandle r)) = true ∧ otTier (optRec t (ocHandle r)) = otTier (optRec s (ocHandle r)) ∧
        otMoving (optRec t (ocHandle r)) = true ∧ otGen (optRec t (ocHandle r)) = otGen (optRec s (ocHandle r)) ∧
        otSize (optRec t (ocHandle r)) = otSize (optRec s (ocHandle r)) ∧ otAddr (optRec t (ocHandle r)) = otAddr (optRec s (ocHandle r)) ∧
        recLE (optRec t (ocHandle r)) 32 8 = recLE r 16 8 ∧ recLE (optRec t (ocHandle r)) 40 1 = recLE r 8 1 ∧
        counted s t OPTB_OCNT 0 1 1 ∧ t.moves = s.moves ++ [(ocHandle r, ocDone r)]) ∧
      (recLE r 0 1 = 0x13 → otValid (optRec t (ocHandle r)) = false ∧ otTier (optRec t (ocHandle r)) = otTier (optRec s (ocHandle r)) ∧
        otGen (optRec t (ocHandle r)) = otGen (optRec s (ocHandle r)) ∧ otSize (optRec t (ocHandle r)) = otSize (optRec s (ocHandle r)) ∧
        otAddr (optRec t (ocHandle r)) = otAddr (optRec s (ocHandle r)) ∧ t.moves = s.moves) := by
  obtain ⟨hmem, hrec, hset, hmove, hclear⟩ := hp
  obtain ⟨hz, hv, hm⟩ := optErrs_ok s r h1 h2 hok
  have he : (optRec s (ocHandle r)).length = 64 := hbmBytesAt_length ..
  refine ⟨hmem, fun h => ?_, fun h => ?_, fun h => ?_⟩
  · rw [hrec, entryAfter, if_pos h]
    obtain ⟨f1, f2, f3, f4, f5, f6⟩ := entrySet_fields _ r he hr h hz hm
    exact ⟨f1, f2, f3, f4, f5, f6, hset h⟩
  · rw [hrec, entryAfter, if_neg (by omega), if_pos h]
    obtain ⟨f1, f2, f3, f4, f5, f6, f7, f8⟩ := entryMove_fields _ r he hr (hv (by omega))
    exact ⟨f1, f2, f3, f4, f5, f6, f7, f8, hmove h⟩
  · rw [hrec, entryAfter, if_neg (by omega), if_neg (by omega)]
    obtain ⟨f1, f2, f3, f4, f5⟩ := entryClear_fields _ he
    exact ⟨f1, f2, f3, f4, f5, hclear h⟩

/-- The entry a command names is read first, and with nothing to find there nothing comes of it. -/
theorem optTouch_calm (s : State) (r : List Byte) (hcalm : calm s) : (optTouch r).run s = s := by
  obtain ⟨hsyn, hw, -⟩ := hcalm
  rw [optTouch, run_look, run_onlyIf]
  split
  · exact readRecords_calm s _ _ hsyn hw
  · rfl

/-- A command staged and posted. -/
theorem optStaged_row (s : State) (c : Instr) (q : Requester) (hcalm : calm s) (hc : rowWrite s c = some (q, mgdReg 0xA 0x0A0, 4, 1))
    (h : accepted s q (mgdReg 0xA 0x0A0) 4 1 = true) (hr : (optStaged s).length = 64) (h1 : 0x11 ≤ recLE (optStaged s) 0 1)
    (h2 : recLE (optStaged s) 0 1 ≤ 0x13) :
    ∃ t, exec c s = .next t ∧ placed s t (optStaged s) ∧ firstErr (optErrs s (optStaged s)) = .ok := by
  obtain ⟨d, hd⟩ : ∃ d, regAt .optb 0x0A0 = some (d, 0x0A0) := ⟨_, rfl⟩
  have hpg : pageOf s (mgdReg 0xA 0x0A0) = some optbPg := pageOf_mgdReg s 0xA 0x0A0 (by decide) (by decide)
  have ho : raOff (mgdReg 0xA 0x0A0) = 0x0A0 := raOff_mgdReg 0xA 0x0A0 (by decide) (by decide)
  have htouch : (hookTouch optbPg 0x0A0 1).run s = s := by
    have hb : (0x0A0 == 0x0A0 && bit 1 0) = true := by decide
    simp only [hookTouch, optbPg, run_look]
    rw [hb, run_onlyIf_of_true _ _ rfl]
    exact optTouch_calm s _ hcalm
  obtain ⟨hrun, hchk⟩ := exec_page_row s c q _ 0x0A0 1 optbPg d 0x0A0 hc h hpg ho hd ⟨by decide, by decide, by decide⟩ (by decide) htouch
  have hok : firstErr (optErrs s (optStaged s)) = .ok := by
    have hb : bit 1 0 = true := by decide
    simp only [hookErrs, optbPg, optbErrs, hb] at hchk
    exact hchk
  have happly : hookApply s optbPg 0x0A0 1 = onlyIf true (optApply (optStaged s)) := by
    have hb : (0x0A0 == 0x0A0 && bit 1 0) = true := by decide
    simp only [hookApply, optbPg]
    rw [hb]; rfl
  rw [happly, run_onlyIf_of_true _ _ rfl] at hrun
  refine ⟨_, hrun, ?_, hok⟩
  obtain ⟨hsyn, -, hflip⟩ := hcalm
  have hother : ∀ f : Fld, ∀ n, f.blk = .optb → f.off + n * f.stride ≠ 0x0A0 → fv (stored s optbPg d 0x0A0 1) f 0 n = fv s f 0 n := by
    intro f n hb hne
    refine fv_stored_other s optbPg d 0x0A0 1 f 0 n ?_
    show regKey f.blk 0 _ ≠ regKey .optb 0 0x0A0
    rw [hb]
    unfold regKey
    generalize blkNum .optb = b
    omega
  have hflip' : ∀ u, flipArmed (stored s optbPg d 0x0A0 1) u = false := by
    intro u
    rw [← hflip u]
    refine flipArmed_congr u ((rdKey_reg ..).trans (if_neg ?_))
    have hk : ∀ a b i : Nat, (a * 256 + i) * 4096 + 0x04C ≠ (b * 256 + 0) * 4096 + 0x0A0 := by intro a b i; omega
    exact hk (blkNum .intg) (blkNum .optb) (muIntg u)
  obtain ⟨p1, p2, p3, p4, p5⟩ := optApply_placed (stored s optbPg d 0x0A0 1) (optStaged s) hsyn hflip' hr h1 h2
  have haddr : optAddr (stored s optbPg d 0x0A0 1) (ocHandle (optStaged s)) = optAddr s (ocHandle (optStaged s)) := by
    rw [optAddr, hother OPTB_OPT_BASE 0 rfl (by decide), optAddr]
  have hcnt : ∀ n, n < 2 → fv (stored s optbPg d 0x0A0 1) OPTB_OCNT 0 n = fv s OPTB_OCNT 0 n := fun n hn =>
    hother OPTB_OCNT n rfl (by simp only [OPTB_OCNT]; omega)
  have hrec : optRec (stored s optbPg d 0x0A0 1) (ocHandle (optStaged s)) = optRec s (ocHandle (optStaged s)) := by
    rw [optRec, haddr]
    exact hbmBytesAt_congr rfl rfl _ _
  rw [haddr] at p1
  rw [hrec] at p2
  unfold counted at p3 p4
  rw [hcnt 0 (by decide)] at p3
  rw [hcnt 1 (by decide)] at p4
  exact ⟨p1, p2, p3, p4, p5⟩

/-- A command taken from a memory window. -/
theorem hbmTake_placed (s : State) (site : Nat) (w : WinRec) (rest : List WinRec) (hcalm : calm s) (hf : fifoOf s site = w :: rest)
    (hm : w.marked = false) (hr : w.bytes.length = 64) (h1 : 0x11 ≤ recLE w.bytes 0 1) (h2 : recLE w.bytes 0 1 ≤ 0x13)
    (hok : firstErr (optErrs s w.bytes) = .ok) :
    placed s ((hbmTake site (recLE w.bytes 0 1)).run s) w.bytes ∧ fifoOf ((hbmTake site (recLE w.bytes 0 1)).run s) site = rest := by
  have hopt : decide (0x11 ≤ recLE w.bytes 0 1 ∧ recLE w.bytes 0 1 ≤ 0x13) = true := decide_eq_true ⟨h1, h2⟩
  have hrun : (hbmTake site (recLE w.bytes 0 1)).run s = (optApply w.bytes).run ((fifoPop site).run s) := by
    have hcalm' : calm ((fifoPop site).run s) := hcalm
    have hok' : firstErr (optErrs ((fifoPop site).run s) w.bytes) = .ok := hok
    rw [hbmTake, run_look, hf, List.length_cons, hbmWindow, run_look, hf]
    dsimp only
    rw [if_neg (by rw [hopt]; simp), if_neg (by simp), if_pos hopt, hm, run_acts_cons, run_acts_cons, runs_nil, run_acts_cons, run_acts_cons,
      runs_nil, runs_false, optPost, run_acts_cons, run_acts_cons, runs_nil, optTouch_calm _ _ hcalm', run_look]
    dsimp only
    rw [hok', run_acts_cons, run_acts_cons, runs_nil]
    rfl
  have hpop : fifoOf ((fifoPop site).run s) site = rest := by
    have : fifoOf ((fifoPop site).run s) site = (fifoOf s site).drop 1 := mapGet_mapSet_self _ _ _ _
    rw [this, hf]; rfl
  rw [hrun]
  refine ⟨optApply_placed ((fifoPop site).run s) w.bytes hcalm.1 hcalm.2.2 hr h1 h2, ?_⟩
  have hfifos : ((optApply w.bytes).run ((fifoPop site).run s)).fifos = ((fifoPop site).run s).fifos := by
    rw [optApply_run _ _ h1 h2]
    have hput := (hbmPut_parts (optAddr ((fifoPop site).run s) (ocHandle w.bytes))
      (entryAfter (optRec ((fifoPop site).run s) (ocHandle w.bytes)) w.bytes)).same .fifos (by decide) ((fifoPop site).run s)
    have hrest : ∀ u v : State, ((optRest u w.bytes).run v).fifos = v.fifos := by
      intro u v; unfold optRest
      split
      · rfl
      · split <;> rfl
    exact (hrest _ _).trans hput
  rw [fifoOf, hfifos]
  exact hpop

/-- Settles O41: what a command writes at its entry, field by field, staged or from a window. -/
theorem placementCommandsWriteEntries : Obligations.PlacementCommandsWriteEntries := by
  unfold Obligations.PlacementCommandsWriteEntries
  intro s q site r hr hcalm
  dsimp only
  intro _ h1 h2
  have hty : recLE r 0 1 = 0x11 ∨ recLE r 0 1 = 0x12 ∨ recLE r 0 1 = 0x13 := by omega
  refine ⟨fun hstage hst hacc => ?_, fun w rest hf hb hm hok => ?_⟩
  · subst hstage
    have key : ∀ c, rowWrite s c = some (q, mgdReg 0xA 0x0A0, 4, 1) → ∃ t, exec c s = .next t ∧ placed s t (optStaged s) ∧
        firstErr (optErrs s (optStaged s)) = .ok := fun c hc => optStaged_row s c q hcalm hc hacc hr h1 h2
    rcases hty with h | h | h <;> rw [h] at hst
    · rw [if_pos h]
      obtain ⟨t, ht, hp, hok⟩ := key (.optSet (some q) site) (by rw [rowWrite, if_pos hst])
      exact ⟨t, ht, placed_done s t _ hp hr h1 h2 hok⟩
    · rw [if_neg (by omega), if_pos h]
      obtain ⟨t, ht, hp, hok⟩ := key (.optMove (some q) site) (by rw [rowWrite, if_pos hst])
      exact ⟨t, ht, placed_done s t _ hp hr h1 h2 hok⟩
    · rw [if_neg (by omega), if_neg (by omega)]
      obtain ⟨t, ht, hp, hok⟩ := key (.optClear (some q) site) (by rw [rowWrite, if_pos hst])
      exact ⟨t, ht, placed_done s t _ hp hr h1 h2 hok⟩
  · subst hb
    obtain ⟨hp, hrest⟩ := hbmTake_placed s site w rest hcalm hf hm hr h1 h2 hok
    have hd := placed_done s _ _ hp hr h1 h2 hok
    rcases hty with h | h | h
    · rw [if_pos h]
      rw [h] at hd hrest
      exact ⟨_, rfl, by rw [h]; exact hd, hrest⟩
    · rw [if_neg (by omega), if_pos h]
      rw [h] at hd hrest
      exact ⟨_, rfl, by rw [h]; exact hd, hrest⟩
    · rw [if_neg (by omega), if_neg (by omega)]
      rw [h] at hd hrest
      exact ⟨_, rfl, by rw [h]; exact hd, hrest⟩

end Sys2Proof.Machine
end

section
/-! PROOF. Memory that other devices reach (R315, R316). -/

namespace Sys2Proof.Machine

/-! ### What sending leaves -/

/-- The registers that sending over the fabric can touch, to the page: those of LINK pages, and the count of lost events. -/
abbrev linkKeys (k : Nat) : Prop := k / 4096 / 256 = blkNum .link ∨ k = lostKey

theorem within_linkKeys {a : Act} (h : a.Only Upd.fabric) : a.Within fabricParts linkKeys := by
  refine h.mono fun u hu => ?_
  cases u with
  | reg k v => exact hu
  | link _ _ | tile _ _ | events _ _ | emit _ => simp [Upd.within, fabricParts]
  | _ => exact hu.elim

/-- A field of a page that is no link's is as it was, its header's too. -/
theorem fv_fabric {a : Act} (h : a.Only Upd.fabric) (s : State) (f : Fld) (i n : Nat) (hb : f.blk ≠ .link) (hi : i < 256)
    (ho : f.off + n * f.stride < 4096) (hl : fldKey f i n ≠ lostKey) : fv (a.run s) f i n = fv s f i n := by
  refine (within_linkKeys h).fv s f i n ?_
  rintro (hk | hk)
  · rw [(fldKey_parts f i n hi ho).1] at hk
    exact hb (blkNum_inj _ _ hk)
  · exact hl hk

/-! ### Remote access -/

/-- The record of a denied access. -/
def deniedNote (node : Nat) : Act := acts [incF PEER_CNT_DENIED, setF PEER_DENIED_NODE node, raiseEvt peerPg (2 ^ 16)]

theorem deniedNote_state (s : State) (node : Nat) (hn : node < 2 ^ 14) :
    counted s ((deniedNote node).run s) PEER_CNT_DENIED 0 0 1 ∧ fv ((deniedNote node).run s) PEER_DENIED_NODE = node ∧
      pending ((deniedNote node).run s) peerPg 16 := by
  rw [deniedNote, run_acts_cons, run_acts_cons, run_acts_cons, runs_nil]
  refine ⟨?_, ?_, pending_raiseEvt peerPg _ 16 _ (by decide) (by decide)⟩
  · refine (fv_raiseEvt _ _ _ _ _ _ (by decide) (by decide)).trans ?_
    rw [fv_setF_other _ PEER_DENIED_NODE PEER_CNT_DENIED _ _ _ _ _ (by decide) (Or.inl (by decide))]
    exact fv_incF_word s PEER_CNT_DENIED 0 0 rfl rfl
  · rw [fv_raiseEvt _ _ _ _ _ _ (by decide) (by decide), fv_setF_self _ _ _ _ _ ⟨by decide, by decide⟩]
    exact Nat.mod_eq_of_lt hn

/-- A write that PEER does not allow. -/
theorem remoteWrite_denied (s : State) (node a : Nat) (data : List Byte) (hheld : rangeHeld s a data.length = false) (hn : node < 2 ^ 14)
    (he : firstErr (remoteErrs s node a data.length true) = ePeerDenied) :
    ∃ t, exec (.remoteAccess node (.write a data [])) s = .next t ∧ counted s t PEER_CNT_DENIED 0 0 1 ∧
      fv t PEER_DENIED_NODE = node ∧ pending t peerPg 16 ∧ memKept s t := by
  have hrun : (remoteAccess node .none (.write a data [])).run s =
      (sendMsg node .none (.refusal (errNum ePeerDenied))).run ((deniedNote node).run s) := by
    rw [remoteAccess, run_look]
    dsimp only
    rw [hheld, he, if_neg (by decide), if_pos (by decide), run_acts_cons, run_acts_cons, runs_nil, run_onlyIf_of_true _ _ (by decide)]
    rfl
  obtain ⟨h1, h2, h3⟩ := deniedNote_state s node hn
  have hkeep := fun f => fun i n => fv_fabric (sendMsg_fabric node .none (.refusal (errNum ePeerDenied))) ((deniedNote node).run s) f i n
  have hparts : (deniedNote node).Parts [.events, .out] := by
    simp only [deniedNote, only_acts_cons, only_acts_nil, within_incF, within_setF, and_true]
    exact ⟨trivial, trivial, raiseEvt_parts _ _ (by decide) (by decide)⟩
  refine ⟨_, congrArg Host.Outcome.next hrun, ?_, ?_, ?_, ?_⟩
  · exact (hkeep _ _ _ (by decide) (by decide) (by decide) (by decide)).trans h1
  · exact (hkeep _ _ _ (by decide) (by decide) (by decide) (by decide)).trans h2
  · rw [pending, hkeep _ _ _ (by decide) (by decide) (by decide) (by decide)]; exact h3
  · obtain ⟨m1, m2, m3⟩ := (sendMsg_within node .none (.refusal (errNum ePeerDenied))).memKept ((deniedNote node).run s)
      (by decide) (by decide) (by decide)
    obtain ⟨k1, k2, k3⟩ := hparts.memKept s (by decide) (by decide) (by decide)
    exact ⟨fun k => (m1 k).trans (k1 k), fun k => (m2 k).trans (k2 k), fun k => (m3 k).trans (k3 k)⟩

theorem withMarks_bytes (data : List Byte) (ms : List Bool) : (withMarks data ms).map Prod.fst = data := by
  refine List.ext_getElem (by simp [withMarks]) fun i h1 h2 => ?_
  simp [withMarks, List.getD_eq_getElem?_getD, h2]

/-! ### Lend windows -/

theorem regAt_lend (w : Nat) (hw : w < 16) : ∃ d, regAt .peer (0x108 + 16 * w) = some (d, 0x108 + 16 * w) ∧
    storeMask d .rw = 2 ^ 31 + 2 ^ 15 + (2 ^ 14 - 1) ∧ storeMask d .w1c = 0 := by
  have hall : ∀ w : Fin 16, ((regAt .peer (0x108 + 16 * w.val)).any fun x =>
    x.2 == 0x108 + 16 * w.val && storeMask x.1 .rw == 2 ^ 31 + 2 ^ 15 + (2 ^ 14 - 1) && storeMask x.1 .w1c == 0) = true := by decide +kernel
  have h := hall ⟨w, hw⟩
  simp only [Option.any_eq_true, Bool.and_eq_true, beq_iff_eq, Prod.exists] at h
  obtain ⟨d, b, hd, ⟨hb, hrw⟩, hm⟩ := h
  exact ⟨d, hb ▸ hd, hrw, hm⟩

/-- A row that writes a lend window's control register. -/
theorem exec_lend_row (s : State) (c : Instr) (r : Requester) (w v : Nat) (hw : w < 16) (hv : v < 2 ^ 32)
    (hc : rowWrite s c = some (r, mgdReg 9 (0x108 + 16 * w), 4, v)) (h : accepted s r (mgdReg 9 (0x108 + 16 * w)) 4 v = true) :
    ∃ u : State, exec c s = .next (answered ((peerApply s (0x108 + 16 * w) v).run u) r (mgdReg 9 (0x108 + 16 * w))) ∧
      fv u PEER_LW_EN 0 w = bits v 31 31 ∧ fv u PEER_LW_WRITE_OK 0 w = bits v 15 15 ∧ fv u PEER_LW_BORROWER 0 w = bits v 13 0 ∧
      lwRange u w = lwRange s w ∧ u.mem = s.mem ∧ u.syn = s.syn ∧ u.written = s.written := by
  obtain ⟨d, hd, hrw, hm⟩ := regAt_lend w hw
  have hp : pageOf s (mgdReg 9 (0x108 + 16 * w)) = some peerPg := pageOf_mgdReg s 9 _ (by decide) (by omega)
  have ho := raOff_mgdReg 9 (0x108 + 16 * w) (by decide) (by omega)
  obtain ⟨hrun, -⟩ := exec_page_row s c r _ _ v peerPg d _ hc h hp ho hd ⟨by omega, by simp [peerPg], by simp [peerPg]⟩ hv rfl
  simp only [hookApply, peerPg, if_neg (by omega : ¬ 0x108 + 16 * w < 0x40)] at hrun
  have hkey : ∀ f : Fld, f.blk = .peer → f.off = 0x108 → f.stride = 16 → fldKey f 0 w = pageKey peerPg (0x108 + 16 * w) := by
    intro f hb hf hs
    simp only [fldKey, pageKey, hb, hf, hs, Nat.mul_comm 16 w, peerPg, keyIdx]
  have hself : ∀ f : Fld, f.blk = .peer → f.off = 0x108 → f.stride = 16 → f.hi < 64 →
      bits (2 ^ 31 + 2 ^ 15 + (2 ^ 14 - 1)) f.hi f.lo = 2 ^ (f.hi + 1 - f.lo) - 1 →
      fv (stored s peerPg d (0x108 + 16 * w) v) f 0 w = bits v f.hi f.lo := fun f hb hf hs hh hbits =>
    fv_stored_rw s peerPg d _ v f 0 w hh (hkey f hb hf hs) (by rw [hrw]; exact hbits) (by rw [hm]; simp [bits])
  have hother : ∀ f : Fld, f.blk = .peer → f.off ≠ 0x108 → f.off < 0x110 → 0x100 ≤ f.off → f.stride = 16 →
      fv (stored s peerPg d (0x108 + 16 * w) v) f 0 w = fv s f 0 w := by
    intro f hb h1 h2 h3 hs
    refine fv_stored_other s peerPg d _ v f 0 w ?_
    show regKey f.blk 0 _ ≠ regKey .peer 0 (0x108 + 16 * w)
    rw [hb, hs]
    unfold regKey
    generalize blkNum .peer = b
    omega
  refine ⟨_, hrun, hself _ rfl rfl rfl (by decide) (by decide), hself _ rfl rfl rfl (by decide) (by decide),
    hself _ rfl rfl rfl (by decide) (by decide), ?_, rfl, rfl, rfl⟩
  change (fv (stored s peerPg d _ v) PEER_LW_BASE 0 w, fv (stored s peerPg d _ v) PEER_LW_SIZE 0 w * 2 ^ 21) = _
  rw [lwRange, hother PEER_LW_BASE rfl (by decide) (by decide) (by decide) rfl,
    hother PEER_LW_SIZE rfl (by decide) (by decide) (by decide) rfl]

/-- A page of HBM begins at its site's base and its block. -/
theorem muBase_block (a : Nat) (ha : a % 4096 = 0) : muBase (.hbm (a / 2 ^ 36)) + hbmOff a / 4096 * 4096 = a := by
  have h : hbmOff a / 4096 * 4096 = hbmOff a := by
    rw [hbmOff]; omega
  rw [h, muBase_hbmOff]

/-- What becoming unwritten does to a run of a site's bytes. -/
theorem runClear_clears (s t : State) (a n : Nat) (ha : a % 4096 = 0) (hn : n % 4096 = 0)
    (ht : t = (runClear (a / 2 ^ 36) (hbmOff a / 4096, n / 4096) true).run s) :
    t.regs = s.regs ∧ memOutside s t [(a, n)] ∧ ∀ i, i < n → mapGet memDefault t.mem (a + i) = 0 ∧
      isWritten t (.hbm (a / 2 ^ 36)) (hbmOff a + i) = false := by
  have hoff := muBase_hbmOff a
  simp only [muBase, hbmOff] at hoff
  have hbase := muBase_block a ha
  have hlen : n / 4096 * 4096 = n := Nat.div_mul_cancel (Nat.dvd_of_mod_eq_zero hn)
  have hrun : t = { s with
      mem := mapClear s.mem a n, syn := mapClear s.syn a n, written := mapClear (mapClear s.written (2 ^ 60 + a) n) a n } := by
    rw [ht, runClear]
    dsimp only
    rw [hbase, hlen, run_acts_cons, run_acts_cons, run_acts_cons, runs_nil, run_onlyIf_of_true _ _ rfl]
    rfl
  have hwr : ∀ j, a ≤ j ∧ j < a + n ∨ 2 ^ 60 + a ≤ j ∧ j < 2 ^ 60 + a + n → mapGet writtenDefault t.written j = false := by
    intro j hj
    rw [hrun, mapGet_mapClear, mapGet_mapClear]
    by_cases h1 : a ≤ j ∧ j < a + n
    · rw [if_pos h1]; rfl
    · rw [if_neg h1, if_pos (hj.resolve_left h1)]; rfl
  refine ⟨by rw [hrun], fun k hk => ?_, fun i hi => ⟨?_, ?_⟩⟩
  · have := hk _ (List.mem_singleton_self _)
    rw [hrun, mapGet_mapClear, if_neg (by simp only at this; omega)]
  · rw [hrun, mapGet_mapClear, if_pos (by omega)]; rfl
  · rw [isWritten, hwr _ (Or.inr ?_), hwr _ (Or.inl ?_)]
    · rfl
    · simp only [muBytewise, Bool.false_eq_true, if_false, muBase, hbmOff]; omega
    · simp only [blockKey, initUnit, muBase, hbmOff]; omega

theorem isWritten_answered (t : State) (r : Requester) (a : Nat) (m : MemUnit) (o : Nat) :
    isWritten (answered t r a) m o = isWritten t m o := rfl

/-- Bytes that were cleared read so in the state that answers. -/
theorem cleared_answered (s u t : State) (r : Requester) (a : Nat) (x : Nat × Nat) (hu : u.mem = s.mem) (hmem : memOutside u t [(x.1, x.2)])
    (hbytes : ∀ i, i < x.2 → mapGet memDefault t.mem (x.1 + i) = 0 ∧ isWritten t (.hbm (x.1 / 2 ^ 36)) (hbmOff x.1 + i) = false) :
    memOutside s (answered t r a) [x] ∧ ∀ i, i < x.2 → mapGet memDefault (answered t r a).mem (x.1 + i) = 0 ∧
      isWritten (answered t r a) (.hbm (x.1 / 2 ^ 36)) (hbmOff x.1 + i) = false := by
  refine ⟨fun k hk => ?_, fun i hi => ⟨(hbytes i hi).1, ?_⟩⟩
  · exact (hmem k hk).trans (by rw [hu])
  · rw [isWritten_answered]; exact (hbytes i hi).2

/-- LEND_WINDOW_ENABLE. -/
theorem lendWindowEnable_run (s : State) (r : Requester) (w v : Nat) (hw : w < 16) (hv : v < 2 ^ 32) (h31 : bit v 31 = true)
    (hoff : fb s PEER_LW_EN 0 w = false) (hbase : fv s PEER_LW_BASE 0 w % 4096 = 0) (hacc : accepted s r (mgdReg 9 (0x108 + 16 * w)) 4 v = true) :
    ∃ t, exec (.lendWindowEnable r w v) s = .next t ∧ fb t PEER_LW_EN 0 w = true ∧ fv t PEER_LW_BORROWER 0 w = bits v 13 0 ∧
      fb t PEER_LW_WRITE_OK 0 w = bit v 15 ∧ memOutside s t [lwRange s w] ∧
      ∀ i, i < (lwRange s w).2 → mapGet memDefault t.mem ((lwRange s w).1 + i) = 0 ∧
        isWritten t (.hbm ((lwRange s w).1 / 2 ^ 36)) (hbmOff (lwRange s w).1 + i) = false := by
  obtain ⟨u, hrun, h1, h2, h3, h4, h5, h6, h7⟩ := exec_lend_row s (.lendWindowEnable r w v) r w v hw hv
    (by rw [rowWrite, if_pos ⟨hw, h31⟩]) hacc
  have hn : nth (0x108 + 16 * w) 0x100 16 = w := by unfold nth; omega
  have hc : (decide (0x100 ≤ 0x108 + 16 * w) && (0x108 + 16 * w) % 16 == 8 && bit v 31 && !fb s PEER_LW_EN 0 w) = true := by
    rw [hoff, h31, decide_eq_true (by omega), show (0x108 + 16 * w) % 16 = 8 by omega]; rfl
  rw [peerApply, hn] at hrun
  have hsize : (lwRange s w).2 % 4096 = 0 := by simp only [lwRange]; omega
  have hbase' : (lwRange s w).1 % 4096 = 0 := hbase
  rw [hc, run_onlyIf_of_true _ _ rfl, lendUnwrite, run_look, h4] at hrun
  dsimp only at hrun
  generalize lwRange s w = x at hrun hsize hbase' ⊢
  obtain ⟨hregs, hmem, hbytes⟩ := runClear_clears u _ x.1 x.2 hbase' hsize rfl
  generalize (runClear (x.1 / 2 ^ 36) (hbmOff x.1 / 4096, x.2 / 4096) true).run u = t at hrun hregs hmem hbytes
  have hfv : ∀ f : Fld, fv t f 0 w = fv u f 0 w := fun f => by rw [fv, rdKey, hregs]; rfl
  have hbit : ∀ i, bits v i i = b2n (bit v i) := by
    intro i
    have h : bits v i i = v / 2 ^ i % 2 := by simp [bits]
    rw [h, bit, Nat.testBit_eq_decide_div_mod_eq]
    rcases Nat.mod_two_eq_zero_or_one (v / 2 ^ i) with h | h <;> rw [h] <;> rfl
  refine ⟨_, hrun, ?_, ?_, ?_, cleared_answered s u t r _ x h5 hmem hbytes⟩
  · rw [fb_answered, fb, hfv, h1, hbit, h31]; rfl
  · rw [fv_answered, hfv, h3]
  · rw [fb_answered, fb, hfv, h2, hbit]
    cases bit v 15 <;> rfl

/-- LEND_WINDOW_RECLAIM. -/
theorem lendWindowReclaim_run (s : State) (r : Requester) (w v : Nat) (hw : w < 16) (hv : v < 2 ^ 32) (h31 : bit v 31 = false)
    (hacc : accepted s r (mgdReg 9 (0x108 + 16 * w)) 4 v = true) :
    ∃ t, exec (.lendWindowReclaim r w v) s = .next t ∧ fb t PEER_LW_EN 0 w = false ∧ memKept s t := by
  obtain ⟨u, hrun, h1, h2, h3, h4, h5, h6, h7⟩ := exec_lend_row s (.lendWindowReclaim r w v) r w v hw hv
    (by rw [rowWrite, if_pos ⟨hw, h31⟩]) hacc
  have happly : peerApply s (0x108 + 16 * w) v = .done := by
    simp only [peerApply, h31, Bool.and_false, Bool.false_and]; rfl
  rw [happly, runs_done] at hrun
  have hbit : bits v 31 31 = 0 := by
    rw [bit, Nat.testBit_eq_decide_div_mod_eq, decide_eq_false_iff_not] at h31
    have h : bits v 31 31 = v / 2 ^ 31 % 2 := by simp [bits]
    omega
  refine ⟨_, hrun, ?_, fun k => ?_, fun k => ?_, fun k => ?_⟩
  · rw [fb_answered, fb, h1, hbit]; rfl
  · exact congrArg (mapGet memDefault · k) h5
  · exact congrArg (mapGet synDefault · k) h6
  · exact congrArg (mapGet writtenDefault · k) h7

/-- Settles O43: remote reads, writes and refusals, and the two commands of a lend window. -/
theorem otherDevicesReachLentMemory : Obligations.OtherDevicesReachLentMemory := by
  unfold Obligations.OtherDevicesReachLentMemory
  refine ⟨fun s node a n hheld hcalm he => ?_, fun s node a off u data hheld hcalm he hp => ?_,
    fun s node a data hheld hn he => remoteWrite_denied s node a data hheld hn he,
    fun s r w v hw hv h31 hoff hbase hacc => lendWindowEnable_run s r w v hw hv h31 hoff hbase hacc,
    fun s r w v hw hv h31 hacc => lendWindowReclaim_run s r w v hw hv h31 hacc⟩
  · refine congrArg Host.Outcome.next ?_
    rw [remoteAccess, run_look]
    dsimp only
    rw [hheld, he, if_neg (by decide), if_neg (by decide), run_acts_cons, run_acts_cons, runs_nil,
      touchLocal_calm s a n hcalm.1 hcalm.2.1, run_look]
  · refine ⟨_, rfl, ?_⟩
    have hrun : (remoteAccess node .none (.write a data [])).run s =
        (sendMsg node .none .writeAck).run ((writeLocal a (withMarks data [])).run s) := by
      rw [remoteAccess, run_look]
      dsimp only
      rw [hheld, he, if_neg (by decide), if_neg (by decide), run_acts_cons, run_acts_cons, runs_nil]
    rw [hrun, (sendMsg_within node .none .writeAck).same .mem (by decide), writeLocal_mem s a _ u off hp (hcalm.2.2 u), withMarks_bytes]

end Sys2Proof.Machine
end

section
/-! PROOF. Module flash: pages, the write buffer, retired blocks and the flush (R316 to R319). -/

namespace Sys2Proof.Machine

/-! ### Fields of the page -/

/-- Fields of FLSH in different registers. -/
theorem flsh_ne (f g : Fld) (n m : Nat) (hf : f.blk = .flsh) (hg : g.blk = .flsh) (h : f.off + n * f.stride ≠ g.off + m * g.stride) :
    fldKey f 0 n ≠ fldKey g 0 m := fldKey_ne_off f g 0 n m (hf.trans hg.symm) h

theorem setWbuf_run (n : Nat) (s : State) : (setWbuf n).run s =
    (setF FLSH_WBUF_MIB (ceilDiv n 256)).run { s with flash := { s.flash with wbuf := n } } := by
  rw [setWbuf, run_look, run_acts_cons, run_acts_cons, runs_nil]
  rfl

/-! ### Pages -/

theorem flashStore_within (a : Nat) (bs : List (Byte × Bool)) : (flashStore a bs).Within [.mem, .syn] fun _ => False := by
  simp [flashStore, Upd.within]

theorem flashStore_mem (a : Nat) (bs : List (Byte × Bool)) (s : State) :
    ((flashStore a bs).run s).mem = mapPut memDefault s.mem (flashKey a) (bs.map Prod.fst) := by
  rw [flashStore, run_acts_cons, run_acts_cons, run_acts_cons, runs_nil]
  have hkeep : ∀ l : List Nat, ∀ u : State, ((each l fun i => upd (.syn (flashKey (a + 8 * i)) [0x7F])).run u).mem = u.mem := by
    intro l u
    refine Act.Within.same (ps := [.syn]) (ks := fun _ => False) ?_ .mem (by decide) u
    simp [Upd.within]
  rw [hkeep]
  rfl

/-- A page as the buffer takes it. -/
theorem flashPage_state (a : Nat) (bs : List (Byte × Bool)) (s : State) (hroom : s.flash.wbuf < wbufPages) :
    ((flashPage a bs).run s).mem = mapPut memDefault s.mem (flashKey a) (bs.map Prod.fst) ∧
      ((flashPage a bs).run s).flash.wbuf = s.flash.wbuf + 1 ∧
      fv ((flashPage a bs).run s) FLSH_WBUF_MIB = ceilDiv (s.flash.wbuf + 1) 256 ∧ ((flashPage a bs).run s).out = s.out := by
  have hmin : min wbufPages (s.flash.wbuf + 1) = s.flash.wbuf + 1 := Nat.min_eq_right hroom
  rw [flashPage, run_look, run_acts_cons, run_acts_cons, run_acts_cons, runs_nil, hmin, setWbuf_run]
  have hmem := flashStore_mem a bs ((upd (.flash { s.flash with undo := (a, flashRead s a bs.length) :: s.flash.undo })).run s)
  have hout := (flashStore_within a bs).same .out (by decide)
    ((upd (.flash { s.flash with undo := (a, flashRead s a bs.length) :: s.flash.undo })).run s)
  refine ⟨hmem, rfl, ?_, hout⟩
  rw [fv_setF_self _ _ _ _ _ ⟨by decide, by decide⟩]
  refine Nat.mod_eq_of_lt ?_
  simp only [wbufPages] at hroom
  simp only [ceilDiv, FLSH_WBUF_MIB]; omega

/-- A page written. -/
theorem flashWrite_page (s : State) (a : Nat) (data : List Byte) (ha : a % 4096 = 0) (hd : data.length = 4096)
    (hc : flashWriteCode s a 4096 = .ok) (hroom : s.flash.wbuf < wbufPages) :
    ∃ t, exec (.flashWrite a data) s = .next t ∧ (∀ i, i < 4096 → mapGet memDefault t.mem (flashKey a + i) = data.getD i 0) ∧
      memOutside s t [(flashKey a, 4096)] ∧ t.flash.wbuf = s.flash.wbuf + 1 ∧ fv t FLSH_WBUF_MIB = ceilDiv (s.flash.wbuf + 1) 256 ∧
      t.out = .flashData a 0 [] [] :: s.out := by
  obtain ⟨h1, h2, h3, h4⟩ := flashPage_state a (data.map fun b => (b, false)) s hroom
  have hrun : (flashWrite a data).run s =
      (emit (.flashData a 0 [] [])).run ((flashPage a (data.map fun b => (b, false))).run s) := by
    rw [flashWrite, run_look]
    dsimp only
    rw [hc, if_neg (by omega), if_neg (by simp), if_neg (by omega), run_acts_cons, run_acts_cons, runs_nil]
  have hbytes : (data.map fun b => (b, false)).map Prod.fst = data := by
    rw [List.map_map]; exact List.map_id _
  rw [hbytes] at h1
  generalize (flashPage a (data.map fun b => (b, false))).run s = u at h1 h2 h3 h4 hrun
  refine ⟨_, congrArg Host.Outcome.next hrun, fun i hi => ?_, ?_, h2, h3, congrArg (_ :: ·) h4⟩
  · have hm : ((emit (.flashData a 0 [] [])).run u).mem = mapPut memDefault s.mem (flashKey a) data := h1
    rw [hm, mapGet_mapPut, if_pos (by omega), Nat.add_sub_cancel_left]
    simp [List.getD_eq_getElem?_getD, hd, hi]
  · have hout := memOutside_mapPut s ((emit (.flashData a 0 [] [])).run u) (flashKey a) data h1
    rwa [hd] at hout

/-- A full buffer holds the writer. -/
theorem flashWrite_full (s : State) (a : Nat) (data : List Byte) (ha : a % 4096 = 0) (hd : data.length = 4096)
    (hc : flashWriteCode s a 4096 = .ok) (hfull : wbufPages ≤ s.flash.wbuf) :
    ∃ t, exec (.flashWrite a data) s = .next t ∧ counted s t FLSH_FCNT 0 4 1 ∧ memKept s t ∧ t.flash = s.flash ∧ t.out = s.out := by
  have hrun : (flashWrite a data).run s = (cnt FLSH_FCNT 4).run s := by
    rw [flashWrite, run_look]
    dsimp only
    rw [hc, if_neg (by omega), if_neg (by simp), if_pos hfull]
  exact ⟨_, congrArg Host.Outcome.next hrun, fv_incF_word s FLSH_FCNT 0 4 rfl rfl, ⟨fun _ => rfl, fun _ => rfl, fun _ => rfl⟩, rfl, rfl⟩

/-- A region that takes no write answers its code. -/
theorem flashWrite_refused (s : State) (a : Nat) (data : List Byte) (ha : a % 4096 = 0) (hd : data.length = 4096)
    (hc : flashWriteCode s a 4096 ≠ .ok) : exec (.flashWrite a data) s = .next { s with
      out := .flashData a (errNum (flashWriteCode s a 4096)) [] [] :: s.out } := by
  refine congrArg Host.Outcome.next ?_
  rw [flashWrite, run_look]
  dsimp only
  rw [if_neg (by omega), if_pos hc]
  rfl

/-- A page read. -/
theorem flashRead_page (s : State) (a : Nat) (u : Bool) (ha : a % 4096 = 0) (hr : (flashRegion a 4096).isSome = true) :
    ∃ t, exec (.flashRead a u) s = .next t ∧ memKept s t ∧ t.flash = s.flash ∧
      t.out = .flashData a 0 ((flashRead s a 4096).map Prod.fst) ((flashRead s a 4096).map fun b => u || b.2) :: s.out ∧
      (u = true → counted s t FLSH_FCNT 0 3 1) ∧ (u = false → t.regs = s.regs) := by
  have hrun : (flashReadPage a u).run s = (emit (.flashData a 0 ((flashRead s a 4096).map Prod.fst)
      ((flashRead s a 4096).map fun b => u || b.2))).run ((onlyIf u (cnt FLSH_FCNT 3)).run s) := by
    rw [flashReadPage, run_look]
    dsimp only
    rw [if_neg (by rw [Option.isNone_eq_false_iff.2 hr]; simp [ha]), run_acts_cons, run_acts_cons, runs_nil]
  refine ⟨_, congrArg Host.Outcome.next hrun, ?_⟩
  cases u
  · exact ⟨⟨fun _ => rfl, fun _ => rfl, fun _ => rfl⟩, rfl, rfl, by simp, fun _ => rfl⟩
  · exact ⟨⟨fun _ => rfl, fun _ => rfl, fun _ => rfl⟩, rfl, rfl, fun _ => fv_incF_word s FLSH_FCNT 0 3 rfl rfl, by simp⟩

/-! ### Relocation, failures, programming and the flush -/

/-- A relocation that is due. -/
theorem flashRelocate_due (s : State) (wear slc : Bool) (reads corr top bot : Nat)
    (hgo : if wear then fv s FLSH_WEAR_SPREAD < top - bot
      else (if slc then fv s FLSH_RD_LIMIT_SLC else fv s FLSH_RD_LIMIT_TLC) ≤ reads ∨ 75 < corr) :
    ∃ t, exec (.flashRelocation wear slc reads corr top bot) s = .next t ∧ counted s t FLSH_FCNT 0 (b2n wear) 1 ∧
      memKept s t ∧ t.flash = s.flash ∧ t.out = s.out := by
  have hrun : (flashRelocate wear slc reads corr top bot).run s = (onlyIf (!slc) (acts [setF FLSH_ERASE_MAX (min 65535 top),
      setF FLSH_ERASE_MIN (min 65535 bot)])).run ((cnt FLSH_FCNT (b2n wear)).run s) := by
    have hc : (if wear then decide (fv s FLSH_WEAR_SPREAD + bot < top)
        else decide ((if slc then fv s FLSH_RD_LIMIT_SLC else fv s FLSH_RD_LIMIT_TLC) ≤ reads) || decide (75 < corr)) = true := by
      cases wear
      · simpa using hgo
      · simp only [if_true] at hgo ⊢
        exact decide_eq_true (by omega)
    rw [flashRelocate, run_look]
    dsimp only
    rw [hc, run_onlyIf_of_true _ _ rfl, run_acts_cons, run_acts_cons, runs_nil]
    rfl
  refine ⟨_, congrArg Host.Outcome.next hrun, ?_⟩
  have hcnt := fv_incF_word s FLSH_FCNT 0 (b2n wear) rfl rfl
  cases slc
  · rw [Bool.not_false, run_onlyIf_of_true _ _ rfl, run_acts_cons, run_acts_cons, runs_nil]
    refine ⟨?_, ⟨fun _ => rfl, fun _ => rfl, fun _ => rfl⟩, rfl, rfl⟩
    have hb : b2n wear < 2 := by cases wear <;> decide
    refine (fv_setF_other _ FLSH_ERASE_MIN FLSH_FCNT _ _ _ _ _ (by decide) (Or.inl (flsh_ne _ _ _ _ rfl rfl ?_))).trans ?_
    · simp only [FLSH_FCNT, FLSH_ERASE_MIN]; omega
    · refine (fv_setF_other _ FLSH_ERASE_MAX FLSH_FCNT _ _ _ _ _ (by decide) (Or.inl (flsh_ne _ _ _ _ rfl rfl ?_))).trans hcnt
      simp only [FLSH_FCNT, FLSH_ERASE_MAX]; omega
  · exact ⟨hcnt, ⟨fun _ => rfl, fun _ => rfl, fun _ => rfl⟩, rfl, rfl⟩

theorem pending_raise_keep (s : State) (p : PageRef) (m i : Nat) (hm : m < 2 ^ 32) (h : pending s p i) : pending ((raiseEvt p m).run s) p i := by
  unfold pending at h ⊢
  rw [raiseEvt_pend p m s hm, Nat.testBit_or, h, Bool.true_or]

/-- A page's pending events are as an event of another page leaves them. -/
theorem pending_other (s : State) (p q : PageRef) (m i : Nat) (hq : q.idx < 256) (hp : p.idx < 256) (hne : p.blk ≠ q.blk) (h : pending s q i) :
    pending ((raiseEvt p m).run s) q i := by
  unfold pending at h ⊢
  rw [fv_raiseEvt s p (hdrEvtPend q.blk) q.idx 0 m (fldKey_ne_blk _ _ _ _ _ _ (fun h => hne h.symm) hq hp (by simp [hdrEvtPend]) (by simp [hdrEvtPend]))
    (by unfold fldKey lostKey fldKey regKey hdrEvtPend SLQP_QCNT; simp only [blkNum]; omega)]
  exact h

/-- A failed block's region is short of spares. -/
def flashShort (slc : Bool) : Act :=
  acts [if slc then setF FLSH_SLC_STATE 1 else setF FLSH_BULK_STATE 1, raiseEvt flshPg (2 ^ 16), healthNotice .flashRo]

theorem flashShort_parts (slc : Bool) : (flashShort slc).Parts [.events, .out] := by
  simp only [flashShort, only_acts_cons, only_acts_nil, only_ite_iff, within_setF, and_true]
  exact ⟨⟨fun _ => trivial, fun _ => trivial⟩, raiseEvt_parts _ _ (by decide) (by decide), healthNotice_parts _ (by decide) (by decide)⟩

theorem flashRo_fv (s : State) (f : Fld) (n : Nat) (hb : f.blk = .flsh) (ho : f.off + n * f.stride < 4096) :
    fv ((healthNotice .flashRo).run s) f 0 n = fv s f 0 n := by
  rw [healthNotice, run_acts_cons, run_acts_cons, runs_nil,
    fv_raiseEvt _ _ _ _ _ _ (fldKey_ne_blk _ _ _ _ _ _ (by rw [hb]; decide) (by decide) (by decide) ho (by decide))
      (fldKey_ne_lost _ _ _ (by rw [hb]; decide) (by decide) ho),
    fv_incF_other _ _ _ _ _ _ _ _ (by decide) (Or.inl (fldKey_ne_blk _ _ _ _ _ _ (by rw [hb]; decide) (by decide) (by decide) ho (by decide)))]

/-- Events of FLSH leave its other fields. -/
theorem flsh_raise_fv (s : State) (m : Nat) (f : Fld) (n : Nat) (hb : f.blk = .flsh) (h0 : 0x40 ≤ f.off) (ho : f.off + n * f.stride < 4096) :
    fv ((raiseEvt flshPg m).run s) f 0 n = fv s f 0 n :=
  fv_raiseEvt _ _ _ _ _ _ (fldKey_ne_off _ _ _ _ _ (by rw [hb]; rfl) (by simp [hdrEvtPend]; omega))
    (fldKey_ne_lost _ _ _ (by rw [hb]; decide) (by decide) ho)

/-- A region short of spares becomes read only. -/
theorem flashShort_state (s : State) (slc : Bool) : flashState ((flashShort slc).run s) (b2n slc) = 1 ∧ pending ((flashShort slc).run s) flshPg 16 ∧
    (∀ i, pending s flshPg i → pending ((flashShort slc).run s) flshPg i) ∧
    ∀ f n, f.blk = .flsh → 0x40 < f.off → f.off + n * f.stride < 4096 → fv ((flashShort slc).run s) f 0 n = fv s f 0 n := by
  rw [flashShort, run_acts_cons, run_acts_cons, run_acts_cons, runs_nil]
  have hpend : ∀ (u : State) (i : Nat), pending u flshPg i → pending ((healthNotice .flashRo).run u) flshPg i := by
    intro u i h
    unfold pending at h ⊢
    rw [show flshPg.blk = .flsh from rfl, show flshPg.idx = 0 from rfl, flashRo_fv u _ 0 rfl (by decide)]
    exact h
  refine ⟨?_, hpend _ 16 (pending_raiseEvt flshPg _ 16 _ (by decide) (by decide)), fun i hi => ?_, fun f n hb h0 ho => ?_⟩
  · have hst : ∀ u : State, flashState ((healthNotice .flashRo).run ((raiseEvt flshPg (2 ^ 16)).run u)) (b2n slc) = flashState u (b2n slc) := by
      intro u
      unfold flashState
      rw [flashRo_fv _ _ 0 rfl (by decide), flashRo_fv _ _ 0 rfl (by decide), flsh_raise_fv _ _ _ 0 rfl (by decide) (by decide),
        flsh_raise_fv _ _ _ 0 rfl (by decide) (by decide)]
    rw [hst]
    cases slc
    · exact (fv_setF_self s FLSH_BULK_STATE 1 0 0 ⟨by decide, by decide⟩)
    · exact (fv_setF_self s FLSH_SLC_STATE 1 0 0 ⟨by decide, by decide⟩)
  · refine hpend _ i (pending_raise_keep _ _ _ _ (by decide) ?_)
    unfold pending at hi ⊢
    rw [show flshPg.blk = .flsh from rfl, show flshPg.idx = 0 from rfl] at hi ⊢
    cases slc
    · rw [if_neg (by decide), fv_setF_other _ FLSH_BULK_STATE _ _ _ _ _ _ (by decide) (Or.inl (by decide))]; exact hi
    · rw [if_pos rfl, fv_setF_other _ FLSH_SLC_STATE _ _ _ _ _ _ (by decide) (Or.inl (by decide))]; exact hi
  · rw [flashRo_fv _ f n hb ho, flsh_raise_fv _ _ f n hb (by omega) ho]
    cases slc
    · exact fv_setF_other _ FLSH_BULK_STATE f _ _ _ _ _ (by decide) (Or.inl (flsh_ne _ _ _ _ hb rfl (by simp only [FLSH_BULK_STATE]; omega)))
    · exact fv_setF_other _ FLSH_SLC_STATE f _ _ _ _ _ (by decide) (Or.inl (flsh_ne _ _ _ _ hb rfl (by simp only [FLSH_SLC_STATE]; omega)))

/-- The spare shares after a region's block is retired. -/
def spareAfter (s : State) (slc : Bool) (spare : Nat) : Nat × Nat := if slc then (s.flash.spare.1, spare) else (spare, s.flash.spare.2)

/-- What a failed program does before its region is judged. -/
def flashRetire (s : State) (slc : Bool) (spare : Nat) : Act :=
  acts [cnt FLSH_FCNT 2, raiseEvt flshPg (2 ^ 17), upd (.flash { s.flash with spare := spareAfter s slc spare }),
    setF FLSH_SPARE_PCT (min (spareAfter s slc spare).1 (spareAfter s slc spare).2)]

theorem flashFail_run (s : State) (slc : Bool) (spare : Nat) : (flashFail slc spare).run s =
    (onlyIf (decide (spare < 200) && flashState s (b2n slc) == 0) (flashShort slc)).run ((flashRetire s slc spare).run s) := by
  rw [flashFail, run_look]
  dsimp only
  rw [flashRetire, flashShort]
  simp only [run_acts_cons, runs_nil]
  rfl

theorem flashRetire_parts (s : State) (slc : Bool) (spare : Nat) : (flashRetire s slc spare).Parts [.events, .out, .flash] := by
  simp only [flashRetire, cnt, only_acts_cons, only_acts_nil, within_incF, within_setF, only_upd_iff, Upd.within, and_true, true_and]
  exact ⟨raiseEvt_parts _ _ (by decide) (by decide), by decide⟩

theorem flashRetire_state (s : State) (slc : Bool) (spare : Nat) (h1 : spare < 65536) (h2 : s.flash.spare.1 < 65536) (h3 : s.flash.spare.2 < 65536) :
    let u := (flashRetire s slc spare).run s
    counted s u FLSH_FCNT 0 2 1 ∧ pending u flshPg 17 ∧
      fv u FLSH_SPARE_PCT = min spare (if slc then s.flash.spare.1 else s.flash.spare.2) ∧ flashState u (b2n slc) = flashState s (b2n slc) := by
  dsimp only
  rw [flashRetire, run_acts_cons, run_acts_cons, run_acts_cons, run_acts_cons, runs_nil]
  have hupd : ∀ (u : State) (x : FlashSt) (f : Fld) (n : Nat), fv ((upd (.flash x)).run u) f 0 n = fv u f 0 n := fun _ _ _ _ => rfl
  have hpct : ∀ (u : State) (v : Nat) (f : Fld) (n : Nat), f.blk = .flsh → f.off + n * f.stride ≠ 0x058 →
      fv ((setF FLSH_SPARE_PCT v).run u) f 0 n = fv u f 0 n := fun u v f n hb hne =>
    fv_setF_other u FLSH_SPARE_PCT f _ _ _ _ _ (by decide) (Or.inl (flsh_ne _ _ _ _ hb rfl (by simp only [FLSH_SPARE_PCT]; omega)))
  refine ⟨?_, ?_, ?_, ?_⟩
  · unfold counted
    rw [hpct _ _ _ _ rfl (by decide), hupd, flsh_raise_fv _ _ _ _ rfl (by decide) (by decide)]
    exact fv_incF_word s FLSH_FCNT 0 2 rfl rfl
  · have := pending_raiseEvt flshPg (2 ^ 17) 17 ((cnt FLSH_FCNT 2).run s) (by decide) (by decide)
    unfold pending at this ⊢
    rw [show flshPg.blk = .flsh from rfl, show flshPg.idx = 0 from rfl] at this ⊢
    rw [hpct _ _ _ _ rfl (by decide), hupd]
    exact this
  · rw [fv_setF_self _ _ _ _ _ ⟨by decide, by decide⟩]
    cases slc
    · refine Nat.mod_eq_of_lt ?_
      simp only [spareAfter, Bool.false_eq_true, if_false, FLSH_SPARE_PCT]; omega
    · rw [spareAfter, if_pos rfl, if_pos rfl, Nat.min_comm]
      refine Nat.mod_eq_of_lt ?_
      simp only [FLSH_SPARE_PCT]; omega
  · have hst : ∀ f : Fld, f = FLSH_BULK_STATE ∨ f = FLSH_SLC_STATE → ∀ v x, fv ((setF FLSH_SPARE_PCT v).run ((upd (.flash x)).run
        ((raiseEvt flshPg (2 ^ 17)).run ((cnt FLSH_FCNT 2).run s)))) f = fv s f := by
      intro f hf v x
      have hb : f.blk = .flsh := by rcases hf with rfl | rfl <;> rfl
      have ho : f.off = 0x040 ∧ f.stride = 0 := by rcases hf with rfl | rfl <;> exact ⟨rfl, rfl⟩
      rw [hpct _ _ _ _ hb (by omega), hupd, flsh_raise_fv _ _ _ _ hb (by omega) (by omega), cnt,
        fv_incF_other _ FLSH_FCNT f _ _ _ _ _ (by decide) (Or.inl (flsh_ne _ _ _ _ hb rfl (by simp only [FLSH_FCNT]; omega)))]
    unfold flashState
    rw [hst _ (Or.inl rfl), hst _ (Or.inr rfl)]

/-- A failed program. -/
theorem flashFail_state (s : State) (slc : Bool) (spare : Nat) (h1 : spare < 65536) (h2 : s.flash.spare.1 < 65536) (h3 : s.flash.spare.2 < 65536) :
    ∃ t, exec (.flashProgramFail slc spare) s = .next t ∧ counted s t FLSH_FCNT 0 2 1 ∧ pending t flshPg 17 ∧ memKept s t ∧
      fv t FLSH_SPARE_PCT = min spare (if slc then s.flash.spare.1 else s.flash.spare.2) ∧
      (spare < 200 → flashState s (b2n slc) = 0 → flashState t (b2n slc) = 1 ∧ pending t flshPg 16) ∧
      (200 ≤ spare → flashState t (b2n slc) = flashState s (b2n slc)) := by
  obtain ⟨r1, r2, r3, r4⟩ := flashRetire_state s slc spare h1 h2 h3
  have hparts := (flashRetire_parts s slc spare).memKept s (by decide) (by decide) (by decide)
  refine ⟨_, congrArg Host.Outcome.next (flashFail_run s slc spare), ?_⟩
  generalize (flashRetire s slc spare).run s = u at r1 r2 r3 r4 hparts
  by_cases hgo : (decide (spare < 200) && flashState s (b2n slc) == 0) = true
  · obtain ⟨f1, f2, f3, f4⟩ := flashShort_state u slc
    obtain ⟨m1, m2, m3⟩ := (flashShort_parts slc).memKept u (by decide) (by decide) (by decide)
    obtain ⟨k1, k2, k3⟩ := hparts
    rw [run_onlyIf_of_true _ _ hgo]
    refine ⟨(f4 _ 2 rfl (by decide) (by decide)).trans r1, f3 17 r2, ⟨fun k => (m1 k).trans (k1 k), fun k => (m2 k).trans (k2 k),
      fun k => (m3 k).trans (k3 k)⟩, (f4 _ 0 rfl (by decide) (by decide)).trans r3, fun _ _ => ⟨f1, f2⟩, fun h => ?_⟩
    simp only [Bool.and_eq_true, decide_eq_true_eq] at hgo
    omega
  · rw [Bool.eq_false_iff.2 hgo, runs_false]
    refine ⟨r1, r2, hparts, r3, fun h h0 => absurd ?_ hgo, fun _ => r4⟩
    simp [h, h0]

theorem flashUndo_within (l : List (Nat × List (Byte × Bool))) : (flashUndo l).Within [.mem, .syn] fun _ => False := by
  induction l with
  | nil => trivial
  | cons x l ih =>
    exact (only_seq_iff _ _ _).2 ⟨flashStore_within _ _, ih⟩

/-- What the flush restores, if it was not complete. -/
def flushRestore (s : State) (full : Bool) : Act :=
  if full then .done else withFree fun v => flashUndo (s.flash.undo.take (v % (s.flash.undo.length + 1)))

theorem flushRestore_within (s : State) (full : Bool) : (flushRestore s full).Within [.mem, .syn, .free] fun _ => False := by
  unfold flushRestore
  split
  · trivial
  · rw [within_withFree]
    exact ⟨by decide, fun v => (flashUndo_within _).mono (by decide) fun _ h => h⟩

/-- The status of a flush that is done. -/
def flushStatus (full : Bool) (us : Nat) : Act :=
  acts [setF FLSH_PLF_VALID 1, setF FLSH_PLF_COMPLETE (b2n full), setF FLSH_PLF_US (min 65535 us)]

theorem flushStatus_state (s : State) (full : Bool) (us : Nat) : fb ((flushStatus full us).run s) FLSH_PLF_VALID = true ∧
    fb ((flushStatus full us).run s) FLSH_PLF_COMPLETE = full ∧ fv ((flushStatus full us).run s) FLSH_PLF_US = min 65535 us := by
  rw [flushStatus, run_acts_cons, run_acts_cons, run_acts_cons, runs_nil]
  refine ⟨?_, ?_, ?_⟩
  · rw [fb_setF_other _ FLSH_PLF_US FLSH_PLF_VALID _ _ _ _ _ (by decide) (Or.inr (by decide)),
      fb_setF_other _ FLSH_PLF_COMPLETE FLSH_PLF_VALID _ _ _ _ _ (by decide) (Or.inr (by decide)), fb_setF_self _ _ _ _ _ ⟨by decide, by decide⟩]
    rfl
  · rw [fb_setF_other _ FLSH_PLF_US FLSH_PLF_COMPLETE _ _ _ _ _ (by decide) (Or.inr (by decide)), fb_setF_self _ _ _ _ _ ⟨by decide, by decide⟩]
    cases full <;> rfl
  · rw [fv_setF_self _ _ _ _ _ ⟨by decide, by decide⟩]
    refine Nat.mod_eq_of_lt ?_
    simp only [FLSH_PLF_US]; omega

/-- FLUSH_DONE. -/
theorem flushDone_state (s : State) (full : Bool) (us : Nat) (hr : s.flash.refusing = true) :
    ∃ t, exec (.flushDone full us) s = .next t ∧ t.flash.refusing = false ∧ t.flash.undo = [] ∧ t.flash.wbuf = 0 ∧
      fb t FLSH_PLF_VALID = true ∧ fb t FLSH_PLF_COMPLETE = full ∧ fv t FLSH_PLF_US = min 65535 us ∧ (full = true → memKept s t) := by
  have hrun : (flushDone full us).run s = (setWbuf 0).run ((look fun t => upd (.flash { t.flash with undo := [], refusing := false })).run
      ((flushRestore s full).run ((flushStatus full us).run s))) := by
    rw [flushDone, run_look, hr, run_onlyIf_of_true _ _ rfl, flushStatus, flushRestore]
    simp only [run_acts_cons, runs_nil]
  obtain ⟨h1, h2, h3⟩ := flushStatus_state s full us
  have hkeep := fun f => (flushRestore_within s full).fv ((flushStatus full us).run s) f 0 0 fun h => h
  have hmem : full = true → memKept s ((flushRestore s full).run ((flushStatus full us).run s)) := by
    rintro rfl
    exact ⟨fun _ => rfl, fun _ => rfl, fun _ => rfl⟩
  refine ⟨_, congrArg Host.Outcome.next hrun, ?_⟩
  generalize (flushRestore s full).run ((flushStatus full us).run s) = u at hkeep hmem
  rw [setWbuf_run]
  have hother : ∀ f : Fld, f.blk = .flsh → f.stride = 0 → f.off = 0x060 → ∀ w : State, fv ((setF FLSH_WBUF_MIB (ceilDiv 0 256)).run w) f = fv w f :=
    fun f hb hs ho w => fv_setF_other w FLSH_WBUF_MIB f _ _ _ _ _ (by decide) (Or.inl (flsh_ne _ _ _ _ hb rfl (by rw [hs, ho]; decide)))
  refine ⟨rfl, rfl, rfl, ?_, ?_, ?_, hmem⟩
  · rw [fb, hother _ rfl rfl rfl]
    exact (congrArg (· != 0) (hkeep FLSH_PLF_VALID)).trans h1
  · rw [fb, hother _ rfl rfl rfl]
    exact (congrArg (· != 0) (hkeep FLSH_PLF_COMPLETE)).trans h2
  · rw [hother _ rfl rfl rfl]
    exact (hkeep FLSH_PLF_US).trans h3

/-- Settles O44, row by row of the flash. -/
theorem flashKeepsPages : Obligations.FlashKeepsPages := by
  unfold Obligations.FlashKeepsPages
  exact ⟨fun s a data ha hd => ⟨flashWrite_page s a data ha hd, flashWrite_full s a data ha hd, flashWrite_refused s a data ha hd⟩,
    fun s a u ha hr => flashRead_page s a u ha hr,
    fun s wear slc reads corr top bot hgo => flashRelocate_due s wear slc reads corr top bot hgo,
    fun s slc spare h1 h2 h3 => flashFail_state s slc spare h1 h2 h3,
    fun s n => ⟨_, rfl, rfl, ⟨fun _ => rfl, fun _ => rfl, fun _ => rfl⟩, rfl⟩, flushDone_state⟩

end Sys2Proof.Machine
end

section
/-! PROOF. The control loops: a step of the power control, and a die's retuning (R452, R453). -/

namespace Sys2Proof.Machine

/-! ### Properties that a program leaves true -/

/-- A program leaves a property of the state true. -/
def Act.Stable (P : State → Prop) (a : Act) : Prop := ∀ s, P s → P (a.run s)

section
variable {P : State → Prop}

@[simp] theorem stable_nil : (acts []).Stable P := fun _ h => h

theorem stable_cons {a : Act} {l : List Act} (ha : a.Stable P) (hl : (acts l).Stable P) : (acts (a :: l)).Stable P :=
  fun s h => by rw [run_acts_cons]; exact hl _ (ha s h)

theorem stable_seq {a b : Act} (ha : a.Stable P) (hb : b.Stable P) : (a.seq b).Stable P :=
  fun s h => by rw [Act.run_seq]; exact hb _ (ha s h)

theorem stable_look {k : State → Act} (h : ∀ s, (k s).Stable P) : (look k).Stable P := fun s hs => h s s hs

theorem stable_onlyIf {c : Bool} {a : Act} (h : c = true → a.Stable P) : (onlyIf c a).Stable P := by
  cases c
  · exact fun _ h => h
  · exact h rfl

theorem stable_each {α : Type} {l : List α} {f : α → Act} (h : ∀ x ∈ l, (f x).Stable P) : (each l f).Stable P := by
  induction l with
  | nil => exact fun _ h => h
  | cons x l ih =>
    intro s hs
    rw [run_each_cons]
    exact ih (fun y hy => h y (List.mem_cons_of_mem _ hy)) _ (h x List.mem_cons_self s hs)

theorem stable_of_keeps {α : Type} {O : State → α} {Q : α → Prop} {a : Act} (h : a.Keeps O) : a.Stable fun s => Q (O s) :=
  fun s hs => by show Q (O (a.run s)); rw [h s]; exact hs

end

/-! ### Events that are pending stay so -/

/-- A register that is no EVT_PEND. -/
theorem pendKey_ne (q : PageRef) (k : Nat) (h : k % 4096 ≠ 0x18) : fldKey (hdrEvtPend q.blk) q.idx 0 ≠ k := by
  rintro rfl
  refine h ?_
  unfold fldKey regKey hdrEvtPend
  simp only
  omega

theorem fldKey_mod (f : Fld) (i n : Nat) : fldKey f i n % 4096 = (f.off + n * f.stride) % 4096 := by
  unfold fldKey regKey; omega

/-- Writes of registers that are no EVT_PEND leave pending events pending. -/
theorem pending_of_within {ps : List Part} {ks : Nat → Prop} {a : Act} (h : a.Within ps ks) (hk : ∀ k, ks k → k % 4096 ≠ 0x18)
    (q : PageRef) (i : Nat) : a.Stable fun s => pending s q i := fun s hs => by
  show (fv (a.run s) (hdrEvtPend q.blk) q.idx).testBit i = true
  rw [h.fv s _ _ _ fun hc => pendKey_ne q _ (hk _ hc) rfl]
  exact hs

theorem pending_setF (f : Fld) (v j n : Nat) (h : (f.off + n * f.stride) % 4096 ≠ 0x18) (q : PageRef) (i : Nat) :
    (setF f v j n).Stable fun s => pending s q i :=
  pending_of_within (ps := []) (ks := (· = fldKey f j n)) ((within_setF f v j n).2 rfl) (by rintro k rfl; rw [fldKey_mod]; exact h) q i

theorem pending_incF (f : Fld) (v j n : Nat) (h : (f.off + n * f.stride) % 4096 ≠ 0x18) (q : PageRef) (i : Nat) :
    (incF f v j n).Stable fun s => pending s q i :=
  pending_of_within (ps := []) (ks := (· = fldKey f j n)) ((within_incF f v j n).2 rfl) (by rintro k rfl; rw [fldKey_mod]; exact h) q i

/-- An event, of whatever page, leaves pending events pending. -/
theorem pending_event (p : PageRef) (m : Nat) (hm : m < 2 ^ 32) (q : PageRef) (i : Nat) :
    (raiseEvt p m).Stable fun s => pending s q i := fun s hs => by
  show (fv ((raiseEvt p m).run s) (hdrEvtPend q.blk) q.idx).testBit i = true
  by_cases hk : fldKey (hdrEvtPend q.blk) q.idx 0 = fldKey (hdrEvtPend p.blk) p.idx 0
  · have hfv : ∀ t, fv t (hdrEvtPend q.blk) q.idx = fv t (hdrEvtPend p.blk) p.idx := fun t => by unfold fv; rw [hk]; rfl
    rw [hfv, raiseEvt_pend p m s hm, Nat.testBit_or, ← hfv, show (fv s (hdrEvtPend q.blk) q.idx).testBit i = true from hs]
    rfl
  · rw [fv_raiseEvt s p _ _ _ m hk (pendKey_ne q _ (by decide))]
    exact hs

/-! ### A field through the programs -/

theorem run_onlyIf_of_false {c : Bool} (a : Act) (s : State) (h : c = false) : (onlyIf c a).run s = s := by rw [h]; rfl

theorem runs_each_nil {α : Type} (f : α → Act) (s : State) : (each [] f).run s = s := (rfl)

section
variable (s : State) (g : Fld) (i n : Nat)

theorem fv_onlyIf (c : Bool) (a : Act) : fv ((onlyIf c a).run s) g i n = if c then fv (a.run s) g i n else fv s g i n := by
  cases c <;> rfl

theorem fv_setF_eq (f : Fld) (v j k : Nat) (h1 : f.lo ≤ f.hi) (h2 : f.hi < 64) :
    fv ((setF f v j k).run s) f j k = v % 2 ^ (f.hi + 1 - f.lo) := fv_setF_self s f v j k ⟨h1, h2⟩

theorem fv_updPower (f : Power → Power) : fv ((updPower f).run s) g i n = fv s g i n := (rfl)

end

/-! ### A step of the power control -/

/-- What a step of the power control carries out, with the values it has found: the limits shown, whether a die is over CAP
and not slow, newly at CAP_UNMET and in an emergency, the dies that throttle, and the frequencies. -/
def powerActs (p : PowerSample) (f : Power → Power) (lim : Nat) (above unmet em : Bool) (hot : Nat → Bool) (low mhz : Nat → Nat) : Act :=
  acts [
    showSample p, updPower f, setF POWR_LIMIT lim,
    onlyIf above (acts [cnt POWR_PCNT 0, raiseEvt powrPg (2 ^ 16)]),
    onlyIf unmet (raiseEvt powrPg (2 ^ 20)),
    onlyIf em (acts [cnt POWR_PCNT 2, raiseEvt powrPg (2 ^ 18)]),
    each [0, 1] fun d => acts [
      onlyIf (hot d) (acts [cnt POWR_PCNT 1, raiseEvt powrPg (2 ^ 17), raiseEvt ⟨.powrDie, d⟩ (2 ^ 16)]),
      setF PDIE_TARGET_MHZ (low d) d,
      onlyIf (decide (low d < mhz d)) (setF PDIE_ARITH_MHZ (low d) d)]]

/-- Whether a step of the power control is in an emergency (R454). -/
def powerEmergency (p : PowerSample) : Bool := decide (1600 < p.pMax) || decide (1500 < p.pAvg)

/-- Whether both dies are at their lowest frequency. -/
def powerSlow (s : State) : Bool := decide (fv s PDIE_ARITH_MHZ 0 = 750) && decide (fv s PDIE_ARITH_MHZ 1 = 750)

theorem five_flags (a b c d : Bool) : bit ((b2n a + 2 * b2n b + 4 * b2n c + 8 * b2n d + 16 * b2n true) % 32) 4 = true := by
  revert a b c d; decide

theorem powerStep_run (s : State) (p : PowerSample) (h : s.boot.live = true) : ∃ f lim unmet hot low,
    (powerStep p).run s = (powerActs p f lim (decide (fv s POWR_CAP < p.pAvg) && !powerSlow s) unmet
      (powerEmergency p && s.power.emPt != 750) hot low fun d => fv s PDIE_ARITH_MHZ d).run s ∧
    (∀ d, low d < 2 ^ 11) ∧
    (fv s POWR_CAP < p.pAvg → (∀ d, d < 2 → low d ≤ max 750 (fv s PDIE_ARITH_MHZ d - 50)) ∧
      (powerSlow s = true → bit (lim % 32) 4 = true)) ∧
    (powerEmergency p = true → ∀ d, d < 2 → low d ≤ 750) ∧
    ∀ d, d < 2 → 1000 ≤ p.tDie.getD d 0 → low d ≤ max 750 (fv s PDIE_ARITH_MHZ d - 50) := by
  rw [powerStep, run_look, if_neg (by simp [h])]
  refine ⟨_, _, _, _, _, rfl, fun d => ?_, fun hc => ⟨fun d hd => ?_, fun hs => ?_⟩, fun he d hd => ?_, fun d hd ht => ?_⟩
  · exact lt_of_le_of_lt ((min_le_right _ _).trans (min_le_left _ _)) (fv_lt s POWR_FREQ_MAX 0 0)
  · refine ((min_le_left _ _).trans (min_le_left _ _)).trans ?_
    obtain rfl | rfl : d = 0 ∨ d = 1 := by omega
    · simp [hc, stepDown50, mhzMin]
    · simp [hc, stepDown50, mhzMin, List.range_succ]
  · have hs' : (decide (fv s PDIE_ARITH_MHZ 0 = mhzMin) && decide (fv s PDIE_ARITH_MHZ 1 = mhzMin)) = true := hs
    simp only [hc, hs', decide_true, Bool.and_self]
    exact five_flags _ _ _ _
  · refine ((min_le_right _ _).trans (min_le_right _ _)).trans ?_
    have he' : (decide (1600 < p.pMax) || decide (1500 < p.pAvg)) = true := he
    simp [he', mhzMin]
  · refine ((min_le_left _ _).trans (min_le_right _ _)).trans ?_
    have hmem : d ∈ hotAfter s p := List.mem_append_left _ (List.mem_filter.2 ⟨List.mem_range.2 hd, by
      rw [Bool.or_eq_true, decide_eq_true_eq]; exact Or.inl ht⟩)
    have hhot : dieHot (hotAfter s p) d = true := List.any_eq_true.2 ⟨d, hmem, by simp⟩
    simp [hhot, stepDown50, mhzMin]

/-- The measurements shown are registers of the POWR and die pages alone. -/
theorem showSample_within (p : PowerSample) : (showSample p).Within [] fun k => k % 4096 ≠ 0x18 := by
  have hs : ∀ n, n < 12 → fldKey POWR_T_SITE 0 n % 4096 ≠ 0x18 := fun n hn => by
    rw [fldKey_mod]; simp only [POWR_T_SITE]; omega
  have hd : ∀ d, d < 2 → fldKey PDIE_DIE_W d 0 % 4096 ≠ 0x18 ∧ fldKey PDIE_T_DIE d 0 % 4096 ≠ 0x18 := fun d _ => by
    rw [fldKey_mod, fldKey_mod]; exact ⟨by decide, by decide⟩
  simp only [showSample, only_acts_cons, only_acts_nil, within_setF, only_each_iff, and_true, List.mem_range]
  exact ⟨by decide, by decide, by decide, by decide, by decide, hs, fun d hd' => hd d (by simp at hd'; omega)⟩

section
variable (s : State) (p : PowerSample) (f : Power → Power) (lim : Nat) (above unmet em : Bool) (hot : Nat → Bool) (low mhz : Nat → Nat)

theorem powerActs_parts : (powerActs p f lim above unmet em hot low mhz).Parts [.events, .out, .power] := by
  have hev : ∀ q m, (raiseEvt q m).Parts [.events, .out, .power] := fun q m => raiseEvt_parts q m (by decide) (by decide)
  simp [powerActs, hev, cnt, updPower, Upd.within, (showSample_within p).parts (qs := [.events, .out, .power])]


theorem showSample_pAvg : fv ((showSample p).run s) POWR_P_AVG = min 2047 p.pAvg := by
  have h12 : List.range 12 = [0, 1, 2, 3, 4, 5, 6, 7, 8, 9, 10, 11] := by decide
  simp (disch := decide) only [showSample, h12, run_acts_cons, runs_nil, run_each_cons, runs_each_nil, fv_setF_other]
  rw [fv_setF_self _ POWR_P_AVG _ _ _ ⟨by decide, by decide⟩]
  exact Nat.mod_eq_of_lt (by simp only [POWR_P_AVG]; omega)

theorem powerActs_pAvg : fv ((powerActs p f lim above unmet em hot low mhz).run s) POWR_P_AVG = min 2047 p.pAvg := by
  simp (disch := decide) only [powerActs, run_acts_cons, runs_nil, run_each_cons, runs_each_nil, fv_onlyIf, fv_setF_other, fv_raiseEvt,
    fv_updPower, cnt, fv_incF_other, ite_self]
  exact showSample_pAvg s p

theorem powerActs_limit : fv ((powerActs p f lim above unmet em hot low mhz).run s) POWR_LIMIT = lim % 32 := by
  simp (disch := decide) only [powerActs, run_acts_cons, runs_nil, run_each_cons, runs_each_nil, fv_onlyIf, fv_setF_other, fv_raiseEvt,
    cnt, fv_incF_other, ite_self]
  exact fv_setF_self _ POWR_LIMIT _ _ _ ⟨by decide, by decide⟩

theorem powerActs_arith (d : Nat) (hd : d < 2) (hl : low d < 2 ^ 11) (hm : mhz d = fv s PDIE_ARITH_MHZ d) :
    fv ((powerActs p f lim above unmet em hot low mhz).run s) PDIE_ARITH_MHZ d = min (low d) (mhz d) := by
  have h12 : List.range 12 = [0, 1, 2, 3, 4, 5, 6, 7, 8, 9, 10, 11] := by decide
  have hmod : low d % 2 ^ 11 = low d := Nat.mod_eq_of_lt hl
  obtain rfl | rfl : d = 0 ∨ d = 1 := by omega
  all_goals
    simp (disch := decide) only [powerActs, showSample, h12, run_acts_cons, runs_nil, run_each_cons, runs_each_nil, fv_onlyIf,
      fv_setF_other, fv_raiseEvt, fv_updPower, cnt, fv_incF_other, ite_self, fv_setF_eq, ← hm]
    simp only [PDIE_ARITH_MHZ, hmod, decide_eq_true_eq]
    split <;> omega

theorem powerActs_target (d : Nat) (hd : d < 2) (hl : low d < 2 ^ 11) :
    fv ((powerActs p f lim above unmet em hot low mhz).run s) PDIE_TARGET_MHZ d = low d := by
  have hmod : low d % 2 ^ 11 = low d := Nat.mod_eq_of_lt hl
  obtain rfl | rfl : d = 0 ∨ d = 1 := by omega
  all_goals
    simp (disch := decide) only [powerActs, run_acts_cons, runs_nil, run_each_cons, runs_each_nil, fv_onlyIf,
      fv_setF_other, fv_raiseEvt, ite_self, fv_setF_eq, cnt, fv_incF_other]
    exact hmod

theorem powerActs_dies_stable (i : Nat) : (each [0, 1] fun d => acts [
    onlyIf (hot d) (acts [cnt POWR_PCNT 1, raiseEvt powrPg (2 ^ 17), raiseEvt ⟨.powrDie, d⟩ (2 ^ 16)]),
    setF PDIE_TARGET_MHZ (low d) d,
    onlyIf (decide (low d < mhz d)) (setF PDIE_ARITH_MHZ (low d) d)]).Stable fun t => pending t powrPg i := by
  refine stable_each fun d _ => stable_cons (stable_onlyIf fun _ => ?_) (stable_cons (pending_setF _ _ _ _ (by decide) _ _)
    (stable_cons (stable_onlyIf fun _ => pending_setF _ _ _ _ (by decide) _ _) stable_nil))
  exact stable_cons (pending_incF _ _ _ _ (by decide) _ _) (stable_cons (pending_event _ _ (by decide) _ _)
    (stable_cons (pending_event _ _ (by decide) _ _) stable_nil))

theorem powerActs_over (h : above = true) :
    counted s ((powerActs p f lim above unmet em hot low mhz).run s) POWR_PCNT 0 0 1 ∧
      pending ((powerActs p f lim above unmet em hot low mhz).run s) powrPg 16 := by
  have h12 : List.range 12 = [0, 1, 2, 3, 4, 5, 6, 7, 8, 9, 10, 11] := by decide
  constructor
  · simp (disch := decide) only [powerActs, showSample, h12, run_acts_cons, runs_nil, run_each_cons, runs_each_nil, fv_onlyIf, h,
      fv_setF_other, fv_raiseEvt, fv_updPower, cnt, fv_incF_other, ite_self, fv_incF_word, if_true, counted]
  · simp only [powerActs, run_acts_cons, runs_nil, h, runs_true]
    refine powerActs_dies_stable hot low mhz 16 _ ?_
    refine stable_onlyIf (fun _ => stable_cons (pending_incF _ _ _ _ (by decide) _ _) (stable_cons (pending_event _ _ (by decide) _ _)
      stable_nil)) _ (stable_onlyIf (fun _ => pending_event _ _ (by decide) _ _) _ ?_)
    exact pending_raiseEvt _ _ _ _ (by decide) (by decide)

theorem powerActs_emergency (h : em = true) :
    counted s ((powerActs p f lim above unmet em hot low mhz).run s) POWR_PCNT 0 2 1 ∧
      pending ((powerActs p f lim above unmet em hot low mhz).run s) powrPg 18 := by
  have h12 : List.range 12 = [0, 1, 2, 3, 4, 5, 6, 7, 8, 9, 10, 11] := by decide
  constructor
  · simp (disch := decide) only [powerActs, showSample, h12, run_acts_cons, runs_nil, run_each_cons, runs_each_nil, fv_onlyIf, h,
      fv_setF_other, fv_raiseEvt, fv_updPower, cnt, fv_incF_other, ite_self, fv_incF_word, if_true, counted]
  · simp only [powerActs, run_acts_cons, runs_nil, h, runs_true]
    exact powerActs_dies_stable hot low mhz 18 _ (pending_raiseEvt _ _ _ _ (by decide) (by decide))

end

theorem vfCal_row (s : State) (d mv : Nat) :
    (d < 2 ∧ mv < 1024 ∧ dieInService s d = true ∧ fb s BKGD_ACT_EN 0 4 = true →
      ∃ t, exec (.vfCal d mv) s = .next t ∧ fv t PDIE_VDD_MV d = mv ∧ fv t PDIE_ARITH_MHZ d = fv s PDIE_TARGET_MHZ d ∧
        regsKept s t [fldKey PDIE_VDD_MV d 0, fldKey PDIE_ARITH_MHZ d 0] ∧ memKept s t) ∧
    (¬ (d < 2 ∧ mv < 1024 ∧ dieInService s d = true ∧ fb s BKGD_ACT_EN 0 4 = true) → exec (.vfCal d mv) s = .next s) := by
  have hrun : exec (.vfCal d mv) s = .next ((vfCal d mv).run s) := rfl
  rw [hrun, vfCal, run_look]
  refine ⟨fun ⟨hd, hmv, hs, he⟩ => ?_, fun h => ?_⟩
  · rw [run_onlyIf_of_true _ _ (by simp [hd, hmv, hs, he])]
    have hw : (acts [setF PDIE_VDD_MV mv d, setF PDIE_ARITH_MHZ (fv s PDIE_TARGET_MHZ d) d]).Within []
        fun k => k ∈ [fldKey PDIE_VDD_MV d 0, fldKey PDIE_ARITH_MHZ d 0] := by simp
    have ht : fv s PDIE_TARGET_MHZ d % 2 ^ 11 = fv s PDIE_TARGET_MHZ d := Nat.mod_eq_of_lt (fv_lt s PDIE_TARGET_MHZ d 0)
    refine ⟨_, rfl, ?_, ?_, hw.regsKept s _ fun _ h => h, hw.memKept s (by decide) (by decide) (by decide)⟩
    · obtain rfl | rfl : d = 0 ∨ d = 1 := by omega
      all_goals
        simp (disch := decide) only [run_acts_cons, runs_nil, fv_setF_other, fv_setF_eq]
        exact Nat.mod_eq_of_lt hmv
    · rw [run_acts_cons, run_acts_cons, runs_nil, fv_setF_eq _ _ _ _ _ (by decide) (by decide)]
      exact ht
  · rw [run_onlyIf_of_false _ _ (Bool.eq_false_iff.2 fun hc => h (by simpa only [Bool.and_eq_true, decide_eq_true_eq, and_assoc] using hc))]

/-- Settles O59, from what a step of the power control carries out (`powerStep_run`). -/
theorem controlLoopsThrottle : Obligations.ControlLoopsThrottle := by
  unfold Obligations.ControlLoopsThrottle
  refine ⟨fun s p => ⟨fun h => ?_, fun h => ?_⟩, vfCal_row⟩
  · show Host.Outcome.next ((powerStep p).run s) = _
    rw [powerStep, run_look, if_pos (by simp [h]), runs_done]
  · obtain ⟨f, lim, unmet, hot, low, hrun, hlt, hcap, hem, hhot⟩ := powerStep_run s p h
    have hp := powerActs_parts p f lim (decide (fv s POWR_CAP < p.pAvg) && !powerSlow s) unmet
      (powerEmergency p && s.power.emPt != 750) hot low fun d => fv s PDIE_ARITH_MHZ d
    refine ⟨_, congrArg Host.Outcome.next hrun, powerActs_pAvg .., hp.memKept s (by decide) (by decide) (by decide),
      hp.same .boot (by decide) s, ?_⟩
    have harith := fun d hd => powerActs_arith s p f lim (decide (fv s POWR_CAP < p.pAvg) && !powerSlow s) unmet
      (powerEmergency p && s.power.emPt != 750) hot low (fun d => fv s PDIE_ARITH_MHZ d) d hd (hlt d) rfl
    refine ⟨fun d hd => ?_, fun hc => ⟨fun d hd => ?_, fun hs => ?_, fun hs => ?_⟩, fun he => ⟨fun d hd => ⟨?_, ?_⟩, fun hne => ?_⟩,
      fun d hd ht => ?_⟩
    · rw [harith d hd]; exact min_le_right _ _
    · rw [harith d hd]; exact (min_le_left _ _).trans ((hcap hc).1 d hd)
    · exact powerActs_over _ _ _ _ _ _ _ _ _ _ (by simp only [hc, decide_true, Bool.true_and]; exact congrArg not hs)
    · rw [powerActs_limit]; exact (hcap hc).2 hs
    · rw [powerActs_target _ _ _ _ _ _ _ _ _ _ d hd (hlt d)]
      exact hem (by simpa [powerEmergency] using he) d hd
    · rw [harith d hd]; exact (min_le_left _ _).trans (hem (by simpa [powerEmergency] using he) d hd)
    · exact powerActs_emergency _ _ _ _ _ _ _ _ _ _ (by simpa [powerEmergency, hne] using he)
    · rw [harith d hd]; exact (min_le_left _ _).trans (hhot d hd ht)

end Sys2Proof.Machine
end

section
/-! PROOF. What sending a message and a link's fall touch of the LINK pages, and that neither takes an event back (R363). -/

namespace Sys2Proof.Machine

theorem stable_ite {P : State → Prop} {c : Prop} [Decidable c] {a b : Act} (ha : a.Stable P) (hb : b.Stable P) :
    (if c then a else b).Stable P := by
  split
  · exact ha
  · exact hb

/-! ### Sending, to the register -/

/-- The registers that sending can touch: the count of messages without a route, and what events touch. -/
abbrev sendKeys (k : Nat) : Prop := k = fldKey LINK_LDCNT 0 0 ∨ k % 4096 = 0x18 ∨ k = lostKey

theorem raiseEvt_sendKeys (p : PageRef) (m : Nat) : (raiseEvt p m).Within fabricParts sendKeys := by
  refine (raiseEvt_within p m).mono (by decide) ?_
  rintro k (rfl | rfl)
  · exact Or.inr (Or.inl (fldKey_mod _ _ _))
  · exact Or.inr (Or.inr rfl)

theorem raiseLinks_sendKeys (m : Nat) : (raiseLinks m).Within fabricParts sendKeys := by
  simp only [raiseLinks, only_look_iff, only_each_iff]
  exact fun _ _ _ => raiseEvt_sendKeys _ _

theorem noRoute_sendKeys : noRoute.Within fabricParts sendKeys := by
  simp only [noRoute, only_acts_cons, only_acts_nil, cnt, within_incF, and_true]
  exact ⟨Or.inl rfl, raiseLinks_sendKeys _⟩

theorem pump_noRegs (l n : Nat) : (pump l n).Within fabricParts fun _ => False := by
  induction n with
  | zero => trivial
  | succ n ih =>
    intro s
    dsimp only
    split
    · trivial
    · simp only [only_acts_cons, only_acts_nil, within_updLink, only_onlyIf_iff, only_emit_iff, and_true]
      exact ⟨by decide, fun _ => by simp [Upd.within, fabricParts], ih⟩

theorem enqueue_noRegs (l : Nat) (m : FabMsg) : (enqueue l m).Within fabricParts fun _ => False := by
  simp only [enqueue, only_acts_cons, only_acts_nil, within_updLink, only_look_iff, and_true]
  exact ⟨by decide, fun _ => pump_noRegs _ _⟩

theorem opRefused_noRegs (o : Origin) (code : Nat) : (opRefused o code).Within fabricParts fun _ => False := by
  unfold opRefused
  split
  · simp [fabricParts]
  · trivial

theorem within_of_noRegs {ps : List Part} {ks : Nat → Prop} {a : Act} (h : a.Within ps fun _ => False) : a.Within ps ks :=
  h.regs fun _ h => h.elim

theorem refuseMsg_sendKeys (m : FabMsg) (code : Nat) : (refuseMsg m code).Within fabricParts sendKeys := by
  intro s
  dsimp only
  split
  · trivial
  · split
    · exact within_of_noRegs (opRefused_noRegs _ _)
    · split
      · exact noRoute_sendKeys
      · exact within_of_noRegs (enqueue_noRegs _ _)

theorem forwardMsg_sendKeys (m : FabMsg) (via : Option Nat) : (forwardMsg m via).Within fabricParts sendKeys := by
  have hno : (acts [noRoute, refuseMsg m cNoRoute]).Within fabricParts sendKeys := by
    simp only [only_acts_cons, only_acts_nil, and_true]
    exact ⟨noRoute_sendKeys, refuseMsg_sendKeys _ _⟩
  intro s
  dsimp only
  split
  · exact hno
  · exact only_ite hno (within_of_noRegs (enqueue_noRegs _ _))

theorem sendMsg_sendKeys (dst : Nat) (o : Origin) (b : FabBody) : (sendMsg dst o b).Within fabricParts sendKeys :=
  fun _ => forwardMsg_sendKeys _ _

/-! ### A link's fall, to the register -/

/-- The registers that the fall of a link can touch: its state, its count of falls, three counts of the device, HLTH's
records, and what events touch. -/
abbrev dropKeys (l k : Nat) : Prop :=
  k = fldKey LINK_LSTATE l 0 ∨ k = fldKey LINK_LCNT l 5 ∨ (∃ n, n < 3 ∧ k = fldKey LINK_LDCNT 0 n) ∨ hdrOr [.hlth, .slqp] k

theorem dropKeys_of_send (l k : Nat) (h : sendKeys k) : dropKeys l k := by
  rcases h with rfl | h | rfl
  · exact Or.inr (Or.inr (Or.inl ⟨0, by decide, rfl⟩))
  · exact Or.inr (Or.inr (Or.inr (Or.inl (by omega))))
  · exact Or.inr (Or.inr (Or.inr (hdrOr_fldKey _ _ _ (by decide) (by decide) (by decide))))

theorem dropKeys_of_notice (l k : Nat) (h : noticeKeys k) : dropKeys l k := Or.inr (Or.inr (Or.inr h))

theorem linkDownCore_dropKeys (l : Nat) : (linkDownCore l).Within fabricParts (dropKeys l) := by
  have hsend : ∀ {a : Act}, a.Within fabricParts sendKeys → a.Within fabricParts (dropKeys l) :=
    fun h => h.regs (dropKeys_of_send l)
  have hcnt : ∀ n, n < 3 → dropKeys l (fldKey LINK_LDCNT 0 n) := fun n hn => Or.inr (Or.inr (Or.inl ⟨n, hn, rfl⟩))
  simp only [linkDownCore, only_look_iff, only_acts_cons, only_acts_nil, within_setF, cnt, within_incF, within_updLink, only_onlyIf_iff,
    only_emit_iff, only_each_iff, and_true, Upd.within]
  exact fun s => ⟨Or.inl rfl, Or.inl rfl, Or.inl rfl, Or.inr (Or.inl rfl), hsend (raiseEvt_sendKeys _ _), by decide,
    fun _ => ⟨hcnt 1 (by decide), fun _ => by decide⟩, fun _ _ => ⟨hcnt 2 (by decide), hsend (refuseMsg_sendKeys _ _)⟩,
    fun _ _ => (healthNotice_within _).mono (by decide) (dropKeys_of_notice l), fun _ _ => hsend (forwardMsg_sendKeys _ _)⟩

/-! ### Pending events -/

section
variable (q : PageRef) (i : Nat)

theorem pending_raiseLinks (m : Nat) (hm : m < 2 ^ 32) : (raiseLinks m).Stable fun s => pending s q i :=
  stable_look fun _ => stable_each fun _ _ => pending_event _ _ hm q i

theorem pending_noRoute : noRoute.Stable fun s => pending s q i :=
  stable_cons (pending_incF _ _ _ _ (by decide) q i) (stable_cons (pending_raiseLinks q i _ (by decide)) stable_nil)

/-- What touches no register leaves pending events pending. -/
theorem pending_of_noRegs {ps : List Part} {a : Act} (h : a.Within ps fun _ => False) : a.Stable fun s => pending s q i :=
  pending_of_within h (fun _ h => h.elim) q i

theorem pending_refuseMsg (m : FabMsg) (code : Nat) : (refuseMsg m code).Stable fun s => pending s q i := by
  refine stable_look fun s => ?_
  split
  · exact pending_of_noRegs q i (ps := []) trivial
  · split
    · exact pending_of_noRegs q i (opRefused_noRegs _ _)
    · split
      · exact pending_noRoute q i
      · exact pending_of_noRegs q i (enqueue_noRegs _ _)

theorem pending_forwardMsg (m : FabMsg) (via : Option Nat) : (forwardMsg m via).Stable fun s => pending s q i := by
  have hno : (acts [noRoute, refuseMsg m cNoRoute]).Stable fun s => pending s q i :=
    stable_cons (pending_noRoute q i) (stable_cons (pending_refuseMsg q i _ _) stable_nil)
  refine stable_look fun s => ?_
  split
  · exact hno
  · exact stable_ite hno (pending_of_noRegs q i (enqueue_noRegs _ _))

theorem pending_sendMsg (dst : Nat) (o : Origin) (b : FabBody) : (sendMsg dst o b).Stable fun s => pending s q i :=
  stable_look fun _ => pending_forwardMsg q i _ _

theorem pending_healthNotice (n : Notice) : (healthNotice n).Stable fun s => pending s q i := by
  have hev : ∀ m, m < 2 ^ 32 → (acts [raiseEvt hlthPage m]).Stable fun s => pending s q i :=
    fun m hm => stable_cons (pending_event _ _ hm q i) stable_nil
  cases n with
  | consumed p =>
    exact stable_look fun s => stable_cons (pending_incF _ _ _ _ (by decide) q i) (stable_cons (pending_setF _ _ _ _ (by decide) q i)
      (stable_cons (pending_setF _ _ _ _ (by decide) q i) (stable_cons (pending_setF _ _ _ _ (by decide) q i)
        (stable_cons (pending_setF _ _ _ _ (by decide) q i) (hev _ (by decide))))))
  | peerLost m =>
    exact stable_cons (pending_incF _ _ _ _ (by decide) q i) (stable_cons (pending_setF _ _ _ _ (by decide) q i)
      (stable_cons (pending_setF _ _ _ _ (by decide) q i) (hev _ (by decide))))
  | unbacked | auditLost | remapFull | flashRo => exact stable_cons (pending_incF _ _ _ _ (by decide) q i) (hev _ (by decide))

theorem pending_linkDownCore (l : Nat) : (linkDownCore l).Stable fun s => pending s q i := by
  have hset : ∀ f : Fld, ∀ v, f.off + 0 * f.stride = 0x100 → (setF f v l).Stable fun s => pending s q i :=
    fun f v h => pending_setF _ _ _ _ (by rw [h]; decide) q i
  refine stable_look fun s => stable_cons (hset _ _ rfl) (stable_cons (hset _ _ rfl) (stable_cons (hset _ _ rfl)
    (stable_cons (pending_incF _ _ _ _ (by decide) q i) (stable_cons (pending_event _ _ (by decide) q i) (stable_cons
      (pending_of_noRegs q i (ps := fabricParts) (by simp [fabricParts])) (stable_cons (stable_onlyIf fun _ => ?_) (stable_cons
        (stable_each fun x _ => stable_cons (pending_incF _ _ _ _ (by decide) q i) (stable_cons (pending_refuseMsg q i _ _) stable_nil))
        (stable_cons (stable_look fun t => stable_onlyIf fun _ => pending_healthNotice q i _)
          (stable_cons (stable_each fun x _ => pending_forwardMsg q i _ _) stable_nil)))))))))
  exact stable_cons (pending_incF _ _ _ _ (by decide) q i) (stable_cons (stable_onlyIf fun _ =>
    pending_of_noRegs q i (ps := fabricParts) (by simp [fabricParts, Upd.within])) stable_nil)

theorem pending_allLinksDown : allLinksDown.Stable fun s => pending s q i :=
  stable_look fun _ => stable_each fun _ _ => pending_linkDownCore q i _

theorem pending_reLevel : reLevel.Stable fun s => pending s q i := by
  refine stable_look fun s => ?_
  split
  · exact pending_of_noRegs q i (ps := []) trivial
  · have hset : ∀ f : Fld, ∀ v, f.off + 0 * f.stride < 4096 → f.off + 0 * f.stride ≠ 0x18 → (setF f v).Stable fun s => pending s q i :=
      fun f v h h' => pending_setF _ _ _ _ (by rwa [Nat.mod_eq_of_lt h]) q i
    refine stable_cons (hset _ _ (by decide) (by decide)) (stable_cons (stable_onlyIf fun _ => stable_cons (hset _ _ (by decide) (by decide))
      (stable_cons (hset _ _ (by decide) (by decide)) (stable_cons (hset _ _ (by decide) (by decide)) (stable_cons
        (hset _ _ (by decide) (by decide)) (stable_cons (hset _ _ (by decide) (by decide)) (stable_cons (hset _ _ (by decide) (by decide))
          (stable_cons (pending_event _ _ (by decide) q i) (stable_cons (stable_onlyIf fun _ => ?_) stable_nil)))))))) stable_nil)
    exact stable_cons (pending_allLinksDown q i) (stable_cons (stable_look fun t => hset _ _ (by decide) (by decide)) stable_nil)

theorem pending_withUnits (a : Act) (h : a.Stable fun s => pending s q i) : (withUnits a).Stable fun s => pending s q i :=
  stable_look fun _ => stable_cons h (stable_cons (stable_look fun _ => stable_each fun _ _ => pending_event _ _ (by decide) q i)
    (stable_cons (pending_reLevel q i) stable_nil))

end

end Sys2Proof.Machine
end

section
/-! PROOF. What a link's fall leaves of the LINK pages, and what a change of the level touches (R20, R363). -/

namespace Sys2Proof.Machine

/-! ### The fall of one link -/

/-- What the fall of a link carries out once its state is DOWN. -/
def linkFall (l : Nat) (st : LinkSt) (outer : Bool) : Act :=
  acts [
    cnt LINK_LCNT 5 l, raiseEvt (linkPg l) (2 ^ 16),
    updLink l fun x => { LinkSt.init with needAdmit := true, turn := x.turn },
    onlyIf st.joined (acts [cnt LINK_LDCNT 1, onlyIf outer (emit (.notice l false))]),
    each st.store fun x => acts [cnt LINK_LDCNT 2, refuseMsg x.2 cLinkDown],
    look fun t => onlyIf (peerGone t l) (healthNotice (.peerLost (fv t LINK_FAR_NODE l))),
    each (st.waiting.filter fun x => x.1 == x.2.flits) fun x => forwardMsg x.2 none]

/-- The state of a link, in its register, when it falls. -/
def linkFallen (s : State) (l : Nat) : State := (setF LINK_RETRAINING 0 l).run ((setF LINK_LANES 0 l).run ((setF LINK_LSTATE 3 l).run s))

theorem linkDownCore_run (s : State) (l : Nat) :
    (linkDownCore l).run s = (linkFall l (linkSt s l) (outerRole s l)).run (linkFallen s l) := by
  rw [linkDownCore, run_look]
  dsimp only
  rw [run_acts_cons, run_acts_cons, run_acts_cons]
  rfl

/-- The registers of a link's fall beside its state. -/
abbrev linkFallKeys (l k : Nat) : Prop :=
  k = fldKey LINK_LCNT l 5 ∨ (∃ n, n < 3 ∧ k = fldKey LINK_LDCNT 0 n) ∨ hdrOr [.hlth, .slqp] k

theorem linkFallKeys_of_send (l k : Nat) (h : sendKeys k) : linkFallKeys l k := by
  rcases h with rfl | h | rfl
  · exact Or.inr (Or.inl ⟨0, by decide, rfl⟩)
  · exact Or.inr (Or.inr (Or.inl (by omega)))
  · exact Or.inr (Or.inr (hdrOr_fldKey _ _ _ (by decide) (by decide) (by decide)))

theorem linkFall_within (l : Nat) (st : LinkSt) (outer : Bool) : (linkFall l st outer).Within fabricParts (linkFallKeys l) := by
  have hsend : ∀ {a : Act}, a.Within fabricParts sendKeys → a.Within fabricParts (linkFallKeys l) :=
    fun h => h.regs (linkFallKeys_of_send l)
  have hcnt : ∀ n, n < 3 → linkFallKeys l (fldKey LINK_LDCNT 0 n) := fun n hn => Or.inr (Or.inl ⟨n, hn, rfl⟩)
  simp only [linkFall, only_look_iff, only_acts_cons, only_acts_nil, cnt, within_incF, within_updLink, only_onlyIf_iff,
    only_emit_iff, only_each_iff, and_true, Upd.within]
  exact ⟨Or.inl rfl, hsend (raiseEvt_sendKeys _ _), by decide,
    fun _ => ⟨hcnt 1 (by decide), fun _ => by decide⟩, fun _ _ => ⟨hcnt 2 (by decide), hsend (refuseMsg_sendKeys _ _)⟩,
    fun s _ => (healthNotice_within _).mono (by decide) (fun _ h => Or.inr (Or.inr h)), fun _ _ => hsend (forwardMsg_sendKeys _ _)⟩

/-- A register of a device link's own: one of a LINK page, above those of the device. -/
structure LinkReg (f : Fld) (n : Nat) : Prop where
  blk : f.blk = .link
  lo : 0x100 ≤ f.off + n * f.stride
  hi : f.off + n * f.stride < 4096

theorem LinkReg.not_notice {f : Fld} {n : Nat} (h : LinkReg f n) (i : Nat) (hi : i < 256) : ¬ hdrOr [.hlth, .slqp] (fldKey f i n) :=
  not_hdrOr_fldKey f i n (by rw [h.blk]; decide) hi (by have := h.lo; omega) h.hi

theorem LinkReg.ne_ldcnt {f : Fld} {n : Nat} (h : LinkReg f n) (i m : Nat) (hm : m < 3) : fldKey f i n ≠ fldKey LINK_LDCNT 0 m := by
  intro hk
  have h1 := fldKey_mod f i n
  rw [hk, fldKey_mod, Nat.mod_eq_of_lt h.hi] at h1
  have h2 := h.lo
  simp only [LINK_LDCNT] at h1
  omega

theorem LinkReg.ne_lcnt {f : Fld} {n : Nat} (h : LinkReg f n) (i l m : Nat) (hm : m < 64) (ho : i ≠ l ∨ f.off + n * f.stride ≠ 0x118 + 4 * m) :
    fldKey f i n ≠ fldKey LINK_LCNT l m := by
  intro hk
  have h1 := h.hi
  unfold fldKey regKey at hk
  rw [h.blk] at hk
  simp only [LINK_LCNT] at hk
  omega

theorem linkFall_fv (s : State) (l : Nat) (st : LinkSt) (outer : Bool) (f : Fld) (i n : Nat) (h : LinkReg f n) (hi : i < 256)
    (ho : i ≠ l ∨ f.off + n * f.stride ≠ 0x118 + 4 * 5) : fv ((linkFall l st outer).run s) f i n = fv s f i n := by
  refine (linkFall_within l st outer).fv s f i n ?_
  rintro (hk | ⟨m, hm, hk⟩ | hk)
  · exact h.ne_lcnt i l 5 (by decide) ho hk
  · exact h.ne_ldcnt i m hm hk
  · exact h.not_notice i hi hk

theorem linkFallen_other (s : State) (l : Nat) (f : Fld) (i n : Nat) (h : LinkReg f n)
    (ho : i ≠ l ∨ f.off + n * f.stride ≠ 0x100) : fv (linkFallen s l) f i n = fv s f i n := by
  have hne : ∀ g : Fld, g.blk = .link → g.off + 0 * g.stride = 0x100 → fldKey f i n ≠ fldKey g l 0 := by
    intro g hb hg hk
    have h1 := h.hi
    unfold fldKey regKey at hk
    rw [h.blk, hb, hg] at hk
    omega
  rw [linkFallen, fv_setF_other _ LINK_RETRAINING _ _ _ _ _ _ (by decide) (Or.inl (hne _ rfl rfl)),
    fv_setF_other _ LINK_LANES _ _ _ _ _ _ (by decide) (Or.inl (hne _ rfl rfl)),
    fv_setF_other _ LINK_LSTATE _ _ _ _ _ _ (by decide) (Or.inl (hne _ rfl rfl))]

theorem linkReg_lstate : LinkReg LINK_LSTATE 0 := ⟨rfl, by decide, by decide⟩

/-- Another link's registers are as they were. -/
theorem linkDownCore_other (s : State) (l : Nat) (f : Fld) (i n : Nat) (h : LinkReg f n) (hi : i < 256) (hne : i ≠ l) :
    fv ((linkDownCore l).run s) f i n = fv s f i n := by
  rw [linkDownCore_run, linkFall_fv _ _ _ _ _ _ _ h hi (Or.inl hne), linkFallen_other _ _ _ _ _ h (Or.inl hne)]

theorem linkDownCore_state (s : State) (l : Nat) (hl : l < 256) : linkState ((linkDownCore l).run s) l = 3 := by
  rw [linkState, linkDownCore_run, linkFall_fv _ _ _ _ _ _ _ linkReg_lstate hl (Or.inr (by decide)), linkFallen,
    fv_setF_other _ LINK_RETRAINING LINK_LSTATE _ _ _ _ _ (by decide) (Or.inr (by decide)),
    fv_setF_other _ LINK_LANES LINK_LSTATE _ _ _ _ _ (by decide) (Or.inr (by decide))]
  exact fv_setF_eq s LINK_LSTATE _ _ _ (by decide) (by decide)

/-! ### Links that stay DOWN -/

theorem down_linkDownCore (j l : Nat) (hl : l < 256) : (linkDownCore j).Stable fun s => linkState s l = 3 := fun s hs => by
  by_cases h : l = j
  · subst h; exact linkDownCore_state s l hl
  · exact (linkDownCore_other s j _ l 0 linkReg_lstate hl h).trans hs

/-- Once its links that were UP have fallen, none of a list's are UP, and those not in it are as they were. -/
theorem each_linkDown_state (s : State) (L : List Nat) (l : Nat) (hl : l < 256) :
    linkState ((each L linkDownCore).run s) l = if l ∈ L then 3 else linkState s l := by
  induction L generalizing s with
  | nil => rfl
  | cons j L ih =>
    rw [run_each_cons, ih]
    by_cases hj : l = j
    · subst hj
      rw [linkDownCore_state s l hl, ite_self, if_pos List.mem_cons_self]
    · have hs : linkState ((linkDownCore j).run s) l = linkState s l := linkDownCore_other s j _ l 0 linkReg_lstate hl hj
      simp only [hs, List.mem_cons, hj, false_or]

theorem each_linkDown_other (s : State) (L : List Nat) (f : Fld) (i n : Nat) (h : LinkReg f n) (hi : i < 256) (hn : i ∉ L) :
    fv ((each L linkDownCore).run s) f i n = fv s f i n := by
  induction L generalizing s with
  | nil => rfl
  | cons j L ih =>
    obtain ⟨hij, hL⟩ := List.ne_and_not_mem_of_not_mem_cons hn
    rw [run_each_cons, ih _ hL, linkDownCore_other s j f i n h hi hij]

theorem allLinksDown_state (s : State) (l : Nat) (hl : l < nLinks s.build) :
    linkState (allLinksDown.run s) l = if linkState s l = 2 then 3 else linkState s l := by
  rw [allLinksDown, run_look, each_linkDown_state _ _ _ (by have := nLinks_lt s.build; omega)]
  simp [rangeF, hl]

/-- A link that is not UP keeps its registers. -/
theorem allLinksDown_other (s : State) (f : Fld) (i n : Nat) (h : LinkReg f n) (hi : i < 256) (hs : linkState s i ≠ 2) :
    fv (allLinksDown.run s) f i n = fv s f i n := by
  rw [allLinksDown, run_look, each_linkDown_other _ _ _ _ _ h hi]
  simp [rangeF, hs]

theorem linkSite_mem_lt {s : State} {P : Nat → Bool} {l : Nat} (h : l ∈ rangeF (nLinks s.build) P) : l < 256 :=
  lt_trans (List.mem_range.1 (List.mem_filter.1 h).1) (nLinks_lt s.build)

theorem allLinksDown_within : allLinksDown.Within fabricParts fallKeys := by
  simp only [allLinksDown, only_look_iff, only_each_iff]
  exact fun s l hl => linkDownCore_within l (linkSite_mem_lt hl)

/-! ### The level -/

theorem reLevel_within : reLevel.Within fabricParts fallKeys := by
  have hset : ∀ f : Fld, ∀ v, f.blk = .hlth → f.off + 0 * f.stride < 4096 → (setF f v).Within fabricParts fallKeys :=
    fun f v hb ho => (within_setF f v 0 0).2 (hdrOr_fldKey f 0 0 (by simp [hb]) (by decide) ho)
  refine fun s => only_ite trivial ?_
  simp only [only_acts_cons, only_acts_nil, only_onlyIf_iff, only_look_iff, and_true]
  exact ⟨hset _ _ rfl (by decide), fun _ => ⟨hset _ _ rfl (by decide), hset _ _ rfl (by decide), hset _ _ rfl (by decide),
    hset _ _ rfl (by decide), hset _ _ rfl (by decide), hset _ _ rfl (by decide), raiseEvt_hdrOr _ _ (by decide) (by decide) (by decide),
    fun _ => ⟨allLinksDown_within, fun t => hset _ _ rfl (by decide)⟩⟩⟩

/-- What follows a change of units: pages newly retired raise RETIRE, and the level follows. -/
def unitsFollow (s : State) : Act :=
  acts [look fun t => each ((unitPages s.build).filter fun p => pageRetired t p && !pageRetired s p) fun p => raiseEvt p evRetire, reLevel]

theorem withUnits_run (a : Act) (s : State) : (withUnits a).run s = (unitsFollow s).run (a.run s) := by
  rw [withUnits, run_look, run_acts_cons]
  rfl

theorem unitsFollow_within (s : State) : (unitsFollow s).Within fabricParts fallKeys := by
  simp only [unitsFollow, only_acts_cons, only_acts_nil, only_look_iff, only_each_iff, and_true]
  exact ⟨fun _ _ _ => raiseEvt_hdrOr _ _ (by decide) (by decide) (by decide), reLevel_within⟩

/-- The programs of a notice and of an event write no register of a device link's own. -/
theorem linkReg_raiseEvt (s : State) (p : PageRef) (m : Nat) (f : Fld) (i n : Nat) (h : LinkReg f n) (hi : i < 256) :
    fv ((raiseEvt p m).run s) f i n = fv s f i n :=
  (raiseEvt_hdrOr (ps := [.events, .out]) (bs := [.hlth, .slqp]) p m (by decide) (by decide) (by decide)).fv s f i n (h.not_notice i hi)

theorem linkReg_hlth (s : State) (g : Fld) (v : Nat) (f : Fld) (i n : Nat) (h : LinkReg f n) (hi : i < 256) (hb : g.blk = .hlth)
    (ho : g.off + 0 * g.stride < 4096) : fv ((setF g v).run s) f i n = fv s f i n :=
  ((within_setF (ps := []) (ks := hdrOr [.hlth, .slqp]) g v 0 0).2 (hdrOr_fldKey g 0 0 (by simp [hb]) (by decide) ho)).fv s f i n
    (h.not_notice i hi)

/-- A link that is not UP keeps its registers when the level follows. -/
theorem reLevel_other (s : State) (f : Fld) (i n : Nat) (h : LinkReg f n) (hi : i < 256) (hs : linkState s i ≠ 2) :
    fv (reLevel.run s) f i n = fv s f i n := by
  have hset : ∀ g : Fld, ∀ v u, g.blk = .hlth → g.off + 0 * g.stride < 4096 → ∀ f n, LinkReg f n →
      fv ((setF g v).run u) f i n = fv u f i n := fun g v u hb ho f n hf => linkReg_hlth u g v f i n hf hi hb ho
  have hev : ∀ p m u, ∀ f n, LinkReg f n → fv ((raiseEvt p m).run u) f i n = fv u f i n :=
    fun p m u f n hf => linkReg_raiseEvt u p m f i n hf hi
  rw [reLevel, run_look]
  split
  · rfl
  · dsimp only
    generalize (if fb s ENET_LINK_UP = true then levelOf (limitConds s) else 0) = lvl
    rw [run_acts_cons, run_acts_cons, runs_nil, fv_onlyIf]
    split
    · simp only [run_acts_cons, runs_nil, fv_onlyIf, runs_look]
      split
      · rw [hset HLTH_COND _ _ rfl (by decide) f n h, allLinksDown_other _ f i n h hi]
        · simp (disch := first | rfl | decide | assumption) only [hset, hev]
        · unfold linkState at hs ⊢
          have := linkReg_lstate
          simpa (disch := first | rfl | decide | assumption) only [hset, hev] using hs
      · simp (disch := first | rfl | decide | assumption) only [hset, hev]
    · exact hset HLTH_COND _ _ rfl (by decide) f n h

theorem each_raiseEvt_other (s : State) (L : List PageRef) (m : Nat) (f : Fld) (i n : Nat) (h : LinkReg f n) (hi : i < 256) :
    fv ((each L fun p => raiseEvt p m).run s) f i n = fv s f i n :=
  keeps_each (O := fun s => fv s f i n) L _ (fun p s => linkReg_raiseEvt s p m f i n h hi) s

theorem unitsFollow_other (u s : State) (f : Fld) (i n : Nat) (h : LinkReg f n) (hi : i < 256) (hs : linkState s i ≠ 2) :
    fv ((unitsFollow u).run s) f i n = fv s f i n := by
  rw [unitsFollow, run_acts_cons, run_acts_cons, runs_nil, runs_look]
  have he := fun f n (h : LinkReg f n) => each_raiseEvt_other s
    ((unitPages u.build).filter fun p => pageRetired s p && !pageRetired u p) evRetire f i n h hi
  rw [reLevel_other _ f i n h hi, he f n h]
  rwa [linkState, he _ _ linkReg_lstate]

/-- A link's fall leaves the level to what follows it. -/
theorem linkDownCore_level (l : Nat) (hl : l < 256) : (linkDownCore l).Keeps fun s => level s := by
  have hlink : ∀ f : Fld, ∀ n, f.blk = .link → f.off + n * f.stride < 4096 → fldKey HLTH_LEVEL 0 0 ≠ fldKey f l n := fun f n hb ho =>
    fldKey_ne_blk _ _ _ _ _ _ (by rw [hb]; decide) (by decide) hl (by decide) ho
  have hsend : ∀ {a : Act}, a.Within fabricParts sendKeys → a.Keeps fun s => level s := fun h s =>
    h.fv s HLTH_LEVEL 0 0 (by decide)
  have hnoregs : ∀ {a : Act}, a.Within fabricParts (fun _ => False) → a.Keeps fun s => level s := fun h s =>
    h.fv s HLTH_LEVEL 0 0 id
  have hset : ∀ f : Fld, ∀ v, f.blk = .link → f.off + 0 * f.stride < 4096 → f.hi < 64 → (setF f v l).Keeps fun s => level s :=
    fun f v hb ho hh => keeps_setF f HLTH_LEVEL v l 0 0 0 hh (Or.inl (hlink f 0 hb ho))
  have hcnt : ∀ m, fldKey HLTH_LEVEL 0 0 ≠ fldKey LINK_LDCNT 0 m → (cnt LINK_LDCNT m).Keeps fun s => level s :=
    fun m h => keeps_incF LINK_LDCNT HLTH_LEVEL 1 0 m 0 0 (by decide) (Or.inl h)
  have hlost : ∀ n, (healthNotice (.peerLost n)).Keeps fun s => level s := fun n s => by
    simp (disch := decide) only [level, healthNotice, run_acts_cons, runs_nil, fv_raiseEvt, fv_setF_other, fv_incF_other]
  refine keeps_look _ fun s => keeps_cons _ _ (hset _ _ rfl (by decide) (by decide)) (keeps_cons _ _ (hset _ _ rfl (by decide) (by decide))
    (keeps_cons _ _ (hset _ _ rfl (by decide) (by decide)) (keeps_cons _ _ (keeps_incF LINK_LCNT HLTH_LEVEL 1 l 5 0 0 (by decide)
      (Or.inl (hlink _ _ rfl (by decide)))) (keeps_cons _ _ (hsend (raiseEvt_sendKeys _ _)) (keeps_cons _ _ (hnoregs (by simp [fabricParts]))
        (keeps_cons _ _ (keeps_onlyIf _ _ ?_) (keeps_cons _ _ (keeps_each _ _ fun x => keeps_cons _ _ (hcnt 2 (by decide))
          (keeps_cons _ _ (hsend (refuseMsg_sendKeys _ _)) keeps_nil)) (keeps_cons _ _ (keeps_look _ fun t => keeps_onlyIf _ _ (hlost _))
            (keeps_cons _ _ (keeps_each _ _ fun x => hsend (forwardMsg_sendKeys _ _)) keeps_nil)))))))))
  exact keeps_cons _ _ (hcnt 1 (by decide)) (keeps_cons _ _ (keeps_onlyIf _ _ (hnoregs (by simp [fabricParts, Upd.within]))) keeps_nil)

theorem allLinksDown_level (s : State) : level (allLinksDown.run s) = level s := by
  have hall : ∀ (L : List Nat) (u : State), (∀ l ∈ L, l < 256) → level ((each L linkDownCore).run u) = level u := by
    intro L
    induction L with
    | nil => exact fun _ _ => rfl
    | cons l L ih =>
      intro u hL
      rw [run_each_cons, ih _ fun j hj => hL j (List.mem_cons_of_mem _ hj)]
      exact linkDownCore_level l (hL l List.mem_cons_self) u
  rw [allLinksDown, run_look, hall _ _ fun l hl => linkSite_mem_lt hl]

/-- The level is what its conditions give once it has followed them. -/
theorem reLevel_level (s : State) (h : 3 ≤ s.boot.stage) :
    level (reLevel.run s) = if fb s ENET_LINK_UP then levelOf (limitConds s) else 0 := by
  have hlv : ∀ c, levelOf c < 4 := fun c => by unfold levelOf; split <;> [omega; split <;> omega]
  rw [reLevel, run_look, if_neg (by omega)]
  dsimp only
  generalize hL : (if fb s ENET_LINK_UP = true then levelOf (limitConds s) else 0) = L
  have hL4 : L < 4 := by rw [← hL]; split <;> [exact hlv _; omega]
  rw [level, run_acts_cons, run_acts_cons, runs_nil, fv_onlyIf]
  have hfall : ∀ u, fv (allLinksDown.run u) HLTH_LEVEL = fv u HLTH_LEVEL := allLinksDown_level
  split
  · simp (disch := decide) only [run_acts_cons, runs_nil, fv_onlyIf, runs_look, fv_setF_other, fv_raiseEvt, hfall, fv_setF_eq, ite_self]
    exact Nat.mod_eq_of_lt (by simp only [HLTH_LEVEL]; omega)
  · next hc =>
    rw [fv_setF_other _ HLTH_COND HLTH_LEVEL _ _ _ _ _ (by decide) (Or.inr (by decide))]
    have hc' : L = level s := by simpa using hc
    exact hc'.symm

end Sys2Proof.Machine
end

section
/-! PROOF. Power, resets and reference clocks (R444 to R450). -/

namespace Sys2Proof.Machine

/-! ### Units in service, from state to state -/

/-- The register that says which units are retired. -/
def retReg (k : Nat) : Prop := k / 4096 = blkNum .hlth * 256 ∧ 0x60 ≤ k % 4096 ∧ k % 4096 < 0x80

theorem retReg_fldKey (f : Fld) (n : Nat) (hb : f.blk = .hlth) (hlo : 0x60 ≤ f.off + n * f.stride) (hhi : f.off + n * f.stride < 0x80) :
    retReg (fldKey f 0 n) := by
  unfold retReg fldKey regKey
  rw [hb]
  generalize blkNum .hlth = b
  omega

/-- The units, and which of them are retired, are the same in two states. -/
structure SameService (s t : State) : Prop where
  units : t.units = s.units
  build : t.build = s.build
  regs : ∀ k, retReg k → rdKey t k = rdKey s k

section
variable {s t : State} (h : SameService s t)
include h

theorem SameService.ret (f : Fld) (n : Nat) (hb : f.blk = .hlth) (hlo : 0x60 ≤ f.off + n * f.stride) (hhi : f.off + n * f.stride < 0x80) :
    fv t f 0 n = fv s f 0 n := by
  unfold fv; rw [h.regs _ (retReg_fldKey f n hb hlo hhi)]

theorem SameService.unitRetired (u : UnitId) (hu : ∀ p, u = .tile p → p < 160) : unitRetired t u = unitRetired s u := by
  cases u with
  | tile p =>
    have hp := hu p rfl
    show bit (fv t HLTH_RET_TILE 0 (p / 32)) (p % 32) = bit (fv s HLTH_RET_TILE 0 (p / 32)) (p % 32)
    rw [h.ret HLTH_RET_TILE (p / 32) rfl (by simp only [HLTH_RET_TILE]; omega) (by simp only [HLTH_RET_TILE]; omega)]
  | ue n => exact congrArg (bit · n) (h.ret HLTH_RET_UE 0 rfl (by decide) (by decide))
  | solv e => exact congrArg (bit · e) (h.ret HLTH_RET_SOLV 0 rfl (by decide) (by decide))
  | linkDie n => exact congrArg (bit · n) (h.ret HLTH_RET_LINKDIE 0 rfl (by decide) (by decide))
  | _ => rfl

theorem SameService.unitOk (u : UnitId) (hu : ∀ p, u = .tile p → p < 160) : unitOk t u = unitOk s u := by
  unfold Machine.unitOk; rw [h.unitRetired u hu, h.units]

theorem SameService.unitUp (u : UnitId) (hu : ∀ p, u = .tile p → p < 160) : unitUp t u = unitUp s u := by
  unfold Machine.unitUp; rw [h.unitOk u hu, h.units]

theorem SameService.hbmInService (n : Nat) : hbmInService t n = hbmInService s n := by
  unfold Machine.hbmInService; rw [h.unitUp _ (by simp), h.unitOk _ (by simp), h.build]

theorem SameService.tileHealthy (k : Nat) : tileHealthy t k = tileHealthy s k := by
  have hp : physOf t k = physOf s k := by unfold physOf; rw [h.units]
  unfold Machine.tileHealthy substPending
  rw [hp, h.unitUp _ (fun p hp => by simp only [UnitId.tile.injEq] at hp; exact hp ▸ physOf_lt s k), h.units]

theorem SameService.ownHbm (d : Nat) : ownHbm t d = ownHbm s d := by
  unfold Machine.ownHbm; simp only [h.hbmInService]

theorem SameService.dieInService (d : Nat) : dieInService t d = dieInService s d := by
  unfold Machine.dieInService healthyTiles
  simp only [h.tileHealthy, h.ownHbm]
  rw [h.unitOk _ (by simp), h.unitOk _ (by simp)]

theorem SameService.linkDieInService (n : Nat) : linkDieInService t n = linkDieInService s n := by
  unfold Machine.linkDieInService; rw [h.unitUp _ (by simp), h.unitOk _ (by simp), h.build]

theorem SameService.ueInService (n : Nat) : ueInService t n = ueInService s n := by
  unfold Machine.ueInService; rw [h.unitUp _ (by simp), h.hbmInService]

/-- The conditions that limit the level, but for that of trained links. -/
theorem SameService.limitConds (hr : fv t POWR_REFCLK = fv s POWR_REFCLK) : limitConds t % 32 = limitConds s % 32 := by
  have hd : Machine.dieInService t = Machine.dieInService s := funext h.dieInService
  have hb : Machine.ownHbm t = Machine.ownHbm s := funext h.ownHbm
  have hue : Machine.ueInService t = Machine.ueInService s := funext h.ueInService
  have hl : Machine.linkDieInService t = Machine.linkDieInService s := funext h.linkDieInService
  unfold Machine.limitConds
  simp only [hd, hb, hue, hl, h.build, hr]
  omega

end

/-! ### A register written by its key -/

theorem fv_setKey_other (s : State) (k v : Nat) (g : Fld) (i n : Nat) (h : fldKey g i n ≠ k) : fv ((setKey k v).run s) g i n = fv s g i n :=
  keeps_setKey g k v i n h s

theorem fv_setKey_old (s u : State) (k : Nat) (g : Fld) (i n : Nat) (h : fldKey g i n = k) :
    fv ((setKey k (rdKey s k)).run u) g i n = fv s g i n := by
  subst h
  rw [fv, run_setKey, rdKey_reg_self, Nat.mod_eq_of_lt (rdKey_lt s _)]
  rfl

/-! ### Power lost -/

/-- What a device stop leaves, from what it found once the flush had begun. -/
theorem stopped_restarted (s u : State) (hm : u.mem = s.mem) (hn : u.nv = s.nv)
    (hf : u.flash.refusing = (s.power.pwrGood || s.flash.refusing)) : stopped s u.restarted := by
  refine ⟨rfl, rfl, rfl, hn, hf, fun k => ?_⟩
  show mapGet memDefault (u.mem.filter fun x => isFlashKey x.1) k = _
  rw [mapGet_filter, hm]
  by_cases hk : isFlashKey k = true
  · rw [if_pos hk, if_pos hk]
  · rw [if_neg hk, if_neg hk]; rfl

/-- The state in which the rails have gone off, before the parts of the device are as after a reset. -/
def railsOff (s : State) : State :=
  { s with
    flash := { s.flash with refusing := s.power.pwrGood || s.flash.refusing }
    power := { s.power with pwrGood := false } }

theorem powerLost_run (s : State) : powerLost.run s = (railsOff s).restarted := by
  rw [powerLost, run_look, run_acts_cons, run_acts_cons, run_acts_cons, runs_nil]
  cases h : s.power.pwrGood
  · have hs : railsOff s = { s with power := { s.power with pwrGood := false } } := by unfold railsOff; rw [h]; rfl
    rw [hs]; rfl
  · have hs : railsOff s = { s with
        flash := { s.flash with refusing := true }
        power := { s.power with pwrGood := false } } := by unfold railsOff; rw [h]; rfl
    rw [hs]; rfl

theorem stopped_powerLost (s u : State) (hm : u.mem = s.mem) (hn : u.nv = s.nv) (hf : u.flash = s.flash)
    (hp : u.power.pwrGood = s.power.pwrGood) : stopped s (powerLost.run u) := by
  rw [powerLost_run]
  refine stopped_restarted s (railsOff u) hm hn ?_
  show (u.power.pwrGood || u.flash.refusing) = _
  rw [hp, hf]

/-- Registers alone written after a stop, the device is stopped still. -/
theorem Act.Within.stopped {ks : Nat → Prop} {a : Act} (h : a.Within [] ks) {s u : State} (hs : stopped s u) : stopped s (a.run u) := by
  obtain ⟨hboot, hpress, hunits, hnv, hflash, hmem⟩ := hs
  refine ⟨(h.same .boot (by decide) u).trans hboot, (h.same .press (by decide) u).trans hpress, (h.same .units (by decide) u).trans hunits,
    (h.same .nv (by decide) u).trans hnv, (congrArg (·.refusing) (h.same .flash (by decide) u)).trans hflash, fun k => ?_⟩
  rw [show (a.run u).mem = u.mem from h.same .mem (by decide) u, hmem k]

/-! ### Rows of the rails -/

theorem pwrEnRise_row (s : State) : exec .pwrEnRise s = .next (if !s.power.trip && !s.power.overvolt && !s.power.pwrGood then { s with
    power := { s.power with
      pwrEn := true
      pwrGood := true } } else s) := by
  show Host.Outcome.next (pwrEnRise.run s) = _
  rw [pwrEnRise, run_look, run_onlyIf]
  rfl

theorem pwrEnFall_row (s : State) : ∃ t, exec .pwrEnFall s = .next t ∧ stopped s t ∧ t.power.pwrEn = false ∧ t.power.pwrGood = false ∧
    t.power.trip = false ∧ t.power.overvolt = false := by
  refine ⟨_, rfl, ?_⟩
  rw [pwrEnFall, run_acts_cons, run_acts_cons, runs_nil]
  refine ⟨stopped_powerLost s _ rfl rfl rfl rfl, ?_⟩
  rw [powerLost_run]
  exact ⟨rfl, rfl, rfl, rfl⟩

theorem deviceStop_run (s : State) : deviceStop.run s = ({ s with flash := { s.flash with refusing := true } } : State).restarted := by
  rw [deviceStop, run_acts_cons, run_acts_cons, runs_nil]
  rfl

theorem resetAssert_row (s : State) (us : Nat) :
    (100 ≤ us → s.power.pwrGood = true → ∃ t, exec (.resetAssert us) s = .next t ∧ stopped s t ∧ t.power.resetN = false ∧
      t.power.pwrGood = true ∧ t.power.trip = s.power.trip) ∧
    (us < 100 ∨ s.power.pwrGood = false → exec (.resetAssert us) s = .next s) := by
  have hrun : exec (.resetAssert us) s = .next ((resetAssert us).run s) := rfl
  rw [hrun, resetAssert, run_look]
  refine ⟨fun hu hp => ⟨_, rfl, ?_⟩, fun h => ?_⟩
  · rw [run_onlyIf_of_true _ _ (by simp [hu, hp]), run_acts_cons, run_acts_cons, runs_nil, deviceStop_run]
    exact ⟨stopped_restarted s _ rfl rfl (by rw [hp]; rfl), rfl, hp, rfl⟩
  · rw [run_onlyIf_of_false]
    rcases h with h | h
    · simp [show ¬ 100 ≤ us by omega]
    · simp [h]

/-- The rows that lose power where a condition holds. -/
theorem powerLost_if (s : State) (c : Bool) :
    (c = true → stopped s ((onlyIf c powerLost).run s) ∧ ((onlyIf c powerLost).run s).power.pwrGood = false) ∧
    (c = false → (onlyIf c powerLost).run s = s) := by
  refine ⟨?_, fun h => run_onlyIf_of_false _ _ h⟩
  rintro rfl
  rw [runs_true]
  exact ⟨stopped_powerLost s s rfl rfl rfl rfl, by rw [powerLost_run]; rfl⟩

theorem overvoltage_row (s : State) (mv us : Nat) :
    (60000 < mv → 2 ≤ us → s.power.pwrGood = true → ∃ t, exec (.overvoltage mv us) s = .next t ∧ stopped s t ∧
      t.power.pwrGood = false ∧ t.power.overvolt = true) ∧
    (mv ≤ 60000 ∨ us < 2 ∨ s.power.pwrGood = false → exec (.overvoltage mv us) s = .next s) := by
  have hrun : exec (.overvoltage mv us) s = .next ((overvoltage mv us).run s) := rfl
  rw [hrun, overvoltage, run_look]
  refine ⟨fun hm hu hp => ⟨_, rfl, ?_⟩, fun h => ?_⟩
  · rw [run_onlyIf_of_true _ _ (by simp [hm, hu, hp]), run_acts_cons, run_acts_cons, runs_nil]
    refine ⟨stopped_powerLost s _ rfl rfl rfl rfl, ?_⟩
    rw [powerLost_run]
    exact ⟨rfl, rfl⟩
  · rw [run_onlyIf_of_false]
    rcases h with h | h | h
    · simp [show ¬ 60000 < mv by omega]
    · simp [show ¬ 2 ≤ us by omega]
    · rw [h, Bool.and_false]

theorem inputLost_row (s : State) (mv us : Nat) :
    (mv < 44000 → 2 ≤ us → s.power.pwrGood = true → ∃ t, exec (.inputLost mv us) s = .next t ∧ stopped s t ∧
      t.power.pwrGood = false) ∧
    (44000 ≤ mv ∨ us < 2 ∨ s.power.pwrGood = false → exec (.inputLost mv us) s = .next s) := by
  have hrun : exec (.inputLost mv us) s = .next ((inputLost mv us).run s) := rfl
  rw [hrun, inputLost, run_look]
  obtain ⟨h1, h2⟩ := powerLost_if s (decide (mv < 44000) && decide (2 ≤ us) && s.power.pwrGood)
  refine ⟨fun hm hu hp => ⟨_, rfl, h1 (by simp [hm, hu, hp])⟩, fun h => congrArg _ (h2 ?_)⟩
  rcases h with h | h | h
  · simp [show ¬ mv < 44000 by omega]
  · simp [show ¬ 2 ≤ us by omega]
  · rw [h, Bool.and_false]

theorem toleranceExpiry_row (s : State) (mv us : Nat) :
    ((44000 ≤ mv ∧ mv < 48000 ∨ 56000 < mv ∧ mv ≤ 60000) → 1000 < us → s.power.pwrGood = true →
      ∃ t, exec (.inputToleranceExpiry mv us) s = .next t ∧ stopped s t ∧ t.power.pwrGood = false) ∧
    (mv < 44000 ∨ 48000 ≤ mv ∧ mv ≤ 56000 ∨ 60000 < mv ∨ us ≤ 1000 ∨ s.power.pwrGood = false → exec (.inputToleranceExpiry mv us) s = .next s) := by
  have hrun : exec (.inputToleranceExpiry mv us) s = .next ((toleranceExpiry mv us).run s) := rfl
  rw [hrun, toleranceExpiry, run_look]
  obtain ⟨h1, h2⟩ := powerLost_if s (((decide (44000 ≤ mv) && decide (mv < 48000)) || (decide (56000 < mv) && decide (mv ≤ 60000))) &&
    decide (1000 < us) && s.power.pwrGood)
  refine ⟨fun hm hu hp => ⟨_, rfl, h1 (by simpa [hu, hp] using hm)⟩, fun h => congrArg _ (h2 (Bool.eq_false_iff.2 fun hc => ?_))⟩
  simp only [Bool.and_eq_true, Bool.or_eq_true, decide_eq_true_eq] at hc
  rcases h with h | h | h | h | h
  iterate 4 omega
  · rw [h] at hc; exact absurd hc.2 (by decide)

theorem thermalTrip_row (s : State) (k : Nat) (x : Int) :
    (∀ y, tripAt s.build k = some y → y ≤ x → s.power.pwrGood = true → ∃ t, exec (.thermalTrip k x) s = .next t ∧ stopped s t ∧
      t.power.trip = true ∧ t.power.pwrGood = false ∧ faultN t = some false ∧ thermTripN t = some false ∧ level t = 0 ∧
      fv t POWR_T_MAX = fv s POWR_T_MAX ∧ fv t POWR_P_AVG = fv s POWR_P_AVG) ∧
    ((∀ y, tripAt s.build k = some y → x < y) ∨ s.power.pwrGood = false → exec (.thermalTrip k x) s = .next s) := by
  have hrun : exec (.thermalTrip k x) s = .next ((thermalTrip k x).run s) := rfl
  rw [hrun, thermalTrip, run_look]
  refine ⟨fun y hy hle hp => ⟨_, rfl, ?_⟩, fun h => ?_⟩
  · rw [run_onlyIf_of_true _ _ (by simp [hp, hy, hle])]
    rw [run_acts_cons, run_acts_cons]
    generalize hu : powerLost.run ((updPower fun p => { p with trip := true }).run s) = u
    have hst : stopped s u := hu ▸ stopped_powerLost s _ rfl rfl rfl rfl
    have htrip : u.power.trip = true := by rw [← hu, powerLost_run]; rfl
    have hgood : u.power.pwrGood = false := by rw [← hu, powerLost_run]; rfl
    have hw : (acts [each tripKeeps fun o => setKey (regKey .powr 0 o) (rdKey s (regKey .powr 0 o)), setF HLTH_LEVEL 0]).Within []
        fun _ => True := by simp
    have hpow := hw.same .power (by decide) u
    generalize ht : (acts [each tripKeeps fun o => setKey (regKey .powr 0 o) (rdKey s (regKey .powr 0 o)), setF HLTH_LEVEL 0]).run u = t at hpow ⊢
    have htrip' : t.power.trip = true := (congrArg (·.trip) hpow).trans htrip
    refine ⟨ht ▸ hw.stopped hst, htrip', (congrArg (·.pwrGood) hpow).trans hgood, by rw [faultN, if_pos htrip'],
      by rw [thermTripN, if_pos htrip'], ?_⟩
    rw [← ht]
    simp only [tripKeeps, run_acts_cons, runs_nil, run_each_cons, runs_each_nil]
    refine ⟨fv_setF_eq _ HLTH_LEVEL 0 0 0 (by decide) (by decide), ?_, ?_⟩
    · rw [fv_setF_other _ HLTH_LEVEL POWR_T_MAX _ _ _ _ _ (by decide) (Or.inl (by decide)),
        fv_setKey_other _ _ _ POWR_T_MAX _ _ (by decide)]
      exact fv_setKey_old s _ _ POWR_T_MAX 0 0 (by decide)
    · rw [fv_setF_other _ HLTH_LEVEL POWR_P_AVG _ _ _ _ _ (by decide) (Or.inl (by decide)),
        fv_setKey_other _ _ _ POWR_P_AVG _ _ (by decide), fv_setKey_other _ _ _ POWR_P_AVG _ _ (by decide),
        fv_setKey_other _ _ _ POWR_P_AVG _ _ (by decide)]
      exact fv_setKey_old s _ _ POWR_P_AVG 0 0 (by decide)
  · rw [run_onlyIf_of_false]
    rcases h with h | h
    · rw [Bool.and_eq_false_iff]
      right
      cases hk : tripAt s.build k with
      | none => rfl
      | some y => simpa using h y hk
    · rw [h]; rfl

/-! ### Reference clocks -/

/-- A register of POWR, above its header, is no concern of a link's fall or of what follows a change of units. -/
theorem not_fallKeys_powr (f : Fld) (n : Nat) (hb : f.blk = .powr) (hlo : 0x40 ≤ f.off + n * f.stride) (hhi : f.off + n * f.stride < 4096) :
    ¬ fallKeys (fldKey f 0 n) := not_hdrOr_fldKey f 0 n (by rw [hb]; decide) (by decide) hlo hhi

/-- The links that train are down. -/
def trainingDown (s : State) : Act := each (rangeF (nLinks s.build) fun l => linkState s l == 1) fun l => setF LINK_LSTATE 3 l

theorem trainingDown_within (s : State) : (trainingDown s).Within fabricParts fallKeys := by
  simp only [trainingDown, only_each_iff, within_setF]
  exact fun l hl => fallKeys_link _ _ _ rfl (linkSite_mem_lt hl) (by decide)

theorem setF_lstate_other (u : State) (l j v : Nat) (h : l ≠ j) : linkState ((setF LINK_LSTATE v j).run u) l = linkState u l :=
  fv_setF_other u LINK_LSTATE LINK_LSTATE v j 0 l 0 (by decide) (Or.inl (by unfold fldKey regKey; omega))

theorem each_lstate (u : State) (L : List Nat) (l : Nat) :
    linkState ((each L fun j => setF LINK_LSTATE 3 j).run u) l = if l ∈ L then 3 else linkState u l := by
  induction L generalizing u with
  | nil => rfl
  | cons j L ih =>
    rw [run_each_cons, ih]
    by_cases hj : l = j
    · subst hj
      rw [if_pos List.mem_cons_self, show linkState ((setF LINK_LSTATE 3 l).run u) l = 3 from
        fv_setF_eq u LINK_LSTATE 3 l 0 (by decide) (by decide), ite_self]
    · simp only [setF_lstate_other u l j 3 hj, List.mem_cons, hj, false_or]

theorem run_congr_setF (s : State) (f : Fld) (v : Nat) (l : Nat) (hb : f.blk = .powr) (ho : f.off + 0 * f.stride < 4096) (hl : l < 256) :
    linkState ((setF f v).run s) l = linkState s l :=
  ((within_setF (ps := []) (ks := (· = fldKey f 0 0)) f v 0 0).2 rfl).fv s LINK_LSTATE l 0
    (fldKey_ne_blk _ _ _ _ _ _ (by rw [hb]; decide) hl (by decide) (by decide) ho)

theorem linkState_incF_powr (s : State) (n l : Nat) (hn : n < 64) (hl : l < 256) : linkState ((cnt POWR_PCNT n).run s) l = linkState s l :=
  fv_incF_other s POWR_PCNT LINK_LSTATE 1 0 n l 0 (by decide)
    (Or.inl (fldKey_ne_blk _ _ _ _ _ _ (by decide) hl (by decide) (by decide) (by simp only [POWR_PCNT]; omega)))

/-- Without the fabric's reference clock the level is 2 at most. -/
theorem level_of_no_refclk (s : State) (h : bit (fv s POWR_REFCLK) 1 = false) : levelOf (limitConds s) ≤ 2 := by
  have hc : limitConds s ≠ 0 := by
    unfold limitConds
    rw [h]
    simp only [Bool.not_false, b2n, if_true]
    omega
  unfold levelOf
  rw [if_pos hc]
  split <;> omega

/-- What the loss of the fabric's reference clock changes of links. -/
def fabricLost (s : State) : Act := acts [setF POWR_REFCLK (fv s POWR_REFCLK % 2), allLinksDown, trainingDown s]

theorem fabLoss_run (s : State) (hl : s.boot.live = true) (hr : bit (fv s POWR_REFCLK) 1 = true) :
    fabLoss.run s = (raiseEvt powrPg (2 ^ 19)).run ((cnt POWR_PCNT 3).run ((unitsFollow s).run ((fabricLost s).run s))) := by
  rw [fabLoss, run_look, run_onlyIf_of_true _ _ (by simp [hl, hr]), run_acts_cons, run_acts_cons, run_acts_cons, runs_nil, withUnits_run]
  rfl

theorem fabricLost_state (s : State) (l : Nat) (hl : l < nLinks s.build) (h : linkState s l = 1 ∨ linkState s l = 2) :
    linkState ((fabricLost s).run s) l = 3 := by
  have hl' : l < 256 := hl.trans (nLinks_lt _)
  rw [fabricLost, run_acts_cons, run_acts_cons, run_acts_cons, runs_nil, trainingDown, each_lstate,
    allLinksDown_state _ _ (show l < nLinks ((setF POWR_REFCLK _).run s).build from hl), run_congr_setF _ _ _ _ rfl (by decide) hl']
  rcases h with h | h
  · exact if_pos (List.mem_filter.2 ⟨List.mem_range.2 hl, by rw [h]; rfl⟩)
  · rw [h, if_pos rfl, ite_self]

theorem fabricLost_powr (s : State) : fv ((fabricLost s).run s) POWR_REFCLK = fv s POWR_REFCLK % 2 ∧
    fv ((fabricLost s).run s) POWR_PCNT 0 3 = fv s POWR_PCNT 0 3 ∧ ((fabricLost s).run s).boot = s.boot := by
  rw [fabricLost, run_acts_cons, run_acts_cons, run_acts_cons, runs_nil]
  have hk := not_fallKeys_powr
  refine ⟨?_, ?_, ?_⟩
  · rw [(trainingDown_within s).fv _ POWR_REFCLK 0 0 (hk _ _ rfl (by decide) (by decide)),
      allLinksDown_within.fv _ POWR_REFCLK 0 0 (hk _ _ rfl (by decide) (by decide)), fv_setF_eq _ _ _ _ _ (by decide) (by decide)]
    exact Nat.mod_eq_of_lt (by simp only [POWR_REFCLK]; omega)
  · rw [(trainingDown_within s).fv _ POWR_PCNT 0 3 (hk _ _ rfl (by decide) (by decide)),
      allLinksDown_within.fv _ POWR_PCNT 0 3 (hk _ _ rfl (by decide) (by decide)),
      fv_setF_other _ POWR_REFCLK POWR_PCNT _ _ _ _ _ (by decide) (Or.inl (by decide))]
  · exact ((trainingDown_within s).same .boot (by decide) _).trans (allLinksDown_within.same .boot (by decide) _)

theorem unitsFollow_level (u s : State) (h : 3 ≤ s.boot.stage) (hr : bit (fv s POWR_REFCLK) 1 = false) :
    level ((unitsFollow u).run s) ≤ 2 := by
  rw [unitsFollow, run_acts_cons, run_acts_cons, runs_nil, runs_look]
  generalize hL : ((unitPages u.build).filter fun p => pageRetired s p && !pageRetired u p) = L
  have hw : (each L fun p => raiseEvt p evRetire).Within fabricParts fallKeys := by
    simp only [only_each_iff]
    exact fun _ _ => raiseEvt_hdrOr _ _ (by decide) (by decide) (by decide)
  rw [reLevel_level _ (by rw [show _ = s.boot from hw.same .boot (by decide) s]; exact h)]
  split
  · refine level_of_no_refclk _ ?_
    rw [hw.fv s POWR_REFCLK 0 0 (not_fallKeys_powr _ _ rfl (by decide) (by decide))]
    exact hr
  · omega

theorem fabLoss_row (s : State) (hlive : s.boot.live = true) (hr : bit (fv s POWR_REFCLK) 1 = true) :
    ∃ t, exec .fabRefclkLoss s = .next t ∧ bit (fv t POWR_REFCLK) 1 = false ∧ counted s t POWR_PCNT 0 3 1 ∧ pending t powrPg 19 ∧
      (3 ≤ s.boot.stage → level t ≤ 2) ∧
      ∀ l, l < nLinks s.build → linkState s l = 1 ∨ linkState s l = 2 → linkState t l = 3 := by
  obtain ⟨href, hpcnt, hboot⟩ := fabricLost_powr s
  have hst := fabricLost_state s
  have hbit : bit (fv s POWR_REFCLK % 2) 1 = false :=
    Nat.testBit_eq_false_of_lt (Nat.mod_lt _ (by decide))
  refine ⟨_, congrArg Host.Outcome.next (fabLoss_run s hlive hr), ?_, ?_, pending_raiseEvt _ _ _ _ (by decide) (by decide), fun h3 => ?_,
    fun l hl h => ?_⟩
  · rw [fv_raiseEvt _ _ _ _ _ _ (by decide) (by decide), cnt, fv_incF_other _ POWR_PCNT POWR_REFCLK _ _ _ _ _ (by decide) (Or.inl (by decide)),
      (unitsFollow_within s).fv _ POWR_REFCLK 0 0 (not_fallKeys_powr _ _ rfl (by decide) (by decide)), href]
    exact hbit
  · rw [counted, fv_raiseEvt _ _ _ _ _ _ (by decide) (by decide), cnt, fv_incF_word _ _ _ _ rfl rfl,
      (unitsFollow_within s).fv _ POWR_PCNT 0 3 (not_fallKeys_powr _ _ rfl (by decide) (by decide)), hpcnt]
  · have := unitsFollow_level s ((fabricLost s).run s) (by rw [hboot]; exact h3) (by rw [href]; exact hbit)
    rwa [level, fv_raiseEvt _ _ _ _ _ _ (by decide) (by decide), cnt,
      fv_incF_other _ POWR_PCNT HLTH_LEVEL _ _ _ _ _ (by decide) (Or.inl (by decide))]
  · have hl' : l < 256 := hl.trans (nLinks_lt _)
    rw [linkState, linkReg_raiseEvt _ _ _ _ _ _ linkReg_lstate hl']
    refine (linkState_incF_powr _ 3 l (by decide) hl').trans ?_
    rw [linkState, unitsFollow_other _ _ _ _ _ linkReg_lstate hl' (by rw [hst l hl h]; decide)]
    exact hst l hl h

theorem ethLoss_row (s : State) :
    (s.boot.live = true → ∃ t, exec .ethRefclkLoss s = .next t ∧ t.power.ethLost = true ∧ t.boot = State.reset.boot ∧
      t.flash.refusing = true ∧ t.nv = s.nv) ∧
    (s.boot.live = false → exec .ethRefclkLoss s = .next s) := by
  have hrun : exec .ethRefclkLoss s = .next (ethLoss.run s) := rfl
  rw [hrun, ethLoss, run_look]
  refine ⟨fun h => ⟨_, rfl, ?_⟩, fun h => congrArg _ (run_onlyIf_of_false _ _ h)⟩
  rw [run_onlyIf_of_true _ _ h, run_acts_cons, run_acts_cons, runs_nil, deviceStop_run]
  exact ⟨rfl, rfl, rfl, rfl⟩

/-! ### Training again -/

theorem mayTrain_congr {s t : State} (h : SameService s t) (l : Nat) (hd : fb t LINK_LDISABLE l = fb s LINK_LDISABLE l)
    (hst : linkState t l = 5 ↔ linkState s l = 5) (hr : fv t POWR_REFCLK = fv s POWR_REFCLK) : mayTrain t l = mayTrain s l := by
  unfold mayTrain
  rw [h.linkDieInService, h.build, hd, h.limitConds hr]
  have : (linkState t l != 5) = (linkState s l != 5) := by rw [Bool.eq_iff_iff]; simp [hst]
  rw [this]

/-- Setting a link's state leaves the units as they are. -/
theorem sameService_lstate (s : State) (v l : Nat) (hl : l < 256) : SameService s ((setF LINK_LSTATE v l).run s) := by
  refine ⟨rfl, rfl, fun k hk => ?_⟩
  refine ((within_setF (ps := []) (ks := (· = fldKey LINK_LSTATE l 0)) LINK_LSTATE v l 0).2 rfl).rdKey s k ?_
  rintro rfl
  obtain ⟨h1, -⟩ := fldKey_parts LINK_LSTATE l 0 hl (by decide)
  obtain ⟨h2, -, -⟩ := hk
  rw [h2, Nat.mul_div_cancel _ (by decide)] at h1
  exact absurd h1 (by decide)

/-- A link that is DOWN trains where it may; the others, and whether a link may train, stay as they are. -/
theorem linkAuto_state (s : State) (j l : Nat) (hj : j < 256) :
    linkState ((linkAuto j).run s) l = (if l = j ∧ linkState s l = 3 ∧ mayTrain s l = true then 1 else linkState s l) ∧
      mayTrain ((linkAuto j).run s) l = mayTrain s l := by
  rw [linkAuto, run_look]
  by_cases h : linkState s j = 3 ∧ mayTrain s j = true
  · rw [run_onlyIf_of_true _ _ (by simp [h])]
    have hself : linkState ((setF LINK_LSTATE 1 j).run s) j = 1 := fv_setF_eq s LINK_LSTATE 1 j 0 (by decide) (by decide)
    constructor
    · by_cases hl : l = j
      · subst hl; rw [if_pos ⟨rfl, h⟩]; exact hself
      · rw [if_neg (fun hc => hl hc.1)]; exact setF_lstate_other s l j 1 hl
    · refine mayTrain_congr (sameService_lstate s 1 j hj) l ?_ ?_ ?_
      · refine fb_setF_other s LINK_LSTATE LINK_LDISABLE 1 j 0 l 0 (by decide) (Or.inl ?_)
        unfold fldKey regKey LINK_LSTATE LINK_LDISABLE
        simp only
        omega
      · by_cases hl : l = j
        · subst hl; rw [hself, h.1]; decide
        · rw [setF_lstate_other s l j 1 hl]
      · exact fv_setF_other s LINK_LSTATE POWR_REFCLK 1 j 0 0 0 (by decide)
          (Or.inl (fldKey_ne_blk _ _ _ _ _ _ (by decide) (by decide) hj (by decide) (by decide)))
  · have hrun : (onlyIf (linkState s j == 3 && mayTrain s j) (setF LINK_LSTATE 1 j)).run s = s :=
      run_onlyIf_of_false _ _ (Bool.eq_false_iff.2 fun hc => h (by simpa using hc))
    rw [hrun]
    exact ⟨(if_neg (by rintro ⟨rfl, hc⟩; exact h hc)).symm, rfl⟩

theorem each_linkAuto (s : State) (L : List Nat) (l : Nat) (hL : ∀ j ∈ L, j < 256) (hs : linkState s l = 3) :
    linkState ((each L linkAuto).run s) l = (if l ∈ L ∧ mayTrain s l = true then 1 else 3) ∧
      mayTrain ((each L linkAuto).run s) l = mayTrain s l := by
  have hone : ∀ (L : List Nat) (u : State), (∀ j ∈ L, j < 256) → linkState u l ≠ 3 →
      linkState ((each L linkAuto).run u) l = linkState u l ∧ mayTrain ((each L linkAuto).run u) l = mayTrain u l := by
    intro L
    induction L with
    | nil => exact fun _ _ _ => ⟨rfl, rfl⟩
    | cons j L ih =>
      intro u hL hu
      obtain ⟨h1, h2⟩ := linkAuto_state u j l (hL j List.mem_cons_self)
      rw [if_neg (fun hc => hu hc.2.1)] at h1
      obtain ⟨h3, h4⟩ := ih _ (fun i hi => hL i (List.mem_cons_of_mem _ hi)) (h1 ▸ hu)
      rw [run_each_cons]
      exact ⟨h3.trans h1, h4.trans h2⟩
  induction L generalizing s with
  | nil => exact ⟨by rw [if_neg (by simp)]; exact hs, rfl⟩
  | cons j L ih =>
    have hL' : ∀ i ∈ L, i < 256 := fun i hi => hL i (List.mem_cons_of_mem _ hi)
    obtain ⟨h1, h2⟩ := linkAuto_state s j l (hL j List.mem_cons_self)
    rw [run_each_cons]
    by_cases hc : l = j ∧ mayTrain s l = true
    · rw [if_pos ⟨hc.1, hs, hc.2⟩] at h1
      obtain ⟨h3, h4⟩ := hone L _ hL' (by rw [h1]; decide)
      rw [if_pos ⟨hc.1 ▸ List.mem_cons_self, hc.2⟩]
      exact ⟨h3.trans h1, h4.trans h2⟩
    · rw [if_neg (fun h => hc ⟨h.1, h.2.2⟩), hs] at h1
      obtain ⟨h3, h4⟩ := ih _ hL' h1
      rw [h3, h4, h2]
      refine ⟨?_, rfl⟩
      by_cases hm : mayTrain s l = true
      · have hne : l ≠ j := fun h => hc ⟨h, hm⟩
        simp [hm, hne]
      · simp [hm]

theorem refclkRestore_run (s : State) (hl : s.boot.live = true) (hr : bit (fv s POWR_REFCLK) 1 = false) :
    (refclkRestore true).run s = (each (List.range (nLinks s.build)) linkAuto).run ((raiseEvt powrPg (2 ^ 19)).run
      ((unitsFollow s).run ((setF POWR_REFCLK (fv s POWR_REFCLK % 2 + 2)).run s))) := by
  rw [refclkRestore, run_look, if_pos rfl, run_onlyIf_of_true _ _ (by simp [hl, hr]), run_acts_cons, run_acts_cons, run_acts_cons, runs_nil,
    withUnits_run]

theorem linkAuto_within (L : List Nat) (hL : ∀ j ∈ L, j < 256) : (each L linkAuto).Within [] fun k => k / 4096 / 256 = blkNum .link ∧ k % 4096 = 0x100 := by
  simp only [only_each_iff, linkAuto, only_look_iff, only_onlyIf_iff, within_setF]
  exact fun j hj s _ => fldKey_parts LINK_LSTATE j 0 (hL j hj) (by decide)

theorem refclkRestore_row (s : State) (hlive : s.boot.live = true) (hr : bit (fv s POWR_REFCLK) 1 = false) :
    ∃ t, exec (.refclkRestore true) s = .next t ∧ bit (fv t POWR_REFCLK) 1 = true ∧ pending t powrPg 19 ∧
      ∀ l, l < nLinks s.build → linkState s l = 3 → linkState t l = if mayTrain t l then 1 else 3 := by
  refine ⟨_, congrArg Host.Outcome.next (refclkRestore_run s hlive hr), ?_⟩
  generalize hu : (unitsFollow s).run ((setF POWR_REFCLK (fv s POWR_REFCLK % 2 + 2)).run s) = u
  have hL : ∀ j ∈ List.range (nLinks s.build), j < 256 := fun j hj => (List.mem_range.1 hj).trans (nLinks_lt _)
  have hw := linkAuto_within _ hL
  have href : fv u POWR_REFCLK = fv s POWR_REFCLK % 2 + 2 := by
    rw [← hu, (unitsFollow_within s).fv _ POWR_REFCLK 0 0 (not_fallKeys_powr _ _ rfl (by decide) (by decide)),
      fv_setF_eq _ _ _ _ _ (by decide) (by decide)]
    exact Nat.mod_eq_of_lt (by simp only [POWR_REFCLK]; omega)
  refine ⟨?_, ?_, fun l hl hs => ?_⟩
  · rw [hw.fv _ POWR_REFCLK 0 0 (by decide), fv_raiseEvt _ _ _ _ _ _ (by decide) (by decide), href]
    rcases Nat.mod_two_eq_zero_or_one (fv s POWR_REFCLK) with h | h <;> rw [h] <;> decide
  · exact pending_of_within hw (fun k hk => by rw [hk.2]; decide) powrPg 19 _ (pending_raiseEvt _ _ _ _ (by decide) (by decide))
  · have hl' : l < 256 := hl.trans (nLinks_lt _)
    have h3 : linkState ((raiseEvt powrPg (2 ^ 19)).run u) l = 3 := by
      rw [linkState, linkReg_raiseEvt _ _ _ _ _ _ linkReg_lstate hl', ← hu]
      have h1 : linkState ((setF POWR_REFCLK (fv s POWR_REFCLK % 2 + 2)).run s) l = 3 := (run_congr_setF _ _ _ _ rfl (by decide) hl').trans hs
      rw [unitsFollow_other _ _ _ _ _ linkReg_lstate hl' (by rw [h1]; decide)]
      exact h1
    obtain ⟨h4, h5⟩ := each_linkAuto _ _ l hL h3
    rw [h4, h5]
    simp [hl]

/-- Settles O58. -/
theorem powerComesAndGoes : Obligations.PowerComesAndGoes := by
  unfold Obligations.PowerComesAndGoes
  refine ⟨pwrEnRise_row, pwrEnFall_row, resetAssert_row, fun s mv us => ?_, thermalTrip_row, fun s => ?_, fun s reg => ?_⟩
  · obtain ⟨h1, h2⟩ := overvoltage_row s mv us
    obtain ⟨h3, h4⟩ := inputLost_row s mv us
    obtain ⟨h5, h6⟩ := toleranceExpiry_row s mv us
    exact ⟨h1, h2, h3, h4, h5, h6⟩
  · obtain ⟨h1, h2⟩ := ethLoss_row s
    refine ⟨fabLoss_row s, fun h => ?_, h1, h2, refclkRestore_row s, fun h => ?_, ?_⟩
    · show Host.Outcome.next (fabLoss.run s) = _
      rw [fabLoss, run_look, run_onlyIf_of_false]
      rcases h with h | h <;> simp [h]
    · show Host.Outcome.next ((refclkRestore true).run s) = _
      rw [refclkRestore, run_look, if_pos rfl, run_onlyIf_of_false]
      rcases h with h | h <;> simp [h]
    · rfl
  · show Host.Outcome.next ((i3cRead reg).run s) = _
    rw [i3cRead, run_look, run_onlyIf]
    rfl

end Sys2Proof.Machine
end

section
/-! PROOF. Lane retrains (R361). -/

namespace Sys2Proof.Machine

/-! ### The state of a link -/

@[simp] theorem linkSt_updLink (s : State) (i : Nat) (f : LinkSt → LinkSt) : linkSt ((updLink i f).run s) i = f (linkSt s i) :=
  mapGet_mapSet_self linkDefault s.links i _

theorem linkSt_updLink_ne (s : State) (i j : Nat) (f : LinkSt → LinkSt) (h : j ≠ i) : linkSt ((updLink i f).run s) j = linkSt s j :=
  mapGet_mapSet_ne linkDefault s.links i _ j h

theorem linkSt_congr {s t : State} (h : t.links = s.links) (l : Nat) : linkSt t l = linkSt s l := by unfold linkSt; rw [h]

theorem linkSt_emit (s : State) (m : OutMsg) (i : Nat) : linkSt ((emit m).run s) i = linkSt s i := (rfl)

theorem fv_updLink (s : State) (i : Nat) (f : LinkSt → LinkSt) (g : Fld) (j n : Nat) : fv ((updLink i f).run s) g j n = fv s g j n := (rfl)

theorem pending_updLink (i : Nat) (f : LinkSt → LinkSt) (q : PageRef) (k : Nat) : (updLink i f).Stable fun s => pending s q k :=
  pending_of_noRegs q k (ps := fabricParts) (by simp [fabricParts])

/-! ### Registers of one link -/

/-- Two registers of a link's own page. -/
theorem link_ne (f g : Fld) (i n m : Nat) (hf : f.blk = .link) (hg : g.blk = .link) (ho : f.off + n * f.stride ≠ g.off + m * g.stride) :
    fldKey f i n ≠ fldKey g i m := fldKey_ne_off f g i n m (hf.trans hg.symm) ho

/-! ### A link's fall, for the one that falls -/

theorem linkDown_run (s : State) (l : Nat) (h : linkState s l = 2) : (linkDown l).run s = reLevel.run ((linkDownCore l).run s) := by
  rw [linkDown, run_look, run_onlyIf_of_true _ _ (by rw [h]; rfl), run_acts_cons, run_acts_cons, runs_nil]

theorem linkDown_of_not_up (s : State) (l : Nat) (h : linkState s l ≠ 2) : (linkDown l).run s = s := by
  rw [linkDown, run_look, run_onlyIf_of_false _ _ (by simpa using h)]

/-- A field of a link's state register, when it falls: STATE, LANES and RETRAINING change, the others stay. -/
theorem linkDownCore_reg (s : State) (l : Nat) (hl : l < 256) (f : Fld) (n : Nat) (hf : LinkReg f n) (ho : f.off + n * f.stride = 0x100) :
    fv ((linkDownCore l).run s) f l n = fv (linkFallen s l) f l n := by
  rw [linkDownCore_run, linkFall_fv _ _ _ _ _ _ _ hf hl (Or.inr (by rw [ho]; decide))]

theorem linkDown_reg (s : State) (l : Nat) (hl : l < 256) (h : linkState s l = 2) (f : Fld) (n : Nat) (hf : LinkReg f n)
    (ho : f.off + n * f.stride = 0x100) : fv ((linkDown l).run s) f l n = fv (linkFallen s l) f l n := by
  rw [linkDown_run s l h, reLevel_other _ _ _ _ hf hl (by rw [linkDownCore_state s l hl]; decide), linkDownCore_reg s l hl f n hf ho]

theorem linkDown_state (s : State) (l : Nat) (hl : l < 256) : linkState ((linkDown l).run s) l = if linkState s l = 2 then 3 else linkState s l := by
  by_cases h : linkState s l = 2
  · rw [if_pos h, linkState, linkDown_run s l h, reLevel_other _ _ _ _ linkReg_lstate hl (by rw [linkDownCore_state s l hl]; decide)]
    exact linkDownCore_state s l hl
  · rw [if_neg h, linkDown_of_not_up s l h]

theorem pending_linkDown (l : Nat) (q : PageRef) (i : Nat) : (linkDown l).Stable fun s => pending s q i :=
  stable_look fun _ => stable_onlyIf fun _ => stable_cons (pending_linkDownCore q i l) (stable_cons (pending_reLevel q i) stable_nil)

/-! ### Requests -/

theorem laneRetrain_row (s : State) (loc k lane : Nat) (hloc : isLinkSite s.build loc = true) (hk : k < 6)
    (h : firstErr (actionErrs s ⟨0, 0, 0, 5, loc, k, lane⟩) = .ok) :
    (let l := 6 * linkOrd s.build loc + k
     ∃ t, exec (.laneRetrain loc k lane) s = .next t ∧ linkSt t l = { linkSt s l with
         req := some lane
         grant := false } ∧ t.out = .retrain l false lane :: s.out ∧ t.regs = s.regs ∧ t.mem = s.mem) := by
  have hrun : exec (.laneRetrain loc k lane) s =
      .next ((onlyIf (isLinkSite s.build loc && decide (k < 6)) (deliverAction ⟨0, 0, 0, 5, loc, k, lane⟩ fun _ => .done)).run s) := rfl
  have hlane : lane / 16 = 0 := by
    have hres := firstErr_when_ok (by decide) (firstErr_append_ok h).1
    simpa [argReserved] using hres
  have hbits : bits lane 3 0 = lane := by
    unfold bits
    rw [Nat.pow_zero, Nat.div_one]
    exact Nat.mod_eq_of_lt (by omega)
  dsimp only
  refine ⟨_, hrun, ?_⟩
  have happ : actionApply ⟨0, 0, 0, 5, loc, k, lane⟩ = look fun s => laneRequest (6 * linkOrd s.build loc + k) (bits lane 3 0) := rfl
  rw [run_onlyIf_of_true _ _ (by simp [hloc, hk]), deliverAction, run_look, if_pos h, run_acts_cons, run_acts_cons, runs_nil, runs_done, happ,
    run_look, hbits, laneRequest, run_acts_cons, run_acts_cons, runs_nil]
  exact ⟨by rw [linkSt_emit, linkSt_updLink], rfl, rfl, rfl⟩

/-! ### Retrains -/

theorem laneReady_free {s : State} {l k : Nat} (h : laneReady s l = some k) : laneFree s l = true := by
  unfold laneReady at h
  by_contra hc
  rw [Bool.not_eq_true] at hc
  simp [hc] at h

/-- What a retrain changes of a link's registers when it starts. -/
def laneStarted (l k : Nat) : Act := acts [setF LINK_RETRAINING 1 l, setF LINK_LANE k l, setF LINK_LANES 15 l, cnt LINK_LCNT 3 l]

theorem laneStarted_fv (s : State) (l k : Nat) (hk : k < 16) :
    fb ((laneStarted l k).run s) LINK_RETRAINING l = true ∧ fv ((laneStarted l k).run s) LINK_LANE l = k ∧
      fv ((laneStarted l k).run s) LINK_LANES l = 15 ∧ counted s ((laneStarted l k).run s) LINK_LCNT l 3 1 ∧
      linkState ((laneStarted l k).run s) l = linkState s l := by
  have hcnt : ∀ f : Fld, f.blk = .link → f.off + 0 * f.stride = 0x100 → ∀ u : State,
      fv ((cnt LINK_LCNT 3 l).run u) f l = fv u f l := fun f hb ho u =>
    fv_incF_other u LINK_LCNT f 1 l 3 l 0 (by decide) (Or.inl (link_ne f LINK_LCNT l 0 3 hb rfl (by rw [ho]; decide)))
  rw [laneStarted, run_acts_cons, run_acts_cons, run_acts_cons, run_acts_cons, runs_nil]
  refine ⟨?_, ?_, ?_, ?_, ?_⟩
  · rw [fb, hcnt _ rfl rfl, fv_setF_other _ LINK_LANES LINK_RETRAINING _ _ _ _ _ (by decide) (Or.inr (by decide)),
      fv_setF_other _ LINK_LANE LINK_RETRAINING _ _ _ _ _ (by decide) (Or.inr (by decide)), fv_setF_eq _ _ _ _ _ (by decide) (by decide)]
    rfl
  · rw [hcnt _ rfl rfl, fv_setF_other _ LINK_LANES LINK_LANE _ _ _ _ _ (by decide) (Or.inr (by decide)),
      fv_setF_eq _ _ _ _ _ (by decide) (by decide)]
    exact Nat.mod_eq_of_lt hk
  · rw [hcnt _ rfl rfl, fv_setF_eq _ _ _ _ _ (by decide) (by decide)]
    rfl
  · have hother : ∀ f : Fld, f.blk = .link → f.off + 0 * f.stride = 0x100 → f.hi < 64 → ∀ u v,
        fv ((setF f v l).run u) LINK_LCNT l 3 = fv u LINK_LCNT l 3 := fun f hb ho hh u v =>
      fv_setF_other u f LINK_LCNT v l 0 l 3 hh (Or.inl (link_ne _ _ _ _ _ rfl hb (by rw [ho]; decide)))
    rw [counted, cnt, fv_incF_word _ _ _ _ rfl rfl, hother _ rfl rfl (by decide), hother _ rfl rfl (by decide), hother _ rfl rfl (by decide)]
  · rw [linkState, hcnt _ rfl rfl, fv_setF_other _ LINK_LANES LINK_LSTATE _ _ _ _ _ (by decide) (Or.inr (by decide)),
      fv_setF_other _ LINK_LANE LINK_LSTATE _ _ _ _ _ (by decide) (Or.inr (by decide)),
      fv_setF_other _ LINK_RETRAINING LINK_LSTATE _ _ _ _ _ (by decide) (Or.inr (by decide))]
    rfl

theorem laneStarted_within (l k : Nat) : (laneStarted l k).Within [] fun _ => True := by simp [laneStarted, cnt]

theorem laneStart_row (s : State) (l k : Nat) (_ : l < 256) (hk : k < 16) :
    (laneReady s l = some k → windowOpen s = true ∧ linkState s l = 2 ∧ fb s LINK_RETRAINING l = false ∧
      ∃ t, exec (.laneRetrainStart l) s = .next t ∧ fb t LINK_RETRAINING l = true ∧ fv t LINK_LANE l = k ∧
        fv t LINK_LANES l = 15 ∧ counted s t LINK_LCNT l 3 1 ∧ (linkSt t l).req = none ∧ linkState t l = 2 ∧ memKept s t) ∧
    (laneReady s l = none → exec (.laneRetrainStart l) s = .next s) := by
  have hrun : exec (.laneRetrainStart l) s = .next ((laneStart l).run s) := rfl
  rw [hrun, laneStart, run_look]
  refine ⟨fun h => ?_, fun h => by rw [h, runs_done]⟩
  have hfree := laneReady_free h
  simp only [laneFree, Bool.and_eq_true, beq_iff_eq, Bool.not_eq_true'] at hfree
  obtain ⟨⟨⟨h2, hret⟩, -⟩, hwin⟩ := hfree
  refine ⟨hwin, h2, hret, _, rfl, ?_⟩
  rw [h]
  dsimp only
  rw [run_acts_cons]
  generalize hu : (updLink l fun st => { st with req := none, farReq := none, grant := false }).run s = u
  have hfv : ∀ f n, fv u f l n = fv s f l n := fun f n => hu ▸ rfl
  obtain ⟨h1, h3, h4, h5, h6⟩ := laneStarted_fv u l k hk
  have hw := laneStarted_within l k
  refine ⟨h1, h3, h4, h5.trans (by rw [hfv]), ?_, h6.trans ((hfv _ _).trans h2), ?_⟩
  · have hlk := linkSt_congr (hw.same .links (by decide) u) l
    refine (congrArg (·.req) hlk).trans ?_
    rw [← hu, linkSt_updLink]
  · have hm := hw.memKept u (by decide) (by decide) (by decide)
    rw [← hu] at hm
    rw [← hu]
    exact hm

theorem laneAbort_row (s : State) (l : Nat) (hl : l < 256) (hreq : (linkSt s l).req.isSome = true) (hno : laneReady s l = none) :
    ∃ t, exec (.retrainAbort l) s = .next t ∧ linkSt t l = { linkSt s l with
        req := none
        grant := false } ∧ counted s t LINK_LCNT l 4 1 ∧ pending t (linkPg l) 19 ∧ fv t LINK_LANES l = fv s LINK_LANES l := by
  have hrun : exec (.retrainAbort l) s = .next ((laneAbort l).run s) := rfl
  refine ⟨_, hrun, ?_⟩
  rw [laneAbort, run_look, if_neg (by simpa [Option.isSome_iff_ne_none] using hreq), hno, if_neg (by decide), run_acts_cons, run_acts_cons, run_acts_cons, runs_nil]
  generalize hu : (updLink l fun st => { st with req := none, grant := false }).run s = u
  have hfv : ∀ f n, fv u f l n = fv s f l n := fun f n => hu ▸ rfl
  have hlk : (acts [cnt LINK_LCNT 4 l, raiseEvt (linkPg l) (2 ^ 19)]).Parts [.events, .out] := by
    simp only [only_acts_cons, only_acts_nil, cnt, within_incF, and_true]
    exact ⟨trivial, raiseEvt_parts _ _ (by decide) (by decide)⟩
  refine ⟨?_, ?_, pending_raiseEvt _ _ _ _ (by decide) (by decide), ?_⟩
  · have := hlk.same .links (by decide) u
    rw [run_acts_cons, run_acts_cons, runs_nil] at this
    rw [linkSt_congr this, ← hu, linkSt_updLink]
  · rw [counted, linkReg_raiseEvt _ _ _ _ _ _ ⟨rfl, by decide, by decide⟩ hl, cnt, fv_incF_word _ _ _ _ rfl rfl, hfv]
  · rw [linkReg_raiseEvt _ _ _ _ _ _ ⟨rfl, by decide, by decide⟩ hl, cnt, fv_incF_other _ LINK_LCNT LINK_LANES _ _ _ _ _ (by decide)
      (Or.inl (link_ne _ _ _ _ _ rfl rfl (by decide))), hfv]

/-! ### Their end -/

/-- How a lane retrain ends, once the link retrains no more. -/
def laneEnded (s : State) (l : Nat) (ok : Bool) : Act :=
  if ok then setF LINK_LANES (if fb s LINK_DEGRADED l then 15 else 16) l
  else if fb s LINK_DEGRADED l then linkDown l
  else setF LINK_DEGRADED 1 l

/-- A link whose lane retrain has ended, with LANE_DONE's event. -/
def laneOver (s : State) (l : Nat) : State := (raiseEvt (linkPg l) (2 ^ 18)).run ((setF LINK_RETRAINING 0 l).run s)

theorem laneDone_run (s : State) (l : Nat) (ok : Bool) (h : fb s LINK_RETRAINING l = true) :
    (laneDone l ok).run s = (laneEnded s l ok).run (laneOver s l) := by
  rw [laneDone, run_look, if_neg (by simp [h]), run_acts_cons, run_acts_cons, run_acts_cons, runs_nil]
  rfl

theorem laneOver_reg (s : State) (l : Nat) (hl : l < 256) (f : Fld) (n : Nat) (hf : LinkReg f n)
    (hb : f.hi < LINK_RETRAINING.lo ∨ LINK_RETRAINING.hi < f.lo) : fv (laneOver s l) f l n = fv s f l n := by
  rw [laneOver, linkReg_raiseEvt _ _ _ _ _ _ hf hl, fv_setF_other s LINK_RETRAINING f _ _ _ _ _ (by decide) (Or.inr hb.symm)]

theorem laneOver_retraining (s : State) (l : Nat) (hl : l < 256) : fv (laneOver s l) LINK_RETRAINING l = 0 := by
  rw [laneOver, linkReg_raiseEvt _ _ _ _ _ _ ⟨rfl, by decide, by decide⟩ hl, fv_setF_eq _ _ _ _ _ (by decide) (by decide)]
  rfl

theorem laneOver_pending (s : State) (l : Nat) : pending (laneOver s l) (linkPg l) 18 := pending_raiseEvt _ _ _ _ (by decide) (by decide)

theorem laneDone_row (s : State) (l : Nat) (ok : Bool) (hl : l < 256) :
    (fb s LINK_RETRAINING l = false → exec (.laneDone l ok) s = .next s) ∧
    (fb s LINK_RETRAINING l = true → linkState s l = 2 → ∃ t, exec (.laneDone l ok) s = .next t ∧ fb t LINK_RETRAINING l = false ∧
      pending t (linkPg l) 18 ∧
      (ok = true → fv t LINK_LANES l = (if fb s LINK_DEGRADED l then 15 else 16) ∧ linkState t l = 2) ∧
      (ok = false → fb s LINK_DEGRADED l = false → fb t LINK_DEGRADED l = true ∧ fv t LINK_LANES l = fv s LINK_LANES l) ∧
      (ok = false → fb s LINK_DEGRADED l = true → linkState t l = 3)) := by
  have hrun : exec (.laneDone l ok) s = .next ((laneDone l ok).run s) := rfl
  have hreg : ∀ f : Fld, f.blk = .link → f.off + 0 * f.stride = 0x100 → LinkReg f 0 := fun f hb ho => ⟨hb, by omega, by omega⟩
  have hst : linkState (laneOver s l) l = linkState s l := laneOver_reg s l hl LINK_LSTATE 0 (hreg _ rfl rfl) (by decide)
  rw [hrun]
  refine ⟨fun h => ?_, fun h h2 => ⟨_, rfl, ?_⟩⟩
  · rw [laneDone, run_look, if_pos (by simp [h]), runs_done]
  · rw [laneDone_run s l ok h, laneEnded]
    cases ok
    · rw [if_neg (by decide)]
      cases hd : fb s LINK_DEGRADED l
      · rw [if_neg (by decide)]
        refine ⟨?_, pending_setF _ _ _ _ (by decide) _ _ _ (laneOver_pending s l), by simp, fun _ _ => ⟨?_, ?_⟩, by simp⟩
        · rw [fb, fv_setF_other _ LINK_DEGRADED LINK_RETRAINING _ _ _ _ _ (by decide) (Or.inr (by decide)), laneOver_retraining s l hl]
          rfl
        · rw [fb_setF_self _ _ _ _ _ ⟨by decide, by decide⟩]; rfl
        · rw [fv_setF_other _ LINK_DEGRADED LINK_LANES _ _ _ _ _ (by decide) (Or.inr (by decide))]
          exact laneOver_reg s l hl LINK_LANES 0 (hreg _ rfl rfl) (by decide)
      · rw [if_pos rfl]
        refine ⟨?_, pending_linkDown l _ _ _ (laneOver_pending s l), by simp, by simp, fun _ _ => ?_⟩
        · rw [fb, linkDown_reg _ l hl (hst.trans h2) _ _ (hreg _ rfl rfl) rfl, linkFallen, fv_setF_eq _ _ _ _ _ (by decide) (by decide)]
          rfl
        · rw [linkDown_state _ l hl, if_pos (hst.trans h2)]
    · rw [if_pos rfl]
      refine ⟨?_, pending_setF _ _ _ _ (by decide) _ _ _ (laneOver_pending s l), fun _ => ⟨?_, ?_⟩, by simp, by simp⟩
      · rw [fb, fv_setF_other _ LINK_LANES LINK_RETRAINING _ _ _ _ _ (by decide) (Or.inr (by decide)), laneOver_retraining s l hl]
        rfl
      · rw [fv_setF_eq _ _ _ _ _ (by decide) (by decide)]
        split <;> rfl
      · rw [linkState, fv_setF_other _ LINK_LANES LINK_LSTATE _ _ _ _ _ (by decide) (Or.inr (by decide))]
        exact hst.trans h2

/-- Settles O47. -/
theorem lanesRetrainInBubbles : Obligations.LanesRetrainInBubbles := by
  unfold Obligations.LanesRetrainInBubbles
  exact ⟨laneRetrain_row, laneStart_row, laneAbort_row, laneDone_row⟩

end Sys2Proof.Machine
end

section
/-! PROOF. What leaves the units in service as they are; a link that falls, to its counter; the level that stays (R20, R363). -/

namespace Sys2Proof.Machine

/-! ### Fields of one page -/

section
variable (s : State) (f g : Fld) (v l n m : Nat)

/-- Writing one register of a page leaves the others, and the other bits of it. -/
theorem fv_setF_page (hb : g.blk = f.blk) (hf : f.hi < 64) (h : g.off + m * g.stride ≠ f.off + n * f.stride ∨ f.hi < g.lo ∨ g.hi < f.lo) :
    fv ((setF f v l n).run s) g l m = fv s g l m := by
  refine fv_setF_other s f g v l n l m hf ?_
  rcases h with h | h
  · exact Or.inl (fldKey_ne_off g f l m n hb h)
  · exact Or.inr h

theorem fv_incF_page (hb : g.blk = f.blk) (hf : f.hi < 64) (h : g.off + m * g.stride ≠ f.off + n * f.stride ∨ f.hi < g.lo ∨ g.hi < f.lo) :
    fv ((incF f v l n).run s) g l m = fv s g l m := by
  rw [run_incF]; exact fv_setF_page s f g _ l n m hb hf h

end

/-- Another block's pages are as they were. -/
theorem fv_setF_block (s : State) (f g : Fld) (v i n j m : Nat) (hb : g.blk ≠ f.blk) (hf : f.hi < 64) (hi : i < 256) (hj : j < 256)
    (ho : f.off + n * f.stride < 4096) (hp : g.off + m * g.stride < 4096) : fv ((setF f v i n).run s) g j m = fv s g j m :=
  fv_setF_other s f g v i n j m hf (Or.inl (fldKey_ne_blk g f j i m n hb hj hi hp ho))

theorem fv_incF_block (s : State) (f g : Fld) (v i n j m : Nat) (hb : g.blk ≠ f.blk) (hf : f.hi < 64) (hi : i < 256) (hj : j < 256)
    (ho : f.off + n * f.stride < 4096) (hp : g.off + m * g.stride < 4096) : fv ((incF f v i n).run s) g j m = fv s g j m := by
  rw [run_incF]; exact fv_setF_block s f g _ i n j m hb hf hi hj ho hp

/-! ### Units in service -/

/-- A register that does not say which units are retired. -/
abbrev noRet (k : Nat) : Prop := ¬ retReg k

theorem SameService.of_within {ps : List Part} {a : Act} (h : a.Within ps noRet) (hu : Part.units ∉ ps) (s : State) : SameService s (a.run s) :=
  ⟨h.same .units hu s, h.build s, fun k hk => h.rdKey s k fun hn => hn hk⟩

theorem SameService.trans {s t u : State} (h : SameService s t) (h' : SameService t u) : SameService s u :=
  ⟨h'.units.trans h.units, h'.build.trans h.build, fun k hk => (h'.regs k hk).trans (h.regs k hk)⟩

theorem SameService.refl (s : State) : SameService s s := ⟨rfl, rfl, fun _ _ => rfl⟩

theorem noRet_block (f : Fld) (i n : Nat) (hb : f.blk ≠ .hlth) (hi : i < 256) (ho : f.off + n * f.stride < 4096) : noRet (fldKey f i n) := by
  rintro ⟨h, -, -⟩
  obtain ⟨h1, -⟩ := fldKey_parts f i n hi ho
  rw [h, Nat.mul_div_cancel _ (by decide)] at h1
  exact hb (blkNum_inj _ _ h1.symm)

theorem noRet_off (k : Nat) (h : k % 4096 < 0x60 ∨ 0x80 ≤ k % 4096) : noRet k := by
  rintro ⟨-, h1, h2⟩
  omega

theorem noRet_fldKey (f : Fld) (i n : Nat) (ho : f.off + n * f.stride < 4096) (h : f.off + n * f.stride < 0x60 ∨ 0x80 ≤ f.off + n * f.stride) :
    noRet (fldKey f i n) := noRet_off _ (by rw [fldKey_mod, Nat.mod_eq_of_lt ho]; exact h)

theorem noRet_lost : noRet lostKey := noRet_off _ (by decide)

theorem raiseEvt_noRet {ps : List Part} (p : PageRef) (m : Nat) (he : Part.events ∈ ps) (ho : Part.out ∈ ps) :
    (raiseEvt p m).Within ps noRet := by
  refine (raiseEvt_within p m).mono (by simp [he, ho]) ?_
  rintro k (rfl | rfl)
  · exact noRet_fldKey _ _ _ (by simp [hdrEvtPend]) (by simp [hdrEvtPend])
  · exact noRet_lost

theorem noRet_of_send (k : Nat) (h : sendKeys k) : noRet k := by
  rcases h with rfl | h | rfl
  · exact noRet_fldKey _ _ _ (by decide) (by decide)
  · exact noRet_off _ (by omega)
  · exact noRet_lost

theorem healthNotice_noRet (n : Notice) : (healthNotice n).Within [.events, .out] noRet := by
  have hf : ∀ f : Fld, ∀ n, f.off + n * f.stride < 4096 → (f.off + n * f.stride < 0x60 ∨ 0x80 ≤ f.off + n * f.stride) → noRet (fldKey f 0 n) :=
    fun f n ho h => noRet_fldKey f 0 n ho h
  have hev : ∀ m, (raiseEvt hlthPage m).Within [.events, .out] noRet := fun m => raiseEvt_noRet _ _ (by decide) (by decide)
  cases n with
  | consumed p =>
    simp only [healthNotice, only_look_iff, only_acts_cons, only_acts_nil, within_incF, within_setF, and_true]
    exact fun s => ⟨hf _ _ (by decide) (by decide), hf _ _ (by decide) (by decide), hf _ _ (by decide) (by decide),
      hf _ _ (by decide) (by decide), hf _ _ (by decide) (by decide), hev _⟩
  | peerLost m =>
    simp only [healthNotice, only_acts_cons, only_acts_nil, within_incF, within_setF, and_true]
    exact ⟨hf _ _ (by decide) (by decide), hf _ _ (by decide) (by decide), hf _ _ (by decide) (by decide), hev _⟩
  | unbacked | auditLost | remapFull | flashRo =>
    simp only [healthNotice, only_acts_cons, only_acts_nil, within_incF, and_true]
    exact ⟨hf _ _ (by decide) (by decide), hev _⟩

theorem linkDownCore_noRet (l : Nat) (hl : l < 256) : (linkDownCore l).Within fabricParts noRet := by
  have hsend : ∀ {a : Act}, a.Within fabricParts sendKeys → a.Within fabricParts noRet := fun h => h.regs noRet_of_send
  have hlink : ∀ f : Fld, ∀ j n, f.blk = .link → j < 256 → f.off + n * f.stride < 4096 → noRet (fldKey f j n) :=
    fun f j n hb hj ho => noRet_block f j n (by rw [hb]; decide) hj ho
  simp only [linkDownCore, only_look_iff, only_acts_cons, only_acts_nil, within_setF, cnt, within_incF, within_updLink, only_onlyIf_iff,
    only_emit_iff, only_each_iff, and_true, Upd.within]
  exact fun s => ⟨hlink _ _ _ rfl hl (by decide), hlink _ _ _ rfl hl (by decide), hlink _ _ _ rfl hl (by decide),
    hlink _ _ _ rfl hl (by decide), hsend (raiseEvt_sendKeys _ _), by decide,
    fun _ => ⟨hlink _ _ _ rfl (by decide) (by decide), fun _ => by decide⟩,
    fun _ _ => ⟨hlink _ _ _ rfl (by decide) (by decide), hsend (refuseMsg_sendKeys _ _)⟩,
    fun _ _ => (healthNotice_noRet _).mono (by decide) (fun _ h => h), fun _ _ => hsend (forwardMsg_sendKeys _ _)⟩

theorem allLinksDown_noRet : allLinksDown.Within fabricParts noRet := by
  simp only [allLinksDown, only_look_iff, only_each_iff]
  exact fun s l hl => linkDownCore_noRet l (linkSite_mem_lt hl)

theorem reLevel_noRet : reLevel.Within fabricParts noRet := by
  have hset : ∀ f : Fld, ∀ v, f.off + 0 * f.stride < 0x60 → (setF f v).Within fabricParts noRet :=
    fun f v ho => (within_setF f v 0 0).2 (noRet_fldKey f 0 0 (by omega) (Or.inl ho))
  refine fun s => only_ite trivial ?_
  simp only [only_acts_cons, only_acts_nil, only_onlyIf_iff, only_look_iff, and_true]
  exact ⟨hset _ _ (by decide), fun _ => ⟨hset _ _ (by decide), hset _ _ (by decide), hset _ _ (by decide), hset _ _ (by decide),
    hset _ _ (by decide), hset _ _ (by decide), raiseEvt_noRet _ _ (by decide) (by decide),
    fun _ => ⟨allLinksDown_noRet, fun t => hset _ _ (by decide)⟩⟩⟩

theorem unitsFollow_noRet (s : State) : (unitsFollow s).Within fabricParts noRet := by
  simp only [unitsFollow, only_acts_cons, only_acts_nil, only_look_iff, only_each_iff, and_true]
  exact ⟨fun _ _ _ => raiseEvt_noRet _ _ (by decide) (by decide), reLevel_noRet⟩

theorem linkDown_noRet (l : Nat) (hl : l < 256) : (linkDown l).Within fabricParts noRet := by
  simp only [linkDown, only_look_iff, only_onlyIf_iff, only_acts_cons, only_acts_nil, and_true]
  exact fun _ _ => ⟨linkDownCore_noRet l hl, reLevel_noRet⟩

theorem linkDown_within (l : Nat) (hl : l < 256) : (linkDown l).Within fabricParts fallKeys := by
  simp only [linkDown, only_look_iff, only_onlyIf_iff, only_acts_cons, only_acts_nil, and_true]
  exact fun _ _ => ⟨linkDownCore_within l hl, reLevel_within⟩

/-! ### The count and the event of a fall -/

/-- What a link's fall carries out after its count and its event. -/
def linkFallRest (l : Nat) (st : LinkSt) (outer : Bool) : Act :=
  acts [
    updLink l fun x => { LinkSt.init with needAdmit := true, turn := x.turn },
    onlyIf st.joined (acts [cnt LINK_LDCNT 1, onlyIf outer (emit (.notice l false))]),
    each st.store fun x => acts [cnt LINK_LDCNT 2, refuseMsg x.2 cLinkDown],
    look fun t => onlyIf (peerGone t l) (healthNotice (.peerLost (fv t LINK_FAR_NODE l))),
    each (st.waiting.filter fun x => x.1 == x.2.flits) fun x => forwardMsg x.2 none]

theorem linkFall_run (s : State) (l : Nat) (st : LinkSt) (outer : Bool) :
    (linkFall l st outer).run s = (linkFallRest l st outer).run ((raiseEvt (linkPg l) (2 ^ 16)).run ((cnt LINK_LCNT 5 l).run s)) := by
  rw [linkFall, run_acts_cons, run_acts_cons]
  rfl

theorem linkFallRest_within (l : Nat) (st : LinkSt) (outer : Bool) :
    (linkFallRest l st outer).Within fabricParts fun k => (∃ n, n < 3 ∧ k = fldKey LINK_LDCNT 0 n) ∨ hdrOr [.hlth, .slqp] k := by
  have hsend : ∀ {a : Act}, a.Within fabricParts sendKeys →
      a.Within fabricParts fun k => (∃ n, n < 3 ∧ k = fldKey LINK_LDCNT 0 n) ∨ hdrOr [.hlth, .slqp] k := fun h => h.regs fun k hk => by
    rcases hk with rfl | h | rfl
    · exact Or.inl ⟨0, by decide, rfl⟩
    · exact Or.inr (Or.inl (by omega))
    · exact Or.inr (hdrOr_fldKey _ _ _ (by decide) (by decide) (by decide))
  have hcnt : ∀ n, n < 3 → (∃ m, m < 3 ∧ fldKey LINK_LDCNT 0 n = fldKey LINK_LDCNT 0 m) ∨ hdrOr [.hlth, .slqp] (fldKey LINK_LDCNT 0 n) :=
    fun n hn => Or.inl ⟨n, hn, rfl⟩
  simp only [linkFallRest, only_look_iff, only_acts_cons, only_acts_nil, cnt, within_incF, within_updLink, only_onlyIf_iff,
    only_emit_iff, only_each_iff, and_true, Upd.within]
  exact ⟨by decide, fun _ => ⟨hcnt 1 (by decide), fun _ => by decide⟩, fun _ _ => ⟨hcnt 2 (by decide), hsend (refuseMsg_sendKeys _ _)⟩,
    fun s _ => (healthNotice_within _).mono (by decide) (fun _ h => Or.inr h), fun _ _ => hsend (forwardMsg_sendKeys _ _)⟩

theorem linkFallRest_fv (s : State) (l : Nat) (st : LinkSt) (outer : Bool) (f : Fld) (i n : Nat) (h : LinkReg f n) (hi : i < 256) :
    fv ((linkFallRest l st outer).run s) f i n = fv s f i n := by
  refine (linkFallRest_within l st outer).fv s f i n ?_
  rintro (⟨m, hm, hk⟩ | hk)
  · exact h.ne_ldcnt i m hm hk
  · exact h.not_notice i hi hk

theorem pending_linkFallRest (l : Nat) (st : LinkSt) (outer : Bool) (q : PageRef) (i : Nat) :
    (linkFallRest l st outer).Stable fun s => pending s q i := by
  refine stable_cons (pending_updLink _ _ q i) (stable_cons (stable_onlyIf fun _ => ?_) (stable_cons
    (stable_each fun x _ => stable_cons (pending_incF _ _ _ _ (by decide) q i) (stable_cons (pending_refuseMsg q i _ _) stable_nil))
    (stable_cons (stable_look fun t => stable_onlyIf fun _ => pending_healthNotice q i _)
      (stable_cons (stable_each fun x _ => pending_forwardMsg q i _ _) stable_nil))))
  exact stable_cons (pending_incF _ _ _ _ (by decide) q i) (stable_cons (stable_onlyIf fun _ =>
    pending_of_noRegs q i (ps := fabricParts) (by simp [fabricParts, Upd.within])) stable_nil)

theorem linkDownCore_counts (s : State) (l : Nat) (hl : l < 256) :
    counted s ((linkDownCore l).run s) LINK_LCNT l 5 1 ∧ pending ((linkDownCore l).run s) (linkPg l) 16 := by
  rw [linkDownCore_run, linkFall_run]
  refine ⟨?_, pending_linkFallRest _ _ _ _ _ _ (pending_raiseEvt _ _ _ _ (by decide) (by decide))⟩
  have hreg : LinkReg LINK_LCNT 5 := ⟨rfl, by decide, by decide⟩
  rw [counted, linkFallRest_fv _ _ _ _ _ _ _ hreg hl, linkReg_raiseEvt _ _ _ _ _ _ hreg hl, cnt, fv_incF_word _ _ _ _ rfl rfl,
    linkFallen_other _ _ _ _ _ hreg (Or.inr (by decide))]

theorem linkDown_counts (s : State) (l : Nat) (hl : l < 256) (h : linkState s l = 2) :
    counted s ((linkDown l).run s) LINK_LCNT l 5 1 ∧ pending ((linkDown l).run s) (linkPg l) 16 ∧ fv ((linkDown l).run s) LINK_LANES l = 0 := by
  obtain ⟨h1, h2⟩ := linkDownCore_counts s l hl
  have h3 : linkState ((linkDownCore l).run s) l ≠ 2 := by rw [linkDownCore_state s l hl]; decide
  refine ⟨?_, ?_, ?_⟩
  · rw [counted, linkDown_run s l h, reLevel_other _ _ _ _ ⟨rfl, by decide, by decide⟩ hl h3]
    exact h1
  · rw [linkDown_run s l h]
    exact pending_reLevel _ _ _ h2
  · rw [linkDown_reg s l hl h LINK_LANES 0 ⟨rfl, by decide, by decide⟩ rfl, linkFallen,
      fv_setF_page _ LINK_RETRAINING LINK_LANES _ _ _ _ rfl (by decide) (Or.inr (by decide)), fv_setF_eq _ _ _ _ _ (by decide) (by decide)]
    rfl

/-- Registers of a link's own beside its state and its count of falls stay when it falls. -/
theorem linkDown_other_reg (s : State) (l : Nat) (hl : l < 256) (f : Fld) (n : Nat) (h : LinkReg f n) (h1 : f.off + n * f.stride ≠ 0x100)
    (h2 : f.off + n * f.stride ≠ 0x118 + 4 * 5) : fv ((linkDown l).run s) f l n = fv s f l n := by
  by_cases hs : linkState s l = 2
  · rw [linkDown_run s l hs, reLevel_other _ _ _ _ h hl (by rw [linkDownCore_state s l hl]; decide), linkDownCore_run,
      linkFall_fv _ _ _ _ _ _ _ h hl (Or.inr h2), linkFallen_other _ _ _ _ _ h (Or.inr h1)]
  · rw [linkDown_of_not_up s l hs]

/-! ### A level that does not fall from 3 -/

/-- Where the level does not fall from 3, what follows it is HLTH's records and an event. -/
theorem reLevel_still_run (s : State) (h : level s = 3 → (if fb s ENET_LINK_UP then levelOf (limitConds s) else 0) = 3) :
    ∃ a : Act, reLevel.run s = a.run s ∧ a.Within [.events, .out] (hdrOr [.hlth, .slqp]) := by
  have hset : ∀ f : Fld, ∀ v, f.blk = .hlth → f.off + 0 * f.stride < 4096 → (setF f v).Within [.events, .out] (hdrOr [.hlth, .slqp]) :=
    fun f v hb ho => (within_setF f v 0 0).2 (hdrOr_fldKey f 0 0 (by simp [hb]) (by decide) ho)
  rw [reLevel, run_look]
  split
  · exact ⟨.done, rfl, trivial⟩
  · dsimp only
    generalize (if fb s ENET_LINK_UP = true then levelOf (limitConds s) else 0) = lvl at h
    rw [run_acts_cons, run_acts_cons, runs_nil]
    by_cases hl : lvl = level s
    · rw [run_onlyIf_of_false _ _ (by simp [hl])]
      exact ⟨_, rfl, hset HLTH_COND _ rfl (by decide)⟩
    · rw [run_onlyIf_of_true _ _ (by simp [hl])]
      refine ⟨acts [setF HLTH_COND (limitConds s), setF HLTH_LEVEL lvl, setF HLTH_LREC_VALID 1, setF HLTH_LREC_OLD (level s),
        setF HLTH_LREC_NEW lvl, setF HLTH_LREC_COND (limitConds s), setF HLTH_LVL_AT (curInstant s), raiseEvt hlthPage (2 ^ 16)], ?_, ?_⟩
      · simp only [run_acts_cons, runs_nil]
        rw [run_onlyIf_of_false _ _ (by simp only [beq_eq_false_iff_ne]; exact fun h3 => hl ((h h3).trans h3.symm))]
      · simp only [only_acts_cons, only_acts_nil, and_true]
        exact ⟨hset _ _ rfl (by decide), hset _ _ rfl (by decide), hset _ _ rfl (by decide), hset _ _ rfl (by decide), hset _ _ rfl (by decide),
          hset _ _ rfl (by decide), hset _ _ rfl (by decide), raiseEvt_hdrOr _ _ (by decide) (by decide) (by decide)⟩

/-- Where the level does not fall from 3, links stay as they are when it follows. -/
theorem reLevel_still (s : State) (h : level s = 3 → (if fb s ENET_LINK_UP then levelOf (limitConds s) else 0) = 3) :
    (reLevel.run s).links = s.links ∧ ∀ f i n, LinkReg f n → i < 256 → fv (reLevel.run s) f i n = fv s f i n := by
  obtain ⟨a, hrun, hw⟩ := reLevel_still_run s h
  rw [hrun]
  exact ⟨hw.same .links (by decide) s, fun f i n hf hi => hw.fv s f i n (hf.not_notice i hi)⟩

end Sys2Proof.Machine
end

section
/-! PROOF. Links train, fall and rejoin (R357, R362 to R366). -/

namespace Sys2Proof.Machine

theorem linkSt_incF (s : State) (f : Fld) (v i n l : Nat) : linkSt ((incF f v i n).run s) l = linkSt s l := (rfl)

theorem linkSt_setF (s : State) (f : Fld) (v i n l : Nat) : linkSt ((setF f v i n).run s) l = linkSt s l := (rfl)

/-! ### Rows of a LINK page -/

theorem linkSite_ord (b : Build) : ∀ l, l < nLinks b →
    isLinkSite b (linkSite b l) = true ∧ isHbmSite b (linkSite b l) = false ∧ linkSite b l < 12 ∧ 6 * linkOrd b (linkSite b l) + l % 6 = l := by
  cases b <;> decide

/-- The LINK page of a device link. -/
theorem pageOf_linkReg (s : State) (l off : Nat) (hl : l < nLinks s.build) (ho : off < 4096) : pageOf s (linkReg s l off) = some ⟨.link, l⟩ := by
  obtain ⟨h1, h2, h3, h4⟩ := linkSite_ord s.build l hl
  unfold linkReg
  rw [pageOf_regAddr s _ _ _ (by omega) (by omega) ho]
  unfold pageAt
  rw [if_neg (by omega), if_neg (by omega), if_neg (by rw [h2]; decide), if_pos h1, if_neg (by omega), if_neg (by omega), if_pos (by omega),
    show 0x10 + l % 6 - 0x10 = l % 6 by omega, h4]

theorem raOff_linkReg (s : State) (l off : Nat) (hl : l < nLinks s.build) (ho : off < 4096) : raOff (linkReg s l off) = off := by
  obtain ⟨-, -, h3, -⟩ := linkSite_ord s.build l hl
  exact (regAddr_parts _ _ off (by omega) (by omega) ho).2.2.2

/-- A row that writes a link's CTL: its action, and what its checks found. -/
theorem exec_linkCtl_row (s : State) (c : Instr) (r : Requester) (l v : Nat) (hl : l < nLinks s.build) (hv : v < 2 ^ 32)
    (hc : rowWrite s c = some (r, linkReg s l 0x114, 4, v)) (h : accepted s r (linkReg s l 0x114) 4 v = true) :
    ∃ u : State, exec c s = .next (answered ((linkCtlWrite l v).run u) r (linkReg s l 0x114)) ∧ firstErr (linkCtlErrs s l v) = .ok ∧
      SameService s u ∧ u.links = s.links ∧ (∀ f i n, fldKey f i n ≠ fldKey LINK_LDISABLE l 0 → fv u f i n = fv s f i n) ∧
      u.mem = s.mem ∧ u.syn = s.syn ∧ u.written = s.written := by
  have hl' : l < 256 := hl.trans (nLinks_lt _)
  obtain ⟨d, hd⟩ : ∃ d, regAt .link 0x114 = some (d, 0x114) := ⟨_, rfl⟩
  have hkey : pageKey ⟨.link, l⟩ 0x114 = fldKey LINK_LDISABLE l 0 := by
    simp [pageKey, keyIdx, fldKey, LINK_LDISABLE]
  obtain ⟨hrun, herr⟩ := exec_page_row s c r _ 0x114 v ⟨.link, l⟩ d _ hc h (pageOf_linkReg s l _ hl (by decide)) (raOff_linkReg s l _ hl (by decide))
    hd ⟨by decide, by simp, by simp⟩ hv rfl
  simp only [hookErrs, hookApply] at hrun herr
  refine ⟨stored s ⟨.link, l⟩ d 0x114 v, hrun, herr, ⟨rfl, rfl, fun k hk => ?_⟩, rfl, fun f i n hne => ?_, rfl, rfl, rfl⟩
  · have hne : k ≠ fldKey LINK_LDISABLE l 0 := by
      rintro rfl
      exact noRet_block LINK_LDISABLE l 0 (by decide) hl' (by decide) hk
    rw [stored, rdKey_reg, hkey, if_neg hne]
  · exact fv_stored_other s _ d _ v f i n (by rw [hkey]; exact hne)

/-! ### Training -/

/-- LSTATE and LDISABLE of one page are in registers of their own. -/
theorem lstate_setF (s : State) (f : Fld) (v l : Nat) (hb : f.blk = .link) (hf : f.hi < 64)
    (h : 0x100 ≠ f.off + 0 * f.stride ∨ f.hi < 0 ∨ 2 < f.lo) : linkState ((setF f v l).run s) l = linkState s l :=
  fv_setF_page s f LINK_LSTATE v l 0 0 (hb ▸ rfl) hf h

theorem ldisable_setF (s : State) (v l : Nat) : fb ((setF LINK_LDISABLE v l).run s) LINK_LDISABLE l = (v % 2 != 0) :=
  fb_setF_self s LINK_LDISABLE v l 0 ⟨by decide, by decide⟩

/-- Where a link stands once it has left UP and has trained if it may. -/
theorem linkTrain_state (s : State) (l : Nat) (hl : l < 256) (h5 : linkState s l ≠ 5) (hd : fb s LINK_LDISABLE l = false) :
    linkState ((linkTrain l).run s) l = (if linkDieInService s (linkSite s.build l) && limitConds s % 32 == 0 then 1 else 3) ∧
      fb ((linkTrain l).run s) LINK_LDISABLE l = false ∧
      (linkState s l = 2 → counted s ((linkTrain l).run s) LINK_LCNT l 5 1 ∧ pending ((linkTrain l).run s) (linkPg l) 16) := by
  have hsv := SameService.of_within (linkDown_noRet l hl) (by decide) s
  have hst := linkDown_state s l hl
  have h5' : linkState ((linkDown l).run s) l ≠ 5 := by rw [hst]; split <;> [decide; exact h5]
  have hdis : fb ((linkDown l).run s) LINK_LDISABLE l = false := by
    rw [fb, linkDown_other_reg s l hl LINK_LDISABLE 0 ⟨rfl, by decide, by decide⟩ (by decide) (by decide)]; exact hd
  have href : fv ((linkDown l).run s) POWR_REFCLK = fv s POWR_REFCLK :=
    (linkDown_within l hl).fv s POWR_REFCLK 0 0 (not_fallKeys_powr _ _ rfl (by decide) (by decide))
  have hmay : mayTrain ((linkDown l).run s) l = (linkDieInService s (linkSite s.build l) && limitConds s % 32 == 0) := by
    unfold mayTrain
    rw [hsv.linkDieInService, hsv.build, hsv.limitConds href, hdis,
      show (linkState ((linkDown l).run s) l != 5) = true from bne_iff_ne.2 h5', Bool.not_false, Bool.and_true, Bool.and_true]
  have hrun : (linkTrain l).run s = (setF LINK_LSTATE (if mayTrain ((linkDown l).run s) l then 1 else 3) l).run ((linkDown l).run s) := by
    rw [linkTrain, run_acts_cons, run_acts_cons, runs_nil, runs_look, run_onlyIf_of_true _ _ (by simpa using h5')]
  rw [hrun, hmay]
  refine ⟨?_, ?_, fun h2 => ?_⟩
  · rw [linkState, fv_setF_eq _ _ _ _ _ (by decide) (by decide)]
    split <;> rfl
  · rw [fb, fv_setF_page _ LINK_LSTATE LINK_LDISABLE _ _ _ _ rfl (by decide) (Or.inl (by decide))]
    exact hdis
  · obtain ⟨hc, hp, -⟩ := linkDown_counts s l hl h2
    refine ⟨?_, pending_setF _ _ _ _ (by decide) _ _ _ hp⟩
    rw [counted, fv_setF_page _ LINK_LSTATE LINK_LCNT _ _ _ _ rfl (by decide) (Or.inl (by decide))]
    exact hc

theorem linkRetrain_row (s : State) (r : Requester) (l : Nat) (hl : l < nLinks s.build) (h5 : linkState s l ≠ 5)
    (h : accepted s r (linkReg s l 0x114) 4 4 = true) :
    ∃ t, exec (.linkRetrain r l) s = .next t ∧ linkState t l =
        (if linkDieInService s (linkSite s.build l) && limitConds s % 32 == 0 then 1 else 3) ∧
      fb t LINK_LDISABLE l = false ∧ (linkState s l = 2 → counted s t LINK_LCNT l 5 1 ∧ pending t (linkPg l) 16) := by
  have hl' : l < 256 := hl.trans (nLinks_lt _)
  obtain ⟨u, hrun, -, hsv, -, hfv, -⟩ := exec_linkCtl_row s (.linkRetrain r l) r l 4 hl (by decide) (by rw [rowWrite, if_pos hl]) h
  have hw : (linkCtlWrite l 4).run u = (linkTrain l).run ((setF LINK_LDISABLE (bits 4 0 0) l).run u) := by
    rw [linkCtlWrite, run_acts_cons, run_acts_cons, run_acts_cons, run_acts_cons, runs_nil, run_onlyIf_of_true _ _ (by decide),
      run_onlyIf_of_false _ _ (by decide), run_onlyIf_of_false _ _ (by decide)]
  generalize hx : (setF LINK_LDISABLE (bits 4 0 0) l).run u = x at hw
  have hne : ∀ f n, f.blk = .link → f.off + n * f.stride ≠ 0x114 → fldKey f l n ≠ fldKey LINK_LDISABLE l 0 := fun f n hb ho =>
    fldKey_ne_off f LINK_LDISABLE l n 0 hb ho
  have hxfv : ∀ f : Fld, ∀ n, f.blk = .link → f.off + n * f.stride ≠ 0x114 → fv x f l n = fv s f l n := fun f n hb ho => by
    rw [← hx, fv_setF_page u LINK_LDISABLE f _ l 0 n hb (by decide) (Or.inl ho), hfv f l n (hne f n hb ho)]
  have hxsv : SameService s x := hsv.trans (hx ▸ SameService.of_within (ps := []) ((within_setF _ _ _ _).2
    (noRet_block LINK_LDISABLE l 0 (by decide) hl' (by decide))) (by decide) u)
  have hxst : linkState x l = linkState s l := hxfv LINK_LSTATE 0 rfl (by decide)
  have hxref : fv x POWR_REFCLK = fv s POWR_REFCLK := by
    rw [← hx, fv_setF_block u LINK_LDISABLE POWR_REFCLK _ _ _ _ _ (by decide) (by decide) hl' (by decide) (by decide) (by decide),
      hfv _ _ _ (fldKey_ne_blk _ _ _ _ _ _ (by decide) (by decide) hl' (by decide) (by decide))]
  obtain ⟨h1, h2, h3⟩ := linkTrain_state x l hl' (by rw [hxst]; exact h5) (by rw [← hx, ldisable_setF]; rfl)
  rw [hw] at hrun
  refine ⟨_, hrun, ?_, by rw [fb_answered]; exact h2, fun hs => ?_⟩
  · rw [linkState, fv_answered, ← hxsv.linkDieInService, ← hxsv.limitConds hxref, ← hxsv.build]
    exact h1
  · obtain ⟨hc, hp⟩ := h3 (hxst.trans hs)
    refine ⟨?_, by rw [pending, fv_answered]; exact hp⟩
    rw [counted, fv_answered, hc, hxfv LINK_LCNT 5 rfl (by decide)]

theorem linkDisable_row (s : State) (r : Requester) (l : Nat) (hl : l < nLinks s.build) (h : accepted s r (linkReg s l 0x114) 4 1 = true) :
    ∃ t, exec (.linkDisable r l) s = .next t ∧ fb t LINK_LDISABLE l = true ∧ linkState t l ≠ 1 ∧ linkState t l ≠ 2 ∧
      linkState t l ≠ 4 ∧ (linkState s l = 2 → linkState t l = 3) := by
  have hl' : l < 256 := hl.trans (nLinks_lt _)
  obtain ⟨u, hrun, -, -, -, hfv, -⟩ := exec_linkCtl_row s (.linkDisable r l) r l 1 hl (by decide) (by rw [rowWrite, if_pos hl]) h
  have hw : (linkCtlWrite l 1).run u = (linkHold l).run ((setF LINK_LDISABLE (bits 1 0 0) l).run u) := by
    rw [linkCtlWrite, run_acts_cons, run_acts_cons, run_acts_cons, run_acts_cons, runs_nil, run_onlyIf_of_false _ _ (by decide),
      run_onlyIf_of_false _ _ (by decide), run_onlyIf_of_true _ _ (by decide)]
  generalize hx : (setF LINK_LDISABLE (bits 1 0 0) l).run u = x at hw
  have hxst : linkState x l = linkState s l := by
    rw [← hx, lstate_setF u _ _ l rfl (by decide) (Or.inl (by decide))]
    exact hfv _ _ _ (fldKey_ne_off LINK_LSTATE LINK_LDISABLE l 0 0 rfl (by decide))
  have hst := linkDown_state x l hl'
  have hdis : fb ((linkDown l).run x) LINK_LDISABLE l = true := by
    rw [fb, linkDown_other_reg x l hl' LINK_LDISABLE 0 ⟨rfl, by decide, by decide⟩ (by decide) (by decide)]
    exact (by rw [← hx, ldisable_setF]; rfl : fb x LINK_LDISABLE l = true)
  have hhold : (linkHold l).run x = (onlyIf (linkState ((linkDown l).run x) l == 1 || linkState ((linkDown l).run x) l == 4)
      (setF LINK_LSTATE 3 l)).run ((linkDown l).run x) := by
    rw [linkHold, run_acts_cons, run_acts_cons, runs_nil, runs_look]
  rw [hw, hhold] at hrun
  refine ⟨_, hrun, ?_⟩
  rw [fb_answered, show ∀ t, linkState (answered t r (linkReg s l 0x114)) l = linkState t l from fun t => fv_answered ..]
  rw [hxst] at hst
  by_cases hc : linkState ((linkDown l).run x) l = 1 ∨ linkState ((linkDown l).run x) l = 4
  · have h3 : ∀ w : State, linkState ((setF LINK_LSTATE 3 l).run w) l = 3 := fun w => fv_setF_eq w LINK_LSTATE _ _ _ (by decide) (by decide)
    rw [run_onlyIf_of_true _ _ (by simpa using hc), h3]
    refine ⟨?_, by decide, by decide, by decide, fun _ => rfl⟩
    rw [fb, fv_setF_page _ LINK_LSTATE LINK_LDISABLE _ _ _ _ rfl (by decide) (Or.inl (by decide))]
    exact hdis
  · obtain ⟨h1, h4⟩ := not_or.1 hc
    rw [run_onlyIf_of_false _ _ (by simp [h1, h4])]
    refine ⟨hdis, h1, ?_, h4, fun h2 => by rw [hst, if_pos h2]⟩
    rw [hst]
    split <;> [decide; assumption]

/-- Registers of the device's own on a LINK page, and the device's links, after a link joins. -/
theorem linkJoin_state (s : State) (l : Nat) : (linkSt ((linkJoin l).run s) l).joined = true ∧
    counted s ((linkJoin l).run s) LINK_LDCNT 0 1 (b2n (!(linkSt s l).joined)) := by
  rw [linkJoin, run_look]
  cases hj : (linkSt s l).joined
  · rw [run_onlyIf_of_true _ _ Bool.not_false, run_acts_cons, run_acts_cons, run_acts_cons, runs_nil]
    have hemit : ∀ (c : Bool) (m : OutMsg) (u : State), ((onlyIf c (emit m)).run u).links = u.links ∧ ((onlyIf c (emit m)).run u).regs = u.regs :=
      fun c m u => by cases c <;> exact ⟨rfl, rfl⟩
    refine ⟨?_, ?_⟩
    · rw [linkSt_congr (hemit _ _ _).1, cnt, linkSt_incF, linkSt_updLink]
    · rw [counted, fv_congr _ _ _ _ _ (hemit _ _ _).2, cnt, fv_incF_word _ _ _ _ rfl rfl]
      rfl
  · rw [run_onlyIf_of_false _ _ Bool.not_true]
    refine ⟨hj, ?_⟩
    have := fv_lt s LINK_LDCNT 0 1
    simp only [LINK_LDCNT] at this
    show fv s LINK_LDCNT 0 1 = min (2 ^ 32 - 1) (fv s LINK_LDCNT 0 1 + 0)
    simp only [LINK_LDCNT]
    omega

theorem linkJoin_within (l : Nat) : (linkJoin l).Within [.links, .out] fun k => k = fldKey LINK_LDCNT 0 1 := by
  simp [linkJoin, cnt, Upd.within]

theorem admitLink_row (s : State) (r : Requester) (l : Nat) (hl : l < nLinks s.build) (h : accepted s r (linkReg s l 0x114) 4 2 = true) :
    linkState s l = 2 ∧ ∃ t, exec (.admitLink r l) s = .next t ∧ (linkSt t l).joined = true ∧ linkState t l = 2 ∧
      counted s t LINK_LDCNT 0 1 (b2n (!(linkSt s l).joined)) ∧ memKept s t := by
  have hl' : l < 256 := hl.trans (nLinks_lt _)
  obtain ⟨u, hrun, herr, -, hlinks, hfv, hmem, hsyn, hwr⟩ := exec_linkCtl_row s (.admitLink r l) r l 2 hl (by decide) (by rw [rowWrite, if_pos hl]) h
  have hw : (linkCtlWrite l 2).run u = (linkJoin l).run ((setF LINK_LDISABLE (bits 2 0 0) l).run u) := by
    rw [linkCtlWrite, run_acts_cons, run_acts_cons, run_acts_cons, run_acts_cons, runs_nil, run_onlyIf_of_false _ _ (by decide),
      run_onlyIf_of_true _ _ (by decide), run_onlyIf_of_false _ _ (by decide)]
    rfl
  have h2 : linkState s l = 2 := by
    have := firstErr_when_ok (by decide) (firstErr_append_ok herr).1
    simpa [show bit 2 1 = true from rfl] using this
  have hxfv : ∀ f : Fld, ∀ j n, f.blk = .link → f.off + n * f.stride < 4096 → f.off + n * f.stride ≠ 0x114 →
      fv ((setF LINK_LDISABLE (bits 2 0 0) l).run u) f j n = fv s f j n := by
    intro f j n hb ho hne
    have hk : fldKey f j n ≠ fldKey LINK_LDISABLE l 0 := by
      intro hk
      have h1 := fldKey_mod f j n
      rw [hk, fldKey_mod, Nat.mod_eq_of_lt ho] at h1
      exact hne h1.symm
    rw [fv_setF_other u LINK_LDISABLE f _ _ _ _ _ (by decide) (Or.inl hk), hfv f j n hk]
  have hxlinks : ((setF LINK_LDISABLE (bits 2 0 0) l).run u).links = s.links := hlinks
  have hxmem : memKept s ((setF LINK_LDISABLE (bits 2 0 0) l).run u) :=
    ⟨fun k => congrArg (mapGet memDefault · k) hmem, fun k => congrArg (mapGet synDefault · k) hsyn, fun k => congrArg (mapGet writtenDefault · k) hwr⟩
  generalize (setF LINK_LDISABLE (bits 2 0 0) l).run u = x at hw hxfv hxlinks hxmem
  obtain ⟨h1, h3⟩ := linkJoin_state x l
  have hjw := linkJoin_within l
  rw [hw] at hrun
  refine ⟨h2, _, hrun, h1, ?_, ?_, ?_⟩
  · rw [linkState, fv_answered, hjw.fv x LINK_LSTATE l 0 (linkReg_lstate.ne_ldcnt l 1 (by decide)), hxfv _ _ _ rfl (by decide) (by decide)]
    exact h2
  · rw [counted, fv_answered, h3, hxfv _ _ _ rfl (by decide) (by decide), linkSt_congr hxlinks]
  · obtain ⟨m1, m2, m3⟩ := hjw.memKept x (by decide) (by decide) (by decide)
    obtain ⟨n1, n2, n3⟩ := hxmem
    exact ⟨fun k => (m1 k).trans (n1 k), fun k => (m2 k).trans (n2 k), fun k => (m3 k).trans (n3 k)⟩

/-! ### The end of training -/

/-- A link's registers, and its state, when it comes up at the end of its training. -/
def linkUp (l node far delay loop : Nat) : Act :=
  acts [setF LINK_FAR_VALID 1 l, setF LINK_FAR_LINK far l, setF LINK_FAR_NODE node l,
    setF LINK_LSTATE 2 l, setF LINK_LANES 16 l, setF LINK_DEGRADED 0 l,
    setF LINK_LDELAY delay l, setF LINK_LLOOP loop l, setF LINK_RATE_CAP (rateCap loop) l, raiseEvt (linkPg l) (2 ^ 17)]

/-- The last beacon goes out over a link that has come up. -/
def beaconOver (s : State) (l : Nat) : Act :=
  match s.press.lastBeacon with
  | some b => emit (.beacon l b)
  | none => .done

theorem beaconOver_links (s u : State) (l : Nat) : ((beaconOver s l).run u).links = u.links := by
  unfold beaconOver
  split <;> rfl

/-- What follows: it joins the routing sets where it needs no ADMIT, and the beacon goes out over it. -/
def linkUpRest (s : State) (l : Nat) : Act :=
  acts [onlyIf (!(linkSt s l).needAdmit) (linkJoin l), beaconOver s l]

theorem trainDone_up_run (s : State) (l node far role delay loop : Nat) (h1 : linkState s l = 1) (hm : mayTrain s l = true)
    (hc : cabledOk s l node far role = true) :
    (trainDone l true node far role delay loop).run s = reLevel.run ((linkUpRest s l).run ((linkUp l node far delay loop).run s)) := by
  rw [trainDone, run_look, if_neg (by simp [h1]), if_neg (by simp [hm]), if_neg (by simp [hc])]
  simp only [linkUp, linkUpRest, beaconOver, run_acts_cons, runs_nil] <;> rfl

theorem linkUp_fv (s : State) (l node far delay loop : Nat) (hl : l < 256) (hd : delay < 2 ^ 32) (hp : loop < 2 ^ 32) :
    linkState ((linkUp l node far delay loop).run s) l = 2 ∧ fv ((linkUp l node far delay loop).run s) LINK_LANES l = 16 ∧
      fb ((linkUp l node far delay loop).run s) LINK_DEGRADED l = false ∧ fv ((linkUp l node far delay loop).run s) LINK_LDELAY l = delay ∧
      fv ((linkUp l node far delay loop).run s) LINK_LLOOP l = loop ∧ fv ((linkUp l node far delay loop).run s) LINK_RATE_CAP l = rateCap loop ∧
      pending ((linkUp l node far delay loop).run s) (linkPg l) 17 := by
  have hev : ∀ u : State, ∀ f : Fld, LinkReg f 0 → fv ((raiseEvt (linkPg l) (2 ^ 17)).run u) f l = fv u f l :=
    fun u f hf => linkReg_raiseEvt u _ _ f l 0 hf hl
  have hrate : rateCap loop < 2 ^ 16 := by unfold rateCap; split <;> omega
  have hreg : ∀ f : Fld, f.blk = .link → 0x100 ≤ f.off → f.off < 0x114 → LinkReg f 0 := fun f hb h1 h2 => ⟨hb, by omega, by omega⟩
  simp only [linkUp, run_acts_cons, runs_nil, linkState, fb]
  refine ⟨?_, ?_, ?_, ?_, ?_, ?_, pending_raiseEvt _ _ _ _ (by decide) (by decide)⟩
  all_goals
    rw [hev _ _ (hreg _ rfl (by decide) (by decide))]
    simp (disch := decide) only [fv_setF_page, fv_setF_eq]
  · rfl
  · rfl
  · rfl
  · exact Nat.mod_eq_of_lt hd
  · exact Nat.mod_eq_of_lt hp
  · exact Nat.mod_eq_of_lt hrate

/-- The registers of a link coming up, and of what follows. -/
abbrev upKeys (k : Nat) : Prop := k / 4096 / 256 = blkNum .link ∨ k % 4096 = 0x18 ∨ k = lostKey

theorem linkUp_within (l node far delay loop : Nat) (hl : l < 256) : (linkUp l node far delay loop).Within [.events, .out] upKeys := by
  have hk : ∀ f : Fld, f.blk = .link → f.off + 0 * f.stride < 4096 → upKeys (fldKey f l 0) := fun f hb ho =>
    Or.inl (by rw [(fldKey_parts f l 0 hl ho).1, hb])
  simp only [linkUp, only_acts_cons, only_acts_nil, within_setF, and_true]
  refine ⟨hk _ rfl (by decide), hk _ rfl (by decide), hk _ rfl (by decide), hk _ rfl (by decide), hk _ rfl (by decide), hk _ rfl (by decide),
    hk _ rfl (by decide), hk _ rfl (by decide), hk _ rfl (by decide), (raiseEvt_within _ _).regs ?_⟩
  rintro k (rfl | rfl)
  · exact Or.inr (Or.inl (fldKey_mod _ _ _))
  · exact Or.inr (Or.inr rfl)

theorem linkUpRest_within (s : State) (l : Nat) : (linkUpRest s l).Within [.links, .out] fun k => k = fldKey LINK_LDCNT 0 1 := by
  simp only [linkUpRest, only_acts_cons, only_acts_nil, only_onlyIf_iff, and_true]
  refine ⟨fun _ => linkJoin_within l, ?_⟩
  unfold beaconOver
  split
  · simp [Upd.within]
  · trivial

theorem noRet_of_up (k : Nat) (h : upKeys k) : noRet k := by
  rcases h with h | h | rfl
  · rintro ⟨h1, -, -⟩
    rw [h1, Nat.mul_div_cancel _ (by decide)] at h
    exact absurd h (by decide)
  · exact noRet_off _ (by omega)
  · exact noRet_lost

/-- A field of another block, above its header, is as it was while a link comes up. -/
theorem not_upKeys (f : Fld) (n : Nat) (hb : f.blk ≠ .link) (hs : f.blk ≠ .slqp) (ho : f.off + n * f.stride < 4096) (h18 : f.off + n * f.stride ≠ 0x18) :
    ¬ upKeys (fldKey f 0 n) := by
  obtain ⟨h1, h2⟩ := fldKey_parts f 0 n (by decide) ho
  rintro (h | h | h)
  · exact hb (blkNum_inj _ _ (h1.symm.trans h))
  · exact h18 (h2.symm.trans h)
  · rw [h, lostKey_block] at h1
    exact hs (blkNum_inj _ _ h1.symm)

theorem linkTrainingDone_up (s : State) (l node far role delay loop : Nat) (hln : l < nLinks s.build) (hd : delay < 2 ^ 32) (hp : loop < 2 ^ 32)
    (h1 : linkState s l = 1) (hlev : fb s ENET_LINK_UP = true ∨ level s ≠ 3) (hm : mayTrain s l = true) (hc : cabledOk s l node far role = true) :
    ∃ t, exec (.linkTrainingDone l true node far role delay loop) s = .next t ∧ linkState t l = 2 ∧
       fv t LINK_LANES l = 16 ∧ fb t LINK_DEGRADED l = false ∧ fv t LINK_LDELAY l = delay ∧ fv t LINK_LLOOP l = loop ∧
       fv t LINK_RATE_CAP l = rateCap loop ∧ pending t (linkPg l) 17 ∧
       ((linkSt s l).needAdmit = false → (linkSt t l).joined = true) ∧
       ((linkSt s l).needAdmit = true → linkSt t l = linkSt s l) := by
  have hl : l < 256 := hln.trans (nLinks_lt _)
  obtain ⟨g1, g2, g3, g4, g5, g6, g7⟩ := linkUp_fv s l node far delay loop hl hd hp
  have hw1 := linkUp_within l node far delay loop hl
  have hw2 := linkUpRest_within s l
  generalize hx : (linkUp l node far delay loop).run s = x at g1 g2 g3 g4 g5 g6 g7
  have hxlinks : x.links = s.links := hx ▸ hw1.same .links (by decide) s
  generalize hy : (linkUpRest s l).run x = y
  have hyfv : ∀ f n, LinkReg f n → fv y f l n = fv x f l n := fun f n hf =>
    hy ▸ hw2.fv x f l n (fun hk => hf.ne_ldcnt l 1 (by decide) hk)
  have hsv : SameService s y := by
    refine (hx ▸ SameService.of_within (hw1.regs noRet_of_up) (by decide) s : SameService s x).trans ?_
    rw [← hy]
    exact SameService.of_within (hw2.regs fun k hk => by rw [hk]; exact noRet_fldKey _ _ _ (by decide) (by decide)) (by decide) x
  have hother : ∀ f n, f.blk ≠ .link → f.blk ≠ .slqp → f.off + n * f.stride < 4096 → f.off + n * f.stride ≠ 0x18 → fv y f 0 n = fv s f 0 n := by
    intro f n hb hs ho h18
    rw [← hy, hw2.fv x f 0 n (fldKey_ne_blk _ _ _ _ _ _ hb (by decide) (by decide) ho (by decide)), ← hx,
      hw1.fv s f 0 n (not_upKeys f n hb hs ho h18)]
  have hst : linkState y l = 2 := (hyfv _ _ linkReg_lstate).trans g1
  have hstill : level y = 3 → (if fb y ENET_LINK_UP then levelOf (limitConds y) else 0) = 3 := by
    intro h3
    have hup : fb y ENET_LINK_UP = true := by
      rw [fb, hother ENET_LINK_UP 0 (by decide) (by decide) (by decide) (by decide)]
      rcases hlev with h | h
      · exact h
      · exact absurd ((hother HLTH_LEVEL 0 (by decide) (by decide) (by decide) (by decide)).symm.trans h3) h
    have hmay := hm
    unfold mayTrain at hmay
    simp only [Bool.and_eq_true, beq_iff_eq] at hmay
    obtain ⟨⟨⟨hdie, -⟩, -⟩, hlim⟩ := hmay
    have hlim' : limitConds y % 32 = 0 :=
      (hsv.limitConds (hother POWR_REFCLK 0 (by decide) (by decide) (by decide) (by decide))).trans hlim
    have htr : (trainedLinks y).isEmpty = false := by
      have hmem : l ∈ trainedLinks y := List.mem_filter.2 ⟨List.mem_range.2 (by rw [hsv.build]; exact hln), by
        rw [hst, hsv.build, hsv.linkDieInService, hdie]; rfl⟩
      rw [List.isEmpty_eq_false_iff]
      exact List.ne_nil_of_mem hmem
    have hz : limitConds y = 0 := by
      have hb2 : ∀ b : Bool, b2n b ≤ 1 := fun b => by cases b <;> decide
      unfold limitConds at hlim' ⊢
      dsimp only at hlim' ⊢
      rw [htr] at hlim' ⊢
      have e1 := hb2 (rangeF 2 (dieInService y)).isEmpty
      have e2 := hb2 (!(rangeF 2 (dieInService y)).any fun d => !(ownHbm y d).isEmpty)
      have e3 := hb2 (!(rangeF 2 (dieInService y)).any fun d => (ownHbm y d).any (ueInService y))
      have e4 := hb2 (!bit (fv y POWR_REFCLK) 1)
      have e5 := hb2 (((linkSites y.build).filter (linkDieInService y)).isEmpty)
      have e6 : b2n false = 0 := rfl
      omega
    rw [hup, hz]
    rfl
  obtain ⟨r1, r2⟩ := reLevel_still y hstill
  have hev := pending_reLevel (linkPg l) 17 y
  refine ⟨_, congrArg Host.Outcome.next (trainDone_up_run s l node far role delay loop h1 hm hc), ?_⟩
  rw [hx, hy]
  have hfv : ∀ f, f.blk = .link → 0x100 ≤ f.off → f.off < 0x114 → fv (reLevel.run y) f l = fv x f l := fun f hb h1 h2 =>
    (r2 f l 0 ⟨hb, by omega, by omega⟩ hl).trans (hyfv f 0 ⟨hb, by omega, by omega⟩)
  refine ⟨(hfv _ rfl (by decide) (by decide)).trans g1, (hfv _ rfl (by decide) (by decide)).trans g2, ?_,
    (hfv _ rfl (by decide) (by decide)).trans g4, (hfv _ rfl (by decide) (by decide)).trans g5, (hfv _ rfl (by decide) (by decide)).trans g6,
    hev ?_, fun hn => ?_, fun hn => ?_⟩
  · rw [fb, hfv _ rfl (by decide) (by decide)]; exact g3
  · exact hy ▸ pending_of_within hw2 (fun k hk => by rw [hk]; decide) _ _ x g7
  · rw [linkSt_congr r1, ← hy, linkUpRest, run_acts_cons, run_acts_cons, runs_nil, run_onlyIf_of_true _ _ (by rw [hn]; rfl)]
    rw [linkSt_congr (beaconOver_links s _ l)]
    exact (linkJoin_state x l).1
  · rw [linkSt_congr r1, ← hy, linkUpRest, run_acts_cons, run_acts_cons, runs_nil, run_onlyIf_of_false _ _ (by rw [hn]; rfl)]
    rw [linkSt_congr ((beaconOver_links s _ l).trans hxlinks)]

theorem linkTrainingDone_row (s : State) (l node far role delay loop : Nat) (ok : Bool) (hln : l < nLinks s.build) (hnode : node < 2 ^ 14)
    (hfar : far < 64) (hd : delay < 2 ^ 32) (hp : loop < 2 ^ 32) (h1 : linkState s l = 1) (hlev : fb s ENET_LINK_UP = true ∨ level s ≠ 3) :
    (let ex := exec (.linkTrainingDone l ok node far role delay loop) s
     (ok = false ∨ mayTrain s l = false → ∃ t, ex = .next t ∧ linkState t l = 3 ∧ t.links = s.links ∧ memKept s t) ∧
     (ok = true → mayTrain s l = true → cabledOk s l node far role = false → ∃ t, ex = .next t ∧ linkState t l = 4 ∧
       fv t LINK_FAR_NODE l = node ∧ fv t LINK_FAR_LINK l = far ∧ pending t (linkPg l) 20 ∧ t.links = s.links) ∧
     (ok = true → mayTrain s l = true → cabledOk s l node far role = true → ∃ t, ex = .next t ∧ linkState t l = 2 ∧
       fv t LINK_LANES l = 16 ∧ fb t LINK_DEGRADED l = false ∧ fv t LINK_LDELAY l = delay ∧ fv t LINK_LLOOP l = loop ∧
       fv t LINK_RATE_CAP l = rateCap loop ∧ pending t (linkPg l) 17 ∧
       ((linkSt s l).needAdmit = false → (linkSt t l).joined = true) ∧
       ((linkSt s l).needAdmit = true → linkSt t l = linkSt s l))) := by
  have hl : l < 256 := hln.trans (nLinks_lt _)
  have hrun : exec (.linkTrainingDone l ok node far role delay loop) s = .next ((trainDone l ok node far role delay loop).run s) := rfl
  dsimp only
  refine ⟨fun h => ⟨_, hrun, ?_⟩, fun hok hm hc => ⟨_, hrun, ?_⟩, fun hok hm hc => ?_⟩
  · rw [trainDone, run_look, if_neg (by simp [h1]), if_pos (by rcases h with h | h <;> simp [h])]
    exact ⟨fv_setF_eq _ LINK_LSTATE _ _ _ (by decide) (by decide), rfl, fun _ => rfl, fun _ => rfl, fun _ => rfl⟩
  · rw [trainDone, run_look, if_neg (by simp [h1]), if_neg (by simp [hok, hm]), if_pos (by simp [hc])]
    simp only [run_acts_cons, runs_nil]
    have hev : ∀ u : State, ∀ f : Fld, LinkReg f 0 → fv ((raiseEvt (linkPg l) (2 ^ 20)).run u) f l = fv u f l :=
      fun u f hf => linkReg_raiseEvt u _ _ f l 0 hf hl
    refine ⟨?_, ?_, ?_, pending_raiseEvt _ _ _ _ (by decide) (by decide), (raiseEvt_within _ _).same .links (by decide) _⟩
    · rw [linkState, hev _ _ ⟨rfl, by decide, by decide⟩, fv_setF_eq _ _ _ _ _ (by decide) (by decide)]
      rfl
    · rw [hev _ _ ⟨rfl, by decide, by decide⟩]
      simp (disch := decide) only [fv_setF_page, fv_setF_eq]
      exact Nat.mod_eq_of_lt hnode
    · rw [hev _ _ ⟨rfl, by decide, by decide⟩]
      simp (disch := decide) only [fv_setF_page, fv_setF_eq]
      exact Nat.mod_eq_of_lt hfar
  · subst hok
    exact linkTrainingDone_up s l node far role delay loop hln hd hp h1 hlev hm hc

theorem linkRxSilence_row (s : State) (l : Nat) (hl : l < 256) :
    (linkState s l = 2 → ∃ t, exec (.linkRxSilence l) s = .next t ∧ linkState t l = 3 ∧ counted s t LINK_LCNT l 5 1 ∧
      pending t (linkPg l) 16 ∧ fv t LINK_LANES l = 0) ∧
    (linkState s l ≠ 2 → exec (.linkRxSilence l) s = .next s) := by
  have hrun : exec (.linkRxSilence l) s = .next ((linkDown l).run s) := rfl
  refine ⟨fun h => ⟨_, hrun, ?_, linkDown_counts s l hl h⟩, fun h => by rw [hrun, linkDown_of_not_up s l h]⟩
  rw [linkDown_state s l hl, if_pos h]

theorem linkAutoRetrain_row (s : State) (l : Nat) : ∃ t, exec (.linkAutoRetrain l) s = .next t ∧
    (linkState s l = 3 → mayTrain s l = true → linkState t l = 1 ∧ regsKept s t [fldKey LINK_LSTATE l 0]) ∧
    (linkState s l ≠ 3 ∨ mayTrain s l = false → t = s) := by
  have hrun : exec (.linkAutoRetrain l) s = .next ((linkAuto l).run s) := rfl
  refine ⟨_, hrun, fun h hm => ?_, fun h => ?_⟩
  · rw [linkAuto, run_look, run_onlyIf_of_true _ _ (by simp [h, hm])]
    have hw : (setF LINK_LSTATE 1 l).Within [] fun k => k = fldKey LINK_LSTATE l 0 := (within_setF _ _ _ _).2 rfl
    exact ⟨fv_setF_eq _ LINK_LSTATE _ _ _ (by decide) (by decide), hw.regsKept s _ fun k hk => by simp [hk]⟩
  · rw [linkAuto, run_look, run_onlyIf_of_false]
    rcases h with h | h <;> simp [h]

/-! ### A spare takes an ID -/

/-- Each page of a list has its event pending once all have been raised. -/
theorem pending_each_event (s : State) (L : List PageRef) (m i : Nat) (hm : m < 2 ^ 32) (hi : m.testBit i = true) (p : PageRef) (hp : p ∈ L) :
    pending ((each L fun p => raiseEvt p m).run s) p i := by
  induction L generalizing s with
  | nil => cases hp
  | cons q L ih =>
    rw [run_each_cons]
    rcases List.mem_cons.1 hp with rfl | hp
    · exact stable_each (fun q _ => pending_event q m hm p i) _ (pending_raiseEvt p m i s hm hi)
    · exact ih _ hp

theorem pending_raiseLinks_self (s : State) (m i l : Nat) (hm : m < 2 ^ 32) (hi : m.testBit i = true) (hl : l < nLinks s.build) :
    pending ((raiseLinks m).run s) (linkPg l) i := by
  have h := pending_each_event s ((List.range (nLinks s.build)).map linkPg) m i hm hi (linkPg l) (List.mem_map.2 ⟨l, List.mem_range.2 hl, rfl⟩)
  have hmap : ∀ (L : List Nat) (u : State), (each (L.map linkPg) fun p => raiseEvt p m).run u = (each L fun l => raiseEvt ⟨.link, l⟩ m).run u := by
    intro L
    induction L with
    | nil => exact fun _ => rfl
    | cons j L ih => exact fun u => by rw [List.map_cons, run_each_cons, run_each_cons, ih]; rfl
  rw [raiseLinks, run_look, ← hmap]
  exact h

theorem sendAssume_noRegs (target h : Nat) : (sendAssume target h).Within fabricParts fun _ => False := by
  simp only [sendAssume, only_look_iff, only_each_iff]
  exact fun _ _ _ => enqueue_noRegs _ _

/-- What a spare does once it has its new ID: the roles of its links, and its place in the impression. -/
theorem roleOnAssume_within : roleOnAssume.Within [.press, .events, .out]
    fun k => k = fldKey PRES_ROLE 0 0 ∨ k = fldKey (hdrEvtPend .pres) 0 0 ∨ k = lostKey := by
  simp only [roleOnAssume, setRole, only_acts_cons, only_acts_nil, within_updPress, only_look_iff, only_onlyIf_iff, within_setF, and_true]
  exact ⟨by decide, fun _ _ _ _ => ⟨Or.inl trivial, (raiseEvt_within _ _).mono (by decide) fun k hk => Or.inr hk⟩⟩

theorem pending_roleOnAssume (q : PageRef) (i : Nat) : roleOnAssume.Stable fun s => pending s q i := by
  refine stable_cons (pending_of_noRegs q i (ps := [.press]) (by simp)) (stable_cons (stable_look fun _ => stable_onlyIf fun _ =>
    stable_look fun _ => stable_onlyIf fun _ => ?_) stable_nil)
  exact stable_cons (pending_setF _ _ _ _ (by decide) q i) (stable_cons (pending_event _ _ (by decide) q i) stable_nil)

theorem assumeTakeEffect_row (s : State) (rel : Bool) (target h : Nat) (ha : s.fab.assume = some (rel, target, h)) (ht : target < 2 ^ 14)
    (hu : unsync s = false) (hh : h ≤ s.press.imp) : ∃ t, exec .assumeTakeEffect s = .next t ∧ t.fab.assume = none ∧
      t.fab.assumed = (if rel then none else some target) ∧ nodeId t = (if rel then homeId s else target) ∧
      fb t LINK_NODE_SPARE = rel ∧ ∀ l, l < nLinks s.build → pending t (linkPg l) 22 := by
  have hrun : exec .assumeTakeEffect s = .next (assumeTake.run s) := rfl
  refine ⟨_, hrun, ?_⟩
  have hid : (if rel then homeId s else target) < 2 ^ 14 := by
    split
    · exact fv_lt s LINK_HOME_ID 0 0
    · exact ht
  rw [assumeTake, run_look, ha]
  dsimp only
  rw [if_neg (by simp [hu, hh])]
  simp only [run_acts_cons, runs_nil]
  generalize (if rel then homeId s else target) = id_ at hid
  generalize hx : (updFab fun f => { f with assume := none, assumed := if rel = true then none else some target }).run s = x
  have hxfab : x.fab.assume = none ∧ x.fab.assumed = if rel = true then none else some target := hx ▸ ⟨rfl, rfl⟩
  have hxb : x.build = s.build := hx ▸ rfl
  have hw := roleOnAssume_within
  have hsame : ∀ a : Act, ∀ ps ks, a.Within ps ks → Part.fab ∉ ps → ∀ u : State, (a.run u).fab = u.fab := fun a ps ks h hp u => h.same .fab hp u
  have hfab : (roleOnAssume.run ((sendAssume id_ h).run ((raiseLinks (2 ^ 22)).run ((setF LINK_NODE_SPARE (b2n rel)).run
      ((setF LINK_NODE_ID id_).run x))))).fab = x.fab := by
    rw [hsame _ _ _ hw (by decide), hsame _ _ _ (sendAssume_noRegs _ _) (by decide), hsame _ _ _ (raiseLinks_sendKeys _) (by decide)]
    rfl
  have hfv : ∀ f : Fld, fldKey f 0 0 = fldKey LINK_NODE_ID 0 0 → ∀ u : State,
      fv (roleOnAssume.run ((sendAssume id_ h).run ((raiseLinks (2 ^ 22)).run u))) f = fv u f := by
    intro f hk u
    rw [hw.fv _ f 0 0 (by rw [hk]; decide), (sendAssume_noRegs _ _).fv _ f 0 0 id, (raiseLinks_sendKeys _).fv _ f 0 0 (by rw [hk]; decide)]
  refine ⟨by rw [hfab]; exact hxfab.1, by rw [hfab]; exact hxfab.2, ?_, ?_, fun l hl => ?_⟩
  · rw [nodeId, hfv _ rfl, fv_setF_page _ LINK_NODE_SPARE LINK_NODE_ID _ _ _ _ rfl (by decide) (Or.inr (by decide)),
      fv_setF_eq _ _ _ _ _ (by decide) (by decide)]
    exact Nat.mod_eq_of_lt hid
  · rw [fb, hfv _ (by decide), fv_setF_eq _ _ _ _ _ (by decide) (by decide)]
    cases rel <;> rfl
  · exact pending_roleOnAssume _ _ _ (pending_of_noRegs _ _ (sendAssume_noRegs _ _) _
      (pending_raiseLinks_self _ _ _ _ (by decide) (by decide) (by show l < nLinks x.build; rw [hxb]; exact hl)))

/-- Settles O48. -/
theorem linksTrainFallAndRejoin : Obligations.LinksTrainFallAndRejoin := by
  unfold Obligations.LinksTrainFallAndRejoin
  refine ⟨linkRetrain_row, linkDisable_row, admitLink_row, linkTrainingDone_row, linkRxSilence_row, linkAutoRetrain_row, assumeTakeEffect_row,
    fun s target node h => ?_⟩
  have hrun : exec (.assume target node h) s = .next ((assumeNote target node h).run s) := rfl
  refine ⟨_, hrun, fun he => ?_, fun he => ?_⟩
  · rw [assumeNote, if_pos he]; rfl
  · rw [assumeNote, if_neg he]; rfl

end Sys2Proof.Machine
end

section
/-! PROOF. The shares of background work (R430 to R432): a bubble window that no register of PRES names. -/

namespace Sys2Proof.Machine

/-- A bubble window far past those of PRES: the register of its points is that of BKGD's pending events. -/
def strayWindow : Nat := 2752483

/-- After reset, with PATROL enabled on the MGD's own memory and in BKGD at a share of 1/256, and with the stray window open from
point 0 to 255. -/
def strayState : State :=
  (acts [setF BKGD_ACT_EN 1, setF BKGD_ACT_SHARE 1, setF INTG_PATROL_EN 1 200, setF PRES_PERIOD_CUR 65536,
    setKey (fldKey PRES_BUB_END 0 strayWindow) (255 * 2 ^ 32), updPress fun p => { p with open_ := [strayWindow] }]).run State.reset

/-- What a grant of 1 ns of PATROL, far behind its period, leaves. -/
def strayGrant : State := (bkGrant 0 0 200 1 0 100000).run strayState

/-- The event that STEALING raises moves the window's first point, and the grant no longer fits its share. -/
theorem strayGrant_nothing : strayGrant.bkUsed = [] ∧ strayState.bkUsed = [] := by decide +kernel

theorem stray_fits : fb strayState BKGD_ACT_EN 0 0 = true ∧ bkUnitOk strayState 0 0 200 = true ∧ windowOpen strayState = true ∧
    pointsOf strayState 1 ≤ (windowLeft strayState).1 ∧
    (bkPoints strayState 0 (0 * 256 + 200) + pointsOf strayState 1) * 256 ≤ fv strayState BKGD_ACT_SHARE 0 0 * (windowLeft strayState).2 := by
  decide +kernel

/-- Refutes O60: with an open window that no register of PRES names, the registers of its points are another page's, here
BKGD's own EVT_PEND; the event that the grant itself raises moves the window's first point, and a grant that fitted its share is
not made. -/
theorem not_healthIsKept : ¬ Obligations.HealthIsKept := by
  unfold Obligations.HealthIsKept
  rintro ⟨h, -⟩
  obtain ⟨hen, hunit, hwin, hpts, hshare⟩ := stray_fits
  obtain ⟨t, ht, -, hused, -⟩ := ((h strayState 0 0 200 1 0 100000).2 (by decide) hen).1 hunit hwin hpts hshare
  obtain ⟨hgrant, hnone⟩ := strayGrant_nothing
  have hrun : exec (.bkgdGrant 0 0 200 1 0 100000) strayState = .next strayGrant := rfl
  obtain rfl : strayGrant = t := Host.Outcome.next.inj (hrun.symm.trans ht)
  rw [hgrant, hnone] at hused
  exact absurd hused (by simp)

end Sys2Proof.Machine
end

section
/-! PROOF. Ethernet frames: receipt, answers, pauses, congestion notices and the clock (R387 to R389). -/

namespace Sys2Proof.Machine

/-! ### Frames -/

/-- Whether a frame is accepted rests on registers below the counters' page offset. -/
theorem frameKept_congr (s t : State) (f : EthFrame) (h : ∀ g : Fld, g.blk = .enet → g.off < 0xC4 → fv t g = fv s g) :
    frameKept t f = frameKept s f := by
  simp only [frameKept, frameOk, ip4Ok, ip6Ok, ownIp6, fb, h ENET_IP4 rfl (by decide), h ENET_IP6_HI rfl (by decide), h ENET_IP6_LO rfl (by decide),
    h ENET_VLAN_EN rfl (by decide), h ENET_VLAN_ID rfl (by decide), h ENET_PFC_EN rfl (by decide)]

/-- A frame that is not accepted carries nothing to the responder or to Slaiq. -/
theorem frame_discarded (s : State) (f : EthFrame) (h : frameKept s f = false) : (acts [frameRoce f, frameSlaiq f]).run s = s := by
  have h1 : (frameRoce f).run s = s := by
    rw [frameRoce, run_look]
    split
    · exact runs_done s
    · exact run_onlyIf_of_false _ _ (by simp [h])
  have h2 : (frameSlaiq f).run s = s := by
    rw [frameSlaiq, run_look, slqOfFrame, if_neg (by simp [h])]
    exact runs_done s
  rw [run_acts_cons, h1, run_acts_cons, h2, runs_nil]

/-- With the link down a Slaiq message meets nothing. -/
theorem slqRequest_linkDown (s : State) (m : SlqMsg) (w : SlqEnd → Act) (h : fb s ENET_LINK_UP = false) : (slqRequest m w).run s = s := by
  rw [slqRequest, run_look, h]; exact runs_done s

theorem frame_linkDown (s : State) (f : EthFrame) (h : fb s ENET_LINK_UP = false) : exec (.ethFrameReceive f) s = .next s := by
  have h0 : (frameReceive f).run s = s := by rw [frameReceive, run_look]; exact run_onlyIf_of_false _ _ h
  have h1 : (frameRoce f).run s = s := by
    rw [frameRoce, run_look]
    split
    · exact runs_done s
    · exact run_onlyIf_of_false _ _ (by simp [h])
  have h2 : (frameSlaiq f).run s = s := by
    rw [frameSlaiq, run_look]
    split
    · next m _ =>
      rw [slqOther]
      cases (slqRow m.bytes).isNone
      · exact run_onlyIf_of_false _ _ rfl
      · rw [run_onlyIf_of_true _ _ rfl, slqRequest_linkDown s m _ h]
    · exact runs_done s
  show Host.Outcome.next ((acts [frameReceive f, frameRoce f, frameSlaiq f]).run s) = _
  rw [run_acts_cons, h0, run_acts_cons, h1, run_acts_cons, h2, runs_nil]

/-! ### The receive buffer's shares -/

/-- Whether a priority's share is to be held back. -/
def pfcNow (s : State) (p fill : Nat) : Bool :=
  bit (fv s ENET_PFC_EN) p && (if bit s.eth.xoff p then decide (786432 ≤ fill) else decide (1048576 < fill))

/-- What a share's crossing sets going. -/
def pfcTurn (p : Nat) (now : Bool) : Act :=
  acts [updEth fun e => { e with xoff := setBit e.xoff p now }, emit (.pfc p now), ethCnt 2]

theorem pfcCheck_run (s : State) (p fill : Nat) :
    (pfcCheck p fill).run s = (onlyIf (pfcNow s p fill != bit s.eth.xoff p) (pfcTurn p (pfcNow s p fill))).run s := (rfl)

theorem bit_setBit_self (v i : Nat) (x : Bool) : bit (setBit v i x) i = x := by
  rw [bit, setBit, testBit_setBits, if_pos ⟨le_refl i, by omega⟩, Nat.sub_self]
  cases x <;> rfl

/-- A share that crosses: the flag turns, the peer is told, and the turn is counted. -/
theorem pfcTurn_state (s : State) (p : Nat) (now : Bool) :
    bit ((pfcTurn p now).run s).eth.xoff p = now ∧ ((pfcTurn p now).run s).out = .pfc p now :: s.out ∧
      counted s ((pfcTurn p now).run s) ENET_ECNT 0 2 1 := by
  rw [pfcTurn, run_acts_cons, run_acts_cons, run_acts_cons, runs_nil]
  refine ⟨bit_setBit_self _ _ _, rfl, ?_⟩
  rw [counted, ethCnt, cnt, fv_incF_word _ ENET_ECNT 0 2 rfl rfl]
  rfl

/-- A field of the ENET page that is not the counter of turns. -/
theorem pfcCheck_fv (s : State) (p fill : Nat) (g : Fld) (m : Nat) (hb : g.blk = .enet) (ho : g.off + m * g.stride ≠ 0xC4 + 2 * 4) :
    fv ((pfcCheck p fill).run s) g 0 m = fv s g 0 m := by
  rw [pfcCheck_run, fv_onlyIf, pfcTurn, run_acts_cons, run_acts_cons, run_acts_cons, runs_nil, ethCnt, cnt,
    fv_incF_page _ ENET_ECNT g 1 0 2 m hb (by decide) (Or.inl ho)]
  exact ite_self _


theorem within_updEth {ps : List Part} {ks : Nat → Prop} (f : Eth → Eth) : (updEth f).Within ps ks ↔ Part.eth ∈ ps := by
  simp [updEth, Upd.within]; exact ⟨fun h => h State.reset, fun h _ => h⟩

/-- A receipt's counters are all it writes of the registers. -/
abbrev ecntKeys (k : Nat) : Prop := ∃ n, k = fldKey ENET_ECNT 0 n

theorem pfcCheck_within (p fill : Nat) : (pfcCheck p fill).Within [.eth, .out] ecntKeys := fun s => by
  refine only_onlyIf _ _ _ fun _ => ?_
  simp only [only_acts_cons, only_acts_nil, and_true, within_updEth, ethCnt, cnt, within_incF, only_emit_iff, Upd.within]
  exact ⟨by decide, by decide, 2, rfl⟩

theorem discard_within (p fill : Nat) : (acts [ethCnt 0, pfcCheck p fill]).Within [.eth, .out] ecntKeys := by
  simp only [only_acts_cons, only_acts_nil, ethCnt, cnt, within_incF]
  exact ⟨⟨0, rfl⟩, pfcCheck_within p fill, trivial⟩

/-- A frame that is not accepted, with the link up. -/
theorem frame_refused (s : State) (f : EthFrame) (h : fb s ENET_LINK_UP = true) (hk : frameKept s f = false) :
    exec (.ethFrameReceive f) s = .next ((acts [ethCnt 0, pfcCheck (framePrio f) f.fill]).run s) := by
  rw [run_acts_cons, run_acts_cons, runs_nil]
  have hr : (frameReceive f).run s = (pfcCheck (framePrio f) f.fill).run ((ethCnt 0).run s) := by
    rw [frameReceive, run_look, run_onlyIf_of_true _ _ h, run_acts_cons, run_acts_cons, runs_nil, run_onlyIf_of_true _ _ (by rw [hk]; rfl)]
  have hkept : frameKept ((frameReceive f).run s) f = false := by
    rw [← hk, hr]
    refine frameKept_congr _ _ f fun g hb ho => ?_
    rw [pfcCheck_fv _ _ _ g 0 hb (by omega), ethCnt, cnt, fv_incF_page _ ENET_ECNT g 1 0 0 0 hb (by decide) (Or.inl (by simp [ENET_ECNT]; omega))]
  show Host.Outcome.next ((acts [frameReceive f, frameRoce f, frameSlaiq f]).run s) = _
  rw [run_acts_cons, frame_discarded _ f hkept, hr]

theorem framePrio_lt (f : EthFrame) : framePrio f < 8 := Nat.mod_lt _ (by decide)

/-- A field's value after the port's counter of discards has gone up. -/
theorem pfcNow_discard (s : State) (p fill : Nat) : pfcNow ((ethCnt 0).run s) p fill = pfcNow s p fill := by
  unfold pfcNow
  rw [ethCnt, cnt, fv_incF_page _ ENET_ECNT ENET_PFC_EN 1 0 0 0 rfl (by decide) (Or.inl (by decide))]
  rfl

theorem counted_discard (s : State) (n : Nat) (hn : n ≠ 0) : fv ((ethCnt 0).run s) ENET_ECNT 0 n = fv s ENET_ECNT 0 n := by
  rw [ethCnt, cnt, fv_incF_page _ ENET_ECNT ENET_ECNT 1 0 0 n rfl (by decide) (Or.inl (by simp [ENET_ECNT]; omega))]

/-- What a frame that is not accepted leaves. -/
theorem frame_refused_state (s : State) (f : EthFrame) (h : fb s ENET_LINK_UP = true) (hk : frameKept s f = false) :
    ∃ t, exec (.ethFrameReceive f) s = .next t ∧ counted s t ENET_ECNT 0 0 1 ∧
      memKept s t ∧ t.eth.qps = s.eth.qps ∧ t.sessions = s.sessions ∧
      (pfcNow s (framePrio f) f.fill ≠ bit s.eth.xoff (framePrio f) →
        bit t.eth.xoff (framePrio f) = pfcNow s (framePrio f) f.fill ∧
        t.out = .pfc (framePrio f) (pfcNow s (framePrio f) f.fill) :: s.out ∧ counted s t ENET_ECNT 0 2 1) := by
  have hr : (acts [ethCnt 0, pfcCheck (framePrio f) f.fill]).run s = (pfcCheck (framePrio f) f.fill).run ((ethCnt 0).run s) := by
    rw [run_acts_cons, run_acts_cons, runs_nil]
  have hx : bit ((ethCnt 0).run s).eth.xoff (framePrio f) = bit s.eth.xoff (framePrio f) := rfl
  refine ⟨_, frame_refused s f h hk, ?_, (discard_within _ _).memKept s (by decide) (by decide) (by decide), ?_,
    (discard_within _ _).same .sessions (by decide) s, fun hc => ?_⟩
  · rw [hr, counted, pfcCheck_fv _ _ _ ENET_ECNT 0 rfl (by decide), ethCnt, cnt, fv_incF_word _ ENET_ECNT 0 0 rfl rfl]
  · rw [hr, pfcCheck_run]
    cases pfcNow ((ethCnt 0).run s) (framePrio f) f.fill != bit ((ethCnt 0).run s).eth.xoff (framePrio f) <;> rfl
  · rw [hr, pfcCheck_run, pfcNow_discard, hx, run_onlyIf_of_true _ _ (bne_iff_ne.2 hc)]
    obtain ⟨h1, h2, h3⟩ := pfcTurn_state ((ethCnt 0).run s) (framePrio f) (pfcNow s (framePrio f) f.fill)
    refine ⟨h1, h2, ?_⟩
    rw [counted, h3, counted_discard s 2 (by decide)]

/-! ### Pauses -/

/-- The sum of the powers a predicate names. -/
def powSum (P : Nat → Bool) (n : Nat) : Nat := sumN ((rangeF n P).map (2 ^ ·))

theorem powSum_succ (P : Nat → Bool) (n : Nat) : powSum P (n + 1) = powSum P n + if P n then 2 ^ n else 0 := by
  unfold powSum rangeF sumN
  rw [List.range_succ, List.filter_append, List.map_append, List.foldl_append]
  cases h : P n <;> simp [h]

theorem powSum_lt (P : Nat → Bool) (n : Nat) : powSum P n < 2 ^ n := by
  induction n with
  | zero => exact Nat.one_pos
  | succ n ih =>
    rw [powSum_succ, Nat.pow_succ]
    split <;> omega

/-- The bits of such a sum are the predicate's values. -/
theorem testBit_powSum (P : Nat → Bool) (n i : Nat) : i < n → (powSum P n).testBit i = P i := by
  induction n with
  | zero => omega
  | succ n ih =>
    intro hi
    rw [powSum_succ]
    have hlt := powSum_lt P n
    rcases Nat.lt_succ_iff_lt_or_eq.1 hi with h | rfl
    · rw [← ih h]
      cases P n
      · rfl
      · rw [if_pos rfl, Nat.add_comm, Nat.testBit_two_pow_add_gt h]
    · cases hP : P i
      · rw [if_neg (by decide), Nat.add_zero, Nat.testBit_lt_two_pow hlt]
      · rw [if_pos rfl, Nat.add_comm, Nat.testBit_two_pow_add_eq, Nat.testBit_lt_two_pow hlt]; rfl

/-- Which priorities are paused after a pause frame. -/
def pausedAfter (s : State) (named paused i : Nat) : Bool :=
  if bit named i && bit (fv s ENET_PFC_EN) i then bit paused i else bit s.eth.paused i

theorem pauseReceive_run (s : State) (named paused : Nat) (h : fb s ENET_LINK_UP = true) :
    (pauseReceive named paused).run s = (updEth fun e => { e with paused := powSum (pausedAfter s named paused) 8 }).run ((ethCnt 1).run s) := by
  rw [pauseReceive, run_look, run_onlyIf_of_true _ _ h, run_acts_cons, run_acts_cons, runs_nil]
  rfl

theorem pauseReceive_state (s : State) (named paused : Nat) (h : fb s ENET_LINK_UP = true) :
    ∃ t, exec (.pfcPauseReceive named paused) s = .next t ∧ counted s t ENET_ECNT 0 1 1 ∧ memKept s t ∧ t.out = s.out ∧
      ∀ i, i < 8 → bit t.eth.paused i = pausedAfter s named paused i := by
  refine ⟨_, congrArg Host.Outcome.next (pauseReceive_run s named paused h), ?_, ⟨fun _ => rfl, fun _ => rfl, fun _ => rfl⟩, rfl,
    fun i hi => testBit_powSum _ 8 i hi⟩
  show fv ((ethCnt 1).run s) ENET_ECNT 0 1 = _
  rw [ethCnt, cnt, fv_incF_word _ ENET_ECNT 0 1 rfl rfl]

/-! ### Congestion notices -/

theorem qpOf_updQp (s : State) (q p : Nat) (f : Qp → Qp) : qpOf ((updQp q f).run s) p = if p = q then f (qpOf s q) else qpOf s p :=
  mapGet_mapSet _ _ _ _ _

theorem updQp_regs (s : State) (q : Nat) (f : Qp → Qp) : ((updQp q f).run s).regs = s.regs := rfl

theorem cnpReceive_state (s : State) (q : Nat) (hq : q < 256) (h : fb s ENET_LINK_UP = true) :
    ∃ t, exec (.cnpReceive q) s = .next t ∧ counted s t ENET_ECNT 0 4 1 ∧
      qpOf t q = { qpOf s q with rate := (qpOf s q).rate / 2 } ∧ ∀ p, p ≠ q → qpOf t p = qpOf s p := by
  have hrun : (cnpReceive q).run s = (updQp q fun x => { x with rate := x.rate / 2 }).run ((ethCnt 4).run s) := by
    rw [cnpReceive, run_look, run_onlyIf_of_true _ _ (by simp [hq, h]), run_acts_cons, run_acts_cons, runs_nil]
  refine ⟨_, congrArg Host.Outcome.next hrun, ?_, ?_, fun p hp => ?_⟩
  · show fv ((ethCnt 4).run s) ENET_ECNT 0 4 = _
    rw [ethCnt, cnt, fv_incF_word _ ENET_ECNT 0 4 rfl rfl]
  · rw [qpOf_updQp, if_pos rfl]; rfl
  · rw [qpOf_updQp, if_neg hp]; rfl

theorem cnpRecover_state (s : State) (q : Nat) (hq : q < 256) :
    ∃ t, exec (.cnpRateRecovery q) s = .next t ∧ qpOf t q = { qpOf s q with rate := min 65536 ((qpOf s q).rate + 8192) } ∧
      (∀ p, p ≠ q → qpOf t p = qpOf s p) ∧ t.regs = s.regs ∧ t.mem = s.mem ∧ t.out = s.out := by
  have hrun : (cnpRecover q).run s = (updQp q fun x => { x with rate := min 65536 (x.rate + 8192) }).run s :=
    run_onlyIf_of_true _ _ (decide_eq_true hq)
  refine ⟨_, congrArg Host.Outcome.next hrun, ?_, fun p hp => ?_, rfl, rfl, rfl⟩
  · rw [qpOf_updQp, if_pos rfl]
  · rw [qpOf_updQp, if_neg hp]

/-! ### Time -/

/-- The intervals of small and of large offset in a row, after one more. -/
def ptpGoodAfter (s : State) (o : Int) : Nat := if o.natAbs < 1000 then min 16 (s.eth.ptpGood + 1) else 0
def ptpBadAfter (s : State) (o : Int) : Nat := if 1000 < o.natAbs then min 4 (s.eth.ptpBad + 1) else 0
/-- Whether the clock is locked then. -/
def ptpNow (s : State) (o : Int) : Bool :=
  if ptpGoodAfter s o = 16 then true else if ptpBadAfter s o = 4 then false else fb s ENET_PTP_LOCKED

/-- The offset is noted and the intervals are counted. -/
def ptpNoted (s : State) (o : Int) : State :=
  (updEth fun e => { e with ptpGood := ptpGoodAfter s o, ptpBad := ptpBadAfter s o }).run ((setF ENET_PTP_OFFSET (ofInt 64 o)).run s)

theorem ptpSync_run (s : State) (o : Int) :
    (ptpSync o).run s = (onlyIf (ptpNow s o != fb s ENET_PTP_LOCKED)
      (acts [setF ENET_PTP_LOCKED (b2n (ptpNow s o)), raiseEvt enetPg (2 ^ 18)])).run (ptpNoted s o) := by
  rw [ptpSync, run_look, run_acts_cons, run_acts_cons, run_acts_cons, runs_nil]
  rfl

/-- A turn of the lock is raised. -/
theorem ptpTurn_state (s : State) (b : Bool) :
    fb ((acts [setF ENET_PTP_LOCKED (b2n b), raiseEvt enetPg (2 ^ 18)]).run s) ENET_PTP_LOCKED = b ∧
    pending ((acts [setF ENET_PTP_LOCKED (b2n b), raiseEvt enetPg (2 ^ 18)]).run s) enetPg 18 := by
  rw [run_acts_cons, run_acts_cons, runs_nil]
  refine ⟨?_, pending_raiseEvt _ _ 18 _ (by decide) (by decide)⟩
  rw [fb_raiseEvt _ _ _ _ _ _ (by decide) (by decide), fb_setF_self _ _ _ _ _ ⟨by decide, by decide⟩]
  cases b <;> rfl

/-- The lock after an interval; where it turned, the event is pending. -/
theorem ptpSync_locked (s : State) (o : Int) :
    fb ((ptpSync o).run s) ENET_PTP_LOCKED = ptpNow s o ∧
    (ptpNow s o ≠ fb s ENET_PTP_LOCKED → pending ((ptpSync o).run s) enetPg 18) := by
  rw [ptpSync_run]
  by_cases h : ptpNow s o = fb s ENET_PTP_LOCKED
  · rw [run_onlyIf_of_false _ _ (by rw [h]; exact bne_self_eq_false _)]
    refine ⟨?_, fun hc => absurd h hc⟩
    rw [h]
    show fb ((setF ENET_PTP_OFFSET (ofInt 64 o)).run s) ENET_PTP_LOCKED = _
    exact fb_setF_other _ _ _ _ _ _ _ _ (by decide) (Or.inl (by decide))
  · rw [run_onlyIf_of_true _ _ (bne_iff_ne.2 h)]
    obtain ⟨h1, h2⟩ := ptpTurn_state (ptpNoted s o) (ptpNow s o)
    exact ⟨h1, fun _ => h2⟩

theorem ptpSync_offset (s : State) (o : Int) : fv ((ptpSync o).run s) ENET_PTP_OFFSET = ofInt 64 o := by
  have h0 : fv (ptpNoted s o) ENET_PTP_OFFSET = ofInt 64 o := by
    show fv ((setF ENET_PTP_OFFSET (ofInt 64 o)).run s) ENET_PTP_OFFSET = _
    rw [fv_setF_eq _ _ _ _ _ (by decide) (by decide)]
    refine Nat.mod_eq_of_lt ?_
    show (o % ((2 ^ 64 : Nat) : Int)).toNat < 2 ^ 64
    omega
  rw [ptpSync_run, fv_onlyIf, run_acts_cons, run_acts_cons, runs_nil, fv_raiseEvt _ _ _ _ _ _ (by decide) (by decide),
    fv_setF_other _ _ _ _ _ _ _ _ (by decide) (Or.inl (by decide)), h0, ite_self]

theorem ptpSync_within (o : Int) : (ptpSync o).Within [.eth, .events, .out] fun _ => True := fun s => by
  simp only [only_acts_cons, only_acts_nil, and_true, within_updEth, within_setF, true_and]
  refine ⟨by decide, only_onlyIf _ _ _ fun _ => ?_⟩
  simp only [only_acts_cons, only_acts_nil, and_true, within_setF, true_and]
  exact (raiseEvt_within _ _).mono (by decide) fun _ _ => trivial

theorem ptpSync_eth (s : State) (o : Int) :
    ((ptpSync o).run s).eth.ptpGood = ptpGoodAfter s o ∧ ((ptpSync o).run s).eth.ptpBad = ptpBadAfter s o := by
  have h : ((ptpSync o).run s).eth = (ptpNoted s o).eth := by
    rw [ptpSync_run]
    cases ptpNow s o != fb s ENET_PTP_LOCKED
    · rw [run_onlyIf_of_false _ _ rfl]
    · rw [run_onlyIf_of_true _ _ rfl, run_acts_cons, run_acts_cons, runs_nil]
      have hraise : ∀ u, ((raiseEvt enetPg (2 ^ 18)).run u).eth = u.eth := (raiseEvt_within _ _).same .eth (by decide)
      rw [hraise, run_setF]
      rfl
  rw [h]
  exact ⟨(rfl), (rfl)⟩

theorem ptpSync_state (s : State) (o : Int) : ∃ t, exec (.ptpSync o) s = .next t ∧ fv t ENET_PTP_OFFSET = ofInt 64 o ∧ memKept s t ∧
    (o.natAbs < 1000 → 15 ≤ s.eth.ptpGood → fb t ENET_PTP_LOCKED = true ∧ (fb s ENET_PTP_LOCKED = false → pending t enetPg 18)) ∧
    (1000 < o.natAbs → 3 ≤ s.eth.ptpBad → fb t ENET_PTP_LOCKED = false ∧ (fb s ENET_PTP_LOCKED = true → pending t enetPg 18)) ∧
    (o.natAbs < 1000 → s.eth.ptpGood < 15 → fb t ENET_PTP_LOCKED = fb s ENET_PTP_LOCKED ∧ t.eth.ptpGood = s.eth.ptpGood + 1 ∧
      t.eth.ptpBad = 0) := by
  obtain ⟨hlock, hpend⟩ := ptpSync_locked s o
  obtain ⟨hgood, hbad⟩ := ptpSync_eth s o
  refine ⟨_, rfl, ptpSync_offset s o, (ptpSync_within o).memKept s (by decide) (by decide) (by decide), fun h1 h2 => ?_, fun h1 h2 => ?_,
    fun h1 h2 => ?_⟩
  · have hnow : ptpNow s o = true := by rw [ptpNow, ptpGoodAfter, if_pos h1, if_pos (by omega)]
    exact ⟨hlock.trans hnow, fun h => hpend (by rw [hnow, h]; decide)⟩
  · have hnow : ptpNow s o = false := by
      rw [ptpNow, ptpGoodAfter, if_neg (show ¬ o.natAbs < 1000 by omega), if_neg (by decide), ptpBadAfter, if_pos h1, if_pos (by omega)]
    exact ⟨hlock.trans hnow, fun h => hpend (by rw [hnow, h]; decide)⟩
  · have hg : ptpGoodAfter s o = s.eth.ptpGood + 1 := by rw [ptpGoodAfter, if_pos h1]; omega
    have hb : ptpBadAfter s o = 0 := by rw [ptpBadAfter, if_neg (by omega)]
    have hnow : ptpNow s o = fb s ENET_PTP_LOCKED := by rw [ptpNow, hg, hb, if_neg (by omega), if_neg (by decide)]
    exact ⟨hlock.trans hnow, hgood.trans hg, hbad.trans hb⟩

/-- A reply goes out where its condition holds. -/
theorem reply_state (s : State) (c : Bool) (p : Prop) [Decidable p] (m : OutMsg) (h : c = true ↔ p) :
    (onlyIf c (emit m)).run s = if p then { s with out := m :: s.out } else s := by
  by_cases hp : p
  · rw [run_onlyIf_of_true _ _ (h.2 hp), if_pos hp]; rfl
  · rw [run_onlyIf_of_false _ _ (by rw [← Bool.not_eq_true, h]; exact hp), if_neg hp]

/-- Settles O51, by the shares of the receive buffer, the bits of the paused priorities and the intervals of the clock. -/
theorem ethernetFramesAreServed : Obligations.EthernetFramesAreServed := by
  unfold Obligations.EthernetFramesAreServed
  refine ⟨fun s f => ⟨frame_linkDown s f, fun h hk => ?_⟩, fun s a b => ⟨_, rfl, ?_⟩, fun s a b => ⟨_, rfl, ?_⟩, fun s v6 a b d => ⟨_, rfl, ?_⟩,
    pauseReceive_state, fun s q hq => ⟨cnpReceive_state s q hq, cnpRecover_state s q hq⟩, ptpSync_state⟩
  · obtain ⟨t, ht, h1, h2, h3, h4, h5⟩ := frame_refused_state s f h hk
    refine ⟨t, ht, h1, h2, h3, h4, fun hen hx hf => ?_, fun hx hf => ?_⟩
    · have hnow : pfcNow s (framePrio f) f.fill = true := by simp [pfcNow, hen, hx, hf]
      rw [hnow, hx] at h5
      exact h5 (by decide)
    · have hnow : pfcNow s (framePrio f) f.fill = false := by simp [pfcNow, hx, hf]
      rw [hnow, hx] at h5
      exact h5 (by decide)
  · exact reply_state s _ _ _ (by simp [and_assoc])
  · exact reply_state s _ _ _ (by simp [and_assoc])
  · exact reply_state s _ _ _ (by simp [and_assoc])

end Sys2Proof.Machine
end

section
/-! PROOF. What every Slaiq request meets, and the rows whose work is done at once (R394 to R397, R401). -/

namespace Sys2Proof.Machine

/-! ### Sessions and responses -/

/-- Opening a session changes the sessions alone. -/
theorem opened_eq (s : State) (m : SlqMsg) : ∃ l, opened s m = { s with sessions := l } := by
  rw [opened, openSession, run_look]
  split
  · exact ⟨_, rfl⟩
  · cases sessionFree s m
    · exact ⟨s.sessions, rfl⟩
    · exact ⟨_, rfl⟩

/-- A response goes out, and sessions may keep it. -/
theorem slqFinish_eq (u : State) (m : SlqMsg) (e : ErrCode) (c : Nat) (d : List Byte) :
    ∃ l, (slqFinish m e c d).run u = { u with
      sessions := l
      out := .slaiq m.ip m.port (slMessage (slType m.bytes) 1 (errNum e) (slSeq m.bytes) c d) :: u.out } := by
  rw [slqFinish, run_look, run_acts_cons, run_acts_cons, runs_nil]
  cases !inSrst u slqpPage
  · rw [run_onlyIf_of_false _ _ rfl]; exact ⟨u.sessions, rfl⟩
  · rw [run_onlyIf_of_true _ _ rfl]; exact ⟨_, rfl⟩

theorem slqFinish_replied (u : State) (m : SlqMsg) (e : ErrCode) (c : Nat) (d : List Byte) : replied ((slqFinish m e c d).run u) m e c d := by
  obtain ⟨l, h⟩ := slqFinish_eq u m e c d
  rw [h]
  exact List.mem_cons_self

/-! ### What every request meets -/

section
variable (s : State) (m : SlqMsg) (w : SlqEnd → Act)

/-- A request that is taken: its session opens, and its work begins. -/
theorem slqRequest_taken (h : slaiqTaken s m = true) : (slqRequest m w).run s = (w (slqFinish m)).run (opened s m) := by
  simp only [slaiqTaken, Bool.and_eq_true, Bool.not_eq_true', beq_iff_eq, Option.isNone_iff_eq_none] at h
  obtain ⟨⟨⟨⟨⟨hup, hmagic⟩, hallow⟩, hcache⟩, herr⟩, hheld⟩ := h
  rw [slqRequest, run_look]
  simp only [hup, hmagic, hallow, hcache, herr, hheld, Bool.not_true, Bool.not_false, Bool.false_eq_true, if_false, if_true]
  rw [run_onlyIf_of_true _ _ rfl, run_acts_cons, run_acts_cons, runs_nil, opened]

/-- A source no entry covers is counted. -/
theorem slqRequest_denied (hup : fb s ENET_LINK_UP = true) (hmagic : slMagicOk m.bytes = true) (ha : allowed s m.ip = false) :
    (slqRequest m w).run s = (slqCnt 1).run s := by
  rw [slqRequest, run_look]
  simp only [hup, hmagic, ha, Bool.not_true, Bool.not_false, Bool.false_eq_true, if_false, if_true]

/-- A request answered before is answered again. -/
theorem slqRequest_cached (hup : fb s ENET_LINK_UP = true) (hmagic : slMagicOk m.bytes = true) (ha : allowed s m.ip = true) (r : List Byte)
    (hc : cachedResp s m = some r) : (slqRequest m w).run s = (slqCnt 2).run ((emit (.slaiq m.ip m.port r)).run (opened s m)) := by
  rw [slqRequest, run_look]
  simp only [hup, hmagic, ha, hc, Bool.not_true, Bool.false_eq_true, if_false]
  rw [run_acts_cons, run_acts_cons, run_acts_cons, runs_nil, opened]

/-- What a request that a check refuses is noted with. -/
def slqNotes (e : ErrCode) : Act :=
  acts [onlyIf (e == eSlqSeqStale) (slqCnt 3), onlyIf (e == eSlqSession) (raiseEvt slqpPage (2 ^ 18)), recordReject slqpPage 0 e]

/-- A request that a check refuses is recorded and answered. -/
theorem slqRequest_refused (hup : fb s ENET_LINK_UP = true) (hmagic : slMagicOk m.bytes = true) (ha : allowed s m.ip = true)
    (hc : cachedResp s m = none) (he : firstErr (slqErrs s m) ≠ .ok) :
    (slqRequest m w).run s = (slqFinish m (firstErr (slqErrs s m)) 0 []).run (opened ((slqNotes (firstErr (slqErrs s m))).run s) m) := by
  rw [slqRequest, run_look]
  simp only [hup, hmagic, ha, hc, he, Bool.not_true, Bool.false_eq_true, if_false]
  rw [slqNotes, run_acts_cons, run_acts_cons, run_acts_cons, run_acts_cons, run_acts_cons, runs_nil, run_acts_cons, run_acts_cons, run_acts_cons,
    runs_nil, opened]

/-- One whose unit is held waits. -/
theorem slqRequest_held (hup : fb s ENET_LINK_UP = true) (hmagic : slMagicOk m.bytes = true) (ha : allowed s m.ip = true)
    (hc : cachedResp s m = none) (he : firstErr (slqErrs s m) = .ok) (hh : slqHeld s m = true) : (slqRequest m w).run s = s := by
  rw [slqRequest, run_look]
  simp only [hup, hmagic, ha, hc, he, hh, Bool.not_true, Bool.false_eq_true, if_false, if_true]
  exact run_onlyIf_of_false _ _ rfl

end

/-- A datagram that belongs to a row has the right MAGIC. -/
theorem slMagicOk_of_row {b : List Byte} {r : SlqRow} (h : slqRow b = some r) : slMagicOk b = true := by
  cases hm : slMagicOk b with
  | true => rfl
  | false => rw [slqRow, hm] at h; cases h

theorem slqNotes_parts (e : ErrCode) : (slqNotes e).Parts [.events, .out] := by
  simp only [slqNotes, only_acts_cons, only_acts_nil, and_true, only_onlyIf_iff, slqCnt, cnt, within_incF]
  exact ⟨fun _ => trivial, fun _ => raiseEvt_parts _ _ (by decide) (by decide), recordReject_parts _ _ _ (by decide) (by decide)⟩

/-- A refused request is counted in the page's header. -/
theorem slqNotes_errCnt (s : State) (e : ErrCode) : counted s ((slqNotes e).run s) (hdrErrCnt .slqp) 0 0 1 := by
  rw [slqNotes, run_acts_cons, run_acts_cons, run_acts_cons, runs_nil, counted]
  refine (recordReject_errCnt _ slqpPage 0 e).trans ?_
  show min (2 ^ 32 - 1) (fv _ (hdrErrCnt .slqp) 0 + 1) = _
  rw [fv_onlyIf, fv_raiseEvt _ _ _ _ _ _ (by decide) (by decide), ite_self, fv_onlyIf, slqCnt, cnt,
    fv_incF_other _ _ _ _ _ _ _ _ (by decide) (Or.inl (by decide)), ite_self]

theorem exec_slaiqRow (s : State) (c : (SlqMsg → Instr) × SlqRow) (m : SlqMsg) (hc : c ∈ slaiqRows) :
    exec (c.1 m) s = .next ((slqRun c.2 m).run s) := by
  simp only [slaiqRows, List.mem_cons, List.not_mem_nil, or_false] at hc
  rcases hc with rfl | rfl | rfl | rfl | rfl | rfl | rfl | rfl | rfl | rfl | rfl | rfl | rfl | rfl | rfl | rfl | rfl | rfl <;> rfl

/-- A row's request reaches the Slaiq port. -/
theorem slqRun_row (s : State) (r : SlqRow) (m : SlqMsg) (h : slqRow m.bytes = some r) :
    (slqRun r m).run s = (slqRequest m (slqWork r none m)).run s := run_onlyIf_of_true _ _ (by rw [h]; exact beq_self_eq_true _)

theorem slqRun_other (s : State) (r : SlqRow) (m : SlqMsg) (h : slqRow m.bytes ≠ some r) : (slqRun r m).run s = s :=
  run_onlyIf_of_false _ _ (beq_eq_false_iff_ne.2 h)

/-- What is done before the work of a row. -/
theorem slaiqRow_met (s : State) (c : (SlqMsg → Instr) × SlqRow) (m : SlqMsg) (hc : c ∈ slaiqRows) :
    (slqRow m.bytes ≠ some c.2 → exec (c.1 m) s = .next s) ∧
    (slqRow m.bytes = some c.2 →
      (fb s ENET_LINK_UP = false → exec (c.1 m) s = .next s) ∧
      (fb s ENET_LINK_UP = true → allowed s m.ip = false → ∃ t, exec (c.1 m) s = .next t ∧ counted s t SLQP_QCNT 0 1 1 ∧
        t.out = s.out ∧ t.sessions = s.sessions ∧ t.nv = s.nv ∧ memKept s t) ∧
      (fb s ENET_LINK_UP = true → allowed s m.ip = true → ∀ r, cachedResp s m = some r →
        ∃ t, exec (c.1 m) s = .next t ∧ counted s t SLQP_QCNT 0 2 1 ∧ t.out = .slaiq m.ip m.port r :: s.out ∧ t.nv = s.nv ∧
          memKept s t) ∧
      (fb s ENET_LINK_UP = true → allowed s m.ip = true → cachedResp s m = none →
        (firstErr (slqErrs s m) ≠ .ok → ∃ t, exec (c.1 m) s = .next t ∧ replied t m (firstErr (slqErrs s m)) 0 [] ∧
          counted s t (hdrErrCnt .slqp) 0 0 1 ∧ t.nv = s.nv ∧ memKept s t) ∧
        (firstErr (slqErrs s m) = .ok → slqHeld s m = true → exec (c.1 m) s = .next s))) := by
  rw [exec_slaiqRow s c m hc]
  refine ⟨fun h => by rw [slqRun_other s _ m h], fun h => ?_⟩
  have hmagic := slMagicOk_of_row h
  rw [slqRun_row s _ m h]
  refine ⟨fun hup => by rw [slqRequest_linkDown s m _ hup], fun hup ha => ⟨_, rfl, ?_⟩, fun hup ha r hr => ⟨_, rfl, ?_⟩,
    fun hup ha hr => ⟨fun he => ⟨_, rfl, ?_⟩, fun he hh => by rw [slqRequest_held s m _ hup hmagic ha hr he hh]⟩⟩
  · rw [slqRequest_denied s m _ hup hmagic ha]
    exact ⟨fv_incF_word s SLQP_QCNT 0 1 rfl rfl, rfl, rfl, rfl, fun _ => rfl, fun _ => rfl, fun _ => rfl⟩
  · rw [slqRequest_cached s m _ hup hmagic ha r hr]
    obtain ⟨l, hl⟩ := opened_eq s m
    rw [hl]
    refine ⟨fv_incF_word _ SLQP_QCNT 0 2 rfl rfl, rfl, rfl, fun _ => rfl, fun _ => rfl, fun _ => rfl⟩
  · rw [slqRequest_refused s m _ hup hmagic ha hr he]
    generalize firstErr (slqErrs s m) = e
    have hcount := slqNotes_errCnt s e
    have hmem := (slqNotes_parts e).memKept s (by decide) (by decide) (by decide)
    have hnv := (slqNotes_parts e).same .nv (by decide) s
    refine ⟨slqFinish_replied _ _ _ _ _, ?_⟩
    generalize (slqNotes e).run s = u at hcount hmem hnv
    obtain ⟨l, hl⟩ := opened_eq u m
    obtain ⟨l', hf⟩ := slqFinish_eq (opened u m) m e 0 []
    rw [hf, hl]
    exact ⟨hcount, hnv, hmem⟩

/-! ### Registers by a Slaiq request -/

/-- An accepted write by the register paths: what its checks read, its effect, and what goes on with success. -/
theorem writeReg_accepted (s : State) (r : Requester) (a size v : Nat) (p : PageRef) (d : RegDef) (base : Nat) (k : ErrCode → Act)
    (h : accepted s r a size v = true) (hp : pageOf s a = some p) (hr : regAt p.blk (raOff a) = some (d, base)) :
    (writeReg r a size v k).run s =
      (k .ok).run ((writeEffect p d base (v % 2 ^ (8 * size))).run ((hookTouch p base (v % 2 ^ (8 * size))).run s)) := by
  simp only [accepted, hp, hr, Bool.and_eq_true, Bool.not_eq_true', beq_iff_eq, writeCode] at h
  obtain ⟨⟨-, hc⟩, hro, hpl⟩ := h
  by_cases he : firstErr (accessErrs s r a size true) = .ok
  · rw [if_neg (by simp [he])] at hc
    by_cases hs : (d.fields.any (·.acc == .cmd) && r == .slaiq) = true
    · simp only [Bool.and_eq_true, beq_iff_eq] at hs
      rw [if_pos hs] at hc; cases hc
    · have hs' := hs
      simp only [Bool.and_eq_true, beq_iff_eq] at hs'
      rw [if_neg hs', hro, if_neg (by simp), if_pos hpl] at hc
      have hnil : plainErrs s p d base (v % 2 ^ (8 * size)) = [] := List.isEmpty_iff.1 hpl
      simp only [writeReg, run_look, hp, he, ne_eq, not_true_eq_false, if_false, writePage, hr, hs, hro, hnil, List.isEmpty_nil, Bool.false_eq_true]
      rw [run_acts_cons, run_acts_cons, runs_nil, run_onlyIf_of_true _ _ rfl, run_look, List.nil_append, if_pos hc, run_acts_cons, run_acts_cons,
        runs_nil]
  · rw [if_pos he] at hc; exact absurd hc he

/-- A write of a block's register that sets nothing going stores its value. -/
theorem writeReg_plain (s : State) (r : Requester) (a size v : Nat) (p : PageRef) (d : RegDef) (base : Nat) (k : ErrCode → Act)
    (h : accepted s r a size v = true) (hp : pageOf s a = some p) (hd : regAt p.blk (raOff a) = some (d, base))
    (hb : plainStore p base) (ht : (hookTouch p base (v % 2 ^ (8 * size))).run s = s)
    (ha : ∀ u, (hookApply s p base (v % 2 ^ (8 * size))).run u = u) :
    (writeReg r a size v k).run s = (k .ok).run (stored s p d base (v % 2 ^ (8 * size))) := by
  have hask : asksReset base (v % 2 ^ (8 * size)) = false := by
    rw [asksReset, beq_eq_false_iff_ne.2 (by have := hb.1; omega)]; rfl
  rw [writeReg_accepted s r a size v p d base k h hp hd, ht, writeEffect, run_look, run_acts_cons, run_acts_cons, runs_nil, hask,
    if_neg (by decide), run_storeReg s p d base _ hb, ha]

/-- The fields that a read of a register clears. -/
def readCleared (s : State) (p : PageRef) (d : RegDef) (base : Nat) : State :=
  (onlyIf (viewAt s p base).isNone (onlyIf (regValue s p base &&& rcMask d != 0)
    (setKey (pageKey p base) (regValue s p base - (regValue s p base &&& rcMask d))))).run s

/-- A read outside a soft reset: the value goes on. -/
theorem readReg_ok (s : State) (r : Requester) (a size : Nat) (p : PageRef) (d : RegDef) (base : Nat) (k : ErrCode → Nat → Act)
    (h : readable s r a size = true) (hp : pageOf s a = some p) (hd : regAt p.blk (raOff a) = some (d, base)) (hs : inSrst s p = false) :
    (readReg r a size k).run s = (k .ok (regValue s p base)).run (readCleared s p d base) := by
  simp only [readable, hp, Bool.and_eq_true, Bool.not_eq_true', beq_iff_eq] at h
  obtain ⟨⟨-, he⟩, -⟩ := h
  simp only [readReg, run_look, hp, he, ne_eq, not_true_eq_false, if_false, readPage, hd, hs, Bool.false_and, Bool.false_eq_true]
  rw [run_acts_cons, run_acts_cons, runs_nil, readCleared]

theorem readCleared_eq (s : State) (p : PageRef) (d : RegDef) (base : Nat) :
    readCleared s p d base = s ∨ ∃ v, readCleared s p d base = (Upd.reg (pageKey p base) (BitVec.ofNat 64 v)).apply s := by
  unfold readCleared
  cases (viewAt s p base).isNone
  · exact Or.inl rfl
  · cases regValue s p base &&& rcMask d != 0
    · exact Or.inl rfl
    · exact Or.inr ⟨_, rfl⟩

theorem readCleared_keeps (s : State) (p : PageRef) (d : RegDef) (base : Nat) :
    regsKept s (readCleared s p d base) [pageKey p base] ∧ memKept s (readCleared s p d base) ∧ (readCleared s p d base).nv = s.nv := by
  rcases readCleared_eq s p d base with h | ⟨v, h⟩ <;> rw [h]
  · exact ⟨fun _ _ => rfl, ⟨fun _ => rfl, fun _ => rfl, fun _ => rfl⟩, rfl⟩
  · refine ⟨fun k hk => ?_, ⟨fun _ => rfl, fun _ => rfl, fun _ => rfl⟩, rfl⟩
    rw [rdKey_reg, if_neg (by simpa using hk)]

end Sys2Proof.Machine
end

section
/-! PROOF. Registers, memory and events by Slaiq requests, and the protocol's timers (R395, R397, R401, R440). -/

namespace Sys2Proof.Machine

section
variable (s : State) (m : SlqMsg)

/-- A taken request of a row: its work, with the session open. -/
theorem slaiqRow_taken (c : (SlqMsg → Instr) × SlqRow) (hc : c ∈ slaiqRows) (h : slaiqTaken s m = true) (hr : slqRow m.bytes = some c.2) :
    exec (c.1 m) s = .next ((slqWork c.2 none m (slqFinish m)).run (opened s m)) := by
  rw [exec_slaiqRow s c m hc, slqRun_row s _ m hr, slqRequest_taken s m _ h]

/-! ### Registers -/

theorem entry_ok {e : SlqEntry} (h : e.ctl = 0 ∨ e.ctl = 256) : e.rsvd = false := by
  rcases h with h | h <;> simp [SlqEntry.rsvd, h]

/-- REG_READ of one register. -/
theorem regRead_one (e : SlqEntry) (p : PageRef) (d : RegDef) (base : Nat) (h : slaiqTaken s m = true) (hp : pageOf s e.addr = some p)
    (hd : regAt p.blk (raOff e.addr) = some (d, base)) (hs : inSrst s p = false) (he : e.ctl = 0 ∨ e.ctl = 256)
    (hr : slqRow m.bytes = some .regRead) (hl : slqEntries 8 (slPayload m.bytes) = [e])
    (hread : readable (opened s m) .slaiq e.addr e.size = true) :
    ∃ t, exec (.regRead m) s = .next t ∧ replied t m .ok 1 (leBytes 8 (regValue (opened s m) p base)) ∧
      regsKept s t [pageKey p base] ∧ memKept s t ∧ t.nv = s.nv := by
  have hexec := slaiqRow_taken s m (.regRead, .regRead) (by simp [slaiqRows]) h hr
  have hwork : (slqWork .regRead none m (slqFinish m)).run (opened s m) =
      (slqFinish m .ok 1 (leBytes 8 (regValue (opened s m) p base))).run (readCleared (opened s m) p d base) := by
    obtain ⟨l, hopen⟩ := opened_eq s m
    have hp' : pageOf (opened s m) e.addr = some p := by rw [hopen]; exact hp
    have hs' : inSrst (opened s m) p = false := by rw [hopen]; exact hs
    simp only [slqWork, hl, slqWithin, List.length_singleton, List.take_succ_cons, List.take_zero, slqReads, entry_ok he,
      Bool.false_eq_true, if_false]
    rw [readReg_ok _ _ _ _ p d base _ hread hp' hd hs']
    rfl
  refine ⟨_, hexec.trans (congrArg Host.Outcome.next hwork), slqFinish_replied _ _ _ _ _, ?_⟩
  obtain ⟨l', hfin⟩ := slqFinish_eq (readCleared (opened s m) p d base) m .ok 1 (leBytes 8 (regValue (opened s m) p base))
  obtain ⟨h1, h2, h3⟩ := readCleared_keeps (opened s m) p d base
  obtain ⟨l, hopen⟩ := opened_eq s m
  rw [hfin]
  rw [hopen] at h1 h2 h3 ⊢
  exact ⟨h1, h2, h3⟩

/-- REG_WRITE of one register. -/
theorem regWrite_one (e : SlqEntry) (p : PageRef) (d : RegDef) (base x : Nat) (h : slaiqTaken s m = true) (hp : pageOf s e.addr = some p)
    (hd : regAt p.blk (raOff e.addr) = some (d, base)) (he : e.ctl = 0 ∨ e.ctl = 256)
    (hr : slqRow m.bytes = some .regWrite) (hl : slqEntries 16 (slPayload m.bytes) = [e])
    (hacc : accepted (opened s m) .slaiq e.addr e.size e.val = true) (hb : plainStore p base) (hx : e.val % 2 ^ (8 * e.size) = x)
    (ht : (hookTouch p base x).run (opened s m) = opened s m) (ha : ∀ u, (hookApply (opened s m) p base x).run u = u) :
    ∃ t, exec (.regWrite m) s = .next t ∧ replied t m .ok 1 [] ∧
      rdKey t (pageKey p base) = storedValue d (rdKey s (pageKey p base)) x % 2 ^ 64 ∧ regsKept s t [pageKey p base] ∧
      memKept s t ∧ t.nv = s.nv := by
  subst hx
  have hexec := slaiqRow_taken s m (.regWrite, .regWrite) (by simp [slaiqRows]) h hr
  obtain ⟨l, hopen⟩ := opened_eq s m
  have hwork : (slqWork .regWrite none m (slqFinish m)).run (opened s m) =
      (slqFinish m .ok 1 []).run (stored (opened s m) p d base (e.val % 2 ^ (8 * e.size))) := by
    have hp' : pageOf (opened s m) e.addr = some p := by rw [hopen]; exact hp
    simp only [slqWork, hl, slqWithin, List.length_singleton, List.take_succ_cons, List.take_zero, slqWrites, entry_ok he,
      Bool.false_eq_true, if_false]
    rw [writeReg_plain _ _ _ _ _ p d base _ hacc hp' hd hb ht ha]
    rfl
  refine ⟨_, hexec.trans (congrArg Host.Outcome.next hwork), slqFinish_replied _ _ _ _ _, ?_⟩
  obtain ⟨l', hfin⟩ := slqFinish_eq (stored (opened s m) p d base (e.val % 2 ^ (8 * e.size))) m .ok 1 []
  rw [hfin, hopen]
  refine ⟨rdKey_reg_self _ _ _, fun k hk => ?_, ⟨fun _ => rfl, fun _ => rfl, fun _ => rfl⟩, rfl⟩
  exact (rdKey_reg _ _ _ k).trans (if_neg (by simpa using hk))

/-! ### Memory -/

/-- MEM_READ of a range with no mark. -/
theorem memRead_clean (h : slaiqTaken s m = true) (hr : slqRow m.bytes = some .memRead) (a n : Nat) (ha : recLE (slPayload m.bytes) 0 8 = a)
    (hn : recLE (slPayload m.bytes) 8 4 = n) (he : firstErr (slqMemErrs (opened s m) a n false) = .ok) :
    ((∀ x ∈ readLocal ((touchLocal a n).run (opened s m)) a n, x.2 = false) → ∃ t, exec (.memRead m) s = .next t ∧
      replied t m .ok (n / 8) ((readLocal ((touchLocal a n).run (opened s m)) a n).map Prod.fst) ∧
      t.mem = ((touchLocal a n).run (opened s m)).mem ∧ t.regs = ((touchLocal a n).run (opened s m)).regs ∧
      t.nv = ((touchLocal a n).run (opened s m)).nv) ∧
    ((∃ x ∈ readLocal ((touchLocal a n).run (opened s m)) a n, x.2 = true) → ∃ t, exec (.memRead m) s = .next t ∧
      replied t m eIntgPoison 0 [] ∧ t.mem = ((touchLocal a n).run (opened s m)).mem) := by
  have hexec := slaiqRow_taken s m (.memRead, .memRead) (by simp [slaiqRows]) h hr
  have hwork : slqWork .memRead none m (slqFinish m) = look fun _ => slqMemRead a n (slqFinish m) := by
    simp only [slqWork, ha, hn, slqWithin, true_or, if_true]
  rw [hexec, hwork, run_look, slqMemRead, run_look]
  dsimp only
  rw [he, if_neg (by decide), run_acts_cons, run_acts_cons, runs_nil, run_look]
  generalize (touchLocal a n).run (opened s m) = v
  refine ⟨fun hclean => ⟨_, rfl, ?_⟩, fun hmark => ⟨_, rfl, ?_⟩⟩
  · have hnone : (readLocal v a n).findIdx? Prod.snd = none := List.findIdx?_eq_none_iff.2 hclean
    simp only [hnone]
    refine ⟨slqFinish_replied _ _ _ _ _, ?_⟩
    obtain ⟨l, hl⟩ := slqFinish_eq v m .ok (n / 8) ((readLocal v a n).map Prod.fst)
    rw [hl]
    exact ⟨rfl, rfl, rfl⟩
  · obtain ⟨i, hi⟩ : ∃ i, (readLocal v a n).findIdx? Prod.snd = some i := by
      cases hf : (readLocal v a n).findIdx? Prod.snd with
      | some i => exact ⟨i, rfl⟩
      | none =>
        obtain ⟨x, hx, hx2⟩ := hmark
        rw [List.findIdx?_eq_none_iff.1 hf x hx] at hx2
        cases hx2
    simp only [hi]
    rw [run_acts_cons, run_acts_cons, runs_nil]
    refine ⟨slqFinish_replied _ _ _ _ _, ?_⟩
    obtain ⟨l, hl⟩ := slqFinish_eq ((refuseExport (exportAt (opened s m) a) (a + i)).run v) m eIntgPoison 0 []
    rw [hl]
    have hparts : (refuseExport (exportAt (opened s m) a) (a + i)).Parts [.events, .out] := by
      simp only [refuseExport, only_acts_cons, only_acts_nil, and_true, cnt, within_incF]
      exact ⟨trivial, logEntry_parts _ _ _ _ _, raiseEvt_parts _ _ (by decide) (by decide)⟩
    exact hparts.same .mem (by decide) v

/-- MEM_WRITE of a range that lies in one memory. -/
theorem memWrite_one (h : slaiqTaken s m = true) (hr : slqRow m.bytes = some .memWrite) (a : Nat) (b : List Byte)
    (ha : recLE (slPayload m.bytes) 0 8 = a) (hb : (slPayload m.bytes).drop 12 = b)
    (he : firstErr (slqMemErrs (opened s m) a b.length true) = .ok) (hsyn : s.syn = []) (q : MemUnit) (off : Nat)
    (hplace : placeOf s a = .mem q off) (hflip : flipArmed s q = false) :
    ∃ t, exec (.memWrite m) s = .next t ∧ replied t m .ok (b.length / 8) [] ∧ t.mem = memAfter s.mem [⟨q, off, b, []⟩] ∧ t.nv = s.nv := by
  have hexec := slaiqRow_taken s m (.memWrite, .memWrite) (by simp [slaiqRows]) h hr
  have hwork : (slqWork .memWrite none m (slqFinish m)).run (opened s m) = (slqMemWrite a b (slqFinish m)).run (opened s m) := by
    simp only [slqWork, ha, hb, slqWithin, bne_self_eq_false, Bool.and_false, Bool.false_eq_true, if_false, true_or, if_true, run_look]
  rw [hexec, hwork, slqMemWrite, run_look]
  dsimp only
  rw [he, if_neg (by decide), run_acts_cons, run_acts_cons, runs_nil]
  refine ⟨_, rfl, slqFinish_replied _ _ _ _ _, ?_⟩
  obtain ⟨l, hl⟩ := slqFinish_eq ((writeLocal a (b.map fun b => (b, false))).run (opened s m)) m .ok (b.length / 8) []
  obtain ⟨l', hopen⟩ := opened_eq s m
  rw [hl, hopen]
  have hplace' : placeOf { s with sessions := l' } a = .mem q off := hplace
  obtain ⟨w, hw⟩ := memWrite_calm { s with sessions := l' } q off b (b.map fun _ => false) hsyn hflip (by simp)
  have hmaps : (b.map fun b => (b, false)).map Prod.fst = b ∧ (b.map fun b => (b, false)).map Prod.snd = b.map fun _ => false := by
    simp [Function.comp_def]
  simp only [writeLocal, run_look, hplace', hmaps.1, hmaps.2, hw, and_self]

/-! ### Events -/

/-- The events a payload names. -/
abbrev ackSeqs (p : List Byte) : List Nat := (List.range (p.length / 4)).map fun i => recLE p (4 * i) 4

theorem eventAck_one (h : slaiqTaken s m = true) (hr : slqRow m.bytes = some .eventAck) :
    ∃ t, exec (.eventAck m) s = .next t ∧ replied t m .ok (ackSeqs (slPayload m.bytes)).length [] ∧
      t.events = s.events.filter (fun e => !(ackSeqs (slPayload m.bytes)).contains e.seq) ∧ t.regs = s.regs ∧ t.mem = s.mem ∧ t.nv = s.nv := by
  have hexec := slaiqRow_taken s m (.eventAck, .eventAck) (by simp [slaiqRows]) h hr
  have hwork : slqWork .eventAck none m (slqFinish m) = acts [eventAck (ackSeqs (slPayload m.bytes)),
      slqFinish m .ok (ackSeqs (slPayload m.bytes)).length []] := by
    simp only [slqWork, slqWithin, List.take_length, slqLimited]
  obtain ⟨l, hopen⟩ := opened_eq s m
  rw [hexec, hwork, run_acts_cons, run_acts_cons, runs_nil]
  refine ⟨_, rfl, slqFinish_replied _ _ _ _ _, ?_⟩
  obtain ⟨l', hfin⟩ := slqFinish_eq ((eventAck (ackSeqs (slPayload m.bytes))).run (opened s m)) m .ok (ackSeqs (slPayload m.bytes)).length []
  rw [hfin, hopen]
  exact ⟨rfl, rfl, rfl, rfl⟩

end

/-- Settles O53, from what every request meets and each row's work. -/
theorem slaiqRequestsAreAnswered : Obligations.SlaiqRequestsAreAnswered := by
  unfold Obligations.SlaiqRequestsAreAnswered
  refine ⟨fun s c m hc => slaiqRow_met s c m hc, fun s m e p d base h hp hd hs he => ⟨fun hr hl hread => ?_, fun hr hl hacc hb ht ha h1 h2 => ?_⟩,
    fun s m h => ⟨fun hr he => memRead_clean s m h hr _ _ rfl rfl he, fun hr he hsyn q off hplace hflip => ?_⟩,
    fun s m h hr => eventAck_one s m h hr⟩
  · exact regRead_one s m e p d base h hp hd hs he hr hl hread
  · exact regWrite_one s m e p d base _ h hp hd he hr hl hacc ⟨hb, h1, h2⟩ rfl ht ha
  · exact memWrite_one s m h hr _ _ rfl rfl he hsyn q off hplace hflip

end Sys2Proof.Machine
end

section
/-! PROOF. Slaiq timers: requests out of time, events sent again, telemetry (R397, R401, R403, R440). -/

namespace Sys2Proof.Machine

/-! ### Requests out of time -/

section
variable (s : State) (m : SlqMsg)

/-- A taken request whose time has passed: its work under the limit. -/
theorem slaiqTimeout_taken (k : Nat) (r : SlqRow) (h : slaiqTaken s m = true) (hr : slqRow m.bytes = some r) :
    exec (.slaiqTimeout m k) s = .next ((slqWork r (some k) m (slqFinish m)).run (opened s m)) := by
  show Host.Outcome.next ((slqTimeout m k).run s) = _
  rw [slqTimeout, hr]
  dsimp only
  rw [slqRequest_taken s m _ h]

/-- The rows of each type. -/
theorem slqRow_type {b : List Byte} (h : slMagicOk b = true) :
    (slType b = 1 → slqRow b = some .regRead) ∧ (slType b = 2 → slqRow b = some .regWrite) ∧ (slType b = 7 → slqRow b = some .eventAck) ∧
      (slType b = 5 → slqRow b = cmRow (slPayload b)) := by
  refine ⟨fun ht => ?_, fun ht => ?_, fun ht => ?_, fun ht => ?_⟩ <;> rw [slqRow, h, ht] <;> rfl

/-- A response alone. -/
theorem slqFinish_keeps (e : ErrCode) (c : Nat) : replied ((slqFinish m e c []).run (opened s m)) m e c [] ∧
    ((slqFinish m e c []).run (opened s m)).nv = s.nv ∧ ((slqFinish m e c []).run (opened s m)).regs = s.regs ∧
    ((slqFinish m e c []).run (opened s m)).mem = s.mem := by
  refine ⟨slqFinish_replied _ _ _ _ _, ?_⟩
  obtain ⟨l, hopen⟩ := opened_eq s m
  obtain ⟨l', hfin⟩ := slqFinish_eq (opened s m) m e c []
  rw [hfin, hopen]
  exact ⟨rfl, rfl, rfl⟩

/-- A command that had not begun is abandoned. -/
theorem slqWork_command {p : List Byte} {r : SlqRow} (h : cmRow p = some r) (k : Nat) (w : SlqEnd) :
    slqWork r (some k) m w = w eSlqTimeout 0 [] := by
  have hr : r = .fwStage ∨ r = .fwCommit ∨ r = .keyRotate ∨ r = .keyTransfer ∨ r = .keyRevoke ∨ r = .reset ∨ r = .powerCap ∨ r = .assume ∨
      r = .release ∨ r = .zero ∨ r = .debug ∨ r = .elect ∨ r = .reimpose := by
    simp only [cmRow] at h
    split at h <;> cases h <;> (try split_ifs) <;> decide
  rcases hr with rfl | rfl | rfl | rfl | rfl | rfl | rfl | rfl | rfl | rfl | rfl | rfl | rfl <;> rfl

/-- A taken request has the length its type requires. -/
theorem slaiqTaken_len (h : slaiqTaken s m = true) : slqLenOk s m = true := by
  simp only [slaiqTaken, Bool.and_eq_true, beq_iff_eq] at h
  obtain ⟨⟨-, he⟩, -⟩ := h
  have hlen := firstErr_when_ok (by decide) (firstErr_append_ok (firstErr_append_ok (firstErr_append_ok he).1).1).2
  rwa [Bool.not_eq_false'] at hlen

/-- A taken REG_READ or REG_WRITE names a register. -/
theorem slaiqTaken_entries (h : slaiqTaken s m = true) :
    (slType m.bytes = 1 → 0 < (slqEntries 8 (slPayload m.bytes)).length) ∧
    (slType m.bytes = 2 → 0 < (slqEntries 16 (slPayload m.bytes)).length) := by
  have hlen := slaiqTaken_len s m h
  simp only [slqEntries, List.length_mergeSort, List.length_map, List.length_range]
  refine ⟨fun ht => ?_, fun ht => ?_⟩ <;>
  · simp only [slqLenOk, ht, Bool.and_eq_true, beq_iff_eq, decide_eq_true_eq] at hlen
    omega

/-- SLAIQ_TIMEOUT. -/
theorem slaiqTimeout_state (k : Nat) (h : slaiqTaken s m = true) (hr : (slqRow m.bytes).isSome = true) :
    (slType m.bytes = 5 → ∃ t, exec (.slaiqTimeout m k) s = .next t ∧ replied t m eSlqTimeout 0 [] ∧ t.nv = s.nv ∧ t.regs = s.regs ∧
      t.mem = s.mem) ∧
    (slType m.bytes = 1 ∨ slType m.bytes = 2 → ∃ t, exec (.slaiqTimeout m 0) s = .next t ∧ replied t m eSlqTimeout 0 [] ∧
      t.regs = s.regs ∧ t.mem = s.mem ∧ t.nv = s.nv) ∧
    (slType m.bytes = 7 → k < (ackSeqs (slPayload m.bytes)).length → ∃ t, exec (.slaiqTimeout m k) s = .next t ∧ replied t m eSlqTimeout k [] ∧
      t.events = s.events.filter (fun e => !((ackSeqs (slPayload m.bytes)).take k).contains e.seq)) := by
  obtain ⟨r, hrow⟩ := Option.isSome_iff_exists.1 hr
  obtain ⟨h1, h2, h7, h5⟩ := slqRow_type (slMagicOk_of_row hrow)
  obtain ⟨hrep, hnv, hregs, hmem⟩ := slqFinish_keeps s m eSlqTimeout 0
  refine ⟨fun ht => ?_, fun ht => ?_, fun ht hk => ?_⟩
  · refine ⟨_, slaiqTimeout_taken s m k r h hrow, ?_⟩
    rw [slqWork_command m ((h5 ht).symm.trans hrow)]
    exact ⟨hrep, hnv, hregs, hmem⟩
  · have hwork : ∃ r', slqRow m.bytes = some r' ∧ slqWork r' (some 0) m (slqFinish m) = slqFinish m eSlqTimeout 0 [] := by
      obtain ⟨hl1, hl2⟩ := slaiqTaken_entries s m h
      rcases ht with ht | ht
      · refine ⟨_, h1 ht, ?_⟩
        simp only [slqWork, slqWithin, Nat.zero_min, List.take_zero, slqReads, slqLimited, hl1 ht, decide_true, beq_self_eq_true, Bool.and_self, if_true]
      · refine ⟨_, h2 ht, ?_⟩
        simp only [slqWork, slqWithin, Nat.zero_min, List.take_zero, slqWrites, slqLimited, hl2 ht, decide_true, beq_self_eq_true, Bool.and_self, if_true]
    obtain ⟨r', hrow', hwork⟩ := hwork
    refine ⟨_, slaiqTimeout_taken s m 0 r' h hrow', ?_⟩
    rw [hwork]
    exact ⟨hrep, hregs, hmem, hnv⟩
  · have hwork : slqWork .eventAck (some k) m (slqFinish m) =
        acts [eventAck ((ackSeqs (slPayload m.bytes)).take k), slqFinish m eSlqTimeout k []] := by
      simp only [slqWork, slqWithin, Nat.min_eq_left hk.le, slqLimited, hk, decide_true, beq_self_eq_true, Bool.and_self, if_true]
    refine ⟨_, slaiqTimeout_taken s m k _ h (h7 ht), ?_⟩
    rw [hwork, run_acts_cons, run_acts_cons, runs_nil]
    refine ⟨slqFinish_replied _ _ _ _ _, ?_⟩
    obtain ⟨l, hopen⟩ := opened_eq s m
    obtain ⟨l', hfin⟩ := slqFinish_eq ((eventAck ((ackSeqs (slPayload m.bytes)).take k)).run (opened s m)) m eSlqTimeout k []
    rw [hfin, hopen]
    rfl

end

/-! ### Events sent again -/

/-- The state with events of a page pending, before any is sent. -/
def pendSet (p : PageRef) (m : Nat) (s : State) : State := (setF (hdrEvtPend p.blk) (fv s (hdrEvtPend p.blk) p.idx ||| m) p.idx).run s

theorem raiseEvt_run (p : PageRef) (m : Nat) (s : State) (hm : m ≠ 0) : (raiseEvt p m).run s =
    (onlyIf (!forwarding s p && forwarding (pendSet p m s) p) (sendEvent p)).run (pendSet p m s) := by
  rw [raiseEvt, run_onlyIf_of_true _ _ (bne_iff_ne.2 hm), withForward, run_look, run_acts_cons, run_acts_cons, runs_nil, run_look, run_look]
  rfl

/-- With room for it, an event is sent and none is lost. -/
theorem fv_sendEvent_room (p : PageRef) (s : State) (h : s.events.length < 256) : fv ((sendEvent p).run s) SLQP_QCNT 0 5 = fv s SLQP_QCNT 0 5 := by
  rw [sendEvent, run_look]
  split
  · rfl
  · rw [if_neg (by omega), run_acts_cons, run_acts_cons, runs_nil]; rfl

/-- With Slaiq events off none is sent. -/
theorem sendEvent_off (p : PageRef) (s : State) (h : fb s SLQP_SEVT_EN = false) : (sendEvent p).run s = s := by
  rw [sendEvent, run_look, h]
  exact runs_done s

theorem fv_pendSet (p : PageRef) (m : Nat) (s : State) (f : Fld) (i n : Nat) (h : fldKey f i n ≠ fldKey (hdrEvtPend p.blk) p.idx 0) :
    fv (pendSet p m s) f i n = fv s f i n := fv_setF_other s _ f _ _ _ _ _ (by simp [hdrEvtPend]) (Or.inl h)

theorem fv_lost_raiseEvt_room (p : PageRef) (m : Nat) (s : State) (hm : m ≠ 0) (h : s.events.length < 256)
    (hp : fldKey SLQP_QCNT 0 5 ≠ fldKey (hdrEvtPend p.blk) p.idx 0) : fv ((raiseEvt p m).run s) SLQP_QCNT 0 5 = fv s SLQP_QCNT 0 5 := by
  rw [raiseEvt_run p m s hm, fv_onlyIf, fv_sendEvent_room p (pendSet p m s) h, ite_self, fv_pendSet p m s _ _ _ hp]

theorem events_raiseEvt_off (p : PageRef) (m : Nat) (s : State) (hm : m ≠ 0) (h : fb s SLQP_SEVT_EN = false)
    (hp : fldKey SLQP_SEVT_EN 0 0 ≠ fldKey (hdrEvtPend p.blk) p.idx 0) : ((raiseEvt p m).run s).events = s.events := by
  have hoff : fb (pendSet p m s) SLQP_SEVT_EN = false := by rw [fb, fv_pendSet p m s _ _ _ hp]; exact h
  rw [raiseEvt_run p m s hm]
  cases !forwarding s p && forwarding (pendSet p m s) p
  · rw [run_onlyIf_of_false _ _ rfl]; rfl
  · rw [run_onlyIf_of_true _ _ rfl, sendEvent_off p _ hoff]; rfl

section
variable (s : State) (q : Nat) (e : EvtOut)

/-- An event less often sent than it may be. -/
theorem eventResend_again (he : s.events.find? (fun e => e.seq == q) = some e) (h : e.resends < 8) :
    ∃ t, exec (.eventResend q) s = .next t ∧ t.out = .event e :: s.out ∧ counted s t SLQP_QCNT 0 4 1 ∧
      t.events = (s.events.map fun x => if x = e then { x with resends := x.resends + 1 } else x) ∧ t.mem = s.mem := by
  refine ⟨_, rfl, ?_⟩
  rw [eventResend, run_look, he]
  dsimp only
  rw [if_neg (by omega), run_acts_cons, run_acts_cons, run_acts_cons, runs_nil]
  exact ⟨rfl, fv_incF_word _ SLQP_QCNT 0 4 rfl rfl, rfl, rfl⟩

/-- An event sent as often as it may be is abandoned; where Slaiq events are off, none is sent of it. -/
theorem eventResend_abandoned (he : s.events.find? (fun e => e.seq == q) = some e) (h : 8 ≤ e.resends) (hl : s.events.length ≤ 256) :
    ∃ t, exec (.eventResend q) s = .next t ∧ counted s t SLQP_QCNT 0 5 1 ∧
      pending t slqpPage 17 ∧ (fb s SLQP_SEVT_EN = false → t.events = s.events.erase e) ∧ t.mem = s.mem := by
  refine ⟨_, rfl, ?_⟩
  rw [eventResend, run_look, he]
  dsimp only
  rw [if_pos h, run_acts_cons, run_acts_cons, run_acts_cons, runs_nil]
  have hroom : (s.events.erase e).length < 256 := by
    have hmem := List.mem_of_find?_eq_some he
    have hpos := List.length_pos_of_mem hmem
    rw [List.length_erase_of_mem hmem]
    omega
  have hmask : (2 : Nat) ^ 17 ≠ 0 := by decide
  refine ⟨?_, pending_raiseEvt _ _ 17 _ (by decide) (by decide), fun hoff => ?_, (raiseEvt_within _ _).same .mem (by decide) _⟩
  · rw [counted, fv_lost_raiseEvt_room slqpPage (2 ^ 17) _ hmask hroom (by decide)]
    exact fv_incF_word _ SLQP_QCNT 0 5 rfl rfl
  · refine events_raiseEvt_off slqpPage (2 ^ 17) _ hmask ?_ (by decide)
    rw [slqCnt, cnt, fb, fv_incF_other _ _ _ _ _ _ _ _ (by decide) (Or.inl (by decide))]
    exact hoff

end

/-! ### Telemetry -/

/-- A list that fits one message is one chunk. -/
theorem chunksOf_one {α : Type} (n : Nat) (l : List α) (h1 : 1 ≤ l.length) (hn : l.length ≤ n) : chunksOf n l.length l = [l] := by
  match l, h1 with
  | x :: l, _ =>
    rw [List.length_cons, chunksOf, List.take_of_length_le hn, List.drop_of_length_le hn]
    · cases l.length <;> rfl
    · simp

theorem telemetrySample_run (s : State) (sec ns : Nat) : (telemetrySample sec ns).run s =
    (onlyIf (fb s SLQP_TEL_EN && fb s ENET_LINK_UP) (each (chunksOf (telMax s) ((List.range (fv s HLTH_TEL_COUNT)).map (telRecord s)).length
      ((List.range (fv s HLTH_TEL_COUNT)).map (telRecord s))) (telSend sec ns (fv s ENET_PTP_LOCKED) (curInstant s)))).run
        ((incF HLTH_TEL_SAMPLES).run s) := by
  rw [telemetrySample, run_look, run_acts_cons, run_acts_cons, runs_nil]

theorem telemetrySample_sent (s : State) (sec ns : Nat) (l : List (List Byte)) (hl : (List.range (fv s HLTH_TEL_COUNT)).map (telRecord s) = l)
    (hon : (fb s SLQP_TEL_EN && fb s ENET_LINK_UP) = true) (h1 : 1 ≤ l.length) (h2 : l.length ≤ telMax s) :
    ∃ t, exec (.telemetrySample sec ns) s = .next t ∧
      t.out = .telemetry s.telSeq (slMessage 8 0 0 s.telSeq 0 (leBytes 6 sec ++ leBytes 4 ns ++
         leBytes 1 (fv s ENET_PTP_LOCKED) ++ leBytes 1 0 ++ leBytes 2 l.length ++ leBytes 2 0 ++ leBytes 8 (curInstant s) ++
         l.flatten)) :: s.out ∧
      t.telSeq = (s.telSeq + 1) % 2 ^ 32 ∧ counted s t HLTH_TEL_SAMPLES 0 0 1 ∧ counted s t SLQP_QCNT 0 6 1 ∧ t.mem = s.mem := by
  refine ⟨_, congrArg Host.Outcome.next (telemetrySample_run s sec ns), ?_⟩
  rw [run_onlyIf_of_true _ _ hon, hl, chunksOf_one _ _ h1 h2, run_each_cons, runs_each_nil, telSend, run_look, run_acts_cons, run_acts_cons,
    run_acts_cons, runs_nil]
  refine ⟨rfl, rfl, ?_, ?_, rfl⟩
  · rw [counted, slqCnt, cnt, fv_incF_other _ _ _ _ _ _ _ _ (by decide) (Or.inl (by decide))]
    exact fv_incF_word s HLTH_TEL_SAMPLES 0 0 rfl rfl
  · rw [counted, slqCnt, cnt, fv_incF_word _ SLQP_QCNT 0 6 rfl rfl]
    show min (2 ^ 32 - 1) (fv ((incF HLTH_TEL_SAMPLES).run s) SLQP_QCNT 0 6 + 1) = _
    rw [fv_incF_other _ _ _ _ _ _ _ _ (by decide) (Or.inl (by decide))]

theorem telemetrySample_off (s : State) (sec ns : Nat) (hon : (fb s SLQP_TEL_EN && fb s ENET_LINK_UP) = false) :
    ∃ t, exec (.telemetrySample sec ns) s = .next t ∧ t.out = s.out ∧ t.telSeq = s.telSeq ∧
       counted s t HLTH_TEL_SAMPLES 0 0 1 ∧ t.mem = s.mem := by
  refine ⟨_, congrArg Host.Outcome.next (telemetrySample_run s sec ns), ?_⟩
  rw [run_onlyIf_of_false _ _ hon]
  exact ⟨rfl, rfl, fv_incF_word s HLTH_TEL_SAMPLES 0 0 rfl rfl, rfl⟩

/-- An event no record stands for. -/
theorem eventResend_none (s : State) (q : Nat) (he : s.events.find? (fun e => e.seq == q) = none) : exec (.eventResend q) s = .next s := by
  show Host.Outcome.next ((eventResend q).run s) = _
  rw [eventResend, run_look, he]
  rfl

/-- Settles O54, timer by timer. -/
theorem slaiqTimersRunOut : Obligations.SlaiqTimersRunOut := by
  unfold Obligations.SlaiqTimersRunOut
  exact ⟨fun s m k h hr => slaiqTimeout_state s m k h hr,
    fun s q => ⟨eventResend_none s q, fun e he => ⟨eventResend_again s q e he, eventResend_abandoned s q e he⟩⟩,
    fun s sec ns => ⟨fun hon h1 h2 => telemetrySample_sent s sec ns _ rfl hon h1 h2, telemetrySample_off s sec ns⟩⟩

end Sys2Proof.Machine
end

section
/-! PROOF. Completion targets, and what the completion of an operation touches (R85, R90, R92). -/

namespace Sys2Proof.Machine

/-! ### Footprints together -/

/-- Two footprints of one program hold together. -/
theorem only_and {P Q : Upd → Prop} {a : Act} (h : a.Only P) (h' : a.Only Q) : a.Only fun u => P u ∧ Q u := by
  induction a with
  | done => trivial
  | put u k ih => exact ⟨⟨h.1, h'.1⟩, ih h.2 h'.2⟩
  | look k ih => exact fun s => ih s (h s) (h' s)

/-- The parts of one footprint and the registers of another. -/
theorem Act.Within.and {ps qs : List Part} {ks ls : Nat → Prop} {a : Act} (h : a.Within ps ks) (h' : a.Within qs ls) : a.Within ps ls := by
  refine (only_and h h').mono fun u hu => ?_
  cases u with
  | reg k v => exact hu.2
  | restart => exact hu.1.elim
  | _ => exact hu.1

/-! ### Events of any mask -/

theorem hdrEvtPend_ok (b : Blk) : (hdrEvtPend b).ok := ⟨Nat.zero_le _, by simp [hdrEvtPend]⟩

/-- Events that become pending, whatever the mask. -/
theorem raiseEvt_pend_mod (p : PageRef) (m : Nat) (s : State) (hm : m ≠ 0) :
    fv ((raiseEvt p m).run s) (hdrEvtPend p.blk) p.idx = (fv s (hdrEvtPend p.blk) p.idx ||| m) % 2 ^ 32 := by
  have hsend : fv ((sendEvent p).run (pendSet p m s)) (hdrEvtPend p.blk) p.idx = fv (pendSet p m s) (hdrEvtPend p.blk) p.idx :=
    (within_of_onRegs (ps := [.events, .out]) (sendEvent_only p) (by decide) (by decide)).fv _ _ _ _
      (regKey_header_ne_lostKey p 0x018 (by omega))
  rw [raiseEvt_run p m s hm, fv_onlyIf, hsend, ite_self]
  exact fv_setF_self s (hdrEvtPend p.blk) _ p.idx 0 (hdrEvtPend_ok _)

/-- An event of any mask leaves pending events pending. -/
theorem pending_event_any (p : PageRef) (m : Nat) (q : PageRef) (i : Nat) (hi : i < 32) : (raiseEvt p m).Stable fun s => pending s q i := fun s hs => by
  by_cases hm : m = 0
  · rw [raiseEvt, run_onlyIf_of_false _ _ (by rw [hm]; rfl)]; exact hs
  show (fv ((raiseEvt p m).run s) (hdrEvtPend q.blk) q.idx).testBit i = true
  by_cases hk : fldKey (hdrEvtPend q.blk) q.idx 0 = fldKey (hdrEvtPend p.blk) p.idx 0
  · have hfv : ∀ t, fv t (hdrEvtPend q.blk) q.idx = fv t (hdrEvtPend p.blk) p.idx := fun t => by unfold fv; rw [hk]; rfl
    have hs' : (fv s (hdrEvtPend p.blk) p.idx).testBit i = true := by rw [← hfv]; exact hs
    rw [hfv, raiseEvt_pend_mod p m s hm, Nat.testBit_mod_two_pow, Nat.testBit_or, hs']
    simp [hi]
  · rw [fv_raiseEvt s p _ _ _ m hk (pendKey_ne q _ (by decide))]
    exact hs

/-! ### Messages of no operation -/

/-- The parts that a message of no operation touches. -/
def wireParts : List Part := [.links, .events, .out]

theorem pump_wire (l n : Nat) : (pump l n).Parts wireParts := by
  induction n with
  | zero => trivial
  | succ n ih =>
    intro s
    dsimp only
    split
    · trivial
    · simp only [only_acts_cons, only_acts_nil, within_updLink, only_onlyIf_iff, only_emit_iff, and_true]
      exact ⟨by decide, fun _ => by simp [Upd.within, wireParts], ih⟩

theorem enqueue_wire (l : Nat) (m : FabMsg) : (enqueue l m).Parts wireParts := by
  simp only [enqueue, only_acts_cons, only_acts_nil, within_updLink, only_look_iff, and_true]
  exact ⟨by decide, fun _ => pump_wire _ _⟩

theorem noRoute_wire : noRoute.Parts wireParts := by
  simp only [noRoute, raiseLinks, only_acts_cons, only_acts_nil, cnt, within_incF, only_look_iff, only_each_iff, and_true, true_and]
  exact fun _ _ _ => raiseEvt_parts _ _ (by decide) (by decide)

theorem refuseMsg_wire (m : FabMsg) (code : Nat) (h : m.origin = .none) : (refuseMsg m code).Parts wireParts := by
  intro s
  dsimp only
  rw [h]
  refine only_ite trivial (only_ite trivial ?_)
  split
  · exact noRoute_wire
  · exact enqueue_wire _ _

theorem forwardMsg_wire (m : FabMsg) (via : Option Nat) (h : m.origin = .none) : (forwardMsg m via).Parts wireParts := by
  have hno : (acts [noRoute, refuseMsg m cNoRoute]).Parts wireParts := by
    simp only [only_acts_cons, only_acts_nil, and_true]
    exact ⟨noRoute_wire, refuseMsg_wire m _ h⟩
  intro s
  dsimp only
  split
  · exact hno
  · exact only_ite hno (enqueue_wire _ _)

theorem sendMsg_wire (dst : Nat) (b : FabBody) : (sendMsg dst .none b).Within wireParts sendKeys :=
  Act.Within.and (fun _ => forwardMsg_wire _ _ rfl : (sendMsg dst .none b).Parts wireParts) (sendMsg_sendKeys dst .none b)

/-! ### Targets -/

/-- The parts that a target touches. -/
def targetParts : List Part := .press :: .flights :: wireParts

/-- The registers that a target can touch. -/
abbrev targetKeys (k : Nat) : Prop := k = fldKey PRES_READY_CNT 0 0 ∨ sendKeys k

theorem readySend_target : readySend.Within targetParts targetKeys := by
  simp only [readySend, only_look_iff, only_ite_iff, only_acts_cons, only_acts_nil, within_updPress, and_true]
  exact fun s => ⟨fun _ => ⟨by decide, (sendMsg_wire _ _).mono (by decide) fun _ h => Or.inr h⟩, fun _ => trivial⟩

theorem sendTarget_within (src x : Nat) : (sendTarget src x).Within targetParts targetKeys := by
  intro s
  dsimp only
  refine only_ite ?_ (only_ite ?_ (only_ite ?_ trivial))
  · simp only [only_acts_cons, only_acts_nil, within_incF, checkOwn, only_look_iff, only_onlyIf_iff, within_updPress, and_true]
    exact ⟨Or.inl rfl, fun _ _ => by decide, readySend_target⟩
  · exact (only_upd_iff _ _).2 (show Part.flights ∈ targetParts by decide)
  · exact (sendMsg_wire _ _).mono (by decide) fun _ h => Or.inr h

/-- A target's increments leave those under way under way. -/
theorem flights_sendMsg (dst : Nat) (b : FabBody) (s : State) : ((sendMsg dst .none b).run s).flights = s.flights :=
  (sendMsg_wire dst b).same .flights (by decide) s

theorem flights_readySend (s : State) : (readySend.run s).flights = s.flights := by
  rw [readySend, run_look]
  split
  · rw [run_acts_cons, run_acts_cons, runs_nil, flights_sendMsg]; rfl
  · rfl

theorem sendTarget_flights (src x : Nat) (s : State) (f : Flight) (h : f ∈ s.flights) : f ∈ ((sendTarget src x).run s).flights := by
  rw [sendTarget, run_look]
  split
  · rw [run_acts_cons, run_acts_cons, run_acts_cons, runs_nil, flights_readySend, checkOwn, run_look]
    cases decide (fv ((incF PRES_READY_CNT (tgtIncr x)).run s) PRES_READY_THRESH ≤ fv ((incF PRES_READY_CNT (tgtIncr x)).run s) PRES_READY_CNT) <;>
      exact h
  · split
    · exact List.mem_append_left _ h
    · split
      · rw [flights_sendMsg]; exact h
      · exact h

/-- An increment for a counter of this device is under way. -/
theorem sendTarget_local (src x : Nat) (s : State) (h : tgtKind x = 0) :
    ⟨src, tgtTile x, tgtCounter x, tgtIncr x⟩ ∈ ((sendTarget src x).run s).flights := by
  have hloc : tgtLocal s x = true := by simp [tgtLocal, h]
  rw [sendTarget, run_look, if_neg (by omega), if_pos hloc]
  exact List.mem_append_right _ List.mem_cons_self

/-- Every local target of a list is under way once all are sent. -/
theorem each_sendTarget_local (src x : Nat) (l : List Nat) (s : State) (hx : x ∈ l) (h : tgtKind x = 0) :
    ⟨src, tgtTile x, tgtCounter x, tgtIncr x⟩ ∈ ((each l (sendTarget src)).run s).flights := by
  have hstay : ∀ (l : List Nat) (s : State) (f : Flight), f ∈ s.flights → f ∈ ((each l (sendTarget src)).run s).flights := by
    intro l f s
    exact stable_each (P := fun s => _ ∈ s.flights) (fun x _ s h => sendTarget_flights src x s _ h) f
  induction l generalizing s with
  | nil => cases hx
  | cons y l ih =>
    rw [run_each_cons]
    rcases List.mem_cons.1 hx with rfl | hx
    · exact hstay l _ _ (sendTarget_local src x s h)
    · exact ih _ hx

theorem pending_sendTarget (src x : Nat) (q : PageRef) (i : Nat) : (sendTarget src x).Stable fun s => pending s q i := by
  refine stable_look fun s => stable_ite ?_ (stable_ite ?_ (stable_ite ?_ fun _ h => h))
  · refine stable_cons (pending_incF _ _ _ _ (by decide) q i) (stable_cons ?_ (stable_cons ?_ stable_nil))
    · exact pending_of_within (ps := [.press]) (ks := fun _ => False) (by simp [checkOwn]) (fun _ h => h.elim) q i
    · refine stable_look fun _ => stable_ite (stable_cons ?_ (stable_cons (pending_sendMsg q i _ _ _) stable_nil)) fun _ h => h
      exact pending_of_within (ps := [.press]) (ks := fun _ => False) (by simp) (fun _ h => h.elim) q i
  · exact fun _ h => h
  · exact pending_sendMsg q i _ _ _

end Sys2Proof.Machine
end

section
/-! PROOF. Completion of operations (R85, R92), and the head that is checked after one fires. -/

namespace Sys2Proof.Machine

/-! ### Operations in flight, and summaries -/

/-- The queues of a tile and its summaries. -/
def tileWork (s : State) (p : Nat) : List Queue × List (List Byte) := ((tileSt s p).queues, (tileSt s p).summaries)

/-- What a queue has in flight. -/
def inFlightAt (s : State) (p q : Nat) : List InFlight := (queueSt s p q).inflight

theorem inFlightAt_of_work {s t : State} {p : Nat} (h : tileWork t p = tileWork s p) (q : Nat) : inFlightAt t p q = inFlightAt s p q := by
  have h1 : (tileSt t p).queues = (tileSt s p).queues := congrArg Prod.fst h
  rw [inFlightAt, queueSt, h1]; rfl

theorem keeps_of_noTiles {α : Type} {O : State → α} {ps : List Part} {ks : Nat → Prop} {a : Act} (h : a.Within ps ks) (hp : Part.tiles ∉ ps)
    (hO : ∀ s t : State, t.tiles = s.tiles → O t = O s) : a.Keeps O := fun s => hO s _ (h.same .tiles hp s)

theorem tileWork_congr (p : Nat) (s t : State) (h : t.tiles = s.tiles) : tileWork t p = tileWork s p := by
  rw [tileWork, tileSt_congr s t p h]; rfl

theorem inFlightAt_congr (p q : Nat) (s t : State) (h : t.tiles = s.tiles) : inFlightAt t p q = inFlightAt s p q := by
  rw [inFlightAt, queueSt_congr s t p q h]; rfl

theorem keeps_updTile_work (r p : Nat) (f : Tile → Tile) (h : ∀ t, (f t).queues = t.queues ∧ (f t).summaries = t.summaries) :
    (updTile r f).Keeps fun s => tileWork s p := fun s => by
  simp only [run_updTile, tileWork, tileSt_tile]
  split
  · rename_i hp
    subst hp
    rw [(h _).1, (h _).2]
  · rfl

theorem keeps_updQueue_inflight (r p q k : Nat) (f : Queue → Queue) (hk : k < 7) (h : ∀ x, (f x).inflight = x.inflight) :
    (updQueue r q f).Keeps fun s => inFlightAt s p k := fun s => by
  by_cases hp : p ≠ r ∨ k ≠ q
  · simp only [inFlightAt, queueSt_updQueue_ne r q f s p k hk hp]
  · obtain ⟨rfl, rfl⟩ : p = r ∧ k = q := by omega
    simp only [inFlightAt, queueSt_updQueue p k f s hk, h]

/-! ### Events that a memory leaves pending -/

section
variable (q : PageRef) (i : Nat)

theorem pending_logEntry (j kind mem addr syn : Nat) : (logEntry j kind mem addr syn).Stable fun s => pending s q i := by
  refine stable_look fun s => stable_cons (pending_setF _ _ _ _ ?_ q i) (stable_cons (pending_setF _ _ _ _ ?_ q i)
    (stable_cons (pending_setF _ _ _ _ (by decide) q i) stable_nil)) <;>
  · simp only [INTG_LOG]
    have := Nat.mod_lt (fv s INTG_LOG_HEAD j) (show 0 < 16 by decide)
    omega

theorem pending_noteMark (u : MemUnit) : (noteMark u).Stable fun s => pending s q i := by
  unfold noteMark
  split
  · exact stable_look fun s => stable_onlyIf fun _ => stable_cons (pending_setF _ _ _ _ (by simp [hdrPoisoned]) q i)
      (stable_cons (pending_event _ _ (by decide) q i) stable_nil)
  · exact fun _ h => h

theorem pending_applyFlip (u : MemUnit) (off : Nat) : (applyFlip u off).Stable fun s => pending s q i := by
  refine stable_look fun s => stable_cons (stable_ite ?_ ?_) (stable_cons (pending_setF _ _ _ _ (by decide) q i)
    (stable_cons (pending_logEntry q i _ _ _ _ _) (stable_cons (pending_event _ _ (by decide) q i) stable_nil)))
  · exact pending_of_noRegs q i (ps := [.mem, .syn]) (by simp [Upd.within])
  · exact pending_of_noRegs q i (ps := [.mem, .syn]) (by simp [Upd.within])

theorem pending_memWrite (u : MemUnit) (off : Nat) (bs : List Byte) (ms : List Bool) : (memWrite u off bs ms).Stable fun s => pending s q i := by
  refine stable_ite (fun _ h => h) (stable_look fun s => stable_cons ?_ (stable_cons ?_ (stable_cons ?_ (stable_cons
    (stable_onlyIf fun _ => pending_noteMark q i u) (stable_cons (stable_onlyIf fun _ => pending_applyFlip q i u off) stable_nil)))))
  · exact pending_of_noRegs q i (ps := [.mem]) (by simp [Upd.within])
  · exact stable_ite (fun _ h => h) (pending_of_noRegs q i (ps := [.syn]) (by simp [writeSyn, Upd.within]))
  · exact pending_of_noRegs q i (ps := [.written]) (by
      simp only [only_onlyIf_iff, only_each_iff, only_ite_iff, only_upd_iff, Upd.within]
      exact fun _ _ _ => ⟨fun _ _ _ => by decide, fun _ => by decide⟩)

end

/-! ### A completion's footprint -/

/-- The blocks whose registers a completion can touch, beside headers and Q_DONE. -/
def doneBlocks : List Blk := [.intg, .hlth, .slqp, .pres, .link, .mtrx, .vect, .winn]

/-- The parts that a completion can touch. -/
def doneParts : List Part := .tiles :: .mem :: .syn :: .written :: .free :: .cands :: .nv :: targetParts

theorem hdrOr_targetKeys (k : Nat) (h : targetKeys k) : hdrOr doneBlocks k := by
  rcases h with rfl | rfl | h | rfl
  · exact hdrOr_fldKey PRES_READY_CNT 0 0 (by decide) (by decide) (by decide)
  · exact hdrOr_fldKey LINK_LDCNT 0 0 (by decide) (by decide) (by decide)
  · exact Or.inl (by omega)
  · exact hdrOr_fldKey SLQP_QCNT 0 5 (by decide) (by decide) (by decide)

theorem raiseEvt_done (p : PageRef) (m : Nat) : (raiseEvt p m).Within doneParts (hdrOr doneBlocks) :=
  raiseEvt_hdrOr p m (by decide) (by decide) (by decide)

theorem targets_done (src : Nat) (l : List Nat) : (each l (sendTarget src)).Within doneParts (hdrOr doneBlocks) := by
  refine (only_each_iff _ _ _).2 ?_
  exact fun x _ => (sendTarget_within src x).mono (by decide) hdrOr_targetKeys

theorem winn_done (f : Fld) (p i : Nat) (hb : f.blk = .winn) (hs : f.stride = 64) (ho : f.off < 0x200) (hp : p < 160) (hi : i < 16) :
    hdrOr doneBlocks (fldKey f p i) := hdrOr_fldKey f p i (by rw [hb]; decide) (by omega) (by rw [hs]; omega)

theorem inReset_done (p i st : Nat) (hp : p < 160) (hi : i < 16) : (inReset p i st).Within doneParts (hdrOr doneBlocks) := by
  simp only [inReset, updInbox, only_acts_cons, only_acts_nil, within_updTile, within_setF, and_true]
  exact ⟨by decide, winn_done _ _ _ rfl rfl (by decide) hp hi, winn_done _ _ _ rfl rfl (by decide) hp hi, winn_done _ _ _ rfl rfl (by decide) hp hi⟩

theorem returnDone_done (p seq : Nat) (hp : p < 160) : (returnDone p seq).Within doneParts (hdrOr doneBlocks) := by
  simp only [returnDone, only_look_iff, only_each_iff, only_acts_cons, only_acts_nil, and_true]
  exact fun s i hi => ⟨(memPut_within (.galley p) _ _ hp).mono (by decide) (hdrOr_mono (by decide)),
    inReset_done p i _ hp (List.mem_range.1 (List.mem_of_mem_filter hi))⟩

/-- A completion up to the register that counts it. -/
def completeReport (p q : Nat) (f : InFlight) : Act :=
  acts [
    onlyIf f.summary (acts [updTile p fun t => { t with summaries := t.summaries ++ [summaryRecord q f] },
      raiseEvt (tilePg p) (2 ^ 19)]),
    look fun s => each f.dones (sendTarget (slotOf s p)),
    onlyIf f.evt (raiseEvt (tilePg p) (2 ^ 16)),
    onlyIf (decide (q < 3)) (each f.counts fun c => incKey (regKey (queuePage p q).blk p (c.1 % 4096)) c.2),
    raiseEvt (queuePage p q) f.events]

theorem completeOne_run (p q : Nat) (f : InFlight) (rest : List InFlight) (s : State) :
    (completeOne p q f rest).run s = (acts [look fun s => setF TILE_Q_DONE ((fv s TILE_Q_DONE p q + 1) % 65536) p q,
      onlyIf (q == 2) (returnDone p f.seq)]).run ((completeReport p q f).run ((updQueue p q fun x => { x with inflight := rest }).run s)) := by
  simp only [completeOne, completeReport, run_acts_cons, runs_nil]

theorem queuePage_block (p q : Nat) (hq : q < 3) : (queuePage p q).blk ∈ [Blk.mtrx, .vect, .winn] := by
  obtain rfl | rfl | rfl : q = 0 ∨ q = 1 ∨ q = 2 := by omega
  all_goals simp [queuePage]

theorem regKey_block (b : Blk) (p o : Nat) (hp : p < 256) (ho : o < 4096) : regKey b p o / 4096 / 256 = blkNum b := by
  unfold regKey; omega

theorem counts_done (p q : Nat) (l : List (Nat × Nat)) (hp : p < 160) (hq : q < 3) :
    (each l fun c => incKey (regKey (queuePage p q).blk p (c.1 % 4096)) c.2).Within doneParts (hdrOr doneBlocks) := by
  have hb : ∀ b ∈ [Blk.mtrx, .vect, .winn], b ∈ doneBlocks := by decide
  simp only [only_each_iff, incKey, only_look_iff, within_setKey]
  exact fun c _ _ => Or.inr ⟨_, hb _ (queuePage_block p q hq), regKey_block _ _ _ (by omega) (Nat.mod_lt _ (by decide))⟩

/-- A completion's programs, one by one. -/
theorem summary_done (p q : Nat) (f : InFlight) : (onlyIf f.summary (acts [updTile p fun t => { t with summaries := t.summaries ++ [summaryRecord q f] },
    raiseEvt (tilePg p) (2 ^ 19)])).Within doneParts (hdrOr doneBlocks) := by
  refine only_onlyIf _ _ _ fun _ => ?_
  simp only [only_acts_cons, only_acts_nil, within_updTile, and_true]
  exact ⟨by decide, raiseEvt_done _ _⟩

theorem completeReport_done (p q : Nat) (f : InFlight) (hp : p < 160) : (completeReport p q f).Within doneParts (hdrOr doneBlocks) := by
  simp only [completeReport, only_acts_cons, only_acts_nil, and_true]
  exact ⟨summary_done p q f, fun _ => targets_done _ _, only_onlyIf _ _ _ fun _ => raiseEvt_done _ _,
    only_onlyIf _ _ _ fun h => counts_done p q _ hp (of_decide_eq_true h), raiseEvt_done _ _⟩

theorem lastReturn_done (p q : Nat) (f : InFlight) (hp : p < 160) : (onlyIf (q == 2) (returnDone p f.seq)).Within doneParts (hdrOr doneBlocks) :=
  only_onlyIf _ _ _ fun _ => returnDone_done p f.seq hp

/-- What a completion touches, and Q_DONE of its queue. -/
abbrev doneKeys (p q k : Nat) : Prop := hdrOr doneBlocks k ∨ k = fldKey TILE_Q_DONE p q

theorem within_doneKeys {a : Act} (p q : Nat) (h : a.Within doneParts (hdrOr doneBlocks)) : a.Within doneParts (doneKeys p q) :=
  h.regs fun _ => Or.inl

theorem completeOne_within (p q : Nat) (f : InFlight) (rest : List InFlight) (hp : p < 160) :
    (completeOne p q f rest).Within doneParts (doneKeys p q) := by
  have hlook : (look fun s => setF TILE_Q_DONE ((fv s TILE_Q_DONE p q + 1) % 65536) p q).Within doneParts (doneKeys p q) :=
    fun _ => (within_setF _ _ _ _).2 (Or.inr rfl)
  simp only [completeOne, only_acts_cons, only_acts_nil, and_true]
  exact ⟨(within_updTile _ _).2 (by decide), within_doneKeys p q (summary_done p q f), fun _ => within_doneKeys p q (targets_done _ _),
    only_onlyIf _ _ _ fun _ => within_doneKeys p q (raiseEvt_done _ _),
    only_onlyIf _ _ _ fun h => within_doneKeys p q (counts_done p q _ hp (of_decide_eq_true h)), within_doneKeys p q (raiseEvt_done _ _), hlook,
    within_doneKeys p q (lastReturn_done p q f hp)⟩

theorem completeAtOnce_within (p q n : Nat) (hp : p < 160) :
    (completeAtOnce p q n).Within doneParts (doneKeys p q) := by
  induction n with
  | zero => trivial
  | succ n ih =>
    intro s
    dsimp only
    split
    · exact only_ite ((only_seq_iff _ _ _).2 ⟨completeOne_within p q _ _ hp, ih⟩) trivial
    · trivial

/-! ### What a completion leaves -/

theorem work_raiseEvt (p : Nat) (r : PageRef) (m : Nat) (s : State) : tileWork ((raiseEvt r m).run s) p = tileWork s p :=
  keeps_of_noTiles (O := fun s => tileWork s p) (raiseEvt_within r m) (by decide) (tileWork_congr p) s

theorem work_returnDone (p seq : Nat) (hp : p < 160) : (returnDone p seq).Keeps fun s => tileWork s p := by
  refine keeps_look _ fun s => keeps_each _ _ fun i => keeps_cons _ _ ?_ (keeps_cons _ _ ?_ keeps_nil)
  · exact keeps_of_noTiles (memPut_within (.galley p) _ _ hp) (by decide) (tileWork_congr p)
  · have hreg : ∀ f : Fld, ∀ v n, (setF f v p n).Keeps fun s => tileWork s p := fun _ _ _ _ => rfl
    exact keeps_cons _ _ (keeps_updTile_work _ _ _ fun t => ⟨rfl, rfl⟩) (keeps_cons _ _ (hreg _ _ _) (keeps_cons _ _ (hreg _ _ _)
      (keeps_cons _ _ (hreg _ _ _) keeps_nil)))

/-- The summaries that a completion adds to. -/
theorem completeReport_work (p q : Nat) (f : InFlight) (s : State) :
    tileWork ((completeReport p q f).run s) p =
      ((tileWork s p).1, if f.summary then (tileWork s p).2 ++ [summaryRecord q f] else (tileWork s p).2) := by
  have hrest : ∀ u, tileWork ((acts [look fun s => each f.dones (sendTarget (slotOf s p)), onlyIf f.evt (raiseEvt (tilePg p) (2 ^ 16)),
      onlyIf (decide (q < 3)) (each f.counts fun c => incKey (regKey (queuePage p q).blk p (c.1 % 4096)) c.2),
      raiseEvt (queuePage p q) f.events]).run u) p = tileWork u p := by
    have hev : ∀ r m, (raiseEvt r m).Keeps fun s => tileWork s p := fun r m s => work_raiseEvt p r m s
    have hinc : ∀ k a, (incKey k a).Keeps fun s => tileWork s p := fun _ _ _ => rfl
    refine keeps_cons _ _ (keeps_look _ fun s => keeps_each _ _ fun x => ?_) (keeps_cons _ _ (keeps_onlyIf _ _ (hev _ _))
      (keeps_cons _ _ (keeps_onlyIf _ _ (keeps_each _ _ fun c => hinc _ _)) (keeps_cons _ _ (hev _ _) keeps_nil)))
    exact keeps_of_noTiles (sendTarget_within _ x) (by decide) (tileWork_congr p)
  rw [completeReport, run_acts_cons, hrest]
  cases f.summary
  · rw [run_onlyIf_of_false _ _ rfl]; rfl
  · rw [run_onlyIf_of_true _ _ rfl, run_acts_cons, run_acts_cons, runs_nil, work_raiseEvt]
    simp only [run_updTile, tileWork, tileSt_tile, if_true]

section
variable (s : State) (p q : Nat) (f : InFlight) (rest : List InFlight) (hp : p < 160) (hq : q < 7)
include hp hq

/-- Q_DONE advances. -/
theorem completeOne_done : fv ((completeOne p q f rest).run s) TILE_Q_DONE p q = (fv s TILE_Q_DONE p q + 1) % 65536 := by
  have hnot : ¬ hdrOr doneBlocks (fldKey TILE_Q_DONE p q) :=
    not_hdrOr_fldKey _ _ _ (by decide) (by omega) (by simp [TILE_Q_DONE]; omega) (by simp [TILE_Q_DONE]; omega)
  have hlast : ∀ u, fv ((onlyIf (q == 2) (returnDone p f.seq)).run u) TILE_Q_DONE p q = fv u TILE_Q_DONE p q :=
    fun u => Act.Within.fv (lastReturn_done p q f hp) u _ _ _ hnot
  rw [completeOne_run, run_acts_cons, run_acts_cons, runs_nil, hlast, run_look, fv_setF_self _ _ _ _ _ ⟨by decide, by decide⟩,
    (completeReport_done p q f hp).fv _ _ _ _ hnot]
  exact Nat.mod_eq_of_lt (Nat.mod_lt _ (by decide))

/-- The rest stays in flight, and the summary is at the end of the FIFO. -/
theorem completeOne_work : inFlightAt ((completeOne p q f rest).run s) p q = rest ∧
    (tileSt ((completeOne p q f rest).run s) p).summaries =
      if f.summary then (tileSt s p).summaries ++ [summaryRecord q f] else (tileSt s p).summaries := by
  have hlast : ∀ u, tileWork ((acts [look fun s => setF TILE_Q_DONE ((fv s TILE_Q_DONE p q + 1) % 65536) p q,
      onlyIf (q == 2) (returnDone p f.seq)]).run u) p = tileWork u p :=
    keeps_cons _ _ (keeps_look _ fun _ _ => rfl) (keeps_cons _ _ (keeps_onlyIf _ _ (work_returnDone p f.seq hp)) keeps_nil)
  have hwork : tileWork ((completeOne p q f rest).run s) p = _ :=
    (congrArg (tileWork · p) (completeOne_run p q f rest s)).trans ((hlast _).trans (completeReport_work p q f _))
  have hfirst : (tileSt ((updQueue p q fun x => { x with inflight := rest }).run s) p).summaries = (tileSt s p).summaries := by
    simp only [run_updQueue, tileSt_tile, if_true]
  have hin : inFlightAt ((updQueue p q fun x => { x with inflight := rest }).run s) p q = rest := by
    rw [inFlightAt, queueSt_updQueue p q _ s hq]
  refine ⟨?_, ?_⟩
  · have h1 := congrArg Prod.fst hwork
    simp only [tileWork] at h1
    refine Eq.trans ?_ hin
    rw [inFlightAt, queueSt, h1]; rfl
  · have h2 := congrArg Prod.snd hwork
    simp only [tileWork] at h2
    rw [h2, hfirst]

omit hq in
/-- The event of an operation that asks for it is pending. -/
theorem completeOne_event (he : f.evt = true) : pending ((completeOne p q f rest).run s) (tilePg p) 16 := by
  have hblk : ∀ b ∈ [Blk.mtrx, .vect, .winn], b ≠ .tile := by decide
  have hlast : (acts [onlyIf (decide (q < 3)) (each f.counts fun c => incKey (regKey (queuePage p q).blk p (c.1 % 4096)) c.2),
      raiseEvt (queuePage p q) f.events, look fun s => setF TILE_Q_DONE ((fv s TILE_Q_DONE p q + 1) % 65536) p q,
      onlyIf (q == 2) (returnDone p f.seq)]).Stable fun s => pending s (tilePg p) 16 := by
    refine stable_cons (stable_onlyIf fun h3 => stable_each fun c _ => ?_) (stable_cons (pending_event_any _ _ _ _ (by decide))
      (stable_cons (stable_look fun _ => pending_setF _ _ _ _ ?_ _ _) (stable_cons (stable_onlyIf fun h2 => ?_) stable_nil)))
    · intro u hu
      have hk : fldKey (hdrEvtPend .tile) p 0 ≠ regKey (queuePage p q).blk p (c.1 % 4096) := by
        intro h
        have hb1 := regKey_block (queuePage p q).blk p (c.1 % 4096) (by omega) (Nat.mod_lt _ (by decide))
        have hb2 : fldKey (hdrEvtPend .tile) p 0 / 4096 / 256 = blkNum .tile := regKey_block .tile p 0x018 (by omega) (by decide)
        rw [← h, hb2] at hb1
        exact hblk _ (queuePage_block p q (of_decide_eq_true h3)) (blkNum_inj _ _ hb1.symm)
      have hkeep : ∀ v, fv ((setKey (regKey (queuePage p q).blk p (c.1 % 4096)) v).run u) (hdrEvtPend .tile) p = fv u (hdrEvtPend .tile) p :=
        fun v => keeps_setKey (hdrEvtPend .tile) _ v p 0 hk u
      show (fv ((incKey _ _).run u) (hdrEvtPend .tile) p).testBit 16 = true
      rw [incKey, run_look, hkeep]
      exact hu
    · have hq2 : (0x90 + q * 32) % 4096 ≠ 0x18 := by omega
      exact hq2
    · refine stable_look fun s => stable_each fun i hi => stable_cons (pending_memWrite _ _ _ _ _ _) (stable_cons ?_ stable_nil)
      have hi16 : i < 16 := List.mem_range.1 (List.mem_of_mem_filter hi)
      refine stable_cons (pending_of_noRegs _ _ (ps := [.tiles]) ((within_updTile _ _).2 (by decide))) (stable_cons (pending_setF _ _ _ _ ?_ _ _)
        (stable_cons (pending_setF _ _ _ _ ?_ _ _) (stable_cons (pending_setF _ _ _ _ ?_ _ _) stable_nil))) <;>
      · simp only [WINN_ENDS, WINN_IROWS, WINN_ISTATE]; omega
  have hrun : ∀ a b c d e f g h : Act, ∀ s, (acts [a, b, c, d, e, f, g, h]).run s = (acts [e, f, g, h]).run (d.run (c.run (b.run (a.run s)))) := by
    intro a b c d e f g h s
    simp only [run_acts_cons, runs_nil]
  rw [completeOne, hrun]
  refine hlast _ ?_
  rw [run_onlyIf_of_true _ _ he]
  exact pending_raiseEvt _ _ 16 _ (by decide) (by decide)

omit hq in
/-- The increments of its targets on this device are under way. -/
theorem completeOne_flights (x : Nat) (hx : x ∈ f.dones) (hk : tgtKind x = 0) :
    ⟨slotOf s p, tgtTile x, tgtCounter x, tgtIncr x⟩ ∈ ((completeOne p q f rest).run s).flights := by
  have hrest : (acts [onlyIf f.evt (raiseEvt (tilePg p) (2 ^ 16)),
      onlyIf (decide (q < 3)) (each f.counts fun c => incKey (regKey (queuePage p q).blk p (c.1 % 4096)) c.2),
      raiseEvt (queuePage p q) f.events, look fun s => setF TILE_Q_DONE ((fv s TILE_Q_DONE p q + 1) % 65536) p q,
      onlyIf (q == 2) (returnDone p f.seq)]).Keeps fun s => s.flights := by
    have hev : ∀ r m, (raiseEvt r m).Keeps fun s => s.flights := fun r m s => (raiseEvt_within r m).same .flights (by decide) s
    refine keeps_cons _ _ (keeps_onlyIf _ _ (hev _ _)) (keeps_cons _ _ (keeps_onlyIf _ _ (keeps_each _ _ fun _ _ => rfl))
      (keeps_cons _ _ (hev _ _) (keeps_cons _ _ (fun _ => rfl) (keeps_cons _ _ (keeps_onlyIf _ _ ?_) keeps_nil))))
    refine keeps_look _ fun s => keeps_each _ _ fun i => keeps_cons _ _ (fun u => (memPut_within (.galley p) _ _ hp).same .flights (by decide) u)
      (keeps_cons _ _ (fun _ => rfl) keeps_nil)
  have hrun : ∀ a b c d e f g h : Act, ∀ s, (acts [a, b, c, d, e, f, g, h]).run s = (acts [d, e, f, g, h]).run (c.run (b.run (a.run s))) := by
    intro a b c d e f g h s
    simp only [run_acts_cons, runs_nil]
  have hslot : ∀ a : Act, a.Parts [.tiles, .events, .out] → ∀ u, slotOf (a.run u) p = slotOf u p := by
    intro a ha u
    have hu : (a.run u).units = u.units := ha.same .units (by decide) u
    unfold slotOf physOf
    rw [hu]
  rw [completeOne, hrun]
  have hr : ∀ u, ((acts _).run u).flights = u.flights := hrest
  rw [hr]
  rw [run_look, hslot _ (by
    simp only [only_onlyIf_iff, only_acts_cons, only_acts_nil, within_updTile, and_true]
    exact fun _ => ⟨by decide, raiseEvt_parts _ _ (by decide) (by decide)⟩), hslot _ (by simp [updQueue])]
  exact each_sendTarget_local _ x _ _ hx hk

end

end Sys2Proof.Machine
end

section
/-! PROOF. A head that fires: its result, what completes with it, and the next head (R83, R85, R87). -/

namespace Sys2Proof.Machine

/-! ### What the check of a head leaves -/

/-- The registers that the check of a head can touch. -/
abbrev headKeys (p q k : Nat) : Prop := checkKeys p k ∨ k = fldKey TILE_QSTATE p q

theorem status_within (p q v : Nat) (f : Fld) (hf : f = TILE_QSTATE ∨ f = TILE_QREASON) : (setF f v p q).Within checkParts (headKeys p q) := by
  rw [within_setF]
  rcases hf with rfl | rfl
  · exact Or.inr rfl
  · exact Or.inr rfl

theorem within_headKeys {a : Act} (p q : Nat) (h : a.Within checkParts (checkKeys p)) : a.Within checkParts (headKeys p q) := h.regs fun _ => Or.inl

theorem haltQueue_within (p q r : Nat) : (haltQueue p q r).Within checkParts (headKeys p q) := by
  simp only [haltQueue, only_acts_cons, only_acts_nil, and_true]
  exact ⟨status_within p q _ _ (Or.inl rfl), status_within p q _ _ (Or.inr rfl),
    within_headKeys p q (within_check p (raiseEvt_memory _ _) (by decide) (hdrOr_mono (by decide)))⟩

theorem haltPoisoned_within (p q a : Nat) (hp : p < 160) : (haltPoisoned p q a).Within checkParts (headKeys p q) := by
  simp only [haltPoisoned, only_acts_cons, only_acts_nil, and_true]
  exact ⟨haltQueue_within p q 3, within_headKeys p q (consume_check p q a hp)⟩

theorem checkOutcome_within (p q : Nat) (d : Desc) (ctl : List Byte) (hp : p < 160) : (checkOutcome p q d ctl).Within checkParts (headKeys p q) := by
  intro s
  refine only_ite ?_ ?_
  · simp only [only_acts_cons, only_acts_nil, and_true]
    exact ⟨haltQueue_within p q 1, within_headKeys p q (recordReject_check p _ _ _)⟩
  · simp only [only_acts_cons, only_acts_nil, updQueue, within_updTile, and_true]
    exact ⟨by decide, only_onlyIf _ _ _ fun _ => (within_incF _ _ _ _).2 (Or.inl (Or.inr rfl)),
      only_onlyIf _ _ _ fun _ => within_headKeys p q (covBind_within p d hp),
      only_onlyIf _ _ _ fun _ => within_headKeys p q (covFlushBind_within p d hp), status_within p q _ _ (Or.inl rfl)⟩

theorem headCheck_within (p q : Nat) (hp : p < 160) : (headCheck p q).Within checkParts (headKeys p q) := by
  intro s
  refine only_ite (status_within p q _ _ (Or.inl rfl)) ?_
  simp only [only_acts_cons, only_acts_nil, and_true]
  refine ⟨status_within p q _ _ (Or.inl rfl), within_headKeys p q (touch_check p _ _ hp), fun t => ?_⟩
  dsimp only
  split
  · exact haltPoisoned_within p q _ hp
  · split
    · exact checkOutcome_within p q _ _ hp
    · simp only [only_acts_cons, only_acts_nil, and_true]
      refine ⟨within_headKeys p q (touch_check p _ _ hp), fun u => ?_⟩
      dsimp only
      split
      · exact haltPoisoned_within p q _ hp
      · exact checkOutcome_within p q _ _ hp

section
variable (p k : Nat)

theorem inFlight_of_work {a : Act} (h : a.Keeps fun s => tileWork s p) : a.Keeps fun s => inFlightAt s p k :=
  fun s => inFlightAt_of_work (h s) k

theorem inFlight_of_noTiles {a : Act} {ps : List Part} {ks : Nat → Prop} (h : a.Within ps ks) (hp : Part.tiles ∉ ps) :
    a.Keeps fun s => inFlightAt s p k := keeps_of_noTiles h hp (inFlightAt_congr p k)

theorem inFlight_setF (f : Fld) (v i n : Nat) : (setF f v i n).Keeps fun s => inFlightAt s p k := fun _ => rfl

theorem inFlight_incF (f : Fld) (v i n : Nat) : (incF f v i n).Keeps fun s => inFlightAt s p k := fun _ => rfl

theorem inFlight_updCov (r n : Nat) (c : CovSlot) : (updCov r n c).Keeps fun s => inFlightAt s p k :=
  inFlight_of_work p k (keeps_updTile_work _ _ _ fun _ => ⟨rfl, rfl⟩)

theorem inFlight_raiseEvt (r : PageRef) (m : Nat) : (raiseEvt r m).Keeps fun s => inFlightAt s p k :=
  inFlight_of_noTiles p k (raiseEvt_within r m) (by decide)

end

theorem keeps_ite {α : Type} {O : State → α} {c : Prop} [Decidable c] {a b : Act} (ha : a.Keeps O) (hb : b.Keeps O) :
    (if c then a else b).Keeps O := by
  split
  · exact ha
  · exact hb

/-- What is seen of the tiles alone, of no covariance slot and of no head. -/
structure HeadBlind {α : Type} (O : State → α) : Prop where
  tiles : ∀ s t : State, t.tiles = s.tiles → O t = O s
  cov : ∀ r n c, (updCov r n c).Keeps O
  head : ∀ r j d ctl, (updQueue r j fun x => { x with
    head := d
    ctl := ctl
    waitEdges := 0 }).Keeps O

section
variable {α : Type} {O : State → α} (hO : HeadBlind O)
include hO

theorem HeadBlind.noTiles {a : Act} {ps : List Part} {ks : Nat → Prop} (h : a.Within ps ks) (hp : Part.tiles ∉ ps) : a.Keeps O :=
  keeps_of_noTiles h hp hO.tiles

theorem HeadBlind.setF (f : Fld) (v i n : Nat) : (setF f v i n).Keeps O := fun s => hO.tiles s _ rfl

theorem HeadBlind.incF (f : Fld) (v i n : Nat) : (incF f v i n).Keeps O := fun s => hO.tiles s _ rfl

theorem HeadBlind.covEmpty (r n : Nat) : (covEmpty r n).Keeps O :=
  keeps_cons _ _ (hO.setF _ _ _ _) (keeps_cons _ _ (hO.setF _ _ _ _) (keeps_cons _ _ (hO.setF _ _ _ _) (keeps_cons _ _ (hO.setF _ _ _ _)
    (keeps_cons _ _ (hO.setF _ _ _ _) (keeps_cons _ _ (hO.setF _ _ _ _) (keeps_cons _ _ (hO.cov _ _ _) keeps_nil))))))

theorem HeadBlind.covBind (r : Nat) (d : Desc) : (covBind r d).Keeps O := by
  refine keeps_ite keeps_done (keeps_each _ _ fun e => keeps_look _ fun s => keeps_ite ?_ keeps_done)
  exact keeps_cons _ _ (hO.covEmpty _ _) (keeps_cons _ _ (hO.setF _ _ _ _) (keeps_cons _ _ (hO.setF _ _ _ _)
    (keeps_cons _ _ (hO.setF _ _ _ _) (keeps_cons _ _ (hO.setF _ _ _ _) keeps_nil))))

theorem HeadBlind.covFlushBind (r : Nat) (d : Desc) : (covFlushBind r d).Keeps O := by
  refine keeps_ite (keeps_each _ _ fun n => keeps_look _ fun s => keeps_ite ?_ keeps_done) keeps_done
  exact keeps_cons _ _ (hO.covEmpty _ _) (keeps_cons _ _ (hO.cov _ _ _) keeps_nil)

theorem HeadBlind.haltQueue (r j x : Nat) : (haltQueue r j x).Keeps O :=
  keeps_cons _ _ (hO.setF _ _ _ _) (keeps_cons _ _ (hO.setF _ _ _ _) (keeps_cons _ _ (hO.noTiles (raiseEvt_within _ _) (by decide)) keeps_nil))

theorem HeadBlind.haltPoisoned (r j a : Nat) (hr : r < 160) : (haltPoisoned r j a).Keeps O :=
  keeps_cons _ _ (hO.haltQueue _ _ _) (keeps_cons _ _ (hO.noTiles (consume_within _ _ (queuePage_intg r j hr)) (by decide)) keeps_nil)

theorem HeadBlind.checkOutcome (r j : Nat) (d : Desc) (ctl : List Byte) : (checkOutcome r j d ctl).Keeps O := by
  refine keeps_look _ fun s => keeps_ite ?_ ?_
  · exact keeps_cons _ _ (hO.haltQueue _ _ _) (keeps_cons _ _ (hO.noTiles (recordReject_within _ _ _) (by decide)) keeps_nil)
  · exact keeps_cons _ _ (hO.head _ _ _ _) (keeps_cons _ _ (keeps_onlyIf _ _ (hO.incF _ _ _ _))
      (keeps_cons _ _ (keeps_onlyIf _ _ (hO.covBind _ _)) (keeps_cons _ _ (keeps_onlyIf _ _ (hO.covFlushBind _ _))
        (keeps_cons _ _ (hO.setF _ _ _ _) keeps_nil))))

/-- The check of a head leaves what does not see covariance slots and heads. -/
theorem HeadBlind.headCheck (r j : Nat) (hr : r < 160) : (headCheck r j).Keeps O := by
  have htouch : ∀ off n, (touch (.galley r) off n).Keeps O := fun off n => hO.noTiles (touch_within _ _ _ hr) (by decide)
  refine keeps_look _ fun s => keeps_ite (hO.setF _ _ _ _) (keeps_cons _ _ (hO.setF _ _ _ _) (keeps_cons _ _ (htouch _ _)
    (keeps_cons _ _ (keeps_look _ fun t => ?_) keeps_nil)))
  split
  · exact hO.haltPoisoned r j _ hr
  · dsimp only
    split
    · exact hO.checkOutcome r j _ _
    · refine keeps_cons _ _ (htouch _ _) (keeps_cons _ _ (keeps_look _ fun u => ?_) keeps_nil)
      split
      · exact hO.haltPoisoned r j _ hr
      · exact hO.checkOutcome r j _ _

end

theorem headBlind_inFlight (p k : Nat) (hk : k < 7) : HeadBlind fun s => inFlightAt s p k :=
  ⟨inFlightAt_congr p k, inFlight_updCov p k, fun r j _ _ => keeps_updQueue_inflight r p j k _ hk fun _ => rfl⟩

theorem inFlight_covEmpty (p k r n : Nat) (hk : k < 7) : (covEmpty r n).Keeps fun s => inFlightAt s p k := (headBlind_inFlight p k hk).covEmpty r n

/-- The check of a head leaves in flight what was. -/
theorem inFlight_headCheck (p k : Nat) (hk : k < 7) (r j : Nat) (hr : r < 160) : (headCheck r j).Keeps fun s => inFlightAt s p k :=
  (headBlind_inFlight p k hk).headCheck r j hr

/-! ### Firing -/

/-- What a result leaves in flight. -/
def flownOf (q : Nat) (d : Desc) (seq : Nat) (nop : Bool) (r : OpResult) (undo : List (Nat × List (Byte × Nat))) : InFlight :=
  { inFlightOf d seq r nop with
    slots := if q = 0 then slotsNamed d else []
    undo := undo }

/-- A result's writes land, and marked words it read are noted. -/
def resultLands (p q : Nat) (r : OpResult) : Act :=
  acts [commitWrites r.writes, match r.consumed with | some a => consume (queuePage p q) a | none => .done]

/-- A result goes in flight; what can complete does, and the next head is checked. -/
def resultFlies (p q : Nat) (x : InFlight) : Act :=
  acts [updQueue p q fun y => { y with
      inflight := y.inflight ++ [x]
      head := []
      ctl := [] }, completeAtOnce p q 4, headCheck p q]

/-- How an engine's work ends. -/
def fireEnd (p q : Nat) (d : Desc) (seq : Nat) (nop : Bool) (r : OpResult) : Act :=
  look fun u => acts [resultLands p q r, resultFlies p q (flownOf q d seq nop r (outputNow u r.writes))]

theorem fireEnd_run (p q : Nat) (d : Desc) (seq : Nat) (nop : Bool) (r : OpResult) (u : State) :
    (fireEnd p q d seq nop r).run u = (resultFlies p q (flownOf q d seq nop r (outputNow u r.writes))).run ((resultLands p q r).run u) := by
  rw [fireEnd, run_look, run_acts_cons, run_acts_cons, runs_nil]

/-- An engine whose work is to go on with a result from a state, however it got there. -/
def EngineGives (work : Engine) (d : Desc) (ctl : List Byte) (seq : Nat) (s u : State) (r : OpResult) : Prop :=
  ∀ k : OpResult → Act, (work d ctl seq k).run s = (k r).run u

/-- A head that fires: the engine works, and its result goes on. -/
theorem fire_run (p q op : Nat) (nop : Desc → Bool) (work : Engine) (s u : State) (r : OpResult) (hc : canFire s p q = true)
    (ho : hOpcode (headDesc s p q) = op)
    (hw : EngineGives work (headDesc s p q) (queueSt s p q).ctl (fv s TILE_Q_HEAD p q) (fired s p q) u r) :
    (fire p q op nop work).run s =
      (fireEnd p q (headDesc s p q) (fv s TILE_Q_HEAD p q) (nop (headDesc s p q)) r).run u := by
  have hcond : (canFire s p q && hOpcode (headDesc s p q) == op) = true := by rw [hc, ho]; simp
  have hfired : ∀ a, (acts [deduct p (headDesc s p q), setF TILE_Q_HEAD ((fv s TILE_Q_HEAD p q + 1) % 65536) p q, a]).run s = a.run (fired s p q) := by
    intro a
    rw [run_acts_cons, run_acts_cons, run_acts_cons, runs_nil, fired, run_acts_cons, run_acts_cons, runs_nil]
  rw [fire, run_look]
  dsimp only
  rw [if_pos hcond, hfired, hw, run_look, fireEnd_run]
  rw [resultFlies, resultLands]
  simp only [run_acts_cons, runs_nil]
  rfl

end Sys2Proof.Machine
end

section
/-! PROOF. What a fired head leaves (R83, R85), and the reports of completions (R85, R92). -/

namespace Sys2Proof.Machine

section
variable (p q : Nat) (hp : p < 160) (hq : q < 7)
include hp hq

/-! ### Registers of the tile -/

theorem ring_not_done (f : Fld) (hf : f = TILE_Q_HEAD ∨ f = TILE_Q_TAIL) : ¬ doneKeys p q (fldKey f p q) := by
  rintro (h | h)
  · rcases hf with rfl | rfl
    · exact not_hdrOr_fldKey _ _ _ (by decide) (by omega) (by simp [TILE_Q_HEAD]; omega) (by simp [TILE_Q_HEAD]; omega) h
    · exact not_hdrOr_fldKey _ _ _ (by decide) (by omega) (by simp [TILE_Q_TAIL]; omega) (by simp [TILE_Q_TAIL]; omega) h
  · rcases hf with rfl | rfl
    · exact fldKey_ne_off TILE_Q_HEAD TILE_Q_DONE p q q rfl (by simp [TILE_Q_HEAD, TILE_Q_DONE]) h
    · exact fldKey_ne_off TILE_Q_TAIL TILE_Q_DONE p q q rfl (by simp [TILE_Q_TAIL, TILE_Q_DONE]) h

omit hq in
theorem token_block (bs : List Blk) (c : Nat) (hc : c < 256) (hb : Blk.tile ∉ bs) : ¬ hdrOr bs (fldKey TILE_TOKEN p c) :=
  not_hdrOr_fldKey _ _ _ hb (by omega) (by simp [TILE_TOKEN]; omega) (by simp [TILE_TOKEN]; omega)

theorem token_not_done (c : Nat) (hc : c < 256) : ¬ doneKeys p q (fldKey TILE_TOKEN p c) := by
  rintro (h | h)
  · exact token_block p hp _ c hc (by decide) h
  · exact fldKey_ne_off TILE_TOKEN TILE_Q_DONE p c q rfl (by simp [TILE_TOKEN, TILE_Q_DONE]; omega) h

theorem token_not_head (c : Nat) (hc : c < 256) : ¬ headKeys p q (fldKey TILE_TOKEN p c) := by
  rintro ((h | h) | h)
  · exact token_block p hp _ c hc (by decide) h
  · exact fldKey_ne_off TILE_TOKEN TILE_CNT_LATE_GATE p c 0 rfl (by simp [TILE_TOKEN, TILE_CNT_LATE_GATE]; omega) h
  · exact fldKey_ne_off TILE_TOKEN TILE_QSTATE p c q rfl (by simp [TILE_TOKEN, TILE_QSTATE]; omega) h

/-! ### A result goes in flight -/

omit hp in
theorem inFlight_added (x : InFlight) (u : State) : inFlightAt ((updQueue p q fun y => { y with
    inflight := y.inflight ++ [x]
    head := []
    ctl := [] }).run u) p q = inFlightAt u p q ++ [x] := by
  rw [inFlightAt, queueSt_updQueue p q _ u hq]; rfl

/-- The ring and the tokens are as they were but for Q_DONE, and the next head is decided on. -/
theorem resultFlies_ring (x : InFlight) (u : State) :
    fv ((resultFlies p q x).run u) TILE_Q_HEAD p q = fv u TILE_Q_HEAD p q ∧ headDecided ((resultFlies p q x).run u) p q ∧
      ∀ c, c < 256 → tok ((resultFlies p q x).run u) p c = tok u p c := by
  rw [resultFlies, run_acts_cons, run_acts_cons, run_acts_cons, runs_nil]
  obtain ⟨hring, hdec⟩ := headCheck_decides ((completeAtOnce p q 4).run ((updQueue p q fun y => { y with
    inflight := y.inflight ++ [x]
    head := []
    ctl := [] }).run u)) p q hp hq
  refine ⟨?_, hdec, fun c hc => ?_⟩
  · rw [hring TILE_Q_HEAD (by simp [ringFields]), (completeAtOnce_within p q 4 hp).fv _ _ _ _ (ring_not_done p q hp hq _ (Or.inl rfl))]
    rfl
  · rw [tok, (headCheck_within p q hp).fv _ _ _ _ (token_not_head p q hp hq c hc),
      (completeAtOnce_within p q 4 hp).fv _ _ _ _ (token_not_done p q hp hq c hc)]
    rfl

theorem done_headCheck (u : State) : fv ((headCheck p q).run u) TILE_Q_DONE p q = fv u TILE_Q_DONE p q :=
  (headCheck_decides u p q hp hq).1 _ (by simp [ringFields])

theorem flies_headCheck (u : State) : inFlightAt ((headCheck p q).run u) p q = inFlightAt u p q := inFlight_headCheck p q hq p q hp u

omit hp hq in
/-- Where the oldest operation is not to complete at once, none does. -/
theorem completeAtOnce_none (n : Nat) (u : State) (h : ∀ f rest, inFlightAt u p q = f :: rest → f.atOnce = false) :
    (completeAtOnce p q n).run u = u := by
  cases n with
  | zero => rfl
  | succ n =>
    rw [completeAtOnce, run_look]
    split
    · rename_i f rest hf
      rw [if_neg (by simp [h f rest hf])]; rfl
    · rfl

/-- A result that waits stays in flight behind the operations before it. -/
theorem resultFlies_waits (x : InFlight) (u : State) (hall : ∀ f ∈ inFlightAt u p q, f.atOnce = false) (hx : x.atOnce = false) :
    fv ((resultFlies p q x).run u) TILE_Q_DONE p q = fv u TILE_Q_DONE p q ∧
      inFlightAt ((resultFlies p q x).run u) p q = inFlightAt u p q ++ [x] := by
  have hin := inFlight_added p q hq x u
  rw [resultFlies, run_acts_cons, run_acts_cons, run_acts_cons, runs_nil, completeAtOnce_none]
  · rw [done_headCheck p q hp hq, flies_headCheck p q hp hq, hin]
    exact ⟨rfl, rfl⟩
  · intro f rest hf
    have hmem : f ∈ inFlightAt u p q ++ [x] := by rw [← hin, hf]; exact List.mem_cons_self
    rcases List.mem_append.1 hmem with h | h
    · exact hall f h
    · rw [List.mem_singleton.1 h]; exact hx

/-- A result that is complete at once, with none before it. -/
theorem resultFlies_done (x : InFlight) (u : State) (hnone : inFlightAt u p q = []) (hx : x.atOnce = true) (hs : x.summary = false) :
    fv ((resultFlies p q x).run u) TILE_Q_DONE p q = (fv u TILE_Q_DONE p q + 1) % 65536 ∧
      inFlightAt ((resultFlies p q x).run u) p q = [] := by
  have hin := inFlight_added p q hq x u
  rw [hnone, List.nil_append] at hin
  rw [resultFlies, run_acts_cons, run_acts_cons, run_acts_cons, runs_nil, done_headCheck p q hp hq, flies_headCheck p q hp hq]
  have hone : ∀ v, inFlightAt v p q = [x] → (completeAtOnce p q 4).run v = (completeOne p q x []).run v := by
    intro v hv
    have hv' : (queueSt v p q).inflight = [x] := hv
    rw [completeAtOnce, run_look, hv']
    dsimp only
    rw [hx, hs, if_pos (by rfl), Act.run_seq, completeAtOnce_none]
    intro f rest hf
    rw [(completeOne_work v p q x [] hp hq).1] at hf
    cases hf
  rw [hone _ hin, completeOne_done _ p q x [] hp hq, (completeOne_work _ p q x [] hp hq).1]
  exact ⟨rfl, rfl⟩

end

/-! ### The head that fired -/

theorem deduct_within (p : Nat) (d : Desc) : (deduct p d).Within [] fun k => ∃ c, c < 256 ∧ k = fldKey TILE_TOKEN p c := by
  have hsub : ∀ c amt, c < 256 → (subToken p c amt).Within [] fun k => ∃ c, c < 256 ∧ k = fldKey TILE_TOKEN p c :=
    fun c amt hc s => (within_setF _ _ _ _).2 ⟨c, hc, rfl⟩
  simp only [deduct, only_acts_cons, only_acts_nil, and_true]
  exact ⟨(only_each_iff _ _ _).2 fun n _ => hsub _ _ (bits_lt _ _ _), only_onlyIf _ _ _ fun _ => hsub _ _ (bits_lt _ _ _)⟩

/-- The registers that the fire of a head touches: its tokens and Q_HEAD. -/
theorem fired_within (s : State) (p q : Nat) :
    (acts [deduct p (headDesc s p q), setF TILE_Q_HEAD ((fv s TILE_Q_HEAD p q + 1) % 65536) p q]).Within []
      fun k => (∃ c, c < 256 ∧ k = fldKey TILE_TOKEN p c) ∨ k = fldKey TILE_Q_HEAD p q := by
  simp only [only_acts_cons, only_acts_nil, and_true]
  exact ⟨(deduct_within p _).regs fun _ => Or.inl, (within_setF _ _ _ _).2 (Or.inr rfl)⟩

theorem fired_tiles (s : State) (p q : Nat) : (fired s p q).tiles = s.tiles := (fired_within s p q).same .tiles (by decide) s

theorem fired_inFlight (s : State) (p q : Nat) : inFlightAt (fired s p q) p q = inFlightAt s p q := inFlightAt_congr p q s _ (fired_tiles s p q)

theorem fired_head (s : State) (p q : Nat) : fv (fired s p q) TILE_Q_HEAD p q = (fv s TILE_Q_HEAD p q + 1) % 65536 := by
  rw [fired, run_acts_cons, run_acts_cons, runs_nil, fv_setF_self _ _ _ _ _ ⟨by decide, by decide⟩]
  exact Nat.mod_eq_of_lt (Nat.mod_lt _ (by decide))

theorem fired_done (s : State) (p q : Nat) (hq : q < 7) : fv (fired s p q) TILE_Q_DONE p q = fv s TILE_Q_DONE p q := by
  refine (fired_within s p q).fv s _ _ _ ?_
  rintro (⟨c, -, h⟩ | h)
  · exact fldKey_ne_off TILE_Q_DONE TILE_TOKEN p q c rfl (by simp [TILE_Q_DONE, TILE_TOKEN]; omega) h
  · exact fldKey_ne_off TILE_Q_DONE TILE_Q_HEAD p q q rfl (by simp [TILE_Q_DONE, TILE_Q_HEAD]) h

/-! ### DESCRIPTOR_NOP -/

theorem resultLands_none (p q : Nat) (u : State) : (resultLands p q OpResult.none).run u = u := by
  rw [resultLands, run_acts_cons, run_acts_cons, runs_nil]
  exact (runs_done _).trans (runs_each_nil _ u)

theorem descriptorNop_state (s : State) (p q : Nat) (hp : p < 160) (hq : q < 7) (hc : canFire s p q = true) (ho : hOpcode (headDesc s p q) = 0) :
    fv ((fire p q 0 (fun _ => true) nopEngine).run s) TILE_Q_HEAD p q = (fv s TILE_Q_HEAD p q + 1) % 65536 ∧
    headDecided ((fire p q 0 (fun _ => true) nopEngine).run s) p q ∧
    (inFlightAt s p q = [] → hSummary (headDesc s p q) = false →
      fv ((fire p q 0 (fun _ => true) nopEngine).run s) TILE_Q_DONE p q = (fv s TILE_Q_DONE p q + 1) % 65536 ∧
      inFlightAt ((fire p q 0 (fun _ => true) nopEngine).run s) p q = []) := by
  rw [fire_run p q 0 _ nopEngine s (fired s p q) OpResult.none hc ho (fun k => rfl), fireEnd_run, resultLands_none]
  obtain ⟨h1, h2, -⟩ := resultFlies_ring p q hp hq (flownOf q (headDesc s p q) (fv s TILE_Q_HEAD p q) true OpResult.none
    (outputNow (fired s p q) OpResult.none.writes)) (fired s p q)
  refine ⟨h1.trans (fired_head s p q), h2, fun hnone hsum => ?_⟩
  obtain ⟨h3, h4⟩ := resultFlies_done p q hp hq (flownOf q (headDesc s p q) (fv s TILE_Q_HEAD p q) true OpResult.none
    (outputNow (fired s p q) OpResult.none.writes)) (fired s p q) ((fired_inFlight s p q).trans hnone) rfl hsum
  exact ⟨h3.trans (by rw [fired_done s p q hq]), h4⟩

/-! ### DESCRIPTOR_COMPLETE -/

theorem completeOldest_run (s : State) (p q : Nat) (f : InFlight) (rest : List InFlight) (hin : inFlightAt s p q = f :: rest)
    (hheld : writerHeld s (1 + 7 * p + q) f.seq = false) :
    (completeOldest p q).run s = (if f.summary && summaryFull s p then incF TILE_CNT_SUM_STALL 1 p
      else acts [completeOne p q f rest, completeAtOnce p q 4]).run s := by
  have hin' : (queueSt s p q).inflight = f :: rest := hin
  rw [completeOldest, run_look, hin']
  dsimp only
  rw [hheld, if_neg (by decide)]

theorem completeOldest_stalled (s : State) (p q : Nat) (f : InFlight) (rest : List InFlight) (hin : inFlightAt s p q = f :: rest)
    (hheld : writerHeld s (1 + 7 * p + q) f.seq = false) (hfull : f.summary = true ∧ summaryFull s p = true) :
    ((completeOldest p q).run s).tiles = s.tiles ∧
      fv ((completeOldest p q).run s) TILE_CNT_SUM_STALL p = min (2 ^ 32 - 1) (fv s TILE_CNT_SUM_STALL p + 1) ∧
      ((completeOldest p q).run s).out = s.out := by
  rw [completeOldest_run s p q f rest hin hheld, if_pos (by rw [hfull.1, hfull.2]; rfl)]
  exact ⟨rfl, fv_incF_word s TILE_CNT_SUM_STALL p 0 rfl rfl, rfl⟩

theorem completeOldest_completes (s : State) (p q : Nat) (f : InFlight) (rest : List InFlight) (hp : p < 160) (hq : q < 7)
    (hin : inFlightAt s p q = f :: rest) (hheld : writerHeld s (1 + 7 * p + q) f.seq = false)
    (hroom : ¬ (f.summary = true ∧ summaryFull s p = true)) (hrest : ∀ x ∈ rest, x.atOnce = false) :
    (completeOldest p q).run s = (completeOne p q f rest).run s := by
  rw [completeOldest_run s p q f rest hin hheld, if_neg (by simpa using hroom), run_acts_cons, run_acts_cons, runs_nil, completeAtOnce_none]
  intro g gs hg
  rw [(completeOne_work s p q f rest hp hq).1] at hg
  exact hrest g (hg ▸ List.mem_cons_self)

/-- Settles O21, from what a completion leaves. -/
theorem completionsReport : Obligations.CompletionsReport := by
  unfold Obligations.CompletionsReport
  refine ⟨fun s tile q hq hc ho => ?_, fun s tile q f rest hq hin hheld => ⟨fun hfull => ?_, fun hroom hrest => ?_⟩⟩
  · have hrun : exec (.descriptorNop tile q) s = .next ((fire (physOf s tile) q 0 (fun _ => true) nopEngine).run s) :=
      congrArg Host.Outcome.next (run_onlyIf_of_true _ s (decide_eq_true hq))
    obtain ⟨h1, h2, h3⟩ := descriptorNop_state s _ q (physOf_lt s tile) hq hc ho
    exact ⟨_, hrun, h1, h2, h3⟩
  · exact ⟨_, rfl, completeOldest_stalled s _ q f rest hin hheld hfull⟩
  · have hrun : exec (.descriptorComplete tile q) s = .next ((completeOne (physOf s tile) q f rest).run s) :=
      congrArg Host.Outcome.next (completeOldest_completes s _ q f rest (physOf_lt s tile) hq hin hheld hroom hrest)
    obtain ⟨h1, h2⟩ := completeOne_work s _ q f rest (physOf_lt s tile) hq
    exact ⟨_, hrun, completeOne_done s _ q f rest (physOf_lt s tile) hq, h1, h2, completeOne_event s _ q f rest (physOf_lt s tile),
      fun x hx hk => completeOne_flights s _ q f rest (physOf_lt s tile) x hx hk⟩

end Sys2Proof.Machine
end

section
/-! PROOF. Operations that write galley memory, from a head that fires (R83, R85). -/

namespace Sys2Proof.Machine

/-! ### Programs that leave memory alone -/

/-- The parts that a completion touches where no inbox returns. -/
def flyParts : List Part := .tiles :: targetParts

section
variable (p q : Nat)

theorem raiseEvt_fly (r : PageRef) (m : Nat) : (raiseEvt r m).Parts flyParts := raiseEvt_parts r m (by decide) (by decide)

theorem consume_events (r : PageRef) (a : Nat) : (consume r a).Parts [.events, .out] := by
  simp only [consume, cnt, only_acts_cons, only_acts_nil, within_incF, and_true]
  exact ⟨raiseEvt_parts _ _ (by decide) (by decide), trivial, logEntry_parts _ _ _ _ _, raiseEvt_parts _ _ (by decide) (by decide),
    healthNotice_parts _ (by decide) (by decide)⟩

theorem consume_fly (r : PageRef) (a : Nat) : (consume r a).Parts flyParts := (consume_events r a).parts (by decide)

theorem completeOne_fly (f : InFlight) (rest : List InFlight) (hq : q ≠ 2) : (completeOne p q f rest).Parts flyParts := by
  have htargets : (look fun s => each f.dones (sendTarget (slotOf s p))).Parts flyParts :=
    fun _ => (only_each_iff _ _ _).2 fun x _ => (sendTarget_within _ x).parts (by decide)
  have hcounts : (each f.counts fun c => incKey (regKey (queuePage p q).blk p (c.1 % 4096)) c.2).Parts flyParts := by
    simp only [only_each_iff, incKey, only_look_iff, within_setKey]
    exact fun _ _ _ => trivial
  have hdone : (look fun s => setF TILE_Q_DONE ((fv s TILE_Q_DONE p q + 1) % 65536) p q).Parts flyParts :=
    fun _ => (within_setF _ _ _ _).2 trivial
  simp only [completeOne, only_acts_cons, only_acts_nil, and_true]
  refine ⟨(within_updTile _ _).2 (by decide), only_onlyIf _ _ _ fun _ => ?_, htargets, only_onlyIf _ _ _ fun _ => raiseEvt_fly _ _,
    only_onlyIf _ _ _ fun _ => hcounts, raiseEvt_fly _ _, hdone, only_onlyIf _ _ _ fun h => absurd (beq_iff_eq.1 h) hq⟩
  simp only [only_acts_cons, only_acts_nil, within_updTile, and_true]
  exact ⟨by decide, raiseEvt_fly _ _⟩

theorem completeAtOnce_fly (n : Nat) (hq : q ≠ 2) : (completeAtOnce p q n).Parts flyParts := by
  induction n with
  | zero => trivial
  | succ n ih =>
    intro s
    dsimp only
    split
    · exact only_ite ((only_seq_iff _ _ _).2 ⟨completeOne_fly p q _ _ hq, ih⟩) trivial
    · trivial

theorem haltQueue_fly (r : Nat) : (haltQueue p q r).Parts flyParts := by
  simp only [haltQueue, only_acts_cons, only_acts_nil, within_setF, and_true, true_and]
  exact raiseEvt_fly _ _

theorem haltPoisoned_fly (a : Nat) : (haltPoisoned p q a).Parts flyParts := by
  simp only [haltPoisoned, only_acts_cons, only_acts_nil, and_true]
  exact ⟨haltQueue_fly p q 3, consume_fly _ a⟩

theorem covEmpty_fly (n : Nat) : (covEmpty p n).Parts flyParts := by
  simp only [covEmpty, updCov, only_acts_cons, only_acts_nil, within_setF, within_updTile, and_true, true_and]
  decide

theorem covBind_fly (d : Desc) : (covBind p d).Parts flyParts := by
  unfold covBind
  split
  · trivial
  · simp only [only_each_iff, only_look_iff, only_ite_iff, only_acts_cons, only_acts_nil, within_setF, and_true]
    exact fun e _ s => ⟨fun _ => covEmpty_fly p _, fun _ => trivial⟩

theorem covFlushBind_fly (d : Desc) : (covFlushBind p d).Parts flyParts := by
  unfold covFlushBind
  split
  · simp only [only_each_iff, only_look_iff, only_ite_iff, only_acts_cons, only_acts_nil, updCov, within_updTile, and_true]
    exact fun n _ s => ⟨fun _ => ⟨covEmpty_fly p _, by decide⟩, fun _ => trivial⟩
  · trivial

theorem checkOutcome_fly (d : Desc) (ctl : List Byte) : (checkOutcome p q d ctl).Parts flyParts := by
  intro s
  refine only_ite ?_ ?_
  · simp only [only_acts_cons, only_acts_nil, and_true]
    exact ⟨haltQueue_fly p q 1, recordReject_parts _ _ _ (by decide) (by decide)⟩
  · simp only [only_acts_cons, only_acts_nil, updQueue, within_updTile, within_setF, and_true]
    exact ⟨by decide, only_onlyIf _ _ _ fun _ => (within_incF _ _ _ _).2 trivial, only_onlyIf _ _ _ fun _ => covBind_fly p d,
      only_onlyIf _ _ _ fun _ => covFlushBind_fly p d⟩

end

/-! ### A tile's galley memory with nothing to find in it -/

/-- A tile's galley memory holds no mark, and no region of it awaits its first write. -/
def galleyPlain (s : State) (p : Nat) : Prop := s.syn = [] ∧ anyWriteFirst s (.galley p) = false

theorem touch_plain {s : State} {p : Nat} (h : galleyPlain s p) (off n : Nat) : (touch (.galley p) off n).run s = s := by
  obtain ⟨hsyn, hw⟩ := h
  rw [touch, run_look, if_pos (by rw [hsyn, hw]; rfl), runs_done]

theorem touchAll_plain {s : State} {p : Nat} (h : galleyPlain s p) (rs : State → List GRead) : (touchAll p rs).run s = s := by
  obtain ⟨hsyn, hw⟩ := h
  rw [touchAll, run_look, if_pos (by rw [hsyn, hw]; rfl), runs_done]

theorem any_congr {α : Type} {l : List α} {f g : α → Bool} (h : ∀ x ∈ l, f x = g x) : l.any f = l.any g := by
  induction l with
  | nil => rfl
  | cons x l ih => rw [List.any_cons, List.any_cons, h x List.mem_cons_self, ih fun y hy => h y (List.mem_cons_of_mem _ hy)]

theorem galleyPlain_within {a : Act} {ps : List Part} {ks : Nat → Prop} {s : State} {p : Nat} (h : a.Within ps ks) (hps : Part.syn ∉ ps)
    (hk : ∀ r, r < 8 → ¬ ks (fldKey GALY_RVALID p r)) (hs : galleyPlain s p) : galleyPlain (a.run s) p := by
  obtain ⟨hsyn, hw⟩ := hs
  refine ⟨(h.same .syn hps s).trans hsyn, ?_⟩
  rw [← hw, anyWriteFirst, anyWriteFirst]
  have hb : ∀ r ∈ List.range 8, (fb (a.run s) GALY_RVALID p r && fb (a.run s) GALY_RMODE p r) = (fb s GALY_RVALID p r && fb s GALY_RMODE p r) := by
    intro r hr
    rw [h.fb s _ _ _ (hk r (List.mem_range.1 hr)), h.fb s GALY_RMODE _ _ (hk r (List.mem_range.1 hr))]
  exact congrArg _ (any_congr hb)

section
variable (p : Nat) (hp : p < 160)
include hp

theorem galy_block (bs : List Blk) (r : Nat) (hr : r < 8) (hb : Blk.galy ∉ bs) : ¬ hdrOr bs (fldKey GALY_RVALID p r) :=
  not_hdrOr_fldKey _ _ _ hb (by omega) (by simp [GALY_RVALID]) (by simp [GALY_RVALID]; omega)

theorem galy_not_tile (f : Fld) (hf : f.blk = .tile) (r i n : Nat) (hr : r < 8) (hi : i < 160) (hn : f.off + n * f.stride < 4096) :
    fldKey GALY_RVALID p r ≠ fldKey f i n := by
  exact fldKey_ne_blk GALY_RVALID f p i r n (by rw [hf]; decide) (by omega) (by omega) (by simp [GALY_RVALID]; omega) hn

end

theorem headCheck_mem (s : State) (p q : Nat) (hp : p < 160) (hq : q < 7) (h : galleyPlain s p) : ((headCheck p q).run s).mem = s.mem := by
  have hm : ∀ {a : Act}, a.Parts flyParts → ∀ u : State, (a.run u).mem = u.mem := fun ha u => ha.same .mem (by decide) u
  have hset : galleyPlain ((setF TILE_QSTATE qCheck p q).run s) p :=
    galleyPlain_within (ps := []) (ks := (· = fldKey TILE_QSTATE p q)) ((within_setF _ _ _ _).2 rfl) (by decide)
      (fun r hr => galy_not_tile p hp TILE_QSTATE rfl r p q hr hp (by simp [TILE_QSTATE]; omega)) h
  rw [headCheck, run_look]
  split
  · rfl
  · rw [run_acts_cons, run_acts_cons, run_acts_cons, runs_nil, touch_plain hset, run_look]
    split
    · exact hm (haltPoisoned_fly p q _) _
    · dsimp only
      split
      · exact hm (checkOutcome_fly p q _ _) _
      · rw [run_acts_cons, run_acts_cons, runs_nil, touch_plain hset, run_look]
        split
        · exact hm (haltPoisoned_fly p q _) _
        · exact hm (checkOutcome_fly p q _ _) _

/-! ### What a result that goes in flight leaves of memory -/

section
variable (p q : Nat) (hp : p < 160) (hq : q < 7)
include hp hq

omit hp hq in
theorem resultFlies_run (x : InFlight) (u : State) : (resultFlies p q x).run u = (headCheck p q).run ((completeAtOnce p q 4).run
    ((updQueue p q fun y => { y with
      inflight := y.inflight ++ [x]
      head := []
      ctl := [] }).run u)) := by
  rw [resultFlies, run_acts_cons, run_acts_cons, run_acts_cons, runs_nil]

omit hp hq in
theorem galleyPlain_added (x : InFlight) (u : State) (h : galleyPlain u p) : galleyPlain ((updQueue p q fun y => { y with
      inflight := y.inflight ++ [x]
      head := []
      ctl := [] }).run u) p := by
  refine galleyPlain_within (ps := [.tiles]) (ks := fun _ => False) ?_ (by decide) (fun _ _ h => h) h
  exact (within_updTile _ _).2 (by decide)

theorem resultFlies_mem (x : InFlight) (u : State) (hq2 : q ≠ 2) (h : galleyPlain u p) : ((resultFlies p q x).run u).mem = u.mem := by
  have hplain := galleyPlain_added p q x u h
  have hw : (completeAtOnce p q 4).Within flyParts (doneKeys p q) :=
    ((completeAtOnce_fly p q 4 hq2).and (completeAtOnce_within p q 4 hp)).mono (by decide) fun _ h => h
  have hkey : ∀ r, r < 8 → ¬ doneKeys p q (fldKey GALY_RVALID p r) := by
    rintro r hr (h | h)
    · exact galy_block p hp _ r hr (by decide) h
    · exact galy_not_tile p hp TILE_Q_DONE rfl r p q hr hp (by simp [TILE_Q_DONE]; omega) h
  rw [resultFlies_run, headCheck_mem _ p q hp hq (galleyPlain_within hw (by decide) hkey hplain), hw.same .mem (by decide)]
  rfl

theorem resultFlies_mem_waits (x : InFlight) (u : State) (h : galleyPlain u p) (hall : ∀ f ∈ inFlightAt u p q, f.atOnce = false)
    (hx : x.atOnce = false) : ((resultFlies p q x).run u).mem = u.mem := by
  have hin := inFlight_added p q hq x u
  rw [resultFlies_run, completeAtOnce_none, headCheck_mem _ p q hp hq (galleyPlain_added p q x u h)]
  · rfl
  · intro f rest hf
    have hmem : f ∈ inFlightAt u p q ++ [x] := by rw [← hin, hf]; exact List.mem_cons_self
    rcases List.mem_append.1 hmem with h | h
    · exact hall f h
    · rw [List.mem_singleton.1 h]; exact hx

end

/-! ### Writes of a tile's galley memory -/

theorem memAfter_cons (m : List Host.Cell) (w : OpWrite) (l : List OpWrite) : memAfter m (w :: l) = memAfter (memAfter m [w]) l := rfl

theorem memAfter_marks (m : List Host.Cell) (w : OpWrite) : memAfter m [⟨w.mem, w.off, w.bytes, []⟩] = memAfter m [w] := rfl

/-- Unmarked writes of a memory that has no fault armed. -/
theorem commitWrites_calm (l : List OpWrite) (u : MemUnit) (s : State) (hsyn : s.syn = []) (hflip : flipArmed s u = false)
    (hl : ∀ w ∈ l, w.mem = u ∧ true ∉ w.marks) : ∃ w, (commitWrites l).run s = { s with mem := memAfter s.mem l, written := w } := by
  induction l generalizing s with
  | nil => exact ⟨s.written, runs_each_nil _ s⟩
  | cons x l ih =>
    obtain ⟨hu, hmark⟩ := hl x List.mem_cons_self
    obtain ⟨w, hw⟩ := memWrite_calm s x.mem x.off x.bytes x.marks hsyn (hu ▸ hflip) (by simpa using hmark)
    obtain ⟨w', hw'⟩ := ih { s with mem := memAfter s.mem [⟨x.mem, x.off, x.bytes, []⟩], written := w } hsyn hflip
      fun y hy => hl y (List.mem_cons_of_mem _ hy)
    exact ⟨w', by rw [commitWrites, run_each_cons, hw]; exact hw'⟩

/-- What a result that lands leaves. -/
def landsAs (u t : State) (p : Nat) (l : List OpWrite) : Prop :=
  t.mem = memAfter u.mem l ∧ t.tiles = u.tiles ∧ galleyPlain t p ∧ ∀ f : Fld, f.blk = .tile → ∀ n, 0x80 ≤ f.off → f.off + n * f.stride < 4096 → fv t f p n = fv u f p n

theorem consume_memory (p q a : Nat) (hp : p < 160) : (consume (queuePage p q) a).Within [.events, .out] memKeys :=
  (consume_events (queuePage p q) a).and (consume_within _ a (queuePage_intg p q hp))

theorem resultLands_calm (p q : Nat) (r : OpResult) (u : State) (hp : p < 160) (hplain : galleyPlain u p)
    (hflip : flipArmed u (.galley p) = false) (hl : ∀ w ∈ r.writes, w.mem = .galley p ∧ true ∉ w.marks) :
    landsAs u ((resultLands p q r).run u) p r.writes := by
  obtain ⟨w, hw⟩ := commitWrites_calm r.writes (.galley p) u hplain.1 hflip hl
  have hland : landsAs u { u with mem := memAfter u.mem r.writes, written := w } p r.writes :=
    ⟨rfl, rfl, hplain, fun f _ n _ _ => rfl⟩
  rw [resultLands, run_acts_cons, run_acts_cons, runs_nil, hw]
  clear hw
  split
  · rename_i a _
    have hw := consume_memory p q a hp
    obtain ⟨h1, h2, h3, h4⟩ := hland
    generalize ({ u with mem := memAfter u.mem r.writes, written := w } : State) = v at *
    exact ⟨(hw.same .mem (by decide) v).trans h1, (hw.same .tiles (by decide) v).trans h2,
      galleyPlain_within hw (by decide) (fun r hr => galy_block p hp _ r hr (by decide)) h3,
      fun f hf n h0 ho => (hw.fv v f p n (not_hdrOr_fldKey f p n (by rw [hf]; decide) (by omega) (by omega) ho)).trans (h4 f hf n h0 ho)⟩
  · exact hland

/-! ### A head that fires and writes galley memory -/

/-- What a row of an engine that writes galley memory leaves: the row's queue, its result, and whether it has nothing to do. -/
def opLeaves (s t : State) (p q : Nat) (r : OpResult) (nop : Bool) : Prop :=
  (q = 2 ∨ t.mem = memAfter s.mem r.writes) ∧
  fv t TILE_Q_HEAD p q = (fv s TILE_Q_HEAD p q + 1) % 65536 ∧ headDecided t p q ∧ (∀ c, c < 256 → tok t p c = tok (fired s p q) p c) ∧
  ((∀ x ∈ (queueSt s p q).inflight, x.atOnce = false) → nop = false →
    fv t TILE_Q_DONE p q = fv s TILE_Q_DONE p q ∧ t.mem = memAfter s.mem r.writes ∧
    ∃ undo, (queueSt t p q).inflight = (queueSt s p q).inflight ++ [{ inFlightOf (headDesc s p q) (fv s TILE_Q_HEAD p q) r false with
      slots := if q = 0 then slotsNamed (headDesc s p q) else []
      undo := undo }]) ∧
  ((queueSt s p q).inflight = [] → nop = true → hSummary (headDesc s p q) = false →
    fv t TILE_Q_DONE p q = (fv s TILE_Q_DONE p q + 1) % 65536 ∧ (queueSt t p q).inflight = [])

/-- The state an engine goes on from is the one its head fired in but for what it keeps of its own. -/
structure WorkedOn (s u : State) (p q : Nat) : Prop where
  mem : u.mem = s.mem
  plain : galleyPlain u p
  flip : flipArmed u (.galley p) = false
  inFlight : inFlightAt u p q = inFlightAt s p q
  fields : ∀ f : Fld, f.blk = .tile → ∀ n, 0x80 ≤ f.off → f.off + n * f.stride < 4096 → fv u f p n = fv (fired s p q) f p n

theorem fire_leaves (p q op : Nat) (nop : Desc → Bool) (work : Engine) (s u : State) (r : OpResult) (hp : p < 160) (hq : q < 7)
    (hc : canFire s p q = true) (ho : hOpcode (headDesc s p q) = op)
    (hw : EngineGives work (headDesc s p q) (queueSt s p q).ctl (fv s TILE_Q_HEAD p q) (fired s p q) u r) (hu : WorkedOn s u p q)
    (hl : ∀ w ∈ r.writes, w.mem = .galley p ∧ true ∉ w.marks) :
    opLeaves s ((fire p q op nop work).run s) p q r (nop (headDesc s p q)) := by
  obtain ⟨hmem, hplain, hflip, hin, hfld⟩ := hu
  rw [fire_run p q op nop work s u r hc ho hw, fireEnd_run]
  obtain ⟨hm, ht, hpl, hf⟩ := resultLands_calm p q r u hp hplain hflip hl
  have hhead := (hf TILE_Q_HEAD rfl q (by decide) (by simp [TILE_Q_HEAD]; omega)).trans (hfld TILE_Q_HEAD rfl q (by decide) (by simp [TILE_Q_HEAD]; omega))
  have hdone := (hf TILE_Q_DONE rfl q (by decide) (by simp [TILE_Q_DONE]; omega)).trans (hfld TILE_Q_DONE rfl q (by decide) (by simp [TILE_Q_DONE]; omega))
  have htok := fun c (hc : c < 256) => (hf TILE_TOKEN rfl c (by decide) (by simp [TILE_TOKEN]; omega)).trans
    (hfld TILE_TOKEN rfl c (by decide) (by simp [TILE_TOKEN]; omega))
  have hin' : inFlightAt ((resultLands p q r).run u) p q = inFlightAt s p q := (inFlightAt_congr p q _ _ ht).trans hin
  generalize (resultLands p q r).run u = v at *
  obtain ⟨h1, h2, h3⟩ := resultFlies_ring p q hp hq (flownOf q (headDesc s p q) (fv s TILE_Q_HEAD p q) (nop (headDesc s p q)) r (outputNow u r.writes)) v
  refine ⟨?_, (h1.trans hhead).trans (fired_head s p q), h2, fun c hc => (h3 c hc).trans (htok c hc), fun hall hn => ?_, fun hnone hn hsum => ?_⟩
  · by_cases hq2 : q = 2
    · exact Or.inl hq2
    · exact Or.inr ((resultFlies_mem p q hp hq _ v hq2 hpl).trans (hm.trans (by rw [hmem])))
  · have hall' : ∀ f ∈ inFlightAt v p q, f.atOnce = false := by rw [hin']; exact hall
    rw [hn]
    obtain ⟨h4, h5⟩ := resultFlies_waits p q hp hq (flownOf q (headDesc s p q) (fv s TILE_Q_HEAD p q) false r (outputNow u r.writes)) v hall' rfl
    rw [hin'] at h5
    exact ⟨h4.trans (hdone.trans (fired_done s p q hq)),
      (resultFlies_mem_waits p q hp hq _ v hpl hall' rfl).trans (hm.trans (by rw [hmem])), outputNow u r.writes, h5⟩
  · rw [hn]
    obtain ⟨h4, h5⟩ := resultFlies_done p q hp hq (flownOf q (headDesc s p q) (fv s TILE_Q_HEAD p q) true r (outputNow u r.writes)) v
      (hin'.trans hnone) rfl hsum
    exact ⟨h4.trans (by rw [hdone, fired_done s p q hq]), h5⟩

/-! ### The engines -/

theorem fired_plain (s : State) (p q : Nat) (hp : p < 160) (hq : q < 7) (h : galleyPlain s p) : galleyPlain (fired s p q) p := by
  refine galleyPlain_within (fired_within s p q) (by decide) ?_ h
  rintro r hr (⟨c, hc, h⟩ | h)
  · exact galy_not_tile p hp TILE_TOKEN rfl r p c hr hp (by simp [TILE_TOKEN]; omega) h
  · exact galy_not_tile p hp TILE_Q_HEAD rfl r p q hr hp (by simp [TILE_Q_HEAD]; omega) h

theorem flipArmed_fv {s t : State} {u : MemUnit} (h1 : fv t INTG_FLIP_ARMED (muIntg u) = fv s INTG_FLIP_ARMED (muIntg u))
    (h2 : fv t INTG_FLIP_TGT (muIntg u) = fv s INTG_FLIP_TGT (muIntg u)) : flipArmed t u = flipArmed s u := by
  rw [flipArmed, flipArmed, fb, h1, h2]; rfl

theorem flip_not_tile (f g : Fld) (p i n : Nat) (hf : f = INTG_FLIP_ARMED ∨ f = INTG_FLIP_TGT) (hg : g.blk = .tile) (hp : p < 160) (hi : i < 160)
    (hn : g.off + n * g.stride < 4096) : fldKey f (muIntg (.galley p)) 0 ≠ fldKey g i n := by
  have hm : muIntg (.galley p) < 256 := by simp [muIntg]; omega
  rcases hf with rfl | rfl
  · exact fldKey_ne_blk _ g _ i 0 n (by rw [hg]; decide) hm (by omega) (by decide) hn
  · exact fldKey_ne_blk _ g _ i 0 n (by rw [hg]; decide) hm (by omega) (by decide) hn

theorem fired_flip (s : State) (p q : Nat) (hp : p < 160) (hq : q < 7) : flipArmed (fired s p q) (.galley p) = flipArmed s (.galley p) := by
  have hfld : ∀ f, f = INTG_FLIP_ARMED ∨ f = INTG_FLIP_TGT → fv (fired s p q) f (muIntg (.galley p)) = fv s f (muIntg (.galley p)) := by
    intro f hf
    refine (fired_within s p q).fv s f _ _ ?_
    rintro (⟨c, hc, h⟩ | h)
    · exact flip_not_tile f TILE_TOKEN p p c hf rfl hp hp (by simp [TILE_TOKEN]; omega) h
    · exact flip_not_tile f TILE_Q_HEAD p p q hf rfl hp hp (by simp [TILE_Q_HEAD]; omega) h
  exact flipArmed_fv (hfld _ (Or.inl rfl)) (hfld _ (Or.inr rfl))

theorem workedOn_fired (s : State) (p q : Nat) (hp : p < 160) (hq : q < 7) (h : cleanGalley s p) : WorkedOn s (fired s p q) p q :=
  ⟨(fired_within s p q).same .mem (by decide) s, fired_plain s p q hp hq ⟨h.1, h.2.1⟩, (fired_flip s p q hp hq).trans h.2.2,
    fired_inFlight s p q, fun _ _ _ _ _ => rfl⟩

/-- An engine's own work on its slots goes on from the state the head fired in. -/
theorem workedOn_slots (s : State) (p q : Nat) (a : Act) (hp : p < 160) (hq : q < 7) (h : cleanGalley s p)
    (ha : a.Within [.tiles, .events, .out] (hdrOr [.slqp, .cova])) (hin : a.Keeps fun s => inFlightAt s p q) :
    WorkedOn s (a.run (fired s p q)) p q := by
  obtain ⟨hmem, hplain, hflip, hfl, -⟩ := workedOn_fired s p q hp hq h
  have hm : muIntg (.galley p) < 256 := by simp [muIntg]; omega
  have hflipKeep : flipArmed (a.run (fired s p q)) (.galley p) = flipArmed (fired s p q) (.galley p) :=
    flipArmed_fv (ha.fv _ _ _ _ (not_hdrOr_fldKey INTG_FLIP_ARMED _ 0 (by decide) hm (by decide) (by decide)))
      (ha.fv _ _ _ _ (not_hdrOr_fldKey INTG_FLIP_TGT _ 0 (by decide) hm (by decide) (by decide)))
  exact ⟨(ha.same .mem (by decide) _).trans hmem, galleyPlain_within ha (by decide) (fun r hr => galy_block p hp _ r hr (by decide)) hplain,
    hflipKeep.trans hflip, (hin _).trans hfl,
    fun f hf n h0 ho => ha.fv _ f p n (not_hdrOr_fldKey f p n (by rw [hf]; decide) (by omega) (by omega) ho)⟩

theorem slot_hdrOr (f : Fld) (p n : Nat) (hb : f.blk = .cova) (ho : f.off < 0x100) (hs : f.stride = 8) (hp : p < 160) (hn : n < 8) :
    hdrOr [.slqp, .cova] (fldKey f p n) := hdrOr_fldKey f p n (by simp [hb]) (by omega) (by rw [hs]; omega)

theorem covAccumulate_within (p : Nat) (d : Desc) (hp : p < 160) : (covAccumulate p d).Within [.tiles, .events, .out] (hdrOr [.slqp, .cova]) := by
  unfold covAccumulate
  split
  · trivial
  · refine (only_each_iff _ _ _).2 fun e he s => ?_
    have hn := covEntry_slot_lt d e he
    simp only [only_acts_cons, only_acts_nil, updCov, within_updTile, within_setF, and_true]
    exact ⟨by decide, only_onlyIf _ _ _ fun _ => (within_setF _ _ _ _).2 (slot_hdrOr _ p _ rfl (by decide) rfl hp hn),
      slot_hdrOr _ p _ rfl (by decide) rfl hp hn, only_onlyIf _ _ _ fun _ => raiseEvt_hdrOr _ _ (by decide) (by decide) (by decide)⟩

theorem covFlushEnd_within (p : Nat) (d : Desc) (hp : p < 160) : (covFlushEnd p d).Within [.tiles, .events, .out] (hdrOr [.slqp, .cova]) := by
  refine only_onlyIf _ _ _ fun _ => (only_each_iff _ _ _).2 fun n hn => ?_
  have hn : n < 8 := List.mem_range.1 (List.mem_of_mem_filter hn)
  have hkey := fun f hb ho hs => slot_hdrOr f p n hb ho hs hp hn
  simp only [covEmpty, updCov, only_acts_cons, only_acts_nil, within_setF, within_updTile, and_true]
  exact ⟨hkey _ rfl (by decide) rfl, hkey _ rfl (by decide) rfl, hkey _ rfl (by decide) rfl, hkey _ rfl (by decide) rfl,
    hkey _ rfl (by decide) rfl, hkey _ rfl (by decide) rfl, by decide⟩

theorem inFlight_covAccumulate (p q : Nat) (d : Desc) : (covAccumulate p d).Keeps fun s => inFlightAt s p q := by
  refine keeps_ite keeps_done (keeps_each _ _ fun e => keeps_look _ fun s => ?_)
  exact keeps_cons _ _ (inFlight_updCov p q _ _ _) (keeps_cons _ _ (keeps_onlyIf _ _ (inFlight_setF p q _ _ _ _))
    (keeps_cons _ _ (inFlight_setF p q _ _ _ _) (keeps_cons _ _ (keeps_onlyIf _ _ (inFlight_raiseEvt p q _ _)) keeps_nil)))

theorem inFlight_covFlushEnd (p q : Nat) (d : Desc) (hq : q < 7) : (covFlushEnd p d).Keeps fun s => inFlightAt s p q :=
  keeps_onlyIf _ _ (keeps_each _ _ fun _ => inFlight_covEmpty p q _ _ hq)

section
variable (p : Nat) (d : Desc) (ctl : List Byte) (seq : Nat) (s : State) (h : galleyPlain s p)
include h

theorem vectorEngine_gives : EngineGives (vectorEngine p) d ctl seq s s (vectorResult s p d ctl) := fun k => by
  rw [vectorEngine, run_acts_cons, run_acts_cons, run_acts_cons, runs_nil, touchAll_plain h, touchAll_plain h, run_look]

theorem matmulEngine_gives : EngineGives (matmulEngine p) d ctl seq s ((covAccumulate p d).run s) (matmulResult s p d ctl) := fun k => by
  rw [matmulEngine, run_acts_cons, run_acts_cons, run_acts_cons, runs_nil, touchAll_plain h, touchAll_plain h, run_look, run_acts_cons,
    run_acts_cons, runs_nil]

omit h in
theorem covFlushEngine_gives : EngineGives (covFlushEngine p) d ctl seq s ((covFlushEnd p d).run s) (covFlushResult s p d ctl) := fun k => by
  rw [covFlushEngine, run_look, run_acts_cons, run_acts_cons, runs_nil]

theorem routeEngine_gives : EngineGives (routeEngine p) d ctl seq s s (routeResult s p d) := fun k => by
  rw [routeEngine, run_acts_cons, run_acts_cons, runs_nil, touchAll_plain h, run_look]

theorem combineEngine_gives : EngineGives (combineEngine p) d ctl seq s s (combineResult s p d) := fun k => by
  rw [combineEngine, run_acts_cons, run_acts_cons, runs_nil, touchAll_plain h, run_look]

end

/-! ### The rows -/

/-- A row that fires its queue's head, and leaves what such a head does. -/
def RowFires (o : OpRow) : Prop :=
  ∀ (s : State) (tile : Nat), cleanGalley s (physOf s tile) → canFire s (physOf s tile) o.queue = true →
    hOpcode (headDesc s (physOf s tile) o.queue) = o.opcode →
    (∀ w ∈ (o.result (fired s (physOf s tile) o.queue) (physOf s tile) (headDesc s (physOf s tile) o.queue) (queueSt s (physOf s tile) o.queue).ctl).writes,
      w.mem = .galley (physOf s tile) ∧ true ∉ w.marks) →
    ∃ t, exec (o.row tile) s = .next t ∧ opLeaves s t (physOf s tile) o.queue
      (o.result (fired s (physOf s tile) o.queue) (physOf s tile) (headDesc s (physOf s tile) o.queue) (queueSt s (physOf s tile) o.queue).ctl)
      (o.nop (headDesc s (physOf s tile) o.queue))

theorem rowFires_vector (row : Nat → Instr) (op : Nat) (hrow : ∀ tile s, exec (row tile) s = .next ((fireVector tile op).run s)) :
    RowFires ⟨row, 1, op, vectorResult, vNop⟩ := fun s tile hclean hc ho hl => by
  have hp := physOf_lt s tile
  have hu := workedOn_fired s _ 1 hp (by decide) hclean
  exact ⟨_, (hrow tile s).trans (congrArg Host.Outcome.next (run_look ..)), fire_leaves _ 1 op vNop _ s _ _ hp (by decide) hc ho
    (vectorEngine_gives _ _ _ _ _ hu.plain) hu hl⟩

theorem rowFires_matmul : RowFires ⟨.matmul, 0, 1, matmulResult, mmNop⟩ := fun s tile hclean hc ho hl => by
  have hp := physOf_lt s tile
  exact ⟨_, rfl, fire_leaves _ 0 1 mmNop _ s _ _ hp (by decide) hc ho (matmulEngine_gives _ _ _ _ _ (workedOn_fired s _ 0 hp (by decide) hclean).plain)
    (workedOn_slots s _ 0 _ hp (by decide) hclean (covAccumulate_within _ _ hp) (inFlight_covAccumulate _ _ _)) hl⟩

theorem rowFires_covFlush : RowFires ⟨.covFlush, 0, 2, covFlushResult, fun d => (cfSlots d).isEmpty⟩ := fun s tile hclean hc ho hl => by
  have hp := physOf_lt s tile
  exact ⟨_, rfl, fire_leaves _ 0 2 (fun d => (cfSlots d).isEmpty) _ s _ _ hp (by decide) hc ho (covFlushEngine_gives _ _ _ _ _)
    (workedOn_slots s _ 0 _ hp (by decide) hclean (covFlushEnd_within _ _ hp) (inFlight_covFlushEnd _ _ _ (by decide))) hl⟩

theorem rowFires_route : RowFires ⟨.route, 2, 1, fun s p d _ => routeResult s p d, rtNop⟩ := fun s tile hclean hc ho hl => by
  have hp := physOf_lt s tile
  have hu := workedOn_fired s _ 2 hp (by decide) hclean
  exact ⟨_, rfl, fire_leaves _ 2 1 rtNop _ s _ _ hp (by decide) hc ho (routeEngine_gives _ _ _ _ _ hu.plain) hu hl⟩

theorem rowFires_combine : RowFires ⟨.combine, 2, 4, fun s p d _ => combineResult s p d, cbNop⟩ := fun s tile hclean hc ho hl => by
  have hp := physOf_lt s tile
  have hu := workedOn_fired s _ 2 hp (by decide) hclean
  exact ⟨_, rfl, fire_leaves _ 2 4 cbNop _ s _ _ hp (by decide) hc ho (combineEngine_gives _ _ _ _ _ hu.plain) hu hl⟩

/-- Every vector row fires its head. -/
theorem vectorRows_fire (r : (Nat → Instr) × Nat) (hr : r ∈ vectorRows) (tile : Nat) (s : State) :
    exec (r.1 tile) s = .next ((fireVector tile r.2).run s) := by
  simp only [vectorRows, List.mem_cons, List.not_mem_nil, or_false] at hr
  rcases hr with rfl | rfl | rfl | rfl | rfl | rfl | rfl | rfl | rfl | rfl | rfl | rfl | rfl | rfl | rfl | rfl | rfl | rfl | rfl | rfl | rfl |
    rfl | rfl | rfl | rfl | rfl | rfl | rfl | rfl | rfl | rfl | rfl | rfl
  all_goals rfl

theorem opRows_fire (o : OpRow) (ho : o ∈ opRows) : RowFires o := by
  rw [opRows, List.mem_append] at ho
  rcases ho with ho | ho
  · obtain ⟨r, hr, rfl⟩ := List.mem_map.1 ho
    exact rowFires_vector r.1 r.2 (vectorRows_fire r hr)
  · simp only [List.mem_cons, List.not_mem_nil, or_false] at ho
    rcases ho with rfl | rfl | rfl | rfl
    · exact rowFires_matmul
    · exact rowFires_covFlush
    · exact rowFires_route
    · exact rowFires_combine

/-- Settles O20, from what a head that fires leaves. -/
theorem operationsWriteResults : Obligations.OperationsWriteResults :=
  fun o ho s tile hclean hc hop hl => opRows_fire o ho s tile hclean hc hop hl

end Sys2Proof.Machine
end

section
/-! PROOF. Transfers of one row between memories of this device, and messages of the Winnow unit (R97, R244, R249). -/

namespace Sys2Proof.Machine

/-! ### Places -/

theorem placeOf_same {s t : State} (hb : t.build = s.build) (hu : t.units = s.units) (a : Nat) : placeOf t a = placeOf s a := by
  have hp : ∀ k, physOf t k = physOf s k := fun k => by rw [physOf, physOf, hu]
  simp only [placeOf, windowAt, locate, hb, hp]

/-- Whether storage can await its first write is said by registers of HBMC and GALY. -/
theorem anyWriteFirst_fields {s t : State} (u : MemUnit)
    (h : ∀ (f : Fld) (i n : Nat), f.blk = .hbmc ∨ f.blk = .galy → i < 256 → f.off + n * f.stride < 4096 → fv t f i n = fv s f i n) :
    anyWriteFirst t u = anyWriteFirst s u := by
  cases u with
  | hbm n =>
    by_cases hn : n < 12
    · rw [anyWriteFirst, anyWriteFirst]
      refine congrArg _ (any_congr fun r hr => ?_)
      rw [fb, fb, h HBMC_WF_VALID n r (Or.inl rfl) (by omega) (by have := List.mem_range.1 hr; simp [HBMC_WF_VALID]; omega)]
    · simp [anyWriteFirst, muReal, hn]
  | galley n =>
    by_cases hn : n < 160
    · rw [anyWriteFirst, anyWriteFirst]
      refine congrArg _ (any_congr fun r hr => ?_)
      have hr := List.mem_range.1 hr
      rw [fb, fb, fb, fb, h GALY_RVALID n r (Or.inr rfl) (by omega) (by simp [GALY_RVALID]; omega),
        h GALY_RMODE n r (Or.inr rfl) (by omega) (by simp [GALY_RMODE]; omega)]
    · simp [anyWriteFirst, muReal, hn]
  | _ => rfl

theorem fired_build (s : State) (p q : Nat) : (fired s p q).build = s.build := (fired_within s p q).build s

theorem fired_units (s : State) (p q : Nat) : (fired s p q).units = s.units := (fired_within s p q).same .units (by decide) s

theorem fired_place (s : State) (p q a : Nat) : placeOf (fired s p q) a = placeOf s a := placeOf_same (fired_build s p q) (fired_units s p q) a

theorem fired_mem (s : State) (p q : Nat) : (fired s p q).mem = s.mem := (fired_within s p q).same .mem (by decide) s

theorem fired_syn (s : State) (p q : Nat) : (fired s p q).syn = s.syn := (fired_within s p q).same .syn (by decide) s

section
variable (s : State) (p q : Nat) (hp : p < 160) (hq : q < 7)
include hp hq

/-- A head that fires leaves every register but its tokens and its place in the ring. -/
theorem fired_other (f : Fld) (i n : Nat) (hb : f.blk ≠ .tile) (hi : i < 256) (hn : f.off + n * f.stride < 4096) :
    fv (fired s p q) f i n = fv s f i n := by
  refine (fired_within s p q).fv s f i n ?_
  rintro (⟨c, hc, h⟩ | h)
  · exact fldKey_ne_blk f TILE_TOKEN i p n c hb hi (by omega) hn (by simp [TILE_TOKEN]; omega) h
  · exact fldKey_ne_blk f TILE_Q_HEAD i p n q hb hi (by omega) hn (by simp [TILE_Q_HEAD]; omega) h

theorem fired_nodeId : nodeId (fired s p q) = nodeId s := fired_other s p q hp hq LINK_NODE_ID 0 0 (by decide) (by decide) (by decide)

theorem fired_anyWriteFirst (u : MemUnit) : anyWriteFirst (fired s p q) u = anyWriteFirst s u :=
  anyWriteFirst_fields u fun f i n hb hi hn => fired_other s p q hp hq f i n (by rcases hb with h | h <;> rw [h] <;> decide) hi hn

theorem fired_flipArmed (u : MemUnit) : flipArmed (fired s p q) u = flipArmed s u := by
  by_cases hm : muIntg u < 256
  · exact flipArmed_fv (fired_other s p q hp hq INTG_FLIP_ARMED _ 0 (by decide) hm (by decide))
      (fired_other s p q hp hq INTG_FLIP_TGT _ 0 (by decide) hm (by decide))
  · have hno : ∀ t : State, flipArmed t u = false := fun t => Bool.eq_false_iff.2 fun h => hm (muIntg_lt_of_flipArmed t u h)
    rw [hno, hno]

end

/-! ### One row -/

theorem mixBytes_same (l : List (Byte × Bool)) (k : List (Byte × Bool) → Act) (s : State) : (mixBytes l l k).run s = (k l).run s := by
  induction l generalizing k with
  | nil => rfl
  | cons x l ih => rw [mixBytes, if_pos rfl, ih]

/-- A fill's row is its pattern, whatever is in memory. -/
def fillBytes (d : Desc) : List (Byte × Bool) := (List.range (dmLen d)).map fun i => (d.getD (112 + i % 8) 0, false)

theorem dmaFetch_fill (s0 : State) (o : Origin) (d : Desc) (x : Nat × Nat) (st : DmaSt) (k : DmaSt → Option (List (Byte × Bool)) → Act)
    (ho : hOpcode d = 2) (s : State) : (dmaFetch s0 o d x st k).run s = (k st (some (fillBytes d))).run s := by
  rw [dmaFetch, if_pos ho]; rfl

/-- A copy's row is what its source holds. -/
theorem dmaFetch_copy (o : Origin) (d : Desc) (x : Nat × Nat) (st : DmaSt) (k : DmaSt → Option (List (Byte × Bool)) → Act) (s : State)
    (v : MemUnit) (off : Nat) (ho : hOpcode d = 1) (hnode : gaNode (dmSrc d) = nodeId s)
    (hplace : placeOf s ((dmRowAddr d 0 x).toNat % 2 ^ 48) = .mem v off) (hviews : viewsMet s ((dmRowAddr d 0 x).toNat % 2 ^ 48) (dmLen d) = [])
    (hsyn : s.syn = []) (hw : anyWriteFirst s v = false) :
    (dmaFetch s o d x st k).run s = (k { st with
      poison := st.poison || ((readBytes s v off (dmLen d)).zip (List.replicate (dmLen d) false)).any Prod.snd }
      (some ((readBytes s v off (dmLen d)).zip (List.replicate (dmLen d) false)))).run s := by
  have htouch : (touchLocal ((dmRowAddr d 0 x).toNat % 2 ^ 48) (dmLen d)).run s = s := by
    rw [touchLocal, run_look]
    dsimp only
    rw [hplace, hviews]
    dsimp only
    rw [if_pos (show ([] : List View).isEmpty = true from rfl), touch, run_look, if_pos (by rw [hsyn, hw]; rfl), runs_done]
  have hread : readLocal s ((dmRowAddr d 0 x).toNat % 2 ^ 48) (dmLen d) = (readBytes s v off (dmLen d)).zip (List.replicate (dmLen d) false) := by
    rw [readLocal]
    dsimp only
    rw [hplace, hviews, hsyn]
    rfl
  rw [dmaFetch, if_neg (by omega), run_look]
  dsimp only
  rw [if_pos hnode, hplace]
  dsimp only
  rw [Act.run_seq, htouch, run_look, mixBytes_same, hread]

/-- A row whose destination is memory of this device. -/
theorem dmaStore_here (phys q seq : Nat) (d : Desc) (x : Nat × Nat) (bs : List (Byte × Bool)) (st : DmaSt) (k : DmaSt → Act) (s : State)
    (u : MemUnit) (off : Nat) (hnode : gaNode (dmDst d) = nodeId s) (hplace : placeOf s ((dmRowAddr d 1 x).toNat % 2 ^ 48) = .mem u off)
    (hok : writeRefused s ((dmRowAddr d 1 x).toNat % 2 ^ 48) (dmLen d) = false) :
    (dmaStore phys q seq d x bs st k).run s = (k st).run ((writeLocal ((dmRowAddr d 1 x).toNat % 2 ^ 48) bs).run s) := by
  rw [dmaStore, run_look]
  dsimp only
  rw [if_pos hnode, hplace]
  dsimp only
  rw [if_neg (by rw [hok]; decide), Act.run_seq]

theorem writeLocal_calm (s : State) (a : Nat) (bs : List (Byte × Bool)) (u : MemUnit) (off : Nat) (hplace : placeOf s a = .mem u off)
    (hsyn : s.syn = []) (hflip : flipArmed s u = false) (hmarks : ∀ b ∈ bs, b.2 = false) (hbs : bs ≠ []) :
    ∃ w, (writeLocal a bs).run s = { s with mem := mapPut memDefault s.mem (muBase u + off) (bs.map Prod.fst), written := w } := by
  obtain ⟨w, h⟩ := memWrite_calm s u off (bs.map Prod.fst) (bs.map Prod.snd) hsyn hflip (by
    rw [Bool.eq_false_iff]
    intro hc
    obtain ⟨b, hb, h⟩ := List.mem_map.1 (List.contains_iff_mem.1 hc)
    rw [hmarks b hb] at h
    cases h)
  refine ⟨w, ?_⟩
  rw [writeLocal, run_look, hplace]
  dsimp only
  rw [h]
  simp [memAfter, hbs]

/-! ### A transfer of one row -/

/-- A transfer's result: nothing written by the engine itself, no mark consumed. -/
def dmaResult (d : Desc) (poison : Bool) : OpResult :=
  { OpResult.none with
    flags := b2n poison + 2 * b2n false
    count := min (dmLen d * dmCnt1 d * dmCnt2 d) (2 ^ 32 - 1)
    aux := 0 }

/-- A transfer of one row whose source gives its bytes and whose destination takes them. -/
theorem dmaRun_one (phys q seq : Nat) (d : Desc) (ans : List RemoteAns) (bs : List (Byte × Bool)) (poison : Bool) (s : State)
    (u : MemUnit) (off : Nat) (hnop : dmNop d = false) (hrows : dmRows d = [(0, 0)])
    (hfetch : ∀ k, (dmaFetch s (.op phys q seq) d (0, 0) ⟨0, false, false, ans⟩ k).run s = (k ⟨0, false, poison, ans⟩ (some bs)).run s)
    (hnode : gaNode (dmDst d) = nodeId s) (hplace : placeOf s ((dmRowAddr d 1 (0, 0)).toNat % 2 ^ 48) = .mem u off)
    (hok : writeRefused s ((dmRowAddr d 1 (0, 0)).toNat % 2 ^ 48) (dmLen d) = false) (k : OpResult → Act) :
    (dmaRun phys q seq d ans k).run s = (k (dmaResult d poison)).run ((writeLocal ((dmRowAddr d 1 (0, 0)).toNat % 2 ^ 48) bs).run s) := by
  rw [dmaRun, if_neg (by rw [hnop]; decide), run_look, hrows, dmaRowsRun, hfetch]
  dsimp only
  rw [dmaStore_here _ _ _ _ _ _ _ _ _ u off hnode hplace hok]
  rfl

/-- What one row's transfer leaves: its bytes at its destination, its head past it, the next one checked. -/
theorem fireDma_leaves (s : State) (p q op : Nat) (ans : List RemoteAns) (u : MemUnit) (off : Nat) (bs : List (Byte × Bool)) (poison : Bool)
    (hp : p < 160) (hq3 : 3 ≤ q) (hq : q < 7) (hc : canFire s p q = true) (ho : hOpcode (headDesc s p q) = op)
    (hnop : dmNop (headDesc s p q) = false) (hrows : dmRows (headDesc s p q) = [(0, 0)])
    (hnode : gaNode (dmDst (headDesc s p q)) = nodeId s)
    (hplace : placeOf s ((dmRowAddr (headDesc s p q) 1 (0, 0)).toNat % 2 ^ 48) = .mem u off)
    (hok : writeRefused (fired s p q) ((dmRowAddr (headDesc s p q) 1 (0, 0)).toNat % 2 ^ 48) (dmLen (headDesc s p q)) = false)
    (hclean : cleanGalley s p) (hflip : flipArmed s u = false) (hbs : bs ≠ []) (hmarks : ∀ b ∈ bs, b.2 = false)
    (hfetch : ∀ k, (dmaFetch (fired s p q) (.op p q (fv s TILE_Q_HEAD p q)) (headDesc s p q) (0, 0) ⟨0, false, false, ans⟩ k).run (fired s p q) =
      (k ⟨0, false, poison, ans⟩ (some bs)).run (fired s p q)) :
    (fun t => t.mem = mapPut memDefault s.mem (muBase u + off) (bs.map Prod.fst) ∧
      fv t TILE_Q_HEAD p q = (fv s TILE_Q_HEAD p q + 1) % 65536 ∧ headDecided t p q)
      ((fire p q op dmNop fun d _ seq k => dmaRun p q seq d ans k).run s) := by
  have hwork : EngineGives (fun d _ seq k => dmaRun p q seq d ans k) (headDesc s p q) (queueSt s p q).ctl (fv s TILE_Q_HEAD p q) (fired s p q)
      ((writeLocal ((dmRowAddr (headDesc s p q) 1 (0, 0)).toNat % 2 ^ 48) bs).run (fired s p q)) (dmaResult (headDesc s p q) poison) :=
    fun k => dmaRun_one p q _ _ ans bs poison _ u off hnop hrows hfetch (hnode.trans (fired_nodeId s p q hp hq).symm)
      ((fired_place s p q _).trans hplace) hok k
  obtain ⟨w, hw⟩ := writeLocal_calm (fired s p q) _ bs u off ((fired_place s p q _).trans hplace) ((fired_syn s p q).trans hclean.1)
    ((fired_flipArmed s p q hp hq u).trans hflip) hmarks hbs
  have hlands : ∀ v, (resultLands p q (dmaResult (headDesc s p q) poison)).run v = v := resultLands_none p q
  dsimp only
  rw [fire_run p q op dmNop _ s _ _ hc ho hwork, fireEnd_run, hlands]
  obtain ⟨hmem, hplain, hhead⟩ : (fun v : State => v.mem = mapPut memDefault s.mem (muBase u + off) (bs.map Prod.fst) ∧ galleyPlain v p ∧
      fv v TILE_Q_HEAD p q = (fv s TILE_Q_HEAD p q + 1) % 65536)
      ((writeLocal ((dmRowAddr (headDesc s p q) 1 (0, 0)).toNat % 2 ^ 48) bs).run (fired s p q)) := by
    rw [hw]
    exact ⟨by rw [← fired_mem s p q], fired_plain s p q hp hq ⟨hclean.1, hclean.2.1⟩, fired_head s p q⟩
  generalize (writeLocal ((dmRowAddr (headDesc s p q) 1 (0, 0)).toNat % 2 ^ 48) bs).run (fired s p q) = v at hmem hplain hhead ⊢
  obtain ⟨h1, h2, -⟩ := resultFlies_ring p q hp hq (flownOf q (headDesc s p q) (fv s TILE_Q_HEAD p q) (dmNop (headDesc s p q))
    (dmaResult (headDesc s p q) poison) (outputNow v (dmaResult (headDesc s p q) poison).writes)) v
  exact ⟨(resultFlies_mem p q hp hq _ v (by omega) hplain).trans hmem, h1.trans hhead, h2⟩

/-- The rows of a transfer's queue are those that are not held. -/
theorem fireDma_run (s : State) (tile q op : Nat) (ans : List RemoteAns) (hq3 : 3 ≤ q) (hq : q < 7)
    (hheld : dmaHeld s (headDesc s (physOf s tile) q) = false) : (fireDma tile q op ans).run s =
      (fire (physOf s tile) q op dmNop fun d _ seq k => dmaRun (physOf s tile) q seq d ans k).run s := by
  rw [fireDma, run_look]
  dsimp only
  rw [if_neg (by rw [hheld]; simp; omega)]

theorem dmLen_pos (d : Desc) (h : dmNop d = false) : 0 < dmLen d := by
  rcases Nat.eq_zero_or_pos (dmLen d) with hz | hz
  · rw [dmNop, hz] at h; simp at h
  · exact hz

theorem fillBytes_fst (d : Desc) : (fillBytes d).map Prod.fst = (List.range (dmLen d)).map fun i => d.getD (112 + i % 8) 0 := by
  rw [fillBytes, List.map_map]; rfl

/-- A row of unmarked bytes. -/
theorem unmarked_fst (l : List Byte) (n : Nat) (hl : l.length = n) : (l.zip (List.replicate n false)).map Prod.fst = l := by
  rw [List.map_fst_zip]; simp [hl]

theorem unmarked_snd (l : List Byte) (n : Nat) : ∀ b ∈ l.zip (List.replicate n false), b.2 = false := by
  rintro ⟨x, y⟩ hb
  exact List.eq_of_mem_replicate (List.of_mem_zip hb).2

/-! ### Messages of the Winnow unit that are sent -/

/-- Where a device is reachable, what is sent to it enters a link's queue. -/
theorem sendMsg_reachable (s : State) (dst : Nat) (o : Origin) (b : FabBody) (h : reachable s dst = true) :
    ∃ l m, (sendMsg dst o b).run s = (enqueue l m).run s := by
  obtain ⟨x, hx⟩ := Option.isSome_iff_exists.1 h
  refine ⟨x.1, { (⟨dst, nodeId s, bodyVc b, 0, ceilDiv (8 + bodyBytes b) 248, o, b⟩ : FabMsg) with phase := x.2 }, ?_⟩
  rw [sendMsg, run_look, forwardMsg, run_look]
  dsimp only
  rw [hx]
  dsimp only
  rw [if_neg (by simp)]

/-- What no message that is sent changes. -/
structure SendBlind {α : Type} (O : State → α) (mine : WinnMsg → Prop) : Prop where
  apply : ∀ m, mine m → (winnApply m).Keeps O
  enqueue : ∀ l m, (enqueue l m).Keeps O
  noRoute : noRoute.Keeps O

/-- Sending goes on with some account of its answers, and leaves what it is blind to. -/
theorem sendMsgs_goes {α : Type} {O : State → α} {mine : WinnMsg → Prop} (hO : SendBlind O mine) (o : Origin) (l : List (Nat × WinnMsg))
    (hl : ∀ x ∈ l, mine x.2) (st : SendSt) (s : State) :
    ∃ (b : SendSt) (u : State), O u = O s ∧ ∀ k, (sendMsgs o l st k).run s = (k b).run u := by
  induction l generalizing st s with
  | nil => exact ⟨st, s, rfl, fun k => rfl⟩
  | cons x l ih =>
    have hl' : ∀ y ∈ l, mine y.2 := fun y hy => hl y (List.mem_cons_of_mem _ hy)
    have hstep : ∃ (b : SendSt) (a : Act), O (a.run s) = O s ∧ ∀ k, (sendMsgs o (x :: l) st k).run s = (sendMsgs o l b k).run (a.run s) := by
      by_cases hme : x.1 = nodeId s
      · exact ⟨_, winnApply x.2, hO.apply _ (hl x List.mem_cons_self) s, fun k => by
          rw [sendMsgs, run_look, if_pos hme, Act.run_seq]⟩
      · by_cases hr : reachable s x.1 = true
        · obtain ⟨i, m, h⟩ := sendMsg_reachable s x.1 o (.winn x.2) hr
          exact ⟨_, enqueue i m, hO.enqueue i m s, fun k => by
            rw [sendMsgs, run_look, if_neg hme, if_neg (by rw [hr]; decide), Act.run_seq, h]⟩
        · exact ⟨_, noRoute, hO.noRoute s, fun k => by
            rw [sendMsgs, run_look, if_neg hme, if_pos (by simpa using hr), Act.run_seq]⟩
    obtain ⟨b, a, ha, hrun⟩ := hstep
    obtain ⟨b', u, hu, hgo⟩ := ih hl' b (a.run s)
    exact ⟨b', u, hu.trans ha, fun k => (hrun k).trans (hgo k)⟩

/-! ### Messages taken by this device's own inboxes -/

section
variable (p k r : Nat) (hr : r < 160)

theorem inFlight_updInbox (i : Nat) (b : Inbox) : (updInbox r i b).Keeps fun s => inFlightAt s p k :=
  inFlight_of_work p k (keeps_updTile_work _ _ _ fun _ => ⟨rfl, rfl⟩)

include hr

theorem inFlight_memPut (off : Nat) (l : List Byte) : (memPut (.galley r) off l).Keeps fun s => inFlightAt s p k :=
  inFlight_of_noTiles p k (memPut_within (.galley r) off l hr) (by decide)

theorem inFlight_inboxClose (i : Nat) : (inboxClose r i).Keeps fun s => inFlightAt s p k := by
  refine keeps_look _ fun s => keeps_cons _ _ (keeps_onlyIf _ _ (keeps_each _ _ fun x => inFlight_memPut p k r hr _ _))
    (keeps_cons _ _ (keeps_onlyIf _ _ (inFlight_memPut p k r hr _ _)) (keeps_cons _ _ (keeps_onlyIf _ _ (inFlight_memPut p k r hr _ _))
      (keeps_cons _ _ (keeps_onlyIf _ _ ?_) (keeps_cons _ _ (inFlight_raiseEvt p k _ _) (keeps_cons _ _ (inFlight_setF p k _ _ _ _) keeps_nil)))))
  exact inFlight_of_noTiles p k (addToken_within _ _ _) (by decide)

omit hr in
theorem inFlight_winnApply (m : WinnMsg) : (winnApply m).Keeps fun s => inFlightAt s p k := by
  refine keeps_look _ fun s => ?_
  have hp := physOf_lt s m.tile
  dsimp only
  split
  · refine keeps_ite (inFlight_memPut p k _ hp _ _) (keeps_ite ?_ ?_)
    · exact keeps_cons _ _ (inFlight_memPut p k _ hp _ _) (keeps_cons _ _ (inFlight_memPut p k _ hp _ _)
        (keeps_cons _ _ (inFlight_incF p k _ _ _ _) (keeps_cons _ _ (inFlight_incF p k _ _ _ _) keeps_nil)))
    · exact keeps_cons _ _ (inFlight_memPut p k _ hp _ _) (keeps_cons _ _ (inFlight_updInbox p k _ _ _)
        (keeps_cons _ _ (inFlight_setF p k _ _ _ _) (keeps_cons _ _ (keeps_onlyIf _ _ (inFlight_inboxClose p k _ hp _)) keeps_nil)))
  · exact keeps_done
  · exact keeps_onlyIf _ _ (keeps_cons _ _ (inFlight_incF p k _ _ _ _) (keeps_cons _ _ (inFlight_raiseEvt p k _ _) keeps_nil))

end

/-- The registers that a message taken by an own inbox touches: of memory, of the inbox, and of a counter. -/
abbrev winnKeys (k : Nat) : Prop :=
  hdrOr [.intg, .hlth, .slqp, .winn] k ∨ ∃ p, p < 160 ∧ ((∃ c, c < 256 ∧ k = fldKey TILE_TOKEN p c) ∨ k = fldKey TILE_TSAT_VALID p 0)

/-- The parts that a message taken by an own inbox touches. -/
def winnParts : List Part := .tiles :: memParts

theorem winn_fld (f : Fld) (p i : Nat) (hb : f.blk = .winn) (hp : p < 160) (ho : f.off + i * f.stride < 4096) : winnKeys (fldKey f p i) :=
  Or.inl (hdrOr_fldKey f p i (by rw [hb]; decide) (by omega) ho)

theorem winn_memPut (p off : Nat) (l : List Byte) (hp : p < 160) : (memPut (.galley p) off l).Within winnParts winnKeys :=
  (memPut_within (.galley p) off l hp).mono (by decide) fun k h => Or.inl (hdrOr_mono (by decide) k h)

theorem winn_raiseEvt (r : PageRef) (m : Nat) : (raiseEvt r m).Within winnParts winnKeys :=
  (raiseEvt_hdrOr r m (by decide) (by decide) (by decide)).mono (fun _ h => h) fun _ => Or.inl

theorem inboxClose_within (p i : Nat) (hp : p < 160) (hi : i < 16) : (inboxClose p i).Within winnParts winnKeys := by
  intro s
  simp only [only_acts_cons, only_acts_nil, and_true]
  refine ⟨only_onlyIf _ _ _ fun _ => (only_each_iff _ _ _).2 fun r _ => winn_memPut p _ _ hp, only_onlyIf _ _ _ fun _ => winn_memPut p _ _ hp,
    only_onlyIf _ _ _ fun _ => winn_memPut p _ _ hp, only_onlyIf _ _ _ fun _ => ?_, winn_raiseEvt _ _,
    (within_setF _ _ _ _).2 (winn_fld _ p i rfl hp (by simp [WINN_ISTATE]; omega))⟩
  have hc : fv s WINN_CLOSE_CNT p i < 256 := fv_lt _ _ _ _
  refine (addToken_within p _ 1).mono (by decide) ?_
  rintro k (rfl | rfl | rfl | rfl | rfl)
  · exact Or.inr ⟨p, hp, Or.inl ⟨_, hc, rfl⟩⟩
  · exact Or.inr ⟨p, hp, Or.inr rfl⟩
  · exact Or.inr ⟨p, hp, Or.inr rfl⟩
  · exact Or.inl (hdrOr_fldKey_header _ _ _ (by simp [hdrEvtPend]))
  · exact Or.inl (hdrOr_fldKey SLQP_QCNT 0 5 (by decide) (by decide) (by decide))

theorem winnApply_within (m : WinnMsg) (hi : m.inbox < 16) : (winnApply m).Within winnParts winnKeys := by
  intro s
  have hp := physOf_lt s m.tile
  dsimp only
  split
  · refine only_ite (winn_memPut _ _ _ hp) (only_ite ?_ ?_)
    · simp only [only_acts_cons, only_acts_nil, cnt, within_incF, and_true]
      exact ⟨winn_memPut _ _ _ hp, winn_memPut _ _ _ hp, winn_fld _ _ _ rfl hp (by simp [WINN_IROWS]; omega), winn_fld _ _ _ rfl hp (by decide)⟩
    · simp only [only_acts_cons, only_acts_nil, updInbox, within_updTile, within_setF, and_true]
      exact ⟨winn_memPut _ _ _ hp, by decide, winn_fld _ _ _ rfl hp (by simp [WINN_ENDS]; omega),
        only_onlyIf _ _ _ fun _ => inboxClose_within _ _ hp hi⟩
  · trivial
  · refine only_onlyIf _ _ _ fun _ => ?_
    simp only [only_acts_cons, only_acts_nil, within_incF, and_true]
    exact ⟨winn_fld _ _ _ rfl hp (by simp [WINN_CNT_REFUSED]; omega), winn_raiseEvt _ _⟩

/-! ### The head of queue 2 that sends -/

theorem enqueue_links (l : Nat) (m : FabMsg) : (enqueue l m).Within wireParts fabricKeys := (enqueue_wire l m).and (enqueue_within l m)

theorem noRoute_links : noRoute.Within wireParts fabricKeys := noRoute_wire.and (within_of_fabric noRoute_fabric)

/-- What a head of a tile's queue 2 that sends leaves: its place in the ring, and what is in flight. -/
def ringOf (p : Nat) (s : State) : List InFlight × Nat := (inFlightAt s p 2, fv s TILE_Q_HEAD p 2)

section
variable (p : Nat) (hp : p < 160)
include hp

omit hp in
theorem ring_of_within {a : Act} {ps : List Part} {ks : Nat → Prop} (h : a.Within ps ks) (hk : ¬ ks (fldKey TILE_Q_HEAD p 2))
    (hin : a.Keeps fun s => inFlightAt s p 2) : a.Keeps (ringOf p) := fun s => by
  exact Prod.ext (hin s) (h.fv s _ _ _ hk)

theorem head_not_hdrOr (bs : List Blk) (hb : Blk.tile ∉ bs) : ¬ hdrOr bs (fldKey TILE_Q_HEAD p 2) :=
  not_hdrOr_fldKey _ _ _ hb (by omega) (by decide) (by decide)

theorem head_not_winn : ¬ winnKeys (fldKey TILE_Q_HEAD p 2) := by
  rintro (h | ⟨r, hr, ⟨c, hc, h⟩ | h⟩)
  · exact head_not_hdrOr p hp _ (by decide) h
  · have hreg := (regKey_inj _ _ _ _ _ _ (by omega) (by omega) (by decide) (by simp [TILE_TOKEN]; omega)).1 h
    simp [TILE_Q_HEAD, TILE_TOKEN] at hreg
    omega
  · have hreg := (regKey_inj _ _ _ _ _ _ (by omega) (by omega) (by decide) (by decide)).1 h
    simp [TILE_Q_HEAD, TILE_TSAT_VALID] at hreg

theorem ring_winnApply (m : WinnMsg) (hi : m.inbox < 16) : (winnApply m).Keeps (ringOf p) :=
  ring_of_within p (winnApply_within m hi) (head_not_winn p hp) (inFlight_winnApply p 2 m)

theorem ring_noTiles {a : Act} {ps : List Part} {bs : List Blk} (h : a.Within ps (hdrOr bs)) (hps : Part.tiles ∉ ps) (hb : Blk.tile ∉ bs) :
    a.Keeps (ringOf p) := ring_of_within p h (head_not_hdrOr p hp bs hb) (inFlight_of_noTiles p 2 h hps)

theorem sendBlind_ring : SendBlind (ringOf p) fun m => m.inbox < 16 :=
  ⟨ring_winnApply p hp, fun l m => ring_noTiles p hp (enqueue_links l m) (by decide) (by decide),
    ring_noTiles p hp noRoute_links (by decide) (by decide)⟩

end

/-! ### DISPATCH -/

theorem mkG_clean (s : State) (p off n : Nat) (hsyn : s.syn = []) : mkG s p off n = false := by
  rw [mkG, anyMarked, hsyn]; rfl

/-- Where an expert of a map lives: node, tile, inbox. -/
def dpDst (map : List Byte) (e : Nat) : Nat × Nat × Nat :=
  (bits (emapEntry map e) 13 0, bits (emapEntry map e) 21 14, bits (emapEntry map e) 25 22)

/-- The rows of a DISPATCH, as messages. -/
def dpRowMsgs (s : State) (p : Nat) (d : Desc) (map : List Byte) (l : List (Nat × Nat × Nat × Nat)) : List (Nat × WinnMsg) :=
  l.map fun x => ((dpDst map x.2.2.1).1, (⟨(dpDst map x.2.2.1).2.1, 1, (dpDst map x.2.2.1).2.2, dpSrc d, x.2.2.2,
    nodeId s + slotOf s p * 2 ^ 14 + (vAddr d 80 + (x.1 * wK d + x.2.1) * recLE d 84 4) * 2 ^ 24,
    readBytes s (.galley p) (vAddr d 60 + x.1 * recLE d 64 4) (dpRowb d)⟩ : WinnMsg))

/-- The ENDs of a DISPATCH, one for each expert. -/
def dpEndMsgs (s : State) (p : Nat) (d : Desc) (map : List Byte) (l : List (Nat × Nat × Nat × Nat)) : List (Nat × WinnMsg) :=
  (List.range (dpE d)).map fun e => ((dpDst map e).1, (⟨(dpDst map e).2.1, 2, (dpDst map e).2.2, dpSrc d,
    countB (fun x => x.2.2.1 == e) l, nodeId s + slotOf s p * 2 ^ 14 + recLE d 78 1 * 2 ^ 22, []⟩ : WinnMsg))

/-- With no marks about, a DISPATCH sends every row it would, then its ENDs. -/
theorem dispatchRun_clean (p seq : Nat) (d : Desc) (map : List Byte) (codes : List Nat) (s : State) (hsyn : s.syn = [])
    (hnop : dpNop d = false) (k : OpResult → Act) : (dispatchRun p seq d map codes k).run s =
      (sendMsgs (.op p 2 seq) (dpRowMsgs s p d map (dpRows s p d)) ⟨0, 0, codes⟩ fun a =>
        sendMsgs (.op p 2 seq) (dpEndMsgs s p d map (dpRows s p d)) a fun b =>
          k (sendResult p b (dpRows s p d).length (dpE d) a.refused (firstMarked s p [(vAddr d 56, 8 * (wT d * wK d))]).isSome false
            (firstMarked s p [(vAddr d 56, 8 * (wT d * wK d))]))).run s := by
  have hpoison : ∀ x : Nat × Nat × Nat × Nat, dpRowPoison s p d x.1 = false := fun x => mkG_clean s p _ _ hsyn
  have hgo : (dpRows s p d).filter (fun x => !dpRowPoison s p d x.1) = dpRows s p d :=
    List.filter_eq_self.2 fun x _ => by rw [hpoison]; rfl
  have hheld : (dpRows s p d).filter (fun x => dpRowPoison s p d x.1) = [] := List.filter_eq_nil_iff.2 fun x _ => by rw [hpoison]; decide
  rw [dispatchRun, if_neg (by rw [hnop]; decide), run_look]
  dsimp only
  rw [hgo, hheld, run_acts_cons, run_acts_cons, runs_nil, List.filter_nil, runs_each_nil, List.length_map, List.length_map, List.length_range]
  rfl

/-- The messages of a DISPATCH go out, and its result counts them. -/
theorem dispatchRun_goes (p seq : Nat) (d : Desc) (map : List Byte) (codes : List Nat) (s : State) (hp : p < 160) (hsyn : s.syn = [])
    (hnop : dpNop d = false) : ∃ (r : OpResult) (u : State), ringOf p u = ringOf p s ∧ r.writes = [] ∧ r.value0 = dpE d ∧
      r.count = (dpRows s p d).length ∧ ∀ k, (dispatchRun p seq d map codes k).run s = (k r).run u := by
  have hrows : ∀ x ∈ dpRowMsgs s p d map (dpRows s p d), x.2.inbox < 16 := by
    intro x hx
    obtain ⟨y, -, rfl⟩ := List.mem_map.1 hx
    exact bits_lt (emapEntry map y.2.2.1) 25 22
  have hends : ∀ x ∈ dpEndMsgs s p d map (dpRows s p d), x.2.inbox < 16 := by
    intro x hx
    obtain ⟨e, -, rfl⟩ := List.mem_map.1 hx
    exact bits_lt (emapEntry map e) 25 22
  obtain ⟨a, u, hu, ha⟩ := sendMsgs_goes (sendBlind_ring p hp) (.op p 2 seq) _ hrows ⟨0, 0, codes⟩ s
  obtain ⟨b, v, hv, hb⟩ := sendMsgs_goes (sendBlind_ring p hp) (.op p 2 seq) _ hends a u
  exact ⟨_, v, hv.trans hu, rfl, rfl, rfl, fun k => by rw [dispatchRun_clean p seq d map codes s hsyn hnop, ha, hb]⟩

/-! ### RETURN -/

/-- The pages whose registers a target touches. -/
theorem hdrOr_sent (k : Nat) (h : targetKeys k) : hdrOr [.pres, .link, .slqp] k := by
  rcases h with rfl | rfl | h | rfl
  · exact hdrOr_fldKey PRES_READY_CNT 0 0 (by decide) (by decide) (by decide)
  · exact hdrOr_fldKey LINK_LDCNT 0 0 (by decide) (by decide) (by decide)
  · exact Or.inl (by omega)
  · exact hdrOr_fldKey SLQP_QCNT 0 5 (by decide) (by decide) (by decide)

theorem inboxSt_congr (p i : Nat) (s t : State) (h : t.tiles = s.tiles) : inboxSt t p i = inboxSt s p i := by
  rw [inboxSt, inboxSt, tileSt_congr s t p h]

theorem keeps_updTile_inbox (r p i : Nat) (f : Tile → Tile) (h : ∀ t, (f t).inbox = t.inbox) : (updTile r f).Keeps fun s => inboxSt s p i := fun s => by
  simp only [run_updTile, inboxSt, tileSt_tile]
  split
  · rename_i hp
    subst hp
    rw [h]
  · rfl

theorem headBlind_inbox (p i : Nat) : HeadBlind fun s => inboxSt s p i :=
  ⟨inboxSt_congr p i, fun _ _ _ => keeps_updTile_inbox _ _ _ _ fun _ => rfl, fun _ _ _ _ => keeps_updTile_inbox _ _ _ _ fun _ => rfl⟩

/-- What a RETURN's sending leaves: the ring, and the inbox it returns. -/
def returnSeen (p i : Nat) (s : State) : (List InFlight × Nat) × Nat × Inbox := (ringOf p s, fv s WINN_ISTATE p i, inboxSt s p i)

/-- The tag of an inbox's row. -/
def rnTag (s : State) (p : Nat) (d : Desc) (r : Nat) : Nat := rdG s p (fv s WINN_TAG_ADDR p (rnInbox d) + 8 * r) 8

/-- A row of a RETURN, or its tag, carries a mark. -/
def rnBad (s : State) (p : Nat) (d : Desc) (r : Nat) : Bool :=
  mkG s p (fv s WINN_TAG_ADDR p (rnInbox d) + 8 * r) 8 || mkG s p (rnRowOff d r) (rnRowb d)

/-- The messages that answer a sender. -/
def rnMsgs (s : State) (p : Nat) (d : Desc) (n : Nat) : List (Nat × WinnMsg) :=
  ((rnRows s p d n).filter fun r => !rnBad s p d r).map fun r => (bits (rnTag s p d r) 13 0,
    (⟨bits (rnTag s p d r) 21 14, 3, 0, 0, 0, bits (rnTag s p d r) 44 24 * 2 ^ 24, readBytes s (.galley p) (rnRowOff d r) (rnRowb d)⟩ : WinnMsg))

theorem rnMsgs_kind (s : State) (p : Nat) (d : Desc) (n : Nat) : ∀ y ∈ rnMsgs s p d n, y.2.kind = 3 := by
  intro y hy
  obtain ⟨r, -, rfl⟩ := List.mem_map.1 hy
  rfl

/-- The increment of a sender's RET_CNT. -/
def rnTarget (s : State) (p : Nat) (d : Desc) (n : Nat) : Nat :=
  bits (senderRec s p (rnInbox d) n) 29 22 + bits (senderRec s p (rnInbox d) n) 21 14 * 2 ^ 8 +
    bits (senderRec s p (rnInbox d) n) 13 0 * 2 ^ 16 + 2 ^ 30 + 2 ^ 32

/-- A sender of a RETURN: rows refused for their marks, its messages, its target, then the other senders. -/
theorem returnSenders_cons (p seq : Nat) (d : Desc) (x : Nat) (l : List Nat) (st : SendSt) (n : Nat) (bus : Bool) (s : State)
    (k : SendSt → Nat → Bool → Act) : (returnSenders p seq d (x :: l) st n bus k).run s =
      (sendMsgs (.op p 2 seq) (rnMsgs s p d x) st fun st' => acts [sendTarget (slotOf s p) (rnTarget s p d x),
        returnSenders p seq d l st' (n + ((rnRows s p d x).filter fun r => !rnBad s p d r).length) (bus || (rnRows s p d x).any (rnBad s p d)) k]).run
      ((each ((rnRows s p d x).filter fun r => rnBad s p d r && bits (rnTag s p d r) 13 0 != nodeId s) fun r =>
        refuseExport p (galleyLocal s p (rnRowOff d r))).run s) := by
  rw [returnSenders, run_look, run_acts_cons, run_acts_cons, runs_nil]
  rfl

section
variable (p i : Nat) (hp : p < 160) (hi : i < 16)
include hp hi

theorem istate_not_hdrOr (bs : List Blk) (hb : Blk.winn ∉ bs) : ¬ hdrOr bs (fldKey WINN_ISTATE p i) :=
  not_hdrOr_fldKey _ _ _ hb (by omega) (by simp [WINN_ISTATE]; omega) (by simp [WINN_ISTATE]; omega)

theorem seen_noTiles {a : Act} {ps : List Part} {bs : List Blk} (h : a.Within ps (hdrOr bs)) (hps : Part.tiles ∉ ps) (hb : Blk.tile ∉ bs)
    (hw : Blk.winn ∉ bs) : a.Keeps (returnSeen p i) := fun s =>
  Prod.ext (ring_noTiles p hp h hps hb s) (Prod.ext (h.fv s _ _ _ (istate_not_hdrOr p i hp hi bs hw)) (inboxSt_congr p i _ _ (h.same .tiles hps s)))

/-- A row that comes back to this device is a write of memory. -/
theorem seen_winnApply (m : WinnMsg) (hm : m.kind = 3) : (winnApply m).Keeps (returnSeen p i) := by
  refine keeps_look _ fun s => ?_
  dsimp only
  split
  · rw [if_pos hm]
    exact seen_noTiles p i hp hi (memPut_within _ _ _ (physOf_lt s m.tile)) (by decide) (by decide) (by decide)
  · exact keeps_done
  · rw [hm]
    exact keeps_done

theorem sendBlind_seen : SendBlind (returnSeen p i) fun m => m.kind = 3 :=
  ⟨seen_winnApply p i hp hi, fun l m => seen_noTiles p i hp hi (enqueue_links l m) (by decide) (by decide) (by decide),
    seen_noTiles p i hp hi noRoute_links (by decide) (by decide) (by decide)⟩

theorem seen_sendTarget (src x : Nat) : (sendTarget src x).Keeps (returnSeen p i) :=
  seen_noTiles p i hp hi ((sendTarget_within src x).regs hdrOr_sent) (by decide) (by decide) (by decide)

theorem returnSenders_goes (seq : Nat) (d : Desc) (l : List Nat) (st : SendSt) (n : Nat) (bus : Bool) (s : State) :
    ∃ (b : SendSt) (m : Nat) (c : Bool) (u : State), returnSeen p i u = returnSeen p i s ∧
      ∀ k, (returnSenders p seq d l st n bus k).run s = (k b m c).run u := by
  induction l generalizing st n bus s with
  | nil => exact ⟨st, n, bus, s, rfl, fun k => rfl⟩
  | cons x l ih =>
    have hheld : ∀ (l : List Nat) (f : Nat → Nat), (each l fun r => refuseExport p (f r)).Keeps (returnSeen p i) := fun l f => keeps_each _ _ fun r =>
      seen_noTiles p i hp hi (refuseExport_within p (f r) (by omega)) (by decide) (by decide) (by decide)
    obtain ⟨b, u, hu, hsend⟩ := sendMsgs_goes (sendBlind_seen p i hp hi) (.op p 2 seq) (rnMsgs s p d x) (rnMsgs_kind s p d x) st
      ((each ((rnRows s p d x).filter fun r => rnBad s p d r && bits (rnTag s p d r) 13 0 != nodeId s) fun r =>
        refuseExport p (galleyLocal s p (rnRowOff d r))).run s)
    obtain ⟨b', m', c', v, hv, hgo⟩ := ih b (n + ((rnRows s p d x).filter fun r => !rnBad s p d r).length)
      (bus || (rnRows s p d x).any (rnBad s p d)) ((sendTarget (slotOf s p) (rnTarget s p d x)).run u)
    refine ⟨b', m', c', v, hv.trans ((seen_sendTarget p i hp hi _ _ u).trans (hu.trans (hheld _ _ s))), fun k => ?_⟩
    rw [returnSenders_cons, hsend, run_acts_cons, run_acts_cons, runs_nil, hgo]

end

theorem inboxSt_updInbox (p i : Nat) (b : Inbox) (s : State) (hi : i < 16) : inboxSt ((updInbox p i b).run s) p i = b := by
  simp only [inboxSt, updInbox, run_updTile, tileSt_tile, if_true]
  rw [getD_modAt 16 _ _ _ _ _ hi, if_pos rfl]

/-- The first mark a RETURN reads in its tables. -/
def rnMarked (s : State) (p : Nat) (d : Desc) : Option Nat := firstMarked s p
  [(fv s WINN_SRCT_ADDR p (rnInbox d), 8 * fv s WINN_NSRC p (rnInbox d)), (fv s WINN_TAG_ADDR p (rnInbox d), 8 * inRows s p (rnInbox d))]

/-- What a RETURN sends, in an inbox it found CLOSED. -/
theorem returnRun_goes (p seq : Nat) (d : Desc) (codes : List Nat) (s : State) (hp : p < 160) (hcl : fv s WINN_ISTATE p (rnInbox d) = inClosed) :
    ∃ (r : OpResult) (u : State), ringOf p u = ringOf p s ∧ fv u WINN_ISTATE p (rnInbox d) = inReturning ∧
      (inboxSt u p (rnInbox d)).ret = some seq ∧ r.writes = [] ∧ ∀ k, (returnRun p seq d codes k).run s = (k r).run u := by
  have hi : rnInbox d < 16 := bits_lt _ 3 0
  obtain ⟨b, m, c, u, hu, hgo⟩ := returnSenders_goes p (rnInbox d) hp hi seq d (List.range (fv s WINN_NSRC p (rnInbox d))) ⟨0, 0, codes⟩ 0 false
    ((updInbox p (rnInbox d) ⟨(inboxSt s p (rnInbox d)).ends, some seq⟩).run ((setF WINN_ISTATE inReturning p (rnInbox d)).run s))
  obtain ⟨hring, hrest⟩ := Prod.ext_iff.1 hu
  obtain ⟨hstate, hinbox⟩ := Prod.ext_iff.1 hrest
  have hset : fldKey TILE_Q_HEAD p 2 ≠ fldKey WINN_ISTATE p (rnInbox d) :=
    fldKey_ne_blk TILE_Q_HEAD WINN_ISTATE p p 2 _ (by decide) (by omega) (by omega) (by decide) (by simp [WINN_ISTATE]; omega)
  refine ⟨sendResult p b m 0 b.refused (rnMarked s p d).isSome c (rnMarked s p d), u, hring.trans (Prod.ext ?_ ?_), hstate.trans ?_, ?_, rfl,
    fun k => ?_⟩
  · exact inFlight_updInbox p 2 p _ _ _
  · exact (Act.Within.fv (ps := []) (ks := (· = fldKey WINN_ISTATE p (rnInbox d))) ((within_setF _ _ _ _).2 rfl) s _ _ _ hset)
  · exact fv_setF_self _ _ _ _ _ ⟨by decide, by decide⟩
  · exact (congrArg Inbox.ret hinbox).trans (congrArg Inbox.ret (inboxSt_updInbox p _ _ _ hi))
  · rw [returnRun, run_look]
    dsimp only
    rw [if_neg (by rw [hcl]; decide), run_acts_cons, run_acts_cons, run_acts_cons, runs_nil, hgo]
    rfl

/-! ### What a head that sent leaves -/

theorem istate_not_head (p i : Nat) (hp : p < 160) (hi : i < 16) : ¬ headKeys p 2 (fldKey WINN_ISTATE p i) := by
  have ho : WINN_ISTATE.off + i * WINN_ISTATE.stride < 4096 := by simp [WINN_ISTATE]; omega
  rintro ((h | h) | h)
  · exact istate_not_hdrOr p i hp hi _ (by decide) h
  · exact fldKey_ne_blk WINN_ISTATE TILE_CNT_LATE_GATE p p i 0 (by decide) (by omega) (by omega) ho (by decide) h
  · exact fldKey_ne_blk WINN_ISTATE TILE_QSTATE p p i 2 (by decide) (by omega) (by omega) ho (by decide) h

/-- A result that waits behind nothing leaves every inbox as it is. -/
theorem resultFlies_inbox (p i : Nat) (x : InFlight) (u : State) (hp : p < 160) (hi : i < 16) (hnone : inFlightAt u p 2 = []) (hx : x.atOnce = false) :
    fv ((resultFlies p 2 x).run u) WINN_ISTATE p i = fv u WINN_ISTATE p i ∧ inboxSt ((resultFlies p 2 x).run u) p i = inboxSt u p i := by
  have hadd := inFlight_added p 2 (by decide) x u
  have hkeep : ∀ f, (updQueue p 2 f).Keeps fun s => inboxSt s p i := fun f => keeps_updTile_inbox _ _ _ _ fun _ => rfl
  rw [resultFlies_run, completeAtOnce_none, (headCheck_within p 2 hp).fv _ _ _ _ (istate_not_head p i hp hi)]
  · exact ⟨rfl, ((headBlind_inbox p i).headCheck p 2 hp _).trans (hkeep _ u)⟩
  · intro f rest hf
    rw [hadd, hnone] at hf
    cases hf
    exact hx

/-- What a sending head's result leaves in flight, in the ring and of the inboxes. -/
theorem sent_leaves (p op : Nat) (nop : Desc → Bool) (work : Engine) (s u : State) (r : OpResult) (hp : p < 160)
    (hc : canFire s p 2 = true) (ho : hOpcode (headDesc s p 2) = op) (hnop : nop (headDesc s p 2) = false)
    (hw : EngineGives work (headDesc s p 2) (queueSt s p 2).ctl (fv s TILE_Q_HEAD p 2) (fired s p 2) u r)
    (hu : ringOf p u = ringOf p (fired s p 2)) (hwrites : r.writes = []) (hnone : inFlightAt s p 2 = []) :
    fv ((fire p 2 op nop work).run s) TILE_Q_HEAD p 2 = (fv s TILE_Q_HEAD p 2 + 1) % 65536 ∧
    inFlightAt ((fire p 2 op nop work).run s) p 2 =
      [flownOf 2 (headDesc s p 2) (fv s TILE_Q_HEAD p 2) false r (outputNow u r.writes)] ∧
    ∀ i, i < 16 → fv ((fire p 2 op nop work).run s) WINN_ISTATE p i = fv u WINN_ISTATE p i ∧
      inboxSt ((fire p 2 op nop work).run s) p i = inboxSt u p i := by
  rw [fire_run p 2 op nop work s u r hc ho hw, fireEnd_run, hnop]
  have hlands : ∀ i, i < 16 → returnSeen p i ((resultLands p 2 r).run u) = returnSeen p i u := by
    intro i hi
    have hcommit : (commitWrites []).run u = u := runs_each_nil _ u
    rw [resultLands, run_acts_cons, run_acts_cons, runs_nil, hwrites, hcommit]
    split
    · exact seen_noTiles p i hp hi (consume_memory p 2 _ hp) (by decide) (by decide) (by decide) u
    · rfl
  obtain ⟨hin, hhead⟩ := Prod.ext_iff.1 ((Prod.ext_iff.1 (hlands 0 (by decide))).1.trans hu)
  generalize (resultLands p 2 r).run u = v at hin hhead hlands ⊢
  have hnone' : inFlightAt v p 2 = [] := hin.trans ((fired_inFlight s p 2).trans hnone)
  obtain ⟨h1, -, -⟩ := resultFlies_ring p 2 hp (by decide) (flownOf 2 (headDesc s p 2) (fv s TILE_Q_HEAD p 2) false r (outputNow u r.writes)) v
  obtain ⟨-, h2⟩ := resultFlies_waits p 2 hp (by decide) (flownOf 2 (headDesc s p 2) (fv s TILE_Q_HEAD p 2) false r (outputNow u r.writes)) v
    (by rw [hnone']; exact fun _ h => nomatch h) rfl
  rw [hnone'] at h2
  refine ⟨h1.trans (hhead.trans (fired_head s p 2)), h2, fun i hi => ?_⟩
  obtain ⟨h3, h4⟩ := resultFlies_inbox p i (flownOf 2 (headDesc s p 2) (fv s TILE_Q_HEAD p 2) false r (outputNow u r.writes)) v hp hi hnone' rfl
  obtain ⟨-, h5⟩ := Prod.ext_iff.1 (hlands i hi)
  obtain ⟨h6, h7⟩ := Prod.ext_iff.1 h5
  exact ⟨h3.trans h6, h4.trans h7⟩

/-! ### The rows -/

theorem winnowRow_run (s : State) (a : Act) (h : winnowHeld s = false) : (onlyIf (!winnowHeld s) a).run s = a.run s :=
  run_onlyIf_of_true _ s (by rw [h]; rfl)

theorem dispatch_leaves (s : State) (tile : Nat) (codes : List Nat) (hheld : winnowHeld s = false) (hc : canFire s (physOf s tile) 2 = true)
    (hplain : galleyPlain s (physOf s tile)) (hnone : inFlightAt s (physOf s tile) 2 = []) (ho : hOpcode (headDesc s (physOf s tile) 2) = 2)
    (hnop : dpNop (headDesc s (physOf s tile) 2) = false) :
    ∃ t x, exec (.dispatch tile codes) s = .next t ∧
      fv t TILE_Q_HEAD (physOf s tile) 2 = (fv s TILE_Q_HEAD (physOf s tile) 2 + 1) % 65536 ∧ inFlightAt t (physOf s tile) 2 = [x] ∧
      x.seq = fv s TILE_Q_HEAD (physOf s tile) 2 ∧ x.value0 = dpE (headDesc s (physOf s tile) 2) ∧
      x.count = (dpRows (fired s (physOf s tile) 2) (physOf s tile) (headDesc s (physOf s tile) 2)).length ∧
      x.dones = (List.range (min 2 (hNdone (headDesc s (physOf s tile) 2)))).map (hDone (headDesc s (physOf s tile) 2)) := by
  have hp := physOf_lt s tile
  have hfp := fired_plain s _ 2 hp (by decide) hplain
  obtain ⟨r, u, hu, hwrites, hvalue, hcount, hgo⟩ := dispatchRun_goes (physOf s tile) (fv s TILE_Q_HEAD (physOf s tile) 2)
    (headDesc s (physOf s tile) 2) (queueSt s (physOf s tile) 2).ctl codes (fired s (physOf s tile) 2) hp hfp.1 hnop
  have hw : EngineGives (dispatchEngine (physOf s tile) codes) (headDesc s (physOf s tile) 2) (queueSt s (physOf s tile) 2).ctl
      (fv s TILE_Q_HEAD (physOf s tile) 2) (fired s (physOf s tile) 2) u r := fun k => by
    rw [dispatchEngine, run_acts_cons, run_acts_cons, runs_nil, touchAll_plain hfp, hgo]
  obtain ⟨h1, h2, -⟩ := sent_leaves (physOf s tile) 2 dpNop _ s u r hp hc ho hnop hw hu hwrites hnone
  exact ⟨_, _, congrArg Host.Outcome.next (winnowRow_run s _ hheld), h1, h2, rfl, hvalue, hcount, rfl⟩

theorem return_leaves (s : State) (tile : Nat) (codes : List Nat) (hheld : winnowHeld s = false) (hc : canFire s (physOf s tile) 2 = true)
    (hplain : galleyPlain s (physOf s tile)) (hnone : inFlightAt s (physOf s tile) 2 = []) (ho : hOpcode (headDesc s (physOf s tile) 2) = 3)
    (hcl : fv s WINN_ISTATE (physOf s tile) (rnInbox (headDesc s (physOf s tile) 2)) = inClosed) :
    ∃ t x, exec (.returnRows tile codes) s = .next t ∧
      fv t TILE_Q_HEAD (physOf s tile) 2 = (fv s TILE_Q_HEAD (physOf s tile) 2 + 1) % 65536 ∧ inFlightAt t (physOf s tile) 2 = [x] ∧
      x.seq = fv s TILE_Q_HEAD (physOf s tile) 2 ∧
      fv t WINN_ISTATE (physOf s tile) (rnInbox (headDesc s (physOf s tile) 2)) = inReturning ∧
      (inboxSt t (physOf s tile) (rnInbox (headDesc s (physOf s tile) 2))).ret = some x.seq := by
  have hp := physOf_lt s tile
  have hi : rnInbox (headDesc s (physOf s tile) 2) < 16 := bits_lt _ 3 0
  have hfp := fired_plain s _ 2 hp (by decide) hplain
  have hcl' : fv (fired s (physOf s tile) 2) WINN_ISTATE (physOf s tile) (rnInbox (headDesc s (physOf s tile) 2)) = inClosed :=
    (fired_other s _ 2 hp (by decide) WINN_ISTATE _ _ (by decide) (by omega) (by simp [WINN_ISTATE]; omega)).trans hcl
  obtain ⟨r, u, hu, hstate, hret, hwrites, hgo⟩ := returnRun_goes (physOf s tile) (fv s TILE_Q_HEAD (physOf s tile) 2)
    (headDesc s (physOf s tile) 2) codes (fired s (physOf s tile) 2) hp hcl'
  have hw : EngineGives (returnEngine (physOf s tile) codes) (headDesc s (physOf s tile) 2) (queueSt s (physOf s tile) 2).ctl
      (fv s TILE_Q_HEAD (physOf s tile) 2) (fired s (physOf s tile) 2) u r := fun k => by
    rw [returnEngine, run_acts_cons, run_acts_cons, runs_nil, touchAll_plain hfp, hgo]
  obtain ⟨h1, h2, h3⟩ := sent_leaves (physOf s tile) 3 (fun _ => false) _ s u r hp hc ho rfl hw hu hwrites hnone
  exact ⟨_, _, congrArg Host.Outcome.next (winnowRow_run s _ hheld), h1, h2, rfl, (h3 _ hi).1.trans hstate,
    (congrArg Inbox.ret (h3 _ hi).2).trans hret⟩

/-- Settles O25: a fill's and a copy's row lands at its destination, and what the Winnow unit sends is reported in flight. -/
theorem transfersMoveRows : Obligations.TransfersMoveRows := by
  unfold Obligations.TransfersMoveRows
  refine ⟨fun s tile q ans u off hq3 hq hheld hc hnop hrows hnode hplace hok hclean hflip => ⟨fun ho => ?_, fun v o ho hsrc hpl hwf hviews => ?_⟩,
    fun s tile codes hheld hc hsyn hwf hnone => ⟨fun ho hnop => ?_, fun ho hcl => ?_⟩⟩
  · have hp := physOf_lt s tile
    have hpos := dmLen_pos _ hnop
    refine ⟨_, congrArg Host.Outcome.next (fireDma_run s tile q 2 ans hq3 hq hheld), ?_⟩
    rw [← fillBytes_fst]
    refine fireDma_leaves s _ q 2 ans u off (fillBytes (headDesc s (physOf s tile) q)) false hp hq3 hq hc ho hnop hrows hnode hplace hok hclean hflip
      ?_ ?_ fun k => dmaFetch_fill _ _ _ _ _ k ho _
    · simp [fillBytes]; omega
    · simp [fillBytes]
  · have hp := physOf_lt s tile
    have hpos := dmLen_pos _ hnop
    refine ⟨_, congrArg Host.Outcome.next (fireDma_run s tile q 1 ans hq3 hq hheld), ?_⟩
    have hlen : (readBytes (fired s (physOf s tile) q) v o (dmLen (headDesc s (physOf s tile) q))).length = dmLen (headDesc s (physOf s tile) q) := by
      simp [readBytes]
    rw [← unmarked_fst _ _ hlen]
    have hmarks := unmarked_snd (readBytes (fired s (physOf s tile) q) v o (dmLen (headDesc s (physOf s tile) q))) (dmLen (headDesc s (physOf s tile) q))
    refine fireDma_leaves s _ q 1 ans u off _ _ hp hq3 hq hc ho hnop hrows hnode hplace hok hclean hflip ?_ hmarks fun k =>
      dmaFetch_copy _ _ _ _ k _ v o ho (hsrc.trans (fired_nodeId s _ q hp hq).symm) ((fired_place s _ q _).trans hpl) hviews
        ((fired_syn s _ q).trans hclean.1) ((fired_anyWriteFirst s _ q hp hq v).trans hwf)
    intro h
    have := congrArg List.length h
    simp [hlen] at this
    omega
  · exact dispatch_leaves s tile codes hheld hc ⟨hsyn, hwf⟩ hnone ho hnop
  · exact return_leaves s tile codes hheld hc ⟨hsyn, hwf⟩ hnone ho hcl

end Sys2Proof.Machine
end

section
/-! PROOF. Data integrity: patrol, scrub passes, injected faults, poison summaries (R331, R336 to R338). -/

namespace Sys2Proof.Machine

/-! ### Rows of an INTG page -/

theorem slotOf_le (s : State) (p : Nat) : slotOf s p ≤ 160 := by
  rw [slotOf]
  cases h : (List.range 160).find? fun k => physOf s k == p with
  | none => exact Nat.le_refl 160
  | some k => exact (List.mem_range.1 (List.mem_of_find?_eq_some h)).le

theorem slotLoc_bounds (k j : Nat) (hk : k ≤ 160) (hj : j < 8) : (slotLoc k j).1 < 256 ∧ (slotLoc k j).2 < 4096 := by
  rw [slotLoc]
  split
  · exact ⟨by dsimp only; omega, by dsimp only; omega⟩
  · exact ⟨by dsimp only; omega, by dsimp only; omega⟩

theorem pageLoc_intg (s : State) (i : Nat) (hi : i < 256) : (pageLoc s (intgPage i)).1 < 256 ∧ (pageLoc s (intgPage i)).2 < 4096 := by
  have hslot := slotLoc_bounds (slotOf s i) 6 (slotOf_le s i) (by decide)
  have hloc : pageLoc s (intgPage i) = if i < 160 then slotLoc (slotOf s i) 6
    else if i < 176 then (0x10 + (i - 160) / 8, 0x301 + 2 * ((i - 160) % 8))
    else if i < 188 then (i - 176, 2)
    else if i < 200 then (i - 188, 1) else (0x18, 0xC) := rfl
  rw [hloc]
  by_cases h1 : i < 160
  · rw [if_pos h1]; exact hslot
  · rw [if_neg h1]
    by_cases h2 : i < 176
    · rw [if_pos h2]; exact ⟨by dsimp only; omega, by dsimp only; omega⟩
    · rw [if_neg h2]
      by_cases h3 : i < 188
      · rw [if_pos h3]; exact ⟨by dsimp only; omega, by dsimp only; omega⟩
      · rw [if_neg h3]
        by_cases h4 : i < 200
        · rw [if_pos h4]; exact ⟨by dsimp only; omega, by dsimp only; omega⟩
        · rw [if_neg h4]; exact ⟨by decide, by decide⟩

/-- A row that writes a register of an INTG page. -/
theorem exec_intg_row (s : State) (c : Instr) (r : Requester) (i off v : Nat) (d : RegDef) (hi : i < 256) (hv : v < 2 ^ 32) (hhere : intgHere s i = true)
    (hc : rowWrite s c = some (r, intgReg s i off, 4, v)) (h : accepted s r (intgReg s i off) 4 v = true)
    (hd : regAt .intg off = some (d, off)) (hlo : 0x40 ≤ off) (hhi : off < 4096) :
    exec c s = .next (answered ((intgApply i off v).run (stored s (intgPage i) d off v)) r (intgReg s i off)) := by
  obtain ⟨h1, h2⟩ := pageLoc_intg s i hi
  have hp : pageOf s (intgReg s i off) = some (intgPage i) := by
    rw [intgReg, pageOf_regAddr s _ _ _ h1 h2 hhi]
    exact beq_iff_eq.1 hhere
  have ho : raOff (intgReg s i off) = off := (regAddr_parts _ _ off h1 h2 hhi).2.2.2
  obtain ⟨hrun, -⟩ := exec_page_row s c r _ off v (intgPage i) d off hc h hp ho hd ⟨hlo, by simp [intgPage], by simp [intgPage]⟩ hv rfl
  simp only [hookApply, intgPage, if_neg (Nat.not_lt.2 hlo)] at hrun
  exact hrun

theorem pageKey_intg (i off : Nat) : pageKey (intgPage i) off = regKey .intg i off := by
  simp [pageKey, keyIdx, intgPage]

/-! ### FLIP_ARM and PSTS_CLR -/

theorem memKept_of_eq {s t : State} (hm : t.mem = s.mem) (hs : t.syn = s.syn) (hw : t.written = s.written) : memKept s t :=
  ⟨fun k => by rw [hm], fun k => by rw [hs], fun k => by rw [hw]⟩

theorem flipArm_row (s : State) (r : Requester) (i v : Nat) (hi : i < 256) (hv : v < 2 ^ 32) (hhere : intgHere s i = true) (hbit : bit v 4 = true)
    (h : accepted s r (intgReg s i 0x04C) 4 v = true) :
    ∃ t, exec (.flipArm r i v) s = .next t ∧ fb t INTG_FLIP_ARMED i = true ∧ fv t INTG_FLIP_TGT i = bits v 3 0 ∧ memKept s t := by
  obtain ⟨d, hd, hrw, hw1c⟩ : ∃ d, regAt .intg 0x04C = some (d, 0x04C) ∧ bits (storeMask d .rw) 3 0 = 15 ∧ bits (storeMask d .w1c) 3 0 = 0 :=
    ⟨_, rfl, by decide, by decide⟩
  have hrun := exec_intg_row s (.flipArm r i v) r i 0x04C v d hi hv hhere (by rw [rowWrite, if_pos ⟨hhere, hbit⟩]) h hd (by decide) (by decide)
  have happly : ∀ u, (intgApply i 0x04C v).run u = (setF INTG_FLIP_ARMED 1 i).run u := fun u => by
    rw [intgApply, if_neg (by decide), if_pos rfl, run_onlyIf_of_true _ _ hbit]
  rw [happly] at hrun
  refine ⟨_, hrun, ?_, ?_, memKept_of_eq rfl rfl rfl⟩
  · rw [fb, fv_answered, fv_setF_self _ _ _ _ _ ⟨by decide, by decide⟩]; rfl
  · rw [fv_answered, fv_setF_page _ INTG_FLIP_ARMED INTG_FLIP_TGT 1 i 0 0 rfl (by decide) (Or.inr (Or.inr (by decide))),
      fv_stored_rw s _ d _ v INTG_FLIP_TGT i 0 (by decide) (by rw [pageKey_intg]; rfl) hrw hw1c]
    rfl

theorem pstsClr_row (s : State) (r : Requester) (i v : Nat) (hi : i < 256) (hv : v < 2 ^ 32) (hhere : intgHere s i = true) (hbit : bit v 1 = true)
    (h : accepted s r (intgReg s i 0x040) 4 v = true) :
    ∃ t, exec (.pstsClr r i v) s = .next t ∧ memKept s t ∧ (i < 160 → fb t (hdrPoisoned .galy) i = false) ∧
      (176 ≤ i → i < 188 → fb t (hdrPoisoned .hbmc) (i - 176) = false) ∧
      ∀ p : PageRef, p.idx < 256 → p.blk ≠ .galy → p.blk ≠ .hbmc → fb t (hdrPoisoned p.blk) p.idx = fb s (hdrPoisoned p.blk) p.idx := by
  obtain ⟨d, hd⟩ : ∃ d, regAt .intg 0x040 = some (d, 0x040) := ⟨_, rfl⟩
  have hrun := exec_intg_row s (.pstsClr r i v) r i 0x040 v d hi hv hhere (by rw [rowWrite, if_pos ⟨hhere, hbit⟩]) h hd (by decide) (by decide)
  have happly : ∀ u, (intgApply i 0x040 v).run u = (pstsClr i).run u := fun u => by rw [intgApply, if_pos rfl, run_onlyIf_of_true _ _ hbit]
  have hstored : ∀ p : PageRef, p.idx < 256 → fb (stored s (intgPage i) d 0x040 v) (hdrPoisoned p.blk) p.idx = fb s (hdrPoisoned p.blk) p.idx := by
    intro p hp
    rw [fb, fb, fv_stored_other]
    rw [pageKey_intg]
    intro he
    obtain ⟨-, -, h3⟩ := (regKey_inj _ _ _ _ _ _ hp hi (by simp [hdrPoisoned]) (by decide)).1 he
    simp [hdrPoisoned] at h3
  have hset : ∀ (u : State) (b : Blk) (j : Nat), fb ((setF (hdrPoisoned b) 0 j).run u) (hdrPoisoned b) j = false := fun u b j => by
    rw [fb_setF_self _ _ _ _ _ ⟨by simp [hdrPoisoned], by simp [hdrPoisoned]⟩]; simp [hdrPoisoned]
  have hother : ∀ (u : State) (b : Blk) (j : Nat), j < 256 → ∀ p : PageRef, p.idx < 256 → p.blk ≠ b →
      fb ((setF (hdrPoisoned b) 0 j).run u) (hdrPoisoned p.blk) p.idx = fb u (hdrPoisoned p.blk) p.idx := fun u b j hj p hp hne => by
    rw [fb, fb, fv_setF_block _ (hdrPoisoned b) (hdrPoisoned p.blk) _ _ _ _ _ hne (by simp [hdrPoisoned]) hj hp (by simp [hdrPoisoned]) (by simp [hdrPoisoned])]
  rw [happly] at hrun
  refine ⟨_, hrun, ?_, fun h160 => ?_, fun h176 h188 => ?_, fun p hp hg hh => ?_⟩
  · have hw : (pstsClr i).Within [] fun _ => True := by
      unfold pstsClr
      split
      · exact (within_setF _ _ _ _).2 trivial
      · split
        · exact (within_setF _ _ _ _).2 trivial
        · trivial
    exact memKept_of_eq (hw.same .mem (by decide) _) (hw.same .syn (by decide) _) (hw.same .written (by decide) _)
  · rw [fb_answered, pstsClr, if_pos h160, hset]
  · rw [fb_answered, pstsClr, if_neg (by omega), if_pos ⟨h176, h188⟩, hset]
  · rw [fb_answered, pstsClr]
    split
    · rw [hother _ _ _ hi p hp hg, hstored p hp]
    · split
      · rw [hother _ _ _ (by omega) p hp hh, hstored p hp]
      · exact hstored p hp

/-! ### SCRUB_GO -/

theorem sendTarget0_within (src t : Nat) : (sendTarget0 src t).Within targetParts targetKeys := only_onlyIf _ _ _ fun _ => sendTarget_within src t

/-- The end of a pass but for BUSY: a target, an event. -/
theorem scrubEnd_within (i : Nat) : (scrubEnd i).Within targetParts fun k => hdrOr [.pres, .link, .slqp] k ∨ k = fldKey INTG_SCRUB_BUSY i 0 := by
  intro s
  simp only [only_acts_cons, only_acts_nil, within_setF, and_true]
  refine ⟨Or.inr trivial, (sendTarget0_within _ _).regs fun k h => Or.inl (hdrOr_sent k h), only_onlyIf _ _ _ fun _ =>
    (raiseEvt_hdrOr (intgPage i) _ (bs := [.pres, .link, .slqp]) (by decide) (by decide) (by decide)).regs fun _ => Or.inl⟩

/-- The registers of a page beside its headers are as they were, but for BUSY, which clears. -/
theorem fv_scrubEnd (s : State) (i n : Nat) (f : Fld) (hi : i < 256) (hb : f.blk = .intg) (h0 : 0x40 ≤ f.off + n * f.stride)
    (ho : f.off + n * f.stride < 4096) : fv ((scrubEnd i).run s) f i n = fv ((setF INTG_SCRUB_BUSY 0 i).run s) f i n := by
  have hnot : ¬ hdrOr [.pres, .link, .slqp] (fldKey f i n) := not_hdrOr_fldKey _ _ _ (by rw [hb]; decide) hi h0 ho
  have hraise : ∀ c, (onlyIf c (raiseEvt (intgPage i) (2 ^ 22))).Within [.events, .out] (hdrOr [.pres, .link, .slqp]) := fun c =>
    only_onlyIf _ _ _ fun _ => raiseEvt_hdrOr _ _ (by decide) (by decide) (by decide)
  have hsend : ∀ t, (sendTarget0 (srcOf (intgPage i)) t).Within targetParts (hdrOr [.pres, .link, .slqp]) := fun t =>
    (sendTarget0_within _ t).regs hdrOr_sent
  rw [scrubEnd, run_look, run_acts_cons, run_acts_cons, run_acts_cons, runs_nil, (hraise _).fv _ _ _ _ hnot, (hsend _).fv _ _ _ _ hnot]

theorem fv_scrubEnd_other (s : State) (i n : Nat) (f : Fld) (hi : i < 256) (hb : f.blk = .intg) (h0 : 0x40 ≤ f.off + n * f.stride)
    (ho : f.off + n * f.stride < 4096) (hne : f.off + n * f.stride ≠ 0x078 ∨ f.hi < 31) : fv ((scrubEnd i).run s) f i n = fv s f i n := by
  rw [fv_scrubEnd s i n f hi hb h0 ho, fv_setF_page s INTG_SCRUB_BUSY f 0 i 0 n hb (by decide)]
  rcases hne with h | h
  · exact Or.inl (by simpa [INTG_SCRUB_BUSY] using h)
  · exact Or.inr (Or.inr h)

theorem scrubEnd_busy (s : State) (i : Nat) (hi : i < 256) : fb ((scrubEnd i).run s) INTG_SCRUB_BUSY i = false := by
  rw [fb, fv_scrubEnd s i 0 INTG_SCRUB_BUSY hi rfl (by decide) (by decide), fv_setF_self _ _ _ _ _ ⟨by decide, by decide⟩]
  rfl

/-- The summary clears, and BUSY is set. -/
def scrubClear (i : Nat) : Act :=
  acts [setF INTG_SUM_WORDS 0 i, setF INTG_SUM_FIRST (2 ^ 64 - 1) i, setF INTG_SUM_LAST (2 ^ 64 - 1) i, setF INTG_SUM 0 i 0,
    setF INTG_SUM 0 i 1, setF INTG_SUM 0 i 2, setF INTG_SUM 0 i 3, setF INTG_SCRUB_BUSY 1 i]

/-- The state in which a pass that is started runs or ends. -/
def scrubCleared (u : State) (i : Nat) : State := (scrubClear i).run u

section
variable (u : State) (i : Nat)

theorem scrubGo_run : (scrubGo i).run u = (onlyIf (fv u INTG_SCRUB_LEN i == 0) (scrubEnd i)).run (scrubCleared u i) := by
  have hrange : List.range 4 = [0, 1, 2, 3] := rfl
  simp only [scrubGo, scrubCleared, scrubClear, runs_look, run_acts_cons, runs_nil, hrange, run_each_cons, runs_each_nil]

theorem scrubCleared_sums : fv (scrubCleared u i) INTG_SUM_WORDS i = 0 ∧ (∀ k, k < 4 → fv (scrubCleared u i) INTG_SUM i k = 0) := by
  refine ⟨?_, fun k hk => ?_⟩
  · simp (disch := decide) only [scrubCleared, scrubClear, run_acts_cons, runs_nil, fv_setF_page]
    rw [fv_setF_self _ _ _ _ _ ⟨by decide, by decide⟩]; rfl
  · obtain rfl | rfl | rfl | rfl : k = 0 ∨ k = 1 ∨ k = 2 ∨ k = 3 := by omega
    all_goals
      simp (disch := decide) only [scrubCleared, scrubClear, run_acts_cons, runs_nil, fv_setF_page]
      rw [fv_setF_self _ _ _ _ _ ⟨by decide, by decide⟩]; rfl

theorem scrubCleared_bounds : fv (scrubCleared u i) INTG_SUM_FIRST i = 2 ^ 64 - 1 ∧ fv (scrubCleared u i) INTG_SUM_LAST i = 2 ^ 64 - 1 := by
  refine ⟨?_, ?_⟩
  · simp (disch := decide) only [scrubCleared, scrubClear, run_acts_cons, runs_nil, fv_setF_page]
    rw [fv_setF_self _ _ _ _ _ ⟨by decide, by decide⟩]; rfl
  · simp (disch := decide) only [scrubCleared, scrubClear, run_acts_cons, runs_nil, fv_setF_page]
    rw [fv_setF_self _ _ _ _ _ ⟨by decide, by decide⟩]; rfl

theorem scrubCleared_ctl : fv (scrubCleared u i) INTG_SCRUB_TGT i = fv u INTG_SCRUB_TGT i ∧ fb (scrubCleared u i) INTG_SCRUB_BUSY i = true := by
  refine ⟨?_, ?_⟩
  · simp (disch := decide) only [scrubCleared, scrubClear, run_acts_cons, runs_nil, fv_setF_page]
  · simp only [scrubCleared, scrubClear, run_acts_cons, runs_nil, fb]
    rw [fv_setF_self _ _ _ _ _ ⟨by decide, by decide⟩]; rfl

theorem scrubCleared_mem : (scrubCleared u i).mem = u.mem ∧ (scrubCleared u i).syn = u.syn ∧ (scrubCleared u i).written = u.written := by
  have hw : (scrubClear i).Within [] fun _ => True := by simp [scrubClear]
  exact ⟨hw.same .mem (by decide) u, hw.same .syn (by decide) u, hw.same .written (by decide) u⟩

end

/-- The summary of a page as a pass that starts leaves it. -/
def scrubStarted (u t : State) (i : Nat) : Prop :=
  fv t INTG_SUM_WORDS i = 0 ∧ (∀ k, k < 4 → fv t INTG_SUM i k = 0) ∧ fv t INTG_SUM_FIRST i = 2 ^ 64 - 1 ∧ fv t INTG_SUM_LAST i = 2 ^ 64 - 1 ∧
    memKept u t ∧ fv t INTG_SCRUB_TGT i = fv u INTG_SCRUB_TGT i ∧ fb t INTG_SCRUB_BUSY i = (fv u INTG_SCRUB_LEN i != 0)

theorem scrubGo_state (u : State) (i : Nat) (hi : i < 256) : scrubStarted u ((scrubGo i).run u) i := by
  obtain ⟨h1, h2⟩ := scrubCleared_sums u i
  obtain ⟨h3, h4⟩ := scrubCleared_bounds u i
  obtain ⟨h5, h6⟩ := scrubCleared_ctl u i
  obtain ⟨hm, hs, hw⟩ := scrubCleared_mem u i
  rw [scrubGo_run]
  generalize scrubCleared u i = x at *
  by_cases hlen : fv u INTG_SCRUB_LEN i = 0
  · have hend := scrubEnd_within i
    rw [run_onlyIf_of_true _ _ (by rw [hlen]; rfl)]
    refine ⟨?_, fun k hk => ?_, ?_, ?_, memKept_of_eq ((hend.same .mem (by decide) x).trans hm) ((hend.same .syn (by decide) x).trans hs)
      ((hend.same .written (by decide) x).trans hw), ?_, ?_⟩
    · rw [fv_scrubEnd_other x i 0 _ hi rfl (by decide) (by decide) (Or.inl (by decide)), h1]
    · rw [fv_scrubEnd_other x i k _ hi rfl (by simp [INTG_SUM]; omega) (by simp [INTG_SUM]; omega) (Or.inl (by simp [INTG_SUM]; omega)), h2 k hk]
    · rw [fv_scrubEnd_other x i 0 _ hi rfl (by decide) (by decide) (Or.inl (by decide)), h3]
    · rw [fv_scrubEnd_other x i 0 _ hi rfl (by decide) (by decide) (Or.inl (by decide)), h4]
    · rw [fv_scrubEnd_other x i 0 _ hi rfl (by decide) (by decide) (Or.inr (by decide)), h5]
    · rw [scrubEnd_busy x i hi, hlen]; rfl
  · rw [run_onlyIf_of_false _ _ (by simpa using hlen)]
    exact ⟨h1, h2, h3, h4, memKept_of_eq hm hs hw, h5, by rw [h6]; simpa using hlen⟩

theorem scrubGo_row (s : State) (r : Requester) (i v : Nat) (hi : i < 256) (hv : v < 2 ^ 32) (hhere : intgHere s i = true) (hbit : bit v 4 = true)
    (h : accepted s r (intgReg s i 0x078) 4 v = true) :
    ∃ t, exec (.scrubGo r i v) s = .next t ∧ fv t INTG_SUM_WORDS i = 0 ∧ (∀ k, k < 4 → fv t INTG_SUM i k = 0) ∧
      fv t INTG_SUM_FIRST i = 2 ^ 64 - 1 ∧ fv t INTG_SUM_LAST i = 2 ^ 64 - 1 ∧ memKept s t ∧
      fv t INTG_SCRUB_TGT i = bits v 3 0 ∧ fb t INTG_SCRUB_BUSY i = (fv s INTG_SCRUB_LEN i != 0) := by
  obtain ⟨d, hd, hrw, hw1c⟩ : ∃ d, regAt .intg 0x078 = some (d, 0x078) ∧ bits (storeMask d .rw) 3 0 = 15 ∧ bits (storeMask d .w1c) 3 0 = 0 :=
    ⟨_, rfl, by decide, by decide⟩
  have hrun := exec_intg_row s (.scrubGo r i v) r i 0x078 v d hi hv hhere (by rw [rowWrite, if_pos ⟨hhere, hbit⟩]) h hd (by decide) (by decide)
  have happly : ∀ u, (intgApply i 0x078 v).run u = (scrubGo i).run u := fun u => by
    rw [intgApply, if_neg (by decide), if_neg (by decide), if_pos rfl, run_onlyIf_of_true _ _ hbit]
  rw [happly] at hrun
  have htgt : fv (stored s (intgPage i) d 0x078 v) INTG_SCRUB_TGT i = bits v 3 0 :=
    fv_stored_rw s _ d _ v INTG_SCRUB_TGT i 0 (by decide) (by rw [pageKey_intg]; rfl) hrw hw1c
  have hlen : fv (stored s (intgPage i) d 0x078 v) INTG_SCRUB_LEN i = fv s INTG_SCRUB_LEN i :=
    fv_stored_other s _ d _ v _ _ _ (by rw [pageKey_intg]; exact fldKey_ne_off INTG_SCRUB_LEN INTG_SCRUB_GO i 0 0 rfl (by decide))
  obtain ⟨h1, h2, h3, h4, h5, h6, h7⟩ := scrubGo_state (stored s (intgPage i) d 0x078 v) i hi
  exact ⟨_, hrun, h1, h2, h3, h4, h5, h6.trans htgt, h7.trans (by rw [hlen])⟩

/-! ### What accounting a word touches -/

/-- The parts that accounting a word touches. -/
def noteParts : List Part := [.cands, .nv, .events, .out]

/-- The registers that accounting a word touches: headers, HLTH, and INTG pages from some offset on. -/
def noteKeys (lo k : Nat) : Prop := hdrOr [.hlth, .slqp] k ∨ ∃ i o, i < 256 ∧ lo ≤ o ∧ o < 0x300 ∧ k = regKey .intg i o

section
variable (lo : Nat)

theorem noteKeys_fld (f : Fld) (i n : Nat) (hb : f.blk = .intg) (hi : i < 256) (h0 : lo ≤ f.off + n * f.stride) (ho : f.off + n * f.stride < 0x300) :
    noteKeys lo (fldKey f i n) := Or.inr ⟨i, _, hi, h0, ho, by rw [fldKey, hb]⟩

theorem not_noteKeys (f : Fld) (i n : Nat) (hb : f.blk = .intg) (hi : i < 256) (h0 : 0x40 ≤ f.off + n * f.stride) (ho : f.off + n * f.stride < lo)
    (hlo : lo ≤ 0x300) : ¬ noteKeys lo (fldKey f i n) := by
  rintro (h | ⟨j, o, hj, h1, h2, h⟩)
  · exact not_hdrOr_fldKey f i n (by rw [hb]; decide) hi h0 (by omega) h
  · rw [fldKey, hb] at h
    obtain ⟨-, -, he⟩ := (regKey_inj _ _ _ _ _ _ hi hj (by omega) (by omega)).1 h
    omega

theorem raiseEvt_notes (p : PageRef) (m : Nat) : (raiseEvt p m).Within noteParts (noteKeys lo) :=
  (raiseEvt_hdrOr p m (bs := [.hlth, .slqp]) (by decide) (by decide) (by decide)).regs fun _ => Or.inl

theorem healthNotice_notes (n : Notice) : (healthNotice n).Within noteParts (noteKeys lo) := (healthNotice_within n).mono (by decide) fun _ => Or.inl

variable (hlo : lo ≤ 0xAC)
include hlo

theorem logEntry_notes (i kind mem addr syn : Nat) (hi : i < 256) : (logEntry i kind mem addr syn).Within noteParts (noteKeys lo) := by
  have hl : ∀ k, k < 32 → noteKeys lo (fldKey INTG_LOG i k) := fun k hk =>
    noteKeys_fld lo _ _ _ rfl hi (by simp [INTG_LOG]; omega) (by simp [INTG_LOG]; omega)
  simp only [logEntry, only_look_iff, only_acts_cons, only_acts_nil, within_setF, and_true]
  exact fun s => ⟨hl _ (by omega), hl _ (by omega), noteKeys_fld lo _ _ _ rfl hi (by simp [INTG_LOG_HEAD]; omega) (by decide)⟩

omit hlo in
theorem noteMark_notes (u : MemUnit) : (noteMark u).Within noteParts (noteKeys lo) := by
  unfold noteMark
  split
  · simp only [only_look_iff, only_onlyIf_iff, only_acts_cons, only_acts_nil, within_setF, and_true]
    exact fun s _ => ⟨Or.inl (hdrOr_fldKey_header _ _ _ (by simp [hdrPoisoned])), raiseEvt_notes lo _ _⟩
  · trivial

theorem remap_notes (u : MemUnit) (off : Nat) (h : u.ok) : (remap u off).Within noteParts (noteKeys lo) := by
  intro s
  have hi := muIntg_lt u h
  dsimp only
  split
  · trivial
  · split
    · rename_i r hr
      have hr' : r < 32 := List.mem_range.1 (List.mem_of_find?_eq_some hr)
      simp only [only_acts_cons, only_acts_nil, within_setF, only_upd_iff, Upd.within, and_true]
      exact ⟨noteKeys_fld lo _ _ _ rfl hi (by simp [INTG_REMAP_VALID]; omega) (by simp [INTG_REMAP_VALID]; omega),
        noteKeys_fld lo _ _ _ rfl hi (by simp [INTG_REMAP_ADDR]; omega) (by simp [INTG_REMAP_ADDR]; omega),
        noteKeys_fld lo _ _ _ rfl hi (by simp [INTG_REMAP_USED]; omega) (by decide), by decide, logEntry_notes lo hlo _ _ _ _ _ hi, raiseEvt_notes lo _ _⟩
    · simp only [only_acts_cons, only_acts_nil, cnt, within_incF, and_true]
      exact ⟨noteKeys_fld lo _ _ _ rfl hi (by simp [INTG_ICNT]; omega) (by decide), logEntry_notes lo hlo _ _ _ _ _ hi, raiseEvt_notes lo _ _,
        healthNotice_notes lo _⟩

theorem candidate_notes (u : MemUnit) (off : Nat) (h : u.ok) : (candidate u off).Within noteParts (noteKeys lo) := by
  simp only [candidate, only_look_iff, only_ite_iff, only_upd_iff, Upd.within]
  exact fun s => ⟨fun _ => trivial, fun _ => ⟨fun _ => remap_notes lo hlo u off h, fun _ => by decide⟩⟩

theorem noteUE_notes (u : MemUnit) (off syn : Nat) (h : u.ok) : (noteUE u off syn).Within noteParts (noteKeys lo) := by
  have hi := muIntg_lt u h
  simp only [noteUE, only_acts_cons, only_acts_nil, cnt, within_incF, and_true]
  exact ⟨noteKeys_fld lo _ _ _ rfl hi (by simp [INTG_ICNT]; omega) (by decide), logEntry_notes lo hlo _ _ _ _ _ hi, raiseEvt_notes lo _ _,
    noteMark_notes lo u, remap_notes lo hlo u off h⟩

/-- What follows the count of a corrected word: the log, the event, the candidate list. -/
theorem noteCE_rest (u : MemUnit) (off syn : Nat) (h : u.ok) : (acts [logEntry (muIntg u) 1 (muSel u) (muLogAddr u off) syn,
    raiseEvt (intgPage (muIntg u)) (2 ^ 16), candidate u off]).Within noteParts (noteKeys lo) := by
  simp only [only_acts_cons, only_acts_nil, and_true]
  exact ⟨logEntry_notes lo hlo _ _ _ _ _ (muIntg_lt u h), raiseEvt_notes lo _ _, candidate_notes lo hlo u off h⟩

end

theorem noteCE_notes (u : MemUnit) (off syn : Nat) (h : u.ok) : (noteCE u off syn).Within noteParts (noteKeys 0xA8) := by
  have hrest := noteCE_rest 0xA8 (by decide) u off syn h
  simp only [only_acts_cons, only_acts_nil, and_true] at hrest
  simp only [noteCE, only_acts_cons, only_acts_nil, cnt, within_incF, and_true]
  exact ⟨noteKeys_fld _ _ _ _ rfl (muIntg_lt u h) (by decide) (by decide), hrest⟩

/-- A word that is read: its bytes and check, and its accounting. -/
theorem touchWord_notes (u : MemUnit) (off : Nat) (h : u.ok) : (touchWord u off).Within (.mem :: .syn :: noteParts) (noteKeys 0xA8) := by
  have hce : ∀ syn, (noteCE u off syn).Within (.mem :: .syn :: noteParts) (noteKeys 0xA8) := fun syn => (noteCE_notes u off syn h).mono (by decide) fun _ h => h
  intro s
  dsimp only
  split
  · trivial
  · simp only [only_acts_cons, only_acts_nil, only_onlyIf_iff, only_upd_iff, Upd.within, and_true]
    exact ⟨fun _ => by decide, (noteMark_notes _ u).mono (by decide) fun _ h => h⟩
  · simp only [only_ite_iff, only_acts_cons, only_acts_nil, only_upd_iff, Upd.within, and_true]
    exact ⟨fun _ => ⟨by decide, by decide, hce _⟩, fun _ => ⟨by decide, by decide, hce _⟩⟩
  · simp only [only_acts_cons, only_acts_nil, only_upd_iff, Upd.within, and_true]
    exact ⟨by decide, (noteUE_notes _ (by decide) u off _ h).mono (by decide) fun _ h => h⟩

/-! ### SCRUB_DONE -/

theorem noteKeys_mono {lo lo' : Nat} (h : lo' ≤ lo) (k : Nat) (hk : noteKeys lo k) : noteKeys lo' k := by
  rcases hk with hk | ⟨i, o, hi, h0, ho, rfl⟩
  · exact Or.inl hk
  · exact Or.inr ⟨i, o, hi, by omega, ho, rfl⟩

/-- The parts that reading a word in a pass touches. -/
def passParts : List Part := .mem :: .syn :: .written :: .free :: noteParts

theorem muOf_ok (i sel : Nat) (u : MemUnit) (hi : i < 256) (h : muOf i sel = some u) : u.ok := by
  unfold muOf at h
  split at h
  · rename_i h160
    split at h
    · cases h; exact h160
    · cases h; exact h160
    · cases h; exact h160
    · cases h
  · split at h
    · rename_i h188
      have hn : i - 176 < 12 := by omega
      split at h
      · cases h; exact hn
      · cases h; exact hn
      · cases h
    · cases h

theorem scrubWord_within (i : Nat) (u : MemUnit) (off : Nat) (hi : i < 256) (h : u.ok) : (scrubWord i u off).Within passParts (noteKeys 0x80) := by
  have hsum : ∀ k, k < 4 → noteKeys 0x80 (fldKey INTG_SUM i k) := fun k hk =>
    noteKeys_fld _ _ _ _ rfl hi (by simp [INTG_SUM]; omega) (by simp [INTG_SUM]; omega)
  have htouch : (touchWord u off).Within passParts (noteKeys 0x80) := (touchWord_notes u off h).mono (by decide) (noteKeys_mono (by decide))
  have hmat : (materialise u off).Within passParts (noteKeys 0x80) := by
    simp [materialise, Upd.within, passParts]
  intro s
  refine only_ite trivial ?_
  simp only [only_acts_cons, only_acts_nil, and_true]
  refine ⟨hmat, fun t => ?_⟩
  simp only [only_acts_cons, only_acts_nil, within_setF, and_true]
  refine ⟨noteKeys_fld _ _ _ _ rfl hi (by decide) (by decide), ?_, only_onlyIf _ _ _ fun _ => ?_, htouch⟩
  · split
    · trivial
    · exact (within_incF _ _ _ _).2 (hsum 0 (by decide))
    · exact (within_incF _ _ _ _).2 (hsum 1 (by decide))
    · exact (within_incF _ _ _ _).2 (hsum 2 (by decide))
  · simp only [only_acts_cons, only_acts_nil, within_setF, and_true]
    exact ⟨only_onlyIf _ _ _ fun _ => (within_setF _ _ _ _).2 (noteKeys_fld _ _ _ _ rfl hi (by decide) (by decide)),
      noteKeys_fld _ _ _ _ rfl hi (by decide) (by decide)⟩

/-- Storage that awaits its first write lies in a memory that has some. -/
theorem writeFirst_any (s : State) (u : MemUnit) (off : Nat) (h : writeFirst s u off = true) : anyWriteFirst s u = true := by
  have hreal : muReal u = true := by
    have h' := h
    unfold writeFirst at h'
    exact (Bool.and_eq_true_iff.1 h').1
  cases u with
  | hbm n =>
    simp only [writeFirst, hreal, Bool.true_and] at h
    simp only [anyWriteFirst, hreal, Bool.true_and]
    obtain ⟨r, hr, h⟩ := List.any_eq_true.1 h
    simp only [Bool.and_eq_true] at h
    exact List.any_eq_true.2 ⟨r, hr, h.1.1⟩
  | galley p =>
    simp only [writeFirst, hreal, Bool.true_and] at h
    simp only [anyWriteFirst, hreal, Bool.true_and]
    split at h
    · rename_i r hr
      rw [galleyRegion] at hr
      obtain ⟨x, hx, rfl⟩ := Option.map_eq_some_iff.1 hr
      have hv := List.find?_some hx
      simp only [Bool.and_eq_true] at hv
      refine List.any_eq_true.2 ⟨x, List.mem_of_find?_eq_some hx, ?_⟩
      have hmode : fv s GALY_RMODE p x = 1 := beq_iff_eq.1 h
      rw [hv.1.1, fb, hmode]
      rfl
    · cases h
  | imem p => simp [writeFirst] at h
  | dmem p => simp [writeFirst] at h
  | prog n => simp [writeFirst] at h

/-- No check bits are set anywhere. -/
def noSyn (s : State) : Prop := ∀ k, synAt s k = 0

theorem noSyn_nil (s : State) (h : s.syn = []) : noSyn s := fun k => by rw [synAt, h]; rfl

theorem foundWord_clean (s : State) (u : MemUnit) (off : Nat) (h : ∀ i, i < 8 → synAt s (muBase u + off + i) = 0) : foundWord s u off = (.clean, 0) := by
  have h0 : synAt s (muBase u + off) = 0 := by simpa using h 0 (by decide)
  rw [foundWord]
  dsimp only
  split
  · have hg : galleyWord s (muBase u + off) = List.replicate 8 .clean := by
      rw [galleyWord]
      refine List.eq_replicate_iff.2 ⟨by simp, fun c hc => ?_⟩
      obtain ⟨i, hi, rfl⟩ := List.mem_map.1 hc
      rw [h i (List.mem_range.1 hi)]; rfl
    rw [hg]; rfl
  · rw [h0]; rfl

theorem touchWord_clean (s : State) (u : MemUnit) (off : Nat) (h : ∀ i, i < 8 → synAt s (muBase u + off + i) = 0) : (touchWord u off).run s = s := by
  rw [touchWord, run_look, foundWord_clean s u off h]
  rfl

/-- A word of a pass with nothing to correct counts, at most. -/
theorem scrubWord_clean (s : State) (i : Nat) (u : MemUnit) (off : Nat) (hsyn : s.syn = []) (hw : ∀ u, anyWriteFirst s u = false) :
    (scrubWord i u off).run s = s ∨ (scrubWord i u off).run s = (setF INTG_SUM_WORDS (fv s INTG_SUM_WORDS i + 1) i).run s := by
  have hwf : writeFirst s u off = false := Bool.eq_false_iff.2 fun h => Bool.false_ne_true ((hw u).symm.trans (writeFirst_any s u off h))
  have hmat : (materialise u off).run s = s := by
    rw [materialise, run_look, if_pos (by rw [hwf]; simp)]; rfl
  have hclean := foundWord_clean s u off fun i _ => noSyn_nil s hsyn _
  rw [scrubWord, run_look]
  split
  · exact Or.inl rfl
  · right
    rw [run_acts_cons, run_acts_cons, runs_nil, hmat, run_look, hclean]
    dsimp only
    rw [run_acts_cons, run_acts_cons, run_acts_cons, run_acts_cons, runs_nil, runs_done, run_onlyIf_of_false _ _ (by decide), touchWord_clean]
    exact fun k _ => noSyn_nil _ hsyn _

/-- What a pass over memory with nothing to correct keeps. -/
structure PassKept (s t : State) (i : Nat) : Prop where
  mem : t.mem = s.mem
  syn : t.syn = s.syn
  written : t.written = s.written
  fields : ∀ f j n, fldKey f j n ≠ fldKey INTG_SUM_WORDS i 0 → fv t f j n = fv s f j n

theorem PassKept.anyWriteFirst {s t : State} {i : Nat} (h : PassKept s t i) (hi : i < 256) (u : MemUnit) : anyWriteFirst t u = anyWriteFirst s u :=
  anyWriteFirst_fields u fun f j n hb hj hn => h.fields f j n (fldKey_ne_blk f INTG_SUM_WORDS j i n 0
    (by rcases hb with h | h <;> rw [h] <;> decide) hj hi hn (by decide))

theorem pass_clean (s : State) (i : Nat) (u : MemUnit) (l : List Nat) (hi : i < 256) (hsyn : s.syn = []) (hw : ∀ u, anyWriteFirst s u = false) :
    PassKept s ((each l fun off => scrubWord i u off).run s) i := by
  suffices h : ∀ t, PassKept s t i → PassKept s ((each l fun off => scrubWord i u off).run t) i from h s ⟨rfl, rfl, rfl, fun _ _ _ _ => rfl⟩
  induction l with
  | nil => exact fun t ht => ht
  | cons x l ih =>
    intro t ht
    rw [run_each_cons]
    refine ih _ ?_
    rcases scrubWord_clean t i u x (ht.syn.trans hsyn) (fun v => (ht.anyWriteFirst hi v).trans (hw v)) with h | h
    · rw [h]; exact ht
    · rw [h]
      exact ⟨ht.mem, ht.syn, ht.written, fun f j n hne => (fv_setF_other _ _ _ _ _ _ _ _ (by decide) (Or.inl hne)).trans (ht.fields f j n hne)⟩

/-- A pass over its memory's words, or over a memory whose bytes the model does not hold. -/
def passBody (s : State) (i : Nat) : Act :=
  match muOf i (fv s INTG_SCRUB_TGT i) with
  | some u => each (List.range (fv s INTG_SCRUB_LEN i / 8)) fun k => scrubWord i u (fv s INTG_SCRUB_BASE i % 2 ^ 36 + 8 * k)
  | none => setF INTG_SUM_WORDS (fv s INTG_SCRUB_LEN i / 8) i

theorem scrubDone_run (s : State) (i : Nat) (h : fb s INTG_SCRUB_BUSY i = true) : (scrubDone i).run s =
    (scrubEnd i).run ((setF INTG_SUM (fv ((passBody s i).run s) INTG_REMAP_USED i - fv s INTG_REMAP_USED i) i 3).run ((passBody s i).run s)) := by
  rw [scrubDone, run_look, if_neg (by rw [h]; decide)]
  dsimp only
  rw [run_acts_cons, run_acts_cons, run_acts_cons, runs_nil]
  rfl

theorem passBody_within (s : State) (i : Nat) (hi : i < 256) : (passBody s i).Within passParts (noteKeys 0x80) := by
  unfold passBody
  split
  · rename_i u hu
    exact (only_each_iff _ _ _).2 fun k _ => scrubWord_within i u _ hi (muOf_ok i _ u hi hu)
  · exact (within_setF _ _ _ _).2 (noteKeys_fld _ _ _ _ rfl hi (by decide) (by decide))

theorem passBody_clean (s : State) (i : Nat) (hi : i < 256) (hsyn : s.syn = []) (hw : ∀ u, anyWriteFirst s u = false) :
    PassKept s ((passBody s i).run s) i := by
  unfold passBody
  split
  · rename_i u _
    have heach : (each (List.range (fv s INTG_SCRUB_LEN i / 8)) fun k => scrubWord i u (fv s INTG_SCRUB_BASE i % 2 ^ 36 + 8 * k)) =
        each ((List.range (fv s INTG_SCRUB_LEN i / 8)).map fun k => fv s INTG_SCRUB_BASE i % 2 ^ 36 + 8 * k) fun off => scrubWord i u off := by
      rw [each, each, List.map_map]; rfl
    rw [heach]
    exact pass_clean s i u _ hi hsyn hw
  · exact ⟨rfl, rfl, rfl, fun f j n hne => fv_setF_other _ _ _ _ _ _ _ _ (by decide) (Or.inl hne)⟩

theorem scrubEnd_event (s : State) (i : Nat) (h : fb s INTG_SCRUB_EVT i = true) : pending ((scrubEnd i).run s) (intgPage i) 22 := by
  rw [scrubEnd, run_look, run_acts_cons, run_acts_cons, run_acts_cons, runs_nil, run_onlyIf_of_true _ _ h]
  exact pending_raiseEvt _ _ 22 _ (by decide) (by decide)

theorem scrubDone_state (s : State) (i : Nat) (hi : i < 256) (h : fb s INTG_SCRUB_BUSY i = true) :
    (fun t => fb t INTG_SCRUB_BUSY i = false ∧ (fb s INTG_SCRUB_EVT i = true → pending t (intgPage i) 22) ∧
      (s.syn = [] → (∀ u, anyWriteFirst s u = false) → memKept s t ∧ ∀ k, k < 3 → fv t INTG_SUM i k = fv s INTG_SUM i k)) ((scrubDone i).run s) := by
  dsimp only
  rw [scrubDone_run s i h]
  refine ⟨scrubEnd_busy _ i hi, fun hevt => scrubEnd_event _ i ?_, fun hsyn hw => ?_⟩
  · rw [fb, fv_setF_page _ INTG_SUM INTG_SCRUB_EVT _ _ _ _ rfl (by decide) (Or.inl (by decide)),
      (passBody_within s i hi).fv s _ _ _ (not_noteKeys _ _ _ _ rfl hi (by decide) (by decide) (by decide))]
    exact hevt
  · obtain ⟨hm, hs, hwr, hf⟩ := passBody_clean s i hi hsyn hw
    generalize (passBody s i).run s = x at hm hs hwr hf ⊢
    have hend := scrubEnd_within i
    refine ⟨memKept_of_eq ((hend.same .mem (by decide) _).trans hm) ((hend.same .syn (by decide) _).trans hs)
      ((hend.same .written (by decide) _).trans hwr), fun k hk => ?_⟩
    rw [fv_scrubEnd_other _ i k _ hi rfl (by simp [INTG_SUM]; omega) (by simp [INTG_SUM]; omega) (Or.inl (by simp [INTG_SUM]; omega)),
      fv_setF_page _ INTG_SUM INTG_SUM _ _ _ _ rfl (by decide) (Or.inl (by simp [INTG_SUM]; omega)),
      hf INTG_SUM i k (fldKey_ne_off INTG_SUM INTG_SUM_WORDS i k 0 rfl (by simp [INTG_SUM, INTG_SUM_WORDS]; omega))]

/-! ### PATROL_SCRUB -/

/-- The one word of a memory that is in error, and correctable. -/
structure OneCorr (s : State) (n w c b : Nat) : Prop where
  site : n < 12
  aligned : w % 8 = 0
  found : classify false c = .corr (some b)
  syn : ∀ j, synAt s j = if j = muBase (.hbm n) + w then c else 0

theorem corr_bit_lt (c b : Nat) (h : classify false c = .corr (some b)) : b < 64 := by
  unfold classify at h
  split at h
  · cases h
  · split at h
    · cases h
    · split at h
      · rename_i i hi
        obtain ⟨hlt, -⟩ := List.findIdx?_eq_some_iff_findIdx_eq.1 hi
        obtain rfl : i = b := by injection h with h; injection h
        exact hlt
      · split at h <;> cases h

theorem corr_syn_pos (c b : Nat) (h : classify false c = .corr (some b)) : c ≠ 0 := by
  rintro rfl
  cases h

/-- The word as it is once corrected. -/
def correctedWord (n w c : Nat) (s : State) : State :=
  (noteCE (.hbm n) w c).run ((upd (.syn (muBase (.hbm n) + w) [0])).run ((upd (.mem (muBase (.hbm n) + w) (leBytes 8 (deliverWord s (muBase (.hbm n) + w))))).run s))

theorem touchWord_corr (s : State) (n w c b : Nat) (h : OneCorr s n w c b) : (touchWord (.hbm n) w).run s = correctedWord n w c s := by
  have hc : synAt s (muBase (.hbm n) + w) = c := by rw [h.syn, if_pos rfl]
  have hfound : foundWord s (.hbm n) w = (.corr (some b), c) := by
    rw [foundWord]
    dsimp only
    rw [if_neg (show ¬ muBytewise (.hbm n) = true from Bool.false_ne_true), hc, h.found]
  rw [touchWord, run_look, hfound]
  dsimp only
  rw [if_neg (show ¬ muBytewise (.hbm n) = true from Bool.false_ne_true), run_acts_cons, run_acts_cons, run_acts_cons, runs_nil]
  rfl

theorem rawWord_put (s : State) (m : List Host.Cell) (k v : Nat) (h : s.mem = mapPut memDefault m k (leBytes 8 v)) : rawWord s k = v % 2 ^ 64 := by
  have hr := mapRead_mapPut_self memDefault m k 0 8 (leBytes 8 v) (by rw [length_leBytes])
  rw [rawWord, h]
  rw [Nat.add_zero, List.drop_zero, List.take_of_length_le (by rw [length_leBytes])] at hr
  rw [hr, leNat_leBytes]
  rfl

theorem rawWord_lt (s : State) (k : Nat) : rawWord s k < 2 ^ 64 := by
  have h := leNat_lt (mapRead memDefault s.mem k 8)
  rwa [show (mapRead memDefault s.mem k 8).length = 8 by simp [mapRead]] at h

theorem synAt_put (s : State) (m : SMap Nat) (k v j : Nat) (h : s.syn = mapPut synDefault m k [v]) :
    synAt s j = if j = k then v else mapGet synDefault m j := by
  rw [synAt, h, mapGet_mapPut]
  by_cases hj : j = k
  · subst hj; simp
  · rw [if_neg hj, if_neg (by simp; omega)]

theorem memOutside_put (s t : State) (k n : Nat) (l : List Byte) (hl : l.length = n) (h : t.mem = mapPut memDefault s.mem k l) : memOutside s t [(k, n)] := by
  intro j hj
  have := hj _ (List.mem_singleton.2 rfl)
  rw [h, mapGet_mapPut, if_neg (by dsimp only at this; omega)]

theorem pending_remap (u : MemUnit) (off : Nat) (q : PageRef) (j : Nat) : (remap u off).Stable fun s => pending s q j := by
  refine stable_look fun s => stable_ite (fun _ h => h) ?_
  split
  · rename_i r hr
    have hr' : r < 32 := List.mem_range.1 (List.mem_of_find?_eq_some hr)
    exact stable_cons (pending_setF _ _ _ _ (by simp [INTG_REMAP_VALID]; omega) q j) (stable_cons (pending_setF _ _ _ _ (by simp [INTG_REMAP_ADDR]; omega) q j)
      (stable_cons (pending_setF _ _ _ _ (by decide) q j) (stable_cons (pending_of_noRegs q j (ps := [.nv]) (by simp [Upd.within]))
        (stable_cons (pending_logEntry q j _ _ _ _ _) (stable_cons (pending_event _ _ (by decide) q j) stable_nil)))))
  · exact stable_cons (pending_incF _ _ _ _ (by decide) q j) (stable_cons (pending_logEntry q j _ _ _ _ _) (stable_cons (pending_event _ _ (by decide) q j)
      (stable_cons (stable_cons (pending_incF _ _ _ _ (by decide) q j) (stable_cons (pending_event _ _ (by decide) q j) stable_nil)) stable_nil)))

theorem pending_candidate (u : MemUnit) (off : Nat) (q : PageRef) (j : Nat) : (candidate u off).Stable fun s => pending s q j := by
  refine stable_look fun s => stable_ite (fun _ h => h) (stable_ite (pending_remap u off q j) ?_)
  exact pending_of_noRegs q j (ps := [.cands]) (by simp [Upd.within])

/-- A corrected word, where it stands, and its accounting. -/
theorem correctedWord_state (s : State) (n w c b : Nat) (h : OneCorr s n w c b) :
    (fun t => noSyn t ∧ rawWord t (muBase (.hbm n) + w) = rawWord s (muBase (.hbm n) + w) ^^^ 2 ^ b ∧
      memOutside s t [(muBase (.hbm n) + w, 8)] ∧ counted s t INTG_ICNT (176 + n) 0 1 ∧ pending t (intgPage (176 + n)) 16 ∧
      fv t INTG_PATROL_PASSES (176 + n) = fv s INTG_PATROL_PASSES (176 + n)) (correctedWord n w c s) := by
  have hn := h.site
  have hok : (MemUnit.hbm n).ok := hn
  have hi : 176 + n < 256 := by omega
  have hdeliver : deliverWord s (muBase (.hbm n) + w) = rawWord s (muBase (.hbm n) + w) ^^^ 2 ^ b := by
    rw [deliverWord, h.syn, if_pos rfl, h.found]
  have hxor : rawWord s (muBase (.hbm n) + w) ^^^ 2 ^ b < 2 ^ 64 :=
    Nat.xor_lt_two_pow (rawWord_lt s _) (Nat.pow_lt_pow_right (by decide) (corr_bit_lt c b h.found))
  have hsyn : (correctedWord n w c s).syn = mapPut synDefault s.syn (muBase (.hbm n) + w) [0] :=
    (noteCE_notes (.hbm n) w c hok).same .syn (by decide) _
  have hmem : (correctedWord n w c s).mem = mapPut memDefault s.mem (muBase (.hbm n) + w) (leBytes 8 (deliverWord s (muBase (.hbm n) + w))) :=
    (noteCE_notes (.hbm n) w c hok).same .mem (by decide) _
  dsimp only
  refine ⟨fun j => ?_, ?_, memOutside_put s _ _ 8 _ (length_leBytes 8 _) hmem, ?_, ?_, ?_⟩
  · rw [synAt_put _ _ _ _ _ hsyn]
    split
    · rfl
    · rename_i hj
      exact (h.syn j).trans (if_neg hj)
  · rw [rawWord_put _ _ _ _ hmem, hdeliver, Nat.mod_eq_of_lt hxor]
  · have hrest := noteCE_rest 0xAC (by decide) (.hbm n) w c hok
    rw [counted, correctedWord, noteCE, run_acts_cons, hrest.fv _ _ _ _ (not_noteKeys 0xAC INTG_ICNT (176 + n) 0 rfl hi (by decide) (by decide) (by decide))]
    exact fv_incF_word _ INTG_ICNT _ _ rfl rfl
  · rw [correctedWord, noteCE, run_acts_cons, run_acts_cons, run_acts_cons, run_acts_cons, runs_nil]
    exact pending_candidate _ _ _ _ _ (pending_raiseEvt _ _ 16 _ (by decide) (by decide))
  · exact (noteCE_notes (.hbm n) w c hok).fv _ _ _ _ (not_noteKeys _ INTG_PATROL_PASSES (176 + n) 0 rfl hi (by decide) (by decide) (by decide))

/-- Programs of which one alone changes the state, and that once. -/
theorem run_each_one (l : List Nat) (f : Nat → Act) (w : Nat) (s t : State) (hw : w ∈ l) (hother : ∀ x ∈ l, x ≠ w → (f x).run s = s)
    (hone : (f w).run s = t) (hthen : ∀ x ∈ l, (f x).run t = t) : (each l f).run s = t := by
  induction l with
  | nil => cases hw
  | cons x l ih =>
    rw [run_each_cons]
    have hthen' := run_each_same l f t fun y hy => hthen y (List.mem_cons_of_mem _ hy)
    by_cases hx : x = w
    · rw [hx, hone, hthen']
    · rw [hother x List.mem_cons_self hx]
      rcases List.mem_cons.1 hw with h | h
      · exact absurd h.symm hx
      · exact ih h (fun y hy => hother y (List.mem_cons_of_mem _ hy)) fun y hy => hthen y (List.mem_cons_of_mem _ hy)

/-- A word of a patrol's piece. -/
def patrolWord (u : MemUnit) (w : Nat) : Act := look fun t => onlyIf (!scrubSkips t u w true) (touchWord u w)

theorem patrolWord_clean (s : State) (u : MemUnit) (w : Nat) (h : ∀ i, i < 8 → synAt s (muBase u + w + i) = 0) : (patrolWord u w).run s = s := by
  rw [patrolWord, run_look]
  by_cases hs : scrubSkips s u w true = true
  · rw [run_onlyIf_of_false _ _ (by rw [hs]; rfl)]
  · rw [run_onlyIf_of_true _ _ (by simpa using hs), touchWord_clean s u w h]

theorem patrol_run (s : State) (i sel off : Nat) (last : Bool) (u : MemUnit) (hen : fb s INTG_PATROL_EN i = true) (hact : fb s BKGD_ACT_EN = true)
    (hbusy : fb s INTG_SCRUB_BUSY i = false) (hsel : selPresent s i sel = true) (hu : muOf i sel = some u) (ho : off % 4096 = 0)
    (hsize : off + 4096 ≤ muSize u) : (patrol i sel off last).run s =
      (onlyIf last (setF INTG_PATROL_PASSES ((fv s INTG_PATROL_PASSES i + 1) % 2 ^ 32) i)).run ((each (wordsOf u off 4096) (patrolWord u)).run s) := by
  rw [patrol, run_look, if_neg (by rw [hen, hact, hbusy, hsel]; decide), hu]
  dsimp only
  have hpiece : (decide (off + patrolPiece ≤ muSize u) && off % patrolPiece == 0) = true := by simp [patrolPiece, ho, hsize]
  rw [run_acts_cons, run_acts_cons, runs_nil, hpiece, runs_true]
  rfl

theorem mem_wordsOf_piece (n off w : Nat) (ho : off % 4096 = 0) : w ∈ wordsOf (.hbm n) off 4096 ↔ off ≤ w ∧ w < off + 4096 ∧ w % 8 = 0 := by
  have hcount : (roundUp (off + 4096) 32 - off / 32 * 32) / 8 = 512 := by
    unfold roundUp ceilDiv; omega
  rw [wordsOf, if_neg (by decide)]
  dsimp only
  rw [hcount, List.mem_map]
  constructor
  · rintro ⟨i, hi, rfl⟩
    have := List.mem_range.1 hi
    omega
  · rintro ⟨h1, h2, h3⟩
    exact ⟨(w - off) / 8, List.mem_range.2 (by omega), by omega⟩

theorem patrolScrub_row (s : State) (n off w c b : Nat) (last : Bool) (hn : n < 12) (hen : fb s INTG_PATROL_EN (176 + n) = true)
    (hact : fb s BKGD_ACT_EN = true) (hbusy : fb s INTG_SCRUB_BUSY (176 + n) = false) (hsel : selPresent s (176 + n) 0 = true) (ho : off % 4096 = 0)
    (hsize : off + 4096 ≤ muSize (.hbm n)) (h1 : off ≤ w) (h2 : w < off + 4096) (h3 : w % 8 = 0) (hc : classify false c = .corr (some b))
    (hsyn : ∀ j, synAt s j = if j = muBase (.hbm n) + w then c else 0) (hwf : writeFirst s (.hbm n) w = false)
    (hwr : isWritten s (.hbm n) w = true) (hown : mapGet writtenDefault s.written (muBase (.hbm n) + w) = false) :
    ∃ t, exec (.patrolScrub (176 + n) 0 off last) s = .next t ∧ (∀ j, synAt t j = 0) ∧
      rawWord t (muBase (.hbm n) + w) = rawWord s (muBase (.hbm n) + w) ^^^ 2 ^ b ∧ memOutside s t [(muBase (.hbm n) + w, 8)] ∧
      counted s t INTG_ICNT (176 + n) 0 1 ∧ pending t (intgPage (176 + n)) 16 ∧
      fv t INTG_PATROL_PASSES (176 + n) = (fv s INTG_PATROL_PASSES (176 + n) + b2n last) % 2 ^ 32 := by
  have hone : OneCorr s n w c b := ⟨hn, h3, hc, hsyn⟩
  have hmu : muOf (176 + n) 0 = some (.hbm n) := by
    unfold muOf
    rw [if_neg (by omega), if_pos (by omega), Nat.add_sub_cancel_left]
    rfl
  have hbase : (muBase (.hbm n) + w) / 8 * 8 = muBase (.hbm n) + w := by simp only [muBase]; omega
  have hblock : mapGet writtenDefault s.written (blockKey (.hbm n) w) = true := by
    rw [isWritten, if_neg (show ¬ muBytewise (.hbm n) = true from Bool.false_ne_true), hbase, hown, Bool.or_false] at hwr
    exact hwr
  obtain ⟨g1, g2, g3, g4, g5, g6⟩ := correctedWord_state s n w c b hone
  have hword : (patrolWord (.hbm n) w).run s = correctedWord n w c s := by
    have hskip : scrubSkips s (.hbm n) w true = false := by rw [scrubSkips, hwf, hblock]; rfl
    rw [patrolWord, run_look, run_onlyIf_of_true _ _ (by rw [hskip]; rfl), touchWord_corr s n w c b hone]
  have heach : (each (wordsOf (.hbm n) off 4096) (patrolWord (.hbm n))).run s = correctedWord n w c s := by
    refine run_each_one _ _ w s _ ((mem_wordsOf_piece n off w ho).2 ⟨h1, h2, h3⟩) (fun x hx hne => patrolWord_clean s _ x fun i hi => ?_) hword
      fun x _ => patrolWord_clean _ _ x fun i _ => g1 _
    obtain ⟨-, -, hx8⟩ := (mem_wordsOf_piece n off x ho).1 hx
    exact (hsyn _).trans (if_neg (by omega))
  refine ⟨_, congrArg Host.Outcome.next (patrol_run s _ 0 off last _ hen hact hbusy hsel hmu ho hsize), ?_⟩
  rw [heach]
  generalize correctedWord n w c s = t at g1 g2 g3 g4 g5 g6 ⊢
  cases last with
  | false =>
    rw [run_onlyIf_of_false _ _ rfl]
    exact ⟨g1, g2, g3, g4, g5, by rw [g6]; exact (Nat.mod_eq_of_lt (fv_lt _ _ _ _)).symm⟩
  | true =>
    rw [run_onlyIf_of_true _ _ rfl]
    refine ⟨g1, g2, g3, ?_, ?_, ?_⟩
    · rw [counted, fv_setF_page _ INTG_PATROL_PASSES INTG_ICNT _ _ _ _ rfl (by decide) (Or.inl (by decide))]
      exact g4
    · exact pending_setF _ _ _ _ (by decide) _ _ _ g5
    · rw [fv_setF_self _ _ _ _ _ ⟨by decide, by decide⟩]
      exact Nat.mod_eq_of_lt (Nat.mod_lt _ (by decide))

/-! ### A write that takes an armed fault -/

theorem writeMarks_calm (s v : State) (u : MemUnit) (off n : Nat) (ms : List Bool) (hsyn : s.syn = []) (hms : ms.contains true = false) :
    ∃ w, (writeMarks s u off n ms).run v = { v with written := w } := by
  have hclean : s.syn.isEmpty = true := by rw [hsyn]; rfl
  rw [writeMarks, hms, run_acts_cons, if_pos (by rw [hclean]; rfl), runs_done, run_acts_cons, run_acts_cons, runs_nil, runs_false]
  refine (writtenBits_only (P := fun u => ∃ k l, u = .written k l) (fun k l => ⟨k, l, rfl⟩) s u off n).run_keeps
    (fun x => ∃ w, x = { v with written := w }) ?_ _ ⟨v.written, rfl⟩
  rintro _ x ⟨k, l, rfl⟩ ⟨w, rfl⟩
  exact ⟨_, rfl⟩

theorem applyFlip_hbm_run (n off : Nat) (v : State) : (applyFlip (.hbm n) off).run v =
    (acts [setF INTG_FLIP_ARMED 0 (176 + n), logEntry (176 + n) 7 0 (n * 2 ^ 36 + off / 8 * 8) 0, raiseEvt (intgPage (176 + n)) (2 ^ 23)]).run
      ((upd (.syn ((muBase (.hbm n) + off) / 8 * 8) [checkOf cols72 (fv v INTG_FLIP_LO (176 + n)) ^^^ fv v INTG_FLIP_HI (176 + n)])).run
        ((upd (.mem ((muBase (.hbm n) + off) / 8 * 8) (leBytes 8 (rawWord v ((muBase (.hbm n) + off) / 8 * 8) ^^^ fv v INTG_FLIP_LO (176 + n))))).run v)) := by
  rw [applyFlip, run_look]
  simp only [run_acts_cons, runs_nil, muBytewise, Bool.false_eq_true, if_false]
  rfl

/-- What an armed fault leaves of the word it takes. -/
theorem flip_state (s v : State) (n off : Nat) (data : List Byte) (hn : n < 12) (ho : off % 32 = 0) (hlen : data.length = 32) (hsyn : v.syn = [])
    (hmem : v.mem = mapPut memDefault s.mem (muBase (.hbm n) + off) data) :
    (fun t => fb t INTG_FLIP_ARMED (176 + n) = false ∧ pending t (intgPage (176 + n)) 23 ∧
      rawWord t (muBase (.hbm n) + off) = leNat (data.take 8) ^^^ fv v INTG_FLIP_LO (176 + n) ∧
      synAt t (muBase (.hbm n) + off) = checkOf cols72 (fv v INTG_FLIP_LO (176 + n)) ^^^ fv v INTG_FLIP_HI (176 + n) ∧
      ∀ j, j ≠ muBase (.hbm n) + off → synAt t j = 0) ((applyFlip (.hbm n) off).run v) := by
  have hi : 176 + n < 256 := by omega
  have hbase : (muBase (.hbm n) + off) / 8 * 8 = muBase (.hbm n) + off := by simp only [muBase]; omega
  have hraw : rawWord v (muBase (.hbm n) + off) = leNat (data.take 8) := by
    have hr := mapRead_mapPut_self memDefault s.mem (muBase (.hbm n) + off) 0 8 data (by omega)
    rw [Nat.add_zero, List.drop_zero] at hr
    rw [rawWord, hmem, hr]
  have hlo : fv v INTG_FLIP_LO (176 + n) < 2 ^ 64 := fv_lt _ _ _ _
  have hrest : (acts [logEntry (176 + n) 7 0 (n * 2 ^ 36 + off / 8 * 8) 0, raiseEvt (intgPage (176 + n)) (2 ^ 23)]).Within noteParts (noteKeys 0xAC) := by
    simp only [only_acts_cons, only_acts_nil, and_true]
    exact ⟨logEntry_notes _ (by decide) _ _ _ _ _ hi, raiseEvt_notes _ _ _⟩
  have hxor : leNat (data.take 8) ^^^ fv v INTG_FLIP_LO (176 + n) < 2 ^ 64 := Nat.xor_lt_two_pow (hraw ▸ rawWord_lt v _) hlo
  dsimp only
  rw [applyFlip_hbm_run, hbase, hraw]
  generalize hx : (upd (.syn (muBase (.hbm n) + off) [checkOf cols72 (fv v INTG_FLIP_LO (176 + n)) ^^^ fv v INTG_FLIP_HI (176 + n)])).run
    ((upd (.mem (muBase (.hbm n) + off) (leBytes 8 (leNat (data.take 8) ^^^ fv v INTG_FLIP_LO (176 + n))))).run v) = x
  have hxm : x.mem = mapPut memDefault v.mem (muBase (.hbm n) + off) (leBytes 8 (leNat (data.take 8) ^^^ fv v INTG_FLIP_LO (176 + n))) := by
    rw [← hx]; rfl
  have hxs : x.syn = mapPut synDefault v.syn (muBase (.hbm n) + off) [checkOf cols72 (fv v INTG_FLIP_LO (176 + n)) ^^^ fv v INTG_FLIP_HI (176 + n)] := by
    rw [← hx]; rfl
  rw [run_acts_cons]
  generalize hy : (setF INTG_FLIP_ARMED 0 (176 + n)).run x = y
  have hym : y.mem = x.mem := by rw [← hy]; rfl
  have hys : y.syn = x.syn := by rw [← hy]; rfl
  have hmem' := (hrest.same .mem (by decide) y).trans (hym.trans hxm)
  have hsyn' := (hrest.same .syn (by decide) y).trans (hys.trans hxs)
  refine ⟨?_, ?_, ?_, ?_, fun j hj => ?_⟩
  · rw [fb, hrest.fv _ _ _ _ (not_noteKeys _ INTG_FLIP_ARMED (176 + n) 0 rfl hi (by decide) (by decide) (by decide)), ← hy,
      fv_setF_self _ _ _ _ _ ⟨by decide, by decide⟩]
    rfl
  · rw [run_acts_cons, run_acts_cons, runs_nil]
    exact pending_raiseEvt _ _ 23 _ (by decide) (by decide)
  · rw [rawWord_put _ v.mem _ _ hmem', Nat.mod_eq_of_lt hxor]
  · rw [synAt_put _ v.syn _ _ _ hsyn', if_pos rfl]
  · rw [synAt_put _ v.syn _ _ _ hsyn', if_neg hj, hsyn]
    rfl

/-- An unmarked write of a memory that an armed fault takes: its bytes, then the fault. -/
theorem memWrite_flips (s : State) (u : MemUnit) (off : Nat) (bs : List Byte) (ms : List Bool) (hsyn : s.syn = []) (hflip : flipArmed s u = true)
    (hms : ms.contains true = false) (hbs : bs ≠ []) :
    ∃ w, (memWrite u off bs ms).run s = (applyFlip u off).run { s with mem := mapPut memDefault s.mem (muBase u + off) bs, written := w } := by
  obtain ⟨w, hw⟩ := writeMarks_calm s ((Upd.mem (muBase u + off) bs).apply s) u off bs.length ms hsyn hms
  have hhead : ms.headD false = false := by
    cases ms with
    | nil => rfl
    | cons x l =>
      cases x
      · rfl
      · simp at hms
  refine ⟨w, ?_⟩
  rw [run_memWrite, if_neg (by simpa using hbs), hflip, hhead, hw]
  rfl

theorem withMarks_none (data : List Byte) : (withMarks data []).map Prod.snd = List.replicate data.length false := by
  refine List.eq_replicate_iff.2 ⟨by simp [withMarks], fun b hb => ?_⟩
  simp only [withMarks, List.map_map, List.mem_map] at hb
  obtain ⟨i, -, rfl⟩ := hb
  rfl

theorem withMarks_length (data : List Byte) (ms : List Bool) : (withMarks data ms).length = data.length := by simp [withMarks]

/-- An accepted write of memory by a requester. -/
theorem memoryWrite_run (s : State) (r : Requester) (a off : Nat) (data : List Byte) (ms : List Bool) (u : MemUnit) (hplace : placeOf s a = .mem u off)
    (hheld : rangeHeld s a data.length = false) (hok : firstErr (writeErrs s r a data.length) = .ok) :
    (memoryWrite r a (withMarks data ms)).run s =
      (memWrite u off data ((withMarks data ms).map Prod.snd)).run ((emit (.regCode r a 0)).run s) := by
  have hplace' : placeOf ((emit (.regCode r a 0)).run s) a = .mem u off := hplace
  rw [memoryWrite, run_look, withMarks_length]
  dsimp only
  rw [hok, if_neg (by rw [hheld]; decide), run_acts_cons, run_acts_cons, runs_nil, hplace, run_onlyIf_of_true _ _ (show (ErrCode.ok == ErrCode.ok) = true from rfl)]
  dsimp only
  have he : errNum .ok = 0 := rfl
  rw [he, writeLocal, run_look, hplace', withMarks_bytes]

theorem memoryWrite_flip (s : State) (r : Requester) (n off : Nat) (data : List Byte) (hn : n < 12) (hlen : data.length = 32) (ho : off % 32 = 0)
    (hplace : placeOf s (muBase (.hbm n) + off) = .mem (.hbm n) off) (hheld : rangeHeld s (muBase (.hbm n) + off) 32 = false)
    (hok : firstErr (writeErrs s r (muBase (.hbm n) + off) 32) = .ok) (hflip : flipArmed s (.hbm n) = true) (hsyn : s.syn = []) :
    ∃ t, exec (.memoryWrite r (muBase (.hbm n) + off) data []) s = .next t ∧ fb t INTG_FLIP_ARMED (176 + n) = false ∧
      pending t (intgPage (176 + n)) 23 ∧ rawWord t (muBase (.hbm n) + off) = leNat (data.take 8) ^^^ fv s INTG_FLIP_LO (176 + n) ∧
      synAt t (muBase (.hbm n) + off) = checkOf cols72 (fv s INTG_FLIP_LO (176 + n)) ^^^ fv s INTG_FLIP_HI (176 + n) ∧
      ∀ j, j ≠ muBase (.hbm n) + off → synAt t j = 0 := by
  have hrun := memoryWrite_run s r (muBase (.hbm n) + off) off data [] (.hbm n) hplace (by rw [hlen]; exact hheld) (by rw [hlen]; exact hok)
  obtain ⟨w, hw⟩ := memWrite_flips ((emit (.regCode r (muBase (.hbm n) + off) 0)).run s) (.hbm n) off data ((withMarks data []).map Prod.snd) hsyn hflip
    (by rw [withMarks_none]; simp) (by rintro rfl; cases hlen)
  refine ⟨_, congrArg Host.Outcome.next (hrun.trans hw), ?_⟩
  exact flip_state ((emit (.regCode r (muBase (.hbm n) + off) 0)).run s) _ n off data hn ho hlen hsyn rfl

/-- Settles O45, row by row. -/
theorem integrityCommandsCorrectAndReport : Obligations.IntegrityCommandsCorrectAndReport := by
  unfold Obligations.IntegrityCommandsCorrectAndReport
  refine ⟨fun s n off w c b last hn hen hact hbusy hsel ho hsize h1 h2 h3 hc hsyn hwf hwr hown =>
      patrolScrub_row s n off w c b last hn hen hact hbusy hsel ho hsize h1 h2 h3 hc hsyn hwf hwr hown,
    fun s r i v hi hv hhere hbit h => scrubGo_row s r i v hi hv hhere hbit h, fun s i hi h => ⟨_, rfl, scrubDone_state s i hi h⟩,
    fun s r i v hi hv hhere hbit h => flipArm_row s r i v hi hv hhere hbit h,
    fun s r n off data hn hlen ho hplace hheld hok hflip hsyn => memoryWrite_flip s r n off data hn hlen ho hplace hheld hok hflip hsyn,
    fun s r i v hi hv hhere hbit h => pstsClr_row s r i v hi hv hhere hbit h⟩

end Sys2Proof.Machine
end

section
/-! PROOF. Words of a register array, and the measurement slots of the colophon (R412). -/

namespace Sys2Proof.Machine

/-! ### Bytes as words -/

theorem leBytes_leNat (l : List Byte) : leBytes l.length (leNat l) = l := by
  induction l with
  | nil => rfl
  | cons b bs ih =>
    have hdiv : (b.toNat + 256 * leNat bs) / 256 = leNat bs := by have := b.isLt; omega
    have hb : BitVec.ofNat 8 (b.toNat + 256 * leNat bs) = b := by
      apply BitVec.eq_of_toNat_eq; have := b.isLt; simp only [BitVec.toNat_ofNat]; omega
    change BitVec.ofNat 8 (b.toNat + 256 * leNat bs) :: leBytes bs.length ((b.toNat + 256 * leNat bs) / 256) = b :: bs
    rw [hdiv, ih, hb]

/-- Consecutive pieces of a list are its front. -/
theorem flatMap_pieces (bs : List Byte) (w n : Nat) : (List.range n).flatMap (fun i => (bs.drop (w * i)).take w) = bs.take (w * n) := by
  induction n with
  | zero => simp
  | succ n ih => rw [List.range_succ, List.flatMap_append, ih, Nat.mul_succ, List.take_add]; simp

/-! ### Register arrays -/

/-- Words of a register array as bytes. -/
def arrayBytes (s : State) (f : Fld) (n0 w n : Nat) : List Byte := (List.range n).flatMap fun i => leBytes w (fv s f 0 (n0 + i))

theorem setWords_within (f : Fld) (n0 w : Nat) (bs : List Byte) :
    (setWords f n0 w bs).Within [] fun k => ∃ i < bs.length / w, k = fldKey f 0 (n0 + i) := by
  refine (only_each_iff _ _ _).2 fun i hi => ?_
  exact (within_setF _ _ _ _).2 ⟨i, List.mem_range.1 hi, rfl⟩

theorem run_each_append {α : Type} (l m : List α) (f : α → Act) (s : State) : (each (l ++ m) f).run s = (each m f).run ((each l f).run s) := by
  induction l generalizing s with
  | nil => rfl
  | cons x l ih => rw [List.cons_append, run_each_cons, run_each_cons, ih]

theorem each_setF_get (f : Fld) (v : Nat → Nat) (n0 : Nat) (hf : f.ok) (hs : 0 < f.stride) (m : Nat) (s : State) (i : Nat) (hi : i < m) :
    fv ((each (List.range m) fun i => setF f (v i) 0 (n0 + i)).run s) f 0 (n0 + i) = v i % 2 ^ (f.hi + 1 - f.lo) := by
  induction m with
  | zero => omega
  | succ m ih =>
    rw [List.range_succ, run_each_append, run_each_cons, runs_each_nil]
    by_cases h : i = m
    · rw [h, fv_setF_self _ f _ 0 _ hf]
    · have hne : fldKey f 0 (n0 + i) ≠ fldKey f 0 (n0 + m) := by
        simp only [fldKey, regKey]
        have : (n0 + i) * f.stride ≠ (n0 + m) * f.stride := fun h' => by
          have := Nat.eq_of_mul_eq_mul_right hs h'; omega
        omega
      rw [fv_setF_other _ f f _ 0 _ 0 _ hf.2 (Or.inl hne)]
      exact ih (by omega)

/-- An array written with bytes holds them. -/
theorem setWords_words (f : Fld) (n0 w : Nat) (bs : List Byte) (s : State) (hlo : f.lo = 0) (hhi : f.hi + 1 = 8 * w) (h64 : f.hi < 64)
    (hs : 0 < f.stride) (n : Nat) (hn : bs.length = w * n) : arrayBytes ((setWords f n0 w bs).run s) f n0 w n = bs := by
  have hw : 0 < w := by omega
  have hlen : bs.length / w = n := by rw [hn, Nat.mul_div_cancel_left n hw]
  have hword : ∀ i ∈ List.range n, leBytes w (fv ((setWords f n0 w bs).run s) f 0 (n0 + i)) = (bs.drop (w * i)).take w := by
    intro i hi
    have hi' : i < n := List.mem_range.1 hi
    have hpl : ((bs.drop (w * i)).take w).length = w := by
      have : w * i + w ≤ w * n := by rw [← Nat.mul_succ]; exact Nat.mul_le_mul_left w hi'
      rw [List.length_take, List.length_drop, hn]; omega
    have hlt := leNat_lt ((bs.drop (w * i)).take w)
    rw [hpl, show (256 : Nat) = 2 ^ 8 from rfl, ← Nat.pow_mul, ← hhi] at hlt
    rw [setWords, hlen, each_setF_get f (fun i => leNat ((bs.drop (w * i)).take w)) n0 ⟨by omega, h64⟩ hs n s i hi', hlo, Nat.sub_zero, Nat.mod_eq_of_lt hlt]
    calc leBytes w (leNat ((bs.drop (w * i)).take w))
        = leBytes ((bs.drop (w * i)).take w).length (leNat ((bs.drop (w * i)).take w)) := by rw [hpl]
      _ = (bs.drop (w * i)).take w := leBytes_leNat _
  unfold arrayBytes
  rw [List.flatMap_congr hword, flatMap_pieces, ← hn, List.take_length]

/-! ### Measurement slots -/

/-- A register of a measurement slot. -/
abbrev slotKey (k key : Nat) : Prop := ∃ i < 8, key = fldKey COLO_MSLOT 0 (8 * k + i)

theorem length_sha512 (m : List Byte) : (sha512 m).length = 64 := by
  rw [sha512, beBytes, List.length_reverse, length_leBytes]

theorem extendSlot_within (k : Nat) (obj : List Byte) : (extendSlot k obj).Within [] (slotKey k) := fun s => by
  have h := setWords_within COLO_MSLOT (8 * k) 8 (sha512 (coloBytes s COLO_MSLOT (8 * k) 8 ++ sha512 obj))
  rw [length_sha512] at h
  exact h

/-- A slot that takes an object holds the hash of what it held and the object's. -/
theorem slotBytes_extendSlot (s : State) (k : Nat) (obj : List Byte) : slotBytes ((extendSlot k obj).run s) k = extended (slotBytes s k) obj :=
  setWords_words COLO_MSLOT (8 * k) 8 (sha512 (slotBytes s k ++ sha512 obj)) s rfl rfl (by decide) (by decide) 8
    (length_sha512 _)

theorem slotBytes_congr {s t : State} (k : Nat) (h : ∀ i < 8, fv t COLO_MSLOT 0 (8 * k + i) = fv s COLO_MSLOT 0 (8 * k + i)) :
    slotBytes t k = slotBytes s k :=
  List.flatMap_congr (f := fun i => leBytes 8 (fv t COLO_MSLOT 0 (8 * k + i))) (g := fun i => leBytes 8 (fv s COLO_MSLOT 0 (8 * k + i)))
    fun i hi => by rw [h i (List.mem_range.1 hi)]

theorem slotBytes_kept {ps : List Part} {ks : Nat → Prop} {a : Act} (h : a.Within ps ks) (k : Nat) (hk : ∀ key, slotKey k key → ¬ ks key)
    (s : State) : slotBytes (a.run s) k = slotBytes s k :=
  slotBytes_congr k fun i hi => h.fv s _ _ _ (hk _ ⟨i, hi, rfl⟩)

theorem slotKey_bounds {k key : Nat} (hk : k < 8) (h : slotKey k key) : key / 4096 = blkNum .colo * 256 ∧ 0x100 + 64 * k ≤ key % 4096 ∧ key % 4096 < 0x140 + 64 * k := by
  obtain ⟨i, hi, rfl⟩ := h
  simp only [fldKey, regKey, COLO_MSLOT, blkNum]
  omega

theorem not_hdrOr_slot {bs : List Blk} (hb : Blk.colo ∉ bs) {k key : Nat} (hk : k < 8) (h : slotKey k key) : ¬ hdrOr bs key := by
  obtain ⟨h1, h2, h3⟩ := slotKey_bounds hk h
  rintro (h | ⟨b, hbs, hblk⟩)
  · omega
  · have hcolo : b = .colo := blkNum_inj b .colo (by omega)
    exact hb (by rw [← hcolo]; exact hbs)

end Sys2Proof.Machine
end

section
/-! PROOF. Boot's first two stages (R407, R408): firmware is verified, measured and started, or boot halts. -/

namespace Sys2Proof.Machine

/-! ### Firmware of a stage -/

theorem run_factory (a : Act) (s : State) : (a.run s).factory = s.factory :=
  (Act.run_rel keptByAll keptByAll_refl keptByAll_apply a s).2.2.1

theorem fwLoad_congr {s t : State} (hn : t.nv = s.nv) (hf : t.factory = s.factory) (c : Nat) : fwLoad t c = fwLoad s c := by
  have hslots : fwSlots t c = fwSlots s c := by unfold fwSlots; rw [hn]
  have hver : ∀ b, fwVerifies t c b = fwVerifies s c b := fun b => by
    unfold fwVerifies fwGenuine floorOf
    rw [hn, hf]
  unfold fwLoad
  rw [hslots]
  simp only [hver]

/-- A verified image is measured, its version shown, and that it is the fallback's. -/
def fwMeasured (comp slot : Nat) (x : List Byte × Bool) : Act :=
  acts [extendSlot slot x.1, setF COLO_RUNNING (fwVersion x.1) 0 (comp - 1), onlyIf x.2 (setF COLO_FALLBACK 1)]

theorem fwStart_some {s : State} {comp slot : Nat} {x : List Byte × Bool} (h : fwLoad s comp = some x) (ok bad : Act) :
    (fwStart comp slot ok bad).run s = ok.run ((fwMeasured comp slot x).run s) := by
  simp only [fwStart, runs_look, h, fwMeasured, run_acts_cons, runs_nil]

theorem fwStart_none {s : State} {comp slot : Nat} (h : fwLoad s comp = none) (ok bad : Act) :
    (fwStart comp slot ok bad).run s = bad.run s := by
  simp only [fwStart, runs_look, h]

/-- The registers that measuring an image touches. -/
abbrev fwKeys (comp slot k : Nat) : Prop := slotKey slot k ∨ k = fldKey COLO_RUNNING 0 (comp - 1) ∨ k = fldKey COLO_FALLBACK 0 0

theorem fwMeasured_within (comp slot : Nat) (x : List Byte × Bool) : (fwMeasured comp slot x).Within [] (fwKeys comp slot) := by
  simp only [fwMeasured, only_acts_cons, only_acts_nil, only_onlyIf_iff, within_setF, and_true]
  exact ⟨(extendSlot_within slot x.1).regs fun _ h => Or.inl h, Or.inr (Or.inl rfl), fun _ => Or.inr (Or.inr rfl)⟩

theorem fwKeys_colo {comp slot k : Nat} (hc : comp < 8) (hs : slot < 8) (h : fwKeys comp slot k) :
    k / 4096 = blkNum .colo * 256 ∧ 0x40 ≤ k % 4096 := by
  rcases h with h | rfl | rfl
  · have := slotKey_bounds hs h; omega
  · simp only [fldKey, regKey, COLO_RUNNING, blkNum]; omega
  · decide

theorem not_fwKeys {comp slot : Nat} (hc : comp < 8) (hs : slot < 8) (f : Fld) (i n : Nat) (hb : f.blk ≠ .colo) (hi : i < 256)
    (ho : f.off + n * f.stride < 4096) : ¬ fwKeys comp slot (fldKey f i n) := fun h => by
  obtain ⟨h1, _⟩ := fwKeys_colo hc hs h
  obtain ⟨h2, h3⟩ := fldKey_parts f i n hi ho
  exact hb (blkNum_inj _ _ (by omega))

theorem fwMeasured_slot (s : State) (comp slot : Nat) (x : List Byte × Bool) (hs : slot < 8) :
    slotBytes ((fwMeasured comp slot x).run s) slot = extended (slotBytes s slot) x.1 := by
  have hrest : (acts [setF COLO_RUNNING (fwVersion x.1) 0 (comp - 1), onlyIf x.2 (setF COLO_FALLBACK 1)]).Within []
      fun k => k = fldKey COLO_RUNNING 0 (comp - 1) ∨ k = fldKey COLO_FALLBACK 0 0 := by
    simp only [only_acts_cons, only_acts_nil, only_onlyIf_iff, within_setF, and_true]
    exact ⟨Or.inl trivial, fun _ => Or.inr trivial⟩
  rw [fwMeasured, run_acts_cons, slotBytes_kept hrest slot ?_, slotBytes_extendSlot]
  intro key hkey
  have hb := slotKey_bounds hs hkey
  rintro (rfl | rfl)
  · simp only [fldKey, regKey, COLO_RUNNING, blkNum] at hb; omega
  · simp only [fldKey, regKey, COLO_FALLBACK, blkNum] at hb; omega

theorem fwMeasured_running (s : State) (slot : Nat) (x : List Byte × Bool) :
    fv ((fwMeasured 1 slot x).run s) COLO_RUNNING 0 0 = fwVersion x.1 := by
  have hlt : fwVersion x.1 < 2 ^ 32 := recLE_lt _ _ _
  simp (disch := decide) only [fwMeasured, run_acts_cons, runs_nil, fv_onlyIf, fv_setF_other, ite_self]
  rw [fv_setF_eq _ _ _ _ _ (by decide) (by decide)]
  exact Nat.mod_eq_of_lt hlt

theorem fwMeasured_fallback (s : State) (comp slot : Nat) (x : List Byte × Bool) (h : x.2 = true) :
    fb ((fwMeasured comp slot x).run s) COLO_FALLBACK = true := by
  rw [fwMeasured, run_acts_cons, run_acts_cons, run_acts_cons, runs_nil, run_onlyIf_of_true _ _ h, fb_setF_self _ _ _ _ _ ⟨by decide, by decide⟩]
  rfl

/-! ### A stage -/

theorem atStage_run {s : State} {n : Nat} (h : stageReady s n) (a : Act) : (atStage n a).run s = a.run s := by
  obtain ⟨hl, hh, hn⟩ := h
  rw [atStage, runs_look, run_onlyIf_of_true]
  simp [hl, hh, hn]

theorem atStage_not {s : State} {n : Nat} (h : ¬ stageReady s n) (a : Act) : (atStage n a).run s = s := by
  rw [atStage, runs_look, run_onlyIf_of_false]
  by_contra hc
  exact h (by simpa [and_assoc] using hc)

theorem updBoot_within (f : Boot → Boot) : (updBoot f).Within [.boot] fun _ => False := fun s => by
  change (upd _).Within _ _
  exact (only_upd_iff _ _).2 (show Part.boot ∈ [Part.boot] by decide)

theorem updBoot_boot (s : State) (f : Boot → Boot) : ((updBoot f).run s).boot = f s.boot := (rfl)

/-! ### Stage 1 -/

/-- What the factory fixed is shown. -/
def factoryShown (s : State) : Act := acts [
  setF COLO_SERIAL (s.factory.serial % 2 ^ 64) 0 0, setF COLO_SERIAL (s.factory.serial / 2 ^ 64) 0 1,
  setF ENET_MAC s.factory.mac, setF COLO_CERT_LEN s.factory.cert.length,
  each (hbmSites s.build) fun n =>
    setF INTG_PPR_LEFT (s.factory.pprLeft - countB (fun x => x == 176 + n) s.nv.hard) (176 + n)]

/-- The registers that showing the factory's values touches. -/
abbrev factoryKeys (k : Nat) : Prop :=
  k = fldKey COLO_SERIAL 0 0 ∨ k = fldKey COLO_SERIAL 0 1 ∨ k = fldKey ENET_MAC 0 0 ∨ k = fldKey COLO_CERT_LEN 0 0 ∨
    ∃ i < 256, k = fldKey INTG_PPR_LEFT i 0

theorem hbmSites_lt {b : Build} {n : Nat} (h : n ∈ hbmSites b) : n < 12 := by
  cases b <;> revert n <;> decide

theorem pprShown_within (s : State) : (each (hbmSites s.build) fun n =>
    setF INTG_PPR_LEFT (s.factory.pprLeft - countB (fun x => x == 176 + n) s.nv.hard) (176 + n)).Within []
      fun k => ∃ i < 256, k = fldKey INTG_PPR_LEFT i 0 :=
  (only_each_iff _ _ _).2 fun n hn => (within_setF _ _ _ _).2 ⟨176 + n, by have := hbmSites_lt hn; omega, rfl⟩

theorem factoryShown_within (s : State) : (factoryShown s).Within [] factoryKeys := by
  simp only [factoryShown, only_acts_cons, only_acts_nil, within_setF, and_true]
  exact ⟨Or.inl rfl, Or.inr (Or.inl rfl), Or.inr (Or.inr (Or.inl rfl)), Or.inr (Or.inr (Or.inr (Or.inl rfl))),
    (pprShown_within s).regs fun _ h => Or.inr (Or.inr (Or.inr (Or.inr h)))⟩

theorem factoryShown_mac (s u : State) : fv ((factoryShown s).run u) ENET_MAC = s.factory.mac % 2 ^ 48 := by
  simp only [factoryShown, run_acts_cons, runs_nil]
  rw [(pprShown_within s).fv _ _ _ _ fun ⟨i, hi, h⟩ => fldKey_ne_blk _ _ _ _ _ _ (by decide) (by decide) hi (by decide) (by decide) h]
  simp (disch := decide) only [fv_setF_other]
  exact fv_setF_eq _ _ _ _ _ (by decide) (by decide)

theorem not_factoryKeys_slot {key : Nat} (h : slotKey 0 key) : ¬ factoryKeys key := by
  have hb := slotKey_bounds (k := 0) (by decide) h
  rintro (rfl | rfl | rfl | rfl | ⟨i, hi, rfl⟩)
  · revert hb; decide
  · revert hb; decide
  · revert hb; decide
  · revert hb; decide
  · simp only [fldKey, regKey, INTG_PPR_LEFT, blkNum] at hb; omega

theorem stage1_run (s : State) (h : stageReady s 1) :
    stage1.run s = (fwStart 1 0 (bootStageDone 1) bootHalt).run ((factoryShown s).run s) := by
  rw [stage1, atStage_run h]
  simp only [run_acts_cons, runs_nil, runs_look, factoryShown]

theorem fwStart_within (comp slot : Nat) (f g : Boot → Boot) : (fwStart comp slot (updBoot f) (updBoot g)).Within [.boot] (fwKeys comp slot) := fun s => by
  dsimp only
  split
  · rename_i x _
    have h := (fwMeasured_within comp slot x).mono (qs := [.boot]) (by simp) fun _ h => h
    simp only [fwMeasured, only_acts_cons, only_acts_nil, and_true] at h ⊢
    exact ⟨h.1, h.2.1, h.2.2, (updBoot_within f).regs fun _ h => h.elim⟩
  · exact (updBoot_within g).regs fun _ h => h.elim

theorem bootStage1_row (s : State) (h : stageReady s 1) : ∃ t, exec .bootStage1 s = .next t ∧ fv t ENET_MAC = s.factory.mac % 2 ^ 48 ∧
    t.nv = s.nv ∧ memKept s t ∧
    (∀ x, fwLoad s 1 = some x → t.boot = { s.boot with stage := 1 } ∧ slotBytes t 0 = extended (slotBytes s 0) x.1 ∧
      fv t COLO_RUNNING 0 0 = fwVersion x.1 ∧ (x.2 = true → fb t COLO_FALLBACK = true)) ∧
    (fwLoad s 1 = none → t.boot = { s.boot with halted := true } ∧ (s.power.trip = false → faultN t = some false)) := by
  have hshown := factoryShown_within s
  have hstart := fwStart_within 1 0 (fun b => { b with stage := 1 }) fun b => { b with halted := true }
  have hboot : ((factoryShown s).run s).boot = s.boot := hshown.same .boot (by decide) s
  have hload : fwLoad ((factoryShown s).run s) 1 = fwLoad s 1 := fwLoad_congr (hshown.same .nv (by decide) s) (run_factory _ s) 1
  refine ⟨stage1.run s, rfl, ?_, ?_, ?_, fun x hx => ?_, fun hx => ?_⟩
  · rw [stage1_run s h]
    exact (hstart.fv _ _ _ _ (not_fwKeys (by decide) (by decide) _ _ _ (by decide) (by decide) (by decide))).trans (factoryShown_mac s s)
  · rw [stage1_run s h]
    exact (hstart.same .nv (by decide) _).trans (hshown.same .nv (by decide) s)
  · rw [stage1_run s h]
    exact memKept_of_eq ((hstart.same .mem (by decide) _).trans (hshown.same .mem (by decide) s))
      ((hstart.same .syn (by decide) _).trans (hshown.same .syn (by decide) s))
      ((hstart.same .written (by decide) _).trans (hshown.same .written (by decide) s))
  · have hrun : stage1.run s = (bootStageDone 1).run ((fwMeasured 1 0 x).run ((factoryShown s).run s)) := by
      rw [stage1_run s h, fwStart_some (hload.trans hx)]
    have hmb : ((fwMeasured 1 0 x).run ((factoryShown s).run s)).boot = s.boot := ((fwMeasured_within 1 0 x).same .boot (by decide) _).trans hboot
    have hdone := updBoot_within fun b => { b with stage := 1 }
    rw [hrun]
    refine ⟨(updBoot_boot _ _).trans (by rw [hmb]), ?_, ?_, fun hfall => ?_⟩
    · rw [bootStageDone, slotBytes_kept hdone 0 (fun _ _ h => h), fwMeasured_slot _ 1 0 x (by decide),
        slotBytes_kept hshown 0 fun _ => not_factoryKeys_slot]
    · exact (hdone.fv _ _ _ _ fun h => h).trans (fwMeasured_running _ 0 x)
    · exact (hdone.fb _ _ _ _ fun h => h).trans (fwMeasured_fallback _ 1 0 x hfall)
  · have hrun : stage1.run s = bootHalt.run ((factoryShown s).run s) := by rw [stage1_run s h, fwStart_none (hload.trans hx)]
    have hhalt : (stage1.run s).boot = { s.boot with halted := true } := by
      rw [hrun]
      exact (updBoot_boot _ _).trans (by rw [hboot])
    have hpower : (stage1.run s).power = s.power := by
      rw [stage1_run s h]
      exact (hstart.same .power (by decide) _).trans (hshown.same .power (by decide) s)
    exact ⟨hhalt, fun htrip => by simp [faultN, hhalt, hpower, htrip, h.1]⟩

/-! ### Stage 2 -/

/-- The owner, the rollback floors and the command counters are shown. -/
def flashShown (s : State) : Act := acts [
  setF COLO_OWNER_STATE (b2n s.nv.owner.isSome), setF COLO_OWNER_GEN ((s.nv.owner.map Prod.snd).getD 0), setF COLO_KEYS (keyMask s.nv.keys),
  each (List.range 5) fun c => setF COLO_FLOOR (s.nv.floors.getD c 0) 0 c,
  each (List.range 4) fun k => setF SLQP_LAST_COUNTER (s.nv.counters.getD k 0) 0 k,
  setF COLO_IDENTITY_OK (b2n s.factory.wrapOk)]

/-- The registers that showing them touches. -/
abbrev flashShownKeys (k : Nat) : Prop :=
  k = fldKey COLO_OWNER_STATE 0 0 ∨ k = fldKey COLO_OWNER_GEN 0 0 ∨ k = fldKey COLO_KEYS 0 0 ∨ (∃ c < 5, k = fldKey COLO_FLOOR 0 c) ∨
    (∃ c < 4, k = fldKey SLQP_LAST_COUNTER 0 c) ∨ k = fldKey COLO_IDENTITY_OK 0 0

theorem flashShown_within (s : State) : (flashShown s).Within [] flashShownKeys := by
  simp only [flashShown, only_acts_cons, only_acts_nil, only_each_iff, within_setF, and_true]
  exact ⟨Or.inl rfl, Or.inr (Or.inl rfl), Or.inr (Or.inr (Or.inl rfl)),
    fun c hc => Or.inr (Or.inr (Or.inr (Or.inl ⟨c, List.mem_range.1 hc, rfl⟩))),
    fun c hc => Or.inr (Or.inr (Or.inr (Or.inr (Or.inl ⟨c, List.mem_range.1 hc, rfl⟩)))),
    Or.inr (Or.inr (Or.inr (Or.inr (Or.inr rfl))))⟩

theorem floorsShown_within (s : State) : (each (List.range 5) fun c => setF COLO_FLOOR (s.nv.floors.getD c 0) 0 c).Within []
    fun k => ∃ c < 5, k = fldKey COLO_FLOOR 0 c :=
  (only_each_iff _ _ _).2 fun c hc => (within_setF _ _ _ _).2 ⟨c, List.mem_range.1 hc, rfl⟩

theorem countersShown_within (s : State) : (each (List.range 4) fun k => setF SLQP_LAST_COUNTER (s.nv.counters.getD k 0) 0 k).Within []
    fun k => ∃ c < 4, k = fldKey SLQP_LAST_COUNTER 0 c :=
  (only_each_iff _ _ _).2 fun c hc => (within_setF _ _ _ _).2 ⟨c, List.mem_range.1 hc, rfl⟩

theorem colo_ne_counter (f : Fld) (n c : Nat) (hb : f.blk = .colo) (ho : f.off + n * f.stride < 4096) (hc : c < 4) :
    fldKey f 0 n ≠ fldKey SLQP_LAST_COUNTER 0 c :=
  fldKey_ne_blk _ _ _ _ _ _ (by rw [hb]; decide) (by decide) (by decide) ho (by simp only [SLQP_LAST_COUNTER]; omega)

theorem colo_ne_floor (f : Fld) (n c : Nat) (ho : f.off + n * f.stride < 0x300) (hb : f.blk = .colo) :
    fldKey f 0 n ≠ fldKey COLO_FLOOR 0 c := by
  simp only [fldKey, regKey, hb, COLO_FLOOR]
  omega

theorem flashShown_owner (s u : State) : fb ((flashShown s).run u) COLO_OWNER_STATE = s.nv.owner.isSome := by
  simp only [flashShown, run_acts_cons, runs_nil]
  rw [fb, fv_setF_other _ _ _ _ _ _ _ _ (by decide) (Or.inl (by decide)),
    (countersShown_within s).fv _ _ _ _ fun ⟨c, hc, h⟩ => colo_ne_counter _ _ _ rfl (by decide) hc h,
    (floorsShown_within s).fv _ _ _ _ fun ⟨c, hc, h⟩ => colo_ne_floor _ _ _ (by decide) rfl h]
  simp (disch := decide) only [fv_setF_other]
  rw [fv_setF_eq _ _ _ _ _ (by decide) (by decide)]
  cases s.nv.owner.isSome <;> rfl

theorem flashShown_floor (s u : State) (c : Nat) (hc : c < 5) : fv ((flashShown s).run u) COLO_FLOOR 0 c = s.nv.floors.getD c 0 % 2 ^ 32 := by
  simp only [flashShown, run_acts_cons, runs_nil]
  rw [fv_setF_other _ _ _ _ _ _ _ _ (by decide) (Or.inl (colo_ne_floor _ _ _ (by decide) rfl).symm),
    (countersShown_within s).fv _ _ _ _ fun ⟨k, hk, h⟩ => colo_ne_counter _ _ _ rfl (by simp only [COLO_FLOOR]; omega) hk h]
  have h := each_setF_get COLO_FLOOR (fun c => s.nv.floors.getD c 0) 0 ⟨by decide, by decide⟩ (by decide) 5
  simp only [Nat.zero_add] at h
  exact h _ c hc

theorem flashShown_counter (s u : State) (k : Nat) (hk : k < 4) :
    fv ((flashShown s).run u) SLQP_LAST_COUNTER 0 k = s.nv.counters.getD k 0 % 2 ^ 64 := by
  simp only [flashShown, run_acts_cons, runs_nil]
  rw [fv_setF_other _ _ _ _ _ _ _ _ (by decide) (Or.inl (colo_ne_counter _ _ _ rfl (by decide) hk).symm)]
  have h := each_setF_get SLQP_LAST_COUNTER (fun c => s.nv.counters.getD c 0) 0 ⟨by decide, by decide⟩ (by decide) 4
  simp only [Nat.zero_add] at h
  exact h _ k hk

theorem flashShown_identity (s u : State) : fb ((flashShown s).run u) COLO_IDENTITY_OK = s.factory.wrapOk := by
  simp only [flashShown, run_acts_cons, runs_nil]
  rw [fb_setF_self _ _ _ _ _ ⟨by decide, by decide⟩]
  cases s.factory.wrapOk <;> rfl

theorem not_flashShownKeys_slot {k key : Nat} (hk : k < 8) (h : slotKey k key) : ¬ flashShownKeys key := by
  have hb := slotKey_bounds hk h
  rintro (rfl | rfl | rfl | ⟨c, hc, rfl⟩ | ⟨c, hc, rfl⟩ | rfl) <;>
    simp only [fldKey, regKey, COLO_OWNER_STATE, COLO_OWNER_GEN, COLO_KEYS, COLO_FLOOR, SLQP_LAST_COUNTER, COLO_IDENTITY_OK, blkNum] at hb <;> omega

theorem stage2_run (s : State) (h : stageReady s 2) :
    stage2.run s = (fwStart 2 1 (bootStageDone 2) bootHalt).run ((flashShown s).run s) := by
  have hsame : (acts [setF COLO_OWNER_STATE (b2n s.nv.owner.isSome), setF COLO_OWNER_GEN ((s.nv.owner.map Prod.snd).getD 0),
    setF COLO_KEYS (keyMask s.nv.keys)]).Within [] fun _ => True := by simp
  have hnv := hsame.same .nv (by decide) s
  have hf := run_factory (acts [setF COLO_OWNER_STATE (b2n s.nv.owner.isSome), setF COLO_OWNER_GEN ((s.nv.owner.map Prod.snd).getD 0),
    setF COLO_KEYS (keyMask s.nv.keys)]) s
  simp only [Part.same, run_acts_cons, runs_nil] at hnv hf
  rw [stage2, atStage_run h]
  simp only [run_acts_cons, runs_nil, runs_look, showOwner, flashShown, hnv, hf]

/-- The keys of stage 2's firmware, on the COLO page. -/
theorem fwKeys_bounds {k : Nat} (h : fwKeys 2 1 k) : k % 4096 = 0x5C ∨ 0x140 ≤ k % 4096 ∧ k % 4096 < 0x180 ∨ k % 4096 = 0x324 := by
  rcases h with h | rfl | rfl
  · have := slotKey_bounds (by decide) h; omega
  · decide
  · decide

theorem fwMeasured_identity (s : State) (x : List Byte × Bool) : fv ((fwMeasured 2 1 x).run s) COLO_IDENTITY_OK = fv s COLO_IDENTITY_OK := by
  simp (disch := decide) only [fwMeasured, run_acts_cons, runs_nil, fv_onlyIf, fv_setF_other, ite_self]
  refine (extendSlot_within 1 x.1).fv _ _ _ _ fun h => ?_
  have hb := slotKey_bounds (by decide) h
  revert hb; decide

/-- Boot goes on to a stage, or halts. -/
theorem fwStart_fv {s : State} {comp slot : Nat} (f g : Boot → Boot) (h : Fld) (hm : ∀ x, fv ((fwMeasured comp slot x).run s) h = fv s h) :
    fv ((fwStart comp slot (updBoot f) (updBoot g)).run s) h = fv s h := by
  cases hx : fwLoad s comp with
  | none => rw [fwStart_none hx, (updBoot_within g).fv _ _ _ _ fun h => h]
  | some x => rw [fwStart_some hx, (updBoot_within f).fv _ _ _ _ fun h => h, hm x]

theorem bootStage2_row (s : State) (h : stageReady s 2) : ∃ t, exec .bootStage2 s = .next t ∧ fb t COLO_IDENTITY_OK = s.factory.wrapOk ∧
    fb t COLO_OWNER_STATE = s.nv.owner.isSome ∧ (∀ c, c < 5 → fv t COLO_FLOOR 0 c = s.nv.floors.getD c 0 % 2 ^ 32) ∧
    (∀ k, k < 4 → fv t SLQP_LAST_COUNTER 0 k = s.nv.counters.getD k 0 % 2 ^ 64) ∧ t.nv = s.nv ∧ memKept s t ∧
    (∀ x, fwLoad s 2 = some x → t.boot = { s.boot with stage := 2 } ∧ slotBytes t 1 = extended (slotBytes s 1) x.1) ∧
    (fwLoad s 2 = none → t.boot = { s.boot with halted := true }) := by
  have hshown := flashShown_within s
  have hstart := fwStart_within 2 1 (fun b => { b with stage := 2 }) fun b => { b with halted := true }
  have hboot : ((flashShown s).run s).boot = s.boot := hshown.same .boot (by decide) s
  have hload : fwLoad ((flashShown s).run s) 2 = fwLoad s 2 := fwLoad_congr (hshown.same .nv (by decide) s) (run_factory _ s) 2
  refine ⟨stage2.run s, rfl, ?_, ?_, fun c hc => ?_, fun k hk => ?_, ?_, ?_, fun x hx => ?_, fun hx => ?_⟩
  · rw [stage2_run s h, ← flashShown_identity s s]
    exact congrArg (· != 0) (fwStart_fv (fun b => { b with stage := 2 }) (fun b => { b with halted := true }) _ (fwMeasured_identity _))
  · rw [stage2_run s h, ← flashShown_owner s s]
    exact hstart.fb _ _ _ _ fun hk => by have := fwKeys_bounds hk; revert this; decide
  · rw [stage2_run s h, ← flashShown_floor s s c hc]
    refine hstart.fv _ _ _ _ fun hk => ?_
    have hb := fwKeys_bounds hk
    rw [(fldKey_parts COLO_FLOOR 0 c (by decide) (by simp only [COLO_FLOOR]; omega)).2] at hb
    simp only [COLO_FLOOR] at hb
    omega
  · rw [stage2_run s h, ← flashShown_counter s s k hk]
    exact hstart.fv _ _ _ _ (not_fwKeys (by decide) (by decide) _ _ _ (by decide) (by decide) (by simp only [SLQP_LAST_COUNTER]; omega))
  · rw [stage2_run s h]
    exact (hstart.same .nv (by decide) _).trans (hshown.same .nv (by decide) s)
  · rw [stage2_run s h]
    exact memKept_of_eq ((hstart.same .mem (by decide) _).trans (hshown.same .mem (by decide) s))
      ((hstart.same .syn (by decide) _).trans (hshown.same .syn (by decide) s))
      ((hstart.same .written (by decide) _).trans (hshown.same .written (by decide) s))
  · have hrun : stage2.run s = (bootStageDone 2).run ((fwMeasured 2 1 x).run ((flashShown s).run s)) := by
      rw [stage2_run s h, fwStart_some (hload.trans hx)]
    have hmb : ((fwMeasured 2 1 x).run ((flashShown s).run s)).boot = s.boot := ((fwMeasured_within 2 1 x).same .boot (by decide) _).trans hboot
    rw [hrun]
    refine ⟨(updBoot_boot _ _).trans (by rw [hmb]), ?_⟩
    rw [bootStageDone, slotBytes_kept (updBoot_within _) 1 (fun _ _ h => h), fwMeasured_slot _ 2 1 x (by decide),
      slotBytes_kept hshown 1 fun _ => not_flashShownKeys_slot (by decide)]
  · rw [stage2_run s h, fwStart_none (hload.trans hx)]
    exact (updBoot_boot _ _).trans (by rw [hboot])

end Sys2Proof.Machine
end

section
/-! PROOF. Boot's third stage: the device configuration image's writes touch no measurement slot (R420, R424). -/

namespace Sys2Proof.Machine

/-! ### A register write that sets nothing going -/

/-- An offset of a block at which a register from `base` on lies whose writes are stored and set nothing else going. -/
structure Hookless (b : Blk) (off base : Nat) : Prop where
  here : ∀ d n, regAt b off = some (d, n) → n = base
  lo : 0x40 ≤ base
  hi : base < 4096
  touch : ∀ i v, (hookTouch ⟨b, i⟩ base v).Within [] fun _ => False
  apply : ∀ s i v, (hookApply s ⟨b, i⟩ base v).Within [] fun _ => False
  stored : ¬ (b = .hbmc ∧ 0x100 ≤ base) ∧ ¬ (b = .shef ∧ base = 0x0AC)

theorem hookless_here {b : Blk} {off base : Nat} (h : (regAt b off).map Prod.snd = some base) (d : RegDef) (n : Nat)
    (hd : regAt b off = some (d, n)) : n = base := by
  rw [hd] at h
  exact Option.some.inj h

theorem keyIdx_lt (p : PageRef) (off : Nat) (hi : p.idx < 256) : keyIdx p off < 256 := by
  unfold keyIdx
  split
  · split <;> omega
  · split <;> omega
  · exact hi

section
variable {bs : List Blk} (hs : .slqp ∈ bs)

theorem storeReg_quiet {p : PageRef} {off base : Nat} (h : Hookless p.blk off base) (hp : p.blk ∈ bs) (hi : p.idx < 256) (d : RegDef) (v : Nat) :
    (storeReg p d base v).Within [.events, .out] (hdrOr bs) := by
  have hkey : pageKey p base / 4096 / 256 = blkNum p.blk := by
    have := keyIdx_lt p base hi
    have := h.hi
    simp only [pageKey, regKey]
    omega
  rw [storeReg, if_neg h.stored.1, if_neg h.stored.2]
  dsimp only
  rw [if_neg (Nat.not_lt.2 h.lo)]
  exact fun s => (within_setKey _ _).2 (Or.inr ⟨p.blk, hp, hkey⟩)

include hs

theorem writePage_quiet {p : PageRef} {off base : Nat} (h : Hookless p.blk off base) (hp : p.blk ∈ bs) (hi : p.idx < 256) (r : Requester) (v : Nat) :
    (writePage r p off v fun _ => .done).Within [.events, .out] (hdrOr bs) := by
  have hfail : ∀ e, (acts [recordReject p off e, .done]).Within [.events, .out] (hdrOr bs) := fun e => by
    simp only [only_acts_cons, only_acts_nil, and_true]
    exact ⟨recordReject_hdrOr p off e (by decide) (by decide) hs, trivial⟩
  intro s
  dsimp only
  split
  · split
    · trivial
    · exact hfail _
  · rename_i d n hreg
    obtain rfl := h.here d n hreg
    split
    · exact hfail _
    · split
      · trivial
      · simp only [only_acts_cons, only_acts_nil, only_onlyIf_iff, and_true]
        refine ⟨fun _ => (h.touch p.idx v).mono (by simp) fun _ h => h.elim, fun t => ?_⟩
        dsimp only
        split
        · simp only [writeEffect, only_look_iff, only_acts_cons, only_acts_nil, and_true]
          refine ⟨fun u => ⟨?_, (h.apply u p.idx v).mono (by simp) fun _ h => h.elim⟩, trivial⟩
          rw [if_neg fun hc => by have := h.lo; simp [asksReset] at hc; omega]
          exact storeReg_quiet h hp hi d v
        · exact hfail _

theorem writeReg_quiet (r : Requester) (a size v : Nat)
    (h : ∀ s p, pageOf s a = some p → p.blk ∈ bs ∧ p.idx < 256 ∧ ∃ base, Hookless p.blk (raOff a) base) :
    (writeReg r a size v fun _ => .done).Within [.events, .out] (hdrOr bs) := by
  have hrej : ∀ s e, (acts [rejectAt s a e, .done]).Within [.events, .out] (hdrOr bs) := fun s e => by
    simp only [only_acts_cons, only_acts_nil, and_true]
    exact ⟨recordReject_hdrOr _ _ e (by decide) (by decide) hs, trivial⟩
  intro s
  dsimp only
  split
  · rename_i p hp
    obtain ⟨hb, hi, base, hh⟩ := h s p hp
    split
    · exact hrej s _
    · exact writePage_quiet hs hh hb hi r _
  · exact hrej s _

end

/-! ### The image's writes -/

/-- The blocks that a device configuration image writes. -/
abbrev dciBlks : List Blk := [.enet, .slqp, .bkgd, .intg, .updt, .link, .powr]

theorem hookless_enet (off : Nat) (h : off ∈ [0x04C, 0x050, 0x058, 0x064, 0x060, 0x068]) : Hookless .enet off off := by
  have hhere : (regAt .enet off).map Prod.snd = some off := by revert off; decide
  have hc : 0x40 ≤ off ∧ off < 0x0C0 := by revert off; decide
  refine ⟨hookless_here hhere, hc.1, by omega, fun _ _ => trivial, fun s i v => ?_, by simp⟩
  rw [hookApply, if_neg (by omega)]
  exact only_onlyIf _ _ _ fun h => absurd h (by simp; omega)

theorem hookless_plain (b : Blk) (off : Nat) (hb : b = .slqp ∨ b = .bkgd) (hhere : (regAt b off).map Prod.snd = some off) (hlo : 0x40 ≤ off)
    (hhi : off < 4096) : Hookless b off off := by
  refine ⟨hookless_here hhere, hlo, hhi, fun _ _ => ?_, fun s i v => ?_, ?_⟩
  · rcases hb with rfl | rfl <;> trivial
  · rw [hookApply, if_neg (by omega)]
    rcases hb with rfl | rfl <;> trivial
  · rcases hb with rfl | rfl <;> simp

theorem hookless_intg : Hookless .intg 0x044 0x044 :=
  ⟨hookless_here (by decide), by decide, by decide, fun _ _ => trivial, fun _ _ _ => trivial, by decide⟩

theorem hookless_updt : Hookless .updt 0x044 0x040 :=
  ⟨hookless_here (by decide), by decide, by decide, fun _ _ => trivial, fun _ _ _ => trivial, by decide⟩

theorem mgdWrite_quiet {bs : List Blk} (hs : .slqp ∈ bs) (page off size v : Nat) (b : Blk) (hp : page < 12) (hb : mgdBlks[page]? = some b) (hbs : b ∈ bs) (ho : off < 4096) {base : Nat} (h : Hookless b off base) :
    (mgdWrite page off size v).Within [.events, .out] (hdrOr bs) := by
  refine writeReg_quiet hs _ _ _ _ fun s p hpage => ?_
  rw [pageOf_regAddr s _ _ _ (by decide) (by omega) ho] at hpage
  unfold pageAt at hpage
  rw [if_pos rfl, if_neg (by omega), hb] at hpage
  obtain rfl := Option.some.inj hpage
  have hoff : raOff (regAddr 0x18 page off) = off := (regAddr_parts _ _ off (by decide) (by omega) ho).2.2.2
  exact ⟨hbs, by simp, base, by rw [hoff]; exact h⟩

/-- The page at the place of an INTG page is an INTG page, or, on another build, an UPDT page. -/
theorem pageAt_intgLoc (s u : State) (i : Nat) (hi : i < 256) (p : PageRef) (h : pageAt u (pageLoc s (intgPage i)).1 (pageLoc s (intgPage i)).2 = some p) :
    (p.blk = .intg ∨ p.blk = .updt) ∧ p.idx < 256 := by
  have htile : ∀ k, k ≤ 160 → pageAt u (slotLoc k 6).1 (slotLoc k 6).2 = some p → p.blk = .intg ∧ p.idx < 256 := by
    intro k hk hpage
    unfold slotLoc at hpage
    unfold pageAt at hpage
    split at hpage
    · dsimp only at hpage
      rw [if_neg (by omega), if_pos (by omega), if_pos (by omega), show (8 * (k % 72) + 6) % 8 = 6 by omega] at hpage
      obtain rfl := Option.some.inj hpage
      exact ⟨rfl, (physOf_lt u _).trans (by decide)⟩
    · dsimp only at hpage
      by_cases h160 : k = 160
      · subst h160
        rw [if_neg (by decide), if_neg (by decide), isHbmSite, isLinkSite] at hpage
        exact absurd hpage (by simp)
      · rw [if_neg (by omega), if_pos (by omega), if_neg (by omega), if_pos (by omega), show (0x240 + 8 * ((k - 144) % 8) + 6) % 8 = 6 by omega] at hpage
        obtain rfl := Option.some.inj hpage
        exact ⟨rfl, (physOf_lt u _).trans (by decide)⟩
  have hloc : pageLoc s (intgPage i) = if i < 160 then slotLoc (slotOf s i) 6
    else if i < 176 then (0x10 + (i - 160) / 8, 0x301 + 2 * ((i - 160) % 8))
    else if i < 188 then (i - 176, 2)
    else if i < 200 then (i - 188, 1) else (0x18, 0xC) := rfl
  rw [hloc] at h
  split at h
  · exact (htile _ (slotOf_le s i) h).imp_left Or.inl
  · split at h
    · unfold pageAt at h
      dsimp only at h
      rw [if_neg (by omega), if_pos (by omega), if_neg (by omega), if_neg (by omega), if_pos (by omega), if_neg (by omega)] at h
      obtain rfl := Option.some.inj h
      exact ⟨Or.inl rfl, by dsimp only; omega⟩
    · split at h
      · unfold pageAt at h
        dsimp only at h
        rw [if_neg (by omega), if_neg (by omega)] at h
        split at h
        · obtain rfl := Option.some.inj h
          exact ⟨Or.inl rfl, by dsimp only; omega⟩
        · exact absurd h (by simp)
      · split at h
        · unfold pageAt at h
          dsimp only at h
          rw [if_neg (by omega), if_neg (by omega)] at h
          split at h
          · obtain rfl := Option.some.inj h
            exact ⟨Or.inr rfl, by dsimp only; omega⟩
          · split at h
            · rw [if_neg (by decide), if_pos rfl] at h
              obtain rfl := Option.some.inj h
              exact ⟨Or.inl rfl, by dsimp only; omega⟩
            · exact absurd h (by simp)
        · unfold pageAt at h
          rw [if_pos rfl, if_pos rfl] at h
          obtain rfl := Option.some.inj h
          exact ⟨Or.inl rfl, by decide⟩

theorem scrubWrite_quiet (s : State) (i v : Nat) (hi : i < 256) :
    (coreWrite (pageAddr s (intgPage i) 0x044) 4 v).Within [.events, .out] (hdrOr dciBlks) := by
  obtain ⟨h1, h2⟩ := pageLoc_intg s i hi
  refine writeReg_quiet (by decide) _ _ _ _ fun u p hpage => ?_
  rw [pageAddr, pageOf_regAddr u _ _ _ h1 h2 (by decide)] at hpage
  obtain ⟨hb, hidx⟩ := pageAt_intgLoc s u i hi p hpage
  have ho : raOff (pageAddr s (intgPage i) 0x044) = 0x044 := (regAddr_parts _ _ _ h1 h2 (by decide)).2.2.2
  rw [ho]
  rcases hb with hb | hb
  · exact ⟨by rw [hb]; decide, hidx, _, by rw [hb]; exact hookless_intg⟩
  · exact ⟨by rw [hb]; decide, hidx, _, by rw [hb]; exact hookless_updt⟩

theorem withVal_within {ps : List Part} {ks : Nat → Prop} (p : Pass) (id : Nat) (f : Nat → Act) (h : ∀ v, (f v).Within ps ks) :
    (withVal p id f).Within ps ks := by
  unfold withVal
  split
  · exact h _
  · trivial

theorem placeLinks_within : placeLinks.Within [.events, .out] (hdrOr dciBlks) := by
  simp only [placeLinks, only_look_iff, only_acts_cons, only_acts_nil, only_each_iff, within_setF, and_true]
  have hl : ∀ f : Fld, ∀ i, f.blk = .link → f.off + 0 * f.stride < 4096 → i < 256 → hdrOr dciBlks (fldKey f i 0) := fun f i hb ho hi =>
    hdrOr_fldKey f i 0 (by rw [hb]; decide) hi ho
  exact fun s => ⟨hl _ _ rfl (by decide) (by decide), hl _ _ rfl (by decide) (by decide), fun l hlm =>
    have hlt : l < 256 := (List.mem_range.1 hlm).trans (nLinks_lt _)
    ⟨hl _ _ rfl (by decide) hlt, hl _ _ rfl (by decide) hlt⟩⟩

theorem intgPages_lt {b : Build} {i : Nat} (h : i ∈ intgPages b) : i < 256 := by
  have hsite : ∀ n, n ∈ hbmSites b ∨ n ∈ linkSites b → n < 12 := fun n hn =>
    List.mem_range.1 (hn.elim (fun h => (List.mem_filter.1 h).1) fun h => (List.mem_filter.1 h).1)
  simp only [intgPages, List.mem_append, List.mem_range, List.mem_map, List.mem_singleton] at h
  rcases h with ((h | ⟨n, hn, rfl⟩) | ⟨n, hn, rfl⟩) | rfl
  · omega
  · have := hsite n (Or.inl hn); omega
  · have := hsite n (Or.inr hn); omega
  · decide

theorem dciWrites_within (p : Pass) : (dciWrites p).Within [.events, .out] (hdrOr dciBlks) := by
  have hset : ∀ id (f : Fld), f.blk ∈ dciBlks → f.off + 0 * f.stride < 4096 → (withVal p id (setF f)).Within [.events, .out] (hdrOr dciBlks) :=
    fun id f hb ho => withVal_within _ _ _ fun v => (within_setF _ _ _ _).2 (hdrOr_fldKey f 0 0 hb (by decide) ho)
  have henet : ∀ id off size, off ∈ [0x04C, 0x050, 0x058, 0x064, 0x060, 0x068] →
      (withVal p id (mgdWrite 2 off size)).Within [.events, .out] (hdrOr dciBlks) := fun id off size ho =>
    withVal_within _ _ _ fun v => mgdWrite_quiet (by decide) 2 off size v .enet (by decide) rfl (by decide) (by revert off; decide) (hookless_enet off ho)
  have hallow : ∀ id base size, (∀ a < 8, (regAt .slqp (base + 0x20 * a)).map Prod.snd = some (base + 0x20 * a)) → 0x100 ≤ base → base < 0x140 →
      (each (List.range 8) fun a => withVal p (id + a) (mgdWrite 3 (base + 0x20 * a) size)).Within [.events, .out] (hdrOr dciBlks) :=
    fun id base size hr h1 h2 => (only_each_iff _ _ _).2 fun a ha => withVal_within _ _ _ fun v =>
      have ha : a < 8 := List.mem_range.1 ha
      mgdWrite_quiet (by decide) 3 _ size v .slqp (by decide) rfl (by decide) (by omega) (hookless_plain _ _ (Or.inl rfl) (hr a ha) (by omega) (by omega))
  simp only [dciWrites, only_acts_cons, only_acts_nil, and_true]
  exact ⟨hset _ _ (by decide) (by decide), hset _ _ (by decide) (by decide), hset _ _ (by decide) (by decide), hset _ _ (by decide) (by decide),
    placeLinks_within,
    henet _ _ _ (by decide), henet _ _ _ (by decide), henet _ _ _ (by decide), henet _ _ _ (by decide), henet _ _ _ (by decide), henet _ _ _ (by decide),
    hallow _ _ _ (fun a ha => by interval_cases a <;> rfl) (by decide) (by decide), hallow _ _ _ (fun a ha => by interval_cases a <;> rfl) (by decide) (by decide), hallow _ _ _ (fun a ha => by interval_cases a <;> rfl) (by decide) (by decide),
    withVal_within _ _ _ fun v s => (only_each_iff _ _ _).2 fun i hi => scrubWrite_quiet s i v (intgPages_lt hi),
    withVal_within _ _ _ fun v => mgdWrite_quiet (by decide) 7 0x040 4 v .bkgd (by decide) rfl (by decide) (by decide)
      (hookless_plain _ _ (Or.inr rfl) (by decide) (by decide) (by decide)),
    hset _ _ (by decide) (by decide)⟩

/-! ### Stage 3 -/

/-- An accepted image's values but for the last: its writes and its report. -/
def dciShown (p : Pass) (b : List Byte) (other : Bool) : Act := acts [
  dciWrites p,
  setWords CONF_DCI_REPORT 0 8 ((p.clamps.take 64).flatMap clampBytes),
  setF CONF_DCI_CLAMPS (min 65535 p.clamps.length), setF CONF_DCI_CODE 0,
  setF CONF_DCI_SEQ (cfSeq b % 2 ^ 32), setF COLO_RUNNING (cfSeq b % 2 ^ 32) 0 4,
  onlyIf other (setF COLO_FALLBACK 1)]

theorem dciApply_run (s : State) (b : List Byte) (other : Bool) :
    (dciApply b other).run s = (setF CONF_DCI_VALID 1).run ((extendSlot 4 b).run ((dciShown (pass1 s 1 b) b other).run s)) := by
  simp only [dciApply, dciShown, runs_look, run_acts_cons, runs_nil]

theorem dciShown_slot (s : State) (p : Pass) (b : List Byte) (other : Bool) : slotBytes ((dciShown p b other).run s) 4 = slotBytes s 4 := by
  have hset : ∀ (f : Fld) (v n : Nat), (∀ key, slotKey 4 key → key ≠ fldKey f 0 n) → (setF f v 0 n).Within [] fun k => ¬ slotKey 4 k :=
    fun f v n h => (within_setF _ _ _ _).2 fun hk => h _ hk rfl
  have hconf : ∀ (f : Fld) (n : Nat), f.blk = .conf → ∀ key, slotKey 4 key → key ≠ fldKey f 0 n := fun f n hb key hkey h => by
    have := slotKey_bounds (by decide) hkey
    simp only [h, fldKey, regKey, hb, blkNum] at this
    omega
  have hdci : (dciWrites p).Within [.events, .out] fun k => ¬ slotKey 4 k :=
    (dciWrites_within p).regs fun k hk hs => not_hdrOr_slot (by decide) (by decide) hs hk
  have hwords : (setWords CONF_DCI_REPORT 0 8 ((p.clamps.take 64).flatMap clampBytes)).Within [.events, .out] fun k => ¬ slotKey 4 k :=
    (setWords_within _ _ _ _).mono (by simp) fun k ⟨i, _, hk⟩ hs => hconf CONF_DCI_REPORT (0 + i) rfl k hs hk
  have hcolo : ∀ (f : Fld) (n : Nat), fldKey f 0 n ∉ (List.range 8).map (fun i => fldKey COLO_MSLOT 0 (8 * 4 + i)) →
      ∀ key, slotKey 4 key → key ≠ fldKey f 0 n := fun f n h key ⟨i, hi, hk⟩ he => h (List.mem_map.2 ⟨i, List.mem_range.2 hi, by rw [← he, hk]⟩)
  have hall : (dciShown p b other).Within [.events, .out] fun k => ¬ slotKey 4 k := by
    simp only [dciShown, only_acts_cons, only_acts_nil, only_onlyIf_iff, and_true]
    exact ⟨hdci, hwords, (hset _ _ _ (hconf _ _ rfl)).mono (by simp) fun _ h => h, (hset _ _ _ (hconf _ _ rfl)).mono (by simp) fun _ h => h,
      (hset _ _ _ (hconf _ _ rfl)).mono (by simp) fun _ h => h, (hset _ _ _ (hcolo _ _ (by decide))).mono (by simp) fun _ h => h,
      fun _ => (hset _ _ _ (hcolo _ _ (by decide))).mono (by simp) fun _ h => h⟩
  exact slotBytes_kept hall 4 (fun _ h hn => hn h) s

theorem dciApply_slot (s : State) (b : List Byte) (other : Bool) : slotBytes ((dciApply b other).run s) 4 = extended (slotBytes s 4) b := by
  have hvalid : (setF CONF_DCI_VALID 1).Within [] fun k => k = fldKey CONF_DCI_VALID 0 0 := by simp
  rw [dciApply_run, slotBytes_kept hvalid 4, slotBytes_extendSlot, dciShown_slot]
  rintro key hkey rfl
  have := slotKey_bounds (by decide) hkey
  revert this; decide

theorem extendSlot_conf (s : State) (k : Nat) (obj : List Byte) (f : Fld) (hb : f.blk = .conf) (ho : f.off < 4096) (hk : k < 8) :
    fv ((extendSlot k obj).run s) f = fv s f := by
  refine (extendSlot_within k obj).fv _ _ _ _ fun h => ?_
  have := slotKey_bounds hk h
  simp only [fldKey, regKey, hb, blkNum] at this
  omega

theorem dciApply_conf (s : State) (b : List Byte) (other : Bool) :
    fb ((dciApply b other).run s) CONF_DCI_VALID = true ∧ fv ((dciApply b other).run s) CONF_DCI_CODE = 0 ∧
    fv ((dciApply b other).run s) CONF_DCI_SEQ = cfSeq b % 2 ^ 32 ∧ fv ((dciApply b other).run s) CONF_DCI_CLAMPS = min 65535 (pass1 s 1 b).clamps.length := by
  rw [dciApply_run]
  have hext : ∀ u f, f.blk = .conf → f.off < 4096 → fv ((extendSlot 4 b).run u) f = fv u f := fun u f hb ho => extendSlot_conf u 4 b f hb ho (by decide)
  refine ⟨?_, ?_, ?_, ?_⟩
  · rw [fb_setF_self _ _ _ _ _ ⟨by decide, by decide⟩]; rfl
  · rw [fv_setF_other _ _ _ _ _ _ _ _ (by decide) (Or.inr (by decide)), hext _ _ rfl (by decide)]
    simp (disch := decide) only [dciShown, run_acts_cons, runs_nil, fv_onlyIf, fv_setF_other, ite_self, fv_setF_eq]
    rfl
  · rw [fv_setF_other _ _ _ _ _ _ _ _ (by decide) (Or.inl (by decide)), hext _ _ rfl (by decide)]
    simp (disch := decide) only [dciShown, run_acts_cons, runs_nil, fv_onlyIf, fv_setF_other, ite_self, fv_setF_eq]
    exact Nat.mod_mod _ _
  · rw [fv_setF_other _ _ _ _ _ _ _ _ (by decide) (Or.inr (by decide)), hext _ _ rfl (by decide)]
    simp (disch := decide) only [dciShown, run_acts_cons, runs_nil, fv_onlyIf, fv_setF_other, ite_self, fv_setF_eq]
    exact Nat.mod_eq_of_lt (lt_of_le_of_lt (Nat.min_le_left _ _) (by decide))

/-- The owner's measurement, the port and the end of the stage. -/
def stage3Rest (u : State) (up : Bool) : Act := acts [
  onlyIf u.nv.owner.isSome measureOwner, setF ENET_LINK_UP (b2n up), onlyIf up (raiseEvt enetPg (2 ^ 16)), bootStageDone 3, reLevel]

/-- The image's part of stage 3. -/
def dciStage (s : State) : Act :=
  match dciLoad s with
  | (some x, _) => dciApply x.1 x.2
  | (none, e) => setF CONF_DCI_CODE (errNum e)

theorem dciStage_none {s : State} {e : ErrCode} (h : dciLoad s = (none, e)) : dciStage s = setF CONF_DCI_CODE (errNum e) := by
  unfold dciStage
  rw [h]

theorem dciStage_some {s : State} {b : List Byte} {o : Bool} {e : ErrCode} (h : dciLoad s = (some (b, o), e)) : dciStage s = dciApply b o := by
  unfold dciStage
  rw [h]

theorem stage3_run (s : State) (up : Bool) (h : stageReady s 3) :
    (stage3 up).run s = (stage3Rest ((dciStage s).run s) up).run ((dciStage s).run s) := by
  rw [stage3, atStage_run h]
  rw [run_acts_cons, runs_look]
  change (acts _).run ((dciStage s).run s) = _
  simp only [run_acts_cons, runs_nil, runs_look, stage3Rest]

/-- The registers that the end of stage 3 touches. -/
abbrev stage3Keys (k : Nat) : Prop := slotKey 5 k ∨ k = fldKey ENET_LINK_UP 0 0 ∨ fallKeys k

theorem measureOwner_within : measureOwner.Within [] (slotKey 5) := by
  simp only [measureOwner, only_look_iff, only_acts_cons, only_acts_nil, and_true]
  exact fun s => ⟨extendSlot_within 5 _, extendSlot_within 5 _⟩

theorem stage3Rest_within (u : State) (up : Bool) : (stage3Rest u up).Within (.boot :: fabricParts) stage3Keys := by
  simp only [stage3Rest, only_acts_cons, only_acts_nil, only_onlyIf_iff, within_setF, and_true]
  exact ⟨fun _ => measureOwner_within.mono (by simp) fun _ h => Or.inl h, Or.inr (Or.inl rfl),
    fun _ => (raiseEvt_hdrOr _ _ (by decide) (by decide) (by decide)).regs fun _ h => Or.inr (Or.inr h),
    (updBoot_within _).mono (by decide) fun _ h => h.elim,
    reLevel_within.mono (fun _ h => List.mem_cons_of_mem _ h) fun _ h => Or.inr (Or.inr h)⟩

/-- The level is at least 1 with the port up, and 0 with it down. -/
theorem levelOf_pos (c : Nat) : 1 ≤ levelOf c := by unfold levelOf; split <;> [decide; split <;> decide]

/-- The end of stage 3 up to its level. -/
def stage3Port (u : State) (up : Bool) : Act := acts [
  onlyIf u.nv.owner.isSome measureOwner, setF ENET_LINK_UP (b2n up), onlyIf up (raiseEvt enetPg (2 ^ 16)), bootStageDone 3]

theorem stage3Rest_run (u v : State) (up : Bool) : (stage3Rest u up).run v = reLevel.run ((stage3Port u up).run v) := by
  simp only [stage3Rest, stage3Port, run_acts_cons, runs_nil]

theorem stage3Port_up (u v : State) (up : Bool) : fb ((stage3Port u up).run v) ENET_LINK_UP = up := by
  simp only [stage3Port, run_acts_cons, runs_nil]
  rw [bootStageDone, (updBoot_within _).fb _ _ _ _ fun h => h, fb, fv_onlyIf, fv_raiseEvt _ _ _ _ _ _ (by decide) (by decide), ite_self,
    fv_setF_eq _ _ _ _ _ (by decide) (by decide)]
  cases up <;> rfl

theorem bootStage3_row (s : State) (up : Bool) (h : stageReady s 3) : ∃ t, exec (.bootStage3 up) s = .next t ∧ t.boot.stage = 3 ∧
    fb t ENET_LINK_UP = up ∧ (up = true → pending t enetPg 16 ∧ 1 ≤ level t) ∧ (up = false → level t = 0) ∧
    (∀ e, dciLoad s = (none, e) → fv t CONF_DCI_CODE = errNum e % 256 ∧ fb t CONF_DCI_VALID = fb s CONF_DCI_VALID) ∧
    ∀ b o e, dciLoad s = (some (b, o), e) → fb t CONF_DCI_VALID = true ∧ fv t CONF_DCI_CODE = 0 ∧
      fv t CONF_DCI_SEQ = cfSeq b % 2 ^ 32 ∧ slotBytes t 4 = extended (slotBytes s 4) b ∧
      fv t CONF_DCI_CLAMPS = min 65535 (pass1 s 1 b).clamps.length := by
  have hrest := stage3Rest_within ((dciStage s).run s) up
  have hconf : ∀ f : Fld, f.blk = .conf → 0x40 ≤ f.off → f.off < 4096 → fv ((stage3 up).run s) f = fv ((dciStage s).run s) f := by
    intro f hb hlo hhi
    rw [stage3_run s up h]
    refine hrest.fv _ _ _ _ ?_
    rintro (hk | hk | hk)
    · have := slotKey_bounds (by decide) hk
      simp only [fldKey, regKey, hb, blkNum] at this
      omega
    · exact fldKey_ne_blk _ _ _ _ _ _ (by rw [hb]; decide) (by decide) (by decide) (by omega) (by decide) hk
    · exact not_hdrOr_fldKey f 0 0 (by rw [hb]; decide) (by decide) (by omega) (by omega) hk
  have hslot : slotBytes ((stage3 up).run s) 4 = slotBytes ((dciStage s).run s) 4 := by
    rw [stage3_run s up h]
    refine slotBytes_kept hrest 4 (fun key hkey => ?_) _
    rintro (hk | hk | hk)
    · have := slotKey_bounds (by decide) hk
      have := slotKey_bounds (by decide) hkey
      omega
    · rw [hk] at hkey
      have := slotKey_bounds (by decide) hkey
      revert this; decide
    · exact not_hdrOr_slot (by decide) (by decide) hkey hk
  have hrun : (stage3 up).run s = reLevel.run ((stage3Port ((dciStage s).run s) up).run ((dciStage s).run s)) := by
    rw [stage3_run s up h, stage3Rest_run]
  have hboot : ((stage3Port ((dciStage s).run s) up).run ((dciStage s).run s)).boot.stage = 3 := by
    simp only [stage3Port, run_acts_cons, runs_nil]
    exact congrArg Boot.stage (updBoot_boot _ _)
  have hlevel : level ((stage3 up).run s) = if up then levelOf (limitConds ((stage3Port ((dciStage s).run s) up).run ((dciStage s).run s))) else 0 := by
    rw [hrun, reLevel_level _ hboot.ge, stage3Port_up]
  refine ⟨(stage3 up).run s, rfl, ?_, ?_, fun hup => ⟨?_, ?_⟩, fun hup => ?_, fun e he => ?_, fun b o e he => ?_⟩
  · rw [hrun]
    exact (congrArg Boot.stage (reLevel_within.same .boot (by decide) _)).trans hboot
  · rw [hrun, reLevel_within.fb _ _ _ _ (not_hdrOr_fldKey _ _ _ (by decide) (by decide) (by decide) (by decide)), stage3Port_up]
  · rw [hrun]
    refine pending_reLevel _ _ _ ?_
    simp only [stage3Port, run_acts_cons, runs_nil]
    refine pending_of_noRegs enetPg 16 (updBoot_within _) _ ?_
    rw [run_onlyIf_of_true _ _ hup]
    exact pending_raiseEvt _ _ _ _ (by decide) (by decide)
  · rw [hlevel, hup]; exact levelOf_pos _
  · rw [hlevel, hup]; rfl
  · have hst : (dciStage s).run s = (setF CONF_DCI_CODE (errNum e)).run s := by rw [dciStage_none he]
    rw [fb, fb, hconf _ rfl (by decide) (by decide), hconf _ rfl (by decide) (by decide), hst]
    exact ⟨fv_setF_eq _ _ _ _ _ (by decide) (by decide), by rw [fv_setF_other _ _ _ _ _ _ _ _ (by decide) (Or.inr (by decide))]⟩
  · have hst : (dciStage s).run s = (dciApply b o).run s := by rw [dciStage_some he]
    obtain ⟨h1, h2, h3, h4⟩ := dciApply_conf s b o
    rw [← hst] at h1 h2 h3 h4
    refine ⟨?_, (hconf _ rfl (by decide) (by decide)).trans h2, (hconf _ rfl (by decide) (by decide)).trans h3, ?_,
      (hconf _ rfl (by decide) (by decide)).trans h4⟩
    · rw [fb, hconf _ rfl (by decide) (by decide)]; exact h1
    · rw [hslot, hst, dciApply_slot]

end Sys2Proof.Machine
end

section
/-! PROOF. ENABLE of a page and the state of a link through a change of level; units that come into service and the pages
enabled for them (R30, R407). -/

namespace Sys2Proof.Machine

/-! ### What a change of level leaves of ENABLE -/

/-- A register that is no PAGE_CTL. -/
abbrev noCtl (k : Nat) : Prop := k % 4096 ≠ 0x008

theorem noCtl_fld (f : Fld) (i n : Nat) (h : (f.off + n * f.stride) % 4096 ≠ 0x008) : noCtl (fldKey f i n) := by
  rw [noCtl, fldKey_mod]; exact h

theorem raiseEvt_noCtl {ps : List Part} (p : PageRef) (m : Nat) (he : Part.events ∈ ps) (ho : Part.out ∈ ps) : (raiseEvt p m).Within ps noCtl := by
  refine (raiseEvt_within p m).mono (by simp [he, ho]) ?_
  rintro k (rfl | rfl)
  · exact noCtl_fld _ _ _ (by simp [hdrEvtPend])
  · decide

theorem noCtl_of_send (k : Nat) (h : sendKeys k) : noCtl k := by
  rcases h with rfl | h | rfl
  · decide
  · rw [noCtl, h]; decide
  · decide

theorem healthNotice_noCtl (n : Notice) : (healthNotice n).Within [.events, .out] noCtl := by
  have hev : ∀ m, (raiseEvt hlthPage m).Within [.events, .out] noCtl := fun m => raiseEvt_noCtl _ _ (by decide) (by decide)
  cases n with
  | consumed p =>
    simp only [healthNotice, only_look_iff, only_acts_cons, only_acts_nil, within_incF, within_setF, and_true]
    exact fun s => ⟨by decide, by decide, by decide, by decide, by decide, hev _⟩
  | peerLost m =>
    simp only [healthNotice, only_acts_cons, only_acts_nil, within_incF, within_setF, and_true]
    exact ⟨by decide, by decide, by decide, hev _⟩
  | unbacked | auditLost | remapFull | flashRo =>
    simp only [healthNotice, only_acts_cons, only_acts_nil, within_incF, and_true]
    exact ⟨by decide, hev _⟩

theorem linkDownCore_noCtl (l : Nat) : (linkDownCore l).Within fabricParts noCtl := by
  have hsend : ∀ {a : Act}, a.Within fabricParts sendKeys → a.Within fabricParts noCtl := fun h => h.regs noCtl_of_send
  simp only [linkDownCore, only_look_iff, only_acts_cons, only_acts_nil, within_setF, cnt, within_incF, within_updLink, only_onlyIf_iff,
    only_emit_iff, only_each_iff, and_true, Upd.within]
  exact fun s => ⟨noCtl_fld _ _ _ (by decide), noCtl_fld _ _ _ (by decide), noCtl_fld _ _ _ (by decide), noCtl_fld _ _ _ (by decide),
    hsend (raiseEvt_sendKeys _ _), by decide, fun _ => ⟨by decide, fun _ => by decide⟩, fun _ _ => ⟨by decide, hsend (refuseMsg_sendKeys _ _)⟩,
    fun _ _ => (healthNotice_noCtl _).mono (by decide) (fun _ h => h), fun _ _ => hsend (forwardMsg_sendKeys _ _)⟩

theorem allLinksDown_noCtl : allLinksDown.Within fabricParts noCtl := by
  simp only [allLinksDown, only_look_iff, only_each_iff]
  exact fun s l _ => linkDownCore_noCtl l

theorem reLevel_noCtl : reLevel.Within fabricParts noCtl := by
  refine fun s => only_ite trivial ?_
  simp only [only_acts_cons, only_acts_nil, only_onlyIf_iff, only_look_iff, within_setF, and_true]
  exact ⟨by decide, fun _ => ⟨by decide, by decide, by decide, by decide, by decide, by decide, raiseEvt_noCtl _ _ (by decide) (by decide),
    fun _ => ⟨allLinksDown_noCtl, fun t => by decide⟩⟩⟩

theorem linkTrain_noCtl (l : Nat) : (linkTrain l).Within fabricParts noCtl := by
  simp only [linkTrain, linkDown, only_look_iff, only_onlyIf_iff, only_acts_cons, only_acts_nil, within_setF, and_true]
  exact ⟨fun _ _ => ⟨linkDownCore_noCtl l, reLevel_noCtl⟩, fun _ _ => noCtl_fld _ _ _ (by decide)⟩

/-! ### Links that train -/

section
variable {l : Nat}

/-- A link of the topology stays one. -/
theorem linkDownCore_used (hl : l < 256) (j : Nat) : (linkDownCore j).Stable fun s => linkState s l ≠ 5 := fun s hs => by
  change linkState ((linkDownCore j).run s) l ≠ 5
  by_cases h : l = j
  · rw [h, linkDownCore_state s j (h ▸ hl)]; decide
  · rw [linkState, linkDownCore_other s j LINK_LSTATE l 0 linkReg_lstate hl h]; exact hs

theorem reLevel_used (hl : l < 256) : reLevel.Stable fun s => linkState s l ≠ 5 := by
  have hset : ∀ f : Fld, ∀ v, f.blk = .hlth → f.off + 0 * f.stride < 4096 → (setF f v).Stable fun s => linkState s l ≠ 5 := fun f v hb ho s hs => by
    change linkState ((setF f v).run s) l ≠ 5
    rw [linkState, linkReg_hlth s f v LINK_LSTATE l 0 linkReg_lstate hl hb ho]; exact hs
  have hraise : ∀ m, (raiseEvt hlthPage m).Stable fun s => linkState s l ≠ 5 := fun m s hs => by
    change linkState ((raiseEvt hlthPage m).run s) l ≠ 5
    rw [linkState, linkReg_raiseEvt s _ _ LINK_LSTATE l 0 linkReg_lstate hl]; exact hs
  refine stable_look fun s => ?_
  split
  · exact fun _ h => h
  · refine stable_cons (hset _ _ rfl (by decide)) (stable_cons (stable_onlyIf fun _ => stable_cons (hset _ _ rfl (by decide))
      (stable_cons (hset _ _ rfl (by decide)) (stable_cons (hset _ _ rfl (by decide)) (stable_cons
        (hset _ _ rfl (by decide)) (stable_cons (hset _ _ rfl (by decide)) (stable_cons (hset _ _ rfl (by decide))
          (stable_cons (hraise _) (stable_cons (stable_onlyIf fun _ => ?_) stable_nil)))))))) stable_nil)
    exact stable_cons (stable_look fun _ => stable_each fun j _ => linkDownCore_used hl j)
      (stable_cons (stable_look fun t => hset _ _ rfl (by decide)) stable_nil)

theorem linkDown_used (hl : l < 256) (j : Nat) : (linkDown j).Stable fun s => linkState s l ≠ 5 :=
  stable_look fun _ => stable_onlyIf fun _ => stable_cons (linkDownCore_used hl j) (stable_cons (reLevel_used hl) stable_nil)

/-- A link trains, or stands at FAULT. -/
abbrev trainsOrFault (s : State) (l : Nat) : Prop := linkState s l = 1 ∨ linkState s l = 3

theorem setLstate_self (s : State) (c : Bool) (l : Nat) : trainsOrFault ((setF LINK_LSTATE (if c then 1 else 3) l).run s) l := by
  rw [trainsOrFault, linkState, fv_setF_eq _ _ _ _ _ (by decide) (by decide)]
  cases c
  · exact Or.inr rfl
  · exact Or.inl rfl

theorem linkTrain_used (hl : l < 256) (j : Nat) : (linkTrain j).Stable fun s => linkState s l ≠ 5 := by
  refine stable_cons (linkDown_used hl j) (stable_cons (stable_look fun u => stable_onlyIf fun _ s hs => ?_) stable_nil)
  by_cases h : l = j
  · subst h
    rcases setLstate_self s (mayTrain u l) l with h' | h' <;> rw [h'] <;> decide
  · rw [setF_lstate_other s l j _ h]; exact hs

theorem linkTrain_trains (hl : l < 256) (s : State) (hs : linkState s l ≠ 5) : trainsOrFault ((linkTrain l).run s) l := by
  have h5 := linkDown_used hl l s hs
  rw [linkTrain, run_acts_cons, run_acts_cons, runs_nil, runs_look, run_onlyIf_of_true _ _ (by simpa using h5)]
  exact setLstate_self _ _ l

theorem reLevel_trains (hl : l < 256) : reLevel.Stable fun s => trainsOrFault s l := fun s hs => by
  change trainsOrFault (reLevel.run s) l
  rw [trainsOrFault, linkState, reLevel_other s LINK_LSTATE l 0 linkReg_lstate hl (by rcases hs with h | h <;> rw [h] <;> decide)]
  exact hs

theorem linkDown_trains (hl : l < 256) (j : Nat) : (linkDown j).Stable fun s => trainsOrFault s l := by
  refine stable_look fun u => stable_onlyIf fun _ => stable_cons (fun s hs => ?_) (stable_cons (reLevel_trains hl) stable_nil)
  by_cases h : l = j
  · exact Or.inr (by rw [h, linkDownCore_state s j (h ▸ hl)])
  · rw [trainsOrFault, linkState, linkDownCore_other s j LINK_LSTATE l 0 linkReg_lstate hl h]; exact hs

theorem linkTrain_stays (hl : l < 256) (j : Nat) : (linkTrain j).Stable fun s => trainsOrFault s l := by
  refine stable_cons (linkDown_trains hl j) (stable_cons (stable_look fun u => stable_onlyIf fun _ s hs => ?_) stable_nil)
  by_cases h : l = j
  · subst h
    exact setLstate_self s (mayTrain u l) l
  · rw [trainsOrFault, setF_lstate_other s l j _ h]; exact hs

/-- Every link of a list that the topology uses trains, or stands at FAULT, once they all have been trained. -/
theorem each_linkTrain (hl : l < 256) (L : List Nat) (hL : l ∈ L) (s : State) (hs : linkState s l ≠ 5) : trainsOrFault ((each L linkTrain).run s) l := by
  induction L generalizing s with
  | nil => exact absurd hL (by simp)
  | cons j L ih =>
    rw [run_each_cons]
    by_cases h : l = j
    · subst h
      exact stable_each (fun j _ => linkTrain_stays hl j) _ (linkTrain_trains hl s hs)
    · exact ih ((List.mem_cons.1 hL).resolve_left h) _ (linkTrain_used hl j s hs)

end

/-! ### Units and their pages -/

theorem mem_unitsRise (l : List UnitId) (s : State) (u : UnitId) : u ∈ ((unitsRise l).run s).units.up ↔ u ∈ s.units.up ∨ u ∈ l := by
  change u ∈ s.units.up ++ l.filter (fun x => !s.units.up.contains x) ↔ _
  rw [List.mem_append, List.mem_filter]
  by_cases h : u ∈ s.units.up <;> simp [h]

theorem unitsRise_within (l : List UnitId) : (unitsRise l).Within [.units] fun _ => False := by simp [unitsRise]

theorem enablePages_within (l : List PageRef) : (enablePages l).Within [] fun k => k % 4096 = 0x008 :=
  (only_each_iff _ _ _).2 fun _ _ => (within_setF _ _ _ _).2 (fldKey_mod _ _ _)

theorem enable_stays (p q : PageRef) : (setF (hdrEnable q.blk) 1 q.idx).Stable fun s => enabled s p = true := fun s hs => by
  change enabled ((setF (hdrEnable q.blk) 1 q.idx).run s) p = true
  by_cases h : fldKey (hdrEnable p.blk) p.idx 0 = fldKey (hdrEnable q.blk) q.idx 0
  · have hsame : ∀ u, enabled u p = enabled u q := fun u => by rw [enabled, enabled, fb, fb, fv, fv, h]; rfl
    rw [hsame]
    exact fb_setF_self s _ 1 _ _ ⟨by simp [hdrEnable], by simp [hdrEnable]⟩
  · rw [enabled, fb_setF_other s _ _ _ _ _ _ _ (by simp [hdrEnable]) (Or.inl h)]; exact hs

theorem enablePages_mem (l : List PageRef) (p : PageRef) (hp : p ∈ l) (s : State) : enabled ((enablePages l).run s) p = true := by
  induction l generalizing s with
  | nil => exact absurd hp (by simp)
  | cons q l ih =>
    rw [enablePages, run_each_cons]
    rcases List.mem_cons.1 hp with rfl | h
    · exact stable_each (fun q _ => enable_stays p q) _ (fb_setF_self s _ 1 _ _ ⟨by simp [hdrEnable], by simp [hdrEnable]⟩)
    · exact ih h _

theorem enabled_kept {ps : List Part} {a : Act} (h : a.Within ps noCtl) (s : State) (p : PageRef) : enabled (a.run s) p = enabled s p :=
  h.fb s _ _ _ fun hk => hk (fldKey_mod _ _ _)

end Sys2Proof.Machine
end

section
/-! PROOF. Boot's last three stages (R407), and that no stage runs before the one before it. -/

namespace Sys2Proof.Machine

/-! ### Stage 4 -/

/-- The registers that repairing a remap touches. -/
abbrev repairKeys (k : Nat) : Prop := k % 4096 = 0x0BC ∨ 0x200 ≤ k % 4096 ∧ k % 4096 < 0x300

theorem repairOne_within (x : Nat × Nat) (hard : Bool) : (repairOne x hard).Within [.nv] repairKeys := by
  have hslot : ∀ f : Fld, ∀ i r, f.off = 0x200 → f.stride = 8 → r < 32 → repairKeys (fldKey f i r) := fun f i r ho hs hr => by
    rw [repairKeys, fldKey_mod, ho, hs]; omega
  have hcnt : ∀ f : Fld, ∀ i, f.off = 0x0BC → repairKeys (fldKey f i 0) := fun f i ho => by
    rw [repairKeys, fldKey_mod, ho]; omega
  refine fun s => only_ite ?_ ?_
  · simp only [only_acts_cons, only_acts_nil, within_setF, and_true]
    exact ⟨hcnt _ _ rfl, by simp [updNv, Upd.within]⟩
  · split
    · rename_i r hr
      have hr : r < 32 := List.mem_range.1 (List.mem_of_find?_eq_some hr)
      simp only [only_onlyIf_iff, only_acts_cons, only_acts_nil, within_setF, and_true]
      exact fun _ => ⟨hslot _ _ _ rfl rfl hr, hslot _ _ _ rfl rfl hr, hcnt _ _ rfl⟩
    · trivial

/-- Logged repairs are applied. -/
def repairsDone (s : State) (hard : List Bool) : Act := each s.nv.repairs.zipIdx fun x => repairOne x.1 (hard.getD x.2 false)

theorem repairsDone_within (s : State) (hard : List Bool) : (repairsDone s hard).Within [.nv] repairKeys :=
  (only_each_iff _ _ _).2 fun _ _ => repairOne_within _ _

/-- The pages of the HBM sites that train. -/
def stackPages (l : List Nat) : List PageRef := l.flatMap fun n => [⟨.hbmc, n⟩, ⟨.intg, 176 + n⟩]

/-- The last part of stage 4: repairs, the stacks and their pages. -/
def stacksRise (s : State) (st : List Nat) (hard : List Bool) : Act := acts [
  repairsDone s hard, unitsRise (((hbmSites s.build).filter st.contains).map .stack),
  enablePages (stackPages ((hbmSites s.build).filter st.contains)), bootStageDone 4, reLevel]

theorem stage4_run (s : State) (st : List Nat) (hard : List Bool) (h : stageReady s 4) (x : List Byte × Bool) (hx : fwLoad s 4 = some x) :
    (stage4 st hard).run s = (stacksRise ((fwMeasured 4 3 x).run s) st hard).run ((fwMeasured 4 3 x).run s) := by
  rw [stage4, atStage_run h, run_acts_cons, fwStart_some hx]
  simp only [stacksRise, run_acts_cons, runs_nil, runs_look, repairsDone, stackPages]

theorem stage4_run_none (s : State) (st : List Nat) (hard : List Bool) (h : stageReady s 4) (hx : fwLoad s 4 = none) :
    (stage4 st hard).run s = reLevel.run ((bootStageDone 4).run s) := by
  rw [stage4, atStage_run h, run_acts_cons, fwStart_none hx]
  simp only [run_acts_cons, runs_nil, Act.run_done]

/-- What ends every stage from the third on: the stage is noted and the level follows. -/
def stageEnd (n : Nat) : Act := acts [bootStageDone n, reLevel]

theorem stageEnd_stage (n : Nat) (u : State) : ((stageEnd n).run u).boot.stage = n := by
  simp only [stageEnd, run_acts_cons, runs_nil]
  exact congrArg Boot.stage ((reLevel_within.same .boot (by decide) _).trans (updBoot_boot _ _))

theorem stageEnd_units (n : Nat) (u : State) : ((stageEnd n).run u).units = u.units := by
  simp only [stageEnd, run_acts_cons, runs_nil]
  exact (reLevel_within.same .units (by decide) _).trans ((updBoot_within _).same .units (by decide) u)

theorem stageEnd_enabled (n : Nat) (u : State) (p : PageRef) : enabled ((stageEnd n).run u) p = enabled u p := by
  simp only [stageEnd, run_acts_cons, runs_nil]
  rw [enabled_kept reLevel_noCtl, bootStageDone, enabled_kept ((updBoot_within _).regs fun _ h => h.elim)]

theorem stageEnd_slot (n : Nat) (u : State) (k : Nat) (hk : k < 8) : slotBytes ((stageEnd n).run u) k = slotBytes u k := by
  simp only [stageEnd, run_acts_cons, runs_nil]
  rw [slotBytes_kept reLevel_within k fun _ => not_hdrOr_slot (by decide) hk, bootStageDone, slotBytes_kept (updBoot_within _) k fun _ _ h => h]

theorem unitsRise_slot (l : List UnitId) (u : State) (k : Nat) : slotBytes ((unitsRise l).run u) k = slotBytes u k :=
  slotBytes_kept (unitsRise_within l) k (fun _ _ h => h) u

theorem enablePages_slot (l : List PageRef) (u : State) (k : Nat) (hk : k < 8) : slotBytes ((enablePages l).run u) k = slotBytes u k :=
  slotBytes_kept (enablePages_within l) k (fun key h he => by have := slotKey_bounds hk h; omega) u

theorem bootStage4_row (s : State) (st : List Nat) (hard : List Bool) (h : stageReady s 4) : ∃ t, exec (.bootStage4 st hard) s = .next t ∧
    t.boot.stage = 4 ∧ (fwLoad s 4 = none → t.units.up = s.units.up) ∧
    ∀ x, fwLoad s 4 = some x → slotBytes t 3 = extended (slotBytes s 3) x.1 ∧ ∀ n ∈ st, isHbmSite s.build n = true →
      .stack n ∈ t.units.up ∧ enabled t ⟨.hbmc, n⟩ = true ∧ enabled t ⟨.intg, 176 + n⟩ = true := by
  refine ⟨(stage4 st hard).run s, rfl, ?_⟩
  cases hx : fwLoad s 4 with
  | none =>
    have hrun : (stage4 st hard).run s = (stageEnd 4).run s := by
      rw [stage4_run_none s st hard h hx]; simp only [stageEnd, run_acts_cons, runs_nil]
    rw [hrun]
    exact ⟨stageEnd_stage 4 s, fun _ => by rw [stageEnd_units], fun x hx' => absurd hx' (by simp)⟩
  | some x =>
    have hw := fwMeasured_within 4 3 x
    have hbuild : ((fwMeasured 4 3 x).run s).build = s.build := hw.build s
    have hslot := fwMeasured_slot s 4 3 x (by decide)
    have hrun := stage4_run s st hard h x hx
    generalize (fwMeasured 4 3 x).run s = u at hrun hbuild hslot
    have hrun' : (stage4 st hard).run s = (stageEnd 4).run ((enablePages (stackPages ((hbmSites u.build).filter st.contains))).run
        ((unitsRise (((hbmSites u.build).filter st.contains).map .stack)).run ((repairsDone u hard).run u))) := by
      rw [hrun]; simp only [stacksRise, stageEnd, run_acts_cons, runs_nil]
    rw [hrun']
    refine ⟨stageEnd_stage 4 _, fun hn => absurd hn (by simp), fun y hy => ?_⟩
    obtain rfl := Option.some.inj hy
    refine ⟨?_, fun n hn hsite => ?_⟩
    · rw [stageEnd_slot _ _ _ (by decide), enablePages_slot _ _ _ (by decide), unitsRise_slot, slotBytes_kept (repairsDone_within u hard) 3, hslot]
      intro key hkey hk
      have := slotKey_bounds (by decide) hkey
      omega
    · have hmem : n ∈ (hbmSites u.build).filter st.contains := by
        rw [List.mem_filter, hbuild, hbmSites, rangeF, List.mem_filter, List.mem_range]
        exact ⟨⟨isHbmSite_lt s.build n hsite, hsite⟩, by simpa using hn⟩
      have hpages : ∀ p : PageRef, p = ⟨.hbmc, n⟩ ∨ p = ⟨.intg, 176 + n⟩ → p ∈ stackPages ((hbmSites u.build).filter st.contains) :=
        fun p hp => List.mem_flatMap.2 ⟨n, hmem, by simpa using hp⟩
      refine ⟨?_, ?_, ?_⟩
      · rw [stageEnd_units, (enablePages_within _).same .units (by decide)]
        exact (mem_unitsRise _ _ _).2 (Or.inr (List.mem_map.2 ⟨n, hmem, rfl⟩))
      · rw [stageEnd_enabled]
        exact enablePages_mem _ _ (hpages _ (Or.inl rfl)) _
      · rw [stageEnd_enabled]
        exact enablePages_mem _ _ (hpages _ (Or.inr rfl)) _

/-! ### Stage 5 -/

/-- What a failed proof at boot records, and that its unit is retired. -/
def bootFailed (kind idx phase : Nat) (u : UnitId) : Act :=
  acts [proofFailed kind idx phase 2, retireBit u, cnt HLTH_HLCNT 3, raiseEvt hlthPage (2 ^ 18)]

theorem bootFail_run (s : State) (kind idx phase : Nat) : (bootFail kind idx phase).run s =
    match proofUnit s.build kind idx with | some u => (bootFailed kind idx phase u).run s | none => s := by
  rw [bootFail, runs_look]
  cases proofUnit s.build kind idx <;> rfl

theorem proofFailed_noRet (kind idx phase stage : Nat) : (proofFailed kind idx phase stage).Within [.events, .out] noRet := by
  have hf : ∀ f : Fld, ∀ n, f.off + n * f.stride < 4096 → (f.off + n * f.stride < 0x60 ∨ 0x80 ≤ f.off + n * f.stride) → noRet (fldKey f 0 n) :=
    fun f n ho h => noRet_fldKey f 0 n ho h
  simp only [proofFailed, cnt, only_acts_cons, only_acts_nil, only_look_iff, within_incF, within_setF, and_true]
  exact ⟨hf _ _ (by decide) (by decide), fun _ => ⟨hf _ _ (by decide) (by decide), hf _ _ (by decide) (by decide), hf _ _ (by decide) (by decide),
    hf _ _ (by decide) (by decide), hf _ _ (by decide) (by decide), hf _ _ (by decide) (by decide)⟩, raiseEvt_noRet _ _ (by decide) (by decide)⟩

theorem retireBit_within (u : UnitId) : (retireBit u).Within [] fun _ => True := by
  cases u <;> simp [retireBit]

theorem bootFail_parts (kind idx phase : Nat) : (bootFail kind idx phase).Within [.events, .out] fun _ => True := by
  intro s
  dsimp only
  split
  · simp only [only_acts_cons, only_acts_nil, cnt, within_incF, and_true]
    exact ⟨(proofFailed_noRet _ _ _ _).regs fun _ _ => trivial, (retireBit_within _).mono (by simp) fun _ h => h, trivial,
      (raiseEvt_within _ _).mono (by decide) fun _ _ => trivial⟩
  · trivial

theorem tileRetired_noRet {ps : List Part} {a : Act} (h : a.Within ps noRet) (s : State) (p : Nat) (hp : p < 160) :
    tileRetired (a.run s) p = tileRetired s p := by
  have hk : ¬ noRet (fldKey HLTH_RET_TILE 0 (p / 32)) := not_not.2 (retReg_fldKey HLTH_RET_TILE (p / 32) rfl (by simp only [HLTH_RET_TILE]; omega)
    (by simp only [HLTH_RET_TILE]; omega))
  unfold tileRetired
  rw [h.fv _ _ _ _ hk]

theorem bit_setBit (v i j : Nat) (hi : i < 32) (hj : j < 32) : bit (setBit v i true % 2 ^ 32) j = (bit v j || decide (j = i)) := by
  rw [bit, Nat.testBit_mod_two_pow, setBit, testBit_setBits, bit]
  by_cases h : j = i
  · simp [h, hi, b2n]
  · rw [if_neg (by omega)]; simp [h, hj]

theorem retireTile_run (u : State) (q : Nat) : (retireBit (.tile q)).run u = (setF HLTH_RET_TILE (setBit (fv u HLTH_RET_TILE 0 (q / 32)) (q % 32) true) 0 (q / 32)).run u :=
  (rfl)

/-- A tile's bit of the retired tiles is set, and no other. -/
theorem retireBit_tile (u : State) (q p : Nat) : tileRetired ((retireBit (.tile q)).run u) p = (tileRetired u p || decide (p = q)) := by
  rw [retireTile_run, tileRetired, tileRetired]
  by_cases h : p / 32 = q / 32
  · rw [h, fv_setF_eq _ _ _ _ _ (by decide) (by decide)]
    refine (bit_setBit _ _ _ (Nat.mod_lt _ (by decide)) (Nat.mod_lt _ (by decide))).trans ?_
    rw [show decide (p % 32 = q % 32) = decide (p = q) from decide_eq_decide.2 ⟨fun _ => by omega, fun h => by rw [h]⟩]
  · have hne : fldKey HLTH_RET_TILE 0 (p / 32) ≠ fldKey HLTH_RET_TILE 0 (q / 32) := by
      simp only [fldKey, regKey, HLTH_RET_TILE]; omega
    rw [fv_setF_other _ _ _ _ _ _ _ _ (by decide) (Or.inl hne)]
    have : p ≠ q := fun hpq => h (by rw [hpq])
    simp [this]

theorem retireBit_other (u : UnitId) (hu : ∀ q, u ≠ .tile q) (s : State) (p : Nat) (hp : p < 160) : tileRetired ((retireBit u).run s) p = tileRetired s p := by
  have hset : ∀ f : Fld, ∀ v, f.blk = .hlth → f.hi < 64 → f.off + 0 * f.stride ≠ 0x60 + (p / 32) * 4 → tileRetired ((setF f v).run s) p = tileRetired s p := fun f v hb hf ho => by
    unfold tileRetired
    rw [fv_setF_page s f HLTH_RET_TILE v 0 0 (p / 32) (hb ▸ rfl) hf (Or.inl (Ne.symm ho))]
  cases u with
  | tile q => exact absurd rfl (hu q)
  | ue n => exact hset HLTH_RET_UE _ rfl (by decide) (by simp only [HLTH_RET_UE]; omega)
  | solv e => exact hset HLTH_RET_SOLV _ rfl (by decide) (by simp only [HLTH_RET_SOLV]; omega)
  | linkDie n => exact hset HLTH_RET_LINKDIE _ rfl (by decide) (by simp only [HLTH_RET_LINKDIE]; omega)
  | _ => rfl

theorem proofUnit_tile {b : Build} {kind idx p : Nat} (h : proofUnit b kind idx = some (.tile p)) : kind = 0 ∧ idx = p := by
  unfold proofUnit at h
  split at h
  · split at h
    · exact ⟨rfl, by simpa using h⟩
    · exact absurd h (by simp)
  · split at h <;> exact absurd h (by simp)
  · split at h <;> exact absurd h (by simp)
  · exact absurd h (by simp)

theorem bootFailed_tile (kind idx phase : Nat) (u : UnitId) (s : State) (p : Nat) (hp : p < 160) :
    tileRetired ((bootFailed kind idx phase u).run s) p = (tileRetired s p || decide (u = .tile p)) := by
  have htail : (acts [cnt HLTH_HLCNT 3, raiseEvt hlthPage (2 ^ 18)]).Within [.events, .out] noRet := by
    simp only [only_acts_cons, only_acts_nil, cnt, within_incF, and_true]
    exact ⟨noRet_fldKey _ _ _ (by decide) (by decide), raiseEvt_noRet _ _ (by decide) (by decide)⟩
  rw [bootFailed, run_acts_cons, run_acts_cons, tileRetired_noRet htail _ _ hp]
  by_cases hu : ∃ q, u = .tile q
  · obtain ⟨q, rfl⟩ := hu
    rw [retireBit_tile, tileRetired_noRet (proofFailed_noRet _ _ _ _) _ _ hp]
    congr 1
    exact decide_eq_decide.2 ⟨fun h => by rw [h], fun h => (UnitId.tile.inj h).symm⟩
  · rw [retireBit_other u (fun q hq => hu ⟨q, hq⟩) _ _ hp, tileRetired_noRet (proofFailed_noRet _ _ _ _) _ _ hp,
      decide_eq_false fun h => hu ⟨p, h⟩, Bool.or_false]

/-- A tile is retired after a failed proof at boot if it was, or if it is the one that failed. -/
theorem bootFail_tile (kind idx phase : Nat) (s : State) (p : Nat) (hp : p < 160) :
    tileRetired ((bootFail kind idx phase).run s) p = (tileRetired s p || decide (kind = 0 ∧ idx = p)) := by
  rw [bootFail_run]
  cases hu : proofUnit s.build kind idx with
  | none =>
    have hne : ¬ (kind = 0 ∧ idx = p) := fun ⟨hk, hi⟩ => by subst hk hi; simp [proofUnit, hp] at hu
    rw [decide_eq_false hne, Bool.or_false]
  | some u =>
    dsimp only
    rw [bootFailed_tile _ _ _ _ _ _ hp]
    congr 1
    refine decide_eq_decide.2 ⟨fun h => proofUnit_tile (h ▸ hu), fun ⟨hk, hi⟩ => ?_⟩
    subst hk hi
    rw [proofUnit, if_pos hp] at hu
    exact (Option.some.inj hu).symm

/-- The failed units are retired. -/
def bootFails (f : List (Nat × Nat × Nat)) : Act := each f fun x => bootFail x.1 x.2.1 x.2.2

theorem bootFails_parts (f : List (Nat × Nat × Nat)) : (bootFails f).Within [.events, .out] fun _ => True :=
  (only_each_iff _ _ _).2 fun _ _ => bootFail_parts _ _ _

theorem bootFails_tile (f : List (Nat × Nat × Nat)) (s : State) (p : Nat) (hp : p < 160) :
    tileRetired ((bootFails f).run s) p = true ↔ tileRetired s p = true ∨ ∃ x ∈ f, x.1 = 0 ∧ x.2.1 = p := by
  induction f generalizing s with
  | nil => simp [bootFails]
  | cons x f ih =>
    rw [bootFails, run_each_cons]
    refine (ih _).trans ?_
    rw [bootFail_tile _ _ _ _ _ hp, Bool.or_eq_true, decide_eq_true_iff]
    simp only [List.mem_cons, exists_eq_or_imp]
    tauto

theorem bootSwap_within (k : Nat) : (bootSwap k).Within [.units] fun _ => False := fun s => by
  refine only_onlyIf _ _ _ fun _ => ?_
  split
  · exact fun u => by simp
  · trivial

theorem bootSwap_units (k : Nat) : (bootSwap k).Keeps fun s => (s.units.up, s.units.failed) := by
  refine keeps_look _ fun s => keeps_onlyIf _ _ ?_
  split
  · exact fun u => rfl
  · exact fun u => rfl

/-- The presented IDs of failed tiles are backed by spares. -/
def bootSwaps : Act := each (List.range 144) bootSwap

theorem bootSwaps_within : bootSwaps.Within [.units] fun _ => False := (only_each_iff _ _ _).2 fun k _ => bootSwap_within k

theorem bootSwaps_units (s : State) : (bootSwaps.run s).units.up = s.units.up ∧ (bootSwaps.run s).units.failed = s.units.failed := by
  have h := keeps_each (O := fun s => (s.units.up, s.units.failed)) (List.range 144) _ (fun k => bootSwap_units k) s
  exact ⟨congrArg Prod.fst h, congrArg Prod.snd h⟩

/-- The tiles that come into service. -/
def tilesRising (u : State) : List Nat := rangeF 160 fun p => unitOk u (.net (p / 80)) && !tileRetired u p

/-- The Update Engines that come into service. -/
def uesRising (u : State) : List Nat := (hbmSites u.build).filter fun n => hbmInService u n && !unitRetired u (.ue n)

/-- The Solver Engines that come into service. -/
def solvsRising (u : State) : List Nat := rangeF 16 fun e => unitOk u (.net (e / 8)) && !unitRetired u (.solv e)

/-- The units that come into service with stage 5. -/
def unitsRising (u : State) : List UnitId := (tilesRising u).map .tile ++ (uesRising u).map .ue ++ (solvsRising u).map .solv

/-- The pages that stage 5 enables. -/
def pagesRising (u : State) : List PageRef := (tilesRising u).flatMap tilePages ++ (uesRising u).map (⟨.updt, ·⟩) ++
  (solvsRising u).flatMap (fun e => [⟨.solv, e⟩, ⟨.intg, 160 + e⟩]) ++ (rangeF 2 fun d => unitOk u (.net d)).map (⟨.powrDie, ·⟩)

theorem stage5_run (s : State) (f : List (Nat × Nat × Nat)) (h : stageReady s 5) :
    (stage5 f).run s = (stageEnd 5).run ((enablePages (pagesRising (bootSwaps.run ((bootFails f).run s)))).run
      ((unitsRise (unitsRising (bootSwaps.run ((bootFails f).run s)))).run (bootSwaps.run ((bootFails f).run s)))) := by
  rw [stage5, atStage_run h]
  simp only [run_acts_cons, runs_nil, runs_look, bootFails, bootSwaps, stageEnd, pagesRising, unitsRising, tilesRising, uesRising, solvsRising]

theorem tile_mem_rising (u : State) (p : Nat) : .tile p ∈ unitsRising u ↔ p ∈ tilesRising u := by
  simp [unitsRising]

theorem tilePage_mem (p : Nat) : (⟨.tile, p⟩ : PageRef) ∈ tilePages p :=
  List.mem_filterMap.2 ⟨0, by decide, rfl⟩

theorem stageEnd_tile (n : Nat) (u : State) (p : Nat) (hp : p < 160) : tileRetired ((stageEnd n).run u) p = tileRetired u p := by
  simp only [stageEnd, run_acts_cons, runs_nil]
  rw [tileRetired_noRet reLevel_noRet _ p hp, bootStageDone, tileRetired_noRet ((updBoot_within _).regs fun _ h => h.elim) _ p hp]

theorem bootStage5_row (s : State) (f : List (Nat × Nat × Nat)) (h : stageReady s 5) : ∃ t, exec (.bootStage5 f) s = .next t ∧ t.boot.stage = 5 ∧
    ∀ p, p < 160 →
      ((∃ x ∈ f, x.1 = 0 ∧ x.2.1 = p) → tileRetired t p = true ∧ (.tile p ∈ t.units.up ↔ .tile p ∈ s.units.up)) ∧
      ((∀ x ∈ f, x.1 = 0 → x.2.1 ≠ p) → unitOk s (.net (p / 80)) = true → tileRetired s p = false →
        .tile p ∈ t.units.up ∧ enabled t ⟨.tile, p⟩ = true) := by
  refine ⟨(stage5 f).run s, rfl, by rw [stage5_run s f h, stageEnd_stage], fun p hp => ?_⟩
  have hunits : ((bootFails f).run s).units = s.units := (bootFails_parts f).same .units (by decide) s
  obtain ⟨hup, hfailed⟩ := bootSwaps_units ((bootFails f).run s)
  rw [hunits] at hup hfailed
  have htile : tileRetired (bootSwaps.run ((bootFails f).run s)) p = true ↔ tileRetired s p = true ∨ ∃ x ∈ f, x.1 = 0 ∧ x.2.1 = p := by
    rw [tileRetired_noRet (bootSwaps_within.regs fun _ h => h.elim) _ p hp, bootFails_tile f s p hp]
  have hrun := stage5_run s f h
  generalize bootSwaps.run ((bootFails f).run s) = u at hup hfailed htile hrun
  have hmem : ∀ x, x ∈ ((stage5 f).run s).units.up ↔ x ∈ s.units.up ∨ x ∈ unitsRising u := fun x => by
    rw [hrun, stageEnd_units, (enablePages_within _).same .units (by decide), mem_unitsRise, hup]
  have hrising : p ∈ tilesRising u ↔ unitOk s (.net (p / 80)) = true ∧ tileRetired u p = false := by
    rw [tilesRising, rangeF, List.mem_filter, List.mem_range]
    simp [hp, unitOk, hfailed, unitRetired]
  refine ⟨fun hf => ⟨?_, ?_⟩, fun hf hok hret => ?_⟩
  · rw [hrun, stageEnd_tile _ _ p hp, tileRetired_noRet ((enablePages_within _).regs fun k hk => noRet_off k (Or.inl (by omega))) _ p hp,
      tileRetired_noRet ((unitsRise_within _).regs fun _ h => h.elim) _ p hp]
    exact htile.2 (Or.inr hf)
  · rw [hmem, tile_mem_rising, hrising, htile.2 (Or.inr hf)]
    simp
  · have hnot : tileRetired u p = false := by
      rw [Bool.eq_false_iff]
      intro hr
      rcases htile.1 hr with hr | ⟨x, hx, h0, hxp⟩
      · rw [hret] at hr; exact absurd hr (by decide)
      · exact hf x hx h0 hxp
    have hp' : p ∈ tilesRising u := hrising.2 ⟨hok, hnot⟩
    refine ⟨(hmem _).2 (Or.inr ((tile_mem_rising u p).2 hp')), ?_⟩
    rw [hrun, stageEnd_enabled]
    refine enablePages_mem _ _ ?_ _
    simp only [pagesRising, List.mem_append]
    exact Or.inl (Or.inl (Or.inl (List.mem_flatMap.2 ⟨p, hp', tilePage_mem p⟩)))

/-! ### Stage 6 -/

/-- The link dies that come into service. -/
def linkDiesRising (u : State) (f : List Nat) : List Nat :=
  (linkSites u.build).filter fun n => !f.contains n && unitOk u (.net (dieOfSite n)) && unitOk u (.linkDie n)

/-- The links of link dies. -/
def linksRising (u : State) (f : List Nat) : List Nat := rangeF (nLinks u.build) fun i => (linkDiesRising u f).contains (linkSite u.build i)

/-- The pages of link dies and of their links. -/
def linkPages (u : State) (f : List Nat) : List PageRef :=
  (linkDiesRising u f).flatMap (fun n => [⟨.shef, n⟩, ⟨.intg, 188 + n⟩]) ++ (linksRising u f).map (⟨.link, ·⟩)

theorem stage6_run (s : State) (f : List Nat) (h : stageReady s 6) (hdci : fb s CONF_DCI_VALID = true) (x : List Byte × Bool)
    (hx : fwLoad s 3 = some x) : (stage6 f).run s = (stageEnd 6).run ((each (linksRising ((fwMeasured 3 2 x).run s) f) linkTrain).run
      ((enablePages (linkPages ((fwMeasured 3 2 x).run s) f)).run
        ((unitsRise ((linkDiesRising ((fwMeasured 3 2 x).run s) f).map .linkDie)).run ((fwMeasured 3 2 x).run s)))) := by
  rw [stage6, atStage_run h, runs_look, run_onlyIf_of_true _ _ hdci, run_acts_cons, fwStart_some hx]
  simp only [run_acts_cons, runs_nil, runs_look, stageEnd, linkPages, linksRising, linkDiesRising]

theorem stage6_run_none (s : State) (f : List Nat) (h : stageReady s 6) (hdci : fb s CONF_DCI_VALID = true) (hx : fwLoad s 3 = none) :
    (stage6 f).run s = (stageEnd 6).run s := by
  rw [stage6, atStage_run h, runs_look, run_onlyIf_of_true _ _ hdci, run_acts_cons, fwStart_none hx, Act.run_done]
  simp only [stageEnd]

theorem linkTrain_within (l : Nat) (hl : l < 256) : (linkTrain l).Within fabricParts fallKeys := by
  simp only [linkTrain, only_look_iff, only_onlyIf_iff, only_acts_cons, only_acts_nil, within_setF, and_true]
  exact ⟨linkDown_within l hl, fun _ _ => fallKeys_link _ _ _ rfl hl (by decide)⟩

theorem trained_within (u : State) (f : List Nat) : (each (linksRising u f) linkTrain).Within fabricParts fallKeys :=
  (only_each_iff _ _ _).2 fun l hl => linkTrain_within l (linkSite_mem_lt hl)

theorem trained_noCtl (L : List Nat) : (each L linkTrain).Within fabricParts noCtl := (only_each_iff _ _ _).2 fun l _ => linkTrain_noCtl l

theorem linkDie_ok_measured (s : State) (comp slot : Nat) (x : List Byte × Bool) (hc : comp < 8) (hs : slot < 8) (n : Nat) :
    unitOk ((fwMeasured comp slot x).run s) (.linkDie n) = unitOk s (.linkDie n) ∧
    unitOk ((fwMeasured comp slot x).run s) (.net n) = unitOk s (.net n) := by
  have hw := fwMeasured_within comp slot x
  have hu : ((fwMeasured comp slot x).run s).units = s.units := hw.same .units (by decide) s
  have hr := hw.fv s HLTH_RET_LINKDIE 0 0 (not_fwKeys hc hs _ _ _ (by decide) (by decide) (by decide))
  simp only [unitOk, unitRetired, hu, hr, and_self]

theorem bootStage6_row (s : State) (f : List Nat) (h : stageReady s 6) (hdci : fb s CONF_DCI_VALID = true) :
    ∃ t, exec (.bootStage6 f) s = .next t ∧ t.boot.stage = 6 ∧ (fwLoad s 3 = none → t.units.up = s.units.up) ∧
    ∀ x, fwLoad s 3 = some x → slotBytes t 2 = extended (slotBytes s 2) x.1 ∧
      ∀ n, isLinkSite s.build n = true → n ∉ f → unitOk s (.net (dieOfSite n)) = true → unitOk s (.linkDie n) = true →
        .linkDie n ∈ t.units.up ∧ enabled t ⟨.shef, n⟩ = true ∧
        ∀ i, i < nLinks s.build → linkSite s.build i = n → enabled t ⟨.link, i⟩ = true ∧
          (linkState s i ≠ 5 → linkState t i = 1 ∨ linkState t i = 3) := by
  refine ⟨(stage6 f).run s, rfl, ?_⟩
  cases hx : fwLoad s 3 with
  | none =>
    rw [stage6_run_none s f h hdci hx]
    exact ⟨stageEnd_stage 6 s, fun _ => by rw [stageEnd_units], fun x hx' => absurd hx' (by simp)⟩
  | some x =>
    have hw := fwMeasured_within 3 2 x
    have hbuild : ((fwMeasured 3 2 x).run s).build = s.build := hw.build s
    have hslot := fwMeasured_slot s 3 2 x (by decide)
    have hok := linkDie_ok_measured s 3 2 x (by decide) (by decide)
    have hstate : ∀ i < 256, linkState ((fwMeasured 3 2 x).run s) i = linkState s i := fun i hi =>
      hw.fv s LINK_LSTATE i 0 (not_fwKeys (by decide) (by decide) _ _ _ (by decide) hi (by decide))
    rw [stage6_run s f h hdci x hx]
    generalize (fwMeasured 3 2 x).run s = u at hbuild hslot hok hstate
    refine ⟨stageEnd_stage 6 _, fun hn => absurd hn (by simp), fun y hy => ?_⟩
    obtain rfl := Option.some.inj hy
    refine ⟨?_, fun n hsite hnf hnet hdie => ?_⟩
    · rw [stageEnd_slot _ _ _ (by decide), slotBytes_kept (trained_within u f) 2 fun _ => not_hdrOr_slot (by decide) (by decide),
        enablePages_slot _ _ _ (by decide), unitsRise_slot, hslot]
    · have hmem : n ∈ linkDiesRising u f := by
        rw [linkDiesRising, List.mem_filter, hbuild, linkSites, rangeF, List.mem_filter, List.mem_range, (hok _).1, (hok _).2, hnet, hdie]
        exact ⟨⟨isLinkSite_lt s.build n hsite, hsite⟩, by simpa using hnf⟩
      refine ⟨?_, ?_, fun i hi hni => ⟨?_, fun h5 => ?_⟩⟩
      · rw [stageEnd_units, (trained_within u f).same .units (by decide), (enablePages_within _).same .units (by decide)]
        exact (mem_unitsRise _ _ _).2 (Or.inr (List.mem_map.2 ⟨n, hmem, rfl⟩))
      · rw [stageEnd_enabled, enabled_kept (trained_noCtl _)]
        exact enablePages_mem _ _ (List.mem_append_left _ (List.mem_flatMap.2 ⟨n, hmem, by simp⟩)) _
      all_goals
        have hi' : i ∈ linksRising u f := by
          rw [linksRising, rangeF, List.mem_filter, List.mem_range, hbuild, hni]
          exact ⟨hi, by simpa using hmem⟩
        have hlt : i < 256 := hi.trans (nLinks_lt _)
      · rw [stageEnd_enabled, enabled_kept (trained_noCtl _)]
        exact enablePages_mem _ _ (List.mem_append_right _ (List.mem_map.2 ⟨i, hi', rfl⟩)) _
      · have h5' : linkState ((enablePages (linkPages u f)).run ((unitsRise ((linkDiesRising u f).map .linkDie)).run u)) i ≠ 5 := by
          rw [linkState, (enablePages_within _).fv _ _ _ _ (by rw [fldKey_mod]; decide), (unitsRise_within _).fv _ _ _ _ fun h => h]
          exact fun h => h5 ((hstate i hlt).symm.trans h)
        have htr := each_linkTrain hlt (linksRising u f) hi' _ h5'
        simp only [stageEnd, run_acts_cons, runs_nil]
        refine reLevel_trains hlt _ ?_
        change trainsOrFault ((updBoot _).run _) i
        rw [trainsOrFault, linkState, (updBoot_within _).fv _ _ _ _ fun h => h]
        exact htr

/-! ### The start of boot, and stages out of order -/

theorem bootStart_row (s : State) (m : Nat) (fab : Bool) :
    (s.power.pwrGood = true ∧ s.flash.refusing = false ∧ s.power.ethLost = false ∧ s.boot.live = false →
      ∃ t, exec (.bootStart m fab) s = .next t ∧ t.boot = { s.boot with live := true } ∧
        t.power = { s.power with resetN := true } ∧ fv t POWR_MOD_ID = m % 16 ∧ fv t POWR_REFCLK = 1 + 2 * b2n fab ∧
        memKept s t) ∧
    (¬ (s.power.pwrGood = true ∧ s.flash.refusing = false ∧ s.power.ethLost = false ∧ s.boot.live = false) →
      exec (.bootStart m fab) s = .next s) := by
  have hexec : exec (.bootStart m fab) s = .next ((bootStart m fab).run s) := rfl
  rw [hexec, bootStart, runs_look]
  refine ⟨fun ⟨h1, h2, h3, h4⟩ => ?_, fun hn => ?_⟩
  · rw [run_onlyIf_of_true _ _ (by simp [h1, h2, h3, h4])]
    refine ⟨_, rfl, rfl, rfl, ?_, ?_, memKept_of_eq rfl rfl rfl⟩
    · simp only [run_acts_cons, runs_nil]
      rw [fv_setF_other _ _ _ _ _ _ _ _ (by decide) (by decide), fv_setF_eq _ _ _ _ _ (by decide) (by decide)]
      exact Nat.mod_mod _ _
    · simp only [run_acts_cons, runs_nil]
      rw [fv_setF_eq _ _ _ _ _ (by decide) (by decide)]
      cases fab <;> rfl
  · rw [run_onlyIf_of_false]
    by_contra hc
    exact hn (by simpa [and_assoc] using hc)

/-- Settles O57: a stage's guard is the end of the one before it; each verifies and measures its firmware, and what comes
into service afterwards is read back through the registers that the end of the stage leaves alone. -/
theorem bootRunsInStages : Obligations.BootRunsInStages := by
  unfold Obligations.BootRunsInStages
  have hnot : ∀ (s : State) (n : Nat) (a : Act), ¬ stageReady s n →
      (Host.Outcome.next ((atStage n a).run s) : Host.Outcome State Fault Refusal) = .next s := fun s n a h => by rw [atStage_not h]
  refine ⟨bootStart_row, fun s up st hard f5 f6 => ⟨hnot s 1 _, hnot s 2 _, hnot s 3 _, hnot s 4 _, hnot s 5 _, fun h6 => ?_⟩,
    bootStage1_row, bootStage2_row, bootStage3_row, bootStage4_row, bootStage5_row, bootStage6_row⟩
  by_cases hr : stageReady s 6
  · have hdci := h6.resolve_left (not_not.2 hr)
    change Host.Outcome.next ((stage6 f6).run s) = _
    rw [stage6, atStage_run hr, runs_look, run_onlyIf_of_false _ _ hdci]
  · exact hnot s 6 _ hr

end Sys2Proof.Machine
end

section
/-! PROOF. Quotes, certificate copies and enrolment (R414, R416). -/

namespace Sys2Proof.Machine

/-! ### Images in memory -/

theorem viewsOf_congr {s t : State} (hm : t.mem = s.mem) (hs : t.syn = s.syn)
    (hreg : ∀ f ∈ [UPDT_CURV_EN, UPDT_CURV_COUNT, UPDT_CURV_BASE], ∀ i, fv t f i = fv s f i) (site : Nat) : viewsOf t site = viewsOf s site := by
  have hrec : ∀ g, cvRec t site g = cvRec s site g := fun g => by
    unfold cvRec cvAddr
    rw [hbmBytesAt_congr hm hs, hreg UPDT_CURV_BASE (by simp)]
  unfold viewsOf
  rw [fb, fb, hreg UPDT_CURV_EN (by simp), hreg UPDT_CURV_COUNT (by simp)]
  simp only [hrec]

/-- What a local range reads as is said by memory, by what backs the tiles, and by the curvature tables. -/
theorem readLocal_congr {s t : State} (hm : t.mem = s.mem) (hs : t.syn = s.syn) (hb : t.build = s.build) (hu : t.units = s.units)
    (hreg : ∀ f ∈ [UPDT_CURV_EN, UPDT_CURV_COUNT, UPDT_CURV_BASE], ∀ i, fv t f i = fv s f i) (a n : Nat) : readLocal t a n = readLocal s a n := by
  have hsyn : synAt t = synAt s := by funext k; rw [synAt, hs]; rfl
  have hraw : rawByte t = rawByte s := by funext k; rw [rawByte, hm]; rfl
  have hword : deliverWord t = deliverWord s := by funext k; unfold deliverWord rawWord; rw [hsyn, hm]
  have hdel : deliverByte t = deliverByte s := by funext u off; unfold deliverByte; rw [hsyn, hraw, hword]
  have hmark : markedAt t = markedAt s := by funext u off; unfold markedAt; rw [hs, hsyn]
  have hview : viewByte t = viewByte s := by funext v o; unfold viewByte blockStAt; simp only [hbmBytesAt_congr hm hs]
  have hread : readBytes t = readBytes s := by funext u off n; unfold readBytes; rw [hdel]
  have hmarks : readMarks t = readMarks s := by funext u off n; unfold readMarks; rw [hmark]
  unfold readLocal viewsMet
  rw [viewsOf_congr hm hs hreg, placeOf_same hb hu, hdel, hmark, hread, hmarks, hs, hview]

theorem imageAt_congr {s t : State} (hm : t.mem = s.mem) (hs : t.syn = s.syn) (hb : t.build = s.build) (hu : t.units = s.units)
    (hreg : ∀ f ∈ [UPDT_CURV_EN, UPDT_CURV_COUNT, UPDT_CURV_BASE], ∀ i, fv t f i = fv s f i) (a n : Nat) : imageAt t a n = imageAt s a n := by
  unfold imageAt
  rw [readLocal_congr hm hs hb hu hreg]

/-- A stored register below the curvature registers' offsets leaves images as they are. -/
theorem imageAt_stored (s : State) (p : PageRef) (d : RegDef) (base x a n : Nat) (h : base < 0x400) :
    imageAt (stored s p d base x) a n = imageAt s a n := by
  refine imageAt_congr (s := s) (t := stored s p d base x) rfl rfl rfl rfl (fun f hf i => ?_) a n
  have hne : fldKey f i 0 ≠ pageKey p base := fun hk => by
    have h1 := fldKey_mod f i 0
    rw [hk, pageKey, regKey] at h1
    fin_cases hf <;> simp [UPDT_CURV_EN, UPDT_CURV_COUNT, UPDT_CURV_BASE] at h1 <;> omega
  exact fv_stored_other s p d base x f i 0 hne

/-- Unmarked memory is read with no mark. -/
theorem readLocal_unmarked (s : State) (a n : Nat) (hs : s.syn = []) : (readLocal s a n).any Prod.snd = false := by
  have hmark : ∀ u off, markedAt s u off = false := fun u off => by rw [markedAt, hs]; rfl
  rw [List.any_eq_false]
  intro x hx
  unfold readLocal at hx
  dsimp only at hx
  split at hx
  · split at hx
    · rw [hs, List.isEmpty_nil, if_pos rfl] at hx
      have := (List.mem_replicate.1 (List.of_mem_zip hx).2).2
      simp [this]
    · obtain ⟨i, -, rfl⟩ := List.mem_map.1 hx
      split
      · split <;> simp [hmark]
      · simp [hmark]
  · have := (List.mem_replicate.1 hx).2
    simp [this]

theorem imageTouch_calm (s : State) (p : PageRef) (a n : Nat) (h : calm s) : (imageTouch p a n).run s = s := by
  obtain ⟨hsyn, hwf, -⟩ := h
  rw [imageTouch, runs_look]
  cases hc : (firstErr (imageErrs s a n) == ErrCode.ok) with
  | false => rw [run_onlyIf_of_false _ _ rfl]
  | true =>
    rw [run_onlyIf_of_true _ _ rfl, run_acts_cons, run_acts_cons, runs_nil, touchLocal_calm s a n hsyn hwf, runs_look,
      run_onlyIf_of_false _ _ (readLocal_unmarked s a n hsyn)]

/-! ### Requests -/

/-- A row that writes OP. -/
theorem exec_coloOp_row (s : State) (c : Instr) (r : Requester) (v : Nat) (hc : rowWrite s c = some (r, mgdReg 4 0x060, 4, v)) (hv : v < 2 ^ 32)
    (h : accepted s r (mgdReg 4 0x060) 4 v = true) (ht : (hookTouch coloPg 0x060 v).run s = s) :
    ∃ d, exec c s = .next (answered ((opApply v).run (stored s coloPg d 0x060 v)) r (mgdReg 4 0x060)) := by
  obtain ⟨d, hd⟩ : ∃ d, regAt .colo 0x060 = some (d, 0x060) := ⟨_, rfl⟩
  have hp : pageOf s (mgdReg 4 0x060) = some coloPg := pageOf_mgdReg s 4 0x060 (by decide) (by decide)
  obtain ⟨hrun, -⟩ := exec_page_row s c r _ 0x060 v coloPg d 0x060 hc h hp (raOff_mgdReg 4 0x060 (by decide) (by decide)) hd
    ⟨by decide, by decide, by decide⟩ hv ht
  refine ⟨d, ?_⟩
  rw [hrun]
  rfl

/-- QUOTE and CERT: BUSY is set and what is to be done is left. -/
theorem opRow_started (s : State) (c : Instr) (r : Requester) (op : Nat) (hop : op < 3) (hc : rowWrite s c = some (r, mgdReg 4 0x060, 4, 0x100 + op))
    (h : accepted s r (mgdReg 4 0x060) 4 (0x100 + op) = true) : ∃ t, exec c s = .next t ∧ fb t COLO_COLO_BUSY = true ∧
      t.boot.op = some op ∧ memKept s t ∧ t.nv = s.nv := by
  have h8 : bit (0x100 + op) 8 = true := by interval_cases op <;> rfl
  have h9 : bit (0x100 + op) 9 = false := by interval_cases op <;> rfl
  have hlow : bits (0x100 + op) 1 0 = op := by interval_cases op <;> rfl
  obtain ⟨d, hrun⟩ := exec_coloOp_row s c r (0x100 + op) hc (by omega) h (by
    rw [hookTouch]
    simp only [coloPg, runs_look]
    rw [run_onlyIf_of_false _ _ (by rw [h9, Bool.and_false])])
  refine ⟨_, hrun, ?_, ?_, ?_, ?_⟩
  all_goals
    rw [opApply, run_acts_cons, run_acts_cons, runs_nil, run_onlyIf_of_false _ _ h9, run_onlyIf_of_true _ _ h8, run_acts_cons, run_acts_cons, runs_nil]
  · rw [fb_answered, (updBoot_within _).fb _ _ _ _ fun h => h, fb_setF_self _ _ _ _ _ ⟨by decide, by decide⟩]
    rfl
  · change some (bits (0x100 + op) 1 0) = some op
    rw [hlow]
  · exact memKept_of_eq rfl rfl rfl
  · rfl

/-! ### The end of a quote or a copy -/

theorem length_quoteBody (s : State) : (quoteBody s).length = 712 := by
  have hkey : ∀ o : Nat, (sha512 (beBytes 512 o)).length = 64 := fun _ => length_sha512 _
  unfold quoteBody
  simp only [List.length_append, length_leBytes, serialBytes, coloBytes, List.length_flatMap, List.map_const', List.length_range, List.sum_replicate]
  split
  · rw [hkey]; rfl
  · rfl

theorem length_certBytes (s : State) : (certBytes s).length = 2048 := by
  simp only [certBytes, List.length_append, List.length_replicate, List.length_take]
  omega

theorem length_pssSign (n d : Nat) (m salt : List Byte) : (pssSign n d m salt).length = 512 := by
  change (beBytes 512 _).length = 512
  rw [beBytes, List.length_reverse, length_leBytes]

theorem outBytes_array (s : State) (n : Nat) : outBytes s n = arrayBytes s COLO_OUTBUF 0 4 n := by
  simp only [outBytes, arrayBytes, Nat.zero_add]

theorem length_arrayBytes (s : State) (f : Fld) (n0 w n : Nat) : (arrayBytes s f n0 w n).length = w * n := by
  simp only [arrayBytes, List.length_flatMap, length_leBytes, List.map_const', List.length_range, List.sum_replicate, smul_eq_mul]
  exact Nat.mul_comm n w

/-- The first words of an array are the front of its bytes. -/
theorem arrayBytes_take (s : State) (f : Fld) (n0 w m k : Nat) : (arrayBytes s f n0 w (m + k)).take (w * m) = arrayBytes s f n0 w m := by
  have hsplit : arrayBytes s f n0 w (m + k) = arrayBytes s f n0 w m ++ (List.range k).flatMap fun i => leBytes w (fv s f 0 (n0 + (m + i))) := by
    rw [arrayBytes, List.range_add, List.flatMap_append, List.flatMap_map]; rfl
  rw [hsplit, ← length_arrayBytes s f n0 w m, List.take_left]

theorem arrayBytes_congr {s t : State} (f : Fld) (n0 w n : Nat) (h : ∀ i < n, fv t f 0 (n0 + i) = fv s f 0 (n0 + i)) :
    arrayBytes t f n0 w n = arrayBytes s f n0 w n :=
  List.flatMap_congr (f := fun i => leBytes w (fv t f 0 (n0 + i))) (g := fun i => leBytes w (fv s f 0 (n0 + i)))
    fun i hi => by rw [h i (List.mem_range.1 hi)]

/-- A state with some free places met. -/
def freesMet (s : State) (n : Nat) : State := { s with freeCtr := s.freeCtr + n }

theorem run_withFrees (n : Nat) (k : List Nat → Act) (s : State) : ∃ l, (withFrees n k).run s = (k l).run (freesMet s n) := by
  induction n generalizing s k with
  | zero => exact ⟨[], rfl⟩
  | succ n ih =>
    obtain ⟨l, hl⟩ := ih (fun l => k ((Config.free s.freeCtr).toNat :: l)) (freesMet s 1)
    have hmet : freesMet (freesMet s 1) n = freesMet s (n + 1) := by simp [freesMet, Nat.add_comm, Nat.add_left_comm]
    refine ⟨(Config.free s.freeCtr).toNat :: l, ?_⟩
    rw [withFrees, run_withFree, ← hmet]
    exact hl

/-- The end of a quote or a copy: BUSY clears, its target is sent, its event raised. -/
def quoteEnd (x : Nat) : Act := acts [setF COLO_COLO_BUSY 0, updBoot fun b => { b with op := none }, sendTarget0 (srcOf coloPg) x, raiseEvt coloPg (2 ^ 16)]

/-- The registers that this end touches. -/
abbrev quoteEndKeys (k : Nat) : Prop := k = fldKey COLO_COLO_BUSY 0 0 ∨ hdrOr [.pres, .link, .slqp] k

theorem quoteEnd_within (x : Nat) : (quoteEnd x).Within (.boot :: targetParts) quoteEndKeys := by
  simp only [quoteEnd, only_acts_cons, only_acts_nil, within_setF, and_true]
  exact ⟨Or.inl rfl, (updBoot_within _).mono (by decide) fun _ h => h.elim, (sendTarget0_within _ _).mono (by decide) fun k h => Or.inr (hdrOr_sent k h),
    (raiseEvt_hdrOr _ _ (by decide) (by decide) (by decide)).regs fun _ => Or.inr⟩

theorem quoteEnd_out (x : Nat) (u : State) (n : Nat) (hn : n ≤ 512) : outBytes ((quoteEnd x).run u) n = outBytes u n := by
  rw [outBytes_array, outBytes_array]
  refine arrayBytes_congr _ _ _ _ fun i hi => (quoteEnd_within x).fv u _ _ _ ?_
  rintro (h | h)
  · exact fldKey_ne_off COLO_OUTBUF COLO_COLO_BUSY 0 (0 + i) 0 rfl (by simp only [COLO_OUTBUF, COLO_COLO_BUSY]; omega) h
  · exact not_hdrOr_fldKey COLO_OUTBUF 0 (0 + i) (by decide) (by decide) (by simp only [COLO_OUTBUF]; omega) (by simp only [COLO_OUTBUF]; omega) h

theorem quoteEnd_ends (x : Nat) (u : State) : fb ((quoteEnd x).run u) COLO_COLO_BUSY = false ∧ ((quoteEnd x).run u).boot.op = none ∧
    pending ((quoteEnd x).run u) coloPg 16 := by
  have hsend := sendTarget0_within (srcOf coloPg) x
  have hev := raiseEvt_within coloPg (2 ^ 16)
  simp only [quoteEnd, run_acts_cons, runs_nil]
  refine ⟨?_, ?_, pending_raiseEvt _ _ _ _ (by decide) (by decide)⟩
  · rw [fb_raiseEvt _ _ _ _ _ _ (by decide) (by decide), (hsend.regs hdrOr_sent).fb _ _ _ _ (not_hdrOr_fldKey _ _ _ (by decide) (by decide) (by decide) (by decide)),
      (updBoot_within _).fb _ _ _ _ fun h => h, fb_setF_self _ _ _ _ _ ⟨by decide, by decide⟩]
    rfl
  · exact (congrArg Boot.op ((hev.same .boot (by decide) _).trans (hsend.same .boot (by decide) _))).trans (congrArg Boot.op (updBoot_boot _ _))

/-- The words that stand in OUT once an operation is done. -/
def quoteOut (s : State) (op : Nat) : Act :=
  if op = 1 then withFrees 8 fun salt =>
    setWords COLO_OUTBUF 0 4 (quoteBody s ++ pssSign s.factory.idModulus s.factory.idPrivate (quoteBody s) (salt.flatMap (leBytes 8)))
  else setWords COLO_OUTBUF 0 4 (certBytes s)

theorem quoteDone_run (s : State) (op : Nat) (h : s.boot.op = some op) :
    quoteDone.run s = (quoteEnd (fv s COLO_QUOTE_DONE)).run ((quoteOut s op).run s) := by
  simp only [quoteDone, runs_look, h, quoteEnd, quoteOut, run_acts_cons, runs_nil]

theorem quoteOut_run (s : State) : ∃ sig : List Byte, sig.length = 512 ∧
    (quoteOut s 1).run s = (setWords COLO_OUTBUF 0 4 (quoteBody s ++ sig)).run (freesMet s 8) := by
  obtain ⟨l, hl⟩ := run_withFrees 8 (fun salt =>
    setWords COLO_OUTBUF 0 4 (quoteBody s ++ pssSign s.factory.idModulus s.factory.idPrivate (quoteBody s) (salt.flatMap (leBytes 8)))) s
  refine ⟨pssSign s.factory.idModulus s.factory.idPrivate (quoteBody s) (l.flatMap (leBytes 8)), length_pssSign _ _ _ _, ?_⟩
  rw [quoteOut, if_pos rfl, hl]

theorem quoteOut_within (s : State) (op : Nat) : (quoteOut s op).Within [.free] fun _ => True := by
  have hw : ∀ bs, (setWords COLO_OUTBUF 0 4 bs).Within [.free] fun _ => True := fun bs => (setWords_within _ _ _ _).mono (by simp) fun _ _ => trivial
  have hfrees : ∀ n (k : List Nat → Act), (∀ l, (k l).Within [.free] fun _ => True) → (withFrees n k).Within [.free] fun _ => True := by
    intro n
    induction n with
    | zero => exact fun k hk => hk []
    | succ n ih => exact fun k hk => (within_withFree _).2 ⟨by decide, fun v => ih _ fun l => hk _⟩
  exact only_ite (hfrees 8 _ fun l => hw _) (hw _)

theorem quoteDone_row (s : State) : (s.boot.op = none → exec .quoteDone s = .next s) ∧
    (∀ op, s.boot.op = some op → ∃ t, exec .quoteDone s = .next t ∧ fb t COLO_COLO_BUSY = false ∧ t.boot.op = none ∧
      pending t coloPg 16 ∧ memKept s t ∧ t.nv = s.nv ∧ (op ≠ 1 → outBytes t 512 = certBytes s) ∧
      (op = 1 → outBytes t 178 = quoteBody s ∧ t.freeCtr = s.freeCtr + 8)) := by
  have hexec : exec .quoteDone s = .next (quoteDone.run s) := rfl
  refine ⟨fun h => ?_, fun op h => ?_⟩
  · rw [hexec, quoteDone, runs_look, h]; rfl
  · have hend := quoteEnd_within (fv s COLO_QUOTE_DONE)
    have hout := quoteOut_within s op
    obtain ⟨hbusy, hop, hpend⟩ := quoteEnd_ends (fv s COLO_QUOTE_DONE) ((quoteOut s op).run s)
    rw [hexec, quoteDone_run s op h]
    refine ⟨_, rfl, hbusy, hop, hpend, ?_, (hend.same .nv (by decide) _).trans (hout.same .nv (by decide) s), fun hne => ?_, fun h1 => ?_⟩
    · exact memKept_of_eq ((hend.same .mem (by decide) _).trans (hout.same .mem (by decide) s))
        ((hend.same .syn (by decide) _).trans (hout.same .syn (by decide) s)) ((hend.same .written (by decide) _).trans (hout.same .written (by decide) s))
    · rw [quoteEnd_out _ _ _ (by decide), quoteOut, if_neg hne, outBytes_array]
      exact setWords_words COLO_OUTBUF 0 4 (certBytes s) s rfl rfl (by decide) (by decide) 512 (length_certBytes s)
    · subst h1
      obtain ⟨sig, hsig, hrun⟩ := quoteOut_run s
      have hlen : (quoteBody s ++ sig).length = 4 * (178 + 128) := by rw [List.length_append, length_quoteBody, hsig]
      have hw := setWords_within COLO_OUTBUF 0 4 (quoteBody s ++ sig)
      refine ⟨?_, ?_⟩
      · rw [quoteEnd_out _ _ _ (by decide), hrun, outBytes_array, ← arrayBytes_take _ _ _ _ 178 128,
          setWords_words COLO_OUTBUF 0 4 (quoteBody s ++ sig) _ rfl rfl (by decide) (by decide) (178 + 128) hlen,
          show 4 * 178 = (quoteBody s).length from (length_quoteBody s).symm, List.take_left]
      · rw [hend.same .free (by decide), hrun]
        exact hw.same .free (by decide) _

/-! ### Enrolment -/

theorem bundleCheck_congr {s t : State} (hn : t.nv = s.nv) (hf : t.factory = s.factory) (hi : fb t COLO_IDENTITY_OK = fb s COLO_IDENTITY_OK)
    (hd : fv t COLO_DEBUG = fv s COLO_DEBUG) (img : Option (List Byte)) : bundleCheck t img = bundleCheck s img := by
  have hv : vendorModulus t = vendorModulus s := by unfold vendorModulus; rw [hn, hf]
  have hid : identityOk t = identityOk s := by unfold identityOk; rw [hi, hd]
  have hs : serialBytes t = serialBytes s := by unfold serialBytes; rw [hf]
  unfold bundleCheck
  rw [hv, hf]
  simp only [hid, hs]

/-- An owner is installed: flash and its registers hold it. -/
theorem ownerInstall_nv (u : State) (b : List Byte) (keys : List (List Byte)) (keep : Bool) :
    ((ownerInstall b keys keep).run u).nv = { u.nv with
      owner := some (bundleOwner b)
      enrol := b.take 536
      keys := List.zipWith (fun new old => if new.isEmpty && keep then old else new) keys u.nv.keys } := by
  have hshow : showOwner.Within [] fun _ => True := by simp [showOwner]
  rw [ownerInstall, run_acts_cons, run_acts_cons, run_acts_cons, runs_nil, (measureOwner_within.regs fun _ _ => trivial).same .nv (by decide),
    hshow.same .nv (by decide)]
  rfl

theorem ownerInstall_within (b : List Byte) (keys : List (List Byte)) (keep : Bool) :
    (ownerInstall b keys keep).Within [.nv] fun k => k / 4096 = blkNum .colo * 256 ∧ 0x40 ≤ k % 4096 := by
  have hshow : showOwner.Within [.nv] fun k => k / 4096 = blkNum .colo * 256 ∧ 0x40 ≤ k % 4096 := by
    simp only [showOwner, only_look_iff, only_acts_cons, only_acts_nil, within_setF, and_true]
    exact fun _ => ⟨by decide, by decide, by decide⟩
  simp only [ownerInstall, only_acts_cons, only_acts_nil, and_true]
  exact ⟨fun s => (only_upd_iff _ _).2 (show Part.nv ∈ [Part.nv] by decide), hshow, measureOwner_within.mono (by simp) fun k hk => by have := slotKey_bounds (by decide) hk; omega⟩

theorem ownerInstall_shown (u : State) (b : List Byte) (keys : List (List Byte)) (keep : Bool) :
    fv ((ownerInstall b keys keep).run u) COLO_OWNER_STATE = 1 ∧ fv ((ownerInstall b keys keep).run u) COLO_OWNER_GEN = (bundleOwner b).2 := by
  have hm : ∀ (v : State) (f : Fld), f.blk = .colo → f.off < 0x100 → fv (measureOwner.run v) f = fv v f := fun v f hb ho =>
    measureOwner_within.fv v f 0 0 fun h => by
      have := slotKey_bounds (by decide) h
      simp only [fldKey, regKey, hb, blkNum] at this
      omega
  have hgen : (bundleOwner b).2 < 2 ^ 32 := recLE_lt _ _ _
  simp only [ownerInstall, run_acts_cons, runs_nil]
  rw [hm _ _ rfl (by decide), hm _ _ rfl (by decide)]
  simp (disch := decide) only [showOwner, runs_look, run_acts_cons, runs_nil, fv_setF_other, fv_setF_eq]
  exact ⟨rfl, Nat.mod_eq_of_lt hgen⟩

theorem enrol_row (s : State) (r : Requester) (hcalm : calm s) (h : accepted s r (mgdReg 4 0x060) 4 0x200 = true) (i : List Byte)
    (hi : imageAt s (fv s COLO_ENROL_ADDR) 2072 = some i) : ∃ t, exec (.enrolGo r) s = .next t ∧
      t.nv.owner = some (bundleOwner i) ∧ t.nv.enrol = i.take 536 ∧
      t.nv.keys = List.zipWith (fun new old => if new.isEmpty then old else new) (bundleCheck s (some i)).2 s.nv.keys ∧
      fv t COLO_OWNER_STATE = 1 ∧ fv t COLO_OWNER_GEN = (bundleOwner i).2 ∧ pending t coloPg 17 ∧ memKept s t := by
  obtain ⟨d, hrun⟩ := exec_coloOp_row s (.enrolGo r) r 0x200 rfl (by decide) h (by
    rw [hookTouch]
    simp only [coloPg, runs_look]
    rw [run_onlyIf_of_true _ _ (by decide)]
    exact imageTouch_calm s _ _ _ hcalm)
  have hother : ∀ f : Fld, f.blk = .colo → f.off ≠ 0x060 → f.off < 4096 → fv (stored s coloPg d 0x060 0x200) f = fv s f := fun f hb ho hlt =>
    fv_stored_other s coloPg d 0x060 0x200 f 0 0 fun hk => by
      have hmod := fldKey_mod f 0 0
      rw [hk] at hmod
      simp [pageKey, keyIdx, regKey, coloPg, blkNum] at hmod
      omega
  have himg : imageAt (stored s coloPg d 0x060 0x200) (fv (stored s coloPg d 0x060 0x200) COLO_ENROL_ADDR) 2072 = some i := by
    rw [hother _ rfl (by decide) (by decide), imageAt_stored _ _ _ _ _ _ _ (by decide), hi]
  have hb : bundleCheck (stored s coloPg d 0x060 0x200) (some i) = bundleCheck s (some i) :=
    bundleCheck_congr (s := s) (t := stored s coloPg d 0x060 0x200) rfl rfl (congrArg (· != 0) (hother COLO_IDENTITY_OK rfl (by decide) (by decide)))
      (hother COLO_DEBUG rfl (by decide) (by decide)) _
  have hkept : memKept s (stored s coloPg d 0x060 0x200) := memKept_of_eq rfl rfl rfl
  have hnv : (stored s coloPg d 0x060 0x200).nv = s.nv := rfl
  generalize stored s coloPg d 0x060 0x200 = u at hrun himg hb hkept hnv
  have happly : (opApply 0x200).run u = (raiseEvt coloPg (2 ^ 17)).run ((ownerInstall i (bundleCheck s (some i)).2 true).run u) := by
    rw [opApply, run_acts_cons, run_acts_cons, runs_nil, run_onlyIf_of_false _ _ (by decide), run_onlyIf_of_true _ _ (by decide), enrol, runs_look]
    simp only [himg, run_acts_cons, runs_nil, hb]
  rw [happly] at hrun
  have hin := ownerInstall_within i (bundleCheck s (some i)).2 true
  have hinv := ownerInstall_nv u i (bundleCheck s (some i)).2 true
  obtain ⟨hst, hgen⟩ := ownerInstall_shown u i (bundleCheck s (some i)).2 true
  have hmem := hin.memKept u (by decide) (by decide) (by decide)
  generalize (ownerInstall i (bundleCheck s (some i)).2 true).run u = v at hrun hinv hst hgen hmem
  have hev := raiseEvt_within coloPg (2 ^ 17)
  have hvnv : ((raiseEvt coloPg (2 ^ 17)).run v).nv = v.nv := hev.same .nv (by decide) v
  have hvmem := hev.memKept v (by decide) (by decide) (by decide)
  refine ⟨_, hrun, ?_, ?_, ?_, ?_, ?_, ?_, ?_⟩
  · exact (congrArg Nv.owner (hvnv.trans hinv))
  · exact (congrArg Nv.enrol (hvnv.trans hinv))
  · refine (congrArg Nv.keys (hvnv.trans hinv)).trans ?_
    simp only [Bool.and_true, hnv]
  · rw [fv_answered, fv_raiseEvt _ _ _ _ _ _ (by decide) (by decide), hst]
  · rw [fv_answered, fv_raiseEvt _ _ _ _ _ _ (by decide) (by decide), hgen]
  · exact pending_raiseEvt _ _ _ _ (by decide) (by decide)
  · exact ⟨fun k => (hvmem.1 k).trans ((hmem.1 k).trans (hkept.1 k)), fun k => (hvmem.2.1 k).trans ((hmem.2.1 k).trans (hkept.2.1 k)),
      fun k => (hvmem.2.2 k).trans ((hmem.2.2 k).trans (hkept.2.2 k))⟩

end Sys2Proof.Machine
end

section
/-! PROOF. Job configuration images (R420, R425). -/

namespace Sys2Proof.Machine

/-! ### JCI_GO -/

theorem jciGo_row (s : State) (r : Requester) (hcalm : calm s) (h : accepted s r (mgdReg 5 0x054) 4 1 = true) :
    ∃ t, exec (.jciGo r) s = .next t ∧ fb t CONF_JCI_BUSY = true ∧
      t.boot.jci = imageAt s (fv s CONF_JCI_ADDR) (fv s CONF_JCI_LEN) ∧ memKept s t := by
  obtain ⟨d, hd⟩ : ∃ d, regAt .conf 0x054 = some (d, 0x054) := ⟨_, rfl⟩
  have hp : pageOf s (mgdReg 5 0x054) = some confPg := pageOf_mgdReg s 5 0x054 (by decide) (by decide)
  have ht : (hookTouch confPg 0x054 1).run s = s := by
    rw [hookTouch]
    simp only [confPg, runs_look]
    cases hc : (0x054 == 0x054 && bit 1 0 && decide (592 ≤ fv s CONF_JCI_LEN) && decide (fv s CONF_JCI_LEN ≤ 66112)) with
    | false => rw [run_onlyIf_of_false _ _ rfl]
    | true => rw [run_onlyIf_of_true _ _ rfl]; exact imageTouch_calm s _ _ _ hcalm
  obtain ⟨hrun, -⟩ := exec_page_row s (.jciGo r) r _ 0x054 1 confPg d 0x054 rfl h hp (raOff_mgdReg 5 0x054 (by decide) (by decide)) hd
    ⟨by decide, by decide, by decide⟩ (by decide) ht
  have happly : (hookApply s confPg 0x054 1).run (stored s confPg d 0x054 1) = (jciGo s).run (stored s confPg d 0x054 1) := rfl
  rw [happly] at hrun
  refine ⟨_, hrun, ?_, ?_, memKept_of_eq rfl rfl rfl⟩
  · rw [fb_answered, jciGo, run_acts_cons, run_acts_cons, runs_nil, (updBoot_within _).fb _ _ _ _ fun h => h,
      fb_setF_self _ _ _ _ _ ⟨by decide, by decide⟩]
    rfl
  · rfl

/-! ### What a pass leaves of the job's seed -/

theorem pass_val_isSome (p : Pass) (id : Nat) : (p.val id).isSome = true ↔ ∃ x ∈ p.vals, x.1 = id := by
  simp [Pass.val, List.find?_isSome]

/-- A pass over a job's image decides its seed. -/
theorem pass1_seed (s : State) (b : List Byte) : ∃ v, (pass1 s 2 b).val 0x0201 = some v := by
  have habsent : ∀ p : Pass, ((passAbsent p).val 0x0201).isSome = true := fun p => by
    unfold passAbsent
    split
    · assumption
    · rw [pass_val_isSome]
      exact ⟨(0x0201, 0), by simp, rfl⟩
  have hdepend : ∀ (p : Pass) (now new : Nat), (p.val 0x0201).isSome = true → ((passDepend p 0x0204 4 now new).val 0x0201).isSome = true :=
    fun p now new hp => by
      unfold passDepend
      split
      · exact hp
      · obtain ⟨x, hx, hid⟩ := (pass_val_isSome p _).1 hp
        rw [pass_val_isSome]
        exact ⟨x, List.mem_append_left _ (List.mem_filter.2 ⟨hx, by rw [hid]; decide⟩), hid⟩
  refine Option.isSome_iff_exists.1 ?_
  unfold pass1
  rw [if_neg (by decide)]
  exact hdepend _ _ _ (habsent _)

/-! ### The image's writes -/

/-- The blocks that a job configuration image writes beside CONF. -/
abbrev jciBlks : List Blk := [.pres, .slqp, .shef, .hbmc, .peer]

theorem hookless_pres (off : Nat) (h : off ∈ [0x060, 0x064, 0x068, 0x070, 0x074]) : Hookless .pres off off := by
  have hhere : (regAt .pres off).map Prod.snd = some off := by revert off; decide
  have hc : 0x40 ≤ off ∧ off < 0x078 := by revert off; decide
  refine ⟨hookless_here hhere, hc.1, by omega, fun _ v s => ?_, fun s i v => ?_, by simp⟩
  · exact only_onlyIf _ _ _ fun h => absurd h (by simp; omega)
  · rw [hookApply, if_neg (by omega)]
    change (presApply s off v).Within _ _
    rw [presApply, if_neg (by omega), if_neg (by omega), if_neg (by omega), if_neg (by omega), if_neg (by omega)]
    trivial

theorem hookless_peer : Hookless .peer 0x040 0x040 := by
  refine ⟨hookless_here (by decide), by decide, by decide, fun _ _ => trivial, fun s i v => ?_, by simp⟩
  rw [hookApply, if_neg (by decide)]
  exact only_onlyIf _ _ _ fun h => absurd h (by simp)

theorem hookless_shef : Hookless .shef 0x058 0x058 :=
  ⟨hookless_here (by decide), by decide, by decide, fun _ _ => trivial, fun _ _ _ => trivial, by decide⟩

theorem hookless_hbmc : ∃ base, Hookless .hbmc 0x058 base :=
  ⟨0x058, hookless_here (by decide), by decide, by decide, fun _ _ => trivial, fun _ _ _ => trivial, by decide⟩

theorem shefLoc_lt (s : State) : shefLoc s < 12 := by
  have hsite : ∀ n ∈ linkSites s.build, n < 12 := fun n hn => List.mem_range.1 (List.mem_filter.1 hn).1
  unfold shefLoc
  cases hh : ((linkSites s.build).filter (linkDieInService s)).head? with
  | some n => exact hsite n (List.mem_filter.1 (List.mem_of_head? hh)).1
  | none =>
    cases hl : linkSites s.build with
    | nil => decide
    | cons n l => exact hsite n (by rw [hl]; exact List.mem_cons_self)

/-- The page at the place of a SHEF page is a SHEF page, or, on another build, an HBMC page. -/
theorem shefWrite_quiet (s : State) (v : Nat) : (coreWrite (regAddr (shefLoc s) 0 0x058) 4 v).Within [.events, .out] (hdrOr jciBlks) := by
  have hl := shefLoc_lt s
  refine writeReg_quiet (by decide) _ _ _ _ fun u p hpage => ?_
  rw [pageOf_regAddr u _ _ _ (by omega) (by decide) (by decide)] at hpage
  unfold pageAt at hpage
  have ho : raOff (regAddr (shefLoc s) 0 0x058) = 0x058 := (regAddr_parts _ _ _ (by omega) (by decide) (by decide)).2.2.2
  rw [if_neg (by omega), if_neg (by omega)] at hpage
  rw [ho]
  split at hpage
  · obtain rfl := Option.some.inj hpage
    exact ⟨by simp, by dsimp only; omega, hookless_hbmc⟩
  · split at hpage
    · rw [if_pos rfl] at hpage
      obtain rfl := Option.some.inj hpage
      exact ⟨by simp, by dsimp only; omega, _, hookless_shef⟩
    · exact absurd hpage (by simp)

/-- A job image's writes but for the seed. -/
def jciRest (p : Pass) : Act := acts [
  withVal p 0x0202 (mgdWrite 1 0x060 4), withVal p 0x0203 (mgdWrite 1 0x064 4),
  look fun s => onlyIf ((p.val 0x0204).isSome || (p.val 0x0205).isSome)
    (mgdWrite 1 0x068 8 ((p.val 0x0204).getD (fv s PRES_GATE_MIN) + 2 ^ 32 * (p.val 0x0205).getD (fv s PRES_GATE_MAX))),
  withVal p 0x0206 (mgdWrite 1 0x070 4), withVal p 0x0207 (mgdWrite 1 0x074 4),
  withVal p 0x0210 fun v => look fun s => coreWrite (regAddr (shefLoc s) 0 0x058) 4 v,
  withVal p 0x0211 (mgdWrite 9 0x040 4)]

theorem jciRest_within (p : Pass) : (jciRest p).Within [.events, .out] (hdrOr jciBlks) := by
  have hpres : ∀ off size v, off ∈ [0x060, 0x064, 0x068, 0x070, 0x074] → (mgdWrite 1 off size v).Within [.events, .out] (hdrOr jciBlks) :=
    fun off size v ho => mgdWrite_quiet (by decide) 1 off size v .pres (by decide) rfl (by decide) (by revert off; decide) (hookless_pres off ho)
  simp only [jciRest, only_acts_cons, only_acts_nil, and_true]
  exact ⟨withVal_within _ _ _ fun v => hpres _ _ _ (by decide), withVal_within _ _ _ fun v => hpres _ _ _ (by decide),
    fun s => only_onlyIf _ _ _ fun _ => hpres _ _ _ (by decide), withVal_within _ _ _ fun v => hpres _ _ _ (by decide),
    withVal_within _ _ _ fun v => hpres _ _ _ (by decide), withVal_within _ _ _ fun v s => shefWrite_quiet s v,
    withVal_within _ _ _ fun v => mgdWrite_quiet (by decide) 9 0x040 4 v .peer (by decide) rfl (by decide) (by decide) hookless_peer⟩

theorem jciWrites_run (s : State) (p : Pass) (v : Nat) (h : p.val 0x0201 = some v) : (jciWrites p).run s = (jciRest p).run ((setF CONF_JOB_SEED v).run s) := by
  have hseed : withVal p 0x0201 (setF CONF_JOB_SEED) = setF CONF_JOB_SEED v := by unfold withVal; rw [h]
  rw [jciWrites, run_acts_cons, hseed, jciRest]

/-! ### The end of a load -/

theorem placeOf_ok (s : State) (a : Nat) (u : MemUnit) (off : Nat) (h : placeOf s a = .mem u off) : u.ok := by
  have hloc : locate s a = some (u, off) := by
    unfold placeOf at h
    split at h
    · exact absurd h (by simp)
    · split at h
      · exact absurd h (by simp)
      · split at h
        · rename_i m hm
          obtain ⟨rfl, rfl⟩ := Place.mem.inj h
          exact hm
        · exact absurd h (by simp)
  unfold locate at hloc
  split at hloc
  · dsimp only at hloc
    split at hloc
    · rename_i hsite
      obtain ⟨rfl, -⟩ := Prod.mk.inj (Option.some.inj hloc)
      exact isHbmSite_lt s.build _ (Bool.and_eq_true_iff.1 hsite).1
    · exact absurd hloc (by simp)
  · split at hloc
    · obtain ⟨rfl, -⟩ := Prod.mk.inj (Option.some.inj hloc)
      exact physOf_lt s _
    · split at hloc
      · dsimp only at hloc
        split at hloc
        · obtain ⟨rfl, -⟩ := Prod.mk.inj (Option.some.inj hloc)
          exact physOf_lt s _
        · obtain ⟨rfl, -⟩ := Prod.mk.inj (Option.some.inj hloc)
          exact physOf_lt s _
      · exact absurd hloc (by simp)

theorem writeLocal_within (a : Nat) (l : List (Byte × Bool)) : (writeLocal a l).Within memParts memKeys := fun s => by
  dsimp only
  split
  · rename_i u off hplace
    exact memWrite_within u off _ _ (placeOf_ok s a u off hplace)
  · trivial

theorem putLocal_within (a : Nat) (l : List Byte) : (putLocal a l).Within memParts memKeys := writeLocal_within a _

/-- The last registers that a load writes, and its end. -/
def jciEnd (p : Pass) (b : List Byte) (x : Nat) : Act := acts [
  setF CONF_JCI_CLAMPS (min 65535 p.clamps.length), setF CONF_JCI_CODE 0,
  extendSlot 6 b, setF CONF_JCI_SEQ (cfSeq b), setF CONF_JCI_VALID 1,
  setF CONF_JCI_BUSY 0, updBoot fun x => { x with jci := none },
  sendTarget0 (srcOf confPg) x, raiseEvt confPg (2 ^ 16 + (if p.clamps.isEmpty then 0 else 2 ^ 17))]

/-- A load's report to memory. -/
def jciReport (s : State) (p : Pass) : Act :=
  onlyIf (!((p.clamps.take (fv s CONF_REPORT_MAX)).flatMap clampBytes).isEmpty)
    (putLocal (fv s CONF_REPORT_ADDR) ((p.clamps.take (fv s CONF_REPORT_MAX)).flatMap clampBytes))

theorem jciDone_run (s : State) (b : List Byte) (h : s.boot.jci = some b) : jciDone.run s =
    (jciEnd (pass1 s 2 b) b (rdKey s (fldKey CONF_JCI_DONE 0 0))).run ((jciReport s (pass1 s 2 b)).run ((jciWrites (pass1 s 2 b)).run s)) := by
  simp only [jciDone, runs_look, h, jciEnd, jciReport, run_acts_cons, runs_nil]

theorem jciReport_within (s : State) (p : Pass) : (jciReport s p).Within memParts memKeys := only_onlyIf _ _ _ fun _ => putLocal_within _ _

/-- What the report and the writes but for the seed can touch. -/
abbrev jciKeys : Nat → Prop := hdrOr [.pres, .slqp, .shef, .hbmc, .peer, .intg, .hlth]

theorem jciBefore_slot (s : State) (b : List Byte) : slotBytes ((jciReport s (pass1 s 2 b)).run ((jciWrites (pass1 s 2 b)).run s)) 6 = slotBytes s 6 := by
  obtain ⟨v, hv⟩ := pass1_seed s b
  rw [slotBytes_kept (jciReport_within s _) 6 fun _ => not_hdrOr_slot (by decide) (by decide), jciWrites_run s _ v hv,
    slotBytes_kept (jciRest_within _) 6 fun _ => not_hdrOr_slot (by decide) (by decide)]
  have hseed : (setF CONF_JOB_SEED v).Within [] fun k => k = fldKey CONF_JOB_SEED 0 0 := by simp
  refine slotBytes_kept hseed 6 ?_ s
  rintro key hkey rfl
  have := slotKey_bounds (by decide) hkey
  revert this; decide

theorem jciBefore_seed (s : State) (b : List Byte) : fv ((jciReport s (pass1 s 2 b)).run ((jciWrites (pass1 s 2 b)).run s)) CONF_JOB_SEED =
    ((pass1 s 2 b).val 0x0201).getD 0 % 2 ^ 64 := by
  obtain ⟨v, hv⟩ := pass1_seed s b
  rw [(jciReport_within s _).fv _ _ _ _ (not_hdrOr_fldKey _ _ _ (by decide) (by decide) (by decide) (by decide)), jciWrites_run s _ v hv,
    (jciRest_within _).fv _ _ _ _ (not_hdrOr_fldKey _ _ _ (by decide) (by decide) (by decide) (by decide)),
    fv_setF_eq _ _ _ _ _ (by decide) (by decide), hv]
  rfl

section
variable (p : Pass) (b : List Byte) (x : Nat) (u : State)

theorem jciSent_fv (m : Nat) (f : Fld) (v : State) (hb : f.blk = .conf ∨ f.blk = .colo) (hlo : 0x40 ≤ f.off) (n : Nat) (hhi : f.off + n * f.stride < 4096) :
    fv ((raiseEvt confPg m).run ((sendTarget0 (srcOf confPg) x).run v)) f 0 n = fv v f 0 n := by
  have hnot : ¬ hdrOr [.pres, .link, .slqp] (fldKey f 0 n) :=
    not_hdrOr_fldKey f 0 n (by rcases hb with h | h <;> rw [h] <;> decide) (by decide) (by omega) hhi
  rw [(raiseEvt_hdrOr (ps := [.events, .out]) _ _ (by decide) (by decide) (by decide)).fv _ _ _ _ hnot,
    ((sendTarget0_within _ _).regs hdrOr_sent).fv _ _ _ _ hnot]

theorem jciEnd_conf : fb ((jciEnd p b x).run u) CONF_JCI_VALID = true ∧ fb ((jciEnd p b x).run u) CONF_JCI_BUSY = false ∧
    fv ((jciEnd p b x).run u) CONF_JCI_CODE = 0 ∧ fv ((jciEnd p b x).run u) CONF_JCI_SEQ = cfSeq b ∧
    fv ((jciEnd p b x).run u) CONF_JCI_CLAMPS = min 65535 p.clamps.length ∧ fv ((jciEnd p b x).run u) CONF_JOB_SEED = fv u CONF_JOB_SEED := by
  have hboot : ∀ (v : State) (f : Fld), fv ((updBoot fun x => { x with jci := none }).run v) f = fv v f := fun v f =>
    (updBoot_within _).fv _ _ _ _ fun h => h
  have hext : ∀ v f, f.blk = .conf → f.off < 4096 → fv ((extendSlot 6 b).run v) f = fv v f := fun v f hb ho => extendSlot_conf v 6 b f hb ho (by decide)
  have hseq : cfSeq b < 2 ^ 64 := recLE_lt _ _ _
  simp only [jciEnd, run_acts_cons, runs_nil, fb]
  refine ⟨?_, ?_, ?_, ?_, ?_, ?_⟩ <;> rw [jciSent_fv _ _ _ _ (Or.inl rfl) (by decide) 0 (by decide), hboot]
  · simp (disch := decide) only [fv_setF_other, fv_setF_eq]; rfl
  · simp (disch := decide) only [fv_setF_eq]; rfl
  · simp (disch := decide) only [fv_setF_other, hext, fv_setF_eq]; rfl
  · simp (disch := decide) only [fv_setF_other, fv_setF_eq]
    exact Nat.mod_eq_of_lt hseq
  · simp (disch := decide) only [fv_setF_other, hext, fv_setF_eq]
    exact Nat.mod_eq_of_lt (lt_of_le_of_lt (Nat.min_le_left _ _) (by decide))
  · simp (disch := decide) only [fv_setF_other, hext]

theorem jciEnd_slot : slotBytes ((jciEnd p b x).run u) 6 = extended (slotBytes u 6) b := by
  have hconf : ∀ (f : Fld) (v : Nat) (w : State), f.blk = .conf → f.off < 4096 → slotBytes ((setF f v).run w) 6 = slotBytes w 6 := fun f v w hb ho => by
    have hset : (setF f v).Within [] fun k => k = fldKey f 0 0 := by simp
    refine slotBytes_kept hset 6 ?_ w
    rintro key hkey rfl
    have := slotKey_bounds (by decide) hkey
    simp only [fldKey, regKey, hb, blkNum] at this
    omega
  have hsent : ∀ (m : Nat) (v : State), slotBytes ((raiseEvt confPg m).run ((sendTarget0 (srcOf confPg) x).run v)) 6 = slotBytes v 6 := fun m v =>
    slotBytes_congr 6 fun i hi => jciSent_fv x m COLO_MSLOT v (Or.inr rfl) (by decide) _ (by simp only [COLO_MSLOT]; omega)
  simp only [jciEnd, run_acts_cons, runs_nil]
  rw [hsent, slotBytes_kept (updBoot_within _) 6 (fun _ _ h => h), hconf _ _ _ rfl (by decide), hconf _ _ _ rfl (by decide), hconf _ _ _ rfl (by decide),
    slotBytes_extendSlot, hconf _ _ _ rfl (by decide), hconf _ _ _ rfl (by decide)]

theorem jciEnd_ends : ((jciEnd p b x).run u).boot.jci = none ∧ pending ((jciEnd p b x).run u) ⟨.conf, 0⟩ 16 := by
  simp only [jciEnd, run_acts_cons, runs_nil]
  refine ⟨?_, pending_raiseEvt _ _ _ _ (by split <;> decide) (by split <;> decide)⟩
  exact (congrArg Boot.jci (((raiseEvt_within _ _).same .boot (by decide) _).trans ((sendTarget0_within _ _).same .boot (by decide) _))).trans
    (congrArg Boot.jci (updBoot_boot _ _))

end

theorem jciDone_row (s : State) : (s.boot.jci = none → exec .jciDone s = .next s) ∧
    ∀ i, s.boot.jci = some i → ∃ t, exec .jciDone s = .next t ∧ fb t CONF_JCI_VALID = true ∧ fb t CONF_JCI_BUSY = false ∧
      fv t CONF_JCI_CODE = 0 ∧ fv t CONF_JCI_SEQ = cfSeq i ∧ fv t CONF_JCI_CLAMPS = min 65535 (pass1 s 2 i).clamps.length ∧
      t.boot.jci = none ∧ pending t ⟨.conf, 0⟩ 16 ∧
      fv t CONF_JOB_SEED = ((pass1 s 2 i).val 0x0201).getD 0 % 2 ^ 64 ∧ slotBytes t 6 = extended (slotBytes s 6) i := by
  have hexec : exec .jciDone s = .next (jciDone.run s) := rfl
  refine ⟨fun h => ?_, fun i h => ?_⟩
  · rw [hexec, jciDone, runs_look, h]; rfl
  · rw [hexec, jciDone_run s i h]
    have hslot := jciBefore_slot s i
    have hseed := jciBefore_seed s i
    generalize (jciReport s (pass1 s 2 i)).run ((jciWrites (pass1 s 2 i)).run s) = u at hslot hseed
    obtain ⟨h1, h2, h3, h4, h5, h6⟩ := jciEnd_conf (pass1 s 2 i) i (rdKey s (fldKey CONF_JCI_DONE 0 0)) u
    obtain ⟨h7, h8⟩ := jciEnd_ends (pass1 s 2 i) i (rdKey s (fldKey CONF_JCI_DONE 0 0)) u
    exact ⟨_, rfl, h1, h2, h3, h4, h5, h7, h8, h6.trans hseed, by rw [jciEnd_slot, hslot]⟩

/-- Settles O56: requests leave BUSY and what is to be done; at their end the words of OUT are read back as the bytes written,
and images read the same once the request's own register is stored. -/
theorem colophonAndJobImages : Obligations.ColophonAndJobImages := by
  unfold Obligations.ColophonAndJobImages
  exact ⟨fun s r => ⟨opRow_started s (.quoteOp r) r 1 (by decide) rfl, opRow_started s (.certOp r) r 2 (by decide) rfl⟩, quoteDone_row,
    fun s r hcalm h i hi => enrol_row s r hcalm h i hi, fun s r hcalm h => jciGo_row s r hcalm h, jciDone_row⟩

end Sys2Proof.Machine
end

section
/-! PROOF. What reading memory touches, wherever a view leads: headers, and registers of blocks from INTG on (R331, R202). -/

namespace Sys2Proof.Machine

/-- A register of a page's header, or of a block numbered from INTG's on. -/
abbrev farKeys (k : Nat) : Prop := k % 4096 < 0x40 ∨ blkNum .intg ≤ k / 4096 / 256

theorem farKeys_intg (f : Fld) (i n : Nat) (hb : f.blk = .intg) : farKeys (fldKey f i n) := by
  refine Or.inr ?_
  simp only [fldKey, regKey, hb, blkNum]
  omega

theorem hdrOr_far {bs : List Blk} (h : ∀ b ∈ bs, blkNum .intg ≤ blkNum b) (k : Nat) (hk : hdrOr bs k) : farKeys k := by
  rcases hk with hk | ⟨b, hb, hk⟩
  · exact Or.inl hk
  · have := h b hb
    exact Or.inr (by omega)

theorem raiseEvt_far (p : PageRef) (m : Nat) : (raiseEvt p m).Within memParts farKeys := (raiseEvt_memory p m).regs (hdrOr_far (by decide))

theorem healthNotice_far (n : Notice) : (healthNotice n).Within memParts farKeys := (healthNotice_memory n).regs (hdrOr_far (by decide))

theorem noteMark_far (u : MemUnit) : (noteMark u).Within memParts farKeys := (noteMark_within u).regs (hdrOr_far (by decide))

/-- Registers among which are those that a memory's own notes write. -/
structure NoteKeys (ks : Nat → Prop) : Prop where
  intg : ∀ (f : Fld) (i n : Nat), f.blk = .intg → f.off + n * f.stride < 0xC4 ∨ 0x100 ≤ f.off + n * f.stride ∧ f.off + n * f.stride < 4096 →
    ks (fldKey f i n)
  raise : ∀ (p : PageRef) (m : Nat), p.blk ≠ .mgmt → (raiseEvt p m).Within memParts ks
  health : ∀ n, (healthNotice n).Within memParts ks
  mark : ∀ u, (noteMark u).Within memParts ks

theorem noteKeys_far : NoteKeys farKeys := ⟨fun f i n h _ => farKeys_intg f i n h, fun p m _ => raiseEvt_far p m, healthNotice_far, noteMark_far⟩

theorem materialise_noRegs (u : MemUnit) (off : Nat) : (materialise u off).Within memParts fun _ => False := by
  simp [materialise, Upd.within, memParts]

section
variable {ks : Nat → Prop} (H : NoteKeys ks)
include H

theorem NoteKeys.logEntry (i kind mem addr syn : Nat) : (logEntry i kind mem addr syn).Within memParts ks := by
  simp only [Machine.logEntry, only_look_iff, only_acts_cons, only_acts_nil, within_setF, and_true]
  exact fun s => ⟨H.intg _ _ _ rfl (by simp only [INTG_LOG]; omega), H.intg _ _ _ rfl (by simp only [INTG_LOG]; omega),
    H.intg _ _ _ rfl (by decide)⟩

theorem NoteKeys.raiseIntg (i m : Nat) : (raiseEvt (intgPage i) m).Within memParts ks := H.raise _ _ (by simp [intgPage])

theorem NoteKeys.remap (u : MemUnit) (off : Nat) : (remap u off).Within memParts ks := by
  intro s
  dsimp only
  split
  · trivial
  · split
    next r hr =>
      have hr32 := List.mem_range.1 (List.mem_of_find?_eq_some hr)
      simp only [only_acts_cons, only_acts_nil, within_setF, only_upd_iff, Upd.within, and_true]
      exact ⟨H.intg _ _ _ rfl (by simp only [INTG_REMAP_VALID]; omega), H.intg _ _ _ rfl (by simp only [INTG_REMAP_ADDR]; omega),
        H.intg _ _ _ rfl (by decide), by decide, H.logEntry _ _ _ _ _, H.raiseIntg _ _⟩
    · simp only [only_acts_cons, only_acts_nil, cnt, within_incF, and_true]
      exact ⟨H.intg _ _ _ rfl (by decide), H.logEntry _ _ _ _ _, H.raiseIntg _ _, H.health _⟩

theorem NoteKeys.noteCE (u : MemUnit) (off syn : Nat) : (noteCE u off syn).Within memParts ks := by
  simp only [Machine.noteCE, only_acts_cons, only_acts_nil, cnt, within_incF, and_true]
  refine ⟨H.intg _ _ _ rfl (by decide), H.logEntry _ _ _ _ _, H.raiseIntg _ _, ?_⟩
  simp only [candidate, only_look_iff, only_ite_iff, only_upd_iff, Upd.within]
  exact fun s => ⟨fun _ => trivial, fun _ => ⟨fun _ => H.remap u off, fun _ => by decide⟩⟩

theorem NoteKeys.noteUE (u : MemUnit) (off syn : Nat) : (noteUE u off syn).Within memParts ks := by
  simp only [Machine.noteUE, only_acts_cons, only_acts_nil, cnt, within_incF, and_true]
  exact ⟨H.intg _ _ _ rfl (by decide), H.logEntry _ _ _ _ _, H.raiseIntg _ _, H.mark u, H.remap u off⟩

theorem NoteKeys.touchWord (u : MemUnit) (off : Nat) : (touchWord u off).Within memParts ks := by
  intro s
  dsimp only
  split
  · trivial
  · simp only [only_acts_cons, only_acts_nil, only_onlyIf_iff, only_upd_iff, Upd.within, and_true]
    exact ⟨fun _ => by decide, H.mark u⟩
  · simp only [only_ite_iff, only_acts_cons, only_acts_nil, only_upd_iff, Upd.within, and_true]
    exact ⟨fun _ => ⟨by decide, by decide, H.noteCE u off _⟩, fun _ => ⟨by decide, by decide, H.noteCE u off _⟩⟩
  · simp only [only_acts_cons, only_acts_nil, only_upd_iff, Upd.within, and_true]
    exact ⟨by decide, H.noteUE u off _⟩

theorem NoteKeys.touch (u : MemUnit) (off n : Nat) : (touch u off n).Within memParts ks := by
  simp only [Machine.touch, only_look_iff, only_ite_iff, only_each_iff, only_acts_cons, only_acts_nil, and_true]
  exact fun s => ⟨fun _ => trivial, fun _ w _ => ⟨(materialise_noRegs u w).regs fun _ h => h.elim, H.touchWord u w⟩⟩

/-- What a read of a local range touches. -/
theorem NoteKeys.touchLocal (a n : Nat) : (touchLocal a n).Within memParts ks := by
  intro s
  dsimp only
  split
  · refine only_ite (H.touch _ _ _) ((only_each_iff _ _ _).2 fun w _ => ?_)
    split
    · split
      · exact H.touch _ _ _
      · trivial
    · exact H.touch _ _ _
  · trivial

end

theorem logEntry_far (i kind mem addr syn : Nat) : (logEntry i kind mem addr syn).Within memParts farKeys := noteKeys_far.logEntry i kind mem addr syn

theorem touch_far (u : MemUnit) (off n : Nat) : (touch u off n).Within memParts farKeys := noteKeys_far.touch u off n

theorem touchLocal_far (a n : Nat) : (touchLocal a n).Within memParts farKeys := noteKeys_far.touchLocal a n

theorem writeLocal_far (a : Nat) (l : List (Byte × Bool)) : (writeLocal a l).Within memParts farKeys := (writeLocal_within a l).regs (hdrOr_far (by decide))

theorem putLocal_far (a : Nat) (l : List Byte) : (putLocal a l).Within memParts farKeys := writeLocal_far a _

/-- A register of a page's header, or of another block. -/
abbrev offBlk (b : Blk) (k : Nat) : Prop := k % 4096 < 0x40 ∨ k / 4096 / 256 ≠ blkNum b

theorem offBlk_of_far {b : Blk} (h : blkNum b < blkNum .intg) (k : Nat) (hk : farKeys k) : offBlk b k :=
  hk.imp_right fun hk => by omega

theorem offBlk_of_hdrOr {b : Blk} {bs : List Blk} (h : b ∉ bs) (k : Nat) (hk : hdrOr bs k) : offBlk b k :=
  hk.imp_right fun ⟨c, hc, hk⟩ he => h (by rw [← blkNum_inj c b (by omega)]; exact hc)

theorem not_offBlk (f : Fld) (i n : Nat) (hi : i < 256) (h0 : 0x40 ≤ f.off + n * f.stride) (ho : f.off + n * f.stride < 4096) :
    ¬ offBlk f.blk (fldKey f i n) := by
  obtain ⟨h1, h2⟩ := fldKey_parts f i n hi ho
  rintro (h | h)
  · omega
  · exact h h1

end Sys2Proof.Machine
end

section
/-! PROOF. What the reduction engines' programs leave of a sheaf's identity while it is open, and of its tag once it is closed
(R258 to R270). -/

namespace Sys2Proof.Machine

/-! ### Sheaves -/

/-- A change of one sheaf that keeps tags. -/
theorem sheafOf_updSheaf (s : State) (tag' : Nat) (f : Sheaf → Sheaf) (hf : ∀ y, (f y).tag = y.tag) (tag : Nat) :
    sheafOf ((updSheaf tag' f).run s) tag = (sheafOf s tag).map fun y => if y.tag = tag' then f y else y := by
  change (s.shef.open_.map fun x => if x.tag = tag' then f x else x).find? (fun x => x.tag == tag) = _
  rw [List.find?_map, sheafOf]
  congr 1
  refine congrArg (fun p => s.shef.open_.find? p) (funext fun y => ?_)
  change ((if y.tag = tag' then f y else y).tag == tag) = (y.tag == tag)
  split
  · rw [hf]
  · rfl

theorem sheafOf_tag {s : State} {tag : Nat} {x : Sheaf} (h : sheafOf s tag = some x) : x.tag = tag := by
  have := List.find?_some h
  simpa using this

theorem tags_updSheaf (s : State) (tag' : Nat) (f : Sheaf → Sheaf) (hf : ∀ y, (f y).tag = y.tag) :
    ((updSheaf tag' f).run s).shef.open_.map (·.tag) = s.shef.open_.map (·.tag) := by
  change (s.shef.open_.map fun x => if x.tag = tag' then f x else x).map (·.tag) = _
  rw [List.map_map]
  refine List.map_congr_left fun y _ => ?_
  change (if y.tag = tag' then f y else y).tag = y.tag
  split
  · rw [hf]
  · rfl

theorem addBlock_id (x : Sheaf) (t idx clip : Nat) (vals : List Int) (cls : List Nat) (marks : List Bool) :
    (addBlock x t idx clip vals cls marks).tag = x.tag ∧ (addBlock x t idx clip vals cls marks).gen = x.gen ∧
    (addBlock x t idx clip vals cls marks).rec_ = x.rec_ := by
  unfold addBlock
  split <;> exact ⟨rfl, rfl, rfl⟩

theorem addBlocks_tag {α : Type} (l : List α) (f : Sheaf → α → Sheaf) (hf : ∀ z b, (f z b).tag = z.tag) (y : Sheaf) : (l.foldl f y).tag = y.tag := by
  induction l generalizing y with
  | nil => rfl
  | cons b l ih => exact (ih _).trans (hf y b)

/-! ### Programs that keep the engines' own state -/

/-- The registers that a sheaf's programs touch beside OPEN_CNT: none of SHEF's but counts other than TIMEOUT's. -/
abbrev shefQuiet (k : Nat) : Prop := offBlk .shef k ∨ ∃ n, n ≠ 3 ∧ k = fldKey SHEF_SHCNT 0 n

/-- A program that leaves sheaves, lineages, OPEN_CNT and the count of timeouts alone. -/
def Act.ShefQuiet (a : Act) : Prop := ∃ ps : List Part, Part.shef ∉ ps ∧ a.Within ps shefQuiet

theorem shefQuiet_far {ps : List Part} {a : Act} (hp : Part.shef ∉ ps) (h : a.Within ps farKeys) : a.ShefQuiet :=
  ⟨ps, hp, h.regs fun k hk => Or.inl (offBlk_of_far (by decide) k hk)⟩

theorem shefQuiet_hdrOr {ps : List Part} {bs : List Blk} {a : Act} (hp : Part.shef ∉ ps) (hb : .shef ∉ bs) (h : a.Within ps (hdrOr bs)) : a.ShefQuiet :=
  ⟨ps, hp, h.regs fun k hk => Or.inl (offBlk_of_hdrOr hb k hk)⟩

theorem shTouch_quiet (x : Sheaf) : (shTouch x).ShefQuiet := shefQuiet_far (by decide) (only_onlyIf _ _ _ fun _ => touchLocal_far _ _)

theorem putResult_quiet (x : Sheaf) (outcome flags imp : Nat) (g : SheafEpi) : (putResult x outcome flags imp g).ShefQuiet :=
  shefQuiet_far (by decide) (only_onlyIf _ _ _ fun _ => putLocal_far _ _)

theorem shTarget_quiet (x : Sheaf) (o : Nat) : (shTarget x o).ShefQuiet :=
  shefQuiet_hdrOr (ps := targetParts) (bs := [.pres, .link, .slqp]) (by decide) (by decide) fun _ => (sendTarget0_within _ _).regs hdrOr_sent

theorem raiseShef_quiet (b : Nat) : (raiseShef b).ShefQuiet :=
  shefQuiet_hdrOr (ps := [.events, .out]) (bs := [.slqp]) (by decide) (by decide) fun _ => (only_each_iff _ _ _).2 fun p _ =>
    raiseEvt_hdrOr p _ (by decide) (by decide) (by decide)

theorem sheafMsg_quiet (n : Nat) (m : SheafMsg) : (sendMsg n .none (.sheaf m)).ShefQuiet :=
  shefQuiet_hdrOr (ps := fabricParts) (bs := [.link, .slqp]) (by decide) (by decide) (sendMsg_within _ _ _)

theorem shefCount_quiet (n : Nat) (h : n ≠ 3) : (cnt SHEF_SHCNT n).ShefQuiet :=
  ⟨[], by decide, (within_incF _ _ _ _).2 (Or.inr ⟨n, h, rfl⟩)⟩

theorem shBroadcast_quiet (x : Sheaf) (t : Nat) (m : SheafMsg) : (shBroadcast x t m).ShefQuiet :=
  shefQuiet_hdrOr (ps := fabricParts) (bs := [.link, .slqp]) (by decide) (by decide) fun _ => (only_each_iff _ _ _).2 fun _ _ => sendMsg_within _ _ _

theorem Act.ShefQuiet.shef {a : Act} (h : a.ShefQuiet) (s : State) : (a.run s).shef = s.shef := by
  obtain ⟨ps, hp, hw⟩ := h
  exact hw.same .shef hp s

theorem Act.ShefQuiet.cnt {a : Act} (h : a.ShefQuiet) (s : State) : fv (a.run s) SHEF_OPEN_CNT = fv s SHEF_OPEN_CNT := by
  obtain ⟨ps, hp, hw⟩ := h
  refine hw.fv s _ _ _ ?_
  rintro (h | ⟨n, hn, h⟩)
  · exact not_offBlk SHEF_OPEN_CNT 0 0 (by decide) (by decide) (by decide) h
  · simp only [fldKey, regKey, SHEF_OPEN_CNT, SHEF_SHCNT] at h; omega

theorem Act.ShefQuiet.timeouts {a : Act} (h : a.ShefQuiet) (s : State) : fv (a.run s) SHEF_SHCNT 0 3 = fv s SHEF_SHCNT 0 3 := by
  obtain ⟨ps, hp, hw⟩ := h
  refine hw.fv s _ _ _ ?_
  rintro (h | ⟨n, hn, h⟩)
  · exact not_offBlk SHEF_SHCNT 0 3 (by decide) (by decide) (by decide) h
  · simp only [fldKey, regKey, SHEF_SHCNT] at h; omega

/-! ### Programs over a sheaf, step by step -/

theorem stable_withSheaf {P : State → Prop} {tag : Nat} {k : State → Sheaf → Act} (h : ∀ s x, P s → sheafOf s tag = some x → (k s x).Stable P) :
    (withSheaf tag k).Stable P := by
  intro s hs
  rw [withSheaf, runs_look]
  cases hx : sheafOf s tag with
  | none => exact hs
  | some x => exact h s x hs hx s hs

/-! ### A tag that is closed -/

/-- A tag is closed with a GEN, its lineage is without a value, and TIMEOUT's count is what it was. -/
def tagClosed (tag gen line c : Nat) (s : State) : Prop :=
  sheafOf s tag = none ∧ (tag, gen) ∈ s.shef.closed ∧ (lineOf s line).1 = false ∧ fv s SHEF_SHCNT 0 3 = c

section
variable {tag gen line c : Nat}

theorem tagClosed_quiet {a : Act} (h : a.ShefQuiet) : a.Stable (tagClosed tag gen line c) := fun s ⟨h1, h2, h3, h4⟩ => by
  have hs := h.shef s
  exact ⟨by unfold sheafOf; rw [hs]; exact h1, by rw [hs]; exact h2, by unfold lineOf; rw [hs]; exact h3, by rw [h.timeouts s]; exact h4⟩

theorem tagClosed_updSheaf (tag' : Nat) (f : Sheaf → Sheaf) (hf : ∀ y, (f y).tag = y.tag) : (updSheaf tag' f).Stable (tagClosed tag gen line c) :=
  fun s ⟨h1, h2, h3, h4⟩ => ⟨by rw [sheafOf_updSheaf s tag' f hf, h1]; rfl, h2, h3, h4⟩

theorem tagClosed_setLine (l e : Nat) : (setLine l (false, e)).Stable (tagClosed tag gen line c) := fun s ⟨h1, h2, h3, h4⟩ => by
  refine ⟨h1, h2, ?_, h4⟩
  change (mapGet _ (mapSet _ s.shef.lines l (false, e)) line).1 = false
  rw [mapGet_mapSet]
  split
  · rfl
  · exact h3

theorem tagClosed_setOpenCnt : setOpenCnt.Stable (tagClosed tag gen line c) := fun s ⟨h1, h2, h3, h4⟩ =>
  ⟨h1, h2, h3, by
    rw [setOpenCnt, runs_look, fv_setF_other _ _ _ _ _ _ _ _ (by decide) (Or.inl (by decide))]; exact h4⟩

/-- Another tag's close leaves a closed tag closed. -/
theorem tagClosed_shClose (tag' gen' : Nat) (hne : tag' ≠ tag) : (shClose tag' gen').Stable (tagClosed tag gen line c) := by
  refine stable_cons (fun s ⟨h1, h2, h3, h4⟩ => ⟨?_, ?_, h3, h4⟩) (stable_cons tagClosed_setOpenCnt stable_nil)
  · change (s.shef.open_.filter fun x => x.tag != tag').find? (fun x => x.tag == tag) = none
    unfold sheafOf at h1
    rw [List.find?_eq_none] at h1 ⊢
    exact fun y hy => h1 y (List.mem_of_mem_filter hy)
  · change (tag, gen) ∈ (tag', gen') :: s.shef.closed.filter fun p => p.1 != tag'
    exact List.mem_cons_of_mem _ (List.mem_filter.2 ⟨h2, by simpa using hne.symm⟩)

theorem open_ne_closed {s : State} {tag' : Nat} {x : Sheaf} (h : tagClosed tag gen line c s) (hx : sheafOf s tag' = some x) : tag' ≠ tag := by
  rintro rfl
  rw [h.1] at hx
  exact absurd hx (by simp)

theorem tagClosed_sendStage (tag' t : Nat) (mm : Bool) : (sendStage tag' t mm).Stable (tagClosed tag gen line c) := by
  refine stable_withSheaf fun s x _ _ => stable_cons (stable_each fun j _ => stable_onlyIf fun _ => stable_each fun b _ => ?_)
    (stable_cons (stable_onlyIf fun _ => tagClosed_updSheaf _ _ fun y => addBlocks_tag _ _ (fun z b => (addBlock_id _ _ _ _ _ _ _).1) y) stable_nil)
  exact tagClosed_quiet (sheafMsg_quiet _ _)

theorem tagClosed_shSrcDone (tag' : Nat) : (shSrcDone tag').Stable (tagClosed tag gen line c) :=
  stable_withSheaf fun _ _ _ _ => stable_onlyIf fun _ => stable_cons (tagClosed_updSheaf _ _ fun _ => rfl)
    (stable_cons (tagClosed_quiet (shTarget_quiet _ _)) stable_nil)

theorem tagClosed_shEnd (tag' outcome : Nat) : (shEnd tag' outcome).Stable (tagClosed tag gen line c) := by
  refine stable_cons (tagClosed_shSrcDone _) (stable_cons (stable_withSheaf fun s x hs hx => ?_) stable_nil)
  exact stable_cons (tagClosed_quiet (putResult_quiet _ _ _ _ _)) (stable_cons (tagClosed_quiet (shTarget_quiet _ _))
    (stable_cons (tagClosed_shClose _ _ (open_ne_closed hs hx)) (stable_cons (tagClosed_setLine _ _) stable_nil)))

theorem tagClosed_shMismatch (tag' : Nat) : (shMismatch tag').Stable (tagClosed tag gen line c) :=
  stable_withSheaf fun _ _ _ _ => stable_cons (stable_each fun _ _ => tagClosed_sendStage _ _ _)
    (stable_cons (tagClosed_quiet (shefCount_quiet 4 (by decide))) (stable_cons (tagClosed_quiet (raiseShef_quiet _))
      (stable_cons (tagClosed_shEnd _ _) stable_nil)))

theorem tagClosed_shBlock (tag' : Nat) (m : SheafMsg) : (shBlock tag' m).Stable (tagClosed tag gen line c) := by
  refine stable_withSheaf fun s x _ _ => ?_
  split
  · split
    · exact tagClosed_updSheaf _ _ fun _ => rfl
    · exact stable_ite (tagClosed_shMismatch _) (tagClosed_updSheaf _ _ fun _ => (addBlock_id _ _ _ _ _ _ _).1)
  · exact fun _ h => h

theorem tagClosed_fixScale (tag' e : Nat) : (fixScale tag' e).Stable (tagClosed tag gen line c) :=
  stable_withSheaf fun _ _ _ _ => stable_cons (tagClosed_updSheaf _ _ fun _ => rfl)
    (stable_cons (stable_each fun _ _ => tagClosed_shBlock _ _) stable_nil)

theorem tagClosed_scaleFrom (tag' : Nat) (l : List Nat) : (scaleFrom tag' l).Stable (tagClosed tag gen line c) := by
  induction l with
  | nil => exact stable_withSheaf fun _ _ _ _ => tagClosed_fixScale _ _
  | cons t l ih =>
    refine stable_withSheaf fun _ x _ _ => stable_ite ih (stable_cons (tagClosed_quiet (shBroadcast_quiet _ _ _))
      (stable_cons (tagClosed_updSheaf _ _ fun _ => rfl) (stable_cons (stable_withSheaf fun _ y _ _ => ?_) stable_nil)))
    exact stable_ite (fun _ h => h) (stable_cons (tagClosed_updSheaf _ _ fun _ => rfl) (stable_cons ih stable_nil))

theorem tagClosed_shBegin (tag' : Nat) : (shBegin tag').Stable (tagClosed tag gen line c) := by
  refine stable_withSheaf fun s x _ _ => ?_
  have hagree : ∀ b : Bool, (acts [shTouch x,
      look fun t => updSheaf tag' fun y => { y with eMax := shEcon t x, econ := shEcon t x, flags := y.flags ||| (16 * b2n b) },
      onlyIf b (cnt SHEF_SHCNT 7), scaleFrom tag' [1, 2, 3]]).Stable (tagClosed tag gen line c) := fun b =>
    stable_cons (tagClosed_quiet (shTouch_quiet x)) (stable_cons (stable_look fun _ => tagClosed_updSheaf _ _ fun _ => rfl)
      (stable_cons (stable_onlyIf fun _ => tagClosed_quiet (shefCount_quiet 7 (by decide))) (stable_cons (tagClosed_scaleFrom _ _) stable_nil)))
  exact stable_ite (hagree false) (stable_ite (tagClosed_updSheaf _ _ fun _ => rfl) (stable_ite (tagClosed_fixScale _ _) (hagree true)))

theorem tagClosed_lineRelease : lineRelease.Stable (tagClosed tag gen line c) := stable_look fun _ => stable_each fun _ _ => tagClosed_shBegin _

end

end Sys2Proof.Machine
end

section
/-! PROOF. Sheaves open and close (R258 to R263, R270, R272). -/

namespace Sys2Proof.Machine

/-! ### A tag that is open -/

/-- A sheaf with a property is open under a tag; the open tags, OPEN_CNT and TIMEOUT's count are what they were. -/
def tagOpen (tag : Nat) (P : Sheaf → Prop) (tags : List Nat) (n c : Nat) (s : State) : Prop :=
  (∃ y, sheafOf s tag = some y ∧ P y) ∧ s.shef.open_.map (·.tag) = tags ∧ fv s SHEF_OPEN_CNT = n ∧ fv s SHEF_SHCNT 0 3 = c

section
variable {tag : Nat} {P : Sheaf → Prop} {tags : List Nat} {n c : Nat}

theorem tagOpen_start {s : State} {x : Sheaf} (hx : sheafOf s tag = some x) (hP : P x) :
    tagOpen tag P (s.shef.open_.map (·.tag)) (fv s SHEF_OPEN_CNT) (fv s SHEF_SHCNT 0 3) s := ⟨⟨x, hx, hP⟩, rfl, rfl, rfl⟩

theorem tagOpen_quiet {a : Act} (h : a.ShefQuiet) : a.Stable (tagOpen tag P tags n c) := fun s ⟨⟨y, h1, h2⟩, h3, h4, h5⟩ => by
  have hs := h.shef s
  exact ⟨⟨y, by unfold sheafOf; rw [hs]; exact h1, h2⟩, by rw [hs]; exact h3, (h.cnt s).trans h4, (h.timeouts s).trans h5⟩

theorem tagOpen_updSheaf (tag' : Nat) (f : Sheaf → Sheaf) (ht : ∀ y, (f y).tag = y.tag) (hf : ∀ y, P y → P (f y)) :
    (updSheaf tag' f).Stable (tagOpen tag P tags n c) := fun s ⟨⟨y, h1, h2⟩, h3, h4, h5⟩ => by
  refine ⟨⟨_, by rw [sheafOf_updSheaf s tag' f ht, h1]; rfl, ?_⟩, (tags_updSheaf s tag' f ht).trans h3, h4, h5⟩
  change P (if y.tag = tag' then f y else y)
  split
  · exact hf y h2
  · exact h2

/-- A program over the open sheaf. -/
theorem tagOpen_withSheaf {k : State → Sheaf → Act} (h : ∀ s x, P x → sheafOf s tag = some x → (k s x).Stable (tagOpen tag P tags n c)) :
    (withSheaf tag k).Stable (tagOpen tag P tags n c) :=
  stable_withSheaf fun s x ⟨⟨y, h1, h2⟩, _⟩ hx => by
    rw [hx] at h1
    cases h1
    exact h s x h2 hx

end

/-- A close takes the tag's sheaf away, and notes its GEN. -/
theorem shClose_gone (s : State) (tag gen : Nat) :
    sheafOf ((shClose tag gen).run s) tag = none ∧ (tag, gen) ∈ ((shClose tag gen).run s).shef.closed ∧
      ((shClose tag gen).run s).shef.lines = s.shef.lines ∧ fv ((shClose tag gen).run s) SHEF_SHCNT 0 3 = fv s SHEF_SHCNT 0 3 := by
  refine ⟨?_, List.mem_cons_self .., rfl, ?_⟩
  · change (s.shef.open_.filter fun x => x.tag != tag).find? (fun x => x.tag == tag) = none
    rw [List.find?_eq_none]
    intro y hy
    have := (List.mem_filter.1 hy).2
    simpa using this
  · change fv (setOpenCnt.run _) SHEF_SHCNT 0 3 = _
    rw [setOpenCnt, runs_look, fv_setF_other _ _ _ _ _ _ _ _ (by decide) (Or.inl (by decide))]
    rfl

theorem lineOf_setLine_self (s : State) (l : Nat) (v : Bool × Nat) : lineOf ((setLine l v).run s) l = v := by
  change mapGet _ (mapSet _ s.shef.lines l v) l = v
  rw [mapGet_mapSet_self]

theorem lineOf_setLine_ne (s : State) (l : Nat) (v : Bool × Nat) (k : Nat) (h : k ≠ l) : lineOf ((setLine l v).run s) k = lineOf s k := by
  change mapGet _ (mapSet _ s.shef.lines l v) k = _
  rw [mapGet_mapSet_ne _ _ _ _ _ h]
  rfl

/-- A close where the lineage is already without a value. -/
theorem tagClosed_of_close (s : State) (tag gen line : Nat) (hl : (lineOf s line).1 = false) :
    tagClosed tag gen line (fv s SHEF_SHCNT 0 3) ((shClose tag gen).run s) := by
  obtain ⟨hgone, hclosed, hlines, hcnt⟩ := shClose_gone s tag gen
  exact ⟨hgone, hclosed, by unfold lineOf; rw [hlines]; exact hl, hcnt⟩

/-- A close whose lineage is then left without a value. -/
theorem tagOpen_closes {s : State} {tag : Nat} {P : Sheaf → Prop} {tags : List Nat} {n c : Nat} (h : tagOpen tag P tags n c s) (gen line e : Nat) :
    tagClosed tag gen line c ((setLine line (false, e)).run ((shClose tag gen).run s)) := by
  obtain ⟨hgone, hclosed, -, hcnt⟩ := shClose_gone s tag gen
  exact ⟨hgone, hclosed, by rw [lineOf_setLine_self], hcnt.trans h.2.2.2⟩

/-- A sheaf of a GEN and a record. -/
def sheafIs (gen : Nat) (rec_ : List Byte) (y : Sheaf) : Prop := y.gen = gen ∧ y.rec_ = rec_

/-- An end closes the tag. -/
theorem shEnd_closes {s : State} {tag : Nat} {gen : Nat} {rec_ : List Byte} {tags : List Nat} {n c : Nat} (outcome : Nat)
    (h : tagOpen tag (sheafIs gen rec_) tags n c s) :
    tagClosed tag gen (opLine rec_) c ((shEnd tag outcome).run s) := by
  have hsrc : (shSrcDone tag).Stable (tagOpen tag (sheafIs gen rec_) tags n c) :=
    tagOpen_withSheaf fun _ _ _ _ => stable_onlyIf fun _ => stable_cons (tagOpen_updSheaf _ _ (fun _ => rfl) fun _ h => h)
      (stable_cons (tagOpen_quiet (shTarget_quiet _ _)) stable_nil)
  have h1 := hsrc s h
  obtain ⟨⟨x, hx, hgen, hrec⟩, -⟩ := id h1
  rw [shEnd, run_acts_cons, run_acts_cons, runs_nil, withSheaf, runs_look, hx]
  dsimp only
  rw [run_acts_cons, run_acts_cons, run_acts_cons, run_acts_cons, runs_nil, hgen, hrec]
  exact tagOpen_closes (tagOpen_quiet (shTarget_quiet _ _) _ (tagOpen_quiet (putResult_quiet _ _ _ _ _) _ h1)) _ _ _

/-! ### SHEF's registers -/

/-- A row that writes a SHEF register. -/
theorem exec_shef_row (s : State) (c : Instr) (r : Requester) (n off v : Nat) (d : RegDef) (hs : isLinkSite s.build n = true)
    (hc : rowWrite s c = some (r, siteReg n 0 off, 4, v)) (h : accepted s r (siteReg n 0 off) 4 v = true)
    (hd : regAt .shef off = some (d, off)) (hlo : 0x40 ≤ off) (hne : off ≠ 0x0AC) (hhi : off < 4096) (hv : v < 2 ^ 32) :
    exec c s = .next (answered ((shefApply s off v).run (stored s ⟨.shef, n⟩ d off v)) r (siteReg n 0 off)) ∧
      firstErr (shefErrs s off v) = .ok := by
  have ho : raOff (siteReg n 0 off) = off := (regAddr_parts _ _ off (by have := isLinkSite_lt _ _ hs; omega) (by decide) hhi).2.2.2
  have hrow := exec_page_row s c r _ off v ⟨.shef, n⟩ d off hc h (pageOf_shefReg s n off hs hhi) ho hd
    ⟨hlo, by simp, fun h => hne h.2⟩ hv rfl
  simp only [hookErrs, hookApply, if_neg (Nat.not_lt.2 hlo)] at hrow
  exact hrow

/-- OPEN_CTL's register. -/
theorem shef_openReg : ∃ d, regAt .shef 0x0A0 = some (d, 0x0A0) := ⟨_, rfl⟩

/-- A staged record is applied. -/
theorem exec_shefRecord_row (s : State) (c : Instr) (r : Requester) (n : Nat) (hs : isLinkSite s.build n = true)
    (hc : rowWrite s c = some (r, siteReg n 0 0x0A0, 4, 1)) (h : accepted s r (siteReg n 0 0x0A0) 4 1 = true) :
    ∃ u : State, exec c s = .next (answered ((shefRecord (stagedRec s SHEF_OPEN_W 0 16)).run u) r (siteReg n 0 0x0A0)) ∧
      firstErr (openErrs s (stagedRec s SHEF_OPEN_W 0 16)) = .ok ∧ u.shef = s.shef ∧ u.mem = s.mem ∧ u.syn = s.syn ∧ u.press = s.press ∧
      ∀ f i m, fldKey f i m ≠ fldKey ⟨.shef, 0x0A0, 0, 31, 0⟩ 0 0 → fv u f i m = fv s f i m := by
  obtain ⟨d, hd⟩ := shef_openReg
  obtain ⟨hrun, herr⟩ := exec_shef_row s c r n 0x0A0 1 d hs hc h hd (by decide) (by decide) (by decide) (by decide)
  have hb : bit 1 0 = true := by decide
  have happ : shefApply s 0x0A0 1 = onlyIf true (shefRecord (stagedRec s SHEF_OPEN_W 0 16)) := by rw [shefApply, if_pos rfl, hb]
  have herrs : shefErrs s 0x0A0 1 = openErrs s (stagedRec s SHEF_OPEN_W 0 16) := by
    rw [shefErrs, if_neg (by decide), if_pos rfl, hb, if_pos rfl]
  rw [happ, run_onlyIf_of_true _ _ rfl] at hrun
  rw [herrs] at herr
  exact ⟨_, hrun, herr, rfl, rfl, rfl, rfl, fun f i m hne => fv_stored_other s _ d _ 1 f i m hne⟩

/-! ### Opening -/

/-- What an accepted OPEN has passed: its tag is free, and there is room, unless it is of zero length. -/
theorem openErrs_ok {s : State} {x : List Byte} (ht : recLE x 0 1 = 1) (h : firstErr (openErrs s x) = .ok) (hlen : opLen x ≠ 0) :
    sheafOf s (opTag x) = none ∧ s.shef.open_.length < 4096 := by
  unfold openErrs at h
  dsimp only at h
  rw [if_neg (by omega), if_neg (by omega)] at h
  obtain ⟨h, hcap⟩ := firstErr_append_ok h
  obtain ⟨-, huse⟩ := firstErr_append_ok h
  have h1 := firstErr_when_ok (by decide) hcap
  have h2 := firstErr_when_ok (by decide) huse
  rw [bne_iff_ne.2 hlen, Bool.true_and] at h1 h2
  exact ⟨by simpa using h2, by simpa using h1⟩

/-- A sheaf that has just opened: its GEN, its record, its group, and no block met early. -/
def newIs (gen : Nat) (rec_ grp : List Byte) (y : Sheaf) : Prop := y.gen = gen ∧ y.rec_ = rec_ ∧ y.grp = grp ∧ y.early = []

section
variable {tag gen n c : Nat} {rec_ grp : List Byte} {tags : List Nat}

theorem newOpen_fixScale (e : Nat) : (fixScale tag e).Stable (tagOpen tag (newIs gen rec_ grp) tags n c) := by
  refine tagOpen_withSheaf fun s x ⟨_, _, _, hearly⟩ _ => ?_
  refine stable_cons (tagOpen_updSheaf _ _ (fun _ => rfl) fun y ⟨h1, h2, h3, _⟩ => ⟨h1, h2, h3, rfl⟩) (stable_cons ?_ stable_nil)
  rw [hearly]
  exact stable_each fun _ h => absurd h (by simp)

theorem newOpen_scaleFrom (l : List Nat) : (scaleFrom tag l).Stable (tagOpen tag (newIs gen rec_ grp) tags n c) := by
  induction l with
  | nil => exact tagOpen_withSheaf fun _ _ _ _ => newOpen_fixScale _
  | cons t l ih =>
    refine tagOpen_withSheaf fun _ x _ _ => stable_ite ih (stable_cons (tagOpen_quiet (shBroadcast_quiet _ _ _))
      (stable_cons (tagOpen_updSheaf _ _ (fun _ => rfl) fun _ h => h) (stable_cons (tagOpen_withSheaf fun _ y _ _ => ?_) stable_nil)))
    exact stable_ite (fun _ h => h) (stable_cons (tagOpen_updSheaf _ _ (fun _ => rfl) fun _ h => h) (stable_cons ih stable_nil))

theorem newOpen_shBegin : (shBegin tag).Stable (tagOpen tag (newIs gen rec_ grp) tags n c) := by
  refine tagOpen_withSheaf fun s x _ _ => ?_
  have hagree : ∀ b : Bool, (acts [shTouch x,
      look fun t => updSheaf tag fun y => { y with eMax := shEcon t x, econ := shEcon t x, flags := y.flags ||| (16 * b2n b) },
      onlyIf b (cnt SHEF_SHCNT 7), scaleFrom tag [1, 2, 3]]).Stable (tagOpen tag (newIs gen rec_ grp) tags n c) := fun b =>
    stable_cons (tagOpen_quiet (shTouch_quiet x)) (stable_cons (stable_look fun _ => tagOpen_updSheaf _ _ (fun _ => rfl) fun _ h => h)
      (stable_cons (stable_onlyIf fun _ => tagOpen_quiet (shefCount_quiet 7 (by decide))) (stable_cons (newOpen_scaleFrom _) stable_nil)))
  exact stable_ite (hagree false) (stable_ite (tagOpen_updSheaf _ _ (fun _ => rfl) fun _ h => h)
    (stable_ite (newOpen_fixScale _) (hagree true)))

end

theorem tagOpen_parkHeld {tag n c : Nat} {P : Sheaf → Prop} {tags : List Nat} (l : List (Nat × SheafMsg)) :
    (parkHeld l).Stable (tagOpen tag P tags n c) := by
  induction l with
  | nil => exact stable_nil
  | cons m l ih => exact stable_cons (stable_look fun s => stable_onlyIf fun _ _ h => h) (stable_cons ih stable_nil)

/-- An OPEN whose tag is free, with no message waiting for it. -/
theorem sheafOpen_opens {u : State} {x : List Byte} (hlen : opLen x ≠ 0) (hfree : sheafOf u (opTag x) = none)
    (hroom : u.shef.open_.length < 4096) (hnone : ∀ m ∈ u.shef.parked ++ u.shef.held, msgTag m.2 ≠ (opTag x, opGen x)) :
    tagOpen (opTag x) (newIs (opGen x) x (groupRec u (recLE x 7 1))) (u.shef.open_.map (·.tag) ++ [opTag x])
      (u.shef.open_.length + 1) (fv u SHEF_SHCNT 0 3) ((sheafOpen x).run u) := by
  have hmine : ((u.shef.parked ++ u.shef.held).filter fun m => msgTag m.2 == (opTag x, opGen x)) = [] :=
    List.filter_eq_nil_iff.2 fun m hm => by simpa using hnone m hm
  rw [sheafOpen, runs_look]
  dsimp only
  rw [if_neg hlen, hmine]
  refine (stable_cons newOpen_shBegin (stable_cons (stable_each fun _ h => absurd h (by simp))
    (stable_cons (stable_look fun _ => tagOpen_parkHeld _) stable_nil))) (setOpenCnt.run _) ⟨⟨newSheaf x (groupRec u (recLE x 7 1)), ?_, rfl, rfl, rfl, rfl⟩, ?_, ?_, ?_⟩
  · change (u.shef.open_ ++ [newSheaf x _]).find? (fun y => y.tag == opTag x) = _
    have hfree' : u.shef.open_.find? (fun y => y.tag == opTag x) = none := hfree
    rw [List.find?_append, hfree']
    simp [newSheaf]
  · change (u.shef.open_ ++ [newSheaf x _]).map (·.tag) = _
    rw [List.map_append]
    rfl
  · rw [setOpenCnt, runs_look, fv_setF_eq _ _ _ _ _ (by decide) (by decide)]
    change (u.shef.open_ ++ [newSheaf x _]).length % _ = _
    rw [List.length_append]
    exact Nat.mod_eq_of_lt (by simp [SHEF_OPEN_CNT]; omega)
  · rw [setOpenCnt, runs_look, fv_setF_other _ _ _ _ _ _ _ _ (by decide) (Or.inl (by decide))]
    rfl

theorem groupRec_congr {s t : State} (hm : t.mem = s.mem) (hs : t.syn = s.syn) (hb : fv t SHEF_GROUP_BASE = fv s SHEF_GROUP_BASE) (g : Nat) :
    groupRec t g = groupRec s g := by
  unfold groupRec
  rw [hbmBytesAt_congr hm hs, hb]

theorem sheafOpen_row (s : State) (r : Requester) (n : Nat) (hs : isLinkSite s.build n = true) (ht : stagedType s SHEF_OPEN_W 0 = 1)
    (h : accepted s r (siteReg n 0 0x0A0) 4 1 = true) :
    let x := stagedRec s SHEF_OPEN_W 0 16
    ∃ t, exec (.sheafOpen (some r) n) s = .next t ∧
      (opLen x = 0 → t.shef = s.shef) ∧
      (opLen x ≠ 0 → (∀ m ∈ s.shef.parked ++ s.shef.held, msgTag m.2 ≠ (opTag x, opGen x)) →
        fv t SHEF_OPEN_CNT = s.shef.open_.length + 1 ∧
        t.shef.open_.map (·.tag) = s.shef.open_.map (·.tag) ++ [opTag x] ∧
        ∃ y, sheafOf t (opTag x) = some y ∧ y.gen = opGen x ∧ y.rec_ = x ∧ y.grp = groupRec s (recLE x 7 1)) := by
  intro x
  obtain ⟨u, hrun, herr, hshef, hm, hsyn, -, hfv⟩ := exec_shefRecord_row s (.sheafOpen (some r) n) r n hs (if_pos ⟨hs, ht⟩) h
  have htype : recLE x 0 1 = 1 := (recLE_stagedRec s SHEF_OPEN_W 0).trans ht
  rw [shefRecord, if_pos htype] at hrun
  refine ⟨_, hrun, fun hlen => ?_, fun hlen hnone => ?_⟩
  · change ((sheafOpen x).run u).shef = _
    rw [sheafOpen, runs_look]
    dsimp only
    rw [if_pos hlen, run_acts_cons, run_acts_cons, run_acts_cons, runs_nil, (shTarget_quiet _ _).shef, (putResult_quiet _ _ _ _ _).shef,
      (shTarget_quiet _ _).shef, hshef]
  · obtain ⟨hfree, hroom⟩ := openErrs_ok htype herr hlen
    have hfree' : sheafOf u (opTag x) = none := by unfold sheafOf; rw [hshef]; exact hfree
    rw [← hshef] at hroom hnone
    obtain ⟨⟨y, hy, hgen, hrec, hgrp, -⟩, htags, hcnt, -⟩ := sheafOpen_opens hlen hfree' hroom hnone
    rw [hshef] at htags hcnt
    have hbase : fv u SHEF_GROUP_BASE = fv s SHEF_GROUP_BASE := hfv _ _ _ (by decide)
    exact ⟨hcnt, htags, y, hy, hgen, hrec, hgrp.trans (groupRec_congr hm hsyn hbase _)⟩

theorem sheafAbort_row (s : State) (r : Requester) (n : Nat) (x : Sheaf) (hs : isLinkSite s.build n = true)
    (ht : stagedType s SHEF_OPEN_W 0 = 2) (h : accepted s r (siteReg n 0 0x0A0) 4 1 = true)
    (hx : sheafOf s (opTag (stagedRec s SHEF_OPEN_W 0 16)) = some x) :
    ∃ t, exec (.sheafAbort (some r) n) s = .next t ∧ sheafOf t x.tag = none ∧ (x.tag, x.gen) ∈ t.shef.closed ∧
      (lineOf t (opLine x.rec_)).1 = false := by
  obtain ⟨u, hrun, -, hshef, -⟩ := exec_shefRecord_row s (.sheafAbort (some r) n) r n hs (if_pos ⟨hs, ht⟩) h
  have htype : recLE (stagedRec s SHEF_OPEN_W 0 16) 0 1 = 2 := (recLE_stagedRec s SHEF_OPEN_W 0).trans ht
  rw [shefRecord, if_neg (by omega)] at hrun
  have hx' : sheafOf u (opTag (stagedRec s SHEF_OPEN_W 0 16)) = some x := by unfold sheafOf; rw [hshef]; exact hx
  have hend := shEnd_closes 4 (tagOpen_start (P := sheafIs x.gen x.rec_) hx' ⟨rfl, rfl⟩)
  obtain ⟨h1, h2, h3, -⟩ := tagClosed_lineRelease _ hend
  rw [← sheafOf_tag hx] at hrun h1 h2 h3
  have habort : (sheafAbort x.tag).run u = lineRelease.run ((shEnd x.tag 4).run u) := by
    rw [sheafAbort, run_acts_cons, run_acts_cons, runs_nil]
  rw [habort] at hrun
  exact ⟨_, hrun, h1, h2, h3⟩

/-! ### Ends by time -/

theorem sheafTimeout_ends (s : State) (tag n : Nat) (x : Sheaf) (hx : sheafOf s tag = some x) (hdl : opNoDl x.rec_ = false)
    (hr : reached ((timeTo n).run s) (opDeadline x.rec_) = true)
    (hp : x.phase = .line ∨ x.phase = .read ∨ (∃ k, x.phase = .scale k ∨ x.phase = .stage k)) :
    ∃ t, exec (.sheafTimeout tag n) s = .next t ∧ sheafOf t tag = none ∧ counted s t SHEF_SHCNT 0 3 1 ∧
      (lineOf t (opLine x.rec_)).1 = false := by
  have hx' : sheafOf ((timeTo n).run s) tag = some x := hx
  have hc : fv ((timeTo n).run s) SHEF_SHCNT 0 3 = fv s SHEF_SHCNT 0 3 := rfl
  refine ⟨_, rfl, ?_⟩
  rw [run_acts_cons, run_acts_cons, runs_nil, sheafTimeout, withSheaf, runs_look, hx']
  generalize (timeTo n).run s = u at hx' hr hc ⊢
  have hcount : fv ((cnt SHEF_SHCNT 3).run u) SHEF_SHCNT 0 3 = min (2 ^ 32 - 1) (fv s SHEF_SHCNT 0 3 + 1) := by
    rw [← hc]; exact fv_incF_word _ _ _ _ rfl rfl
  have h1 := tagOpen_quiet (raiseShef_quiet 19) _ (tagOpen_start (s := (cnt SHEF_SHCNT 3).run u) (P := sheafIs x.gen x.rec_) hx' ⟨rfl, rfl⟩)
  obtain ⟨h1, -, h2, h3⟩ := tagClosed_lineRelease _ (shEnd_closes 3 h1)
  rw [hcount] at h3
  have hend : ∀ w : Bool, w = true → sheafOf ((onlyIf w (acts [cnt SHEF_SHCNT 3, raiseShef 19, shEnd tag 3, lineRelease])).run u) tag = none ∧
      counted s ((onlyIf w (acts [cnt SHEF_SHCNT 3, raiseShef 19, shEnd tag 3, lineRelease])).run u) SHEF_SHCNT 0 3 1 ∧
      (lineOf ((onlyIf w (acts [cnt SHEF_SHCNT 3, raiseShef 19, shEnd tag 3, lineRelease])).run u) (opLine x.rec_)).1 = false := by
    rintro _ rfl
    rw [run_onlyIf_of_true _ _ rfl, run_acts_cons, run_acts_cons, run_acts_cons, run_acts_cons, runs_nil]
    exact ⟨h1, h3, h2⟩
  refine hend _ ?_
  rcases hp with hp | hp | ⟨k, hp | hp⟩ <;> rw [hp, hdl, hr] <;> rfl

theorem epilogueTimeout_ends (s : State) (tag n k : Nat) (x : Sheaf) (hx : sheafOf s tag = some x) (hp : x.phase = .epi k)
    (hl : x.delivered + fv s SHEF_EPI_LIMIT ≤ s.press.imp) :
    ∃ t, exec (.epilogueTimeout tag n) s = .next t ∧ sheafOf t tag = none ∧ (lineOf t (opLine x.rec_)).1 = false := by
  refine ⟨_, rfl, ?_⟩
  have hx' : sheafOf ((timeTo n).run s) tag = some x := hx
  have hl' : x.delivered + fv ((timeTo n).run s) SHEF_EPI_LIMIT ≤ ((timeTo n).run s).press.imp := hl
  rw [run_acts_cons, run_acts_cons, runs_nil, epiTimeout, withSheaf, runs_look, hx']
  generalize (timeTo n).run s = u at hx' hl' ⊢
  dsimp only
  rw [hp]
  dsimp only
  rw [run_onlyIf_of_true _ _ (decide_eq_true hl'), run_acts_cons, run_acts_cons, run_acts_cons, run_acts_cons, runs_nil]
  have hput := (putResult_quiet x 1 (x.flags + shFlags x + 128) x.delivered epiNone).shef
    ((setLine (opLine x.rec_) (false, (lineOf u (opLine x.rec_)).2)).run u)
  obtain ⟨h1, -, h3, -⟩ := tagClosed_lineRelease _ (tagClosed_of_close _ tag x.gen (opLine x.rec_)
    (by rw [show lineOf _ _ = mapGet _ _ _ from rfl, hput]; exact congrArg Prod.fst (lineOf_setLine_self u _ _)))
  exact ⟨h1, h3⟩

theorem lineDataWrite_row (s : State) (r : Requester) (n v : Nat) (hs : isLinkSite s.build n = true) (hv : v < 2 ^ 32)
    (h : accepted s r (siteReg n 0 0x0AC) 4 v = true) :
    ∃ t, exec (.lineDataWrite r n v) s = .next t ∧ lineOf t (fv s SHEF_LINE_SEL) = (bit v 31, bits v 15 0) ∧
      ∀ l, l ≠ fv s SHEF_LINE_SEL → lineOf t l = lineOf s l := by
  have ho : raOff (siteReg n 0 0x0AC) = 0x0AC := (regAddr_parts _ _ _ (by have := isLinkSite_lt _ _ hs; omega) (by decide) (by decide)).2.2.2
  obtain ⟨d, hd⟩ : ∃ d, regAt .shef 0x0AC = some (d, 0x0AC) := ⟨_, rfl⟩
  have hrun := access_accepted_at s r _ 4 v ⟨.shef, n⟩ d 0x0AC h (pageOf_shefReg s n _ hs (by decide)) (by rw [ho, hd])
  rw [Nat.mod_eq_of_lt (show v < 2 ^ (8 * 4) from hv)] at hrun
  have heff : (writeEffect ⟨.shef, n⟩ d 0x0AC v).run s = (setLine (fv s SHEF_LINE_SEL) (bit v 31, bits v 15 0)).run s := rfl
  have hrow : (access ⟨r, siteReg n 0 0x0AC, 4, some v⟩).run s =
      answered ((setLine (fv s SHEF_LINE_SEL) (bit v 31, bits v 15 0)).run s) r (siteReg n 0 0x0AC) := hrun
  rw [rowsThatWriteOneRegister s (.lineDataWrite r n v) (r, siteReg n 0 0x0AC, 4, v) (if_pos hs)]
  refine ⟨_, congrArg Host.Outcome.next hrow, ?_, fun l hl => ?_⟩
  · exact lineOf_setLine_self s _ _
  · exact lineOf_setLine_ne s _ _ l hl

/-- Settles O39: an open sheaf and a closed tag are each kept by every program that may run after, clause by clause. -/
theorem sheavesOpenAndClose : Obligations.SheavesOpenAndClose := by
  unfold Obligations.SheavesOpenAndClose
  exact ⟨sheafOpen_row, sheafAbort_row, sheafTimeout_ends, epilogueTimeout_ends, lineDataWrite_row⟩

end Sys2Proof.Machine
end

section
/-! PROOF. Inboxes are armed, disarmed, and take messages (R245 to R248, R251). -/

namespace Sys2Proof.Machine

/-! ### Arming -/

/-- An inbox's control register. -/
theorem winn_ctlReg (i : Nat) (hi : i < 16) : ∃ d, regAt .winn (0x120 + 0x40 * i) = some (d, 0x120 + 0x40 * i) := by
  interval_cases i <;> exact ⟨_, rfl⟩

theorem nth_inbox (i : Nat) : nth (0x120 + 0x40 * i) 0x100 0x40 = i := by unfold nth; omega

/-- A write of an inbox's control register: its command runs. -/
theorem inboxRow (s : State) (c : Instr) (r : Requester) (tile i v : Nat) (htile : tile < 144) (hi : i < 16) (hv : v < 2 ^ 32)
    (hc : rowWrite s c = some (r, tileReg tile 4 (0x120 + 0x40 * i), 4, v)) (h : accepted s r (tileReg tile 4 (0x120 + 0x40 * i)) 4 v = true) :
    ∃ (u : State) (a : Nat), exec c s = .next (answered ((acts [onlyIf (bit v 0) (armInbox (physOf s tile) i), onlyIf (bit v 1) (disarmInbox (physOf s tile) i)]).run u) r a) := by
  obtain ⟨d, hd⟩ := winn_ctlReg i hi
  have hp : pageOf s (tileReg tile 4 (0x120 + 0x40 * i)) = some ⟨.winn, physOf s tile⟩ := pageOf_tileReg s tile 4 _ htile (by decide) (by omega)
  obtain ⟨hrun, -⟩ := exec_page_row s c r _ _ v ⟨.winn, physOf s tile⟩ d _ hc h hp (raOff_tileReg tile 4 _ htile (by decide) (by omega)) hd
    ⟨by omega, by simp, by simp⟩ hv rfl
  have happ : hookApply s ⟨.winn, physOf s tile⟩ (0x120 + 0x40 * i) v =
      onlyIf true (acts [onlyIf (bit v 0) (armInbox (physOf s tile) i), onlyIf (bit v 1) (disarmInbox (physOf s tile) i)]) := by
    have hw : (decide (0x100 ≤ 0x120 + 0x40 * i) && (0x120 + 0x40 * i) % 0x40 == 0x20) = true := by
      rw [Bool.and_eq_true, decide_eq_true_eq, beq_iff_eq]; omega
    simp only [hookApply, if_neg (show ¬ 0x120 + 0x40 * i < 0x040 by omega), winnWrite, nth_inbox, hw]
  rw [happ, run_onlyIf_of_true _ _ rfl] at hrun
  exact ⟨_, _, hrun⟩

/-- A reset of an inbox's epoch. -/
theorem inReset_leaves (u : State) (p i st : Nat) (hi : i < 16) (hst : st < 4) :
    let t := (inReset p i st).run u
    fv t WINN_ISTATE p i = st ∧ fv t WINN_ENDS p i = 0 ∧ fv t WINN_IROWS p i = 0 ∧ inboxSt t p i = ⟨[], none⟩ := by
  dsimp only
  rw [inReset, run_acts_cons, run_acts_cons, run_acts_cons, run_acts_cons, runs_nil]
  have hne : WINN_ENDS.off + i * WINN_ENDS.stride ≠ WINN_IROWS.off + i * WINN_IROWS.stride := by simp only [WINN_ENDS, WINN_IROWS]; omega
  refine ⟨?_, ?_, ?_, inboxSt_updInbox p i ⟨[], none⟩ u hi⟩
  · rw [fv_setF_self _ WINN_ISTATE _ _ _ ⟨by decide, by decide⟩]
    exact Nat.mod_eq_of_lt hst
  · rw [fv_setF_page _ WINN_ISTATE WINN_ENDS _ p i i rfl (by decide) (Or.inr (by decide)),
      fv_setF_page _ WINN_IROWS WINN_ENDS _ p i i rfl (by decide) (Or.inl hne), fv_setF_self _ WINN_ENDS _ _ _ ⟨by decide, by decide⟩]
    rfl
  · rw [fv_setF_page _ WINN_ISTATE WINN_IROWS _ p i i rfl (by decide) (Or.inl (Ne.symm hne)),
      fv_setF_self _ WINN_IROWS _ _ _ ⟨by decide, by decide⟩]
    rfl

theorem inboxArm_row (s : State) (r : Requester) (tile i : Nat) (htile : tile < 144) (hi : i < 16)
    (h : accepted s r (tileReg tile 4 (0x120 + 0x40 * i)) 4 1 = true) :
    ∃ t, exec (.inboxArm r tile i) s = .next t ∧ fv t WINN_ISTATE (physOf s tile) i = inOpen ∧ fv t WINN_ENDS (physOf s tile) i = 0 ∧
      fv t WINN_IROWS (physOf s tile) i = 0 ∧ inboxSt t (physOf s tile) i = ⟨[], none⟩ := by
  obtain ⟨u, a, hrun⟩ := inboxRow s (.inboxArm r tile i) r tile i 1 htile hi (by decide) (by simp [rowWrite, tileWrite, hi, htile]) h
  rw [run_acts_cons, run_acts_cons, runs_nil, run_onlyIf_of_false _ _ (by decide), run_onlyIf_of_true _ _ (by decide)] at hrun
  exact ⟨_, hrun, inReset_leaves u (physOf s tile) i inOpen hi (by decide)⟩

theorem inboxDisarm_row (s : State) (r : Requester) (tile i : Nat) (htile : tile < 144) (hi : i < 16)
    (h : accepted s r (tileReg tile 4 (0x120 + 0x40 * i)) 4 2 = true) :
    ∃ t, exec (.inboxDisarm r tile i) s = .next t ∧ fv t WINN_ISTATE (physOf s tile) i = inIdle ∧ fv t WINN_ENDS (physOf s tile) i = 0 ∧
      fv t WINN_IROWS (physOf s tile) i = 0 ∧ inboxSt t (physOf s tile) i = ⟨[], none⟩ := by
  obtain ⟨u, a, hrun⟩ := inboxRow s (.inboxDisarm r tile i) r tile i 2 htile hi (by decide) (by simp [rowWrite, tileWrite, hi, htile]) h
  rw [run_acts_cons, run_acts_cons, runs_nil, run_onlyIf_of_true _ _ (by decide), run_onlyIf_of_false _ _ (by decide)] at hrun
  exact ⟨_, hrun, inReset_leaves u (physOf s tile) i inIdle hi (by decide)⟩

/-! ### Messages -/

/-- A message for a tile that is not held, of a kind that is sent: it is applied, and its code goes back. -/
theorem winnArrive_run (s : State) (node : Nat) (m : WinnMsg) (hheld : tileHeld s m.tile = false) (hk : m.kind = 1 ∨ m.kind = 2 ∨ m.kind = 3) :
    (winnArrive node m).run s = (sendMsg node .none (.winnAnswer m (errNum (winnCode s m)))).run ((winnApply m).run s) := by
  rw [winnArrive, runs_look, hheld]
  rw [if_neg (by simp), if_neg (by omega), run_acts_cons, run_acts_cons, runs_nil]

/-- What the answer's message leaves: memory, tiles and the WINN pages. -/
theorem winnAnswer_leaves (dst : Nat) (b : FabBody) (s : State) :
    let t := (sendMsg dst .none b).run s
    t.mem = s.mem ∧ t.tiles = s.tiles ∧ (∀ q k, pending s q k → pending t q k) ∧ ∀ f : Fld, f.blk = .winn → ∀ p i, p < 160 → 0x40 ≤ f.off → f.off + i * f.stride < 4096 → fv t f p i = fv s f p i := by
  have h : (sendMsg dst .none b).Within wireParts fabricKeys := Act.Within.and (fun _ => forwardMsg_wire _ _ rfl) (sendMsg_within _ _ _)
  refine ⟨h.same .mem (by decide) s, h.same .tiles (by decide) s, fun q k => pending_sendMsg q k _ _ _ s, fun f hf p i hp h0 ho => h.fv s f p i ?_⟩
  exact not_hdrOr_fldKey f p i (by rw [hf]; decide) (by omega) (by omega) ho

theorem winnApply_ok (s : State) (m : WinnMsg) (h : winnCode s m = .ok) : (winnApply m).run s =
    (if m.kind = 3 then memPut (.galley (physOf s m.tile)) (bits m.tag 44 24) m.payload
      else if m.kind = 1 then
        acts [memPut (.galley (physOf s m.tile)) (fv s WINN_IBASE (physOf s m.tile) m.inbox +
            (m.src * fv s WINN_ICAP (physOf s m.tile) m.inbox + m.slot) * fv s WINN_ROWB (physOf s m.tile) m.inbox) m.payload,
          memPut (.galley (physOf s m.tile)) (fv s WINN_TAG_ADDR (physOf s m.tile) m.inbox +
            8 * (m.src * fv s WINN_ICAP (physOf s m.tile) m.inbox + m.slot)) (leBytes 8 m.tag),
          incF WINN_IROWS 1 (physOf s m.tile) m.inbox, cnt WINN_WCNT 6 (physOf s m.tile)]
      else
        acts [memPut (.galley (physOf s m.tile)) (fv s WINN_SRCT_ADDR (physOf s m.tile) m.inbox + 8 * m.src)
            (leBytes 8 (m.tag % 2 ^ 30 + m.slot * 2 ^ 32)),
          updInbox (physOf s m.tile) m.inbox ⟨(inboxSt s (physOf s m.tile) m.inbox).ends ++ [m.src], (inboxSt s (physOf s m.tile) m.inbox).ret⟩,
          setF WINN_ENDS ((inboxSt s (physOf s m.tile) m.inbox).ends.length + 1) (physOf s m.tile) m.inbox,
          onlyIf ((inboxSt s (physOf s m.tile) m.inbox).ends.length + 1 == fv s WINN_NSRC (physOf s m.tile) m.inbox)
            (inboxClose (physOf s m.tile) m.inbox)]).run s := by
  rw [winnApply, runs_look, h]

/-- Bytes put where memory is clean. -/
theorem memPut_calm (s : State) (u : MemUnit) (off : Nat) (bs : List Byte) (hsyn : s.syn = []) (hflip : flipArmed s u = false) :
    ∃ w, (memPut u off bs).run s = { s with mem := memAfter s.mem [⟨u, off, bs, []⟩], written := w } :=
  memWrite_calm s u off bs _ hsyn hflip (by simp)

theorem row_lands (s : State) (m : WinnMsg) (hk : m.kind = 1) (hi : m.inbox < 16) (hg : cleanGalley s (physOf s m.tile)) (h : winnCode s m = .ok) :
    let p := physOf s m.tile
    let at_ := m.src * fv s WINN_ICAP p m.inbox + m.slot
    ((winnApply m).run s).mem = memAfter s.mem [⟨.galley p, fv s WINN_IBASE p m.inbox + at_ * fv s WINN_ROWB p m.inbox, m.payload, []⟩,
        ⟨.galley p, fv s WINN_TAG_ADDR p m.inbox + 8 * at_, leBytes 8 m.tag, []⟩] ∧
      fv ((winnApply m).run s) WINN_IROWS p m.inbox = satAdd (WINN_IROWS.hi + 1 - WINN_IROWS.lo) (fv s WINN_IROWS p m.inbox) 1 := by
  obtain ⟨hsyn, -, hflip⟩ := hg
  dsimp only
  rw [winnApply_ok s m h, if_neg (by omega), if_pos hk, run_acts_cons, run_acts_cons, run_acts_cons, run_acts_cons, runs_nil]
  obtain ⟨w, hw⟩ := memPut_calm s (.galley (physOf s m.tile)) (fv s WINN_IBASE (physOf s m.tile) m.inbox +
            (m.src * fv s WINN_ICAP (physOf s m.tile) m.inbox + m.slot) * fv s WINN_ROWB (physOf s m.tile) m.inbox) m.payload hsyn hflip
  rw [hw]
  obtain ⟨w', hw'⟩ := memPut_calm { s with mem := memAfter s.mem [⟨.galley (physOf s m.tile), _, m.payload, []⟩], written := w }
    (.galley (physOf s m.tile)) (fv s WINN_TAG_ADDR (physOf s m.tile) m.inbox +
            8 * (m.src * fv s WINN_ICAP (physOf s m.tile) m.inbox + m.slot)) (leBytes 8 m.tag) hsyn hflip
  rw [hw']
  refine ⟨rfl, ?_⟩
  have hi' : WINN_IROWS.off + m.inbox * WINN_IROWS.stride ≠ WINN_WCNT.off + 6 * WINN_WCNT.stride := by simp only [WINN_IROWS, WINN_WCNT]; omega
  rw [cnt, fv_incF_page _ WINN_WCNT WINN_IROWS _ _ 6 m.inbox rfl (by decide) (Or.inl hi'), fv_incF_self _ WINN_IROWS _ _ _ ⟨by decide, by decide⟩]
  rfl

/-- A refused message of an inbox raises the page's event. -/
theorem winnApply_refused (s : State) (m : WinnMsg) (hk : m.kind ≠ 3) (h : winnCode s m ≠ .ok) :
    ((winnApply m).run s).mem = s.mem ∧
      (winnCode s m ≠ .retiredUnit → pending ((winnApply m).run s) (winnPg (physOf s m.tile)) 18) := by
  rw [winnApply, runs_look]
  dsimp only
  split
  · contradiction
  · rename_i hr
    exact ⟨rfl, fun hne => absurd hr hne⟩
  · rw [run_onlyIf_of_true _ _ (by simpa using hk), run_acts_cons, run_acts_cons, runs_nil]
    exact ⟨(raiseEvt_within _ _).same .mem (by decide) _, fun _ => pending_raiseEvt _ _ 18 _ (by decide) (by decide)⟩

theorem inboxClose_tiles (p i : Nat) (hp : p < 160) : (inboxClose p i).Keeps fun s => s.tiles := by
  have hput : ∀ off l, (memPut (.galley p) off l).Keeps fun s => s.tiles := fun off l s => (memPut_within (.galley p) off l hp).same .tiles (by decide) s
  refine keeps_look _ fun s => keeps_cons _ _ (keeps_onlyIf _ _ (keeps_each _ _ fun _ => hput _ _)) (keeps_cons _ _ (keeps_onlyIf _ _ (hput _ _))
    (keeps_cons _ _ (keeps_onlyIf _ _ (hput _ _)) (keeps_cons _ _ (keeps_onlyIf _ _ fun s => (addToken_within p _ 1).same .tiles (by decide) s)
      (keeps_cons _ _ (fun s => (raiseEvt_within _ _).same .tiles (by decide) s) (keeps_cons _ _ (fun _ => rfl) keeps_nil)))))

/-- An inbox that closes is CLOSED. -/
theorem istate_inboxClose (s : State) (p i : Nat) : fv ((inboxClose p i).run s) WINN_ISTATE p i = inClosed := by
  rw [inboxClose, runs_look, run_acts_cons, run_acts_cons, run_acts_cons, run_acts_cons, run_acts_cons, run_acts_cons, runs_nil,
    fv_setF_self _ WINN_ISTATE _ _ _ ⟨by decide, by decide⟩]
  rfl

/-- What a message that is no RETURN_ROW has passed: its inbox is open. -/
theorem winnCode_open {s : State} {m : WinnMsg} (hk : m.kind ≠ 3) (h : winnCode s m = .ok) : fv s WINN_ISTATE (physOf s m.tile) m.inbox = inOpen := by
  unfold winnCode at h
  dsimp only at h
  rw [if_neg hk] at h
  by_cases h1 : (decide (143 < m.tile) || !tileBacked s m.tile) = true
  · rw [if_pos h1] at h; cases h
  · rw [if_neg h1] at h
    by_contra hne
    rw [if_pos (by simp [hne])] at h
    cases h

theorem end_noted (s : State) (m : WinnMsg) (hk : m.kind = 2) (hi : m.inbox < 16) (hg : cleanGalley s (physOf s m.tile)) (h : winnCode s m = .ok) :
    let p := physOf s m.tile
    (inboxSt ((winnApply m).run s) p m.inbox).ends = (inboxSt s p m.inbox).ends ++ [m.src] ∧
      fv ((winnApply m).run s) WINN_ISTATE p m.inbox = if (inboxSt s p m.inbox).ends.length + 1 = fv s WINN_NSRC p m.inbox then inClosed else inOpen := by
  obtain ⟨hsyn, -, hflip⟩ := hg
  dsimp only
  rw [winnApply_ok s m h, if_neg (by omega), if_neg (by omega), run_acts_cons, run_acts_cons, run_acts_cons, run_acts_cons, runs_nil]
  obtain ⟨w, hw⟩ := memPut_calm s (.galley (physOf s m.tile)) (fv s WINN_SRCT_ADDR (physOf s m.tile) m.inbox + 8 * m.src)
    (leBytes 8 (m.tag % 2 ^ 30 + m.slot * 2 ^ 32)) hsyn hflip
  rw [hw]
  generalize hv : ({ s with mem := _, written := w } : State) = v
  have hstate : fv v WINN_ISTATE (physOf s m.tile) m.inbox = inOpen := by rw [← hv]; exact winnCode_open (by omega) h
  have hinbox := inboxSt_updInbox (physOf s m.tile) m.inbox
    ⟨(inboxSt s (physOf s m.tile) m.inbox).ends ++ [m.src], (inboxSt s (physOf s m.tile) m.inbox).ret⟩ v hi
  have hends : ∀ u : State, u.tiles = ((updInbox (physOf s m.tile) m.inbox
      ⟨(inboxSt s (physOf s m.tile) m.inbox).ends ++ [m.src], (inboxSt s (physOf s m.tile) m.inbox).ret⟩).run v).tiles →
      (inboxSt u (physOf s m.tile) m.inbox).ends = (inboxSt s (physOf s m.tile) m.inbox).ends ++ [m.src] := fun u hu => by
    rw [inboxSt_congr _ _ _ _ hu, hinbox]
  by_cases hlast : (inboxSt s (physOf s m.tile) m.inbox).ends.length + 1 = fv s WINN_NSRC (physOf s m.tile) m.inbox
  · rw [run_onlyIf_of_true _ _ (beq_iff_eq.2 hlast), if_pos hlast]
    exact ⟨hends _ (inboxClose_tiles _ _ (physOf_lt _ _) _), istate_inboxClose _ _ _⟩
  · rw [run_onlyIf_of_false _ _ (beq_eq_false_iff_ne.2 hlast), if_neg hlast]
    refine ⟨hends _ rfl, ?_⟩
    rw [fv_setF_page _ WINN_ENDS WINN_ISTATE _ _ _ _ rfl (by decide) (Or.inr (by decide))]
    exact hstate

theorem returnRow_lands (s : State) (m : WinnMsg) (hk : m.kind = 3) (hg : cleanGalley s (physOf s m.tile)) (h : winnCode s m = .ok) :
    ((winnApply m).run s).mem = memAfter s.mem [⟨.galley (physOf s m.tile), bits m.tag 44 24, m.payload, []⟩] := by
  obtain ⟨hsyn, -, hflip⟩ := hg
  obtain ⟨w, hw⟩ := memPut_calm s (.galley (physOf s m.tile)) (bits m.tag 44 24) m.payload hsyn hflip
  rw [winnApply_ok s m h, if_pos hk, hw]

theorem inbox_messages (s : State) (node tile i src slot tag : Nat) (b : List Byte) (hi : i < 16) (hheld : tileHeld s tile = false)
    (hg : cleanGalley s (physOf s tile)) :
    let p := physOf s tile
    let row := ⟨tile, 1, i, src, slot, tag, b⟩
    let last := ⟨tile, 2, i, src, slot, tag, []⟩
    let ret := ⟨tile, 3, 0, 0, 0, tag, b⟩
    let at_ := src * fv s WINN_ICAP p i + slot
    (winnCode s row = .ok → ∃ t, exec (.rowMsg node tile i src slot tag b) s = .next t ∧
      t.mem = memAfter s.mem [⟨.galley p, fv s WINN_IBASE p i + at_ * fv s WINN_ROWB p i, b, []⟩,
        ⟨.galley p, fv s WINN_TAG_ADDR p i + 8 * at_, leBytes 8 tag, []⟩] ∧
      fv t WINN_IROWS p i = satAdd (WINN_IROWS.hi + 1 - WINN_IROWS.lo) (fv s WINN_IROWS p i) 1) ∧
    (winnCode s row ≠ .ok → ∃ t, exec (.rowMsg node tile i src slot tag b) s = .next t ∧ t.mem = s.mem ∧
      (winnCode s row ≠ .retiredUnit → (fv t (hdrEvtPend .winn) p).testBit 18 = true)) ∧
    (winnCode s last = .ok → ∃ t, exec (.endRow node tile i src slot tag) s = .next t ∧
      (inboxSt t p i).ends = (inboxSt s p i).ends ++ [src] ∧
      fv t WINN_ISTATE p i = if (inboxSt s p i).ends.length + 1 = fv s WINN_NSRC p i then inClosed else inOpen) ∧
    (winnCode s ret = .ok → ∃ t, exec (.returnRow node tile tag b) s = .next t ∧
      t.mem = memAfter s.mem [⟨.galley p, bits tag 44 24, b, []⟩]) := by
  intro p row last ret at_
  have hp := physOf_lt s tile
  refine ⟨fun h => ?_, fun h => ?_, fun h => ?_, fun h => ?_⟩
  · refine ⟨_, congrArg Host.Outcome.next (winnArrive_run s node row hheld (Or.inl rfl)), ?_⟩
    obtain ⟨hmem, -, -, hfv⟩ := winnAnswer_leaves node (.winnAnswer row (errNum (winnCode s row))) ((winnApply row).run s)
    obtain ⟨h1, h2⟩ := row_lands s row rfl hi hg h
    exact ⟨hmem.trans h1, (hfv WINN_IROWS rfl p i hp (by decide) (by simp only [WINN_IROWS]; omega)).trans h2⟩
  · refine ⟨_, congrArg Host.Outcome.next (winnArrive_run s node row hheld (Or.inl rfl)), ?_⟩
    obtain ⟨hmem, -, hpend, -⟩ := winnAnswer_leaves node (.winnAnswer row (errNum (winnCode s row))) ((winnApply row).run s)
    obtain ⟨h1, h2⟩ := winnApply_refused s row (show (1 : Nat) ≠ 3 by decide) h
    exact ⟨hmem.trans h1, fun hne => hpend (winnPg p) 18 (h2 hne)⟩
  · refine ⟨_, congrArg Host.Outcome.next (winnArrive_run s node last hheld (Or.inr (Or.inl rfl))), ?_⟩
    obtain ⟨-, htiles, -, hfv⟩ := winnAnswer_leaves node (.winnAnswer last (errNum (winnCode s last))) ((winnApply last).run s)
    obtain ⟨h1, h2⟩ := end_noted s last rfl hi hg h
    exact ⟨(congrArg Inbox.ends (inboxSt_congr p i _ _ htiles)).trans h1,
      (hfv WINN_ISTATE rfl p i hp (by decide) (by simp only [WINN_ISTATE]; omega)).trans h2⟩
  · refine ⟨_, congrArg Host.Outcome.next (winnArrive_run s node ret hheld (Or.inr (Or.inr rfl))), ?_⟩
    obtain ⟨hmem, -⟩ := winnAnswer_leaves node (.winnAnswer ret (errNum (winnCode s ret))) ((winnApply ret).run s)
    exact hmem.trans (returnRow_lands s ret rfl hg h)

/-- Settles O26: arming clause by clause, each message by what its application leaves and what its answer leaves. -/
theorem inboxesTakeMessages : Obligations.InboxesTakeMessages := by
  unfold Obligations.InboxesTakeMessages
  refine ⟨fun s r tile i htile hi => ⟨inboxArm_row s r tile i htile hi, inboxDisarm_row s r tile i htile hi⟩, inbox_messages,
    fun s node tile i src slot tag b hheld => ?_⟩
  change Host.Outcome.next ((winnArrive node ⟨tile, 1, i, src, slot, tag, b⟩).run s) = _
  rw [winnArrive, runs_look, hheld]
  rfl

end Sys2Proof.Machine
end

section
/-! PROOF. What a write of memory leaves, marks included, and what a read of clean memory answers (R306, R328, R331). -/

namespace Sys2Proof.Machine

/-- What one part of a sequence brings about, and no part takes back, holds after all of it. -/
theorem each_gains {α : Type} {P : State → Prop} {l : List α} {f : α → Act} (x : α) (hx : x ∈ l) (hgain : ∀ s, P ((f x).run s))
    (hkeep : ∀ y ∈ l, (f y).Stable P) (s : State) : P ((each l f).run s) := by
  induction l generalizing s with
  | nil => cases hx
  | cons y l ih =>
    rw [run_each_cons]
    have hk : ∀ z ∈ l, (f z).Stable P := fun z hz => hkeep z (List.mem_cons_of_mem _ hz)
    rcases List.mem_cons.1 hx with rfl | h
    · exact stable_each hk _ (hgain s)
    · exact ih h hk _

/-! ### Marks -/

/-- One word's check bits show poison. -/
def poisonedAt (k v : Nat) (s : State) : Prop := synAt s k = v

theorem poisonedAt_syn (k v j : Nat) (vs : List Nat) (h : k < j ∨ j + vs.length ≤ k) : (upd (.syn j vs)).Stable (poisonedAt k v) := fun s hs => by
  change mapGet synDefault (mapPut synDefault s.syn j vs) k = v
  rw [mapGet_mapPut, if_neg (by omega)]
  exact hs

theorem poisonedAt_put (s : State) (k v j : Nat) (vs : List Nat) (h1 : j ≤ k) (h2 : k < j + vs.length) (h : vs.getD (k - j) 0 = v) :
    poisonedAt k v ((upd (.syn j vs)).run s) := by
  change mapGet synDefault (mapPut synDefault s.syn j vs) k = v
  rw [mapGet_mapPut, if_pos ⟨h1, h2⟩]
  exact h

/-- The words of a range, eight bytes each. -/
theorem wordsOf_eq (u : MemUnit) (off n : Nat) (hu : ∀ k, u ≠ .hbm k) : wordsOf u off n =
    if n = 0 then [] else (List.range ((roundUp (off + n) 8 - off / 8 * 8) / 8)).map fun i => off / 8 * 8 + 8 * i := by
  cases u with
  | hbm k => exact absurd rfl (hu k)
  | _ => rfl

theorem mem_wordsOf (u : MemUnit) (off n i : Nat) (hu : ∀ k, u ≠ .hbm k) (hi : i < n) : (off + i) / 8 * 8 ∈ wordsOf u off n := by
  rw [wordsOf_eq u off n hu, if_neg (by omega)]
  refine List.mem_map.2 ⟨((off + i) / 8 * 8 - off / 8 * 8) / 8, List.mem_range.2 ?_, by omega⟩
  unfold roundUp ceilDiv
  omega

theorem wordsOf_mod (u : MemUnit) (off n w : Nat) (hu : ∀ k, u ≠ .hbm k) (hw : w ∈ wordsOf u off n) : w % 8 = 0 := by
  rw [wordsOf_eq u off n hu] at hw
  split at hw
  · cases hw
  · obtain ⟨i, -, rfl⟩ := List.mem_map.1 hw
    omega

theorem muBase_mod (u : MemUnit) : muBase u % 8 = 0 := by
  cases u <;> simp only [muBase] <;> omega

/-- A word with poison in its check bits is marked. -/
theorem markedAt_of_poisoned {s : State} {u : MemUnit} {off : Nat} (h : poisonedAt (muBase u + off / 8 * 8) (poisonSyn (muBytewise u)) s) :
    markedAt s u off = true := by
  have hne : s.syn.isEmpty = false := by
    cases he : s.syn with
    | nil =>
      have h0 : poisonSyn (muBytewise u) = 0 := by rw [← h, synAt, he]; rfl
      unfold poisonSyn at h0
      split at h0 <;> simp at h0
    | cons => rfl
  have hw : (muBase u + off) / 8 * 8 = muBase u + off / 8 * 8 := by have := muBase_mod u; omega
  unfold markedAt
  rw [hne, hw]
  dsimp only
  rw [if_neg (by simp)]
  cases hb : muBytewise u with
  | true =>
    rw [hb] at h
    rw [if_pos rfl, List.any_eq_true]
    exact ⟨0, by simp, by rw [Nat.add_zero, show synAt s _ = _ from h]; decide⟩
  | false =>
    rw [hb] at h
    rw [if_neg (by simp), show synAt s _ = _ from h]
    decide

/-- Writing marks over a range poisons each word they touch. -/
theorem writeSyn_poisons (u : MemUnit) (off : Nat) (ms : List Bool) (i : Nat) (hi : i < ms.length) (hm : ms.getD i false = true) (s : State) :
    poisonedAt (muBase u + (off + i) / 8 * 8) (poisonSyn (muBytewise u)) ((writeSyn u off ms).run s) := by
  have hany : ((List.range 8).any fun j => decide (off ≤ (off + i) / 8 * 8 + j) && ms.getD ((off + i) / 8 * 8 + j - off) false) = true := by
    rw [List.any_eq_true]
    refine ⟨(off + i) % 8, List.mem_range.2 (Nat.mod_lt _ (by decide)), ?_⟩
    have h1 : (off + i) / 8 * 8 + (off + i) % 8 = off + i := by omega
    rw [h1, Nat.add_sub_cancel_left, hm, Bool.and_true, decide_eq_true_eq]
    omega
  unfold writeSyn
  dsimp only
  cases hb : muBytewise u with
  | true =>
    have hu : ∀ k, u ≠ .hbm k := by rintro k rfl; cases hb
    rw [if_pos rfl, run_acts_cons, run_acts_cons, runs_nil]
    refine each_gains _ (List.mem_filter.2 ⟨mem_wordsOf u off ms.length i hu hi, hany⟩) (fun s => ?_) (fun y hy => ?_) _
    · exact poisonedAt_put _ _ _ _ _ (le_refl _) (by simp) (by rw [Nat.sub_self]; rfl)
    · have hmod := wordsOf_mod _ _ _ _ hu (List.mem_of_mem_filter hy)
      by_cases he : y = (off + i) / 8 * 8
      · subst he
        exact fun s _ => poisonedAt_put _ _ _ _ _ (le_refl _) (by simp) (by rw [Nat.sub_self]; rfl)
      · exact poisonedAt_syn _ _ _ _ (by simp only [List.length_replicate]; omega)
  | false =>
    rw [if_neg (by simp)]
    have hu : ∀ k, MemUnit.dmem 0 ≠ .hbm k := fun k h => by cases h
    have hset : ∀ s : State, poisonedAt (muBase u + (off + i) / 8 * 8) (poisonSyn false) ((upd (.syn (muBase u + (off + i) / 8 * 8) [0x7F])).run s) :=
      fun s => poisonedAt_put _ _ _ _ _ (le_refl _) (by simp) (by rw [Nat.sub_self]; rfl)
    refine each_gains _ (mem_wordsOf (.dmem 0) off ms.length i hu hi) (fun s => ?_) (fun y hy => ?_) _
    · rw [if_pos hany]
      exact hset s
    · have hmod := wordsOf_mod _ _ _ _ hu hy
      by_cases he : y = (off + i) / 8 * 8
      · subst he
        rw [if_pos hany]
        exact fun s _ => hset s
      · refine stable_ite (poisonedAt_syn _ _ _ _ ?_) (stable_ite (poisonedAt_syn _ _ _ _ ?_) fun _ h => h)
        all_goals simp only [List.length_singleton]; omega

theorem noteMark_syn (u : MemUnit) (s : State) : ((noteMark u).run s).syn = s.syn := by
  unfold noteMark
  split
  · refine keeps_look (O := fun s : State => s.syn) _ (fun t => keeps_onlyIf _ _ (keeps_cons _ _ (fun _ => rfl) (keeps_cons _ _ ?_ keeps_nil))) s
    exact fun v => (raiseEvt_within _ _).same .syn (by decide) v
  · rfl

/-- A write with marks leaves each of them. -/
theorem memWrite_marks (s : State) (u : MemUnit) (off : Nat) (bs : List Byte) (ms : List Bool) (hflip : flipArmed s u = false)
    (hl : ms.length = bs.length) (i : Nat) (hi : i < bs.length) (hm : ms.getD i false = true) :
    markedAt ((memWrite u off bs ms).run s) u (off + i) = true := by
  have hcont : ms.contains true = true := by
    rw [List.contains_iff_mem]
    rw [List.getD_eq_getElem _ _ (by omega)] at hm
    exact hm ▸ List.getElem_mem _
  have hne : bs.isEmpty = false := by cases bs with
    | nil => simp at hi
    | cons => rfl
  refine markedAt_of_poisoned ?_
  rw [run_memWrite, hne, hflip, if_neg (by simp), Bool.false_and, runs_false, writeMarks, hcont, run_acts_cons, run_acts_cons, run_acts_cons,
    runs_nil, if_neg (by simp)]
  have h1 := writeSyn_poisons u off ms i (by omega) hm ((Upd.mem (muBase u + off) bs).apply s)
  have hsyn : ∀ a : Act, (∀ v, (a.run v).syn = v.syn) → a.Stable (poisonedAt (muBase u + (off + i) / 8 * 8) (poisonSyn (muBytewise u))) :=
    fun a ha v hv => by
      change mapGet synDefault (a.run v).syn _ = _
      rw [ha]; exact hv
  refine hsyn _ (fun v => ?_) _ (hsyn _ (fun v => ?_) _ h1)
  · rw [run_onlyIf_of_true _ _ rfl]
    exact noteMark_syn u v
  · exact (writtenBits_only (P := fun u => ∃ k l, u = .written k l) (fun k l => ⟨k, l, rfl⟩) s u off bs.length).run_keeps
      (fun x => x.syn = v.syn) (by rintro _ x ⟨k, l, rfl⟩ hx; exact hx) _ rfl

/-! ### Reads and writes -/

theorem withMarks_marks (data : List Byte) (ms : List Bool) : (withMarks data ms).map Prod.snd = (List.range data.length).map fun i => ms.getD i false := by
  rw [withMarks, List.map_map]
  rfl

theorem rawByte_memAfter (s : State) (m : List Host.Cell) (u : MemUnit) (off : Nat) (b : List Byte) (h : s.mem = memAfter m [⟨u, off, b, []⟩]) (k : Nat) :
    rawByte s k = if muBase u + off ≤ k ∧ k < muBase u + off + b.length then b.getD (k - (muBase u + off)) (memDefault k) else mapGet memDefault m k := by
  rw [rawByte, h, memAfter, List.foldl_cons, List.foldl_nil]
  by_cases hb : b.isEmpty = true
  · rw [if_pos hb, if_neg (by rw [List.isEmpty_iff] at hb; subst hb; simp)]
  · rw [if_neg hb, mapGet_mapPut]

theorem memoryWrite_lands (s : State) (r : Requester) (a : Nat) (b : List Byte) (m : List Bool) (u : MemUnit) (off : Nat)
    (he : firstErr (writeErrs s r a b.length) = .ok) (hheld : rangeHeld s a b.length = false) (hplace : placeOf s a = .mem u off) (hsyn : s.syn = [])
    (hflip : flipArmed s u = false) :
    ∃ t, exec (.memoryWrite r a b m) s = .next t ∧ t.mem = memAfter s.mem [⟨u, off, b, []⟩] ∧
      (∀ i (h : i < b.length), rawByte t (muBase u + off + i) = b[i]) ∧
      (∀ k, (∀ i, i < b.length → k ≠ muBase u + off + i) → rawByte t k = rawByte s k) ∧
      (.regCode r a 0 ∈ t.out) ∧ (true ∉ m → t.syn = []) ∧
      ∀ i, i < b.length → m.getD i false = true → markedAt t u (off + i) = true := by
  have hlen : (withMarks b m).length = b.length := by simp [withMarks]
  have hrun : (memoryWrite r a (withMarks b m)).run s =
      (memWrite u off b ((List.range b.length).map fun i => m.getD i false)).run ((emit (.regCode r a 0)).run s) := by
    rw [memoryWrite, runs_look, hlen, he, hheld]
    dsimp only
    rw [if_neg (by simp), run_acts_cons, run_acts_cons, runs_nil, run_onlyIf_of_true _ _ (show (ErrCode.ok == ErrCode.ok) = true from rfl), hplace]
    dsimp only
    have hplace' : placeOf ((emit (.regCode r a (errNum ErrCode.ok))).run s) a = .mem u off := hplace
    rw [writeLocal, runs_look, hplace']
    dsimp only
    rw [withMarks_bytes, withMarks_marks]
    rfl
  have hflip' : flipArmed ((emit (.regCode r a 0)).run s) u = false := hflip
  have hmem := memWrite_mem ((emit (.regCode r a 0)).run s) u off b ((List.range b.length).map fun i => m.getD i false) hflip'
  have hraw := rawByte_memAfter _ _ u off b hmem
  rw [← hrun] at hmem hraw
  refine ⟨_, rfl, hmem, fun i hi => ?_, fun k hk => ?_, ?_, fun hnone => ?_, fun i hi hm => ?_⟩
  · rw [hraw, if_pos (by omega), Nat.add_sub_cancel_left, List.getD_eq_getElem _ _ hi]
  · rw [hraw, if_neg fun hin => hk (k - (muBase u + off)) (by omega) (by omega)]
    rfl
  · rw [hrun]
    exact out_mono _ _ _ (List.mem_cons_self ..)
  · have hms : ((List.range b.length).map fun i => m.getD i false).contains true = false := by
      rw [Bool.eq_false_iff]
      intro hc
      obtain ⟨i, -, hi⟩ := List.mem_map.1 (List.contains_iff_mem.1 hc)
      rw [List.getD_eq_getElem?_getD] at hi
      cases hm : m[i]? with
      | none => rw [hm] at hi; cases hi
      | some x =>
        rw [hm] at hi
        change x = true at hi
        exact hnone (hi ▸ List.mem_of_getElem? hm)
    obtain ⟨w, hw⟩ := memWrite_calm ((emit (.regCode r a 0)).run s) u off b _ hsyn hflip' hms
    rw [hrun, hw]
    exact hsyn
  · rw [hrun]
    refine memWrite_marks _ u off b _ hflip' (by simp) i hi ?_
    rw [List.getD_eq_getElem _ _ (by simpa using hi), List.getElem_map, List.getElem_range]
    exact hm

theorem memoryRead_answers (s : State) (r : Requester) (a n : Nat) (u : MemUnit) (off : Nat) (he : firstErr (readErrs s r a n) = .ok)
    (hheld : rangeHeld s a n = false) (hplace : placeOf s a = .mem u off) (hview : viewsMet s a n = []) (hsyn : s.syn = [])
    (hw : anyWriteFirst s u = false) :
    exec (.memoryRead r a n) s = .next { s with out := .memData r a 0 (readBytes s u off n) (List.replicate n false) :: s.out } := by
  have htouch : (touchLocal a n).run s = s := by
    rw [touchLocal, runs_look, hview, hplace]
    dsimp only
    rw [if_pos (show ([] : List View).isEmpty = true from rfl), touch, runs_look, if_pos (by rw [hsyn, hw]; rfl), runs_done]
  have hread : readLocal s a n = (readBytes s u off n).zip (List.replicate n false) := by
    unfold readLocal
    rw [hview, hplace, hsyn]
    rfl
  have hnone : (readLocal s a n).findIdx? Prod.snd = none := by
    rw [List.findIdx?_eq_none_iff]
    intro x hx
    have := readLocal_unmarked s a n hsyn
    rw [List.any_eq_false] at this
    simpa using this x hx
  change Host.Outcome.next ((memoryRead r a n).run s) = _
  rw [memoryRead, runs_look, he, hheld]
  dsimp only
  rw [if_neg (by simp), if_neg (by simp), run_acts_cons, run_acts_cons, runs_nil, htouch, runs_look, hnone]
  dsimp only
  have hl : (readBytes s u off n).length = n := by simp [readBytes]
  rw [hread, List.map_fst_zip (by simp [hl]), List.map_snd_zip (by simp [hl])]
  rfl

end Sys2Proof.Machine
end

section
/-! PROOF. Storage's tables, its slots and its zeroing (R96, R141, R306, R307). -/

namespace Sys2Proof.Machine

/-! ### The write-first table -/

theorem isHbm_pageOf_hbmc (s : State) (n e : Nat) (hs : isHbmSite s.build n = true) (he : e < 16) :
    pageOf s (siteReg n 0 (0x100 + 8 * e)) = some ⟨.hbmc, n⟩ ∧ raOff (siteReg n 0 (0x100 + 8 * e)) = 0x100 + 8 * e :=
  ⟨pageOf_hbmcReg s n _ hs (by omega), (regAddr_parts _ _ _ (by have := isHbmSite_lt _ _ hs; omega) (by decide) (by omega)).2.2.2⟩

theorem hbmc_wfReg (e : Nat) (he : e < 16) : ∃ d, regAt .hbmc (0x100 + 8 * e) = some (d, 0x100 + 8 * e) := by
  interval_cases e <;> exact ⟨_, rfl⟩

/-- An entry of the write-first table is written. -/
theorem exec_wf_row (s : State) (r : Requester) (n e v : Nat) (hs : isHbmSite s.build n = true) (he : e < 16) (hv : v < 2 ^ 64)
    (h : accepted s r (siteReg n 0 (0x100 + 8 * e)) 8 v = true) :
    ∃ a, exec (.writeFirstTableWrite r n e v) s = .next (answered ((wfStore n e v).run s) r a) := by
  obtain ⟨d, hd⟩ := hbmc_wfReg e he
  obtain ⟨hp, ho⟩ := isHbm_pageOf_hbmc s n e hs he
  have hrun := access_accepted_at s r _ 8 v ⟨.hbmc, n⟩ d (0x100 + 8 * e) h hp (by rw [ho, hd])
  rw [Nat.mod_eq_of_lt (show v < 2 ^ (8 * 8) from hv)] at hrun
  have hnth : nth (0x100 + 8 * e) 0x100 8 = e := by unfold nth; omega
  have heff : (writeEffect ⟨.hbmc, n⟩ d (0x100 + 8 * e) v).run s = (wfStore n e v).run s := by
    rw [writeEffect, runs_look, run_acts_cons, run_acts_cons, runs_nil, asksReset, beq_eq_false_iff_ne.2 (by omega : 0x100 + 8 * e ≠ 0x008),
      Bool.false_and, if_neg (by simp), storeReg, if_pos ⟨rfl, by omega⟩, hnth]
    simp only [hookApply, if_neg (show ¬ 0x100 + 8 * e < 0x040 by omega)]
    rfl
  rw [rowsThatWriteOneRegister s (.writeFirstTableWrite r n e v) (r, siteReg n 0 (0x100 + 8 * e), 8, v) (if_pos ⟨hs, he⟩)]
  refine ⟨siteReg n 0 (0x100 + 8 * e), congrArg Host.Outcome.next (hrun.trans ?_)⟩
  rw [show (hookTouch ⟨.hbmc, n⟩ (0x100 + 8 * e) v).run s = s from rfl, heff]
  rfl

/-- Storage that has not been written stays so where written bits only go. -/
theorem isWritten_clear (k n : Nat) (u : MemUnit) (off : Nat) : (upd (.writtenClear k n)).Stable fun s => isWritten s u off = false := fun s hs => by
  have hclear : ∀ j, mapGet writtenDefault s.written j = false → mapGet writtenDefault (mapClear s.written k n) j = false := fun j hj => by
    rw [mapGet_mapClear]
    split
    · rfl
    · exact hj
  have hs : isWritten s u off = false := hs
  rw [isWritten, Bool.or_eq_false_iff] at hs
  change isWritten { s with written := mapClear s.written k n } u off = false
  rw [isWritten, Bool.or_eq_false_iff]
  exact ⟨hclear _ hs.1, hclear _ hs.2⟩

theorem isWritten_congr {s t : State} (h : t.written = s.written) (u : MemUnit) (off : Nat) : isWritten t u off = isWritten s u off := by
  unfold isWritten
  rw [h]

/-- Both written bits of a place gone. -/
theorem isWritten_cleared (s : State) (u : MemUnit) (off k n : Nat) (h1 : k ≤ blockKey u off - 2 ^ 60) (h2 : blockKey u off - 2 ^ 60 < k + n)
    (h3 : k ≤ (muBase u + off) / 8 * 8) (h4 : muBase u + off < k + n) :
    isWritten ((upd (.writtenClear k n)).run ((upd (.writtenClear (2 ^ 60 + k) n)).run s)) u off = false := by
  change (mapGet writtenDefault (mapClear (mapClear s.written (2 ^ 60 + k) n) k n) (blockKey u off) ||
    mapGet writtenDefault (mapClear (mapClear s.written (2 ^ 60 + k) n) k n) (if muBytewise u then muBase u + off else (muBase u + off) / 8 * 8)) = false
  rw [Bool.or_eq_false_iff]
  constructor
  · have hb : 2 ^ 60 ≤ blockKey u off := by unfold blockKey; omega
    rw [mapGet_mapClear, mapGet_mapClear, if_pos (show 2 ^ 60 + k ≤ blockKey u off ∧ blockKey u off < 2 ^ 60 + k + n by omega)]
    split <;> rfl
  · rw [mapGet_mapClear, if_pos (by split <;> omega)]
    rfl

/-- The second half of a run's clearing: its contents. -/
theorem isWritten_contents (c : Bool) (k n : Nat) (u : MemUnit) (off : Nat) :
    (onlyIf c (acts [upd (.memClear k n), upd (.synClear k n)])).Stable fun s => isWritten s u off = false := fun s hs => by
  refine (isWritten_congr ?_ u off).trans hs
  cases c <;> rfl

theorem written_runClear (site : Nat) (x : Blocks) (c : Bool) (u : MemUnit) (off : Nat) : (runClear site x c).Stable fun s => isWritten s u off = false :=
  stable_cons (isWritten_clear _ _ u off) (stable_cons (isWritten_clear _ _ u off)
    (stable_cons (isWritten_contents c _ _ u off) stable_nil))

/-- A run cleared holds no written block. -/
theorem runClear_unwritten (site : Nat) (x : Blocks) (c : Bool) (b o : Nat) (ho : o < 4096) (h1 : x.1 ≤ b) (h2 : b < x.1 + x.2) (s : State) :
    isWritten ((runClear site x c).run s) (.hbm site) (b * 4096 + o) = false := by
  rw [runClear, run_acts_cons, run_acts_cons]
  refine stable_cons (isWritten_contents c _ _ _ _) stable_nil _ ?_
  have hk : blockKey (.hbm site) (b * 4096 + o) - 2 ^ 60 = muBase (.hbm site) + b * 4096 := by
    have hdiv : (b * 4096 + o) / 4096 = b := by omega
    simp only [blockKey, muBase, initUnit, hdiv]
    rw [Nat.add_assoc, Nat.add_sub_cancel_left]
  have hle := Nat.mul_le_mul_right 4096 h1
  have hlt : (b + 1) * 4096 ≤ (x.1 + x.2) * 4096 := Nat.mul_le_mul_right 4096 h2
  rw [Nat.add_mul] at hlt
  rw [Nat.add_mul] at hlt
  have hb : muBase (.hbm site) % 8 = 0 := muBase_mod _
  exact isWritten_cleared s (.hbm site) (b * 4096 + o) _ _ (by omega) (by omega) (by omega) (by omega)

/-- A block of one run, outside another, is in what is left of it. -/
theorem mem_runMinus (x y : Blocks) (b : Nat) (h1 : x.1 ≤ b) (h2 : b < x.1 + x.2) (hn : ¬ (y.1 ≤ b ∧ b < y.1 + y.2)) :
    ∃ z ∈ runMinus x y, z.1 ≤ b ∧ b < z.1 + z.2 := by
  unfold runMinus
  by_cases hm : rangesMeet x y = true
  · rw [if_neg (by simp [hm])]
    by_cases hb : b < y.1
    · exact ⟨(x.1, y.1 - x.1), List.mem_filter.2 ⟨List.mem_cons_self .., by simp; omega⟩, by dsimp only; omega, by dsimp only; omega⟩
    · exact ⟨(y.1 + y.2, x.1 + x.2 - (y.1 + y.2)), List.mem_filter.2 ⟨by simp, by simp; omega⟩, by dsimp only; omega, by dsimp only; omega⟩
  · rw [if_pos (by simp [hm]), if_neg (by omega)]
    exact ⟨x, List.mem_singleton.2 rfl, h1, h2⟩

/-- A block that a site's write-first entries cover. -/
theorem hbmWriteFirst_iff (s : State) (n b : Nat) : hbmWriteFirst s n b = true ↔ ∃ e x, e < 16 ∧ wfRun s n e = some x ∧ x.1 ≤ b ∧ b < x.1 + x.2 := by
  simp only [hbmWriteFirst, List.any_eq_true, List.mem_range, Bool.and_eq_true, decide_eq_true_eq, wfRun]
  constructor
  · rintro ⟨e, he, ⟨hv, h1⟩, h2⟩
    exact ⟨e, _, he, if_pos hv, h1, h2⟩
  · rintro ⟨e, x, he, hx, h1, h2⟩
    split at hx
    · cases hx
      exact ⟨e, he, ⟨by assumption, h1⟩, h2⟩
    · cases hx

theorem runClear_regs (site : Nat) (x : Blocks) (c : Bool) (s : State) : ((runClear site x c).run s).regs = s.regs := by
  rw [runClear, run_acts_cons, run_acts_cons, run_acts_cons, runs_nil]
  cases c
  · rw [runs_false]; rfl
  · rw [runs_true]; rfl

theorem each_runClear_regs (site : Nat) (l : List Blocks) (c : Bool) (s : State) : ((each l fun x => runClear site x c).run s).regs = s.regs :=
  keeps_each (O := fun s : State => s.regs) _ _ (fun x s => runClear_regs site x c s) s

/-- The runs that the table shows. -/
theorem wfRun_congr {s t : State} (h : t.regs = s.regs) (n e : Nat) : wfRun t n e = wfRun s n e := by
  unfold wfRun fb
  rw [fv_congr s t _ _ _ h, fv_congr s t _ _ _ h, fv_congr s t _ _ _ h]

/-- A field of one bit. -/
theorem bits_single (v i : Nat) : (bits v i i != 0) = bit v i := by
  have hlt : bits v i i < 2 ^ (i + 1 - i) := bits_lt v i i
  have hbit : bit v i = (bits v i i).testBit 0 := by
    rw [testBit_bits, decide_eq_true (by omega), Bool.true_and]
    rfl
  rw [Nat.add_sub_cancel_left] at hlt
  rw [hbit]
  generalize bits v i i = b at hlt ⊢
  interval_cases b <;> rfl

/-- An entry of the table after its fields were set. -/
theorem wfRun_setF (s : State) (n e v e' : Nat) :
    wfRun ((setF HBMC_WF_BASE (bits v 23 0) n e).run ((setF HBMC_WF_BLOCKS (bits v 47 24) n e).run ((setF HBMC_WF_VALID (bits v 63 63) n e).run s))) n e' =
      if e' = e then wfOf v else wfRun s n e' := by
  unfold wfRun wfOf fb
  by_cases he : e' = e
  · subst he
    rw [if_pos rfl]
    rw [fv_setF_page _ HBMC_WF_BASE HBMC_WF_VALID _ n e' e' rfl (by decide) (Or.inr (by decide)),
      fv_setF_page _ HBMC_WF_BLOCKS HBMC_WF_VALID _ n e' e' rfl (by decide) (Or.inr (by decide)), fv_setF_self _ HBMC_WF_VALID _ _ _ ⟨by decide, by decide⟩,
      fv_setF_self _ HBMC_WF_BASE _ _ _ ⟨by decide, by decide⟩,
      fv_setF_page _ HBMC_WF_BASE HBMC_WF_BLOCKS _ n e' e' rfl (by decide) (Or.inr (by decide)), fv_setF_self _ HBMC_WF_BLOCKS _ _ _ ⟨by decide, by decide⟩]
    have h1 : bits v 63 63 % 2 ^ (HBMC_WF_VALID.hi + 1 - HBMC_WF_VALID.lo) = bits v 63 63 := Nat.mod_eq_of_lt (bits_lt _ _ _)
    have h2 : bits v 23 0 % 2 ^ (HBMC_WF_BASE.hi + 1 - HBMC_WF_BASE.lo) = bits v 23 0 := Nat.mod_eq_of_lt (bits_lt _ _ _)
    have h3 : bits v 47 24 % 2 ^ (HBMC_WF_BLOCKS.hi + 1 - HBMC_WF_BLOCKS.lo) = bits v 47 24 := Nat.mod_eq_of_lt (bits_lt _ _ _)
    rw [h1, h2, h3, bits_single]
  · rw [if_neg he]
    have hoff : ∀ f g : Fld, f.off = 0x100 → f.stride = 8 → g.off = 0x100 → g.stride = 8 → f.off + e' * f.stride ≠ g.off + e * g.stride := by
      intro f g h1 h2 h3 h4
      rw [h1, h2, h3, h4]
      omega
    have hkeep : ∀ f : Fld, f.blk = .hbmc → f.off = 0x100 → f.stride = 8 →
        fv ((setF HBMC_WF_BASE (bits v 23 0) n e).run ((setF HBMC_WF_BLOCKS (bits v 47 24) n e).run ((setF HBMC_WF_VALID (bits v 63 63) n e).run s))) f n e' =
          fv s f n e' := by
      intro f hb ho hs
      rw [fv_setF_page _ HBMC_WF_BASE f _ n e e' hb (by decide) (Or.inl (hoff f _ ho hs rfl rfl)),
        fv_setF_page _ HBMC_WF_BLOCKS f _ n e e' hb (by decide) (Or.inl (hoff f _ ho hs rfl rfl)),
        fv_setF_page _ HBMC_WF_VALID f _ n e e' hb (by decide) (Or.inl (hoff f _ ho hs rfl rfl))]
    rw [hkeep HBMC_WF_VALID rfl rfl rfl, hkeep HBMC_WF_BASE rfl rfl rfl, hkeep HBMC_WF_BLOCKS rfl rfl rfl]

theorem each_runClear_unwritten (site : Nat) (l : List Blocks) (c : Bool) (b o : Nat) (ho : o < 4096) (x : Blocks) (hx : x ∈ l) (h1 : x.1 ≤ b)
    (h2 : b < x.1 + x.2) (s : State) : isWritten ((each l fun x => runClear site x c).run s) (.hbm site) (b * 4096 + o) = false :=
  each_gains (P := fun s => isWritten s (.hbm site) (b * 4096 + o) = false) x hx (runClear_unwritten site x c b o ho h1 h2)
    (fun y _ => written_runClear site y c _ _) s

theorem wfTableWrite (s : State) (r : Requester) (n e v : Nat) (hs : isHbmSite s.build n = true) (he : e < 16) (hv : v < 2 ^ 64)
    (h : accepted s r (siteReg n 0 (0x100 + 8 * e)) 8 v = true) :
    ∃ t, exec (.writeFirstTableWrite r n e v) s = .next t ∧ wfRun t n e = wfOf v ∧
      ∀ b o, o < 4096 → hbmWriteFirst s n b = false → hbmWriteFirst t n b = true → isWritten t (.hbm n) (b * 4096 + o) = false := by
  obtain ⟨a, hrun⟩ := exec_wf_row s r n e v hs he hv h
  refine ⟨_, hrun, ?_⟩
  have hregs : ∀ e', wfRun ((wfStore n e v).run s) n e' = if e' = e then wfOf v else wfRun s n e' := fun e' => by
    rw [wfStore, runs_look]
    dsimp only
    rw [run_acts_cons, run_acts_cons, run_acts_cons, run_acts_cons, run_acts_cons, runs_nil, wfRun_congr (each_runClear_regs _ _ _ _),
      wfRun_congr (each_runClear_regs _ _ _ _), wfRun_setF]
  have hwf : ∀ e', wfRun (answered ((wfStore n e v).run s) r a) n e' = wfRun ((wfStore n e v).run s) n e' := fun _ => rfl
  refine ⟨by rw [hwf, hregs, if_pos rfl], fun b o ho hb ht => ?_⟩
  have hold : ∀ e' x, e' < 16 → wfRun s n e' = some x → ¬ (x.1 ≤ b ∧ b < x.1 + x.2) := fun e' x h1 h2 h3 => by
    rw [(hbmWriteFirst_iff s n b).2 ⟨e', x, h1, h2, h3.1, h3.2⟩] at hb
    cases hb
  obtain ⟨e', x, he', hx, hx1, hx2⟩ := (hbmWriteFirst_iff _ n b).1 ht
  rw [hwf, hregs] at hx
  by_cases hee : e' = e
  · rw [if_pos hee] at hx
    change isWritten ((wfStore n e v).run s) (.hbm n) (b * 4096 + o) = false
    rw [wfStore, runs_look, hx]
    dsimp only
    rw [run_acts_cons, run_acts_cons, run_acts_cons, run_acts_cons, run_acts_cons, runs_nil]
    cases hw : wfRun s n e with
    | none =>
      simp only [Option.toList_some, Option.toList_none, List.flatMap_singleton]
      exact each_runClear_unwritten n _ false b o ho x (List.mem_singleton.2 rfl) hx1 hx2 _
    | some w =>
      obtain ⟨z, hz, hz1, hz2⟩ := mem_runMinus x w b hx1 hx2 (hold e w he hw)
      simp only [Option.toList_some, List.flatMap_singleton]
      exact each_runClear_unwritten n _ false b o ho z hz hz1 hz2 _
  · rw [if_neg hee] at hx
    exact absurd ⟨hx1, hx2⟩ (hold e' x he' hx)

/-! ### A tile's regions -/

theorem galy_reg (k : Nat) (hk : k < 8) : ∃ d, regAt .galy (0x040 + 4 * k) = some (d, 0x040 + 4 * k) ∧
    storeMask d .rw = 2 ^ 31 + 2 ^ 30 + 63 * 2 ^ 8 + 31 ∧ storeMask d .w1c = 0 := by
  interval_cases k <;> exact ⟨_, rfl, by decide, by decide⟩

theorem unwrite_written (u : MemUnit) (off n : Nat) (s : State) :
    ((unwrite u off n).run s).written = mapClear (mapClear s.written (2 ^ 60 + muBase u + off) n) (muBase u + off) n ∧
      ((unwrite u off n).run s).regs = s.regs := by
  have hclear : ∀ k n, (upd (.memClear k n)).Keeps (fun s => (s.written, s.regs)) ∧ (upd (.synClear k n)).Keeps (fun s => (s.written, s.regs)) :=
    fun k n => ⟨fun _ => rfl, fun _ => rfl⟩
  have htail : ∀ b : Bool, (if b then each ((List.range (n / initUnit u)).filter fun i => !writeFirst s u (off + i * initUnit u)) fun i =>
      acts [upd (.memClear (muBase u + off + i * initUnit u) (initUnit u)), upd (.synClear (muBase u + off + i * initUnit u) (initUnit u))]
      else acts [upd (.memClear (muBase u + off) n), upd (.synClear (muBase u + off) n)]).Keeps (fun s => (s.written, s.regs)) := fun b => by
    cases b
    · exact keeps_cons _ _ (hclear _ _).1 (keeps_cons _ _ (hclear _ _).2 keeps_nil)
    · exact keeps_each _ _ fun i => keeps_cons _ _ (hclear _ _).1 (keeps_cons _ _ (hclear _ _).2 keeps_nil)
  rw [unwrite, runs_look]
  dsimp only
  rw [run_acts_cons, run_acts_cons, run_acts_cons, runs_nil]
  have h := htail (anyWriteFirst s u) ((upd (.writtenClear (muBase u + off) n)).run ((upd (.writtenClear (2 ^ 60 + muBase u + off) n)).run s))
  exact ⟨congrArg Prod.fst h, congrArg Prod.snd h⟩

theorem written_unwrite (u w : MemUnit) (off n x : Nat) : (unwrite w off n).Stable fun s => isWritten s u x = false := fun s hs =>
  (isWritten_congr (s := (upd (.writtenClear (muBase w + off) n)).run ((upd (.writtenClear (2 ^ 60 + muBase w + off) n)).run s)) (unwrite_written w off n s).1 u x).trans
    (isWritten_clear _ _ u x _ (isWritten_clear _ _ u x _ hs))

/-- A granule made unwritten. -/
theorem unwrite_unwritten (p g o : Nat) (ho : o < 65536) (s : State) :
    isWritten ((unwrite (.galley p) (g * 65536) 65536).run s) (.galley p) (g * 65536 + o) = false := by
  have hk : blockKey (.galley p) (g * 65536 + o) - 2 ^ 60 = muBase (.galley p) + (g * 65536 + o) / 64 * 64 := by
    simp only [blockKey, initUnit]
    rw [Nat.add_assoc, Nat.add_sub_cancel_left]
  have hb : muBase (.galley p) % 8 = 0 := muBase_mod _
  refine (isWritten_congr (s := (upd (.writtenClear (muBase (.galley p) + g * 65536) 65536)).run ((upd (.writtenClear (2 ^ 60 + (muBase (.galley p) + g * 65536)) 65536)).run s))
    (by rw [(unwrite_written _ _ _ s).1, Nat.add_assoc]; rfl) _ _).trans ?_
  exact isWritten_cleared s (.galley p) (g * 65536 + o) _ _ (by omega) (by omega) (by omega) (by omega)

theorem galleyRegion_congr {s t : State} (h : t.regs = s.regs) (p g : Nat) : galleyRegion t p g = galleyRegion s p g := by
  unfold galleyRegion fb
  simp only [fv_congr s t _ _ _ h]

theorem galyRegion_row (s : State) (r : Requester) (tile k v : Nat) (htile : tile < 144) (hk : k < 8) (hv : v < 2 ^ 32)
    (h : accepted s r (tileReg tile 5 (0x040 + 4 * k)) 4 v = true) :
    let p := physOf s tile
    ∃ t, exec (.galyRegionWrite r tile k v) s = .next t ∧ regionOf (rdKey t (regKey .galy p (0x040 + 4 * k))) = regionOf v ∧
      ∀ g o, g < 32 → o < 65536 → galleyRegion s p g ≠ galleyRegion t p g → isWritten t (.galley p) (g * 65536 + o) = false := by
  intro p
  obtain ⟨d, hd, hrw, hm⟩ := galy_reg k hk
  have hp : pageOf s (tileReg tile 5 (0x040 + 4 * k)) = some ⟨.galy, p⟩ := pageOf_tileReg s tile 5 _ htile (by decide) (by omega)
  obtain ⟨hrun, -⟩ := exec_page_row s (.galyRegionWrite r tile k v) r _ _ v ⟨.galy, p⟩ d _ (by simp [rowWrite, tileWrite, hk, htile]) h hp
    (raOff_tileReg tile 5 _ htile (by decide) (by omega)) hd ⟨by omega, by simp, by simp⟩ hv rfl
  have happ : hookApply s ⟨.galy, p⟩ (0x040 + 4 * k) v = galyApply s p := by simp only [hookApply, if_neg (show ¬ 0x040 + 4 * k < 0x040 by omega)]
  rw [happ] at hrun
  have hregs : ((galyApply s p).run (stored s ⟨.galy, p⟩ d (0x040 + 4 * k) v)).regs = (stored s ⟨.galy, p⟩ d (0x040 + 4 * k) v).regs := by
    rw [galyApply, runs_look]
    exact keeps_each (O := fun s : State => s.regs) _ _ (fun g s => (unwrite_written _ _ _ s).2) _
  refine ⟨_, hrun, ?_, fun g o hg ho hne => ?_⟩
  · have hkey : regKey .galy p (0x040 + 4 * k) = pageKey ⟨.galy, p⟩ (0x040 + 4 * k) := rfl
    change regionOf (rdKey ((galyApply s p).run _) _) = _
    rw [rdKey_congr _ _ _ hregs, hkey, rdKey_reg_self]
    have hb : ∀ hi lo, hi < 64 → bits (2 ^ 31 + 2 ^ 30 + 63 * 2 ^ 8 + 31) hi lo = 2 ^ (hi + 1 - lo) - 1 →
        bits (storedValue d (rdKey s (pageKey ⟨.galy, p⟩ (0x040 + 4 * k))) v % 2 ^ 64) hi lo = bits v hi lo := fun hi lo hlt hbits => by
      rw [bits_mod_two_pow _ _ _ _ hlt, bits_storedValue_rw d _ v hi lo (by rw [hrw]; exact hbits) (by rw [hm]; simp [bits])]
    have hbit : ∀ x, bit x 31 = (bits x 31 31).testBit 0 := fun x => by rw [testBit_bits]; rfl
    rw [regionOf, regionOf, hbit, hbit v, hb 31 31 (by decide) (by decide), hb 4 0 (by decide) (by decide), hb 13 8 (by decide) (by decide)]
  · have hreg : ∀ g', galleyRegion (answered ((galyApply s p).run (stored s ⟨.galy, p⟩ d (0x040 + 4 * k) v)) r (tileReg tile 5 (0x040 + 4 * k))) p g' =
        galleyRegion (stored s ⟨.galy, p⟩ d (0x040 + 4 * k) v) p g' := galleyRegion_congr hregs p
    rw [hreg] at hne
    change isWritten ((galyApply s p).run _) _ _ = false
    rw [galyApply, runs_look]
    exact each_gains (P := fun s => isWritten s (.galley p) (g * 65536 + o) = false) g
      (List.mem_filter.2 ⟨List.mem_range.2 hg, by simpa using hne⟩) (unwrite_unwritten p g o ho) (fun y _ => written_unwrite _ _ _ _ _) _

/-! ### Slots -/

theorem cova_clrReg : ∃ d, regAt .cova 0x080 = some (d, 0x080) := ⟨_, rfl⟩

/-- A slot that holds nothing. -/
def slotEmpty (p k : Nat) (s : State) : Prop :=
  fb s COVA_SBOUND p k = false ∧ fv s COVA_SAMPLES p k = 0 ∧ covSlot s p k = ⟨[], false, none⟩

theorem covSlot_updCov (s : State) (p n k : Nat) (c : CovSlot) (hk : k < 8) : covSlot ((updCov p n c).run s) p k = if k = n then c else covSlot s p k := by
  simp only [covSlot, updCov, run_updTile, tileSt_tile, if_true]
  rw [getD_modAt 8 _ _ _ _ _ hk]

theorem covSlot_setF (s : State) (f : Fld) (v i n p k : Nat) : covSlot ((setF f v i n).run s) p k = covSlot s p k := rfl

theorem fv_updCov (s : State) (p n : Nat) (c : CovSlot) (f : Fld) (i m : Nat) : fv ((updCov p n c).run s) f i m = fv s f i m := rfl

/-- A field of a slot, after a slot was emptied. -/
theorem fv_covEmpty (s : State) (p n k : Nat) (f : Fld) (hf : f = COVA_SBOUND ∨ f = COVA_SAMPLES) :
    fv ((covEmpty p n).run s) f p k = if k = n then 0 else fv s f p k := by
  rw [covEmpty, run_acts_cons, run_acts_cons, run_acts_cons, run_acts_cons, run_acts_cons, run_acts_cons, run_acts_cons, runs_nil]
  rw [fv_updCov]
  have hword : ∀ a b : Nat, 0x040 + a * 8 ≠ 0x044 + b * 8 := fun a b => by omega
  rcases hf with rfl | rfl
  · rw [fv_setF_page _ COVA_SAMPLES COVA_SBOUND _ p n k rfl (by decide) (Or.inl (hword k n)), fv_setF_page _ COVA_SI COVA_SBOUND _ p n k rfl (by decide) (Or.inr (by decide)),
      fv_setF_page _ COVA_SJ COVA_SBOUND _ p n k rfl (by decide) (Or.inr (by decide)),
      fv_setF_page _ COVA_SPOISON COVA_SBOUND _ p n k rfl (by decide) (Or.inr (by decide)),
      fv_setF_page _ COVA_SFACTOR COVA_SBOUND _ p n k rfl (by decide) (Or.inr (by decide))]
    split
    · rename_i he
      rw [he, fv_setF_self _ COVA_SBOUND _ _ _ ⟨by decide, by decide⟩]
      rfl
    · exact fv_setF_page _ COVA_SBOUND COVA_SBOUND _ p n k rfl (by decide) (Or.inl (by simp only [COVA_SBOUND]; omega))
  · split
    · rename_i he
      rw [he, fv_setF_self _ COVA_SAMPLES _ _ _ ⟨by decide, by decide⟩]
      rfl
    · rw [fv_setF_page _ COVA_SAMPLES COVA_SAMPLES _ p n k rfl (by decide) (Or.inl (by simp only [COVA_SAMPLES]; omega)),
        fv_setF_page _ COVA_SI COVA_SAMPLES _ p n k rfl (by decide) (Or.inl (hword n k).symm),
        fv_setF_page _ COVA_SJ COVA_SAMPLES _ p n k rfl (by decide) (Or.inl (hword n k).symm),
        fv_setF_page _ COVA_SPOISON COVA_SAMPLES _ p n k rfl (by decide) (Or.inl (hword n k).symm),
        fv_setF_page _ COVA_SFACTOR COVA_SAMPLES _ p n k rfl (by decide) (Or.inl (hword n k).symm)]
      exact fv_setF_page _ COVA_SBOUND COVA_SAMPLES _ p n k rfl (by decide) (Or.inl (hword n k).symm)

theorem slotEmpty_covEmpty (s : State) (p n k : Nat) (hk : k < 8) (h : k = n ∨ slotEmpty p k s) : slotEmpty p k ((covEmpty p n).run s) := by
  have hcov : covSlot ((covEmpty p n).run s) p k = if k = n then ⟨[], false, none⟩ else covSlot s p k := by
    rw [covEmpty, run_acts_cons, run_acts_cons, run_acts_cons, run_acts_cons, run_acts_cons, run_acts_cons, run_acts_cons, runs_nil, covSlot_updCov _ _ _ _ _ hk]
    simp only [covSlot_setF]
  refine ⟨?_, ?_, ?_⟩
  · rw [fb, fv_covEmpty s p n k _ (Or.inl rfl)]
    split
    · rfl
    · exact (h.resolve_left (by assumption)).1
  · rw [fv_covEmpty s p n k _ (Or.inr rfl)]
    split
    · rfl
    · exact (h.resolve_left (by assumption)).2.1
  · rw [hcov]
    split
    · rfl
    · exact (h.resolve_left (by assumption)).2.2

theorem slotClr_row (s : State) (r : Requester) (tile v : Nat) (htile : tile < 144) (h : accepted s r (tileReg tile 2 0x080) 4 v = true) :
    ∃ t, exec (.slotClr r tile v) s = .next t ∧ ∀ k, k < 8 → bit v k = true →
      fb t COVA_SBOUND (physOf s tile) k = false ∧ fv t COVA_SAMPLES (physOf s tile) k = 0 ∧ covSlot t (physOf s tile) k = ⟨[], false, none⟩ := by
  obtain ⟨d, hd⟩ := cova_clrReg
  have hp : pageOf s (tileReg tile 2 0x080) = some ⟨.cova, physOf s tile⟩ := pageOf_tileReg s tile 2 _ htile (by decide) (by decide)
  have hrun := exec_row_accepted s (.slotClr r tile v) r _ 4 v ⟨.cova, physOf s tile⟩ d 0x080 _ (by simp [rowWrite, tileWrite, htile]) h hp
    (by rw [raOff_tileReg tile 2 _ htile (by decide) (by decide)]; exact hd) ⟨by decide, by simp, by simp⟩ rfl rfl
  have happ : hookApply s ⟨.cova, physOf s tile⟩ 0x080 (v % 2 ^ (8 * 4)) =
      each (rangeF 8 (bit (v % 2 ^ (8 * 4)))) (covEmpty (physOf s tile)) := rfl
  rw [happ] at hrun
  refine ⟨_, hrun, fun k hk hbit => ?_⟩
  have hmem : k ∈ rangeF 8 (bit (v % 2 ^ (8 * 4))) := by
    refine List.mem_filter.2 ⟨List.mem_range.2 hk, ?_⟩
    unfold bit at hbit ⊢
    rw [Nat.testBit_mod_two_pow, hbit, Bool.and_true, decide_eq_true_eq]
    omega
  exact each_gains (P := slotEmpty (physOf s tile) k) k hmem (fun s => slotEmpty_covEmpty s _ k k hk (Or.inl rfl))
    (fun y _ s hs => slotEmpty_covEmpty s _ y k hk (Or.inr hs)) _

/-! ### Zeroing -/

theorem rawByte_memClear (k n j : Nat) : (upd (.memClear k n)).Stable fun s => rawByte s j = 0 := fun s hs => by
  have hs : mapGet memDefault s.mem j = 0 := hs
  change mapGet memDefault (mapClear s.mem k n) j = 0
  rw [mapGet_mapClear, hs]
  split <;> rfl

theorem runClear_zero (site : Nat) (x : Blocks) (j : Nat) (h1 : muBase (.hbm site) + x.1 * 4096 ≤ j)
    (h2 : j < muBase (.hbm site) + x.1 * 4096 + x.2 * 4096) (s : State) : rawByte ((runClear site x true).run s) j = 0 := by
  rw [runClear, run_acts_cons, run_acts_cons, run_acts_cons, runs_nil, runs_true, run_acts_cons, run_acts_cons, runs_nil]
  change mapGet memDefault (mapClear s.mem _ _) j = 0
  rw [mapGet_mapClear, if_pos ⟨h1, h2⟩]
  rfl

theorem zero_runClear (site : Nat) (x : Blocks) (j : Nat) : (runClear site x true).Stable fun s => rawByte s j = 0 :=
  stable_cons (fun _ h => h) (stable_cons (fun _ h => h) (stable_cons (stable_onlyIf fun _ =>
    stable_cons (rawByte_memClear _ _ j) (stable_cons (fun _ h => h) stable_nil)) stable_nil))

theorem zeroingDone_leaves (s : State) (n : Nat) :
    ∃ t, exec (.zeroingDone n) s = .next t ∧ fb t HBMC_ZERO_BUSY n = false ∧ fv t HBMC_ZERO_REMAIN n = 0 ∧ mapGet zeroDefault t.zeroing n = [] ∧
      ∀ x ∈ mapGet zeroDefault s.zeroing n, ∀ o, o < x.2 * 4096 → rawByte t (muBase (.hbm n) + x.1 * 4096 + o) = 0 := by
  refine ⟨_, rfl, ?_⟩
  rw [zeroDone, runs_look, run_acts_cons, run_acts_cons, run_acts_cons, run_acts_cons, runs_nil]
  refine ⟨?_, ?_, ?_, fun x hx o ho => ?_⟩
  · rw [fb, fv_setF_self _ HBMC_ZERO_BUSY _ _ _ ⟨by decide, by decide⟩]
    rfl
  · rw [fv_setF_page _ HBMC_ZERO_BUSY HBMC_ZERO_REMAIN _ n _ _ rfl (by decide) (Or.inr (by decide)),
      fv_setF_self _ HBMC_ZERO_REMAIN _ _ _ ⟨by decide, by decide⟩]
    rfl
  · change mapGet zeroDefault (mapSet zeroDefault _ n []) n = []
    rw [mapGet_mapSet_self]
  · have hwritten : ∀ (y : Blocks), (each (List.range y.2) fun i => upd (.written (blockKey (.hbm n) ((y.1 + i) * 4096)) [true])).Stable
        fun s => rawByte s (muBase (.hbm n) + x.1 * 4096 + o) = 0 := fun y => stable_each fun _ _ _ h => h
    exact each_gains (P := fun s => rawByte s (muBase (.hbm n) + x.1 * 4096 + o) = 0) x hx
      (fun s => by
        rw [run_acts_cons, run_acts_cons, runs_nil]
        exact hwritten x _ (runClear_zero n x _ (by omega) (by omega) s))
      (fun y _ => stable_cons (zero_runClear n y _) (stable_cons (hwritten y) stable_nil)) s

/-- Settles O30, clause by clause: each range, block, granule or slot is dealt with by one part of a sequence, and no other part undoes it. -/
theorem memoryKeepsContentsAndModes : Obligations.MemoryKeepsContentsAndModes := by
  unfold Obligations.MemoryKeepsContentsAndModes
  exact ⟨⟨memoryWrite_lands, memoryRead_answers⟩, wfTableWrite, galyRegion_row, slotClr_row, fun s n _ => zeroingDone_leaves s n⟩

end Sys2Proof.Machine
end

section
/-! PROOF. Spare tiles take the place of retired ones (R12, R100, R101). -/

namespace Sys2Proof.Machine

/-! ### Registers that are copied or reset -/

/-- A register holds a value. -/
def regHolds (k v : Nat) (s : State) : Prop := rdKey s k = v

theorem regHolds_setKey (k v j w : Nat) (h : j ≠ k ∨ w % 2 ^ 64 = v) : (setKey j w).Stable (regHolds k v) := fun s hs => by
  change rdKey ((Upd.reg j (BitVec.ofNat 64 w)).apply s) k = v
  rw [rdKey_reg]
  split
  · rename_i he
    exact h.resolve_left (fun hn => hn he.symm)
  · exact hs

theorem regHolds_within {a : Act} {ps : List Part} {ks : Nat → Prop} (h : a.Within ps ks) (k v : Nat) (hk : ¬ ks k) : a.Stable (regHolds k v) :=
  fun s hs => (h.rdKey s k hk).trans hs

theorem regHolds_self (k w : Nat) (s : State) : regHolds k (w % 2 ^ 64) ((setKey k w).run s) := rdKey_reg_self s k w

theorem regHolds_regs {a : Act} (h : ∀ s, (a.run s).regs = s.regs) (k v : Nat) : a.Stable (regHolds k v) := fun s hs =>
  (rdKey_congr _ _ _ (h s)).trans hs

/-- Registers copied or reset one by one: each ends with its own value. -/
theorem each_setKey_holds {α : Type} (l : List α) (key val : α → Nat) (x : α) (hx : x ∈ l) (hinj : ∀ y ∈ l, key y = key x → val y % 2 ^ 64 = val x % 2 ^ 64)
    (s : State) : regHolds (key x) (val x % 2 ^ 64) ((each l fun y => setKey (key y) (val y)).run s) :=
  each_gains (P := regHolds (key x) (val x % 2 ^ 64)) x hx (fun s => regHolds_self _ _ s)
    (fun y hy => regHolds_setKey _ _ _ _ (by
      by_cases h : key y = key x
      · exact Or.inr (hinj y hy h)
      · exact Or.inl h)) s

theorem resetKey_eq (k : Nat) : resetKey k = setKey k (regReset k).toNat := by
  rw [resetKey, setKey, BitVec.ofNat_toNat, BitVec.setWidth_eq]

/-- The registers of a TILE page that a substitution copies or resets, one by one. -/
def tokenOff (c : Nat) : Nat := 0x400 + 4 * c
def qstateOff (k : Nat) : Nat := 0x080 + 0x20 * k + 4 * 4

theorem tokenOff_mem (c : Nat) (hc : c < 256) : tokenOff c ∈ tileCopyOffs :=
  List.mem_append_right _ (List.mem_map.2 ⟨c, List.mem_range.2 hc, rfl⟩)

theorem qstateOff_mem (k : Nat) (hk : k < 7) : qstateOff k ∈ tileCopyOffs :=
  List.mem_append_left _ (List.mem_append_right _ (List.mem_flatMap.2 ⟨k, List.mem_range.2 hk, List.mem_map.2 ⟨4, by decide, rfl⟩⟩))

theorem tileCopyOffs_lt (o : Nat) (h : o ∈ tileCopyOffs) : 0x40 ≤ o ∧ o < 4096 := by
  rw [tileCopyOffs, List.mem_append, List.mem_append] at h
  rcases h with (h | h) | h
  · simp only [List.mem_cons, List.not_mem_nil, or_false] at h; omega
  · obtain ⟨q, hq, h⟩ := List.mem_flatMap.1 h
    obtain ⟨i, hi, rfl⟩ := List.mem_map.1 h
    rw [List.mem_range] at hq hi
    omega
  · obtain ⟨c, hc, rfl⟩ := List.mem_map.1 h
    rw [List.mem_range] at hc
    omega

/-- A TILE register whose fields reset to 0. -/
def zeroAtReset (o : Nat) : Bool := (regAt .tile o).any fun x => x.1.fields.foldl (fun v f => v + f.reset * 2 ^ f.lo) 0 == 0

theorem regReset_zero (q o : Nat) (hq : q < 256) (ho : o < 4096) (h8 : o ≠ 0x008) (h : zeroAtReset o = true) : regReset (regKey .tile q o) = 0 := by
  have hoff : regKey .tile q o % 4096 = o := by unfold regKey; omega
  have hblk : regKey .tile q o / 4096 / 256 = blkNum .tile := by unfold regKey; omega
  unfold zeroAtReset at h
  cases hd : regAt .tile o with
  | none => rw [hd] at h; cases h
  | some x =>
    rw [hd] at h
    have hz : x.1.fields.foldl (fun v f => v + f.reset * 2 ^ f.lo) 0 = 0 := beq_iff_eq.1 h
    simp only [regReset, hoff, hblk, blkOf_blkNum, if_neg h8, hd, hz]
    rfl

theorem token_zeroAtReset (c : Nat) (hc : c < 256) : zeroAtReset (tokenOff c) = true := by
  have h : ∀ c : Fin 256, zeroAtReset (tokenOff c.val) = true := by decide +kernel
  exact h ⟨c, hc⟩

theorem qstate_zeroAtReset (k : Nat) (hk : k < 7) : zeroAtReset (qstateOff k) = true := by
  interval_cases k <;> rfl

/-- The registers of one page apart, by offset. -/
theorem regKey_inj_off {b : Blk} {q x y : Nat} (h : regKey b q x = regKey b q y) : x = y := by
  unfold regKey at h; omega

/-! ### The spare's state -/

/-- A spare that takes no state: its queues STOPPED, its counters 0. -/
theorem fresh_tile (q : Nat) (hq : q < 160) (o : Nat) (ho : o ∈ tileCopyOffs) (h : zeroAtReset o = true) (s : State) :
    rdKey ((acts [tileFresh q, galleyFresh q]).run s) (regKey .tile q o) = 0 := by
  obtain ⟨h0, h1⟩ := tileCopyOffs_lt o ho
  have hzero : regReset (regKey .tile q o) = 0 := regReset_zero q o (by omega) h1 (by omega) h
  have hfirst : regHolds (regKey .tile q o) 0 ((each tileCopyOffs fun o => resetKey (regKey .tile q o)).run s) := by
    have := each_setKey_holds tileCopyOffs (fun o => regKey .tile q o) (fun o => (regReset (regKey .tile q o)).toNat) o ho
      (fun y _ he => by rw [regKey_inj_off he]) s
    have h0 : (regReset (regKey .tile q o)).toNat % 2 ^ 64 = 0 := by rw [hzero]; rfl
    rw [h0] at this
    simpa only [resetKey_eq] using this
  have hgal : ∀ r, r ∈ List.range 8 → (resetKey (regKey .galy q (0x040 + 4 * r))).Stable (regHolds (regKey .tile q o) 0) := fun r hr => by
    rw [resetKey_eq]
    rw [List.mem_range] at hr
    exact regHolds_setKey _ _ _ _ (Or.inl (by simp only [regKey, blkNum]; omega))
  have hrest : (acts [updTile q fun t => { Tile.init with cov := t.cov, inbox := t.inbox }, galleyFresh q]).Stable (regHolds (regKey .tile q o) 0) :=
    stable_cons (regHolds_regs (fun _ => rfl) _ _) (stable_cons (stable_cons (stable_each hgal) (stable_cons
      (regHolds_regs (fun s => (unwrite_written _ _ _ s).2) _ _) stable_nil)) stable_nil)
  have := hrest _ hfirst
  rw [run_acts_cons, run_acts_cons, runs_nil] at this
  rw [run_acts_cons, run_acts_cons, runs_nil, tileFresh, run_acts_cons, run_acts_cons, runs_nil]
  exact this

/-- What memory's copying leaves: registers. -/
theorem copyMem_within (a b : MemUnit) : (copyMem a b).Within [.mem, .syn, .written] fun _ => False := by
  simp only [copyMem, only_look_iff, only_acts_cons, only_acts_nil, only_each_iff, only_upd_iff, Upd.within, and_true]
  exact fun _ => ⟨by decide, by decide, by decide, by decide, fun _ _ => by decide, fun _ _ => by decide, fun _ _ => by decide, fun _ _ => by decide⟩

theorem settleMem_far (u : MemUnit) : (settleMem u).Within memParts farKeys :=
  (only_look_iff _ _).2 fun _ => (only_each_iff _ _ _).2 fun w _ => noteKeys_far.touchWord u w

/-- The memories' part of the state's copy. -/
def copyMems (p q : Nat) : Act := acts [each [MemUnit.galley p, .imem p, .dmem p] settleMem,
  copyMem (.galley p) (.galley q), copyMem (.imem p) (.imem q), copyMem (.dmem p) (.dmem q)]

theorem copyMems_within (p q : Nat) : (copyMems p q).Within memParts farKeys := by
  simp only [copyMems, only_acts_cons, only_acts_nil, only_each_iff, and_true]
  exact ⟨fun u _ => settleMem_far u, (copyMem_within _ _).mono (by decide) fun _ h => h.elim, (copyMem_within _ _).mono (by decide) fun _ h => h.elim,
    (copyMem_within _ _).mono (by decide) fun _ h => h.elim⟩

/-- The registers' part. -/
def copyRegs (p q : Nat) (s : State) : Act := acts [
  each tileCopyOffs fun o => setKey (regKey .tile q o) (rdKey s (regKey .tile p o)),
  each (List.range 8) fun r => setKey (regKey .galy q (0x040 + 4 * r)) (rdKey s (regKey .galy p (0x040 + 4 * r))),
  each (List.range 256) fun r => setKey (regKey .winn q (0x100 + 4 * r)) (rdKey s (regKey .winn p (0x100 + 4 * r))),
  updTile q fun _ => { tileSt s p with cov := Tile.init.cov }]

theorem run_acts_look (a b c d : Act) (k : State → Act) (s : State) :
    (acts [a, b, c, d, look k]).run s = (k ((acts [a, b, c, d]).run s)).run ((acts [a, b, c, d]).run s) := by
  have h : (acts [a, b, c, d]).run s = d.run (c.run (b.run (a.run s))) := by
    rw [run_acts_cons, run_acts_cons, run_acts_cons, run_acts_cons, runs_nil]
  rw [h, run_acts_cons, run_acts_cons, run_acts_cons, run_acts_cons, run_acts_cons, runs_nil, runs_look]

theorem copyTile_run (p q : Nat) (s : State) : (copyTile p q).run s = (copyRegs p q ((copyMems p q).run s)).run ((copyMems p q).run s) :=
  run_acts_look _ _ _ _ (copyRegs p q) s

theorem copied_tile (p q o : Nat) (hp : p < 160) (ho : o ∈ tileCopyOffs) (s : State) :
    rdKey ((copyTile p q).run s) (regKey .tile q o) = rdKey s (regKey .tile p o) := by
  obtain ⟨h0, h1⟩ := tileCopyOffs_lt o ho
  have hfar : ¬ farKeys (regKey .tile p o) := by
    simp only [farKeys, regKey, blkNum]; omega
  have hsame := (copyMems_within p q).rdKey s _ hfar
  rw [copyTile_run]
  generalize (copyMems p q).run s = u at hsame ⊢
  rw [← hsame, copyRegs, run_acts_cons]
  have hfirst := each_setKey_holds tileCopyOffs (fun o => regKey .tile q o) (fun o => rdKey u (regKey .tile p o)) o ho
    (fun y _ he => by rw [regKey_inj_off he]) u
  rw [Nat.mod_eq_of_lt (rdKey_lt _ _)] at hfirst
  have hgal : ∀ r ∈ List.range 8, (setKey (regKey .galy q (0x040 + 4 * r)) (rdKey u (regKey .galy p (0x040 + 4 * r)))).Stable
      (regHolds (regKey .tile q o) (rdKey u (regKey .tile p o))) := fun r hr => by
    rw [List.mem_range] at hr
    exact regHolds_setKey _ _ _ _ (Or.inl (by simp only [regKey, blkNum]; omega))
  have hwin : ∀ r ∈ List.range 256, (setKey (regKey .winn q (0x100 + 4 * r)) (rdKey u (regKey .winn p (0x100 + 4 * r)))).Stable
      (regHolds (regKey .tile q o) (rdKey u (regKey .tile p o))) := fun r hr => by
    rw [List.mem_range] at hr
    exact regHolds_setKey _ _ _ _ (Or.inl (by simp only [regKey, blkNum]; omega))
  have hrest : (acts [each (List.range 8) fun r => setKey (regKey .galy q (0x040 + 4 * r)) (rdKey u (regKey .galy p (0x040 + 4 * r))),
      each (List.range 256) fun r => setKey (regKey .winn q (0x100 + 4 * r)) (rdKey u (regKey .winn p (0x100 + 4 * r))),
      updTile q fun _ => { tileSt u p with cov := Tile.init.cov }]).Stable (regHolds (regKey .tile q o) (rdKey u (regKey .tile p o))) :=
    stable_cons (stable_each hgal) (stable_cons (stable_each hwin) (stable_cons (regHolds_regs (fun _ => rfl) _ _) stable_nil))
  exact hrest _ hfirst

/-- A lost or copied state leaves the units as they were. -/
theorem spareState_units (lost : Bool) (p q : Nat) (s : State) :
    ((if lost then acts [tileFresh q, galleyFresh q] else copyTile p q).run s).units = s.units := by
  have hset : ∀ k v, (setKey k v).Keeps fun s : State => s.units := fun _ _ _ => rfl
  cases lost
  · change ((copyTile p q).run s).units = s.units
    rw [copyTile_run]
    have h1 := (copyMems_within p q).same .units (by decide) s
    have h2 : (copyRegs p q ((copyMems p q).run s)).Keeps fun s : State => s.units :=
      keeps_cons _ _ (keeps_each _ _ fun _ => hset _ _) (keeps_cons _ _ (keeps_each _ _ fun _ => hset _ _)
        (keeps_cons _ _ (keeps_each _ _ fun _ => hset _ _) (keeps_cons _ _ (fun _ => rfl) keeps_nil)))
    exact (h2 _).trans h1
  · have h1 : (tileFresh q).Keeps fun s : State => s.units :=
      keeps_cons _ _ (keeps_each _ _ fun _ => fun _ => rfl) (keeps_cons _ _ (fun _ => rfl) keeps_nil)
    have h2 : (galleyFresh q).Keeps fun s : State => s.units :=
      keeps_cons _ _ (keeps_each _ _ fun _ => fun _ => rfl) (keeps_cons _ _ (fun s => (unwrite_within _ _ _).same .units (by decide) s) keeps_nil)
    exact keeps_cons _ _ h1 (keeps_cons _ _ h2 keeps_nil) s

/-! ### The spare in its place -/

theorem slotsLost_within (q : Nat) (hq : q < 160) : (slotsLost q).Within [.tiles, .events, .out] (hdrOr [.cova, .slqp]) := by
  simp only [slotsLost, covEmpty, updCov, only_acts_cons, only_acts_nil, only_each_iff, within_setF, within_updTile, and_true, List.mem_range]
  refine ⟨fun k hk => ⟨?_, ?_, ?_, ?_, ?_, ?_, by decide⟩, raiseEvt_hdrOr _ _ (by decide) (by decide) (by decide)⟩
  all_goals exact hdrOr_fldKey _ q k (by decide) (by omega) (by simp only [COVA_SBOUND, COVA_SFACTOR, COVA_SPOISON, COVA_SJ, COVA_SI, COVA_SAMPLES]; omega)

/-- A substitution that goes ahead. -/
def spareTakes (tile slot p q : Nat) (lost : Bool) : Act := acts [
  if lost then acts [tileFresh q, galleyFresh q] else copyTile p q,
  slotsLost q,
  swapSlots tile slot,
  updUnits fun u =>
    let l := u.subst.map fun y => if y.tile == tile then { y with spare := some q, lost := lost } else y
    { u with subst := l }]

theorem substitute_run (s : State) (tile slot : Nat) (readable : Bool) (x : Subst) (hx : s.units.subst.find? (fun y => y.tile == tile) = some x)
    (hslot : (spareSlots s (dieOfTile tile)).head? = some slot) (hnone : x.spare = none) (hedge : 0 < x.edges)
    (hwait : readable = true → ((tileSt s x.old).queues.all fun q => q.inflight.isEmpty) = false → 2 ≤ x.edges) :
    (substitute tile readable).run s =
      (spareTakes tile slot x.old (physOf s slot) (!readable || !((tileSt s x.old).queues.all fun q => q.inflight.isEmpty))).run s := by
  rw [substitute, runs_look, hx]
  dsimp only
  rw [hslot]
  dsimp only
  rw [if_neg, spareTakes]
  rw [hnone]
  simp only [Option.isSome_none, Bool.false_or, Bool.or_eq_true, Bool.and_eq_true, decide_eq_true_eq, Bool.not_eq_true', not_or]
  exact ⟨by omega, fun ⟨⟨h1, h2⟩, h3⟩ => by have := hwait h1 h2; omega⟩

theorem spareSubstitution_row (s : State) (tile slot : Nat) (readable : Bool) (x : Subst) (htile : tile < 144)
    (hx : s.units.subst.find? (fun y => y.tile == tile) = some x) (hslot : (spareSlots s (dieOfTile tile)).head? = some slot)
    (hnone : x.spare = none) (hold : x.old < 160) :
    let idle := (tileSt s x.old).queues.all fun q => q.inflight.isEmpty
    let q := physOf s slot
    0 < x.edges → (readable = true → idle = false → 2 ≤ x.edges) →
    ∃ t, exec (.spareSubstitution tile readable) s = .next t ∧ physOf t tile = q ∧ physOf t slot = physOf s tile ∧
      (∃ y ∈ t.units.subst, y.tile = tile ∧ y.spare = some q ∧ y.lost = !(readable && idle)) ∧
      (fv t (hdrEvtPend .cova) q).testBit 16 = true ∧
      ((readable && idle) = true → ∀ c, c < 256 → tok t q c = tok s x.old c) ∧
      ((readable && idle) = false → (∀ c, c < 256 → tok t q c = 0) ∧ ∀ k, k < 7 → fv t TILE_QSTATE q k = qStopped) := by
  intro idle q hedge hwait
  have hq : q < 160 := physOf_lt _ _
  have hge : 144 ≤ slot := by
    have hmem : slot ∈ spareSlots s (dieOfTile tile) := List.mem_of_mem_head? (by rw [hslot]; rfl)
    obtain ⟨k, -, hk⟩ := List.mem_map.1 (List.mem_of_mem_filter hmem)
    omega
  have hlost : (!readable || !idle) = !(readable && idle) := by cases readable <;> cases idle <;> rfl
  have hrun := substitute_run s tile slot readable x hx hslot hnone hedge hwait
  rw [show (!readable || !((tileSt s x.old).queues.all fun q => q.inflight.isEmpty)) = !(readable && idle) from hlost] at hrun
  have htileMem : x ∈ s.units.subst ∧ x.tile = tile := ⟨List.mem_of_find?_eq_some hx, by simpa using List.find?_some hx⟩
  refine ⟨_, congrArg Host.Outcome.next hrun, ?_⟩
  generalize (readable && idle) = ok
  rw [spareTakes, run_acts_cons, run_acts_cons, run_acts_cons, run_acts_cons, runs_nil]
  have hunits := spareState_units (!ok) x.old q s
  have htok : ∀ o ∈ tileCopyOffs, (ok = true → rdKey ((if (!ok) = true then acts [tileFresh q, galleyFresh q] else copyTile x.old q).run s) (regKey .tile q o) =
      rdKey s (regKey .tile x.old o)) ∧ (ok = false → zeroAtReset o = true →
        rdKey ((if (!ok) = true then acts [tileFresh q, galleyFresh q] else copyTile x.old q).run s) (regKey .tile q o) = 0) := fun o ho => by
    cases ok
    · exact ⟨fun h => Bool.noConfusion h, fun _ hz => fresh_tile q hq o ho hz s⟩
    · exact ⟨fun _ => copied_tile x.old q o hold ho s, fun h => Bool.noConfusion h⟩
  generalize (if (!ok) = true then acts [tileFresh q, galleyFresh q] else copyTile x.old q).run s = u at hunits htok ⊢
  have hsw := slotsLost_within q hq
  have hunits' : ((slotsLost q).run u).units = s.units := (hsw.same .units (by decide) u).trans hunits
  have hkey : ∀ o ∈ tileCopyOffs, rdKey ((slotsLost q).run u) (regKey .tile q o) = rdKey u (regKey .tile q o) := fun o ho => by
    obtain ⟨h0, h1⟩ := tileCopyOffs_lt o ho
    refine hsw.rdKey u _ ?_
    exact not_hdrOr_fldKey ⟨.tile, o, 0, 0, 0⟩ q 0 (by simp) (by omega) (by simpa using h0) (by simpa using h1)
  have hpend : pending ((slotsLost q).run u) ⟨.cova, q⟩ 16 := by
    rw [slotsLost, run_acts_cons, run_acts_cons, runs_nil]
    exact pending_raiseEvt _ _ 16 _ (by decide) (by decide)
  generalize (slotsLost q).run u = v at hunits' hkey hpend ⊢
  have hphys : ∀ k, physOf v k = physOf s k := fun k => by rw [physOf, hunits']; rfl
  have hback : ∀ k, physOf ((updUnits fun u =>
      let l := u.subst.map fun y => if y.tile == tile then { y with spare := some q, lost := !ok } else y
      { u with subst := l }).run ((swapSlots tile slot).run v)) k =
      mapGet slotHome (mapSet slotHome (mapSet slotHome v.units.backing tile (physOf v slot)) slot (physOf v tile)) k % 160 := fun _ => rfl
  have hregs : ((updUnits fun u =>
      let l := u.subst.map fun y => if y.tile == tile then { y with spare := some q, lost := !ok } else y
      { u with subst := l }).run ((swapSlots tile slot).run v)).regs = v.regs := rfl
  refine ⟨?_, ?_, ?_, ?_, fun hok c hc => ?_, fun hok => ⟨fun c hc => ?_, fun k hk => ?_⟩⟩
  · rw [hback, mapGet_mapSet_ne _ _ _ _ _ (by omega), mapGet_mapSet_self, hphys]
    exact Nat.mod_eq_of_lt hq
  · rw [hback, mapGet_mapSet_self, hphys]
    exact Nat.mod_eq_of_lt (physOf_lt _ _)
  · refine ⟨{ x with spare := some q, lost := !ok }, ?_, htileMem.2, rfl, rfl⟩
    change _ ∈ v.units.subst.map fun y => if (y.tile == tile) = true then { y with spare := some q, lost := !ok } else y
    rw [hunits']
    exact List.mem_map.2 ⟨x, htileMem.1, if_pos (beq_iff_eq.2 htileMem.2)⟩
  · rw [fv_congr _ _ _ _ _ hregs]
    exact hpend
  · have ho := tokenOff_mem c hc
    have h1 := (hkey _ ho).trans ((htok _ ho).1 hok)
    rw [tok, tok, fv_congr _ _ _ _ _ hregs]
    have hk : ∀ p, fldKey TILE_TOKEN p c = regKey .tile p (tokenOff c) := fun p => by simp only [fldKey, TILE_TOKEN, tokenOff, Nat.mul_comm]
    rw [fv, fv, hk, hk, h1]
  · have ho := tokenOff_mem c hc
    have h1 := (hkey _ ho).trans ((htok _ ho).2 hok (token_zeroAtReset c hc))
    rw [tok, fv_congr _ _ _ _ _ hregs, fv]
    rw [show fldKey TILE_TOKEN q c = regKey .tile q (tokenOff c) by simp only [fldKey, TILE_TOKEN, tokenOff, Nat.mul_comm], h1]
    rfl
  · have ho := qstateOff_mem k hk
    have h1 := (hkey _ ho).trans ((htok _ ho).2 hok (qstate_zeroAtReset k hk))
    rw [fv_congr _ _ _ _ _ hregs, fv]
    rw [show fldKey TILE_QSTATE q k = regKey .tile q (qstateOff k) by simp only [fldKey, TILE_QSTATE, qstateOff]; congr 1; omega, h1]
    rfl

/-! ### Going on -/

theorem spareResume_row (s : State) (tile : Nat) (x : Subst) (hx : s.units.subst.find? (fun y => y.tile == tile && y.spare.isSome) = some x)
    (h1 : s.units.heldIncs = []) (h2 : s.units.heldAccs = []) (h3 : s.units.heldMsgs = []) :
    let q := physOf s tile
    ∃ t, exec (.spareResume tile) s = .next t ∧ t.units.subst = s.units.subst.filter (fun y => y.tile != tile) ∧
      fb t TILE_SUBST_VALID q = true ∧ fb t TILE_SUBST_LOST q = x.lost ∧ fv t TILE_OLD_PHYS q = x.old % 80 ∧
      (fv t (hdrEvtPend .tile) q).testBit 21 = true ∧ (x.lost = true → (fv t (hdrEvtPend .tile) q).testBit 22 = true) := by
  intro q
  refine ⟨(spareResume tile).run s, rfl, ?_⟩
  have hq : q < 160 := physOf_lt _ _
  rw [spareResume, runs_look, hx]
  dsimp only
  rw [run_acts_cons, run_acts_cons, run_acts_cons, run_acts_cons, run_acts_cons, run_acts_cons, runs_nil]
  generalize hu : (updUnits fun u => { u with subst := u.subst.filter fun y => y.tile != tile }).run s = u
  have hunits : u.units = { s.units with subst := s.units.subst.filter fun y => y.tile != tile } := by rw [← hu]; rfl
  have hset : ((setF TILE_OLD_PHYS (x.old % 80) q).run ((setF TILE_SUBST_LOST (b2n x.lost) q).run ((setF TILE_SUBST_VALID 1 q).run u))).units = u.units := rfl
  have hraise : ∀ v m, ((raiseEvt (tilePg q) m).run v).units = v.units := fun v m => (raiseEvt_within _ _).same .units (by decide) v
  have hrel : ∀ v : State, v.units.heldIncs = [] → v.units.heldAccs = [] → v.units.heldMsgs = [] →
      releaseHeld.run v = (updUnits fun u => { u with heldIncs := [], heldAccs := [], heldMsgs := [] }).run v := fun v e1 e2 e3 => by
    rw [releaseHeld, runs_look, e1, e2, e3, run_acts_cons, run_acts_cons, run_acts_cons, run_acts_cons, runs_nil, runs_each_nil, runs_each_nil, runs_each_nil]
  have hvu : ((raiseEvt (tilePg q) (2 ^ 21 + if x.lost = true then 2 ^ 22 else 0)).run ((setF TILE_OLD_PHYS (x.old % 80) q).run
      ((setF TILE_SUBST_LOST (b2n x.lost) q).run ((setF TILE_SUBST_VALID 1 q).run u)))).units = { s.units with subst := s.units.subst.filter fun y => y.tile != tile } := by
    rw [hraise, hset, hunits]
  have hm : 2 ^ 21 + (if x.lost = true then 2 ^ 22 else 0) < 2 ^ 32 := by split <;> decide
  have hkeep : ∀ f : Fld, f.blk = .tile → f.stride = 0 → f.off = 0x060 → ∀ v m, fv ((raiseEvt (tilePg q) m).run v) f q = fv v f q := fun f hb hs ho v m => by
    refine (raiseEvt_hdrOr (tilePg q) m (ps := [.events, .out]) (bs := [.slqp]) (by decide) (by decide) (by decide)).fv v f q 0 ?_
    exact not_hdrOr_fldKey f q 0 (by rw [hb]; decide) (by omega) (by rw [ho, hs]; decide) (by rw [ho, hs]; decide)
  rw [hrel _ (by rw [hvu]; exact h1) (by rw [hvu]; exact h2) (by rw [hvu]; exact h3)]
  have hfv : ∀ (v : State) f i n, fv ((updUnits fun u => { u with heldIncs := [], heldAccs := [], heldMsgs := [] }).run v) f i n = fv v f i n := fun _ _ _ _ => rfl
  have hfb : ∀ (v : State) f i n, fb ((updUnits fun u => { u with heldIncs := [], heldAccs := [], heldMsgs := [] }).run v) f i n = fb v f i n := fun _ _ _ _ => rfl
  have hsub : ∀ v : State, ((updUnits fun u => { u with heldIncs := [], heldAccs := [], heldMsgs := [] }).run v).units.subst = v.units.subst := fun _ => rfl
  rw [hfb, hfb, hfv, hfv]
  refine ⟨?_, ?_, ?_, ?_, ?_, fun hl => ?_⟩
  · rw [hsub, hvu]
  · rw [fb, hkeep _ rfl rfl rfl, fv_setF_page _ TILE_OLD_PHYS TILE_SUBST_VALID _ q 0 0 rfl (by decide) (Or.inr (by decide)),
      fv_setF_page _ TILE_SUBST_LOST TILE_SUBST_VALID _ q 0 0 rfl (by decide) (Or.inr (by decide)), fv_setF_self _ TILE_SUBST_VALID _ _ _ ⟨by decide, by decide⟩]
    rfl
  · rw [fb, hkeep _ rfl rfl rfl, fv_setF_page _ TILE_OLD_PHYS TILE_SUBST_LOST _ q 0 0 rfl (by decide) (Or.inr (by decide)),
      fv_setF_self _ TILE_SUBST_LOST _ _ _ ⟨by decide, by decide⟩]
    cases x.lost <;> rfl
  · rw [hkeep _ rfl rfl rfl, fv_setF_self _ TILE_OLD_PHYS _ _ _ ⟨by decide, by decide⟩]
    exact Nat.mod_eq_of_lt (by simp only [TILE_OLD_PHYS]; omega)
  · exact pending_raiseEvt (tilePg q) _ 21 _ hm (by cases x.lost <;> decide)
  · exact pending_raiseEvt (tilePg q) _ 22 _ hm (by rw [hl]; decide)

end Sys2Proof.Machine
end

section
/-! PROOF. A tile that a schedule retires, and what becomes of its ID (R72, R100, R101, R436). -/

namespace Sys2Proof.Machine

/-- A retirement, up to its unit's own consequence. -/
def retireNoted (p : Nat) : Act := acts [
  updUnits fun x => { x with quar := x.quar.filter (·.unit != .tile p), proving := x.proving.filter (· != .tile p) },
  retireBit (.tile p), incF HLTH_HLCNT 1 0 3, raiseEvt hlthPage (2 ^ 18)]

theorem retireUnit_tile_run (s : State) (p : Nat) (h : tileRetired s p = false) :
    (retireUnit (.tile p)).run s = (unitsFollow s).run ((substitutePend p).run ((retireNoted p).run s)) := by
  rw [retireUnit, runs_look, run_onlyIf_of_true _ _ (by rw [unitRetired, h]; rfl), withUnits_run, retireNoted]
  simp only [run_acts_cons, runs_nil]

theorem retireNoted_units (s : State) (p : Nat) : ((retireNoted p).run s).units =
    { s.units with quar := s.units.quar.filter (·.unit != .tile p), proving := s.units.proving.filter (· != .tile p) } := by
  rw [retireNoted, run_acts_cons, run_acts_cons, run_acts_cons, run_acts_cons, runs_nil, (raiseEvt_within _ _).same .units (by decide)]
  rfl

theorem retireNoted_tile (s : State) (p q : Nat) (hq : q < 160) : tileRetired ((retireNoted p).run s) q = (tileRetired s q || decide (q = p)) := by
  have htail : (acts [incF HLTH_HLCNT 1 0 3, raiseEvt hlthPage (2 ^ 18)]).Within [.events, .out] noRet := by
    simp only [only_acts_cons, only_acts_nil, within_incF, and_true]
    exact ⟨noRet_fldKey _ _ _ (by decide) (by decide), raiseEvt_noRet _ _ (by decide) (by decide)⟩
  rw [retireNoted, run_acts_cons, run_acts_cons, tileRetired_noRet htail _ _ hq, retireBit_tile]
  rfl

theorem retireNoted_pending (s : State) (p : Nat) : pending ((retireNoted p).run s) hlthPage 18 := by
  rw [retireNoted, run_acts_cons, run_acts_cons, run_acts_cons, run_acts_cons, runs_nil]
  exact pending_raiseEvt _ _ 18 _ (by decide) (by decide)

theorem unitsFollow_pending (s : State) (q : PageRef) (i : Nat) : (unitsFollow s).Stable fun t => pending t q i :=
  stable_cons (stable_look fun _ => stable_each fun _ _ => pending_event _ _ (by decide) _ _) (stable_cons (pending_reLevel q i) stable_nil)

/-- The only slot that a tile stands behind. -/
theorem slotOf_unique (s : State) (tile : Nat) (ht : tile < 160) (h : ∀ k, k < 160 → physOf s k = physOf s tile → k = tile) :
    slotOf s (physOf s tile) = tile := by
  rw [slotOf]
  cases hf : (List.range 160).find? fun k => physOf s k == physOf s tile with
  | none =>
    rw [List.find?_eq_none] at hf
    exact absurd (hf tile (List.mem_range.2 ht)) (by simp)
  | some k =>
    have hk := List.find?_some hf
    have hm := List.mem_range.1 (List.mem_of_find?_eq_some hf)
    exact h k hm (by simpa using hk)

theorem spareSlots_retired (s : State) (tile die : Nat) (ht : tile < 144) (hdie : die < 2) (h : ∀ k, k < 160 → physOf s k = physOf s tile → k = tile) :
    spareSlots ((retireNoted (physOf s tile)).run s) die = spareSlots s die := by
  have hunits := retireNoted_units s (physOf s tile)
  unfold spareSlots
  refine List.filter_congr fun k hk => ?_
  obtain ⟨i, hi, rfl⟩ := List.mem_map.1 hk
  rw [List.mem_range] at hi
  have hphys : physOf ((retireNoted (physOf s tile)).run s) (144 + 8 * die + i) = physOf s (144 + 8 * die + i) := by rw [physOf, hunits]; rfl
  have hne : physOf s (144 + 8 * die + i) ≠ physOf s tile := fun he => by have := h _ (by omega) he; omega
  rw [hphys, unitUp, unitUp, unitOk, unitOk, unitRetired, unitRetired, retireNoted_tile s _ _ (physOf_lt _ _), decide_eq_false hne, Bool.or_false, hunits]

theorem spareSubstitute_row (s : State) (loc tile : Nat) (htgt : tileTarget loc tile = true)
    (herr : firstErr (actionErrs s ⟨0, 0, 0, 4, loc, tile, 0⟩) = .ok) (huniq : ∀ k, k < 160 → physOf s k = physOf s tile → k = tile) :
    ∃ t, exec (.spareSubstitute loc tile) s = .next t ∧ tileRetired t (physOf s tile) = true ∧ substPending t tile = true ∧
      (fv t (hdrEvtPend .hlth) 0).testBit 18 = true ∧ t.units.backing = s.units.backing := by
  have ht : tile < 144 := by
    simp only [tileTarget, Bool.or_eq_true, Bool.and_eq_true, decide_eq_true_eq] at htgt
    omega
  have hp : physOf s tile < 160 := physOf_lt _ _
  have hsub : firstErr (substErrs s tile) = .ok := (firstErr_append_ok (firstErr_append_ok herr).2).2
  obtain ⟨h1, hspare⟩ := firstErr_append_ok hsub
  obtain ⟨hback, hbusy⟩ := firstErr_append_ok h1
  have hspare := firstErr_when_ok (by decide) hspare
  have hback := firstErr_when_ok (by decide) hback
  have hbusy := firstErr_when_ok (by decide) hbusy
  rw [Bool.or_eq_false_iff, Bool.or_eq_false_iff] at hbusy
  obtain ⟨⟨hpend, -⟩, -⟩ := hbusy
  have hret : tileRetired s (physOf s tile) = false := by
    simp only [tileBacked, tileHealthy, hpend, Bool.or_false, unitUp, unitOk, unitRetired, Bool.not_eq_false', Bool.and_eq_true, Bool.not_eq_true'] at hback
    exact hback.1.2.2.2
  have hrun : exec (.spareSubstitute loc tile) s =
      .next ((unitsFollow s).run ((substitutePend (physOf s tile)).run ((retireNoted (physOf s tile)).run s))) := by
    refine congrArg Host.Outcome.next ?_
    rw [run_onlyIf_of_true _ _ htgt, deliverAction, runs_look]
    dsimp only
    rw [if_pos herr, run_acts_cons, run_acts_cons, runs_nil, runs_done]
    exact retireUnit_tile_run s _ hret
  refine ⟨_, hrun, ?_⟩
  have hv := retireNoted_units s (physOf s tile)
  have htile := retireNoted_tile s (physOf s tile) (physOf s tile) hp
  have hev := retireNoted_pending s (physOf s tile)
  have hdie : dieOfTile tile < 2 := by unfold dieOfTile; omega
  have hslots := spareSlots_retired s tile (dieOfTile tile) ht hdie huniq
  generalize (retireNoted (physOf s tile)).run s = v at hv htile hev hslots ⊢
  have hphys : ∀ k, physOf v k = physOf s k := fun k => by rw [physOf, hv]; rfl
  have hslot : slotOf v (physOf s tile) = tile := by
    have : slotOf v (physOf s tile) = slotOf s (physOf s tile) := by unfold slotOf; simp only [hphys]
    rw [this, slotOf_unique s tile (by omega) huniq]
  have hsp : sparesLeft v (dieOfTile tile) = sparesLeft s (dieOfTile tile) := by rw [sparesLeft, sparesLeft, hslots, hv]
  have hpend' : substPending v tile = false := by rw [substPending, hv]; exact hpend
  have hrun' : (substitutePend (physOf s tile)).run v = (updUnits fun u => { u with subst := u.subst ++ [⟨tile, physOf s tile, 0, none, false⟩] }).run v := by
    rw [substitutePend, runs_look]
    dsimp only
    rw [hslot, if_pos ht, run_onlyIf_of_true]
    rw [hpend', hsp]
    have : sparesLeft s (dieOfTile tile) ≠ 0 := by simpa using hspare
    simp only [Bool.not_false, Bool.true_and, decide_eq_true_eq]
    omega
  rw [hrun']
  have hunits := (unitsFollow_noRet s).same .units (by decide) ((updUnits fun u => { u with subst := u.subst ++ [⟨tile, physOf s tile, 0, none, false⟩] }).run v)
  refine ⟨?_, ?_, unitsFollow_pending s hlthPage 18 _ hev, ?_⟩
  · rw [tileRetired_noRet (unitsFollow_noRet s) _ _ hp]
    refine Eq.trans ?_ (htile.trans ?_)
    · rfl
    · simp
  · rw [substPending, hunits]
    change (v.units.subst ++ [(⟨tile, physOf s tile, 0, none, false⟩ : Subst)]).any (fun x => x.tile == tile) = true
    simp
  · rw [hunits]
    change v.units.backing = _
    rw [hv]

/-- Settles O31: a retirement follows its unit's consequence, a substitution its four parts, a resumption its held work. -/
theorem sparesTakeOver : Obligations.SparesTakeOver := by
  unfold Obligations.SparesTakeOver
  exact ⟨spareSubstitute_row, fun s tile slot readable x htile hx hslot hnone hold => spareSubstitution_row s tile slot readable x htile hx hslot hnone hold,
    spareResume_row⟩

end Sys2Proof.Machine
end

section
/-! PROOF. Folds: their queueing, their start and their end; what a view shows (R190, R193 to R196, R202). -/

namespace Sys2Proof.Machine

/-! ### Memory writes, whatever the unit -/

theorem writeSyn_noRegs (u : MemUnit) (off : Nat) (ms : List Bool) : (writeSyn u off ms).Within memParts fun _ => False := by
  simp [writeSyn, Upd.within, memParts]

section
variable {ks : Nat → Prop} (H : NoteKeys ks)
include H

theorem NoteKeys.applyFlip (u : MemUnit) (off : Nat) : (applyFlip u off).Within memParts ks := by
  intro s
  simp only [only_acts_cons, only_acts_nil, within_setF, and_true]
  refine ⟨?_, H.intg _ _ _ rfl (by decide), H.logEntry _ _ _ _ _, H.raiseIntg _ _⟩
  refine only_ite ?_ ?_ <;> simp only [only_acts_cons, only_acts_nil, only_upd_iff, Upd.within, and_true] <;> exact ⟨by decide, by decide⟩

theorem NoteKeys.memWrite (u : MemUnit) (off : Nat) (l : List Byte) (ms : List Bool) : (memWrite u off l ms).Within memParts ks := by
  simp only [Machine.memWrite, only_ite_iff, only_look_iff, only_acts_cons, only_acts_nil, only_onlyIf_iff, only_each_iff, only_upd_iff,
    Upd.within, and_true]
  exact ⟨fun _ => trivial, fun _ s => ⟨by decide, ⟨fun _ => trivial, fun _ => (writeSyn_noRegs u off _).regs fun _ h => h.elim⟩,
    fun _ b _ => ⟨fun _ _ _ => by decide, fun _ => by decide⟩, fun _ => H.mark u, fun _ => H.applyFlip u off⟩⟩

theorem NoteKeys.memPut (u : MemUnit) (off : Nat) (l : List Byte) : (memPut u off l).Within memParts ks := H.memWrite u off l _

theorem NoteKeys.hbmPut (a : Nat) (l : List Byte) : (hbmPut a l).Within memParts ks := H.memPut _ _ _

theorem NoteKeys.writeLocal (a : Nat) (l : List (Byte × Bool)) : (writeLocal a l).Within memParts ks := by
  intro s
  dsimp only
  split
  · exact H.memWrite _ _ _ _
  · trivial

theorem NoteKeys.consume (p : PageRef) (a : Nat) (hp : p.blk ≠ .mgmt) : (consume p a).Within memParts ks := by
  simp only [Machine.consume, only_acts_cons, only_acts_nil, cnt, within_incF, and_true]
  exact ⟨H.raise _ _ hp, H.intg _ _ _ rfl (by decide), H.logEntry _ _ _ _ _, H.raiseIntg _ _, H.health _⟩

theorem NoteKeys.readRecords (p : PageRef) (l : List (Nat × Nat)) (hp : p.blk ≠ .mgmt) : (readRecords p l).Within memParts ks := by
  simp only [Machine.readRecords, only_acts_cons, only_acts_nil, only_each_iff, only_look_iff, and_true]
  refine ⟨fun x _ => H.touchLocal _ _, fun s => ?_⟩
  split
  · exact H.consume _ _ hp
  · trivial

end

theorem memPut_far (u : MemUnit) (off : Nat) (l : List Byte) : (memPut u off l).Within memParts farKeys := noteKeys_far.memPut u off l

theorem consume_far (p : PageRef) (a : Nat) : (consume p a).Within memParts farKeys := by
  simp only [consume, only_acts_cons, only_acts_nil, cnt, within_incF, and_true]
  exact ⟨raiseEvt_far _ _, farKeys_intg _ _ _ rfl, logEntry_far _ _ _ _ _, raiseEvt_far _ _, healthNotice_far _⟩

theorem readRecords_far (p : PageRef) (l : List (Nat × Nat)) : (readRecords p l).Within memParts farKeys := by
  simp only [readRecords, only_acts_cons, only_acts_nil, only_each_iff, only_look_iff, and_true]
  refine ⟨fun x _ => touchLocal_far _ _, fun s => ?_⟩
  split
  · exact consume_far _ _
  · trivial

/-! ### Rows of a UPDT page -/

/-- A row that writes a UPDT register. -/
theorem exec_updt_row (s : State) (c : Instr) (r : Requester) (n off v : Nat) (d : RegDef) (hs : isHbmSite s.build n = true)
    (hc : rowWrite s c = some (r, siteReg n 1 off, 4, v)) (h : accepted s r (siteReg n 1 off) 4 v = true)
    (hd : regAt .updt off = some (d, off)) (hlo : 0x40 ≤ off) (hhi : off < 4096) (hv : v < 2 ^ 32) :
    exec c s = .next (answered ((updtApply s n off v).run (stored s (updtPg n) d off v)) r (siteReg n 1 off)) := by
  have hrow := exec_page_row s c r _ off v (updtPg n) d off hc h (pageOf_updtReg s n off hs hhi)
    (raOff_siteReg n 1 off (isHbmSite_lt _ _ hs) (by omega) hhi) hd ⟨hlo, by simp [updtPg], by simp [updtPg]⟩ hv rfl
  rw [hookApply, if_neg (Nat.not_lt.2 hlo)] at hrow
  exact hrow.1

/-! ### Jobs of the pipeline (R278) -/

theorem ueNext_stops (s : State) (n k : Nat) (h : ueIdle s n = false ∨ (ueSt s n).jobs = []) : (ueNext n k).run s = s := by
  cases k with
  | zero => rfl
  | succ k =>
    rw [ueNext, runs_look]
    split
    · exact runs_done s
    · have hnil : (ueSt s n).jobs = [] := h.resolve_left fun hi => by simp_all
      rw [hnil]
      exact runs_done s

/-- What a job that is taken sets going. -/
def jobStart (n : Nat) : UeJob → Act
  | .update g d => updateStart n g d
  | .fold g f => foldStart n g f

/-- A job that meets a free pipeline leaves the queue and runs. -/
theorem ueNext_takes (s : State) (n k : Nat) (j : UeJob) (hi : ueIdle s n = true) (hup : ueInService s n = true)
    (hrest : unitResting s (.ue n) = false) (hj : (ueSt s n).jobs = [j]) (hheld : jobHeld s j = false) :
    (ueNext n (k + 1)).run s = (ueNext n k).run ((jobStart n j).run ((updUe n fun u => { u with jobs := u.jobs.eraseIdx 0 }).run s)) := by
  have hfind : (ueSt s n).jobs.findIdx? (fun j => !jobHeld s j) = some 0 := by rw [hj]; simp [hheld]
  have hget : (ueSt s n).jobs[0]? = some j := by rw [hj]; rfl
  rw [ueNext, runs_look, if_neg (by simp [hi, hup, hrest]), hfind]
  simp only [hget, run_acts_cons, runs_nil]
  cases j <;> rfl

theorem ueEnqueue_waits (s : State) (n : Nat) (j : UeJob) (hi : ueIdle s n = false) :
    (ueEnqueue n j).run s = (updUe n fun u => { u with jobs := u.jobs ++ [j] }).run s := by
  rw [ueEnqueue, run_acts_cons, run_acts_cons, runs_nil, ueGo, runs_look, ueNext_stops _ _ _ (Or.inl ?_)]
  rw [ueIdle, ueSt_updUe]
  exact hi

theorem ueEnqueue_busy (s : State) (n : Nat) (j : UeJob) (hi : ueIdle s n = false) :
    (ueSt ((ueEnqueue n j).run s) n).jobs = (ueSt s n).jobs ++ [j] := by
  rw [ueEnqueue_waits s n j hi, ueSt_updUe]

/-- A job that arises while none waits is taken at once. -/
theorem ueEnqueue_free (s : State) (n : Nat) (j : UeJob) (hi : ueIdle s n = true) (hup : ueInService s n = true)
    (hrest : unitResting s (.ue n) = false) (hj : (ueSt s n).jobs = []) (hheld : jobHeld s j = false) :
    ∃ u, u = { s with ues := u.ues } ∧ ueSt u n = ueSt s n ∧ (ueEnqueue n j).run s = (ueNext n 1).run ((jobStart n j).run u) := by
  have hue := ueSt_updUe s n fun u => { u with jobs := u.jobs ++ [j] }
  have hjobs : (ueSt ((updUe n fun u => { u with jobs := u.jobs ++ [j] }).run s) n).jobs = [j] := by rw [hue, hj]; rfl
  refine ⟨(updUe n fun u => { u with jobs := u.jobs.eraseIdx 0 }).run ((updUe n fun u => { u with jobs := u.jobs ++ [j] }).run s), rfl, ?_, ?_⟩
  · rw [ueSt_updUe, hue]
    simp only [hj, List.nil_append, List.eraseIdx_cons_zero]
    rw [← hj]
  · rw [ueEnqueue, run_acts_cons, run_acts_cons, runs_nil, ueGo, runs_look, hjobs]
    refine ueNext_takes _ n 1 j ?_ hup hrest hjobs ?_
    · rw [ueIdle, hue]; exact hi
    · cases j <;> exact hheld

/-! ### The start of a fold (R190, R193) -/

theorem isHbmSite_lt_256 {b : Build} {n : Nat} (h : isHbmSite b n = true) : n < 256 := (isHbmSite_lt b n h).trans (by decide)

/-- A page takes the first fault since it was read: VALID is bit 31 of a register, whatever else of it is set. -/
theorem firstFault_notes (V : Fld) (l : List (Fld × Nat)) (s : State) (n : Nat) (hn : n < 256) (hb : V.blk = .updt) (h0 : 0x40 ≤ V.off)
    (ho : V.off < 4096) (hlo : V.lo = 31) (hhi : V.hi = 31) (hl : ∀ x ∈ l, x.1.hi < 31) (s' : State)
    (hs' : s' = (acts [onlyIf (!fb s V n) (acts (setF V 1 n :: l.map fun x => setF x.1 x.2 n)), raiseEvt (updtPg n) evFault]).run s) :
    fb s' V n = true ∧ pending s' (updtPg n) 1 := by
  have hkeep : ∀ l : List (Fld × Nat), (∀ x ∈ l, x.1.hi < 31) → ∀ t, fb ((acts (l.map fun x => setF x.1 x.2 n)).run t) V n = fb t V n := fun l => by
    induction l with
    | nil => exact fun _ _ => rfl
    | cons x l ih =>
      intro hx t
      have := hx x List.mem_cons_self
      rw [List.map_cons, run_acts_cons, ih fun y hy => hx y (List.mem_cons_of_mem _ hy), fb_setF_other t x.1 V x.2 n 0 n 0 (by omega) (Or.inr (Or.inl (by omega)))]
  have hraise : ∀ t, fb ((raiseEvt (updtPg n) evFault).run t) V n = fb t V n := fun t =>
    (raiseEvt_far (updtPg n) evFault).fb t _ _ _ fun hc => not_offBlk V n 0 hn (by omega) (by omega) (hb ▸ offBlk_of_far (by decide) _ hc)
  rw [run_acts_cons, run_acts_cons, runs_nil] at hs'
  subst hs'
  refine ⟨?_, pending_raiseEvt _ _ _ _ (by decide) (by decide)⟩
  rw [hraise]
  cases hv : fb s V n with
  | true => exact hv
  | false =>
    rw [run_onlyIf_of_true _ _ (by rfl), run_acts_cons, hkeep l hl, fb_setF_self s V 1 n 0 ⟨by omega, by omega⟩, hlo, hhi]
    rfl

/-- A fault of the curvature table is on record, and raised. -/
theorem curvFault_notes (s : State) (n g f b : Nat) (c : ErrCode) (hn : n < 256) :
    fb ((curvFault n g f b c).run s) UPDT_CF_VALID n = true ∧ pending ((curvFault n g f b c).run s) (updtPg n) 1 :=
  firstFault_notes UPDT_CF_VALID [(UPDT_CF_CODE, errNum c), (UPDT_CF_GROUP, g), (UPDT_CF_FACTOR, f), (UPDT_CF_BYTE, b)] s n hn rfl (by decide) (by decide)
    rfl rfl (by simp [UPDT_CF_CODE, UPDT_CF_GROUP, UPDT_CF_FACTOR, UPDT_CF_BYTE]) _ (by rw [curvFault, run_acts_cons, run_acts_cons, runs_nil, runs_look]; rw [run_acts_cons, run_acts_cons, runs_nil]; rfl)

theorem curvFault_ues (s : State) (n g f b : Nat) (c : ErrCode) : ((curvFault n g f b c).run s).ues = s.ues := by
  have h : (curvFault n g f b c).Within memParts fun _ => True := by
    simp only [curvFault, only_acts_cons, only_acts_nil, only_look_iff, only_onlyIf_iff, within_setF, and_true]
    exact ⟨fun _ _ => trivial, (raiseEvt_far _ _).regs fun _ _ => trivial⟩
  exact h.same .ues (by decide) s

/-- A fold that is taken runs, or its fault is on record; no job waits after it. -/
theorem foldStart_starts (s : State) (n g f : Nat) (hn : n < 256) :
    (ueSt ((foldStart n g f).run s) n).jobs = (ueSt s n).jobs ∧
    ((∃ r, (ueSt ((foldStart n g f).run s) n).fold = some ⟨g, f, r, false⟩) ∨
      (fb ((foldStart n g f).run s) UPDT_CF_VALID n = true ∧ pending ((foldStart n g f).run s) (updtPg n) 1)) := by
  have hread : ∀ t, ueSt ((readRecords (updtPg n) [(cvAddr t n g, 128)]).run t) n = ueSt t n := fun t =>
    ueSt_congr _ _ n ((readRecords_far _ _).same .ues (by decide) t)
  rw [foldStart, run_acts_cons, run_acts_cons, runs_nil, runs_look]
  rw [runs_look]
  generalize hu : (readRecords (updtPg n) [(cvAddr s n g, 128)]).run s = u
  have hues : ueSt u n = ueSt s n := by rw [← hu, hread]
  dsimp only
  split
  · exact ⟨by rw [ueSt_congr _ _ n (curvFault_ues ..), hues], Or.inr (curvFault_notes u n g f _ _ hn)⟩
  · rw [ueSt_updUe, hues]
    exact ⟨rfl, Or.inl ⟨_, rfl⟩⟩

/-- A register of a UPDT page says nothing of units. -/
theorem sameService_stored_updt (s : State) (n off x : Nat) (d : RegDef) (hn : n < 256) (ho : off < 4096) :
    SameService s (stored s (updtPg n) d off x) := by
  refine ⟨rfl, rfl, fun k hk => ?_⟩
  refine (rdKey_reg ..).trans (if_neg ?_)
  rintro rfl
  have h := hk.1
  simp only [pageKey, keyIdx, regKey, updtPg, blkNum] at h
  omega

theorem stored_regs (s : State) (p : PageRef) (d : RegDef) (base x : Nat) : ∃ w, stored s p d base x = { s with regs := w } := ⟨_, rfl⟩

/-- What a write of CURV_CMD sets going. -/
theorem updtApply_curvCmd (s : State) (n v : Nat) : updtApply s n 0x40C v =
    if bits v 13 12 = 1 then ueEnqueue n (.fold (bits v 9 0) (bits v 10 10)) else curvReset n (bits v 9 0) (bits v 10 10) := by
  rw [updtApply, if_neg (by decide), if_neg (by decide), if_neg (by decide), if_pos rfl]

/-- CURV_CMD_FOLD (R193, R278). -/
theorem curvFold_queued (s : State) (r : Requester) (n g f : Nat) (hs : isHbmSite s.build n = true) (hg : g < 1024) (hf : f < 2)
    (h : accepted s r (siteReg n 1 0x40C) 4 (2 ^ 12 + f * 2 ^ 10 + g) = true) :
    ∃ t, exec (.curvCmdFold r n g f) s = .next t ∧
      (ueIdle s n = false → (ueSt t n).jobs = (ueSt s n).jobs ++ [.fold g f]) ∧
      (ueIdle s n = true → ueInService s n = true → unitResting s (.ue n) = false → (ueSt s n).jobs = [] →
        (∃ rec_, (ueSt t n).fold = some ⟨g, f, rec_, false⟩) ∨ (fb t UPDT_CF_VALID n = true ∧ pending t (updtPg n) 1)) := by
  have hc : rowWrite s (.curvCmdFold r n g f) = some (r, siteReg n 1 0x40C, 4, 2 ^ 12 + f * 2 ^ 10 + g) := by
    simp only [rowWrite, hs, if_true, Nat.mod_eq_of_lt hg, Nat.mod_eq_of_lt hf]
  have h1 : bits (2 ^ 12 + f * 2 ^ 10 + g) 13 12 = 1 := by simp only [bits]; omega
  have h2 : bits (2 ^ 12 + f * 2 ^ 10 + g) 9 0 = g := by simp only [bits]; omega
  have h3 : bits (2 ^ 12 + f * 2 ^ 10 + g) 10 10 = f := by simp only [bits]; omega
  obtain ⟨d, hd⟩ : ∃ d, regAt .updt 0x40C = some (d, 0x40C) := ⟨_, rfl⟩
  have hsv := sameService_stored_updt s n 0x40C (2 ^ 12 + f * 2 ^ 10 + g) d (isHbmSite_lt_256 hs) (by decide)
  have hexec := exec_updt_row s _ r n 0x40C _ _ hs hc h hd (by decide) (by decide) (by omega)
  obtain ⟨w, hw⟩ := stored_regs s (updtPg n) d 0x40C (2 ^ 12 + f * 2 ^ 10 + g)
  rw [updtApply_curvCmd, h1, h2, h3, if_pos rfl] at hexec
  rw [hw] at hexec hsv
  refine ⟨_, hexec, fun hi => ?_, fun hi hup hrest hj => ?_⟩
  · exact ueEnqueue_busy { s with regs := w } n _ hi
  · obtain ⟨u, -, hu, hrun⟩ := ueEnqueue_free { s with regs := w } n (.fold g f) hi ((hsv.ueInService n).trans hup) hrest hj rfl
    obtain ⟨hjobs, hstart⟩ := foldStart_starts u n g f (isHbmSite_lt_256 hs)
    have hstop := ueNext_stops ((foldStart n g f).run u) n 1 (Or.inr (by rw [hjobs, hu]; exact hj))
    rw [hrun, jobStart, hstop]
    exact hstart

/-! ### What a view shows (R202) -/

theorem readLocal_length (s : State) (a n : Nat) : (readLocal s a n).length = n := by
  unfold readLocal
  dsimp only
  split
  · split
    · rw [List.length_zip]
      have h1 : ∀ u off, (readBytes s u off n).length = n := fun u off => by simp [readBytes]
      have h2 : ∀ u off, (readMarks s u off n).length = n := fun u off => by simp [readMarks]
      split <;> simp [h1, h2]
    · simp
  · simp

theorem readLocal_marks (s : State) (a n : Nat) (hs : s.syn = []) : (readLocal s a n).map Prod.snd = List.replicate n false := by
  have h := readLocal_unmarked s a n hs
  rw [List.any_eq_false] at h
  refine List.eq_replicate_iff.2 ⟨by rw [List.length_map, readLocal_length], fun b hb => ?_⟩
  obtain ⟨x, hx, rfl⟩ := List.mem_map.1 hb
  simpa using h x hx

/-- VIEW_READ: a read that meets a view, where nothing is held. -/
theorem viewRead_answers (s : State) (r : Requester) (a n : Nat) (hv : viewsMet s a n ≠ []) (hheld : rangeHeld s a n = false)
    (he : firstErr (readErrs s r a n) = .ok) (hcalm : calm s) :
    exec (.viewRead r a n) s = .next { s with
      out := .memData r a 0 ((readLocal s a n).map Prod.fst) (List.replicate n false) :: s.out } := by
  obtain ⟨hsyn, hw, -⟩ := hcalm
  have hnone : (readLocal s a n).findIdx? Prod.snd = none := by
    rw [List.findIdx?_eq_none_iff]
    have h := readLocal_unmarked s a n hsyn
    rw [List.any_eq_false] at h
    exact fun x hx => by simpa using h x hx
  change Host.Outcome.next ((onlyIf (!(viewsMet s a n).isEmpty) (memoryRead r a n)).run s) = _
  rw [run_onlyIf_of_true _ _ (by simpa using hv), memoryRead, runs_look, he, hheld]
  dsimp only
  rw [if_neg (by simp), if_neg (by simp), run_acts_cons, run_acts_cons, runs_nil, touchLocal_calm s a n hsyn hw, runs_look, hnone]
  dsimp only
  rw [readLocal_marks s a n hsyn]
  rfl

/-! ### The end of a fold (R193, R195, R196) -/

/-- What the granules of a fold may touch: memory, INTG, headers, and two counters. -/
abbrev foldKeys (n k : Nat) : Prop := farKeys k ∨ k = fldKey UPDT_CNT_NONFINITE n 0 ∨ k = fldKey UPDT_CNT_GRANULES_SENT n 0

/-- A program in continuation form touches no more than memory and some registers before it goes on. -/
def GoesOn {α : Type} (ks : Nat → Prop) (prog : (α → Act) → Act) : Prop :=
  ∀ s : State, ∃ (x : α) (a : Act), a.Within memParts ks ∧ ∀ k, (prog k).run s = (k x).run (a.run s)

section
variable {α β : Type} {ks : Nat → Prop}

theorem GoesOn.done (x : α) : GoesOn ks fun k => k x := fun _ => ⟨x, .done, trivial, fun _ => rfl⟩

theorem GoesOn.after {prog : (α → Act) → Act} {a : Act} (ha : a.Within memParts ks) (h : GoesOn ks prog) : GoesOn ks fun k => a.seq (prog k) := fun s => by
  obtain ⟨x, b, hb, hrun⟩ := h (a.run s)
  refine ⟨x, a.seq b, Act.only_seq _ _ _ ha hb, fun k => ?_⟩
  rw [Act.run_seq, Act.run_seq, hrun]

theorem GoesOn.cons {prog : (α → Act) → List Act} {a : Act} (ha : a.Within memParts ks) (h : GoesOn ks fun k => acts (prog k)) :
    GoesOn ks fun k => acts (a :: prog k) := fun s => by
  obtain ⟨x, b, hb, hrun⟩ := h.after ha s
  exact ⟨x, b, hb, fun k => (run_acts_cons a _ s).trans ((Act.run_seq _ _ s).symm.trans (hrun k))⟩

theorem GoesOn.last {prog : (α → Act) → Act} (h : GoesOn ks prog) : GoesOn ks fun k => acts [prog k] := fun s => by
  obtain ⟨x, b, hb, hrun⟩ := h s
  exact ⟨x, b, hb, fun k => by rw [run_acts_cons, runs_nil, hrun]⟩

theorem GoesOn.ite {p q : (α → Act) → Act} {c : Prop} [Decidable c] (hp : GoesOn ks p) (hq : GoesOn ks q) :
    GoesOn ks fun k => if c then p k else q k := by
  split <;> assumption

theorem GoesOn.look {prog : State → (α → Act) → Act} (h : ∀ s, GoesOn ks (prog s)) : GoesOn ks fun k => Machine.look fun s => prog s k := fun s => by
  obtain ⟨x, b, hb, hrun⟩ := h s s
  exact ⟨x, b, hb, fun k => (runs_look _ s).trans (hrun k)⟩

theorem GoesOn.bind {p : (α → Act) → Act} {q : α → (β → Act) → Act} (hp : GoesOn ks p) (hq : ∀ x, GoesOn ks (q x)) :
    GoesOn ks fun k => p fun x => q x k := fun s => by
  obtain ⟨x, a, ha, hrun⟩ := hp s
  obtain ⟨y, b, hb, hgo⟩ := hq x (a.run s)
  exact ⟨y, a.seq b, Act.only_seq _ _ _ ha hb, fun k => by rw [hrun, hgo, Act.run_seq]⟩

end

theorem foldKeys_far {a : Act} (n : Nat) (h : a.Within memParts farKeys) : a.Within memParts (foldKeys n) := h.regs fun _ => Or.inl

theorem foldGranule_goes (n : Nat) (r : List Byte) (f i p : Nat) (thr : XR) (withheld : Bool) (b : BlockSt) :
    GoesOn (foldKeys n) fun k : BlockSt × Bool × Bool → Act => foldGranule n r f i p thr withheld b fun b c q => k (b, c, q) := by
  have hput : ∀ a ws, (putWords a ws).Within memParts (foldKeys n) := fun a ws => foldKeys_far n (writeLocal_far a _)
  have hnon : ∀ c, (onlyIf c (incF UPDT_CNT_NONFINITE 1 n)).Within memParts (foldKeys n) := fun c =>
    only_onlyIf _ _ _ fun _ => (within_incF _ _ _ _).2 (Or.inr (Or.inl rfl))
  have hsent : (incF UPDT_CNT_GRANULES_SENT 1 n).Within memParts (foldKeys n) := (within_incF _ _ _ _).2 (Or.inr (Or.inr rfl))
  unfold foldGranule
  dsimp only
  refine GoesOn.cons (foldKeys_far n (touchLocal_far _ _)) ?_
  refine GoesOn.cons (foldKeys_far n (only_ite trivial (touchLocal_far _ _))) ?_
  refine GoesOn.cons (foldKeys_far n (touchLocal_far _ _)) ?_
  refine GoesOn.last (GoesOn.look fun s => ?_)
  generalize hbmWords s = w
  refine GoesOn.cons (hput _ _) ?_
  refine GoesOn.cons (hnon _) ?_
  refine GoesOn.last ?_
  refine GoesOn.ite ?_ ?_
  · exact GoesOn.done _
  refine GoesOn.ite ?_ ?_
  · exact GoesOn.done _
  refine GoesOn.cons (hput _ _) ?_
  refine GoesOn.cons hsent ?_
  refine GoesOn.last ?_
  exact GoesOn.done _

theorem foldGranules_goes (n : Nat) (r : List Byte) (f i : Nat) (thr : XR) (withheld : Bool) (l : List Nat) (b : BlockSt) (copied poison : Bool) :
    GoesOn (foldKeys n) fun k : BlockSt × Bool × Bool → Act =>
      foldGranules n r f i thr withheld l b copied poison fun b c q => k (b, c, q) := by
  induction l generalizing b copied poison with
  | nil => exact GoesOn.done (b, copied, poison)
  | cons p l ih =>
    have h := GoesOn.bind (q := fun x k => foldGranules n r f i thr withheld l x.1 (copied || x.2.1) (poison || x.2.2) fun b c q => k (b, c, q))
      (foldGranule_goes n r f i p thr withheld b) fun x => ih _ _ _
    exact h

theorem hbmPut_far (a : Nat) (l : List Byte) : (hbmPut a l).Within memParts farKeys := memPut_far _ _ _

theorem foldBlocks_goes (n : Nat) (r : List Byte) (f : Nat) (withheld : Bool) (l : List Nat) (poison : Bool) :
    GoesOn (foldKeys n) fun k => foldBlocks n r f withheld l poison k := by
  induction l generalizing poison with
  | nil => exact GoesOn.done poison
  | cons i l ih =>
    unfold foldBlocks
    dsimp only
    refine GoesOn.after (foldKeys_far n (touchLocal_far _ _)) (GoesOn.look fun s => ?_)
    have hput := fun (x : BlockSt × Bool × Bool) => GoesOn.look fun t => GoesOn.after
      (foldKeys_far n (hbmPut_far (cvStatusAddr r f i) (blockStBytes (refreshBlock t r f i x.2.1 x.1)))) (ih (poison || x.2.2))
    have h := fun thr withheld b eaten => GoesOn.bind (foldGranules_goes n r f i thr withheld (List.range (cvT r f)) b false eaten) hput
    exact h _ _ _ _

/-- FOLD_DONE (R193): the fold is counted, and the pipeline is free. -/
theorem foldDone_counts (s : State) (n : Nat) (x : FoldRun) (hn : n < 12) (hx : (ueSt s n).fold = some x) (hj : (ueSt s n).jobs = []) :
    ∃ t, exec (.foldDone n) s = .next t ∧ counted s t UPDT_CNT_FOLDS n 0 1 ∧ (ueSt t n).fold = none := by
  obtain ⟨poison, a, ha, hrun⟩ := foldBlocks_goes n x.rec_ x.factor x.overrun (List.range (cvNB x.rec_ x.factor)) false s
  have hkeys : ∀ k, foldKeys n k → k ≠ fldKey UPDT_CNT_FOLDS n 0 := fun k hk => by
    rintro rfl
    rcases hk with hk | hk | hk
    · exact not_offBlk UPDT_CNT_FOLDS n 0 (by omega) (by decide) (by decide) (offBlk_of_far (by decide) _ hk)
    · exact fldKey_ne_off UPDT_CNT_FOLDS UPDT_CNT_NONFINITE n 0 0 rfl (by decide) hk
    · exact fldKey_ne_off UPDT_CNT_FOLDS UPDT_CNT_GRANULES_SENT n 0 0 rfl (by decide) hk
  have hcnt : ∀ {b : Act} (t : State), b.Within memParts (foldKeys n) → fv (b.run t) UPDT_CNT_FOLDS n = fv t UPDT_CNT_FOLDS n := fun t hb =>
    hb.fv t _ _ _ fun hc => hkeys _ hc rfl
  have hues : ∀ {b : Act} (t : State), b.Within memParts (foldKeys n) → ueSt (b.run t) n = ueSt t n := fun t hb =>
    ueSt_congr _ _ n (hb.same .ues (by decide) t)
  have hsend : ∀ t, fv ((sendTarget0 (srcOf (updtPg n)) (cvDone x.rec_)).run t) UPDT_CNT_FOLDS n = fv t UPDT_CNT_FOLDS n := fun t =>
    ((sendTarget0_within _ _).regs hdrOr_sent).fv t _ _ _ (not_hdrOr_fldKey UPDT_CNT_FOLDS n 0 (by decide) (by omega) (by decide) (by decide))
  have hsendUe : ∀ t, ueSt ((sendTarget0 (srcOf (updtPg n)) (cvDone x.rec_)).run t) n = ueSt t n := fun t =>
    ueSt_congr _ _ n ((sendTarget0_within _ _).same .ues (by decide) t)
  have hmid : ∀ c : Bool, (onlyIf c (consume (updtPg n) (cvBlockAddr x.rec_ x.factor 2 0))).Within memParts (foldKeys n) := fun c =>
    only_onlyIf _ _ _ fun _ => foldKeys_far n (consume_far _ _)
  have hput : ∀ t A l, fv ((hbmPut A l).run t) UPDT_CNT_FOLDS n = fv t UPDT_CNT_FOLDS n := fun t A l => hcnt t (foldKeys_far n (hbmPut_far A l))
  have hputUe : ∀ t A l, ueSt ((hbmPut A l).run t) n = ueSt t n := fun t A l => hues t (foldKeys_far n (hbmPut_far A l))
  have hincUe : ∀ t, ueSt ((incF UPDT_CNT_FOLDS 1 n).run t) n = ueSt t n := fun _ => rfl
  have hend : fv ((foldEnd n x).run s) UPDT_CNT_FOLDS n = satAdd 32 (fv s UPDT_CNT_FOLDS n) 1 ∧ ueSt ((foldEnd n x).run s) n = ueSt s n := by
    rw [foldEnd, runs_look, hrun, run_acts_cons, run_acts_cons, run_acts_cons, run_acts_cons, runs_nil, runs_look]
    constructor
    · rw [hsend, fv_incF_self _ UPDT_CNT_FOLDS _ _ _ ⟨by decide, by decide⟩, hput, hcnt _ (hmid _), hcnt _ ha]
      rfl
    · rw [hsendUe, hincUe, hputUe, hues _ (hmid _), hues _ ha]
  obtain ⟨hfolds, hue⟩ := hend
  have hfree := ueSt_updUe ((foldEnd n x).run s) n fun u => { u with fold := none }
  refine ⟨(updUe n fun u => { u with fold := none }).run ((foldEnd n x).run s), ?_, hfolds, by rw [hfree]⟩
  change execFoldDone n s = _
  rw [execFoldDone, runs_look, hx]
  dsimp only
  rw [run_acts_cons, run_acts_cons, run_acts_cons, runs_nil, ueGo, runs_look, ueNext_stops _ _ _ (Or.inr ?_)]
  rw [hfree, hue]
  exact hj

end Sys2Proof.Machine
end

section
/-! PROOF. Writes of several places of a calm HBM at once, and the block status records read back from them (R192). -/

namespace Sys2Proof.Machine

/-! ### Writes of several places -/

/-- Memory after runs of bytes are put at their addresses, in order. -/
def puts (l : List (Nat × List Byte)) (m : List Host.Cell) : List Host.Cell := l.foldl (fun m x => mapPut memDefault m x.1 x.2) m

/-- Two runs of bytes at addresses have no byte in common. -/
def runsApart (x y : Nat × List Byte) : Prop := x.1 + x.2.length ≤ y.1 ∨ y.1 + y.2.length ≤ x.1

theorem puts_cons (x : Nat × List Byte) (l : List (Nat × List Byte)) (m : List Host.Cell) : puts (x :: l) m = puts l (mapPut memDefault m x.1 x.2) := rfl

theorem puts_append (l l' : List (Nat × List Byte)) (m : List Host.Cell) : puts (l ++ l') m = puts l' (puts l m) := List.foldl_append ..

theorem puts_outside (l : List (Nat × List Byte)) (m : List Host.Cell) (k : Nat) (h : ∀ x ∈ l, k < x.1 ∨ x.1 + x.2.length ≤ k) :
    mapGet memDefault (puts l m) k = mapGet memDefault m k := by
  induction l generalizing m with
  | nil => rfl
  | cons x l ih =>
    have hx := h x List.mem_cons_self
    rw [puts_cons, ih _ fun y hy => h y (List.mem_cons_of_mem _ hy), mapGet_mapPut, if_neg (by omega)]

theorem mapRead_congr (m m' : List Host.Cell) (a n : Nat) (h : ∀ k, a ≤ k → k < a + n → mapGet memDefault m k = mapGet memDefault m' k) :
    mapRead memDefault m a n = mapRead memDefault m' a n :=
  List.map_congr_left fun i hi => h _ (by omega) (by have := List.mem_range.1 hi; omega)

/-- Bytes put where nothing later is put read back as they were given. -/
theorem mapRead_puts (l : List (Nat × List Byte)) (m : List Host.Cell) (hl : l.Pairwise runsApart) (x : Nat × List Byte) (hx : x ∈ l) :
    mapRead memDefault (puts l m) x.1 x.2.length = x.2 := by
  induction l generalizing m with
  | nil => exact absurd hx List.not_mem_nil
  | cons y l ih =>
    obtain ⟨hy, hl⟩ := List.pairwise_cons.1 hl
    rcases List.mem_cons.1 hx with rfl | hx
    · rw [puts_cons, mapRead_congr _ (mapPut memDefault m x.1 x.2) _ _ fun k h1 h2 => puts_outside _ _ _ fun z hz => ?_]
      · have h := mapRead_mapPut_self memDefault m x.1 0 x.2.length x.2 (by omega)
        rwa [List.drop_zero, List.take_length, Nat.add_zero] at h
      · rcases hy z hz with h | h <;> omega
    · exact ih _ hl hx

/-- Puts in a calm HBM change memory by their bytes, and nothing else but which places are written. -/
theorem each_hbmPut_state {α : Type} (l : List α) (A : α → Nat) (B : α → List Byte) (s : State) (hsyn : s.syn = []) (hflip : ∀ u, flipArmed s u = false)
    (hB : ∀ x ∈ l, (B x).isEmpty = false) :
    ∃ w, (each l fun x => hbmPut (A x) (B x)).run s = { s with mem := puts (l.map fun x => (A x, B x)) s.mem, written := w } := by
  induction l generalizing s with
  | nil => exact ⟨s.written, rfl⟩
  | cons x l ih =>
    obtain ⟨w, hw⟩ := hbmPut_state s (A x) (B x) hsyn (hflip _) (hB x List.mem_cons_self)
    obtain ⟨w', hw'⟩ := ih { s with mem := mapPut memDefault s.mem (A x) (B x), written := w } hsyn hflip fun y hy => hB y (List.mem_cons_of_mem _ hy)
    refine ⟨w', ?_⟩
    rw [run_each_cons, hw, hw']
    rfl

/-! ### Block status records written and read (R192) -/

/-- A status record whose fields fit their places. -/
structure BlockSt.Fits (b : BlockSt) : Prop where
  flags : b.flags < 128
  trace : b.trace < 2 ^ 32
  lambda : b.lambda < 2 ^ 32
  lambdaUsed : b.lambdaUsed < 2 ^ 32
  lastStatus : b.lastStatus < 256
  residual : b.residual < 2 ^ 32
  age : b.age < 2 ^ 32
  delivered : b.delivered < 2 ^ 48
  installed : b.installed < 2 ^ 48
  chg : b.chg < 256 ^ 288
  pend : b.pend < 256 ^ 288

theorem blockStBytes_length (b : BlockSt) : (blockStBytes b).length = 640 := by
  simp only [blockStBytes, List.length_append, length_leBytes]

/-- A number's bytes inside a list read back. -/
theorem recLE_inside (p q : List Byte) (n v : Nat) : recLE (p ++ leBytes n v ++ q) p.length n = v % 256 ^ n := by
  rw [recLE_append_left _ _ _ _ (by simp [length_leBytes]), recLE_append_right _ _ _ _ (le_refl _), Nat.sub_self, recLE_leBytes]

theorem parseBlockSt_fits (l : List Byte) : (parseBlockSt l).Fits :=
  ⟨bits_lt _ 6 0, recLE_lt l 4 4, recLE_lt l 8 4, recLE_lt l 12 4, recLE_lt l 20 1, recLE_lt l 24 4, recLE_lt l 28 4, recLE_lt l 32 6, recLE_lt l 40 6,
    recLE_lt l 64 288, recLE_lt l 352 288⟩

/-- The low bytes of a number. -/
theorem recLE_leBytes_low (n m v : Nat) : recLE (leBytes (n + m) v) 0 n = v % 256 ^ n := by
  have h : leBytes (n + m) v = leBytes n v ++ leBytes m (v / 256 ^ n) := by
    induction n generalizing v with
    | zero => simp [leBytes]
    | succ n ih => rw [Nat.add_right_comm, leBytes, ih, leBytes, List.cons_append, Nat.div_div_eq_div_mul, Nat.pow_succ, Nat.mul_comm 256]
  rw [h, recLE_append_left _ _ _ _ (by rw [length_leBytes]; omega), recLE_leBytes]

theorem parse_blockStBytes (b : BlockSt) (h : b.Fits) : parseBlockSt (blockStBytes b) = b := by
  obtain ⟨h1, h2, h3, h4, h5, h6, h7, h8, h9, h10, h11⟩ := h
  simp only [parseBlockSt]
  have e1 : recLE (blockStBytes b) 0 4 = b.flags % 256 ^ 4 := by
    simp (disch := simp [length_leBytes]) only [blockStBytes, recLE_append_left, recLE_leBytes]
  have e2 : recLE (blockStBytes b) 4 4 = b.trace % 256 ^ 4 := by
    simp (disch := simp [length_leBytes]) only [blockStBytes, recLE_append_left, recLE_append_right, length_leBytes, Nat.sub_self, recLE_leBytes]
  have e3 : recLE (blockStBytes b) 8 4 = b.lambda % 256 ^ 4 := by
    simp (disch := simp [length_leBytes]) only [blockStBytes, recLE_append_left, recLE_append_right, List.length_append, length_leBytes, Nat.reduceAdd, Nat.sub_self, recLE_leBytes]
  have e4 : recLE (blockStBytes b) 12 4 = b.lambdaUsed % 256 ^ 4 := by
    simp (disch := simp [length_leBytes]) only [blockStBytes, recLE_append_left, recLE_append_right, List.length_append, length_leBytes, Nat.reduceAdd, Nat.sub_self, recLE_leBytes]
  have e5 : recLE (blockStBytes b) 20 1 = b.lastStatus % 256 ^ 1 := by
    simp (disch := simp [length_leBytes]) only [blockStBytes, recLE_append_left, recLE_append_right, List.length_append, length_leBytes, Nat.reduceAdd, Nat.sub_self, recLE_leBytes]
  have e6 : recLE (blockStBytes b) 24 4 = b.residual % 256 ^ 4 := by
    simp (disch := simp [length_leBytes]) only [blockStBytes, recLE_append_left, recLE_append_right, List.length_append, length_leBytes, Nat.reduceAdd, Nat.sub_self, recLE_leBytes]
  have e7 : recLE (blockStBytes b) 28 4 = b.age % 256 ^ 4 := by
    simp (disch := simp [length_leBytes]) only [blockStBytes, recLE_append_left, recLE_append_right, List.length_append, length_leBytes, Nat.reduceAdd, Nat.sub_self, recLE_leBytes]
  have e8 : recLE (blockStBytes b) 32 6 = b.delivered % 256 ^ 6 := by
    simp (disch := simp [length_leBytes]) only [blockStBytes, recLE_append_left, recLE_append_right, List.length_append, length_leBytes, Nat.reduceAdd, Nat.sub_self, recLE_leBytes_low 6 2]
  have e9 : recLE (blockStBytes b) 40 6 = b.installed % 256 ^ 6 := by
    simp (disch := simp [length_leBytes]) only [blockStBytes, recLE_append_left, recLE_append_right, List.length_append, length_leBytes, Nat.reduceAdd, Nat.sub_self, recLE_leBytes]
  have e10 : recLE (blockStBytes b) 64 288 = b.chg % 256 ^ 288 := by
    simp (disch := simp [length_leBytes]) only [blockStBytes, recLE_append_left, recLE_append_right, List.length_append, length_leBytes, Nat.reduceAdd, Nat.sub_self, recLE_leBytes]
  have e11 : recLE (blockStBytes b) 352 288 = b.pend % 256 ^ 288 := by
    simp (disch := simp [length_leBytes]) only [blockStBytes, recLE_append_right, List.length_append, length_leBytes, Nat.reduceAdd, Nat.sub_self, recLE_leBytes]
  rw [e1, e2, e3, e4, e5, e6, e7, e8, e9, e10, e11, Nat.mod_eq_of_lt (show b.flags < 256 ^ 4 by omega), Nat.mod_eq_of_lt (show b.trace < 256 ^ 4 by omega), Nat.mod_eq_of_lt (show b.lambda < 256 ^ 4 by omega), Nat.mod_eq_of_lt (show b.lambdaUsed < 256 ^ 4 by omega), Nat.mod_eq_of_lt (show b.lastStatus < 256 ^ 1 by omega), Nat.mod_eq_of_lt (show b.residual < 256 ^ 4 by omega), Nat.mod_eq_of_lt (show b.age < 256 ^ 4 by omega), Nat.mod_eq_of_lt (show b.delivered < 256 ^ 6 by omega), Nat.mod_eq_of_lt (show b.installed < 256 ^ 6 by omega), Nat.mod_eq_of_lt h10, Nat.mod_eq_of_lt h11]
  rw [bits, Nat.pow_zero, Nat.div_one, Nat.mod_eq_of_lt (show b.flags < 2 ^ (6 + 1 - 0) from h1)]

theorem cvStatusAddr_add (c : List Byte) (f i : Nat) : cvStatusAddr c f i = cvStatusAddr c f 0 + 640 * i := by
  unfold cvStatusAddr; omega

/-- The status records lie inside the area (R191). -/
theorem cvStatus_inArea (c : List Byte) (f : Nat) : cvArea c f ≤ cvStatusAddr c f 0 ∧ cvStatusAddr c f 0 + 640 * cvNB c f = cvArea c f + cvAreaSize c f := by
  unfold cvStatusAddr cvAreaSize
  constructor <;> omega

theorem blockStAt_of_mem (t : State) (c : List Byte) (f i : Nat) (hsyn : t.syn = []) :
    blockStAt t c f i = parseBlockSt (mapRead memDefault t.mem (cvStatusAddr c f i) 640) := by
  rw [blockStAt, hbmBytesAt_of_syn_nil _ _ _ hsyn]

theorem hbmLE_of_mem (t : State) (a n : Nat) (hsyn : t.syn = []) : hbmLE t a n = leNat (mapRead memDefault t.mem a n) := by
  rw [hbmLE, hbmBytesAt_of_syn_nil _ _ _ hsyn]

/-! ### RESET (R197) -/

/-- A block's status after a reset. -/
def statusReset (b : BlockSt) : BlockSt := { ((b.setFlag 4 false).setFlag 5 false).setFlag 6 false with chg := 0, pend := 0 }

theorem flags_reset : ∀ v < 128, setBit (setBit (setBit v 4 false) 5 false) 6 false = v % 16 := by decide

theorem statusReset_eq (b : BlockSt) (h : b.Fits) : statusReset b = { b with flags := b.flags % 16, chg := 0, pend := 0 } := by
  rw [statusReset, ← flags_reset _ h.flags]
  rfl

theorem statusReset_fits (b : BlockSt) (h : b.Fits) : (statusReset b).Fits := by
  rw [statusReset_eq b h]
  obtain ⟨h1, h2, h3, h4, h5, h6, h7, h8, h9, -, -⟩ := h
  exact ⟨by dsimp only; omega, h2, h3, h4, h5, h6, h7, h8, h9, by positivity, by positivity⟩

/-- The runs of bytes that a reset puts. -/
def resetRuns (s : State) (n g f : Nat) : List (Nat × List Byte) :=
  (cvAddr s n g + 112 + 4 * f, leBytes 4 0) ::
    (List.range (cvNB (cvRec s n g) f)).map fun i => (cvStatusAddr (cvRec s n g) f i, blockStBytes (statusReset (blockStAt s (cvRec s n g) f i)))

theorem resetRuns_apart (s : State) (n g f : Nat) (hf : f < 2) (h : recordApart s n g) : (resetRuns s n g f).Pairwise runsApart := by
  have hapart := (h.2 f hf).2
  obtain ⟨hlo, hhi⟩ := cvStatus_inArea (cvRec s n g) f
  simp only [rangesMeet, Bool.and_eq_false_iff, decide_eq_false_iff_not] at hapart
  refine List.pairwise_cons.2 ⟨fun y hy => ?_, ?_⟩
  · obtain ⟨i, hi, rfl⟩ := List.mem_map.1 hy
    have hi := List.mem_range.1 hi
    have hadd := cvStatusAddr_add (cvRec s n g) f i
    simp only [runsApart, length_leBytes, blockStBytes_length]
    omega
  · refine List.pairwise_map.2 ((List.pairwise_lt_range).imp fun {i j} hij => ?_)
    have h1 := cvStatusAddr_add (cvRec s n g) f i
    have h2 := cvStatusAddr_add (cvRec s n g) f j
    simp only [runsApart, blockStBytes_length]
    omega

theorem curvReset_state (s : State) (n g f : Nat) (hcalm : calm s) :
    ∃ w, (curvReset n g f).run s = { s with mem := puts (resetRuns s n g f) s.mem, written := w } := by
  obtain ⟨hsyn, hw, hflip⟩ := hcalm
  obtain ⟨w, hput⟩ := hbmPut_state s (cvAddr s n g + 112 + 4 * f) (leBytes 4 0) hsyn (hflip _) rfl
  obtain ⟨w', heach⟩ := each_hbmPut_state (List.range (cvNB (cvRec s n g) f)) (cvStatusAddr (cvRec s n g) f)
    (fun i => blockStBytes (statusReset (blockStAt s (cvRec s n g) f i)))
    { s with mem := mapPut memDefault s.mem (cvAddr s n g + 112 + 4 * f) (leBytes 4 0), written := w } hsyn hflip
    fun i _ => List.isEmpty_eq_false_iff_exists_mem.2 ⟨_, List.head_mem (List.ne_nil_of_length_pos (by rw [blockStBytes_length]; decide))⟩
  refine ⟨w', ?_⟩
  rw [curvReset, Act.run_seq]
  rw [runs_look (fun s => readRecords (updtPg n) _), readRecords_calm s _ _ hsyn hw, runs_look]
  dsimp only
  rw [run_acts_cons, run_acts_cons, runs_nil, hput]
  exact heach

/-- Whether memories are calm is said by the check bits and by registers of HBMC, GALY and INTG. -/
theorem calm_congr {s t : State} (hs : t.syn = s.syn)
    (h : ∀ (f : Fld) (i n : Nat), f.blk ∈ [Blk.hbmc, .galy, .intg] → i < 256 → f.off + n * f.stride < 4096 → fv t f i n = fv s f i n) (hcalm : calm s) :
    calm t := by
  obtain ⟨hsyn, hw, hflip⟩ := hcalm
  refine ⟨hs.trans hsyn, fun u => ?_, fun u => ?_⟩
  · rw [anyWriteFirst_fields u fun f i n hb => h f i n (by rcases hb with hb | hb <;> simp [hb])]
    exact hw u
  · by_cases hu : muIntg u < 256
    · exact (flipArmed_fv (h INTG_FLIP_ARMED _ 0 (by decide) hu (by decide)) (h INTG_FLIP_TGT _ 0 (by decide) hu (by decide))).trans (hflip u)
    · exact Bool.eq_false_iff.2 fun ha => hu (muIntg_lt_of_flipArmed t u ha)

/-- A register of a UPDT page stores: memories stay calm. -/
theorem calm_stored_updt (s : State) (n off x : Nat) (d : RegDef) (hn : n < 256) (ho : off < 4096) (hcalm : calm s) :
    calm (stored s (updtPg n) d off x) :=
  calm_congr (s := s) rfl (fun f i m hb hi hm => fv_stored_other s (updtPg n) d off x f i m fun h => absurd hb ((blkNum_inj _ _ ((regKey_inj _ _ _ _ _ _ hi hn hm ho).1 h).1 : f.blk = .updt) ▸ by decide)) hcalm

theorem regKey_ne (b : Blk) (i : Nat) {x y : Nat} (h : x ≠ y) : regKey b i x ≠ regKey b i y := by
  unfold regKey; omega

theorem curvReset_clears (s : State) (n g f : Nat) (hf : f < 2) (hcalm : calm s) (hrec : recordApart s n g) :
    (let c := cvRec s n g
     let t := (curvReset n g f).run s
     hbmLE t (cvAddr s n g + 112 + 4 * f) 4 = 0 ∧
       (∀ i, i < cvNB c f → blockStAt t c f i = { blockStAt s c f i with
         flags := (blockStAt s c f i).flags % 16
         chg := 0
         pend := 0 }) ∧
     ∀ k, ¬ (cvAddr s n g + 112 + 4 * f ≤ k ∧ k < cvAddr s n g + 116 + 4 * f) →
       ¬ (cvStatusAddr c f 0 ≤ k ∧ k < cvStatusAddr c f (cvNB c f)) → mapGet memDefault t.mem k = mapGet memDefault s.mem k) := by
  obtain ⟨w, hrun⟩ := curvReset_state s n g f hcalm
  have hsyn : ((curvReset n g f).run s).syn = [] := by rw [hrun]; exact hcalm.1
  have hmem : ((curvReset n g f).run s).mem = puts (resetRuns s n g f) s.mem := by rw [hrun]
  have hapart := resetRuns_apart s n g f hf hrec
  refine ⟨?_, fun i hi => ?_, fun k h1 h2 => ?_⟩
  · rw [hbmLE_of_mem _ _ _ hsyn, hmem]
    have h := mapRead_puts _ s.mem hapart _ List.mem_cons_self
    rw [show (leBytes 4 0).length = 4 from rfl] at h
    rw [h]
    rfl
  · have h := mapRead_puts _ s.mem hapart (_, _) (List.mem_cons_of_mem _ (List.mem_map.2 ⟨i, List.mem_range.2 hi, rfl⟩))
    have hfit : (blockStAt s (cvRec s n g) f i).Fits := parseBlockSt_fits _
    rw [blockStBytes_length] at h
    dsimp only at h
    rw [blockStAt_of_mem _ _ _ _ hsyn, hmem, h, parse_blockStBytes _ (statusReset_fits _ hfit), statusReset_eq _ hfit]
  · rw [hmem]
    refine puts_outside _ _ _ fun x hx => ?_
    rcases List.mem_cons.1 hx with rfl | hx
    · simp only [length_leBytes]; omega
    · obtain ⟨i, hi, rfl⟩ := List.mem_map.1 hx
      have hi := List.mem_range.1 hi
      have h3 := cvStatusAddr_add (cvRec s n g) f i
      have h4 := cvStatusAddr_add (cvRec s n g) f (cvNB (cvRec s n g) f)
      simp only [blockStBytes_length]; omega

/-- CURV_CMD_RESET (R197). -/
theorem curvReset_row (s : State) (r : Requester) (n g f : Nat) (hs : isHbmSite s.build n = true) (hg : g < 1024) (hf : f < 2) (hcalm : calm s)
    (hrec : recordApart s n g) (h : accepted s r (siteReg n 1 0x40C) 4 (2 ^ 13 + f * 2 ^ 10 + g) = true) :
    (let c := cvRec s n g
     ∃ t, exec (.curvCmdReset r n g f) s = .next t ∧ hbmLE t (cvAddr s n g + 112 + 4 * f) 4 = 0 ∧
       (∀ i, i < cvNB c f → blockStAt t c f i = { blockStAt s c f i with
         flags := (blockStAt s c f i).flags % 16
         chg := 0
         pend := 0 }) ∧
     ∀ k, ¬ (cvAddr s n g + 112 + 4 * f ≤ k ∧ k < cvAddr s n g + 116 + 4 * f) →
       ¬ (cvStatusAddr c f 0 ≤ k ∧ k < cvStatusAddr c f (cvNB c f)) → mapGet memDefault t.mem k = mapGet memDefault s.mem k) := by
  have hn := isHbmSite_lt_256 hs
  have hc : rowWrite s (.curvCmdReset r n g f) = some (r, siteReg n 1 0x40C, 4, 2 ^ 13 + f * 2 ^ 10 + g) := by
    simp only [rowWrite, hs, if_true, Nat.mod_eq_of_lt hg, Nat.mod_eq_of_lt hf]
  obtain ⟨d, hd⟩ : ∃ d, regAt .updt 0x40C = some (d, 0x40C) := ⟨_, rfl⟩
  have hexec := exec_updt_row s _ r n 0x40C _ _ hs hc h hd (by decide) (by decide) (by omega)
  have h1 : bits (2 ^ 13 + f * 2 ^ 10 + g) 13 12 = 2 := by simp only [bits]; omega
  have h2 : bits (2 ^ 13 + f * 2 ^ 10 + g) 9 0 = g := by simp only [bits]; omega
  have h3 : bits (2 ^ 13 + f * 2 ^ 10 + g) 10 10 = f := by simp only [bits]; omega
  rw [updtApply_curvCmd, h1, h2, h3, if_neg (by decide)] at hexec
  have hcalm' := calm_stored_updt s n 0x40C (2 ^ 13 + f * 2 ^ 10 + g) d hn (by decide) hcalm
  have hbase : fv (stored s (updtPg n) d 0x40C (2 ^ 13 + f * 2 ^ 10 + g)) UPDT_CURV_BASE n = fv s UPDT_CURV_BASE n :=
    fv_stored_other s (updtPg n) d 0x40C _ UPDT_CURV_BASE n 0 (regKey_ne .updt n (by decide))
  obtain ⟨w, hw⟩ := stored_regs s (updtPg n) d 0x40C (2 ^ 13 + f * 2 ^ 10 + g)
  rw [hw] at hexec hcalm' hbase
  have haddr : cvAddr { s with regs := w } n g = cvAddr s n g := by rw [cvAddr, hbase, cvAddr]
  have hrec' : cvRec { s with regs := w } n g = cvRec s n g := by rw [cvRec, haddr]; rfl
  have hap : recordApart { s with regs := w } n g := by
    rw [recordApart, haddr, hrec']; exact hrec
  have hclear := curvReset_clears { s with regs := w } n g f hf hcalm' hap
  rw [haddr, hrec'] at hclear
  exact ⟨_, hexec, hclear⟩

end Sys2Proof.Machine
end

section
/-! PROOF. Installation of the preconditioners (R201), and the settlement of the curvature statement. -/

namespace Sys2Proof.Machine

/-! ### What an installation's checks say (R190, R201) -/

theorem errRank_ok_gt : errRank .fieldRange < errRank .ok ∧ errRank .stateNotReady < errRank .ok := by decide

/-- The areas of an installed group's factors have no byte in common. -/
theorem installErrs_areas (s : State) (n g : Nat) (h : firstErr (installErrs s n g) = .ok) :
    rangesMeet (cvArea (cvRec s n g) 0, cvAreaSize (cvRec s n g) 0) (cvArea (cvRec s n g) 1, cvAreaSize (cvRec s n g) 1) = false := by
  have hnone : ∀ e, errRank e < errRank .ok → e ∉ installErrs s n g := fun e hlt he => by
    have := rank_of_firstErr_ok h e he
    omega
  unfold installErrs at hnone
  split at hnone
  · exact absurd (List.mem_singleton_self _) (hnone _ errRank_ok_gt.2)
  · split at hnone
    · exact absurd (List.mem_singleton_self _) (hnone _ errRank_ok_gt.1)
    · refine Bool.eq_false_iff.2 fun hmeet => hnone .fieldRange errRank_ok_gt.1 ?_
      refine List.mem_map.2 ⟨(.fieldRange, 48), ?_, rfl⟩
      unfold cvErrs
      refine List.mem_append_right _ (List.mem_flatMap.2 ⟨0, by decide, ?_⟩)
      dsimp only
      refine List.mem_append_left _ (List.mem_append_left _ ?_)
      rw [whenAt, if_pos ?_]
      · exact List.mem_singleton_self _
      · refine Bool.or_eq_true_iff.2 (Or.inl (List.any_eq_true.2 ⟨2, by decide, ?_⟩))
        exact Bool.and_eq_true_iff.2 ⟨rfl, hmeet⟩

/-! ### The puts of an installation -/

/-- A block's status after an installation of a full shadow slot. -/
def statusInstalled (h : Nat) (b : BlockSt) : BlockSt := ({ b with installed := h }.setFlag 0 (!b.flag 0)).setFlag 1 false

theorem flags_installed : ∀ v < 128, setBit (setBit v 0 (!bit v 0)) 1 false < 128 ∧ setBit (setBit v 0 (!bit v 0)) 1 false % 2 = 1 - v % 2 ∧
    bit (setBit (setBit v 0 (!bit v 0)) 1 false) 1 = false := by decide

theorem statusInstalled_fits (h : Nat) (b : BlockSt) (hb : b.Fits) (hh : h < 2 ^ 48) : (statusInstalled h b).Fits := by
  obtain ⟨h1, h2, h3, h4, h5, h6, h7, h8, -, h10, h11⟩ := hb
  exact ⟨(flags_installed _ h1).1, h2, h3, h4, h5, h6, h7, h8, hh, h10, h11⟩

/-- The runs of bytes that an installation puts into the status records. -/
def installRuns (s : State) (c : List Byte) (h : Nat) : List (Nat × List Byte) :=
  (fullBlocks s c).map fun x => (cvStatusAddr c x.1 x.2, blockStBytes (statusInstalled h (blockStAt s c x.1 x.2)))

theorem mem_fullBlocks (s : State) (c : List Byte) (f i : Nat) :
    (f, i) ∈ fullBlocks s c ↔ f < 2 ∧ i < cvNB c f ∧ (blockStAt s c f i).flag 1 = true := by
  simp only [fullBlocks, rangeF, List.mem_flatMap, List.mem_cons, List.not_mem_nil, or_false, List.mem_map, List.mem_filter, List.mem_range, Prod.mk.injEq]
  constructor
  · rintro ⟨f', hf, j, ⟨hj, hfl⟩, rfl, rfl⟩
    exact ⟨by omega, hj, hfl⟩
  · rintro ⟨hf, hi, hfl⟩
    exact ⟨f, by omega, i, ⟨hi, hfl⟩, rfl, rfl⟩

theorem fullBlocks_nodup (s : State) (c : List Byte) : (fullBlocks s c).Nodup := by
  have hpart : ∀ f, ((rangeF (cvNB c f) fun i => (blockStAt s c f i).flag 1).map fun i => (f, i)).Nodup := fun f =>
    (List.nodup_range.filter _).map fun i j h => (Prod.mk.inj h).2
  simp only [fullBlocks, List.flatMap_cons, List.flatMap_nil, List.append_nil]
  refine List.nodup_append.2 ⟨hpart 0, hpart 1, fun x hx y hy hxy => ?_⟩
  obtain ⟨i, -, rfl⟩ := List.mem_map.1 hx
  obtain ⟨j, -, rfl⟩ := List.mem_map.1 hy
  exact absurd (Prod.mk.inj hxy).1 (by decide)

section
variable (c : List Byte) (hareas : rangesMeet (cvArea c 0, cvAreaSize c 0) (cvArea c 1, cvAreaSize c 1) = false)
include hareas

/-- Status records of different blocks have no byte in common. -/
theorem statusApart (f i f' i' : Nat) (hf : f < 2) (hf' : f' < 2) (hi : i < cvNB c f) (hi' : i' < cvNB c f') (hne : (f, i) ≠ (f', i')) :
    cvStatusAddr c f i + 640 ≤ cvStatusAddr c f' i' ∨ cvStatusAddr c f' i' + 640 ≤ cvStatusAddr c f i := by
  have h1 := cvStatusAddr_add c f i
  have h2 := cvStatusAddr_add c f' i'
  by_cases he : f = f'
  · subst he
    have : i ≠ i' := fun h => hne (by rw [h])
    omega
  · obtain ⟨a1, a2⟩ := cvStatus_inArea c 0
    obtain ⟨b1, b2⟩ := cvStatus_inArea c 1
    simp only [rangesMeet, Bool.and_eq_false_iff, decide_eq_false_iff_not] at hareas
    obtain ⟨rfl, rfl⟩ | ⟨rfl, rfl⟩ : f = 0 ∧ f' = 1 ∨ f = 1 ∧ f' = 0 := by omega
    · omega
    · omega

theorem installRuns_apart (s : State) (h : Nat) : (installRuns s c h).Pairwise runsApart := by
  refine List.pairwise_map.2 ((List.pairwise_iff_forall_sublist.2 fun {x y} hsub => ?_))
  have hx := hsub.subset List.mem_cons_self
  have hy := hsub.subset (List.mem_cons_of_mem _ List.mem_cons_self)
  have hne : x ≠ y := fun h => by
    have := (fullBlocks_nodup s c).sublist hsub
    simp [h] at this
  obtain ⟨f, i⟩ := x
  obtain ⟨f', i'⟩ := y
  obtain ⟨hf, hi, -⟩ := (mem_fullBlocks s c f i).1 hx
  obtain ⟨hf', hi', -⟩ := (mem_fullBlocks s c f' i').1 hy
  simp only [runsApart, blockStBytes_length]
  exact statusApart c hareas f i f' i' hf hf' hi hi' hne

end

theorem install_state (s : State) (n g h : Nat) (hcalm : calm s) (hfull : fullBlocks s (cvRec s n g) ≠ []) :
    ∃ w, (install n g h).run s = (incF UPDT_CNT_INSTALLS 1 n).run { s with
      mem := mapPut memDefault (puts (installRuns s (cvRec s n g) h) s.mem) (cvAddr s n g + 96) (leBytes 8 (cvGen (cvRec s n g) + 1) ++ leBytes 6 h)
      written := w } := by
  obtain ⟨hsyn, hw, hflip⟩ := hcalm
  obtain ⟨w, heach⟩ := each_hbmPut_state (fullBlocks s (cvRec s n g)) (fun x => cvStatusAddr (cvRec s n g) x.1 x.2)
    (fun x => blockStBytes (statusInstalled h (blockStAt s (cvRec s n g) x.1 x.2))) s hsyn hflip
    fun i _ => List.isEmpty_eq_false_iff_exists_mem.2 ⟨_, List.head_mem (List.ne_nil_of_length_pos (by rw [blockStBytes_length]; decide))⟩
  obtain ⟨w', hput⟩ := hbmPut_state { s with mem := puts (installRuns s (cvRec s n g) h) s.mem, written := w } (cvAddr s n g + 96)
    (leBytes 8 (cvGen (cvRec s n g) + 1) ++ leBytes 6 h) hsyn (hflip _) rfl
  refine ⟨w', ?_⟩
  rw [install, Act.run_seq]
  rw [runs_look (fun s => readRecords (updtPg n) _), readRecords_calm s _ _ hsyn hw, runs_look]
  dsimp only
  rw [if_neg (by simpa using hfull), run_acts_cons, run_acts_cons, run_acts_cons, runs_nil]
  refine congrArg _ (Eq.trans (congrArg _ heach) hput)

theorem install_empty (s : State) (n g h : Nat) (hcalm : calm s) (hfull : fullBlocks s (cvRec s n g) = []) :
    (install n g h).run s = (incF UPDT_CNT_INSTALL_EMPTY 1 n).run s := by
  rw [install, Act.run_seq]
  rw [runs_look (fun s => readRecords (updtPg n) _), readRecords_calm s _ _ hcalm.1 hcalm.2.1, runs_look]
  dsimp only
  rw [if_pos (by rw [hfull]; rfl)]

/-- An installation at an impression: GEN, and every block's status. -/
theorem install_installs (s : State) (n g h : Nat) (hcalm : calm s) (hrec : recordApart s n g) (hh : h < 2 ^ 48)
    (hareas : rangesMeet (cvArea (cvRec s n g) 0, cvAreaSize (cvRec s n g) 0) (cvArea (cvRec s n g) 1, cvAreaSize (cvRec s n g) 1) = false)
    (hfull : fullBlocks s (cvRec s n g) ≠ []) :
    (let c := cvRec s n g
     let t := (install n g h).run s
     counted s t UPDT_CNT_INSTALLS n 0 1 ∧ hbmLE t (cvAddr s n g + 96) 8 = (cvGen c + 1) % 2 ^ 64 ∧
       ∀ f i, f < 2 → i < cvNB c f →
         if (blockStAt s c f i).flag 1 then (blockStAt t c f i).slot = 1 - (blockStAt s c f i).slot ∧
           (blockStAt t c f i).flag 1 = false ∧ (blockStAt t c f i).installed = h
         else blockStAt t c f i = blockStAt s c f i) := by
  obtain ⟨w, hrun⟩ := install_state s n g h hcalm hfull
  have hinc : ∀ u : State, ((incF UPDT_CNT_INSTALLS 1 n).run u).mem = u.mem ∧ ((incF UPDT_CNT_INSTALLS 1 n).run u).syn = u.syn := fun _ => ⟨rfl, rfl⟩
  have hsyn : ((install n g h).run s).syn = [] := by rw [hrun, (hinc _).2]; exact hcalm.1
  have hmem : ((install n g h).run s).mem = mapPut memDefault (puts (installRuns s (cvRec s n g) h) s.mem) (cvAddr s n g + 96)
      (leBytes 8 (cvGen (cvRec s n g) + 1) ++ leBytes 6 h) := by rw [hrun, (hinc _).1]
  have hlen : (leBytes 8 (cvGen (cvRec s n g) + 1) ++ leBytes 6 h).length = 14 := by rw [List.length_append, length_leBytes, length_leBytes]
  have hrecord : ∀ f, f < 2 → ∀ i, i < cvNB (cvRec s n g) f → cvStatusAddr (cvRec s n g) f i + 640 ≤ cvAddr s n g ∨
      cvAddr s n g + 128 ≤ cvStatusAddr (cvRec s n g) f i := fun f hf i hi => by
    have hap := (hrec.2 f hf).2
    obtain ⟨a1, a2⟩ := cvStatus_inArea (cvRec s n g) f
    have h1 := cvStatusAddr_add (cvRec s n g) f i
    simp only [rangesMeet, Bool.and_eq_false_iff, decide_eq_false_iff_not] at hap
    omega
  refine ⟨?_, ?_, fun f i hf hi => ?_⟩
  · rw [counted, hrun, fv_incF_self _ UPDT_CNT_INSTALLS _ _ _ ⟨by decide, by decide⟩]
    rfl
  · rw [hbmLE_of_mem _ _ _ hsyn, hmem]
    have hself := mapRead_mapPut_self memDefault (puts (installRuns s (cvRec s n g) h) s.mem) (cvAddr s n g + 96) 0 8
      (leBytes 8 (cvGen (cvRec s n g) + 1) ++ leBytes 6 h) (by rw [hlen]; omega)
    rw [Nat.add_zero, List.drop_zero, List.take_append_of_le_length (length_leBytes ..).ge, List.take_of_length_le (length_leBytes ..).le] at hself
    rw [hself, leNat_leBytes]
    rfl
  · have hkeep : mapRead memDefault ((install n g h).run s).mem (cvStatusAddr (cvRec s n g) f i) 640 =
        mapRead memDefault (puts (installRuns s (cvRec s n g) h) s.mem) (cvStatusAddr (cvRec s n g) f i) 640 := by
      rw [hmem]
      refine mapRead_congr _ _ _ _ fun k h1 h2 => ?_
      have := hrecord f hf i hi
      rw [mapGet_mapPut, if_neg (by omega)]
    rw [blockStAt_of_mem _ _ _ _ hsyn, hkeep]
    split
    next hset =>
      have hat := mapRead_puts _ s.mem (installRuns_apart _ hareas s h) (_, _)
        (List.mem_map.2 ⟨(f, i), (mem_fullBlocks s _ f i).2 ⟨hf, hi, hset⟩, rfl⟩)
      have hfit : (blockStAt s (cvRec s n g) f i).Fits := parseBlockSt_fits _
      rw [blockStBytes_length] at hat
      dsimp only at hat
      rw [hat, parse_blockStBytes _ (statusInstalled_fits h _ hfit hh)]
      obtain ⟨-, hslot, hshadow⟩ := flags_installed _ hfit.flags
      exact ⟨hslot, hshadow, rfl⟩
    next hclear =>
      rw [blockStAt_of_mem _ _ _ _ hcalm.1]
      refine congrArg _ (mapRead_congr _ _ _ _ fun k h1 h2 => puts_outside _ _ _ fun x hx => ?_)
      obtain ⟨⟨f', i'⟩, hin, rfl⟩ := List.mem_map.1 hx
      obtain ⟨hf', hi', hset⟩ := (mem_fullBlocks s _ f' i').1 hin
      have hne : (f', i') ≠ (f, i) := fun he => by
        obtain ⟨rfl, rfl⟩ := Prod.mk.inj he
        exact hclear hset
      have := statusApart _ hareas f' i' f i hf' hf hi' hi hne
      simp only [blockStBytes_length]
      omega

/-- PRECOND_INSTALL (R201). -/
theorem precondInstall_row (s : State) (n g : Nat) (hs : isHbmSite s.build n = true) (hcalm : calm s) (hrec : recordApart s n g)
    (himp : s.press.imp < 2 ^ 48) (he : firstErr (actionErrs s ⟨0, s.press.imp, s.press.pt, 2, n, 0, g⟩) = .ok) :
    (let c := cvRec s n g
     ∃ t, exec (.precondInstall n g) s = .next t ∧
       (fullBlocks s c = [] → counted s t UPDT_CNT_INSTALL_EMPTY n 0 1 ∧ t.mem = s.mem) ∧
       (fullBlocks s c ≠ [] → counted s t UPDT_CNT_INSTALLS n 0 1 ∧
         hbmLE t (cvAddr s n g + 96) 8 = (cvGen c + 1) % 2 ^ 64 ∧
         ∀ f i, f < 2 → i < cvNB c f →
           if (blockStAt s c f i).flag 1 then (blockStAt t c f i).slot = 1 - (blockStAt s c f i).slot ∧
             (blockStAt t c f i).flag 1 = false ∧ (blockStAt t c f i).installed = s.press.imp
           else blockStAt t c f i = blockStAt s c f i)) := by
  have hinst : firstErr (installErrs s n g) = .ok := (firstErr_append_ok (firstErr_append_ok he).2).2
  have hexec : exec (.precondInstall n g) s = .next ((install n g s.press.imp).run s) := by
    change execPrecondInstall n g s = _
    rw [execPrecondInstall, run_onlyIf_of_true _ _ hs, deliverAction, runs_look]
    dsimp only
    rw [if_pos he, run_acts_cons, run_acts_cons, runs_nil, runs_done]
    rfl
  refine ⟨_, hexec, fun hfull => ?_, fun hfull => ?_⟩
  · rw [install_empty s n g _ hcalm hfull]
    exact ⟨fv_incF_self s UPDT_CNT_INSTALL_EMPTY _ _ _ ⟨by decide, by decide⟩, rfl⟩
  · exact install_installs s n g _ hcalm hrec himp (installErrs_areas s n g hinst) hfull

/-- Settles O32, clause by clause: the fold that arises, its end, the reset, the installation, and the read of a view. -/
theorem curvatureFoldsAndInstalls : Obligations.CurvatureFoldsAndInstalls :=
  ⟨curvFold_queued, curvReset_row, foldDone_counts, precondInstall_row, fun s r a n => viewRead_answers s r a n⟩

end Sys2Proof.Machine
end

section
/-! PROOF. Updates: their start, what their visits keep, and their taking from a window (R278, R279, R289, R300). -/

namespace Sys2Proof.Machine

/-! ### An update that runs goes on running -/

/-- An update runs, with some jobs behind it. -/
def updating (n : Nat) (l : List UeJob) (s : State) : Prop := (ueSt s n).run.isSome = true ∧ (ueSt s n).jobs = l

section
variable {n : Nat} {l : List UeJob}

theorem updating_of_within {ps : List Part} {ks : Nat → Prop} {a : Act} (h : a.Within ps ks) (hu : Part.ues ∉ ps) : a.Stable (updating n l) := fun s hs => by
  unfold updating at hs ⊢
  rwa [ueSt_congr s (a.run s) n (h.same .ues hu s)]

theorem updating_updUe (f : Ue → Ue) (hr : ∀ u, u.run.isSome = true → (f u).run.isSome = true) (hj : ∀ u, (f u).jobs = u.jobs) :
    (updUe n f).Stable (updating n l) := fun s hs => by
  obtain ⟨h1, h2⟩ := hs
  unfold updating
  rw [ueSt_updUe, hj]
  exact ⟨hr _ h1, h2⟩

theorem setRun_starts (r : UeRun) (s : State) (hj : (ueSt s n).jobs = l) : updating n l ((setRun n r).run s) := by
  unfold updating
  rw [setRun, ueSt_updUe]
  exact ⟨rfl, hj⟩

theorem updating_setRun (r : UeRun) : (setRun n r).Stable (updating n l) := updating_updUe _ (fun _ _ => rfl) fun _ => rfl

theorem updating_hbmPut (a : Nat) (bs : List Byte) : (hbmPut a bs).Stable (updating n l) := updating_of_within (hbmPut_far a bs) (by decide)

theorem updating_touchLocal (a k : Nat) : (touchLocal a k).Stable (updating n l) := updating_of_within (touchLocal_far a k) (by decide)

theorem updating_withRun {k : State → UeRun → Act} (h : ∀ s r, (k s r).Stable (updating n l)) : (withRun n k).Stable (updating n l) := by
  refine stable_look fun s => ?_
  split
  · exact h s _
  · exact fun _ h => h

theorem updating_ueTouch (ps : List (Nat × Nat)) : (ueTouch n ps).Stable (updating n l) := by
  refine stable_cons (stable_each fun x _ => updating_touchLocal _ _) (stable_cons (stable_look fun s => ?_) stable_nil)
  split
  · split
    · exact stable_onlyIf fun _ => stable_cons (updating_of_within (consume_far _ _) (by decide))
        (stable_cons (updating_updUe _ (fun _ _ => rfl) fun _ => rfl) stable_nil)
    · exact fun _ h => h
  · exact fun _ h => h

theorem updating_ldCount : (ldCount n).Stable (updating n l) := stable_look fun _ =>
  updating_of_within (ps := []) (ks := fun _ => True) ((within_setF _ _ _ _).2 trivial) (by decide)

theorem updating_ldSet (e st : Nat) (staged : Bool) : (ldSet n e st staged).Stable (updating n l) := stable_look fun _ =>
  stable_cons (updating_hbmPut _ _) (stable_cons updating_ldCount stable_nil)

theorem updating_ueEnter (r : UeRun) (e : Option Nat) : (ueEnter n r e).Stable (updating n l) := updating_setRun _

theorem updating_ledgerAdd (e : Nat) (r : UeRun) : (ledgerAdd n e r).Stable (updating n l) :=
  stable_cons (updating_ueTouch _) (stable_cons (stable_look fun _ => updating_touchLocal _ _) (stable_cons (stable_look fun _ =>
    stable_cons (updating_of_within (writeLocal_far _ _) (by decide)) (stable_cons (updating_hbmPut _ _) stable_nil)) stable_nil))

theorem updating_ledgerOpen (e : Nat) (r : UeRun) : (ledgerOpen n e r).Stable (updating n l) :=
  stable_cons (updating_ueTouch _) (stable_cons (stable_look fun _ =>
    stable_cons (updating_of_within (writeLocal_far _ _) (by decide)) (stable_cons (updating_hbmPut _ _) (stable_cons updating_ldCount stable_nil))) stable_nil)

theorem updating_ledgerPut {k : Act} (h : k.Stable (updating n l)) : (ledgerPut n k).Stable (updating n l) := by
  refine updating_withRun fun s r => ?_
  split
  · exact stable_cons (updating_ledgerAdd _ _) (stable_cons h stable_nil)
  · split
    · exact stable_cons (updating_ledgerOpen _ _) (stable_cons h stable_nil)
    · exact stable_cons (updating_setRun _) (stable_cons (stable_onlyIf fun _ => updating_of_within (raiseEvt_far _ _) (by decide)) stable_nil)

theorem updating_ueVisit (k : Nat) : (ueVisit n k).Stable (updating n l) := by
  induction k with
  | zero => exact fun _ h => h
  | succ k ih =>
    have hnext : (acts [withRun n fun _ t => setRun n { t with chunk := t.chunk + 1, phase := .vector }, ueVisit n k]).Stable (updating n l) :=
      stable_cons (updating_withRun fun _ _ => updating_setRun _) (stable_cons ih stable_nil)
    refine updating_withRun fun s r => ?_
    refine stable_ite (updating_setRun _) (stable_ite (updating_ueEnter _ _) ?_)
    split
    · exact stable_ite (stable_ite (stable_cons (updating_ldSet _ _ _) (stable_cons (updating_ueEnter _ _) stable_nil)) (updating_setRun _))
        (updating_ledgerPut hnext)
    · exact updating_ledgerPut hnext

end

/-! ### The start of an update (R277, R278) -/

/-- A fault of the group table is on record, and raised. -/
theorem updFault_notes (s : State) (n g b : Nat) (c : ErrCode) (hn : n < 256) :
    fb ((updFault n g b c).run s) UPDT_PGF_VALID n = true ∧ pending ((updFault n g b c).run s) (updtPg n) 1 :=
  firstFault_notes UPDT_PGF_VALID [(UPDT_PGF_CODE, errNum c), (UPDT_PGF_GROUP, g), (UPDT_PGF_BYTE, b)] s n hn rfl (by decide) (by decide)
    rfl rfl (by simp [UPDT_PGF_CODE, UPDT_PGF_GROUP, UPDT_PGF_BYTE]) _ (by rw [updFault, run_acts_cons, run_acts_cons, runs_nil, runs_look]; rw [run_acts_cons, run_acts_cons, runs_nil]; rfl)

theorem updFault_ues (s : State) (n g b : Nat) (c : ErrCode) : ((updFault n g b c).run s).ues = s.ues := by
  have h : (updFault n g b c).Within memParts fun _ => True := by
    simp only [updFault, only_acts_cons, only_acts_nil, only_look_iff, only_onlyIf_iff, within_setF, and_true]
    exact ⟨fun _ _ => trivial, (raiseEvt_far _ _).regs fun _ _ => trivial⟩
  exact h.same .ues (by decide) s

/-- An update that is taken runs, or its fault is on record; the jobs behind it wait on. -/
theorem updateStart_starts (s : State) (n g : Nat) (d : Option (Nat × Nat)) (hn : n < 256) :
    (ueSt ((updateStart n g d).run s) n).jobs = (ueSt s n).jobs ∧
    ((ueSt ((updateStart n g d).run s) n).run.isSome = true ∨
      (fb ((updateStart n g d).run s) UPDT_PGF_VALID n = true ∧ pending ((updateStart n g d).run s) (updtPg n) 1)) := by
  have hues : ∀ {a : Act} (t : State), a.Within memParts farKeys → (ueSt (a.run t) n).jobs = (ueSt t n).jobs := fun t ha => by
    rw [ueSt_congr t _ n (ha.same .ues (by decide) t)]
  have h1 : (look fun s => touchLocal (pgAddr s n g) 256).Within memParts farKeys := fun s => touchLocal_far _ _
  have h2 : (look fun s => each (updateControl s n g) fun x => touchLocal x.1 x.2).Within memParts farKeys := fun s =>
    (only_each_iff _ _ _).2 fun _ _ => touchLocal_far _ _
  have h3 : (look fun s => let r := pgRec s n g; touch (.prog n) (4 * pgProgBase r) (4 * pgProgLen r)).Within memParts farKeys := fun s => touch_far _ _ _
  have h4 : ∀ (c : Bool) a, (onlyIf c (consume (updtPg n) a)).Within memParts farKeys := fun c a => only_onlyIf _ _ _ fun _ => consume_far _ _
  rw [updateStart, run_acts_cons, run_acts_cons, run_acts_cons, run_acts_cons, runs_nil]
  have hju := (hues _ h3).trans ((hues _ h2).trans (hues s h1))
  revert hju
  generalize (look fun s => let r := pgRec s n g; touch (.prog n) (4 * pgProgBase r) (4 * pgProgLen r)).run _ = u
  intro hju
  rw [runs_look]
  dsimp only
  rw [run_acts_cons, run_acts_cons, runs_nil]
  have hjv := (hues u (h4 (((pgAddr u n g, 256) :: updateControl u n g).any (fun x => localMarked u x.1 x.2) ||
        anyMarked u (.prog n) (4 * pgProgBase (pgRec u n g)) (4 * pgProgLen (pgRec u n g))) (pgAddr u n g))).trans hju
  revert hjv
  generalize (onlyIf _ (consume (updtPg n) (pgAddr u n g))).run u = v
  intro hjv
  split
  · exact ⟨by rw [ueSt_congr _ _ n (updFault_ues ..), hjv], Or.inr (updFault_notes v n g _ _ hn)⟩
  · rw [run_acts_cons, run_acts_cons, runs_nil]
    have hvisit : (withRun n fun _ x => ueVisit n (ueFuel x)).Stable (updating n (ueSt s n).jobs) := updating_withRun fun _ x => updating_ueVisit _
    have hup := fun r => hvisit _ (setRun_starts (n := n) r v hjv)
    exact ⟨(hup _).2, Or.inl (hup _).1⟩

/-- Whether a group is held by a reimposition is said by registers of other pages, and by memory. -/
theorem riHolds_stored (s : State) (n off x g : Nat) (d : RegDef) (hn : n < 256) (ho : off < 4096) :
    riHolds (stored s (updtPg n) d off x) g = riHolds s g := by
  have hfv : ∀ (f : Fld), f.blk ≠ .updt → f.off < 4096 → fv (stored s (updtPg n) d off x) f = fv s f := fun f hb hf =>
    fv_stored_other s (updtPg n) d off x f 0 0 fun h => hb ((regKey_inj _ _ _ _ _ _ (by decide) hn (by omega) ho).1 h |>.1 |> blkNum_inj _ _)
  have htab : ∀ b c, impTable (stored s (updtPg n) d off x) b c = impTable s b c := fun _ _ => rfl
  unfold riHolds riPlaces
  rw [hfv MGMT_RI_STATE (by decide) (by decide), hfv MGMT_IMP_BASE (by decide) (by decide), hfv MGMT_IMP_COUNT (by decide) (by decide),
    hfv MGMT_RI_NEW_BASE (by decide) (by decide), hfv MGMT_RI_NEW_COUNT (by decide) (by decide), htab, htab,
    show nodeId (stored s (updtPg n) d off x) = nodeId s from hfv LINK_NODE_ID (by decide) (by decide)]

/-- UPDATE_RUN by UPD_CMD (R278). -/
theorem updateRun_queued (s : State) (r : Requester) (n g : Nat) (hs : isHbmSite s.build n = true) (hg : g < 1024)
    (h : accepted s r (siteReg n 1 0x064) 4 (2 ^ 12 + g) = true) :
    ∃ t, exec (.updateRun n (some r) g) s = .next t ∧
      (ueIdle s n = false → (ueSt t n).jobs = (ueSt s n).jobs ++ [.update g none]) ∧
      (ueIdle s n = true → ueInService s n = true → unitResting s (.ue n) = false → (ueSt s n).jobs = [] →
        riHolds s g = false → (ueSt t n).jobs = [] ∧
          ((ueSt t n).run.isSome = true ∨ (fb t UPDT_PGF_VALID n = true ∧ pending t (updtPg n) 1))) := by
  have hn := isHbmSite_lt_256 hs
  have hc : rowWrite s (.updateRun n (some r) g) = some (r, siteReg n 1 0x064, 4, 2 ^ 12 + g) := by
    simp only [rowWrite, hs, if_true, Nat.mod_eq_of_lt hg]
  have h1 : bits (2 ^ 12 + g) 13 12 = 1 := by simp only [bits]; omega
  have h2 : bits (2 ^ 12 + g) 9 0 = g := by simp only [bits]; omega
  obtain ⟨d, hd⟩ : ∃ d, regAt .updt 0x064 = some (d, 0x064) := ⟨_, rfl⟩
  have hsv := sameService_stored_updt s n 0x064 (2 ^ 12 + g) d hn (by decide)
  have hri := riHolds_stored s n 0x064 (2 ^ 12 + g) g d hn (by decide)
  have hexec := exec_updt_row s _ r n 0x064 _ _ hs hc h hd (by decide) (by decide) (by omega)
  have happly : updtApply s n 0x064 (2 ^ 12 + g) = ueEnqueue n (.update g none) := by
    rw [updtApply, if_neg (by decide), if_pos rfl, h1, h2]
    rfl
  obtain ⟨w, hw⟩ := stored_regs s (updtPg n) d 0x064 (2 ^ 12 + g)
  rw [happly, hw] at hexec
  rw [hw] at hsv hri
  refine ⟨_, hexec, fun hi => ueEnqueue_busy { s with regs := w } n _ hi, fun hi hup hrest hj hheld => ?_⟩
  obtain ⟨u, -, hu, hrun⟩ := ueEnqueue_free { s with regs := w } n (.update g none) hi ((hsv.ueInService n).trans hup) hrest hj (hri.trans hheld)
  obtain ⟨hjobs, hstart⟩ := updateStart_starts u n g none hn
  have hnil : (ueSt ((updateStart n g none).run u) n).jobs = [] := by rw [hjobs, hu]; exact hj
  rw [hrun, jobStart, ueNext_stops _ n 1 (Or.inr hnil)]
  exact ⟨hnil, hstart⟩

/-- UPDATE_RUN from the command window: the record is taken (R300). -/
theorem updateRun_taken (s : State) (n g : Nat) (x : WinRec) (rest : List WinRec) (hf : fifoOf s (16 + n) = x :: rest)
    (hty : recLE x.bytes 0 1 = 2) (hok : firstErr (ueRecErrs s n x.bytes) = .ok) (hi : ueIdle s n = false) :
    ∃ t, exec (.updateRun n none g) s = .next t ∧ fifoOf t (16 + n) = rest ∧
      (ueSt t n).jobs = (ueSt s n).jobs ++ [.update (recLE x.bytes 2 2) none] := by
  have hpop : fifoOf ((fifoPop (16 + n)).run s) (16 + n) = rest := by
    have : fifoOf ((fifoPop (16 + n)).run s) (16 + n) = (fifoOf s (16 + n)).drop 1 := mapGet_mapSet_self _ _ _ _
    rw [this, hf]; rfl
  have hnote : ∀ c a, (onlyIf c (consume (updtPg n) a)).Within memParts farKeys := fun c a => only_onlyIf _ _ _ fun _ => consume_far _ _
  have hpopUe : ueSt ((fifoPop (16 + n)).run s) n = ueSt s n := rfl
  have hrun : (ueTake n 2).run s = (ueRecord n x.bytes).run ((onlyIf x.marked (consume (updtPg n) (0xFB00_0000_0000 + n * 65536))).run ((fifoPop (16 + n)).run s)) := by
    rw [ueTake, runs_look, hf, List.length_cons, ueWindow, runs_look, hf]
    dsimp only
    rw [hok, hty, if_neg (by decide), if_neg (by simp), if_neg (by simp), run_acts_cons, run_acts_cons, runs_nil, run_acts_cons, run_acts_cons, runs_nil]
  generalize hu : (onlyIf x.marked (consume (updtPg n) (0xFB00_0000_0000 + n * 65536))).run ((fifoPop (16 + n)).run s) = u at hrun
  have hue : ueSt u n = ueSt s n := by rw [← hu, ueSt_congr _ _ n ((hnote _ _).same .ues (by decide) _), hpopUe]
  have hfifo : fifoOf u (16 + n) = rest := by
    have h : u.fifos = ((fifoPop (16 + n)).run s).fifos := by rw [← hu]; exact (hnote _ _).same .fifos (by decide) _
    rw [← hpop, fifoOf, fifoOf, h]
  have hidle : ueIdle u n = false := by rw [ueIdle, hue]; exact hi
  have hexec : exec (.updateRun n none g) s = .next ((ueTake n 2).run s) := rfl
  refine ⟨_, hexec, ?_⟩
  rw [hrun, ueRecord, if_neg (by rw [hty]; decide), ueEnqueue_waits _ _ _ hidle]
  exact ⟨hfifo, by rw [ueSt_updUe, hue]⟩

end Sys2Proof.Machine
end

section
/-! PROOF. The end of an update, and the ledger's entries (R279, R289, R290). -/

namespace Sys2Proof.Machine

/-! ### Programs that only put bytes into a calm memory -/

/-- A program that, in a calm memory, only puts runs of bytes. -/
def PutsOnly (a : Act) (l : List (Nat × List Byte)) : Prop :=
  ∀ s : State, s.syn = [] → (∀ u, flipArmed s u = false) → ∃ w, a.run s = { s with mem := puts l s.mem, written := w }

theorem putsOnly_nil : PutsOnly (acts []) [] := fun s _ _ => ⟨s.written, rfl⟩

theorem putsOnly_cons {a : Act} {l : List Act} {x y : List (Nat × List Byte)} (ha : PutsOnly a x) (hl : PutsOnly (acts l) y) :
    PutsOnly (acts (a :: l)) (x ++ y) := fun s hsyn hflip => by
  obtain ⟨w, hw⟩ := ha s hsyn hflip
  obtain ⟨w', hw'⟩ := hl { s with mem := puts x s.mem, written := w } hsyn hflip
  exact ⟨w', by rw [run_acts_cons, hw, hw', puts_append]⟩

theorem putsOnly_hbmPut (a : Nat) (bs : List Byte) (hbs : bs.isEmpty = false) : PutsOnly (hbmPut a bs) [(a, bs)] := fun s hsyn hflip =>
  hbmPut_state s a bs hsyn (hflip _) hbs

theorem putsOnly_onlyIf (c : Bool) {a : Act} {l : List (Nat × List Byte)} (h : PutsOnly a l) : PutsOnly (onlyIf c a) (if c then l else []) := by
  cases c with
  | true => exact h
  | false => exact fun s _ _ => ⟨s.written, rfl⟩

theorem putsOnly_each {α : Type} (l : List α) (A : α → Nat) (B : α → List Byte) (hB : ∀ x ∈ l, (B x).isEmpty = false) :
    PutsOnly (each l fun x => hbmPut (A x) (B x)) (l.map fun x => (A x, B x)) := fun s hsyn hflip => each_hbmPut_state l A B s hsyn hflip hB

/-- Bytes put where nothing later is put read back, whatever was put before. -/
theorem mapRead_puts_last (l l' : List (Nat × List Byte)) (x : Nat × List Byte) (m : List Host.Cell) (h : ∀ y ∈ l', runsApart x y) :
    mapRead memDefault (puts (l ++ x :: l') m) x.1 x.2.length = x.2 := by
  rw [puts_append, puts_cons, mapRead_congr _ (mapPut memDefault (puts l m) x.1 x.2) _ _ fun k h1 h2 => puts_outside _ _ _ fun y hy => ?_]
  · have hself := mapRead_mapPut_self memDefault (puts l m) x.1 0 x.2.length x.2 (by omega)
    rwa [List.drop_zero, List.take_length, Nat.add_zero] at hself
  · rcases h y hy with h | h <;> omega

/-! ### The end of an update (R279) -/

/-- What the end of an update puts into memory before STEP. -/
def endRunsBefore (r : UeRun) : List (Nat × List Byte) :=
  if pgFlash r.rec_ then (List.range (pgChunks r.rec_)).map fun c => (digAddr r.rec_ c + 8, leBytes 6 r.step) else []

/-- What the end of an update puts into memory after STEP. -/
def endRunsAfter (a : Nat) (r : UeRun) : List (Nat × List Byte) :=
  (if pgAvg r.rec_ && r.step % pgAvgEvery r.rec_ == 0 then [(a + 232, leBytes 8 (pgAvgCount r.rec_ + 1))] else []) ++
    [(a + 244, leBytes 4 (min r.nonfin (2 ^ 32 - 1))), (a + 248, leBytes 4 (min r.clamps (2 ^ 32 - 1)))]

theorem endRunsAfter_apart (a : Nat) (r : UeRun) (bs : List Byte) (hbs : bs.length = 8) : ∀ y ∈ endRunsAfter a r, runsApart (a + 224, bs) y := by
  intro y hy
  have h : a + 232 ≤ y.1 := by
    rcases List.mem_append.1 hy with hy | hy
    · split at hy
      · rw [List.mem_singleton.1 hy]
      · exact absurd hy List.not_mem_nil
    · rcases List.mem_cons.1 hy with rfl | hy
      · exact Nat.add_le_add_left (by decide) a
      · rw [List.mem_singleton.1 hy]; exact Nat.add_le_add_left (by decide) a
  exact Or.inl (by simp only [hbs]; omega)

theorem updateEnd_state (s : State) (n : Nat) (r : UeRun) (hcalm : calm s) (hj : (ueSt s n).jobs = []) (hfz : (ueSt s n).freeze = false) :
    ∃ w, (updateEnd n r).run s = (updUe n fun u => { u with run := none }).run ((sendTarget0 (srcOf (updtPg n)) (recLE r.rec_ 136 8)).run
      ((incF UPDT_UCNT 1 n 0).run { s with
        mem := puts (endRunsBefore r ++ (pgAddr s n r.group + 224, leBytes 8 r.step) :: endRunsAfter (pgAddr s n r.group) r) s.mem
        written := w })) := by
  obtain ⟨hsyn, -, hflip⟩ := hcalm
  have hputs := putsOnly_cons (putsOnly_onlyIf (pgFlash r.rec_) (putsOnly_each (List.range (pgChunks r.rec_)) (fun c => digAddr r.rec_ c + 8)
      (fun _ => leBytes 6 r.step) fun _ _ => rfl))
    (putsOnly_cons (putsOnly_hbmPut (pgAddr s n r.group + 224) (leBytes 8 r.step) rfl)
      (putsOnly_cons (putsOnly_onlyIf (pgAvg r.rec_ && r.step % pgAvgEvery r.rec_ == 0)
          (putsOnly_hbmPut (pgAddr s n r.group + 232) (leBytes 8 (pgAvgCount r.rec_ + 1)) rfl))
        (putsOnly_cons (putsOnly_hbmPut (pgAddr s n r.group + 244) (leBytes 4 (min r.nonfin (2 ^ 32 - 1))) rfl)
          (putsOnly_cons (putsOnly_hbmPut (pgAddr s n r.group + 248) (leBytes 4 (min r.clamps (2 ^ 32 - 1))) rfl) putsOnly_nil))))
  obtain ⟨w, hw⟩ := hputs s hsyn hflip
  refine ⟨w, ?_⟩
  rw [run_acts_cons, run_acts_cons, run_acts_cons, run_acts_cons, run_acts_cons, runs_nil] at hw
  rw [updateEnd, runs_look]
  rw [run_acts_cons, run_acts_cons, run_acts_cons, run_acts_cons, run_acts_cons, run_acts_cons, run_acts_cons, run_acts_cons, run_acts_cons, run_acts_cons,
    runs_nil, hw]
  have hmem : (endRunsBefore r ++ (pgAddr s n r.group + 224, leBytes 8 r.step) :: endRunsAfter (pgAddr s n r.group) r) =
      (if pgFlash r.rec_ = true then (List.range (pgChunks r.rec_)).map fun c => (digAddr r.rec_ c + 8, leBytes 6 r.step) else []) ++
      ([(pgAddr s n r.group + 224, leBytes 8 r.step)] ++
      ((if (pgAvg r.rec_ && r.step % pgAvgEvery r.rec_ == 0) = true then [(pgAddr s n r.group + 232, leBytes 8 (pgAvgCount r.rec_ + 1))] else []) ++
      ([(pgAddr s n r.group + 244, leBytes 4 (min r.nonfin (2 ^ 32 - 1)))] ++ ([(pgAddr s n r.group + 248, leBytes 4 (min r.clamps (2 ^ 32 - 1)))] ++ [])))) := rfl
  rw [← hmem]
  generalize hz : (sendTarget0 (srcOf (updtPg n)) (recLE r.rec_ 136 8)).run _ = z
  have hzue : ueSt z n = ueSt s n := by
    rw [← hz]
    exact ueSt_congr _ _ n ((sendTarget0_within _ _).same .ues (by decide) _)
  have hue := ueSt_updUe z n fun u => { u with run := none }
  rw [runs_look, hue, hzue, hfz]
  rw [Bool.false_and, runs_false, ueGo, runs_look, ueNext_stops _ _ _ (Or.inr ?_)]
  rw [hue, hzue]
  exact hj

/-- UPDATE_DONE (R279). -/
theorem updateDone_ends (s : State) (n : Nat) (r : UeRun) (hn : n < 12) (hr : (ueSt s n).run = some r) (hph : r.phase = .finished)
    (hj : (ueSt s n).jobs = []) (hfz : (ueSt s n).freeze = false) (hcalm : calm s) :
    ∃ t, exec (.updateDone n) s = .next t ∧ (ueSt t n).run = none ∧ counted s t UPDT_UCNT n 0 1 ∧
      hbmLE t (pgAddr s n r.group + 224) 8 = r.step % 2 ^ 64 := by
  obtain ⟨w, hw⟩ := updateEnd_state s n r hcalm hj hfz
  have hexec : exec (.updateDone n) s = .next ((updateEnd n r).run s) := by
    change execUpdateDone n s = _
    rw [execUpdateDone, updateDone, withRun, runs_look, hr]
    dsimp only
    rw [hph, run_onlyIf_of_true _ _ (by simp)]
  have hsend : ∀ t, fv ((sendTarget0 (srcOf (updtPg n)) (recLE r.rec_ 136 8)).run t) UPDT_UCNT n 0 = fv t UPDT_UCNT n 0 := fun t =>
    ((sendTarget0_within _ _).regs hdrOr_sent).fv t _ _ _ (not_hdrOr_fldKey UPDT_UCNT n 0 (by decide) (by omega) (by decide) (by decide))
  have hmem : ∀ t, ((sendTarget0 (srcOf (updtPg n)) (recLE r.rec_ 136 8)).run t).mem = t.mem := fun t => (sendTarget0_within _ _).same .mem (by decide) t
  have hsyn : ∀ t, ((sendTarget0 (srcOf (updtPg n)) (recLE r.rec_ 136 8)).run t).syn = t.syn := fun t => (sendTarget0_within _ _).same .syn (by decide) t
  have hupd : ∀ t : State, ((updUe n fun u => { u with run := none }).run t).mem = t.mem ∧ ((updUe n fun u => { u with run := none }).run t).syn = t.syn ∧
      fv ((updUe n fun u => { u with run := none }).run t) UPDT_UCNT n 0 = fv t UPDT_UCNT n 0 := fun _ => ⟨rfl, rfl, rfl⟩
  have hinc : ∀ t : State, ((incF UPDT_UCNT 1 n 0).run t).mem = t.mem ∧ ((incF UPDT_UCNT 1 n 0).run t).syn = t.syn := fun _ => ⟨rfl, rfl⟩
  refine ⟨_, hexec, by rw [hw, ueSt_updUe], ?_, ?_⟩
  · rw [counted, hw, (hupd _).2.2, hsend, fv_incF_self _ UPDT_UCNT _ _ _ ⟨by decide, by decide⟩]
    rfl
  · have hclean : ((updateEnd n r).run s).syn = [] := by rw [hw, (hupd _).2.1, hsyn, (hinc _).2]; exact hcalm.1
    rw [hbmLE_of_mem _ _ _ hclean, hw, (hupd _).1, hmem, (hinc _).1]
    have h := mapRead_puts_last (endRunsBefore r) _ (pgAddr s n r.group + 224, leBytes 8 r.step) s.mem (endRunsAfter_apart (pgAddr s n r.group) r _ (length_leBytes ..))
    rw [length_leBytes] at h
    rw [h, leNat_leBytes]
    rfl

/-! ### Entries of the ledger (R289, R290) -/

/-- Memories are calm; the ledger's base and the engine's state are these. -/
def ledgerQuiet (n base : Nat) (u : Ue) (t : State) : Prop := calm t ∧ fv t UPDT_LEDGER_BASE n = base ∧ ueSt t n = u

section
variable {n base : Nat} {u : Ue}

theorem writeLocal_calm_state (s : State) (a : Nat) (bs : List (Byte × Bool)) (hcalm : calm s) (hmarks : ∀ b ∈ bs, b.2 = false) :
    ∃ m w, (writeLocal a bs).run s = { s with mem := m, written := w } := by
  rw [writeLocal, runs_look]
  split
  · obtain ⟨w, h⟩ := memWrite_calm s _ _ (bs.map Prod.fst) (bs.map Prod.snd) hcalm.1 (hcalm.2.2 _) (by
      rw [Bool.eq_false_iff]
      intro hc
      obtain ⟨b, hb, h⟩ := List.mem_map.1 (List.contains_iff_mem.1 hc)
      rw [hmarks b hb] at h
      cases h)
    exact ⟨_, w, h⟩
  · exact ⟨s.mem, s.written, rfl⟩

theorem ledgerQuiet_writeLocal (a : Nat) (bs : List (Byte × Bool)) (hmarks : ∀ b ∈ bs, b.2 = false) : (writeLocal a bs).Stable (ledgerQuiet n base u) :=
  fun s hs => by
    obtain ⟨m, w, h⟩ := writeLocal_calm_state s a bs hs.1 hmarks
    rw [h]
    exact hs

theorem ledgerQuiet_hbmPut (a : Nat) (bs : List Byte) (hbs : bs.isEmpty = false) : (hbmPut a bs).Stable (ledgerQuiet n base u) := fun s hs => by
  obtain ⟨w, h⟩ := hbmPut_state s a bs hs.1.1 (hs.1.2.2 _) hbs
  rw [h]
  exact hs

theorem ledgerQuiet_touchLocal (a k : Nat) : (touchLocal a k).Stable (ledgerQuiet n base u) := fun s hs => by
  rw [touchLocal_calm s a k hs.1.1 hs.1.2.1]
  exact hs

theorem flashStore_unmarked (a : Nat) (bs : List (Byte × Bool)) (s : State) (hsyn : s.syn = []) (hmarks : ∀ b ∈ bs, b.2 = false) :
    (flashStore a bs).run s = { s with mem := mapPut memDefault s.mem (flashKey a) (bs.map Prod.fst) } := by
  have hnone : ((List.range (bs.length / 8)).filter fun i => ((bs.drop (8 * i)).take 8).any Prod.snd) = [] := by
    refine List.filter_eq_nil_iff.2 fun i _ h => ?_
    obtain ⟨b, hb, h⟩ := List.any_eq_true.1 h
    rw [hmarks b (List.mem_of_mem_drop (List.mem_of_mem_take hb))] at h
    cases h
  have hclear : ∀ v : State, v.syn = [] → (upd (.synClear (flashKey a) bs.length)).run v = v := fun v hv => by
    have : (upd (.synClear (flashKey a) bs.length)).run v = { v with syn := mapClear v.syn (flashKey a) bs.length } := rfl
    rw [this, hv]
    show { v with syn := [] } = v
    rw [← hv]
  have hput : ((upd (.mem (flashKey a) (bs.map Prod.fst))).run s).syn = [] := hsyn
  rw [flashStore, run_acts_cons, run_acts_cons, run_acts_cons, runs_nil, hnone, runs_each_nil, hclear _ hput]
  rfl

theorem ledgerQuiet_flashPage (a : Nat) (bs : List (Byte × Bool)) (hn : n < 12) (hmarks : ∀ b ∈ bs, b.2 = false) :
    (flashPage a bs).Stable (ledgerQuiet n base u) := fun s hs => by
  obtain ⟨hcalm, hbase, hue⟩ := hs
  have hundo : ((upd (.flash { s.flash with undo := (a, flashRead s a bs.length) :: s.flash.undo })).run s).syn = [] := hcalm.1
  rw [flashPage, runs_look, run_acts_cons, run_acts_cons, run_acts_cons, runs_nil, flashStore_unmarked a bs _ hundo hmarks, setWbuf_run]
  have hfv : ∀ (v : Nat) (t : State) (f : Fld) (i k : Nat), f.blk ≠ .flsh → i < 256 → f.off + k * f.stride < 4096 →
      fv ((setF FLSH_WBUF_MIB v).run t) f i k = fv t f i k := fun v t f i k hb hi hk =>
    fv_setF_other t FLSH_WBUF_MIB f v 0 0 i k (by decide) (Or.inl (fldKey_ne_blk f FLSH_WBUF_MIB i 0 k 0 hb hi (by decide) hk (by decide)))
  refine ⟨?_, ?_, ?_⟩
  · exact calm_congr (s := s) rfl (fun f i k hb hi hk => hfv _ _ f i k (by rintro h; rw [h] at hb; revert hb; decide) hi hk) hcalm
  · exact (hfv _ _ UPDT_LEDGER_BASE n 0 (by decide) (by omega) (by decide)).trans hbase
  · exact hue

theorem ledgerQuiet_flashPut (a : Nat) (bs : List (Byte × Bool)) (hn : n < 12) (hmarks : ∀ b ∈ bs, b.2 = false) :
    (flashPut a bs).Stable (ledgerQuiet n base u) :=
  stable_each fun _ _ => ledgerQuiet_flashPage _ _ hn fun b hb => hmarks b (List.mem_of_mem_drop (List.mem_of_mem_take hb))

end

theorem ueRetry_idle (s : State) (n : Nat) (h : (ueSt s n).run = none) : (ueRetry n).run s = s := by
  rw [ueRetry, withRun, runs_look, h]
  exact runs_done s

/-- A head's first byte, just written, says its entry's state. -/
theorem ledger_head (s : State) (n e : Nat) (b : Nat) (bs : List Byte) (hcalm : calm s) (hbs : bs = leBytes 1 b ++ bs.drop 1)
    (t : State) (ht : t = (ldCount n).run ((hbmPut (ldHead s n e) bs).run s)) :
    hbmLE t (ldHead t n e) 1 = b % 256 ∧ ueSt t n = ueSt s n := by
  have hne : bs.isEmpty = false := by rw [hbs]; rfl
  have hlen : 1 ≤ bs.length := by rw [hbs, List.length_append, length_leBytes]; omega
  obtain ⟨w, h⟩ := hbmPut_state s (ldHead s n e) bs hcalm.1 (hcalm.2.2 _) hne
  rw [h, ldCount, runs_look] at ht
  have hhead : ldHead t n e = ldHead s n e := by
    rw [ldHead, ldHead, ht, fv_setF_page _ UPDT_LEDGER_USED UPDT_LEDGER_BASE _ n 0 0 rfl (by decide) (Or.inl (by decide))]
    rfl
  have hsyn : t.syn = [] := by rw [ht]; exact hcalm.1
  have hmem : t.mem = mapPut memDefault s.mem (ldHead s n e) bs := by rw [ht]; rfl
  refine ⟨?_, by rw [ht]; rfl⟩
  have hself := mapRead_mapPut_self memDefault s.mem (ldHead s n e) 0 1 bs (by omega)
  rw [Nat.add_zero, List.drop_zero] at hself
  rw [hbmLE_of_mem _ _ _ hsyn, hmem, hhead, hself, hbs, List.take_append_of_le_length (length_leBytes ..).ge, List.take_of_length_le (length_leBytes ..).le, leNat_leBytes,
    Nat.pow_one]

/-- LEDGER_STAGED (R290). -/
theorem ledgerStaged_marks (s : State) (n e : Nat) (hrun : (ueSt s n).run = none) (hst : ldState s n e = 1) (hno : ldStaged s n e = false)
    (he : e < fv s UPDT_LEDGER_COUNT n) (hfree : ldFind s n (ldGroup s n e) (ldChunk s n e) 3 = none) (hcalm : calm s) :
    ∃ t, exec (.ledgerStaged n e) s = .next t ∧ ldState t n e = 1 ∧ ldStaged t n e = true := by
  have hread : ∀ k, marks (classify false (synAt s k)) = false := fun k => by rw [synAt, hcalm.1]; rfl
  have hslots : ((each (ldSlots s n e) fun x => writeLocal x.2.1 ((List.range x.2.2).map fun i =>
      (rawByte s (flashKey (x.1 + i)), marks (classify false (synAt s (flashKey ((x.1 + i) / 8 * 8)))))))).Stable
        (ledgerQuiet n (fv s UPDT_LEDGER_BASE n) (ueSt s n)) :=
    stable_each fun x _ => ledgerQuiet_writeLocal _ _ fun b hb => by
      obtain ⟨i, -, rfl⟩ := List.mem_map.1 hb
      exact hread _
  have hq := hslots s ⟨hcalm, rfl, rfl⟩
  refine ⟨(ledgerStaged n e).run s, rfl, ?_⟩
  rw [ledgerStaged, runs_look, if_neg (by simp [hst, hno, hfree, he]), run_acts_cons, run_acts_cons, run_acts_cons, runs_nil]
  revert hq
  generalize (each _ _).run s = v
  intro hq
  obtain ⟨hb, hue⟩ := ledger_head v n e (1 + 4 * b2n true) _ hq.1 rfl ((ldSet n e 1 true).run v) (by
    rw [ldSet, runs_look, run_acts_cons, run_acts_cons, runs_nil])
  rw [ueRetry_idle _ _ (by rw [hue, hq.2.2, hrun]), ldState, ldStaged, hb]
  exact ⟨rfl, rfl⟩

/-- LEDGER_WRITEBACK_DONE (R290). -/
theorem ledgerWritten_frees (s : State) (n e : Nat) (hn : n < 12) (hrun : (ueSt s n).run = none) (hst : ldState s n e = 3)
    (he : e < fv s UPDT_LEDGER_COUNT n) (hcalm : calm s) :
    ∃ t, exec (.ledgerWritebackDone n e) s = .next t ∧ ldState t n e = 0 ∧ (ueSt t n).run = none := by
  have hslots : ((each (ldSlots s n e) fun x => acts [touchLocal x.2.1 x.2.2, look fun t =>
      onlyIf (flashWriteCode t x.1 x.2.2 == .ok) (flashPut x.1 (readLocal t x.2.1 x.2.2))])).Stable
        (ledgerQuiet n (fv s UPDT_LEDGER_BASE n) (ueSt s n)) :=
    stable_each fun x _ => stable_cons (ledgerQuiet_touchLocal _ _) (stable_cons (fun t ht => stable_onlyIf (fun _ =>
      ledgerQuiet_flashPut _ _ hn fun b hb => by
        have h := readLocal_unmarked t x.2.1 x.2.2 ht.1.1
        rw [List.any_eq_false] at h
        simpa using h b hb) t ht) stable_nil)
  have hq := hslots s ⟨hcalm, rfl, rfl⟩
  refine ⟨(ledgerWritten n e).run s, rfl, ?_⟩
  rw [ledgerWritten, runs_look, if_neg (by simp [hst, he]), run_acts_cons, run_acts_cons, run_acts_cons, run_acts_cons, runs_nil]
  revert hq
  generalize (each _ _).run s = v
  intro hq
  have hhead : ldHead s n e = ldHead v n e := by rw [ldHead, ldHead, hq.2.1]
  obtain ⟨hb, hue⟩ := ledger_head v n e 0 _ hq.1 rfl ((ldCount n).run ((hbmPut (ldHead s n e) (leBytes 64 0)).run v)) (by rw [hhead])
  rw [ueRetry_idle _ _ (by rw [hue, hq.2.2, hrun]), ldState, hb]
  exact ⟨rfl, by rw [hue, hq.2.2, hrun]⟩

/-- Settles O34, clause by clause: an update that arises, one taken from the window, its end, and the ledger's two. -/
theorem updatesBeginAndEnd : Obligations.UpdatesBeginAndEnd :=
  ⟨updateRun_queued, fun s n g x rest _ hf hty hok hi => updateRun_taken s n g x rest hf hty hok hi,
    fun s n r hn hr hph hj hfz hcalm _ => updateDone_ends s n r hn hr hph hj hfz hcalm,
    fun s n e _ hrun hst hno he hfree hcalm _ => ledgerStaged_marks s n e hrun hst hno he hfree hcalm,
    fun s n e hn hrun hst he hcalm _ => ledgerWritten_frees s n e hn hrun hst he hcalm⟩

end Sys2Proof.Machine
end

section
/-! PROOF. Solver contexts: their state, their enable, GO, and the records of the stream (R208, R209, R220, R223, R224). -/

namespace Sys2Proof.Machine

/-! ### A context's state -/

theorem solvSt_updSolv (s : State) (e g : Nat) (f : Solv → Solv) : solvSt ((updSolv e f).run s) g = if g = e then f (solvSt s g) else solvSt s g := by
  have h : ((updSolv e f).run s).solvs = mapSet solvDefault s.solvs e (f (solvSt s e)) := rfl
  rw [solvSt, h, mapGet_mapSet]
  by_cases hg : g = e
  · rw [if_pos hg, if_pos hg, hg]
  · rw [if_neg hg, if_neg hg]; rfl

theorem solvSt_congr {s t : State} (h : t.solvs = s.solvs) (e : Nat) : solvSt t e = solvSt s e := by unfold solvSt; rw [h]

theorem ctxAt_congr {s t : State} (h : t.solvs = s.solvs) (e c : Nat) : ctxAt t e c = ctxAt s e c := by unfold ctxAt; rw [solvSt_congr h]

theorem ctxAt_updCtx (s : State) (e c d : Nat) (f : SolvCtx → SolvCtx) (hd : d < 32) :
    ctxAt ((updCtx e c f).run s) e d = if d = c then f (ctxAt s e d) else ctxAt s e d := by
  unfold ctxAt updCtx
  rw [solvSt_updSolv, if_pos rfl, getD_modAt 32 _ _ _ _ _ hd]

theorem ctxAt_updCtx_self (s : State) (e c : Nat) (f : SolvCtx → SolvCtx) (hc : c < 32) : ctxAt ((updCtx e c f).run s) e c = f (ctxAt s e c) := by
  rw [ctxAt_updCtx s e c c f hc, if_pos rfl]

/-- A register says nothing of contexts. -/
theorem ctxAt_setF (s : State) (f : Fld) (v i n e c : Nat) : ctxAt ((setF f v i n).run s) e c = ctxAt s e c := rfl

/-- Fields of a context's status register, and of other contexts'. -/
theorem cState_setCState (s : State) (e c d st : Nat) (hst : st < 8) : cState ((setCState e c st).run s) e d = if d = c then st else cState s e d := by
  unfold cState setCState
  by_cases hd : d = c
  · rw [if_pos hd, hd, fv_setF_self _ SOLV_CSTATE _ _ _ ⟨by decide, by decide⟩]
    exact Nat.mod_eq_of_lt hst
  · rw [if_neg hd, fv_setF_page s SOLV_CSTATE SOLV_CSTATE st e c d rfl (by decide) (Or.inl (by simp only [SOLV_CSTATE]; omega))]

/-! ### Rows of a SOLV page -/

/-- A row that writes a SOLV register. -/
theorem exec_solv_row (s : State) (c : Instr) (r : Requester) (e off v : Nat) (d : RegDef) (he : e < 16)
    (hc : rowWrite s c = some (r, solvReg e off, 4, v)) (h : accepted s r (solvReg e off) 4 v = true)
    (hd : regAt .solv off = some (d, off)) (hlo : 0x40 ≤ off) (hhi : off < 4096) (hv : v < 2 ^ 32) :
    exec c s = .next (answered ((solvApply s e off v).run (stored s (solvPg e) d off v)) r (solvReg e off)) ∧ firstErr (solvErrs s e off v) = .ok := by
  have hrow := exec_page_row s c r _ off v (solvPg e) d off hc h (pageOf_solvReg s e off he hhi)
    (raOff_solvReg e off he hhi) hd ⟨hlo, by simp [solvPg], by simp [solvPg]⟩ hv rfl
  rw [hookApply, hookErrs, if_neg (Nat.not_lt.2 hlo), if_neg (Nat.not_lt.2 hlo)] at hrow
  exact hrow

theorem solv_ctlReg (c : Nat) (hc : c < 32) : ∃ d, regAt .solv (0x800 + 0x40 * c) = some (d, 0x800 + 0x40 * c) ∧
    bits (storeMask d .rw) 2 0 = 2 ^ 3 - 1 ∧ bits (storeMask d .w1c) 2 0 = 0 := by
  interval_cases c <;> exact ⟨_, rfl, by decide, by decide⟩

theorem nth_ctl (c : Nat) : nth (0x800 + 0x40 * c) 0x800 0x40 = c := by unfold nth; omega

/-- What a write of a context's control word sets going. -/
theorem solvApply_ctl (s : State) (e c v : Nat) : solvApply s e (0x800 + 0x40 * c) v =
    if cMode s e c != 0 then solvDisable e c else onlyIf (bits v 2 0 != 0) (solvEnable e c) := by
  have hw : (decide (0x800 ≤ 0x800 + 0x40 * c) && (0x800 + 0x40 * c) % 0x40 == 0) = true := by
    rw [Bool.and_eq_true, decide_eq_true_eq, beq_iff_eq]; omega
  rw [solvApply, if_neg (by omega)]
  dsimp only
  rw [hw, nth_ctl]
  rfl

/-- The control word after a write, and the other fields. -/
theorem ctl_stored (s : State) (e c v : Nat) (d : RegDef) (hrw : bits (storeMask d .rw) 2 0 = 2 ^ 3 - 1) (hw1c : bits (storeMask d .w1c) 2 0 = 0) :
    cMode (stored s (solvPg e) d (0x800 + 0x40 * c) v) e c = bits v 2 0 ∧
      ∀ k, k < 32 → cState (stored s (solvPg e) d (0x800 + 0x40 * c) v) e k = cState s e k := by
  constructor
  · refine fv_stored_rw s (solvPg e) d (0x800 + 0x40 * c) v SOLV_CMODE e c (by decide) ?_ hrw hw1c
    show regKey .solv e (0x800 + c * 64) = regKey .solv e (0x800 + 0x40 * c)
    rw [Nat.mul_comm c 64]
  · intro k hk
    refine fv_stored_other s (solvPg e) d (0x800 + 0x40 * c) v SOLV_CSTATE e k ?_
    exact regKey_ne .solv e (x := 0x418 + k * 32) (y := 0x800 + 0x40 * c) (by omega)

/-- A context that goes OFF, or IDLE, leaves the others. -/
theorem solvDisable_leaves (u : State) (e c : Nat) (hc : c < 32) :
    cState ((solvDisable e c).run u) e c = 0 ∧ ctxAt ((solvDisable e c).run u) e c = SolvCtx.init ∧ cMode ((solvDisable e c).run u) e c = cMode u e c := by
  rw [solvDisable, run_acts_cons, run_acts_cons, runs_nil]
  refine ⟨?_, ?_, ?_⟩
  · rw [cState_setCState _ _ _ _ _ (by decide), if_pos rfl]
  · rw [setCState, ctxAt_setF, ctxAt_updCtx_self _ _ _ _ hc]
  · exact fv_setF_page _ SOLV_CSTATE SOLV_CMODE 0 e c c rfl (by decide) (Or.inl (by simp only [SOLV_CSTATE, SOLV_CMODE]; omega))

theorem solvEnable_leaves (u : State) (e c : Nat) (hc : c < 32) :
    let t := (solvEnable e c).run u
    cState t e c = 1 ∧ cMode t e c = cMode u e c ∧ ctxAt t e c = SolvCtx.init ∧ cRaise t e c = 0 ∧ fb t SOLV_A_VALID e c = false ∧
      fb t SOLV_PREV_VALID e c = false ∧ ∀ d, d < 32 → d ≠ c → ctxAt t e d = ctxAt u e d ∧ cState t e d = cState u e d := by
  dsimp only
  rw [solvEnable, run_acts_cons, run_acts_cons, run_acts_cons, run_acts_cons, run_acts_cons, runs_nil]
  have hmode : ∀ (F : Fld) (t : State) (v : Nat), F.blk = .solv → F.off = 0x418 → F.stride = 32 → F.hi < 64 →
      fv ((setF F v e c).run t) SOLV_CMODE e c = fv t SOLV_CMODE e c := fun F t v hb ho hs hf =>
    fv_setF_page t F SOLV_CMODE v e c c hb.symm hf (Or.inl (by rw [ho, hs]; simp only [SOLV_CMODE]; omega))
  have hother : ∀ (F : Fld) (t : State) (v d : Nat), d ≠ c → F.blk = .solv → F.off = 0x418 → F.stride = 32 → F.hi < 64 →
      fv ((setF F v e c).run t) SOLV_CSTATE e d = fv t SOLV_CSTATE e d := fun F t v d hd hb ho hs hf =>
    fv_setF_page t F SOLV_CSTATE v e c d hb.symm hf (Or.inl (by rw [ho, hs]; simp only [SOLV_CSTATE]; omega))
  refine ⟨?_, ?_, ?_, ?_, ?_, ?_, fun d hd hne => ⟨?_, ?_⟩⟩
  · rw [cState_setCState _ _ _ _ _ (by decide), if_pos rfl]
  · unfold cMode setCState
    rw [hmode SOLV_CSTATE _ _ rfl rfl rfl (by decide), hmode SOLV_PREV_VALID _ _ rfl rfl rfl (by decide), hmode SOLV_A_VALID _ _ rfl rfl rfl (by decide),
      hmode SOLV_EXP_RAISE _ _ rfl rfl rfl (by decide)]
    rfl
  · rw [setCState, ctxAt_setF, ctxAt_setF, ctxAt_setF, ctxAt_setF, ctxAt_updCtx_self _ _ _ _ hc]
  · unfold cRaise setCState
    rw [fv_setF_page _ SOLV_CSTATE SOLV_EXP_RAISE _ e c c rfl (by decide) (Or.inr (by decide)),
      fv_setF_page _ SOLV_PREV_VALID SOLV_EXP_RAISE _ e c c rfl (by decide) (Or.inr (by decide)),
      fv_setF_page _ SOLV_A_VALID SOLV_EXP_RAISE _ e c c rfl (by decide) (Or.inr (by decide)), fv_setF_self _ SOLV_EXP_RAISE _ _ _ ⟨by decide, by decide⟩]
    rfl
  · unfold fb setCState
    rw [fv_setF_page _ SOLV_CSTATE SOLV_A_VALID _ e c c rfl (by decide) (Or.inr (by decide)),
      fv_setF_page _ SOLV_PREV_VALID SOLV_A_VALID _ e c c rfl (by decide) (Or.inr (by decide)), fv_setF_self _ SOLV_A_VALID _ _ _ ⟨by decide, by decide⟩]
    rfl
  · unfold fb setCState
    rw [fv_setF_page _ SOLV_CSTATE SOLV_PREV_VALID _ e c c rfl (by decide) (Or.inr (by decide)), fv_setF_self _ SOLV_PREV_VALID _ _ _ ⟨by decide, by decide⟩]
    rfl
  · rw [setCState, ctxAt_setF, ctxAt_setF, ctxAt_setF, ctxAt_setF, ctxAt_updCtx _ _ _ _ _ hd, if_neg hne]
  · unfold cState setCState
    rw [hother SOLV_CSTATE _ _ d hne rfl rfl rfl (by decide), hother SOLV_PREV_VALID _ _ d hne rfl rfl rfl (by decide),
      hother SOLV_A_VALID _ _ d hne rfl rfl rfl (by decide), hother SOLV_EXP_RAISE _ _ d hne rfl rfl rfl (by decide)]
    rfl

/-- SOLV_CONTEXT_ENABLE (R209). -/
theorem solvEnable_row (s : State) (r : Requester) (e c v : Nat) (he : e < 16) (hc : c < 32) (hv : v < 2 ^ 32) (hm : bits v 2 0 ≠ 0)
    (h : accepted s r (solvReg e (0x800 + 0x40 * c)) 4 v = true) :
    ∃ t, exec (.solvContextEnable r e c v) s = .next t ∧ cState t e c = 1 ∧ cMode t e c = bits v 2 0 ∧
      ctxAt t e c = SolvCtx.init ∧ cRaise t e c = 0 ∧ fb t SOLV_A_VALID e c = false ∧ fb t SOLV_PREV_VALID e c = false ∧
      ∀ d, d < 32 → d ≠ c → ctxAt t e d = ctxAt s e d ∧ cState t e d = cState s e d := by
  obtain ⟨d, hd, hrw, hw1c⟩ := solv_ctlReg c hc
  have hrow : rowWrite s (.solvContextEnable r e c v) = some (r, solvReg e (0x800 + 0x40 * c), 4, v) := by
    rw [rowWrite, if_pos ⟨he, hc, hm⟩]
  obtain ⟨hexec, herr⟩ := exec_solv_row s _ r e _ v d he hrow h hd (by omega) (by omega) hv
  have hoff : cMode s e c = 0 := by
    by_contra hon
    rw [solvErrs, if_neg (by omega), if_neg (by omega)] at herr
    dsimp only at herr
    rw [nth_ctl, if_pos (by omega)] at herr
    have := firstErr_when_ok (by decide) (firstErr_append_ok herr).1
    simp [hon, hm] at this
  rw [solvApply_ctl, hoff, if_neg (by decide), run_onlyIf_of_true _ _ (by simpa using hm)] at hexec
  obtain ⟨hmode, hstate⟩ := ctl_stored s e c v d hrw hw1c
  have hctx : ∀ k, ctxAt (stored s (solvPg e) d (0x800 + 0x40 * c) v) e k = ctxAt s e k := fun _ => rfl
  generalize stored s (solvPg e) d (0x800 + 0x40 * c) v = u at hexec hmode hstate hctx
  have hleaves := solvEnable_leaves u e c hc
  dsimp only at hleaves
  generalize (solvEnable e c).run u = t at hexec hleaves
  obtain ⟨h1, h2, h3, h4, h5, h6, h7⟩ := hleaves
  refine ⟨answered t r _, hexec, h1, h2.trans hmode, h3, h4, h5, h6, fun k hk hne => ⟨(h7 k hk hne).1.trans (hctx k), (h7 k hk hne).2.trans (hstate k hk)⟩⟩

/-- SOLV_CONTEXT_DISABLE (R209). -/
theorem solvDisable_row (s : State) (r : Requester) (e c v : Nat) (he : e < 16) (hc : c < 32) (hv : v < 2 ^ 32) (hm : bits v 2 0 = 0)
    (h : accepted s r (solvReg e (0x800 + 0x40 * c)) 4 v = true) (hon : cMode s e c ≠ 0) :
    ∃ t, exec (.solvContextDisable r e c v) s = .next t ∧ cState t e c = 0 ∧ cMode t e c = 0 ∧ ctxAt t e c = SolvCtx.init := by
  obtain ⟨d, hd, hrw, hw1c⟩ := solv_ctlReg c hc
  have hrow : rowWrite s (.solvContextDisable r e c v) = some (r, solvReg e (0x800 + 0x40 * c), 4, v) := by
    rw [rowWrite, if_pos ⟨he, hc, hm⟩]
  obtain ⟨hexec, -⟩ := exec_solv_row s _ r e _ v d he hrow h hd (by omega) (by omega) hv
  rw [solvApply_ctl, if_pos (by simpa using hon)] at hexec
  obtain ⟨hmode, -⟩ := ctl_stored s e c v d hrw hw1c
  obtain ⟨h1, h2, h3⟩ := solvDisable_leaves (stored s (solvPg e) d (0x800 + 0x40 * c) v) e c hc
  exact ⟨_, hexec, h1, h3.trans (hmode.trans hm), h2⟩

end Sys2Proof.Machine
end

section
/-! PROOF. GO, and the records of the solvers' streams (R220, R223, R224). -/

namespace Sys2Proof.Machine

/-! ### GO (R220) -/

theorem goAccept_leaves (u : State) (e : Nat) (r : List Byte) :
    let c := bits (recLE r 1 1) 4 0
    let t := (goAccept e r).run u
    (if (ctxAt u e c).solve.isSome then
         ctxAt t e c = { ctxAt u e c with next := some (parseGo r) } ∧ cState t e c = cState u e c
       else ctxAt t e c = { ctxAt u e c with go := some (parseGo r) } ∧ cState t e c = 2) ∧
      t.fifos = u.fifos ∧ fv t SOLV_STREAM_LEVEL e = fv u SOLV_STREAM_LEVEL e := by
  dsimp only
  have hc : bits (recLE r 1 1) 4 0 < 32 := bits_lt _ 4 0
  rw [goAccept]
  generalize bits (recLE r 1 1) 4 0 = c at hc
  rw [runs_look]
  split
  · refine ⟨⟨ctxAt_updCtx_self _ _ _ _ hc, rfl⟩, rfl, rfl⟩
  · rw [run_acts_cons, run_acts_cons, runs_nil]
    refine ⟨⟨?_, ?_⟩, rfl, ?_⟩
    · rw [setCState, ctxAt_setF, ctxAt_updCtx_self _ _ _ _ hc]
    · rw [cState_setCState _ _ _ _ _ (by decide), if_pos rfl]
    · exact fv_setF_page _ SOLV_CSTATE SOLV_STREAM_LEVEL 2 e c 0 rfl (by decide) (Or.inl (by simp only [SOLV_CSTATE, SOLV_STREAM_LEVEL]; omega))

/-- GO by GO_POST. -/
theorem go_posted (s : State) (e : Nat) (r : Requester) (he : e < 16) (h : accepted s r (solvReg e 0x068) 4 1 = true) :
    ∃ u : State, exec (.goRec e (some r)) s = .next (answered ((goAccept e (stagedRec s SOLV_GO_W e 8)).run u) r (solvReg e 0x068)) ∧
      u.solvs = s.solvs ∧ ∀ c, c < 32 → cState u e c = cState s e c := by
  obtain ⟨d, hd⟩ : ∃ d, regAt .solv 0x068 = some (d, 0x068) := ⟨_, rfl⟩
  have hrow : rowWrite s (.goRec e (some r)) = some (r, solvReg e 0x068, 4, 1) := by rw [rowWrite, if_pos he]
  obtain ⟨hexec, -⟩ := exec_solv_row s _ r e _ 1 d he hrow h hd (by decide) (by decide) (by decide)
  have happ : solvApply s e 0x068 1 = goAccept e (stagedRec s SOLV_GO_W e 8) := by
    rw [solvApply, if_pos rfl]; rfl
  rw [happ] at hexec
  refine ⟨_, hexec, rfl, fun c hc => ?_⟩
  exact fv_stored_other s (solvPg e) d 0x068 1 SOLV_CSTATE e c (regKey_ne .solv e (x := 0x418 + c * 32) (y := 0x068) (by omega))

/-! ### The stream (R223) -/

/-- What the taking of a stream's front record does before the record acts. -/
def solvPop (e : Nat) (w : WinRec) : Act :=
  acts [fifoPop (solvWin e), setLevel e, onlyIf w.marked (consume (solvPg e) (0xFD00_0000_0000 + e * 2 ^ 20))]

theorem solvPop_leaves (s : State) (e : Nat) (w : WinRec) (rest : List WinRec) (he : e < 16) (hf : fifoOf s (solvWin e) = w :: rest) :
    let u := (solvPop e w).run s
    u.solvs = s.solvs ∧ fifoOf u (solvWin e) = rest ∧ fv u SOLV_STREAM_LEVEL e = min 4096 rest.length ∧
      ∀ (f : Fld) (n : Nat), f.blk = .solv → 0x70 ≤ f.off → f.off + n * f.stride < 4096 → fv u f e n = fv s f e n := by
  dsimp only
  have hpop : fifoOf ((fifoPop (solvWin e)).run s) (solvWin e) = rest := by
    have : fifoOf ((fifoPop (solvWin e)).run s) (solvWin e) = (fifoOf s (solvWin e)).drop 1 := mapGet_mapSet_self _ _ _ _
    rw [this, hf]; rfl
  have hnote : (onlyIf w.marked (consume (solvPg e) (0xFD00_0000_0000 + e * 2 ^ 20))).Within memParts farKeys := only_onlyIf _ _ _ fun _ => consume_far _ _
  have hfar : ∀ (f : Fld) (n : Nat) (t : State), f.blk = .solv → 0x40 ≤ f.off → f.off + n * f.stride < 4096 →
      fv ((onlyIf w.marked (consume (solvPg e) (0xFD00_0000_0000 + e * 2 ^ 20))).run t) f e n = fv t f e n := fun f n t hb h0 ho =>
    hnote.fv t f e n fun hc => not_offBlk f e n (by omega) (by omega) ho (hb ▸ offBlk_of_far (by decide) _ hc)
  rw [solvPop, run_acts_cons, run_acts_cons, run_acts_cons, runs_nil, setLevel, runs_look, hpop]
  refine ⟨?_, ?_, ?_, fun f n hb h0 ho => ?_⟩
  · exact hnote.same .solvs (by decide) _
  · rw [← hpop, fifoOf, fifoOf]
    exact congrArg (fun m => mapGet _ m (solvWin e)) (hnote.same .fifos (by decide) _)
  · rw [hfar SOLV_STREAM_LEVEL 0 _ rfl (by decide) (by decide), fv_setF_self _ SOLV_STREAM_LEVEL _ _ _ ⟨by decide, by decide⟩]
    exact Nat.mod_eq_of_lt (by simp only [SOLV_STREAM_LEVEL]; omega)
  · rw [hfar f n _ hb (by omega) ho, fv_setF_page _ SOLV_STREAM_LEVEL f _ e 0 n hb (by decide) (Or.inl (by simp only [SOLV_STREAM_LEVEL]; omega))]
    rfl

/-- A stream's front record of the TYPE asked for, accepted, is taken and acts. -/
theorem solvStream_takes (s : State) (e ty : Nat) (w : WinRec) (rest : List WinRec) (hf : fifoOf s (solvWin e) = w :: rest)
    (hty : srB w.bytes 0 = ty) (hlo : 1 ≤ ty) (hhi : ty ≤ 4) (hidle : ty ≠ 4 → cState s e (srCtx w.bytes) < 3)
    (hok : firstErr (if ty = 4 then goErrs s e w.bytes else srErrs s e w.bytes) = .ok) :
    (solvStream e ty).run s = (if ty = 4 then goAccept e w.bytes else srApply e w).run ((solvPop e w).run s) := by
  subst hty
  rw [solvStream, runs_look, hf, List.length_cons, solvTake, runs_look, hf]
  dsimp only
  rw [hok, if_neg (by omega), if_neg (by simp), if_neg (by intro h; have := hidle h.1; omega), if_neg (by simp), run_acts_cons, run_acts_cons, runs_nil]
  rfl

/-- GO from the stream. -/
theorem go_taken (s : State) (e : Nat) (w : WinRec) (rest : List WinRec) (he : e < 16) (hf : fifoOf s (solvWin e) = w :: rest)
    (hty : srB w.bytes 0 = 4) (hok : firstErr (goErrs s e w.bytes) = .ok) :
    ∃ u : State, exec (.goRec e none) s = .next ((goAccept e w.bytes).run u) ∧ u.solvs = s.solvs ∧ (∀ c, c < 32 → cState u e c = cState s e c) ∧
      fifoOf u (solvWin e) = rest ∧ fv u SOLV_STREAM_LEVEL e = min 4096 rest.length := by
  obtain ⟨h1, h2, h3, h4⟩ := solvPop_leaves s e w rest he hf
  have hrun := solvStream_takes s e 4 w rest hf hty (by decide) (by decide) (fun h => absurd rfl h) (by rw [if_pos rfl]; exact hok)
  rw [if_pos rfl] at hrun
  have hexec : exec (.goRec e none) s = .next ((solvStream e 4).run s) := rfl
  rw [hrun] at hexec
  exact ⟨_, hexec, h1, fun c hc => h4 SOLV_CSTATE c rfl (by decide) (by simp only [SOLV_CSTATE]; omega), h2, h3⟩

/-! ### Data records (R224) -/

theorem rowAt_setRow (x : SolvCtx) (k i j : Nat) (r : BatchRow) :
    rowAt (setRow x k i r) k j = if j = i then r else rowAt x k j := by
  unfold rowAt setRow
  rw [mapGet_mapSet]
  by_cases h : j = i
  · rw [if_pos h, if_pos (by rw [h])]
  · rw [if_neg h, if_neg (by omega)]

theorem rowAt_margin (x : SolvCtx) (m k i : Nat) : rowAt { x with margin := m } k i = rowAt x k i := rfl

/-- Rows from `i0` on change, each by its own function, and a margin is kept. -/
def changeRow (k i0 : Nat) (g : Nat → BatchRow → BatchRow) (m : Nat → Nat) (y : SolvCtx) (j : Nat) : SolvCtx :=
  { setRow y k (i0 + j) (g j (rowAt y k (i0 + j))) with margin := max y.margin (m j) }

theorem rowAt_changeRows (k i0 n : Nat) (g : Nat → BatchRow → BatchRow) (m : Nat → Nat) (x : SolvCtx) (i : Nat) :
    rowAt ((List.range n).foldl (changeRow k i0 g m) x) k (i0 + i) = if i < n then g i (rowAt x k (i0 + i)) else rowAt x k (i0 + i) := by
  induction n with
  | zero => rfl
  | succ n ih =>
    rw [List.range_succ, List.foldl_append, List.foldl_cons, List.foldl_nil, changeRow, rowAt_margin, rowAt_setRow, ih]
    by_cases h : i = n
    · subst h
      rw [if_pos rfl, ih, if_neg (by omega), if_pos (by omega)]
    · rw [if_neg (by omega)]
      by_cases h' : i < n
      · rw [if_pos h', if_pos (by omega)]
      · rw [if_neg h', if_neg (by omega)]

/-- What a VECTOR record does to a row it names. -/
def vectorRow (r : List Byte) (w : WinRec) (xv : Int) (k : Nat) (row : BatchRow) : BatchRow :=
  let row' := match srB r 4 % 4 with
    | 0 => { row with b := some (fxOf xv (v32 (recLE r (8 + 4 * k) 4))).1 }
    | 1 => { row with lo := some (fxOf xv (v32 (recLE r (8 + 4 * k) 4))).1 }
    | _ => { row with hi := some (fxOf xv (v32 (recLE r (8 + 4 * k) 4))).1 }
  { row' with marked := row.marked || w.marked }

section
variable (u : State) (e : Nat) (w : WinRec)

theorem srApply_entry (h1 : srB w.bytes 0 = 1) (h4 : srB w.bytes 4 = 1) :
    (let r := w.bytes
     let c := srCtx r
     let x := ctxAt u e c
     (rowAt (ctxAt ((srApply e w).run u) e c) (srSys r) (srB r 8)).vals = (rowAt x (srSys r) (srB r 8)).vals.set
         ((rowAt x (srSys r) (srB r 8)).cols.findIdx (· == srB r 9)) (fxOf (batchXa u e c x.raise_) (v32 (recLE r 12 4))).1) := by
  dsimp only
  have hc : srCtx w.bytes < 32 := bits_lt _ 4 0
  have hentries : srEntries w.bytes = [(srB w.bytes 8, srB w.bytes 9, recLE w.bytes 12 4)] := by rw [srEntries, h4]; rfl
  rw [srApply, runs_look, ctxAt_updCtx_self _ _ _ _ hc, if_pos h1, hentries, List.foldl_cons, List.foldl_nil, rowAt_margin, rowAt_setRow, if_pos rfl]

theorem srApply_vector (h2 : srB w.bytes 0 = 2) (i : Nat) (hi : i < srB w.bytes 6) :
    (let r := w.bytes
     let c := srCtx r
     let x := ctxAt u e c
     rowAt (ctxAt ((srApply e w).run u) e c) (srSys r) (srB r 5 + i) = vectorRow r w (batchXv u e c x.raise_) i (rowAt x (srSys r) (srB r 5 + i))) := by
  dsimp only
  have hc : srCtx w.bytes < 32 := bits_lt _ 4 0
  have h := rowAt_changeRows (srSys w.bytes) (srB w.bytes 5) (srB w.bytes 6) (vectorRow w.bytes w (batchXv u e (srCtx w.bytes) (ctxAt u e (srCtx w.bytes)).raise_))
    (fun k => (fxOf (batchXv u e (srCtx w.bytes) (ctxAt u e (srCtx w.bytes)).raise_) (v32 (recLE w.bytes (8 + 4 * k) 4))).2) (ctxAt u e (srCtx w.bytes)) i
  rw [if_pos hi] at h
  rw [srApply, runs_look, ctxAt_updCtx_self _ _ _ _ hc, if_neg (by rw [h2]; decide), if_pos h2]
  exact h

theorem srApply_struct (h3 : srB w.bytes 0 = 3) :
    (let r := w.bytes
     let c := srCtx r
     let x := ctxAt u e c
     let row := rowAt (ctxAt ((srApply e w).run u) e c) (srSys r) (srB r 4)
     row.cols = structCols (rowAt x (srSys r) (srB r 4)).cols r ∧ row.changed = true) := by
  dsimp only
  have hc : srCtx w.bytes < 32 := bits_lt _ 4 0
  rw [srApply, runs_look, ctxAt_updCtx_self _ _ _ _ hc, if_neg (by rw [h3]; decide), if_neg (by rw [h3]; decide), rowAt_setRow, if_pos rfl]
  exact ⟨rfl, rfl⟩

theorem srApply_fifos : ((srApply e w).run u).fifos = u.fifos := rfl

end

/-- An accepted data record is taken and acts on the context as it stood. -/
theorem data_taken (s : State) (e ty : Nat) (w : WinRec) (rest : List WinRec) (he : e < 16) (hf : fifoOf s (solvWin e) = w :: rest)
    (hidle : cState s e (srCtx w.bytes) < 3) (hok : firstErr (srErrs s e w.bytes) = .ok) (hty : srB w.bytes 0 = ty) (hlo : 1 ≤ ty) (hhi : ty ≤ 3) :
    ∃ u : State, (solvStream e ty).run s = (srApply e w).run u ∧ fifoOf ((solvStream e ty).run s) (solvWin e) = rest ∧
      ctxAt u e (srCtx w.bytes) = ctxAt s e (srCtx w.bytes) ∧ (∀ k, batchXa u e (srCtx w.bytes) k = batchXa s e (srCtx w.bytes) k) ∧
      ∀ k, batchXv u e (srCtx w.bytes) k = batchXv s e (srCtx w.bytes) k := by
  have hc : srCtx w.bytes < 32 := bits_lt _ 4 0
  obtain ⟨h1, h2, -, h4⟩ := solvPop_leaves s e w rest he hf
  have hrun := solvStream_takes s e ty w rest hf hty hlo (by omega) (fun _ => hidle) (by rw [if_neg (by omega)]; exact hok)
  rw [if_neg (by omega)] at hrun
  refine ⟨_, hrun, ?_, ctxAt_congr h1 e _, fun k => ?_, fun k => ?_⟩
  · rw [hrun, fifoOf, srApply_fifos]
    exact h2
  · rw [batchXa, batchXa, h4 SOLV_XA _ rfl (by decide) (by simp only [SOLV_XA]; omega)]
  · rw [batchXv, batchXv, h4 SOLV_XV _ rfl (by decide) (by simp only [SOLV_XV]; omega)]

/-- Settles O37, clause by clause: the control word, GO posted and taken, and the three data records. -/
theorem contextsAreLoaded : Obligations.ContextsAreLoaded := by
  refine ⟨solvEnable_row, solvDisable_row, fun s e rec_ he => ⟨fun r hr hacc => ?_, fun w rest hf hw hty hok => ?_⟩, fun s e w rest he hf => ?_⟩
  · have hc : bits (recLE rec_ 1 1) 4 0 < 32 := bits_lt _ 4 0
    obtain ⟨u, hexec, hsolvs, hstate⟩ := go_posted s e r he hacc
    obtain ⟨hact, -, -⟩ := goAccept_leaves u e rec_
    rw [ctxAt_congr hsolvs, hstate _ hc] at hact
    rw [← hr] at hexec
    exact ⟨_, hexec, hact⟩
  · subst hw
    have hc : bits (recLE w.bytes 1 1) 4 0 < 32 := bits_lt _ 4 0
    obtain ⟨u, hexec, hsolvs, hstate, hrest, hlevel⟩ := go_taken s e w rest he hf hty hok
    obtain ⟨hact, hfifos, hlev⟩ := goAccept_leaves u e w.bytes
    rw [ctxAt_congr hsolvs, hstate _ hc] at hact
    refine ⟨_, hexec, hact, ?_, hlev.trans hlevel⟩
    rw [fifoOf, hfifos]
    exact hrest
  · dsimp only
    intro hidle hok
    refine ⟨fun h1 => ?_, fun h2 => ?_, fun h3 => ?_⟩
    · obtain ⟨u, hrun, hrest, hctx, hxa, -⟩ := data_taken s e 1 w rest he hf hidle hok h1 (by decide) (by decide)
      refine ⟨_, rfl, hrest, fun h4 => ?_⟩
      have h := srApply_entry u e w h1 h4
      dsimp only at h
      rw [hctx, hxa, ← hrun] at h
      exact h
    · obtain ⟨u, hrun, hrest, hctx, -, hxv⟩ := data_taken s e 2 w rest he hf hidle hok h2 (by decide) (by decide)
      refine ⟨_, rfl, hrest, fun i hi => ?_⟩
      have h := srApply_vector u e w h2 i hi
      dsimp only at h
      rw [hctx, hxv, ← hrun] at h
      rw [show rowAt (ctxAt ((solvStream e 2).run s) e (srCtx w.bytes)) (srSys w.bytes) (srB w.bytes 5 + i) = _ from h]
      unfold vectorRow
      exact ⟨fun hk => by simp only [hk], fun hk => by simp only [hk], fun hk => by simp only [hk]⟩
    · obtain ⟨u, hrun, hrest, hctx, -, -⟩ := data_taken s e 3 w rest he hf hidle hok h3 (by decide) (by decide)
      refine ⟨_, rfl, hrest, ?_⟩
      have h := srApply_struct u e w h3
      dsimp only at h
      rw [hctx, ← hrun] at h
      exact h

end Sys2Proof.Machine
end

section
/-! PROOF. What the start of a solve keeps: the context solves, and runs or delivers (R221, R222, R230). -/

namespace Sys2Proof.Machine

/-! ### Programs that leave the solvers' pages alone -/

theorem solvOff_fabric {a : Act} (h : a.Within fabricParts fabricKeys) : a.Within fabricParts (offBlk .solv) := h.regs (offBlk_of_hdrOr (by decide))

theorem solvOff_far {ps : List Part} {a : Act} (h : a.Within ps farKeys) : a.Within ps (offBlk .solv) := h.regs (offBlk_of_far (by decide))

theorem recordReject_solvOff (p : PageRef) (off : Nat) (c : ErrCode) : (recordReject p off c).Within fabricParts (offBlk .solv) :=
  (recordReject_hdrOr p off c (bs := [.slqp]) (by decide) (by decide) (by decide)).regs (offBlk_of_hdrOr (by decide))

theorem raiseEvt_solvOff (p : PageRef) (m : Nat) : (raiseEvt p m).Within memParts (offBlk .solv) := solvOff_far (raiseEvt_far p m)

/-- A field of a context, or of its engine, beside the header. -/
theorem solv_of_within {ps : List Part} {a : Act} (h : a.Within ps (offBlk .solv)) (s : State) (f : Fld) (e n : Nat) (he : e < 16) (hb : f.blk = .solv)
    (h0 : 0x40 ≤ f.off) (ho : f.off + n * f.stride < 4096) : fv (a.run s) f e n = fv s f e n :=
  h.fv s f e n fun hc => not_offBlk f e n (by omega) (by omega) ho (hb ▸ hc)

theorem cState_of_within {ps : List Part} {a : Act} (h : a.Within ps (offBlk .solv)) (s : State) (e c : Nat) (he : e < 16) (hc : c < 32) :
    cState (a.run s) e c = cState s e c :=
  solv_of_within h s SOLV_CSTATE e c he rfl (by decide) (by simp only [SOLV_CSTATE]; omega)

/-- A status register's context state, after another field of the page is set. -/
theorem cState_setF (s : State) (f : Fld) (v e c n : Nat) (hb : f.blk = .solv) (hf : f.hi < 64)
    (h : f.off + n * f.stride ≠ 0x418 + c * 32 ∨ 2 < f.lo) : cState ((setF f v e n).run s) e c = cState s e c :=
  fv_setF_page s f SOLV_CSTATE v e n c hb.symm hf (h.imp (fun h => by simp only [SOLV_CSTATE]; omega) fun h => Or.inr h)

theorem fldKey_ne_place (f g : Fld) (i j n m : Nat) (hf : f.off + n * f.stride < 4096) (hg : g.off + m * g.stride < 4096)
    (h : f.off + n * f.stride ≠ g.off + m * g.stride) : fldKey f i n ≠ fldKey g j m := by
  unfold fldKey regKey; omega

/-- A register of some page, at another place of it. -/
theorem cState_setF_place (s : State) (f : Fld) (v e i c : Nat) (hc : c < 32) (hf : f.hi < 64) (ho : f.off < 0x400) (hst : f.stride = 0) :
    cState ((setF f v i).run s) e c = cState s e c := by
  refine fv_setF_other s f SOLV_CSTATE v i 0 e c hf (Or.inl (fldKey_ne_place _ _ _ _ _ _ ?_ ?_ ?_))
  · simp only [SOLV_CSTATE]; omega
  · rw [hst]; omega
  · simp only [SOLV_CSTATE, hst]; omega

/-! ### Gangs (R219, R229) -/

theorem mem_cGang (s : State) (e c : Nat) : e ∈ cGang s e c := by
  unfold cGang gangOf
  split
  · exact List.mem_map.2 ⟨0, List.mem_range.2 (by positivity), rfl⟩
  · exact List.mem_singleton_self e

/-- The engines of a gang are taken by a context. -/
def gangTake (e c : Nat) (g : Nat) : Act := acts [updSolv g fun v => { v with run := some (e, c) }, setF SOLV_RUN_VALID 1 g, setF SOLV_RUN_CTX c g]

/-- An engine is free again. -/
def gangLeave (g : Nat) : Act := acts [updSolv g fun v => { v with run := none }, setF SOLV_RUN_VALID 0 g]

/-- What an engine's context says, whoever runs: its hidden state, its state, and the counters. -/
structure SameCtx (e c : Nat) (s t : State) : Prop where
  ctx : ctxAt t e c = ctxAt s e c
  state : cState t e c = cState s e c

theorem SameCtx.refl (e c : Nat) (s : State) : SameCtx e c s s := ⟨rfl, rfl⟩

theorem SameCtx.trans {e c : Nat} {s t u : State} (h : SameCtx e c s t) (h' : SameCtx e c t u) : SameCtx e c s u :=
  ⟨h'.ctx.trans h.ctx, h'.state.trans h.state⟩

theorem ctxAt_updRun (s : State) (g e c : Nat) (r : Option (Nat × Nat)) : ctxAt ((updSolv g fun v => { v with run := r }).run s) e c = ctxAt s e c := by
  unfold ctxAt
  rw [solvSt_updSolv]
  split <;> rfl

theorem gangTake_run (s : State) (e c g : Nat) : (gangTake e c g).run s =
    (setF SOLV_RUN_CTX c g).run ((setF SOLV_RUN_VALID 1 g).run ((updSolv g fun v => { v with run := some (e, c) }).run s)) := by
  rw [gangTake, run_acts_cons, run_acts_cons, run_acts_cons, runs_nil]

theorem gangLeave_run (s : State) (g : Nat) : (gangLeave g).run s =
    (setF SOLV_RUN_VALID 0 g).run ((updSolv g fun v => { v with run := none }).run s) := by
  rw [gangLeave, run_acts_cons, run_acts_cons, runs_nil]

theorem sameCtx_gangTake (s : State) (e c g e' c' : Nat) (hc : c' < 32) : SameCtx e' c' s ((gangTake e c g).run s) := by
  rw [gangTake_run]
  refine ⟨?_, ?_⟩
  · rw [ctxAt_setF, ctxAt_setF, ctxAt_updRun]
  · rw [cState_setF_place _ SOLV_RUN_CTX _ _ _ _ hc (by decide) (by decide) rfl, cState_setF_place _ SOLV_RUN_VALID _ _ _ _ hc (by decide) (by decide) rfl]
    rfl

theorem sameCtx_gangLeave (s : State) (g e c : Nat) (hc : c < 32) : SameCtx e c s ((gangLeave g).run s) := by
  rw [gangLeave_run]
  refine ⟨?_, ?_⟩
  · rw [ctxAt_setF, ctxAt_updRun]
  · rw [cState_setF_place _ SOLV_RUN_VALID _ _ _ _ hc (by decide) (by decide) rfl]
    rfl

theorem sameCtx_each {α : Type} (e c : Nat) (l : List α) (f : α → Act) (h : ∀ x ∈ l, ∀ s, SameCtx e c s ((f x).run s)) (s : State) :
    SameCtx e c s ((each l f).run s) := by
  induction l generalizing s with
  | nil => exact SameCtx.refl e c s
  | cons x l ih =>
    rw [run_each_cons]
    exact (h x List.mem_cons_self s).trans (ih (fun y hy => h y (List.mem_cons_of_mem _ hy)) _)

theorem run_gangTake (s : State) (e c g e' : Nat) : (solvSt ((gangTake e c g).run s) e').run = if e' = g then some (e, c) else (solvSt s e').run := by
  have h : solvSt ((gangTake e c g).run s) e' = solvSt ((updSolv g fun v => { v with run := some (e, c) }).run s) e' := by rw [gangTake_run]; rfl
  rw [h, solvSt_updSolv]
  split <;> rfl

theorem run_gangLeave (s : State) (g e' : Nat) : (solvSt ((gangLeave g).run s) e').run = if e' = g then none else (solvSt s e').run := by
  have h : solvSt ((gangLeave g).run s) e' = solvSt ((updSolv g fun v => { v with run := none }).run s) e' := by rw [gangLeave_run]; rfl
  rw [h, solvSt_updSolv]
  split <;> rfl

/-- A gang taken: its lead engine runs the context. -/
theorem gangTaken_runs (s : State) (e c : Nat) (l : List Nat) (hl : e ∈ l) : (solvSt ((each l (gangTake e c)).run s) e).run = some (e, c) :=
  each_gains (P := fun t => (solvSt t e).run = some (e, c)) e hl
    (fun t => by show (solvSt ((gangTake e c e).run t) e).run = _; rw [run_gangTake, if_pos rfl])
    (fun g _ t ht => by
      have ht : (solvSt t e).run = some (e, c) := ht
      show (solvSt ((gangTake e c g).run t) e).run = _
      rw [run_gangTake, ht, ite_self]) s

/-- A gang free again, where its lead engine is among those freed. -/
theorem gangLeft_idle (s : State) (e : Nat) (l : List Nat) (f : Nat → Act) (hl : e ∈ l) (hf : ∀ g, f g = gangLeave g ∨ f g = .done) (he : f e = gangLeave e) :
    (solvSt ((each l f).run s) e).run = none :=
  each_gains (P := fun t => (solvSt t e).run = none) e hl
    (fun t => by show (solvSt ((f e).run t) e).run = _; rw [he, run_gangLeave, if_pos rfl])
    (fun g _ t ht => by
      have ht : (solvSt t e).run = none := ht
      show (solvSt ((f g).run t) e).run = _
      rcases hf g with h | h
      · rw [h, run_gangLeave, ht, ite_self]
      · rw [h, runs_done, ht]) s

/-! ### The end of a solve (R230) -/

theorem solveEnd_run (s : State) (e c o : Nat) : (solveEnd e c o).run s =
    (each (cGang s e c) fun g => onlyIf ((solvSt s g).run == some (e, c)) (gangLeave g)).run
      ((setCState e c 6).run ((updSolve e c fun v => { v with outcome := some o }).run s)) := by
  rw [solveEnd, runs_look, run_acts_cons, run_acts_cons, run_acts_cons, runs_nil]
  rfl

theorem sameCtx_release (s t : State) (e c : Nat) (hc : c < 32) (l : List Nat) (r : Option (Nat × Nat)) :
    SameCtx e c t ((each l fun g => onlyIf ((solvSt s g).run == r) (gangLeave g)).run t) :=
  sameCtx_each e c _ _ (fun g _ u => by
    cases hr : (solvSt s g).run == r with
    | true => rw [run_onlyIf_of_true _ _ rfl]; exact sameCtx_gangLeave u g e c hc
    | false => rw [runs_false]; exact SameCtx.refl e c u) t

/-- A solve that ends delivers, with its outcome; an engine that ran it is free. -/
theorem solveEnd_leaves (s : State) (e c o : Nat) (hc : c < 32) :
    let t := (solveEnd e c o).run s
    (ctxAt t e c).solve = (ctxAt s e c).solve.map (fun v => { v with outcome := some o }) ∧ cState t e c = 6 ∧
      ((solvSt s e).run = some (e, c) → (solvSt t e).run = none) := by
  dsimp only
  rw [solveEnd_run]
  have hsame := sameCtx_release s ((setCState e c 6).run ((updSolve e c fun v => { v with outcome := some o }).run s)) e c hc (cGang s e c) (some (e, c))
  refine ⟨?_, ?_, fun hrun => ?_⟩
  · rw [hsame.ctx, setCState, ctxAt_setF, updSolve, ctxAt_updCtx_self _ _ _ _ hc]
  · rw [hsame.state, cState_setCState _ _ _ _ _ (by decide), if_pos rfl]
  · refine gangLeft_idle _ e _ _ (mem_cGang s e c) (fun g => ?_) ?_
    · cases h : (solvSt s g).run == some (e, c)
      · exact Or.inr rfl
      · exact Or.inl rfl
    · rw [hrun, beq_self_eq_true]; rfl

/-! ### A context that solves -/

/-- A context solves, and runs on its engine or delivers. -/
def solving (e c : Nat) (s : State) : Prop :=
  (ctxAt s e c).solve.isSome = true ∧ ((cState s e c = 4 ∧ (solvSt s e).run = some (e, c)) ∨ cState s e c = 6)

section
variable {e c : Nat}

theorem solving_of_within (he : e < 16) (hc : c < 32) {ps : List Part} {a : Act} (h : a.Within ps (offBlk .solv)) (hs : Part.solvs ∉ ps) :
    a.Stable (solving e c) := fun s hp => by
  have hsolvs := h.same .solvs hs s
  unfold solving at hp ⊢
  rwa [ctxAt_congr hsolvs, solvSt_congr hsolvs, cState_of_within h s e c he hc]

theorem solving_updCtx (hc : c < 32) (f : SolvCtx → SolvCtx) (hf : ∀ x, x.solve.isSome = true → (f x).solve.isSome = true) :
    (updCtx e c f).Stable (solving e c) := fun s hp => by
  obtain ⟨h1, h2⟩ := hp
  refine ⟨?_, ?_⟩
  · rw [ctxAt_updCtx_self _ _ _ _ hc]; exact hf _ h1
  · have hrun : (solvSt ((updCtx e c f).run s) e).run = (solvSt s e).run := by unfold updCtx; rw [solvSt_updSolv, if_pos rfl]
    rw [hrun]; exact h2

theorem solving_updSolve (hc : c < 32) (f : Solve → Solve) : (updSolve e c f).Stable (solving e c) :=
  solving_updCtx hc _ fun x hx => by simpa using hx

theorem solving_setF (f : Fld) (v n : Nat) (hb : f.blk = .solv) (hf : f.hi < 64) (h : f.off + n * f.stride ≠ 0x418 + c * 32 ∨ 2 < f.lo) :
    (setF f v e n).Stable (solving e c) := fun s hp => by
  unfold solving at hp ⊢
  rw [cState_setF s f v e c n hb hf h]
  exact hp

theorem solving_count (k v : Nat) (hk : k < 9) : (incF SOLV_SCNT v e k).Stable (solving e c) := fun s hp => by
  rw [run_incF]
  exact solving_setF SOLV_SCNT _ k rfl (by decide) (Or.inl (by simp only [SOLV_SCNT]; omega)) s hp

theorem solving_solveEnd (hc : c < 32) (o : Nat) : (solveEnd e c o).Stable (solving e c) := fun s hp => by
  obtain ⟨h1, h2, -⟩ := solveEnd_leaves s e c o hc
  exact ⟨by rw [h1]; simpa using hp.1, Or.inr h2⟩

theorem solving_solveFault (he : e < 16) (hc : c < 32) (code : ErrCode) : (solveFault e c code).Stable (solving e c) :=
  stable_cons (solving_of_within he hc (recordReject_solvOff _ _ _) (by decide)) (stable_cons (solving_solveEnd hc 6) stable_nil)

theorem stable_withFree {P : State → Prop} {k : Nat → Act} (hP : ∀ s, P s → P (Upd.nextFree.apply s)) (h : ∀ v, (k v).Stable P) : (withFree k).Stable P :=
  fun s hs => by
    rw [run_withFree]
    exact h _ _ (hP s hs)

theorem solving_withFree (k : Nat → Act) (h : ∀ v, (k v).Stable (solving e c)) : (withFree k).Stable (solving e c) :=
  stable_withFree (fun _ hs => hs) h

theorem solving_touchLocal (he : e < 16) (hc : c < 32) (a n : Nat) : (touchLocal a n).Stable (solving e c) :=
  solving_of_within he hc (solvOff_far (touchLocal_far a n)) (by decide)

theorem solving_withAnswer (he : e < 16) (hc : c < 32) (a n : Nat) (ans : RemoteAns) {k : RemoteAns → Act} (h : ∀ r, (k r).Stable (solving e c)) :
    (withAnswer a n ans k).Stable (solving e c) :=
  stable_cons (stable_look fun _ => stable_onlyIf fun _ => solving_touchLocal he hc _ _) (stable_cons (stable_look fun _ => h _) stable_nil)

theorem solving_sendRead (he : e < 16) (hc : c < 32) (dst : Nat) (o : Origin) (a n : Nat) : (sendRead dst o a n).Stable (solving e c) :=
  solving_of_within he hc (solvOff_fabric (sendRead_within dst o a n)) (by decide)

theorem solving_readGranules (he : e < 16) (hc : c < 32) (base : Nat) (l : List Nat) (ans : List RemoteAns) (got : Granules)
    {k : Option Granules → List RemoteAns → Act} (h : ∀ g r, (k g r).Stable (solving e c)) : (readGranules base l ans got k).Stable (solving e c) := by
  induction l generalizing ans got with
  | nil => exact h _ _
  | cons p l ih =>
    refine stable_look fun s => stable_cons (stable_onlyIf fun _ => solving_sendRead he hc _ _ _ _)
      (stable_cons (solving_withAnswer he hc _ _ _ fun r => ?_) stable_nil)
    exact stable_ite (h _ _) (ih _ _)

theorem solving_denseSetup (he : e < 16) (hc : c < 32) (gs : Granules) (delta : Nat) (rhs : FxMat) (rhsExp : Int) (rhsMarked : Bool) :
    (denseSetup e c gs delta rhs rhsExp rhsMarked).Stable (solving e c) := by
  refine solving_withFree _ fun fr => stable_look fun s => ?_
  refine stable_cons (solving_updCtx hc _ fun _ hx => hx) (stable_cons (solving_setF SOLV_A_VALID 1 c rfl (by decide) (Or.inr (by decide)))
    (stable_cons (stable_onlyIf fun _ => solving_of_within he hc (solvOff_far (consume_far _ _)) (by decide))
    (stable_cons (stable_onlyIf fun _ => stable_cons (solving_count 8 1 (by decide)) (stable_cons (solving_of_within he hc (raiseEvt_solvOff _ _) (by decide)) stable_nil))
    (stable_cons (stable_look fun t => solving_updSolve hc _) stable_nil))))

theorem solving_readRhs (he : e < 16) (hc : c < 32) (s : State) (ans : List RemoteAns) {k : Option (FxMat × Int × Bool) → Act}
    (h : ∀ r, (k r).Stable (solving e c)) : (readRhs s e c ans k).Stable (solving e c) := by
  unfold readRhs
  split
  · exact h _
  · refine stable_cons (stable_onlyIf fun _ => solving_sendRead he hc _ _ _ _) (stable_cons (solving_withAnswer he hc _ _ _ fun r => ?_) stable_nil)
    exact stable_ite (h _) (h _)

end

end Sys2Proof.Machine
end

section
/-! PROOF. Solves that start, are pre-empted, iterate and meet their deadline (R220 to R229). -/

namespace Sys2Proof.Machine

/-! ### Starts -/

section
variable {e c : Nat} (he : e < 16) (hc : c < 32)
include he hc

theorem solving_startMatrix (full : Bool) (ans : List RemoteAns) : (startMatrix e c full ans).Stable (solving e c) := by
  refine stable_look fun s => ?_
  have hgo : ∀ (ps : List Nat) (rest : List RemoteAns), (readGranules (fv s SOLV_SRC e c) ps rest [] fun gs rest => look fun t =>
      match gs with
      | none => solveFault e c .addrUnmapped
      | some gs => readRhs t e c rest fun r => match r with
        | none => solveFault e c .addrUnmapped
        | some r => denseSetup e c gs (fv s SOLV_DAMP e c) r.1 r.2.1 r.2.2).Stable (solving e c) := fun ps rest => by
    refine solving_readGranules he hc _ _ _ _ fun gs rest => stable_look fun t => ?_
    cases gs with
    | none => exact solving_solveFault he hc _
    | some gs =>
      refine solving_readRhs he hc t rest fun r => ?_
      cases r with
      | none => exact solving_solveFault he hc _
      | some r => exact solving_denseSetup he hc _ _ _ _ _
  refine stable_ite (hgo _ _) (stable_cons (stable_onlyIf fun _ => solving_sendRead he hc _ _ _ _)
    (stable_cons (solving_withAnswer he hc _ _ _ fun r => stable_ite (solving_solveFault he hc _) (hgo _ _)) stable_nil))

theorem solving_startCurv (full : Bool) : (startCurv e c full).Stable (solving e c) := by
  refine stable_seq (stable_look fun s => stable_each fun _ _ => solving_touchLocal he hc _ _) (stable_look fun s => ?_)
  dsimp only
  split
  · exact solving_solveFault he hc _
  · refine stable_ite (solving_solveEnd hc 5) (stable_cons (stable_each fun _ _ => solving_touchLocal he hc _ _)
      (stable_cons (stable_look fun t => ?_) (stable_cons (stable_look fun _ => solving_of_within he hc (solvOff_far (hbmPut_far _ _)) (by decide))
      (stable_cons (stable_look fun _ => solving_denseSetup he hc _ _ _ _ _) stable_nil))))
    split
    · exact stable_onlyIf fun _ => solving_of_within he hc (solvOff_far (consume_far _ _)) (by decide)
    · exact fun _ h => h

omit he hc in
/-- The setup pass of a batch leaves the solve as it is. -/
theorem batchSetup_solve (s : State) (x : SolvCtx) : (batchSetup s e c x).1.solve = x.solve := by
  unfold batchSetup
  dsimp only
  refine List.foldlRecOn _ _ (motive := fun acc : SolvCtx × List Nat × Nat => acc.1.solve = x.solve) rfl fun acc hacc ki _ => ?_
  split <;> exact hacc

omit he in
theorem solving_startBatch : (startBatch e c).Stable (solving e c) := by
  refine solving_withFree _ fun fr => fun s hs => ?_
  rw [runs_look]
  refine stable_cons (a := updCtx e c _) (fun t ht => ?_) (stable_cons (stable_onlyIf fun _ => solving_count 6 _ (by decide)) (stable_cons (solving_updSolve hc _) stable_nil)) s hs
  refine solving_updCtx hc _ (fun y _ => ?_) t ht
  show ((batchSetup s e c (ctxAt s e c)).1).solve.isSome = true
  rw [batchSetup_solve]
  exact hs.1

end

/-! ### The choice among contexts (R229) -/

/-- A context comes before another: its priority is higher, or its deadline no later. -/
def comesFirst (s : State) (e c d : Nat) : Prop :=
  fv s SOLV_PRIO e d ≤ fv s SOLV_PRIO e c ∧ (fv s SOLV_PRIO e d = fv s SOLV_PRIO e c → ctxDeadline s e c ≤ ctxDeadline s e d)

/-- One step of the choice. -/
def chooseContext (s : State) (e : Nat) (best : Option Nat) (c : Nat) : Option Nat :=
  match best with
  | none => some c
  | some b =>
    let pc := fv s SOLV_PRIO e c
    let pb := fv s SOLV_PRIO e b
    if pb < pc ∨ (pb = pc ∧ ctxDeadline s e c < ctxDeadline s e b) then some c else best

theorem chooseContext_first (s : State) (e : Nat) (b c x : Nat) (h : chooseContext s e (some b) c = some x) :
    (x = b ∨ x = c) ∧ comesFirst s e x c ∧ ∀ d, comesFirst s e b d → comesFirst s e x d := by
  unfold chooseContext at h
  unfold comesFirst
  dsimp only at h
  split at h
  next hlt =>
    obtain rfl := Option.some.inj h
    exact ⟨Or.inr rfl, ⟨le_refl _, fun _ => le_refl _⟩, fun d hd => ⟨by omega, by omega⟩⟩
  next hge =>
    obtain rfl := Option.some.inj h
    exact ⟨Or.inl rfl, ⟨by omega, by omega⟩, fun d hd => hd⟩

theorem chooseContexts_first (s : State) (e : Nat) (l : List Nat) (b x : Nat) (h : l.foldl (chooseContext s e) (some b) = some x) :
    (x = b ∨ x ∈ l) ∧ comesFirst s e x b ∧ ∀ d ∈ l, comesFirst s e x d := by
  induction l generalizing b with
  | nil =>
    obtain rfl := Option.some.inj h
    exact ⟨Or.inl rfl, ⟨le_refl _, fun _ => le_refl _⟩, fun d hd => absurd hd List.not_mem_nil⟩
  | cons c l ih =>
    have hsome : ∃ y, chooseContext s e (some b) c = some y := by
      unfold chooseContext
      dsimp only
      split <;> exact ⟨_, rfl⟩
    obtain ⟨y, hy⟩ := hsome
    rw [List.foldl_cons, hy] at h
    obtain ⟨hmem, hyc, hyb⟩ := chooseContext_first s e b c y hy
    obtain ⟨hx, hxy, hl⟩ := ih y h
    have htrans : ∀ d, comesFirst s e y d → comesFirst s e x d := fun d hd => by
      unfold comesFirst at hd hxy ⊢
      exact ⟨by omega, by omega⟩
    refine ⟨?_, htrans b (hyb b ⟨le_refl _, fun _ => le_refl _⟩), fun d hd => ?_⟩
    · rcases hx with rfl | hx
      · rcases hmem with rfl | rfl
        · exact Or.inl rfl
        · exact Or.inr List.mem_cons_self
      · exact Or.inr (List.mem_cons_of_mem _ hx)
    · rcases List.mem_cons.1 hd with rfl | hd
      · exact htrans d hyc
      · exact hl d hd

/-- The context chosen may run, and comes before every other that may. -/
theorem bestContext_first (s : State) (e c : Nat) (h : bestContext s e = some c) :
    (c < 32 ∧ (cState s e c = 3 ∨ cState s e c = 5)) ∧ ∀ d, d < 32 → cState s e d = 3 ∨ cState s e d = 5 → comesFirst s e c d := by
  have hfold : bestContext s e = (rangeF 32 fun c => cState s e c == 3 || cState s e c == 5).foldl (chooseContext s e) none := rfl
  rw [hfold] at h
  have hmem : ∀ d, d ∈ (rangeF 32 fun c => cState s e c == 3 || cState s e c == 5) ↔ d < 32 ∧ (cState s e d = 3 ∨ cState s e d = 5) := fun d => by
    simp [rangeF]
  cases hl : rangeF 32 fun c => cState s e c == 3 || cState s e c == 5 with
  | nil => rw [hl] at h; cases h
  | cons b l =>
    rw [hl, List.foldl_cons] at h
    obtain ⟨hx, hxb, hxl⟩ := chooseContexts_first s e l b c h
    refine ⟨(hmem c).1 ?_, fun d hd hst => ?_⟩
    · rw [hl]
      rcases hx with rfl | hx
      · exact List.mem_cons_self
      · exact List.mem_cons_of_mem _ hx
    · have hin := (hmem d).2 ⟨hd, hst⟩
      rw [hl] at hin
      rcases List.mem_cons.1 hin with rfl | hin
      · exact hxb
      · exact hxl d hin

/-- What passes before a choice leaves hidden states and the counters as they are. -/
theorem wake_leaves (s : State) (e n : Nat) :
    let u := (acts [timeTo n, wakeContexts e]).run s
    u.solvs = s.solvs ∧ ∀ k, k < 9 → fv u SOLV_SCNT e k = fv s SOLV_SCNT e k := by
  dsimp only
  rw [run_acts_cons, run_acts_cons, runs_nil]
  have hw : (wakeContexts e).Within [] (fun k => ∃ c, c < 32 ∧ k = fldKey SOLV_CSTATE e c) := fun t =>
    (only_each_iff _ _ _).2 fun c hc => only_onlyIf _ _ _ fun _ => (within_setF _ _ _ _).2 ⟨c, List.mem_range.1 hc, rfl⟩
  refine ⟨hw.same .solvs (by decide) _, fun k hk => ?_⟩
  rw [hw.fv _ _ _ _ ?_]
  · rfl
  · rintro ⟨c, hc, h⟩
    exact fldKey_ne_off SOLV_SCNT SOLV_CSTATE e k c rfl (by simp only [SOLV_SCNT, SOLV_CSTATE]; omega) h

/-- SOLVE_START (R221, R222, R229). -/
theorem solveStart_starts (s : State) (e n c : Nat) (ans : List RemoteAns) (he : e < 16) :
    (let u := (acts [timeTo n, wakeContexts e]).run s
     bestContext u e = some c → gangFree u e c = true →
     (∀ d, d < 32 → cState u e d = 3 ∨ cState u e d = 5 → fv u SOLV_PRIO e d ≤ fv u SOLV_PRIO e c ∧
       (fv u SOLV_PRIO e d = fv u SOLV_PRIO e c → ctxDeadline u e c ≤ ctxDeadline u e d)) ∧
     ∃ t, exec (.solveStart e n ans) s = .next t ∧ (cState u e c = 3 → (ctxAt t e c).solve.isSome = true) ∧
       ((cState t e c = 4 ∧ (solvSt t e).run = some (e, c)) ∨ (cState u e c = 3 ∧ cState t e c = 6)) ∧
       (cState u e c = 5 → ctxAt t e c = ctxAt s e c ∧ cState t e c = 4)) := by
  intro u hbest hfree
  obtain ⟨⟨hc, hst⟩, hfirst⟩ := bestContext_first u e c hbest
  have hctx : ctxAt u e c = ctxAt s e c := ctxAt_congr (wake_leaves s e n).1 e c
  refine ⟨hfirst, ?_⟩
  let v := (setCState e c 4).run ((each (cGang u e c) (gangTake e c)).run u)
  have hgang := sameCtx_each e c (cGang u e c) (gangTake e c) (fun g _ t => sameCtx_gangTake t e c g e c hc) u
  have hvctx : ctxAt v e c = ctxAt u e c := hgang.ctx
  have hvstate : cState v e c = 4 := by
    show cState ((setCState e c 4).run _) e c = 4
    rw [cState_setCState _ _ _ _ _ (by decide), if_pos rfl]
  have hvrun : (solvSt v e).run = some (e, c) := gangTaken_runs u e c _ (mem_cGang u e c)
  have hexec : exec (.solveStart e n ans) s = .next ((onlyIf (cState u e c == 3) (acts [
          updCtx e c fun x => { x with solve := some solve0 },
          if cMode u e c = 5 then startBatch e c
          else if fv u SOLV_SRC_KIND e c = 1 then startCurv e c ((ctxAt u e c).go.any (·.full)) else startMatrix e c ((ctxAt u e c).go.any (·.full)) ans])).run v) := by
    change execSolveStart e n ans s = _
    have hu : (wakeContexts e).run ((timeTo n).run s) = u := by
      show _ = (acts [timeTo n, wakeContexts e]).run s
      rw [run_acts_cons, run_acts_cons, runs_nil]
    rw [execSolveStart, run_acts_cons, run_acts_cons, runs_nil, solveStart, run_acts_cons, run_acts_cons, runs_nil, hu, runs_look, hbest]
    dsimp only
    rw [if_neg (by rw [hfree]; decide), run_acts_cons, run_acts_cons, run_acts_cons, runs_nil]
    rfl
  refine ⟨_, hexec, ?_⟩
  rcases hst with hst | hst
  · rw [hst, run_onlyIf_of_true _ _ (by rfl), run_acts_cons, run_acts_cons, runs_nil]
    have hbegin : solving e c ((updCtx e c fun x => { x with solve := some solve0 }).run v) := by
      refine ⟨by rw [ctxAt_updCtx_self _ _ _ _ hc]; rfl, Or.inl ⟨hvstate, ?_⟩⟩
      unfold updCtx
      rw [solvSt_updSolv, if_pos rfl]
      exact hvrun
    have hgo : ((if cMode u e c = 5 then startBatch e c
          else if fv u SOLV_SRC_KIND e c = 1 then startCurv e c ((ctxAt u e c).go.any (·.full))
          else startMatrix e c ((ctxAt u e c).go.any (·.full)) ans : Act)).Stable (solving e c) :=
      stable_ite (solving_startBatch hc) (stable_ite (solving_startCurv he hc _) (solving_startMatrix he hc _ _))
    obtain ⟨h1, h2⟩ := hgo _ hbegin
    exact ⟨fun _ => h1, h2.imp_right fun h => ⟨rfl, h⟩, fun h => absurd h (by decide)⟩
  · rw [hst, run_onlyIf_of_false _ _ (by rfl)]
    exact ⟨fun h => absurd h (by decide), Or.inl ⟨hvstate, hvrun⟩, fun _ => ⟨hvctx.trans hctx, hvstate⟩⟩

end Sys2Proof.Machine
end

section
/-! PROOF. Pre-emption, iterations, deadlines and delivery (R227 to R231). -/

namespace Sys2Proof.Machine

/-! ### Pre-emption (R229) -/

theorem gangLeave_off (g : Nat) : (gangLeave g).Within [.solvs] fun k => k = fldKey SOLV_RUN_VALID g 0 := by
  simp [gangLeave, updSolv, Upd.within]

/-- SOLVER_PREEMPT (R229). -/
theorem solvePreempt_stops (s : State) (e n b : Nat) (he : e < 16) (hb : b < 32) :
    (let u := (acts [timeTo n, wakeContexts e]).run s
     (solvSt u e).run = some (e, b) →
     (∃ c, c < 32 ∧ c ≠ b ∧ (cState u e c = 3 ∨ cState u e c = 5) ∧ fv u SOLV_PRIO e b < fv u SOLV_PRIO e c) →
     ∃ t, exec (.solverPreempt e n) s = .next t ∧ (solvSt t e).run = none ∧ cState t e b = 5 ∧ counted s t SOLV_SCNT e 5 1 ∧
       fb t SOLV_RUN_VALID e = false ∧
       (ctxAt t e b).solve = (ctxAt s e b).solve.map fun v => { v with preempted := true }) := by
  intro u hrun hmore
  obtain ⟨hsolvs, hcnt⟩ := wake_leaves s e n
  have hu : (wakeContexts e).run ((timeTo n).run s) = u := by
    show _ = (acts [timeTo n, wakeContexts e]).run s
    rw [run_acts_cons, run_acts_cons, runs_nil]
  let v := (each (cGang u e b) gangLeave).run u
  have hgang : SameCtx e b u v := sameCtx_each e b (cGang u e b) gangLeave (fun g _ t => sameCtx_gangLeave t g e b hb) u
  have hvrun : (solvSt v e).run = none := gangLeft_idle u e _ gangLeave (mem_cGang u e b) (fun _ => Or.inl rfl) rfl
  have hvcnt : fv v SOLV_SCNT e 5 = fv u SOLV_SCNT e 5 := by
    have h : (each (cGang u e b) gangLeave).Within [.solvs] fun k => ∃ g, k = fldKey SOLV_RUN_VALID g 0 :=
      (only_each_iff _ _ _).2 fun g _ => (gangLeave_off g).regs fun k hk => ⟨g, hk⟩
    refine h.fv u _ _ _ ?_
    rintro ⟨g, hk⟩
    exact fldKey_ne_place SOLV_SCNT SOLV_RUN_VALID e g 5 0 (by decide) (by decide) (by decide) hk
  have hvalid : fb v SOLV_RUN_VALID e = false := by
    refine each_gains (P := fun t => fb t SOLV_RUN_VALID e = false) e (mem_cGang u e b) (fun t => ?_) (fun g _ t ht => ?_) u
    · show fb ((gangLeave e).run t) SOLV_RUN_VALID e = false
      rw [gangLeave_run, fb_setF_self _ SOLV_RUN_VALID _ _ _ ⟨by decide, by decide⟩]
      rfl
    · show fb ((gangLeave g).run t) SOLV_RUN_VALID e = false
      rw [gangLeave_run]
      by_cases hg : g = e
      · subst hg
        rw [fb_setF_self _ SOLV_RUN_VALID _ _ _ ⟨by decide, by decide⟩]
        rfl
      · rw [fb_setF_other _ SOLV_RUN_VALID SOLV_RUN_VALID _ g 0 e 0 (by decide) (Or.inl fun h => hg ?_)]
        · exact ht
        · simp only [fldKey, regKey] at h
          omega
  have hexec : exec (.solverPreempt e n) s = .next ((incF SOLV_SCNT 1 e 5).run ((updSolve e b fun v => { v with preempted := true }).run
      ((setCState e b 5).run v))) := by
    change execSolverPreempt e n s = _
    have hany : ((List.range 32).any fun c => (cState u e c == 3 || cState u e c == 5) && !((e, b) == (e, c)) &&
          decide (fv u SOLV_PRIO e b < fv u SOLV_PRIO e c)) = true := by
      obtain ⟨c, hc, hne, hst, hprio⟩ := hmore
      refine List.any_eq_true.2 ⟨c, List.mem_range.2 hc, ?_⟩
      have hne' : ((e, b) == (e, c)) = false := beq_eq_false_iff_ne.2 fun h => hne (Prod.mk.inj h).2.symm
      have hst' : (cState u e c == 3 || cState u e c == 5) = true := by simpa using hst
      rw [hst', hne', decide_eq_true hprio]
      rfl
    rw [execSolverPreempt, run_acts_cons, run_acts_cons, runs_nil, solvePreempt, run_acts_cons, run_acts_cons, runs_nil, hu, runs_look, hrun]
    dsimp only
    rw [if_pos hany, run_acts_cons, run_acts_cons, run_acts_cons, run_acts_cons, runs_nil]
    rfl
  have hlast : ∀ t : State, (solvSt ((incF SOLV_SCNT 1 e 5).run t) e) = solvSt t e ∧ ctxAt ((incF SOLV_SCNT 1 e 5).run t) e b = ctxAt t e b := fun _ => ⟨rfl, rfl⟩
  have hupd : ∀ (t : State) (f : Solve → Solve), (solvSt ((updSolve e b f).run t) e).run = (solvSt t e).run := fun t f => by
    unfold updSolve updCtx; rw [solvSt_updSolv, if_pos rfl]
  have hcst : ∀ t : State, cState ((incF SOLV_SCNT 1 e 5).run t) e b = cState t e b := fun t => by
    rw [run_incF]; exact cState_setF t SOLV_SCNT _ e b 5 rfl (by decide) (Or.inl (by simp only [SOLV_SCNT]; omega))
  refine ⟨_, hexec, ?_, ?_, ?_, ?_, ?_⟩
  · rw [(hlast _).1, hupd]
    exact hvrun
  · rw [hcst]
    show cState ((setCState e b 5).run v) e b = 5
    rw [cState_setCState _ _ _ _ _ (by decide), if_pos rfl]
  · have h5 : fv ((setCState e b 5).run v) SOLV_SCNT e 5 = fv v SOLV_SCNT e 5 :=
      fv_setF_page v SOLV_CSTATE SOLV_SCNT 5 e b 5 rfl (by decide) (Or.inl (by simp only [SOLV_CSTATE, SOLV_SCNT]; omega))
    have h6 : ∀ t, fv ((updSolve e b fun v => { v with preempted := true }).run t) SOLV_SCNT e 5 = fv t SOLV_SCNT e 5 := fun _ => rfl
    rw [counted, fv_incF_self _ SOLV_SCNT _ _ _ ⟨by decide, by decide⟩, h6, h5, hvcnt, hcnt 5 (by decide)]
    rfl
  · have h5 : fb ((setCState e b 5).run v) SOLV_RUN_VALID e = fb v SOLV_RUN_VALID e := by
      unfold fb
      rw [setCState, fv_setF_page v SOLV_CSTATE SOLV_RUN_VALID 5 e b 0 rfl (by decide) (Or.inl (by simp only [SOLV_CSTATE, SOLV_RUN_VALID]; omega))]
    have h6 : ∀ t, fb ((updSolve e b fun v => { v with preempted := true }).run t) SOLV_RUN_VALID e = fb t SOLV_RUN_VALID e := fun _ => rfl
    have h7 : ∀ t, fb ((incF SOLV_SCNT 1 e 5).run t) SOLV_RUN_VALID e = fb t SOLV_RUN_VALID e := fun t => by
      unfold fb
      rw [run_incF, fv_setF_page t SOLV_SCNT SOLV_RUN_VALID _ e 5 0 rfl (by decide) (Or.inl (by decide))]
    rw [h7, h6, h5, hvalid]
  · rw [(hlast _).2, updSolve, ctxAt_updCtx_self _ _ _ _ hb]
    show (ctxAt v e b).solve.map _ = _
    rw [hgang.ctx, ctxAt_congr hsolvs]

/-! ### Iterations (R211 to R214, R227) -/

section
variable {e c : Nat} (hc : c < 32)
include hc

theorem solve_updSolve (s : State) (f : Solve → Solve) : (ctxAt ((updSolve e c f).run s) e c).solve = (ctxAt s e c).solve.map f := by
  rw [updSolve, ctxAt_updCtx_self _ _ _ _ hc]

omit hc in
theorem run_updSolve (s : State) (f : Solve → Solve) : (solvSt ((updSolve e c f).run s) e).run = (solvSt s e).run := by
  unfold updSolve updCtx; rw [solvSt_updSolv, if_pos rfl]

/-- After an iteration the solve has counted it; at its limit it delivers, and its engine is free. -/
def iterated (e c k lim : Nat) (t : State) : Prop :=
  ∃ w, (ctxAt t e c).solve = some w ∧ w.iters = k ∧ (lim ≤ k → cState t e c = 6 ∧ (solvSt t e).run = none)

/-- A solve that has just taken `w` stops as its residual and its limit say. -/
theorem solveStops_iterated (s t : State) (w : Solve) (res : Nat) (hw : (ctxAt t e c).solve = some w) (hrun : (solvSt t e).run = some (e, c)) :
    iterated e c w.iters (fv s SOLV_ITERS e c) ((solveStops s e c w res).run t) := by
  have hend : ∀ (o : Nat) (u : State) (x : Solve), (ctxAt u e c).solve = some x → x.iters = w.iters → (solvSt u e).run = some (e, c) →
      iterated e c w.iters (fv s SOLV_ITERS e c) ((solveEnd e c o).run u) := fun o u x hx hi hr => by
    obtain ⟨h1, h2, h3⟩ := solveEnd_leaves u e c o hc
    rw [hx] at h1
    exact ⟨_, h1, hi, fun _ => ⟨h2, h3 hr⟩⟩
  have hnone : ¬ fv s SOLV_ITERS e c ≤ w.iters → iterated e c w.iters (fv s SOLV_ITERS e c) t := fun hlim =>
    ⟨w, hw, rfl, fun h => absurd h hlim⟩
  unfold solveStops
  split
  · split
    · exact hend _ t w hw rfl hrun
    · split
      · rw [run_acts_cons, run_acts_cons, runs_nil]
        refine hend _ _ { w with iterLimit := true } ?_ rfl ?_
        · rw [solve_updSolve hc, hw]; rfl
        · rw [run_updSolve, hrun]
      next hlim => exact hnone hlim
  · split
    · exact hend _ t w hw rfl hrun
    next hlim => exact hnone hlim

/-- The solve takes what an iteration leaves. -/
theorem solve_taken (s : State) (v w : Solve) (hv : (ctxAt s e c).solve = some v) : (ctxAt ((updSolve e c fun _ => w).run s) e c).solve = some w := by
  rw [solve_updSolve hc, hv]; rfl

theorem taken_iterated (s : State) (v w : Solve) (res : Nat) (hv : (ctxAt s e c).solve = some v) (hrun : (solvSt s e).run = some (e, c))
    (hk : w.iters = v.iters + 1) :
    iterated e c (v.iters + 1) (fv s SOLV_ITERS e c) ((acts [updSolve e c fun _ => w, solveStops s e c w res]).run s) := by
  rw [run_acts_cons, run_acts_cons, runs_nil, ← hk]
  exact solveStops_iterated hc s _ w res (solve_taken hc s v w hv) ((run_updSolve s _).trans hrun)

/-- A warm NEWTON solve that starts again cold is at its limit, or goes on. -/
theorem restart_iterated (s : State) (v w : Solve) (hv : (ctxAt s e c).solve = some v) (hrun : (solvSt s e).run = some (e, c))
    (hk : w.iters = v.iters + 1) :
    iterated e c (v.iters + 1) (fv s SOLV_ITERS e c) ((acts [updSolve e c fun _ => w, incF SOLV_SCNT 1 e 8, raiseEvt (solvPg e) (2 ^ 20),
        onlyIf (decide (fv s SOLV_ITERS e c ≤ v.iters + 1)) (acts [updSolve e c fun u => { u with iterLimit := true },
          solveEnd e c 2])]).run s) := by
  rw [run_acts_cons, run_acts_cons, run_acts_cons, run_acts_cons, runs_nil]
  have hsolvs : ((raiseEvt (solvPg e) (2 ^ 20)).run ((incF SOLV_SCNT 1 e 8).run ((updSolve e c fun _ => w).run s))).solvs =
      ((updSolve e c fun _ => w).run s).solvs := (raiseEvt_far _ _).same .solvs (by decide) _
  generalize (raiseEvt (solvPg e) (2 ^ 20)).run _ = t at hsolvs
  have htw : (ctxAt t e c).solve = some w := by rw [ctxAt_congr hsolvs, solve_taken hc s v w hv]
  have htr : (solvSt t e).run = some (e, c) := by rw [solvSt_congr hsolvs, run_updSolve, hrun]
  by_cases hlim : fv s SOLV_ITERS e c ≤ v.iters + 1
  · rw [run_onlyIf_of_true _ _ (decide_eq_true hlim), run_acts_cons, run_acts_cons, runs_nil]
    obtain ⟨h1, h2, h3⟩ := solveEnd_leaves ((updSolve e c fun u => { u with iterLimit := true }).run t) e c 2 hc
    rw [solve_updSolve hc, htw] at h1
    exact ⟨_, h1, hk, fun _ => ⟨h2, h3 (by rw [run_updSolve, htr])⟩⟩
  · rw [run_onlyIf_of_false _ _ (decide_eq_false hlim)]
    exact ⟨w, htw, hk, fun h => absurd h hlim⟩

omit hc in
theorem takeBest_iters (x : Solve) (r : Nat) (m : FxMat) : (takeBest x r m).iters = x.iters := by
  unfold takeBest
  dsimp only
  split <;> split <;> rfl

theorem iterNewton_iterated (s : State) (v : Solve) (hv : (ctxAt s e c).solve = some v) (hrun : (solvSt s e).run = some (e, c)) :
    iterated e c (v.iters + 1) (fv s SOLV_ITERS e c) ((iterNewton e c v).run s) := by
  rw [iterNewton, runs_look]
  dsimp only
  split
  · rw [takeBest_iters]
    exact restart_iterated hc s v _ hv hrun rfl
  · exact taken_iterated hc s v _ _ hv hrun (takeBest_iters ..)

theorem iterBatch_iterated (s : State) (v : Solve) (hv : (ctxAt s e c).solve = some v) (hrun : (solvSt s e).run = some (e, c)) :
    iterated e c (v.iters + 1) (fv s SOLV_ITERS e c) ((iterBatch e c v).run s) := by
  rw [iterBatch, runs_look]
  exact taken_iterated hc s v _ _ hv hrun rfl

/-- A factorisation or a triangular solve ends with the solve solved. -/
theorem iterDirect_solved (s : State) (v : Solve) (hv : (ctxAt s e c).solve = some v) (hrun : (solvSt s e).run = some (e, c)) :
    ∃ w, (ctxAt ((iterDirect e c v).run s) e c).solve = some w ∧ w.outcome = some 1 ∧ cState ((iterDirect e c v).run s) e c = 6 ∧
      (solvSt ((iterDirect e c v).run s) e).run = none := by
  have hend : ∀ (t : State) (f : Solve → Solve), ctxAt t e c = ctxAt s e c → (solvSt t e).run = (solvSt s e).run →
      ∃ w, (ctxAt ((solveEnd e c 1).run ((updSolve e c f).run t)) e c).solve = some w ∧ w.outcome = some 1 ∧
        cState ((solveEnd e c 1).run ((updSolve e c f).run t)) e c = 6 ∧ (solvSt ((solveEnd e c 1).run ((updSolve e c f).run t)) e).run = none :=
    fun t f hctx hr => by
      obtain ⟨h1, h2, h3⟩ := solveEnd_leaves ((updSolve e c f).run t) e c 1 hc
      rw [solve_updSolve hc, hctx, hv] at h1
      exact ⟨_, h1, rfl, h2, h3 (by rw [run_updSolve, hr, hrun])⟩
  have hcount : ∀ b k, ctxAt ((onlyIf b (incF SOLV_SCNT k e 6)).run s) e c = ctxAt s e c ∧ (solvSt ((onlyIf b (incF SOLV_SCNT k e 6)).run s) e).run = (solvSt s e).run :=
    fun b k => by cases b <;> exact ⟨rfl, rfl⟩
  rw [iterDirect, runs_look]
  dsimp only
  split
  · rw [run_acts_cons, run_acts_cons, runs_nil]
    exact hend s _ rfl rfl
  · rw [run_acts_cons, run_acts_cons, run_acts_cons, runs_nil]
    exact hend _ _ (hcount _ _).1 (hcount _ _).2

/-- SOLVER_ITERATION. -/
theorem solveIterate_iterates (s : State) (v : Solve) (hrun : (solvSt s e).run = some (e, c)) (hst : cState s e c = 4)
    (hv : (ctxAt s e c).solve = some v) :
    ∃ t w, exec (.solverIteration e) s = .next t ∧ (ctxAt t e c).solve = some w ∧
      (cMode s e c = 4 ∨ cMode s e c = 5 → w.iters = v.iters + 1 ∧
        (fv s SOLV_ITERS e c ≤ v.iters + 1 → cState t e c = 6 ∧ (solvSt t e).run = none)) ∧
      (cMode s e c ≠ 4 → cMode s e c ≠ 5 → w.outcome = some 1 ∧ cState t e c = 6 ∧ (solvSt t e).run = none) := by
  have hexec : exec (.solverIteration e) s = .next ((if cMode s e c = 4 then iterNewton e c v
      else if cMode s e c = 5 then iterBatch e c v else iterDirect e c v : Act).run s) := by
    change execSolverIteration e s = _
    rw [execSolverIteration, solveIterate, runs_look, hrun]
    dsimp only
    rw [if_neg (by simp [hst]), hv]
  by_cases h4 : cMode s e c = 4
  · rw [if_pos h4] at hexec
    obtain ⟨w, h1, h2, h3⟩ := iterNewton_iterated hc s v hv hrun
    exact ⟨_, w, hexec, h1, fun _ => ⟨h2, h3⟩, fun h => absurd h4 h⟩
  · rw [if_neg h4] at hexec
    by_cases h5 : cMode s e c = 5
    · rw [if_pos h5] at hexec
      obtain ⟨w, h1, h2, h3⟩ := iterBatch_iterated hc s v hv hrun
      exact ⟨_, w, hexec, h1, fun _ => ⟨h2, h3⟩, fun _ h => absurd h5 h⟩
    · rw [if_neg h5] at hexec
      obtain ⟨w, h1, h2, h3, h6⟩ := iterDirect_solved hc s v hv hrun
      exact ⟨_, w, hexec, h1, fun h => absurd h (by omega), fun _ _ => ⟨h2, h3, h6⟩⟩

/-! ### Deadlines (R228) -/

/-- SOLVER_DEADLINE. -/
theorem solveDeadline_ends (s : State) (n : Nat) (g : SolvGo) (hg : (ctxAt s e c).go = some g) (hno : g.noDeadline = false)
    (hr : reached ((timeTo n).run s) g.deadline = true) (hlo : 2 ≤ cState s e c) (hne : cState s e c ≠ 6) :
    ∃ t v, exec (.solverDeadline e c n) s = .next t ∧ cState t e c = 6 ∧ (ctxAt t e c).solve = some v ∧
      v.outcome = some (if ((ctxAt s e c).solve.any (·.best.isSome)) ∧ (cMode s e c = 4 ∨ cMode s e c = 5) then 2
        else if (ctxAt s e c).prev.isSome then 3 else 4) := by
  let u := (timeTo n).run s
  have hctx : ctxAt u e c = ctxAt s e c := rfl
  have hst : cState u e c = cState s e c := rfl
  have hmode : cMode u e c = cMode s e c := rfl
  let v := (ctxAt s e c).solve.getD solve0
  have hbest : (v.best.isSome && (cMode s e c == 4 || cMode s e c == 5)) =
      decide (((ctxAt s e c).solve.any (·.best.isSome)) ∧ (cMode s e c = 4 ∨ cMode s e c = 5)) := by
    show ((((ctxAt s e c).solve.getD solve0)).best.isSome && _) = _
    cases (ctxAt s e c).solve with
    | none => simp [solve0]
    | some x => simp [beq_eq_decide]
  obtain ⟨h1, h2, -⟩ := solveEnd_leaves ((updCtx e c fun y => { y with solve := some v }).run u) e c
    (if ((ctxAt s e c).solve.any (·.best.isSome)) ∧ (cMode s e c = 4 ∨ cMode s e c = 5) then 2 else if (ctxAt s e c).prev.isSome then 3 else 4) hc
  rw [ctxAt_updCtx_self _ _ _ _ hc] at h1
  refine ⟨_, _, ?_, h2, h1, rfl⟩
  change execSolverDeadline e c n s = _
  rw [execSolverDeadline, run_acts_cons, run_acts_cons, runs_nil, solveDeadline, runs_look]
  show Host.Outcome.next ((match (ctxAt u e c).go with
    | none => Act.done
    | some g => _ : Act).run u) = _
  rw [hctx, hg]
  dsimp only
  rw [hst, hno, hr, if_neg (by simp; omega), run_acts_cons, run_acts_cons, runs_nil]
  rw [hmode]
  show Host.Outcome.next ((solveEnd e c (if (v.best.isSome && (cMode s e c == 4 || cMode s e c == 5)) = true then 2 else if (ctxAt s e c).prev.isSome = true then 3 else 4)).run _) = _
  simp only [hbest, decide_eq_true_eq]
  rfl

end

end Sys2Proof.Machine
end

section
/-! PROOF. A solve's delivery: its output, its status record and its counts (R226, R230, R231). -/

namespace Sys2Proof.Machine

/-- What a delivery's writes may change beside registers. -/
abbrev deliverParts : List Part := .free :: fabricParts ++ memParts

theorem deliver_far {a : Act} (h : a.Within memParts farKeys) : a.Within deliverParts (offBlk .solv) :=
  (solvOff_far h).mono (fun _ hx => List.mem_cons_of_mem _ (List.mem_append_right _ hx)) fun _ hk => hk

theorem deliver_fabric {a : Act} (h : a.Within fabricParts fabricKeys) : a.Within deliverParts (offBlk .solv) :=
  (solvOff_fabric h).mono (fun _ hx => List.mem_cons_of_mem _ (List.mem_append_left _ hx)) fun _ hk => hk

theorem offBlk_fldKey {b : Blk} (f : Fld) (i n : Nat) (hi : i < 256) (ho : f.off + n * f.stride < 4096) (hb : f.blk ≠ b) : offBlk b (fldKey f i n) := by
  obtain ⟨h, -⟩ := fldKey_parts f i n hi ho
  exact Or.inr fun hc => hb (blkNum_inj _ _ (by omega))

theorem refuseExport_off (i addr : Nat) (h : i < 256) : (refuseExport i addr).Within deliverParts (offBlk .solv) :=
  ((refuseExport_within i addr h).regs (offBlk_of_hdrOr (by decide))).mono
    (fun _ hx => List.mem_cons_of_mem _ (List.mem_append_right _ hx)) fun _ hk => hk

theorem putGlobal_off (i a : Nat) (bs : List (Byte × Bool)) (h : i < 256) : (putGlobal i a bs).Within deliverParts (offBlk .solv) := by
  intro s
  refine only_ite (only_onlyIf _ _ _ fun _ => deliver_far (writeLocal_far _ _)) ?_
  simp only [only_acts_cons, only_acts_nil, and_true]
  exact ⟨(only_each_iff _ _ _).2 fun _ _ => refuseExport_off _ _ h, (only_each_iff _ _ _).2 fun _ _ => deliver_fabric (sendWrite_within _ _ _ _)⟩

theorem pendCopy_off (site : Nat) (r : List Byte) (f i : Nat) (h : site < 16) : (pendCopy site r f i).Within deliverParts (offBlk .solv) := by
  intro s
  simp only [only_acts_cons, only_acts_nil, and_true]
  refine ⟨(only_each_iff _ _ _).2 fun p _ => ?_, fun t => deliver_far (hbmPut_far _ _)⟩
  simp only [only_acts_cons, only_acts_nil, and_true]
  exact ⟨deliver_far (touchLocal_far _ _), fun t => deliver_far (writeLocal_far _ _),
    (within_incF _ _ _ _).2 (offBlk_fldKey _ _ _ (by omega) (by decide) (by decide))⟩

theorem deliveryStatus_off (site : Nat) (r : List Byte) (f i st res age imp : Nat) (a b : Bool) (h : site < 16) :
    (deliveryStatus site r f i st res age imp a b).Within deliverParts (offBlk .solv) := by
  simp only [deliveryStatus, only_acts_cons, only_acts_nil, and_true]
  exact ⟨deliver_far (readRecords_far _ _), fun s => deliver_far (hbmPut_far _ _), pendCopy_off _ _ _ _ h⟩

theorem deliverCurv_off (e c o : Nat) (d : Deliv) (p : Bool) : (deliverCurv e c o d p).Within deliverParts (offBlk .solv) := by
  intro s
  refine only_onlyIf _ _ _ fun _ => ?_
  simp only [only_acts_cons, only_acts_nil, and_true]
  exact ⟨only_onlyIf _ _ _ fun _ => deliver_far (writeLocal_far _ _), deliveryStatus_off _ _ _ _ _ _ _ _ _ _ (bits_lt _ 3 0)⟩

/-- What a delivery writes to memory: the output (R226). -/
def deliverOut (s : State) (e c o : Nat) (d : Deliv) (expD : Int) (mark : Bool) : Act :=
  if fv s SOLV_SRC_KIND e c == 1 then deliverCurv e c o d mark
  else onlyIf (decide (o ≤ 3)) (putGlobal (160 + e) (fv s SOLV_OUT e c)
    ((solvOutput s e c d.mat d.xout expD d.rowRes).flatMap fun k => (leBytes 4 k).map fun b => (b, mark)))

/-- Its status record (R231). -/
def deliverRecord (s : State) (e c iters : Nat) (d : Deliv) (fresh : Bool) : Act :=
  let put := fun it => onlyIf (fv s SOLV_STS e c != 0) (putGlobal (160 + e) (fv s SOLV_STS e c)
    ((leBytes 8 d.status ++ leBytes 4 d.residual ++ leBytes 4 d.age ++ leBytes 6 s.press.imp ++
      leBytes 1 (ofInt 8 d.xout) ++ leBytes 1 0 ++ leBytes 4 it ++ leBytes 4 0).map fun b => (b, false)))
  if cMode s e c = 5 && fresh then withFree fun it => put (1 + it % (max 1 iters)) else put d.iter

/-- What a context becomes by a delivery. -/
def delivered (d : Deliv) (imp : Nat) (use : Bool) (y : SolvCtx) : SolvCtx :=
  { y with
    prev := if use then some ⟨d.mat, d.xout, d.rowRes, d.status, d.residual, imp⟩ else y.prev
    solve := none
    go := y.next
    next := none }

/-- A delivery's end: the context waits for its next GO, the target is sent, the event raised. -/
def deliverEnd (s : State) (e c : Nat) (d : Deliv) (g : SolvGo) (margin : Nat) (use : Bool) : List Act := [
  setF SOLV_EXP_RAISE (min 16 (fv s SOLV_EXP_RAISE e c + margin)) e c,
  onlyIf use (setF SOLV_PREV_VALID 1 e c),
  updCtx e c (delivered d s.press.imp use),
  setCState e c (if (ctxAt s e c).next.isSome then 2 else 1),
  sendTarget0 (srcOf (solvPg e)) g.done,
  onlyIf g.evt (raiseEvt (solvPg e) (2 ^ 16))]

/-- Its counts and events. -/
def deliverCounts (e o : Nat) (d : Deliv) (boosts : Nat) : List Act := [
  onlyIf (decide (1 ≤ o) && decide (o ≤ 5)) (incF SOLV_SCNT 1 e (o - 1)),
  onlyIf (bit d.status 4) (acts [incF SOLV_SCNT 1 e 7, raiseEvt (solvPg e) (2 ^ 18)]),
  onlyIf (boosts != 0) (raiseEvt (solvPg e) (2 ^ 19)),
  onlyIf (o == 3 || o == 4) (raiseEvt (solvPg e) (2 ^ 17))]

/-- Its registers. -/
def deliverRegs (s : State) (e c : Nat) (d : Deliv) : List Act := [
  setF SOLV_STATUS d.status e c, setF SOLV_RESIDUAL d.residual e c, setF SOLV_AGE d.age e c, setF SOLV_DELIVERED s.press.imp e c]

theorem deliverOut_off (s : State) (e c o : Nat) (d : Deliv) (x : Int) (m : Bool) (he : e < 16) : (deliverOut s e c o d x m).Within deliverParts (offBlk .solv) :=
  only_ite (deliverCurv_off _ _ _ _ _) (only_onlyIf _ _ _ fun _ => putGlobal_off _ _ _ (by omega))

theorem deliverRecord_off (s : State) (e c k : Nat) (d : Deliv) (fresh : Bool) (he : e < 16) : (deliverRecord s e c k d fresh).Within deliverParts (offBlk .solv) := by
  unfold deliverRecord
  dsimp only
  refine only_ite ((within_withFree _).2 ⟨List.mem_cons_self, fun t => ?_⟩) ?_
  · exact only_onlyIf _ _ _ fun _ => putGlobal_off _ _ _ (by omega)
  · exact only_onlyIf _ _ _ fun _ => putGlobal_off _ _ _ (by omega)

theorem deliver_next (s : State) (e c o : Nat) (g : SolvGo) (v : Solve) (hv : (ctxAt s e c).solve = some v)
    (hg : (ctxAt s e c).go = some g) (ho : v.outcome = some o) (d : Deliv) (hd : delivOf s (ctxAt s e c) v o = d) :
    exec (.solverDelivery e c) s = .next (
      (if fv s SOLV_SRC_KIND e c == 1 && decide (o ≤ 3) &&
          shadowBound s (curvSrc s e c).1 (curvSrc s e c).2.1 (curvSrc s e c).2.2.1 (curvSrc s e c).2.2.2 then incF UPDT_CNT_DELIVERY_WAIT 1 (curvSrc s e c).1
       else acts (deliverOut s e c o d v.expD (decide (o ≤ 2) && v.poison) :: deliverRecord s e c v.iters d (decide (o ≤ 2)) ::
        (deliverRegs s e c d ++ (deliverCounts e o d v.boosts ++ deliverEnd s e c d g v.margin (decide (o ≤ 2) && !v.poison))))).run s) := by
  change execSolverDelivery e c s = _
  rw [execSolverDelivery, solveDeliver, runs_look]
  dsimp only
  rw [hv, hg]
  dsimp only
  rw [ho]
  dsimp only
  rw [hd]
  rfl

end Sys2Proof.Machine
end

section
/-! PROOF. What a solve's delivery leaves (R226, R230, R231). -/

namespace Sys2Proof.Machine

theorem sendTarget0_solvOff (x t : Nat) : (sendTarget0 x t).Within targetParts (offBlk .solv) :=
  ((sendTarget0_within x t).regs hdrOr_sent).regs (offBlk_of_hdrOr (by decide))

section
variable {e c : Nat} (he : e < 16)

/-! ### Registers -/

/-- A register of the engine's page keeps its value. -/
def stays (e : Nat) (f : Fld) (n k : Nat) (t : State) : Prop := fv t f e n = k

section
variable {f : Fld} {n k : Nat} (hb : f.blk = .solv)

include he hb in
theorem stays_within {ps : List Part} {a : Act} (h : a.Within ps (offBlk .solv)) (h0 : 0x40 ≤ f.off) (hp : f.off + n * f.stride < 4096) :
    a.Stable (stays e f n k) := fun s hs => (solv_of_within h s f e n he hb h0 hp).trans hs

include hb in
theorem stays_setF (g : Fld) (v m : Nat) (hg : g.blk = .solv) (hi : g.hi < 64)
    (h : f.off + n * f.stride ≠ g.off + m * g.stride ∨ g.hi < f.lo ∨ f.hi < g.lo) : (setF g v e m).Stable (stays e f n k) :=
  fun s hs => (fv_setF_page s g f v e m n (hb.trans hg.symm) hi h).trans hs

include hb in
theorem stays_incF (g : Fld) (v m : Nat) (hg : g.blk = .solv) (hi : g.hi < 64)
    (h : f.off + n * f.stride ≠ g.off + m * g.stride ∨ g.hi < f.lo ∨ f.hi < g.lo) : (incF g v e m).Stable (stays e f n k) :=
  fun s hs => (fv_incF_page s g f v e m n (hb.trans hg.symm) hi h).trans hs

variable (h0 : 0x40 ≤ f.off) (hp : f.off + n * f.stride < 4096)
include he hb h0 hp

theorem stays_deliverEnd (s : State) (d : Deliv) (g : SolvGo) (m : Nat) (use : Bool) (h : f.off + n * f.stride ≠ 0x418 + c * 32) :
    (acts (deliverEnd s e c d g m use)).Stable (stays e f n k) := by
  refine stable_cons (stays_setF hb SOLV_EXP_RAISE _ _ rfl (by decide) (Or.inl h)) (stable_cons (stable_onlyIf fun _ => ?_)
    (stable_cons (fun _ hs => hs) (stable_cons (stays_setF hb SOLV_CSTATE _ _ rfl (by decide) (Or.inl h))
    (stable_cons (stays_within he hb (sendTarget0_solvOff _ _) h0 hp) (stable_cons (stable_onlyIf fun _ => ?_) stable_nil)))))
  · exact stays_setF hb SOLV_PREV_VALID _ _ rfl (by decide) (Or.inl h)
  · exact stays_within he hb (raiseEvt_solvOff _ _) h0 hp

/-- The counts of a delivery but for its outcome's. -/
theorem stays_deliverTail (o : Nat) (d : Deliv) (b : Nat) (h : f.off + n * f.stride ≠ 0x74 + 7 * 4) :
    (acts (deliverCounts e o d b).tail).Stable (stays e f n k) := by
  have hraise : ∀ x, (raiseEvt (solvPg e) x).Stable (stays e f n k) := fun x => stays_within he hb (raiseEvt_solvOff _ _) h0 hp
  exact stable_cons (stable_onlyIf fun _ => stable_cons (stays_incF hb SOLV_SCNT _ _ rfl (by decide) (Or.inl h)) (stable_cons (hraise _) stable_nil))
    (stable_cons (stable_onlyIf fun _ => hraise _) (stable_cons (stable_onlyIf fun _ => hraise _) stable_nil))

theorem stays_deliverCounts (o : Nat) (d : Deliv) (b : Nat) (h : ∀ m, m < 9 → f.off + n * f.stride ≠ 0x74 + m * 4) :
    (acts (deliverCounts e o d b)).Stable (stays e f n k) := by
  refine stable_cons (stable_onlyIf fun ho => ?_) (stays_deliverTail he hb h0 hp o d b (h 7 (by decide)))
  have ho : 1 ≤ o ∧ o ≤ 5 := by simpa using ho
  exact stays_incF hb SOLV_SCNT _ _ rfl (by decide) (Or.inl (h (o - 1) (by omega)))

end

/-! ### The context -/

/-- The engines' hidden state stays. -/
def sameSolvs (l : List (Nat × Solv)) (t : State) : Prop := t.solvs = l

theorem sameSolvs_of {l : List (Nat × Solv)} {ps : List Part} {ks : Nat → Prop} {a : Act} (h : a.Within ps ks) (hs : Part.solvs ∉ ps) :
    a.Stable (sameSolvs l) := fun s hl => (h.same .solvs hs s).trans hl

theorem sameSolvs_counts (l : List (Nat × Solv)) (o : Nat) (d : Deliv) (b : Nat) : (acts (deliverCounts e o d b)).Stable (sameSolvs l) := by
  have hraise : ∀ x, (raiseEvt (solvPg e) x).Stable (sameSolvs l) := fun x => sameSolvs_of (raiseEvt_solvOff _ _) (by decide)
  exact stable_cons (stable_onlyIf fun _ _ hs => hs) (stable_cons (stable_onlyIf fun _ => stable_cons (fun _ hs => hs) (stable_cons (hraise _) stable_nil))
    (stable_cons (stable_onlyIf fun _ => hraise _) (stable_cons (stable_onlyIf fun _ => hraise _) stable_nil)))

theorem stable_append {P : State → Prop} {l m : List Act} (hl : (acts l).Stable P) (hm : (acts m).Stable P) : (acts (l ++ m)).Stable P :=
  fun s hs => by rw [run_acts_append]; exact hm _ (hl s hs)

/-- What stands before the context is given back leaves it as it is. -/
theorem sameSolvs_before (s : State) (l : List (Nat × Solv)) (o k : Nat) (d : Deliv) (x : Int) (m fresh : Bool) (he : e < 16) (b : Nat) :
    (acts (deliverOut s e c o d x m :: deliverRecord s e c k d fresh :: (deliverRegs s e c d ++ deliverCounts e o d b))).Stable (sameSolvs l) :=
  stable_cons (sameSolvs_of (deliverOut_off _ _ _ _ _ _ _ he) (by decide)) (stable_cons (sameSolvs_of (deliverRecord_off _ _ _ _ _ _ he) (by decide))
    (stable_append (stable_cons (fun _ h => h) (stable_cons (fun _ h => h) (stable_cons (fun _ h => h) (stable_cons (fun _ h => h) stable_nil))))
      (sameSolvs_counts l o d b)))

include he in
/-- The end gives the context its next GO, and its state. -/
theorem deliverEnd_context (hc : c < 32) (s t : State) (d : Deliv) (g : SolvGo) (m : Nat) (use : Bool) :
    ctxAt ((acts (deliverEnd s e c d g m use)).run t) e c = delivered d s.press.imp use (ctxAt t e c) ∧
      cState ((acts (deliverEnd s e c d g m use)).run t) e c = if (ctxAt s e c).next.isSome then 2 else 1 := by
  unfold deliverEnd
  rw [run_acts_cons, run_acts_cons, run_acts_cons, run_acts_cons]
  have hb : ∀ b, ctxAt ((onlyIf b (setF SOLV_PREV_VALID 1 e c)).run ((setF SOLV_EXP_RAISE (min 16 (fv s SOLV_EXP_RAISE e c + m)) e c).run t)) e c = ctxAt t e c :=
    fun b => by cases b <;> rfl
  have hu := ctxAt_updCtx_self ((onlyIf use (setF SOLV_PREV_VALID 1 e c)).run ((setF SOLV_EXP_RAISE (min 16 (fv s SOLV_EXP_RAISE e c + m)) e c).run t)) e c
    (delivered d s.press.imp use) hc
  rw [hb] at hu
  generalize (updCtx e c (delivered d s.press.imp use)).run _ = u at hu
  have hset : ctxAt ((setCState e c (if (ctxAt s e c).next.isSome then 2 else 1)).run u) e c = ctxAt u e c := ctxAt_setF ..
  have hst : cState ((setCState e c (if (ctxAt s e c).next.isSome then 2 else 1)).run u) e c = if (ctxAt s e c).next.isSome then 2 else 1 := by
    rw [cState_setCState _ _ _ _ _ (by split <;> decide), if_pos rfl]
  generalize (setCState e c (if (ctxAt s e c).next.isSome then 2 else 1)).run u = w at hset hst
  have hlast : (acts [sendTarget0 (srcOf (solvPg e)) g.done, onlyIf g.evt (raiseEvt (solvPg e) (2 ^ 16))]).Within (targetParts ++ memParts) (offBlk .solv) := by
    simp only [only_acts_cons, only_acts_nil, and_true]
    exact ⟨(sendTarget0_solvOff _ _).mono (fun _ h => List.mem_append_left _ h) fun _ h => h,
      only_onlyIf _ _ _ fun _ => (raiseEvt_solvOff _ _).mono (fun _ h => List.mem_append_right _ h) fun _ h => h⟩
  exact ⟨(ctxAt_congr (hlast.same .solvs (by decide) w) e c).trans (hset.trans hu), (cState_of_within hlast w e c he hc).trans hst⟩

/-! ### Events -/

theorem pending_sendTarget0 (x y : Nat) (q : PageRef) (i : Nat) : (sendTarget0 x y).Stable fun s => pending s q i :=
  stable_onlyIf fun _ => pending_sendTarget x y q i

/-- The end raises what the GO asks for, and leaves what is pending. -/
theorem pending_deliverEnd (hc : c < 32) (s : State) (d : Deliv) (g : SolvGo) (m : Nat) (use : Bool) (q : PageRef) (i : Nat) :
    (acts (deliverEnd s e c d g m use)).Stable fun t => pending t q i := by
  have hne : (0x418 + c * 32) % 4096 ≠ 0x18 := by omega
  exact stable_cons (pending_setF SOLV_EXP_RAISE _ _ _ hne q i) (stable_cons (stable_onlyIf fun _ => pending_setF SOLV_PREV_VALID _ _ _ hne q i)
    (stable_cons (fun _ h => h) (stable_cons (pending_setF SOLV_CSTATE _ _ _ hne q i) (stable_cons (pending_sendTarget0 _ _ q i)
      (stable_cons (stable_onlyIf fun _ => pending_event _ _ (by decide) q i) stable_nil)))))

theorem deliverEnd_raises (s t : State) (d : Deliv) (g : SolvGo) (m : Nat) (use : Bool) (hg : g.evt = true) :
    pending ((acts (deliverEnd s e c d g m use)).run t) (solvPg e) 16 := by
  unfold deliverEnd
  rw [hg, run_acts_cons, run_acts_cons, run_acts_cons, run_acts_cons, run_acts_cons, run_acts_cons, runs_true, runs_nil]
  exact pending_raiseEvt _ _ _ _ (by decide) (by decide)

theorem deliverCounts_raises (t : State) (o : Nat) (d : Deliv) (b : Nat) (ho : o = 3 ∨ o = 4) :
    pending ((acts (deliverCounts e o d b)).run t) (solvPg e) 17 := by
  have hb : (o == 3 || o == 4) = true := by simpa using ho
  unfold deliverCounts
  rw [hb, run_acts_cons, run_acts_cons, run_acts_cons, run_acts_cons, runs_true, runs_nil]
  exact pending_raiseEvt _ _ _ _ (by decide) (by decide)

end

/-! ### The delivery -/

/-- SOLVER_DELIVERY. -/
theorem solveDeliver_delivers (s : State) (e c o : Nat) (g : SolvGo) (v : Solve) (he : e < 16) (hc : c < 32) (hv : (ctxAt s e c).solve = some v)
    (hg : (ctxAt s e c).go = some g) (ho : v.outcome = some o) :
    (let q := curvSrc s e c
     let waits := fv s SOLV_SRC_KIND e c = 1 ∧ o ≤ 3 ∧ shadowBound s q.1 q.2.1 q.2.2.1 q.2.2.2 = true
     (waits → ∃ t, exec (.solverDelivery e c) s = .next t ∧ t.solvs = s.solvs ∧ counted s t UPDT_CNT_DELIVERY_WAIT q.1 0 1) ∧
     (¬ waits → ∃ t, exec (.solverDelivery e c) s = .next t ∧ (ctxAt t e c).solve = none ∧
       (ctxAt t e c).go = (ctxAt s e c).next ∧ (ctxAt t e c).next = none ∧
       cState t e c = (if (ctxAt s e c).next.isSome then 2 else 1) ∧ fv t SOLV_DELIVERED e c = s.press.imp % 2 ^ 48 ∧
       fv t SOLV_STATUS e c = (delivOf s (ctxAt s e c) v o).status % 2 ^ 64 ∧
       (1 ≤ o → o ≤ 5 → fv t SOLV_SCNT e (o - 1) = min (2 ^ 32 - 1) (fv s SOLV_SCNT e (o - 1) + 1)) ∧
       (3 ≤ o → (ctxAt t e c).prev = (ctxAt s e c).prev) ∧ (o = 3 ∨ o = 4 → pending t (solvPg e) 17) ∧
       (g.evt = true → pending t (solvPg e) 16))) := by
  obtain ⟨d, hd⟩ : ∃ d, delivOf s (ctxAt s e c) v o = d := ⟨_, rfl⟩
  have hexec := deliver_next s e c o g v hv hg ho d hd
  have hcond : ((fv s SOLV_SRC_KIND e c == 1 && decide (o ≤ 3) &&
      shadowBound s (curvSrc s e c).1 (curvSrc s e c).2.1 (curvSrc s e c).2.2.1 (curvSrc s e c).2.2.2) = true) ↔
      fv s SOLV_SRC_KIND e c = 1 ∧ o ≤ 3 ∧ shadowBound s (curvSrc s e c).1 (curvSrc s e c).2.1 (curvSrc s e c).2.2.1 (curvSrc s e c).2.2.2 = true := by
    simp [and_assoc]
  rw [hd]
  refine ⟨fun hw => ?_, fun hw => ?_⟩
  · rw [if_pos (hcond.2 hw)] at hexec
    exact ⟨_, hexec, rfl, fv_incF_self _ UPDT_CNT_DELIVERY_WAIT _ _ _ ⟨by decide, by decide⟩⟩
  rw [if_neg (fun h => hw (hcond.1 h)), run_acts_cons, run_acts_cons, run_acts_append, run_acts_append] at hexec
  have hsolvs : sameSolvs s.solvs _ := sameSolvs_before (c := c) s s.solvs o v.iters d v.expD (decide (o ≤ 2) && v.poison) (decide (o ≤ 2)) he v.boosts s rfl
  rw [run_acts_cons, run_acts_cons, run_acts_append] at hsolvs
  have hcnt : 1 ≤ o → o ≤ 5 → stays e SOLV_SCNT (o - 1) (fv s SOLV_SCNT e (o - 1)) ((acts (deliverRegs s e c d)).run
      ((deliverRecord s e c v.iters d (decide (o ≤ 2))).run ((deliverOut s e c o d v.expD (decide (o ≤ 2) && v.poison)).run s))) := fun h1 h5 => by
    have hp : SOLV_SCNT.off + (o - 1) * SOLV_SCNT.stride < 0x400 := by simp only [SOLV_SCNT]; omega
    have hne : ∀ k, 0x400 ≤ k → SOLV_SCNT.off + (o - 1) * SOLV_SCNT.stride ≠ k := fun k hk => by omega
    refine stable_cons (stays_setF rfl SOLV_STATUS _ _ rfl (by decide) (Or.inl (hne _ (by simp only [SOLV_STATUS]; omega))))
      (stable_cons (stays_setF rfl SOLV_RESIDUAL _ _ rfl (by decide) (Or.inl (hne _ (by simp only [SOLV_RESIDUAL]; omega))))
      (stable_cons (stays_setF rfl SOLV_AGE _ _ rfl (by decide) (Or.inl (hne _ (by simp only [SOLV_AGE]; omega))))
      (stable_cons (stays_setF rfl SOLV_DELIVERED _ _ rfl (by decide) (Or.inl (hne _ (by simp only [SOLV_DELIVERED]; omega)))) stable_nil))) _ ?_
    exact stays_within he rfl (deliverRecord_off _ _ _ _ _ _ he) (by decide) (by omega) _
      (stays_within he rfl (deliverOut_off _ _ _ _ _ _ _ he) (by decide) (by omega) _ rfl)
  generalize (deliverRecord s e c v.iters d (decide (o ≤ 2))).run ((deliverOut s e c o d v.expD (decide (o ≤ 2) && v.poison)).run s) = t1 at hexec hsolvs hcnt
  have hregs : stays e SOLV_STATUS c (d.status % 2 ^ 64) ((acts (deliverRegs s e c d)).run t1) ∧
      stays e SOLV_DELIVERED c (s.press.imp % 2 ^ 48) ((acts (deliverRegs s e c d)).run t1) := by
    unfold deliverRegs
    rw [run_acts_cons, run_acts_cons, run_acts_cons, run_acts_cons, runs_nil]
    refine ⟨?_, fv_setF_self _ SOLV_DELIVERED _ _ _ ⟨by decide, by decide⟩⟩
    exact stays_setF rfl SOLV_DELIVERED _ _ rfl (by decide) (Or.inl (by simp only [SOLV_STATUS, SOLV_DELIVERED]; omega)) _
      (stays_setF rfl SOLV_AGE _ _ rfl (by decide) (Or.inl (by simp only [SOLV_STATUS, SOLV_AGE]; omega)) _
      (stays_setF rfl SOLV_RESIDUAL _ _ rfl (by decide) (Or.inl (by simp only [SOLV_STATUS, SOLV_RESIDUAL]; omega)) _
      (fv_setF_self _ SOLV_STATUS _ _ _ ⟨by decide, by decide⟩)))
  generalize (acts (deliverRegs s e c d)).run t1 = t2 at hexec hsolvs hcnt hregs
  have hplace : ∀ (f : Fld) (k : Nat), f.blk = .solv → (f = SOLV_STATUS ∨ f = SOLV_DELIVERED) → stays e f c k t2 →
      stays e f c k ((acts (deliverEnd s e c d g v.margin (decide (o ≤ 2) && !v.poison))).run ((acts (deliverCounts e o d v.boosts)).run t2)) :=
    fun f k hb hf hk => by
      have hpl : (f.off = 0x400 ∨ f.off = 0x410) ∧ f.stride = 32 := by rcases hf with rfl | rfl <;> decide
      obtain ⟨hoff, hstr⟩ := hpl
      refine stays_deliverEnd he hb (by omega) (by rw [hstr]; omega) s d g _ _ (by rw [hstr]; omega) _ ?_
      exact stays_deliverCounts he hb (by omega) (by rw [hstr]; omega) o d _ (fun m hm => by rw [hstr]; omega) _ hk
  obtain ⟨hctx, hst⟩ := deliverEnd_context he hc s ((acts (deliverCounts e o d v.boosts)).run t2) d g v.margin (decide (o ≤ 2) && !v.poison)
  rw [ctxAt_congr hsolvs] at hctx
  refine ⟨_, hexec, ?_, ?_, ?_, hst, hplace SOLV_DELIVERED _ rfl (Or.inr rfl) hregs.2, hplace SOLV_STATUS _ rfl (Or.inl rfl) hregs.1, fun h1 h5 => ?_, fun h3 => ?_,
    fun h => ?_, deliverEnd_raises _ _ _ _ _ _⟩
  · rw [hctx]; rfl
  · rw [hctx]; rfl
  · rw [hctx]; rfl
  · refine stays_deliverEnd he rfl (by decide) (by simp only [SOLV_SCNT]; omega) s d g _ _ (by simp only [SOLV_SCNT]; omega) _ ?_
    unfold deliverCounts
    have hb : (decide (1 ≤ o) && decide (o ≤ 5)) = true := by simp [h1, h5]
    rw [run_acts_cons, hb, runs_true]
    refine stays_deliverTail he rfl (by decide) (by simp only [SOLV_SCNT]; omega) o d v.boosts (by simp only [SOLV_SCNT]; omega) _ ?_
    refine (fv_incF_self _ SOLV_SCNT _ _ _ ⟨by decide, by decide⟩).trans ?_
    rw [hcnt h1 h5]
    rfl
  · rw [hctx, delivered]
    simp only [decide_eq_false (by omega : ¬ o ≤ 2), Bool.false_and, Bool.false_eq_true, if_false]
  · exact pending_deliverEnd hc _ _ _ _ _ _ _ _ (deliverCounts_raises _ _ _ _ h)

/-- Settles O38: the choice is a maximum among the runnable contexts, a pre-empted gang's engines are freed, an iteration counts itself
and a limit met ends the solve, a deadline ends it with the best it has, and a delivery's registers, counts and events stand at its end. -/
theorem solvesRunToDelivery : Obligations.SolvesRunToDelivery :=
  ⟨fun s e n c ans he => solveStart_starts s e n c ans he, fun s e n b he hb => solvePreempt_stops s e n b he hb,
    fun s _ _ v _ hc hrun hst hv => solveIterate_iterates hc s v hrun hst hv,
    fun s _ _ n g _ hc hg hno hr hlo hne => solveDeadline_ends hc s n g hg hno hr hlo hne,
    fun s e c o g v he hc hv hg ho => solveDeliver_delivers s e c o g v he hc hv hg ho⟩

end Sys2Proof.Machine
end

section
/-! PROOF. Update instructions on the running vector, and program memory (R278 to R287). -/

namespace Sys2Proof.Machine

/-! ### Writes where no fault is armed -/

/-- With no fault armed a write of memory leaves its bytes there, marked or not, and no fault armed. -/
theorem memWrite_unflipped (s : State) (u : MemUnit) (off : Nat) (bs : List Byte) (ms : List Bool) (h : ∀ u, flipArmed s u = false) (v : MemUnit) :
    flipArmed ((memWrite u off bs ms).run s) v = false := by
  rw [run_memWrite, h u]
  split
  · exact h v
  rw [Bool.false_and, runs_false]
  by_cases hv : muIntg v < 256
  · have hkey : ∀ k, k % 4096 = 0x404 → True := fun _ _ => trivial
    refine (flipArmed_congr v ?_).trans (h v)
    rw [(writeMarks_marking s u off bs.length ms).rdKey_of_ne (fun h => h.elim) _ _ fun x hx => ?_]
    · rfl
    · rcases hx with hx | hx
      · have := (fldKey_parts INTG_FLIP_ARMED (muIntg v) 0 hv (by decide)).2
        rw [this] at hx
        exact absurd hx (by decide)
      · have := (fldKey_parts INTG_FLIP_ARMED (muIntg v) 0 hv (by decide)).1
        rw [hx, lostKey_block] at this
        exact absurd this (by decide)
  · exact Bool.eq_false_iff.2 fun ha => hv (muIntg_lt_of_flipArmed _ v ha)

theorem writeLocal_unflipped (s : State) (a : Nat) (bs : List (Byte × Bool)) (h : ∀ u, flipArmed s u = false) (v : MemUnit) :
    flipArmed ((writeLocal a bs).run s) v = false := by
  rw [writeLocal, runs_look]
  split
  · exact memWrite_unflipped s _ _ _ _ h v
  · exact h v

/-- What is written to places that are not memory is lost. -/
theorem writeLocal_places (s : State) (a : Nat) (vs : List (Nat × Bool)) (n : Nat) (h : ∀ u, flipArmed s u = false) :
    ((writeLocal a (vs.flatMap fun v => (leBytes n v.1).map fun b => (b, v.2))).run s).mem = memAfter s.mem (outWrites s [(a, n, vs)]) := by
  have hb : (vs.flatMap fun v => (leBytes n v.1).map fun b => (b, v.2)).map Prod.fst = vs.flatMap fun v => leBytes n v.1 := by
    rw [List.map_flatMap]
    congr 1
    funext v
    rw [List.map_map]
    exact List.map_id _
  unfold outWrites
  cases hp : placeOf s a with
  | mem u off =>
    rw [writeLocal_mem s a _ u off hp (h u), hb]
    simp [hp]
  | _ =>
    rw [writeLocal, runs_look, hp, runs_done]
    simp [hp, memAfter]

theorem memAfter_append (m : List Host.Cell) (l l' : List OpWrite) : memAfter m (l ++ l') = memAfter (memAfter m l) l' := List.foldl_append

theorem outWrites_cons (s : State) (o : Nat × Nat × List (Nat × Bool)) (l : List (Nat × Nat × List (Nat × Bool))) :
    outWrites s (o :: l) = outWrites s [o] ++ outWrites s l := List.filterMap_append (l := [o])

theorem outWrites_same {s t : State} (hb : t.build = s.build) (hu : t.units = s.units) (l : List (Nat × Nat × List (Nat × Bool))) :
    outWrites t l = outWrites s l := by
  unfold outWrites
  simp only [placeOf_same hb hu]

/-- What a vector's end writes (R283). -/
def writeOuts (l : List (Nat × Nat × List (Nat × Bool))) : Act :=
  each l fun o => writeLocal o.1 (o.2.2.flatMap fun v => (leBytes o.2.1 v.1).map fun b => (b, v.2))

theorem writeOuts_far (l : List (Nat × Nat × List (Nat × Bool))) : (writeOuts l).Within memParts farKeys :=
  (only_each_iff _ _ _).2 fun _ _ => writeLocal_far _ _

theorem writeOuts_mem (l : List (Nat × Nat × List (Nat × Bool))) (s : State) (h : ∀ u, flipArmed s u = false) :
    ((writeOuts l).run s).mem = memAfter s.mem (outWrites s l) := by
  induction l generalizing s with
  | nil => rfl
  | cons o l ih =>
    have hw := writeLocal_far o.1 (o.2.2.flatMap fun v => (leBytes o.2.1 v.1).map fun b => (b, v.2))
    have hm := writeLocal_places s o.1 o.2.2 o.2.1 h
    have hf := writeLocal_unflipped s o.1 (o.2.2.flatMap fun v => (leBytes o.2.1 v.1).map fun b => (b, v.2)) h
    rw [writeOuts, run_each_cons]
    refine (ih _ hf).trans ?_
    rw [hm, outWrites_same (hw.build s) (hw.same .units (by decide) s), outWrites_cons s o l, memAfter_append]

/-! ### An instruction -/

theorem ueTouch_calm (s : State) (n : Nat) (ps : List (Nat × Nat)) (h : calm s) : (ueTouch n ps).run s = s := by
  obtain ⟨hsyn, hw, -⟩ := h
  rw [ueTouch, run_acts_cons, run_acts_cons, runs_nil, run_each_same _ _ s fun p _ => touchLocal_calm s _ _ hsyn hw, runs_look]
  have hnone : ps.find? (fun p => (hbmElem s p).2) = none := List.find?_eq_none.2 fun p _ => by
    simp [hbmElem, markedAt, hsyn]
  split
  · rw [hnone, runs_done]
  · rfl

/-- An event's counts, saturating. -/
theorem fv_counts (s : State) (c : Bool) (f : Fld) (n k v : Nat) (hf : f.ok) (h32 : f.hi + 1 - f.lo = 32) (hv : c = false → v = 0) :
    fv ((onlyIf c (incF f v n k)).run s) f n k = min (2 ^ 32 - 1) (fv s f n k + v) := by
  have hlt := fv_lt s f n k
  rw [h32] at hlt
  cases c with
  | true => rw [runs_true, fv_incF_self _ f _ _ _ hf, h32]; rfl
  | false => rw [runs_false, hv rfl]; omega

/-- The counts of an instruction. -/
def ueCounts (n : Nat) (q v : UeRun) : Act := acts [
  onlyIf (decide (q.nonfin < v.nonfin)) (acts [incF UPDT_UCNT (v.nonfin - q.nonfin) n 2, raiseEvt (updtPg n) (2 ^ 16)]),
  onlyIf (decide (q.clamps < v.clamps)) (incF UPDT_UCNT (v.clamps - q.clamps) n 1)]

theorem raiseEvt_slqp (p : PageRef) (m : Nat) : (raiseEvt p m).Within [.events, .out] (hdrOr [.slqp]) :=
  raiseEvt_hdrOr p m (by decide) (by decide) (by decide)

theorem ueCounts_within (n : Nat) (q v : UeRun) :
    (ueCounts n q v).Within [.events, .out] fun k => hdrOr [.slqp] k ∨ ∃ i, i < 3 ∧ k = fldKey UPDT_UCNT n i := by
  simp only [ueCounts, only_acts_cons, only_acts_nil, and_true]
  refine ⟨only_onlyIf _ _ _ fun _ => ?_, only_onlyIf _ _ _ fun _ => (within_incF _ _ _ _).2 (Or.inr ⟨1, by decide, rfl⟩)⟩
  simp only [only_acts_cons, only_acts_nil, and_true]
  exact ⟨(within_incF _ _ _ _).2 (Or.inr ⟨2, by decide, rfl⟩), (raiseEvt_slqp _ _).regs fun _ => Or.inl⟩

theorem not_far_updt (f : Fld) (n k : Nat) (hb : f.blk = .updt) (hn : n < 256) (h0 : 0x40 ≤ f.off) (ho : f.off + k * f.stride < 4096) :
    ¬ farKeys (fldKey f n k) := by
  obtain ⟨h1, h2⟩ := fldKey_parts f n k hn ho
  rintro (h | h)
  · omega
  · rw [h1, hb] at h
    exact absurd h (by decide)

theorem ueCounts_counted (s : State) (n : Nat) (q v : UeRun) (hn : n < 12) :
    counted s ((ueCounts n q v).run s) UPDT_UCNT n 2 (v.nonfin - q.nonfin) ∧ counted s ((ueCounts n q v).run s) UPDT_UCNT n 1 (v.clamps - q.clamps) := by
  have hraise : ∀ (t : State) (c : Bool) (k : Nat), k < 3 → fv ((onlyIf c (raiseEvt (updtPg n) (2 ^ 16))).run t) UPDT_UCNT n k = fv t UPDT_UCNT n k := fun t c k hk => by
    have hw : (onlyIf c (raiseEvt (updtPg n) (2 ^ 16))).Within memParts farKeys := only_onlyIf _ _ _ fun _ => raiseEvt_far _ _
    refine hw.fv t _ _ _ ?_
    exact not_far_updt UPDT_UCNT n k rfl (by omega) (by decide) (by simp only [UPDT_UCNT]; omega)
  have hsplit : (ueCounts n q v).run s = (onlyIf (decide (q.clamps < v.clamps)) (incF UPDT_UCNT (v.clamps - q.clamps) n 1)).run
      ((onlyIf (decide (q.nonfin < v.nonfin)) (raiseEvt (updtPg n) (2 ^ 16))).run
        ((onlyIf (decide (q.nonfin < v.nonfin)) (incF UPDT_UCNT (v.nonfin - q.nonfin) n 2)).run s)) := by
    rw [ueCounts, run_acts_cons, run_acts_cons, runs_nil]
    cases decide (q.nonfin < v.nonfin) with
    | true => rw [runs_true, runs_true, runs_true, run_acts_cons, run_acts_cons, runs_nil]
    | false => rw [runs_false, runs_false, runs_false]
  have hother : ∀ (t : State) (c : Bool) (x k l : Nat), k ≠ l → fv ((onlyIf c (incF UPDT_UCNT x n l)).run t) UPDT_UCNT n k = fv t UPDT_UCNT n k := fun t c x k l hkl => by
    cases c with
    | true =>
      rw [runs_true]
      exact fv_incF_page t UPDT_UCNT UPDT_UCNT x n l k rfl (by decide) (Or.inl (by simp only [UPDT_UCNT]; omega))
    | false => rfl
  rw [hsplit]
  refine ⟨?_, ?_⟩
  · rw [counted, hother _ _ _ _ _ (by decide), hraise _ _ _ (by decide), fv_counts _ _ _ _ _ _ ⟨by decide, by decide⟩ rfl]
    intro h; have := of_decide_eq_false h; omega
  · rw [counted, fv_counts _ _ _ _ _ _ ⟨by decide, by decide⟩ rfl, hraise _ _ _ (by decide), hother _ _ _ _ _ (by decide)]
    intro h; have := of_decide_eq_false h; omega

theorem ueCounts_flip (n : Nat) (hn : n < 12) (q v : UeRun) (s : State) (hcalm : calm s) (u : MemUnit) : flipArmed ((ueCounts n q v).run s) u = false := by
  have hw := ueCounts_within n q v
  by_cases hu : muIntg u < 256
  · refine (flipArmed_congr u ?_).trans (hcalm.2.2 u)
    refine hw.rdKey s _ ?_
    rintro (h | ⟨i, hi, h⟩)
    · exact not_hdrOr_fldKey INTG_FLIP_ARMED _ 0 (by decide) hu (by decide) (by decide) h
    · exact fldKey_ne_blk INTG_FLIP_ARMED UPDT_UCNT _ n 0 i (by decide) hu (by omega) (by decide) (by simp only [UPDT_UCNT]; omega) h
  · exact Bool.eq_false_iff.2 fun ha => hu (muIntg_lt_of_flipArmed _ u ha)

/-! ### The end of a chunk -/

/-- Registers among which are those that the visits of an update's chunks write: those of a memory's notes, and the ledger's
level. -/
structure PipeKeys (n : Nat) (ks : Nat → Prop) : Prop extends NoteKeys ks where
  used : ks (fldKey UPDT_LEDGER_USED n 0)

/-- What an update's visits of chunks may change. -/
def visitKeys (n k : Nat) : Prop := farKeys k ∨ k = fldKey UPDT_LEDGER_USED n 0

theorem pipeKeys_visit (n : Nat) : PipeKeys n (visitKeys n) where
  intg f i m h _ := Or.inl (farKeys_intg f i m h)
  raise p m _ := (raiseEvt_far p m).regs fun _ => Or.inl
  health m := (healthNotice_far m).regs fun _ => Or.inl
  mark u := (noteMark_far u).regs fun _ => Or.inl
  used := Or.inr rfl

/-- What a run's work may change beside registers. -/
abbrev visitParts : List Part := .ues :: memParts

theorem within_visit {ks : Nat → Prop} {a : Act} (h : a.Within memParts ks) : a.Within visitParts ks :=
  h.mono (fun _ hx => List.mem_cons_of_mem _ hx) fun _ h => h

theorem visit_far {n : Nat} {a : Act} (h : a.Within memParts farKeys) : a.Within visitParts (visitKeys n) :=
  h.mono (fun _ hx => List.mem_cons_of_mem _ hx) fun _ => Or.inl

theorem visit_setRun {n : Nat} {ks : Nat → Prop} (r : UeRun) : (setRun n r).Within visitParts ks := (within_updUe _ _).2 List.mem_cons_self

theorem visit_withRun {n : Nat} {ks : Nat → Prop} {k : State → UeRun → Act} (h : ∀ s r, (k s r).Within visitParts ks) :
    (withRun n k).Within visitParts ks := by
  intro s
  dsimp only
  split
  · exact h _ _
  · trivial

section
variable {n : Nat} {ks : Nat → Prop} (H : PipeKeys n ks)
include H

theorem PipeKeys.ueTouch (ps : List (Nat × Nat)) : (ueTouch n ps).Within visitParts ks := by
  simp only [Machine.ueTouch, only_acts_cons, only_acts_nil, and_true]
  refine ⟨(only_each_iff _ _ _).2 fun _ _ => within_visit (H.touchLocal _ _), fun s => ?_⟩
  dsimp only
  split
  · split
    · refine only_onlyIf _ _ _ fun _ => ?_
      simp only [only_acts_cons, only_acts_nil, and_true]
      exact ⟨within_visit (H.consume _ _ (by simp [updtPg])), (within_updUe _ _).2 List.mem_cons_self⟩
    · trivial
  · trivial

theorem PipeKeys.ldCount : (ldCount n).Within visitParts ks := by
  intro s
  exact (within_setF UPDT_LEDGER_USED _ n 0).2 H.used

theorem PipeKeys.ldSet (e st : Nat) (b : Bool) : (ldSet n e st b).Within visitParts ks := by
  intro s
  simp only [only_acts_cons, only_acts_nil, and_true]
  exact ⟨within_visit (H.hbmPut _ _), H.ldCount⟩

theorem PipeKeys.ledgerAdd (e : Nat) (r : UeRun) : (ledgerAdd n e r).Within visitParts ks := by
  simp only [Machine.ledgerAdd, touchGrad, only_acts_cons, only_acts_nil, and_true]
  refine ⟨H.ueTouch _, fun s => within_visit (H.touchLocal _ _), fun s => ?_⟩
  simp only [only_acts_cons, only_acts_nil, and_true]
  exact ⟨within_visit (H.writeLocal _ _), within_visit (H.hbmPut _ _)⟩

theorem PipeKeys.ledgerOpen (e : Nat) (r : UeRun) : (ledgerOpen n e r).Within visitParts ks := by
  simp only [Machine.ledgerOpen, touchGrad, only_acts_cons, only_acts_nil, and_true]
  refine ⟨H.ueTouch _, fun s => ?_⟩
  simp only [only_acts_cons, only_acts_nil, and_true]
  exact ⟨within_visit (H.writeLocal _ _), within_visit (H.hbmPut _ _), H.ldCount⟩

theorem PipeKeys.ledgerPut {k : Act} (h : k.Within visitParts ks) : (ledgerPut n k).Within visitParts ks := by
  refine visit_withRun fun s r => ?_
  split
  · simp only [only_acts_cons, only_acts_nil, and_true]
    exact ⟨H.ledgerAdd _ _, h⟩
  · split
    · simp only [only_acts_cons, only_acts_nil, and_true]
      exact ⟨H.ledgerOpen _ _, h⟩
    · simp only [only_acts_cons, only_acts_nil, and_true]
      exact ⟨visit_setRun _, only_onlyIf _ _ _ fun _ => within_visit (H.raise _ _ (by simp [updtPg]))⟩

omit H in
theorem visit_next {a : Act} (h : a.Within visitParts ks) :
    (acts [withRun n fun _ t => setRun n { t with chunk := t.chunk + 1, phase := .vector }, a]).Within visitParts ks := by
  simp only [only_acts_cons, only_acts_nil, and_true]
  exact ⟨visit_withRun fun _ _ => visit_setRun _, h⟩

theorem PipeKeys.ueVisit (k : Nat) : (ueVisit n k).Within visitParts ks := by
  induction k with
  | zero => trivial
  | succ k ih =>
    refine visit_withRun fun s r => only_ite (visit_setRun _) (only_ite (visit_setRun _) ?_)
    split
    · refine only_ite (only_ite ?_ (visit_setRun _)) (H.ledgerPut (visit_next ih))
      simp only [only_acts_cons, only_acts_nil, and_true]
      exact ⟨H.ldSet _ _ _, visit_setRun _⟩
    · exact H.ledgerPut (visit_next ih)

theorem PipeKeys.ueChunkEnd (r : UeRun) : (ueChunkEnd n r).Within visitParts ks := by
  intro s
  simp only [only_acts_cons, only_acts_nil, and_true]
  refine ⟨within_visit (H.hbmPut _ _), ?_⟩
  split
  · simp only [only_acts_cons, only_acts_nil, and_true]
    exact ⟨visit_setRun _, H.ueVisit _⟩
  · simp only [only_acts_cons, only_acts_nil, and_true]
    exact ⟨H.ldSet _ _ _, visit_setRun _, H.ledgerPut (visit_next (H.ueVisit _))⟩

end

section
variable {n : Nat}

theorem visit_ueTouch (ps : List (Nat × Nat)) : (ueTouch n ps).Within visitParts (visitKeys n) := (pipeKeys_visit n).ueTouch ps

theorem visit_ueVisit (k : Nat) : (ueVisit n k).Within visitParts (visitKeys n) := (pipeKeys_visit n).ueVisit k

theorem visit_ueChunkEnd (r : UeRun) : (ueChunkEnd n r).Within visitParts (visitKeys n) := (pipeKeys_visit n).ueChunkEnd r

theorem visit_ueVectorEnd (r : UeRun) : (ueVectorEnd n r).Within visitParts (visitKeys n) := by
  simp only [ueVectorEnd, only_acts_cons, only_acts_nil, and_true]
  exact ⟨visit_far (writeOuts_far r.outs), only_ite (visit_setRun _) (visit_ueChunkEnd _)⟩

theorem fv_ucnt_visit {a : Act} (h : a.Within visitParts (visitKeys n)) (hn : n < 12) (s : State) (k : Nat) (hk : k < 3) :
    fv (a.run s) UPDT_UCNT n k = fv s UPDT_UCNT n k := by
  refine h.fv s _ _ _ ?_
  rintro (hf | hf)
  · exact not_far_updt UPDT_UCNT n k rfl (by omega) (by decide) (by simp only [UPDT_UCNT]; omega) hf
  · refine fldKey_ne_off UPDT_UCNT UPDT_LEDGER_USED n k 0 rfl ?_ hf
    simp only [UPDT_UCNT, UPDT_LEDGER_USED]
    omega

end

/-! ### Instructions -/

/-- A row of the pipeline's instructions is its opcode. -/
theorem exec_ueRow (o : (Nat → Instr) × Nat) (ho : o ∈ ueRows) (s : State) (n : Nat) : exec (o.1 n) s = .next ((ueOp n o.2).run s) := by
  fin_cases ho <;> rfl

/-- What an instruction is, for a run at it. -/
theorem ueOp_step (s : State) (n op : Nat) (r : UeRun) (hrun : (ueSt s n).run = some r) (hph : r.phase = .vector) (hpc : r.pc < r.prog.length)
    (hop : uOp (r.prog.getD r.pc 0) = op) (hcalm : calm s) (v : UeRun) (hv : ueStep s n r (r.prog.getD r.pc 0) = v) :
    (ueOp n op).run s = (if r.pc + 1 < r.prog.length then setRun n { v with pc := r.pc + 1 } else ueVectorEnd n v : Act).run ((ueCounts n r v).run s) := by
  rw [ueOp, withRun, runs_look, hrun]
  dsimp only
  rw [if_pos ⟨hph, hop, hpc⟩, run_acts_cons, run_acts_cons, runs_nil, ueTouch_calm s n _ hcalm, withRun, runs_look, hrun]
  dsimp only
  rw [hv, run_acts_cons, run_acts_cons, run_acts_cons, runs_nil, ueCounts, run_acts_cons, run_acts_cons, runs_nil]

theorem instruction_runs (o : (Nat → Instr) × Nat) (ho : o ∈ ueRows) (s : State) (n : Nat) (r : UeRun) (hn : n < 12)
    (hrun : (ueSt s n).run = some r) (hph : r.phase = .vector) (hpc : r.pc < r.prog.length) (hop : uOp (r.prog.getD r.pc 0) = o.2) (hcalm : calm s) :
    (let v := ueStep s n r (r.prog.getD r.pc 0)
     ∃ t, exec (o.1 n) s = .next t ∧ counted s t UPDT_UCNT n 2 (v.nonfin - r.nonfin) ∧
       counted s t UPDT_UCNT n 1 (v.clamps - r.clamps) ∧
       (r.pc + 1 < r.prog.length → (ueSt t n).run = some { v with pc := r.pc + 1 } ∧ t.mem = s.mem) ∧
       (r.pc + 1 = r.prog.length → v.elem + 64 < v.chunkBase + chunkElems v.rec_ v.chunk →
         (ueSt t n).run = some { v with
           elem := v.elem + 64
           pc := 0
           regs := ueRegs0
           wn := []
           outs := [] } ∧ t.mem = memAfter s.mem (outWrites s v.outs))) := by
  dsimp only
  obtain ⟨v, hv⟩ : ∃ v, ueStep s n r (r.prog.getD r.pc 0) = v := ⟨_, rfl⟩
  have hexec := (exec_ueRow o ho s n).trans (congrArg Host.Outcome.next (ueOp_step s n o.2 r hrun hph hpc hop hcalm v hv))
  obtain ⟨h2, h1⟩ := ueCounts_counted s n r v hn
  have hw := ueCounts_within n r v
  have hmem : ((ueCounts n r v).run s).mem = s.mem := hw.same .mem (by decide) s
  have hflip : ∀ u, flipArmed ((ueCounts n r v).run s) u = false := ueCounts_flip n hn r v s hcalm
  have hbuild := hw.build s
  have hunits := hw.same .units (by decide) s
  rw [hv]
  generalize (ueCounts n r v).run s = t at *
  have hset : ∀ (u : State) (x : UeRun), (ueSt ((setRun n x).run u) n).run = some x := fun u x => by rw [setRun, ueSt_updUe]
  by_cases hpc1 : r.pc + 1 < r.prog.length
  · rw [if_pos hpc1] at hexec
    exact ⟨_, hexec, h2, h1, fun _ => ⟨hset _ _, hmem⟩, fun h => absurd h (by omega)⟩
  rw [if_neg hpc1] at hexec
  have hend : ∀ k, k < 3 → fv ((ueVectorEnd n v).run t) UPDT_UCNT n k = fv t UPDT_UCNT n k := fun k hk => fv_ucnt_visit (visit_ueVectorEnd v) hn t k hk
  refine ⟨_, hexec, (hend 2 (by decide)).trans h2, (hend 1 (by decide)).trans h1, fun h => absurd h hpc1, fun _ hel => ?_⟩
  rw [ueVectorEnd, if_pos hel, run_acts_cons, run_acts_cons, runs_nil]
  refine ⟨hset _ _, (writeOuts_mem v.outs t hflip).trans ?_⟩
  rw [hmem, outWrites_same hbuild hunits]

end Sys2Proof.Machine
end

section
/-! PROOF. The lanes of update instructions, and PROG_DATA (R283 to R285, R300). -/

namespace Sys2Proof.Machine

/-- An instruction other than a store, WUPD or AVG writes its result, lane by lane, to its register. -/
theorem ueStep_register (s : State) (n : Nat) (r : UeRun) (w : Nat) (h2 : uOp w ≠ 0x02) (h11 : uOp w ≠ 0x11) (h12 : uOp w ≠ 0x12) :
    ueStep s n r w = { r with regs := r.regs.set (uVd w) ((List.range 64).map (ueLane s n r w)) } := by
  unfold ueStep
  split
  · exact absurd ‹_› h2
  · exact absurd ‹_› h11
  · exact absurd ‹_› h12
  · rfl

theorem ueStep_lane (s : State) (n : Nat) (r : UeRun) (w i : Nat) (h2 : uOp w ≠ 0x02) (h11 : uOp w ≠ 0x11) (h12 : uOp w ≠ 0x12) (hi : i < 64)
    (hlen : r.regs.length = 32) : ueReg (ueStep s n r w) (uVd w) i = ueLane s n r w i := by
  have hd : uVd w < r.regs.length := by rw [hlen]; exact bits_lt w 25 21
  rw [ueStep_register s n r w h2 h11 h12]
  simp [ueReg, List.getD_eq_getElem?_getD, hd, hi]

/-- Registers other than the destination keep their lanes. -/
theorem ueStep_other (s : State) (n : Nat) (r : UeRun) (w v i : Nat) (hv : v ≠ uVd w) : ueReg (ueStep s n r w) v i = ueReg r v i := by
  unfold ueStep
  dsimp only
  split
  · rfl
  · rfl
  · split <;> rfl
  · simp [ueReg, List.getD_eq_getElem?_getD, List.getElem?_set_ne (Ne.symm hv)]

theorem lanes_computed (s : State) (n : Nat) (r : UeRun) (w i : Nat) (hi : i < 64) (hlen : r.regs.length = 32) :
    (let x := v32 (ueReg r (uVa w) i).1
     let y := v32 (if uBs w then ueScalar r (uVb w) else ueReg r (uVb w) i).1
     let z := v32 (if uCs w then ueScalar r (uVc w) else ueReg r (uVc w) i).1
     let out := (ueReg (ueStep s n r w) (uVd w) i).1
     (uOp w = 0x04 → out = rne32 (xAdd x y)) ∧ (uOp w = 0x05 → out = rne32 (xSub x y)) ∧
       (uOp w = 0x06 → out = rne32 (xMul x y)) ∧ (uOp w = 0x07 → out = rne32 (xDiv x y)) ∧
       (uOp w = 0x08 → out = rne32 (xAdd (xMul x y) z)) ∧ (uOp w = 0x09 → out = rne32 (xMax x y)) ∧
       (uOp w = 0x0A → out = rne32 (xMin x y)) ∧ (uOp w = 0x0B → out = rne32 (xSqrt x)) ∧
       (uOp w = 0x0C → out = rne32 (xRsqrt x)) ∧
       (uOp w = 0x0F → out = if vPredHolds (uSub w) x y then 0x3F80_0000 else 0) ∧
       ∀ v, v < 32 → v ≠ uVd w → ueReg (ueStep s n r w) v i = ueReg r v i) := by
  dsimp only
  have hlane : ∀ op, uOp w = op → op ≠ 0x02 → op ≠ 0x11 → op ≠ 0x12 → (ueReg (ueStep s n r w) (uVd w) i).1 = (ueLane s n r w i).1 := fun op h h2 h11 h12 => by
    rw [ueStep_lane s n r w i (h ▸ h2) (h ▸ h11) (h ▸ h12) hi hlen]
  refine ⟨fun h => ?_, fun h => ?_, fun h => ?_, fun h => ?_, fun h => ?_, fun h => ?_, fun h => ?_, fun h => ?_, fun h => ?_, fun h => ?_,
    fun v _ hv => ueStep_other s n r w v i hv⟩
  all_goals
    rw [hlane _ h (by decide) (by decide) (by decide), ueLane]
    simp only [h]

/-- PROG_DATA_WRITE (R300). -/
theorem progData_stores (s : State) (r : Requester) (n v : Nat) (hs : isHbmSite s.build n = true) (hv : v < 2 ^ 32) (hsyn : s.syn = [])
    (hflip : flipArmed s (.prog n) = false) (h : accepted s r (siteReg n 1 0x050) 4 v = true) :
    ∃ t, exec (.progDataWrite r n v) s = .next t ∧
      t.mem = mapPut memDefault s.mem (muBase (.prog n) + 4 * fv s UPDT_PROG_ADDR n) (leBytes 4 v) ∧
      fv t UPDT_PROG_ADDR n = (fv s UPDT_PROG_ADDR n + 1) % 4096 := by
  have hn := isHbmSite_lt_256 hs
  have hn12 := isHbmSite_lt _ _ hs
  have hc : rowWrite s (.progDataWrite r n v) = some (r, siteReg n 1 0x050, 4, v) := by
    simp only [rowWrite, hs, if_true]
  obtain ⟨d, hd⟩ : ∃ d, regAt .updt 0x050 = some (d, 0x050) := ⟨_, rfl⟩
  have hexec := exec_updt_row s _ r n 0x050 _ _ hs hc h hd (by decide) (by decide) hv
  have hmu : muIntg (.prog n) < 256 := by simp only [muIntg]; omega
  have hflip' : flipArmed (stored s (updtPg n) d 0x050 v) (.prog n) = false := by
    have hfv : ∀ f : Fld, f.blk = .intg → f.off < 4096 → fv (stored s (updtPg n) d 0x050 v) f (muIntg (.prog n)) = fv s f (muIntg (.prog n)) := fun f hb hf =>
      fv_stored_other s (updtPg n) d 0x050 v f _ 0 fun h => absurd (blkNum_inj _ _ ((regKey_inj _ _ _ _ _ _ hmu hn (by omega) (by decide)).1 h).1) (by rw [hb]; exact fun h => by cases h)
    rw [flipArmed_fv (hfv INTG_FLIP_ARMED rfl (by decide)) (hfv INTG_FLIP_TGT rfl (by decide))]
    exact hflip
  obtain ⟨w, hw⟩ := stored_regs s (updtPg n) d 0x050 v
  rw [hw] at hexec hflip'
  obtain ⟨w', hput⟩ := memPut_calm { s with regs := w } (.prog n) (4 * fv s UPDT_PROG_ADDR n) (leBytes 4 v) hsyn hflip'
  rw [updtApply, if_pos rfl, run_acts_cons, run_acts_cons, runs_nil, hput] at hexec
  refine ⟨_, hexec, rfl, ?_⟩
  refine (fv_setF_self _ UPDT_PROG_ADDR _ n 0 ⟨by decide, by decide⟩).trans ?_
  exact Nat.mod_mod _ _

/-- Settles O33: an opcode's step from a calm state leaves the counts, then the next instruction or the vector's writes; the lanes of each
arithmetic opcode are read off; and program memory takes its word at PROG_ADDR. -/
theorem updateInstructionsRun : Obligations.UpdateInstructionsRun :=
  ⟨fun o ho s n r hn hrun hph hpc hop hcalm => instruction_runs o ho s n r hn hrun hph hpc hop hcalm,
    fun s n r w i hi hlen => lanes_computed s n r w i hi hlen,
    fun s r n v hs hv hsyn hflip h => progData_stores s r n v hs hv hsyn hflip h⟩

end Sys2Proof.Machine
end

section
/-! PROOF. A delivery that lets a waiting sheaf of the lineage set out (R263, R266, R269, R270). -/

namespace Sys2Proof.Machine

/-- An OPEN of no elements, its destination the first tile's galley memory. -/
def deliveredRec : List Byte := leBytes 24 0 ++ leBytes 6 0xFE00_0000_0000 ++ leBytes 34 0

/-- An OPEN of the same lineage, with its result record behind that destination. -/
def waitingRec : List Byte := leBytes 56 0 ++ leBytes 6 0xFE00_0000_0040 ++ leBytes 2 0

/-- A sheaf ready to be delivered, alone in its group. -/
def readySheaf : Sheaf := { newSheaf deliveredRec (leBytes 4 0x0101_0100) with
  tag := 1
  phase := .ready }

/-- A sheaf that waits for the lineage and has met a block that carries MISMATCH. -/
def waitingSheaf : Sheaf := { newSheaf waitingRec [] with
  tag := 2
  early := [.block 2 0 1 0 0 64 0 true [] [] []] }

/-- After reset, with the two sheaves open and the lineage's exponent known. -/
def releasingState : State := (updShef fun v => { v with
  open_ := [readySheaf, waitingSheaf]
  lines := [(0, (true, 0))] }).run State.reset

theorem releasing_calm : calm releasingState := by
  refine ⟨rfl, fun u => ?_, fun u => ?_⟩
  · unfold anyWriteFirst muReal
    cases u with
    | hbm n =>
      by_cases h : n < 12
      · have hall : ∀ n < 12, (decide (n < 12) && (List.range 16).any fun r => fb releasingState HBMC_WF_VALID n r) = false := by decide +kernel
        exact hall n h
      · simp [h]
    | galley p =>
      by_cases h : p < 160
      · have hall : ∀ p < 160, (decide (p < 160) && (List.range 8).any fun r => fb releasingState GALY_RVALID p r && fb releasingState GALY_RMODE p r) = false := by
          decide +kernel
        exact hall p h
      · simp [h]
    | _ => simp
  · have hall : ∀ i < 256, fb releasingState INTG_FLIP_ARMED i = false := by decide +kernel
    by_cases hu : muIntg u < 256
    · unfold flipArmed
      rw [hall _ hu, Bool.and_false, Bool.false_and]
    · exact Bool.eq_false_iff.2 fun ha => hu (muIntg_lt_of_flipArmed _ u ha)

/-- The delivery writes no byte of its own; the waiting sheaf sets out, meets its block, and its result record is written. -/
theorem releasing_writes : releasingState.mem = [] ∧ ((sheafDeliver 1).run releasingState).mem ≠ [] ∧ (shBytes readySheaf).map Prod.fst = [] := by
  decide +kernel

theorem releasing_ready : sheafOf releasingState 1 = some readySheaf ∧ opRoot readySheaf.rec_ = false ∧
    writeRefused releasingState (opDst readySheaf.rec_) (shBytes readySheaf).length = false ∧ opSts readySheaf.rec_ = 0 := by
  decide +kernel

/-- Refutes O40: a delivery that closes its tag lets a waiting sheaf of its lineage set out; one that has met a block with MISMATCH ends
there and then, and the record it writes at its own STS is memory that the delivery's shard does not cover. -/
theorem not_sheavesReduce : ¬ Obligations.SheavesReduce := by
  unfold Obligations.SheavesReduce
  rintro ⟨-, -, -, -, h, -⟩
  obtain ⟨hopen, hroot, hrefused, hsts⟩ := releasing_ready
  obtain ⟨hnone, hwrites, hbytes⟩ := releasing_writes
  have hplace : placeOf releasingState (opDst readySheaf.rec_) = .mem (.galley 0) 0 := by decide +kernel
  obtain ⟨t, ht, -, hmem, -⟩ := h releasingState 1 0 (.galley 0) readySheaf hopen rfl hroot hplace hrefused hsts (by simp [readySheaf, newSheaf])
    releasing_calm (fun _ h => by cases h)
  obtain rfl : (sheafDeliver 1).run releasingState = t := Host.Outcome.next.inj ht
  rw [hbytes, hnone] at hmem
  exact hwrites hmem

end Sys2Proof.Machine
end

section
/-! PROOF. What a LINK_CTL flit and an uncorrectable codeword do to their link (R348, R349, R361). -/

namespace Sys2Proof.Machine

/-! ### The acknowledgement -/

/-- A link up to the acknowledgement and the end of a replay that a LINK_CTL flit carries. -/
def linkAcked (l : Nat) (c : LinkCtl) (s : State) : State :=
  (onlyIf c.replayEnded (updLink l fun st => { st with replaying := false })).run ((linkAck l c.ack).run s)

/-- The credits, the lane retrain and the notices of a LINK_CTL flit, and what they let go out. -/
def linkTake (l : Nat) (c : LinkCtl) : Act :=
  look fun t => onlyIf (linkState t l == 2) (acts [
    updLink l fun st => { st with
      granted := (c.credits.zipIdx).foldl (fun m x => mapSet (fun _ => 0) m x.2 (x.1 % 65536)) st.granted
      farReq := if c.retrainReq then some c.lane else none
      grant := c.retrainGrant },
    onlyIf (c.retrainReq && laneFree t l) (emit (.retrain l true c.lane)),
    onlyIf (fv t LINK_LROLE l == 1 || fv t LINK_LROLE l == 2) (each c.notices linkNotice),
    look fun u => pump l (2 * (linkSt u l).waiting.length)])

theorem linkCtl_down (s : State) (l : Nat) (c : LinkCtl) (h : linkState s l ≠ 2) : exec (.linkCtl l c) s = .next s := by
  show Host.Outcome.next ((linkCtl l c).run s) = _
  rw [linkCtl, run_look, if_pos h]
  rfl

theorem linkCtl_up (s : State) (l : Nat) (c : LinkCtl) (h : linkState s l = 2) :
    exec (.linkCtl l c) s = .next ((linkTake l c).run
      (Act.run (match c.nak with | some q => linkNak l q | none => .done) (linkAcked l c s))) := by
  show Host.Outcome.next ((linkCtl l c).run s) = _
  rw [linkCtl, run_look, if_neg (not_not.2 h), run_acts_cons, run_acts_cons, run_acts_cons, run_acts_cons, runs_nil]
  rfl

section
variable (l : Nat) (c : LinkCtl) (s : State)

theorem linkAcked_regs : (linkAcked l c s).regs = s.regs := by
  unfold linkAcked; rw [run_onlyIf]; split <;> rfl

theorem linkAcked_mem : (linkAcked l c s).mem = s.mem := by
  unfold linkAcked; rw [run_onlyIf]; split <;> rfl

theorem linkAcked_press : (linkAcked l c s).press = s.press := by
  unfold linkAcked; rw [run_onlyIf]; split <;> rfl

theorem linkAcked_store : (linkSt (linkAcked l c s) l).store = (linkSt s l).store.filter fun x => !seqLe (lastSeq x) c.ack := by
  unfold linkAcked
  rw [run_onlyIf, linkAck]
  split <;> simp only [linkSt_updLink]

theorem linkAcked_waiting : (linkSt (linkAcked l c s) l).waiting = (linkSt s l).waiting := by
  unfold linkAcked
  rw [run_onlyIf, linkAck]
  split <;> simp only [linkSt_updLink]

theorem linkAcked_ne (j : Nat) (h : j ≠ l) : linkSt (linkAcked l c s) j = linkSt s j := by
  unfold linkAcked
  rw [run_onlyIf, linkAck]
  split <;> simp only [linkSt_updLink_ne _ _ _ _ h]

theorem linkAcked_replay_none (h : (linkSt s l).replay = none) : (linkSt (linkAcked l c s) l).replay = none := by
  unfold linkAcked
  rw [run_onlyIf, linkAck]
  split <;> simp only [linkSt_updLink, h]

/-- A replay that the acknowledgement has not passed stands. -/
theorem linkAcked_replay_some (r : Nat × Nat) (h : (linkSt s l).replay = some r) (ha : seqLe r.1 c.ack = false) :
    (linkSt (linkAcked l c s) l).replay = some r := by
  unfold linkAcked
  rw [run_onlyIf, linkAck]
  split <;> simp only [linkSt_updLink, h, ha, if_neg Bool.false_ne_true]

theorem linkAcked_idle (r : Nat × Nat) (h : (linkSt s l).replay = some r) (hi : (linkSt s l).replaying = false) :
    (linkSt (linkAcked l c s) l).replaying = false := by
  unfold linkAcked
  rw [run_onlyIf, linkAck]
  split <;> simp only [linkSt_updLink, h, hi, ite_self]

theorem linkAcked_fv (f : Fld) (i n : Nat) : fv (linkAcked l c s) f i n = fv s f i n := by
  unfold fv rdKey; rw [linkAcked_regs]

/-- An acknowledgement takes no REDUCE flit into a link's buffers: a lane that may retrain still may. -/
theorem laneFree_linkAcked (h : laneFree s l = true) : laneFree (linkAcked l c s) l = true := by
  have hw : windowOpen (linkAcked l c s) = windowOpen s := by unfold windowOpen; rw [linkAcked_press]
  simp only [laneFree, Bool.and_eq_true, reduceBusy, Bool.not_eq_true', Bool.or_eq_false_iff, List.any_eq_false, linkState, fb,
    linkAcked_fv, hw, linkAcked_store, linkAcked_waiting] at h ⊢
  obtain ⟨⟨⟨h1, h2⟩, h3, h4⟩, h5⟩ := h
  exact ⟨⟨⟨h1, h2⟩, fun x hx => h3 x (List.mem_filter.1 hx).1, h4⟩, h5⟩

end

/-! ### Credits -/

/-- The credits of a LINK_CTL flit set the pools they stand for. -/
theorem mapGet_credits (L : List Nat) (k : Nat) (m : SMap Nat) (i : Nat) (hi : i < L.length) :
    mapGet (fun _ => 0) ((L.zipIdx k).foldl (fun m x => mapSet (fun _ => 0) m x.2 (x.1 % 65536)) m) (k + i) = L.getD i 0 % 65536 := by
  have hlow : ∀ (L : List Nat) (k : Nat) (m : SMap Nat) (j : Nat), j < k →
      mapGet (fun _ => 0) ((L.zipIdx k).foldl (fun m x => mapSet (fun _ => 0) m x.2 (x.1 % 65536)) m) j = mapGet (fun _ => 0) m j := by
    intro L
    induction L with
    | nil => intro k m j _; rfl
    | cons a L ih =>
      intro k m j hj
      rw [List.zipIdx_cons, List.foldl_cons, ih _ _ _ (by omega), mapGet_mapSet, if_neg (by omega)]
  induction L generalizing k m i with
  | nil => exact absurd hi (by simp)
  | cons a L ih =>
    rw [List.zipIdx_cons, List.foldl_cons]
    cases i with
    | zero => rw [hlow _ _ _ _ (by omega), Nat.add_zero, mapGet_mapSet, if_pos rfl]; rfl
    | succ i =>
      have h := ih (k + 1) (mapSet (fun _ => 0) m k (a % 65536)) i (by simpa using hi)
      rw [show k + (i + 1) = k + 1 + i by omega]
      exact h

/-- With no notice and nothing that waits, a LINK_CTL flit sets its link's credits, the far end's request and its grant,
and grants the request where the lane is free. -/
theorem linkTake_quiet (l : Nat) (c : LinkCtl) (s : State) (h : linkState s l = 2) (hn : c.notices = [])
    (hw : (linkSt s l).waiting = []) :
    (linkTake l c).run s = (onlyIf (c.retrainReq && laneFree s l) (emit (.retrain l true c.lane))).run
      ((updLink l fun st => { st with
        granted := (c.credits.zipIdx).foldl (fun m x => mapSet (fun _ => 0) m x.2 (x.1 % 65536)) st.granted
        farReq := if c.retrainReq then some c.lane else none
        grant := c.retrainGrant }).run s) := by
  have hu : ∀ u, (onlyIf (fv s LINK_LROLE l == 1 || fv s LINK_LROLE l == 2) (each c.notices linkNotice)).run u = u := fun u => by
    rw [run_onlyIf, hn, runs_each_nil, ite_self]
  rw [linkTake, run_look, run_onlyIf_of_true _ _ (by rw [h]; rfl), run_acts_cons, run_acts_cons, run_acts_cons, run_acts_cons,
    runs_nil, hu, runs_look (fun u => pump l (2 * (linkSt u l).waiting.length))]
  have hwt : ∀ u : State, (linkSt u l).waiting = [] → (pump l (2 * (linkSt u l).waiting.length)).run u = u := fun u hu => by
    rw [hu]; rfl
  refine hwt _ ?_
  rw [run_onlyIf]
  split
  · rw [linkSt_emit, linkSt_updLink]; exact hw
  · rw [linkSt_updLink]; exact hw

theorem linkCtl_quiet (s : State) (l : Nat) (c : LinkCtl) (h : linkState s l = 2) (hc : c.nak = none) (hn : c.notices = [])
    (hw : (linkSt s l).waiting = []) : ∃ t, exec (.linkCtl l c) s = .next t ∧
      (linkSt t l).store = ((linkSt s l).store.filter fun x => !seqLe (lastSeq x) c.ack) ∧ (linkSt t l).grant = c.retrainGrant ∧
      (linkSt t l).farReq = (if c.retrainReq then some c.lane else none) ∧
      (∀ i, i < c.credits.length → mapGet (fun _ => 0) (linkSt t l).granted i = c.credits.getD i 0 % 65536) ∧
      (c.retrainReq = true → laneFree s l = true → .retrain l true c.lane ∈ t.out) ∧
      t.regs = s.regs ∧ t.mem = s.mem ∧ ∀ j, j ≠ l → linkSt t j = linkSt s j := by
  refine ⟨_, linkCtl_up s l c h, ?_⟩
  rw [hc]
  dsimp only
  rw [runs_done, linkTake_quiet l c _ (by rw [linkState, linkAcked_fv]; exact h) hn (by rw [linkAcked_waiting]; exact hw)]
  have hfree := laneFree_linkAcked l c s
  have hcred := fun i hi m => mapGet_credits c.credits 0 m i hi
  have hst := linkAcked_store l c s
  have hreg := linkAcked_regs l c s
  have hmem := linkAcked_mem l c s
  have hne := linkAcked_ne l c s
  generalize linkAcked l c s = u at hfree hst hreg hmem hne
  rw [run_onlyIf]
  split
  next _ =>
    simp only [linkSt_emit, linkSt_updLink]
    exact ⟨hst, trivial, trivial, fun i hi => by simpa using hcred i hi _, fun _ _ => by simp, hreg, hmem,
      fun j hj => by rw [linkSt_updLink_ne _ _ _ _ hj]; exact hne j hj⟩
  next hno =>
    simp only [linkSt_updLink]
    exact ⟨hst, trivial, trivial, fun i hi => by simpa using hcred i hi _, fun hq hf => absurd (by simp [hq, hfree hf]) hno, hreg, hmem,
      fun j hj => by rw [linkSt_updLink_ne _ _ _ _ hj]; exact hne j hj⟩

end Sys2Proof.Machine
end

section
/-! PROOF. What a NAK starts, and an uncorrectable codeword (R349). -/

namespace Sys2Proof.Machine

/-! ### What the rest of a LINK_CTL flit leaves -/

theorem linkNotice_within (x : Nat × Nat × Bool) : (linkNotice x).Within (.fab :: fabricParts) fun k => k = fldKey LINK_LDCNT 0 1 := by
  simp only [linkNotice, only_look_iff, only_onlyIf_iff, only_acts_cons, only_acts_nil, updFab, only_upd_iff, cnt, within_incF,
    Upd.within, and_true]
  exact fun _ _ _ => by decide

theorem linkTake_within (l : Nat) (c : LinkCtl) : (linkTake l c).Within (.fab :: fabricParts) fun k => k = fldKey LINK_LDCNT 0 1 := by
  simp only [linkTake, only_look_iff, only_onlyIf_iff, only_acts_cons, only_acts_nil, within_updLink, only_emit_iff, only_each_iff,
    and_true, Upd.within]
  exact fun s _ => ⟨by decide, fun _ => by decide, fun _ x _ => linkNotice_within x, fun _ => (pump_noRegs _ _).mono (fun _ h => List.mem_cons_of_mem _ h) fun _ h => h.elim⟩

theorem linkTake_reg (l : Nat) (c : LinkCtl) (s : State) (f : Fld) (i n : Nat) (h : LinkReg f n) :
    fv ((linkTake l c).run s) f i n = fv s f i n :=
  (linkTake_within l c).fv s f i n (h.ne_ldcnt i 1 (by decide))

/-- How far the replay of a link has come. -/
abbrev replayOf (l : Nat) (s : State) : Option (Nat × Nat) × Bool := ((linkSt s l).replay, (linkSt s l).replaying)

theorem replayOf_updLink (l : Nat) (f : LinkSt → LinkSt) (h : ∀ st, (f st).replay = st.replay ∧ (f st).replaying = st.replaying) :
    (updLink l f).Keeps (replayOf l) := fun s => by
  rw [replayOf, linkSt_updLink, (h _).1, (h _).2]

theorem replayOf_pump (l n : Nat) : (pump l n).Keeps (replayOf l) := by
  induction n with
  | zero => exact keeps_done
  | succ n ih =>
    refine keeps_look _ fun s => ?_
    dsimp only
    split
    · exact keeps_done
    · exact keeps_cons _ _ (replayOf_updLink l _ fun _ => ⟨rfl, rfl⟩) (keeps_cons _ _ (keeps_onlyIf _ _ (keeps_upd _ fun _ => rfl))
        (keeps_cons _ _ ih keeps_nil))

theorem replayOf_linkTake (l : Nat) (c : LinkCtl) : (linkTake l c).Keeps (replayOf l) := by
  have hnote : ∀ x, (linkNotice x).Keeps (replayOf l) := fun x => keeps_look _ fun s => keeps_onlyIf _ _
    (keeps_cons _ _ (fun _ => rfl) (keeps_cons _ _ (fun _ => rfl) keeps_nil))
  exact keeps_look _ fun s => keeps_onlyIf _ _ (keeps_cons _ _ (replayOf_updLink l _ fun _ => ⟨rfl, rfl⟩)
    (keeps_cons _ _ (keeps_onlyIf _ _ (keeps_upd _ fun _ => rfl)) (keeps_cons _ _ (keeps_onlyIf _ _ (keeps_each _ _ hnote))
      (keeps_cons _ _ (keeps_look _ fun u => replayOf_pump l _) keeps_nil))))

/-! ### The NAK -/

/-- Messages emitted one after another are all sent. -/
theorem mem_each_emit {β : Type} (L : List β) (f : β → OutMsg) (s : State) (x : β) (h : x ∈ L) :
    f x ∈ ((each L fun x => emit (f x)).run s).out := by
  induction L generalizing s with
  | nil => exact absurd h List.not_mem_nil
  | cons a L ih =>
    rw [run_each_cons]
    rcases List.mem_cons.1 h with rfl | h
    · exact out_mono _ _ _ List.mem_cons_self
    · exact ih _ h

/-- A first NAK counts the replay it starts, and sends again what is stored from its SEQ on. -/
theorem linkNak_first (s : State) (l q : Nat) (h : (linkSt s l).replay = none) :
    (linkNak l q).run s = (each ((linkSt s l).store.filter fun x => seqLe q (lastSeq x)) fun x => emit (.message l x.2)).run
      ((updLink l fun st => { st with replay := some (q, 1), replaying := true }).run ((cnt LINK_LCNT 2 l).run s)) := by
  rw [linkNak, run_look]
  simp only [h, Bool.false_and, Bool.false_eq_true, if_false]
  rw [if_neg (by decide), run_acts_cons, run_acts_cons, run_acts_cons, runs_nil]

/-- The eighth start of one replay takes the link down. -/
theorem linkNak_eighth (s : State) (l q : Nat) (h : (linkSt s l).replay = some (q, 7)) (hi : (linkSt s l).replaying = false) :
    (linkNak l q).run s = (linkDown l).run s := by
  rw [linkNak, run_look]
  simp only [h, hi, Bool.and_false, Bool.false_eq_true, if_false, if_true]
  rw [if_pos (by decide)]

theorem linkReg_lcnt (n : Nat) (h : n < 6) : LinkReg LINK_LCNT n := ⟨rfl, by simp only [LINK_LCNT]; omega, by simp only [LINK_LCNT]; omega⟩

theorem linkCtl_nak_first (s : State) (l q : Nat) (c : LinkCtl) (h : linkState s l = 2) (hc : c.nak = some q)
    (hr : (linkSt s l).replay = none) : ∃ t, exec (.linkCtl l c) s = .next t ∧ counted s t LINK_LCNT l 2 1 ∧ linkState t l = 2 ∧
      (linkSt t l).replay = some (q, 1) ∧ (linkSt t l).replaying = true ∧
      ∀ x ∈ (linkSt s l).store.filter fun x => !seqLe (lastSeq x) c.ack, seqLe q (lastSeq x) = true → .message l x.2 ∈ t.out := by
  refine ⟨_, linkCtl_up s l c h, ?_⟩
  rw [hc]
  dsimp only
  rw [linkNak_first _ l q (linkAcked_replay_none l c s hr), linkAcked_store]
  have hfv := linkAcked_fv l c s
  generalize linkAcked l c s = a at hfv
  generalize hL : ((linkSt s l).store.filter fun x => !seqLe (lastSeq x) c.ack) = L
  have heach : ∀ (L : List (Nat × FabMsg)), (each L fun x => emit (.message l x.2)).Within [.out] fun _ => False := fun L =>
    (only_each_iff _ _ _).2 fun x _ => (only_upd_iff _ _).2 (by simp [Upd.within])
  have hcount := fv_incF_word a LINK_LCNT l 2 rfl rfl
  generalize hb : (updLink l fun st => { st with replay := some (q, 1), replaying := true }).run ((cnt LINK_LCNT 2 l).run a) = b
  have hbr : replayOf l b = (some (q, 1), true) := by rw [← hb, replayOf, linkSt_updLink]
  have hb2 : fv b LINK_LCNT l 2 = min (2 ^ 32 - 1) (fv s LINK_LCNT l 2 + 1) := by
    rw [← hb, fv_updLink, cnt, hcount, hfv]
  have hbs : linkState b l = 2 := by
    rw [← hb, linkState, fv_updLink, cnt, fv_incF_page _ LINK_LCNT LINK_LSTATE _ _ _ _ rfl (by decide) (Or.inl (by decide)), hfv]
    exact h
  have hmem := fun x hx => mem_each_emit (L.filter fun x => seqLe q (lastSeq x)) (fun x => OutMsg.message l x.2) b x hx
  have hE := heach (L.filter fun x => seqLe q (lastSeq x))
  have hlinks := hE.same .links (by decide) b
  have hEfv := fun f i n => hE.fv b f i n (fun h => h)
  generalize (each (L.filter fun x => seqLe q (lastSeq x)) fun x => emit (.message l x.2)).run b = e at hmem hlinks hEfv
  have hrep : replayOf l ((linkTake l c).run e) = (some (q, 1), true) := by
    rw [replayOf_linkTake l c e, replayOf, linkSt_congr hlinks]
    exact hbr
  refine ⟨?_, ?_, congrArg Prod.fst hrep, congrArg Prod.snd hrep, fun x hx hq => ?_⟩
  · rw [counted, linkTake_reg _ _ _ _ _ _ (linkReg_lcnt 2 (by decide)), hEfv]; exact hb2
  · rw [linkState, linkTake_reg _ _ _ _ _ _ linkReg_lstate, hEfv]; exact hbs
  · exact out_mono _ _ _ (hmem x (List.mem_filter.2 ⟨hx, hq⟩))

theorem linkCtl_nak_eighth (s : State) (l q : Nat) (c : LinkCtl) (hl : l < 256) (h : linkState s l = 2) (hc : c.nak = some q)
    (hr : (linkSt s l).replay = some (q, 7)) (hi : (linkSt s l).replaying = false) (ha : seqLe q c.ack = false) :
    ∃ t, exec (.linkCtl l c) s = .next t ∧ linkState t l = 3 ∧ counted s t LINK_LCNT l 5 1 ∧ pending t (linkPg l) 16 := by
  refine ⟨_, linkCtl_up s l c h, ?_⟩
  rw [hc]
  dsimp only
  rw [linkNak_eighth _ l q (linkAcked_replay_some l c s _ hr ha) (linkAcked_idle l c s _ hr hi)]
  have hfv := linkAcked_fv l c s
  generalize linkAcked l c s = a at hfv
  have hup : linkState a l = 2 := by rw [linkState, hfv]; exact h
  obtain ⟨h1, h2, _⟩ := linkDown_counts a l hl hup
  have h3 : linkState ((linkDown l).run a) l = 3 := by rw [linkDown_state a l hl, if_pos hup]
  generalize (linkDown l).run a = b at h1 h2 h3
  rw [linkTake, run_look, run_onlyIf_of_false _ _ (by rw [h3]; rfl)]
  exact ⟨h3, by rw [counted, ← hfv]; exact h1, h2⟩

/-! ### An uncorrectable codeword -/

theorem codewordUncorrectable_counts (s : State) (l : Nat) (h : linkState s l = 2) :
    ∃ t, exec (.codewordUncorrectable l) s = .next t ∧ counted s t LINK_LCNT l 1 1 ∧
      linkSt t l = { linkSt s l with naking := true } ∧ (∀ j, j ≠ l → linkSt t j = linkSt s j) ∧ memKept s t ∧ t.out = s.out := by
  refine ⟨(updLink l fun st => { st with naking := true }).run ((cnt LINK_LCNT 1 l).run s), ?_, ?_, ?_, fun j hj => ?_,
    ⟨fun _ => rfl, fun _ => rfl, fun _ => rfl⟩, rfl⟩
  · show Host.Outcome.next ((linkUncorr l).run s) = _
    rw [linkUncorr, run_look, run_onlyIf_of_true _ _ (by rw [h]; rfl), run_acts_cons, run_acts_cons, runs_nil]
  · rw [counted, fv_updLink]
    exact fv_incF_word _ _ _ _ rfl rfl
  · rw [linkSt_updLink, cnt, linkSt_incF]
  · rw [linkSt_updLink_ne _ _ _ _ hj, cnt, linkSt_incF]

end Sys2Proof.Machine
end

section
/-! PROOF. How a prefetch ends (R313, R314). -/

namespace Sys2Proof.Machine

/-- What the end of a prefetch touches beside registers. -/
def pfEndParts : List Part := memParts ++ targetParts

theorem sendTarget0_off {b : Blk} (h : b ∉ [Blk.pres, .link, .slqp]) (src x : Nat) : (sendTarget0 src x).Within pfEndParts (offBlk b) :=
  (sendTarget0_within src x).mono (by decide) fun k hk => offBlk_of_hdrOr h k (hdrOr_sent k hk)

theorem putLocal_off {b : Blk} (h : blkNum b < blkNum .intg) (a : Nat) (l : List Byte) : (putLocal a l).Within pfEndParts (offBlk b) :=
  (putLocal_far a l).mono (by decide) (offBlk_of_far h)

theorem raiseEvt_off {b : Blk} (h : b ≠ .slqp) (p : PageRef) (m : Nat) : (raiseEvt p m).Within pfEndParts (offBlk b) :=
  (raiseEvt_hdrOr (bs := [.slqp]) p m (by decide) (by decide) (by decide)).regs (offBlk_of_hdrOr (by simpa using h))

theorem hcnt_far (site n : Nat) (hs : site < 12) (hn : n < 8) : ¬ offBlk .hbmc (fldKey HBMC_HCNT site n) :=
  not_offBlk HBMC_HCNT site n (by omega) (by simp only [HBMC_HCNT]; omega) (by simp only [HBMC_HCNT]; omega)

theorem hcnt_page (s : State) (i k site : Nat) (h : k ≠ i) :
    fv ((cnt HBMC_HCNT k site).run s) HBMC_HCNT site i = fv s HBMC_HCNT site i :=
  fv_incF_page s HBMC_HCNT HBMC_HCNT 1 site k i rfl (by decide) (Or.inl (by simp only [HBMC_HCNT]; omega))

section
variable (site : Nat) (r : List Byte) (o c t g b : Nat)

theorem pfEnd_within : (pfEnd site r o c t g b).Within pfEndParts fun k => offBlk .hbmc k ∨ ∃ n, 3 ≤ n ∧ n < 5 ∧ k = fldKey HBMC_HCNT site n := by
  intro s
  simp only [only_acts_cons, only_acts_nil, only_onlyIf_iff, cnt, within_incF, and_true]
  exact ⟨fun _ => (putLocal_off (by decide) _ _).regs fun _ h => Or.inl h, fun _ => Or.inr ⟨3, by decide, by decide, rfl⟩,
    fun _ => ⟨Or.inr ⟨4, by decide, by decide, rfl⟩, (raiseEvt_off (by decide) _ _).regs fun _ h => Or.inl h⟩,
    (sendTarget0_off (by decide) _ _).regs fun _ h => Or.inl h, fun _ => (raiseEvt_off (by decide) _ _).regs fun _ h => Or.inl h⟩

theorem pfsOf_pfEnd (s : State) (j : Nat) : pfsOf ((pfEnd site r o c t g b).run s) j = pfsOf s j := by
  have h : ((pfEnd site r o c t g b).run s).pfs = s.pfs := (pfEnd_within site r o c t g b).same .pfs (by decide) s
  unfold pfsOf; rw [h]

theorem pfEnd_hcnt_low (s : State) (n : Nat) (hs : site < 12) (hn : n < 3) :
    fv ((pfEnd site r o c t g b).run s) HBMC_HCNT site n = fv s HBMC_HCNT site n := by
  refine (pfEnd_within site r o c t g b).fv s HBMC_HCNT site n ?_
  rintro (h | ⟨k, h3, h5, hk⟩)
  · exact hcnt_far site n hs (by omega) h
  · refine fldKey_ne_off HBMC_HCNT HBMC_HCNT site n k rfl ?_ hk
    simp only [HBMC_HCNT]
    omega

/-- What follows the count of a prefetch that fails: its target and its event. -/
def pfReport (site : Nat) (r : List Byte) (o : Nat) : Act := acts [
  sendTarget0 (srcOf (hbmcPg site)) (recLE r (if o == 2 && pfFlag r 2 then 48 else 40) 8),
  onlyIf (pfFlag r 3) (raiseEvt (hbmcPg site) (2 ^ 16))]

theorem pfReport_off : (pfReport site r o).Within pfEndParts (offBlk .hbmc) := by
  simp only [pfReport, only_acts_cons, only_acts_nil, only_onlyIf_iff, and_true]
  exact ⟨sendTarget0_off (by decide) _ _, fun _ => raiseEvt_off (by decide) _ _⟩

theorem pending_pfReport (q : PageRef) (i : Nat) : (pfReport site r o).Stable fun s => pending s q i :=
  stable_cons (pending_sendTarget0 _ _ q i) (stable_cons (stable_onlyIf fun _ => pending_event _ _ (by decide) q i) stable_nil)

/-- The record of a prefetch's end in memory, where it asks for one. -/
def pfRecord (s : State) : Act :=
  onlyIf (pfSts r != 0 && !writeRefused s (pfSts r) 32) (putLocal (pfSts r) (leBytes 1 o ++ leBytes 1 c ++
    leBytes 1 t ++ leBytes 1 0 ++ leBytes 4 g ++ leBytes 8 b ++ leBytes 6 s.press.imp ++ leBytes 10 0))

theorem pfRecord_off (s : State) : (pfRecord r o c t g b s).Within pfEndParts (offBlk .hbmc) :=
  only_onlyIf _ _ _ fun _ => putLocal_off (by decide) _ _

/-- A prefetch that fails: its record, its count and event, its report. -/
theorem pfEnd_fails (s : State) (ho : o = 3 ∨ o = 4) : (pfEnd site r o c t g b).run s =
    (pfReport site r o).run ((raiseEvt (hbmcPg site) (2 ^ 17)).run ((cnt HBMC_HCNT 4 site).run ((pfRecord r o c t g b s).run s))) := by
  rw [pfEnd, run_look, run_acts_cons, run_acts_cons, run_acts_cons, run_onlyIf_of_true _ _ (by rcases ho with rfl | rfl <;> rfl),
    run_onlyIf_of_false _ _ (by rcases ho with rfl | rfl <;> rfl), run_acts_cons, run_acts_cons, runs_nil, pfReport, run_acts_cons,
    run_acts_cons, runs_nil, run_acts_cons, run_acts_cons, runs_nil]
  rfl

/-- A prefetch that does not fail counts no failure. -/
theorem pfEnd_hcnt_ok (s : State) (hs : site < 12) (h3 : o ≠ 3) (h4 : o ≠ 4) :
    fv ((pfEnd site r o c t g b).run s) HBMC_HCNT site 4 = fv s HBMC_HCNT site 4 := by
  have hne : fldKey HBMC_HCNT site 4 ≠ fldKey HBMC_HCNT site 3 :=
    fldKey_ne_off HBMC_HCNT HBMC_HCNT site 4 3 rfl (by decide)
  have hw : (pfEnd site r o c t g b).Within pfEndParts fun k => offBlk .hbmc k ∨ k = fldKey HBMC_HCNT site 3 := by
    intro s
    simp only [only_acts_cons, only_acts_nil, only_onlyIf_iff, cnt, within_incF, and_true]
    refine ⟨fun _ => (putLocal_off (by decide) _ _).regs fun _ h => Or.inl h, fun _ => Or.inr trivial, fun h => ?_,
      (sendTarget0_off (by decide) _ _).regs fun _ h => Or.inl h, fun _ => (raiseEvt_off (by decide) _ _).regs fun _ h => Or.inl h⟩
    simp [h3, h4] at h
  exact hw.fv s HBMC_HCNT site 4 fun h => h.elim (hcnt_far site 4 hs (by decide)) hne

theorem pfEnd_counts (s : State) (hs : site < 12) (ho : o = 3 ∨ o = 4) :
    counted s ((pfEnd site r o c t g b).run s) HBMC_HCNT site 4 1 ∧ pending ((pfEnd site r o c t g b).run s) (hbmcPg site) 17 := by
  have hfar := hcnt_far site 4 hs (by decide)
  rw [pfEnd_fails site r o c t g b s ho]
  refine ⟨?_, pending_pfReport site r o _ _ _ (pending_raiseEvt _ _ _ _ (by decide) (by decide))⟩
  rw [counted, (pfReport_off site r o).fv _ HBMC_HCNT site 4 hfar, (raiseEvt_off (b := .hbmc) (by decide) _ _).fv _ HBMC_HCNT site 4 hfar,
    cnt, fv_incF_word _ _ _ _ rfl rfl, (pfRecord_off r o c t g b s).fv _ HBMC_HCNT site 4 hfar]

end

end Sys2Proof.Machine
end

section
/-! PROOF. Messages that a link brings: consumed, sent on, discarded, refused (R345, R349, R350, R358, R359). -/

namespace Sys2Proof.Machine

/-! ### A message in sequence -/

/-- A link up to a message in sequence that it has taken. -/
def seqTaken (l q : Nat) (m : FabMsg) (s : State) : State :=
  (updLink l fun st => { st with rxSeq := (q + m.flits) % 65536, naking := false }).run s

theorem messageReceive_dropped (s : State) (l q : Nat) (m : FabMsg) (h : linkState s l ≠ 2 ∨ (linkSt s l).rxSeq ≠ q) :
    exec (.messageReceive l q m) s = .next s := by
  show Host.Outcome.next ((messageReceive l q m).run s) = _
  rw [messageReceive, run_look, if_pos (h.imp_right Or.inl)]
  rfl

section
variable {s : State} {l q : Nat} {m : FabMsg} (hl : linkState s l = 2) (hq : (linkSt s l).rxSeq = q) (hm : messageHeld s m = false)
include hl hq hm

theorem messageReceive_bad (hb : badFlit m = true) :
    exec (.messageReceive l q m) s = .next ((updLink l fun st => { st with naking := true }).run ((cnt LINK_LDCNT 3).run s)) := by
  show Host.Outcome.next ((messageReceive l q m).run s) = _
  rw [messageReceive, run_look, if_neg (by simp [hl, hq, hm]), if_pos hb, run_acts_cons, run_acts_cons, runs_nil]

theorem messageReceive_good (hb : badFlit m = false) : exec (.messageReceive l q m) s =
    .next ((if m.dst = nodeId s then messageConsume m else forwardMsg m (some m.phase)).run (seqTaken l q m s)) := by
  show Host.Outcome.next ((messageReceive l q m).run s) = _
  rw [messageReceive, run_look, if_neg (by simp [hl, hq, hm]), if_neg (by simp [hb]), run_acts_cons, run_acts_cons, runs_nil]
  rfl

end

section
variable (l q : Nat) (m : FabMsg) (s : State)

theorem seqTaken_rx : (linkSt (seqTaken l q m s) l).rxSeq = (q + m.flits) % 65536 ∧ (linkSt (seqTaken l q m s) l).naking = false := by
  rw [seqTaken, linkSt_updLink]
  exact ⟨rfl, rfl⟩

/-- What a link's sender and its routing know is as it was before a message was taken. -/
theorem seqTaken_sender (k : Nat) : (linkSt (seqTaken l q m s) k).joined = (linkSt s k).joined ∧
    (linkSt (seqTaken l q m s) k).waiting = (linkSt s k).waiting ∧ (linkSt (seqTaken l q m s) k).granted = (linkSt s k).granted ∧
    (linkSt (seqTaken l q m s) k).sent = (linkSt s k).sent := by
  by_cases h : k = l
  · subst h; rw [seqTaken, linkSt_updLink]; exact ⟨rfl, rfl, rfl, rfl⟩
  · rw [seqTaken, linkSt_updLink_ne _ _ _ _ h]; exact ⟨rfl, rfl, rfl, rfl⟩

theorem route_seqTaken (src dst : Nat) : route (seqTaken l q m s) src dst = route s src dst := by
  have hlive : linkLive (seqTaken l q m s) = linkLive s := by
    funext i
    unfold linkLive
    rw [(seqTaken_sender l q m s i).1]
    rfl
  have houter : outerLinkUp (seqTaken l q m s) = outerLinkUp s := by
    funext i j; unfold outerLinkUp; rw [hlive]; rfl
  have hsys : systemSet (seqTaken l q m s) = systemSet s := by funext f; unfold systemSet; rw [houter]; rfl
  have hfield : fieldSet (seqTaken l q m s) = fieldSet s := by funext f; unfold fieldSet; rw [houter]; rfl
  have hhop : stookHop (seqTaken l q m s) = stookHop s := by funext a b; unfold stookHop; rw [hlive]; rfl
  unfold route
  rw [hsys, hfield, hhop]
  rfl

theorem credit_seqTaken (k p : Nat) : credit (seqTaken l q m s) k p = credit s k p := by
  obtain ⟨-, -, hg, hs⟩ := seqTaken_sender l q m s k
  unfold credit
  rw [hg, hs]

end

/-! ### A message sent on -/

/-- The SEQ that a link expects next. -/
abbrev rxOf (j : Nat) (s : State) : Nat := (linkSt s j).rxSeq

theorem rxOf_updLink (j k : Nat) (f : LinkSt → LinkSt) (h : ∀ st, (f st).rxSeq = st.rxSeq) : (updLink k f).Keeps (rxOf j) := fun s => by
  by_cases hj : j = k
  · subst hj; rw [rxOf, linkSt_updLink, h]
  · rw [rxOf, linkSt_updLink_ne _ _ _ _ hj]

theorem rxOf_pump (j k n : Nat) : (pump k n).Keeps (rxOf j) := by
  induction n with
  | zero => exact keeps_done
  | succ n ih =>
    refine keeps_look _ fun s => ?_
    dsimp only
    split
    · exact keeps_done
    · exact keeps_cons _ _ (rxOf_updLink j k _ fun _ => rfl) (keeps_cons _ _ (keeps_onlyIf _ _ (keeps_upd _ fun _ => rfl))
        (keeps_cons _ _ ih keeps_nil))

/-- A message that the credits of an idle link cover goes out at once. -/
theorem enqueue_idle (s : State) (k : Nat) (m : FabMsg) (hw : (linkSt s k).waiting = []) (h0 : m.flits ≠ 0)
    (hc : m.flits ≤ credit s k (poolOf s k m.vc m.phase)) :
    .message k m ∈ ((enqueue k m).run s).out ∧ (∀ j, (linkSt ((enqueue k m).run s) j).rxSeq = (linkSt s j).rxSeq) ∧
      ((enqueue k m).run s).regs = s.regs ∧ ((enqueue k m).run s).mem = s.mem := by
  have hno := enqueue_noRegs k m
  refine ⟨?_, fun j => ?_, ?_, hno.same .mem (by decide) s⟩
  · rw [enqueue, run_acts_cons, run_acts_cons, runs_nil, runs_look (fun s => pump k (2 * (linkSt s k).waiting.length))]
    generalize hu : (updLink k fun st => { st with waiting := st.waiting ++ [(m.flits, m)] }).run s = u
    have hst : linkSt u k = { linkSt s k with waiting := [(m.flits, m)] } := by rw [← hu, linkSt_updLink, hw]; rfl
    have hcr : credit u k (poolOf u k m.vc m.phase) = credit s k (poolOf s k m.vc m.phase) := by
      have hp : poolOf u k m.vc m.phase = poolOf s k m.vc m.phase := by rw [← hu]; rfl
      rw [hp]; unfold credit; rw [hst]
    have hmay : maySend u k (m.flits, m) = true := by
      simp only [maySend, hcr, hst, List.all_cons, List.all_nil, beq_self_eq_true, Bool.or_true, Bool.and_true, decide_eq_true_eq]
      omega
    have hf : (linkSt u k).waiting.findIdx? (maySend u k) = some 0 := by
      rw [hst]; simp [List.findIdx?_cons, hmay]
    have hlen : 2 * (linkSt u k).waiting.length = 2 := by rw [hst]; rfl
    rw [hlen, pump, run_look]
    simp only [hf]
    rw [hst, List.getD_cons_zero, hcr, Nat.min_eq_left hc, run_acts_cons, run_acts_cons, run_onlyIf_of_true _ _ (by simp)]
    exact out_mono _ _ _ List.mem_cons_self
  · rw [enqueue, run_acts_cons, run_acts_cons, runs_nil, runs_look (fun s => pump k (2 * (linkSt s k).waiting.length))]
    exact (rxOf_pump j k _ _).trans (rxOf_updLink j k (fun st => { st with waiting := st.waiting ++ [(m.flits, m)] }) (fun _ => rfl) s)
  · exact hno.regs_eq s

end Sys2Proof.Machine
end

section
/-! PROOF. Messages of the fabric, and the refusals that come back (R345 to R350, R358, R359). -/

namespace Sys2Proof.Machine

/-! ### MESSAGE_RECEIVE -/

/-- A token's increment is none of a link's. -/
theorem deliverInc_links (t c n : Nat) (s : State) : ((deliverInc t c n).run s).links = s.links := by
  rw [deliverInc, run_look]
  split
  · exact (healthNotice_within _).same .links (by decide) s
  · split
    · rfl
    · exact (addToken_within _ _ _).same .links (by decide) s

section
variable {s : State} {l q : Nat} {m : FabMsg} (hl : linkState s l = 2) (hq : (linkSt s l).rxSeq = q) (hm : messageHeld s m = false)
include hl hq hm

theorem messageReceive_discards (hb : badFlit m = true) : ∃ t, exec (.messageReceive l q m) s = .next t ∧
    counted s t LINK_LDCNT 0 3 1 ∧ linkSt t l = { linkSt s l with naking := true } ∧ t.out = s.out := by
  refine ⟨_, messageReceive_bad hl hq hm hb, ?_, ?_, rfl⟩
  · rw [counted, fv_updLink]
    exact fv_incF_word _ _ _ _ rfl rfl
  · rw [linkSt_updLink, cnt, linkSt_incF]

theorem messageReceive_consumes (hb : badFlit m = false) (hd : m.dst = nodeId s) : ∃ t, exec (.messageReceive l q m) s = .next t ∧
    ∀ a c n, m.body = .token a c n → c < 256 → incDelivered s t a c n ∧
      (linkSt t l).rxSeq = (q + m.flits) % 65536 ∧ (linkSt t l).naking = false := by
  refine ⟨_, messageReceive_good hl hq hm hb, fun a c n ht hc => ?_⟩
  rw [if_pos hd, messageConsume, ht]
  dsimp only
  rw [linkSt_congr (deliverInc_links a c n _)]
  exact ⟨deliverInc_delivers (seqTaken l q m s) a c n hc, seqTaken_rx l q m s⟩

theorem messageReceive_forwards (hb : badFlit m = false) (hd : m.dst ≠ nodeId s) (k ph : Nat) (hr : route s m.src m.dst = some (k, ph))
    (hp : ph % 2 = 1 ∨ m.phase < ph) (hw : (linkSt s k).waiting = []) (hc : m.flits ≤ credit s k (poolOf s k m.vc ph)) :
    ∃ t, exec (.messageReceive l q m) s = .next t ∧ .message k { m with phase := ph } ∈ t.out ∧
      (linkSt t l).rxSeq = (q + m.flits) % 65536 ∧ t.regs = s.regs ∧ t.mem = s.mem := by
  refine ⟨_, messageReceive_good hl hq hm hb, ?_⟩
  have hgo : (ph % 2 == 0 && decide (ph ≤ m.phase)) = false := by
    rcases hp with h | h
    · rw [h]; rfl
    · rw [decide_eq_false (by omega), Bool.and_false]
  have h0 : m.flits ≠ 0 := fun h => by simp [badFlit, h] at hb
  rw [if_neg hd, forwardMsg, run_look, route_seqTaken, hr]
  dsimp only
  rw [hgo, if_neg Bool.false_ne_true]
  have hcr := credit_seqTaken l q m s k (poolOf s k m.vc ph)
  obtain ⟨-, hwt, -, -⟩ := seqTaken_sender l q m s k
  obtain ⟨hout, hrx, hreg, hmem⟩ := enqueue_idle (seqTaken l q m s) k { m with phase := ph } (by rw [hwt]; exact hw) h0 (by
    show m.flits ≤ credit (seqTaken l q m s) k (poolOf s k m.vc ph)
    rw [hcr]; exact hc)
  exact ⟨hout, (hrx l).trans (seqTaken_rx l q m s).1, hreg, hmem⟩

end

/-! ### REFUSAL_RECEIVE -/

theorem pfsOf_setPfs (s : State) (site : Nat) (f : List Pf → List Pf) : pfsOf ((setPfs site f).run s) site = f (pfsOf s site) :=
  mapGet_mapSet_self pfDefault s.pfs site (f (pfsOf s site))

section
variable (s : State) (node code : Nat) (hn : node < 2 ^ 14)
include hn

theorem refusalReceive_run (o : Origin) : exec (.refusalReceive node o code) s = .next ((refusalReceive o code).run s) := by
  show Host.Outcome.next ((onlyIf (decide (node < 2 ^ 14)) (refusalReceive o code)).run s) = _
  rw [run_onlyIf_of_true _ _ (decide_eq_true hn)]

theorem refusalReceive_op (p q n : Nat) (hq : q < 7) : ∃ t, exec (.refusalReceive node (.op p q n) code) s = .next t ∧
    (queueSt t p q).inflight = ((queueSt s p q).inflight.map fun f => if f.seq = n then { f with
      flags := f.flags ||| 2
      aux := if f.aux = 0 then code else f.aux } else f) ∧ t.regs = s.regs ∧ t.mem = s.mem := by
  refine ⟨_, refusalReceive_run s node code hn _, ?_, rfl, rfl⟩
  exact congrArg Queue.inflight (queueSt_updQueue p q (fun x => { x with inflight := x.inflight.map fun f =>
    if f.seq = n then { f with flags := f.flags ||| 2, aux := if f.aux = 0 then code else f.aux } else f }) s hq)

theorem refusalReceive_fetch (site d i : Nat) (f : Fetch) (hi : (ueSt s site).fetches.findIdx? (fun f => feDst f.rec_ == d) = some i)
    (hf : (ueSt s site).fetches[i]? = some f) : exec (.refusalReceive node (.fetch site d) code) s =
      if f.digest.isNone then exec (.fetchDigestPoll site i ⟨code, [], []⟩) s
      else exec (.fetchChunkReadDone site i ⟨code, [], []⟩) s := by
  rw [refusalReceive_run s node code hn, refusalReceive, run_look, hi]
  dsimp only
  rw [hf]
  dsimp only
  split <;> rfl

/-- What a refused prefetch carries out. -/
theorem refusedPrefetch_run (site d i : Nat) (p : Pf) (b : Nat × Nat × Nat)
    (hi : (pfsOf s site).findIdx? (fun p => p.bound.isSome && pfDst p.rec_ == d) = some i) (hp : (pfsOf s site)[i]? = some p)
    (hb : p.bound = some b) : exec (.refusalReceive node (.prefetch site d) code) s =
      .next ((pfEnd site p.rec_ 4 code b.1 b.2.1 0).run ((setPfs site fun l => l.eraseIdx i).run s)) := by
  rw [refusalReceive_run s node code hn, refusalReceive, run_look, hi]
  dsimp only
  rw [hp]
  dsimp only
  rw [hb]
  dsimp only
  rw [run_acts_cons, run_acts_cons, runs_nil]

theorem refusalReceive_prefetch (site d i : Nat) (p : Pf) (b : Nat × Nat × Nat) (hs : site < 12)
    (hi : (pfsOf s site).findIdx? (fun p => p.bound.isSome && pfDst p.rec_ == d) = some i) (hp : (pfsOf s site)[i]? = some p)
    (hb : p.bound = some b) : ∃ t, exec (.refusalReceive node (.prefetch site d) code) s = .next t ∧
      pfsOf t site = (pfsOf s site).eraseIdx i ∧ counted s t HBMC_HCNT site 4 1 ∧ pending t (hbmcPg site) 17 := by
  obtain ⟨h4, h17⟩ := pfEnd_counts site p.rec_ 4 code b.1 b.2.1 0 ((setPfs site fun l => l.eraseIdx i).run s) hs (Or.inr rfl)
  exact ⟨_, refusedPrefetch_run s node code hn site d i p b hi hp hb, (pfsOf_pfEnd _ _ _ _ _ _ _ _ _).trans (pfsOf_setPfs s site _), h4, h17⟩

end

/-- Settles O46: what a LINK_CTL flit acknowledges, grants and replays, what becomes of a message in sequence, and where a
refusal goes. -/
theorem linksCarryMessagesInOrder : Obligations.LinksCarryMessagesInOrder := by
  unfold Obligations.LinksCarryMessagesInOrder
  refine ⟨fun s l c hl => ⟨linkCtl_down s l c, fun h hc hn hw => linkCtl_quiet s l c h hc hn hw, fun q h hc =>
      ⟨fun hr => linkCtl_nak_first s l q c h hc hr, fun hr hi ha => linkCtl_nak_eighth s l q c hl h hc hr hi ha⟩⟩,
    codewordUncorrectable_counts, fun s l q m => ⟨messageReceive_dropped s l q m, fun hl hq hm =>
      ⟨fun hb => messageReceive_discards hl hq hm hb, fun hb hd => messageReceive_consumes hl hq hm hb hd,
        fun k ph hb hd hr hp hw hc => messageReceive_forwards hl hq hm hb hd k ph hr hp hw hc⟩⟩, fun s node code hn => ?_⟩
  exact ⟨fun p q n hq => refusalReceive_op s node code hn p q n hq,
    fun site d i f hi hf => refusalReceive_fetch s node code hn site d i f hi hf,
    fun site => refusalReceive_run s node code hn (.audit site),
    fun site d i p b hs hi hp hb => refusalReceive_prefetch s node code hn site d i p b hs hi hp hb⟩

end Sys2Proof.Machine
end

section
/-! PROOF. Transfers between tiers, where memories of this device are calm (R307, R311, R313). -/

namespace Sys2Proof.Machine

/-! ### Memories in which nothing is to be corrected and no fault is armed -/

/-- No check bits are set, and no fault is armed. -/
def still (s : State) : Prop := s.syn = [] ∧ ∀ u, flipArmed s u = false

theorem still_of_calm {s : State} (h : calm s) : still s := ⟨h.1, h.2.2⟩

/-- What touches neither check bits nor INTG's registers leaves memories still. -/
theorem still_within {ps : List Part} {a : Act} (h : a.Within ps (offBlk .intg)) (hp : Part.syn ∉ ps) : a.Stable still := fun s hs => by
  obtain ⟨hsyn, hflip⟩ := hs
  refine ⟨(h.same .syn hp s).trans hsyn, fun u => ?_⟩
  by_cases hu : muIntg u < 256
  · exact (flipArmed_fv (h.fv s INTG_FLIP_ARMED _ 0 (not_offBlk INTG_FLIP_ARMED _ 0 hu (by decide) (by decide)))
      (h.fv s INTG_FLIP_TGT _ 0 (not_offBlk INTG_FLIP_TGT _ 0 hu (by decide) (by decide)))).trans (hflip u)
  · exact Bool.eq_false_iff.2 fun ha => hu (muIntg_lt_of_flipArmed _ u ha)

/-! ### HBM by its address -/

theorem locate_of_placeOf (s : State) (a : Nat) (u : MemUnit) (off : Nat) (h : placeOf s a = .mem u off) : locate s a = some (u, off) := by
  unfold placeOf at h
  split at h
  · cases h
  · split at h
    · cases h
    · split at h
      next m hm => injection h with h1 h2; rw [hm, ← h1, ← h2]
      next => cases h

/-- An address of HBM is its own place. -/
theorem placeOf_hbm (s : State) (a : Nat) (h : isHbmAddr s a = true) : placeOf s a = .mem (.hbm (a / 2 ^ 36)) (hbmOff a) := by
  obtain ⟨n, off, hp⟩ : ∃ n off, placeOf s a = .mem (.hbm n) off := by
    unfold isHbmAddr at h
    split at h
    next n off hp => exact ⟨n, off, hp⟩
    next => exact absurd h (by decide)
  have hl := locate_of_placeOf s a _ _ hp
  rw [hp]
  unfold locate at hl
  dsimp only at hl
  split at hl
  · split at hl
    · injection hl with hl; injection hl with h1 h2; injection h1 with h1; rw [← h1, ← h2]; rfl
    · cases hl
  · split at hl
    · cases hl
    · split at hl
      · split at hl <;> cases hl
      · cases hl

/-- What HBM delivers at an address that no view meets. -/
theorem readLocal_hbm (s : State) (a n : Nat) (hsyn : s.syn = []) (ha : isHbmAddr s a = true) (hv : viewsMet s a n = []) :
    (readLocal s a n).map Prod.fst = mapRead memDefault s.mem a n := by
  have hread : readLocal s a n = (hbmBytesAt s a n).zip (List.replicate n false) := by
    unfold readLocal
    rw [hv, placeOf_hbm s a ha, hsyn]
    rfl
  rw [hread, List.map_fst_zip (by simp [hbmBytesAt_length]), hbmBytesAt_of_syn_nil s a n hsyn]

/-- Unmarked bytes written to HBM. -/
theorem writeLocal_hbm (s : State) (a : Nat) (bs : List (Byte × Bool)) (hs : still s) (ha : isHbmAddr s a = true)
    (hm : ∀ b ∈ bs, b.2 = false) : ∃ m w, (writeLocal a bs).run s = { s with mem := m, written := w } ∧
      ∀ k, mapGet memDefault m k = mapGet memDefault (mapPut memDefault s.mem a (bs.map Prod.fst)) k := by
  have hplace := placeOf_hbm s a ha
  by_cases hb : bs = []
  · subst hb
    refine ⟨s.mem, s.written, ?_, fun k => ?_⟩
    · rw [writeLocal, runs_look, hplace]; rfl
    · rw [mapGet_mapPut, if_neg (by simp)]
  · obtain ⟨w, h⟩ := writeLocal_calm s a bs _ _ hplace hs.1 (hs.2 _) hm hb
    rw [muBase_hbmOff] at h
    exact ⟨_, w, h, fun _ => rfl⟩

/-! ### Reading and writing a tier -/

section
variable (s : State) (st : TierSt) (a n : Nat)

theorem tierRead_here (k : TierSt → Nat → List (Byte × Bool) → Act) (hc : calm s) (he : rangeErrs s a n = []) :
    (tierRead st 0 a n k).run s = (k st 0 (readLocal s a n)).run s := by
  rw [tierRead, runs_look]
  change Act.run (match rangeErrs s a n with
    | [] => acts [touchLocal a n, look fun t => k st 0 (readLocal t a n)]
    | l => k st (errNum (firstErr l)) []) s = _
  rw [he]
  dsimp only
  rw [run_acts_cons, run_acts_cons, runs_nil, touchLocal_calm s a n hc.1 hc.2.1, runs_look]

theorem regionErrs_code (b d : Bool) : when b ErrCode.lenOverRegion ++ when d .retiredUnit ≠ [] →
    errNum (firstErr (when b .lenOverRegion ++ when d .retiredUnit)) ≠ 0 := by
  cases b <;> cases d <;> decide

/-- What refuses a range is a code other than 0. -/
theorem rangeErrs_code (he : rangeErrs s a n ≠ []) : errNum (firstErr (rangeErrs s a n)) ≠ 0 := by
  revert he
  unfold rangeErrs
  split
  · exact fun _ => by decide
  · exact fun _ => by decide
  · exact regionErrs_code _ _
  · exact regionErrs_code _ _

theorem tierRead_refused (k : TierSt → Nat → List (Byte × Bool) → Act) (he : rangeErrs s a n ≠ []) :
    ∃ c, c ≠ 0 ∧ (tierRead st 0 a n k).run s = (k st c []).run s := by
  refine ⟨_, rangeErrs_code s a n he, ?_⟩
  rw [tierRead, runs_look]
  change Act.run (match rangeErrs s a n with
    | [] => acts [touchLocal a n, look fun t => k st 0 (readLocal t a n)]
    | l => k st (errNum (firstErr l)) []) s = _
  split
  next h => exact absurd h he
  next => rfl

end

theorem tierWrite_here (s : State) (st : TierSt) (a : Nat) (bs : List (Byte × Bool)) (k : Nat → Nat → Act)
    (he : rangeErrs s a bs.length = []) (hw : writeRefused s a bs.length = false) :
    (tierWrite st 0 a bs k).run s = (k 0 bs.length).run ((writeLocal a bs).run s) := by
  rw [tierWrite, runs_look]
  change Act.run (if firstErr (rangeErrs s a bs.length ++ when (writeRefused s a bs.length) .permission) = .ok
    then (writeLocal a bs).seq (k 0 bs.length) else k (errNum (firstErr (rangeErrs s a bs.length ++
      when (writeRefused s a bs.length) .permission))) 0) s = _
  rw [he, hw, if_pos (by rfl), Act.run_seq]

theorem writeLocal_nil (s : State) (a : Nat) : (writeLocal a []).run s = s := by
  rw [writeLocal, runs_look]
  split <;> rfl

/-- Writing no bytes to a tier changes nothing, but that a far device may not be reached. -/
theorem tierWrite_nothing (s : State) (st : TierSt) (tier a : Nat) (k : Nat → Nat → Act) :
    ∃ c m u, (tierWrite st tier a [] k).run s = (k c m).run u ∧ (u = s ∨ u = noRoute.run s) := by
  rw [tierWrite, runs_look]
  dsimp only
  split
  · split
    · exact ⟨_, _, _, by rw [Act.run_seq, writeLocal_nil], Or.inl rfl⟩
    · exact ⟨_, _, _, rfl, Or.inl rfl⟩
  · split
    · exact ⟨_, _, _, Act.run_seq _ _ _, Or.inr rfl⟩
    · split
      · exact ⟨_, _, _, Act.run_seq _ _ _, Or.inl rfl⟩
      · exact ⟨_, _, _, Act.run_seq _ _ _, Or.inl rfl⟩
  · split
    · exact ⟨_, _, _, Act.run_seq _ _ _, Or.inl rfl⟩
    · exact ⟨_, _, _, rfl, Or.inl rfl⟩
  · split
    · exact ⟨_, _, _, Act.run_seq _ _ _, Or.inl rfl⟩
    · exact ⟨_, _, _, rfl, Or.inl rfl⟩
  · exact ⟨_, _, _, rfl, Or.inl rfl⟩

end Sys2Proof.Machine
end

section
/-! PROOF. MOVE_DONE: the copy is made and the entry flips, or the entry stays where it was (R311). -/

namespace Sys2Proof.Machine

/-! ### The entry -/

/-- An entry as a finished move leaves it: of tier `dst`, at `dest`. -/
def entryFlip (e : List Byte) (dst dest : Nat) : List Byte :=
  putAt (putAt (putAt e 0 (leBytes 1 (setBits (recLE e 0 1) 3 1 dst) ++ leBytes 1 0)) 4 (leBytes 4 (otGen e + 1))) 16 (leBytes 8 dest)

/-- An entry as a refused move leaves it. -/
def entryStay (e : List Byte) : List Byte := putAt e 1 (leBytes 1 0)

/-- What a finished move leaves of its entry. -/
structure Flipped (e e' : List Byte) (dst dest : Nat) : Prop where
  valid : otValid e' = otValid e
  tier : otTier e' = dst
  moving : otMoving e' = false
  gen : otGen e' = (otGen e + 1) % 2 ^ 32
  size : otSize e' = otSize e
  addr : otAddr e' = dest

section
variable (e : List Byte) (he : e.length = 64) (dst dest : Nat)
include he

theorem entryFlip_lengths : (putAt e 0 (leBytes 1 (setBits (recLE e 0 1) 3 1 dst) ++ leBytes 1 0)).length = 64 ∧
    (putAt (putAt e 0 (leBytes 1 (setBits (recLE e 0 1) 3 1 dst) ++ leBytes 1 0)) 4 (leBytes 4 (otGen e + 1))).length = 64 := by
  have h1 : (putAt e 0 (leBytes 1 (setBits (recLE e 0 1) 3 1 dst) ++ leBytes 1 0)).length = 64 := by
    rw [length_putAt _ _ _ (by simp only [List.length_append, length_leBytes, he]; decide), he]
  exact ⟨h1, by rw [length_putAt _ _ _ (by rw [length_leBytes, h1]; decide), h1]⟩

theorem entryFlip_length : (entryFlip e dst dest).length = 64 := by
  obtain ⟨-, h2⟩ := entryFlip_lengths e he dst
  rw [entryFlip, length_putAt _ _ _ (by rw [length_leBytes, h2]; decide), h2]

theorem entryFlip_fields (hd : dst < 8) (hdest : dest < 2 ^ 64) : Flipped e (entryFlip e dst dest) dst dest := by
  obtain ⟨h1, h2⟩ := entryFlip_lengths e he dst
  have hlt := recLE_lt e 0 1
  have hhead : ∀ p n, p + n ≤ 2 → recLE (entryFlip e dst dest) p n = recLE (leBytes 1 (setBits (recLE e 0 1) 3 1 dst) ++ leBytes 1 0) p n := by
    intro p n h
    rw [entryFlip, recLE_putAt_before _ _ _ _ _ (by omega) (by omega), recLE_putAt_before _ _ _ _ _ (by omega) (by omega)]
    have := recLE_putAt_in e 0 p n (leBytes 1 (setBits (recLE e 0 1) 3 1 dst) ++ leBytes 1 0)
      (by rw [List.length_append, length_leBytes, length_leBytes]; exact h) (by omega)
    rwa [Nat.zero_add] at this
  have h0 : recLE (entryFlip e dst dest) 0 1 = setBits (recLE e 0 1) 3 1 dst := by
    rw [hhead 0 1 (by decide), recLE_append_left _ _ _ _ (by rw [length_leBytes]), recLE_leBytes]
    refine Nat.mod_eq_of_lt ?_
    simp only [setBits, bits]
    omega
  have hb1 : recLE (entryFlip e dst dest) 1 1 = 0 := by
    rw [hhead 1 1 (by decide), recLE_append_right _ _ _ _ (by rw [length_leBytes]), length_leBytes, recLE_leBytes, Nat.zero_mod]
  have hgen : recLE (entryFlip e dst dest) 4 4 = (otGen e + 1) % 256 ^ 4 := by
    rw [entryFlip, recLE_putAt_before _ _ _ _ _ (by decide) (by omega)]
    have := recLE_putAt_in (putAt e 0 (leBytes 1 (setBits (recLE e 0 1) 3 1 dst) ++ leBytes 1 0)) 4 0 4 (leBytes 4 (otGen e + 1))
      (by rw [length_leBytes]) (by omega)
    rw [this, recLE_leBytes]
  have hsize : recLE (entryFlip e dst dest) 8 8 = recLE e 8 8 := by
    rw [entryFlip, recLE_putAt_before _ _ _ _ _ (by decide) (by omega), recLE_putAt_after _ _ _ _ _ (by rw [length_leBytes])
      (by rw [length_leBytes]; omega), recLE_putAt_after _ _ _ _ _ (by rw [List.length_append, length_leBytes, length_leBytes]; decide)
      (by rw [List.length_append, length_leBytes, length_leBytes]; omega)]
  have haddr : recLE (entryFlip e dst dest) 16 8 = dest := by
    have := recLE_putAt_in (putAt (putAt e 0 (leBytes 1 (setBits (recLE e 0 1) 3 1 dst) ++ leBytes 1 0)) 4 (leBytes 4 (otGen e + 1))) 16 0 8
      (leBytes 8 dest) (by rw [length_leBytes]) (by omega)
    rw [entryFlip, this, recLE_leBytes]
    exact Nat.mod_eq_of_lt hdest
  refine ⟨?_, ?_, by rw [otMoving, hb1]; rfl, hgen, by rw [otSize, hsize]; rfl, haddr⟩
  · rw [otValid, otValid, h0, bit, bit, Nat.testBit_zero, Nat.testBit_zero]
    simp only [setBits, bits]
    congr 1
    simp only [eq_iff_iff]
    omega
  · rw [otTier, h0]
    simp only [setBits, bits]
    omega

theorem entryStay_length : (entryStay e).length = 64 := by
  rw [entryStay, length_putAt _ _ _ (by rw [length_leBytes, he]; decide), he]

theorem entryStay_fields : otTier (entryStay e) = otTier e ∧ otAddr (entryStay e) = otAddr e ∧ otGen (entryStay e) = otGen e ∧
    otMoving (entryStay e) = false := by
  have hafter : ∀ p n, 2 ≤ p → recLE (entryStay e) p n = recLE e p n := fun p n h => by
    rw [entryStay, recLE_putAt_after _ _ _ _ _ (by rw [length_leBytes]; exact h) (by rw [length_leBytes]; omega)]
  have h0 : recLE (entryStay e) 0 1 = recLE e 0 1 := by rw [entryStay, recLE_putAt_before _ _ _ _ _ (by decide) (by omega)]
  have h1 : recLE (entryStay e) 1 1 = 0 := by
    have := recLE_putAt_in e 1 0 1 (leBytes 1 0) (by rw [length_leBytes]) (by omega)
    rw [entryStay, this, recLE_leBytes, Nat.zero_mod]
  exact ⟨by rw [otTier, h0]; rfl, hafter 16 8 (by decide), hafter 4 4 (by decide), by rw [otMoving, h1]; rfl⟩

end

/-! ### The end of a move -/

/-- What the end of a move carries out: its entry is written, flipped or as it was, the move is over, its target goes out. -/
def moveFinish (h d dst dest : Nat) (ok : Bool) : Act := look fun t =>
  acts [
    if ok then optPut h (entryFlip (optRec t h) dst dest)
      else acts [optPut h (entryStay (optRec t h)), cnt OPTB_OCNT 2, raiseEvt optbPg (2 ^ 16)],
    upd (.moves (t.moves.filter fun x => x.1 != h)),
    sendTarget0 (srcOf optbPg) d]

/-- What a move carries out once nothing keeps it. -/
def moveBody (s : State) (h d : Nat) (ans : List RemoteAns) : Act :=
  if recLE (optRec s h) 40 1 = 4 ∨ otTier (optRec s h) = 4 then moveFinish h d (recLE (optRec s h) 40 1) (recLE (optRec s h) 32 8) true
  else tierRead ⟨.none, ans⟩ (otTier (optRec s h)) (otAddr (optRec s h)) (otSize (optRec s h)) fun st c bs =>
    if c = 0 then tierWrite st (recLE (optRec s h) 40 1) (recLE (optRec s h) 32 8) bs fun c _ =>
      moveFinish h d (recLE (optRec s h) 40 1) (recLE (optRec s h) 32 8) (c == 0)
    else tierWrite st (recLE (optRec s h) 40 1) (recLE (optRec s h) 32 8) bs fun _ _ =>
      moveFinish h d (recLE (optRec s h) 40 1) (recLE (optRec s h) 32 8) false

theorem moveDone_run (s : State) (h d : Nat) (ans : List RemoteAns) (hm : s.moves.find? (fun m => m.1 == h) = some (h, d))
    (hw : pfWriting s h = false) : exec (.moveDone h ans) s = .next ((moveBody s h d ans).run s) := by
  show Host.Outcome.next ((moveDone h ans).run s) = _
  rw [moveDone, run_look, hm]
  dsimp only
  rw [hw, if_neg Bool.false_ne_true]
  rfl

/-- A field of the page of the placement table lies beyond what a target touches. -/
theorem optb_sent (s : State) (x y : Nat) (f : Fld) (n : Nat) (hb : f.blk = .optb) (h0 : 0x40 ≤ f.off + n * f.stride)
    (ho : f.off + n * f.stride < 4096) : fv ((sendTarget0 x y).run s) f 0 n = fv s f 0 n :=
  (sendTarget0_off (b := .optb) (by decide) x y).fv s f 0 n (hb ▸ not_offBlk f 0 n (by decide) h0 ho)

section
variable (t : State) (h d dst dest : Nat) (hs : still t)
include hs

/-- An entry that is put is there, and nothing else of memory changed. -/
theorem optPut_still (e : List Byte) (he : e.length = 64) : ∃ w, (optPut h e).run t =
    { t with mem := mapPut memDefault t.mem (optAddr t h) e, written := w } ∧
    ∀ v : State, v.mem = mapPut memDefault t.mem (optAddr t h) e → v.syn = [] → fv v OPTB_OPT_BASE = fv t OPTB_OPT_BASE →
      optRec v h = e ∧ memOutside t v [(optAddr t h, 64)] := by
  have hne : e.isEmpty = false := by
    rw [List.isEmpty_eq_false_iff]; intro h; rw [h] at he; cases he
  obtain ⟨w, hw⟩ := hbmPut_state t (optAddr t h) e hs.1 (hs.2 _) hne
  refine ⟨w, hw, fun v hm hv hb => ⟨?_, ?_⟩⟩
  · have := hbmBytesAt_mapPut t v (optAddr t h) e hv hm
    rw [he] at this
    rw [optRec, show optAddr v h = optAddr t h by rw [optAddr, hb]; rfl]
    exact this
  · have := memOutside_mapPut t v (optAddr t h) e hm
    rwa [he] at this

/-- The move ends well. -/
theorem moveFinish_flips : optRec ((moveFinish h d dst dest true).run t) h = entryFlip (optRec t h) dst dest ∧
    memOutside t ((moveFinish h d dst dest true).run t) [(optAddr t h, 64)] ∧
    ((moveFinish h d dst dest true).run t).moves = t.moves.filter fun m => m.1 != h := by
  obtain ⟨w, hw, hread⟩ := optPut_still t h hs (entryFlip (optRec t h) dst dest) (entryFlip_length _ (hbmBytesAt_length ..) _ _)
  rw [moveFinish, run_look, run_acts_cons, run_acts_cons, run_acts_cons, runs_nil, if_pos rfl, hw]
  have hsend := sendTarget0_within (srcOf optbPg) d
  obtain ⟨h1, h2⟩ := hread ((sendTarget0 (srcOf optbPg) d).run ((upd (.moves (t.moves.filter fun x => x.1 != h))).run
    { t with mem := mapPut memDefault t.mem (optAddr t h) (entryFlip (optRec t h) dst dest), written := w }))
    (hsend.same .mem (by decide) _) ((hsend.same .syn (by decide) _).trans hs.1)
    (optb_sent _ _ _ OPTB_OPT_BASE 0 rfl (by decide) (by decide))
  exact ⟨h1, h2, hsend.same .moves (by decide) _⟩

/-- The move ends where it began. -/
theorem moveFinish_stays : optRec ((moveFinish h d dst dest false).run t) h = entryStay (optRec t h) ∧
    ((moveFinish h d dst dest false).run t).moves = (t.moves.filter fun m => m.1 != h) ∧
    counted t ((moveFinish h d dst dest false).run t) OPTB_OCNT 0 2 1 ∧ pending ((moveFinish h d dst dest false).run t) optbPg 16 := by
  obtain ⟨w, hw, hread⟩ := optPut_still t h hs (entryStay (optRec t h)) (entryStay_length _ (hbmBytesAt_length ..))
  rw [moveFinish, run_look, run_acts_cons, run_acts_cons, run_acts_cons, runs_nil, if_neg (by decide), run_acts_cons, run_acts_cons,
    run_acts_cons, runs_nil, hw]
  generalize hu : (cnt OPTB_OCNT 2).run { t with mem := mapPut memDefault t.mem (optAddr t h) (entryStay (optRec t h)), written := w } = u
  have hmem : u.mem = mapPut memDefault t.mem (optAddr t h) (entryStay (optRec t h)) := by rw [← hu]; rfl
  have hsyn : u.syn = [] := by rw [← hu]; exact hs.1
  have hbase : fv u OPTB_OPT_BASE = fv t OPTB_OPT_BASE := by
    rw [← hu]
    exact fv_incF_page _ OPTB_OCNT OPTB_OPT_BASE 1 0 2 0 rfl (by decide) (Or.inl (by decide))
  have hcnt : fv u OPTB_OCNT 0 2 = min (2 ^ 32 - 1) (fv t OPTB_OCNT 0 2 + 1) := by
    rw [← hu]
    exact fv_incF_word _ OPTB_OCNT 0 2 rfl rfl
  have hev := raiseEvt_off (b := .optb) (by decide) optbPg (2 ^ 16)
  have hpend := pending_raiseEvt optbPg (2 ^ 16) 16 u (by decide) (by decide)
  have hfar : ∀ n, n < 3 → ¬ offBlk .optb (fldKey OPTB_OCNT 0 n) := fun n hn =>
    not_offBlk OPTB_OCNT 0 n (by decide) (by simp only [OPTB_OCNT]; omega) (by simp only [OPTB_OCNT]; omega)
  have hm1 : ((raiseEvt optbPg (2 ^ 16)).run u).mem = u.mem := (raiseEvt_within optbPg _).same .mem (by decide) u
  have hm2 : ((raiseEvt optbPg (2 ^ 16)).run u).syn = u.syn := (raiseEvt_within optbPg _).same .syn (by decide) u
  have hb1 := hev.fv u OPTB_OPT_BASE 0 0 (not_offBlk OPTB_OPT_BASE 0 0 (by decide) (by decide) (by decide))
  have hc1 := hev.fv u OPTB_OCNT 0 2 (hfar 2 (by decide))
  generalize (raiseEvt optbPg (2 ^ 16)).run u = v at hpend hm1 hm2 hb1 hc1
  have hsend := sendTarget0_within (srcOf optbPg) d
  obtain ⟨h1, -⟩ := hread ((sendTarget0 (srcOf optbPg) d).run ((upd (.moves (t.moves.filter fun x => x.1 != h))).run v))
    ((hsend.same .mem (by decide) _).trans (hm1.trans hmem)) ((hsend.same .syn (by decide) _).trans (hm2.trans hsyn))
    ((optb_sent _ _ _ OPTB_OPT_BASE 0 rfl (by decide) (by decide)).trans (hb1.trans hbase))
  refine ⟨h1, hsend.same .moves (by decide) _, ?_, pending_sendTarget0 _ _ _ _ _ hpend⟩
  rw [counted, optb_sent _ _ _ OPTB_OCNT 2 rfl (by decide) (by decide)]
  exact hc1.trans hcnt

end

end Sys2Proof.Machine
end

section
/-! PROOF. The rules of MOVE_DONE (R311). -/

namespace Sys2Proof.Machine

theorem noRoute_off {b : Blk} (h : b ∉ [Blk.pres, .link, .slqp]) : noRoute.Within fabricParts (offBlk b) :=
  noRoute_sendKeys.regs fun k hk => offBlk_of_hdrOr h k (hdrOr_sent k (Or.inr hk))

/-- A state that differs by nothing but a far device's not being reached. -/
structure Beside (s u : State) : Prop where
  mem : u.mem = s.mem
  syn : u.syn = s.syn
  moves : u.moves = s.moves
  pfs : u.pfs = s.pfs
  still : still s → still u
  reg : ∀ (f : Fld) (i n : Nat), f.blk ∉ [Blk.pres, .link, .slqp] → i < 256 → 0x40 ≤ f.off + n * f.stride → f.off + n * f.stride < 4096 →
    fv u f i n = fv s f i n

theorem beside_of (s u : State) (h : u = s ∨ u = noRoute.run s) : Beside s u := by
  rcases h with rfl | rfl
  · exact ⟨rfl, rfl, rfl, rfl, id, fun _ _ _ _ _ _ _ => rfl⟩
  · exact ⟨noRoute_sendKeys.same .mem (by decide) s, noRoute_sendKeys.same .syn (by decide) s, noRoute_sendKeys.same .moves (by decide) s,
      noRoute_sendKeys.same .pfs (by decide) s, still_within (noRoute_off (by decide)) (by decide) s,
      fun f i n hb hi h0 ho => (noRoute_off hb).fv s f i n (not_offBlk f i n hi h0 ho)⟩

theorem Beside.optRec {s u : State} (h : Beside s u) (k : Nat) : optRec u k = optRec s k := by
  have hb : optAddr u k = optAddr s k := by rw [optAddr, h.reg OPTB_OPT_BASE 0 0 (by decide) (by decide) (by decide) (by decide)]; rfl
  rw [Machine.optRec, hb]
  exact hbmBytesAt_congr h.mem h.syn _ _

theorem rangesMeet_false {a b : Nat × Nat} (h : rangesMeet a b = false) (k : Nat) (h1 : a.1 ≤ k) (h2 : k < a.1 + a.2) :
    k < b.1 ∨ b.1 + b.2 ≤ k := by
  simp only [rangesMeet, Bool.and_eq_false_iff, decide_eq_false_iff_not] at h
  omega

/-- A copy's destination, written from what its source holds. -/
theorem copied_mapPut {s : State} {m : List Host.Cell} {a b n : Nat}
    (hm : ∀ k, mapGet memDefault m k = mapGet memDefault (mapPut memDefault s.mem b (mapRead memDefault s.mem a n)) k) :
    (∀ i, i < n → mapGet memDefault m (b + i) = mapGet memDefault s.mem (a + i)) ∧
      ∀ k, (k < b ∨ b + n ≤ k) → mapGet memDefault m k = mapGet memDefault s.mem k := by
  have hl : (mapRead memDefault s.mem a n).length = n := by simp [mapRead]
  refine ⟨fun i hi => ?_, fun k hk => ?_⟩
  · rw [hm, mapGet_mapPut, if_pos (by omega), Nat.add_sub_cancel_left, List.getD_eq_getElem _ _ (by omega)]
    simp [mapRead]
  · rw [hm, mapGet_mapPut, if_neg (by omega)]

/-- A range of HBM copied to another. -/
theorem writeLocal_copies (s : State) (a b n : Nat) (hs : still s) (ha : isHbmAddr s a = true) (hb : isHbmAddr s b = true)
    (hv : viewsMet s a n = []) : ∃ m w, (writeLocal b (readLocal s a n)).run s = { s with mem := m, written := w } ∧
      (∀ i, i < n → mapGet memDefault m (b + i) = mapGet memDefault s.mem (a + i)) ∧
      ∀ k, (k < b ∨ b + n ≤ k) → mapGet memDefault m k = mapGet memDefault s.mem k := by
  obtain ⟨m, w, hw, hm⟩ := writeLocal_hbm s b (readLocal s a n) hs hb fun x hx => by
    have h := readLocal_unmarked s a n hs.1
    rw [List.any_eq_false] at h
    simpa using h x hx
  rw [readLocal_hbm s a n hs.1 ha hv] at hm
  obtain ⟨h1, h2⟩ := copied_mapPut hm
  exact ⟨m, w, hw, h1, h2⟩

theorem optRec_length (s : State) (h : Nat) : (optRec s h).length = 64 := hbmBytesAt_length ..

theorem optDest_lt (s : State) (h : Nat) : recLE (optRec s h) 32 8 < 2 ^ 64 := recLE_lt (optRec s h) 32 8

/-- An entry that no write met is as it was. -/
theorem optRec_unmet (s : State) (m w : List _) (h : Nat) (hsyn : s.syn = [])
    (hm : ∀ k, optAddr s h ≤ k → k < optAddr s h + 64 → mapGet memDefault m k = mapGet memDefault s.mem k) :
    optRec { s with mem := m, written := w } h = optRec s h := by
  have haddr : optAddr { s with mem := m, written := w } h = optAddr s h := rfl
  rw [optRec, haddr, hbmBytesAt_of_syn_nil { s with mem := m, written := w } _ _ hsyn, optRec, hbmBytesAt_of_syn_nil s _ _ hsyn]
  exact mapRead_congr _ _ _ _ hm

section
variable (s : State) (h d : Nat) (ans : List RemoteAns) (hc : calm s)
include hc

/-- A move within HBM. -/
theorem moveBody_local (hsrc : otTier (optRec s h) = 0) (hdst : recLE (optRec s h) 40 1 = 0) (ha : isHbmAddr s (otAddr (optRec s h)) = true)
    (hb : isHbmAddr s (recLE (optRec s h) 32 8) = true) (he1 : rangeErrs s (otAddr (optRec s h)) (otSize (optRec s h)) = [])
    (he2 : rangeErrs s (recLE (optRec s h) 32 8) (otSize (optRec s h)) = [])
    (hw : writeRefused s (recLE (optRec s h) 32 8) (otSize (optRec s h)) = false)
    (hv : viewsMet s (otAddr (optRec s h)) (otSize (optRec s h)) = [])
    (hr : rangesMeet (recLE (optRec s h) 32 8, otSize (optRec s h)) (optAddr s h, 64) = false) :
    optRec ((moveBody s h d ans).run s) h = entryFlip (optRec s h) 0 (recLE (optRec s h) 32 8) ∧
      ((moveBody s h d ans).run s).moves = (s.moves.filter fun m => m.1 != h) ∧
      copied s ((moveBody s h d ans).run s) (otAddr (optRec s h)) (recLE (optRec s h) 32 8) (otSize (optRec s h)) ∧
      memOutside s ((moveBody s h d ans).run s) [(optAddr s h, 64), (recLE (optRec s h) 32 8, otSize (optRec s h))] := by
  obtain ⟨m, w, hw', hin, hout⟩ := writeLocal_copies s _ _ _ (still_of_calm hc) ha hb hv
  have hrun : (moveBody s h d ans).run s = (moveFinish h d 0 (recLE (optRec s h) 32 8) true).run { s with mem := m, written := w } := by
    rw [moveBody, if_neg (by omega), hsrc, tierRead_here s _ _ _ _ hc he1, if_pos rfl, hdst,
      tierWrite_here s _ _ _ _ (by rw [readLocal_length]; exact he2) (by rw [readLocal_length]; exact hw), hw']
    rfl
  rw [hrun]
  have hfar : ∀ k, recLE (optRec s h) 32 8 ≤ k → k < recLE (optRec s h) 32 8 + otSize (optRec s h) →
      k < optAddr s h ∨ optAddr s h + 64 ≤ k := fun k h1 h2 => rangesMeet_false hr k h1 h2
  have hrec : optRec { s with mem := m, written := w } h = optRec s h := optRec_unmet s m w h hc.1 fun k h1 h2 => hout k (by
    have := hfar k
    omega)
  have haddr : optAddr { s with mem := m, written := w } h = optAddr s h := rfl
  have hmem : ({ s with mem := m, written := w } : State).mem = m := rfl
  have hmoves : ({ s with mem := m, written := w } : State).moves = s.moves := rfl
  have hst : still { s with mem := m, written := w } := still_of_calm hc
  generalize ({ s with mem := m, written := w } : State) = u at hrec haddr hmem hmoves hst ⊢
  obtain ⟨f1, f2, f3⟩ := moveFinish_flips u h d 0 (recLE (optRec s h) 32 8) hst
  rw [hrec] at f1
  rw [hmoves] at f3
  have hkeep : ∀ k, (k < optAddr s h ∨ optAddr s h + 64 ≤ k) →
      mapGet memDefault ((moveFinish h d 0 (recLE (optRec s h) 32 8) true).run u).mem k = mapGet memDefault m k := fun k hk => by
    rw [f2 k fun x hx => by rw [List.mem_singleton.1 hx, haddr]; exact hk, hmem]
  refine ⟨f1, f3, fun i hi => ?_, fun k hk => ?_⟩
  · rw [hkeep _ (hfar _ (Nat.le_add_right ..) (Nat.add_lt_add_left hi _))]
    exact hin i hi
  · rw [hkeep k (hk (optAddr s h, 64) (List.mem_cons_self ..))]
    exact hout k (hk (recLE (optRec s h) 32 8, otSize (optRec s h)) (by simp))

/-- A move to no tier, or from none. -/
theorem moveBody_untiered (hdst : recLE (optRec s h) 40 1 = 4) :
    optRec ((moveBody s h d ans).run s) h = entryFlip (optRec s h) 4 (recLE (optRec s h) 32 8) ∧
      ((moveBody s h d ans).run s).moves = (s.moves.filter fun m => m.1 != h) ∧
      memOutside s ((moveBody s h d ans).run s) [(optAddr s h, 64)] := by
  rw [moveBody, if_pos (Or.inl hdst), hdst]
  obtain ⟨f1, f2, f3⟩ := moveFinish_flips s h d 4 (recLE (optRec s h) 32 8) (still_of_calm hc)
  exact ⟨f1, f3, f2⟩

/-- A move whose source refuses. -/
theorem moveBody_refused (hsrc : otTier (optRec s h) = 0) (hdst : recLE (optRec s h) 40 1 < 4)
    (he : rangeErrs s (otAddr (optRec s h)) (otSize (optRec s h)) ≠ []) :
    optRec ((moveBody s h d ans).run s) h = entryStay (optRec s h) ∧
      ((moveBody s h d ans).run s).moves = (s.moves.filter fun m => m.1 != h) ∧
      counted s ((moveBody s h d ans).run s) OPTB_OCNT 0 2 1 ∧ pending ((moveBody s h d ans).run s) optbPg 16 := by
  rw [moveBody, if_neg (by omega), hsrc]
  obtain ⟨c, hc0, hrun⟩ := tierRead_refused s ⟨.none, ans⟩ _ _ (fun st c bs =>
    if c = 0 then tierWrite st (recLE (optRec s h) 40 1) (recLE (optRec s h) 32 8) bs fun c _ =>
      moveFinish h d (recLE (optRec s h) 40 1) (recLE (optRec s h) 32 8) (c == 0)
    else tierWrite st (recLE (optRec s h) 40 1) (recLE (optRec s h) 32 8) bs fun _ _ =>
      moveFinish h d (recLE (optRec s h) 40 1) (recLE (optRec s h) 32 8) false) he
  rw [hrun, if_neg hc0]
  obtain ⟨c', m', u, hu, hb⟩ := tierWrite_nothing s ⟨.none, ans⟩ (recLE (optRec s h) 40 1) (recLE (optRec s h) 32 8)
    (fun _ _ => moveFinish h d (recLE (optRec s h) 40 1) (recLE (optRec s h) 32 8) false)
  rw [hu]
  have hbe := beside_of s u hb
  obtain ⟨f1, f2, f3, f4⟩ := moveFinish_stays u h d (recLE (optRec s h) 40 1) (recLE (optRec s h) 32 8) (hbe.still (still_of_calm hc))
  rw [hbe.optRec] at f1
  rw [hbe.moves] at f2
  rw [counted, hbe.reg OPTB_OCNT 0 2 (by decide) (by decide) (by decide) (by decide)] at f3
  exact ⟨f1, f2, f3, f4⟩

end

end Sys2Proof.Machine
end

section
/-! PROOF. Prefetches: taken from the window, bound, ended (R312 to R314). -/

namespace Sys2Proof.Machine

/-! ### Taken from the window -/

/-- A PREFETCH at the front of a window is taken, and accepted or rejected. -/
theorem hbmTake_prefetch (s : State) (site : Nat) (w : WinRec) (rest : List WinRec) (hf : fifoOf s site = w :: rest) (hm : w.marked = false)
    (ht : recLE w.bytes 0 1 = 1) : (hbmTake site 1).run s =
      (if firstErr (pfErrs s site w.bytes) = .ok then pfAccept site w.bytes
        else recordReject (hbmcPg site) 0 (firstErr (pfErrs s site w.bytes))).run ((fifoPop site).run s) := by
  rw [hbmTake, run_look, hf, List.length_cons, hbmWindow, run_look, hf]
  dsimp only
  rw [ht, if_neg (by simp), if_neg (by simp), if_neg (by decide), hm, run_acts_cons, run_acts_cons, runs_nil, run_acts_cons, run_acts_cons,
    runs_nil, runs_false]

theorem fifoOf_fifoPop (s : State) (site : Nat) (w : WinRec) (rest : List WinRec) (hf : fifoOf s site = w :: rest) :
    fifoOf ((fifoPop site).run s) site = rest := by
  have : fifoOf ((fifoPop site).run s) site = (fifoOf s site).drop 1 := mapGet_mapSet_self _ _ _ _
  rw [this, hf]; rfl

theorem pfsOf_congr {s t : State} (h : t.pfs = s.pfs) (j : Nat) : pfsOf t j = pfsOf s j := by unfold pfsOf; rw [h]

section
variable (s : State) (site : Nat) (w : WinRec) (rest : List WinRec) (hf : fifoOf s site = w :: rest) (hm : w.marked = false)
  (ht : recLE w.bytes 0 1 = 1)
include hf hm ht

theorem prefetch_taken (hok : firstErr (pfErrs s site w.bytes) = .ok) (hl : pfLen w.bytes ≠ 0) : ∃ t, exec (.prefetch site) s = .next t ∧
    fifoOf t site = rest ∧ pfsOf t site = pfsOf s site ++ [⟨w.bytes, none, false⟩] ∧
    (pfFlag w.bytes 0 = true → reached s (pfGate w.bytes) = true → counted s t HBMC_HCNT site 1 1) := by
  refine ⟨_, congrArg Host.Outcome.next (hbmTake_prefetch s site w rest hf hm ht), ?_⟩
  rw [if_pos hok, pfAccept, run_look, if_neg hl, run_acts_cons, run_acts_cons, runs_nil]
  have hpop := fifoOf_fifoPop s site w rest hf
  have hcnt := fv_incF_word ((fifoPop site).run s) HBMC_HCNT site 1 rfl rfl
  have hr : reached ((fifoPop site).run s) (pfGate w.bytes) = reached s (pfGate w.bytes) := rfl
  refine ⟨?_, ?_, fun h1 h2 => ?_⟩
  · rw [run_onlyIf]; split <;> exact hpop
  · rw [pfsOf_setPfs, run_onlyIf]; split <;> rfl
  · rw [hr, run_onlyIf_of_true _ _ (by rw [h1, h2]; rfl)]
    exact hcnt

theorem prefetch_rejected (hok : firstErr (pfErrs s site w.bytes) ≠ .ok) : ∃ t, exec (.prefetch site) s = .next t ∧
    fifoOf t site = rest ∧ pfsOf t site = pfsOf s site ∧ counted s t (hdrErrCnt .hbmc) site 0 1 := by
  refine ⟨_, congrArg Host.Outcome.next (hbmTake_prefetch s site w rest hf hm ht), ?_⟩
  rw [if_neg hok]
  have hrej := recordReject_within (hbmcPg site) 0 (firstErr (pfErrs s site w.bytes))
  refine ⟨?_, pfsOf_congr (hrej.same .pfs (by decide) _) site, recordReject_errCnt ((fifoPop site).run s) (hbmcPg site) 0 _⟩
  rw [fifoOf, hrej.same .fifos (by decide) _]
  exact fifoOf_fifoPop s site w rest hf

end

/-! ### Bound to its entry -/

/-- What a prefetch carries out whose entry has been read. -/
def pfBind (site i : Nat) (p : Pf) : Act := look fun t =>
  if !fb t OPTB_OPT_EN || !otValid (optRec t (pfObj p.rec_)) || decide (otSize (optRec t (pfObj p.rec_)) < pfOffset p.rec_ + pfLen p.rec_) then
    acts [cnt HBMC_HCNT 0 site, setPfs site fun l => l.eraseIdx i, pfEnd site p.rec_ 3 (errNum eMemObj)
      (otTier (optRec t (pfObj p.rec_))) (otGen (optRec t (pfObj p.rec_))) 0]
  else if otTier (optRec t (pfObj p.rec_)) = 4 then acts [cnt HBMC_HCNT 0 site, setPfs site fun l => l.eraseIdx i, pfEnd site p.rec_ 2 0
      (otTier (optRec t (pfObj p.rec_))) (otGen (optRec t (pfObj p.rec_))) 0]
  else if otMoving (optRec t (pfObj p.rec_)) && pfWrite p.rec_ then
    onlyIf (!p.waited) (acts [cnt HBMC_HCNT 2 site, setPfs site fun l => l.set i { p with waited := true }])
  else acts [cnt HBMC_HCNT 0 site, setPfs site fun l => l.set i { p with
    bound := some (otTier (optRec t (pfObj p.rec_)), otGen (optRec t (pfObj p.rec_)), otAddr (optRec t (pfObj p.rec_))) }]

section
variable {s : State} {site i n : Nat} {p : Pf} (hs : site < 12) (hp : (pfsOf s site)[i]? = some p) (hb : p.bound = none)
  (hrun : pfRunning s site < 32) (hgate : pfFlag p.rec_ 0 = true → reached ((timeTo n).run s) (pfGate p.rec_) = true) (hc : calm s)

section
include hp hb hrun hgate hc

theorem prefetchStart_run : exec (.prefetchStart site i n) s = .next ((pfBind site i p).run ((timeTo n).run s)) := by
  show Host.Outcome.next ((acts [timeTo n, pfStart site i]).run s) = _
  have hp' : (pfsOf ((timeTo n).run s) site)[i]? = some p := hp
  have hrun' : pfRunning ((timeTo n).run s) site < 32 := hrun
  have hc' : calm ((timeTo n).run s) := hc
  rw [run_acts_cons, run_acts_cons, runs_nil]
  generalize (timeTo n).run s = u at hgate hp' hrun' hc'
  have hread : (onlyIf (fb u OPTB_OPT_EN) (readRecords (hbmcPg site) [(optAddr u (pfObj p.rec_), 64)])).run u = u := by
    rw [run_onlyIf]
    split
    · exact readRecords_calm u _ _ hc'.1 hc'.2.1
    · rfl
  have hgo : (pfFlag p.rec_ 0 && !reached u (pfGate p.rec_)) = false := by
    cases h : pfFlag p.rec_ 0
    · rfl
    · rw [hgate h]; rfl
  rw [pfStart, run_look, hp']
  dsimp only
  rw [hgo, if_neg (by simp [hb]; omega), run_acts_cons, run_acts_cons, runs_nil, hread]
  rfl

theorem prefetchStart_binds (hk : (fb s OPTB_OPT_EN && otValid (optRec s (pfObj p.rec_)) &&
      decide (pfOffset p.rec_ + pfLen p.rec_ ≤ otSize (optRec s (pfObj p.rec_)))) = true) (h4 : otTier (optRec s (pfObj p.rec_)) ≠ 4)
    (hm : otMoving (optRec s (pfObj p.rec_)) = false ∨ pfWrite p.rec_ = false) : ∃ t, exec (.prefetchStart site i n) s = .next t ∧
      counted s t HBMC_HCNT site 0 1 ∧ pfsOf t site = (pfsOf s site).set i { p with
        bound := some (otTier (optRec s (pfObj p.rec_)), otGen (optRec s (pfObj p.rec_)), otAddr (optRec s (pfObj p.rec_))) } ∧
      t.mem = s.mem := by
  refine ⟨_, prefetchStart_run hp hb hrun hgate hc, ?_⟩
  simp only [Bool.and_eq_true, decide_eq_true_eq] at hk
  obtain ⟨⟨h1, h2⟩, h3⟩ := hk
  have e1 : fb ((timeTo n).run s) OPTB_OPT_EN = true := h1
  have e2 : optRec ((timeTo n).run s) (pfObj p.rec_) = optRec s (pfObj p.rec_) := rfl
  have e3 : pfsOf ((timeTo n).run s) site = pfsOf s site := rfl
  have e4 := fv_incF_word ((timeTo n).run s) HBMC_HCNT site 0 rfl rfl
  have e5 : fv ((timeTo n).run s) HBMC_HCNT site 0 = fv s HBMC_HCNT site 0 := rfl
  have e6 : ((timeTo n).run s).mem = s.mem := rfl
  generalize (timeTo n).run s = u at e1 e2 e3 e4 e5 e6
  rw [pfBind, run_look, e1, e2, h2, decide_eq_false (by omega), if_neg (by decide), if_neg h4,
    if_neg (by rcases hm with h | h <;> simp [h]), run_acts_cons, run_acts_cons, runs_nil]
  refine ⟨e4.trans (by rw [e5]), ?_, e6⟩
  rw [pfsOf_setPfs, ← e3]
  rfl

theorem prefetchStart_waits (hk : (fb s OPTB_OPT_EN && otValid (optRec s (pfObj p.rec_)) &&
      decide (pfOffset p.rec_ + pfLen p.rec_ ≤ otSize (optRec s (pfObj p.rec_)))) = true) (h4 : otTier (optRec s (pfObj p.rec_)) ≠ 4)
    (hm : otMoving (optRec s (pfObj p.rec_)) = true) (hw : pfWrite p.rec_ = true) : ∃ t, exec (.prefetchStart site i n) s = .next t ∧
      fv t HBMC_HCNT site 0 = fv s HBMC_HCNT site 0 ∧ counted s t HBMC_HCNT site 2 (b2n (!p.waited)) ∧
      pfsOf t site = (pfsOf s site).set i { p with waited := true } := by
  refine ⟨_, prefetchStart_run hp hb hrun hgate hc, ?_⟩
  simp only [Bool.and_eq_true, decide_eq_true_eq] at hk
  obtain ⟨⟨h1, h2⟩, h3⟩ := hk
  have e1 : fb ((timeTo n).run s) OPTB_OPT_EN = true := h1
  have e2 : optRec ((timeTo n).run s) (pfObj p.rec_) = optRec s (pfObj p.rec_) := rfl
  have e3 : pfsOf ((timeTo n).run s) site = pfsOf s site := rfl
  have e4 := fv_incF_word ((timeTo n).run s) HBMC_HCNT site 2 rfl rfl
  have e5 : ∀ k, fv ((timeTo n).run s) HBMC_HCNT site k = fv s HBMC_HCNT site k := fun _ => rfl
  generalize (timeTo n).run s = u at e1 e2 e3 e4 e5
  rw [pfBind, run_look, e1, e2, h2, decide_eq_false (by omega), if_neg (by decide), if_neg h4, if_pos (by rw [hm, hw]; rfl)]
  by_cases hwt : p.waited = true
  · have hpe : { p with waited := true } = p := by rw [← hwt]
    have hset : (pfsOf s site).set i p = pfsOf s site := by
      obtain ⟨hlt, he⟩ := List.getElem?_eq_some_iff.1 hp
      conv_lhs => rw [← he]
      exact List.set_getElem_self hlt
    rw [hpe, hset, hwt, Bool.not_true, runs_false, counted, e5, e5, e3]
    have hlt : fv s HBMC_HCNT site 2 < 2 ^ 32 := fv_lt s HBMC_HCNT site 2
    refine ⟨rfl, ?_, rfl⟩
    show _ = min (2 ^ 32 - 1) (fv s HBMC_HCNT site 2 + 0)
    omega
  · rw [Bool.not_eq_true] at hwt
    rw [hwt, Bool.not_false, runs_true, run_acts_cons, run_acts_cons, runs_nil]
    refine ⟨?_, e4.trans (by rw [e5]; rfl), ?_⟩
    · rw [← e5]
      exact hcnt_page u 0 2 site (by decide)
    · rw [pfsOf_setPfs, ← e3]
      rfl

end

/-! ### Its end in memory -/

/-- Whether a write to HBM is refused is said by memory and by registers of OPTB and UPDT. -/
theorem writeRefused_congr {s v : State} (a k : Nat) (ha : isHbmAddr s a = true) (hm : v.mem = s.mem) (hsyn : v.syn = s.syn)
    (hb : v.build = s.build) (hu : v.units = s.units) (hopt : ∀ f ∈ [OPTB_OPT_EN, OPTB_OPT_BASE], fv v f = fv s f)
    (hreg : ∀ f ∈ [UPDT_CURV_EN, UPDT_CURV_COUNT, UPDT_CURV_BASE], ∀ i, fv v f i = fv s f i) : writeRefused v a k = writeRefused s a k := by
  have hplace := placeOf_hbm s a ha
  unfold writeRefused
  rw [placeOf_same hb hu, hplace]
  dsimp only
  unfold meetsOptTable viewsMet
  rw [viewsOf_congr hm hsyn hreg, fb, fb, hopt OPTB_OPT_EN (by simp), hopt OPTB_OPT_BASE (by simp)]

/-- A count of HBMC's page is no register of another. -/
theorem cnt_hcnt_fv (s : State) (m site : Nat) (f : Fld) (i n : Nat) (h : (f.off + n * f.stride) % 4096 ≠ (0x5C + m * 4) % 4096) :
    fv ((cnt HBMC_HCNT m site).run s) f i n = fv s f i n := by
  refine fv_incF_other s HBMC_HCNT f 1 site m i n (by decide) (Or.inl fun hk => h ?_)
  have h1 := fldKey_mod f i n
  rw [hk, fldKey_mod] at h1
  exact h1.symm

/-- A status record in memory says how its prefetch ended. -/
theorem pfEnd_status (s : State) (site : Nat) (r : List Byte) (o c t g b : Nat) (ho : o = 3 ∨ o = 4) (hs : still s) (h0 : pfSts r ≠ 0)
    (hw : writeRefused s (pfSts r) 32 = false) (ha : isHbmAddr s (pfSts r) = true) :
    hbmLE ((pfEnd site r o c t g b).run s) (pfSts r) 1 = o := by
  obtain ⟨m, w, hrun, hm⟩ := writeLocal_hbm s (pfSts r) ((leBytes 1 o ++ leBytes 1 c ++
      leBytes 1 t ++ leBytes 1 0 ++ leBytes 4 g ++ leBytes 8 b ++ leBytes 6 s.press.imp ++ leBytes 10 0).map fun x => (x, false)) hs ha
    (by intro x hx; obtain ⟨y, -, rfl⟩ := List.mem_map.1 hx; rfl)
  have hrec : (pfRecord r o c t g b s).run s = { s with mem := m, written := w } := by
    rw [pfRecord, run_onlyIf_of_true _ _ (by rw [hw]; simp [h0]), putLocal]
    exact hrun
  have hrest : ∀ u : State, ((pfReport site r o).run ((raiseEvt (hbmcPg site) (2 ^ 17)).run ((cnt HBMC_HCNT 4 site).run u))).mem = u.mem ∧
      ((pfReport site r o).run ((raiseEvt (hbmcPg site) (2 ^ 17)).run ((cnt HBMC_HCNT 4 site).run u))).syn = u.syn := fun u => by
    have hev := raiseEvt_within (hbmcPg site) (2 ^ 17)
    have hrep : (pfReport site r o).Within targetParts fun _ => True := by
      simp only [pfReport, only_acts_cons, only_acts_nil, only_onlyIf_iff, and_true]
      exact ⟨(sendTarget0_within _ _).regs fun _ _ => trivial, fun _ => (raiseEvt_within _ _).mono (by decide) fun _ _ => trivial⟩
    exact ⟨(hrep.same .mem (by decide) _).trans (hev.same .mem (by decide) _), (hrep.same .syn (by decide) _).trans (hev.same .syn (by decide) _)⟩
  rw [pfEnd_fails site r o c t g b s ho, hrec]
  obtain ⟨h1, h2⟩ := hrest { s with mem := m, written := w }
  generalize (pfReport site r o).run ((raiseEvt (hbmcPg site) (2 ^ 17)).run ((cnt HBMC_HCNT 4 site).run { s with mem := m, written := w })) = v at h1 h2
  rw [hbmLE_of_mem v _ _ (h2.trans hs.1), h1]
  have hfirst : mapRead memDefault m (pfSts r) 1 = leBytes 1 o := by
    have hk := hm (pfSts r)
    rw [List.map_map, mapGet_mapPut, if_pos ⟨le_refl _, by simp [leBytes]⟩, Nat.sub_self] at hk
    simp only [mapRead, List.range_one, List.map_cons, List.map_nil, Nat.add_zero]
    rw [hk]
    rfl
  have hdone : ({ s with mem := m, written := w } : State).mem = m := rfl
  rw [hdone, hfirst, leNat_leBytes]
  rcases ho with rfl | rfl <;> rfl

end

end Sys2Proof.Machine
end

section
/-! PROOF. Prefetches without an object, and prefetches that end (R313, R314). -/

namespace Sys2Proof.Machine

/-! ### Without an object -/

theorem prefetchStart_fails {s : State} {site i n : Nat} {p : Pf} (hs : site < 12) (hp : (pfsOf s site)[i]? = some p) (hb : p.bound = none)
    (hrun : pfRunning s site < 32) (hgate : pfFlag p.rec_ 0 = true → reached ((timeTo n).run s) (pfGate p.rec_) = true) (hc : calm s)
    (hk : (fb s OPTB_OPT_EN && otValid (optRec s (pfObj p.rec_)) &&
      decide (pfOffset p.rec_ + pfLen p.rec_ ≤ otSize (optRec s (pfObj p.rec_)))) = false) :
    ∃ t, exec (.prefetchStart site i n) s = .next t ∧ counted s t HBMC_HCNT site 0 1 ∧
      counted s t HBMC_HCNT site 4 1 ∧ pending t (hbmcPg site) 17 ∧ pfsOf t site = (pfsOf s site).eraseIdx i ∧
      (pfSts p.rec_ ≠ 0 → writeRefused s (pfSts p.rec_) 32 = false → isHbmAddr s (pfSts p.rec_) = true → hbmLE t (pfSts p.rec_) 1 = 3) := by
  refine ⟨_, prefetchStart_run hp hb hrun hgate hc, ?_⟩
  have e1 : fb ((timeTo n).run s) OPTB_OPT_EN = fb s OPTB_OPT_EN := rfl
  have e2 : optRec ((timeTo n).run s) (pfObj p.rec_) = optRec s (pfObj p.rec_) := rfl
  have hfail : (!fb s OPTB_OPT_EN || !otValid (optRec s (pfObj p.rec_)) ||
      decide (otSize (optRec s (pfObj p.rec_)) < pfOffset p.rec_ + pfLen p.rec_)) = true := by
    simp only [Bool.and_eq_false_iff, decide_eq_false_iff_not, not_le] at hk
    simp only [Bool.or_eq_true, Bool.not_eq_true', decide_eq_true_eq]
    exact hk
  rw [pfBind, run_look, e1, e2, if_pos hfail, run_acts_cons, run_acts_cons, run_acts_cons, runs_nil]
  generalize hu : (setPfs site fun l => l.eraseIdx i).run ((cnt HBMC_HCNT 0 site).run ((timeTo n).run s)) = u
  have hcount : fv u HBMC_HCNT site 0 = min (2 ^ 32 - 1) (fv s HBMC_HCNT site 0 + 1) := by
    rw [← hu]; exact fv_incF_word _ HBMC_HCNT site 0 rfl rfl
  have hother : ∀ f j m, (f.off + m * f.stride) % 4096 ≠ (0x5C + 0 * 4) % 4096 → fv u f j m = fv s f j m := fun f j m h => by
    rw [← hu]; exact cnt_hcnt_fv _ 0 site f j m h
  have hpfs : pfsOf u site = (pfsOf s site).eraseIdx i := by rw [← hu, pfsOf_setPfs]; rfl
  have hstill : still u := by
    have h1 : (acts [cnt HBMC_HCNT 0 site, setPfs site fun l => l.eraseIdx i]).Within [.pfs] (offBlk .intg) := by
      simp only [only_acts_cons, only_acts_nil, cnt, within_incF, setPfs, only_look_iff, only_upd_iff, and_true]
      exact ⟨offBlk_fldKey HBMC_HCNT site 0 (by omega) (by decide) (by decide), fun _ => by simp [Upd.within]⟩
    have := still_within h1 (by decide) ((timeTo n).run s) (still_of_calm hc)
    rw [run_acts_cons, run_acts_cons, runs_nil, hu] at this
    exact this
  have hsame : u.mem = s.mem ∧ u.syn = s.syn ∧ u.build = s.build ∧ u.units = s.units := by rw [← hu]; exact ⟨rfl, rfl, rfl, rfl⟩
  obtain ⟨hmem, hsyn, hbuild, hunits⟩ := hsame
  obtain ⟨h4, h17⟩ := pfEnd_counts site p.rec_ 3 (errNum eMemObj) (otTier (optRec s (pfObj p.rec_))) (otGen (optRec s (pfObj p.rec_))) 0 u hs
    (Or.inl rfl)
  refine ⟨?_, ?_, h17, (pfsOf_pfEnd ..).trans hpfs, fun h0 hw ha => pfEnd_status u site p.rec_ 3 _ _ _ _ (Or.inl rfl) hstill h0 ?_ ?_⟩
  · rw [counted, pfEnd_hcnt_low _ _ _ _ _ _ _ _ _ hs (by decide)]
    exact hcount
  · rw [counted, hother HBMC_HCNT site 4 (by decide)] at h4
    exact h4
  · rw [writeRefused_congr (pfSts p.rec_) 32 ha hmem hsyn hbuild hunits (fun f hf => ?_) (fun f hf j => ?_)]
    · exact hw
    · fin_cases hf <;> exact hother _ 0 0 (by decide)
    · fin_cases hf <;> exact hother _ j 0 (by decide)
  · rw [← ha]
    unfold isHbmAddr
    rw [placeOf_same hbuild hunits]

/-! ### Ended -/

/-- What the end of a prefetch's transfer carries out. -/
def pfFinish (site i : Nat) (r : List Byte) (gen code : Nat) (marked : Bool) (bytes : Nat) : Act := acts [
  setPfs site fun l => l.eraseIdx i,
  pfEnd site r (if code ≠ 0 then 4 else if marked then 5 else 1) code 0 gen bytes]

section
variable {s : State} {site i gen a : Nat} {p : Pf} {ans : List RemoteAns} (hs : site < 12) (hp : (pfsOf s site)[i]? = some p)
  (hb : p.bound = some (0, gen, a)) (hw : pfWrite p.rec_ = false) (hc : calm s) (hz1 : awaitsZeros s (pfDst p.rec_) (pfLen p.rec_) = false)
  (hz2 : awaitsZeros s (a + pfOffset p.rec_) (pfLen p.rec_) = false)

include hp hb hw hz1 hz2 in
theorem prefetchDone_run : exec (.prefetchDone site i ans) s = .next
    ((tierRead ⟨.prefetch site (pfDst p.rec_), ans⟩ 0 (a + pfOffset p.rec_) (pfLen p.rec_) fun st c bs =>
      tierWrite st 0 (pfDst p.rec_) bs fun c2 m => pfFinish site i p.rec_ gen (if c ≠ 0 then c else c2) (bs.any Prod.snd) m).run s) := by
  show Host.Outcome.next ((pfDone site i ans).run s) = _
  rw [pfDone, run_look, hp]
  dsimp only
  rw [hb]
  dsimp only
  rw [hz1, hz2, hw, if_neg (by decide), if_neg (by decide)]
  rfl

include hs hp hb hw hz1 hz2

include hc in
theorem prefetchDone_copies (h0 : pfSts p.rec_ = 0) (ha : isHbmAddr s (a + pfOffset p.rec_) = true) (hd : isHbmAddr s (pfDst p.rec_) = true)
    (he1 : rangeErrs s (a + pfOffset p.rec_) (pfLen p.rec_) = []) (he2 : rangeErrs s (pfDst p.rec_) (pfLen p.rec_) = [])
    (hr : writeRefused s (pfDst p.rec_) (pfLen p.rec_) = false) (hv : viewsMet s (a + pfOffset p.rec_) (pfLen p.rec_) = []) :
    ∃ t, exec (.prefetchDone site i ans) s = .next t ∧ pfsOf t site = (pfsOf s site).eraseIdx i ∧
      copied s t (a + pfOffset p.rec_) (pfDst p.rec_) (pfLen p.rec_) ∧ memOutside s t [(pfDst p.rec_, pfLen p.rec_)] ∧
      fv t HBMC_HCNT site 4 = fv s HBMC_HCNT site 4 := by
  refine ⟨_, prefetchDone_run hp hb hw hz1 hz2, ?_⟩
  obtain ⟨m, w, hrun, hin, hout⟩ := writeLocal_copies s _ _ _ (still_of_calm hc) ha hd hv
  rw [tierRead_here s _ _ _ _ hc he1, tierWrite_here s _ _ _ _ (by rw [readLocal_length]; exact he2) (by rw [readLocal_length]; exact hr),
    hrun, readLocal_unmarked s _ _ hc.1, pfFinish, run_acts_cons, run_acts_cons, runs_nil]
  rw [if_neg (by decide), if_neg (by decide), if_neg (by decide)]
  generalize hu : (setPfs site fun l => l.eraseIdx i).run { s with mem := m, written := w } = u
  have hpfs : pfsOf u site = (pfsOf s site).eraseIdx i := by rw [← hu, pfsOf_setPfs]; rfl
  have hmem : u.mem = m := by rw [← hu]; rfl
  have hfv : fv u HBMC_HCNT site 4 = fv s HBMC_HCNT site 4 := by rw [← hu]; rfl
  have hkeep : ((pfEnd site p.rec_ 1 0 0 gen (readLocal s (a + pfOffset p.rec_) (pfLen p.rec_)).length).run u).mem = m := by
    rw [pfEnd, run_look, run_acts_cons, h0,
      run_onlyIf_of_false _ _ (show (0 != 0 && !writeRefused u 0 32) = false from rfl), ← hmem]
    have hrest : (acts [onlyIf (1 == 2) (cnt HBMC_HCNT 3 site), onlyIf (1 == 3 || 1 == 4) (acts [cnt HBMC_HCNT 4 site, raiseEvt (hbmcPg site) (2 ^ 17)]),
        sendTarget0 (srcOf (hbmcPg site)) (recLE p.rec_ (if 1 == 2 && pfFlag p.rec_ 2 then 48 else 40) 8),
        onlyIf (pfFlag p.rec_ 3) (raiseEvt (hbmcPg site) (2 ^ 16))]).Within targetParts fun _ => True := by
      simp only [only_acts_cons, only_acts_nil, only_onlyIf_iff, cnt, within_incF, and_true, true_and, implies_true]
      exact ⟨fun _ => (raiseEvt_within _ _).mono (by decide) fun _ _ => trivial, (sendTarget0_within _ _).regs fun _ _ => trivial,
        fun _ => (raiseEvt_within _ _).mono (by decide) fun _ _ => trivial⟩
    exact hrest.same .mem (by decide) u
  refine ⟨(pfsOf_pfEnd ..).trans hpfs, fun j hj => ?_, fun k hk => ?_, (pfEnd_hcnt_ok _ _ _ _ _ _ _ _ hs (by decide) (by decide)).trans hfv⟩
  · rw [hkeep]; exact hin j hj
  · rw [hkeep]; exact hout k (hk (pfDst p.rec_, pfLen p.rec_) (List.mem_singleton_self _))

theorem prefetchDone_refused (he : rangeErrs s (a + pfOffset p.rec_) (pfLen p.rec_) ≠ []) :
    ∃ t, exec (.prefetchDone site i ans) s = .next t ∧ pfsOf t site = (pfsOf s site).eraseIdx i ∧ counted s t HBMC_HCNT site 4 1 ∧
      pending t (hbmcPg site) 17 := by
  refine ⟨_, prefetchDone_run hp hb hw hz1 hz2, ?_⟩
  obtain ⟨c, hc0, hrun⟩ := tierRead_refused s ⟨.prefetch site (pfDst p.rec_), ans⟩ _ _ (fun st c bs =>
      tierWrite st 0 (pfDst p.rec_) bs fun c2 m => pfFinish site i p.rec_ gen (if c ≠ 0 then c else c2) (bs.any Prod.snd) m) he
  rw [hrun]
  obtain ⟨c2, m, u, hu, hbe⟩ := tierWrite_nothing s ⟨.prefetch site (pfDst p.rec_), ans⟩ 0 (pfDst p.rec_)
    (fun c2 m => pfFinish site i p.rec_ gen (if c ≠ 0 then c else c2) (([] : List (Byte × Bool)).any Prod.snd) m)
  have hside := beside_of s u hbe
  rw [hu, if_pos hc0, pfFinish, if_pos hc0, run_acts_cons, run_acts_cons, runs_nil]
  obtain ⟨h4, h17⟩ := pfEnd_counts site p.rec_ 4 c 0 gen m ((setPfs site fun l => l.eraseIdx i).run u) hs (Or.inr rfl)
  refine ⟨(pfsOf_pfEnd ..).trans ?_, ?_, h17⟩
  · rw [pfsOf_setPfs, pfsOf_congr hside.pfs]
  · have hfv : fv ((setPfs site fun l => l.eraseIdx i).run u) HBMC_HCNT site 4 = fv s HBMC_HCNT site 4 :=
      hside.reg HBMC_HCNT site 4 (by decide) (by omega) (by decide) (by decide)
    rw [counted, hfv] at h4
    exact h4

end

/-- Settles O42: how moves flip their entries, and how prefetches are taken, bound and ended. -/
theorem movesAndPrefetchesCopyData : Obligations.MovesAndPrefetchesCopyData := by
  unfold Obligations.MovesAndPrefetchesCopyData
  refine ⟨fun s h d ans hm hw hc hin => ?_, fun s site w rest hs hf hm ht =>
    ⟨fun hok hl => prefetch_taken s site w rest hf hm ht hok hl, fun hok => prefetch_rejected s site w rest hf hm ht hok⟩,
    fun s site i n p hs hp hb hr hg hc => ⟨fun hk h4 hm => prefetchStart_binds hp hb hr hg hc hk h4 hm,
      fun hk h4 hm hw => prefetchStart_waits hp hb hr hg hc hk h4 hm hw, fun hk => prefetchStart_fails hs hp hb hr hg hc hk⟩,
    fun s site i gen a p ans hs hp hb hw hc hz1 hz2 h0 => ⟨fun ha hd he1 he2 hr hv =>
      prefetchDone_copies hs hp hb hw hc hz1 hz2 h0 ha hd he1 he2 hr hv, fun he => prefetchDone_refused hs hp hb hw hz1 hz2 he⟩⟩
  have hrun := moveDone_run s h d ans hm hw
  have hflip : ∀ dst, dst < 8 → Flipped (optRec s h) (entryFlip (optRec s h) dst (recLE (optRec s h) 32 8)) dst (recLE (optRec s h) 32 8) :=
    fun dst hd => entryFlip_fields _ (optRec_length s h) dst _ hd (optDest_lt s h)
  refine ⟨fun hsrc hdst ha hb he1 he2 hwr hv hr => ?_, fun hdst => ?_, fun hsrc hdst he => ?_⟩
  · obtain ⟨h1, h2, h3, h4⟩ := moveBody_local s h d ans hc hsrc hdst ha hb he1 he2 hwr hv hr
    have f := hflip 0 (by decide)
    exact ⟨_, hrun, ⟨by rw [h1, f.valid], by rw [h1, f.tier, hdst], by rw [h1, f.moving], by rw [h1, f.gen], by rw [h1, f.size],
      by rw [h1, f.addr], h2⟩, h3, h4⟩
  · obtain ⟨h1, h2, h3⟩ := moveBody_untiered s h d ans hc hdst
    have f := hflip 4 (by decide)
    exact ⟨_, hrun, ⟨by rw [h1, f.valid], by rw [h1, f.tier, hdst], by rw [h1, f.moving], by rw [h1, f.gen], by rw [h1, f.size],
      by rw [h1, f.addr], h2⟩, h3⟩
  · obtain ⟨h1, h2, h3, h4⟩ := moveBody_refused s h d ans hc hsrc hdst he
    obtain ⟨g1, g2, g3, g4⟩ := entryStay_fields (optRec s h) (optRec_length s h)
    exact ⟨_, hrun, by rw [h1, g1, hsrc], by rw [h1, g2], by rw [h1, g3], by rw [h1, g4], h3, h4, h2⟩

end Sys2Proof.Machine
end

section
/-! PROOF. What a pipeline's next job, and a snapshot's freeze, leave of the MGMT page (R278, R298, R384). -/

namespace Sys2Proof.Machine

/-! ### Registers beside MGMT's -/

/-- A register of another page than MGMT's. -/
def offMgmt (k : Nat) : Prop := 256 ≤ k / 4096

theorem offMgmt_fldKey (f : Fld) (i n : Nat) (h : f.blk ≠ .mgmt) : offMgmt (fldKey f i n) := by
  have hb : 1 ≤ blkNum f.blk := by
    revert h
    cases f.blk <;> decide
  unfold offMgmt fldKey regKey
  omega

theorem offMgmt_lost : offMgmt lostKey := by unfold offMgmt lostKey; decide

theorem not_offMgmt (f : Fld) (n : Nat) (hb : f.blk = .mgmt) (ho : f.off + n * f.stride < 4096) : ¬ offMgmt (fldKey f 0 n) := by
  unfold offMgmt fldKey regKey
  rw [hb]
  simp only [blkNum]
  omega

theorem raiseEvt_offMgmt (p : PageRef) (m : Nat) (h : p.blk ≠ .mgmt) : (raiseEvt p m).Within memParts offMgmt := by
  refine (raiseEvt_within p m).mono (by decide) ?_
  rintro k (rfl | rfl)
  · exact offMgmt_fldKey _ _ _ h
  · exact offMgmt_lost

theorem healthNotice_offMgmt (n : Notice) : (healthNotice n).Within memParts offMgmt := by
  have hf : ∀ f : Fld, ∀ i m, f.blk = .hlth → offMgmt (fldKey f i m) := fun f i m hb => offMgmt_fldKey f i m (by rw [hb]; decide)
  have hev : ∀ m, (raiseEvt hlthPage m).Within memParts offMgmt := fun m => raiseEvt_offMgmt _ _ (by decide)
  cases n with
  | consumed p =>
    intro s
    simp only [only_acts_cons, only_acts_nil, within_setF, within_incF, and_true]
    exact ⟨hf _ _ _ rfl, hf _ _ _ rfl, hf _ _ _ rfl, hf _ _ _ rfl, hf _ _ _ rfl, hev _⟩
  | peerLost m =>
    simp only [healthNotice, only_acts_cons, only_acts_nil, within_setF, within_incF, and_true]
    exact ⟨hf _ _ _ rfl, hf _ _ _ rfl, hf _ _ _ rfl, hev _⟩
  | unbacked | auditLost | remapFull | flashRo =>
    simp only [healthNotice, only_acts_cons, only_acts_nil, within_incF, and_true]
    exact ⟨hf _ _ _ rfl, hev _⟩

theorem noteMark_offMgmt (u : MemUnit) : (noteMark u).Within memParts offMgmt := by
  unfold noteMark
  split
  next p hp =>
    have hb : p.blk ≠ .mgmt := by
      cases u <;> simp only [poisonPage, Option.some.injEq, reduceCtorEq] at hp <;> subst hp <;> simp
    simp only [only_look_iff, only_onlyIf_iff, only_acts_cons, only_acts_nil, within_setF, and_true]
    exact fun s _ => ⟨offMgmt_fldKey _ _ _ hb, raiseEvt_offMgmt _ _ hb⟩
  next => trivial

theorem pipeKeys_offMgmt (n : Nat) : PipeKeys n offMgmt where
  intg f i m h _ := offMgmt_fldKey f i m (by rw [h]; decide)
  raise p m h := raiseEvt_offMgmt p m h
  health := healthNotice_offMgmt
  mark := noteMark_offMgmt
  used := offMgmt_fldKey _ _ _ (by decide)

/-! ### The pipeline's next job -/

section
variable (n : Nat)

theorem updSet_offMgmt (f : Fld) (v i m : Nat) (h : f.blk = .updt) : (setF f v i m).Within visitParts offMgmt :=
  (within_setF f v i m).2 (offMgmt_fldKey f i m (by rw [h]; decide))

theorem updFault_offMgmt (g b : Nat) (c : ErrCode) : (updFault n g b c).Within visitParts offMgmt := by
  simp only [updFault, only_acts_cons, only_acts_nil, only_look_iff, only_onlyIf_iff, and_true]
  exact ⟨fun s _ => ⟨updSet_offMgmt _ _ _ _ rfl, updSet_offMgmt _ _ _ _ rfl, updSet_offMgmt _ _ _ _ rfl, updSet_offMgmt _ _ _ _ rfl⟩,
    within_visit (raiseEvt_offMgmt _ _ (by simp [updtPg]))⟩

theorem curvFault_offMgmt (g f b : Nat) (c : ErrCode) : (curvFault n g f b c).Within visitParts offMgmt := by
  simp only [curvFault, only_acts_cons, only_acts_nil, only_look_iff, only_onlyIf_iff, and_true]
  exact ⟨fun s _ => ⟨updSet_offMgmt _ _ _ _ rfl, updSet_offMgmt _ _ _ _ rfl, updSet_offMgmt _ _ _ _ rfl, updSet_offMgmt _ _ _ _ rfl,
    updSet_offMgmt _ _ _ _ rfl⟩, within_visit (raiseEvt_offMgmt _ _ (by simp [updtPg]))⟩

theorem updateStart_offMgmt (g : Nat) (d : Option (Nat × Nat)) : (updateStart n g d).Within visitParts offMgmt := by
  have H := pipeKeys_offMgmt n
  simp only [updateStart, only_acts_cons, only_acts_nil, and_true]
  refine ⟨fun s => within_visit (H.touchLocal (pgAddr s n g) 256), fun s => ?_,
    fun s => within_visit (H.touch (.prog n) (4 * pgProgBase (pgRec s n g)) (4 * pgProgLen (pgRec s n g))), fun s => ?_⟩
  · exact (only_each_iff _ (updateControl s n g) (fun x => touchLocal x.1 x.2)).2 fun x _ => within_visit (H.touchLocal x.1 x.2)
  simp only [only_acts_cons, only_acts_nil, and_true]
  refine ⟨only_onlyIf _ _ _ fun _ => within_visit (H.consume _ _ (by simp [updtPg])), ?_⟩
  simp only [only_ite_iff, only_acts_cons, only_acts_nil, and_true]
  exact ⟨fun _ => updFault_offMgmt n _ _ _, fun _ => ⟨visit_setRun _, visit_withRun fun _ _ => H.ueVisit _⟩⟩

theorem foldStart_offMgmt (g f : Nat) : (foldStart n g f).Within visitParts offMgmt := by
  have H := pipeKeys_offMgmt n
  simp only [foldStart, only_acts_cons, only_acts_nil, and_true]
  exact ⟨fun s => within_visit (H.readRecords _ _ (by simp [updtPg])), fun s => only_ite (curvFault_offMgmt n _ _ _ _)
    ((within_updUe _ _).2 List.mem_cons_self)⟩

theorem ueNext_offMgmt (k : Nat) : (ueNext n k).Within visitParts offMgmt := by
  induction k with
  | zero => trivial
  | succ k ih =>
    refine fun s => only_ite trivial ?_
    split
    · trivial
    · simp only [only_acts_cons, only_acts_nil, and_true]
      refine ⟨(within_updUe _ _).2 List.mem_cons_self, ?_, ih⟩
      split
      · exact updateStart_offMgmt n _ _
      · exact foldStart_offMgmt n _ _
      · trivial

theorem ueGo_offMgmt : (ueGo n).Within visitParts offMgmt := fun _ => ueNext_offMgmt n _

theorem freezeNow_offMgmt : (freezeNow n).Within visitParts offMgmt := by
  have H := pipeKeys_offMgmt n
  intro s
  simp only [only_acts_cons, only_acts_nil, only_each_iff, only_look_iff, and_true]
  exact ⟨within_visit (H.hbmPut _ _), fun _ _ => within_visit (H.hbmPut _ _), updSet_offMgmt _ _ _ _ rfl, updSet_offMgmt _ _ _ _ rfl,
    fun _ => (within_updUe _ _).2 List.mem_cons_self⟩

end

/-- The pipelines go on. -/
theorem sitesGo_offMgmt (L : List Nat) : (each L fun n => look fun t => acts [
    onlyIf ((ueSt t n).freeze && (ueSt t n).run.isNone) (freezeNow n), ueGo n]).Within visitParts offMgmt := by
  simp only [only_each_iff, only_look_iff, only_acts_cons, only_acts_nil, only_onlyIf_iff, and_true]
  exact fun n _ _ => ⟨fun _ => freezeNow_offMgmt n, ueGo_offMgmt n⟩

end Sys2Proof.Machine
end

section
/-! PROOF. Reimposition: its start and its chunks (R380 to R383). -/

namespace Sys2Proof.Machine

/-! ### Registers of the MGMT page -/

section
variable (s : State) (f g : Fld) (v n m : Nat)

/-- A field of the MGMT page stays when another is set. -/
theorem mgmt_setF (hb : g.blk = f.blk) (hf : f.hi < 64) (h : g.off + m * g.stride ≠ f.off + n * f.stride ∨ f.hi < g.lo ∨ g.hi < f.lo) :
    fv ((setF f v 0 n).run s) g 0 m = fv s g 0 m := fv_setF_page s f g v 0 n m hb hf h

theorem mgmt_incF (hb : g.blk = f.blk) (hf : f.hi < 64) (h : g.off + m * g.stride ≠ f.off + n * f.stride ∨ f.hi < g.lo ∨ g.hi < f.lo) :
    fv ((incF f v 0 n).run s) g 0 m = fv s g 0 m := fv_incF_page s f g v 0 n m hb hf h

end

/-- RI_LEFT counts what is still to move, and no other field of its page changes. -/
theorem riCount_run (s : State) : riCount.run s = (setF MGMT_RI_LEFT (s.ri.left.length + s.ri.staged.length)).run s := rfl

theorem riCount_left (s : State) : fv (riCount.run s) MGMT_RI_LEFT = (s.ri.left.length + s.ri.staged.length) % 2 ^ 32 := by
  rw [riCount_run]
  exact fv_setF_self s MGMT_RI_LEFT _ 0 0 ⟨by decide, by decide⟩

theorem riCount_other (s : State) (g : Fld) (hb : g.blk = .mgmt) (h : g.off ≠ 0x13C) (hs : g.stride = 0) : fv (riCount.run s) g = fv s g := by
  rw [riCount_run]
  exact mgmt_setF s MGMT_RI_LEFT g _ 0 0 hb (by decide) (Or.inl (by rw [hs]; simpa [MGMT_RI_LEFT] using h))

/-! ### The start -/

theorem reimpositionStart_run (s : State) (n : Nat) : exec (.reimpositionStart n) s =
    .next ((onlyIf (fv s MGMT_RI_STATE == 1 && reached ((timeTo n).run s) (instant (fv s MGMT_RI_START) 0)) (acts [
      readRecords mgmtPage [(fv s MGMT_IMP_BASE, 32 * fv s MGMT_IMP_COUNT), (fv s MGMT_RI_NEW_BASE, 32 * fv s MGMT_RI_NEW_COUNT)],
      look fun s => upd (.ri ⟨riTasks s, []⟩), setF MGMT_RI_STATE 2, riCount])).run ((timeTo n).run s)) := by
  show Host.Outcome.next ((riStart n).run s) = _
  rw [riStart, run_acts_cons, run_acts_cons, runs_nil, run_look]
  rfl

theorem reimpositionStart_starts (s : State) (n : Nat) (hc : calm s) (h1 : fv s MGMT_RI_STATE = 1)
    (hr : reached ((timeTo n).run s) (instant (fv s MGMT_RI_START) 0) = true) : ∃ t, exec (.reimpositionStart n) s = .next t ∧
      t.ri = ⟨riTasks ((timeTo n).run s), []⟩ ∧ fv t MGMT_RI_STATE = 2 ∧
      fv t MGMT_RI_LEFT = (riTasks ((timeTo n).run s)).length % 2 ^ 32 ∧ memKept s t := by
  refine ⟨_, reimpositionStart_run s n, ?_⟩
  have hc' : calm ((timeTo n).run s) := hc
  have hmem : memKept s ((timeTo n).run s) := ⟨fun _ => rfl, fun _ => rfl, fun _ => rfl⟩
  generalize (timeTo n).run s = u at hr hc' hmem
  rw [run_onlyIf_of_true _ _ (by rw [h1, hr]; rfl), run_acts_cons, run_acts_cons, run_acts_cons, run_acts_cons, runs_nil,
    readRecords_calm u _ _ hc'.1 hc'.2.1, runs_look]
  refine ⟨rfl, ?_, ?_, hmem⟩
  · rw [riCount_other _ MGMT_RI_STATE rfl (by decide) rfl]
    exact fv_setF_self _ MGMT_RI_STATE 2 0 0 ⟨by decide, by decide⟩
  · rw [riCount_left]
    rfl

theorem reimpositionStart_waits (s : State) (n : Nat)
    (h : fv s MGMT_RI_STATE ≠ 1 ∨ reached ((timeTo n).run s) (instant (fv s MGMT_RI_START) 0) = false) :
    exec (.reimpositionStart n) s = .next ((timeTo n).run s) := by
  rw [reimpositionStart_run, run_onlyIf_of_false]
  rcases h with h | h
  · rw [beq_eq_false_iff_ne.2 h, Bool.false_and]
  · rw [h, Bool.and_false]

/-! ### Answers from this device -/

/-- What this device's memory answers about a range. -/
theorem withAnswer_here (s : State) (a n : Nat) (ans : RemoteAns) (k : RemoteAns → Act) (hc : calm s) (ha : gaNode a = nodeId s)
    (he : rangeErrs s (gaLocal a) n = []) : (withAnswer a n ans k).run s =
      (k ⟨0, (readLocal s (gaLocal a) n).map Prod.fst, (readLocal s (gaLocal a) n).map Prod.snd⟩).run s := by
  have htouch : (onlyIf (gaNode a == nodeId s) (touchLocal (gaLocal a) n)).run s = s := by
    rw [run_onlyIf]
    split
    · exact touchLocal_calm s _ _ hc.1 hc.2.1
    · rfl
  rw [withAnswer, run_acts_cons, run_acts_cons, runs_nil, runs_look (fun s => onlyIf (gaNode a == nodeId s) (touchLocal (gaLocal a) n)), htouch,
    runs_look, answerOf, if_pos ha, he]

theorem withMarks_split (l : List (Byte × Bool)) : withMarks (l.map Prod.fst) (l.map Prod.snd) = l := by
  refine List.ext_getElem (by simp [withMarks]) fun i h1 h2 => ?_
  simp [withMarks, h2]

/-- No view shows where no page enables its curvature. -/
theorem viewsMet_off (s : State) (a n : Nat) (hoff : ∀ k, k < 12 → fb s UPDT_CURV_EN k = false) (ha : isHbmAddr s a = true) :
    viewsMet s a n = [] := by
  have hsite : a / 2 ^ 36 < 12 := placeOf_ok s a _ _ (placeOf_hbm s a ha)
  unfold viewsMet viewsOf
  rw [hoff _ hsite]
  rfl

/-- The first bytes of a run of memory. -/
theorem take_mapRead (m : List Host.Cell) (a n k : Nat) (h : k ≤ n) : (mapRead memDefault m a n).take k = mapRead memDefault m a k := by
  unfold mapRead
  rw [← List.map_take, List.take_range, Nat.min_eq_left h]

end Sys2Proof.Machine
end

section
/-! PROOF. Reimposition: a chunk moves, and the new table is installed (R383, R384). -/

namespace Sys2Proof.Machine

/-! ### A chunk staged -/

/-- A chunk read whole enters a staging buffer. -/
def riStage (k : RiTask) (l : List RiTask) (b : Nat) (bs : List (Byte × Bool)) (entry : List Byte) (ok : Bool) : Act := look fun u => acts [
  writeLocal (riBuf u k.dst b) bs,
  upd (.ri ⟨l, u.ri.staged ++ [⟨k, b, bs.length, !ok, entry⟩]⟩)]

/-- What a chunk's reads carry out, from its digest on. -/
def riFetch (s : State) (k : RiTask) (l : List RiTask) (b : Nat) (ans : List RemoteAns) : Act := acts [
  onlyIf (gaNode k.dig != nodeId s) (sendRead (gaNode k.dig) .none (gaLocal k.dig) 32),
  withAnswer k.dig 32 (ans.headD ⟨0, [], []⟩) fun e =>
    if e.code ≠ 0 then riStage k l b (List.replicate (riLen s k) (0, false)) ((List.range 32).map fun i => e.data.getD i 0) false
    else riRead k (riLen s k) (recLE ((List.range 32).map fun i => e.data.getD i 0) 0 8) [k.src, k.src, k.owner]
      (if gaNode k.dig = nodeId s then ans else ans.drop 1)
      fun r ok => riStage k l b (withMarks r.data r.marks) ((List.range 32).map fun i => e.data.getD i 0) ok]

theorem reimpositionChunkDone_run (s : State) (k : RiTask) (l : List RiTask) (ans : List RemoteAns) (h2 : fv s MGMT_RI_STATE = 2)
    (hri : s.ri = ⟨k :: l, []⟩) : exec (.reimpositionChunkDone ans) s =
      .next ((look fun u => riWrite (u.ri.staged.length + 1)).run ((riFetch s k l 0 ans).run s)) := by
  show Host.Outcome.next ((riChunk ans).run s) = _
  have hfind : ((List.range 16).find? fun k => s.ri.staged.all fun x => x.buf != k) = some 0 := by rw [hri]; rfl
  rw [riChunk, run_look, if_neg (by rw [h2]; decide), hfind, run_acts_cons, run_acts_cons, runs_nil, hri]
  rfl

section
variable {s : State} {k : RiTask} {l : List RiTask} {ans : List RemoteAns} (hc : calm s) (hsrc : gaNode k.src = nodeId s)
  (hdig : gaNode k.dig = nodeId s) (hoff : ∀ n, n < 12 → fb s UPDT_CURV_EN n = false)
  (hd : isHbmAddr s (gaLocal k.dig) = true) (he1 : rangeErrs s (gaLocal k.src) (riLen s k) = []) (he2 : rangeErrs s (gaLocal k.dig) 32 = [])
  (hcrc : crc64 ((readLocal s (gaLocal k.src) (riLen s k)).map Prod.fst) = hbmLE s (gaLocal k.dig) 8)

include hc hoff hd in
/-- The digest of a chunk, read from this device. -/
theorem riDigest_here : recLE ((List.range 32).map fun i => ((readLocal s (gaLocal k.dig) 32).map Prod.fst).getD i 0) 0 8 =
    hbmLE s (gaLocal k.dig) 8 := by
  rw [readLocal_hbm s _ _ hc.1 hd (viewsMet_off s _ _ hoff hd)]
  have hl : (mapRead memDefault s.mem (gaLocal k.dig) 32).length = 32 := by simp [mapRead]
  have hall : ((List.range 32).map fun i => (mapRead memDefault s.mem (gaLocal k.dig) 32).getD i 0) =
      mapRead memDefault s.mem (gaLocal k.dig) 32 := by
    refine List.ext_getElem (by simp [hl]) fun i h1 h2 => ?_
    rw [List.getElem_map, List.getElem_range, List.getD_eq_getElem _ _ h2]
  rw [hall, recLE, List.drop_zero, take_mapRead _ _ _ _ (by decide), hbmLE_of_mem s _ _ hc.1]

include hc hsrc hdig hoff hd he1 he2 hcrc in
/-- A chunk of this device that agrees with its digest is staged as it was read. -/
theorem riFetch_here : ∃ entry, (riFetch s k l 0 ans).run s =
    (riStage k l 0 (readLocal s (gaLocal k.src) (riLen s k)) entry true).run s := by
  refine ⟨(List.range 32).map fun i => ((readLocal s (gaLocal k.dig) 32).map Prod.fst).getD i 0, ?_⟩
  rw [riFetch, run_acts_cons, run_acts_cons, runs_nil, run_onlyIf_of_false _ _ (by rw [hdig]; simp), withAnswer_here s _ _ _ _ hc hdig he2]
  dsimp only
  rw [if_neg (by simp), riDigest_here hc hoff hd, riRead, runs_look, run_acts_cons, run_acts_cons, runs_nil,
    run_onlyIf_of_false _ _ (by rw [hsrc]; simp), withAnswer_here s _ _ _ _ hc hsrc he1]
  dsimp only
  rw [if_pos ⟨rfl, hcrc⟩, withMarks_split]

end

/-! ### A staged chunk written -/

/-- What a staged chunk's move carries out. -/
def riMove (s : State) (x : RiStaged) (n : Nat) : Act := acts [
  touchLocal (riBuf s x.task.dst x.buf) x.len,
  look fun t => writeLocal x.task.dst ((readLocal t (riBuf s x.task.dst x.buf) x.len).map fun b => (b.1, b.2 || x.failed)),
  (match x.task.newDig with | some d => hbmPut d x.entry | none => .done),
  look fun t => upd (.ri { t.ri with staged := t.ri.staged.filter fun y => y.buf != x.buf }),
  incF MGMT_CNT_RI_CHUNKS, onlyIf x.failed (setF MGMT_RI_FAILED 1), riCount, riWrite n]

/-- Bytes of a chunk that did not fail keep their marks. -/
theorem map_unfailed (bs : List (Byte × Bool)) : (bs.map fun b => (b.1, b.2 || false)) = bs := by simp

theorem riWrite_none (s : State) (n : Nat) (h : s.ri.staged = []) : (riWrite (n + 1)).run s = s := by
  rw [riWrite, run_look, h]
  rfl

theorem riWrite_some (s : State) (n : Nat) (x : RiStaged) (h : s.ri.staged.find? (riClear s) = some x) :
    (riWrite (n + 1)).run s = (riMove s x n).run s := by
  rw [riWrite, run_look, h]
  rfl

theorem riMove_run (u : State) (l : List RiTask) (x : RiStaged) (hri : u.ri = ⟨l, [x]⟩) (hf : x.failed = false)
    (hn : x.task.newDig = none) (hc : calm u) (m w)
    (hw : (writeLocal x.task.dst (readLocal u (riBuf u x.task.dst x.buf) x.len)).run u = { u with mem := m, written := w }) :
    (riMove u x 1).run u = (riWrite 1).run (riCount.run ((incF MGMT_CNT_RI_CHUNKS).run ((upd (.ri ⟨l, []⟩)).run { u with mem := m, written := w }))) := by
  have hread : ((readLocal u (riBuf u x.task.dst x.buf) x.len).map fun b => (b.1, b.2 || x.failed)) =
      readLocal u (riBuf u x.task.dst x.buf) x.len := by
    rw [hf]; exact map_unfailed _
  have hfilter : u.ri.staged.filter (fun y => y.buf != x.buf) = [] := by rw [hri]; simp
  rw [riMove, hn, run_acts_cons, touchLocal_calm u _ _ hc.1 hc.2.1, run_acts_cons, runs_look (fun t => writeLocal x.task.dst _), hread, hw, hf]
  have hri' : ({ u with mem := m, written := w } : State).ri = u.ri := rfl
  generalize ({ u with mem := m, written := w } : State) = v at hri'
  rw [run_acts_cons, runs_done, run_acts_cons, run_acts_cons, run_acts_cons, runs_false, run_acts_cons, run_acts_cons, runs_nil,
    runs_look, hri', hfilter, hri]

/-- A staged chunk that may be written goes to its place, and no other is staged. -/
theorem riWrite_staged (u : State) (l : List RiTask) (x : RiStaged) (hri : u.ri = ⟨l, [x]⟩) (hclear : riClear u x = true)
    (hf : x.failed = false) (hn : x.task.newDig = none) (hc : calm u) (m w)
    (hw : (writeLocal x.task.dst (readLocal u (riBuf u x.task.dst x.buf) x.len)).run u = { u with mem := m, written := w }) :
    (riWrite 2).run u = riCount.run ((incF MGMT_CNT_RI_CHUNKS).run ((upd (.ri ⟨l, []⟩)).run { u with mem := m, written := w })) := by
  rw [riWrite_some u 1 x (by rw [hri]; simp [hclear]), riMove_run u l x hri hf hn hc m w hw]
  exact riWrite_none _ 0 rfl

/-- A chunk of this device moves to its new place. -/
theorem reimpositionChunkDone_moves (s : State) (k : RiTask) (l : List RiTask) (ans : List RemoteAns) (h2 : fv s MGMT_RI_STATE = 2)
    (hri : s.ri = ⟨k :: l, []⟩) (hsrc : gaNode k.src = nodeId s) (hdig : gaNode k.dig = nodeId s) (hc : calm s)
    (hoff : ∀ n, n < 12 → fb s UPDT_CURV_EN n = false) (hnew : k.newDig = none) (ha : isHbmAddr s (gaLocal k.src) = true)
    (hd : isHbmAddr s (gaLocal k.dig) = true) (hb : isHbmAddr s (riBuf s k.dst 0) = true) (hdst : isHbmAddr s k.dst = true)
    (he1 : rangeErrs s (gaLocal k.src) (riLen s k) = []) (he2 : rangeErrs s (gaLocal k.dig) 32 = [])
    (hcrc : crc64 ((readLocal s (gaLocal k.src) (riLen s k)).map Prod.fst) = hbmLE s (gaLocal k.dig) 8)
    (hclear : ∀ x ∈ l, ¬ (gaNode x.src = nodeId s ∧ rangesMeet (gaLocal x.src, 2 ^ 20) (k.dst, riLen s k) = true)) :
    ∃ t, exec (.reimpositionChunkDone ans) s = .next t ∧ t.ri = ⟨l, []⟩ ∧ copied s t (gaLocal k.src) k.dst (riLen s k) ∧
      memOutside s t [(riBuf s k.dst 0, riLen s k), (k.dst, riLen s k)] ∧ counted s t MGMT_CNT_RI_CHUNKS 0 0 1 ∧
      fv t MGMT_RI_LEFT = l.length % 2 ^ 32 ∧ fb t MGMT_RI_FAILED = fb s MGMT_RI_FAILED := by
  refine ⟨_, reimpositionChunkDone_run s k l ans h2 hri, ?_⟩
  obtain ⟨entry, hfetch⟩ := riFetch_here (l := l) (ans := ans) hc hsrc hdig hoff hd he1 he2 hcrc
  obtain ⟨m1, w1, hw1, hin1, hout1⟩ := writeLocal_copies s _ (riBuf s k.dst 0) (riLen s k) (still_of_calm hc) ha hb
    (viewsMet_off s _ _ hoff ha)
  have hstage : (riFetch s k l 0 ans).run s = { s with mem := m1, written := w1, ri := ⟨l, [⟨k, 0, riLen s k, false, entry⟩]⟩ } := by
    rw [hfetch, riStage, runs_look, run_acts_cons, run_acts_cons, runs_nil, hw1, readLocal_length, hri]
    rfl
  rw [hstage, runs_look]
  have hviews : ∀ v : State, v.regs = s.regs → v.build = s.build → v.units = s.units → ∀ a, isHbmAddr s a = true →
      isHbmAddr v a = true ∧ (∀ n, n < 12 → fb v UPDT_CURV_EN n = false) := fun v hr hb hu a ha =>
    ⟨by unfold isHbmAddr at ha ⊢; rw [placeOf_same hb hu]; exact ha, fun n hn => by
      rw [fb, fv, rdKey, hr]; exact hoff n hn⟩
  generalize hu : ({ s with mem := m1, written := w1, ri := ⟨l, [⟨k, 0, riLen s k, false, entry⟩]⟩ } : State) = u
  have hufv : ∀ f i n, fv u f i n = fv s f i n := by rw [← hu]; exact fun _ _ _ => rfl
  have hucalm : calm u := by rw [← hu]; exact hc
  have humem : u.mem = m1 := by rw [← hu]
  have huri : u.ri = ⟨l, [⟨k, 0, riLen s k, false, entry⟩]⟩ := by rw [← hu]
  have hunode : nodeId u = nodeId s := by rw [← hu]; rfl
  have hubuf : riBuf u k.dst 0 = riBuf s k.dst 0 := by rw [← hu]; rfl
  have hsame : u.regs = s.regs ∧ u.build = s.build ∧ u.units = s.units := by rw [← hu]; exact ⟨rfl, rfl, rfl⟩
  obtain ⟨hur, hub, huu⟩ := hsame
  obtain ⟨hb', hoff'⟩ := hviews u hur hub huu _ hb
  obtain ⟨hdst', -⟩ := hviews u hur hub huu _ hdst
  obtain ⟨m2, w2, hw2, hin2, hout2⟩ := writeLocal_copies u _ k.dst (riLen s k) (still_of_calm hucalm) hb' hdst' (viewsMet_off u _ _ hoff' hb')
  have hclear' : riClear u ⟨k, 0, riLen s k, false, entry⟩ = true := by
    unfold riClear
    rw [huri, hunode, List.all_eq_true]
    intro x hx
    have := hclear x hx
    rw [Bool.not_eq_true', Bool.eq_false_iff]
    simpa [beq_iff_eq] using this
  have hlen : u.ri.staged.length + 1 = 2 := by rw [huri]; rfl
  rw [hlen, riWrite_staged u l _ huri hclear' rfl hnew hucalm m2 w2 (by dsimp only; rw [hubuf]; exact hw2)]
  rw [humem] at hin2 hout2
  generalize hz : (upd (.ri ⟨l, []⟩)).run { u with mem := m2, written := w2 } = z
  have hzri : z.ri = ⟨l, []⟩ := by rw [← hz]; rfl
  have hzmem : z.mem = m2 := by rw [← hz]; rfl
  have hzfv : ∀ f i n, fv z f i n = fv s f i n := fun f i n => by rw [← hufv, ← hz]; rfl
  have hother := fun g hb h hs => riCount_other ((incF MGMT_CNT_RI_CHUNKS).run z) g hb h hs
  refine ⟨hzri, fun i hi => ?_, fun j hj => ?_, ?_, ?_, ?_⟩
  · show mapGet memDefault z.mem _ = _
    rw [hzmem]
    exact (hin2 i hi).trans (hin1 i hi)
  · show mapGet memDefault z.mem _ = _
    rw [hzmem]
    exact (hout2 j (hj (k.dst, riLen s k) (by simp))).trans (hout1 j (hj (riBuf s k.dst 0, riLen s k) (by simp)))
  · rw [counted, hother MGMT_CNT_RI_CHUNKS rfl (by decide) rfl, ← hzfv]
    exact fv_incF_word z MGMT_CNT_RI_CHUNKS 0 0 rfl rfl
  · have hri : ((incF MGMT_CNT_RI_CHUNKS).run z).ri = ⟨l, []⟩ := hzri
    rw [riCount_left, hri]
    rfl
  · rw [fb, hother MGMT_RI_FAILED rfl (by decide) rfl, fb, ← hzfv,
      mgmt_incF z MGMT_CNT_RI_CHUNKS MGMT_RI_FAILED 1 0 0 rfl (by decide) (Or.inl (by decide))]

/-! ### The new table -/

/-- What RI_END brings about. -/
def riInstall (u : State) : Act :=
  if fv u MGMT_RI_STATE ≠ 2 || !reached u (instant (fv u MGMT_RI_END) 0) then .done
  else if !u.ri.left.isEmpty || !u.ri.staged.isEmpty then
    onlyIf (!fb u MGMT_RI_LATE) (acts [setF MGMT_RI_LATE 1, raiseEvt mgmtPage (2 ^ 17)])
  else acts [
    setF MGMT_IMP_BASE (fv u MGMT_RI_NEW_BASE), setF MGMT_IMP_COUNT (fv u MGMT_RI_NEW_COUNT),
    setF MGMT_RI_STATE 0,
    sendTarget0 (srcOf mgmtPage) (rdKey u (fldKey MGMT_RI_DONE 0 0)),
    raiseEvt mgmtPage (2 ^ 16),
    each (hbmSites u.build) fun n => look fun t => acts [
      onlyIf ((ueSt t n).freeze && (ueSt t n).run.isNone) (freezeNow n), ueGo n]]

theorem reimpositionComplete_run (s : State) (n : Nat) :
    exec (.reimpositionComplete n) s = .next ((riInstall ((timeTo n).run s)).run ((timeTo n).run s)) := by
  show Host.Outcome.next ((riComplete n).run s) = _
  rw [riComplete, run_acts_cons, run_acts_cons, runs_nil, runs_look]
  rfl

section
variable (u : State) (h2 : fv u MGMT_RI_STATE = 2)
include h2

theorem riInstall_early (hr : reached u (instant (fv u MGMT_RI_END) 0) = false) : (riInstall u).run u = u := by
  rw [riInstall, if_pos (by rw [hr, h2]; rfl)]
  rfl

theorem riInstall_late (hr : reached u (instant (fv u MGMT_RI_END) 0) = true) (hl : u.ri.left ≠ [] ∨ u.ri.staged ≠ []) :
    fb ((riInstall u).run u) MGMT_RI_LATE = true ∧ fv ((riInstall u).run u) MGMT_RI_STATE = 2 ∧ ((riInstall u).run u).ri = u.ri ∧
      (fb u MGMT_RI_LATE = false → pending ((riInstall u).run u) mgmtPage 17) ∧
      fv ((riInstall u).run u) MGMT_IMP_BASE = fv u MGMT_IMP_BASE := by
  have hany : (!u.ri.left.isEmpty || !u.ri.staged.isEmpty) = true := by
    rcases hl with h | h <;> simp [h]
  rw [riInstall, if_neg (by rw [hr, h2]; decide), if_pos hany]
  cases hlate : fb u MGMT_RI_LATE with
  | true => rw [Bool.not_true, runs_false]; exact ⟨hlate, h2, rfl, fun h => absurd h (by decide), rfl⟩
  | false =>
    rw [Bool.not_false, runs_true, run_acts_cons, run_acts_cons, runs_nil]
    have hev : ∀ f : Fld, f.off ≠ 0x18 → f.off < 4096 → f.blk = .mgmt → f.stride = 0 → ∀ v, fv ((raiseEvt mgmtPage (2 ^ 17)).run v) f = fv v f :=
      fun f h hlt hb hs v => fv_raiseEvt v mgmtPage f 0 0 _ (fun hk => h (by
        have := fldKey_mod f 0 0
        rw [hk, fldKey_mod] at this
        simp only [hdrEvtPend, Nat.zero_mul, Nat.add_zero] at this
        omega)) (fun hk => by
          have := not_offMgmt f 0 hb (by omega)
          rw [hk] at this
          exact this offMgmt_lost)
    refine ⟨?_, ?_, (raiseEvt_within _ _).same .ri (by decide) _, fun _ => pending_raiseEvt _ _ _ _ (by decide) (by decide), ?_⟩
    · rw [fb, hev MGMT_RI_LATE (by decide) (by decide) rfl rfl, fv_setF_self _ MGMT_RI_LATE 1 0 0 ⟨by decide, by decide⟩]
      rfl
    · rw [hev MGMT_RI_STATE (by decide) (by decide) rfl rfl, mgmt_setF u MGMT_RI_LATE MGMT_RI_STATE 1 0 0 rfl (by decide) (Or.inr (Or.inr (by decide)))]
      exact h2
    · rw [hev MGMT_IMP_BASE (by decide) (by decide) rfl rfl]
      exact mgmt_setF u MGMT_RI_LATE MGMT_IMP_BASE 1 0 0 rfl (by decide) (Or.inl (by decide))

theorem riInstall_installs (hr : reached u (instant (fv u MGMT_RI_END) 0) = true) (hri : u.ri = ⟨[], []⟩) :
    fv ((riInstall u).run u) MGMT_RI_STATE = 0 ∧ fv ((riInstall u).run u) MGMT_IMP_BASE = fv u MGMT_RI_NEW_BASE ∧
      fv ((riInstall u).run u) MGMT_IMP_COUNT = fv u MGMT_RI_NEW_COUNT ∧ pending ((riInstall u).run u) mgmtPage 16 := by
  rw [riInstall, if_neg (by rw [hr, h2]; decide), if_neg (by rw [hri]; decide), run_acts_cons, run_acts_cons, run_acts_cons, run_acts_cons,
    run_acts_cons, run_acts_cons, runs_nil]
  have hbase : fv u MGMT_RI_NEW_BASE < 2 ^ 47 := fv_lt u MGMT_RI_NEW_BASE 0 0
  have hcount : fv u MGMT_RI_NEW_COUNT < 2 ^ 17 := fv_lt u MGMT_RI_NEW_COUNT 0 0
  generalize fv u MGMT_RI_NEW_BASE = nb at hbase
  generalize fv u MGMT_RI_NEW_COUNT = nc at hcount
  have e1 : ∀ v : State, fv ((setF MGMT_RI_STATE 0).run v) MGMT_RI_STATE = 0 := fun v => fv_setF_self v MGMT_RI_STATE 0 0 0 ⟨by decide, by decide⟩
  have e2 : fv ((setF MGMT_RI_STATE 0).run ((setF MGMT_IMP_COUNT nc).run ((setF MGMT_IMP_BASE nb).run u))) MGMT_IMP_BASE = nb := by
    rw [mgmt_setF _ MGMT_RI_STATE MGMT_IMP_BASE 0 0 0 rfl (by decide) (Or.inl (by decide)),
      mgmt_setF _ MGMT_IMP_COUNT MGMT_IMP_BASE _ 0 0 rfl (by decide) (Or.inl (by decide)),
      fv_setF_self _ MGMT_IMP_BASE _ 0 0 ⟨by decide, by decide⟩]
    exact Nat.mod_eq_of_lt (hbase.trans (by decide))
  have e3 : fv ((setF MGMT_RI_STATE 0).run ((setF MGMT_IMP_COUNT nc).run ((setF MGMT_IMP_BASE nb).run u))) MGMT_IMP_COUNT = nc := by
    rw [mgmt_setF _ MGMT_RI_STATE MGMT_IMP_COUNT 0 0 0 rfl (by decide) (Or.inl (by decide)),
      fv_setF_self _ MGMT_IMP_COUNT _ 0 0 ⟨by decide, by decide⟩]
    exact Nat.mod_eq_of_lt hcount
  have e1' := e1 ((setF MGMT_IMP_COUNT nc).run ((setF MGMT_IMP_BASE nb).run u))
  generalize (setF MGMT_RI_STATE 0).run ((setF MGMT_IMP_COUNT nc).run ((setF MGMT_IMP_BASE nb).run u)) = v at e1' e2 e3
  have hgo := sitesGo_offMgmt (hbmSites u.build)
  have hpend := fun w => pending_raiseEvt mgmtPage (2 ^ 16) 16 w (by decide) (by decide)
  have hkeep : ∀ (f : Fld), f.blk = .mgmt → 0x40 ≤ f.off → f.off < 4096 → f.stride = 0 → ∀ w,
      fv ((each (hbmSites u.build) fun n => look fun t => acts [
        onlyIf ((ueSt t n).freeze && (ueSt t n).run.isNone) (freezeNow n), ueGo n]).run ((raiseEvt mgmtPage (2 ^ 16)).run
          ((sendTarget0 (srcOf mgmtPage) (rdKey u (fldKey MGMT_RI_DONE 0 0))).run w))) f = fv w f := by
    intro f hb h0 ho hs w
    have hn : f.off + 0 * f.stride = f.off := by omega
    have hoff : ¬ offBlk .mgmt (fldKey f 0 0) := by rw [← hb]; exact not_offBlk f 0 0 (by decide) (by omega) (by omega)
    rw [hgo.fv _ f 0 0 (not_offMgmt f 0 hb (by omega)), (raiseEvt_off (b := .mgmt) (by decide) _ _).fv _ f 0 0 hoff,
      (sendTarget0_off (b := .mgmt) (by decide) _ _).fv _ f 0 0 hoff]
  refine ⟨?_, ?_, ?_, ?_⟩
  · rw [hkeep MGMT_RI_STATE rfl (by decide) (by decide) rfl]; exact e1'
  · rw [hkeep MGMT_IMP_BASE rfl (by decide) (by decide) rfl]; exact e2
  · rw [hkeep MGMT_IMP_COUNT rfl (by decide) (by decide) rfl]; exact e3
  · rw [pending, hgo.fv _ (hdrEvtPend mgmtPage.blk) mgmtPage.idx 0 (not_offMgmt (hdrEvtPend .mgmt) 0 rfl (by decide))]
    exact hpend _

end

/-- Settles O50: what a reimposition lists, moves and installs. -/
theorem reimpositionMovesChunks : Obligations.ReimpositionMovesChunks := by
  unfold Obligations.ReimpositionMovesChunks
  refine ⟨fun s n => ⟨fun hc h1 hr => reimpositionStart_starts s n hc h1 hr, reimpositionStart_waits s n⟩,
    fun s k l ans h2 hri hsrc hdig hc hoff hnew ha hd hb hdst he1 he2 hcrc hclear =>
      reimpositionChunkDone_moves s k l ans h2 hri hsrc hdig hc hoff hnew ha hd hb hdst he1 he2 hcrc hclear, fun s n h2 => ?_⟩
  refine ⟨fun hr => ?_, fun hr hl => ⟨_, reimpositionComplete_run s n, riInstall_late _ h2 hr hl⟩,
    fun hr hri => ⟨_, reimpositionComplete_run s n, riInstall_installs _ h2 hr hri⟩⟩
  rw [reimpositionComplete_run, riInstall_early ((timeTo n).run s) h2 hr]

end Sys2Proof.Machine
end

section
/-! PROOF. What the end of a queue pair's streams leaves, and the error of a queue pair (R299, R392, R393). -/

namespace Sys2Proof.Machine

/-! ### Events that reading memory leaves pending -/

section
variable (q : PageRef) (i : Nat)

theorem pending_noteCE (u : MemUnit) (off syn : Nat) : (noteCE u off syn).Stable fun s => pending s q i :=
  stable_cons (pending_incF _ _ _ _ (by decide) q i) (stable_cons (pending_logEntry q i _ _ _ _ _)
    (stable_cons (pending_event _ _ (by decide) q i) (stable_cons (pending_candidate u off q i) stable_nil)))

theorem pending_noteUE (u : MemUnit) (off syn : Nat) : (noteUE u off syn).Stable fun s => pending s q i :=
  stable_cons (pending_incF _ _ _ _ (by decide) q i) (stable_cons (pending_logEntry q i _ _ _ _ _)
    (stable_cons (pending_event _ _ (by decide) q i) (stable_cons (pending_noteMark q i u) (stable_cons (pending_remap u off q i) stable_nil))))

theorem pending_touchWord (u : MemUnit) (off : Nat) : (touchWord u off).Stable fun s => pending s q i := by
  have hup : ∀ v : Upd, v.within [.mem, .syn] (fun _ => False) → (upd v).Stable fun s => pending s q i := fun v h =>
    pending_of_noRegs q i (ps := [.mem, .syn]) ((only_upd_iff _ _).2 h)
  refine stable_look fun s => ?_
  dsimp only
  split
  · exact fun _ h => h
  · exact stable_cons (stable_onlyIf fun _ => hup _ (by simp [Upd.within])) (stable_cons (pending_noteMark q i u) stable_nil)
  · exact stable_ite (stable_cons (hup _ (by simp [Upd.within])) (stable_cons (hup _ (by simp [Upd.within]))
        (stable_cons (pending_noteCE q i _ _ _) stable_nil)))
      (stable_cons (hup _ (by simp [Upd.within])) (stable_cons (hup _ (by simp [Upd.within]))
        (stable_cons (pending_noteCE q i _ _ _) stable_nil)))
  · exact stable_cons (hup _ (by simp [Upd.within])) (stable_cons (pending_noteUE q i _ _ _) stable_nil)

theorem pending_touch (u : MemUnit) (off n : Nat) : (touch u off n).Stable fun s => pending s q i :=
  stable_look fun _ => stable_ite (fun _ h => h) (stable_each fun w _ =>
    stable_cons (pending_of_noRegs q i (materialise_noRegs u w)) (stable_cons (pending_touchWord q i u w) stable_nil))

theorem pending_touchLocal (a n : Nat) : (touchLocal a n).Stable fun s => pending s q i := by
  refine stable_look fun s => ?_
  dsimp only
  split
  · refine stable_ite (pending_touch q i _ _ _) (stable_each fun w _ => ?_)
    split
    · split
      · exact pending_touch q i _ _ _
      · exact fun _ h => h
    · exact pending_touch q i _ _ _
  · exact fun _ h => h

theorem pending_writeLocal (a : Nat) (l : List (Byte × Bool)) : (writeLocal a l).Stable fun s => pending s q i := by
  refine stable_look fun s => ?_
  split
  · exact pending_memWrite q i _ _ _ _
  · exact fun _ h => h

theorem pending_hbmPut (a : Nat) (l : List Byte) : (hbmPut a l).Stable fun s => pending s q i := pending_memWrite q i _ _ _ _

/-- A stream that is released leaves what is pending. -/
theorem pending_snapRelease (site : Nat) (x : Snap) (whole : Bool) : (snapRelease site x whole).Stable fun s => pending s q i := by
  refine stable_look fun s => stable_cons (stable_each fun c _ => stable_cons ?_ (stable_cons (stable_onlyIf fun _ => ?_)
    (stable_cons (stable_look fun t => pending_hbmPut q i _ _) stable_nil))) (stable_cons (pending_hbmPut q i _ _) (stable_cons
      (pending_of_noRegs q i (ps := [.ues]) ((within_updUe _ _).2 List.mem_cons_self)) (stable_cons
        (pending_setF UPDT_SNAP_STATE _ _ _ (by decide) q i) (stable_cons (stable_onlyIf fun _ => stable_cons (pending_sendTarget0 _ _ q i)
          (stable_cons (pending_event _ _ (by decide) q i) stable_nil)) stable_nil))))
  · exact stable_cons (pending_touchLocal q i _ _) (stable_cons (stable_look fun t => pending_writeLocal q i _ _) stable_nil)
  · exact stable_cons (pending_touchLocal q i _ _) (stable_cons (stable_look fun t => pending_writeLocal q i _ _) stable_nil)

end

/-! ### The counters of the port, which no note of a memory reaches -/

/-- A register but one counter of the port. -/
def notEcnt (n k : Nat) : Prop := k ≠ fldKey ENET_ECNT 0 n

theorem ecnt_mod (n : Nat) (hn : n < 10) : fldKey ENET_ECNT 0 n % 4096 = 0xC4 + n * 4 := by
  rw [fldKey_mod]; simp only [ENET_ECNT]; omega

theorem notEcnt_of_mod {n k : Nat} (hn : n < 10) (h : k % 4096 < 0xC4 ∨ 0xEC ≤ k % 4096) : notEcnt n k := by
  rintro rfl
  have := ecnt_mod n hn
  omega

theorem notEcnt_of_event {n k : Nat} (hn : n < 10) (h : k % 4096 = 0x18 ∨ k = lostKey) : notEcnt n k := by
  rcases h with h | rfl
  · exact notEcnt_of_mod hn (Or.inl (by omega))
  · unfold notEcnt lostKey
    interval_cases n <;> decide

theorem raiseEvt_notEcnt {n : Nat} (hn : n < 10) {ps : List Part} (he : Part.events ∈ ps) (ho : Part.out ∈ ps) (p : PageRef) (m : Nat) :
    (raiseEvt p m).Within ps (notEcnt n) := by
  refine (raiseEvt_within p m).mono (by simp [he, ho]) ?_
  rintro k (rfl | rfl)
  · exact notEcnt_of_event hn (Or.inl (fldKey_mod _ _ _))
  · exact notEcnt_of_event hn (Or.inr rfl)

theorem notEcnt_blk {n : Nat} (hn : n < 10) (f : Fld) (i m : Nat) (hb : f.blk ≠ .enet) (hi : i < 256) (ho : f.off + m * f.stride < 4096) :
    notEcnt n (fldKey f i m) := fldKey_ne_blk f ENET_ECNT i 0 m n hb hi (by decide) ho (by simp only [ENET_ECNT]; omega)

theorem noteKeys_ecnt {n : Nat} (hn : n < 10) : NoteKeys (notEcnt n) where
  intg f i m hb h := notEcnt_of_mod hn (by rw [fldKey_mod]; omega)
  raise p m _ := raiseEvt_notEcnt hn (by decide) (by decide) p m
  health m := (healthNotice_within m).mono (by decide) fun k hk => by
    rcases hk with hk | ⟨b, hb, hk⟩
    · exact notEcnt_of_mod hn (Or.inl (by omega))
    · rintro rfl
      have hparts := (fldKey_parts ENET_ECNT 0 n (by decide) (by simp only [ENET_ECNT]; omega)).1
      simp only [List.mem_cons, List.not_mem_nil, or_false] at hb
      rcases hb with rfl | rfl <;> · rw [show ENET_ECNT.blk = Blk.enet from rfl] at hparts; simp only [blkNum] at hparts hk; omega
  mark u := by
    unfold noteMark
    split
    · simp only [only_look_iff, only_onlyIf_iff, only_acts_cons, only_acts_nil, within_setF, and_true]
      exact fun s _ => ⟨notEcnt_of_mod hn (Or.inl (by rw [fldKey_mod]; simp [hdrPoisoned])), raiseEvt_notEcnt hn (by decide) (by decide) _ _⟩
    · trivial

/-- What a released stream may change beside registers. -/
def releaseParts : List Part := .ues :: pfEndParts

theorem snapRelease_within {n : Nat} (hn : n < 10) (site : Nat) (hs : site < 256) (x : Snap) (whole : Bool) :
    (snapRelease site x whole).Within releaseParts (notEcnt n) := by
  have H := noteKeys_ecnt hn
  have hmem : ∀ {a : Act}, a.Within memParts (notEcnt n) → a.Within releaseParts (notEcnt n) := fun h => h.mono (by decide) fun _ h => h
  refine (only_look_iff _ _).2 fun s => ?_
  simp only [only_acts_cons, only_acts_nil, only_each_iff, only_look_iff, only_onlyIf_iff, within_setF, and_true]
  refine ⟨fun c _ => ⟨⟨hmem (H.touchLocal _ _), fun t => hmem (H.writeLocal _ _)⟩, fun _ => ⟨hmem (H.touchLocal _ _), fun t => hmem (H.writeLocal _ _)⟩,
    fun t => hmem (H.hbmPut _ _)⟩, hmem (H.hbmPut _ _), (within_updUe _ _).2 (by decide),
    notEcnt_blk hn UPDT_SNAP_STATE site 0 (by decide) hs (by decide), fun _ => ⟨(sendTarget0_within _ _).mono (by decide) fun k hk => ?_,
      raiseEvt_notEcnt hn (by decide) (by decide) _ _⟩⟩
  rcases hk with rfl | rfl | hk
  · exact notEcnt_blk hn PRES_READY_CNT 0 0 (by decide) (by decide) (by decide)
  · exact notEcnt_blk hn LINK_LDCNT 0 0 (by decide) (by decide) (by decide)
  · exact notEcnt_of_event hn hk

/-! ### Queue pairs -/

theorem qpOf_updQp_self (s : State) (q : Nat) (f : Qp → Qp) : qpOf ((updQp q f).run s) q = f (qpOf s q) :=
  (qpOf_updQp s q q f).trans (if_pos rfl)

theorem qpOf_updQp_ne (s : State) (q j : Nat) (f : Qp → Qp) (h : j ≠ q) : qpOf ((updQp q f).run s) j = qpOf s j :=
  (qpOf_updQp s q j f).trans (if_neg h)

theorem qpOf_congr {s t : State} (h : t.eth = s.eth) (q : Nat) : qpOf t q = qpOf s q := by unfold qpOf; rw [h]

/-- A queue pair's streams that its error ends. -/
def streamsCut (q : Nat) (s : State) : Act := each (hbmSites s.build) fun n => match (ueSt s n).snap with
  | some x => onlyIf (x.sent && fb s UPDT_SNAP_ETH n && fv s UPDT_SNAP_QPN n == 0x100 + q) (snapRelease n x false)
  | none => .done

/-- A queue pair's context in ERROR. -/
def qpFailed (x : Qp) : Qp := { x with ctx := recSet x.ctx 0 1 (setBits (recLE x.ctx 0 1) 2 0 4), unacked := [] }

theorem qpError_run (s : State) (q : Nat) : (qpError q).run s = (streamsCut q s).run
    ((raiseEvt enetPg (2 ^ 17)).run ((ethCnt 9).run ((updQp q qpFailed).run s))) := by
  rw [qpError, run_look, run_acts_cons, run_acts_cons, run_acts_cons, run_acts_cons, runs_nil]
  rfl

theorem streamsCut_within {n : Nat} (hn : n < 10) (q : Nat) (s : State) : (streamsCut q s).Within releaseParts (notEcnt n) := by
  refine (only_each_iff _ _ _).2 fun k hk => ?_
  split
  · exact only_onlyIf _ _ _ fun _ => snapRelease_within hn k (by have := hbmSites_lt hk; omega) _ _
  · trivial

theorem pending_streamsCut (q : Nat) (s : State) (p : PageRef) (i : Nat) : (streamsCut q s).Stable fun t => pending t p i := by
  refine stable_each fun k _ => ?_
  split
  · exact stable_onlyIf fun _ => pending_snapRelease p i _ _ _
  · exact fun _ h => h

theorem streamsCut_none (q : Nat) (s t : State) (h : ∀ m, (ueSt s m).snap = none) : (streamsCut q s).run t = t := by
  refine run_each_same _ _ t fun n _ => ?_
  rw [h n]
  rfl

/-- What the error of a queue pair brings about. -/
structure QpErred (s t : State) (q : Nat) : Prop where
  qp : qpOf t q = qpFailed (qpOf s q)
  others : ∀ j, j ≠ q → qpOf t j = qpOf s j
  count : counted s t ENET_ECNT 0 9 1
  counts : ∀ n, n < 9 → fv t ENET_ECNT 0 n = fv s ENET_ECNT 0 n
  event : pending t enetPg 17
  mem : (∀ m, (ueSt s m).snap = none) → t.mem = s.mem

theorem qpError_errs (s : State) (q : Nat) : QpErred s ((qpError q).run s) q := by
  rw [qpError_run]
  have hwithin := fun n hn => streamsCut_within (n := n) hn q s
  have heth : ((streamsCut q s).run ((raiseEvt enetPg (2 ^ 17)).run ((ethCnt 9).run ((updQp q qpFailed).run s)))).eth =
      ((updQp q qpFailed).run s).eth :=
    ((hwithin 0 (by decide)).same .eth (by decide) _).trans ((raiseEvt_within enetPg _).same .eth (by decide) _)
  have hcnt : ∀ n, n < 10 → fv ((streamsCut q s).run ((raiseEvt enetPg (2 ^ 17)).run ((ethCnt 9).run ((updQp q qpFailed).run s)))) ENET_ECNT 0 n =
      fv ((ethCnt 9).run ((updQp q qpFailed).run s)) ENET_ECNT 0 n := fun n hn => by
    rw [(hwithin n hn).fv _ ENET_ECNT 0 n fun h => h rfl,
      (raiseEvt_notEcnt hn (ps := [.events, .out]) (by decide) (by decide) enetPg _).fv _ ENET_ECNT 0 n fun h => h rfl]
  refine ⟨?_, fun j hj => ?_, ?_, fun n hn => ?_, pending_streamsCut q s _ _ _ (pending_raiseEvt _ _ _ _ (by decide) (by decide)), fun h => ?_⟩
  · rw [qpOf_congr heth, qpOf_updQp_self]
  · rw [qpOf_congr heth, qpOf_updQp_ne _ _ _ _ hj]
  · rw [counted, hcnt 9 (by decide)]
    exact fv_incF_word ((updQp q qpFailed).run s) ENET_ECNT 0 9 rfl rfl
  · rw [hcnt n (by omega), ethCnt, cnt, fv_incF_page _ ENET_ECNT ENET_ECNT 1 0 9 n rfl (by decide) (Or.inl (by simp only [ENET_ECNT]; omega))]
    rfl
  · rw [streamsCut_none q s _ h]
    exact (raiseEvt_within enetPg _).same .mem (by decide) _

/-! ### Records of a context -/

theorem recSet_eq (r : List Byte) (o n v : Nat) : recSet r o n v = putAt r o (leBytes n v) := by
  rw [recSet, putAt, length_leBytes]

theorem qcState_failed (x : Qp) : qcState (qpFailed x).ctx = 4 := by
  have hlt := recLE_lt x.ctx 0 1
  have h := recLE_putAt_in x.ctx 0 0 1 (leBytes 1 (setBits (recLE x.ctx 0 1) 2 0 4)) (by rw [length_leBytes]) (by omega)
  rw [Nat.zero_add, recLE_leBytes] at h
  rw [qcState, qpFailed, recSet_eq, h]
  simp only [setBits, bits]
  omega

/-- A context in ERROR is its own failure. -/
theorem recSet_failed (c : List Byte) (hc : c ≠ []) (h4 : qcState c = 4) : recSet c 0 1 (setBits (recLE c 0 1) 2 0 4) = c := by
  obtain ⟨b, l, rfl⟩ := List.exists_cons_of_ne_nil hc
  have hb : recLE (b :: l) 0 1 = b.toNat := by
    show b.toNat + 256 * 0 = _
    omega
  have hlt : b.toNat < 256 := b.isLt
  rw [qcState, hb] at h4
  have hset : setBits b.toNat 2 0 4 = b.toNat := by
    simp only [setBits, bits] at h4 ⊢
    omega
  rw [hb, hset, recSet]
  simp [leBytes]

/-- The PSN expected next. -/
theorem qcRqPsn_recSet (c : List Byte) (h : 15 ≤ c.length) (v : Nat) (hv : v < 2 ^ 24) : qcRqPsn (recSet c 12 3 v) = v := by
  have := recLE_putAt_in c 12 0 3 (leBytes 3 v) (by rw [length_leBytes]) (by omega)
  rw [qcRqPsn, recSet_eq, this, recLE_leBytes]
  exact Nat.mod_eq_of_lt hv

theorem qcPmtu_recSet (c : List Byte) (h : 12 ≤ c.length) (v : Nat) : qcPmtu (recSet c 12 3 v) = qcPmtu c := by
  rw [qcPmtu, qcPmtu, recSet_eq, recLE_putAt_before _ _ _ _ _ (by decide) h]

end Sys2Proof.Machine
end

section
/-! PROOF. Queue-pair contexts and memory windows are posted and loaded (R390, R391). -/

namespace Sys2Proof.Machine

/-! ### Contexts posted -/

theorem ctxStaged_length (s : State) : (ctxStaged s).length = 64 := by simp [ctxStaged, length_leBytes]

theorem ctxStaged_congr {s t : State} (h : ∀ n, n < 16 → fv t ENET_CTX_W 0 n = fv s ENET_CTX_W 0 n) : ctxStaged t = ctxStaged s := by
  unfold ctxStaged
  rw [List.flatMap_def, List.flatMap_def]
  exact congrArg List.flatten (List.map_congr_left fun n hn => by rw [h n (List.mem_range.1 hn)])

/-- What a post of a context leaves. -/
structure CtxPosted (s t : State) (i : Nat) (c : List Byte) : Prop where
  ctx : (qpOf t i).ctx = c
  reset : qcState c = 0 → qpOf t i = { Qp.init with ctx := c }
  error : qcState c = 4 → qcState (qpOf s i).ctx ≠ 4 → (qpOf t i).unacked = [] ∧ counted s t ENET_ECNT 0 9 1 ∧ pending t enetPg 17
  others : ∀ j, j ≠ i → qpOf t j = qpOf s j

theorem qpApply_posts (s : State) (i : Nat) (c : List Byte) (hc : c ≠ []) : CtxPosted s ((qpApply i c).run s) i c := by
  rw [qpApply, run_look]
  dsimp only
  by_cases h : qcState c = 4 ∧ qcState (qpOf s i).ctx ≠ 4
  · rw [if_pos h, run_acts_cons, run_acts_cons, runs_nil]
    have he := qpError_errs ((updQp i fun x => { x with ctx := c }).run s) i
    have hq := he.qp
    rw [qpOf_updQp_self] at hq
    refine ⟨?_, fun h0 => absurd (h0.symm.trans h.1) (by decide), fun _ _ => ⟨by rw [hq]; rfl, he.count, he.event⟩, fun j hj => ?_⟩
    · rw [hq]
      exact recSet_failed c hc h.1
    · rw [he.others j hj, qpOf_updQp_ne _ _ _ _ hj]
  · rw [if_neg h]
    refine ⟨?_, fun h0 => ?_, fun h4 hold => absurd ⟨h4, hold⟩ h, fun j hj => qpOf_updQp_ne _ _ _ _ hj⟩
    · rw [qpOf_updQp_self]
      split <;> rfl
    · rw [qpOf_updQp_self, if_pos h0]

/-! ### Rows that write CTX_CMD -/

/-- A row that writes CTX_CMD. -/
theorem exec_ctx_row (s : State) (c : Instr) (r : Requester) (v : Nat) (hc : rowWrite s c = some (r, mgdReg 2 0x0C0, 4, v))
    (h : accepted s r (mgdReg 2 0x0C0) 4 v = true) (hv : v < 2 ^ 32) : ∃ u, exec c s = .next (answered ((ctxApply v).run u) r (mgdReg 2 0x0C0)) ∧
      u.eth = s.eth ∧ u.mem = s.mem ∧ u.syn = s.syn ∧ u.written = s.written ∧
      (∀ f n, f.blk = .enet → f.off + n * f.stride ≠ 0x0C0 → fv u f 0 n = fv s f 0 n) ∧ firstErr (ctxErrs s v) = .ok := by
  obtain ⟨d, hd⟩ : ∃ d, regAt .enet 0x0C0 = some (d, 0x0C0) := ⟨_, rfl⟩
  obtain ⟨hrun, hchk⟩ := exec_page_row s c r _ 0x0C0 v enetPg d 0x0C0 hc h (pageOf_mgdReg s 2 0x0C0 (by decide) (by decide))
    (raOff_mgdReg 2 0x0C0 (by decide) (by decide)) hd ⟨by decide, by decide, by decide⟩ hv rfl
  have happly : hookApply s enetPg 0x0C0 v = onlyIf true (ctxApply v) := rfl
  rw [happly, run_onlyIf_of_true _ _ rfl] at hrun
  refine ⟨_, hrun, rfl, rfl, rfl, rfl, fun f n hb hne => fv_stored_other s enetPg d 0x0C0 v f 0 n ?_, hchk⟩
  show regKey f.blk 0 _ ≠ regKey .enet 0 0x0C0
  rw [hb]
  unfold regKey
  generalize blkNum .enet = b
  omega

theorem ctxStaged_of_kept {s u : State} (hf : ∀ f n, f.blk = .enet → f.off + n * f.stride ≠ 0x0C0 → fv u f 0 n = fv s f 0 n) :
    ctxStaged u = ctxStaged s := ctxStaged_congr fun n hn => hf ENET_CTX_W n rfl (by simp only [ENET_CTX_W]; omega)

theorem qpContextPost_posts (s : State) (r : Requester) (v : Nat) (hv : v < 2 ^ 32) (h : accepted s r (mgdReg 2 0x0C0) 4 v = true)
    (hgo : bit v 31 = true) (hk : bit v 16 = false) :
    ∃ t, exec (.qpContextPost r v) s = .next t ∧ CtxPosted s t (bits v 7 0) (ctxStaged s) := by
  obtain ⟨u, hrun, heth, -, -, -, hf, -⟩ := exec_ctx_row s (.qpContextPost r v) r v (if_pos ⟨hgo, hk⟩) h hv
  refine ⟨_, hrun, ?_⟩
  have happly : (ctxApply v).run u = (qpApply (bits v 7 0) (ctxStaged s)).run u := by
    rw [ctxApply, runs_look, if_pos hgo, if_neg (by rw [hk]; decide), ctxStaged_of_kept hf]
  rw [happly]
  have hlen := ctxStaged_length s
  have hp := qpApply_posts u (bits v 7 0) (ctxStaged s) (by intro h0; rw [h0] at hlen; cases hlen)
  refine ⟨hp.ctx, hp.reset, fun h4 hold => ?_, fun j hj => (hp.others j hj).trans (qpOf_congr heth j)⟩
  obtain ⟨h1, h2, h3⟩ := hp.error h4 (by rw [qpOf_congr heth]; exact hold)
  rw [counted, hf ENET_ECNT 9 rfl (by decide)] at h2
  exact ⟨h1, h2, h3⟩

theorem windowPost_posts (s : State) (r : Requester) (v : Nat) (hv : v < 2 ^ 32) (h : accepted s r (mgdReg 2 0x0C0) 4 v = true)
    (hgo : bit v 31 = true) (hk : bit v 16 = true) :
    ∃ t, exec (.windowPost r v) s = .next t ∧ winOf t (bits v 7 0) = (ctxStaged s).take 32 ∧
      (∀ j, j ≠ bits v 7 0 → winOf t j = winOf s j) ∧ t.eth.qps = s.eth.qps ∧ memKept s t := by
  obtain ⟨u, hrun, heth, hm, hs, hw, hf, -⟩ := exec_ctx_row s (.windowPost r v) r v (if_pos ⟨hgo, hk⟩) h hv
  have happly : (ctxApply v).run u = (updEth fun e => { e with wins := mapSet winDefault e.wins (bits v 7 0) ⟨(ctxStaged s).take 32, 0⟩ }).run u := by
    rw [ctxApply, runs_look, if_pos hgo, if_pos hk, ctxStaged_of_kept hf]
  rw [happly] at hrun
  refine ⟨_, hrun, ?_, fun j hj => ?_, (congrArg Eth.qps heth : u.eth.qps = _), memKept_of_eq hm hs hw⟩
  · exact congrArg MemWin.rec_ (mapGet_mapSet_self winDefault u.eth.wins _ _)
  · refine (congrArg MemWin.rec_ ((mapGet_mapSet winDefault u.eth.wins _ _ j).trans (if_neg hj))).trans ?_
    rw [heth]
    rfl

theorem contextLoad_loads (s : State) (r : Requester) (v : Nat) (hv : v < 2 ^ 32) (h : accepted s r (mgdReg 2 0x0C0) 4 v = true)
    (hld : bit v 30 = true) :
    ∃ t, exec (.contextLoad r v) s = .next t ∧ t.eth = s.eth ∧ memKept s t ∧
      ∀ k, 4 * k + 4 ≤ (if bit v 16 then winOf s (bits v 7 0) else (qpOf s (bits v 7 0)).ctx).length → fv t ENET_CTX_W 0 k =
        recLE (if bit v 16 then winOf s (bits v 7 0) else (qpOf s (bits v 7 0)).ctx) (4 * k) 4 := by
  obtain ⟨u, hrun, heth, hm, hs, hw, hf, hok⟩ := exec_ctx_row s (.contextLoad r v) r v (if_pos hld) h hv
  have hgo : bit v 31 = false := by
    have := firstErr_when_ok (by decide) (firstErr_append_ok (firstErr_append_ok hok).1).2
    rw [hld, Bool.and_true] at this
    exact (Bool.or_eq_false_iff.1 this).1
  have hrec : (if bit v 16 then winOf u (bits v 7 0) else (qpOf u (bits v 7 0)).ctx) =
      if bit v 16 then winOf s (bits v 7 0) else (qpOf s (bits v 7 0)).ctx := by
    unfold winOf qpOf
    rw [heth]
  generalize (if bit v 16 then winOf s (bits v 7 0) else (qpOf s (bits v 7 0)).ctx) = c at hrec
  have happly : (ctxApply v).run u = (each (List.range (c.length / 4)) fun k => setF ENET_CTX_W (recLE c (4 * k) 4) 0 k).run u := by
    rw [ctxApply, runs_look, if_neg (by rw [hgo]; decide), run_onlyIf_of_true _ _ hld, hrec]
  rw [happly] at hrun
  have hwithin : (each (List.range (c.length / 4)) fun k => setF ENET_CTX_W (recLE c (4 * k) 4) 0 k).Within [] fun _ => True :=
    (only_each_iff _ _ _).2 fun k _ => (within_setF _ _ _ _).2 trivial
  refine ⟨_, hrun, (hwithin.same .eth (by decide) u).trans heth, memKept_of_eq ((hwithin.same .mem (by decide) u).trans hm)
    ((hwithin.same .syn (by decide) u).trans hs) ((hwithin.same .written (by decide) u).trans hw), fun k hk => ?_⟩
  have hget := each_setF_get ENET_CTX_W (fun k => recLE c (4 * k) 4) 0 ⟨by decide, by decide⟩ (by decide) (c.length / 4) u k (by omega)
  simp only [Nat.zero_add] at hget
  exact hget.trans (Nat.mod_eq_of_lt (recLE_lt c (4 * k) 4))

end Sys2Proof.Machine
end

section
/-! PROOF. What a responder makes of WRITEs, READs and SENDs (R392). -/

namespace Sys2Proof.Machine

/-! ### Requests -/

/-- A queue pair that answers requests. -/
structure Answers (s : State) (r : RdmaReq) : Prop where
  qp : r.qp < 256
  up : fb s ENET_LINK_UP = true
  ready : qcState (qpOf s r.qp).ctx = 2 ∨ qcState (qpOf s r.qp).ctx = 3
  ce : r.ce = false

theorem Answers.congr {s t : State} {r : RdmaReq} (h : Answers s r) (heth : t.eth = s.eth) (hup : fb t ENET_LINK_UP = fb s ENET_LINK_UP) :
    Answers t r := ⟨h.qp, hup.trans h.up, by rw [qpOf_congr heth]; exact h.ready, h.ce⟩

theorem cnpSend_plain (s : State) (r : RdmaReq) (h : r.ce = false) : (cnpSend r).run s = s := by
  rw [cnpSend, runs_look]
  exact run_onlyIf_of_false _ _ (by rw [h]; rfl)

theorem rdmaRequest_run (s : State) (r : RdmaReq) (again work : Act) (h : Answers s r) : (rdmaRequest r again work).run s =
    (if r.psn = qcRqPsn (qpOf s r.qp).ctx then work else if psnBehind r.psn (qcRqPsn (qpOf s r.qp).ctx) then again
      else emit (.rdma r.qp 1 (qcRqPsn (qpOf s r.qp).ctx) 0 [nakSeq])).run s := by
  obtain ⟨hq, hup, hready, hce⟩ := h
  rw [rdmaRequest, runs_look]
  dsimp only
  rw [run_onlyIf_of_true _ _ (by rcases hready with h | h <;> simp [hq, hup, h]), run_acts_cons, run_acts_cons, runs_nil,
    cnpSend_plain s r hce]

theorem rdmaRequest_expected (s : State) (r : RdmaReq) (again work : Act) (h : Answers s r) (hp : r.psn = qcRqPsn (qpOf s r.qp).ctx) :
    (rdmaRequest r again work).run s = work.run s := by
  rw [rdmaRequest_run s r again work h, if_pos hp]

theorem rdmaRequest_repeated (s : State) (r : RdmaReq) (again work : Act) (h : Answers s r)
    (hp : psnBehind r.psn (qcRqPsn (qpOf s r.qp).ctx) = true) : (rdmaRequest r again work).run s = again.run s := by
  have hne : r.psn ≠ qcRqPsn (qpOf s r.qp).ctx := fun he => by
    rw [psnBehind, he] at hp
    simp at hp
  rw [rdmaRequest_run s r again work h, if_neg hne, if_pos hp]

/-- The PSN expected passes a message. -/
theorem rqAdvance_psn (s : State) (q n : Nat) (h : (qpOf s q).ctx.length = 64) :
    qcRqPsn (qpOf ((rqAdvance q n).run s) q).ctx = psnAdd (qcRqPsn (qpOf s q).ctx) n ∧
      qcPmtu (qpOf ((rqAdvance q n).run s) q).ctx = qcPmtu (qpOf s q).ctx := by
  have hq : qpOf ((rqAdvance q n).run s) q =
      { qpOf s q with ctx := recSet (qpOf s q).ctx 12 3 (psnAdd (qcRqPsn (qpOf s q).ctx) n) } := qpOf_updQp_self s q _
  rw [hq]
  exact ⟨qcRqPsn_recSet _ (by omega) _ (Nat.mod_lt _ (by decide)), qcPmtu_recSet _ (by omega) _⟩

/-! ### Bytes stored -/

theorem putLocal_still (s : State) (a : Nat) (data : List Byte) (u : MemUnit) (off : Nat) (hs : still s) (hp : placeOf s a = .mem u off) :
    ∃ w, (putLocal a data).run s = { s with mem := memAfter s.mem [⟨u, off, data, []⟩], written := w } := by
  have hf : (data.map fun b => (b, false)).map Prod.fst = data := by simp [List.map_map, Function.comp_def]
  obtain ⟨w, h⟩ := memWrite_calm s u off data ((data.map fun b => (b, false)).map Prod.snd) hs.1 (hs.2 u) (by simp)
  refine ⟨w, ?_⟩
  rw [putLocal, writeLocal, runs_look, hp]
  dsimp only
  rw [hf, h]

/-! ### Remote Access Error -/

/-- What a queue pair's error leaves pending. -/
theorem pending_qpError (q : Nat) (p : PageRef) (i : Nat) : (qpError q).Stable fun s => pending s p i := fun s h => by
  rw [qpError_run]
  refine pending_streamsCut q s p i _ (pending_event enetPg _ (by decide) p i _ (pending_incF ENET_ECNT 1 0 9 (by decide) p i _ ?_))
  exact h

/-- A NAK Remote Access Error that stops its queue pair. -/
theorem accessNak_stops (s : State) (r : RdmaReq) : ((∀ m, (ueSt s m).snap = none) → ((accessNak r true).run s).mem = s.mem) ∧
    .rdma r.qp 1 r.psn 0 [nakAccess] ∈ ((accessNak r true).run s).out ∧ qcState (qpOf ((accessNak r true).run s) r.qp).ctx = 4 ∧
    counted s ((accessNak r true).run s) ENET_ECNT 0 5 1 ∧ pending ((accessNak r true).run s) enetPg 19 := by
  obtain ⟨u, hu⟩ : ∃ u, u = (raiseEvt enetPg (2 ^ 19)).run ((ethCnt 5).run ((emit (.rdma r.qp 1 r.psn 0 [nakAccess])).run s)) := ⟨_, rfl⟩
  have hrun : (accessNak r true).run s = (qpError r.qp).run u := by
    rw [accessNak, run_acts_cons, run_acts_cons, run_acts_cons, run_acts_cons, runs_nil, runs_true, hu]
  have hw := raiseEvt_notEcnt (n := 5) (ps := [.events, .out]) (by decide) (by decide) (by decide) enetPg (2 ^ 19)
  have he := qpError_errs u r.qp
  rw [hrun]
  refine ⟨fun h => ?_, ?_, ?_, ?_, ?_⟩
  · have hues : u.ues = s.ues := by rw [hu]; exact hw.same .ues (by decide) _
    refine (he.mem fun m => ?_).trans (by rw [hu]; exact hw.same .mem (by decide) _)
    rw [ueSt, hues]
    exact h m
  · refine out_mono _ u _ ?_
    rw [hu]
    exact out_mono _ _ _ (List.mem_cons_self ..)
  · rw [he.qp, qcState_failed]
  · rw [counted, he.counts 5 (by decide), hu, hw.fv _ ENET_ECNT 0 5 fun h => h rfl]
    exact fv_incF_word ((emit (.rdma r.qp 1 r.psn 0 [nakAccess])).run s) ENET_ECNT 0 5 rfl rfl
  · refine pending_qpError r.qp enetPg 19 u ?_
    rw [hu]
    exact pending_raiseEvt _ _ _ _ (by decide) (by decide)

/-! ### WRITE and READ -/

section
variable {s : State} {r : RdmaReq} (key va : Nat) (data : List Byte) {w : List Byte} {u : MemUnit} {off : Nat} (ha : Answers s r)
  (hlen : (qpOf s r.qp).ctx.length = 64) (hw : winByKey s key = some w) (hheld : rangeHeld s va data.length = false) (hc : calm s)

include ha hheld in
theorem rdmaWrite_repeated (hp : psnBehind r.psn (qcRqPsn (qpOf s r.qp).ctx) = true) :
    exec (.rdmaWriteRequest r key va data) s = .next { s with
      out := .rdma r.qp 0 (psnAdd r.psn (packets s r.qp data.length - 1)) 0 [] :: s.out } := by
  show Host.Outcome.next ((rdmaWrite r key va data).run s) = _
  rw [rdmaWrite, runs_look]
  dsimp only
  rw [run_onlyIf_of_true _ _ (by rw [hheld]; rfl), rdmaRequest_repeated s r _ _ ha hp]
  rfl

variable (hp : r.psn = qcRqPsn (qpOf s r.qp).ctx)

include ha hlen hw hheld hc hp in
theorem rdmaWrite_stores (herr : rangeErrs s va data.length = []) (hplace : placeOf s va = .mem u off)
    (hwin : winAllows w wnWrite r.qp va data.length = true) (hal : isHbmAddr s va = true → va % 32 = 0 ∧ data.length % 32 = 0)
    (href : writeRefused s va data.length = false) : ∃ t, exec (.rdmaWriteRequest r key va data) s = .next t ∧
      t.mem = memAfter s.mem [⟨u, off, data, []⟩] ∧ qcRqPsn (qpOf t r.qp).ctx = psnAdd r.psn (packets s r.qp data.length) ∧
      t.out = .rdma r.qp 0 (psnAdd r.psn (packets s r.qp data.length - 1)) 0 [] :: s.out := by
  have hal' : (isHbmAddr s va && (va % 32 != 0 || data.length % 32 != 0)) = false := by
    cases hh : isHbmAddr s va with
    | false => rfl
    | true => simp [hal hh]
  obtain ⟨x, hput⟩ := putLocal_still s va data u off (still_of_calm hc) hplace
  have hrun : exec (.rdmaWriteRequest r key va data) s = .next ((ackSend r (packets s r.qp data.length)).run
      ((rqAdvance r.qp (packets s r.qp data.length)).run { s with mem := memAfter s.mem [⟨u, off, data, []⟩], written := x })) := by
    show Host.Outcome.next ((rdmaWrite r key va data).run s) = _
    rw [rdmaWrite, runs_look]
    dsimp only
    rw [run_onlyIf_of_true _ _ (by rw [hheld]; rfl), rdmaRequest_expected s r _ _ ha hp, hw]
    dsimp only
    rw [if_neg (by rw [hwin]; decide), if_neg (by rw [hal']; decide), herr, if_neg (by simp), if_neg (by rw [href]; decide), run_acts_cons, run_acts_cons,
      run_acts_cons, runs_nil, hput]
  refine ⟨_, hrun, rfl, ?_, rfl⟩
  have h := (rqAdvance_psn { s with mem := memAfter s.mem [⟨u, off, data, []⟩], written := x } r.qp (packets s r.qp data.length) hlen).1
  rw [hp]
  exact h

include ha hw hheld hp in
theorem rdmaWrite_denied (hwin : winAllows w wnWrite r.qp va data.length = false) :
    exec (.rdmaWriteRequest r key va data) s = .next ((accessNak r true).run s) := by
  show Host.Outcome.next ((rdmaWrite r key va data).run s) = _
  rw [rdmaWrite, runs_look]
  dsimp only
  rw [run_onlyIf_of_true _ _ (by rw [hheld]; rfl), rdmaRequest_expected s r _ _ ha hp, hw]
  dsimp only
  rw [if_pos (by rw [hwin]; decide)]

/-- A READ of one packet answers its data. -/
theorem readPackets_one (s : State) (r : RdmaReq) (va pmtu : Nat) (bs : List (Byte × Bool)) (hl : bs.length ≤ pmtu)
    (hm : bs.any Prod.snd = false) : (readPackets r va pmtu 1 0 bs).run s =
      { s with out := .rdma r.qp 3 (psnAdd r.psn 0) va (bs.map Prod.fst) :: s.out } := by
  have hx : bs.take pmtu = bs := List.take_of_length_le hl
  have hfind : bs.findIdx? Prod.snd = none := List.findIdx?_eq_none_iff.2 fun x h => by
    rw [List.any_eq_false] at hm
    simpa using hm x h
  rw [readPackets, hx, hfind]
  dsimp only
  rw [run_acts_cons, run_acts_cons, runs_nil, readPackets, Nat.zero_mul, Nat.add_zero]
  rfl

theorem packets_one (s : State) (q n : Nat) (h : n ≤ qcPmtu (qpOf s q).ctx) : packets s q n = 1 := by
  have hpos : 0 < qcPmtu (qpOf s q).ctx := Nat.mul_pos (by decide) (Nat.pow_pos (by decide))
  have : ceilDiv n (qcPmtu (qpOf s q).ctx) ≤ 1 := by
    refine Nat.le_of_lt_succ ((Nat.div_lt_iff_lt_mul hpos).2 ?_)
    omega
  unfold packets
  omega

include ha hlen hw hc hp in
theorem rdmaRead_answers (n : Nat) (hheld : rangeHeld s va n = false) (herr : rangeErrs s va n = [])
    (hwin : winAllows w wnRead r.qp va n = true) (hn : n ≤ qcPmtu (qpOf s r.qp).ctx) :
    ∃ t, exec (.rdmaReadRequest r key va n) s = .next t ∧ t.mem = s.mem ∧ qcRqPsn (qpOf t r.qp).ctx = psnAdd r.psn 1 ∧
      t.out = .rdma r.qp 3 (psnAdd r.psn 0) va ((readLocal s va n).map Prod.fst) :: s.out := by
  obtain ⟨x, hx⟩ : ∃ x, x = (rqAdvance r.qp 1).run s := ⟨_, rfl⟩
  obtain ⟨hpsn, hpmtu⟩ := rqAdvance_psn s r.qp 1 hlen
  rw [← hx] at hpsn hpmtu
  have hread : readLocal x va n = readLocal s va n :=
    readLocal_congr (by rw [hx]; rfl) (by rw [hx]; rfl) (by rw [hx]; rfl) (by rw [hx]; rfl) (fun f _ i => by rw [hx]; rfl) va n
  have htouch : (touchLocal va n).run x = x := touchLocal_calm x va n (by rw [hx]; exact hc.1) (by rw [hx]; exact hc.2.1)
  have hrun : exec (.rdmaReadRequest r key va n) s = .next { x with
      out := .rdma r.qp 3 (psnAdd r.psn 0) va ((readLocal s va n).map Prod.fst) :: x.out } := by
    show Host.Outcome.next ((rdmaRead r key va n).run s) = _
    rw [rdmaRead, runs_look]
    dsimp only
    rw [run_onlyIf_of_true _ _ (by rw [hheld]; rfl), rdmaRequest_expected s r _ _ ha hp, hw]
    dsimp only
    rw [if_neg (by rw [hwin]; decide), herr, if_neg (by simp), run_acts_cons, run_acts_cons, runs_nil, packets_one s r.qp n hn, ← hx, readAnswer,
      run_acts_cons, run_acts_cons, runs_nil, htouch, runs_look, packets_one x r.qp n (by rw [hpmtu]; exact hn), hread,
      readPackets_one x r va _ _ (by rw [readLocal_length, hpmtu]; exact hn) (readLocal_unmarked s va n hc.1)]
  refine ⟨_, hrun, by rw [hx]; rfl, ?_, by rw [hx]; rfl⟩
  rw [hp]
  exact hpsn

end

end Sys2Proof.Machine
end

section
/-! PROOF. SENDs, acknowledgements and timeouts of queue pairs (R392, R393). -/

namespace Sys2Proof.Machine

/-! ### SEND -/

/-- What a SEND that meets its ring window finds. -/
structure SendMeets (s : State) (r : RdmaReq) (data : List Byte) (i : Nat) (w : List Byte) (a : Nat) : Prop where
  answers : Answers s r
  psn : r.psn = qcRqPsn (qpOf s r.qp).ctx
  win : i = qcRecvWin (qpOf s r.qp).ctx
  record : w = winOf s i
  addr : a = wnBase w + (mapGet winDefault s.eth.wins i).sends % max 1 (wnLen w / max 1 (wnSlot w)) * wnSlot w
  rq : i ≠ 63
  on : wnEn w = true
  allowed : winAllows w wnRing r.qp a (wnSlot w) = true
  fits : data.length ≤ wnSlot w
  range : rangeHeld s a data.length = false
  tile : tileHeld s (wnTile w) = false

/-- What a SEND in its turn does, its ring window met. -/
def sendTaken (s : State) (r : RdmaReq) (data : List Byte) (i : Nat) (w : List Byte) (a : Nat) : Act :=
  if tok s (physOf s (wnTile w)) (wnCnt w) == 0 then acts [emit (.rdma r.qp 2 r.psn 0 []), ethCnt 7]
  else if !(rangeErrs s a data.length).isEmpty then accessNak r false
  else if writeRefused s a data.length then accessNak r true
  else acts [subToken (physOf s (wnTile w)) (wnCnt w) 1, putLocal a data,
    updEth fun e => { e with wins := mapSet winDefault e.wins i ⟨w, (mapGet winDefault e.wins i).sends + 1⟩ },
    rqAdvance r.qp (packets s r.qp data.length), sendTarget0 (srcOf enetPg) (qcSendDone (qpOf s r.qp).ctx), ackSend r (packets s r.qp data.length)]

section
variable {s : State} {r : RdmaReq} {data : List Byte} {i : Nat} {w : List Byte} {a : Nat} (h : SendMeets s r data i w a)

include h in
theorem rdmaSend_run : exec (.rdmaSend r data) s = .next ((sendTaken s r data i w a).run s) := by
  obtain ⟨ha, hp, hi, hw, haddr, hrq, hon, hwin, hfit, hrange, htile⟩ := h
  show Host.Outcome.next ((rdmaSend r data).run s) = _
  rw [rdmaSend, runs_look]
  dsimp only
  rw [← hi, ← hw, ← haddr, run_onlyIf_of_true _ _ (by rw [hrange, htile]; rfl), rdmaRequest_expected s r _ _ ha hp,
    if_neg (by rw [hon, hwin]; simp), if_neg (by simp [hrq]; omega)]
  rfl

include h in
/-- Without a credit a SEND is told to come again. -/
theorem rdmaSend_rnr (ht : tok s (physOf s (wnTile w)) (wnCnt w) = 0) : ∃ t, exec (.rdmaSend r data) s = .next t ∧ t.mem = s.mem ∧
    t.out = .rdma r.qp 2 r.psn 0 [] :: s.out ∧ counted s t ENET_ECNT 0 7 1 ∧ qpOf t r.qp = qpOf s r.qp := by
  have hrun := rdmaSend_run h
  rw [sendTaken, if_pos (by rw [ht]; rfl), run_acts_cons, run_acts_cons, runs_nil] at hrun
  exact ⟨_, hrun, rfl, rfl, fv_incF_word ((emit (.rdma r.qp 2 r.psn 0 [])).run s) ENET_ECNT 0 7 rfl rfl, rfl⟩

theorem wnCnt_lt (w : List Byte) : wnCnt w < 256 := recLE_lt w 28 1

include h in
theorem rdmaSend_stores (hlen : (qpOf s r.qp).ctx.length = 64) (hc : calm s) {u : MemUnit} {off : Nat}
    (hphys : physOf s (wnTile w) < 160) (ht : tok s (physOf s (wnTile w)) (wnCnt w) ≠ 0)
    (herr : rangeErrs s a data.length = []) (href : writeRefused s a data.length = false) (hplace : placeOf s a = .mem u off) :
    ∃ t, exec (.rdmaSend r data) s = .next t ∧
      tok t (physOf s (wnTile w)) (wnCnt w) = tok s (physOf s (wnTile w)) (wnCnt w) - 1 ∧
      t.mem = memAfter s.mem [⟨u, off, data, []⟩] ∧ (mapGet winDefault t.eth.wins i).sends = (mapGet winDefault s.eth.wins i).sends + 1 ∧
      qcRqPsn (qpOf t r.qp).ctx = psnAdd r.psn (packets s r.qp data.length) ∧
      .rdma r.qp 0 (psnAdd r.psn (packets s r.qp data.length - 1)) 0 [] ∈ t.out := by
  have hrun := rdmaSend_run h
  rw [sendTaken, if_neg (by simp [ht]), herr, if_neg (by simp), if_neg (by rw [href]; decide)] at hrun
  simp only [run_acts_cons, runs_nil] at hrun
  have hp := h.psn
  have hcnt := wnCnt_lt w
  generalize physOf s (wnTile w) = p at hrun hphys ht ⊢
  generalize wnCnt w = c at hrun ht hcnt ⊢
  generalize packets s r.qp data.length = k at hrun ⊢
  generalize qcSendDone (qpOf s r.qp).ctx = x at hrun
  have hsub : (subToken p c 1).Within [] (offBlk .intg) := fun s => (within_setF _ _ _ _).2 (Or.inr (by
    have := (fldKey_parts TILE_TOKEN p c (by omega) (by simp only [TILE_TOKEN]; omega)).1
    rw [this]; decide))
  have hlt : tok s p c < 2 ^ 20 := fv_lt s TILE_TOKEN p c
  have htok : tok ((subToken p c 1).run s) p c = tok s p c - 1 :=
    (fv_setF_self s TILE_TOKEN (tok s p c - 1) p c ⟨by decide, by decide⟩).trans (Nat.mod_eq_of_lt (by simp only [TILE_TOKEN]; omega))
  have heth : ((subToken p c 1).run s).eth = s.eth := hsub.same .eth (by decide) s
  have hmem : ((subToken p c 1).run s).mem = s.mem := hsub.same .mem (by decide) s
  have hstill := still_within hsub (by decide) s (still_of_calm hc)
  have hplace' : placeOf ((subToken p c 1).run s) a = .mem u off := (placeOf_same (hsub.build s) (hsub.same .units (by decide) s) a).trans hplace
  generalize (subToken p c 1).run s = s1 at *
  obtain ⟨x1, hput⟩ := putLocal_still s1 a data u off hstill hplace'
  rw [hput] at hrun
  have hsend := sendTarget0_within (srcOf enetPg) x
  have hkeep : ∀ y, tok ((sendTarget0 (srcOf enetPg) x).run y) p c = tok y p c := fun y =>
    (sendTarget0_off (b := .tile) (by decide) (srcOf enetPg) x).fv y TILE_TOKEN p c
      (not_offBlk TILE_TOKEN p c (by omega) (by simp only [TILE_TOKEN]; omega) (by simp only [TILE_TOKEN]; omega))
  refine ⟨_, hrun, (hkeep _).trans htok, ?_, ?_, ?_, List.mem_cons_self ..⟩
  · exact (hsend.same .mem (by decide) _).trans (by rw [← hmem]; rfl)
  · refine (congrArg (fun e : Eth => (mapGet winDefault e.wins i).sends) (hsend.same .eth (by decide) _)).trans ?_
    rw [← heth]
    exact congrArg MemWin.sends (mapGet_mapSet_self winDefault s1.eth.wins i _)
  · refine (congrArg (fun q : Qp => qcRqPsn q.ctx) (qpOf_congr (hsend.same .eth (by decide) _) r.qp)).trans ?_
    rw [hp, ← qpOf_congr heth]
    rw [← qpOf_congr heth] at hlen
    exact (rqAdvance_psn _ r.qp k hlen).1

end

end Sys2Proof.Machine
end

section
/-! PROOF. Acknowledgements and timeouts of queue pairs; queue pairs as a whole (R390 to R393). -/

namespace Sys2Proof.Machine

/-! ### Packets sent again -/

/-- Packets emitted and counted. -/
def resend (q : Nat) (l : List (Nat × Nat × List Byte)) : Act := each l fun x => acts [emit (.rdma q 4 x.1 x.2.1 x.2.2), ethCnt 8]

theorem qpResend_run (s : State) (q : Nat) : (qpResend q).run s = (resend q (qpOf s q).unacked).run s := by
  rw [qpResend, runs_look]
  rfl

theorem resend_within (q : Nat) (l : List (Nat × Nat × List Byte)) : (resend q l).Within [.out] fun _ => True :=
  (only_each_iff _ _ _).2 fun x _ => by
    simp only [only_acts_cons, only_acts_nil, and_true, ethCnt, cnt, within_incF, only_upd_iff, emit]
    simp [Upd.within]

theorem qpOf_resend (s : State) (q j : Nat) (l : List (Nat × Nat × List Byte)) : qpOf ((resend q l).run s) j = qpOf s j :=
  qpOf_congr ((resend_within q l).same .eth (by decide) s) j

theorem resend_sends (s : State) (q : Nat) (l : List (Nat × Nat × List Byte)) :
    ∀ z ∈ l, .rdma q 4 z.1 z.2.1 z.2.2 ∈ ((resend q l).run s).out := by
  induction l generalizing s with
  | nil => exact fun z hz => absurd hz List.not_mem_nil
  | cons x l ih =>
    intro z hz
    rw [resend, run_each_cons]
    rcases List.mem_cons.1 hz with rfl | hz
    · refine out_mono _ _ _ ?_
      rw [run_acts_cons, run_acts_cons, runs_nil]
      exact out_mono _ _ _ (List.mem_cons_self ..)
    · exact ih _ z hz

/-- Every packet sent again is counted. -/
theorem resend_counts (s : State) (q : Nat) (l : List (Nat × Nat × List Byte)) : counted s ((resend q l).run s) ENET_ECNT 0 8 l.length := by
  induction l generalizing s with
  | nil =>
    have := fv_lt s ENET_ECNT 0 8
    rw [resend, runs_each_nil]
    simp only [ENET_ECNT] at this ⊢
    simp only [counted, List.length_nil]
    omega
  | cons x l ih =>
    have h : fv ((acts [emit (.rdma q 4 x.1 x.2.1 x.2.2), ethCnt 8]).run s) ENET_ECNT 0 8 = min (2 ^ 32 - 1) (fv s ENET_ECNT 0 8 + 1) := by
      rw [run_acts_cons, run_acts_cons, runs_nil]
      exact fv_incF_word ((emit (.rdma q 4 x.1 x.2.1 x.2.2)).run s) ENET_ECNT 0 8 rfl rfl
    have := ih ((acts [emit (.rdma q 4 x.1 x.2.1 x.2.2), ethCnt 8]).run s)
    rw [counted, h] at this
    rw [counted, resend, run_each_cons, List.length_cons]
    refine this.trans ?_
    omega

/-! ### The end of streams -/

theorem streamsEnd_within (q : Nat) : (streamsEnd q).Within releaseParts (notEcnt 0) := by
  refine (only_look_iff _ _).2 fun s => only_onlyIf _ _ _ fun _ => (only_each_iff _ _ _).2 fun k hk => ?_
  have hlt : k < 256 := by have := hbmSites_lt hk; omega
  split
  · refine only_onlyIf _ _ _ fun _ => ?_
    simp only [only_acts_cons, only_acts_nil, within_setF, and_true]
    exact ⟨notEcnt_blk (by decide) UPDT_SNAP_STATE k 0 (by decide) hlt (by decide), snapRelease_within (by decide) k hlt _ _⟩
  · trivial

/-! ### Acknowledgements -/

/-- The packets an answer leaves unacknowledged: of an ACK, those after its PSN, else those from it on. -/
def keptBy (s : State) (q psn : Nat) (whole : Bool) : List (Nat × Nat × List Byte) :=
  (qpOf s q).unacked.filter fun z => !(z.1 == psn && whole || psnBehind z.1 psn)

/-- The retries an answer leaves. -/
def retriesAfter (y : Qp) (psn kind : Nat) : Nat :=
  if kind = 1 then y.retries else if y.unacked.any (fun z => z.1 == psn && kind == 0 || psnBehind z.1 psn) || kind = 0 then 0 else y.retries

/-- A queue pair that an answer has released packets of. -/
def released (y : Qp) (psn kind : Nat) : Qp := { y with
  unacked := y.unacked.filter fun z => !(z.1 == psn && kind == 0 || psnBehind z.1 psn)
  retries := retriesAfter y psn kind }

/-- What an answer brings about, its packets released. -/
def ackWork (x : Qp) (q kind : Nat) : Act := match kind with
  | 0 => streamsEnd q
  | 1 => if qcRnrRetry x.ctx ≤ x.retries then qpError q else acts [updQp q fun y => { y with retries := y.retries + 1 }, qpResend q]
  | 2 => qpResend q
  | _ => qpError q

section
variable {s : State} {q : Nat} (psn : Nat) (hq : q < 256) (hup : fb s ENET_LINK_UP = true) (h3 : qcState (qpOf s q).ctx = 3)
  (hu : (qpOf s q).unacked ≠ [])

include hq hup h3 hu in
theorem ackReceive_run (kind : Nat) : exec (.rdmaAckReceive q psn kind) s =
    .next ((ackWork (qpOf s q) q kind).run ((updQp q fun y => released y psn kind).run s)) := by
  show Host.Outcome.next ((ackReceive q psn kind).run s) = _
  have hgo : (256 ≤ q || !fb s ENET_LINK_UP || qcState (qpOf s q).ctx != 3 || (qpOf s q).unacked.isEmpty) = false := by
    simp [hup, h3, hu]; omega
  rw [ackReceive, runs_look]
  dsimp only
  rw [if_neg (by rw [hgo]; decide), run_acts_cons, run_acts_cons, runs_nil]
  rfl

include hq hup h3 hu in
theorem ackReceive_acked : ∃ t, exec (.rdmaAckReceive q psn 0) s = .next t ∧ (qpOf t q).unacked = keptBy s q psn true ∧
    (qpOf t q).retries = 0 ∧ qcState (qpOf t q).ctx = 3 := by
  have hqp : ∀ u, qpOf ((streamsEnd q).run u) q = qpOf u q := fun u => qpOf_congr ((streamsEnd_within q).same .eth (by decide) u) q
  refine ⟨_, ackReceive_run psn hq hup h3 hu 0, ?_, ?_, ?_⟩ <;> rw [ackWork, hqp, qpOf_updQp_self]
  · rfl
  · rw [released, retriesAfter, if_neg (by decide), if_pos (by simp)]
  · exact h3

include hq hup h3 hu in
theorem ackReceive_sequence : ∃ t, exec (.rdmaAckReceive q psn 2) s = .next t ∧ (qpOf t q).unacked = keptBy s q psn false ∧
    ∀ z ∈ keptBy s q psn false, .rdma q 4 z.1 z.2.1 z.2.2 ∈ t.out := by
  have hl : (qpOf ((updQp q fun y => released y psn 2).run s) q).unacked = keptBy s q psn false := by rw [qpOf_updQp_self]; rfl
  refine ⟨_, ackReceive_run psn hq hup h3 hu 2, ?_, ?_⟩ <;> rw [ackWork, qpResend_run, hl]
  · rw [qpOf_resend, hl]
  · exact resend_sends _ q _

include hq hup h3 hu in
theorem ackReceive_rnr (hr : (qpOf s q).retries < qcRnrRetry (qpOf s q).ctx) : ∃ t, exec (.rdmaAckReceive q psn 1) s = .next t ∧
    (qpOf t q).retries = (qpOf s q).retries + 1 ∧ ∀ z ∈ keptBy s q psn false, .rdma q 4 z.1 z.2.1 z.2.2 ∈ t.out := by
  have hqp : qpOf ((updQp q fun y => { y with retries := y.retries + 1 }).run ((updQp q fun y => released y psn 1).run s)) q =
      { released (qpOf s q) psn 1 with retries := (qpOf s q).retries + 1 } := by rw [qpOf_updQp_self, qpOf_updQp_self]; rfl
  have hrun := ackReceive_run psn hq hup h3 hu 1
  rw [ackWork, if_neg (by omega), run_acts_cons, run_acts_cons, runs_nil, qpResend_run] at hrun
  refine ⟨_, hrun, ?_, ?_⟩
  · rw [qpOf_resend, hqp]
  · rw [hqp]
    exact resend_sends _ q _

include hq hup h3 hu in
theorem ackReceive_refused : ∃ t, exec (.rdmaAckReceive q psn 3) s = .next t ∧ qcState (qpOf t q).ctx = 4 ∧ (qpOf t q).unacked = [] ∧
    pending t enetPg 17 := by
  have he := qpError_errs ((updQp q fun y => released y psn 3).run s) q
  refine ⟨_, ackReceive_run psn hq hup h3 hu 3, ?_, ?_, he.event⟩
  · exact (congrArg (fun x : Qp => qcState x.ctx) he.qp).trans (qcState_failed _)
  · exact (congrArg Qp.unacked he.qp)

/-! ### Timeouts -/

include hq h3 hu in
theorem ackTimeout_again (hr : (qpOf s q).retries < qcRetry (qpOf s q).ctx) : ∃ t, exec (.rdmaAckTimeout q) s = .next t ∧
    qpOf t q = { qpOf s q with retries := (qpOf s q).retries + 1 } ∧ (∀ z ∈ (qpOf s q).unacked, .rdma q 4 z.1 z.2.1 z.2.2 ∈ t.out) ∧
    counted s t ENET_ECNT 0 8 (qpOf s q).unacked.length := by
  have hgo : (256 ≤ q || qcState (qpOf s q).ctx != 3 || (qpOf s q).unacked.isEmpty) = false := by simp [h3, hu]; omega
  have hqp := qpOf_updQp_self s q fun y => { y with retries := y.retries + 1 }
  have hrun : exec (.rdmaAckTimeout q) s =
      .next ((resend q (qpOf s q).unacked).run ((updQp q fun y => { y with retries := y.retries + 1 }).run s)) := by
    show Host.Outcome.next ((ackTimeout q).run s) = _
    rw [ackTimeout, runs_look]
    dsimp only
    rw [if_neg (by rw [hgo]; decide), if_neg (by omega), run_acts_cons, run_acts_cons, runs_nil, qpResend_run, hqp]
  exact ⟨_, hrun, (qpOf_resend _ q q _).trans hqp, resend_sends _ q _, resend_counts _ q _⟩

include hq h3 hu in
theorem ackTimeout_stops (hr : qcRetry (qpOf s q).ctx ≤ (qpOf s q).retries) : ∃ t, exec (.rdmaAckTimeout q) s = .next t ∧
    qcState (qpOf t q).ctx = 4 ∧ (qpOf t q).unacked = [] ∧ counted s t ENET_ECNT 0 9 1 ∧ pending t enetPg 17 := by
  have hgo : (256 ≤ q || qcState (qpOf s q).ctx != 3 || (qpOf s q).unacked.isEmpty) = false := by simp [h3, hu]; omega
  have hrun : exec (.rdmaAckTimeout q) s = .next ((qpError q).run s) := by
    show Host.Outcome.next ((ackTimeout q).run s) = _
    rw [ackTimeout, runs_look]
    dsimp only
    rw [if_neg (by rw [hgo]; decide), if_pos hr]
  have he := qpError_errs s q
  exact ⟨_, hrun, by rw [he.qp, qcState_failed], by rw [he.qp]; rfl, he.count, he.event⟩

end

/-! ### Queue pairs -/

/-- Settles O52: posts and loads go through the row that writes CTX_CMD; a request in its turn reaches the responder's checks one after
another; answers and timeouts release packets, send them again or stop the queue pair. -/
theorem queuePairsMoveData : Obligations.QueuePairsMoveData := by
  refine ⟨fun s r v hv h => ⟨fun hgo hk => ?_, fun hgo hk => windowPost_posts s r v hv h hgo hk,
      fun hld _ => contextLoad_loads s r v hv h hld⟩,
    fun s r key va n data w u off hq hup hready hce hlen hw hn hheld hc => ?_,
    fun s r data u off hq hup hce hready hlen hp hi hon hphys hwin hfit hrange htile hc => ?_,
    fun s q psn hq hup h3 hu => ⟨ackReceive_acked psn hq hup h3 hu, ackReceive_sequence psn hq hup h3 hu,
      fun hr => ackReceive_rnr psn hq hup h3 hu hr, ackReceive_refused psn hq hup h3 hu⟩,
    fun s q hq h3 hu => ⟨fun hr => ackTimeout_again hq h3 hu hr, fun hr => ackTimeout_stops hq h3 hu hr⟩⟩
  · obtain ⟨t, hrun, hp⟩ := qpContextPost_posts s r v hv h hgo hk
    exact ⟨t, hrun, hp.ctx, hp.reset, hp.error, hp.others⟩
  · subst hn
    have ha : Answers s r := ⟨hq, hup, hready, hce⟩
    refine ⟨rdmaWrite_repeated key va data ha hheld, fun hp herr hplace => ⟨fun hwin hal href =>
      rdmaWrite_stores key va data ha hlen hw hheld hc hp herr hplace hwin hal href, fun hwin => ?_, fun hwin hpm =>
      rdmaRead_answers key va ha hlen hw hc hp _ hheld herr hwin hpm⟩⟩
    exact ⟨_, rdmaWrite_denied key va data ha hw hheld hp hwin, accessNak_stops s r⟩
  · have hm : SendMeets s r data _ _ _ := ⟨⟨hq, hup, hready, hce⟩, hp, rfl, rfl, rfl, hi, hon, hwin, hfit, hrange, htile⟩
    exact ⟨fun ht => rdmaSend_rnr hm ht, fun ht herr href hplace => rdmaSend_stores hm hlen hc hphys ht herr href hplace⟩

end Sys2Proof.Machine
end

section
/-! PROOF. An authenticated command that stages an image (R398 to R411): the words that its checks read may be noted in the registers of
the measurement slots. -/

namespace Sys2Proof.Machine

/-! ### A command that is taken -/

/-- The registers and the effect of a command stand between the counter's store and the response. -/
theorem commandExec_taken {s : State} {m : SlqMsg} (h : commandTaken s m = true) (h3 : cmCode (slPayload m.bytes) = 1) :
    (commandExec m.ip (slPayload m.bytes) (slqFinish m)).run (opened s m) =
      (slqFinish m .ok 0 []).run ((fwInstall (cmBody (slPayload m.bytes)) (slPayload m.bytes)).run (commandBegun s m)) := by
  simp only [commandTaken, Bool.and_eq_true, beq_iff_eq] at h
  obtain ⟨-, herr, htarget⟩ := h
  have hrun : commandRun (slPayload m.bytes) = fwInstall (cmBody (slPayload m.bytes)) (slPayload m.bytes) := by
    unfold commandRun
    rw [h3]
    rfl
  have htgt : ∀ t, commandTarget t (slPayload m.bytes) = some (coloPg, 0x340, fwErrs t (cmBody (slPayload m.bytes))) := fun t => by
    unfold commandTarget
    rw [h3]
    rfl
  rw [htgt] at htarget
  rw [commandExec, runs_look]
  dsimp only
  rw [if_neg (by rw [herr]; decide), run_acts_cons, run_acts_cons, runs_nil, runs_look, htgt]
  dsimp only at htarget ⊢
  rw [if_neg (by rw [beq_iff_eq.1 htarget]; decide), run_acts_cons, run_acts_cons, run_acts_cons, runs_nil, hrun]
  rfl

/-- FW_INSTALL STAGE of an image that can be read. -/
theorem fwStage_taken {s : State} {m : SlqMsg} {i : List Byte} (h : commandTaken s m = true) (hr : slqRow m.bytes = some .fwStage)
    (h3 : cmCode (slPayload m.bytes) = 1) (hop : recLE (cmBody (slPayload m.bytes)) 0 1 = 1)
    (hi : imageAt (commandBegun s m) (recLE (cmBody (slPayload m.bytes)) 8 8) (recLE (cmBody (slPayload m.bytes)) 16 4) = some i) :
    exec (.fwStage m) s = .next ((slqFinish m .ok 0 []).run ((fwStage (recLE (cmBody (slPayload m.bytes)) 1 1) i (slPayload m.bytes)).run
      ((setWords COLO_FW_CMD 0 8 (cmBody (slPayload m.bytes))).run (commandBegun s m)))) := by
  have htaken : slaiqTaken s m = true := by
    simp only [commandTaken, Bool.and_eq_true] at h
    exact h.1.1
  have hwork : slqWork .fwStage none m (slqFinish m) = commandExec m.ip (slPayload m.bytes) (slqFinish m) := rfl
  rw [slaiqRow_taken s m (.fwStage, .fwStage) (by simp [slaiqRows]) htaken hr, hwork, commandExec_taken h h3, fwInstall, runs_look]
  dsimp only
  rw [if_pos hop, hi, run_acts_cons, run_acts_cons, runs_nil]

/-- A staged image and its command are measured into slot 7. -/
theorem slotBytes_fwStage (s : State) (comp : Nat) (i p : List Byte) :
    slotBytes ((fwStage comp i p).run s) 7 = extended (extended (slotBytes s 7) (sha512 i ++ [BitVec.ofNat 8 comp])) p := by
  rw [fwStage, run_acts_cons, run_acts_cons, run_acts_cons, runs_nil, slotBytes_extendSlot, slotBytes_extendSlot]
  rfl

theorem slotBytes_setFwCmd (s : State) (b : List Byte) (h : b.length = 24) : slotBytes ((setWords COLO_FW_CMD 0 8 b).run s) 7 = slotBytes s 7 := by
  refine slotBytes_kept (setWords_within COLO_FW_CMD 0 8 b) 7 (fun key hk hw => ?_) s
  obtain ⟨i, hi, rfl⟩ := hw
  obtain ⟨-, -, hlt⟩ := slotKey_bounds (by decide) hk
  rw [fldKey_mod] at hlt
  simp only [COLO_FW_CMD] at hlt
  omega

/-- FW_INSTALL STAGE measures the image and the command into slot 7 as its checks left it. -/
theorem fwStage_slot7 {s t : State} {m : SlqMsg} {i b p : List Byte} (h : commandTaken s m = true) (hr : slqRow m.bytes = some .fwStage)
    (hp : slPayload m.bytes = p) (hb : cmBody p = b) (h3 : cmCode p = 1) (hlen : b.length = 24) (hop : recLE b 0 1 = 1)
    (hi : imageAt (commandBegun s m) (recLE b 8 8) (recLE b 16 4) = some i) (ht : exec (.fwStage m) s = .next t) :
    slotBytes t 7 = extended (extended (slotBytes (commandBegun s m) 7) (sha512 i ++ [BitVec.ofNat 8 (recLE b 1 1)])) p := by
  subst hp hb
  obtain rfl := Host.Outcome.next.inj (ht.symm.trans (fwStage_taken h hr h3 hop hi))
  have hkept : ∀ u : State, slotBytes ((slqFinish m .ok 0 []).run u) 7 = slotBytes u 7 := fun u => by
    obtain ⟨l, hfin⟩ := slqFinish_eq u m .ok 0 []
    rw [hfin]
    rfl
  rw [hkept, slotBytes_fwStage, slotBytes_setFwCmd _ _ hlen]

end Sys2Proof.Machine
end

section
/-! PROOF. An image read through a curvature view whose slot no stack of the device holds (R202, R410). -/

namespace Sys2Proof.Machine

/-! ### A request to stage a device configuration image -/

/-- A device configuration image is accepted by what it holds, once its place is. -/
theorem fwErrs_config (s : State) (b i : List Byte) (h1 : recLE b 0 1 = 1) (h5 : recLE b 1 1 = 5)
    (hp : firstErr (imageErrs s (recLE b 8 8) (recLE b 16 4)) = .ok) (hi : imageAt s (recLE b 8 8) (recLE b 16 4) = some i) :
    fwErrs s b = when (!zeroField b 2 6 || !zeroField b 20 4) .rsvdSet ++
      (imageErrs s (recLE b 8 8) (recLE b 16 4) ++ [confCode s 1 (some i)]) := by
  have hf : when (!(1 == 1 || 1 == 2) || decide (5 = 0) || decide (5 < 5)) ErrCode.fieldRange = [] := rfl
  unfold fwErrs
  simp only [h1, h5, hp, hi, if_true, ne_eq, not_true_eq_false, if_false, hf, List.append_nil]

/-- A command that stages an image is taken as its checks have it. -/
theorem commandTaken_stage {s t : State} {m : SlqMsg} {p : List Byte} (hp : slPayload m.bytes = p) (h3 : cmCode p = 1)
    (ht : (commandTouch p).run (opened s m) = t) (hs : (slaiqTaken s m && slType m.bytes == 5) = true)
    (hc : firstErr (commandErrs (opened s m) m.ip p) = .ok) (hf : firstErr (targetPageErrs t coloPg ++ fwErrs t (cmBody p)) = .ok) :
    commandTaken s m = true := by
  subst hp ht
  have htgt : ∀ t, commandTarget t (slPayload m.bytes) = some (coloPg, 0x340, fwErrs t (cmBody (slPayload m.bytes))) := fun t => by
    unfold commandTarget
    rw [h3]
    rfl
  unfold commandTaken
  rw [hs]
  dsimp only
  rw [htgt, hc]
  dsimp only
  rw [hf]
  rfl

/-- A command's counter is stored beside everything an image's bytes depend on. -/
theorem imageAt_counterStore (s : State) (p : List Byte) (a n : Nat) : imageAt ((counterStore p).run s) a n = imageAt s a n := by
  have hread : readLocal ((counterStore p).run s) a n = readLocal s a n := by
    refine readLocal_congr (s := s) (t := (counterStore p).run s) rfl rfl rfl rfl (fun f hf i => ?_) a n
    refine fv_setF_other _ SLQP_LAST_COUNTER f (cmCounter p) 0 (cmKey p % 4) i 0 (by decide) (Or.inl fun h => ?_)
    have hk := congrArg (· % 4096) h
    simp only [fldKey_mod] at hk
    simp only [List.mem_cons, List.not_mem_nil, or_false] at hf
    rcases hf with rfl | rfl | rfl <;> · simp only [UPDT_CURV_EN, UPDT_CURV_COUNT, UPDT_CURV_BASE, SLQP_LAST_COUNTER] at hk; omega
  unfold imageAt
  rw [hread]

/-! ### Images read through a view -/

theorem rangesMeet_after (a n b m : Nat) (h : a + n ≤ b) : rangesMeet (a, n) (b, m) = false := by
  simp only [rangesMeet, Bool.and_eq_false_iff, decide_eq_false_iff_not]
  omega

theorem find_view (v : View) (y : Nat) : List.find? (fun v => rangesMeet v.range (y, 1)) [v] = if rangesMeet v.range (y, 1) then some v else none := by
  rw [List.find?_cons]
  cases rangesMeet v.range (y, 1) <;> rfl

/-- Where a range meets one view, in its first word, and that word alone has anything to note, reading it is reading that word. -/
theorem touchLocal_first {s t : State} {a n x w off : Nat} {ws : List Nat} {u : MemUnit} {v : View} (hp : placeOf s a = .mem u off)
    (hv : viewsMet s a n = [v]) (hw : wordsOf (.dmem 0) a n = w :: ws) (hm : rangesMeet v.range (w, 1) = true)
    (hx : viewByte s v (w - v.range.1) = .inr x) (ht : (touch (.hbm (x / 2 ^ 36)) (hbmOff x) 8).run s = t)
    (hrest : ∀ y ∈ ws, rangesMeet v.range (y, 1) = false) (hsyn : t.syn = []) (hfree : ∀ y ∈ ws, anyWriteFirst t (.hbm (y / 2 ^ 36)) = false) :
    (touchLocal a n).run s = t := by
  rw [touchLocal, runs_look]
  dsimp only
  rw [hp, hv, hw]
  dsimp only
  rw [if_neg (by simp), run_each_cons, find_view, if_pos hm]
  dsimp only
  rw [hx]
  dsimp only
  rw [ht]
  refine run_each_same _ _ t fun y hy => ?_
  rw [find_view, if_neg (by rw [hrest y hy]; decide)]
  dsimp only
  rw [touch, runs_look, if_pos (by rw [hsyn, hfree y hy]; rfl)]
  rfl

/-- Where a range of HBM meets one view, in its first byte, and memory has no check bits set, its bytes are the view's and memory's. -/
theorem readLocal_first {s : State} {a n x off : Nat} {u : MemUnit} {v : View} (hsyn : s.syn = []) (hp : placeOf s a = .mem u off)
    (hv : viewsMet s a n = [v]) (hend : v.range.1 + v.range.2 = a + 1) (hbegin : v.range.1 ≤ a) (hx : viewByte s v (a - v.range.1) = .inr x) :
    readLocal s a n = (List.range n).map fun i => (rawByte s (if i = 0 then x else a + i), false) := by
  have hread : ∀ b, (deliverByte s (.hbm (b / 2 ^ 36)) (hbmOff b), markedAt s (.hbm (b / 2 ^ 36)) (hbmOff b)) = (rawByte s b, false) := fun b => by
    have hk : muBase (.hbm (b / 2 ^ 36)) + hbmOff b = b := by
      simp only [muBase, hbmOff]
      omega
    have h0 : ∀ k, synAt s k = 0 := fun k => by rw [synAt, hsyn]; rfl
    rw [markedAt, hsyn, deliverByte, hk]
    simp only [muBytewise, h0]
    rfl
  unfold readLocal
  dsimp only
  rw [hp, hv]
  dsimp only
  rw [if_neg (by simp)]
  refine List.map_congr_left fun i _ => ?_
  by_cases hi : i = 0
  · rw [if_pos hi, hi, Nat.add_zero, find_view, if_pos (by simp [rangesMeet]; omega)]
    dsimp only
    rw [hx]
    exact hread x
  · rw [if_neg hi, find_view, if_neg (by simp [rangesMeet]; omega)]
    exact hread (a + i)

/-- Bytes from an address on, as cells of memory. -/
def cellsAt : Nat → List Byte → List Host.Cell
  | _, [] => []
  | a, b :: bs => (a, b) :: cellsAt (a + 1) bs

theorem mapGet_cellsAt (a : Nat) (bs : List Byte) (m : List Host.Cell) (k : Nat) : mapGet memDefault (cellsAt a bs ++ m) k =
    if a ≤ k ∧ k < a + bs.length then bs.getD (k - a) 0 else mapGet memDefault m k := by
  induction bs generalizing a with
  | nil => rw [if_neg (by simp)]; rfl
  | cons b bs ih =>
    rw [cellsAt, List.cons_append, mapGet, ih, List.length_cons]
    by_cases hk : a = k
    · rw [if_pos hk, if_pos (by omega), hk, Nat.sub_self]
      rfl
    · rw [if_neg hk]
      by_cases hr : a + 1 ≤ k ∧ k < a + 1 + bs.length
      · rw [if_pos hr, if_pos (by omega), show k - a = (k - (a + 1)) + 1 by omega]
        rfl
      · rw [if_neg hr, if_neg (by omega)]

/-! ### An image behind a stray view -/

/-- A modulus of 4,096 bits whose powers are easily undone. -/
def cubeModulus : Nat := 3 ^ 2584

/-- The exponent that undoes the public one: 65,537 times it is 1 beyond a multiple of 2·3^2583. -/
def cubeExponent : Nat := (1 + 35332 * (2 * 3 ^ 2583)) / 65537

/-- Where the image stands, in site 1. -/
def viewedAt : Nat := 2 ^ 36 + 0x10000

/-- A device configuration image of one entry, but for its signature. -/
def viewedFields : List Byte := leBytes 4 0xC0F10009 ++ leBytes 2 0x0101 ++ leBytes 2 1 ++ List.replicate 72 0

/-- The image, signed by its owner. -/
def viewedImage : List Byte := viewedFields ++ pssSign cubeModulus cubeExponent viewedFields (List.replicate 64 0)

/-- A curvature record whose first view ends with the image's first byte, its installed slot in the stack of a site 848. -/
def strayRecord : List Byte :=
  leBytes 4 1 ++ leBytes 4 1 ++ List.replicate 40 0 ++ leBytes 8 (848 * 2 ^ 36 - 229375) ++ leBytes 8 (viewedAt - 36863) ++ List.replicate 64 0

/-- FW_INSTALL STAGE of the image as component 5. -/
def viewedBody : List Byte := [1, 5] ++ List.replicate 6 0 ++ leBytes 8 viewedAt ++ leBytes 4 592 ++ List.replicate 4 0

/-- The command's fields before its tag: key 0, counter 1. -/
def viewedHead : List Byte := leBytes 2 1 ++ leBytes 2 0 ++ leBytes 2 24 ++ leBytes 2 0 ++ leBytes 8 1

/-- The command, with its tag under key 0. -/
def viewedPayload : List Byte :=
  viewedHead ++ (hmac512 [1] (viewedHead.take 6 ++ viewedBody ++ leBytes 8 1 ++ serialBytes State.reset)).take 32 ++ viewedBody

/-- The request that carries it. -/
def viewedMsg : SlqMsg := ⟨5, 6, 0, slMessage 5 0 0 9 0 viewedPayload⟩

/-- A device under its owner that takes the request: site 1 in service, its table of one curvature record, the image in its stack
but for the first byte, which the view reads from a word of stack 848 whose check bits have an error and whose address is a candidate
for a remap; and with bit 63 set in every word of slots 4 to 6. -/
def viewedState : State := { (acts [setF ENET_LINK_UP 1, setF ENET_MTU 9000, setF SLQP_ALLOW_EN 1, setF SLQP_CMD_OK 1, setF SLQP_SESSION_IDLE 1000,
  updUnits fun u => { u with up := [.stack 1] },
  updNv fun v => { v with
    owner := some (cubeModulus, 0)
    keys := [[1], [], [], []] },
  setF UPDT_CURV_EN 1 1, setF UPDT_CURV_COUNT 1 1, setF UPDT_CURV_BASE (2 ^ 36 + 0x2000) 1,
  upd (.syn (848 * 2 ^ 36) [1]), upd (.cands 1024 [848 * 2 ^ 36]),
  each (List.range 24) fun i => setF COLO_MSLOT (2 ^ 63) 0 (32 + i)]).run State.reset with
    mem := cellsAt (2 ^ 36 + 0x2000) strayRecord ++ (cellsAt viewedAt viewedImage ++ cellsAt (848 * 2 ^ 36) [9]) }

/-- The view of the record's first factor. -/
def strayView : View := ⟨1, 0, 0, strayRecord⟩

/-- The state in which the checks of the command run: the image's words are read, and one is corrected. -/
def viewedTouched : State := (touch (.hbm 848) 0 8).run (opened viewedState viewedMsg)

theorem viewed_payload : slPayload viewedMsg.bytes = viewedPayload := by decide +kernel

theorem viewed_body : cmBody viewedPayload = viewedBody := by decide +kernel

theorem viewed_command : slqRow viewedMsg.bytes = some .fwStage ∧ cmCode viewedPayload = 1 ∧ viewedBody.length = 24 ∧
    recLE viewedBody 0 1 = 1 ∧ recLE viewedBody 1 1 = 5 ∧ recLE viewedBody 8 8 = viewedAt ∧ recLE viewedBody 16 4 = 592 := by decide +kernel

/-! ### Its words are read -/

theorem viewed_syn : viewedTouched.syn = [] := by decide +kernel

theorem viewed_mem : viewedTouched.mem = viewedState.mem := by decide +kernel

theorem viewed_view : placeOf viewedTouched viewedAt = .mem (.hbm 1) 0x10000 ∧ viewsMet viewedTouched viewedAt 592 = [strayView] ∧
    viewByte viewedTouched strayView 36863 = .inr (848 * 2 ^ 36) ∧ anyWriteFirst viewedTouched (.hbm 1) = false := by decide +kernel

theorem viewed_opened : placeOf (opened viewedState viewedMsg) viewedAt = .mem (.hbm 1) 0x10000 ∧
    viewsMet (opened viewedState viewedMsg) viewedAt 592 = [strayView] ∧
    viewByte (opened viewedState viewedMsg) strayView 36863 = .inr (848 * 2 ^ 36) := by decide +kernel

theorem viewed_range : strayView.range = (viewedAt - 36863, 36864) := by decide +kernel

/-- The image's first byte lies in the view. -/
theorem viewed_first {s : State} (h : viewByte s strayView 36863 = .inr (848 * 2 ^ 36)) :
    viewByte s strayView (viewedAt - strayView.range.1) = .inr (848 * 2 ^ 36) := by
  have hoff : viewedAt - (viewedAt - 36863) = 36863 := by decide
  rw [viewed_range, hoff]
  exact h

/-- The words after the image's first one. -/
def viewedWords : List Nat := (List.range 73).map fun i => viewedAt + 8 + 8 * i

theorem viewed_words : wordsOf (.dmem 0) viewedAt 592 = viewedAt :: viewedWords := by decide +kernel

theorem viewed_touchLocal : (touchLocal viewedAt 592).run (opened viewedState viewedMsg) = viewedTouched := by
  obtain ⟨hp, hv, hx⟩ := viewed_opened
  obtain ⟨-, -, -, hfree⟩ := viewed_view
  have hword : ∀ y ∈ viewedWords, ∃ i, i < 73 ∧ y = viewedAt + 8 + 8 * i := fun y hy => by
    obtain ⟨i, hi, rfl⟩ := List.mem_map.1 hy
    exact ⟨i, List.mem_range.1 hi, rfl⟩
  have hunit : 848 * 2 ^ 36 / 2 ^ 36 = 848 ∧ hbmOff (848 * 2 ^ 36) = 0 := by decide
  refine touchLocal_first hp hv viewed_words (by rw [viewed_range]; decide) (viewed_first hx) (by rw [hunit.1, hunit.2, viewedTouched])
    (fun y hy => ?_) viewed_syn fun y hy => ?_ <;> obtain ⟨i, hi, rfl⟩ := hword y hy
  · rw [viewed_range]
    exact rangesMeet_after _ _ _ _ (by simp only [viewedAt]; omega)
  · rw [show (viewedAt + 8 + 8 * i) / 2 ^ 36 = 1 by simp only [viewedAt]; omega]
    exact hfree

theorem viewed_touch : (commandTouch viewedPayload).run (opened viewedState viewedMsg) = viewedTouched := by
  obtain ⟨-, -, -, -, -, haddr, hn⟩ := viewed_command
  have hrow : cmRow viewedPayload = some .fwStage := by decide +kernel
  have hok : (firstErr (imageErrs (opened viewedState viewedMsg) viewedAt 592) == .ok) = true := by decide +kernel
  rw [commandTouch, hrow, viewed_body]
  dsimp only
  rw [haddr, hn, imageTouch, runs_look, run_onlyIf_of_true _ _ hok, run_acts_cons, run_acts_cons, runs_nil, viewed_touchLocal, runs_look,
    run_onlyIf_of_false _ _ (readLocal_unmarked _ _ _ viewed_syn)]

theorem viewedImage_length : viewedImage.length = 592 := by decide +kernel

/-- The bytes that the view and memory hold are the image's. -/
theorem viewed_byte (i : Nat) (hi : i < 592) : rawByte viewedTouched (if i = 0 then 848 * 2 ^ 36 else viewedAt + i) = viewedImage.getD i 0 := by
  have hrec : strayRecord.length = 128 := by decide +kernel
  have h9 : viewedImage.getD 0 0 = 9 := by decide +kernel
  rw [rawByte, viewed_mem, viewedState, mapGet_cellsAt, mapGet_cellsAt, hrec, viewedImage_length]
  by_cases h0 : i = 0
  · rw [if_pos h0, if_neg (by omega), if_neg (by simp only [viewedAt]; omega), h0, h9]
    decide
  · rw [if_neg h0, if_neg (by simp only [viewedAt]; omega), if_pos (by omega), Nat.add_sub_cancel_left]

theorem viewed_imageAt : imageAt viewedTouched viewedAt 592 = some viewedImage := by
  obtain ⟨hp, hv, hx, -⟩ := viewed_view
  have hread : readLocal viewedTouched viewedAt 592 = (List.range 592).map fun i => (viewedImage.getD i 0, false) := by
    refine (readLocal_first viewed_syn hp hv ?_ ?_ (viewed_first hx)).trans (List.map_congr_left fun i hi => ?_)
    · rw [viewed_range]; decide
    · rw [viewed_range]; decide
    · rw [viewed_byte i (List.mem_range.1 hi)]
  have hall : (List.range 592).map (fun i => viewedImage.getD i 0) = viewedImage := by
    refine List.ext_getElem (by simp [viewedImage_length]) fun i h1 h2 => ?_
    rw [List.getElem_map, List.getElem_range, List.getD_eq_getElem _ _ h2]
  have hmarks := readLocal_unmarked viewedTouched viewedAt 592 viewed_syn
  rw [imageAt, hmarks, if_neg (by decide), hread, List.map_map]
  exact congrArg some hall

/-! ### The command is taken, and slot 7 starts from the note -/

theorem viewed_accepted : confCode viewedTouched 1 (some viewedImage) = .ok := by decide +kernel

theorem viewed_place : firstErr (imageErrs viewedTouched viewedAt 592) = .ok ∧
    firstErr (targetPageErrs viewedTouched coloPg ++ (when (!zeroField viewedBody 2 6 || !zeroField viewedBody 20 4) .rsvdSet ++
      (imageErrs viewedTouched viewedAt 592 ++ [.ok]))) = .ok := by decide +kernel

theorem viewed_request : (slaiqTaken viewedState viewedMsg && slType viewedMsg.bytes == 5) = true ∧
    firstErr (commandErrs (opened viewedState viewedMsg) viewedMsg.ip viewedPayload) = .ok := by decide +kernel

theorem viewed_taken : commandTaken viewedState viewedMsg = true := by
  obtain ⟨-, hcode, -, hop, hcomp, haddr, hn⟩ := viewed_command
  obtain ⟨hplace, herr⟩ := viewed_place
  refine commandTaken_stage viewed_payload hcode viewed_touch viewed_request.1 viewed_request.2 ?_
  rw [viewed_body, fwErrs_config viewedTouched viewedBody viewedImage hop hcomp (by rw [haddr, hn]; exact hplace)
    (by rw [haddr, hn]; exact viewed_imageAt), haddr, hn, viewed_accepted]
  exact herr

theorem viewed_begun : commandBegun viewedState viewedMsg = (counterStore viewedPayload).run viewedTouched := by
  rw [commandBegun, viewed_payload, viewed_touch]

theorem viewed_image : imageAt (commandBegun viewedState viewedMsg) viewedAt 592 = some viewedImage := by
  rw [viewed_begun, imageAt_counterStore, viewed_imageAt]

theorem viewed_slots : viewedState.nv.slots.length = 5 ∧ viewedState.nv.active.length = 5 := by decide +kernel

/-- The remap of the word that the checks correct is noted in slot 7's registers, and the slot's measurement starts from them. -/
theorem viewed_slot7 :
    extended (extended (slotBytes ((counterStore viewedPayload).run viewedTouched) 7) (sha512 viewedImage ++ [BitVec.ofNat 8 5])) viewedPayload ≠
      extended (extended (slotBytes viewedState 7) (sha512 viewedImage ++ [BitVec.ofNat 8 5])) viewedPayload := by decide +kernel

/-- Refutes O55: a curvature view may name a slot in a stack that the device does not have, and the INTG page of stack 848 has the
registers of COLO; the checks of FW_INSTALL read the image through the view, and the remap of the word they correct is noted in
measurement slot 7, so the slot is not extended from what it held. -/
theorem not_criticalCommandsTakeEffect : ¬ Obligations.CriticalCommandsTakeEffect := by
  unfold Obligations.CriticalCommandsTakeEffect
  intro h
  obtain ⟨-, hstage, -⟩ := h viewedState viewedMsg viewed_taken
  obtain ⟨hrow, hcode, hlen, hop, hcomp, haddr, hn⟩ := viewed_command
  rw [viewed_payload, viewed_body, haddr, hn, hcomp] at hstage
  obtain ⟨t, ht, -, -, hslot⟩ := hstage hrow viewed_slots.1 viewed_slots.2 viewedImage viewed_image
  have hchecked := fwStage_slot7 viewed_taken hrow viewed_payload viewed_body hcode hlen hop (by rw [haddr, hn]; exact viewed_image) ht
  rw [hcomp, viewed_begun] at hchecked
  exact viewed_slot7 (hchecked.symm.trans hslot)

end Sys2Proof.Machine
end
